-- ==== Sys2Proof/Word.lean ====
section
/-! DEFINITION. The word types of the VX8800: registers are 32 bits wide and memory is addressed by the byte (R11). -/

namespace Sys2Proof

/-- A 32-bit register or memory word. -/
abbrev Word := BitVec 32

/-- One byte of memory. -/
abbrev Byte := BitVec 8

end Sys2Proof
end

