-- ==== Sys2Proof/Syntax.lean ====
section
/-! DEFINITION. The commands of the VX8800: one constructor of Instr for every row of the opcode table, and the types of
their operands. -/

namespace Sys2Proof

/-- Who makes a bus access (R24, R25): a control engine, a thread of a safety core, a DMA channel, the debug module, or
KP, HK or SE firmware. -/
inductive Initiator where
  | ce (n : Fin 8)
  | sc (core : Fin 4) (thread : Fin 3)
  | dma (ch : Fin 32)
  | debug
  | kp
  | hk
  | se
  deriving DecidableEq, Repr

/-- One of the two outputs of a PWM module (R80). -/
inductive Side where
  | a
  | b
  deriving DecidableEq, Repr

/-- A word on a converter lane: the sample of an input voltage in microvolts (R157, R158), or a word as received, corrupted in
any bit (R161). -/
inductive LaneWord where
  | sample (v : Int)
  | raw (w : BitVec 16)
  deriving DecidableEq, Repr

/-- A request of an open session as it leaves its queue: the session's context, its sequence number and its payload. -/
structure Req where
  ctx : Fin 256
  seq : BitVec 16
  pay : List Byte
  deriving DecidableEq, Repr

/-- A CAN frame (R401, R405): fmt is 0 classical, 1 FD and 2 XL; len is the data length in bytes. -/
structure CanFrame where
  id : BitVec 29
  xtd : Bool
  rtr : Bool
  esi : Bool
  fmt : Fin 3
  brs : Bool
  sec : Bool
  sdt : Byte
  vcid : Byte
  af : Word
  data : List Byte
  deriving DecidableEq, Repr

/-- How a transmission attempt ends (R411–R413). An error is an acknowledgement error or not; quiet: ISO 11898-1 leaves TEC
unchanged; postArb: it is a post-arbitration bit error. -/
inductive CanEnd where
  | done
  | lost
  | err (ack quiet postArb : Bool)
  deriving DecidableEq, Repr

/-- A gPTP message or exchange (R420): times in nanoseconds, receive and transmit stamps in TIMEBASE. -/
inductive GptpMsg where
  | sync (stamp : Nat)
  | followUp (origin : Nat) (correction : Int)
  | peerDelay (t1 t2 t3 t4 : Nat)
  | peerRequest (stamp : Nat)
  deriving DecidableEq, Repr

/-- What the fabric, or the memory behind it, does with an access (R333–R335): re-sends counts the block's re-sends, fixed the
errors corrected; a failure ends the access. -/
inductive FabRes where
  | ok (resends fixed : Nat)
  | resendsOut
  | uncorrectable
  deriving DecidableEq, Repr

/-- An access of an SC thread (R337, R338). -/
inductive ScAcc where
  | load (addr : Word) (size : Fin 9)
  | store (addr : Word) (data : List Byte)
  | fetch (addr : Word)
  deriving DecidableEq, Repr

/-- What one copy presents at a comparison point (R320). -/
structure Present where
  addr : Word
  data : List Byte
  attr : Nat
  deriving DecidableEq, Repr

/-- A comparison point of a core (R320): the write of each copy A, B and C, or none, a signature of each copy, or none, the
copies whose image load found an uncorrectable error with the load's address, and the program counter, retired-instruction
count and largest lag. -/
structure CmpPoint where
  write : Option (List Present)
  sig : Option (List Word)
  bad : BitVec 3
  load : Word
  pc : Word
  icnt : Nat
  lag : Nat
  deriving DecidableEq, Repr

/-- An AMO, LR or SC of a core (R318), in the order LR, SC, SWAP, ADD, XOR, AND, OR, MIN, MAX, MINU, MAXU. -/
inductive AmoOp where
  | lr
  | sc
  | swap
  | add
  | xor
  | and
  | or
  | min
  | max
  | minu
  | maxu
  deriving DecidableEq, Repr

/-- What application software has placed for an ASL transmit connection before a service pass (R434): its identity, the safety
data, and the stop demands. -/
structure AslPlace where
  ident : Word
  data : List Byte
  stop : Bool
  sto : Bool
  deriving DecidableEq, Repr

inductive Instr where
  /-- REGISTER_WRITE (R16): A write to a register field that has no row of its own, applied according to its access code. -/
  | registerWrite (ini : Initiator) (addr val : Word)
  /-- CEC_LOCK (R24): Writing OWN_LOCK locks the PWM ownership map, LGENT, ESCACT and ESC until the next start. -/
  | cecLock (ini : Initiator) (val : Word)
  /-- FABRIC_TCM_ACCESS (R26): A fabric access to a CE memory, which waits for a free bank cycle; a collision with a CE write is lost and counted. w is the word in the window of the CE memories, data what a write carries. -/
  | fabricTcmAccess (ini : Initiator) (w : BitVec 19) (data : Option Word)
  /-- WORD_ARRIVAL (R22): A tagged converter word reaches the control domain and updates ADnn_LASTs, OVR, per-word limits, windows and captures. The word is that of the oldest sample that is due on the lane. -/
  | wordArrival (nn : Fin 24) (w : LaneWord)
  /-- MODE_ENTER (R58): A C2 request to enter a mode instance, evaluated by entry conditions, plug policy and pair rules. -/
  | modeEnter (q : Req)
  /-- MODE_EXIT (R381): A C2 request to exit or cancel an active or pending mode instance. -/
  | modeExit (q : Req)
  /-- MODE_STATUS (R382): A C4 request that returns the mode registers and the instance owners, and can subscribe to notifications. -/
  | modeStatus (q : Req)
  /-- INSTANCE_RAMP_END (R43): The ramp-down of an ending instance completes and its gates turn off, which may activate a pending instance. i is the instance index. -/
  | instanceRampEnd (i : Fin 12)
  /-- STAGE_SWITCHING_REPORT (R38): The stage CE reports that its stage is switching, which makes the pending BCH, ACH, V2G or DCD instance active. i is the instance index. -/
  | stageSwitchingReport (i : Fin 12)
  /-- STAGE_START_TIMEOUT (R38): 20 ms pass without a stage report, so the pending request ends with FAULT. i is the instance index. -/
  | stageStartTimeout (i : Fin 12)
  /-- ASC_HOLD_END (R44): The motor speed falls below the ASC threshold after DRV or WHT has ended, so the stage turns all gates off. -/
  | ascHoldEnd (m : Fin 2)
  /-- HLD_HOLDS_END (R56): All ramps, sequences and holds have ended in HLD, so HK switches D9–D12 off. -/
  | hldHoldsEnd
  /-- SETPT_TIMEOUT (R40): No C1 setpoint is read by the CE within DRV_SETPT_TMO, so the instance ends with SETPT_TMO. i is the instance index. -/
  | setptTimeout (i : Fin 12)
  /-- DCD_VMIN_TIMEOUT (R40): The HV bus stays below DCD_VMIN for 10 ms, so DCD ends with COND. -/
  | dcdVminTimeout
  /-- PRK_DWELL_EXPIRY (R53): PRK has been the only active instance for PRK_DWELL, so the device enters standby. -/
  | prkDwellExpiry
  /-- PLUG_DET_LEVEL (R46): The PLUG_DET pad changes level, which starts or restarts the debounce count. -/
  | plugDetLevel (level : Bool)
  /-- PLUG_DEBOUNCED (R46): The debounce count completes and MDM_PLUG.PLUG changes. -/
  | plugDebounced
  /-- MDM_POLICY_WRITE (R60): A write to MDM_PLUG, MDM_PLUGPOL or MDM_PAIRDENY, ignored with WR_IGN while a non-PRK, non-HLD instance is active. sel is 0 for MDM_PLUGPOL, 1 for MDM_PAIRDENY and 2 for MDM_PLUG. -/
  | mdmPolicyWrite (ini : Initiator) (sel : Fin 3) (val : Word)
  /-- MDM_LOCK (R60): Setting POL_LOCK locks the mode policy registers until the next start. -/
  | mdmLock (ini : Initiator) (val : Word)
  /-- PLLB_LOCK_LOSS (R63): PLL-B loses lock, so the control clock, the tick, TIMEBASE, the CEs, HK and the ledger stop and PLLB_UL is set. -/
  | pllbLockLoss
  /-- PLLA_LOCK_LOSS (R450): PLL-A loses lock and SUP_FLT.PLLA_UL is set without firmware. -/
  | pllaLockLoss
  /-- TB_LO_READ (R72): A read of TB_LO latches TB_HI for the reading initiator. -/
  | tbLoRead (ini : Initiator)
  /-- TB_CTRL_WRITE (R73): A write to TB_CTRL enables or holds TIMEBASE discipline and selects the port. -/
  | tbCtrlWrite (ini : Initiator) (val : Word)
  /-- EVL_RECORD_WRITE (R74): The event-log writer stores the next queued event as a 32-byte record, one per tick. -/
  | evlRecordWrite
  /-- PWM_ZERO_BOUNDARY (R87): The counter reaches 0, so shadows transfer, trip states may end, and ZRO and SYNCO are emitted. -/
  | pwmZeroBoundary (k : Fin 32)
  /-- PWM_PEAK_BOUNDARY (R87): In UPDN mode the counter reaches PRD, so compare shadows transfer as LOADMODE selects. -/
  | pwmPeakBoundary (k : Fin 32)
  /-- PWM_SHADOW_WRITE (R88): A write to a shadowed PWM register; one landing in a transferring boundary cycle is late and sets LATE_WR. r is the register in offset order: PRD, CMPA, CMPB, CMPC, CMPD, DT, MINPW, PHASE. -/
  | pwmShadowWrite (ini : Initiator) (k : Fin 32) (r : Fin 8) (val : Word)
  /-- PWMG_COMMIT (R89): A write to PWMG_COMMIT sets commits for modules, late when it lands in a transferring boundary cycle. -/
  | pwmgCommit (ini : Initiator) (val : Word)
  /-- PWMG_START (R90): A write to PWMG_START starts the named modules together in the next tick with all shadows transferred. -/
  | pwmgStart (ini : Initiator) (val : Word)
  /-- PWM_CTRL_RUN (R90): A CTRL write of RUN = 1 starts a stopped module. -/
  | pwmCtrlRun (ini : Initiator) (k : Fin 32) (val : Word)
  /-- PWM_CTRL_STOP (R86): A CTRL write of RUN = 0 stops the counter and turns both outputs off. -/
  | pwmCtrlStop (ini : Initiator) (k : Fin 32) (val : Word)
  /-- PWM_COMPARE_EDGE (R80): The continuous counter crosses a compare value, which gives a reference edge. -/
  | pwmCompareEdge (k : Fin 32) (x : Side)
  /-- PWM_DEADTIME_END (R83): The dead time after a reference rise or partner turn-off elapses and the output turns on. -/
  | pwmDeadtimeEnd (k : Fin 32) (x : Side)
  /-- PWM_MINPULSE_END (R84): The minimum on-time ends and an output held by MINPW turns off. -/
  | pwmMinpulseEnd (k : Fin 32) (x : Side)
  /-- PWM_CMPC_CMPD (R100): The counter equals CMPC or CMPD in a selected direction and emits the event. d is false for CMPC and true for CMPD. -/
  | pwmCmpcCmpd (k : Fin 32) (d : Bool)
  /-- PWM_FORCE (R91): A write to PWMk_FORCE forces or releases the references from the next tick. -/
  | pwmForce (ini : Initiator) (k : Fin 32) (val : Word)
  /-- PWM_TRIP_ACTIVE (R92): A PWM trip input becomes active and applies its OFF or ON action asynchronously. -/
  | pwmTripActive (k : Fin 32) (i : Fin 4)
  /-- PWM_TRIPCLR (R96): A write to PWMk_TRIPCLR ends latched trip states whose inputs are inactive. -/
  | pwmTripclr (ini : Initiator) (k : Fin 32) (val : Word)
  /-- PWM_SYNCI (R98): A SYNCI pulse reaches a synchronised module, which sets its counter to PHASE. -/
  | pwmSynci (k : Fin 32)
  /-- PWM_TAP_CALIBRATION (R81): The background loop recalibrates the delay taps by at most one tap between periods. -/
  | pwmTapCalibration (k : Fin 32) (up : Bool)
  /-- GATE_COMMAND_EDGE (R107): A selected command changes at the gate-command stage and passes the channel enable, the pulse filter and the interlock. short: the interval that the edge opens is shorter than 10 ns; near: the partner's command rises less than 1 ns apart; level: the mean of the last four VSNS samples. -/
  | gateCommandEdge (g : Fin 64) (short near : Bool) (level : BitVec 10)
  /-- GIN_EDGE (R106): A GINnn pad level changes and passes the optional filter toward the gate-command stage. up is the pad's new level; short, near and level as for GATE_COMMAND_EDGE. -/
  | ginEdge (g : Fin 64) (up short near : Bool) (level : BitVec 10)
  /-- KEEPALIVE_LOSS (R109): A chiplet receives no frame for 2.5–3.0 µs, turns its gate off and sets LINKLOSS. level is the mean of the last four VSNS samples. -/
  | keepaliveLoss (g : Fin 64) (level : BitVec 10)
  /-- LINK_RESUME (R109): Keep-alive frames resume and the channel follows its command once the command has been off for 1 µs. level is the mean of the last four VSNS samples. -/
  | linkResume (g : Fin 64) (level : BitVec 10)
  /-- EDGE_PHASE_END (R111): A profile phase duration ends and the next phase or the hold state begins. -/
  | edgePhaseEnd (g : Fin 64)
  /-- GD_PROFILE_WRITE (R114): A write to PROFILE_ON or PROFILE_OFF, taken at the first edge starting 100 ns later. -/
  | gdProfileWrite (ini : Initiator) (g : Fin 64) (on : Bool) (val : Word)
  /-- EDGE_MEASURED (R117): The edge monitor finishes T2080 and DVDT and reports a valid or invalid edge. cross: the two crossings, in 156.25 ps after the command edge reached the chiplet; none where VSNS did not make both. -/
  | edgeMeasured (g : Fin 64) (on : Bool) (cross : Option (Nat × Nat))
  /-- GD_LOOP_WRITE (R120): Enabling a loop, or a profile write with the loop enabled, reloads n from PLAT_N. -/
  | gdLoopWrite (ini : Initiator) (g : Fin 64) (val : Word)
  /-- BIAS_REGULATION_REACHED (R110): A channel's rails reach regulation after group switch-on and BIASOK is set. level is the mean of the last four VSNS samples. -/
  | biasRegulationReached (g : Fin 64) (level : BitVec 10)
  /-- GDG_LOCK (R512): Setting CFG_LOCK locks the RWL fields of GD00–GD63 and SCG0–SCG7 until the next start. -/
  | gdgLock (ini : Initiator) (val : Word)
  /-- BOOT_REFRESH_START (R126): A high-side command has been on for T_REFRESH, so a bootstrap refresh begins with GH off. -/
  | bootRefreshStart (g : Fin 64)
  /-- BOOT_REFRESH_STEP (R126): A refresh guard time or the 400 ns low-side pulse ends, and the next refresh step follows. -/
  | bootRefreshStep (g : Fin 64)
  /-- BOOT_UNDERVOLTAGE (R128): BST − SW falls below 8.0 V, so GH turns off, BUV is set and an event is logged. v is BST − SW in microvolts. -/
  | bootUndervoltage (g : Fin 64) (v : Int)
  /-- GD_BUV_CLEAR (R128): A write of 1 to BUV clears it only while BST − SW ≥ 9.0 V. v is BST − SW in microvolts. -/
  | gdBuvClear (ini : Initiator) (g : Fin 64) (val : Word) (v : Int)
  /-- DIDT_ARM (R131): 20 ns after the on-command reaches the chiplet, the di/dt detector arms. -/
  | didtArm (g : Fin 64)
  /-- DIDT_DETECT (R131): KS − PS stays above threshold for 20 ns, so soft turn-off starts and PFLT.DIDT latches. v is V(KS) − V(PS) in microvolts, the least of the 20 ns. -/
  | didtDetect (g : Fin 64) (v : Int)
  /-- DSAT_BLANK_END (R133): The blanking time ends and DSAT is released to charge. -/
  | dsatBlankEnd (g : Fin 64)
  /-- DSAT_DETECT (R133): DSAT crosses its threshold, so soft turn-off starts and PFLT.DSAT latches. v is V(DSAT) − V(KS) in microvolts. -/
  | dsatDetect (g : Fin 64) (v : Int)
  /-- SOFT_TURNOFF_END (R136): Soft turn-off ends and the output enters the turn-off hold with all segments. -/
  | softTurnoffEnd (g : Fin 64)
  /-- PFLT_CLEAR (R137): A write of 1 to a latched fault bit clears it only if its conditions hold, and otherwise sets CLRREJ. pos, neg: the rails against KS, in microvolts. -/
  | pfltClear (ini : Initiator) (g : Fin 64) (val : Word) (pos neg : Int)
  /-- MILLER_CLAMP_ENGAGE (R139): GOFF − KS falls below the clamp threshold after a turn-off, so the clamp engages. v is V(GOFF) − V(KS) in microvolts. -/
  | millerClampEngage (g : Fin 64) (v : Int)
  /-- RAIL_UNDERVOLTAGE (R141): A bias rail passes its undervoltage threshold through the filter and latches UVP or sets UVN. v is the rail against KS, in microvolts, after its filter. -/
  | railUndervoltage (g : Fin 64) (neg : Bool) (v : Int)
  /-- SCG_ASC_DELAY_END (R144): ASC_DLY ends, so the group releases the unused line and takes its ASC side. -/
  | scgAscDelayEnd (n : Fin 8)
  /-- SCG_CLR (R146): A write to SCGn_CLR returns the group to idle when neither side is compromised. -/
  | scgClr (ini : Initiator) (n : Fin 8) (val : Word)
  /-- OSDCTRL_START (R148): A write of 1 to GDG_OSDCTRL.START begins an off-state diagnostic run, or ends it at once on a failed condition. -/
  | osdctrlStart (ini : Initiator) (val : Word)
  /-- OSD_BIAS_READY (R149): In HLD, the domains switched on for a run reach BIASOK, or 1.5 ms pass, and the run's checks follow. -/
  | osdBiasReady
  /-- OSDCTRL_ABORT (R150): A write of 1 to ABORT aborts the running diagnostic run. -/
  | osdctrlAbort (ini : Initiator) (val : Word)
  /-- OSD_STEP_END (R151): A diagnostic step's settle, averaging or off time ends, which records its result and moves to the next step or ends the run. a and b, used where an averaging ends, are the averaged readings of the leg and of its partner, in 20 mV units. -/
  | osdStepEnd (a b : BitVec 10)
  /-- AD_SEQ_WRITE (R156): A write to ADnn_SEQ held in the shadow. -/
  | adSeqWrite (ini : Initiator) (nn : Fin 24) (val : Word)
  /-- AD_SEQ_APPLY (R156): The first slot-0 instant at least 62.5 ns after the write applies the new slot codes. -/
  | adSeqApply (nn : Fin 24)
  /-- ADC_CLOCK_LOSS (R160): PLL-C loses lock or CLK_ADC stops, so words cease and NOCLK is set. -/
  | adcClockLoss
  /-- ADG_LOCK (R513): Setting ADG_CTRL.LOCK locks ADG_VDCSRC until the next start. -/
  | adgLock (ini : Initiator) (val : Word)
  /-- VDC_UPDATE (R163): 170 ns after each 10 µs interval, ADG_VDC is written from the interval's mean. -/
  | vdcUpdate
  /-- WU_OPEN_EVENT (R165): An open trigger reaches a window unit and arms a window or follows its policy. ev is the event code (R164). -/
  | wuOpenEvent (u : Fin 64) (ev : Fin 256)
  /-- WUG_SWTRIG (R164): A write to WUG_SWTRIG0 or WUG_SWTRIG1 triggers the named units with source 0x88. hi is false for WUG_SWTRIG0. -/
  | wugSwtrig (ini : Initiator) (hi : Bool) (val : Word)
  /-- WU_OPEN (R165): The open value is reached and the unit moves from ARMED to OPEN. -/
  | wuOpen (u : Fin 64)
  /-- WU_CLOSE_EVENT (R165): A close event sets the close value in EVENT mode, or counts as STRAY. ev is the event code (R164). -/
  | wuCloseEvent (u : Fin 64) (ev : Fin 256)
  /-- WU_CLOSE (R172): The close value is reached; the window completes and its level-9 event is logged. -/
  | wuClose (u : Fin 64)
  /-- WU_OPEN_TIMEOUT (R165): A window open 65,535 ticks without a close value closes with flag TMO. -/
  | wuOpenTimeout (u : Fin 64)
  /-- WU_FINALISE (R169): At close value + 16, the window's results are finalised and a mean limit is checked. -/
  | wuFinalise (u : Fin 64)
  /-- WU_RESULT_PUBLISH (R169): At close value + 18, the result registers, snapshot records and WSEQ update and the capture record is pushed. -/
  | wuResultPublish (u : Fin 64)
  /-- WU_RES0_READ (R169): A read of WUnn_RES0 latches RES1–RES3 for the reading initiator. -/
  | wuRes0Read (ini : Initiator) (u : Fin 64)
  /-- WU_DISABLE (R170): Clearing SRC.EN discards the running window and pending trigger and leaves the unit IDLE. -/
  | wuDisable (ini : Initiator) (u : Fin 64) (val : Word)
  /-- CAP_START (R174): A START write or the start event begins a capture unit. ini is the writer of START, or none for an event of code ev (R164). -/
  | capStart (ini : Option Initiator) (n : Fin 4) (ev : Fin 256)
  /-- CAP_STOP (R174): A STOP write ends a capture. -/
  | capStop (ini : Initiator) (n : Fin 4)
  /-- CAP_LEN_REACHED (R174): The capture has stored LEN words and stops. -/
  | capLenReached (n : Fin 4)
  /-- HK_CHANNEL_END (R175): A housekeeping channel's dwell ends and HKR_VALj is written and checked. -/
  | hkChannelEnd
  /-- HK_ROUND_END (R480): A 1.024 ms housekeeping round ends; HK computes TEMP_MAX, the step, bias limits and the DC-link check. -/
  | hkRoundEnd
  /-- WM_COMPARATOR_CHANGE (R181): A comparator trips or releases against its threshold and hysteresis. v is the voltage in microvolts at the input that SRC selects; both comparators see it. -/
  | wmComparatorChange (m : Fin 48) (v : Int)
  /-- WM_FIRST_EVALUATION (R182): 2 µs after enable or D8 switch-on, the comparator leaves its safe side by first evaluation. v is the input voltage in microvolts. -/
  | wmFirstEvaluation (m : Fin 48) (low : Bool) (v : Int)
  /-- WM_TH_WRITE (R183): A write to WMm_TH drives the DAC toward the new threshold. -/
  | wmThWrite (ini : Initiator) (m : Fin 48) (val : Word)
  /-- WM_DISABLE (R183): Clearing EN releases the comparator at once. -/
  | wmDisable (ini : Initiator) (m : Fin 48) (val : Word)
  /-- WM_STROBE (R184): In sampled mode, a strobe tick updates the comparator states. v is the input voltage in microvolts. -/
  | wmStrobe (m : Fin 48) (v : Int)
  /-- WM_STROBE_LOSS (R185): No strobe arrives in time, so the monitor switches to continuous evaluation and sets NOSTRB. -/
  | wmStrobeLoss (m : Fin 48)
  /-- FOX_FILTER_ACCEPT (R189): A TRIP_IN or comparator level has been held for its filter time and reaches Fox. code is the Fox source whose level has been held. -/
  | foxFilterAccept (code : Fin 256)
  /-- TRIP_IN_EDGE (R189): A TRIP_INi pad changes level; its onset is logged and sets TRN_STICKY. level is none for an open pad. -/
  | tripInEdge (i : Fin 4) (level : Option Bool)
  /-- TRN_ROUTE_WRITE (R191): A Fox routing write takes effect within 10 ns and may start a trip state. -/
  | trnRouteWrite (ini : Initiator) (addr : Word) (val : Word)
  /-- TRN_LOCK (R191): Setting TRN_LOCK locks the Fox routing fields until the next start. -/
  | trnLock (ini : Initiator) (val : Word)
  /-- WMG_LOCK (R191): Setting WMG_LOCK locks the window-monitor RWL fields until the next start. -/
  | wmgLock (ini : Initiator) (val : Word)
  /-- CE_INSTRUCTION (R195): A CE executes a base RV32IMF instruction with fixed issue and result latencies. fab: what the fabric does with a load or a store that passes it. -/
  | ceInstruction (n : Fin 8) (fab : FabRes)
  /-- CE_STORE_BUS_ERROR (R338): A CE store bus error returns and traps at the next instruction boundary. -/
  | ceStoreBusError (n : Fin 8)
  /-- CE_HALT (R198): A write of HALT = 1 halts the CE at the end of its current instruction. -/
  | ceHalt (ini : Initiator) (n : Fin 8) (val : Word)
  /-- CE_RUN (R198): A write of HALT = 0 runs the CE from its PC, including from TRAPPED. -/
  | ceRun (ini : Initiator) (n : Fin 8) (val : Word)
  /-- CE_RESTART (R198): A write of RESTART while halted or trapped resets the PC and clears pending sets. -/
  | ceRestart (ini : Initiator) (n : Fin 8) (val : Word)
  /-- CE_WAKE (R200): A waiting CE issues its first instruction after its set completes, opening an update. -/
  | ceWake (n : Fin 8)
  /-- CE_DOORBELL (R199): A write to CEn_DOORBELL completes doorbell sets. -/
  | ceDoorbell (ini : Initiator) (n : Fin 8) (val : Word)
  /-- CE_TRIGGER_SET_WRITE (R202): A write to a trigger-set register clears the set's completion record and pending state. -/
  | ceTriggerSetWrite (ini : Initiator) (n : Fin 8) (addr : Word) (val : Word)
  /-- CE_DEADLINE_MISS (R204): An update is still open at the deadline point, so MISS is set, counted and logged and the miss action applies. -/
  | ceDeadlineMiss (n : Fin 8)
  /-- CE_ESC_CLEAR (R206): An SC thread writes 1 to DLSTAT.ESC, which returns the modules to their owner. -/
  | ceEscClear (ini : Initiator) (n : Fin 8) (val : Word)
  /-- CX_MV (R212): The CE multiplies a 6×6 matrix by a vector by fused multiply-adds. -/
  | cxMv (n : Fin 8)
  /-- CX_VADD (R211): The CE adds two vector registers element by element. -/
  | cxVadd (n : Fin 8)
  /-- CX_VSUB (R211): The CE subtracts two vector registers element by element. -/
  | cxVsub (n : Fin 8)
  /-- CX_VSCL (R211): The CE scales a vector by a scalar. -/
  | cxVscl (n : Fin 8)
  /-- CX_VLD (R213): The CE loads 24 bytes into a vector register. -/
  | cxVld (n : Fin 8)
  /-- CX_MLD (R213): The CE loads 144 bytes into a matrix register. -/
  | cxMld (n : Fin 8)
  /-- CX_VST (R213): The CE stores a vector register as 24 bytes. -/
  | cxVst (n : Fin 8)
  /-- CX_VEXT (R211): The CE extracts one vector element to an f register. -/
  | cxVext (n : Fin 8)
  /-- CX_VINS (R211): The CE inserts an f register into one vector element. -/
  | cxVins (n : Fin 8)
  /-- CX_SINCOS (R212): The CE computes sine and cosine of a fractional-turn angle. -/
  | cxSincos (n : Fin 8)
  /-- CX_ROT (R211): The CE rotates a pair by a sine and cosine pair. -/
  | cxRot (n : Fin 8)
  /-- CX_RSQRT (R212): The CE computes a reciprocal square root. -/
  | cxRsqrt (n : Fin 8)
  /-- CX_FCLMP (R212): The CE clamps a float between two bounds. -/
  | cxFclmp (n : Fin 8)
  /-- CX_SADD (R212): The CE performs a signed saturating add and sets SAT on saturation. -/
  | cxSadd (n : Fin 8)
  /-- CX_SSUB (R212): The CE performs a signed saturating subtract and sets SAT on saturation. -/
  | cxSsub (n : Fin 8)
  /-- CX_SATN (R212): The CE clamps to n + 1 signed bits and sets SAT on saturation. -/
  | cxSatn (n : Fin 8)
  /-- CX_DUTY (R212): The CE converts a duty to a clamped, rounded compare value. -/
  | cxDuty (n : Fin 8)
  /-- CX_WAIT (R200): The CE closes any open update and waits on a mask of trigger sets. -/
  | cxWait (n : Fin 8)
  /-- CX_DONE (R203): The CE closes the update, which is on time or missed against its deadline. -/
  | cxDone (n : Fin 8)
  /-- CX_MBTAKE (R207): The CE takes the newest untaken setpoint half of a mailbox slot. -/
  | cxMbtake (n : Fin 8)
  /-- CX_LGRD (R208): The CE reads the latched ledger power limit and current-limit factor. -/
  | cxLgrd (n : Fin 8)
  /-- CX_LGWR (R208): The CE writes its predicted DC-link power for the next ledger cycle. -/
  | cxLgwr (n : Fin 8)
  /-- CX_WTIME (R211): The CE reads the TIMEBASE of the wake's close value or triggering tick. -/
  | cxWtime (n : Fin 8)
  /-- CX_XWR (R209): The CE writes one of its own exchange words. -/
  | cxXwr (n : Fin 8)
  /-- CX_XRD (R209): The CE reads an exchange word of any engine. -/
  | cxXrd (n : Fin 8)
  /-- POS_RAW_TRANSITION (R216): A synchronised position pad changes, and the edge filter accepts or rejects it. levels are the synchronised levels of A (bit 0), B and Z after the change. -/
  | posRawTransition (n : Fin 8) (levels : BitVec 3)
  /-- POS_TMIN_EXPIRY (R216): TMIN cycles pass after an accepted transition; differing pad levels are then accepted. -/
  | posTminExpiry (n : Fin 8)
  /-- PCMP_PULSE_END (R233): The PCMPn pulse width ends. -/
  | pcmpPulseEnd (n : Fin 8)
  /-- POS_STANDSTILL (R227): No edge for STTMO, so STANDSTILL is set and the speed becomes invalid. -/
  | posStandstill (n : Fin 8)
  /-- POS_CNT_WRITE (R225): A write to POSn_CNT loads the count without compare or direction effect. -/
  | posCntWrite (ini : Initiator) (n : Fin 8) (val : Word)
  /-- POS_CMP_RESTART (R232): A write to CMPCTRL.RESTART resets CMPPTR and clears CMPDONE. -/
  | posCmpRestart (ini : Initiator) (n : Fin 8) (val : Word)
  /-- SENT_FRAME (R230): A SENT frame completes and is checked and applied to the channels that select it. stamp is the control cycle in which the calibration pulse starts, cal its length in control cycles, lost: the queue of R65 overwrote the frame. -/
  | sentFrame (i : Fin 4) (stamp cal : Nat) (status : BitVec 4) (data : List (BitVec 4)) (crc : BitVec 4) (pause lost : Bool)
  /-- SSI_TRIGGER (R231): An SSI trigger event starts a frame, or is ignored during a frame and its pause. ev is the event code (R164). -/
  | ssiTrigger (i : Fin 2) (ev : Fin 256)
  /-- SSI_FRAME (R231): An SSI frame completes and is checked and applied. bits are the frame's bits, the last one in bit 0; lost: the queue of R65 overwrote the frame. -/
  | ssiFrame (i : Fin 2) (bits : BitVec 32) (lost : Bool)
  /-- POS_FRAME_TIMEOUT (R229): No valid frame for FRTMO, so LOSS is set and an event is logged. -/
  | posFrameTimeout (n : Fin 8)
  /-- POSG_LOCK (R514): Setting POSG_LOCK locks the position and resolver RWL fields until the next start. -/
  | posgLock (ini : Initiator) (val : Word)
  /-- RES_PERIOD_UPDATE (R236): An excitation period ends; the demodulator updates angle and speed and checks LOS, DOS, LOT and EXCFLT. exc: the excitation current limit acted in the period. -/
  | resPeriodUpdate (n : Fin 2) (exc : Bool)
  /-- LEDGER_CYCLE (R254): At each 10 µs tick, HK0 computes grants from predictions, battery limits and throttle. -/
  | ledgerCycle
  /-- LEDGER_PUBLISH (R252): 2,000 ns after a cycle starts, its limits are published, or the cycle is discarded and OVR counted. -/
  | ledgerPublish
  /-- LGC_BATLIM_WRITE (R255): A write to LGC_BATLIM sets the battery limits and restarts the battery-limit timer. -/
  | lgcBatlimWrite (ini : Initiator) (val : Word)
  /-- BATT_LIMIT_TIMEOUT (R255): TMO ms pass without a battery-limit write, so the fallback limits apply. -/
  | battLimitTimeout
  /-- LGC_LOCK (R255): Setting LGC_CTRL.LOCK locks the ledger RWL fields until the next start. -/
  | lgcLock (ini : Initiator) (val : Word)
  /-- STEER_COMPUTE (R260): Every PERIOD ms, HK0 computes ripple-steering offsets and publishes adopted ones in LGEn_OFS. -/
  | steerCompute
  /-- ACT_PRECHECK_END (R273): 1 ms of zero-current precheck passes and the sequence enters MOVE. n is the actuator. -/
  | actPrecheckEnd (n : Fin 3)
  /-- ACT_DWELL_END (R273): The seat dwell passes within tolerance and RELAX begins. n is the actuator. -/
  | actDwellEnd (n : Fin 3)
  /-- ACT_RELAX_END (R273): The current reaches zero, the modules stop and the sequence ends DONE. n is the actuator. -/
  | actRelaxEnd (n : Fin 3)
  /-- ACT_SEQ_TIMEOUT (R274): ELAPSED reaches ACT_TMOn, so the sequence ends TIMEOUT. n is the actuator. -/
  | actSeqTimeout (n : Fin 3)
  /-- ACT_STALL (R274): The count barely changes over ACT_STALL_T at the current limit, so the sequence ends STALL or waits tooth-on-tooth. n is the actuator. -/
  | actStall (n : Fin 3)
  /-- ACT_BUSUV (R274): The actuator bus stays below ACT_VMIN for ACT_BUSUV_T, so the sequence ends BUSUV. n is the actuator; v is the highest voltage of the actuator bus in the last `held` instants, in 0.1 V. -/
  | actBusuv (n : Fin 3) (v held : Nat)
  /-- SEAL_READ (R279): 100 Badger ticks after D2 on at a cold start, Badger reads and checks the seal pins. The six readings of SAFECFG and SAFECHK: three with pull-downs, three with pull-ups. -/
  | sealRead (d0 d1 d2 u0 u1 u2 : BitVec 24)
  /-- BADGER_CLOCK_CHECK (R278): Each 32-Marten-cycle interval, Badger checks its tick count against 880–1,080. -/
  | badgerClockCheck
  /-- LATCH_SELF_CHECK (R282): Every 1,000 Badger ticks, Badger recomputes the CRC of the latched configuration. -/
  | latchSelfCheck
  /-- HSM_ACK (R283): A write of the sealed value to HSM_ACK sets CFGACK and moves Badger to READY or STO. -/
  | hsmAck (ini : Initiator) (val : Word)
  /-- SIN_ACCEPT (R286): A SIN channel holds a new level for 200 samples, which is accepted and may demand a stop. ch is 2i for SINiA and 2i + 1 for SINiB. -/
  | sinAccept (ch : Fin 8)
  /-- SIN_DISCREPANCY (R288): A discrepancy window closes with the channels still differing, so DISCF latches. -/
  | sinDiscrepancy (i : Fin 4)
  /-- BSPD_EDGE (R289): A BSPD channel accepts a rising edge and updates its period and speed. ch is BSPD0A, BSPD0B, BSPD1A, BSPD1B. -/
  | bspdEdge (ch : Fin 4)
  /-- BSPD_SPEED_TIMEOUT (R289): 50,000 ticks pass since the last edge, so the channel speed reads 0. -/
  | bspdSpeedTimeout (ch : Fin 4)
  /-- BSPD_PLAUSIBILITY (R290): The two channels of a motor differ for 20,000 ticks, which is source 0x0F. -/
  | bspdPlausibility (m : Fin 2)
  /-- BADGER_EVALUATION (R292): Every 100 Badger ticks, Badger checks the SS1 envelope, standstill and the ASC exit. -/
  | badgerEvaluation
  /-- SS1_TIMEOUT (R292): The SS1 timer reaches STOPTMO, which is source 0x08 and gives STO. -/
  | ss1Timeout
  /-- HSM_ENABLE (R298): HSM_REQ code 0x01 grants the named group enables in READY. -/
  | hsmEnable (ini : Initiator) (mask : BitVec 4)
  /-- HSM_RELEASE (R298): HSM_REQ code 0x02 removes the named enables without a stop demand. -/
  | hsmRelease (ini : Initiator) (mask : BitVec 4)
  /-- HSM_SS1 (R299): HSM_REQ code 0x10 is source 0x05, an SS1 demand. -/
  | hsmSs1 (ini : Initiator)
  /-- HSM_STO (R299): HSM_REQ code 0x11 is source 0x06, an STO demand. -/
  | hsmSto (ini : Initiator)
  /-- HSM_RESTART (R297): HSM_REQ code 0x20 moves Badger from STO to READY when the restart conditions hold. -/
  | hsmRestart (ini : Initiator)
  /-- WD_QUESTION (R300): Every PERIOD × 100 ticks, Badger issues a new watchdog question and counts a missing answer. -/
  | wdQuestion (n : Fin 8)
  /-- WD_ANSWER (R301): A write to HSM_WDANSn is checked for window, core, value and TIMEBASE, and adjusts ERR. -/
  | wdAnswer (ini : Initiator) (n : Fin 8) (val : Word)
  /-- STO_READBACK (R304): Each Badger tick compares the forced-off state and checks power-good of removed groups within 5,000 ticks. forced is the forced-off state read back per group, good the power-good of each bias group. -/
  | stoReadback (forced good : BitVec 4)
  /-- SC_COMPARISON (R320): Copies of a Paired or Voted core present a comparison point and are compared. -/
  | scComparison (core : Fin 4) (p : CmpPoint)
  /-- SC_RESYNC_END (R323): The odd copy is reloaded and resumes behind the copy it was loaded from. -/
  | scResyncEnd (core : Fin 4)
  /-- SC_AMO_COMPARE (R318): The trailing copy presents an AMO, LR or SC outside the region, which is then compared and performed once. held: the reservation of the core still holds. -/
  | scAmoCompare (core : Fin 4) (op : AmoOp) (p : CmpPoint) (held : Bool)
  /-- SC_MEMORY_ACCESS (R337): An SC thread access is checked by its protection unit and faults precisely if not allowed. -/
  | scMemoryAccess (core : Fin 4) (thread : Fin 3) (acc : ScAcc) (user : Bool) (fab : FabRes) (pc : Word)
  /-- POSTED_STORE_ERROR (R338): A bus error returns on a posted SC store and is taken as an imprecise store access fault. -/
  | postedStoreError (core : Fin 4) (thread : Fin 3) (pc : Word)
  /-- SC_INTERRUPT_ENTRY (R340): An SC thread accepts an interrupt and, with HWSAVE, saves a 64-byte frame. k is the place of the interrupt among those pending; saved are x1, x5–x7, x10–x17, x28 and x29; wr and fetch: what the fabric does with the frame and with the fetch of the handler. -/
  | scInterruptEntry (core : Fin 4) (thread : Fin 3) (k : Nat) (pc handler sp : Word) (saved : List Word) (wr fetch : FabRes) (icnt : Nat)
  /-- PU_LOCK (R337): Setting PUu_CTRL.LOCK locks the protection unit until the next start. -/
  | puLock (ini : Initiator) (u : Fin 12) (val : Word)
  /-- MRAM_BLOCK_WRITE (R329): An MRAM 64-byte block write completes. -/
  | mramBlockWrite
  /-- SRAM_SCRUB (R334): Every 10 µs the scrubber reads and corrects the next SRAM block. w is the word of the block that an uncorrectable error lies in. -/
  | sramScrub (res : FabRes) (w : Fin 8)
  /-- DMA_START (R345): A write of START loads the working context and makes the channel wait for its request. -/
  | dmaStart (ini : Initiator) (c : Fin 32) (val : Word)
  /-- DMA_RESUME (R345): A write of RESUME continues an errored or aborted channel from its saved context. -/
  | dmaResume (ini : Initiator) (c : Fin 32) (val : Word)
  /-- DMA_ABORT (R345): A write of ABORT ends the channel at the next block boundary, or at once if it is not running. -/
  | dmaAbort (ini : Initiator) (c : Fin 32) (val : Word)
  /-- DMA_REQUEST (R343): A channel's request or event asserts and reaches the arbiter. -/
  | dmaRequest (c : Fin 32)
  /-- DMA_BLOCK (R347): The engine moves one block through translation, checks, read and write, then arbitrates at the boundary. rd and wr: what the fabric does with the block's read and with its write. -/
  | dmaBlock (rd wr : FabRes)
  /-- STU_LOCK (R341): Setting STU_CTRL.LOCK locks the translation entries until the next start. -/
  | stuLock (ini : Initiator) (val : Word)
  /-- KCP_FRAME_RECEIVE (R363): A KCP frame is taken whole and checked for session, tag, class, sequence and opcode, then reassembled. t is the transport: 0 ETH0, 1 ETH1, 2 T1S0 (UDP), 3–6 CAN0–CAN3 (FD), 7–10 CAN0–CAN3 (XL), 11 HSPI. -/
  | kcpFrameReceive (t : Fin 12) (peer : Nat) (frame : List Byte)
  /-- KCP_REASSEMBLY_TIMEOUT (R354): A message is not complete within REASM_TMO, so it is discarded and answered BAD_PARAM. i is the place of the message among the reassembly buffers in use. -/
  | kcpReassemblyTimeout (i : Fin 16)
  /-- HSPI_WRITE (R355): An HSPI WRITE transaction delivers one frame with its CRC into the receive buffer. bytes are the frame and its CRC. -/
  | hspiWrite (bytes : List Byte)
  /-- HSPI_READ (R355): An HSPI READ transaction shifts out the oldest waiting reply with its CRC. n data bytes are clocked out. -/
  | hspiRead (n : Nat)
  /-- HSPI_STATUS (R355): An HSPI STATUS transaction returns space and waiting frames and clears OVF and CRCERR. -/
  | hspiStatus
  /-- OPEN (R357): A class-0 request that opens a session, allocates a context and derives Ks. -/
  | openSession (t : Fin 12) (peer : Nat) (seq : BitVec 16) (tag : Option (List Byte)) (pay : List Byte)
  /-- CLOSE (R358): A class-0 request that closes the session at once. -/
  | close (q : Req)
  /-- RENEW (R358): A class-0 request that renews the session's lease. -/
  | renew (q : Req)
  /-- LEASE_EXPIRY (R358): A session's lease expires, which ends owned instances and withdraws its queued requests. -/
  | leaseExpiry (ctx : Fin 256)
  /-- KCP_QUEUE_DEPART (R364): A C2–C5 request leaves its class queue for its target. k is the class less 2. -/
  | kcpQueueDepart (k : Fin 4)
  /-- KCP_DEADLINE_EXPIRY (R366): A request not started before its deadline tick is withdrawn and answered LATE. -/
  | kcpDeadlineExpiry (ctx : Fin 256) (seq : BitVec 16)
  /-- KCP_NOTIFY (R369): A subscribed notification is sent at most once per 10 ms or per period. k is 0 for MODE_STATUS, 1 for STAGE_STATUS and 2 for ACT_STATUS. -/
  | kcpNotify (ctx : Fin 256) (k : Fin 3)
  /-- CUSTOMER_OPCODE (R370): A customer opcode is placed in a mailbox request slot and signalled to an SC thread. op is the opcode less 0xF000. -/
  | customerOpcode (op : Fin 4096) (cls : Fin 8) (q : Req)
  /-- MBX_DONE (R370): A write of MBXm_DONE hands a reply slot to KP, which sends the reply and frees the slots. -/
  | mbxDone (ini : Initiator) (m : Fin 8) (val : Word)
  /-- MBX_TIMEOUT (R370): A mailbox reply is not handed over within TMO, so the request is answered LATE. -/
  | mbxTimeout (m : Fin 8) (slot : Fin 4)
  /-- KCP_LOCK (R371): Setting KCP_CFG.LOCK locks the KCP RWL registers until the next start. -/
  | kcpLock (ini : Initiator) (val : Word)
  /-- SETPT_DRV_A (R383): A C1 torque setpoint for DRV_A, written into CE0 slot 0. -/
  | setptDrvA (q : Req)
  /-- SETPT_DRV_B (R383): A C1 torque setpoint for DRV_B, written into CE2 slot 0. -/
  | setptDrvB (q : Req)
  /-- SETPT_WHT_A (R383): A C1 winding-loss setpoint for WHT_A, written into CE0 slot 1. -/
  | setptWhtA (q : Req)
  /-- SETPT_WHT_B (R383): A C1 winding-loss setpoint for WHT_B, written into CE2 slot 1. -/
  | setptWhtB (q : Req)
  /-- SETPT_BCH (R383): A C1 star-point current setpoint for BCH, written into CE2 slot 2. -/
  | setptBch (q : Req)
  /-- SETPT_CHG (R383): A C1 power setpoint for ACH or V2G, written into CE5 slot 0. -/
  | setptChg (q : Req)
  /-- SETPT_DCD (R383): A C1 V_REF setpoint for DCD, written into CE6 slot 0. -/
  | setptDcd (q : Req)
  /-- CFG_WRITE (R385): A C3 request that writes a configuration parameter to MRAM. -/
  | cfgWrite (q : Req)
  /-- CFG_READ (R385): A C3 request that returns a configuration parameter. -/
  | cfgRead (q : Req)
  /-- POLICY_WRITE (R387): A C3 request that writes a mode policy register and its recorded value. -/
  | policyWrite (q : Req)
  /-- POLICY_READ (R387): A C3 request that returns a mode policy register. -/
  | policyRead (q : Req)
  /-- OSD_START (R388): A C4 request that configures and starts an off-state diagnostic run. -/
  | osdStart (q : Req)
  /-- OSD_RESULT (R388): A C4 request that returns the diagnostic status and results. -/
  | osdResult (q : Req)
  /-- STAGE_STATUS (R389): A C4 request that returns ledger status for selected entries and can subscribe. -/
  | stageStatus (q : Req)
  /-- REG_READ (R390): A C4 request that reads up to 64 words from permitted windows. -/
  | regRead (q : Req)
  /-- THERMAL_STATUS (R391): A C4 request that returns TEMP_MAX, the step and all sensor temperatures. -/
  | thermalStatus (q : Req)
  /-- SAFETY_STATUS (R391): A C4 request that returns the Badger registers and SC core status. -/
  | safetyStatus (q : Req)
  /-- CAPTURE_START (R392): A C4 request that starts a converter capture drained by firmware DMA into the buffer. -/
  | captureStart (q : Req)
  /-- CAPTURE_COMPLETE (R392): The capture started by CAPTURE_START ends and its final reply is sent. -/
  | captureComplete (unit : Fin 4)
  /-- CAPTURE_READ (R392): A C5 request that returns words of the completed capture. -/
  | captureRead (q : Req)
  /-- FORCE_COLD (R393): A C4 request that, in HLD with cause START_FAIL or REQUEST, begins a cold start and clears HOLD. -/
  | forceCold (q : Req)
  /-- ACT_SEQ (R394): A C2 request that starts an actuator sequence, entering ACT if needed. -/
  | actSeq (q : Req)
  /-- ACT_ABORT (R394): A C2 request that ends the actuator's running sequence as ABORTED. -/
  | actAbort (q : Req)
  /-- ACT_STATUS (R395): A C4 request that returns actuator and DC-DC status and can subscribe. -/
  | actStatus (q : Req)
  /-- BATT_LIMITS (R396): A C2 request that writes the battery limits to LGC_BATLIM. -/
  | battLimits (q : Req)
  /-- CHG_STATUS (R396): A C4 request that returns plug, DC link, V_IN and charging ledger status. -/
  | chgStatus (q : Req)
  /-- LOG_READ (R397): A C5 request that returns records from the event log or the fault log. -/
  | logRead (q : Req)
  /-- FW_BEGIN (R399): A C5 request that opens a firmware update and marks the inactive bank unverified. -/
  | fwBegin (q : Req)
  /-- FW_DATA (R399): A C5 request that writes image data to the inactive bank. -/
  | fwData (q : Req)
  /-- FW_END (R399): A C5 request that closes the update and starts image verification. -/
  | fwEnd (q : Req)
  /-- FW_VERIFY_DONE (R399): Image verification ends and FW_END receives OK or VERIFY_FAIL. ok says that keys and signatures pass; the others are from the header. -/
  | fwVerifyDone (ok prod : Bool) (version : Word) (epoch : Fin 64)
  /-- FW_SELECT (R399): A C5 request that selects a verified bank for the next cold start. -/
  | fwSelect (q : Req)
  /-- FW_INFO (R399): A C4 request that returns bank and version information. -/
  | fwInfo (q : Req)
  /-- TIME_GET (R400): A C4 request that returns TIMEBASE, TB_OFFSET and vehicle time. -/
  | timeGet (q : Req)
  /-- TIME_DISC (R400): A C3 request that writes DISC_EN and PORT to TB_CTRL. -/
  | timeDisc (q : Req)
  /-- TIME_MASTER (R400): A C3 request that enables or disables the CAN time master on a bus. -/
  | timeMaster (q : Req)
  /-- CAN_INIT_SET (R403): A write of INIT = 1 takes the controller off the bus at the end of the frame and cancels pending buffers. busy: a frame is in progress. -/
  | canInitSet (ini : Initiator) (n : Fin 4) (val : Word) (busy : Bool)
  /-- CAN_INIT_CLEAR (R403): A write of INIT = 0 checks the RAM area and starts bus integration. -/
  | canInitClear (ini : Initiator) (n : Fin 4) (val : Word)
  /-- CAN_BUS_INTEGRATION (R403): 11 consecutive recessive bits are received and the controller joins the bus. -/
  | canBusIntegration (n : Fin 4)
  /-- CAN_FRAME_RECEIVE (R406): A valid frame is filtered and stored in a FIFO, or dropped and counted. sof is the tick that sampled the start of frame. -/
  | canFrameReceive (n : Fin 4) (f : CanFrame) (sof : Nat)
  /-- CAN_RXF_GET (R407): A write to a FIFO's GET frees elements. -/
  | canRxfGet (ini : Initiator) (n : Fin 4) (k : Fin 2) (val : Word)
  /-- CAN_RXDMA_READ (R408): A read of CANn_RXDMA returns the next word of the oldest element and advances GET at its end. -/
  | canRxdmaRead (ini : Initiator) (n : Fin 4)
  /-- CAN_TXDMA_WRITE (R408): A write to CANn_TXDMA fills a free transmit buffer, which is requested when full. sof: the start of frame of the buffer offered has been sent in or before the cycle of the write. -/
  | canTxdmaWrite (ini : Initiator) (n : Fin 4) (val : Word) (sof : Bool)
  /-- CAN_TXREQ (R409): A write to TXREQ requests transmit buffers for arbitration. sof: the start of frame of the buffer offered has been sent in or before the cycle of the write. -/
  | canTxreq (ini : Initiator) (n : Fin 4) (val : Word) (sof : Bool)
  /-- CAN_TXCNCL (R410): A write to TXCNCL cancels a buffer, or is late once its start of frame has been sent. sof: the start of frame of the buffer offered has been sent in or before the cycle of the write. -/
  | canTxcncl (ini : Initiator) (n : Fin 4) (val : Word) (sof : Bool)
  /-- CAN_TX_END (R411): A transmission attempt ends by success, lost arbitration or error, and is retried or given a final result. kp: the attempt was of a KP buffer; sof is the tick that sampled its start of frame. -/
  | canTxEnd (n : Fin 4) (kp : Bool) (res : CanEnd) (sof : Nat)
  /-- CAN_RECOVER (R414): A write of RECOVER starts the bus-off recovery count. -/
  | canRecover (ini : Initiator) (n : Fin 4) (val : Word)
  /-- CAN_BUSOFF_RECOVERED (R414): 128 idle sequences are counted and the controller is error active again. -/
  | canBusoffRecovered (n : Fin 4)
  /-- CAN_OPMODE_CHANGE (R414): A new OPMODE takes effect when the bus is next idle. -/
  | canOpmodeChange (n : Fin 4)
  /-- CAN_TIME_REFERENCE (R415): At each basic-cycle instant, the time master requests a reference message and then its follow-up. sof: the start of frame of the buffer offered on the bus has been sent. -/
  | canTimeReference (sof : Bool)
  /-- ETH_LINK_CHANGE (R416): A 1000BASE-T1 port's link goes up or down. -/
  | ethLinkChange (k : Fin 2) (up : Bool) (sqi : BitVec 3)
  /-- ETH_FRAME_RECEIVE (R417): A frame enters the switch and is classified, forwarded, delivered to the device or dropped. bytes are the frame without its FCS; stamp is the TIMEBASE of its start-frame delimiter; room: the packet memory has room for egress port p. -/
  | ethFrameReceive (k : Fin 2) (bytes : List Byte) (stamp : Nat) (room : BitVec 3)
  /-- ETH_APP_TRANSMIT (R418): A record in the application transmit FIFO is sent to the switch or to T1S0. -/
  | ethAppTransmit (room : BitVec 3)
  /-- ETH_ADDRESS_AGEOUT (R417): A learned address table entry ages out after 300 s. -/
  | ethAddressAgeout (mac : BitVec 48)
  /-- T1S_TRANSMIT_OPPORTUNITY (R419): A PLCA beacon or transmit opportunity occurs on T1S0. -/
  | t1sTransmitOpportunity (beacon : Bool)
  /-- GPTP_MESSAGE (R420): A gPTP Sync or peer-delay message is handled and updates TB_OFFSET and the trim. -/
  | gptpMessage (k : Fin 2) (msg : GptpMsg)
  /-- ETH_LOCK (R418): Setting ETH_LOCK locks the Ethernet RWL fields until the next start. -/
  | ethLock (ini : Initiator) (val : Word)
  /-- ASL_OPEN (R427): Application software opens or reopens an ASL connection from a descriptor. desc is the descriptor, byte 0 in bits 7:0; blk is the offset of the status block in SRAM. -/
  | aslOpen (core : Fin 4) (desc : BitVec 256) (blk : BitVec 25) (reopen : Bool)
  /-- ASL_SERVICE_PASS (R429): Every SVC, the library reads RX frames, checks timers and error rates, and sends due TX PDUs. placed is what application software has placed since the last pass; sof: the start of frame of the buffer offered on bus n has been sent. -/
  | aslServicePass (core : Fin 4) (placed : List AslPlace) (sof : BitVec 4)
  /-- VMAIN_LOSS (R440): VMAIN stays below VTH or above VOV for 2 µs and becomes unusable. ovlo: above VOV. v is the level in mV that VMAIN has not risen above, or with ovlo not fallen below, for 2 µs. -/
  | vmainLoss (ovlo : Bool) (v : Nat)
  /-- SWITCH_OVER_COMPLETE (R442): The flyback goes ACTIVE, SRC becomes 1 and the 12 W bias limit applies. -/
  | switchOverComplete
  /-- VMAIN_RETURN (R443): VMAIN stays usable for RET ms on backup, so the device returns make-before-break. lo and hi are the lowest and highest level of VMAIN in mV since it became usable. -/
  | vmainReturn (lo hi : Nat)
  /-- FLYBACK_START (R441): VHV has been at least 200 V for 1 ms, so the flyback leaves OFF. v is VHV in volts. -/
  | flybackStart (v : Nat)
  /-- FLYBACK_READY (R441): The flyback completes START and reaches READY. -/
  | flybackReady
  /-- FLYBACK_DROP (R441): VHV drops below 190 V, BKEN clears or a fault occurs, and the flyback goes OFF. cause is 0 VHV below 190 V, 1 BKEN cleared, 2 a flyback fault; v is VHV in volts. -/
  | flybackDrop (cause : Fin 3) (v : Nat)
  /-- COLLAPSE_SWITCH_OFF (R444): On Badger's forced-off report or after 3 µs, the supply manager switches D13 to D1 off. -/
  | collapseSwitchOff
  /-- SUP_LOCK (R448): Setting SUP_CFG.LOCK locks the supply configuration until the next start. -/
  | supLock (ini : Initiator) (val : Word)
  /-- PDC_REQ_WRITE (R448): A write to PDC_REQ applies domain clears, then sets in dependency order, recording refusals. -/
  | pdcReqWrite (ini : Initiator) (val : Word)
  /-- SUP_STBY (R451): A write of KEY 0x5354 requests standby, refused on backup or with another instance active. -/
  | supStby (ini : Initiator) (val : Word)
  /-- WAKE_PAD (R452): The WAKE pad is held active for 32 Marten cycles and wakes the device. -/
  | wakePad (level : Bool)
  /-- WAKE_TIMER (R452): AON_TIMER seconds pass in standby and wake the device. -/
  | wakeTimer
  /-- WAKE_PLUG (R452): PLUG_DET holds the opposite level for 32 Marten cycles and wakes the device. -/
  | wakePlug
  /-- WAKE_CAN (R452): A CAN0 or CAN1 transceiver detects the wake-up pattern and wakes the device. -/
  | wakeCan (bus : Fin 2)
  /-- POWER_CYCLE (R453): The D0 supply stays below 2.0 V for 5 ms, which releases the shutdown latch and HOLD. -/
  | powerCycle
  /-- SYSC_RST_COLD (R459): A write of KEY 0x434C requests a cold start, ignored while a bias group is on. -/
  | syscRstCold (ini : Initiator) (val : Word)
  /-- SYSC_RST_WARM (R459): A write of KEY 0x5752 requests a warm start, ignored while a bias group is on. -/
  | syscRstWarm (ini : Initiator) (val : Word)
  /-- HK_HEARTBEAT_LOSS (R457): SE0 receives no HK heartbeat for 30 ms, which begins a warm start. -/
  | hkHeartbeatLoss
  /-- START_BEGIN (R461): Marten begins a start, increments ATTEMPTS and starts the start timer. v is the lowest level of VMAIN in mV in the last 32 Marten cycles, which counts after a supply collapse. -/
  | startBegin (v : Nat)
  /-- START_STEP (R461): A numbered start step completes or fails. ok: the step passes; alt: in step 8 of a cold start, the other bank passes. -/
  | startStep (ok alt : Bool)
  /-- START_TIMEOUT (R463): The start is not complete within 16,384 Marten cycles and fails with FSTEP 0xF. -/
  | startTimeout
  /-- START_RETRY (R463): 1 ms after a failure, Marten begins the next attempt. -/
  | startRetry
  /-- LIFECYCLE_UNLOCK (R473): A signed unlock response at the TAP moves PRODUCTION to RETURN after erasing keys and images. valid: the signature verifies. -/
  | lifecycleUnlock (valid : Bool)
  /-- DEBUG_HALT (R474): A debugger halts a Paired or Voted core, which halts every copy. -/
  | debugHalt (core : Fin 4) (thread : Fin 3)
  /-- THERMAL_SHUTDOWN_SWITCHOFF (R484): 2.0 ms after the declaration, the supply manager switches D13 to D2 off. -/
  | thermalShutdownSwitchoff
  /-- THM_LOCK (R485): Setting THM_CFG.LOCK locks the thermal configuration until the next start. -/
  | thmLock (ini : Initiator) (val : Word)
  /-- T1S_FRAME_RECEIVE (R419): A frame arrives on the 10BASE-T1S port T1S0 and is delivered to the device interfaces, answered under ARP, ICMP or KCP, placed in the application receive FIFO with ingress port 3, or discarded and counted. -/
  | t1sFrameReceive (bytes : List Byte) (stamp : Nat)
  /-- CAN_RECEIVE_ERROR (R412): A frame on the bus ends in an error while the controller is receiving, so REC rises and the controller may become error passive. eight: ISO 11898-1 raises REC by 8. -/
  | canReceiveError (n : Fin 4) (eight : Bool)
  /-- VMAIN_USABLE (R443): VMAIN rises above its return threshold and below the VOV release level, so VMOK is set and the return qualification of RET ms starts. v is the level of VMAIN in mV. -/
  | vmainUsable (v : Nat)
  /-- VHV_OVERVOLTAGE (R441): VHV rises above 1,050 V, so the flyback stops or does not start. v is VHV in volts. -/
  | vhvOvervoltage (v : Nat)
  /-- WM_ENABLE (R182): A write that sets EN_HI or EN_LO puts the comparator in its configured safe side at once and starts the 2 µs wait for its first evaluation. -/
  | wmEnable (ini : Initiator) (m : Fin 48) (val : Word)
  /-- SIN_PAD_CHANGE (R286): The level of a SIN channel pad changes, which restarts that channel's count of 200 equal Badger samples. -/
  | sinPadChange (ch : Fin 8) (level : Bool)
  /-- BSPD_PAD_CHANGE (R289): The level of a BSPD channel pad changes, which starts the 3-sample acceptance of the new level, including falling levels that are not edges. -/
  | bspdPadChange (ch : Fin 4) (level : Bool)
  /-- ADC_CLOCK_RETURN (R160): PLL-C regains lock or CLK_ADC edges resume after a clock loss, so ADG_STATUS.LOCKED and the converters' word production return. -/
  | adcClockReturn
  deriving DecidableEq, Repr

end Sys2Proof
end

