-- ==== Sys2Proof/Decode.lean ====
section
/-! DEFINITION. The commands that a word spells. No row of the opcode table gives its command any bits: a command comes to the
device from a bus, a pad, a network or its own blocks, and no word of an instruction memory spells it. -/

namespace Sys2Proof

/-- The command that a word spells by the opcode table's bits: none, since the table gives no row any bits. -/
def decodeTableWord (_nbits _w : Nat) : Option Instr := none

end Sys2Proof
end

