-- ==== Sys2Proof/Config.lean ====
section
/-! DEFINITION. The values the spec leaves open: uninterpreted constants of the device. -/

namespace Sys2Proof.Config

/-- The n-th value that the spec leaves open; State.fresh counts the values used. -/
opaque freeWord : Nat → Sys2Proof.Word

/-- The n-th choice that the spec leaves open. -/
opaque freeBool : Nat → Bool

/-- A ledger entry's stage accepts a DC-link voltage in units of 0.1 V: the configured window of R40, which no register or
parameter holds. -/
opaque linkWindow : Nat → Nat → Bool

/-- TRIMj of R478, the offset of on-die sensor j from the calibration region. -/
opaque sensorTrim : Nat → Int

end Sys2Proof.Config
end

