-- ==== Sys2Proof/Machine/Bits.lean ====
section
/-! DEFINITION. Bit fields, sign extension, byte order, and the association lists that hold registers and memory: the
helpers every meaning shares. -/

namespace Sys2Proof.Machine

/-- A register by its absolute address and the value it holds after its reset. -/
structure Reg where
  addr : Nat
  rst : Nat
  deriving DecidableEq, Repr

/-- The field NAME[hi:lo] of a register (R10). -/
structure Fld where
  reg : Reg
  hi : Nat
  lo : Nat
  deriving DecidableEq, Repr

/-- How many values a field has. -/
def Fld.size (f : Fld) : Nat := 2 ^ (f.hi + 1 - f.lo)

/-- Bits hi..lo of a number. -/
def bitsOf (hi lo n : Nat) : Nat := n / 2 ^ lo % 2 ^ (hi + 1 - lo)

/-- Bit b of a number. -/
def bitOf (b n : Nat) : Bool := n / 2 ^ b % 2 == 1

/-- A number with bits hi..lo replaced by v. -/
def putBits (hi lo n v : Nat) : Nat :=
  n / 2 ^ (hi + 1) * 2 ^ (hi + 1) + v % 2 ^ (hi + 1 - lo) * 2 ^ lo + n % 2 ^ lo

/-- A number with bit b set or cleared. -/
def putBit (b n : Nat) (v : Bool) : Nat := putBits b b n (if v then 1 else 0)

def b2n (b : Bool) : Nat := if b then 1 else 0

/-- The two's-complement reading of the low w bits of n. -/
def signed (w n : Nat) : Int :=
  let m := n % 2 ^ w
  if m < 2 ^ (w - 1) then (m : Int) else (m : Int) - (2 ^ w : Nat)

/-- The low w bits of an integer in two's complement. -/
def unsigned (w : Nat) (i : Int) : Nat := (i % (2 ^ w : Nat)).toNat

/-- An integer limited to lo..hi. -/
def clampInt (lo hi i : Int) : Int := if i < lo then lo else if hi < i then hi else i

/-- The value listed for a key. -/
def lookupKey {α : Type} (k : Nat) : List (Nat × α) → Option α
  | [] => none
  | (a, v) :: t => if a == k then some v else lookupKey k t

/-- The list, keys rising, with key k listed as v. -/
def insertKey {α : Type} (k : Nat) (v : α) : List (Nat × α) → List (Nat × α)
  | [] => [(k, v)]
  | (a, w) :: t =>
    if k < a then (k, v) :: (a, w) :: t
    else if k == a then (k, v) :: t
    else (a, w) :: insertKey k v t

/-- The list without key k. -/
def eraseKey {α : Type} (k : Nat) : List (Nat × α) → List (Nat × α)
  | [] => []
  | (a, w) :: t => if a == k then t else (a, w) :: eraseKey k t

/-- Every key is above b and the keys rise strictly. -/
def keysRiseFrom {α : Type} : Option Nat → List (Nat × α) → Bool
  | _, [] => true
  | b, (a, _) :: t => (match b with
    | none => true
    | some m => decide (m < a)) && keysRiseFrom (some a) t

/-- Element i of a list, or d. -/
def nth {α : Type} (l : List α) (i : Nat) (d : α) : α := (l[i]?).getD d

/-- Four little-endian bytes as a number (R11). -/
def leNat : List Byte → Nat
  | [] => 0
  | b :: t => b.toNat + 256 * leNat t

/-- n little-endian bytes of a number (R11). -/
def leBytes : Nat → Nat → List Byte
  | 0, _ => []
  | n + 1, v => BitVec.ofNat 8 v :: leBytes n (v / 256)

/-- A big-endian byte string as a number: KCP packets and ASL data units (R11). -/
def beNat (l : List Byte) : Nat := l.foldl (fun a b => a * 256 + b.toNat) 0

/-- n big-endian bytes of a number (R11). -/
def beBytes (n v : Nat) : List Byte := (leBytes n v).reverse

/-- One step of a bit-serial CRC on a reflected register. -/
def crcBit (poly reg : Nat) : Nat := if reg % 2 == 1 then (reg / 2) ^^^ poly else reg / 2

def crcByte (poly reg : Nat) (b : Byte) : Nat :=
  let r0 := reg ^^^ b.toNat
  crcBit poly (crcBit poly (crcBit poly (crcBit poly (crcBit poly (crcBit poly (crcBit poly (crcBit poly r0)))))))

/-- CRC-32C of R76: polynomial 0x1EDC_6F41 (0x82F6_3B78 bit-reversed).
PRESUMED: the family convention of reflected bits with initial value and final inversion of all ones. -/
def crc32c (l : List Byte) : Nat := (l.foldl (crcByte 0x82F63B78) 0xFFFFFFFF) ^^^ 0xFFFFFFFF

/-- The bits of n from 0 upward that are set, below w. -/
def setBits (w n : Nat) : List Nat := (List.range w).filter (fun i => bitOf i n)

/-- A number from the bits i < w for which p holds. -/
def ofBits : Nat → (Nat → Bool) → Nat
  | 0, _ => 0
  | w + 1, p => b2n (p w) * 2 ^ w + ofBits w p

end Sys2Proof.Machine
end

