-- ==== Sys2Proof/Machine/Registers.lean ====
section
/-! DEFINITION. Every register of the VX8800 by its name in the spec: its absolute address, its reset value and its
fields, and the table of access codes (R16) that a bus access follows. -/

namespace Sys2Proof.Machine

/-! ### Chapter 00 -/

/-- SYSC_ID (R8). -/
abbrev SYSC_ID : Reg := ⟨0x70000000, 0x43320188⟩
abbrev SYSC_ID_STEP_LETTER : Fld := ⟨SYSC_ID, 31, 24⟩
abbrev SYSC_ID_STEP_DIGIT : Fld := ⟨SYSC_ID, 23, 16⟩
abbrev SYSC_ID_VARIANT : Fld := ⟨SYSC_ID, 15, 8⟩
abbrev SYSC_ID_DEVICE : Fld := ⟨SYSC_ID, 7, 0⟩

/-! ### Chapter 01 -/

/-- CEC_PWMOWN (R24). -/
abbrev CEC_PWMOWN (k : Nat) : Reg := ⟨0x40500100 + k * 0x4, 0xFFFFFFFF⟩
abbrev CEC_PWMOWN_OWN7 (k : Nat) : Fld := ⟨CEC_PWMOWN k, 31, 28⟩
abbrev CEC_PWMOWN_OWN6 (k : Nat) : Fld := ⟨CEC_PWMOWN k, 27, 24⟩
abbrev CEC_PWMOWN_OWN5 (k : Nat) : Fld := ⟨CEC_PWMOWN k, 23, 20⟩
abbrev CEC_PWMOWN_OWN4 (k : Nat) : Fld := ⟨CEC_PWMOWN k, 19, 16⟩
abbrev CEC_PWMOWN_OWN3 (k : Nat) : Fld := ⟨CEC_PWMOWN k, 15, 12⟩
abbrev CEC_PWMOWN_OWN2 (k : Nat) : Fld := ⟨CEC_PWMOWN k, 11, 8⟩
abbrev CEC_PWMOWN_OWN1 (k : Nat) : Fld := ⟨CEC_PWMOWN k, 7, 4⟩
abbrev CEC_PWMOWN_OWN0 (k : Nat) : Fld := ⟨CEC_PWMOWN k, 3, 0⟩

/-- CEC_LOCK (R24). -/
abbrev CEC_LOCK : Reg := ⟨0x405001F0, 0x0⟩
abbrev CEC_LOCK_OWN_LOCK : Fld := ⟨CEC_LOCK, 0, 0⟩

/-- CEC_OWNVIOL_CNT (R24). -/
abbrev CEC_OWNVIOL_CNT : Reg := ⟨0x405001F4, 0x0⟩
abbrev CEC_OWNVIOL_CNT_LAST_INIT : Fld := ⟨CEC_OWNVIOL_CNT, 31, 24⟩
abbrev CEC_OWNVIOL_CNT_LAST_PWM : Fld := ⟨CEC_OWNVIOL_CNT, 23, 16⟩
abbrev CEC_OWNVIOL_CNT_COUNT : Fld := ⟨CEC_OWNVIOL_CNT, 15, 0⟩

/-- CEC_TCMCOLL_CNT (R26). -/
abbrev CEC_TCMCOLL_CNT : Reg := ⟨0x405001F8, 0x0⟩
abbrev CEC_TCMCOLL_CNT_COUNT : Fld := ⟨CEC_TCMCOLL_CNT, 15, 0⟩

/-! ### Chapter 02 -/

/-- MDM_ACTIVE (R35). -/
abbrev MDM_ACTIVE : Reg := ⟨0x70100800, 0x0⟩
abbrev MDM_ACTIVE_PENDING : Fld := ⟨MDM_ACTIVE, 27, 16⟩
abbrev MDM_ACTIVE_ACTIVE : Fld := ⟨MDM_ACTIVE, 11, 0⟩

/-- MDM_HOLD (R57). -/
abbrev MDM_HOLD : Reg := ⟨0x70100804, 0x0⟩
abbrev MDM_HOLD_CAUSE : Fld := ⟨MDM_HOLD, 3, 0⟩

/-- MDM_PLUG (R46). -/
abbrev MDM_PLUG : Reg := ⟨0x70100808, 0x1400⟩
abbrev MDM_PLUG_CHG_CNT : Fld := ⟨MDM_PLUG, 31, 16⟩
abbrev MDM_PLUG_DB : Fld := ⟨MDM_PLUG, 15, 8⟩
abbrev MDM_PLUG_POL : Fld := ⟨MDM_PLUG, 2, 2⟩
abbrev MDM_PLUG_RAW : Fld := ⟨MDM_PLUG, 1, 1⟩
abbrev MDM_PLUG_PLUG : Fld := ⟨MDM_PLUG, 0, 0⟩

/-- MDM_PLUGPOL (R48). -/
abbrev MDM_PLUGPOL : Reg := ⟨0x7010080C, 0x0⟩
abbrev MDM_PLUGPOL_ACT_SFT : Fld := ⟨MDM_PLUGPOL, 15, 14⟩
abbrev MDM_PLUGPOL_ACT_CLU : Fld := ⟨MDM_PLUGPOL, 13, 12⟩
abbrev MDM_PLUGPOL_ACT_PLR : Fld := ⟨MDM_PLUGPOL, 11, 10⟩
abbrev MDM_PLUGPOL_DCD : Fld := ⟨MDM_PLUGPOL, 9, 8⟩
abbrev MDM_PLUGPOL_WHT_B : Fld := ⟨MDM_PLUGPOL, 7, 6⟩
abbrev MDM_PLUGPOL_WHT_A : Fld := ⟨MDM_PLUGPOL, 5, 4⟩
abbrev MDM_PLUGPOL_DRV_B : Fld := ⟨MDM_PLUGPOL, 3, 2⟩
abbrev MDM_PLUGPOL_DRV_A : Fld := ⟨MDM_PLUGPOL, 1, 0⟩

/-- MDM_PAIRDENY (R58). -/
abbrev MDM_PAIRDENY : Reg := ⟨0x70100810, 0x0⟩
abbrev MDM_PAIRDENY_WHT_PRK : Fld := ⟨MDM_PAIRDENY, 29, 29⟩
abbrev MDM_PAIRDENY_WHT_WHT : Fld := ⟨MDM_PAIRDENY, 28, 28⟩
abbrev MDM_PAIRDENY_ACT_PRK : Fld := ⟨MDM_PAIRDENY, 27, 27⟩
abbrev MDM_PAIRDENY_ACT_WHT : Fld := ⟨MDM_PAIRDENY, 26, 26⟩
abbrev MDM_PAIRDENY_DCD_PRK : Fld := ⟨MDM_PAIRDENY, 25, 25⟩
abbrev MDM_PAIRDENY_DCD_WHT : Fld := ⟨MDM_PAIRDENY, 24, 24⟩
abbrev MDM_PAIRDENY_DCD_ACT : Fld := ⟨MDM_PAIRDENY, 23, 23⟩
abbrev MDM_PAIRDENY_V2G_PRK : Fld := ⟨MDM_PAIRDENY, 22, 22⟩
abbrev MDM_PAIRDENY_V2G_WHT : Fld := ⟨MDM_PAIRDENY, 21, 21⟩
abbrev MDM_PAIRDENY_V2G_ACT : Fld := ⟨MDM_PAIRDENY, 20, 20⟩
abbrev MDM_PAIRDENY_V2G_DCD : Fld := ⟨MDM_PAIRDENY, 19, 19⟩
abbrev MDM_PAIRDENY_ACH_PRK : Fld := ⟨MDM_PAIRDENY, 18, 18⟩
abbrev MDM_PAIRDENY_ACH_WHT : Fld := ⟨MDM_PAIRDENY, 17, 17⟩
abbrev MDM_PAIRDENY_ACH_ACT : Fld := ⟨MDM_PAIRDENY, 16, 16⟩
abbrev MDM_PAIRDENY_ACH_DCD : Fld := ⟨MDM_PAIRDENY, 15, 15⟩
abbrev MDM_PAIRDENY_ACH_V2G : Fld := ⟨MDM_PAIRDENY, 14, 14⟩
abbrev MDM_PAIRDENY_BCH_PRK : Fld := ⟨MDM_PAIRDENY, 13, 13⟩
abbrev MDM_PAIRDENY_BCH_WHT : Fld := ⟨MDM_PAIRDENY, 12, 12⟩
abbrev MDM_PAIRDENY_BCH_ACT : Fld := ⟨MDM_PAIRDENY, 11, 11⟩
abbrev MDM_PAIRDENY_BCH_DCD : Fld := ⟨MDM_PAIRDENY, 10, 10⟩
abbrev MDM_PAIRDENY_BCH_V2G : Fld := ⟨MDM_PAIRDENY, 9, 9⟩
abbrev MDM_PAIRDENY_BCH_ACH : Fld := ⟨MDM_PAIRDENY, 8, 8⟩
abbrev MDM_PAIRDENY_DRV_PRK : Fld := ⟨MDM_PAIRDENY, 7, 7⟩
abbrev MDM_PAIRDENY_DRV_WHT : Fld := ⟨MDM_PAIRDENY, 6, 6⟩
abbrev MDM_PAIRDENY_DRV_ACT : Fld := ⟨MDM_PAIRDENY, 5, 5⟩
abbrev MDM_PAIRDENY_DRV_DCD : Fld := ⟨MDM_PAIRDENY, 4, 4⟩
abbrev MDM_PAIRDENY_DRV_V2G : Fld := ⟨MDM_PAIRDENY, 3, 3⟩
abbrev MDM_PAIRDENY_DRV_ACH : Fld := ⟨MDM_PAIRDENY, 2, 2⟩
abbrev MDM_PAIRDENY_DRV_BCH : Fld := ⟨MDM_PAIRDENY, 1, 1⟩
abbrev MDM_PAIRDENY_DRV_DRV : Fld := ⟨MDM_PAIRDENY, 0, 0⟩

/-- MDM_LOCK (R60). -/
abbrev MDM_LOCK : Reg := ⟨0x70100814, 0x0⟩
abbrev MDM_LOCK_WR_IGN : Fld := ⟨MDM_LOCK, 1, 1⟩
abbrev MDM_LOCK_POL_LOCK : Fld := ⟨MDM_LOCK, 0, 0⟩

/-- MDM_ENDRSN0 (R45). -/
abbrev MDM_ENDRSN0 : Reg := ⟨0x70100818, 0x0⟩
abbrev MDM_ENDRSN0_WHT_A : Fld := ⟨MDM_ENDRSN0, 31, 28⟩
abbrev MDM_ENDRSN0_ACT : Fld := ⟨MDM_ENDRSN0, 27, 24⟩
abbrev MDM_ENDRSN0_DCD : Fld := ⟨MDM_ENDRSN0, 23, 20⟩
abbrev MDM_ENDRSN0_V2G : Fld := ⟨MDM_ENDRSN0, 19, 16⟩
abbrev MDM_ENDRSN0_ACH : Fld := ⟨MDM_ENDRSN0, 15, 12⟩
abbrev MDM_ENDRSN0_BCH : Fld := ⟨MDM_ENDRSN0, 11, 8⟩
abbrev MDM_ENDRSN0_DRV_B : Fld := ⟨MDM_ENDRSN0, 7, 4⟩
abbrev MDM_ENDRSN0_DRV_A : Fld := ⟨MDM_ENDRSN0, 3, 0⟩

/-- MDM_ENDRSN1 (R45). -/
abbrev MDM_ENDRSN1 : Reg := ⟨0x7010081C, 0x0⟩
abbrev MDM_ENDRSN1_HLD : Fld := ⟨MDM_ENDRSN1, 15, 12⟩
abbrev MDM_ENDRSN1_SST : Fld := ⟨MDM_ENDRSN1, 11, 8⟩
abbrev MDM_ENDRSN1_PRK : Fld := ⟨MDM_ENDRSN1, 7, 4⟩
abbrev MDM_ENDRSN1_WHT_B : Fld := ⟨MDM_ENDRSN1, 3, 0⟩

/-! ### Chapter 03 -/

/-- TB_LO (R72). -/
abbrev TB_LO : Reg := ⟨0x40800000, 0x0⟩
abbrev TB_LO_VAL : Fld := ⟨TB_LO, 31, 0⟩

/-- TB_HI (R72). -/
abbrev TB_HI : Reg := ⟨0x40800004, 0x0⟩
abbrev TB_HI_VAL : Fld := ⟨TB_HI, 31, 0⟩

/-- TB_CTRL (R73). -/
abbrev TB_CTRL : Reg := ⟨0x40800008, 0x0⟩
abbrev TB_CTRL_TRIM : Fld := ⟨TB_CTRL, 31, 12⟩
abbrev TB_CTRL_LOCKED : Fld := ⟨TB_CTRL, 3, 3⟩
abbrev TB_CTRL_PORT : Fld := ⟨TB_CTRL, 1, 1⟩
abbrev TB_CTRL_DISC_EN : Fld := ⟨TB_CTRL, 0, 0⟩

/-- TB_OFFSET_LO (R73). -/
abbrev TB_OFFSET_LO : Reg := ⟨0x40800010, 0x0⟩
abbrev TB_OFFSET_LO_VAL : Fld := ⟨TB_OFFSET_LO, 31, 0⟩

/-- TB_OFFSET_HI (R73). -/
abbrev TB_OFFSET_HI : Reg := ⟨0x40800014, 0x0⟩
abbrev TB_OFFSET_HI_VAL : Fld := ⟨TB_OFFSET_HI, 31, 0⟩

/-- EVL_CTRL (R74). -/
abbrev EVL_CTRL : Reg := ⟨0x40800100, 0x0⟩
abbrev EVL_CTRL_LVL_EN : Fld := ⟨EVL_CTRL, 3, 0⟩

/-- EVL_STATUS (R75). -/
abbrev EVL_STATUS : Reg := ⟨0x40800104, 0x0⟩
abbrev EVL_STATUS_WRIDX : Fld := ⟨EVL_STATUS, 27, 16⟩
abbrev EVL_STATUS_LOST : Fld := ⟨EVL_STATUS, 15, 0⟩

/-! ### Chapter 04 -/

/-- PWM_CTRL (R90). -/
abbrev PWM_CTRL (k : Nat) : Reg := ⟨0x40000000 + k * 0x400, 0x0⟩
abbrev PWM_CTRL_SYNCOSEL (k : Nat) : Fld := ⟨PWM_CTRL k, 13, 12⟩
abbrev PWM_CTRL_SYNCARM (k : Nat) : Fld := ⟨PWM_CTRL k, 11, 11⟩
abbrev PWM_CTRL_SYNCMODE (k : Nat) : Fld := ⟨PWM_CTRL k, 10, 10⟩
abbrev PWM_CTRL_SYNCEN (k : Nat) : Fld := ⟨PWM_CTRL k, 9, 9⟩
abbrev PWM_CTRL_CMTREQ (k : Nat) : Fld := ⟨PWM_CTRL k, 8, 8⟩
abbrev PWM_CTRL_MINPOL (k : Nat) : Fld := ⟨PWM_CTRL k, 7, 7⟩
abbrev PWM_CTRL_POLB (k : Nat) : Fld := ⟨PWM_CTRL k, 6, 6⟩
abbrev PWM_CTRL_POLA (k : Nat) : Fld := ⟨PWM_CTRL k, 5, 5⟩
abbrev PWM_CTRL_OUTMODE (k : Nat) : Fld := ⟨PWM_CTRL k, 4, 4⟩
abbrev PWM_CTRL_LOADMODE (k : Nat) : Fld := ⟨PWM_CTRL k, 3, 2⟩
abbrev PWM_CTRL_CNTMODE (k : Nat) : Fld := ⟨PWM_CTRL k, 1, 1⟩
abbrev PWM_CTRL_RUN (k : Nat) : Fld := ⟨PWM_CTRL k, 0, 0⟩

/-- PWM_PRD (R77). -/
abbrev PWM_PRD (k : Nat) : Reg := ⟨0x40000004 + k * 0x400, 0x0⟩
/-- The value of PWM_PRD in effect. -/
abbrev PWM_PRD_EFF (k : Nat) : Reg := ⟨0x40000004 + k * 0x400 + 0x80, 0x0⟩
abbrev PWM_PRD_PRD (k : Nat) : Fld := ⟨PWM_PRD k, 15, 0⟩
abbrev PWM_PRD_EFF_PRD (k : Nat) : Fld := ⟨PWM_PRD_EFF k, 15, 0⟩

/-- PWM_CMPA (R80). -/
abbrev PWM_CMPA (k : Nat) : Reg := ⟨0x40000008 + k * 0x400, 0x0⟩
/-- The value of PWM_CMPA in effect. -/
abbrev PWM_CMPA_EFF (k : Nat) : Reg := ⟨0x40000008 + k * 0x400 + 0x80, 0x0⟩
abbrev PWM_CMPA_CMP (k : Nat) : Fld := ⟨PWM_CMPA k, 19, 0⟩
abbrev PWM_CMPA_EFF_CMP (k : Nat) : Fld := ⟨PWM_CMPA_EFF k, 19, 0⟩

/-- PWM_CMPB (R80). -/
abbrev PWM_CMPB (k : Nat) : Reg := ⟨0x4000000C + k * 0x400, 0x0⟩
/-- The value of PWM_CMPB in effect. -/
abbrev PWM_CMPB_EFF (k : Nat) : Reg := ⟨0x4000000C + k * 0x400 + 0x80, 0x0⟩
abbrev PWM_CMPB_CMP (k : Nat) : Fld := ⟨PWM_CMPB k, 19, 0⟩
abbrev PWM_CMPB_EFF_CMP (k : Nat) : Fld := ⟨PWM_CMPB_EFF k, 19, 0⟩

/-- PWM_CMPC (R100). -/
abbrev PWM_CMPC (k : Nat) : Reg := ⟨0x40000010 + k * 0x400, 0x0⟩
/-- The value of PWM_CMPC in effect. -/
abbrev PWM_CMPC_EFF (k : Nat) : Reg := ⟨0x40000010 + k * 0x400 + 0x80, 0x0⟩
abbrev PWM_CMPC_DIR (k : Nat) : Fld := ⟨PWM_CMPC k, 21, 20⟩
abbrev PWM_CMPC_EFF_DIR (k : Nat) : Fld := ⟨PWM_CMPC_EFF k, 21, 20⟩
abbrev PWM_CMPC_VAL (k : Nat) : Fld := ⟨PWM_CMPC k, 15, 0⟩
abbrev PWM_CMPC_EFF_VAL (k : Nat) : Fld := ⟨PWM_CMPC_EFF k, 15, 0⟩

/-- PWM_CMPD (R100). -/
abbrev PWM_CMPD (k : Nat) : Reg := ⟨0x40000014 + k * 0x400, 0x0⟩
/-- The value of PWM_CMPD in effect. -/
abbrev PWM_CMPD_EFF (k : Nat) : Reg := ⟨0x40000014 + k * 0x400 + 0x80, 0x0⟩
abbrev PWM_CMPD_DIR (k : Nat) : Fld := ⟨PWM_CMPD k, 21, 20⟩
abbrev PWM_CMPD_EFF_DIR (k : Nat) : Fld := ⟨PWM_CMPD_EFF k, 21, 20⟩
abbrev PWM_CMPD_VAL (k : Nat) : Fld := ⟨PWM_CMPD k, 15, 0⟩
abbrev PWM_CMPD_EFF_VAL (k : Nat) : Fld := ⟨PWM_CMPD_EFF k, 15, 0⟩

/-- PWM_DT (R83). -/
abbrev PWM_DT (k : Nat) : Reg := ⟨0x40000018 + k * 0x400, 0x6400640⟩
/-- The value of PWM_DT in effect. -/
abbrev PWM_DT_EFF (k : Nat) : Reg := ⟨0x40000018 + k * 0x400 + 0x80, 0x6400640⟩
abbrev PWM_DT_DTB (k : Nat) : Fld := ⟨PWM_DT k, 29, 16⟩
abbrev PWM_DT_EFF_DTB (k : Nat) : Fld := ⟨PWM_DT_EFF k, 29, 16⟩
abbrev PWM_DT_DTA (k : Nat) : Fld := ⟨PWM_DT k, 13, 0⟩
abbrev PWM_DT_EFF_DTA (k : Nat) : Fld := ⟨PWM_DT_EFF k, 13, 0⟩

/-- PWM_MINPW (R84). -/
abbrev PWM_MINPW (k : Nat) : Reg := ⟨0x4000001C + k * 0x400, 0x0⟩
/-- The value of PWM_MINPW in effect. -/
abbrev PWM_MINPW_EFF (k : Nat) : Reg := ⟨0x4000001C + k * 0x400 + 0x80, 0x0⟩
abbrev PWM_MINPW_MINPW (k : Nat) : Fld := ⟨PWM_MINPW k, 11, 0⟩
abbrev PWM_MINPW_EFF_MINPW (k : Nat) : Fld := ⟨PWM_MINPW_EFF k, 11, 0⟩

/-- PWM_PHASE (R98). -/
abbrev PWM_PHASE (k : Nat) : Reg := ⟨0x40000020 + k * 0x400, 0x0⟩
/-- The value of PWM_PHASE in effect. -/
abbrev PWM_PHASE_EFF (k : Nat) : Reg := ⟨0x40000020 + k * 0x400 + 0x80, 0x0⟩
abbrev PWM_PHASE_PHDIR (k : Nat) : Fld := ⟨PWM_PHASE k, 20, 20⟩
abbrev PWM_PHASE_EFF_PHDIR (k : Nat) : Fld := ⟨PWM_PHASE_EFF k, 20, 20⟩
abbrev PWM_PHASE_PHASE (k : Nat) : Fld := ⟨PWM_PHASE k, 19, 0⟩
abbrev PWM_PHASE_EFF_PHASE (k : Nat) : Fld := ⟨PWM_PHASE_EFF k, 19, 0⟩

/-- PWM_FORCE (R91). -/
abbrev PWM_FORCE (k : Nat) : Reg := ⟨0x40000024 + k * 0x400, 0x0⟩
abbrev PWM_FORCE_FB (k : Nat) : Fld := ⟨PWM_FORCE k, 3, 2⟩
abbrev PWM_FORCE_FA (k : Nat) : Fld := ⟨PWM_FORCE k, 1, 0⟩

/-- PWM_TRIPCFG (R92). -/
abbrev PWM_TRIPCFG (k : Nat) : Reg := ⟨0x40000028 + k * 0x400, 0x5050505⟩
abbrev PWM_TRIPCFG_LATCH3 (k : Nat) : Fld := ⟨PWM_TRIPCFG k, 28, 28⟩
abbrev PWM_TRIPCFG_ACTB3 (k : Nat) : Fld := ⟨PWM_TRIPCFG k, 27, 26⟩
abbrev PWM_TRIPCFG_ACTA3 (k : Nat) : Fld := ⟨PWM_TRIPCFG k, 25, 24⟩
abbrev PWM_TRIPCFG_LATCH2 (k : Nat) : Fld := ⟨PWM_TRIPCFG k, 20, 20⟩
abbrev PWM_TRIPCFG_ACTB2 (k : Nat) : Fld := ⟨PWM_TRIPCFG k, 19, 18⟩
abbrev PWM_TRIPCFG_ACTA2 (k : Nat) : Fld := ⟨PWM_TRIPCFG k, 17, 16⟩
abbrev PWM_TRIPCFG_LATCH1 (k : Nat) : Fld := ⟨PWM_TRIPCFG k, 12, 12⟩
abbrev PWM_TRIPCFG_ACTB1 (k : Nat) : Fld := ⟨PWM_TRIPCFG k, 11, 10⟩
abbrev PWM_TRIPCFG_ACTA1 (k : Nat) : Fld := ⟨PWM_TRIPCFG k, 9, 8⟩
abbrev PWM_TRIPCFG_LATCH0 (k : Nat) : Fld := ⟨PWM_TRIPCFG k, 4, 4⟩
abbrev PWM_TRIPCFG_ACTB0 (k : Nat) : Fld := ⟨PWM_TRIPCFG k, 3, 2⟩
abbrev PWM_TRIPCFG_ACTA0 (k : Nat) : Fld := ⟨PWM_TRIPCFG k, 1, 0⟩

/-- PWM_TRIPCLR (R96). -/
abbrev PWM_TRIPCLR (k : Nat) : Reg := ⟨0x4000002C + k * 0x400, 0x0⟩
abbrev PWM_TRIPCLR_CLR (k : Nat) : Fld := ⟨PWM_TRIPCLR k, 3, 0⟩

/-- PWM_STATUS (R96). -/
abbrev PWM_STATUS (k : Nat) : Reg := ⟨0x40000030 + k * 0x400, 0x0⟩
abbrev PWM_STATUS_TRIPPED (k : Nat) : Fld := ⟨PWM_STATUS k, 31, 28⟩
abbrev PWM_STATUS_TRIPIN (k : Nat) : Fld := ⟨PWM_STATUS k, 27, 24⟩
abbrev PWM_STATUS_SYNCJMP (k : Nat) : Fld := ⟨PWM_STATUS k, 11, 11⟩
abbrev PWM_STATUS_TRIPCONF (k : Nat) : Fld := ⟨PWM_STATUS k, 10, 10⟩
abbrev PWM_STATUS_MINLATE (k : Nat) : Fld := ⟨PWM_STATUS k, 9, 9⟩
abbrev PWM_STATUS_MIN_B (k : Nat) : Fld := ⟨PWM_STATUS k, 8, 8⟩
abbrev PWM_STATUS_MIN_A (k : Nat) : Fld := ⟨PWM_STATUS k, 7, 7⟩
abbrev PWM_STATUS_DTSUP_B (k : Nat) : Fld := ⟨PWM_STATUS k, 6, 6⟩
abbrev PWM_STATUS_DTSUP_A (k : Nat) : Fld := ⟨PWM_STATUS k, 5, 5⟩
abbrev PWM_STATUS_LATE_WR (k : Nat) : Fld := ⟨PWM_STATUS k, 4, 4⟩
abbrev PWM_STATUS_OUTB (k : Nat) : Fld := ⟨PWM_STATUS k, 3, 3⟩
abbrev PWM_STATUS_OUTA (k : Nat) : Fld := ⟨PWM_STATUS k, 2, 2⟩
abbrev PWM_STATUS_CMTPEND (k : Nat) : Fld := ⟨PWM_STATUS k, 1, 1⟩
abbrev PWM_STATUS_DIR (k : Nat) : Fld := ⟨PWM_STATUS k, 0, 0⟩

/-- PWM_COUNT (R77). -/
abbrev PWM_COUNT (k : Nat) : Reg := ⟨0x40000034 + k * 0x400, 0x0⟩
abbrev PWM_COUNT_DIR (k : Nat) : Fld := ⟨PWM_COUNT k, 31, 31⟩
abbrev PWM_COUNT_CNT (k : Nat) : Fld := ⟨PWM_COUNT k, 15, 0⟩

/-- PWM_CNT0 (R88). -/
abbrev PWM_CNT0 (k : Nat) : Reg := ⟨0x40000038 + k * 0x400, 0x0⟩
abbrev PWM_CNT0_LATE_CNT (k : Nat) : Fld := ⟨PWM_CNT0 k, 31, 16⟩
abbrev PWM_CNT0_DTSUP_CNT (k : Nat) : Fld := ⟨PWM_CNT0 k, 15, 0⟩

/-- PWM_CNT1 (R84). -/
abbrev PWM_CNT1 (k : Nat) : Reg := ⟨0x4000003C + k * 0x400, 0x0⟩
abbrev PWM_CNT1_MINRND_CNT (k : Nat) : Fld := ⟨PWM_CNT1 k, 31, 16⟩
abbrev PWM_CNT1_MINSUP_CNT (k : Nat) : Fld := ⟨PWM_CNT1 k, 15, 0⟩

/-- PWM_IEN (R100). -/
abbrev PWM_IEN (k : Nat) : Reg := ⟨0x40000040 + k * 0x400, 0x0⟩
abbrev PWM_IEN_SYNCJMP (k : Nat) : Fld := ⟨PWM_IEN k, 8, 8⟩
abbrev PWM_IEN_TRIP (k : Nat) : Fld := ⟨PWM_IEN k, 7, 7⟩
abbrev PWM_IEN_MIN (k : Nat) : Fld := ⟨PWM_IEN k, 6, 6⟩
abbrev PWM_IEN_DTSUP (k : Nat) : Fld := ⟨PWM_IEN k, 5, 5⟩
abbrev PWM_IEN_LATE (k : Nat) : Fld := ⟨PWM_IEN k, 4, 4⟩
abbrev PWM_IEN_CMPD (k : Nat) : Fld := ⟨PWM_IEN k, 3, 3⟩
abbrev PWM_IEN_CMPC (k : Nat) : Fld := ⟨PWM_IEN k, 2, 2⟩
abbrev PWM_IEN_PEAK (k : Nat) : Fld := ⟨PWM_IEN k, 1, 1⟩
abbrev PWM_IEN_ZRO (k : Nat) : Fld := ⟨PWM_IEN k, 0, 0⟩

/-- PWMG_START (R90). -/
abbrev PWMG_START : Reg := ⟨0x40008000, 0x0⟩
abbrev PWMG_START_START : Fld := ⟨PWMG_START, 31, 0⟩

/-- PWMG_COMMIT (R89). -/
abbrev PWMG_COMMIT : Reg := ⟨0x40008004, 0x0⟩
abbrev PWMG_COMMIT_COMMIT : Fld := ⟨PWMG_COMMIT, 31, 0⟩

/-- PWMG_CMTSTAT (R89). -/
abbrev PWMG_CMTSTAT : Reg := ⟨0x40008008, 0x0⟩
abbrev PWMG_CMTSTAT_PEND : Fld := ⟨PWMG_CMTSTAT, 31, 0⟩

/-! ### Chapter 05 -/

/-- GD_CFG (R106). -/
abbrev GD_CFG (k : Nat) : Reg := ⟨0x40100000 + k * 0x100, (if k % 2 == 0 then 0x100 else 0)⟩
abbrev GD_CFG_ILK_EN (k : Nat) : Fld := ⟨GD_CFG k, 8, 8⟩
abbrev GD_CFG_GINFLT (k : Nat) : Fld := ⟨GD_CFG k, 5, 4⟩
abbrev GD_CFG_INSEL (k : Nat) : Fld := ⟨GD_CFG k, 1, 1⟩
abbrev GD_CFG_CH_EN (k : Nat) : Fld := ⟨GD_CFG k, 0, 0⟩

/-- GD_BIAS (R121). -/
abbrev GD_BIAS (k : Nat) : Reg := ⟨0x40100004 + k * 0x100, 0x0⟩
abbrev GD_BIAS_VNEG (k : Nat) : Fld := ⟨GD_BIAS k, 3, 2⟩
abbrev GD_BIAS_VPOS (k : Nat) : Fld := ⟨GD_BIAS k, 1, 0⟩

/-- GD_PROFILE_ON (R111). -/
abbrev GD_PROFILE_ON (k : Nat) : Reg := ⟨0x40100008 + k * 0x100, 0xA1405⟩
/-- The value of GD_PROFILE_ON in effect. -/
abbrev GD_PROFILE_ON_EFF (k : Nat) : Reg := ⟨0x40100008 + k * 0x100 + 0x80, 0xA1405⟩
abbrev GD_PROFILE_ON_FIN_N (k : Nat) : Fld := ⟨GD_PROFILE_ON k, 23, 22⟩
abbrev GD_PROFILE_ON_EFF_FIN_N (k : Nat) : Fld := ⟨GD_PROFILE_ON_EFF k, 23, 22⟩
abbrev GD_PROFILE_ON_FIN_T (k : Nat) : Fld := ⟨GD_PROFILE_ON k, 21, 16⟩
abbrev GD_PROFILE_ON_EFF_FIN_T (k : Nat) : Fld := ⟨GD_PROFILE_ON_EFF k, 21, 16⟩
abbrev GD_PROFILE_ON_PLAT_N (k : Nat) : Fld := ⟨GD_PROFILE_ON k, 15, 14⟩
abbrev GD_PROFILE_ON_EFF_PLAT_N (k : Nat) : Fld := ⟨GD_PROFILE_ON_EFF k, 15, 14⟩
abbrev GD_PROFILE_ON_PLAT_T (k : Nat) : Fld := ⟨GD_PROFILE_ON k, 13, 8⟩
abbrev GD_PROFILE_ON_EFF_PLAT_T (k : Nat) : Fld := ⟨GD_PROFILE_ON_EFF k, 13, 8⟩
abbrev GD_PROFILE_ON_PRE_N (k : Nat) : Fld := ⟨GD_PROFILE_ON k, 7, 6⟩
abbrev GD_PROFILE_ON_EFF_PRE_N (k : Nat) : Fld := ⟨GD_PROFILE_ON_EFF k, 7, 6⟩
abbrev GD_PROFILE_ON_PRE_T (k : Nat) : Fld := ⟨GD_PROFILE_ON k, 5, 0⟩
abbrev GD_PROFILE_ON_EFF_PRE_T (k : Nat) : Fld := ⟨GD_PROFILE_ON_EFF k, 5, 0⟩

/-- GD_PROFILE_OFF (R111). -/
abbrev GD_PROFILE_OFF (k : Nat) : Reg := ⟨0x4010000C + k * 0x100, 0xA1405⟩
/-- The value of GD_PROFILE_OFF in effect. -/
abbrev GD_PROFILE_OFF_EFF (k : Nat) : Reg := ⟨0x4010000C + k * 0x100 + 0x80, 0xA1405⟩
abbrev GD_PROFILE_OFF_FIN_N (k : Nat) : Fld := ⟨GD_PROFILE_OFF k, 23, 22⟩
abbrev GD_PROFILE_OFF_EFF_FIN_N (k : Nat) : Fld := ⟨GD_PROFILE_OFF_EFF k, 23, 22⟩
abbrev GD_PROFILE_OFF_FIN_T (k : Nat) : Fld := ⟨GD_PROFILE_OFF k, 21, 16⟩
abbrev GD_PROFILE_OFF_EFF_FIN_T (k : Nat) : Fld := ⟨GD_PROFILE_OFF_EFF k, 21, 16⟩
abbrev GD_PROFILE_OFF_PLAT_N (k : Nat) : Fld := ⟨GD_PROFILE_OFF k, 15, 14⟩
abbrev GD_PROFILE_OFF_EFF_PLAT_N (k : Nat) : Fld := ⟨GD_PROFILE_OFF_EFF k, 15, 14⟩
abbrev GD_PROFILE_OFF_PLAT_T (k : Nat) : Fld := ⟨GD_PROFILE_OFF k, 13, 8⟩
abbrev GD_PROFILE_OFF_EFF_PLAT_T (k : Nat) : Fld := ⟨GD_PROFILE_OFF_EFF k, 13, 8⟩
abbrev GD_PROFILE_OFF_PRE_N (k : Nat) : Fld := ⟨GD_PROFILE_OFF k, 7, 6⟩
abbrev GD_PROFILE_OFF_EFF_PRE_N (k : Nat) : Fld := ⟨GD_PROFILE_OFF_EFF k, 7, 6⟩
abbrev GD_PROFILE_OFF_PRE_T (k : Nat) : Fld := ⟨GD_PROFILE_OFF k, 5, 0⟩
abbrev GD_PROFILE_OFF_EFF_PRE_T (k : Nat) : Fld := ⟨GD_PROFILE_OFF_EFF k, 5, 0⟩

/-- GD_LOOP (R118). -/
abbrev GD_LOOP (k : Nat) : Reg := ⟨0x40100010 + k * 0x100, 0x32043300⟩
abbrev GD_LOOP_CEIL (k : Nat) : Fld := ⟨GD_LOOP k, 29, 20⟩
abbrev GD_LOOP_MARGIN (k : Nat) : Fld := ⟨GD_LOOP k, 19, 16⟩
abbrev GD_LOOP_UPCNT (k : Nat) : Fld := ⟨GD_LOOP k, 15, 12⟩
abbrev GD_LOOP_NMAX (k : Nat) : Fld := ⟨GD_LOOP k, 9, 8⟩
abbrev GD_LOOP_NMIN (k : Nat) : Fld := ⟨GD_LOOP k, 7, 6⟩
abbrev GD_LOOP_FREEZE (k : Nat) : Fld := ⟨GD_LOOP k, 2, 2⟩
abbrev GD_LOOP_EN_OFF (k : Nat) : Fld := ⟨GD_LOOP k, 1, 1⟩
abbrev GD_LOOP_EN_ON (k : Nat) : Fld := ⟨GD_LOOP k, 0, 0⟩

/-- GD_SENSE (R115). -/
abbrev GD_SENSE (k : Nat) : Reg := ⟨0x40100014 + k * 0x100, 0x320C8C8⟩
abbrev GD_SENSE_MEASWIN (k : Nat) : Fld := ⟨GD_SENSE k, 27, 20⟩
abbrev GD_SENSE_VSWMIN (k : Nat) : Fld := ⟨GD_SENSE k, 19, 10⟩
abbrev GD_SENSE_SNSK (k : Nat) : Fld := ⟨GD_SENSE k, 9, 0⟩

/-- GD_EDGE_ON (R117). -/
abbrev GD_EDGE_ON (k : Nat) : Reg := ⟨0x40100018 + k * 0x100, 0x0⟩
abbrev GD_EDGE_ON_VALID (k : Nat) : Fld := ⟨GD_EDGE_ON k, 31, 31⟩
abbrev GD_EDGE_ON_CAUSE (k : Nat) : Fld := ⟨GD_EDGE_ON k, 30, 28⟩
abbrev GD_EDGE_ON_N (k : Nat) : Fld := ⟨GD_EDGE_ON k, 27, 26⟩
abbrev GD_EDGE_ON_DVDT (k : Nat) : Fld := ⟨GD_EDGE_ON k, 25, 16⟩
abbrev GD_EDGE_ON_T2080 (k : Nat) : Fld := ⟨GD_EDGE_ON k, 11, 0⟩

/-- GD_EDGE_OFF (R117). -/
abbrev GD_EDGE_OFF (k : Nat) : Reg := ⟨0x4010001C + k * 0x100, 0x0⟩
abbrev GD_EDGE_OFF_VALID (k : Nat) : Fld := ⟨GD_EDGE_OFF k, 31, 31⟩
abbrev GD_EDGE_OFF_CAUSE (k : Nat) : Fld := ⟨GD_EDGE_OFF k, 30, 28⟩
abbrev GD_EDGE_OFF_N (k : Nat) : Fld := ⟨GD_EDGE_OFF k, 27, 26⟩
abbrev GD_EDGE_OFF_DVDT (k : Nat) : Fld := ⟨GD_EDGE_OFF k, 25, 16⟩
abbrev GD_EDGE_OFF_T2080 (k : Nat) : Fld := ⟨GD_EDGE_OFF k, 11, 0⟩

/-- GD_STATUS (R110). -/
abbrev GD_STATUS (k : Nat) : Reg := ⟨0x40100020 + k * 0x100, 0x0⟩
abbrev GD_STATUS_BUV (k : Nat) : Fld := ⟨GD_STATUS k, 11, 11⟩
abbrev GD_STATUS_RFACT (k : Nat) : Fld := ⟨GD_STATUS k, 10, 10⟩
abbrev GD_STATUS_NLIM (k : Nat) : Fld := ⟨GD_STATUS k, 9, 9⟩
abbrev GD_STATUS_CEILX (k : Nat) : Fld := ⟨GD_STATUS k, 8, 8⟩
abbrev GD_STATUS_ILKREF (k : Nat) : Fld := ⟨GD_STATUS k, 7, 7⟩
abbrev GD_STATUS_LINKLOSS (k : Nat) : Fld := ⟨GD_STATUS k, 6, 6⟩
abbrev GD_STATUS_BIASOK (k : Nat) : Fld := ⟨GD_STATUS k, 4, 4⟩
abbrev GD_STATUS_FORCED (k : Nat) : Fld := ⟨GD_STATUS k, 3, 3⟩
abbrev GD_STATUS_GATE (k : Nat) : Fld := ⟨GD_STATUS k, 2, 2⟩
abbrev GD_STATUS_CMD (k : Nat) : Fld := ⟨GD_STATUS k, 1, 1⟩

/-- GD_CNT0 (R108). -/
abbrev GD_CNT0 (k : Nat) : Reg := ⟨0x40100024 + k * 0x100, 0x0⟩
abbrev GD_CNT0_ILK_CNT (k : Nat) : Fld := ⟨GD_CNT0 k, 31, 16⟩
abbrev GD_CNT0_CEILX_CNT (k : Nat) : Fld := ⟨GD_CNT0 k, 15, 0⟩

/-- GD_CNT1 (R126). -/
abbrev GD_CNT1 (k : Nat) : Reg := ⟨0x40100028 + k * 0x100, 0x0⟩
abbrev GD_CNT1_RF_CNT (k : Nat) : Fld := ⟨GD_CNT1 k, 31, 16⟩
abbrev GD_CNT1_INVAL_CNT (k : Nat) : Fld := ⟨GD_CNT1 k, 15, 0⟩

/-- GD_BOOT (R125). -/
abbrev GD_BOOT (k : Nat) : Reg := ⟨0x4010002C + k * 0x100, 0xCA004⟩
abbrev GD_BOOT_BUV_LSON (k : Nat) : Fld := ⟨GD_BOOT k, 20, 20⟩
abbrev GD_BOOT_STR (k : Nat) : Fld := ⟨GD_BOOT k, 19, 18⟩
abbrev GD_BOOT_RF_GUARD (k : Nat) : Fld := ⟨GD_BOOT k, 17, 12⟩
abbrev GD_BOOT_T_REF (k : Nat) : Fld := ⟨GD_BOOT k, 8, 1⟩
abbrev GD_BOOT_RF_EN (k : Nat) : Fld := ⟨GD_BOOT k, 0, 0⟩

/-- GD_LEVELS (R115). -/
abbrev GD_LEVELS (k : Nat) : Reg := ⟨0x40100030 + k * 0x100, 0x0⟩
abbrev GD_LEVELS_VOFF (k : Nat) : Fld := ⟨GD_LEVELS k, 25, 16⟩
abbrev GD_LEVELS_VON (k : Nat) : Fld := ⟨GD_LEVELS k, 9, 0⟩

/-- GD_LOOPSTAT (R120). -/
abbrev GD_LOOPSTAT (k : Nat) : Reg := ⟨0x40100034 + k * 0x100, 0x0⟩
abbrev GD_LOOPSTAT_RUN_OFF (k : Nat) : Fld := ⟨GD_LOOPSTAT k, 19, 16⟩
abbrev GD_LOOPSTAT_RUN_ON (k : Nat) : Fld := ⟨GD_LOOPSTAT k, 11, 8⟩
abbrev GD_LOOPSTAT_N_OFF (k : Nat) : Fld := ⟨GD_LOOPSTAT k, 5, 4⟩
abbrev GD_LOOPSTAT_N_ON (k : Nat) : Fld := ⟨GD_LOOPSTAT k, 1, 0⟩

/-- GD_BIASPWR (R124). -/
abbrev GD_BIASPWR (k : Nat) : Reg := ⟨0x40100038 + k * 0x100, 0x0⟩
abbrev GD_BIASPWR_PWR (k : Nat) : Fld := ⟨GD_BIASPWR k, 11, 0⟩

/-! ### Chapter 06 -/

/-- GD_PROT (R131). -/
abbrev GD_PROT (k : Nat) : Reg := ⟨0x40100040 + k * 0x100, 0xBCA8B520⟩
abbrev GD_PROT_DIDT_EN (k : Nat) : Fld := ⟨GD_PROT k, 31, 31⟩
abbrev GD_PROT_DIDT_TH (k : Nat) : Fld := ⟨GD_PROT k, 30, 26⟩
abbrev GD_PROT_DSAT_EN (k : Nat) : Fld := ⟨GD_PROT k, 23, 23⟩
abbrev GD_PROT_DSAT_TH (k : Nat) : Fld := ⟨GD_PROT k, 22, 18⟩
abbrev GD_PROT_BLANK (k : Nat) : Fld := ⟨GD_PROT k, 17, 10⟩
abbrev GD_PROT_SOFT_T (k : Nat) : Fld := ⟨GD_PROT k, 9, 6⟩
abbrev GD_PROT_MCL_TH (k : Nat) : Fld := ⟨GD_PROT k, 5, 4⟩
abbrev GD_PROT_NUV_ACT (k : Nat) : Fld := ⟨GD_PROT k, 3, 3⟩

/-- GD_PFLT (R137). -/
abbrev GD_PFLT (k : Nat) : Reg := ⟨0x40100044 + k * 0x100, 0x0⟩
abbrev GD_PFLT_CLRREJ (k : Nat) : Fld := ⟨GD_PFLT k, 7, 7⟩
abbrev GD_PFLT_SOFTACT (k : Nat) : Fld := ⟨GD_PFLT k, 6, 6⟩
abbrev GD_PFLT_MCLAMP (k : Nat) : Fld := ⟨GD_PFLT k, 5, 5⟩
abbrev GD_PFLT_UVN (k : Nat) : Fld := ⟨GD_PFLT k, 4, 4⟩
abbrev GD_PFLT_UVP (k : Nat) : Fld := ⟨GD_PFLT k, 3, 3⟩
abbrev GD_PFLT_DSAT (k : Nat) : Fld := ⟨GD_PFLT k, 1, 1⟩
abbrev GD_PFLT_DIDT (k : Nat) : Fld := ⟨GD_PFLT k, 0, 0⟩

/-! ### Chapter 05 -/

/-- GDG_LOCK (R512). -/
abbrev GDG_LOCK : Reg := ⟨0x40108000, 0x0⟩
abbrev GDG_LOCK_CFG_LOCK : Fld := ⟨GDG_LOCK, 0, 0⟩

/-- GDG_AGG (R123). -/
abbrev GDG_AGG : Reg := ⟨0x40108004, 0xC0⟩
abbrev GDG_AGG_BACKUP : Fld := ⟨GDG_AGG, 12, 12⟩
abbrev GDG_AGG_STEP : Fld := ⟨GDG_AGG, 11, 8⟩
abbrev GDG_AGG_AGGLIM : Fld := ⟨GDG_AGG, 7, 0⟩

/-- GDG_SHARE (R123). -/
abbrev GDG_SHARE : Reg := ⟨0x40108008, 0x120C0C⟩
abbrev GDG_SHARE_SHC : Fld := ⟨GDG_SHARE, 23, 16⟩
abbrev GDG_SHARE_SHB : Fld := ⟨GDG_SHARE, 15, 8⟩
abbrev GDG_SHARE_SHA : Fld := ⟨GDG_SHARE, 7, 0⟩

/-- GDG_GRPLIM (R123). -/
abbrev GDG_GRPLIM : Reg := ⟨0x4010800C, 0x0⟩
abbrev GDG_GRPLIM_LIMC : Fld := ⟨GDG_GRPLIM, 23, 16⟩
abbrev GDG_GRPLIM_LIMB : Fld := ⟨GDG_GRPLIM, 15, 8⟩
abbrev GDG_GRPLIM_LIMA : Fld := ⟨GDG_GRPLIM, 7, 0⟩

/-- GDG_GRPPWR (R124). -/
abbrev GDG_GRPPWR : Reg := ⟨0x40108010, 0x0⟩
abbrev GDG_GRPPWR_PWRC : Fld := ⟨GDG_GRPPWR, 23, 16⟩
abbrev GDG_GRPPWR_PWRB : Fld := ⟨GDG_GRPPWR, 15, 8⟩
abbrev GDG_GRPPWR_PWRA : Fld := ⟨GDG_GRPPWR, 7, 0⟩

/-! ### Chapter 06 -/

/-- GDG_OSDCTRL (R148). -/
abbrev GDG_OSDCTRL : Reg := ⟨0x40108100, 0x320C⟩
abbrev GDG_OSDCTRL_SETTLE : Fld := ⟨GDG_OSDCTRL, 15, 8⟩
abbrev GDG_OSDCTRL_OPEN_EN : Fld := ⟨GDG_OSDCTRL, 3, 3⟩
abbrev GDG_OSDCTRL_SHORT_EN : Fld := ⟨GDG_OSDCTRL, 2, 2⟩
abbrev GDG_OSDCTRL_ABORT : Fld := ⟨GDG_OSDCTRL, 1, 1⟩
abbrev GDG_OSDCTRL_START : Fld := ⟨GDG_OSDCTRL, 0, 0⟩

/-- GDG_OSDLEGS (R148). -/
abbrev GDG_OSDLEGS : Reg := ⟨0x40108104, 0x0⟩
abbrev GDG_OSDLEGS_LEGS : Fld := ⟨GDG_OSDLEGS, 31, 0⟩

/-- GDG_OSDSTAT (R151). -/
abbrev GDG_OSDSTAT : Reg := ⟨0x40108108, 0x0⟩
abbrev GDG_OSDSTAT_FAILS : Fld := ⟨GDG_OSDSTAT, 23, 16⟩
abbrev GDG_OSDSTAT_STEP : Fld := ⟨GDG_OSDSTAT, 15, 8⟩
abbrev GDG_OSDSTAT_CAUSE : Fld := ⟨GDG_OSDSTAT, 3, 1⟩
abbrev GDG_OSDSTAT_BUSY : Fld := ⟨GDG_OSDSTAT, 0, 0⟩

/-- GDG_OSDTHR (R152). -/
abbrev GDG_OSDTHR : Reg := ⟨0x4010810C, 0x14082814⟩
abbrev GDG_OSDTHR_VOPEN_LV : Fld := ⟨GDG_OSDTHR, 31, 24⟩
abbrev GDG_OSDTHR_VSHORT_LV : Fld := ⟨GDG_OSDTHR, 23, 16⟩
abbrev GDG_OSDTHR_VOPEN : Fld := ⟨GDG_OSDTHR, 15, 8⟩
abbrev GDG_OSDTHR_VSHORT : Fld := ⟨GDG_OSDTHR, 7, 0⟩

/-- GDG_OSDVDC (R151). -/
abbrev GDG_OSDVDC : Reg := ⟨0x40108110, 0x0⟩
abbrev GDG_OSDVDC_VDC : Fld := ⟨GDG_OSDVDC, 15, 0⟩

/-- GDG_OSDPAIR (R151). -/
abbrev GDG_OSDPAIR (k : Nat) : Reg := ⟨0x40108120 + k * 0x4, 0x0⟩
abbrev GDG_OSDPAIR_EN3 (k : Nat) : Fld := ⟨GDG_OSDPAIR k, 31, 31⟩
abbrev GDG_OSDPAIR_PARTNER3 (k : Nat) : Fld := ⟨GDG_OSDPAIR k, 28, 24⟩
abbrev GDG_OSDPAIR_EN2 (k : Nat) : Fld := ⟨GDG_OSDPAIR k, 23, 23⟩
abbrev GDG_OSDPAIR_PARTNER2 (k : Nat) : Fld := ⟨GDG_OSDPAIR k, 20, 16⟩
abbrev GDG_OSDPAIR_EN1 (k : Nat) : Fld := ⟨GDG_OSDPAIR k, 15, 15⟩
abbrev GDG_OSDPAIR_PARTNER1 (k : Nat) : Fld := ⟨GDG_OSDPAIR k, 12, 8⟩
abbrev GDG_OSDPAIR_EN0 (k : Nat) : Fld := ⟨GDG_OSDPAIR k, 7, 7⟩
abbrev GDG_OSDPAIR_PARTNER0 (k : Nat) : Fld := ⟨GDG_OSDPAIR k, 4, 0⟩

/-- GDG_OSDRES (R151). -/
abbrev GDG_OSDRES (k : Nat) : Reg := ⟨0x40108180 + k * 0x4, 0x0⟩
abbrev GDG_OSDRES_OPEN (k : Nat) : Fld := ⟨GDG_OSDRES k, 31, 30⟩
abbrev GDG_OSDRES_SHHI (k : Nat) : Fld := ⟨GDG_OSDRES k, 29, 28⟩
abbrev GDG_OSDRES_SHLO (k : Nat) : Fld := ⟨GDG_OSDRES k, 27, 26⟩
abbrev GDG_OSDRES_VH (k : Nat) : Fld := ⟨GDG_OSDRES k, 19, 10⟩
abbrev GDG_OSDRES_VL (k : Nat) : Fld := ⟨GDG_OSDRES k, 9, 0⟩

/-- SCG_MEMB (R142). -/
abbrev SCG_MEMB (k : Nat) : Reg := ⟨0x40108200 + k * 0x10, 0x0⟩
abbrev SCG_MEMB_MEMB (k : Nat) : Fld := ⟨SCG_MEMB k, 31, 0⟩

/-- SCG_CFG (R143). -/
abbrev SCG_CFG (k : Nat) : Reg := ⟨0x40108204 + k * 0x10, 0x7D00⟩
abbrev SCG_CFG_ASC_DLY (k : Nat) : Fld := ⟨SCG_CFG k, 15, 8⟩
abbrev SCG_CFG_UV_SRC (k : Nat) : Fld := ⟨SCG_CFG k, 5, 5⟩
abbrev SCG_CFG_REACT (k : Nat) : Fld := ⟨SCG_CFG k, 1, 0⟩

/-- SCG_STAT (R144). -/
abbrev SCG_STAT (k : Nat) : Reg := ⟨0x40108208 + k * 0x10, 0x0⟩
abbrev SCG_STAT_FIRST (k : Nat) : Fld := ⟨SCG_STAT k, 15, 10⟩
abbrev SCG_STAT_HIC (k : Nat) : Fld := ⟨SCG_STAT k, 9, 9⟩
abbrev SCG_STAT_LOC (k : Nat) : Fld := ⟨SCG_STAT k, 8, 8⟩
abbrev SCG_STAT_DLY (k : Nat) : Fld := ⟨SCG_STAT k, 2, 2⟩
abbrev SCG_STAT_STATE (k : Nat) : Fld := ⟨SCG_STAT k, 1, 0⟩

/-- SCG_CLR (R146). -/
abbrev SCG_CLR (k : Nat) : Reg := ⟨0x4010820C + k * 0x10, 0x0⟩
abbrev SCG_CLR_CLR (k : Nat) : Fld := ⟨SCG_CLR k, 0, 0⟩

/-! ### Chapter 07 -/

/-- AD_CFG (R159). -/
abbrev AD_CFG (k : Nat) : Reg := ⟨0x40200000 + k * 0x100, (if 22 ≤ k then 1 else 0)⟩
abbrev AD_CFG_IEN (k : Nat) : Fld := ⟨AD_CFG k, 1, 1⟩
abbrev AD_CFG_EN (k : Nat) : Fld := ⟨AD_CFG k, 0, 0⟩

/-- AD_SEQ (R156). -/
abbrev AD_SEQ (k : Nat) : Reg := ⟨0x40200004 + k * 0x100, (if 22 ≤ k then 0xF0000000 else 0)⟩
/-- The value of AD_SEQ in effect. -/
abbrev AD_SEQ_EFF (k : Nat) : Reg := ⟨0x40200004 + k * 0x100 + 0x80, (if 22 ≤ k then 0xF0000000 else 0)⟩
abbrev AD_SEQ_SLOTS (k : Nat) : Fld := ⟨AD_SEQ k, 31, 0⟩
abbrev AD_SEQ_EFF_SLOTS (k : Nat) : Fld := ⟨AD_SEQ_EFF k, 31, 0⟩

/-- AD_STATUS (R162). -/
abbrev AD_STATUS (k : Nat) : Reg := ⟨0x40200008 + k * 0x100, 0x0⟩
abbrev AD_STATUS_LOSTW (k : Nat) : Fld := ⟨AD_STATUS k, 31, 16⟩
abbrev AD_STATUS_WRAPERR (k : Nat) : Fld := ⟨AD_STATUS k, 3, 3⟩
abbrev AD_STATUS_OVR (k : Nat) : Fld := ⟨AD_STATUS k, 2, 2⟩
abbrev AD_STATUS_ACTIVE (k : Nat) : Fld := ⟨AD_STATUS k, 1, 1⟩

/-- AD_LAST (R22). -/
abbrev AD_LAST (k i : Nat) : Reg := ⟨0x40200020 + k * 0x100 + i * 0x4, 0x0⟩
abbrev AD_LAST_WORD (k i : Nat) : Fld := ⟨AD_LAST k i, 15, 0⟩

/-- ADG_CTRL (R160). -/
abbrev ADG_CTRL : Reg := ⟨0x40202000, 0x0⟩
abbrev ADG_CTRL_LOCK : Fld := ⟨ADG_CTRL, 31, 31⟩
abbrev ADG_CTRL_CLKSEL : Fld := ⟨ADG_CTRL, 0, 0⟩

/-- ADG_STATUS (R160). -/
abbrev ADG_STATUS : Reg := ⟨0x40202004, 0x0⟩
abbrev ADG_STATUS_NOCLK : Fld := ⟨ADG_STATUS, 2, 2⟩
abbrev ADG_STATUS_CLKACT : Fld := ⟨ADG_STATUS, 1, 1⟩
abbrev ADG_STATUS_LOCKED : Fld := ⟨ADG_STATUS, 0, 0⟩

/-- ADG_VDCSRC (R163). -/
abbrev ADG_VDCSRC : Reg := ⟨0x40202008, 0x0⟩
abbrev ADG_VDCSRC_EN : Fld := ⟨ADG_VDCSRC, 31, 31⟩
abbrev ADG_VDCSRC_AD : Fld := ⟨ADG_VDCSRC, 28, 24⟩
abbrev ADG_VDCSRC_SLOT : Fld := ⟨ADG_VDCSRC, 18, 16⟩
abbrev ADG_VDCSRC_GAIN : Fld := ⟨ADG_VDCSRC, 15, 0⟩

/-- ADG_VDC (R163). -/
abbrev ADG_VDC : Reg := ⟨0x4020200C, 0xFFFF⟩
abbrev ADG_VDC_VDC : Fld := ⟨ADG_VDC, 15, 0⟩

/-- WU_SRC (R164). -/
abbrev WU_SRC (k : Nat) : Reg := ⟨0x40204000 + k * 0x40, 0x0⟩
abbrev WU_SRC_EN (k : Nat) : Fld := ⟨WU_SRC k, 8, 8⟩
abbrev WU_SRC_AD (k : Nat) : Fld := ⟨WU_SRC k, 7, 3⟩
abbrev WU_SRC_SLOT (k : Nat) : Fld := ⟨WU_SRC k, 2, 0⟩

/-- WU_OPEN (R165). -/
abbrev WU_OPEN (k : Nat) : Reg := ⟨0x40204004 + k * 0x40, 0xFF⟩
abbrev WU_OPEN_ODLY (k : Nat) : Fld := ⟨WU_OPEN k, 19, 8⟩
abbrev WU_OPEN_OSEL (k : Nat) : Fld := ⟨WU_OPEN k, 7, 0⟩

/-- WU_CLOSE (R165). -/
abbrev WU_CLOSE (k : Nat) : Reg := ⟨0x40204008 + k * 0x40, 0x80FF0032⟩
abbrev WU_CLOSE_CMODE (k : Nat) : Fld := ⟨WU_CLOSE k, 31, 31⟩
abbrev WU_CLOSE_CSEL (k : Nat) : Fld := ⟨WU_CLOSE k, 23, 16⟩
abbrev WU_CLOSE_CVAL (k : Nat) : Fld := ⟨WU_CLOSE k, 15, 0⟩

/-- WU_POLICY (R167). -/
abbrev WU_POLICY (k : Nat) : Reg := ⟨0x4020400C + k * 0x40, 0x0⟩
abbrev WU_POLICY_IEN_LIM (k : Nat) : Fld := ⟨WU_POLICY k, 11, 11⟩
abbrev WU_POLICY_IEN_MISS (k : Nat) : Fld := ⟨WU_POLICY k, 10, 10⟩
abbrev WU_POLICY_IEN_DONE (k : Nat) : Fld := ⟨WU_POLICY k, 9, 9⟩
abbrev WU_POLICY_CAPEN (k : Nat) : Fld := ⟨WU_POLICY k, 8, 8⟩
abbrev WU_POLICY_LIMMODE (k : Nat) : Fld := ⟨WU_POLICY k, 5, 5⟩
abbrev WU_POLICY_LIMEN (k : Nat) : Fld := ⟨WU_POLICY k, 4, 4⟩
abbrev WU_POLICY_POL (k : Nat) : Fld := ⟨WU_POLICY k, 1, 0⟩

/-- WU_LIM (R171). -/
abbrev WU_LIM (k : Nat) : Reg := ⟨0x40204010 + k * 0x40, 0x3FFF0000⟩
abbrev WU_LIM_LIMHI (k : Nat) : Fld := ⟨WU_LIM k, 29, 16⟩
abbrev WU_LIM_LIMLO (k : Nat) : Fld := ⟨WU_LIM k, 13, 0⟩

/-- WU_RES0 (R169). -/
abbrev WU_RES0 (k : Nat) : Reg := ⟨0x40204014 + k * 0x40, 0x0⟩
abbrev WU_RES0_WSEQ (k : Nat) : Fld := ⟨WU_RES0 k, 31, 24⟩
abbrev WU_RES0_EMPTY (k : Nat) : Fld := ⟨WU_RES0 k, 23, 23⟩
abbrev WU_RES0_PARTIAL (k : Nat) : Fld := ⟨WU_RES0 k, 22, 22⟩
abbrev WU_RES0_TMO (k : Nat) : Fld := ⟨WU_RES0 k, 21, 21⟩
abbrev WU_RES0_OVR (k : Nat) : Fld := ⟨WU_RES0 k, 20, 20⟩
abbrev WU_RES0_LIMV (k : Nat) : Fld := ⟨WU_RES0 k, 19, 19⟩
abbrev WU_RES0_COUNT (k : Nat) : Fld := ⟨WU_RES0 k, 15, 0⟩

/-- WU_RES1 (R168). -/
abbrev WU_RES1 (k : Nat) : Reg := ⟨0x40204018 + k * 0x40, 0x0⟩
abbrev WU_RES1_MEAN (k : Nat) : Fld := ⟨WU_RES1 k, 17, 0⟩

/-- WU_RES2 (R168). -/
abbrev WU_RES2 (k : Nat) : Reg := ⟨0x4020401C + k * 0x40, 0x3FFF⟩
abbrev WU_RES2_MAX (k : Nat) : Fld := ⟨WU_RES2 k, 29, 16⟩
abbrev WU_RES2_MIN (k : Nat) : Fld := ⟨WU_RES2 k, 13, 0⟩

/-- WU_RES3 (R168). -/
abbrev WU_RES3 (k : Nat) : Reg := ⟨0x40204020 + k * 0x40, 0x0⟩
abbrev WU_RES3_SUM (k : Nat) : Fld := ⟨WU_RES3 k, 26, 0⟩

/-- WU_STATUS (R165). -/
abbrev WU_STATUS (k : Nat) : Reg := ⟨0x40204024 + k * 0x40, 0x0⟩
abbrev WU_STATUS_PEND (k : Nat) : Fld := ⟨WU_STATUS k, 2, 2⟩
abbrev WU_STATUS_STATE (k : Nat) : Fld := ⟨WU_STATUS k, 1, 0⟩

/-- WU_MISSED (R167). -/
abbrev WU_MISSED (k : Nat) : Reg := ⟨0x40204028 + k * 0x40, 0x0⟩
abbrev WU_MISSED_STRAY (k : Nat) : Fld := ⟨WU_MISSED k, 31, 16⟩
abbrev WU_MISSED_MISSED (k : Nat) : Fld := ⟨WU_MISSED k, 15, 0⟩

/-- WU_LIMCNT (R171). -/
abbrev WU_LIMCNT (k : Nat) : Reg := ⟨0x4020402C + k * 0x40, 0x0⟩
abbrev WU_LIMCNT_LIMCNT (k : Nat) : Fld := ⟨WU_LIMCNT k, 15, 0⟩

/-- WUG_SWTRIG (R164). -/
abbrev WUG_SWTRIG (k : Nat) : Reg := ⟨0x40205000 + k * 0x4, 0x0⟩
abbrev WUG_SWTRIG_TRIG (k : Nat) : Fld := ⟨WUG_SWTRIG k, 31, 0⟩

/-- RQ_STATUS (R173). -/
abbrev RQ_STATUS : Reg := ⟨0x40205100, 0x0⟩
abbrev RQ_STATUS_LOST : Fld := ⟨RQ_STATUS, 31, 16⟩
abbrev RQ_STATUS_FILL : Fld := ⟨RQ_STATUS, 6, 0⟩

/-- CAP_CFG (R174). -/
abbrev CAP_CFG (k : Nat) : Reg := ⟨0x40206000 + k * 0x20, 0xFFFF⟩
abbrev CAP_CFG_LEN (k : Nat) : Fld := ⟨CAP_CFG k, 31, 16⟩
abbrev CAP_CFG_SSEL (k : Nat) : Fld := ⟨CAP_CFG k, 15, 8⟩
abbrev CAP_CFG_SLOTMASK (k : Nat) : Fld := ⟨CAP_CFG k, 7, 0⟩

/-- CAP_SRC (R174). -/
abbrev CAP_SRC (k : Nat) : Reg := ⟨0x40206004 + k * 0x20, 0x0⟩
abbrev CAP_SRC_AD (k : Nat) : Fld := ⟨CAP_SRC k, 4, 0⟩

/-- CAP_CTRL (R174). -/
abbrev CAP_CTRL (k : Nat) : Reg := ⟨0x40206008 + k * 0x20, 0x0⟩
abbrev CAP_CTRL_STOP (k : Nat) : Fld := ⟨CAP_CTRL k, 1, 1⟩
abbrev CAP_CTRL_START (k : Nat) : Fld := ⟨CAP_CTRL k, 0, 0⟩

/-- CAP_STATUS (R174). -/
abbrev CAP_STATUS (k : Nat) : Reg := ⟨0x4020600C + k * 0x20, 0x0⟩
abbrev CAP_STATUS_STORED (k : Nat) : Fld := ⟨CAP_STATUS k, 31, 2⟩
abbrev CAP_STATUS_STATE (k : Nat) : Fld := ⟨CAP_STATUS k, 1, 0⟩

/-- CAP_T0LO (R174). -/
abbrev CAP_T0LO (k : Nat) : Reg := ⟨0x40206010 + k * 0x20, 0x0⟩
abbrev CAP_T0LO_T0 (k : Nat) : Fld := ⟨CAP_T0LO k, 31, 0⟩

/-- CAP_T0HI (R174). -/
abbrev CAP_T0HI (k : Nat) : Reg := ⟨0x40206014 + k * 0x20, 0x0⟩
abbrev CAP_T0HI_T0 (k : Nat) : Fld := ⟨CAP_T0HI k, 31, 0⟩

/-- HKR_VAL (R175). -/
abbrev HKR_VAL (k : Nat) : Reg := ⟨0x40207000 + k * 0x4, 0x0⟩
abbrev HKR_VAL_MEANB (k : Nat) : Fld := ⟨HKR_VAL k, 31, 16⟩
abbrev HKR_VAL_MEANA (k : Nat) : Fld := ⟨HKR_VAL k, 15, 0⟩

/-- HKR_MISM (R176). -/
abbrev HKR_MISM (k : Nat) : Reg := ⟨0x40207100 + k * 0x4, 0x0⟩
abbrev HKR_MISM_MISM (k : Nat) : Fld := ⟨HKR_MISM k, 31, 0⟩

/-- HKR_OVR (R176). -/
abbrev HKR_OVR (k : Nat) : Reg := ⟨0x40207108 + k * 0x4, 0x0⟩
abbrev HKR_OVR_OVR (k : Nat) : Fld := ⟨HKR_OVR k, 31, 0⟩

/-- HKR_STATUS (R177). -/
abbrev HKR_STATUS : Reg := ⟨0x40207110, 0x0⟩
abbrev HKR_STATUS_ROUND : Fld := ⟨HKR_STATUS, 31, 16⟩
abbrev HKR_STATUS_CHAN : Fld := ⟨HKR_STATUS, 5, 0⟩

/-- HKR_CFG (R176). -/
abbrev HKR_CFG : Reg := ⟨0x40207114, 0x40⟩
abbrev HKR_CFG_DIFF : Fld := ⟨HKR_CFG, 7, 0⟩

/-! ### Chapter 08 -/

/-- WM_CFG (R179). -/
abbrev WM_CFG (k : Nat) : Reg := ⟨0x40300000 + k * 0x20, 0xFF00000C⟩
abbrev WM_CFG_DACFT (k : Nat) : Fld := ⟨WM_CFG k, 31, 31⟩
abbrev WM_CFG_SRC (k : Nat) : Fld := ⟨WM_CFG k, 30, 24⟩
abbrev WM_CFG_SMP (k : Nat) : Fld := ⟨WM_CFG k, 23, 20⟩
abbrev WM_CFG_MODE (k : Nat) : Fld := ⟨WM_CFG k, 19, 19⟩
abbrev WM_CFG_FLT (k : Nat) : Fld := ⟨WM_CFG k, 18, 17⟩
abbrev WM_CFG_IEN (k : Nat) : Fld := ⟨WM_CFG k, 16, 16⟩
abbrev WM_CFG_HYS (k : Nat) : Fld := ⟨WM_CFG k, 15, 12⟩
abbrev WM_CFG_SAFE_LO (k : Nat) : Fld := ⟨WM_CFG k, 3, 3⟩
abbrev WM_CFG_SAFE_HI (k : Nat) : Fld := ⟨WM_CFG k, 2, 2⟩
abbrev WM_CFG_EN_LO (k : Nat) : Fld := ⟨WM_CFG k, 1, 1⟩
abbrev WM_CFG_EN_HI (k : Nat) : Fld := ⟨WM_CFG k, 0, 0⟩

/-- WM_TH (R180). -/
abbrev WM_TH (k : Nat) : Reg := ⟨0x40300004 + k * 0x20, 0x3FF0000⟩
abbrev WM_TH_TH_HI (k : Nat) : Fld := ⟨WM_TH k, 25, 16⟩
abbrev WM_TH_TH_LO (k : Nat) : Fld := ⟨WM_TH k, 9, 0⟩

/-- WM_STATUS (R186). -/
abbrev WM_STATUS (k : Nat) : Reg := ⟨0x40300008 + k * 0x20, 0x0⟩
abbrev WM_STATUS_NOSTRB (k : Nat) : Fld := ⟨WM_STATUS k, 4, 4⟩
abbrev WM_STATUS_STK_LO (k : Nat) : Fld := ⟨WM_STATUS k, 3, 3⟩
abbrev WM_STATUS_STK_HI (k : Nat) : Fld := ⟨WM_STATUS k, 2, 2⟩
abbrev WM_STATUS_OUT_LO (k : Nat) : Fld := ⟨WM_STATUS k, 1, 1⟩
abbrev WM_STATUS_OUT_HI (k : Nat) : Fld := ⟨WM_STATUS k, 0, 0⟩

/-- WM_CNT (R186). -/
abbrev WM_CNT (k : Nat) : Reg := ⟨0x4030000C + k * 0x20, 0x0⟩
abbrev WM_CNT_CNT_LO (k : Nat) : Fld := ⟨WM_CNT k, 31, 16⟩
abbrev WM_CNT_CNT_HI (k : Nat) : Fld := ⟨WM_CNT k, 15, 0⟩

/-- WMG_LOCK (R191). -/
abbrev WMG_LOCK : Reg := ⟨0x40301000, 0x0⟩
abbrev WMG_LOCK_LOCK : Fld := ⟨WMG_LOCK, 0, 0⟩

/-- WMG_RBTOL (R192). -/
abbrev WMG_RBTOL : Reg := ⟨0x40301004, 0x4⟩
abbrev WMG_RBTOL_RBTOL : Fld := ⟨WMG_RBTOL, 7, 0⟩

/-- WMG_DACFLT (R192). -/
abbrev WMG_DACFLT (k : Nat) : Reg := ⟨0x40301010 + k * 0x4, 0x0⟩
abbrev WMG_DACFLT_DACFLT (k : Nat) : Fld := ⟨WMG_DACFLT k, 31, 0⟩

/-- TRN_SEL (R188). -/
abbrev TRN_SEL (k : Nat) : Reg := ⟨0x40302000 + k * 0x4, 0xFFFFFFFF⟩
abbrev TRN_SEL_SEL3 (k : Nat) : Fld := ⟨TRN_SEL k, 31, 24⟩
abbrev TRN_SEL_SEL2 (k : Nat) : Fld := ⟨TRN_SEL k, 23, 16⟩
abbrev TRN_SEL_SEL1 (k : Nat) : Fld := ⟨TRN_SEL k, 15, 8⟩
abbrev TRN_SEL_SEL0 (k : Nat) : Fld := ⟨TRN_SEL k, 7, 0⟩

/-- TRN_OR_MSK (R188). -/
abbrev TRN_OR_MSK (k i : Nat) : Reg := ⟨0x40302100 + k * 0x20 + i * 0x4, 0x0⟩
abbrev TRN_OR_MSK_MSK (k i : Nat) : Fld := ⟨TRN_OR_MSK k i, 31, 0⟩

/-- TRN_PADCFG (R189). -/
abbrev TRN_PADCFG : Reg := ⟨0x40302300, 0x0⟩
abbrev TRN_PADCFG_POL3 : Fld := ⟨TRN_PADCFG, 14, 14⟩
abbrev TRN_PADCFG_FLT3 : Fld := ⟨TRN_PADCFG, 13, 12⟩
abbrev TRN_PADCFG_POL2 : Fld := ⟨TRN_PADCFG, 10, 10⟩
abbrev TRN_PADCFG_FLT2 : Fld := ⟨TRN_PADCFG, 9, 8⟩
abbrev TRN_PADCFG_POL1 : Fld := ⟨TRN_PADCFG, 6, 6⟩
abbrev TRN_PADCFG_FLT1 : Fld := ⟨TRN_PADCFG, 5, 4⟩
abbrev TRN_PADCFG_POL0 : Fld := ⟨TRN_PADCFG, 2, 2⟩
abbrev TRN_PADCFG_FLT0 : Fld := ⟨TRN_PADCFG, 1, 0⟩

/-- TRN_OUT (R190). -/
abbrev TRN_OUT : Reg := ⟨0x40302304, 0xFF⟩
abbrev TRN_OUT_POL : Fld := ⟨TRN_OUT, 8, 8⟩
abbrev TRN_OUT_SEL : Fld := ⟨TRN_OUT, 7, 0⟩

/-- TRN_STICKY (R189). -/
abbrev TRN_STICKY : Reg := ⟨0x40302308, 0x0⟩
abbrev TRN_STICKY_PAD : Fld := ⟨TRN_STICKY, 3, 0⟩

/-- TRN_STATE (R187). -/
abbrev TRN_STATE (k : Nat) : Reg := ⟨0x40302310 + k * 0x4, 0x0⟩
abbrev TRN_STATE_ACT (k : Nat) : Fld := ⟨TRN_STATE k, 31, 0⟩

/-- TRN_LOCK (R191). -/
abbrev TRN_LOCK : Reg := ⟨0x40302330, 0x0⟩
abbrev TRN_LOCK_LOCK : Fld := ⟨TRN_LOCK, 0, 0⟩

/-! ### Chapter 09 -/

/-- CE_CTRL (R198). -/
abbrev CE_CTRL (k : Nat) : Reg := ⟨0x40500400 + k * 0x80, 0xF000003⟩
abbrev CE_CTRL_LGENT (k : Nat) : Fld := ⟨CE_CTRL k, 27, 24⟩
abbrev CE_CTRL_IEN_DL (k : Nat) : Fld := ⟨CE_CTRL k, 4, 4⟩
abbrev CE_CTRL_RESTART (k : Nat) : Fld := ⟨CE_CTRL k, 2, 2⟩
abbrev CE_CTRL_TRAPHALT (k : Nat) : Fld := ⟨CE_CTRL k, 1, 1⟩
abbrev CE_CTRL_HALT (k : Nat) : Fld := ⟨CE_CTRL k, 0, 0⟩

/-- CE_STATUS (R198). -/
abbrev CE_STATUS (k : Nat) : Reg := ⟨0x40500404 + k * 0x80, 0x0⟩
abbrev CE_STATUS_TRAPCAUSE (k : Nat) : Fld := ⟨CE_STATUS k, 31, 24⟩
abbrev CE_STATUS_PEND (k : Nat) : Fld := ⟨CE_STATUS k, 23, 20⟩
abbrev CE_STATUS_STATE (k : Nat) : Fld := ⟨CE_STATUS k, 1, 0⟩

/-- CE_TSCFG (R199). -/
abbrev CE_TSCFG (k i : Nat) : Reg := ⟨0x40500408 + k * 0x80 + i * 0x4, 0xFF⟩
abbrev CE_TSCFG_EN (k i : Nat) : Fld := ⟨CE_TSCFG k i, 31, 31⟩
abbrev CE_TSCFG_TYPE (k i : Nat) : Fld := ⟨CE_TSCFG k i, 30, 29⟩
abbrev CE_TSCFG_EVSEL (k i : Nat) : Fld := ⟨CE_TSCFG k i, 7, 0⟩

/-- CE_TSMSKLO (R199). -/
abbrev CE_TSMSKLO (k i : Nat) : Reg := ⟨0x40500418 + k * 0x80 + i * 0x8, 0x0⟩
abbrev CE_TSMSKLO_MSK (k i : Nat) : Fld := ⟨CE_TSMSKLO k i, 31, 0⟩

/-- CE_TSMSKHI (R199). -/
abbrev CE_TSMSKHI (k i : Nat) : Reg := ⟨0x4050041C + k * 0x80 + i * 0x8, 0x0⟩
abbrev CE_TSMSKHI_MSK (k i : Nat) : Fld := ⟨CE_TSMSKHI k i, 31, 0⟩

/-- CE_DLCFG (R203). -/
abbrev CE_DLCFG (k : Nat) : Reg := ⟨0x40500438 + k * 0x80, 0x3200028⟩
abbrev CE_DLCFG_EN (k : Nat) : Fld := ⟨CE_DLCFG k, 31, 31⟩
abbrev CE_DLCFG_ACT (k : Nat) : Fld := ⟨CE_DLCFG k, 30, 30⟩
abbrev CE_DLCFG_ESCACT (k : Nat) : Fld := ⟨CE_DLCFG k, 29, 29⟩
abbrev CE_DLCFG_ESC (k : Nat) : Fld := ⟨CE_DLCFG k, 27, 24⟩
abbrev CE_DLCFG_BND (k : Nat) : Fld := ⟨CE_DLCFG k, 21, 20⟩
abbrev CE_DLCFG_MOD (k : Nat) : Fld := ⟨CE_DLCFG k, 16, 12⟩
abbrev CE_DLCFG_GUARD (k : Nat) : Fld := ⟨CE_DLCFG k, 11, 0⟩

/-- CE_DLSTAT (R204). -/
abbrev CE_DLSTAT (k : Nat) : Reg := ⟨0x4050043C + k * 0x80, 0x0⟩
abbrev CE_DLSTAT_MISS_CNT (k : Nat) : Fld := ⟨CE_DLSTAT k, 31, 16⟩
abbrev CE_DLSTAT_RUNMISS (k : Nat) : Fld := ⟨CE_DLSTAT k, 11, 8⟩
abbrev CE_DLSTAT_ESC (k : Nat) : Fld := ⟨CE_DLSTAT k, 2, 2⟩
abbrev CE_DLSTAT_MISS (k : Nat) : Fld := ⟨CE_DLSTAT k, 1, 1⟩
abbrev CE_DLSTAT_OPEN (k : Nat) : Fld := ⟨CE_DLSTAT k, 0, 0⟩

/-- CE_CNT (R202). -/
abbrev CE_CNT (k : Nat) : Reg := ⟨0x40500440 + k * 0x80, 0x0⟩
abbrev CE_CNT_LOST (k : Nat) : Fld := ⟨CE_CNT k, 31, 16⟩
abbrev CE_CNT_OVRUN (k : Nat) : Fld := ⟨CE_CNT k, 15, 0⟩

/-- CE_CNT2 (R205). -/
abbrev CE_CNT2 (k : Nat) : Reg := ⟨0x40500444 + k * 0x80, 0x0⟩
abbrev CE_CNT2_WHLD (k : Nat) : Fld := ⟨CE_CNT2 k, 15, 0⟩

/-- CE_DOORBELL (R199). -/
abbrev CE_DOORBELL (k : Nat) : Reg := ⟨0x40500448 + k * 0x80, 0x0⟩
abbrev CE_DOORBELL_RING (k : Nat) : Fld := ⟨CE_DOORBELL k, 3, 0⟩

/-- CE_PC (R198). -/
abbrev CE_PC (k : Nat) : Reg := ⟨0x4050044C + k * 0x80, 0x0⟩
abbrev CE_PC_PC (k : Nat) : Fld := ⟨CE_PC k, 31, 0⟩

/-- CE_CYCLES (R203). -/
abbrev CE_CYCLES (k : Nat) : Reg := ⟨0x40500450 + k * 0x80, 0x0⟩
abbrev CE_CYCLES_MAX (k : Nat) : Fld := ⟨CE_CYCLES k, 31, 16⟩
abbrev CE_CYCLES_LAST (k : Nat) : Fld := ⟨CE_CYCLES k, 15, 0⟩

/-! ### Chapter 10 -/

/-- POS_CFG (R216). -/
abbrev POS_CFG (k : Nat) : Reg := ⟨0x40400000 + k * 0x100, 0x4⟩
abbrev POS_CFG_EN (k : Nat) : Fld := ⟨POS_CFG k, 31, 31⟩
abbrev POS_CFG_SRC (k : Nat) : Fld := ⟨POS_CFG k, 30, 28⟩
abbrev POS_CFG_CNTMODE (k : Nat) : Fld := ⟨POS_CFG k, 27, 27⟩
abbrev POS_CFG_LIMEN (k : Nat) : Fld := ⟨POS_CFG k, 26, 26⟩
abbrev POS_CFG_DIRINV (k : Nat) : Fld := ⟨POS_CFG k, 25, 25⟩
abbrev POS_CFG_ZEN (k : Nat) : Fld := ⟨POS_CFG k, 24, 24⟩
abbrev POS_CFG_ZRST (k : Nat) : Fld := ⟨POS_CFG k, 23, 23⟩
abbrev POS_CFG_CMPDIR (k : Nat) : Fld := ⟨POS_CFG k, 21, 20⟩
abbrev POS_CFG_CMPCYC (k : Nat) : Fld := ⟨POS_CFG k, 19, 19⟩
abbrev POS_CFG_PCPOL (k : Nat) : Fld := ⟨POS_CFG k, 18, 18⟩
abbrev POS_CFG_CMPLEN (k : Nat) : Fld := ⟨POS_CFG k, 15, 12⟩
abbrev POS_CFG_TMIN (k : Nat) : Fld := ⟨POS_CFG k, 11, 0⟩

/-- POS_MOD (R222). -/
abbrev POS_MOD (k : Nat) : Reg := ⟨0x40400004 + k * 0x100, 0x1000⟩
abbrev POS_MOD_MOD (k : Nat) : Fld := ⟨POS_MOD k, 31, 0⟩

/-- POS_LIMLO (R223). -/
abbrev POS_LIMLO (k : Nat) : Reg := ⟨0x40400008 + k * 0x100, 0x80000000⟩
abbrev POS_LIMLO_LIMLO (k : Nat) : Fld := ⟨POS_LIMLO k, 31, 0⟩

/-- POS_LIMHI (R223). -/
abbrev POS_LIMHI (k : Nat) : Reg := ⟨0x4040000C + k * 0x100, 0x7FFFFFFF⟩
abbrev POS_LIMHI_LIMHI (k : Nat) : Fld := ⟨POS_LIMHI k, 31, 0⟩

/-- POS_ZVAL (R221). -/
abbrev POS_ZVAL (k : Nat) : Reg := ⟨0x40400010 + k * 0x100, 0x0⟩
abbrev POS_ZVAL_ZVAL (k : Nat) : Fld := ⟨POS_ZVAL k, 31, 0⟩

/-- POS_CNT (R225). -/
abbrev POS_CNT (k : Nat) : Reg := ⟨0x40400014 + k * 0x100, 0x0⟩
abbrev POS_CNT_CNT (k : Nat) : Fld := ⟨POS_CNT k, 31, 0⟩

/-- POS_ZLATCH (R221). -/
abbrev POS_ZLATCH (k : Nat) : Reg := ⟨0x40400018 + k * 0x100, 0x0⟩
abbrev POS_ZLATCH_ZLATCH (k : Nat) : Fld := ⟨POS_ZLATCH k, 31, 0⟩

/-- POS_STATUS (R224). -/
abbrev POS_STATUS (k : Nat) : Reg := ⟨0x4040001C + k * 0x100, 0x4000⟩
abbrev POS_STATUS_CMPPTR (k : Nat) : Fld := ⟨POS_STATUS k, 31, 28⟩
abbrev POS_STATUS_PVALID (k : Nat) : Fld := ⟨POS_STATUS k, 15, 15⟩
abbrev POS_STATUS_STANDSTILL (k : Nat) : Fld := ⟨POS_STATUS k, 14, 14⟩
abbrev POS_STATUS_DIR (k : Nat) : Fld := ⟨POS_STATUS k, 13, 13⟩
abbrev POS_STATUS_CMPDONE (k : Nat) : Fld := ⟨POS_STATUS k, 9, 9⟩
abbrev POS_STATUS_LOSS (k : Nat) : Fld := ⟨POS_STATUS k, 8, 8⟩
abbrev POS_STATUS_ZSEEN (k : Nat) : Fld := ⟨POS_STATUS k, 7, 7⟩
abbrev POS_STATUS_LIMIT_HI (k : Nat) : Fld := ⟨POS_STATUS k, 6, 6⟩
abbrev POS_STATUS_LIMIT_LO (k : Nat) : Fld := ⟨POS_STATUS k, 5, 5⟩
abbrev POS_STATUS_QERR (k : Nat) : Fld := ⟨POS_STATUS k, 4, 4⟩
abbrev POS_STATUS_EFLT (k : Nat) : Fld := ⟨POS_STATUS k, 3, 3⟩
abbrev POS_STATUS_DIRCHG (k : Nat) : Fld := ⟨POS_STATUS k, 2, 2⟩

/-- POS_SPD (R226). -/
abbrev POS_SPD (k : Nat) : Reg := ⟨0x40400020 + k * 0x100, 0x0⟩
abbrev POS_SPD_VALID (k : Nat) : Fld := ⟨POS_SPD k, 31, 31⟩
abbrev POS_SPD_SIGN (k : Nat) : Fld := ⟨POS_SPD k, 30, 30⟩
abbrev POS_SPD_MAG (k : Nat) : Fld := ⟨POS_SPD k, 29, 0⟩

/-- POS_PERIOD (R226). -/
abbrev POS_PERIOD (k : Nat) : Reg := ⟨0x40400024 + k * 0x100, 0xFFFFFFFF⟩
abbrev POS_PERIOD_PERIOD (k : Nat) : Fld := ⟨POS_PERIOD k, 31, 0⟩

/-- POS_TSTAMP (R228). -/
abbrev POS_TSTAMP (k : Nat) : Reg := ⟨0x40400028 + k * 0x100, 0x0⟩
abbrev POS_TSTAMP_TS (k : Nat) : Fld := ⟨POS_TSTAMP k, 31, 0⟩

/-- POS_TMO (R227). -/
abbrev POS_TMO (k : Nat) : Reg := ⟨0x4040002C + k * 0x100, 0x6403E8⟩
abbrev POS_TMO_FRTMO (k : Nat) : Fld := ⟨POS_TMO k, 31, 16⟩
abbrev POS_TMO_STTMO (k : Nat) : Fld := ⟨POS_TMO k, 15, 0⟩

/-- POS_PCMP (R233). -/
abbrev POS_PCMP (k : Nat) : Reg := ⟨0x40400030 + k * 0x100, 0xA⟩
abbrev POS_PCMP_PW (k : Nat) : Fld := ⟨POS_PCMP k, 15, 0⟩

/-- POS_CNTS0 (R216). -/
abbrev POS_CNTS0 (k : Nat) : Reg := ⟨0x40400034 + k * 0x100, 0x0⟩
abbrev POS_CNTS0_QERR_CNT (k : Nat) : Fld := ⟨POS_CNTS0 k, 31, 16⟩
abbrev POS_CNTS0_EFLT_CNT (k : Nat) : Fld := ⟨POS_CNTS0 k, 15, 0⟩

/-- POS_CNTS1 (R232). -/
abbrev POS_CNTS1 (k : Nat) : Reg := ⟨0x40400038 + k * 0x100, 0x0⟩
abbrev POS_CNTS1_CMPSKIP_CNT (k : Nat) : Fld := ⟨POS_CNTS1 k, 31, 16⟩
abbrev POS_CNTS1_FRERR_CNT (k : Nat) : Fld := ⟨POS_CNTS1 k, 15, 8⟩
abbrev POS_CNTS1_FROVR_CNT (k : Nat) : Fld := ⟨POS_CNTS1 k, 7, 0⟩

/-- POS_IEN (R224). -/
abbrev POS_IEN (k : Nat) : Reg := ⟨0x4040003C + k * 0x100, 0x0⟩
abbrev POS_IEN_LOSS (k : Nat) : Fld := ⟨POS_IEN k, 3, 3⟩
abbrev POS_IEN_QERR (k : Nat) : Fld := ⟨POS_IEN k, 2, 2⟩
abbrev POS_IEN_CMP (k : Nat) : Fld := ⟨POS_IEN k, 1, 1⟩
abbrev POS_IEN_DIRCHG (k : Nat) : Fld := ⟨POS_IEN k, 0, 0⟩

/-- POS_CMPCTRL (R232). -/
abbrev POS_CMPCTRL (k : Nat) : Reg := ⟨0x40400040 + k * 0x100, 0x0⟩
abbrev POS_CMPCTRL_RESTART (k : Nat) : Fld := ⟨POS_CMPCTRL k, 0, 0⟩

/-- POS_OWN (R224). -/
abbrev POS_OWN (k : Nat) : Reg := ⟨0x40400044 + k * 0x100, 0xF⟩
abbrev POS_OWN_OWN (k : Nat) : Fld := ⟨POS_OWN k, 3, 0⟩

/-- POS_CMP (R232). -/
abbrev POS_CMP (k i : Nat) : Reg := ⟨0x40400080 + k * 0x100 + i * 0x4, 0x0⟩
abbrev POS_CMP_VAL (k i : Nat) : Fld := ⟨POS_CMP k i, 31, 0⟩

/-- SENT_CFG (R230). -/
abbrev SENT_CFG (k : Nat) : Reg := ⟨0x40401000 + k * 0x40, 0x2E0C001E⟩
abbrev SENT_CFG_EN (k : Nat) : Fld := ⟨SENT_CFG k, 31, 31⟩
abbrev SENT_CFG_SUCCHK (k : Nat) : Fld := ⟨SENT_CFG k, 29, 29⟩
abbrev SENT_CFG_CRCLEG (k : Nat) : Fld := ⟨SENT_CFG k, 28, 28⟩
abbrev SENT_CFG_PAUSE (k : Nat) : Fld := ⟨SENT_CFG k, 27, 27⟩
abbrev SENT_CFG_NIB (k : Nat) : Fld := ⟨SENT_CFG k, 26, 24⟩
abbrev SENT_CFG_POSBITS (k : Nat) : Fld := ⟨SENT_CFG k, 20, 16⟩
abbrev SENT_CFG_TICK (k : Nat) : Fld := ⟨SENT_CFG k, 9, 0⟩

/-- SENT_LAST (R230). -/
abbrev SENT_LAST (k : Nat) : Reg := ⟨0x40401004 + k * 0x40, 0x0⟩
abbrev SENT_LAST_STAT (k : Nat) : Fld := ⟨SENT_LAST k, 27, 24⟩
abbrev SENT_LAST_DATA (k : Nat) : Fld := ⟨SENT_LAST k, 23, 0⟩

/-- SSI_CFG (R231). -/
abbrev SSI_CFG (k : Nat) : Reg := ⟨0x40401200 + k * 0x40, 0xC0DFF14⟩
abbrev SSI_CFG_EN (k : Nat) : Fld := ⟨SSI_CFG k, 31, 31⟩
abbrev SSI_CFG_GRAY (k : Nat) : Fld := ⟨SSI_CFG k, 30, 30⟩
abbrev SSI_CFG_PARITY (k : Nat) : Fld := ⟨SSI_CFG k, 29, 29⟩
abbrev SSI_CFG_LEN (k : Nat) : Fld := ⟨SSI_CFG k, 28, 24⟩
abbrev SSI_CFG_POSBITS (k : Nat) : Fld := ⟨SSI_CFG k, 20, 16⟩
abbrev SSI_CFG_TRIG (k : Nat) : Fld := ⟨SSI_CFG k, 15, 8⟩
abbrev SSI_CFG_MONO (k : Nat) : Fld := ⟨SSI_CFG k, 7, 0⟩

/-- SSI_DIV (R231). -/
abbrev SSI_DIV (k : Nat) : Reg := ⟨0x40401204 + k * 0x40, 0x27⟩
abbrev SSI_DIV_DIV (k : Nat) : Fld := ⟨SSI_DIV k, 10, 0⟩

/-- SSI_STAT (R231). -/
abbrev SSI_STAT (k : Nat) : Reg := ⟨0x40401208 + k * 0x40, 0x0⟩
abbrev SSI_STAT_TRGMISS (k : Nat) : Fld := ⟨SSI_STAT k, 15, 0⟩

/-- RES_CFG (R235). -/
abbrev RES_CFG (k : Nat) : Reg := ⟨0x40402000 + k * 0x100, 0x141503E8⟩
abbrev RES_CFG_EN (k : Nat) : Fld := ⟨RES_CFG k, 31, 31⟩
abbrev RES_CFG_EXCEN (k : Nat) : Fld := ⟨RES_CFG k, 30, 30⟩
abbrev RES_CFG_CONVS (k : Nat) : Fld := ⟨RES_CFG k, 28, 24⟩
abbrev RES_CFG_CONVC (k : Nat) : Fld := ⟨RES_CFG k, 20, 16⟩
abbrev RES_CFG_SLOT (k : Nat) : Fld := ⟨RES_CFG k, 14, 12⟩
abbrev RES_CFG_DIV (k : Nat) : Fld := ⟨RES_CFG k, 10, 0⟩

/-- RES_EXC (R236). -/
abbrev RES_EXC (k : Nat) : Reg := ⟨0x40402004 + k * 0x100, 0x10000⟩
abbrev RES_EXC_PHASE (k : Nat) : Fld := ⟨RES_EXC k, 28, 18⟩
abbrev RES_EXC_BW (k : Nat) : Fld := ⟨RES_EXC k, 17, 16⟩
abbrev RES_EXC_AMP (k : Nat) : Fld := ⟨RES_EXC k, 6, 0⟩

/-- RES_LIM (R237). -/
abbrev RES_LIM (k : Nat) : Reg := ⟨0x40402008 + k * 0x100, 0x1C000400⟩
abbrev RES_LIM_AMPHI (k : Nat) : Fld := ⟨RES_LIM k, 29, 16⟩
abbrev RES_LIM_AMPLO (k : Nat) : Fld := ⟨RES_LIM k, 13, 0⟩

/-- RES_TRK (R237). -/
abbrev RES_TRK (k : Nat) : Reg := ⟨0x4040200C + k * 0x100, 0xB6⟩
abbrev RES_TRK_TRKMAX (k : Nat) : Fld := ⟨RES_TRK k, 11, 0⟩

/-- RES_ANGLE (R236). -/
abbrev RES_ANGLE (k : Nat) : Reg := ⟨0x40402010 + k * 0x100, 0x0⟩
abbrev RES_ANGLE_THETA (k : Nat) : Fld := ⟨RES_ANGLE k, 31, 0⟩

/-- RES_SPD (R236). -/
abbrev RES_SPD (k : Nat) : Reg := ⟨0x40402014 + k * 0x100, 0x0⟩
abbrev RES_SPD_OMEGA (k : Nat) : Fld := ⟨RES_SPD k, 31, 0⟩

/-- RES_AMP (R236). -/
abbrev RES_AMP (k : Nat) : Reg := ⟨0x40402018 + k * 0x100, 0x0⟩
abbrev RES_AMP_A (k : Nat) : Fld := ⟨RES_AMP k, 13, 0⟩

/-- RES_STATUS (R237). -/
abbrev RES_STATUS (k : Nat) : Reg := ⟨0x4040201C + k * 0x100, 0x0⟩
abbrev RES_STATUS_PVALID (k : Nat) : Fld := ⟨RES_STATUS k, 15, 15⟩
abbrev RES_STATUS_EXCFLT (k : Nat) : Fld := ⟨RES_STATUS k, 3, 3⟩
abbrev RES_STATUS_LOT (k : Nat) : Fld := ⟨RES_STATUS k, 2, 2⟩
abbrev RES_STATUS_DOS (k : Nat) : Fld := ⟨RES_STATUS k, 1, 1⟩
abbrev RES_STATUS_LOS (k : Nat) : Fld := ⟨RES_STATUS k, 0, 0⟩

/-- POSG_LOCK (R514). -/
abbrev POSG_LOCK : Reg := ⟨0x40403000, 0x0⟩
abbrev POSG_LOCK_LOCK : Fld := ⟨POSG_LOCK, 0, 0⟩

/-! ### Chapter 11 -/

/-- LGC_CTRL (R253). -/
abbrev LGC_CTRL : Reg := ⟨0x40500900, 0x1000⟩
abbrev LGC_CTRL_LOCK : Fld := ⟨LGC_CTRL, 31, 31⟩
abbrev LGC_CTRL_FRAC : Fld := ⟨LGC_CTRL, 15, 8⟩

/-- LGC_BATLIM (R255). -/
abbrev LGC_BATLIM : Reg := ⟨0x40500904, 0x0⟩
abbrev LGC_BATLIM_DIS : Fld := ⟨LGC_BATLIM, 31, 16⟩
abbrev LGC_BATLIM_CHG : Fld := ⟨LGC_BATLIM, 15, 0⟩

/-- LGC_BATTMO (R255). -/
abbrev LGC_BATTMO : Reg := ⟨0x40500908, 0xA050064⟩
abbrev LGC_BATTMO_FBDIS : Fld := ⟨LGC_BATTMO, 31, 24⟩
abbrev LGC_BATTMO_FBCHG : Fld := ⟨LGC_BATTMO, 23, 16⟩
abbrev LGC_BATTMO_TMO : Fld := ⟨LGC_BATTMO, 15, 0⟩

/-- LGC_STAT (R252). -/
abbrev LGC_STAT : Reg := ⟨0x4050090C, 0x10⟩
abbrev LGC_STAT_CYCLE : Fld := ⟨LGC_STAT, 31, 16⟩
abbrev LGC_STAT_OVR : Fld := ⟨LGC_STAT, 15, 8⟩
abbrev LGC_STAT_FALLBACK : Fld := ⟨LGC_STAT, 4, 4⟩
abbrev LGC_STAT_STEP : Fld := ⟨LGC_STAT, 3, 0⟩

/-- LGC_STEER (R260). -/
abbrev LGC_STEER : Reg := ⟨0x40500910, 0x1A0064⟩
abbrev LGC_STEER_EN : Fld := ⟨LGC_STEER, 31, 31⟩
abbrev LGC_STEER_BASE : Fld := ⟨LGC_STEER, 26, 24⟩
abbrev LGC_STEER_HYST : Fld := ⟨LGC_STEER, 23, 16⟩
abbrev LGC_STEER_PERIOD : Fld := ⟨LGC_STEER, 15, 0⟩

/-- LGC_STEERSTAT (R260). -/
abbrev LGC_STEERSTAT : Reg := ⟨0x40500914, 0x0⟩
abbrev LGC_STEERSTAT_RES : Fld := ⟨LGC_STEERSTAT, 31, 16⟩
abbrev LGC_STEERSTAT_EXCL : Fld := ⟨LGC_STEERSTAT, 15, 8⟩
abbrev LGC_STEERSTAT_MEMB : Fld := ⟨LGC_STEERSTAT, 7, 0⟩

/-- LGE_CFG (R253). -/
abbrev LGE_CFG (k : Nat) : Reg := ⟨0x40500800 + k * 0x20, 0x6FFFF⟩
abbrev LGE_CFG_STEER (k : Nat) : Fld := ⟨LGE_CFG k, 31, 31⟩
abbrev LGE_CFG_RANK (k : Nat) : Fld := ⟨LGE_CFG k, 18, 16⟩
abbrev LGE_CFG_PMAX (k : Nat) : Fld := ⟨LGE_CFG k, 15, 0⟩

/-- LGE_PRED (R252). -/
abbrev LGE_PRED (k : Nat) : Reg := ⟨0x40500804 + k * 0x20, 0x0⟩
abbrev LGE_PRED_PRED (k : Nat) : Fld := ⟨LGE_PRED k, 31, 0⟩

/-- LGE_HEAT (R252). -/
abbrev LGE_HEAT (k : Nat) : Reg := ⟨0x40500808 + k * 0x20, 0x0⟩
abbrev LGE_HEAT_HEAT (k : Nat) : Fld := ⟨LGE_HEAT k, 31, 0⟩

/-- LGE_GRANT (R254). -/
abbrev LGE_GRANT (k : Nat) : Reg := ⟨0x4050080C + k * 0x20, 0x0⟩
abbrev LGE_GRANT_GRANT (k : Nat) : Fld := ⟨LGE_GRANT k, 31, 0⟩

/-- LGE_STAT (R256). -/
abbrev LGE_STAT (k : Nat) : Reg := ⟨0x40500810 + k * 0x20, 0x100⟩
abbrev LGE_STAT_LIMITED (k : Nat) : Fld := ⟨LGE_STAT k, 31, 31⟩
abbrev LGE_STAT_BIAS (k : Nat) : Fld := ⟨LGE_STAT k, 30, 30⟩
abbrev LGE_STAT_HOLD (k : Nat) : Fld := ⟨LGE_STAT k, 29, 28⟩
abbrev LGE_STAT_REASON (k : Nat) : Fld := ⟨LGE_STAT k, 27, 24⟩
abbrev LGE_STAT_RANK (k : Nat) : Fld := ⟨LGE_STAT k, 22, 20⟩
abbrev LGE_STAT_FACTOR (k : Nat) : Fld := ⟨LGE_STAT k, 8, 0⟩

/-- LGE_OFS (R261). -/
abbrev LGE_OFS (k : Nat) : Reg := ⟨0x40500814 + k * 0x20, 0x0⟩
abbrev LGE_OFS_SEQ (k : Nat) : Fld := ⟨LGE_OFS k, 31, 24⟩
abbrev LGE_OFS_PHDIR (k : Nat) : Fld := ⟨LGE_OFS k, 20, 20⟩
abbrev LGE_OFS_PHASE (k : Nat) : Fld := ⟨LGE_OFS k, 19, 0⟩

/-! ### Chapter 12 -/

/-- ACS_STAT (R274). -/
abbrev ACS_STAT (k : Nat) : Reg := ⟨0x70100840 + k * 0x4, 0x0⟩
abbrev ACS_STAT_SEQ (k : Nat) : Fld := ⟨ACS_STAT k, 31, 28⟩
abbrev ACS_STAT_PHASE (k : Nat) : Fld := ⟨ACS_STAT k, 27, 25⟩
abbrev ACS_STAT_RESULT (k : Nat) : Fld := ⟨ACS_STAT k, 24, 21⟩
abbrev ACS_STAT_BKP (k : Nat) : Fld := ⟨ACS_STAT k, 20, 20⟩
abbrev ACS_STAT_TOOTH (k : Nat) : Fld := ⟨ACS_STAT k, 19, 19⟩
abbrev ACS_STAT_ELAPSED (k : Nat) : Fld := ⟨ACS_STAT k, 15, 0⟩

/-- DCS_STAT (R267). -/
abbrev DCS_STAT : Reg := ⟨0x70100860, 0x0⟩
abbrev DCS_STAT_RUN : Fld := ⟨DCS_STAT, 31, 31⟩
abbrev DCS_STAT_SRMODE : Fld := ⟨DCS_STAT, 30, 30⟩
abbrev DCS_STAT_UVHV : Fld := ⟨DCS_STAT, 29, 29⟩
abbrev DCS_STAT_TRIPLAT : Fld := ⟨DCS_STAT, 28, 28⟩
abbrev DCS_STAT_ILIM : Fld := ⟨DCS_STAT, 27, 27⟩
abbrev DCS_STAT_SOFTST : Fld := ⟨DCS_STAT, 26, 26⟩
abbrev DCS_STAT_VOUT : Fld := ⟨DCS_STAT, 15, 0⟩

/-- DCS_IOUT (R266). -/
abbrev DCS_IOUT : Reg := ⟨0x70100864, 0x0⟩
abbrev DCS_IOUT_IOUT : Fld := ⟨DCS_IOUT, 15, 0⟩

/-! ### Chapter 13 -/

/-- HSM_CFG (R280). -/
abbrev HSM_CFG : Reg := ⟨0x50000000, 0x0⟩
abbrev HSM_CFG_VALID : Fld := ⟨HSM_CFG, 31, 31⟩
abbrev HSM_CFG_CFGACK : Fld := ⟨HSM_CFG, 30, 30⟩
abbrev HSM_CFG_SAFECFG : Fld := ⟨HSM_CFG, 23, 8⟩
abbrev HSM_CFG_SAFECHK : Fld := ⟨HSM_CFG, 7, 0⟩

/-- HSM_STATUS (R284). -/
abbrev HSM_STATUS : Reg := ⟨0x50000004, 0xF0000⟩
abbrev HSM_STATUS_STATE : Fld := ⟨HSM_STATUS, 31, 28⟩
abbrev HSM_STATUS_SAFEOK : Fld := ⟨HSM_STATUS, 27, 27⟩
abbrev HSM_STATUS_RESTOK : Fld := ⟨HSM_STATUS, 26, 26⟩
abbrev HSM_STATUS_STOPCPL : Fld := ⟨HSM_STATUS, 25, 25⟩
abbrev HSM_STATUS_DEM : Fld := ⟨HSM_STATUS, 24, 24⟩
abbrev HSM_STATUS_EN : Fld := ⟨HSM_STATUS, 23, 20⟩
abbrev HSM_STATUS_FOFF : Fld := ⟨HSM_STATUS, 19, 16⟩
abbrev HSM_STATUS_ASC_B : Fld := ⟨HSM_STATUS, 15, 15⟩
abbrev HSM_STATUS_ASC_A : Fld := ⟨HSM_STATUS, 14, 14⟩
abbrev HSM_STATUS_ASCUNAV : Fld := ⟨HSM_STATUS, 13, 13⟩

/-- HSM_CAUSE (R291). -/
abbrev HSM_CAUSE : Reg := ⟨0x50000008, 0x0⟩
abbrev HSM_CAUSE_FIRST : Fld := ⟨HSM_CAUSE, 31, 24⟩
abbrev HSM_CAUSE_SRC : Fld := ⟨HSM_CAUSE, 17, 0⟩

/-- HSM_SIN (R286). -/
abbrev HSM_SIN : Reg := ⟨0x5000000C, 0xFF⟩
abbrev HSM_SIN_DISCF : Fld := ⟨HSM_SIN, 11, 8⟩
abbrev HSM_SIN_DEM : Fld := ⟨HSM_SIN, 7, 0⟩

/-- HSM_CNT (R299). -/
abbrev HSM_CNT : Reg := ⟨0x50000020, 0x0⟩
abbrev HSM_CNT_IGNWR : Fld := ⟨HSM_CNT, 31, 16⟩
abbrev HSM_CNT_ACKERR : Fld := ⟨HSM_CNT, 15, 8⟩
abbrev HSM_CNT_REFUSED : Fld := ⟨HSM_CNT, 7, 0⟩

/-- HSM_SS1T (R292). -/
abbrev HSM_SS1T : Reg := ⟨0x50000024, 0x0⟩
abbrev HSM_SS1T_T : Fld := ⟨HSM_SS1T, 31, 0⟩

/-- HSM_ACK (R283). -/
abbrev HSM_ACK : Reg := ⟨0x50000100, 0x0⟩
abbrev HSM_ACK_VAL : Fld := ⟨HSM_ACK, 23, 0⟩

/-- HSM_REQ (R299). -/
abbrev HSM_REQ : Reg := ⟨0x50000104, 0x0⟩
abbrev HSM_REQ_CODE : Fld := ⟨HSM_REQ, 31, 24⟩
abbrev HSM_REQ_MASK : Fld := ⟨HSM_REQ, 3, 0⟩

/-- HSM_SPD (R289). -/
abbrev HSM_SPD (k : Nat) : Reg := ⟨0x50000010 + k * 0x4, 0x0⟩
abbrev HSM_SPD_SPDB (k : Nat) : Fld := ⟨HSM_SPD k, 31, 16⟩
abbrev HSM_SPD_SPDA (k : Nat) : Fld := ⟨HSM_SPD k, 15, 0⟩

/-- HSM_ENV (R292). -/
abbrev HSM_ENV (k : Nat) : Reg := ⟨0x50000018 + k * 0x4, 0x0⟩
abbrev HSM_ENV_ENV (k : Nat) : Fld := ⟨HSM_ENV k, 19, 0⟩

/-- HSM_WDQ (R300). -/
abbrev HSM_WDQ (k : Nat) : Reg := ⟨0x50000040 + k * 0x4, 0x0⟩
abbrev HSM_WDQ_ACTIVE (k : Nat) : Fld := ⟨HSM_WDQ k, 15, 15⟩
abbrev HSM_WDQ_ERR (k : Nat) : Fld := ⟨HSM_WDQ k, 11, 8⟩
abbrev HSM_WDQ_Q (k : Nat) : Fld := ⟨HSM_WDQ k, 7, 0⟩

/-- HSM_WDANS (R300). -/
abbrev HSM_WDANS (k : Nat) : Reg := ⟨0x50000120 + k * 0x4, 0x0⟩
abbrev HSM_WDANS_TB (k : Nat) : Fld := ⟨HSM_WDANS k, 31, 8⟩
abbrev HSM_WDANS_ANS (k : Nat) : Fld := ⟨HSM_WDANS k, 7, 0⟩

/-- HSM_WDCFG (R300). -/
abbrev HSM_WDCFG (k : Nat) : Reg := ⟨0x50000140 + k * 0x4, 0x30000A⟩
abbrev HSM_WDCFG_EN (k : Nat) : Fld := ⟨HSM_WDCFG k, 31, 31⟩
abbrev HSM_WDCFG_CORE (k : Nat) : Fld := ⟨HSM_WDCFG k, 29, 28⟩
abbrev HSM_WDCFG_ERRMAX (k : Nat) : Fld := ⟨HSM_WDCFG k, 23, 20⟩
abbrev HSM_WDCFG_OPEN (k : Nat) : Fld := ⟨HSM_WDCFG k, 19, 10⟩
abbrev HSM_WDCFG_PERIOD (k : Nat) : Fld := ⟨HSM_WDCFG k, 9, 0⟩

/-! ### Chapter 14 -/

/-- SCC_MODE (R309). -/
abbrev SCC_MODE (k : Nat) : Reg := ⟨0x70000400 + k * 0x40, 0x0⟩
abbrev SCC_MODE_KEYC (k : Nat) : Fld := ⟨SCC_MODE k, 31, 22⟩
abbrev SCC_MODE_KEYB (k : Nat) : Fld := ⟨SCC_MODE k, 21, 12⟩
abbrev SCC_MODE_SLIP (k : Nat) : Fld := ⟨SCC_MODE k, 11, 5⟩
abbrev SCC_MODE_REACT (k : Nat) : Fld := ⟨SCC_MODE k, 4, 4⟩
abbrev SCC_MODE_MODE (k : Nat) : Fld := ⟨SCC_MODE k, 1, 0⟩

/-- SCC_RDBASE (R314). -/
abbrev SCC_RDBASE (k : Nat) : Reg := ⟨0x70000404 + k * 0x40, 0x0⟩
abbrev SCC_RDBASE_BASE (k : Nat) : Fld := ⟨SCC_RDBASE k, 31, 16⟩
abbrev SCC_RDBASE_RDSIZE (k : Nat) : Fld := ⟨SCC_RDBASE k, 3, 0⟩

/-- SCC_IMGB (R314). -/
abbrev SCC_IMGB (k : Nat) : Reg := ⟨0x70000408 + k * 0x40, 0x0⟩
abbrev SCC_IMGB_BASE (k : Nat) : Fld := ⟨SCC_IMGB k, 31, 16⟩

/-- SCC_IMGC (R314). -/
abbrev SCC_IMGC (k : Nat) : Reg := ⟨0x7000040C + k * 0x40, 0x0⟩
abbrev SCC_IMGC_BASE (k : Nat) : Fld := ⟨SCC_IMGC k, 31, 16⟩

/-- SCC_STAT (R321). -/
abbrev SCC_STAT (k : Nat) : Reg := ⟨0x70000410 + k * 0x40, 0xC000⟩
abbrev SCC_STAT_PERM (k : Nat) : Fld := ⟨SCC_STAT k, 28, 26⟩
abbrev SCC_STAT_LEAD (k : Nat) : Fld := ⟨SCC_STAT k, 25, 24⟩
abbrev SCC_STAT_CAUSE (k : Nat) : Fld := ⟨SCC_STAT k, 19, 16⟩
abbrev SCC_STAT_ODD (k : Nat) : Fld := ⟨SCC_STAT k, 15, 14⟩
abbrev SCC_STAT_STATE (k : Nat) : Fld := ⟨SCC_STAT k, 3, 0⟩

/-- SCC_CNT (R322). -/
abbrev SCC_CNT (k : Nat) : Reg := ⟨0x70000414 + k * 0x40, 0x0⟩
abbrev SCC_CNT_ODDC (k : Nat) : Fld := ⟨SCC_CNT k, 23, 16⟩
abbrev SCC_CNT_ODDB (k : Nat) : Fld := ⟨SCC_CNT k, 15, 8⟩
abbrev SCC_CNT_ODDA (k : Nat) : Fld := ⟨SCC_CNT k, 7, 0⟩

/-- SCC_MMPC (R321). -/
abbrev SCC_MMPC (k : Nat) : Reg := ⟨0x70000418 + k * 0x40, 0x0⟩
abbrev SCC_MMPC_PC (k : Nat) : Fld := ⟨SCC_MMPC k, 31, 0⟩

/-- SCC_MMADDR (R321). -/
abbrev SCC_MMADDR (k : Nat) : Reg := ⟨0x7000041C + k * 0x40, 0x0⟩
abbrev SCC_MMADDR_ADDR (k : Nat) : Fld := ⟨SCC_MMADDR k, 31, 0⟩

/-- SCC_MMICNT (R321). -/
abbrev SCC_MMICNT (k : Nat) : Reg := ⟨0x70000420 + k * 0x40, 0x0⟩
abbrev SCC_MMICNT_ICNT (k : Nat) : Fld := ⟨SCC_MMICNT k, 31, 0⟩

/-- SCC_LAG (R313). -/
abbrev SCC_LAG (k : Nat) : Reg := ⟨0x70000424 + k * 0x40, 0x0⟩
abbrev SCC_LAG_MAXLAG (k : Nat) : Fld := ⟨SCC_LAG k, 15, 0⟩

/-! ### Chapter 15 -/

/-- DMA_SRC (R342). -/
abbrev DMA_SRC (k : Nat) : Reg := ⟨0x40600000 + k * 0x40, 0x0⟩
abbrev DMA_SRC_SRC (k : Nat) : Fld := ⟨DMA_SRC k, 31, 0⟩

/-- DMA_DST (R342). -/
abbrev DMA_DST (k : Nat) : Reg := ⟨0x40600004 + k * 0x40, 0x0⟩
abbrev DMA_DST_DST (k : Nat) : Fld := ⟨DMA_DST k, 31, 0⟩

/-- DMA_LEN (R342). -/
abbrev DMA_LEN (k : Nat) : Reg := ⟨0x40600008 + k * 0x40, 0x0⟩
abbrev DMA_LEN_LEN (k : Nat) : Fld := ⟨DMA_LEN k, 23, 0⟩

/-- DMA_CFG (R343). -/
abbrev DMA_CFG (k : Nat) : Reg := ⟨0x4060000C + k * 0x40, 0xFF00F003⟩
abbrev DMA_CFG_EVSEL (k : Nat) : Fld := ⟨DMA_CFG k, 31, 24⟩
abbrev DMA_CFG_REQSEL (k : Nat) : Fld := ⟨DMA_CFG k, 23, 16⟩
abbrev DMA_CFG_DEST (k : Nat) : Fld := ⟨DMA_CFG k, 15, 12⟩
abbrev DMA_CFG_BURST (k : Nat) : Fld := ⟨DMA_CFG k, 11, 8⟩
abbrev DMA_CFG_SID (k : Nat) : Fld := ⟨DMA_CFG k, 7, 5⟩
abbrev DMA_CFG_PRIO (k : Nat) : Fld := ⟨DMA_CFG k, 4, 2⟩
abbrev DMA_CFG_DSTINC (k : Nat) : Fld := ⟨DMA_CFG k, 1, 1⟩
abbrev DMA_CFG_SRCINC (k : Nat) : Fld := ⟨DMA_CFG k, 0, 0⟩

/-- DMA_CTRL (R345). -/
abbrev DMA_CTRL (k : Nat) : Reg := ⟨0x40600010 + k * 0x40, 0x0⟩
abbrev DMA_CTRL_IEN_ERR (k : Nat) : Fld := ⟨DMA_CTRL k, 5, 5⟩
abbrev DMA_CTRL_IEN_DONE (k : Nat) : Fld := ⟨DMA_CTRL k, 4, 4⟩
abbrev DMA_CTRL_ABORT (k : Nat) : Fld := ⟨DMA_CTRL k, 2, 2⟩
abbrev DMA_CTRL_RESUME (k : Nat) : Fld := ⟨DMA_CTRL k, 1, 1⟩
abbrev DMA_CTRL_START (k : Nat) : Fld := ⟨DMA_CTRL k, 0, 0⟩

/-- DMA_STAT (R345). -/
abbrev DMA_STAT (k : Nat) : Reg := ⟨0x40600014 + k * 0x40, 0x0⟩
abbrev DMA_STAT_STATE (k : Nat) : Fld := ⟨DMA_STAT k, 31, 28⟩
abbrev DMA_STAT_ERR (k : Nat) : Fld := ⟨DMA_STAT k, 27, 24⟩
abbrev DMA_STAT_LOSTRD (k : Nat) : Fld := ⟨DMA_STAT k, 23, 23⟩
abbrev DMA_STAT_CFGIGN (k : Nat) : Fld := ⟨DMA_STAT k, 22, 22⟩
abbrev DMA_STAT_EVMISS (k : Nat) : Fld := ⟨DMA_STAT k, 15, 8⟩
abbrev DMA_STAT_ERRF (k : Nat) : Fld := ⟨DMA_STAT k, 1, 1⟩
abbrev DMA_STAT_DONEF (k : Nat) : Fld := ⟨DMA_STAT k, 0, 0⟩

/-- DMA_DONE (R345). -/
abbrev DMA_DONE (k : Nat) : Reg := ⟨0x40600018 + k * 0x40, 0x0⟩
abbrev DMA_DONE_DONE (k : Nat) : Fld := ⟨DMA_DONE k, 23, 0⟩

/-- DMA_CURSRC (R344). -/
abbrev DMA_CURSRC (k : Nat) : Reg := ⟨0x4060001C + k * 0x40, 0x0⟩
abbrev DMA_CURSRC_CURSRC (k : Nat) : Fld := ⟨DMA_CURSRC k, 31, 0⟩

/-- DMA_CURDST (R344). -/
abbrev DMA_CURDST (k : Nat) : Reg := ⟨0x40600020 + k * 0x40, 0x0⟩
abbrev DMA_CURDST_CURDST (k : Nat) : Fld := ⟨DMA_CURDST k, 31, 0⟩

/-- DMA_REMAIN (R344). -/
abbrev DMA_REMAIN (k : Nat) : Reg := ⟨0x40600024 + k * 0x40, 0x0⟩
abbrev DMA_REMAIN_REMAIN (k : Nat) : Fld := ⟨DMA_REMAIN k, 23, 0⟩

/-- DMA_FADDR (R348). -/
abbrev DMA_FADDR (k : Nat) : Reg := ⟨0x40600028 + k * 0x40, 0x0⟩
abbrev DMA_FADDR_FADDR (k : Nat) : Fld := ⟨DMA_FADDR k, 31, 0⟩

/-- DMAG_STAT (R346). -/
abbrev DMAG_STAT : Reg := ⟨0x40601000, 0x0⟩
abbrev DMAG_STAT_BUSY : Fld := ⟨DMAG_STAT, 31, 31⟩
abbrev DMAG_STAT_FWIGN : Fld := ⟨DMAG_STAT, 23, 16⟩
abbrev DMAG_STAT_ACT : Fld := ⟨DMAG_STAT, 4, 0⟩

/-- DMAG_PRE (R344). -/
abbrev DMAG_PRE : Reg := ⟨0x40601004, 0x0⟩
abbrev DMAG_PRE_PRE_CNT : Fld := ⟨DMAG_PRE, 15, 0⟩

/-- STU_MAP (R341). -/
abbrev STU_MAP (k : Nat) : Reg := ⟨0x40602000 + k * 0x8, 0x0⟩
abbrev STU_MAP_VPAGE (k : Nat) : Fld := ⟨STU_MAP k, 31, 16⟩
abbrev STU_MAP_PPAGE (k : Nat) : Fld := ⟨STU_MAP k, 15, 0⟩

/-- STU_ATTR (R341). -/
abbrev STU_ATTR (k : Nat) : Reg := ⟨0x40602004 + k * 0x8, 0x0⟩
abbrev STU_ATTR_VALID (k : Nat) : Fld := ⟨STU_ATTR k, 31, 31⟩
abbrev STU_ATTR_W (k : Nat) : Fld := ⟨STU_ATTR k, 9, 9⟩
abbrev STU_ATTR_R (k : Nat) : Fld := ⟨STU_ATTR k, 8, 8⟩
abbrev STU_ATTR_SIDMASK (k : Nat) : Fld := ⟨STU_ATTR k, 7, 0⟩

/-- STU_CTRL (R341). -/
abbrev STU_CTRL : Reg := ⟨0x40602400, 0x1⟩
abbrev STU_CTRL_LOCK : Fld := ⟨STU_CTRL, 31, 31⟩
abbrev STU_CTRL_BYPASS : Fld := ⟨STU_CTRL, 0, 0⟩

/-- PU_CTRL (R337). -/
abbrev PU_CTRL (k : Nat) : Reg := ⟨0x40700000 + k * 0x100, 0x0⟩
abbrev PU_CTRL_LOCK (k : Nat) : Fld := ⟨PU_CTRL k, 31, 31⟩
abbrev PU_CTRL_HWSAVE (k : Nat) : Fld := ⟨PU_CTRL k, 2, 2⟩
abbrev PU_CTRL_MBG (k : Nat) : Fld := ⟨PU_CTRL k, 1, 1⟩
abbrev PU_CTRL_EN (k : Nat) : Fld := ⟨PU_CTRL k, 0, 0⟩

/-- PU_FSTAT (R340). -/
abbrev PU_FSTAT (k : Nat) : Reg := ⟨0x40700004 + k * 0x100, 0x0⟩
abbrev PU_FSTAT_VALID (k : Nat) : Fld := ⟨PU_FSTAT k, 31, 31⟩
abbrev PU_FSTAT_IMPR (k : Nat) : Fld := ⟨PU_FSTAT k, 30, 30⟩
abbrev PU_FSTAT_SAVE (k : Nat) : Fld := ⟨PU_FSTAT k, 29, 29⟩
abbrev PU_FSTAT_VEC (k : Nat) : Fld := ⟨PU_FSTAT k, 28, 28⟩
abbrev PU_FSTAT_KIND (k : Nat) : Fld := ⟨PU_FSTAT k, 26, 24⟩
abbrev PU_FSTAT_REGION (k : Nat) : Fld := ⟨PU_FSTAT k, 19, 16⟩

/-- PU_FADDR (R337). -/
abbrev PU_FADDR (k : Nat) : Reg := ⟨0x40700008 + k * 0x100, 0x0⟩
abbrev PU_FADDR_ADDR (k : Nat) : Fld := ⟨PU_FADDR k, 31, 0⟩

/-- PU_RBASE (R337). -/
abbrev PU_RBASE (k i : Nat) : Reg := ⟨0x40700040 + k * 0x100 + i * 0x8, 0x0⟩
abbrev PU_RBASE_BASE (k i : Nat) : Fld := ⟨PU_RBASE k i, 31, 6⟩

/-- PU_RLIM (R337). -/
abbrev PU_RLIM (k i : Nat) : Reg := ⟨0x40700044 + k * 0x100 + i * 0x8, 0x0⟩
abbrev PU_RLIM_LIMIT (k i : Nat) : Fld := ⟨PU_RLIM k i, 31, 6⟩
abbrev PU_RLIM_U (k i : Nat) : Fld := ⟨PU_RLIM k i, 4, 4⟩
abbrev PU_RLIM_X (k i : Nat) : Fld := ⟨PU_RLIM k i, 3, 3⟩
abbrev PU_RLIM_W (k i : Nat) : Fld := ⟨PU_RLIM k i, 2, 2⟩
abbrev PU_RLIM_R (k i : Nat) : Fld := ⟨PU_RLIM k i, 1, 1⟩
abbrev PU_RLIM_EN (k i : Nat) : Fld := ⟨PU_RLIM k i, 0, 0⟩

/-- MEM_SRAMERR (R334). -/
abbrev MEM_SRAMERR : Reg := ⟨0x70000200, 0x0⟩
abbrev MEM_SRAMERR_CE_CNT : Fld := ⟨MEM_SRAMERR, 31, 16⟩
abbrev MEM_SRAMERR_UE_CNT : Fld := ⟨MEM_SRAMERR, 15, 0⟩

/-- MEM_SRAMUEA (R334). -/
abbrev MEM_SRAMUEA : Reg := ⟨0x70000204, 0x0⟩
abbrev MEM_SRAMUEA_ADDR : Fld := ⟨MEM_SRAMUEA, 31, 0⟩

/-- MEM_MRAMERR (R335). -/
abbrev MEM_MRAMERR : Reg := ⟨0x70000208, 0x0⟩
abbrev MEM_MRAMERR_CE_CNT : Fld := ⟨MEM_MRAMERR, 31, 16⟩
abbrev MEM_MRAMERR_UE_CNT : Fld := ⟨MEM_MRAMERR, 15, 0⟩

/-- MEM_MRAMUEA (R335). -/
abbrev MEM_MRAMUEA : Reg := ⟨0x7000020C, 0x0⟩
abbrev MEM_MRAMUEA_ADDR : Fld := ⟨MEM_MRAMUEA, 31, 0⟩

/-- MEM_FABERR (R333). -/
abbrev MEM_FABERR : Reg := ⟨0x70000210, 0x0⟩
abbrev MEM_FABERR_RESEND_CNT : Fld := ⟨MEM_FABERR, 31, 16⟩
abbrev MEM_FABERR_FLT_CNT : Fld := ⟨MEM_FABERR, 15, 0⟩

/-- MEM_SCRUB (R334). -/
abbrev MEM_SCRUB : Reg := ⟨0x70000214, 0x80000000⟩
abbrev MEM_SCRUB_EN : Fld := ⟨MEM_SCRUB, 31, 31⟩
abbrev MEM_SCRUB_PTR : Fld := ⟨MEM_SCRUB, 18, 0⟩

/-! ### Chapter 16 -/

/-- MBX_CFG (R370). -/
abbrev MBX_CFG (k : Nat) : Reg := ⟨0x70100000 + k * 0x20, 0xA000F⟩
abbrev MBX_CFG_EN (k : Nat) : Fld := ⟨MBX_CFG k, 31, 31⟩
abbrev MBX_CFG_TMO (k : Nat) : Fld := ⟨MBX_CFG k, 23, 16⟩
abbrev MBX_CFG_DEST (k : Nat) : Fld := ⟨MBX_CFG k, 3, 0⟩

/-- MBX_REQ (R370). -/
abbrev MBX_REQ (k : Nat) : Reg := ⟨0x70100004 + k * 0x20, 0x0⟩
abbrev MBX_REQ_PEND (k : Nat) : Fld := ⟨MBX_REQ k, 3, 0⟩

/-- MBX_DONE (R370). -/
abbrev MBX_DONE (k : Nat) : Reg := ⟨0x70100008 + k * 0x20, 0x0⟩
abbrev MBX_DONE_DONE (k : Nat) : Fld := ⟨MBX_DONE k, 3, 0⟩

/-- MBX_STAT (R370). -/
abbrev MBX_STAT (k : Nat) : Reg := ⟨0x7010000C + k * 0x20, 0x0⟩
abbrev MBX_STAT_TMO_CNT (k : Nat) : Fld := ⟨MBX_STAT k, 31, 16⟩
abbrev MBX_STAT_IGN_CNT (k : Nat) : Fld := ⟨MBX_STAT k, 15, 0⟩

/-- KCP_CFG (R371). -/
abbrev KCP_CFG : Reg := ⟨0x70100900, 0x203210⟩
abbrev KCP_CFG_LOCK : Fld := ⟨KCP_CFG, 31, 31⟩
abbrev KCP_CFG_UNAUTH_MAX : Fld := ⟨KCP_CFG, 23, 16⟩
abbrev KCP_CFG_REASM_TMO : Fld := ⟨KCP_CFG, 15, 8⟩
abbrev KCP_CFG_UNAUTH_CLS : Fld := ⟨KCP_CFG, 5, 1⟩

/-- KCP_QCAP (R364). -/
abbrev KCP_QCAP : Reg := ⟨0x70100904, 0x4080810⟩
abbrev KCP_QCAP_CAP5 : Fld := ⟨KCP_QCAP, 31, 24⟩
abbrev KCP_QCAP_CAP4 : Fld := ⟨KCP_QCAP, 23, 16⟩
abbrev KCP_QCAP_CAP3 : Fld := ⟨KCP_QCAP, 15, 8⟩
abbrev KCP_QCAP_CAP2 : Fld := ⟨KCP_QCAP, 7, 0⟩

/-- KCP_OCC (R359). -/
abbrev KCP_OCC : Reg := ⟨0x70100908, 0x0⟩
abbrev KCP_OCC_EXPIRED : Fld := ⟨KCP_OCC, 26, 18⟩
abbrev KCP_OCC_OPEN : Fld := ⟨KCP_OCC, 17, 9⟩
abbrev KCP_OCC_UNAUTH : Fld := ⟨KCP_OCC, 7, 0⟩

/-- KCP_QFILL (R364). -/
abbrev KCP_QFILL : Reg := ⟨0x7010090C, 0x0⟩
abbrev KCP_QFILL_C2 : Fld := ⟨KCP_QFILL, 30, 24⟩
abbrev KCP_QFILL_C3 : Fld := ⟨KCP_QFILL, 21, 16⟩
abbrev KCP_QFILL_C4 : Fld := ⟨KCP_QFILL, 13, 8⟩
abbrev KCP_QFILL_C5 : Fld := ⟨KCP_QFILL, 4, 0⟩

/-- KCP_ERR0 (R361). -/
abbrev KCP_ERR0 : Reg := ⟨0x70100910, 0x0⟩
abbrev KCP_ERR0_AUTHFAIL : Fld := ⟨KCP_ERR0, 31, 16⟩
abbrev KCP_ERR0_SEQREPLAY : Fld := ⟨KCP_ERR0, 15, 0⟩

/-- KCP_ERR1 (R352). -/
abbrev KCP_ERR1 : Reg := ⟨0x70100914, 0x0⟩
abbrev KCP_ERR1_BADHDR : Fld := ⟨KCP_ERR1, 31, 16⟩
abbrev KCP_ERR1_DROP : Fld := ⟨KCP_ERR1, 15, 0⟩

/-- KCP_CAN (R353). -/
abbrev KCP_CAN (k : Nat) : Reg := ⟨0x70100920 + k * 0x4, 0x3786E000⟩
abbrev KCP_CAN_EN (k : Nat) : Fld := ⟨KCP_CAN k, 31, 31⟩
abbrev KCP_CAN_RPBASE (k : Nat) : Fld := ⟨KCP_CAN k, 29, 19⟩
abbrev KCP_CAN_RQBASE (k : Nat) : Fld := ⟨KCP_CAN k, 18, 8⟩
abbrev KCP_CAN_SDT (k : Nat) : Fld := ⟨KCP_CAN k, 7, 0⟩

/-- KCP_CUSTMAP (R370). -/
abbrev KCP_CUSTMAP (k : Nat) : Reg := ⟨0x70100930 + k * 0x4, 0x0⟩
abbrev KCP_CUSTMAP_MAP (k : Nat) : Fld := ⟨KCP_CUSTMAP k, 31, 0⟩

/-! ### Chapter 18 -/

/-- CAN_CTRL (R403). -/
abbrev CAN_CTRL (k : Nat) : Reg := ⟨0x60000000 + k * 0x1000, 0x82000000⟩
abbrev CAN_CTRL_INIT (k : Nat) : Fld := ⟨CAN_CTRL k, 31, 31⟩
abbrev CAN_CTRL_OPMODE (k : Nat) : Fld := ⟨CAN_CTRL k, 30, 29⟩
abbrev CAN_CTRL_XLEN (k : Nat) : Fld := ⟨CAN_CTRL k, 28, 28⟩
abbrev CAN_CTRL_FDEN (k : Nat) : Fld := ⟨CAN_CTRL k, 27, 27⟩
abbrev CAN_CTRL_XLTMS (k : Nat) : Fld := ⟨CAN_CTRL k, 26, 26⟩
abbrev CAN_CTRL_ABO (k : Nat) : Fld := ⟨CAN_CTRL k, 25, 25⟩
abbrev CAN_CTRL_BOABT (k : Nat) : Fld := ⟨CAN_CTRL k, 24, 24⟩
abbrev CAN_CTRL_DAR (k : Nat) : Fld := ⟨CAN_CTRL k, 23, 23⟩
abbrev CAN_CTRL_TXMODE (k : Nat) : Fld := ⟨CAN_CTRL k, 22, 22⟩
abbrev CAN_CTRL_NOMATCH (k : Nat) : Fld := ⟨CAN_CTRL k, 21, 21⟩
abbrev CAN_CTRL_DMAEN (k : Nat) : Fld := ⟨CAN_CTRL k, 20, 20⟩
abbrev CAN_CTRL_DMAF (k : Nat) : Fld := ⟨CAN_CTRL k, 19, 19⟩
abbrev CAN_CTRL_RECOVER (k : Nat) : Fld := ⟨CAN_CTRL k, 18, 18⟩

/-- CAN_NBT (R402). -/
abbrev CAN_NBT (k : Nat) : Reg := ⟨0x60000004 + k * 0x1000, 0x3E7DF801⟩
abbrev CAN_NBT_NBT (k : Nat) : Fld := ⟨CAN_NBT k, 31, 0⟩

/-- CAN_DBT (R402). -/
abbrev CAN_DBT (k : Nat) : Reg := ⟨0x60000008 + k * 0x1000, 0x4A5C3D01⟩
abbrev CAN_DBT_DBT (k : Nat) : Fld := ⟨CAN_DBT k, 31, 0⟩

/-- CAN_XBT (R402). -/
abbrev CAN_XBT (k : Nat) : Reg := ⟨0x6000000C + k * 0x1000, 0x18CA1900⟩
abbrev CAN_XBT_XBT (k : Nat) : Fld := ⟨CAN_XBT k, 31, 0⟩

/-- CAN_RAM (R404). -/
abbrev CAN_RAM (k : Nat) : Reg := ⟨0x60000010 + k * 0x1000, 0x0⟩
abbrev CAN_RAM_BASE (k : Nat) : Fld := ⟨CAN_RAM k, 31, 22⟩
abbrev CAN_RAM_ESZ (k : Nat) : Fld := ⟨CAN_RAM k, 21, 20⟩
abbrev CAN_RAM_NTX (k : Nat) : Fld := ⟨CAN_RAM k, 19, 15⟩
abbrev CAN_RAM_NF0 (k : Nat) : Fld := ⟨CAN_RAM k, 14, 8⟩
abbrev CAN_RAM_NF1 (k : Nat) : Fld := ⟨CAN_RAM k, 6, 0⟩

/-- CAN_ECR (R412). -/
abbrev CAN_ECR (k : Nat) : Reg := ⟨0x60000014 + k * 0x1000, 0x0⟩
abbrev CAN_ECR_STATE (k : Nat) : Fld := ⟨CAN_ECR k, 31, 30⟩
abbrev CAN_ECR_REC (k : Nat) : Fld := ⟨CAN_ECR k, 22, 16⟩
abbrev CAN_ECR_TEC (k : Nat) : Fld := ⟨CAN_ECR k, 7, 0⟩

/-- CAN_CNT (R412). -/
abbrev CAN_CNT (k : Nat) : Reg := ⟨0x60000018 + k * 0x1000, 0x0⟩
abbrev CAN_CNT_POSTARB_CNT (k : Nat) : Fld := ⟨CAN_CNT k, 31, 16⟩
abbrev CAN_CNT_ACKERR_CNT (k : Nat) : Fld := ⟨CAN_CNT k, 15, 0⟩

/-- CAN_CNT2 (R410). -/
abbrev CAN_CNT2 (k : Nat) : Reg := ⟨0x6000001C + k * 0x1000, 0x0⟩
abbrev CAN_CNT2_LATECNCL_CNT (k : Nat) : Fld := ⟨CAN_CNT2 k, 31, 16⟩
abbrev CAN_CNT2_BUSOFF_CNT (k : Nat) : Fld := ⟨CAN_CNT2 k, 15, 0⟩

/-- CAN_DUPID (R413). -/
abbrev CAN_DUPID (k : Nat) : Reg := ⟨0x60000020 + k * 0x1000, 0x0⟩
abbrev CAN_DUPID_XTD (k : Nat) : Fld := ⟨CAN_DUPID k, 29, 29⟩
abbrev CAN_DUPID_ID (k : Nat) : Fld := ⟨CAN_DUPID k, 28, 0⟩

/-- CAN_TXREQ (R409). -/
abbrev CAN_TXREQ (k : Nat) : Reg := ⟨0x60000024 + k * 0x1000, 0x0⟩
abbrev CAN_TXREQ_REQ (k : Nat) : Fld := ⟨CAN_TXREQ k, 27, 0⟩

/-- CAN_TXPEND (R409). -/
abbrev CAN_TXPEND (k : Nat) : Reg := ⟨0x60000028 + k * 0x1000, 0x0⟩
abbrev CAN_TXPEND_PEND (k : Nat) : Fld := ⟨CAN_TXPEND k, 27, 0⟩

/-- CAN_TXCNCL (R410). -/
abbrev CAN_TXCNCL (k : Nat) : Reg := ⟨0x6000002C + k * 0x1000, 0x0⟩
abbrev CAN_TXCNCL_CNCL (k : Nat) : Fld := ⟨CAN_TXCNCL k, 27, 0⟩

/-- CAN_TXRES (R411). -/
abbrev CAN_TXRES (k i : Nat) : Reg := ⟨0x60000030 + k * 0x1000 + i * 0x4, 0x0⟩
abbrev CAN_TXRES_RES (k i : Nat) : Fld := ⟨CAN_TXRES k i, 31, 0⟩

/-- CAN_RXF (R407). -/
abbrev CAN_RXF (k i : Nat) : Reg := ⟨0x60000040 + k * 0x1000 + i * 0x4, 0x0⟩
abbrev CAN_RXF_LOST (k i : Nat) : Fld := ⟨CAN_RXF k i, 31, 24⟩
abbrev CAN_RXF_OVWR (k i : Nat) : Fld := ⟨CAN_RXF k i, 23, 23⟩
abbrev CAN_RXF_FILL (k i : Nat) : Fld := ⟨CAN_RXF k i, 22, 16⟩
abbrev CAN_RXF_PUT (k i : Nat) : Fld := ⟨CAN_RXF k i, 13, 8⟩
abbrev CAN_RXF_GET (k i : Nat) : Fld := ⟨CAN_RXF k i, 5, 0⟩

/-- CAN_IEN (R403). -/
abbrev CAN_IEN (k : Nat) : Reg := ⟨0x60000050 + k * 0x1000, 0x0⟩
abbrev CAN_IEN_EN (k : Nat) : Fld := ⟨CAN_IEN k, 8, 0⟩

/-- CAN_IFLG (R403). -/
abbrev CAN_IFLG (k : Nat) : Reg := ⟨0x60000054 + k * 0x1000, 0x0⟩
abbrev CAN_IFLG_CFGERR (k : Nat) : Fld := ⟨CAN_IFLG k, 8, 8⟩
abbrev CAN_IFLG_CFGIGN (k : Nat) : Fld := ⟨CAN_IFLG k, 7, 7⟩
abbrev CAN_IFLG_TRUNC (k : Nat) : Fld := ⟨CAN_IFLG k, 6, 6⟩
abbrev CAN_IFLG_POSTARB (k : Nat) : Fld := ⟨CAN_IFLG k, 5, 5⟩
abbrev CAN_IFLG_LATECNCL (k : Nat) : Fld := ⟨CAN_IFLG k, 4, 4⟩
abbrev CAN_IFLG_BOFF (k : Nat) : Fld := ⟨CAN_IFLG k, 3, 3⟩
abbrev CAN_IFLG_EP (k : Nat) : Fld := ⟨CAN_IFLG k, 2, 2⟩
abbrev CAN_IFLG_TXRES (k : Nat) : Fld := ⟨CAN_IFLG k, 1, 1⟩
abbrev CAN_IFLG_RXF (k : Nat) : Fld := ⟨CAN_IFLG k, 0, 0⟩

/-- CAN_RXDMA (R408). -/
abbrev CAN_RXDMA (k : Nat) : Reg := ⟨0x60000080 + k * 0x1000, 0x0⟩
abbrev CAN_RXDMA_WORD (k : Nat) : Fld := ⟨CAN_RXDMA k, 31, 0⟩

/-- CAN_TXDMA (R408). -/
abbrev CAN_TXDMA (k : Nat) : Reg := ⟨0x60000084 + k * 0x1000, 0x0⟩
abbrev CAN_TXDMA_WORD (k : Nat) : Fld := ⟨CAN_TXDMA k, 31, 0⟩

/-- CAN_FLT_A (R406). -/
abbrev CAN_FLT_A (k i : Nat) : Reg := ⟨0x60000100 + k * 0x1000 + i * 0x8, 0x0⟩
abbrev CAN_FLT_A_EN (k i : Nat) : Fld := ⟨CAN_FLT_A k i, 31, 31⟩
abbrev CAN_FLT_A_ACT (k i : Nat) : Fld := ⟨CAN_FLT_A k i, 30, 29⟩
abbrev CAN_FLT_A_FID (k i : Nat) : Fld := ⟨CAN_FLT_A k i, 28, 0⟩

/-- CAN_FLT_B (R406). -/
abbrev CAN_FLT_B (k i : Nat) : Reg := ⟨0x60000104 + k * 0x1000 + i * 0x8, 0x0⟩
abbrev CAN_FLT_B_XTD (k i : Nat) : Fld := ⟨CAN_FLT_B k i, 31, 31⟩
abbrev CAN_FLT_B_TYPE (k i : Nat) : Fld := ⟨CAN_FLT_B k i, 30, 30⟩
abbrev CAN_FLT_B_MASK (k i : Nat) : Fld := ⟨CAN_FLT_B k i, 28, 0⟩

/-- CANG_TMCFG (R415). -/
abbrev CANG_TMCFG : Reg := ⟨0x60008000, 0x0⟩
abbrev CANG_TMCFG_EN : Fld := ⟨CANG_TMCFG, 31, 31⟩
abbrev CANG_TMCFG_BUS : Fld := ⟨CANG_TMCFG, 29, 28⟩
abbrev CANG_TMCFG_CYCLE : Fld := ⟨CANG_TMCFG, 9, 0⟩

/-- CANG_TMID (R415). -/
abbrev CANG_TMID : Reg := ⟨0x60008004, 0x0⟩
abbrev CANG_TMID_XTD : Fld := ⟨CANG_TMID, 31, 31⟩
abbrev CANG_TMID_ID : Fld := ⟨CANG_TMID, 28, 0⟩

/-- CANG_TMSTAT (R415). -/
abbrev CANG_TMSTAT : Reg := ⟨0x60008008, 0x0⟩
abbrev CANG_TMSTAT_MISSED : Fld := ⟨CANG_TMSTAT, 15, 8⟩
abbrev CANG_TMSTAT_CYC : Fld := ⟨CANG_TMSTAT, 5, 0⟩

/-- ETHP_CFG (R416). -/
abbrev ETHP_CFG (k : Nat) : Reg := ⟨0x60100000 + k * 0x100, 0x0⟩
abbrev ETHP_CFG_EN (k : Nat) : Fld := ⟨ETHP_CFG k, 31, 31⟩
abbrev ETHP_CFG_ROLE (k : Nat) : Fld := ⟨ETHP_CFG k, 30, 30⟩

/-- ETHP_STAT (R416). -/
abbrev ETHP_STAT (k : Nat) : Reg := ⟨0x60100004 + k * 0x100, 0x0⟩
abbrev ETHP_STAT_LINK (k : Nat) : Fld := ⟨ETHP_STAT k, 31, 31⟩
abbrev ETHP_STAT_SQI (k : Nat) : Fld := ⟨ETHP_STAT k, 18, 16⟩
abbrev ETHP_STAT_LINKDN_CNT (k : Nat) : Fld := ⟨ETHP_STAT k, 15, 0⟩

/-- ETHP_CNT (R416). -/
abbrev ETHP_CNT (k : Nat) : Reg := ⟨0x60100008 + k * 0x100, 0x0⟩
abbrev ETHP_CNT_RXERR (k : Nat) : Fld := ⟨ETHP_CNT k, 31, 16⟩
abbrev ETHP_CNT_DROP (k : Nat) : Fld := ⟨ETHP_CNT k, 15, 0⟩

/-- ETH_MAC0 (R419). -/
abbrev ETH_MAC0 : Reg := ⟨0x60100800, 0x0⟩
abbrev ETH_MAC0_MAC : Fld := ⟨ETH_MAC0, 31, 0⟩

/-- ETH_MAC1 (R419). -/
abbrev ETH_MAC1 : Reg := ⟨0x60100804, 0x0⟩
abbrev ETH_MAC1_MAC : Fld := ⟨ETH_MAC1, 15, 0⟩

/-- ETH_IP (R418). -/
abbrev ETH_IP (k : Nat) : Reg := ⟨0x60100810 + k * 0x8, 0x0⟩
abbrev ETH_IP_ADDR (k : Nat) : Fld := ⟨ETH_IP k, 31, 0⟩

/-- ETH_IPCFG (R418). -/
abbrev ETH_IPCFG (k : Nat) : Reg := ⟨0x60100814 + k * 0x8, 0x0⟩
abbrev ETH_IPCFG_EN (k : Nat) : Fld := ⟨ETH_IPCFG k, 31, 31⟩
abbrev ETH_IPCFG_T1S (k : Nat) : Fld := ⟨ETH_IPCFG k, 16, 16⟩
abbrev ETH_IPCFG_VID (k : Nat) : Fld := ⟨ETH_IPCFG k, 11, 0⟩

/-- ETH_APPFLT (R418). -/
abbrev ETH_APPFLT (k : Nat) : Reg := ⟨0x60100840 + k * 0x4, 0x0⟩
abbrev ETH_APPFLT_EN (k : Nat) : Fld := ⟨ETH_APPFLT k, 31, 31⟩
abbrev ETH_APPFLT_KIND (k : Nat) : Fld := ⟨ETH_APPFLT k, 30, 30⟩
abbrev ETH_APPFLT_VALUE (k : Nat) : Fld := ⟨ETH_APPFLT k, 15, 0⟩

/-- ETH_APPSTAT (R418). -/
abbrev ETH_APPSTAT : Reg := ⟨0x60100850, 0x0⟩
abbrev ETH_APPSTAT_DISC : Fld := ⟨ETH_APPSTAT, 31, 16⟩
abbrev ETH_APPSTAT_RXFILL : Fld := ⟨ETH_APPSTAT, 14, 0⟩

/-- ETH_LOCK (R418). -/
abbrev ETH_LOCK : Reg := ⟨0x601008FC, 0x0⟩
abbrev ETH_LOCK_LOCK : Fld := ⟨ETH_LOCK, 0, 0⟩

/-- ETHSW_VLAN (R417). -/
abbrev ETHSW_VLAN (k : Nat) : Reg := ⟨0x60101000 + k * 0x4, 0x0⟩
abbrev ETHSW_VLAN_EN (k : Nat) : Fld := ⟨ETHSW_VLAN k, 31, 31⟩
abbrev ETHSW_VLAN_MEMB (k : Nat) : Fld := ⟨ETHSW_VLAN k, 22, 20⟩
abbrev ETHSW_VLAN_UNTAG (k : Nat) : Fld := ⟨ETHSW_VLAN k, 18, 16⟩
abbrev ETHSW_VLAN_VID (k : Nat) : Fld := ⟨ETHSW_VLAN k, 11, 0⟩

/-- ETHSW_PVID (R417). -/
abbrev ETHSW_PVID (k : Nat) : Reg := ⟨0x60101040 + k * 0x4, 0x0⟩
abbrev ETHSW_PVID_PRIO (k : Nat) : Fld := ⟨ETHSW_PVID k, 14, 12⟩
abbrev ETHSW_PVID_PVID (k : Nat) : Fld := ⟨ETHSW_PVID k, 11, 0⟩

/-- T1S_CFG (R419). -/
abbrev T1S_CFG : Reg := ⟨0x60102000, 0x820⟩
abbrev T1S_CFG_EN : Fld := ⟨T1S_CFG, 31, 31⟩
abbrev T1S_CFG_PLCA : Fld := ⟨T1S_CFG, 30, 30⟩
abbrev T1S_CFG_NODEID : Fld := ⟨T1S_CFG, 23, 16⟩
abbrev T1S_CFG_NCNT : Fld := ⟨T1S_CFG, 15, 8⟩
abbrev T1S_CFG_TOTMR : Fld := ⟨T1S_CFG, 7, 0⟩

/-- T1S_BURST (R419). -/
abbrev T1S_BURST : Reg := ⟨0x60102004, 0x80⟩
abbrev T1S_BURST_MAXBC : Fld := ⟨T1S_BURST, 15, 8⟩
abbrev T1S_BURST_BTMR : Fld := ⟨T1S_BURST, 7, 0⟩

/-- GPTP_CFG (R420). -/
abbrev GPTP_CFG : Reg := ⟨0x60103000, 0x0⟩
abbrev GPTP_CFG_RELAY : Fld := ⟨GPTP_CFG, 1, 1⟩
abbrev GPTP_CFG_EN : Fld := ⟨GPTP_CFG, 0, 0⟩

/-- GPTP_PDELAY (R420). -/
abbrev GPTP_PDELAY (k : Nat) : Reg := ⟨0x60103010 + k * 0x4, 0x0⟩
abbrev GPTP_PDELAY_DELAY (k : Nat) : Fld := ⟨GPTP_PDELAY k, 31, 0⟩

/-! ### Chapter 20 -/

/-- SUP_CFG (R439). -/
abbrev SUP_CFG : Reg := ⟨0x70000100, 0xA0A01⟩
abbrev SUP_CFG_LOCK : Fld := ⟨SUP_CFG, 31, 31⟩
abbrev SUP_CFG_RET : Fld := ⟨SUP_CFG, 23, 16⟩
abbrev SUP_CFG_TH : Fld := ⟨SUP_CFG, 13, 8⟩
abbrev SUP_CFG_NET : Fld := ⟨SUP_CFG, 4, 4⟩
abbrev SUP_CFG_IEN : Fld := ⟨SUP_CFG, 1, 1⟩
abbrev SUP_CFG_BKEN : Fld := ⟨SUP_CFG, 0, 0⟩

/-- SUP_STAT (R441). -/
abbrev SUP_STAT : Reg := ⟨0x70000104, 0x0⟩
abbrev SUP_STAT_STBYREF : Fld := ⟨SUP_STAT, 31, 31⟩
abbrev SUP_STAT_VHVOK : Fld := ⟨SUP_STAT, 9, 9⟩
abbrev SUP_STAT_VMOK : Fld := ⟨SUP_STAT, 8, 8⟩
abbrev SUP_STAT_BKST : Fld := ⟨SUP_STAT, 5, 4⟩
abbrev SUP_STAT_SRC : Fld := ⟨SUP_STAT, 0, 0⟩

/-- SWO_CNT (R443). -/
abbrev SWO_CNT : Reg := ⟨0x70000108, 0x0⟩
abbrev SWO_CNT_RET_CNT : Fld := ⟨SWO_CNT, 31, 16⟩
abbrev SWO_CNT_SWO : Fld := ⟨SWO_CNT, 15, 0⟩

/-- SUP_FLT (R450). -/
abbrev SUP_FLT : Reg := ⟨0x7000010C, 0x0⟩
abbrev SUP_FLT_BKFLT : Fld := ⟨SUP_FLT, 3, 3⟩
abbrev SUP_FLT_OVLO : Fld := ⟨SUP_FLT, 2, 2⟩
abbrev SUP_FLT_PLLB_UL : Fld := ⟨SUP_FLT, 1, 1⟩
abbrev SUP_FLT_PLLA_UL : Fld := ⟨SUP_FLT, 0, 0⟩

/-- PDC_REQ (R448). -/
abbrev PDC_REQ : Reg := ⟨0x70000110, 0x0⟩
abbrev PDC_REQ_REQ : Fld := ⟨PDC_REQ, 13, 0⟩

/-- PDC_STAT (R448). -/
abbrev PDC_STAT : Reg := ⟨0x70000114, 0x0⟩
abbrev PDC_STAT_ON : Fld := ⟨PDC_STAT, 13, 0⟩

/-- PDC_REFUSE (R448). -/
abbrev PDC_REFUSE : Reg := ⟨0x70000118, 0x0⟩
abbrev PDC_REFUSE_REF_CNT : Fld := ⟨PDC_REFUSE, 31, 16⟩
abbrev PDC_REFUSE_REASON : Fld := ⟨PDC_REFUSE, 6, 4⟩
abbrev PDC_REFUSE_DOM : Fld := ⟨PDC_REFUSE, 3, 0⟩

/-- SUP_STBY (R451). -/
abbrev SUP_STBY : Reg := ⟨0x7000011C, 0x0⟩
abbrev SUP_STBY_KEY : Fld := ⟨SUP_STBY, 15, 0⟩

/-- AON_WAKE (R452). -/
abbrev AON_WAKE : Reg := ⟨0x70000300, 0x1⟩
abbrev AON_WAKE_WPOL : Fld := ⟨AON_WAKE, 8, 8⟩
abbrev AON_WAKE_EN : Fld := ⟨AON_WAKE, 4, 0⟩

/-- AON_CAUSE (R446). -/
abbrev AON_CAUSE : Reg := ⟨0x70000304, 0x0⟩
abbrev AON_CAUSE_LAST : Fld := ⟨AON_CAUSE, 7, 5⟩
abbrev AON_CAUSE_WAKE : Fld := ⟨AON_CAUSE, 4, 0⟩

/-- AON_TIMER (R452). -/
abbrev AON_TIMER : Reg := ⟨0x70000308, 0x0⟩
abbrev AON_TIMER_SEC : Fld := ⟨AON_TIMER, 23, 0⟩

/-! ### Chapter 21 -/

/-- AON_START (R464). -/
abbrev AON_START : Reg := ⟨0x7000030C, 0x0⟩
abbrev AON_START_ATTEMPTS : Fld := ⟨AON_START, 31, 24⟩
abbrev AON_START_FSTEP : Fld := ⟨AON_START, 23, 20⟩
abbrev AON_START_WARMFAIL : Fld := ⟨AON_START, 19, 19⟩
abbrev AON_START_HOLD : Fld := ⟨AON_START, 18, 18⟩
abbrev AON_START_FAILS : Fld := ⟨AON_START, 17, 16⟩
abbrev AON_START_WINDOW : Fld := ⟨AON_START, 13, 0⟩

/-- SYSC_BOOT (R465). -/
abbrev SYSC_BOOT : Reg := ⟨0x70000010, 0x2000000⟩
abbrev SYSC_BOOT_KIND : Fld := ⟨SYSC_BOOT, 31, 30⟩
abbrev SYSC_BOOT_BANK : Fld := ⟨SYSC_BOOT, 29, 29⟩
abbrev SYSC_BOOT_FALLBACK : Fld := ⟨SYSC_BOOT, 28, 28⟩
abbrev SYSC_BOOT_RECOV : Fld := ⟨SYSC_BOOT, 27, 27⟩
abbrev SYSC_BOOT_LCS : Fld := ⟨SYSC_BOOT, 26, 24⟩
abbrev SYSC_BOOT_FMASK : Fld := ⟨SYSC_BOOT, 23, 12⟩
abbrev SYSC_BOOT_TIME : Fld := ⟨SYSC_BOOT, 11, 0⟩

/-- SYSC_RST (R459). -/
abbrev SYSC_RST : Reg := ⟨0x70000014, 0x0⟩
abbrev SYSC_RST_RSTREF : Fld := ⟨SYSC_RST, 31, 31⟩
abbrev SYSC_RST_FAULTN : Fld := ⟨SYSC_RST, 16, 16⟩
abbrev SYSC_RST_KEY : Fld := ⟨SYSC_RST, 15, 0⟩

/-! ### Chapter 22 -/

/-- THM_CFG (R481). -/
abbrev THM_CFG : Reg := ⟨0x70000500, 0x1A08700⟩
abbrev THM_CFG_LOCK : Fld := ⟨THM_CFG, 31, 31⟩
abbrev THM_CFG_INVPOL : Fld := ⟨THM_CFG, 24, 24⟩
abbrev THM_CFG_TSHUT : Fld := ⟨THM_CFG, 23, 16⟩
abbrev THM_CFG_TSTART : Fld := ⟨THM_CFG, 15, 8⟩

/-- THM_EN (R480). -/
abbrev THM_EN : Reg := ⟨0x70000504, 0xFFFFFF⟩
abbrev THM_EN_EN : Fld := ⟨THM_EN, 29, 0⟩

/-- THM_STAT (R480). -/
abbrev THM_STAT : Reg := ⟨0x70000508, 0x8000⟩
abbrev THM_STAT_STEP : Fld := ⟨THM_STAT, 31, 28⟩
abbrev THM_STAT_MAXSRC : Fld := ⟨THM_STAT, 20, 16⟩
abbrev THM_STAT_TEMP_MAX : Fld := ⟨THM_STAT, 15, 0⟩

/-- THM_INVAL (R479). -/
abbrev THM_INVAL : Reg := ⟨0x7000050C, 0x0⟩
abbrev THM_INVAL_INVAL : Fld := ⟨THM_INVAL, 29, 0⟩

/-- THM_CNT (R482). -/
abbrev THM_CNT : Reg := ⟨0x70000510, 0x0⟩
abbrev THM_CNT_RISE_CNT : Fld := ⟨THM_CNT, 15, 0⟩

/-- THM_TXCFG (R478). -/
abbrev THM_TXCFG (k : Nat) : Reg := ⟨0x70000520 + k * 0x4, 0x0⟩
abbrev THM_TXCFG_GAIN (k : Nat) : Fld := ⟨THM_TXCFG k, 31, 16⟩
abbrev THM_TXCFG_OFS (k : Nat) : Fld := ⟨THM_TXCFG k, 15, 0⟩

/-- THM_T (R478). -/
abbrev THM_T (k : Nat) : Reg := ⟨0x70000540 + k * 0x4, 0x8000⟩
abbrev THM_T_TEMP (k : Nat) : Fld := ⟨THM_T k, 15, 0⟩

/-! ### The access table (R16) -/

/-- The access codes of R16. -/
inductive Access where
  | rw
  | ro
  | wo
  | w1c
  /-- W1C on a count or other value that a write of 1 to any bit clears as a whole. -/
  | cnt
  | rwl
  | shd
  deriving DecidableEq, Repr

/-- One row of the address map: a register or an array of them (up to two index ranges, each a count and a stride), its
reset value and its fields as (hi, lo, access). -/
structure Row where
  base : Nat
  n1 : Nat
  s1 : Nat
  n2 : Nat
  s2 : Nat
  rst : Nat
  flds : List (Nat × Nat × Access)
  deriving DecidableEq, Repr

def rows700_0 : List Row := [
   ⟨0x70000000, 1, 0x1, 1, 0x1, 0x43320188, [(31, 24, .ro), (23, 16, .ro), (15, 8, .ro), (7, 0, .ro)]⟩,  -- SYSC_ID
   ⟨0x70000400, 4, 0x40, 1, 0x1, 0x0, [(31, 22, .ro), (21, 12, .ro), (11, 5, .ro), (4, 4, .ro), (1, 0, .ro)]⟩,  -- SCC_MODE
   ⟨0x70000404, 4, 0x40, 1, 0x1, 0x0, [(31, 16, .ro), (3, 0, .ro)]⟩,  -- SCC_RDBASE
   ⟨0x70000408, 4, 0x40, 1, 0x1, 0x0, [(31, 16, .ro)]⟩,  -- SCC_IMGB
   ⟨0x7000040C, 4, 0x40, 1, 0x1, 0x0, [(31, 16, .ro)]⟩,  -- SCC_IMGC
   ⟨0x70000410, 4, 0x40, 1, 0x1, 0xC000, [(28, 26, .ro), (25, 24, .ro), (19, 16, .ro), (15, 14, .ro), (3, 0, .ro)]⟩,  -- SCC_STAT
   ⟨0x70000414, 4, 0x40, 1, 0x1, 0x0, [(23, 16, .cnt), (15, 8, .cnt), (7, 0, .cnt)]⟩,  -- SCC_CNT
   ⟨0x70000418, 4, 0x40, 1, 0x1, 0x0, [(31, 0, .ro)]⟩,  -- SCC_MMPC
   ⟨0x7000041C, 4, 0x40, 1, 0x1, 0x0, [(31, 0, .ro)]⟩,  -- SCC_MMADDR
   ⟨0x70000420, 4, 0x40, 1, 0x1, 0x0, [(31, 0, .ro)]⟩,  -- SCC_MMICNT
   ⟨0x70000424, 4, 0x40, 1, 0x1, 0x0, [(15, 0, .cnt)]⟩,  -- SCC_LAG
   ⟨0x70000200, 1, 0x1, 1, 0x1, 0x0, [(31, 16, .cnt), (15, 0, .cnt)]⟩,  -- MEM_SRAMERR
   ⟨0x70000204, 1, 0x1, 1, 0x1, 0x0, [(31, 0, .ro)]⟩,  -- MEM_SRAMUEA
   ⟨0x70000208, 1, 0x1, 1, 0x1, 0x0, [(31, 16, .cnt), (15, 0, .cnt)]⟩,  -- MEM_MRAMERR
   ⟨0x7000020C, 1, 0x1, 1, 0x1, 0x0, [(31, 0, .ro)]⟩,  -- MEM_MRAMUEA
   ⟨0x70000210, 1, 0x1, 1, 0x1, 0x0, [(31, 16, .cnt), (15, 0, .cnt)]⟩,  -- MEM_FABERR
   ⟨0x70000214, 1, 0x1, 1, 0x1, 0x80000000, [(31, 31, .rw), (18, 0, .ro)]⟩,  -- MEM_SCRUB
   ⟨0x70000100, 1, 0x1, 1, 0x1, 0xA0A01, [(31, 31, .rwl), (23, 16, .rwl), (13, 8, .rwl), (4, 4, .rwl), (1, 1, .rw), (0, 0, .rwl)]⟩,  -- SUP_CFG
   ⟨0x70000104, 1, 0x1, 1, 0x1, 0x0, [(31, 31, .w1c), (9, 9, .ro), (8, 8, .ro), (5, 4, .ro), (0, 0, .ro)]⟩,  -- SUP_STAT
   ⟨0x70000108, 1, 0x1, 1, 0x1, 0x0, [(31, 16, .cnt), (15, 0, .cnt)]⟩]  -- SWO_CNT

def rows700_1 : List Row := [
   ⟨0x7000010C, 1, 0x1, 1, 0x1, 0x0, [(3, 3, .w1c), (2, 2, .w1c), (1, 1, .w1c), (0, 0, .w1c)]⟩,  -- SUP_FLT
   ⟨0x70000110, 1, 0x1, 1, 0x1, 0x0, [(13, 0, .rw)]⟩,  -- PDC_REQ
   ⟨0x70000114, 1, 0x1, 1, 0x1, 0x0, [(13, 0, .ro)]⟩,  -- PDC_STAT
   ⟨0x70000118, 1, 0x1, 1, 0x1, 0x0, [(31, 16, .cnt), (6, 4, .ro), (3, 0, .ro)]⟩,  -- PDC_REFUSE
   ⟨0x7000011C, 1, 0x1, 1, 0x1, 0x0, [(15, 0, .wo)]⟩,  -- SUP_STBY
   ⟨0x70000300, 1, 0x1, 1, 0x1, 0x1, [(8, 8, .rw), (4, 0, .rw)]⟩,  -- AON_WAKE
   ⟨0x70000304, 1, 0x1, 1, 0x1, 0x0, [(7, 5, .ro), (4, 0, .ro)]⟩,  -- AON_CAUSE
   ⟨0x70000308, 1, 0x1, 1, 0x1, 0x0, [(23, 0, .rw)]⟩,  -- AON_TIMER
   ⟨0x7000030C, 1, 0x1, 1, 0x1, 0x0, [(31, 24, .ro), (23, 20, .ro), (19, 19, .ro), (18, 18, .ro), (17, 16, .ro), (13, 0, .ro)]⟩,  -- AON_START
   ⟨0x70000010, 1, 0x1, 1, 0x1, 0x2000000, [(31, 30, .ro), (29, 29, .ro), (28, 28, .ro), (27, 27, .ro), (26, 24, .ro), (23, 12, .ro), (11, 0, .ro)]⟩,  -- SYSC_BOOT
   ⟨0x70000014, 1, 0x1, 1, 0x1, 0x0, [(31, 31, .w1c), (16, 16, .rw), (15, 0, .wo)]⟩,  -- SYSC_RST
   ⟨0x70000500, 1, 0x1, 1, 0x1, 0x1A08700, [(31, 31, .rwl), (24, 24, .rwl), (23, 16, .rwl), (15, 8, .rwl)]⟩,  -- THM_CFG
   ⟨0x70000504, 1, 0x1, 1, 0x1, 0xFFFFFF, [(29, 0, .rwl)]⟩,  -- THM_EN
   ⟨0x70000508, 1, 0x1, 1, 0x1, 0x8000, [(31, 28, .ro), (20, 16, .ro), (15, 0, .ro)]⟩,  -- THM_STAT
   ⟨0x7000050C, 1, 0x1, 1, 0x1, 0x0, [(29, 0, .w1c)]⟩,  -- THM_INVAL
   ⟨0x70000510, 1, 0x1, 1, 0x1, 0x0, [(15, 0, .cnt)]⟩,  -- THM_CNT
   ⟨0x70000520, 6, 0x4, 1, 0x1, 0x0, [(31, 16, .rwl), (15, 0, .rwl)]⟩,  -- THM_TXCFG
   ⟨0x70000540, 30, 0x4, 1, 0x1, 0x8000, [(15, 0, .ro)]⟩]  -- THM_T

def rows405_0 : List Row := [
   ⟨0x40500100, 4, 0x4, 1, 0x1, 0xFFFFFFFF, [(31, 28, .rwl), (27, 24, .rwl), (23, 20, .rwl), (19, 16, .rwl), (15, 12, .rwl), (11, 8, .rwl), (7, 4, .rwl), (3, 0, .rwl)]⟩,  -- CEC_PWMOWN
   ⟨0x405001F0, 1, 0x1, 1, 0x1, 0x0, [(0, 0, .rwl)]⟩,  -- CEC_LOCK
   ⟨0x405001F4, 1, 0x1, 1, 0x1, 0x0, [(31, 24, .ro), (23, 16, .ro), (15, 0, .cnt)]⟩,  -- CEC_OWNVIOL_CNT
   ⟨0x405001F8, 1, 0x1, 1, 0x1, 0x0, [(15, 0, .cnt)]⟩,  -- CEC_TCMCOLL_CNT
   ⟨0x40500400, 8, 0x80, 1, 0x1, 0xF000003, [(27, 24, .rwl), (4, 4, .rw), (2, 2, .wo), (1, 1, .rw), (0, 0, .rw)]⟩,  -- CE_CTRL
   ⟨0x40500404, 8, 0x80, 1, 0x1, 0x0, [(31, 24, .ro), (23, 20, .ro), (1, 0, .ro)]⟩,  -- CE_STATUS
   ⟨0x40500408, 8, 0x80, 4, 0x4, 0xFF, [(31, 31, .rw), (30, 29, .rw), (7, 0, .rw)]⟩,  -- CE_TSCFG
   ⟨0x40500418, 8, 0x80, 4, 0x8, 0x0, [(31, 0, .rw)]⟩,  -- CE_TSMSKLO
   ⟨0x4050041C, 8, 0x80, 4, 0x8, 0x0, [(31, 0, .rw)]⟩,  -- CE_TSMSKHI
   ⟨0x40500438, 8, 0x80, 1, 0x1, 0x3200028, [(31, 31, .rw), (30, 30, .rw), (29, 29, .rwl), (27, 24, .rwl), (21, 20, .rw), (16, 12, .rw), (11, 0, .rw)]⟩,  -- CE_DLCFG
   ⟨0x4050043C, 8, 0x80, 1, 0x1, 0x0, [(31, 16, .cnt), (11, 8, .ro), (2, 2, .w1c), (1, 1, .w1c), (0, 0, .ro)]⟩,  -- CE_DLSTAT
   ⟨0x40500440, 8, 0x80, 1, 0x1, 0x0, [(31, 16, .cnt), (15, 0, .cnt)]⟩,  -- CE_CNT
   ⟨0x40500444, 8, 0x80, 1, 0x1, 0x0, [(15, 0, .cnt)]⟩,  -- CE_CNT2
   ⟨0x40500448, 8, 0x80, 1, 0x1, 0x0, [(3, 0, .wo)]⟩,  -- CE_DOORBELL
   ⟨0x4050044C, 8, 0x80, 1, 0x1, 0x0, [(31, 0, .ro)]⟩,  -- CE_PC
   ⟨0x40500450, 8, 0x80, 1, 0x1, 0x0, [(31, 16, .cnt), (15, 0, .ro)]⟩,  -- CE_CYCLES
   ⟨0x40500900, 1, 0x1, 1, 0x1, 0x1000, [(31, 31, .rwl), (15, 8, .rwl)]⟩,  -- LGC_CTRL
   ⟨0x40500904, 1, 0x1, 1, 0x1, 0x0, [(31, 16, .rw), (15, 0, .rw)]⟩,  -- LGC_BATLIM
   ⟨0x40500908, 1, 0x1, 1, 0x1, 0xA050064, [(31, 24, .rwl), (23, 16, .rwl), (15, 0, .rwl)]⟩,  -- LGC_BATTMO
   ⟨0x4050090C, 1, 0x1, 1, 0x1, 0x10, [(31, 16, .ro), (15, 8, .cnt), (4, 4, .ro), (3, 0, .ro)]⟩]  -- LGC_STAT

def rows405_1 : List Row := [
   ⟨0x40500910, 1, 0x1, 1, 0x1, 0x1A0064, [(31, 31, .rw), (26, 24, .rw), (23, 16, .rw), (15, 0, .rw)]⟩,  -- LGC_STEER
   ⟨0x40500914, 1, 0x1, 1, 0x1, 0x0, [(31, 16, .ro), (15, 8, .ro), (7, 0, .ro)]⟩,  -- LGC_STEERSTAT
   ⟨0x40500800, 8, 0x20, 1, 0x1, 0x6FFFF, [(31, 31, .rwl), (18, 16, .rwl), (15, 0, .rwl)]⟩,  -- LGE_CFG
   ⟨0x40500804, 8, 0x20, 1, 0x1, 0x0, [(31, 0, .ro)]⟩,  -- LGE_PRED
   ⟨0x40500808, 8, 0x20, 1, 0x1, 0x0, [(31, 0, .ro)]⟩,  -- LGE_HEAT
   ⟨0x4050080C, 8, 0x20, 1, 0x1, 0x0, [(31, 0, .ro)]⟩,  -- LGE_GRANT
   ⟨0x40500810, 8, 0x20, 1, 0x1, 0x100, [(31, 31, .ro), (30, 30, .ro), (29, 28, .ro), (27, 24, .ro), (22, 20, .ro), (8, 0, .ro)]⟩,  -- LGE_STAT
   ⟨0x40500814, 8, 0x20, 1, 0x1, 0x0, [(31, 24, .ro), (20, 20, .ro), (19, 0, .ro)]⟩]  -- LGE_OFS

def rows701_0 : List Row := [
   ⟨0x70100800, 1, 0x1, 1, 0x1, 0x0, [(27, 16, .ro), (11, 0, .ro)]⟩,  -- MDM_ACTIVE
   ⟨0x70100804, 1, 0x1, 1, 0x1, 0x0, [(3, 0, .ro)]⟩,  -- MDM_HOLD
   ⟨0x70100808, 1, 0x1, 1, 0x1, 0x1400, [(31, 16, .ro), (15, 8, .rwl), (2, 2, .rwl), (1, 1, .ro), (0, 0, .ro)]⟩,  -- MDM_PLUG
   ⟨0x7010080C, 1, 0x1, 1, 0x1, 0x0, [(15, 14, .rwl), (13, 12, .rwl), (11, 10, .rwl), (9, 8, .rwl), (7, 6, .rwl), (5, 4, .rwl), (3, 2, .rwl), (1, 0, .rwl)]⟩,  -- MDM_PLUGPOL
   ⟨0x70100810, 1, 0x1, 1, 0x1, 0x0, [(29, 29, .rwl), (28, 28, .rwl), (27, 27, .rwl), (26, 26, .rwl), (25, 25, .rwl), (24, 24, .rwl), (23, 23, .rwl), (22, 22, .rwl), (21, 21, .rwl), (20, 20, .rwl), (19, 19, .rwl), (18, 18, .rwl), (17, 17, .rwl), (16, 16, .rwl), (15, 15, .rwl), (14, 14, .rwl), (13, 13, .rwl), (12, 12, .rwl), (11, 11, .rwl), (10, 10, .rwl), (9, 9, .rwl), (8, 8, .rwl), (7, 7, .rwl), (6, 6, .rwl), (5, 5, .rwl), (4, 4, .rwl), (3, 3, .rwl), (2, 2, .rwl), (1, 1, .rwl), (0, 0, .rwl)]⟩,  -- MDM_PAIRDENY
   ⟨0x70100814, 1, 0x1, 1, 0x1, 0x0, [(1, 1, .w1c), (0, 0, .rwl)]⟩,  -- MDM_LOCK
   ⟨0x70100818, 1, 0x1, 1, 0x1, 0x0, [(31, 28, .ro), (27, 24, .ro), (23, 20, .ro), (19, 16, .ro), (15, 12, .ro), (11, 8, .ro), (7, 4, .ro), (3, 0, .ro)]⟩,  -- MDM_ENDRSN0
   ⟨0x7010081C, 1, 0x1, 1, 0x1, 0x0, [(15, 12, .ro), (11, 8, .ro), (7, 4, .ro), (3, 0, .ro)]⟩,  -- MDM_ENDRSN1
   ⟨0x70100840, 3, 0x4, 1, 0x1, 0x0, [(31, 28, .ro), (27, 25, .ro), (24, 21, .ro), (20, 20, .ro), (19, 19, .ro), (15, 0, .ro)]⟩,  -- ACS_STAT
   ⟨0x70100860, 1, 0x1, 1, 0x1, 0x0, [(31, 31, .ro), (30, 30, .ro), (29, 29, .ro), (28, 28, .ro), (27, 27, .ro), (26, 26, .ro), (15, 0, .ro)]⟩,  -- DCS_STAT
   ⟨0x70100864, 1, 0x1, 1, 0x1, 0x0, [(15, 0, .ro)]⟩,  -- DCS_IOUT
   ⟨0x70100000, 8, 0x20, 1, 0x1, 0xA000F, [(31, 31, .rw), (23, 16, .rw), (3, 0, .rw)]⟩,  -- MBX_CFG
   ⟨0x70100004, 8, 0x20, 1, 0x1, 0x0, [(3, 0, .ro)]⟩,  -- MBX_REQ
   ⟨0x70100008, 8, 0x20, 1, 0x1, 0x0, [(3, 0, .wo)]⟩,  -- MBX_DONE
   ⟨0x7010000C, 8, 0x20, 1, 0x1, 0x0, [(31, 16, .cnt), (15, 0, .cnt)]⟩,  -- MBX_STAT
   ⟨0x70100900, 1, 0x1, 1, 0x1, 0x203210, [(31, 31, .rwl), (23, 16, .rwl), (15, 8, .rwl), (5, 1, .rwl)]⟩,  -- KCP_CFG
   ⟨0x70100904, 1, 0x1, 1, 0x1, 0x4080810, [(31, 24, .rwl), (23, 16, .rwl), (15, 8, .rwl), (7, 0, .rwl)]⟩,  -- KCP_QCAP
   ⟨0x70100908, 1, 0x1, 1, 0x1, 0x0, [(26, 18, .ro), (17, 9, .ro), (7, 0, .ro)]⟩,  -- KCP_OCC
   ⟨0x7010090C, 1, 0x1, 1, 0x1, 0x0, [(30, 24, .ro), (21, 16, .ro), (13, 8, .ro), (4, 0, .ro)]⟩,  -- KCP_QFILL
   ⟨0x70100910, 1, 0x1, 1, 0x1, 0x0, [(31, 16, .cnt), (15, 0, .cnt)]⟩]  -- KCP_ERR0

def rows701_1 : List Row := [
   ⟨0x70100914, 1, 0x1, 1, 0x1, 0x0, [(31, 16, .cnt), (15, 0, .cnt)]⟩,  -- KCP_ERR1
   ⟨0x70100920, 4, 0x4, 1, 0x1, 0x3786E000, [(31, 31, .rwl), (29, 19, .rwl), (18, 8, .rwl), (7, 0, .rwl)]⟩,  -- KCP_CAN
   ⟨0x70100930, 2, 0x4, 1, 0x1, 0x0, [(31, 0, .rwl)]⟩]  -- KCP_CUSTMAP

def rows408_0 : List Row := [
   ⟨0x40800000, 1, 0x1, 1, 0x1, 0x0, [(31, 0, .ro)]⟩,  -- TB_LO
   ⟨0x40800004, 1, 0x1, 1, 0x1, 0x0, [(31, 0, .ro)]⟩,  -- TB_HI
   ⟨0x40800008, 1, 0x1, 1, 0x1, 0x0, [(31, 12, .ro), (3, 3, .ro), (1, 1, .rw), (0, 0, .rw)]⟩,  -- TB_CTRL
   ⟨0x40800010, 1, 0x1, 1, 0x1, 0x0, [(31, 0, .ro)]⟩,  -- TB_OFFSET_LO
   ⟨0x40800014, 1, 0x1, 1, 0x1, 0x0, [(31, 0, .ro)]⟩,  -- TB_OFFSET_HI
   ⟨0x40800100, 1, 0x1, 1, 0x1, 0x0, [(3, 0, .rw)]⟩,  -- EVL_CTRL
   ⟨0x40800104, 1, 0x1, 1, 0x1, 0x0, [(27, 16, .ro), (15, 0, .cnt)]⟩]  -- EVL_STATUS

def rows400_0 : List Row := [
   ⟨0x40000000, 32, 0x400, 1, 0x1, 0x0, [(13, 12, .rw), (11, 11, .rw), (10, 10, .rw), (9, 9, .rw), (8, 8, .rw), (7, 7, .rw), (6, 6, .rw), (5, 5, .rw), (4, 4, .rw), (3, 2, .rw), (1, 1, .rw), (0, 0, .rw)]⟩,  -- PWM_CTRL
   ⟨0x40000004, 32, 0x400, 1, 0x1, 0x0, [(15, 0, .shd)]⟩,  -- PWM_PRD
   ⟨0x40000084, 32, 0x400, 1, 0x1, 0x0, [(15, 0, .ro)]⟩,  -- PWM_PRD_EFF
   ⟨0x40000008, 32, 0x400, 1, 0x1, 0x0, [(19, 0, .shd)]⟩,  -- PWM_CMPA
   ⟨0x40000088, 32, 0x400, 1, 0x1, 0x0, [(19, 0, .ro)]⟩,  -- PWM_CMPA_EFF
   ⟨0x4000000C, 32, 0x400, 1, 0x1, 0x0, [(19, 0, .shd)]⟩,  -- PWM_CMPB
   ⟨0x4000008C, 32, 0x400, 1, 0x1, 0x0, [(19, 0, .ro)]⟩,  -- PWM_CMPB_EFF
   ⟨0x40000010, 32, 0x400, 1, 0x1, 0x0, [(21, 20, .shd), (15, 0, .shd)]⟩,  -- PWM_CMPC
   ⟨0x40000090, 32, 0x400, 1, 0x1, 0x0, [(21, 20, .ro), (15, 0, .ro)]⟩,  -- PWM_CMPC_EFF
   ⟨0x40000014, 32, 0x400, 1, 0x1, 0x0, [(21, 20, .shd), (15, 0, .shd)]⟩,  -- PWM_CMPD
   ⟨0x40000094, 32, 0x400, 1, 0x1, 0x0, [(21, 20, .ro), (15, 0, .ro)]⟩,  -- PWM_CMPD_EFF
   ⟨0x40000018, 32, 0x400, 1, 0x1, 0x6400640, [(29, 16, .shd), (13, 0, .shd)]⟩,  -- PWM_DT
   ⟨0x40000098, 32, 0x400, 1, 0x1, 0x6400640, [(29, 16, .ro), (13, 0, .ro)]⟩,  -- PWM_DT_EFF
   ⟨0x4000001C, 32, 0x400, 1, 0x1, 0x0, [(11, 0, .shd)]⟩,  -- PWM_MINPW
   ⟨0x4000009C, 32, 0x400, 1, 0x1, 0x0, [(11, 0, .ro)]⟩,  -- PWM_MINPW_EFF
   ⟨0x40000020, 32, 0x400, 1, 0x1, 0x0, [(20, 20, .shd), (19, 0, .shd)]⟩,  -- PWM_PHASE
   ⟨0x400000A0, 32, 0x400, 1, 0x1, 0x0, [(20, 20, .ro), (19, 0, .ro)]⟩,  -- PWM_PHASE_EFF
   ⟨0x40000024, 32, 0x400, 1, 0x1, 0x0, [(3, 2, .rw), (1, 0, .rw)]⟩,  -- PWM_FORCE
   ⟨0x40000028, 32, 0x400, 1, 0x1, 0x5050505, [(28, 28, .rw), (27, 26, .rw), (25, 24, .rw), (20, 20, .rw), (19, 18, .rw), (17, 16, .rw), (12, 12, .rw), (11, 10, .rw), (9, 8, .rw), (4, 4, .rw), (3, 2, .rw), (1, 0, .rw)]⟩,  -- PWM_TRIPCFG
   ⟨0x4000002C, 32, 0x400, 1, 0x1, 0x0, [(3, 0, .wo)]⟩]  -- PWM_TRIPCLR

def rows400_1 : List Row := [
   ⟨0x40000030, 32, 0x400, 1, 0x1, 0x0, [(31, 28, .ro), (27, 24, .ro), (11, 11, .w1c), (10, 10, .w1c), (9, 9, .w1c), (8, 8, .w1c), (7, 7, .w1c), (6, 6, .w1c), (5, 5, .w1c), (4, 4, .w1c), (3, 3, .ro), (2, 2, .ro), (1, 1, .ro), (0, 0, .ro)]⟩,  -- PWM_STATUS
   ⟨0x40000034, 32, 0x400, 1, 0x1, 0x0, [(31, 31, .ro), (15, 0, .ro)]⟩,  -- PWM_COUNT
   ⟨0x40000038, 32, 0x400, 1, 0x1, 0x0, [(31, 16, .cnt), (15, 0, .cnt)]⟩,  -- PWM_CNT0
   ⟨0x4000003C, 32, 0x400, 1, 0x1, 0x0, [(31, 16, .cnt), (15, 0, .cnt)]⟩,  -- PWM_CNT1
   ⟨0x40000040, 32, 0x400, 1, 0x1, 0x0, [(8, 8, .rw), (7, 7, .rw), (6, 6, .rw), (5, 5, .rw), (4, 4, .rw), (3, 3, .rw), (2, 2, .rw), (1, 1, .rw), (0, 0, .rw)]⟩,  -- PWM_IEN
   ⟨0x40008000, 1, 0x1, 1, 0x1, 0x0, [(31, 0, .wo)]⟩,  -- PWMG_START
   ⟨0x40008004, 1, 0x1, 1, 0x1, 0x0, [(31, 0, .wo)]⟩,  -- PWMG_COMMIT
   ⟨0x40008008, 1, 0x1, 1, 0x1, 0x0, [(31, 0, .ro)]⟩]  -- PWMG_CMTSTAT

def rows401_0 : List Row := [
   ⟨0x40100000, 32, 0x200, 1, 0x1, 0x0, [(8, 8, .rwl), (5, 4, .rwl), (1, 1, .rwl), (0, 0, .rwl)]⟩,  -- GD_CFG, even channels
   ⟨0x40100100, 32, 0x200, 1, 0x1, 0x0, [(5, 4, .rwl), (1, 1, .rwl), (0, 0, .rwl)]⟩,  -- GD_CFG, odd channels
   ⟨0x40100004, 42, 0x100, 1, 0x1, 0x0, [(3, 2, .rwl), (1, 0, .rwl)]⟩,  -- GD_BIAS
   ⟨0x40100008, 42, 0x100, 1, 0x1, 0xA1405, [(23, 22, .shd), (21, 16, .shd), (15, 14, .shd), (13, 8, .shd), (7, 6, .shd), (5, 0, .shd)]⟩,  -- GD_PROFILE_ON
   ⟨0x40100088, 42, 0x100, 1, 0x1, 0xA1405, [(23, 22, .ro), (21, 16, .ro), (15, 14, .ro), (13, 8, .ro), (7, 6, .ro), (5, 0, .ro)]⟩,  -- GD_PROFILE_ON_EFF
   ⟨0x4010000C, 42, 0x100, 1, 0x1, 0xA1405, [(23, 22, .shd), (21, 16, .shd), (15, 14, .shd), (13, 8, .shd), (7, 6, .shd), (5, 0, .shd)]⟩,  -- GD_PROFILE_OFF
   ⟨0x4010008C, 42, 0x100, 1, 0x1, 0xA1405, [(23, 22, .ro), (21, 16, .ro), (15, 14, .ro), (13, 8, .ro), (7, 6, .ro), (5, 0, .ro)]⟩,  -- GD_PROFILE_OFF_EFF
   ⟨0x40100010, 42, 0x100, 1, 0x1, 0x32043300, [(29, 20, .rwl), (19, 16, .rw), (15, 12, .rw), (9, 8, .rwl), (7, 6, .rwl), (2, 2, .rw), (1, 1, .rw), (0, 0, .rw)]⟩,  -- GD_LOOP
   ⟨0x40100014, 42, 0x100, 1, 0x1, 0x320C8C8, [(27, 20, .rw), (19, 10, .rwl), (9, 0, .rwl)]⟩,  -- GD_SENSE
   ⟨0x40100018, 42, 0x100, 1, 0x1, 0x0, [(31, 31, .ro), (30, 28, .ro), (27, 26, .ro), (25, 16, .ro), (11, 0, .ro)]⟩,  -- GD_EDGE_ON
   ⟨0x4010001C, 42, 0x100, 1, 0x1, 0x0, [(31, 31, .ro), (30, 28, .ro), (27, 26, .ro), (25, 16, .ro), (11, 0, .ro)]⟩,  -- GD_EDGE_OFF
   ⟨0x40100020, 64, 0x100, 1, 0x1, 0x0, [(11, 11, .w1c), (10, 10, .ro), (9, 9, .ro), (8, 8, .w1c), (7, 7, .w1c), (6, 6, .w1c), (4, 4, .ro), (3, 3, .ro), (2, 2, .ro), (1, 1, .ro)]⟩,  -- GD_STATUS
   ⟨0x40100024, 64, 0x100, 1, 0x1, 0x0, [(31, 16, .cnt), (15, 0, .cnt)]⟩,  -- GD_CNT0
   ⟨0x40100028, 64, 0x100, 1, 0x1, 0x0, [(31, 16, .cnt), (15, 0, .cnt)]⟩,  -- GD_CNT1
   ⟨0x40102A2C, 11, 0x200, 1, 0x1, 0xCA004, [(20, 20, .rwl), (19, 18, .rw), (17, 12, .rw), (8, 1, .rw), (0, 0, .rw)]⟩,  -- GD_BOOT, even channels from GC42
   ⟨0x40102B2C, 11, 0x200, 1, 0x1, 0xCA004, [(19, 18, .rw)]⟩,  -- GD_BOOT, odd channels from GC43
   ⟨0x40100030, 42, 0x100, 1, 0x1, 0x0, [(25, 16, .ro), (9, 0, .ro)]⟩,  -- GD_LEVELS
   ⟨0x40100034, 42, 0x100, 1, 0x1, 0x0, [(19, 16, .ro), (11, 8, .ro), (5, 4, .ro), (1, 0, .ro)]⟩,  -- GD_LOOPSTAT
   ⟨0x40100038, 42, 0x100, 1, 0x1, 0x0, [(11, 0, .ro)]⟩,  -- GD_BIASPWR
   ⟨0x40100040, 42, 0x100, 1, 0x1, 0xBCA8B520, [(31, 31, .rwl), (30, 26, .rwl), (23, 23, .rwl), (22, 18, .rwl), (17, 10, .rwl), (9, 6, .rwl), (5, 4, .rwl), (3, 3, .rwl)]⟩]  -- GD_PROT

def rows401_1 : List Row := [
   ⟨0x40100044, 42, 0x100, 1, 0x1, 0x0, [(7, 7, .w1c), (6, 6, .ro), (5, 5, .ro), (4, 4, .w1c), (3, 3, .w1c), (1, 1, .w1c), (0, 0, .w1c)]⟩,  -- GD_PFLT
   ⟨0x40108000, 1, 0x1, 1, 0x1, 0x0, [(0, 0, .rwl)]⟩,  -- GDG_LOCK
   ⟨0x40108004, 1, 0x1, 1, 0x1, 0xC0, [(12, 12, .ro), (11, 8, .ro), (7, 0, .ro)]⟩,  -- GDG_AGG
   ⟨0x40108008, 1, 0x1, 1, 0x1, 0x120C0C, [(23, 16, .rw), (15, 8, .rw), (7, 0, .rw)]⟩,  -- GDG_SHARE
   ⟨0x4010800C, 1, 0x1, 1, 0x1, 0x0, [(23, 16, .ro), (15, 8, .ro), (7, 0, .ro)]⟩,  -- GDG_GRPLIM
   ⟨0x40108010, 1, 0x1, 1, 0x1, 0x0, [(23, 16, .ro), (15, 8, .ro), (7, 0, .ro)]⟩,  -- GDG_GRPPWR
   ⟨0x40108100, 1, 0x1, 1, 0x1, 0x320C, [(15, 8, .rw), (3, 3, .rw), (2, 2, .rw), (1, 1, .wo), (0, 0, .wo)]⟩,  -- GDG_OSDCTRL
   ⟨0x40108104, 1, 0x1, 1, 0x1, 0x0, [(31, 0, .rw)]⟩,  -- GDG_OSDLEGS
   ⟨0x40108108, 1, 0x1, 1, 0x1, 0x0, [(23, 16, .ro), (15, 8, .ro), (3, 1, .ro), (0, 0, .ro)]⟩,  -- GDG_OSDSTAT
   ⟨0x4010810C, 1, 0x1, 1, 0x1, 0x14082814, [(31, 24, .rw), (23, 16, .rw), (15, 8, .rw), (7, 0, .rw)]⟩,  -- GDG_OSDTHR
   ⟨0x40108110, 1, 0x1, 1, 0x1, 0x0, [(15, 0, .ro)]⟩,  -- GDG_OSDVDC
   ⟨0x40108120, 8, 0x4, 1, 0x1, 0x0, [(31, 31, .rw), (28, 24, .rw), (23, 23, .rw), (20, 16, .rw), (15, 15, .rw), (12, 8, .rw), (7, 7, .rw), (4, 0, .rw)]⟩,  -- GDG_OSDPAIR
   ⟨0x40108180, 32, 0x4, 1, 0x1, 0x0, [(31, 30, .ro), (29, 28, .ro), (27, 26, .ro), (19, 10, .ro), (9, 0, .ro)]⟩,  -- GDG_OSDRES
   ⟨0x40108200, 8, 0x10, 1, 0x1, 0x0, [(31, 0, .rwl)]⟩,  -- SCG_MEMB
   ⟨0x40108204, 8, 0x10, 1, 0x1, 0x7D00, [(15, 8, .rwl), (5, 5, .rwl), (1, 0, .rwl)]⟩,  -- SCG_CFG
   ⟨0x40108208, 8, 0x10, 1, 0x1, 0x0, [(15, 10, .ro), (9, 9, .ro), (8, 8, .ro), (2, 2, .ro), (1, 0, .ro)]⟩,  -- SCG_STAT
   ⟨0x4010820C, 8, 0x10, 1, 0x1, 0x0, [(0, 0, .wo)]⟩]  -- SCG_CLR

def rows402_0 : List Row := [
   ⟨0x40200000, 24, 0x100, 1, 0x1, 0x0, [(1, 1, .rw), (0, 0, .rw)]⟩,  -- AD_CFG
   ⟨0x40200004, 24, 0x100, 1, 0x1, 0x0, [(31, 0, .shd)]⟩,  -- AD_SEQ
   ⟨0x40200084, 24, 0x100, 1, 0x1, 0x0, [(31, 0, .ro)]⟩,  -- AD_SEQ_EFF
   ⟨0x40200008, 24, 0x100, 1, 0x1, 0x0, [(31, 16, .cnt), (3, 3, .w1c), (2, 2, .w1c), (1, 1, .ro)]⟩,  -- AD_STATUS
   ⟨0x40200020, 24, 0x100, 8, 0x4, 0x0, [(15, 0, .ro)]⟩,  -- AD_LAST
   ⟨0x40202000, 1, 0x1, 1, 0x1, 0x0, [(31, 31, .rwl), (0, 0, .rwl)]⟩,  -- ADG_CTRL
   ⟨0x40202004, 1, 0x1, 1, 0x1, 0x0, [(2, 2, .w1c), (1, 1, .ro), (0, 0, .ro)]⟩,  -- ADG_STATUS
   ⟨0x40202008, 1, 0x1, 1, 0x1, 0x0, [(31, 31, .rwl), (28, 24, .rwl), (18, 16, .rwl), (15, 0, .rwl)]⟩,  -- ADG_VDCSRC
   ⟨0x4020200C, 1, 0x1, 1, 0x1, 0xFFFF, [(15, 0, .ro)]⟩,  -- ADG_VDC
   ⟨0x40204000, 64, 0x40, 1, 0x1, 0x0, [(8, 8, .rw), (7, 3, .rw), (2, 0, .rw)]⟩,  -- WU_SRC
   ⟨0x40204004, 64, 0x40, 1, 0x1, 0xFF, [(19, 8, .rw), (7, 0, .rw)]⟩,  -- WU_OPEN
   ⟨0x40204008, 64, 0x40, 1, 0x1, 0x80FF0032, [(31, 31, .rw), (23, 16, .rw), (15, 0, .rw)]⟩,  -- WU_CLOSE
   ⟨0x4020400C, 64, 0x40, 1, 0x1, 0x0, [(11, 11, .rw), (10, 10, .rw), (9, 9, .rw), (8, 8, .rw), (5, 5, .rw), (4, 4, .rw), (1, 0, .rw)]⟩,  -- WU_POLICY
   ⟨0x40204010, 64, 0x40, 1, 0x1, 0x3FFF0000, [(29, 16, .rw), (13, 0, .rw)]⟩,  -- WU_LIM
   ⟨0x40204014, 64, 0x40, 1, 0x1, 0x0, [(31, 24, .ro), (23, 23, .ro), (22, 22, .ro), (21, 21, .ro), (20, 20, .ro), (19, 19, .ro), (15, 0, .ro)]⟩,  -- WU_RES0
   ⟨0x40204018, 64, 0x40, 1, 0x1, 0x0, [(17, 0, .ro)]⟩,  -- WU_RES1
   ⟨0x4020401C, 64, 0x40, 1, 0x1, 0x3FFF, [(29, 16, .ro), (13, 0, .ro)]⟩,  -- WU_RES2
   ⟨0x40204020, 64, 0x40, 1, 0x1, 0x0, [(26, 0, .ro)]⟩,  -- WU_RES3
   ⟨0x40204024, 64, 0x40, 1, 0x1, 0x0, [(2, 2, .ro), (1, 0, .ro)]⟩,  -- WU_STATUS
   ⟨0x40204028, 64, 0x40, 1, 0x1, 0x0, [(31, 16, .cnt), (15, 0, .cnt)]⟩]  -- WU_MISSED

def rows402_1 : List Row := [
   ⟨0x4020402C, 64, 0x40, 1, 0x1, 0x0, [(15, 0, .cnt)]⟩,  -- WU_LIMCNT
   ⟨0x40205000, 2, 0x4, 1, 0x1, 0x0, [(31, 0, .wo)]⟩,  -- WUG_SWTRIG
   ⟨0x40205100, 1, 0x1, 1, 0x1, 0x0, [(31, 16, .cnt), (6, 0, .ro)]⟩,  -- RQ_STATUS
   ⟨0x40206000, 4, 0x20, 1, 0x1, 0xFFFF, [(31, 16, .rw), (15, 8, .rw), (7, 0, .rw)]⟩,  -- CAP_CFG
   ⟨0x40206004, 4, 0x20, 1, 0x1, 0x0, [(4, 0, .rw)]⟩,  -- CAP_SRC
   ⟨0x40206008, 4, 0x20, 1, 0x1, 0x0, [(1, 1, .wo), (0, 0, .wo)]⟩,  -- CAP_CTRL
   ⟨0x4020600C, 4, 0x20, 1, 0x1, 0x0, [(31, 2, .ro), (1, 0, .ro)]⟩,  -- CAP_STATUS
   ⟨0x40206010, 4, 0x20, 1, 0x1, 0x0, [(31, 0, .ro)]⟩,  -- CAP_T0LO
   ⟨0x40206014, 4, 0x20, 1, 0x1, 0x0, [(31, 0, .ro)]⟩,  -- CAP_T0HI
   ⟨0x40207000, 64, 0x4, 1, 0x1, 0x0, [(31, 16, .ro), (15, 0, .ro)]⟩,  -- HKR_VAL
   ⟨0x40207100, 2, 0x4, 1, 0x1, 0x0, [(31, 0, .w1c)]⟩,  -- HKR_MISM
   ⟨0x40207108, 2, 0x4, 1, 0x1, 0x0, [(31, 0, .w1c)]⟩,  -- HKR_OVR
   ⟨0x40207110, 1, 0x1, 1, 0x1, 0x0, [(31, 16, .ro), (5, 0, .ro)]⟩,  -- HKR_STATUS
   ⟨0x40207114, 1, 0x1, 1, 0x1, 0x40, [(7, 0, .ro)]⟩]  -- HKR_CFG

def rows403_0 : List Row := [
   ⟨0x40300000, 48, 0x20, 1, 0x1, 0xFF00000C, [(31, 31, .rwl), (30, 24, .rwl), (23, 20, .rwl), (19, 19, .rwl), (18, 17, .rwl), (16, 16, .rw), (15, 12, .rwl), (3, 3, .rwl), (2, 2, .rwl), (1, 1, .rw), (0, 0, .rw)]⟩,  -- WM_CFG
   ⟨0x40300004, 48, 0x20, 1, 0x1, 0x3FF0000, [(25, 16, .rwl), (9, 0, .rwl)]⟩,  -- WM_TH
   ⟨0x40300008, 48, 0x20, 1, 0x1, 0x0, [(4, 4, .w1c), (3, 3, .w1c), (2, 2, .w1c), (1, 1, .ro), (0, 0, .ro)]⟩,  -- WM_STATUS
   ⟨0x4030000C, 48, 0x20, 1, 0x1, 0x0, [(31, 16, .cnt), (15, 0, .cnt)]⟩,  -- WM_CNT
   ⟨0x40301000, 1, 0x1, 1, 0x1, 0x0, [(0, 0, .rwl)]⟩,  -- WMG_LOCK
   ⟨0x40301004, 1, 0x1, 1, 0x1, 0x4, [(7, 0, .rw)]⟩,  -- WMG_RBTOL
   ⟨0x40301010, 3, 0x4, 1, 0x1, 0x0, [(31, 0, .w1c)]⟩,  -- WMG_DACFLT
   ⟨0x40302000, 32, 0x4, 1, 0x1, 0xFFFFFFFF, [(31, 24, .rwl), (23, 16, .rwl), (15, 8, .rwl), (7, 0, .rwl)]⟩,  -- TRN_SEL
   ⟨0x40302100, 16, 0x20, 5, 0x4, 0x0, [(31, 0, .rwl)]⟩,  -- TRN_OR_MSK
   ⟨0x40302300, 1, 0x1, 1, 0x1, 0x0, [(14, 14, .rwl), (13, 12, .rwl), (10, 10, .rwl), (9, 8, .rwl), (6, 6, .rwl), (5, 4, .rwl), (2, 2, .rwl), (1, 0, .rwl)]⟩,  -- TRN_PADCFG
   ⟨0x40302304, 1, 0x1, 1, 0x1, 0xFF, [(8, 8, .rwl), (7, 0, .rwl)]⟩,  -- TRN_OUT
   ⟨0x40302308, 1, 0x1, 1, 0x1, 0x0, [(3, 0, .w1c)]⟩,  -- TRN_STICKY
   ⟨0x40302310, 6, 0x4, 1, 0x1, 0x0, [(31, 0, .ro)]⟩,  -- TRN_STATE
   ⟨0x40302330, 1, 0x1, 1, 0x1, 0x0, [(0, 0, .rwl)]⟩]  -- TRN_LOCK

def rows404_0 : List Row := [
   ⟨0x40400000, 8, 0x100, 1, 0x1, 0x4, [(31, 31, .rw), (30, 28, .rwl), (27, 27, .rwl), (26, 26, .rwl), (25, 25, .rwl), (24, 24, .rw), (23, 23, .rw), (21, 20, .rw), (19, 19, .rw), (18, 18, .rw), (15, 12, .rw), (11, 0, .rwl)]⟩,  -- POS_CFG
   ⟨0x40400004, 8, 0x100, 1, 0x1, 0x1000, [(31, 0, .rwl)]⟩,  -- POS_MOD
   ⟨0x40400008, 8, 0x100, 1, 0x1, 0x80000000, [(31, 0, .rwl)]⟩,  -- POS_LIMLO
   ⟨0x4040000C, 8, 0x100, 1, 0x1, 0x7FFFFFFF, [(31, 0, .rwl)]⟩,  -- POS_LIMHI
   ⟨0x40400010, 8, 0x100, 1, 0x1, 0x0, [(31, 0, .rw)]⟩,  -- POS_ZVAL
   ⟨0x40400014, 8, 0x100, 1, 0x1, 0x0, [(31, 0, .rw)]⟩,  -- POS_CNT
   ⟨0x40400018, 8, 0x100, 1, 0x1, 0x0, [(31, 0, .ro)]⟩,  -- POS_ZLATCH
   ⟨0x4040001C, 8, 0x100, 1, 0x1, 0x4000, [(31, 28, .ro), (15, 15, .ro), (14, 14, .ro), (13, 13, .ro), (9, 9, .w1c), (8, 8, .w1c), (7, 7, .w1c), (6, 6, .w1c), (5, 5, .w1c), (4, 4, .w1c), (3, 3, .w1c), (2, 2, .w1c)]⟩,  -- POS_STATUS
   ⟨0x40400020, 8, 0x100, 1, 0x1, 0x0, [(31, 31, .ro), (30, 30, .ro), (29, 0, .ro)]⟩,  -- POS_SPD
   ⟨0x40400024, 8, 0x100, 1, 0x1, 0xFFFFFFFF, [(31, 0, .ro)]⟩,  -- POS_PERIOD
   ⟨0x40400028, 8, 0x100, 1, 0x1, 0x0, [(31, 0, .ro)]⟩,  -- POS_TSTAMP
   ⟨0x4040002C, 8, 0x100, 1, 0x1, 0x6403E8, [(31, 16, .rw), (15, 0, .rw)]⟩,  -- POS_TMO
   ⟨0x40400030, 8, 0x100, 1, 0x1, 0xA, [(15, 0, .rw)]⟩,  -- POS_PCMP
   ⟨0x40400034, 8, 0x100, 1, 0x1, 0x0, [(31, 16, .cnt), (15, 0, .cnt)]⟩,  -- POS_CNTS0
   ⟨0x40400038, 8, 0x100, 1, 0x1, 0x0, [(31, 16, .cnt), (15, 8, .cnt), (7, 0, .cnt)]⟩,  -- POS_CNTS1
   ⟨0x4040003C, 8, 0x100, 1, 0x1, 0x0, [(3, 3, .rw), (2, 2, .rw), (1, 1, .rw), (0, 0, .rw)]⟩,  -- POS_IEN
   ⟨0x40400040, 8, 0x100, 1, 0x1, 0x0, [(0, 0, .wo)]⟩,  -- POS_CMPCTRL
   ⟨0x40400044, 8, 0x100, 1, 0x1, 0xF, [(3, 0, .rw)]⟩,  -- POS_OWN
   ⟨0x40400080, 8, 0x100, 16, 0x4, 0x0, [(31, 0, .rw)]⟩,  -- POS_CMP
   ⟨0x40401000, 4, 0x40, 1, 0x1, 0x2E0C001E, [(31, 31, .rw), (29, 29, .rw), (28, 28, .rw), (27, 27, .rw), (26, 24, .rw), (20, 16, .rw), (9, 0, .rw)]⟩]  -- SENT_CFG

def rows404_1 : List Row := [
   ⟨0x40401004, 4, 0x40, 1, 0x1, 0x0, [(27, 24, .ro), (23, 0, .ro)]⟩,  -- SENT_LAST
   ⟨0x40401200, 2, 0x40, 1, 0x1, 0xC0DFF14, [(31, 31, .rw), (30, 30, .rw), (29, 29, .rw), (28, 24, .rw), (20, 16, .rw), (15, 8, .rw), (7, 0, .rw)]⟩,  -- SSI_CFG
   ⟨0x40401204, 2, 0x40, 1, 0x1, 0x27, [(10, 0, .rw)]⟩,  -- SSI_DIV
   ⟨0x40401208, 2, 0x40, 1, 0x1, 0x0, [(15, 0, .cnt)]⟩,  -- SSI_STAT
   ⟨0x40402000, 2, 0x100, 1, 0x1, 0x141503E8, [(31, 31, .rw), (30, 30, .rw), (28, 24, .rwl), (20, 16, .rwl), (14, 12, .rwl), (10, 0, .rwl)]⟩,  -- RES_CFG
   ⟨0x40402004, 2, 0x100, 1, 0x1, 0x10000, [(28, 18, .rw), (17, 16, .rw), (6, 0, .rw)]⟩,  -- RES_EXC
   ⟨0x40402008, 2, 0x100, 1, 0x1, 0x1C000400, [(29, 16, .rw), (13, 0, .rw)]⟩,  -- RES_LIM
   ⟨0x4040200C, 2, 0x100, 1, 0x1, 0xB6, [(11, 0, .rw)]⟩,  -- RES_TRK
   ⟨0x40402010, 2, 0x100, 1, 0x1, 0x0, [(31, 0, .ro)]⟩,  -- RES_ANGLE
   ⟨0x40402014, 2, 0x100, 1, 0x1, 0x0, [(31, 0, .ro)]⟩,  -- RES_SPD
   ⟨0x40402018, 2, 0x100, 1, 0x1, 0x0, [(13, 0, .ro)]⟩,  -- RES_AMP
   ⟨0x4040201C, 2, 0x100, 1, 0x1, 0x0, [(15, 15, .ro), (3, 3, .w1c), (2, 2, .w1c), (1, 1, .w1c), (0, 0, .w1c)]⟩,  -- RES_STATUS
   ⟨0x40403000, 1, 0x1, 1, 0x1, 0x0, [(0, 0, .rwl)]⟩]  -- POSG_LOCK

def rows500_0 : List Row := [
   ⟨0x50000000, 1, 0x1, 1, 0x1, 0x0, [(31, 31, .ro), (30, 30, .ro), (23, 8, .ro), (7, 0, .ro)]⟩,  -- HSM_CFG
   ⟨0x50000004, 1, 0x1, 1, 0x1, 0xF0000, [(31, 28, .ro), (27, 27, .ro), (26, 26, .ro), (25, 25, .ro), (24, 24, .ro), (23, 20, .ro), (19, 16, .ro), (15, 15, .ro), (14, 14, .ro), (13, 13, .ro)]⟩,  -- HSM_STATUS
   ⟨0x50000008, 1, 0x1, 1, 0x1, 0x0, [(31, 24, .ro), (17, 0, .ro)]⟩,  -- HSM_CAUSE
   ⟨0x5000000C, 1, 0x1, 1, 0x1, 0xFF, [(11, 8, .ro), (7, 0, .ro)]⟩,  -- HSM_SIN
   ⟨0x50000020, 1, 0x1, 1, 0x1, 0x0, [(31, 16, .ro), (15, 8, .ro), (7, 0, .ro)]⟩,  -- HSM_CNT
   ⟨0x50000024, 1, 0x1, 1, 0x1, 0x0, [(31, 0, .ro)]⟩,  -- HSM_SS1T
   ⟨0x50000100, 1, 0x1, 1, 0x1, 0x0, [(23, 0, .wo)]⟩,  -- HSM_ACK
   ⟨0x50000104, 1, 0x1, 1, 0x1, 0x0, [(31, 24, .wo), (3, 0, .wo)]⟩,  -- HSM_REQ
   ⟨0x50000010, 2, 0x4, 1, 0x1, 0x0, [(31, 16, .ro), (15, 0, .ro)]⟩,  -- HSM_SPD
   ⟨0x50000018, 2, 0x4, 1, 0x1, 0x0, [(19, 0, .ro)]⟩,  -- HSM_ENV
   ⟨0x50000040, 8, 0x4, 1, 0x1, 0x0, [(15, 15, .ro), (11, 8, .ro), (7, 0, .ro)]⟩,  -- HSM_WDQ
   ⟨0x50000120, 8, 0x4, 1, 0x1, 0x0, [(31, 8, .wo), (7, 0, .wo)]⟩,  -- HSM_WDANS
   ⟨0x50000140, 8, 0x4, 1, 0x1, 0x30000A, [(31, 31, .rwl), (29, 28, .rwl), (23, 20, .rwl), (19, 10, .rwl), (9, 0, .rwl)]⟩]  -- HSM_WDCFG

def rows406_0 : List Row := [
   ⟨0x40600000, 32, 0x40, 1, 0x1, 0x0, [(31, 0, .rw)]⟩,  -- DMA_SRC
   ⟨0x40600004, 32, 0x40, 1, 0x1, 0x0, [(31, 0, .rw)]⟩,  -- DMA_DST
   ⟨0x40600008, 32, 0x40, 1, 0x1, 0x0, [(23, 0, .rw)]⟩,  -- DMA_LEN
   ⟨0x4060000C, 32, 0x40, 1, 0x1, 0xFF00F003, [(31, 24, .rw), (23, 16, .rw), (15, 12, .rw), (11, 8, .rw), (7, 5, .rw), (4, 2, .rw), (1, 1, .rw), (0, 0, .rw)]⟩,  -- DMA_CFG
   ⟨0x40600010, 32, 0x40, 1, 0x1, 0x0, [(5, 5, .rw), (4, 4, .rw), (2, 2, .wo), (1, 1, .wo), (0, 0, .wo)]⟩,  -- DMA_CTRL
   ⟨0x40600014, 32, 0x40, 1, 0x1, 0x0, [(31, 28, .ro), (27, 24, .ro), (23, 23, .ro), (22, 22, .w1c), (15, 8, .cnt), (1, 1, .w1c), (0, 0, .w1c)]⟩,  -- DMA_STAT
   ⟨0x40600018, 32, 0x40, 1, 0x1, 0x0, [(23, 0, .ro)]⟩,  -- DMA_DONE
   ⟨0x4060001C, 32, 0x40, 1, 0x1, 0x0, [(31, 0, .ro)]⟩,  -- DMA_CURSRC
   ⟨0x40600020, 32, 0x40, 1, 0x1, 0x0, [(31, 0, .ro)]⟩,  -- DMA_CURDST
   ⟨0x40600024, 32, 0x40, 1, 0x1, 0x0, [(23, 0, .ro)]⟩,  -- DMA_REMAIN
   ⟨0x40600028, 32, 0x40, 1, 0x1, 0x0, [(31, 0, .ro)]⟩,  -- DMA_FADDR
   ⟨0x40601000, 1, 0x1, 1, 0x1, 0x0, [(31, 31, .ro), (23, 16, .cnt), (4, 0, .ro)]⟩,  -- DMAG_STAT
   ⟨0x40601004, 1, 0x1, 1, 0x1, 0x0, [(15, 0, .cnt)]⟩,  -- DMAG_PRE
   ⟨0x40602000, 64, 0x8, 1, 0x1, 0x0, [(31, 16, .rwl), (15, 0, .rwl)]⟩,  -- STU_MAP
   ⟨0x40602004, 64, 0x8, 1, 0x1, 0x0, [(31, 31, .rwl), (9, 9, .rwl), (8, 8, .rwl), (7, 0, .rwl)]⟩,  -- STU_ATTR
   ⟨0x40602400, 1, 0x1, 1, 0x1, 0x1, [(31, 31, .rwl), (0, 0, .rwl)]⟩]  -- STU_CTRL

def rows407_0 : List Row := [
   ⟨0x40700000, 12, 0x100, 1, 0x1, 0x0, [(31, 31, .rwl), (2, 2, .rwl), (1, 1, .rwl), (0, 0, .rwl)]⟩,  -- PU_CTRL
   ⟨0x40700004, 12, 0x100, 1, 0x1, 0x0, [(31, 31, .w1c), (30, 30, .ro), (29, 29, .ro), (28, 28, .ro), (26, 24, .ro), (19, 16, .ro)]⟩,  -- PU_FSTAT
   ⟨0x40700008, 12, 0x100, 1, 0x1, 0x0, [(31, 0, .ro)]⟩,  -- PU_FADDR
   ⟨0x40700040, 12, 0x100, 16, 0x8, 0x0, [(31, 6, .rwl)]⟩,  -- PU_RBASE
   ⟨0x40700044, 12, 0x100, 16, 0x8, 0x0, [(31, 6, .rwl), (4, 4, .rwl), (3, 3, .rwl), (2, 2, .rwl), (1, 1, .rwl), (0, 0, .rwl)]⟩]  -- PU_RLIM

def rows600_0 : List Row := [
   ⟨0x60000000, 4, 0x1000, 1, 0x1, 0x82000000, [(31, 31, .rw), (30, 29, .rw), (28, 28, .rw), (27, 27, .rw), (26, 26, .rw), (25, 25, .rw), (24, 24, .rw), (23, 23, .rw), (22, 22, .rw), (21, 21, .rw), (20, 20, .rw), (19, 19, .rw), (18, 18, .wo)]⟩,  -- CAN_CTRL
   ⟨0x60000004, 4, 0x1000, 1, 0x1, 0x3E7DF801, [(31, 0, .rw)]⟩,  -- CAN_NBT
   ⟨0x60000008, 4, 0x1000, 1, 0x1, 0x4A5C3D01, [(31, 0, .rw)]⟩,  -- CAN_DBT
   ⟨0x6000000C, 4, 0x1000, 1, 0x1, 0x18CA1900, [(31, 0, .rw)]⟩,  -- CAN_XBT
   ⟨0x60000010, 4, 0x1000, 1, 0x1, 0x0, [(31, 22, .rw), (21, 20, .rw), (19, 15, .rw), (14, 8, .rw), (6, 0, .rw)]⟩,  -- CAN_RAM
   ⟨0x60000014, 4, 0x1000, 1, 0x1, 0x0, [(31, 30, .ro), (22, 16, .ro), (7, 0, .ro)]⟩,  -- CAN_ECR
   ⟨0x60000018, 4, 0x1000, 1, 0x1, 0x0, [(31, 16, .cnt), (15, 0, .cnt)]⟩,  -- CAN_CNT
   ⟨0x6000001C, 4, 0x1000, 1, 0x1, 0x0, [(31, 16, .cnt), (15, 0, .cnt)]⟩,  -- CAN_CNT2
   ⟨0x60000020, 4, 0x1000, 1, 0x1, 0x0, [(29, 29, .ro), (28, 0, .ro)]⟩,  -- CAN_DUPID
   ⟨0x60000024, 4, 0x1000, 1, 0x1, 0x0, [(27, 0, .wo)]⟩,  -- CAN_TXREQ
   ⟨0x60000028, 4, 0x1000, 1, 0x1, 0x0, [(27, 0, .ro)]⟩,  -- CAN_TXPEND
   ⟨0x6000002C, 4, 0x1000, 1, 0x1, 0x0, [(27, 0, .wo)]⟩,  -- CAN_TXCNCL
   ⟨0x60000030, 4, 0x1000, 4, 0x4, 0x0, [(31, 0, .ro)]⟩,  -- CAN_TXRES
   ⟨0x60000040, 4, 0x1000, 3, 0x4, 0x0, [(31, 24, .cnt), (23, 23, .rw), (22, 16, .ro), (13, 8, .ro), (5, 0, .rw)]⟩,  -- CAN_RXF
   ⟨0x60000050, 4, 0x1000, 1, 0x1, 0x0, [(8, 0, .rw)]⟩,  -- CAN_IEN
   ⟨0x60000054, 4, 0x1000, 1, 0x1, 0x0, [(8, 8, .w1c), (7, 7, .w1c), (6, 6, .w1c), (5, 5, .w1c), (4, 4, .w1c), (3, 3, .w1c), (2, 2, .w1c), (1, 1, .w1c), (0, 0, .w1c)]⟩,  -- CAN_IFLG
   ⟨0x60000080, 4, 0x1000, 1, 0x1, 0x0, [(31, 0, .ro)]⟩,  -- CAN_RXDMA
   ⟨0x60000084, 4, 0x1000, 1, 0x1, 0x0, [(31, 0, .wo)]⟩,  -- CAN_TXDMA
   ⟨0x60000100, 4, 0x1000, 64, 0x8, 0x0, [(31, 31, .rw), (30, 29, .rw), (28, 0, .rw)]⟩,  -- CAN_FLT_A
   ⟨0x60000104, 4, 0x1000, 64, 0x8, 0x0, [(31, 31, .rw), (30, 30, .rw), (28, 0, .rw)]⟩]  -- CAN_FLT_B

def rows600_1 : List Row := [
   ⟨0x60008000, 1, 0x1, 1, 0x1, 0x0, [(31, 31, .ro), (29, 28, .ro), (9, 0, .ro)]⟩,  -- CANG_TMCFG
   ⟨0x60008004, 1, 0x1, 1, 0x1, 0x0, [(31, 31, .ro), (28, 0, .ro)]⟩,  -- CANG_TMID
   ⟨0x60008008, 1, 0x1, 1, 0x1, 0x0, [(15, 8, .cnt), (5, 0, .ro)]⟩]  -- CANG_TMSTAT

def rows601_0 : List Row := [
   ⟨0x60100000, 2, 0x100, 1, 0x1, 0x0, [(31, 31, .rwl), (30, 30, .rwl)]⟩,  -- ETHP_CFG
   ⟨0x60100004, 2, 0x100, 1, 0x1, 0x0, [(31, 31, .ro), (18, 16, .ro), (15, 0, .cnt)]⟩,  -- ETHP_STAT
   ⟨0x60100008, 2, 0x100, 1, 0x1, 0x0, [(31, 16, .cnt), (15, 0, .cnt)]⟩,  -- ETHP_CNT
   ⟨0x60100800, 1, 0x1, 1, 0x1, 0x0, [(31, 0, .rwl)]⟩,  -- ETH_MAC0
   ⟨0x60100804, 1, 0x1, 1, 0x1, 0x0, [(15, 0, .rwl)]⟩,  -- ETH_MAC1
   ⟨0x60100810, 4, 0x8, 1, 0x1, 0x0, [(31, 0, .rwl)]⟩,  -- ETH_IP
   ⟨0x60100814, 4, 0x8, 1, 0x1, 0x0, [(31, 31, .rwl), (16, 16, .rwl), (11, 0, .rwl)]⟩,  -- ETH_IPCFG
   ⟨0x60100840, 4, 0x4, 1, 0x1, 0x0, [(31, 31, .rwl), (30, 30, .rwl), (15, 0, .rwl)]⟩,  -- ETH_APPFLT
   ⟨0x60100850, 1, 0x1, 1, 0x1, 0x0, [(31, 16, .cnt), (14, 0, .ro)]⟩,  -- ETH_APPSTAT
   ⟨0x601008FC, 1, 0x1, 1, 0x1, 0x0, [(0, 0, .rwl)]⟩,  -- ETH_LOCK
   ⟨0x60101000, 16, 0x4, 1, 0x1, 0x0, [(31, 31, .rwl), (22, 20, .rwl), (18, 16, .rwl), (11, 0, .rwl)]⟩,  -- ETHSW_VLAN
   ⟨0x60101040, 3, 0x4, 1, 0x1, 0x0, [(14, 12, .rwl), (11, 0, .rwl)]⟩,  -- ETHSW_PVID
   ⟨0x60102000, 1, 0x1, 1, 0x1, 0x820, [(31, 31, .rwl), (30, 30, .rwl), (23, 16, .rwl), (15, 8, .rwl), (7, 0, .rwl)]⟩,  -- T1S_CFG
   ⟨0x60102004, 1, 0x1, 1, 0x1, 0x80, [(15, 8, .rwl), (7, 0, .rwl)]⟩,  -- T1S_BURST
   ⟨0x60103000, 1, 0x1, 1, 0x1, 0x0, [(1, 1, .rw), (0, 0, .rw)]⟩,  -- GPTP_CFG
   ⟨0x60103010, 2, 0x4, 1, 0x1, 0x0, [(31, 0, .ro)]⟩]  -- GPTP_PDELAY

/-- The rows of the 1 MB window that starts at w × 0x10_0000. -/
def windowRows (w : Nat) : List Row :=
  if w == 0x700 then rows700_0 ++ rows700_1
  else if w == 0x405 then rows405_0 ++ rows405_1
  else if w == 0x701 then rows701_0 ++ rows701_1
  else if w == 0x408 then rows408_0
  else if w == 0x400 then rows400_0 ++ rows400_1
  else if w == 0x401 then rows401_0 ++ rows401_1
  else if w == 0x402 then rows402_0 ++ rows402_1
  else if w == 0x403 then rows403_0
  else if w == 0x404 then rows404_0 ++ rows404_1
  else if w == 0x500 then rows500_0
  else if w == 0x406 then rows406_0
  else if w == 0x407 then rows407_0
  else if w == 0x600 then rows600_0 ++ rows600_1
  else if w == 0x601 then rows601_0
  else []

/-- Whether a row covers an address. -/
def Row.covers (r : Row) (a : Nat) : Bool :=
  decide (r.base ≤ a) &&
    (let d := a - r.base
     let i := d / r.s1
     let e := if r.n1 == 1 then d else d % r.s1
     let i1 := if r.n1 == 1 then 0 else i
     decide (i1 < r.n1) && (if r.n2 == 1 then e == 0 else decide (e / r.s2 < r.n2) && e % r.s2 == 0))

def findRow (a : Nat) : List Row → Option Row
  | [] => none
  | r :: t => if r.covers a then some r else findRow a t

/-- The row of the register at address a. -/
def rowOf (a : Nat) : Option Row := findRow a (windowRows (a / 0x100000))

/-- The reset value of the register at address a; the registers whose reset value depends on the instance come first. -/
def resetAt (a : Nat) : Nat :=
  if 0x40200000 ≤ a ∧ a < 0x40201800 ∧ a % 0x100 == 0 then (AD_CFG ((a - 0x40200000) / 0x100)).rst
  else if 0x40200000 ≤ a ∧ a < 0x40201800 ∧ a % 0x100 == 4 then (AD_SEQ ((a - 0x40200000) / 0x100)).rst
  else if 0x40200000 ≤ a ∧ a < 0x40201800 ∧ a % 0x100 == 0x84 then (AD_SEQ_EFF ((a - 0x40200000) / 0x100)).rst
  else if 0x40100000 ≤ a ∧ a < 0x40104000 ∧ a % 0x100 == 0 then (GD_CFG ((a - 0x40100000) / 0x100)).rst
  else match rowOf a with
    | some r => r.rst
    | none => 0

/-- The register at address a. -/
def regAt (a : Nat) : Reg := ⟨a, resetAt a⟩

end Sys2Proof.Machine
end

