-- ==== Sys2Proof/Machine/State.lean ====
section
/-! DEFINITION. The state of the VX8800: the registers and memories the spec gives it, the state its rules speak of beside
the registers, and the queue of waiting commands. Everything is plain data. -/

namespace Sys2Proof.Machine

/-- The order codes of R5. -/
inductive OrderCode where
  | da
  | sa
  deriving DecidableEq, Repr

/-- An event in the event log's queue (R74–R76): its STAMP, level, index within the level, TYPE, its place among the events of
its tick, the flags FOX and NOT_APPLIED, and its DATA bytes. -/
structure EvEntry where
  stamp : Nat
  level : Nat
  index : Nat
  typ : Nat
  place : Nat
  fox : Bool
  notApplied : Bool
  data : List Byte
  deriving DecidableEq, Repr

/-- The event-log writer (R74–R76). -/
structure EvLog where
  queue : List EvEntry        -- oldest first, at most 64
  seq : Nat                   -- SEQ of the next record
  ovfl : Bool                 -- the next record carries OVFL
  restart : Bool              -- the next record carries RESTART
  lastStamp : Option Nat      -- STAMP of the last record written
  lastOrder : Nat
  lastTick : Option Nat       -- the tick in which the writer stored its last record
  deriving DecidableEq, Repr

/-- Who receives an interrupt. -/
inductive IrqTo where
  | sc                      -- the SC interrupt controller
  | thread (t : Nat)        -- SC thread core × 3 + thread
  | ce (n : Nat)
  deriving DecidableEq, Repr

/-- An interrupt: its receiver, the block address and event number that raised it, and the instant in which the tick began in
which it became pending. -/
structure Irq where
  dst : IrqTo
  src : Nat
  ev : Nat
  since : Nat
  deriving DecidableEq, Repr

/-- One output of a PWM module (R80–R85). Instants are in sixteenths of a control cycle. -/
structure PwmOut where
  raw : Bool                -- the reference the compare gives, before force and trip
  ref : Bool                -- the reference in effect
  rise : Option Int         -- its rise, while the output waits for its dead time
  due : Option Int          -- the instant t_on, where it is known
  hold : Option Int         -- t_on + MINPW of the running pulse
  short : Bool              -- the pulse was predicted short at t_on
  offAt : Int               -- the last turn-off
  upTo : Int                -- the instant up to which the edges of its compare have been taken
  deriving DecidableEq, Repr

/-- What a PWM module holds beside its registers. -/
structure PwmMod where
  zero : Int                -- control cycle of the zero boundary that opened the period
  fine : Int                -- the shift of all edges that the fine part of PHASE gives (R98), in sixteenths
  lastZero : Option Nat     -- the last cycle that was a zero boundary
  lastPeak : Option Nat
  jump : Option Nat         -- the last cycle in which a synchronisation jumped the counter (R99)
  start : Bool              -- RUN was written 1 and the starting zero boundary is still to come (R90)
  first : Option Nat        -- the cycle of the last starting zero boundary
  syncAt : Option Nat       -- the cycle in which the last SYNCI pulse arrives (R97)
  cmpcAt : Option Nat       -- the cycles in which CMPC and CMPD last occurred
  cmpdAt : Option Nat
  onAt : List Nat           -- the cycle from which the ON of trip inputs 0–3 holds the reference (R94)
  tripPer : Bool            -- a trip state was active in the period that the last zero boundary ended
  forceAt : Option Nat      -- the cycle from which PWMk_FORCE takes effect (R91)
  force : Nat               -- the force in effect
  cmtMask : Nat             -- PRD, DT, MINPW, PHASE shadows (bits 0–3) written before the pending commit's write
  owed : Nat                -- those that a commit consumed at a peak boundary left for the next zero boundary (R89)
  a : PwmOut
  b : PwmOut
  tap : Int                 -- correction of the delay taps, in taps (R81)
  tapZero : Option Nat      -- the zero boundary of the period in which the taps last moved
  deriving DecidableEq, Repr

def PwmOut.idle : PwmOut := ⟨false, false, none, none, none, false, 0, 0⟩

def PwmMod.idle : PwmMod :=
  ⟨0, 0, none, none, none, false, none, none, none, none, [0, 0, 0, 0], false, none, 0, 0, 0, PwmOut.idle, PwmOut.idle, 0, none⟩

/-- A trigger set of a CE (R199, R202). -/
structure CeSet where
  record : Nat              -- units of a window set that have completed, as a 64-bit mask
  pend : Bool               -- complete and not yet taken
  stamp : Nat               -- the close value or event tick of the completion
  deriving DecidableEq, Repr

/-- One half of a mailbox slot, as KP and the CE hold it (R207, R365). -/
structure CeSlot where
  newest : Option Nat       -- the half of the newest completed setpoint
  taken : Bool              -- that setpoint has been taken
  held : Option Nat         -- the half the CE holds
  flipAt : Option Nat       -- the control cycle in which KP's last flip landed
  deriving DecidableEq, Repr

/-- What a control engine holds beside its registers in the control-engine window (R194–R213). -/
structure CeCore where
  x : List Word             -- x0–x31
  f : List Word             -- f0–f31
  v : List (List Word)      -- V0–V7, six elements each
  m : List (List Word)      -- M0–M3, 36 elements each, row by row
  pc : Nat
  mstatus : Nat
  mtvec : Nat
  mepc : Nat
  mcause : Nat
  mtval : Nat
  mscratch : Nat
  mcycle : Nat              -- 64 bits
  minstret : Nat            -- 64 bits
  fcsr : Nat
  cxstat : Nat
  sets : List CeSet
  waitMask : Nat
  waitRd : Nat
  woken : Option Nat        -- the set taken by a waiting CE, until its first instruction issues
  takenSet : Option Nat     -- the set whose records are frozen in the snapshot bank (R201)
  wakeAt : Nat              -- the cycle in which the set taken wakes the CE, at the earliest
  wakeStamp : Nat           -- the close value or event tick of that set's completion
  wakeCyc : Nat
  wtime : Nat               -- TIMEBASE of the wake's close value or triggering tick
  dl : Word                 -- CEn_DLCFG as it was at the wake
  missed : Bool             -- the open update has missed its deadline
  begun : Bool              -- the CE has started since D6 came on or since RESTART
  withhold : Bool           -- WITHHOLD discards PWM stores (R205)
  lgLimit : Nat             -- ledger limit latched at the wake, watts; none is +infinity
  lgInf : Bool
  lgFactor : Nat            -- in 1/256
  lgLtd : Option (Nat × Nat) -- the entry was LIMITED in the latched ledger cycle: reason and limit (R257)
  lgPred : Word             -- last power written by CX.LGWR, binary32
  lgAt : Nat                -- the control cycle in which it was written
  lgOld : Word              -- the one written before it, and its cycle
  lgOldAt : Nat
  xw : List Word            -- exchange words XW0–XW15
  xwOld : List Word         -- their values before the last write
  xwVis : List Nat          -- the cycle from which the last write is visible
  slots : List CeSlot
  stored : Nat × List (Nat × Word) -- a control cycle, and the words its stores wrote in it with their values before (R26)
  fabric : Nat × List Nat   -- a control cycle, and the words that fabric writes reached in it
  posts : List (Nat × Nat × List Byte)   -- control-port stores that have retired: landing cycle, address, bytes (R197)
  deriving DecidableEq, Repr

def CeCore.idle : CeCore :=
  ⟨List.replicate 32 0, List.replicate 32 0, List.replicate 8 (List.replicate 6 0), List.replicate 4 (List.replicate 36 0),
   0, 0x1800, 0, 0, 0, 0, 0, 0, 0, 0, 0, List.replicate 4 ⟨0, false, 0⟩, 0, 0, none, none, 0, 0, 0, 0, 0x03200028, false, false, false, 0, true, 256, none, 0, 0, 0, 0,
   List.replicate 16 0, List.replicate 16 0, List.replicate 16 0, List.replicate 4 ⟨none, true, none, none⟩, (0, []), (0, []), []⟩

/-- What Fox and the comparators hold beside their registers (R181–R190). -/
structure Fox where
  comp : Nat                -- comparator sources 0x00–0x5F, after the output filter, one bit each
  pads : Nat                -- TRIP_IN0–TRIP_IN3 pad levels
  driven : Nat              -- TRIP_IN0–TRIP_IN3 pads that are driven; the pull holds the others inactive (R189)
  padAct : Nat              -- TRIP_IN0–TRIP_IN3 active, after the filter
  firstDue : Nat            -- comparators (bit 2m high, 2m + 1 low) whose first evaluation is pending
  dac : List (Nat × Nat × Nat × Nat) -- DACs whose output is settling (R183): DAC number, the lowest and the highest code it can
                            -- have moved from, and the instant by which it has settled
  cont : Nat                -- sampled monitors that evaluate continuously since they lost their strobe, one bit each (R185)
  onset : List (Nat × Nat)  -- the tick of each comparator's last counted onset
  scg : Nat                 -- SCGn_HI (bit 2n) and SCGn_LO (bit 2n + 1) lines (R143)
  hk : Nat                  -- comparators that a failed readback holds tripped while they are enabled (R192)
  deriving DecidableEq, Repr

/-- A window of a window unit, from its trigger to its result (R165–R172). Values are in ticks. -/
structure WuWin where
  openV : Nat
  closeV : Option Nat
  src : Word                -- the configuration registers the window started with (R170)
  opn : Word
  cls : Word
  pol : Word
  lim : Word
  count : Nat
  sum : Nat
  min : Nat
  max : Nat
  ovr : Bool
  limv : Bool
  part : Bool               -- PARTIAL
  tmo : Bool
  fin : Bool                -- finalised (close value + 16)
  deriving DecidableEq, Repr

/-- A window unit: the window that is ARMED or OPEN, the windows that have closed and wait for their results, and a pending
QUEUE1 trigger. -/
structure WuUnit where
  cur : Option WuWin
  closing : List WuWin
  pend : Option Nat
  deriving DecidableEq, Repr

/-- A converter-clock edge: its number since D7 came on, its instant, and the tick that tags its samples (R67, R155). -/
structure AdEdge where
  num : Nat
  at' : Nat
  tag : Nat
  deriving DecidableEq, Repr

/-- The receiver of a converter lane (R161) and the pending write of its sequence register (R156). -/
structure AdLane where
  slot : Nat                -- the slot expected next
  lost : Bool               -- words are discarded until the next WRAP
  next : Nat                -- the first edge whose word has not arrived
  seqAt : Option Nat        -- the instant at which a write of ADnn_SEQ that is not yet applied landed
  olds : List (Nat × Word)  -- codes that were in effect before, newest first: the edge from which they no longer are
  deriving DecidableEq, Repr

/-- A housekeeping path: the channel that its words belong to, counted since D7 came on, how many of its last 128 words it has
summed, their sum, and an OVR word. -/
structure HkSum where
  chan : Nat
  count : Nat
  sum : Nat
  ovr : Bool
  deriving DecidableEq, Repr

/-- The converter block beside its registers. -/
structure Conv where
  onAt : Nat                -- the instant at which D7 came on
  edges : List AdEdge       -- the last sixteen edges of the converter clock, newest first
  lanes : List AdLane
  wu : List WuUnit
  latches : List (Initiator × Nat × Word × Word × Word)  -- RES1–RES3 latched by an initiator's read of a unit's RES0 (R169)
  rq : List (List Byte)     -- the result queue, oldest record first, at most 64 (R173)
  caps : List (List Word)   -- the capture FIFOs, oldest word first, at most 64 each (R174)
  vdc : List (Nat × Nat × Nat × Bool)  -- DC-link intervals: index, sum, count, an OVR word (R163)
  hkA : HkSum               -- the housekeeping channel in progress on AD22 (R175)
  hkB : HkSum
  deriving DecidableEq, Repr

def Conv.idle : Conv :=
  ⟨0, [], List.replicate 24 ⟨0, false, 0, none, []⟩, List.replicate 64 ⟨none, [], none⟩, [], [], List.replicate 4 [], [], ⟨0, 0, 0, false⟩,
   ⟨0, 0, 0, false⟩⟩

/-- A channel of a BSPD input (R289). Times are in Badger ticks. -/
structure Bspd where
  pad : Bool
  accepted : Option Bool    -- none until the first 3 equal samples
  changeAt : Nat            -- when the pad last changed
  lastEdge : Option Nat     -- the last accepted rising edge
  period : Option Nat       -- ticks between the last two
  deriving DecidableEq, Repr

/-- A question-and-answer watchdog (R300, R301). -/
structure WdTask where
  qAt : Nat                 -- when the current question was issued
  answered : Bool
  last : Option (Nat × Nat) -- TB and landing tick of the last correct answer
  deriving DecidableEq, Repr

/-- Badger beside its registers (R278–R306). Times are in Badger ticks. -/
structure Badger where
  tick : Nat                -- Badger ticks since D2 came on
  onAt : Nat                -- the tick D2 came on
  clkTick : Nat             -- Badger tick at which the running clock-check interval began
  clkMarten : Nat           -- Marten cycle at which it began
  latchAt : Nat             -- last latch self-check
  pads : Nat                -- SIN pad levels, bit 2i SINiA, 2i + 1 SINiB
  padAt : List Nat          -- when each last changed
  disc : List (Option Nat)  -- when each discrepancy window opened
  bspd : List Bspd          -- BSPD0A, BSPD0B, BSPD1A, BSPD1B
  plaus : List (Option Nat) -- since when the two channels of each motor differ
  evalAt : Nat
  ss1At : Nat
  fd : List Nat             -- each motor's speed at SS1 entry, Hz
  excess : List Nat         -- consecutive evaluations above the envelope
  removedAt : List Nat      -- when each group's enable was removed
  wd : List WdTask
  firstAt : Nat             -- the tick in which HSM_CAUSE.FIRST was recorded
  deriving DecidableEq, Repr

def Badger.idle : Badger :=
  ⟨0, 0, 0, 0, 0, 0, List.replicate 8 0, List.replicate 4 none, List.replicate 4 ⟨false, none, 0, none, none⟩, [none, none], 0, 0, [0, 0],
   [0, 0], [0, 0, 0, 0], List.replicate 8 ⟨0, false, none⟩, 0⟩

/-- A gate channel beside its registers (R105–R141). Instants are control cycles. -/
structure GateCh where
  gin : Bool                -- level of pad GINnn after GINFLT
  pad : Bool                -- level of the pad itself
  padAt : Nat               -- instant of the pad's last change
  padNear : Bool            -- that change is a rise less than 1 ns apart from the partner's
  inp : Bool                -- command after the channel enable and the pulse filter
  refused : Bool            -- the interlock refuses the present on-command (R108)
  fallAt : Option Nat       -- instant at which inp last fell
  rise : Option (Nat × Bool)   -- an on-command that the 10 ns off-interval delays: when it is taken, and near (R107)
  eff : Bool                -- command after the interlock and Badger's forced states
  effAt : Nat               -- instant at which it last changed
  link : Bool               -- frames are lost, or have resumed with the command not yet off for 1 µs (R109)
  drv : Bool                -- the command as the driver receives it
  drvAt : Nat               -- instant at which it last changed
  gateAt : Nat              -- instant at which the output last changed
  phase : Nat               -- 0 hold, 1 pre-threshold, 2 plateau, 3 final, 4 the 10 ns of R112
  phaseAt : Nat             -- instant at which the phase began
  segs : Nat                -- active segments of GON or GOFF; 0 without bias (R111, R112)
  prof : Word               -- profile of the running edge
  shOn : List (Nat × Word × Bool)   -- writes of PROFILE_ON not yet in effect: landing instant, value, reload of the loop (R114, R120)
  shOff : List (Nat × Word × Bool)
  loopOn : Bool             -- the turn-on loop's count is in effect (R120)
  loopOff : Bool
  levOn : Bool              -- VON is stored (R115)
  levOff : Bool
  monOn : Option (Nat × Bool)  -- turn-on edge under measurement: plateau count − 1, and a forced state or fault seen (R117)
  monOff : Option (Nat × Bool)
  didt : Bool               -- di/dt detector armed (R131)
  dsat : Bool               -- DSAT released (R133)
  softAt : Nat              -- instant at which the last soft turn-off started
  refresh : Nat             -- 0 none; 1 guard, 2 low-side pulse, 3 second guard (R126)
  refAt : Nat               -- instant at which that step began
  refEnd : Bool             -- the high-side command has fallen during the refresh (R127)
  buvAt : Nat               -- instant of the last bootstrap undervoltage (R128)
  rails : Nat               -- BIAS as latched at the last switch-on of the bias group (R121)
  overAt : List Nat         -- instants of the rounds of the last 100 ms in which the regulator gave more than 2.0 W (R121)
  deriving DecidableEq, Repr

def GateCh.idle : GateCh :=
  { gin := false, pad := false, padAt := 0, padNear := false, inp := false, refused := false, fallAt := none, rise := none,
    eff := false, effAt := 0, link := false, drv := false, drvAt := 0, gateAt := 0, phase := 0, phaseAt := 0, segs := 0,
    prof := 0xA1405, shOn := [], shOff := [], loopOn := false, loopOff := false, levOn := false, levOff := false,
    monOn := none, monOff := none, didt := false, dsat := false, softAt := 0, refresh := 0, refAt := 0, refEnd := false,
    buvAt := 0, rails := 0, overAt := [] }

/-- A reaction group beside its registers (R142–R146). -/
structure Scg where
  target : Nat              -- 0 idle, 1 ASC high, 2 ASC low, 3 all-off
  chan : Nat                -- the channel whose fault set the ASC target in force
  dlyAt : Nat               -- instant at which both lines were asserted
  stamp : Nat               -- TIMEBASE at the last change of state that a fault caused
  place : Nat               -- the place of its record (R68, R146)
  wasIdle : Bool            -- that change left idle
  deriving DecidableEq, Repr

def Scg.idle : Scg := ⟨0, 0, 0, 0, 0, false⟩

/-! ### KP: sessions, queues and requests (R351–R371) -/

/-- A request that a reply can still answer: its session as it was bound at OPEN, and its sequence number. Transports are
0 ETH0, 1 ETH1, 2 T1S0 (UDP), 3–6 CAN0–CAN3 (FD), 7–10 CAN0–CAN3 (XL) and 11 HSPI. -/
structure Tok where
  handle : Nat              -- context index × 256 + generation
  tport : Nat
  peer : Nat
  ks : Option (List Byte)   -- the session key of an authenticated session
  seq : Nat
  op : Nat
  cls : Nat
  left : Nat                -- the tick in which it left its queue
  deriving DecidableEq, Repr

/-- A request in a class queue. -/
structure KReq where
  tok : Tok
  arrival : Nat             -- ticks
  deadline : Option Nat
  pay : List Byte
  deriving DecidableEq, Repr

/-- A subscription of a session (R379). -/
structure Sub where
  op : Nat
  mask : Nat
  period : Nat              -- ms; 0 for a change-driven subscription
  last : Option Nat         -- tick of the last notification
  dirty : Bool              -- a change has not been notified yet
  deriving DecidableEq, Repr

/-- A session context that has been used since the last cold start. -/
structure Ctx where
  gen : Nat
  isOpen : Bool             -- false once closed
  gone : Bool               -- its lease has expired
  tport : Nat
  peer : Nat
  slot : Nat                -- 0xF without a key
  ks : Option (List Byte)
  classes : Nat             -- bit k grants Ck
  lease : Nat               -- ms
  expiry : Nat              -- tick
  h : Nat                   -- highest accepted sequence
  seen : List (Nat × Nat)   -- seen sequences and their recorded statuses
  ntf : Nat                 -- the next notification's SEQ
  restored : Bool           -- the next message carries RESTORED
  subs : List Sub
  deriving DecidableEq, Repr

/-- A message in reassembly (R354). -/
structure Reasm where
  ctx : Nat
  hdr : List Byte           -- the header of its first frame
  parts : List (Nat × List Byte × Bool)  -- offset, data and MORE of each frame held
  began : Nat
  deriving DecidableEq, Repr

/-- A C1 setpoint in a mailbox half that the CE has not taken yet (R365). -/
structure C1Set where
  ce : Nat
  slot : Nat
  half : Nat
  inst : Nat
  tok : Tok
  deadline : Option Nat
  drop : Option (Nat × Nat)  -- withdrawn in a control cycle, and the status that answers it unless that cycle takes it (R207)
  deriving DecidableEq, Repr

/-- A request in a customer mailbox (R370). -/
structure MbxReq where
  mbx : Nat
  slot : Nat
  tok : Tok
  since : Nat               -- tick
  deriving DecidableEq, Repr

/-- A capture of CAPTURE_START (R392). -/
structure CapReq where
  unit : Nat
  tok : Tok
  ran : Bool                -- the unit has been started for it
  stored : Nat              -- words drained into the buffer
  fin : Bool
  deriving DecidableEq, Repr

/-- The open firmware update (R398, R399). -/
structure FwUpd where
  handle : Nat
  len : Nat
  blocks : List Nat         -- 64-byte blocks written
  verify : Option Tok       -- the FW_END that waits for the verification
  deriving DecidableEq, Repr

/-- A frame that KP has handed to a transport. -/
structure OutFrame where
  tport : Nat
  peer : Nat
  bytes : List Byte
  deriving DecidableEq, Repr

structure Kcp where
  ctxs : List (Nat × Ctx)   -- contexts used since the cold start, by index
  queues : List (List KReq) -- C2–C5, oldest first
  reasm : List Reasm        -- at most 16
  nhs : List (Nat × List Byte)           -- accepted host nonces with their slot, newest first (R357)
  keys : List (Nat × List Byte × Nat)    -- slot keys and class masks (protected key region)
  svc : List (Nat × Nat)    -- service times in ticks, newest first, by class 2–5, or 16 + mailbox (R367)
  untag : List (Nat × Nat)  -- transport and tick of the untagged answers sent (R361)
  out : List OutFrame       -- frames handed to the transports, oldest first
  hspi : List (List Byte)   -- frames waiting on HSPI, oldest first (R355)
  hspiRx : List (List Byte) -- frames received on HSPI that KP has not taken yet
  hspiOvf : Bool
  hspiCrc : Bool
  c1 : List C1Set
  c1seq : List (Nat × Nat × Nat)         -- handle, CE × 4 + slot, newest SEQ placed
  mbx : List MbxReq
  caps : List CapReq
  fw : Option FwUpd
  cfg : List (Nat × Nat)    -- configuration parameters that differ from their defaults (R386)
  pol : Nat × Nat × Nat     -- recorded MDM_PLUGPOL, MDM_PAIRDENY and MDM_PLUG (R387)
  deriving DecidableEq, Repr

def Kcp.idle : Kcp := ⟨[], [[], [], [], []], [], [], [], [], [], [], [], [], false, false, [], [], [], [], none, [], (0, 0, 0x1400)⟩

/-- A step of an off-state diagnostic run (R151). -/
inductive OsdStep where
  | shlo (k : Nat)
  | shhi (k : Nat)
  | opn (k p : Nat)         -- p: the partner leg
  deriving DecidableEq, Repr

/-- The off-state diagnostics beside their registers (R148–R151). -/
structure Osd where
  wait : Bool               -- waiting for the bias groups switched on for the run (R149)
  steps : List OsdStep      -- the step in progress and those after it
  since : Nat               -- instant at which the wait, or the part of the step in progress, began
  part : Nat                -- part of the step: 0 settling, 1 averaging, 2 currents off
  doms : List Nat           -- domains switched on for the run
  req : Option Tok          -- the OSD_START request that waits for the end of the run
  deriving DecidableEq, Repr

def Osd.idle : Osd := ⟨false, [], 0, 0, [], none⟩

/-! ### The mode manager and the actuators (R35–R60, R270–R276) -/

/-- A pending mode request (R38): why it waits is 0 for ramps, 1 for a stage report, 2 for a park-lock sequence and 3 for the
stop's completion. -/
structure PendReq where
  inst : Nat
  toks : List Tok
  why : Nat
  since : Nat               -- instant of the decision
  deriving DecidableEq, Repr

structure Modes where
  owner : List (Option Nat) -- the owning session's handle of instances 0–11
  ramp : Nat                -- instances whose ramp of R43 runs, one bit each
  rampAt : List Nat         -- instant at which the last ramp of instances 0–11 began
  pend : List PendReq
  fed : List Nat            -- instant of the last setpoint that the CE read, by instance
  dcdLow : Option Nat       -- since when the HV bus is below DCD_VMIN
  dwell : Nat               -- since when PRK is the only active instance
  blocked : Bool            -- SST has been entered and Badger has not permitted restart
  exitAct : List Tok        -- MODE_EXIT requests of ACT that wait for its sequences (R381)
  lock : Bool               -- the park lock is engaged
  unlocked : Bool           -- the park lock is reported released
  sst : Nat                 -- instances executing their SST action, one bit each (R54)
  brake : Nat               -- motors whose stage brakes in SST, one bit each (R54)
  actBad : Bool             -- a sequence has ended in an actuator fault while another ran (R274)
  dcdHeld : Bool            -- the DC-DC stage is held at RUN = 0 (R268, R269)
  dcdSoft : Option Nat      -- instant of its last soft start (R268)
  dcdI : Int                -- its filtered output current, 0.1 A (R265)
  deriving DecidableEq, Repr

def Modes.idle : Modes := ⟨List.replicate 12 none, 0, List.replicate 12 0, [], List.replicate 12 0, none, 0, false, [], false, false, 0, 0, false, false, none, 0⟩

/-- An actuator's running or last sequence beside its status register. -/
structure ActSeq where
  handle : Nat              -- the session that started it, 0 for the mode manager
  began : Nat               -- instant of its acceptance
  phaseAt : Nat             -- instant at which its phase began
  stallAt : Nat             -- instant at which the count last changed
  stallCnt : Int            -- the count then
  trips : List Bool         -- a trip state active in each of the last periods, newest first (R274)
  perAt : Option Nat        -- the zero boundary that ended the last of them
  ilim : Nat                -- phase current limit in force, mA (R273, R274, R276)
  deriving DecidableEq, Repr

def ActSeq.idle : ActSeq := ⟨0, 0, 0, 0, 0, [], none, 0⟩

/-! ### Position channels (R215–R237) -/

/-- A position channel beside its registers. Pads are bits 0 A, 1 B, 2 Z; instants are control cycles. -/
structure PosCh where
  sync : Nat                -- synchronised levels
  acc : Nat                 -- accepted levels
  la : Option Nat           -- the last accepted transition
  run : Bool                -- the last decoded edge can open a speed interval
  le : Nat                  -- the last decoded edge
  step : Option (Nat × Int) -- the last counted edge: its cycle and step
  lim : Nat                 -- LIMIT_HI and LIMIT_LO as that edge found them
  cmpDue : Option (Int × Int)  -- counts before and after an edge of this cycle whose compares the cycle's end evaluates (R225)
  stAt : Option Nat         -- since when the standstill time runs
  pulse : Option Nat        -- the cycle in which the PCMP pulse ends
  prev : Option (Nat × Nat) -- position and stamp of the previous valid frame since enable
  good : Nat                -- consecutive valid frames, at most 2
  frAt : Option Nat         -- since when the frame timeout runs
  deriving DecidableEq, Repr

def PosCh.idle : PosCh := ⟨0, 0, none, false, 0, none, 0, none, none, none, none, 0, none⟩

/-- An SSI master: the frame in progress and the end of the last one. -/
structure SsiRx where
  began : Option Nat
  ended : Option Nat
  deriving DecidableEq, Repr

/-- A resolver channel: the samples of the period in progress, newest first, and the periods since enable. -/
structure ResCh where
  s : List Nat
  c : List Nat
  ovr : Bool
  periods : Nat
  deriving DecidableEq, Repr

def ResCh.idle : ResCh := ⟨[], [], false, 0⟩

/-- The position logic. -/
structure PosBlk where
  ch : List PosCh
  cal : List (Option Nat)   -- the last calibration pulse of SENT0–SENT3, control cycles
  ssi : List SsiRx
  res : List ResCh
  deriving DecidableEq, Repr

def PosBlk.idle : PosBlk :=
  ⟨List.replicate 8 PosCh.idle, List.replicate 4 none, List.replicate 2 ⟨none, none⟩, List.replicate 2 ResCh.idle⟩

/-! ### The power ledger (R252–R261) -/

/-- What a ledger cycle has computed for an entry: register words, LGEn_STAT without HOLD. -/
structure LgRes where
  pred : Word
  heat : Word
  grant : Word
  stat : Nat
  deriving DecidableEq, Repr

/-- The halved carrier of a CE whose stage has channels in a bias group at its limit (R258). -/
structure Limp where
  ce : Nat
  prds : List (Nat × Nat)   -- its modules, each with its PRD before
  seen : Nat                -- instant at which BIAS was last set
  deriving DecidableEq, Repr

structure Ledger where
  ranAt : Option Nat        -- tick of the last ledger cycle
  slow : Bool               -- that cycle does not finish before the next is due (R252)
  due : Option (Nat × List LgRes)  -- the control cycle in which the unpublished ledger cycle started, and its results
  batAt : Option Nat        -- control cycle of the last write of LGC_BATLIM that still counts
  bias : Nat                -- bias groups that HK reports at their limit, one bit each (R124)
  input : Bool              -- the BCH stage reports INPUT (R246)
  steerAt : Nat             -- control cycle of the last steering computation
  phi : List Nat            -- steering offsets in force, 1/64 of the base period
  limp : List Limp          -- CEs that run at half their carrier (R258)
  deriving DecidableEq, Repr

def Ledger.idle : Ledger := ⟨none, false, none, none, 0, false, 0, List.replicate 8 0, []⟩

/-! ### The safety cores (R308–R326, R337–R340) -/

/-- What the device leaves to an SC thread: the value of its last load, its stack pointer, and the trap it last took. -/
structure ScThr where
  loaded : Word
  sp : Word
  mepc : Word
  mcause : Word
  mtval : Word
  halted : Bool             -- a debugger holds the thread (R474)
  deriving DecidableEq, Repr

def ScThr.idle : ScThr := ⟨0, 0, 0, 0, 0, false⟩

/-- A Paired or Voted core beside its registers. Copies are 0 A, 1 B and 2 C. -/
structure ScCore where
  order : List Nat          -- running copies, the leading one first
  odd : Option Nat          -- the copy in resynchronisation
  since : Nat               -- instant of its failure
  hist : List (Nat × Nat)   -- odd events since the start, newest first: copy, TIMEBASE
  resv : Option Nat         -- the reservation of the core's last LR: its 8-byte block
  halted : Bool             -- a debugger holds every copy (R474)
  acc : List (Irq × Nat)    -- interrupts accepted by the leading copy, with its retired-instruction count, not yet final (R317)
  deriving DecidableEq, Repr

def ScCore.idle : ScCore := ⟨[], none, 0, [], none, false, []⟩

/-! ### DMA (R342–R349) -/

/-- A DMA channel beside its registers. -/
structure DmaCh where
  left : Nat                -- blocks of its burst still to move
  owed : Bool               -- an event has requested a burst that has not begun
  abort : Bool              -- ABORT waits for the next block boundary
  deriving DecidableEq, Repr

structure Dma where
  ch : List DmaCh
  cur : Option Nat          -- the channel whose block the engine moves
  deriving DecidableEq, Repr

def Dma.idle : Dma := ⟨List.replicate 32 ⟨0, false, false⟩, none⟩

/-! ### CAN and Ethernet (R401–R420) -/

/-- A CAN controller beside its registers and its area of the message RAM. -/
structure Can where
  live : Nat                -- 0 in INIT, 1 integrating, 2 on the bus
  mode : Nat                -- OPMODE in effect
  stopAt : Bool             -- INIT = 1 waits for the end of the frame in progress
  order : List Nat          -- pending buffers in the order of their requests
  late : Nat                -- pending buffers with a late cancel, one bit each
  att : Option Nat          -- the buffer whose start of frame has been sent; 28 is the time master's
  tec : Nat
  recv : Nat
  rxw : Nat                 -- words read of the element at RXDMA
  txb : Option (Nat × Nat)  -- the buffer that TXDMA fills, and the words written
  deriving DecidableEq, Repr

def Can.idle : Can := ⟨0, 0, false, [], 0, none, 0, 0, 0, none⟩

/-- The CAN time master (R415). -/
structure CanTm where
  due : Option Bool         -- the message due: false the reference, true the follow-up
  ran : Bool                -- a reference has been requested since it was enabled
  cycleAt : Nat             -- number of the basic cycle of the last instant
  ref : Nat                 -- vehicle time of the reference's start of frame
  sent : List (Nat × CanFrame)  -- frames that the controllers have sent, oldest first: controller and frame
  deriving DecidableEq, Repr

/-- A frame handed to a port: 0 ETH0, 1 ETH1, 3 T1S0, with its egress queue. -/
structure EthOut where
  port : Nat
  queue : Nat
  bytes : List Byte
  deriving DecidableEq, Repr

/-- The switch, the device interface, T1S0 and gPTP beside their registers. Frames are without FCS. -/
structure Eth where
  table : List (Nat × Nat × Nat)  -- learned addresses: MAC, port, instant
  rxq : List Byte           -- application receive FIFO, oldest byte first
  rxr : List Nat            -- bytes that its records still hold, oldest first
  txq : List Byte           -- application transmit FIFO
  t1s : List (List Byte)    -- frames waiting for a transmit opportunity, oldest first
  out : List EthOut         -- frames handed to the ports, oldest first
  offs : List Int           -- TB_OFFSET at the last synchronisation intervals, newest first, at most 9
  sync : Option (Nat × Nat × Nat) -- the Sync that waits for its Follow_Up: port, receive stamp and transmit stamp as relayed, ns
  gptp : List (Nat × GptpMsg) -- gPTP messages sent, oldest first: port and message
  trimAt : Nat              -- instant of the last change of the trim
  beacons : Nat             -- PLCA beacons sent as coordinator
  deriving DecidableEq, Repr

def Eth.idle : Eth := ⟨[], [], [], [], [], [], [], none, [], 0, 0⟩

/-! ### Housekeeping (R175–R177, R477–R485) -/

/-- HK's housekeeping round. -/
structure Hk where
  chan : Nat                -- housekeeping channels that have ended since D7 came on
  mism : Nat                -- channels with a mismatch in this round, one bit each
  ovr : Nat                 -- channels with an OVR word in this round
  thw : Nat                 -- threshold DACs written since the channel in progress began
  stopped : Bool            -- the housekeeping round has stopped in this round with D7 off
  ended : Bool              -- the last channel has ended, HK has not yet taken the round
  roundAt : Nat             -- control cycle of the last round end
  shut : Option Nat         -- the round of the last thermal shutdown declaration
  since : Nat               -- rounds ended since the last change of the throttle step
  deriving DecidableEq, Repr

def Hk.idle : Hk := ⟨0, 0, 0, 0, false, false, 0, none, 0⟩

/-! ### The safety layer (R421–R436) -/

/-- What an open call answers; full: the core holds 32 connections. -/
inductive AslResult where
  | ok
  | notSafeCore
  | badDesc
  | dupIdent
  | full
  deriving DecidableEq, Repr

/-- An open ASL connection. Times are in ticks; state and cause in the codes of R428. -/
structure AslConn where
  core : Nat
  desc : BitVec 256
  blk : Nat                 -- address of the status block
  state : Nat
  cause : Nat
  lastSeq : Nat
  crcErr : Nat
  seqErr : Nat
  lost : Nat
  fmtErr : Nat
  tstamp : Nat
  timer : Option Nat        -- RX: the last timer restart; TX: the last send
  errs : List Nat           -- the passes in which CRCERR, SEQERR or FMTERR has grown, newest first
  init : Bool               -- TX: the next PDU is the first
  seq : Nat                 -- TX: SEQ of the next PDU
  data : List Byte          -- the data delivered or placed last
  dataAt : Nat              -- the pass of its delivery
  stop : Bool               -- STOP and STO of the last accepted PDU, or as placed
  sto : Bool
  buf : Option Nat          -- the CAN transmit buffer of the last PDU
  deriving DecidableEq, Repr

structure Asl where
  conns : List AslConn
  results : List AslResult  -- of the last open call on each core
  sent : List (Word × List Byte)  -- PDUs sent, oldest first, with their IDENT
  passAt : List (Option Nat)  -- instant of the last service pass of each core
  deriving DecidableEq, Repr

def Asl.idle : Asl := ⟨[], List.replicate 4 .ok, [], List.replicate 4 none⟩

/-! ### Supplies and the start (R438–R476) -/

structure Supply where
  swo : Bool                -- a switch-over has begun and is not complete
  swoAt : Nat               -- instant at which it began
  retAt : Nat               -- instant since which VMAIN is usable
  collapse : Bool           -- supply collapse declared (R444)
  collAt : Nat              -- instant of the declaration
  bkAt : Nat                -- instant at which the flyback entered START
  latch : Bool              -- thermal shutdown latch (R485)
  shutAt : Option Nat       -- instant of a declaration whose switch-off is still to come (R484)
  standby : Bool
  sbAt : Nat                -- Marten cycle of standby entry
  sbPlug : Bool             -- PLUG_DET at standby entry
  plug : Bool               -- level of pad PLUG_DET
  plugAt : Nat              -- Marten cycle in which it last changed
  plugged : Bool            -- the debounced plug state, which Marten keeps (R46)
  plugCnt : Nat             -- its changes since the last cold start (R48)
  deriving DecidableEq, Repr

/-- An image bank (R328, R467). -/
structure Bank where
  verified : Bool
  version : Nat
  epoch : Nat
  prod : Bool
  deriving DecidableEq, Repr

structure Start where
  trig : Option Nat         -- a start is due: 0 cold, 1 warm
  running : Bool
  kind : Nat                -- 0 cold, 1 warm, 2 hold configuration
  step : Nat                -- the last step made
  begun : Nat               -- Marten cycle of its beginning
  retryAt : Option Nat      -- instant of the failure that a retry follows
  kp : Bool                 -- KP and HK firmware run
  sc : Bool                 -- the SC cores are released
  winAt : Nat               -- Marten cycle in which WINDOW last restarted
  retained : Bool           -- the SRAM retention section has kept its power since the last completed start
  sealed : Bool             -- the hold configuration came from a seal failure
  banks : List Bank
  selected : Nat            -- the bank that the bank pointers select
  bank : Nat                -- the running bank
  entries : List (Nat × Word)  -- the core-entry table of the boot record: registers and the values latched into them
  floor : Nat               -- OTP epoch floor
  lcs : Nat                 -- lifecycle code in OTP (R473)
  faultIdx : Nat            -- fault-log index stored in the calibration region (R472)
  faultAt : Nat             -- the fault log's next index
  faultBuf : List Byte      -- a record that waits for the second of its block write (R330)
  evlIdx : Nat              -- EVL_STATUS.WRIDX in the retained log pointers (R472)
  evlCnt : Nat              -- records from the oldest to the newest of the event log
  faultCnt : Nat            -- the same of the fault log
  deriving DecidableEq, Repr

def Start.idle : Start :=
  ⟨some 0, false, 0, 0, 0, none, false, false, 0, false, false, [⟨true, 0, 0, false⟩, ⟨false, 0, 0, false⟩], 0, 0, [], 0, 2, 0, 0, [], 0, 0, 0⟩

/-- Time. An instant is 2.5 ns, one cycle of the control clock where it runs; instants pass whether or not it runs. -/
structure Clocks where
  now : Nat                 -- instants since reset
  badgerAt : Nat            -- the instant of Badger's last tick
  martenAt : Nat            -- the instant of Marten's last cycle
  pllbAt : Nat              -- the instant at which PLL-B last lost lock
  scrubAt : Nat             -- the instant of the SRAM scrubber's last block (R334)
  was : List (Nat × Word)   -- the registers as they stood when the present instant began (R16)
  deriving DecidableEq, Repr

/-- The reasons a step can stop the machine. -/
inductive Fault where
  /-- Raised by no meaning of this model: no rule of the spec stops the device as a whole. Safe. -/
  | stopped
  deriving DecidableEq, Repr

/-- The reasons a command has no meaning here. -/
inductive Refusal where
  /-- Raised by an arm of exec whose command is not modelled yet. Safe. -/
  | notModelled (mnemonic : String)
  deriving DecidableEq, Repr

structure State where
  pending : List Instr
  order : OrderCode
  regs : List (Nat × Word)
  mem : List Host.Cell
  fresh : Nat
  clk : Clocks
  cyc : Nat
  evl : EvLog
  irqs : List Irq
  pwm : List PwmMod
  on : BitVec 14            -- the power domains D0–D13 that are on
  pllA : Bool               -- PLL-A is locked, so the fabric, the SC cores, KP, SE, DMA and CAN run (R61, R450)
  pllB : Bool               -- PLL-B is locked, so the control clock, the tick and TIMEBASE run (R63)
  busErr : List (Initiator × Nat × Nat) -- bus errors not yet returned to their initiators, oldest first: address and TYPE of R336
  mramW : List (Nat × List Byte) -- MRAM block writes in progress, oldest first: block address and its 64 bytes (R329)
  tbLatch : List (Initiator × Word) -- each initiator's latch of TB_HI (R72)
  ce : List CeCore
  fox : Fox
  conv : Conv
  badger : Badger
  marten : Nat              -- Marten cycles since D0 came on
  gates : List GateCh
  scg : List Scg
  osd : Osd
  kcp : Kcp
  modes : Modes
  act : List ActSeq
  pos : PosBlk
  ledger : Ledger
  hk : Hk
  sc : List ScThr
  scc : List ScCore
  dma : Dma
  can : List Can
  canTm : CanTm
  eth : Eth
  asl : Asl
  sup : Supply
  start : Start
  deriving DecidableEq, Repr

def State.reset : State where
  pending := []
  order := .da
  regs := []
  mem := []
  fresh := 0
  clk := ⟨0, 0, 0, 0, 0, []⟩
  cyc := 0
  evl := ⟨[], 0, false, false, none, 0, none⟩
  irqs := []
  pwm := List.replicate 32 PwmMod.idle
  on := 1
  pllA := false
  pllB := false
  busErr := []
  mramW := []
  tbLatch := []
  ce := List.replicate 8 CeCore.idle
  fox := ⟨0, 0, 0, 0, 0, [], 0, [], 0, 0⟩
  conv := Conv.idle
  badger := Badger.idle
  marten := 0
  gates := List.replicate 64 GateCh.idle
  scg := List.replicate 8 Scg.idle
  osd := Osd.idle
  kcp := Kcp.idle
  modes := Modes.idle
  act := List.replicate 3 ActSeq.idle
  pos := PosBlk.idle
  ledger := Ledger.idle
  hk := Hk.idle
  sc := List.replicate 12 ScThr.idle
  scc := List.replicate 4 ScCore.idle
  dma := Dma.idle
  can := List.replicate 4 Can.idle
  canTm := ⟨none, false, 0, 0, []⟩
  eth := Eth.idle
  asl := Asl.idle
  sup := ⟨false, 0, 0, false, 0, 0, false, none, false, 0, false, false, 0, false, 0⟩
  start := Start.idle

end Sys2Proof.Machine
end

