-- ==== Sys2Proof/Machine/Ops.lean ====
section
/-! DEFINITION. The operations every meaning shares: reading and writing registers and memory, power and bus access, free
values, interrupts, the event log's queue, and the trigger sets of the control engines. -/

namespace Sys2Proof.Machine

abbrev Res := Host.Outcome State Fault Refusal

/-! ### Fields -/

def State.setClk (s : State) (x : Clocks) : State := { s with clk := x }
/-- What the clocks hold changes, but the instant and what its writes find stay. -/
def State.noteClk (s : State) (x : Clocks) : State := s.setClk { x with now := s.clk.now, was := s.clk.was }
def State.setFresh (s : State) (x : Nat) : State := { s with fresh := x }
def State.setCyc (s : State) (x : Nat) : State := { s with cyc := x }
def State.setEvl (s : State) (x : EvLog) : State := { s with evl := x }
def State.setIrqs (s : State) (x : List Irq) : State := { s with irqs := x }
def State.setOn (s : State) (x : BitVec 14) : State := { s with on := x }
def State.setBusErr (s : State) (x : List (Initiator × Nat × Nat)) : State := { s with busErr := x }
def State.setMramW (s : State) (x : List (Nat × List Byte)) : State := { s with mramW := x }
def State.setTbLatch (s : State) (x : List (Initiator × Word)) : State := { s with tbLatch := x }
def State.setFox (s : State) (x : Fox) : State := { s with fox := x }
def State.setMarten (s : State) (x : Nat) : State := { s with marten := x }
def State.setOsd (s : State) (x : Osd) : State := { s with osd := x }
def State.setPosBlk (s : State) (x : PosBlk) : State := { s with pos := x }
def State.setLedger (s : State) (x : Ledger) : State := { s with ledger := x }
def State.setHk (s : State) (x : Hk) : State := { s with hk := x }
def State.setDma (s : State) (x : Dma) : State := { s with dma := x }
def State.setCanTm (s : State) (x : CanTm) : State := { s with canTm := x }
def State.setEth (s : State) (x : Eth) : State := { s with eth := x }
def State.setAsl (s : State) (x : Asl) : State := { s with asl := x }
def State.setSup (s : State) (x : Supply) : State := { s with sup := x }
def State.setStart (s : State) (x : Start) : State := { s with start := x }
def State.setModes (s : State) (x : Modes) : State := { s with modes := x }
def State.setKcp (s : State) (x : Kcp) : State := { s with kcp := x }
def State.setConv (s : State) (x : Conv) : State := { s with conv := x }
def State.setBadger (s : State) (x : Badger) : State := { s with badger := x }
def State.setScThreads (s : State) (x : List ScThr) : State := { s with sc := x }
def State.setScCores (s : State) (x : List ScCore) : State := { s with scc := x }
def State.setPwms (s : State) (x : List PwmMod) : State := { s with pwm := x }
def State.setCes (s : State) (x : List CeCore) : State := { s with ce := x }
def State.setGates (s : State) (x : List GateCh) : State := { s with gates := x }
def State.setScgs (s : State) (x : List Scg) : State := { s with scg := x }
def State.setActs (s : State) (x : List ActSeq) : State := { s with act := x }
def State.setCans (s : State) (x : List Can) : State := { s with can := x }
def State.setPllA (s : State) (x : Bool) : State := { s with pllA := x }
def State.setPllB (s : State) (x : Bool) : State := { s with pllB := x }

/-! ### Registers -/

/-- A register's value: what the state lists for its address, and its reset value where it lists nothing. -/
def State.rd (s : State) (r : Reg) : Word := (lookupKey r.addr s.regs).getD (BitVec.ofNat 32 r.rst)

/-- What a register held when the present instant began. -/
def State.rdWas (s : State) (r : Reg) : Word := (lookupKey r.addr s.clk.was).getD (BitVec.ofNat 32 r.rst)

def State.wr (s : State) (r : Reg) (v : Word) : State := { s with regs := insertKey r.addr v s.regs }

/-- A field's value. -/
def State.get (s : State) (f : Fld) : Nat := bitsOf f.hi f.lo (s.rd f.reg).toNat

def State.put (s : State) (f : Fld) (v : Nat) : State :=
  s.wr f.reg (BitVec.ofNat 32 (putBits f.hi f.lo (s.rd f.reg).toNat v))

/-- A one-bit field is 1. -/
def State.is (s : State) (f : Fld) : Bool := s.get f != 0

def State.putB (s : State) (f : Fld) (b : Bool) : State := s.put f (b2n b)

/-- Bit i of a field. -/
def State.bit (s : State) (f : Fld) (i : Nat) : Bool := bitOf i (s.get f)

def State.putFldBit (s : State) (f : Fld) (i : Nat) (b : Bool) : State := s.put f (putBit i (s.get f) b)

/-- A count that saturates at its largest value. -/
def State.inc (s : State) (f : Fld) : State :=
  if s.get f + 1 < f.size then s.put f (s.get f + 1) else s

def State.incBy (s : State) (f : Fld) (n : Nat) : State := s.put f (min (s.get f + n) (f.size - 1))

/-- A count that wraps. -/
def State.wrapInc (s : State) (f : Fld) : State := s.put f (s.get f + 1)

/-! ### Memory -/

/-- A byte of memory; one that nothing has written reads 0 (DESIGN CHOICE, log entry 2). -/
def State.rdByte (s : State) (a : Nat) : Byte := (lookupKey a s.mem).getD 0

def memPut (a : Nat) (v : Byte) (m : List Host.Cell) : List Host.Cell :=
  if v == 0 then eraseKey a m else insertKey a v m

def State.wrByte (s : State) (a : Nat) (v : Byte) : State := { s with mem := memPut a v s.mem }

def State.rdBytes (s : State) (a : Nat) : Nat → List Byte
  | 0 => []
  | n + 1 => s.rdByte a :: s.rdBytes (a + 1) n

def State.wrBytes (s : State) (a : Nat) : List Byte → State
  | [] => s
  | b :: t => (s.wrByte a b).wrBytes (a + 1) t

def State.rdMem32 (s : State) (a : Nat) : Word := BitVec.ofNat 32 (leNat (s.rdBytes a 4))

def State.wrMem32 (s : State) (a : Nat) (v : Word) : State := s.wrBytes a (leBytes 4 v.toNat)

/-- The canonical form of memory: addresses strictly rising and no byte 0 listed. -/
def Memory.wf (m : List Host.Cell) : Bool := keysRiseFrom none m && m.all (fun c => c.2 != 0)

/-! ### Free values -/

/-- A value the spec leaves open, and the state that has used it up. -/
def State.freeNat (s : State) : Nat := (Config.freeWord s.fresh).toNat

def State.freeBool (s : State) : Bool := Config.freeBool s.fresh

def State.useFree (s : State) : State := s.setFresh (s.fresh + 1)

/-! ### Power and time -/

/-- Domain Dd is on. -/
def State.isOn (s : State) (d : Nat) : Bool := s.on.getLsbD d

/-- The control clock runs: D6 is on and PLL-B is locked (R63). -/
def State.ticking (s : State) : Bool := s.isOn 6 && s.pllB

/-- The event tick: a quarter of the control clock (R61, R62). -/
def State.tick (s : State) : Nat := s.cyc / 4

/-- The present instant, in 2.5 ns since reset. -/
def State.now (s : State) : Nat := s.clk.now

/-- n milliseconds have passed since an instant (log entry 7). -/
def State.elapsedMs (s : State) (since n : Nat) : Bool := decide (since + 400000 * n ≤ s.now)

/-- TIMEBASE: 10 per tick since D6 was switched on, 64 bits (R71). -/
def State.timebase (s : State) : Nat := s.tick * 10 % 2 ^ 64

/-! ### Interrupts -/

def State.irq (s : State) (t : IrqTo) (src ev : Nat) : State := s.setIrqs (s.irqs ++ [⟨t, src, ev, s.now - s.cyc % 4⟩])

def State.irqIf (s : State) (c : Bool) (t : IrqTo) (src ev : Nat) : State := if c then s.irq t src ev else s

/-! ### The event log's queue (R74, R75) -/

/-- The highest-numbered level in the queue. -/
def evMaxLevel (q : List EvEntry) : Nat := q.foldl (fun m e => max m e.level) 0

/-- The queue without its newest event of a level. -/
def evDropNewest (l : Nat) : List EvEntry → List EvEntry
  | [] => []
  | e :: t => if t.any (fun x => x.level == l) then e :: evDropNewest l t else if e.level == l then t else e :: evDropNewest l t

/-- An event enters the writer queue; a full queue of 64 discards the newest event of its highest-numbered level, or the new
event where no queued one has a higher level number (R75). -/
def State.evPush (s : State) (e : EvEntry) : State :=
  if s.evl.queue.length < 64 then s.setEvl { s.evl with queue := s.evl.queue ++ [e] }
  else
    let m := evMaxLevel s.evl.queue
    let q := if e.level < m then evDropNewest m s.evl.queue ++ [e] else s.evl.queue
    (s.setEvl { s.evl with queue := q, ovfl := true }).inc EVL_STATUS_LOST

/-- Levels 1–6 are always logged, levels 7–10 by their bit in EVL_CTRL.LVL_EN (R74). -/
def State.logged (s : State) (level : Nat) : Bool := level ≤ 6 || s.bit EVL_CTRL_LVL_EN (level - 7)

/-- The place of a source among the events of its tick (R68): level, then index, then, of one channel, di/dt before
desaturation and, of one monitor, the high comparator before the low. Places are even: the record of a reaction group's change
follows its fault's at the odd place after it (R146). -/
def evPlace (level index typ : Nat) : Nat :=
  (level * 4096 + index) * 8 + (if level == 3 then (if typ == 0x10 then 0 else if typ == 0x11 then 2 else 4)
    else if level == 4 || level == 6 then 2 * (typ % 4) else 0)

/-- A soft turn-off and a shadow load of one tick on one PWM module: the load's record is marked as not applied (R69). -/
def evLoses (short load : EvEntry) : Bool :=
  short.level == 3 && decide (short.typ ≤ 0x11) && load.level == 7 && short.stamp == load.stamp && short.index / 2 == load.index

/-- Log an event; while the tick is stopped nothing is logged (R63). -/
def State.log (s : State) (level index typ : Nat) (data : List Byte := []) (fox : Bool := false)
    (place : Nat := evPlace level index typ) : State :=
  if s.ticking && s.logged level then
    let e : EvEntry := ⟨s.timebase, level, index, typ, place, fox, false, data⟩
    let q := s.evl.queue.map (fun f => if evLoses e f then { f with notApplied := true } else f)
    (s.setEvl { s.evl with queue := q }).evPush { e with notApplied := q.any (fun f => evLoses f e) }
  else s

/-! ### Element updates -/

def State.pwmOf (s : State) (k : Nat) : PwmMod := nth s.pwm k PwmMod.idle
def State.setPwm (s : State) (k : Nat) (p : PwmMod) : State := s.setPwms (s.pwm.set k p)
def State.ceOf (s : State) (n : Nat) : CeCore := nth s.ce n CeCore.idle
def State.setCe (s : State) (n : Nat) (c : CeCore) : State := s.setCes (s.ce.set n c)

/-- The owner code of PWM module k (R24). -/
def State.pwmOwner (s : State) (k : Nat) : Nat := bitsOf (4 * (k % 8) + 3) (4 * (k % 8)) (s.rd (CEC_PWMOWN (k / 8))).toNat

/-- An owner code's interrupt receiver: its CE for codes 0x0–0x7, otherwise the SC interrupt controller (R100). -/
def ownerIrq (code : Nat) : IrqTo := if code < 8 then .ce code else .sc

/-! ### Initiators and bus access (R24, R25) -/

/-- LAST_INIT's code of an initiator (CEC_OWNVIOL_CNT). -/
def initCode : Initiator → Nat
  | .ce n => n.val
  | .sc c t => 0x10 + c.val * 3 + t.val
  | .dma _ => 0x20
  | .debug => 0x20
  | .kp => 0x30
  | .hk => 0x31
  | .se => 0x32

def isSc : Initiator → Bool
  | .sc _ _ => true
  | _ => false

/-- A CE writes only W1C fields of its own block; SC threads and firmware write all of it. -/
def notCe : Initiator → Bool
  | .ce _ => false
  | _ => true

/-- The power domain of an address, where the address map of R25 lists it. -/
def windowDomain (a : Nat) : Option Nat :=
  if a < 0x04000000 then some 5
  else if a < 0x20000000 then none
  else if a < 0x22000000 then some 4
  else if a < 0x30000000 then none
  else if a < 0x30200000 then some 6
  else if a < 0x40000000 then none
  else if a < 0x40200000 then some 6
  else if a < 0x40300000 then some 7
  else if a < 0x40400000 then some 8
  else if a < 0x40600000 then some 6
  else if a < 0x40800000 then some 4
  else if a < 0x40900000 then some 6
  else if a < 0x50000000 then none
  else if a < 0x50100000 then some 2
  else if a < 0x60000000 then none
  else if a < 0x60300000 then some 13
  else if a < 0x70000000 then none
  else if a < 0x70200000 then some 4
  else none

/-- What the address map grants a control engine: of the PWM modules it reads those that it owns; its writes to others end
under R24 and not in a bus error. Of the Badger window it reads the mirror; its writes end under R31. -/
def State.ceGrant (s : State) (n a : Nat) (write : Bool) : Bool :=
  (decide (0x20000000 ≤ a) && decide (a < 0x22000000))
  || (decide (0x30000000 + n * 0x40000 ≤ a) && decide (a < 0x30040000 + n * 0x40000))
  || (decide (0x40000000 ≤ a) && decide (a < 0x40008000) && (write || s.pwmOwner ((a - 0x40000000) / 0x400) == n))
  || (decide (0x40008000 ≤ a) && decide (a < 0x40300000))
  || (decide (0x40300000 ≤ a) && decide (a < 0x40400000) && !write)
  || (decide (0x40400000 ≤ a) && decide (a < 0x40500000))
  || (decide (0x40500400 + n * 0x80 ≤ a) && decide (a < 0x40500480 + n * 0x80))
  || (decide (0x40500800 ≤ a) && decide (a < 0x40500A00) && !write)
  || (decide (0x40800000 ≤ a) && decide (a < 0x40900000) && !write)
  || (decide (0x50000000 ≤ a) && decide (a < 0x50100000) && (write || decide (a < 0x50000100)))

/-- What the address map grants a DMA channel. -/
def dmaGrant (a : Nat) (write : Bool) : Bool :=
  (decide (a < 0x04000000) && !write)
  || (decide (0x20000000 ≤ a) && decide (a < 0x22000000))
  || (decide (0x30000000 ≤ a) && decide (a < 0x30200000))
  || (decide (0x40000000 ≤ a) && decide (a < 0x40500000))
  || (decide (0x40800000 ≤ a) && decide (a < 0x40900000) && !write)
  || (decide (0x50000000 ≤ a) && decide (a < 0x50100000) && (write || decide (a < 0x50000100)))
  || (decide (0x60000000 ≤ a) && decide (a < 0x60300000))

/-- What R328 and R331 grant in MRAM and SRAM: SE, KP and HK firmware reach all of it. -/
def memGrant (i : Initiator) (a : Nat) (write : Bool) : Bool :=
  let sc := match i with
    | .sc _ _ => true
    | .debug => true
    | _ => false
  let fw := match i with
    | .kp => true
    | .hk => true
    | .se => true
    | _ => false
  if fw then true
  else if a < 0x00010000 then sc && !write
  else if a < 0x00020000 then false
  else if a < 0x03E00000 then !write
  else if a < 0x04000000 then !write || sc
  else if 0x21F80000 ≤ a ∧ a < 0x21FA0000 then !write
  else if 0x21FA0000 ≤ a ∧ a < 0x21FC0000 then false
  else true

/-- A fabric access to a CE's instruction memory is accepted only while that CE is halted (R26). -/
def State.tcmOpen (s : State) (a : Nat) : Bool :=
  if 0x30000000 ≤ a ∧ a < 0x30200000 ∧ (a - 0x30000000) % 0x40000 < 0x20000 then
    s.is (CE_CTRL_HALT ((a - 0x30000000) / 0x40000))
  else true

/-- The windows that a CE reaches through its control port: PWM, converters, position, control engines and event fabric (R196). -/
def ctlPort (a : Nat) : Bool :=
  (decide (0x40000000 ≤ a) && decide (a < 0x40100000)) || (decide (0x40200000 ≤ a) && decide (a < 0x40300000))
  || (decide (0x40400000 ≤ a) && decide (a < 0x40600000)) || (decide (0x40800000 ≤ a) && decide (a < 0x40900000))

/-- The clocks of an initiator and of the window it accesses run; an access that one of them leaves unanswered has no effect
(R61, R63, R450). The engines reach their own memories and the windows of their control port without the fabric. -/
def State.answers (s : State) (i : Initiator) (a : Nat) : Bool :=
  let control := windowDomain a == some 6
  (!control || s.pllB)
  && (match i with
      | .ce _ => s.pllB && (ctlPort a || s.pllA)
      | .hk => s.pllB && s.pllA
      | _ => s.pllA)

/-- An access of n bytes ends in no bus error: its window is listed, powered and granted to the initiator, and a 32-bit access
at or above 0x4000_0000 is aligned to 4 (R18, R25, R26). -/
def State.busOk (s : State) (i : Initiator) (a : Nat) (write : Bool) (n : Nat := 4) : Bool :=
  (match windowDomain a with
   | none => false
   | some d => s.isOn d)
  && (decide (a < 0x40000000) || decide (n < 4) || a % 4 == 0)
  && (match i with
      | .ce n => s.ceGrant n.val a write
      | .dma _ => dmaGrant a write
      | _ => true)
  && (match i with
      | .ce _ => true
      | _ => s.tcmOpen a)
  && memGrant i a write

/-- A bus error is on its way back to the initiator (R25). -/
def State.busError (s : State) (i : Initiator) (a : Nat) : State := s.setBusErr (s.busErr ++ [(i, a, 0x21)])

/-- Whether module k's owner code lets an initiator write it; while CEn_DLSTAT.ESC is set for its owner CE n, SC threads do
and CE n does not (R24, R206). -/
def State.pwmMayWrite (s : State) (i : Initiator) (k : Nat) : Bool :=
  let o := s.pwmOwner k
  match i with
  | .ce n => o == n.val && !s.is (CE_DLSTAT_ESC n.val)
  | .sc _ _ => o == 8 || (decide (o < 8) && s.is (CE_DLSTAT_ESC o))
  | .kp => o == 9
  | _ => false

/-- An ignored write to a module by an initiator that does not own it is counted and raises a protection event to the SC
cores (R24). -/
def State.ownViolation (s : State) (i : Initiator) (k : Nat) : State :=
  (((s.inc CEC_OWNVIOL_CNT_COUNT).put CEC_OWNVIOL_CNT_LAST_INIT (initCode i)).put CEC_OWNVIOL_CNT_LAST_PWM k).irq .sc
    0x405001F4 0

/-- CE n executes or waits: it is neither halted nor trapped, and its clock runs. -/
def State.ceSteps (s : State) (n : Nat) : Bool :=
  s.ticking && (s.get (CE_STATUS_STATE n) == 1 || s.get (CE_STATUS_STATE n) == 2)

/-- A store of CE n to the PWM window is discarded while its update is withheld (R205) or while its ESC is set (R206). -/
def State.ceStoreDiscard (s : State) (i : Initiator) : Bool :=
  match i with
  | .ce n => (s.ceOf n.val).withhold || s.is (CE_DLSTAT_ESC n.val)
  | _ => false

def State.countDiscard (s : State) (i : Initiator) : State :=
  match i with
  | .ce n => s.inc (CE_CNT2_WHLD n.val)
  | _ => s

/-- A write of n bytes that passes the bus: f is what it does in its block. -/
def State.busWrite (s : State) (i : Initiator) (a : Nat) (f : State → State) (n : Nat := 4) : State :=
  if !s.answers i a then s else if s.busOk i a true n then f s else s.busError i a

/-- A write that reaches module k: discarded, refused by ownership, or done. -/
def State.pwmOwned (s : State) (i : Initiator) (k : Nat) (f : State → State) : State :=
  if s.ceStoreDiscard i then s.countDiscard i
  else if s.pwmMayWrite i k then f s else s.ownViolation i k

/-- A write to a register of PWM module k. -/
def State.pwmWrite (s : State) (i : Initiator) (k a : Nat) (f : State → State) : State :=
  s.busWrite i a (fun s => s.pwmOwned i k f)

/-! ### Trigger sets of the control engines (R199–R202) -/

/-- The cycle of the first instruction after a wake: 200 ns after a window set's close, 20 ns after an event's tick, and at
least 20 ns after a doorbell lands (R200). -/
def State.wakeDue (s : State) (n k stamp : Nat) : Nat :=
  if s.get (CE_TSCFG_TYPE n k) == 1 then 4 * stamp + 8
  else if s.get (CE_TSCFG_TYPE n k) == 2 then s.cyc + 8
  else 4 * stamp + 80

/-- Set k of CE n becomes complete at a tick: a waiting CE takes it, the lower index first where two complete in one tick;
otherwise it becomes pending, or counts as LOST while it is pending. -/
def State.ceComplete (s : State) (n k stamp : Nat) : State :=
  let c := s.ceOf n
  let st := nth c.sets k ⟨0, false, 0⟩
  let waits := s.get (CE_STATUS_STATE n) == 1 && bitOf k c.waitMask
  let keep (c : CeCore) (p : Bool) : CeCore := { c with sets := c.sets.set k ⟨0, p, stamp⟩ }
  if waits && c.woken == none then
    s.setCe n { keep c st.pend with woken := some k, wakeAt := s.wakeDue n k stamp, wakeStamp := stamp }
  else if st.pend then
    (s.setCe n (keep c true)).inc (CE_CNT_LOST n)
  else
    match c.woken with
    | some j =>
      if waits && decide (k < j) && c.wakeStamp == stamp then
        let c' := { keep c false with woken := some k, wakeAt := s.wakeDue n k stamp }
        (s.setCe n { c' with sets := c'.sets.set j ⟨0, true, stamp⟩ }).putFldBit (CE_STATUS_PEND n) j true
      else (s.setCe n (keep c true)).putFldBit (CE_STATUS_PEND n) k true
    | none => (s.setCe n (keep c true)).putFldBit (CE_STATUS_PEND n) k true

/-- The event of code ev (R164) completes every enabled event set that selects it. -/
def State.ceEventSets (s : State) (ev : Nat) : State :=
  (List.range 32).foldl (fun s i =>
    let n := i / 4
    let k := i % 4
    if s.is (CE_TSCFG_EN n k) && s.get (CE_TSCFG_TYPE n k) == 1 && s.get (CE_TSCFG_EVSEL n k) == ev then
      s.ceComplete n k s.tick
    else s) s

/-- Window unit u completes a window with a close value: it counts toward every enabled window set that names it, and a set
whose whole mask has completed becomes complete (R199). -/
def State.ceUnitDone (s : State) (u close : Nat) : State :=
  (List.range 32).foldl (fun s i =>
    let n := i / 4
    let k := i % 4
    let ty := s.get (CE_TSCFG_TYPE n k)
    let mask := (s.rd (CE_TSMSKLO n k)).toNat + 2 ^ 32 * (s.rd (CE_TSMSKHI n k)).toNat
    if s.is (CE_TSCFG_EN n k) && (ty == 0 || ty == 3) && bitOf u mask then
      let c := s.ceOf n
      let st := nth c.sets k ⟨0, false, 0⟩
      let rec' := putBit u st.record true
      if rec' &&& mask == mask then s.ceComplete n k close
      else s.setCe n { c with sets := c.sets.set k { st with record := rec' } }
    else s) s

/-- The code of event e (0 ZRO, 1 PEAK, 2 CMPC, 3 CMPD) of PWM module k (R164). -/
def pwmEvCode (k e : Nat) : Nat := k * 4 + e

end Sys2Proof.Machine
end

