-- ==== Sys2Proof/Machine/Flags.lean ====
section
/-! DEFINITION. How a write applies to a register by the access codes of its fields (R16–R18), and the lock of each block. -/

namespace Sys2Proof.Machine

/-- One field of a written register (R16): old is the register's value, v the value written, and was the register's value when
the instant of the write began. A clear takes the bits that were set and the count that was held then: bits that the hardware has
set and increments that it has made in the same instant stay. -/
def applyField (locked : Bool) (v was : Nat) (old : Nat) (f : Nat × Nat × Access) : Nat :=
  let hi := f.1
  let lo := f.2.1
  match f.2.2 with
  | .rw => putBits hi lo old (bitsOf hi lo v)
  | .shd => putBits hi lo old (bitsOf hi lo v)
  | .rwl => if locked then old else putBits hi lo old (bitsOf hi lo v)
  | .w1c => putBits hi lo old ((bitsOf hi lo old) &&& (2 ^ (hi + 1 - lo) - 1 - (bitsOf hi lo v &&& bitsOf hi lo was)))
  | .cnt => if bitsOf hi lo v == 0 then old else putBits hi lo old (bitsOf hi lo old - bitsOf hi lo was)
  | .ro => old
  | .wo => old

/-- The lock bit that governs the RWL fields at an address. -/
def State.locked (s : State) (a : Nat) : Bool :=
  if 0x40100000 ≤ a ∧ a < 0x40110000 then s.is GDG_LOCK_CFG_LOCK
  else if 0x40200000 ≤ a ∧ a < 0x40210000 then s.is ADG_CTRL_LOCK
  else if 0x40300000 ≤ a ∧ a < 0x40302000 then s.is WMG_LOCK_LOCK
  else if 0x40302000 ≤ a ∧ a < 0x40303000 then s.is TRN_LOCK_LOCK
  else if 0x40400000 ≤ a ∧ a < 0x40410000 then s.is POSG_LOCK_LOCK
  else if 0x40500800 ≤ a ∧ a < 0x40500A00 then s.is LGC_CTRL_LOCK
  else if 0x40500000 ≤ a ∧ a < 0x40500800 then s.is CEC_LOCK_OWN_LOCK
  else if 0x40602000 ≤ a ∧ a < 0x40603000 then s.is STU_CTRL_LOCK
  else if 0x40700000 ≤ a ∧ a < 0x40700C00 then s.is (PU_CTRL_LOCK ((a - 0x40700000) / 0x100))
  else if 0x60100000 ≤ a ∧ a < 0x60110000 then s.is ETH_LOCK_LOCK
  else if 0x70000100 ≤ a ∧ a < 0x70000104 then s.is SUP_CFG_LOCK
  else if 0x70000500 ≤ a ∧ a < 0x70000600 then s.is THM_CFG_LOCK
  else if 0x70100800 ≤ a ∧ a < 0x70100840 then s.is MDM_LOCK_POL_LOCK
  else if 0x70100900 ≤ a ∧ a < 0x70100A00 then s.is KCP_CFG_LOCK
  else false

/-- The write applied to a listed register by its access codes; an unlisted offset ignores the write (R18). -/
def State.fieldWrite (s : State) (a : Nat) (v : Word) : State :=
  match rowOf a with
  | none => s
  | some r =>
    let g := regAt a
    s.wr g (BitVec.ofNat 32 (r.flds.foldl (applyField (s.locked a) v.toNat (s.rdWas g).toNat) (s.rd g).toNat))

/-- A read of a listed register by its access codes: write-only fields and unlisted bits read 0 (R16, R17). -/
def readFields (v : Nat) (fs : List (Nat × Nat × Access)) : Nat :=
  fs.foldl (fun acc f => match f.2.2 with
    | .wo => acc
    | _ => acc + bitsOf f.1 f.2.1 v * 2 ^ f.2.1) 0

end Sys2Proof.Machine
end

