-- ==== Sys2Proof/Machine/Conv.lean ====
section
/-! DEFINITION. The pipeline converters, window units and capture units (R155–R174). -/

namespace Sys2Proof.Machine

def State.lane (s : State) (n : Nat) : AdLane := nth s.conv.lanes n ⟨0, false, 0, none, []⟩
def State.setLane (s : State) (n : Nat) (l : AdLane) : State := s.setConv { s.conv with lanes := s.conv.lanes.set n l }
def State.wu (s : State) (u : Nat) : WuUnit := nth s.conv.wu u ⟨none, [], none⟩
def State.setWu (s : State) (u : Nat) (w : WuUnit) : State := s.setConv { s.conv with wu := s.conv.wu.set u w }

/-! ### Words (R156–R158) -/

/-- The code and OVR of an input voltage in microvolts (R157). -/
def adcCode (v : Int) : Nat × Bool :=
  if v < -2048000 then (0, true)
  else if 2048000 < v then (0x3FFF, true)
  else (min 0x3FFF ((v + 2048000) / 250).toNat, false)

/-- The slot code of ADnn_SEQ that was in effect at converter-clock edge e. -/
def State.slotCode (s : State) (n e : Nat) : Nat :=
  let w := match ((s.lane n).olds.reverse.find? (fun o => decide (e < o.1))) with
    | some o => o.2
    | none => s.rd (AD_SEQ_EFF n)
  bitsOf (4 * (e % 8) + 3) (4 * (e % 8)) w.toNat

/-- The voltage at the housekeeping multiplexers for a channel: an internal source where the table of R175 names one. -/
def hkVolt (j : Nat) (v : Int) : Int :=
  if j == 61 then 1500000
  else if j == 62 then -1500000
  else if j == 43 || (decide (56 ≤ j) && decide (j ≤ 60)) || j == 63 then 0
  else v

/-- The housekeeping channel that an instant belongs to, counted since D7 came on: 16 µs each (R175). -/
def State.hkChanAt (s : State) (t : Nat) : Nat := (t - s.conv.onAt) / 6400

/-- The voltage that converter n samples (R156): an input pair, the housekeeping multiplexer, or an internal source. -/
def State.slotVolt (s : State) (n code : Nat) (e : AdEdge) (v : Int) : Int :=
  if code < 4 then v
  else if code == 0xF && decide (22 ≤ n) && e.num % 8 == 7 then hkVolt (s.hkChanAt e.at' % 64) v
  else if code == 0x9 then 1500000
  else if code == 0xA then -1500000
  else 0

/-- The 16-bit word on the lane for the sample of an edge (R158). -/
def State.laneWord (s : State) (n : Nat) (e : AdEdge) : LaneWord → Nat
  | .sample v =>
    let (code, ovr) := adcCode (s.slotVolt n (s.slotCode n e.num) e v)
    code + b2n ovr * 0x4000 + b2n (e.num % 8 == 0) * 0x8000
  | .raw w => w.toNat

/-! ### Window limits and accumulation (R165, R168, R171) -/

def winStream (w : WuWin) : Nat × Nat := (bitsOf 7 3 w.src.toNat, bitsOf 2 0 w.src.toNat)

def limViolates (w : WuWin) (v : Nat) : Bool :=
  decide (bitsOf 29 16 w.lim.toNat < v) || decide (v < bitsOf 13 0 w.lim.toNat)

def winHolds (w : WuWin) (tag : Nat) : Bool :=
  decide (w.openV ≤ tag) && (match w.closeV with
    | some c => decide (tag < c)
    | none => true)

/-- A violated limit: flag, count, event and interrupt, the first time in a window (R171, R172). -/
def State.wuLimit (s : State) (u : Nat) (w : WuWin) (data : List Byte) : State :=
  let s := s.inc (WU_LIMCNT_LIMCNT u)
  let s := s.log 9 u 0x03 data
  s.irqIf (bitOf 11 w.pol.toNat) .sc (0x40204000 + u * 0x40) 0x03

/-- A word enters a window of unit u. -/
def State.wuWord (s : State) (u : Nat) (w : WuWin) (n slot tag code : Nat) (ovr : Bool) : State × WuWin :=
  if winStream w == (n, slot) && winHolds w tag && !w.fin then
    let w := { w with count := w.count + 1, sum := w.sum + code, min := Nat.min w.min code, max := Nat.max w.max code, ovr := w.ovr || ovr }
    if bitOf 4 w.pol.toNat && !bitOf 5 w.pol.toNat && !w.limv && limViolates w code then
      (s.wuLimit u w (leBytes 4 tag), { w with limv := true })
    else (s, w)
  else (s, w)

def State.wuWords (s : State) (u : Nat) (n slot tag code : Nat) (ovr : Bool) : List WuWin → State × List WuWin
  | [] => (s, [])
  | w :: t =>
    let (s, w) := s.wuWord u w n slot tag code ovr
    let (s, t) := s.wuWords u n slot tag code ovr t
    (s, w :: t)

def State.wuFeed (s : State) (n slot tag code : Nat) (ovr : Bool) (u : Nat) : State :=
  let x := s.wu u
  let (s, cl) := s.wuWords u n slot tag code ovr x.closing
  match x.cur with
  | some w =>
    let (s, w) := s.wuWord u w n slot tag code ovr
    s.setWu u { s.wu u with cur := some w, closing := cl }
  | none => s.setWu u { s.wu u with closing := cl }

/-! ### Captures (R174) -/

def State.capFifo (s : State) (n : Nat) : List Word := nth s.conv.caps n []
def State.setCap (s : State) (n : Nat) (l : List Word) : State := s.setConv { s.conv with caps := s.conv.caps.set n l }

/-- The number of words a capture stores: LEN, or 65,536 where LEN is 0. -/
def State.capLen (s : State) (n : Nat) : Nat := if s.get (CAP_CFG_LEN n) == 0 then 65536 else s.get (CAP_CFG_LEN n)

/-- A running capture stores the word, or ends in OVF where its FIFO is full. -/
def State.capWord (s : State) (nn slot tag : Nat) (w : Word) (n : Nat) : State :=
  let st := s.get (CAP_STATUS_STATE n)
  if (st == 1 || st == 2) && s.get (CAP_SRC_AD n) == nn && s.bit (CAP_CFG_SLOTMASK n) slot
      && decide (s.get (CAP_STATUS_STORED n) < s.capLen n) then
    if (s.capFifo n).length < 64 then
      let s := if st == 1 then
          ((s.put (CAP_STATUS_STATE n) 2).put (CAP_T0LO_T0 n) (tag * 10)).put (CAP_T0HI_T0 n) (tag * 10 / 2 ^ 32)
        else s
      (s.setCap n (s.capFifo n ++ [w])).wrapInc (CAP_STATUS_STORED n)
    else s.put (CAP_STATUS_STATE n) 3
  else s

/-! ### Word arrival (R22, R161–R163, R175) -/

/-- An event of converter nn: level 9, index 64 + nn, and the interrupt of IEN (R162). -/
def State.adEvent (s : State) (nn typ : Nat) : State :=
  (s.log 9 (64 + nn) typ).irqIf (s.is (AD_CFG_IEN nn)) .sc (0x40200000 + nn * 0x100) typ

/-- The DC-link interval of a tag takes a word. -/
def vdcAdd (i code : Nat) (ovr : Bool) : List (Nat × Nat × Nat × Bool) → List (Nat × Nat × Nat × Bool)
  | [] => [(i, code, 1, ovr)]
  | (j, sm, c, o) :: t => if j == i then (j, sm + code, c + 1, o || ovr) :: t else (j, sm, c, o) :: vdcAdd i code ovr t

/-- A housekeeping word of a channel: the first 3.2 µs are discarded for settling, the next 128 words are summed (R175). -/
def State.hkAdd (s : State) (h : HkSum) (t code : Nat) (ovr : Bool) : HkSum :=
  let c := s.hkChanAt t
  let h := if h.chan == c then h else ⟨c, 0, 0, false⟩
  let h := { h with ovr := h.ovr || ovr }
  if 1280 ≤ (t - s.conv.onAt) % 6400 ∧ h.count < 128 then { h with count := h.count + 1, sum := h.sum + code } else h

/-- A word of a resolver winding joins the samples of its excitation period (R236). -/
def State.resWord (s : State) (nn slot code : Nat) (ovr : Bool) (n : Nat) : State :=
  if s.is (RES_CFG_EN n) && s.get (RES_CFG_SLOT n) == slot then
    let r := nth s.pos.res n ResCh.idle
    let r := if s.get (RES_CFG_CONVS n) == nn then { r with s := code :: r.s, ovr := r.ovr || ovr } else r
    let r := if s.get (RES_CFG_CONVC n) == nn then { r with c := code :: r.c, ovr := r.ovr || ovr } else r
    s.setPosBlk { s.pos with res := s.pos.res.set n r }
  else s

/-- A word of a known slot is delivered: last word, OVR, windows, captures, DC link and housekeeping. -/
def State.deliver (s : State) (nn slot t tag word : Nat) : State :=
  let code := bitsOf 13 0 word
  let ovr := bitOf 14 word
  let s := s.put (AD_LAST_WORD nn slot) word
  let s := if ovr && !s.is (AD_STATUS_OVR nn) then (s.put (AD_STATUS_OVR nn) 1).adEvent nn 0x10 else s
  let s := (List.range 64).foldl (fun s u => s.wuFeed nn slot tag code ovr u) s
  let s := (List.range 4).foldl (fun s n => s.capWord nn slot tag (BitVec.ofNat 32 word) n) s
  let s := (s.resWord nn slot code ovr 0).resWord nn slot code ovr 1
  let s := if s.is ADG_VDCSRC_EN && s.get ADG_VDCSRC_AD == nn && s.get ADG_VDCSRC_SLOT == slot then
      s.setConv { s.conv with vdc := vdcAdd (tag / 1000) code ovr s.conv.vdc }
    else s
  if slot == 7 && nn == 22 then s.setConv { s.conv with hkA := s.hkAdd s.conv.hkA t code ovr }
  else if slot == 7 && nn == 23 then s.setConv { s.conv with hkB := s.hkAdd s.conv.hkB t code ovr }
  else s

/-- A word leaves lane nn: the receiver checks WRAP against its slot count (R161). A change of ADnn_CFG.EN takes effect at a
slot-0 word. -/
def State.wordTaken (s : State) (nn t tag word : Nat) : State :=
  let wrap := bitOf 15 word
  if !(s.isOn 7 && s.ticking && s.is ADG_STATUS_LOCKED) then s
  else
    let s := if wrap then s.putB (AD_STATUS_ACTIVE nn) (s.is (AD_CFG_EN nn)) else s
    if !s.is (AD_STATUS_ACTIVE nn) then s
    else
      let l := s.lane nn
      let drop (s : State) : State := (s.inc (AD_STATUS_LOSTW nn)).setLane nn { s.lane nn with lost := true }
      if l.lost && !wrap then s.inc (AD_STATUS_LOSTW nn)
      else if !l.lost && wrap != (l.slot == 0) then
        let s := if s.is (AD_STATUS_WRAPERR nn) then s else (s.put (AD_STATUS_WRAPERR nn) 1).adEvent nn 0x11
        drop s
      else
        let slot := if wrap then 0 else l.slot
        let s := s.setLane nn { l with slot := (slot + 1) % 8, lost := false }
        s.deliver nn slot t tag word

/-- The oldest sample whose word has not arrived on lane nn and may arrive now: a word is available 152.5–170 ns after its sample
instant (R22). -/
def State.laneDue (s : State) (nn : Nat) : Option AdEdge :=
  s.conv.edges.reverse.find? (fun e => decide ((s.lane nn).next ≤ e.num) && decide (e.at' + 61 ≤ s.now) && decide (s.now ≤ e.at' + 68))

def State.wordArrival (s : State) (nn : Nat) (w : LaneWord) : State :=
  match s.laneDue nn with
  | some e => (s.setLane nn { s.lane nn with next := e.num + 1 }).wordTaken nn e.at' e.tag (s.laneWord nn e w)
  | none => s

def execWordArrival (nn : Fin 24) (w : LaneWord) (s : State) : Res := .next (s.wordArrival nn.val w)

/-- The tag of a sample at the present instant: the tick whose interval, 10 ns up to its edge, holds it; with CLK_ADC it may be one
tick late in the last 2.5 ns before the edge (R67). -/
def State.edgeTag (s : State) : Nat :=
  let n := (s.cyc + 3) / 4
  if s.is ADG_STATUS_CLKACT && s.cyc % 4 == 0 && s.freeBool then n + 1 else n

/-- The converter clock makes an edge where it is due: every 12.5 ns from the crystal; CLK_ADC, at 79.2 to 80.8 MHz, falls an
instant earlier or later at times. All converters sample on it, and the slot counter advances (R155). -/
def State.converterClock (s : State) : State :=
  if s.isOn 7 && s.is ADG_STATUS_LOCKED then
    let (n, last) := match s.conv.edges with
      | e :: _ => (e.num + 1, e.at')
      | [] => (0, s.conv.onAt)
    let d := s.now - last
    let due := if s.is ADG_STATUS_CLKACT then decide (6 ≤ d) || (decide (4 ≤ d) && s.freeBool) else decide (5 ≤ d)
    let s := s.useFree
    if due then s.useFree.setConv { s.conv with edges := (⟨n, s.now, s.edgeTag⟩ :: s.conv.edges).take 16 } else s
  else s

/-! ### Sequence registers and the converter clock (R156, R159, R160) -/

/-- The shadow takes the value; slot 7 of AD22 and AD23 stays 0xF. -/
def State.adSeqWrite (s : State) (nn : Nat) (v : Word) : State :=
  let v := if 22 ≤ nn then (v &&& 0x0FFFFFFF) ||| 0xF0000000 else v
  (s.wr (AD_SEQ nn) v).setLane nn { s.lane nn with seqAt := some s.now }

def execAdSeqWrite (ini : Initiator) (nn : Fin 24) (val : Word) (s : State) : Res :=
  .next (s.busWrite ini (AD_SEQ nn.val).addr (fun s => s.adSeqWrite nn.val val))

/-- The first slot-0 instant at least 62.5 ns (25 instants) after the write applies the codes; that round samples with them. -/
def State.adSeqApply (s : State) (nn : Nat) : State :=
  match (s.lane nn).seqAt, s.conv.edges with
  | some t, e :: _ =>
    if s.isOn 7 && s.is ADG_STATUS_LOCKED && e.num % 8 == 0 && e.at' == s.now && decide (t + 25 ≤ s.now) then
      let l := s.lane nn
      (s.wr (AD_SEQ_EFF nn) (s.rd (AD_SEQ nn))).setLane nn { l with seqAt := none, olds := ((e.num, s.rd (AD_SEQ_EFF nn)) :: l.olds).take 3 }
    else s
  | _, _ => s

def execAdSeqApply (nn : Fin 24) (s : State) : Res := .next (s.adSeqApply nn.val)

/-- A write of ADnn_CFG; EN of AD22 and AD23 stays 1 (R159). -/
def State.adCfgWrite (s : State) (nn : Nat) (v : Word) : State :=
  s.fieldWrite (AD_CFG nn).addr (if 22 ≤ nn then v ||| 1 else v)

/-- With EN = 0 ADG_VDC reads 0xFFFF (R163). -/
def State.vdcSrcWrite (s : State) (v : Word) : State :=
  let s := s.fieldWrite ADG_VDCSRC.addr v
  if s.is ADG_VDCSRC_EN then s else (s.put ADG_VDC_VDC 0xFFFF).setConv { s.conv with vdc := [] }

/-- PLL-C loses lock or CLK_ADC stops: the converters stop producing words (R160). -/
def execAdcClockLoss (s : State) : Res :=
  .next (if s.isOn 7 && s.is ADG_STATUS_LOCKED then
    let s := (s.put ADG_STATUS_LOCKED 0).put ADG_STATUS_NOCLK 1
    let s := (List.range 24).foldl (fun s n => s.put (AD_STATUS_ACTIVE n) 0) s
    s.adEvent 0 0x12
  else s)

/-- The converter clock returns: the enabled converters produce words again (R160). -/
def execAdcClockReturn (s : State) : Res :=
  .next (if s.isOn 7 && !s.is ADG_STATUS_LOCKED then
    let s := s.put ADG_STATUS_LOCKED 1
    (List.range 24).foldl (fun s n => s.putB (AD_STATUS_ACTIVE n) (s.is (AD_CFG_EN n))) s
  else s)

def execAdgLock (ini : Initiator) (val : Word) (s : State) : Res :=
  .next (s.busWrite ini ADG_CTRL.addr (fun s =>
    let s := s.fieldWrite ADG_CTRL.addr (val &&& 0x7FFFFFFF)
    if bitOf 31 val.toNat then s.put ADG_CTRL_LOCK 1 else s))

/-- 170 ns after a 10 µs interval ends, its mean gives ADG_VDC (R163). -/
def vdcValue (e : Nat × Nat × Bool) (gain : Nat) : Nat :=
  if e.2.2 || decide (e.2.1 < 100) then 0xFFFF
  else min 0xFFFE ((e.1 - 8192 * e.2.1) * gain / (100 * e.2.1))

def State.vdcUpdate (s : State) : State :=
  if s.isOn 7 && s.ticking && decide (1017 ≤ s.tick) && (s.tick - 17) % 1000 == 0 then
    let i := (s.tick - 17) / 1000 - 1
    let e := (lookupKey i s.conv.vdc).getD (0, 0, false)
    let v := if s.is ADG_VDCSRC_EN && i != 0 then vdcValue e (s.get ADG_VDCSRC_GAIN) else 0xFFFF
    let s := s.setConv { s.conv with vdc := s.conv.vdc.filter (fun e => decide (i < e.1)) }
    s.put ADG_VDC_VDC v
  else s

def execVdcUpdate (s : State) : Res := .next s.vdcUpdate

/-! ### Window units (R164–R172) -/

/-- A new window takes the values the registers hold now (R170). -/
def State.newWin (s : State) (u openV : Nat) : WuWin :=
  let cls := s.rd (WU_CLOSE u)
  ⟨openV, if bitOf 31 cls.toNat then some (openV + bitsOf 15 0 cls.toNat) else none, s.rd (WU_SRC u), s.rd (WU_OPEN u), cls,
   s.rd (WU_POLICY u), s.rd (WU_LIM u), 0, 0, 0x3FFF, 0, false, false, false, false, false⟩

/-- The unit arms or opens a window at an open value. -/
def State.wuArm (s : State) (u openV : Nat) : State :=
  let s := s.setWu u { s.wu u with cur := some (s.newWin u openV) }
  s.put (WU_STATUS_STATE u) (if openV ≤ s.tick then 2 else 1)

/-- The open delay. -/
def State.odly (s : State) (u : Nat) : Nat := s.get (WU_OPEN_ODLY u)

/-- The running window completes at a close value: its event is logged in that tick, a pending trigger opens the next window,
or the unit is IDLE (R167, R172). -/
def State.wuComplete (s : State) (u : Nat) (w : WuWin) (c : Nat) : State :=
  let w := { w with closeV := some c }
  let x := s.wu u
  let s := s.setWu u { x with cur := none, closing := x.closing ++ [w] }
  let s := s.log 9 u (if w.part then 0x02 else 0x01)
  match (s.wu u).pend with
  | some n =>
    let s := s.setWu u { s.wu u with pend := none }
    (s.put (WU_STATUS_PEND u) 0).wuArm u (max c (n + s.odly u))
  | none => s.put (WU_STATUS_STATE u) 0

/-- The close value of the running window, where it has one: set, or 65,535 ticks after it opened (R165). -/
def winClose (w : WuWin) : Nat := w.closeV.getD (w.openV + 65535)

/-- The unit processes a close that is due before anything else of the tick (R165, R166). -/
def State.wuDueClose (s : State) (u : Nat) : State :=
  match (s.wu u).cur with
  | some w => if winClose w ≤ s.tick then s.wuComplete u { w with tmo := w.closeV == none } (winClose w) else s
  | none => s

/-- An ignored trigger (R167). -/
def State.wuMissed (s : State) (u : Nat) (w : WuWin) : State :=
  let s := (s.inc (WU_MISSED_MISSED u)).log 9 u 0x04
  s.irqIf (bitOf 10 w.pol.toNat) .sc (0x40204000 + u * 0x40) 0x04

/-- A trigger of an enabled unit (R165–R167). -/
def State.wuTrigger (s : State) (u : Nat) : State :=
  let s := s.wuDueClose u
  let n := s.tick
  match (s.wu u).cur with
  | none => s.wuArm u (n + s.odly u)
  | some w =>
    let pol := bitsOf 1 0 w.pol.toNat
    if pol == 1 then
      let x := { s.wu u with pend := none }
      let s := s.setWu u x
      let s := s.wuComplete u { w with part := true } n
      s.wuArm u (n + s.odly u)
    else if pol == 2 then
      (match (s.wu u).pend with
       | none => (s.setWu u { s.wu u with pend := some n }).put (WU_STATUS_PEND u) 1
       | some _ => s.wuMissed u w)
    else s.wuMissed u w

/-- The unit takes events: D7 and the tick run and SRC.EN is set. -/
def State.wuLive (s : State) (u : Nat) : Bool := s.isOn 7 && s.ticking && s.is (WU_SRC_EN u)

/-- The open event selected: by the registers for an IDLE unit, by the values its window started with otherwise. -/
def State.wuOsel (s : State) (u : Nat) : Nat :=
  match (s.wu u).cur with
  | some w => bitsOf 7 0 w.opn.toNat
  | none => s.get (WU_OPEN_OSEL u)

/-- Codes that name an event (R164). -/
def evNamed (c : Nat) : Bool := decide (c < 0x89)

def State.wuOpenEvent (s : State) (u ev : Nat) : State :=
  if s.wuLive u && evNamed ev then
    let s := s.wuDueClose u
    if s.wuOsel u == ev then s.wuTrigger u else s
  else s

def execWuOpenEvent (u : Fin 64) (ev : Fin 256) (s : State) : Res := .next (s.wuOpenEvent u.val ev.val)

/-- The open value is reached (R165). -/
def execWuOpen (u : Fin 64) (s : State) : Res :=
  .next (match (s.wu u.val).cur with
    | some w => if s.wuLive u.val && s.get (WU_STATUS_STATE u.val) == 1 && decide (w.openV ≤ s.tick) then
        s.put (WU_STATUS_STATE u.val) 2 else s
    | none => s)

/-- A close event: it sets the close value in EVENT mode, or counts as STRAY (R165). -/
def State.wuCloseEvent (s : State) (u ev : Nat) : State :=
  if s.wuLive u && evNamed ev then
    let s := s.wuDueClose u
    match (s.wu u).cur with
    | some w =>
      if bitsOf 23 16 w.cls.toNat == ev && !bitOf 31 w.cls.toNat then
        match w.closeV with
        | none =>
          let c := s.tick + bitsOf 15 0 w.cls.toNat
          let w := { w with closeV := some c }
          let s := s.setWu u { s.wu u with cur := some w }
          s.wuDueClose u
        | some _ => s.inc (WU_MISSED_STRAY u)
      else s
    | none =>
      if s.get (WU_CLOSE_CSEL u) == ev && !s.is (WU_CLOSE_CMODE u) then s.inc (WU_MISSED_STRAY u) else s
  else s

def execWuCloseEvent (u : Fin 64) (ev : Fin 256) (s : State) : Res := .next (s.wuCloseEvent u.val ev.val)

/-- A write to WUG_SWTRIG0 or WUG_SWTRIG1 gives the named units event 0x88: a close event first, then an open event
(R164, R166). -/
def State.swTrig (s : State) (hi : Bool) (v : Word) : State :=
  (List.range 32).foldl (fun s i => if bitOf i v.toNat then
    (s.wuCloseEvent (b2n hi * 32 + i) 0x88).wuOpenEvent (b2n hi * 32 + i) 0x88 else s) s

def execWugSwtrig (ini : Initiator) (hi : Bool) (val : Word) (s : State) : Res :=
  .next (s.busWrite ini (WUG_SWTRIG (b2n hi)).addr (fun s => s.swTrig hi val))

/-- The close value is reached (R165, R172). -/
def execWuClose (u : Fin 64) (s : State) : Res := .next (if s.wuLive u.val then s.wuDueClose u.val else s)

/-- A window open 65,535 ticks without a close value closes with TMO (R165). -/
def execWuOpenTimeout (u : Fin 64) (s : State) : Res :=
  .next (match (s.wu u.val).cur with
    | some w => if s.wuLive u.val && w.closeV == none then s.wuDueClose u.val else s
    | none => s)

/-- MEAN in 1/16 code, halves rounded up; 0 for an empty window (R168). -/
def winMean (w : WuWin) : Nat := if w.count == 0 then 0 else (32 * w.sum + w.count) / (2 * w.count)

/-- A closed window is finalised 16 ticks after its close value (R169, R171). -/
def State.wuFinal (s : State) (u : Nat) (w : WuWin) : State × WuWin :=
  if !w.fin && decide ((w.closeV.getD 0) + 16 ≤ s.tick) then
    let viol := bitOf 4 w.pol.toNat && bitOf 5 w.pol.toNat && w.count != 0 && limViolates w (winMean w / 16)
    let s := if viol then s.wuLimit u w [] else s
    (s, { w with fin := true, limv := w.limv || viol })
  else (s, w)

def State.wuFinals (s : State) (u : Nat) : List WuWin → State × List WuWin
  | [] => (s, [])
  | w :: t =>
    let (s, w) := s.wuFinal u w
    let (s, t) := s.wuFinals u t
    (s, w :: t)

/-- Every closed window of the unit whose finalisation is due is finalised. -/
def State.wuFinalise (s : State) (u : Nat) : State :=
  if s.isOn 7 && s.ticking then
    let (s, cl) := s.wuFinals u (s.wu u).closing
    s.setWu u { s.wu u with closing := cl }
  else s

def execWuFinalise (u : Fin 64) (s : State) : Res := .next (s.wuFinalise u.val)

/-- RES0's flags and count of a window. -/
def res0Of (w : WuWin) (wseq : Nat) : Nat :=
  wseq % 256 * 2 ^ 24 + b2n (w.count == 0) * 2 ^ 23 + b2n w.part * 2 ^ 22 + b2n w.tmo * 2 ^ 21 + b2n w.ovr * 2 ^ 20
    + b2n w.limv * 2 ^ 19 + w.count % 65536

/-- The data-memory address of record u in the snapshot bank of CE n (R201). -/
def snapAddr (n u : Nat) : Nat := 0x30020000 + n * 0x40000 + 0x1FC00 + 16 * u

/-- The record of a unit is frozen in CE n's bank from a wake on a window set that names it until the next CX.WAIT (R201). -/
def State.snapFrozen (s : State) (n u : Nat) : Bool :=
  match (s.ceOf n).takenSet with
  | some k =>
    let ty := s.get (CE_TSCFG_TYPE n k)
    (ty == 0 || ty == 3) && bitOf u ((s.rd (CE_TSMSKLO n k)).toNat + 2 ^ 32 * (s.rd (CE_TSMSKHI n k)).toNat)
  | none => false

/-- The sixteen bytes of unit u's results. -/
def State.resBytes (s : State) (u : Nat) : List Byte :=
  leBytes 4 (s.rd (WU_RES0 u)).toNat ++ leBytes 4 (s.rd (WU_RES1 u)).toNat ++ leBytes 4 (s.rd (WU_RES2 u)).toNat
    ++ leBytes 4 (s.rd (WU_RES3 u)).toNat

/-- The capture record of unit u enters the result queue; a full queue of 64 loses it (R173). -/
def State.rqPush (s : State) (u : Nat) : State :=
  let r := leBytes 4 (s.rd (WU_RES0 u)).toNat ++ leBytes 4 ((s.rd (WU_RES1 u)).toNat + u * 2 ^ 26)
    ++ leBytes 4 (s.rd (WU_RES2 u)).toNat ++ leBytes 4 (s.rd (WU_RES3 u)).toNat
  if s.conv.rq.length < 64 then
    let s := s.setConv { s.conv with rq := s.conv.rq ++ [r] }
    s.put RQ_STATUS_FILL s.conv.rq.length
  else s.inc RQ_STATUS_LOST

/-- Close value + 18: the results, snapshot records and WSEQ update, the capture record is pushed, and the completion counts
toward the trigger sets (R169, R173, R199, R201). -/
def State.wuPublish (s : State) (u : Nat) : State :=
  match (s.wu u).closing with
  | w :: t =>
    if s.isOn 7 && s.ticking && w.fin && decide ((w.closeV.getD 0) + 18 ≤ s.tick) then
      let s := s.setWu u { s.wu u with closing := t }
      let s := s.wr (WU_RES0 u) (BitVec.ofNat 32 (res0Of w (s.get (WU_RES0_WSEQ u) + 1)))
      let s := s.put (WU_RES1_MEAN u) (winMean w)
      let s := (s.put (WU_RES2_MAX u) w.max).put (WU_RES2_MIN u) w.min
      let s := s.put (WU_RES3_SUM u) w.sum
      let s := (List.range 8).foldl (fun s n =>
        if s.snapFrozen n u then s else s.wrBytes (snapAddr n u) (s.resBytes u)) s
      let s := if bitOf 8 w.pol.toNat then s.rqPush u else s
      let s := s.irqIf (bitOf 9 w.pol.toNat) .sc (0x40204000 + u * 0x40) 0x01
      s.ceUnitDone u (w.closeV.getD 0)
    else s
  | [] => s

def execWuResultPublish (u : Fin 64) (s : State) : Res := .next (s.wuPublish u.val)

/-- A read of RES0 latches RES1–RES3 for its initiator (R169). -/
def State.wuLatch (s : State) (ini : Initiator) (u : Nat) : State :=
  s.setConv { s.conv with latches :=
    (ini, u, s.rd (WU_RES1 u), s.rd (WU_RES2 u), s.rd (WU_RES3 u)) ::
      s.conv.latches.filter (fun e => !(e.1 == ini && e.2.1 == u)) }

def execWuRes0Read (ini : Initiator) (u : Fin 64) (s : State) : Res :=
  .next (if !s.answers ini (WU_RES0 u.val).addr then s else if s.busOk ini (WU_RES0 u.val).addr false then s.wuLatch ini u.val else s.busError ini (WU_RES0 u.val).addr)

/-- What an initiator's read of RES1, RES2 or RES3 (i = 0, 1, 2) returns: its latch, or the reset value. -/
def State.wuLatched (s : State) (ini : Initiator) (u i : Nat) : Word :=
  match s.conv.latches.find? (fun e => e.1 == ini && e.2.1 == u) with
  | some (_, _, a, b, c) => if i == 0 then a else if i == 1 then b else c
  | none => if i == 1 then 0x3FFF else 0

/-- A write of WUnn_SRC; clearing EN discards the running window and the pending trigger (R170). -/
def State.wuSrcWrite (s : State) (u : Nat) (v : Word) : State :=
  let s := s.fieldWrite (WU_SRC u).addr v
  if s.is (WU_SRC_EN u) then s
  else ((s.setWu u { s.wu u with cur := none, pend := none }).put (WU_STATUS_STATE u) 0).put (WU_STATUS_PEND u) 0

def execWuDisable (ini : Initiator) (u : Fin 64) (val : Word) (s : State) : Res :=
  .next (s.busWrite ini (WU_SRC u.val).addr (fun s => s.wuSrcWrite u.val (val &&& 0xFFFFFEFF)))

/-! ### Capture units (R174) -/

/-- A capture starts: it is armed until its first word is stored. -/
def State.capStart (s : State) (n : Nat) : State :=
  let st := s.get (CAP_STATUS_STATE n)
  if st == 1 || st == 2 then s
  else
    let s := ((s.put (CAP_STATUS_STATE n) 1).put (CAP_STATUS_STORED n) 0).setCap n []
    s.setKcp { s.kcp with caps := s.kcp.caps.map (fun (c : CapReq) => if c.unit == n && !c.fin then { c with ran := true } else c) }

def execCapStart (ini : Option Initiator) (n : Fin 4) (ev : Fin 256) (s : State) : Res :=
  .next (match ini with
    | some i => s.busWrite i (CAP_CTRL n.val).addr (fun s => s.capStart n.val)
    | none => if s.isOn 7 && s.ticking && evNamed ev.val && s.get (CAP_CFG_SSEL n.val) == ev.val then s.capStart n.val else s)

/-- The capture ends; the words in its FIFO remain for DMA. -/
def State.capStop (s : State) (n : Nat) : State :=
  let st := s.get (CAP_STATUS_STATE n)
  if st == 1 || st == 2 then s.put (CAP_STATUS_STATE n) 0 else s

def execCapStop (ini : Initiator) (n : Fin 4) (s : State) : Res :=
  .next (s.busWrite ini (CAP_CTRL n.val).addr (fun s => s.capStop n.val))

def execCapLenReached (n : Fin 4) (s : State) : Res :=
  .next (if s.get (CAP_STATUS_STATE n.val) == 2 && s.get (CAP_STATUS_STORED n.val) == s.capLen n.val then
    s.put (CAP_STATUS_STATE n.val) 0 else s)

/-- D7 switches off: windows, triggers, captures and queues are discarded (R513). -/
def State.convOff (s : State) : State :=
  s.setConv { Conv.idle with lanes := s.conv.lanes.map (fun l => { l with slot := 0, lost := false, next := 0, olds := [] }) }

/-- What the converter block does by the end of the present tick without a command: the closes, finalisations and results of its
window units, and the DC-link value. -/
def State.convDue (s : State) : State :=
  let s := (List.range 64).foldl (fun s u => (if s.wuLive u then s.wuDueClose u else s).wuFinalise u) s
  ((List.range 64).foldl (fun s u => s.wuPublish u) s).vdcUpdate

end Sys2Proof.Machine
end

