-- ==== Sys2Proof/Machine/Fox.lean ====
section
/-! DEFINITION. The sources and routing of the trip network, Fox (R187, R188). -/

namespace Sys2Proof.Machine

/-- The chiplet of channel g holds its gate off: a latched di/dt, desaturation or positive undervoltage fault, or a negative
one with NUV_ACT (R137, R141). -/
def State.gateHeld (s : State) (g : Nat) : Bool :=
  s.is (GD_PFLT_DIDT g) || s.is (GD_PFLT_DSAT g) || s.is (GD_PFLT_UVP g)
  || (s.is (GD_PFLT_UVN g) && s.is (GD_PROT_NUV_ACT g))

def wmEn (m : Nat) (low : Bool) : Fld := if low then WM_CFG_EN_LO m else WM_CFG_EN_HI m

/-- A source of code below 0xA0 is active (R187); while D8 is off every source is inactive (R191). -/
def State.foxSource (s : State) (c : Nat) : Bool :=
  s.isOn 8 &&
  (if c < 0x60 then bitOf c s.fox.comp || (bitOf c s.fox.hk && s.is (wmEn (c / 2) (c % 2 == 1)))
   else if c < 0x8A then s.gateHeld (c - 0x60)
   else if c < 0x8E then bitOf (c - 0x8A) s.fox.padAct
   else if c == 0x8E then s.get HSM_STATUS_FOFF != 0 || s.is HSM_STATUS_ASC_A || s.is HSM_STATUS_ASC_B
   else if 0x90 ≤ c ∧ c < 0xA0 then bitOf (c - 0x90) s.fox.scg
   else false)

/-- OR group j: any member source is active (R188). -/
def State.orGroup (s : State) (j : Nat) : Bool :=
  (List.range 160).any (fun c => bitOf (c % 32) (s.rd (TRN_OR_MSK j (c / 32))).toNat && s.foxSource c)

/-- A source of any code is active: codes 0xB0–0xFF are none (R187). -/
def State.foxActive (s : State) (c : Nat) : Bool :=
  if c < 0xA0 then s.foxSource c else if c < 0xB0 then s.orGroup (c - 0xA0) else false

/-- The source code selected for trip input i of module k. -/
def State.trnSel (s : State) (k i : Nat) : Nat := bitsOf (8 * i + 7) (8 * i) (s.rd (TRN_SEL k)).toNat

/-- Trip input i of PWM module k is active now (STATUS.TRIPIN). -/
def State.tripIn (s : State) (k i : Nat) : Bool := s.foxActive (s.trnSel k i)

/-- A comparator is selected by any PWM trip input, OR group or TRIP_OUT, so its record carries FOX (R186). -/
def State.foxSelected (s : State) (c : Nat) : Bool :=
  (List.range 128).any (fun i => s.trnSel (i / 4) (i % 4) == c)
  || (List.range 16).any (fun j => bitOf (c % 32) (s.rd (TRN_OR_MSK j (c / 32))).toNat)
  || s.get TRN_OUT_SEL == c

/-- The level of TRIP_OUT; none is high impedance, while D8 is off (R190). -/
def State.tripOut (s : State) : Option Bool :=
  if s.isOn 8 then some (s.foxActive (s.get TRN_OUT_SEL) != s.is TRN_OUT_POL) else none

end Sys2Proof.Machine
end

