-- ==== Sys2Proof/Machine/PwmOps.lean ====
section
/-! DEFINITION. The PWM modules: counter, references, dead time, minimum pulse, trips, and the transfer of shadows at
boundaries (R77–R101). -/

namespace Sys2Proof.Machine

/-! ### Counter (R77–R79) -/

/-- PRD in effect; a value below 16 acts as 16. -/
def State.pwmPrd (s : State) (k : Nat) : Nat := max 16 (s.get (PWM_PRD_EFF_PRD k))

def State.pwmUpdn (s : State) (k : Nat) : Bool := s.is (PWM_CTRL_CNTMODE k)

def State.pwmPeriod (s : State) (k : Nat) : Nat := if s.pwmUpdn k then 2 * s.pwmPrd k else s.pwmPrd k

/-- Control cycles since the zero boundary that opened the period. -/
def State.pwmPos (s : State) (k : Nat) : Nat := ((s.cyc : Int) - (s.pwmOf k).zero).toNat % s.pwmPeriod k

def State.pwmRuns (s : State) (k : Nat) : Bool := s.is (PWM_CTRL_RUN k)

/-- The counter value; 0 while RUN = 0 (R86). -/
def State.pwmCount (s : State) (k : Nat) : Nat :=
  if s.pwmRuns k then
    if s.pwmPos k ≤ s.pwmPrd k then s.pwmPos k else 2 * s.pwmPrd k - s.pwmPos k
  else 0

/-- STATUS.DIR and COUNT.DIR: counting down (R79). -/
def State.pwmDown (s : State) (k : Nat) : Bool := s.pwmRuns k && s.pwmUpdn k && decide (s.pwmPrd k ≤ s.pwmPos k)

/-- The current cycle is a zero boundary of a running module (R78). -/
def State.pwmAtZero (s : State) (k : Nat) : Bool :=
  s.pwmRuns k && decide ((s.pwmOf k).zero ≤ s.cyc) && s.pwmPos k == 0

/-- The current cycle is a peak boundary (R78). -/
def State.pwmAtPeak (s : State) (k : Nat) : Bool :=
  s.pwmRuns k && s.pwmUpdn k && decide ((s.pwmOf k).zero ≤ s.cyc) && s.pwmPos k == s.pwmPrd k

/-- The start of the current cycle, in sixteenths of a control cycle. -/
def State.now16 (s : State) : Int := 16 * (s.cyc : Int)

/-! ### Events (R100, R101) -/

/-- A level-7 event of module k with TYPE and DATA, and the interrupt of IEN bit b. -/
def State.pwmEvent (s : State) (k b : Nat) (typ : Option Nat) (data : Nat) : State :=
  let s := match typ with
    | some t => s.log 7 k t (leBytes 4 data)
    | none => s
  s.irqIf (bitOf b (s.rd (PWM_IEN k)).toNat) (ownerIrq (s.pwmOwner k)) (0x40000000 + k * 0x400) b

/-! ### References and trips (R80, R82, R91–R95) -/

/-- The reference level that compare X gives at continuous value c, in sixteenths (R80). -/
def cmpLevel (x c prd : Nat) : Bool := decide (16 * prd ≤ x) || decide (c < x)

/-- The action of trip input i on an output (0 none, 1 OFF, 2 ON), while its trip state is active. -/
def State.tripAct (s : State) (k : Nat) (x : Side) (i : Nat) : Nat :=
  if s.bit (PWM_STATUS_TRIPPED k) i then
    let cfg := (s.rd (PWM_TRIPCFG k)).toNat
    let a := match x with
      | .a => bitsOf (8 * i + 1) (8 * i) cfg
      | .b => bitsOf (8 * i + 3) (8 * i + 2) cfg
    if a == 3 then 0 else a
  else 0

/-- Some active trip state demands action a on output x. -/
def State.tripDemand (s : State) (k : Nat) (x : Side) (a : Nat) : Bool :=
  (List.range 4).any (fun i => s.tripAct k x i == a)

def other : Side → Side
  | .a => .b
  | .b => .a

/-- An ON on output x has passed its synchroniser (done) or is still in it (R94). -/
def State.tripSync (s : State) (k : Nat) (x : Side) (done : Bool) : Bool :=
  (List.range 4).any (fun i => s.tripAct k x i == 2 && decide (nth (s.pwmOf k).onAt i 0 ≤ s.cyc) == done)

/-- A trip holds output x off: OFF on x, ON on both outputs, or ON on its partner until the synchroniser has passed it; a trip
state with no action on x holds it no longer (R93–R96; DEDUCED, log entry 109). -/
def State.tripDead (s : State) (k : Nat) (x : Side) : Bool :=
  s.tripDemand k x 1 || (s.tripDemand k x 2 && s.tripDemand k (other x) 2) || s.tripSync k (other x) false

/-- A trip holds the reference of x at 1: ON on x that has passed its synchroniser and that no ON on the partner contradicts. -/
def State.tripOn (s : State) (k : Nat) (x : Side) : Bool := s.tripSync k x true && !s.tripDemand k (other x) 2

/-- Active trip states demand ON on both outputs (R95). -/
def State.tripConf (s : State) (k : Nat) : State :=
  if s.tripDemand k .a 2 && s.tripDemand k .b 2 then s.put (PWM_STATUS_TRIPCONF k) 1 else s

/-- The ON of trip input i, where its action is one, starts through the two-flop synchroniser of 2–3 control cycles (R94). -/
def State.tripArm (s : State) (k i : Nat) : State :=
  if s.tripAct k .a i == 2 || s.tripAct k .b i == 2 then
    let p := s.pwmOf k
    s.useFree.setPwm k { p with onAt := p.onAt.set i (s.cyc + (if s.freeBool then 3 else 2)) }
  else s

def forced (code : Nat) (raw : Bool) : Bool := if code == 1 then false else if code == 2 then true else raw

def State.pwmCompl (s : State) (k : Nat) : Bool := !s.is (PWM_CTRL_OUTMODE k)

/-- The reference in effect of output x: compare, then force, then trip. -/
def State.pwmRef (s : State) (k : Nat) (x : Side) : Bool :=
  let p := s.pwmOf k
  let a0 := forced (p.force % 4) p.a.raw
  let b0 := if s.pwmCompl k then !a0 else forced (p.force / 4 % 4) p.b.raw
  if !s.pwmRuns k || p.start then false
  else if s.tripOn k x then true
  else if s.pwmCompl k && s.tripOn k (other x) then false
  else match x with
    | .a => a0
    | .b => b0

/-! ### One output (R83–R85) -/

def PwmMod.out (p : PwmMod) : Side → PwmOut
  | .a => p.a
  | .b => p.b

def PwmMod.setOut (p : PwmMod) (x : Side) (o : PwmOut) : PwmMod :=
  match x with
  | .a => { p with a := o }
  | .b => { p with b := o }

def State.pwmO (s : State) (k : Nat) (x : Side) : PwmOut := (s.pwmOf k).out x

def State.setPwmO (s : State) (k : Nat) (x : Side) (o : PwmOut) : State := s.setPwm k ((s.pwmOf k).setOut x o)

def outFld (k : Nat) : Side → Fld
  | .a => PWM_STATUS_OUTA k
  | .b => PWM_STATUS_OUTB k

def dtOf (s : State) (k : Nat) : Side → Nat
  | .a => s.get (PWM_DT_EFF_DTA k)
  | .b => s.get (PWM_DT_EFF_DTB k)

def minFld (k : Nat) : Side → Fld
  | .a => PWM_STATUS_MIN_A k
  | .b => PWM_STATUS_MIN_B k

def dtsupFld (k : Nat) : Side → Fld
  | .a => PWM_STATUS_DTSUP_A k
  | .b => PWM_STATUS_DTSUP_B k

def sideNum : Side → Nat
  | .a => 0
  | .b => 1

/-- Output x turns off at instant t; a partner that waits in COMPL mode then knows its t_on (R83, R85). -/
def State.pwmTurnOff (s : State) (k : Nat) (x : Side) (t : Int) : State :=
  let s := s.put (outFld k x) 0
  let s := s.setPwmO k x { s.pwmO k x with hold := none, short := false, offAt := t }
  let y := other x
  let o := s.pwmO k y
  match o.rise with
  | some r =>
    if s.pwmCompl k && !s.is (outFld k y) then
      s.setPwmO k y { o with due := some (max (r + dtOf s k y) (t + dtOf s k y)) }
    else s
  | none => s

/-- The reference of output x falls at t (R83, R84). -/
def State.pwmFall (s : State) (k : Nat) (x : Side) (t : Int) : State :=
  let o := s.pwmO k x
  if s.is (outFld k x) then
    let s := s.setPwmO k x { o with ref := false, rise := none, due := none }
    match o.hold with
    | some h => if t < h then s else s.pwmTurnOff k x t
    | none => s.pwmTurnOff k x t
  else
    let s := s.setPwmO k x { o with ref := false, rise := none, due := none }
    match o.rise with
    | some _ =>
      let s := (s.inc (PWM_CNT0_DTSUP_CNT k)).put (dtsupFld k x) 1
      s.pwmEvent k 5 (some 0x04) (sideNum x)
    | none => s

/-- The reference of output x rises at t: its turn-on is due a dead time later, in COMPL mode no earlier than a dead time
after the partner's turn-off (R83). -/
def State.pwmRise (s : State) (k : Nat) (x : Side) (t : Int) : State :=
  let o := s.pwmO k x
  if s.is (outFld k x) then s.setPwmO k x { o with ref := true }
  else
    let y := other x
    let dt : Int := dtOf s k x
    let due :=
      if s.pwmCompl k then
        if s.is (outFld k y) then none else some (max (t + dt) ((s.pwmO k y).offAt + dt))
      else some (t + dt)
    s.setPwmO k x { o with ref := true, rise := some t, due := due }

/-- The minimum on-time of an output whose reference has fallen ends: it turns off, and the delay counts where the pulse was not
predicted short (R84). -/
def State.pwmHoldEnd (s : State) (k : Nat) (x : Side) (h : Int) : State :=
  let late := !(s.pwmO k x).short
  let s := s.pwmTurnOff k x h
  if late then
    let s := ((s.inc (PWM_CNT1_MINRND_CNT k)).put (minFld k x) 1).put (PWM_STATUS_MINLATE k) 1
    s.pwmEvent k 6 (some 0x06) (sideNum x)
  else s

/-- The trip's OFF, or a partner's ON, takes output x off at once and keeps it from turning on (R93, R94). -/
def State.pwmKill (s : State) (k : Nat) (x : Side) (t : Int) : State :=
  let s := if s.is (outFld k x) then s.pwmTurnOff k x t else s
  s.setPwmO k x { s.pwmO k x with rise := none, due := none, hold := none }

/-- Re-evaluate output x at t: a killed output follows no reference; a reference that is 1 when the output is released counts
as a rise (R96). -/
def State.pwmEval (s : State) (k : Nat) (x : Side) (fallsOnly : Bool) (t : Int) : State :=
  let o := s.pwmO k x
  let r := s.pwmRef k x
  if s.tripDead k x then
    let s := s.pwmKill k x t
    s.setPwmO k x { s.pwmO k x with ref := false }
  else if o.ref && !r then s.pwmFall k x t
  else if fallsOnly then s
  else if r && !o.ref then s.pwmRise k x t
  else s

/-- Both outputs follow a change of reference, force or trip at instant t: falls first. -/
def State.pwmApply (s : State) (k : Nat) (t : Int) : State :=
  let s := s.pwmEval k .a true t
  let s := s.pwmEval k .b true t
  let s := s.pwmEval k .a false t
  s.pwmEval k .b false t

/-- The predicted fall of the reference of x from the values in effect at t (R84); none: it does not fall. -/
def State.pwmPredFall (s : State) (k : Nat) (x : Side) (t : Int) : Option Int :=
  let p := s.pwmOf k
  let compl := s.pwmCompl k
  let fc := match x with
    | .a => p.force % 4
    | .b => if compl then p.force % 4 else p.force / 4 % 4
  if s.tripOn k x || fc == 1 || fc == 2 then none
  else
    let cmp := match x with
      | .a => s.get (PWM_CMPA_EFF_CMP k)
      | .b => if compl then s.get (PWM_CMPA_EFF_CMP k) else s.get (PWM_CMPB_EFF_CMP k)
    let pol := match x with
      | .a => s.is (PWM_CTRL_POLA k)
      | .b => if compl then !s.is (PWM_CTRL_POLA k) else s.is (PWM_CTRL_POLB k)
    let prd := s.pwmPrd k
    let z : Int := 16 * p.zero + p.fine
    let per : Int := 16 * (s.pwmPeriod k : Nat)
    if 16 * prd ≤ cmp then (if pol then some t else none)
    else if cmp == 0 then (if pol then none else some t)
    else
      let e : Int := if pol then (if s.pwmUpdn k then z + per - cmp else z + per) else z + cmp
      some (if e < t then e + per else e)

/-- t_on of output x: the turn-on under the minimum-pulse rule (R84). -/
def State.pwmTurnOn (s : State) (k : Nat) (x : Side) (t : Int) : State :=
  let o := s.pwmO k x
  let m := s.get (PWM_MINPW_EFF_MINPW k)
  let short := m != 0 && (match s.pwmPredFall k x t with
    | some p => decide (p - t < m)
    | none => false)
  if short && s.is (PWM_CTRL_MINPOL k) then
    let s := s.setPwmO k x { o with rise := none, due := none }
    let s := (s.inc (PWM_CNT1_MINSUP_CNT k)).put (minFld k x) 1
    s.pwmEvent k 6 (some 0x05) (sideNum x)
  else
    let hold := if m == 0 then none else some (t + m)
    let s := (s.setPwmO k x { o with rise := none, due := none, hold := hold, short := short }).put (outFld k x) 1
    if short then
      ((s.inc (PWM_CNT1_MINRND_CNT k)).put (minFld k x) 1).pwmEvent k 6 (some 0x06) (sideNum x)
    else s

/-! ### Boundaries (R87–R90) -/

/-- CMPA–CMPD transfer at zero boundaries: LOADMODE ZERO, BOTH or 0b11, or any in UP mode (R87). -/
def State.cmpAtZero (s : State) (k : Nat) : Bool := !s.pwmUpdn k || s.get (PWM_CTRL_LOADMODE k) != 1

def State.cmpAtPeak (s : State) (k : Nat) : Bool :=
  s.pwmUpdn k && (s.get (PWM_CTRL_LOADMODE k) == 1 || s.get (PWM_CTRL_LOADMODE k) == 2)

/-- The eight shadowed registers in offset order. -/
def pwmShadow (k : Nat) : Nat → Reg
  | 0 => PWM_PRD k
  | 1 => PWM_CMPA k
  | 2 => PWM_CMPB k
  | 3 => PWM_CMPC k
  | 4 => PWM_CMPD k
  | 5 => PWM_DT k
  | 6 => PWM_MINPW k
  | _ => PWM_PHASE k

def pwmInEffect (k : Nat) : Nat → Reg
  | 0 => PWM_PRD_EFF k
  | 1 => PWM_CMPA_EFF k
  | 2 => PWM_CMPB_EFF k
  | 3 => PWM_CMPC_EFF k
  | 4 => PWM_CMPD_EFF k
  | 5 => PWM_DT_EFF k
  | 6 => PWM_MINPW_EFF k
  | _ => PWM_PHASE_EFF k

/-- The shadows whose bit is set in the mask transfer to the values in effect. -/
def State.pwmTransfer (s : State) (k mask : Nat) : State :=
  (List.range 8).foldl (fun s i => if bitOf i mask then s.wr (pwmInEffect k i) (s.rd (pwmShadow k i)) else s) s

/-- PRD, DT, MINPW and PHASE in the transfer mask of R101. -/
def slowMask : Nat := 0xE1
/-- CMPA–CMPD in the transfer mask. -/
def cmpMask : Nat := 0x1E

/-- Bits 0–3 (PRD, DT, MINPW, PHASE) as a transfer mask. -/
def owedMask (o : Nat) : Nat := bitsOf 0 0 o + bitsOf 3 1 o * 0x20

/-- What a zero boundary transfers. -/
def State.zeroMask (s : State) (k : Nat) : Nat :=
  let full := slowMask + (if s.cmpAtZero k then cmpMask else 0)
  if (s.pwmOf k).start then 0xFF
  else if s.is (PWM_CTRL_CMTREQ k) then
    if s.is (PWM_STATUS_CMTPEND k) then full else owedMask (s.pwmOf k).owed
  else full

/-- What a peak boundary transfers. -/
def State.peakMask (s : State) (k : Nat) : Nat :=
  if s.cmpAtPeak k && (!s.is (PWM_CTRL_CMTREQ k) || s.is (PWM_STATUS_CMTPEND k)) then cmpMask else 0

def State.setCommit (s : State) (k : Nat) (b : Bool) : State :=
  (s.putB (PWM_STATUS_CMTPEND k) b).putFldBit PWMG_CMTSTAT_PEND k b

/-- The instant, in sixteenths, at which the period's counting began, with the shift of the fine part. -/
def State.pwmZ16 (s : State) (k : Nat) : Int := 16 * (s.pwmOf k).zero + (s.pwmOf k).fine

/-- The continuous value at an instant (R79), in sixteenths. -/
def State.pwmC16 (s : State) (k : Nat) (t : Int) : Nat :=
  let d := ((t - s.pwmZ16 k) % (16 * s.pwmPeriod k : Nat)).toNat
  if d ≤ 16 * s.pwmPrd k then d else 32 * s.pwmPrd k - d

def effCmp (s : State) (k : Nat) : Side → Nat
  | .a => s.get (PWM_CMPA_EFF_CMP k)
  | .b => s.get (PWM_CMPB_EFF_CMP k)

def polOf (s : State) (k : Nat) : Side → Bool
  | .a => s.is (PWM_CTRL_POLA k)
  | .b => s.is (PWM_CTRL_POLB k)

/-- The references take the levels that the compares in effect give at instant t, and follow. -/
def State.pwmLevels (s : State) (k : Nat) (t : Int) : State :=
  let c := s.pwmC16 k t
  let lev (x : Side) (o : PwmOut) : PwmOut :=
    { o with raw := cmpLevel (effCmp s k x) c (s.pwmPrd k) != polOf s k x, upTo := t }
  let p := s.pwmOf k
  (s.setPwm k { p with a := lev .a p.a, b := lev .b p.b }).pwmApply k t

/-- The compare of an output is used, and gives edges: 0 < X/16 < PRD (R80, R82). -/
def State.pwmHasEdges (s : State) (k : Nat) (x : Side) : Bool :=
  (match x with
   | .a => true
   | .b => !s.pwmCompl k)
  && effCmp s k x != 0 && decide (effCmp s k x < 16 * s.pwmPrd k)

/-- The edges of the compare near an instant, before POL: falling at X in the up half; rising at the zero boundary in UP mode and
at 2 PRD − X in UPDN mode, in the present period and its neighbours (R80, R98). -/
def State.pwmEdges (s : State) (k : Nat) (x : Side) : List (Int × Bool) :=
  let z := s.pwmZ16 k
  let per : Int := (16 * s.pwmPeriod k : Nat)
  let c : Int := effCmp s k x
  let up : Int := if s.pwmUpdn k then per - c else 0
  [(z - per + c, false), (z + c, false), (z + per + c, false), (z - per + up, true), (z + up, true), (z + per + up, true)]

/-- The first edge after an instant and before another. -/
def firstEdge (lo hi : Int) (l : List (Int × Bool)) : Option (Int × Bool) :=
  l.foldl (fun b e =>
    if lo < e.1 ∧ e.1 < hi then (match b with
      | some f => if e.1 < f.1 then some e else some f
      | none => some e)
    else b) none

/-- Output x takes the edges of its compare that lie before an instant, in this cycle: at most two. -/
def State.pwmTakeEdges (s : State) (k : Nat) (x : Side) (hi : Int) : Nat → State
  | 0 => s
  | n + 1 =>
    let o := s.pwmO k x
    match firstEdge (max o.upTo (s.now16 - 1)) hi (s.pwmEdges k x) with
    | some (t, r) => ((s.setPwmO k x { o with raw := r != polOf s k x, upTo := t }).pwmApply k t).pwmTakeEdges k x hi n
    | none => s

/-- Cycle-by-cycle trip states whose inputs are inactive end (R96). -/
def State.tripCycleEnd (s : State) (k : Nat) : State :=
  (List.range 4).foldl (fun s i =>
    if s.bit (PWM_STATUS_TRIPPED k) i && !bitOf (8 * i + 4) (s.rd (PWM_TRIPCFG k)).toNat && !s.tripIn k i then
      s.putFldBit (PWM_STATUS_TRIPPED k) i false
    else s) s

/-- A pulse on SYNCO of module k reaches the next module, and those behind a module that passes it through, one cycle later
(R97). n modules may follow. -/
def State.synco (s : State) (k : Nat) : Nat → State
  | 0 => s
  | n + 1 =>
    let s := s.setPwm (k + 1) { s.pwmOf (k + 1) with syncAt := some (s.cyc + 1) }
    if s.get (PWM_CTRL_SYNCOSEL (k + 1)) == 3 then s.synco (k + 1) n else s

/-- Module k emits on SYNCO where SYNCOSEL selects the boundary: 1 zero, 2 peak. -/
def State.syncEmit (s : State) (k sel : Nat) : State :=
  if s.get (PWM_CTRL_SYNCOSEL k) == sel then s.synco k (31 - k) else s

/-- What a zero boundary, and the jump of R99, do: shadows transfer, cycle-by-cycle trips end, references take the levels that
the counter gives, and ZRO and SYNCO are emitted. A jump that leaves the counter counting down keeps its value under a new PRD. -/
def State.pwmZero (s : State) (k : Nat) (jump : Bool) : State :=
  let t := s.now16 + (if jump then 0 else max 0 (s.pwmOf k).fine)
  let s := if jump then s else (s.pwmTakeEdges k .a t 2).pwmTakeEdges k .b t 2
  let down := jump && s.pwmDown k
  let cnt := s.pwmCount k
  let mask := s.zeroMask k
  let s := s.pwmTransfer k mask
  let consumed := (s.pwmOf k).start || (s.is (PWM_CTRL_CMTREQ k) && s.is (PWM_STATUS_CMTPEND k))
  let s := if consumed then s.setCommit k false else s
  let p := s.pwmOf k
  let zero : Int := if down then (s.cyc : Int) - (2 * s.pwmPrd k - min cnt (s.pwmPrd k) : Nat) else p.zero
  let s := s.setPwm k { p with start := false, owed := 0, zero := zero, lastZero := some s.cyc,
                               tripPer := s.get (PWM_STATUS_TRIPPED k) != 0 }
  let s := s.tripCycleEnd k
  let s := s.pwmLevels k t
  let s := s.pwmEvent k 0 (some 0x01) mask
  (s.syncEmit k 1).ceEventSets (pwmEvCode k 0)

/-- The zero boundary of the present cycle, where it has not happened yet: the first of a start, and those after it
(R87, R90, R96). -/
def State.pwmZeroBoundary (s : State) (k : Nat) : State :=
  if s.ticking && s.pwmAtZero k && (s.pwmOf k).lastZero != some s.cyc then
    (s.setPwm k { s.pwmOf k with zero := s.cyc }).pwmZero k false
  else s

/-- The peak boundary: compare shadows transfer as LOADMODE and CMTREQ allow (R87, R89). -/
def State.pwmPeakBoundary (s : State) (k : Nat) : State :=
  if s.ticking && s.pwmAtPeak k && (s.pwmOf k).lastPeak != some s.cyc then
    let t := s.now16 + max 0 (s.pwmOf k).fine
    let s := (s.pwmTakeEdges k .a t 2).pwmTakeEdges k .b t 2
    let mask := s.peakMask k
    let consumed := s.is (PWM_CTRL_CMTREQ k) && mask != 0
    let s := s.pwmTransfer k mask
    let p := s.pwmOf k
    let s := if consumed then (s.setPwm k { p with owed := p.cmtMask }).setCommit k false else s
    let s := s.setPwm k { s.pwmOf k with lastPeak := some s.cyc }
    let s := s.pwmLevels k t
    let s := s.pwmEvent k 1 (some 0x02) mask
    (s.syncEmit k 2).ceEventSets (pwmEvCode k 1)
  else s

/-- The boundaries of the present cycle come before what lands in it (R88). -/
def State.pwmBoundary (s : State) (k : Nat) : State := (s.pwmZeroBoundary k).pwmPeakBoundary k

/-- A shadow or commit write landing in the current cycle lands in a boundary cycle at which shadow i (none: the commit)
transfers: a zero or peak boundary, the start, or a jump (R88–R90, R99). -/
def State.pwmLate (s : State) (k : Nat) (i : Option Nat) : Bool :=
  let p := s.pwmOf k
  let zero := s.pwmAtZero k || (s.pwmRuns k && p.jump == some s.cyc)
  let start := s.pwmRuns k && p.first == some s.cyc
  match i with
  | none => start || zero || (s.pwmAtPeak k && s.cmpAtPeak k)
  | some i =>
    start || (if bitOf i cmpMask then (zero && s.cmpAtZero k) || (s.pwmAtPeak k && s.cmpAtPeak k) else zero)

/-- STATUS.LATE_WR, LATE_CNT and the LATE event. -/
def State.pwmSetLate (s : State) (k data : Nat) : State :=
  ((s.put (PWM_STATUS_LATE_WR k) 1).inc (PWM_CNT0_LATE_CNT k)).pwmEvent k 4 (some 0x03) data

/-- Trip input i of module k becomes active: its trip state begins (R92–R95). -/
def State.tripStart (s : State) (k i : Nat) : State :=
  if s.tripIn k i && !s.bit (PWM_STATUS_TRIPPED k) i then
    let s := ((s.putFldBit (PWM_STATUS_TRIPPED k) i true).tripArm k i).tripConf k
    let s := s.pwmApply k s.now16
    if s.pwmRuns k then s.pwmEvent k 7 none 0 else s
  else s

/-- An ON of a trip whose synchroniser has been passed in this cycle takes the reference (R94). -/
def State.tripOnDue (s : State) (k : Nat) : State :=
  if (List.range 4).any (fun i => s.bit (PWM_STATUS_TRIPPED k) i && nth (s.pwmOf k).onAt i 0 == s.cyc) then s.pwmApply k s.now16
  else s

/-- A write to PWMk_TRIPCFG: actions of active trip states change at once, and an ON that it makes active passes the synchroniser
(R94, R95). -/
def State.tripCfgWrite (s : State) (k : Nat) (v : Word) : State :=
  let on (s : State) (i : Nat) : Bool := s.tripAct k .a i == 2 || s.tripAct k .b i == 2
  let s' := s.wr (PWM_TRIPCFG k) (v &&& 0x1F1F1F1F)
  let s' := (List.range 4).foldl (fun t i => if on s' i && !on s i then t.tripArm k i else t) s'
  (s'.tripConf k).pwmApply k s.now16

/-- Every trip input that is active and has no trip state yet begins one: the effect of a routing write (R191). -/
def State.tripScan (s : State) : State :=
  (List.range 128).foldl (fun s i => s.tripStart (i / 4) (i % 4)) s

/-- RUN changes from 1 to 0: the counter holds 0 and both outputs turn off at the start of the next cycle without
minimum-pulse extension (R86). -/
def State.pwmStop (s : State) (k : Nat) : State :=
  let s := s.put (PWM_CTRL_RUN k) 0
  let t := s.now16 + 16
  let s := s.pwmKill k .a t
  let s := s.pwmKill k .b t
  let p := s.pwmOf k
  s.setPwm k { p with start := false, a := { p.a with raw := false, ref := false }, b := { p.b with raw := false, ref := false } }

/-- A stopped module is started: its first zero boundary is the first control cycle of the next tick (R90). -/
def State.pwmStart (s : State) (k : Nat) : State :=
  if s.pwmRuns k then s
  else
    let s := s.put (PWM_CTRL_RUN k) 1
    let c := 4 * (s.tick + 1)
    s.setPwm k { s.pwmOf k with zero := c, fine := 0, start := true, first := some c, lastZero := none, lastPeak := none,
                                jump := none, cmpcAt := none, cmpdAt := none }

/-- PWMk_FORCE is written: it takes effect at the first cycle of the next tick (R91). -/
def State.pwmForceWrite (s : State) (k : Nat) (v : Word) : State :=
  let s := s.wr (PWM_FORCE k) (v &&& 0xF)
  s.setPwm k { s.pwmOf k with forceAt := some (4 * (s.tick + 1)) }

/-- A force whose cycle has come takes effect. -/
def State.pwmForceDue (s : State) (k : Nat) : State :=
  match (s.pwmOf k).forceAt with
  | some c =>
    if c ≤ s.cyc then
      let s := s.setPwm k { s.pwmOf k with forceAt := none, force := (s.rd (PWM_FORCE k)).toNat % 16 }
      if s.pwmRuns k then s.pwmApply k s.now16 else s
    else s
  | none => s

end Sys2Proof.Machine
end

