-- ==== Sys2Proof/Machine/GateOps.lean ====
section
/-! DEFINITION. The gate-command stage and the gate drivers: command selection, forced states, edge profiles, and the
reaction groups (R105–R147). -/

namespace Sys2Proof.Machine

def State.gate (s : State) (g : Nat) : GateCh := nth s.gates g GateCh.idle
def State.setGate (s : State) (g : Nat) (c : GateCh) : State := s.setGates (s.gates.set g c)
def State.scgOf (s : State) (n : Nat) : Scg := nth s.scg n Scg.idle
def State.setScg (s : State) (n : Nat) (c : Scg) : State := s.setScgs (s.scg.set n c)

/-- Isolated channels are GC00–GC41. -/
def isolated (g : Nat) : Bool := decide (g < 42)

/-- The enable group of a channel: 0 GA, 1 GB, 2 GC, 3 GL; its domain is D9 plus this (R284). -/
def gateGroup (g : Nat) : Nat := if g < 12 then 0 else if g < 24 then 1 else if g < 42 then 2 else 3

/-- The channel is populated (R5, R6). -/
def State.gatePopulated (s : State) (g : Nat) : Bool := s.order == .da || decide (g < 12) || decide (24 ≤ g)

/-- The channel's driver is supplied: its bias group, or D12, is on. -/
def State.gatePowered (s : State) (g : Nat) : Bool := s.isOn (9 + gateGroup g) && s.gatePopulated g

/-! ### Command at the gate-command stage (R20, R21, R106–R108) -/

def sideOf (g : Nat) : Side := if g % 2 == 0 then .a else .b

/-- The command of the channel's selected input (R106); a line from an unpowered control die is off (R20). The trip gate holds a
GIN source off as it does a PWM output, and for its own ON. -/
def State.selected (s : State) (g : Nat) : Bool :=
  let k := g / 2
  if !s.isOn 6 then false
  else if s.is (GD_CFG_INSEL g) then
    (s.gate g).gin && !(s.tripDead k (sideOf g) || s.tripDemand k (sideOf g) 2)
  else s.is (outFld k (sideOf g))

/-- The legs of a running diagnostic run are held off (R149, R150). -/
def State.osdHolds (s : State) (g : Nat) : Bool :=
  s.is GDG_OSDSTAT_BUSY && (s.bit GDG_OSDLEGS_LEGS (g / 2) || s.osd.doms.contains (9 + gateGroup g))

/-- The reaction group of a module: the lowest-numbered that names it (R142). -/
def State.scgOfModule (s : State) (k : Nat) : Option Nat := (List.range 8).find? (fun n => s.bit (SCG_MEMB_MEMB n) k)

/-- Badger's forced state on a channel: forced-off before forced-ASC, which the reaction group's state combines with
(R21, R147). -/
def State.forcedCmd (s : State) (g : Nat) : Option Bool :=
  let gr := gateGroup g
  let asc := (gr == 0 && s.is HSM_STATUS_ASC_A) || (gr == 1 && s.is HSM_STATUS_ASC_B)
  if s.bit HSM_STATUS_FOFF gr then some false
  else if asc then
    let st := match s.scgOfModule (g / 2) with
      | some n => s.get (SCG_STAT_STATE n)
      | none => 0
    let high := g % 2 == 0
    if st == 3 then some false
    else if st == 1 then some high
    else if st == 2 then some !high
    else some (bitOf 9 (s.get HSM_CFG_SAFECFG) == high)
  else none

/-! ### Profiles in effect (R114, R120) -/

def profFld (g : Nat) (on : Bool) : Reg := if on then GD_PROFILE_ON_EFF g else GD_PROFILE_OFF_EFF g
def loopEn (g : Nat) (on : Bool) : Fld := if on then GD_LOOP_EN_ON g else GD_LOOP_EN_OFF g
def nFld (g : Nat) (on : Bool) : Fld := if on then GD_LOOPSTAT_N_ON g else GD_LOOPSTAT_N_OFF g
def runFld (g : Nat) (on : Bool) : Fld := if on then GD_LOOPSTAT_RUN_ON g else GD_LOOPSTAT_RUN_OFF g

/-- NMIN above NMAX acts as NMAX. -/
def State.nMin (s : State) (g : Nat) : Nat := min (s.get (GD_LOOP_NMIN g)) (s.get (GD_LOOP_NMAX g))

/-- The loop's count is in effect in a direction: the loop is enabled, and the edge that R114 names has come (R120). -/
def State.loopUp (s : State) (g : Nat) (on : Bool) : Bool :=
  s.is (loopEn g on) && (if on then (s.gate g).loopOn else (s.gate g).loopOff)

/-- The profile in effect: the value taken last, with the loop's count as PLAT_N (R114). -/
def State.profEff (s : State) (g : Nat) (on : Bool) : Nat :=
  let p := (s.rd (profFld g on)).toNat
  if s.loopUp g on then putBits 15 14 p (s.get (nFld g on)) else p

/-- The writes of a profile that landed at least 100 ns (40 instants) before take effect at an edge; a reload sets the loop's
count from PLAT_N. -/
def State.takeProfile (s : State) (g : Nat) (on : Bool) : State :=
  let c := s.gate g
  let sh := if on then c.shOn else c.shOff
  let due := sh.filter (fun e => decide (e.1 + 40 ≤ s.now))
  let rest := sh.filter (fun e => !decide (e.1 + 40 ≤ s.now))
  let s := s.setGate g (if on then { c with shOn := rest } else { c with shOff := rest })
  let s := match due.getLast? with
    | some e => s.wr (profFld g on) e.2.1
    | none => s
  if due.any (fun e => e.2.2) && s.is (loopEn g on) then
    let n := max (s.nMin g) (min (s.get (GD_LOOP_NMAX g)) (bitsOf 15 14 (s.rd (profFld g on)).toNat))
    let s := s.setGate g (if on then { s.gate g with loopOn := true } else { s.gate g with loopOff := true })
    (s.put (nFld g on) n).put (runFld g on) 0
  else s

/-- The first phase of a profile after phase p whose duration is not 0; 4 is the 10 ns of R112 and 0 the hold state. -/
def nextPhase (prof p : Nat) : Nat :=
  if p < 1 && bitsOf 5 0 prof != 0 then 1
  else if p < 2 && bitsOf 13 8 prof != 0 then 2
  else if p < 3 && bitsOf 21 16 prof != 0 then 3
  else if p == 0 then 4
  else 0

/-- Active segments in a phase: the profile's, four in the 10 ns of R112, and one in the hold state. -/
def phaseSegs (prof p : Nat) : Nat :=
  if p == 1 then bitsOf 7 6 prof + 1
  else if p == 2 then bitsOf 15 14 prof + 1
  else if p == 3 then bitsOf 23 22 prof + 1
  else if p == 4 then 4
  else 1

/-- A phase's duration in units of 10 ns. -/
def phaseTime (prof p : Nat) : Nat :=
  if p == 1 then bitsOf 5 0 prof else if p == 2 then bitsOf 13 8 prof else if p == 3 then bitsOf 21 16 prof else 1

/-- A phase begins. -/
def State.setPhase (s : State) (g p : Nat) : State :=
  let c := s.gate g
  s.setGate g { c with phase := p, phaseAt := s.now, segs := phaseSegs c.prof.toNat p }

/-! ### Edges (R111–R117) -/

def edgeReg (g : Nat) (on : Bool) : Reg := if on then GD_EDGE_ON g else GD_EDGE_OFF g

/-- An edge is reported invalid with a cause; DVDT and T2080 of such an edge are values the spec leaves open. -/
def State.edgeInvalid (s : State) (g : Nat) (on : Bool) (n cause : Nat) : State :=
  let v := s.freeNat % 2 ^ 26
  let s := s.useFree
  let s := s.wr (edgeReg g on) (BitVec.ofNat 32 (cause * 2 ^ 28 + n * 2 ^ 26 + bitsOf 25 16 v * 2 ^ 16 + bitsOf 11 0 v))
  s.inc (GD_CNT1_INVAL_CNT g)

/-- A command reversal while an edge's profile runs abandons it: its report is invalid, also where it was measured before
(R113, R117). -/
def State.edgeAbandon (s : State) (g : Nat) (on : Bool) : State :=
  let c := s.gate g
  if 1 ≤ c.phase ∧ c.phase ≤ 3 then
    let s := s.setGate g (if on then { c with monOn := none } else { c with monOff := none })
    s.edgeInvalid g on (bitsOf 15 14 c.prof.toNat) 3
  else s

/-- A fault or a forced state during an edge under measurement makes it invalid (R117). -/
def State.edgeSpoil (s : State) (g : Nat) : State :=
  let c := s.gate g
  let sp (m : Option (Nat × Bool)) : Option (Nat × Bool) := match m with
    | some (n, _) => some (n, true)
    | none => none
  s.setGate g { c with monOn := sp c.monOn, monOff := sp c.monOff }

/-- The level of the state that a command edge leaves is stored where that state lasted at least 300 ns (R115). -/
def State.storeLevel (s : State) (g : Nat) (on : Bool) (level : Nat) : State :=
  let c := s.gate g
  if c.gateAt + 120 ≤ s.now then
    if on then (s.setGate g { c with levOff := true }).put (GD_LEVELS_VOFF g) level
    else (s.setGate g { c with levOn := true }).put (GD_LEVELS_VON g) level
  else s

/-- An edge of an isolated channel starts: the opposite edge is abandoned if it still runs, the level is stored, and the
profile in effect starts from its pre-threshold phase (R111, R113). -/
def State.edgeStart (s : State) (g : Nat) (on : Bool) (level : Nat) : State :=
  let s := s.edgeAbandon g (!on)
  let s := s.storeLevel g on level
  let s := s.takeProfile g on
  let p := s.profEff g on
  let n := bitsOf 15 14 p
  let bad := s.is (GD_STATUS_FORCED g) || s.gateHeld g
  let c := s.gate g
  let c := { c with prof := BitVec.ofNat 32 p, gateAt := s.now }
  let c := if on then { c with monOn := some (n, bad), didt := false, dsat := false } else { c with monOff := some (n, bad) }
  let s := ((s.setGate g c).setPhase g (nextPhase p 0)).putB (GD_STATUS_GATE g) on
  if on then s.put (GD_PFLT_MCLAMP g) 0 else s

/-! ### Driver (R109, R110, R113, R126–R128, R136, R137) -/

/-- The driver's output of an isolated channel follows a change of its received command; the output turns on only at a rising
edge, and neither a held fault nor a soft turn-off lets it. -/
def State.driveIso (s : State) (g : Nat) (rx : Bool) (level : Nat) : State :=
  if rx then
    if s.gateHeld g || s.is (GD_PFLT_SOFTACT g) then s else s.edgeStart g true level
  else if s.is (GD_STATUS_GATE g) then s.edgeStart g false level
  else s

/-- The high-side output of a bootstrap channel: off while BUV holds and during a refresh; a falling command ends the refresh
after its step, and a rise does not turn the output on before it has ended (R127, R128). -/
def State.driveHigh (s : State) (g : Nat) (rx : Bool) : State :=
  if rx then
    if s.is (GD_STATUS_BUV g) || (s.gate g).refresh != 0 then s
    else (s.setGate g { s.gate g with gateAt := s.now }).put (GD_STATUS_GATE g) 1
  else
    let s := if (s.gate g).refresh != 0 then s.setGate g { s.gate g with refEnd := true } else s
    s.put (GD_STATUS_GATE g) 0

/-- RF_GUARD in instants. -/
def State.rfGuard (s : State) (g : Nat) : Nat := 4 * s.get (GD_BOOT_RF_GUARD g)

/-- The low side follows its command, held on under BUV with BUV_LSON once RF_GUARD has passed, and for the pulse of a refresh
(R126, R128). -/
def State.driveLow (s : State) (g : Nat) (rx : Bool) : State :=
  let h := g - 1
  let c := s.gate h
  let free := s.forcedCmd g != some false && s.gatePowered g
  let hold := s.is (GD_STATUS_BUV h) && s.is (GD_BOOT_BUV_LSON h) && decide (c.buvAt + s.rfGuard h ≤ s.now)
  s.putB (GD_STATUS_GATE g) (rx || (free && (hold || c.refresh == 2)))

/-- The command after Badger's forced states reaches the driver, which follows its changes. -/
def State.gateFollow (s : State) (g level : Nat) : State :=
  let f := s.forcedCmd g
  let s := s.putB (GD_STATUS_FORCED g) f.isSome
  let s := if f.isSome then s.edgeSpoil g else s
  let eff := f.getD (s.is (GD_STATUS_CMD g))
  let c := s.gate g
  let s := if c.eff == eff then s else s.setGate g { c with eff := eff, effAt := s.now }
  let s :=
    if (s.gate g).refresh != 0 && f == some false then
      ((s.setGate g { s.gate g with refresh := 0 }).put (GD_STATUS_RFACT g) 0).put (GD_STATUS_GATE g) 0
    else s
  let rx := eff && s.gatePowered g && (!isolated g || (s.is (GD_STATUS_BIASOK g) && !(s.gate g).link))
  let was := (s.gate g).drv
  let s := if rx == was then s else s.setGate g { s.gate g with drv := rx, drvAt := s.now }
  if isolated g then (if rx == was then s else s.driveIso g rx level)
  else if g % 2 == 0 then (if rx == was then s else s.driveHigh g rx)
  else s.driveLow g rx

/-- Every channel follows its forced state; the sampled levels are values the spec leaves open. -/
def State.gatesFollow (s : State) : State :=
  (List.range 64).foldl (fun s g => (s.gateFollow g (s.freeNat % 1024)).useFree) s

/-- The pair interlock acts on a rising command of channel g: it is refused while the partner's command is on, and where the
partner rises less than 1 ns apart both are refused (R108). -/
def State.ilkRefuse (s : State) (g : Nat) : State :=
  let s := s.setGate g { s.gate g with refused := true }
  let s := (s.put (GD_STATUS_ILKREF g) 1).inc (GD_CNT0_ILK_CNT g)
  s.log 6 g 0x03

def partner (g : Nat) : Nat := if g % 2 == 0 then g + 1 else g - 1

/-- The command that the channel enable passes (R107, R149, R150). -/
def State.enabled (s : State) (g : Nat) : Bool :=
  s.selected g && s.is (GD_CFG_CH_EN g) && !s.osdHolds g && s.gatePopulated g

/-- An on-command has passed the pulse filter: the interlock, forced states and the driver (R107, R108). -/
def State.gateOn (s : State) (g : Nat) (near : Bool) (level : Nat) : State :=
  let s := s.setGate g { s.gate g with inp := true, rise := none }
  if s.is (GD_CFG_ILK_EN (g / 2 * 2)) && (near || s.is (GD_STATUS_CMD (partner g))) then s.ilkRefuse g
  else (s.put (GD_STATUS_CMD g) 1).gateFollow g level

/-- A command edge: channel enable, pulse filter, interlock, forced states and driver (R107). short: the interval that an
on-command opens is shorter than 10 ns, which removes it; an on-command less than 10 ns after a fall waits. near: the partner's
command rises less than 1 ns apart; level: the mean of the last four VSNS samples. -/
def State.gateCommand (s : State) (g : Nat) (short near : Bool) (level : Nat) : State :=
  let cmd := s.enabled g
  let c := s.gate g
  if cmd && !c.inp then
    if short then s
    else match c.fallAt with
      | some t => if s.now < t + 4 then s.setGate g { c with rise := some (t + 4, near) } else s.gateOn g near level
      | none => s.gateOn g near level
  else if !cmd && c.inp then
    let s := s.setGate g { c with inp := false, refused := false, fallAt := some s.now }
    (s.put (GD_STATUS_CMD g) 0).gateFollow g level
  else if !cmd then s.setGate g { c with rise := none }
  else s

/-- A waiting on-command whose off-interval has lasted 10 ns is taken, if it still stands; a command that a trip, the channel
enable or a diagnostic run has ended falls (R107). -/
def State.gateDue (s : State) (g : Nat) : State :=
  let c := s.gate g
  match c.rise with
  | some (t, near) =>
    if !s.enabled g then s.setGate g { c with rise := none }
    else if t ≤ s.now then (s.gateOn g near (s.freeNat % 1024)).useFree
    else s
  | none => if c.inp && !s.enabled g then (s.gateCommand g false false (s.freeNat % 1024)).useFree else s

/-- GINFLT in instants: the time for which a pad holds its level before it passes (R106). -/
def State.ginHold (s : State) (g : Nat) : Nat := nth [0, 8, 20, 40] (s.get (GD_CFG_GINFLT g)) 0

/-- A pad level that has been held passes the filter toward the gate-command stage (R106). -/
def State.ginPass (s : State) (g : Nat) (short : Bool) (level : Nat) : State :=
  let c := s.gate g
  if c.pad != c.gin && decide (c.padAt + s.ginHold g ≤ s.now) then
    let s := s.setGate g { c with gin := c.pad }
    if s.is (GD_CFG_INSEL g) then s.gateCommand g short c.padNear level else s
  else s

/-! ### Bias rails (R121, R140) -/

/-- The rails that a code of BIAS selects: row 0, 1 or 2 of R140's table; 0b11 acts as 0b00. -/
def posRail (c : GateCh) : Nat := bitsOf 1 0 c.rails % 3
def negRail (c : GateCh) : Nat := bitsOf 3 2 c.rails % 3

/-- A rail's undervoltage and its release, in microvolts against KS (R140). -/
def railBad (c : GateCh) (neg : Bool) (v : Int) : Bool :=
  if neg then decide (nth [-1000000, -1500000, -2500000] (negRail c) 0 < v)
  else decide (v < nth [12000000, 14500000, 16000000] (posRail c) 0)

def railGood (c : GateCh) (neg : Bool) (v : Int) : Bool :=
  if neg then decide (v < nth [-1500000, -2250000, -3750000] (negRail c) 0)
  else decide (nth [12800000, 15300000, 16800000] (posRail c) 0 < v)

/-! ### Reaction groups (R142–R146) -/

/-- A channel compromises its side: DIDT or DSAT, or UVP (with NUV_ACT also UVN) when UV_SRC is set. -/
def State.compromises (s : State) (n g : Nat) : Bool :=
  s.is (GD_PFLT_DIDT g) || s.is (GD_PFLT_DSAT g)
  || (s.is (SCG_CFG_UV_SRC n) && (s.is (GD_PFLT_UVP g) || (s.is (GD_PFLT_UVN g) && s.is (GD_PROT_NUV_ACT g))))

def State.sideBad (s : State) (n side : Nat) : Bool :=
  (List.range 32).any (fun k => decide (k < 21) && s.scgOfModule k == some n && s.compromises n (2 * k + side))

def State.scgSides (s : State) (n : Nat) : State :=
  (s.putB (SCG_STAT_HIC n) (s.sideBad n 0)).putB (SCG_STAT_LOC n) (s.sideBad n 1)

/-- The lines that group n asserts in its state, SCGn_HI and SCGn_LO: none with REACT = 0 (R143). -/
def State.scgHi (s : State) (n : Nat) : Bool :=
  s.get (SCG_CFG_REACT n) != 0 && bitOf 0 (s.get (SCG_STAT_STATE n))
def State.scgLo (s : State) (n : Nat) : Bool :=
  s.get (SCG_CFG_REACT n) != 0 && bitOf 1 (s.get (SCG_STAT_STATE n))

/-- The lines of group n reach Fox: bit 2n SCGn_HI, bit 2n + 1 SCGn_LO. -/
def State.scgLines (s : State) (n : Nat) : State :=
  let l := putBit (2 * n + 1) (putBit (2 * n) s.fox.scg (s.scgHi n)) (s.scgLo n)
  if l == s.fox.scg then s else (s.setFox { s.fox with scg := l }).tripScan.gatesFollow

/-- Each change of state logs TYPE 0x14 at level 3; one that a fault caused, directly after that fault's record (R146). -/
def State.scgLog (s : State) (n index st place : Nat) : State :=
  s.log 3 index 0x14 [BitVec.ofNat 8 (n + st * 16)] (place := place)

/-- The target of R143 for the compromised sides. -/
def scgTarget (react : Nat) (hi lo : Bool) : Nat :=
  if react == 0 then 0
  else if react != 1 then (if hi || lo then 3 else 0)
  else if hi && lo then 3 else if lo then 1 else if hi then 2 else 0

/-- The lowest channel that compromises a side of group n. -/
def State.scgCulprit (s : State) (n : Nat) : Nat :=
  ((List.range 42).find? (fun g => s.scgOfModule (g / 2) == some n && s.compromises n g)).getD 0

/-- Faults sampled in one tick are evaluated together: where the fault of channel g comes before the one that changed the group
in this tick, the change is its own (R143, R68). -/
def State.scgEarlier (s : State) (n g place : Nat) : State :=
  let x := s.scgOf n
  if x.stamp == s.timebase && decide (place < x.place) then
    let q := s.evl.queue.map (fun (e : EvEntry) =>
      if e.stamp == x.stamp && e.place == x.place && e.typ == 0x14 then { e with index := g, place := place } else e)
    let s := (s.setEvl { s.evl with queue := q }).setScg n { x with place := place, chan := g }
    if x.wasIdle then s.put (SCG_STAT_FIRST n) g else s
  else s

/-- A group evaluates its compromised sides. cause: the channel of the fault just latched and the place of the change's record,
none where a register write or a clear caused it (R143, R144). -/
def State.scgEval (s : State) (n : Nat) (cause : Option (Nat × Nat)) : State :=
  let s := s.scgSides n
  let x := s.scgOf n
  let g := (cause.map Prod.fst).getD (s.scgCulprit n)
  let place := (cause.map Prod.snd).getD (evPlace 3 g 0x14)
  let t := scgTarget (s.get (SCG_CFG_REACT n)) (s.is (SCG_STAT_HIC n)) (s.is (SCG_STAT_LOC n))
  let s := if cause.isSome then s.scgEarlier n g place else s
  let s :=
    if t == 0 || t == x.target || x.target == 3 then s
    else
      let st := s.get (SCG_STAT_STATE n)
      let s := if st == 0 then s.put (SCG_STAT_FIRST n) g else s
      let y := s.scgOf n
      let s := s.setScg n (if t == 3 then { y with target := 3 } else { y with target := t, chan := g, dlyAt := s.now })
      let s := (s.put (SCG_STAT_STATE n) 3).putB (SCG_STAT_DLY n) (t != 3)
      if st == 3 then s
      else (s.setScg n { s.scgOf n with stamp := s.timebase, place := place, wasIdle := st == 0 }).scgLog n g 3 place
  s.scgLines n

/-- The group of a channel evaluates the fault just latched on it. -/
def State.scgReact (s : State) (g level typ : Nat) : State :=
  match s.scgOfModule (g / 2) with
  | none => s
  | some n => s.scgEval n (some (g, evPlace level g typ + 1))

/-- Every group evaluates. -/
def State.scgAll (s : State) : State := (List.range 8).foldl (fun s n => s.scgEval n none) s

/-- ASC_DLY in instants: 20 ns units, codes 50–200. -/
def State.ascDly (s : State) (n : Nat) : Nat := 8 * max 50 (min 200 (s.get (SCG_CFG_ASC_DLY n)))

end Sys2Proof.Machine
end

