-- ==== Sys2Proof/Machine/Aes.lean ====
section
/-! DEFINITION. AES-CMAC-128, the tag of KCP and ASL frames, and the key derivation of a session (R357, R361).
PRESUMED: AES-128 follows FIPS 197 and CMAC follows NIST SP 800-38B, the standards that the spec names (log entry 6). -/

namespace Sys2Proof.Machine

/-- Doubling in GF(2^8) with the polynomial of AES. -/
def gfDouble (a : Nat) : Nat := if 128 ≤ a then (2 * a) ^^^ 0x11B else 2 * a

/-- The product in GF(2^8), over the low n bits of b. -/
def gfMulAux : Nat → Nat → Nat → Nat
  | 0, _, _ => 0
  | n + 1, a, b => (if b % 2 == 1 then a else 0) ^^^ gfMulAux n (gfDouble a) (b / 2)

def gfMul (a b : Nat) : Nat := gfMulAux 8 a b

/-- The inverse a^254, 0 for 0. -/
def gfInv (a : Nat) : Nat :=
  let a2 := gfMul a a
  let a3 := gfMul a2 a
  let a6 := gfMul a3 a3
  let a12 := gfMul a6 a6
  let a15 := gfMul a12 a3
  let a30 := gfMul a15 a15
  let a60 := gfMul a30 a30
  let a120 := gfMul a60 a60
  let a126 := gfMul a120 a6
  let a127 := gfMul a126 a
  gfMul a127 a127

def rot8 (b n : Nat) : Nat := (b * 2 ^ n) % 256 + b / 2 ^ (8 - n)

/-- The S-box. -/
def sbox (a : Nat) : Nat :=
  let b := gfInv a
  b ^^^ rot8 b 1 ^^^ rot8 b 2 ^^^ rot8 b 3 ^^^ rot8 b 4 ^^^ 0x63

def xorList (a b : List Nat) : List Nat := List.zipWith (fun x y => x ^^^ y) a b

/-- The next round key from the last, with round constant rc. -/
def nextKey (k : List Nat) (rc : Nat) : List Nat :=
  let w3 := k.drop 12
  let t := xorList ((w3.drop 1 ++ w3.take 1).map sbox) [rc, 0, 0, 0]
  let w0 := xorList (k.take 4) t
  let w1 := xorList ((k.drop 4).take 4) w0
  let w2 := xorList ((k.drop 8).take 4) w1
  w0 ++ w1 ++ w2 ++ xorList w3 w2

/-- Byte r + 4c of the shifted state is byte r + 4(c + r). -/
def shiftRows (s : List Nat) : List Nat := (List.range 16).map (fun i => nth s ((i + 4 * (i % 4)) % 16) 0)

def mixColumn : List Nat → List Nat
  | [a, b, c, d] =>
    [gfMul 2 a ^^^ gfMul 3 b ^^^ c ^^^ d, a ^^^ gfMul 2 b ^^^ gfMul 3 c ^^^ d,
     a ^^^ b ^^^ gfMul 2 c ^^^ gfMul 3 d, gfMul 3 a ^^^ b ^^^ c ^^^ gfMul 2 d]
  | l => l

def mixColumns (s : List Nat) : List Nat :=
  mixColumn (s.take 4) ++ mixColumn ((s.drop 4).take 4) ++ mixColumn ((s.drop 8).take 4) ++ mixColumn (s.drop 12)

/-- The rounds of AES-128 over the remaining round constants; the last has no MixColumns. -/
def aesRounds : List Nat → List Nat → List Nat → List Nat
  | [], _, s => s
  | rc :: t, k, s =>
    let k := nextKey k rc
    let x := shiftRows (s.map sbox)
    aesRounds t k (xorList (if t.isEmpty then x else mixColumns x) k)

/-- AES-128 of one block. -/
def aes128 (key blk : List Nat) : List Nat :=
  aesRounds [1, 2, 4, 8, 16, 32, 64, 128, 0x1B, 0x36] key (xorList blk key)

/-- A subkey of CMAC: doubling in GF(2^128). -/
def cmacDouble (b : List Nat) : List Nat :=
  let n := b.foldl (fun a x => a * 256 + x) 0
  let d := (2 * n) % 2 ^ 128 ^^^ (if n / 2 ^ 127 == 1 then 0x87 else 0)
  (beBytes 16 d).map (fun x => x.toNat)

/-- The chaining over the message in blocks; fuel bounds the number of blocks. -/
def cmacChain (key k1 k2 : List Nat) : Nat → List Nat → List Nat → List Nat
  | 0, c, _ => c
  | n + 1, c, m =>
    if m.length ≤ 16 then
      let last := if m.length == 16 then xorList m k1
        else xorList (m ++ 0x80 :: List.replicate (15 - m.length) 0) k2
      aes128 key (xorList c last)
    else cmacChain key k1 k2 n (aes128 key (xorList c (m.take 16))) (m.drop 16)

/-- AES-CMAC-128. -/
def cmac (key : List Byte) (msg : List Byte) : List Byte :=
  let k := key.map (fun b => b.toNat)
  let m := msg.map (fun b => b.toNat)
  let k1 := cmacDouble (aes128 k (List.replicate 16 0))
  let k2 := cmacDouble k1
  (cmacChain k k1 k2 (m.length / 16 + 1) (List.replicate 16 0) m).map (fun n => BitVec.ofNat 8 n)

/-- The 8-byte tag of R361. -/
def tag8 (key : List Byte) (msg : List Byte) : List Byte := (cmac key msg).take 8

/-- The session key Ks of R357. -/
def sessionKey (slot : List Byte) (nh nd : List Byte) (handle : Nat) : List Byte :=
  cmac slot ([0x01, 0x4B, 0x43, 0x50, 0x31, 0x00] ++ nh ++ nd ++ beBytes 2 handle ++ [0x00, 0x80])

end Sys2Proof.Machine
end

