-- ==== Sys2Proof/Machine/Params.lean ====
section
/-! DEFINITION. The parameters of the MRAM configuration record and their users (R41, R262, R385, R386, R511). -/

namespace Sys2Proof.Machine

/-- Lowest value, highest value and default of a parameter; a signed one that takes any value is 0..2^32 − 1 here. -/
def parInfo (id : Nat) : Option (Nat × Nat × Nat) :=
  if id == 0x0010 then some (5, 500, 50)
  else if id == 0x0011 then some (1, 200, 20)
  else if id == 0x0012 then some (1, 100, 10)
  else if id == 0x0013 then some (0, 100, 10)
  else if id == 0x0014 then some (0, 600, 30)
  else if id == 0x0015 then some (0, 100, 10)
  else if id == 0x0016 then some (200, 600, 250)
  else if id == 0x0020 then some (400, 4000, 625)
  else if id == 0x0021 then some (400, 540, 480)
  else if id == 0x0022 then some (10, 300, 80)
  else if id == 0x0023 then some (1, 100, 10)
  else if id == 0x0024 then some (1, 20, 5)
  else if 0x0030 ≤ id ∧ id < 0x0033 then some (1, 60, 20)
  else if 0x0034 ≤ id ∧ id < 0x0037 then some (50, 2000, 500)
  else if id == 0x0038 then some (0, 100, 20)
  else if id == 0x0039 then some (1, 255, 8)
  else if id == 0x003A then some (5, 200, 30)
  else if id == 0x003B then some (240, 480, 360)
  else if id == 0x003C then some (1, 100, 10)
  else if id == 0x003D then some (0, 1, 0)
  else if id == 0x003E then some (0, 2 ^ 32 - 1, 0)
  else if [0x0041, 0x0042, 0x004B, 0x004C, 0x0055, 0x0056, 0x0057].contains id then some (0, 2 ^ 32 - 1, 0)
  else if id == 0x0100 || id == 0x0101 then some (3125, 25000, 3125)
  else if id == 0x0102 || id == 0x0103 then some (0, 30, 30)
  else if id == 0x0104 || id == 0x0105 then some (0, 9, 8 + (id - 0x0104))
  else if id == 0x0106 || id == 0x0107 then some (1, 2000, 600)
  else if id == 0x0108 || id == 0x0109 then some (1, 1000000, 10000)
  else if id == 0x010A then some (0, 1, 0)
  else if id == 0x010B then some (3125, 12500, 6250)
  else if id == 0x010C then some (1, 1000, 200)
  else if id == 0x010D then some (0, 0xFFFF, 0xFFFF)
  else if id == 0x010E then some (0, 1, 0)
  else if id == 0x010F then some (400, 4000, 800)
  else if id == 0x0110 then some (800, 1000, 960)
  else if 0x0111 ≤ id ∧ id < 0x0114 then some (0, 0xFFFF, 0xFFFF)
  else if 0x0114 ≤ id ∧ id < 0x0117 then some (6, 65535, 6)
  else if 0x0117 ≤ id ∧ id < 0x011A then some (0, 2 ^ 32 - 1, 0)
  else if 0x011A ≤ id ∧ id < 0x011D then some (0, 7, 4 + (id - 0x011A))
  else if id == 0x011D || id == 0x011E then some (1, 65535, 4)
  else if id == 0x0200 then some (0, 0x21F7, 0)
  else if id == 0x0201 then some (1, 16, 2)
  else none

/-- The value is in the parameter's range, with the ranges that have gaps. -/
def parOk (id v : Nat) : Bool :=
  match parInfo id with
  | none => false
  | some (lo, hi, _) =>
    decide (lo ≤ v) && decide (v ≤ hi)
    && (!(id == 0x0102 || id == 0x0103) || v == 0 || v == 30)
    && (!(decide (0x0034 ≤ id) && decide (id < 0x0037)) || v % 10 == 0)
    && (!(id == 0x010D || (decide (0x0111 ≤ id) && decide (id < 0x0114))) || decide (v < 192) || v == 0xFFFF)
    && (!(id == 0x0200) || v == 0 || decide (0x2000 ≤ v))

/-- A parameter's value: the recorded one, or its default. -/
def State.par (s : State) (id : Nat) : Nat :=
  (lookupKey id s.kcp.cfg).getD (match parInfo id with
    | some (_, _, d) => d
    | none => 0)

/-- A signed parameter. -/
def State.parI (s : State) (id : Nat) : Int := signed 32 (s.par id)

/-- The target of a sequence of actuator n. -/
def State.actTgt (s : State) (n code : Nat) : Int := s.parI (0x0040 + 8 * n + code)

/-- The instances that use a parameter, one bit each (R511). -/
def parUsers (id : Nat) : Nat :=
  if id == 0x0010 then 0x19F
  else if id == 0x0011 then 0x003
  else if id == 0x0012 then 0x1BC
  else if id == 0x0013 || id == 0x0014 then 0x200
  else if id == 0x0016 || (decide (0x0020 ≤ id) && decide (id < 0x0025)) || (decide (0x0111 ≤ id) && decide (id < 0x0114)) then 0x020
  else if (decide (0x0100 ≤ id) && decide (id < 0x010A)) || id == 0x011D || id == 0x011E then
    (if (if id < 0x010A then id % 2 == 0 else id == 0x011D) then 0x081 else 0x106)
  else if 0x010A ≤ id ∧ id < 0x010E then 0x004
  else if id == 0x010E then 0x010
  else if id == 0x010F || id == 0x0110 then 0x018
  else 0

/-- Actuator n's sequence is running. -/
def State.actRuns (s : State) (n : Nat) : Bool := s.get (ACS_STAT_PHASE n) != 0

def State.anySeq (s : State) : Bool := (List.range 3).any (fun n => s.actRuns n)

/-- A clutch or shift sequence runs (X2). -/
def State.x2Seq (s : State) : Bool := s.actRuns 1 || s.actRuns 2

/-- The parameter is in use, so a write is refused with BAD_STATE (R41, R511). -/
def State.parUsed (s : State) (id : Nat) : Bool :=
  parUsers id &&& (s.get MDM_ACTIVE_ACTIVE ||| s.get MDM_ACTIVE_PENDING) != 0
  || (id == 0x0015 && s.x2Seq)
  || (((decide (0x0030 ≤ id) && decide (id < 0x0058)) || (decide (0x0114 ≤ id) && decide (id < 0x011D))) && s.anySeq)
  || ((id == 0x0200 || id == 0x0201) && s.kcp.caps.any (fun c => !c.fin))

/-- Record a parameter's value. -/
def State.parWrite (s : State) (id v : Nat) : State := s.setKcp { s.kcp with cfg := insertKey id v s.kcp.cfg }

end Sys2Proof.Machine
end

