-- ==== Sys2Proof/Machine/KcpOps.lean ====
section
/-! DEFINITION. What KP sends: frames, replies, untagged answers and notifications, and the sessions they belong to
(R351–R369, R374, R375). -/

namespace Sys2Proof.Machine


/-! ### Status codes (R375) -/

def stOk : Nat := 0x0000
def stPending : Nat := 0x0001
def stSuperseded : Nat := 0x0002
def stLimited : Nat := 0x0003
def stQueueFull : Nat := 0x0010
def stTableFull : Nat := 0x0011
def stLate : Nat := 0x0012
def stHeld : Nat := 0x0013
def stBadOpcode : Nat := 0x0020
def stBadParam : Nat := 0x0021
def stBadState : Nat := 0x0022
def stBadSession : Nat := 0x0023
def stAuthFail : Nat := 0x0030
def stSeqReplay : Nat := 0x0031
def stFault : Nat := 0x0040
def stSafeState : Nat := 0x0041
def stThrottled : Nat := 0x0042
def stVerifyFail : Nat := 0x0050

/-! ### Contexts -/

def State.ctxOf (s : State) (c : Nat) : Option Ctx := lookupKey c s.kcp.ctxs

def State.setCtx (s : State) (c : Nat) (x : Ctx) : State := s.setKcp { s.kcp with ctxs := insertKey c x s.kcp.ctxs }

/-- An open context whose lease has not expired. -/
def Ctx.live (x : Ctx) : Bool := x.isOpen && !x.gone

/-- The context that a handle names, while that use of it is open. -/
def State.session (s : State) (handle : Nat) : Option Ctx :=
  match s.ctxOf (handle / 256) with
  | some x => if x.live && x.gen == handle % 256 then some x else none
  | none => none

/-- The handle belongs to a session whose lease is valid. -/
def State.valid (s : State) (handle : Nat) : Bool := (s.session handle).isSome

/-- d = (SEQ − H) mod 65,536 (R362). -/
def seqDist (h seq : Nat) : Nat := (seq + 65536 - h % 65536) % 65536

/-- The window of 64 recorded sequences below H. -/
def pruneSeen (h : Nat) (l : List (Nat × Nat)) : List (Nat × Nat) :=
  l.filter (fun e => decide (seqDist e.1 h < 64))

/-- The recorded status of a sequence becomes st. -/
def State.record (s : State) (handle seq st : Nat) : State :=
  match s.ctxOf (handle / 256) with
  | some x =>
    if x.gen == handle % 256 then
      s.setCtx (handle / 256) { x with seen := x.seen.map (fun e => if e.1 == seq then (seq, st) else e) }
    else s
  | none => s

/-! ### Frames (R351–R354, R361) -/

/-- Data bytes per frame of a transport (R353). -/
def dataCap (t : Nat) (auth : Bool) : Nat :=
  if t < 3 then (if auth then 1448 else 1456)
  else if t < 7 then (if auth then 40 else 48)
  else if t < 11 then (if auth then 2024 else 2032)
  else 4096

/-- Lengths of a CAN FD data field. -/
def fdLength (n : Nat) : Nat :=
  if n ≤ 8 then n else if n ≤ 12 then 12 else if n ≤ 16 then 16 else if n ≤ 20 then 20 else if n ≤ 24 then 24
  else if n ≤ 32 then 32 else if n ≤ 48 then 48 else 64

/-- On CAN FD the data field beyond the frame is 0xCC (R353). -/
def padFrame (t : Nat) (f : List Byte) : List Byte :=
  if 3 ≤ t ∧ t < 7 then f ++ List.replicate (fdLength f.length - f.length) 0xCC else f

/-- What the frames of one message share. -/
structure MsgHdr where
  handle : Nat
  op : Nat
  seq : Nat
  cls : Nat
  restored : Bool
  notify : Bool
  reply : Bool
  len : Nat
  deriving DecidableEq, Repr

def hdrBytes (h : MsgHdr) (auth more : Bool) (off : Nat) : List Byte :=
  [0xA5, 0x02] ++ beBytes 2 h.handle ++ beBytes 2 h.op ++ beBytes 2 h.seq
  ++ [BitVec.ofNat 8 (h.cls + 8 * b2n h.restored + 16 * b2n h.notify + 32 * b2n more + 64 * b2n auth + 128 * b2n h.reply), 0]
  ++ beBytes 2 h.len ++ beBytes 2 off ++ [0, 0]

/-- The frames of a message from an offset on; fuel bounds their number. -/
def frames (t : Nat) (ks : Option (List Byte)) (h : MsgHdr) : Nat → Nat → List Byte → List (List Byte)
  | 0, _, _ => []
  | n + 1, off, pay =>
    let cap := dataCap t ks.isSome
    let more := decide (cap < pay.length)
    let body := hdrBytes h ks.isSome more off ++ pay.take cap
    let f := padFrame t (match ks with
      | some k => body ++ tag8 k body
      | none => body)
    if more then f :: frames t ks h n (off + cap) (pay.drop cap) else [f]

/-- Frames are handed to their transport; those of HSPI wait for a READ (R355). -/
def State.emit (s : State) (t peer : Nat) (l : List (List Byte)) : State :=
  if t == 11 then s.setKcp { s.kcp with hspi := s.kcp.hspi ++ l }
  else s.setKcp { s.kcp with out := s.kcp.out ++ l.map (fun f => ⟨t, peer, f⟩) }

/-- A message of a session; the first one after a warm start carries RESTORED (R360). -/
def State.kpSend (s : State) (tk : Tok) (notify : Bool) (seq : Nat) (pay : List Byte) : State :=
  let x := (s.ctxOf (tk.handle / 256)).filter (fun c => c.gen == tk.handle % 256)
  let restored := match x with
    | some c => c.restored
    | none => false
  let s := match x with
    | some c => s.setCtx (tk.handle / 256) { c with restored := false }
    | none => s
  let h : MsgHdr := ⟨tk.handle, tk.op ||| 0x8000, seq, tk.cls, restored, notify, true, pay.length⟩
  s.emit tk.tport tk.peer (frames tk.tport tk.ks h (pay.length + 1) 0 pay)

/-! ### Replies (R374, R367, R368) -/

/-- A service time joins the last 16 of its key: class 2–5, or 16 + mailbox. -/
def State.served (s : State) (key left : Nat) : State :=
  let mine := (s.kcp.svc.filter (fun e => e.1 == key)).take 15
  s.setKcp { s.kcp with svc := (key, s.tick - left) :: mine ++ s.kcp.svc.filter (fun e => e.1 != key) }

/-- The reply of a request, with its error or reply fields; a final status is recorded for its sequence. -/
def State.reply (s : State) (tk : Tok) (status : Nat) (fields : List Byte := []) : State :=
  let s := if 2 ≤ tk.cls then s.served tk.cls tk.left else s
  let s := s.record tk.handle tk.seq status
  s.kpSend tk false tk.seq (beBytes 2 status ++ fields)

/-- The one further reply after ACCEPTED_PENDING (R368). -/
def State.finalReply (s : State) (tk : Tok) (status : Nat) (fields : List Byte := []) : State :=
  (s.record tk.handle tk.seq status).kpSend tk false tk.seq (beBytes 2 status ++ fields)

def State.finalAll (s : State) (l : List Tok) (status : Nat) (fields : List Byte := []) : State :=
  l.foldl (fun s t => s.finalReply t status fields) s

/-- BAD_PARAM with the payload offset of the offending field. -/
def State.badParam (s : State) (tk : Tok) (off : Nat) : State := s.reply tk stBadParam (beBytes 2 off)

/-- SAFE_STATE with Badger's state and the hold cause. -/
def State.safeFields (s : State) : List Byte :=
  [BitVec.ofNat 8 (s.get HSM_STATUS_STATE), BitVec.ofNat 8 (s.get MDM_HOLD_CAUSE)]

def State.safeState (s : State) (tk : Tok) : State := s.reply tk stSafeState s.safeFields

/-- Refusal with a status, with the fields that SAFE_STATE and BAD_PARAM carry. -/
def State.refuse (s : State) (tk : Tok) (status : Nat) : State :=
  if status == stSafeState then s.safeState tk
  else if status == stBadParam then s.badParam tk 0
  else s.reply tk status

/-- An untagged answer to a frame: at most 1,000 per second on a transport (R361). -/
def State.untagged (s : State) (t peer handle op seq cls status : Nat) (fields : List Byte) : State :=
  let recent := s.kcp.untag.filter (fun e => decide (s.tick < e.2 + 100000000))
  let s := s.setKcp { s.kcp with untag := recent }
  if (recent.filter (fun e => e.1 == t)).length < 1000 then
    let s := s.setKcp { s.kcp with untag := recent ++ [(t, s.tick)] }
    let pay := beBytes 2 status ++ fields
    let h : MsgHdr := ⟨handle, op ||| 0x8000, seq, cls, false, false, true, pay.length⟩
    s.emit t peer (frames t none h (pay.length + 1) 0 pay)
  else s.inc KCP_ERR1_DROP

/-! ### Overload hints (R367) -/

/-- max(1, ceil(S)) in ms over the last 16 service times of a key. -/
def State.hint (s : State) (key : Nat) : Nat :=
  let l := (s.kcp.svc.filter (fun e => e.1 == key)).map (fun e => e.2)
  let sum := l.foldl (fun a b => a + b) 0
  if l.isEmpty then 1 else max 1 ((sum + l.length * 100000 - 1) / (l.length * 100000))

def State.reasmMs (s : State) : Nat := max 1 (s.get KCP_CFG_REASM_TMO)

/-- The time until the earliest reassembly timeout in ms, rounded up. -/
def State.reasmHint (s : State) : Nat :=
  s.kcp.reasm.foldl (fun m r => min m ((r.began + s.reasmMs * 100000 - s.tick + 99999) / 100000)) s.reasmMs

def State.queueFull (s : State) (tk : Tok) (reason hint : Nat) : State :=
  s.reply tk stQueueFull ([BitVec.ofNat 8 tk.cls, BitVec.ofNat 8 reason] ++ beBytes 2 (min 0xFFFF hint))

/-! ### Notifications (R369, R379) -/

/-- A notification of a session; its counter advances and wraps from 65,535 to 1. Whether the transport's transmit path is full, so
that it is dropped, is free. -/
def State.notify (s : State) (c : Nat) (op cls : Nat) (pay : List Byte) : State :=
  match s.ctxOf c with
  | some x =>
    if x.live then
      let n := x.ntf
      let full := s.freeBool
      let s := (s.setCtx c { x with ntf := if n == 65535 then 1 else n + 1 }).useFree
      let t := if 7 ≤ x.tport ∧ x.tport < 11 then x.tport - 4 else x.tport
      if full then s else s.kpSend ⟨c * 256 + x.gen, t, x.peer, x.ks, n, op, cls, s.tick⟩ true n pay
    else s
  | none => s

/-- A subscribing request replaces the session's subscription to its opcode; SUBSCRIBE = 0 ends it. -/
def State.subscribe (s : State) (handle op mask period : Nat) (on : Bool) : State :=
  match s.session handle with
  | some x =>
    let rest := x.subs.filter (fun b => b.op != op)
    s.setCtx (handle / 256) { x with subs := if on then rest ++ [⟨op, mask, period, some s.tick, false⟩] else rest }
  | none => s

/-- A change makes the change-driven subscriptions to an opcode due. -/
def State.changed (s : State) (op : Nat) : State :=
  s.setKcp { s.kcp with ctxs := s.kcp.ctxs.map (fun e =>
    (e.1, { e.2 with subs := e.2.subs.map (fun b => if b.op == op then { b with dirty := true } else b) })) }

end Sys2Proof.Machine
end

