-- ==== Sys2Proof/Machine/Pwm.lean ====
section
/-! DEFINITION. The commands of the PWM generator: boundaries, register writes with an effect of their own, edges, trips and
synchronisation (R77–R101). An event whose own condition the state does not meet does not occur (log entry 5). -/

namespace Sys2Proof.Machine

def execPwmPeakBoundary (k : Fin 32) (s : State) : Res := .next (s.pwmPeakBoundary k.val)

/-- The writable bits of a shadowed register. -/
def shadowBits : Nat → Word
  | 0 => 0xFFFF
  | 1 => 0xFFFFF
  | 2 => 0xFFFFF
  | 3 => 0x30FFFF
  | 4 => 0x30FFFF
  | 5 => 0x3FFF3FFF
  | 6 => 0xFFF
  | _ => 0x1FFFFF

/-- PRD, DT, MINPW, PHASE as bits 0–3 of a commit's mask. -/
def owedBit : Nat → Nat
  | 0 => 1
  | 5 => 2
  | 6 => 4
  | 7 => 8
  | _ => 0

/-- The shadow takes the value; a write in a boundary cycle at which the register transfers is late, except with CMTREQ = 1
(R88, R89). -/
def State.pwmShadowWrite (s : State) (k r : Nat) (v : Word) : State :=
  let s := (s.pwmBoundary k).wr (pwmShadow k r) (v &&& shadowBits r)
  let p := s.pwmOf k
  let keep := 0xF - owedBit r
  let s := s.setPwm k { p with cmtMask := p.cmtMask &&& keep, owed := p.owed &&& keep }
  if !s.is (PWM_CTRL_CMTREQ k) && s.pwmLate k (some r) then s.pwmSetLate k (4 + 4 * r) else s

def execPwmShadowWrite (ini : Initiator) (k : Fin 32) (r : Fin 8) (val : Word) (s : State) : Res :=
  .next (s.pwmWrite ini k.val (pwmShadow k.val r.val).addr (fun s => s.pwmShadowWrite k.val r.val val))

/-- A write to PWMG_COMMIT or PWMG_START: f for each owned module whose bit is set; the bits of others count as violations
(R89, R24). -/
def State.pwmEach (s : State) (ini : Initiator) (v : Word) (f : State → Nat → State) : State :=
  if s.ceStoreDiscard ini then s.countDiscard ini
  else (List.range 32).foldl (fun s k =>
    if bitOf k v.toNat then (if s.pwmMayWrite ini k then f s k else s.ownViolation ini k) else s) s

def State.pwmGlobal (s : State) (ini : Initiator) (a : Nat) (v : Word) (f : State → Nat → State) : State :=
  s.busWrite ini a (fun s => s.pwmEach ini v f)

/-- A commit is set; one landing in a transferring boundary cycle is late (R89). -/
def State.pwmCommit (s : State) (k : Nat) : State :=
  let s := s.pwmBoundary k
  let late := s.pwmLate k none
  let s := s.setCommit k true
  let s := s.setPwm k { s.pwmOf k with cmtMask := 0xF }
  if late then s.pwmSetLate k 0xFFFFFFFF else s

def execPwmgCommit (ini : Initiator) (val : Word) (s : State) : Res :=
  .next (s.pwmGlobal ini 0x40008004 val (fun s k => s.pwmCommit k))

def execPwmgStart (ini : Initiator) (val : Word) (s : State) : Res :=
  .next (s.pwmGlobal ini 0x40008000 val (fun s k => s.pwmStart k))

/-- A write to PWMk_CTRL: while RUN = 1 only RUN, SYNCARM and SYNCOSEL change (R90). -/
def State.pwmCtrlWrite (s : State) (k : Nat) (v : Word) : State :=
  if s.pwmRuns k then
    let s := (s.put (PWM_CTRL_SYNCARM k) (bitsOf 11 11 v.toNat)).put (PWM_CTRL_SYNCOSEL k) (bitsOf 13 12 v.toNat)
    if bitOf 0 v.toNat then s else s.pwmStop k
  else
    let s := s.wr (PWM_CTRL k) (v &&& 0x3FFE)
    if bitOf 0 v.toNat then s.pwmStart k else s

def execPwmCtrlRun (ini : Initiator) (k : Fin 32) (val : Word) (s : State) : Res :=
  .next (s.pwmWrite ini k.val (PWM_CTRL k.val).addr (fun s => s.pwmCtrlWrite k.val (val ||| 1)))

def execPwmCtrlStop (ini : Initiator) (k : Fin 32) (val : Word) (s : State) : Res :=
  .next (s.pwmWrite ini k.val (PWM_CTRL k.val).addr (fun s => s.pwmCtrlWrite k.val (val &&& 0xFFFFFFFE)))

/-- The reference edges of output x that its compare gives in this cycle (R80, R81). -/
def State.pwmCompareEdge (s : State) (k : Nat) (x : Side) : State :=
  if s.ticking && s.pwmRuns k && !(s.pwmOf k).start && s.pwmHasEdges k x then s.pwmTakeEdges k x (s.now16 + 16) 2 else s

def execPwmCompareEdge (k : Fin 32) (x : Side) (s : State) : Res := .next (s.pwmCompareEdge k.val x)

/-- The dead time of a waiting output has elapsed and its reference is still 1 (R83, R84). -/
def State.pwmDeadtimeEnd (s : State) (k : Nat) (x : Side) : State :=
  let o := s.pwmO k x
  match o.due with
  | some t =>
    if s.ticking && s.pwmRuns k && o.ref && decide (t.fdiv 16 ≤ (s.cyc : Int)) then s.pwmTurnOn k x t else s
  | none => s

def execPwmDeadtimeEnd (k : Fin 32) (x : Side) (s : State) : Res := .next (s.pwmDeadtimeEnd k.val x)

/-- The minimum on-time of an output whose reference has fallen ends: it turns off (R84). -/
def State.pwmMinpulseEnd (s : State) (k : Nat) (x : Side) : State :=
  let o := s.pwmO k x
  match o.hold with
  | some h =>
    if s.ticking && s.is (outFld k x) && !o.ref && decide (h.fdiv 16 ≤ (s.cyc : Int)) then s.pwmHoldEnd k x h else s
  | none => s

def execPwmMinpulseEnd (k : Fin 32) (x : Side) (s : State) : Res := .next (s.pwmMinpulseEnd k.val x)

/-- The counter equals VAL of CMPC or CMPD in a selected direction; at a boundary value of UPDN mode any direction but
none fires (R100). -/
def State.pwmCmpEvent (s : State) (k : Nat) (d : Bool) : State :=
  let v := s.get (if d then PWM_CMPD_EFF_VAL k else PWM_CMPC_EFF_VAL k)
  let dir := s.get (if d then PWM_CMPD_EFF_DIR k else PWM_CMPC_EFF_DIR k)
  let bnd := s.pwmUpdn k && (v == 0 || v == s.pwmPrd k)
  let sel := dir == 3 || (bnd && dir != 0) || (if s.pwmDown k then dir == 2 else dir == 1)
  let p := s.pwmOf k
  if s.ticking && s.pwmRuns k && !p.start && decide (p.zero ≤ s.cyc) && s.pwmCount k == v && sel
      && (if d then p.cmpdAt else p.cmpcAt) != some s.cyc then
    let s := s.setPwm k (if d then { p with cmpdAt := some s.cyc } else { p with cmpcAt := some s.cyc })
    (s.pwmEvent k (if d then 3 else 2) none 0).ceEventSets (pwmEvCode k (if d then 3 else 2))
  else s

def execPwmCmpcCmpd (k : Fin 32) (d : Bool) (s : State) : Res := .next (s.pwmCmpEvent k.val d)

def execPwmForce (ini : Initiator) (k : Fin 32) (val : Word) (s : State) : Res :=
  .next (s.pwmWrite ini k.val (PWM_FORCE k.val).addr (fun s => s.pwmForceWrite k.val val))

/-- Trip input i of module k becomes active (R92). Fox acts without the control clock (R30). -/
def execPwmTripActive (k : Fin 32) (i : Fin 4) (s : State) : Res := .next (s.tripStart k.val i.val)

/-- Latched trip states whose inputs are inactive end (R96). -/
def State.pwmTripClear (s : State) (k : Nat) (v : Word) : State :=
  let s := (List.range 4).foldl (fun s i =>
    if bitOf i v.toNat && s.bit (PWM_STATUS_TRIPPED k) i && bitOf (8 * i + 4) (s.rd (PWM_TRIPCFG k)).toNat && !s.tripIn k i then
      s.putFldBit (PWM_STATUS_TRIPPED k) i false
    else s) s
  s.pwmApply k s.now16

def execPwmTripclr (ini : Initiator) (k : Fin 32) (val : Word) (s : State) : Res :=
  .next (s.pwmWrite ini k.val (PWM_TRIPCLR k.val).addr (fun s => s.pwmTripClear k.val val))

/-- A SYNCI pulse, one cycle after the emitting boundary, sets the counter so that c equalled PHASE/16 at that boundary; a
counter that jumps treats the jump as a zero boundary (R97–R99). -/
def State.pwmSync (s : State) (k : Nat) : State :=
  let armed := !s.is (PWM_CTRL_SYNCMODE k) || s.is (PWM_CTRL_SYNCARM k)
  if s.ticking && (s.pwmOf k).syncAt == some s.cyc && s.pwmRuns k && !(s.pwmOf k).start && s.is (PWM_CTRL_SYNCEN k) && armed then
    let s := s.setPwm k { s.pwmOf k with syncAt := none }
    let s := if s.is (PWM_CTRL_SYNCMODE k) then s.put (PWM_CTRL_SYNCARM k) 0 else s
    let prd := s.pwmPrd k
    let updn := s.pwmUpdn k
    let ph := min (s.get (PWM_PHASE_EFF_PHASE k)) (if updn then 16 * prd else 16 * prd - 1)
    let dir := s.is (PWM_PHASE_EFF_PHDIR k)
    let down := updn && dir
    let te : Int := (s.cyc : Int) - 1
    let z : Int := if down then te - (2 * (prd : Nat) - (ph / 16 : Nat)) else te - (ph / 16 : Nat)
    let fine : Int := if down then (ph % 16 : Nat) else -((ph % 16 : Nat) : Int)
    let same := ((s.pwmOf k).zero - z) % (s.pwmPeriod k : Nat) == 0
    let s := s.setPwm k { s.pwmOf k with fine := fine }
    if same then s
    else
      let s := s.setPwm k { s.pwmOf k with zero := z, jump := some s.cyc }
      let cnt := s.pwmCount k
      let s := (s.put (PWM_STATUS_SYNCJMP k) 1).pwmZero k true
      s.pwmEvent k 8 (some 0x07) (cnt + b2n dir * 2 ^ 31)
  else s

def execPwmSynci (k : Fin 32) (s : State) : Res := .next (s.pwmSync k.val)

/-- The background loop moves the taps by one, at most once between consecutive periods (R81). -/
def State.tapCalibrate (s : State) (k : Nat) (up : Bool) : State :=
  let p := s.pwmOf k
  if s.ticking && p.tapZero != p.lastZero then
    s.setPwm k { p with tap := p.tap + (if up then 1 else -1), tapZero := p.lastZero }
  else s

/-- What module k does of itself in the present cycle. -/
def State.pwmCycle (s : State) (k : Nat) : State :=
  if s.pwmRuns k then
    let s := (s.pwmSync k).pwmBoundary k
    let s := (s.pwmCompareEdge k .a).pwmCompareEdge k .b
    let s := (s.pwmCmpEvent k false).pwmCmpEvent k true
    let s := (s.pwmMinpulseEnd k .a).pwmMinpulseEnd k .b
    (s.pwmDeadtimeEnd k .a).pwmDeadtimeEnd k .b
  else s

def execPwmTapCalibration (k : Fin 32) (up : Bool) (s : State) : Res := .next (s.tapCalibrate k.val up)

/-- Setting OWN_LOCK locks the ownership map and the RWL fields of the control engines until the next start (R24). -/
def execCecLock (ini : Initiator) (val : Word) (s : State) : Res :=
  .next (s.busWrite ini CEC_LOCK.addr (fun s => if bitOf 0 val.toNat then s.put CEC_LOCK_OWN_LOCK 1 else s))

end Sys2Proof.Machine
end

