-- ==== Sys2Proof/Machine/Wm.lean ====
section
/-! DEFINITION. The window monitors and the commands of the trip network, Fox (R179–R192). Comparator 2m is the high one of
WMm and 2m + 1 its low one; voltages are in microvolts. -/

namespace Sys2Proof.Machine

def wmOut (m : Nat) (low : Bool) : Fld := if low then WM_STATUS_OUT_LO m else WM_STATUS_OUT_HI m
def wmSafe (m : Nat) (low : Bool) : Fld := if low then WM_CFG_SAFE_LO m else WM_CFG_SAFE_HI m
def wmStk (m : Nat) (low : Bool) : Fld := if low then WM_STATUS_STK_LO m else WM_STATUS_STK_HI m
def wmCnt (m : Nat) (low : Bool) : Fld := if low then WM_CNT_CNT_LO m else WM_CNT_CNT_HI m
def wmTh (m : Nat) (low : Bool) : Fld := if low then WM_TH_TH_LO m else WM_TH_TH_HI m

/-- The comparator's Fox source code (R187). -/
def wmCode (m : Nat) (low : Bool) : Nat := 2 * m + b2n low

/-- The voltage of a threshold code (R180). -/
def thVolt (c : Nat) : Int := -2048000 + 4000 * (c : Int)

/-- The threshold code that a comparator sees: the DAC's programmed code, or, while the DAC settles, some value between those it
moves from and the programmed one that the spec leaves open (R183). -/
def State.wmCodeNow (s : State) (m : Nat) (low : Bool) : Nat :=
  let c := s.get (wmTh m low)
  match s.fox.dac.find? (fun e => e.1 == wmCode m low) with
  | some (_, lo, hi, until') => if s.now < until' then min lo c + s.freeNat % (max hi c - min lo c + 1) else c
  | none => c

/-- The input of a monitor: an internal 0 V where SRC selects no pad (R179). -/
def State.wmInput (s : State) (m : Nat) (v : Int) : Int := if s.get (WM_CFG_SRC m) < 96 then v else 0

/-- Set a comparator's bit in the filtered sources, or clear it. -/
def State.foxComp (s : State) (c : Nat) (b : Bool) : State := s.setFox { s.fox with comp := putBit c s.fox.comp b }

/-- The comparator's state; the output filter passes a release at once and holds back an onset (R186, R189). -/
def State.wmSet (s : State) (m : Nat) (low tripped : Bool) : State :=
  let s := s.putB (wmOut m low) tripped
  if tripped then (if s.get (WM_CFG_FLT m) == 0 then s.foxComp (wmCode m low) true else s)
  else s.foxComp (wmCode m low) false

/-- A sampled trip onset (R186); several onsets in one tick count once. -/
def State.wmOnset (s : State) (m : Nat) (low : Bool) : State :=
  let c := wmCode m low
  let s := s.put (wmStk m low) 1
  if lookupKey c s.fox.onset == some s.tick then s
  else
    let s := s.setFox { s.fox with onset := insertKey c s.tick s.fox.onset }
    let s := s.inc (wmCnt m low)
    let s := s.log 4 m (if low then 0x02 else 0x01) [] (s.foxSelected c)
    s.irqIf (s.is (WM_CFG_IEN m)) .sc (0x40300000 + m * 0x20) (b2n low)

/-- The state R181 gives for input v: tripped beyond the threshold, released beyond the release level, kept in the band. -/
def wmDecide (low : Bool) (code hys : Nat) (v : Int) (kept : Bool) : Bool :=
  let th := thVolt code
  let h : Int := 4000 * (hys : Int)
  if low then (if v < th then true else if th + h < v then false else kept)
  else (if th < v then true else if v < th - h then false else kept)

/-- Evaluate an enabled comparator against its threshold (R181). -/
def State.wmEvaluate (s : State) (m : Nat) (low : Bool) (v : Int) : State :=
  let c := wmCode m low
  let was := s.is (wmOut m low)
  let now := wmDecide low (s.wmCodeNow m low) (s.get (WM_CFG_HYS m)) v was
  let s := s.useFree
  if bitOf c s.fox.hk then s
  else
    let s := s.wmSet m low now
    if now && !was then s.wmOnset m low else s

/-- The first evaluation: an input in the band keeps the safe side, and only an input beyond the threshold is an onset
(R182, R186). -/
def State.wmFirst (s : State) (m : Nat) (low : Bool) (v : Int) : State :=
  let c := wmCode m low
  let code := s.wmCodeNow m low
  let hys := s.get (WM_CFG_HYS m)
  let now := wmDecide low code hys v (s.is (wmSafe m low))
  let beyond := wmDecide low code hys v false
  let s := s.useFree
  let s := s.setFox { s.fox with firstDue := putBit c s.fox.firstDue false }
  if bitOf c s.fox.hk then s
  else
    let s := s.wmSet m low now
    if beyond then s.wmOnset m low else s

/-- The monitor evaluates continuously: MODE 0, or a sampled one that has lost its strobe and has not met one since NOSTRB was
cleared (R184, R185). -/
def State.wmContinuous (s : State) (m : Nat) : Bool := !s.is (WM_CFG_MODE m) || s.is (WM_STATUS_NOSTRB m) || bitOf m s.fox.cont

def State.wmActive (s : State) (m : Nat) (low : Bool) : Bool := s.isOn 8 && s.is (wmEn m low)

/-- One comparator evaluates input v continuously, where its first evaluation is behind it. -/
def State.wmFollow (s : State) (m : Nat) (v : Int) (low : Bool) : State :=
  if s.wmActive m low && s.wmContinuous m && !bitOf (wmCode m low) s.fox.firstDue then s.wmEvaluate m low v else s

/-- Both comparators of a monitor see the same input (R179). -/
def State.wmBoth (s : State) (m : Nat) (v : Int) : State := (s.wmFollow m v false).wmFollow m v true

def execWmComparatorChange (m : Fin 48) (v : Int) (s : State) : Res := .next (s.wmBoth m.val (s.wmInput m.val v))

/-- The first evaluation of a comparator at input v, which the monitor's other comparator sees as well. -/
def State.wmFirstSeen (s : State) (m : Nat) (low : Bool) (v : Int) : State :=
  if s.wmActive m low && s.wmContinuous m && bitOf (wmCode m low) s.fox.firstDue then (s.wmFollow m v (!low)).wmFirst m low v else s

def execWmFirstEvaluation (m : Fin 48) (low : Bool) (v : Int) (s : State) : Res :=
  .next (s.wmFirstSeen m.val low (s.wmInput m.val v))

/-- One strobe of a sampled monitor: both enabled comparators evaluate, the first strobe after enable as a first evaluation
(R184). The first strobe after NOSTRB has been cleared ends the continuous evaluation (R185). -/
def State.wmStrobe (s : State) (m : Nat) (v : Int) : State :=
  let period := 1000 * 2 ^ min 10 (s.get (WM_CFG_SMP m))
  if s.ticking && s.isOn 8 && s.is (WM_CFG_MODE m) && !s.is (WM_STATUS_NOSTRB m) && s.timebase % period == 0 then
    [false, true].foldl (fun s low =>
      if s.is (wmEn m low) then
        (if bitOf (wmCode m low) s.fox.firstDue then s.wmFirst m low v else s.wmEvaluate m low v)
      else s) (s.setFox { s.fox with cont := putBit m s.fox.cont false })
  else s

def execWmStrobe (m : Fin 48) (v : Int) (s : State) : Res := .next (s.wmStrobe m.val (s.wmInput m.val v))

/-- Strobes cease when the tick stops or D6 goes off: the monitor keeps its state and evaluates continuously (R185). -/
def execWmStrobeLoss (m : Fin 48) (s : State) : Res :=
  .next (if s.isOn 8 && !s.ticking && s.is (WM_CFG_MODE m.val) then
    (s.put (WM_STATUS_NOSTRB m.val) 1).setFox { s.fox with cont := putBit m.val s.fox.cont true }
  else s)

/-- The comparator is enabled: it takes its safe side, and its first evaluation is pending (R182). One that a failed readback
holds is tripped (R192). -/
def State.wmEnable (s : State) (m : Nat) (low : Bool) : State :=
  let c := wmCode m low
  let s := s.setFox { s.fox with firstDue := putBit c s.fox.firstDue true }
  if bitOf c s.fox.hk then (s.wmSet m low true).wmOnset m low else s.wmSet m low (s.is (wmSafe m low))

/-- Clearing EN releases the comparator at once (R183). -/
def State.wmRelease (s : State) (m : Nat) (low : Bool) : State :=
  let s := s.wmSet m low false
  s.setFox { s.fox with firstDue := putBit (wmCode m low) s.fox.firstDue false }

/-- A write to WMm_CFG: fields by their access codes, then the comparators whose EN changed. -/
def State.wmCfgWrite (s : State) (m : Nat) (v : Word) : State :=
  let was := [s.is (WM_CFG_EN_HI m), s.is (WM_CFG_EN_LO m)]
  let s := s.fieldWrite (WM_CFG m).addr v
  [false, true].foldl (fun s low =>
    let w := nth was (b2n low) false
    if s.is (wmEn m low) && !w then s.wmEnable m low
    else if !s.is (wmEn m low) && w then s.wmRelease m low
    else s) s

def execWmEnable (ini : Initiator) (m : Fin 48) (val : Word) (s : State) : Res :=
  .next (s.busWrite ini (WM_CFG m.val).addr (fun s => s.wmCfgWrite m.val val))

def execWmDisable (ini : Initiator) (m : Fin 48) (val : Word) (s : State) : Res :=
  .next (s.busWrite ini (WM_CFG m.val).addr (fun s => s.wmCfgWrite m.val val))

/-- The DAC d is driven to a new code; a second move that begins while it settles starts from its output, which lies between the
codes of the first (R183). -/
def State.dacMove (s : State) (d old new : Nat) : State :=
  if old == new then s
  else
    let from' := match s.fox.dac.find? (fun e => e.1 == d) with
      | some (_, lo, hi, until') => if s.now < until' then (min lo old, max hi old) else (old, old)
      | none => (old, old)
    s.setFox { s.fox with dac := (d, from'.1, from'.2, s.now + 400) :: s.fox.dac.filter (fun e => e.1 != d) }

/-- A write to WMm_TH moves each DAC whose code changes; a locked one takes no write (R183). -/
def State.wmThWrite (s : State) (m : Nat) (v : Word) : State :=
  if s.locked (WM_TH m).addr then s
  else
    let hi := s.get (WM_TH_TH_HI m)
    let lo := s.get (WM_TH_TH_LO m)
    let s := s.fieldWrite (WM_TH m).addr v
    let s := s.setHk { s.hk with thw := putBit (2 * m) (putBit (2 * m + 1) s.hk.thw true) true }
    (s.dacMove (2 * m) hi (s.get (WM_TH_TH_HI m))).dacMove (2 * m + 1) lo (s.get (WM_TH_TH_LO m))

def execWmThWrite (ini : Initiator) (m : Fin 48) (val : Word) (s : State) : Res :=
  .next (s.busWrite ini (WM_TH m.val).addr (fun s => s.wmThWrite m.val val))

/-! ### TRIP_IN pads and routing (R188–R191) -/

/-- The onset of TRIP_INi after its filter (R189). -/
def State.padOnset (s : State) (i : Nat) : State :=
  if bitOf i s.fox.padAct then s
  else
    let s := s.setFox { s.fox with padAct := putBit i s.fox.padAct true }
    let s := s.putFldBit TRN_STICKY_PAD i true
    s.log 4 (48 + i) 0x01 [] true

/-- TRN_PADCFG's polarity and filter code of pad i. -/
def State.padPol (s : State) (i : Nat) : Bool := bitOf (4 * i + 2) (s.rd TRN_PADCFG).toNat
def State.padFlt (s : State) (i : Nat) : Nat := bitsOf (4 * i + 1) (4 * i) (s.rd TRN_PADCFG).toNat

/-- A driven pad is at its active level; an open one is held inactive by its pull (R189). -/
def State.padActive (s : State) (i : Nat) : Bool := bitOf i s.fox.driven && (bitOf i s.fox.pads != s.padPol i)

/-- The pad's present level against its polarity: an inactive pad is inactive at once, an active one without filter has its
onset. -/
def State.padFollow (s : State) (i : Nat) : State :=
  if !s.isOn 8 then s
  else if s.padActive i then (if s.padFlt i == 0 then s.padOnset i else s)
  else s.setFox { s.fox with padAct := putBit i s.fox.padAct false }

def execTripInEdge (i : Fin 4) (level : Option Bool) (s : State) : Res :=
  .next (let s := s.setFox { s.fox with pads := putBit i.val s.fox.pads (level == some true),
                                        driven := putBit i.val s.fox.driven level.isSome }
    s.padFollow i.val)

/-- A level held for its filter time reaches Fox (R189). -/
def State.foxAccept (s : State) (c : Nat) : State :=
  if !s.isOn 8 then s
  else if c < 0x60 then
    (if s.is (wmOut (c / 2) (c % 2 == 1)) then s.foxComp c true else s)
  else if 0x8A ≤ c ∧ c < 0x8E then
    (if s.padActive (c - 0x8A) then s.padOnset (c - 0x8A) else s)
  else s

def execFoxFilterAccept (code : Fin 256) (s : State) : Res := .next (s.foxAccept code.val)

/-- The routing registers of Fox: TRN_SELk, TRN_ORj_MSKw, TRN_PADCFG and TRN_OUT. -/
def isRouteReg (a : Nat) : Bool := decide (0x40302000 ≤ a) && decide (a < 0x40302308)

/-- A routing write acts on the sources at once and may start trip states (R191, R92). -/
def State.routeWrite (s : State) (a : Nat) (v : Word) : State :=
  let s := s.fieldWrite a v
  let s := if a == TRN_PADCFG.addr then (List.range 4).foldl (fun s i => s.padFollow i) s else s
  s.tripScan

def execTrnRouteWrite (ini : Initiator) (addr val : Word) (s : State) : Res :=
  .next (if isRouteReg addr.toNat then s.busWrite ini addr.toNat (fun s => s.routeWrite addr.toNat val) else s)

def execTrnLock (ini : Initiator) (val : Word) (s : State) : Res :=
  .next (s.busWrite ini TRN_LOCK.addr (fun s => if bitOf 0 val.toNat then s.put TRN_LOCK_LOCK 1 else s))

def execWmgLock (ini : Initiator) (val : Word) (s : State) : Res :=
  .next (s.busWrite ini WMG_LOCK.addr (fun s => if bitOf 0 val.toNat then s.put WMG_LOCK_LOCK 1 else s))

/-- D8 switches off: every comparator and Fox source is inactive (R191). -/
def State.foxOff (s : State) : State :=
  let s := s.setFox { s.fox with comp := 0, padAct := 0, firstDue := 0 }
  (List.range 96).foldl (fun s c => if s.is (wmOut (c / 2) (c % 2 == 1)) then s.put (wmOut (c / 2) (c % 2 == 1)) 0 else s) s

/-- D8 switches on: each enabled comparator takes its safe side, and the sources follow their inputs (R191). -/
def State.foxOn (s : State) : State :=
  let s := (List.range 96).foldl (fun s c =>
    if s.is (wmEn (c / 2) (c % 2 == 1)) then s.wmEnable (c / 2) (c % 2 == 1) else s) s
  (List.range 4).foldl (fun s i => s.padFollow i) s

end Sys2Proof.Machine
end

