-- ==== Sys2Proof/Machine/PowerOps.lean ====
section
/-! DEFINITION. Power domains: what each needs, what switching it off loses, and what switching it on begins
(R27, R28, R63, R75, R191, R331, R448, R449). -/

namespace Sys2Proof.Machine

/-- The share, limit and power of an isolated bias group, 0 A, 1 B, 2 C. -/
def shareFld (g : Nat) : Fld := if g == 0 then GDG_SHARE_SHA else if g == 1 then GDG_SHARE_SHB else GDG_SHARE_SHC
def limFld (g : Nat) : Fld := if g == 0 then GDG_GRPLIM_LIMA else if g == 1 then GDG_GRPLIM_LIMB else GDG_GRPLIM_LIMC
def pwrFld (g : Nat) : Fld := if g == 0 then GDG_GRPPWR_PWRA else if g == 1 then GDG_GRPPWR_PWRB else GDG_GRPPWR_PWRC

/-- Registers whose address satisfies p take their reset values. -/
def State.dropRegs (s : State) (p : Nat → Bool) : State := { s with regs := s.regs.filter (fun e => !p e.1) }

/-- Bytes of memory whose address satisfies p are lost. -/
def State.dropMem (s : State) (p : Nat → Bool) : State := { s with mem := s.mem.filter (fun e => !p e.1) }

def inWin (lo hi a : Nat) : Bool := decide (lo ≤ a) && decide (a < hi)

/-- The domains that a domain needs (the table of R27's chapter). -/
def domNeeds (d : Nat) : List Nat :=
  nth [[], [0], [1], [4], [1, 2], [4], [4], [4], [2], [6, 8], [6, 8], [6, 8], [6, 8], [4]] d []

/-- A domain and everything that depends on it, deepest dependants first (R27). -/
def domCone (d : Nat) : List Nat :=
  if d ≤ 1 then [12, 11, 10, 9, 13, 8, 7, 6, 5, 3, 4, 2, 1]
  else if d == 2 then [12, 11, 10, 9, 13, 8, 7, 6, 5, 3, 4, 2]
  else if d == 4 then [12, 11, 10, 9, 13, 7, 6, 5, 3, 4]
  else if d == 6 || d == 8 then [12, 11, 10, 9, d]
  else [d]

/-! ### What a domain loses when it goes off -/

/-- A gate driver without supply: its output is off, and nothing of an edge or a refresh remains. -/
def State.gateDead (s : State) (g : Nat) : State :=
  let c := s.gate g
  let s := s.setGate g { c with drv := false, drvAt := s.now, phase := 0, segs := 0, refresh := 0, refEnd := false, overAt := [], monOn := none, monOff := none, didt := false,
                                dsat := false, levOn := false, levOff := false, link := false }
  let s := (s.put (GD_STATUS_GATE g) 0).put (GD_STATUS_RFACT g) 0
  let s := (s.put (GD_STATUS_BIASOK g) 0).put (GD_BIASPWR_PWR g) 0
  (s.put (GD_PFLT_SOFTACT g) 0).put (GD_PFLT_MCLAMP g) 0

/-- Instants that were counted on TIMEBASE's tick are counted from its next start: leases keep their remaining time. -/
def State.kcpRebase (s : State) : State :=
  let t := s.tick
  let k := s.kcp
  s.setKcp { k with
    ctxs := k.ctxs.map (fun e => (e.1, { e.2 with expiry := e.2.expiry - t, subs := e.2.subs.map (fun b => { b with last := none }) }))
    queues := k.queues.map (fun q => q.map (fun r =>
      { r with arrival := r.arrival - t, deadline := r.deadline.map (fun d => d - t), tok := { r.tok with left := 0 } }))
    reasm := k.reasm.map (fun r => { r with began := 0 })
    untag := []
    c1 := k.c1.map (fun c => { c with deadline := c.deadline.map (fun d => d - t) })
    mbx := k.mbx.map (fun m => { m with since := 0 }) }

/-- D6 off: the engines, PWM, position logic, TIMEBASE, the event log's queue and the CE memories are lost. -/
def State.d6Off (s : State) : State :=
  let s := s.kcpRebase
  let s := (((s.setCyc 0).setPwms (List.replicate 32 PwmMod.idle)).setCes (List.replicate 8 CeCore.idle)).setTbLatch []
  let s := ((s.setEvl ⟨[], 0, false, false, none, 0, none⟩).setOsd Osd.idle).setLedger Ledger.idle
  let s := s.setHk { s.hk with roundAt := 0 }
  let s := s.setEth { s.eth with offs := [], sync := none }
  let s := s.setPosBlk { PosBlk.idle with ch := s.pos.ch.map (fun (c : PosCh) => { PosCh.idle with sync := c.sync, acc := c.sync }) }
  let s := s.setGates (s.gates.map (fun (c : GateCh) => { GateCh.idle with gin := c.pad, pad := c.pad, padAt := c.padAt }))
  let s := (s.setScgs (List.replicate 8 Scg.idle)).setFox { s.fox with scg := 0, onset := [] }
  let s := (s.put ADG_VDC_VDC 0xFFFF).setConv { s.conv with vdc := [], wu := List.replicate 64 ⟨none, [], none⟩ }
  let s := (List.range 64).foldl (fun s u => if s.rd (WU_STATUS u) == 0 then s else (s.put (WU_STATUS_STATE u) 0).put (WU_STATUS_PEND u) 0) s
  let s := s.dropRegs (fun a => inWin 0x40000000 0x40200000 a || inWin 0x40400000 0x40600000 a || inWin 0x40800000 0x40900000 a)
  s.dropMem (fun a => inWin 0x30000000 0x30200000 a)

/-- Configuration in the converter window that D7 keeps, with its locks (R513). -/
def convKept (a : Nat) : Bool :=
  let o := a - 0x40200000
  (decide (o < 0x1800) && [0x00, 0x04, 0x84].contains (o % 0x100)) || o == 0x2000 || o == 0x2008
  || (inWin 0x4000 0x5000 o && decide (o % 0x40 < 0x14)) || (inWin 0x6000 0x6080 o && decide (o % 0x20 < 8))

/-- D7 off: the converters and window units stop, and their results are lost (R513). -/
def State.d7Off (s : State) : State :=
  let s := s.setHk { s.hk with stopped := true, thw := 0 }
  s.convOff.dropRegs (fun a => inWin 0x40200000 0x40300000 a && !convKept a)

/-- D4 off: KP's queues and the mode manager are lost, and the SRAM outside the retention section; the session contexts stay
in the firmware retained state (R331, R360). -/
def State.d4Off (s : State) : State :=
  let k := s.kcp
  let s := s.setKcp { Kcp.idle with ctxs := k.ctxs, keys := k.keys, cfg := k.cfg, pol := k.pol, out := k.out }
  let s := ((s.setModes Modes.idle).setActs (List.replicate 3 ActSeq.idle)).setHk { s.hk with since := 0 }
  let s := (s.setStart { s.start with kp := false, sc := false }).setBusErr []
  let s := ((s.setScThreads (List.replicate 12 ScThr.idle)).setScCores (List.replicate 4 ScCore.idle)).setDma Dma.idle
  let s := s.setPllA false
  let s := s.dropRegs (fun a => inWin 0x40600000 0x40800000 a || inWin 0x70000000 0x70000100 a
    || inWin 0x70000200 0x70000300 a || inWin 0x70000500 0x70001000 a || inWin 0x70001000 0x70200000 a)
  s.dropMem (fun a => inWin 0x20000000 0x21F80000 a || inWin 0x70110000 0x70150000 a)

/-- The MRAM block writes in progress complete: the supply manager holds D5 until they have (R329). -/
def State.mramDrain (s : State) : State :=
  (s.mramW.foldl (fun s e => s.wrBytes e.1 e.2) s).setMramW []

/-- What switching one domain off does. -/
def State.domLose (s : State) (d : Nat) : State :=
  if s.isOn d then
    let s := s.setOn (s.on &&& ~~~(BitVec.ofNat 14 (2 ^ d)))
    let s := s.putFldBit PDC_REQ_REQ d false
    if 9 ≤ d ∧ d ≤ 12 then
      let s := ((List.range 64).filter (fun g => gateGroup g == d - 9)).foldl (fun s g => s.gateDead g) s
      if d == 12 then s else (s.put (limFld (d - 9)) 0).put (pwrFld (d - 9)) 0
    else if d == 6 then s.d6Off
    else if d == 7 then s.d7Off
    else if d == 8 then s.foxOff
    else if d == 4 then s.d4Off
    else if d == 5 then s.mramDrain
    else if d == 13 then
      let s := (s.dropRegs (fun a => inWin 0x60000000 0x60300000 a)).dropMem (fun a => inWin 0x60000000 0x60300000 a)
      let s := ((s.setCans (List.replicate 4 Can.idle)).setCanTm ⟨none, false, 0, 0, s.canTm.sent⟩).setEth Eth.idle
      s.setKcp { s.kcp with hspi := [], hspiRx := [], hspiOvf := false, hspiCrc := false }
    else if d == 2 then
      let s := s.dropRegs (fun a => inWin 0x50000000 0x50100000 a)
      s.setBadger { Badger.idle with tick := s.badger.tick, pads := s.badger.pads, bspd := s.badger.bspd.map (fun (b : Bspd) =>
          { b with accepted := none, lastEdge := none, period := none }) }
    else if d == 1 then
      let s := s.dropRegs (fun a => inWin 0x70000100 0x70000200 a)
      let s := s.dropMem (fun a => inWin 0x21F80000 0x22000000 a)
      let s := s.setStart { s.start with retained := false }
      let s := s.setKcp { s.kcp with ctxs := [] }
      s.setSup { s.sup with swo := false, collapse := false }
    else s
  else s

/-- Switching a domain off first switches off every domain that depends on it (R27). -/
def State.domOff (s : State) (d : Nat) : State := (domCone d).foldl (fun s x => s.domLose x) s

/-! ### Switching on -/

/-- Every prerequisite of a domain is on: other domains and, for D9–D12, its Badger group enable (R28). -/
def State.domReady (s : State) (d : Nat) : Bool :=
  (domNeeds d).all (fun x => s.isOn x) && (!(decide (9 ≤ d)) || d == 13 || s.bit HSM_STATUS_EN (d - 9))

/-- D10 is not populated on VX8800-SA (R6). -/
def State.domExists (s : State) (d : Nat) : Bool := !(d == 10 && s.order == .sa)

/-- AGGLIM for the step and the supply in use, in 0.25 W. -/
def State.aggLimit (s : State) : State :=
  let step := s.get THM_STAT_STEP
  let l := 192 - 20 * step
  (s.put GDG_AGG_STEP step).put GDG_AGG_AGGLIM (if s.is GDG_AGG_BACKUP then min l 48 else l)

/-- The rails that BIAS selects take effect at the switch-on of the channel's group (R121). -/
def State.railsLatch (s : State) (gr : Nat) : State :=
  (List.range 42).foldl (fun s g =>
    if gateGroup g == gr then s.setGate g { s.gate g with rails := (s.rd (GD_BIAS g)).toNat % 16 } else s) s

/-- What a domain begins with when it comes on. -/
def State.domBegin (s : State) (d : Nat) : State :=
  if d == 2 then
    let b := { s.badger with onAt := s.badger.tick, clkTick := s.badger.tick, clkMarten := s.marten,
                             latchAt := s.badger.tick, evalAt := s.badger.tick,
                             padAt := List.replicate 8 s.badger.tick,
                             bspd := s.badger.bspd.map (fun (x : Bspd) => { x with changeAt := s.badger.tick }) }
    (s.setBadger b).noteClk { s.clk with badgerAt := s.now }
  else if d == 6 then
    let warm := s.start.kind == 1
    let n := if warm then s.freeNat % 65536 else 0
    let s := if warm then s.useFree else s
    let s := (s.setPllB true).setEvl ⟨[], n, false, warm, none, 0, none⟩
    if s.is SUP_STAT_SRC then (s.put GDG_AGG_BACKUP 1).aggLimit else s
  else if d == 7 then
    let s := (s.putB ADG_STATUS_CLKACT (s.is ADG_CTRL_CLKSEL)).put ADG_STATUS_LOCKED 1
    (s.setConv { s.conv with onAt := s.now }).setHk { s.hk with chan := 0 }
  else if d == 8 then s.foxOn
  else if d == 12 then ((List.range 22).foldl (fun s i => s.put (GD_STATUS_BIASOK (42 + i)) 1) s).gatesFollow
  else if 9 ≤ d ∧ d ≤ 11 then (s.railsLatch (d - 9)).gatesFollow
  else s

/-- A domain comes on where it exists and its prerequisites are on; its request bit is set (R448, R449). -/
def State.domOn (s : State) (d : Nat) : State :=
  if s.domExists d && s.domReady d && !(s.sup.latch && decide (2 ≤ d)) then
    let s := s.putFldBit PDC_REQ_REQ d true
    if s.isOn d then s else (s.setOn (s.on ||| BitVec.ofNat 14 (2 ^ d))).domBegin d
  else s

/-- Standby entry: D13 to D1 go off, Marten records the end of operation and notes PLUG_DET, and the next start is cold
(R451, R452). -/
def State.standbyEnter (s : State) : State :=
  let s := (s.domOff 1).put AON_CAUSE_LAST 1
  let s := s.setSup { s.sup with standby := true, sbAt := s.marten, sbPlug := s.sup.plug }
  s.setStart { s.start with kp := false, sc := false, running := false }

/-- A standby request, from the mode manager or SUP_STBY, is refused on the backup supply and while an instance other than PRK
or HLD is active (R451). -/
def State.standbyRequest (s : State) : State :=
  if s.is SUP_STAT_SRC || s.get MDM_ACTIVE_ACTIVE &&& 0x5FF != 0 then s.put SUP_STAT_STBYREF 1 else s.standbyEnter

/-! ### Supply signals that Badger reads -/

/-- Thermal shutdown is declared, its latch set. -/
def State.shutdown (s : State) : Bool := s.sup.latch

/-- Supply collapse is declared. -/
def State.collapsed (s : State) : Bool := s.sup.collapse

/-! ### Badger's speed measurement (R289) -/

/-- The ASC speed threshold of the sealed configuration, Hz; 0 is never. -/
def State.ascTh (s : State) : Nat := nth [0, 200, 400, 800] (bitsOf 8 7 (s.get HSM_CFG_SAFECFG)) 0

/-- The speed of BSPD channel c, Hz. -/
def State.bspdHz (s : State) (c : Nat) : Nat :=
  match nth s.badger.bspd c ⟨false, none, 0, none, none⟩ with
  | ⟨_, _, _, some l, some p⟩ =>
    let e := s.badger.tick - l
    if 50000 ≤ e then 0 else 1000000 / max 1 (max p e)
  | _ => 0

/-- A motor's speed: the larger of its two channels. -/
def State.bspdSpeed (s : State) (m : Nat) : Nat := max (s.bspdHz (2 * m)) (s.bspdHz (2 * m + 1))

end Sys2Proof.Machine
end

