-- ==== Sys2Proof/Machine/ActOps.lean ====
section
/-! DEFINITION. Motor speeds as the mode manager reads them (R42), and the start of an actuator sequence (R270–R273). -/

namespace Sys2Proof.Machine

/-! ### Position sources (R42) -/

/-- The position source of motor m: 0–7 a POS channel, 8–9 a resolver. -/
def State.posSrc (s : State) (m : Nat) : Nat := s.par (0x0104 + m)

/-- The motor's position channel is valid. -/
def State.posValid (s : State) (m : Nat) : Bool :=
  if s.posSrc m < 8 then s.is (POS_STATUS_PVALID (s.posSrc m)) else s.is (RES_STATUS_PVALID (s.posSrc m - 8))

/-- The motor is at standstill on its position channel (a resolver: valid and with speed 0). -/
def State.standstill (s : State) (m : Nat) : Bool :=
  if s.posSrc m < 8 then s.is (POS_STATUS_STANDSTILL (s.posSrc m))
  else s.is (RES_STATUS_PVALID (s.posSrc m - 8)) && s.get (RES_SPD_OMEGA (s.posSrc m - 8)) == 0

/-- The motor's speed is at or below PRK_SPEED_MAX (R42); VX8800-SA has no motor B. -/
def State.slow (s : State) (m : Nat) : Bool :=
  let p := s.posSrc m
  let cpr := s.par (0x011D + m)
  let lim := s.par 0x0013
  if m == 1 && s.order == .sa then true
  else if p < 8 then
    s.is (POS_STATUS_STANDSTILL p) || (s.is (POS_SPD_VALID p) && decide (s.get (POS_SPD_MAG p) * 60 ≤ lim * 8 * cpr))
  else
    s.is (RES_STATUS_PVALID (p - 8))
    && decide ((signed 32 (s.get (RES_SPD_OMEGA (p - 8)))).natAbs * 60 ≤ lim * 65536 * cpr)

/-! ### Actuators (R270–R273) -/

/-- The actuator to which a sequence code belongs (R271). -/
def seqActuator (code : Nat) : Option Nat :=
  if code == 1 || code == 2 then some 0
  else if code == 3 || code == 4 then some 1
  else if code == 5 || code == 6 || code == 7 then some 2
  else none

/-- The position channel of actuator n. -/
def State.actPos (s : State) (n : Nat) : Nat := s.par (0x011A + n)

/-- The count of actuator n. -/
def State.actCnt (s : State) (n : Nat) : Int := signed 32 (s.get (POS_CNT_CNT (s.actPos n)))

def actMods (n : Nat) : List Nat := [23 + 3 * n, 24 + 3 * n, 25 + 3 * n]

def State.actOf (s : State) (n : Nat) : ActSeq := nth s.act n ActSeq.idle
def State.setAct (s : State) (n : Nat) (a : ActSeq) : State := s.setActs (s.act.set n a)

/-- The device runs on the backup supply. -/
def State.onBackup (s : State) : Bool := s.is SUP_STAT_SRC

/-- The conditions of R272 in their order, without the pair and plug rules; the status of the first that fails. -/
def State.seqRefusal (s : State) (n code : Nat) : Option Nat :=
  if !s.isOn 12 then some stBadState
  else if s.actRuns n then some stHeld
  else if code == 1 && !(s.slow 0 && s.slow 1) then some stBadState
  else if !s.is (POS_STATUS_PVALID (s.actPos n)) then some stFault
  else if s.onBackup && s.par 0x003D == 0 && code != 1 then some stBadState
  else none

/-- A sequence starts in PRECHECK: its modules start, and ELAPSED counts from here (R273). While a park-lock sequence runs the
lock is neither engaged nor released. -/
def State.seqStart (s : State) (n code handle : Nat) : State :=
  let s := s.wr (ACS_STAT n) (BitVec.ofNat 32 (code * 2 ^ 28 + 2 ^ 25 + b2n s.onBackup * 2 ^ 20))
  let s := s.setAct n { ActSeq.idle with handle := handle, began := s.now, phaseAt := s.now, stallAt := s.now, stallCnt := s.actCnt n }
  let s := if n == 0 then s.setModes { s.modes with lock := false, unlocked := false } else s
  ((actMods n).foldl (fun s k => s.pwmStart k) s).changed 0x0603

end Sys2Proof.Machine
end

