-- ==== Sys2Proof/Machine/OsdOps.lean ====
section
/-! DEFINITION. A run of the off-state diagnostics: its conditions, its end and its abort (R148–R151). -/

namespace Sys2Proof.Machine

def State.osdBusy (s : State) : Bool := s.is GDG_OSDSTAT_BUSY

/-- The tested legs, ascending. -/
def State.osdLegs (s : State) : List Nat := (List.range 32).filter (fun k => s.bit GDG_OSDLEGS_LEGS k)

/-- The link is at 60 V or more, or its measurement is invalid. -/
def State.osdLinkHigh (s : State) : Bool := decide (600 ≤ s.get ADG_VDC_VDC)

/-- The run ends with a cause: BUSY clears, the domains switched on for it go off, the interrupt is raised, and a waiting
OSD_START request receives its final reply. -/
def State.osdEnd (s : State) (cause : Nat) : State :=
  let o := s.osd
  let s := (s.put GDG_OSDSTAT_BUSY 0).put GDG_OSDSTAT_CAUSE cause
  let s := s.setOsd Osd.idle
  let s := o.doms.foldl (fun s d => s.domOff d) s
  let s := s.irq .sc GDG_OSDCTRL.addr 0
  match o.req with
  | some tk => s.finalReply tk stOk [BitVec.ofNat 8 cause, BitVec.ofNat 8 (s.get GDG_OSDSTAT_FAILS)]
  | none => s

def State.osdAbort (s : State) (cause : Nat) : State := if s.osdBusy then s.osdEnd cause else s

/-- A Badger forced state on a tested channel aborts the run (R150). -/
def State.osdGuard (s : State) : State :=
  if s.osdBusy && s.osdLegs.any (fun k => s.is (GD_STATUS_FORCED (2 * k)) || s.is (GD_STATUS_FORCED (2 * k + 1))) then s.osdEnd 6
  else s

/-- The first failed condition of R148. -/
def State.osdRefusal (s : State) : Option Nat :=
  if s.osdLinkHigh then some 1
  else if s.osdLegs.any (fun k => s.is (GD_STATUS_CMD (2 * k)) || s.is (GD_STATUS_CMD (2 * k + 1))) then some 3
  else if s.osdLegs.any (fun k => if k ≤ 20 then !(s.is (GD_STATUS_BIASOK (2 * k)) && s.is (GD_STATUS_BIASOK (2 * k + 1)))
      else !s.isOn 12) then some 4
  else none

/-- The pairing byte of leg k. -/
def State.osdPair (s : State) (k : Nat) : Nat := bitsOf (8 * (k % 4) + 7) (8 * (k % 4)) (s.rd (GDG_OSDPAIR (k / 4))).toNat

/-- The steps of a run, in order (R151). -/
def State.osdSteps (s : State) : List OsdStep :=
  (if s.is GDG_OSDCTRL_SHORT_EN then s.osdLegs.flatMap (fun k => [.shlo k, .shhi k]) else [])
  ++ (if s.is GDG_OSDCTRL_OPEN_EN then
        (s.osdLegs.filter (fun k => bitOf 7 (s.osdPair k))).map (fun k => .opn k (bitsOf 4 0 (s.osdPair k)))
      else [])

/-- The checks of R148, and then the first step; a run without steps completes at once, and a forced state on a tested channel
aborts it (R150). -/
def State.osdCheck (s : State) : State :=
  let s := s.setOsd { s.osd with wait := false }
  match s.osdRefusal with
  | some c => s.osdEnd c
  | none =>
    let st := s.osdSteps
    let s := (s.put GDG_OSDVDC_VDC (s.get ADG_VDC_VDC)).put GDG_OSDSTAT_BUSY 1
    if st.isEmpty then s.osdEnd 0 else (s.setOsd { s.osd with steps := st, since := s.now, part := 0 }).osdGuard

/-- The domains a run needs. -/
def State.osdDoms (s : State) : List Nat :=
  let ks := s.osdLegs
  [9, 10, 11, 12].filter (fun d => ks.any (fun k => gateGroup (2 * k) == d - 9))

/-- A run begins; in HLD the domains it needs are switched on first (R149). -/
def State.osdStart (s : State) (req : Option Tok) : State :=
  let s := s.wr GDG_OSDSTAT 0
  let s := (List.range 32).foldl (fun s k => s.wr (GDG_OSDRES k) 0) s
  let s := s.setOsd { Osd.idle with req := req }
  if s.bit MDM_ACTIVE_ACTIVE 11 then
    let ds := s.osdDoms.filter (fun d => !s.isOn d && s.domReady d && s.domExists d)
    if ds.isEmpty then s.osdCheck
    else
      let s := (s.put GDG_OSDSTAT_BUSY 1)
      let s := s.setOsd { s.osd with wait := true, since := s.now, doms := ds }
      ds.foldl (fun s d => s.domOn d) s
  else s.osdCheck

/-- A mode request that would switch a tested leg: one of the modules is under test (R150). -/
def State.osdBlocks (s : State) (mods : List Nat) : Bool := s.osdBusy && mods.any (fun k => s.bit GDG_OSDLEGS_LEGS k)

end Sys2Proof.Machine
end

