-- ==== Sys2Proof/Machine/ModeOps.lean ====
section
/-! DEFINITION. The mode manager: instances and their ends, pending requests, safe stop and hold, and the evaluation of a
request (R35–R60, R380, R381). -/

namespace Sys2Proof.Machine

/-! ### Instances -/

/-- End reasons (R45). -/
def rsnExit : Nat := 1
def rsnLease : Nat := 2
def rsnTmo : Nat := 3
def rsnPlug : Nat := 4
def rsnPreempt : Nat := 5
def rsnSst : Nat := 6
def rsnHld : Nat := 7
def rsnFault : Nat := 8
def rsnCond : Nat := 9

def State.active (s : State) (i : Nat) : Bool := s.bit MDM_ACTIVE_ACTIVE i
def State.waiting (s : State) (i : Nat) : Bool := s.bit MDM_ACTIVE_PENDING i
def State.ramping (s : State) (i : Nat) : Bool := bitOf i s.modes.ramp
/-- Active and not ending. -/
def State.running (s : State) (i : Nat) : Bool := s.active i && !s.ramping i


/-- DRV, WHT, BCH, ACH and V2G: they end with their owner's lease and supervise their setpoints (R37, R41). -/
def leased : List Nat := [0, 1, 2, 3, 4, 7, 8]

def State.ownerOf (s : State) (i : Nat) : Option Nat := nth s.modes.owner i none
def State.setOwner (s : State) (i : Nat) (o : Option Nat) : State :=
  s.setModes { s.modes with owner := s.modes.owner.set i o }

/-- MDM_ACTIVE changed: subscribers are notified (R382), and the PRK dwell restarts (R53). -/
def State.modesChanged (s : State) : State := (s.setModes { s.modes with dwell := s.now }).changed 0x0203

def State.setActive (s : State) (i : Nat) (b : Bool) : State := (s.putFldBit MDM_ACTIVE_ACTIVE i b).modesChanged
def State.setWaiting (s : State) (i : Nat) (b : Bool) : State := (s.putFldBit MDM_ACTIVE_PENDING i b).modesChanged

/-- The end reason's field. -/
def endFld (i : Nat) : Fld :=
  if i < 8 then ⟨MDM_ENDRSN0, 4 * i + 3, 4 * i⟩ else ⟨MDM_ENDRSN1, 4 * (i - 8) + 3, 4 * (i - 8)⟩

/-- The motor of an instance. -/
def instMotor (i : Nat) : Option Nat :=
  if i == 0 || i == 7 then some 0 else if i == 1 || i == 8 || i == 2 then some 1 else none

/-- The ledger entries of an instance's stage (R239). -/
def instEntries (i : Nat) : List Nat :=
  nth [[0], [1], [1], [2, 3], [2, 3], [4], [5], [0], [1], [], [], []] i []

/-- The PWM modules of a ledger entry's stage. -/
def entryMods (e : Nat) : List Nat :=
  nth [[0, 1, 2, 3, 4, 5], [6, 7, 8, 9, 10, 11], [12, 13, 14], [15, 16, 17, 18], [19, 20, 21, 22],
       [23, 24, 25, 26, 27, 28, 29, 30, 31]] e []

/-- The ledger entry of a gate channel's stage. -/
def gateEntry (g : Nat) : Nat :=
  if g < 12 then 0 else if g < 24 then 1 else if g < 30 then 2 else if g < 38 then 3 else if g < 46 then 4 else 5

/-- The instances of a ledger entry's stage. -/
def entryInsts (e : Nat) : List Nat := nth [[0, 7], [1, 2, 8], [3, 4], [3, 4], [5], [6]] e []

/-- The gate channels of a stage turn off: its modules stop (R43). -/
def State.stageOff (s : State) (e : Nat) : State :=
  (entryMods e).foldl (fun s k => if s.pwmRuns k then s.pwmStop k else s) s

/-- Another instance of the stage is active. -/
def State.stageBusy (s : State) (e i : Nat) : Bool := (entryInsts e).any (fun j => j != i && s.active j)

/-! ### Holds (R44, R243) -/

/-- The motor's speed on BSPD is at or above the ASC speed threshold. -/
def State.holdSpeed (s : State) (m : Nat) : Bool := s.ascTh != 0 && decide (s.ascTh ≤ s.bspdSpeed m)

/-- A DRV or WHT instance of motor m has ended: the hold of R44 begins, or the stage turns its gates off. -/
def State.holdBegin (s : State) (m i : Nat) (off : Bool) : State :=
  if s.stageBusy m i || bitOf m s.modes.brake then s
  else if s.holdSpeed m then s.put (LGE_STAT_HOLD m) (if s.active 11 then 2 else 1)
  else if off then (s.put (LGE_STAT_HOLD m) 0).stageOff m
  else s

/-! ### Final replies of pending requests (R38, R380) -/

def State.pendOf (s : State) (i : Nat) : Option PendReq := s.modes.pend.find? (fun p => p.inst == i)

def State.dropPend (s : State) (i : Nat) : State :=
  (s.setModes { s.modes with pend := s.modes.pend.filter (fun p => p.inst != i) }).setWaiting i false

/-- A pending request ends with a status; FAULT_ACTIVE is end reason FAULT. -/
def State.cancelPend (s : State) (i status : Nat) : State :=
  match s.pendOf i with
  | none => s
  | some p =>
    let s := s.dropPend i
    let s := if status == stFault then s.put (endFld i) rsnFault else s
    let s := if p.why == 1 then (instEntries i).foldl (fun s e => if s.stageBusy e i then s else s.stageOff e) s else s
    let s := if s.active i then s else s.setOwner i none
    s.finalAll p.toks status (if status == stSafeState then s.safeFields else [])

/-- An instance becomes active. -/
def State.enterInst (s : State) (i : Nat) : State :=
  let s := s.setActive i true
  let s := s.setModes { s.modes with fed := s.modes.fed.set i s.now }
  let s := s.putFldBit MDM_ACTIVE_ACTIVE i true
  match instMotor i with
  | some m => s.put (LGE_STAT_HOLD m) 0
  | none => s

/-! ### Entry conditions (R40) -/

/-- The enable of a Badger group is present. -/
def State.groupEn (s : State) (g : Nat) : Bool := s.bit HSM_STATUS_EN g

/-- A protection fault is latched on a channel of motor stage m. -/
def State.stageFaulted (s : State) (m : Nat) : Bool :=
  (List.range 12).any (fun j => s.gateHeld (12 * m + j))
  || (List.range 8).any (fun n => s.get (CE_CTRL_LGENT n) == m && s.is (CE_DLSTAT_ESC n))

/-- DRV's entry conditions after the variant check. -/
def State.drvEntry (s : State) (m : Nat) : Option Nat :=
  if !(s.is HSM_CFG_CFGACK && s.groupEn m) then some stBadState
  else if !s.modes.unlocked then some stBadState
  else if !s.posValid m then some stFault
  else if !Config.linkWindow m (s.get ADG_VDC_VDC) then some stBadState
  else if s.stageFaulted m then some stFault
  else none

/-- The HV bus is at or above DCD_VMIN; an invalid link is below it (R268). -/
def State.linkUp (s : State) : Bool :=
  s.get ADG_VDC_VDC != 0xFFFF && decide (s.par 0x0016 * 10 ≤ s.get ADG_VDC_VDC)

def State.dcdTripped (s : State) : Bool :=
  [19, 20, 21, 22].any (fun k => (List.range 4).any (fun i =>
    bitOf i (s.get (PWM_STATUS_TRIPPED k)) && bitOf (8 * i + 4) (s.rd (PWM_TRIPCFG k)).toNat))

/-- The entry conditions of R40; the status of the first that fails. -/
def State.entryRefusal (s : State) (i : Nat) : Option Nat :=
  if i == 0 || i == 1 then s.drvEntry i
  else if i == 2 then
    if !s.is MDM_PLUG_PLUG then some stBadState
    else if s.par 0x010A == 0 || s.par 0x010D == 0xFFFF then some stBadParam
    else if !s.standstill 1 then some stBadState
    else if !s.groupEn 1 then some stBadState
    else none
  else if i == 3 || i == 4 then
    if !s.is MDM_PLUG_PLUG then some stBadState
    else if !s.groupEn 2 then some stBadState
    else if i == 4 && s.par 0x010E == 0 then some stBadParam
    else none
  else if i == 5 then
    if s.par 0x0111 == 0xFFFF || s.par 0x0112 == 0xFFFF || s.par 0x0113 == 0xFFFF then some stBadParam
    else if !(s.groupEn 2 && s.isOn 12) then some stBadState
    else if !s.linkUp then some stBadState
    else if s.dcdTripped then some stFault
    else none
  else if i == 7 || i == 8 then
    if !s.groupEn (i - 7) then some stBadState
    else if s.stageFaulted (i - 7) then some stFault
    else none
  else if i == 9 then
    if !(s.slow 0 && s.slow 1) then some stBadState
    else if s.modes.lock || s.actRuns 0 then none
    else s.seqRefusal 0 1
  else none

/-! ### Pending requests (R38, R380) -/

/-- A pending instance becomes active, and its requests receive OK; an entry condition that has lapsed ends them with BAD_STATE
(R380). -/
def State.activate (s : State) (i : Nat) : State :=
  match s.pendOf i with
  | none => s
  | some p =>
    if i != 9 && (s.entryRefusal i).isSome then s.cancelPend i stBadState
    else ((s.dropPend i).enterInst i).finalAll p.toks stOk

/-- A pending request's ramps have ended: PRK engages the park lock, and a converter stage starts (R38), where every entry
condition still holds (R52, R380). -/
def State.rampsDone (s : State) (p : PendReq) : State :=
  let next (w : Nat) (s : State) : State :=
    s.setModes { s.modes with pend := s.modes.pend.map (fun q => if q.inst == p.inst then { q with why := w } else q) }
  if p.inst == 9 then
    if s.modes.lock then s.activate 9
    else if s.actRuns 0 then next 2 s
    else match s.seqRefusal 0 1 with
      | some _ => s.cancelPend 9 stFault
      | none => next 2 (s.seqStart 0 1 0)
  else if (s.entryRefusal p.inst).isSome then s.cancelPend p.inst stBadState
  else if 2 ≤ p.inst ∧ p.inst ≤ 5 then next 1 s
  else s.activate p.inst

/-- The instances whose ramp a pending instance waits for. -/
def preempted (i : Nat) : List Nat := if i == 2 then [1, 8] else if i == 9 then [0, 1] else []

/-- Requests that wait for ramps go on where none of theirs is left. -/
def State.pendScan (s : State) : State :=
  (s.modes.pend.filter (fun p => p.why == 0 && (preempted p.inst).all (fun q => !s.active q))).foldl (fun s p => s.rampsDone p) s

/-! ### Ends (R43, R44) -/

/-- The instance's ACTIVE bit clears: its stage turns its gates off, or a hold begins. -/
def State.instGone (s : State) (i : Nat) (off : Bool) : State :=
  let s := s.setModes { s.modes with ramp := putBit i s.modes.ramp false, owner := s.modes.owner.set i none }
  let s := s.setActive i false
  let s :=
    if i == 0 || i == 1 || i == 7 || i == 8 then
      if s.get (endFld i) == rsnSst then
        (let m := if i == 0 || i == 7 then 0 else 1
         if off && !s.stageBusy m i && !bitOf m s.modes.brake then s.stageOff m else s)
      else s.holdBegin (if i == 0 || i == 7 then 0 else 1) i off
    else if off then (instEntries i).foldl (fun s e => if s.stageBusy e i then s else s.stageOff e) s
    else s
  s.pendScan

/-- The library releases the latched trips of PWM19–PWM22 whose inputs are inactive when DCD exits on request (R269). -/
def State.dcdTripClear (s : State) : State :=
  let s := [19, 20, 21, 22].foldl (fun s k =>
    let v := ofBits 4 (fun i => bitOf i (s.get (PWM_STATUS_TRIPPED k)) && bitOf (8 * i + 4) (s.rd (PWM_TRIPCFG k)).toNat && !s.tripIn k i)
    s.pwmTripClear k (BitVec.ofNat 32 v)) s
  s

/-- The ramp of an instance begins (R43). -/
def State.rampBegin (s : State) (i : Nat) : State :=
  s.setModes { s.modes with ramp := putBit i s.modes.ramp true, rampAt := s.modes.rampAt.set i s.now }

/-- The action of R54 for an active instance, ramping or not: DRV ends while its stage brakes, DCD ends without a ramp, and the
others ramp to zero and end. -/
def State.sstInst (s : State) (i : Nat) : State :=
  let s := (s.put (endFld i) rsnSst).setModes { s.modes with sst := putBit i s.modes.sst true }
  if i == 0 || i == 1 then (s.setModes { s.modes with brake := putBit i s.modes.brake true }).instGone i false
  else if i == 5 then s.instGone i true
  else if s.ramping i && i != 7 && i != 8 then s
  else s.rampBegin i

/-- An instance ends with a reason: over its ramp, or at once for FAULT, which cuts a running ramp (R43); on SST as R54 says. Its
owner keeps it until its ramp has ended. -/
def State.endInst (s : State) (i rsn : Nat) : State :=
  if !s.active i then s
  else if rsn == rsnSst then s.sstInst i
  else if s.ramping i then
    if rsn == rsnFault then s.instGone i false else s
  else
    let s := s.put (endFld i) rsn
    if rsn == rsnFault then s.instGone i false
    else if i == 9 || i == 6 then s.instGone i true
    else s.rampBegin i

/-- A stage fault of a ledger entry ends every instance of the stage with FAULT and every pending request for one
(R40, R241, R380). -/
def State.entryFault (s : State) (e : Nat) : State :=
  (entryInsts e).foldl (fun s i => (s.cancelPend i stFault).endInst i rsnFault) s

/-- A latched protection fault on gate channel g is a stage fault (R40). -/
def State.stageFault (s : State) (g : Nat) : State := if s.start.kp then s.entryFault (gateEntry g) else s

/-! ### Safe stop and hold (R54–R57) -/

/-- DCD ends with SST, without a ramp, once group C's enable or D12's is gone (R54). -/
def State.sstDcd (s : State) : State :=
  if s.active 10 && s.active 5 && !(s.bit HSM_STATUS_EN 2 && s.bit HSM_STATUS_EN 3) then s.endInst 5 rsnSst else s

/-- SST entry on a Badger demand: pending requests but HLD's end with SAFE_STATE, and the actions of R54 begin. -/
def State.sstEnter (s : State) : State :=
  if !s.start.kp then s
  else
    let s := s.setModes { s.modes with blocked := true }
    if s.active 10 then s.sstDcd
    else
      let s := s.setActive 10 true
      let s := (List.range 11).foldl (fun s i => s.cancelPend i stSafeState) s
      let s := leased.foldl (fun s i => s.endInst i rsnSst) s
      s.sstDcd

/-- HLD entry with a cause: pending requests end with SAFE_STATE, and the instances of R56 end with HLD; ACT ends so once no sequence
runs. A hold of R44 becomes one in ASC. -/
def State.hldEnter (s : State) (cause : Nat) : State :=
  if s.active 11 then s
  else
    let s := ((s.setActive 11 true).put MDM_HOLD_CAUSE cause).changed 0x0203
    let s := (List.range 11).foldl (fun s i => s.cancelPend i stSafeState) s
    let s := (leased ++ [5]).foldl (fun s i => s.endInst i rsnHld) s
    let s := if s.anySeq then s else s.endInst 6 rsnHld
    [0, 1].foldl (fun s m => if s.get (LGE_STAT_HOLD m) != 0 then s.put (LGE_STAT_HOLD m) 2 else s) s

/-- Badger reports the stop complete: SST ends, and a pending HLD is entered (R55, R57). -/
def State.sstDone (s : State) : State :=
  if s.active 10 then
    let s := (s.setActive 10 false).put (endFld 10) rsnExit
    let s := s.setModes { s.modes with sst := 0, brake := 0 }
    match s.pendOf 11 with
    | some p => ((s.dropPend 11).hldEnter 3).finalAll p.toks stOk
    | none => s
  else s

/-- Badger permits restart (R55, R297). -/
def State.restartPermitted (s : State) : State := s.setModes { s.modes with blocked := false }

/-- The request to leave HLD is taken; a hold in ASC goes on in zero-torque control (R44). -/
def State.hldExit (s : State) : State :=
  let s := (s.put (endFld 11) rsnExit).put MDM_HOLD_CAUSE 0
  let s := [0, 1].foldl (fun s m => if s.get (LGE_STAT_HOLD m) == 2 then s.put (LGE_STAT_HOLD m) 1 else s) s
  ((s.setOwner 11 none).setActive 11 false).changed 0x0203

/-! ### Sessions (R37, R358) -/

/-- The session of a handle ends: its instances of R37 end with LEASE, and its pending requests with BAD_SESSION. -/
def State.modesLeave (s : State) (handle : Nat) : State :=
  let mine (s : State) (i : Nat) : Bool := s.ownerOf i == some handle
  let s := (List.range 12).foldl (fun s i => if s.waiting i && mine s i then s.cancelPend i stBadSession else s) s
  let s := leased.foldl (fun s i => if s.running i && mine s i then s.endInst i rsnLease else s) s
  (List.range 12).foldl (fun s i => if mine s i then s.setOwner i none else s) s

/-! ### Evaluation of a request (R40, R48, R49, R52, R58) -/

/-- The policy field of an instance (R48). -/
def polField (i : Nat) : Option Nat :=
  if i == 0 then some 0 else if i == 1 then some 2 else if i == 7 then some 4 else if i == 8 then some 6
  else if i == 5 then some 8 else none

def State.policy (s : State) (lo : Nat) : Nat := bitsOf (lo + 1) lo (s.rd MDM_PLUGPOL).toNat

/-- The plug policy refuses entry of an instance. -/
def State.plugRefuses (s : State) (i : Nat) : Bool :=
  s.is MDM_PLUG_PLUG && (match polField i with
    | some lo => s.policy lo != 0
    | none => false)

/-- The mode of an instance in the order of MDM_PAIRDENY. -/
def modeIdx (i : Nat) : Nat := nth [0, 0, 1, 2, 3, 4, 5, 6, 6, 7, 8, 9] i 9

/-- The bit of MDM_PAIRDENY for a pair of modes; none for SST and HLD. -/
def denyBit (i q : Nat) : Option Nat :=
  let a := min (modeIdx i) (modeIdx q)
  let b := max (modeIdx i) (modeIdx q)
  if 8 ≤ b then none else some (nth [0, 8, 14, 19, 23, 26, 28, 30] a 0 + b - nth [0, 2, 3, 4, 5, 6, 6, 7] a 0)

def State.denied (s : State) (i q : Nat) : Bool :=
  match denyBit i q with
  | some b => bitOf b (s.rd MDM_PAIRDENY).toNat
  | none => false

/-- The outcome of a pair rule for a request (R49, R52). -/
inductive PairOut where
  | pass
  | refuse (status : Nat)
  | preempt
  | wait                    -- X7: PRK waits for the running park-lock sequence
  deriving DecidableEq, Repr

/-- The pair rule of request r with the active or pending instance q; code is the sequence that an ACT request starts. -/
def State.pairRule (s : State) (r q code : Nat) : PairOut :=
  if (r == 1 && q == 2) then .refuse stHeld
  else if r == 2 && q == 1 then (if s.standstill 1 then .preempt else .refuse stBadState)
  else if r == 6 && (q == 0 || q == 1) then (if code == 1 then .refuse stHeld else .pass)
  else if (r == 0 || r == 1) && q == 9 then .refuse stHeld
  else if r == 9 && (q == 0 || q == 1) then (if s.slow 0 && s.slow 1 then .preempt else .refuse stBadState)
  else if 2 ≤ r ∧ r ≤ 4 ∧ 2 ≤ q ∧ q ≤ 4 then .refuse stHeld
  else if r == 8 && q == 2 then .refuse stHeld
  else if r == 2 && q == 8 then (if s.standstill 1 then .preempt else .refuse stBadState)
  else if r == 6 && q == 9 then (if code == 2 then .refuse stHeld else .pass)
  else if r == 9 && q == 6 then (if s.actRuns 0 then .wait else .pass)
  else .pass

/-- The active or pending instances other than r, SST and HLD. -/
def State.others (s : State) (r : Nat) : List Nat := (List.range 10).filter (fun q => q != r && (s.active q || s.waiting q))

/-- The first refusal over the pairs of a request (R58). -/
def State.pairRefusal (s : State) (r code : Nat) : List Nat → Option Nat
  | [] => none
  | q :: t =>
    if s.denied r q then some stBadState
    else match s.pairRule r q code with
      | .refuse st => some st
      | _ => s.pairRefusal r code t

/-- The checks of R58 before an instance's own conditions; the status of the first that fails. After SST and before Badger
permits restart a request to enter HLD is not refused: R55 exempts it, where the pseudocode of R58 does not (DEDUCED, log
entry 108). -/
def State.gateRefusal (s : State) (i : Nat) (exit : Bool) : Option Nat :=
  if s.order == .sa && (i == 1 || i == 2 || i == 8) then some stBadParam
  else if s.active 10 || (s.modes.blocked && (exit || i != 11)) then some stSafeState
  else if s.active 11 && !(exit && i == 11) then some stSafeState
  else none

/-- Another session owns the instance while its lease is valid (R37). -/
def State.heldBy (s : State) (i handle : Nat) : Bool :=
  match s.ownerOf i with
  | some h => h != handle && s.valid h
  | none => false

/-- An accepted request waits, for ramps, a stage, a park-lock sequence or the stop (R38). -/
def State.makePend (s : State) (i why : Nat) (tk : Tok) : State :=
  let s := (s.setModes { s.modes with pend := s.modes.pend ++ [⟨i, [tk], why, s.now⟩] }).setWaiting i true
  (if s.active i then s else s.setOwner i (some tk.handle)).reply tk stPending

/-- A request joins a pending one and shares its final reply (R380). -/
def State.joinPend (s : State) (i : Nat) (tk : Tok) : State :=
  (s.setModes { s.modes with pend := s.modes.pend.map (fun p => if p.inst == i then { p with toks := p.toks ++ [tk] } else p) }).reply tk
    stPending

/-- MODE_ENTER for an instance that is active or pending already (R380). -/
def State.reEnter (s : State) (i : Nat) (tk : Tok) : State :=
  if s.heldBy i tk.handle then s.reply tk stHeld
  else if s.active i then (s.setOwner i (some tk.handle)).reply tk stOk
  else s.joinPend i tk

/-- A permitted request pre-empts what its pair rules say, and is entered or waits (R38, R58). -/
def State.grantMode (s : State) (i : Nat) (tk : Tok) : State :=
  let pre := (s.others i).filter (fun q => s.pairRule i q 0 == .preempt)
  let wait := (s.others i).any (fun q => s.pairRule i q 0 == .wait)
  let s := pre.foldl (fun s q => (s.cancelPend q stBadState).endInst q rsnPreempt) s
  if !pre.isEmpty then (s.makePend i 0 tk).pendScan
  else if i == 11 then ((s.setOwner 11 (some tk.handle)).hldEnter 3).reply tk stOk
  else if 2 ≤ i ∧ i ≤ 5 then s.makePend i 1 tk
  else if i == 9 && !(s.modes.lock && !wait) then
    if wait || s.actRuns 0 then s.makePend 9 2 tk
    else (s.seqStart 0 1 0).makePend 9 2 tk
  else ((s.enterInst i).setOwner i (some tk.handle)).reply tk stOk

/-- The PWM modules that the entry of an instance needs, so that no off-state diagnostics may hold them (R150). -/
def State.entryModules (s : State) (i : Nat) : List Nat :=
  if i == 9 then (if s.modes.lock then [] else actMods 0) else (instEntries i).flatMap entryMods

/-- MODE_ENTER (R58, R380): the first check that fails decides the status. -/
def State.modeEnter (s : State) (i : Nat) (tk : Tok) : State :=
  if i == 6 || i == 10 || 12 ≤ i then s.badParam tk 0
  else if s.active 10 && i == 11 then
    (if s.waiting 11 then s.joinPend 11 tk else s.makePend 11 3 tk)
  else match s.gateRefusal i false with
    | some st => s.refuse tk st
    | none =>
      if s.active i || s.waiting i then s.reEnter i tk
      else if s.osdBlocks (s.entryModules i) then s.reply tk stBadState
      else match s.entryRefusal i with
        | some st => if st == stBadParam then s.reply tk st (beBytes 2 0xFFFF) else s.refuse tk st
        | none =>
          if s.plugRefuses i then s.reply tk stBadState
          else match s.pairRefusal i 0 (s.others i) with
            | some st => s.reply tk st
            | none => s.grantMode i tk

/-- MODE_EXIT (R381). -/
def State.modeExit (s : State) (i : Nat) (tk : Tok) : State :=
  if i == 10 || 12 ≤ i then s.badParam tk 0
  else match s.gateRefusal i true with
    | some st => s.refuse tk st
    | none =>
      if !s.active i && !s.waiting i then s.reply tk stBadState
      else if s.heldBy i tk.handle then s.reply tk stHeld
      else
        let s := s.setOwner i (some tk.handle)
        if i == 11 then (if s.get MDM_HOLD_CAUSE == 3 then s.hldExit.reply tk stOk else s.reply tk stBadState)
        else if !s.active i then (s.reply tk stOk).cancelPend i stBadState
        else if i == 6 && s.anySeq then
          (s.setModes { s.modes with exitAct := s.modes.exitAct ++ [tk] }).reply tk stPending
        else
          let s := if i == 5 then s.dcdTripClear else s
          (s.endInst i rsnExit).reply tk stOk

end Sys2Proof.Machine
end

