-- ==== Sys2Proof/Machine/Badger.lean ====
section
/-! DEFINITION. The hard-wired safety monitor, Badger: sealed configuration, inputs, stops, enables and watchdog
(R278–R306). -/

namespace Sys2Proof.Machine


/-! ### Configuration (R280, R281) -/

/-- One byte of the CRC-8 with polynomial 0x2F, without reflection. -/
def crc8Byte (c b : Nat) : Nat :=
  (List.range 8).foldl (fun r _ => if 128 ≤ r then ((r * 2) % 256) ^^^ 0x2F else r * 2) ((c ^^^ b) % 256)

/-- The CRC-8 of R280: initial value 0xFF, final XOR 0xFF. -/
def crc8 (l : List Nat) : Nat := (l.foldl crc8Byte 0xFF) ^^^ 0xFF

def State.safeCfg (s : State) : Nat := s.get HSM_CFG_SAFECFG
def State.scopeC (s : State) : Bool := bitOf 15 s.safeCfg
def State.sinEn (s : State) (i : Nat) : Bool := bitOf (10 + i) s.safeCfg
/-- The envelope slope in Hz/s. -/
def State.slope (s : State) : Nat := nth [250, 500, 750, 1000, 1500, 2000, 3000, 4000] (bitsOf 6 4 s.safeCfg) 250
def State.stopTmo (s : State) : Nat := nth [1, 2, 4, 8] (bitsOf 3 2 s.safeCfg) 1 * 1000000
def State.discWin (s : State) : Nat := nth [10000, 20000, 50000, 100000] (bitsOf 1 0 s.safeCfg) 10000

def State.bState (s : State) : Nat := s.get HSM_STATUS_STATE
def State.sinDem (s : State) (i : Nat) : Bool := s.bit HSM_SIN_DEM (2 * i) || s.bit HSM_SIN_DEM (2 * i + 1)
def State.sinAny (s : State) : Bool := (List.range 4).any (fun i => s.sinEn i && s.sinDem i)

/-- A level-1 record of Badger: the tick count in bytes 16–19, the source code in 20, the group mask or motor in 21 (R306). -/
def State.bLog (s : State) (index typ code arg : Nat) : State :=
  s.log 1 index typ (leBytes 4 s.badger.tick ++ [BitVec.ofNat 8 code, BitVec.ofNat 8 arg])

/-- A source of codes 0x07–0x0F is still present (R297). -/
def State.bPresent (s : State) : Bool :=
  (List.range 4).any (fun c => s.get (SCC_STAT_STATE c) == 3)
  || (List.range 8).any (fun n => s.is (CE_DLSTAT_ESC n) && decide (s.get (CE_CTRL_LGENT n) < 2))
  || (List.range 24).any (fun g => s.gateHeld g)
  || s.shutdown || s.collapsed
  || s.badger.plaus.any (fun p => match p with
    | some t => decide (t + 19999 ≤ s.badger.tick)
    | none => false)

/-- The conditions of a RESTART (R297). -/
def State.restOk (s : State) : Bool :=
  s.bState == 5 && s.is HSM_STATUS_STOPCPL && !s.is HSM_STATUS_ASC_A && !s.is HSM_STATUS_ASC_B && !s.sinAny
  && s.get HSM_SIN_DISCF == 0 && !s.bPresent
  && (List.range 8).all (fun n => !s.is (HSM_WDCFG_EN n) || s.get (HSM_WDQ_ERR n) == 0)

/-- The mirror's derived bits follow Badger's state: SAFE_OK, RESTOK and DEM (R284, R297). -/
def State.bDerived (s : State) : State :=
  let s := s.putB HSM_STATUS_SAFEOK (s.bState == 3)
  let s := s.putB HSM_STATUS_RESTOK s.restOk
  s.putB HSM_STATUS_DEM (s.sinAny || s.bPresent)

/-- The mirror and the gate-command stage follow Badger's state and its forced states. -/
def State.bMirror (s : State) : State := s.bDerived.gatesFollow.osdGuard

/-! ### Enables, forced states and stops (R284, R294–R296) -/

/-- Group g loses its enable and takes forced-off; its domain is switched off (R28, R294). -/
def State.bRemove (s : State) (g : Nat) : State :=
  let had := s.bit HSM_STATUS_EN g
  let s := (s.putFldBit HSM_STATUS_EN g false).putFldBit HSM_STATUS_FOFF g true
  if had then
    let s := s.setBadger { s.badger with removedAt := s.badger.removedAt.set g s.badger.tick }
    s.domOff (9 + g)
  else s

def ascFld (m : Nat) : Fld := if m == 0 then HSM_STATUS_ASC_A else HSM_STATUS_ASC_B

/-- Motor m is held in ASC: its group keeps or regains its enable, and forced-ASC replaces forced-off (R295). -/
def State.ascBegin (s : State) (m code : Nat) : State :=
  if s.is (ascFld m) then s
  else
    let s := (s.put (ascFld m) 1).bLog 2 0x04 code m
    let s := (s.putFldBit HSM_STATUS_EN m true).putFldBit HSM_STATUS_FOFF m false
    s.domOn (9 + m)

/-- The motor's speed has reached the ASC threshold. -/
def State.ascSpeed (s : State) (m : Nat) : Bool := s.ascTh != 0 && decide (s.ascTh ≤ s.bspdSpeed m)

/-- Motor m may be held in ASC: its group has its enable, or the configuration is acknowledged, without which Badger grants none
(R283). -/
def State.ascMay (s : State) (m : Nat) : Bool :=
  (m == 0 || s.order == .da) && (s.bit HSM_STATUS_EN m || s.is HSM_CFG_CFGACK)

/-- Each motor of a group list: ASC at or above the threshold where D6 and D8 are on, forced-off otherwise. -/
def State.ascDecide (s : State) (code : Nat) : State :=
  [0, 1].foldl (fun s m =>
    if s.ascSpeed m && s.ascMay m then
      if s.isOn 6 && s.isOn 8 then s.ascBegin m code else s.put HSM_STATUS_ASCUNAV 1
    else s) s

/-- The groups whose enable a stop removes lose it, apart from a motor group held in ASC; one log record names them. -/
def State.bRemoveAll (s : State) (groups : List Nat) (code : Nat) : State :=
  let gone := groups.filter (fun g => !(decide (g < 2) && s.is (ascFld g)))
  let s := s.bLog 3 0x08 code (ofBits 4 (fun g => gone.contains g && s.bit HSM_STATUS_EN g))
  (gone.foldl (fun s g => s.bRemove g) s).sstDcd

/-- In STO or FAULT with no motor in ASC the stop is complete, and SST ends (R296, R55). -/
def State.stopCheck (s : State) : State :=
  if (s.bState == 5 || s.bState == 6) && !s.is HSM_STATUS_ASC_A && !s.is HSM_STATUS_ASC_B then
    (if s.is HSM_STATUS_STOPCPL then s else (s.put HSM_STATUS_STOPCPL 1).bLog 0 0x06 0 0).sstDone
  else s

/-- STO (state 5) and FAULT (state 6): both means in one tick (R294). HSM_SS1T keeps the ticks of the SS1 that ends. -/
def State.enterStop (s : State) (st code : Nat) : State :=
  let s := if s.bState == 4 then s.put HSM_SS1T_T (s.badger.tick - s.badger.ss1At) else s
  let s := s.put HSM_STATUS_STATE st
  let s := s.bLog 1 (if st == 5 then 0x02 else 0x03) code 0
  let s := (s.put (HSM_ENV_ENV 0) 0).put (HSM_ENV_ENV 1) 0
  let s := s.sstEnter
  let s := s.ascDecide code
  let groups := if st == 6 then [0, 1, 2, 3] else if s.scopeC then [0, 1, 2] else [0, 1]
  (s.bRemoveAll groups code).stopCheck

/-- The envelope at t Badger ticks after SS1 entry, in 1/16 Hz, at least 20 Hz (R292). -/
def envelope (fd slope t : Nat) : Nat := max 320 (((fd * 18 + 800) * 1000000 - slope * 16 * t) / 1000000)

/-- SS1: each motor's speed is recorded and the timer starts (R292). -/
def State.enterSs1 (s : State) : State :=
  let s := s.put HSM_STATUS_STATE 4
  let f0 := s.bspdSpeed 0
  let f1 := s.bspdSpeed 1
  let s := s.setBadger { s.badger with ss1At := s.badger.tick, evalAt := s.badger.tick, fd := [f0, f1], excess := [0, 0] }
  let s := s.put (HSM_ENV_ENV 0) (envelope f0 s.slope 0)
  let s := s.put (HSM_ENV_ENV 1) (envelope f1 s.slope 0)
  s.sstEnter

/-- The reaction of a source: 1 SS1, 2 STO, 3 FAULT (R291); r is the reaction a safety core's boot record names for 0x0A. -/
def State.reaction (s : State) (code r : Nat) : Nat :=
  if code ≤ 4 then (if bitOf 14 s.safeCfg then 2 else 1)
  else if code == 5 || code == 9 then 1
  else if code == 0x0A then r
  else if code == 0x0D || code == 0x0E || 0x10 ≤ code then 3
  else 2

/-- FIRST is written in the present tick. -/
def State.firstNow (s : State) : State := s.setBadger { s.badger with firstAt := s.badger.tick }

/-- The source's bit, and FIRST: the first source since the restart, the lowest code of those of one tick (R291, R302). -/
def State.bCause (s : State) (code : Nat) : State :=
  let s := s.putFldBit HSM_CAUSE_SRC (code - 1) true
  let f := s.get HSM_CAUSE_FIRST
  if f == 0 then (s.put HSM_CAUSE_FIRST code).firstNow
  else if s.badger.firstAt == s.badger.tick && decide (code < f) then s.put HSM_CAUSE_FIRST code
  else s

/-- A source: its bit in HSM_CAUSE, FIRST, the demand record where it begins a stop, and its reaction (R291, R302, R306). -/
def State.bSource (s : State) (code r : Nat) : State :=
  let s := s.bCause code
  let re := s.reaction code r
  let st := s.bState
  let s := if st ≤ 3 ∧ (2 ≤ re ∨ st = 3) then s.bLog 0 0x01 code 0 else s
  let s := if re == 3 then (if st == 6 then s else s.enterStop 6 code)
    else if re == 2 then (if st == 6 || st == 5 then s else s.enterStop 5 code)
    else if st == 3 then s.enterSs1
    else s
  s.bMirror

/-! ### Seal, clock and latch (R278–R283) -/

/-- The pins are read, the configuration is checked, and Badger waits for its acknowledgement or stays in CFGFAIL, where the
device enters HLD with cause SEAL (R279, R280). -/
def State.sealRead (s : State) (d0 d1 d2 u0 u1 u2 : BitVec 24) : State :=
  if s.isOn 2 && s.bState == 0 && decide (s.badger.onAt + 100 ≤ s.badger.tick) then
    let same := d0 == d1 && d0 == d2 && d0 == u0 && d0 == u1 && d0 == u2
    let cfg := d0.toNat / 256
    let chk := d0.toNat % 256
    let ok := same && crc8 [cfg / 256, cfg % 256] == chk
    let s := ((s.put HSM_CFG_SAFECFG cfg).put HSM_CFG_SAFECHK chk).putB HSM_CFG_VALID ok
    if ok then (s.put HSM_STATUS_STATE 2).bMirror
    else
      let s := (s.put HSM_STATUS_STATE 1).bLog 4 0x0A 0 0
      if s.start.kp then s.hldEnter 1 else s
  else s

def execSealRead (d0 d1 d2 u0 u1 u2 : BitVec 24) (s : State) : Res := .next (s.sealRead d0 d1 d2 u0 u1 u2)

/-- Each 32-Marten-cycle interval must hold 880–1,080 Badger ticks (R278). -/
def State.clockCheck (s : State) : State :=
  if s.isOn 2 && decide (s.badger.clkMarten + 32 ≤ s.marten) then
    let n := s.badger.tick - s.badger.clkTick
    let s := s.setBadger { s.badger with clkTick := s.badger.tick, clkMarten := s.marten }
    if n < 880 ∨ 1080 < n then s.bSource 0x10 0 else s
  else s

def execBadgerClockCheck (s : State) : Res := .next s.clockCheck

/-- Every 1,000 ticks the CRC of the latched configuration is recomputed (R282). -/
def State.latchCheck (s : State) : State :=
  if s.isOn 2 && s.is HSM_CFG_VALID && decide (s.badger.latchAt + 1000 ≤ s.badger.tick) then
    let s := s.setBadger { s.badger with latchAt := s.badger.tick }
    if crc8 [s.safeCfg / 256, s.safeCfg % 256] == s.get HSM_CFG_SAFECHK then s else s.bSource 0x11 0
  else s

def execLatchSelfCheck (s : State) : Res := .next s.latchCheck

/-- Badger takes a write only from an SC thread whose core was latched Paired or Voted; any other is ignored and counted, and
ends in no bus error (R31, R25). -/
def State.hsmFrom (s : State) (ini : Initiator) (f : State → State) : State :=
  match ini with
  | .sc c _ => if s.get (SCC_MODE_MODE c.val) == 1 || s.get (SCC_MODE_MODE c.val) == 2 then f s else s.inc HSM_CNT_IGNWR
  | _ => s.inc HSM_CNT_IGNWR

/-- HSM_ACK: the exact sealed value in WAIT_ACK sets CFGACK and gives READY, or STO with every enabled input that demands as a source (R283,
R302);
the watchdogs of the enabled tasks start (R300). -/
def State.hsmAck (s : State) (v : Word) : State :=
  if s.bState == 2 && bitsOf 23 0 v.toNat == s.safeCfg * 256 + s.get HSM_CFG_SAFECHK then
    let s := (s.put HSM_CFG_CFGACK 1).put HSM_STATUS_STATE 3
    let s := (List.range 8).foldl (fun s n =>
      if s.is (HSM_WDCFG_EN n) then
        let s := ((s.put (HSM_WDQ_ACTIVE n) 1).put (HSM_WDQ_Q n) (n + 1)).put (HSM_WDQ_ERR n) 0
        s.setBadger { s.badger with wd := s.badger.wd.set n ⟨s.badger.tick, false, none⟩ }
      else s) s
    let ins := (List.range 4).filter (fun i => s.sinEn i && s.sinDem i)
    match ins.head? with
    | some i =>
      let s := ins.foldl (fun s j => s.bCause (j + 1)) s
      ((s.bLog 0 0x01 (i + 1) 0).enterStop 5 (i + 1)).bMirror
    | none => s.bMirror
  else s.inc HSM_CNT_ACKERR

def execHsmAck (ini : Initiator) (val : Word) (s : State) : Res := .next (s.hsmFrom ini (fun s => s.hsmAck val))

/-! ### Inputs (R286–R290) -/

def execSinPadChange (ch : Fin 8) (level : Bool) (s : State) : Res :=
  .next (if bitOf ch.val s.badger.pads == level then s
    else s.setBadger { s.badger with pads := putBit ch.val s.badger.pads level, padAt := s.badger.padAt.set ch.val s.badger.tick })

/-- The discrepancy window closes with the channels still differing (R288). -/
def State.sinDiscrepancy (s : State) (i : Nat) : State :=
  match nth s.badger.disc i none with
  | some t =>
    if s.isOn 2 && s.sinEn i && s.bit HSM_SIN_DEM (2 * i) != s.bit HSM_SIN_DEM (2 * i + 1)
        && decide (t + s.discWin ≤ s.badger.tick) then
      let s := s.setBadger { s.badger with disc := s.badger.disc.set i none }
      ((s.putFldBit HSM_SIN_DISCF i true).bLog 4 0x0B 0 i).bMirror
    else s
  | none => s

def execSinDiscrepancy (i : Fin 4) (s : State) : Res := .next (s.sinDiscrepancy i.val)

/-- A channel's new level has been held for 200 samples: it is accepted; a low level demands (R286–R288). A discrepancy window that
closes in this tick closes first (R14, R70). -/
def State.sinAccept (s : State) (ch : Nat) : State :=
  let dem := !bitOf ch s.badger.pads
  if s.isOn 2 && s.bit HSM_SIN_DEM ch != dem && decide (nth s.badger.padAt ch 0 + 200 ≤ s.badger.tick) then
    let i := ch / 2
    let s := (s.sinDiscrepancy i).putFldBit HSM_SIN_DEM ch dem
    let a := s.bit HSM_SIN_DEM (2 * i)
    let b := s.bit HSM_SIN_DEM (2 * i + 1)
    let s :=
      if s.sinEn i then
        if a != b then
          (match nth s.badger.disc i none with
           | none => s.setBadger { s.badger with disc := s.badger.disc.set i (some s.badger.tick) }
           | some _ => s)
        else s.setBadger { s.badger with disc := s.badger.disc.set i none }
      else s
    let s := if a && b then s.putFldBit HSM_SIN_DISCF i false else s
    if dem && s.sinEn i then s.bSource (i + 1) 0 else s.bMirror
  else s

def execSinAccept (ch : Fin 8) (s : State) : Res := .next (s.sinAccept ch.val)

def State.bspdCh (s : State) (c : Nat) : Bspd := nth s.badger.bspd c ⟨false, none, 0, none, none⟩
def State.setBspd (s : State) (c : Nat) (b : Bspd) : State := s.setBadger { s.badger with bspd := s.badger.bspd.set c b }

def execBspdPadChange (ch : Fin 4) (level : Bool) (s : State) : Res :=
  .next (let b := s.bspdCh ch.val
    if b.pad == level then s else s.setBspd ch.val { b with pad := level, changeAt := s.badger.tick })

/-- The mirror of a channel's speed. -/
def State.spdMirror (s : State) (c : Nat) : State :=
  s.put (if c % 2 == 0 then HSM_SPD_SPDA (c / 2) else HSM_SPD_SPDB (c / 2)) (s.bspdHz c)

/-- A level held for 3 samples is accepted; a rising one after the first accepted level is an edge, which gives the period
(R289). -/
def State.bspdEdge (s : State) (c : Nat) : State :=
  let b := s.bspdCh c
  let t := s.badger.tick
  if s.isOn 2 && decide (b.changeAt + 3 ≤ t) && b.accepted != some b.pad then
    let s := match b.accepted, b.pad with
      | some false, true =>
        let p := match b.lastEdge with
          | some l => some (t - l)
          | none => none
        s.setBspd c { b with accepted := some true, lastEdge := some t, period := p }
      | _, p => s.setBspd c { b with accepted := some p }
    s.spdMirror c
  else s

def execBspdEdge (ch : Fin 4) (s : State) : Res := .next (s.bspdEdge ch.val)

def State.bspdTimeout (s : State) (ch : Nat) : State :=
  match (s.bspdCh ch).lastEdge with
  | some l => if s.isOn 2 && decide (l + 50000 ≤ s.badger.tick) then s.spdMirror ch else s
  | none => s

def execBspdSpeedTimeout (ch : Fin 4) (s : State) : Res := .next (s.bspdTimeout ch.val)

/-- The channels of a motor differ by more than an eighth of the larger plus 20 Hz (R290). -/
def State.bspdDiffer (s : State) (m : Nat) : Bool :=
  let a := s.bspdHz (2 * m)
  let b := s.bspdHz (2 * m + 1)
  decide (max a b + 160 < 8 * (max a b - min a b))

def State.bspdPlaus (s : State) (m : Nat) : State :=
  match nth s.badger.plaus m none with
  | some t => if s.isOn 2 && decide (t + 19999 ≤ s.badger.tick) && s.bspdDiffer m then s.bSource 0x0F 0 else s
  | none => s

def execBspdPlausibility (m : Fin 2) (s : State) : Res := .next (s.bspdPlaus m.val)

/-- One Badger tick passes: the plausibility counts run (R290). -/
def State.badgerTick (s : State) : State :=
  if s.isOn 2 then
    let s := s.setBadger { s.badger with tick := s.badger.tick + 1 }
    let upd (p : Option Nat) (m : Nat) : Option Nat :=
      if s.bspdDiffer m then (match p with
        | some t => some t
        | none => some s.badger.tick) else none
    s.setBadger { s.badger with plaus := [upd (nth s.badger.plaus 0 none) 0, upd (nth s.badger.plaus 1 none) 1] }
  else s

/-! ### Evaluation and SS1 (R292, R295) -/

/-- The envelope check of one motor: two consecutive excesses exceed it. -/
def State.envCheck (s : State) (m : Nat) : State × Bool :=
  let e := envelope (nth s.badger.fd m 0) s.slope (s.badger.tick - s.badger.ss1At)
  let s := s.put (HSM_ENV_ENV m) e
  let n := if e < 16 * s.bspdSpeed m then nth s.badger.excess m 0 + 1 else 0
  (s.setBadger { s.badger with excess := s.badger.excess.set m n }, decide (2 ≤ n))

/-- ASC exit and re-entry at an evaluation (R295). -/
def State.ascEval (s : State) (m : Nat) : State :=
  if s.is (ascFld m) then
    if 8 * s.bspdSpeed m < 7 * s.ascTh ∨ !(s.isOn 6 && s.isOn 8) then
      let s := if s.isOn 6 && s.isOn 8 then s else s.put HSM_STATUS_ASCUNAV 1
      let s := (s.put (ascFld m) 0).bLog 2 0x05 0 m
      let s := s.bLog 3 0x08 0 (2 ^ m)
      s.bRemove m
    else s
  else if s.ascSpeed m && s.ascMay m then
    (if s.isOn 6 && s.isOn 8 then s.ascBegin m 0 else s.put HSM_STATUS_ASCUNAV 1)
  else s

def State.bEvaluate (s : State) : State :=
  if s.isOn 2 && decide (s.badger.evalAt + 100 ≤ s.badger.tick) then
    let s := s.setBadger { s.badger with evalAt := s.badger.tick }
    if s.bState == 4 then
      let (s, x) := s.envCheck 0
      let (s, y) := s.envCheck 1
      let late := decide (s.badger.ss1At + s.stopTmo ≤ s.badger.tick)
      if x || y then (if late then (s.bSource 0x07 0).bSource 0x08 0 else s.bSource 0x07 0)
      else if late then s.bSource 0x08 0
      else if s.bspdSpeed 0 == 0 && s.bspdSpeed 1 == 0 then (s.enterStop 5 0).bMirror
      else s
    else if s.bState == 5 || s.bState == 6 then (((s.ascEval 0).ascEval 1).stopCheck).bMirror
    else s
  else s

def execBadgerEvaluation (s : State) : Res := .next s.bEvaluate

def State.ss1Timeout (s : State) : State :=
  if s.isOn 2 && s.bState == 4 && decide (s.badger.ss1At + s.stopTmo ≤ s.badger.tick) then s.bSource 0x08 0 else s

def execSs1Timeout (s : State) : Res := .next s.ss1Timeout

/-! ### Watchdog (R300, R301) -/

def State.wdOf (s : State) (n : Nat) : WdTask := nth s.badger.wd n ⟨0, false, none⟩
def State.setWd (s : State) (n : Nat) (w : WdTask) : State := s.setBadger { s.badger with wd := s.badger.wd.set n w }

/-- PERIOD and OPEN in Badger ticks, with the substitutes of R300's register table. -/
def State.wdPeriod (s : State) (n : Nat) : Nat := max 1 (s.get (HSM_WDCFG_PERIOD n)) * 100
def State.wdOpen (s : State) (n : Nat) : Nat := min (s.get (HSM_WDCFG_OPEN n)) (max 1 (s.get (HSM_WDCFG_PERIOD n)) - 1) * 100

/-- A watchdog error; reaching ERRMAX is source 0x09. -/
def State.wdError (s : State) (n : Nat) : State :=
  let s := (s.inc (HSM_WDQ_ERR n)).bLog 4 0x0C 0x09 n
  if s.get (HSM_WDQ_ERR n) == max 1 (s.get (HSM_WDCFG_ERRMAX n)) then s.bSource 0x09 0 else s.bMirror

/-- Each question is the previous one shifted right, XORed with 0xB8 when the bit shifted out was 1. -/
def nextQ (q : Nat) : Nat := if q % 2 == 1 then (q / 2) ^^^ 0xB8 else q / 2

def State.wdLive (s : State) (n : Nat) : Bool := s.isOn 2 && s.is HSM_CFG_CFGACK && s.is (HSM_WDCFG_EN n)

def State.wdQuestion (s : State) (n : Nat) : State :=
  let w := s.wdOf n
  if s.wdLive n && decide (w.qAt + s.wdPeriod n ≤ s.badger.tick) then
    let s := s.put (HSM_WDQ_Q n) (nextQ (s.get (HSM_WDQ_Q n)))
    let s := s.setWd n { w with qAt := s.badger.tick, answered := false }
    if w.answered then s else s.wdError n
  else s

def execWdQuestion (n : Fin 8) (s : State) : Res := .next (s.wdQuestion n.val)

/-- The TIMEBASE check against the last correct answer: |ΔTB × 1.024 − ΔB| ≤ ΔB / 8 + 20 (R301). -/
def tbOk (last : Option (Nat × Nat)) (tb b : Nat) : Bool :=
  match last with
  | none => true
  | some (tb0, b0) =>
    let dtb := (tb + 2 ^ 24 - tb0) % 2 ^ 24
    let db := b - b0
    decide (((1024 * dtb : Nat) - (1000 * db : Nat) : Int).natAbs ≤ 125 * db + 20000)

/-- An answer to task n's question. A question that is due comes first: the window is [OPEN, PERIOD) (R14, R300). -/
def State.wdAnswer (s : State) (core n : Nat) (v : Word) : State :=
  if !s.is (HSM_WDCFG_EN n) then s
  else if !s.is HSM_CFG_CFGACK then s
  else if core != s.get (HSM_WDCFG_CORE n) then s.wdError n
  else
    let s := s.wdQuestion n
    let w := s.wdOf n
    let d := s.badger.tick - w.qAt
    let tb := bitsOf 31 8 v.toNat
    let early := decide (d < s.wdOpen n)
    let good := bitsOf 7 0 v.toNat == crc8 [n, s.get (HSM_WDQ_Q n)] && tbOk w.last tb s.badger.tick
    let s := s.setWd n { w with answered := true }
    if w.answered || early || !good then s.wdError n
    else
      let s := s.setWd n ⟨w.qAt, true, some (tb, s.badger.tick)⟩
      (s.put (HSM_WDQ_ERR n) (s.get (HSM_WDQ_ERR n) - 1)).bMirror

def execWdAnswer (ini : Initiator) (n : Fin 8) (val : Word) (s : State) : Res :=
  .next (match ini with
    | .sc c _ => s.hsmFrom ini (fun s => s.wdAnswer c.val n.val val)
    | _ => s.hsmFrom ini (fun s => s))

/-- HSM_WDCFGn is written in WAIT_ACK and locked by CFGACK (R300). -/
def State.wdCfgWrite (s : State) (n : Nat) (v : Word) : State :=
  if s.bState == 2 && !s.is HSM_CFG_CFGACK then s.wr (HSM_WDCFG n) (v &&& 0xB0FFFFFF) else s

/-! ### What is due (R278–R301) -/

/-- What Badger does of itself by the end of its present tick. -/
def State.badgerDue (s : State) : State :=
  if s.isOn 2 then
    let s := (((s.bEvaluate.ss1Timeout).bspdPlaus 0).bspdPlaus 1).clockCheck.latchCheck
    let s := (List.range 8).foldl (fun s ch => s.sinAccept ch) s
    let s := (List.range 4).foldl (fun s i => s.sinDiscrepancy i) s
    let s := (List.range 4).foldl (fun s c => (s.bspdEdge c).spdMirror c) s
    ((List.range 8).foldl (fun s n => s.wdQuestion n) s).bDerived
  else s

/-! ### Requests (R297–R299) -/

def State.bRefuse (s : State) : State := s.inc HSM_CNT_REFUSED

/-- What is due in this tick comes first (R302). ENABLE in READY grants each requested group, whose domain then comes on (R449); on VX8800-SA group B is never granted
(R298). -/
def State.hsmEnable (s : State) (mask : Nat) : State :=
  let s := s.badgerDue
  if s.bState == 3 && s.is HSM_CFG_CFGACK then
    let gs := [0, 1, 2, 3].filter (fun g => bitOf g mask && !(g == 1 && s.order == .sa))
    let s := if gs.isEmpty then s else s.bLog 3 0x09 0 (ofBits 4 (fun g => gs.contains g))
    (gs.foldl (fun s g => ((s.putFldBit HSM_STATUS_EN g true).putFldBit HSM_STATUS_FOFF g false).domOn (9 + g)) s).bMirror
  else s.bRefuse

def execHsmEnable (ini : Initiator) (mask : BitVec 4) (s : State) : Res :=
  .next (s.hsmFrom ini (fun s => s.hsmEnable mask.toNat))

/-- RELEASE removes the named enables without a stop demand (R298). -/
def State.hsmRelease (s : State) (mask : Nat) : State :=
  let gs := [0, 1, 2, 3].filter (fun g => bitOf g mask && s.bit HSM_STATUS_EN g && !(decide (g < 2) && s.is (ascFld g)))
  let s := if gs.isEmpty then s else s.bLog 3 0x08 0 (ofBits 4 (fun g => gs.contains g))
  (gs.foldl (fun s g => s.bRemove g) s).bMirror

def execHsmRelease (ini : Initiator) (mask : BitVec 4) (s : State) : Res :=
  .next (s.hsmFrom ini (fun s => s.hsmRelease mask.toNat))

def execHsmSs1 (ini : Initiator) (s : State) : Res := .next (s.hsmFrom ini (fun s => s.bSource 0x05 0))

def execHsmSto (ini : Initiator) (s : State) : Res := .next (s.hsmFrom ini (fun s => s.bSource 0x06 0))

/-- What is due in this tick comes first (R302). RESTART moves Badger from STO to READY when the conditions hold (R297), or to WAIT_ACK where a warm start has cleared CFGACK
(R462). -/
def State.hsmRestart (s : State) : State :=
  let s := s.badgerDue
  if s.restOk then
    let s := ((s.put HSM_STATUS_STATE (if s.is HSM_CFG_CFGACK then 3 else 2)).wr HSM_CAUSE 0).put HSM_STATUS_STOPCPL 0
    let s := s.put HSM_STATUS_ASCUNAV 0
    ((s.bLog 0 0x07 0 0).restartPermitted).bMirror
  else s.bRefuse

def execHsmRestart (ini : Initiator) (s : State) : Res := .next (s.hsmFrom ini (fun s => s.hsmRestart))

/-- Any write to HSM_REQ by its code (R299). -/
def State.hsmReq (s : State) (v : Word) : State :=
  let code := bitsOf 31 24 v.toNat
  let mask := bitsOf 3 0 v.toNat
  if code == 0x01 then s.hsmEnable mask
  else if code == 0x02 then s.hsmRelease mask
  else if code == 0x10 then s.bSource 0x05 0
  else if code == 0x11 then s.bSource 0x06 0
  else if code == 0x20 then s.hsmRestart
  else s.bRefuse

/-! ### STO readback (R304) -/

/-- Forced-off must read back at the gate-command stage, and a removed group's power-good must be low within 5,000 ticks. -/
def execStoReadback (forced good : BitVec 4) (s : State) : Res :=
  .next (if s.isOn 2 then
    let bad := (List.range 4).any (fun g =>
      (s.bit HSM_STATUS_FOFF g && !forced.getLsbD g)
      || (!s.bit HSM_STATUS_EN g && good.getLsbD g && decide (nth s.badger.removedAt g 0 + 5000 ≤ s.badger.tick)))
    if bad && s.bState != 6 then s.bSource 0x12 0 else s
  else s)

/-! ### Pins -/

/-- SAFE_OK_A and SAFE_OK_B: high and low mean OK; both are low while D2 is off (R285). -/
def State.safeOkPins (s : State) : Bool × Bool :=
  if s.isOn 2 then (s.is HSM_STATUS_SAFEOK, !s.is HSM_STATUS_SAFEOK) else (false, false)

/-- FAULT_N is low until the start is complete, in HLD and while SYSC_RST.FAULTN is set; otherwise it is released (R475). -/
def State.faultNLow (s : State) : Bool := !s.start.sc || s.active 11 || s.is SYSC_RST_FAULTN

end Sys2Proof.Machine
end

