-- ==== Sys2Proof/Machine/Gate.lean ====
section
/-! DEFINITION. Gate-drive and power-stage protection commands: command edges, profiles, the edge monitor and its loop, bias and
bootstrap supplies, short-circuit protection, reaction groups and off-state diagnostics (R105–R153, R512). -/

namespace Sys2Proof.Machine

/-! ### Commands (R106–R110) -/

def execGateCommandEdge (g : Fin 64) (short near : Bool) (level : BitVec 10) (s : State) : Res :=
  .next (if s.isOn 6 then s.gateCommand g.val short near level.toNat else s)

/-- The pad's level changes; what has been held for GINFLT's time passes toward the gate-command stage (R106). -/
def State.ginEdge (s : State) (g : Nat) (up short near : Bool) (level : Nat) : State :=
  if s.isOn 6 then
    let s := s.ginPass g false level
    let c := s.gate g
    (if c.pad == up then s else s.setGate g { c with pad := up, padAt := s.now, padNear := up && near }).ginPass g short level
  else s.setGate g { s.gate g with gin := up, pad := up, padAt := s.now }

def execGinEdge (g : Fin 64) (up short near : Bool) (level : BitVec 10) (s : State) : Res :=
  .next (s.ginEdge g.val up short near level.toNat)

/-- The chiplet's link works: its group is on and its rails have reached regulation (R109, R110). -/
def State.linkUpGate (s : State) (g : Nat) : Bool := isolated g && s.gatePowered g && s.is (GD_STATUS_BIASOK g)

def State.keepaliveLoss (s : State) (g level : Nat) : State :=
  if s.linkUpGate g && !(s.gate g).link then
    (((s.setGate g { s.gate g with link := true }).put (GD_STATUS_LINKLOSS g) 1).log 6 g 0x01).gateFollow g level
  else s

def execKeepaliveLoss (g : Fin 64) (level : BitVec 10) (s : State) : Res := .next (s.keepaliveLoss g.val level.toNat)

/-- Frames have resumed, and the command has been off for 1 µs: the channel follows it again (R109). -/
def State.linkResume (s : State) (g level : Nat) : State :=
  let c := s.gate g
  if c.link && !c.eff && decide (c.effAt + 400 ≤ s.now) then (s.setGate g { c with link := false }).gateFollow g level else s

def execLinkResume (g : Fin 64) (level : BitVec 10) (s : State) : Res := .next (s.linkResume g.val level.toNat)

/-- The rails of a channel reach regulation; its levels count as not stored (R110, R512). -/
def State.biasReady (s : State) (g level : Nat) : State :=
  if isolated g && s.gatePowered g && !s.is (GD_STATUS_BIASOK g) then
    let c := { s.gate g with levOn := false, levOff := false, link := false, segs := 1 }
    ((s.put (GD_STATUS_BIASOK g) 1).setGate g c).gateFollow g level
  else s

def execBiasRegulationReached (g : Fin 64) (level : BitVec 10) (s : State) : Res := .next (s.biasReady g.val level.toNat)

/-- A write of a gate-drive register; one of a channel that is not populated is ignored (R6). -/
def State.gdWrite (s : State) (ini : Initiator) (g a : Nat) (f : State → State) : State :=
  s.busWrite ini a (fun s => if s.gatePopulated g then f s else s)

def execGdgLock (ini : Initiator) (val : Word) (s : State) : Res :=
  .next (s.busWrite ini GDG_LOCK.addr (fun s => s.fieldWrite GDG_LOCK.addr (val ||| 1)))

/-! ### Edges and the loop (R111–R120) -/

/-- The least and the greatest time of a phase of T × 10 ns are 2 ns + 3 % from it (R129); a phase lies between them. -/
def phaseMay (c : GateCh) (now : Nat) : Bool := decide (97 * phaseTime c.prof.toNat c.phase ≤ 25 * (now - c.phaseAt) + 20)
def phaseMust (c : GateCh) (now : Nat) : Bool := decide (103 * phaseTime c.prof.toNat c.phase + 20 ≤ 25 * (now - c.phaseAt))

/-- The running phase gives way to the next, or to the hold state (R111, R112). -/
def State.phaseNext (s : State) (g : Nat) : State :=
  let c := s.gate g
  s.setPhase g (if c.phase == 4 then 0 else nextPhase c.prof.toNat c.phase)

def State.phaseEnd (s : State) (g : Nat) : State :=
  let c := s.gate g
  if isolated g && c.phase != 0 && phaseMay c s.now then s.phaseNext g else s

def execEdgePhaseEnd (g : Fin 64) (s : State) : Res := .next (s.phaseEnd g.val)

/-- A write of a profile waits for the first edge that begins 100 ns later; with its loop enabled it reloads the count. -/
def State.profilePush (s : State) (g : Nat) (on : Bool) (v : Word) (reload : Bool) : State :=
  let c := s.gate g
  s.setGate g (if on then { c with shOn := c.shOn ++ [(s.now, v, reload)] } else { c with shOff := c.shOff ++ [(s.now, v, reload)] })

def profReg (g : Nat) (on : Bool) : Reg := if on then GD_PROFILE_ON g else GD_PROFILE_OFF g

def State.profileWrite (s : State) (g : Nat) (on : Bool) (v : Word) : State :=
  if isolated g then
    let s := s.fieldWrite (profReg g on).addr v
    s.profilePush g on (s.rd (profReg g on)) (s.is (loopEn g on))
  else s

def execGdProfileWrite (ini : Initiator) (g : Fin 64) (on : Bool) (val : Word) (s : State) : Res :=
  .next (s.gdWrite ini g.val (profReg g.val on).addr (fun s => s.profileWrite g.val on val))

/-- A write of LOOP: a direction that it enables reloads its count from PLAT_N (R120). -/
def State.loopWrite (s : State) (g : Nat) (v : Word) : State :=
  if isolated g then
    let was (on : Bool) := s.is (loopEn g on)
    let t := s.fieldWrite (GD_LOOP g).addr v
    let c := t.gate g
    let t := t.setGate g { c with loopOn := c.loopOn && t.is (GD_LOOP_EN_ON g), loopOff := c.loopOff && t.is (GD_LOOP_EN_OFF g) }
    [true, false].foldl (fun t on =>
      if t.is (loopEn g on) && !was on then t.profilePush g on (t.rd (profReg g on)) true else t) t
  else s

def execGdLoopWrite (ini : Initiator) (g : Fin 64) (val : Word) (s : State) : Res :=
  .next (s.gdWrite ini g.val (GD_LOOP g.val).addr (fun s => s.loopWrite g.val val))

/-- The loop after a valid edge that used the count n + 1 (R118, R119). -/
def State.loopStep (s : State) (g : Nat) (on : Bool) (n dvdt : Nat) : State :=
  if s.is (loopEn g on) && !s.is (GD_LOOP_FREEZE g) && !s.is (GD_STATUS_FORCED g) && !s.gateHeld g then
    let ceil := s.get (GD_LOOP_CEIL g)
    let run := s.get (runFld g on)
    if ceil < dvdt then
      let s := s.put (runFld g on) 0
      let x := (s.put (GD_STATUS_CEILX g) 1).inc (GD_CNT0_CEILX_CNT g)
      if s.nMin g < n then (x.put (nFld g on) (n - 1)).put (GD_STATUS_NLIM g) 0
      else if n == s.nMin g then (x.put (nFld g on) n).put (GD_STATUS_NLIM g) 1
      else (s.put (nFld g on) n).put (GD_STATUS_NLIM g) 0
    else
      let s := s.put (GD_STATUS_NLIM g) 0
      if dvdt * (n + 2) * 32 ≤ ceil * (32 - s.get (GD_LOOP_MARGIN g)) * (n + 1) ∧ n < s.get (GD_LOOP_NMAX g) then
        if s.get (GD_LOOP_UPCNT g) ≤ run then (s.put (nFld g on) (n + 1)).put (runFld g on) 0
        else (s.put (nFld g on) n).put (runFld g on) (run + 1)
      else (s.put (nFld g on) n).put (runFld g on) 0
  else s

/-- The switched voltage of an edge in millivolts (R115). -/
def State.switched (s : State) (g : Nat) : Int :=
  ((s.get (GD_LEVELS_VOFF g) : Int) - (s.get (GD_LEVELS_VON g) : Int)) * 5 * (s.get (GD_SENSE_SNSK g) : Int)

/-- DVDT of R116 from the level difference d, the divider ratio and T2080. -/
def dvdtOf (d snsk t : Nat) : Nat := if t == 0 then 800 else min 800 (d * snsk * 768 / (10000 * t))

/-- MEASWIN in units of 156.25 ps. -/
def State.measWin (s : State) (g : Nat) : Nat := 64 * s.get (GD_SENSE_MEASWIN g)

/-- The time between the two crossings, where both fall into the measurement window. -/
def State.edgeTime (s : State) (g : Nat) (cross : Option (Nat × Nat)) : Option Nat :=
  match cross with
  | some (a, b) => if max a b < s.measWin g then some (max a b - min a b) else none
  | none => none

/-- The edge monitor's result. cross: the two crossings in units of 156.25 ps after the command edge reached the chiplet, none
where VSNS did not make both; T2080 is the time between them (R116–R118). -/
def State.edgeMeasured (s : State) (g : Nat) (on : Bool) (cross : Option (Nat × Nat)) : State :=
  let c := s.gate g
  match (if on then c.monOn else c.monOff) with
  | none => s
  | some (n, bad) =>
    let s := s.setGate g (if on then { c with monOn := none } else { c with monOff := none })
    if !(c.levOn && c.levOff) || s.get (GD_SENSE_SNSK g) == 0 || decide (s.switched g < 1000 * (s.get (GD_SENSE_VSWMIN g) : Int)) then
      s.edgeInvalid g on n 1
    else match s.edgeTime g cross with
      | none => s.edgeInvalid g on n 2
      | some t =>
        if 4095 < t then s.edgeInvalid g on n 4
        else if bad then s.edgeInvalid g on n 5
        else
          let d := s.get (GD_LEVELS_VOFF g) - s.get (GD_LEVELS_VON g)
          let v := dvdtOf d (s.get (GD_SENSE_SNSK g)) t
          let s := s.wr (edgeReg g on) (BitVec.ofNat 32 (2 ^ 31 + n * 2 ^ 26 + v * 2 ^ 16 + t))
          s.loopStep g on n v

def execEdgeMeasured (g : Fin 64) (on : Bool) (cross : Option (Nat × Nat)) (s : State) : Res :=
  .next (s.edgeMeasured g.val on cross)

/-! ### Bootstrap channels (R125–R128) -/

/-- A high-side bootstrap channel. -/
def bootHigh (g : Nat) : Bool := decide (42 ≤ g) && g % 2 == 0

/-- T_REFRESH in instants. -/
def State.tRefresh (s : State) (g : Nat) : Nat := 20000 * max 1 (min 200 (s.get (GD_BOOT_T_REF g)))

def State.refreshStart (s : State) (g : Nat) : State :=
  let c := s.gate g
  if bootHigh g && s.gatePowered g && s.is (GD_BOOT_RF_EN g) && c.drv && s.is (GD_STATUS_GATE g) && c.refresh == 0
      && decide (c.gateAt + s.tRefresh g ≤ s.now) then
    ((((s.setGate g { c with refresh := 1, refAt := s.now, refEnd := false }).put (GD_STATUS_GATE g) 0).put (GD_STATUS_RFACT g) 1).inc (GD_CNT1_RF_CNT g))
  else s

def execBootRefreshStart (g : Fin 64) (s : State) : Res := .next (s.refreshStart g.val)

/-- The low side follows its driver's command again. -/
def State.lowAgain (s : State) (g : Nat) : State := s.driveLow (g + 1) (s.gate (g + 1)).drv

/-- The least time of a refresh's step: RF_GUARD, or 390 ns for the low-side pulse (R126, R129). -/
def State.refreshMin (s : State) (g : Nat) : Nat := if (s.gate g).refresh == 2 then 156 else s.rfGuard g

/-- A step of a refresh ends; where the high-side command has fallen during it, the refresh ends with it and the output stays
off (R126, R127). -/
def State.refreshStep (s : State) (g : Nat) : State :=
  let c := s.gate g
  if bootHigh g && c.refresh != 0 && decide (c.refAt + s.refreshMin g ≤ s.now) then
    if c.refEnd || !c.drv || c.refresh == 3 then
      let s := ((s.setGate g { c with refresh := 0, refEnd := false }).put (GD_STATUS_RFACT g) 0).lowAgain g
      if c.drv && !c.refEnd then s.driveHigh g true else s
    else (s.setGate g { c with refresh := c.refresh + 1, refAt := s.now }).lowAgain g
  else s

def execBootRefreshStep (g : Fin 64) (s : State) : Res := .next (s.refreshStep g.val)

/-- BST − SW, v in microvolts, is below 8.0 V: the high side turns off and is held off (R128). -/
def State.bootUnder (s : State) (g : Nat) (v : Int) : State :=
  if bootHigh g && s.gatePowered g && !s.is (GD_STATUS_BUV g) && decide (v < 8000000) then
    let s := ((s.put (GD_STATUS_GATE g) 0).put (GD_STATUS_BUV g) 1).log 6 g 0x02
    ((s.setGate g { s.gate g with refresh := 0, refEnd := false, buvAt := s.now }).put (GD_STATUS_RFACT g) 0).lowAgain g
  else s

def execBootUndervoltage (g : Fin 64) (v : Int) (s : State) : Res := .next (s.bootUnder g.val v)

/-- A write of BOOT; a held low side follows BUV_LSON. -/
def State.bootWrite (s : State) (g : Nat) (v : Word) : State :=
  let s := s.fieldWrite (GD_BOOT g).addr v
  if bootHigh g && s.is (GD_STATUS_BUV g) then s.lowAgain g else s

/-- A write of STATUS: BUV clears only while BST − SW is at least 9.0 V (ok). -/
def State.gdStatusWrite (s : State) (g : Nat) (v : Word) (ok : Bool) : State :=
  let keep := s.get (GD_STATUS_BUV g)
  let s := s.fieldWrite (GD_STATUS g).addr v
  let s := if ok then s else s.put (GD_STATUS_BUV g) keep
  if bootHigh g then s.lowAgain g else s

/-- v is BST − SW in microvolts. -/
def execGdBuvClear (ini : Initiator) (g : Fin 64) (val : Word) (v : Int) (s : State) : Res :=
  .next (s.gdWrite ini g.val (GD_STATUS g.val).addr (fun s => s.gdStatusWrite g.val (val ||| 0x800) (decide (9000000 ≤ v))))

/-! ### Short circuits and undervoltages (R131–R141) -/

/-- The di/dt detector arms 20 ns, at least 15 ns, after the on-command reaches the chiplet (R131, R154). -/
def State.didtArm (s : State) (g : Nat) : State :=
  let c := s.gate g
  if isolated g && c.drv && s.is (GD_STATUS_GATE g) && s.is (GD_PROT_DIDT_EN g) && decide (c.drvAt + 6 ≤ s.now) then
    s.setGate g { c with didt := true }
  else s

def execDidtArm (g : Fin 64) (s : State) : Res := .next (s.didtArm g.val)

/-- The blanking time in nanoseconds; codes above 245 act as 245 (R133). -/
def State.blank (s : State) (g : Nat) : Nat := 100 + 20 * min 245 (s.get (GD_PROT_BLANK g))

/-- The blanking time, less its error of 10 ns + 3 %, has passed since the on-command: DSAT is released (R133, R154). -/
def State.dsatBlankEnd (s : State) (g : Nat) : State :=
  let c := s.gate g
  if isolated g && c.drv && s.is (GD_STATUS_GATE g) && s.is (GD_PROT_DSAT_EN g)
      && decide (97 * s.blank g ≤ 250 * (s.now - c.drvAt) + 1000) then
    s.setGate g { c with dsat := true }
  else s

def execDsatBlankEnd (g : Fin 64) (s : State) : Res := .next (s.dsatBlankEnd g.val)

/-- Soft turn-off, with one sink segment, replaces whatever edge runs (R113, R136). -/
def State.softOff (s : State) (g : Nat) : State :=
  let s := s.edgeSpoil g
  ((s.setGate g { s.gate g with phase := 0, segs := 1, softAt := s.now }).put (GD_PFLT_SOFTACT g) 1).put (GD_STATUS_GATE g) 0

/-- What changes a reaction group's state aborts a diagnostic run (R150). -/
def State.scgWatch (s : State) (f : State → State) : State :=
  let states (s : State) : List Nat := (List.range 8).map (fun n => s.get (SCG_STAT_STATE n))
  let t := f s
  if states t == states s then t else t.osdAbort 6

/-- A latched fault: its record, interrupts, group reaction, stage fault and Badger source (R138, R141, R147). act: it acts on
the stage. -/
def State.gateFault (s : State) (g level typ : Nat) (act : Bool) : State :=
  let s := s.log level g typ
  let s := s.irq .sc (GD_PFLT g).addr 0
  let o := s.pwmOwner (g / 2)
  let s := s.irqIf (decide (o < 8)) (ownerIrq o) (GD_PFLT g).addr 0
  if act then
    let s := (s.scgWatch (fun s => s.scgReact g level typ)).tripScan
    let s := s.stageFault g
    if g < 24 then s.bSource 0x0C 0 else s.bMirror
  else s

/-- The voltage at a detector, in microvolts, is above its threshold (R131, R133). -/
def State.shortAbove (s : State) (g : Nat) (di : Bool) (v : Int) : Bool :=
  if di then decide (6200000 + 1800000 * (s.get (GD_PROT_DIDT_TH g) : Int) < 31 * v)
  else decide (4000000 + 500000 * (min 16 (s.get (GD_PROT_DSAT_TH g)) : Nat) < v)

/-- A detection counts while its detector is released and until 50 ns after the command falls (R131, R133, R135); the second
of two before soft turn-off starts only sets its flag. v: V(KS) − V(PS) as it stayed for 20 ns, or V(DSAT) − V(KS). -/
def State.shortDetect (s : State) (g : Nat) (di : Bool) (v : Int) : State :=
  let c := s.gate g
  let fld := if di then GD_PFLT_DIDT g else GD_PFLT_DSAT g
  let armed := if di then c.didt && s.is (GD_PROT_DIDT_EN g) else c.dsat && s.is (GD_PROT_DSAT_EN g)
  let live := c.drv || decide (s.now < c.drvAt + 20)
  let soft := s.is (GD_PFLT_SOFTACT g)
  if isolated g && s.gatePowered g && armed && live && s.shortAbove g di v && !s.is fld
      && (!soft || decide (s.now - s.cyc % 4 ≤ c.softAt)) then
    let s := if soft then s else s.softOff g
    (s.put fld 1).gateFault g 3 (if di then 0x10 else 0x11) true
  else s

def execDidtDetect (g : Fin 64) (v : Int) (s : State) : Res := .next (s.shortDetect g.val true v)
def execDsatDetect (g : Fin 64) (v : Int) (s : State) : Res := .next (s.shortDetect g.val false v)

/-- The duration of soft turn-off in instants; codes above 8 act as 8 (R136). -/
def State.softTime (s : State) (g : Nat) : Nat := 400 + 100 * min 8 (s.get (GD_PROT_SOFT_T g))

/-- Soft turn-off has lasted its time, less the error of 5 %: the output enters the hold state with all four segments
(R112, R136, R154). -/
def State.softEnd (s : State) (g : Nat) : State :=
  if s.is (GD_PFLT_SOFTACT g) && decide (95 * s.softTime g ≤ 100 * (s.now - (s.gate g).softAt)) then
    (s.put (GD_PFLT_SOFTACT g) 0).setPhase g 4
  else s

def execSoftTurnoffEnd (g : Fin 64) (s : State) : Res := .next (s.softEnd g.val)

/-- A latched undervoltage that acts spoils a running edge, and turns a gate that is on off softly (R117, R141). -/
def State.railAct (s : State) (g : Nat) : State := if s.is (GD_STATUS_GATE g) then s.softOff g else s.edgeSpoil g

/-- A rail undervoltage, v in microvolts against KS; a negative one acts only with NUV_ACT (R140, R141). -/
def State.railUnder (s : State) (g : Nat) (neg : Bool) (v : Int) : State :=
  let fld := if neg then GD_PFLT_UVN g else GD_PFLT_UVP g
  if s.linkUpGate g && !s.is fld && railBad (s.gate g) neg v then
    let act := !neg || s.is (GD_PROT_NUV_ACT g)
    let s := s.put fld 1
    let s := if act then s.railAct g else s
    s.gateFault g 6 (if neg then 0x13 else 0x12) act
  else s

def execRailUndervoltage (g : Fin 64) (neg : Bool) (v : Int) (s : State) : Res := .next (s.railUnder g.val neg v)

/-- The clamp's threshold in microvolts; code 0b00 disables it (R139). -/
def State.clampTh (s : State) (g : Nat) : Int := nth [0, 1500000, 2000000, 2500000] (s.get (GD_PROT_MCL_TH g)) 0

/-- V(GOFF) − V(KS), v in microvolts, has fallen below the clamp's threshold after a turn-off (R139). -/
def State.clampEngage (s : State) (g : Nat) (v : Int) : State :=
  if s.linkUpGate g && !s.is (GD_STATUS_GATE g) && s.get (GD_PROT_MCL_TH g) != 0 && decide (v < s.clampTh g) then
    s.put (GD_PFLT_MCLAMP g) 1
  else s

def execMillerClampEngage (g : Fin 64) (v : Int) (s : State) : Res := .next (s.clampEngage g.val v)

/-- A negative undervoltage already set begins to act because NUV_ACT is set: everything but its record and interrupts
(R138, R141). -/
def State.nuvAct (s : State) (g : Nat) : State :=
  let s := (s.railAct g).stageFault g
  if g < 24 then s.bSource 0x0C 0 else s

/-- A write of PROT: MCLAMP reads 0 without a threshold, and NUV_ACT acts on a negative undervoltage already set
(R139, R141). -/
def State.protWrite (s : State) (g : Nat) (v : Word) : State :=
  if isolated g then
    let was := s.is (GD_PROT_NUV_ACT g)
    let s := s.fieldWrite (GD_PROT g).addr v
    let s := if s.get (GD_PROT_MCL_TH g) == 0 then s.put (GD_PFLT_MCLAMP g) 0 else s
    let now := s.is (GD_PROT_NUV_ACT g)
    let s := if !was && now && s.is (GD_PFLT_UVN g) then s.nuvAct g else s
    if was == now then s else (s.scgWatch (fun s => s.scgAll)).tripScan.bMirror
  else s

/-- A write of SCGn_MEMB or SCGn_CFG: every group evaluates the latched faults anew (R143). -/
def State.scgWrite (s : State) (a : Nat) (v : Word) : State := ((s.fieldWrite a v).scgWatch (fun s => s.scgAll)).bMirror

/-- A write of CFG: the channel follows its command under the new source and enable (R106, R107). -/
def State.gdCfgWrite (s : State) (g : Nat) (v : Word) : State :=
  ((s.fieldWrite (GD_CFG g).addr v).gateCommand g false false (s.freeNat % 1024)).useFree

/-- A write of 1 to one latched bit; ok: its rail is past its release threshold. A bit set in the instant of the write stays,
and one that reads 0 refuses nothing (R16, R137). -/
def State.pfltBit (s : State) (g : Nat) (f : Fld) (v : Word) (ok : Bool) : State :=
  if bitOf f.lo v.toNat && s.is f && bitOf f.lo (s.rdWas f.reg).toNat then
    if f.lo == 4 && !s.is (GD_PROT_NUV_ACT g) then s.put f 0
    else if !s.is (GD_STATUS_CMD g) && !s.is (GD_PFLT_SOFTACT g) && ok then s.put f 0
    else s.put (GD_PFLT_CLRREJ g) 1
  else s

/-- A write of PFLT; posOk, negOk: the rails are past their release thresholds. -/
def State.pfltWrite (s : State) (g : Nat) (v : Word) (posOk negOk : Bool) : State :=
  if isolated g then
    let s := if bitOf 7 v.toNat && bitOf 7 (s.rdWas (GD_PFLT g)).toNat then s.put (GD_PFLT_CLRREJ g) 0 else s
    let s := s.pfltBit g (GD_PFLT_DIDT g) v true
    let s := s.pfltBit g (GD_PFLT_DSAT g) v true
    let s := s.pfltBit g (GD_PFLT_UVP g) v posOk
    let s := s.pfltBit g (GD_PFLT_UVN g) v negOk
    let s := match s.scgOfModule (g / 2) with
      | some n => s.scgWatch (fun s => s.scgEval n none)
      | none => s
    s.tripScan.bMirror
  else s

/-- pos, neg: the rails against KS, in microvolts. -/
def execPfltClear (ini : Initiator) (g : Fin 64) (val : Word) (pos neg : Int) (s : State) : Res :=
  .next (s.gdWrite ini g.val (GD_PFLT g.val).addr
    (fun s => s.pfltWrite g.val val (railGood (s.gate g.val) false pos) (railGood (s.gate g.val) true neg)))

/-! ### Reaction groups (R144, R146) -/

/-- ASC_DLY ends: the group releases the unused line and takes the side of its target. -/
def State.scgDelayEnd (s : State) (n : Nat) : State :=
  let x := s.scgOf n
  if s.is (SCG_STAT_DLY n) && (x.target == 1 || x.target == 2) && decide (x.dlyAt + s.ascDly n ≤ s.now) then
    let s := (s.put (SCG_STAT_STATE n) x.target).put (SCG_STAT_DLY n) 0
    (((s.scgLog n x.chan x.target (evPlace 3 x.chan 0x14)).scgLines n).osdAbort 6).bMirror
  else s

def execScgAscDelayEnd (n : Fin 8) (s : State) : Res := .next (s.scgDelayEnd n.val)

/-- SCGn_CLR: back to idle while neither side is compromised. -/
def State.scgClear (s : State) (n : Nat) (v : Word) : State :=
  let s := s.scgSides n
  if bitOf 0 v.toNat && !s.is (SCG_STAT_HIC n) && !s.is (SCG_STAT_LOC n) && s.get (SCG_STAT_STATE n) != 0 then
    let f := s.get (SCG_STAT_FIRST n)
    let s := s.scgLog n f 0 (evPlace 3 f 0x14)
    (((s.wr (SCG_STAT n) 0).setScg n Scg.idle).scgLines n).bMirror
  else s

def execScgClr (ini : Initiator) (n : Fin 8) (val : Word) (s : State) : Res :=
  .next (s.busWrite ini (SCG_CLR n.val).addr (fun s => s.scgClear n.val val))

/-! ### Off-state diagnostics (R148–R151) -/

/-- A write of GDG_OSDCTRL: its set-up fields, then ABORT, then START. -/
def State.osdCtrlWrite (s : State) (v : Word) : State :=
  let s := s.fieldWrite GDG_OSDCTRL.addr v
  let s := if bitOf 1 v.toNat then s.osdAbort 5 else s
  if bitOf 0 v.toNat && !s.osdBusy then s.osdStart none else s

def execOsdctrlStart (ini : Initiator) (val : Word) (s : State) : Res :=
  .next (s.busWrite ini GDG_OSDCTRL.addr (fun s => s.osdCtrlWrite (val ||| 1)))

def execOsdctrlAbort (ini : Initiator) (val : Word) (s : State) : Res :=
  .next (s.busWrite ini GDG_OSDCTRL.addr (fun s => s.osdCtrlWrite ((val ||| 2) &&& 0xFFFFFFFE)))

/-- BIASOK is set on every tested isolated channel of the groups that the run has switched on, or 1.5 ms have passed (R149). -/
def State.osdReady (s : State) : Bool :=
  decide (s.osd.since + 600000 ≤ s.now)
  || s.osdLegs.all (fun k => [2 * k, 2 * k + 1].all (fun g =>
      !isolated g || !s.osd.doms.contains (9 + gateGroup g) || s.is (GD_STATUS_BIASOK g)))

/-- The wait of R149 is over: the checks follow. -/
def State.osdBiasReady (s : State) : State := if s.osdBusy && s.osd.wait && s.osdReady then s.osdCheck else s

def execOsdBiasReady (s : State) : Res := .next s.osdBiasReady

def resFld (k hi : Nat) : Fld := ⟨GDG_OSDRES k, hi, hi - 1⟩

/-- A step's result: 0b01 pass, 0b10 fail, 0b11 not evaluable; failed steps are counted. -/
def State.osdResult (s : State) (f : Fld) (fail eval : Bool) : State :=
  if !eval then s.put f 3
  else if fail then (s.put f 2).inc GDG_OSDSTAT_FAILS
  else s.put f 1

/-- The criterion of a step for its readings in 20 mV units: a alone for a short step, a on the leg and b on its partner for an
open step. The spec states no result for an open step between an isolated and a bootstrap leg: it is a free value. -/
def State.osdStep (s : State) (st : OsdStep) (a b : Nat) : State :=
  match st with
  | .shlo k =>
    let s := s.put (GDG_OSDRES_VL k) (min a 1023)
    s.osdResult (resFld k 27) (decide (20 * a < 50 * s.get (if k ≤ 20 then GDG_OSDTHR_VSHORT else GDG_OSDTHR_VSHORT_LV))) true
  | .shhi k =>
    let s := s.put (GDG_OSDRES_VH k) (min a 1023)
    s.osdResult (resFld k 29) (if k ≤ 20 then decide (20 * a < 50 * s.get GDG_OSDTHR_VSHORT) else decide (2000 < 20 * a)) true
  | .opn k p =>
    if k ≤ 20 && p ≤ 20 then
      let eval := decide (s.get GDG_OSDVDC_VDC ≤ 50) && decide (20 * a < 9500) && decide (20 * b < 9500)
      s.osdResult (resFld k 31) (decide (50 * (s.get GDG_OSDTHR_VOPEN : Int) < 20 * ((a : Int) + b) - 100 * (s.get GDG_OSDVDC_VDC : Int))) eval
    else if 21 ≤ k && 21 ≤ p then
      s.osdResult (resFld k 31) (decide (50 * (s.get GDG_OSDTHR_VOPEN_LV : Int) < 20 * ((a : Int) - b))) true
    else
      let t := s.useFree
      (t.osdResult (resFld k 31) s.freeBool t.freeBool).useFree

/-- How long a part of a step lasts, in instants: SETTLE × 10 µs (0 acts as 1), 50 µs, and 100 µs with the currents off (R151). -/
def State.osdTime (s : State) : Nat :=
  if s.osd.part == 0 then 4000 * max 1 (s.get GDG_OSDCTRL_SETTLE) else if s.osd.part == 1 then 20000 else 40000

/-- A part of a step ends: settling gives way to averaging, averaging records the result and switches the currents off, and then
the next step begins or the run ends. -/
def State.osdStepEnd (s : State) (a b : Nat) : State :=
  if s.osdBusy && !s.osd.wait && decide (s.osd.since + s.osdTime ≤ s.now) then
    match s.osd.steps with
    | [] => s
    | st :: t =>
      if s.osd.part == 0 then s.setOsd { s.osd with part := 1, since := s.now }
      else if s.osd.part == 1 then
        let s := s.osdStep st a b
        s.setOsd { s.osd with part := 2, since := s.now }
      else
        let s := s.wrapInc GDG_OSDSTAT_STEP
        if t.isEmpty then s.osdEnd 0 else s.setOsd { s.osd with steps := t, part := 0, since := s.now }
  else s

def execOsdStepEnd (a b : BitVec 10) (s : State) : Res := .next (s.osdStepEnd a.toNat b.toNat)

/-! ### What time brings (DESIGN CHOICE, log entry 3) -/

/-- What is due on an isolated channel at the latest: the ends of its phase and of soft turn-off, and the release of its
detectors (R111, R129, R131, R133, R136, R154). -/
def State.isoDue (s : State) (g : Nat) : State :=
  let c := s.gate g
  let s := if c.phase != 0 && phaseMust c s.now then s.phaseNext g else s
  let s := if s.is (GD_PFLT_SOFTACT g) && decide (105 * s.softTime g ≤ 100 * (s.now - c.softAt)) then s.softEnd g else s
  let s := if c.drv && !c.didt && decide (c.drvAt + 10 ≤ s.now) then s.didtArm g else s
  if c.drv && !c.dsat && decide (103 * s.blank g + 1000 ≤ 250 * (s.now - c.drvAt)) then s.dsatBlankEnd g else s

/-- What is due on a bootstrap pair at the latest: a refresh, its steps, and the low side that BUV_LSON holds on
(R126, R128, R129). -/
def State.bootDue (s : State) (g : Nat) : State :=
  let s := s.refreshStart g
  let c := s.gate g
  let s := if c.refresh != 0 && decide (c.refAt + (if c.refresh == 2 then 164 else s.rfGuard g) ≤ s.now) then s.refreshStep g else s
  if s.is (GD_STATUS_BUV g) && s.is (GD_BOOT_BUV_LSON g) && c.buvAt + s.rfGuard g == s.now then s.lowAgain g else s

/-- What the gate channels, the reaction groups and a waiting diagnostic run do of themselves in the present instant. -/
def State.gatesDue (s : State) : State :=
  if s.isOn 6 then
    let s := (List.range 64).foldl (fun s g =>
      let s := if (s.gate g).pad != (s.gate g).gin then (s.ginPass g false (s.freeNat % 1024)).useFree else s
      let s := s.gateDue g
      if isolated g then (if s.is (GD_STATUS_BIASOK g) then s.isoDue g else s)
      else if g % 2 == 0 && s.gatePowered g then s.bootDue g
      else s) s
    let s := (List.range 8).foldl (fun s n => if s.is (SCG_STAT_DLY n) then s.scgDelayEnd n else s) s
    if s.osd.wait && decide (s.osd.since + 600000 ≤ s.now) then s.osdBiasReady else s
  else s

end Sys2Proof.Machine
end

