-- ==== Sys2Proof/Machine/Modes.lean ====
section
/-! DEFINITION. What happens to mode instances beside requests: ramps and stage reports, timeouts, holds, the plug state and its
policy, and standby after the PRK dwell (R38–R48, R53, R56, R60). -/

namespace Sys2Proof.Machine

/-- The longest ramp of an instance, in instants: TQ_RAMP_DOWN for DRV, one update of its stage for WHT in SST, and CHG_RAMP_DOWN
otherwise (R43, R54). -/
def State.rampMax (s : State) (i : Nat) : Nat :=
  if i == 0 || i == 1 then s.par 0x0011 * 400000
  else if (i == 7 || i == 8) && bitOf i s.modes.sst then s.par (0x0100 + (i - 7)) * 2
  else s.par 0x0012 * 40000

/-- The ramp runs its whole time; DRV's is scaled to the torque at the moment of ending, and WHT's in SST ends within an update,
so those end at a free instant before. -/
def State.rampOver (s : State) (i : Nat) : Bool :=
  decide (nth s.modes.rampAt i 0 + s.rampMax i ≤ s.now)
  || ((i == 0 || i == 1 || ((i == 7 || i == 8) && bitOf i s.modes.sst)) && s.freeBool)

/-- The instance's ramp has ended (R43). -/
def State.rampEnd (s : State) (i : Nat) : State :=
  if s.active i && s.ramping i && s.rampOver i then
    let s := s.useFree
    (s.setModes { s.modes with sst := putBit i s.modes.sst false }).instGone i true
  else s

def execInstanceRampEnd (i : Fin 12) (s : State) : Res := .next (s.rampEnd i.val)

/-- The instance waits for its stage's CE (R38). -/
def State.waitsStage (s : State) (i : Nat) : Option PendReq :=
  match s.pendOf i with
  | some p => if p.why == 1 then some p else none
  | none => none

def execStageSwitchingReport (i : Fin 12) (s : State) : Res :=
  .next (match s.waitsStage i.val with
    | some _ => s.activate i.val
    | none => s)

/-- The 20 ms count from the decision, so also over the ramps of what the request pre-empts (R38). -/
def State.stageTimeout (s : State) (i : Nat) : State :=
  match s.pendOf i with
  | some p => if decide (2 ≤ i) && decide (i ≤ 5) && s.elapsedMs p.since 20 then s.cancelPend i stFault else s
  | none => s

def execStageStartTimeout (i : Fin 12) (s : State) : Res := .next (s.stageTimeout i.val)

def execAscHoldEnd (m : Fin 2) (s : State) : Res :=
  .next (if s.get (LGE_STAT_HOLD m.val) != 0 && !s.holdSpeed m.val then (s.put (LGE_STAT_HOLD m.val) 0).stageOff m.val else s)

/-- HK switches D9–D12 off in HLD, but for a run of the off-state diagnostics (R56). -/
def execHldHoldsEnd (s : State) : Res :=
  .next (if s.ticking && s.active 11 && !s.osdBusy && s.modes.ramp == 0 && !s.anySeq && s.get (LGE_STAT_HOLD 0) == 0 && s.get (LGE_STAT_HOLD 1) == 0 then
    [12, 11, 10, 9].foldl (fun s d => s.domOff d) s
  else s)

/-- No setpoint has been read for DRV_SETPT_TMO (R40, R41). -/
def State.setptTimeout (s : State) (i : Nat) : State :=
  if leased.contains i && s.running i && s.elapsedMs (nth s.modes.fed i 0) (s.par 0x0010) then s.endInst i rsnTmo else s

def execSetptTimeout (i : Fin 12) (s : State) : Res := .next (s.setptTimeout i.val)

/-- The HV bus has been below DCD_VMIN for 10 ms (R40). -/
def State.dcdVminTimeout (s : State) : State :=
  match s.modes.dcdLow with
  | some t => if s.running 5 && !s.linkUp && s.elapsedMs t 10 then s.endInst 5 rsnCond else s
  | none => s

def execDcdVminTimeout (s : State) : Res := .next s.dcdVminTimeout

/-- PRK has been the only active instance for PRK_DWELL (R53). -/
def State.prkDwell (s : State) : State :=
  if s.get MDM_ACTIVE_ACTIVE == 0x200 && s.get MDM_ACTIVE_PENDING == 0 && s.start.kp
      && s.elapsedMs s.modes.dwell (1000 * s.par 0x0014) then s.standbyRequest else s

def execPrkDwellExpiry (s : State) : Res := .next s.prkDwell

/-! ### Plug state (R46–R48, R60) -/

/-- MDM_PLUG as Marten's debouncing uses it: the register, or the recorded word where KP's firmware does not run. -/
def State.plugWord (s : State) : Nat := if s.start.kp then (s.rd MDM_PLUG).toNat else s.kcp.pol.2.2

/-- The pad's level after polarity: 1 is plugged. -/
def State.plugLevel (s : State) : Bool := s.sup.plug != bitOf 2 s.plugWord

/-- MDM_PLUG shows the pad's level, the debounced state and its changes. -/
def State.plugShow (s : State) : State :=
  if s.start.kp then
    ((s.putB MDM_PLUG_RAW s.plugLevel).putB MDM_PLUG_PLUG s.sup.plugged).put MDM_PLUG_CHG_CNT s.sup.plugCnt
  else s

def execPlugDetLevel (level : Bool) (s : State) : Res :=
  .next (if s.sup.plug == level then s
    else (s.setSup { s.sup with plug := level, plugAt := s.marten }).plugShow)

/-- The mode manager applies a debounced change (R47, R48). -/
def State.plugApply (s : State) : State :=
  if s.is MDM_PLUG_PLUG then
    [0, 1, 5, 7, 8].foldl (fun s i => match polField i with
      | some lo => if 2 ≤ s.policy lo && s.running i then s.endInst i rsnPlug else s
      | none => s) s
  else [2, 3, 4].foldl (fun s i => (s.cancelPend i stBadState).endInst i rsnPlug) s

/-- The pad has held a new level for DB units of 32 Marten cycles (R46). -/
def State.plugDebounced (s : State) : State :=
  if s.plugLevel != s.sup.plugged && decide (s.sup.plugAt + 32 * max 1 (bitsOf 15 8 s.plugWord) ≤ s.marten) then
    let s := s.setSup { s.sup with plugged := s.plugLevel, plugCnt := min 0xFFFF (s.sup.plugCnt + 1) }
    if s.start.kp then (s.plugShow.changed 0x0203).plugApply else s
  else s

def execPlugDebounced (s : State) : Res := .next s.plugDebounced

/-- An instance other than PRK and HLD is active (R60). -/
def State.policyBusy (s : State) : Bool := s.get MDM_ACTIVE_ACTIVE &&& 0x5FF != 0

def policyReg (sel : Nat) : Reg := if sel == 0 then MDM_PLUGPOL else if sel == 1 then MDM_PAIRDENY else MDM_PLUG

/-- A write of a policy register. -/
def State.policyWrite (s : State) (sel : Nat) (v : Word) : State :=
  if s.policyBusy then s.put MDM_LOCK_WR_IGN 1
  else
    let old := s.plugLevel
    let s := s.fieldWrite (policyReg sel).addr v
    if sel == 2 then (if s.plugLevel == old then s else s.setSup { s.sup with plugAt := s.marten }).plugShow else s

def execMdmPolicyWrite (ini : Initiator) (sel : Fin 3) (val : Word) (s : State) : Res :=
  .next (s.busWrite ini (policyReg sel.val).addr (fun s => s.policyWrite sel.val val))

def execMdmLock (ini : Initiator) (val : Word) (s : State) : Res :=
  .next (s.busWrite ini MDM_LOCK.addr (fun s => s.fieldWrite MDM_LOCK.addr (val ||| 1)))

/-! ### What the mode manager watches (R40, R247, R268) -/

/-- The grid voltage, which CE4 measures and no register holds, is compared with its window once per millisecond; the outcome is
free. -/
def State.gridScan (s : State) : State :=
  if s.now % 400000 == 0 && (s.running 3 || s.running 4) then
    (if s.freeBool then [3, 4].foldl (fun s i => if s.running i then s.endInst i rsnCond else s) s.useFree else s.useFree)
  else s

/-- Ramps that have run their whole time end, a pending request whose entry conditions no longer hold is answered BAD_STATE, and
times that have passed take their effect (R38, R40, R43, R380). -/
def State.pendingScan (s : State) : State :=
  let s := (List.range 12).foldl (fun s i =>
    if s.ramping i && decide (nth s.modes.rampAt i 0 + s.rampMax i ≤ s.now) then s.rampEnd i else s) s
  let s := [2, 3, 4, 5, 9].foldl (fun s i =>
    if s.waiting i then (if (s.entryRefusal i).isSome then s.cancelPend i stBadState else s.stageTimeout i) else s) s
  leased.foldl (fun s i => s.setptTimeout i) s.dcdVminTimeout

/-- The mode manager's own supervision: ramps and pending requests, loss of a DRV entry condition, of motor B's standstill in BCH,
of the link window or the grid in ACH and V2G, and of the HV bus in DCD. -/
def State.modesScan (s : State) : State :=
  if s.start.kp then
    let s := s.pendingScan.gridScan
    let s := [0, 1].foldl (fun s m => if s.running m && (s.drvEntry m).isSome then s.endInst m rsnCond else s) s
    let s := if s.running 2 && !s.standstill 1 then s.endInst 2 rsnCond else s
    let s := [3, 4].foldl (fun s i => if s.running i && !Config.linkWindow 3 (s.get ADG_VDC_VDC) then s.endInst i rsnCond else s) s
    let low := s.running 5 && !s.linkUp
    let s := s.putB DCS_STAT_UVHV low
    let at' := if low then (match s.modes.dcdLow with
      | some t => some t
      | none => some s.now) else none
    (s.setModes { s.modes with dcdLow := at' }).prkDwell
  else s

end Sys2Proof.Machine
end

