-- ==== Sys2Proof/Machine/Act.lean ====
section
/-! DEFINITION. The course of an actuator sequence and its results, the commands that mark it, and the DC-DC status
(R263–R277). -/

namespace Sys2Proof.Machine

/-- The code of the running or last sequence. -/
def State.actCode (s : State) (n : Nat) : Nat := s.get (ACS_STAT_SEQ n)

def State.actTarget (s : State) (n : Nat) : Int := s.actTgt n (s.actCode n)

/-- The count lies within ±ACT_TOL of the target. -/
def State.actInTol (s : State) (n : Nat) : Bool :=
  decide ((s.actCnt n - s.actTarget n).natAbs ≤ s.par 0x0039)

/-- Milliseconds since the request's acceptance, saturating. -/
def State.actMs (s : State) (n : Nat) : Nat := min 0xFFFF ((s.now - (s.actOf n).began) / 400000)

/-- The sequence goes to a phase. -/
def State.actPhase (s : State) (n ph : Nat) : State :=
  ((s.put (ACS_STAT_PHASE n) ph).setAct n { s.actOf n with phaseAt := s.now, stallAt := s.now, stallCnt := s.actCnt n }).changed 0x0603

/-- PRK waits for the park-lock sequence that has ended (R38, X7). -/
def State.prkResolve (s : State) : State :=
  match s.pendOf 9 with
  | some p => if p.why == 2 then (if s.modes.lock then s.activate 9 else s.cancelPend 9 stFault) else s
  | none => s

/-- ACT when the last running sequence has ended: an actuator fault, of it or of one that ended before it, ends ACT, and so does
HLD or an exit request that waits (R40, R274, R381). -/
def State.actLast (s : State) (bad : Bool) : State :=
  if s.anySeq then s.setModes { s.modes with actBad := s.modes.actBad || bad }
  else
    let w := s.modes.exitAct
    let bad := bad || s.modes.actBad
    let s := s.setModes { s.modes with exitAct := [], actBad := false }
    let s := if bad then s.endInst 6 rsnFault else if s.active 11 then s.endInst 6 rsnHld
      else if w.isEmpty then s else s.endInst 6 rsnExit
    s.finalAll w stOk

/-- The sequence ends with a result: its modules stop, and ACT and a pending PRK follow (R273, R274). -/
def State.actEnd (s : State) (n result : Nat) : State :=
  let code := s.actCode n
  let s := s.put (ACS_STAT_ELAPSED n) (s.actMs n)
  let s := ((s.put (ACS_STAT_PHASE n) 0).put (ACS_STAT_RESULT n) result).changed 0x0603
  let s := (actMods n).foldl (fun s k => s.pwmStop k) s
  let s := if n == 0 && result == 1 then s.setModes { s.modes with lock := code == 1, unlocked := code == 2 } else s
  let s := if n == 0 then s.prkResolve else s
  s.actLast (3 ≤ result)

def State.actPrecheckEnd (s : State) (n : Nat) : State :=
  if s.get (ACS_STAT_PHASE n) == 1 && s.elapsedMs (s.actOf n).phaseAt 1 then s.actPhase n 2 else s

def execActPrecheckEnd (n : Fin 3) (s : State) : Res := .next (s.actPrecheckEnd n.val)

def State.actDwellEnd (s : State) (n : Nat) : State :=
  if s.get (ACS_STAT_PHASE n) == 3 && s.actInTol n && s.elapsedMs (s.actOf n).phaseAt (s.par 0x0038) then s.actPhase n 4 else s

def execActDwellEnd (n : Fin 3) (s : State) : Res := .next (s.actDwellEnd n.val)

def State.actRelaxEnd (s : State) (n : Nat) : State :=
  if s.get (ACS_STAT_PHASE n) == 4 && s.elapsedMs (s.actOf n).phaseAt 1 then s.actEnd n 1 else s

def execActRelaxEnd (n : Fin 3) (s : State) : Res := .next (s.actRelaxEnd n.val)

def State.actTimeout (s : State) (n : Nat) : State :=
  if s.actRuns n && s.elapsedMs (s.actOf n).began (s.par (0x0034 + n)) then s.actEnd n 3 else s

def execActSeqTimeout (n : Fin 3) (s : State) : Res := .next (s.actTimeout n.val)

/-- The count lies beyond ACT_TOOTH in the direction of the target. -/
def State.beyondTooth (s : State) : Bool :=
  if s.actCnt 0 ≤ s.actTarget 0 then decide (s.parI 0x003E < s.actCnt 0) else decide (s.actCnt 0 < s.parI 0x003E)

/-- A stall at the current limit in MOVE: it ends the sequence, or is tooth-on-tooth in ENGAGE, in whose wait no stall ends
it (R274). -/
def State.actStall (s : State) (n : Nat) : State :=
  if s.get (ACS_STAT_PHASE n) == 2 && s.elapsedMs (s.actOf n).stallAt (s.par 0x003A) then
    if n == 0 && s.actCode 0 == 1 && s.beyondTooth then
      (if s.is (ACS_STAT_TOOTH 0) then s else (s.put (ACS_STAT_TOOTH 0) 1).changed 0x0603)
    else s.actEnd n 4
  else s

def execActStall (n : Fin 3) (s : State) : Res := .next (s.actStall n.val)

/-- The actuator bus has not been above v, in 0.1 V, for the last `held` instants: below ACT_VMIN for ACT_BUSUV_T the sequence
ends BUSUV (R274). -/
def execActBusuv (n : Fin 3) (v held : Nat) (s : State) : Res :=
  .next (if s.actRuns n.val && decide (v < s.par 0x003B) && decide (400000 * s.par 0x003C ≤ held) then s.actEnd n.val 8 else s)

/-- The sequence waits tooth-on-tooth: the count has not moved on since the stall (R274). -/
def State.actWaits (s : State) (n : Nat) : Bool :=
  n == 0 && s.is (ACS_STAT_TOOTH 0) && s.elapsedMs (s.actOf n).stallAt (s.par 0x003A)

/-- The phase current limit in force, in mA: ACT_ILIMn in MOVE, half of it in SEAT and in the tooth-on-tooth wait, and zero in
PRECHECK and RELAX; a grant of entry 5 below its prediction scales it (R273, R274, R276). -/
def State.actLimit (s : State) (n : Nat) : Nat :=
  let ph := s.get (ACS_STAT_PHASE n)
  let full := 1000 * s.par (0x0030 + n)
  let l := if ph == 2 then (if s.actWaits n then full / 2 else full) else if ph == 3 then full / 2 else 0
  let g := signed 32 (s.get (LGE_GRANT_GRANT 5))
  let p := signed 32 (s.get (LGE_PRED_PRED 5))
  if g < p then l * g.toNat / p.toNat else l

/-- What ends or moves a running sequence without a command of its own: position-channel limits and loss, arrival at the
target and departure from it, the count's progress, and the times that have passed. -/
def State.actScan (s : State) (n : Nat) : State :=
  if s.actRuns n then
    let p := s.actPos n
    let s := if s.onBackup && !s.is (ACS_STAT_BKP n) then (s.put (ACS_STAT_BKP n) 1).changed 0x0603 else s
    let s := s.put (ACS_STAT_ELAPSED n) (s.actMs n)
    if s.is (POS_STATUS_LIMIT_HI p) || s.is (POS_STATUS_LIMIT_LO p) then s.actEnd n 5
    else if !s.is (POS_STATUS_PVALID p) then s.actEnd n 6
    else
      let a := s.actOf n
      let s := if a.stallCnt != s.actCnt n then s.setAct n { a with stallCnt := s.actCnt n, stallAt := s.now } else s
      let ph := s.get (ACS_STAT_PHASE n)
      let s := if ph == 2 && s.actInTol n then s.actPhase n 3
        else if ph == 3 && !s.actInTol n then s.actPhase n 2
        else s
      let s := (((s.actPrecheckEnd n).actDwellEnd n).actRelaxEnd n).actTimeout n
      s.setAct n { s.actOf n with ilim := if s.actRuns n then s.actLimit n else 0 }
  else s

/-! ### Trips (R269, R274, R275) -/

/-- A period of the actuators' modules ends: the trip states active in it count, and more than half of the last 200 periods
end the sequence TRIP. -/
def State.actPeriod (s : State) (n : Nat) (tripped : Bool) : State :=
  if s.actRuns n then
    let t := tripped :: (s.actOf n).trips.take 199
    let s := s.setAct n { s.actOf n with trips := t }
    if 100 < (t.filter (fun b => b)).length then s.actEnd n 7 else s
  else s

/-- A zero boundary of module k; that of an actuator's first module ends a period of the actuator. -/
def State.pwmPeriodEnd (s : State) (k : Nat) : State :=
  let s := s.pwmZeroBoundary k
  let n := (k - 23) / 3
  if 23 ≤ k ∧ (k - 23) % 3 = 0 ∧ (s.pwmOf k).lastZero = some s.cyc ∧ (s.actOf n).perAt ≠ some s.cyc then
    (s.setAct n { s.actOf n with perAt := some s.cyc }).actPeriod n ((actMods n).any (fun j => (s.pwmOf j).tripPer))
  else s

def execPwmZeroBoundary (k : Fin 32) (s : State) : Res := .next (s.pwmPeriodEnd k.val)

/-- CE6 starts modules of the DC-DC stage with one write of PWMG_START (R265, R268). -/
def State.dcdStart (s : State) (mask : Word) : State := s.pwmEach (.ce 6) mask (fun s k => s.pwmStart k)

/-- The rectifier legs follow the filtered output current: both start at DCD_SRTH × DCD_IRATE and stop below half that level
(R265). -/
def State.dcdRectify (s : State) : State :=
  let level : Int := (s.par 0x0024 * s.par 0x0022 : Nat)
  let i := s.modes.dcdI
  if level ≤ 10 * i && !(s.pwmRuns 21 && s.pwmRuns 22) then s.dcdStart 0x600000
  else if 20 * i < level then [21, 22].foldl (fun s k => if s.pwmRuns k then s.pwmOwned (.ce 6) k (fun s => s.pwmStop k) else s) s
  else s

/-- CE6's measurement of the output current in a period of PWM19 while DCD is active (R266). How it is filtered no rule says: the
value is free. -/
def State.dcdMeasure (s : State) : State :=
  if s.active 5 && s.ceSteps 6 && s.pwmRuns 19 && (s.pwmOf 19).lastZero == some s.cyc then
    (s.setModes { s.modes with dcdI := signed 16 s.freeNat }).useFree.dcdRectify
  else s

/-- The stage soft-starts on entry and when what held it at RUN = 0 is gone; then its modules start again (R268, R269). -/
def State.dcdSoftStart (s : State) (held : Bool) : State :=
  if held || !s.active 5 then s.setModes { s.modes with dcdSoft := none, dcdHeld := held && s.active 5 }
  else if s.modes.dcdSoft.isSome then s
  else
    let again := s.modes.dcdHeld
    let s := s.setModes { s.modes with dcdSoft := some s.now, dcdHeld := false }
    if again then s.dcdStart 0x180000 else s

/-- The soft-start ramp of DCD_TSS is in progress. -/
def State.dcdSofting (s : State) : Bool :=
  match s.modes.dcdSoft with
  | some t => !s.elapsedMs t (s.par 0x0023)
  | none => false

/-- DCS_STAT follows the DC-DC stage: an invalid or low link and a latched trip hold its modules stopped (R268, R269). -/
def State.dcdScan (s : State) : State :=
  let lat := s.dcdTripped
  let s := s.putB DCS_STAT_TRIPLAT lat
  let held := lat || (s.is DCS_STAT_UVHV && s.active 5)
  let s := (if held then s.stageOff 4 else s).dcdSoftStart held
  let s := s.putB DCS_STAT_SOFTST s.dcdSofting
  (s.putB DCS_STAT_RUN (s.pwmRuns 19)).putB DCS_STAT_SRMODE (s.pwmRuns 21)

/-- What CE6 measures or its program decides, and the spec gives no value for: V_OUT, I_OUT and, while DCD is active, the limit
indication. KP updates them once per millisecond. -/
def State.dcdReport (s : State) : State :=
  let s := (s.put DCS_STAT_VOUT s.freeNat).useFree
  let s := (s.put DCS_IOUT_IOUT s.freeNat).useFree
  (s.putB DCS_STAT_ILIM (s.active 5 && s.freeBool)).useFree

/-- The scan of the actuators and the DC-DC stage. -/
def State.driveScan (s : State) : State :=
  if s.start.kp then
    let s := (List.range 3).foldl (fun s n => s.actScan n) s
    let s := s.dcdScan
    if s.now % 400000 == 0 then s.dcdReport else s
  else s

end Sys2Proof.Machine
end

