-- ==== Sys2Proof/Machine/Ce.lean ====
section
/-! DEFINITION. The registers of the control engines with an effect of their own: halting, running, restarting, doorbells,
trigger sets and the escalation flag (R198–R206). -/

namespace Sys2Proof.Machine

/-- The base of CEn's register block. -/
def ceBase (n : Nat) : Nat := 0x40500400 + n * 0x80

/-- RESTART of a halted or trapped CE: PC to 0, pending sets cleared, state halted (R198). -/
def State.ceRestart (s : State) (n : Nat) : State :=
  if s.get (CE_STATUS_STATE n) == 0 || s.get (CE_STATUS_STATE n) == 3 then
    let c := s.ceOf n
    let s := s.setCe n { c with pc := 0, begun := false, woken := none, sets := c.sets.map (fun x => { x with pend := false }) }
    (s.put (CE_STATUS_STATE n) 0).put (CE_STATUS_PEND n) 0
  else s

/-- HALT = 0 runs a halted or trapped CE from its PC; all vector and matrix registers clear when it starts (R198, R210). -/
def State.ceRun (s : State) (n : Nat) : State :=
  let s := s.put (CE_CTRL_HALT n) 0
  if s.get (CE_STATUS_STATE n) == 0 || s.get (CE_STATUS_STATE n) == 3 then
    let c := s.ceOf n
    let c := if c.begun then c
      else { c with begun := true, v := List.replicate 8 (List.replicate 6 0), m := List.replicate 4 (List.replicate 36 0) }
    (s.setCe n c).put (CE_STATUS_STATE n) 2
  else s

/-- A set that a waiting CE has taken and not yet woken on is pending again. -/
def State.ceUntake (s : State) (n : Nat) : State :=
  let c := s.ceOf n
  match c.woken with
  | some k =>
    let x := nth c.sets k ⟨0, false, 0⟩
    (s.setCe n { c with woken := none, takenSet := none, sets := c.sets.set k { x with pend := true, stamp := c.wakeStamp } }).putFldBit (CE_STATUS_PEND n) k true
  | none => s

/-- HALT = 1 halts a running or waiting CE; a waiting one stays at its CX.WAIT. -/
def State.ceHalt (s : State) (n : Nat) : State :=
  let s := s.put (CE_CTRL_HALT n) 1
  if s.get (CE_STATUS_STATE n) == 1 || s.get (CE_STATUS_STATE n) == 2 then (s.ceUntake n).put (CE_STATUS_STATE n) 0 else s

/-- A write of CEn_CTRL: its fields, then RESTART, then HALT. -/
def State.ceCtrlWrite (s : State) (n : Nat) (v : Word) : State :=
  let h := s.get (CE_CTRL_HALT n)
  let s := (s.fieldWrite (CE_CTRL n).addr v).put (CE_CTRL_HALT n) h
  let s := if bitOf 2 v.toNat then s.ceRestart n else s
  if bitOf 0 v.toNat then s.ceHalt n else s.ceRun n

def State.ceBlock (s : State) (ini : Initiator) (a : Nat) (f : State → State) : State :=
  s.busWrite ini a (fun s => if notCe ini then f s else s)

def execCeHalt (ini : Initiator) (n : Fin 8) (val : Word) (s : State) : Res :=
  .next (s.ceBlock ini (CE_CTRL n.val).addr (fun s => s.ceCtrlWrite n.val (val ||| 1)))

def execCeRun (ini : Initiator) (n : Fin 8) (val : Word) (s : State) : Res :=
  .next (s.ceBlock ini (CE_CTRL n.val).addr (fun s => s.ceCtrlWrite n.val (val &&& 0xFFFFFFFE)))

def execCeRestart (ini : Initiator) (n : Fin 8) (val : Word) (s : State) : Res :=
  .next (s.ceBlock ini (CE_CTRL n.val).addr (fun s => s.ceCtrlWrite n.val (val ||| 4)))

/-- 1 in bit k completes doorbell set k (R199). -/
def State.ceRing (s : State) (n : Nat) (v : Word) : State :=
  (List.range 4).foldl (fun s k =>
    if bitOf k v.toNat && s.is (CE_TSCFG_EN n k) && s.get (CE_TSCFG_TYPE n k) == 2 then s.ceComplete n k s.tick else s) s

def execCeDoorbell (ini : Initiator) (n : Fin 8) (val : Word) (s : State) : Res :=
  .next (s.ceBlock ini (CE_DOORBELL n.val).addr (fun s => s.ceRing n.val val))

/-- The trigger set that an offset in CEn's block configures. -/
def tsOf (o : Nat) : Option Nat :=
  if 0x08 ≤ o ∧ o < 0x18 then some ((o - 0x08) / 4)
  else if 0x18 ≤ o ∧ o < 0x38 then some ((o - 0x18) / 8)
  else none

/-- A write to a trigger-set register takes effect at once and clears the set's completion record and pending state (R202). -/
def State.ceSetWrite (s : State) (n a : Nat) (v : Word) : State :=
  match tsOf (a - ceBase n) with
  | some k =>
    let s := s.fieldWrite a v
    let c := s.ceOf n
    (s.setCe n { c with sets := c.sets.set k ⟨0, false, 0⟩ }).putFldBit (CE_STATUS_PEND n) k false
  | none => s

def execCeTriggerSetWrite (ini : Initiator) (n : Fin 8) (addr val : Word) (s : State) : Res :=
  .next (if decide (ceBase n.val ≤ addr.toNat) && (tsOf (addr.toNat - ceBase n.val)).isSome && addr.toNat % 4 == 0 then
    s.ceBlock ini addr.toNat (fun s => s.ceSetWrite n.val addr.toNat val) else s)

/-- A write of CEn_DLSTAT: only an SC thread clears ESC (R206). -/
def State.ceDlstatWrite (s : State) (ini : Initiator) (n : Nat) (v : Word) : State :=
  s.fieldWrite (CE_DLSTAT n).addr (if isSc ini then v else v &&& 0xFFFFFFFB)

def execCeEscClear (ini : Initiator) (n : Fin 8) (val : Word) (s : State) : Res :=
  .next (s.busWrite ini (CE_DLSTAT n.val).addr (fun s => s.ceDlstatWrite ini n.val (val ||| 4)))

end Sys2Proof.Machine
end

