-- ==== Sys2Proof/Machine/CeRun.lean ====
section
/-! DEFINITION. Wakes, updates and deadlines of the control engines (R200–R208). -/

namespace Sys2Proof.Machine

/-! ### Wakes (R200, R203, R208) -/

/-- CEn's ledger entry; 8 and above is none. -/
def State.ceEntry (s : State) (n : Nat) : Option Nat :=
  let e := s.get (CE_CTRL_LGENT n)
  if e < 8 then some e else none

/-- The limits that a wake latches from the last published ledger cycle. -/
def State.ceLatch (s : State) (n : Nat) (c : CeCore) : CeCore :=
  match s.ceEntry n with
  | some e => { c with lgLimit := s.get (LGE_GRANT_GRANT e), lgInf := false, lgFactor := s.get (LGE_STAT_FACTOR e),
                       lgLtd := if s.is (LGE_STAT_LIMITED e) then some (s.get (LGE_STAT_REASON e), s.get (LGE_GRANT_GRANT e)) else none }
  | none => { c with lgLimit := 0, lgInf := true, lgFactor := 256, lgLtd := none }

/-- The CE runs again and CX.WAIT retires: rd receives the set, its records freeze, the limits are latched and an update opens. -/
def State.ceWake (s : State) (n : Nat) : State :=
  let c := s.ceOf n
  match c.woken with
  | some k =>
    if s.ticking && s.get (CE_STATUS_STATE n) == 1 && decide (c.wakeAt ≤ s.cyc) then
      let c := { c with woken := none, takenSet := some k, wakeCyc := s.cyc, wtime := c.wakeStamp * 10 % 2 ^ 32,
                        dl := s.rd (CE_DLCFG n), missed := false, withhold := false,
                        pc := (c.pc + 4) % 2 ^ 32, minstret := (c.minstret + 1) % 2 ^ 64,
                        x := if c.waitRd == 0 then c.x else c.x.set c.waitRd (BitVec.ofNat 32 k) }
      let s := (s.setCe n (s.ceLatch n c)).put (CE_STATUS_STATE n) 2
      if s.is (CE_DLCFG_EN n) then s.put (CE_DLSTAT_OPEN n) 1 else s
    else s
  | none => s

def execCeWake (n : Fin 8) (s : State) : Res := .next (s.ceWake n.val)

/-! ### Updates (R203, R204) -/

/-- CX.DONE retires: the update closes, on time where its deadline has not come. -/
def State.ceDone (s : State) (n : Nat) : State :=
  if s.is (CE_DLSTAT_OPEN n) then
    let c := s.ceOf n
    let len := min 0xFFFF (s.cyc - c.wakeCyc)
    let s := (s.put (CE_DLSTAT_OPEN n) 0).put (CE_CYCLES_LAST n) len
    let s := s.put (CE_CYCLES_MAX n) (max len (s.get (CE_CYCLES_MAX n)))
    let s := if c.missed then s else s.put (CE_DLSTAT_RUNMISS n) 0
    s.setCe n { c with withhold := false }
  else s

/-- A synchronisation jump after the wake has left the counter between the deadline value and the peak: the value is skipped, and
the peak boundary itself is the deadline point (R203). -/
def State.peakSkipped (s : State) (n k g : Nat) : Bool :=
  s.pwmAtPeak k && (match (s.pwmOf k).jump with
    | some j => decide ((s.ceOf n).wakeCyc < j) && decide (j ≤ s.cyc) && decide (s.cyc - j < g)
    | none => false)

/-- The current cycle is a deadline point of the open update (R203): the counter meets the deadline value before a selected
boundary, or a synchronisation jump has skipped it. -/
def State.deadlinePoint (s : State) (n : Nat) : Bool :=
  let d := (s.ceOf n).dl.toNat
  let k := bitsOf 16 12 d
  let bnd := bitsOf 21 20 d
  let prd := s.pwmPrd k
  let g := max 4 (bitsOf 11 0 d)
  let g := if prd ≤ g then prd - 1 else g
  let zero := bnd != 1
  let peak := bnd != 0
  s.pwmRuns k && decide ((s.pwmOf k).zero ≤ s.cyc)
  && ((zero && s.pwmUpdn k && s.pwmDown k && s.pwmCount k == g)
    || (zero && !s.pwmUpdn k && s.pwmCount k == prd - g)
    || (peak && s.pwmUpdn k && !s.pwmDown k && s.pwmCount k == prd - g)
    || (zero && (s.pwmOf k).jump == some s.cyc)
    || (peak && s.peakSkipped n k g))

/-- Escalation (R206): the modules of CE n are written, and the stage fault reaches the mode manager and Badger. -/
def State.ceEscalate (s : State) (n : Nat) : State :=
  let low := bitOf 29 (s.ceOf n).dl.toNat
  let s := ((List.range 32).filter (fun k => s.pwmOwner k == n)).foldl (fun s k =>
    if low then s.pwmForceWrite k 9 else if s.pwmRuns k then s.pwmStop k else s) s
  let s := (s.put (CE_DLSTAT_ESC n) 1).log 9 (88 + n) 0x31
  match s.ceEntry n with
  | some e =>
    let s := if s.start.kp then s.entryFault e else s
    if e < 2 && s.isOn 2 then s.bSource 0x0B 0 else s
  | none => s

/-- An update open at its deadline point misses it (R204–R206). -/
def State.ceMiss (s : State) (n : Nat) : State :=
  let c := s.ceOf n
  if s.ticking && s.is (CE_DLSTAT_OPEN n) && !c.missed && decide (c.wakeCyc < s.cyc) && s.deadlinePoint n then
    let s := s.setCe n { c with missed := true, withhold := bitOf 30 c.dl.toNat }
    let s := ((s.put (CE_DLSTAT_MISS n) 1).inc (CE_DLSTAT_MISS_CNT n)).log 9 (88 + n) 0x30
    let before := s.get (CE_DLSTAT_RUNMISS n)
    let s := s.inc (CE_DLSTAT_RUNMISS n)
    let esc := bitsOf 27 24 c.dl.toNat
    let s := if esc != 0 && decide (before < esc) && s.get (CE_DLSTAT_RUNMISS n) == esc then s.ceEscalate n else s
    s.irqIf (s.is (CE_CTRL_IEN_DL n)) .sc (CE_DLSTAT n).addr 0
  else s

def execCeDeadlineMiss (n : Fin 8) (s : State) : Res := .next (s.ceMiss n.val)

/-- At the start of a control cycle a synchronisation of the module that times CE n's open update comes first, and then the
deadline (R203, R204). -/
def State.ceDeadline (s : State) (n : Nat) : State :=
  if s.is (CE_DLSTAT_OPEN n) then (s.pwmSync (bitsOf 16 12 (s.ceOf n).dl.toNat)).ceMiss n else s

/-- A wake at its latest: 30 ns after a doorbell's landing, and the exact cycle of the other sets (R200). -/
def State.ceWakeDue (s : State) (n : Nat) : State :=
  let c := s.ceOf n
  match c.woken with
  | some k => if c.wakeAt + (if s.get (CE_TSCFG_TYPE n k) == 2 then 4 else 0) ≤ s.cyc then s.ceWake n else s
  | none => s

end Sys2Proof.Machine
end

