-- ==== Sys2Proof/Machine/Float.lean ====
section
/-! DEFINITION. IEEE 754 single precision for the control engines (R195, R210–R212): exact arithmetic, then one rounding.
Flags are the five bits of fcsr: NV 16, DZ 8, OF 4, UF 2, NX 1. -/

namespace Sys2Proof.Machine

/-- A binary32 value: a NaN (quiet or signalling), an infinity, or sign × m × 2^e. -/
inductive F32 where
  | nan (sig : Bool)
  | inf (neg : Bool)
  | fin (neg : Bool) (m : Nat) (e : Int)
  deriving DecidableEq, Repr

def f32Sign (w : Nat) : Bool := bitOf 31 w

def f32Unpack (w : Nat) : F32 :=
  let s := bitOf 31 w
  let x := bitsOf 30 23 w
  let m := bitsOf 22 0 w
  if x == 255 then (if m == 0 then .inf s else .nan (!bitOf 22 w))
  else if x == 0 then .fin s m (-149)
  else .fin s (m + 2 ^ 23) ((x : Int) - 150)

def f32Nan : Nat := 0x7FC00000
def f32Inf (neg : Bool) : Nat := 0x7F800000 + b2n neg * 2 ^ 31
def f32Zero (neg : Bool) : Nat := b2n neg * 2 ^ 31
def f32Max (neg : Bool) : Nat := 0x7F7FFFFF + b2n neg * 2 ^ 31

/-- Round a magnitude n + r/d (r < d, plus a sticky part) to an integer in rounding mode rm: 0 nearest even, 1 toward zero,
2 down, 3 up, 4 nearest away. -/
def roundMag (neg : Bool) (rm n r d : Nat) (sticky : Bool) : Nat :=
  let inexact := r != 0 || sticky
  let up := match rm with
    | 0 => decide (d < 2 * r) || (2 * r == d && d != 0 && r != 0 && (sticky || n % 2 == 1))
    | 1 => false
    | 2 => neg && inexact
    | 3 => !neg && inexact
    | _ => decide (d ≤ 2 * r) && r != 0
  if up then n + 1 else n

/-- The magnitude m × 2^e, rounded to a multiple of 2^q: the integer and whether it is exact. -/
def roundTo (neg : Bool) (rm m : Nat) (e q : Int) (sticky : Bool) : Nat × Bool :=
  if q ≤ e then (m * 2 ^ (e - q).toNat, !sticky)
  else
    let d := 2 ^ (q - e).toNat
    (roundMag neg rm (m / d) (m % d) d sticky, m % d == 0 && !sticky)

/-- Round sign × m × 2^e, m positive, to binary32: the word and its flags. Tininess is detected after rounding. A caller
that has a sticky part gives at least 26 bits of m. -/
def f32Round (neg : Bool) (rm m : Nat) (e : Int) (sticky : Bool) : Nat × Nat :=
  let len : Int := (m.log2 : Int) + 1
  let q := max (e + len - 24) (-149)
  let (n, exact) := roundTo neg rm m e q sticky
  let (n, q) := if n == 2 ^ 24 then (2 ^ 23, q + 1) else (n, q)
  let nx := if exact then 0 else 1
  if 104 < q || (q == 104 && decide (2 ^ 24 ≤ n)) then
    let toMax := rm == 1 || (rm == 2 && !neg) || (rm == 3 && neg)
    (if toMax then f32Max neg else f32Inf neg, 5)
  else
    let (n', _) := roundTo neg rm m e (e + len - 24) sticky
    let tiny := decide (e + len < -125) && !(e + len == -126 && n' == 2 ^ 24)
    let uf := if tiny && !exact then 2 else 0
    if n < 2 ^ 23 then (n + b2n neg * 2 ^ 31, nx + uf)
    else ((q + 150).toNat * 2 ^ 23 + (n - 2 ^ 23) + b2n neg * 2 ^ 31, nx + uf)

/-- The rounded value of an exact signed sum i × 2^e; an exact zero takes the sign z. -/
def f32OfInt (rm : Nat) (i : Int) (e : Int) (z : Bool) : Nat × Nat :=
  if i == 0 then (f32Zero z, 0) else f32Round (decide (i < 0)) rm i.natAbs e false

def sgnInt (neg : Bool) (m : Nat) : Int := if neg then -(m : Int) else m

def isSig : F32 → Bool
  | .nan s => s
  | _ => false

def isNan : F32 → Bool
  | .nan _ => true
  | _ => false

/-- a × b + c with one rounding. -/
def f32Fma (rm : Nat) (a b c : F32) : Nat × Nat :=
  let nv := if isSig a || isSig b || isSig c then 16 else 0
  let infZero := match a, b with
    | .inf _, .fin _ 0 _ => true
    | .fin _ 0 _, .inf _ => true
    | _, _ => false
  if infZero then (f32Nan, 16)
  else if isNan a || isNan b || isNan c then (f32Nan, nv)
  else
    let prodInf : Option Bool := match a, b with
      | .inf s, .inf t => some (s != t)
      | .inf s, .fin t _ _ => some (s != t)
      | .fin s _ _, .inf t => some (s != t)
      | _, _ => none
    match prodInf, c with
    | some s, .inf t => if s == t then (f32Inf s, 0) else (f32Nan, 16)
    | some s, _ => (f32Inf s, 0)
    | none, .inf t => (f32Inf t, 0)
    | none, c =>
      match a, b, c with
      | .fin s m e, .fin t n f, .fin u k g =>
        let ps := s != t
        let pe := e + f
        let q := min pe g
        let i := sgnInt ps (m * n) * 2 ^ (pe - q).toNat + sgnInt u k * 2 ^ (g - q).toNat
        let z := if m * n == 0 && k == 0 then (if ps == u then ps else rm == 2) else rm == 2
        f32OfInt rm i q z
      | _, _, _ => (f32Nan, 0)

def f32One : F32 := .fin false 1 0

def f32Neg : F32 → F32
  | .nan s => .nan s
  | .inf s => .inf (!s)
  | .fin s m e => .fin (!s) m e

def f32Add (rm : Nat) (a b : F32) : Nat × Nat := f32Fma rm a f32One b
def f32Sub (rm : Nat) (a b : F32) : Nat × Nat := f32Fma rm a f32One (f32Neg b)

/-- The product; a zero product keeps its sign. -/
def f32Mul (rm : Nat) (a b : F32) : Nat × Nat :=
  match a, b with
  | .fin s m _, .fin t n _ => if m * n == 0 then (f32Zero (s != t), 0) else f32Fma rm a b (.fin (s != t) 0 0)
  | _, _ => f32Fma rm a b (.fin false 0 0)

def f32Div (rm : Nat) (a b : F32) : Nat × Nat :=
  let nv := if isSig a || isSig b then 16 else 0
  match a, b with
  | .nan _, _ => (f32Nan, nv)
  | _, .nan _ => (f32Nan, nv)
  | .inf _, .inf _ => (f32Nan, 16)
  | .inf s, .fin t _ _ => (f32Inf (s != t), 0)
  | .fin s _ _, .inf t => (f32Zero (s != t), 0)
  | .fin s m e, .fin t n f =>
    if n == 0 then (if m == 0 then (f32Nan, 16) else (f32Inf (s != t), 8))
    else if m == 0 then (f32Zero (s != t), 0)
    else f32Round (s != t) rm (m * 2 ^ 60 / n) (e - f - 60) (m * 2 ^ 60 % n != 0)

/-- The integer square root, built bit by bit from bit b down. -/
def isqrtFrom (n : Nat) : Nat → Nat → Nat
  | 0, r => r
  | b + 1, r => if (r + 2 ^ b) * (r + 2 ^ b) ≤ n then isqrtFrom n b (r + 2 ^ b) else isqrtFrom n b r

def isqrt (n : Nat) : Nat := isqrtFrom n (n.log2 / 2 + 1) 0

def f32Sqrt (rm : Nat) (a : F32) : Nat × Nat :=
  match a with
  | .nan s => (f32Nan, if s then 16 else 0)
  | .inf s => if s then (f32Nan, 16) else (f32Inf false, 0)
  | .fin s m e =>
    if m == 0 then (f32Zero s, 0)
    else if s then (f32Nan, 16)
    else
      let (m, e) := if e % 2 == 0 then (m * 2 ^ 60, e - 60) else (m * 2 ^ 61, e - 61)
      let r := isqrt m
      f32Round false rm r (e / 2) (r * r != m)

/-- CX.RSQRT: 1/√x rounded to nearest even; a zero gives an infinity of its sign, a negative operand the canonical NaN and
NV (R212). -/
def f32Rsqrt (a : F32) : Nat × Nat :=
  match a with
  | .nan s => (f32Nan, if s then 16 else 0)
  | .inf s => if s then (f32Nan, 16) else (f32Zero false, 0)
  | .fin s m e =>
    if m == 0 then (f32Inf s, 8)
    else if s then (f32Nan, 16)
    else
      let (m, e) := if e % 2 == 0 then (m, e) else (2 * m, e - 1)
      let r := isqrt (2 ^ 120 / m)
      f32Round false 0 r (-60 - e / 2) (r * r * m != 2 ^ 120)

/-- Value order of two finite or infinite values: less, equal or greater as -1, 0, 1. -/
def f32Cmp (a b : F32) : Int :=
  match a, b with
  | .inf s, .inf t => if s == t then 0 else if s then -1 else 1
  | .inf s, _ => if s then -1 else 1
  | _, .inf t => if t then 1 else -1
  | .fin s m e, .fin t n f =>
    let q := min e f
    let d := sgnInt s m * 2 ^ (e - q).toNat - sgnInt t n * 2 ^ (f - q).toNat
    if d < 0 then -1 else if d == 0 then 0 else 1
  | _, _ => 0

def f32Feq (a b : F32) : Nat × Nat :=
  if isNan a || isNan b then (0, if isSig a || isSig b then 16 else 0) else (b2n (f32Cmp a b == 0), 0)

def f32Flt (a b : F32) : Nat × Nat := if isNan a || isNan b then (0, 16) else (b2n (f32Cmp a b == -1), 0)
def f32Fle (a b : F32) : Nat × Nat := if isNan a || isNan b then (0, 16) else (b2n (f32Cmp a b != 1), 0)

/-- FMIN.S (mx false) and FMAX.S: the number where one operand is a NaN, and −0.0 below +0.0. -/
def f32MinMax (mx : Bool) (x y : Nat) : Nat × Nat :=
  let a := f32Unpack x
  let b := f32Unpack y
  let nv := if isSig a || isSig b then 16 else 0
  if isNan a && isNan b then (f32Nan, nv)
  else if isNan a then (y, nv)
  else if isNan b then (x, nv)
  else
    let c := f32Cmp a b
    let firstLess := c == -1 || (c == 0 && f32Sign x)
    (if firstLess != mx then x else y, nv)

/-- Conversion to a 32-bit integer, signed or unsigned, with saturation and NV out of range. -/
def f32ToInt (rm : Nat) (sg : Bool) (a : F32) : Nat × Nat :=
  let lo : Int := if sg then -2147483648 else 0
  let hi : Int := if sg then 2147483647 else 4294967295
  match a with
  | .nan _ => (unsigned 32 hi, 16)
  | .inf s => (unsigned 32 (if s then lo else hi), 16)
  | .fin s m e =>
    let (n, exact) := roundTo s rm m e 0 false
    let i := sgnInt s n
    if i < lo then (unsigned 32 lo, 16)
    else if hi < i then (unsigned 32 hi, 16)
    else (unsigned 32 i, if exact then 0 else 1)

/-- FCLASS.S. -/
def f32Class (w : Nat) : Nat :=
  match f32Unpack w with
  | .nan s => if s then 2 ^ 8 else 2 ^ 9
  | .inf s => if s then 1 else 2 ^ 7
  | .fin s m e =>
    if m == 0 then (if s then 2 ^ 3 else 2 ^ 4)
    else if e == -149 && decide (m < 2 ^ 23) then (if s then 2 ^ 2 else 2 ^ 5)
    else if s then 2 ^ 1 else 2 ^ 6

/-! ### Sine and cosine of a fraction of a turn (R212) -/

/-- π/2 in units of 2^−60. -/
def halfPi60 : Nat := 1811004864519280710

/-- n terms of the alternating Taylor series from term t on, in units of 2^−60: term k is the previous one × x² / ((k+1)(k+2)). -/
def taylor : Nat → Nat → Nat → Nat → Int
  | 0, _, _, _ => 0
  | n + 1, t, k, x2 => (t : Int) - taylor n (t * x2 / 2 ^ 60 / ((k + 1) * (k + 2))) (k + 2) x2

/-- sin and cos of a quarter-turn fraction a / 2^30, in units of 2^−60. -/
def quadSin (a : Nat) : Int :=
  let x := a * halfPi60 / 2 ^ 30
  taylor 14 x 1 (x * x / 2 ^ 60)

def quadCos (a : Nat) : Int :=
  let x := a * halfPi60 / 2 ^ 30
  taylor 14 (2 ^ 60) 0 (x * x / 2 ^ 60)

/-- sin (c false) or cos (c true) of an angle in units of 2^−32 turn, in units of 2^−60. -/
def sinTurn (c : Bool) (a : Nat) : Int :=
  let q := (a / 2 ^ 30 + b2n c) % 4
  let r := a % 2 ^ 30
  match q with
  | 0 => quadSin r
  | 1 => quadCos r
  | 2 => -quadSin r
  | _ => -quadCos r

/-- A binary32 word lies within 2^−22 of i × 2^−60. -/
def within22 (w : Nat) (i : Int) : Bool :=
  match f32Unpack w with
  | .fin s m e =>
    let q : Int := min e (-60)
    let d := sgnInt s m * 2 ^ (e - q).toNat - i * 2 ^ (-60 - q).toNat
    decide (d.natAbs ≤ 2 ^ (-22 - q).toNat)
  | _ => false

end Sys2Proof.Machine
end

