-- ==== Sys2Proof/Machine/Ledger.lean ====
section
/-! DEFINITION. The power ledger and ripple steering (R242–R261). Amounts inside a cycle are in 1/25,600 W, so that factors in
1/256 and percent are exact. -/

namespace Sys2Proof.Machine


/-- The lowest CE whose LGENT names the entry. -/
def State.entryCe (s : State) (e : Nat) : Option Nat := (List.range 8).find? (fun n => s.get (CE_CTRL_LGENT n) == e)

/-- An exchange word as a reader sees it in this cycle (R209). -/
def State.xword (s : State) (n i : Nat) : Word :=
  let c := s.ceOf n
  if nth c.xwVis i 0 ≤ s.cyc then nth c.xw i 0 else nth c.xwOld i 0

/-- A binary32 value rounded toward zero to an integer; none for a NaN or an infinity. -/
def f32Trunc (w : Word) : Option Int :=
  match f32Unpack w.toNat with
  | .fin s m e => some (sgnInt s (if 0 ≤ e then m * 2 ^ e.toNat else m / 2 ^ (-e).toNat))
  | _ => none

/-- Whole watts of a written prediction; a value outside 32 bits is left open. -/
def State.watts (s : State) (w : Word) : Int :=
  match f32Trunc w with
  | some i => if -2147483648 ≤ i ∧ i ≤ 2147483647 then i else signed 32 s.freeNat
  | none => signed 32 s.freeNat

/-! ### Factors and caps (R253) -/

/-- max(0, 256 − step × FRAC), in 1/256. -/
def State.thermFactor (s : State) : Nat := 256 - s.get THM_STAT_STEP * s.get LGC_CTRL_FRAC

/-- ACT_TQ_LIM in percent on the motor entries while a shift or clutch sequence runs (X2), otherwise 100. -/
def State.actFactor (s : State) (e : Nat) : Nat := if e < 2 && s.x2Seq then s.par 0x0015 else 100

/-- PMAX in watts. -/
def State.pmax (s : State) (e : Nat) : Nat := 100 * s.get (LGE_CFG_PMAX e)

/-- The prediction clamped to the stage cap, in 1/25,600 W. -/
def State.clamped (s : State) (e : Nat) (p : Int) : Int :=
  let c : Int := s.pmax e * s.thermFactor * s.actFactor e
  clampInt (-c) c (p * 25600)

/-! ### Items (R253) -/

/-- A part of an entry's prediction: entry, rank, amount. -/
structure Item where
  entry : Nat
  rank : Nat
  amt : Int
  deriving DecidableEq, Repr

/-- The items of entry e with clamped prediction d and heat share h. -/
def State.items (s : State) (e : Nat) (d h d5 : Int) : List Item :=
  let drv := s.active e
  let wht := s.active (7 + e)
  if (entryInsts e).any (fun i => bitOf i s.modes.sst) || (decide (e < 2) && s.get (LGE_STAT_HOLD e) != 0) then [⟨e, 1, d⟩]
  else if e < 2 then
    if e == 1 && s.active 2 then [⟨e, 5, d⟩]
    else if drv && wht then [⟨e, 4, d - h⟩, ⟨e, 6, h⟩]
    else if wht then [⟨e, 6, h⟩]
    else [⟨e, 4, d⟩]
  else if e < 4 then [⟨e, 5, d⟩]
  else if e == 4 then [⟨e, 3, if s.active 5 then max 0 (d - d5) else d⟩]
  else if e == 5 then [⟨e, 2, d⟩]
  else
    let r := s.get (LGE_CFG_RANK e)
    [⟨e, if 2 ≤ r ∧ r ≤ 6 then r else 6, d⟩]

def sumInt (l : List Int) : Int := l.foldl (fun a b => a + b) 0

/-! ### Service (R254) -/

/-- The draws of each rank from 1 on: pairs of the rank's offered sum and what is available when it is served. -/
def serveDraws (its : List Item) : Nat → Nat → Int → List (Int × Int)
  | 0, _, _ => []
  | n + 1, r, avail =>
    let s := sumInt ((its.filter (fun i => i.rank == r && decide (0 < i.amt))).map (fun i => i.amt))
    (s, avail) :: serveDraws its n (r + 1) (if s ≤ avail then avail - s else 0)

/-- The cuts of generation from rank 6 down: pairs of the rank's offered sum and its cut, rank 6 first. -/
def serveCuts (its : List Item) : Nat → Nat → Int → List (Int × Int)
  | 0, _, _ => []
  | n + 1, r, excess =>
    let t := sumInt ((its.filter (fun i => i.rank == r && decide (i.amt < 0))).map (fun i => -i.amt))
    let cut := min excess t
    (t, cut) :: serveCuts its n (r - 1) (excess - cut)

/-- An item's grant in whole watts, rounded toward zero, and whether the battery's discharge or charge limit cut it. -/
def itemGrant (draws cuts : List (Int × Int)) (i : Item) : Int × Bool × Bool :=
  if 0 < i.amt then
    let (s, a) := nth draws (i.rank - 1) (0, 0)
    if s ≤ a then (i.amt / 25600, false, false) else (i.amt * a / (s * 25600), true, false)
  else if i.amt < 0 then
    let (t, c) := nth cuts (6 - i.rank) (0, 0)
    (-((-i.amt) * (t - c) / (t * 25600)), false, decide (0 < c))
  else (0, false, false)

/-! ### Reasons (R256) -/

/-- The reason with the smallest grant, the lower code among equals; candidates in ascending code order. -/
def leastReason : List (Nat × Nat) → Option (Nat × Nat)
  | [] => none
  | (g, c) :: t => match leastReason t with
    | some (g', c') => if g' < g then some (g', c') else some (g, c)
    | none => some (g, c)

/-- The entry has isolated channels in a bias group at its limit. -/
def State.entryBias (s : State) (e : Nat) : Bool :=
  (List.range 42).any (fun g => bitOf (gateGroup g) s.ledger.bias
    && decide (s.pwmOwner (g / 2) < 8) && s.get (CE_CTRL_LGENT (s.pwmOwner (g / 2))) == e)

/-- The current-limit factor, 1/256 units. -/
def State.factor (s : State) (e : Nat) : Nat := s.thermFactor * s.actFactor e / 100

/-- The candidates of an entry: prediction p, limit l, cut by the battery's limits. -/
def State.reasons (s : State) (e : Nat) (p l : Int) (dis chg fb : Bool) : List (Nat × Nat) :=
  let m := l.natAbs
  let a := p.natAbs
  let xw := match s.entryCe e with
    | some n => bitOf 0 (s.xword n 14).toNat
    | none => false
  (if dis && !fb then [(m, 1)] else []) ++ (if chg && !fb then [(m, 2)] else [])
  ++ (if s.thermFactor < 256 then [(min a (s.pmax e * s.thermFactor / 256), 3)] else [])
  ++ (if s.entryBias e then [(m, 4)] else [])
  ++ (if s.actFactor e < 100 then [(min a (s.pmax e * s.actFactor e / 100), 5)] else [])
  ++ (if xw then [(m, 6)] else [])
  ++ (if s.pmax e < a then [(s.pmax e, 7)] else [])
  ++ (if (dis || chg) && fb then [(m, 8)] else [])
  ++ (if e == 1 && s.active 2 && s.ledger.input then [(m, 9)] else [])

/-! ### A cycle (R252, R255) -/

/-- V_IN in units of 0.1 V: no rule gives the scale of the BCH_VIN stream, so its value is left open. -/
def State.vIn (s : State) : Nat := if s.par 0x010D == 0xFFFF then 0xFFFF else s.freeNat % 65536

/-- The BCH stage holds zero current above 0.95 of the link voltage until V_IN is at 0.93 of it or below (R246). -/
def State.inputScan (s : State) : State :=
  if s.active 2 then
    let v := s.vIn
    let l := s.get ADG_VDC_VDC
    let b := l == 0xFFFF || decide (95 * l < 100 * v) || (s.ledger.input && !decide (100 * v ≤ 93 * l))
    (s.setLedger { s.ledger with input := b }).useFree
  else s.setLedger { s.ledger with input := false }

/-- The battery limits have been written within the timeout. -/
def State.batFresh (s : State) : Bool :=
  match s.ledger.batAt with
  | some t => decide (s.cyc < t + 400000 * max 1 (s.get LGC_BATTMO_TMO))
  | none => false

/-- The last prediction of CE n that a ledger cycle starting now uses, with its cycle: not one written in this cycle (R208). -/
def State.lastPred (s : State) (n : Nat) : Word × Nat :=
  let c := s.ceOf n
  if c.lgAt == s.cyc then (c.lgOld, c.lgOldAt) else (c.lgPred, c.lgAt)

/-- The last value written for an entry by any CE that names it; the lowest CE's among equals (DEDUCED, log entry 110). -/
def State.entryPred (s : State) (e : Nat) : Option (Word × Nat) :=
  ((List.range 8).filter (fun n => s.get (CE_CTRL_LGENT n) == e)).foldl (fun (b : Option (Word × Nat)) n =>
    match b with
    | some x => if x.2 < (s.lastPred n).2 then some (s.lastPred n) else some x
    | none => some (s.lastPred n)) none

/-- The prediction of an entry; CE6 predicts 0 W while a latched trip holds the DC-DC stage (R269). -/
def State.predict (s : State) (e : Nat) : Int :=
  match s.entryPred e with
  | some (w, _) => if (e == 1 && s.order == .sa) || (e == 4 && s.is DCS_STAT_TRIPLAT) then 0 else s.watts w
  | none => 0

/-- The heat share before its clamp, whole watts. -/
def State.heatWord (s : State) (e : Nat) : Int :=
  match s.entryCe e with
  | some n => if e < 2 && s.active (7 + e) then s.watts (s.xword n 15) else 0
  | none => 0

/-- Predictions and heat words of the entries from e on, each with its own free value. -/
def State.predictions (s : State) : Nat → Nat → List (Int × Int) × State
  | 0, _ => ([], s)
  | n + 1, e =>
    let p := s.predict e
    let s := s.useFree
    let h := s.heatWord e
    let r := s.useFree.predictions n (e + 1)
    ((p, h) :: r.1, r.2)

/-- The results of a cycle from the predictions. -/
def State.ledgerCompute (s : State) (ps : List (Int × Int)) : List LgRes :=
  let p (e : Nat) : Int := (nth ps e (0, 0)).1
  let d (e : Nat) : Int := s.clamped e (p e)
  let h (e : Nat) : Int := clampInt 0 (max (d e) 0) ((nth ps e (0, 0)).2 * 25600)
  let its := (List.range 8).flatMap (fun e => s.items e (d e) (h e) (d 5))
  let fb := !s.batFresh
  let pdis : Int := 25600 * (if fb then 1000 * s.get LGC_BATTMO_FBDIS else 10 * s.get LGC_BATLIM_DIS : Nat)
  let pchg : Int := 25600 * (if fb then 1000 * s.get LGC_BATTMO_FBCHG else 10 * s.get LGC_BATLIM_CHG : Nat)
  let g := sumInt ((its.filter (fun i => decide (i.amt < 0))).map (fun i => -i.amt))
  let draws := serveDraws its 6 1 (pdis + g)
  let net := sumInt (draws.map (fun x => min x.1 x.2)) - g
  let cuts := serveCuts its 6 6 (max 0 (-pchg - net))
  let gr (e : Nat) : List (Int × Bool × Bool) := (its.filter (fun i => i.entry == e)).map (itemGrant draws cuts)
  let own (e : Nat) : Int := sumInt ((gr e).map (fun x => x.1))
  let parts (e : Nat) := if e == 4 then gr 4 ++ gr 5 else gr e
  (List.range 8).map (fun e =>
    let lim := if e == 4 then own 4 + own 5 else own e
    let dis := (parts e).any (fun x => x.2.1)
    let chg := (parts e).any (fun x => x.2.2)
    let why := if e == 1 && s.order == .sa then none else leastReason (s.reasons e (p e) lim dis chg fb)
    let rank := match its.find? (fun i => i.entry == e) with
      | some i => i.rank
      | none => 0
    ⟨BitVec.ofInt 32 (p e), BitVec.ofInt 32 (h e / 25600), BitVec.ofInt 32 lim,
     (match why with
      | some (_, c) => 2 ^ 31 + c * 2 ^ 24
      | none => 0) + b2n (s.entryBias e) * 2 ^ 30 + rank * 2 ^ 20 + s.factor e⟩)

/-- A ledger cycle runs once at a tick whose TIMEBASE is a multiple of 10,000 ns. One that has not finished when the next is due
is discarded; when that happens no rule says, so whether a cycle finishes is free (R252). -/
def State.ledgerCycle (s : State) : State :=
  if s.ticking && s.tick % 1000 == 0 && s.ledger.ranAt != some s.tick then
    let s := if s.ledger.due.isSome then s.inc LGC_STAT_OVR else s
    let s := (s.setLedger { s.ledger with ranAt := some s.tick, slow := s.freeBool }).useFree.inputScan
    let r := s.predictions 8 0
    r.2.setLedger { r.2.ledger with due := some (r.2.cyc, r.2.ledgerCompute r.1) }
  else s

def execLedgerCycle (s : State) : Res := .next s.ledgerCycle

/-- The results of entry e are published; HOLD stays. -/
def State.publish (s : State) (e : Nat) (r : LgRes) : State :=
  let s := ((s.wr (LGE_PRED e) r.pred).wr (LGE_HEAT e) r.heat).wr (LGE_GRANT e) r.grant
  s.wr (LGE_STAT e) (BitVec.ofNat 32 (putBits 29 28 r.stat (s.get (LGE_STAT_HOLD e))))

def publishAll : List LgRes → Nat → State → State
  | [], _, s => s
  | r :: t, e, s => publishAll t (e + 1) (s.publish e r)

def State.ledgerPublish (s : State) : State :=
  match s.ledger.due with
  | some (t, rs) =>
    if s.ticking && !s.ledger.slow && decide (t + 800 ≤ s.cyc) then
      let s := publishAll rs 0 (s.setLedger { s.ledger with due := none })
      let s := (s.wrapInc LGC_STAT_CYCLE).put LGC_STAT_STEP (s.get THM_STAT_STEP)
      s.putB LGC_STAT_FALLBACK (!s.batFresh)
    else s
  | none => s

def execLedgerPublish (s : State) : Res := .next s.ledgerPublish

/-! ### Battery limits (R255) -/

/-- A write of LGC_BATLIM restarts the battery-limit timer. -/
def State.batlimWrite (s : State) (v : Word) : State :=
  let s := (s.wr LGC_BATLIM v).put LGC_STAT_FALLBACK 0
  s.setLedger { s.ledger with batAt := some s.cyc }

def execLgcBatlimWrite (ini : Initiator) (val : Word) (s : State) : Res :=
  .next (s.busWrite ini LGC_BATLIM.addr (fun s => s.batlimWrite val))

/-- LGC_BATTMO.TMO has passed since the last write of the limits. -/
def State.batTimeout (s : State) : State :=
  if s.ticking && s.ledger.batAt.isSome && !s.batFresh then
    let s := s.put LGC_STAT_FALLBACK 1
    s.setLedger { s.ledger with batAt := none }
  else s

def execBattLimitTimeout (s : State) : Res := .next s.batTimeout

def execLgcLock (ini : Initiator) (val : Word) (s : State) : Res :=
  .next (s.busWrite ini LGC_CTRL.addr (fun s => s.fieldWrite LGC_CTRL.addr (val ||| 0x80000000)))

/-! ### Ripple steering (R259–R261) -/

/-- cos(2πk/64) for k = 0–16, in units of 2^−60. -/
def cosTable : List Int :=
  [1152921504606846976, 1147369872436662991, 1130768441178740757, 1103277091691359535, 1065160580698383124, 1016785991037278313, 958619196450722178, 891220374967787610, 815238614083298888, 731405659690429196, 640528868967736374, 543483435088187080, 441203958630471860, 334675446864527722, 224923827593068887, 113006068906017470, 0]

/-- cos(2πk/64) in units of 2^−60. -/
def cos64 (k : Nat) : Int :=
  let k := k % 64
  if k ≤ 16 then nth cosTable k 0
  else if k ≤ 32 then -nth cosTable (32 - k) 0
  else if k ≤ 48 then -nth cosTable (k - 32) 0
  else nth cosTable (64 - k) 0

def sin64 (k : Nat) : Int := cos64 (k + 48)

/-- The module from which module k's SYNCI comes, through pass-through modules; fuel is the module's number. -/
def State.syncSource (s : State) : Nat → Option Nat
  | 0 => none
  | j + 1 =>
    let sel := s.get (PWM_CTRL_SYNCOSEL j)
    if sel == 3 then s.syncSource j else if sel == 0 then none else some j

/-- The first PWM module of an entry. -/
def State.firstMod (s : State) (e : Nat) : Option Nat :=
  if e < 6 then some (nth [0, 6, 12, 15, 19, 23] e 0)
  else match s.entryCe e with
    | some n => (List.range 32).find? (fun k => s.pwmOwner k == n)
    | none => none

/-- A member of the steering group: entry, harmonic and amplitude in units of 2^−149 A. -/
structure Member where
  entry : Nat
  harm : Nat
  amp : Int
  deriving DecidableEq, Repr

/-- The entry takes part: STEER is set, and it is the base or is synchronised from the base's first module. -/
def State.inGroup (s : State) (b e : Nat) : Bool :=
  s.is (LGE_CFG_STEER e) && (e == b || (match s.firstMod e, s.firstMod b with
    | some k, some j => s.syncSource k == some j
    | _, _ => false))

/-- The ratio of the carriers of an entry and the base, where it is an integer. -/
def State.ratio (s : State) (b e : Nat) : Option Nat :=
  match s.firstMod e, s.firstMod b with
  | some k, some j => if s.pwmPeriod j % s.pwmPeriod k == 0 then some (s.pwmPeriod j / s.pwmPeriod k) else none
  | _, _ => none

/-- a_n of a member's CE in XW13; a NaN or an infinity leaves it open. -/
def State.amplitude (s : State) (e : Nat) : Int :=
  match s.entryCe e with
  | some n => match f32Unpack (s.xword n 13).toNat with
    | .fin sg m x => sgnInt sg (m * 2 ^ (x + 149).toNat)
    | _ => s.freeNat
  | none => 0

/-- The members in entry order, each amplitude with its own free value. -/
def State.members (s : State) (b : Nat) : Nat → Nat → List Member × State
  | 0, _ => ([], s)
  | n + 1, e =>
    match s.inGroup b e, s.ratio b e with
    | true, some r =>
      let m : Member := ⟨e, 2 * r, s.amplitude e⟩
      let x := s.useFree.members b n (e + 1)
      (m :: x.1, x.2)
    | _, _ => s.members b n (e + 1)

/-- The residual of members of one harmonic at their offsets, in units of 2^−418 A². -/
def residual (l : List (Member × Nat)) : Int :=
  let x := sumInt (l.map (fun e => e.1.amp * cos64 (e.1.harm * e.2)))
  let y := sumInt (l.map (fun e => e.1.amp * sin64 (e.1.harm * e.2)))
  x * x + y * y

/-- The lowest offset from k on with the least residual beside those placed; best so far. -/
def bestOffset (placed : List (Member × Nat)) (m : Member) : Nat → Nat → Option (Int × Nat) → Nat
  | 0, _, best => (best.getD (0, 0)).2
  | n + 1, k, best =>
    let r := residual (placed ++ [(m, k)])
    let best' := match best with
      | some (r0, k0) => if r < r0 then some (r, k) else some (r0, k0)
      | none => some (r, k)
    bestOffset placed m n (k + 1) best'

/-- The lowest pair of offsets with the least residual. -/
def bestPair (placed : List (Member × Nat)) (m n : Member) : Nat → Nat → Option (Int × Nat × Nat) → Nat × Nat
  | 0, _, best => (best.getD (0, 0, 0)).2
  | f + 1, k, best =>
    let j := bestOffset (placed ++ [(m, k)]) n 64 0 none
    let r := residual (placed ++ [(m, k), (n, j)])
    let best' := match best with
      | some (r0, k0) => if r < r0 then some (r, k, j) else some (r0, k0)
      | none => some (r, k, j)
    bestPair placed m n f (k + 1) best'

/-- Members placed one at a time in entry order. -/
def placeAll : List Member → List (Member × Nat) → List (Member × Nat)
  | [], l => l
  | m :: t, l => placeAll t (l ++ [(m, bestOffset l m 64 0 none)])

/-- The offsets of the members of one harmonic: the base entry, or else the first member, stays at 0 (a common shift of a
harmonic does not change its residual), and up to two more are searched exhaustively. -/
def placeHarmonic (b : Nat) (l : List Member) : List (Member × Nat) :=
  let fixed := match l.find? (fun m => m.entry == b) with
    | some m => some m
    | none => l.head?
  match fixed with
  | none => []
  | some f =>
    match l.filter (fun m => m.entry != f.entry) with
    | [m, n] =>
      let (i, j) := bestPair [(f, 0)] m n 64 0 none
      [(f, 0), (m, i), (n, j)]
    | rest => placeAll rest [(f, 0)]

def harmonics : List Member → List Nat
  | [] => []
  | m :: t => let r := harmonics t
    if r.contains m.harm then r else m.harm :: r

/-- c × 16 of an offset, in 1/16 cycle, halves up, and its direction (R261). -/
def offsetCode (phi prdB prdN : Nat) : Nat :=
  let c16 := ((phi * prdB + 1) / 2) % (32 * prdN)
  if c16 ≤ 16 * prdN then c16 else (32 * prdN - c16) + 2 ^ 20

/-- Publish an adopted offset in LGEn_OFS. -/
def State.publishOffset (s : State) (b : Nat) (x : Member × Nat) : State :=
  let e := x.1.entry
  if e == b then s
  else
    let code := offsetCode x.2 (s.pwmPrd ((s.firstMod b).getD 0)) (s.pwmPrd ((s.firstMod e).getD 0))
    let s := s.wr (LGE_OFS e) (BitVec.ofNat 32 ((s.get (LGE_OFS_SEQ e) + 1) % 256 * 2 ^ 24 + code))
    s.setLedger { s.ledger with phi := s.ledger.phi.set e x.2 }

/-- The integer square root of n by its bits from position k down. -/
def sqrtFrom (n : Nat) : Nat → Nat → Nat
  | 0, r => r
  | k + 1, r => let c := r + 2 ^ k
    if c * c ≤ n then sqrtFrom n k c else sqrtFrom n k r

/-- √R in 0.1 A, between the two integers next to it, saturating. -/
def State.residualCode (s : State) (r : Nat) : Nat :=
  let q := r * 100 / 2 ^ 418
  let root := sqrtFrom q 17 0
  min 0xFFFF (if root * root * 2 ^ 418 == r * 100 then root else root + b2n s.freeBool)

def State.steerCompute (s : State) : State :=
  if s.ticking && s.is LGC_STEER_EN && decide (s.ledger.steerAt + 400000 * max 1 (s.get LGC_STEER_PERIOD) ≤ s.cyc) then
    let s := s.setLedger { s.ledger with steerAt := s.cyc }
    let b := s.get LGC_STEER_BASE
    let (ms, s) := s.members b 8 0
    let hs := harmonics ms
    let cur := hs.map (fun h => (ms.filter (fun m => m.harm == h)).map (fun m => (m, if m.entry == b then 0 else nth s.ledger.phi m.entry 0)))
    let new := hs.map (fun h => placeHarmonic b (ms.filter (fun m => m.harm == h)))
    let rc := sumInt (cur.map residual)
    let rn := sumInt (new.map residual)
    let adopt := decide (rn * 256 ≤ rc * (256 - (s.get LGC_STEER_HYST : Int)))
    let s := if adopt then new.flatten.foldl (fun s x => s.publishOffset b x) s else s
    let res := s.residualCode (if adopt then rn else rc).toNat
    let s := s.useFree
    let excl := ofBits 8 (fun e => s.inGroup b e && (s.ratio b e).isNone)
    let memb := ofBits 8 (fun e => ms.any (fun m => m.entry == e))
    s.wr LGC_STEERSTAT (BitVec.ofNat 32 (res * 2 ^ 16 + excl * 2 ^ 8 + memb))
  else s

def execSteerCompute (s : State) : Res := .next s.steerCompute

/-! ### Limp operation (R258) -/

/-- CE n writes PRD of its modules, and commits them where CMTREQ asks for it. -/
def State.limpWrite (s : State) (n : Fin 8) (prds : List (Nat × Nat)) : State :=
  prds.foldl (fun s x =>
    let s := s.pwmOwned (.ce n) x.1 (fun s => s.pwmShadowWrite x.1 0 (BitVec.ofNat 32 x.2))
    if s.is (PWM_CTRL_CMTREQ x.1) then s.pwmOwned (.ce n) x.1 (fun s => s.pwmCommit x.1) else s) s

/-- Twice a PRD; a period that PRD cannot hold is left open. -/
def State.limpPrd (s : State) (p : Nat) : Nat := if 2 * max 16 p ≤ 0xFFFF then 2 * max 16 p else s.freeNat % 65536

/-- CE n halves its carrier while a bias group of its stage is at its limit, and restores it when BIAS has been clear for
100 ms. -/
def State.limpScan (s : State) (n : Fin 8) : State :=
  match s.ceEntry n.val with
  | none => s
  | some e =>
    if !s.ceSteps n.val then s
    else match s.ledger.limp.find? (fun l => l.ce == n.val) with
      | none =>
        if s.entryBias e then
          let old := ((List.range 32).filter (fun k => s.pwmOwner k == n.val)).map (fun k => (k, s.get (PWM_PRD_PRD k)))
          let s := s.setLedger { s.ledger with limp := ⟨n.val, old, s.now⟩ :: s.ledger.limp }
          (s.limpWrite n (old.map (fun x => (x.1, s.limpPrd x.2)))).useFree
        else s
      | some l =>
        let rest := s.ledger.limp.filter (fun x => x.ce != n.val)
        if s.is (LGE_STAT_BIAS e) || s.entryBias e then s.setLedger { s.ledger with limp := { l with seen := s.now } :: rest }
        else if s.elapsedMs l.seen 100 then (s.setLedger { s.ledger with limp := rest }).limpWrite n l.prds
        else s

/-- What the ledger and the carriers' limp operation do of themselves at the end of a tick. -/
def State.ledgerDue (s : State) : State :=
  let s := s.ledgerCycle.ledgerPublish.batTimeout.steerCompute
  (List.finRange 8).foldl (fun s n => s.limpScan n) s

end Sys2Proof.Machine
end

