-- ==== Sys2Proof/Machine/Pos.lean ====
section
/-! DEFINITION. Position channels, their serial receivers and the resolver channels (R215–R238). -/

namespace Sys2Proof.Machine

def State.posCh (s : State) (n : Nat) : PosCh := nth s.pos.ch n PosCh.idle
def State.setPos (s : State) (n : Nat) (c : PosCh) : State := s.setPosBlk { s.pos with ch := s.pos.ch.set n c }

/-! ### Validity, interrupts and speed -/

/-- The channel's source is a serial receiver; 0–3 SENT, 4–5 SSI. -/
def State.posRx (s : State) (n : Nat) : Option Nat :=
  let c := s.get (POS_CFG_SRC n)
  if 2 ≤ c then some (c - 2) else none

/-- PVALID follows its conditions (R234). -/
def State.posRefresh (s : State) (n : Nat) : State :=
  s.putB (POS_STATUS_PVALID n) (s.is (POS_CFG_EN n) && !s.is (POS_STATUS_LOSS n) && !s.is (POS_STATUS_QERR n)
    && ((s.posRx n).isNone || (s.posCh n).prev.isSome))

/-- An enabled interrupt goes to the SC interrupt controller, and to the owner CE (R224). -/
def State.posIrq (s : State) (n : Nat) (f : Fld) (ev : Nat) : State :=
  if s.is f then
    let s := s.irq .sc (0x40400000 + n * 0x100) ev
    if s.get (POS_OWN_OWN n) < 8 then s.irq (.ce (s.get (POS_OWN_OWN n))) (0x40400000 + n * 0x100) ev else s
  else s

/-- SPD reads a magnitude, or invalid with magnitude 0. -/
def State.posSpeed (s : State) (n : Nat) (mag : Option Nat) : State :=
  match mag with
  | some m => (s.put (POS_SPD_VALID n) 1).put (POS_SPD_MAG n) m
  | none => (s.put (POS_SPD_VALID n) 0).put (POS_SPD_MAG n) 0

/-- The direction of an edge or frame; a change sets DIRCHG, logs and interrupts (R224). -/
def State.posDir (s : State) (n : Nat) (back : Bool) : State :=
  if s.is (POS_STATUS_DIR n) == back then s
  else
    let s := ((s.putB (POS_STATUS_DIR n) back).put (POS_STATUS_DIRCHG n) 1).putB (POS_SPD_SIGN n) back
    (s.log 8 n 0x01).posIrq n (POS_IEN_DIRCHG n) 0x01

/-! ### Compares (R232, R233) -/

/-- The modulo in force. -/
def State.posMod (s : State) (n : Nat) : Nat := max 4 (s.get (POS_MOD_MOD n))

/-- The path from c0 along d, across the wrap at w, crosses x. -/
def wrapCross (w c0 d x : Int) : Bool :=
  decide (0 ≤ x) && decide (x < w)
  && (if 0 < d then decide (0 < (x - c0) % w) && decide ((x - c0) % w ≤ d)
      else decide (0 < (c0 - x) % w) && decide ((c0 - x) % w ≤ -d))

/-- The change from c0 along d steps to c1 crosses entry value e. bits: the frame's position width, 0 for an edge; a frame's path
goes on across 2^bits. -/
def State.posCross (s : State) (n bits : Nat) (c0 c1 d : Int) (e : Nat) : Bool :=
  if s.is (POS_CFG_CNTMODE n) then
    let m : Int := s.posMod n
    let x : Int := e
    if m ≤ x then false
    else if 0 < d then decide (m ≤ d) || (decide (0 < (x - c0) % m) && decide ((x - c0) % m ≤ d))
    else decide (m ≤ -d) || (decide (0 < (c0 - x) % m) && decide ((c0 - x) % m ≤ -d))
  else
    let x := signed 32 e
    let w : Int := (2 ^ bits : Nat)
    if bits != 0 && c1 != c0 + d && decide (0 ≤ c0) && decide (c0 < w) && (c1 - c0 - d) % w == 0 then wrapCross w c0 d x
    else if 0 < d then decide (c0 < x) && decide (x ≤ c1) else decide (c1 ≤ x) && decide (x < c0)

/-- A compare fires. -/
def State.posFire (s : State) (n : Nat) : State :=
  let s := (s.log 8 n 0x02).ceEventSets (0x80 + n)
  let s := s.posIrq n (POS_IEN_CMP n) 0x02
  let pw := s.get (POS_PCMP_PW n)
  if pw == 0 then s else s.setPos n { s.posCh n with pulse := some (s.cyc + 4 * pw) }

/-- The active entry and those after it, at most one firing; fuel is the list's length. -/
def State.posCompare (s : State) (n bits : Nat) (c0 c1 d : Int) : Nat → Bool → State
  | 0, _ => s
  | f + 1, fired =>
    let p := s.get (POS_STATUS_CMPPTR n)
    if s.is (POS_STATUS_CMPDONE n) || !s.posCross n bits c0 c1 d (s.get (POS_CMP_VAL n p)) then s
    else
      let s := if fired then s.inc (POS_CNTS1_CMPSKIP_CNT n) else s.posFire n
      let s := if p < s.get (POS_CFG_CMPLEN n) then s.put (POS_STATUS_CMPPTR n) (p + 1)
        else if s.is (POS_CFG_CMPCYC n) then s.put (POS_STATUS_CMPPTR n) 0
        else s.put (POS_STATUS_CMPDONE n) 1
      s.posCompare n bits c0 c1 d f true

/-- Compares are evaluated where CMPDIR permits the direction. -/
def State.posChanged (s : State) (n bits : Nat) (c0 c1 d : Int) : State :=
  let dir := s.get (POS_CFG_CMPDIR n)
  if d == 0 || c0 == c1 && !s.is (POS_CFG_CNTMODE n) then s
  else if bitOf (if 0 < d then 0 else 1) dir then s.posCompare n bits c0 c1 d (s.get (POS_CFG_CMPLEN n) + 1) false
  else s

/-! ### The count (R222, R223) -/

def State.posCnt (s : State) (n : Nat) : Int :=
  if s.is (POS_CFG_CNTMODE n) then (s.get (POS_CNT_CNT n) : Int) else signed 32 (s.get (POS_CNT_CNT n))

/-- The count takes a value, wrapped or held within the limits. -/
def State.posLoad (s : State) (n : Nat) (v : Int) : State :=
  if s.is (POS_CFG_CNTMODE n) then s.put (POS_CNT_CNT n) (v % (s.posMod n : Int)).toNat
  else
    let lo := signed 32 (s.get (POS_LIMLO_LIMLO n))
    let hi := signed 32 (s.get (POS_LIMHI_LIMHI n))
    if s.is (POS_CFG_LIMEN n) && decide (hi < v) then (s.put (POS_CNT_CNT n) (unsigned 32 hi)).put (POS_STATUS_LIMIT_HI n) 1
    else if s.is (POS_CFG_LIMEN n) && decide (v < lo) then (s.put (POS_CNT_CNT n) (unsigned 32 lo)).put (POS_STATUS_LIMIT_LO n) 1
    else s.put (POS_CNT_CNT n) (unsigned 32 v)

/-! ### Edges (R218–R221, R226, R227) -/

/-- A decoded edge of step 1 or −1. Its compares wait for the end of the cycle, in which a write can still load the count that it
steps from (R225). -/
def State.posEdge (s : State) (n : Nat) (d : Int) : State :=
  let c0 := s.posCnt n
  let lim := s.get ⟨POS_STATUS n, 6, 5⟩
  let s := s.posLoad n (c0 + d)
  let due := some (c0, s.posCnt n)
  let back := decide (d < 0)
  let rev := s.is (POS_STATUS_DIR n) != back
  let s := (s.posDir n back).put (POS_TSTAMP_TS n) s.timebase
  let c := s.posCh n
  let s := s.setPos n { c with run := true, le := s.cyc, step := some (s.cyc, d), lim := lim, cmpDue := due, stAt := some s.cyc }
  if rev || !c.run then (s.put (POS_STATUS_STANDSTILL n) 0).posSpeed n none
  else
    let p := max 1 (min 0xFFFFFFFF (s.cyc - c.le))
    (s.put (POS_PERIOD_PERIOD n) p).posSpeed n (some (3200000000 / p))

/-- An illegal transition (R219). -/
def State.posIllegal (s : State) (n : Nat) : State :=
  let s := ((s.put (POS_STATUS_QERR n) 1).inc (POS_CNTS0_QERR_CNT n)).posIrq n (POS_IEN_QERR n) 0x04
  (s.setPos n { s.posCh n with run := false, stAt := some s.cyc }).posSpeed n none

/-- The place of (A, B) in the forward quadrature sequence. -/
def quadIdx (l : Nat) : Nat := nth [0, 1, 3, 2] (l % 4) 0

/-- The place of (A, B, C) in the forward Hall sequence; none for 000 and 111. -/
def hallIdx (l : Nat) : Option Nat := nth [none, some 0, some 2, some 1, some 4, some 5, some 3, none] l none

/-- The step of a change of accepted levels: none without an A or B change, 0 for an illegal transition. -/
def posStep (hall : Bool) (old new : Nat) : Option Int :=
  if hall then
    (match hallIdx old, hallIdx new with
     | some a, some b => some (if (b + 6 - a) % 6 == 1 then 1 else if (b + 6 - a) % 6 == 5 then -1 else 0)
     | _, _ => some 0)
  else
    let d := (quadIdx new + 4 - quadIdx old) % 4
    if d == 0 then none else if d == 1 then some 1 else if d == 3 then some (-1) else some 0

/-- The accepted levels change: decoding, then the index (R218–R221). -/
def State.posDecode (s : State) (n old new : Nat) : State :=
  let hall := s.get (POS_CFG_SRC n) == 1
  let s := match posStep hall old new with
    | none => s
    | some d => if d == 0 then s.posIllegal n else s.posEdge n (if s.is (POS_CFG_DIRINV n) then -d else d)
  if !hall && s.is (POS_CFG_ZEN n) && bitOf 2 new && !bitOf 2 old then
    let s := (s.put (POS_ZLATCH_ZLATCH n) (s.get (POS_CNT_CNT n))).put (POS_STATUS_ZSEEN n) 1
    if s.is (POS_CFG_ZRST n) then s.put (POS_CNT_CNT n) (s.get (POS_ZVAL_ZVAL n)) else s
  else s

def State.posTmin (s : State) (n : Nat) : Nat := max 4 (min 4000 (s.get (POS_CFG_TMIN n)))

/-- The levels are accepted and decoded. -/
def State.posAccept (s : State) (n : Nat) : State :=
  let c := s.posCh n
  let s := s.setPos n { c with acc := c.sync, la := some s.cyc }
  if (s.posRx n).isSome then s else (s.posDecode n c.acc c.sync).posRefresh n

/-- The synchronised levels change in this decoding cycle (R215, R216). -/
def State.posRaw (s : State) (n levels : Nat) : State :=
  let c := s.posCh n
  let diff := c.sync ^^^ levels
  if diff == 0 then s
  else
    let s := s.setPos n { c with sync := levels }
    if !(s.ticking && s.is (POS_CFG_EN n)) then s
    else
      let early := match c.la with
        | some t => decide (s.cyc < t + s.posTmin n)
        | none => false
      if early then
        (s.incBy (POS_CNTS0_EFLT_CNT n) (setBits 3 diff).length).put (POS_STATUS_EFLT n) 1
      else if levels == c.acc then s
      else s.posAccept n

def execPosRawTransition (n : Fin 8) (levels : BitVec 3) (s : State) : Res := .next (s.posRaw n.val levels.toNat)

/-- TMIN cycles after an accepted transition, pads that differ from their accepted levels are accepted. -/
def State.posTminExpiry (s : State) (n : Nat) : State :=
  let c := s.posCh n
  match c.la with
  | some t => if s.ticking && s.is (POS_CFG_EN n) && s.cyc == t + s.posTmin n && c.sync != c.acc then s.posAccept n else s
  | none => s

def execPosTminExpiry (n : Fin 8) (s : State) : Res := .next (s.posTminExpiry n.val)

/-- The PCMP pulse has lasted PW × 10 ns (R233). -/
def State.pcmpEnd (s : State) (n : Nat) : State :=
  match (s.posCh n).pulse with
  | some t => if s.ticking && decide (t ≤ s.cyc) then s.setPos n { s.posCh n with pulse := none } else s
  | none => s

def execPcmpPulseEnd (n : Fin 8) (s : State) : Res := .next (s.pcmpEnd n.val)

/-- The level of pad PCMPn (R233). -/
def State.pcmpPad (s : State) (n : Nat) : Bool := (s.posCh n).pulse.isSome != s.is (POS_CFG_PCPOL n)

/-- No edge and no illegal transition has come for STTMO × 10 µs (R227). -/
def State.posStandstill (s : State) (n : Nat) : State :=
  match (s.posCh n).stAt with
  | some t =>
    if s.ticking && decide (t + 4000 * max 1 (s.get (POS_TMO_STTMO n)) ≤ s.cyc) then
      let s := s.setPos n { s.posCh n with stAt := none, run := false }
      ((s.put (POS_STATUS_STANDSTILL n) 1).posSpeed n none).log 8 n 0x06
    else s
  | none => s

def execPosStandstill (n : Fin 8) (s : State) : Res := .next (s.posStandstill n.val)

/-! ### Register writes (R225, R232) -/

/-- POSn_CNT is loaded; an edge counted in the same cycle is applied to the value, with its limit and its compares. -/
def State.posCntWrite (s : State) (n : Nat) (v : Word) : State :=
  let s := s.wr (POS_CNT n) v
  match (s.posCh n).step with
  | some (c, d) =>
    if c == s.cyc then
      let c0 := s.posCnt n
      let s := (s.put ⟨POS_STATUS n, 6, 5⟩ (s.posCh n).lim).posLoad n (c0 + d)
      s.setPos n { s.posCh n with cmpDue := some (c0, s.posCnt n) }
    else s
  | none => s

/-- The compares of the edge counted in this cycle. -/
def State.posEdgeCompare (s : State) (n : Nat) : State :=
  let c := s.posCh n
  match c.cmpDue, c.step with
  | some (c0, c1), some (_, d) => (s.setPos n { c with cmpDue := none }).posChanged n 0 c0 c1 d
  | _, _ => s

def execPosCntWrite (ini : Initiator) (n : Fin 8) (val : Word) (s : State) : Res :=
  .next (s.busWrite ini (POS_CNT n.val).addr (fun s => s.posCntWrite n.val val))

def State.posRestart (s : State) (n : Nat) (v : Word) : State :=
  if bitOf 0 v.toNat then (s.put (POS_STATUS_CMPPTR n) 0).put (POS_STATUS_CMPDONE n) 0 else s

def execPosCmpRestart (ini : Initiator) (n : Fin 8) (val : Word) (s : State) : Res :=
  .next (s.busWrite ini (POS_CMPCTRL n.val).addr (fun s => s.posRestart n.val val))

/-- A write of POSn_CFG: enabling starts the decoder from the present levels and forgets speed, filter and frames. -/
def State.posCfgWrite (s : State) (n : Nat) (v : Word) : State :=
  let was := s.is (POS_CFG_EN n)
  let src := s.get (POS_CFG_SRC n)
  let s := s.fieldWrite (POS_CFG n).addr v
  let c := s.posCh n
  let s := if (!was && s.is (POS_CFG_EN n)) || src != s.get (POS_CFG_SRC n) then
      s.setPos n { c with acc := c.sync, la := none, run := false, prev := none, good := 0,
                          frAt := if (s.posRx n).isSome then some s.cyc else none }
    else s
  let s := if !was && s.is (POS_CFG_EN n) then s.posSpeed n none else s
  s.posRefresh n

/-- A write of POSn_STATUS clears flags. -/
def State.posStatusWrite (s : State) (n : Nat) (v : Word) : State := (s.fieldWrite (POS_STATUS n).addr v).posRefresh n

def execPosgLock (ini : Initiator) (val : Word) (s : State) : Res :=
  .next (s.busWrite ini POSG_LOCK.addr (fun s => s.fieldWrite POSG_LOCK.addr (val ||| 1)))

/-! ### Serial frames (R228–R231) -/

/-- A frame's position difference, in (−2^(P−1), 2^(P−1)]. -/
def frameDiff (bits p prev : Nat) : Int :=
  let d := (p + 2 ^ bits - prev % 2 ^ bits) % 2 ^ bits
  if d ≤ 2 ^ (bits - 1) then (d : Int) else (d : Int) - (2 ^ bits : Nat)

/-- Channel n applies a valid frame of position p with a stamp in control cycles. -/
def State.posFrame (s : State) (n bits p stamp : Nat) : State :=
  let c := s.posCh n
  let c0 := s.posCnt n
  let s := s.setPos n { c with prev := some (p, stamp), good := min 2 (c.good + 1), frAt := some s.cyc }
  let s := (s.posLoad n p).put (POS_TSTAMP_TS n) (stamp / 4 * 10)
  let s := match c.prev with
    | none => s
    | some (q, t) =>
      let d := frameDiff bits p q
      let s := s.posChanged n bits c0 (s.posCnt n) d
      let s := if d == 0 then s else s.posDir n (decide (d < 0))
      if 1 ≤ c.good then
        let dt := stamp - t
        let m := 8 * d.natAbs * 400000000 / dt
        if d == 0 then s.posSpeed n (some 0)
        else if dt == 0 || decide (2 ^ 30 ≤ m) then (s.posSpeed n (some s.freeNat)).useFree
        else s.posSpeed n (some m)
      else s
  s.posRefresh n

/-- Channel n counts a failed frame. -/
def State.posBadFrame (s : State) (n : Nat) : State :=
  ((s.inc (POS_CNTS1_FRERR_CNT n)).setPos n { s.posCh n with good := 0 }).posSpeed n none

/-- A receiver's frame reaches every enabled channel that selects it. -/
def State.rxFrame (s : State) (rx : Nat) (lost ok : Bool) (bits p stamp : Nat) : State :=
  (List.range 8).foldl (fun s n =>
    if s.is (POS_CFG_EN n) && s.posRx n == some rx then
      if lost then s.inc (POS_CNTS1_FROVR_CNT n)
      else if ok then s.posFrame n bits p stamp else s.posBadFrame n
    else s) s

/-- CRC-4 of SAE J2716 over data nibbles, seed 5. PRESUMED from that standard. -/
def sentTable (i : Nat) : Nat := nth [0, 13, 7, 10, 14, 3, 9, 4, 1, 12, 6, 11, 15, 2, 8, 5] i 0

def sentCrc (legacy : Bool) (l : List Nat) : Nat :=
  let c := l.foldl (fun c n => sentTable c ^^^ n) 5
  if legacy then c else sentTable c

/-- Bits of nibbles, most significant first. -/
def nibNat (l : List Nat) : Nat := l.foldl (fun a b => a * 16 + b) 0

/-- A frame's position of b bits, from the first of its w data bits v; where it has fewer, the spec states none: it is a free
value. -/
def State.rxPos (s : State) (b w v : Nat) : Nat × State :=
  if b ≤ w then (v / 2 ^ (w - b), s) else (s.freeNat % 2 ^ b, s.useFree)

/-- A SENT frame (R230): cal is its calibration pulse in control cycles, stamp the cycle of its start. -/
def State.sentFrame (s : State) (i stamp cal status : Nat) (data : List Nat) (crc : Nat) (pause lost : Bool) : State :=
  if s.ticking && s.is (SENT_CFG_EN i) then
    let nib := s.get (SENT_CFG_NIB i)
    let nib := if nib == 0 || nib == 7 then 6 else nib
    let nominal := 2240 * max 30 (min 900 (s.get (SENT_CFG_TICK i)))
    let prev := nth s.pos.cal i none
    let calOk := decide (4 * cal ≤ 5 * nominal) && decide (3 * nominal ≤ 4 * cal)
    let succOk := !s.is (SENT_CFG_SUCCHK i) || (match prev with
      | some p => decide (64 * ((cal : Int) - p).natAbs ≤ p)
      | none => true)
    let ok := calOk && succOk && data.length == nib && (s.is (SENT_CFG_PAUSE i) || !pause)
      && sentCrc (s.is (SENT_CFG_CRCLEG i)) data == crc
    let bits := max 1 (min 24 (s.get (SENT_CFG_POSBITS i)))
    let r := s.rxPos bits (4 * nib) (nibNat data)
    let p := r.1
    let s := r.2
    let s := s.setPosBlk { s.pos with cal := s.pos.cal.set i (some cal) }
    let s := (s.put (SENT_LAST_STAT i) status).put (SENT_LAST_DATA i) (nibNat data)
    s.rxFrame i lost ok bits p stamp
  else s

def execSentFrame (i : Fin 4) (stamp cal : Nat) (status : BitVec 4) (data : List (BitVec 4)) (crc : BitVec 4)
    (pause lost : Bool) (s : State) : Res :=
  .next (s.sentFrame i.val stamp cal status.toNat (data.map (fun d => d.toNat)) crc.toNat pause lost)

def State.ssiOf (s : State) (i : Nat) : SsiRx := nth s.pos.ssi i ⟨none, none⟩
def State.setSsi (s : State) (i : Nat) (r : SsiRx) : State := s.setPosBlk { s.pos with ssi := s.pos.ssi.set i r }

/-- A trigger starts a frame, or is ignored during one and its pause (R231). -/
def State.ssiTrigger (s : State) (i ev : Nat) : State :=
  let isEvent := decide (ev ≤ 0x87)
  if s.ticking && s.is (SSI_CFG_EN i) && isEvent && s.get (SSI_CFG_TRIG i) == ev then
    let r := s.ssiOf i
    let pause := match r.ended with
      | some t => decide (s.cyc < t + 400 * s.get (SSI_CFG_MONO i))
      | none => false
    if r.began.isSome || pause then s.inc (SSI_STAT_TRGMISS i)
    else s.setSsi i { r with began := some s.cyc }
  else s

def execSsiTrigger (i : Fin 2) (ev : Fin 256) (s : State) : Res := .next (s.ssiTrigger i.val ev.val)

/-- Binary from Gray code: each bit is the parity of the bits from it up. -/
def fromGray : Nat → Nat → Nat
  | 0, g => g
  | n + 1, g => fromGray n g ^^^ (g / 2 ^ (n + 1))

def evenParity : Nat → Nat → Bool
  | 0, _ => false
  | n + 1, x => (x % 2 == 1) != evenParity n (x / 2)

/-- A frame's bits have been clocked in (R231). -/
def State.ssiFrame (s : State) (i bits : Nat) (lost : Bool) : State :=
  let r := s.ssiOf i
  match r.began with
  | some t =>
    let len := max 7 (s.get (SSI_CFG_LEN i)) + 1
    let div := max 19 (min 1999 (s.get (SSI_DIV_DIV i)))
    if s.ticking && decide (t + len * 2 * (div + 1) ≤ s.cyc) then
      let s := s.setSsi i ⟨none, some s.cyc⟩
      let raw := bits % 2 ^ len
      let par := s.is (SSI_CFG_PARITY i)
      let ok := !par || !evenParity len raw
      let w := if par then len - 1 else len
      let v := if par then raw / 2 else raw
      let v := if s.is (SSI_CFG_GRAY i) then fromGray w v else v
      let pb := max 1 (s.get (SSI_CFG_POSBITS i))
      let r := s.rxPos pb w v
      r.2.rxFrame (4 + i) lost ok pb r.1 t
    else s
  | none => s

def execSsiFrame (i : Fin 2) (bits : BitVec 32) (lost : Bool) (s : State) : Res := .next (s.ssiFrame i.val bits.toNat lost)

/-- No valid frame has come for FRTMO × 10 µs (R229). -/
def State.posFrameTimeout (s : State) (n : Nat) : State :=
  match (s.posCh n).frAt with
  | some t =>
    if s.ticking && s.is (POS_CFG_EN n) && (s.posRx n).isSome && decide (t + 4000 * max 1 (s.get (POS_TMO_FRTMO n)) ≤ s.cyc) then
      let s := s.setPos n { s.posCh n with frAt := none }
      (((s.put (POS_STATUS_LOSS n) 1).log 8 n 0x10).posIrq n (POS_IEN_LOSS n) 0x10).posRefresh n
    else s
  | none => s

def execPosFrameTimeout (n : Fin 8) (s : State) : Res := .next (s.posFrameTimeout n.val)

/-- What channel n does of itself in the present cycle. -/
def State.posDue (s : State) (n : Nat) : State :=
  ((((s.posTminExpiry n).posEdgeCompare n).pcmpEnd n).posStandstill n).posFrameTimeout n

/-! ### Resolver channels (R235–R237) -/

def State.resN (s : State) (n : Nat) : Nat := max 500 (min 1250 (s.get (RES_CFG_DIV n)))

/-- Σ (x_k − 0x2000) × sin(2π(k − PHASE)/N), in units of 2^−60, oldest sample first. -/
def demodulate (big ph : Nat) : Nat → List Nat → Int
  | _, [] => 0
  | k, x :: t => ((x : Int) - 0x2000) * sinTurn false ((k + big - ph) % big * 2 ^ 32 / big) + demodulate big ph (k + 1) t

def State.resRefresh (s : State) (n : Nat) : State :=
  s.putB (RES_STATUS_PVALID n) (s.is (RES_CFG_EN n) && !s.is (RES_STATUS_LOS n) && !s.is (RES_STATUS_DOS n)
    && !s.is (RES_STATUS_LOT n) && decide (16 ≤ (nth s.pos.res n ResCh.idle).periods))

/-- A fault of a period sets its bit, logs and interrupts. -/
def State.resFault (s : State) (n : Nat) (f : Fld) (typ : Nat) (c : Bool) : State :=
  if c then ((s.put f 1).log 8 (8 + n) typ).irq .sc (0x40402000 + n * 0x100) typ else s

/-- The angle error exceeds T/4,096 turn (T below 2,048): seen from θ, the vector (C, S) lies outside ±T. A zero vector has
no angle, and the outcome is left open. -/
def State.resLot (s : State) (c sn : Int) (theta t : Nat) : Bool :=
  if c == 0 && sn == 0 then s.freeBool
  else
    let ct := sinTurn true theta
    let st := sinTurn false theta
    let x := c * ct + sn * st
    let y := sn * ct - c * st
    let k := sinTurn true (t * 2 ^ 20)
    let r2 := x * x + y * y
    if 2048 ≤ t then false
    else if 0 ≤ k then decide (x < 0) || decide (x * x * 2 ^ 120 < r2 * (k * k))
    else decide (x < 0) && decide (r2 * (k * k) < x * x * 2 ^ 120)

/-- An excitation period ends: amplitude, angle, speed and the faults. exc tells that the current limit acted. The loop's
arithmetic is not given, so the new angle and speed are left open. -/
def State.resUpdate (s : State) (n : Nat) (exc : Bool) : State :=
  let r := nth s.pos.res n ResCh.idle
  let big := s.resN n
  if s.ticking && s.is (RES_CFG_EN n) && decide (big ≤ r.s.length) && decide (big ≤ r.c.length) then
    let ph := min (big - 1) (s.get (RES_EXC_PHASE n))
    let sn := demodulate big ph 0 (r.s.reverse.take big)
    let cs := demodulate big ph 0 (r.c.reverse.take big)
    let q := (4 * (sn * sn + cs * cs)).toNat / (big * big * 2 ^ 120)
    let root := sqrtFrom q 16 0
    let a := min 0x3FFF (root + b2n (s.freeBool && root * root * big * big * 2 ^ 120 != (4 * (sn * sn + cs * cs)).toNat))
    let s := s.useFree
    let lot := s.resLot cs sn (s.get (RES_ANGLE_THETA n)) (s.get (RES_TRK_TRKMAX n))
    let s := s.useFree
    let s := s.put (RES_AMP_A n) a
    let s := (s.put (RES_ANGLE_THETA n) s.freeNat).useFree
    let s := (s.put (RES_SPD_OMEGA n) s.freeNat).useFree
    let r' : ResCh := ⟨r.s.take (r.s.length - big), r.c.take (r.c.length - big), false, min 16 (r.periods + 1)⟩
    let s := s.setPosBlk { s.pos with res := s.pos.res.set n r' }
    let s := s.log 8 (8 + n) 0x03
    let s := s.resFault n (RES_STATUS_LOS n) 0x20 (decide (a < s.get (RES_LIM_AMPLO n)))
    let s := s.resFault n (RES_STATUS_DOS n) 0x21 (decide (s.get (RES_LIM_AMPHI n) < a) || r.ovr)
    let s := s.resFault n (RES_STATUS_LOT n) 0x22 lot
    let s := s.resFault n (RES_STATUS_EXCFLT n) 0x23 exc
    s.resRefresh n
  else s

def execResPeriodUpdate (n : Fin 2) (exc : Bool) (s : State) : Res := .next (s.resUpdate n.val exc)

/-- A write of RESn_CFG: enabling starts a new run of the tracking loop. -/
def State.resCfgWrite (s : State) (n : Nat) (v : Word) : State :=
  let was := s.is (RES_CFG_EN n)
  let s := s.fieldWrite (RES_CFG n).addr v
  let s := if !was && s.is (RES_CFG_EN n) then s.setPosBlk { s.pos with res := s.pos.res.set n ResCh.idle } else s
  s.resRefresh n

def State.resStatusWrite (s : State) (n : Nat) (v : Word) : State := (s.fieldWrite (RES_STATUS n).addr v).resRefresh n

end Sys2Proof.Machine
end

