-- ==== Sys2Proof/Machine/CanOps.lean ====
section
/-! DEFINITION. The CAN controllers' areas of the message RAM, receive FIFOs, transmit buffers and DMA windows, and the
application FIFOs of Ethernet (R403–R411, R418). -/

namespace Sys2Proof.Machine

def State.canOf (s : State) (n : Nat) : Can := nth s.can n Can.idle
def State.setCan (s : State) (n : Nat) (c : Can) : State := s.setCans (s.can.set n c)

/-- Set a flag of CANn_IFLG; an enabled one interrupts. -/
def State.canFlag (s : State) (n bit : Nat) : State :=
  let s := s.wr (CAN_IFLG n) (BitVec.ofNat 32 (putBit bit (s.rd (CAN_IFLG n)).toNat true))
  s.irqIf (s.bit (CAN_IEN_EN n) bit) .sc (0x60000000 + n * 0x1000) bit

/-! ### The area (R404) -/

def State.canCap (s : State) (n : Nat) : Nat := nth [8, 64, 512, 2048] (s.get (CAN_RAM_ESZ n)) 8
def State.canStride (s : State) (n : Nat) : Nat := nth [64, 128, 576, 2112] (s.get (CAN_RAM_ESZ n)) 64
def State.canNtx (s : State) (n : Nat) : Nat := min 28 (s.get (CAN_RAM_NTX n))
def State.canNf (s : State) (n k : Nat) : Nat := min 64 (s.get (if k == 0 then CAN_RAM_NF0 n else CAN_RAM_NF1 n))
def State.canStart (s : State) (n : Nat) : Nat := 0x60010000 + s.get (CAN_RAM_BASE n) * 64

/-- The elements of controller n's area. -/
def State.canElems (s : State) (n : Nat) : Nat :=
  s.canNtx n + s.canNf n 0 + s.canNf n 1 + (if s.is (KCP_CAN_EN n) then 20 else 0)

def State.canEnd (s : State) (n : Nat) : Nat := s.canStart n + s.canElems n * s.canStride n

/-- Controller n is out of INIT. -/
def State.canEnabled (s : State) (n : Nat) : Bool := !s.is (CAN_CTRL_INIT n)

/-- The area runs past the message RAM or overlaps that of another enabled controller. -/
def State.canBadArea (s : State) (n : Nat) : Bool :=
  decide (0x60020000 < s.canEnd n)
  || (List.range 4).any (fun m => m != n && s.canEnabled m
      && decide (max (s.canStart m) (s.canStart n) < min (s.canEnd m) (s.canEnd n)))

def State.canTxElem (s : State) (n b : Nat) : Nat := s.canStart n + b * s.canStride n
def State.canRxElem (s : State) (n k i : Nat) : Nat :=
  s.canStart n + (s.canNtx n + (if k == 0 then 0 else s.canNf n 0) + i) * s.canStride n

/-- The element of a pending transmit buffer lies at address a (R405). -/
def State.canPendingAt (s : State) (a : Nat) : Option Nat :=
  (List.range 4).find? (fun n => s.canEnabled n && (List.range (s.canNtx n)).any (fun b =>
    s.bit (CAN_TXPEND_PEND n) b && decide (s.canTxElem n b ≤ a) && decide (a < s.canTxElem n b + s.canStride n)))

/-- A write to the message RAM. -/
def State.canRamWrite (s : State) (a : Nat) (v : List Byte) : State :=
  match s.canPendingAt a with
  | some n => s.canFlag n 7
  | none => s.wrBytes a v

/-! ### Transmit buffers (R409–R411) -/

def State.canRes (s : State) (n b : Nat) : Nat := bitsOf (4 * (b % 8) + 3) (4 * (b % 8)) (s.rd (CAN_TXRES n (b / 8))).toNat

/-- A buffer's result field; a change sets IFLG.TXRES. -/
def State.canSetRes (s : State) (n b v : Nat) : State :=
  if s.canRes n b == v then s
  else
    let r := CAN_TXRES n (b / 8)
    (s.wr r (BitVec.ofNat 32 (putBits (4 * (b % 8) + 3) (4 * (b % 8)) (s.rd r).toNat v))).canFlag n 1

/-- A buffer ends with a result. -/
def State.canEndBuf (s : State) (n b v : Nat) : State :=
  let c := s.canOf n
  let s := s.setCan n { c with order := c.order.filter (fun x => x != b), late := putBit b c.late false }
  (s.putFldBit (CAN_TXPEND_PEND n) b false).canSetRes n b v

/-- Every pending buffer ends with a result. -/
def State.canEndAll (s : State) (n v : Nat) : State :=
  (setBits 28 (s.get (CAN_TXPEND_PEND n))).foldl (fun s b => s.canEndBuf n b v) s

/-- Buffer b's priority: a base identifier counts as its value × 2^18. -/
def State.canPrio (s : State) (n b : Nat) : Nat :=
  let w := (s.rdMem32 (s.canTxElem n b)).toNat
  if bitOf 29 w then w % 2 ^ 29 else w % 2 ^ 11 * 2 ^ 18

/-- The buffer offered next for arbitration (R409); 28 is the time master's. -/
def State.canOffer (s : State) (n : Nat) : Option Nat :=
  if s.canTm.due.isSome && s.is CANG_TMCFG_EN && s.get CANG_TMCFG_BUS == n then some 28
  else if s.is (CAN_CTRL_TXMODE n) then (s.canOf n).order.head?
  else
    (setBits 28 (s.get (CAN_TXPEND_PEND n))).foldl (fun best b =>
      match best with
      | some x => if s.canPrio n b < s.canPrio n x then some b else some x
      | none => some b) none

/-- The controller can send: on the bus, in normal operation and not bus-off. -/
def State.canSends (s : State) (n : Nat) : Bool :=
  let c := s.canOf n
  s.isOn 13 && c.live == 2 && c.mode == 0 && decide (s.get (CAN_ECR_STATE n) < 2)

/-- The start of frame of the buffer offered has been sent. -/
def State.canSof (s : State) (n : Nat) (sof : Bool) : State :=
  let c := s.canOf n
  if sof && c.att == none && s.canSends n then s.setCan n { c with att := s.canOffer n } else s

/-- Buffer b is requested. -/
def State.canRequest (s : State) (n b : Nat) : State :=
  if s.canNtx n ≤ b || s.bit (CAN_TXPEND_PEND n) b then s
  else
    let c := s.canOf n
    ((s.setCan n { c with order := c.order ++ [b] }).putFldBit (CAN_TXPEND_PEND n) b true).canSetRes n b 0

def State.canTxReq (s : State) (n : Nat) (v : Word) (sof : Bool) : State :=
  (setBits 28 v.toNat).foldl (fun s b => s.canRequest n b) (s.canSof n sof)

/-- A cancel: late where the start of frame of the buffer has been sent. -/
def State.canCancel (s : State) (n b : Nat) : State :=
  let c := s.canOf n
  if !s.bit (CAN_TXPEND_PEND n) b then s
  else if c.att == some b then
    ((s.setCan n { c with late := putBit b c.late true }).inc (CAN_CNT2_LATECNCL_CNT n)).canFlag n 4
  else s.canEndBuf n b 3

def State.canTxCncl (s : State) (n : Nat) (v : Word) (sof : Bool) : State :=
  (setBits 28 v.toNat).foldl (fun s b => s.canCancel n b) (s.canSof n sof)

/-! ### Receive FIFOs (R407, R408) -/

def incMod (i m : Nat) : Nat := if m ≤ i + 1 then 0 else i + 1

/-- GET of FIFO k advances past its oldest element. -/
def State.canPop (s : State) (n k : Nat) : State :=
  let s := s.put (CAN_RXF_GET n k) (incMod (s.get (CAN_RXF_GET n k)) (s.canNf n k))
  let s := s.put (CAN_RXF_FILL n k) (s.get (CAN_RXF_FILL n k) - 1)
  if s.get (CAN_CTRL_DMAF n) == k then s.setCan n { s.canOf n with rxw := 0 } else s

/-- A write of GET frees the elements before it; a value outside the filled range is ignored. -/
def State.canGetWrite (s : State) (n k g : Nat) : State :=
  let nf := s.canNf n k
  let d := (g + nf - s.get (CAN_RXF_GET n k)) % max 1 nf
  if g < nf ∧ d ≤ s.get (CAN_RXF_FILL n k) then
    (List.range d).foldl (fun s _ => s.canPop n k) s
  else s

/-- A write of CANn_RXFk. -/
def State.canRxfWrite (s : State) (n k : Nat) (v : Word) : State :=
  let get := s.get (CAN_RXF_GET n k)
  let s := (s.fieldWrite (CAN_RXF n k).addr v).put (CAN_RXF_GET n k) get
  s.canGetWrite n k (bitsOf 5 0 v.toNat)

/-- The FIFO that RXDMA serves holds an element and requests are enabled. -/
def State.canRxAsks (s : State) (n : Nat) : Bool :=
  s.isOn 13 && s.is (CAN_CTRL_DMAEN n) && s.get (CAN_RXF_FILL n (s.get (CAN_CTRL_DMAF n))) != 0

/-- A read of RXDMA: the next word of the oldest element; GET advances after its last one. With nothing to read the spec gives
no value. -/
def State.canRxRead (s : State) (n : Nat) : Word × State :=
  if s.canRxAsks n then
    let k := s.get (CAN_CTRL_DMAF n)
    let c := s.canOf n
    let w := s.rdMem32 (s.canRxElem n k (s.get (CAN_RXF_GET n k)) + 4 * c.rxw)
    if s.canStride n ≤ 4 * (c.rxw + 1) then (w, (s.setCan n { c with rxw := 0 }).canPop n k)
    else (w, s.setCan n { c with rxw := c.rxw + 1 })
  else (BitVec.ofNat 32 s.freeNat, s.useFree)

/-- The transmit buffers that are free. -/
def State.canFree (s : State) (n : Nat) : List Nat :=
  (List.range (s.canNtx n)).filter (fun b => !s.bit (CAN_TXPEND_PEND n) b)

def State.canTxAsks (s : State) (n : Nat) : Bool :=
  s.isOn 13 && s.is (CAN_CTRL_DMAEN n) && s.is (CAN_CTRL_TXMODE n) && !(s.canFree n).isEmpty

/-- A write to TXDMA: the next word of the buffer being filled, which is requested when full; the spec does not say which free
buffer is taken. -/
def State.canTxWrite (s : State) (n : Nat) (v : Word) (sof : Bool) : State :=
  let s := s.canSof n sof
  if s.is (CAN_CTRL_TXMODE n) then
    let c := s.canOf n
    let free := s.canFree n
    match (match c.txb with
      | some x => some x
      | none => if free.isEmpty then none else some (nth free (s.freeNat % free.length) 0, 0)) with
    | some (b, w) =>
      let s := (if c.txb.isSome then s else s.useFree).wrMem32 (s.canTxElem n b + 4 * w) v
      if s.canStride n ≤ 4 * (w + 1) then (s.setCan n { c with txb := none }).canRequest n b
      else s.setCan n { c with txb := some (b, w + 1) }
    | none => s
  else s

/-! ### The Ethernet application FIFOs (R418) -/


/-- 64 bytes, or the end of a record, wait. -/
def State.ethRxAsks (s : State) : Bool := s.isOn 13 && !s.eth.rxr.isEmpty

/-- n bytes leave the receive FIFO's oldest records. -/
def takeRecords : Nat → List Nat → List Nat
  | n, r :: t => if r ≤ n then takeRecords (n - r) t else (r - n) :: t
  | _, [] => []

/-- 64 bytes of the transmit FIFO are free. -/
def State.ethTxAsks (s : State) : Bool := s.isOn 13 && decide (s.eth.txq.length + 64 ≤ 16384)

/-- A word enters the transmit FIFO, where it has room. -/
def State.ethTxWrite (s : State) (v : Word) : State :=
  if s.eth.txq.length + 4 ≤ 16384 then s.setEth { s.eth with txq := s.eth.txq ++ leBytes 4 v.toNat } else s

/-- The requests 0x10–0x1F of R343. HSPI's two never assert: the spec gives application software no HSPI data window. -/
def State.portAsks (s : State) (q : Nat) : Bool :=
  if 0x10 ≤ q ∧ q < 0x14 then s.canRxAsks (q - 0x10)
  else if 0x14 ≤ q ∧ q < 0x18 then s.canTxAsks (q - 0x14)
  else if q == 0x18 then s.ethRxAsks
  else if q == 0x1A then s.ethTxAsks
  else false

end Sys2Proof.Machine
end

