-- ==== Sys2Proof/Machine/DmaOps.lean ====
section
/-! DEFINITION. MRAM's block writes and the register side of the DMA channels, their requests and the stream translation unit
(R329, R341–R346). -/

namespace Sys2Proof.Machine

/-! ### MRAM (R329) -/

/-- Block b of MRAM as a read finds it: a read of a block that is being written waits until the write has ended. -/
def State.mramBlock (s : State) (b : Nat) : List Byte :=
  match s.mramW.reverse.find? (fun e => e.1 == b) with
  | some e => e.2
  | none => s.rdBytes b 64

/-- A byte of memory. -/
def State.memByte (s : State) (a : Nat) : Byte :=
  if a < 0x04000000 then nth (s.mramBlock (a / 64 * 64)) (a % 64) 0 else s.rdByte a

def State.memBytes (s : State) (a : Nat) : Nat → List Byte
  | 0 => []
  | n + 1 => s.memByte a :: s.memBytes (a + 1) n

/-- Bytes from offset o of a block are replaced. -/
def spliceAt (o : Nat) (v old : List Byte) : List Byte := old.take o ++ v ++ old.drop (o + v.length)

/-- A store to MRAM is read, merged and rewritten in whole blocks; fuel bounds their number. -/
def State.mramStore (s : State) (a : Nat) (v : List Byte) : Nat → State
  | 0 => s
  | fuel + 1 =>
    if v.isEmpty then s
    else
      let b := a / 64 * 64
      let n := 64 - a % 64
      let s := s.setMramW (s.mramW ++ [(b, spliceAt (a % 64) (v.take n) (s.mramBlock b))])
      s.mramStore (b + 64) (v.drop n) fuel

/-- A store of bytes to memory. -/
def State.memStore (s : State) (a : Nat) (v : List Byte) : State :=
  if a < 0x04000000 then s.mramStore a v (v.length + 1) else s.wrBytes a v

/-! ### The CE memories (R26) -/

/-- The CE whose memory holds address a. -/
def tcmCe (a : Nat) : Nat := (a - 0x30000000) / 0x40000

/-- The words that CE n's stores wrote in the present cycle, with their values before. -/
def State.ceWrote (s : State) (n : Nat) : List (Nat × Word) :=
  if (s.ceOf n).stored.1 == s.cyc then (s.ceOf n).stored.2 else []

/-- The words of CE n's memory that fabric writes reached in the present cycle. -/
def State.fabWrote (s : State) (n : Nat) : List Nat :=
  if (s.ceOf n).fabric.1 == s.cyc then (s.ceOf n).fabric.2 else []

/-- A store to the word at w of a CE memory. Where the CE and the fabric write one word in one cycle the CE's value stays, and
the lost fabric write is counted. -/
def State.tcmPut (s : State) (i : Initiator) (w a : Nat) (v : List Byte) : State :=
  let n := tcmCe w
  if notCe i then
    if (s.ceWrote n).any (fun e => e.1 == w) then s.inc CEC_TCMCOLL_CNT_COUNT
    else (s.setCe n { s.ceOf n with fabric := (s.cyc, w :: s.fabWrote n) }).wrBytes a v
  else
    let t := s.setCe n { s.ceOf n with stored := (s.cyc, (w, s.rdMem32 w) :: s.ceWrote n) }
    (if (s.fabWrote n).contains w then t.inc CEC_TCMCOLL_CNT_COUNT else t).wrBytes a v

/-- A store of bytes to a CE memory, word by word; fuel bounds their number. -/
def State.tcmStore (s : State) (i : Initiator) (a : Nat) (v : List Byte) : Nat → State
  | 0 => s
  | fuel + 1 =>
    let k := 4 - a % 4
    if v.isEmpty then s
    else (s.tcmPut i (a / 4 * 4) a (v.take k)).tcmStore i (a + k) (v.drop k) fuel

/-- A byte of a CE memory as the fabric reads it: the value before the CE's stores of the present cycle. -/
def State.tcmByte (s : State) (a : Nat) : Byte :=
  match (s.ceWrote (tcmCe a)).reverse.find? (fun e => e.1 == a / 4 * 4) with
  | some e => nth (leBytes 4 e.2.toNat) (a % 4) 0
  | none => s.rdByte a

def State.tcmBytes (s : State) (a : Nat) : Nat → List Byte
  | 0 => []
  | n + 1 => s.tcmByte a :: s.tcmBytes (a + 1) n

/-- The oldest block write in progress completes. -/
def execMramBlockWrite (s : State) : Res :=
  .next (match s.mramW with
    | e :: t => (s.wrBytes e.1 e.2).setMramW t
    | [] => s)

/-! ### Stream translation (R341) -/

/-- The physical address of a stream address for a channel's SID, or none: a translation fault. -/
def State.translate (s : State) (sid a : Nat) (write : Bool) : Option Nat :=
  if s.is STU_CTRL_BYPASS then some a
  else
    match (List.range 64).find? (fun e => s.is (STU_ATTR_VALID e) && s.get (STU_MAP_VPAGE e) == a / 65536
        && s.bit (STU_ATTR_SIDMASK e) sid) with
    | some e =>
      if s.is (if write then STU_ATTR_W e else STU_ATTR_R e) then some (s.get (STU_MAP_PPAGE e) * 65536 + a % 65536) else none
    | none => none

def execStuLock (ini : Initiator) (val : Word) (s : State) : Res :=
  .next (s.busWrite ini STU_CTRL.addr (fun s => s.fieldWrite STU_CTRL.addr (val ||| 0x80000000)))

/-! ### Channels (R342–R346) -/

def State.dmaCh (s : State) (c : Nat) : DmaCh := nth s.dma.ch c ⟨0, false, false⟩
def State.setDmaCh (s : State) (c : Nat) (x : DmaCh) : State := s.setDma { s.dma with ch := s.dma.ch.set c x }
def State.dmaState (s : State) (c : Nat) : Nat := s.get (DMA_STAT_STATE c)

/-- An interrupt of channel c goes to its DEST thread; a Paired or Voted core takes it at copy A (R311, R345). -/
def State.dmaIrq (s : State) (c ev : Nat) : State :=
  let d := s.get (DMA_CFG_DEST c)
  let m := s.get (SCC_MODE_MODE (d / 3))
  let t := if m == 1 || m == 2 then d / 3 * 3 else d
  if d < 12 then s.irq (.thread t) (0x40600000 + c * 0x40) ev else s

/-- The transfer completes. -/
def State.dmaComplete (s : State) (c : Nat) : State :=
  let s := (s.put (DMA_STAT_STATE c) 4).put (DMA_STAT_DONEF c) 1
  let s := s.setDmaCh c ⟨0, false, false⟩
  if s.is (DMA_CTRL_IEN_DONE c) then s.dmaIrq c 0 else s

/-- A fault of channel c: ERR, FADDR, the level-6 record and the interrupt (R336, R348). -/
def State.dmaFault (s : State) (c err typ a : Nat) : State :=
  let s := ((s.put (DMA_STAT_STATE c) 5).put (DMA_STAT_ERR c) err).put (DMA_STAT_ERRF c) 1
  let s := s.put (DMA_FADDR_FADDR c) a
  let s := s.setDmaCh c ⟨0, false, false⟩
  let s := s.log 6 (64 + c) typ (leBytes 4 a ++ leBytes 4 (s.get (DMA_DONE_DONE c)) ++ [BitVec.ofNat 8 err])
  if s.is (DMA_CTRL_IEN_ERR c) then s.dmaIrq c 1 else s

/-- The source, destination and length break the alignment rules of R342. -/
def State.dmaIllegal (s : State) (c : Nat) : Bool :=
  let src := s.get (DMA_SRC_SRC c)
  let dst := s.get (DMA_DST_DST c)
  src % 4 != 0 || dst % 4 != 0 || s.get (DMA_LEN_LEN c) % 4 != 0
  || (s.is (DMA_CFG_SRCINC c) && s.is (DMA_CFG_DSTINC c) && src % 64 != dst % 64)

/-- The engine lets go of a channel. -/
def State.dmaRelease (s : State) (c : Nat) : State :=
  if s.dma.cur == some c then s.setDma { s.dma with cur := none } else s

/-- The waiting channel c of a working context with nothing left completes at once (R342). -/
def State.dmaWait (s : State) (c : Nat) : State :=
  let s := (s.put (DMA_STAT_STATE c) 1).setDmaCh c ⟨0, false, false⟩
  if s.get (DMA_REMAIN_REMAIN c) == 0 then s.dmaComplete c else s

/-- START (R342, R345); fw: the writer is firmware, to which channels 24–31 belong. -/
def State.dmaStart (s : State) (c : Nat) (fw : Bool) : State :=
  let s := s.dmaRelease c
  let s := ((s.wr (DMA_CURSRC c) (s.rd (DMA_SRC c))).wr (DMA_CURDST c) (s.rd (DMA_DST c))).put (DMA_REMAIN_REMAIN c) (s.get (DMA_LEN_LEN c))
  let s := (s.put (DMA_DONE_DONE c) 0).put (DMA_STAT_ERR c) 0
  if s.dmaIllegal c || (decide (24 ≤ c) && !fw) then
    let s := ((s.put (DMA_STAT_STATE c) 5).put (DMA_STAT_ERR c) 8).put (DMA_STAT_ERRF c) 1
    let s := (s.setDmaCh c ⟨0, false, false⟩).log 6 (64 + c) 0x27 (leBytes 8 0 ++ [8])
    if s.is (DMA_CTRL_IEN_ERR c) then s.dmaIrq c 1 else s
  else s.dmaWait c

def State.dmaResume (s : State) (c : Nat) : State :=
  if s.dmaState c == 5 || s.dmaState c == 6 then ((s.put (DMA_STAT_ERR c) 0).put (DMA_STAT_LOSTRD c) 0).dmaWait c else s

def State.dmaAbort (s : State) (c : Nat) : State :=
  let st := s.dmaState c
  if st == 2 then s.setDmaCh c { s.dmaCh c with abort := true }
  else if st == 1 || st == 3 then (s.put (DMA_STAT_STATE c) 6).setDmaCh c ⟨0, false, false⟩
  else s

/-- The request of channel c is asserted (R343); an event request is one that has come. -/
def State.dmaAsks (s : State) (c : Nat) : Bool :=
  let q := s.get (DMA_CFG_REQSEL c)
  if q == 0 then true
  else if q == 1 then decide (4 ≤ s.conv.rq.length)
  else if 2 ≤ q ∧ q ≤ 5 then decide (32 ≤ (nth s.conv.caps (q - 2) []).length)
  else if q == 0x3F then (s.dmaCh c).owed
  else s.portAsks q

/-- The channels that want the engine: in the middle of a burst or with an asserted request. -/
def State.dmaWants (s : State) (c : Nat) : Bool :=
  (s.dmaState c == 1 || s.dmaState c == 2 || s.dmaState c == 3) && (decide (0 < (s.dmaCh c).left) || s.dmaAsks c)

/-- The requesting channel of highest PRIO; among equals the next in ascending order after the channel last served (R344). -/
def State.dmaNext (s : State) : Option Nat :=
  let last := s.get DMAG_STAT_ACT
  (List.range 32).foldl (fun best i =>
    let c := (last + 1 + i) % 32
    if s.dmaWants c then
      match best with
      | some b => if s.get (DMA_CFG_PRIO b) < s.get (DMA_CFG_PRIO c) then some c else some b
      | none => some c
    else best) none

/-- The engine goes to channel c; a new burst begins where none is running. -/
def State.dmaGrant (s : State) (c : Nat) : State :=
  let x := s.dmaCh c
  let x := if x.left == 0 then { x with left := s.get (DMA_CFG_BURST c) + 1, owed := false } else x
  let s := ((s.setDmaCh c x).put (DMA_STAT_STATE c) 2).put DMAG_STAT_ACT c
  let s := s.put DMAG_STAT_BUSY 1
  s.setDma { s.dma with cur := some c }

/-- Arbitration with the engine free. -/
def State.dmaArbitrate (s : State) : State :=
  match s.dmaNext with
  | some c => s.dmaGrant c
  | none =>
    let s := s.put DMAG_STAT_BUSY 0
    s.setDma { s.dma with cur := none }

/-- The engine takes a requester when it is free. -/
def State.dmaKick (s : State) : State := if s.dma.cur == none then s.dmaArbitrate else s

/-- The bits of CTRL (R345). -/
def State.dmaCtrl (s : State) (c : Nat) (fw : Bool) (v : Word) : State :=
  let s := s.fieldWrite (DMA_CTRL c).addr v
  let s := if v.getLsbD 0 then s.dmaStart c fw else s
  let s := if v.getLsbD 1 then s.dmaResume c else s
  let s := if v.getLsbD 2 then s.dmaAbort c else s
  s.dmaKick

def firmware : Initiator → Bool
  | .kp => true
  | .hk => true
  | .se => true
  | _ => false

/-- A write to a register of the DMA window: SC writes to channels 24–31 are ignored and counted (R346), and configuration
writes to a channel that waits or runs are ignored (R345). -/
def State.dmaWrite (s : State) (ini : Initiator) (a : Nat) (v : Word) : State :=
  let o := a - 0x40600000
  if o < 0x800 then
    let c := o / 0x40
    let r := o % 0x40
    if 24 ≤ c ∧ isSc ini then s.inc DMAG_STAT_FWIGN
    else if r == 0x10 then s.dmaCtrl c (firmware ini) v
    else if r < 0x10 then
      (let st := s.dmaState c
       if st == 1 || st == 2 || st == 3 then s.put (DMA_STAT_CFGIGN c) 1 else s.fieldWrite a v)
    else s.fieldWrite a v
  else s.fieldWrite a v

def execDmaStart (ini : Initiator) (c : Fin 32) (val : Word) (s : State) : Res :=
  .next (s.busWrite ini (DMA_CTRL c.val).addr (fun s => s.dmaWrite ini (DMA_CTRL c.val).addr (val ||| 1)))

def execDmaResume (ini : Initiator) (c : Fin 32) (val : Word) (s : State) : Res :=
  .next (s.busWrite ini (DMA_CTRL c.val).addr (fun s => s.dmaWrite ini (DMA_CTRL c.val).addr (val ||| 2)))

def execDmaAbort (ini : Initiator) (c : Fin 32) (val : Word) (s : State) : Res :=
  .next (s.busWrite ini (DMA_CTRL c.val).addr (fun s => s.dmaWrite ini (DMA_CTRL c.val).addr (val ||| 4)))

/-- A request or event of channel c reaches the arbiter; an event while its burst is not yet complete is counted (R343). -/
def State.dmaRequest (s : State) (c : Nat) : State :=
  let st := s.dmaState c
  if s.get (DMA_CFG_REQSEL c) == 0x3F then
    if st == 1 || st == 2 || st == 3 then
      let x := s.dmaCh c
      if x.owed || decide (0 < x.left) then s.inc (DMA_STAT_EVMISS c)
      else (s.setDmaCh c { x with owed := true }).dmaKick
    else s
  else s.dmaKick

def execDmaRequest (c : Fin 32) (s : State) : Res := .next (if s.isOn 4 && s.ticking then s.dmaRequest c.val else s)

end Sys2Proof.Machine
end

