-- ==== Sys2Proof/Machine/Thermal.lean ====
section
/-! DEFINITION. The housekeeping round: its channels and their checks, the threshold readback, the sensors, the throttle step
and thermal shutdown (R123, R124, R150, R175–R177, R192, R477–R485). -/

namespace Sys2Proof.Machine


/-- The sensors enabled; TS18 and TS19 have no chiplet on VX8800-SA (R477). -/
def State.thmEn (s : State) : Nat :=
  let e := s.get THM_EN_EN
  if s.order == .sa then putBits 19 18 e 0 else e

/-- A sensor's temperature in 0.1 °C from the results of its two paths, rounded toward zero (R478). -/
def State.temperature (s : State) (j a b : Nat) : Int :=
  let d : Int := (a : Int) + (b : Int) - 65536
  if j < 24 then (250 * 256 + (d - 2 * Config.sensorTrim j) * 10).tdiv 256
  else
    let ofs := signed 16 (s.get (THM_TXCFG_OFS (j - 24)))
    let gain := signed 16 (s.get (THM_TXCFG_GAIN (j - 24)))
    (ofs * 3200 + d * gain).tdiv 3200

def State.tshut (s : State) : Nat := max 152 (min 165 (s.get THM_CFG_TSHUT))
def State.tstart (s : State) : Nat := max 100 (min 150 (s.get THM_CFG_TSTART))

/-- Sensor j's reading of this round is invalid (R479). -/
def State.readingBad (s : State) (j : Nat) : Bool := bitOf j s.hk.mism || bitOf j s.hk.ovr || s.hk.stopped

/-- Thermal shutdown is declared, once in a round: the event, Badger's source 0x0D and the latch (R483, R484). -/
def State.thermalDeclare (s : State) (j : Nat) : State :=
  let round := s.hk.chan / 64
  let s := if s.hk.shut == some round then s else (s.log 5 j 0x01).setHk { s.hk with shut := some round }
  if s.sup.latch then s
  else
    let s := s.setSup { s.sup with latch := true, shutAt := some s.now }
    let s := s.put AON_CAUSE_LAST 3
    if s.isOn 2 then s.bSource 0x0D 3 else s

/-- The sensor of channel j takes the temperature of its results; a valid one is compared with TSHUT (R478, R483). The spec
gives no register value for a temperature beyond 16 bits: it is a free value. -/
def State.sensorEnd (s : State) (j a b : Nat) : State :=
  if bitOf j s.thmEn then
    let t := s.temperature j a b
    let fits := decide (-32768 ≤ t) && decide (t ≤ 32767)
    let w := if fits then unsigned 16 t else s.freeNat
    let s := if fits then s else s.useFree
    let s := s.put (THM_T_TEMP j) w
    if !s.readingBad j && decide ((s.tshut : Int) * 10 ≤ t) then s.thermalDeclare j else s
  else s.put (THM_T_TEMP j) 0x8000

/-- The code that HK60–HK62 are expected to read, in quarter codes (R176). -/
def hkExpected (j : Nat) : Option Nat :=
  if j == 60 then some (4 * 0x2000) else if j == 61 then some (4 * 0x3770) else if j == 62 then some (4 * 0x0890) else none

def distance (a b : Nat) : Nat := max a b - min a b

/-- Channel j's results differ by more than DIFF, or from their expected code (R176). -/
def State.hkMismatch (s : State) (j a b : Nat) : Bool :=
  let d := s.get HKR_CFG_DIFF
  decide (d < distance a b)
  || (match hkExpected j with
      | some e => decide (d < distance a e) || decide (d < distance b e)
      | none => false)

/-- The readback of threshold DAC c: a failure holds the comparator tripped where DACFT says so, while it is enabled (R181,
R186, R192). -/
def State.dacReadback (s : State) (c a b : Nat) : State :=
  let m := c / 2
  let low := c % 2 == 1
  let code := s.get (wmTh m low)
  if !bitOf c s.hk.thw && s.isOn 8 && decide (128 * s.get WMG_RBTOL_RBTOL < distance (a + b) (128 * code)) then
    let s := s.putFldBit (WMG_DACFLT_DACFLT (c / 32)) (c % 32) true
    let s := s.log 4 m 0x10 [BitVec.ofNat 8 (b2n low)]
    if s.is (WM_CFG_DACFT m) then
      let s := s.setFox { s.fox with hk := putBit c s.fox.hk true }
      if !s.is (wmEn m low) then s
      else if s.is (wmOut m low) then s.foxComp c true
      else ((s.putB (wmOut m low) true).foxComp c true).wmOnset m low
    else s
  else s

/-- A housekeeping channel ends when the last word of its 16 µs has arrived on both paths (R22, R175–R177). -/
def State.hkChannelEnd (s : State) : State :=
  let c := s.hk.chan
  if s.isOn 7 && s.ticking && decide (s.conv.onAt + 6400 * (c + 1) + 68 ≤ s.now) then
    let j := c % 64
    let own (h : HkSum) : HkSum := if h.chan == c then h else ⟨c, 0, 0, false⟩
    let a := (own s.conv.hkA).sum / 32
    let b := (own s.conv.hkB).sum / 32
    let ovr := (own s.conv.hkA).ovr || (own s.conv.hkB).ovr
    let bad := s.hkMismatch j a b
    let s := (s.put (HKR_VAL_MEANA j) a).put (HKR_VAL_MEANB j) b
    let s := if ovr then s.putFldBit (HKR_OVR_OVR (j / 32)) (j % 32) true else s
    let s := if bad then (s.putFldBit (HKR_MISM_MISM (j / 32)) (j % 32) true).log 9 86 0x20 [BitVec.ofNat 8 j] else s
    let s := s.setHk { s.hk with ovr := putBit j s.hk.ovr (ovr || bitOf j s.hk.ovr),
                                 mism := putBit j s.hk.mism (bad || bitOf j s.hk.mism) }
    let s := if 44 ≤ j ∧ j < 48 then s.dacReadback (24 * (j - 44) + c / 64 % 24) a b else s
    let s := if j < 30 then s.sensorEnd j a b else s
    let s := s.setHk { s.hk with thw := 0, chan := c + 1, ended := s.hk.ended || j == 63 }
    (s.put HKR_STATUS_CHAN ((c + 1) % 64)).put HKR_STATUS_ROUND ((c + 1) / 64)
  else s

def execHkChannelEnd (s : State) : Res := .next s.hkChannelEnd

/-! ### The throttle step (R480–R482) -/

def stepUp (t s : Int) : Nat := if t < s then 0 else min 8 (((t - s) / 20).toNat + 1)
def stepDown (t s : Int) : Nat := stepUp t (s - 30)

/-- What sensor j counts as in TEMP_MAX, where it counts (R479, R480). -/
def State.counts (s : State) (j : Nat) : Option Int :=
  if !bitOf j s.thmEn then none
  else if s.readingBad j then (if s.is THM_CFG_INVPOL then some ((s.tstart : Int) * 10 + 140) else none)
  else some (signed 16 (s.get (THM_T_TEMP j)))

/-- The highest temperature and the lowest sensor that reaches it. -/
def State.hottest (s : State) : Option (Int × Nat) :=
  (List.range 30).foldl (fun m j =>
    match s.counts j, m with
    | some t, some (u, k) => if u < t then some (t, j) else some (u, k)
    | some t, none => some (t, j)
    | none, m => m) none

/-- The step becomes n: its log record and the rise count (R482). -/
def State.stepTo (s : State) (n : Nat) : State :=
  let old := s.get THM_STAT_STEP
  let s := (s.put THM_STAT_STEP n).setHk { s.hk with since := 0 }
  let t := s.get THM_STAT_TEMP_MAX
  let s := (s.log 5 (s.get THM_STAT_MAXSRC) (if old < n then 0x02 else 0x03)
    [BitVec.ofNat 8 n, BitVec.ofNat 8 s.freeNat, BitVec.ofNat 8 t, BitVec.ofNat 8 (t / 256)]).useFree
  if old < n then s.inc THM_CNT_RISE_CNT else s

/-- TEMP_MAX and the step at the end of a round. -/
def State.throttle (s : State) : State :=
  let inval := ofBits 30 (fun j => bitOf j s.thmEn && s.readingBad j)
  let top := s.hottest
  let s := s.put THM_INVAL_INVAL (s.get THM_INVAL_INVAL ||| inval)
  let s := match top with
    | some (t, j) => (s.put THM_STAT_TEMP_MAX (unsigned 16 t)).put THM_STAT_MAXSRC j
    | none => s.put THM_STAT_TEMP_MAX 0x8000
  let t : Int := match top with
    | some (t, _) => t
    | none => -400
  let s := s.setHk { s.hk with since := s.hk.since + 1 }
  let st : Int := (s.tstart : Int) * 10
  let step := s.get THM_STAT_STEP
  if step < stepUp t st then s.stepTo (stepUp t st)
  else if stepDown t st < step ∧ 98 ≤ s.hk.since then s.stepTo (step - 1)
  else s

/-! ### Bias power (R123, R124) -/

/-- A group's limit: its part of AGGLIM; the spec states no rounding, so a part that is no whole number of units is the one
below or the one above, and a sum of no shares leaves it free. -/
def State.groupLimit (s : State) (g : Nat) : State :=
  if s.isOn (9 + g) then
    let sum := (List.range 3).foldl (fun n x => if s.isOn (9 + x) then n + s.get (shareFld x) else n) 0
    let num := s.get GDG_AGG_AGGLIM * s.get (shareFld g)
    let v := if sum == 0 then s.freeNat else if num % sum == 0 then num / sum else num / sum + s.freeNat % 2
    (s.put (limFld g) v).useFree
  else s.put (limFld g) 0

def State.biasLimits (s : State) : State :=
  let s := s.aggLimit
  (List.range 3).foldl (fun s g => s.groupLimit g) s

/-- A regulator's output power in a round, 1 mW units, which the spec does not fix: at most 3.0 W, and 2.0 W once it has given more
for 10 ms within 100 ms (R121). -/
def State.channelPower (s : State) (g : Nat) : State :=
  let c := s.gate g
  let past := c.overAt.filter (fun t => decide (s.now < t + 40000000))
  let p := min (s.freeNat % 4096) (if 10 ≤ past.length then 2000 else 3000)
  let s := s.setGate g { c with overAt := if 2000 < p then past ++ [s.now] else past }
  (s.put (GD_BIASPWR_PWR g) p).useFree

/-- The measured powers of a round, which the spec does not fix, and the groups above 90 % of their limit (R124). -/
def State.biasPowers (s : State) : State :=
  let s := (List.range 3).foldl (fun s g => if s.isOn (9 + g) then (s.put (pwrFld g) s.freeNat).useFree else s.put (pwrFld g) 0) s
  let s := (List.range 42).foldl (fun s g => if s.gatePowered g then s.channelPower g else s.put (GD_BIASPWR_PWR g) 0) s
  let bias := ofBits 3 (fun g => s.isOn (9 + g) && decide (9 * s.get (limFld g) < 10 * s.get (pwrFld g)))
  s.setLedger { s.ledger with bias := bias }

/-- A housekeeping round has ended: HK takes its results. With D7 off the rounds pass by time (R479). -/
def State.hkRoundEnd (s : State) : State :=
  if s.start.kp && s.ticking && (s.hk.ended || (!s.isOn 7 && decide (s.hk.roundAt + 409600 ≤ s.cyc))) then
    let s := s.throttle
    let s := s.biasLimits.biasPowers
    let s := if s.osdLinkHigh then s.osdAbort 2 else s
    s.setHk { s.hk with mism := 0, ovr := 0, stopped := !s.isOn 7, ended := false, roundAt := s.cyc }
  else s

def execHkRoundEnd (s : State) : Res := .next s.hkRoundEnd

/-! ### Shutdown (R484, R485) -/


/-- The domains D13 to D2 go off, deepest dependants first. -/
def State.shutOff (s : State) : State :=
  let s := s.domOff 2
  s.setSup { s.sup with shutAt := none }

/-- The switch-off begins after the declaration by as many microseconds: 2.0 ms, in 1.9–2.1 ms (R484, R486). -/
def State.thermalOff (s : State) (us : Nat) : State :=
  match s.sup.shutAt with
  | some t => if decide (t + 400 * us ≤ s.now) then s.shutOff else s
  | none => s

def execThermalShutdownSwitchoff (s : State) : Res := .next (s.thermalOff 1900)

def execThmLock (ini : Initiator) (val : Word) (s : State) : Res :=
  .next (s.busWrite ini THM_CFG.addr (fun s => s.fieldWrite THM_CFG.addr (val ||| 0x80000000)))

end Sys2Proof.Machine
end

