-- ==== Sys2Proof/Machine/Supply.lean ====
section
/-! DEFINITION. The supply manager: VMAIN, the backup flyback, switch-over, collapse, the domain requests, standby and wake
(R438–R453). -/

namespace Sys2Proof.Machine

/-! ### Inputs and events (R439–R447) -/

/-- A supply event: its level-2 record and its interrupt (R442, R446). -/
def State.supEvent (s : State) (index typ : Nat) (place : Nat := evPlace 2 index typ) : State :=
  (s.log 2 index typ (place := place)).irqIf (s.is SUP_CFG_IEN && s.isOn 4) .sc 0x70000100 typ

/-- Supply collapse: Badger is signalled and D0 records it (R444). -/
def State.collapseDeclare (s : State) : State :=
  if s.sup.collapse then s
  else
    let s := s.supEvent 2 0x06
    let s := (s.setSup { s.sup with collapse := true, collAt := s.now, swo := false }).put SUP_STAT_BKST 0
    let s := s.put AON_CAUSE_LAST 2
    if s.isOn 2 then s.bSource 0x0E 3 else s

/-- The falling threshold VTH of VMAIN and its return threshold, in mV (R439). -/
def State.vmainTh (s : State) : Nat × Nat :=
  let th := s.get SUP_CFG_TH
  if s.is SUP_CFG_NET then (24000 + 500 * min 24 th, 28000 + 500 * min 24 th)
  else (6000 + 250 * min 12 th, 7000 + 250 * min 12 th)

/-- VMAIN at v mV lies below VTH; its accuracy is 3 % (R456). -/
def State.vmainLow (s : State) (v : Nat) : Bool := decide (100 * v < 103 * s.vmainTh.1)

/-- VMAIN at v mV lies above its return threshold, within its accuracy, and below the VOV release level (R439). -/
def State.vmainBack (s : State) (v : Nat) : Bool := decide (97 * s.vmainTh.2 < 100 * v) && decide (v < 61000)

/-- VMAIN is unusable after the 2 µs filter: the flyback takes over where it is READY, and the supply collapses where it is not
(R440, R442, R444). -/
def State.vmainLoss (s : State) (ovlo : Bool) : State :=
  if !s.isOn 1 || s.sup.collapse || (!ovlo && s.get SUP_STAT_BKST == 3 && !s.is SUP_STAT_VMOK) then s
  else
    let s := (s.put SUP_STAT_VMOK 0).supEvent 0 (if ovlo then 0x02 else 0x01)
    let s := if ovlo then s.put SUP_FLT_OVLO 1 else s
    let st := s.get SUP_STAT_BKST
    if st == 2 then (s.put SUP_STAT_BKST 3).setSup { s.sup with swo := true, swoAt := s.now }
    else if st == 3 then s
    else s.collapseDeclare

/-- For 2 µs VMAIN has not been above v mV, or with ovlo not below it (R439, R440). -/
def execVmainLoss (ovlo : Bool) (v : Nat) (s : State) : Res :=
  .next (if (if ovlo then decide (63000 < v) else s.vmainLow v) then s.vmainLoss ovlo else s)

/-- The switch-over completes: SRC, the 12 W figure and the record (R442). -/
def State.switchOver (s : State) : State :=
  if s.sup.swo then
    let s := ((s.put SUP_STAT_SRC 1).inc SWO_CNT_SWO).setSup { s.sup with swo := false }
    let s := if s.isOn 6 then (s.put GDG_AGG_BACKUP 1).biasLimits else s
    s.supEvent 1 0x03
  else s

def execSwitchOverComplete (s : State) : Res := .next s.switchOver

/-- VMAIN is usable again, at v mV: the return qualification starts (R443). -/
def execVmainUsable (v : Nat) (s : State) : Res :=
  .next (if s.isOn 1 && !s.sup.collapse && s.vmainBack v then (s.put SUP_STAT_VMOK 1).setSup { s.sup with retAt := s.now } else s)

/-- The device runs on VMAIN again; the flyback goes to a state. Where it went OFF, the record of the return follows the flyback's
own (R444, R447). -/
def State.toVmain (s : State) (bkst : Nat) : State :=
  let s := ((s.put SUP_STAT_SRC 0).put SUP_STAT_BKST bkst).inc SWO_CNT_RET_CNT
  let s := s.setSup { s.sup with swo := false }
  let s := if s.isOn 6 then s.put GDG_AGG_BACKUP 0 else s
  s.supEvent 1 0x04 (if bkst == 0 then evPlace 2 2 0x05 + 1 else evPlace 2 1 0x04)

/-- VMAIN has stayed between lo and hi mV since it became usable. -/
def execVmainReturn (lo hi : Nat) (s : State) : Res :=
  .next (if s.is SUP_STAT_SRC && s.is SUP_STAT_VMOK && s.vmainBack lo && decide (hi < 61000) && s.elapsedMs s.sup.retAt (max 1 (s.get SUP_CFG_RET)) then
    s.toVmain 2 else s)

/-! ### The flyback (R441) -/

/-- VHV has been between 200 V and v volts for 1 ms: the flyback starts where it is enabled and VHV is not above 1,050 V. -/
def execFlybackStart (v : Nat) (s : State) : Res :=
  .next (if s.isOn 1 && decide (200 ≤ v) then
    let s := s.put SUP_STAT_VHVOK 1
    if s.is SUP_CFG_BKEN && s.get SUP_STAT_BKST == 0 && !s.sup.collapse && decide (v ≤ 1050) then
      (s.put SUP_STAT_BKST 1).setSup { s.sup with bkAt := s.now }
    else s
  else s)

/-- The flyback completes START. -/
def State.flybackReady (s : State) : State :=
  if s.get SUP_STAT_BKST == 1 && s.isOn 1 then s.put SUP_STAT_BKST 2 else s

def execFlybackReady (s : State) : Res := .next s.flybackReady

/-- The flyback goes OFF: from READY or ACTIVE with a record; from ACTIVE with an immediate return where VMAIN is usable, and with
supply collapse where it is not (R441, R444, R447). -/
def State.flybackOff (s : State) : State :=
  let st := s.get SUP_STAT_BKST
  let s := s.put SUP_STAT_BKST 0
  let s := if st == 2 || st == 3 then s.supEvent 2 0x05 else s
  if st == 3 then (if s.is SUP_STAT_VMOK then s.toVmain 0 else s.collapseDeclare) else s

/-- VHV below 190 V, BKEN cleared, or a flyback fault. -/
def State.flybackDrop (s : State) (cause : Nat) : State :=
  if !s.isOn 1 || (cause == 1 && s.is SUP_CFG_BKEN) then s
  else
    let s := if cause == 0 then s.put SUP_STAT_VHVOK 0 else if cause == 2 then s.put SUP_FLT_BKFLT 1 else s
    s.flybackOff

/-- v is VHV in volts, which counts for cause 0. -/
def execFlybackDrop (cause : Fin 3) (v : Nat) (s : State) : Res :=
  .next (if cause.val == 0 && decide (190 ≤ v) then s else s.flybackDrop cause.val)

/-- VHV above 1,050 V: the flyback stops. -/
def execVhvOvervoltage (v : Nat) (s : State) : Res := .next (if s.isOn 1 && decide (1050 < v) then s.flybackOff else s)

/-- The supply manager switches D13 to D1 off once Badger reports its forced-off state, or 3 µs after the declaration (R444). -/
def State.collapseOff (s : State) : State :=
  if s.sup.collapse && ((s.isOn 2 && s.get HSM_STATUS_FOFF == 15) || decide (s.sup.collAt + 1200 ≤ s.now)) then s.domOff 1 else s

def execCollapseSwitchOff (s : State) : Res := .next s.collapseOff

/-- A write of SUP_CFG; clearing BKEN drops the flyback. -/
def State.supCfgWrite (s : State) (v : Word) : State :=
  let s := s.fieldWrite SUP_CFG.addr v
  if s.is SUP_CFG_BKEN then s else s.flybackDrop 1

def execSupLock (ini : Initiator) (val : Word) (s : State) : Res :=
  .next (s.busWrite ini SUP_CFG.addr (fun s => s.supCfgWrite (val ||| 0x80000000)))

/-! ### Domain requests (R448) -/

/-- Why domain d cannot come on: the first of reasons 4, 3, 2 and 1 that applies; 0 for none. -/
def State.pdcReason (s : State) (d : Nat) : Nat :=
  if !s.domExists d then 4
  else if s.sup.latch && decide (2 ≤ d) then 3
  else if 9 ≤ d && d ≤ 12 && !s.bit HSM_STATUS_EN (d - 9) then 2
  else if (domNeeds d).all (fun x => s.isOn x) then 0 else 1

def State.pdcSet (s : State) (d : Nat) : State :=
  let r := s.pdcReason d
  if r == 0 then s.domOn d
  else ((s.inc PDC_REFUSE_REF_CNT).put PDC_REFUSE_REASON r).put PDC_REFUSE_DOM d

/-- A write of PDC_REQ: HK reaches every bit but D0's, other initiators bits 7–13; first the clears, deepest dependants first,
then the sets in order of dependency. -/
def State.pdcWrite (s : State) (ini : Initiator) (v : Word) : State :=
  let old := s.get PDC_REQ_REQ
  let may (d : Nat) : Bool := decide (1 ≤ d) && (ini == .hk || decide (7 ≤ d))
  let s := [12, 11, 10, 9, 13, 8, 7, 6, 5, 3, 4, 2, 1].foldl (fun s d =>
    if may d && bitOf d old && !v.getLsbD d then s.domOff d else s) s
  [1, 2, 4, 3, 5, 6, 7, 8, 13, 9, 10, 11, 12].foldl (fun s d =>
    if may d && !bitOf d old && v.getLsbD d then s.pdcSet d else s) s

def execPdcReqWrite (ini : Initiator) (val : Word) (s : State) : Res :=
  .next (s.busWrite ini PDC_REQ.addr (fun s => s.pdcWrite ini val))

/-! ### Standby and wake (R451–R453) -/

def State.stbyWrite (s : State) (ini : Initiator) (v : Word) : State :=
  if isSc ini && v.toNat % 65536 == 0x5354 then s.standbyRequest else s

def execSupStby (ini : Initiator) (val : Word) (s : State) : Res :=
  .next (s.busWrite ini SUP_STBY.addr (fun s => s.stbyWrite ini val))

/-- A wake by source k (R452): the next start is cold. -/
def State.wake (s : State) (k : Nat) : State :=
  if s.sup.standby && s.bit AON_WAKE_EN k then
    let s := s.put AON_CAUSE_WAKE (2 ^ k)
    (s.setSup { s.sup with standby := false }).setStart { s.start with trig := some 0 }
  else s

/-- The pad has been at its active level for 32 Marten cycles; active low with WPOL = 1. -/
def execWakePad (level : Bool) (s : State) : Res := .next (if level != s.is AON_WAKE_WPOL then s.wake 0 else s)

def State.wakeTimer (s : State) : State :=
  if s.get AON_TIMER_SEC != 0 && decide (s.sup.sbAt + s.get AON_TIMER_SEC * 32768 ≤ s.marten) then s.wake 1 else s

def execWakeTimer (s : State) : Res := .next s.wakeTimer

def State.wakePlug (s : State) : State :=
  if s.sup.plug != s.sup.sbPlug && decide (s.sup.plugAt + 32 ≤ s.marten) then s.wake 2 else s

def execWakePlug (s : State) : Res := .next s.wakePlug

def execWakeCan (bus : Fin 2) (s : State) : Res := .next (s.wake (3 + bus.val))

/-- A power cycle: the whole device loses its state but for MRAM, OTP and the levels at its pads; a cold start is due
(R453, R457). -/
def State.powerCycle (s : State) : State :=
  let s := (s.dropRegs (fun _ => true)).dropMem (fun a => decide (0x04000000 ≤ a))
  let s := ((s.setCyc State.reset.cyc).setMarten State.reset.marten).setOn State.reset.on
  let s := ((s.setPllA State.reset.pllA).setPllB State.reset.pllB).setEvl State.reset.evl
  let s := ((s.setIrqs State.reset.irqs).setBusErr State.reset.busErr).setMramW State.reset.mramW
  let s := ((s.setTbLatch State.reset.tbLatch).setPwms State.reset.pwm).setCes State.reset.ce
  let s := (s.setConv State.reset.conv).setBadger { State.reset.badger with pads := s.badger.pads }
  let s := s.setGates (State.reset.gates.zipWith (fun (a : GateCh) (b : GateCh) => { a with gin := b.pad, pad := b.pad }) s.gates)
  let s := (s.setScgs State.reset.scg).setFox { State.reset.fox with pads := s.fox.pads, driven := s.fox.driven }
  let s := ((s.setOsd State.reset.osd).setModes State.reset.modes).setActs State.reset.act
  let s := ((s.setPosBlk State.reset.pos).setLedger State.reset.ledger).setHk State.reset.hk
  let s := ((s.setScThreads State.reset.sc).setScCores State.reset.scc).setDma State.reset.dma
  let s := ((s.setCans State.reset.can).setCanTm State.reset.canTm).setEth State.reset.eth
  let s := (s.setAsl State.reset.asl).setSup { State.reset.sup with plug := s.sup.plug }
  let s := s.setKcp { State.reset.kcp with keys := s.kcp.keys, cfg := s.kcp.cfg, pol := s.kcp.pol, out := s.kcp.out }
  s.setStart { State.reset.start with banks := s.start.banks, selected := s.start.selected, bank := s.start.bank,
                                      entries := s.start.entries, floor := s.start.floor, lcs := s.start.lcs,
                                      faultIdx := s.start.faultIdx, faultAt := s.start.faultAt, faultCnt := s.start.faultCnt }

def execPowerCycle (s : State) : Res := .next s.mramDrain.powerCycle

/-! ### What comes by time -/

/-- The supply manager's own times: a switch-over is complete 20 µs after VMAIN crossed its threshold, 2 µs of which its filter
takes; the flyback is READY 3 ms after it left OFF; and a collapse and a thermal shutdown switch off (R441, R442, R444, R484). -/
def State.supplyDue (s : State) : State :=
  if s.isOn 1 then
    let s := if s.sup.swo && decide (s.sup.swoAt + 7200 ≤ s.now) then s.switchOver else s
    let s := if s.get SUP_STAT_BKST == 1 && decide (s.sup.bkAt + 1200000 ≤ s.now) then s.flybackReady else s
    (if s.sup.collapse && decide (s.sup.collAt + 1200 ≤ s.now) then s.collapseOff else s).thermalOff 2100
  else s

/-! ### Clocks (R63, R450) -/

def execPllbLockLoss (s : State) : Res :=
  .next (if s.pllB && s.isOn 1 then ((s.put SUP_FLT_PLLB_UL 1).setPllB false).noteClk { s.clk with pllbAt := s.now } else s)

def execPllaLockLoss (s : State) : Res :=
  .next (if s.pllA && s.isOn 1 then (s.put SUP_FLT_PLLA_UL 1).setPllA false else s)

end Sys2Proof.Machine
end

