-- ==== Sys2Proof/Machine/Start.lean ====
section
/-! DEFINITION. Starts: their sources, steps, failures and the hold configuration; secure boot and the lifecycle
(R457–R475). -/

namespace Sys2Proof.Machine


/-! ### Core entries (R309, R310) -/

def State.scMode (s : State) (n : Nat) : Nat := s.get (SCC_MODE_MODE n)

/-- Core n runs Paired or Voted. -/
def State.scRedundant (s : State) (n : Nat) : Bool := s.scMode n == 1 || s.scMode n == 2

/-- The images of core n's redundant data region: first address and length. -/
def State.scImages (s : State) (n : Nat) : List (Nat × Nat) :=
  let len := (s.get (SCC_RDBASE_RDSIZE n) + 1) * 65536
  if s.scRedundant n then
    [(s.get (SCC_RDBASE_BASE n) * 65536, len), (s.get (SCC_IMGB_BASE n) * 65536, len)]
      ++ (if s.scMode n == 2 then [(s.get (SCC_IMGC_BASE n) * 65536, len)] else [])
  else []

def overlaps (a b : Nat × Nat) : Bool := decide (a.1 < b.1 + b.2) && decide (b.1 < a.1 + a.2)

/-- Some pair of a list overlaps. -/
def anyOverlap : List (Nat × Nat) → Bool
  | [] => false
  | a :: t => t.any (fun b => overlaps a b) || anyOverlap t

/-- Core n's entry is invalid. -/
def State.scInvalid (s : State) (n : Nat) : Bool :=
  let m := s.scMode n
  let slip := s.get (SCC_MODE_SLIP n)
  let kb := s.get (SCC_MODE_KEYB n)
  let kc := s.get (SCC_MODE_KEYC n)
  let mine := s.scImages n
  let others := ((List.range 4).filter (fun k => k != n)).flatMap (fun k => s.scImages k)
  m == 3
  || (s.scRedundant n && (decide (slip < 2) || decide (64 < slip) || kb == 0))
  || (m == 2 && (kc == 0 || kc == kb))
  || mine.any (fun i => decide (i.1 < 0x20000000) || decide (0x21F80000 < i.1 + i.2) || others.any (fun o => overlaps i o))
  || anyOverlap mine

/-- The boot record's entries are latched (R309). -/
def State.latchEntries (s : State) : State :=
  s.start.entries.foldl (fun s e => s.wr ⟨e.1, 0⟩ e.2) s

/-- The SC cores are released, with no connection open; one with an invalid entry stays halted. -/
def State.scRelease (s : State) : State :=
  (List.range 4).foldl (fun s n =>
    if s.scInvalid n then s.put (SCC_STAT_STATE n) 4
    else
      let order := if s.scMode n == 1 then [0, 1] else if s.scMode n == 2 then [0, 1, 2] else []
      (s.put (SCC_STAT_STATE n) 1).setScCores (s.scc.set n { ScCore.idle with order := order })) (s.setAsl Asl.idle)

/-! ### Beginnings and failures (R457–R464) -/

/-- AON_START.WINDOW: units of 32 Marten cycles since the first counted failure. -/
def State.startWindow (s : State) : Nat :=
  if s.get AON_START_FAILS == 0 then 0 else min 0x3FFF ((s.marten - s.start.winAt) / 32)

/-- A start begins (step 1): what its kind switches off, and the registers that every start resets. Kind 1 asks for a warm
start, which a lost domain or retention section, or HOLD, turns into a cold one. -/
def State.startBegin (s : State) (k : Nat) : State :=
  if s.sup.latch then s
  else
    let kind := if s.is AON_START_HOLD then 2 else if k == 1 && s.isOn 1 && s.isOn 2 && s.start.retained then 1 else 0
    let s := if kind == 1 then (s.domOff 4).domOff 8 else s.domOff 1
    let s := s.dropRegs (fun a => inWin 0x40200000 0x40400000 a)
    let s := s.inc AON_START_ATTEMPTS
    let s := if kind == 1 then s
      else (s.setKcp { s.kcp with ctxs := [] }).setStart { s.start with faultBuf := [] }
    s.setStart { s.start with trig := none, running := true, kind := kind, step := 1, begun := s.marten, retryAt := none,
                              kp := false, sc := false, sealed := false }

/-- A due start begins; after a collapse it is due once VMAIN has been above 9.0 V for 32 Marten cycles (R457): v is its lowest
level in them, in mV. -/
def execStartBegin (v : Nat) (s : State) : Res :=
  .next (if s.start.running then s
    else match s.start.trig with
    | some k => s.startBegin k
    | none => if s.get AON_CAUSE_LAST == 2 && !s.isOn 1 && !s.sup.standby && s.start.retryAt == none && decide (9000 < v) then s.startBegin 0 else s)

/-- A start fails with a step code: D3–D13, D2 and D1 go off, the failure is counted, and a retry is due (R463, R464). -/
def State.startFail (s : State) (code : Nat) : State :=
  let warm := s.start.kind == 1
  let w := s.startWindow
  let s := (s.domOff 1).put AON_START_FSTEP code
  let s := s.setStart { s.start with running := false, retryAt := some s.now }
  if warm then s.put AON_START_WARMFAIL 1
  else if s.get AON_START_FAILS == 0 ∨ 10240 ≤ w then (s.put AON_START_FAILS 1).setStart { s.start with winAt := s.marten }
  else
    let s := s.inc AON_START_FAILS
    if s.get AON_START_FAILS == 3 then s.put AON_START_HOLD 1 else s

def State.startTimeout (s : State) : State :=
  if s.start.running && decide (s.start.begun + 16384 ≤ s.marten) then s.startFail 15 else s

def execStartTimeout (s : State) : Res := .next s.startTimeout

/-- 1.0–1.2 ms after a failure the next attempt begins: so many microseconds have passed (R463, R476). -/
def State.startRetry (s : State) (us : Nat) : State :=
  match s.start.retryAt with
  | some t => if decide (t + 400 * us ≤ s.now) && !s.start.running then s.startBegin 0 else s
  | none => s

def execStartRetry (s : State) : Res := .next (s.startRetry 1000)

/-! ### Steps (R461, R462, R465, R468–R472) -/

/-- The step after a step, in a kind of start. -/
def nextStep (kind step : Nat) : Nat :=
  if kind == 1 then (if step == 1 then 4 else if step == 4 then 8 else step + 1)
  else if step == 9 then 11 else step + 1

/-- Badger at a warm start: CFGACK clears, and a READY one removes every enable and waits for its acknowledgement (R462). -/
def State.badgerWarm (s : State) : State :=
  let s := s.put HSM_CFG_CFGACK 0
  if s.bState == 3 then
    (((List.range 4).foldl (fun s g => s.bRemove g) s).put HSM_STATUS_STATE 2).bMirror
  else s.bMirror

/-- KP and HK firmware start: policies, sessions, logs and modes (R360, R387, R465, R472). -/
def State.firmwareStart (s : State) : State :=
  let warm := s.start.kind == 1
  let s := if warm then ((s.domOn 6).put EVL_STATUS_WRIDX s.start.evlIdx).domOn 8 else s
  let s := (s.domOn 7).domOn 13
  let p := s.kcp.pol
  let s := ((s.wr MDM_PLUGPOL (BitVec.ofNat 32 p.1)).wr MDM_PAIRDENY (BitVec.ofNat 32 p.2.1)).wr MDM_PLUG (BitVec.ofNat 32 p.2.2)
  let s := if warm then
      s.setKcp { s.kcp with ctxs := s.kcp.ctxs.map (fun (e : Nat × Ctx) =>
        (e.1, { e.2 with restored := e.2.live, subs := [], expiry := s.tick + e.2.expiry })) }
    else
      let since := (s.start.faultAt + 32768 - s.start.faultIdx) % 32768
      let s := s.setSup { s.sup with plugCnt := 0 }
      s.setStart { s.start with faultAt := (s.start.faultIdx + 8) % 32768, evlIdx := 0, evlCnt := 0,
                                faultCnt := if s.start.faultCnt == 0 then 0 else min 32768 (s.start.faultCnt + 8 - since) }
  let stop := s.bState == 4 || s.bState == 5 || s.bState == 6
  let s := (s.setStart { s.start with kp := true }).plugShow
  let s := if stop then s.sstEnter else s
  let s := if stop && s.is HSM_STATUS_STOPCPL then s.sstDone else s
  if s.start.kind == 2 then s.hldEnter (if s.start.sealed then 1 else 2) else if s.bState == 1 then s.hldEnter 1 else s

/-- A start is complete: its status, the counts of failures, the epoch floor and the lifecycle (R461, R464, R469, R473). -/
def State.startDone (s : State) : State :=
  let kind := s.start.kind
  let s := (s.put SYSC_BOOT_KIND kind).put SYSC_BOOT_TIME (min 0xFFF ((s.marten - s.start.begun) * 1000 / 32768))
  let s := s.setStart { s.start with running := false, retained := true }
  if kind == 2 then s
  else
    let s := ((s.put AON_START_FAILS 0).put AON_START_WARMFAIL 0).put AON_START_FSTEP 0
    let b := nth s.start.banks s.start.bank ⟨false, 0, 0, false⟩
    let lcs := if kind == 0 && s.start.lcs == 2 && b.prod then 3 else s.start.lcs
    (s.put SYSC_BOOT_LCS lcs).setStart { s.start with floor := max s.start.floor b.epoch, lcs := lcs }

/-- Image verification at a cold start: the selected bank, or the other one in its place (R468). -/
def State.verifyImage (s : State) (ok alt : Bool) : State :=
  if ok then (s.put SYSC_BOOT_BANK s.start.selected).setStart { s.start with bank := s.start.selected }
  else if alt then
    let bad := s.start.selected
    let good := 1 - bad
    let b := nth s.start.banks bad ⟨false, 0, 0, false⟩
    let s := s.setStart { s.start with selected := good, bank := good, banks := s.start.banks.set bad { b with verified := false } }
    (s.put SYSC_BOOT_BANK good).put SYSC_BOOT_FALLBACK 1
  else s.put SYSC_BOOT_RECOV 1

/-- A step's action once it completes, or in the hold configuration whether it completes or not. -/
def State.stepAction (s : State) (n : Nat) (ok alt : Bool) : State :=
  if n == 2 then s.domOn 1
  else if n == 3 then s.domOn 2
  else if n == 4 then
    let s := (s.domOn 4).domOn 5
    let s := (s.put SYSC_BOOT_LCS s.start.lcs).setPllA true
    if s.start.kind == 1 then s.badgerWarm else s
  else if n == 6 then s.dropMem (fun a => inWin 0x20000000 0x22000000 a)
  else if n == 7 then (s.domOn 6).domOn 8
  else if n == 8 then (if s.start.kind == 1 then s.put SYSC_BOOT_BANK s.start.bank else s.verifyImage ok alt)
  else if n == 9 then s.latchEntries
  else if n == 11 then s.firmwareStart
  else if n == 12 then
    let s := s.dropMem (fun a => inWin 0x20000000 0x21F80000 a)
    let s := (s.domOn 3).scRelease
    s.setStart { s.start with sc := true }
  else s

/-- The step fails where the table gives it a failure. -/
def stepFails (kind n : Nat) (ok alt : Bool) : Bool :=
  if n == 3 || n == 12 then false
  else if n == 8 then !ok && (kind == 1 || !alt)
  else if n == 9 then !ok && kind == 1
  else !ok

/-- The step that comes next completes or fails. Step 4 of a cold start follows the seal read; an invalid seal makes the start one
of the hold configuration. -/
def State.startStep (s : State) (ok alt : Bool) : State :=
  let n := nextStep s.start.kind s.start.step
  if !s.start.running || s.sup.latch || (n == 4 && s.start.kind != 1 && s.bState == 0) then s
  else
    let s := if n == 4 && s.start.kind != 1 && s.bState == 1 then
        s.setStart { s.start with sealed := !s.is AON_START_HOLD, kind := 2 } else s
    let fails := stepFails s.start.kind n ok alt
    if fails && s.start.kind != 2 then s.startFail n
    else
      let s := (s.stepAction n ok alt).setStart { (s.stepAction n ok alt).start with step := n }
      let s := if fails then s.putFldBit SYSC_BOOT_FMASK (n - 1) true else s
      if n == (if s.start.kind == 2 then 11 else 12) then s.startDone else s

def execStartStep (ok alt : Bool) (s : State) : Res := .next (s.startStep ok alt)

/-! ### Requested starts (R457, R459, R460) -/

/-- A write of SYSC_RST: FAULTN, RSTREF, and the key of an SC thread, ignored while a bias group or D12 is on. -/
def State.rstWrite (s : State) (ini : Initiator) (v : Word) : State :=
  let s := s.fieldWrite SYSC_RST.addr v
  let key := v.toNat % 65536
  if isSc ini && (key == 0x5752 || key == 0x434C) then
    if [9, 10, 11, 12].any (fun d => s.isOn d) then s.put SYSC_RST_RSTREF 1
    else if s.sup.latch then s
    else s.setStart { s.start with trig := some (if key == 0x5752 then 1 else 0) }
  else s

def execSyscRstCold (ini : Initiator) (val : Word) (s : State) : Res :=
  .next (s.busWrite ini SYSC_RST.addr (fun s => s.rstWrite ini ((val &&& 0xFFFF0000) ||| 0x434C)))

def execSyscRstWarm (ini : Initiator) (val : Word) (s : State) : Res :=
  .next (s.busWrite ini SYSC_RST.addr (fun s => s.rstWrite ini ((val &&& 0xFFFF0000) ||| 0x5752)))

/-- SE0 has seen no HK heartbeat for 30 ms. -/
def State.heartbeatLoss (s : State) : State :=
  if s.start.kp && s.pllA && !s.sup.latch then s.setStart { s.start with trig := some 1 } else s

def execHkHeartbeatLoss (s : State) : Res := .next s.heartbeatLoss

/-- HK runs on the control clock, so its heartbeat is missing while PLL-B is unlocked (R450, R457). -/
def State.heartbeatDue (s : State) : State :=
  if !s.pllB && s.elapsedMs s.clk.pllbAt 30 then s.heartbeatLoss else s

/-- What Marten does at its cycle: the start timer, the retry of a start and the wake sources of standby that it times. -/
def State.martenDue (s : State) : State :=
  let s := (s.startTimeout).startRetry 1200
  if s.sup.standby then s.wakeTimer.wakePlug else s

/-! ### Lifecycle and debug (R473, R474) -/

/-- A signed unlock response in PRODUCTION: the key region, the image banks and the persistent data are erased first. -/
def execLifecycleUnlock (valid : Bool) (s : State) : Res :=
  .next (if valid && s.isOn 4 && s.start.lcs == 3 then
      let s := s.mramDrain.dropMem (fun a => inWin 0x00010000 0x00020000 a || inWin 0x00200000 0x04000000 a)
      let s := s.setKcp { s.kcp with keys := [] }
      let s := s.setStart { s.start with lcs := 4, banks := List.replicate 2 ⟨false, 0, 0, false⟩ }
      s.put SYSC_BOOT_LCS 4
    else s)

/-- A debugger halts a core's thread; in a Paired or Voted core it halts every copy. -/
def execDebugHalt (core : Fin 4) (thread : Fin 3) (s : State) : Res :=
  .next (if s.isOn 3 && (s.start.lcs == 2 || s.start.lcs == 4) then
      if s.scRedundant core.val then
        let c := nth s.scc core.val ScCore.idle
        (s.put (SCC_STAT_STATE core.val) 0).setScCores (s.scc.set core.val { c with halted := true })
      else s.setScThreads (s.sc.set (core.val * 3 + thread.val) { nth s.sc (core.val * 3 + thread.val) ScThr.idle with halted := true })
    else s)

end Sys2Proof.Machine
end

