-- ==== Sys2Proof/Machine/View.lean ====
section
/-! DEFINITION. What a register reads as, without the effects of a read: the stored fields and those that the device computes
(R6, R16–R18, R72, R79, R188, R356, R364, R464, R477). -/

namespace Sys2Proof.Machine

/-! ### KCP's occupancy (R359, R364) -/

def State.openCtxs (s : State) : List (Nat × Ctx) := s.kcp.ctxs.filter (fun e => e.2.live)
def State.expiredCtxs (s : State) : List (Nat × Ctx) := s.kcp.ctxs.filter (fun e => e.2.isOpen && e.2.gone)
def State.unauthCtxs (s : State) : List (Nat × Ctx) := s.openCtxs.filter (fun e => e.2.slot == 0xF)

def State.kcpOcc (s : State) : Nat :=
  s.expiredCtxs.length * 2 ^ 18 + s.openCtxs.length * 2 ^ 9 + min 0xFF s.unauthCtxs.length

def State.qLen (s : State) (cls : Nat) : Nat := (nth s.kcp.queues (cls - 2) []).length

def State.kcpQfill (s : State) : Nat :=
  min 127 (s.qLen 2) * 2 ^ 24 + min 63 (s.qLen 3) * 2 ^ 16 + min 63 (s.qLen 4) * 2 ^ 8 + min 31 (s.qLen 5)

/-! ### Registers -/

/-- PWMk_STATUS: the stored flags, the trip inputs as they are, and the counting direction. -/
def State.pwmStatus (s : State) (k : Nat) : Nat :=
  let s := (List.range 4).foldl (fun s i => s.putFldBit (PWM_STATUS_TRIPIN k) i (s.tripIn k i)) s
  (s.putB (PWM_STATUS_DIR k) (s.pwmDown k)).get ⟨PWM_STATUS k, 31, 0⟩

def State.pwmCountWord (s : State) (k : Nat) : Nat :=
  ((s.put (PWM_COUNT_CNT k) (s.pwmCount k)).putB (PWM_COUNT_DIR k) (s.pwmDown k)).get ⟨PWM_COUNT k, 31, 0⟩

/-- The word that the register at a holds now, where the device computes it. -/
def State.computed (s : State) (a : Nat) : Option Nat :=
  if a == SYSC_ID.addr then some (if s.order == .sa then 0x43320288 else 0x43320188)
  else if a == TB_LO.addr then some (s.timebase % 2 ^ 32)
  else if a == TB_HI.addr then some (s.timebase / 2 ^ 32)
  else if inWin 0x40000000 0x40008000 a && a % 0x400 == (PWM_STATUS 0).addr % 0x400 then some (s.pwmStatus ((a - 0x40000000) / 0x400))
  else if inWin 0x40000000 0x40008000 a && a % 0x400 == (PWM_COUNT 0).addr % 0x400 then some (s.pwmCountWord ((a - 0x40000000) / 0x400))
  else if inWin (TRN_STATE 0).addr ((TRN_STATE 0).addr + 24) a then
    some (ofBits 32 (fun i => s.foxActive ((a - (TRN_STATE 0).addr) / 4 * 32 + i)))
  else if inWin 0x40500400 0x40500800 a && a % 0x80 == (CE_PC 0).addr % 0x80 then some (s.ceOf ((a - 0x40500400) / 0x80)).pc
  else if a == KCP_OCC.addr then some s.kcpOcc
  else if a == KCP_QFILL.addr then some s.kcpQfill
  else if a == HSM_SS1T.addr && s.bState == 4 then some ((s.badger.tick - s.badger.ss1At) % 2 ^ 32)
  else if a == PDC_STAT.addr then some s.on.toNat
  else if a == AON_START.addr then some ((s.put AON_START_WINDOW s.startWindow).get ⟨AON_START, 31, 0⟩)
  else if a == THM_EN.addr then some s.thmEn
  else if inWin (THM_T 0).addr ((THM_T 0).addr + 120) a && !bitOf ((a - (THM_T 0).addr) / 4) s.thmEn then some 0x8000
  else if inWin 0x40100000 0x40104000 a && (a % 0x100 == 0x88 || a % 0x100 == 0x8C) then
    some (s.profEff ((a - 0x40100000) / 0x100) (a % 0x100 == 0x88))
  else if s.order == .sa && (a == GDG_SHARE.addr || a == GDG_GRPLIM.addr || a == GDG_GRPPWR.addr) then
    some (putBits 15 8 (s.rd (regAt a)).toNat 0)
  else none

/-- A gate-drive register of a channel that is not populated reads 0 (R6). -/
def State.absent (s : State) (a : Nat) : Bool :=
  inWin 0x40100000 0x40104000 a && !s.gatePopulated ((a - 0x40100000) / 0x100)

/-- What the register at address a reads as: 0 at an unlisted offset (R18). -/
def State.peek (s : State) (a : Nat) : Word :=
  match rowOf a with
  | none => 0
  | some r =>
    if s.absent a then 0
    else BitVec.ofNat 32 (readFields ((s.computed a).getD (s.rd (regAt a)).toNat) r.flds)

/-! ### Reads that latch (R72, R169) -/

/-- A read of TB_LO latches TB_HI for the reader (R72). -/
def State.tbLatchSet (s : State) (ini : Initiator) : State :=
  s.setTbLatch ((ini, BitVec.ofNat 32 (s.timebase / 2 ^ 32)) :: s.tbLatch.filter (fun e => e.1 != ini))

/-- What TB_HI returns: the reader's latch. -/
def State.tbLatched (s : State) (ini : Initiator) : Word :=
  match s.tbLatch.find? (fun e => e.1 == ini) with
  | some e => e.2
  | none => 0

/-- A read of a register that takes nothing out of a buffer: its value, with each reader's latches. -/
def State.latchRead (s : State) (ini : Initiator) (a : Nat) : Word × State :=
  if a == TB_LO.addr then (s.peek a, s.tbLatchSet ini)
  else if a == TB_HI.addr then (s.tbLatched ini, s)
  else if inWin 0x40204000 0x40205000 a then
    (let u := (a - 0x40204000) / 0x40
     let o := a % 0x40
     if o == 0x14 then (s.peek a, s.wuLatch ini u)
     else if 0x18 ≤ o ∧ o < 0x24 then (s.wuLatched ini u ((o - 0x18) / 4), s)
     else (s.peek a, s))
  else (s.peek a, s)

/-- The words of n registers from address a, read in ascending order; one in a domain that is off reads 0. -/
def State.latchReads (s : State) (ini : Initiator) (on : Nat → Bool) (a : Nat) : Nat → List Byte × State
  | 0 => ([], s)
  | n + 1 =>
    let r := if on a then s.latchRead ini a else (0, s)
    let t := r.2.latchReads ini on (a + 4) n
    (beBytes 4 r.1.toNat ++ t.1, t.2)

end Sys2Proof.Machine
end

