-- ==== Sys2Proof/Machine/Requests.lean ====
section
/-! DEFINITION. The opcodes of the command protocol: their classes, the checks of their payloads, and what KP and its targets
do with a request that has left its queue (R372–R400). -/

namespace Sys2Proof.Machine

/-! ### Opcodes (R377, R378, R383) -/

/-- The class of a standard opcode. -/
def opClass (op : Nat) : Option Nat :=
  if 0x0101 ≤ op ∧ op ≤ 0x0103 then some 0
  else if op == 0x0201 || op == 0x0202 || op == 0x0601 || op == 0x0602 || op == 0x0701 then some 2
  else if 0x0301 ≤ op ∧ op ≤ 0x0307 then some 1
  else if (0x0401 ≤ op ∧ op ≤ 0x0404) ∨ op == 0x0A02 ∨ op == 0x0A03 then some 3
  else if op == 0x0508 || op == 0x0801 || (decide (0x0901 ≤ op) && decide (op ≤ 0x0904)) then some 5
  else if op == 0x0203 || (decide (0x0501 ≤ op) && decide (op ≤ 0x0509)) || op == 0x0603 || op == 0x0702 || op == 0x0905
      || op == 0x0A01 then some 4
  else none

/-- Opcodes that need a keyed session. -/
def opKeyed (op : Nat) : Bool := op == 0x0509 || (decide (0x0901 ≤ op) && decide (op ≤ 0x0904))

/-- Opcodes that the recovery firmware serves (R465). -/
def opRecovery (op : Nat) : Bool :=
  [0x0101, 0x0102, 0x0103, 0x0203, 0x0506, 0x0801, 0x0509, 0x0901, 0x0902, 0x0903, 0x0904, 0x0905].contains op

/-- Instance, CE and mailbox slot of a setpoint opcode; SETPT_CHG names ACH here. -/
def setptTarget (op : Nat) : Nat × Nat × Nat :=
  nth [(0, 0, 0), (1, 2, 0), (7, 0, 1), (8, 2, 1), (2, 2, 2), (3, 5, 0), (5, 6, 0)] (op - 0x0301) (0, 0, 0)

/-! ### Payloads (R372, R373) -/

def payU (pay : List Byte) (i n : Nat) : Nat := beNat ((pay.drop i).take n)

/-- The payload length of an opcode. -/
def lenOk (op n : Nat) : Bool :=
  if [0x0102, 0x0502, 0x0505, 0x0506, 0x0702, 0x0903, 0x0905, 0x0A01].contains op then n == 0
  else if [0x0203, 0x0404, 0x0603].contains op then n == 1
  else if [0x0103, 0x0402, 0x0A02].contains op then n == 2
  else if [0x0201, 0x0202, 0x0303, 0x0304, 0x0307, 0x0503, 0x0509, 0x0601, 0x0602, 0x0901, 0x0904].contains op then n == 4
  else if op == 0x0501 then n == 40
  else if op == 0x0902 then decide (68 ≤ n) && decide (n ≤ 4036)
  else n == 8

/-- The offset of the first field for which a check fails. -/
def firstBad : List (Bool × Nat) → Option Nat
  | [] => none
  | (bad, o) :: t => if bad then some o else firstBad t

/-- A single-precision word is neither a NaN nor an infinity. -/
def f32Finite (w : Nat) : Bool := bitsOf 30 23 w != 255

def f32AtLeast (w : Nat) (v : F32) : Bool := f32Cmp (f32Unpack w) v != -1
def f32AtMost (w : Nat) (v : F32) : Bool := f32Cmp (f32Unpack w) v != 1
def f32Nat (n : Nat) : F32 := .fin false n 0

/-- The bits of a register's fields. -/
def fieldMask (a : Nat) : Nat :=
  match rowOf a with
  | none => 0
  | some r => r.flds.foldl (fun m (f : Nat × Nat × Access) => m ||| (2 ^ (f.1 + 1) - 2 ^ f.2.1)) 0

/-- The value of POLICY_WRITE keeps to the register's fields; of MDM_PLUG only DB and POL. -/
def policyValueOk (sel v : Nat) : Bool :=
  let m := if sel == 2 then 0xFF04 else fieldMask (policyReg sel).addr
  v &&& m == v

/-- Ranges that REG_READ may read (R390). -/
def readable (a n : Nat) : Bool :=
  (decide (0x40000000 ≤ a) && decide (a + 4 * n ≤ 0x40900000))
  || (decide (0x50000000 ≤ a) && decide (a + 4 * n ≤ 0x50000100))
  || (decide (0x70100800 ≤ a) && decide (a + 4 * n ≤ 0x70100A00))

/-- Parameters of motor B and of BCH, which VX8800-SA refuses (R7). -/
def parMotorB (id : Nat) : Bool := [0x0101, 0x0103, 0x0105, 0x0107, 0x0109, 0x010A, 0x010B, 0x010C, 0x010D, 0x011E].contains id

/-- The fields of a request, in payload order, that are out of range. -/
def payChecks (o : OrderCode) (op : Nat) (pay : List Byte) : List (Bool × Nat) :=
  let u := payU pay
  let b := fun i => u i 1
  let f := fun i => (!f32Finite (u i 4), i)
  if op == 0x0103 then [(u 0 2 != 0 && (decide (u 0 2 < 100) || decide (60000 < u 0 2)), 0)]
  else if op == 0x0201 then [(b 0 == 6 || b 0 == 10 || decide (12 ≤ b 0), 0), (u 1 3 != 0, 1)]
  else if op == 0x0202 then [(b 0 == 10 || decide (12 ≤ b 0), 0), (u 1 3 != 0, 1)]
  else if op == 0x0203 || op == 0x0603 then [(decide (2 ≤ b 0), 0)]
  else if op == 0x0301 || op == 0x0302 || op == 0x0306 then [f 0, f 4]
  else if op == 0x0303 || op == 0x0304 then [(!f32Finite (u 0 4) || !f32AtLeast (u 0 4) (f32Nat 0), 0)]
  else if op == 0x0305 then [(!f32Finite (u 0 4) || !f32AtLeast (u 0 4) (f32Nat 0), 0), f 4]
  else if op == 0x0307 then
    [(!f32Finite (u 0 4) || !f32AtLeast (u 0 4) (f32Nat 40) || !f32AtMost (u 0 4) (f32Nat 54), 0)]
  else if op == 0x0401 then
    [((parInfo (u 0 2)).isNone || (o == .sa && parMotorB (u 0 2)), 0), (u 2 2 != 0, 2), (!parOk (u 0 2) (u 4 4), 4)]
  else if op == 0x0402 then [((parInfo (u 0 2)).isNone || (o == .sa && parMotorB (u 0 2)), 0)]
  else if op == 0x0403 then [(decide (2 < b 0), 0), (u 1 3 != 0, 1), (!policyValueOk (b 0) (u 4 4), 4)]
  else if op == 0x0404 then [(decide (2 < b 0), 0)]
  else if op == 0x0501 then
    [(decide (4 ≤ b 5), 5), (u 6 2 != 0, 6)] ++ (List.range 32).map (fun k => (bitsOf 6 5 (b (8 + k)) != 0, 8 + k))
  else if op == 0x0503 then
    [(decide (64 ≤ b 0), 0), (decide (2 ≤ b 1), 1),
     (if b 1 == 1 then decide (u 2 2 < 10) || decide (60000 < u 2 2) else u 2 2 != 0, 2)]
  else if op == 0x0504 then
    [(u 0 4 % 4 != 0 || !readable (u 0 4) (max 1 (min 64 (b 4))), 0), (b 4 == 0 || decide (64 < b 4), 4), (u 5 3 != 0, 5)]
  else if op == 0x0507 then
    [(decide (3 < b 0), 0), (decide (23 < b 1), 1), (!(evNamed (b 3) || b 3 == 0xFF), 3), (u 4 4 == 0 || decide (65536 < u 4 4), 4)]
  else if op == 0x0508 then [(u 4 2 % 2 != 0 || decide (u 4 2 < 2) || decide (4064 < u 4 2), 4), (u 6 2 != 0, 6)]
  else if op == 0x0509 then [(u 0 4 != 0x46434F4C, 0)]
  else if op == 0x0601 then [(decide (2 < b 0), 0), (seqActuator (b 1) != some (b 0), 1), (u 2 2 != 0, 2)]
  else if op == 0x0602 then [(decide (2 < b 0), 0), (u 1 3 != 0, 1)]
  else if op == 0x0801 then [(decide (1 < b 0), 0), (b 1 != 0, 1), (u 2 2 == 0 || decide (127 < u 2 2), 2)]
  else if op == 0x0901 then [(decide (u 0 4 < 64) || decide (31457280 < u 0 4), 0)]
  else if op == 0x0902 then [(u 0 4 % 64 != 0, 0)]
  else if op == 0x0904 then [(decide (1 < b 0), 0), (u 1 3 != 0, 1)]
  else if op == 0x0A02 then [(decide (1 < b 0), 0), (decide (1 < b 1), 1)]
  else if op == 0x0A03 then
    [(decide (3 < b 0), 0), (decide (1 < b 1), 1),
     (bitsOf 30 29 (u 2 4) != 0
       || (if bitOf 31 (u 2 4) then u 2 4 % 2 ^ 29 == 0x1FFFFFFF else decide (0x7FF ≤ u 2 4 % 2 ^ 29)), 2),
     (u 6 2 == 0 || decide (1000 < u 6 2), 6)]
  else []

/-- The offset that BAD_PARAM names, where a completed message is refused. -/
def State.checkParams (s : State) (op : Nat) (pay : List Byte) : Option Nat :=
  if !lenOk op pay.length then some 0xFFFF
  else if s.order == .sa && (op == 0x0302 || op == 0x0304 || op == 0x0305) then some 0xFFFF
  else firstBad (payChecks s.order op pay)

/-! ### Replies and notifications (R382, R389, R395) -/

def State.word (s : State) (a : Nat) : List Byte := beBytes 4 (s.peek a).toNat
def State.words (s : State) (l : List Nat) : List Byte := l.flatMap (fun a => s.word a)

def State.modeStatusFields (s : State) : List Byte :=
  s.words [MDM_ACTIVE.addr, MDM_ENDRSN0.addr, MDM_ENDRSN1.addr, MDM_PLUG.addr, MDM_HOLD.addr, HSM_STATUS.addr]
  ++ (List.range 12).flatMap (fun i => beBytes 2 ((s.ownerOf i).getD 0))

def State.stageStatusFields (s : State) (mask : Nat) : List Byte :=
  s.word LGC_STAT.addr ++ (setBits 6 mask).flatMap (fun e =>
    [BitVec.ofNat 8 e, 0, 0, 0] ++ s.words [(LGE_PRED e).addr, (LGE_HEAT e).addr, (LGE_GRANT e).addr, (LGE_STAT e).addr, (LGE_OFS e).addr])

def State.actStatusFields (s : State) : List Byte :=
  s.words [(ACS_STAT 0).addr, (ACS_STAT 1).addr, (ACS_STAT 2).addr]
  ++ (List.range 3).flatMap (fun n => beBytes 4 (unsigned 32 (s.actCnt n)))
  ++ s.word DCS_STAT.addr ++ beBytes 2 (s.get DCS_IOUT_IOUT)

def State.statusFields (s : State) (op mask : Nat) : List Byte :=
  if op == 0x0203 then s.modeStatusFields else if op == 0x0503 then s.stageStatusFields mask else s.actStatusFields

/-- A status request: its subscription and its reply (R379). -/
def State.runStatus (s : State) (tk : Tok) (mask period : Nat) (sub : Bool) : State :=
  (s.subscribe tk.handle tk.op mask period sub).reply tk stOk (s.statusFields tk.op mask)

/-! ### Configuration (R385–R387, R400) -/

def State.runCfgWrite (s : State) (tk : Tok) (pay : List Byte) : State :=
  let id := payU pay 0 2
  if s.parUsed id then s.reply tk stBadState
  else
    let s := s.parWrite id (payU pay 4 4)
    let s := if id == 0x0200 || id == 0x0201 then s.setKcp { s.kcp with caps := s.kcp.caps.filter (fun c => !c.fin) } else s
    s.reply tk stOk

def State.runCfgRead (s : State) (tk : Tok) (pay : List Byte) : State :=
  let id := payU pay 0 2
  s.reply tk stOk (beBytes 2 id ++ beBytes 4 (s.par id))

/-- The recorded policies with one of them replaced. -/
def polWith (p : Nat × Nat × Nat) (sel v : Nat) : Nat × Nat × Nat :=
  if sel == 0 then (v, p.2) else if sel == 1 then (p.1, v, p.2.2) else (p.1, p.2.1, v)

def State.runPolicyWrite (s : State) (tk : Tok) (pay : List Byte) : State :=
  let sel := payU pay 0 1
  let v := payU pay 4 4
  if s.policyBusy || s.is MDM_LOCK_POL_LOCK then s.reply tk stBadState
  else ((s.policyWrite sel (BitVec.ofNat 32 v)).setKcp
    { (s.policyWrite sel (BitVec.ofNat 32 v)).kcp with pol := polWith s.kcp.pol sel v }).reply tk stOk

def State.runPolicyRead (s : State) (tk : Tok) (pay : List Byte) : State :=
  let sel := payU pay 0 1
  s.reply tk stOk ([BitVec.ofNat 8 sel, 0] ++ s.word (policyReg sel).addr)

/-- TB_OFFSET as 64 bits. -/
def State.tbOffset (s : State) : Nat := (s.rd TB_OFFSET_HI).toNat * 2 ^ 32 + (s.rd TB_OFFSET_LO).toNat

/-- TIMEBASE + TB_OFFSET. -/
def State.vehicleTime (s : State) : Nat := (s.timebase + s.tbOffset) % 2 ^ 64

def State.runTimeGet (s : State) (tk : Tok) : State :=
  s.reply tk stOk (beBytes 8 s.timebase ++ beBytes 8 s.tbOffset ++ beBytes 8 s.vehicleTime
    ++ [BitVec.ofNat 8 (b2n (s.is TB_CTRL_LOCKED) + 2 * b2n (s.is TB_CTRL_DISC_EN) + 4 * b2n (s.is TB_CTRL_PORT)), 0])

def State.runTimeDisc (s : State) (tk : Tok) (pay : List Byte) : State :=
  ((s.put TB_CTRL_DISC_EN (payU pay 0 1)).put TB_CTRL_PORT (payU pay 1 1)).reply tk stOk

/-- The number of the time master's basic cycle (R415). -/
def State.tmCycle (s : State) : Nat := s.vehicleTime / (max 1 (s.get CANG_TMCFG_CYCLE) * 1000000)

def State.runTimeMaster (s : State) (tk : Tok) (pay : List Byte) : State :=
  let bus := payU pay 0 1
  let mine := s.get CANG_TMCFG_BUS == bus
  if payU pay 1 1 == 0 then
    (if mine then (s.put CANG_TMCFG_EN 0).setCanTm { s.canTm with due := none, ran := false } else s).reply tk stOk
  else if s.is CANG_TMCFG_EN && !mine then s.reply tk stHeld
  else if !s.isOn 13 || !s.canEnabled bus then s.reply tk stBadState
  else
    let s := (((s.put CANG_TMCFG_EN 1).put CANG_TMCFG_BUS bus).put CANG_TMCFG_CYCLE (payU pay 6 2)).wr CANG_TMID
      (BitVec.ofNat 32 (payU pay 2 4))
    (s.setCanTm { s.canTm with due := none, ran := false, cycleAt := s.tmCycle }).reply tk stOk

/-! ### Diagnostics (R388–R393) -/

/-- OSD_START: the registers and START; a run that has ended has answered already. -/
def State.runOsdStart (s : State) (tk : Tok) (pay : List Byte) : State :=
  if s.osdBusy then s.reply tk stHeld
  else
    let s := s.wr GDG_OSDLEGS (BitVec.ofNat 32 (payU pay 0 4))
    let s := (s.put GDG_OSDCTRL_SETTLE (payU pay 4 1)).put GDG_OSDCTRL_SHORT_EN (bitsOf 0 0 (payU pay 5 1))
    let s := s.put GDG_OSDCTRL_OPEN_EN (bitsOf 1 1 (payU pay 5 1))
    let s := (List.range 8).foldl (fun s n =>
      s.wr (GDG_OSDPAIR n) (BitVec.ofNat 32 (leNat ((pay.drop (8 + 4 * n)).take 4)))) s
    let s := (s.served tk.cls tk.left).osdStart (some tk)
    if s.osd.req.isSome then (s.record tk.handle tk.seq stPending).kpSend tk false tk.seq (beBytes 2 stPending) else s

def State.runOsdResult (s : State) (tk : Tok) : State :=
  s.reply tk stOk (s.word GDG_OSDSTAT.addr ++ beBytes 2 (s.get GDG_OSDVDC_VDC) ++ s.words ((List.range 32).map (fun k => (GDG_OSDRES k).addr)))

/-- The address's domain is on. -/
def State.poweredAt (s : State) (a : Nat) : Bool :=
  match windowDomain a with
  | some d => s.isOn d
  | none => true

def State.runRegRead (s : State) (tk : Tok) (pay : List Byte) : State :=
  let a := payU pay 0 4
  let n := payU pay 4 1
  let mask := ofBits 64 (fun i => decide (i < n) && !s.poweredAt (a + 4 * i))
  let r := s.latchReads .kp s.poweredAt a n
  r.2.reply tk stOk (beBytes 8 mask ++ r.1)

def State.runThermal (s : State) (tk : Tok) : State :=
  s.reply tk stOk (beBytes 2 (s.get THM_STAT_TEMP_MAX)
    ++ [BitVec.ofNat 8 (s.get THM_STAT_STEP), BitVec.ofNat 8 (b2n s.onBackup)]
    ++ (List.range 30).flatMap (fun j => beBytes 2 ((s.peek (THM_T j).addr).toNat % 65536)))

def State.runSafety (s : State) (tk : Tok) : State :=
  s.reply tk stOk (s.words ([HSM_CFG.addr, HSM_STATUS.addr, HSM_CAUSE.addr, HSM_SIN.addr, (HSM_SPD 0).addr, (HSM_SPD 1).addr]
    ++ (List.range 4).map (fun n => (SCC_STAT n).addr)))

def State.capBase (s : State) : Nat := s.par 0x0200 * 65536

def State.runCaptureStart (s : State) (tk : Tok) (pay : List Byte) : State :=
  let n := payU pay 0 1
  let len := payU pay 4 4
  if s.capBase == 0 then s.reply tk stBadState
  else if s.par 0x0201 * 65536 < 2 * len then s.badParam tk 4
  else if s.get (CAP_STATUS_STATE n) != 0 || s.kcp.caps.any (fun c => !c.fin && c.tok.handle != tk.handle) then s.reply tk stHeld
  else
    let s := s.wr (CAP_CFG n) (BitVec.ofNat 32 (len % 65536 * 65536 + payU pay 3 1 * 256 + payU pay 2 1))
    let s := s.put (CAP_SRC_AD n) (payU pay 1 1)
    let l := s.kcp.caps.filter (fun c => !(c.fin && c.tok.handle == tk.handle))
    let s := s.setKcp { s.kcp with caps := l ++ [⟨n, tk, false, 0, false⟩] }
    let s := if payU pay 3 1 == 0xFF then s.capStart n else s
    s.reply tk stPending

/-- KP's DMA moves the words of a running capture from its FIFO to the buffer. -/
def State.capDrain (s : State) (c : CapReq) : State × CapReq :=
  if c.ran && !c.fin then
    let l := s.capFifo c.unit
    let s := (s.wrBytes (s.capBase + 2 * c.stored) (l.flatMap (fun (w : Word) => leBytes 2 w.toNat))).setCap c.unit []
    (s, { c with stored := c.stored + l.length })
  else (s, c)

def State.capDrainAll (s : State) : State :=
  let r := s.kcp.caps.foldl (fun (acc : State × List CapReq) c =>
    let (s, c) := acc.1.capDrain c
    (s, acc.2 ++ [c])) (s, [])
  r.1.setKcp { r.1.kcp with caps := r.2 }

/-- The capture of a unit has ended: the rest of its words, and the final reply. -/
def State.captureComplete (s : State) (n : Nat) : State :=
  if s.start.kp && s.pllA && (s.get (CAP_STATUS_STATE n) == 0 || s.get (CAP_STATUS_STATE n) == 3) then
    let s := s.capDrainAll
    match s.kcp.caps.find? (fun c => c.unit == n && c.ran && !c.fin) with
    | some c =>
      let l := s.kcp.caps.map (fun (d : CapReq) => if d == c then { d with fin := true } else d)
      let s := s.setKcp { s.kcp with caps := l.filter (fun d => !d.fin || s.valid d.tok.handle) }
      s.finalReply c.tok stOk (beBytes 4 c.stored ++ beBytes 4 (s.get (CAP_T0HI_T0 n)) ++ beBytes 4 (s.get (CAP_T0LO_T0 n))
        ++ [BitVec.ofNat 8 (s.get (CAP_STATUS_STATE n))])
    | none => s
  else s

def execCaptureComplete (unit : Fin 4) (s : State) : Res := .next (s.captureComplete unit.val)

def State.runCaptureRead (s : State) (tk : Tok) (pay : List Byte) : State :=
  let o := payU pay 0 4
  let n := payU pay 4 2
  match s.kcp.caps.reverse.find? (fun c => c.fin && c.tok.handle == tk.handle) with
  | none => s.reply tk stBadState
  | some c =>
    if 2 * c.stored < o + n then s.badParam tk 0
    else s.reply tk stOk (beBytes 4 o ++ s.rdBytes (s.capBase + o) n)

/-- FORCE_COLD: HOLD and the counts clear, and a cold start is due (R393, R466). -/
def State.runForceCold (s : State) (tk : Tok) : State :=
  if s.active 11 && (s.get MDM_HOLD_CAUSE == 2 || s.get MDM_HOLD_CAUSE == 3) then
    let s := s.reply tk stOk
    let s := (s.put AON_START_HOLD 0).put AON_START_FAILS 0
    s.setStart { s.start with trig := some 0 }
  else s.reply tk stBadState

/-! ### Actuators and charging (R394–R396) -/

/-- The pair rules for a sequence: with an inactive ACT also the denied pairs (R52, R58). -/
def State.seqPairs (s : State) (code : Nat) : Option Nat :=
  if s.active 6 then
    (s.others 6).findSome? (fun q => match s.pairRule 6 q code with
      | .refuse st => some st
      | _ => none)
  else s.pairRefusal 6 code (s.others 6)

/-- The plug policy refuses a sequence of actuator n; of the park lock only its release (R48). -/
def State.seqPlug (s : State) (n code : Nat) : Bool :=
  s.is MDM_PLUG_PLUG && s.policy (10 + 2 * n) != 0 && (n != 0 || code == 2)

def State.runActSeq (s : State) (tk : Tok) (pay : List Byte) : State :=
  let n := payU pay 0 1
  let code := payU pay 1 1
  match s.gateRefusal 6 false with
  | some st => s.refuse tk st
  | none =>
    if !s.modes.exitAct.isEmpty || s.osdBlocks (actMods n) || !s.isOn 12 then s.reply tk stBadState
    else if s.actRuns n then s.reply tk stHeld
    else if s.seqPlug n code then s.reply tk stBadState
    else match s.seqPairs code with
      | some st => s.reply tk st
      | none =>
        match s.seqRefusal n code with
        | some st => s.reply tk st
        | none =>
          let s := if s.active 6 then s else (s.enterInst 6).setOwner 6 (some tk.handle)
          (s.seqStart n code tk.handle).reply tk stOk

def State.runActAbort (s : State) (tk : Tok) (pay : List Byte) : State :=
  let n := payU pay 0 1
  let h := (s.actOf n).handle
  if !s.actRuns n then s.reply tk stBadState
  else if h != tk.handle && s.valid h then s.reply tk stHeld
  else (s.reply tk stOk).actEnd n 2

def State.runBattLimits (s : State) (tk : Tok) (pay : List Byte) : State :=
  if s.active 11 then s.safeState tk
  else
    let l (i : Nat) : Nat := min 0xFFFF (payU pay i 4 / 10)
    (s.batlimWrite (BitVec.ofNat 32 (l 0 * 65536 + l 4))).reply tk stOk

def State.runChgStatus (s : State) (tk : Tok) : State :=
  let v := s.vIn
  s.useFree.reply tk stOk (s.word MDM_PLUG.addr ++ beBytes 2 (s.get ADG_VDC_VDC) ++ beBytes 2 v
    ++ [1, 2, 3].flatMap (fun e => s.words [(LGE_GRANT e).addr, (LGE_STAT e).addr]))

/-! ### Logs (R397) -/

/-- A log as a ring: base, records, the next index, and the records from the oldest to the newest. -/
def State.logRing (s : State) (fault : Bool) : Nat × Nat × Nat × Nat :=
  if fault then (0x00100000, 32768, s.start.faultAt, s.start.faultCnt)
  else (0x21F80000, 4096, s.get EVL_STATUS_WRIDX, s.start.evlCnt)

def State.runLogRead (s : State) (tk : Tok) (pay : List Byte) : State :=
  let log := payU pay 0 1
  let (base, size, next, cnt) := s.logRing (log == 1)
  let oldest := (next + size - cnt) % size
  let st := if payU pay 4 4 == 0xFFFFFFFF then oldest else payU pay 4 4
  let pos := (st + size - oldest) % size
  let n := if size ≤ st then 0 else min (payU pay 2 2) (cnt - pos)
  let newest := if cnt == 0 then s.freeNat else (next + size - 1) % size
  (if cnt == 0 then s.useFree else s).reply tk stOk ([BitVec.ofNat 8 log, 0] ++ beBytes 2 n
    ++ beBytes 4 (if n == 0 then st else (st + n) % size) ++ beBytes 4 newest
    ++ (List.range n).flatMap (fun i => s.memBytes (base + (st + i) % size * 32) 32))

/-! ### Firmware (R398, R399, R467) -/

def State.bankOf (s : State) (b : Nat) : Bank := nth s.start.banks b ⟨false, 0, 0, false⟩
def State.setBank (s : State) (b : Nat) (x : Bank) : State := s.setStart { s.start with banks := s.start.banks.set b x }
def State.idleBank (s : State) : Nat := 1 - s.start.bank
def bankBase (b : Nat) : Nat := if b == 0 then 0x00200000 else 0x02000000

/-- Firmware transfers are withheld on the backup supply and at a high throttle step. -/
def State.fwThrottled (s : State) (tk : Tok) : Option State :=
  if s.is GDG_AGG_BACKUP || decide (4 ≤ s.get THM_STAT_STEP) then
    some (s.reply tk stThrottled ([BitVec.ofNat 8 (s.get THM_STAT_STEP), BitVec.ofNat 8 (b2n s.onBackup)] ++ beBytes 2 1024))
  else none

/-- The refusals that FW_BEGIN, FW_DATA and FW_END share: another session's update, and throttling. -/
def State.fwRefused (s : State) (tk : Tok) : Option State :=
  match s.kcp.fw with
  | some f => if f.handle != tk.handle then some (s.reply tk stHeld) else s.fwThrottled tk
  | none => s.fwThrottled tk

/-- FW_BEGIN opens an update; the one whose image is being verified is open until the final reply of its FW_END (DEDUCED). -/
def State.runFwBegin (s : State) (tk : Tok) (pay : List Byte) : State :=
  match s.fwRefused tk with
  | some t => t
  | none =>
    if s.kcp.fw.any (fun f => f.verify.isSome) then s.reply tk stHeld else
    let b := s.idleBank
    let s := s.setBank b { s.bankOf b with verified := false }
    (s.setKcp { s.kcp with fw := some ⟨tk.handle, payU pay 0 4, [], none⟩ }).reply tk stOk [BitVec.ofNat 8 b]

def State.runFwData (s : State) (tk : Tok) (pay : List Byte) : State :=
  match s.fwRefused tk, s.kcp.fw with
  | some t, _ => t
  | none, none => s.reply tk stBadState
  | none, some f =>
    let o := payU pay 0 4
    let d := pay.drop 4
    if f.len < o + d.length ∨ (d.length % 64 ≠ 0 ∧ o + d.length ≠ f.len) then s.badParam tk 4
    else
      let new := (List.range ((d.length + 63) / 64)).map (fun i => o / 64 + i)
      let s := s.wrBytes (bankBase s.idleBank + o) d
      (s.setKcp { s.kcp with fw := some { f with blocks := f.blocks.filter (fun x => !new.contains x) ++ new } }).reply tk stOk

def State.runFwEnd (s : State) (tk : Tok) : State :=
  match s.fwRefused tk, s.kcp.fw with
  | some t, _ => t
  | none, none => s.reply tk stBadState
  | none, some f =>
    if f.verify.isSome || f.blocks.length < (f.len + 63) / 64 then s.reply tk stBadState
    else (s.setKcp { s.kcp with fw := some { f with verify := some tk } }).reply tk stPending

/-- Verification of the inactive bank ends: ok says that keys and signatures pass; the epoch is compared with the floor. -/
def State.fwVerified (s : State) (ok prod : Bool) (version epoch : Nat) : State :=
  match s.kcp.fw with
  | some f =>
    match f.verify with
    | some tk =>
      let b := s.idleBank
      let pass := ok && decide (s.start.floor ≤ epoch)
      let s := s.setKcp { s.kcp with fw := none }
      if pass then (s.setBank b ⟨true, version, epoch, prod⟩).finalReply tk stOk
      else s.finalReply tk stVerifyFail [BitVec.ofNat 8 b]
    | none => s
  | none => s

def execFwVerifyDone (ok prod : Bool) (version : Word) (epoch : Fin 64) (s : State) : Res :=
  .next (if s.start.kp && s.pllA then s.fwVerified ok prod version.toNat epoch.val else s)

def State.runFwSelect (s : State) (tk : Tok) (pay : List Byte) : State :=
  let b := payU pay 0 1
  if (s.bankOf b).verified then (s.setStart { s.start with selected := b }).reply tk stOk else s.reply tk stBadState

def State.runFwInfo (s : State) (tk : Tok) : State :=
  let v (b : Nat) : Nat := (s.bankOf b).version
  s.reply tk stOk ([BitVec.ofNat 8 s.start.bank, BitVec.ofNat 8 s.start.selected,
    BitVec.ofNat 8 (b2n (s.bankOf 0).verified + 2 * b2n (s.bankOf 1).verified + 4 * b2n s.kcp.fw.isSome), 0]
    ++ beBytes 4 (v 0) ++ beBytes 4 (v 1))

/-! ### Execution -/

/-- What is due in the present tick and precedes a mode request sampled in it: a Badger stop demand and a plug debounce
(R39, R69). -/
def State.dueFirst (s : State) : State := s.badgerDue.plugDebounced

/-- What its target does with a standard request that has left its queue. While SST is active, C2 requests are refused but for the
exceptions of R55, which the mode requests and ACT_SEQ decide themselves. -/
def State.runOp (s : State) (tk : Tok) (pay : List Byte) : State :=
  let op := tk.op
  if op == 0x0201 then s.dueFirst.modeEnter (payU pay 0 1) tk
  else if op == 0x0202 then s.dueFirst.modeExit (payU pay 0 1) tk
  else if op == 0x0203 || op == 0x0603 then s.runStatus tk 0 0 (payU pay 0 1 == 1)
  else if op == 0x0401 then s.runCfgWrite tk pay
  else if op == 0x0402 then s.runCfgRead tk pay
  else if op == 0x0403 then s.runPolicyWrite tk pay
  else if op == 0x0404 then s.runPolicyRead tk pay
  else if op == 0x0501 then s.runOsdStart tk pay
  else if op == 0x0502 then s.runOsdResult tk
  else if op == 0x0503 then s.runStatus tk (payU pay 0 1) (payU pay 2 2) (payU pay 1 1 == 1)
  else if op == 0x0504 then s.runRegRead tk pay
  else if op == 0x0505 then s.runThermal tk
  else if op == 0x0506 then s.runSafety tk
  else if op == 0x0507 then s.runCaptureStart tk pay
  else if op == 0x0508 then s.runCaptureRead tk pay
  else if op == 0x0509 then s.runForceCold tk
  else if op == 0x0601 then s.dueFirst.runActSeq tk pay
  else if op == 0x0602 then s.runActAbort tk pay
  else if op == 0x0701 then s.runBattLimits tk pay
  else if op == 0x0702 then s.runChgStatus tk
  else if op == 0x0801 then s.runLogRead tk pay
  else if op == 0x0901 then s.runFwBegin tk pay
  else if op == 0x0902 then s.runFwData tk pay
  else if op == 0x0903 then s.runFwEnd tk
  else if op == 0x0904 then s.runFwSelect tk pay
  else if op == 0x0905 then s.runFwInfo tk
  else if op == 0x0A01 then s.runTimeGet tk
  else if op == 0x0A02 then s.runTimeDisc tk pay
  else if op == 0x0A03 then s.runTimeMaster tk pay
  else s

end Sys2Proof.Machine
end

