-- ==== Sys2Proof/Machine/KcpRx.lean ====
section
/-! DEFINITION. KP's reception of frames: sessions, sequence windows, reassembly, setpoints, class queues and customer mailboxes
(R354–R370, R384). -/

namespace Sys2Proof.Machine

/-- KP serves requests: its firmware runs and its clock is there. -/
def State.kpRuns (s : State) : Bool := s.start.kp && s.pllA && s.isOn 4

def tokOf (c : Nat) (x : Ctx) (op seq cls : Nat) : Tok := ⟨c * 256 + x.gen, x.tport, x.peer, x.ks, seq, op, cls, 0⟩

/-- A tagged answer that leaves the recorded status of its sequence as it is. -/
def State.answer (s : State) (tk : Tok) (status : Nat) (fields : List Byte := []) : State :=
  s.kpSend tk false tk.seq (beBytes 2 status ++ fields)

/-! ### C1 setpoints (R207, R365, R384) -/

def halfAddr (n slot half : Nat) : Nat := 0x30020000 + n * 0x40000 + 0x1FA00 + 0x80 * slot + 0x40 * half

def State.slotOf (s : State) (n slot : Nat) : CeSlot := nth (s.ceOf n).slots slot ⟨none, true, none, none⟩
def State.setSlot (s : State) (n slot : Nat) (x : CeSlot) : State :=
  s.setCe n { s.ceOf n with slots := (s.ceOf n).slots.set slot x }

/-- An untaken setpoint is withdrawn and answered. -/
def State.c1End (s : State) (c : C1Set) (status : Nat) : State :=
  let s := s.setSlot c.ce c.slot { s.slotOf c.ce c.slot with taken := true }
  (s.setKcp { s.kcp with c1 := s.kcp.c1.filter (fun d => d != c) }).finalReply c.tok status

/-- The VALID bit of an untaken setpoint clears; the setpoint is withdrawn once the control cycle in which that write lands has
passed without a CX.MBTAKE of it (R207). -/
def State.c1Drop (s : State) (c : C1Set) (status : Nat) : State :=
  let a := halfAddr c.ce c.slot c.half + 3
  let s := s.wrByte a (s.rdByte a &&& 0xFE)
  if s.ticking then
    s.setKcp { s.kcp with c1 := s.kcp.c1.map (fun d => if d == c then { d with drop := some (s.cyc, status) } else d) }
  else s.c1End c status

def State.c1DropAll (s : State) (p : C1Set → Bool) (status : Nat) : State :=
  (s.kcp.c1.filter (fun c => c.drop == none && p c)).foldl (fun s c => s.c1Drop c status) s

/-- Withdrawn setpoints whose control cycle has passed are answered. -/
def State.c1Settle (s : State) : State :=
  s.kcp.c1.foldl (fun s c =>
    match c.drop with
    | some (t, st) => if !s.ticking || t != s.cyc then s.c1End c st else s
    | none => s) s

/-- A later flip replaces untaken setpoints of its slot at once. -/
def State.c1Replace (s : State) (n slot : Nat) : State :=
  (s.kcp.c1.filter (fun c => c.ce == n && c.slot == slot)).foldl (fun s c =>
    s.c1End c (match c.drop with
      | some (_, st) => st
      | none => stSuperseded)) s

/-- The setpoint's sequence is older than the newest that its session has placed in the slot. -/
def State.c1Older (s : State) (tk : Tok) (key : Nat) : Bool :=
  match s.kcp.c1seq.find? (fun e => e.1 == tk.handle && e.2.1 == key) with
  | some (_, _, q) => decide (32768 ≤ seqDist q tk.seq)
  | none => false

/-- The instance that a setpoint addresses; SETPT_CHG addresses the active or pending one of ACH and V2G. -/
def State.c1Inst (s : State) (op : Nat) : Nat :=
  if op == 0x0306 && (s.active 4 || s.waiting 4) then 4 else (setptTarget op).1

/-- The checks of R384; the answer of the first that fails. -/
def State.c1Refusal (s : State) (tk : Tok) (pay : List Byte) : Option (Nat × List Byte) :=
  let i := s.c1Inst tk.op
  let w := f32Unpack (payU pay 0 4)
  if s.active 10 || s.active 11 then some (stSafeState, s.safeFields)
  else if s.heldBy i tk.handle then some (stHeld, [])
  else if !s.active i then some (stBadState, [])
  else if tk.op == 0x0306 && (if i == 4 then f32Cmp w (f32Nat 0) == 1 else f32Cmp w (f32Nat 0) == -1) then
    some (stBadParam, beBytes 2 0)
  else if tk.op == 0x0307 && s.is DCS_STAT_TRIPLAT then some (stFault, [])
  else none

/-- The half that KP writes: the one that the CE does not hold. -/
def writeHalf (x : CeSlot) : Nat :=
  match x.held, x.newest with
  | some h, _ => 1 - h
  | none, some h => if x.taken then 0 else h
  | none, none => 0

/-- A setpoint is checked, written and flipped; an untaken one in its half is superseded. -/
def State.setpoint (s : State) (tk : Tok) (pay : List Byte) (deadline : Option Nat) : State :=
  let (_, n, slot) := setptTarget tk.op
  match s.c1Refusal tk pay with
  | some (st, fields) => s.finalReply tk st fields
  | none =>
    if s.c1Older tk (n * 4 + slot) then s.finalReply tk stSuperseded
    else
      let half := writeHalf (s.slotOf n slot)
      let s := s.c1Replace n slot
      let s := s.wrBytes (halfAddr n slot half) (beBytes 2 tk.seq ++ [BitVec.ofNat 8 (tk.handle / 256), 1] ++ pay)
      let s := s.setSlot n slot { s.slotOf n slot with newest := some half, taken := false, flipAt := some s.cyc }
      let rest := s.kcp.c1seq.filter (fun e => !(e.1 == tk.handle && e.2.1 == n * 4 + slot))
      s.setKcp { s.kcp with c1 := s.kcp.c1 ++ [⟨n, slot, half, s.c1Inst tk.op, tk, deadline, none⟩],
                            c1seq := rest ++ [(tk.handle, n * 4 + slot, tk.seq)] }

/-- CX.MBTAKE of CE n on a slot: the address of the half taken, or 0; a flip of the same cycle is not seen yet (R207, R257). -/
def State.mbTake (s : State) (n slot : Nat) : Nat × State :=
  let x := s.slotOf n slot
  match x.newest with
  | some h =>
    if x.taken || x.flipAt == some s.cyc then (0, s)
    else
      let s := s.setSlot n slot { x with held := some h, taken := true }
      let a := 0x20000 + 0x1FA00 + 0x80 * slot + 0x40 * h
      match s.kcp.c1.find? (fun c => c.ce == n && c.slot == slot && c.half == h) with
      | some c =>
        let s := s.setKcp { s.kcp with c1 := s.kcp.c1.filter (fun d => d != c) }
        let s := s.setModes { s.modes with fed := s.modes.fed.set c.inst s.now }
        (a, match (s.ceOf n).lgLtd with
          | some (r, l) => s.finalReply c.tok stLimited ([BitVec.ofNat 8 r, 0] ++ beBytes 4 l)
          | none => s.finalReply c.tok stOk)
      | none => (a, s)
  | none => (0, s)

/-! ### Class queues (R364, R366, R367) -/

def qDepth (cls : Nat) : Nat := nth [64, 32, 32, 16] (cls - 2) 16

def State.qCap (s : State) (cls : Nat) : Nat :=
  let c := bitsOf (8 * (cls - 2) + 7) (8 * (cls - 2)) (s.rd KCP_QCAP).toNat
  if c == 0 || qDepth cls < c then qDepth cls else c

def State.queueOf (s : State) (cls : Nat) : List KReq := nth s.kcp.queues (cls - 2) []
def State.setQueue (s : State) (cls : Nat) (q : List KReq) : State :=
  s.setKcp { s.kcp with queues := s.kcp.queues.set (cls - 2) q }

/-- A request takes its place by arrival tick, then context index. -/
def queueInsert (r : KReq) : List KReq → List KReq
  | [] => [r]
  | x :: t =>
    if r.arrival < x.arrival ∨ (r.arrival = x.arrival ∧ r.tok.handle / 256 < x.tok.handle / 256) then r :: x :: t
    else x :: queueInsert r t

/-- QUEUE_FULL of a request that has not left a queue. -/
def State.queueRefuse (s : State) (tk : Tok) (reason hint : Nat) : State :=
  s.finalReply tk stQueueFull ([BitVec.ofNat 8 tk.cls, BitVec.ofNat 8 reason] ++ beBytes 2 (min 0xFFFF hint))

def State.enqueue (s : State) (r : KReq) : State :=
  let q := s.queueOf r.tok.cls
  if qDepth r.tok.cls ≤ q.length then s.queueRefuse r.tok 0 (s.hint r.tok.cls)
  else if s.qCap r.tok.cls ≤ (q.filter (fun x => x.tok.handle == r.tok.handle)).length then s.queueRefuse r.tok 1 (s.hint r.tok.cls)
  else s.setQueue r.tok.cls (queueInsert r q)

/-! ### Customer mailboxes (R370) -/

/-- The mailbox of a customer opcode whose entry and mailbox are enabled. -/
def State.custMbx (s : State) (op : Nat) : Option Nat :=
  let e := op / 256 % 16
  let w := bitsOf (4 * (e % 8) + 3) (4 * (e % 8)) (s.rd (KCP_CUSTMAP (e / 8))).toNat
  if bitOf 3 w && s.is (MBX_CFG_EN (w % 8)) then some (w % 8) else none

def reqSlot (m slot : Nat) : Nat := 0x70110000 + 0x8000 * m + 0x1000 * slot

/-- The message header as a request slot holds it: its fields little-endian. -/
def slotHeader (tk : Tok) (ms len : Nat) : List Byte :=
  [0xA5, 0x02] ++ leBytes 2 tk.handle ++ leBytes 2 tk.op ++ leBytes 2 tk.seq
  ++ [BitVec.ofNat 8 (tk.cls + 64 * b2n tk.ks.isSome), BitVec.ofNat 8 ms] ++ leBytes 2 len ++ [0, 0, 0, 0]

/-- A Paired or Voted core takes an interrupt at copy A (R311). -/
def State.threadIrq (s : State) (d src ev : Nat) : State :=
  let t := if s.scRedundant (d / 3) then d / 3 * 3 else d
  if d < 12 then s.irq (.thread t) src ev else s

/-- A customer request is placed in a mailbox slot. While SST or HLD is active a C2 request is refused (R55, R56). -/
def State.custPlace (s : State) (r : KReq) : State :=
  if r.tok.cls == 2 && (s.active 10 || s.active 11) then s.safeState r.tok
  else match s.custMbx r.tok.op with
  | none => s.reply r.tok stBadOpcode
  | some m =>
    match (List.range 4).find? (fun k => !s.kcp.mbx.any (fun e => e.mbx == m && e.slot == k)) with
    | none => s.queueFull r.tok 3 (s.hint (16 + m))
    | some k =>
      let ms := match r.deadline with
        | some d => (d - r.arrival) / 100000
        | none => 0
      let s := s.wrBytes (reqSlot m k) (slotHeader r.tok ms r.pay.length ++ leBytes 8 (r.arrival * 10) ++ leBytes 8 0 ++ r.pay)
      let s := s.putFldBit (MBX_REQ_PEND m) k true
      let s := s.setKcp { s.kcp with mbx := s.kcp.mbx ++ [⟨m, k, r.tok, s.tick⟩] }
      s.threadIrq (s.get (MBX_CFG_DEST m)) (0x70100000 + 0x20 * m) k

/-- The slots of a mailbox request are free. -/
def State.mbxFree (s : State) (e : MbxReq) : State :=
  (s.setKcp { s.kcp with mbx := s.kcp.mbx.filter (fun d => d != e) }).putFldBit (MBX_REQ_PEND e.mbx) e.slot false

/-- DONE of a slot: KP sends the reply. -/
def State.mbxDone (s : State) (m k : Nat) : State :=
  match s.kcp.mbx.find? (fun e => e.mbx == m && e.slot == k) with
  | none => s.inc (MBX_STAT_IGN_CNT m)
  | some e =>
    let a := reqSlot m k + 0x4000
    let len := leNat (s.rdBytes a 2)
    let s := ((s.mbxFree e).served (16 + m) e.since).served e.tok.cls e.tok.left
    if len < 2 ∨ 4064 < len then s.finalReply e.tok stFault
    else
      let pay := s.rdBytes (a + 32) len
      (s.record e.tok.handle e.tok.seq (payU pay 0 2)).kpSend e.tok false e.tok.seq pay

def State.mbxDoneWrite (s : State) (m : Nat) (v : Word) : State :=
  (setBits 4 v.toNat).foldl (fun s k => s.mbxDone m k) s

def State.mbxTimeout (s : State) (m k : Nat) : State :=
  match s.kcp.mbx.find? (fun e => e.mbx == m && e.slot == k) with
  | some e =>
    if s.kpRuns && decide (e.since + max 1 (s.get (MBX_CFG_TMO m)) * 1000000 ≤ s.tick) then
      (((s.mbxFree e).inc (MBX_STAT_TMO_CNT m)).served (16 + m) e.since).reply e.tok stLate
    else s
  | none => s

/-! ### Departure -/

/-- The request at the head of a class queue leaves it; one whose deadline has come is withdrawn. -/
def State.depart (s : State) (cls : Nat) : State :=
  match s.queueOf cls with
  | [] => s
  | r :: t =>
    let s := s.setQueue cls t
    if r.deadline.any (fun d => decide (d ≤ s.tick)) then s.finalReply r.tok stLate
    else
      let r := { r with tok := { r.tok with left := s.tick } }
      if 0xF000 ≤ r.tok.op then s.custPlace r else s.runOp r.tok r.pay

/-- The requests of a class leave up to the one with a handle and sequence; fuel bounds their number. -/
def State.departUpTo (s : State) (cls handle seq : Nat) : Nat → State
  | 0 => s
  | n + 1 =>
    match s.queueOf cls with
    | [] => s
    | r :: t =>
      if r.tok.handle == handle && r.tok.seq == seq then s.depart cls
      else if t.any (fun r => r.tok.handle == handle && r.tok.seq == seq) then (s.depart cls).departUpTo cls handle seq n
      else s

/-! ### Sessions (R356–R359) -/

/-- What ends with a session, or its lease (R358, R379, R392, R398). -/
def State.sessionEnd (s : State) (c : Nat) (closed : Bool) : State :=
  match s.ctxOf c with
  | none => s
  | some x =>
    let h := c * 256 + x.gen
    let s := s.setCtx c { x with gone := !closed, isOpen := !closed, subs := [] }
    let s := s.modesLeave h
    let s := [2, 3, 4, 5].foldl (fun s cls =>
      let q := s.queueOf cls
      ((q.filter (fun r => r.tok.handle == h)).map (fun r => r.tok)).foldl (fun s t => s.finalReply t stBadSession)
        (s.setQueue cls (q.filter (fun r => r.tok.handle != h)))) s
    let s := s.c1DropAll (fun e => e.tok.handle == h) stBadSession
    let s := match s.kcp.fw with
      | some f => if f.handle == h then (match f.verify with
          | some t => (s.setKcp { s.kcp with fw := none }).finalReply t stBadSession
          | none => s.setKcp { s.kcp with fw := none }) else s
      | none => s
    s.setKcp { s.kcp with caps := s.kcp.caps.filter (fun e => !(e.fin && e.tok.handle == h)),
                          reasm := s.kcp.reasm.filter (fun e => e.ctx != c),
                          c1seq := s.kcp.c1seq.filter (fun e => e.1 != h) }

/-- A context whose expiry tick has come. -/
def State.leaseDue (s : State) (c : Nat) : Bool :=
  match s.ctxOf c with
  | some x => x.live && decide (x.expiry ≤ s.tick)
  | none => false

def State.leaseExpire (s : State) (c : Nat) : State := if s.leaseDue c then s.sessionEnd c false else s

/-- Every lease whose expiry tick has come ends in that tick (R358). -/
def State.leasesDue (s : State) : State := (s.kcp.ctxs.map (fun e => e.1)).foldl (fun s c => s.leaseExpire c) s

/-- The context that OPEN allocates: the lowest free one, or else the expired one with the earliest expiry tick. -/
def State.allocate (s : State) : Option Nat :=
  match (List.range 256).find? (fun c => match s.ctxOf c with
    | some x => !x.isOpen
    | none => true) with
  | some c => some c
  | none =>
    (s.expiredCtxs.foldl (fun (b : Option (Nat × Nat)) e => match b with
      | some (c, t) => if e.2.expiry < t then some (e.1, e.2.expiry) else some (c, t)
      | none => some (e.1, e.2.expiry)) none).map (fun b => b.1)

/-- The fields of SESSION_TABLE_FULL; the spec gives no hint where no context is open. -/
def State.tableFields (s : State) : List Byte :=
  let l := s.openCtxs
  let hint := l.foldl (fun (m : Option Nat) e =>
    let t := (e.2.expiry - s.tick + 99999) / 100000
    some (match m with
      | some u => min u t
      | none => t)) none
  [1, 2, 3, 4, 5].flatMap (fun k => beBytes 2 (l.filter (fun e => bitOf k e.2.classes)).length)
  ++ beBytes 2 l.length ++ beBytes 2 s.unauthCtxs.length ++ beBytes 2 (match hint with
    | some t => min 0xFFFF t
    | none => s.freeNat)

/-- An answer outside every session. -/
def State.plain (s : State) (t peer handle op seq cls status : Nat) (fields : List Byte) : State :=
  let pay := beBytes 2 status ++ fields
  s.emit t peer (frames t none ⟨handle, op ||| 0x8000, seq, cls, false, false, true, pay.length⟩ (pay.length + 1) 0 pay)

/-- An OPEN request (R357): its header fields, whether its frame is tagged rightly with the slot's key, and its payload. -/
def State.openRequest (s : State) (t peer handle seq cls : Nat) (auth tagOk : Bool) (pay : List Byte) : State :=
  let slot := payU pay 0 1
  let cl := payU pay 1 1
  let lease := payU pay 2 2
  let nh := pay.drop 4
  let key := s.kcp.keys.find? (fun e => e.1 == slot)
  let plain (s : State) (st : Nat) (f : List Byte) : State := s.plain t peer handle 0x0101 seq cls st f
  let bad (o : Nat) : State := plain s stBadParam (beBytes 2 o)
  if (auth && !(key.isSome && tagOk)) || (!auth && !pay.isEmpty && decide (slot < 0xF)) then
    (s.inc KCP_ERR0_AUTHFAIL).untagged t peer handle 0x0101 seq cls stAuthFail []
  else if pay.length != 20 || handle != 0 || cls != 0 then bad 0xFFFF
  else if 0xF < slot then bad 0
  else if cl &&& 0xC1 != 0 then bad 1
  else if lease < 100 ∨ 60000 < lease then bad 2
  else if ((s.kcp.nhs.filter (fun e => e.1 == slot)).take 256).any (fun e => e.2 == nh) then
    plain (s.inc KCP_ERR0_SEQREPLAY) stSeqReplay (beBytes 2 0xFFFF)
  else
    match (if slot == 0xF && decide (s.get KCP_CFG_UNAUTH_MAX ≤ s.unauthCtxs.length) then none else s.allocate) with
    | none => plain (if s.openCtxs.isEmpty then s.useFree else s) stTableFull s.tableFields
    | some c =>
      let old := match s.ctxOf c with
        | some x => x.gen
        | none => s.freeNat % 255 + 1
      let s := if (s.ctxOf c).isNone then s.useFree else s
      let gen := if old == 255 then 1 else old + 1
      let h := c * 256 + gen
      let nd := (List.range 4).flatMap (fun i => beBytes 4 (Config.freeWord (s.fresh + i)).toNat)
      let s := s.setFresh (s.fresh + 4)
      let mask := match key with
        | some (_, _, m) => m
        | none => 2 * s.get KCP_CFG_UNAUTH_CLS
      let granted := (cl &&& mask) &&& 0x3E
      let ks := key.map (fun k => sessionKey k.2.1 nh nd h)
      let x : Ctx := ⟨gen, true, false, t, peer, slot, ks, granted + 1, lease, s.tick + lease * 100000, seq, [(seq, stOk)], 1, false, []⟩
      let mine := (s.kcp.nhs.filter (fun e => e.1 == slot)).take 255
      let s := (s.setCtx c x).setKcp { (s.setCtx c x).kcp with nhs := (slot, nh) :: mine ++ s.kcp.nhs.filter (fun e => e.1 != slot) }
      s.answer (tokOf c x 0x0101 seq 0) stOk (beBytes 2 h ++ beBytes 2 lease ++ nd ++ [BitVec.ofNat 8 granted, 0])

/-- CLOSE: its effects, and then its reply (R358). -/
def State.closeSession (s : State) (tk : Tok) : State :=
  (s.sessionEnd (tk.handle / 256) true).finalReply tk stOk

/-- RENEW: the lease in effect from now on. -/
def State.renew (s : State) (tk : Tok) (pay : List Byte) : State :=
  match s.ctxOf (tk.handle / 256) with
  | some x =>
    let l := if payU pay 0 2 == 0 then x.lease else payU pay 0 2
    (s.setCtx (tk.handle / 256) { x with lease := l, expiry := s.tick + l * 100000 }).finalReply tk stOk (beBytes 2 l)
  | none => s

/-! ### Admission and dispatch (R361–R364) -/

def State.authFail (s : State) (tk : Tok) : State := (s.inc KCP_ERR0_AUTHFAIL).answer tk stAuthFail

/-- The class checks of R363 and the keyed opcodes of R378; none where they pass. -/
def State.classRefusal (s : State) (x : Ctx) (tk : Tok) : Option State :=
  if 6 ≤ tk.cls then some (s.answer tk stBadParam (beBytes 2 0xFFFF))
  else if !bitOf tk.cls x.classes then some (s.authFail tk)
  else if opKeyed tk.op && x.slot == 0xF then some (s.authFail tk)
  else none

def State.replay (s : State) (tk : Tok) (st : Nat) : State :=
  (s.inc KCP_ERR0_SEQREPLAY).answer tk stSeqReplay (beBytes 2 st)

/-- A new sequence is marked seen with status 0x0001, and the lease is renewed. -/
def State.markSeen (s : State) (c h seq : Nat) (x : Ctx) : State :=
  s.setCtx c { x with h := h, seen := (seq, stPending) :: pruneSeen h x.seen, expiry := s.tick + x.lease * 100000 }

/-- The window of R362: the state after it, and whether the message passes. -/
def State.window (s : State) (c : Nat) (x : Ctx) (tk : Tok) : State × Bool :=
  let d := seqDist x.h tk.seq
  if 1 ≤ d ∧ d ≤ 32767 then (s.markSeen c tk.seq tk.seq x, true)
  else if d == 0 || decide (65473 ≤ d) then
    match lookupKey tk.seq x.seen with
    | some st => (s.replay tk st, false)
    | none => (s.markSeen c x.h tk.seq x, true)
  else (s.replay tk 0xFFFF, false)

/-- The checks of a message's opcode and class, once its sequence has passed. -/
def State.opRefusal (s : State) (tk : Tok) : Option (Nat × List Byte) :=
  if s.is SYSC_BOOT_RECOV && !opRecovery tk.op then some (stBadOpcode, [])
  else if 0xF000 ≤ tk.op then
    (if (s.custMbx tk.op).isNone then some (stBadOpcode, [])
     else if tk.cls < 2 then some (stBadParam, beBytes 2 0xFFFF) else none)
  else match opClass tk.op with
    | none => some (stBadOpcode, [])
    | some k => if k == tk.cls then none else some (stBadParam, beBytes 2 0xFFFF)

/-- A complete message: its arrival is logged, its payload checked, and it goes to its target by class. -/
def State.dispatch (s : State) (tk : Tok) (pay : List Byte) (ms : Nat) : State :=
  let s := (s.log 10 (tk.handle / 256) (s.freeNat % 256)).useFree
  let dl := if ms == 0 then none else some (s.tick + ms * 100000)
  if 0xF000 ≤ tk.op then
    (if 4064 < pay.length then s.finalReply tk stBadParam (beBytes 2 0xFFFF) else s.enqueue ⟨tk, s.tick, dl, pay⟩)
  else match s.checkParams tk.op pay with
    | some o => s.finalReply tk stBadParam (beBytes 2 o)
    | none =>
      if tk.cls == 0 then (if tk.op == 0x0102 then s.closeSession tk else s.renew tk pay)
      else if tk.cls == 1 then s.setpoint tk pay dl
      else s.enqueue ⟨tk, s.tick, dl, pay⟩

/-- A request of a session as a command: the checks of R363 after the tag, its queue, and its execution. -/
def State.request (s : State) (op cls : Nat) (q : Req) : State :=
  let c := q.ctx.val
  if !s.kpRuns then s
  else if s.leaseDue c then s.leaseExpire c
  else match s.ctxOf c with
  | some x =>
    if !x.live then s
    else
      let tk := tokOf c x op q.seq.toNat cls
      match s.classRefusal x tk with
      | some t => t
      | none =>
        let (s, ok) := s.window c x tk
        if !ok then s
        else match s.opRefusal tk with
          | some (st, f) => s.finalReply tk st f
          | none =>
            let s := s.dispatch tk q.pay 0
            if 2 ≤ cls then s.departUpTo cls tk.handle tk.seq 64 else s
  | none => s

/-! ### Frames (R351–R354, R361) -/

/-- A received frame's header and data. -/
structure RxFrame where
  handle : Nat
  op : Nat
  seq : Nat
  cls : Nat
  more : Bool
  auth : Bool
  ms : Nat
  len : Nat
  off : Nat
  data : List Byte
  signed : List Byte        -- header and data, as the tag covers them
  tag : List Byte
  deriving DecidableEq, Repr

/-- The largest frame of a transport. -/
def frameMax (t : Nat) : Nat := if t < 3 then 1472 else if t < 7 then 64 else if t < 11 then 2048 else 4120

/-- The frame's fields; its data ends where its header says (R354). -/
def kcpFrame (t : Nat) (f : List Byte) : RxFrame :=
  let u := fun i n => payU f i n
  let more := bitOf 5 (u 8 1)
  let auth := bitOf 6 (u 8 1)
  let n := if more then dataCap t auth else u 10 2 - u 12 2
  ⟨u 2 2, u 4 2, u 6 2, u 8 1 % 8, more, auth, u 9 1, u 10 2, u 12 2, (f.drop 16).take n, f.take (16 + n),
   (f.drop (16 + n)).take (if auth then 8 else 0)⟩

/-- The frame is as long as its header says. -/
def RxFrame.complete (t : Nat) (r : RxFrame) : Bool :=
  r.data.length == (if r.more then dataCap t r.auth else r.len - r.off) && r.tag.length == (if r.auth then 8 else 0)

/-- OFFSET, LENGTH and MORE agree. -/
def RxFrame.fits (t : Nat) (r : RxFrame) : Bool :=
  decide (r.len ≤ 4096) && decide (r.off ≤ r.len) && decide (r.data.length ≤ dataCap t r.auth)
  && (if r.more then decide (r.off + r.data.length < r.len) else r.off + r.data.length == r.len)

def rxHdr (r : RxFrame) : List Byte := (r.signed.take 12).set 8 ((nth r.signed 8 0) &&& 0xDF)

/-- A message in reassembly ends with BAD_PARAM. -/
def State.reasmEnd (s : State) (m : Reasm) (tk : Tok) : State :=
  (s.setKcp { s.kcp with reasm := s.kcp.reasm.filter (fun d => d != m) }).finalReply tk stBadParam (beBytes 2 0xFFFF)

/-- The payload of a message all of whose frames are held. -/
def reasmPayload (m : Reasm) (len : Nat) : Option (List Byte) :=
  let total := m.parts.foldl (fun n p => n + p.2.1.length) 0
  if total == len && m.parts.any (fun p => !p.2.2) then
    some (m.parts.foldl (fun acc p => spliceAt p.1 p.2.1 acc) (List.replicate len 0))
  else none

/-- Two parts overlap at different offsets. -/
def partsClash (o : Nat) (d : List Byte) (p : Nat × List Byte × Bool) : Bool :=
  p.1 != o && decide (o < p.1 + p.2.1.length) && decide (p.1 < o + d.length)

/-- A frame joins its message, which goes on when it is complete. -/
def State.reasmAdd (s : State) (m : Reasm) (tk : Tok) (t : Nat) (r : RxFrame) : State :=
  if rxHdr r != m.hdr || !r.fits t || m.parts.any (fun p => partsClash r.off r.data p) then s.reasmEnd m tk
  else
    let m' := { m with parts := m.parts.filter (fun p => p.1 != r.off) ++ [(r.off, r.data, r.more)] }
    match reasmPayload m' r.len with
    | some pay => (s.setKcp { s.kcp with reasm := s.kcp.reasm.filter (fun d => d != m) }).dispatch tk pay r.ms
    | none => s.setKcp { s.kcp with reasm := s.kcp.reasm.map (fun d => if d == m then m' else d) }

/-- The message in reassembly on context c with a sequence. -/
def State.reasmOf (s : State) (c seq : Nat) : Option Reasm := s.kcp.reasm.find? (fun m => m.ctx == c && payU m.hdr 6 2 == seq)

/-- The first frame of a message whose sequence has just been marked seen. -/
def State.firstFrame (s : State) (c t : Nat) (tk : Tok) (r : RxFrame) : State :=
  match s.opRefusal tk with
  | some (st, f) => s.finalReply tk st f
  | none =>
    if !r.fits t then s.finalReply tk stBadParam (beBytes 2 0xFFFF)
    else if r.off == 0 && !r.more then s.dispatch tk r.data r.ms
    else if 16 ≤ s.kcp.reasm.length then s.queueRefuse tk 2 s.reasmHint
    else s.setKcp { s.kcp with reasm := s.kcp.reasm ++ [⟨c, rxHdr r, [(r.off, r.data, r.more)], s.tick⟩] }

/-- A frame of an open session (R363). -/
def State.sessionFrame (s : State) (t peer : Nat) (r : RxFrame) : State :=
  let c := r.handle / 256
  let s := s.leaseExpire c
  let early (s : State) (st : Nat) : State := s.untagged t peer r.handle r.op r.seq r.cls st []
  match s.session r.handle with
  | none => early s stBadSession
  | some x =>
    if x.tport != t || x.peer != peer then early s stBadSession
    else if r.auth != x.ks.isSome || !(match x.ks with
        | some k => tag8 k r.signed == r.tag
        | none => true) then early (s.inc KCP_ERR0_AUTHFAIL) stAuthFail
    else
      let tk := tokOf c x r.op r.seq r.cls
      match s.classRefusal x tk with
      | some u => u
      | none =>
        match s.reasmOf c r.seq with
        | some m => s.reasmAdd m tk t r
        | none =>
          let (s, ok) := s.window c x tk
          if ok then s.firstFrame c t tk r else s

/-- A frame from a peer on a transport: 0 ETH0, 1 ETH1, 2 T1S0, 3–6 CAN FD, 7–10 CAN XL, 11 HSPI. -/
def State.kpReceive (s : State) (t peer : Nat) (f : List Byte) : State :=
  let b := payU f 8 1
  let open' := !(decide (3 ≤ t) && decide (t < 11)) || s.is (KCP_CAN_EN ((t - 3) % 4))
  if !s.kpRuns || !open' || f.length < 16 || frameMax t < f.length || (s.is SYSC_BOOT_RECOV && t != 11) then s
  else if payU f 0 1 != 0xA5 || bitOf 7 b || bitOf 4 b || bitOf 3 b || payU f 14 2 != 0 then s.inc KCP_ERR1_BADHDR
  else
    let r := kcpFrame t f
    if payU f 1 1 != 2 then s.untagged t peer r.handle r.op r.seq r.cls stBadParam (beBytes 2 0xFFFF)
    else if !r.complete t then s
    else if r.op == 0x0101 then
      let ok := match s.kcp.keys.find? (fun e => e.1 == payU r.data 0 1) with
        | some (_, k, _) => tag8 k r.signed == r.tag
        | none => false
      s.openRequest t peer r.handle r.seq r.cls r.auth ok (if r.more || r.off != 0 then [] else r.data)
    else s.sessionFrame t peer r

end Sys2Proof.Machine
end

