-- ==== Sys2Proof/Machine/Can.lean ====
section
/-! DEFINITION. The CAN controllers: bus access, reception, transmission, errors, bus-off and the time master (R401–R415). -/

namespace Sys2Proof.Machine

def State.canClocked (s : State) : Bool := s.isOn 13 && s.pllA

/-! ### Error states (R412, R414) -/

/-- CANn_ECR's counts. A count beyond its field, and TEC in bus-off, have no stated reading. -/
def State.canEcr (s : State) (n : Nat) : State :=
  let c := s.canOf n
  let s := if c.recv ≤ 127 then s.put (CAN_ECR_REC n) c.recv else (s.put (CAN_ECR_REC n) s.freeNat).useFree
  if c.tec ≤ 255 then s.put (CAN_ECR_TEC n) c.tec else (s.put (CAN_ECR_TEC n) s.freeNat).useFree

/-- Bus-off is entered; with ABO = 1 the recovery count starts at once. -/
def State.canBusOff (s : State) (n : Nat) : State :=
  let s := ((s.put (CAN_ECR_STATE n) (if s.is (CAN_CTRL_ABO n) then 3 else 2)).inc (CAN_CNT2_BUSOFF_CNT n)).canFlag n 3
  let s := s.setCan n { s.canOf n with att := none }
  if s.is (CAN_CTRL_BOABT n) then s.canEndAll n 7 else s

/-- The counters have changed: the error state follows. -/
def State.canErr (s : State) (n tec recv : Nat) : State :=
  let s := (s.setCan n { s.canOf n with tec := tec, recv := recv }).canEcr n
  let st := s.get (CAN_ECR_STATE n)
  if 2 ≤ st then s
  else if 255 < tec then s.canBusOff n
  else if 128 ≤ tec ∨ 128 ≤ recv then (if st == 1 then s else (s.put (CAN_ECR_STATE n) 1).canFlag n 2)
  else s.put (CAN_ECR_STATE n) 0

/-- A receive error raises REC; restricted operation and monitoring leave the counters. -/
def State.canRxError (s : State) (n k : Nat) : State :=
  let c := s.canOf n
  if c.mode == 0 then s.canErr n c.tec (c.recv + k) else s

/-- A frame received without error: REC falls by 1, or from above 127 to a value of 119 to 127. -/
def State.canRxGood (s : State) (n : Nat) : State :=
  let c := s.canOf n
  if c.mode == 0 then
    (if 127 < c.recv then (s.canErr n c.tec (119 + s.freeNat % 9)).useFree else s.canErr n c.tec (c.recv - 1))
  else s

/-! ### INIT and the configuration (R403, R404) -/

/-- The controller goes to INIT: pending transmissions are cancelled. -/
def State.canInit (s : State) (n : Nat) : State :=
  let s := (s.put (CAN_CTRL_INIT n) 1).canEndAll n 3
  s.setCan n { s.canOf n with live := 0, stopAt := false, att := none, txb := none, mode := min 2 (s.get (CAN_CTRL_OPMODE n)) }

/-- The end of a frame: a write of INIT = 1 that waited for it takes effect. -/
def State.canFrameEnd (s : State) (n : Nat) : State := if (s.canOf n).stopAt then s.canInit n else s

/-- KP firmware writes its filter before the controller leaves INIT (R353, R406). -/
def State.canKpSetup (s : State) (n : Nat) : State :=
  if s.is (KCP_CAN_EN n) then
    let b := s.get (KCP_CAN_RQBASE n)
    let s := s.wr (CAN_FLT_A n 56) (BitVec.ofNat 32 (2 ^ 31 + 2 * 2 ^ 29 + b))
    let s := s.wr (CAN_FLT_B n 56) (BitVec.ofNat 32 (2 ^ 30 + b + 15))
    [57, 58, 59, 60, 61, 62, 63].foldl (fun s m => s.wr (CAN_FLT_A n m) 0) s
  else s

def State.canLeaveInit (s : State) (n : Nat) : State :=
  if s.canBadArea n then s.canFlag n 8
  else
    let s := (s.put (CAN_CTRL_INIT n) 0).canKpSetup n
    s.setCan n { s.canOf n with live := 1, mode := min 2 (s.get (CAN_CTRL_OPMODE n)) }

/-- The recovery count starts in bus-off. -/
def State.canRecover (s : State) (n : Nat) : State :=
  if s.get (CAN_ECR_STATE n) == 2 then s.put (CAN_ECR_STATE n) 3 else s

/-- A write of CANn_CTRL; busy: a frame is in progress. Outside INIT a write that would change a guarded field leaves it and
sets CFGIGN. -/
def State.canCtrlWrite (s : State) (n : Nat) (v : Word) (busy : Bool) : State :=
  let w := v.toNat
  let old := (s.rd (CAN_CTRL n)).toNat
  let init := s.is (CAN_CTRL_INIT n)
  let s := if init then s.wr (CAN_CTRL n) (BitVec.ofNat 32 (putBits 28 21 old (bitsOf 28 21 w)))
    else if bitsOf 28 21 old != bitsOf 28 21 w then s.canFlag n 7 else s
  let s := (s.put (CAN_CTRL_OPMODE n) (bitsOf 30 29 w)).put (CAN_CTRL_DMAEN n) (bitsOf 20 20 w)
  let s := if s.get (CAN_CTRL_DMAF n) == bitsOf 19 19 w then s
    else (s.put (CAN_CTRL_DMAF n) (bitsOf 19 19 w)).setCan n { s.canOf n with rxw := 0 }
  let s := if bitOf 18 w then s.canRecover n else s
  if bitOf 31 w && !init then (if busy then s.setCan n { s.canOf n with stopAt := true } else s.canInit n)
  else if !bitOf 31 w && init then s.canLeaveInit n
  else s

/-- A write to another register of controller n's configuration: only in INIT, and of KP's filters not by SC threads. -/
def State.canCfgWrite (s : State) (ini : Initiator) (n a : Nat) (v : Word) : State :=
  let o := a % 0x1000
  if decide (0x2C0 ≤ o) && decide (o < 0x300) && s.is (KCP_CAN_EN n) && !firmware ini then s
  else if s.is (CAN_CTRL_INIT n) then s.fieldWrite a v
  else s.canFlag n 7

/-- A write to a register of the CAN window. -/
def State.canWrite (s : State) (ini : Initiator) (a : Nat) (v : Word) : State :=
  let n := (a - 0x60000000) / 0x1000
  let o := a % 0x1000
  if 4 ≤ n then s.fieldWrite a v
  else if o == 0 then s.canCtrlWrite n v (s.canOf n).att.isSome
  else if o < 0x14 ∨ (0x100 ≤ o ∧ o < 0x300) then s.canCfgWrite ini n a v
  else if o == 0x24 then s.canTxReq n v false
  else if o == 0x2C then s.canTxCncl n v false
  else if o == 0x40 || o == 0x44 then s.canRxfWrite n ((o - 0x40) / 4) v
  else if o == 0x84 then s.canTxWrite n v false
  else s.fieldWrite a v

def execCanInitSet (ini : Initiator) (n : Fin 4) (val : Word) (busy : Bool) (s : State) : Res :=
  .next (s.busWrite ini (CAN_CTRL n.val).addr (fun s => s.canCtrlWrite n.val (val ||| 0x80000000) busy))

def execCanInitClear (ini : Initiator) (n : Fin 4) (val : Word) (s : State) : Res :=
  .next (s.busWrite ini (CAN_CTRL n.val).addr (fun s => s.canCtrlWrite n.val (val &&& 0x7FFFFFFF) false))

def execCanBusIntegration (n : Fin 4) (s : State) : Res :=
  .next (if s.canClocked && (s.canOf n.val).live == 1 then s.setCan n.val { s.canOf n.val with live := 2 } else s)

def execCanRecover (ini : Initiator) (n : Fin 4) (val : Word) (s : State) : Res :=
  .next (s.busWrite ini (CAN_CTRL n.val).addr (fun s => s.canCtrlWrite n.val (val ||| 0x40000) (s.canOf n.val).att.isSome))

def execCanBusoffRecovered (n : Fin 4) (s : State) : Res :=
  .next (if s.canClocked && s.canEnabled n.val && s.get (CAN_ECR_STATE n.val) == 3 then
    (s.put (CAN_ECR_STATE n.val) 0).canErr n.val 0 0 else s)

def execCanOpmodeChange (n : Fin 4) (s : State) : Res :=
  .next (if s.canClocked && s.canEnabled n.val && (s.canOf n.val).att == none then
    s.setCan n.val { s.canOf n.val with mode := min 2 (s.get (CAN_CTRL_OPMODE n.val)) } else s)

/-! ### Reception (R405–R408) -/

/-- Filter m matches the frame. -/
def State.canMatch (s : State) (n : Nat) (f : CanFrame) (m : Nat) : Bool :=
  let id := f.id.toNat
  let fid := s.get (CAN_FLT_A_FID n m)
  let mask := s.get (CAN_FLT_B_MASK n m)
  s.is (CAN_FLT_A_EN n m) && s.is (CAN_FLT_B_XTD n m) == f.xtd
  && (if s.is (CAN_FLT_B_TYPE n m) then decide (fid ≤ id) && decide (id ≤ mask) else (id ^^^ fid) &&& mask == 0)

/-- The first enabled filter that matches. -/
def State.canFilter (s : State) (n : Nat) (f : CanFrame) : Option Nat := (List.range 64).find? (fun m => s.canMatch n f m)

/-- The header of a received frame's element. -/
def canHeader (f : CanFrame) (idx stamp : Nat) (trunc : Bool) : List Byte :=
  leBytes 4 (b2n f.esi * 2 ^ 31 + b2n f.rtr * 2 ^ 30 + b2n f.xtd * 2 ^ 29 + f.id.toNat)
  ++ leBytes 4 (f.fmt.val * 2 ^ 30 + b2n f.brs * 2 ^ 29 + b2n f.sec * 2 ^ 28 + f.data.length % 4096 * 2 ^ 16 + f.sdt.toNat * 256
      + f.vcid.toNat)
  ++ leBytes 4 f.af.toNat ++ leBytes 4 (idx + 256 * b2n trunc) ++ leBytes 8 stamp ++ leBytes 8 0

/-- A frame is stored in FIFO k, or lost. -/
def State.canStore (s : State) (n k idx sof : Nat) (f : CanFrame) : State :=
  let nf := s.canNf n k
  let full := decide (nf ≤ s.get (CAN_RXF_FILL n k))
  let s := if full then s.inc (CAN_RXF_LOST n k) else s
  if full && (nf == 0 || !s.is (CAN_RXF_OVWR n k)) then s
  else
    let s := if full then s.canPop n k else s
    let trunc := decide (s.canCap n < f.data.length)
    let put := s.get (CAN_RXF_PUT n k)
    let s := s.wrBytes (s.canRxElem n k put) (canHeader f idx (sof * 10 % 2 ^ 64) trunc ++ f.data.take (s.canCap n))
    let s := (s.put (CAN_RXF_PUT n k) (incMod put nf)).put (CAN_RXF_FILL n k) (s.get (CAN_RXF_FILL n k) + 1)
    let s := s.canFlag n 0
    if trunc then s.canFlag n 6 else s

/-- KP takes a frame of FIFO2: FD frames, and XL frames with the SDT of KCP, of a host's request identifier (R353). -/
def State.canKp (s : State) (n : Nat) (f : CanFrame) : State :=
  let h := f.id.toNat - s.get (KCP_CAN_RQBASE n)
  if s.is (KCP_CAN_EN n) && !f.xtd && decide (s.get (KCP_CAN_RQBASE n) ≤ f.id.toNat) && decide (h < 16)
      && decide (f.data.length ≤ s.canCap n) then
    if f.fmt.val == 1 then s.kpReceive (3 + n) h f.data
    else if f.fmt.val == 2 && f.sdt.toNat == s.get (KCP_CAN_SDT n) then s.kpReceive (7 + n) h f.data
    else s
  else s

/-- The frame is one that the controller's formats make valid. -/
def State.canValid (s : State) (n : Nat) (f : CanFrame) : Bool :=
  let l := f.data.length
  if f.fmt.val == 0 then decide (l ≤ 8) && (!f.rtr || l == 0)
  else if f.fmt.val == 1 then s.is (CAN_CTRL_FDEN n) && !f.rtr && decide (l ≤ 64) && fdLength l == l
  else s.is (CAN_CTRL_XLEN n) && !f.rtr && !f.xtd && decide (1 ≤ l) && decide (l ≤ 2048)

/-- A valid frame of another node has been received. -/
def State.canReceive (s : State) (n : Nat) (f : CanFrame) (sof : Nat) : State :=
  if s.canClocked && (s.canOf n).live == 2 && decide (s.get (CAN_ECR_STATE n) < 2) && s.canValid n f then
    let s := s.canRxGood n
    let s := match s.canFilter n f with
      | some m =>
        let act := s.get (CAN_FLT_A_ACT n m)
        if act < 2 then s.canStore n act m sof f else if act == 2 then s.canKp n f else s
      | none => if s.is (CAN_CTRL_NOMATCH n) then s else (s.canStore n 0 (s.freeNat % 64) sof f).useFree
    s.canFrameEnd n
  else s

def execCanFrameReceive (n : Fin 4) (f : CanFrame) (sof : Nat) (s : State) : Res := .next (s.canReceive n.val f sof)

def execCanReceiveError (n : Fin 4) (eight : Bool) (s : State) : Res :=
  .next (if s.canClocked && (s.canOf n.val).live == 2 && decide (s.get (CAN_ECR_STATE n.val) < 2) then
    (s.canRxError n.val (if eight then 8 else 1)).canFrameEnd n.val else s)

def execCanRxfGet (ini : Initiator) (n : Fin 4) (k : Fin 2) (val : Word) (s : State) : Res :=
  .next (s.busWrite ini (CAN_RXF n.val k.val).addr (fun s => s.canRxfWrite n.val k.val val))

/-- A read that passes the bus: f is what it does in its block. -/
def State.busRead (s : State) (i : Initiator) (a : Nat) (f : State → State) : State :=
  if !s.answers i a then s else if s.busOk i a false then f s else s.busError i a

def execCanRxdmaRead (ini : Initiator) (n : Fin 4) (s : State) : Res :=
  .next (s.busRead ini (CAN_RXDMA n.val).addr (fun s => (s.canRxRead n.val).2))

/-! ### Transmission (R408–R413) -/

def execCanTxdmaWrite (ini : Initiator) (n : Fin 4) (val : Word) (sof : Bool) (s : State) : Res :=
  .next (s.busWrite ini (CAN_TXDMA n.val).addr (fun s => s.canTxWrite n.val val sof))

def execCanTxreq (ini : Initiator) (n : Fin 4) (val : Word) (sof : Bool) (s : State) : Res :=
  .next (s.busWrite ini (CAN_TXREQ n.val).addr (fun s => s.canTxReq n.val val sof))

def execCanTxcncl (ini : Initiator) (n : Fin 4) (val : Word) (sof : Bool) (s : State) : Res :=
  .next (s.busWrite ini (CAN_TXCNCL n.val).addr (fun s => s.canTxCncl n.val val sof))

/-- The frame that buffer b holds. -/
def State.canFrameOf (s : State) (n b : Nat) : CanFrame :=
  let a := s.canTxElem n b
  let w0 := (s.rdMem32 a).toNat
  let w1 := (s.rdMem32 (a + 4)).toNat
  ⟨BitVec.ofNat 29 w0, bitOf 29 w0, bitOf 30 w0, bitOf 31 w0, ⟨min 2 (bitsOf 31 30 w1), by omega⟩, bitOf 29 w1, bitOf 28 w1,
   BitVec.ofNat 8 (w1 / 256), BitVec.ofNat 8 w1, s.rdMem32 (a + 8), s.rdBytes (a + 32) (min (bitsOf 27 16 w1) (s.canCap n))⟩

def State.canOneshot (s : State) (n b : Nat) : Bool := bitOf 0 (s.rdMem32 (s.canTxElem n b + 12)).toNat

/-- The time master's frame that is due: the reference, or its follow-up. -/
def State.tmFrame (s : State) : CanFrame :=
  let follow := s.canTm.due == some true
  ⟨BitVec.ofNat 29 (s.get CANG_TMID_ID + b2n follow), s.is CANG_TMID_XTD, false, false, 0, false, false, 0, 0, 0,
   BitVec.ofNat 8 (s.get CANG_TMSTAT_CYC) :: (if follow then beBytes 7 s.canTm.ref else beBytes 7 0)⟩

def State.canSent (s : State) (n : Nat) (f : CanFrame) : State :=
  s.setCanTm { s.canTm with sent := s.canTm.sent ++ [(n, f)] }

/-- The time master's frame has been sent: after a reference its follow-up is due. -/
def State.tmSent (s : State) (n sof : Nat) : State :=
  let f := s.tmFrame
  let s := s.canSent n f
  s.setCanTm (match s.canTm.due with
    | some false => { s.canTm with due := some true, ref := (sof * 10 + s.tbOffset) % 2 ^ 64 }
    | _ => { s.canTm with due := none })

/-- An application buffer's attempt has ended. -/
def State.canBufEnd (s : State) (n b : Nat) (res : CanEnd) : State :=
  let late := bitOf b (s.canOf n).late
  let once := s.canOneshot n b || s.is (CAN_CTRL_DAR n)
  match res with
  | .done => (s.canSent n (s.canFrameOf n b)).canEndBuf n b (if late then 2 else 1)
  | .lost => if late then s.canEndBuf n b 4 else if once then s.canEndBuf n b 6 else s
  | .err _ _ _ => if late then s.canEndBuf n b 5 else if once then s.canEndBuf n b 6 else s

/-- What an attempt's end does to the counters; DUPID takes the frame's identifier. An acknowledgement error leaves TEC only in the
error-passive state (R412). -/
def State.canTxCount (s : State) (n id : Nat) (xtd : Bool) (res : CanEnd) : State :=
  let c := s.canOf n
  match res with
  | .done => s.canErr n (c.tec - 1) c.recv
  | .lost => s
  | .err ack quiet postArb =>
    let s := if ack then s.inc (CAN_CNT_ACKERR_CNT n) else s
    let s := if postArb then
        (((s.inc (CAN_CNT_POSTARB_CNT n)).put (CAN_DUPID_ID n) id).putB (CAN_DUPID_XTD n) xtd).canFlag n 5
      else s
    if quiet && (!ack || s.get (CAN_ECR_STATE n) == 1) then s else s.canErr n (c.tec + 8) c.recv

/-- An attempt of controller n has ended: of the buffer whose start of frame is known, or else of the one offered; kp: of one
of KP's buffers. -/
def State.canTxEnd (s : State) (n : Nat) (kp : Bool) (res : CanEnd) (sof : Nat) : State :=
  if !(s.canSends n && s.pllA) then s
  else if kp then
    if s.is (KCP_CAN_EN n) then
      (s.canTxCount n (s.get (KCP_CAN_RPBASE n) + s.freeNat % 16) false res).useFree.canFrameEnd n
    else s
  else
    match (match (s.canOf n).att with
      | some b => some b
      | none => s.canOffer n) with
    | none => s
    | some b =>
      let f := if b == 28 then s.tmFrame else s.canFrameOf n b
      let s := if b == 28 then (if res == .done then s.tmSent n sof else s) else s.canBufEnd n b res
      let s := s.setCan n { s.canOf n with att := none }
      (s.canTxCount n f.id.toNat f.xtd res).canFrameEnd n

def execCanTxEnd (n : Fin 4) (kp : Bool) (res : CanEnd) (sof : Nat) (s : State) : Res := .next (s.canTxEnd n.val kp res sof)

/-! ### The time master (R415) -/

/-- An instant of the basic cycle: what is still due is missed, the cycle count advances, and a reference is due. -/
def State.tmInstant (s : State) (sof : Bool) : State :=
  if s.canClocked && s.ticking && s.is CANG_TMCFG_EN && s.tmCycle != s.canTm.cycleAt then
    let n := s.get CANG_TMCFG_BUS
    let s := s.canSof n sof
    let s := if s.canTm.due.isSome then s.inc CANG_TMSTAT_MISSED else s
    let s := if (s.canOf n).att == some 28 then s.setCan n { s.canOf n with att := none } else s
    let s := if s.canTm.ran then s.put CANG_TMSTAT_CYC ((s.get CANG_TMSTAT_CYC + 1) % 64) else s
    s.setCanTm { s.canTm with due := some false, ran := true, cycleAt := s.tmCycle }
  else s

def execCanTimeReference (sof : Bool) (s : State) : Res := .next (s.tmInstant sof)

end Sys2Proof.Machine
end

