-- ==== Sys2Proof/Machine/Eth.lean ====
section
/-! DEFINITION. The Ethernet ports, the switch, the device interface, 10BASE-T1S and gPTP (R416–R420). Frames are byte strings
without their FCS. -/

namespace Sys2Proof.Machine

def State.ethClocked (s : State) : Bool := s.isOn 13 && s.pllA

/-- Port k is enabled and its link is up. -/
def State.portUp (s : State) (k : Nat) : Bool := s.is (ETHP_CFG_EN k) && s.is (ETHP_STAT_LINK k)

def execEthLinkChange (k : Fin 2) (up : Bool) (sqi : BitVec 3) (s : State) : Res :=
  .next (if s.isOn 13 then
      let s := if s.is (ETHP_STAT_LINK k.val) && !up then s.inc (ETHP_STAT_LINKDN_CNT k.val) else s
      (s.putB (ETHP_STAT_LINK k.val) up).put (ETHP_STAT_SQI k.val) sqi.toNat
    else s)

/-! ### Frames -/

def frDst (f : List Byte) : Nat := payU f 0 6
def frSrc (f : List Byte) : Nat := payU f 6 6
def frTagged (f : List Byte) : Bool := payU f 12 2 == 0x8100

/-- The frame without a VLAN tag. -/
def frUntag (f : List Byte) : List Byte := if frTagged f then f.take 12 ++ f.drop 16 else f

/-- The frame with a VLAN tag. -/
def frTag (f : List Byte) (pcp vid : Nat) : List Byte :=
  if frTagged f then f else f.take 12 ++ beBytes 2 0x8100 ++ beBytes 2 (pcp * 8192 + vid) ++ f.drop 12

def isMulticast (mac : Nat) : Bool := bitOf 40 mac

/-- 01-80-C2-00-00-00 to 01-80-C2-00-00-0F. -/
def isLinkLocal (mac : Nat) : Bool := mac / 16 == 0x0180C200000

def State.devMac (s : State) : Nat := s.get ETH_MAC0_MAC * 65536 + s.get ETH_MAC1_MAC

/-! ### The switch (R417) -/

/-- A frame's VID and PCP on ingress port p. -/
def State.frClass (s : State) (p : Nat) (f : List Byte) : Nat × Nat :=
  if frTagged f then (payU f 14 2 % 4096, payU f 14 2 / 8192) else (s.get (ETHSW_PVID_PVID p), s.get (ETHSW_PVID_PRIO p))

/-- The enabled VLAN entry of a VID. -/
def State.vlanOf (s : State) (vid : Nat) : Option Nat :=
  (List.range 16).find? (fun v => s.is (ETHSW_VLAN_EN v) && s.get (ETHSW_VLAN_VID v) == vid)

/-- The source address of a frame is learned; a full table keeps its entries. -/
def State.learn (s : State) (p : Nat) (f : List Byte) : State :=
  let m := frSrc f
  let rest := s.eth.table.filter (fun (e : Nat × Nat × Nat) => e.1 != m)
  if isMulticast m || p == 2 || 256 ≤ rest.length then s else s.setEth { s.eth with table := rest ++ [(m, p, s.now)] }

/-- The ports to which a frame goes: the known port of its address, or all members. -/
def State.egress (s : State) (p v : Nat) (f : List Byte) : List Nat :=
  let members := [0, 1, 2].filter (fun q => q != p && s.bit (ETHSW_VLAN_MEMB v) q)
  let d := frDst f
  if isMulticast d then members
  else if d == s.devMac then members.filter (fun q => q == 2)
  else match s.eth.table.find? (fun (e : Nat × Nat × Nat) => e.1 == d) with
    | some e => members.filter (fun q => q == e.2.1)
    | none => members

/-- A frame leaves by port 0 or 1, or is dropped and counted where the packet memory has no room for it. -/
def State.portSend (s : State) (q pcp : Nat) (room : BitVec 3) (f : List Byte) : State :=
  if !room.getLsbD q then s.inc (ETHP_CNT_DROP q)
  else if s.portUp q then s.setEth { s.eth with out := s.eth.out ++ [⟨q, pcp, f⟩] }
  else s

/-- A frame that enters the switch at port p: what leaves by ports 0 and 1, and the copy for the device with its VID. -/
def State.switchFrame (s : State) (p : Nat) (f : List Byte) (room : BitVec 3) : State × Option (Nat × List Byte) :=
  if isLinkLocal (frDst f) then (s, if p == 2 then none else some ((s.frClass p f).1, f))
  else
    let (vid, pcp) := s.frClass p f
    match s.vlanOf vid with
    | none => (s, none)
    | some v =>
      let s := s.learn p f
      let shape (q : Nat) : List Byte := if s.bit (ETHSW_VLAN_UNTAG v) q then frUntag f else frTag f pcp vid
      let out := s.egress p v f
      let s := (out.filter (fun q => q != 2)).foldl (fun s q => s.portSend q pcp room (shape q)) s
      (s, if out.contains 2 && room.getLsbD 2 then some (vid, shape 2) else none)

/-! ### Checksums -/

/-- The sum of 16-bit words, folded to 16 bits. -/
def sum16 : List Byte → Nat
  | a :: b :: t => a.toNat * 256 + b.toNat + sum16 t
  | [a] => a.toNat * 256
  | [] => 0

def fold16 (n : Nat) : Nat :=
  let m := n / 65536 + n % 65536
  m / 65536 + m % 65536

/-- The Internet checksum of RFC 1071. -/
def inetSum (l : List Byte) : Nat := 0xFFFF - fold16 (sum16 l)

/-! ### The device interface (R418) -/

/-- The interface with IPv4 address ip, on T1S0 or on the VLAN of the frame. -/
def State.ipHere (s : State) (t1s tagged : Bool) (vid ip : Nat) : Bool :=
  (List.range 4).any (fun j => s.is (ETH_IPCFG_EN j) && s.get (ETH_IP_ADDR j) == ip && s.is (ETH_IPCFG_T1S j) == t1s
    && (t1s || (if s.get (ETH_IPCFG_VID j) == 0 then !tagged else s.get (ETH_IPCFG_VID j) == vid)))

/-- A frame of the device goes to T1S0's queue or into the switch, with the VID of the frame it answers. -/
def State.devSend (s : State) (t1s tagged : Bool) (vid : Nat) (room : BitVec 3) (f : List Byte) : State :=
  if t1s then s.setEth { s.eth with t1s := s.eth.t1s ++ [f] }
  else (s.switchFrame 2 (if tagged then frTag f 0 vid else f) room).1

/-- The reply to an ARP request for address ip. -/
def State.arpReply (s : State) (req : List Byte) (ip : Nat) : List Byte :=
  beBytes 6 (frSrc req) ++ beBytes 6 s.devMac ++ beBytes 2 0x0806 ++ beBytes 2 1 ++ beBytes 2 0x0800 ++ [6, 4] ++ beBytes 2 2
  ++ beBytes 6 s.devMac ++ beBytes 4 ip ++ (req.drop 22).take 10

/-- The IPv4 header of an answer: addresses exchanged, a TTL of 64 and a new checksum. -/
def ipAnswerHeader (h : List Byte) : List Byte :=
  let z := h.take 8 ++ [64] ++ (h.drop 9).take 1 ++ [0, 0] ++ (h.drop 16).take 4 ++ (h.drop 12).take 4
  z.take 10 ++ beBytes 2 (inetSum z) ++ z.drop 12

/-- The reply to an ICMP echo request: the frame and the packet's header and data. -/
def State.echoReply (s : State) (req ip icmp : List Byte) : List Byte :=
  let z := [0, 0, 0, 0] ++ icmp.drop 4
  beBytes 6 (frSrc req) ++ beBytes 6 s.devMac ++ beBytes 2 0x0800 ++ ipAnswerHeader ip
  ++ [0, 0] ++ beBytes 2 (inetSum z) ++ z.drop 4

/-- A UDP datagram has a checksum, and it is right. -/
def udpOk (ip udp : List Byte) : Bool :=
  payU udp 6 2 != 0 && fold16 (sum16 ((ip.drop 12).take 8 ++ [0, 17] ++ beBytes 2 udp.length ++ udp)) == 0xFFFF

/-- A record enters the application receive FIFO, where it has room. -/
def State.appStore (s : State) (port stamp : Nat) (f : List Byte) : State :=
  let r := leBytes 8 stamp ++ leBytes 2 f.length ++ [BitVec.ofNat 8 port, 0, 0, 0, 0, 0] ++ f
      ++ List.replicate ((4 - f.length % 4) % 4) 0
  if s.eth.rxq.length + r.length ≤ 16384 then
    let s := s.setEth { s.eth with rxq := s.eth.rxq ++ r, rxr := s.eth.rxr ++ [r.length] }
    s.put ETH_APPSTAT_RXFILL s.eth.rxq.length
  else s.inc ETH_APPSTAT_DISC

/-- An enabled application filter takes a frame of an EtherType and, where it carries one, of a UDP destination port. -/
def State.appMatch (s : State) (typ : Nat) (udpPort : Option Nat) : Bool :=
  (List.range 4).any (fun j => s.is (ETH_APPFLT_EN j)
    && (if s.is (ETH_APPFLT_KIND j) then udpPort == some (s.get (ETH_APPFLT_VALUE j)) else typ == s.get (ETH_APPFLT_VALUE j)))

/-- A frame to the device from port 0, 1 or 3 (T1S0). -/
def State.deviceFrame (s : State) (port vid stamp : Nat) (room : BitVec 3) (f : List Byte) : State :=
  let t1s := port == 3
  let tagged := frTagged f
  let g := frUntag f
  let typ := payU g 12 2
  let p := g.drop 14
  let app (s : State) (u : Option Nat) : State := if s.appMatch typ u then s.appStore port stamp f else s.inc ETH_APPSTAT_DISC
  if typ == 0x88F7 && s.is GPTP_CFG_EN && !t1s then s
  else if typ == 0x0806 then
    if payU p 0 4 == 0x00010800 && payU p 4 4 == 0x06040001 && s.ipHere t1s tagged vid (payU p 24 4) then
      s.devSend t1s tagged vid room (s.arpReply g (payU p 24 4))
    else app s none
  else if typ == 0x0800 then
    let ip := p.take 20
    let body := (p.drop 20).take (payU p 2 2 - 20)
    if payU p 0 1 != 0x45 || payU p 6 2 % 16384 != 0 || fold16 (sum16 ip) != 0xFFFF then s.inc ETH_APPSTAT_DISC
    else
      let mine := s.ipHere t1s tagged vid (payU p 16 4)
      let proto := payU p 9 1
      if mine && proto == 1 && payU body 0 2 == 0x0800 && fold16 (sum16 body) == 0xFFFF then
        s.devSend t1s tagged vid room (s.echoReply g ip body)
      else if proto == 17 then
        if mine && payU body 2 2 == 47121 then
          (if udpOk ip body then
            s.kpReceive (if t1s then 2 else port) (payU p 12 4 * 65536 + payU body 0 2) ((body.drop 8).take (payU body 4 2 - 8))
           else s.inc ETH_APPSTAT_DISC)
        else app s (some (payU body 2 2))
      else app s none
  else app s none

/-- A frame received at ETH k. -/
def State.ethReceive (s : State) (k : Nat) (f : List Byte) (stamp : Nat) (room : BitVec 3) : State :=
  if s.ethClocked && s.portUp k then
    if 1522 < f.length + 4 then s.inc (ETHP_CNT_RXERR k)
    else if f.length + 4 < 64 then s
    else
      match s.switchFrame k f room with
      | (s, some (vid, g)) => s.deviceFrame k vid stamp room g
      | (s, none) => s
  else s

def execEthFrameReceive (k : Fin 2) (bytes : List Byte) (stamp : Nat) (room : BitVec 3) (s : State) : Res :=
  .next (s.ethReceive k.val bytes stamp room)

/-- The oldest record of the transmit FIFO, once it is there whole, goes to the switch or to T1S0. -/
def State.appTransmit (s : State) (room : BitVec 3) : State :=
  let q := s.eth.txq
  let len := leNat ((q.drop 8).take 2)
  let port := leNat ((q.drop 10).take 1)
  let whole := 16 + (len + 3) / 4 * 4
  if s.ethClocked && decide (16 ≤ q.length) && decide (whole ≤ q.length) then
    let f := (q.drop 16).take len
    let s := s.setEth { s.eth with txq := q.drop whole }
    if port == 2 then (s.switchFrame 2 f room).1
    else if port == 3 then s.setEth { s.eth with t1s := s.eth.t1s ++ [f] }
    else s
  else s

def execEthAppTransmit (room : BitVec 3) (s : State) : Res := .next (s.appTransmit room)

/-- A learned address ages out 300 s after it was last seen. -/
def State.ethAge (s : State) (mac : Nat) : State :=
  s.setEth { s.eth with table := s.eth.table.filter (fun (e : Nat × Nat × Nat) => !(e.1 == mac && s.elapsedMs e.2.2 300000)) }

/-- Every address whose 300 s have passed. -/
def State.ethAgeAll (s : State) : State :=
  if s.ethClocked && s.eth.table.any (fun (e : Nat × Nat × Nat) => s.elapsedMs e.2.2 300000) then
    s.setEth { s.eth with table := s.eth.table.filter (fun (e : Nat × Nat × Nat) => !s.elapsedMs e.2.2 300000) }
  else s

def execEthAddressAgeout (mac : BitVec 48) (s : State) : Res := .next (if s.ethClocked then s.ethAge mac.toNat else s)

def execEthLock (ini : Initiator) (val : Word) (s : State) : Res :=
  .next (s.busWrite ini ETH_LOCK.addr (fun s => s.fieldWrite ETH_LOCK.addr (val ||| 1)))

/-! ### 10BASE-T1S (R419) -/

def execT1sFrameReceive (bytes : List Byte) (stamp : Nat) (s : State) : Res :=
  .next (if s.ethClocked && s.is T1S_CFG_EN && (isMulticast (frDst bytes) || frDst bytes == s.devMac) then
    s.deviceFrame 3 0 stamp 7 bytes else s)

/-- A beacon of the coordinator, or an opportunity in which waiting frames are sent: with PLCA one and up to MAXBC more. -/
def State.t1sOpportunity (s : State) (beacon : Bool) : State :=
  let node := s.get T1S_CFG_NODEID
  let plca := s.is T1S_CFG_PLCA
  if !(s.ethClocked && s.is T1S_CFG_EN) then s
  else if beacon then (if plca && node == 0 then s.setEth { s.eth with beacons := s.eth.beacons + 1 } else s)
  else if plca && node == 255 then s
  else
    let n := if plca then 1 + s.get T1S_BURST_MAXBC else 1
    s.setEth { s.eth with out := s.eth.out ++ (s.eth.t1s.take n).map (fun f => ⟨3, 0, f⟩), t1s := s.eth.t1s.drop n }

def execT1sTransmitOpportunity (beacon : Bool) (s : State) : Res := .next (s.t1sOpportunity beacon)

/-! ### Time synchronisation (R73, R420) -/

def State.gptpSend (s : State) (k : Nat) (m : GptpMsg) : State := s.setEth { s.eth with gptp := s.eth.gptp ++ [(k, m)] }

/-- The offset changed by less than 1 µs over the last 8 synchronisation intervals. -/
def offsLocked (l : List Int) : Bool :=
  match l[0]?, l[8]? with
  | some a, some b => decide ((a - b).natAbs < 1000)
  | _, _ => false

/-- The trim moves by at most 1 ppm per second, within ±100 ppm, towards what the grandmaster's time asks for: a step of 0.1 ppm
up or down, or none, every 100 ms. Which one is free. -/
def State.trimStep (s : State) : State :=
  if s.ticking && s.is TB_CTRL_DISC_EN && !s.eth.offs.isEmpty && decide (s.eth.trimAt + 40000000 ≤ s.now) then
    let old := signed 20 (s.get TB_CTRL_TRIM)
    let new := clampInt (-1000) 1000 (old + (s.freeNat % 3 : Nat) - 1)
    (s.put TB_CTRL_TRIM (unsigned 20 new)).useFree.setEth { s.eth with trimAt := s.now }
  else s

/-- TB_OFFSET takes the grandmaster's time less TIMEBASE at the receive stamp of the Sync. -/
def State.tbOffsetSet (s : State) (off : Int) : State :=
  let u := unsigned 64 off
  let s := (s.wr TB_OFFSET_LO (BitVec.ofNat 32 u)).wr TB_OFFSET_HI (BitVec.ofNat 32 (u / 2 ^ 32))
  let s := s.setEth { s.eth with offs := off :: s.eth.offs.take 8 }
  s.putB TB_CTRL_LOCKED (offsLocked s.eth.offs)

/-- A gPTP message or exchange on port k; relayed messages carry the residence time and the slave port's link delay. -/
def State.gptpMessage (s : State) (k : Nat) (m : GptpMsg) : State :=
  let slave := s.get TB_CTRL_PORT == k
  let relay := s.is GPTP_CFG_RELAY && s.portUp (1 - k)
  if !(s.ethClocked && s.ticking && s.is GPTP_CFG_EN && s.portUp k) then s
  else match m with
  | .sync stamp =>
    if slave then
      let s := s.setEth { s.eth with sync := some (k, stamp, s.timebase) }
      if relay then s.gptpSend (1 - k) (.sync s.timebase) else s
    else s
  | .followUp origin corr =>
    match s.eth.sync with
    | some (p, rx, tx) =>
      if slave && p == k then
        let d := s.get (GPTP_PDELAY_DELAY k)
        let s := (s.setEth { s.eth with sync := none }).tbOffsetSet ((origin : Int) + corr + d - rx)
        if relay then s.gptpSend (1 - k) (.followUp origin (corr + d + (tx - rx))) else s
      else s
    | none => s
  | .peerDelay t1 t2 t3 t4 =>
    let d : Int := (((t4 : Int) - t1) - ((t3 : Int) - t2)) / 2
    if 0 ≤ d ∧ d < 2 ^ 32 then s.put (GPTP_PDELAY_DELAY k) d.toNat
    else (s.put (GPTP_PDELAY_DELAY k) s.freeNat).useFree
  | .peerRequest stamp => s.gptpSend k (.peerRequest stamp)

def execGptpMessage (k : Fin 2) (msg : GptpMsg) (s : State) : Res := .next (s.gptpMessage k.val msg)

end Sys2Proof.Machine
end

