-- ==== Sys2Proof/Machine/Asl.lean ====
section
/-! DEFINITION. The Axle Safety Layer: connections, data units and service passes (R421–R436). -/

namespace Sys2Proof.Machine


/-! ### Descriptors (R425, R426) -/

/-- Bytes i to i + n − 1 of a descriptor, little-endian. -/
def descU (d : BitVec 256) (i n : Nat) : Nat := bitsOf (8 * (i + n) - 1) (8 * i) d.toNat

def AslConn.ident (c : AslConn) : Nat := descU c.desc 0 4
def AslConn.tx (c : AslConn) : Bool := descU c.desc 4 1 == 1
def AslConn.transport (c : AslConn) : Nat := descU c.desc 5 1
def AslConn.port (c : AslConn) : Nat := descU c.desc 6 1
def AslConn.len (c : AslConn) : Nat := descU c.desc 7 1
def AslConn.addr (c : AslConn) : Nat := descU c.desc 8 4
def AslConn.udpPort (c : AslConn) : Nat := descU c.desc 12 2
def AslConn.time (c : AslConn) : Nat := descU c.desc 14 2
def AslConn.maxGap (c : AslConn) : Nat := descU c.desc 16 1
def AslConn.react (c : AslConn) : Nat := descU c.desc 17 1
def AslConn.errMax (c : AslConn) : Nat := descU c.desc 18 1
def AslConn.demand (c : AslConn) : Nat := descU c.desc 19 1
def AslConn.isUdp (c : AslConn) : Bool := c.transport == 3

/-- The largest LEN of a transport. -/
def aslMaxLen (t : Nat) : Nat := if t == 0 then 0 else if t == 1 then 56 else 64

/-- A field of the descriptor lies outside its range, or a reserved byte is not 0. -/
def badDesc (d : BitVec 256) : Bool :=
  let t := descU d 5 1
  descU d 0 4 == 0 || decide (1 < descU d 4 1) || decide (3 < t) || decide (3 < descU d 6 1) || decide (aslMaxLen t < descU d 7 1)
  || (t == 3) == (descU d 12 2 == 0)
  || decide (descU d 14 2 < 1) || decide (1000 < descU d 14 2) || decide (15 < descU d 16 1) || decide (1 < descU d 17 1)
  || decide (descU d 18 1 < 1) || decide (15 < descU d 18 1) || decide (3 < descU d 19 1) || descU d 20 12 != 0

/-! ### Data units (R422–R424) -/

/-- One bit of the CRC of R423, most significant bit first. -/
def aslCrcBit (r : Nat) : Nat := if bitOf 31 r then (r * 2 % 2 ^ 32) ^^^ 0x741B8CD7 else r * 2

def aslCrcByte (r : Nat) (b : Byte) : Nat :=
  aslCrcBit (aslCrcBit (aslCrcBit (aslCrcBit (aslCrcBit (aslCrcBit (aslCrcBit (aslCrcBit (r ^^^ (b.toNat * 2 ^ 24)))))))))

/-- The CRC of a byte string with a connection's identity. -/
def aslCrc (ident : Nat) (l : List Byte) : Nat := l.foldl aslCrcByte ident

/-- A data unit. -/
def aslPdu (ident seq flags : Nat) (data : List Byte) : List Byte :=
  let body := beBytes 2 seq ++ [BitVec.ofNat 8 data.length, BitVec.ofNat 8 flags] ++ data
  body ++ beBytes 4 (aslCrc ident body)

/-! ### Status blocks (R428) -/

def AslConn.block (c : AslConn) : List Byte :=
  [BitVec.ofNat 8 c.state, BitVec.ofNat 8 c.cause] ++ leBytes 2 c.lastSeq ++ leBytes 2 c.crcErr ++ leBytes 2 c.seqErr
  ++ leBytes 2 c.lost ++ leBytes 2 c.fmtErr ++ leBytes 4 c.tstamp

/-- Connection i is stored with its status block. -/
def State.setConn (s : State) (i : Nat) (c : AslConn) : State :=
  (s.setAsl { s.asl with conns := s.asl.conns.set i c }).wrBytes c.blk c.block

/-- Core n runs its program. -/
def State.scRuns (s : State) (n : Nat) : Bool := s.isOn 3 && s.pllA && (s.get (SCC_STAT_STATE n) == 1 || s.get (SCC_STAT_STATE n) == 2)

/-- A connection is open while its core has not stopped (R421). -/
def State.aslOpen (s : State) (c : AslConn) : Bool := c.state != 0 && s.get (SCC_STAT_STATE c.core) != 3

/-! ### Opening (R421, R427, R433) -/

def State.aslResult (s : State) (core : Nat) (r : AslResult) : State :=
  s.setAsl { s.asl with results := s.asl.results.set core r }

/-- A connection returns to its first state; its counters stay. -/
def AslConn.fresh (c : AslConn) (t : Nat) : AslConn :=
  { c with state := if c.tx then 2 else 1, cause := 0, timer := if c.tx then none else some t, errs := [], init := true, seq := 0,
           buf := none }

/-- A new connection; the data that a TX connection sends before any is placed is free. -/
def newConn (core blk : Nat) (desc : BitVec 256) (data : List Byte) : AslConn :=
  ⟨core, desc, blk, 0, 0, 0, 0, 0, 0, 0, 0, none, [], false, 0, data, 0, false, false, none⟩

/-- n free bytes. -/
def State.freeBytes (s : State) (n : Nat) : List Byte := (List.range n).map (fun i => BitVec.ofNat 8 (Config.freeWord (s.fresh + i)).toNat)

def State.aslOpenCall (s : State) (core : Nat) (desc : BitVec 256) (blk : Nat) (reopen : Bool) : State :=
  let id := descU desc 0 4
  let mine := s.asl.conns.findIdx? (fun c => c.core == core && c.ident == id && s.aslOpen c)
  if !s.scRuns core then s
  else if !s.scRedundant core then s.aslResult core .notSafeCore
  else
    match reopen, mine with
    | true, some i =>
      let c := nth s.asl.conns i (newConn core blk desc [])
      (s.setConn i (c.fresh s.tick)).aslResult core .ok
    | _, _ =>
      if badDesc desc then s.aslResult core .badDesc
      else if s.asl.conns.any (fun c => c.ident == id && s.aslOpen c) then s.aslResult core .dupIdent
      else if 32 ≤ (s.asl.conns.filter (fun c => c.core == core)).length then s.aslResult core .full
      else
        let c := (newConn core blk desc (if descU desc 4 1 == 1 then s.freeBytes (descU desc 7 1) else [])).fresh s.tick
        let s := s.setFresh (s.fresh + descU desc 7 1)
        let s := s.setAsl { s.asl with conns := s.asl.conns ++ [c] }
        (s.setConn (s.asl.conns.length - 1) c).aslResult core .ok

def execAslOpen (core : Fin 4) (desc : BitVec 256) (blk : BitVec 25) (reopen : Bool) (s : State) : Res :=
  .next (s.aslOpenCall core.val desc (0x20000000 + blk.toNat) reopen)

/-! ### Reception (R430, R435) -/

/-- A frame read in a pass: its stamp, where it comes from — a CAN bus with its identifier word and format, or an interface with
the remote address and the local port —, and its data. -/
structure AslFrame where
  stamp : Nat
  udp : Bool
  port : Nat
  addr : Nat
  fmt : Nat
  udpPort : Nat
  data : List Byte
  deriving DecidableEq, Repr

/-- The frame's transport address is the connection's. -/
def AslConn.addressed (c : AslConn) (f : AslFrame) : Bool :=
  !c.tx && c.isUdp == f.udp && c.port == f.port && c.addr == f.addr && (!f.udp || c.udpPort == f.udpPort)

def satInc (n : Nat) : Nat := min 0xFFFF (n + 1)

/-- A counted error in the pass at t; a saturated count does not grow. -/
def AslConn.noteErr (c : AslConn) (t old new : Nat) : AslConn := if old == new then c else { c with errs := t :: c.errs }

def AslConn.fmtFail (c : AslConn) (t : Nat) : AslConn := ({ c with fmtErr := satInc c.fmtErr }).noteErr t c.fmtErr (satInc c.fmtErr)
def AslConn.crcFail (c : AslConn) (t : Nat) : AslConn := ({ c with crcErr := satInc c.crcErr }).noteErr t c.crcErr (satInc c.crcErr)
def AslConn.seqFail (c : AslConn) (t : Nat) : AslConn := ({ c with seqErr := satInc c.seqErr }).noteErr t c.seqErr (satInc c.seqErr)

/-- A PDU is accepted in the pass at t. -/
def AslConn.accept (c : AslConn) (t seq flags : Nat) (data : List Byte) : AslConn :=
  { c with state := 2, lastSeq := seq, timer := some t, tstamp := t * 10 % 2 ^ 32, data := data, dataAt := t, stop := bitOf 1 flags,
           sto := bitOf 2 flags }

/-- The procedure of R430: the connection after a frame, and the code that HSM_REQ is written with, 0 for none. -/
def AslConn.receive (c : AslConn) (t : Nat) (f : AslFrame) : AslConn × Nat :=
  let p := f.data
  let seq := payU p 0 2
  let flags := payU p 3 1
  let code := if bitOf 2 flags then 0x11 else if bitOf 1 flags then 0x10 else 0
  let body := p.take (4 + c.len)
  if !f.udp && f.fmt != c.transport then (c.fmtFail t, 0)
  else if p.length < 8 + c.len ∨ payU p 2 1 ≠ c.len then (c.fmtFail t, 0)
  else if aslCrc c.ident body != payU p (4 + c.len) 4 then (c.crcFail t, 0)
  else if flags / 16 != 0 then (c.fmtFail t, 0)
  else if (bitOf 1 flags && !bitOf 0 c.demand) || (bitOf 2 flags && !bitOf 1 c.demand) then (c.fmtFail t, 0)
  else if c.state == 1 then
    (if bitOf 0 flags then (c.accept t seq flags (body.drop 4), code) else (c.seqFail t, 0))
  else if c.state == 2 then
    let d := (seq + 65536 - c.lastSeq) % 65536
    if d == 0 || decide (c.maxGap + 1 < d) then (c.seqFail t, 0)
    else (({ c with lost := min 0xFFFF (c.lost + (d - 1)) }).accept t seq flags (body.drop 4), code)
  else (c, 0)

/-- A request of the library to Badger, from the core's leading thread. -/
def State.aslStop (s : State) (core : Fin 4) (code : Nat) : State :=
  if code == 0 then s else s.hsmFrom (.sc core 0) (fun s => s.hsmReq (BitVec.ofNat 32 (code * 2 ^ 24)))

/-- Every connection of the core that the frame addresses receives it. -/
def State.aslFrame (s : State) (core : Fin 4) (t : Nat) (f : AslFrame) : State :=
  (List.range s.asl.conns.length).foldl (fun s i =>
    match s.asl.conns[i]? with
    | some c =>
      if c.core == core.val && c.addressed f then
        let r := c.receive t f
        (s.setConn i r.1).aslStop core r.2
      else s
    | none => s) s

/-- The waiting elements of FIFO k of bus n, oldest first. -/
def State.canWaiting (s : State) (n k : Nat) : List AslFrame :=
  (List.range (s.get (CAN_RXF_FILL n k))).map (fun i =>
    let a := s.canRxElem n k ((s.get (CAN_RXF_GET n k) + i) % max 1 (s.canNf n k))
    let w0 := (s.rdMem32 a).toNat
    let w1 := (s.rdMem32 (a + 4)).toNat
    ⟨leNat (s.rdBytes (a + 16) 8), false, n, b2n (bitOf 29 w0) * 2 ^ 31 + w0 % 2 ^ 29, w1 / 2 ^ 30, 0,
     if bitOf 30 w0 then [] else s.rdBytes (a + 32) (min (bitsOf 27 16 w1) (s.canCap n))⟩)

/-- The UDP datagram of a record of the application receive FIFO, with its interface. -/
def State.udpRecord (s : State) (r : List Byte) : List AslFrame :=
  let port := leNat ((r.drop 10).take 1)
  let f := (r.drop 16).take (leNat ((r.drop 8).take 2))
  let g := frUntag f
  let p := g.drop 14
  let u := (p.drop 20).take (payU p 2 2 - 20)
  if payU g 12 2 == 0x0800 && payU p 0 1 == 0x45 && payU p 9 1 == 17 then
    ((List.range 4).filter (fun j => s.is (ETH_IPCFG_EN j) && s.get (ETH_IP_ADDR j) == payU p 16 4
        && s.is (ETH_IPCFG_T1S j) == (port == 3)
        && (!frTagged f || s.get (ETH_IPCFG_VID j) == 0 || s.get (ETH_IPCFG_VID j) == payU f 14 2 % 4096))).map (fun j =>
      ⟨leNat (r.take 8), true, j, payU p 12 4, 3, payU u 2 2, (u.drop 8).take (payU u 4 2 - 8)⟩)
  else []

/-- The records of the application receive FIFO. -/
def State.udpWaiting (s : State) : List Nat → List Byte → List AslFrame
  | n :: t, q => s.udpRecord (q.take n) ++ s.udpWaiting t (q.drop n)
  | [], _ => []

/-- A frame joins a list in stamp order; which of two equal stamps comes first is open. -/
def insStamp (tie : Bool) (f : AslFrame) : List AslFrame → List AslFrame
  | [] => [f]
  | g :: t => if f.stamp < g.stamp || (tie && f.stamp == g.stamp) then f :: g :: t else g :: insStamp tie f t

/-- Some RX connection of the core uses bus n, or UDP. -/
def State.aslUses (s : State) (core n : Nat) (udp : Bool) : Bool :=
  s.asl.conns.any (fun c => c.core == core && !c.tx && c.isUdp == udp && (udp || c.port == n))

/-- The frames a pass reads, and the FIFOs after it. -/
def State.aslTake (s : State) (core : Nat) : List AslFrame × State :=
  if !(s.isOn 13 && s.pllA) then ([], s)
  else
    let fifos := (List.range 8).filter (fun i => s.aslUses core (i / 2) false)
    let can := fifos.flatMap (fun i => s.canWaiting (i / 2) (i % 2))
    let udp := if s.aslUses core 0 true then s.udpWaiting s.eth.rxr s.eth.rxq else []
    let fs := (can ++ udp).foldl (fun l f => insStamp s.freeBool f l) []
    let s := fifos.foldl (fun s i => (List.range (s.get (CAN_RXF_FILL (i / 2) (i % 2)))).foldl (fun s _ => s.canPop (i / 2) (i % 2)) s)
      s.useFree
    let s := if s.aslUses core 0 true then (s.setEth { s.eth with rxq := [], rxr := [] }).put ETH_APPSTAT_RXFILL 0 else s
    (fs, s)

/-! ### Timers and error rates (R431) -/

/-- The cause of a failure at t, 0 for none. -/
def AslConn.fails (c : AslConn) (t : Nat) : Nat :=
  if c.tx || !(c.state == 1 || c.state == 2) then 0
  else if (match c.timer with
    | some r => decide (r + c.time * 100000 ≤ t)
    | none => false) then 1
  else if c.errMax ≤ (c.errs.filter (fun e => decide (t < e + 100000000))).length then 2
  else 0

def State.aslCheck (s : State) (core : Fin 4) (t : Nat) : State :=
  (List.range s.asl.conns.length).foldl (fun s i =>
    match s.asl.conns[i]? with
    | some c =>
      let k := if c.core == core.val then c.fails t else 0
      if k == 0 then s
      else (s.setConn i { c with state := 3, cause := k }).aslStop core (if c.react == 0 then 0x10 else 0x11)
    | none => s) s

/-! ### Transmission (R424, R425, R434) -/

/-- The PDU lies in a frame of the connection's format; BRS, SDT, VCID, SEC and AF are open. -/
def State.aslElement (s : State) (c : AslConn) (pdu : List Byte) : List Byte :=
  let w := s.freeNat
  let fd := c.transport == 1
  let xl := c.transport == 2
  let n := if fd then fdLength pdu.length else pdu.length
  leBytes 4 (b2n (bitOf 31 c.addr) * 2 ^ 29 + c.addr % 2 ^ 29)
  ++ leBytes 4 (c.transport * 2 ^ 30 + n * 2 ^ 16 + (if fd then w % 2 * 2 ^ 29 else if xl then w % 2 * 2 ^ 28 + w / 2 % 65536 else 0))
  ++ leBytes 4 (if xl then (Config.freeWord (s.fresh + 1)).toNat else 0) ++ leBytes 20 0 ++ pdu ++ List.replicate (n - pdu.length) 0xCC

/-- A PDU on CAN: a pending one before it is cancelled and counted, and one of the free buffers is requested. -/
def State.aslCan (s : State) (i : Nat) (c : AslConn) (pdu : List Byte) (sof : Bool) : State :=
  let n := c.port
  let old := match c.buf with
    | some b => s.bit (CAN_TXPEND_PEND n) b
    | none => false
  let s := s.canSof n sof
  let s := if old then s.canCancel n (c.buf.getD 0) else s
  let free := s.canFree n
  let b := nth free (s.freeNat % max 1 free.length) 0
  let ok := s.isOn 13 && s.pllA && !free.isEmpty
  let s := s.useFree
  let s := if ok then ((s.wrBytes (s.canTxElem n b) (s.aslElement c pdu)).useFree.useFree).canRequest n b else s
  s.setConn i { c with lost := if old || !ok then satInc c.lost else c.lost, buf := if ok then some b else none }

/-- The record of a PDU's UDP datagram for the transmit FIFO; the remote MAC address, the source port and the packet's
identification are open. -/
def State.aslUdpRecord (s : State) (c : AslConn) (pdu : List Byte) : List Byte :=
  let w (i : Nat) : Nat := (Config.freeWord (s.fresh + i)).toNat
  let src := s.get (ETH_IP_ADDR c.port)
  let vid := s.get (ETH_IPCFG_VID c.port)
  let t1s := s.is (ETH_IPCFG_T1S c.port)
  let udp (sum : Nat) := beBytes 2 (w 2) ++ beBytes 2 c.udpPort ++ beBytes 2 (8 + pdu.length) ++ beBytes 2 sum ++ pdu
  let pseudo := beBytes 4 src ++ beBytes 4 c.addr ++ [0, 17] ++ beBytes 2 (8 + pdu.length)
  let sum := inetSum (pseudo ++ udp 0)
  let h (k : Nat) := beBytes 2 0x4500 ++ beBytes 2 (28 + pdu.length) ++ beBytes 2 (w 3) ++ [0, 0, 64, 17] ++ beBytes 2 k ++ beBytes 4 src
    ++ beBytes 4 c.addr
  let f := beBytes 2 (w 0) ++ beBytes 4 (w 1) ++ beBytes 6 s.devMac ++ beBytes 2 0x0800 ++ h (inetSum (h 0))
    ++ udp (if sum == 0 then 0xFFFF else sum)
  let f := f ++ List.replicate (60 - f.length) 0
  let f := if t1s || vid == 0 then f else frTag f 0 vid
  leBytes 8 0 ++ leBytes 2 f.length ++ [if t1s then 3 else 2, 0, 0, 0, 0, 0] ++ f ++ List.replicate ((4 - f.length % 4) % 4) 0

def State.aslUdp (s : State) (i : Nat) (c : AslConn) (pdu : List Byte) : State :=
  let r := s.aslUdpRecord c pdu
  let ok := s.isOn 13 && s.pllA && decide (s.eth.txq.length + r.length ≤ 16384)
  let s := s.setFresh (s.fresh + 4)
  if ok then s.setEth { s.eth with txq := s.eth.txq ++ r } else s.setConn i { c with lost := satInc c.lost }

/-- A TX connection sends its due PDU. -/
def State.aslSend (s : State) (i t : Nat) (c : AslConn) (sof : BitVec 4) : State :=
  let due := match c.timer with
    | none => true
    | some l => decide (l + c.time * 100000 ≤ t)
  if !(c.tx && c.state == 2 && due) then s
  else
    let flags := b2n c.init + 2 * b2n c.stop + 4 * b2n c.sto + 8 * b2n (!s.is HSM_STATUS_SAFEOK)
    let pdu := aslPdu c.ident c.seq flags c.data
    let c' := { c with lastSeq := c.seq, seq := (c.seq + 1) % 65536, init := false, timer := some t, tstamp := t * 10 % 2 ^ 32 }
    let s := (s.setConn i c').setAsl { (s.setConn i c').asl with sent := s.asl.sent ++ [(BitVec.ofNat 32 c.ident, pdu)] }
    if c.isUdp then s.aslUdp i c' pdu else s.aslCan i c' pdu (sof.getLsbD c.port)

def State.aslSendAll (s : State) (core t : Nat) (sof : BitVec 4) : State :=
  (List.range s.asl.conns.length).foldl (fun s i =>
    match s.asl.conns[i]? with
    | some c => if c.core == core then s.aslSend i t c sof else s
    | none => s) s

/-- What application software has placed for a TX connection of the core takes the place of what it placed before. -/
def State.aslPlaced (s : State) (core : Nat) (p : AslPlace) : State :=
  s.setAsl { s.asl with conns := s.asl.conns.map (fun (c : AslConn) =>
    if c.core == core && c.tx && c.ident == p.ident.toNat && p.data.length == c.len then
      { c with data := p.data, stop := p.stop, sto := p.sto }
    else c) }

/-! ### The pass (R429) -/

/-- n × 100 µs have passed since the core's last pass, or it has had none. -/
def State.aslSince (s : State) (core n : Nat) : Bool :=
  match nth s.asl.passAt core none with
  | some t => decide (t + 40000 * n ≤ s.now)
  | none => true

/-- A service pass of a core, no sooner than the least SVC after its last. -/
def State.aslPass (s : State) (core : Fin 4) (placed : List AslPlace) (sof : BitVec 4) : State :=
  if s.scRuns core.val && s.scRedundant core.val && s.aslSince core.val 1 then
    let t := s.tick
    let s := s.setAsl { s.asl with passAt := s.asl.passAt.set core.val (some s.now) }
    let s := placed.foldl (fun s p => s.aslPlaced core.val p) s
    let r := s.aslTake core.val
    let s := r.1.foldl (fun s f => s.aslFrame core t f) r.2
    (s.aslCheck core t).aslSendAll core.val t sof
  else s

/-- A core with an open connection passes at the latest after the greatest SVC (R429). -/
def State.aslDue (s : State) : State :=
  (List.finRange 4).foldl (fun s c =>
    if s.asl.conns.any (fun k => k.core == c.val && s.aslOpen k) && s.aslSince c.val 10 then s.aslPass c [] 0 else s) s

def execAslServicePass (core : Fin 4) (placed : List AslPlace) (sof : BitVec 4) (s : State) : Res := .next (s.aslPass core placed sof)

end Sys2Proof.Machine
end

