-- ==== Sys2Proof/Machine/Kcp.lean ====
section
/-! DEFINITION. The commands of the command protocol: frames, HSPI, sessions, queues, notifications, mailboxes and every
opcode's request (R351–R400). -/

namespace Sys2Proof.Machine

/-! ### Frames (R354, R363) -/

def execKcpFrameReceive (t : Fin 12) (peer : Nat) (frame : List Byte) (s : State) : Res := .next (s.kpReceive t.val peer frame)

/-- The message in a reassembly buffer is discarded once REASM_TMO has passed since its first frame. -/
def State.reasmLate (s : State) (m : Reasm) : State :=
  if s.kpRuns && decide (m.began + s.reasmMs * 100000 ≤ s.tick) then
    match s.ctxOf m.ctx with
    | some x => s.reasmEnd m (tokOf m.ctx x (payU m.hdr 4 2) (payU m.hdr 6 2) (payU m.hdr 8 1 % 8))
    | none => s
  else s

def State.reasmTimeout (s : State) (i : Nat) : State :=
  match s.kcp.reasm[i]? with
  | none => s
  | some m => s.reasmLate m

def execKcpReassemblyTimeout (i : Fin 16) (s : State) : Res := .next (s.reasmTimeout i.val)

/-! ### HSPI (R355) -/

def State.hspiUsed (s : State) : Nat := s.kcp.hspiRx.foldl (fun n f => n + f.length) 0

/-- KP takes the frames in the receive buffer. -/
def State.hspiTake (s : State) : State :=
  if s.kpRuns then s.kcp.hspiRx.foldl (fun s f => s.kpReceive 11 0 f) (s.setKcp { s.kcp with hspiRx := [] }) else s

/-- A WRITE transaction: a frame and its CRC. -/
def State.hspiWrite (s : State) (l : List Byte) : State :=
  let n := 16 + payU l 10 2 + (if bitOf 6 (payU l 8 1) then 8 else 0)
  if 8192 < s.hspiUsed + n then s.setKcp { s.kcp with hspiOvf := true }
  else if l.length < n + 4 ∨ beNat ((l.drop n).take 4) ≠ crc32c (l.take n) then
    (s.setKcp { s.kcp with hspiCrc := true }).inc KCP_ERR1_BADHDR
  else (s.setKcp { s.kcp with hspiRx := s.kcp.hspiRx ++ [l.take n] }).hspiTake

def execHspiWrite (bytes : List Byte) (s : State) : Res := .next (if s.isOn 13 then s.hspiWrite bytes else s)

/-- A READ transaction of n data bytes: the frame stays unless its CRC has been clocked out. -/
def State.hspiRead (s : State) (n : Nat) : State :=
  match s.kcp.hspi with
  | f :: t =>
    if f.length + 4 ≤ n then
      s.setKcp { s.kcp with hspi := t, out := s.kcp.out ++ [⟨11, 0, f ++ beBytes 4 (crc32c f)⟩] }
    else s
  | [] => s

def execHspiRead (n : Nat) (s : State) : Res := .next (if s.isOn 13 then s.hspiRead n else s)

/-- The word of a STATUS transaction. -/
def State.hspiWord (s : State) : Nat :=
  (8192 - s.hspiUsed) * 65536 + min 255 s.kcp.hspi.length * 256 + 2 * b2n s.kcp.hspiOvf + b2n s.kcp.hspiCrc

/-- A STATUS transaction: its word is shifted out, and OVF and CRCERR clear. -/
def State.hspiStatus (s : State) : State :=
  s.setKcp { s.kcp with out := s.kcp.out ++ [⟨11, 0, beBytes 4 s.hspiWord⟩], hspiOvf := false, hspiCrc := false }

def execHspiStatus (s : State) : Res := .next (if s.isOn 13 then s.hspiStatus else s)

/-- Pad HSPI_INT_N. -/
def State.hspiIntN (s : State) : Bool := s.kcp.hspi.isEmpty

/-! ### Sessions and queues (R357, R358, R364, R366) -/

/-- The header of an OPEN frame. -/
def openHeader (seq : Nat) (auth : Bool) (len : Nat) : List Byte :=
  [0xA5, 0x02, 0, 0, 0x01, 0x01] ++ beBytes 2 seq ++ [BitVec.ofNat 8 (64 * b2n auth), 0] ++ beBytes 2 len ++ [0, 0, 0, 0]

/-- The tag of an OPEN frame is the one that the slot's key gives. -/
def State.openTag (s : State) (seq : Nat) (tag pay : List Byte) : Bool :=
  match s.kcp.keys.find? (fun e => e.1 == payU pay 0 1) with
  | some (_, k, _) => tag8 k (openHeader seq true pay.length ++ pay) == tag
  | none => false

def execOpenSession (t : Fin 12) (peer : Nat) (seq : BitVec 16) (tag : Option (List Byte)) (pay : List Byte) (s : State) : Res :=
  .next (if s.kpRuns && (!s.is SYSC_BOOT_RECOV || t == 11) then
      s.openRequest t.val peer 0 seq.toNat 0 tag.isSome (match tag with
        | some g => s.openTag seq.toNat g pay
        | none => false) pay
    else s)

def execLeaseExpiry (ctx : Fin 256) (s : State) : Res := .next (if s.kpRuns then s.leaseExpire ctx.val else s)

/-- The request at the head of the queue of class C(2 + k) leaves it. -/
def execKcpQueueDepart (k : Fin 4) (s : State) : Res := .next (if s.kpRuns then s.depart (k.val + 2) else s)

def deadlineDue (now : Nat) (d : Option Nat) : Bool := d.any (fun t => decide (t ≤ now))

/-- Requests and setpoints whose deadline tick has come are withdrawn and answered LATE: those that `mine` picks. -/
def State.lateEnd (s : State) (mine : Tok → Bool) : State :=
  let s := s.c1DropAll (fun e => mine e.tok && deadlineDue s.tick e.deadline) stLate
  [2, 3, 4, 5].foldl (fun s cls =>
    let q := s.queueOf cls
    let due (r : KReq) : Bool := mine r.tok && deadlineDue s.tick r.deadline
    ((q.filter due).map (fun r => r.tok)).foldl (fun s t => s.finalReply t stLate) (s.setQueue cls (q.filter (fun r => !due r)))) s

def State.deadlineExpire (s : State) (c seq : Nat) : State := s.lateEnd (fun t => t.handle / 256 == c && t.seq == seq)

def execKcpDeadlineExpiry (ctx : Fin 256) (seq : BitVec 16) (s : State) : Res :=
  .next (if s.kpRuns then s.deadlineExpire ctx.val seq.toNat else s)

/-! ### Notifications (R369, R379) -/

/-- The notification of a subscription is due: a change no sooner than 10 ms after the last one, or the end of a period. -/
def State.notifyDue (s : State) (b : Sub) : Bool :=
  let after (ms : Nat) : Bool := match b.last with
    | some t => decide (t + ms * 100000 ≤ s.tick)
    | none => true
  if b.op == 0x0503 then after b.period else b.dirty && after 10

def State.notifyScan (s : State) (c op : Nat) : State :=
  match s.ctxOf c with
  | some x =>
    match x.subs.find? (fun b => b.op == op) with
    | some b =>
      if s.kpRuns && x.live && s.notifyDue b then
        let s := s.setCtx c { x with subs := x.subs.map (fun (d : Sub) => if d.op == op then { d with last := some s.tick, dirty := false } else d) }
        s.notify c op 4 (beBytes 2 stOk ++ s.statusFields op b.mask)
      else s
    | none => s
  | none => s

/-- Every subscription whose notification is due (R379). -/
def State.notifyAll (s : State) : State :=
  s.kcp.ctxs.foldl (fun s e => e.2.subs.foldl (fun s b => s.notifyScan e.1 b.op) s) s

def execKcpNotify (ctx : Fin 256) (k : Fin 3) (s : State) : Res :=
  .next (s.notifyScan ctx.val (nth [0x0203, 0x0503, 0x0603] k.val 0))

/-! ### Customer opcodes (R370) -/

def execCustomerOpcode (op : Fin 4096) (cls : Fin 8) (q : Req) (s : State) : Res :=
  .next (s.request (0xF000 + op.val) cls.val q)

def execMbxDone (ini : Initiator) (m : Fin 8) (val : Word) (s : State) : Res :=
  .next (s.busWrite ini (MBX_DONE m.val).addr (fun s => s.mbxDoneWrite m.val val))

def execMbxTimeout (m : Fin 8) (slot : Fin 4) (s : State) : Res := .next (s.mbxTimeout m.val slot.val)

def execKcpLock (ini : Initiator) (val : Word) (s : State) : Res :=
  .next (s.busWrite ini KCP_CFG.addr (fun s => s.fieldWrite KCP_CFG.addr (val ||| 0x80000000)))

/-- What KP does at its time without a command: the leases, deadlines, reassembly buffers and customer replies whose tick has come
end (R354, R358, R366, R370), and the notifications that are due are sent (R379). -/
def State.kpDue (s : State) : State :=
  let s := s.leasesDue.lateEnd (fun _ => true)
  let s := s.kcp.reasm.foldl (fun s m => s.reasmLate m) s
  (s.kcp.mbx.foldl (fun s e => s.mbxTimeout e.mbx e.slot) s).notifyAll

/-! ### Requests (R380–R400) -/

def execModeEnter (q : Req) (s : State) : Res := .next (s.request 0x0201 2 q)
def execModeExit (q : Req) (s : State) : Res := .next (s.request 0x0202 2 q)
def execModeStatus (q : Req) (s : State) : Res := .next (s.request 0x0203 4 q)
def execSetptDrvA (q : Req) (s : State) : Res := .next (s.request 0x0301 1 q)
def execSetptDrvB (q : Req) (s : State) : Res := .next (s.request 0x0302 1 q)
def execSetptWhtA (q : Req) (s : State) : Res := .next (s.request 0x0303 1 q)
def execSetptWhtB (q : Req) (s : State) : Res := .next (s.request 0x0304 1 q)
def execSetptBch (q : Req) (s : State) : Res := .next (s.request 0x0305 1 q)
def execSetptChg (q : Req) (s : State) : Res := .next (s.request 0x0306 1 q)
def execSetptDcd (q : Req) (s : State) : Res := .next (s.request 0x0307 1 q)
def execCfgWrite (q : Req) (s : State) : Res := .next (s.request 0x0401 3 q)
def execCfgRead (q : Req) (s : State) : Res := .next (s.request 0x0402 3 q)
def execPolicyWrite (q : Req) (s : State) : Res := .next (s.request 0x0403 3 q)
def execPolicyRead (q : Req) (s : State) : Res := .next (s.request 0x0404 3 q)
def execOsdStart (q : Req) (s : State) : Res := .next (s.request 0x0501 4 q)
def execOsdResult (q : Req) (s : State) : Res := .next (s.request 0x0502 4 q)
def execStageStatus (q : Req) (s : State) : Res := .next (s.request 0x0503 4 q)
def execRegRead (q : Req) (s : State) : Res := .next (s.request 0x0504 4 q)
def execThermalStatus (q : Req) (s : State) : Res := .next (s.request 0x0505 4 q)
def execSafetyStatus (q : Req) (s : State) : Res := .next (s.request 0x0506 4 q)
def execCaptureStart (q : Req) (s : State) : Res := .next (s.request 0x0507 4 q)
def execCaptureRead (q : Req) (s : State) : Res := .next (s.request 0x0508 5 q)
def execForceCold (q : Req) (s : State) : Res := .next (s.request 0x0509 4 q)
def execActSeq (q : Req) (s : State) : Res := .next (s.request 0x0601 2 q)
def execActAbort (q : Req) (s : State) : Res := .next (s.request 0x0602 2 q)
def execActStatus (q : Req) (s : State) : Res := .next (s.request 0x0603 4 q)
def execBattLimits (q : Req) (s : State) : Res := .next (s.request 0x0701 2 q)
def execChgStatus (q : Req) (s : State) : Res := .next (s.request 0x0702 4 q)
def execLogRead (q : Req) (s : State) : Res := .next (s.request 0x0801 5 q)
def execFwBegin (q : Req) (s : State) : Res := .next (s.request 0x0901 5 q)
def execFwData (q : Req) (s : State) : Res := .next (s.request 0x0902 5 q)
def execFwEnd (q : Req) (s : State) : Res := .next (s.request 0x0903 5 q)
def execFwSelect (q : Req) (s : State) : Res := .next (s.request 0x0904 5 q)
def execFwInfo (q : Req) (s : State) : Res := .next (s.request 0x0905 4 q)
def execTimeGet (q : Req) (s : State) : Res := .next (s.request 0x0A01 4 q)
def execTimeDisc (q : Req) (s : State) : Res := .next (s.request 0x0A02 3 q)
def execTimeMaster (q : Req) (s : State) : Res := .next (s.request 0x0A03 3 q)
def execClose (q : Req) (s : State) : Res := .next (s.request 0x0102 0 q)
def execRenew (q : Req) (s : State) : Res := .next (s.request 0x0103 0 q)

end Sys2Proof.Machine
end

