-- ==== Sys2Proof/Machine/Bus.lean ====
section
/-! DEFINITION. What a bus access does in its block, for every window of the address map: the effects of writes and reads, the
register write row, the TIMEBASE rows and the fabric port of the CE memories (R16–R18, R24–R26, R71–R73). -/

namespace Sys2Proof.Machine

/-! ### Writes by block -/

/-- A register of PWM module k at offset o. -/
def State.pwmRegWrite (s : State) (k o : Nat) (v : Word) : State :=
  let a := 0x40000000 + k * 0x400 + o
  if o == 0 then s.pwmCtrlWrite k v
  else if 4 ≤ o ∧ o < 0x24 then s.pwmShadowWrite k ((o - 4) / 4) v
  else if o == 0x24 then s.pwmForceWrite k v
  else if o == 0x28 then s.tripCfgWrite k v
  else if o == 0x2C then s.pwmTripClear k v
  else s.fieldWrite a v

def State.pwmWindow (s : State) (ini : Initiator) (a : Nat) (v : Word) : State :=
  if s.ceStoreDiscard ini then s.countDiscard ini
  else if (rowOf a).isNone then s
  else if a < 0x40008000 then
    (let k := (a - 0x40000000) / 0x400
     s.pwmOwned ini k (fun s => s.pwmRegWrite k (a % 0x400) v))
  else if a == PWMG_START.addr then s.pwmEach ini v (fun s k => s.pwmStart k)
  else if a == PWMG_COMMIT.addr then s.pwmEach ini v (fun s k => s.pwmCommit k)
  else s.fieldWrite a v

/-- The gate-drive window; whether a rail or a bootstrap supply is good again at a clear, which the spec leaves to the analogue
side, is open here. -/
def State.gdWindow (s : State) (a : Nat) (v : Word) : State :=
  if a < 0x40104000 then
    (let g := (a - 0x40100000) / 0x100
     let o := a % 0x100
     if !s.gatePopulated g then s
     else if o == 0 then s.gdCfgWrite g v
     else if o == 0x08 || o == 0x0C then s.profileWrite g (o == 0x08) v
     else if o == 0x10 then s.loopWrite g v
     else if o == 0x20 then s.useFree.gdStatusWrite g v s.freeBool
     else if o == 0x2C then s.bootWrite g v
     else if o == 0x40 then s.protWrite g v
     else if o == 0x44 then s.useFree.useFree.pfltWrite g v s.freeBool s.useFree.freeBool
     else s.fieldWrite a v)
  else if a == GDG_OSDCTRL.addr then s.osdCtrlWrite v
  else if inWin 0x40108200 0x40108280 a && (a % 0x10 == 0 || a % 0x10 == 4) then s.scgWrite a v
  else if inWin 0x40108200 0x40108280 a && a % 0x10 == 0xC then s.scgClear ((a - 0x40108200) / 0x10) v
  else s.fieldWrite a v

def State.convWindow (s : State) (a : Nat) (v : Word) : State :=
  if a < 0x40201800 ∧ a % 0x100 = 0 then s.adCfgWrite ((a - 0x40200000) / 0x100) v
  else if a == ADG_VDCSRC.addr then s.vdcSrcWrite v
  else if a < 0x40201800 ∧ a % 0x100 = 4 then s.adSeqWrite ((a - 0x40200000) / 0x100) v
  else if inWin 0x40204000 0x40205000 a && a % 0x40 == 0 then s.wuSrcWrite ((a - 0x40204000) / 0x40) v
  else if a == (WUG_SWTRIG 0).addr then s.swTrig false v
  else if a == (WUG_SWTRIG 1).addr then s.swTrig true v
  else if inWin 0x40206000 0x40206080 a && a % 0x20 == 8 then
    (let n := (a - 0x40206000) / 0x20
     let s := if bitOf 1 v.toNat then s.capStop n else s
     if bitOf 0 v.toNat then s.capStart n else s)
  else s.fieldWrite a v

/-- Clearing a readback failure releases the comparator that it holds: its input decides again (R192). -/
def State.dacFltWrite (s : State) (a : Nat) (v : Word) : State :=
  let base := (a - (WMG_DACFLT 0).addr) / 4 * 32
  let s := s.fieldWrite a v
  let left := (s.rd (regAt a)).toNat
  s.setFox { s.fox with hk := (setBits 32 v.toNat).foldl (fun h i => if bitOf i left then h else putBit (base + i) h false) s.fox.hk }

def State.wmWindow (s : State) (a : Nat) (v : Word) : State :=
  if a < 0x40300600 then
    (let m := (a - 0x40300000) / 0x20
     if a % 0x20 == 0 then s.wmCfgWrite m v else if a % 0x20 == 4 then s.wmThWrite m v else s.fieldWrite a v)
  else if inWin (WMG_DACFLT 0).addr ((WMG_DACFLT 0).addr + 12) a then s.dacFltWrite a v
  else if isRouteReg a then s.routeWrite a v
  else s.fieldWrite a v

def State.posWindow (s : State) (a : Nat) (v : Word) : State :=
  if a < 0x40400800 then
    (let n := (a - 0x40400000) / 0x100
     let o := a % 0x100
     if o == 0 then s.posCfgWrite n v
     else if o == 0x14 then s.posCntWrite n v
     else if o == 0x1C then s.posStatusWrite n v
     else if o == 0x40 then s.posRestart n v
     else s.fieldWrite a v)
  else if inWin 0x40402000 0x40402200 a then
    (let n := (a - 0x40402000) / 0x100
     if a % 0x100 == 0 then s.resCfgWrite n v else if a % 0x100 == 0x1C then s.resStatusWrite n v else s.fieldWrite a v)
  else s.fieldWrite a v

/-- A write of a CE's own block: it writes only W1C fields there. -/
def State.ceOwnWrite (s : State) (ini : Initiator) (n o a : Nat) (v : Word) : State :=
  if o == 0x3C then s.ceDlstatWrite ini n v
  else if o == 0x40 || o == 0x44 then s.fieldWrite a v
  else s

def State.ceWindow (s : State) (ini : Initiator) (a : Nat) (v : Word) : State :=
  if inWin 0x40500400 0x40500800 a then
    (let n := (a - 0x40500400) / 0x80
     let o := a % 0x80
     if !notCe ini then s.ceOwnWrite ini n o a v
     else if o == 0 then s.ceCtrlWrite n v
     else if (tsOf o).isSome then s.ceSetWrite n a v
     else if o == 0x3C then s.ceDlstatWrite ini n v
     else if o == 0x48 then s.ceRing n v
     else s.fieldWrite a v)
  else if a == LGC_BATLIM.addr then s.batlimWrite v
  else s.fieldWrite a v

/-- A protection unit is written by its own thread only; in a redundant core every copy writes the unit of thread 0
(R337, R339). -/
def State.puWrite (s : State) (ini : Initiator) (a : Nat) (v : Word) : State :=
  match ini with
  | .sc c t =>
    let u := (a - 0x40700000) / 0x100
    if u == c.val * 3 + (if s.scRedundant c.val then 0 else t.val) then s.fieldWrite a v else s
  | _ => s

/-- Badger's window: its request and configuration registers, and counters cleared by a write (R31, R299). -/
def State.hsmWindow (s : State) (ini : Initiator) (a : Nat) (v : Word) : State :=
  if a == HSM_ACK.addr then s.hsmFrom ini (fun s => s.hsmAck v)
  else if a == HSM_REQ.addr then s.hsmFrom ini (fun s => s.hsmReq v)
  else if inWin (HSM_WDANS 0).addr ((HSM_WDANS 0).addr + 32) a then
    (match ini with
     | .sc c _ => s.hsmFrom ini (fun s => s.wdAnswer c.val ((a - (HSM_WDANS 0).addr) / 4) v)
     | _ => s.hsmFrom ini (fun s => s))
  else if inWin (HSM_WDCFG 0).addr ((HSM_WDCFG 0).addr + 32) a then
    s.hsmFrom ini (fun s => s.wdCfgWrite ((a - (HSM_WDCFG 0).addr) / 4) v)
  else if inWin 0x50000100 0x50000200 a then s.hsmFrom ini (fun s => s)
  else s.fieldWrite a v

def State.sysWindow (s : State) (ini : Initiator) (a : Nat) (v : Word) : State :=
  if a == SUP_CFG.addr then s.supCfgWrite v
  else if a == PDC_REQ.addr then s.pdcWrite ini v
  else if a == SUP_STBY.addr then s.stbyWrite ini v
  else if a == SYSC_RST.addr then s.rstWrite ini v
  else if a == MDM_PLUGPOL.addr then s.policyWrite 0 v
  else if a == MDM_PAIRDENY.addr then s.policyWrite 1 v
  else if a == MDM_PLUG.addr then s.policyWrite 2 v
  else if inWin 0x70100000 0x70100100 a && a % 0x20 == 8 then s.mbxDoneWrite ((a - 0x70100000) / 0x20) v
  else s.fieldWrite a v

/-- The mailbox area and the snapshot bank of a CE's data memory ignore its own stores (R201, R207). -/
def ceOwnKept (ini : Initiator) (a : Nat) : Bool :=
  match ini with
  | .ce n => inWin (0x3003FA00 + n.val * 0x40000) (0x3003FC00 + n.val * 0x40000) a
      || inWin (0x3003FC00 + n.val * 0x40000) (0x30040000 + n.val * 0x40000) a
  | _ => false

/-- What a register window does with a 32-bit write. -/
def State.regWrite (s : State) (ini : Initiator) (a : Nat) (v : Word) : State :=
  if a < 0x40100000 then s.pwmWindow ini a v
  else if a < 0x40200000 then s.gdWindow a v
  else if a < 0x40300000 then s.convWindow a v
  else if a < 0x40400000 then s.wmWindow a v
  else if a < 0x40500000 then s.posWindow a v
  else if a < 0x40600000 then s.ceWindow ini a v
  else if inWin 0x40600000 0x40602000 a then s.dmaWrite ini a v
  else if inWin 0x40700000 0x40800000 a then s.puWrite ini a v
  else if inWin 0x50000000 0x50100000 a then s.hsmWindow ini a v
  else if inWin 0x60000000 0x60010000 a then s.canWrite ini a v
  else if inWin 0x70000000 0x70200000 a then s.sysWindow ini a v
  else s.fieldWrite a v

/-- The windows that hold memory. -/
def isMemory (a : Nat) : Bool := decide (a < 0x40000000) || inWin 0x60010000 0x60020000 a || inWin 0x70110000 0x70150000 a

/-- A store of bytes that has passed the bus: to memory, or as one 32-bit write to a register; a narrower one at an address
that is not a multiple of 4 reaches an unlisted offset (DEDUCED, log entry 31). -/
def State.blockStore (s : State) (ini : Initiator) (a : Nat) (v : List Byte) : State :=
  if ceOwnKept ini a then s
  else if inWin 0x30000000 0x30200000 a then s.tcmStore ini a v v.length
  else if inWin 0x60010000 0x60020000 a then s.canRamWrite a v
  else if isMemory a then s.memStore a v
  else if a % 4 != 0 then s
  else s.regWrite ini a (BitVec.ofNat 32 (leNat v))

/-- A store of bytes. -/
def State.busStore (s : State) (ini : Initiator) (a : Nat) (v : List Byte) : State :=
  s.busWrite ini a (fun s => s.blockStore ini a v) v.length

def execRegisterWrite (ini : Initiator) (addr val : Word) (s : State) : Res :=
  .next (s.busStore ini addr.toNat (leBytes 4 val.toNat))

/-! ### Reads by block -/

/-- A read of a register: its value, and what the read does. -/
def State.regRead (s : State) (ini : Initiator) (a : Nat) : Word × State :=
  if inWin 0x60000000 0x60004000 a && a % 0x1000 == 0x80 then s.canRxRead ((a - 0x60000000) / 0x1000) else s.latchRead ini a

/-- A load of n bytes that has passed the bus. -/
def State.blockLoad (s : State) (ini : Initiator) (a n : Nat) : List Byte × State :=
  if inWin 0x30000000 0x30200000 a && notCe ini then (s.tcmBytes a n, s)
  else if isMemory a then (s.memBytes a n, s)
  else if a % 4 != 0 then (List.replicate n 0, s)
  else
    let r := s.regRead ini a
    ((leBytes 4 r.1.toNat).take n, r.2)

/-! ### TIMEBASE (R72, R73) -/

def execTbLoRead (ini : Initiator) (s : State) : Res := .next (s.busRead ini TB_LO.addr (fun s => s.tbLatchSet ini))

def execTbCtrlWrite (ini : Initiator) (val : Word) (s : State) : Res :=
  .next (s.busWrite ini TB_CTRL.addr (fun s => s.fieldWrite TB_CTRL.addr val))

/-! ### The fabric port of the CE memories (R26) -/

/-- What an SC thread loads is left to its program. -/
def State.scLoaded (s : State) (ini : Initiator) (v : Word) : State :=
  match ini with
  | .sc c t => s.setScThreads (s.sc.set (c.val * 3 + t.val) { nth s.sc (c.val * 3 + t.val) ScThr.idle with loaded := v })
  | _ => s

/-- A fabric access to a word of a CE memory. -/
def State.tcmAccess (s : State) (ini : Initiator) (a : Nat) (data : Option Word) : State :=
  match data with
  | none => s.busRead ini a (fun s => s.scLoaded ini (BitVec.ofNat 32 (leNat (s.tcmBytes a 4))))
  | some v => s.busStore ini a (leBytes 4 v.toNat)

def execFabricTcmAccess (ini : Initiator) (w : BitVec 19) (data : Option Word) (s : State) : Res :=
  .next (s.tcmAccess ini (0x30000000 + 4 * w.toNat) data)

end Sys2Proof.Machine
end

