-- ==== Sys2Proof/Machine/EvlDma.lean ====
section
/-! DEFINITION. The event-log writer with the fault log, and the block engine of the DMA channels (R74–R76, R330, R333–R336,
R344, R347–R349). -/

namespace Sys2Proof.Machine

/-! ### The event log (R74–R76) -/

/-- An event is written before another: an earlier tick, then the order of R68. -/
def evBefore (a b : EvEntry) : Bool :=
  decide (a.stamp < b.stamp) || (a.stamp == b.stamp && decide (a.place < b.place))

/-- The next event to be written. -/
def evNext : List EvEntry → Option EvEntry
  | [] => none
  | e :: t => match evNext t with
    | some f => if evBefore f e then some f else some e
    | none => some e

/-- The queue without its first copy of an event. -/
def evRemove (e : EvEntry) : List EvEntry → List EvEntry
  | [] => []
  | f :: t => if f == e then t else f :: evRemove e t

/-- The 32 bytes of a record; DATA bytes that no rule names are open. -/
def State.evRecord (s : State) (e : EvEntry) (order : Nat) (simul : Bool) : List Byte :=
  let flags := b2n e.fox + 2 * b2n simul + 4 * b2n s.evl.ovfl + 8 * b2n e.notApplied + 16 * b2n s.evl.restart
  let data := (e.data ++ (List.range 12).map (fun i => BitVec.ofNat 8 (Config.freeWord (s.fresh + i)).toNat)).take 12
  let body := leBytes 8 e.stamp ++ leBytes 2 (e.level * 4096 + e.index) ++ [BitVec.ofNat 8 e.typ, BitVec.ofNat 8 flags]
    ++ leBytes 2 s.evl.seq ++ leBytes 2 order ++ data
  body ++ leBytes 4 (crc32c body)

/-- HK copies a record into the fault log: two records make one block write (R330, R472). -/
def State.faultCopy (s : State) (r : List Byte) : State :=
  if s.start.faultBuf.isEmpty then s.setStart { s.start with faultBuf := r }
  else
    let a := 0x00100000 + s.start.faultAt * 32
    let at' := (s.start.faultAt + 2) % 32768
    let s := s.memStore a (s.start.faultBuf ++ r)
    s.setStart
      { s.start with faultBuf := [], faultAt := at', faultCnt := min 32768 (s.start.faultCnt + 2),
                     faultIdx := if at' % 8 == 0 then at' else s.start.faultIdx }

/-- The writer stores the next queued event of an earlier tick, at most one in each tick. -/
def State.evWrite (s : State) : State :=
  match evNext s.evl.queue with
  | some e =>
    if s.ticking && s.pllA && s.evl.lastTick != some s.tick && decide (e.stamp < s.timebase) then
      let rest := evRemove e s.evl.queue
      let again := s.evl.lastStamp == some e.stamp
      let order := if again then s.evl.lastOrder + 1 else 0
      let r := s.evRecord e order (again || rest.any (fun f => f.stamp == e.stamp))
      let w := s.get EVL_STATUS_WRIDX
      let s := (s.wrBytes (0x21F80000 + 32 * w) r).wrapInc EVL_STATUS_WRIDX
      let s := s.setFresh (s.fresh + 12)
      let s := s.setEvl { s.evl with queue := rest, seq := (s.evl.seq + 1) % 65536, ovfl := false, restart := false,
                                     lastStamp := some e.stamp, lastOrder := order, lastTick := some s.tick }
      let s := s.setStart { s.start with evlIdx := (w + 1) % 4096, evlCnt := min 4096 (s.start.evlCnt + 1) }
      if s.start.kp && (decide (e.level ≤ 3) || (e.level == 6 && decide (64 ≤ e.index))) then s.faultCopy r else s
    else s
  | none => s

def execEvlRecordWrite (s : State) : Res := .next s.evWrite

/-! ### Fabric and memory errors (R333–R335) -/

/-- The re-sends and corrected errors of an access at address a are counted. -/
def State.fabCount (s : State) (a resends fixed : Nat) : State :=
  let s := s.incBy MEM_FABERR_RESEND_CNT resends
  if a < 0x04000000 then s.incBy MEM_MRAMERR_CE_CNT fixed
  else if inWin 0x20000000 0x22000000 a then s.incBy MEM_SRAMERR_CE_CNT fixed
  else s

/-- Three re-sends have failed. -/
def State.fabFault (s : State) : State := (s.incBy MEM_FABERR_RESEND_CNT 3).inc MEM_FABERR_FLT_CNT

/-- An uncorrectable error of MRAM or SRAM at address a. -/
def State.memBad (s : State) (a : Nat) : State :=
  if a < 0x04000000 then (s.inc MEM_MRAMERR_UE_CNT).put MEM_MRAMUEA_ADDR a
  else (s.inc MEM_SRAMERR_UE_CNT).put MEM_SRAMUEA_ADDR a

/-- The memory behind address a has a code that finds uncorrectable errors. -/
def hasCode (a : Nat) : Bool := decide (a < 0x04000000) || inWin 0x20000000 0x22000000 a

/-- How an access ends: the TYPE of R336 of its failure, or none. -/
def State.fabEnd (s : State) (a : Nat) (r : FabRes) : Option Nat × State :=
  match r with
  | .ok n k => (none, s.fabCount a n k)
  | .resendsOut => (some 0x22, s.fabFault)
  | .uncorrectable => if hasCode a then (some (if a < 0x04000000 then 0x24 else 0x23), s.memBad a) else (none, s)

/-! ### Blocks (R342, R347) -/

/-- The bytes of channel c's next block. -/
def State.dmaLen (s : State) (c : Nat) : Nat :=
  let rem := s.get (DMA_REMAIN_REMAIN c)
  if s.is (DMA_CFG_SRCINC c) then min rem (64 - s.get (DMA_CURSRC_CURSRC c) % 64)
  else if s.is (DMA_CFG_DSTINC c) then min rem (64 - s.get (DMA_CURDST_CURDST c) % 64)
  else min rem 64

/-- The channel reads a queue that its request serves. -/
def State.dmaQueue (s : State) (c : Nat) : Bool :=
  let q := s.get (DMA_CFG_REQSEL c)
  !s.is (DMA_CFG_SRCINC c) && ((decide (1 ≤ q) && decide (q ≤ 5)) || q == 0x18)

/-- A fixed source whose reads have side effects. -/
def State.dmaSide (s : State) (c p : Nat) : Bool :=
  s.dmaQueue c || (!s.is (DMA_CFG_SRCINC c) && inWin 0x60000000 0x60004000 p && p % 0x1000 == 0x80)

/-- Bytes leave the result queue; a partly read record stays at its front. -/
def takeRecs : Nat → List (List Byte) → List (List Byte)
  | n, r :: t => if n == 0 then r :: t else if r.length ≤ n then takeRecs (n - r.length) t else r.drop n :: t
  | _, [] => []

/-- n bytes leave the result queue. -/
def State.rqTake (s : State) (n : Nat) : State :=
  let s := s.setConv { s.conv with rq := takeRecs n s.conv.rq }
  s.put RQ_STATUS_FILL s.conv.rq.length

/-- n bytes of the queue that request q serves; beyond its contents the spec gives no value. -/
def State.queueRead (s : State) (q n : Nat) : List Byte × State :=
  let fill (l : List Byte) : List Byte :=
    (l ++ (List.range n).map (fun i => BitVec.ofNat 8 (Config.freeWord (s.fresh + i)).toNat)).take n
  let used (s : State) : State := s.setFresh (s.fresh + n)
  if q == 1 then
    let l := s.conv.rq.flatten.take n
    (fill l, used (s.rqTake n))
  else if q ≤ 5 then
    let w := nth s.conv.caps (q - 2) []
    (fill ((w.take (n / 2)).flatMap (fun x => leBytes 2 x.toNat)),
     used (s.setConv { s.conv with caps := s.conv.caps.set (q - 2) (w.drop (n / 2)) }))
  else
    let s' := s.setEth { s.eth with rxq := s.eth.rxq.drop n, rxr := takeRecords n s.eth.rxr }
    (fill (s.eth.rxq.take n), used (s'.put ETH_APPSTAT_RXFILL s'.eth.rxq.length))

/-- k reads of 4 bytes from one address, or from rising ones. -/
def State.wordReads (s : State) (ini : Initiator) (a : Nat) (inc : Bool) : Nat → List Byte × State
  | 0 => ([], s)
  | k + 1 =>
    let r := s.blockLoad ini a 4
    let t := r.2.wordReads ini (if inc then a + 4 else a) inc k
    (r.1 ++ t.1, t.2)

/-- A block's data, with the effects of reading it. -/
def State.dmaRead (s : State) (c p n : Nat) : List Byte × State :=
  if s.dmaQueue c then s.queueRead (s.get (DMA_CFG_REQSEL c)) n
  else
    match Nat.decLt c 32 with
    | .isTrue h => s.wordReads (.dma ⟨c, h⟩) p (s.is (DMA_CFG_SRCINC c)) (n / 4)
    | .isFalse _ => ([], s)

def State.wordWrites (s : State) (ini : Initiator) (a : Nat) (inc : Bool) (l : List Byte) : Nat → State
  | 0 => s
  | k + 1 => (s.blockStore ini a (l.take 4)).wordWrites ini (if inc then a + 4 else a) inc (l.drop 4) k

/-- A block's data reach the destination: the transmit FIFO's window for its request, or memory and registers. -/
def State.dmaPut (s : State) (c p : Nat) (l : List Byte) : State :=
  if !s.is (DMA_CFG_DSTINC c) && s.get (DMA_CFG_REQSEL c) == 0x1A then
    (List.range (l.length / 4)).foldl (fun s i => s.ethTxWrite (BitVec.ofNat 32 (leNat ((l.drop (4 * i)).take 4)))) s
  else
    match Nat.decLt c 32 with
    | .isTrue h => s.wordWrites (.dma ⟨c, h⟩) p (s.is (DMA_CFG_DSTINC c)) l (l.length / 4)
    | .isFalse _ => s

def State.dmaOk (s : State) (c a : Nat) (write : Bool) : Bool :=
  match Nat.decLt c 32 with
  | .isTrue h => s.busOk (.dma ⟨c, h⟩) a write
  | .isFalse _ => false

/-- The steps of a block (R347): the ERR code, TYPE, address and lost read of the first that fails, or none. -/
structure BlockEnd where
  err : Nat
  typ : Nat
  addr : Nat
  lost : Bool
  deriving DecidableEq, Repr

/-- A write of less than 64 bits to SRAM, which reads its word first (R334). -/
def mergesWord (p n : Nat) (inc : Bool) : Bool :=
  inWin 0x20000000 0x22000000 p && (!inc || p % 8 != 0 || (p + n) % 8 != 0)

def State.dmaSteps (s : State) (c n : Nat) (rd wr : FabRes) : Option BlockEnd × State :=
  let src := s.get (DMA_CURSRC_CURSRC c)
  let dst := s.get (DMA_CURDST_CURDST c)
  let sid := s.get (DMA_CFG_SID c)
  match s.translate sid src false with
  | none => (some ⟨1, 0x20, src, false⟩, s)
  | some ps =>
    match s.translate sid dst true with
    | none => (some ⟨2, 0x20, dst, false⟩, s)
    | some pd =>
      let side := s.dmaSide c ps
      if !s.dmaOk c ps false then (some ⟨3, 0x21, ps, false⟩, s)
      else
        let data := s.dmaRead c ps n
        let (re, s) := data.2.fabEnd ps rd
        match re with
        | some t => (some ⟨if t == 0x22 then 5 else 7, t, ps, side⟩, s)
        | none =>
          if !s.dmaOk c pd true then (some ⟨4, 0x21, pd, side⟩, s)
          else
            let bad := wr == .uncorrectable && mergesWord pd n (s.is (DMA_CFG_DSTINC c))
            let (we, s) := if bad then s.fabEnd pd wr else if wr == .uncorrectable then (none, s) else s.fabEnd pd wr
            match we with
            | some t => (some ⟨if t == 0x22 then 6 else 9, t, pd, side⟩, s)
            | none => (none, s.dmaPut c pd data.1)

/-! ### Block boundaries (R344, R345) -/

/-- Some other channel that wants the engine has a higher priority. -/
def State.dmaOutranked (s : State) (c : Nat) : Bool :=
  (List.range 32).any (fun d => d != c && s.dmaWants d && decide (s.get (DMA_CFG_PRIO c) < s.get (DMA_CFG_PRIO d)))

/-- After a written block: the counts, then completion, abort, pre-emption, the end of the burst, or the next block. -/
def State.dmaBoundary (s : State) (c n : Nat) : State :=
  let s := s.put (DMA_DONE_DONE c) (s.get (DMA_DONE_DONE c) + n)
  let s := s.put (DMA_REMAIN_REMAIN c) (s.get (DMA_REMAIN_REMAIN c) - n)
  let s := if s.is (DMA_CFG_SRCINC c) then s.put (DMA_CURSRC_CURSRC c) (s.get (DMA_CURSRC_CURSRC c) + n) else s
  let s := if s.is (DMA_CFG_DSTINC c) then s.put (DMA_CURDST_CURDST c) (s.get (DMA_CURDST_CURDST c) + n) else s
  let x := s.dmaCh c
  let s := s.setDmaCh c { x with left := x.left - 1 }
  if x.abort then (((s.put (DMA_STAT_STATE c) 6).setDmaCh c ⟨0, false, false⟩).dmaRelease c).dmaArbitrate
  else if s.get (DMA_REMAIN_REMAIN c) == 0 then ((s.dmaComplete c).dmaRelease c).dmaArbitrate
  else if s.dmaOutranked c then (((s.put (DMA_STAT_STATE c) 3).inc DMAG_PRE_PRE_CNT).dmaRelease c).dmaArbitrate
  else if 1 < x.left then s
  else ((s.put (DMA_STAT_STATE c) 1).dmaRelease c).dmaArbitrate

/-- A side of channel c's next block is not answered: the clock behind its address has stopped. -/
def State.dmaStuck (s : State) (c : Nat) : Bool :=
  let stuck (a : Nat) (w : Bool) := match s.translate (s.get (DMA_CFG_SID c)) a w with
    | some p => !s.answers (.dma 0) p
    | none => false
  stuck (s.get (DMA_CURSRC_CURSRC c)) false || stuck (s.get (DMA_CURDST_CURDST c)) true

/-- The engine moves the next block of its channel. -/
def State.dmaBlock (s : State) (rd wr : FabRes) : State :=
  match s.dma.cur with
  | some c =>
    if s.isOn 4 && s.pllA && !s.dmaStuck c then
      let n := s.dmaLen c
      match s.dmaSteps c n rd wr with
      | (some e, s) =>
        let s := if e.lost then s.put (DMA_STAT_LOSTRD c) 1 else s
        ((s.dmaFault c e.err e.typ e.addr).dmaRelease c).dmaArbitrate
      | (none, s) => s.dmaBoundary c n
    else s
  | none => s

def execDmaBlock (rd wr : FabRes) (s : State) : Res := .next (s.dmaBlock rd wr)

end Sys2Proof.Machine
end

