-- ==== Sys2Proof/Machine/CeOps.lean ====
section
/-! DEFINITION. The control engines' registers, addresses, traps and loads and stores (R194–R198, R336, R338). -/

namespace Sys2Proof.Machine

/-! ### Registers and fields -/

def CeCore.xr (c : CeCore) (i : Nat) : Word := nth c.x i 0
def CeCore.fr (c : CeCore) (i : Nat) : Nat := (nth c.f i 0).toNat
def CeCore.vr (c : CeCore) (i : Nat) : List Word := nth c.v i (List.replicate 6 0)
def CeCore.mr (c : CeCore) (i : Nat) : List Word := nth c.m i (List.replicate 36 0)
def CeCore.setX (c : CeCore) (i : Nat) (v : Word) : CeCore := if i == 0 then c else { c with x := c.x.set i v }
def CeCore.setF (c : CeCore) (i v : Nat) : CeCore := { c with f := c.f.set i (BitVec.ofNat 32 v) }
def CeCore.setV (c : CeCore) (i : Nat) (v : List Word) : CeCore := { c with v := c.v.set i v }
def CeCore.setM (c : CeCore) (i : Nat) (v : List Word) : CeCore := { c with m := c.m.set i v }

/-- Exception flags accumulate in fcsr. -/
def CeCore.flags (c : CeCore) (k : Nat) : CeCore := { c with fcsr := c.fcsr ||| k % 32 }

/-- A binary32 result with its flags. -/
def CeCore.putF (c : CeCore) (i : Nat) (r : Nat × Nat) : CeCore := (c.setF i r.1).flags r.2

/-- The instruction retires: the next one follows it, or stands at a target. -/
def CeCore.retireAt (c : CeCore) (pc : Nat) : CeCore := { c with pc := pc % 2 ^ 32, minstret := (c.minstret + 1) % 2 ^ 64 }
def CeCore.retire (c : CeCore) : CeCore := c.retireAt (c.pc + 4)

def fRd (w : Nat) : Nat := bitsOf 11 7 w
def fRs1 (w : Nat) : Nat := bitsOf 19 15 w
def fRs2 (w : Nat) : Nat := bitsOf 24 20 w
def fRs3 (w : Nat) : Nat := bitsOf 31 27 w
def fF3 (w : Nat) : Nat := bitsOf 14 12 w
def fF7 (w : Nat) : Nat := bitsOf 31 25 w
def fOp (w : Nat) : Nat := bitsOf 6 0 w

/-! ### Execution and traps (R198) -/

/-- CE n executes instructions. -/
def State.ceRuns (s : State) (n : Nat) : Bool := s.ticking && s.get (CE_STATUS_STATE n) == 2

/-- The fabric address of an address in CE n's own memory. -/
def ceOwn (n a : Nat) : Nat := 0x30000000 + n * 0x40000 + a

/-- The word at CE n's PC, where it lies in its own memory. -/
def State.ceFetch (s : State) (n : Nat) : Option Nat :=
  let pc := (s.ceOf n).pc
  if pc < 0x40000 then some (s.rdMem32 (ceOwn n pc)).toNat else none

/-- A trap: with TRAPHALT the CE halts at the instruction, otherwise it enters the handler at mtvec. -/
def State.ceTrap (s : State) (n cause tval : Nat) : State :=
  let c := s.ceOf n
  let c := { c with mepc := c.pc, mcause := cause, mtval := tval }
  let s := (s.put (CE_STATUS_TRAPCAUSE n) cause).irq .sc (ceBase n) 1
  if s.is (CE_CTRL_TRAPHALT n) then ((s.setCe n c).put (CE_CTRL_HALT n) 1).put (CE_STATUS_STATE n) 3
  else
    let mie := bitsOf 3 3 c.mstatus
    (s.setCe n { c with pc := c.mtvec / 4 * 4, mstatus := putBits 7 7 (putBits 3 3 c.mstatus 0) mie }).put (CE_STATUS_STATE n) 2

/-- A trap for a bus error is logged with its address, pc and cause (R336). -/
def State.ceBusTrap (s : State) (n cause a typ : Nat) : State :=
  (s.log 6 (108 + n) typ (leBytes 4 a ++ leBytes 4 (s.ceOf n).pc ++ [BitVec.ofNat 8 cause])).ceTrap n cause a

/-- The earliest bus error of a CE's stores traps at the instruction boundary (R338). -/
def State.ceStoreError (s : State) (n : Nat) : State :=
  let mine (i : Initiator) : Bool := match i with
    | .ce k => k.val == n
    | _ => false
  let st := s.get (CE_STATUS_STATE n)
  if s.ticking && (st == 1 || st == 2) then
    match s.busErr.find? (fun (e : Initiator × Nat × Nat) => mine e.1) with
    | some (i, a, t) => ((s.setBusErr (s.busErr.erase (i, a, t))).ceUntake n).ceBusTrap n 7 a t
    | none => s
  else s

def execCeStoreBusError (n : Fin 8) (s : State) : Res := .next (s.ceStoreError n.val)

/-! ### Loads and stores (R196, R201, R207) -/

/-- A physical address: the CE's own memory lies in its slice. -/
def cePhys (n a : Nat) : Nat := if a < 0x40000 then ceOwn n a else a

/-- A load of k bytes, then f with the bytes; a misaligned or failing one traps. -/
def State.ceLoad (s : State) (n : Fin 8) (a k : Nat) (fab : FabRes) (f : List Byte → State → State) : State :=
  if a % k != 0 then s.ceTrap n.val 4 a
  else if a < 0x40000 then f (s.rdBytes (ceOwn n.val a) k) s
  else if !s.answers (.ce n) a then s
  else if !s.busOk (.ce n) a false k then s.ceBusTrap n.val 5 a 0x21
  else
    let r := s.blockLoad (.ce n) a k
    match (if ctlPort a then (none, r.2) else r.2.fabEnd a fab) with
    | (some t, s) => s.ceBusTrap n.val 5 a t
    | (none, s) => f r.1 s

/-- A store that retires; its bus error returns later. One through the control port lands three cycles after it; a PWM store is
discarded here where the engine's stores are withheld (R197, R205, R206). -/
def State.cePost (s : State) (n : Fin 8) (a : Nat) (v : List Byte) (fab : FabRes) : State :=
  let p := cePhys n.val a
  if a < 0x40000 then s.blockStore (.ce n) p v
  else if !s.answers (.ce n) a || !s.busOk (.ce n) a true v.length then s.busStore (.ce n) a v
  else if ctlPort a then
    if inWin 0x40000000 0x40100000 a && s.ceStoreDiscard (.ce n) then s.countDiscard (.ce n)
    else s.setCe n.val { s.ceOf n.val with posts := (s.ceOf n.val).posts ++ [(s.cyc + 3, a, v)] }
  else
    let bad := fab == .uncorrectable && mergesWord a v.length true
    match (if fab == .uncorrectable && !bad then (none, s) else s.fabEnd a fab) with
    | (some t, s) => s.setBusErr (s.busErr ++ [(.ce n, a, t)])
    | (none, s) => s.blockStore (.ce n) a v

/-- A control-port store lands. WITHHOLD does not stop one that retired before the deadline, an escalation does (R205, R206). -/
def State.ceLandOne (s : State) (n : Fin 8) (a : Nat) (v : List Byte) : State :=
  let w := (s.ceOf n.val).withhold
  let s := (s.setCe n.val { s.ceOf n.val with withhold := false }).busStore (.ce n) a v
  s.setCe n.val { s.ceOf n.val with withhold := w }

/-- The control-port stores of CE n that land in the present cycle. -/
def State.ceLand (s : State) (n : Fin 8) : State :=
  let c := s.ceOf n.val
  let due := c.posts.filter (fun p => decide (p.1 ≤ s.cyc))
  if due.isEmpty then s
  else
    let s := s.setCe n.val { c with posts := c.posts.filter (fun p => !decide (p.1 ≤ s.cyc)) }
    due.foldl (fun s p => s.ceLandOne n p.2.1 p.2.2) s

def State.ceStore (s : State) (n : Fin 8) (a : Nat) (v : List Byte) (fab : FabRes) : State :=
  if a % v.length != 0 then s.ceTrap n.val 6 a
  else (s.setCe n.val (s.ceOf n.val).retire).cePost n a v fab

end Sys2Proof.Machine
end

