-- ==== Sys2Proof/Machine/CeBase.lean ====
section
/-! DEFINITION. The base instructions of the control engines: RV32IMF with Zicsr, in machine mode (R194, R195, R198). -/

namespace Sys2Proof.Machine

/-! ### Immediates -/

def immI (w : Nat) : Int := signed 12 (bitsOf 31 20 w)
def immS (w : Nat) : Int := signed 12 (bitsOf 31 25 w * 32 + bitsOf 11 7 w)
def immB (w : Nat) : Int :=
  signed 13 (bitsOf 31 31 w * 2 ^ 12 + bitsOf 7 7 w * 2 ^ 11 + bitsOf 30 25 w * 2 ^ 5 + bitsOf 11 8 w * 2)
def immJ (w : Nat) : Int :=
  signed 21 (bitsOf 31 31 w * 2 ^ 20 + bitsOf 19 12 w * 2 ^ 12 + bitsOf 20 20 w * 2 ^ 11 + bitsOf 30 21 w * 2)

/-- A 32-bit address plus an offset. -/
def plusI (a : Nat) (i : Int) : Nat := unsigned 32 ((a : Int) + i)

/-! ### Integer operations -/

/-- The operation of funct3; alt selects SUB and SRA. -/
def aluOp (f3 : Nat) (alt : Bool) (a b : Word) : Word :=
  match f3 with
  | 0 => if alt then a - b else a + b
  | 1 => a <<< (b.toNat % 32)
  | 2 => if a.slt b then 1 else 0
  | 3 => if a.ult b then 1 else 0
  | 4 => a ^^^ b
  | 5 => if alt then a.sshiftRight (b.toNat % 32) else a >>> (b.toNat % 32)
  | 6 => a ||| b
  | _ => a &&& b

/-- MUL, MULH, MULHSU, MULHU, DIV, DIVU, REM and REMU. -/
def mulOp (f3 : Nat) (a b : Word) : Word :=
  match f3 with
  | 0 => a * b
  | 1 => BitVec.ofInt 32 (a.toInt * b.toInt / 2 ^ 32)
  | 2 => BitVec.ofInt 32 (a.toInt * b.toNat / 2 ^ 32)
  | 3 => BitVec.ofNat 32 (a.toNat * b.toNat / 2 ^ 32)
  | 4 => if b == 0 then 0xFFFFFFFF else BitVec.ofInt 32 (a.toInt.tdiv b.toInt)
  | 5 => if b == 0 then 0xFFFFFFFF else BitVec.ofNat 32 (a.toNat / b.toNat)
  | 6 => if b == 0 then a else BitVec.ofInt 32 (a.toInt.tmod b.toInt)
  | _ => if b == 0 then a else BitVec.ofNat 32 (a.toNat % b.toNat)

/-- The condition of a branch, none for an encoding that is no branch. -/
def branchTaken (f3 : Nat) (a b : Word) : Option Bool :=
  match f3 with
  | 0 => some (a == b)
  | 1 => some (a != b)
  | 4 => some (a.slt b)
  | 5 => some (!a.slt b)
  | 6 => some (a.ult b)
  | 7 => some (!a.ult b)
  | _ => none

/-! ### CSRs (R194) -/

/-- A CSR's value, none where the CE has no such CSR. -/
def CeCore.csr (c : CeCore) (a : Nat) : Option Nat :=
  if a == 0x001 then some (c.fcsr % 32)
  else if a == 0x002 then some (c.fcsr / 32 % 8)
  else if a == 0x003 then some (c.fcsr % 256)
  else if a == 0x300 then some c.mstatus
  else if a == 0x301 then some 0x40801120
  else if a == 0x305 then some c.mtvec
  else if a == 0x340 then some c.mscratch
  else if a == 0x341 then some c.mepc
  else if a == 0x342 then some c.mcause
  else if a == 0x343 then some c.mtval
  else if a == 0x7C0 then some c.cxstat
  else if a == 0xB00 then some (c.mcycle % 2 ^ 32)
  else if a == 0xB80 then some (c.mcycle / 2 ^ 32)
  else if a == 0xB02 then some (c.minstret % 2 ^ 32)
  else if a == 0xB82 then some (c.minstret / 2 ^ 32)
  else none

def CeCore.setCsr (c : CeCore) (a v : Nat) : CeCore :=
  if a == 0x001 then { c with fcsr := c.fcsr / 32 * 32 + v % 32 }
  else if a == 0x002 then { c with fcsr := c.fcsr % 32 + v % 8 * 32 }
  else if a == 0x003 then { c with fcsr := v % 256 }
  else if a == 0x300 then { c with mstatus := 0x1800 + (v &&& 0x88) }
  else if a == 0x305 then { c with mtvec := v / 4 * 4 }
  else if a == 0x340 then { c with mscratch := v }
  else if a == 0x341 then { c with mepc := v / 4 * 4 }
  else if a == 0x342 then { c with mcause := v }
  else if a == 0x343 then { c with mtval := v }
  else if a == 0x7C0 then { c with cxstat := v % 2 }
  else if a == 0xB00 then { c with mcycle := c.mcycle / 2 ^ 32 * 2 ^ 32 + v }
  else if a == 0xB80 then { c with mcycle := c.mcycle % 2 ^ 32 + v * 2 ^ 32 }
  else if a == 0xB02 then { c with minstret := c.minstret / 2 ^ 32 * 2 ^ 32 + v }
  else if a == 0xB82 then { c with minstret := c.minstret % 2 ^ 32 + v * 2 ^ 32 }
  else c

/-- A Zicsr instruction. A write of minstret takes effect after the instruction has retired. -/
def CeCore.csrOp (c : CeCore) (w : Nat) : Option CeCore :=
  let f3 := fF3 w
  let a := bitsOf 31 20 w
  match c.csr a with
  | none => none
  | some old =>
    let src := if 4 ≤ f3 then fRs1 w else (c.xr (fRs1 w)).toNat
    let k := f3 % 4
    if k == 0 then none
    else
      let v := if k == 1 then src else if k == 2 then old ||| src else old &&& (0xFFFFFFFF - src)
      let c' := (c.retire).setX (fRd w) (BitVec.ofNat 32 old)
      some (if k == 1 || fRs1 w != 0 then c'.setCsr a v else c')

/-! ### Floating point -/

/-- The rounding mode of an instruction, none where it is reserved. -/
def CeCore.rm (c : CeCore) (w : Nat) : Option Nat :=
  let m := if fF3 w == 7 then c.fcsr / 32 % 8 else fF3 w
  if m < 5 then some m else none

/-- Sign injection. -/
def sgnj (f3 a b : Nat) : Nat :=
  let s := if f3 == 0 then f32Sign b else if f3 == 1 then !f32Sign b else f32Sign a != f32Sign b
  a % 2 ^ 31 + b2n s * 2 ^ 31

/-- OP-FP, none for an encoding that RV32F does not list. -/
def CeCore.fpOp (c : CeCore) (w : Nat) : Option CeCore :=
  let rd := fRd w
  let x := c.fr (fRs1 w)
  let y := c.fr (fRs2 w)
  let a := f32Unpack x
  let b := f32Unpack y
  let f3 := fF3 w
  let r2 := fRs2 w
  let toX (r : Nat × Nat) : Option CeCore := some (((c.setX rd (BitVec.ofNat 32 r.1)).flags r.2).retire)
  let toF (r : Nat × Nat) : Option CeCore := some ((c.putF rd r).retire)
  match fF7 w with
  | 0x00 => (c.rm w).bind (fun m => toF (f32Add m a b))
  | 0x04 => (c.rm w).bind (fun m => toF (f32Sub m a b))
  | 0x08 => (c.rm w).bind (fun m => toF (f32Mul m a b))
  | 0x0C => (c.rm w).bind (fun m => toF (f32Div m a b))
  | 0x2C => if r2 == 0 then (c.rm w).bind (fun m => toF (f32Sqrt m a)) else none
  | 0x10 => if f3 < 3 then toF (sgnj f3 x y, 0) else none
  | 0x14 => if f3 < 2 then toF (f32MinMax (f3 == 1) x y) else none
  | 0x50 => if f3 == 2 then toX (f32Feq a b) else if f3 == 1 then toX (f32Flt a b) else if f3 == 0 then toX (f32Fle a b) else none
  | 0x60 => if r2 < 2 then (c.rm w).bind (fun m => toX (f32ToInt m (r2 == 0) a)) else none
  | 0x68 =>
    if r2 < 2 then
      (c.rm w).bind (fun m =>
        let v := c.xr (fRs1 w)
        toF (f32OfInt m (if r2 == 0 then v.toInt else (v.toNat : Int)) 0 false))
    else none
  | 0x70 => if r2 == 0 && f3 == 0 then toX (x, 0) else if r2 == 0 && f3 == 1 then toX (f32Class x, 0) else none
  | 0x78 => if r2 == 0 && f3 == 0 then toF ((c.xr (fRs1 w)).toNat, 0) else none
  | _ => none

/-- FMADD, FMSUB, FNMSUB and FNMADD: op is bits 3:2 of the opcode. -/
def CeCore.fmaOp (c : CeCore) (w op : Nat) : Option CeCore :=
  if bitsOf 26 25 w != 0 then none
  else
    let a := f32Unpack (c.fr (fRs1 w))
    let b := f32Unpack (c.fr (fRs2 w))
    let z := f32Unpack (c.fr (fRs3 w))
    (c.rm w).map (fun m =>
      let r := if op == 0 then f32Fma m a b z
        else if op == 1 then f32Fma m a b (f32Neg z)
        else if op == 2 then f32Fma m (f32Neg a) b z
        else f32Fma m (f32Neg a) b (f32Neg z)
      (c.putF (fRd w) r).retire)

/-! ### The instruction at the PC -/

/-- A jump or a taken branch; a misaligned target traps. -/
def State.ceJump (s : State) (n : Nat) (c : CeCore) (target : Nat) : State :=
  if target % 4 == 0 then s.setCe n (c.retireAt target) else s.ceTrap n 0 target

/-- The step of an operation on the registers: an encoding that is none of them is an illegal instruction. -/
def State.ceDo (s : State) (n w : Nat) (r : Option CeCore) : State :=
  match r with
  | some c => s.setCe n c
  | none => s.ceTrap n 2 w

/-- A load into an x register. -/
def State.ceLoadX (s : State) (n : Fin 8) (w a k : Nat) (sg : Bool) (fab : FabRes) : State :=
  s.ceLoad n a k fab (fun l s =>
    let v := leNat l
    let v := if sg then unsigned 32 (signed (8 * k) v) else v
    s.setCe n.val (((s.ceOf n.val).setX (fRd w) (BitVec.ofNat 32 v)).retire))

/-- MRET. -/
def CeCore.mret (c : CeCore) : CeCore :=
  { c.retireAt c.mepc with mstatus := putBits 7 7 (putBits 3 3 c.mstatus (bitsOf 7 7 c.mstatus)) 1 }

/-- Base instruction w. -/
def State.ceBaseStep (s : State) (n : Fin 8) (w : Nat) (fab : FabRes) : State :=
  let c := s.ceOf n.val
  let rd := fRd w
  let a := c.xr (fRs1 w)
  let b := c.xr (fRs2 w)
  let f3 := fF3 w
  let f7 := fF7 w
  let setX (v : Word) : State := s.setCe n.val ((c.setX rd v).retire)
  let illegal : State := s.ceTrap n.val 2 w
  match fOp w with
  | 0x37 => setX (BitVec.ofNat 32 (w / 4096 * 4096))
  | 0x17 => setX (BitVec.ofNat 32 (c.pc + w / 4096 * 4096))
  | 0x6F => s.ceJump n.val (if plusI c.pc (immJ w) % 4 == 0 then c.setX rd (BitVec.ofNat 32 (c.pc + 4)) else c) (plusI c.pc (immJ w))
  | 0x67 =>
    let t := plusI a.toNat (immI w) / 2 * 2
    if f3 == 0 then s.ceJump n.val (if t % 4 == 0 then c.setX rd (BitVec.ofNat 32 (c.pc + 4)) else c) t else illegal
  | 0x63 =>
    match branchTaken f3 a b with
    | some true => s.ceJump n.val c (plusI c.pc (immB w))
    | some false => s.setCe n.val c.retire
    | none => illegal
  | 0x03 =>
    let t := plusI a.toNat (immI w)
    match f3 with
    | 0 => s.ceLoadX n w t 1 true fab
    | 1 => s.ceLoadX n w t 2 true fab
    | 2 => s.ceLoadX n w t 4 false fab
    | 4 => s.ceLoadX n w t 1 false fab
    | 5 => s.ceLoadX n w t 2 false fab
    | _ => illegal
  | 0x23 =>
    let t := plusI a.toNat (immS w)
    if f3 < 3 then s.ceStore n t (leBytes (2 ^ f3) b.toNat) fab else illegal
  | 0x13 =>
    if f3 == 1 then (if f7 == 0 then setX (aluOp 1 false a (BitVec.ofNat 32 (fRs2 w))) else illegal)
    else if f3 == 5 then
      (if f7 == 0 || f7 == 0x20 then setX (aluOp 5 (f7 == 0x20) a (BitVec.ofNat 32 (fRs2 w))) else illegal)
    else setX (aluOp f3 false a (BitVec.ofInt 32 (immI w)))
  | 0x33 =>
    if f7 == 0 then setX (aluOp f3 false a b)
    else if f7 == 0x20 && (f3 == 0 || f3 == 5) then setX (aluOp f3 true a b)
    else if f7 == 1 then setX (mulOp f3 a b)
    else illegal
  | 0x0F => if f3 == 0 then s.setCe n.val c.retire else illegal
  | 0x73 =>
    if f3 == 0 then
      (if w == 0x00000073 then s.ceTrap n.val 11 0
       else if w == 0x00100073 then s.ceTrap n.val 3 c.pc
       else if w == 0x30200073 then s.setCe n.val c.mret
       else if w == 0x10500073 then s.setCe n.val c.retire
       else illegal)
    else s.ceDo n.val w (c.csrOp w)
  | 0x07 =>
    let t := plusI a.toNat (immI w)
    if f3 == 2 then
      s.ceLoad n t 4 fab (fun l s => s.setCe n.val (((s.ceOf n.val).setF rd (leNat l)).retire))
    else illegal
  | 0x27 => if f3 == 2 then s.ceStore n (plusI a.toNat (immS w)) (leBytes 4 (c.fr (fRs2 w))) fab else illegal
  | 0x53 => s.ceDo n.val w (c.fpOp w)
  | 0x43 => s.ceDo n.val w (c.fmaOp w 0)
  | 0x47 => s.ceDo n.val w (c.fmaOp w 1)
  | 0x4B => s.ceDo n.val w (c.fmaOp w 2)
  | 0x4F => s.ceDo n.val w (c.fmaOp w 3)
  | _ => illegal

end Sys2Proof.Machine
end

