-- ==== Sys2Proof/Machine/CeExt.lean ====
section
/-! DEFINITION. The control extension: the encodings of R211, the instructions as they act at the PC of an engine, and the row of
the base instructions (R200, R203, R207–R213). -/

namespace Sys2Proof.Machine

/-- The instructions of the extension table (R211). -/
inductive CxOp where
  | mv
  | vadd
  | vsub
  | vscl
  | vld
  | mld
  | vst
  | vext
  | vins
  | sincos
  | rot
  | rsqrt
  | fclmp
  | sadd
  | ssub
  | satn
  | duty
  | wait
  | done
  | mbtake
  | lgrd
  | lgwr
  | wtime
  | xwr
  | xrd
  deriving DecidableEq, Repr

/-- The table's instruction of an encoding: opcode, funct7 and funct3, register numbers in range, pairs at even numbers, and 0 in
the fields that the table gives as 0. -/
def cxDecode (w : Nat) : Option CxOp :=
  let op := fOp w
  let f3 := fF3 w
  let f7 := fF7 w
  let rd := fRd w
  let r1 := fRs1 w
  let r2 := fRs2 w
  let cond (b : Bool) (o : CxOp) : Option CxOp := if b then some o else none
  if op == 0x0B then
    match f3, f7 with
    | 0, 2 => cond (decide (rd < 8) && decide (r1 < 4) && decide (r2 < 8)) .mv
    | 1, 0 => cond (decide (rd < 8) && decide (r1 < 8) && decide (r2 < 8)) .vadd
    | 1, 1 => cond (decide (rd < 8) && decide (r1 < 8) && decide (r2 < 8)) .vsub
    | 1, 2 => cond (decide (rd < 8) && decide (r1 < 8)) .vscl
    | 2, 0 => cond (decide (rd < 8) && r2 == 0) .vld
    | 2, 1 => cond (decide (rd < 4) && r2 == 0) .mld
    | 3, 0 => cond (rd == 0 && decide (r2 < 8)) .vst
    | 4, 0 => cond (decide (r1 < 8) && decide (r2 < 6)) .vext
    | 5, 0 => cond (decide (rd < 8) && decide (r2 < 6)) .vins
    | _, _ => none
  else if op == 0x2B then
    if f3 == 3 then cond (bitsOf 26 25 w == 0) .fclmp
    else
      match f3, f7 with
      | 0, 0 => cond (rd % 2 == 0 && r2 == 0) .sincos
      | 1, 0 => cond (rd % 2 == 0 && r1 % 2 == 0 && r2 % 2 == 0) .rot
      | 2, 0 => cond (r2 == 0) .rsqrt
      | 4, 0 => some .sadd
      | 4, 1 => some .ssub
      | 5, 0 => cond (r2 != 0) .satn
      | 6, 0 => some .duty
      | _, _ => none
  else if op == 0x5B && f7 == 0 then
    match f3 with
    | 0 => cond (r2 == 0) .wait
    | 1 => cond (rd == 0 && r1 == 0 && r2 == 0) .done
    | 2 => cond (r2 == 0) .mbtake
    | 3 => cond (rd % 2 == 0 && r1 == 0 && r2 == 0) .lgrd
    | 4 => cond (rd == 0 && r2 == 0) .lgwr
    | 5 => cond (r1 == 0 && r2 == 0) .wtime
    | 6 => cond (rd == 0) .xwr
    | 7 => cond (r2 == 0) .xrd
    | _ => none
  else none

/-- CE n executes the instruction at its PC, which the table names as op: f with the word and the engine's registers. -/
def State.cx (s : State) (n : Fin 8) (op : CxOp) (f : Nat → CeCore → State) : State :=
  if s.ceRuns n.val then
    match s.ceFetch n.val with
    | some w => if cxDecode w == some op then f w (s.ceOf n.val) else s
    | none => s
  else s

/-- An instruction that only changes the engine's registers. -/
def State.cxReg (s : State) (n : Fin 8) (op : CxOp) (f : Nat → CeCore → CeCore) : State :=
  s.cx n op (fun w c => s.setCe n.val (f w c).retire)

/-! ### Vectors and matrices (R210–R213) -/

def word32 (n : Nat) : Word := BitVec.ofNat 32 n

/-- Element results with the flags of all. -/
def CeCore.putV (c : CeCore) (i : Nat) (l : List (Nat × Nat)) : CeCore :=
  (c.setV i (l.map (fun r => word32 r.1))).flags (l.foldl (fun k r => k ||| r.2) 0)

def un (w : Word) : F32 := f32Unpack w.toNat

/-- Six fused multiply-adds of a row, from +0.0. -/
def rowMv (row v : List Word) : Nat × Nat :=
  (row.zip v).foldl (fun acc e =>
    let r := f32Fma 0 (un e.1) (un e.2) (f32Unpack acc.1)
    (r.1, acc.2 ||| r.2)) (0, 0)

def execCxMv (n : Fin 8) (s : State) : Res :=
  .next (s.cxReg n .mv (fun w c =>
    c.putV (fRd w) ((List.range 6).map (fun i => rowMv (((c.mr (fRs1 w)).drop (6 * i)).take 6) (c.vr (fRs2 w))))))

def execCxVadd (n : Fin 8) (s : State) : Res :=
  .next (s.cxReg n .vadd (fun w c => c.putV (fRd w) (((c.vr (fRs1 w)).zip (c.vr (fRs2 w))).map (fun e => f32Add 0 (un e.1) (un e.2)))))

def execCxVsub (n : Fin 8) (s : State) : Res :=
  .next (s.cxReg n .vsub (fun w c => c.putV (fRd w) (((c.vr (fRs1 w)).zip (c.vr (fRs2 w))).map (fun e => f32Sub 0 (un e.1) (un e.2)))))

def execCxVscl (n : Fin 8) (s : State) : Res :=
  .next (s.cxReg n .vscl (fun w c => c.putV (fRd w) ((c.vr (fRs1 w)).map (fun e => f32Mul 0 (un e) (f32Unpack (c.fr (fRs2 w)))))))

/-- An access of k bytes to the data memory at a: misaligned or outside it, it traps; otherwise f. -/
def State.cxData (s : State) (n : Fin 8) (a k cause : Nat) (f : Nat → State) : State :=
  if a % 4 != 0 then s.ceTrap n.val (cause - 1) a
  else if 0x20000 ≤ a ∧ a + k ≤ 0x40000 then f (ceOwn n.val a)
  else s.ceTrap n.val cause a

/-- The words at an address, lowest first. -/
def State.rdWords (s : State) (a k : Nat) : List Word := (List.range k).map (fun i => s.rdMem32 (a + 4 * i))

def execCxVld (n : Fin 8) (s : State) : Res :=
  .next (s.cx n .vld (fun w c =>
    s.cxData n (c.xr (fRs1 w)).toNat 24 5 (fun p => s.setCe n.val ((c.setV (fRd w) (s.rdWords p 6)).retire))))

def execCxMld (n : Fin 8) (s : State) : Res :=
  .next (s.cx n .mld (fun w c =>
    s.cxData n (c.xr (fRs1 w)).toNat 144 5 (fun p => s.setCe n.val ((c.setM (fRd w) (s.rdWords p 36)).retire))))

def execCxVst (n : Fin 8) (s : State) : Res :=
  .next (s.cx n .vst (fun w c =>
    s.cxData n (c.xr (fRs1 w)).toNat 24 7 (fun p =>
      (List.range 6).foldl (fun s i => s.blockStore (.ce n) (p + 4 * i) (leBytes 4 (nth (c.vr (fRs2 w)) i 0).toNat))
        (s.setCe n.val c.retire))))

def execCxVext (n : Fin 8) (s : State) : Res :=
  .next (s.cxReg n .vext (fun w c => c.setF (fRd w) (nth (c.vr (fRs1 w)) (fRs2 w) 0).toNat))

def execCxVins (n : Fin 8) (s : State) : Res :=
  .next (s.cxReg n .vins (fun w c => c.setV (fRd w) ((c.vr (fRd w)).set (fRs2 w) (word32 (c.fr (fRs1 w))))))

/-! ### Scalars (R212) -/

/-- A result within 2^−22 of the exact value i × 2^−60, otherwise open. -/
def State.near22 (s : State) (i : Int) : Nat :=
  if within22 s.freeNat i then s.freeNat else (f32OfInt 0 i (-60) false).1

/-- Sine and cosine; whether they count as inexact is open. -/
def execCxSincos (n : Fin 8) (s : State) : Res :=
  .next (s.cx n .sincos (fun w c =>
    let a := (c.xr (fRs1 w)).toNat
    let sn := s.near22 (sinTurn false a)
    let cs := s.useFree.near22 (sinTurn true a)
    let nx := s.useFree.useFree.freeNat % 2
    (s.useFree.useFree.useFree).setCe n.val ((((c.setF (fRd w) sn).setF (fRd w + 1) cs).flags nx).retire)))

/-- a·x + b·y: rounded products and sum, or fused on either side; which one is open. -/
def dot2 (how : Nat) (a x b y : F32) : Nat × Nat :=
  if how == 0 then
    let p := f32Mul 0 a x
    let q := f32Mul 0 b y
    let r := f32Add 0 (f32Unpack p.1) (f32Unpack q.1)
    (r.1, p.2 ||| q.2 ||| r.2)
  else if how == 1 then
    let q := f32Mul 0 b y
    let r := f32Fma 0 a x (f32Unpack q.1)
    (r.1, q.2 ||| r.2)
  else
    let p := f32Mul 0 a x
    let r := f32Fma 0 b y (f32Unpack p.1)
    (r.1, p.2 ||| r.2)

def execCxRot (n : Fin 8) (s : State) : Res :=
  .next (s.cx n .rot (fun w c =>
    let how := s.freeNat % 3
    let x := f32Unpack (c.fr (fRs1 w))
    let y := f32Unpack (c.fr (fRs1 w + 1))
    let sn := f32Unpack (c.fr (fRs2 w))
    let cs := f32Unpack (c.fr (fRs2 w + 1))
    let p := dot2 how cs x (f32Neg sn) y
    let q := dot2 how sn x cs y
    s.useFree.setCe n.val (((c.putF (fRd w) p).putF (fRd w + 1) q).retire)))

def execCxRsqrt (n : Fin 8) (s : State) : Res :=
  .next (s.cxReg n .rsqrt (fun w c => c.putF (fRd w) (f32Rsqrt (f32Unpack (c.fr (fRs1 w))))))

/-- min(max(a, b), z); a NaN in a gives b. -/
def fclmp (a b z : Nat) : Nat × Nat :=
  if isNan (f32Unpack a) then (b, if isSig (f32Unpack a) then 16 else 0)
  else
    let p := f32MinMax true a b
    let r := f32MinMax false p.1 z
    (r.1, p.2 ||| r.2)

def execCxFclmp (n : Fin 8) (s : State) : Res :=
  .next (s.cxReg n .fclmp (fun w c => c.putF (fRd w) (fclmp (c.fr (fRs1 w)) (c.fr (fRs2 w)) (c.fr (fRs3 w)))))

/-- A saturated result: SAT is sticky. -/
def CeCore.sat (c : CeCore) (rd bits : Nat) (i : Int) : CeCore :=
  let r := clampInt (-(2 ^ (bits - 1) : Nat)) ((2 ^ (bits - 1) : Nat) - 1) i
  let c := if r == i then c else { c with cxstat := c.cxstat ||| 1 }
  c.setX rd (BitVec.ofInt 32 r)

def execCxSadd (n : Fin 8) (s : State) : Res :=
  .next (s.cxReg n .sadd (fun w c => c.sat (fRd w) 32 ((c.xr (fRs1 w)).toInt + (c.xr (fRs2 w)).toInt)))

def execCxSsub (n : Fin 8) (s : State) : Res :=
  .next (s.cxReg n .ssub (fun w c => c.sat (fRd w) 32 ((c.xr (fRs1 w)).toInt - (c.xr (fRs2 w)).toInt)))

def execCxSatn (n : Fin 8) (s : State) : Res :=
  .next (s.cxReg n .satn (fun w c => c.sat (fRd w) (fRs2 w + 1) (c.xr (fRs1 w)).toInt))

/-- clamp(round(f × x), 0, x), halves up and a NaN 0; the flags that a NaN, an infinity or an inexact product may raise. -/
def dutyOf (f : F32) (x : Nat) : Nat × Nat :=
  match f with
  | .nan _ => (0, 16)
  | .inf neg => (if neg then 0 else x, 16)
  | .fin neg m e =>
    let p := m * x
    let r : Int :=
      if 0 ≤ e then sgnInt neg (p * 2 ^ e.toNat)
      else
        let d := 2 ^ (-e).toNat
        (2 * sgnInt neg p + (d : Int)).fdiv (2 * d)
    let exact := decide (0 ≤ e) || p % 2 ^ (-e).toNat == 0
    ((clampInt 0 (x : Int) r).toNat, if exact then 0 else 1)

/-- Whether the conversion raises the flags it may raise is open. -/
def execCxDuty (n : Fin 8) (s : State) : Res :=
  .next (s.cx n .duty (fun w c =>
    let r := dutyOf (f32Unpack (c.fr (fRs1 w))) (c.xr (fRs2 w)).toNat
    s.useFree.setCe n.val (((c.setX (fRd w) (word32 r.1)).flags (if s.freeBool then r.2 else 0)).retire)))

/-! ### Waiting, updates and the interfaces to the stage (R200–R203, R207–R209) -/

/-- The records that a wake has frozen take the newest results. -/
def State.ceThaw (s : State) (n : Nat) : State :=
  let us := (List.range 64).filter (fun u => s.snapFrozen n u)
  let s := us.foldl (fun s u => s.wrBytes (snapAddr n u) (s.resBytes u)) s
  s.setCe n { s.ceOf n with takenSet := none }

/-- CX.WAIT closes an open update; a pending set of the mask is taken at once, otherwise the CE waits. -/
def State.ceWait (s : State) (n w : Nat) : State :=
  let s := (s.ceDone n).ceThaw n
  let c := s.ceOf n
  let mask := (c.xr (fRs1 w)).toNat % 16
  let c := { c with waitMask := mask, waitRd := fRd w, woken := none }
  match (List.range 4).find? (fun k => bitOf k mask && (nth c.sets k ⟨0, false, 0⟩).pend) with
  | some k =>
    let x := nth c.sets k ⟨0, false, 0⟩
    let c := { c with woken := some k, wakeAt := s.cyc + 2, wakeStamp := x.stamp, takenSet := some k, sets := c.sets.set k { x with pend := false } }
    (((s.setCe n c).putFldBit (CE_STATUS_PEND n) k false).inc (CE_CNT_OVRUN n)).put (CE_STATUS_STATE n) 1
  | none => (s.setCe n c).put (CE_STATUS_STATE n) 1

def execCxWait (n : Fin 8) (s : State) : Res := .next (s.cx n .wait (fun w _ => s.ceWait n.val w))

def execCxDone (n : Fin 8) (s : State) : Res :=
  .next (s.cx n .done (fun _ _ => (s.ceDone n.val).setCe n.val ((s.ceDone n.val).ceOf n.val).retire))

def execCxMbtake (n : Fin 8) (s : State) : Res :=
  .next (s.cx n .mbtake (fun w c =>
    let r := s.mbTake n.val ((c.xr (fRs1 w)).toNat % 4)
    r.2.setCe n.val (((r.2.ceOf n.val).setX (fRd w) (word32 r.1)).retire)))

/-- The latched limit in watts and the factor, as binary32. -/
def CeCore.limits (c : CeCore) : Nat × Nat :=
  if c.lgInf then (f32Inf false, 0x3F800000)
  else ((f32OfInt 0 (signed 32 c.lgLimit) 0 false).1, (f32OfInt 0 (c.lgFactor : Int) (-8) false).1)

def execCxLgrd (n : Fin 8) (s : State) : Res :=
  .next (s.cxReg n .lgrd (fun w c => (c.setF (fRd w) c.limits.1).setF (fRd w + 1) c.limits.2))

/-- The prediction is written in a control cycle; the one before it is kept for a ledger cycle that starts in that cycle. -/
def execCxLgwr (n : Fin 8) (s : State) : Res :=
  .next (s.cxReg n .lgwr (fun w c =>
    if (s.ceEntry n.val).isSome then
      { c with lgPred := word32 (c.fr (fRs1 w)), lgAt := s.cyc, lgOld := c.lgPred, lgOldAt := c.lgAt }
    else c))

def execCxWtime (n : Fin 8) (s : State) : Res := .next (s.cxReg n .wtime (fun w c => c.setX (fRd w) (word32 c.wtime)))

/-- The word is visible from the second cycle after the write. -/
def execCxXwr (n : Fin 8) (s : State) : Res :=
  .next (s.cxReg n .xwr (fun w c =>
    let i := (c.xr (fRs1 w)).toNat % 16
    { c with xwOld := c.xwOld.set i (s.xword n.val i), xw := c.xw.set i (c.xr (fRs2 w)), xwVis := c.xwVis.set i (s.cyc + 2) }))

def execCxXrd (n : Fin 8) (s : State) : Res :=
  .next (s.cxReg n .xrd (fun w c =>
    let v := (c.xr (fRs1 w)).toNat
    c.setX (fRd w) (s.xword (v / 16 % 8) (v % 16))))

/-! ### The row of the base instructions -/

/-- The instruction at the PC where it is none of the extension: a base instruction, or a trap. -/
def State.ceStep (s : State) (n : Fin 8) (fab : FabRes) : State :=
  if s.ceRuns n.val then
    match s.ceFetch n.val with
    | some w => if (cxDecode w).isSome then s else s.ceBaseStep n w fab
    | none => s.ceTrap n.val 1 (s.ceOf n.val).pc
  else s

def execCeInstruction (n : Fin 8) (fab : FabRes) (s : State) : Res := .next (s.ceStep n fab)

end Sys2Proof.Machine
end

