-- ==== Sys2Proof/Machine/Sc.lean ====
section
/-! DEFINITION. The safety cores: protection units, memory accesses and their faults, interrupt entry, the comparison of copies
and resynchronisation, and the SRAM scrubber (R308–R326, R334, R336–R340). -/

namespace Sys2Proof.Machine

/-! ### Threads and copies (R308, R311, R339) -/

def State.scOf (s : State) (n : Nat) : ScCore := nth s.scc n ScCore.idle
def State.setScc (s : State) (n : Nat) (c : ScCore) : State := s.setScCores (s.scc.set n c)
def State.thr (s : State) (u : Nat) : ScThr := nth s.sc u ScThr.idle
def State.setThr (s : State) (u : Nat) (t : ScThr) : State := s.setScThreads (s.sc.set u t)

/-- A program runs on the thread: any thread of a Split core, or copy A of a redundant one, whose number every copy bears here. -/
def State.thrRuns (s : State) (core : Fin 4) (thread : Fin 3) : Bool :=
  s.scRuns core.val && (if s.scRedundant core.val then thread == 0 else !(s.thr (core.val * 3 + thread.val)).halted)

/-- The initiator of a core's accesses: the leading copy's thread, or the thread itself. -/
def State.scIni (s : State) (core : Fin 4) (thread : Fin 3) : Initiator :=
  if s.scRedundant core.val then
    (match (s.scOf core.val).order.head? with
     | some 1 => .sc core 1
     | some 2 => .sc core 2
     | _ => .sc core 0)
  else .sc core thread

/-- The thread takes a trap. -/
def State.scTrap (s : State) (u : Nat) (pc cause tval : Word) : State :=
  s.setThr u { s.thr u with mepc := pc, mcause := cause, mtval := tval }

/-! ### Protection units (R337) -/

/-- A field of a protection unit as a check of this cycle finds it: as it stood before the cycle's writes (R349). -/
def State.puGet (s : State) (f : Fld) : Nat := bitsOf f.hi f.lo (s.rdWas f.reg).toNat

/-- The enabled region with the lowest number that contains an address. -/
def State.puRegion (s : State) (u a : Nat) : Option Nat :=
  (List.range 16).find? (fun r => s.puGet (PU_RLIM_EN u r) == 1 && decide (s.puGet (PU_RBASE_BASE u r) * 64 ≤ a)
    && decide (a < s.puGet (PU_RLIM_LIMIT u r) * 64 + 64))

/-- The grant of an access kind: 0 read, 1 write, 2 execute. -/
def puGrant (u r kind : Nat) : Fld := if kind == 0 then PU_RLIM_R u r else if kind == 1 then PU_RLIM_W u r else PU_RLIM_X u r

/-- Unit u allows an access of n bytes at a. -/
def State.puAllows (s : State) (u a n kind : Nat) (user : Bool) : Bool :=
  if s.puGet (PU_CTRL_EN u) == 0 then true
  else match s.puRegion u a with
    | some r => decide (a + n ≤ s.puGet (PU_RLIM_LIMIT u r) * 64 + 64) && s.puGet (puGrant u r kind) == 1
        && (!user || s.puGet (PU_RLIM_U u r) == 1)
    | none => !user && s.puGet (PU_CTRL_MBG u) == 1

/-- A fault of the thread is recorded in its unit and logged; TYPE and DATA as R336 states. -/
def State.puFault (s : State) (u kind a flags typ : Nat) (data : List Byte) : State :=
  let region := (s.puRegion u a).getD 15
  let s := s.wr (PU_FSTAT u) (BitVec.ofNat 32 (2 ^ 31 + flags * 2 ^ 28 + 2 ^ kind * 2 ^ 24 + region * 2 ^ 16))
  (s.put (PU_FADDR_ADDR u) a).log 6 (96 + u) typ data

def execPuLock (ini : Initiator) (u : Fin 12) (val : Word) (s : State) : Res :=
  .next (s.busWrite ini (PU_CTRL u.val).addr (fun s => s.puWrite ini (PU_CTRL u.val).addr (val ||| 0x80000000)))

/-! ### The redundant data region (R314, R315) -/

/-- A logical address lies in core n's redundant data region. -/
def State.inRegion (s : State) (n a : Nat) : Bool :=
  let b := s.get (SCC_RDBASE_BASE n) * 65536
  s.scRedundant n && decide (b ≤ a) && decide (a < b + (s.get (SCC_RDBASE_RDSIZE n) + 1) * 65536)

/-- The physical address of a logical address in a copy's image. -/
def State.imgAddr (s : State) (n copy a : Nat) : Nat :=
  let off := a - s.get (SCC_RDBASE_BASE n) * 65536
  if copy == 0 then a
  else if copy == 1 then s.get (SCC_IMGB_BASE n) * 65536 + (off ^^^ (s.get (SCC_MODE_KEYB n) * 64))
  else s.get (SCC_IMGC_BASE n) * 65536 + (off ^^^ (s.get (SCC_MODE_KEYC n) * 64))

/-- A byte in a copy's transform. -/
def imgByte (copy : Nat) (b : Byte) : Byte := if copy == 1 then ~~~b else b

def State.imgLoad (s : State) (n copy a : Nat) : Nat → List Byte
  | 0 => []
  | k + 1 => imgByte copy (s.rdByte (s.imgAddr n copy a)) :: s.imgLoad n copy (a + 1) k

def State.imgStore (s : State) (n copy a : Nat) : List Byte → State
  | [] => s
  | b :: t => (s.wrByte (s.imgAddr n copy a) (imgByte copy b)).imgStore n copy (a + 1) t

/-- The copies whose images a store reaches: the running ones and one in resynchronisation (R323). -/
def ScCore.images (c : ScCore) : List Nat := c.order ++ c.odd.toList

/-- A store of a core that has left it: to every image, or over the fabric. -/
def State.scStore (s : State) (core : Fin 4) (thread : Fin 3) (a : Nat) (v : List Byte) : State :=
  if s.inRegion core.val a then (s.scOf core.val).images.foldl (fun s c => s.imgStore core.val c a v) s
  else s.busStore (s.scIni core thread) a v

/-! ### Accesses (R328, R337, R338) -/

/-- A fetch in MRAM is granted in the image banks only (R328). -/
def fetchGrant (a : Nat) : Bool := decide (0x04000000 ≤ a) || (decide (0x00200000 ≤ a) && decide (a < 0x03E00000))

/-- A precise fault of a load, store or fetch: a protection fault or a bus error. -/
def State.scPrecise (s : State) (u kind a typ : Nat) (pc : Word) : State :=
  let cause := if kind == 0 then 5 else if kind == 1 then 7 else 1
  (s.puFault u kind a 0 typ (leBytes 4 a ++ leBytes 4 pc.toNat ++ [BitVec.ofNat 8 cause])).scTrap u pc (BitVec.ofNat 32 cause) (BitVec.ofNat 32 a)

/-- A load of n bytes, precise in its bus errors; the value goes to the program. -/
def State.scLoad (s : State) (core : Fin 4) (thread : Fin 3) (u a n : Nat) (fab : FabRes) (pc : Word) : State :=
  let i := s.scIni core thread
  let take (s : State) (l : List Byte) := s.setThr u { s.thr u with loaded := BitVec.ofNat 32 (leNat l) }
  if s.inRegion core.val a then take s (s.imgLoad core.val ((s.scOf core.val).order.headD 0) a n)
  else if !s.answers i a then s
  else if !s.busOk i a false n then s.scPrecise u 0 a 0x21 pc
  else
    let r := s.blockLoad i a n
    match r.2.fabEnd a fab with
    | (some t, s) => s.scPrecise u 0 a t pc
    | (none, s) => take s r.1

def State.scFetch (s : State) (core : Fin 4) (thread : Fin 3) (u a : Nat) (fab : FabRes) (pc : Word) : State :=
  let i := s.scIni core thread
  if !s.answers i a then s
  else if !(s.busOk i a false && fetchGrant a) then s.scPrecise u 2 a 0x21 pc
  else match s.fabEnd a fab with
    | (some t, s) => s.scPrecise u 2 a t pc
    | (none, s) => s

/-- A posted store of a Split core's thread; its bus error returns later. A redundant core's store leaves it at its comparison
point. -/
def State.scPost (s : State) (core : Fin 4) (thread : Fin 3) (a : Nat) (v : List Byte) (fab : FabRes) : State :=
  let i := s.scIni core thread
  if s.scRedundant core.val || v.isEmpty then s
  else if !s.answers i a || !s.busOk i a true v.length then s.busStore i a v
  else
    let bad := fab == .uncorrectable && mergesWord a v.length true
    match (if fab == .uncorrectable && !bad then (none, s) else s.fabEnd a fab) with
    | (some t, s) => s.setBusErr (s.busErr ++ [(i, a, t)])
    | (none, s) => s.blockStore i a v

def State.scAccess (s : State) (core : Fin 4) (thread : Fin 3) (acc : ScAcc) (user : Bool) (fab : FabRes) (pc : Word) : State :=
  let u := core.val * 3 + thread.val
  if !s.thrRuns core thread then s
  else match acc with
    | .load a n =>
      if s.puAllows u a.toNat n.val 0 user then s.scLoad core thread u a.toNat n.val fab pc else s.scPrecise u 0 a.toNat 0x25 pc
    | .store a v =>
      if s.puAllows u a.toNat v.length 1 user then s.scPost core thread a.toNat v fab else s.scPrecise u 1 a.toNat 0x25 pc
    | .fetch a =>
      if s.puAllows u a.toNat 4 2 user then s.scFetch core thread u a.toNat fab pc else s.scPrecise u 2 a.toNat 0x25 pc

def execScMemoryAccess (core : Fin 4) (thread : Fin 3) (acc : ScAcc) (user : Bool) (fab : FabRes) (pc : Word) (s : State) : Res :=
  .next (s.scAccess core thread acc user fab pc)

/-- The first waiting bus error of an initiator that passes p, and the others. -/
def takeErr (p : Initiator → Bool) : List (Initiator × Nat × Nat) → Option (Nat × Nat) × List (Initiator × Nat × Nat)
  | [] => (none, [])
  | e :: t => if p e.1 then (some e.2, t) else ((takeErr p t).1, e :: (takeErr p t).2)

/-- A bus error returns on a posted store: a store access fault at the next instruction boundary. -/
def State.postedError (s : State) (core : Fin 4) (thread : Fin 3) (pc : Word) : State :=
  let u := core.val * 3 + thread.val
  let mine (i : Initiator) : Bool := match i with
    | .sc c t => c == core && (s.scRedundant core.val || t == thread)
    | _ => false
  if !s.thrRuns core thread then s
  else match takeErr mine s.busErr with
    | (some (a, t), rest) =>
      let s := s.setBusErr rest
      let s := s.puFault u 1 a 4 t (leBytes 4 a ++ leBytes 4 pc.toNat ++ [7])
      s.scTrap u pc 7 (BitVec.ofNat 32 a)
    | (none, _) => s

def execPostedStoreError (core : Fin 4) (thread : Fin 3) (pc : Word) (s : State) : Res := .next (s.postedError core thread pc)

/-! ### Interrupt entry (R317, R340) -/

/-- The place in R68's order of the event that raised an interrupt, by its block. -/
def irqPlace (i : Irq) : Nat :=
  let at' (base step : Nat) : Nat := (i.src - base) / step
  if inWin 0x50000000 0x50100000 i.src then 4096
  else if inWin 0x70000100 0x70000200 i.src then 2 * 4096
  else if inWin 0x40100000 0x40104000 i.src && (i.ev == 0x10 || i.ev == 0x11) then 3 * 4096 + at' 0x40100000 0x100
  else if inWin 0x40300000 0x40301000 i.src then 4 * 4096 + at' 0x40300000 0x20
  else if inWin 0x40302000 0x40303000 i.src then 4 * 4096 + 48
  else if inWin 0x70000500 0x70000600 i.src then 5 * 4096
  else if inWin 0x40100000 0x40104000 i.src then 6 * 4096 + at' 0x40100000 0x100
  else if inWin 0x40000000 0x40008000 i.src then 7 * 4096 + at' 0x40000000 0x400
  else if inWin 0x40400000 0x40410000 i.src then 8 * 4096 + at' 0x40400000 0x100
  else if inWin 0x40204000 0x40205000 i.src then 9 * 4096 + at' 0x40204000 0x40
  else if inWin 0x40200000 0x40204000 i.src then 9 * 4096 + 64 + at' 0x40200000 0x100
  else if inWin 0x40500400 0x40500800 i.src then 9 * 4096 + 88 + at' 0x40500400 0x80
  else 10 * 4096

/-- An interrupt of this thread. -/
def irqMine (u : Nat) (i : Irq) : Bool := i.dst == .sc || i.dst == .thread u

/-- The pending interrupt at place k can be delivered to this thread: no other of its tick precedes it (R69). -/
def State.irqFor (s : State) (u k : Nat) : Option Irq :=
  match s.irqs[k]? with
  | some i =>
    if irqMine u i && !s.irqs.any (fun j => irqMine u j && j.since == i.since && decide (irqPlace j < irqPlace i)) then some i
    else none
  | none => none

/-- Entry is refused: the interrupt stays pending and the thread takes a store access fault; flags 2 SAVE, 1 VEC. -/
def State.entryRefused (s : State) (u kind a flags : Nat) (pc : Word) : State :=
  (s.puFault u kind a flags 0x26 (leBytes 4 a ++ leBytes 4 pc.toNat)).scTrap u pc 7 (BitVec.ofNat 32 a)

/-- The interrupt is accepted; in a redundant core the acceptance is not yet final. -/
def State.irqAccept (s : State) (core : Fin 4) (u k icnt : Nat) (i : Irq) (pc cause : Word) : State :=
  let s := s.setIrqs (s.irqs.eraseIdx k)
  let c := s.scOf core.val
  let s := if s.scRedundant core.val then s.setScc core.val { c with acc := c.acc ++ [(i, icnt)] } else s
  s.scTrap u pc cause (s.thr u).mtval

/-- The frame as it is stored at sp − 64: mepc, mcause and the saved registers. -/
def frameBytes (pc cause : Word) (saved : List Word) : List Byte :=
  (pc :: cause :: (saved ++ List.replicate 14 0).take 14).flatMap (fun w => leBytes 4 w.toNat)

/-- The fetch of the handler: a fault counts after the acceptance, with mepc at the handler. -/
def State.handlerFetch (s : State) (core : Fin 4) (thread : Fin 3) (u : Nat) (handler : Word) (fetch : FabRes) : State :=
  if s.puAllows u handler.toNat 4 2 false then s.scFetch core thread u handler.toNat fetch handler
  else s.scPrecise u 2 handler.toNat 0x25 handler

def State.irqEntry (s : State) (core : Fin 4) (thread : Fin 3) (k : Nat) (pc handler sp : Word) (saved : List Word) (wr fetch : FabRes)
    (icnt : Nat) : State :=
  let u := core.val * 3 + thread.val
  match s.irqFor u k with
  | none => s
  | some i =>
    if !s.thrRuns core thread then s
    else
      let cause := BitVec.ofNat 32 s.freeNat
      let s := s.useFree
      if !s.is (PU_CTRL_HWSAVE u) then (s.irqAccept core u k icnt i pc cause).handlerFetch core thread u handler fetch
      else
        let fr := (sp - 64).toNat
        let ini := s.scIni core thread
        if sp.toNat % 64 != 0 || !s.puAllows u fr 64 1 false then s.entryRefused u 1 fr 2 pc
        else if !s.puAllows u handler.toNat 4 2 false then s.entryRefused u 2 handler.toNat 1 pc
        else if !s.inRegion core.val fr && !(s.answers ini fr && s.busOk ini fr true) then s.entryRefused u 1 fr 2 pc
        else
          match s.fabEnd fr (if wr == .uncorrectable then .ok 0 0 else wr) with
          | (some _, s) => s.entryRefused u 1 fr 2 pc
          | (none, s) =>
            let s := (s.irqAccept core u k icnt i pc cause).scStore core thread fr (frameBytes pc cause saved)
            let s := s.setThr u { s.thr u with sp := sp - 64 }
            s.handlerFetch core thread u handler fetch

def execScInterruptEntry (core : Fin 4) (thread : Fin 3) (k : Nat) (pc handler sp : Word) (saved : List Word) (wr fetch : FabRes)
    (icnt : Nat) (s : State) : Res :=
  .next (s.irqEntry core thread k pc handler sp saved wr fetch icnt)

/-! ### Comparison (R318–R325) -/

/-- What copy c presents at the point. -/
def cmpView (p : CmpPoint) (c : Nat) : Option (Option Present) × Option (Option Word) :=
  (p.write.map (fun l => l[c]?), p.sig.map (fun l => l[c]?))

/-- Copies c and d agree. -/
def cmpAgree (p : CmpPoint) (c d : Nat) : Bool := cmpView p c == cmpView p d && !p.bad.getLsbD c && !p.bad.getLsbD d

def cmpPresent (p : CmpPoint) (c : Nat) : Option Present := p.write.bind (fun l => l[c]?)

/-- The lowest CAUSE that applies among the running copies; own is that of a write at this point. -/
def cmpCause (p : CmpPoint) (run : List Nat) (own : Nat) : Nat :=
  let c0 := run.headD 0
  if run.any (fun c => (cmpView p c).1 != (cmpView p c0).1) then own
  else if run.any (fun c => p.bad.getLsbD c) then 4
  else 5

/-- The logical address of a failure; which copy's it is where the copies differ is open. -/
def State.failAddr (s : State) (p : CmpPoint) (run : List Nat) (cause : Nat) : Nat :=
  if cause == 5 then 0
  else if cause == 4 then p.load.toNat
  else
    let l := run.filterMap (fun c => (cmpPresent p c).map (fun w => w.addr.toNat))
    nth l (s.freeNat % max 1 l.length) 0

/-- The failure's registers; interrupts that the leading copy accepted at a later count return to pending (R317). -/
def State.scCapture (s : State) (n : Nat) (p : CmpPoint) (run : List Nat) (cause : Nat) : State :=
  let a := s.failAddr p run cause
  let s := s.useFree
  let s := ((s.wr (SCC_MMPC n) p.pc).put (SCC_MMADDR_ADDR n) a).put (SCC_MMICNT_ICNT n) p.icnt
  let s := s.put (SCC_STAT_CAUSE n) cause
  let c := s.scOf n
  let back := (c.acc.filter (fun (e : Irq × Nat) => decide (p.icnt < e.2))).map (fun (e : Irq × Nat) => e.1)
  (s.setScc n { c with acc := c.acc.filter (fun (e : Irq × Nat) => decide (e.2 ≤ p.icnt)) }).setIrqs (s.irqs ++ back)

/-- The core stops (R321). -/
def State.scStop (s : State) (n : Nat) : State :=
  let s := (s.put (SCC_STAT_STATE n) 3).put (SCC_STAT_ODD n) 3
  let s := s.setScc n { s.scOf n with order := [], odd := none, resv := none, acc := [] }
  let s := (List.range 4).foldl (fun s m => s.irqIf (m != n) (.thread (3 * m)) (SCC_STAT n).addr 0) s
  if s.isOn 2 then s.bSource 0x0A (if s.is (SCC_MODE_REACT n) then 2 else 1) else s

def oddCnt (n c : Nat) : Fld := if c == 0 then SCC_CNT_ODDA n else if c == 1 then SCC_CNT_ODDB n else SCC_CNT_ODDC n

/-- The third odd event of copy x lies less than 1 s after the first of the three (R324). -/
def permanent (hist : List (Nat × Nat)) (x t : Nat) : Bool :=
  match (hist.filter (fun e => e.1 == x))[1]? with
  | some e => decide (t < e.2 + 1000000000)
  | none => false

/-- Copy x is odd: it goes to resynchronisation, or is permanent (R322–R324). -/
def State.scOdd (s : State) (n x : Nat) : State :=
  let c := s.scOf n
  let t := s.timebase
  let rest := c.order.filter (fun y => y != x)
  let s := ((s.put (SCC_STAT_ODD n) x).inc (oddCnt n x)).put (SCC_STAT_LEAD n) (rest.headD 0)
  let hist := (x, t) :: c.hist
  if permanent c.hist x t then
    (s.putFldBit (SCC_STAT_PERM n) x true).setScc n { c with order := rest, hist := hist }
  else (s.put (SCC_STAT_STATE n) 2).setScc n { c with order := rest, odd := some x, since := s.now, hist := hist }

/-- What is compared has passed: acceptances up to its count are final. -/
def State.scFinal (s : State) (n icnt : Nat) : State :=
  let c := s.scOf n
  s.setScc n { c with acc := c.acc.filter (fun (e : Irq × Nat) => decide (icnt < e.2)) }

/-- The lag of the last copy behind the leading one, which is at least SLIP for each copy between (R313). -/
def State.lagSeen (s : State) (n lag : Nat) : State :=
  s.put (SCC_LAG_MAXLAG n) (max (s.get (SCC_LAG_MAXLAG n)) (min 0xFFFF lag))

/-- The comparison of a point: f performs its access with the value of copy c; own is the CAUSE of its write. -/
def State.scCompare (s : State) (n : Nat) (p : CmpPoint) (own : Nat) (f : Nat → State → State) : State :=
  let run := (s.scOf n).order
  if !s.scRuns n || run.isEmpty then s
  else
    let s := s.lagSeen n (max p.lag (s.get (SCC_MODE_SLIP n) * (run.length - 1)))
    let lead := run.headD 0
    if run.all (fun c => cmpAgree p lead c) then f lead (s.scFinal n p.icnt)
    else
      let s := s.scCapture n p run (cmpCause p run own)
      let two := run.find? (fun x => match run.filter (fun y => y != x) with
        | [a, b] => cmpAgree p a b
        | _ => false)
      match two with
      | some x => f ((run.filter (fun y => y != x)).headD 0) (s.scOdd n x)
      | none => s.scStop n

/-- The write of copy c leaves the core. -/
def State.scWrite (s : State) (core : Fin 4) (p : CmpPoint) (c : Nat) : State :=
  match cmpPresent p c with
  | some w => s.scStore core 0 w.addr.toNat w.data
  | none => s

def State.ownCause (s : State) (n : Nat) (p : CmpPoint) : Nat :=
  match cmpPresent p ((s.scOf n).order.headD 0) with
  | some w => if s.inRegion n w.addr.toNat then 1 else 2
  | none => 5

def execScComparison (core : Fin 4) (p : CmpPoint) (s : State) : Res :=
  .next (s.scCompare core.val p (s.ownCause core.val p) (fun c s => s.scWrite core p c))

/-- The odd copy resumes, last in the order (R323). -/
def State.resyncEnd (s : State) (n : Nat) : State :=
  let c := s.scOf n
  match c.odd with
  | some x =>
    if s.scRuns n then
      (s.put (SCC_STAT_STATE n) 1).setScc n { c with order := c.order ++ [x], odd := none }
    else s
  | none => s

def execScResyncEnd (core : Fin 4) (s : State) : Res := .next (s.resyncEnd core.val)

/-- A resynchronisation ends at most 2 µs after its failure (R323). -/
def State.resyncDue (s : State) : State :=
  (List.range 4).foldl (fun s n => if (s.scOf n).odd.isSome && decide ((s.scOf n).since + 800 ≤ s.now) then s.resyncEnd n else s) s

/-! ### AMO, LR and SC outside the region (R318) -/

/-- The value an AMO stores: the old value combined with the operand, n bytes wide. -/
def amoValue (op : AmoOp) (n old x : Nat) : Nat :=
  let w := 8 * n
  match op with
  | .add => (old + x) % 2 ^ w
  | .xor => old ^^^ x
  | .and => old &&& x
  | .or => old ||| x
  | .min => if signed w old ≤ signed w x then old else x
  | .max => if signed w old ≤ signed w x then x else old
  | .minu => min old x
  | .maxu => max old x
  | .swap => x
  | .lr => x
  | .sc => x

/-- The access, performed once: its result goes to every copy. -/
def State.amo (s : State) (core : Fin 4) (op : AmoOp) (held : Bool) (w : Present) (pc : Word) : State :=
  let u := core.val * 3
  let a := w.addr.toNat
  let n := w.data.length
  let i := s.scIni core 0
  let c := s.scOf core.val
  let kind := if op == .lr then 0 else 1
  let give (s : State) (v : Nat) := s.setThr u { s.thr u with loaded := BitVec.ofNat 32 v }
  if !s.puAllows u a n kind false then s.scPrecise u kind a 0x25 pc
  else if !s.answers i a then s
  else if !(s.busOk i a false n && (kind == 0 || s.busOk i a true n)) then s.scPrecise u kind a 0x21 pc
  else match op with
    | .lr =>
      let r := s.blockLoad i a n
      (give r.2 (leNat r.1)).setScc core.val { c with resv := some (a / 8) }
    | .sc =>
      let ok := c.resv == some (a / 8) && held
      let s := s.setScc core.val { c with resv := none }
      if ok then give (s.blockStore i a w.data) 0 else give s 1
    | op =>
      let r := s.blockLoad i a n
      give (r.2.blockStore i a (leBytes n (amoValue op n (leNat r.1) (leNat w.data)))) (leNat r.1)

def execScAmoCompare (core : Fin 4) (op : AmoOp) (p : CmpPoint) (held : Bool) (s : State) : Res :=
  .next (s.scCompare core.val p 3 (fun c s => match cmpPresent p c with
    | some w => s.amo core op held w p.pc
    | none => s))

/-! ### The scrubber (R334) -/

/-- The scrubber reads the next block, one every 10 µs. -/
def State.scrub (s : State) (res : FabRes) (w : Nat) : State :=
  if s.isOn 4 && s.pllA && s.is MEM_SCRUB_EN && decide (s.clk.scrubAt + 4000 ≤ s.now) then
    let a := 0x20000000 + 64 * s.get MEM_SCRUB_PTR
    let s := (s.wrapInc MEM_SCRUB_PTR).noteClk { s.clk with scrubAt := s.now }
    match res with
    | .ok _ k => s.incBy MEM_SRAMERR_CE_CNT k
    | .resendsOut => s
    | .uncorrectable => (s.memBad (a + 8 * w)).log 6 116 0x23 (leBytes 4 (a + 8 * w))
  else s

def execSramScrub (res : FabRes) (w : Fin 8) (s : State) : Res := .next (s.scrub res w.val)

end Sys2Proof.Machine
end

