-- ==== Sys2Proof/Machine/Time.lean ====
section
/-! DEFINITION. Time: what happens in an instant in which no command waits (DESIGN CHOICE, log entry 3). -/

namespace Sys2Proof.Machine

/-- An RC clock makes its next tick: not before lo instants after its last and not after hi; between them it is free. -/
def State.rcDue (s : State) (last lo hi : Nat) : Bool :=
  decide (last + hi ≤ s.now) || (decide (last + lo ≤ s.now) && s.freeBool)

/-- Badger's tick lasts 0.952–1.053 µs, which is 381–421 instants, and what is due in a tick happens before it ends (R61). -/
def State.badgerClock (s : State) : State :=
  (if s.isOn 2 && s.rcDue s.clk.badgerAt 381 421 then
    let s := s.badgerDue.badgerTick
    s.noteClk { s.clk with badgerAt := s.now }
  else s).useFree

/-- Marten's cycle lasts 29.34–31.79 µs, which is 11,736–12,716 instants (R61). -/
def State.martenClock (s : State) : State :=
  (if s.rcDue s.clk.martenAt 11736 12716 then
    let s := s.plugDebounced
    ((s.setMarten (s.marten + 1)).noteClk { s.clk with martenAt := s.now }).martenDue
  else s).useFree

/-- What the control domain does of itself before the present cycle, and the present tick, ends. -/
def State.cycleDue (s : State) : State :=
  if s.ticking then
    let s := (List.range 32).foldl (fun s k => if s.pwmRuns k then (s.pwmPeriodEnd k).pwmCycle k else s) s
    let s := (List.range 8).foldl (fun s n => (s.posDue n).ceWakeDue n) s
    let s := (if s.cyc % 4 == 3 then s.ledgerDue else s).dcdMeasure
    (if s.cyc % 4 == 3 then ((if s.isOn 7 then s.convDue else s).hkChannelEnd.hkRoundEnd).tmInstant false else s).gatesDue
  else s.gatesDue

/-- What the network interfaces and the ASL library do at their time (R417, R429). -/
def State.networkDue (s : State) : State := s.ethAgeAll.aslDue

/-- The safety cores and the scrubber do what is due; a block that no command speaks of is read without an error (R323, R334). -/
def State.memoryDue (s : State) : State := s.resyncDue.scrub (.ok 0 0) 0

/-- The next instant begins: the registers as they stand are what its writes find (R16). -/
def State.nextInstant (s : State) : State := s.setClk { s.clk with now := s.now + 1, was := s.regs }

/-- The control clock makes a cycle, where it runs: every engine's mcycle counts, and the forces that are due take effect
(R61, R91). -/
def State.controlCycle (s : State) : State :=
  if s.ticking then
    let s := (s.setCyc (s.cyc + 1)).setCes (s.ce.map (fun (c : CeCore) => { c with mcycle := (c.mcycle + 1) % 2 ^ 64 }))
    let s := (List.range 32).foldl (fun s k => (s.pwmForceDue k).tripOnDue k) s
    let s := (List.range 8).foldl (fun s n => s.ceDeadline n) s
    ((List.finRange 8).foldl (fun s n => s.ceLand n) s).trimStep
  else s

/-- KP's firmware does what it does without a command: it ends what is due in its tick, supervises the modes, the actuators and the DC-DC stage, empties the
capture FIFOs into their buffer and takes the frames that wait in the HSPI buffer. -/
def State.firmware (s : State) : State :=
  if s.kpRuns then s.c1Settle.modesScan.driveScan.capDrainAll.hspiTake.kpDue.heartbeatDue else s

/-- An instant of 2.5 ns passes: a cycle of the control clock where it runs, with what the other clocks and the firmware do. -/
def State.idle (s : State) : State :=
  s.cycleDue.networkDue.supplyDue.memoryDue.nextInstant.badgerClock.martenClock.controlCycle.converterClock.firmware

end Sys2Proof.Machine
end

