-- ==== Sys2Proof/Machine/Dispatch.lean ====
section
/-! DEFINITION. One arm per command of the VX8800's opcode table: each is one direct call of that command's meaning. -/

namespace Sys2Proof.Machine

def exec (i : Instr) (s : State) : Host.Outcome State Fault Refusal :=
  match i with
  | .registerWrite ini addr val => Sys2Proof.Machine.execRegisterWrite ini addr val s
  | .cecLock ini val => Sys2Proof.Machine.execCecLock ini val s
  | .fabricTcmAccess ini w data => Sys2Proof.Machine.execFabricTcmAccess ini w data s
  | .wordArrival nn w => Sys2Proof.Machine.execWordArrival nn w s
  | .modeEnter q => Sys2Proof.Machine.execModeEnter q s
  | .modeExit q => Sys2Proof.Machine.execModeExit q s
  | .modeStatus q => Sys2Proof.Machine.execModeStatus q s
  | .instanceRampEnd ix => Sys2Proof.Machine.execInstanceRampEnd ix s
  | .stageSwitchingReport ix => Sys2Proof.Machine.execStageSwitchingReport ix s
  | .stageStartTimeout ix => Sys2Proof.Machine.execStageStartTimeout ix s
  | .ascHoldEnd m => Sys2Proof.Machine.execAscHoldEnd m s
  | .hldHoldsEnd => Sys2Proof.Machine.execHldHoldsEnd s
  | .setptTimeout ix => Sys2Proof.Machine.execSetptTimeout ix s
  | .dcdVminTimeout => Sys2Proof.Machine.execDcdVminTimeout s
  | .prkDwellExpiry => Sys2Proof.Machine.execPrkDwellExpiry s
  | .plugDetLevel level => Sys2Proof.Machine.execPlugDetLevel level s
  | .plugDebounced => Sys2Proof.Machine.execPlugDebounced s
  | .mdmPolicyWrite ini sel val => Sys2Proof.Machine.execMdmPolicyWrite ini sel val s
  | .mdmLock ini val => Sys2Proof.Machine.execMdmLock ini val s
  | .pllbLockLoss => Sys2Proof.Machine.execPllbLockLoss s
  | .pllaLockLoss => Sys2Proof.Machine.execPllaLockLoss s
  | .tbLoRead ini => Sys2Proof.Machine.execTbLoRead ini s
  | .tbCtrlWrite ini val => Sys2Proof.Machine.execTbCtrlWrite ini val s
  | .evlRecordWrite => Sys2Proof.Machine.execEvlRecordWrite s
  | .pwmZeroBoundary k => Sys2Proof.Machine.execPwmZeroBoundary k s
  | .pwmPeakBoundary k => Sys2Proof.Machine.execPwmPeakBoundary k s
  | .pwmShadowWrite ini k r val => Sys2Proof.Machine.execPwmShadowWrite ini k r val s
  | .pwmgCommit ini val => Sys2Proof.Machine.execPwmgCommit ini val s
  | .pwmgStart ini val => Sys2Proof.Machine.execPwmgStart ini val s
  | .pwmCtrlRun ini k val => Sys2Proof.Machine.execPwmCtrlRun ini k val s
  | .pwmCtrlStop ini k val => Sys2Proof.Machine.execPwmCtrlStop ini k val s
  | .pwmCompareEdge k x => Sys2Proof.Machine.execPwmCompareEdge k x s
  | .pwmDeadtimeEnd k x => Sys2Proof.Machine.execPwmDeadtimeEnd k x s
  | .pwmMinpulseEnd k x => Sys2Proof.Machine.execPwmMinpulseEnd k x s
  | .pwmCmpcCmpd k d => Sys2Proof.Machine.execPwmCmpcCmpd k d s
  | .pwmForce ini k val => Sys2Proof.Machine.execPwmForce ini k val s
  | .pwmTripActive k ix => Sys2Proof.Machine.execPwmTripActive k ix s
  | .pwmTripclr ini k val => Sys2Proof.Machine.execPwmTripclr ini k val s
  | .pwmSynci k => Sys2Proof.Machine.execPwmSynci k s
  | .pwmTapCalibration k up => Sys2Proof.Machine.execPwmTapCalibration k up s
  | .gateCommandEdge g short near level => Sys2Proof.Machine.execGateCommandEdge g short near level s
  | .ginEdge g up short near level => Sys2Proof.Machine.execGinEdge g up short near level s
  | .keepaliveLoss g level => Sys2Proof.Machine.execKeepaliveLoss g level s
  | .linkResume g level => Sys2Proof.Machine.execLinkResume g level s
  | .edgePhaseEnd g => Sys2Proof.Machine.execEdgePhaseEnd g s
  | .gdProfileWrite ini g on val => Sys2Proof.Machine.execGdProfileWrite ini g on val s
  | .edgeMeasured g on cross => Sys2Proof.Machine.execEdgeMeasured g on cross s
  | .gdLoopWrite ini g val => Sys2Proof.Machine.execGdLoopWrite ini g val s
  | .biasRegulationReached g level => Sys2Proof.Machine.execBiasRegulationReached g level s
  | .gdgLock ini val => Sys2Proof.Machine.execGdgLock ini val s
  | .bootRefreshStart g => Sys2Proof.Machine.execBootRefreshStart g s
  | .bootRefreshStep g => Sys2Proof.Machine.execBootRefreshStep g s
  | .bootUndervoltage g v => Sys2Proof.Machine.execBootUndervoltage g v s
  | .gdBuvClear ini g val v => Sys2Proof.Machine.execGdBuvClear ini g val v s
  | .didtArm g => Sys2Proof.Machine.execDidtArm g s
  | .didtDetect g v => Sys2Proof.Machine.execDidtDetect g v s
  | .dsatBlankEnd g => Sys2Proof.Machine.execDsatBlankEnd g s
  | .dsatDetect g v => Sys2Proof.Machine.execDsatDetect g v s
  | .softTurnoffEnd g => Sys2Proof.Machine.execSoftTurnoffEnd g s
  | .pfltClear ini g val pos neg => Sys2Proof.Machine.execPfltClear ini g val pos neg s
  | .millerClampEngage g v => Sys2Proof.Machine.execMillerClampEngage g v s
  | .railUndervoltage g neg v => Sys2Proof.Machine.execRailUndervoltage g neg v s
  | .scgAscDelayEnd n => Sys2Proof.Machine.execScgAscDelayEnd n s
  | .scgClr ini n val => Sys2Proof.Machine.execScgClr ini n val s
  | .osdctrlStart ini val => Sys2Proof.Machine.execOsdctrlStart ini val s
  | .osdBiasReady => Sys2Proof.Machine.execOsdBiasReady s
  | .osdctrlAbort ini val => Sys2Proof.Machine.execOsdctrlAbort ini val s
  | .osdStepEnd a b => Sys2Proof.Machine.execOsdStepEnd a b s
  | .adSeqWrite ini nn val => Sys2Proof.Machine.execAdSeqWrite ini nn val s
  | .adSeqApply nn => Sys2Proof.Machine.execAdSeqApply nn s
  | .adcClockLoss => Sys2Proof.Machine.execAdcClockLoss s
  | .adgLock ini val => Sys2Proof.Machine.execAdgLock ini val s
  | .vdcUpdate => Sys2Proof.Machine.execVdcUpdate s
  | .wuOpenEvent u ev => Sys2Proof.Machine.execWuOpenEvent u ev s
  | .wugSwtrig ini hi val => Sys2Proof.Machine.execWugSwtrig ini hi val s
  | .wuOpen u => Sys2Proof.Machine.execWuOpen u s
  | .wuCloseEvent u ev => Sys2Proof.Machine.execWuCloseEvent u ev s
  | .wuClose u => Sys2Proof.Machine.execWuClose u s
  | .wuOpenTimeout u => Sys2Proof.Machine.execWuOpenTimeout u s
  | .wuFinalise u => Sys2Proof.Machine.execWuFinalise u s
  | .wuResultPublish u => Sys2Proof.Machine.execWuResultPublish u s
  | .wuRes0Read ini u => Sys2Proof.Machine.execWuRes0Read ini u s
  | .wuDisable ini u val => Sys2Proof.Machine.execWuDisable ini u val s
  | .capStart ini n ev => Sys2Proof.Machine.execCapStart ini n ev s
  | .capStop ini n => Sys2Proof.Machine.execCapStop ini n s
  | .capLenReached n => Sys2Proof.Machine.execCapLenReached n s
  | .hkChannelEnd => Sys2Proof.Machine.execHkChannelEnd s
  | .hkRoundEnd => Sys2Proof.Machine.execHkRoundEnd s
  | .wmComparatorChange m v => Sys2Proof.Machine.execWmComparatorChange m v s
  | .wmFirstEvaluation m low v => Sys2Proof.Machine.execWmFirstEvaluation m low v s
  | .wmThWrite ini m val => Sys2Proof.Machine.execWmThWrite ini m val s
  | .wmDisable ini m val => Sys2Proof.Machine.execWmDisable ini m val s
  | .wmStrobe m v => Sys2Proof.Machine.execWmStrobe m v s
  | .wmStrobeLoss m => Sys2Proof.Machine.execWmStrobeLoss m s
  | .foxFilterAccept code => Sys2Proof.Machine.execFoxFilterAccept code s
  | .tripInEdge ix level => Sys2Proof.Machine.execTripInEdge ix level s
  | .trnRouteWrite ini addr val => Sys2Proof.Machine.execTrnRouteWrite ini addr val s
  | .trnLock ini val => Sys2Proof.Machine.execTrnLock ini val s
  | .wmgLock ini val => Sys2Proof.Machine.execWmgLock ini val s
  | .ceInstruction n fab => Sys2Proof.Machine.execCeInstruction n fab s
  | .ceStoreBusError n => Sys2Proof.Machine.execCeStoreBusError n s
  | .ceHalt ini n val => Sys2Proof.Machine.execCeHalt ini n val s
  | .ceRun ini n val => Sys2Proof.Machine.execCeRun ini n val s
  | .ceRestart ini n val => Sys2Proof.Machine.execCeRestart ini n val s
  | .ceWake n => Sys2Proof.Machine.execCeWake n s
  | .ceDoorbell ini n val => Sys2Proof.Machine.execCeDoorbell ini n val s
  | .ceTriggerSetWrite ini n addr val => Sys2Proof.Machine.execCeTriggerSetWrite ini n addr val s
  | .ceDeadlineMiss n => Sys2Proof.Machine.execCeDeadlineMiss n s
  | .ceEscClear ini n val => Sys2Proof.Machine.execCeEscClear ini n val s
  | .cxMv n => Sys2Proof.Machine.execCxMv n s
  | .cxVadd n => Sys2Proof.Machine.execCxVadd n s
  | .cxVsub n => Sys2Proof.Machine.execCxVsub n s
  | .cxVscl n => Sys2Proof.Machine.execCxVscl n s
  | .cxVld n => Sys2Proof.Machine.execCxVld n s
  | .cxMld n => Sys2Proof.Machine.execCxMld n s
  | .cxVst n => Sys2Proof.Machine.execCxVst n s
  | .cxVext n => Sys2Proof.Machine.execCxVext n s
  | .cxVins n => Sys2Proof.Machine.execCxVins n s
  | .cxSincos n => Sys2Proof.Machine.execCxSincos n s
  | .cxRot n => Sys2Proof.Machine.execCxRot n s
  | .cxRsqrt n => Sys2Proof.Machine.execCxRsqrt n s
  | .cxFclmp n => Sys2Proof.Machine.execCxFclmp n s
  | .cxSadd n => Sys2Proof.Machine.execCxSadd n s
  | .cxSsub n => Sys2Proof.Machine.execCxSsub n s
  | .cxSatn n => Sys2Proof.Machine.execCxSatn n s
  | .cxDuty n => Sys2Proof.Machine.execCxDuty n s
  | .cxWait n => Sys2Proof.Machine.execCxWait n s
  | .cxDone n => Sys2Proof.Machine.execCxDone n s
  | .cxMbtake n => Sys2Proof.Machine.execCxMbtake n s
  | .cxLgrd n => Sys2Proof.Machine.execCxLgrd n s
  | .cxLgwr n => Sys2Proof.Machine.execCxLgwr n s
  | .cxWtime n => Sys2Proof.Machine.execCxWtime n s
  | .cxXwr n => Sys2Proof.Machine.execCxXwr n s
  | .cxXrd n => Sys2Proof.Machine.execCxXrd n s
  | .posRawTransition n levels => Sys2Proof.Machine.execPosRawTransition n levels s
  | .posTminExpiry n => Sys2Proof.Machine.execPosTminExpiry n s
  | .pcmpPulseEnd n => Sys2Proof.Machine.execPcmpPulseEnd n s
  | .posStandstill n => Sys2Proof.Machine.execPosStandstill n s
  | .posCntWrite ini n val => Sys2Proof.Machine.execPosCntWrite ini n val s
  | .posCmpRestart ini n val => Sys2Proof.Machine.execPosCmpRestart ini n val s
  | .sentFrame ix stamp cal status data crc pause lost => Sys2Proof.Machine.execSentFrame ix stamp cal status data crc pause lost s
  | .ssiTrigger ix ev => Sys2Proof.Machine.execSsiTrigger ix ev s
  | .ssiFrame ix bits lost => Sys2Proof.Machine.execSsiFrame ix bits lost s
  | .posFrameTimeout n => Sys2Proof.Machine.execPosFrameTimeout n s
  | .posgLock ini val => Sys2Proof.Machine.execPosgLock ini val s
  | .resPeriodUpdate n exc => Sys2Proof.Machine.execResPeriodUpdate n exc s
  | .ledgerCycle => Sys2Proof.Machine.execLedgerCycle s
  | .ledgerPublish => Sys2Proof.Machine.execLedgerPublish s
  | .lgcBatlimWrite ini val => Sys2Proof.Machine.execLgcBatlimWrite ini val s
  | .battLimitTimeout => Sys2Proof.Machine.execBattLimitTimeout s
  | .lgcLock ini val => Sys2Proof.Machine.execLgcLock ini val s
  | .steerCompute => Sys2Proof.Machine.execSteerCompute s
  | .actPrecheckEnd n => Sys2Proof.Machine.execActPrecheckEnd n s
  | .actDwellEnd n => Sys2Proof.Machine.execActDwellEnd n s
  | .actRelaxEnd n => Sys2Proof.Machine.execActRelaxEnd n s
  | .actSeqTimeout n => Sys2Proof.Machine.execActSeqTimeout n s
  | .actStall n => Sys2Proof.Machine.execActStall n s
  | .actBusuv n v held => Sys2Proof.Machine.execActBusuv n v held s
  | .sealRead d0 d1 d2 u0 u1 u2 => Sys2Proof.Machine.execSealRead d0 d1 d2 u0 u1 u2 s
  | .badgerClockCheck => Sys2Proof.Machine.execBadgerClockCheck s
  | .latchSelfCheck => Sys2Proof.Machine.execLatchSelfCheck s
  | .hsmAck ini val => Sys2Proof.Machine.execHsmAck ini val s
  | .sinAccept ch => Sys2Proof.Machine.execSinAccept ch s
  | .sinDiscrepancy ix => Sys2Proof.Machine.execSinDiscrepancy ix s
  | .bspdEdge ch => Sys2Proof.Machine.execBspdEdge ch s
  | .bspdSpeedTimeout ch => Sys2Proof.Machine.execBspdSpeedTimeout ch s
  | .bspdPlausibility m => Sys2Proof.Machine.execBspdPlausibility m s
  | .badgerEvaluation => Sys2Proof.Machine.execBadgerEvaluation s
  | .ss1Timeout => Sys2Proof.Machine.execSs1Timeout s
  | .hsmEnable ini mask => Sys2Proof.Machine.execHsmEnable ini mask s
  | .hsmRelease ini mask => Sys2Proof.Machine.execHsmRelease ini mask s
  | .hsmSs1 ini => Sys2Proof.Machine.execHsmSs1 ini s
  | .hsmSto ini => Sys2Proof.Machine.execHsmSto ini s
  | .hsmRestart ini => Sys2Proof.Machine.execHsmRestart ini s
  | .wdQuestion n => Sys2Proof.Machine.execWdQuestion n s
  | .wdAnswer ini n val => Sys2Proof.Machine.execWdAnswer ini n val s
  | .stoReadback forced good => Sys2Proof.Machine.execStoReadback forced good s
  | .scComparison core p => Sys2Proof.Machine.execScComparison core p s
  | .scResyncEnd core => Sys2Proof.Machine.execScResyncEnd core s
  | .scAmoCompare core op p held => Sys2Proof.Machine.execScAmoCompare core op p held s
  | .scMemoryAccess core thread acc user fab pc => Sys2Proof.Machine.execScMemoryAccess core thread acc user fab pc s
  | .postedStoreError core thread pc => Sys2Proof.Machine.execPostedStoreError core thread pc s
  | .scInterruptEntry core thread k pc handler sp saved wr fetch icnt => Sys2Proof.Machine.execScInterruptEntry core thread k pc handler sp saved wr fetch icnt s
  | .puLock ini u val => Sys2Proof.Machine.execPuLock ini u val s
  | .mramBlockWrite => Sys2Proof.Machine.execMramBlockWrite s
  | .sramScrub res w => Sys2Proof.Machine.execSramScrub res w s
  | .dmaStart ini c val => Sys2Proof.Machine.execDmaStart ini c val s
  | .dmaResume ini c val => Sys2Proof.Machine.execDmaResume ini c val s
  | .dmaAbort ini c val => Sys2Proof.Machine.execDmaAbort ini c val s
  | .dmaRequest c => Sys2Proof.Machine.execDmaRequest c s
  | .dmaBlock rd wr => Sys2Proof.Machine.execDmaBlock rd wr s
  | .stuLock ini val => Sys2Proof.Machine.execStuLock ini val s
  | .kcpFrameReceive t peer frame => Sys2Proof.Machine.execKcpFrameReceive t peer frame s
  | .kcpReassemblyTimeout ix => Sys2Proof.Machine.execKcpReassemblyTimeout ix s
  | .hspiWrite bytes => Sys2Proof.Machine.execHspiWrite bytes s
  | .hspiRead n => Sys2Proof.Machine.execHspiRead n s
  | .hspiStatus => Sys2Proof.Machine.execHspiStatus s
  | .openSession t peer seq tag pay => Sys2Proof.Machine.execOpenSession t peer seq tag pay s
  | .close q => Sys2Proof.Machine.execClose q s
  | .renew q => Sys2Proof.Machine.execRenew q s
  | .leaseExpiry ctx => Sys2Proof.Machine.execLeaseExpiry ctx s
  | .kcpQueueDepart k => Sys2Proof.Machine.execKcpQueueDepart k s
  | .kcpDeadlineExpiry ctx seq => Sys2Proof.Machine.execKcpDeadlineExpiry ctx seq s
  | .kcpNotify ctx k => Sys2Proof.Machine.execKcpNotify ctx k s
  | .customerOpcode op cls q => Sys2Proof.Machine.execCustomerOpcode op cls q s
  | .mbxDone ini m val => Sys2Proof.Machine.execMbxDone ini m val s
  | .mbxTimeout m slot => Sys2Proof.Machine.execMbxTimeout m slot s
  | .kcpLock ini val => Sys2Proof.Machine.execKcpLock ini val s
  | .setptDrvA q => Sys2Proof.Machine.execSetptDrvA q s
  | .setptDrvB q => Sys2Proof.Machine.execSetptDrvB q s
  | .setptWhtA q => Sys2Proof.Machine.execSetptWhtA q s
  | .setptWhtB q => Sys2Proof.Machine.execSetptWhtB q s
  | .setptBch q => Sys2Proof.Machine.execSetptBch q s
  | .setptChg q => Sys2Proof.Machine.execSetptChg q s
  | .setptDcd q => Sys2Proof.Machine.execSetptDcd q s
  | .cfgWrite q => Sys2Proof.Machine.execCfgWrite q s
  | .cfgRead q => Sys2Proof.Machine.execCfgRead q s
  | .policyWrite q => Sys2Proof.Machine.execPolicyWrite q s
  | .policyRead q => Sys2Proof.Machine.execPolicyRead q s
  | .osdStart q => Sys2Proof.Machine.execOsdStart q s
  | .osdResult q => Sys2Proof.Machine.execOsdResult q s
  | .stageStatus q => Sys2Proof.Machine.execStageStatus q s
  | .regRead q => Sys2Proof.Machine.execRegRead q s
  | .thermalStatus q => Sys2Proof.Machine.execThermalStatus q s
  | .safetyStatus q => Sys2Proof.Machine.execSafetyStatus q s
  | .captureStart q => Sys2Proof.Machine.execCaptureStart q s
  | .captureComplete unit => Sys2Proof.Machine.execCaptureComplete unit s
  | .captureRead q => Sys2Proof.Machine.execCaptureRead q s
  | .forceCold q => Sys2Proof.Machine.execForceCold q s
  | .actSeq q => Sys2Proof.Machine.execActSeq q s
  | .actAbort q => Sys2Proof.Machine.execActAbort q s
  | .actStatus q => Sys2Proof.Machine.execActStatus q s
  | .battLimits q => Sys2Proof.Machine.execBattLimits q s
  | .chgStatus q => Sys2Proof.Machine.execChgStatus q s
  | .logRead q => Sys2Proof.Machine.execLogRead q s
  | .fwBegin q => Sys2Proof.Machine.execFwBegin q s
  | .fwData q => Sys2Proof.Machine.execFwData q s
  | .fwEnd q => Sys2Proof.Machine.execFwEnd q s
  | .fwVerifyDone ok prod version epoch => Sys2Proof.Machine.execFwVerifyDone ok prod version epoch s
  | .fwSelect q => Sys2Proof.Machine.execFwSelect q s
  | .fwInfo q => Sys2Proof.Machine.execFwInfo q s
  | .timeGet q => Sys2Proof.Machine.execTimeGet q s
  | .timeDisc q => Sys2Proof.Machine.execTimeDisc q s
  | .timeMaster q => Sys2Proof.Machine.execTimeMaster q s
  | .canInitSet ini n val busy => Sys2Proof.Machine.execCanInitSet ini n val busy s
  | .canInitClear ini n val => Sys2Proof.Machine.execCanInitClear ini n val s
  | .canBusIntegration n => Sys2Proof.Machine.execCanBusIntegration n s
  | .canFrameReceive n f sof => Sys2Proof.Machine.execCanFrameReceive n f sof s
  | .canRxfGet ini n k val => Sys2Proof.Machine.execCanRxfGet ini n k val s
  | .canRxdmaRead ini n => Sys2Proof.Machine.execCanRxdmaRead ini n s
  | .canTxdmaWrite ini n val sof => Sys2Proof.Machine.execCanTxdmaWrite ini n val sof s
  | .canTxreq ini n val sof => Sys2Proof.Machine.execCanTxreq ini n val sof s
  | .canTxcncl ini n val sof => Sys2Proof.Machine.execCanTxcncl ini n val sof s
  | .canTxEnd n kp res sof => Sys2Proof.Machine.execCanTxEnd n kp res sof s
  | .canRecover ini n val => Sys2Proof.Machine.execCanRecover ini n val s
  | .canBusoffRecovered n => Sys2Proof.Machine.execCanBusoffRecovered n s
  | .canOpmodeChange n => Sys2Proof.Machine.execCanOpmodeChange n s
  | .canTimeReference sof => Sys2Proof.Machine.execCanTimeReference sof s
  | .ethLinkChange k up sqi => Sys2Proof.Machine.execEthLinkChange k up sqi s
  | .ethFrameReceive k bytes stamp room => Sys2Proof.Machine.execEthFrameReceive k bytes stamp room s
  | .ethAppTransmit room => Sys2Proof.Machine.execEthAppTransmit room s
  | .ethAddressAgeout mac => Sys2Proof.Machine.execEthAddressAgeout mac s
  | .t1sTransmitOpportunity beacon => Sys2Proof.Machine.execT1sTransmitOpportunity beacon s
  | .gptpMessage k msg => Sys2Proof.Machine.execGptpMessage k msg s
  | .ethLock ini val => Sys2Proof.Machine.execEthLock ini val s
  | .aslOpen core desc blk reopen => Sys2Proof.Machine.execAslOpen core desc blk reopen s
  | .aslServicePass core placed sof => Sys2Proof.Machine.execAslServicePass core placed sof s
  | .vmainLoss ovlo v => Sys2Proof.Machine.execVmainLoss ovlo v s
  | .switchOverComplete => Sys2Proof.Machine.execSwitchOverComplete s
  | .vmainReturn lo hi => Sys2Proof.Machine.execVmainReturn lo hi s
  | .flybackStart v => Sys2Proof.Machine.execFlybackStart v s
  | .flybackReady => Sys2Proof.Machine.execFlybackReady s
  | .flybackDrop cause v => Sys2Proof.Machine.execFlybackDrop cause v s
  | .collapseSwitchOff => Sys2Proof.Machine.execCollapseSwitchOff s
  | .supLock ini val => Sys2Proof.Machine.execSupLock ini val s
  | .pdcReqWrite ini val => Sys2Proof.Machine.execPdcReqWrite ini val s
  | .supStby ini val => Sys2Proof.Machine.execSupStby ini val s
  | .wakePad level => Sys2Proof.Machine.execWakePad level s
  | .wakeTimer => Sys2Proof.Machine.execWakeTimer s
  | .wakePlug => Sys2Proof.Machine.execWakePlug s
  | .wakeCan bus => Sys2Proof.Machine.execWakeCan bus s
  | .powerCycle => Sys2Proof.Machine.execPowerCycle s
  | .syscRstCold ini val => Sys2Proof.Machine.execSyscRstCold ini val s
  | .syscRstWarm ini val => Sys2Proof.Machine.execSyscRstWarm ini val s
  | .hkHeartbeatLoss => Sys2Proof.Machine.execHkHeartbeatLoss s
  | .startBegin v => Sys2Proof.Machine.execStartBegin v s
  | .startStep ok alt => Sys2Proof.Machine.execStartStep ok alt s
  | .startTimeout => Sys2Proof.Machine.execStartTimeout s
  | .startRetry => Sys2Proof.Machine.execStartRetry s
  | .lifecycleUnlock valid => Sys2Proof.Machine.execLifecycleUnlock valid s
  | .debugHalt core thread => Sys2Proof.Machine.execDebugHalt core thread s
  | .thermalShutdownSwitchoff => Sys2Proof.Machine.execThermalShutdownSwitchoff s
  | .thmLock ini val => Sys2Proof.Machine.execThmLock ini val s
  | .t1sFrameReceive bytes stamp => Sys2Proof.Machine.execT1sFrameReceive bytes stamp s
  | .canReceiveError n eight => Sys2Proof.Machine.execCanReceiveError n eight s
  | .vmainUsable v => Sys2Proof.Machine.execVmainUsable v s
  | .vhvOvervoltage v => Sys2Proof.Machine.execVhvOvervoltage v s
  | .wmEnable ini m val => Sys2Proof.Machine.execWmEnable ini m val s
  | .sinPadChange ch level => Sys2Proof.Machine.execSinPadChange ch level s
  | .bspdPadChange ch level => Sys2Proof.Machine.execBspdPadChange ch level s
  | .adcClockReturn => Sys2Proof.Machine.execAdcClockReturn s

end Sys2Proof.Machine
end

