-- ==== Sys2Proof/Machine/Parts.lean ====
section
/-! DEFINITION. The parts of State, and the parts that each command can change: the frame of every command at the level of
whole parts. -/

namespace Sys2Proof.Machine

/-- The parts of State that commands change, each a field of it. -/
inductive Part where
  | regs
  | mem
  | fresh
  | clk
  | cyc
  | evl
  | irqs
  | pwm
  | domains
  | pllA
  | pllB
  | busErr
  | mramW
  | tbLatch
  | ce
  | fox
  | conv
  | badger
  | marten
  | gates
  | scg
  | osd
  | kcp
  | modes
  | act
  | pos
  | ledger
  | hk
  | sc
  | scc
  | dma
  | can
  | canTm
  | eth
  | asl
  | sup
  | start
  deriving DecidableEq, Repr

/-- The part is the same in both states. -/
def Part.same (p : Part) (s t : State) : Prop :=
  match p with
  | .regs => t.regs = s.regs
  | .mem => t.mem = s.mem
  | .fresh => t.fresh = s.fresh
  | .clk => t.clk = s.clk
  | .cyc => t.cyc = s.cyc
  | .evl => t.evl = s.evl
  | .irqs => t.irqs = s.irqs
  | .pwm => t.pwm = s.pwm
  | .domains => t.on = s.on
  | .pllA => t.pllA = s.pllA
  | .pllB => t.pllB = s.pllB
  | .busErr => t.busErr = s.busErr
  | .mramW => t.mramW = s.mramW
  | .tbLatch => t.tbLatch = s.tbLatch
  | .ce => t.ce = s.ce
  | .fox => t.fox = s.fox
  | .conv => t.conv = s.conv
  | .badger => t.badger = s.badger
  | .marten => t.marten = s.marten
  | .gates => t.gates = s.gates
  | .scg => t.scg = s.scg
  | .osd => t.osd = s.osd
  | .kcp => t.kcp = s.kcp
  | .modes => t.modes = s.modes
  | .act => t.act = s.act
  | .pos => t.pos = s.pos
  | .ledger => t.ledger = s.ledger
  | .hk => t.hk = s.hk
  | .sc => t.sc = s.sc
  | .scc => t.scc = s.scc
  | .dma => t.dma = s.dma
  | .can => t.can = s.can
  | .canTm => t.canTm = s.canTm
  | .eth => t.eth = s.eth
  | .asl => t.asl = s.asl
  | .sup => t.sup = s.sup
  | .start => t.start = s.start

/-- The parts that a command can change. A command of KP that a request or a frame carries can change whatever KP's firmware
does on the way: requests that leave their queues before it, and the replies. -/
def partsOf : Instr → List Part
  | .registerWrite _ _ _ => [.regs, .mem, .fresh, .clk, .cyc, .evl, .irqs, .pwm, .domains, .pllA, .pllB, .busErr, .mramW,
      .tbLatch, .ce, .fox, .conv, .badger, .gates, .scg, .osd, .kcp, .modes, .act, .pos, .ledger, .hk, .sc, .scc, .dma, .can,
      .canTm, .eth, .sup, .start]
  | .cecLock _ _ => [.regs, .busErr]
  | .fabricTcmAccess _ _ _ => [.regs, .mem, .fresh, .clk, .cyc, .evl, .irqs, .pwm, .domains, .pllA, .pllB, .busErr, .mramW,
      .tbLatch, .ce, .fox, .conv, .badger, .gates, .scg, .osd, .kcp, .modes, .act, .pos, .ledger, .hk, .sc, .scc, .dma, .can,
      .canTm, .eth, .sup, .start]
  | .wordArrival _ _ => [.regs, .evl, .irqs, .conv, .pos]
  | .modeEnter _ => [.regs, .mem, .fresh, .clk, .cyc, .evl, .irqs, .pwm, .domains, .pllA, .pllB, .busErr, .mramW, .tbLatch, .ce,
      .fox, .conv, .badger, .gates, .scg, .osd, .kcp, .modes, .act, .pos, .ledger, .hk, .sc, .scc, .dma, .can, .canTm, .eth, .sup,
      .start]
  | .modeExit _ => [.regs, .mem, .fresh, .clk, .cyc, .evl, .irqs, .pwm, .domains, .pllA, .pllB, .busErr, .mramW, .tbLatch, .ce,
      .fox, .conv, .badger, .gates, .scg, .osd, .kcp, .modes, .act, .pos, .ledger, .hk, .sc, .scc, .dma, .can, .canTm, .eth, .sup,
      .start]
  | .modeStatus _ => [.regs, .mem, .fresh, .clk, .cyc, .evl, .irqs, .pwm, .domains, .pllA, .pllB, .busErr, .mramW, .tbLatch, .ce,
      .fox, .conv, .badger, .gates, .scg, .osd, .kcp, .modes, .act, .pos, .ledger, .hk, .sc, .scc, .dma, .can, .canTm, .eth, .sup,
      .start]
  | .instanceRampEnd _ => [.regs, .fresh, .pwm, .kcp, .modes, .act]
  | .stageSwitchingReport _ => [.regs, .pwm, .kcp, .modes]
  | .stageStartTimeout _ => [.regs, .pwm, .kcp, .modes]
  | .ascHoldEnd _ => [.regs, .pwm]
  | .hldHoldsEnd => [.regs, .mem, .cyc, .evl, .pwm, .domains, .pllA, .busErr, .mramW, .tbLatch, .ce, .fox, .conv, .badger, .gates,
      .scg, .osd, .kcp, .modes, .act, .pos, .ledger, .hk, .sc, .scc, .dma, .can, .canTm, .eth, .sup, .start]
  | .setptTimeout _ => [.regs, .pwm, .kcp, .modes, .act]
  | .dcdVminTimeout => [.regs, .pwm, .kcp, .modes, .act]
  | .prkDwellExpiry => [.regs, .mem, .cyc, .evl, .pwm, .domains, .pllA, .busErr, .mramW, .tbLatch, .ce, .fox, .conv, .badger,
      .gates, .scg, .osd, .kcp, .modes, .act, .pos, .ledger, .hk, .sc, .scc, .dma, .can, .canTm, .eth, .sup, .start]
  | .plugDetLevel _ => [.regs, .sup]
  | .plugDebounced => [.regs, .pwm, .kcp, .modes, .act, .sup]
  | .mdmPolicyWrite _ _ _ => [.regs, .busErr, .sup]
  | .mdmLock _ _ => [.regs, .busErr]
  | .pllbLockLoss => [.regs, .clk, .pllB]
  | .pllaLockLoss => [.regs, .pllA]
  | .tbLoRead _ => [.busErr, .tbLatch]
  | .tbCtrlWrite _ _ => [.regs, .busErr]
  | .evlRecordWrite => [.regs, .mem, .fresh, .evl, .mramW, .start]
  | .pwmZeroBoundary _ => [.regs, .evl, .irqs, .pwm, .ce, .kcp, .modes, .act]
  | .pwmPeakBoundary _ => [.regs, .evl, .irqs, .pwm, .ce]
  | .pwmShadowWrite _ _ _ _ => [.regs, .evl, .irqs, .pwm, .busErr, .ce]
  | .pwmgCommit _ _ => [.regs, .evl, .irqs, .pwm, .busErr, .ce]
  | .pwmgStart _ _ => [.regs, .irqs, .pwm, .busErr]
  | .pwmCtrlRun _ _ _ => [.regs, .irqs, .pwm, .busErr]
  | .pwmCtrlStop _ _ _ => [.regs, .irqs, .pwm, .busErr]
  | .pwmCompareEdge _ _ => [.regs, .evl, .irqs, .pwm]
  | .pwmDeadtimeEnd _ _ => [.regs, .evl, .irqs, .pwm]
  | .pwmMinpulseEnd _ _ => [.regs, .evl, .irqs, .pwm]
  | .pwmCmpcCmpd _ _ => [.regs, .evl, .irqs, .pwm, .ce]
  | .pwmForce _ _ _ => [.regs, .irqs, .pwm, .busErr]
  | .pwmTripActive _ _ => [.regs, .fresh, .evl, .irqs, .pwm]
  | .pwmTripclr _ _ _ => [.regs, .evl, .irqs, .pwm, .busErr]
  | .pwmSynci _ => [.regs, .evl, .irqs, .pwm, .ce]
  | .pwmTapCalibration _ _ => [.pwm]
  | .gateCommandEdge _ _ _ _ => [.regs, .fresh, .evl, .gates]
  | .ginEdge _ _ _ _ _ => [.regs, .fresh, .evl, .gates]
  | .keepaliveLoss _ _ => [.regs, .fresh, .evl, .gates]
  | .linkResume _ _ => [.regs, .fresh, .gates]
  | .edgePhaseEnd _ => [.gates]
  | .gdProfileWrite _ _ _ _ => [.regs, .busErr, .gates]
  | .edgeMeasured _ _ _ => [.regs, .fresh, .gates]
  | .gdLoopWrite _ _ _ => [.regs, .busErr, .gates]
  | .biasRegulationReached _ _ => [.regs, .fresh, .gates]
  | .gdgLock _ _ => [.regs, .busErr]
  | .bootRefreshStart _ => [.regs, .gates]
  | .bootRefreshStep _ => [.regs, .gates]
  | .bootUndervoltage _ _ => [.regs, .evl, .gates]
  | .gdBuvClear _ _ _ _ => [.regs, .busErr]
  | .didtArm _ => [.gates]
  | .didtDetect _ _ => [.regs, .mem, .fresh, .clk, .cyc, .evl, .irqs, .pwm, .domains, .pllA, .pllB, .busErr, .mramW, .tbLatch,
      .ce, .fox, .conv, .badger, .gates, .scg, .osd, .kcp, .modes, .act, .pos, .ledger, .hk, .sc, .scc, .dma, .can, .canTm, .eth,
      .sup, .start]
  | .dsatBlankEnd _ => [.gates]
  | .dsatDetect _ _ => [.regs, .mem, .fresh, .clk, .cyc, .evl, .irqs, .pwm, .domains, .pllA, .pllB, .busErr, .mramW, .tbLatch,
      .ce, .fox, .conv, .badger, .gates, .scg, .osd, .kcp, .modes, .act, .pos, .ledger, .hk, .sc, .scc, .dma, .can, .canTm, .eth,
      .sup, .start]
  | .softTurnoffEnd _ => [.regs, .gates]
  | .pfltClear _ _ _ _ _ => [.regs, .mem, .fresh, .cyc, .evl, .irqs, .pwm, .domains, .pllA, .busErr, .mramW, .tbLatch, .ce, .fox,
      .conv, .badger, .gates, .scg, .osd, .kcp, .modes, .act, .pos, .ledger, .hk, .sc, .scc, .dma, .can, .canTm, .eth, .sup,
      .start]
  | .millerClampEngage _ _ => [.regs]
  | .railUndervoltage _ _ _ => [.regs, .mem, .fresh, .clk, .cyc, .evl, .irqs, .pwm, .domains, .pllA, .pllB, .busErr, .mramW,
      .tbLatch, .ce, .fox, .conv, .badger, .gates, .scg, .osd, .kcp, .modes, .act, .pos, .ledger, .hk, .sc, .scc, .dma, .can,
      .canTm, .eth, .sup, .start]
  | .scgAscDelayEnd _ => [.regs, .mem, .fresh, .cyc, .evl, .irqs, .pwm, .domains, .pllA, .busErr, .mramW, .tbLatch, .ce, .fox,
      .conv, .badger, .gates, .scg, .osd, .kcp, .modes, .act, .pos, .ledger, .hk, .sc, .scc, .dma, .can, .canTm, .eth, .sup,
      .start]
  | .scgClr _ _ _ => [.regs, .mem, .fresh, .cyc, .evl, .irqs, .pwm, .domains, .pllA, .busErr, .mramW, .tbLatch, .ce, .fox, .conv,
      .badger, .gates, .scg, .osd, .kcp, .modes, .act, .pos, .ledger, .hk, .sc, .scc, .dma, .can, .canTm, .eth, .sup, .start]
  | .osdctrlStart _ _ => [.regs, .mem, .fresh, .clk, .cyc, .evl, .irqs, .pwm, .domains, .pllA, .pllB, .busErr, .mramW, .tbLatch,
      .ce, .fox, .conv, .badger, .gates, .scg, .osd, .kcp, .modes, .act, .pos, .ledger, .hk, .sc, .scc, .dma, .can, .canTm, .eth,
      .sup, .start]
  | .osdBiasReady => [.regs, .mem, .cyc, .evl, .irqs, .pwm, .domains, .pllA, .busErr, .mramW, .tbLatch, .ce, .fox, .conv, .badger,
      .gates, .scg, .osd, .kcp, .modes, .act, .pos, .ledger, .hk, .sc, .scc, .dma, .can, .canTm, .eth, .sup, .start]
  | .osdctrlAbort _ _ => [.regs, .mem, .fresh, .clk, .cyc, .evl, .irqs, .pwm, .domains, .pllA, .pllB, .busErr, .mramW, .tbLatch,
      .ce, .fox, .conv, .badger, .gates, .scg, .osd, .kcp, .modes, .act, .pos, .ledger, .hk, .sc, .scc, .dma, .can, .canTm, .eth,
      .sup, .start]
  | .osdStepEnd _ _ => [.regs, .mem, .fresh, .cyc, .evl, .irqs, .pwm, .domains, .pllA, .busErr, .mramW, .tbLatch, .ce, .fox,
      .conv, .badger, .gates, .scg, .osd, .kcp, .modes, .act, .pos, .ledger, .hk, .sc, .scc, .dma, .can, .canTm, .eth, .sup,
      .start]
  | .adSeqWrite _ _ _ => [.regs, .busErr, .conv]
  | .adSeqApply _ => [.regs, .conv]
  | .adcClockLoss => [.regs, .evl, .irqs]
  | .adgLock _ _ => [.regs, .busErr]
  | .vdcUpdate => [.regs, .conv]
  | .wuOpenEvent _ _ => [.regs, .evl, .irqs, .conv]
  | .wugSwtrig _ _ _ => [.regs, .evl, .irqs, .busErr, .conv]
  | .wuOpen _ => [.regs]
  | .wuCloseEvent _ _ => [.regs, .evl, .conv]
  | .wuClose _ => [.regs, .evl, .conv]
  | .wuOpenTimeout _ => [.regs, .evl, .conv]
  | .wuFinalise _ => [.regs, .evl, .irqs, .conv]
  | .wuResultPublish _ => [.regs, .mem, .irqs, .ce, .conv]
  | .wuRes0Read _ _ => [.busErr, .conv]
  | .wuDisable _ _ _ => [.regs, .busErr, .conv]
  | .capStart _ _ _ => [.regs, .busErr, .conv, .kcp]
  | .capStop _ _ => [.regs, .busErr]
  | .capLenReached _ => [.regs]
  | .hkChannelEnd => [.regs, .mem, .fresh, .clk, .cyc, .evl, .irqs, .pwm, .domains, .pllA, .pllB, .busErr, .mramW, .tbLatch, .ce,
      .fox, .conv, .badger, .gates, .scg, .osd, .kcp, .modes, .act, .pos, .ledger, .hk, .sc, .scc, .dma, .can, .canTm, .eth, .sup,
      .start]
  | .hkRoundEnd => [.regs, .mem, .fresh, .cyc, .evl, .irqs, .pwm, .domains, .pllA, .busErr, .mramW, .tbLatch, .ce, .fox, .conv,
      .badger, .gates, .scg, .osd, .kcp, .modes, .act, .pos, .ledger, .hk, .sc, .scc, .dma, .can, .canTm, .eth, .sup, .start]
  | .wmComparatorChange _ _ => [.regs, .fresh, .evl, .irqs, .fox]
  | .wmFirstEvaluation _ _ _ => [.regs, .fresh, .evl, .irqs, .fox]
  | .wmThWrite _ _ _ => [.regs, .busErr, .fox, .hk]
  | .wmDisable _ _ _ => [.regs, .evl, .irqs, .busErr, .fox]
  | .wmStrobe _ _ => [.regs, .fresh, .evl, .irqs, .fox]
  | .wmStrobeLoss _ => [.regs, .fox]
  | .foxFilterAccept _ => [.regs, .evl, .fox]
  | .tripInEdge _ _ => [.regs, .evl, .fox]
  | .trnRouteWrite _ _ _ => [.regs, .fresh, .evl, .irqs, .pwm, .busErr, .fox]
  | .trnLock _ _ => [.regs, .busErr]
  | .wmgLock _ _ => [.regs, .busErr]
  | .ceInstruction _ _ => [.regs, .mem, .fresh, .clk, .cyc, .evl, .irqs, .pwm, .domains, .pllA, .pllB, .busErr, .mramW, .tbLatch,
      .ce, .fox, .conv, .badger, .gates, .scg, .osd, .kcp, .modes, .act, .pos, .ledger, .hk, .sc, .scc, .dma, .can, .canTm, .eth,
      .sup, .start]
  | .ceStoreBusError _ => [.regs, .evl, .irqs, .busErr, .ce]
  | .ceHalt _ _ _ => [.regs, .busErr, .ce]
  | .ceRun _ _ _ => [.regs, .busErr, .ce]
  | .ceRestart _ _ _ => [.regs, .busErr, .ce]
  | .ceWake _ => [.regs, .ce]
  | .ceDoorbell _ _ _ => [.regs, .busErr, .ce]
  | .ceTriggerSetWrite _ _ _ _ => [.regs, .busErr, .ce]
  | .ceDeadlineMiss _ => [.regs, .mem, .fresh, .clk, .cyc, .evl, .irqs, .pwm, .domains, .pllA, .pllB, .busErr, .mramW, .tbLatch,
      .ce, .fox, .conv, .badger, .gates, .scg, .osd, .kcp, .modes, .act, .pos, .ledger, .hk, .sc, .scc, .dma, .can, .canTm, .eth,
      .sup, .start]
  | .ceEscClear _ _ _ => [.regs, .busErr]
  | .cxMv _ => [.ce]
  | .cxVadd _ => [.ce]
  | .cxVsub _ => [.ce]
  | .cxVscl _ => [.ce]
  | .cxVld _ => [.regs, .irqs, .ce]
  | .cxMld _ => [.regs, .irqs, .ce]
  | .cxVst _ => [.regs, .mem, .fresh, .clk, .cyc, .evl, .irqs, .pwm, .domains, .pllA, .pllB, .busErr, .mramW, .tbLatch, .ce, .fox,
      .conv, .badger, .gates, .scg, .osd, .kcp, .modes, .act, .pos, .ledger, .hk, .sc, .scc, .dma, .can, .canTm, .eth, .sup,
      .start]
  | .cxVext _ => [.ce]
  | .cxVins _ => [.ce]
  | .cxSincos _ => [.fresh, .ce]
  | .cxRot _ => [.fresh, .ce]
  | .cxRsqrt _ => [.ce]
  | .cxFclmp _ => [.ce]
  | .cxSadd _ => [.ce]
  | .cxSsub _ => [.ce]
  | .cxSatn _ => [.ce]
  | .cxDuty _ => [.fresh, .ce]
  | .cxWait _ => [.regs, .mem, .ce]
  | .cxDone _ => [.regs, .ce]
  | .cxMbtake _ => [.ce, .kcp, .modes]
  | .cxLgrd _ => [.ce]
  | .cxLgwr _ => [.ce]
  | .cxWtime _ => [.ce]
  | .cxXwr _ => [.ce]
  | .cxXrd _ => [.ce]
  | .posRawTransition _ _ => [.regs, .evl, .irqs, .pos]
  | .posTminExpiry _ => [.regs, .evl, .irqs, .pos]
  | .pcmpPulseEnd _ => [.pos]
  | .posStandstill _ => [.regs, .evl, .pos]
  | .posCntWrite _ _ _ => [.regs, .busErr, .pos]
  | .posCmpRestart _ _ _ => [.regs, .busErr]
  | .sentFrame _ _ _ _ _ _ _ _ => [.regs, .fresh, .evl, .irqs, .ce, .pos]
  | .ssiTrigger _ _ => [.regs, .pos]
  | .ssiFrame _ _ _ => [.regs, .fresh, .evl, .irqs, .ce, .pos]
  | .posFrameTimeout _ => [.regs, .evl, .irqs, .pos]
  | .posgLock _ _ => [.regs, .busErr]
  | .resPeriodUpdate _ _ => [.regs, .fresh, .evl, .irqs, .pos]
  | .ledgerCycle => [.regs, .fresh, .ledger]
  | .ledgerPublish => [.regs, .ledger]
  | .lgcBatlimWrite _ _ => [.regs, .busErr, .ledger]
  | .battLimitTimeout => [.regs, .ledger]
  | .lgcLock _ _ => [.regs, .busErr]
  | .steerCompute => [.regs, .fresh, .ledger]
  | .actPrecheckEnd _ => [.regs, .kcp, .act]
  | .actDwellEnd _ => [.regs, .kcp, .act]
  | .actRelaxEnd _ => [.regs, .pwm, .kcp, .modes, .act]
  | .actSeqTimeout _ => [.regs, .pwm, .kcp, .modes, .act]
  | .actStall _ => [.regs, .pwm, .kcp, .modes, .act]
  | .actBusuv _ _ _ => [.regs, .pwm, .kcp, .modes, .act]
  | .sealRead _ _ _ _ _ _ => [.regs, .mem, .fresh, .cyc, .evl, .irqs, .pwm, .domains, .pllA, .busErr, .mramW, .tbLatch, .ce, .fox,
      .conv, .badger, .gates, .scg, .osd, .kcp, .modes, .act, .pos, .ledger, .hk, .sc, .scc, .dma, .can, .canTm, .eth, .sup,
      .start]
  | .badgerClockCheck => [.regs, .mem, .fresh, .clk, .cyc, .evl, .irqs, .pwm, .domains, .pllA, .pllB, .busErr, .mramW, .tbLatch,
      .ce, .fox, .conv, .badger, .gates, .scg, .osd, .kcp, .modes, .act, .pos, .ledger, .hk, .sc, .scc, .dma, .can, .canTm, .eth,
      .sup, .start]
  | .latchSelfCheck => [.regs, .mem, .fresh, .clk, .cyc, .evl, .irqs, .pwm, .domains, .pllA, .pllB, .busErr, .mramW, .tbLatch,
      .ce, .fox, .conv, .badger, .gates, .scg, .osd, .kcp, .modes, .act, .pos, .ledger, .hk, .sc, .scc, .dma, .can, .canTm, .eth,
      .sup, .start]
  | .hsmAck _ _ => [.regs, .mem, .fresh, .clk, .cyc, .evl, .irqs, .pwm, .domains, .pllA, .pllB, .busErr, .mramW, .tbLatch, .ce,
      .fox, .conv, .badger, .gates, .scg, .osd, .kcp, .modes, .act, .pos, .ledger, .hk, .sc, .scc, .dma, .can, .canTm, .eth, .sup,
      .start]
  | .sinAccept _ => [.regs, .mem, .fresh, .clk, .cyc, .evl, .irqs, .pwm, .domains, .pllA, .pllB, .busErr, .mramW, .tbLatch, .ce,
      .fox, .conv, .badger, .gates, .scg, .osd, .kcp, .modes, .act, .pos, .ledger, .hk, .sc, .scc, .dma, .can, .canTm, .eth, .sup,
      .start]
  | .sinDiscrepancy _ => [.regs, .mem, .fresh, .cyc, .evl, .irqs, .pwm, .domains, .pllA, .busErr, .mramW, .tbLatch, .ce, .fox,
      .conv, .badger, .gates, .scg, .osd, .kcp, .modes, .act, .pos, .ledger, .hk, .sc, .scc, .dma, .can, .canTm, .eth, .sup,
      .start]
  | .bspdEdge _ => [.regs, .badger]
  | .bspdSpeedTimeout _ => [.regs]
  | .bspdPlausibility _ => [.regs, .mem, .fresh, .clk, .cyc, .evl, .irqs, .pwm, .domains, .pllA, .pllB, .busErr, .mramW, .tbLatch,
      .ce, .fox, .conv, .badger, .gates, .scg, .osd, .kcp, .modes, .act, .pos, .ledger, .hk, .sc, .scc, .dma, .can, .canTm, .eth,
      .sup, .start]
  | .badgerEvaluation => [.regs, .mem, .fresh, .clk, .cyc, .evl, .irqs, .pwm, .domains, .pllA, .pllB, .busErr, .mramW, .tbLatch,
      .ce, .fox, .conv, .badger, .gates, .scg, .osd, .kcp, .modes, .act, .pos, .ledger, .hk, .sc, .scc, .dma, .can, .canTm, .eth,
      .sup, .start]
  | .ss1Timeout => [.regs, .mem, .fresh, .clk, .cyc, .evl, .irqs, .pwm, .domains, .pllA, .pllB, .busErr, .mramW, .tbLatch, .ce,
      .fox, .conv, .badger, .gates, .scg, .osd, .kcp, .modes, .act, .pos, .ledger, .hk, .sc, .scc, .dma, .can, .canTm, .eth, .sup,
      .start]
  | .hsmEnable _ _ => [.regs, .mem, .fresh, .clk, .cyc, .evl, .irqs, .pwm, .domains, .pllA, .pllB, .busErr, .mramW, .tbLatch, .ce,
      .fox, .conv, .badger, .gates, .scg, .osd, .kcp, .modes, .act, .pos, .ledger, .hk, .sc, .scc, .dma, .can, .canTm, .eth, .sup,
      .start]
  | .hsmRelease _ _ => [.regs, .mem, .fresh, .cyc, .evl, .irqs, .pwm, .domains, .pllA, .busErr, .mramW, .tbLatch, .ce, .fox,
      .conv, .badger, .gates, .scg, .osd, .kcp, .modes, .act, .pos, .ledger, .hk, .sc, .scc, .dma, .can, .canTm, .eth, .sup,
      .start]
  | .hsmSs1 _ => [.regs, .mem, .fresh, .clk, .cyc, .evl, .irqs, .pwm, .domains, .pllA, .pllB, .busErr, .mramW, .tbLatch, .ce,
      .fox, .conv, .badger, .gates, .scg, .osd, .kcp, .modes, .act, .pos, .ledger, .hk, .sc, .scc, .dma, .can, .canTm, .eth, .sup,
      .start]
  | .hsmSto _ => [.regs, .mem, .fresh, .clk, .cyc, .evl, .irqs, .pwm, .domains, .pllA, .pllB, .busErr, .mramW, .tbLatch, .ce,
      .fox, .conv, .badger, .gates, .scg, .osd, .kcp, .modes, .act, .pos, .ledger, .hk, .sc, .scc, .dma, .can, .canTm, .eth, .sup,
      .start]
  | .hsmRestart _ => [.regs, .mem, .fresh, .clk, .cyc, .evl, .irqs, .pwm, .domains, .pllA, .pllB, .busErr, .mramW, .tbLatch, .ce,
      .fox, .conv, .badger, .gates, .scg, .osd, .kcp, .modes, .act, .pos, .ledger, .hk, .sc, .scc, .dma, .can, .canTm, .eth, .sup,
      .start]
  | .wdQuestion _ => [.regs, .mem, .fresh, .clk, .cyc, .evl, .irqs, .pwm, .domains, .pllA, .pllB, .busErr, .mramW, .tbLatch, .ce,
      .fox, .conv, .badger, .gates, .scg, .osd, .kcp, .modes, .act, .pos, .ledger, .hk, .sc, .scc, .dma, .can, .canTm, .eth, .sup,
      .start]
  | .wdAnswer _ _ _ => [.regs, .mem, .fresh, .clk, .cyc, .evl, .irqs, .pwm, .domains, .pllA, .pllB, .busErr, .mramW, .tbLatch,
      .ce, .fox, .conv, .badger, .gates, .scg, .osd, .kcp, .modes, .act, .pos, .ledger, .hk, .sc, .scc, .dma, .can, .canTm, .eth,
      .sup, .start]
  | .stoReadback _ _ => [.regs, .mem, .fresh, .clk, .cyc, .evl, .irqs, .pwm, .domains, .pllA, .pllB, .busErr, .mramW, .tbLatch,
      .ce, .fox, .conv, .badger, .gates, .scg, .osd, .kcp, .modes, .act, .pos, .ledger, .hk, .sc, .scc, .dma, .can, .canTm, .eth,
      .sup, .start]
  | .scComparison _ _ => [.regs, .mem, .fresh, .clk, .cyc, .evl, .irqs, .pwm, .domains, .pllA, .pllB, .busErr, .mramW, .tbLatch,
      .ce, .fox, .conv, .badger, .gates, .scg, .osd, .kcp, .modes, .act, .pos, .ledger, .hk, .sc, .scc, .dma, .can, .canTm, .eth,
      .sup, .start]
  | .scResyncEnd _ => [.regs, .scc]
  | .scAmoCompare _ _ _ _ => [.regs, .mem, .fresh, .clk, .cyc, .evl, .irqs, .pwm, .domains, .pllA, .pllB, .busErr, .mramW,
      .tbLatch, .ce, .fox, .conv, .badger, .gates, .scg, .osd, .kcp, .modes, .act, .pos, .ledger, .hk, .sc, .scc, .dma, .can,
      .canTm, .eth, .sup, .start]
  | .scMemoryAccess _ _ _ _ _ _ => [.regs, .mem, .fresh, .clk, .cyc, .evl, .irqs, .pwm, .domains, .pllA, .pllB, .busErr, .mramW,
      .tbLatch, .ce, .fox, .conv, .badger, .gates, .scg, .osd, .kcp, .modes, .act, .pos, .ledger, .hk, .sc, .scc, .dma, .can,
      .canTm, .eth, .sup, .start]
  | .postedStoreError _ _ _ => [.regs, .evl, .busErr, .sc]
  | .scInterruptEntry _ _ _ _ _ _ _ _ _ _ => [.regs, .mem, .fresh, .clk, .cyc, .evl, .irqs, .pwm, .domains, .pllA, .pllB, .busErr,
      .mramW, .tbLatch, .ce, .fox, .conv, .badger, .gates, .scg, .osd, .kcp, .modes, .act, .pos, .ledger, .hk, .sc, .scc, .dma,
      .can, .canTm, .eth, .sup, .start]
  | .puLock _ _ _ => [.regs, .busErr]
  | .mramBlockWrite => [.mem, .mramW]
  | .sramScrub _ _ => [.regs, .clk, .evl]
  | .dmaStart _ _ _ => [.regs, .evl, .irqs, .busErr, .dma]
  | .dmaResume _ _ _ => [.regs, .evl, .irqs, .busErr, .dma]
  | .dmaAbort _ _ _ => [.regs, .evl, .irqs, .busErr, .dma]
  | .dmaRequest _ => [.regs, .dma]
  | .dmaBlock _ _ => [.regs, .mem, .fresh, .clk, .cyc, .evl, .irqs, .pwm, .domains, .pllA, .pllB, .busErr, .mramW, .tbLatch, .ce,
      .fox, .conv, .badger, .gates, .scg, .osd, .kcp, .modes, .act, .pos, .ledger, .hk, .sc, .scc, .dma, .can, .canTm, .eth, .sup,
      .start]
  | .stuLock _ _ => [.regs, .busErr]
  | .kcpFrameReceive _ _ _ => [.regs, .mem, .fresh, .evl, .pwm, .ce, .kcp, .modes, .act]
  | .kcpReassemblyTimeout _ => [.kcp]
  | .hspiWrite _ => [.regs, .mem, .fresh, .evl, .pwm, .ce, .kcp, .modes, .act]
  | .hspiRead _ => [.kcp]
  | .hspiStatus => [.kcp]
  | .openSession _ _ _ _ _ => [.regs, .fresh, .kcp]
  | .close _ => [.regs, .mem, .fresh, .clk, .cyc, .evl, .irqs, .pwm, .domains, .pllA, .pllB, .busErr, .mramW, .tbLatch, .ce, .fox,
      .conv, .badger, .gates, .scg, .osd, .kcp, .modes, .act, .pos, .ledger, .hk, .sc, .scc, .dma, .can, .canTm, .eth, .sup,
      .start]
  | .renew _ => [.regs, .mem, .fresh, .clk, .cyc, .evl, .irqs, .pwm, .domains, .pllA, .pllB, .busErr, .mramW, .tbLatch, .ce, .fox,
      .conv, .badger, .gates, .scg, .osd, .kcp, .modes, .act, .pos, .ledger, .hk, .sc, .scc, .dma, .can, .canTm, .eth, .sup,
      .start]
  | .leaseExpiry _ => [.regs, .mem, .pwm, .ce, .kcp, .modes, .act]
  | .kcpQueueDepart _ => [.regs, .mem, .fresh, .clk, .cyc, .evl, .irqs, .pwm, .domains, .pllA, .pllB, .busErr, .mramW, .tbLatch,
      .ce, .fox, .conv, .badger, .gates, .scg, .osd, .kcp, .modes, .act, .pos, .ledger, .hk, .sc, .scc, .dma, .can, .canTm, .eth,
      .sup, .start]
  | .kcpDeadlineExpiry _ _ => [.mem, .ce, .kcp]
  | .kcpNotify _ _ => [.fresh, .kcp]
  | .customerOpcode _ _ _ => [.regs, .mem, .fresh, .clk, .cyc, .evl, .irqs, .pwm, .domains, .pllA, .pllB, .busErr, .mramW,
      .tbLatch, .ce, .fox, .conv, .badger, .gates, .scg, .osd, .kcp, .modes, .act, .pos, .ledger, .hk, .sc, .scc, .dma, .can,
      .canTm, .eth, .sup, .start]
  | .mbxDone _ _ _ => [.regs, .busErr, .kcp]
  | .mbxTimeout _ _ => [.regs, .kcp]
  | .kcpLock _ _ => [.regs, .busErr]
  | .setptDrvA _ => [.regs, .mem, .fresh, .clk, .cyc, .evl, .irqs, .pwm, .domains, .pllA, .pllB, .busErr, .mramW, .tbLatch, .ce,
      .fox, .conv, .badger, .gates, .scg, .osd, .kcp, .modes, .act, .pos, .ledger, .hk, .sc, .scc, .dma, .can, .canTm, .eth, .sup,
      .start]
  | .setptDrvB _ => [.regs, .mem, .fresh, .clk, .cyc, .evl, .irqs, .pwm, .domains, .pllA, .pllB, .busErr, .mramW, .tbLatch, .ce,
      .fox, .conv, .badger, .gates, .scg, .osd, .kcp, .modes, .act, .pos, .ledger, .hk, .sc, .scc, .dma, .can, .canTm, .eth, .sup,
      .start]
  | .setptWhtA _ => [.regs, .mem, .fresh, .clk, .cyc, .evl, .irqs, .pwm, .domains, .pllA, .pllB, .busErr, .mramW, .tbLatch, .ce,
      .fox, .conv, .badger, .gates, .scg, .osd, .kcp, .modes, .act, .pos, .ledger, .hk, .sc, .scc, .dma, .can, .canTm, .eth, .sup,
      .start]
  | .setptWhtB _ => [.regs, .mem, .fresh, .clk, .cyc, .evl, .irqs, .pwm, .domains, .pllA, .pllB, .busErr, .mramW, .tbLatch, .ce,
      .fox, .conv, .badger, .gates, .scg, .osd, .kcp, .modes, .act, .pos, .ledger, .hk, .sc, .scc, .dma, .can, .canTm, .eth, .sup,
      .start]
  | .setptBch _ => [.regs, .mem, .fresh, .clk, .cyc, .evl, .irqs, .pwm, .domains, .pllA, .pllB, .busErr, .mramW, .tbLatch, .ce,
      .fox, .conv, .badger, .gates, .scg, .osd, .kcp, .modes, .act, .pos, .ledger, .hk, .sc, .scc, .dma, .can, .canTm, .eth, .sup,
      .start]
  | .setptChg _ => [.regs, .mem, .fresh, .clk, .cyc, .evl, .irqs, .pwm, .domains, .pllA, .pllB, .busErr, .mramW, .tbLatch, .ce,
      .fox, .conv, .badger, .gates, .scg, .osd, .kcp, .modes, .act, .pos, .ledger, .hk, .sc, .scc, .dma, .can, .canTm, .eth, .sup,
      .start]
  | .setptDcd _ => [.regs, .mem, .fresh, .clk, .cyc, .evl, .irqs, .pwm, .domains, .pllA, .pllB, .busErr, .mramW, .tbLatch, .ce,
      .fox, .conv, .badger, .gates, .scg, .osd, .kcp, .modes, .act, .pos, .ledger, .hk, .sc, .scc, .dma, .can, .canTm, .eth, .sup,
      .start]
  | .cfgWrite _ => [.regs, .mem, .fresh, .clk, .cyc, .evl, .irqs, .pwm, .domains, .pllA, .pllB, .busErr, .mramW, .tbLatch, .ce,
      .fox, .conv, .badger, .gates, .scg, .osd, .kcp, .modes, .act, .pos, .ledger, .hk, .sc, .scc, .dma, .can, .canTm, .eth, .sup,
      .start]
  | .cfgRead _ => [.regs, .mem, .fresh, .clk, .cyc, .evl, .irqs, .pwm, .domains, .pllA, .pllB, .busErr, .mramW, .tbLatch, .ce,
      .fox, .conv, .badger, .gates, .scg, .osd, .kcp, .modes, .act, .pos, .ledger, .hk, .sc, .scc, .dma, .can, .canTm, .eth, .sup,
      .start]
  | .policyWrite _ => [.regs, .mem, .fresh, .clk, .cyc, .evl, .irqs, .pwm, .domains, .pllA, .pllB, .busErr, .mramW, .tbLatch, .ce,
      .fox, .conv, .badger, .gates, .scg, .osd, .kcp, .modes, .act, .pos, .ledger, .hk, .sc, .scc, .dma, .can, .canTm, .eth, .sup,
      .start]
  | .policyRead _ => [.regs, .mem, .fresh, .clk, .cyc, .evl, .irqs, .pwm, .domains, .pllA, .pllB, .busErr, .mramW, .tbLatch, .ce,
      .fox, .conv, .badger, .gates, .scg, .osd, .kcp, .modes, .act, .pos, .ledger, .hk, .sc, .scc, .dma, .can, .canTm, .eth, .sup,
      .start]
  | .osdStart _ => [.regs, .mem, .fresh, .clk, .cyc, .evl, .irqs, .pwm, .domains, .pllA, .pllB, .busErr, .mramW, .tbLatch, .ce,
      .fox, .conv, .badger, .gates, .scg, .osd, .kcp, .modes, .act, .pos, .ledger, .hk, .sc, .scc, .dma, .can, .canTm, .eth, .sup,
      .start]
  | .osdResult _ => [.regs, .mem, .fresh, .clk, .cyc, .evl, .irqs, .pwm, .domains, .pllA, .pllB, .busErr, .mramW, .tbLatch, .ce,
      .fox, .conv, .badger, .gates, .scg, .osd, .kcp, .modes, .act, .pos, .ledger, .hk, .sc, .scc, .dma, .can, .canTm, .eth, .sup,
      .start]
  | .stageStatus _ => [.regs, .mem, .fresh, .clk, .cyc, .evl, .irqs, .pwm, .domains, .pllA, .pllB, .busErr, .mramW, .tbLatch, .ce,
      .fox, .conv, .badger, .gates, .scg, .osd, .kcp, .modes, .act, .pos, .ledger, .hk, .sc, .scc, .dma, .can, .canTm, .eth, .sup,
      .start]
  | .regRead _ => [.regs, .mem, .fresh, .clk, .cyc, .evl, .irqs, .pwm, .domains, .pllA, .pllB, .busErr, .mramW, .tbLatch, .ce,
      .fox, .conv, .badger, .gates, .scg, .osd, .kcp, .modes, .act, .pos, .ledger, .hk, .sc, .scc, .dma, .can, .canTm, .eth, .sup,
      .start]
  | .thermalStatus _ => [.regs, .mem, .fresh, .clk, .cyc, .evl, .irqs, .pwm, .domains, .pllA, .pllB, .busErr, .mramW, .tbLatch,
      .ce, .fox, .conv, .badger, .gates, .scg, .osd, .kcp, .modes, .act, .pos, .ledger, .hk, .sc, .scc, .dma, .can, .canTm, .eth,
      .sup, .start]
  | .safetyStatus _ => [.regs, .mem, .fresh, .clk, .cyc, .evl, .irqs, .pwm, .domains, .pllA, .pllB, .busErr, .mramW, .tbLatch,
      .ce, .fox, .conv, .badger, .gates, .scg, .osd, .kcp, .modes, .act, .pos, .ledger, .hk, .sc, .scc, .dma, .can, .canTm, .eth,
      .sup, .start]
  | .captureStart _ => [.regs, .mem, .fresh, .clk, .cyc, .evl, .irqs, .pwm, .domains, .pllA, .pllB, .busErr, .mramW, .tbLatch,
      .ce, .fox, .conv, .badger, .gates, .scg, .osd, .kcp, .modes, .act, .pos, .ledger, .hk, .sc, .scc, .dma, .can, .canTm, .eth,
      .sup, .start]
  | .captureComplete _ => [.mem, .conv, .kcp]
  | .captureRead _ => [.regs, .mem, .fresh, .clk, .cyc, .evl, .irqs, .pwm, .domains, .pllA, .pllB, .busErr, .mramW, .tbLatch, .ce,
      .fox, .conv, .badger, .gates, .scg, .osd, .kcp, .modes, .act, .pos, .ledger, .hk, .sc, .scc, .dma, .can, .canTm, .eth, .sup,
      .start]
  | .forceCold _ => [.regs, .mem, .fresh, .clk, .cyc, .evl, .irqs, .pwm, .domains, .pllA, .pllB, .busErr, .mramW, .tbLatch, .ce,
      .fox, .conv, .badger, .gates, .scg, .osd, .kcp, .modes, .act, .pos, .ledger, .hk, .sc, .scc, .dma, .can, .canTm, .eth, .sup,
      .start]
  | .actSeq _ => [.regs, .mem, .fresh, .clk, .cyc, .evl, .irqs, .pwm, .domains, .pllA, .pllB, .busErr, .mramW, .tbLatch, .ce,
      .fox, .conv, .badger, .gates, .scg, .osd, .kcp, .modes, .act, .pos, .ledger, .hk, .sc, .scc, .dma, .can, .canTm, .eth, .sup,
      .start]
  | .actAbort _ => [.regs, .mem, .fresh, .clk, .cyc, .evl, .irqs, .pwm, .domains, .pllA, .pllB, .busErr, .mramW, .tbLatch, .ce,
      .fox, .conv, .badger, .gates, .scg, .osd, .kcp, .modes, .act, .pos, .ledger, .hk, .sc, .scc, .dma, .can, .canTm, .eth, .sup,
      .start]
  | .actStatus _ => [.regs, .mem, .fresh, .clk, .cyc, .evl, .irqs, .pwm, .domains, .pllA, .pllB, .busErr, .mramW, .tbLatch, .ce,
      .fox, .conv, .badger, .gates, .scg, .osd, .kcp, .modes, .act, .pos, .ledger, .hk, .sc, .scc, .dma, .can, .canTm, .eth, .sup,
      .start]
  | .battLimits _ => [.regs, .mem, .fresh, .clk, .cyc, .evl, .irqs, .pwm, .domains, .pllA, .pllB, .busErr, .mramW, .tbLatch, .ce,
      .fox, .conv, .badger, .gates, .scg, .osd, .kcp, .modes, .act, .pos, .ledger, .hk, .sc, .scc, .dma, .can, .canTm, .eth, .sup,
      .start]
  | .chgStatus _ => [.regs, .mem, .fresh, .clk, .cyc, .evl, .irqs, .pwm, .domains, .pllA, .pllB, .busErr, .mramW, .tbLatch, .ce,
      .fox, .conv, .badger, .gates, .scg, .osd, .kcp, .modes, .act, .pos, .ledger, .hk, .sc, .scc, .dma, .can, .canTm, .eth, .sup,
      .start]
  | .logRead _ => [.regs, .mem, .fresh, .clk, .cyc, .evl, .irqs, .pwm, .domains, .pllA, .pllB, .busErr, .mramW, .tbLatch, .ce,
      .fox, .conv, .badger, .gates, .scg, .osd, .kcp, .modes, .act, .pos, .ledger, .hk, .sc, .scc, .dma, .can, .canTm, .eth, .sup,
      .start]
  | .fwBegin _ => [.regs, .mem, .fresh, .clk, .cyc, .evl, .irqs, .pwm, .domains, .pllA, .pllB, .busErr, .mramW, .tbLatch, .ce,
      .fox, .conv, .badger, .gates, .scg, .osd, .kcp, .modes, .act, .pos, .ledger, .hk, .sc, .scc, .dma, .can, .canTm, .eth, .sup,
      .start]
  | .fwData _ => [.regs, .mem, .fresh, .clk, .cyc, .evl, .irqs, .pwm, .domains, .pllA, .pllB, .busErr, .mramW, .tbLatch, .ce,
      .fox, .conv, .badger, .gates, .scg, .osd, .kcp, .modes, .act, .pos, .ledger, .hk, .sc, .scc, .dma, .can, .canTm, .eth, .sup,
      .start]
  | .fwEnd _ => [.regs, .mem, .fresh, .clk, .cyc, .evl, .irqs, .pwm, .domains, .pllA, .pllB, .busErr, .mramW, .tbLatch, .ce, .fox,
      .conv, .badger, .gates, .scg, .osd, .kcp, .modes, .act, .pos, .ledger, .hk, .sc, .scc, .dma, .can, .canTm, .eth, .sup,
      .start]
  | .fwVerifyDone _ _ _ _ => [.kcp, .start]
  | .fwSelect _ => [.regs, .mem, .fresh, .clk, .cyc, .evl, .irqs, .pwm, .domains, .pllA, .pllB, .busErr, .mramW, .tbLatch, .ce,
      .fox, .conv, .badger, .gates, .scg, .osd, .kcp, .modes, .act, .pos, .ledger, .hk, .sc, .scc, .dma, .can, .canTm, .eth, .sup,
      .start]
  | .fwInfo _ => [.regs, .mem, .fresh, .clk, .cyc, .evl, .irqs, .pwm, .domains, .pllA, .pllB, .busErr, .mramW, .tbLatch, .ce,
      .fox, .conv, .badger, .gates, .scg, .osd, .kcp, .modes, .act, .pos, .ledger, .hk, .sc, .scc, .dma, .can, .canTm, .eth, .sup,
      .start]
  | .timeGet _ => [.regs, .mem, .fresh, .clk, .cyc, .evl, .irqs, .pwm, .domains, .pllA, .pllB, .busErr, .mramW, .tbLatch, .ce,
      .fox, .conv, .badger, .gates, .scg, .osd, .kcp, .modes, .act, .pos, .ledger, .hk, .sc, .scc, .dma, .can, .canTm, .eth, .sup,
      .start]
  | .timeDisc _ => [.regs, .mem, .fresh, .clk, .cyc, .evl, .irqs, .pwm, .domains, .pllA, .pllB, .busErr, .mramW, .tbLatch, .ce,
      .fox, .conv, .badger, .gates, .scg, .osd, .kcp, .modes, .act, .pos, .ledger, .hk, .sc, .scc, .dma, .can, .canTm, .eth, .sup,
      .start]
  | .timeMaster _ => [.regs, .mem, .fresh, .clk, .cyc, .evl, .irqs, .pwm, .domains, .pllA, .pllB, .busErr, .mramW, .tbLatch, .ce,
      .fox, .conv, .badger, .gates, .scg, .osd, .kcp, .modes, .act, .pos, .ledger, .hk, .sc, .scc, .dma, .can, .canTm, .eth, .sup,
      .start]
  | .canInitSet _ _ _ _ => [.regs, .irqs, .busErr, .can]
  | .canInitClear _ _ _ => [.regs, .irqs, .busErr, .can]
  | .canBusIntegration _ => [.can]
  | .canFrameReceive _ _ _ => [.regs, .mem, .fresh, .evl, .irqs, .pwm, .ce, .kcp, .modes, .act, .can]
  | .canRxfGet _ _ _ _ => [.regs, .busErr, .can]
  | .canRxdmaRead _ _ => [.regs, .fresh, .busErr, .can]
  | .canTxdmaWrite _ _ _ _ => [.regs, .mem, .fresh, .irqs, .busErr, .can]
  | .canTxreq _ _ _ _ => [.regs, .irqs, .busErr, .can]
  | .canTxcncl _ _ _ _ => [.regs, .irqs, .busErr, .can]
  | .canTxEnd _ _ _ _ => [.regs, .fresh, .irqs, .can, .canTm]
  | .canRecover _ _ _ => [.regs, .irqs, .busErr, .can]
  | .canBusoffRecovered _ => [.regs, .fresh, .irqs, .can]
  | .canOpmodeChange _ => [.can]
  | .canTimeReference _ => [.regs, .can, .canTm]
  | .ethLinkChange _ _ _ => [.regs]
  | .ethFrameReceive _ _ _ _ => [.regs, .mem, .fresh, .evl, .pwm, .ce, .kcp, .modes, .act, .eth]
  | .ethAppTransmit _ => [.regs, .eth]
  | .ethAddressAgeout _ => [.eth]
  | .t1sTransmitOpportunity _ => [.eth]
  | .gptpMessage _ _ => [.regs, .fresh, .eth]
  | .ethLock _ _ => [.regs, .busErr]
  | .aslOpen _ _ _ _ => [.mem, .fresh, .asl]
  | .aslServicePass _ _ _ => [.regs, .mem, .fresh, .clk, .cyc, .evl, .irqs, .pwm, .domains, .pllA, .pllB, .busErr, .mramW,
      .tbLatch, .ce, .fox, .conv, .badger, .gates, .scg, .osd, .kcp, .modes, .act, .pos, .ledger, .hk, .sc, .scc, .dma, .can,
      .canTm, .eth, .asl, .sup, .start]
  | .vmainLoss _ _ => [.regs, .mem, .fresh, .clk, .cyc, .evl, .irqs, .pwm, .domains, .pllA, .pllB, .busErr, .mramW, .tbLatch, .ce,
      .fox, .conv, .badger, .gates, .scg, .osd, .kcp, .modes, .act, .pos, .ledger, .hk, .sc, .scc, .dma, .can, .canTm, .eth, .sup,
      .start]
  | .switchOverComplete => [.regs, .fresh, .evl, .irqs, .sup]
  | .vmainReturn _ _ => [.regs, .evl, .irqs, .sup]
  | .flybackStart _ => [.regs, .sup]
  | .flybackReady => [.regs]
  | .flybackDrop _ _ => [.regs, .mem, .fresh, .clk, .cyc, .evl, .irqs, .pwm, .domains, .pllA, .pllB, .busErr, .mramW, .tbLatch,
      .ce, .fox, .conv, .badger, .gates, .scg, .osd, .kcp, .modes, .act, .pos, .ledger, .hk, .sc, .scc, .dma, .can, .canTm, .eth,
      .sup, .start]
  | .collapseSwitchOff => [.regs, .mem, .cyc, .evl, .pwm, .domains, .pllA, .busErr, .mramW, .tbLatch, .ce, .fox, .conv, .badger,
      .gates, .scg, .osd, .kcp, .modes, .act, .pos, .ledger, .hk, .sc, .scc, .dma, .can, .canTm, .eth, .sup, .start]
  | .supLock _ _ => [.regs, .mem, .fresh, .clk, .cyc, .evl, .irqs, .pwm, .domains, .pllA, .pllB, .busErr, .mramW, .tbLatch, .ce,
      .fox, .conv, .badger, .gates, .scg, .osd, .kcp, .modes, .act, .pos, .ledger, .hk, .sc, .scc, .dma, .can, .canTm, .eth, .sup,
      .start]
  | .pdcReqWrite _ _ => [.regs, .mem, .fresh, .clk, .cyc, .evl, .irqs, .pwm, .domains, .pllA, .pllB, .busErr, .mramW, .tbLatch,
      .ce, .fox, .conv, .badger, .gates, .scg, .osd, .kcp, .modes, .act, .pos, .ledger, .hk, .sc, .scc, .dma, .can, .canTm, .eth,
      .sup, .start]
  | .supStby _ _ => [.regs, .mem, .cyc, .evl, .pwm, .domains, .pllA, .busErr, .mramW, .tbLatch, .ce, .fox, .conv, .badger, .gates,
      .scg, .osd, .kcp, .modes, .act, .pos, .ledger, .hk, .sc, .scc, .dma, .can, .canTm, .eth, .sup, .start]
  | .wakePad _ => [.regs, .sup, .start]
  | .wakeTimer => [.regs, .sup, .start]
  | .wakePlug => [.regs, .sup, .start]
  | .wakeCan _ => [.regs, .sup, .start]
  | .powerCycle => [.regs, .mem, .cyc, .evl, .irqs, .pwm, .domains, .pllA, .pllB, .busErr, .mramW, .tbLatch, .ce, .fox, .conv,
      .badger, .marten, .gates, .scg, .osd, .kcp, .modes, .act, .pos, .ledger, .hk, .sc, .scc, .dma, .can, .canTm, .eth, .asl,
      .sup, .start]
  | .syscRstCold _ _ => [.regs, .busErr, .start]
  | .syscRstWarm _ _ => [.regs, .busErr, .start]
  | .hkHeartbeatLoss => [.start]
  | .startBegin _ => [.regs, .mem, .cyc, .evl, .pwm, .domains, .pllA, .busErr, .mramW, .tbLatch, .ce, .fox, .conv, .badger,
      .gates, .scg, .osd, .kcp, .modes, .act, .pos, .ledger, .hk, .sc, .scc, .dma, .can, .canTm, .eth, .sup, .start]
  | .startStep _ _ => [.regs, .mem, .fresh, .clk, .cyc, .evl, .irqs, .pwm, .domains, .pllA, .pllB, .busErr, .mramW, .tbLatch, .ce,
      .fox, .conv, .badger, .gates, .scg, .osd, .kcp, .modes, .act, .pos, .ledger, .hk, .sc, .scc, .dma, .can, .canTm, .eth, .asl,
      .sup, .start]
  | .startTimeout => [.regs, .mem, .cyc, .evl, .pwm, .domains, .pllA, .busErr, .mramW, .tbLatch, .ce, .fox, .conv, .badger,
      .gates, .scg, .osd, .kcp, .modes, .act, .pos, .ledger, .hk, .sc, .scc, .dma, .can, .canTm, .eth, .sup, .start]
  | .startRetry => [.regs, .mem, .cyc, .evl, .pwm, .domains, .pllA, .busErr, .mramW, .tbLatch, .ce, .fox, .conv, .badger, .gates,
      .scg, .osd, .kcp, .modes, .act, .pos, .ledger, .hk, .sc, .scc, .dma, .can, .canTm, .eth, .sup, .start]
  | .lifecycleUnlock _ => [.regs, .mem, .mramW, .kcp, .start]
  | .debugHalt _ _ => [.regs, .sc, .scc]
  | .thermalShutdownSwitchoff => [.regs, .mem, .cyc, .evl, .pwm, .domains, .pllA, .busErr, .mramW, .tbLatch, .ce, .fox, .conv,
      .badger, .gates, .scg, .osd, .kcp, .modes, .act, .pos, .ledger, .hk, .sc, .scc, .dma, .can, .canTm, .eth, .sup, .start]
  | .thmLock _ _ => [.regs, .busErr]
  | .t1sFrameReceive _ _ => [.regs, .mem, .fresh, .evl, .pwm, .ce, .kcp, .modes, .act, .eth]
  | .canReceiveError _ _ => [.regs, .fresh, .irqs, .can]
  | .vmainUsable _ => [.regs, .sup]
  | .vhvOvervoltage _ => [.regs, .mem, .fresh, .clk, .cyc, .evl, .irqs, .pwm, .domains, .pllA, .pllB, .busErr, .mramW, .tbLatch,
      .ce, .fox, .conv, .badger, .gates, .scg, .osd, .kcp, .modes, .act, .pos, .ledger, .hk, .sc, .scc, .dma, .can, .canTm, .eth,
      .sup, .start]
  | .wmEnable _ _ _ => [.regs, .evl, .irqs, .busErr, .fox]
  | .sinPadChange _ _ => [.badger]
  | .bspdPadChange _ _ => [.badger]
  | .adcClockReturn => [.regs]

end Sys2Proof.Machine
end

