-- ==== Sys2Proof/Safety.lean ====
section
/-! DEFINITION. What counts as a safe state, and the conditions that the statements speak of. -/

namespace Sys2Proof.Machine

/-- 24 lanes, 64 window units and 4 capture FIFOs (R155, R165, R174); the result queue holds at most 64 records (R173). -/
def Conv.Shaped (c : Conv) : Prop :=
  c.lanes.length = 24 ∧ c.wu.length = 64 ∧ c.caps.length = 4 ∧ c.rq.length ≤ 64

/-- 8 SIN pads in 4 pairs, 4 BSPD inputs of 2 motors, 4 groups, 8 watchdogs (R278–R306). -/
def Badger.Shaped (b : Badger) : Prop :=
  b.padAt.length = 8 ∧ b.disc.length = 4 ∧ b.bspd.length = 4 ∧ b.plaus.length = 2 ∧ b.fd.length = 2 ∧ b.excess.length = 2 ∧
  b.removedAt.length = 4 ∧ b.wd.length = 8

/-- 8 position channels, 4 SENT receivers, 2 SSI masters, 2 resolver channels (R215–R237). -/
def PosBlk.Shaped (p : PosBlk) : Prop := p.ch.length = 8 ∧ p.cal.length = 4 ∧ p.ssi.length = 2 ∧ p.res.length = 2

/-- 32 channels (R342). -/
def Dma.Shaped (d : Dma) : Prop := d.ch.length = 32

/-- 12 mode instances (R35). -/
def Modes.Shaped (m : Modes) : Prop := m.owner.length = 12 ∧ m.fed.length = 12

/-- 4 class queues, C2–C5 (R363). -/
def Kcp.Shaped (k : Kcp) : Prop := k.queues.length = 4

/-- 8 ledger entries (R252). -/
def Ledger.Shaped (l : Ledger) : Prop := l.phi.length = 8

/-- 2 image banks (R467). -/
def Start.Shaped (x : Start) : Prop := x.banks.length = 2

/-- Every block has as many instances as the spec gives it. -/
structure State.Shaped (s : State) : Prop where
  pwm : s.pwm.length = 32
  ce : s.ce.length = 8
  gates : s.gates.length = 64
  scg : s.scg.length = 8
  act : s.act.length = 3
  sc : s.sc.length = 12
  scc : s.scc.length = 4
  can : s.can.length = 4
  conv : s.conv.Shaped
  badger : s.badger.Shaped
  pos : s.pos.Shaped
  dma : s.dma.Shaped
  modes : s.modes.Shaped
  kcp : s.kcp.Shaped
  ledger : s.ledger.Shaped
  start : s.start.Shaped

/-- Memory and the register list are in their canonical forms, the event log's queue holds at most 64 entries (R75), and every
block has its instances. -/
structure State.Inv (s : State) : Prop where
  mem : Memory.wf s.mem = true
  regs : keysRiseFrom none s.regs = true
  queue : s.evl.queue.length ≤ 64
  shape : s.Shaped

/-- An interrupt that becomes pending in the present tick. -/
def State.irqNow (s : State) (t : IrqTo) (src ev : Nat) : Irq := ⟨t, src, ev, s.now - s.cyc % 4⟩

/-- A write of an initiator to the register at a reaches the register's block: both clocks run, and the access ends in no bus
error (R18, R25, R26, R61). -/
abbrev State.Reaches (s : State) (ini : Initiator) (a : Nat) : Prop := s.answers ini a = true ∧ s.busOk ini a true = true

/-- A write of an initiator takes effect in PWM module k: it reaches the module, no rule discards it, and the initiator owns the
module (R24, R205, R206). -/
abbrev State.Owns (s : State) (ini : Initiator) (k a : Nat) : Prop :=
  s.Reaches ini a ∧ s.ceStoreDiscard ini = false ∧ s.pwmMayWrite ini k = true

/-- Between s and t no register changes but those at the addresses as, and nothing else changes. -/
abbrev State.OnlyRegs (s t : State) (as : List Nat) : Prop :=
  t = { s with regs := t.regs } ∧ ∀ r : Reg, r.addr ∉ as → t.rd r = s.rd r

/-- An instruction word of the R format. -/
def rWord (op f3 f7 rd r1 r2 : Nat) : Nat := op + 2 ^ 7 * rd + 2 ^ 12 * f3 + 2 ^ 15 * r1 + 2 ^ 20 * r2 + 2 ^ 25 * f7

/-- Control engine n executes the instruction word w, which lies at its PC in its own memory. -/
abbrev State.At (s : State) (n : Fin 8) (w : Nat) : Prop :=
  s.ce.length = 8 ∧ s.ceRuns n.val = true ∧ s.ceFetch n.val = some w

/-- A sequence that the window of R362 admits: ahead of the highest, or one of the window not recorded yet. -/
abbrev newSeq (x : Ctx) (seq : Nat) : Prop :=
  (1 ≤ seqDist x.h seq ∧ seqDist x.h seq ≤ 32767) ∨
  ((seqDist x.h seq = 0 ∨ 65473 ≤ seqDist x.h seq) ∧ lookupKey seq x.seen = none)

/-- The highest sequence of the window once seq has been admitted (R362). -/
def newH (x : Ctx) (seq : Nat) : Nat := if 1 ≤ seqDist x.h seq ∧ seqDist x.h seq ≤ 32767 then seq else x.h

/-- KP runs, and the session of q is open and within its lease (R355–R358). -/
abbrev State.Live (s : State) (q : Req) (x : Ctx) : Prop :=
  s.kpRuns = true ∧ s.ctxOf q.ctx.val = some x ∧ x.live = true ∧ x.gen < 256 ∧ s.tick < x.expiry

/-- KP runs, and the session of q is open, within its lease, and granted the class; q's sequence is new (R355–R363, R378). -/
abbrev State.Open (s : State) (op cls : Nat) (q : Req) (x : Ctx) : Prop :=
  s.Live q x ∧ newSeq x q.seq.toNat ∧ bitOf cls x.classes = true ∧
  (opKeyed op = true → x.slot ≠ 0xF) ∧ (s.is SYSC_BOOT_RECOV = true → opRecovery op = true)

/-- KP runs, and the session of q is open, within its lease, and granted the class; q's sequence is new, its payload passes its
checks, a keyed opcode has a keyed session, and no request waits in the class queue (R355–R368, R372, R378). -/
abbrev State.Ready (s : State) (op cls : Nat) (q : Req) (x : Ctx) : Prop :=
  s.Live q x ∧ newSeq x q.seq.toNat ∧ bitOf cls x.classes = true ∧
  (opKeyed op = true → x.slot ≠ 0xF) ∧ (s.is SYSC_BOOT_RECOV = true → opRecovery op = true) ∧ s.checkParams op q.pay = none ∧ s.queueOf cls = []

/-- The request of q in its session, as it leaves its queue at once. -/
def State.tokOf (s : State) (op cls : Nat) (q : Req) (x : Ctx) : Tok :=
  { Sys2Proof.Machine.tokOf q.ctx.val x op q.seq.toNat cls with left := s.tick }

/-- The state in which the request of q has been admitted: its sequence is marked seen, the lease renewed, and its arrival
logged. -/
def State.admitted (s : State) (q : Req) (x : Ctx) : State :=
  let s := s.markSeen q.ctx.val (newH x q.seq.toNat) q.seq.toNat x
  (s.log 10 q.ctx.val (s.freeNat % 256)).useFree

/-- The state in which the request of q has been admitted and has left its class queue. -/
def State.afterAdmission (s : State) (cls : Nat) (q : Req) (x : Ctx) : State := (s.admitted q x).setQueue cls []

/-- The frames of the reply to the request of q, with its status and fields (R351–R353, R374). -/
def replyOf (op cls : Nat) (q : Req) (x : Ctx) (st : Nat) (fields : List Byte) : List (List Byte) :=
  let pay := beBytes 2 st ++ fields
  frames x.tport x.ks ⟨q.ctx.val * 256 + x.gen, op ||| 0x8000, q.seq.toNat, cls, x.restored, false, true, pay.length⟩ (pay.length + 1) 0 pay

/-- The reply to the request of q as a session sends it from state s: the first message after a warm start carries RESTORED
(R360). -/
def State.replyTo (s : State) (op cls : Nat) (q : Req) (x : Ctx) (st : Nat) (fields : List Byte) : List (List Byte) :=
  replyOf op cls q { x with restored := ((s.ctxOf q.ctx.val).filter (fun (y : Ctx) => y.gen == x.gen)).any (fun (y : Ctx) => y.restored) } st
    fields

/-- The state in which a mode request of q is evaluated: admitted, and what is due in its tick applied (R39). -/
def State.atMode (s : State) (q : Req) (x : Ctx) : State := (s.afterAdmission 2 q x).dueFirst

/-- The commands that are requests of a session, with their opcode and class (R363, R377, R383). -/
def requestOf (i : Instr) : Option (Nat × Nat × Req) :=
  match i with
  | .modeEnter q => some (0x0201, 2, q)
  | .modeExit q => some (0x0202, 2, q)
  | .modeStatus q => some (0x0203, 4, q)
  | .setptDrvA q => some (0x0301, 1, q)
  | .setptDrvB q => some (0x0302, 1, q)
  | .setptWhtA q => some (0x0303, 1, q)
  | .setptWhtB q => some (0x0304, 1, q)
  | .setptBch q => some (0x0305, 1, q)
  | .setptChg q => some (0x0306, 1, q)
  | .setptDcd q => some (0x0307, 1, q)
  | .cfgWrite q => some (0x0401, 3, q)
  | .cfgRead q => some (0x0402, 3, q)
  | .policyWrite q => some (0x0403, 3, q)
  | .policyRead q => some (0x0404, 3, q)
  | .osdStart q => some (0x0501, 4, q)
  | .osdResult q => some (0x0502, 4, q)
  | .stageStatus q => some (0x0503, 4, q)
  | .regRead q => some (0x0504, 4, q)
  | .thermalStatus q => some (0x0505, 4, q)
  | .safetyStatus q => some (0x0506, 4, q)
  | .captureStart q => some (0x0507, 4, q)
  | .captureRead q => some (0x0508, 5, q)
  | .forceCold q => some (0x0509, 4, q)
  | .actSeq q => some (0x0601, 2, q)
  | .actAbort q => some (0x0602, 2, q)
  | .actStatus q => some (0x0603, 4, q)
  | .battLimits q => some (0x0701, 2, q)
  | .chgStatus q => some (0x0702, 4, q)
  | .logRead q => some (0x0801, 5, q)
  | .fwBegin q => some (0x0901, 5, q)
  | .fwData q => some (0x0902, 5, q)
  | .fwEnd q => some (0x0903, 5, q)
  | .fwSelect q => some (0x0904, 5, q)
  | .fwInfo q => some (0x0905, 4, q)
  | .timeGet q => some (0x0A01, 4, q)
  | .timeDisc q => some (0x0A02, 3, q)
  | .timeMaster q => some (0x0A03, 3, q)
  | .close q => some (0x0102, 0, q)
  | .renew q => some (0x0103, 0, q)
  | .customerOpcode op cls q => some (0xF000 + op.val, cls.val, q)
  | _ => none

/-- Between s and t exactly the frames l have been handed to a transport for a peer: HSPI's queue is transport 11. -/
abbrev State.SendsTo (s t : State) (tport peer : Nat) (l : List (List Byte)) : Prop :=
  t.kcp.out = s.kcp.out ++ (if tport = 11 then [] else l.map (fun f => ⟨tport, peer, f⟩)) ∧
  t.kcp.hspi = s.kcp.hspi ++ (if tport = 11 then l else [])

/-- Between s and t exactly the frames l have been handed to the transport of x. -/
abbrev State.Sends (s t : State) (x : Ctx) (l : List (List Byte)) : Prop := s.SendsTo t x.tport x.peer l

/-- The one frame of an answer without a tag: a status and its fields. -/
def plainOf (tport handle op seq cls st : Nat) (fields : List Byte) : List (List Byte) :=
  let pay := beBytes 2 st ++ fields
  frames tport none ⟨handle, op ||| 0x8000, seq, cls, false, false, true, pay.length⟩ (pay.length + 1) 0 pay

/-- Fewer than 1,000 untagged answers have left on a transport in the last second (R361). -/
abbrev State.mayAnswer (s : State) (tport : Nat) : Prop :=
  ((s.kcp.untag.filter (fun (e : Nat × Nat) => decide (s.tick < e.2 + 100000000))).filter (fun (e : Nat × Nat) => e.1 == tport)).length < 1000

/-- Between s and t an untagged answer has left, or has been counted as dropped (R361). -/
abbrev State.Untagged (s t : State) (tport peer : Nat) (l : List (List Byte)) : Prop :=
  (s.mayAnswer tport → s.SendsTo t tport peer l) ∧
  (¬ s.mayAnswer tport → t.kcp.out = s.kcp.out ∧ t.kcp.hspi = s.kcp.hspi ∧ t.get KCP_ERR1_DROP = min (s.get KCP_ERR1_DROP + 1) 65535)

end Sys2Proof.Machine
end

