-- ==== Sys2Proof/Certificates/Slice0/Obligations.lean ====
section
/-! DEFINITION. The statements about the VX8800: what resets, steps and commands do, by the rules of the spec. -/

section

open Sys2Proof Sys2Proof.Machine

/-- Step takes the command at the front of the queue and is exec of it on the state with the rest of the queue (the block's own
queue, log entry 131). -/
def Obligations.StepTakesTheFrontCommand : Prop :=
  ∀ (s : State) (c : Sys2Proof.Instr) (rest : List Sys2Proof.Instr),
     s.pending = c :: rest →
     step s = exec c { s with pending := rest }

/-- With no command waiting, step answers a next state one instant of 2.5 ns later, with the queue and the order code as they were
(the model's choice, log entry 3). In it the control clock makes one cycle where D6 is on and PLL-B is locked, and nothing of
it otherwise; a Marten cycle passes at the latest after 12,716 instants and none before 11,736, and no Badger tick before 381,
as the accuracy of their RC clocks says (R61, R63). -/
def Obligations.EmptyQueueLetsAnInstantPass : Prop :=
  (∀ (s : State),
     s.pending = [] →
     ∃ t, step s = .next t ∧
       t.pending = [] ∧
       t.order = s.order ∧
       t.clk.now = s.clk.now + 1) ∧
  (∀ (s : State),
     s.ticking = true →
     s.controlCycle.cyc = s.cyc + 1) ∧
  (∀ (s : State),
     s.isOn 6 = false ∨ s.pllB = false →
     s.controlCycle = s) ∧
  (∀ (s : State),
     s.clk.martenAt + 12716 ≤ s.now →
     s.martenClock.marten = s.marten + 1 ∧ s.martenClock.clk.martenAt = s.now) ∧
  (∀ (s : State),
     s.now < s.clk.martenAt + 11736 →
     s.martenClock = s.useFree) ∧
  (∀ (s : State),
     s.isOn 2 = false ∨ s.now < s.clk.badgerAt + 381 →
     s.badgerClock = s.useFree)

/-- At reset the memory and the register list are canonical, the event log's queue is within its bound, and every block has its
instances. -/
def Obligations.ResetHasTheInvariant : Prop :=
  State.reset.Inv

/-- From every state in which memory and the register list are canonical, the event queue holds at most 64 entries (R75), the
result queue at most 64 records (R173) and every block has its instances, a step that answers a next state answers one with
the same properties. -/
def Obligations.EveryStepKeepsTheInvariant : Prop :=
  ∀ (s : State) (t : State),
     s.Inv →
     step s = .next t →
     t.Inv

/-- For every command and state, the next state agrees with the state before it in every part of State that partsOf does not list
for the command: memory, the engines, the blocks and their hidden state. Every command in every state answers a next state,
whose queue of waiting commands and order code are those of the state before it. -/
def Obligations.CommandsLeaveOtherPartsAlone : Prop :=
  (∀ (s : State) (c : Sys2Proof.Instr) (p : Part),
     p ∉ partsOf c →
     ∃ t, exec c s = .next t ∧ p.same s t) ∧
  (∀ (s : State) (c : Sys2Proof.Instr),
     ∃ t, exec c s = .next t ∧ t.pending = s.pending ∧ t.order = s.order)

/-- At a zero boundary of a running module PRD, DT, MINPW and PHASE take effect, and CMPA to CMPD do unless the module counts up
and down with LOADMODE = PEAK; at a peak boundary CMPA to CMPD take effect where LOADMODE is PEAK or BOTH. With CMTREQ = 1
that needs a pending commit, which is consumed; without one only what an earlier commit still owes transfers at a zero
boundary, and nothing at a peak boundary. At the boundary that starts a module all eight take effect. In a cycle that is no
boundary the two events do nothing (R78, R87, R89, R90). An owner's write to one of the eight shadowed registers of a PWM
module puts the written bits into the shadow. Outside a boundary cycle it leaves the value in effect of every shadowed
register of the module as it was. In a zero boundary cycle of a module that runs, with CMTREQ = 0, the registers that transfer
there take the shadows from before the write, and the late write sets LATE_WR (R87, R88). -/
def Obligations.ShadowWritesWaitForTheirBoundary : Prop :=
  (∀ (s : State) (k : Fin 32),
     s.ticking = true →
     s.pwm.length = 32 →
     s.pwmAtZero k.val = true →
     (s.pwmOf k.val).lastZero ≠ some s.cyc →
     (s.pwmOf k.val).start = false →
     s.is (PWM_CTRL_CMTREQ k.val) = false →
     ∃ t, exec (.pwmZeroBoundary k) s = .next t ∧
       (t.pwmOf k.val).lastZero = some s.cyc ∧
       (∀ j : Fin 8, t.rd (pwmInEffect k.val j.val) = (if j ∈ ([0, 5, 6, 7] : List (Fin 8)) ∨ s.is (PWM_CTRL_CNTMODE k.val) = false ∨ s.get (PWM_CTRL_LOADMODE k.val) ≠ 1 then s.rd (pwmShadow k.val j.val) else s.rd (pwmInEffect k.val j.val)))) ∧
  (∀ (s : State) (k : Fin 32),
     s.ticking = true →
     s.pwm.length = 32 →
     s.pwmAtZero k.val = true →
     (s.pwmOf k.val).lastZero ≠ some s.cyc →
     (s.pwmOf k.val).start = true →
     ∃ t, exec (.pwmZeroBoundary k) s = .next t ∧
       (t.pwmOf k.val).lastZero = some s.cyc ∧
       (t.pwmOf k.val).start = false ∧
       t.is (PWM_STATUS_CMTPEND k.val) = false ∧
       (∀ j : Fin 8, t.rd (pwmInEffect k.val j.val) = (if True then s.rd (pwmShadow k.val j.val) else s.rd (pwmInEffect k.val j.val)))) ∧
  (∀ (s : State) (k : Fin 32),
     s.ticking = true →
     s.pwm.length = 32 →
     s.pwmAtZero k.val = true →
     (s.pwmOf k.val).lastZero ≠ some s.cyc →
     (s.pwmOf k.val).start = false →
     s.is (PWM_CTRL_CMTREQ k.val) = true →
     s.is (PWM_STATUS_CMTPEND k.val) = true →
     ∃ t, exec (.pwmZeroBoundary k) s = .next t ∧
       (t.pwmOf k.val).lastZero = some s.cyc ∧
       t.is (PWM_STATUS_CMTPEND k.val) = false ∧
       (∀ j : Fin 8, t.rd (pwmInEffect k.val j.val) = (if j ∈ ([0, 5, 6, 7] : List (Fin 8)) ∨ s.is (PWM_CTRL_CNTMODE k.val) = false ∨ s.get (PWM_CTRL_LOADMODE k.val) ≠ 1 then s.rd (pwmShadow k.val j.val) else s.rd (pwmInEffect k.val j.val)))) ∧
  (∀ (s : State) (k : Fin 32),
     s.ticking = true →
     s.pwm.length = 32 →
     s.pwmAtZero k.val = true →
     (s.pwmOf k.val).lastZero ≠ some s.cyc →
     (s.pwmOf k.val).start = false →
     s.is (PWM_CTRL_CMTREQ k.val) = true →
     s.is (PWM_STATUS_CMTPEND k.val) = false →
     ∃ t, exec (.pwmZeroBoundary k) s = .next t ∧
       (t.pwmOf k.val).lastZero = some s.cyc ∧
       (t.pwmOf k.val).owed = 0 ∧
       (∀ j : Fin 8, t.rd (pwmInEffect k.val j.val) = (if owedBit j.val &&& (s.pwmOf k.val).owed ≠ 0 then s.rd (pwmShadow k.val j.val) else s.rd (pwmInEffect k.val j.val)))) ∧
  (∀ (s : State) (k : Fin 32),
     s.pwmAtZero k.val = false ∨ s.ticking = false →
     ∃ t, exec (.pwmZeroBoundary k) s = .next t ∧
       t = s) ∧
  (∀ (s : State) (k : Fin 32),
     s.ticking = true →
     s.pwm.length = 32 →
     s.pwmAtPeak k.val = true →
     (s.pwmOf k.val).lastPeak ≠ some s.cyc →
     s.is (PWM_CTRL_CMTREQ k.val) = false →
     ∃ t, exec (.pwmPeakBoundary k) s = .next t ∧
       (t.pwmOf k.val).lastPeak = some s.cyc ∧
       (∀ j : Fin 8, t.rd (pwmInEffect k.val j.val) = (if j ∈ ([1, 2, 3, 4] : List (Fin 8)) ∧ (s.get (PWM_CTRL_LOADMODE k.val) = 1 ∨ s.get (PWM_CTRL_LOADMODE k.val) = 2) then s.rd (pwmShadow k.val j.val) else s.rd (pwmInEffect k.val j.val)))) ∧
  (∀ (s : State) (k : Fin 32),
     s.ticking = true →
     s.pwm.length = 32 →
     s.pwmAtPeak k.val = true →
     (s.pwmOf k.val).lastPeak ≠ some s.cyc →
     s.is (PWM_CTRL_CMTREQ k.val) = true →
     s.is (PWM_STATUS_CMTPEND k.val) = true →
     s.cmpAtPeak k.val = true →
     ∃ t, exec (.pwmPeakBoundary k) s = .next t ∧
       (t.pwmOf k.val).lastPeak = some s.cyc ∧
       t.is (PWM_STATUS_CMTPEND k.val) = false ∧
       (t.pwmOf k.val).owed = (s.pwmOf k.val).cmtMask ∧
       (∀ j : Fin 8, t.rd (pwmInEffect k.val j.val) = (if j ∈ ([1, 2, 3, 4] : List (Fin 8)) then s.rd (pwmShadow k.val j.val) else s.rd (pwmInEffect k.val j.val)))) ∧
  (∀ (s : State) (k : Fin 32),
     s.ticking = true →
     s.pwm.length = 32 →
     s.pwmAtPeak k.val = true →
     (s.pwmOf k.val).lastPeak ≠ some s.cyc →
     s.is (PWM_CTRL_CMTREQ k.val) = true →
     s.is (PWM_STATUS_CMTPEND k.val) = false ∨ s.cmpAtPeak k.val = false →
     ∃ t, exec (.pwmPeakBoundary k) s = .next t ∧
       (t.pwmOf k.val).lastPeak = some s.cyc ∧
       t.is (PWM_STATUS_CMTPEND k.val) = s.is (PWM_STATUS_CMTPEND k.val) ∧
       (∀ j : Fin 8, t.rd (pwmInEffect k.val j.val) = (if False then s.rd (pwmShadow k.val j.val) else s.rd (pwmInEffect k.val j.val)))) ∧
  (∀ (s : State) (k : Fin 32),
     s.pwmAtPeak k.val = false ∨ s.ticking = false →
     ∃ t, exec (.pwmPeakBoundary k) s = .next t ∧
       t = s) ∧
  (∀ (s : State) (ini : Initiator) (k : Fin 32) (r : Fin 8) (val : Word),
     s.Owns ini k.val (pwmShadow k.val r.val).addr →
     s.pwmAtZero k.val = false →
     s.pwmAtPeak k.val = false →
     ∃ t, exec (.pwmShadowWrite ini k r val) s = .next t ∧
       t.rd (pwmShadow k.val r.val) = val &&& shadowBits r.val ∧
       (∀ j : Fin 8, t.rd (pwmInEffect k.val j.val) = s.rd (pwmInEffect k.val j.val)) ∧
       (∀ j : Fin 8, j ≠ r → t.rd (pwmShadow k.val j.val) = s.rd (pwmShadow k.val j.val))) ∧
  (∀ (s : State) (ini : Initiator) (k : Fin 32) (r : Fin 8) (val : Word),
     s.Owns ini k.val (pwmShadow k.val r.val).addr →
     s.pwm.length = 32 →
     s.ticking = true →
     s.pwmAtZero k.val = true →
     (s.pwmOf k.val).lastZero ≠ some s.cyc →
     (s.pwmOf k.val).start = false →
     s.is (PWM_CTRL_CMTREQ k.val) = false →
     r ∈ ([0, 5, 6, 7] : List (Fin 8)) →
     ∃ t, exec (.pwmShadowWrite ini k r val) s = .next t ∧
       t.rd (pwmShadow k.val r.val) = val &&& shadowBits r.val ∧
       t.rd (pwmInEffect k.val r.val) = s.rd (pwmShadow k.val r.val) ∧
       t.is (PWM_STATUS_LATE_WR k.val) = true)

/-- A write to PWMG_START sets RUN of exactly the named modules that the writer owns, and a module it starts has its first zero
boundary in the first cycle of the next tick; one to PWMG_COMMIT sets CMTPEND of exactly those modules. A CTRL write of an
owner with RUN = 1 starts a stopped module with the written fields; one with RUN = 0 stops a running module, takes both
outputs off and its count to 0, and writes the fields of a stopped one. While RUN = 1 a write changes no field but RUN,
SYNCARM and SYNCOSEL (R24, R86, R89, R90). Where the owner code does not let the initiator write module k and no
control-engine store is being discarded, a shadow, force, trip-clear, run or stop write leaves every register but the
violation count as it was, names module and initiator in CEC_OWNVIOL_CNT and raises a protection event to the safety cores
(R24). -/
def Obligations.ModulesStartStopAndCommitForTheirOwners : Prop :=
  (∀ (s : State) (ini : Initiator) (val : Word),
     s.Reaches ini PWMG_START.addr →
     s.ceStoreDiscard ini = false →
     s.pwm.length = 32 →
     ∃ t, exec (.pwmgStart ini val) s = .next t ∧
       (∀ k : Fin 32, t.is (PWM_CTRL_RUN k.val) = (s.is (PWM_CTRL_RUN k.val) || (val.getLsbD k.val && s.pwmMayWrite ini k.val))) ∧
       (∀ k : Fin 32, (val.getLsbD k.val && s.pwmMayWrite ini k.val) = true → s.is (PWM_CTRL_RUN k.val) = false → (t.pwmOf k.val).start = true ∧ (t.pwmOf k.val).zero = 4 * ((s.tick : Nat) + 1))) ∧
  (∀ (s : State) (ini : Initiator) (val : Word),
     s.Reaches ini PWMG_COMMIT.addr →
     s.ceStoreDiscard ini = false →
     ∃ t, exec (.pwmgCommit ini val) s = .next t ∧
       ∀ k : Fin 32, t.is (PWM_STATUS_CMTPEND k.val) = (s.is (PWM_STATUS_CMTPEND k.val) || (val.getLsbD k.val && s.pwmMayWrite ini k.val))) ∧
  (∀ (s : State) (ini : Initiator) (k : Fin 32) (val : Word),
     s.Owns ini k.val (PWM_CTRL k.val).addr →
     s.pwm.length = 32 →
     s.is (PWM_CTRL_RUN k.val) = false →
     ∃ t, exec (.pwmCtrlRun ini k val) s = .next t ∧
       t.rd (PWM_CTRL k.val) = (val &&& 0x3FFE) ||| 1 ∧
       (t.pwmOf k.val).start = true ∧
       (t.pwmOf k.val).zero = 4 * ((s.tick : Nat) + 1)) ∧
  (∀ (s : State) (ini : Initiator) (k : Fin 32) (val : Word),
     s.Owns ini k.val (PWM_CTRL k.val).addr →
     s.is (PWM_CTRL_RUN k.val) = true →
     ∃ t, exec (.pwmCtrlRun ini k val) s = .next t ∧
       t.rd (PWM_CTRL k.val) = (s.rd (PWM_CTRL k.val) &&& 0xFFFFC7FF) ||| (val &&& 0x3800) ∧
       s.OnlyRegs t [(PWM_CTRL k.val).addr]) ∧
  (∀ (s : State) (ini : Initiator) (k : Fin 32) (val : Word),
     s.Owns ini k.val (PWM_CTRL k.val).addr →
     s.pwm.length = 32 →
     s.is (PWM_CTRL_RUN k.val) = true →
     ∃ t, exec (.pwmCtrlStop ini k val) s = .next t ∧
       t.rd (PWM_CTRL k.val) = (s.rd (PWM_CTRL k.val) &&& 0xFFFFC7FE) ||| (val &&& 0x3800) ∧
       t.is (PWM_STATUS_OUTA k.val) = false ∧
       t.is (PWM_STATUS_OUTB k.val) = false ∧
       t.pwmCount k.val = 0) ∧
  (∀ (s : State) (ini : Initiator) (k : Fin 32) (val : Word),
     s.Owns ini k.val (PWM_CTRL k.val).addr →
     s.is (PWM_CTRL_RUN k.val) = false →
     ∃ t, exec (.pwmCtrlStop ini k val) s = .next t ∧
       t.rd (PWM_CTRL k.val) = val &&& 0x3FFE ∧
       s.OnlyRegs t [(PWM_CTRL k.val).addr]) ∧
  (∀ (s : State) (ini : Initiator) (k : Fin 32) (val : Word),
     s.Reaches ini (PWM_PRD k.val).addr →
     s.ceStoreDiscard ini = false →
     s.pwmMayWrite ini k.val = false →
     ∃ t, exec (.pwmShadowWrite ini k 0 val) s = .next t ∧
       t.get CEC_OWNVIOL_CNT_LAST_PWM = k.val ∧
       t.get CEC_OWNVIOL_CNT_LAST_INIT = initCode ini ∧
       t.get CEC_OWNVIOL_CNT_COUNT = min (s.get CEC_OWNVIOL_CNT_COUNT + 1) 0xFFFF ∧
       t.irqs = s.irqs ++ [s.irqNow (.sc) (0x405001F4) (0)] ∧
       t = { s with regs := t.regs, irqs := t.irqs } ∧
       (∀ r : Reg, r.addr ≠ CEC_OWNVIOL_CNT.addr → t.rd r = s.rd r)) ∧
  (∀ (s : State) (ini : Initiator) (k : Fin 32) (val : Word),
     s.Reaches ini (PWM_FORCE k.val).addr →
     s.ceStoreDiscard ini = false →
     s.pwmMayWrite ini k.val = false →
     ∃ t, exec (.pwmForce ini k val) s = .next t ∧
       t.get CEC_OWNVIOL_CNT_LAST_PWM = k.val ∧
       t.get CEC_OWNVIOL_CNT_LAST_INIT = initCode ini ∧
       t.get CEC_OWNVIOL_CNT_COUNT = min (s.get CEC_OWNVIOL_CNT_COUNT + 1) 0xFFFF ∧
       t.irqs = s.irqs ++ [s.irqNow (.sc) (0x405001F4) (0)] ∧
       t = { s with regs := t.regs, irqs := t.irqs } ∧
       (∀ r : Reg, r.addr ≠ CEC_OWNVIOL_CNT.addr → t.rd r = s.rd r)) ∧
  (∀ (s : State) (ini : Initiator) (k : Fin 32) (val : Word),
     s.Reaches ini (PWM_TRIPCLR k.val).addr →
     s.ceStoreDiscard ini = false →
     s.pwmMayWrite ini k.val = false →
     ∃ t, exec (.pwmTripclr ini k val) s = .next t ∧
       t.get CEC_OWNVIOL_CNT_LAST_PWM = k.val ∧
       t.get CEC_OWNVIOL_CNT_LAST_INIT = initCode ini ∧
       t.get CEC_OWNVIOL_CNT_COUNT = min (s.get CEC_OWNVIOL_CNT_COUNT + 1) 0xFFFF ∧
       t.irqs = s.irqs ++ [s.irqNow (.sc) (0x405001F4) (0)] ∧
       t = { s with regs := t.regs, irqs := t.irqs } ∧
       (∀ r : Reg, r.addr ≠ CEC_OWNVIOL_CNT.addr → t.rd r = s.rd r)) ∧
  (∀ (s : State) (ini : Initiator) (k : Fin 32) (val : Word),
     s.Reaches ini (PWM_CTRL k.val).addr →
     s.ceStoreDiscard ini = false →
     s.pwmMayWrite ini k.val = false →
     ∃ t, exec (.pwmCtrlRun ini k val) s = .next t ∧
       t.get CEC_OWNVIOL_CNT_LAST_PWM = k.val ∧
       t.get CEC_OWNVIOL_CNT_LAST_INIT = initCode ini ∧
       t.get CEC_OWNVIOL_CNT_COUNT = min (s.get CEC_OWNVIOL_CNT_COUNT + 1) 0xFFFF ∧
       t.irqs = s.irqs ++ [s.irqNow (.sc) (0x405001F4) (0)] ∧
       t = { s with regs := t.regs, irqs := t.irqs } ∧
       (∀ r : Reg, r.addr ≠ CEC_OWNVIOL_CNT.addr → t.rd r = s.rd r)) ∧
  (∀ (s : State) (ini : Initiator) (k : Fin 32) (val : Word),
     s.Reaches ini (PWM_CTRL k.val).addr →
     s.ceStoreDiscard ini = false →
     s.pwmMayWrite ini k.val = false →
     ∃ t, exec (.pwmCtrlStop ini k val) s = .next t ∧
       t.get CEC_OWNVIOL_CNT_LAST_PWM = k.val ∧
       t.get CEC_OWNVIOL_CNT_LAST_INIT = initCode ini ∧
       t.get CEC_OWNVIOL_CNT_COUNT = min (s.get CEC_OWNVIOL_CNT_COUNT + 1) 0xFFFF ∧
       t.irqs = s.irqs ++ [s.irqNow (.sc) (0x405001F4) (0)] ∧
       t = { s with regs := t.regs, irqs := t.irqs } ∧
       (∀ r : Reg, r.addr ≠ CEC_OWNVIOL_CNT.addr → t.rd r = s.rd r))

/-- The last edge that an output's compare gives in the present cycle takes its raw reference to the edge's level under POL, and
an output whose compare gives no edges is left alone; at the end of its dead time an output whose reference is still 1 turns
on where MINPW is 0 or no fall is predicted within MINPW, and where one is, it turns on for MINPW with MINPOL = 0 and stays
off with MINPOL = 1, and either is counted; at the end of the minimum on-time an output whose reference has fallen turns off,
counted unless the pulse was predicted short; CMPC or CMPD occurs in the cycle in which the counter equals VAL in a selected
direction, at 0 and PRD of up-down counting in any selected direction, and interrupts the owner where IEN enables it (R80,
R83, R84, R100). -/
def Obligations.PwmEdgesFollowCompareDeadTimeAndMinimumPulse : Prop :=
  (∀ (s : State) (k : Fin 32) (x : Side) (e : Int) (r : Bool),
     s.ticking = true →
     s.pwm.length = 32 →
     s.pwmRuns k.val = true →
     (s.pwmOf k.val).start = false →
     s.pwmHasEdges k.val x = true →
     (e, r) ∈ s.pwmEdges k.val x →
     s.now16 ≤ e →
     e < s.now16 + 16 →
     (s.pwmO k.val x).upTo < e →
     ∀ f ∈ s.pwmEdges k.val x, e < f.1 → s.now16 + 16 ≤ f.1 →
     ∀ f ∈ s.pwmEdges k.val x, f.1 = e → f.2 = r →
     ∃ t, exec (.pwmCompareEdge k x) s = .next t ∧
       (t.pwmO k.val x).raw = (r != polOf s k.val x) ∧
       (t.pwmO k.val x).upTo = e) ∧
  (∀ (s : State) (k : Fin 32) (x : Side),
     s.pwmHasEdges k.val x = false ∨ s.pwmRuns k.val = false ∨ s.ticking = false →
     ∃ t, exec (.pwmCompareEdge k x) s = .next t ∧
       t = s) ∧
  (∀ (s : State) (k : Fin 32) (x : Side) (e : Int),
     s.ticking = true →
     s.pwm.length = 32 →
     s.pwmRuns k.val = true →
     (s.pwmO k.val x).due = some e →
     (s.pwmO k.val x).ref = true →
     e.fdiv 16 ≤ (s.cyc : Int) →
     (s.get (PWM_MINPW_EFF_MINPW k.val)) = 0 →
     ∃ t, exec (.pwmDeadtimeEnd k x) s = .next t ∧
       t.is (outFld k.val x) = true ∧
       (t.pwmO k.val x).due = none ∧
       (t.pwmO k.val x).hold = none ∧
       t.is (outFld k.val (other x)) = s.is (outFld k.val (other x))) ∧
  (∀ (s : State) (k : Fin 32) (x : Side) (e p : Int),
     s.ticking = true →
     s.pwm.length = 32 →
     s.pwmRuns k.val = true →
     (s.pwmO k.val x).due = some e →
     (s.pwmO k.val x).ref = true →
     e.fdiv 16 ≤ (s.cyc : Int) →
     (s.get (PWM_MINPW_EFF_MINPW k.val)) ≠ 0 →
     s.pwmPredFall k.val x e = some p →
     ((s.get (PWM_MINPW_EFF_MINPW k.val)) : Int) ≤ p - e →
     ∃ t, exec (.pwmDeadtimeEnd k x) s = .next t ∧
       t.is (outFld k.val x) = true ∧
       (t.pwmO k.val x).due = none ∧
       (t.pwmO k.val x).hold = some (e + ((s.get (PWM_MINPW_EFF_MINPW k.val)) : Int)) ∧
       t.get (PWM_CNT1_MINRND_CNT k.val) = s.get (PWM_CNT1_MINRND_CNT k.val) ∧
       t.is (outFld k.val (other x)) = s.is (outFld k.val (other x))) ∧
  (∀ (s : State) (k : Fin 32) (x : Side) (e p : Int),
     s.ticking = true →
     s.pwm.length = 32 →
     s.pwmRuns k.val = true →
     (s.pwmO k.val x).due = some e →
     (s.pwmO k.val x).ref = true →
     e.fdiv 16 ≤ (s.cyc : Int) →
     s.pwmPredFall k.val x e = some p →
     p - e < ((s.get (PWM_MINPW_EFF_MINPW k.val)) : Int) →
     s.is (PWM_CTRL_MINPOL k.val) = false →
     (s.get (PWM_MINPW_EFF_MINPW k.val)) ≠ 0 →
     ∃ t, exec (.pwmDeadtimeEnd k x) s = .next t ∧
       t.is (outFld k.val x) = true ∧
       (t.pwmO k.val x).due = none ∧
       (t.pwmO k.val x).hold = some (e + ((s.get (PWM_MINPW_EFF_MINPW k.val)) : Int)) ∧
       t.get (PWM_CNT1_MINRND_CNT k.val) = min (s.get (PWM_CNT1_MINRND_CNT k.val) + 1) 65535 ∧
       t.is (outFld k.val (other x)) = s.is (outFld k.val (other x))) ∧
  (∀ (s : State) (k : Fin 32) (x : Side) (e p : Int),
     s.ticking = true →
     s.pwm.length = 32 →
     s.pwmRuns k.val = true →
     (s.pwmO k.val x).due = some e →
     (s.pwmO k.val x).ref = true →
     e.fdiv 16 ≤ (s.cyc : Int) →
     s.pwmPredFall k.val x e = some p →
     p - e < ((s.get (PWM_MINPW_EFF_MINPW k.val)) : Int) →
     s.is (PWM_CTRL_MINPOL k.val) = true →
     (s.get (PWM_MINPW_EFF_MINPW k.val)) ≠ 0 →
     ∃ t, exec (.pwmDeadtimeEnd k x) s = .next t ∧
       t.is (outFld k.val x) = s.is (outFld k.val x) ∧
       (t.pwmO k.val x).due = none ∧
       (t.pwmO k.val x).rise = none ∧
       t.get (PWM_CNT1_MINSUP_CNT k.val) = min (s.get (PWM_CNT1_MINSUP_CNT k.val) + 1) 65535 ∧
       t.is (outFld k.val (other x)) = s.is (outFld k.val (other x))) ∧
  (∀ (s : State) (k : Fin 32) (x : Side),
     (s.pwmO k.val x).due = none ∨ s.ticking = false →
     ∃ t, exec (.pwmDeadtimeEnd k x) s = .next t ∧
       t = s) ∧
  (∀ (s : State) (k : Fin 32) (x : Side) (e : Int),
     s.ticking = true →
     s.pwm.length = 32 →
     (s.pwmO k.val x).hold = some e →
     s.is (outFld k.val x) = true →
     (s.pwmO k.val x).ref = false →
     e.fdiv 16 ≤ (s.cyc : Int) →
     ∃ t, exec (.pwmMinpulseEnd k x) s = .next t ∧
       t.is (outFld k.val x) = false ∧
       (t.pwmO k.val x).hold = none ∧
       t.get (PWM_CNT1_MINRND_CNT k.val) = (if (s.pwmO k.val x).short = true then s.get (PWM_CNT1_MINRND_CNT k.val) else min (s.get (PWM_CNT1_MINRND_CNT k.val) + 1) 65535) ∧
       t.is (outFld k.val (other x)) = s.is (outFld k.val (other x))) ∧
  (∀ (s : State) (k : Fin 32) (x : Side),
     (s.pwmO k.val x).hold = none ∨ s.ticking = false →
     ∃ t, exec (.pwmMinpulseEnd k x) s = .next t ∧
       t = s) ∧
  (∀ (s : State) (k : Fin 32) (d : Bool),
     s.ticking = true →
     s.pwm.length = 32 →
     s.pwmRuns k.val = true →
     (s.pwmOf k.val).start = false →
     (s.pwmOf k.val).zero ≤ (s.cyc : Int) →
     (if d then (s.pwmOf k.val).cmpdAt else (s.pwmOf k.val).cmpcAt) ≠ some s.cyc →
     s.pwmCount k.val = (s.get (if d then PWM_CMPD_EFF_VAL k.val else PWM_CMPC_EFF_VAL k.val)) →
     ((s.get (if d then PWM_CMPD_EFF_DIR k.val else PWM_CMPC_EFF_DIR k.val)) = 3 ∨ ((s.get (if d then PWM_CMPD_EFF_DIR k.val else PWM_CMPC_EFF_DIR k.val)) = 1 ∧ s.pwmDown k.val = false) ∨ ((s.get (if d then PWM_CMPD_EFF_DIR k.val else PWM_CMPC_EFF_DIR k.val)) = 2 ∧ s.pwmDown k.val = true) ∨ ((s.get (if d then PWM_CMPD_EFF_DIR k.val else PWM_CMPC_EFF_DIR k.val)) ≠ 0 ∧ s.is (PWM_CTRL_CNTMODE k.val) = true ∧ ((s.get (if d then PWM_CMPD_EFF_VAL k.val else PWM_CMPC_EFF_VAL k.val)) = 0 ∨ (s.get (if d then PWM_CMPD_EFF_VAL k.val else PWM_CMPC_EFF_VAL k.val)) = s.pwmPrd k.val))) →
     (s.rd (PWM_IEN k.val)).getLsbD (if d then 3 else 2) = true →
     ∃ t, exec (.pwmCmpcCmpd k d) s = .next t ∧
       t.irqs.take (s.irqs.length + 1) = s.irqs ++ [s.irqNow (ownerIrq (s.pwmOwner k.val)) (0x40000000 + k.val * 0x400) (if d then 3 else 2)] ∧
       (if d then (t.pwmOf k.val).cmpdAt else (t.pwmOf k.val).cmpcAt) = some s.cyc) ∧
  (∀ (s : State) (k : Fin 32) (d : Bool),
     s.ticking = true →
     s.pwm.length = 32 →
     s.pwmRuns k.val = true →
     (s.pwmOf k.val).start = false →
     (s.pwmOf k.val).zero ≤ (s.cyc : Int) →
     (if d then (s.pwmOf k.val).cmpdAt else (s.pwmOf k.val).cmpcAt) ≠ some s.cyc →
     s.pwmCount k.val = (s.get (if d then PWM_CMPD_EFF_VAL k.val else PWM_CMPC_EFF_VAL k.val)) →
     ((s.get (if d then PWM_CMPD_EFF_DIR k.val else PWM_CMPC_EFF_DIR k.val)) = 3 ∨ ((s.get (if d then PWM_CMPD_EFF_DIR k.val else PWM_CMPC_EFF_DIR k.val)) = 1 ∧ s.pwmDown k.val = false) ∨ ((s.get (if d then PWM_CMPD_EFF_DIR k.val else PWM_CMPC_EFF_DIR k.val)) = 2 ∧ s.pwmDown k.val = true) ∨ ((s.get (if d then PWM_CMPD_EFF_DIR k.val else PWM_CMPC_EFF_DIR k.val)) ≠ 0 ∧ s.is (PWM_CTRL_CNTMODE k.val) = true ∧ ((s.get (if d then PWM_CMPD_EFF_VAL k.val else PWM_CMPC_EFF_VAL k.val)) = 0 ∨ (s.get (if d then PWM_CMPD_EFF_VAL k.val else PWM_CMPC_EFF_VAL k.val)) = s.pwmPrd k.val))) →
     (s.rd (PWM_IEN k.val)).getLsbD (if d then 3 else 2) = false →
     ∃ t, exec (.pwmCmpcCmpd k d) s = .next t ∧
       t.irqs = s.irqs ∧
       (if d then (t.pwmOf k.val).cmpdAt else (t.pwmOf k.val).cmpcAt) = some s.cyc) ∧
  (∀ (s : State) (k : Fin 32) (d : Bool),
     s.pwmCount k.val ≠ (s.get (if d then PWM_CMPD_EFF_VAL k.val else PWM_CMPC_EFF_VAL k.val)) ∨ (s.get (if d then PWM_CMPD_EFF_DIR k.val else PWM_CMPC_EFF_DIR k.val)) = 0 ∨ (if d then (s.pwmOf k.val).cmpdAt else (s.pwmOf k.val).cmpcAt) = some s.cyc ∨ s.pwmRuns k.val = false →
     ∃ t, exec (.pwmCmpcCmpd k d) s = .next t ∧
       t = s)

/-- A write of PWMk_FORCE by the owner is taken at the first cycle of the next tick; a trip input that is active sets its bit of
TRIPPED and no other, and one that is inactive or has its bit set does nothing; a TRIPCLR write ends exactly the named latched
trip states whose inputs are inactive. A SYNCI pulse at a running module that takes it, counting up from PHASE, sets the
counter to PHASE where it is out of phase and sets SYNCJMP; where the counter is in phase it only shifts the edges by the fine
part; without a pulse in the cycle nothing happens. A calibration moves the taps by one, once between boundaries (R81, R91,
R92, R96 to R99). -/
def Obligations.ForcesTripsAndSynchronisationActOnTheirModule : Prop :=
  (∀ (s : State) (ini : Initiator) (k : Fin 32) (val : Word),
     s.Owns ini k.val (PWM_FORCE k.val).addr →
     s.pwm.length = 32 →
     ∃ t, exec (.pwmForce ini k val) s = .next t ∧
       t.rd (PWM_FORCE k.val) = val &&& 0xF ∧
       (t.pwmOf k.val).forceAt = some (4 * (s.tick + 1)) ∧
       (t.pwmOf k.val).force = (s.pwmOf k.val).force) ∧
  (∀ (s : State) (k : Fin 32) (i : Fin 4),
     s.tripIn k.val i.val = true →
     s.bit (PWM_STATUS_TRIPPED k.val) i.val = false →
     ∃ t, exec (.pwmTripActive k i) s = .next t ∧
       ∀ j : Fin 4, t.bit (PWM_STATUS_TRIPPED k.val) j.val = (s.bit (PWM_STATUS_TRIPPED k.val) j.val || j == i)) ∧
  (∀ (s : State) (k : Fin 32) (i : Fin 4),
     s.tripIn k.val i.val = false ∨ s.bit (PWM_STATUS_TRIPPED k.val) i.val = true →
     ∃ t, exec (.pwmTripActive k i) s = .next t ∧
       t = s) ∧
  (∀ (s : State) (ini : Initiator) (k : Fin 32) (val : Word),
     s.Owns ini k.val (PWM_TRIPCLR k.val).addr →
     ∃ t, exec (.pwmTripclr ini k val) s = .next t ∧
       ∀ j : Fin 4, t.bit (PWM_STATUS_TRIPPED k.val) j.val = (s.bit (PWM_STATUS_TRIPPED k.val) j.val && !(val.getLsbD j.val && (s.rd (PWM_TRIPCFG k.val)).getLsbD (8 * j.val + 4) && !s.tripIn k.val j.val))) ∧
  (∀ (s : State) (k : Fin 32),
     s.ticking = true →
     s.pwm.length = 32 →
     (s.pwmOf k.val).syncAt = some s.cyc →
     s.pwmRuns k.val = true →
     (s.pwmOf k.val).start = false →
     s.is (PWM_CTRL_SYNCEN k.val) = true →
     s.is (PWM_CTRL_SYNCMODE k.val) = false ∨ s.is (PWM_CTRL_SYNCARM k.val) = true →
     (s.get (PWM_PHASE_EFF_PHASE k.val)) < 16 * s.pwmPrd k.val →
     s.is (PWM_CTRL_CNTMODE k.val) = false ∨ (s.is (PWM_PHASE_EFF_PHDIR k.val) = false ∧ (s.get (PWM_PHASE_EFF_PHASE k.val)) / 16 + 1 < s.pwmPrd k.val) →
     ((s.pwmOf k.val).zero - ((s.cyc : Int) - 1 - ((s.get (PWM_PHASE_EFF_PHASE k.val)) / 16 : Nat))) % (s.pwmPeriod k.val : Int) ≠ 0 →
     ∃ t, exec (.pwmSynci k) s = .next t ∧
       t.is (PWM_STATUS_SYNCJMP k.val) = true ∧
       (t.pwmOf k.val).zero = ((s.cyc : Int) - 1 - ((s.get (PWM_PHASE_EFF_PHASE k.val)) / 16 : Nat)) ∧
       (t.pwmOf k.val).fine = -(((s.get (PWM_PHASE_EFF_PHASE k.val)) % 16 : Nat) : Int) ∧
       (t.pwmOf k.val).syncAt = none) ∧
  (∀ (s : State) (k : Fin 32),
     s.ticking = true →
     s.pwm.length = 32 →
     (s.pwmOf k.val).syncAt = some s.cyc →
     s.pwmRuns k.val = true →
     (s.pwmOf k.val).start = false →
     s.is (PWM_CTRL_SYNCEN k.val) = true →
     s.is (PWM_CTRL_SYNCMODE k.val) = false ∨ s.is (PWM_CTRL_SYNCARM k.val) = true →
     (s.get (PWM_PHASE_EFF_PHASE k.val)) < 16 * s.pwmPrd k.val →
     s.is (PWM_CTRL_CNTMODE k.val) = false ∨ (s.is (PWM_PHASE_EFF_PHDIR k.val) = false ∧ (s.get (PWM_PHASE_EFF_PHASE k.val)) / 16 + 1 < s.pwmPrd k.val) →
     ((s.pwmOf k.val).zero - ((s.cyc : Int) - 1 - ((s.get (PWM_PHASE_EFF_PHASE k.val)) / 16 : Nat))) % (s.pwmPeriod k.val : Int) = 0 →
     ∃ t, exec (.pwmSynci k) s = .next t ∧
       t.is (PWM_STATUS_SYNCJMP k.val) = s.is (PWM_STATUS_SYNCJMP k.val) ∧
       (t.pwmOf k.val).zero = (s.pwmOf k.val).zero ∧
       (t.pwmOf k.val).fine = -(((s.get (PWM_PHASE_EFF_PHASE k.val)) % 16 : Nat) : Int) ∧
       (t.pwmOf k.val).syncAt = none) ∧
  (∀ (s : State) (k : Fin 32),
     (s.pwmOf k.val).syncAt ≠ some s.cyc →
     ∃ t, exec (.pwmSynci k) s = .next t ∧
       t = s) ∧
  (∀ (s : State) (k : Fin 32) (up : Bool),
     s.ticking = true →
     s.pwm.length = 32 →
     (s.pwmOf k.val).tapZero ≠ (s.pwmOf k.val).lastZero →
     ∃ t, exec (.pwmTapCalibration k up) s = .next t ∧
       (t.pwmOf k.val).tap = (s.pwmOf k.val).tap + (if up then 1 else -1) ∧
       (t.pwmOf k.val).tapZero = (s.pwmOf k.val).lastZero) ∧
  (∀ (s : State) (k : Fin 32) (up : Bool),
     (s.pwmOf k.val).tapZero = (s.pwmOf k.val).lastZero →
     ∃ t, exec (.pwmTapCalibration k up) s = .next t ∧
       t = s)

/-- A command that sets the lock bit of a block sets it, changes no register but the one that holds the lock, and nothing else in
the machine. CEC_LOCK, TRN_LOCK, WMG_LOCK and ADG_CTRL are written whole: with their lock bit 0 the first three change
nothing, and ADG_CTRL takes CLKSEL while it is unlocked and keeps its lock. PU_CTRL is locked by its own thread; any other
writer changes nothing there (R16, R24, R60, R191, R339, R371, R448, R512, R513). SUP_CFG is in a statement of its own. -/
def Obligations.LocksLockAndChangeNothingElse : Prop :=
  (∀ (s : State) (ini : Initiator) (val : Word),
     s.Reaches ini CEC_LOCK.addr →
     val.getLsbD 0 = true →
     ∃ t, exec (.cecLock ini val) s = .next t ∧
       t.is CEC_LOCK_OWN_LOCK = true ∧
       s.OnlyRegs t [CEC_LOCK.addr]) ∧
  (∀ (s : State) (ini : Initiator) (val : Word),
     s.Reaches ini CEC_LOCK.addr →
     val.getLsbD 0 = false →
     ∃ t, exec (.cecLock ini val) s = .next t ∧
       t = s) ∧
  (∀ (s : State) (ini : Initiator) (val : Word),
     s.Reaches ini TRN_LOCK.addr →
     val.getLsbD 0 = false →
     ∃ t, exec (.trnLock ini val) s = .next t ∧
       t = s) ∧
  (∀ (s : State) (ini : Initiator) (val : Word),
     s.Reaches ini WMG_LOCK.addr →
     val.getLsbD 0 = false →
     ∃ t, exec (.wmgLock ini val) s = .next t ∧
       t = s) ∧
  (∀ (s : State) (ini : Initiator) (val : Word),
     s.Reaches ini ADG_CTRL.addr →
     val.getLsbD 31 = false →
     ∃ t, exec (.adgLock ini val) s = .next t ∧
       t.is ADG_CTRL_LOCK = s.is ADG_CTRL_LOCK ∧
       t.get ADG_CTRL_CLKSEL = (if s.is ADG_CTRL_LOCK then s.get ADG_CTRL_CLKSEL else val.toNat % 2) ∧
       s.OnlyRegs t [ADG_CTRL.addr]) ∧
  (∀ (s : State) (ini : Initiator) (u : Fin 12) (val : Word),
     s.Reaches ini (PU_CTRL u.val).addr →
     ∀ (c : Fin 4) (th : Fin 3), ini = .sc c th → u.val ≠ c.val * 3 + (if s.scRedundant c.val then 0 else th.val) →
     ∃ t, exec (.puLock ini u val) s = .next t ∧
       t = s) ∧
  (∀ (s : State) (ini : Initiator) (val : Word),
     s.Reaches ini MDM_LOCK.addr →
     ∃ t, exec (.mdmLock ini val) s = .next t ∧
       t.is MDM_LOCK_POL_LOCK = true ∧
       s.OnlyRegs t [MDM_LOCK.addr]) ∧
  (∀ (s : State) (ini : Initiator) (val : Word),
     s.Reaches ini GDG_LOCK.addr →
     ∃ t, exec (.gdgLock ini val) s = .next t ∧
       t.is GDG_LOCK_CFG_LOCK = true ∧
       s.OnlyRegs t [GDG_LOCK.addr]) ∧
  (∀ (s : State) (ini : Initiator) (val : Word),
     s.Reaches ini ADG_CTRL.addr →
     val.getLsbD 31 = true →
     ∃ t, exec (.adgLock ini val) s = .next t ∧
       t.is ADG_CTRL_LOCK = true ∧
       s.OnlyRegs t [ADG_CTRL.addr]) ∧
  (∀ (s : State) (ini : Initiator) (val : Word),
     s.Reaches ini TRN_LOCK.addr →
     val.getLsbD 0 = true →
     ∃ t, exec (.trnLock ini val) s = .next t ∧
       t.is TRN_LOCK_LOCK = true ∧
       s.OnlyRegs t [TRN_LOCK.addr]) ∧
  (∀ (s : State) (ini : Initiator) (val : Word),
     s.Reaches ini WMG_LOCK.addr →
     val.getLsbD 0 = true →
     ∃ t, exec (.wmgLock ini val) s = .next t ∧
       t.is WMG_LOCK_LOCK = true ∧
       s.OnlyRegs t [WMG_LOCK.addr]) ∧
  (∀ (s : State) (ini : Initiator) (val : Word),
     s.Reaches ini POSG_LOCK.addr →
     ∃ t, exec (.posgLock ini val) s = .next t ∧
       t.is POSG_LOCK_LOCK = true ∧
       s.OnlyRegs t [POSG_LOCK.addr]) ∧
  (∀ (s : State) (ini : Initiator) (val : Word),
     s.Reaches ini LGC_CTRL.addr →
     ∃ t, exec (.lgcLock ini val) s = .next t ∧
       t.is LGC_CTRL_LOCK = true ∧
       s.OnlyRegs t [LGC_CTRL.addr]) ∧
  (∀ (s : State) (ini : Initiator) (val : Word),
     s.Reaches ini STU_CTRL.addr →
     ∃ t, exec (.stuLock ini val) s = .next t ∧
       t.is STU_CTRL_LOCK = true ∧
       s.OnlyRegs t [STU_CTRL.addr]) ∧
  (∀ (s : State) (c : Fin 4) (th : Fin 3) (u : Fin 12) (val : Word),
     s.Reaches (.sc c th) (PU_CTRL u.val).addr →
     u.val = c.val * 3 + (if s.scRedundant c.val then 0 else th.val) →
     ∃ t, exec (.puLock (.sc c th) u val) s = .next t ∧
       t.is (PU_CTRL_LOCK u.val) = true ∧
       s.OnlyRegs t [(PU_CTRL u.val).addr]) ∧
  (∀ (s : State) (ini : Initiator) (val : Word),
     s.Reaches ini KCP_CFG.addr →
     ∃ t, exec (.kcpLock ini val) s = .next t ∧
       t.is KCP_CFG_LOCK = true ∧
       s.OnlyRegs t [KCP_CFG.addr]) ∧
  (∀ (s : State) (ini : Initiator) (val : Word),
     s.Reaches ini ETH_LOCK.addr →
     ∃ t, exec (.ethLock ini val) s = .next t ∧
       t.is ETH_LOCK_LOCK = true ∧
       s.OnlyRegs t [ETH_LOCK.addr]) ∧
  (∀ (s : State) (ini : Initiator) (val : Word),
     s.Reaches ini THM_CFG.addr →
     ∃ t, exec (.thmLock ini val) s = .next t ∧
       t.is THM_CFG_LOCK = true ∧
       s.OnlyRegs t [THM_CFG.addr])

/-- While its block's lock is set, a write to a register all of whose written fields are RWL leaves it as it was: the ownership
map, the mode policy registers, a gate channel's configuration, the Fox routing, an Ethernet address and the lock itself (R16,
R24, R60, R191). -/
def Obligations.LockedFieldsKeepTheirValues : Prop :=
  (∀ (s : State) (ini : Initiator) (val : Word),
     s.Reaches ini CEC_LOCK.addr →
     s.is CEC_LOCK_OWN_LOCK = true →
     ∃ t, exec (.registerWrite ini (BitVec.ofNat 32 CEC_LOCK.addr) val) s = .next t ∧
       t.rd CEC_LOCK = s.rd CEC_LOCK) ∧
  (∀ (s : State) (ini : Initiator) (m : Fin 4) (val : Word),
     s.Reaches ini (CEC_PWMOWN m.val).addr →
     s.is CEC_LOCK_OWN_LOCK = true →
     ∃ t, exec (.registerWrite ini (BitVec.ofNat 32 (CEC_PWMOWN m.val).addr) val) s = .next t ∧
       t.rd (CEC_PWMOWN m.val) = s.rd (CEC_PWMOWN m.val)) ∧
  (∀ (s : State) (ini : Initiator) (val : Word),
     s.Reaches ini MDM_PLUGPOL.addr →
     s.is MDM_LOCK_POL_LOCK = true →
     ∃ t, exec (.registerWrite ini (BitVec.ofNat 32 MDM_PLUGPOL.addr) val) s = .next t ∧
       t.rd MDM_PLUGPOL = s.rd MDM_PLUGPOL) ∧
  (∀ (s : State) (ini : Initiator) (val : Word),
     s.Reaches ini MDM_PAIRDENY.addr →
     s.is MDM_LOCK_POL_LOCK = true →
     ∃ t, exec (.registerWrite ini (BitVec.ofNat 32 MDM_PAIRDENY.addr) val) s = .next t ∧
       t.rd MDM_PAIRDENY = s.rd MDM_PAIRDENY) ∧
  (∀ (s : State) (ini : Initiator) (g : Fin 64) (val : Word),
     s.Reaches ini (GD_CFG g.val).addr →
     s.is GDG_LOCK_CFG_LOCK = true →
     ∃ t, exec (.registerWrite ini (BitVec.ofNat 32 (GD_CFG g.val).addr) val) s = .next t ∧
       t.rd (GD_CFG g.val) = s.rd (GD_CFG g.val)) ∧
  (∀ (s : State) (ini : Initiator) (k : Fin 32) (val : Word),
     s.Reaches ini (TRN_SEL k.val).addr →
     s.is TRN_LOCK_LOCK = true →
     ∃ t, exec (.trnRouteWrite ini (BitVec.ofNat 32 (TRN_SEL k.val).addr) val) s = .next t ∧
       t.rd (TRN_SEL k.val) = s.rd (TRN_SEL k.val)) ∧
  (∀ (s : State) (ini : Initiator) (val : Word),
     s.Reaches ini ETH_MAC0.addr →
     s.is ETH_LOCK_LOCK = true →
     ∃ t, exec (.registerWrite ini (BitVec.ofNat 32 ETH_MAC0.addr) val) s = .next t ∧
       t.rd ETH_MAC0 = s.rd ETH_MAC0)

/-- For one register of each access code the register after a write is what the code gives, reserved bits excepted, and no other
register and nothing else changes: RW takes the value, RO ignores it, RWL takes it while unlocked, W1C clears the ones written
that were set when the instant began, and a write that is not 0 takes from a count what it held then, so that a set or an
increment of the same cycle stays. A write to an unlisted offset of the Ethernet window changes nothing (R16, R17, R18). Where
a clock of initiator or window stands, a register write does nothing. Where the clocks of initiator and window run, a register
write to an address of no listed window, of a window whose domain is off, that the map does not grant, or that is not a
multiple of 4 at or above 0x4000_0000 only sends a bus error with the code 0x21 and the address back to the initiator (R18,
R25, R336). -/
def Obligations.AccessCodesDecideWhatAWriteDoes : Prop :=
  (∀ (s : State) (ini : Initiator) (val : Word),
     s.Reaches ini GPTP_CFG.addr →
     ∃ t, exec (.registerWrite ini (BitVec.ofNat 32 GPTP_CFG.addr) val) s = .next t ∧
       t.rd GPTP_CFG = (s.rd GPTP_CFG &&& 0xFFFFFFFC) ||| (val &&& 3) ∧
       s.OnlyRegs t [GPTP_CFG.addr]) ∧
  (∀ (s : State) (ini : Initiator) (val : Word),
     s.Reaches ini TB_OFFSET_LO.addr →
     ∃ t, exec (.registerWrite ini (BitVec.ofNat 32 TB_OFFSET_LO.addr) val) s = .next t ∧
       t.rd TB_OFFSET_LO = s.rd TB_OFFSET_LO ∧
       s.OnlyRegs t [TB_OFFSET_LO.addr]) ∧
  (∀ (s : State) (ini : Initiator) (val : Word),
     s.Reaches ini ETH_MAC0.addr →
     ∃ t, exec (.registerWrite ini (BitVec.ofNat 32 ETH_MAC0.addr) val) s = .next t ∧
       t.rd ETH_MAC0 = (if s.is ETH_LOCK_LOCK then s.rd ETH_MAC0 else val) ∧
       s.OnlyRegs t [ETH_MAC0.addr]) ∧
  (∀ (s : State) (ini : Initiator) (val : Word),
     s.Reaches ini SUP_FLT.addr →
     ∃ t, exec (.registerWrite ini (BitVec.ofNat 32 SUP_FLT.addr) val) s = .next t ∧
       t.rd SUP_FLT = s.rd SUP_FLT &&& ~~~(val &&& 0xF &&& s.rdWas SUP_FLT) ∧
       s.OnlyRegs t [SUP_FLT.addr]) ∧
  (∀ (s : State) (ini : Initiator) (val : Word),
     s.Reaches ini CEC_TCMCOLL_CNT.addr →
     ∃ t, exec (.registerWrite ini (BitVec.ofNat 32 CEC_TCMCOLL_CNT.addr) val) s = .next t ∧
       t.get CEC_TCMCOLL_CNT_COUNT = (if val &&& 0xFFFF = 0 then s.get CEC_TCMCOLL_CNT_COUNT else s.get CEC_TCMCOLL_CNT_COUNT - bitsOf 15 0 (s.rdWas CEC_TCMCOLL_CNT).toNat) ∧
       s.OnlyRegs t [CEC_TCMCOLL_CNT.addr]) ∧
  (∀ (s : State) (ini : Initiator) (addr val : Word),
     s.Reaches ini addr.toNat →
     0x60100000 ≤ addr.toNat →
     addr.toNat < 0x60200000 →
     rowOf addr.toNat = none →
     ∃ t, exec (.registerWrite ini addr val) s = .next t ∧
       t = s) ∧
  (∀ (s : State) (ini : Initiator) (addr val : Word),
     s.answers ini addr.toNat = false →
     ∃ t, exec (.registerWrite ini addr val) s = .next t ∧
       t = s) ∧
  (∀ (s : State) (ini : Initiator) (addr val : Word),
     s.answers ini addr.toNat = true →
     windowDomain addr.toNat = none ∨ (∃ d, windowDomain addr.toNat = some d ∧ s.isOn d = false) ∨ (0x40000000 ≤ addr.toNat ∧ addr.toNat % 4 ≠ 0) ∨ (∃ n : Fin 8, ini = .ce n ∧ s.ceGrant n.val addr.toNat true = false) →
     ∃ t, exec (.registerWrite ini addr val) s = .next t ∧
       t = { s with busErr := s.busErr ++ [(ini, addr.toNat, 0x21)] })

/-- After a read of TB_LO, a read of TB_HI by the same initiator returns the high half of the TIMEBASE of that read, so both
halves are one 64-bit value; the latches of other initiators, every register and everything else stay as they were (R72). -/
def Obligations.TbLoLatchesTbHiForItsReader : Prop :=
  ∀ (s : State) (ini : Initiator),
     s.answers ini TB_LO.addr = true →
     s.busOk ini TB_LO.addr false = true →
     ∃ t, exec (.tbLoRead ini) s = .next t ∧
       (s.regRead ini TB_LO.addr).1.toNat + 2 ^ 32 * (t.regRead ini TB_HI.addr).1.toNat = s.timebase ∧
       (t.regRead ini TB_HI.addr).2 = t ∧
       (∀ j : Initiator, j ≠ ini → t.tbLatched j = s.tbLatched j) ∧
       t = { s with tbLatch := t.tbLatch }

/-- A fabric write to a control-engine memory stores its word and is noted for the cycle's collisions; one that meets a store of
the engine to the same word in the same cycle is counted and stores nothing; a fabric read by a safety thread loads the word
as it was before the engine's stores of the cycle and changes no memory; an access of an engine to the memory of another ends
in a bus error. A TB_CTRL write takes DISC_EN and PORT and changes nothing else. The event-log writer stores the record of the
event that is next in order in the slot of WRIDX and no byte outside it, and does nothing while no event of an earlier tick
waits, after a record in the present tick, or while a clock stands (R25, R26, R73, R74, R75, R330). -/
def Obligations.MemoryWritesLandWhereTheyAreAddressed : Prop :=
  (∀ (s : State) (ini : Initiator) (w : BitVec 19) (v : Word),
     s.Reaches ini (0x30000000 + 4 * w.toNat) →
     notCe ini = true →
     s.ceWrote (tcmCe (0x30000000 + 4 * w.toNat)) = [] →
     ∃ t, exec (.fabricTcmAccess ini w (some v)) s = .next t ∧
       t.rdMem32 (0x30000000 + 4 * w.toNat) = v ∧
       (∀ a, a < 0x30000000 + 4 * w.toNat ∨ 0x30000000 + 4 * w.toNat + 4 ≤ a → t.rdByte a = s.rdByte a) ∧
       t = { s.setCe (tcmCe (0x30000000 + 4 * w.toNat)) { s.ceOf (tcmCe (0x30000000 + 4 * w.toNat)) with fabric := (s.cyc, (0x30000000 + 4 * w.toNat) :: s.fabWrote (tcmCe (0x30000000 + 4 * w.toNat))) } with mem := t.mem }) ∧
  (∀ (s : State) (ini : Initiator) (w : BitVec 19) (v : Word),
     s.Reaches ini (0x30000000 + 4 * w.toNat) →
     notCe ini = true →
     (s.ceWrote (tcmCe (0x30000000 + 4 * w.toNat))).any (fun e => e.1 == (0x30000000 + 4 * w.toNat)) = true →
     ∃ t, exec (.fabricTcmAccess ini w (some v)) s = .next t ∧
       t.get CEC_TCMCOLL_CNT_COUNT = min (s.get CEC_TCMCOLL_CNT_COUNT + 1) 0xFFFF ∧
       s.OnlyRegs t [CEC_TCMCOLL_CNT.addr]) ∧
  (∀ (s : State) (c : Fin 4) (th : Fin 3) (w : BitVec 19),
     s.answers (.sc c th) (0x30000000 + 4 * w.toNat) = true →
     s.busOk (.sc c th) (0x30000000 + 4 * w.toNat) false = true →
     s.sc.length = 12 →
     ∃ t, exec (.fabricTcmAccess (.sc c th) w none) s = .next t ∧
       (nth t.sc (c.val * 3 + th.val) ScThr.idle).loaded = BitVec.ofNat 32 (leNat (s.tcmBytes (0x30000000 + 4 * w.toNat) 4)) ∧
       t = { s with sc := t.sc }) ∧
  (∀ (s : State) (n : Fin 8) (w : BitVec 19) (d : Option Word),
     s.answers (.ce n) (0x30000000 + 4 * w.toNat) = true →
     (tcmCe (0x30000000 + 4 * w.toNat)) ≠ n.val →
     ∃ t, exec (.fabricTcmAccess (.ce n) w d) s = .next t ∧
       t = { s with busErr := s.busErr ++ [(.ce n, (0x30000000 + 4 * w.toNat), 0x21)] }) ∧
  (∀ (s : State) (ini : Initiator) (val : Word),
     s.Reaches ini TB_CTRL.addr →
     ∃ t, exec (.tbCtrlWrite ini val) s = .next t ∧
       t.rd TB_CTRL = (s.rd TB_CTRL &&& 0xFFFFFFFC) ||| (val &&& 3) ∧
       s.OnlyRegs t [TB_CTRL.addr]) ∧
  (∀ (s : State) (e : EvEntry),
     evNext s.evl.queue = some e →
     s.ticking = true →
     s.pllA = true →
     s.evl.lastTick ≠ some s.tick →
     e.stamp < s.timebase →
     ∃ t, exec (.evlRecordWrite) s = .next t ∧
       t.get EVL_STATUS_WRIDX = (s.get EVL_STATUS_WRIDX + 1) % 4096 ∧
       t.evl.queue = evRemove e s.evl.queue ∧
       t.evl.lastTick = some s.tick ∧
       t.evl.seq = (s.evl.seq + 1) % 65536 ∧
       t.rdBytes (0x21F80000 + 32 * s.get EVL_STATUS_WRIDX) 8 = leBytes 8 e.stamp ∧
       (∀ a, a < 0x21F80000 + 32 * s.get EVL_STATUS_WRIDX ∨ 0x21F80000 + 32 * s.get EVL_STATUS_WRIDX + 32 ≤ a → t.rdByte a = s.rdByte a)) ∧
  (∀ (s : State),
     evNext s.evl.queue = none ∨ s.ticking = false ∨ s.pllA = false ∨ s.evl.lastTick = some s.tick ∨ (∀ e, evNext s.evl.queue = some e → s.timebase ≤ e.stamp) →
     ∃ t, exec (.evlRecordWrite) s = .next t ∧
       t = s)

/-- With D6 on, a rising command of an enabled, populated channel that no diagnostic run holds sets CMD where its pair has no
interlock or the partner's command neither is on nor rises less than 1 ns apart; the interlock otherwise refuses it: ILKREF
and a count, with CMD as it was. An on-command of a short interval is removed, and one less than 10 ns after a fall waits. The
fall of a command, by its source, the enable or a diagnostic run, clears CMD and ends a refusal. A pad level passes GINFLT
once it has been held for its time. Lost keep-alive frames set LINKLOSS and turn a driven gate off; the channel follows again
once frames have resumed and its command has been off for 1 µs; BIASOK is set when the rails of a supplied isolated channel
reach regulation. Events whose condition fails change nothing (R106 to R110, R149). -/
def Obligations.GateCommandsPassEnableFilterAndInterlock : Prop :=
  (∀ (s : State) (g : Fin 64) (near : Bool) (level : BitVec 10),
     s.gates.length = 64 →
     s.isOn 6 = true →
     s.enabled g.val = true →
     (s.gate g.val).inp = false →
     ∀ f ∈ (s.gate g.val).fallAt, f + 4 ≤ s.now →
     s.is (GD_CFG_ILK_EN (g.val / 2 * 2)) = false ∨ (near = false ∧ s.is (GD_STATUS_CMD (partner g.val)) = false) →
     ∃ t, exec (.gateCommandEdge g false near level) s = .next t ∧
       t.is (GD_STATUS_CMD g.val) = true ∧
       (t.gate g.val).inp = true ∧
       (t.gate g.val).rise = none) ∧
  (∀ (s : State) (g : Fin 64) (near : Bool) (level : BitVec 10),
     s.gates.length = 64 →
     s.isOn 6 = true →
     s.enabled g.val = true →
     (s.gate g.val).inp = false →
     ∀ f ∈ (s.gate g.val).fallAt, f + 4 ≤ s.now →
     s.is (GD_CFG_ILK_EN (g.val / 2 * 2)) = true →
     near = true ∨ s.is (GD_STATUS_CMD (partner g.val)) = true →
     ∃ t, exec (.gateCommandEdge g false near level) s = .next t ∧
       t.is (GD_STATUS_ILKREF g.val) = true ∧
       t.get (GD_CNT0_ILK_CNT g.val) = min (s.get (GD_CNT0_ILK_CNT g.val) + 1) 65535 ∧
       t.is (GD_STATUS_CMD g.val) = s.is (GD_STATUS_CMD g.val) ∧
       t.is (GD_STATUS_GATE g.val) = s.is (GD_STATUS_GATE g.val) ∧
       (t.gate g.val).refused = true ∧
       (t.gate g.val).inp = true) ∧
  (∀ (s : State) (g : Fin 64) (near : Bool) (level : BitVec 10),
     s.isOn 6 = true →
     s.enabled g.val = true →
     (s.gate g.val).inp = false →
     ∃ t, exec (.gateCommandEdge g true near level) s = .next t ∧
       t = s) ∧
  (∀ (s : State) (g : Fin 64) (near : Bool) (level : BitVec 10) (f : Nat),
     s.isOn 6 = true →
     s.enabled g.val = true →
     (s.gate g.val).inp = false →
     (s.gate g.val).fallAt = some f →
     s.now < f + 4 →
     ∃ t, exec (.gateCommandEdge g false near level) s = .next t ∧
       t = s.setGate g.val { (s.gate g.val) with rise := some (f + 4, near) }) ∧
  (∀ (s : State) (g : Fin 64) (short near : Bool) (level : BitVec 10),
     s.gates.length = 64 →
     s.isOn 6 = true →
     s.enabled g.val = false →
     (s.gate g.val).inp = true →
     ∃ t, exec (.gateCommandEdge g short near level) s = .next t ∧
       t.is (GD_STATUS_CMD g.val) = false ∧
       (t.gate g.val).inp = false ∧
       (t.gate g.val).refused = false ∧
       (t.gate g.val).fallAt = some s.now) ∧
  (∀ (s : State) (g : Fin 64) (short near : Bool) (level : BitVec 10),
     s.isOn 6 = false ∨ (s.enabled g.val = true ∧ (s.gate g.val).inp = true) →
     ∃ t, exec (.gateCommandEdge g short near level) s = .next t ∧
       t = s) ∧
  (∀ (s : State) (g : Fin 64) (short near : Bool) (level : BitVec 10),
     s.isOn 6 = true →
     s.enabled g.val = false →
     (s.gate g.val).inp = false →
     ∃ t, exec (.gateCommandEdge g short near level) s = .next t ∧
       t = s.setGate g.val { (s.gate g.val) with rise := none }) ∧
  (∀ (s : State) (g : Fin 64) (up short near : Bool) (v : BitVec 10),
     s.gates.length = 64 →
     s.isOn 6 = true →
     ∃ t, exec (.ginEdge g up short near v) s = .next t ∧
       (t.gate g.val).pad = up ∧
       (t.gate g.val).padAt = (if (s.gate g.val).pad = up then (s.gate g.val).padAt else s.now) ∧
       (t.gate g.val).gin = (if s.ginHold g.val = 0 then up else if (s.gate g.val).padAt + s.ginHold g.val ≤ s.now then (s.gate g.val).pad else (s.gate g.val).gin)) ∧
  (∀ (s : State) (g : Fin 64) (up short near : Bool) (v : BitVec 10),
     s.isOn 6 = false →
     ∃ t, exec (.ginEdge g up short near v) s = .next t ∧
       t = s.setGate g.val { (s.gate g.val) with gin := up, pad := up, padAt := s.now }) ∧
  (∀ (s : State) (g : Fin 64) (level : BitVec 10),
     s.gates.length = 64 →
     s.linkUpGate g.val = true →
     (s.gate g.val).link = false →
     ∃ t, exec (.keepaliveLoss g level) s = .next t ∧
       (t.gate g.val).link = true ∧
       t.is (GD_STATUS_LINKLOSS g.val) = true ∧
       (t.gate g.val).drv = false ∧
       t.is (GD_STATUS_GATE g.val) = (s.is (GD_STATUS_GATE g.val) && !(s.gate g.val).drv)) ∧
  (∀ (s : State) (g : Fin 64) (level : BitVec 10),
     s.linkUpGate g.val = false ∨ (s.gate g.val).link = true →
     ∃ t, exec (.keepaliveLoss g level) s = .next t ∧
       t = s) ∧
  (∀ (s : State) (g : Fin 64) (level : BitVec 10),
     s.gates.length = 64 →
     (s.gate g.val).link = true →
     (s.gate g.val).eff = false →
     (s.gate g.val).effAt + 400 ≤ s.now →
     ∃ t, exec (.linkResume g level) s = .next t ∧
       (t.gate g.val).link = false ∧
       t.is (GD_STATUS_LINKLOSS g.val) = s.is (GD_STATUS_LINKLOSS g.val)) ∧
  (∀ (s : State) (g : Fin 64) (level : BitVec 10),
     (s.gate g.val).link = false ∨ (s.gate g.val).eff = true ∨ s.now < (s.gate g.val).effAt + 400 →
     ∃ t, exec (.linkResume g level) s = .next t ∧
       t = s) ∧
  (∀ (s : State) (g : Fin 64) (level : BitVec 10),
     s.gates.length = 64 →
     isolated g.val = true →
     s.gatePowered g.val = true →
     s.is (GD_STATUS_BIASOK g.val) = false →
     ∃ t, exec (.biasRegulationReached g level) s = .next t ∧
       t.is (GD_STATUS_BIASOK g.val) = true ∧
       (t.gate g.val).link = false ∧
       (t.gate g.val).segs ≠ 0) ∧
  (∀ (s : State) (g : Fin 64) (level : BitVec 10),
     isolated g.val = false ∨ s.gatePowered g.val = false ∨ s.is (GD_STATUS_BIASOK g.val) = true →
     ∃ t, exec (.biasRegulationReached g level) s = .next t ∧
       t = s)

/-- The end of a phase that has lasted its time, less its error, leads to the next phase with a duration, or to the hold state; a
profile write leaves the profile in effect as it was and waits with its value and instant; a loop write queues a reload of the
count for each direction that it enables. A measured edge whose levels are stored, whose switched voltage reaches VSWMIN and
whose two crossings lie in the measurement window reports VALID, its count, T2080 and DVDT; otherwise it reports the first
cause of 1, 2, 4 and 5 and is counted. An edge that is not under measurement reports nothing, and channels that have no
profile ignore the writes (R6, R111, R114 to R117, R120, R129). -/
def Obligations.ProfilesEdgesAndTheLoop : Prop :=
  (∀ (s : State) (g : Fin 64),
     s.gates.length = 64 →
     isolated g.val = true →
     (s.gate g.val).phase ≠ 0 →
     97 * phaseTime (s.gate g.val).prof.toNat (s.gate g.val).phase ≤ 25 * (s.now - (s.gate g.val).phaseAt) + 20 →
     ∃ t, exec (.edgePhaseEnd g) s = .next t ∧
       (t.gate g.val).phase = (if (s.gate g.val).phase = 4 then 0 else if (s.gate g.val).phase = 1 ∧ bitsOf 13 8 (s.gate g.val).prof.toNat ≠ 0 then 2 else if ((s.gate g.val).phase = 1 ∨ (s.gate g.val).phase = 2) ∧ bitsOf 21 16 (s.gate g.val).prof.toNat ≠ 0 then 3 else 0) ∧
       (t.gate g.val).phaseAt = s.now ∧
       t = { s with gates := t.gates }) ∧
  (∀ (s : State) (g : Fin 64),
     isolated g.val = false ∨ (s.gate g.val).phase = 0 ∨ 25 * (s.now - (s.gate g.val).phaseAt) + 20 < 97 * phaseTime (s.gate g.val).prof.toNat (s.gate g.val).phase →
     ∃ t, exec (.edgePhaseEnd g) s = .next t ∧
       t = s) ∧
  (∀ (s : State) (ini : Initiator) (g : Fin 64) (on : Bool) (val : Word),
     s.gates.length = 64 →
     s.Reaches ini (profReg g.val on).addr →
     s.gatePopulated g.val = true →
     isolated g.val = true →
     ∃ t, exec (.gdProfileWrite ini g on val) s = .next t ∧
       t.rd (profReg g.val on) = (s.rd (profReg g.val on) &&& 0xFF000000) ||| (val &&& 0xFFFFFF) ∧
       t.rd (profFld g.val on) = s.rd (profFld g.val on) ∧
       (if on then (t.gate g.val).shOn else (t.gate g.val).shOff) = (if on then (s.gate g.val).shOn else (s.gate g.val).shOff) ++ [(s.now, t.rd (profReg g.val on), s.is (loopEn g.val on))] ∧
       t = { s with regs := t.regs, gates := t.gates }) ∧
  (∀ (s : State) (ini : Initiator) (g : Fin 64) (on : Bool) (val : Word),
     s.Reaches ini (profReg g.val on).addr →
     s.gatePopulated g.val = false ∨ isolated g.val = false →
     ∃ t, exec (.gdProfileWrite ini g on val) s = .next t ∧
       t = s) ∧
  (∀ (s : State) (ini : Initiator) (g : Fin 64) (val : Word),
     s.gates.length = 64 →
     s.Reaches ini (GD_LOOP g.val).addr →
     s.gatePopulated g.val = true →
     isolated g.val = true →
     ∃ t, exec (.gdLoopWrite ini g val) s = .next t ∧
       t.is (GD_LOOP_EN_ON g.val) = val.getLsbD 0 ∧
       t.is (GD_LOOP_EN_OFF g.val) = val.getLsbD 1 ∧
       t.is (GD_LOOP_FREEZE g.val) = val.getLsbD 2 ∧
       t.get (GD_LOOP_CEIL g.val) = (if s.is GDG_LOCK_CFG_LOCK then s.get (GD_LOOP_CEIL g.val) else bitsOf 29 20 val.toNat) ∧
       (t.gate g.val).shOn = (s.gate g.val).shOn ++ (if val.getLsbD 0 && !s.is (GD_LOOP_EN_ON g.val) then [(s.now, s.rd (GD_PROFILE_ON g.val), true)] else []) ∧
       (t.gate g.val).shOff = (s.gate g.val).shOff ++ (if val.getLsbD 1 && !s.is (GD_LOOP_EN_OFF g.val) then [(s.now, s.rd (GD_PROFILE_OFF g.val), true)] else []) ∧
       s.OnlyRegs { t with gates := s.gates } [(GD_LOOP g.val).addr]) ∧
  (∀ (s : State) (ini : Initiator) (g : Fin 64) (val : Word),
     s.Reaches ini (GD_LOOP g.val).addr →
     s.gatePopulated g.val = false ∨ isolated g.val = false →
     ∃ t, exec (.gdLoopWrite ini g val) s = .next t ∧
       t = s) ∧
  (∀ (s : State) (g : Fin 64) (n : Fin 4) (a b : Fin 65536),
     s.gates.length = 64 →
     (s.gate g.val).monOn = some (n.val, false) →
     (s.gate g.val).levOn = true →
     (s.gate g.val).levOff = true →
     s.get (GD_SENSE_SNSK g.val) ≠ 0 →
     1000 * (s.get (GD_SENSE_VSWMIN g.val) : Int) ≤ s.switched g.val →
     max a.val b.val < s.measWin g.val →
     (max a.val b.val - min a.val b.val) ≤ 4095 →
     ∃ t, exec (.edgeMeasured g true (some (a.val, b.val))) s = .next t ∧
       t.is (GD_EDGE_ON_VALID g.val) = true ∧
       t.get (GD_EDGE_ON_N g.val) = n.val ∧
       t.get (GD_EDGE_ON_T2080 g.val) = (max a.val b.val - min a.val b.val) ∧
       t.get (GD_EDGE_ON_DVDT g.val) = dvdtOf (s.get (GD_LEVELS_VOFF g.val) - s.get (GD_LEVELS_VON g.val)) (s.get (GD_SENSE_SNSK g.val)) (max a.val b.val - min a.val b.val) ∧
       (t.gate g.val).monOn = none) ∧
  (∀ (s : State) (g : Fin 64) (n : Fin 4) (bad : Bool) (x : Option (Nat × Nat)),
     s.gates.length = 64 →
     (s.gate g.val).monOn = some (n.val, bad) →
     (s.gate g.val).levOn = false ∨ (s.gate g.val).levOff = false ∨ s.get (GD_SENSE_SNSK g.val) = 0 ∨ s.switched g.val < 1000 * (s.get (GD_SENSE_VSWMIN g.val) : Int) →
     ∃ t, exec (.edgeMeasured g true x) s = .next t ∧
       t.is (GD_EDGE_ON_VALID g.val) = false ∧
       t.get (GD_EDGE_ON_CAUSE g.val) = 1 ∧
       t.get (GD_EDGE_ON_N g.val) = n.val ∧
       t.get (GD_CNT1_INVAL_CNT g.val) = min (s.get (GD_CNT1_INVAL_CNT g.val) + 1) 65535 ∧
       (t.gate g.val).monOn = none) ∧
  (∀ (s : State) (g : Fin 64) (n : Fin 4) (bad : Bool),
     s.gates.length = 64 →
     (s.gate g.val).monOn = some (n.val, bad) →
     (s.gate g.val).levOn = true →
     (s.gate g.val).levOff = true →
     s.get (GD_SENSE_SNSK g.val) ≠ 0 →
     1000 * (s.get (GD_SENSE_VSWMIN g.val) : Int) ≤ s.switched g.val →
     ∃ t, exec (.edgeMeasured g true none) s = .next t ∧
       t.is (GD_EDGE_ON_VALID g.val) = false ∧
       t.get (GD_EDGE_ON_CAUSE g.val) = 2 ∧
       t.get (GD_EDGE_ON_N g.val) = n.val ∧
       t.get (GD_CNT1_INVAL_CNT g.val) = min (s.get (GD_CNT1_INVAL_CNT g.val) + 1) 65535 ∧
       (t.gate g.val).monOn = none) ∧
  (∀ (s : State) (g : Fin 64) (n : Fin 4) (bad : Bool) (a b : Fin 65536),
     s.gates.length = 64 →
     (s.gate g.val).monOn = some (n.val, bad) →
     (s.gate g.val).levOn = true →
     (s.gate g.val).levOff = true →
     s.get (GD_SENSE_SNSK g.val) ≠ 0 →
     1000 * (s.get (GD_SENSE_VSWMIN g.val) : Int) ≤ s.switched g.val →
     s.measWin g.val ≤ max a.val b.val →
     ∃ t, exec (.edgeMeasured g true (some (a.val, b.val))) s = .next t ∧
       t.is (GD_EDGE_ON_VALID g.val) = false ∧
       t.get (GD_EDGE_ON_CAUSE g.val) = 2 ∧
       t.get (GD_EDGE_ON_N g.val) = n.val ∧
       t.get (GD_CNT1_INVAL_CNT g.val) = min (s.get (GD_CNT1_INVAL_CNT g.val) + 1) 65535 ∧
       (t.gate g.val).monOn = none) ∧
  (∀ (s : State) (g : Fin 64) (n : Fin 4) (bad : Bool) (a b : Fin 65536),
     s.gates.length = 64 →
     (s.gate g.val).monOn = some (n.val, bad) →
     (s.gate g.val).levOn = true →
     (s.gate g.val).levOff = true →
     s.get (GD_SENSE_SNSK g.val) ≠ 0 →
     1000 * (s.get (GD_SENSE_VSWMIN g.val) : Int) ≤ s.switched g.val →
     max a.val b.val < s.measWin g.val →
     4095 < (max a.val b.val - min a.val b.val) →
     ∃ t, exec (.edgeMeasured g true (some (a.val, b.val))) s = .next t ∧
       t.is (GD_EDGE_ON_VALID g.val) = false ∧
       t.get (GD_EDGE_ON_CAUSE g.val) = 4 ∧
       t.get (GD_EDGE_ON_N g.val) = n.val ∧
       t.get (GD_CNT1_INVAL_CNT g.val) = min (s.get (GD_CNT1_INVAL_CNT g.val) + 1) 65535 ∧
       (t.gate g.val).monOn = none) ∧
  (∀ (s : State) (g : Fin 64) (n : Fin 4) (a b : Fin 65536),
     s.gates.length = 64 →
     (s.gate g.val).monOn = some (n.val, true) →
     (s.gate g.val).levOn = true →
     (s.gate g.val).levOff = true →
     s.get (GD_SENSE_SNSK g.val) ≠ 0 →
     1000 * (s.get (GD_SENSE_VSWMIN g.val) : Int) ≤ s.switched g.val →
     max a.val b.val < s.measWin g.val →
     (max a.val b.val - min a.val b.val) ≤ 4095 →
     ∃ t, exec (.edgeMeasured g true (some (a.val, b.val))) s = .next t ∧
       t.is (GD_EDGE_ON_VALID g.val) = false ∧
       t.get (GD_EDGE_ON_CAUSE g.val) = 5 ∧
       t.get (GD_EDGE_ON_N g.val) = n.val ∧
       t.get (GD_CNT1_INVAL_CNT g.val) = min (s.get (GD_CNT1_INVAL_CNT g.val) + 1) 65535 ∧
       (t.gate g.val).monOn = none) ∧
  (∀ (s : State) (g : Fin 64) (x : Option (Nat × Nat)),
     (s.gate g.val).monOn = none →
     ∃ t, exec (.edgeMeasured g true x) s = .next t ∧
       t = s) ∧
  (∀ (s : State) (g : Fin 64) (n : Fin 4) (a b : Fin 65536),
     s.gates.length = 64 →
     (s.gate g.val).monOff = some (n.val, false) →
     (s.gate g.val).levOn = true →
     (s.gate g.val).levOff = true →
     s.get (GD_SENSE_SNSK g.val) ≠ 0 →
     1000 * (s.get (GD_SENSE_VSWMIN g.val) : Int) ≤ s.switched g.val →
     max a.val b.val < s.measWin g.val →
     (max a.val b.val - min a.val b.val) ≤ 4095 →
     ∃ t, exec (.edgeMeasured g false (some (a.val, b.val))) s = .next t ∧
       t.is (GD_EDGE_OFF_VALID g.val) = true ∧
       t.get (GD_EDGE_OFF_N g.val) = n.val ∧
       t.get (GD_EDGE_OFF_T2080 g.val) = (max a.val b.val - min a.val b.val) ∧
       t.get (GD_EDGE_OFF_DVDT g.val) = dvdtOf (s.get (GD_LEVELS_VOFF g.val) - s.get (GD_LEVELS_VON g.val)) (s.get (GD_SENSE_SNSK g.val)) (max a.val b.val - min a.val b.val) ∧
       (t.gate g.val).monOff = none) ∧
  (∀ (s : State) (g : Fin 64) (n : Fin 4) (bad : Bool) (x : Option (Nat × Nat)),
     s.gates.length = 64 →
     (s.gate g.val).monOff = some (n.val, bad) →
     (s.gate g.val).levOn = false ∨ (s.gate g.val).levOff = false ∨ s.get (GD_SENSE_SNSK g.val) = 0 ∨ s.switched g.val < 1000 * (s.get (GD_SENSE_VSWMIN g.val) : Int) →
     ∃ t, exec (.edgeMeasured g false x) s = .next t ∧
       t.is (GD_EDGE_OFF_VALID g.val) = false ∧
       t.get (GD_EDGE_OFF_CAUSE g.val) = 1 ∧
       t.get (GD_EDGE_OFF_N g.val) = n.val ∧
       t.get (GD_CNT1_INVAL_CNT g.val) = min (s.get (GD_CNT1_INVAL_CNT g.val) + 1) 65535 ∧
       (t.gate g.val).monOff = none) ∧
  (∀ (s : State) (g : Fin 64) (n : Fin 4) (bad : Bool),
     s.gates.length = 64 →
     (s.gate g.val).monOff = some (n.val, bad) →
     (s.gate g.val).levOn = true →
     (s.gate g.val).levOff = true →
     s.get (GD_SENSE_SNSK g.val) ≠ 0 →
     1000 * (s.get (GD_SENSE_VSWMIN g.val) : Int) ≤ s.switched g.val →
     ∃ t, exec (.edgeMeasured g false none) s = .next t ∧
       t.is (GD_EDGE_OFF_VALID g.val) = false ∧
       t.get (GD_EDGE_OFF_CAUSE g.val) = 2 ∧
       t.get (GD_EDGE_OFF_N g.val) = n.val ∧
       t.get (GD_CNT1_INVAL_CNT g.val) = min (s.get (GD_CNT1_INVAL_CNT g.val) + 1) 65535 ∧
       (t.gate g.val).monOff = none) ∧
  (∀ (s : State) (g : Fin 64) (n : Fin 4) (bad : Bool) (a b : Fin 65536),
     s.gates.length = 64 →
     (s.gate g.val).monOff = some (n.val, bad) →
     (s.gate g.val).levOn = true →
     (s.gate g.val).levOff = true →
     s.get (GD_SENSE_SNSK g.val) ≠ 0 →
     1000 * (s.get (GD_SENSE_VSWMIN g.val) : Int) ≤ s.switched g.val →
     s.measWin g.val ≤ max a.val b.val →
     ∃ t, exec (.edgeMeasured g false (some (a.val, b.val))) s = .next t ∧
       t.is (GD_EDGE_OFF_VALID g.val) = false ∧
       t.get (GD_EDGE_OFF_CAUSE g.val) = 2 ∧
       t.get (GD_EDGE_OFF_N g.val) = n.val ∧
       t.get (GD_CNT1_INVAL_CNT g.val) = min (s.get (GD_CNT1_INVAL_CNT g.val) + 1) 65535 ∧
       (t.gate g.val).monOff = none) ∧
  (∀ (s : State) (g : Fin 64) (n : Fin 4) (bad : Bool) (a b : Fin 65536),
     s.gates.length = 64 →
     (s.gate g.val).monOff = some (n.val, bad) →
     (s.gate g.val).levOn = true →
     (s.gate g.val).levOff = true →
     s.get (GD_SENSE_SNSK g.val) ≠ 0 →
     1000 * (s.get (GD_SENSE_VSWMIN g.val) : Int) ≤ s.switched g.val →
     max a.val b.val < s.measWin g.val →
     4095 < (max a.val b.val - min a.val b.val) →
     ∃ t, exec (.edgeMeasured g false (some (a.val, b.val))) s = .next t ∧
       t.is (GD_EDGE_OFF_VALID g.val) = false ∧
       t.get (GD_EDGE_OFF_CAUSE g.val) = 4 ∧
       t.get (GD_EDGE_OFF_N g.val) = n.val ∧
       t.get (GD_CNT1_INVAL_CNT g.val) = min (s.get (GD_CNT1_INVAL_CNT g.val) + 1) 65535 ∧
       (t.gate g.val).monOff = none) ∧
  (∀ (s : State) (g : Fin 64) (n : Fin 4) (a b : Fin 65536),
     s.gates.length = 64 →
     (s.gate g.val).monOff = some (n.val, true) →
     (s.gate g.val).levOn = true →
     (s.gate g.val).levOff = true →
     s.get (GD_SENSE_SNSK g.val) ≠ 0 →
     1000 * (s.get (GD_SENSE_VSWMIN g.val) : Int) ≤ s.switched g.val →
     max a.val b.val < s.measWin g.val →
     (max a.val b.val - min a.val b.val) ≤ 4095 →
     ∃ t, exec (.edgeMeasured g false (some (a.val, b.val))) s = .next t ∧
       t.is (GD_EDGE_OFF_VALID g.val) = false ∧
       t.get (GD_EDGE_OFF_CAUSE g.val) = 5 ∧
       t.get (GD_EDGE_OFF_N g.val) = n.val ∧
       t.get (GD_CNT1_INVAL_CNT g.val) = min (s.get (GD_CNT1_INVAL_CNT g.val) + 1) 65535 ∧
       (t.gate g.val).monOff = none) ∧
  (∀ (s : State) (g : Fin 64) (x : Option (Nat × Nat)),
     (s.gate g.val).monOff = none →
     ∃ t, exec (.edgeMeasured g false x) s = .next t ∧
       t = s)

/-- A powered high side with refresh enabled that has been on for T_REFRESH starts a refresh with its output off and is counted; a
step whose time has passed leads from the guard to the low-side pulse, from the pulse to the last guard, and from that to the
high side on again unless BUV holds; where the high-side command has fallen, the refresh ends with the step and the output
stays as it is. An undervoltage of BST - SW under 8.0 V sets BUV and ends the output and the refresh; a clear of BUV takes
effect only from 9.0 V on. Events whose condition fails change nothing (R6, R126 to R129). -/
def Obligations.BootstrapRefreshAndUndervoltage : Prop :=
  (∀ (s : State) (g : Fin 64),
     s.gates.length = 64 →
     bootHigh g.val = true →
     s.gatePowered g.val = true →
     s.is (GD_BOOT_RF_EN g.val) = true →
     (s.gate g.val).drv = true →
     s.is (GD_STATUS_GATE g.val) = true →
     (s.gate g.val).refresh = 0 →
     (s.gate g.val).gateAt + s.tRefresh g.val ≤ s.now →
     ∃ t, exec (.bootRefreshStart g) s = .next t ∧
       (t.gate g.val).refresh = 1 ∧
       (t.gate g.val).refAt = s.now ∧
       t.is (GD_STATUS_GATE g.val) = false ∧
       t.is (GD_STATUS_RFACT g.val) = true ∧
       t.get (GD_CNT1_RF_CNT g.val) = min (s.get (GD_CNT1_RF_CNT g.val) + 1) 65535 ∧
       t = { s with regs := t.regs, gates := t.gates }) ∧
  (∀ (s : State) (g : Fin 64),
     bootHigh g.val = false ∨ s.gatePowered g.val = false ∨ s.is (GD_BOOT_RF_EN g.val) = false ∨ (s.gate g.val).drv = false ∨ s.is (GD_STATUS_GATE g.val) = false ∨ (s.gate g.val).refresh ≠ 0 ∨ s.now < (s.gate g.val).gateAt + s.tRefresh g.val →
     ∃ t, exec (.bootRefreshStart g) s = .next t ∧
       t = s) ∧
  (∀ (s : State) (g : Fin 64),
     s.gates.length = 64 →
     bootHigh g.val = true →
     (s.gate g.val).refresh = 1 ∨ (s.gate g.val).refresh = 2 →
     (s.gate g.val).refAt + s.refreshMin g.val ≤ s.now →
     (s.gate g.val).drv = true →
     (s.gate g.val).refEnd = false →
     ∃ t, exec (.bootRefreshStep g) s = .next t ∧
       (t.gate g.val).refresh = (s.gate g.val).refresh + 1 ∧
       (t.gate g.val).refAt = s.now ∧
       t.is (GD_STATUS_GATE (g.val + 1)) = ((s.gate (g.val + 1)).drv || (s.forcedCmd (g.val + 1) != some false && s.gatePowered (g.val + 1) && ((s.gate g.val).refresh == 1 || (s.is (GD_STATUS_BUV g.val) && s.is (GD_BOOT_BUV_LSON g.val) && decide ((s.gate g.val).buvAt + s.rfGuard g.val ≤ s.now))))) ∧
       t.is (GD_STATUS_GATE g.val) = s.is (GD_STATUS_GATE g.val) ∧
       t.is (GD_STATUS_RFACT g.val) = s.is (GD_STATUS_RFACT g.val)) ∧
  (∀ (s : State) (g : Fin 64),
     s.gates.length = 64 →
     bootHigh g.val = true →
     (s.gate g.val).refresh = 3 →
     (s.gate g.val).refAt + s.refreshMin g.val ≤ s.now →
     (s.gate g.val).drv = true →
     (s.gate g.val).refEnd = false →
     ∃ t, exec (.bootRefreshStep g) s = .next t ∧
       (t.gate g.val).refresh = 0 ∧
       t.is (GD_STATUS_RFACT g.val) = false ∧
       t.is (GD_STATUS_GATE g.val) = (s.is (GD_STATUS_GATE g.val) || !s.is (GD_STATUS_BUV g.val))) ∧
  (∀ (s : State) (g : Fin 64),
     s.gates.length = 64 →
     bootHigh g.val = true →
     (s.gate g.val).refresh ≠ 0 →
     (s.gate g.val).refAt + s.refreshMin g.val ≤ s.now →
     (s.gate g.val).drv = false ∨ (s.gate g.val).refEnd = true →
     ∃ t, exec (.bootRefreshStep g) s = .next t ∧
       (t.gate g.val).refresh = 0 ∧
       (t.gate g.val).refEnd = false ∧
       t.is (GD_STATUS_RFACT g.val) = false ∧
       t.is (GD_STATUS_GATE g.val) = s.is (GD_STATUS_GATE g.val)) ∧
  (∀ (s : State) (g : Fin 64),
     bootHigh g.val = false ∨ (s.gate g.val).refresh = 0 ∨ s.now < (s.gate g.val).refAt + s.refreshMin g.val →
     ∃ t, exec (.bootRefreshStep g) s = .next t ∧
       t = s) ∧
  (∀ (s : State) (g : Fin 64) (v : Int),
     s.gates.length = 64 →
     bootHigh g.val = true →
     s.gatePowered g.val = true →
     s.is (GD_STATUS_BUV g.val) = false →
     v < 8000000 →
     ∃ t, exec (.bootUndervoltage g v) s = .next t ∧
       t.is (GD_STATUS_BUV g.val) = true ∧
       t.is (GD_STATUS_GATE g.val) = false ∧
       t.is (GD_STATUS_RFACT g.val) = false ∧
       (t.gate g.val).refresh = 0 ∧
       (t.gate g.val).buvAt = s.now) ∧
  (∀ (s : State) (g : Fin 64) (v : Int),
     bootHigh g.val = false ∨ s.gatePowered g.val = false ∨ s.is (GD_STATUS_BUV g.val) = true ∨ 8000000 ≤ v →
     ∃ t, exec (.bootUndervoltage g v) s = .next t ∧
       t = s) ∧
  (∀ (s : State) (ini : Initiator) (g : Fin 64) (val : Word) (v : Int),
     s.Reaches ini (GD_STATUS g.val).addr →
     s.gatePopulated g.val = true →
     ∃ t, exec (.gdBuvClear ini g val v) s = .next t ∧
       t.is (GD_STATUS_BUV g.val) = (s.is (GD_STATUS_BUV g.val) && !(decide (9000000 ≤ v) && (s.rdWas (GD_STATUS g.val)).getLsbD 11)) ∧
       s.OnlyRegs t [(GD_STATUS g.val).addr, (GD_STATUS (g.val + 1)).addr]) ∧
  (∀ (s : State) (ini : Initiator) (g : Fin 64) (val : Word) (v : Int),
     s.Reaches ini (GD_STATUS g.val).addr →
     s.gatePopulated g.val = false →
     ∃ t, exec (.gdBuvClear ini g val v) s = .next t ∧
       t = s)

/-- The di/dt detector arms 15 to 25 ns and the desaturation detector its blanking time after the gate's on-command; a detection
by an armed, enabled one while the command is on or less than 50 ns off, above the threshold that PROT sets, latches its bit,
starts soft turn-off and holds the gate off. The end of soft turn-off clears SOFTACT and enters the hold state. A rail under
the threshold of its setting latches UVP or UVN; UVP, and UVN with NUV_ACT, holds the gate off. The Miller clamp engages below
its threshold with the gate off. A write of 1 clears a latched bit with the command off and soft turn-off ended, an
undervoltage only past its release threshold; otherwise it stays and CLRREJ is set; UVN without NUV_ACT clears at once. A
diagnostic run holds no domain switched on where a fault or a clear may abort it. Events whose condition fails change nothing
(R131, R133, R135 to R137, R139 to R141). -/
def Obligations.ShortCircuitProtectionLatches : Prop :=
  (∀ (s : State) (g : Fin 64),
     s.gates.length = 64 →
     isolated g.val = true →
     (s.gate g.val).drv = true →
     s.is (GD_STATUS_GATE g.val) = true →
     s.is (GD_PROT_DIDT_EN g.val) = true →
     (s.gate g.val).drvAt + 6 ≤ s.now →
     ∃ t, exec (.didtArm g) s = .next t ∧
       (t.gate g.val).didt = true ∧
       t = s.setGate g.val { (s.gate g.val) with didt := true }) ∧
  (∀ (s : State) (g : Fin 64),
     isolated g.val = false ∨ (s.gate g.val).drv = false ∨ s.is (GD_STATUS_GATE g.val) = false ∨ s.is (GD_PROT_DIDT_EN g.val) = false ∨ s.now < (s.gate g.val).drvAt + 6 →
     ∃ t, exec (.didtArm g) s = .next t ∧
       t = s) ∧
  (∀ (s : State) (g : Fin 64),
     s.gates.length = 64 →
     isolated g.val = true →
     (s.gate g.val).drv = true →
     s.is (GD_STATUS_GATE g.val) = true →
     s.is (GD_PROT_DSAT_EN g.val) = true →
     97 * s.blank g.val ≤ 250 * (s.now - (s.gate g.val).drvAt) + 1000 →
     ∃ t, exec (.dsatBlankEnd g) s = .next t ∧
       (t.gate g.val).dsat = true ∧
       t = s.setGate g.val { (s.gate g.val) with dsat := true }) ∧
  (∀ (s : State) (g : Fin 64),
     isolated g.val = false ∨ (s.gate g.val).drv = false ∨ s.is (GD_STATUS_GATE g.val) = false ∨ s.is (GD_PROT_DSAT_EN g.val) = false ∨ 250 * (s.now - (s.gate g.val).drvAt) + 1000 < 97 * s.blank g.val →
     ∃ t, exec (.dsatBlankEnd g) s = .next t ∧
       t = s) ∧
  (∀ (s : State) (g : Fin 64) (v : Int),
     s.gates.length = 64 →
     s.osd.doms = [] →
     isolated g.val = true →
     s.gatePowered g.val = true →
     (s.gate g.val).didt = true →
     s.is (GD_PROT_DIDT_EN g.val) = true →
     (s.gate g.val).drv = true ∨ s.now < (s.gate g.val).drvAt + 20 →
     6200000 + 1800000 * (s.get (GD_PROT_DIDT_TH g.val) : Int) < 31 * v →
     s.is (GD_PFLT_DIDT g.val) = false →
     s.is (GD_PFLT_SOFTACT g.val) = false ∨ s.now - s.cyc % 4 ≤ (s.gate g.val).softAt →
     ∃ t, exec (.didtDetect g v) s = .next t ∧
       t.is (GD_PFLT_DIDT g.val) = true ∧
       t.is (GD_PFLT_SOFTACT g.val) = true ∧
       t.gateHeld g.val = true) ∧
  (∀ (s : State) (g : Fin 64) (v : Int),
     isolated g.val = false ∨ s.gatePowered g.val = false ∨ (s.gate g.val).didt = false ∨ s.is (GD_PROT_DIDT_EN g.val) = false ∨ ((s.gate g.val).drv = false ∧ (s.gate g.val).drvAt + 20 ≤ s.now) ∨ 31 * v ≤ 6200000 + 1800000 * (s.get (GD_PROT_DIDT_TH g.val) : Int) ∨ s.is (GD_PFLT_DIDT g.val) = true ∨ (s.is (GD_PFLT_SOFTACT g.val) = true ∧ (s.gate g.val).softAt < s.now - s.cyc % 4) →
     ∃ t, exec (.didtDetect g v) s = .next t ∧
       t = s) ∧
  (∀ (s : State) (g : Fin 64) (v : Int),
     s.gates.length = 64 →
     s.osd.doms = [] →
     isolated g.val = true →
     s.gatePowered g.val = true →
     (s.gate g.val).dsat = true →
     s.is (GD_PROT_DSAT_EN g.val) = true →
     (s.gate g.val).drv = true ∨ s.now < (s.gate g.val).drvAt + 20 →
     4000000 + 500000 * ((min 16 (s.get (GD_PROT_DSAT_TH g.val)) : Nat) : Int) < v →
     s.is (GD_PFLT_DSAT g.val) = false →
     s.is (GD_PFLT_SOFTACT g.val) = false ∨ s.now - s.cyc % 4 ≤ (s.gate g.val).softAt →
     ∃ t, exec (.dsatDetect g v) s = .next t ∧
       t.is (GD_PFLT_DSAT g.val) = true ∧
       t.is (GD_PFLT_SOFTACT g.val) = true ∧
       t.gateHeld g.val = true) ∧
  (∀ (s : State) (g : Fin 64) (v : Int),
     isolated g.val = false ∨ s.gatePowered g.val = false ∨ (s.gate g.val).dsat = false ∨ s.is (GD_PROT_DSAT_EN g.val) = false ∨ ((s.gate g.val).drv = false ∧ (s.gate g.val).drvAt + 20 ≤ s.now) ∨ v ≤ 4000000 + 500000 * ((min 16 (s.get (GD_PROT_DSAT_TH g.val)) : Nat) : Int) ∨ s.is (GD_PFLT_DSAT g.val) = true ∨ (s.is (GD_PFLT_SOFTACT g.val) = true ∧ (s.gate g.val).softAt < s.now - s.cyc % 4) →
     ∃ t, exec (.dsatDetect g v) s = .next t ∧
       t = s) ∧
  (∀ (s : State) (g : Fin 64),
     s.gates.length = 64 →
     s.is (GD_PFLT_SOFTACT g.val) = true →
     95 * s.softTime g.val ≤ 100 * (s.now - (s.gate g.val).softAt) →
     ∃ t, exec (.softTurnoffEnd g) s = .next t ∧
       t.is (GD_PFLT_SOFTACT g.val) = false ∧
       (t.gate g.val).phase = 4 ∧
       (t.gate g.val).segs = 4 ∧
       s.OnlyRegs { t with gates := s.gates } [(GD_PFLT g.val).addr] ∧
       t.is (GD_PFLT_DIDT g.val) = s.is (GD_PFLT_DIDT g.val)) ∧
  (∀ (s : State) (g : Fin 64),
     s.is (GD_PFLT_SOFTACT g.val) = false ∨ 100 * (s.now - (s.gate g.val).softAt) < 95 * s.softTime g.val →
     ∃ t, exec (.softTurnoffEnd g) s = .next t ∧
       t = s) ∧
  (∀ (s : State) (g : Fin 64) (v : Int),
     s.linkUpGate g.val = true →
     s.is (GD_PFLT_UVN g.val) = false →
     s.is (GD_PROT_NUV_ACT g.val) = false →
     railBad (s.gate g.val) true v = true →
     ∃ t, exec (.railUndervoltage g true v) s = .next t ∧
       t.is (GD_PFLT_UVN g.val) = true ∧
       t.is (GD_STATUS_GATE g.val) = s.is (GD_STATUS_GATE g.val) ∧
       t.gateHeld g.val = s.gateHeld g.val ∧
       t.irqs.take (s.irqs.length + 1) = s.irqs ++ [s.irqNow (.sc) ((GD_PFLT g.val).addr) (0)]) ∧
  (∀ (s : State) (g : Fin 64) (v : Int),
     s.gates.length = 64 →
     s.osd.doms = [] →
     s.linkUpGate g.val = true →
     s.is (GD_PFLT_UVN g.val) = false →
     s.is (GD_PROT_NUV_ACT g.val) = true →
     railBad (s.gate g.val) true v = true →
     ∃ t, exec (.railUndervoltage g true v) s = .next t ∧
       t.is (GD_PFLT_UVN g.val) = true ∧
       t.gateHeld g.val = true) ∧
  (∀ (s : State) (g : Fin 64) (v : Int),
     s.gates.length = 64 →
     s.osd.doms = [] →
     s.linkUpGate g.val = true →
     s.is (GD_PFLT_UVP g.val) = false →
     railBad (s.gate g.val) false v = true →
     ∃ t, exec (.railUndervoltage g false v) s = .next t ∧
       t.is (GD_PFLT_UVP g.val) = true ∧
       t.gateHeld g.val = true) ∧
  (∀ (s : State) (g : Fin 64) (neg : Bool) (v : Int),
     s.linkUpGate g.val = false ∨ s.is (if neg then GD_PFLT_UVN g.val else GD_PFLT_UVP g.val) = true ∨ railBad (s.gate g.val) neg v = false →
     ∃ t, exec (.railUndervoltage g neg v) s = .next t ∧
       t = s) ∧
  (∀ (s : State) (g : Fin 64) (v : Int),
     s.linkUpGate g.val = true →
     s.is (GD_STATUS_GATE g.val) = false →
     s.get (GD_PROT_MCL_TH g.val) ≠ 0 →
     v < 1000000 + 500000 * (s.get (GD_PROT_MCL_TH g.val) : Int) →
     ∃ t, exec (.millerClampEngage g v) s = .next t ∧
       t.is (GD_PFLT_MCLAMP g.val) = true ∧
       s.OnlyRegs t [(GD_PFLT g.val).addr]) ∧
  (∀ (s : State) (g : Fin 64) (v : Int),
     s.linkUpGate g.val = false ∨ s.is (GD_STATUS_GATE g.val) = true ∨ s.get (GD_PROT_MCL_TH g.val) = 0 ∨ 1000000 + 500000 * (s.get (GD_PROT_MCL_TH g.val) : Int) ≤ v →
     ∃ t, exec (.millerClampEngage g v) s = .next t ∧
       t = s) ∧
  (∀ (s : State) (ini : Initiator) (g : Fin 64) (val : Word) (pos neg : Int),
     s.gates.length = 64 →
     s.osd.doms = [] →
     s.Reaches ini (GD_PFLT g.val).addr →
     isolated g.val = true →
     s.gatePopulated g.val = true →
     s.is (GD_STATUS_CMD g.val) = false →
     s.is (GD_PFLT_SOFTACT g.val) = false →
     ∃ t, exec (.pfltClear ini g val pos neg) s = .next t ∧
       t.is (GD_PFLT_DIDT g.val) = (s.is (GD_PFLT_DIDT g.val) && !(val.getLsbD 0 && (s.rdWas (GD_PFLT g.val)).getLsbD 0)) ∧
       t.is (GD_PFLT_DSAT g.val) = (s.is (GD_PFLT_DSAT g.val) && !(val.getLsbD 1 && (s.rdWas (GD_PFLT g.val)).getLsbD 1)) ∧
       t.is (GD_PFLT_UVP g.val) = (s.is (GD_PFLT_UVP g.val) && !(val.getLsbD 3 && (s.rdWas (GD_PFLT g.val)).getLsbD 3 && railGood (s.gate g.val) false pos)) ∧
       t.is (GD_PFLT_UVN g.val) = (s.is (GD_PFLT_UVN g.val) && !(val.getLsbD 4 && (s.rdWas (GD_PFLT g.val)).getLsbD 4 && (!s.is (GD_PROT_NUV_ACT g.val) || railGood (s.gate g.val) true neg)))) ∧
  (∀ (s : State) (ini : Initiator) (g : Fin 64) (val : Word) (pos neg : Int),
     s.gates.length = 64 →
     s.osd.doms = [] →
     s.Reaches ini (GD_PFLT g.val).addr →
     isolated g.val = true →
     s.gatePopulated g.val = true →
     s.is (GD_STATUS_CMD g.val) = true ∨ s.is (GD_PFLT_SOFTACT g.val) = true →
     ∃ t, exec (.pfltClear ini g val pos neg) s = .next t ∧
       t.is (GD_PFLT_DIDT g.val) = s.is (GD_PFLT_DIDT g.val) ∧
       t.is (GD_PFLT_DSAT g.val) = s.is (GD_PFLT_DSAT g.val) ∧
       t.is (GD_PFLT_UVP g.val) = s.is (GD_PFLT_UVP g.val) ∧
       t.is (GD_PFLT_UVN g.val) = (s.is (GD_PFLT_UVN g.val) && !(val.getLsbD 4 && (s.rdWas (GD_PFLT g.val)).getLsbD 4 && !s.is (GD_PROT_NUV_ACT g.val))) ∧
       (val &&& s.rd (GD_PFLT g.val) &&& s.rdWas (GD_PFLT g.val) &&& 0xB ≠ 0 → t.is (GD_PFLT_CLRREJ g.val) = true)) ∧
  (∀ (s : State) (ini : Initiator) (g : Fin 64) (val : Word) (pos neg : Int),
     s.Reaches ini (GD_PFLT g.val).addr →
     s.gatePopulated g.val = false ∨ isolated g.val = false →
     ∃ t, exec (.pfltClear ini g val pos neg) s = .next t ∧
       t = s)

/-- At the end of ASC_DLY a group's STATE is its target with DLY clear and, with REACT set, the target's line alone; SCGn_CLR
returns a group without a compromised side to idle. A run outside HLD that no condition of R148 stops starts with BUSY, the
link voltage and its steps, one that a condition stops ends at once with its CAUSE, and in HLD it first switches on and waits
for the domains it needs; a START while BUSY only writes the set-up fields. The wait ends with BIASOK or after 1.5 ms. A step
settles, averages, records its readings against its threshold and turns its currents off, each part for its time; the last
ends the run with cause 0, and ABORT ends it with cause 5. The ends of runs are stated for runs that hold no domain switched
on and no request. Events whose condition fails change nothing (R143, R144, R146, R148 to R151). -/
def Obligations.ReactionGroupsAndOffStateDiagnostics : Prop :=
  (∀ (s : State) (n : Fin 8),
     s.scg.length = 8 →
     s.osd.doms = [] →
     s.is (SCG_STAT_DLY n.val) = true →
     (s.scgOf n.val).target = 1 ∨ (s.scgOf n.val).target = 2 →
     (s.scgOf n.val).dlyAt + s.ascDly n.val ≤ s.now →
     ∃ t, exec (.scgAscDelayEnd n) s = .next t ∧
       t.get (SCG_STAT_STATE n.val) = (s.scgOf n.val).target ∧
       t.is (SCG_STAT_DLY n.val) = false ∧
       t.fox.scg = putBit (2 * n.val + 1) (putBit (2 * n.val) s.fox.scg (s.get (SCG_CFG_REACT n.val) != 0 && (s.scgOf n.val).target == 1)) (s.get (SCG_CFG_REACT n.val) != 0 && (s.scgOf n.val).target == 2)) ∧
  (∀ (s : State) (n : Fin 8),
     s.is (SCG_STAT_DLY n.val) = false ∨ ((s.scgOf n.val).target ≠ 1 ∧ (s.scgOf n.val).target ≠ 2) ∨ s.now < (s.scgOf n.val).dlyAt + s.ascDly n.val →
     ∃ t, exec (.scgAscDelayEnd n) s = .next t ∧
       t = s) ∧
  (∀ (s : State) (ini : Initiator) (n : Fin 8) (val : Word),
     s.scg.length = 8 →
     s.Reaches ini (SCG_CLR n.val).addr →
     val.getLsbD 0 = true →
     s.sideBad n.val 0 = false →
     s.sideBad n.val 1 = false →
     s.get (SCG_STAT_STATE n.val) ≠ 0 →
     ∃ t, exec (.scgClr ini n val) s = .next t ∧
       t.rd (SCG_STAT n.val) = 0 ∧
       t.scgOf n.val = Scg.idle ∧
       t.fox.scg = putBit (2 * n.val + 1) (putBit (2 * n.val) s.fox.scg false) false) ∧
  (∀ (s : State) (ini : Initiator) (n : Fin 8) (val : Word),
     s.Reaches ini (SCG_CLR n.val).addr →
     val.getLsbD 0 = false ∨ s.sideBad n.val 0 = true ∨ s.sideBad n.val 1 = true ∨ s.get (SCG_STAT_STATE n.val) = 0 →
     ∃ t, exec (.scgClr ini n val) s = .next t ∧
       t = s.scgSides n.val) ∧
  (∀ (s : State) (ini : Initiator) (val : Word),
     s.Reaches ini GDG_OSDCTRL.addr →
     s.is GDG_OSDSTAT_BUSY = false →
     s.bit MDM_ACTIVE_ACTIVE 11 = false →
     s.osdRefusal = none →
     ∀ k ∈ s.osdLegs, s.is (GD_STATUS_FORCED (2 * k)) = false ∧ s.is (GD_STATUS_FORCED (2 * k + 1)) = false →
     (s.fieldWrite GDG_OSDCTRL.addr (val ||| 1)).osdSteps ≠ [] →
     ∃ t, exec (.osdctrlStart ini val) s = .next t ∧
       t.is GDG_OSDSTAT_BUSY = true ∧
       t.get GDG_OSDSTAT_STEP = 0 ∧
       t.get GDG_OSDSTAT_CAUSE = 0 ∧
       t.get GDG_OSDVDC_VDC = s.get ADG_VDC_VDC ∧
       t.get GDG_OSDCTRL_SETTLE = bitsOf 15 8 val.toNat ∧
       t.osd = { Osd.idle with steps := t.osdSteps, since := s.now }) ∧
  (∀ (s : State) (ini : Initiator) (val : Word) (k : Nat),
     s.Reaches ini GDG_OSDCTRL.addr →
     s.is GDG_OSDSTAT_BUSY = false →
     s.bit MDM_ACTIVE_ACTIVE 11 = false →
     s.osdRefusal = some k →
     ∃ t, exec (.osdctrlStart ini val) s = .next t ∧
       t.is GDG_OSDSTAT_BUSY = false ∧
       t.osd = Osd.idle ∧
       t.irqs = s.irqs ++ [s.irqNow (.sc) (GDG_OSDCTRL.addr) (0)] ∧
       t.get GDG_OSDSTAT_CAUSE = k ∧
       t.get GDG_OSDSTAT_STEP = 0) ∧
  (∀ (s : State) (ini : Initiator) (val : Word),
     s.Reaches ini GDG_OSDCTRL.addr →
     s.is GDG_OSDSTAT_BUSY = false →
     s.bit MDM_ACTIVE_ACTIVE 11 = true →
     s.osdDoms.filter (fun d => !s.isOn d && s.domReady d && s.domExists d) ≠ [] →
     ∃ t, exec (.osdctrlStart ini val) s = .next t ∧
       t.is GDG_OSDSTAT_BUSY = true ∧
       t.osd = { Osd.idle with wait := true, since := s.now, doms := s.osdDoms.filter (fun d => !s.isOn d && s.domReady d && s.domExists d) }) ∧
  (∀ (s : State) (ini : Initiator) (val : Word),
     s.Reaches ini GDG_OSDCTRL.addr →
     s.is GDG_OSDSTAT_BUSY = true →
     val.getLsbD 1 = false →
     ∃ t, exec (.osdctrlStart ini val) s = .next t ∧
       t.get GDG_OSDCTRL_SETTLE = bitsOf 15 8 val.toNat ∧
       t.is GDG_OSDCTRL_SHORT_EN = val.getLsbD 2 ∧
       t.is GDG_OSDCTRL_OPEN_EN = val.getLsbD 3 ∧
       s.OnlyRegs t [GDG_OSDCTRL.addr]) ∧
  (∀ (s : State),
     s.is GDG_OSDSTAT_BUSY = true →
     s.osd.wait = true →
     s.osdReady = true →
     s.osdRefusal = none →
     s.osdSteps ≠ [] →
     ∀ k ∈ s.osdLegs, s.is (GD_STATUS_FORCED (2 * k)) = false ∧ s.is (GD_STATUS_FORCED (2 * k + 1)) = false →
     ∃ t, exec (.osdBiasReady) s = .next t ∧
       t.osd = { s.osd with wait := false, steps := s.osdSteps, since := s.now, part := 0 } ∧
       t.is GDG_OSDSTAT_BUSY = true ∧
       t.get GDG_OSDVDC_VDC = s.get ADG_VDC_VDC ∧
       s.OnlyRegs { t with osd := s.osd } [GDG_OSDVDC.addr, GDG_OSDSTAT.addr]) ∧
  (∀ (s : State) (k : Nat),
     s.is GDG_OSDSTAT_BUSY = true →
     s.osd.wait = true →
     s.osdReady = true →
     s.osdRefusal = some k →
     s.osd.doms = [] →
     s.osd.req = none →
     ∃ t, exec (.osdBiasReady) s = .next t ∧
       t.is GDG_OSDSTAT_BUSY = false ∧
       t.osd = Osd.idle ∧
       t.irqs = s.irqs ++ [s.irqNow (.sc) (GDG_OSDCTRL.addr) (0)] ∧
       t.get GDG_OSDSTAT_CAUSE = k) ∧
  (∀ (s : State),
     s.is GDG_OSDSTAT_BUSY = false ∨ s.osd.wait = false ∨ s.osdReady = false →
     ∃ t, exec (.osdBiasReady) s = .next t ∧
       t = s) ∧
  (∀ (s : State) (ini : Initiator) (val : Word),
     s.Reaches ini GDG_OSDCTRL.addr →
     s.is GDG_OSDSTAT_BUSY = true →
     s.osd.doms = [] →
     s.osd.req = none →
     ∃ t, exec (.osdctrlAbort ini val) s = .next t ∧
       t.is GDG_OSDSTAT_BUSY = false ∧
       t.osd = Osd.idle ∧
       t.irqs = s.irqs ++ [s.irqNow (.sc) (GDG_OSDCTRL.addr) (0)] ∧
       t.get GDG_OSDSTAT_CAUSE = 5 ∧
       s.OnlyRegs { t with irqs := s.irqs, osd := s.osd } [GDG_OSDCTRL.addr, GDG_OSDSTAT.addr]) ∧
  (∀ (s : State) (ini : Initiator) (val : Word),
     s.Reaches ini GDG_OSDCTRL.addr →
     s.is GDG_OSDSTAT_BUSY = false →
     ∃ t, exec (.osdctrlAbort ini val) s = .next t ∧
       s.OnlyRegs t [GDG_OSDCTRL.addr] ∧
       t.get GDG_OSDCTRL_SETTLE = bitsOf 15 8 val.toNat) ∧
  (∀ (s : State) (a b : BitVec 10) (st : OsdStep) (rest : List OsdStep),
     s.is GDG_OSDSTAT_BUSY = true →
     s.osd.wait = false →
     s.osd.since + s.osdTime ≤ s.now →
     s.osd.steps = st :: rest →
     s.osd.part = 0 →
     ∃ t, exec (.osdStepEnd a b) s = .next t ∧
       t = s.setOsd { s.osd with part := 1, since := s.now }) ∧
  (∀ (s : State) (a b : BitVec 10) (k : Fin 32) (rest : List OsdStep),
     s.is GDG_OSDSTAT_BUSY = true →
     s.osd.wait = false →
     s.osd.since + s.osdTime ≤ s.now →
     s.osd.steps = .shlo k.val :: rest →
     s.osd.part = 1 →
     ∃ t, exec (.osdStepEnd a b) s = .next t ∧
       t.get (GDG_OSDRES_VL k.val) = a.toNat ∧
       t.get (GDG_OSDRES_SHLO k.val) = (if 20 * a.toNat < 50 * s.get (if k.val ≤ 20 then GDG_OSDTHR_VSHORT else GDG_OSDTHR_VSHORT_LV) then 2 else 1) ∧
       t.osd = { s.osd with part := 2, since := s.now } ∧
       s.OnlyRegs { t with osd := s.osd } [(GDG_OSDRES k.val).addr, GDG_OSDSTAT.addr]) ∧
  (∀ (s : State) (a b : BitVec 10) (k : Fin 32) (rest : List OsdStep),
     s.is GDG_OSDSTAT_BUSY = true →
     s.osd.wait = false →
     s.osd.since + s.osdTime ≤ s.now →
     s.osd.steps = .shhi k.val :: rest →
     s.osd.part = 1 →
     ∃ t, exec (.osdStepEnd a b) s = .next t ∧
       t.get (GDG_OSDRES_VH k.val) = a.toNat ∧
       t.get (GDG_OSDRES_SHHI k.val) = (if (if k.val ≤ 20 then 20 * a.toNat < 50 * s.get GDG_OSDTHR_VSHORT else 2000 < 20 * a.toNat) then 2 else 1) ∧
       t.osd = { s.osd with part := 2, since := s.now } ∧
       s.OnlyRegs { t with osd := s.osd } [(GDG_OSDRES k.val).addr, GDG_OSDSTAT.addr]) ∧
  (∀ (s : State) (a b : BitVec 10) (k p : Fin 32) (rest : List OsdStep),
     s.is GDG_OSDSTAT_BUSY = true →
     s.osd.wait = false →
     s.osd.since + s.osdTime ≤ s.now →
     s.osd.steps = .opn k.val p.val :: rest →
     s.osd.part = 1 →
     k.val ≤ 20 →
     p.val ≤ 20 →
     ∃ t, exec (.osdStepEnd a b) s = .next t ∧
       t.get (GDG_OSDRES_OPEN k.val) = (if 50 < s.get GDG_OSDVDC_VDC ∨ 9500 ≤ 20 * a.toNat ∨ 9500 ≤ 20 * b.toNat then 3 else if 50 * (s.get GDG_OSDTHR_VOPEN : Int) < 20 * ((a.toNat : Int) + b.toNat) - 100 * (s.get GDG_OSDVDC_VDC : Int) then 2 else 1) ∧
       t.osd = { s.osd with part := 2, since := s.now } ∧
       s.OnlyRegs { t with osd := s.osd } [(GDG_OSDRES k.val).addr, GDG_OSDSTAT.addr]) ∧
  (∀ (s : State) (a b : BitVec 10) (k p : Fin 32) (rest : List OsdStep),
     s.is GDG_OSDSTAT_BUSY = true →
     s.osd.wait = false →
     s.osd.since + s.osdTime ≤ s.now →
     s.osd.steps = .opn k.val p.val :: rest →
     s.osd.part = 1 →
     21 ≤ k.val →
     21 ≤ p.val →
     ∃ t, exec (.osdStepEnd a b) s = .next t ∧
       t.get (GDG_OSDRES_OPEN k.val) = (if 50 * (s.get GDG_OSDTHR_VOPEN_LV : Int) < 20 * ((a.toNat : Int) - b.toNat) then 2 else 1) ∧
       t.osd = { s.osd with part := 2, since := s.now } ∧
       s.OnlyRegs { t with osd := s.osd } [(GDG_OSDRES k.val).addr, GDG_OSDSTAT.addr]) ∧
  (∀ (s : State) (a b : BitVec 10) (k p : Fin 32) (rest : List OsdStep),
     s.is GDG_OSDSTAT_BUSY = true →
     s.osd.wait = false →
     s.osd.since + s.osdTime ≤ s.now →
     s.osd.steps = .opn k.val p.val :: rest →
     s.osd.part = 1 →
     k.val ≤ 20 ∧ 21 ≤ p.val ∨ 21 ≤ k.val ∧ p.val ≤ 20 →
     ∃ t, exec (.osdStepEnd a b) s = .next t ∧
       t.osd = { s.osd with part := 2, since := s.now } ∧
       s.OnlyRegs { t with osd := s.osd, fresh := s.fresh } [(GDG_OSDRES k.val).addr, GDG_OSDSTAT.addr]) ∧
  (∀ (s : State) (a b : BitVec 10) (st nx : OsdStep) (rest : List OsdStep),
     s.is GDG_OSDSTAT_BUSY = true →
     s.osd.wait = false →
     s.osd.since + s.osdTime ≤ s.now →
     s.osd.steps = st :: nx :: rest →
     2 ≤ s.osd.part →
     ∃ t, exec (.osdStepEnd a b) s = .next t ∧
       t.osd = { s.osd with steps := nx :: rest, part := 0, since := s.now } ∧
       t.get GDG_OSDSTAT_STEP = (s.get GDG_OSDSTAT_STEP + 1) % 256 ∧
       s.OnlyRegs { t with osd := s.osd } [GDG_OSDSTAT.addr]) ∧
  (∀ (s : State) (a b : BitVec 10) (st : OsdStep),
     s.is GDG_OSDSTAT_BUSY = true →
     s.osd.wait = false →
     s.osd.since + s.osdTime ≤ s.now →
     s.osd.steps = [st] →
     2 ≤ s.osd.part →
     s.osd.doms = [] →
     s.osd.req = none →
     ∃ t, exec (.osdStepEnd a b) s = .next t ∧
       t.is GDG_OSDSTAT_BUSY = false ∧
       t.osd = Osd.idle ∧
       t.irqs = s.irqs ++ [s.irqNow (.sc) (GDG_OSDCTRL.addr) (0)] ∧
       t.get GDG_OSDSTAT_CAUSE = 0) ∧
  (∀ (s : State) (a b : BitVec 10),
     s.is GDG_OSDSTAT_BUSY = false ∨ s.osd.wait = true ∨ s.now < s.osd.since + s.osdTime ∨ s.osd.steps = [] →
     ∃ t, exec (.osdStepEnd a b) s = .next t ∧
       t = s)

/-- The word of the oldest sample that may arrive on a lane is stored in ADnn_LASTs of the expected slot where its WRAP bit agrees
with the slot count, which moves on, with OVR set by its OVR bit; a WRAP word also starts a lane that waits for one. A word
that disagrees sets WRAPERR and, like those before the next WRAP, is counted in LOSTW and discarded; with no word due nothing
happens. A write of ADnn_SEQ leaves the codes in effect until the first slot-0 instant 62.5 ns later applies them, slot 7 of
AD22 and AD23 staying 0xF. A loss of the converter clock sets NOCLK and stops every converter, and its return lets the enabled
ones produce words again. 17 ticks after a 10 µs interval ADG_VDC takes the interval's mean, or 0xFFFF while EN = 0, in the
first interval, with an OVR word or fewer than 100 words (R22, R156, R159 to R161, R163). -/
def Obligations.ConverterWordsReachTheirSlot : Prop :=
  (∀ (s : State) (nn : Fin 24) (w : LaneWord) (e : AdEdge),
     s.conv.lanes.length = 24 →
     s.laneDue nn.val = some e →
     s.isOn 7 = true →
     s.ticking = true →
     s.is ADG_STATUS_LOCKED = true →
     s.is (AD_STATUS_ACTIVE nn.val) = true →
     (s.lane nn.val).slot < 8 →
     (s.lane nn.val).slot ≠ 0 →
     (s.laneWord nn.val e w).testBit 15 = false →
     (s.lane nn.val).lost = false →
     ∃ t, exec (.wordArrival nn w) s = .next t ∧
       t.get (AD_LAST_WORD nn.val (s.lane nn.val).slot) = (s.laneWord nn.val e w) % 65536 ∧
       (t.lane nn.val).slot = ((s.lane nn.val).slot + 1) % 8 ∧
       (t.lane nn.val).next = e.num + 1 ∧
       t.is (AD_STATUS_OVR nn.val) = (s.is (AD_STATUS_OVR nn.val) || (s.laneWord nn.val e w).testBit 14)) ∧
  (∀ (s : State) (nn : Fin 24) (w : LaneWord) (e : AdEdge),
     s.conv.lanes.length = 24 →
     s.laneDue nn.val = some e →
     s.isOn 7 = true →
     s.ticking = true →
     s.is ADG_STATUS_LOCKED = true →
     s.is (AD_CFG_EN nn.val) = true →
     (s.laneWord nn.val e w).testBit 15 = true →
     (s.lane nn.val).lost = true ∨ (s.lane nn.val).slot = 0 →
     ∃ t, exec (.wordArrival nn w) s = .next t ∧
       t.get (AD_LAST_WORD nn.val 0) = (s.laneWord nn.val e w) % 65536 ∧
       t.is (AD_STATUS_ACTIVE nn.val) = true ∧
       (t.lane nn.val).slot = 1 ∧
       (t.lane nn.val).lost = false ∧
       (t.lane nn.val).next = e.num + 1) ∧
  (∀ (s : State) (nn : Fin 24) (w : LaneWord) (e : AdEdge),
     s.conv.lanes.length = 24 →
     s.laneDue nn.val = some e →
     s.isOn 7 = true →
     s.ticking = true →
     s.is ADG_STATUS_LOCKED = true →
     (if (s.laneWord nn.val e w).testBit 15 then s.is (AD_CFG_EN nn.val) else s.is (AD_STATUS_ACTIVE nn.val)) = true →
     (s.laneWord nn.val e w).testBit 15 ≠ ((s.lane nn.val).slot == 0) →
     (s.lane nn.val).lost = false →
     ∃ t, exec (.wordArrival nn w) s = .next t ∧
       t.is (AD_STATUS_WRAPERR nn.val) = true ∧
       t.get (AD_STATUS_LOSTW nn.val) = min (s.get (AD_STATUS_LOSTW nn.val) + 1) 65535 ∧
       (t.lane nn.val).lost = true ∧
       (t.lane nn.val).next = e.num + 1 ∧
       (∀ j : Fin 8, t.get (AD_LAST_WORD nn.val j.val) = s.get (AD_LAST_WORD nn.val j.val))) ∧
  (∀ (s : State) (nn : Fin 24) (w : LaneWord) (e : AdEdge),
     s.conv.lanes.length = 24 →
     s.laneDue nn.val = some e →
     s.isOn 7 = true →
     s.ticking = true →
     s.is ADG_STATUS_LOCKED = true →
     s.is (AD_STATUS_ACTIVE nn.val) = true →
     (s.laneWord nn.val e w).testBit 15 = false →
     (s.lane nn.val).lost = true →
     ∃ t, exec (.wordArrival nn w) s = .next t ∧
       t.get (AD_STATUS_LOSTW nn.val) = min (s.get (AD_STATUS_LOSTW nn.val) + 1) 65535 ∧
       (t.lane nn.val).next = e.num + 1 ∧
       (t.lane nn.val).lost = true ∧
       (∀ j : Fin 8, t.get (AD_LAST_WORD nn.val j.val) = s.get (AD_LAST_WORD nn.val j.val))) ∧
  (∀ (s : State) (nn : Fin 24) (w : LaneWord) (e : AdEdge),
     s.conv.lanes.length = 24 →
     s.laneDue nn.val = some e →
     s.isOn 7 = true →
     s.ticking = true →
     s.is ADG_STATUS_LOCKED = true →
     (s.laneWord nn.val e w).testBit 15 = true →
     s.is (AD_CFG_EN nn.val) = false →
     ∃ t, exec (.wordArrival nn w) s = .next t ∧
       t.is (AD_STATUS_ACTIVE nn.val) = false ∧
       (t.lane nn.val).next = e.num + 1 ∧
       (∀ j : Fin 8, t.get (AD_LAST_WORD nn.val j.val) = s.get (AD_LAST_WORD nn.val j.val))) ∧
  (∀ (s : State) (nn : Fin 24) (w : LaneWord) (e : AdEdge),
     s.laneDue nn.val = some e →
     s.isOn 7 = false ∨ s.ticking = false ∨ s.is ADG_STATUS_LOCKED = false ∨ (s.is (AD_STATUS_ACTIVE nn.val) = false ∧ (s.laneWord nn.val e w).testBit 15 = false) →
     ∃ t, exec (.wordArrival nn w) s = .next t ∧
       t = s.setLane nn.val { (s.lane nn.val) with next := e.num + 1 }) ∧
  (∀ (s : State) (nn : Fin 24) (w : LaneWord),
     s.laneDue nn.val = none →
     ∃ t, exec (.wordArrival nn w) s = .next t ∧
       t = s) ∧
  (∀ (s : State) (ini : Initiator) (nn : Fin 24) (val : Word),
     s.conv.lanes.length = 24 →
     s.Reaches ini (AD_SEQ nn.val).addr →
     ∃ t, exec (.adSeqWrite ini nn val) s = .next t ∧
       t.rd (AD_SEQ nn.val) = (if 22 ≤ nn.val then (val &&& 0x0FFFFFFF) ||| 0xF0000000 else val) ∧
       t.rd (AD_SEQ_EFF nn.val) = s.rd (AD_SEQ_EFF nn.val) ∧
       (t.lane nn.val).seqAt = some s.now ∧
       s.OnlyRegs { t with conv := s.conv } [(AD_SEQ nn.val).addr]) ∧
  (∀ (s : State) (nn : Fin 24) (c : Nat) (e : AdEdge) (es : List AdEdge),
     s.conv.lanes.length = 24 →
     (s.lane nn.val).seqAt = some c →
     s.conv.edges = e :: es →
     s.isOn 7 = true →
     s.is ADG_STATUS_LOCKED = true →
     e.num % 8 = 0 ∧ e.at' = s.now →
     c + 25 ≤ s.now →
     ∃ t, exec (.adSeqApply nn) s = .next t ∧
       t.rd (AD_SEQ_EFF nn.val) = s.rd (AD_SEQ nn.val) ∧
       (t.lane nn.val).seqAt = none ∧
       s.OnlyRegs { t with conv := s.conv } [(AD_SEQ_EFF nn.val).addr]) ∧
  (∀ (s : State) (nn : Fin 24),
     (s.lane nn.val).seqAt = none ∨ s.isOn 7 = false ∨ s.is ADG_STATUS_LOCKED = false ∨ (∀ e ∈ s.conv.edges.head?, e.num % 8 ≠ 0 ∨ e.at' ≠ s.now ∨ ∀ c ∈ (s.lane nn.val).seqAt, s.now < c + 25) →
     ∃ t, exec (.adSeqApply nn) s = .next t ∧
       t = s) ∧
  (∀ (s : State),
     s.isOn 7 = true →
     s.is ADG_STATUS_LOCKED = true →
     ∃ t, exec (.adcClockLoss) s = .next t ∧
       t.is ADG_STATUS_LOCKED = false ∧
       t.is ADG_STATUS_NOCLK = true ∧
       (∀ n : Fin 24, t.is (AD_STATUS_ACTIVE n.val) = false)) ∧
  (∀ (s : State),
     s.isOn 7 = false ∨ s.is ADG_STATUS_LOCKED = false →
     ∃ t, exec (.adcClockLoss) s = .next t ∧
       t = s) ∧
  (∀ (s : State),
     s.isOn 7 = true →
     s.is ADG_STATUS_LOCKED = false →
     ∃ t, exec (.adcClockReturn) s = .next t ∧
       t.is ADG_STATUS_LOCKED = true ∧
       (∀ n : Fin 24, t.is (AD_STATUS_ACTIVE n.val) = s.is (AD_CFG_EN n.val)) ∧
       t = { s with regs := t.regs }) ∧
  (∀ (s : State),
     s.isOn 7 = false ∨ s.is ADG_STATUS_LOCKED = true →
     ∃ t, exec (.adcClockReturn) s = .next t ∧
       t = s) ∧
  (∀ (s : State) (n : Nat),
     s.isOn 7 = true →
     s.ticking = true →
     s.tick = 1000 * (n + 1) + 17 →
     ∃ t, exec (.vdcUpdate) s = .next t ∧
       t.get ADG_VDC_VDC = (if s.is ADG_VDCSRC_EN = false ∨ n = 0 then 0xFFFF else vdcValue ((lookupKey n s.conv.vdc).getD (0, 0, false)) (s.get ADG_VDCSRC_GAIN)) ∧
       s.OnlyRegs { t with conv := s.conv } [ADG_VDC.addr]) ∧
  (∀ (sm cnt gain : Nat) (ovr : Bool),
     vdcValue (sm, cnt, ovr) gain = (if ovr = true ∨ cnt < 100 then 0xFFFF else min 0xFFFE ((sm - 8192 * cnt) * gain / (100 * cnt)))) ∧
  (∀ (s : State),
     s.isOn 7 = false ∨ s.ticking = false ∨ s.tick < 1017 ∨ (s.tick - 17) % 1000 ≠ 0 →
     ∃ t, exec (.vdcUpdate) s = .next t ∧
       t = s)

/-- An idle live unit arms a window ODLY ticks after its open event, or after its bit of a software trigger. A trigger inside a
window ends it as partial and arms the next (POL 1), waits as the one pending trigger (POL 2), or is counted as missed. A unit
is OPEN from its open value; a close event in EVENT mode sets the close value, a further one or one without a window is
counted as stray; a due close completes the window, and the pending trigger arms the next or the unit is IDLE; a window
without a close value closes with TMO after 65,535 ticks. Every closed window whose finalisation is due is finalised, with its
limit flag in LIMMODE 1; the oldest is then published with WSEQ incremented, to the snapshot banks that do not hold its unit
frozen. A read of RES0 latches RES1 to RES3; clearing EN leaves the unit IDLE. Events that do not concern the unit change
nothing (R164 to R172, R201). A START write, or the event that SSEL selects while the tick runs, puts a capture unit that does
not run into ARMED with nothing stored and an empty FIFO, and changes nothing in one that runs; STOP and the stored length
return a running unit to IDLE and leave its FIFO, and change nothing otherwise (R174). -/
def Obligations.WindowUnitsOpenCloseAndPublish : Prop :=
  (∀ (s : State) (u : Fin 64) (ev : Fin 256),
     s.conv.wu.length = 64 →
     s.wuLive u.val = true →
     ev.val < 0x89 →
     (s.wu u.val).cur = none →
     s.get (WU_OPEN_OSEL u.val) = ev.val →
     ∃ t, exec (.wuOpenEvent u ev) s = .next t ∧
       (t.wu u.val).cur.map WuWin.openV = some (s.tick + s.get (WU_OPEN_ODLY u.val)) ∧
       t.get (WU_STATUS_STATE u.val) = (if s.get (WU_OPEN_ODLY u.val) = 0 then 2 else 1) ∧
       s.OnlyRegs { t with conv := s.conv } [(WU_STATUS u.val).addr]) ∧
  (∀ (s : State) (u : Fin 64) (ev : Fin 256) (w : WuWin),
     s.conv.wu.length = 64 →
     s.wuLive u.val = true →
     ev.val < 0x89 →
     (s.wu u.val).cur = some w →
     s.tick < winClose w →
     bitsOf 7 0 w.opn.toNat = ev.val →
     bitsOf 1 0 w.pol.toNat = 1 →
     ∃ t, exec (.wuOpenEvent u ev) s = .next t ∧
       (t.wu u.val).cur.map WuWin.openV = some (s.tick + s.get (WU_OPEN_ODLY u.val)) ∧
       (t.wu u.val).closing = (s.wu u.val).closing ++ [{ w with part := true, closeV := some s.tick }] ∧
       (t.wu u.val).pend = none) ∧
  (∀ (s : State) (u : Fin 64) (ev : Fin 256) (w : WuWin),
     s.conv.wu.length = 64 →
     s.wuLive u.val = true →
     ev.val < 0x89 →
     (s.wu u.val).cur = some w →
     s.tick < winClose w →
     bitsOf 7 0 w.opn.toNat = ev.val →
     bitsOf 1 0 w.pol.toNat = 2 →
     (s.wu u.val).pend = none →
     ∃ t, exec (.wuOpenEvent u ev) s = .next t ∧
       t.wu u.val = { s.wu u.val with pend := some s.tick } ∧
       t.is (WU_STATUS_PEND u.val) = true ∧
       s.OnlyRegs { t with conv := s.conv } [(WU_STATUS u.val).addr]) ∧
  (∀ (s : State) (u : Fin 64) (ev : Fin 256) (w : WuWin),
     s.conv.wu.length = 64 →
     s.wuLive u.val = true →
     ev.val < 0x89 →
     (s.wu u.val).cur = some w →
     s.tick < winClose w →
     bitsOf 7 0 w.opn.toNat = ev.val →
     bitsOf 1 0 w.pol.toNat = 0 ∨ bitsOf 1 0 w.pol.toNat = 3 ∨ (bitsOf 1 0 w.pol.toNat = 2 ∧ (s.wu u.val).pend ≠ none) →
     ∃ t, exec (.wuOpenEvent u ev) s = .next t ∧
       t.get (WU_MISSED_MISSED u.val) = min (s.get (WU_MISSED_MISSED u.val) + 1) 65535 ∧
       t.wu u.val = s.wu u.val ∧
       t.get (WU_STATUS_STATE u.val) = s.get (WU_STATUS_STATE u.val)) ∧
  (∀ (s : State) (u : Fin 64) (ev : Fin 256) (w : WuWin),
     s.conv.wu.length = 64 →
     s.wuLive u.val = true →
     ev.val < 0x89 →
     (s.wu u.val).cur = some w →
     winClose w ≤ s.tick →
     (s.wu u.val).pend = none →
     s.get (WU_OPEN_OSEL u.val) = ev.val →
     ∃ t, exec (.wuOpenEvent u ev) s = .next t ∧
       (t.wu u.val).cur.map WuWin.openV = some (s.tick + s.get (WU_OPEN_ODLY u.val)) ∧
       (t.wu u.val).closing = (s.wu u.val).closing ++ [{ w with tmo := w.closeV == none, closeV := some (winClose w) }]) ∧
  (∀ (s : State) (u : Fin 64) (ev : Fin 256),
     s.wuLive u.val = false ∨ 0x89 ≤ ev.val ∨ ((s.wu u.val).cur = none ∧ s.get (WU_OPEN_OSEL u.val) ≠ ev.val) ∨ (∃ w ∈ (s.wu u.val).cur, s.tick < winClose w ∧ bitsOf 7 0 w.opn.toNat ≠ ev.val) →
     ∃ t, exec (.wuOpenEvent u ev) s = .next t ∧
       t = s) ∧
  (∀ (s : State) (ini : Initiator) (hi : Bool) (val : Word),
     s.conv.wu.length = 64 →
     s.Reaches ini (WUG_SWTRIG (b2n hi)).addr →
     ∃ t, exec (.wugSwtrig ini hi val) s = .next t ∧
       (∀ i : Fin 32, val.getLsbD i.val = true → s.wuLive (b2n hi * 32 + i.val) = true → (s.wu (b2n hi * 32 + i.val)).cur = none → s.get (WU_OPEN_OSEL (b2n hi * 32 + i.val)) = 0x88 → (t.wu (b2n hi * 32 + i.val)).cur.map WuWin.openV = some (s.tick + s.get (WU_OPEN_ODLY (b2n hi * 32 + i.val)))) ∧
       (∀ i : Fin 32, val.getLsbD i.val = false → t.wu (b2n hi * 32 + i.val) = s.wu (b2n hi * 32 + i.val))) ∧
  (∀ (s : State) (u : Fin 64) (w : WuWin),
     (s.wu u.val).cur = some w →
     s.wuLive u.val = true →
     s.get (WU_STATUS_STATE u.val) = 1 →
     w.openV ≤ s.tick →
     ∃ t, exec (.wuOpen u) s = .next t ∧
       t.get (WU_STATUS_STATE u.val) = 2 ∧
       s.OnlyRegs t [(WU_STATUS u.val).addr]) ∧
  (∀ (s : State) (u : Fin 64),
     s.wuLive u.val = false ∨ s.get (WU_STATUS_STATE u.val) ≠ 1 ∨ ∀ w ∈ (s.wu u.val).cur, s.tick < w.openV →
     ∃ t, exec (.wuOpen u) s = .next t ∧
       t = s) ∧
  (∀ (s : State) (u : Fin 64) (ev : Fin 256) (w : WuWin),
     s.conv.wu.length = 64 →
     s.wuLive u.val = true →
     ev.val < 0x89 →
     (s.wu u.val).cur = some w →
     s.tick < winClose w →
     w.closeV = none →
     bitsOf 23 16 w.cls.toNat = ev.val →
     bitOf 31 w.cls.toNat = false →
     bitsOf 15 0 w.cls.toNat ≠ 0 →
     ∃ t, exec (.wuCloseEvent u ev) s = .next t ∧
       (t.wu u.val).cur = some { w with closeV := some (s.tick + bitsOf 15 0 w.cls.toNat) } ∧
       t = { s with conv := t.conv }) ∧
  (∀ (s : State) (u : Fin 64) (ev : Fin 256) (w : WuWin),
     s.conv.wu.length = 64 →
     s.wuLive u.val = true →
     ev.val < 0x89 →
     (s.wu u.val).cur = some w →
     s.tick < winClose w →
     w.closeV = none →
     bitsOf 23 16 w.cls.toNat = ev.val →
     bitOf 31 w.cls.toNat = false →
     bitsOf 15 0 w.cls.toNat = 0 →
     (s.wu u.val).pend = none →
     ∃ t, exec (.wuCloseEvent u ev) s = .next t ∧
       (t.wu u.val).cur = none ∧
       (t.wu u.val).closing = (s.wu u.val).closing ++ [{ w with closeV := some s.tick }] ∧
       t.get (WU_STATUS_STATE u.val) = 0) ∧
  (∀ (s : State) (u : Fin 64) (ev : Fin 256) (w : WuWin),
     s.wuLive u.val = true →
     ev.val < 0x89 →
     (s.wu u.val).cur = some w →
     s.tick < winClose w →
     w.closeV ≠ none →
     bitsOf 23 16 w.cls.toNat = ev.val →
     bitOf 31 w.cls.toNat = false →
     ∃ t, exec (.wuCloseEvent u ev) s = .next t ∧
       t.get (WU_MISSED_STRAY u.val) = min (s.get (WU_MISSED_STRAY u.val) + 1) 65535 ∧
       s.OnlyRegs t [(WU_MISSED u.val).addr]) ∧
  (∀ (s : State) (u : Fin 64) (ev : Fin 256),
     s.wuLive u.val = true →
     ev.val < 0x89 →
     (s.wu u.val).cur = none →
     s.get (WU_CLOSE_CSEL u.val) = ev.val →
     s.is (WU_CLOSE_CMODE u.val) = false →
     ∃ t, exec (.wuCloseEvent u ev) s = .next t ∧
       t.get (WU_MISSED_STRAY u.val) = min (s.get (WU_MISSED_STRAY u.val) + 1) 65535 ∧
       s.OnlyRegs t [(WU_MISSED u.val).addr]) ∧
  (∀ (s : State) (u : Fin 64) (ev : Fin 256),
     s.wuLive u.val = false ∨ 0x89 ≤ ev.val ∨ ((s.wu u.val).cur = none ∧ (s.get (WU_CLOSE_CSEL u.val) ≠ ev.val ∨ s.is (WU_CLOSE_CMODE u.val) = true)) ∨ (∃ w ∈ (s.wu u.val).cur, s.tick < winClose w ∧ (bitsOf 23 16 w.cls.toNat ≠ ev.val ∨ bitOf 31 w.cls.toNat = true)) →
     ∃ t, exec (.wuCloseEvent u ev) s = .next t ∧
       t = s) ∧
  (∀ (s : State) (u : Fin 64) (w : WuWin),
     s.conv.wu.length = 64 →
     s.wuLive u.val = true →
     (s.wu u.val).cur = some w →
     winClose w ≤ s.tick →
     (s.wu u.val).pend = none →
     ∃ t, exec (.wuClose u) s = .next t ∧
       (t.wu u.val).cur = none ∧
       (t.wu u.val).closing = (s.wu u.val).closing ++ [{ w with tmo := w.closeV == none, closeV := some (winClose w) }] ∧
       t.get (WU_STATUS_STATE u.val) = 0) ∧
  (∀ (s : State) (u : Fin 64) (w : WuWin) (n : Nat),
     s.conv.wu.length = 64 →
     s.wuLive u.val = true →
     (s.wu u.val).cur = some w →
     winClose w ≤ s.tick →
     (s.wu u.val).pend = some n →
     ∃ t, exec (.wuClose u) s = .next t ∧
       (t.wu u.val).cur.map WuWin.openV = some (max (winClose w) (n + s.get (WU_OPEN_ODLY u.val))) ∧
       (t.wu u.val).closing = (s.wu u.val).closing ++ [{ w with tmo := w.closeV == none, closeV := some (winClose w) }] ∧
       (t.wu u.val).pend = none ∧
       t.is (WU_STATUS_PEND u.val) = false) ∧
  (∀ (s : State) (u : Fin 64),
     s.wuLive u.val = false ∨ ∀ w ∈ (s.wu u.val).cur, s.tick < winClose w →
     ∃ t, exec (.wuClose u) s = .next t ∧
       t = s) ∧
  (∀ (s : State) (u : Fin 64) (w : WuWin),
     s.conv.wu.length = 64 →
     s.wuLive u.val = true →
     (s.wu u.val).cur = some w →
     w.closeV = none →
     w.openV + 65535 ≤ s.tick →
     (s.wu u.val).pend = none →
     ∃ t, exec (.wuOpenTimeout u) s = .next t ∧
       (t.wu u.val).cur = none ∧
       (t.wu u.val).closing = (s.wu u.val).closing ++ [{ w with tmo := true, closeV := some (w.openV + 65535) }] ∧
       t.get (WU_STATUS_STATE u.val) = 0) ∧
  (∀ (s : State) (u : Fin 64),
     s.wuLive u.val = false ∨ ∀ w ∈ (s.wu u.val).cur, w.closeV ≠ none ∨ s.tick < w.openV + 65535 →
     ∃ t, exec (.wuOpenTimeout u) s = .next t ∧
       t = s) ∧
  (∀ (s : State) (u : Fin 64),
     s.conv.wu.length = 64 →
     s.isOn 7 = true →
     s.ticking = true →
     ∃ t, exec (.wuFinalise u) s = .next t ∧
       (t.wu u.val).closing = (s.wu u.val).closing.map (fun w => if w.fin = false ∧ w.closeV.getD 0 + 16 ≤ s.tick then { w with fin := true, limv := w.limv || (bitOf 4 w.pol.toNat && bitOf 5 w.pol.toNat && w.count != 0 && limViolates w (winMean w / 16)) } else w) ∧
       (t.wu u.val).cur = (s.wu u.val).cur ∧
       (∀ r : Reg, r.addr ≠ (WU_LIMCNT u.val).addr → r.addr ≠ EVL_STATUS.addr → t.rd r = s.rd r)) ∧
  (∀ (s : State) (u : Fin 64),
     s.isOn 7 = false ∨ s.ticking = false →
     ∃ t, exec (.wuFinalise u) s = .next t ∧
       t = s) ∧
  (∀ (s : State) (u : Fin 64) (w : WuWin) (rest : List WuWin),
     s.conv.wu.length = 64 →
     (s.wu u.val).closing = w :: rest →
     s.isOn 7 = true →
     s.ticking = true →
     w.fin = true →
     w.closeV.getD 0 + 18 ≤ s.tick →
     ∃ t, exec (.wuResultPublish u) s = .next t ∧
       t.get (WU_RES0_WSEQ u.val) = (s.get (WU_RES0_WSEQ u.val) + 1) % 256 ∧
       t.get (WU_RES0_COUNT u.val) = w.count % 65536 ∧
       t.get (WU_RES1_MEAN u.val) = winMean w % 2 ^ 18 ∧
       t.get (WU_RES2_MAX u.val) = w.max % 2 ^ 14 ∧
       t.get (WU_RES2_MIN u.val) = w.min % 2 ^ 14 ∧
       t.get (WU_RES3_SUM u.val) = w.sum % 2 ^ 27 ∧
       (t.wu u.val).closing = rest ∧
       t.conv.rq.length = s.conv.rq.length + (if bitOf 8 w.pol.toNat = true ∧ s.conv.rq.length < 64 then 1 else 0) ∧
       (∀ n : Fin 8, s.snapFrozen n.val u.val = false → t.rdBytes (snapAddr n.val u.val) 16 = t.resBytes u.val) ∧
       (∀ a, (∀ n : Fin 8, a < snapAddr n.val u.val ∨ snapAddr n.val u.val + 16 ≤ a ∨ s.snapFrozen n.val u.val = true) → t.rdByte a = s.rdByte a)) ∧
  (∀ (s : State) (u : Fin 64),
     s.isOn 7 = false ∨ s.ticking = false ∨ ∀ w ∈ (s.wu u.val).closing.head?, w.fin = false ∨ s.tick < w.closeV.getD 0 + 18 →
     ∃ t, exec (.wuResultPublish u) s = .next t ∧
       t = s) ∧
  (∀ (s : State) (ini : Initiator) (u : Fin 64),
     s.answers ini (WU_RES0 u.val).addr = true →
     s.busOk ini (WU_RES0 u.val).addr false = true →
     ∃ t, exec (.wuRes0Read ini u) s = .next t ∧
       t.wuLatched ini u.val 0 = s.rd (WU_RES1 u.val) ∧
       t.wuLatched ini u.val 1 = s.rd (WU_RES2 u.val) ∧
       t.wuLatched ini u.val 2 = s.rd (WU_RES3 u.val) ∧
       t = { s with conv := { s.conv with latches := t.conv.latches } }) ∧
  (∀ (s : State) (ini : Initiator) (u : Fin 64) (val : Word),
     s.conv.wu.length = 64 →
     s.Reaches ini (WU_SRC u.val).addr →
     ∃ t, exec (.wuDisable ini u val) s = .next t ∧
       t.is (WU_SRC_EN u.val) = false ∧
       (t.wu u.val).cur = none ∧
       (t.wu u.val).pend = none ∧
       t.get (WU_STATUS_STATE u.val) = 0 ∧
       t.is (WU_STATUS_PEND u.val) = false ∧
       (t.wu u.val).closing = (s.wu u.val).closing) ∧
  (∀ (s : State) (i : Initiator) (n : Fin 4) (ev : Fin 256),
     s.conv.caps.length = 4 →
     s.Reaches i (CAP_CTRL n.val).addr →
     s.get (CAP_STATUS_STATE n.val) = 0 ∨ s.get (CAP_STATUS_STATE n.val) = 3 →
     ∃ t, exec (.capStart (some i) n ev) s = .next t ∧
       t.get (CAP_STATUS_STATE n.val) = 1 ∧
       t.get (CAP_STATUS_STORED n.val) = 0 ∧
       t.capFifo n.val = [] ∧
       s.OnlyRegs { t with conv := s.conv, kcp := s.kcp } [(CAP_STATUS n.val).addr]) ∧
  (∀ (s : State) (i : Initiator) (n : Fin 4) (ev : Fin 256),
     s.Reaches i (CAP_CTRL n.val).addr →
     s.get (CAP_STATUS_STATE n.val) = 1 ∨ s.get (CAP_STATUS_STATE n.val) = 2 →
     ∃ t, exec (.capStart (some i) n ev) s = .next t ∧
       t = s) ∧
  (∀ (s : State) (n : Fin 4) (ev : Fin 256),
     s.conv.caps.length = 4 →
     s.isOn 7 = true →
     s.ticking = true →
     ev.val < 0x89 →
     s.get (CAP_CFG_SSEL n.val) = ev.val →
     s.get (CAP_STATUS_STATE n.val) = 0 ∨ s.get (CAP_STATUS_STATE n.val) = 3 →
     ∃ t, exec (.capStart none n ev) s = .next t ∧
       t.get (CAP_STATUS_STATE n.val) = 1 ∧
       t.get (CAP_STATUS_STORED n.val) = 0 ∧
       t.capFifo n.val = [] ∧
       s.OnlyRegs { t with conv := s.conv, kcp := s.kcp } [(CAP_STATUS n.val).addr]) ∧
  (∀ (s : State) (n : Fin 4) (ev : Fin 256),
     s.isOn 7 = false ∨ s.ticking = false ∨ 0x89 ≤ ev.val ∨ s.get (CAP_CFG_SSEL n.val) ≠ ev.val ∨ s.get (CAP_STATUS_STATE n.val) = 1 ∨ s.get (CAP_STATUS_STATE n.val) = 2 →
     ∃ t, exec (.capStart none n ev) s = .next t ∧
       t = s) ∧
  (∀ (s : State) (ini : Initiator) (n : Fin 4),
     s.Reaches ini (CAP_CTRL n.val).addr →
     s.get (CAP_STATUS_STATE n.val) = 1 ∨ s.get (CAP_STATUS_STATE n.val) = 2 →
     ∃ t, exec (.capStop ini n) s = .next t ∧
       t.get (CAP_STATUS_STATE n.val) = 0 ∧
       t.get (CAP_STATUS_STORED n.val) = s.get (CAP_STATUS_STORED n.val) ∧
       s.OnlyRegs t [(CAP_STATUS n.val).addr]) ∧
  (∀ (s : State) (ini : Initiator) (n : Fin 4),
     s.Reaches ini (CAP_CTRL n.val).addr →
     s.get (CAP_STATUS_STATE n.val) = 0 ∨ s.get (CAP_STATUS_STATE n.val) = 3 →
     ∃ t, exec (.capStop ini n) s = .next t ∧
       t = s) ∧
  (∀ (s : State) (n : Fin 4),
     s.get (CAP_STATUS_STATE n.val) = 2 →
     s.get (CAP_STATUS_STORED n.val) = s.capLen n.val →
     ∃ t, exec (.capLenReached n) s = .next t ∧
       t.get (CAP_STATUS_STATE n.val) = 0 ∧
       t.get (CAP_STATUS_STORED n.val) = s.get (CAP_STATUS_STORED n.val) ∧
       s.OnlyRegs t [(CAP_STATUS n.val).addr]) ∧
  (∀ (s : State) (n : Fin 4),
     s.get (CAP_STATUS_STATE n.val) ≠ 2 ∨ s.get (CAP_STATUS_STORED n.val) ≠ s.capLen n.val →
     ∃ t, exec (.capLenReached n) s = .next t ∧
       t = s)

/-- An enabled continuous comparator past its first evaluation and not held by a failed readback is tripped beyond its threshold,
released beyond the release level and keeps its state in between; while its DAC settles the threshold is some code between the
DAC's moves and the programmed one. Its first evaluation counts from the safe side. A change to tripped sets the sticky bit.
Others keep their state. A configuration write puts a comparator that it enables on its safe side, or tripped where a failed
readback holds it, and releases one that it disables; a threshold write moves the DACs whose code changes unless it is locked;
a strobe updates the comparators of a sampled monitor; and the loss of strobes sets NOSTRB. A monitor whose SRC selects no pad
sees 0 V (R179 to R185, R192). A tripped comparator, and an active pad, whose level has been held for its filter time is an
active Fox source; other codes have no filter. A TRIP_IN edge is stored: a pad at its active level without filter is active
with TRN_STICKY set at its onset, one with a filter waits, and a released or open pad is inactive at once. An unlocked write
of TRN_SELk, TRN_ORj_MSKw, TRN_PADCFG or TRN_OUT is taken, a locked one leaves the register as it was, and the command at any
other address does nothing (R187, R188, R189, R191). -/
def Obligations.WindowMonitorsTripAndRelease : Prop :=
  (∀ (s : State) (m : Fin 48) (low : Bool) (v : Int),
     s.wmActive m.val low = true →
     s.wmContinuous m.val = true →
     bitOf (wmCode m.val low) s.fox.firstDue = false →
     bitOf (wmCode m.val low) s.fox.hk = false →
     ∀ e ∈ s.fox.dac, e.1 = wmCode m.val low → e.2.2.2 ≤ s.now →
     ∃ t, exec (.wmComparatorChange m v) s = .next t ∧
       t.is (wmOut m.val low) = wmDecide low (s.get (wmTh m.val low)) (s.get (WM_CFG_HYS m.val)) (s.wmInput m.val v) (s.is (wmOut m.val low)) ∧
       t.is (wmStk m.val low) = (s.is (wmStk m.val low) || (wmDecide low (s.get (wmTh m.val low)) (s.get (WM_CFG_HYS m.val)) (s.wmInput m.val v) (s.is (wmOut m.val low)) && !s.is (wmOut m.val low)))) ∧
  (∀ (s : State) (m : Fin 48) (low : Bool) (v : Int),
     s.wmActive m.val low = true →
     s.wmContinuous m.val = true →
     bitOf (wmCode m.val low) s.fox.firstDue = false →
     bitOf (wmCode m.val low) s.fox.hk = false →
     ∃ t, exec (.wmComparatorChange m v) s = .next t ∧
       ∃ c : Nat, (c = (s.get (wmTh m.val low)) ∨ ∃ e ∈ s.fox.dac, e.1 = wmCode m.val low ∧ s.now < e.2.2.2 ∧ min e.2.1 (s.get (wmTh m.val low)) ≤ c ∧ c ≤ max e.2.2.1 (s.get (wmTh m.val low))) ∧ t.is (wmOut m.val low) = wmDecide low c (s.get (WM_CFG_HYS m.val)) (s.wmInput m.val v) (s.is (wmOut m.val low))) ∧
  (∀ (s : State) (m : Fin 48) (low : Bool) (v : Int),
     s.wmActive m.val low = false ∨ s.wmContinuous m.val = false ∨ bitOf (wmCode m.val low) s.fox.firstDue = true ∨ bitOf (wmCode m.val low) s.fox.hk = true →
     ∃ t, exec (.wmComparatorChange m v) s = .next t ∧
       t.is (wmOut m.val low) = s.is (wmOut m.val low) ∧
       t.is (wmStk m.val low) = s.is (wmStk m.val low)) ∧
  (∀ (s : State) (m : Fin 48) (low : Bool) (v : Int),
     s.wmActive m.val low = true →
     s.wmContinuous m.val = true →
     bitOf (wmCode m.val low) s.fox.firstDue = true →
     bitOf (wmCode m.val low) s.fox.hk = false →
     ∀ e ∈ s.fox.dac, e.1 = wmCode m.val low → e.2.2.2 ≤ s.now →
     ∃ t, exec (.wmFirstEvaluation m low v) s = .next t ∧
       t.is (wmOut m.val low) = wmDecide low (s.get (wmTh m.val low)) (s.get (WM_CFG_HYS m.val)) (s.wmInput m.val v) ((s.is (wmSafe m.val low))) ∧
       bitOf (wmCode m.val low) t.fox.firstDue = false ∧
       t.is (wmStk m.val low) = (s.is (wmStk m.val low) || (wmDecide low (s.get (wmTh m.val low)) (s.get (WM_CFG_HYS m.val)) (s.wmInput m.val v) (false) && !false))) ∧
  (∀ (s : State) (m : Fin 48) (low : Bool) (v : Int),
     s.wmActive m.val low = true →
     s.wmContinuous m.val = true →
     bitOf (wmCode m.val low) s.fox.firstDue = true →
     bitOf (wmCode m.val low) s.fox.hk = true →
     ∃ t, exec (.wmFirstEvaluation m low v) s = .next t ∧
       t.is (wmOut m.val low) = s.is (wmOut m.val low) ∧
       bitOf (wmCode m.val low) t.fox.firstDue = false) ∧
  (∀ (s : State) (m : Fin 48) (low : Bool) (v : Int),
     s.wmActive m.val low = false ∨ s.wmContinuous m.val = false ∨ bitOf (wmCode m.val low) s.fox.firstDue = false →
     ∃ t, exec (.wmFirstEvaluation m low v) s = .next t ∧
       t = s) ∧
  (∀ (s : State) (ini : Initiator) (m : Fin 48) (low : Bool) (val : Word),
     s.Reaches ini (WM_CFG m.val).addr →
     ∃ t, exec (.wmEnable ini m val) s = .next t ∧
       t.is (wmEn m.val low) = (val.getLsbD (wmEn m.val low).lo) ∧
       t.is (wmOut m.val low) = (if (val.getLsbD (wmEn m.val low).lo) then (if s.is (wmEn m.val low) then s.is (wmOut m.val low) else bitOf (wmCode m.val low) s.fox.hk || t.is (wmSafe m.val low)) else if s.is (wmEn m.val low) then false else s.is (wmOut m.val low)) ∧
       bitOf (wmCode m.val low) t.fox.firstDue = (if (val.getLsbD (wmEn m.val low).lo) then (!s.is (wmEn m.val low) || bitOf (wmCode m.val low) s.fox.firstDue) else !s.is (wmEn m.val low) && bitOf (wmCode m.val low) s.fox.firstDue) ∧
       bitOf (wmCode m.val low) t.fox.hk = bitOf (wmCode m.val low) s.fox.hk ∧
       ((val.getLsbD (wmEn m.val low).lo) = false → s.is (wmEn m.val low) = true → bitOf (wmCode m.val low) t.fox.comp = false)) ∧
  (∀ (s : State) (ini : Initiator) (m : Fin 48) (low : Bool) (val : Word),
     s.Reaches ini (WM_CFG m.val).addr →
     ∃ t, exec (.wmDisable ini m val) s = .next t ∧
       t.is (wmEn m.val low) = (val.getLsbD (wmEn m.val low).lo) ∧
       t.is (wmOut m.val low) = (if (val.getLsbD (wmEn m.val low).lo) then (if s.is (wmEn m.val low) then s.is (wmOut m.val low) else bitOf (wmCode m.val low) s.fox.hk || t.is (wmSafe m.val low)) else if s.is (wmEn m.val low) then false else s.is (wmOut m.val low)) ∧
       bitOf (wmCode m.val low) t.fox.firstDue = (if (val.getLsbD (wmEn m.val low).lo) then (!s.is (wmEn m.val low) || bitOf (wmCode m.val low) s.fox.firstDue) else !s.is (wmEn m.val low) && bitOf (wmCode m.val low) s.fox.firstDue) ∧
       bitOf (wmCode m.val low) t.fox.hk = bitOf (wmCode m.val low) s.fox.hk ∧
       ((val.getLsbD (wmEn m.val low).lo) = false → s.is (wmEn m.val low) = true → bitOf (wmCode m.val low) t.fox.comp = false)) ∧
  (∀ (s : State) (ini : Initiator) (m : Fin 48) (low : Bool) (val : Word),
     s.Reaches ini (WM_TH m.val).addr →
     s.is WMG_LOCK_LOCK = false →
     ∃ t, exec (.wmThWrite ini m val) s = .next t ∧
       t.get (wmTh m.val low) = bitsOf (wmTh m.val low).hi (wmTh m.val low).lo val.toNat ∧
       (t.get (wmTh m.val low) ≠ s.get (wmTh m.val low) → t.fox.dac.any (fun e => e.1 == wmCode m.val low && e.2.2.2 == s.now + 400) = true) ∧
       s.OnlyRegs { t with fox := s.fox, hk := s.hk } [(WM_TH m.val).addr]) ∧
  (∀ (s : State) (ini : Initiator) (m : Fin 48) (val : Word),
     s.Reaches ini (WM_TH m.val).addr →
     s.is WMG_LOCK_LOCK = true →
     ∃ t, exec (.wmThWrite ini m val) s = .next t ∧
       t = s) ∧
  (∀ (s : State) (m : Fin 48) (low : Bool) (v : Int),
     s.ticking = true →
     s.isOn 8 = true →
     s.is (WM_CFG_MODE m.val) = true →
     s.is (WM_STATUS_NOSTRB m.val) = false →
     s.timebase % (1000 * 2 ^ min 10 (s.get (WM_CFG_SMP m.val))) = 0 →
     s.is (wmEn m.val low) = true →
     bitOf (wmCode m.val low) s.fox.hk = false →
     ∀ e ∈ s.fox.dac, e.1 = wmCode m.val low → e.2.2.2 ≤ s.now →
     ∃ t, exec (.wmStrobe m v) s = .next t ∧
       t.is (wmOut m.val low) = wmDecide low (s.get (wmTh m.val low)) (s.get (WM_CFG_HYS m.val)) (s.wmInput m.val v) ((if bitOf (wmCode m.val low) s.fox.firstDue then s.is (wmSafe m.val low) else s.is (wmOut m.val low))) ∧
       bitOf (wmCode m.val low) t.fox.firstDue = false ∧
       bitOf m.val t.fox.cont = false) ∧
  (∀ (s : State) (m : Fin 48) (low : Bool) (v : Int),
     s.ticking = true →
     s.isOn 8 = true →
     s.is (WM_CFG_MODE m.val) = true →
     s.is (WM_STATUS_NOSTRB m.val) = false →
     s.timebase % (1000 * 2 ^ min 10 (s.get (WM_CFG_SMP m.val))) = 0 →
     s.is (wmEn m.val low) = false ∨ bitOf (wmCode m.val low) s.fox.hk = true →
     ∃ t, exec (.wmStrobe m v) s = .next t ∧
       t.is (wmOut m.val low) = s.is (wmOut m.val low) ∧
       t.is (wmStk m.val low) = s.is (wmStk m.val low)) ∧
  (∀ (s : State) (m : Fin 48) (v : Int),
     s.ticking = false ∨ s.isOn 8 = false ∨ s.is (WM_CFG_MODE m.val) = false ∨ s.is (WM_STATUS_NOSTRB m.val) = true ∨ s.timebase % (1000 * 2 ^ min 10 (s.get (WM_CFG_SMP m.val))) ≠ 0 →
     ∃ t, exec (.wmStrobe m v) s = .next t ∧
       t = s) ∧
  (∀ (s : State) (m : Fin 48),
     s.isOn 8 = true →
     s.ticking = false →
     s.is (WM_CFG_MODE m.val) = true →
     ∃ t, exec (.wmStrobeLoss m) s = .next t ∧
       t.is (WM_STATUS_NOSTRB m.val) = true ∧
       t.wmContinuous m.val = true ∧
       bitOf m.val t.fox.cont = true ∧
       (∀ low : Bool, t.is (wmOut m.val low) = s.is (wmOut m.val low)) ∧
       s.OnlyRegs { t with fox := s.fox } [(WM_STATUS m.val).addr]) ∧
  (∀ (s : State) (m : Fin 48),
     s.isOn 8 = false ∨ s.ticking = true ∨ s.is (WM_CFG_MODE m.val) = false →
     ∃ t, exec (.wmStrobeLoss m) s = .next t ∧
       t = s) ∧
  (∀ (s : State) (code : Fin 256),
     s.isOn 8 = true →
     code.val < 0x60 →
     s.is (wmOut (code.val / 2) (code.val % 2 == 1)) = true →
     ∃ t, exec (.foxFilterAccept code) s = .next t ∧
       t.foxSource code.val = true ∧
       t = { s with fox := t.fox }) ∧
  (∀ (s : State) (code : Fin 256),
     s.isOn 8 = true →
     0x8A ≤ code.val ∧ code.val < 0x8E →
     s.padActive (code.val - 0x8A) = true →
     ∃ t, exec (.foxFilterAccept code) s = .next t ∧
       t.foxSource code.val = true ∧
       (s.foxSource code.val = false → t.bit TRN_STICKY_PAD (code.val - 0x8A) = true)) ∧
  (∀ (s : State) (code : Fin 256),
     s.isOn 8 = false ∨ (code.val < 0x60 ∧ s.is (wmOut (code.val / 2) (code.val % 2 == 1)) = false) ∨ (0x60 ≤ code.val ∧ code.val < 0x8A) ∨ 0x8E ≤ code.val ∨ (0x8A ≤ code.val ∧ code.val < 0x8E ∧ s.padActive (code.val - 0x8A) = false) →
     ∃ t, exec (.foxFilterAccept code) s = .next t ∧
       t = s) ∧
  (∀ (s : State) (i : Fin 4) (level : Option Bool),
     s.isOn 8 = true →
     (level = some (!s.padPol i.val)) →
     s.padFlt i.val = 0 →
     ∃ t, exec (.tripInEdge i level) s = .next t ∧
       t.foxSource (0x8A + i.val) = true ∧
       t.bit TRN_STICKY_PAD i.val = (s.bit TRN_STICKY_PAD i.val || !bitOf i.val s.fox.padAct) ∧
       bitOf i.val t.fox.pads = !s.padPol i.val ∧
       bitOf i.val t.fox.driven = true) ∧
  (∀ (s : State) (i : Fin 4) (level : Option Bool),
     s.isOn 8 = true →
     (level = some (!s.padPol i.val)) →
     s.padFlt i.val ≠ 0 →
     ∃ t, exec (.tripInEdge i level) s = .next t ∧
       t.foxSource (0x8A + i.val) = s.foxSource (0x8A + i.val) ∧
       bitOf i.val t.fox.pads = !s.padPol i.val ∧
       bitOf i.val t.fox.driven = true ∧
       t = { s with fox := t.fox }) ∧
  (∀ (s : State) (i : Fin 4) (level : Option Bool),
     s.isOn 8 = true →
     level ≠ some (!s.padPol i.val) →
     ∃ t, exec (.tripInEdge i level) s = .next t ∧
       bitOf i.val t.fox.pads = (level == some true) ∧
       bitOf i.val t.fox.driven = level.isSome ∧
       t.foxSource (0x8A + i.val) = false ∧
       t = { s with fox := t.fox }) ∧
  (∀ (s : State) (i : Fin 4) (level : Option Bool),
     s.isOn 8 = false →
     ∃ t, exec (.tripInEdge i level) s = .next t ∧
       bitOf i.val t.fox.pads = (level == some true) ∧
       bitOf i.val t.fox.driven = level.isSome ∧
       t = { s with fox := { s.fox with pads := t.fox.pads, driven := t.fox.driven } }) ∧
  (∀ (s : State) (ini : Initiator) (k : Fin 32) (val : Word),
     s.Reaches ini (TRN_SEL k.val).addr →
     s.is TRN_LOCK_LOCK = false →
     ∃ t, exec (.trnRouteWrite ini (BitVec.ofNat 32 (TRN_SEL k.val).addr) val) s = .next t ∧
       t.rd (TRN_SEL k.val) = (s.rd (TRN_SEL k.val) &&& 0x0) ||| (val &&& 0xFFFFFFFF) ∧
       t.fox = s.fox) ∧
  (∀ (s : State) (ini : Initiator) (j : Fin 16) (w : Fin 5) (val : Word),
     s.Reaches ini (TRN_OR_MSK j.val w.val).addr →
     s.is TRN_LOCK_LOCK = false →
     ∃ t, exec (.trnRouteWrite ini (BitVec.ofNat 32 (TRN_OR_MSK j.val w.val).addr) val) s = .next t ∧
       t.rd (TRN_OR_MSK j.val w.val) = (s.rd (TRN_OR_MSK j.val w.val) &&& 0x0) ||| (val &&& 0xFFFFFFFF) ∧
       t.fox = s.fox) ∧
  (∀ (s : State) (ini : Initiator) (val : Word),
     s.Reaches ini (TRN_PADCFG).addr →
     s.is TRN_LOCK_LOCK = false →
     ∃ t, exec (.trnRouteWrite ini (BitVec.ofNat 32 (TRN_PADCFG).addr) val) s = .next t ∧
       t.rd (TRN_PADCFG) = (s.rd (TRN_PADCFG) &&& 0xFFFF8888) ||| (val &&& 0x7777)) ∧
  (∀ (s : State) (ini : Initiator) (val : Word),
     s.Reaches ini (TRN_OUT).addr →
     s.is TRN_LOCK_LOCK = false →
     ∃ t, exec (.trnRouteWrite ini (BitVec.ofNat 32 (TRN_OUT).addr) val) s = .next t ∧
       t.rd (TRN_OUT) = (s.rd (TRN_OUT) &&& 0xFFFFFE00) ||| (val &&& 0x1FF) ∧
       t.fox = s.fox) ∧
  (∀ (s : State) (ini : Initiator) (k : Fin 32) (j : Fin 16) (w : Fin 5) (addr val : Word),
     s.Reaches ini addr.toNat →
     s.is TRN_LOCK_LOCK = true →
     (addr.toNat = (TRN_SEL k.val).addr ∨ addr.toNat = (TRN_OR_MSK j.val w.val).addr ∨ addr.toNat = TRN_PADCFG.addr ∨ addr.toNat = TRN_OUT.addr) →
     ∃ t, exec (.trnRouteWrite ini addr val) s = .next t ∧
       t.rd (regAt addr.toNat) = s.rd (regAt addr.toNat)) ∧
  (∀ (s : State) (ini : Initiator) (addr val : Word),
     isRouteReg addr.toNat = false →
     ∃ t, exec (.trnRouteWrite ini addr val) s = .next t ∧
       t = s)

/-- At a word that encodes it, each vector instruction of the control extension writes its destination register from its sources
as the table says, the flags of its element operations into fcsr, moves the PC on, and leaves every other register, engine and
byte alone; CX.VLD and CX.MLD load from the engine's data memory, CX.VST stores there, words in the mailbox area and the
snapshot bank excepted; a misaligned access and one outside the data memory trap with their cause. An engine that does not
run, or whose PC holds another instruction, is left as it is (R196, R198, R201, R207, R210 to R213). -/
def Obligations.VectorInstructionsOfTheControlEngines : Prop :=
  (∀ (s : State) (n : Fin 8) (rd r1 r2 : Fin 8),
     s.At n (rWord 0x0B 1 0 (rd.val) (r1.val) (r2.val)) →
     ∃ t, exec (.cxVadd n) s = .next t ∧
       t = s.setCe n.val { (s.ceOf n.val) with v := (s.ceOf n.val).v.set rd.val ((((s.ceOf n.val).vr r1.val).zip ((s.ceOf n.val).vr r2.val)).map (fun (e : Word × Word) => word32 (f32Add 0 (un e.1) (un e.2)).1)), fcsr := (t.ceOf n.val).fcsr }.retire ∧
       (t.ceOf n.val).fcsr = (s.ceOf n.val).fcsr ||| (((((s.ceOf n.val).vr r1.val).zip ((s.ceOf n.val).vr r2.val)).map (fun (e : Word × Word) => f32Add 0 (un e.1) (un e.2))).foldl (fun (k : Nat) (r : Nat × Nat) => k ||| r.2) 0) % 32) ∧
  (∀ (s : State) (n : Fin 8) (rd r1 r2 : Fin 8),
     s.At n (rWord 0x0B 1 1 (rd.val) (r1.val) (r2.val)) →
     ∃ t, exec (.cxVsub n) s = .next t ∧
       t = s.setCe n.val { (s.ceOf n.val) with v := (s.ceOf n.val).v.set rd.val ((((s.ceOf n.val).vr r1.val).zip ((s.ceOf n.val).vr r2.val)).map (fun (e : Word × Word) => word32 (f32Sub 0 (un e.1) (un e.2)).1)), fcsr := (t.ceOf n.val).fcsr }.retire ∧
       (t.ceOf n.val).fcsr = (s.ceOf n.val).fcsr ||| (((((s.ceOf n.val).vr r1.val).zip ((s.ceOf n.val).vr r2.val)).map (fun (e : Word × Word) => f32Sub 0 (un e.1) (un e.2))).foldl (fun (k : Nat) (r : Nat × Nat) => k ||| r.2) 0) % 32) ∧
  (∀ (s : State) (n : Fin 8) (rd r1 : Fin 8) (r2 : Fin 32),
     s.At n (rWord 0x0B 1 2 (rd.val) (r1.val) (r2.val)) →
     ∃ t, exec (.cxVscl n) s = .next t ∧
       t = s.setCe n.val { (s.ceOf n.val) with v := (s.ceOf n.val).v.set rd.val (((s.ceOf n.val).vr r1.val).map (fun (e : Word) => word32 (f32Mul 0 (un e) (f32Unpack ((s.ceOf n.val).fr r2.val))).1)), fcsr := (t.ceOf n.val).fcsr }.retire ∧
       (t.ceOf n.val).fcsr = (s.ceOf n.val).fcsr ||| ((((s.ceOf n.val).vr r1.val).map (fun (e : Word) => f32Mul 0 (un e) (f32Unpack ((s.ceOf n.val).fr r2.val)))).foldl (fun (k : Nat) (r : Nat × Nat) => k ||| r.2) 0) % 32) ∧
  (∀ (s : State) (n : Fin 8) (rd : Fin 8) (r1 : Fin 4) (r2 : Fin 8),
     s.At n (rWord 0x0B 0 2 (rd.val) (r1.val) (r2.val)) →
     ∃ t, exec (.cxMv n) s = .next t ∧
       t = s.setCe n.val { (s.ceOf n.val) with v := (s.ceOf n.val).v.set rd.val ((List.range 6).map (fun i => word32 (rowMv ((((s.ceOf n.val).mr r1.val).drop (6 * i)).take 6) ((s.ceOf n.val).vr r2.val)).1)), fcsr := (t.ceOf n.val).fcsr }.retire) ∧
  (∀ (s : State) (n : Fin 8) (rd : Fin 8) (r1 : Fin 32),
     s.At n (rWord 0x0B 2 0 (rd.val) (r1.val) (0)) →
     ((s.ceOf n.val).xr r1.val).toNat % 4 = 0 →
     0x20000 ≤ ((s.ceOf n.val).xr r1.val).toNat →
     ((s.ceOf n.val).xr r1.val).toNat + 24 ≤ 0x40000 →
     ∃ t, exec (.cxVld n) s = .next t ∧
       t = s.setCe n.val { (s.ceOf n.val) with v := (s.ceOf n.val).v.set rd.val (s.rdWords (ceOwn n.val ((s.ceOf n.val).xr r1.val).toNat) 6) }.retire) ∧
  (∀ (s : State) (n : Fin 8) (rd : Fin 8) (r1 : Fin 32),
     s.At n (rWord 0x0B 2 0 (rd.val) (r1.val) (0)) →
     ((s.ceOf n.val).xr r1.val).toNat % 4 ≠ 0 →
     ∃ t, exec (.cxVld n) s = .next t ∧
       (t.ceOf n.val).mcause = 4 ∧
       (t.ceOf n.val).mtval = ((s.ceOf n.val).xr r1.val).toNat ∧
       (t.ceOf n.val).mepc = (s.ceOf n.val).pc ∧
       (t.ceOf n.val).x = (s.ceOf n.val).x ∧
       (t.ceOf n.val).v = (s.ceOf n.val).v ∧
       (t.ceOf n.val).m = (s.ceOf n.val).m ∧
       t.get (CE_STATUS_TRAPCAUSE n.val) = 4 ∧
       t.mem = s.mem ∧
       t.get (CE_STATUS_STATE n.val) = (if s.is (CE_CTRL_TRAPHALT n.val) then 3 else 2) ∧
       (t.ceOf n.val).pc = (if s.is (CE_CTRL_TRAPHALT n.val) then (s.ceOf n.val).pc else (s.ceOf n.val).mtvec / 4 * 4)) ∧
  (∀ (s : State) (n : Fin 8) (rd : Fin 8) (r1 : Fin 32),
     s.At n (rWord 0x0B 2 0 (rd.val) (r1.val) (0)) →
     ((s.ceOf n.val).xr r1.val).toNat % 4 = 0 →
     ¬(0x20000 ≤ ((s.ceOf n.val).xr r1.val).toNat ∧ ((s.ceOf n.val).xr r1.val).toNat + 24 ≤ 0x40000) →
     ∃ t, exec (.cxVld n) s = .next t ∧
       (t.ceOf n.val).mcause = 5 ∧
       (t.ceOf n.val).mtval = ((s.ceOf n.val).xr r1.val).toNat ∧
       (t.ceOf n.val).mepc = (s.ceOf n.val).pc ∧
       (t.ceOf n.val).x = (s.ceOf n.val).x ∧
       (t.ceOf n.val).v = (s.ceOf n.val).v ∧
       (t.ceOf n.val).m = (s.ceOf n.val).m ∧
       t.get (CE_STATUS_TRAPCAUSE n.val) = 5 ∧
       t.mem = s.mem ∧
       t.get (CE_STATUS_STATE n.val) = (if s.is (CE_CTRL_TRAPHALT n.val) then 3 else 2) ∧
       (t.ceOf n.val).pc = (if s.is (CE_CTRL_TRAPHALT n.val) then (s.ceOf n.val).pc else (s.ceOf n.val).mtvec / 4 * 4)) ∧
  (∀ (s : State) (n : Fin 8) (rd : Fin 4) (r1 : Fin 32),
     s.At n (rWord 0x0B 2 1 (rd.val) (r1.val) (0)) →
     ((s.ceOf n.val).xr r1.val).toNat % 4 = 0 →
     0x20000 ≤ ((s.ceOf n.val).xr r1.val).toNat →
     ((s.ceOf n.val).xr r1.val).toNat + 144 ≤ 0x40000 →
     ∃ t, exec (.cxMld n) s = .next t ∧
       t = s.setCe n.val { (s.ceOf n.val) with m := (s.ceOf n.val).m.set rd.val (s.rdWords (ceOwn n.val ((s.ceOf n.val).xr r1.val).toNat) 36) }.retire) ∧
  (∀ (s : State) (n : Fin 8) (rd : Fin 4) (r1 : Fin 32),
     s.At n (rWord 0x0B 2 1 (rd.val) (r1.val) (0)) →
     ((s.ceOf n.val).xr r1.val).toNat % 4 ≠ 0 →
     ∃ t, exec (.cxMld n) s = .next t ∧
       (t.ceOf n.val).mcause = 4 ∧
       (t.ceOf n.val).mtval = ((s.ceOf n.val).xr r1.val).toNat ∧
       (t.ceOf n.val).mepc = (s.ceOf n.val).pc ∧
       (t.ceOf n.val).x = (s.ceOf n.val).x ∧
       (t.ceOf n.val).v = (s.ceOf n.val).v ∧
       (t.ceOf n.val).m = (s.ceOf n.val).m ∧
       t.get (CE_STATUS_TRAPCAUSE n.val) = 4 ∧
       t.mem = s.mem ∧
       t.get (CE_STATUS_STATE n.val) = (if s.is (CE_CTRL_TRAPHALT n.val) then 3 else 2) ∧
       (t.ceOf n.val).pc = (if s.is (CE_CTRL_TRAPHALT n.val) then (s.ceOf n.val).pc else (s.ceOf n.val).mtvec / 4 * 4)) ∧
  (∀ (s : State) (n : Fin 8) (rd : Fin 4) (r1 : Fin 32),
     s.At n (rWord 0x0B 2 1 (rd.val) (r1.val) (0)) →
     ((s.ceOf n.val).xr r1.val).toNat % 4 = 0 →
     ¬(0x20000 ≤ ((s.ceOf n.val).xr r1.val).toNat ∧ ((s.ceOf n.val).xr r1.val).toNat + 144 ≤ 0x40000) →
     ∃ t, exec (.cxMld n) s = .next t ∧
       (t.ceOf n.val).mcause = 5 ∧
       (t.ceOf n.val).mtval = ((s.ceOf n.val).xr r1.val).toNat ∧
       (t.ceOf n.val).mepc = (s.ceOf n.val).pc ∧
       (t.ceOf n.val).x = (s.ceOf n.val).x ∧
       (t.ceOf n.val).v = (s.ceOf n.val).v ∧
       (t.ceOf n.val).m = (s.ceOf n.val).m ∧
       t.get (CE_STATUS_TRAPCAUSE n.val) = 5 ∧
       t.mem = s.mem ∧
       t.get (CE_STATUS_STATE n.val) = (if s.is (CE_CTRL_TRAPHALT n.val) then 3 else 2) ∧
       (t.ceOf n.val).pc = (if s.is (CE_CTRL_TRAPHALT n.val) then (s.ceOf n.val).pc else (s.ceOf n.val).mtvec / 4 * 4)) ∧
  (∀ (s : State) (n : Fin 8) (r1 : Fin 32) (r2 : Fin 8),
     s.At n (rWord 0x0B 3 0 (0) (r1.val) (r2.val)) →
     ((s.ceOf n.val).xr r1.val).toNat % 4 = 0 →
     0x20000 ≤ ((s.ceOf n.val).xr r1.val).toNat →
     ((s.ceOf n.val).xr r1.val).toNat + 24 ≤ 0x40000 →
     ∃ t, exec (.cxVst n) s = .next t ∧
       (∀ i : Fin 6, t.rdMem32 (ceOwn n.val ((s.ceOf n.val).xr r1.val).toNat + 4 * i.val) = (if ((s.ceOf n.val).xr r1.val).toNat + 4 * i.val < 0x3FA00 then nth ((s.ceOf n.val).vr r2.val) i.val 0 else s.rdMem32 (ceOwn n.val ((s.ceOf n.val).xr r1.val).toNat + 4 * i.val))) ∧
       (∀ a, a < ceOwn n.val ((s.ceOf n.val).xr r1.val).toNat ∨ ceOwn n.val ((s.ceOf n.val).xr r1.val).toNat + 24 ≤ a → t.rdByte a = s.rdByte a) ∧
       (t.ceOf n.val) = { (s.ceOf n.val) with stored := (t.ceOf n.val).stored }.retire ∧
       s.OnlyRegs { t with mem := s.mem, ce := s.ce } [CEC_TCMCOLL_CNT.addr]) ∧
  (∀ (s : State) (n : Fin 8) (r1 : Fin 32) (r2 : Fin 8),
     s.At n (rWord 0x0B 3 0 (0) (r1.val) (r2.val)) →
     ((s.ceOf n.val).xr r1.val).toNat % 4 ≠ 0 →
     ∃ t, exec (.cxVst n) s = .next t ∧
       (t.ceOf n.val).mcause = 6 ∧
       (t.ceOf n.val).mtval = ((s.ceOf n.val).xr r1.val).toNat ∧
       (t.ceOf n.val).mepc = (s.ceOf n.val).pc ∧
       (t.ceOf n.val).x = (s.ceOf n.val).x ∧
       (t.ceOf n.val).v = (s.ceOf n.val).v ∧
       (t.ceOf n.val).m = (s.ceOf n.val).m ∧
       t.get (CE_STATUS_TRAPCAUSE n.val) = 6 ∧
       t.mem = s.mem ∧
       t.get (CE_STATUS_STATE n.val) = (if s.is (CE_CTRL_TRAPHALT n.val) then 3 else 2) ∧
       (t.ceOf n.val).pc = (if s.is (CE_CTRL_TRAPHALT n.val) then (s.ceOf n.val).pc else (s.ceOf n.val).mtvec / 4 * 4)) ∧
  (∀ (s : State) (n : Fin 8) (r1 : Fin 32) (r2 : Fin 8),
     s.At n (rWord 0x0B 3 0 (0) (r1.val) (r2.val)) →
     ((s.ceOf n.val).xr r1.val).toNat % 4 = 0 →
     ¬(0x20000 ≤ ((s.ceOf n.val).xr r1.val).toNat ∧ ((s.ceOf n.val).xr r1.val).toNat + 24 ≤ 0x40000) →
     ∃ t, exec (.cxVst n) s = .next t ∧
       (t.ceOf n.val).mcause = 7 ∧
       (t.ceOf n.val).mtval = ((s.ceOf n.val).xr r1.val).toNat ∧
       (t.ceOf n.val).mepc = (s.ceOf n.val).pc ∧
       (t.ceOf n.val).x = (s.ceOf n.val).x ∧
       (t.ceOf n.val).v = (s.ceOf n.val).v ∧
       (t.ceOf n.val).m = (s.ceOf n.val).m ∧
       t.get (CE_STATUS_TRAPCAUSE n.val) = 7 ∧
       t.mem = s.mem ∧
       t.get (CE_STATUS_STATE n.val) = (if s.is (CE_CTRL_TRAPHALT n.val) then 3 else 2) ∧
       (t.ceOf n.val).pc = (if s.is (CE_CTRL_TRAPHALT n.val) then (s.ceOf n.val).pc else (s.ceOf n.val).mtvec / 4 * 4)) ∧
  (∀ (s : State) (n : Fin 8) (rd : Fin 32) (r1 : Fin 8) (r2 : Fin 6),
     s.At n (rWord 0x0B 4 0 (rd.val) (r1.val) (r2.val)) →
     ∃ t, exec (.cxVext n) s = .next t ∧
       t = s.setCe n.val { (s.ceOf n.val) with f := (s.ceOf n.val).f.set rd.val (nth ((s.ceOf n.val).vr r1.val) r2.val 0) }.retire) ∧
  (∀ (s : State) (n : Fin 8) (rd : Fin 8) (r1 : Fin 32) (r2 : Fin 6),
     s.At n (rWord 0x0B 5 0 (rd.val) (r1.val) (r2.val)) →
     ∃ t, exec (.cxVins n) s = .next t ∧
       t = s.setCe n.val { (s.ceOf n.val) with v := (s.ceOf n.val).v.set rd.val (((s.ceOf n.val).vr rd.val).set r2.val (nth (s.ceOf n.val).f r1.val 0)) }.retire) ∧
  (∀ (s : State) (n : Fin 8),
     s.ceRuns n.val = false ∨ ∀ w ∈ s.ceFetch n.val, cxDecode w ≠ some .vadd →
     ∃ t, exec (.cxVadd n) s = .next t ∧
       t = s) ∧
  (∀ (s : State) (n : Fin 8),
     s.ceRuns n.val = false ∨ ∀ w ∈ s.ceFetch n.val, cxDecode w ≠ some .vsub →
     ∃ t, exec (.cxVsub n) s = .next t ∧
       t = s) ∧
  (∀ (s : State) (n : Fin 8),
     s.ceRuns n.val = false ∨ ∀ w ∈ s.ceFetch n.val, cxDecode w ≠ some .vscl →
     ∃ t, exec (.cxVscl n) s = .next t ∧
       t = s) ∧
  (∀ (s : State) (n : Fin 8),
     s.ceRuns n.val = false ∨ ∀ w ∈ s.ceFetch n.val, cxDecode w ≠ some .mv →
     ∃ t, exec (.cxMv n) s = .next t ∧
       t = s) ∧
  (∀ (s : State) (n : Fin 8),
     s.ceRuns n.val = false ∨ ∀ w ∈ s.ceFetch n.val, cxDecode w ≠ some .vld →
     ∃ t, exec (.cxVld n) s = .next t ∧
       t = s) ∧
  (∀ (s : State) (n : Fin 8),
     s.ceRuns n.val = false ∨ ∀ w ∈ s.ceFetch n.val, cxDecode w ≠ some .mld →
     ∃ t, exec (.cxMld n) s = .next t ∧
       t = s) ∧
  (∀ (s : State) (n : Fin 8),
     s.ceRuns n.val = false ∨ ∀ w ∈ s.ceFetch n.val, cxDecode w ≠ some .vst →
     ∃ t, exec (.cxVst n) s = .next t ∧
       t = s) ∧
  (∀ (s : State) (n : Fin 8),
     s.ceRuns n.val = false ∨ ∀ w ∈ s.ceFetch n.val, cxDecode w ≠ some .vext →
     ∃ t, exec (.cxVext n) s = .next t ∧
       t = s) ∧
  (∀ (s : State) (n : Fin 8),
     s.ceRuns n.val = false ∨ ∀ w ∈ s.ceFetch n.val, cxDecode w ≠ some .vins →
     ∃ t, exec (.cxVins n) s = .next t ∧
       t = s)

/-- At a word that encodes it, each scalar instruction of the control extension writes its destination from its sources and moves
the PC on: saturating adds and clamps with SAT sticky, FCLMP by the bounds, DUTY as the clamped rounded product, RSQRT, ROT
and SINCOS. x0 is never written. Which of the orders of rounding ROT takes, the values of SINCOS within their bound and the
flags of DUTY and SINCOS are free values (log entry 4). An engine that does not run, or whose PC holds another instruction, is
left as it is (R211, R212). -/
def Obligations.ScalarInstructionsOfTheControlEngines : Prop :=
  (∀ (s : State) (n : Fin 8) (rd r1 r2 : Fin 32),
     s.At n (rWord 0x2B 4 0 (rd.val) (r1.val) (r2.val)) →
     ∃ t, exec (.cxSadd n) s = .next t ∧
       t = s.setCe n.val ({ (s.ceOf n.val) with cxstat := if clampInt (-(2 ^ (32 - 1) : Nat)) ((2 ^ (32 - 1) : Nat) - 1) (((s.ceOf n.val).xr r1.val).toInt + ((s.ceOf n.val).xr r2.val).toInt) = ((s.ceOf n.val).xr r1.val).toInt + ((s.ceOf n.val).xr r2.val).toInt then (s.ceOf n.val).cxstat else (s.ceOf n.val).cxstat ||| 1 }.setX rd.val (BitVec.ofInt 32 (clampInt (-(2 ^ (32 - 1) : Nat)) ((2 ^ (32 - 1) : Nat) - 1) (((s.ceOf n.val).xr r1.val).toInt + ((s.ceOf n.val).xr r2.val).toInt)))).retire) ∧
  (∀ (s : State) (n : Fin 8) (rd r1 r2 : Fin 32),
     s.At n (rWord 0x2B 4 1 (rd.val) (r1.val) (r2.val)) →
     ∃ t, exec (.cxSsub n) s = .next t ∧
       t = s.setCe n.val ({ (s.ceOf n.val) with cxstat := if clampInt (-(2 ^ (32 - 1) : Nat)) ((2 ^ (32 - 1) : Nat) - 1) (((s.ceOf n.val).xr r1.val).toInt - ((s.ceOf n.val).xr r2.val).toInt) = ((s.ceOf n.val).xr r1.val).toInt - ((s.ceOf n.val).xr r2.val).toInt then (s.ceOf n.val).cxstat else (s.ceOf n.val).cxstat ||| 1 }.setX rd.val (BitVec.ofInt 32 (clampInt (-(2 ^ (32 - 1) : Nat)) ((2 ^ (32 - 1) : Nat) - 1) (((s.ceOf n.val).xr r1.val).toInt - ((s.ceOf n.val).xr r2.val).toInt)))).retire) ∧
  (∀ (s : State) (n : Fin 8) (rd r1 r2 : Fin 32),
     s.At n (rWord 0x2B 5 0 (rd.val) (r1.val) (r2.val)) →
     r2.val ≠ 0 →
     ∃ t, exec (.cxSatn n) s = .next t ∧
       t = s.setCe n.val ({ (s.ceOf n.val) with cxstat := if clampInt (-(2 ^ ((r2.val + 1) - 1) : Nat)) ((2 ^ ((r2.val + 1) - 1) : Nat) - 1) (((s.ceOf n.val).xr r1.val).toInt) = ((s.ceOf n.val).xr r1.val).toInt then (s.ceOf n.val).cxstat else (s.ceOf n.val).cxstat ||| 1 }.setX rd.val (BitVec.ofInt 32 (clampInt (-(2 ^ ((r2.val + 1) - 1) : Nat)) ((2 ^ ((r2.val + 1) - 1) : Nat) - 1) (((s.ceOf n.val).xr r1.val).toInt)))).retire) ∧
  (∀ (s : State) (n : Fin 8) (rd r1 r2 r3 : Fin 32),
     s.At n (rWord 0x2B 3 0 (rd.val) (r1.val) (r2.val + 2 ^ 7 * r3.val)) →
     ∃ t, exec (.cxFclmp n) s = .next t ∧
       t = s.setCe n.val { (s.ceOf n.val) with f := (s.ceOf n.val).f.set rd.val (word32 (fclmp ((s.ceOf n.val).fr r1.val) ((s.ceOf n.val).fr r2.val) ((s.ceOf n.val).fr r3.val)).1), fcsr := (s.ceOf n.val).fcsr ||| (fclmp ((s.ceOf n.val).fr r1.val) ((s.ceOf n.val).fr r2.val) ((s.ceOf n.val).fr r3.val)).2 % 32 }.retire) ∧
  (∀ (s : State) (n : Fin 8) (rd r1 r2 : Fin 32),
     s.At n (rWord 0x2B 6 0 (rd.val) (r1.val) (r2.val)) →
     ∃ t, exec (.cxDuty n) s = .next t ∧
       t = (s.useFree).setCe n.val ({ (s.ceOf n.val) with fcsr := (t.ceOf n.val).fcsr }.setX rd.val (word32 (dutyOf (f32Unpack ((s.ceOf n.val).fr r1.val)) ((s.ceOf n.val).xr r2.val).toNat).1)).retire) ∧
  (∀ (s : State) (n : Fin 8) (rd r1 : Fin 32),
     s.At n (rWord 0x2B 2 0 (rd.val) (r1.val) (0)) →
     ∃ t, exec (.cxRsqrt n) s = .next t ∧
       t = s.setCe n.val { (s.ceOf n.val) with f := (s.ceOf n.val).f.set rd.val (word32 (f32Rsqrt (f32Unpack ((s.ceOf n.val).fr r1.val))).1), fcsr := (s.ceOf n.val).fcsr ||| (f32Rsqrt (f32Unpack ((s.ceOf n.val).fr r1.val))).2 % 32 }.retire) ∧
  (∀ (s : State) (n : Fin 8) (p : Fin 16) (r1 : Fin 32),
     s.At n (rWord 0x2B 0 0 (2 * p.val) (r1.val) (0)) →
     ∃ t, exec (.cxSincos n) s = .next t ∧
       t.ceOf n.val = { (s.ceOf n.val) with f := (t.ceOf n.val).f, fcsr := (t.ceOf n.val).fcsr }.retire ∧
       t = { s with ce := t.ce, fresh := s.fresh + 3 } ∧
       (∀ i : Fin 32, i.val ≠ 2 * p.val → i.val ≠ 2 * p.val + 1 → (t.ceOf n.val).fr i.val = (s.ceOf n.val).fr i.val) ∧
       ((s.ceOf n.val).f.length = 32 → (t.ceOf n.val).fr (2 * p.val) = s.near22 (sinTurn false ((s.ceOf n.val).xr r1.val).toNat) % 2 ^ 32 ∧ (t.ceOf n.val).fr (2 * p.val + 1) = s.useFree.near22 (sinTurn true ((s.ceOf n.val).xr r1.val).toNat) % 2 ^ 32)) ∧
  (∀ (s : State) (n : Fin 8) (p q r : Fin 16),
     s.At n (rWord 0x2B 1 0 (2 * p.val) (2 * q.val) (2 * r.val)) →
     ∃ t, exec (.cxRot n) s = .next t ∧
       t.ceOf n.val = { (s.ceOf n.val) with f := (t.ceOf n.val).f, fcsr := (t.ceOf n.val).fcsr }.retire ∧
       t = { s with ce := t.ce, fresh := s.fresh + 1 } ∧
       (∀ i : Fin 32, i.val ≠ 2 * p.val → i.val ≠ 2 * p.val + 1 → (t.ceOf n.val).fr i.val = (s.ceOf n.val).fr i.val) ∧
       ((s.ceOf n.val).f.length = 32 → (∃ how : Fin 3, (t.ceOf n.val).fr (2 * p.val) = (dot2 how.val (f32Unpack ((s.ceOf n.val).fr (2 * r.val + 1))) (f32Unpack ((s.ceOf n.val).fr (2 * q.val))) (f32Neg (f32Unpack ((s.ceOf n.val).fr (2 * r.val)))) (f32Unpack ((s.ceOf n.val).fr (2 * q.val + 1)))).1 % 2 ^ 32 ∧ (t.ceOf n.val).fr (2 * p.val + 1) = (dot2 how.val (f32Unpack ((s.ceOf n.val).fr (2 * r.val))) (f32Unpack ((s.ceOf n.val).fr (2 * q.val))) (f32Unpack ((s.ceOf n.val).fr (2 * r.val + 1))) (f32Unpack ((s.ceOf n.val).fr (2 * q.val + 1)))).1 % 2 ^ 32))) ∧
  (∀ (s : State) (n : Fin 8),
     s.ceRuns n.val = false ∨ ∀ w ∈ s.ceFetch n.val, cxDecode w ≠ some .sadd →
     ∃ t, exec (.cxSadd n) s = .next t ∧
       t = s) ∧
  (∀ (s : State) (n : Fin 8),
     s.ceRuns n.val = false ∨ ∀ w ∈ s.ceFetch n.val, cxDecode w ≠ some .ssub →
     ∃ t, exec (.cxSsub n) s = .next t ∧
       t = s) ∧
  (∀ (s : State) (n : Fin 8),
     s.ceRuns n.val = false ∨ ∀ w ∈ s.ceFetch n.val, cxDecode w ≠ some .satn →
     ∃ t, exec (.cxSatn n) s = .next t ∧
       t = s) ∧
  (∀ (s : State) (n : Fin 8),
     s.ceRuns n.val = false ∨ ∀ w ∈ s.ceFetch n.val, cxDecode w ≠ some .fclmp →
     ∃ t, exec (.cxFclmp n) s = .next t ∧
       t = s) ∧
  (∀ (s : State) (n : Fin 8),
     s.ceRuns n.val = false ∨ ∀ w ∈ s.ceFetch n.val, cxDecode w ≠ some .duty →
     ∃ t, exec (.cxDuty n) s = .next t ∧
       t = s) ∧
  (∀ (s : State) (n : Fin 8),
     s.ceRuns n.val = false ∨ ∀ w ∈ s.ceFetch n.val, cxDecode w ≠ some .rsqrt →
     ∃ t, exec (.cxRsqrt n) s = .next t ∧
       t = s) ∧
  (∀ (s : State) (n : Fin 8),
     s.ceRuns n.val = false ∨ ∀ w ∈ s.ceFetch n.val, cxDecode w ≠ some .sincos →
     ∃ t, exec (.cxSincos n) s = .next t ∧
       t = s) ∧
  (∀ (s : State) (n : Fin 8),
     s.ceRuns n.val = false ∨ ∀ w ∈ s.ceFetch n.val, cxDecode w ≠ some .rot →
     ∃ t, exec (.cxRot n) s = .next t ∧
       t = s)

/-- CX.WAIT closes an open update, lets the frozen records take the newest results and leaves the engine waiting on its mask, or
takes the lowest pending set of it at once and counts it; CX.DONE closes the open update with its length in CYCLES and, when
on time, ends a run of misses; CX.MBTAKE returns 0 for a slot without a setpoint to take, also where its flip landed in the
same cycle, and otherwise takes the newest half and returns its address, its request being answered where one waits; CX.LGRD
returns the latched limits, CX.LGWR stores the prediction of an engine with a ledger entry with its cycle, CX.WTIME returns
the wake time, CX.XWR writes a word of the engine that CX.XRD returns from the second cycle on. An engine that does not run,
or whose PC holds another instruction, is left as it is (R200, R201, R203, R204, R207 to R209, R211). -/
def Obligations.UpdatesWaitsAndInterfacesOfTheControlEngines : Prop :=
  (∀ (s : State) (n : Fin 8) (rd r1 : Fin 32),
     s.At n (rWord 0x5B 0 0 (rd.val) (r1.val) (0)) →
     s.is (CE_DLSTAT_OPEN n.val) = false →
     ∀ k : Fin 4, bitOf k.val (((s.ceOf n.val).xr r1.val).toNat % 16) = true → (nth (s.ceOf n.val).sets k.val ⟨0, false, 0⟩).pend = false →
     ∃ t, exec (.cxWait n) s = .next t ∧
       t.get (CE_STATUS_STATE n.val) = 1 ∧
       t.ceOf n.val = { (s.ceOf n.val) with waitMask := (((s.ceOf n.val).xr r1.val).toNat % 16), waitRd := rd.val, woken := none, takenSet := none } ∧
       (∀ u : Fin 64, s.snapFrozen n.val u.val = true → t.rdBytes (snapAddr n.val u.val) 16 = s.resBytes u.val) ∧
       (∀ a, (∀ u : Fin 64, s.snapFrozen n.val u.val = true → a < snapAddr n.val u.val ∨ snapAddr n.val u.val + 16 ≤ a) → t.rdByte a = s.rdByte a) ∧
       s.OnlyRegs { t with ce := s.ce, mem := s.mem } [(CE_STATUS n.val).addr]) ∧
  (∀ (s : State) (n : Fin 8) (rd r1 : Fin 32),
     s.At n (rWord 0x5B 0 0 (rd.val) (r1.val) (0)) →
     s.is (CE_DLSTAT_OPEN n.val) = true →
     ∀ k : Fin 4, bitOf k.val (((s.ceOf n.val).xr r1.val).toNat % 16) = true → (nth (s.ceOf n.val).sets k.val ⟨0, false, 0⟩).pend = false →
     ∃ t, exec (.cxWait n) s = .next t ∧
       t.get (CE_STATUS_STATE n.val) = 1 ∧
       t.ceOf n.val = { (s.ceOf n.val) with waitMask := (((s.ceOf n.val).xr r1.val).toNat % 16), waitRd := rd.val, woken := none, takenSet := none, withhold := false } ∧
       t.is (CE_DLSTAT_OPEN n.val) = false ∧
       t.get (CE_CYCLES_LAST n.val) = (min 0xFFFF (s.cyc - (s.ceOf n.val).wakeCyc)) ∧
       t.get (CE_CYCLES_MAX n.val) = max (min 0xFFFF (s.cyc - (s.ceOf n.val).wakeCyc)) (s.get (CE_CYCLES_MAX n.val)) ∧
       t.get (CE_DLSTAT_RUNMISS n.val) = (if (s.ceOf n.val).missed then s.get (CE_DLSTAT_RUNMISS n.val) else 0) ∧
       (∀ u : Fin 64, s.snapFrozen n.val u.val = true → t.rdBytes (snapAddr n.val u.val) 16 = s.resBytes u.val) ∧
       (∀ a, (∀ u : Fin 64, s.snapFrozen n.val u.val = true → a < snapAddr n.val u.val ∨ snapAddr n.val u.val + 16 ≤ a) → t.rdByte a = s.rdByte a) ∧
       s.OnlyRegs { t with ce := s.ce, mem := s.mem } [(CE_STATUS n.val).addr, (CE_DLSTAT n.val).addr, (CE_CYCLES n.val).addr]) ∧
  (∀ (s : State) (n : Fin 8) (rd r1 : Fin 32) (k : Fin 4),
     s.At n (rWord 0x5B 0 0 (rd.val) (r1.val) (0)) →
     bitOf k.val (((s.ceOf n.val).xr r1.val).toNat % 16) = true →
     (nth (s.ceOf n.val).sets k.val ⟨0, false, 0⟩).pend = true →
     ∀ j : Fin 4, j < k → bitOf j.val (((s.ceOf n.val).xr r1.val).toNat % 16) = true → (nth (s.ceOf n.val).sets j.val ⟨0, false, 0⟩).pend = false →
     ∃ t, exec (.cxWait n) s = .next t ∧
       t.get (CE_STATUS_STATE n.val) = 1 ∧
       (t.ceOf n.val).woken = some k.val ∧
       (t.ceOf n.val).takenSet = some k.val ∧
       (t.ceOf n.val).wakeAt = s.cyc + 2 ∧
       (t.ceOf n.val).wakeStamp = (nth (s.ceOf n.val).sets k.val ⟨0, false, 0⟩).stamp ∧
       (t.ceOf n.val).waitMask = (((s.ceOf n.val).xr r1.val).toNat % 16) ∧ (t.ceOf n.val).waitRd = rd.val ∧ (t.ceOf n.val).pc = (s.ceOf n.val).pc ∧
       ((s.ceOf n.val).sets.length = 4 → (nth (t.ceOf n.val).sets k.val ⟨0, false, 0⟩).pend = false) ∧
       t.bit (CE_STATUS_PEND n.val) k.val = false ∧
       t.get (CE_CNT_OVRUN n.val) = min (s.get (CE_CNT_OVRUN n.val) + 1) 0xFFFF ∧
       t.is (CE_DLSTAT_OPEN n.val) = false) ∧
  (∀ (s : State) (n : Fin 8),
     s.At n (rWord 0x5B 1 0 (0) (0) (0)) →
     s.is (CE_DLSTAT_OPEN n.val) = true →
     ∃ t, exec (.cxDone n) s = .next t ∧
       t.is (CE_DLSTAT_OPEN n.val) = false ∧
       t.get (CE_CYCLES_LAST n.val) = (min 0xFFFF (s.cyc - (s.ceOf n.val).wakeCyc)) ∧
       t.get (CE_CYCLES_MAX n.val) = max (min 0xFFFF (s.cyc - (s.ceOf n.val).wakeCyc)) (s.get (CE_CYCLES_MAX n.val)) ∧
       t.get (CE_DLSTAT_RUNMISS n.val) = (if (s.ceOf n.val).missed then s.get (CE_DLSTAT_RUNMISS n.val) else 0) ∧
       t.ceOf n.val = { (s.ceOf n.val) with withhold := false }.retire ∧
       s.OnlyRegs { t with ce := s.ce } [(CE_DLSTAT n.val).addr, (CE_CYCLES n.val).addr]) ∧
  (∀ (s : State) (n : Fin 8),
     s.At n (rWord 0x5B 1 0 (0) (0) (0)) →
     s.is (CE_DLSTAT_OPEN n.val) = false →
     ∃ t, exec (.cxDone n) s = .next t ∧
       t = s.setCe n.val (s.ceOf n.val).retire) ∧
  (∀ (s : State) (n : Fin 8) (rd r1 : Fin 32),
     s.At n (rWord 0x5B 2 0 (rd.val) (r1.val) (0)) →
     (s.slotOf n.val (((s.ceOf n.val).xr r1.val).toNat % 4)).newest = none ∨ (s.slotOf n.val (((s.ceOf n.val).xr r1.val).toNat % 4)).taken = true ∨ (s.slotOf n.val (((s.ceOf n.val).xr r1.val).toNat % 4)).flipAt = some s.cyc →
     ∃ t, exec (.cxMbtake n) s = .next t ∧
       t = s.setCe n.val ((s.ceOf n.val).setX rd.val 0).retire) ∧
  (∀ (s : State) (n : Fin 8) (rd r1 : Fin 32) (h : Fin 2),
     s.At n (rWord 0x5B 2 0 (rd.val) (r1.val) (0)) →
     (s.slotOf n.val (((s.ceOf n.val).xr r1.val).toNat % 4)).newest = some h.val →
     (s.slotOf n.val (((s.ceOf n.val).xr r1.val).toNat % 4)).taken = false →
     (s.slotOf n.val (((s.ceOf n.val).xr r1.val).toNat % 4)).flipAt ≠ some s.cyc →
     ∃ t, exec (.cxMbtake n) s = .next t ∧
       t.ceOf n.val = ({ (s.ceOf n.val) with slots := (t.ceOf n.val).slots }.setX rd.val (word32 (0x3FA00 + 0x80 * (((s.ceOf n.val).xr r1.val).toNat % 4) + 0x40 * h.val))).retire ∧
       ((s.ceOf n.val).slots.length = 4 → t.slotOf n.val (((s.ceOf n.val).xr r1.val).toNat % 4) = { (s.slotOf n.val (((s.ceOf n.val).xr r1.val).toNat % 4)) with held := some h.val, taken := true }) ∧
       (∀ x ∈ s.kcp.c1.find? (fun (x : C1Set) => x.ce == n.val && x.slot == ((s.ceOf n.val).xr r1.val).toNat % 4 && x.half == h.val), t.kcp.c1 = s.kcp.c1.filter (fun (y : C1Set) => y != x) ∧ (x.inst < s.modes.fed.length → nth t.modes.fed x.inst 0 = s.now)) ∧
       (s.kcp.c1.find? (fun (x : C1Set) => x.ce == n.val && x.slot == ((s.ceOf n.val).xr r1.val).toNat % 4 && x.half == h.val) = none → t.kcp = s.kcp ∧ t.modes = s.modes)) ∧
  (∀ (s : State) (n : Fin 8) (p : Fin 16),
     s.At n (rWord 0x5B 3 0 (2 * p.val) (0) (0)) →
     (s.ceOf n.val).lgInf = true →
     ∃ t, exec (.cxLgrd n) s = .next t ∧
       t = s.setCe n.val { (s.ceOf n.val) with f := ((s.ceOf n.val).f.set (2 * p.val) (word32 (f32Inf false))).set (2 * p.val + 1) 0x3F800000 }.retire) ∧
  (∀ (s : State) (n : Fin 8) (p : Fin 16),
     s.At n (rWord 0x5B 3 0 (2 * p.val) (0) (0)) →
     (s.ceOf n.val).lgInf = false →
     ∃ t, exec (.cxLgrd n) s = .next t ∧
       t = s.setCe n.val { (s.ceOf n.val) with f := ((s.ceOf n.val).f.set (2 * p.val) (word32 (f32OfInt 0 (signed 32 (s.ceOf n.val).lgLimit) 0 false).1)).set (2 * p.val + 1) (word32 (f32OfInt 0 ((s.ceOf n.val).lgFactor : Int) (-8) false).1) }.retire) ∧
  (∀ (s : State) (n : Fin 8) (r1 : Fin 32),
     s.At n (rWord 0x5B 4 0 (0) (r1.val) (0)) →
     s.get (CE_CTRL_LGENT n.val) < 8 →
     ∃ t, exec (.cxLgwr n) s = .next t ∧
       t = s.setCe n.val { (s.ceOf n.val) with lgPred := nth (s.ceOf n.val).f r1.val 0, lgAt := s.cyc, lgOld := (s.ceOf n.val).lgPred, lgOldAt := (s.ceOf n.val).lgAt }.retire) ∧
  (∀ (s : State) (n : Fin 8) (r1 : Fin 32),
     s.At n (rWord 0x5B 4 0 (0) (r1.val) (0)) →
     8 ≤ s.get (CE_CTRL_LGENT n.val) →
     ∃ t, exec (.cxLgwr n) s = .next t ∧
       t = s.setCe n.val (s.ceOf n.val).retire) ∧
  (∀ (s : State) (n : Fin 8) (rd : Fin 32),
     s.At n (rWord 0x5B 5 0 (rd.val) (0) (0)) →
     ∃ t, exec (.cxWtime n) s = .next t ∧
       t = s.setCe n.val ((s.ceOf n.val).setX rd.val (word32 (s.ceOf n.val).wtime)).retire) ∧
  (∀ (s : State) (n : Fin 8) (r1 r2 : Fin 32),
     s.At n (rWord 0x5B 6 0 (0) (r1.val) (r2.val)) →
     ∃ t, exec (.cxXwr n) s = .next t ∧
       ((s.ceOf n.val).xw.length = 16 → (s.ceOf n.val).xwVis.length = 16 → { t with cyc := s.cyc + 2 }.xword n.val (((s.ceOf n.val).xr r1.val).toNat % 16) = ((s.ceOf n.val).xr r2.val)) ∧
       ((s.ceOf n.val).xwOld.length = 16 → (s.ceOf n.val).xwVis.length = 16 → t.xword n.val (((s.ceOf n.val).xr r1.val).toNat % 16) = s.xword n.val (((s.ceOf n.val).xr r1.val).toNat % 16)) ∧
       (∀ j : Fin 16, j.val ≠ ((s.ceOf n.val).xr r1.val).toNat % 16 → t.xword n.val j.val = s.xword n.val j.val) ∧
       t.ceOf n.val = { (s.ceOf n.val) with xw := (t.ceOf n.val).xw, xwOld := (t.ceOf n.val).xwOld, xwVis := (t.ceOf n.val).xwVis }.retire ∧
       t = { s with ce := t.ce }) ∧
  (∀ (s : State) (n : Fin 8) (rd r1 : Fin 32),
     s.At n (rWord 0x5B 7 0 (rd.val) (r1.val) (0)) →
     ∃ t, exec (.cxXrd n) s = .next t ∧
       t = s.setCe n.val ((s.ceOf n.val).setX rd.val (s.xword (((s.ceOf n.val).xr r1.val).toNat / 16 % 8) (((s.ceOf n.val).xr r1.val).toNat % 16))).retire) ∧
  (∀ (s : State) (n : Fin 8),
     s.ceRuns n.val = false ∨ ∀ w ∈ s.ceFetch n.val, cxDecode w ≠ some .wait →
     ∃ t, exec (.cxWait n) s = .next t ∧
       t = s) ∧
  (∀ (s : State) (n : Fin 8),
     s.ceRuns n.val = false ∨ ∀ w ∈ s.ceFetch n.val, cxDecode w ≠ some .done →
     ∃ t, exec (.cxDone n) s = .next t ∧
       t = s) ∧
  (∀ (s : State) (n : Fin 8),
     s.ceRuns n.val = false ∨ ∀ w ∈ s.ceFetch n.val, cxDecode w ≠ some .mbtake →
     ∃ t, exec (.cxMbtake n) s = .next t ∧
       t = s) ∧
  (∀ (s : State) (n : Fin 8),
     s.ceRuns n.val = false ∨ ∀ w ∈ s.ceFetch n.val, cxDecode w ≠ some .lgrd →
     ∃ t, exec (.cxLgrd n) s = .next t ∧
       t = s) ∧
  (∀ (s : State) (n : Fin 8),
     s.ceRuns n.val = false ∨ ∀ w ∈ s.ceFetch n.val, cxDecode w ≠ some .lgwr →
     ∃ t, exec (.cxLgwr n) s = .next t ∧
       t = s) ∧
  (∀ (s : State) (n : Fin 8),
     s.ceRuns n.val = false ∨ ∀ w ∈ s.ceFetch n.val, cxDecode w ≠ some .wtime →
     ∃ t, exec (.cxWtime n) s = .next t ∧
       t = s) ∧
  (∀ (s : State) (n : Fin 8),
     s.ceRuns n.val = false ∨ ∀ w ∈ s.ceFetch n.val, cxDecode w ≠ some .xwr →
     ∃ t, exec (.cxXwr n) s = .next t ∧
       t = s) ∧
  (∀ (s : State) (n : Fin 8),
     s.ceRuns n.val = false ∨ ∀ w ∈ s.ceFetch n.val, cxDecode w ≠ some .xrd →
     ∃ t, exec (.cxXrd n) s = .next t ∧
       t = s)

/-- For the word at the PC of a running engine: integer operations, LUI, AUIPC, jumps, branches, loads, stores, FENCE, WFI, MRET,
the CSR instructions and the floating-point instructions write their register or memory and set the PC, and leave every other
register and engine; ECALL, EBREAK, words of no instruction, misaligned targets and accesses, failed loads and a PC outside
the memories trap with the causes 11, 3, 2, 0, 4, 6, 5 and 1. A store through the control port lands three cycles later; one
to the mailbox area or the snapshot bank changes nothing; a store's bus error comes back to the engine, and the earliest one
traps with cause 7 and its address. A word of the control extension is not executed by this command, and an engine that does
not run is left as it is (R194 to R198, R201, R207, R338). -/
def Obligations.BaseInstructionsOfTheControlEngines : Prop :=
  (∀ (s : State) (n : Fin 8) (fab : FabRes) (w : Word),
     s.At n w.toNat →
     (fOp w.toNat) = 0x33 →
     (fF7 w.toNat) = 0 →
     ∃ t, exec (.ceInstruction n fab) s = .next t ∧
       t = s.setCe n.val ((s.ceOf n.val).setX (fRd w.toNat) (aluOp (fF3 w.toNat) false ((s.ceOf n.val).xr (fRs1 w.toNat)) ((s.ceOf n.val).xr (fRs2 w.toNat)))).retire) ∧
  (∀ (s : State) (n : Fin 8) (fab : FabRes) (w : Word),
     s.At n w.toNat →
     (fOp w.toNat) = 0x33 →
     (fF7 w.toNat) = 0x20 →
     (fF3 w.toNat) = 0 ∨ (fF3 w.toNat) = 5 →
     ∃ t, exec (.ceInstruction n fab) s = .next t ∧
       t = s.setCe n.val ((s.ceOf n.val).setX (fRd w.toNat) (aluOp (fF3 w.toNat) true ((s.ceOf n.val).xr (fRs1 w.toNat)) ((s.ceOf n.val).xr (fRs2 w.toNat)))).retire) ∧
  (∀ (s : State) (n : Fin 8) (fab : FabRes) (w : Word),
     s.At n w.toNat →
     (fOp w.toNat) = 0x33 →
     (fF7 w.toNat) = 1 →
     ∃ t, exec (.ceInstruction n fab) s = .next t ∧
       t = s.setCe n.val ((s.ceOf n.val).setX (fRd w.toNat) (mulOp (fF3 w.toNat) ((s.ceOf n.val).xr (fRs1 w.toNat)) ((s.ceOf n.val).xr (fRs2 w.toNat)))).retire) ∧
  (∀ (s : State) (n : Fin 8) (fab : FabRes) (w : Word),
     s.At n w.toNat →
     (fOp w.toNat) = 0x13 →
     (fF3 w.toNat) ≠ 1 →
     (fF3 w.toNat) ≠ 5 →
     ∃ t, exec (.ceInstruction n fab) s = .next t ∧
       t = s.setCe n.val ((s.ceOf n.val).setX (fRd w.toNat) (aluOp (fF3 w.toNat) false ((s.ceOf n.val).xr (fRs1 w.toNat)) (BitVec.ofInt 32 (immI w.toNat)))).retire) ∧
  (∀ (s : State) (n : Fin 8) (fab : FabRes) (w : Word),
     s.At n w.toNat →
     (fOp w.toNat) = 0x13 →
     ((fF3 w.toNat) = 1 ∧ (fF7 w.toNat) = 0) ∨ ((fF3 w.toNat) = 5 ∧ ((fF7 w.toNat) = 0 ∨ (fF7 w.toNat) = 0x20)) →
     ∃ t, exec (.ceInstruction n fab) s = .next t ∧
       t = s.setCe n.val ((s.ceOf n.val).setX (fRd w.toNat) (aluOp (fF3 w.toNat) ((fF7 w.toNat) == 0x20) ((s.ceOf n.val).xr (fRs1 w.toNat)) (BitVec.ofNat 32 (fRs2 w.toNat)))).retire) ∧
  (∀ (s : State) (n : Fin 8) (fab : FabRes) (w : Word),
     s.At n w.toNat →
     (fOp w.toNat) = 0x37 →
     ∃ t, exec (.ceInstruction n fab) s = .next t ∧
       t = s.setCe n.val ((s.ceOf n.val).setX (fRd w.toNat) (BitVec.ofNat 32 (w.toNat / 4096 * 4096))).retire) ∧
  (∀ (s : State) (n : Fin 8) (fab : FabRes) (w : Word),
     s.At n w.toNat →
     (fOp w.toNat) = 0x17 →
     ∃ t, exec (.ceInstruction n fab) s = .next t ∧
       t = s.setCe n.val ((s.ceOf n.val).setX (fRd w.toNat) (BitVec.ofNat 32 ((s.ceOf n.val).pc + w.toNat / 4096 * 4096))).retire) ∧
  (∀ (s : State) (n : Fin 8) (fab : FabRes) (w : Word),
     s.At n w.toNat →
     (fOp w.toNat) = 0x6F →
     (plusI (s.ceOf n.val).pc (immJ w.toNat)) % 4 = 0 →
     ∃ t, exec (.ceInstruction n fab) s = .next t ∧
       t = s.setCe n.val (((s.ceOf n.val).setX (fRd w.toNat) (BitVec.ofNat 32 ((s.ceOf n.val).pc + 4))).retireAt (plusI (s.ceOf n.val).pc (immJ w.toNat)))) ∧
  (∀ (s : State) (n : Fin 8) (fab : FabRes) (w : Word),
     s.At n w.toNat →
     (fOp w.toNat) = 0x67 →
     (fF3 w.toNat) = 0 →
     (plusI ((s.ceOf n.val).xr (fRs1 w.toNat)).toNat (immI w.toNat) / 2 * 2) % 4 = 0 →
     ∃ t, exec (.ceInstruction n fab) s = .next t ∧
       t = s.setCe n.val (((s.ceOf n.val).setX (fRd w.toNat) (BitVec.ofNat 32 ((s.ceOf n.val).pc + 4))).retireAt (plusI ((s.ceOf n.val).xr (fRs1 w.toNat)).toNat (immI w.toNat) / 2 * 2))) ∧
  (∀ (s : State) (n : Fin 8) (fab : FabRes) (w : Word),
     s.At n w.toNat →
     (fOp w.toNat) = 0x63 →
     branchTaken (fF3 w.toNat) ((s.ceOf n.val).xr (fRs1 w.toNat)) ((s.ceOf n.val).xr (fRs2 w.toNat)) = some true →
     (plusI (s.ceOf n.val).pc (immB w.toNat)) % 4 = 0 →
     ∃ t, exec (.ceInstruction n fab) s = .next t ∧
       t = s.setCe n.val ((s.ceOf n.val).retireAt (plusI (s.ceOf n.val).pc (immB w.toNat)))) ∧
  (∀ (s : State) (n : Fin 8) (fab : FabRes) (w : Word),
     s.At n w.toNat →
     (fOp w.toNat) = 0x63 →
     branchTaken (fF3 w.toNat) ((s.ceOf n.val).xr (fRs1 w.toNat)) ((s.ceOf n.val).xr (fRs2 w.toNat)) = some false →
     ∃ t, exec (.ceInstruction n fab) s = .next t ∧
       t = s.setCe n.val (s.ceOf n.val).retire) ∧
  (∀ (s : State) (n : Fin 8) (fab : FabRes) (w : Word),
     s.At n w.toNat →
     ((fOp w.toNat) = 0x6F ∧ (plusI (s.ceOf n.val).pc (immJ w.toNat)) % 4 ≠ 0) ∨ ((fOp w.toNat) = 0x63 ∧ branchTaken (fF3 w.toNat) ((s.ceOf n.val).xr (fRs1 w.toNat)) ((s.ceOf n.val).xr (fRs2 w.toNat)) = some true ∧ (plusI (s.ceOf n.val).pc (immB w.toNat)) % 4 ≠ 0) →
     ∃ t, exec (.ceInstruction n fab) s = .next t ∧
       (t.ceOf n.val).mcause = 0 ∧
       (t.ceOf n.val).mtval = (if (fOp w.toNat) = 0x6F then (plusI (s.ceOf n.val).pc (immJ w.toNat)) else (plusI (s.ceOf n.val).pc (immB w.toNat))) ∧
       (t.ceOf n.val).mepc = (s.ceOf n.val).pc ∧
       (t.ceOf n.val).x = (s.ceOf n.val).x ∧
       (t.ceOf n.val).v = (s.ceOf n.val).v ∧
       (t.ceOf n.val).m = (s.ceOf n.val).m ∧
       t.get (CE_STATUS_TRAPCAUSE n.val) = 0 ∧
       t.mem = s.mem ∧
       t.get (CE_STATUS_STATE n.val) = (if s.is (CE_CTRL_TRAPHALT n.val) then 3 else 2) ∧
       (t.ceOf n.val).pc = (if s.is (CE_CTRL_TRAPHALT n.val) then (s.ceOf n.val).pc else (s.ceOf n.val).mtvec / 4 * 4)) ∧
  (∀ (s : State) (n : Fin 8) (fab : FabRes) (w : Word),
     s.At n w.toNat →
     (fOp w.toNat) = 0x67 →
     (fF3 w.toNat) = 0 →
     (plusI ((s.ceOf n.val).xr (fRs1 w.toNat)).toNat (immI w.toNat) / 2 * 2) % 4 ≠ 0 →
     ∃ t, exec (.ceInstruction n fab) s = .next t ∧
       (t.ceOf n.val).mcause = 0 ∧
       (t.ceOf n.val).mtval = (plusI ((s.ceOf n.val).xr (fRs1 w.toNat)).toNat (immI w.toNat) / 2 * 2) ∧
       (t.ceOf n.val).mepc = (s.ceOf n.val).pc ∧
       (t.ceOf n.val).x = (s.ceOf n.val).x ∧
       (t.ceOf n.val).v = (s.ceOf n.val).v ∧
       (t.ceOf n.val).m = (s.ceOf n.val).m ∧
       t.get (CE_STATUS_TRAPCAUSE n.val) = 0 ∧
       t.mem = s.mem ∧
       t.get (CE_STATUS_STATE n.val) = (if s.is (CE_CTRL_TRAPHALT n.val) then 3 else 2) ∧
       (t.ceOf n.val).pc = (if s.is (CE_CTRL_TRAPHALT n.val) then (s.ceOf n.val).pc else (s.ceOf n.val).mtvec / 4 * 4)) ∧
  (∀ (s : State) (n : Fin 8) (fab : FabRes) (w : Word),
     s.At n w.toNat →
     (fOp w.toNat) = 0x03 →
     (fF3 w.toNat) ∈ ([0, 1, 2, 4, 5] : List Nat) →
     (plusI ((s.ceOf n.val).xr (fRs1 w.toNat)).toNat (immI w.toNat)) % 2 ^ ((fF3 w.toNat) % 4) = 0 →
     (plusI ((s.ceOf n.val).xr (fRs1 w.toNat)).toNat (immI w.toNat)) < 0x40000 →
     ∃ t, exec (.ceInstruction n fab) s = .next t ∧
       t = s.setCe n.val ((s.ceOf n.val).setX (fRd w.toNat) (BitVec.ofNat 32 (if (fF3 w.toNat) < 2 then unsigned 32 (signed (8 * 2 ^ ((fF3 w.toNat) % 4)) (leNat (s.rdBytes (ceOwn n.val (plusI ((s.ceOf n.val).xr (fRs1 w.toNat)).toNat (immI w.toNat))) (2 ^ ((fF3 w.toNat) % 4))))) else (leNat (s.rdBytes (ceOwn n.val (plusI ((s.ceOf n.val).xr (fRs1 w.toNat)).toNat (immI w.toNat))) (2 ^ ((fF3 w.toNat) % 4))))))).retire) ∧
  (∀ (s : State) (n : Fin 8) (fab : FabRes) (w : Word),
     s.At n w.toNat →
     (fOp w.toNat) = 0x03 →
     (fF3 w.toNat) ∈ ([0, 1, 2, 4, 5] : List Nat) →
     (plusI ((s.ceOf n.val).xr (fRs1 w.toNat)).toNat (immI w.toNat)) % 2 ^ ((fF3 w.toNat) % 4) ≠ 0 →
     ∃ t, exec (.ceInstruction n fab) s = .next t ∧
       (t.ceOf n.val).mcause = 4 ∧
       (t.ceOf n.val).mtval = (plusI ((s.ceOf n.val).xr (fRs1 w.toNat)).toNat (immI w.toNat)) ∧
       (t.ceOf n.val).mepc = (s.ceOf n.val).pc ∧
       (t.ceOf n.val).x = (s.ceOf n.val).x ∧
       (t.ceOf n.val).v = (s.ceOf n.val).v ∧
       (t.ceOf n.val).m = (s.ceOf n.val).m ∧
       t.get (CE_STATUS_TRAPCAUSE n.val) = 4 ∧
       t.mem = s.mem ∧
       t.get (CE_STATUS_STATE n.val) = (if s.is (CE_CTRL_TRAPHALT n.val) then 3 else 2) ∧
       (t.ceOf n.val).pc = (if s.is (CE_CTRL_TRAPHALT n.val) then (s.ceOf n.val).pc else (s.ceOf n.val).mtvec / 4 * 4)) ∧
  (∀ (s : State) (n : Fin 8) (fab : FabRes) (w : Word),
     s.At n w.toNat →
     (fOp w.toNat) = 0x03 →
     (fF3 w.toNat) ∈ ([0, 1, 2, 4, 5] : List Nat) →
     (plusI ((s.ceOf n.val).xr (fRs1 w.toNat)).toNat (immI w.toNat)) % 2 ^ ((fF3 w.toNat) % 4) = 0 →
     0x40000 ≤ (plusI ((s.ceOf n.val).xr (fRs1 w.toNat)).toNat (immI w.toNat)) →
     s.answers (.ce n) (plusI ((s.ceOf n.val).xr (fRs1 w.toNat)).toNat (immI w.toNat)) = true →
     s.busOk (.ce n) (plusI ((s.ceOf n.val).xr (fRs1 w.toNat)).toNat (immI w.toNat)) false (2 ^ ((fF3 w.toNat) % 4)) = true →
     ctlPort (plusI ((s.ceOf n.val).xr (fRs1 w.toNat)).toNat (immI w.toNat)) = true →
     ∃ t, exec (.ceInstruction n fab) s = .next t ∧
       t = (s.blockLoad (.ce n) (plusI ((s.ceOf n.val).xr (fRs1 w.toNat)).toNat (immI w.toNat)) (2 ^ ((fF3 w.toNat) % 4))).2.setCe n.val (((s.blockLoad (.ce n) (plusI ((s.ceOf n.val).xr (fRs1 w.toNat)).toNat (immI w.toNat)) (2 ^ ((fF3 w.toNat) % 4))).2.ceOf n.val).setX (fRd w.toNat) (BitVec.ofNat 32 (if (fF3 w.toNat) < 2 then unsigned 32 (signed (8 * 2 ^ ((fF3 w.toNat) % 4)) (leNat (s.blockLoad (.ce n) (plusI ((s.ceOf n.val).xr (fRs1 w.toNat)).toNat (immI w.toNat)) (2 ^ ((fF3 w.toNat) % 4))).1)) else (leNat (s.blockLoad (.ce n) (plusI ((s.ceOf n.val).xr (fRs1 w.toNat)).toNat (immI w.toNat)) (2 ^ ((fF3 w.toNat) % 4))).1)))).retire) ∧
  (∀ (s : State) (n : Fin 8) (fab : FabRes) (w : Word),
     s.At n w.toNat →
     (fOp w.toNat) = 0x03 →
     (fF3 w.toNat) ∈ ([0, 1, 2, 4, 5] : List Nat) →
     (plusI ((s.ceOf n.val).xr (fRs1 w.toNat)).toNat (immI w.toNat)) % 2 ^ ((fF3 w.toNat) % 4) = 0 →
     0x40000 ≤ (plusI ((s.ceOf n.val).xr (fRs1 w.toNat)).toNat (immI w.toNat)) →
     s.answers (.ce n) (plusI ((s.ceOf n.val).xr (fRs1 w.toNat)).toNat (immI w.toNat)) = true →
     s.busOk (.ce n) (plusI ((s.ceOf n.val).xr (fRs1 w.toNat)).toNat (immI w.toNat)) false (2 ^ ((fF3 w.toNat) % 4)) = true →
     ctlPort (plusI ((s.ceOf n.val).xr (fRs1 w.toNat)).toNat (immI w.toNat)) = false →
     ∃ i j : Fin 4, fab = .ok i.val j.val →
     ∃ t, exec (.ceInstruction n fab) s = .next t ∧
       (t.ceOf n.val).pc = ((s.ceOf n.val).pc + 4) % 2 ^ 32 ∧
       (t.ceOf n.val).x = ((s.ceOf n.val).setX (fRd w.toNat) (BitVec.ofNat 32 (if (fF3 w.toNat) < 2 then unsigned 32 (signed (8 * 2 ^ ((fF3 w.toNat) % 4)) (leNat (s.blockLoad (.ce n) (plusI ((s.ceOf n.val).xr (fRs1 w.toNat)).toNat (immI w.toNat)) (2 ^ ((fF3 w.toNat) % 4))).1)) else (leNat (s.blockLoad (.ce n) (plusI ((s.ceOf n.val).xr (fRs1 w.toNat)).toNat (immI w.toNat)) (2 ^ ((fF3 w.toNat) % 4))).1)))).x) ∧
  (∀ (s : State) (n : Fin 8) (fab : FabRes) (w : Word),
     s.At n w.toNat →
     (fOp w.toNat) = 0x03 →
     (fF3 w.toNat) ∈ ([0, 1, 2, 4, 5] : List Nat) →
     (plusI ((s.ceOf n.val).xr (fRs1 w.toNat)).toNat (immI w.toNat)) % 2 ^ ((fF3 w.toNat) % 4) = 0 →
     0x40000 ≤ (plusI ((s.ceOf n.val).xr (fRs1 w.toNat)).toNat (immI w.toNat)) →
     s.answers (.ce n) (plusI ((s.ceOf n.val).xr (fRs1 w.toNat)).toNat (immI w.toNat)) = true →
     s.busOk (.ce n) (plusI ((s.ceOf n.val).xr (fRs1 w.toNat)).toNat (immI w.toNat)) false (2 ^ ((fF3 w.toNat) % 4)) = false →
     ∃ t, exec (.ceInstruction n fab) s = .next t ∧
       (t.ceOf n.val).mcause = 5 ∧
       (t.ceOf n.val).mtval = (plusI ((s.ceOf n.val).xr (fRs1 w.toNat)).toNat (immI w.toNat)) ∧
       (t.ceOf n.val).mepc = (s.ceOf n.val).pc ∧
       (t.ceOf n.val).x = (s.ceOf n.val).x ∧
       (t.ceOf n.val).v = (s.ceOf n.val).v ∧
       (t.ceOf n.val).m = (s.ceOf n.val).m ∧
       t.get (CE_STATUS_TRAPCAUSE n.val) = 5 ∧
       t.mem = s.mem ∧
       t.get (CE_STATUS_STATE n.val) = (if s.is (CE_CTRL_TRAPHALT n.val) then 3 else 2) ∧
       (t.ceOf n.val).pc = (if s.is (CE_CTRL_TRAPHALT n.val) then (s.ceOf n.val).pc else (s.ceOf n.val).mtvec / 4 * 4)) ∧
  (∀ (s : State) (n : Fin 8) (fab : FabRes) (w : Word),
     s.At n w.toNat →
     (fOp w.toNat) = 0x03 →
     (fF3 w.toNat) = 2 →
     (plusI ((s.ceOf n.val).xr (fRs1 w.toNat)).toNat (immI w.toNat)) % 4 = 0 →
     0x20000000 ≤ (plusI ((s.ceOf n.val).xr (fRs1 w.toNat)).toNat (immI w.toNat)) ∧ (plusI ((s.ceOf n.val).xr (fRs1 w.toNat)).toNat (immI w.toNat)) < 0x22000000 →
     s.answers (.ce n) (plusI ((s.ceOf n.val).xr (fRs1 w.toNat)).toNat (immI w.toNat)) = true →
     s.busOk (.ce n) (plusI ((s.ceOf n.val).xr (fRs1 w.toNat)).toNat (immI w.toNat)) false = true →
     fab = .resendsOut ∨ fab = .uncorrectable →
     ∃ t, exec (.ceInstruction n fab) s = .next t ∧
       (t.ceOf n.val).mcause = 5 ∧
       (t.ceOf n.val).mtval = (plusI ((s.ceOf n.val).xr (fRs1 w.toNat)).toNat (immI w.toNat)) ∧
       (t.ceOf n.val).x = (s.ceOf n.val).x) ∧
  (∀ (s : State) (n : Fin 8) (fab : FabRes) (w : Word),
     s.At n w.toNat →
     (fOp w.toNat) = 0x03 →
     (fF3 w.toNat) ∈ ([0, 1, 2, 4, 5] : List Nat) →
     (plusI ((s.ceOf n.val).xr (fRs1 w.toNat)).toNat (immI w.toNat)) % 2 ^ ((fF3 w.toNat) % 4) = 0 →
     0x40000 ≤ (plusI ((s.ceOf n.val).xr (fRs1 w.toNat)).toNat (immI w.toNat)) →
     s.answers (.ce n) (plusI ((s.ceOf n.val).xr (fRs1 w.toNat)).toNat (immI w.toNat)) = false →
     ∃ t, exec (.ceInstruction n fab) s = .next t ∧
       t = s) ∧
  (∀ (s : State) (n : Fin 8) (fab : FabRes) (w : Word),
     s.At n w.toNat →
     (fOp w.toNat) = 0x23 →
     (fF3 w.toNat) < 3 →
     (plusI ((s.ceOf n.val).xr (fRs1 w.toNat)).toNat (immS w.toNat)) % 2 ^ (fF3 w.toNat) = 0 →
     (plusI ((s.ceOf n.val).xr (fRs1 w.toNat)).toNat (immS w.toNat)) < 0x3FA00 →
     ∃ t, exec (.ceInstruction n fab) s = .next t ∧
       t.rdBytes (ceOwn n.val (plusI ((s.ceOf n.val).xr (fRs1 w.toNat)).toNat (immS w.toNat))) (2 ^ (fF3 w.toNat)) = (leBytes (2 ^ (fF3 w.toNat)) ((s.ceOf n.val).xr (fRs2 w.toNat)).toNat) ∧
       (∀ a, a < (ceOwn n.val (plusI ((s.ceOf n.val).xr (fRs1 w.toNat)).toNat (immS w.toNat))) ∨ (ceOwn n.val (plusI ((s.ceOf n.val).xr (fRs1 w.toNat)).toNat (immS w.toNat))) + 2 ^ (fF3 w.toNat) ≤ a → t.rdByte a = s.rdByte a) ∧
       (t.ceOf n.val) = { (s.ceOf n.val) with stored := (t.ceOf n.val).stored }.retire ∧
       s.OnlyRegs { t with mem := s.mem, ce := s.ce } [CEC_TCMCOLL_CNT.addr]) ∧
  (∀ (s : State) (n : Fin 8) (fab : FabRes) (w : Word),
     s.At n w.toNat →
     (fOp w.toNat) = 0x23 →
     (fF3 w.toNat) < 3 →
     (plusI ((s.ceOf n.val).xr (fRs1 w.toNat)).toNat (immS w.toNat)) % 2 ^ (fF3 w.toNat) = 0 →
     0x3FA00 ≤ (plusI ((s.ceOf n.val).xr (fRs1 w.toNat)).toNat (immS w.toNat)) ∧ (plusI ((s.ceOf n.val).xr (fRs1 w.toNat)).toNat (immS w.toNat)) < 0x40000 →
     ∃ t, exec (.ceInstruction n fab) s = .next t ∧
       t = s.setCe n.val (s.ceOf n.val).retire) ∧
  (∀ (s : State) (n : Fin 8) (fab : FabRes) (w : Word),
     s.At n w.toNat →
     (fOp w.toNat) = 0x23 →
     (fF3 w.toNat) < 3 →
     (plusI ((s.ceOf n.val).xr (fRs1 w.toNat)).toNat (immS w.toNat)) % 2 ^ (fF3 w.toNat) ≠ 0 →
     ∃ t, exec (.ceInstruction n fab) s = .next t ∧
       (t.ceOf n.val).mcause = 6 ∧
       (t.ceOf n.val).mtval = (plusI ((s.ceOf n.val).xr (fRs1 w.toNat)).toNat (immS w.toNat)) ∧
       (t.ceOf n.val).mepc = (s.ceOf n.val).pc ∧
       (t.ceOf n.val).x = (s.ceOf n.val).x ∧
       (t.ceOf n.val).v = (s.ceOf n.val).v ∧
       (t.ceOf n.val).m = (s.ceOf n.val).m ∧
       t.get (CE_STATUS_TRAPCAUSE n.val) = 6 ∧
       t.mem = s.mem ∧
       t.get (CE_STATUS_STATE n.val) = (if s.is (CE_CTRL_TRAPHALT n.val) then 3 else 2) ∧
       (t.ceOf n.val).pc = (if s.is (CE_CTRL_TRAPHALT n.val) then (s.ceOf n.val).pc else (s.ceOf n.val).mtvec / 4 * 4)) ∧
  (∀ (s : State) (n : Fin 8) (fab : FabRes) (w : Word),
     s.At n w.toNat →
     (fOp w.toNat) = 0x23 →
     (fF3 w.toNat) < 3 →
     (plusI ((s.ceOf n.val).xr (fRs1 w.toNat)).toNat (immS w.toNat)) % 2 ^ (fF3 w.toNat) = 0 →
     0x40000 ≤ (plusI ((s.ceOf n.val).xr (fRs1 w.toNat)).toNat (immS w.toNat)) →
     s.answers (.ce n) (plusI ((s.ceOf n.val).xr (fRs1 w.toNat)).toNat (immS w.toNat)) = true →
     s.busOk (.ce n) (plusI ((s.ceOf n.val).xr (fRs1 w.toNat)).toNat (immS w.toNat)) true (2 ^ (fF3 w.toNat)) = true →
     ctlPort (plusI ((s.ceOf n.val).xr (fRs1 w.toNat)).toNat (immS w.toNat)) = true →
     0x40100000 ≤ (plusI ((s.ceOf n.val).xr (fRs1 w.toNat)).toNat (immS w.toNat)) ∨ s.ceStoreDiscard (.ce n) = false →
     ∃ t, exec (.ceInstruction n fab) s = .next t ∧
       t = s.setCe n.val { (s.ceOf n.val).retire with posts := (s.ceOf n.val).posts ++ [(s.cyc + 3, (plusI ((s.ceOf n.val).xr (fRs1 w.toNat)).toNat (immS w.toNat)), (leBytes (2 ^ (fF3 w.toNat)) ((s.ceOf n.val).xr (fRs2 w.toNat)).toNat))] }) ∧
  (∀ (s : State) (n : Fin 8) (fab : FabRes) (w : Word),
     s.At n w.toNat →
     (fOp w.toNat) = 0x23 →
     (fF3 w.toNat) < 3 →
     (plusI ((s.ceOf n.val).xr (fRs1 w.toNat)).toNat (immS w.toNat)) % 2 ^ (fF3 w.toNat) = 0 →
     0x40000000 ≤ (plusI ((s.ceOf n.val).xr (fRs1 w.toNat)).toNat (immS w.toNat)) ∧ (plusI ((s.ceOf n.val).xr (fRs1 w.toNat)).toNat (immS w.toNat)) < 0x40100000 →
     s.answers (.ce n) (plusI ((s.ceOf n.val).xr (fRs1 w.toNat)).toNat (immS w.toNat)) = true →
     s.busOk (.ce n) (plusI ((s.ceOf n.val).xr (fRs1 w.toNat)).toNat (immS w.toNat)) true (2 ^ (fF3 w.toNat)) = true →
     s.ceStoreDiscard (.ce n) = true →
     ∃ t, exec (.ceInstruction n fab) s = .next t ∧
       t.get (CE_CNT2_WHLD n.val) = min (s.get (CE_CNT2_WHLD n.val) + 1) 0xFFFF ∧
       (t.ceOf n.val) = (s.ceOf n.val).retire ∧
       s.OnlyRegs { t with ce := s.ce } [(CE_CNT2 n.val).addr]) ∧
  (∀ (s : State) (n : Fin 8) (fab : FabRes) (w : Word),
     s.At n w.toNat →
     (fOp w.toNat) = 0x23 →
     (fF3 w.toNat) < 3 →
     (plusI ((s.ceOf n.val).xr (fRs1 w.toNat)).toNat (immS w.toNat)) % 2 ^ (fF3 w.toNat) = 0 →
     0x40000 ≤ (plusI ((s.ceOf n.val).xr (fRs1 w.toNat)).toNat (immS w.toNat)) →
     s.answers (.ce n) (plusI ((s.ceOf n.val).xr (fRs1 w.toNat)).toNat (immS w.toNat)) = true →
     s.busOk (.ce n) (plusI ((s.ceOf n.val).xr (fRs1 w.toNat)).toNat (immS w.toNat)) true (2 ^ (fF3 w.toNat)) = false →
     ∃ t, exec (.ceInstruction n fab) s = .next t ∧
       t = { s.setCe n.val (s.ceOf n.val).retire with busErr := s.busErr ++ [(.ce n, (plusI ((s.ceOf n.val).xr (fRs1 w.toNat)).toNat (immS w.toNat)), 0x21)] }) ∧
  (∀ (s : State) (n : Fin 8) (fab : FabRes) (w : Word),
     s.At n w.toNat →
     (fOp w.toNat) = 0x23 →
     (fF3 w.toNat) < 3 →
     (plusI ((s.ceOf n.val).xr (fRs1 w.toNat)).toNat (immS w.toNat)) % 2 ^ (fF3 w.toNat) = 0 →
     0x20000000 ≤ (plusI ((s.ceOf n.val).xr (fRs1 w.toNat)).toNat (immS w.toNat)) ∧ (plusI ((s.ceOf n.val).xr (fRs1 w.toNat)).toNat (immS w.toNat)) < 0x22000000 →
     s.answers (.ce n) (plusI ((s.ceOf n.val).xr (fRs1 w.toNat)).toNat (immS w.toNat)) = true →
     s.busOk (.ce n) (plusI ((s.ceOf n.val).xr (fRs1 w.toNat)).toNat (immS w.toNat)) true (2 ^ (fF3 w.toNat)) = true →
     ∃ i j : Fin 4, fab = .ok i.val j.val →
     ∃ t, exec (.ceInstruction n fab) s = .next t ∧
       t.rdBytes (plusI ((s.ceOf n.val).xr (fRs1 w.toNat)).toNat (immS w.toNat)) (2 ^ (fF3 w.toNat)) = (leBytes (2 ^ (fF3 w.toNat)) ((s.ceOf n.val).xr (fRs2 w.toNat)).toNat) ∧
       (∀ a, a < (plusI ((s.ceOf n.val).xr (fRs1 w.toNat)).toNat (immS w.toNat)) ∨ (plusI ((s.ceOf n.val).xr (fRs1 w.toNat)).toNat (immS w.toNat)) + 2 ^ (fF3 w.toNat) ≤ a → t.rdByte a = s.rdByte a) ∧
       (t.ceOf n.val) = (s.ceOf n.val).retire) ∧
  (∀ (s : State) (n : Fin 8) (fab : FabRes) (w : Word),
     s.At n w.toNat →
     ((fOp w.toNat) = 0x0F ∧ (fF3 w.toNat) = 0) ∨ w = 0x10500073 →
     ∃ t, exec (.ceInstruction n fab) s = .next t ∧
       t = s.setCe n.val (s.ceOf n.val).retire) ∧
  (∀ (s : State) (n : Fin 8) (fab : FabRes) (w : Word),
     s.At n w.toNat →
     w = 0x30200073 →
     ∃ t, exec (.ceInstruction n fab) s = .next t ∧
       t = s.setCe n.val (s.ceOf n.val).mret) ∧
  (∀ (s : State) (n : Fin 8) (fab : FabRes) (w : Word),
     s.At n w.toNat →
     w = 0x73 →
     ∃ t, exec (.ceInstruction n fab) s = .next t ∧
       (t.ceOf n.val).mcause = 11 ∧
       (t.ceOf n.val).mtval = 0 ∧
       (t.ceOf n.val).mepc = (s.ceOf n.val).pc ∧
       (t.ceOf n.val).x = (s.ceOf n.val).x ∧
       (t.ceOf n.val).v = (s.ceOf n.val).v ∧
       (t.ceOf n.val).m = (s.ceOf n.val).m ∧
       t.get (CE_STATUS_TRAPCAUSE n.val) = 11 ∧
       t.mem = s.mem ∧
       t.get (CE_STATUS_STATE n.val) = (if s.is (CE_CTRL_TRAPHALT n.val) then 3 else 2) ∧
       (t.ceOf n.val).pc = (if s.is (CE_CTRL_TRAPHALT n.val) then (s.ceOf n.val).pc else (s.ceOf n.val).mtvec / 4 * 4)) ∧
  (∀ (s : State) (n : Fin 8) (fab : FabRes) (w : Word),
     s.At n w.toNat →
     w = 0x100073 →
     ∃ t, exec (.ceInstruction n fab) s = .next t ∧
       (t.ceOf n.val).mcause = 3 ∧
       (t.ceOf n.val).mtval = (s.ceOf n.val).pc ∧
       (t.ceOf n.val).mepc = (s.ceOf n.val).pc ∧
       (t.ceOf n.val).x = (s.ceOf n.val).x ∧
       (t.ceOf n.val).v = (s.ceOf n.val).v ∧
       (t.ceOf n.val).m = (s.ceOf n.val).m ∧
       t.get (CE_STATUS_TRAPCAUSE n.val) = 3 ∧
       t.mem = s.mem ∧
       t.get (CE_STATUS_STATE n.val) = (if s.is (CE_CTRL_TRAPHALT n.val) then 3 else 2) ∧
       (t.ceOf n.val).pc = (if s.is (CE_CTRL_TRAPHALT n.val) then (s.ceOf n.val).pc else (s.ceOf n.val).mtvec / 4 * 4)) ∧
  (∀ (s : State) (n : Fin 8) (fab : FabRes) (w : Word),
     s.At n w.toNat →
     (fOp w.toNat) = 0x73 →
     (fF3 w.toNat) ≠ 0 →
     (s.ceOf n.val).csrOp w.toNat ≠ none →
     ∃ t, exec (.ceInstruction n fab) s = .next t ∧
       some (t.ceOf n.val) = (s.ceOf n.val).csrOp w.toNat ∧
       t = s.setCe n.val (t.ceOf n.val)) ∧
  (∀ (s : State) (n : Fin 8) (fab : FabRes) (w : Word),
     s.At n w.toNat →
     (fOp w.toNat) = 0x73 →
     (fF3 w.toNat) ≠ 0 →
     (s.ceOf n.val).csrOp w.toNat = none →
     ∃ t, exec (.ceInstruction n fab) s = .next t ∧
       (t.ceOf n.val).mcause = 2 ∧
       (t.ceOf n.val).mtval = w.toNat ∧
       (t.ceOf n.val).mepc = (s.ceOf n.val).pc ∧
       (t.ceOf n.val).x = (s.ceOf n.val).x ∧
       (t.ceOf n.val).v = (s.ceOf n.val).v ∧
       (t.ceOf n.val).m = (s.ceOf n.val).m ∧
       t.get (CE_STATUS_TRAPCAUSE n.val) = 2 ∧
       t.mem = s.mem ∧
       t.get (CE_STATUS_STATE n.val) = (if s.is (CE_CTRL_TRAPHALT n.val) then 3 else 2) ∧
       (t.ceOf n.val).pc = (if s.is (CE_CTRL_TRAPHALT n.val) then (s.ceOf n.val).pc else (s.ceOf n.val).mtvec / 4 * 4)) ∧
  (∀ (s : State) (n : Fin 8) (fab : FabRes) (w : Word),
     s.At n w.toNat →
     (fOp w.toNat) = 0x07 →
     (fF3 w.toNat) = 2 →
     (plusI ((s.ceOf n.val).xr (fRs1 w.toNat)).toNat (immI w.toNat)) % 4 = 0 →
     (plusI ((s.ceOf n.val).xr (fRs1 w.toNat)).toNat (immI w.toNat)) < 0x40000 →
     ∃ t, exec (.ceInstruction n fab) s = .next t ∧
       t = s.setCe n.val ((s.ceOf n.val).setF (fRd w.toNat) (leNat (s.rdBytes (ceOwn n.val (plusI ((s.ceOf n.val).xr (fRs1 w.toNat)).toNat (immI w.toNat))) 4))).retire) ∧
  (∀ (s : State) (n : Fin 8) (fab : FabRes) (w : Word),
     s.At n w.toNat →
     (fOp w.toNat) = 0x27 →
     (fF3 w.toNat) = 2 →
     (plusI ((s.ceOf n.val).xr (fRs1 w.toNat)).toNat (immS w.toNat)) % 4 = 0 →
     (plusI ((s.ceOf n.val).xr (fRs1 w.toNat)).toNat (immS w.toNat)) < 0x3FA00 →
     ∃ t, exec (.ceInstruction n fab) s = .next t ∧
       t.rdBytes (ceOwn n.val (plusI ((s.ceOf n.val).xr (fRs1 w.toNat)).toNat (immS w.toNat))) 4 = leBytes 4 ((s.ceOf n.val).fr (fRs2 w.toNat)) ∧
       (∀ a, a < (ceOwn n.val (plusI ((s.ceOf n.val).xr (fRs1 w.toNat)).toNat (immS w.toNat))) ∨ (ceOwn n.val (plusI ((s.ceOf n.val).xr (fRs1 w.toNat)).toNat (immS w.toNat))) + 4 ≤ a → t.rdByte a = s.rdByte a) ∧
       (t.ceOf n.val) = { (s.ceOf n.val) with stored := (t.ceOf n.val).stored }.retire) ∧
  (∀ (s : State) (n : Fin 8) (fab : FabRes) (w : Word),
     s.At n w.toNat →
     (fOp w.toNat) = 0x53 →
     (s.ceOf n.val).fpOp w.toNat ≠ none →
     ∃ t, exec (.ceInstruction n fab) s = .next t ∧
       some (t.ceOf n.val) = (s.ceOf n.val).fpOp w.toNat ∧
       t = s.setCe n.val (t.ceOf n.val)) ∧
  (∀ (s : State) (n : Fin 8) (fab : FabRes) (w : Word),
     s.At n w.toNat →
     (fOp w.toNat) = 0x53 →
     (s.ceOf n.val).fpOp w.toNat = none →
     ∃ t, exec (.ceInstruction n fab) s = .next t ∧
       (t.ceOf n.val).mcause = 2 ∧
       (t.ceOf n.val).mtval = w.toNat ∧
       (t.ceOf n.val).mepc = (s.ceOf n.val).pc ∧
       (t.ceOf n.val).x = (s.ceOf n.val).x ∧
       (t.ceOf n.val).v = (s.ceOf n.val).v ∧
       (t.ceOf n.val).m = (s.ceOf n.val).m ∧
       t.get (CE_STATUS_TRAPCAUSE n.val) = 2 ∧
       t.mem = s.mem ∧
       t.get (CE_STATUS_STATE n.val) = (if s.is (CE_CTRL_TRAPHALT n.val) then 3 else 2) ∧
       (t.ceOf n.val).pc = (if s.is (CE_CTRL_TRAPHALT n.val) then (s.ceOf n.val).pc else (s.ceOf n.val).mtvec / 4 * 4)) ∧
  (∀ (s : State) (n : Fin 8) (fab : FabRes) (w : Word),
     s.At n w.toNat →
     (fOp w.toNat) ∈ ([0x43, 0x47, 0x4B, 0x4F] : List Nat) →
     (s.ceOf n.val).fmaOp w.toNat (bitsOf 3 2 w.toNat) ≠ none →
     ∃ t, exec (.ceInstruction n fab) s = .next t ∧
       some (t.ceOf n.val) = (s.ceOf n.val).fmaOp w.toNat (bitsOf 3 2 w.toNat) ∧
       t = s.setCe n.val (t.ceOf n.val)) ∧
  (∀ (s : State) (n : Fin 8) (fab : FabRes) (w : Word),
     s.At n w.toNat →
     (fOp w.toNat) ∉ ([0x37, 0x17, 0x6F, 0x67, 0x63, 0x03, 0x23, 0x13, 0x33, 0x0F, 0x73, 0x07, 0x27, 0x53, 0x43, 0x47, 0x4B, 0x4F] : List Nat) →
     cxDecode w.toNat = none →
     ∃ t, exec (.ceInstruction n fab) s = .next t ∧
       (t.ceOf n.val).mcause = 2 ∧
       (t.ceOf n.val).mtval = w.toNat ∧
       (t.ceOf n.val).mepc = (s.ceOf n.val).pc ∧
       (t.ceOf n.val).x = (s.ceOf n.val).x ∧
       (t.ceOf n.val).v = (s.ceOf n.val).v ∧
       (t.ceOf n.val).m = (s.ceOf n.val).m ∧
       t.get (CE_STATUS_TRAPCAUSE n.val) = 2 ∧
       t.mem = s.mem ∧
       t.get (CE_STATUS_STATE n.val) = (if s.is (CE_CTRL_TRAPHALT n.val) then 3 else 2) ∧
       (t.ceOf n.val).pc = (if s.is (CE_CTRL_TRAPHALT n.val) then (s.ceOf n.val).pc else (s.ceOf n.val).mtvec / 4 * 4)) ∧
  (∀ (s : State) (n : Fin 8) (fab : FabRes) (w : Word),
     s.At n w.toNat →
     cxDecode w.toNat ≠ none →
     ∃ t, exec (.ceInstruction n fab) s = .next t ∧
       t = s) ∧
  (∀ (s : State) (n : Fin 8) (fab : FabRes),
     s.ce.length = 8 →
     s.ceRuns n.val = true →
     0x40000 ≤ (s.ceOf n.val).pc →
     ∃ t, exec (.ceInstruction n fab) s = .next t ∧
       (t.ceOf n.val).mcause = 1 ∧
       (t.ceOf n.val).mtval = (s.ceOf n.val).pc ∧
       (t.ceOf n.val).mepc = (s.ceOf n.val).pc ∧
       (t.ceOf n.val).x = (s.ceOf n.val).x ∧
       (t.ceOf n.val).v = (s.ceOf n.val).v ∧
       (t.ceOf n.val).m = (s.ceOf n.val).m ∧
       t.get (CE_STATUS_TRAPCAUSE n.val) = 1 ∧
       t.mem = s.mem ∧
       t.get (CE_STATUS_STATE n.val) = (if s.is (CE_CTRL_TRAPHALT n.val) then 3 else 2) ∧
       (t.ceOf n.val).pc = (if s.is (CE_CTRL_TRAPHALT n.val) then (s.ceOf n.val).pc else (s.ceOf n.val).mtvec / 4 * 4)) ∧
  (∀ (s : State) (n : Fin 8) (fab : FabRes),
     s.ceRuns n.val = false →
     ∃ t, exec (.ceInstruction n fab) s = .next t ∧
       t = s) ∧
  (∀ (s : State) (n : Fin 8) (a ty : Nat),
     s.ce.length = 8 →
     s.ticking = true →
     s.get (CE_STATUS_STATE n.val) = 1 ∨ s.get (CE_STATUS_STATE n.val) = 2 →
     s.busErr.find? (fun e => decide (e.1 = Initiator.ce n)) = some (.ce n, a, ty) →
     ∃ t, exec (.ceStoreBusError n) s = .next t ∧
       t.busErr = s.busErr.erase (.ce n, a, ty) ∧
       (t.ceOf n.val).mcause = 7 ∧
       (t.ceOf n.val).mtval = a ∧
       (t.ceOf n.val).mepc = (s.ceOf n.val).pc ∧
       (t.ceOf n.val).woken = none ∧
       t.get (CE_STATUS_TRAPCAUSE n.val) = 7 ∧
       t.get (CE_STATUS_STATE n.val) = (if s.is (CE_CTRL_TRAPHALT n.val) then 3 else 2)) ∧
  (∀ (s : State) (n : Fin 8),
     s.ticking = false ∨ (s.get (CE_STATUS_STATE n.val) ≠ 1 ∧ s.get (CE_STATUS_STATE n.val) ≠ 2) ∨ ∀ e ∈ s.busErr, e.1 ≠ .ce n →
     ∃ t, exec (.ceStoreBusError n) s = .next t ∧
       t = s)

/-- HALT = 1 halts a running or waiting engine and HALT = 0 runs a halted or trapped one, its vectors cleared at its first start;
RESTART of one that is stopped resets the PC and the pending sets and is ignored otherwise; engines write none of these. A
doorbell makes each enabled doorbell set that it names pending, or is counted as lost where it is pending already, and wakes
an engine that waits on it; a write of a trigger-set register takes its value and clears the set. A set taken wakes its engine
in its cycle, with the set's number in rd, the ledger's limits latched and an update opened where DLCFG.EN is set. An open
update at its deadline point sets MISS, is counted, withholds by WITHHOLD, and escalates when the run of misses reaches ESC_N;
only an SC thread clears ESC. Events whose condition fails change nothing (R198 to R206, R208). -/
def Obligations.ControlEnginesHaltRunRestartAndWake : Prop :=
  (∀ (s : State) (ini : Initiator) (n : Fin 8) (val : Word),
     s.Reaches ini (CE_CTRL n.val).addr →
     notCe ini = true →
     s.ce.length = 8 →
     ∃ t, exec (.ceHalt ini n val) s = .next t ∧
       t.get (CE_STATUS_STATE n.val) = (if s.get (CE_STATUS_STATE n.val) = 1 ∨ s.get (CE_STATUS_STATE n.val) = 2 then 0 else if val.getLsbD 2 = true ∧ s.get (CE_STATUS_STATE n.val) = 3 then 0 else s.get (CE_STATUS_STATE n.val)) ∧
       t.is (CE_CTRL_HALT n.val) = true ∧
       t.is (CE_CTRL_TRAPHALT n.val) = val.getLsbD 1 ∧
       t.is (CE_CTRL_IEN_DL n.val) = val.getLsbD 4 ∧
       (t.ceOf n.val).pc = (if val.getLsbD 2 = true ∧ (s.get (CE_STATUS_STATE n.val) = 0 ∨ s.get (CE_STATUS_STATE n.val) = 3) then 0 else (s.ceOf n.val).pc) ∧
       (t.ceOf n.val).x = (s.ceOf n.val).x ∧ (t.ceOf n.val).v = (s.ceOf n.val).v ∧ (t.ceOf n.val).m = (s.ceOf n.val).m ∧
       (t.ceOf n.val).woken = (if s.get (CE_STATUS_STATE n.val) = 1 ∨ s.get (CE_STATUS_STATE n.val) = 2 then none else (s.ceOf n.val).woken) ∨ (t.ceOf n.val).woken = none) ∧
  (∀ (s : State) (ini : Initiator) (n : Fin 8) (val : Word),
     s.Reaches ini (CE_CTRL n.val).addr →
     notCe ini = true →
     s.ce.length = 8 →
     ∃ t, exec (.ceRun ini n val) s = .next t ∧
       t.get (CE_STATUS_STATE n.val) = (if (s.get (CE_STATUS_STATE n.val) = 0 ∨ s.get (CE_STATUS_STATE n.val) = 3) then 2 else s.get (CE_STATUS_STATE n.val)) ∧
       t.is (CE_CTRL_HALT n.val) = false ∧
       t.is (CE_CTRL_TRAPHALT n.val) = val.getLsbD 1 ∧
       (t.ceOf n.val).pc = (if val.getLsbD 2 = true ∧ (s.get (CE_STATUS_STATE n.val) = 0 ∨ s.get (CE_STATUS_STATE n.val) = 3) then 0 else (s.ceOf n.val).pc) ∧
       ((s.get (CE_STATUS_STATE n.val) = 0 ∨ s.get (CE_STATUS_STATE n.val) = 3) → (t.ceOf n.val).begun = true) ∧
       ((s.get (CE_STATUS_STATE n.val) = 0 ∨ s.get (CE_STATUS_STATE n.val) = 3) → (s.ceOf n.val).begun = false → ∀ i : Fin 8, (t.ceOf n.val).vr i.val = List.replicate 6 0) ∧
       ((s.get (CE_STATUS_STATE n.val) = 0 ∨ s.get (CE_STATUS_STATE n.val) = 3) → (s.ceOf n.val).begun = false → ∀ i : Fin 4, (t.ceOf n.val).mr i.val = List.replicate 36 0) ∧
       (t.ceOf n.val).x = (s.ceOf n.val).x) ∧
  (∀ (s : State) (ini : Initiator) (n : Fin 8) (val : Word),
     s.Reaches ini (CE_CTRL n.val).addr →
     notCe ini = true →
     s.ce.length = 8 →
     (s.get (CE_STATUS_STATE n.val) = 0 ∨ s.get (CE_STATUS_STATE n.val) = 3) →
     ∃ t, exec (.ceRestart ini n val) s = .next t ∧
       t.get (CE_STATUS_STATE n.val) = (if val.getLsbD 0 = true then 0 else 2) ∧
       (t.ceOf n.val).pc = 0 ∧
       t.get (CE_STATUS_PEND n.val) = 0 ∧
       (∀ x ∈ (t.ceOf n.val).sets, x.pend = false) ∧
       t.is (CE_CTRL_HALT n.val) = val.getLsbD 0) ∧
  (∀ (s : State) (ini : Initiator) (n : Fin 8) (val : Word),
     s.Reaches ini (CE_CTRL n.val).addr →
     notCe ini = true →
     s.ce.length = 8 →
     s.get (CE_STATUS_STATE n.val) = 1 ∨ s.get (CE_STATUS_STATE n.val) = 2 →
     ∃ t, exec (.ceRestart ini n val) s = .next t ∧
       t.get (CE_STATUS_STATE n.val) = (if val.getLsbD 0 = true then 0 else s.get (CE_STATUS_STATE n.val)) ∧
       (t.ceOf n.val).pc = (s.ceOf n.val).pc ∧
       t.is (CE_CTRL_HALT n.val) = val.getLsbD 0) ∧
  (∀ (s : State) (n m : Fin 8) (val : Word),
     s.Reaches (.ce m) (CE_CTRL n.val).addr →
     ∃ t, exec (.ceHalt (.ce m) n val) s = .next t ∧
       t = s) ∧
  (∀ (s : State) (n m : Fin 8) (val : Word),
     s.Reaches (.ce m) (CE_CTRL n.val).addr →
     ∃ t, exec (.ceRun (.ce m) n val) s = .next t ∧
       t = s) ∧
  (∀ (s : State) (n m : Fin 8) (val : Word),
     s.Reaches (.ce m) (CE_CTRL n.val).addr →
     ∃ t, exec (.ceRestart (.ce m) n val) s = .next t ∧
       t = s) ∧
  (∀ (s : State) (n m : Fin 8) (val : Word),
     s.Reaches (.ce m) (CE_DOORBELL n.val).addr →
     ∃ t, exec (.ceDoorbell (.ce m) n val) s = .next t ∧
       t = s) ∧
  (∀ (s : State) (ini : Initiator) (n : Fin 8) (val : Word),
     s.Reaches ini (CE_DOORBELL n.val).addr →
     notCe ini = true →
     s.ce.length = 8 →
     (s.ceOf n.val).sets.length = 4 →
     s.get (CE_STATUS_STATE n.val) ≠ 1 →
     ∃ t, exec (.ceDoorbell ini n val) s = .next t ∧
       (∀ k : Fin 4, (nth (t.ceOf n.val).sets k.val ⟨0, false, 0⟩).pend = ((nth (s.ceOf n.val).sets k.val ⟨0, false, 0⟩).pend || (val.getLsbD k.val && s.is (CE_TSCFG_EN n.val k.val) && s.get (CE_TSCFG_TYPE n.val k.val) == 2))) ∧
       (∀ k : Fin 4, (val.getLsbD k.val && s.is (CE_TSCFG_EN n.val k.val) && s.get (CE_TSCFG_TYPE n.val k.val) == 2) = true → (nth (t.ceOf n.val).sets k.val ⟨0, false, 0⟩).stamp = s.tick) ∧
       (∀ k : Fin 4, (nth (s.ceOf n.val).sets k.val ⟨0, false, 0⟩).pend = false → t.bit (CE_STATUS_PEND n.val) k.val = (s.bit (CE_STATUS_PEND n.val) k.val || (val.getLsbD k.val && s.is (CE_TSCFG_EN n.val k.val) && s.get (CE_TSCFG_TYPE n.val k.val) == 2))) ∧
       s.OnlyRegs { t with ce := s.ce } [(CE_STATUS n.val).addr, (CE_CNT n.val).addr]) ∧
  (∀ (s : State) (ini : Initiator) (n : Fin 8) (k : Fin 4) (val : Word),
     s.Reaches ini (CE_DOORBELL n.val).addr →
     notCe ini = true →
     s.ce.length = 8 →
     s.get (CE_STATUS_STATE n.val) = 1 →
     (s.ceOf n.val).woken = none →
     (val.getLsbD k.val && s.is (CE_TSCFG_EN n.val k.val) && s.get (CE_TSCFG_TYPE n.val k.val) == 2) = true →
     bitOf k.val (s.ceOf n.val).waitMask = true →
     ∀ j : Fin 4, j < k → (val.getLsbD j.val && s.is (CE_TSCFG_EN n.val j.val) && s.get (CE_TSCFG_TYPE n.val j.val) == 2) = false →
     ∃ t, exec (.ceDoorbell ini n val) s = .next t ∧
       (t.ceOf n.val).woken = some k.val ∧
       (t.ceOf n.val).wakeAt = s.cyc + 8 ∧
       (t.ceOf n.val).wakeStamp = s.tick ∧
       t.get (CE_STATUS_STATE n.val) = 1) ∧
  (∀ (s : State) (ini : Initiator) (n : Fin 8) (k : Fin 4) (val : Word),
     s.Reaches ini (CE_TSCFG n.val k.val).addr →
     notCe ini = true →
     s.ce.length = 8 →
     ∃ t, exec (.ceTriggerSetWrite ini n (BitVec.ofNat 32 (CE_TSCFG n.val k.val).addr) val) s = .next t ∧
       ((s.ceOf n.val).sets.length = 4 → nth (t.ceOf n.val).sets k.val ⟨0, false, 0⟩ = ⟨0, false, 0⟩) ∧
       t.bit (CE_STATUS_PEND n.val) k.val = false ∧
       t.get (CE_TSCFG_EVSEL n.val k.val) = val.toNat % 256 ∧
       t.is (CE_TSCFG_EN n.val k.val) = val.getLsbD (CE_TSCFG_EN n.val k.val).lo ∧
       s.OnlyRegs { t with ce := s.ce } [(CE_STATUS n.val).addr, (CE_TSCFG n.val k.val).addr]) ∧
  (∀ (s : State) (ini : Initiator) (n : Fin 8) (k : Fin 4) (hi : Bool) (val : Word),
     s.Reaches ini (if hi then CE_TSMSKHI n.val k.val else CE_TSMSKLO n.val k.val).addr →
     notCe ini = true →
     s.ce.length = 8 →
     ∃ t, exec (.ceTriggerSetWrite ini n (BitVec.ofNat 32 (if hi then CE_TSMSKHI n.val k.val else CE_TSMSKLO n.val k.val).addr) val) s = .next t ∧
       ((s.ceOf n.val).sets.length = 4 → nth (t.ceOf n.val).sets k.val ⟨0, false, 0⟩ = ⟨0, false, 0⟩) ∧
       t.bit (CE_STATUS_PEND n.val) k.val = false ∧
       t.rd (if hi then CE_TSMSKHI n.val k.val else CE_TSMSKLO n.val k.val) = val ∧
       s.OnlyRegs { t with ce := s.ce } [(CE_STATUS n.val).addr, (if hi then CE_TSMSKHI n.val k.val else CE_TSMSKLO n.val k.val).addr]) ∧
  (∀ (s : State) (ini : Initiator) (n : Fin 8) (addr val : Word),
     addr.toNat < ceBase n.val + 8 ∨ ceBase n.val + 0x38 ≤ addr.toNat ∨ addr.toNat % 4 ≠ 0 ∨ (s.Reaches ini addr.toNat ∧ notCe ini = false) →
     ∃ t, exec (.ceTriggerSetWrite ini n addr val) s = .next t ∧
       t = s) ∧
  (∀ (s : State) (n : Fin 8) (k : Fin 4),
     s.ce.length = 8 →
     (s.ceOf n.val).woken = some k.val →
     s.ticking = true →
     s.get (CE_STATUS_STATE n.val) = 1 →
     (s.ceOf n.val).wakeAt ≤ s.cyc →
     ∃ t, exec (.ceWake n) s = .next t ∧
       t.get (CE_STATUS_STATE n.val) = 2 ∧
       (t.ceOf n.val).woken = none ∧
       (t.ceOf n.val).takenSet = some k.val ∧
       (t.ceOf n.val).wakeCyc = s.cyc ∧
       (t.ceOf n.val).wtime = (s.ceOf n.val).wakeStamp * 10 % 2 ^ 32 ∧
       (t.ceOf n.val).pc = ((s.ceOf n.val).pc + 4) % 2 ^ 32 ∧
       ((t.ceOf n.val).x = if (s.ceOf n.val).waitRd = 0 then (s.ceOf n.val).x else (s.ceOf n.val).x.set (s.ceOf n.val).waitRd (BitVec.ofNat 32 k.val)) ∧
       t.is (CE_DLSTAT_OPEN n.val) = (s.is (CE_DLSTAT_OPEN n.val) || s.is (CE_DLCFG_EN n.val)) ∧
       (t.ceOf n.val).dl = s.rd (CE_DLCFG n.val) ∧
       (s.get (CE_CTRL_LGENT n.val) < 8 → (t.ceOf n.val).lgInf = false ∧ (t.ceOf n.val).lgLimit = s.get (LGE_GRANT_GRANT (s.get (CE_CTRL_LGENT n.val))) ∧ (t.ceOf n.val).lgFactor = s.get (LGE_STAT_FACTOR (s.get (CE_CTRL_LGENT n.val)))) ∧
       (8 ≤ s.get (CE_CTRL_LGENT n.val) → (t.ceOf n.val).lgInf = true)) ∧
  (∀ (s : State) (n : Fin 8),
     s.ticking = false ∨ s.get (CE_STATUS_STATE n.val) ≠ 1 ∨ (s.ceOf n.val).woken = none ∨ s.cyc < (s.ceOf n.val).wakeAt →
     ∃ t, exec (.ceWake n) s = .next t ∧
       t = s) ∧
  (∀ (s : State) (n : Fin 8),
     s.ce.length = 8 →
     s.ticking = true →
     s.is (CE_DLSTAT_OPEN n.val) = true →
     (s.ceOf n.val).missed = false →
     (s.ceOf n.val).wakeCyc < s.cyc →
     s.deadlinePoint n.val = true →
     bitsOf 27 24 (s.ceOf n.val).dl.toNat = 0 ∨ s.get (CE_DLSTAT_RUNMISS n.val) + 1 ≠ bitsOf 27 24 (s.ceOf n.val).dl.toNat →
     ∃ t, exec (.ceDeadlineMiss n) s = .next t ∧
       t.is (CE_DLSTAT_MISS n.val) = true ∧
       (t.ceOf n.val).missed = true ∧
       (t.ceOf n.val).withhold = (s.ceOf n.val).dl.getLsbD 30 ∧
       t.get (CE_DLSTAT_MISS_CNT n.val) = min (s.get (CE_DLSTAT_MISS_CNT n.val) + 1) 0xFFFF ∧
       t.get (CE_DLSTAT_RUNMISS n.val) = min (s.get (CE_DLSTAT_RUNMISS n.val) + 1) 15 ∧
       t.is (CE_DLSTAT_ESC n.val) = s.is (CE_DLSTAT_ESC n.val) ∧
       t.irqs = s.irqs ++ (if s.is (CE_CTRL_IEN_DL n.val) then [s.irqNow .sc (CE_DLSTAT n.val).addr 0] else [])) ∧
  (∀ (s : State) (n : Fin 8),
     s.ce.length = 8 →
     s.pwm.length = 32 →
     s.ticking = true →
     s.is (CE_DLSTAT_OPEN n.val) = true →
     (s.ceOf n.val).missed = false →
     (s.ceOf n.val).wakeCyc < s.cyc →
     s.deadlinePoint n.val = true →
     bitsOf 27 24 (s.ceOf n.val).dl.toNat ≠ 0 →
     s.get (CE_DLSTAT_RUNMISS n.val) + 1 = bitsOf 27 24 (s.ceOf n.val).dl.toNat →
     ∃ t, exec (.ceDeadlineMiss n) s = .next t ∧
       t.is (CE_DLSTAT_MISS n.val) = true ∧
       t.is (CE_DLSTAT_ESC n.val) = true ∧
       (t.ceOf n.val).missed = true ∧
       (∀ k : Fin 32, s.pwmOwner k.val = n.val → (s.ceOf n.val).dl.getLsbD 29 = false → t.is (PWM_CTRL_RUN k.val) = false)) ∧
  (∀ (s : State) (n : Fin 8),
     s.ticking = false ∨ s.is (CE_DLSTAT_OPEN n.val) = false ∨ (s.ceOf n.val).missed = true ∨ s.cyc ≤ (s.ceOf n.val).wakeCyc ∨ s.deadlinePoint n.val = false →
     ∃ t, exec (.ceDeadlineMiss n) s = .next t ∧
       t = s) ∧
  (∀ (s : State) (ini : Initiator) (n : Fin 8) (val : Word),
     s.Reaches ini (CE_DLSTAT n.val).addr →
     ∃ t, exec (.ceEscClear ini n val) s = .next t ∧
       t.is (CE_DLSTAT_ESC n.val) = (s.is (CE_DLSTAT_ESC n.val) && !(isSc ini && (s.rdWas (CE_DLSTAT n.val)).getLsbD 2)) ∧
       t.is (CE_DLSTAT_MISS n.val) = (s.is (CE_DLSTAT_MISS n.val) && !(val.getLsbD 1 && (s.rdWas (CE_DLSTAT n.val)).getLsbD 1)) ∧
       s.OnlyRegs t [(CE_DLSTAT n.val).addr])

/-- With no transition in the last TMIN cycles a forward quadrature step adds one to an unlimited linear count and a backward step
takes one away; a legal step of either sequence moves the count one up or down, as DIRINV has it, modulo MOD or within the
limits, with its direction and timestamp, and the index pulse latches the count. A change of both A and B, like a step that
the Hall sequence does not have, sets QERR and leaves the count; a change within TMIN of the last accepted transition sets
EFLT and waits, and is accepted when TMIN ends. A disabled channel, or one with a serial source, decodes nothing. A PCMP pulse
ends after its time; no edge for STTMO sets STANDSTILL and invalidates the speed. Before their times these events change
nothing (R215 to R222, R227, R233). -/
def Obligations.PositionEdgesAreFilteredDecodedAndCounted : Prop :=
  (∀ (s : State) (n : Fin 8) (levels : BitVec 3),
     s.pos.ch.length = 8 →
     s.ticking = true →
     s.is (POS_CFG_EN n.val) = true →
     levels.toNat ≠ (s.posCh n.val).sync →
     levels.toNat ≠ (s.posCh n.val).acc →
     ∀ u ∈ (s.posCh n.val).la, u + (max 4 (min 4000 (s.get (POS_CFG_TMIN n.val)))) ≤ s.cyc →
     s.get (POS_CFG_SRC n.val) = 0 →
     s.is (POS_CFG_CNTMODE n.val) = false →
     s.is (POS_CFG_LIMEN n.val) = false →
     s.is (POS_CFG_DIRINV n.val) = false →
     s.is (POS_CFG_ZEN n.val) = false ∨ levels.toNat.testBit 2 = false ∨ (s.posCh n.val).acc.testBit 2 = true →
     quadIdx levels.toNat = (quadIdx (s.posCh n.val).acc + 1) % 4 →
     ∃ t, exec (.posRawTransition n levels) s = .next t ∧
       t.get (POS_CNT_CNT n.val) = (s.get (POS_CNT_CNT n.val) + 1) % 2 ^ 32 ∧
       (t.posCh n.val).acc = levels.toNat ∧
       (t.posCh n.val).la = some s.cyc ∧
       t.is (POS_STATUS_DIR n.val) = false) ∧
  (∀ (s : State) (n : Fin 8) (levels : BitVec 3),
     s.pos.ch.length = 8 →
     s.ticking = true →
     s.is (POS_CFG_EN n.val) = true →
     levels.toNat ≠ (s.posCh n.val).sync →
     levels.toNat ≠ (s.posCh n.val).acc →
     ∀ u ∈ (s.posCh n.val).la, u + (max 4 (min 4000 (s.get (POS_CFG_TMIN n.val)))) ≤ s.cyc →
     s.get (POS_CFG_SRC n.val) = 0 →
     s.is (POS_CFG_CNTMODE n.val) = false →
     s.is (POS_CFG_LIMEN n.val) = false →
     s.is (POS_CFG_DIRINV n.val) = false →
     s.is (POS_CFG_ZEN n.val) = false ∨ levels.toNat.testBit 2 = false ∨ (s.posCh n.val).acc.testBit 2 = true →
     quadIdx (s.posCh n.val).acc = (quadIdx levels.toNat + 1) % 4 →
     ∃ t, exec (.posRawTransition n levels) s = .next t ∧
       t.get (POS_CNT_CNT n.val) = (s.get (POS_CNT_CNT n.val) + 2 ^ 32 - 1) % 2 ^ 32 ∧
       (t.posCh n.val).acc = levels.toNat ∧
       (t.posCh n.val).la = some s.cyc ∧
       t.is (POS_STATUS_DIR n.val) = true) ∧
  (∀ (s : State) (n : Fin 8) (levels : BitVec 3) (x : Int),
     s.pos.ch.length = 8 →
     s.ticking = true →
     s.is (POS_CFG_EN n.val) = true →
     levels.toNat ≠ (s.posCh n.val).sync →
     levels.toNat ≠ (s.posCh n.val).acc →
     ∀ u ∈ (s.posCh n.val).la, u + (max 4 (min 4000 (s.get (POS_CFG_TMIN n.val)))) ≤ s.cyc →
     s.get (POS_CFG_SRC n.val) < 2 →
     posStep (s.get (POS_CFG_SRC n.val) == 1) (s.posCh n.val).acc levels.toNat = some x →
     x ≠ 0 →
     ∃ t, exec (.posRawTransition n levels) s = .next t ∧
       t.get (POS_CNT_CNT n.val) = (if s.get (POS_CFG_SRC n.val) = 0 ∧ s.is (POS_CFG_ZEN n.val) = true ∧ levels.toNat.testBit 2 = true ∧ (s.posCh n.val).acc.testBit 2 = false ∧ s.is (POS_CFG_ZRST n.val) = true then s.get (POS_ZVAL_ZVAL n.val) else (if s.is (POS_CFG_CNTMODE n.val) = true then ((s.posCnt n.val + (if s.is (POS_CFG_DIRINV n.val) = true then -x else x)) % (max 4 (s.get (POS_MOD_MOD n.val)) : Nat)).toNat else if s.is (POS_CFG_LIMEN n.val) = true ∧ signed 32 (s.get (POS_LIMHI_LIMHI n.val)) < (s.posCnt n.val + (if s.is (POS_CFG_DIRINV n.val) = true then -x else x)) then s.get (POS_LIMHI_LIMHI n.val) else if s.is (POS_CFG_LIMEN n.val) = true ∧ (s.posCnt n.val + (if s.is (POS_CFG_DIRINV n.val) = true then -x else x)) < signed 32 (s.get (POS_LIMLO_LIMLO n.val)) then s.get (POS_LIMLO_LIMLO n.val) else unsigned 32 (s.posCnt n.val + (if s.is (POS_CFG_DIRINV n.val) = true then -x else x)))) ∧
       t.is (POS_STATUS_DIR n.val) = decide ((if s.is (POS_CFG_DIRINV n.val) = true then -x else x) < 0) ∧
       t.is (POS_STATUS_DIRCHG n.val) = (s.is (POS_STATUS_DIRCHG n.val) || (s.is (POS_STATUS_DIR n.val) != decide ((if s.is (POS_CFG_DIRINV n.val) = true then -x else x) < 0))) ∧
       t.get (POS_TSTAMP_TS n.val) = s.timebase % 2 ^ 32 ∧
       t.is (POS_STATUS_ZSEEN n.val) = (s.is (POS_STATUS_ZSEEN n.val) || decide (s.get (POS_CFG_SRC n.val) = 0 ∧ s.is (POS_CFG_ZEN n.val) = true ∧ levels.toNat.testBit 2 = true ∧ (s.posCh n.val).acc.testBit 2 = false)) ∧
       (s.get (POS_CFG_SRC n.val) = 0 ∧ s.is (POS_CFG_ZEN n.val) = true ∧ levels.toNat.testBit 2 = true ∧ (s.posCh n.val).acc.testBit 2 = false → t.get (POS_ZLATCH_ZLATCH n.val) = (if s.is (POS_CFG_CNTMODE n.val) = true then ((s.posCnt n.val + (if s.is (POS_CFG_DIRINV n.val) = true then -x else x)) % (max 4 (s.get (POS_MOD_MOD n.val)) : Nat)).toNat else if s.is (POS_CFG_LIMEN n.val) = true ∧ signed 32 (s.get (POS_LIMHI_LIMHI n.val)) < (s.posCnt n.val + (if s.is (POS_CFG_DIRINV n.val) = true then -x else x)) then s.get (POS_LIMHI_LIMHI n.val) else if s.is (POS_CFG_LIMEN n.val) = true ∧ (s.posCnt n.val + (if s.is (POS_CFG_DIRINV n.val) = true then -x else x)) < signed 32 (s.get (POS_LIMLO_LIMLO n.val)) then s.get (POS_LIMLO_LIMLO n.val) else unsigned 32 (s.posCnt n.val + (if s.is (POS_CFG_DIRINV n.val) = true then -x else x)))) ∧
       (s.is (POS_STATUS_DIR n.val) = decide ((if s.is (POS_CFG_DIRINV n.val) = true then -x else x) < 0) → (s.posCh n.val).run = true → t.get (POS_PERIOD_PERIOD n.val) = max 1 (min 0xFFFFFFFF (s.cyc - (s.posCh n.val).le)) ∧ t.is (POS_SPD_VALID n.val) = true) ∧
       (t.posCh n.val).acc = levels.toNat ∧
       (t.posCh n.val).la = some s.cyc) ∧
  (∀ (s : State) (n : Fin 8) (levels : BitVec 3),
     s.pos.ch.length = 8 →
     s.ticking = true →
     s.is (POS_CFG_EN n.val) = true →
     levels.toNat ≠ (s.posCh n.val).sync →
     levels.toNat ≠ (s.posCh n.val).acc →
     ∀ u ∈ (s.posCh n.val).la, u + (max 4 (min 4000 (s.get (POS_CFG_TMIN n.val)))) ≤ s.cyc →
     s.get (POS_CFG_SRC n.val) < 2 →
     posStep (s.get (POS_CFG_SRC n.val) == 1) (s.posCh n.val).acc levels.toNat = some 0 →
     ¬(s.get (POS_CFG_SRC n.val) = 0 ∧ s.is (POS_CFG_ZEN n.val) = true ∧ levels.toNat.testBit 2 = true ∧ (s.posCh n.val).acc.testBit 2 = false ∧ s.is (POS_CFG_ZRST n.val) = true) →
     ∃ t, exec (.posRawTransition n levels) s = .next t ∧
       t.is (POS_STATUS_QERR n.val) = true ∧
       t.get (POS_CNT_CNT n.val) = s.get (POS_CNT_CNT n.val) ∧
       t.is (POS_SPD_VALID n.val) = false ∧
       t.is (POS_STATUS_PVALID n.val) = false ∧
       (t.posCh n.val).acc = levels.toNat ∧
       (t.posCh n.val).la = some s.cyc) ∧
  (∀ (s : State) (n : Fin 8) (levels : BitVec 3),
     s.pos.ch.length = 8 →
     s.ticking = true →
     s.is (POS_CFG_EN n.val) = true →
     levels.toNat ≠ (s.posCh n.val).sync →
     levels.toNat ≠ (s.posCh n.val).acc →
     ∀ u ∈ (s.posCh n.val).la, u + (max 4 (min 4000 (s.get (POS_CFG_TMIN n.val)))) ≤ s.cyc →
     s.get (POS_CFG_SRC n.val) < 2 →
     posStep (s.get (POS_CFG_SRC n.val) == 1) (s.posCh n.val).acc levels.toNat = none →
     ∃ t, exec (.posRawTransition n levels) s = .next t ∧
       t.get (POS_CNT_CNT n.val) = (if s.get (POS_CFG_SRC n.val) = 0 ∧ s.is (POS_CFG_ZEN n.val) = true ∧ levels.toNat.testBit 2 = true ∧ (s.posCh n.val).acc.testBit 2 = false ∧ s.is (POS_CFG_ZRST n.val) = true then s.get (POS_ZVAL_ZVAL n.val) else s.get (POS_CNT_CNT n.val)) ∧
       t.get (POS_ZLATCH_ZLATCH n.val) = (if s.get (POS_CFG_SRC n.val) = 0 ∧ s.is (POS_CFG_ZEN n.val) = true ∧ levels.toNat.testBit 2 = true ∧ (s.posCh n.val).acc.testBit 2 = false then s.get (POS_CNT_CNT n.val) else s.get (POS_ZLATCH_ZLATCH n.val)) ∧
       t.is (POS_STATUS_QERR n.val) = s.is (POS_STATUS_QERR n.val) ∧
       (t.posCh n.val).acc = levels.toNat ∧
       (t.posCh n.val).la = some s.cyc) ∧
  (∀ (s : State) (n : Fin 8) (levels : BitVec 3) (u : Nat),
     s.pos.ch.length = 8 →
     s.ticking = true →
     s.is (POS_CFG_EN n.val) = true →
     levels.toNat ≠ (s.posCh n.val).sync →
     (s.posCh n.val).la = some u →
     s.cyc < u + (max 4 (min 4000 (s.get (POS_CFG_TMIN n.val)))) →
     ∃ t, exec (.posRawTransition n levels) s = .next t ∧
       t.is (POS_STATUS_EFLT n.val) = true ∧
       (t.posCh n.val).acc = (s.posCh n.val).acc ∧
       (t.posCh n.val).sync = levels.toNat ∧
       t.get (POS_CNT_CNT n.val) = s.get (POS_CNT_CNT n.val) ∧
       s.OnlyRegs { t with pos := s.pos } [(POS_STATUS n.val).addr, (POS_CNTS0 n.val).addr]) ∧
  (∀ (s : State) (n : Fin 8) (levels : BitVec 3),
     s.pos.ch.length = 8 →
     levels.toNat ≠ (s.posCh n.val).sync →
     s.ticking = false ∨ s.is (POS_CFG_EN n.val) = false ∨ (levels.toNat = (s.posCh n.val).acc ∧ ∀ u ∈ (s.posCh n.val).la, u + (max 4 (min 4000 (s.get (POS_CFG_TMIN n.val)))) ≤ s.cyc) →
     ∃ t, exec (.posRawTransition n levels) s = .next t ∧
       t = s.setPos n.val { (s.posCh n.val) with sync := levels.toNat }) ∧
  (∀ (s : State) (n : Fin 8) (levels : BitVec 3),
     s.pos.ch.length = 8 →
     s.ticking = true →
     s.is (POS_CFG_EN n.val) = true →
     levels.toNat ≠ (s.posCh n.val).sync →
     levels.toNat ≠ (s.posCh n.val).acc →
     ∀ u ∈ (s.posCh n.val).la, u + (max 4 (min 4000 (s.get (POS_CFG_TMIN n.val)))) ≤ s.cyc →
     2 ≤ s.get (POS_CFG_SRC n.val) →
     ∃ t, exec (.posRawTransition n levels) s = .next t ∧
       t = s.setPos n.val { (s.posCh n.val) with sync := levels.toNat, acc := levels.toNat, la := some s.cyc }) ∧
  (∀ (s : State) (n : Fin 8) (levels : BitVec 3),
     levels.toNat = (s.posCh n.val).sync →
     ∃ t, exec (.posRawTransition n levels) s = .next t ∧
       t = s) ∧
  (∀ (s : State) (n : Fin 8) (u : Nat) (x : Int),
     s.pos.ch.length = 8 →
     (s.posCh n.val).la = some u →
     s.ticking = true →
     s.is (POS_CFG_EN n.val) = true →
     s.cyc = u + (max 4 (min 4000 (s.get (POS_CFG_TMIN n.val)))) →
     (s.posCh n.val).sync ≠ (s.posCh n.val).acc →
     s.get (POS_CFG_SRC n.val) < 2 →
     posStep (s.get (POS_CFG_SRC n.val) == 1) (s.posCh n.val).acc (s.posCh n.val).sync = some x →
     x ≠ 0 →
     s.is (POS_CFG_ZEN n.val) = false →
     ∃ t, exec (.posTminExpiry n) s = .next t ∧
       (t.posCh n.val).acc = (s.posCh n.val).sync ∧
       (t.posCh n.val).la = some s.cyc ∧
       t.get (POS_CNT_CNT n.val) = (if s.is (POS_CFG_CNTMODE n.val) = true then ((s.posCnt n.val + (if s.is (POS_CFG_DIRINV n.val) = true then -x else x)) % (max 4 (s.get (POS_MOD_MOD n.val)) : Nat)).toNat else if s.is (POS_CFG_LIMEN n.val) = true ∧ signed 32 (s.get (POS_LIMHI_LIMHI n.val)) < (s.posCnt n.val + (if s.is (POS_CFG_DIRINV n.val) = true then -x else x)) then s.get (POS_LIMHI_LIMHI n.val) else if s.is (POS_CFG_LIMEN n.val) = true ∧ (s.posCnt n.val + (if s.is (POS_CFG_DIRINV n.val) = true then -x else x)) < signed 32 (s.get (POS_LIMLO_LIMLO n.val)) then s.get (POS_LIMLO_LIMLO n.val) else unsigned 32 (s.posCnt n.val + (if s.is (POS_CFG_DIRINV n.val) = true then -x else x)))) ∧
  (∀ (s : State) (n : Fin 8) (u : Nat),
     s.pos.ch.length = 8 →
     (s.posCh n.val).la = some u →
     s.ticking = true →
     s.is (POS_CFG_EN n.val) = true →
     s.cyc = u + (max 4 (min 4000 (s.get (POS_CFG_TMIN n.val)))) →
     (s.posCh n.val).sync ≠ (s.posCh n.val).acc →
     ∃ t, exec (.posTminExpiry n) s = .next t ∧
       (t.posCh n.val).acc = (s.posCh n.val).sync ∧
       (t.posCh n.val).la = some s.cyc ∧
       (2 ≤ s.get (POS_CFG_SRC n.val) → t.regs = s.regs)) ∧
  (∀ (s : State) (n : Fin 8),
     s.ticking = false ∨ s.is (POS_CFG_EN n.val) = false ∨ (s.posCh n.val).sync = (s.posCh n.val).acc ∨ (∀ u ∈ (s.posCh n.val).la, s.cyc ≠ u + (max 4 (min 4000 (s.get (POS_CFG_TMIN n.val))))) →
     ∃ t, exec (.posTminExpiry n) s = .next t ∧
       t = s) ∧
  (∀ (s : State) (n : Fin 8) (u : Nat),
     s.pos.ch.length = 8 →
     (s.posCh n.val).pulse = some u →
     s.ticking = true →
     u ≤ s.cyc →
     ∃ t, exec (.pcmpPulseEnd n) s = .next t ∧
       t.pcmpPad n.val = s.is (POS_CFG_PCPOL n.val) ∧
       t = s.setPos n.val { (s.posCh n.val) with pulse := none }) ∧
  (∀ (s : State) (n : Fin 8),
     s.ticking = false ∨ ∀ u ∈ (s.posCh n.val).pulse, s.cyc < u →
     ∃ t, exec (.pcmpPulseEnd n) s = .next t ∧
       t = s) ∧
  (∀ (s : State) (n : Fin 8) (u : Nat),
     s.pos.ch.length = 8 →
     (s.posCh n.val).stAt = some u →
     s.ticking = true →
     u + 4000 * max 1 (s.get (POS_TMO_STTMO n.val)) ≤ s.cyc →
     ∃ t, exec (.posStandstill n) s = .next t ∧
       t.is (POS_STATUS_STANDSTILL n.val) = true ∧
       t.is (POS_SPD_VALID n.val) = false ∧
       t.get (POS_SPD_MAG n.val) = 0 ∧
       (t.posCh n.val).stAt = none ∧
       t.get (POS_CNT_CNT n.val) = s.get (POS_CNT_CNT n.val)) ∧
  (∀ (s : State) (n : Fin 8),
     s.ticking = false ∨ ∀ u ∈ (s.posCh n.val).stAt, s.cyc < u + 4000 * max 1 (s.get (POS_TMO_STTMO n.val)) →
     ∃ t, exec (.posStandstill n) s = .next t ∧
       t = s)

/-- A write of POSn_CNT loads it, and an edge counted in the same cycle is applied to the value written; CMPCTRL.RESTART clears
CMPPTR and CMPDONE. A SENT frame is recorded in SENT_LAST; for every enabled channel that selects its receiver one lost to the
queue is counted in FROVR, one that fails a check in FRERR, and a valid one loads the count with its position and its stamp.
An SSI trigger starts a frame, or is counted during one and its pause; the frame's end delivers its position in the same way,
through parity and Gray code. No frame for FRTMO sets LOSS and clears PVALID; a resolver period with the current limit sets
EXCFLT and with a low amplitude LOS. A disabled receiver, an event of another number and a time that has not passed change
nothing (R222, R225, R228 to R232, R236, R237). -/
def Obligations.PositionWritesFramesAndResolver : Prop :=
  (∀ (s : State) (ini : Initiator) (n : Fin 8) (val : Word),
     s.Reaches ini (POS_CNT n.val).addr →
     ∀ x ∈ (s.posCh n.val).step, x.1 ≠ s.cyc →
     ∃ t, exec (.posCntWrite ini n val) s = .next t ∧
       t.rd (POS_CNT n.val) = val ∧
       s.OnlyRegs t [(POS_CNT n.val).addr]) ∧
  (∀ (s : State) (ini : Initiator) (n : Fin 8) (val : Word) (x : Int),
     s.pos.ch.length = 8 →
     s.Reaches ini (POS_CNT n.val).addr →
     (s.posCh n.val).step = some (s.cyc, x) →
     ∃ t, exec (.posCntWrite ini n val) s = .next t ∧
       t.get (POS_CNT_CNT n.val) = (if s.is (POS_CFG_CNTMODE n.val) = true then (((if s.is (POS_CFG_CNTMODE n.val) = true then (val.toNat : Int) else val.toInt) + x) % (max 4 (s.get (POS_MOD_MOD n.val)) : Nat)).toNat else if s.is (POS_CFG_LIMEN n.val) = true ∧ signed 32 (s.get (POS_LIMHI_LIMHI n.val)) < ((if s.is (POS_CFG_CNTMODE n.val) = true then (val.toNat : Int) else val.toInt) + x) then s.get (POS_LIMHI_LIMHI n.val) else if s.is (POS_CFG_LIMEN n.val) = true ∧ ((if s.is (POS_CFG_CNTMODE n.val) = true then (val.toNat : Int) else val.toInt) + x) < signed 32 (s.get (POS_LIMLO_LIMLO n.val)) then s.get (POS_LIMLO_LIMLO n.val) else unsigned 32 ((if s.is (POS_CFG_CNTMODE n.val) = true then (val.toNat : Int) else val.toInt) + x)) ∧
       s.OnlyRegs { t with pos := s.pos } [(POS_CNT n.val).addr, (POS_STATUS n.val).addr]) ∧
  (∀ (s : State) (ini : Initiator) (n : Fin 8) (val : Word),
     s.Reaches ini (POS_CMPCTRL n.val).addr →
     val.getLsbD 0 = true →
     ∃ t, exec (.posCmpRestart ini n val) s = .next t ∧
       t.get (POS_STATUS_CMPPTR n.val) = 0 ∧
       t.is (POS_STATUS_CMPDONE n.val) = false ∧
       s.OnlyRegs t [(POS_STATUS n.val).addr]) ∧
  (∀ (s : State) (ini : Initiator) (n : Fin 8) (val : Word),
     s.Reaches ini (POS_CMPCTRL n.val).addr →
     val.getLsbD 0 = false →
     ∃ t, exec (.posCmpRestart ini n val) s = .next t ∧
       t = s) ∧
  (∀ (s : State) (i : Fin 4) (stamp cal : Nat) (status : BitVec 4) (data : List (BitVec 4)) (crc : BitVec 4) (pause : Bool),
     s.ticking = true →
     s.is (SENT_CFG_EN i.val) = true →
     s.pos.cal.length = 4 →
     ∃ t, exec (.sentFrame i stamp cal status data crc pause true) s = .next t ∧
       t.get (SENT_LAST_STAT i.val) = status.toNat ∧
       t.get (SENT_LAST_DATA i.val) = nibNat (data.map (fun x => x.toNat)) % 2 ^ 24 ∧
       nth t.pos.cal i.val none = some cal ∧
       (∀ n : Fin 8, if (s.is (POS_CFG_EN n.val) = true ∧ s.get (POS_CFG_SRC n.val) = 2 + i.val) then t.get (POS_CNTS1_FROVR_CNT n.val) = min (s.get (POS_CNTS1_FROVR_CNT n.val) + 1) 255 else t.get (POS_CNTS1_FROVR_CNT n.val) = s.get (POS_CNTS1_FROVR_CNT n.val)) ∧
       (∀ n : Fin 8, t.get (POS_CNT_CNT n.val) = s.get (POS_CNT_CNT n.val))) ∧
  (∀ (s : State) (i : Fin 4) (stamp cal : Nat) (status : BitVec 4) (data : List (BitVec 4)) (crc : BitVec 4) (pause : Bool),
     s.ticking = true →
     s.is (SENT_CFG_EN i.val) = true →
     s.pos.cal.length = 4 →
     ¬(4 * cal ≤ 5 * (2240 * max 30 (min 900 (s.get (SENT_CFG_TICK i.val)))) ∧ 3 * (2240 * max 30 (min 900 (s.get (SENT_CFG_TICK i.val)))) ≤ 4 * cal ∧ (s.is (SENT_CFG_SUCCHK i.val) = true → ∀ p ∈ nth s.pos.cal i.val none, 64 * ((cal : Int) - p).natAbs ≤ p) ∧ data.length = (if s.get (SENT_CFG_NIB i.val) = 0 ∨ s.get (SENT_CFG_NIB i.val) = 7 then 6 else s.get (SENT_CFG_NIB i.val)) ∧ (s.is (SENT_CFG_PAUSE i.val) = true ∨ pause = false) ∧ sentCrc (s.is (SENT_CFG_CRCLEG i.val)) (data.map (fun x => x.toNat)) = crc.toNat) →
     ∃ t, exec (.sentFrame i stamp cal status data crc pause false) s = .next t ∧
       t.get (SENT_LAST_STAT i.val) = status.toNat ∧
       t.get (SENT_LAST_DATA i.val) = nibNat (data.map (fun x => x.toNat)) % 2 ^ 24 ∧
       nth t.pos.cal i.val none = some cal ∧
       (∀ n : Fin 8, if (s.is (POS_CFG_EN n.val) = true ∧ s.get (POS_CFG_SRC n.val) = 2 + i.val) then t.get (POS_CNTS1_FRERR_CNT n.val) = min (s.get (POS_CNTS1_FRERR_CNT n.val) + 1) 255 ∧ t.is (POS_SPD_VALID n.val) = false ∧ (t.posCh n.val).good = 0 else t.get (POS_CNTS1_FRERR_CNT n.val) = s.get (POS_CNTS1_FRERR_CNT n.val)) ∧
       (∀ n : Fin 8, t.get (POS_CNT_CNT n.val) = s.get (POS_CNT_CNT n.val))) ∧
  (∀ (s : State) (i : Fin 4) (stamp cal : Nat) (status : BitVec 4) (data : List (BitVec 4)) (crc : BitVec 4) (pause : Bool),
     s.ticking = true →
     s.is (SENT_CFG_EN i.val) = true →
     s.pos.cal.length = 4 →
     s.pos.ch.length = 8 →
     4 * cal ≤ 5 * (2240 * max 30 (min 900 (s.get (SENT_CFG_TICK i.val)))) ∧ 3 * (2240 * max 30 (min 900 (s.get (SENT_CFG_TICK i.val)))) ≤ 4 * cal ∧ (s.is (SENT_CFG_SUCCHK i.val) = true → ∀ p ∈ nth s.pos.cal i.val none, 64 * ((cal : Int) - p).natAbs ≤ p) ∧ data.length = (if s.get (SENT_CFG_NIB i.val) = 0 ∨ s.get (SENT_CFG_NIB i.val) = 7 then 6 else s.get (SENT_CFG_NIB i.val)) ∧ (s.is (SENT_CFG_PAUSE i.val) = true ∨ pause = false) ∧ sentCrc (s.is (SENT_CFG_CRCLEG i.val)) (data.map (fun x => x.toNat)) = crc.toNat →
     ∃ t, exec (.sentFrame i stamp cal status data crc pause false) s = .next t ∧
       t.get (SENT_LAST_STAT i.val) = status.toNat ∧
       t.get (SENT_LAST_DATA i.val) = nibNat (data.map (fun x => x.toNat)) % 2 ^ 24 ∧
       nth t.pos.cal i.val none = some cal ∧
       (∀ n : Fin 8, if (s.is (POS_CFG_EN n.val) = true ∧ s.get (POS_CFG_SRC n.val) = 2 + i.val) then t.get (POS_CNT_CNT n.val) = (if s.is (POS_CFG_CNTMODE n.val) = true then ((((if (max 1 (min 24 (s.get (SENT_CFG_POSBITS i.val)))) ≤ 4 * (if s.get (SENT_CFG_NIB i.val) = 0 ∨ s.get (SENT_CFG_NIB i.val) = 7 then 6 else s.get (SENT_CFG_NIB i.val)) then nibNat (data.map (fun x => x.toNat)) / 2 ^ (4 * (if s.get (SENT_CFG_NIB i.val) = 0 ∨ s.get (SENT_CFG_NIB i.val) = 7 then 6 else s.get (SENT_CFG_NIB i.val)) - (max 1 (min 24 (s.get (SENT_CFG_POSBITS i.val))))) else s.freeNat % 2 ^ (max 1 (min 24 (s.get (SENT_CFG_POSBITS i.val))))) : Nat) : Int) % (max 4 (s.get (POS_MOD_MOD n.val)) : Nat)).toNat else if s.is (POS_CFG_LIMEN n.val) = true ∧ signed 32 (s.get (POS_LIMHI_LIMHI n.val)) < (((if (max 1 (min 24 (s.get (SENT_CFG_POSBITS i.val)))) ≤ 4 * (if s.get (SENT_CFG_NIB i.val) = 0 ∨ s.get (SENT_CFG_NIB i.val) = 7 then 6 else s.get (SENT_CFG_NIB i.val)) then nibNat (data.map (fun x => x.toNat)) / 2 ^ (4 * (if s.get (SENT_CFG_NIB i.val) = 0 ∨ s.get (SENT_CFG_NIB i.val) = 7 then 6 else s.get (SENT_CFG_NIB i.val)) - (max 1 (min 24 (s.get (SENT_CFG_POSBITS i.val))))) else s.freeNat % 2 ^ (max 1 (min 24 (s.get (SENT_CFG_POSBITS i.val))))) : Nat) : Int) then s.get (POS_LIMHI_LIMHI n.val) else if s.is (POS_CFG_LIMEN n.val) = true ∧ (((if (max 1 (min 24 (s.get (SENT_CFG_POSBITS i.val)))) ≤ 4 * (if s.get (SENT_CFG_NIB i.val) = 0 ∨ s.get (SENT_CFG_NIB i.val) = 7 then 6 else s.get (SENT_CFG_NIB i.val)) then nibNat (data.map (fun x => x.toNat)) / 2 ^ (4 * (if s.get (SENT_CFG_NIB i.val) = 0 ∨ s.get (SENT_CFG_NIB i.val) = 7 then 6 else s.get (SENT_CFG_NIB i.val)) - (max 1 (min 24 (s.get (SENT_CFG_POSBITS i.val))))) else s.freeNat % 2 ^ (max 1 (min 24 (s.get (SENT_CFG_POSBITS i.val))))) : Nat) : Int) < signed 32 (s.get (POS_LIMLO_LIMLO n.val)) then s.get (POS_LIMLO_LIMLO n.val) else unsigned 32 (((if (max 1 (min 24 (s.get (SENT_CFG_POSBITS i.val)))) ≤ 4 * (if s.get (SENT_CFG_NIB i.val) = 0 ∨ s.get (SENT_CFG_NIB i.val) = 7 then 6 else s.get (SENT_CFG_NIB i.val)) then nibNat (data.map (fun x => x.toNat)) / 2 ^ (4 * (if s.get (SENT_CFG_NIB i.val) = 0 ∨ s.get (SENT_CFG_NIB i.val) = 7 then 6 else s.get (SENT_CFG_NIB i.val)) - (max 1 (min 24 (s.get (SENT_CFG_POSBITS i.val))))) else s.freeNat % 2 ^ (max 1 (min 24 (s.get (SENT_CFG_POSBITS i.val))))) : Nat) : Int)) ∧ t.get (POS_TSTAMP_TS n.val) = stamp / 4 * 10 % 2 ^ 32 ∧ (t.posCh n.val).prev = some ((if (max 1 (min 24 (s.get (SENT_CFG_POSBITS i.val)))) ≤ 4 * (if s.get (SENT_CFG_NIB i.val) = 0 ∨ s.get (SENT_CFG_NIB i.val) = 7 then 6 else s.get (SENT_CFG_NIB i.val)) then nibNat (data.map (fun x => x.toNat)) / 2 ^ (4 * (if s.get (SENT_CFG_NIB i.val) = 0 ∨ s.get (SENT_CFG_NIB i.val) = 7 then 6 else s.get (SENT_CFG_NIB i.val)) - (max 1 (min 24 (s.get (SENT_CFG_POSBITS i.val))))) else s.freeNat % 2 ^ (max 1 (min 24 (s.get (SENT_CFG_POSBITS i.val))))), stamp) ∧ (t.posCh n.val).good = min 2 ((s.posCh n.val).good + 1) else t.get (POS_CNT_CNT n.val) = s.get (POS_CNT_CNT n.val))) ∧
  (∀ (s : State) (i : Fin 4) (stamp cal : Nat) (status : BitVec 4) (data : List (BitVec 4)) (crc : BitVec 4) (pause lost : Bool),
     s.ticking = false ∨ s.is (SENT_CFG_EN i.val) = false →
     ∃ t, exec (.sentFrame i stamp cal status data crc pause lost) s = .next t ∧
       t = s) ∧
  (∀ (s : State) (i : Fin 2) (ev : Fin 256),
     s.pos.ssi.length = 2 →
     s.ticking = true →
     s.is (SSI_CFG_EN i.val) = true →
     ev.val ≤ 0x87 →
     s.get (SSI_CFG_TRIG i.val) = ev.val →
     (s.ssiOf i.val).began = none →
     ¬(∃ u ∈ (s.ssiOf i.val).ended.toList, s.cyc < u + 400 * s.get (SSI_CFG_MONO i.val)) →
     ∃ t, exec (.ssiTrigger i ev) s = .next t ∧
       t.ssiOf i.val = ⟨some s.cyc, (s.ssiOf i.val).ended⟩ ∧
       t = { s with pos := t.pos }) ∧
  (∀ (s : State) (i : Fin 2) (ev : Fin 256),
     s.ticking = true →
     s.is (SSI_CFG_EN i.val) = true →
     ev.val ≤ 0x87 →
     s.get (SSI_CFG_TRIG i.val) = ev.val →
     (s.ssiOf i.val).began.isSome = true ∨ ∃ u ∈ (s.ssiOf i.val).ended.toList, s.cyc < u + 400 * s.get (SSI_CFG_MONO i.val) →
     ∃ t, exec (.ssiTrigger i ev) s = .next t ∧
       t.get (SSI_STAT_TRGMISS i.val) = min (s.get (SSI_STAT_TRGMISS i.val) + 1) 0xFFFF ∧
       s.OnlyRegs t [(SSI_STAT i.val).addr]) ∧
  (∀ (s : State) (i : Fin 2) (ev : Fin 256),
     s.ticking = false ∨ s.is (SSI_CFG_EN i.val) = false ∨ 0x87 < ev.val ∨ s.get (SSI_CFG_TRIG i.val) ≠ ev.val →
     ∃ t, exec (.ssiTrigger i ev) s = .next t ∧
       t = s) ∧
  (∀ (s : State) (i : Fin 2) (bits : BitVec 32) (u : Nat),
     s.pos.ssi.length = 2 →
     (s.ssiOf i.val).began = some u →
     s.ticking = true →
     u + ((max 7 (s.get (SSI_CFG_LEN i.val)) + 1) * 2 * (max 19 (min 1999 (s.get (SSI_DIV_DIV i.val))) + 1)) ≤ s.cyc →
     ∃ t, exec (.ssiFrame i bits true) s = .next t ∧
       t.ssiOf i.val = ⟨none, some s.cyc⟩ ∧
       (∀ n : Fin 8, if (s.is (POS_CFG_EN n.val) = true ∧ s.get (POS_CFG_SRC n.val) = 6 + i.val) then t.get (POS_CNTS1_FROVR_CNT n.val) = min (s.get (POS_CNTS1_FROVR_CNT n.val) + 1) 255 else t.get (POS_CNTS1_FROVR_CNT n.val) = s.get (POS_CNTS1_FROVR_CNT n.val)) ∧
       (∀ n : Fin 8, t.get (POS_CNT_CNT n.val) = s.get (POS_CNT_CNT n.val))) ∧
  (∀ (s : State) (i : Fin 2) (bits : BitVec 32) (u : Nat),
     s.pos.ssi.length = 2 →
     (s.ssiOf i.val).began = some u →
     s.ticking = true →
     u + ((max 7 (s.get (SSI_CFG_LEN i.val)) + 1) * 2 * (max 19 (min 1999 (s.get (SSI_DIV_DIV i.val))) + 1)) ≤ s.cyc →
     s.is (SSI_CFG_PARITY i.val) = true →
     evenParity (max 7 (s.get (SSI_CFG_LEN i.val)) + 1) (bits.toNat % 2 ^ (max 7 (s.get (SSI_CFG_LEN i.val)) + 1)) = true →
     ∃ t, exec (.ssiFrame i bits false) s = .next t ∧
       t.ssiOf i.val = ⟨none, some s.cyc⟩ ∧
       (∀ n : Fin 8, if (s.is (POS_CFG_EN n.val) = true ∧ s.get (POS_CFG_SRC n.val) = 6 + i.val) then t.get (POS_CNTS1_FRERR_CNT n.val) = min (s.get (POS_CNTS1_FRERR_CNT n.val) + 1) 255 ∧ t.is (POS_SPD_VALID n.val) = false ∧ (t.posCh n.val).good = 0 else t.get (POS_CNTS1_FRERR_CNT n.val) = s.get (POS_CNTS1_FRERR_CNT n.val)) ∧
       (∀ n : Fin 8, t.get (POS_CNT_CNT n.val) = s.get (POS_CNT_CNT n.val))) ∧
  (∀ (s : State) (i : Fin 2) (bits : BitVec 32) (u : Nat),
     s.pos.ch.length = 8 →
     s.pos.ssi.length = 2 →
     (s.ssiOf i.val).began = some u →
     s.ticking = true →
     u + ((max 7 (s.get (SSI_CFG_LEN i.val)) + 1) * 2 * (max 19 (min 1999 (s.get (SSI_DIV_DIV i.val))) + 1)) ≤ s.cyc →
     s.is (SSI_CFG_PARITY i.val) = false ∨ evenParity (max 7 (s.get (SSI_CFG_LEN i.val)) + 1) (bits.toNat % 2 ^ (max 7 (s.get (SSI_CFG_LEN i.val)) + 1)) = false →
     ∃ t, exec (.ssiFrame i bits false) s = .next t ∧
       t.ssiOf i.val = ⟨none, some s.cyc⟩ ∧
       (∀ n : Fin 8, if (s.is (POS_CFG_EN n.val) = true ∧ s.get (POS_CFG_SRC n.val) = 6 + i.val) then t.get (POS_CNT_CNT n.val) = (if s.is (POS_CFG_CNTMODE n.val) = true then ((((if (max 1 (s.get (SSI_CFG_POSBITS i.val))) ≤ (if s.is (SSI_CFG_PARITY i.val) = true then (max 7 (s.get (SSI_CFG_LEN i.val)) + 1) - 1 else (max 7 (s.get (SSI_CFG_LEN i.val)) + 1)) then (if s.is (SSI_CFG_GRAY i.val) = true then fromGray (if s.is (SSI_CFG_PARITY i.val) = true then (max 7 (s.get (SSI_CFG_LEN i.val)) + 1) - 1 else (max 7 (s.get (SSI_CFG_LEN i.val)) + 1)) (if s.is (SSI_CFG_PARITY i.val) = true then (bits.toNat % 2 ^ (max 7 (s.get (SSI_CFG_LEN i.val)) + 1)) / 2 else (bits.toNat % 2 ^ (max 7 (s.get (SSI_CFG_LEN i.val)) + 1))) else (if s.is (SSI_CFG_PARITY i.val) = true then (bits.toNat % 2 ^ (max 7 (s.get (SSI_CFG_LEN i.val)) + 1)) / 2 else (bits.toNat % 2 ^ (max 7 (s.get (SSI_CFG_LEN i.val)) + 1)))) / 2 ^ ((if s.is (SSI_CFG_PARITY i.val) = true then (max 7 (s.get (SSI_CFG_LEN i.val)) + 1) - 1 else (max 7 (s.get (SSI_CFG_LEN i.val)) + 1)) - (max 1 (s.get (SSI_CFG_POSBITS i.val)))) else s.freeNat % 2 ^ (max 1 (s.get (SSI_CFG_POSBITS i.val)))) : Nat) : Int) % (max 4 (s.get (POS_MOD_MOD n.val)) : Nat)).toNat else if s.is (POS_CFG_LIMEN n.val) = true ∧ signed 32 (s.get (POS_LIMHI_LIMHI n.val)) < (((if (max 1 (s.get (SSI_CFG_POSBITS i.val))) ≤ (if s.is (SSI_CFG_PARITY i.val) = true then (max 7 (s.get (SSI_CFG_LEN i.val)) + 1) - 1 else (max 7 (s.get (SSI_CFG_LEN i.val)) + 1)) then (if s.is (SSI_CFG_GRAY i.val) = true then fromGray (if s.is (SSI_CFG_PARITY i.val) = true then (max 7 (s.get (SSI_CFG_LEN i.val)) + 1) - 1 else (max 7 (s.get (SSI_CFG_LEN i.val)) + 1)) (if s.is (SSI_CFG_PARITY i.val) = true then (bits.toNat % 2 ^ (max 7 (s.get (SSI_CFG_LEN i.val)) + 1)) / 2 else (bits.toNat % 2 ^ (max 7 (s.get (SSI_CFG_LEN i.val)) + 1))) else (if s.is (SSI_CFG_PARITY i.val) = true then (bits.toNat % 2 ^ (max 7 (s.get (SSI_CFG_LEN i.val)) + 1)) / 2 else (bits.toNat % 2 ^ (max 7 (s.get (SSI_CFG_LEN i.val)) + 1)))) / 2 ^ ((if s.is (SSI_CFG_PARITY i.val) = true then (max 7 (s.get (SSI_CFG_LEN i.val)) + 1) - 1 else (max 7 (s.get (SSI_CFG_LEN i.val)) + 1)) - (max 1 (s.get (SSI_CFG_POSBITS i.val)))) else s.freeNat % 2 ^ (max 1 (s.get (SSI_CFG_POSBITS i.val)))) : Nat) : Int) then s.get (POS_LIMHI_LIMHI n.val) else if s.is (POS_CFG_LIMEN n.val) = true ∧ (((if (max 1 (s.get (SSI_CFG_POSBITS i.val))) ≤ (if s.is (SSI_CFG_PARITY i.val) = true then (max 7 (s.get (SSI_CFG_LEN i.val)) + 1) - 1 else (max 7 (s.get (SSI_CFG_LEN i.val)) + 1)) then (if s.is (SSI_CFG_GRAY i.val) = true then fromGray (if s.is (SSI_CFG_PARITY i.val) = true then (max 7 (s.get (SSI_CFG_LEN i.val)) + 1) - 1 else (max 7 (s.get (SSI_CFG_LEN i.val)) + 1)) (if s.is (SSI_CFG_PARITY i.val) = true then (bits.toNat % 2 ^ (max 7 (s.get (SSI_CFG_LEN i.val)) + 1)) / 2 else (bits.toNat % 2 ^ (max 7 (s.get (SSI_CFG_LEN i.val)) + 1))) else (if s.is (SSI_CFG_PARITY i.val) = true then (bits.toNat % 2 ^ (max 7 (s.get (SSI_CFG_LEN i.val)) + 1)) / 2 else (bits.toNat % 2 ^ (max 7 (s.get (SSI_CFG_LEN i.val)) + 1)))) / 2 ^ ((if s.is (SSI_CFG_PARITY i.val) = true then (max 7 (s.get (SSI_CFG_LEN i.val)) + 1) - 1 else (max 7 (s.get (SSI_CFG_LEN i.val)) + 1)) - (max 1 (s.get (SSI_CFG_POSBITS i.val)))) else s.freeNat % 2 ^ (max 1 (s.get (SSI_CFG_POSBITS i.val)))) : Nat) : Int) < signed 32 (s.get (POS_LIMLO_LIMLO n.val)) then s.get (POS_LIMLO_LIMLO n.val) else unsigned 32 (((if (max 1 (s.get (SSI_CFG_POSBITS i.val))) ≤ (if s.is (SSI_CFG_PARITY i.val) = true then (max 7 (s.get (SSI_CFG_LEN i.val)) + 1) - 1 else (max 7 (s.get (SSI_CFG_LEN i.val)) + 1)) then (if s.is (SSI_CFG_GRAY i.val) = true then fromGray (if s.is (SSI_CFG_PARITY i.val) = true then (max 7 (s.get (SSI_CFG_LEN i.val)) + 1) - 1 else (max 7 (s.get (SSI_CFG_LEN i.val)) + 1)) (if s.is (SSI_CFG_PARITY i.val) = true then (bits.toNat % 2 ^ (max 7 (s.get (SSI_CFG_LEN i.val)) + 1)) / 2 else (bits.toNat % 2 ^ (max 7 (s.get (SSI_CFG_LEN i.val)) + 1))) else (if s.is (SSI_CFG_PARITY i.val) = true then (bits.toNat % 2 ^ (max 7 (s.get (SSI_CFG_LEN i.val)) + 1)) / 2 else (bits.toNat % 2 ^ (max 7 (s.get (SSI_CFG_LEN i.val)) + 1)))) / 2 ^ ((if s.is (SSI_CFG_PARITY i.val) = true then (max 7 (s.get (SSI_CFG_LEN i.val)) + 1) - 1 else (max 7 (s.get (SSI_CFG_LEN i.val)) + 1)) - (max 1 (s.get (SSI_CFG_POSBITS i.val)))) else s.freeNat % 2 ^ (max 1 (s.get (SSI_CFG_POSBITS i.val)))) : Nat) : Int)) ∧ t.get (POS_TSTAMP_TS n.val) = u / 4 * 10 % 2 ^ 32 ∧ (t.posCh n.val).prev = some ((if (max 1 (s.get (SSI_CFG_POSBITS i.val))) ≤ (if s.is (SSI_CFG_PARITY i.val) = true then (max 7 (s.get (SSI_CFG_LEN i.val)) + 1) - 1 else (max 7 (s.get (SSI_CFG_LEN i.val)) + 1)) then (if s.is (SSI_CFG_GRAY i.val) = true then fromGray (if s.is (SSI_CFG_PARITY i.val) = true then (max 7 (s.get (SSI_CFG_LEN i.val)) + 1) - 1 else (max 7 (s.get (SSI_CFG_LEN i.val)) + 1)) (if s.is (SSI_CFG_PARITY i.val) = true then (bits.toNat % 2 ^ (max 7 (s.get (SSI_CFG_LEN i.val)) + 1)) / 2 else (bits.toNat % 2 ^ (max 7 (s.get (SSI_CFG_LEN i.val)) + 1))) else (if s.is (SSI_CFG_PARITY i.val) = true then (bits.toNat % 2 ^ (max 7 (s.get (SSI_CFG_LEN i.val)) + 1)) / 2 else (bits.toNat % 2 ^ (max 7 (s.get (SSI_CFG_LEN i.val)) + 1)))) / 2 ^ ((if s.is (SSI_CFG_PARITY i.val) = true then (max 7 (s.get (SSI_CFG_LEN i.val)) + 1) - 1 else (max 7 (s.get (SSI_CFG_LEN i.val)) + 1)) - (max 1 (s.get (SSI_CFG_POSBITS i.val)))) else s.freeNat % 2 ^ (max 1 (s.get (SSI_CFG_POSBITS i.val)))), u) ∧ (t.posCh n.val).good = min 2 ((s.posCh n.val).good + 1) else t.get (POS_CNT_CNT n.val) = s.get (POS_CNT_CNT n.val))) ∧
  (∀ (s : State) (i : Fin 2) (bits : BitVec 32) (lost : Bool),
     s.ticking = false ∨ ∀ u ∈ (s.ssiOf i.val).began, s.cyc < u + ((max 7 (s.get (SSI_CFG_LEN i.val)) + 1) * 2 * (max 19 (min 1999 (s.get (SSI_DIV_DIV i.val))) + 1)) →
     ∃ t, exec (.ssiFrame i bits lost) s = .next t ∧
       t = s) ∧
  (∀ (s : State) (n : Fin 8) (u : Nat),
     s.pos.ch.length = 8 →
     (s.posCh n.val).frAt = some u →
     s.ticking = true →
     s.is (POS_CFG_EN n.val) = true →
     2 ≤ s.get (POS_CFG_SRC n.val) →
     u + 4000 * max 1 (s.get (POS_TMO_FRTMO n.val)) ≤ s.cyc →
     ∃ t, exec (.posFrameTimeout n) s = .next t ∧
       t.is (POS_STATUS_LOSS n.val) = true ∧
       t.is (POS_STATUS_PVALID n.val) = false ∧
       (t.posCh n.val).frAt = none ∧
       t.get (POS_CNT_CNT n.val) = s.get (POS_CNT_CNT n.val)) ∧
  (∀ (s : State) (n : Fin 8),
     s.ticking = false ∨ s.is (POS_CFG_EN n.val) = false ∨ s.get (POS_CFG_SRC n.val) < 2 ∨ ∀ u ∈ (s.posCh n.val).frAt, s.cyc < u + 4000 * max 1 (s.get (POS_TMO_FRTMO n.val)) →
     ∃ t, exec (.posFrameTimeout n) s = .next t ∧
       t = s) ∧
  (∀ (s : State) (n : Fin 2) (exc : Bool),
     s.pos.res.length = 2 →
     s.ticking = true →
     s.is (RES_CFG_EN n.val) = true →
     (max 500 (min 1250 (s.get (RES_CFG_DIV n.val)))) ≤ (nth s.pos.res n.val ResCh.idle).s.length →
     (max 500 (min 1250 (s.get (RES_CFG_DIV n.val)))) ≤ (nth s.pos.res n.val ResCh.idle).c.length →
     ∃ t, exec (.resPeriodUpdate n exc) s = .next t ∧
       (nth t.pos.res n.val ResCh.idle).periods = min 16 ((nth s.pos.res n.val ResCh.idle).periods + 1) ∧
       t.is (RES_STATUS_EXCFLT n.val) = (s.is (RES_STATUS_EXCFLT n.val) || exc) ∧
       t.is (RES_STATUS_LOS n.val) = (s.is (RES_STATUS_LOS n.val) || decide (t.get (RES_AMP_A n.val) < s.get (RES_LIM_AMPLO n.val))) ∧
       t.is (RES_STATUS_DOS n.val) = (s.is (RES_STATUS_DOS n.val) || (nth s.pos.res n.val ResCh.idle).ovr || decide (s.get (RES_LIM_AMPHI n.val) < t.get (RES_AMP_A n.val))) ∧
       t.is (RES_STATUS_PVALID n.val) = (!t.is (RES_STATUS_LOS n.val) && !t.is (RES_STATUS_DOS n.val) && !t.is (RES_STATUS_LOT n.val) && decide (16 ≤ (nth s.pos.res n.val ResCh.idle).periods + 1))) ∧
  (∀ (s : State) (n : Fin 2) (exc : Bool),
     s.ticking = false ∨ s.is (RES_CFG_EN n.val) = false ∨ (nth s.pos.res n.val ResCh.idle).s.length < (max 500 (min 1250 (s.get (RES_CFG_DIV n.val)))) ∨ (nth s.pos.res n.val ResCh.idle).c.length < (max 500 (min 1250 (s.get (RES_CFG_DIV n.val)))) →
     ∃ t, exec (.resPeriodUpdate n exc) s = .next t ∧
       t = s)

/-- A cycle starts once at a tick that is a multiple of 10 us, with eight results due: the whole watts of the last value written
for an entry, 0 W for the entries of no engine; it counts OVR where the last was not published. Publication writes every
entry's PRED, HEAT, GRANT and status and keeps HOLD, and is not made while the cycle has not finished; a write of LGC_BATLIM
is taken and restarts the timer, whose end sets FALLBACK; a steering computation leaves the offsets of entries without STEER,
and every grant, alone. At other times these events change nothing (R252 to R256, R260). -/
def Obligations.TheLedgerComputesPublishesAndFallsBack : Prop :=
  (∀ (s : State),
     s.ticking = true →
     s.tick % 1000 = 0 →
     s.ledger.ranAt ≠ some s.tick →
     ∃ t, exec (.ledgerCycle) s = .next t ∧
       (t.ledger.due.map (fun x => (x.1, x.2.length))) = some (s.cyc, 8) ∧
       t.ledger.ranAt = some s.tick ∧
       (∀ x ∈ t.ledger.due, ∀ e : Fin 8, s.entryPred e.val = none → (nth x.2 e.val ⟨0, 0, 0, 0⟩).pred = 0 ∧ (e.val ≠ 4 → (nth x.2 e.val ⟨0, 0, 0, 0⟩).grant = 0)) ∧
       (∀ x ∈ t.ledger.due, ∀ e : Fin 8, ∀ w ∈ (s.entryPred e.val).toList, ∀ i ∈ (f32Trunc w.1).toList, (-2147483648 ≤ i ∧ i ≤ 2147483647 ∧ ¬(e.val = 1 ∧ s.order = .sa) ∧ ¬(e.val = 4 ∧ s.is DCS_STAT_TRIPLAT = true)) → (nth x.2 e.val ⟨0, 0, 0, 0⟩).pred = BitVec.ofInt 32 i) ∧
       t.get LGC_STAT_OVR = (if s.ledger.due.isSome then min (s.get LGC_STAT_OVR + 1) 255 else s.get LGC_STAT_OVR) ∧
       s.OnlyRegs { t with ledger := s.ledger, fresh := s.fresh } [LGC_STAT.addr]) ∧
  (∀ (s : State),
     s.ticking = false ∨ s.tick % 1000 ≠ 0 ∨ s.ledger.ranAt = some s.tick →
     ∃ t, exec (.ledgerCycle) s = .next t ∧
       t = s) ∧
  (∀ (s : State) (u : Nat) (rs : List LgRes),
     s.ledger.due = some (u, rs) →
     rs.length = 8 →
     s.ticking = true →
     s.ledger.slow = false →
     u + 800 ≤ s.cyc →
     ∃ t, exec (.ledgerPublish) s = .next t ∧
       (∀ e : Fin 8, t.rd (LGE_PRED e.val) = (nth rs e.val ⟨0, 0, 0, 0⟩).pred ∧ t.rd (LGE_HEAT e.val) = (nth rs e.val ⟨0, 0, 0, 0⟩).heat ∧ t.rd (LGE_GRANT e.val) = (nth rs e.val ⟨0, 0, 0, 0⟩).grant) ∧
       (∀ e : Fin 8, t.get (LGE_STAT_HOLD e.val) = s.get (LGE_STAT_HOLD e.val)) ∧
       t.ledger.due = none ∧
       t.get LGC_STAT_CYCLE = (s.get LGC_STAT_CYCLE + 1) % 65536 ∧
       t.get LGC_STAT_STEP = s.get THM_STAT_STEP ∧
       t.is LGC_STAT_FALLBACK = !decide (∃ x ∈ s.ledger.batAt.toList, s.cyc < x + 400000 * max 1 (s.get LGC_BATTMO_TMO))) ∧
  (∀ (s : State),
     s.ticking = false ∨ s.ledger.slow = true ∨ ∀ x ∈ s.ledger.due, s.cyc < x.1 + 800 →
     ∃ t, exec (.ledgerPublish) s = .next t ∧
       t = s) ∧
  (∀ (s : State) (ini : Initiator) (val : Word),
     s.Reaches ini LGC_BATLIM.addr →
     ∃ t, exec (.lgcBatlimWrite ini val) s = .next t ∧
       t.rd LGC_BATLIM = val ∧
       t.is LGC_STAT_FALLBACK = false ∧
       t.ledger.batAt = some s.cyc ∧
       s.OnlyRegs { t with ledger := s.ledger } [LGC_BATLIM.addr, LGC_STAT.addr]) ∧
  (∀ (s : State) (u : Nat),
     s.ticking = true →
     s.ledger.batAt = some u →
     u + 400000 * max 1 (s.get LGC_BATTMO_TMO) ≤ s.cyc →
     ∃ t, exec (.battLimitTimeout) s = .next t ∧
       t.is LGC_STAT_FALLBACK = true ∧
       t.ledger.batAt = none ∧
       t.rd LGC_BATLIM = s.rd LGC_BATLIM ∧
       s.OnlyRegs { t with ledger := s.ledger } [LGC_STAT.addr]) ∧
  (∀ (s : State),
     s.ticking = false ∨ ∀ u ∈ s.ledger.batAt, s.cyc < u + 400000 * max 1 (s.get LGC_BATTMO_TMO) →
     ∃ t, exec (.battLimitTimeout) s = .next t ∧
       t = s) ∧
  (∀ (s : State),
     s.ticking = true →
     s.is LGC_STEER_EN = true →
     s.ledger.steerAt + 400000 * max 1 (s.get LGC_STEER_PERIOD) ≤ s.cyc →
     ∃ t, exec (.steerCompute) s = .next t ∧
       t.ledger.steerAt = s.cyc ∧
       (∀ e : Fin 8, s.is (LGE_CFG_STEER e.val) = false → t.rd (LGE_OFS e.val) = s.rd (LGE_OFS e.val) ∧ t.bit LGC_STEERSTAT_MEMB e.val = false) ∧
       (∀ e : Fin 8, t.rd (LGE_GRANT e.val) = s.rd (LGE_GRANT e.val))) ∧
  (∀ (s : State),
     s.ticking = false ∨ s.is LGC_STEER_EN = false ∨ s.cyc < s.ledger.steerAt + 400000 * max 1 (s.get LGC_STEER_PERIOD) →
     ∃ t, exec (.steerCompute) s = .next t ∧
       t = s)

/-- After 1 ms the precheck ends in MOVE, and after the dwell time in tolerance RELAX begins; the end of RELAX ends the sequence
DONE, its timeout TIMEOUT, a stall at the current limit STALL and an undervoltage that has lasted BUSUV, each with PHASE 0,
the elapsed time and the actuator's PWM modules stopped; a stall of ENGAGE beyond the tooth threshold sets TOOTH and the
sequence goes on. In another phase, or before its time, such an event changes nothing (R271 to R275). -/
def Obligations.ActuatorSequencesMoveThroughTheirPhases : Prop :=
  (∀ (s : State) (n : Fin 3),
     s.act.length = 3 →
     s.get (ACS_STAT_PHASE n.val) = 1 →
     (s.actOf n.val).phaseAt + 400000 ≤ s.now →
     ∃ t, exec (.actPrecheckEnd n) s = .next t ∧
       t.get (ACS_STAT_PHASE n.val) = 2 ∧
       (t.actOf n.val).phaseAt = s.now ∧
       t.get (ACS_STAT_RESULT n.val) = s.get (ACS_STAT_RESULT n.val)) ∧
  (∀ (s : State) (n : Fin 3),
     s.get (ACS_STAT_PHASE n.val) ≠ 1 ∨ s.now < (s.actOf n.val).phaseAt + 400000 →
     ∃ t, exec (.actPrecheckEnd n) s = .next t ∧
       t = s) ∧
  (∀ (s : State) (n : Fin 3),
     s.act.length = 3 →
     s.get (ACS_STAT_PHASE n.val) = 3 →
     s.actInTol n.val = true →
     (s.actOf n.val).phaseAt + 400000 * s.par 0x0038 ≤ s.now →
     ∃ t, exec (.actDwellEnd n) s = .next t ∧
       t.get (ACS_STAT_PHASE n.val) = 4 ∧
       (t.actOf n.val).phaseAt = s.now) ∧
  (∀ (s : State) (n : Fin 3),
     s.get (ACS_STAT_PHASE n.val) ≠ 3 ∨ s.actInTol n.val = false ∨ s.now < (s.actOf n.val).phaseAt + 400000 * s.par 0x0038 →
     ∃ t, exec (.actDwellEnd n) s = .next t ∧
       t = s) ∧
  (∀ (s : State) (n : Fin 3),
     s.act.length = 3 →
     s.get (ACS_STAT_PHASE n.val) = 4 →
     (s.actOf n.val).phaseAt + 400000 ≤ s.now →
     ∃ t, exec (.actRelaxEnd n) s = .next t ∧
       t.get (ACS_STAT_PHASE n.val) = 0 ∧
       t.get (ACS_STAT_RESULT n.val) = 1 ∧
       t.get (ACS_STAT_ELAPSED n.val) = min 0xFFFF ((s.now - (s.actOf n.val).began) / 400000) ∧
       (∀ k ∈ actMods n.val, t.is (PWM_CTRL_RUN k) = false) ∧
       (n.val = 0 → (t.modes.lock = true → s.get (ACS_STAT_SEQ 0) = 1 ∨ s.modes.lock = true))) ∧
  (∀ (s : State) (n : Fin 3),
     s.get (ACS_STAT_PHASE n.val) ≠ 4 ∨ s.now < (s.actOf n.val).phaseAt + 400000 →
     ∃ t, exec (.actRelaxEnd n) s = .next t ∧
       t = s) ∧
  (∀ (s : State) (n : Fin 3),
     s.act.length = 3 →
     s.get (ACS_STAT_PHASE n.val) ≠ 0 →
     (s.actOf n.val).began + 400000 * s.par (0x0034 + n.val) ≤ s.now →
     ∃ t, exec (.actSeqTimeout n) s = .next t ∧
       t.get (ACS_STAT_PHASE n.val) = 0 ∧
       t.get (ACS_STAT_RESULT n.val) = 3 ∧
       t.get (ACS_STAT_ELAPSED n.val) = min 0xFFFF ((s.now - (s.actOf n.val).began) / 400000) ∧
       (∀ k ∈ actMods n.val, t.is (PWM_CTRL_RUN k) = false) ∧
       (n.val = 0 → (t.modes.lock = true → s.get (ACS_STAT_SEQ 0) = 1 ∨ s.modes.lock = true))) ∧
  (∀ (s : State) (n : Fin 3),
     s.get (ACS_STAT_PHASE n.val) = 0 ∨ s.now < (s.actOf n.val).began + 400000 * s.par (0x0034 + n.val) →
     ∃ t, exec (.actSeqTimeout n) s = .next t ∧
       t = s) ∧
  (∀ (s : State) (n : Fin 3),
     s.act.length = 3 →
     ¬(n.val = 0 ∧ s.get (ACS_STAT_SEQ 0) = 1 ∧ s.beyondTooth = true) →
     s.get (ACS_STAT_PHASE n.val) = 2 →
     (s.actOf n.val).stallAt + 400000 * s.par 0x003A ≤ s.now →
     ∃ t, exec (.actStall n) s = .next t ∧
       t.get (ACS_STAT_PHASE n.val) = 0 ∧
       t.get (ACS_STAT_RESULT n.val) = 4 ∧
       t.get (ACS_STAT_ELAPSED n.val) = min 0xFFFF ((s.now - (s.actOf n.val).began) / 400000) ∧
       (∀ k ∈ actMods n.val, t.is (PWM_CTRL_RUN k) = false) ∧
       (n.val = 0 → (t.modes.lock = true → s.get (ACS_STAT_SEQ 0) = 1 ∨ s.modes.lock = true))) ∧
  (∀ (s : State) (n : Fin 3),
     s.act.length = 3 →
     n.val = 0 ∧ s.get (ACS_STAT_SEQ 0) = 1 ∧ s.beyondTooth = true →
     s.get (ACS_STAT_PHASE n.val) = 2 →
     (s.actOf n.val).stallAt + 400000 * s.par 0x003A ≤ s.now →
     ∃ t, exec (.actStall n) s = .next t ∧
       t.is (ACS_STAT_TOOTH 0) = true ∧
       t.get (ACS_STAT_PHASE 0) = 2) ∧
  (∀ (s : State) (n : Fin 3),
     s.get (ACS_STAT_PHASE n.val) ≠ 2 ∨ s.now < (s.actOf n.val).stallAt + 400000 * s.par 0x003A →
     ∃ t, exec (.actStall n) s = .next t ∧
       t = s) ∧
  (∀ (s : State) (n : Fin 3) (v held : Nat),
     s.act.length = 3 →
     s.get (ACS_STAT_PHASE n.val) ≠ 0 →
     v < s.par 0x003B →
     400000 * s.par 0x003C ≤ held →
     ∃ t, exec (.actBusuv n v held) s = .next t ∧
       t.get (ACS_STAT_PHASE n.val) = 0 ∧
       t.get (ACS_STAT_RESULT n.val) = 8 ∧
       t.get (ACS_STAT_ELAPSED n.val) = min 0xFFFF ((s.now - (s.actOf n.val).began) / 400000) ∧
       (∀ k ∈ actMods n.val, t.is (PWM_CTRL_RUN k) = false) ∧
       (n.val = 0 → (t.modes.lock = true → s.get (ACS_STAT_SEQ 0) = 1 ∨ s.modes.lock = true))) ∧
  (∀ (s : State) (n : Fin 3) (v held : Nat),
     s.get (ACS_STAT_PHASE n.val) = 0 ∨ s.par 0x003B ≤ v ∨ held < 400000 * s.par 0x003C →
     ∃ t, exec (.actBusuv n v held) s = .next t ∧
       t = s)

/-- Six equal readings with a good check put Badger into WAIT_ACK, others into CFGFAIL; the exact sealed value gives READY when no
enabled input demands and STO with every demanding input as a source when one does, and any other acknowledgement is counted;
a clock interval outside 880 to 1,080 ticks and a latch that fails its check are sources of FAULT; so is a readback that
contradicts forced-off or a power-good still high 5,000 ticks after its enable went; a request from an initiator that is no
thread of a Paired or Voted core is only counted. A check that is not due changes nothing (R31, R278 to R283, R302, R304). -/
def Obligations.BadgerSealsItsConfigurationAndChecksItself : Prop :=
  (∀ (s : State) (d : BitVec 24),
     s.isOn 2 = true →
     s.get HSM_STATUS_STATE = 0 →
     s.badger.onAt + 100 ≤ s.badger.tick →
     crc8 [d.toNat / 65536, d.toNat / 256 % 256] = d.toNat % 256 →
     ∃ t, exec (.sealRead d d d d d d) s = .next t ∧
       t.get HSM_STATUS_STATE = 2 ∧
       t.get HSM_CFG_SAFECFG = d.toNat / 256 ∧
       t.get HSM_CFG_SAFECHK = d.toNat % 256 ∧
       t.is HSM_CFG_VALID = true ∧
       t.badger = s.badger ∧
       t.rd HSM_CAUSE = s.rd HSM_CAUSE) ∧
  (∀ (s : State) (d0 d1 d2 u0 u1 u2 : BitVec 24),
     s.isOn 2 = true →
     s.get HSM_STATUS_STATE = 0 →
     s.badger.onAt + 100 ≤ s.badger.tick →
     ¬(d0 = d1 ∧ d0 = d2 ∧ d0 = u0 ∧ d0 = u1 ∧ d0 = u2 ∧ crc8 [d0.toNat / 65536, d0.toNat / 256 % 256] = d0.toNat % 256) →
     ∃ t, exec (.sealRead d0 d1 d2 u0 u1 u2) s = .next t ∧
       t.get HSM_STATUS_STATE = 1 ∧
       t.is HSM_CFG_VALID = false) ∧
  (∀ (s : State) (d0 d1 d2 u0 u1 u2 : BitVec 24),
     s.isOn 2 = false ∨ s.get HSM_STATUS_STATE ≠ 0 ∨ s.badger.tick < s.badger.onAt + 100 →
     ∃ t, exec (.sealRead d0 d1 d2 u0 u1 u2) s = .next t ∧
       t = s) ∧
  (∀ (s : State),
     s.isOn 2 = true →
     s.badger.clkMarten + 32 ≤ s.marten →
     880 ≤ s.badger.tick - s.badger.clkTick →
     s.badger.tick - s.badger.clkTick ≤ 1080 →
     ∃ t, exec (.badgerClockCheck) s = .next t ∧
       t = { s with badger := { s.badger with clkTick := s.badger.tick, clkMarten := s.marten } }) ∧
  (∀ (s : State),
     s.isOn 2 = true →
     s.badger.clkMarten + 32 ≤ s.marten →
     s.badger.tick - s.badger.clkTick < 880 ∨ 1080 < s.badger.tick - s.badger.clkTick →
     ∃ t, exec (.badgerClockCheck) s = .next t ∧
       t.get HSM_STATUS_STATE = 6 ∧
       t.bit HSM_CAUSE_SRC 15 = true) ∧
  (∀ (s : State),
     s.isOn 2 = false ∨ s.marten < s.badger.clkMarten + 32 →
     ∃ t, exec (.badgerClockCheck) s = .next t ∧
       t = s) ∧
  (∀ (s : State),
     s.isOn 2 = true →
     s.is HSM_CFG_VALID = true →
     s.badger.latchAt + 1000 ≤ s.badger.tick →
     crc8 [s.safeCfg / 256, s.safeCfg % 256] = s.get HSM_CFG_SAFECHK →
     ∃ t, exec (.latchSelfCheck) s = .next t ∧
       t = { s with badger := { s.badger with latchAt := s.badger.tick } }) ∧
  (∀ (s : State),
     s.isOn 2 = true →
     s.is HSM_CFG_VALID = true →
     s.badger.latchAt + 1000 ≤ s.badger.tick →
     crc8 [s.safeCfg / 256, s.safeCfg % 256] ≠ s.get HSM_CFG_SAFECHK →
     ∃ t, exec (.latchSelfCheck) s = .next t ∧
       t.get HSM_STATUS_STATE = 6 ∧
       t.bit HSM_CAUSE_SRC 16 = true) ∧
  (∀ (s : State),
     s.isOn 2 = false ∨ s.is HSM_CFG_VALID = false ∨ s.badger.tick < s.badger.latchAt + 1000 →
     ∃ t, exec (.latchSelfCheck) s = .next t ∧
       t = s) ∧
  (∀ (s : State) (c : Fin 4) (th : Fin 3) (val : Word),
     s.get (SCC_MODE_MODE c.val) = 1 ∨ s.get (SCC_MODE_MODE c.val) = 2 →
     s.get HSM_STATUS_STATE = 2 →
     bitsOf 23 0 val.toNat = s.get HSM_CFG_SAFECFG * 256 + s.get HSM_CFG_SAFECHK →
     ∀ i : Fin 4, s.sinEn i.val = true → s.sinDem i.val = false →
     ∃ t, exec (.hsmAck (.sc c th) val) s = .next t ∧
       t.get HSM_STATUS_STATE = 3 ∧
       t.is HSM_CFG_CFGACK = true ∧
       t.is HSM_STATUS_SAFEOK = true ∧
       (∀ n : Fin 8, t.get (HSM_WDQ_Q n.val) = (if s.is (HSM_WDCFG_EN n.val) then n.val + 1 else s.get (HSM_WDQ_Q n.val)))) ∧
  (∀ (s : State) (c : Fin 4) (th : Fin 3) (val : Word) (i : Fin 4),
     s.get (SCC_MODE_MODE c.val) = 1 ∨ s.get (SCC_MODE_MODE c.val) = 2 →
     s.get HSM_STATUS_STATE = 2 →
     bitsOf 23 0 val.toNat = s.get HSM_CFG_SAFECFG * 256 + s.get HSM_CFG_SAFECHK →
     s.sinEn i.val = true →
     s.sinDem i.val = true →
     ∃ t, exec (.hsmAck (.sc c th) val) s = .next t ∧
       t.get HSM_STATUS_STATE = 5 ∧
       t.is HSM_CFG_CFGACK = true ∧
       t.is HSM_STATUS_SAFEOK = false ∧
       t.bit HSM_CAUSE_SRC i.val = true) ∧
  (∀ (s : State) (c : Fin 4) (th : Fin 3) (val : Word),
     s.get (SCC_MODE_MODE c.val) = 1 ∨ s.get (SCC_MODE_MODE c.val) = 2 →
     s.get HSM_STATUS_STATE ≠ 2 ∨ bitsOf 23 0 val.toNat ≠ s.get HSM_CFG_SAFECFG * 256 + s.get HSM_CFG_SAFECHK →
     ∃ t, exec (.hsmAck (.sc c th) val) s = .next t ∧
       t.get HSM_CNT_ACKERR = min (s.get HSM_CNT_ACKERR + 1) (HSM_CNT_ACKERR.size - 1) ∧
       s.OnlyRegs t [HSM_CNT.addr]) ∧
  (∀ (s : State) (ini : Initiator) (val : Word),
     ∀ c : Fin 4, ∀ th : Fin 3, ini = .sc c th → s.get (SCC_MODE_MODE c.val) ≠ 1 ∧ s.get (SCC_MODE_MODE c.val) ≠ 2 →
     ∃ t, exec (.hsmAck ini val) s = .next t ∧
       t.get HSM_CNT_IGNWR = min (s.get HSM_CNT_IGNWR + 1) (HSM_CNT_IGNWR.size - 1) ∧
       s.OnlyRegs t [HSM_CNT.addr]) ∧
  (∀ (s : State) (forced good : BitVec 4),
     s.isOn 2 = true →
     s.get HSM_STATUS_STATE ≠ 6 →
     ∃ g : Fin 4, (s.bit HSM_STATUS_FOFF g.val = true ∧ forced.getLsbD g.val = false) ∨ (s.bit HSM_STATUS_EN g.val = false ∧ good.getLsbD g.val = true ∧ nth s.badger.removedAt g.val 0 + 5000 ≤ s.badger.tick) →
     ∃ t, exec (.stoReadback forced good) s = .next t ∧
       t.get HSM_STATUS_STATE = 6 ∧
       t.bit HSM_CAUSE_SRC 17 = true) ∧
  (∀ (s : State) (forced good : BitVec 4),
     s.isOn 2 = false ∨ s.get HSM_STATUS_STATE = 6 ∨ ¬(∃ g : Fin 4, (s.bit HSM_STATUS_FOFF g.val = true ∧ forced.getLsbD g.val = false) ∨ (s.bit HSM_STATUS_EN g.val = false ∧ good.getLsbD g.val = true ∧ nth s.badger.removedAt g.val 0 + 5000 ≤ s.badger.tick)) →
     ∃ t, exec (.stoReadback forced good) s = .next t ∧
       t = s)

/-- After what is due in the tick, ENABLE in READY grants exactly the named groups, but never group B on VX8800-SA, and is
otherwise counted; RELEASE takes exactly the named ones that no ASC holds. An SS1 request in READY begins SS1; an STO request
ends in STO with both motor groups forced-off, or held in ASC where a motor at the threshold may be; in later states a request
only names its source. A restart whose conditions hold gives READY, or WAIT_ACK without an acknowledgement, and clears the
causes; another is counted. SS1 ends in STO at its timeout, at a second evaluation above the envelope and at standstill, and
an evaluation in STO or FAULT ends ASC below its threshold. Requests of others are ignored and counted; what is not due
changes nothing (R291 to R299, R462). -/
def Obligations.BadgerStopsEnablesAndRestarts : Prop :=
  (∀ (s : State) (c : Fin 4) (th : Fin 3) (mask : BitVec 4),
     s.get (SCC_MODE_MODE c.val) = 1 ∨ s.get (SCC_MODE_MODE c.val) = 2 →
     s.badgerDue.get HSM_STATUS_STATE = 3 →
     s.badgerDue.is HSM_CFG_CFGACK = true →
     ∃ t, exec (.hsmEnable (.sc c th) mask) s = .next t ∧
       (∀ g : Fin 4, t.bit HSM_STATUS_EN g.val = (s.badgerDue.bit HSM_STATUS_EN g.val || (mask.getLsbD g.val && !(g.val == 1 && s.order == .sa)))) ∧
       (∀ g : Fin 4, (mask.getLsbD g.val && !(g.val == 1 && s.order == .sa)) = true → t.bit HSM_STATUS_FOFF g.val = false) ∧
       t.get HSM_STATUS_STATE = 3) ∧
  (∀ (s : State) (c : Fin 4) (th : Fin 3) (mask : BitVec 4),
     s.get (SCC_MODE_MODE c.val) = 1 ∨ s.get (SCC_MODE_MODE c.val) = 2 →
     s.badgerDue.get HSM_STATUS_STATE ≠ 3 ∨ s.badgerDue.is HSM_CFG_CFGACK = false →
     ∃ t, exec (.hsmEnable (.sc c th) mask) s = .next t ∧
       t.get HSM_CNT_REFUSED = min (s.badgerDue.get HSM_CNT_REFUSED + 1) (HSM_CNT_REFUSED.size - 1) ∧
       s.badgerDue.OnlyRegs t [HSM_CNT.addr]) ∧
  (∀ (s : State) (ini : Initiator) (mask : BitVec 4),
     ∀ c : Fin 4, ∀ th : Fin 3, ini = .sc c th → s.get (SCC_MODE_MODE c.val) ≠ 1 ∧ s.get (SCC_MODE_MODE c.val) ≠ 2 →
     ∃ t, exec (.hsmEnable ini mask) s = .next t ∧
       t.get HSM_CNT_IGNWR = min (s.get HSM_CNT_IGNWR + 1) (HSM_CNT_IGNWR.size - 1) ∧
       s.OnlyRegs t [HSM_CNT.addr]) ∧
  (∀ (s : State) (c : Fin 4) (th : Fin 3) (mask : BitVec 4),
     s.get (SCC_MODE_MODE c.val) = 1 ∨ s.get (SCC_MODE_MODE c.val) = 2 →
     ∃ t, exec (.hsmRelease (.sc c th) mask) s = .next t ∧
       (∀ g : Fin 4, t.bit HSM_STATUS_EN g.val = (s.bit HSM_STATUS_EN g.val && !(mask.getLsbD g.val && !(decide (g.val < 2) && s.is (ascFld g.val))))) ∧
       (∀ g : Fin 4, (mask.getLsbD g.val && s.bit HSM_STATUS_EN g.val && !(decide (g.val < 2) && s.is (ascFld g.val))) = true → t.bit HSM_STATUS_FOFF g.val = true) ∧
       t.get HSM_STATUS_STATE = s.get HSM_STATUS_STATE) ∧
  (∀ (s : State) (ini : Initiator) (mask : BitVec 4),
     ∀ c : Fin 4, ∀ th : Fin 3, ini = .sc c th → s.get (SCC_MODE_MODE c.val) ≠ 1 ∧ s.get (SCC_MODE_MODE c.val) ≠ 2 →
     ∃ t, exec (.hsmRelease ini mask) s = .next t ∧
       t.get HSM_CNT_IGNWR = min (s.get HSM_CNT_IGNWR + 1) (HSM_CNT_IGNWR.size - 1) ∧
       s.OnlyRegs t [HSM_CNT.addr]) ∧
  (∀ (s : State) (c : Fin 4) (th : Fin 3),
     s.get (SCC_MODE_MODE c.val) = 1 ∨ s.get (SCC_MODE_MODE c.val) = 2 →
     s.get HSM_STATUS_STATE = 3 →
     ∃ t, exec (.hsmSs1 (.sc c th)) s = .next t ∧
       t.get HSM_STATUS_STATE = 4 ∧
       t.bit HSM_CAUSE_SRC 4 = true ∧
       t.badger.ss1At = s.badger.tick) ∧
  (∀ (s : State) (c : Fin 4) (th : Fin 3),
     s.get (SCC_MODE_MODE c.val) = 1 ∨ s.get (SCC_MODE_MODE c.val) = 2 →
     s.get HSM_STATUS_STATE ≠ 3 →
     ∃ t, exec (.hsmSs1 (.sc c th)) s = .next t ∧
       t.get HSM_STATUS_STATE = s.get HSM_STATUS_STATE ∧
       t.bit HSM_CAUSE_SRC 4 = true) ∧
  (∀ (s : State) (ini : Initiator),
     ∀ c : Fin 4, ∀ th : Fin 3, ini = .sc c th → s.get (SCC_MODE_MODE c.val) ≠ 1 ∧ s.get (SCC_MODE_MODE c.val) ≠ 2 →
     ∃ t, exec (.hsmSs1 ini) s = .next t ∧
       t.get HSM_CNT_IGNWR = min (s.get HSM_CNT_IGNWR + 1) (HSM_CNT_IGNWR.size - 1) ∧
       s.OnlyRegs t [HSM_CNT.addr]) ∧
  (∀ (s : State) (c : Fin 4) (th : Fin 3),
     s.get (SCC_MODE_MODE c.val) = 1 ∨ s.get (SCC_MODE_MODE c.val) = 2 →
     s.get HSM_STATUS_STATE ≠ 5 →
     s.get HSM_STATUS_STATE ≠ 6 →
     ∃ t, exec (.hsmSto (.sc c th)) s = .next t ∧
       t.get HSM_STATUS_STATE = 5 ∧
       t.bit HSM_CAUSE_SRC 5 = true ∧
       (∀ m : Fin 2, (s.ascSpeed m.val && s.ascMay m.val && s.isOn 6 && s.isOn 8 && !s.is (ascFld m.val)) = true → t.is (ascFld m.val) = true ∧ t.bit HSM_STATUS_EN m.val = true ∧ t.bit HSM_STATUS_FOFF m.val = false) ∧
       (∀ m : Fin 2, t.is (ascFld m.val) = false → t.bit HSM_STATUS_FOFF m.val = true ∧ t.bit HSM_STATUS_EN m.val = false)) ∧
  (∀ (s : State) (c : Fin 4) (th : Fin 3),
     s.get (SCC_MODE_MODE c.val) = 1 ∨ s.get (SCC_MODE_MODE c.val) = 2 →
     s.get HSM_STATUS_STATE ≠ 5 →
     s.get HSM_STATUS_STATE ≠ 6 →
     ∀ m : Fin 2, s.ascSpeed m.val = false →
     s.is HSM_STATUS_ASC_A = false →
     s.is HSM_STATUS_ASC_B = false →
     ∃ t, exec (.hsmSto (.sc c th)) s = .next t ∧
       t.get HSM_STATUS_STATE = 5 ∧
       (∀ g : Fin 2, t.bit HSM_STATUS_FOFF g.val = true ∧ t.bit HSM_STATUS_EN g.val = false) ∧
       t.is HSM_STATUS_STOPCPL = true) ∧
  (∀ (s : State) (c : Fin 4) (th : Fin 3),
     s.get (SCC_MODE_MODE c.val) = 1 ∨ s.get (SCC_MODE_MODE c.val) = 2 →
     s.get HSM_STATUS_STATE = 5 ∨ s.get HSM_STATUS_STATE = 6 →
     ∃ t, exec (.hsmSto (.sc c th)) s = .next t ∧
       t.get HSM_STATUS_STATE = s.get HSM_STATUS_STATE ∧
       t.bit HSM_CAUSE_SRC 5 = true) ∧
  (∀ (s : State) (ini : Initiator),
     ∀ c : Fin 4, ∀ th : Fin 3, ini = .sc c th → s.get (SCC_MODE_MODE c.val) ≠ 1 ∧ s.get (SCC_MODE_MODE c.val) ≠ 2 →
     ∃ t, exec (.hsmSto ini) s = .next t ∧
       t.get HSM_CNT_IGNWR = min (s.get HSM_CNT_IGNWR + 1) (HSM_CNT_IGNWR.size - 1) ∧
       s.OnlyRegs t [HSM_CNT.addr]) ∧
  (∀ (s : State) (c : Fin 4) (th : Fin 3),
     s.get (SCC_MODE_MODE c.val) = 1 ∨ s.get (SCC_MODE_MODE c.val) = 2 →
     s.badgerDue.restOk = true →
     ∃ t, exec (.hsmRestart (.sc c th)) s = .next t ∧
       t.get HSM_STATUS_STATE = (if s.badgerDue.is HSM_CFG_CFGACK then 3 else 2) ∧
       t.rd HSM_CAUSE = 0 ∧
       t.is HSM_STATUS_STOPCPL = false ∧
       t.is HSM_STATUS_ASCUNAV = false) ∧
  (∀ (s : State) (c : Fin 4) (th : Fin 3),
     s.get (SCC_MODE_MODE c.val) = 1 ∨ s.get (SCC_MODE_MODE c.val) = 2 →
     s.badgerDue.restOk = false →
     ∃ t, exec (.hsmRestart (.sc c th)) s = .next t ∧
       t.get HSM_CNT_REFUSED = min (s.badgerDue.get HSM_CNT_REFUSED + 1) (HSM_CNT_REFUSED.size - 1) ∧
       s.badgerDue.OnlyRegs t [HSM_CNT.addr]) ∧
  (∀ (s : State) (ini : Initiator),
     ∀ c : Fin 4, ∀ th : Fin 3, ini = .sc c th → s.get (SCC_MODE_MODE c.val) ≠ 1 ∧ s.get (SCC_MODE_MODE c.val) ≠ 2 →
     ∃ t, exec (.hsmRestart ini) s = .next t ∧
       t.get HSM_CNT_IGNWR = min (s.get HSM_CNT_IGNWR + 1) (HSM_CNT_IGNWR.size - 1) ∧
       s.OnlyRegs t [HSM_CNT.addr]) ∧
  (∀ (s : State),
     s.isOn 2 = true →
     s.get HSM_STATUS_STATE = 4 →
     s.badger.ss1At + s.stopTmo ≤ s.badger.tick →
     ∃ t, exec (.ss1Timeout) s = .next t ∧
       t.get HSM_STATUS_STATE = 5 ∧
       t.bit HSM_CAUSE_SRC 7 = true) ∧
  (∀ (s : State),
     s.isOn 2 = false ∨ s.get HSM_STATUS_STATE ≠ 4 ∨ s.badger.tick < s.badger.ss1At + s.stopTmo →
     ∃ t, exec (.ss1Timeout) s = .next t ∧
       t = s) ∧
  (∀ (s : State),
     s.isOn 2 = true →
     s.badger.evalAt + 100 ≤ s.badger.tick →
     s.get HSM_STATUS_STATE = 4 →
     s.badger.excess.length = 2 →
     (∃ m : Fin 2, envelope (nth s.badger.fd m.val 0) s.slope (s.badger.tick - s.badger.ss1At) < 16 * s.bspdSpeed m.val ∧ 1 ≤ nth s.badger.excess m.val 0) ∨ s.badger.ss1At + s.stopTmo ≤ s.badger.tick ∨ (s.bspdSpeed 0 = 0 ∧ s.bspdSpeed 1 = 0) →
     ∃ t, exec (.badgerEvaluation) s = .next t ∧
       t.get HSM_STATUS_STATE = 5 ∧
       t.badger.evalAt = s.badger.tick ∧
       ((∃ m : Fin 2, envelope (nth s.badger.fd m.val 0) s.slope (s.badger.tick - s.badger.ss1At) < 16 * s.bspdSpeed m.val ∧ 1 ≤ nth s.badger.excess m.val 0) → t.bit HSM_CAUSE_SRC 6 = true) ∧
       (s.badger.ss1At + s.stopTmo ≤ s.badger.tick → t.bit HSM_CAUSE_SRC 7 = true)) ∧
  (∀ (s : State),
     s.isOn 2 = true →
     s.badger.evalAt + 100 ≤ s.badger.tick →
     s.get HSM_STATUS_STATE = 4 →
     s.badger.excess.length = 2 →
     ¬(∃ m : Fin 2, envelope (nth s.badger.fd m.val 0) s.slope (s.badger.tick - s.badger.ss1At) < 16 * s.bspdSpeed m.val ∧ 1 ≤ nth s.badger.excess m.val 0) →
     ¬(s.badger.ss1At + s.stopTmo ≤ s.badger.tick) →
     ¬(s.bspdSpeed 0 = 0 ∧ s.bspdSpeed 1 = 0) →
     ∃ t, exec (.badgerEvaluation) s = .next t ∧
       t.get HSM_STATUS_STATE = 4 ∧
       t.badger.evalAt = s.badger.tick ∧
       (∀ m : Fin 2, nth t.badger.excess m.val 0 = (if envelope (nth s.badger.fd m.val 0) s.slope (s.badger.tick - s.badger.ss1At) < 16 * s.bspdSpeed m.val then 1 else 0))) ∧
  (∀ (s : State),
     s.isOn 2 = true →
     s.badger.evalAt + 100 ≤ s.badger.tick →
     s.get HSM_STATUS_STATE = 5 ∨ s.get HSM_STATUS_STATE = 6 →
     ∃ t, exec (.badgerEvaluation) s = .next t ∧
       t.get HSM_STATUS_STATE = s.get HSM_STATUS_STATE ∧
       t.badger.evalAt = s.badger.tick ∧
       (∀ m : Fin 2, s.is (ascFld m.val) = true → t.is (ascFld m.val) = !decide (8 * s.bspdSpeed m.val < 7 * s.ascTh ∨ s.isOn 6 = false ∨ s.isOn 8 = false)) ∧
       (∀ m : Fin 2, s.is (ascFld m.val) = true → (8 * s.bspdSpeed m.val < 7 * s.ascTh ∨ s.isOn 6 = false ∨ s.isOn 8 = false) → t.bit HSM_STATUS_EN m.val = false ∧ t.bit HSM_STATUS_FOFF m.val = true)) ∧
  (∀ (s : State),
     s.isOn 2 = true →
     s.badger.evalAt + 100 ≤ s.badger.tick →
     s.get HSM_STATUS_STATE < 4 →
     ∃ t, exec (.badgerEvaluation) s = .next t ∧
       t = { s with badger := { s.badger with evalAt := s.badger.tick } }) ∧
  (∀ (s : State),
     s.isOn 2 = false ∨ s.badger.tick < s.badger.evalAt + 100 →
     ∃ t, exec (.badgerEvaluation) s = .next t ∧
       t = s)

/-- A pad change restarts the channel's count; a SIN level held for 200 samples is accepted, and a low one of an enabled input in
READY demands SS1 or STO as the configuration says; a discrepancy window that closes with differing channels latches DISCF. A
BSPD level held for 3 samples is accepted, a rising one gives the period, silence gives speed 0, and channels that have
differed for 20,000 ticks are source 0x0F. A due question is the next of the sequence and a missing answer counts; after a
question that is due, the right answer in its window lowers ERR, and a wrong, early or repeated one, like one of another core,
raises it, at ERRMAX to source 0x09. Answers to tasks that are off, and what is not due, change nothing (R286 to R290, R300,
R301). -/
def Obligations.BadgerWatchesInputsSpeedsAndTasks : Prop :=
  (∀ (s : State) (ch : Fin 8) (level : Bool),
     bitOf ch.val s.badger.pads ≠ level →
     s.badger.padAt.length = 8 →
     ∃ t, exec (.sinPadChange ch level) s = .next t ∧
       bitOf ch.val t.badger.pads = level ∧
       nth t.badger.padAt ch.val 0 = s.badger.tick ∧
       t = { s with badger := t.badger }) ∧
  (∀ (s : State) (ch : Fin 8) (level : Bool),
     bitOf ch.val s.badger.pads = level →
     ∃ t, exec (.sinPadChange ch level) s = .next t ∧
       t = s) ∧
  (∀ (s : State) (ch : Fin 8),
     s.isOn 2 = true →
     s.bit HSM_SIN_DEM ch.val = bitOf ch.val s.badger.pads →
     nth s.badger.padAt ch.val 0 + 200 ≤ s.badger.tick →
     ∃ t, exec (.sinAccept ch) s = .next t ∧
       t.bit HSM_SIN_DEM ch.val = !bitOf ch.val s.badger.pads) ∧
  (∀ (s : State) (ch : Fin 8),
     s.isOn 2 = true →
     bitOf ch.val s.badger.pads = false →
     s.bit HSM_SIN_DEM ch.val = false →
     nth s.badger.padAt ch.val 0 + 200 ≤ s.badger.tick →
     s.sinEn (ch.val / 2) = true →
     s.get HSM_STATUS_STATE = 3 →
     ∃ t, exec (.sinAccept ch) s = .next t ∧
       t.bit HSM_SIN_DEM ch.val = true ∧
       t.get HSM_STATUS_STATE = (if bitOf 14 s.safeCfg then 5 else 4) ∧
       t.bit HSM_CAUSE_SRC (ch.val / 2) = true) ∧
  (∀ (s : State) (ch : Fin 8),
     s.isOn 2 = false ∨ s.bit HSM_SIN_DEM ch.val ≠ bitOf ch.val s.badger.pads ∨ s.badger.tick < nth s.badger.padAt ch.val 0 + 200 →
     ∃ t, exec (.sinAccept ch) s = .next t ∧
       t = s) ∧
  (∀ (s : State) (i : Fin 4) (u : Nat),
     nth s.badger.disc i.val none = some u →
     s.badger.disc.length = 4 →
     s.isOn 2 = true →
     s.sinEn i.val = true →
     s.bit HSM_SIN_DEM (2 * i.val) ≠ s.bit HSM_SIN_DEM (2 * i.val + 1) →
     u + s.discWin ≤ s.badger.tick →
     ∃ t, exec (.sinDiscrepancy i) s = .next t ∧
       t.bit HSM_SIN_DISCF i.val = true ∧
       nth t.badger.disc i.val none = none ∧
       t.get HSM_STATUS_STATE = s.get HSM_STATUS_STATE) ∧
  (∀ (s : State) (i : Fin 4),
     s.isOn 2 = false ∨ s.sinEn i.val = false ∨ ¬(s.bit HSM_SIN_DEM (2 * i.val) ≠ s.bit HSM_SIN_DEM (2 * i.val + 1)) ∨ ∀ u ∈ nth s.badger.disc i.val none, s.badger.tick < u + s.discWin →
     ∃ t, exec (.sinDiscrepancy i) s = .next t ∧
       t = s) ∧
  (∀ (s : State) (ch : Fin 4) (level : Bool),
     (s.bspdCh ch.val).pad ≠ level →
     s.badger.bspd.length = 4 →
     ∃ t, exec (.bspdPadChange ch level) s = .next t ∧
       (t.bspdCh ch.val) = { (s.bspdCh ch.val) with pad := level, changeAt := s.badger.tick } ∧
       t = { s with badger := t.badger }) ∧
  (∀ (s : State) (ch : Fin 4) (level : Bool),
     (s.bspdCh ch.val).pad = level →
     ∃ t, exec (.bspdPadChange ch level) s = .next t ∧
       t = s) ∧
  (∀ (s : State) (ch : Fin 4),
     s.isOn 2 = true →
     s.badger.bspd.length = 4 →
     (s.bspdCh ch.val).changeAt + 3 ≤ s.badger.tick →
     (s.bspdCh ch.val).accepted = some false →
     (s.bspdCh ch.val).pad = true →
     ∃ t, exec (.bspdEdge ch) s = .next t ∧
       (t.bspdCh ch.val).period = (s.bspdCh ch.val).lastEdge.map (fun l => s.badger.tick - l) ∧
       (t.bspdCh ch.val).lastEdge = some s.badger.tick ∧
       (t.bspdCh ch.val).accepted = some true ∧
       s.OnlyRegs { t with badger := s.badger } [(HSM_SPD (ch.val / 2)).addr]) ∧
  (∀ (s : State) (ch : Fin 4),
     s.isOn 2 = true →
     s.badger.bspd.length = 4 →
     (s.bspdCh ch.val).changeAt + 3 ≤ s.badger.tick →
     (s.bspdCh ch.val).accepted ≠ some (s.bspdCh ch.val).pad →
     (s.bspdCh ch.val).accepted ≠ some false →
     ∃ t, exec (.bspdEdge ch) s = .next t ∧
       (t.bspdCh ch.val) = { (s.bspdCh ch.val) with accepted := some (s.bspdCh ch.val).pad } ∧
       s.OnlyRegs { t with badger := s.badger } [(HSM_SPD (ch.val / 2)).addr]) ∧
  (∀ (s : State) (ch : Fin 4),
     s.isOn 2 = false ∨ s.badger.tick < (s.bspdCh ch.val).changeAt + 3 ∨ (s.bspdCh ch.val).accepted = some (s.bspdCh ch.val).pad →
     ∃ t, exec (.bspdEdge ch) s = .next t ∧
       t = s) ∧
  (∀ (s : State) (ch : Fin 4) (l : Nat),
     (s.bspdCh ch.val).lastEdge = some l →
     s.isOn 2 = true →
     l + 50000 ≤ s.badger.tick →
     ∃ t, exec (.bspdSpeedTimeout ch) s = .next t ∧
       t.get (if ch.val % 2 = 0 then HSM_SPD_SPDA (ch.val / 2) else HSM_SPD_SPDB (ch.val / 2)) = 0 ∧
       s.OnlyRegs t [(HSM_SPD (ch.val / 2)).addr]) ∧
  (∀ (s : State) (ch : Fin 4),
     s.isOn 2 = false ∨ ∀ l ∈ (s.bspdCh ch.val).lastEdge, s.badger.tick < l + 50000 →
     ∃ t, exec (.bspdSpeedTimeout ch) s = .next t ∧
       t = s) ∧
  (∀ (s : State) (m : Fin 2) (u : Nat),
     nth s.badger.plaus m.val none = some u →
     s.isOn 2 = true →
     u + 19999 ≤ s.badger.tick →
     s.bspdDiffer m.val = true →
     ∃ t, exec (.bspdPlausibility m) s = .next t ∧
       t.get HSM_STATUS_STATE = (if s.get HSM_STATUS_STATE = 6 then 6 else 5) ∧
       t.bit HSM_CAUSE_SRC 14 = true) ∧
  (∀ (s : State) (m : Fin 2),
     s.isOn 2 = false ∨ s.bspdDiffer m.val = false ∨ ∀ u ∈ nth s.badger.plaus m.val none, s.badger.tick < u + 19999 →
     ∃ t, exec (.bspdPlausibility m) s = .next t ∧
       t = s) ∧
  (∀ (s : State) (n : Fin 8),
     s.wdLive n.val = true →
     (s.wdOf n.val).qAt + s.wdPeriod n.val ≤ s.badger.tick →
     s.badger.wd.length = 8 →
     (s.wdOf n.val).answered = true →
     ∃ t, exec (.wdQuestion n) s = .next t ∧
       t.get (HSM_WDQ_Q n.val) = nextQ (s.get (HSM_WDQ_Q n.val)) % 256 ∧
       t.wdOf n.val = { (s.wdOf n.val) with qAt := s.badger.tick, answered := false } ∧
       t.get (HSM_WDQ_ERR n.val) = s.get (HSM_WDQ_ERR n.val) ∧
       s.OnlyRegs { t with badger := s.badger } [(HSM_WDQ n.val).addr]) ∧
  (∀ (s : State) (n : Fin 8),
     s.wdLive n.val = true →
     (s.wdOf n.val).qAt + s.wdPeriod n.val ≤ s.badger.tick →
     (s.wdOf n.val).answered = false →
     ∃ t, exec (.wdQuestion n) s = .next t ∧
       t.get (HSM_WDQ_Q n.val) = nextQ (s.get (HSM_WDQ_Q n.val)) % 256 ∧
       t.get (HSM_WDQ_ERR n.val) = min (s.get (HSM_WDQ_ERR n.val) + 1) ((HSM_WDQ_ERR n.val).size - 1) ∧
       (t.get (HSM_WDQ_ERR n.val) = max 1 (s.get (HSM_WDCFG_ERRMAX n.val)) → t.bit HSM_CAUSE_SRC 8 = true)) ∧
  (∀ (s : State) (n : Fin 8),
     s.wdLive n.val = false ∨ s.badger.tick < (s.wdOf n.val).qAt + s.wdPeriod n.val →
     ∃ t, exec (.wdQuestion n) s = .next t ∧
       t = s) ∧
  (∀ (s : State) (c : Fin 4) (th : Fin 3) (n : Fin 8) (val : Word),
     s.get (SCC_MODE_MODE c.val) = 1 ∨ s.get (SCC_MODE_MODE c.val) = 2 →
     s.is (HSM_WDCFG_EN n.val) = true →
     s.is HSM_CFG_CFGACK = true →
     s.get (HSM_WDCFG_CORE n.val) = c.val →
     s.badger.wd.length = 8 →
     ((s.wdQuestion n.val).wdOf n.val).answered = false ∧ s.wdOpen n.val ≤ s.badger.tick - ((s.wdQuestion n.val).wdOf n.val).qAt ∧ bitsOf 7 0 val.toNat = crc8 [n.val, (s.wdQuestion n.val).get (HSM_WDQ_Q n.val)] ∧ tbOk ((s.wdQuestion n.val).wdOf n.val).last (bitsOf 31 8 val.toNat) s.badger.tick = true →
     ∃ t, exec (.wdAnswer (.sc c th) n val) s = .next t ∧
       t.get (HSM_WDQ_ERR n.val) = (s.wdQuestion n.val).get (HSM_WDQ_ERR n.val) - 1 ∧
       t.wdOf n.val = ⟨((s.wdQuestion n.val).wdOf n.val).qAt, true, some (bitsOf 31 8 val.toNat, s.badger.tick)⟩) ∧
  (∀ (s : State) (c : Fin 4) (th : Fin 3) (n : Fin 8) (val : Word),
     s.get (SCC_MODE_MODE c.val) = 1 ∨ s.get (SCC_MODE_MODE c.val) = 2 →
     s.is (HSM_WDCFG_EN n.val) = true →
     s.is HSM_CFG_CFGACK = true →
     s.get (HSM_WDCFG_CORE n.val) = c.val →
     ¬(((s.wdQuestion n.val).wdOf n.val).answered = false ∧ s.wdOpen n.val ≤ s.badger.tick - ((s.wdQuestion n.val).wdOf n.val).qAt ∧ bitsOf 7 0 val.toNat = crc8 [n.val, (s.wdQuestion n.val).get (HSM_WDQ_Q n.val)] ∧ tbOk ((s.wdQuestion n.val).wdOf n.val).last (bitsOf 31 8 val.toNat) s.badger.tick = true) →
     ∃ t, exec (.wdAnswer (.sc c th) n val) s = .next t ∧
       t.get (HSM_WDQ_ERR n.val) = min ((s.wdQuestion n.val).get (HSM_WDQ_ERR n.val) + 1) ((HSM_WDQ_ERR n.val).size - 1) ∧
       (t.get (HSM_WDQ_ERR n.val) = max 1 (s.get (HSM_WDCFG_ERRMAX n.val)) → t.bit HSM_CAUSE_SRC 8 = true)) ∧
  (∀ (s : State) (c : Fin 4) (th : Fin 3) (n : Fin 8) (val : Word),
     s.get (SCC_MODE_MODE c.val) = 1 ∨ s.get (SCC_MODE_MODE c.val) = 2 →
     s.is (HSM_WDCFG_EN n.val) = true →
     s.is HSM_CFG_CFGACK = true →
     s.get (HSM_WDCFG_CORE n.val) ≠ c.val →
     ∃ t, exec (.wdAnswer (.sc c th) n val) s = .next t ∧
       t.get (HSM_WDQ_ERR n.val) = min (s.get (HSM_WDQ_ERR n.val) + 1) ((HSM_WDQ_ERR n.val).size - 1) ∧
       (t.get (HSM_WDQ_ERR n.val) = max 1 (s.get (HSM_WDCFG_ERRMAX n.val)) → t.bit HSM_CAUSE_SRC 8 = true)) ∧
  (∀ (s : State) (c : Fin 4) (th : Fin 3) (n : Fin 8) (val : Word),
     s.get (SCC_MODE_MODE c.val) = 1 ∨ s.get (SCC_MODE_MODE c.val) = 2 →
     s.is (HSM_WDCFG_EN n.val) = false ∨ s.is HSM_CFG_CFGACK = false →
     ∃ t, exec (.wdAnswer (.sc c th) n val) s = .next t ∧
       t = s) ∧
  (∀ (s : State) (ini : Initiator) (n : Fin 8) (val : Word),
     ∀ c : Fin 4, ∀ th : Fin 3, ini = .sc c th → s.get (SCC_MODE_MODE c.val) ≠ 1 ∧ s.get (SCC_MODE_MODE c.val) ≠ 2 →
     ∃ t, exec (.wdAnswer ini n val) s = .next t ∧
       t.get HSM_CNT_IGNWR = min (s.get HSM_CNT_IGNWR + 1) (HSM_CNT_IGNWR.size - 1) ∧
       s.OnlyRegs t [HSM_CNT.addr])

/-- A point at which all running copies agree changes neither their order nor STATE; a write that they present alike is stored
once outside the region and in every image, in its transform, inside it. With two of three alike the third is the odd copy:
STATE 2, ODD, its count and PC are recorded, it leaves the order, and the majority's word is stored; the third such event of a
copy within a second sets its PERM bit and leaves STATE. With no majority the core stops with STATE 3 and no image or memory
is written. The end of resynchronisation puts the copy last in the order with STATE 1. A core that does not run, or has no odd
copy, stays as it is (R315, R320 to R324). An AMO of agreeing copies in SRAM outside the region stores the combination of the
old value and the operand, of its length, and returns the old value; LR returns the value and reserves its block; SC stores
and returns 0 exactly where the block is reserved and still held, else stores nothing and returns 1, and ends the reservation
either way. An access that the unit denies or the bus refuses is a precise fault; an odd copy and a core without a majority
are taken as at any other comparison, and a core that does not run is left as it is (R315, R318, R321, R322, R324, R337). -/
def Obligations.CopiesAreComparedBeforeAWriteLeaves : Prop :=
  (∀ (s : State) (c : Fin 4) (p : CmpPoint),
     s.scRuns c.val = true →
     (s.scOf c.val).order ≠ [] →
     ∀ o ∈ (s.scOf c.val).order, cmpAgree p ((s.scOf c.val).order.headD 0) o = true →
     p.write = none →
     ∃ t, exec (.scComparison c p) s = .next t ∧
       (t.scOf c.val).order = (s.scOf c.val).order ∧
       t.get (SCC_STAT_STATE c.val) = s.get (SCC_STAT_STATE c.val) ∧
       t.mem = s.mem ∧
       t.get (SCC_LAG_MAXLAG c.val) = max (s.get (SCC_LAG_MAXLAG c.val)) (min 0xFFFF (max p.lag (s.get (SCC_MODE_SLIP c.val) * ((s.scOf c.val).order.length - 1))))) ∧
  (∀ (s : State) (c : Fin 4) (p : CmpPoint),
     s.scRuns c.val = false ∨ (s.scOf c.val).order = [] →
     ∃ t, exec (.scComparison c p) s = .next t ∧
       t = s) ∧
  (∀ (s : State) (c : Fin 4) (p : CmpPoint) (a v : Word) (att : Nat),
     s.scRuns c.val = true →
     (s.scOf c.val).order ≠ [] →
     ∀ o ∈ (s.scOf c.val).order, cmpAgree p ((s.scOf c.val).order.headD 0) o = true →
     cmpPresent p ((s.scOf c.val).order.headD 0) = some ⟨a, leBytes 4 v.toNat, att⟩ →
     s.inRegion c.val a.toNat = false →
     0x20000000 ≤ a.toNat →
     a.toNat + 4 ≤ 0x21F80000 →
     s.answers (s.scIni c 0) a.toNat = true →
     s.busOk (s.scIni c 0) a.toNat true 4 = true →
     ∃ t, exec (.scComparison c p) s = .next t ∧
       t.rdMem32 a.toNat = v ∧
       (t.scOf c.val).order = (s.scOf c.val).order ∧
       t.get (SCC_STAT_STATE c.val) = s.get (SCC_STAT_STATE c.val)) ∧
  (∀ (s : State) (c : Fin 4) (p : CmpPoint) (a v : Word) (att : Nat),
     s.scRuns c.val = true →
     (s.scOf c.val).order = [0, 1] →
     (s.scOf c.val).odd = none →
     cmpAgree p 0 1 = true →
     cmpPresent p 0 = some ⟨a, leBytes 4 v.toNat, att⟩ →
     s.inRegion c.val a.toNat = true →
     ∀ i j : Fin 4, s.imgAddr c.val 0 (a.toNat + i.val) ≠ s.imgAddr c.val 1 (a.toNat + j.val) →
     ∀ i j : Fin 4, i ≠ j → s.imgAddr c.val 1 (a.toNat + i.val) ≠ s.imgAddr c.val 1 (a.toNat + j.val) →
     ∃ t, exec (.scComparison c p) s = .next t ∧
       t.imgLoad c.val 0 a.toNat 4 = leBytes 4 v.toNat ∧
       t.imgLoad c.val 1 a.toNat 4 = leBytes 4 v.toNat ∧
       (t.scOf c.val).order = (s.scOf c.val).order ∧
       t.get (SCC_STAT_STATE c.val) = s.get (SCC_STAT_STATE c.val)) ∧
  (∀ (s : State) (c : Fin 4) (p : CmpPoint) (x : Nat),
     s.scc.length = 4 →
     s.scRuns c.val = true →
     ∃ o ∈ (s.scOf c.val).order, cmpAgree p ((s.scOf c.val).order.headD 0) o = false →
     ((s.scOf c.val).order.find? (fun o => match (s.scOf c.val).order.filter (fun y => y != o) with | [y, z] => cmpAgree p y z | _ => false)) = some x →
     x < 3 →
     p.write = none →
     permanent (s.scOf c.val).hist x s.timebase = false →
     ∃ t, exec (.scComparison c p) s = .next t ∧
       t.get (SCC_STAT_STATE c.val) = 2 ∧
       t.get (SCC_STAT_ODD c.val) = x % 4 ∧
       t.get (oddCnt c.val x) = min (s.get (oddCnt c.val x) + 1) 255 ∧
       (t.scOf c.val).order = (s.scOf c.val).order.filter (fun y => y != x) ∧
       (t.scOf c.val).odd = some x ∧
       t.rd (SCC_MMPC c.val) = p.pc ∧
       t.get (SCC_STAT_LEAD c.val) = ((s.scOf c.val).order.filter (fun y => y != x)).headD 0 % 4 ∧
       t.mem = s.mem) ∧
  (∀ (s : State) (c : Fin 4) (p : CmpPoint) (x : Nat),
     s.scc.length = 4 →
     s.scRuns c.val = true →
     ∃ o ∈ (s.scOf c.val).order, cmpAgree p ((s.scOf c.val).order.headD 0) o = false →
     ((s.scOf c.val).order.find? (fun o => match (s.scOf c.val).order.filter (fun y => y != o) with | [y, z] => cmpAgree p y z | _ => false)) = some x →
     x < 3 →
     p.write = none →
     permanent (s.scOf c.val).hist x s.timebase = true →
     ∃ t, exec (.scComparison c p) s = .next t ∧
       t.bit (SCC_STAT_PERM c.val) x = true ∧
       t.get (SCC_STAT_STATE c.val) = s.get (SCC_STAT_STATE c.val) ∧
       (t.scOf c.val).order = (s.scOf c.val).order.filter (fun y => y != x) ∧
       (t.scOf c.val).odd = (s.scOf c.val).odd ∧
       t.mem = s.mem) ∧
  (∀ (s : State) (c : Fin 4) (p : CmpPoint) (a v : Word) (att : Nat) (x : Nat),
     s.scc.length = 4 →
     s.scRuns c.val = true →
     ∃ o ∈ (s.scOf c.val).order, cmpAgree p ((s.scOf c.val).order.headD 0) o = false →
     ((s.scOf c.val).order.find? (fun o => match (s.scOf c.val).order.filter (fun y => y != o) with | [y, z] => cmpAgree p y z | _ => false)) = some x →
     x < 3 →
     cmpPresent p (((s.scOf c.val).order.filter (fun y => y != x)).headD 0) = some ⟨a, leBytes 4 v.toNat, att⟩ →
     s.inRegion c.val a.toNat = false →
     0x20000000 ≤ a.toNat →
     a.toNat + 4 ≤ 0x21F80000 →
     s.isOn 4 = true →
     s.pllA = true →
     ∃ t, exec (.scComparison c p) s = .next t ∧
       t.rdMem32 a.toNat = v ∧
       (t.scOf c.val).order = (s.scOf c.val).order.filter (fun y => y != x)) ∧
  (∀ (s : State) (c : Fin 4) (p : CmpPoint),
     s.scc.length = 4 →
     s.scRuns c.val = true →
     ∃ o ∈ (s.scOf c.val).order, cmpAgree p ((s.scOf c.val).order.headD 0) o = false →
     ((s.scOf c.val).order.find? (fun o => match (s.scOf c.val).order.filter (fun y => y != o) with | [y, z] => cmpAgree p y z | _ => false)) = none →
     ∃ t, exec (.scComparison c p) s = .next t ∧
       t.get (SCC_STAT_STATE c.val) = 3 ∧
       t.get (SCC_STAT_ODD c.val) = 3 ∧
       t.rd (SCC_MMPC c.val) = p.pc ∧
       (t.scOf c.val).order = [] ∧
       (t.scOf c.val).resv = none ∧
       t.mem = s.mem) ∧
  (∀ (s : State) (c : Fin 4) (x : Nat),
     s.scc.length = 4 →
     s.scRuns c.val = true →
     (s.scOf c.val).odd = some x →
     ∃ t, exec (.scResyncEnd c) s = .next t ∧
       t.get (SCC_STAT_STATE c.val) = 1 ∧
       (t.scOf c.val).order = (s.scOf c.val).order ++ [x] ∧
       (t.scOf c.val).odd = none ∧
       s.OnlyRegs { t with scc := s.scc } [(SCC_STAT c.val).addr]) ∧
  (∀ (s : State) (c : Fin 4),
     (s.scOf c.val).odd = none ∨ s.scRuns c.val = false →
     ∃ t, exec (.scResyncEnd c) s = .next t ∧
       t = s) ∧
  (∀ (s : State) (c : Fin 4) (op : AmoOp) (p : CmpPoint) (a : Word) (l : List Byte) (att : Nat) (held : Bool),
     s.sc.length = 12 →
     s.scc.length = 4 →
     s.scRuns c.val = true →
     (s.scOf c.val).order ≠ [] →
     ∀ o ∈ (s.scOf c.val).order, cmpAgree p ((s.scOf c.val).order.headD 0) o = true →
     cmpPresent p ((s.scOf c.val).order.headD 0) = some ⟨a, l, att⟩ →
     s.puAllows (c.val * 3) a.toNat l.length 1 false = true →
     s.answers (s.scIni c 0) a.toNat = true →
     s.busOk (s.scIni c 0) a.toNat false l.length = true →
     0x20000000 ≤ a.toNat →
     a.toNat + l.length ≤ 0x21F80000 →
     s.busOk (s.scIni c 0) a.toNat true l.length = true →
     op ≠ .lr →
     op ≠ .sc →
     ∃ t, exec (.scAmoCompare c op p held) s = .next t ∧
       t.rdBytes a.toNat l.length = leBytes l.length (amoValue op l.length (leNat (s.rdBytes a.toNat l.length)) (leNat l)) ∧
       (t.thr (c.val * 3)).loaded = BitVec.ofNat 32 (leNat (s.rdBytes a.toNat l.length))) ∧
  (∀ (s : State) (c : Fin 4) (p : CmpPoint) (a : Word) (l : List Byte) (att : Nat) (held : Bool),
     s.sc.length = 12 →
     s.scc.length = 4 →
     s.scRuns c.val = true →
     (s.scOf c.val).order ≠ [] →
     ∀ o ∈ (s.scOf c.val).order, cmpAgree p ((s.scOf c.val).order.headD 0) o = true →
     cmpPresent p ((s.scOf c.val).order.headD 0) = some ⟨a, l, att⟩ →
     s.puAllows (c.val * 3) a.toNat l.length 0 false = true →
     s.answers (s.scIni c 0) a.toNat = true →
     s.busOk (s.scIni c 0) a.toNat false l.length = true →
     0x20000000 ≤ a.toNat →
     a.toNat + l.length ≤ 0x21F80000 →
     ∃ t, exec (.scAmoCompare c .lr p held) s = .next t ∧
       (t.thr (c.val * 3)).loaded = BitVec.ofNat 32 (leNat (s.rdBytes a.toNat l.length)) ∧
       (t.scOf c.val).resv = some (a.toNat / 8) ∧
       t.mem = s.mem) ∧
  (∀ (s : State) (c : Fin 4) (p : CmpPoint) (a : Word) (l : List Byte) (att : Nat),
     s.sc.length = 12 →
     s.scc.length = 4 →
     s.scRuns c.val = true →
     (s.scOf c.val).order ≠ [] →
     ∀ o ∈ (s.scOf c.val).order, cmpAgree p ((s.scOf c.val).order.headD 0) o = true →
     cmpPresent p ((s.scOf c.val).order.headD 0) = some ⟨a, l, att⟩ →
     s.puAllows (c.val * 3) a.toNat l.length 1 false = true →
     s.answers (s.scIni c 0) a.toNat = true →
     s.busOk (s.scIni c 0) a.toNat false l.length = true →
     0x20000000 ≤ a.toNat →
     a.toNat + l.length ≤ 0x21F80000 →
     s.busOk (s.scIni c 0) a.toNat true l.length = true →
     (s.scOf c.val).resv = some (a.toNat / 8) →
     ∃ t, exec (.scAmoCompare c .sc p true) s = .next t ∧
       (t.thr (c.val * 3)).loaded = 0 ∧
       t.rdBytes a.toNat l.length = l ∧
       (t.scOf c.val).resv = none) ∧
  (∀ (s : State) (c : Fin 4) (p : CmpPoint) (a : Word) (l : List Byte) (att : Nat) (held : Bool),
     s.sc.length = 12 →
     s.scc.length = 4 →
     s.scRuns c.val = true →
     (s.scOf c.val).order ≠ [] →
     ∀ o ∈ (s.scOf c.val).order, cmpAgree p ((s.scOf c.val).order.headD 0) o = true →
     cmpPresent p ((s.scOf c.val).order.headD 0) = some ⟨a, l, att⟩ →
     s.puAllows (c.val * 3) a.toNat l.length 1 false = true →
     s.answers (s.scIni c 0) a.toNat = true →
     s.busOk (s.scIni c 0) a.toNat false l.length = true →
     s.busOk (s.scIni c 0) a.toNat true l.length = true →
     (s.scOf c.val).resv ≠ some (a.toNat / 8) ∨ held = false →
     ∃ t, exec (.scAmoCompare c .sc p held) s = .next t ∧
       (t.thr (c.val * 3)).loaded = 1 ∧
       t.mem = s.mem ∧
       (t.scOf c.val).resv = none) ∧
  (∀ (s : State) (c : Fin 4) (op : AmoOp) (p : CmpPoint) (a : Word) (l : List Byte) (att : Nat) (held : Bool),
     s.sc.length = 12 →
     s.scc.length = 4 →
     s.scRuns c.val = true →
     (s.scOf c.val).order ≠ [] →
     ∀ o ∈ (s.scOf c.val).order, cmpAgree p ((s.scOf c.val).order.headD 0) o = true →
     cmpPresent p ((s.scOf c.val).order.headD 0) = some ⟨a, l, att⟩ →
     s.puAllows (c.val * 3) a.toNat l.length (if op = AmoOp.lr then 0 else 1) false = false ∨ (s.answers (s.scIni c 0) a.toNat = true ∧ (s.busOk (s.scIni c 0) a.toNat false l.length = false ∨ (op ≠ .lr ∧ s.busOk (s.scIni c 0) a.toNat true l.length = false))) →
     ∃ t, exec (.scAmoCompare c op p held) s = .next t ∧
       t.rd (PU_FSTAT (c.val * 3)) = BitVec.ofNat 32 (2 ^ 31 + 0 * 2 ^ 28 + 2 ^ (if op = AmoOp.lr then 0 else 1) * 2 ^ 24 + (s.puRegion (c.val * 3) a.toNat).getD 15 * 2 ^ 16) ∧
       t.rd (PU_FADDR (c.val * 3)) = a ∧
       (t.thr (c.val * 3)).mepc = p.pc ∧
       (t.thr (c.val * 3)).mcause = (if op = AmoOp.lr then 5 else 7) ∧
       (t.thr (c.val * 3)).mtval = a ∧
       t.mem = s.mem) ∧
  (∀ (s : State) (c : Fin 4) (op : AmoOp) (p : CmpPoint) (a : Word) (l : List Byte) (att : Nat) (held : Bool),
     s.sc.length = 12 →
     s.scc.length = 4 →
     s.scRuns c.val = true →
     (s.scOf c.val).order ≠ [] →
     ∀ o ∈ (s.scOf c.val).order, cmpAgree p ((s.scOf c.val).order.headD 0) o = true →
     cmpPresent p ((s.scOf c.val).order.headD 0) = some ⟨a, l, att⟩ →
     s.puAllows (c.val * 3) a.toNat l.length (if op = AmoOp.lr then 0 else 1) false = true →
     s.answers (s.scIni c 0) a.toNat = false →
     ∃ t, exec (.scAmoCompare c op p held) s = .next t ∧
       t.mem = s.mem ∧
       t.sc = s.sc ∧
       (t.scOf c.val).order = (s.scOf c.val).order ∧
       t.get (SCC_STAT_STATE c.val) = s.get (SCC_STAT_STATE c.val)) ∧
  (∀ (s : State) (c : Fin 4) (op : AmoOp) (p : CmpPoint) (held : Bool),
     s.sc.length = 12 →
     s.scc.length = 4 →
     s.scRuns c.val = true →
     (s.scOf c.val).order ≠ [] →
     ∀ o ∈ (s.scOf c.val).order, cmpAgree p ((s.scOf c.val).order.headD 0) o = true →
     p.write = none →
     ∃ t, exec (.scAmoCompare c op p held) s = .next t ∧
       t.mem = s.mem ∧
       t.sc = s.sc ∧
       (t.scOf c.val).order = (s.scOf c.val).order ∧
       t.get (SCC_STAT_STATE c.val) = s.get (SCC_STAT_STATE c.val)) ∧
  (∀ (s : State) (c : Fin 4) (op : AmoOp) (p : CmpPoint) (held : Bool) (x : Nat),
     s.scc.length = 4 →
     s.scRuns c.val = true →
     ∃ o ∈ (s.scOf c.val).order, cmpAgree p ((s.scOf c.val).order.headD 0) o = false →
     ((s.scOf c.val).order.find? (fun o => match (s.scOf c.val).order.filter (fun y => y != o) with | [y, z] => cmpAgree p y z | _ => false)) = some x →
     x < 3 →
     p.write = none →
     permanent (s.scOf c.val).hist x s.timebase = false →
     ∃ t, exec (.scAmoCompare c op p held) s = .next t ∧
       t.get (SCC_STAT_STATE c.val) = 2 ∧
       t.get (SCC_STAT_ODD c.val) = x % 4 ∧
       t.get (oddCnt c.val x) = min (s.get (oddCnt c.val x) + 1) 255 ∧
       (t.scOf c.val).order = (s.scOf c.val).order.filter (fun y => y != x) ∧
       (t.scOf c.val).odd = some x ∧
       t.rd (SCC_MMPC c.val) = p.pc) ∧
  (∀ (s : State) (c : Fin 4) (op : AmoOp) (p : CmpPoint) (held : Bool) (x : Nat),
     s.scc.length = 4 →
     s.scRuns c.val = true →
     ∃ o ∈ (s.scOf c.val).order, cmpAgree p ((s.scOf c.val).order.headD 0) o = false →
     ((s.scOf c.val).order.find? (fun o => match (s.scOf c.val).order.filter (fun y => y != o) with | [y, z] => cmpAgree p y z | _ => false)) = some x →
     x < 3 →
     p.write = none →
     permanent (s.scOf c.val).hist x s.timebase = true →
     ∃ t, exec (.scAmoCompare c op p held) s = .next t ∧
       t.bit (SCC_STAT_PERM c.val) x = true ∧
       t.get (SCC_STAT_STATE c.val) = s.get (SCC_STAT_STATE c.val) ∧
       (t.scOf c.val).order = (s.scOf c.val).order.filter (fun y => y != x) ∧
       (t.scOf c.val).odd = (s.scOf c.val).odd) ∧
  (∀ (s : State) (c : Fin 4) (op : AmoOp) (p : CmpPoint) (held : Bool),
     s.scc.length = 4 →
     s.scRuns c.val = true →
     ∃ o ∈ (s.scOf c.val).order, cmpAgree p ((s.scOf c.val).order.headD 0) o = false →
     ((s.scOf c.val).order.find? (fun o => match (s.scOf c.val).order.filter (fun y => y != o) with | [y, z] => cmpAgree p y z | _ => false)) = none →
     ∃ t, exec (.scAmoCompare c op p held) s = .next t ∧
       t.get (SCC_STAT_STATE c.val) = 3 ∧
       t.get (SCC_STAT_ODD c.val) = 3 ∧
       t.rd (SCC_MMPC c.val) = p.pc ∧
       (t.scOf c.val).order = [] ∧
       (t.scOf c.val).resv = none ∧
       t.mem = s.mem) ∧
  (∀ (s : State) (c : Fin 4) (op : AmoOp) (p : CmpPoint) (held : Bool),
     s.scRuns c.val = false ∨ (s.scOf c.val).order = [] →
     ∃ t, exec (.scAmoCompare c op p held) s = .next t ∧
       t = s)

/-- A permitted load gives the thread the bytes of its image in the region and those of the address outside, a permitted posted
store of a Split core's thread stores its bytes in SRAM, and a permitted fetch changes nothing. An access that the unit
denies, one that the bus refuses or whose transfer fails, and a fetch in MRAM outside the banks are recorded in FSTAT and
FADDR and trap with cause 5, 7 or 1; a posted store that the bus refuses, or whose transfer fails, is kept until its error
returns, which is an imprecise store fault at the next boundary. Stores of a redundant core wait for their comparison, and
what no clock answers waits (R318, R328, R337, R338). -/
def Obligations.SafetyCoreAccessesPassTheirProtection : Prop :=
  (∀ (s : State) (c : Fin 4) (th : Fin 3) (a : Word) (n : Fin 9) (user : Bool) (fab : FabRes) (pc : Word),
     s.thrRuns c th = true →
     s.sc.length = 12 →
     s.puAllows (c.val * 3 + th.val) a.toNat n.val 0 user = true →
     s.inRegion c.val a.toNat = false →
     s.answers (s.scIni c th) a.toNat = true →
     s.busOk (s.scIni c th) a.toNat false n.val = true →
     ((s.blockLoad (s.scIni c th) a.toNat n.val).2.fabEnd a.toNat fab).1 = none →
     ∃ t, exec (.scMemoryAccess c th (.load a n) user fab pc) s = .next t ∧
       (t.thr (c.val * 3 + th.val)).loaded = BitVec.ofNat 32 (leNat (s.blockLoad (s.scIni c th) a.toNat n.val).1) ∧
       (t.thr (c.val * 3 + th.val)).mepc = (s.thr (c.val * 3 + th.val)).mepc) ∧
  (∀ (s : State) (c : Fin 4) (th : Fin 3) (a : Word) (n : Fin 9) (user : Bool) (fab : FabRes) (pc : Word),
     s.thrRuns c th = true →
     s.sc.length = 12 →
     s.puAllows (c.val * 3 + th.val) a.toNat n.val 0 user = true →
     s.inRegion c.val a.toNat = false →
     s.answers (s.scIni c th) a.toNat = true →
     s.busOk (s.scIni c th) a.toNat false n.val = true →
     0x20000000 ≤ a.toNat →
     a.toNat + n.val ≤ 0x21F80000 →
     fab = .ok 0 0 →
     ∃ t, exec (.scMemoryAccess c th (.load a n) user fab pc) s = .next t ∧
       (t.thr (c.val * 3 + th.val)).loaded = BitVec.ofNat 32 (leNat (s.rdBytes a.toNat n.val)) ∧
       t.mem = s.mem) ∧
  (∀ (s : State) (c : Fin 4) (th : Fin 3) (a : Word) (n : Fin 9) (user : Bool) (fab : FabRes) (pc : Word),
     s.thrRuns c th = true →
     s.sc.length = 12 →
     s.puAllows (c.val * 3 + th.val) a.toNat n.val 0 user = true →
     s.inRegion c.val a.toNat = true →
     ∃ t, exec (.scMemoryAccess c th (.load a n) user fab pc) s = .next t ∧
       (t.thr (c.val * 3 + th.val)).loaded = BitVec.ofNat 32 (leNat (s.imgLoad c.val ((s.scOf c.val).order.headD 0) a.toNat n.val)) ∧
       t.mem = s.mem) ∧
  (∀ (s : State) (c : Fin 4) (th : Fin 3) (a : Word) (n : Fin 9) (user : Bool) (fab : FabRes) (pc : Word) (ty : Nat),
     s.thrRuns c th = true →
     s.sc.length = 12 →
     s.puAllows (c.val * 3 + th.val) a.toNat n.val 0 user = true →
     s.inRegion c.val a.toNat = false →
     s.answers (s.scIni c th) a.toNat = true →
     (s.busOk (s.scIni c th) a.toNat false n.val = false ∧ ty = 0x21) ∨ (s.busOk (s.scIni c th) a.toNat false n.val = true ∧ isMemory a.toNat = true ∧ (s.fabEnd a.toNat fab).1 = some ty) →
     ∃ t, exec (.scMemoryAccess c th (.load a n) user fab pc) s = .next t ∧
       t.rd (PU_FSTAT (c.val * 3 + th.val)) = BitVec.ofNat 32 (2 ^ 31 + 0 * 2 ^ 28 + 2 ^ 0 * 2 ^ 24 + (s.puRegion (c.val * 3 + th.val) a.toNat).getD 15 * 2 ^ 16) ∧
       t.rd (PU_FADDR (c.val * 3 + th.val)) = a ∧
       (t.thr (c.val * 3 + th.val)).mepc = pc ∧
       (t.thr (c.val * 3 + th.val)).mcause = 5 ∧
       (t.thr (c.val * 3 + th.val)).mtval = a ∧
       t.mem = s.mem) ∧
  (∀ (s : State) (c : Fin 4) (th : Fin 3) (a : Word) (n : Fin 9) (user : Bool) (fab : FabRes) (pc : Word),
     s.thrRuns c th = true →
     s.sc.length = 12 →
     s.puAllows (c.val * 3 + th.val) a.toNat n.val 0 user = false →
     ∃ t, exec (.scMemoryAccess c th (.load a n) user fab pc) s = .next t ∧
       t.rd (PU_FSTAT (c.val * 3 + th.val)) = BitVec.ofNat 32 (2 ^ 31 + 0 * 2 ^ 28 + 2 ^ 0 * 2 ^ 24 + (s.puRegion (c.val * 3 + th.val) a.toNat).getD 15 * 2 ^ 16) ∧
       t.rd (PU_FADDR (c.val * 3 + th.val)) = a ∧
       (t.thr (c.val * 3 + th.val)).mepc = pc ∧
       (t.thr (c.val * 3 + th.val)).mcause = 5 ∧
       (t.thr (c.val * 3 + th.val)).mtval = a ∧
       t.mem = s.mem) ∧
  (∀ (s : State) (c : Fin 4) (th : Fin 3) (a : Word) (n : Fin 9) (user : Bool) (fab : FabRes) (pc : Word),
     s.thrRuns c th = true →
     s.sc.length = 12 →
     s.puAllows (c.val * 3 + th.val) a.toNat n.val 0 user = true →
     s.inRegion c.val a.toNat = false →
     s.answers (s.scIni c th) a.toNat = false →
     ∃ t, exec (.scMemoryAccess c th (.load a n) user fab pc) s = .next t ∧
       t = s) ∧
  (∀ (s : State) (c : Fin 4) (th : Fin 3) (a : Word) (l : List Byte) (user : Bool) (fab : FabRes) (pc : Word),
     s.thrRuns c th = true →
     s.sc.length = 12 →
     s.scRedundant c.val = false →
     l ≠ [] →
     s.puAllows (c.val * 3 + th.val) a.toNat l.length 1 user = true →
     0x20000000 ≤ a.toNat →
     a.toNat + l.length ≤ 0x21F80000 →
     s.answers (s.scIni c th) a.toNat = true →
     s.busOk (s.scIni c th) a.toNat true l.length = true →
     fab ≠ .resendsOut →
     fab = .uncorrectable → mergesWord a.toNat l.length true = false →
     ∃ t, exec (.scMemoryAccess c th (.store a l) user fab pc) s = .next t ∧
       t.rdBytes a.toNat l.length = l ∧
       t.sc = s.sc ∧
       t.busErr = s.busErr) ∧
  (∀ (s : State) (c : Fin 4) (th : Fin 3) (a : Word) (l : List Byte) (user : Bool) (fab : FabRes) (pc : Word) (ty : Nat),
     s.thrRuns c th = true →
     s.sc.length = 12 →
     s.scRedundant c.val = false →
     l ≠ [] →
     s.puAllows (c.val * 3 + th.val) a.toNat l.length 1 user = true →
     s.answers (s.scIni c th) a.toNat = true →
     s.busOk (s.scIni c th) a.toNat true l.length = true →
     0x20000000 ≤ a.toNat →
     a.toNat < 0x22000000 →
     ((fab = .resendsOut ∧ ty = 0x22) ∨ (fab = .uncorrectable ∧ mergesWord a.toNat l.length true = true ∧ ty = 0x23)) →
     ∃ t, exec (.scMemoryAccess c th (.store a l) user fab pc) s = .next t ∧
       t.busErr = s.busErr ++ [((s.scIni c th), a.toNat, ty)] ∧
       t.mem = s.mem ∧
       t.sc = s.sc) ∧
  (∀ (s : State) (c : Fin 4) (th : Fin 3) (a : Word) (l : List Byte) (user : Bool) (fab : FabRes) (pc : Word),
     s.thrRuns c th = true →
     s.sc.length = 12 →
     s.scRedundant c.val = false →
     l ≠ [] →
     s.puAllows (c.val * 3 + th.val) a.toNat l.length 1 user = true →
     s.answers (s.scIni c th) a.toNat = true →
     s.busOk (s.scIni c th) a.toNat true l.length = false →
     ∃ t, exec (.scMemoryAccess c th (.store a l) user fab pc) s = .next t ∧
       t = s.setBusErr (s.busErr ++ [((s.scIni c th), a.toNat, 0x21)])) ∧
  (∀ (s : State) (c : Fin 4) (th : Fin 3) (a : Word) (l : List Byte) (user : Bool) (fab : FabRes) (pc : Word),
     s.thrRuns c th = true →
     s.sc.length = 12 →
     s.puAllows (c.val * 3 + th.val) a.toNat l.length 1 user = true →
     s.scRedundant c.val = true ∨ l = [] →
     ∃ t, exec (.scMemoryAccess c th (.store a l) user fab pc) s = .next t ∧
       t = s) ∧
  (∀ (s : State) (c : Fin 4) (th : Fin 3) (a : Word) (l : List Byte) (user : Bool) (fab : FabRes) (pc : Word),
     s.thrRuns c th = true →
     s.sc.length = 12 →
     s.puAllows (c.val * 3 + th.val) a.toNat l.length 1 user = false →
     ∃ t, exec (.scMemoryAccess c th (.store a l) user fab pc) s = .next t ∧
       t.rd (PU_FSTAT (c.val * 3 + th.val)) = BitVec.ofNat 32 (2 ^ 31 + 0 * 2 ^ 28 + 2 ^ 1 * 2 ^ 24 + (s.puRegion (c.val * 3 + th.val) a.toNat).getD 15 * 2 ^ 16) ∧
       t.rd (PU_FADDR (c.val * 3 + th.val)) = a ∧
       (t.thr (c.val * 3 + th.val)).mepc = pc ∧
       (t.thr (c.val * 3 + th.val)).mcause = 7 ∧
       (t.thr (c.val * 3 + th.val)).mtval = a ∧
       t.mem = s.mem) ∧
  (∀ (s : State) (c : Fin 4) (th : Fin 3) (a : Word) (l : List Byte) (user : Bool) (fab : FabRes) (pc : Word),
     s.thrRuns c th = true →
     s.sc.length = 12 →
     s.scRedundant c.val = false →
     l ≠ [] →
     s.puAllows (c.val * 3 + th.val) a.toNat l.length 1 user = true →
     s.answers (s.scIni c th) a.toNat = false →
     ∃ t, exec (.scMemoryAccess c th (.store a l) user fab pc) s = .next t ∧
       t.sc = s.sc ∧
       t.mem = s.mem) ∧
  (∀ (s : State) (c : Fin 4) (th : Fin 3) (a : Word) (user : Bool) (fab : FabRes) (pc : Word),
     s.thrRuns c th = true →
     s.sc.length = 12 →
     s.puAllows (c.val * 3 + th.val) a.toNat 4 2 user = true →
     s.answers (s.scIni c th) a.toNat = true →
     s.busOk (s.scIni c th) a.toNat false 4 = true →
     fetchGrant a.toNat = true →
     (s.fabEnd a.toNat fab).1 = none →
     ∃ t, exec (.scMemoryAccess c th (.fetch a) user fab pc) s = .next t ∧
       t.mem = s.mem ∧
       t.sc = s.sc) ∧
  (∀ (s : State) (c : Fin 4) (th : Fin 3) (a : Word) (user : Bool) (fab : FabRes) (pc : Word) (ty : Nat),
     s.thrRuns c th = true →
     s.sc.length = 12 →
     s.puAllows (c.val * 3 + th.val) a.toNat 4 2 user = true →
     s.answers (s.scIni c th) a.toNat = true →
     ((s.busOk (s.scIni c th) a.toNat false && fetchGrant a.toNat) = false ∧ ty = 0x21) ∨ ((s.busOk (s.scIni c th) a.toNat false && fetchGrant a.toNat) = true ∧ (s.fabEnd a.toNat fab).1 = some ty) →
     ∃ t, exec (.scMemoryAccess c th (.fetch a) user fab pc) s = .next t ∧
       t.rd (PU_FSTAT (c.val * 3 + th.val)) = BitVec.ofNat 32 (2 ^ 31 + 0 * 2 ^ 28 + 2 ^ 2 * 2 ^ 24 + (s.puRegion (c.val * 3 + th.val) a.toNat).getD 15 * 2 ^ 16) ∧
       t.rd (PU_FADDR (c.val * 3 + th.val)) = a ∧
       (t.thr (c.val * 3 + th.val)).mepc = pc ∧
       (t.thr (c.val * 3 + th.val)).mcause = 1 ∧
       (t.thr (c.val * 3 + th.val)).mtval = a ∧
       t.mem = s.mem) ∧
  (∀ (s : State) (c : Fin 4) (th : Fin 3) (a : Word) (user : Bool) (fab : FabRes) (pc : Word),
     s.thrRuns c th = true →
     s.sc.length = 12 →
     s.puAllows (c.val * 3 + th.val) a.toNat 4 2 user = false →
     ∃ t, exec (.scMemoryAccess c th (.fetch a) user fab pc) s = .next t ∧
       t.rd (PU_FSTAT (c.val * 3 + th.val)) = BitVec.ofNat 32 (2 ^ 31 + 0 * 2 ^ 28 + 2 ^ 2 * 2 ^ 24 + (s.puRegion (c.val * 3 + th.val) a.toNat).getD 15 * 2 ^ 16) ∧
       t.rd (PU_FADDR (c.val * 3 + th.val)) = a ∧
       (t.thr (c.val * 3 + th.val)).mepc = pc ∧
       (t.thr (c.val * 3 + th.val)).mcause = 1 ∧
       (t.thr (c.val * 3 + th.val)).mtval = a ∧
       t.mem = s.mem) ∧
  (∀ (s : State) (c : Fin 4) (th : Fin 3) (a : Word) (user : Bool) (fab : FabRes) (pc : Word),
     s.thrRuns c th = true →
     s.sc.length = 12 →
     s.puAllows (c.val * 3 + th.val) a.toNat 4 2 user = true →
     s.answers (s.scIni c th) a.toNat = false →
     ∃ t, exec (.scMemoryAccess c th (.fetch a) user fab pc) s = .next t ∧
       t = s) ∧
  (∀ (s : State) (c : Fin 4) (th : Fin 3) (acc : ScAcc) (user : Bool) (fab : FabRes) (pc : Word),
     s.thrRuns c th = false →
     ∃ t, exec (.scMemoryAccess c th acc user fab pc) s = .next t ∧
       t = s) ∧
  (∀ (s : State) (c : Fin 4) (th : Fin 3) (a : Word) (ty : Nat) (rest : List (Initiator × Nat × Nat)) (pc : Word),
     s.thrRuns c th = true →
     s.sc.length = 12 →
     s.busErr = (.sc c th, a.toNat, ty) :: rest →
     ∃ t, exec (.postedStoreError c th pc) s = .next t ∧
       t.rd (PU_FSTAT (c.val * 3 + th.val)) = BitVec.ofNat 32 (2 ^ 31 + 4 * 2 ^ 28 + 2 ^ 1 * 2 ^ 24 + (s.puRegion (c.val * 3 + th.val) a.toNat).getD 15 * 2 ^ 16) ∧
       t.rd (PU_FADDR (c.val * 3 + th.val)) = a ∧
       (t.thr (c.val * 3 + th.val)).mepc = pc ∧
       (t.thr (c.val * 3 + th.val)).mcause = 7 ∧
       (t.thr (c.val * 3 + th.val)).mtval = a ∧
       t.mem = s.mem ∧
       t.busErr = rest) ∧
  (∀ (s : State) (c : Fin 4) (th : Fin 3) (pc : Word),
     s.thrRuns c th = false ∨ ∀ x ∈ s.busErr, ∀ y : Fin 3, x.1 = .sc c y → s.scRedundant c.val = false ∧ y ≠ th →
     ∃ t, exec (.postedStoreError c th pc) s = .next t ∧
       t = s)

/-- Without HWSAVE the interrupt is taken and mepc is the interrupted PC; with HWSAVE the PC, the cause and 14 registers are
stored at sp - 64 as well and sp falls by 64. A stack pointer off a 64-byte boundary, a frame that the unit denies or the bus
refuses or whose transfer fails, and a handler that the unit denies refuse the entry: a store access fault with SAVE or VEC,
the interrupt still pending and memory unchanged. A handler whose fetch faults after the acceptance traps at the handler. A
redundant core's acceptance waits for its comparison. Without such an interrupt, or with one of the same tick before it,
nothing is entered (R68, R69, R317, R340). -/
def Obligations.InterruptEntrySavesItsFrame : Prop :=
  (∀ (s : State) (c : Fin 4) (th : Fin 3) (k : Nat) (pc h sp : Word) (saved : List Word) (wr fe : FabRes) (icnt : Nat) (i : Irq),
     s.irqFor (c.val * 3 + th.val) k = some i →
     s.thrRuns c th = true →
     s.sc.length = 12 →
     s.is (PU_CTRL_HWSAVE (c.val * 3 + th.val)) = false →
     s.puAllows (c.val * 3 + th.val) h.toNat 4 2 false = true →
     s.answers (s.scIni c th) h.toNat = true →
     s.busOk (s.scIni c th) h.toNat false = true →
     0x20000000 ≤ h.toNat →
     ∃ t, exec (.scInterruptEntry c th k pc h sp saved wr (.ok 0 0) icnt) s = .next t ∧
       t.irqs = s.irqs.eraseIdx k ∧
       (t.thr (c.val * 3 + th.val)).mepc = pc ∧
       (t.thr (c.val * 3 + th.val)).sp = (s.thr (c.val * 3 + th.val)).sp ∧
       t.mem = s.mem) ∧
  (∀ (s : State) (c : Fin 4) (th : Fin 3) (k : Nat) (pc h sp : Word) (saved : List Word) (wr fe : FabRes) (icnt : Nat) (i : Irq),
     s.irqFor (c.val * 3 + th.val) k = some i →
     s.thrRuns c th = true →
     s.sc.length = 12 →
     s.scc.length = 4 →
     s.scRedundant c.val = true →
     s.is (PU_CTRL_HWSAVE (c.val * 3 + th.val)) = false →
     s.puAllows (c.val * 3 + th.val) h.toNat 4 2 false = true →
     s.answers (s.scIni c th) h.toNat = true →
     s.busOk (s.scIni c th) h.toNat false = true →
     0x20000000 ≤ h.toNat →
     ∃ t, exec (.scInterruptEntry c th k pc h sp saved wr (.ok 0 0) icnt) s = .next t ∧
       (t.scOf c.val).acc = (s.scOf c.val).acc ++ [(i, icnt)]) ∧
  (∀ (s : State) (c : Fin 4) (th : Fin 3) (k : Nat) (pc h sp : Word) (saved : List Word) (wr fe : FabRes) (icnt : Nat) (i : Irq),
     s.irqFor (c.val * 3 + th.val) k = some i →
     s.thrRuns c th = true →
     s.sc.length = 12 →
     s.is (PU_CTRL_HWSAVE (c.val * 3 + th.val)) = false →
     s.puAllows (c.val * 3 + th.val) h.toNat 4 2 false = false →
     ∃ t, exec (.scInterruptEntry c th k pc h sp saved wr fe icnt) s = .next t ∧
       t.irqs = s.irqs.eraseIdx k ∧
       (t.thr (c.val * 3 + th.val)).mcause = 1 ∧
       (t.thr (c.val * 3 + th.val)).mepc = h ∧
       (t.thr (c.val * 3 + th.val)).mtval = h ∧
       t.mem = s.mem) ∧
  (∀ (s : State) (c : Fin 4) (th : Fin 3) (k : Nat) (pc h sp : Word) (saved : List Word) (wr fe : FabRes) (icnt : Nat) (i : Irq),
     s.irqFor (c.val * 3 + th.val) k = some i →
     s.thrRuns c th = true →
     s.sc.length = 12 →
     s.inRegion c.val (sp - 64).toNat = false →
     s.is (PU_CTRL_HWSAVE (c.val * 3 + th.val)) = true →
     s.puAllows (c.val * 3 + th.val) h.toNat 4 2 false = true →
     s.answers (s.scIni c th) h.toNat = true →
     s.busOk (s.scIni c th) h.toNat false = true →
     0x20000000 ≤ h.toNat →
     sp.toNat % 64 = 0 →
     saved.length = 14 →
     s.puAllows (c.val * 3 + th.val) (sp - 64).toNat 64 1 false = true →
     s.answers (s.scIni c th) (sp - 64).toNat = true →
     s.busOk (s.scIni c th) (sp - 64).toNat true = true →
     0x20000000 ≤ (sp - 64).toNat →
     (sp - 64).toNat + 64 ≤ 0x21F80000 →
     ∃ t, exec (.scInterruptEntry c th k pc h sp saved (.ok 0 0) (.ok 0 0) icnt) s = .next t ∧
       t.irqs = s.irqs.eraseIdx k ∧
       (t.thr (c.val * 3 + th.val)).mepc = pc ∧
       (t.thr (c.val * 3 + th.val)).sp = sp - 64 ∧
       t.rdMem32 (sp - 64).toNat = pc ∧
       t.rdMem32 ((sp - 64).toNat + 4) = (t.thr (c.val * 3 + th.val)).mcause ∧
       ∀ n : Fin 14, t.rdMem32 ((sp - 64).toNat + 8 + 4 * n.val) = nth saved n.val 0) ∧
  (∀ (s : State) (c : Fin 4) (th : Fin 3) (k : Nat) (pc h sp : Word) (saved : List Word) (wr fe : FabRes) (icnt : Nat) (i : Irq),
     s.irqFor (c.val * 3 + th.val) k = some i →
     s.thrRuns c th = true →
     s.sc.length = 12 →
     s.is (PU_CTRL_HWSAVE (c.val * 3 + th.val)) = true →
     sp.toNat % 64 ≠ 0 ∨ s.puAllows (c.val * 3 + th.val) (sp - 64).toNat 64 1 false = false →
     ∃ t, exec (.scInterruptEntry c th k pc h sp saved wr fe icnt) s = .next t ∧
       t.irqs = s.irqs ∧
       t.mem = s.mem ∧
       (t.thr (c.val * 3 + th.val)).mcause = 7 ∧
       (t.thr (c.val * 3 + th.val)).mepc = pc ∧
       (t.thr (c.val * 3 + th.val)).mtval = sp - 64 ∧
       t.is (PU_FSTAT_SAVE (c.val * 3 + th.val)) = true) ∧
  (∀ (s : State) (c : Fin 4) (th : Fin 3) (k : Nat) (pc h sp : Word) (saved : List Word) (wr fe : FabRes) (icnt : Nat) (i : Irq),
     s.irqFor (c.val * 3 + th.val) k = some i →
     s.thrRuns c th = true →
     s.sc.length = 12 →
     s.is (PU_CTRL_HWSAVE (c.val * 3 + th.val)) = true →
     sp.toNat % 64 = 0 →
     s.puAllows (c.val * 3 + th.val) (sp - 64).toNat 64 1 false = true →
     s.puAllows (c.val * 3 + th.val) h.toNat 4 2 false = true →
     s.inRegion c.val (sp - 64).toNat = false →
     s.answers (s.scIni c th) (sp - 64).toNat = false ∨ s.busOk (s.scIni c th) (sp - 64).toNat true = false →
     ∃ t, exec (.scInterruptEntry c th k pc h sp saved wr fe icnt) s = .next t ∧
       t.irqs = s.irqs ∧
       t.mem = s.mem ∧
       (t.thr (c.val * 3 + th.val)).mcause = 7 ∧
       (t.thr (c.val * 3 + th.val)).mepc = pc ∧
       (t.thr (c.val * 3 + th.val)).mtval = sp - 64 ∧
       t.is (PU_FSTAT_SAVE (c.val * 3 + th.val)) = true) ∧
  (∀ (s : State) (c : Fin 4) (th : Fin 3) (k : Nat) (pc h sp : Word) (saved : List Word) (wr fe : FabRes) (icnt : Nat) (i : Irq),
     s.irqFor (c.val * 3 + th.val) k = some i →
     s.thrRuns c th = true →
     s.sc.length = 12 →
     s.is (PU_CTRL_HWSAVE (c.val * 3 + th.val)) = true →
     sp.toNat % 64 = 0 →
     s.puAllows (c.val * 3 + th.val) (sp - 64).toNat 64 1 false = true →
     s.puAllows (c.val * 3 + th.val) h.toNat 4 2 false = true →
     ∃ t, exec (.scInterruptEntry c th k pc h sp saved .resendsOut fe icnt) s = .next t ∧
       t.irqs = s.irqs ∧
       t.mem = s.mem ∧
       (t.thr (c.val * 3 + th.val)).mcause = 7 ∧
       (t.thr (c.val * 3 + th.val)).mepc = pc ∧
       (t.thr (c.val * 3 + th.val)).mtval = sp - 64 ∧
       t.is (PU_FSTAT_SAVE (c.val * 3 + th.val)) = true) ∧
  (∀ (s : State) (c : Fin 4) (th : Fin 3) (k : Nat) (pc h sp : Word) (saved : List Word) (wr fe : FabRes) (icnt : Nat) (i : Irq),
     s.irqFor (c.val * 3 + th.val) k = some i →
     s.thrRuns c th = true →
     s.sc.length = 12 →
     s.is (PU_CTRL_HWSAVE (c.val * 3 + th.val)) = true →
     sp.toNat % 64 = 0 →
     s.puAllows (c.val * 3 + th.val) (sp - 64).toNat 64 1 false = true →
     s.puAllows (c.val * 3 + th.val) h.toNat 4 2 false = false →
     ∃ t, exec (.scInterruptEntry c th k pc h sp saved wr fe icnt) s = .next t ∧
       t.irqs = s.irqs ∧
       t.mem = s.mem ∧
       (t.thr (c.val * 3 + th.val)).mcause = 7 ∧
       (t.thr (c.val * 3 + th.val)).mtval = h ∧
       t.is (PU_FSTAT_VEC (c.val * 3 + th.val)) = true) ∧
  (∀ (s : State) (c : Fin 4) (th : Fin 3) (k : Nat) (pc h sp : Word) (saved : List Word) (wr fe : FabRes) (icnt : Nat),
     s.irqFor (c.val * 3 + th.val) k = none ∨ s.thrRuns c th = false →
     ∃ t, exec (.scInterruptEntry c th k pc h sp saved wr fe icnt) s = .next t ∧
       t = s)

/-- The oldest MRAM block write puts its bytes into memory and leaves every other byte. 10 us after the last, a scrubbed block
advances PTR and counts its corrections, and an uncorrectable word is counted with its address. START loads CURSRC, CURDST and
REMAIN and clears DONE and ERR; the channel waits or runs, completes at once where LEN is 0, is aborted where ABORT is set
too, or faults with ERR 8 where the addresses break the alignment or the writer may not use it; RESUME takes a faulted or
aborted channel back, ABORT takes a waiting one to ABORTED and lets a running one end its block; writes of an SC thread to
channels 24 to 31 are ignored and counted. An event request of a channel that already owes a burst is counted as missed, and
another starts the free engine. What is not due, and an event of a channel that does not work, changes nothing (R329, R334,
R342 to R346). A block between two ranges of SRAM copies its bytes, adds them to DONE and takes them from REMAIN; the last one
completes the channel with STATE 4 and DONEF, a waiting abort ends it with STATE 6, a channel of higher priority takes the
engine and leaves STATE 3, and otherwise the burst goes on. A source or a destination that stream translation does not map
faults with ERR 1 or 2, a source that the bus refuses with 3 and a transfer of it that fails with 5 or 7, each with STATE 5,
FADDR, no byte moved and DONE unchanged. With no channel at the engine, or with a side that no clock answers, nothing happens
(R341, R342, R344, R347, R348). -/
def Obligations.MramScrubberAndDmaCommands : Prop :=
  (∀ (s : State) (b : Nat) (l : List Byte) (rest : List (Nat × List Byte)),
     s.mramW = (b, l) :: rest →
     ∃ t, exec (.mramBlockWrite) s = .next t ∧
       t.mramW = rest ∧
       t = { s with mem := t.mem, mramW := rest } ∧
       ∀ i : Fin 64, i.val < l.length → t.rdByte (b + i.val) = nth l i.val 0 ∧
       ∀ a, a < b ∨ b + l.length ≤ a → t.rdByte a = s.rdByte a) ∧
  (∀ (s : State),
     s.mramW = [] →
     ∃ t, exec (.mramBlockWrite) s = .next t ∧
       t = s) ∧
  (∀ (s : State) (n k : Nat) (w : Fin 8),
     s.isOn 4 = true →
     s.pllA = true →
     s.is MEM_SCRUB_EN = true →
     s.clk.scrubAt + 4000 ≤ s.now →
     ∃ t, exec (.sramScrub (.ok n k) w) s = .next t ∧
       t.get MEM_SCRUB_PTR = (s.get MEM_SCRUB_PTR + 1) % 2 ^ 19 ∧
       t.get MEM_SRAMERR_CE_CNT = min (s.get MEM_SRAMERR_CE_CNT + k) 65535 ∧
       t.clk.scrubAt = s.now ∧
       s.OnlyRegs { t with clk := s.clk } [MEM_SCRUB.addr, MEM_SRAMERR.addr]) ∧
  (∀ (s : State) (w : Fin 8),
     s.isOn 4 = true →
     s.pllA = true →
     s.is MEM_SCRUB_EN = true →
     s.clk.scrubAt + 4000 ≤ s.now →
     ∃ t, exec (.sramScrub .resendsOut w) s = .next t ∧
       t.get MEM_SCRUB_PTR = (s.get MEM_SCRUB_PTR + 1) % 2 ^ 19 ∧
       s.OnlyRegs { t with clk := s.clk } [MEM_SCRUB.addr]) ∧
  (∀ (s : State) (w : Fin 8),
     s.isOn 4 = true →
     s.pllA = true →
     s.is MEM_SCRUB_EN = true →
     s.clk.scrubAt + 4000 ≤ s.now →
     ∃ t, exec (.sramScrub .uncorrectable w) s = .next t ∧
       t.get MEM_SCRUB_PTR = (s.get MEM_SCRUB_PTR + 1) % 2 ^ 19 ∧
       t.get MEM_SRAMUEA_ADDR = 0x20000000 + 64 * s.get MEM_SCRUB_PTR + 8 * w.val ∧
       t.get MEM_SRAMERR_UE_CNT = min (s.get MEM_SRAMERR_UE_CNT + 1) 65535 ∧
       t.mem = s.mem) ∧
  (∀ (s : State) (r : FabRes) (w : Fin 8),
     s.isOn 4 = false ∨ s.pllA = false ∨ s.is MEM_SCRUB_EN = false ∨ s.now < s.clk.scrubAt + 4000 →
     ∃ t, exec (.sramScrub r w) s = .next t ∧
       t = s) ∧
  (∀ (s : State) (ini : Initiator) (c : Fin 32) (val : Word),
     s.dma.ch.length = 32 →
     s.Reaches ini (DMA_CTRL c.val).addr →
     24 ≤ c.val →
     isSc ini = true →
     ∃ t, exec (.dmaStart ini c val) s = .next t ∧
       t.get DMAG_STAT_FWIGN = min (s.get DMAG_STAT_FWIGN + 1) (DMAG_STAT_FWIGN.size - 1) ∧
       s.OnlyRegs t [DMAG_STAT.addr]) ∧
  (∀ (s : State) (ini : Initiator) (c : Fin 32) (val : Word),
     s.dma.ch.length = 32 →
     s.Reaches ini (DMA_CTRL c.val).addr →
     val.getLsbD 2 = false →
     s.dmaIllegal c.val = false →
     (c.val < 24 ∨ firmware ini = true) →
     s.get (DMA_LEN_LEN c.val) ≠ 0 →
     ∃ t, exec (.dmaStart ini c val) s = .next t ∧
       t.rd (DMA_CURSRC c.val) = s.rd (DMA_SRC c.val) ∧
       t.rd (DMA_CURDST c.val) = s.rd (DMA_DST c.val) ∧
       t.get (DMA_REMAIN_REMAIN c.val) = s.get (DMA_LEN_LEN c.val) ∧
       t.get (DMA_DONE_DONE c.val) = 0 ∧
       t.mem = s.mem ∧
       t.get (DMA_STAT_ERR c.val) = 0 ∧
       t.get (DMA_STAT_STATE c.val) = 1 ∨ t.get (DMA_STAT_STATE c.val) = 2) ∧
  (∀ (s : State) (ini : Initiator) (c : Fin 32) (val : Word),
     s.dma.ch.length = 32 →
     s.Reaches ini (DMA_CTRL c.val).addr →
     s.dmaIllegal c.val = false →
     (c.val < 24 ∨ firmware ini = true) →
     s.get (DMA_LEN_LEN c.val) = 0 →
     ∃ t, exec (.dmaStart ini c val) s = .next t ∧
       t.rd (DMA_CURSRC c.val) = s.rd (DMA_SRC c.val) ∧
       t.rd (DMA_CURDST c.val) = s.rd (DMA_DST c.val) ∧
       t.get (DMA_REMAIN_REMAIN c.val) = s.get (DMA_LEN_LEN c.val) ∧
       t.get (DMA_DONE_DONE c.val) = 0 ∧
       t.mem = s.mem ∧
       t.get (DMA_STAT_STATE c.val) = 4 ∧
       t.is (DMA_STAT_DONEF c.val) = true) ∧
  (∀ (s : State) (ini : Initiator) (c : Fin 32) (val : Word),
     s.dma.ch.length = 32 →
     s.Reaches ini (DMA_CTRL c.val).addr →
     val.getLsbD 2 = true →
     s.dmaIllegal c.val = false →
     (c.val < 24 ∨ firmware ini = true) →
     s.get (DMA_LEN_LEN c.val) ≠ 0 →
     ∃ t, exec (.dmaStart ini c val) s = .next t ∧
       t.rd (DMA_CURSRC c.val) = s.rd (DMA_SRC c.val) ∧
       t.rd (DMA_CURDST c.val) = s.rd (DMA_DST c.val) ∧
       t.get (DMA_REMAIN_REMAIN c.val) = s.get (DMA_LEN_LEN c.val) ∧
       t.get (DMA_DONE_DONE c.val) = 0 ∧
       t.mem = s.mem ∧
       t.get (DMA_STAT_STATE c.val) = 6) ∧
  (∀ (s : State) (ini : Initiator) (c : Fin 32) (val : Word),
     s.dma.ch.length = 32 →
     s.Reaches ini (DMA_CTRL c.val).addr →
     val.getLsbD 1 = false →
     s.dmaIllegal c.val = true ∨ ¬(c.val < 24 ∨ firmware ini = true) →
     ¬(24 ≤ c.val ∧ isSc ini = true) →
     ∃ t, exec (.dmaStart ini c val) s = .next t ∧
       t.rd (DMA_CURSRC c.val) = s.rd (DMA_SRC c.val) ∧
       t.rd (DMA_CURDST c.val) = s.rd (DMA_DST c.val) ∧
       t.get (DMA_REMAIN_REMAIN c.val) = s.get (DMA_LEN_LEN c.val) ∧
       t.get (DMA_DONE_DONE c.val) = 0 ∧
       t.mem = s.mem ∧
       t.get (DMA_STAT_STATE c.val) = 5 ∧
       t.get (DMA_STAT_ERR c.val) = 8 ∧
       t.is (DMA_STAT_ERRF c.val) = true) ∧
  (∀ (s : State) (ini : Initiator) (c : Fin 32) (val : Word),
     s.dma.ch.length = 32 →
     s.Reaches ini (DMA_CTRL c.val).addr →
     val.getLsbD 1 = true →
     s.dmaIllegal c.val = true ∨ ¬(c.val < 24 ∨ firmware ini = true) →
     ¬(24 ≤ c.val ∧ isSc ini = true) →
     ∃ t, exec (.dmaStart ini c val) s = .next t ∧
       t.rd (DMA_CURSRC c.val) = s.rd (DMA_SRC c.val) ∧
       t.rd (DMA_CURDST c.val) = s.rd (DMA_DST c.val) ∧
       t.get (DMA_REMAIN_REMAIN c.val) = s.get (DMA_LEN_LEN c.val) ∧
       t.get (DMA_DONE_DONE c.val) = 0 ∧
       t.mem = s.mem ∧
       t.get (DMA_STAT_ERR c.val) = 0 ∧
       t.is (DMA_STAT_ERRF c.val) = true) ∧
  (∀ (s : State) (ini : Initiator) (c : Fin 32) (val : Word),
     s.dma.ch.length = 32 →
     s.Reaches ini (DMA_CTRL c.val).addr →
     24 ≤ c.val →
     isSc ini = true →
     ∃ t, exec (.dmaResume ini c val) s = .next t ∧
       t.get DMAG_STAT_FWIGN = min (s.get DMAG_STAT_FWIGN + 1) (DMAG_STAT_FWIGN.size - 1) ∧
       s.OnlyRegs t [DMAG_STAT.addr]) ∧
  (∀ (s : State) (ini : Initiator) (c : Fin 32) (val : Word),
     s.dma.ch.length = 32 →
     s.Reaches ini (DMA_CTRL c.val).addr →
     val.getLsbD 0 = true →
     val.getLsbD 2 = false →
     s.dmaIllegal c.val = false →
     (c.val < 24 ∨ firmware ini = true) →
     s.get (DMA_LEN_LEN c.val) ≠ 0 →
     ∃ t, exec (.dmaResume ini c val) s = .next t ∧
       t.rd (DMA_CURSRC c.val) = s.rd (DMA_SRC c.val) ∧
       t.rd (DMA_CURDST c.val) = s.rd (DMA_DST c.val) ∧
       t.get (DMA_REMAIN_REMAIN c.val) = s.get (DMA_LEN_LEN c.val) ∧
       t.get (DMA_DONE_DONE c.val) = 0 ∧
       t.mem = s.mem ∧
       t.get (DMA_STAT_ERR c.val) = 0 ∧
       t.get (DMA_STAT_STATE c.val) = 1 ∨ t.get (DMA_STAT_STATE c.val) = 2) ∧
  (∀ (s : State) (ini : Initiator) (c : Fin 32) (val : Word),
     s.dma.ch.length = 32 →
     s.Reaches ini (DMA_CTRL c.val).addr →
     val.getLsbD 0 = true →
     s.dmaIllegal c.val = false →
     (c.val < 24 ∨ firmware ini = true) →
     s.get (DMA_LEN_LEN c.val) = 0 →
     ∃ t, exec (.dmaResume ini c val) s = .next t ∧
       t.rd (DMA_CURSRC c.val) = s.rd (DMA_SRC c.val) ∧
       t.rd (DMA_CURDST c.val) = s.rd (DMA_DST c.val) ∧
       t.get (DMA_REMAIN_REMAIN c.val) = s.get (DMA_LEN_LEN c.val) ∧
       t.get (DMA_DONE_DONE c.val) = 0 ∧
       t.mem = s.mem ∧
       t.get (DMA_STAT_STATE c.val) = 4 ∧
       t.is (DMA_STAT_DONEF c.val) = true) ∧
  (∀ (s : State) (ini : Initiator) (c : Fin 32) (val : Word),
     s.dma.ch.length = 32 →
     s.Reaches ini (DMA_CTRL c.val).addr →
     val.getLsbD 0 = true →
     val.getLsbD 2 = true →
     s.dmaIllegal c.val = false →
     (c.val < 24 ∨ firmware ini = true) →
     s.get (DMA_LEN_LEN c.val) ≠ 0 →
     ∃ t, exec (.dmaResume ini c val) s = .next t ∧
       t.rd (DMA_CURSRC c.val) = s.rd (DMA_SRC c.val) ∧
       t.rd (DMA_CURDST c.val) = s.rd (DMA_DST c.val) ∧
       t.get (DMA_REMAIN_REMAIN c.val) = s.get (DMA_LEN_LEN c.val) ∧
       t.get (DMA_DONE_DONE c.val) = 0 ∧
       t.mem = s.mem ∧
       t.get (DMA_STAT_STATE c.val) = 6) ∧
  (∀ (s : State) (ini : Initiator) (c : Fin 32) (val : Word),
     s.dma.ch.length = 32 →
     s.Reaches ini (DMA_CTRL c.val).addr →
     val.getLsbD 0 = true →
     s.dmaIllegal c.val = true ∨ ¬(c.val < 24 ∨ firmware ini = true) →
     ¬(24 ≤ c.val ∧ isSc ini = true) →
     ∃ t, exec (.dmaResume ini c val) s = .next t ∧
       t.rd (DMA_CURSRC c.val) = s.rd (DMA_SRC c.val) ∧
       t.rd (DMA_CURDST c.val) = s.rd (DMA_DST c.val) ∧
       t.get (DMA_REMAIN_REMAIN c.val) = s.get (DMA_LEN_LEN c.val) ∧
       t.get (DMA_DONE_DONE c.val) = 0 ∧
       t.mem = s.mem ∧
       t.get (DMA_STAT_ERR c.val) = 0 ∧
       t.is (DMA_STAT_ERRF c.val) = true) ∧
  (∀ (s : State) (ini : Initiator) (c : Fin 32) (val : Word),
     s.dma.ch.length = 32 →
     s.Reaches ini (DMA_CTRL c.val).addr →
     val.getLsbD 0 = false →
     val.getLsbD 2 = false →
     ¬(24 ≤ c.val ∧ isSc ini = true) →
     (s.dmaState c.val = 5 ∨ s.dmaState c.val = 6) →
     s.get (DMA_REMAIN_REMAIN c.val) ≠ 0 →
     ∃ t, exec (.dmaResume ini c val) s = .next t ∧
       t.get (DMA_STAT_ERR c.val) = 0 ∧
       t.get (DMA_STAT_STATE c.val) = 1 ∨ t.get (DMA_STAT_STATE c.val) = 2 ∧
       t.get (DMA_REMAIN_REMAIN c.val) = s.get (DMA_REMAIN_REMAIN c.val) ∧
       t.mem = s.mem) ∧
  (∀ (s : State) (ini : Initiator) (c : Fin 32) (val : Word),
     s.dma.ch.length = 32 →
     s.Reaches ini (DMA_CTRL c.val).addr →
     val.getLsbD 0 = false →
     ¬(24 ≤ c.val ∧ isSc ini = true) →
     (s.dmaState c.val = 5 ∨ s.dmaState c.val = 6) →
     s.get (DMA_REMAIN_REMAIN c.val) = 0 →
     ∃ t, exec (.dmaResume ini c val) s = .next t ∧
       t.get (DMA_STAT_ERR c.val) = 0 ∧
       t.get (DMA_STAT_STATE c.val) = 4 ∧
       t.mem = s.mem) ∧
  (∀ (s : State) (ini : Initiator) (c : Fin 32) (val : Word),
     s.dma.ch.length = 32 →
     s.Reaches ini (DMA_CTRL c.val).addr →
     val.getLsbD 0 = false →
     val.getLsbD 2 = true →
     ¬(24 ≤ c.val ∧ isSc ini = true) →
     (s.dmaState c.val = 5 ∨ s.dmaState c.val = 6) →
     s.get (DMA_REMAIN_REMAIN c.val) ≠ 0 →
     ∃ t, exec (.dmaResume ini c val) s = .next t ∧
       t.get (DMA_STAT_ERR c.val) = 0 ∧
       t.get (DMA_STAT_STATE c.val) = 6 ∧
       t.mem = s.mem) ∧
  (∀ (s : State) (ini : Initiator) (c : Fin 32) (val : Word),
     s.dma.ch.length = 32 →
     s.Reaches ini (DMA_CTRL c.val).addr →
     val.getLsbD 0 = false →
     val.getLsbD 2 = false →
     ¬(24 ≤ c.val ∧ isSc ini = true) →
     s.dmaState c.val = 0 ∨ s.dmaState c.val = 4 →
     ∃ t, exec (.dmaResume ini c val) s = .next t ∧
       t.get (DMA_STAT_STATE c.val) = s.dmaState c.val ∧
       t.get (DMA_REMAIN_REMAIN c.val) = s.get (DMA_REMAIN_REMAIN c.val) ∧
       t.mem = s.mem) ∧
  (∀ (s : State) (ini : Initiator) (c : Fin 32) (val : Word),
     s.dma.ch.length = 32 →
     s.Reaches ini (DMA_CTRL c.val).addr →
     24 ≤ c.val →
     isSc ini = true →
     ∃ t, exec (.dmaAbort ini c val) s = .next t ∧
       t.get DMAG_STAT_FWIGN = min (s.get DMAG_STAT_FWIGN + 1) (DMAG_STAT_FWIGN.size - 1) ∧
       s.OnlyRegs t [DMAG_STAT.addr]) ∧
  (∀ (s : State) (ini : Initiator) (c : Fin 32) (val : Word),
     s.dma.ch.length = 32 →
     s.Reaches ini (DMA_CTRL c.val).addr →
     val.getLsbD 0 = true →
     s.dmaIllegal c.val = false →
     (c.val < 24 ∨ firmware ini = true) →
     s.get (DMA_LEN_LEN c.val) = 0 →
     ∃ t, exec (.dmaAbort ini c val) s = .next t ∧
       t.rd (DMA_CURSRC c.val) = s.rd (DMA_SRC c.val) ∧
       t.rd (DMA_CURDST c.val) = s.rd (DMA_DST c.val) ∧
       t.get (DMA_REMAIN_REMAIN c.val) = s.get (DMA_LEN_LEN c.val) ∧
       t.get (DMA_DONE_DONE c.val) = 0 ∧
       t.mem = s.mem ∧
       t.get (DMA_STAT_STATE c.val) = 4 ∧
       t.is (DMA_STAT_DONEF c.val) = true) ∧
  (∀ (s : State) (ini : Initiator) (c : Fin 32) (val : Word),
     s.dma.ch.length = 32 →
     s.Reaches ini (DMA_CTRL c.val).addr →
     val.getLsbD 0 = true →
     s.dmaIllegal c.val = false →
     (c.val < 24 ∨ firmware ini = true) →
     s.get (DMA_LEN_LEN c.val) ≠ 0 →
     ∃ t, exec (.dmaAbort ini c val) s = .next t ∧
       t.rd (DMA_CURSRC c.val) = s.rd (DMA_SRC c.val) ∧
       t.rd (DMA_CURDST c.val) = s.rd (DMA_DST c.val) ∧
       t.get (DMA_REMAIN_REMAIN c.val) = s.get (DMA_LEN_LEN c.val) ∧
       t.get (DMA_DONE_DONE c.val) = 0 ∧
       t.mem = s.mem ∧
       t.get (DMA_STAT_STATE c.val) = 6) ∧
  (∀ (s : State) (ini : Initiator) (c : Fin 32) (val : Word),
     s.dma.ch.length = 32 →
     s.Reaches ini (DMA_CTRL c.val).addr →
     val.getLsbD 0 = true →
     val.getLsbD 1 = false →
     s.dmaIllegal c.val = true ∨ ¬(c.val < 24 ∨ firmware ini = true) →
     ¬(24 ≤ c.val ∧ isSc ini = true) →
     ∃ t, exec (.dmaAbort ini c val) s = .next t ∧
       t.rd (DMA_CURSRC c.val) = s.rd (DMA_SRC c.val) ∧
       t.rd (DMA_CURDST c.val) = s.rd (DMA_DST c.val) ∧
       t.get (DMA_REMAIN_REMAIN c.val) = s.get (DMA_LEN_LEN c.val) ∧
       t.get (DMA_DONE_DONE c.val) = 0 ∧
       t.mem = s.mem ∧
       t.get (DMA_STAT_STATE c.val) = 5 ∧
       t.get (DMA_STAT_ERR c.val) = 8 ∧
       t.is (DMA_STAT_ERRF c.val) = true) ∧
  (∀ (s : State) (ini : Initiator) (c : Fin 32) (val : Word),
     s.dma.ch.length = 32 →
     s.Reaches ini (DMA_CTRL c.val).addr →
     val.getLsbD 0 = true →
     val.getLsbD 1 = true →
     s.dmaIllegal c.val = true ∨ ¬(c.val < 24 ∨ firmware ini = true) →
     ¬(24 ≤ c.val ∧ isSc ini = true) →
     ∃ t, exec (.dmaAbort ini c val) s = .next t ∧
       t.rd (DMA_CURSRC c.val) = s.rd (DMA_SRC c.val) ∧
       t.rd (DMA_CURDST c.val) = s.rd (DMA_DST c.val) ∧
       t.get (DMA_REMAIN_REMAIN c.val) = s.get (DMA_LEN_LEN c.val) ∧
       t.get (DMA_DONE_DONE c.val) = 0 ∧
       t.mem = s.mem ∧
       t.get (DMA_STAT_ERR c.val) = 0 ∧
       t.is (DMA_STAT_ERRF c.val) = true) ∧
  (∀ (s : State) (ini : Initiator) (c : Fin 32) (val : Word),
     s.dma.ch.length = 32 →
     s.Reaches ini (DMA_CTRL c.val).addr →
     val.getLsbD 0 = false →
     val.getLsbD 1 = true →
     ¬(24 ≤ c.val ∧ isSc ini = true) →
     (s.dmaState c.val = 5 ∨ s.dmaState c.val = 6) →
     s.get (DMA_REMAIN_REMAIN c.val) = 0 →
     ∃ t, exec (.dmaAbort ini c val) s = .next t ∧
       t.get (DMA_STAT_ERR c.val) = 0 ∧
       t.get (DMA_STAT_STATE c.val) = 4 ∧
       t.mem = s.mem) ∧
  (∀ (s : State) (ini : Initiator) (c : Fin 32) (val : Word),
     s.dma.ch.length = 32 →
     s.Reaches ini (DMA_CTRL c.val).addr →
     val.getLsbD 0 = false →
     val.getLsbD 1 = true →
     ¬(24 ≤ c.val ∧ isSc ini = true) →
     (s.dmaState c.val = 5 ∨ s.dmaState c.val = 6) →
     s.get (DMA_REMAIN_REMAIN c.val) ≠ 0 →
     ∃ t, exec (.dmaAbort ini c val) s = .next t ∧
       t.get (DMA_STAT_ERR c.val) = 0 ∧
       t.get (DMA_STAT_STATE c.val) = 6 ∧
       t.mem = s.mem) ∧
  (∀ (s : State) (ini : Initiator) (c : Fin 32) (val : Word),
     s.dma.ch.length = 32 →
     s.Reaches ini (DMA_CTRL c.val).addr →
     val.getLsbD 0 = false →
     ¬(24 ≤ c.val ∧ isSc ini = true) →
     s.dmaState c.val ≠ 5 →
     s.dmaState c.val ≠ 6 →
     s.dmaState c.val = 1 ∨ s.dmaState c.val = 3 →
     ∃ t, exec (.dmaAbort ini c val) s = .next t ∧
       t.get (DMA_STAT_STATE c.val) = 6 ∧
       t.dmaCh c.val = ⟨0, false, false⟩ ∧
       t.mem = s.mem) ∧
  (∀ (s : State) (ini : Initiator) (c : Fin 32) (val : Word),
     s.dma.ch.length = 32 →
     s.Reaches ini (DMA_CTRL c.val).addr →
     val.getLsbD 0 = false →
     ¬(24 ≤ c.val ∧ isSc ini = true) →
     s.dmaState c.val = 2 →
     s.dma.cur = some c.val →
     ∃ t, exec (.dmaAbort ini c val) s = .next t ∧
       t.get (DMA_STAT_STATE c.val) = 2 ∧
       t.dmaCh c.val = { s.dmaCh c.val with abort := true } ∧
       t.dma.cur = some c.val) ∧
  (∀ (s : State) (ini : Initiator) (c : Fin 32) (val : Word),
     s.dma.ch.length = 32 →
     s.Reaches ini (DMA_CTRL c.val).addr →
     val.getLsbD 0 = false →
     val.getLsbD 1 = false →
     ¬(24 ≤ c.val ∧ isSc ini = true) →
     s.dmaState c.val = 0 ∨ 4 ≤ s.dmaState c.val →
     ∃ t, exec (.dmaAbort ini c val) s = .next t ∧
       t.get (DMA_STAT_STATE c.val) = s.dmaState c.val ∧
       t.mem = s.mem) ∧
  (∀ (s : State) (c : Fin 32),
     s.dma.ch.length = 32 →
     s.isOn 4 = true →
     s.ticking = true →
     s.get (DMA_CFG_REQSEL c.val) = 0x3F →
     (s.dmaState c.val = 1 ∨ s.dmaState c.val = 2 ∨ s.dmaState c.val = 3) →
     (s.dmaCh c.val).owed = true ∨ 0 < (s.dmaCh c.val).left →
     ∃ t, exec (.dmaRequest c) s = .next t ∧
       t.get (DMA_STAT_EVMISS c.val) = min (s.get (DMA_STAT_EVMISS c.val) + 1) 255 ∧
       s.OnlyRegs t [(DMA_STAT c.val).addr]) ∧
  (∀ (s : State) (c : Fin 32),
     s.dma.ch.length = 32 →
     s.isOn 4 = true →
     s.ticking = true →
     s.get (DMA_CFG_REQSEL c.val) = 0x3F →
     s.dmaState c.val = 1 →
     s.dmaCh c.val = ⟨0, false, false⟩ →
     s.dma.cur = none →
     ∀ x ∈ List.range 32, x ≠ c.val → s.dmaWants x = false →
     ∃ t, exec (.dmaRequest c) s = .next t ∧
       t.get (DMA_STAT_STATE c.val) = 2 ∧
       t.dma.cur = some c.val ∧
       t.dmaCh c.val = ⟨s.get (DMA_CFG_BURST c.val) + 1, false, false⟩ ∧
       t.get DMAG_STAT_ACT = c.val ∧
       t.is DMAG_STAT_BUSY = true) ∧
  (∀ (s : State) (c : Fin 32) (x : Nat),
     s.dma.ch.length = 32 →
     s.isOn 4 = true →
     s.ticking = true →
     s.get (DMA_CFG_REQSEL c.val) = 0x3F →
     (s.dmaState c.val = 1 ∨ s.dmaState c.val = 2 ∨ s.dmaState c.val = 3) →
     (s.dmaCh c.val).owed = false →
     (s.dmaCh c.val).left = 0 →
     s.dma.cur = some x →
     ∃ t, exec (.dmaRequest c) s = .next t ∧
       t = s.setDmaCh c.val { s.dmaCh c.val with owed := true }) ∧
  (∀ (s : State) (c : Fin 32),
     s.dma.ch.length = 32 →
     s.isOn 4 = true →
     s.ticking = true →
     s.get (DMA_CFG_REQSEL c.val) = 0x3F →
     ¬(s.dmaState c.val = 1 ∨ s.dmaState c.val = 2 ∨ s.dmaState c.val = 3) →
     ∃ t, exec (.dmaRequest c) s = .next t ∧
       t = s) ∧
  (∀ (s : State) (c : Fin 32),
     s.dma.ch.length = 32 →
     s.isOn 4 = true →
     s.ticking = true →
     s.get (DMA_CFG_REQSEL c.val) ≠ 0x3F →
     ∃ t, exec (.dmaRequest c) s = .next t ∧
       t.mem = s.mem ∧
       (s.dma.cur ≠ none → t = s) ∧
       (s.dma.cur = none → t.dma.cur = s.dmaNext)) ∧
  (∀ (s : State) (c : Fin 32),
     s.isOn 4 = false ∨ s.ticking = false →
     ∃ t, exec (.dmaRequest c) s = .next t ∧
       t = s) ∧
  (∀ (s : State) (c : Fin 32) (m : Nat),
     s.dma.ch.length = 32 →
     s.dma.cur = some c.val →
     s.isOn 4 = true →
     s.pllA = true →
     s.dmaStuck c.val = false →
     s.is STU_CTRL_BYPASS = true →
     s.is (DMA_CFG_SRCINC c.val) = true →
     s.is (DMA_CFG_DSTINC c.val) = true →
     (s.rd (DMA_CURSRC c.val)).toNat % 64 = 0 →
     (s.rd (DMA_CURDST c.val)).toNat % 64 = 0 →
     0x20000000 ≤ (s.rd (DMA_CURSRC c.val)).toNat →
     (s.rd (DMA_CURSRC c.val)).toNat + 64 ≤ 0x21F80000 →
     0x20000000 ≤ (s.rd (DMA_CURDST c.val)).toNat →
     (s.rd (DMA_CURDST c.val)).toNat + 64 ≤ 0x21F80000 →
     s.dmaCh c.val = ⟨m + 2, false, false⟩ →
     64 < s.get (DMA_REMAIN_REMAIN c.val) →
     s.dmaOutranked c.val = false →
     (s.rd (DMA_CURSRC c.val)).toNat + 64 ≤ (s.rd (DMA_CURDST c.val)).toNat →
     ∃ t, exec (.dmaBlock (.ok 0 0) (.ok 0 0)) s = .next t ∧
       ∀ i : Fin 16, t.rdMem32 ((s.rd (DMA_CURDST c.val)).toNat + 4 * i.val) = s.rdMem32 ((s.rd (DMA_CURSRC c.val)).toNat + 4 * i.val) ∧
       t.get (DMA_DONE_DONE c.val) = (s.get (DMA_DONE_DONE c.val) + 64) % 2 ^ 24 ∧
       t.get (DMA_REMAIN_REMAIN c.val) = s.get (DMA_REMAIN_REMAIN c.val) - 64 ∧
       t.dma.cur = some c.val ∧
       t.dmaCh c.val = ⟨m + 1, false, false⟩) ∧
  (∀ (s : State) (c : Fin 32),
     s.dma.ch.length = 32 →
     s.dma.cur = some c.val →
     s.isOn 4 = true →
     s.pllA = true →
     s.dmaStuck c.val = false →
     s.is STU_CTRL_BYPASS = true →
     s.is (DMA_CFG_SRCINC c.val) = true →
     s.is (DMA_CFG_DSTINC c.val) = true →
     (s.rd (DMA_CURSRC c.val)).toNat % 64 = 0 →
     (s.rd (DMA_CURDST c.val)).toNat % 64 = 0 →
     0x20000000 ≤ (s.rd (DMA_CURSRC c.val)).toNat →
     (s.rd (DMA_CURSRC c.val)).toNat + 64 ≤ 0x21F80000 →
     0x20000000 ≤ (s.rd (DMA_CURDST c.val)).toNat →
     (s.rd (DMA_CURDST c.val)).toNat + 64 ≤ 0x21F80000 →
     (s.dmaCh c.val).abort = false →
     s.get (DMA_REMAIN_REMAIN c.val) = 64 →
     ∃ t, exec (.dmaBlock (.ok 0 0) (.ok 0 0)) s = .next t ∧
       t.get (DMA_STAT_STATE c.val) = 4 ∧
       t.is (DMA_STAT_DONEF c.val) = true ∧
       t.get (DMA_REMAIN_REMAIN c.val) = 0) ∧
  (∀ (s : State) (c : Fin 32),
     s.dma.ch.length = 32 →
     s.dma.cur = some c.val →
     s.isOn 4 = true →
     s.pllA = true →
     s.dmaStuck c.val = false →
     s.is STU_CTRL_BYPASS = true →
     s.is (DMA_CFG_SRCINC c.val) = true →
     s.is (DMA_CFG_DSTINC c.val) = true →
     (s.rd (DMA_CURSRC c.val)).toNat % 64 = 0 →
     (s.rd (DMA_CURDST c.val)).toNat % 64 = 0 →
     0x20000000 ≤ (s.rd (DMA_CURSRC c.val)).toNat →
     (s.rd (DMA_CURSRC c.val)).toNat + 64 ≤ 0x21F80000 →
     0x20000000 ≤ (s.rd (DMA_CURDST c.val)).toNat →
     (s.rd (DMA_CURDST c.val)).toNat + 64 ≤ 0x21F80000 →
     (s.dmaCh c.val).abort = true →
     64 < s.get (DMA_REMAIN_REMAIN c.val) →
     ∃ t, exec (.dmaBlock (.ok 0 0) (.ok 0 0)) s = .next t ∧
       t.get (DMA_DONE_DONE c.val) = (s.get (DMA_DONE_DONE c.val) + 64) % 2 ^ 24 ∧
       t.get (DMA_REMAIN_REMAIN c.val) = s.get (DMA_REMAIN_REMAIN c.val) - 64 ∧
       t.get (DMA_STAT_STATE c.val) = 6 ∧
       t.dmaCh c.val = ⟨0, false, false⟩) ∧
  (∀ (s : State) (c x : Fin 32),
     s.dma.ch.length = 32 →
     s.dma.cur = some c.val →
     s.isOn 4 = true →
     s.pllA = true →
     s.dmaStuck c.val = false →
     s.is STU_CTRL_BYPASS = true →
     s.is (DMA_CFG_SRCINC c.val) = true →
     s.is (DMA_CFG_DSTINC c.val) = true →
     (s.rd (DMA_CURSRC c.val)).toNat % 64 = 0 →
     (s.rd (DMA_CURDST c.val)).toNat % 64 = 0 →
     0x20000000 ≤ (s.rd (DMA_CURSRC c.val)).toNat →
     (s.rd (DMA_CURSRC c.val)).toNat + 64 ≤ 0x21F80000 →
     0x20000000 ≤ (s.rd (DMA_CURDST c.val)).toNat →
     (s.rd (DMA_CURDST c.val)).toNat + 64 ≤ 0x21F80000 →
     (s.dmaCh c.val).abort = false →
     64 < s.get (DMA_REMAIN_REMAIN c.val) →
     x ≠ c →
     s.dmaWants x.val = true →
     s.get (DMA_CFG_PRIO c.val) < s.get (DMA_CFG_PRIO x.val) →
     ∀ y : Fin 32, y ≠ x → y ≠ c → s.dmaWants y.val = false →
     ∃ t, exec (.dmaBlock (.ok 0 0) (.ok 0 0)) s = .next t ∧
       t.get (DMA_DONE_DONE c.val) = (s.get (DMA_DONE_DONE c.val) + 64) % 2 ^ 24 ∧
       t.get (DMA_REMAIN_REMAIN c.val) = s.get (DMA_REMAIN_REMAIN c.val) - 64 ∧
       t.get (DMA_STAT_STATE c.val) = 3 ∧
       t.dma.cur = some x.val ∧
       t.get (DMA_STAT_STATE x.val) = 2 ∧
       t.get DMAG_PRE_PRE_CNT = min (s.get DMAG_PRE_PRE_CNT + 1) (DMAG_PRE_PRE_CNT.size - 1)) ∧
  (∀ (s : State) (c : Fin 32),
     s.dma.ch.length = 32 →
     s.dma.cur = some c.val →
     s.isOn 4 = true →
     s.pllA = true →
     s.dmaStuck c.val = false →
     s.is STU_CTRL_BYPASS = true →
     s.is (DMA_CFG_SRCINC c.val) = true →
     s.is (DMA_CFG_DSTINC c.val) = true →
     (s.rd (DMA_CURSRC c.val)).toNat % 64 = 0 →
     (s.rd (DMA_CURDST c.val)).toNat % 64 = 0 →
     0x20000000 ≤ (s.rd (DMA_CURSRC c.val)).toNat →
     (s.rd (DMA_CURSRC c.val)).toNat + 64 ≤ 0x21F80000 →
     0x20000000 ≤ (s.rd (DMA_CURDST c.val)).toNat →
     (s.rd (DMA_CURDST c.val)).toNat + 64 ≤ 0x21F80000 →
     (s.dmaCh c.val).abort = false →
     (s.dmaCh c.val).left = 1 →
     64 < s.get (DMA_REMAIN_REMAIN c.val) →
     ∀ y : Fin 32, y ≠ c → s.dmaWants y.val = false →
     s.dmaAsks c.val = false →
     ∃ t, exec (.dmaBlock (.ok 0 0) (.ok 0 0)) s = .next t ∧
       t.get (DMA_DONE_DONE c.val) = (s.get (DMA_DONE_DONE c.val) + 64) % 2 ^ 24 ∧
       t.get (DMA_REMAIN_REMAIN c.val) = s.get (DMA_REMAIN_REMAIN c.val) - 64 ∧
       t.get (DMA_STAT_STATE c.val) = 1 ∧
       t.dma.cur = none ∧
       t.is DMAG_STAT_BUSY = false) ∧
  (∀ (s : State) (c : Fin 32) (rd wr : FabRes),
     s.dma.ch.length = 32 →
     s.dma.cur = some c.val →
     s.isOn 4 = true →
     s.pllA = true →
     s.dmaStuck c.val = false →
     s.translate (s.get (DMA_CFG_SID c.val)) (s.get (DMA_CURSRC_CURSRC c.val)) false = none →
     ∃ t, exec (.dmaBlock rd wr) s = .next t ∧
       t.get (DMA_STAT_STATE c.val) = 5 ∧
       t.get (DMA_STAT_ERR c.val) = 1 ∧
       t.is (DMA_STAT_ERRF c.val) = true ∧
       t.get (DMA_FADDR_FADDR c.val) = s.get (DMA_CURSRC_CURSRC c.val) ∧
       t.get (DMA_DONE_DONE c.val) = s.get (DMA_DONE_DONE c.val) ∧
       t.mem = s.mem) ∧
  (∀ (s : State) (c : Fin 32) (rd wr : FabRes) (x : Nat),
     s.dma.ch.length = 32 →
     s.dma.cur = some c.val →
     s.isOn 4 = true →
     s.pllA = true →
     s.dmaStuck c.val = false →
     s.translate (s.get (DMA_CFG_SID c.val)) (s.get (DMA_CURSRC_CURSRC c.val)) false = some x →
     s.translate (s.get (DMA_CFG_SID c.val)) (s.get (DMA_CURDST_CURDST c.val)) true = none →
     ∃ t, exec (.dmaBlock rd wr) s = .next t ∧
       t.get (DMA_STAT_STATE c.val) = 5 ∧
       t.get (DMA_STAT_ERR c.val) = 2 ∧
       t.is (DMA_STAT_ERRF c.val) = true ∧
       t.get (DMA_FADDR_FADDR c.val) = s.get (DMA_CURDST_CURDST c.val) ∧
       t.get (DMA_DONE_DONE c.val) = s.get (DMA_DONE_DONE c.val) ∧
       t.mem = s.mem) ∧
  (∀ (s : State) (c : Fin 32) (rd wr : FabRes),
     s.dma.ch.length = 32 →
     s.dma.cur = some c.val →
     s.isOn 4 = true →
     s.pllA = true →
     s.dmaStuck c.val = false →
     s.is STU_CTRL_BYPASS = true →
     s.dmaOk c.val (s.get (DMA_CURSRC_CURSRC c.val)) false = false →
     ∃ t, exec (.dmaBlock rd wr) s = .next t ∧
       t.get (DMA_STAT_STATE c.val) = 5 ∧
       t.get (DMA_STAT_ERR c.val) = 3 ∧
       t.is (DMA_STAT_ERRF c.val) = true ∧
       t.get (DMA_FADDR_FADDR c.val) = s.get (DMA_CURSRC_CURSRC c.val) ∧
       t.get (DMA_DONE_DONE c.val) = s.get (DMA_DONE_DONE c.val) ∧
       t.mem = s.mem) ∧
  (∀ (s : State) (c : Fin 32) (wr : FabRes),
     s.dma.ch.length = 32 →
     s.dma.cur = some c.val →
     s.isOn 4 = true →
     s.pllA = true →
     s.dmaStuck c.val = false →
     s.is STU_CTRL_BYPASS = true →
     s.is (DMA_CFG_SRCINC c.val) = true →
     s.is (DMA_CFG_DSTINC c.val) = true →
     0x20000000 ≤ (s.rd (DMA_CURSRC c.val)).toNat →
     (s.rd (DMA_CURSRC c.val)).toNat + 64 ≤ 0x21F80000 →
     s.dmaOk c.val (s.get (DMA_CURSRC_CURSRC c.val)) false = true →
     ∃ t, exec (.dmaBlock .resendsOut wr) s = .next t ∧
       t.get (DMA_STAT_STATE c.val) = 5 ∧
       t.get (DMA_STAT_ERR c.val) = 5 ∧
       t.is (DMA_STAT_ERRF c.val) = true ∧
       t.get (DMA_FADDR_FADDR c.val) = s.get (DMA_CURSRC_CURSRC c.val) ∧
       t.get (DMA_DONE_DONE c.val) = s.get (DMA_DONE_DONE c.val) ∧
       t.mem = s.mem) ∧
  (∀ (s : State) (c : Fin 32) (wr : FabRes),
     s.dma.ch.length = 32 →
     s.dma.cur = some c.val →
     s.isOn 4 = true →
     s.pllA = true →
     s.dmaStuck c.val = false →
     s.is STU_CTRL_BYPASS = true →
     s.is (DMA_CFG_SRCINC c.val) = true →
     s.is (DMA_CFG_DSTINC c.val) = true →
     0x20000000 ≤ (s.rd (DMA_CURSRC c.val)).toNat →
     (s.rd (DMA_CURSRC c.val)).toNat + 64 ≤ 0x21F80000 →
     s.dmaOk c.val (s.get (DMA_CURSRC_CURSRC c.val)) false = true →
     ∃ t, exec (.dmaBlock .uncorrectable wr) s = .next t ∧
       t.get (DMA_STAT_STATE c.val) = 5 ∧
       t.get (DMA_STAT_ERR c.val) = 7 ∧
       t.is (DMA_STAT_ERRF c.val) = true ∧
       t.get (DMA_FADDR_FADDR c.val) = s.get (DMA_CURSRC_CURSRC c.val) ∧
       t.get (DMA_DONE_DONE c.val) = s.get (DMA_DONE_DONE c.val) ∧
       t.mem = s.mem) ∧
  (∀ (s : State) (c : Fin 32) (rd wr : FabRes),
     s.dma.cur = some c.val →
     s.isOn 4 = false ∨ s.pllA = false ∨ s.dmaStuck c.val = true →
     ∃ t, exec (.dmaBlock rd wr) s = .next t ∧
       t = s) ∧
  (∀ (s : State) (rd wr : FabRes),
     s.dma.cur = none →
     ∃ t, exec (.dmaBlock rd wr) s = .next t ∧
       t = s)

/-- The state in which a request is evaluated is the one after its admission, with the stop demand and plug change that are due in
its tick applied. MODE_ENTER that passes every check of R58: DRV and WHT become active, owned by the session, and are answered
OK; the converter instances wait for their stage; a request that pre-empts starts those ramps with reason PREEMPT and waits;
PRK is active at once with the lock engaged, else waits for its sequence; HLD is active with cause REQUEST and ends the
instances of R56; during SST it waits. A request for an active or pending instance is answered as R380 says, and every failed
check is answered with its status and changes no mode state. MODE_EXIT starts the ramp with reason EXIT_REQ, ends PRK and an
idle ACT at once, waits for the sequences of ACT, cancels a pending request, leaves HLD on cause REQUEST, and is refused as
R381 says. MODE_STATUS answers the registers and owners of R382 and sets or ends the subscription (R37 to R40, R43, R55, R57,
R58, R380 to R382). -/
def Obligations.ModeRequestsEnterAndExitInstances : Prop :=
  (∀ (s : State) (i : Fin 12) (q : Req) (x : Ctx),
     s.kcp.queues.length = 4 →
     s.Ready 0x0201 2 q x →
     (s.atMode q x).modes.owner.length = 12 ∧ (s.atMode q x).modes.fed.length = 12 →
     payU q.pay 0 1 = i.val →
     i.val ∈ [0, 1, 7, 8] →
     (s.atMode q x).gateRefusal i.val false = none →
     (s.atMode q x).active i.val = false →
     (s.atMode q x).waiting i.val = false →
     (s.atMode q x).osdBlocks ((s.atMode q x).entryModules i.val) = false →
     (s.atMode q x).entryRefusal i.val = none →
     (s.atMode q x).plugRefuses i.val = false →
     (s.atMode q x).pairRefusal i.val 0 ((s.atMode q x).others i.val) = none →
     ∃ t, exec (.modeEnter q) s = .next t ∧
       t.active i.val = true ∧
       t.ownerOf i.val = some (q.ctx.val * 256 + x.gen) ∧
       nth t.modes.fed i.val 0 = (s.atMode q x).now ∧
       t.get (LGE_STAT_HOLD (i.val % 7)) = 0 ∧
       (s.atMode q x).Sends t x ((s.atMode q x).replyTo 0x0201 2 q x stOk []) ∧
       ∀ j : Fin 12, j ≠ i → t.active j.val = (s.atMode q x).active j.val) ∧
  (∀ (s : State) (i : Fin 12) (q : Req) (x : Ctx),
     s.kcp.queues.length = 4 →
     s.Ready 0x0201 2 q x →
     (s.atMode q x).modes.owner.length = 12 ∧ (s.atMode q x).modes.fed.length = 12 →
     payU q.pay 0 1 = i.val →
     2 ≤ i.val ∧ i.val ≤ 5 →
     ∀ j ∈ (s.atMode q x).others i.val, (s.atMode q x).pairRule i.val j 0 ≠ .preempt →
     (s.atMode q x).gateRefusal i.val false = none →
     (s.atMode q x).active i.val = false →
     (s.atMode q x).waiting i.val = false →
     (s.atMode q x).osdBlocks ((s.atMode q x).entryModules i.val) = false →
     (s.atMode q x).entryRefusal i.val = none →
     (s.atMode q x).plugRefuses i.val = false →
     (s.atMode q x).pairRefusal i.val 0 ((s.atMode q x).others i.val) = none →
     ∃ t, exec (.modeEnter q) s = .next t ∧
       t.waiting i.val = true ∧
       t.active i.val = false ∧
       t.ownerOf i.val = some (q.ctx.val * 256 + x.gen) ∧
       t.modes.pend = (s.atMode q x).modes.pend ++ [⟨i.val, [(s.tokOf 0x0201 2 q x)], 1, (s.atMode q x).now⟩] ∧
       (s.atMode q x).Sends t x ((s.atMode q x).replyTo 0x0201 2 q x stPending []) ∧
       ∀ j : Fin 12, j ≠ i → t.active j.val = (s.atMode q x).active j.val) ∧
  (∀ (s : State) (i : Fin 12) (q : Req) (x : Ctx),
     s.kcp.queues.length = 4 →
     s.Ready 0x0201 2 q x →
     (s.atMode q x).modes.owner.length = 12 ∧ (s.atMode q x).modes.fed.length = 12 →
     payU q.pay 0 1 = i.val →
     (s.atMode q x).others i.val ≠ [] →
     ((s.atMode q x).others i.val).any (fun j => (s.atMode q x).pairRule i.val j 0 == .preempt) = true →
     ∀ j ∈ (s.atMode q x).others i.val, (s.atMode q x).pairRule i.val j 0 = .preempt → (s.atMode q x).active j = true ∧ (s.atMode q x).pendOf j = none →
     (s.atMode q x).modes.pend.all (fun (p : PendReq) => p.why != 0 || (preempted p.inst).any (fun j => (s.atMode q x).active j)) = true →
     (s.atMode q x).gateRefusal i.val false = none →
     (s.atMode q x).active i.val = false →
     (s.atMode q x).waiting i.val = false →
     (s.atMode q x).osdBlocks ((s.atMode q x).entryModules i.val) = false →
     (s.atMode q x).entryRefusal i.val = none →
     (s.atMode q x).plugRefuses i.val = false →
     (s.atMode q x).pairRefusal i.val 0 ((s.atMode q x).others i.val) = none →
     ∃ t, exec (.modeEnter q) s = .next t ∧
       t.waiting i.val = true ∧
       t.active i.val = false ∧
       t.ownerOf i.val = some (q.ctx.val * 256 + x.gen) ∧
       t.modes.pend = (s.atMode q x).modes.pend ++ [⟨i.val, [(s.tokOf 0x0201 2 q x)], 0, (s.atMode q x).now⟩] ∧
       ∀ j ∈ (s.atMode q x).others i.val, (s.atMode q x).pairRule i.val j 0 = .preempt → t.active j = true ∧ t.ramping j = true ∧ ((s.atMode q x).ramping j = false → t.get (endFld j) = 5) ∧
       (s.atMode q x).Sends t x ((s.atMode q x).replyTo 0x0201 2 q x stPending []) ∧
       ∀ j : Fin 12, j ≠ i → t.active j.val = (s.atMode q x).active j.val) ∧
  (∀ (s : State) (i : Fin 12) (q : Req) (x : Ctx),
     s.kcp.queues.length = 4 →
     s.Ready 0x0201 2 q x →
     (s.atMode q x).modes.owner.length = 12 ∧ (s.atMode q x).modes.fed.length = 12 →
     payU q.pay 0 1 = i.val →
     i.val = 9 →
     (s.atMode q x).modes.lock = true →
     ((s.atMode q x).others 9).any (fun j => (s.atMode q x).pairRule 9 j 0 == .wait) = false →
     ∀ j ∈ (s.atMode q x).others i.val, (s.atMode q x).pairRule i.val j 0 ≠ .preempt →
     (s.atMode q x).gateRefusal i.val false = none →
     (s.atMode q x).active i.val = false →
     (s.atMode q x).waiting i.val = false →
     (s.atMode q x).osdBlocks ((s.atMode q x).entryModules i.val) = false →
     (s.atMode q x).entryRefusal i.val = none →
     (s.atMode q x).plugRefuses i.val = false →
     (s.atMode q x).pairRefusal i.val 0 ((s.atMode q x).others i.val) = none →
     ∃ t, exec (.modeEnter q) s = .next t ∧
       t.active 9 = true ∧
       t.ownerOf i.val = some (q.ctx.val * 256 + x.gen) ∧
       (s.atMode q x).Sends t x ((s.atMode q x).replyTo 0x0201 2 q x stOk []) ∧
       ∀ j : Fin 12, j ≠ i → t.active j.val = (s.atMode q x).active j.val) ∧
  (∀ (s : State) (i : Fin 12) (q : Req) (x : Ctx),
     s.kcp.queues.length = 4 →
     s.Ready 0x0201 2 q x →
     (s.atMode q x).modes.owner.length = 12 ∧ (s.atMode q x).modes.fed.length = 12 →
     payU q.pay 0 1 = i.val →
     i.val = 9 →
     (s.atMode q x).act.length = 3 →
     (s.atMode q x).modes.lock = false →
     (s.atMode q x).actRuns 0 = false →
     ∀ j ∈ (s.atMode q x).others i.val, (s.atMode q x).pairRule i.val j 0 ≠ .preempt →
     (s.atMode q x).gateRefusal i.val false = none →
     (s.atMode q x).active i.val = false →
     (s.atMode q x).waiting i.val = false →
     (s.atMode q x).osdBlocks ((s.atMode q x).entryModules i.val) = false →
     (s.atMode q x).entryRefusal i.val = none →
     (s.atMode q x).plugRefuses i.val = false →
     (s.atMode q x).pairRefusal i.val 0 ((s.atMode q x).others i.val) = none →
     ∃ t, exec (.modeEnter q) s = .next t ∧
       t.waiting 9 = true ∧
       t.active 9 = false ∧
       t.ownerOf i.val = some (q.ctx.val * 256 + x.gen) ∧
       t.actRuns 0 = true ∧
       t.get (ACS_STAT_SEQ 0) = 1 ∧
       t.modes.pend = (s.atMode q x).modes.pend ++ [⟨i.val, [(s.tokOf 0x0201 2 q x)], 2, (s.atMode q x).now⟩] ∧
       (s.atMode q x).Sends t x ((s.atMode q x).replyTo 0x0201 2 q x stPending []) ∧
       ∀ j : Fin 12, j ≠ i → t.active j.val = (s.atMode q x).active j.val) ∧
  (∀ (s : State) (i : Fin 12) (q : Req) (x : Ctx),
     s.kcp.queues.length = 4 →
     s.Ready 0x0201 2 q x →
     (s.atMode q x).modes.owner.length = 12 ∧ (s.atMode q x).modes.fed.length = 12 →
     payU q.pay 0 1 = i.val →
     i.val = 9 →
     (s.atMode q x).actRuns 0 = true →
     (s.atMode q x).modes.lock = false ∨ ((s.atMode q x).others 9).any (fun j => (s.atMode q x).pairRule 9 j 0 == .wait) = true →
     ∀ j ∈ (s.atMode q x).others i.val, (s.atMode q x).pairRule i.val j 0 ≠ .preempt →
     (s.atMode q x).gateRefusal i.val false = none →
     (s.atMode q x).active i.val = false →
     (s.atMode q x).waiting i.val = false →
     (s.atMode q x).osdBlocks ((s.atMode q x).entryModules i.val) = false →
     (s.atMode q x).entryRefusal i.val = none →
     (s.atMode q x).plugRefuses i.val = false →
     (s.atMode q x).pairRefusal i.val 0 ((s.atMode q x).others i.val) = none →
     ∃ t, exec (.modeEnter q) s = .next t ∧
       t.waiting 9 = true ∧
       t.active 9 = false ∧
       t.ownerOf i.val = some (q.ctx.val * 256 + x.gen) ∧
       t.act = (s.atMode q x).act ∧
       t.modes.pend = (s.atMode q x).modes.pend ++ [⟨i.val, [(s.tokOf 0x0201 2 q x)], 2, (s.atMode q x).now⟩] ∧
       (s.atMode q x).Sends t x ((s.atMode q x).replyTo 0x0201 2 q x stPending []) ∧
       ∀ j : Fin 12, j ≠ i → t.active j.val = (s.atMode q x).active j.val) ∧
  (∀ (s : State) (i : Fin 12) (q : Req) (x : Ctx),
     s.kcp.queues.length = 4 →
     s.Ready 0x0201 2 q x →
     (s.atMode q x).modes.owner.length = 12 ∧ (s.atMode q x).modes.fed.length = 12 →
     payU q.pay 0 1 = i.val →
     i.val = 11 →
     (s.atMode q x).active 10 = false →
     (s.atMode q x).gateRefusal i.val false = none →
     (s.atMode q x).active i.val = false →
     (s.atMode q x).waiting i.val = false →
     (s.atMode q x).osdBlocks ((s.atMode q x).entryModules i.val) = false →
     (s.atMode q x).entryRefusal i.val = none →
     (s.atMode q x).plugRefuses i.val = false →
     (s.atMode q x).pairRefusal i.val 0 ((s.atMode q x).others i.val) = none →
     ∃ t, exec (.modeEnter q) s = .next t ∧
       t.active 11 = true ∧
       t.ownerOf i.val = some (q.ctx.val * 256 + x.gen) ∧
       t.get MDM_HOLD_CAUSE = 3 ∧
       t.active 9 = (s.atMode q x).active 9 ∧
       ∀ j ∈ leased ++ [5], (s.atMode q x).active j = true → (s.atMode q x).ramping j = false → t.ramping j = true ∧ t.active j = true ∧ t.get (endFld j) = 7 ∧
       ∀ m : Fin 2, (s.atMode q x).get (LGE_STAT_HOLD m.val) ≠ 0 → t.get (LGE_STAT_HOLD m.val) = 2 ∧
       (s.atMode q x).modes.pend = [] → (s.atMode q x).Sends t x ((s.atMode q x).replyTo 0x0201 2 q x stOk [])) ∧
  (∀ (s : State) (i : Fin 12) (q : Req) (x : Ctx),
     s.kcp.queues.length = 4 →
     s.Ready 0x0201 2 q x →
     (s.atMode q x).modes.owner.length = 12 ∧ (s.atMode q x).modes.fed.length = 12 →
     payU q.pay 0 1 = i.val →
     i.val = 11 →
     (s.atMode q x).active 10 = true →
     ∃ t, exec (.modeEnter q) s = .next t ∧
       t.waiting 11 = true ∧
       ∀ j : Fin 12, t.active j.val = (s.atMode q x).active j.val ∧
       (s.atMode q x).waiting 11 = false → t.modes.pend = (s.atMode q x).modes.pend ++ [⟨11, [(s.tokOf 0x0201 2 q x)], 3, (s.atMode q x).now⟩] ∧
       (s.atMode q x).waiting 11 = true → t.modes.pend = (s.atMode q x).modes.pend.map (fun (p : PendReq) => if p.inst == 11 then { p with toks := p.toks ++ [(s.tokOf 0x0201 2 q x)] } else p) ∧
       (s.atMode q x).Sends t x ((s.atMode q x).replyTo 0x0201 2 q x stPending [])) ∧
  (∀ (s : State) (i : Fin 12) (q : Req) (x : Ctx),
     s.kcp.queues.length = 4 →
     s.Ready 0x0201 2 q x →
     (s.atMode q x).modes.owner.length = 12 ∧ (s.atMode q x).modes.fed.length = 12 →
     payU q.pay 0 1 = i.val →
     ¬((s.atMode q x).active 10 = true ∧ i.val = 11) →
     (s.atMode q x).gateRefusal i.val false = none →
     (s.atMode q x).active i.val = true ∨ (s.atMode q x).waiting i.val = true →
     (s.atMode q x).heldBy i.val (q.ctx.val * 256 + x.gen) = true →
     ∃ t, exec (.modeEnter q) s = .next t ∧
       t.rd MDM_ACTIVE = (s.atMode q x).rd MDM_ACTIVE ∧
       t.modes = (s.atMode q x).modes ∧
       (s.atMode q x).Sends t x ((s.atMode q x).replyTo 0x0201 2 q x stHeld [])) ∧
  (∀ (s : State) (i : Fin 12) (q : Req) (x : Ctx),
     s.kcp.queues.length = 4 →
     s.Ready 0x0201 2 q x →
     (s.atMode q x).modes.owner.length = 12 ∧ (s.atMode q x).modes.fed.length = 12 →
     payU q.pay 0 1 = i.val →
     ¬((s.atMode q x).active 10 = true ∧ i.val = 11) →
     (s.atMode q x).gateRefusal i.val false = none →
     (s.atMode q x).active i.val = true →
     (s.atMode q x).heldBy i.val (q.ctx.val * 256 + x.gen) = false →
     ∃ t, exec (.modeEnter q) s = .next t ∧
       t.rd MDM_ACTIVE = (s.atMode q x).rd MDM_ACTIVE ∧
       t.ownerOf i.val = some (q.ctx.val * 256 + x.gen) ∧
       t.modes.ramp = (s.atMode q x).modes.ramp ∧
       (s.atMode q x).Sends t x ((s.atMode q x).replyTo 0x0201 2 q x stOk [])) ∧
  (∀ (s : State) (i : Fin 12) (q : Req) (x : Ctx),
     s.kcp.queues.length = 4 →
     s.Ready 0x0201 2 q x →
     (s.atMode q x).modes.owner.length = 12 ∧ (s.atMode q x).modes.fed.length = 12 →
     payU q.pay 0 1 = i.val →
     ¬((s.atMode q x).active 10 = true ∧ i.val = 11) →
     (s.atMode q x).gateRefusal i.val false = none →
     (s.atMode q x).active i.val = false →
     (s.atMode q x).waiting i.val = true →
     (s.atMode q x).heldBy i.val (q.ctx.val * 256 + x.gen) = false →
     ∃ t, exec (.modeEnter q) s = .next t ∧
       t.rd MDM_ACTIVE = (s.atMode q x).rd MDM_ACTIVE ∧
       t.modes.pend = (s.atMode q x).modes.pend.map (fun (p : PendReq) => if p.inst == i.val then { p with toks := p.toks ++ [(s.tokOf 0x0201 2 q x)] } else p) ∧
       (s.atMode q x).Sends t x ((s.atMode q x).replyTo 0x0201 2 q x stPending [])) ∧
  (∀ (s : State) (i : Fin 12) (q : Req) (x : Ctx) (st : Nat),
     s.kcp.queues.length = 4 →
     s.Ready 0x0201 2 q x →
     (s.atMode q x).modes.owner.length = 12 ∧ (s.atMode q x).modes.fed.length = 12 →
     payU q.pay 0 1 = i.val →
     ¬((s.atMode q x).active 10 = true ∧ i.val = 11) →
     (s.atMode q x).gateRefusal i.val false = some st →
     ∃ t, exec (.modeEnter q) s = .next t ∧
       t.rd MDM_ACTIVE = (s.atMode q x).rd MDM_ACTIVE ∧
       t.modes = (s.atMode q x).modes ∧
       (s.atMode q x).Sends t x ((s.atMode q x).replyTo 0x0201 2 q x st (if st = stSafeState then (s.atMode q x).safeFields else beBytes 2 0))) ∧
  (∀ (s : State) (i : Fin 12) (q : Req) (x : Ctx),
     s.kcp.queues.length = 4 →
     s.Ready 0x0201 2 q x →
     (s.atMode q x).modes.owner.length = 12 ∧ (s.atMode q x).modes.fed.length = 12 →
     payU q.pay 0 1 = i.val →
     ¬((s.atMode q x).active 10 = true ∧ i.val = 11) →
     (s.atMode q x).gateRefusal i.val false = none →
     (s.atMode q x).active i.val = false →
     (s.atMode q x).waiting i.val = false →
     (s.atMode q x).osdBlocks ((s.atMode q x).entryModules i.val) = true →
     ∃ t, exec (.modeEnter q) s = .next t ∧
       t.rd MDM_ACTIVE = (s.atMode q x).rd MDM_ACTIVE ∧
       t.modes = (s.atMode q x).modes ∧
       (s.atMode q x).Sends t x ((s.atMode q x).replyTo 0x0201 2 q x stBadState [])) ∧
  (∀ (s : State) (i : Fin 12) (q : Req) (x : Ctx) (st : Nat),
     s.kcp.queues.length = 4 →
     s.Ready 0x0201 2 q x →
     (s.atMode q x).modes.owner.length = 12 ∧ (s.atMode q x).modes.fed.length = 12 →
     payU q.pay 0 1 = i.val →
     ¬((s.atMode q x).active 10 = true ∧ i.val = 11) →
     (s.atMode q x).gateRefusal i.val false = none →
     (s.atMode q x).active i.val = false →
     (s.atMode q x).waiting i.val = false →
     (s.atMode q x).osdBlocks ((s.atMode q x).entryModules i.val) = false →
     (s.atMode q x).entryRefusal i.val = some st →
     ∃ t, exec (.modeEnter q) s = .next t ∧
       t.rd MDM_ACTIVE = (s.atMode q x).rd MDM_ACTIVE ∧
       t.modes = (s.atMode q x).modes ∧
       (s.atMode q x).Sends t x ((s.atMode q x).replyTo 0x0201 2 q x st (if st = stBadParam then beBytes 2 0xFFFF else []))) ∧
  (∀ (s : State) (i : Fin 12) (q : Req) (x : Ctx),
     s.kcp.queues.length = 4 →
     s.Ready 0x0201 2 q x →
     (s.atMode q x).modes.owner.length = 12 ∧ (s.atMode q x).modes.fed.length = 12 →
     payU q.pay 0 1 = i.val →
     ¬((s.atMode q x).active 10 = true ∧ i.val = 11) →
     (s.atMode q x).gateRefusal i.val false = none →
     (s.atMode q x).active i.val = false →
     (s.atMode q x).waiting i.val = false →
     (s.atMode q x).osdBlocks ((s.atMode q x).entryModules i.val) = false →
     (s.atMode q x).entryRefusal i.val = none →
     (s.atMode q x).plugRefuses i.val = true →
     ∃ t, exec (.modeEnter q) s = .next t ∧
       t.rd MDM_ACTIVE = (s.atMode q x).rd MDM_ACTIVE ∧
       t.modes = (s.atMode q x).modes ∧
       (s.atMode q x).Sends t x ((s.atMode q x).replyTo 0x0201 2 q x stBadState [])) ∧
  (∀ (s : State) (i : Fin 12) (q : Req) (x : Ctx) (st : Nat),
     s.kcp.queues.length = 4 →
     s.Ready 0x0201 2 q x →
     (s.atMode q x).modes.owner.length = 12 ∧ (s.atMode q x).modes.fed.length = 12 →
     payU q.pay 0 1 = i.val →
     ¬((s.atMode q x).active 10 = true ∧ i.val = 11) →
     (s.atMode q x).gateRefusal i.val false = none →
     (s.atMode q x).active i.val = false →
     (s.atMode q x).waiting i.val = false →
     (s.atMode q x).osdBlocks ((s.atMode q x).entryModules i.val) = false →
     (s.atMode q x).entryRefusal i.val = none →
     (s.atMode q x).plugRefuses i.val = false →
     (s.atMode q x).pairRefusal i.val 0 ((s.atMode q x).others i.val) = some st →
     ∃ t, exec (.modeEnter q) s = .next t ∧
       t.rd MDM_ACTIVE = (s.atMode q x).rd MDM_ACTIVE ∧
       t.modes = (s.atMode q x).modes ∧
       (s.atMode q x).Sends t x ((s.atMode q x).replyTo 0x0201 2 q x st [])) ∧
  (∀ (s : State) (i : Fin 12) (q : Req) (x : Ctx),
     s.kcp.queues.length = 4 →
     s.Ready 0x0202 2 q x →
     (s.atMode q x).modes.owner.length = 12 ∧ (s.atMode q x).modes.fed.length = 12 →
     payU q.pay 0 1 = i.val →
     i.val ∈ [0, 1, 2, 3, 4, 5, 7, 8] →
     (s.atMode q x).gateRefusal i.val true = none →
     (s.atMode q x).heldBy i.val (q.ctx.val * 256 + x.gen) = false →
     (s.atMode q x).active i.val = true →
     (s.atMode q x).ramping i.val = false →
     ∃ t, exec (.modeExit q) s = .next t ∧
       t.get (endFld i.val) = 1 ∧
       t.ramping i.val = true ∧
       t.ownerOf i.val = some (q.ctx.val * 256 + x.gen) ∧
       t.rd MDM_ACTIVE = (s.atMode q x).rd MDM_ACTIVE ∧
       (s.atMode q x).Sends t x ((s.atMode q x).replyTo 0x0202 2 q x stOk [])) ∧
  (∀ (s : State) (i : Fin 12) (q : Req) (x : Ctx),
     s.kcp.queues.length = 4 →
     s.Ready 0x0202 2 q x →
     (s.atMode q x).modes.owner.length = 12 ∧ (s.atMode q x).modes.fed.length = 12 →
     payU q.pay 0 1 = i.val →
     i.val ∈ [0, 1, 2, 3, 4, 5, 7, 8] →
     (s.atMode q x).gateRefusal i.val true = none →
     (s.atMode q x).heldBy i.val (q.ctx.val * 256 + x.gen) = false →
     (s.atMode q x).active i.val = true →
     (s.atMode q x).ramping i.val = true →
     ∃ t, exec (.modeExit q) s = .next t ∧
       t.get (endFld i.val) = (s.atMode q x).get (endFld i.val) ∧
       t.modes.ramp = (s.atMode q x).modes.ramp ∧
       t.rd MDM_ACTIVE = (s.atMode q x).rd MDM_ACTIVE ∧
       (s.atMode q x).Sends t x ((s.atMode q x).replyTo 0x0202 2 q x stOk [])) ∧
  (∀ (s : State) (i : Fin 12) (q : Req) (x : Ctx),
     s.kcp.queues.length = 4 →
     s.Ready 0x0202 2 q x →
     (s.atMode q x).modes.owner.length = 12 ∧ (s.atMode q x).modes.fed.length = 12 →
     payU q.pay 0 1 = i.val →
     i.val = 9 ∨ (i.val = 6 ∧ (s.atMode q x).anySeq = false) →
     (s.atMode q x).gateRefusal i.val true = none →
     (s.atMode q x).heldBy i.val (q.ctx.val * 256 + x.gen) = false →
     (s.atMode q x).active i.val = true →
     (s.atMode q x).ramping i.val = false →
     (s.atMode q x).modes.pend.all (fun (p : PendReq) => p.why != 0 || (preempted p.inst).any (fun j => (s.atMode q x).active j)) = true →
     ∃ t, exec (.modeExit q) s = .next t ∧
       t.active i.val = false ∧
       t.get (endFld i.val) = 1 ∧
       t.ownerOf i.val = none ∧
       ∀ j : Fin 12, j ≠ i → t.active j.val = (s.atMode q x).active j.val ∧
       (s.atMode q x).Sends t x ((s.atMode q x).replyTo 0x0202 2 q x stOk [])) ∧
  (∀ (s : State) (i : Fin 12) (q : Req) (x : Ctx),
     s.kcp.queues.length = 4 →
     s.Ready 0x0202 2 q x →
     (s.atMode q x).modes.owner.length = 12 ∧ (s.atMode q x).modes.fed.length = 12 →
     payU q.pay 0 1 = i.val →
     i.val = 6 →
     (s.atMode q x).anySeq = true →
     (s.atMode q x).gateRefusal i.val true = none →
     (s.atMode q x).heldBy i.val (q.ctx.val * 256 + x.gen) = false →
     (s.atMode q x).active 6 = true →
     ∃ t, exec (.modeExit q) s = .next t ∧
       t.modes.exitAct = (s.atMode q x).modes.exitAct ++ [(s.tokOf 0x0202 2 q x)] ∧
       t.rd MDM_ACTIVE = (s.atMode q x).rd MDM_ACTIVE ∧
       (s.atMode q x).Sends t x ((s.atMode q x).replyTo 0x0202 2 q x stPending [])) ∧
  (∀ (s : State) (i : Fin 12) (q : Req) (x : Ctx) (tk : Tok) (w u : Nat),
     s.kcp.queues.length = 4 →
     s.Ready 0x0202 2 q x →
     (s.atMode q x).modes.owner.length = 12 ∧ (s.atMode q x).modes.fed.length = 12 →
     payU q.pay 0 1 = i.val →
     i.val ≠ 11 →
     (s.atMode q x).gateRefusal i.val true = none →
     (s.atMode q x).heldBy i.val (q.ctx.val * 256 + x.gen) = false →
     (s.atMode q x).active i.val = false →
     (s.atMode q x).waiting i.val = true →
     (s.atMode q x).pendOf i.val = some ⟨i.val, [tk], w, u⟩ →
     tk.handle = (q.ctx.val * 256 + x.gen) →
     tk.tport = x.tport →
     tk.peer = x.peer →
     ∃ t, exec (.modeExit q) s = .next t ∧
       t.waiting i.val = false ∧
       t.pendOf i.val = none ∧
       ∀ j : Fin 12, t.active j.val = (s.atMode q x).active j.val ∧
       (s.atMode q x).Sends t x ((s.atMode q x).replyTo 0x0202 2 q x stOk [] ++ frames tk.tport tk.ks ⟨tk.handle, tk.op ||| 0x8000, tk.seq, tk.cls, false, false, true, 2⟩ 3 0 (beBytes 2 stBadState))) ∧
  (∀ (s : State) (i : Fin 12) (q : Req) (x : Ctx),
     s.kcp.queues.length = 4 →
     s.Ready 0x0202 2 q x →
     (s.atMode q x).modes.owner.length = 12 ∧ (s.atMode q x).modes.fed.length = 12 →
     payU q.pay 0 1 = i.val →
     i.val = 11 →
     (s.atMode q x).gateRefusal i.val true = none →
     (s.atMode q x).heldBy i.val (q.ctx.val * 256 + x.gen) = false →
     (s.atMode q x).active 11 = true →
     (s.atMode q x).get MDM_HOLD_CAUSE = 3 →
     ∃ t, exec (.modeExit q) s = .next t ∧
       t.active 11 = false ∧
       t.get (endFld 11) = 1 ∧
       t.get MDM_HOLD_CAUSE = 0 ∧
       t.ownerOf 11 = none ∧
       ∀ j : Fin 12, j ≠ i → t.active j.val = (s.atMode q x).active j.val ∧
       (s.atMode q x).Sends t x ((s.atMode q x).replyTo 0x0202 2 q x stOk [])) ∧
  (∀ (s : State) (i : Fin 12) (q : Req) (x : Ctx),
     s.kcp.queues.length = 4 →
     s.Ready 0x0202 2 q x →
     (s.atMode q x).modes.owner.length = 12 ∧ (s.atMode q x).modes.fed.length = 12 →
     payU q.pay 0 1 = i.val →
     i.val = 11 →
     (s.atMode q x).gateRefusal i.val true = none →
     (s.atMode q x).heldBy i.val (q.ctx.val * 256 + x.gen) = false →
     (s.atMode q x).active 11 = true →
     (s.atMode q x).get MDM_HOLD_CAUSE ≠ 3 →
     ∃ t, exec (.modeExit q) s = .next t ∧
       t.rd MDM_ACTIVE = (s.atMode q x).rd MDM_ACTIVE ∧
       t.get MDM_HOLD_CAUSE = (s.atMode q x).get MDM_HOLD_CAUSE ∧
       (s.atMode q x).Sends t x ((s.atMode q x).replyTo 0x0202 2 q x stBadState [])) ∧
  (∀ (s : State) (i : Fin 12) (q : Req) (x : Ctx),
     s.kcp.queues.length = 4 →
     s.Ready 0x0202 2 q x →
     (s.atMode q x).modes.owner.length = 12 ∧ (s.atMode q x).modes.fed.length = 12 →
     payU q.pay 0 1 = i.val →
     (s.atMode q x).gateRefusal i.val true = none →
     (s.atMode q x).active i.val = true ∨ (s.atMode q x).waiting i.val = true →
     (s.atMode q x).heldBy i.val (q.ctx.val * 256 + x.gen) = true →
     ∃ t, exec (.modeExit q) s = .next t ∧
       t.rd MDM_ACTIVE = (s.atMode q x).rd MDM_ACTIVE ∧
       t.modes = (s.atMode q x).modes ∧
       (s.atMode q x).Sends t x ((s.atMode q x).replyTo 0x0202 2 q x stHeld [])) ∧
  (∀ (s : State) (i : Fin 12) (q : Req) (x : Ctx),
     s.kcp.queues.length = 4 →
     s.Ready 0x0202 2 q x →
     (s.atMode q x).modes.owner.length = 12 ∧ (s.atMode q x).modes.fed.length = 12 →
     payU q.pay 0 1 = i.val →
     (s.atMode q x).gateRefusal i.val true = none →
     (s.atMode q x).active i.val = false →
     (s.atMode q x).waiting i.val = false →
     ∃ t, exec (.modeExit q) s = .next t ∧
       t.rd MDM_ACTIVE = (s.atMode q x).rd MDM_ACTIVE ∧
       t.modes = (s.atMode q x).modes ∧
       (s.atMode q x).Sends t x ((s.atMode q x).replyTo 0x0202 2 q x stBadState [])) ∧
  (∀ (s : State) (i : Fin 12) (q : Req) (x : Ctx) (st : Nat),
     s.kcp.queues.length = 4 →
     s.Ready 0x0202 2 q x →
     (s.atMode q x).modes.owner.length = 12 ∧ (s.atMode q x).modes.fed.length = 12 →
     payU q.pay 0 1 = i.val →
     (s.atMode q x).gateRefusal i.val true = some st →
     ∃ t, exec (.modeExit q) s = .next t ∧
       t.rd MDM_ACTIVE = (s.atMode q x).rd MDM_ACTIVE ∧
       t.modes = (s.atMode q x).modes ∧
       (s.atMode q x).Sends t x ((s.atMode q x).replyTo 0x0202 2 q x st (if st = stSafeState then (s.atMode q x).safeFields else beBytes 2 0))) ∧
  (∀ (s : State) (q : Req) (x : Ctx),
     s.kcp.queues.length = 4 →
     s.Ready 0x0203 4 q x →
     ∃ t, exec (.modeStatus q) s = .next t ∧
       s.Sends t x (replyOf 0x0203 4 q x stOk s.modeStatusFields) ∧
       (t.ctxOf q.ctx.val).map (fun (y : Ctx) => y.subs) = some (x.subs.filter (fun (b : Sub) => b.op != 0x0203) ++ (if payU q.pay 0 1 = 1 then [⟨0x0203, 0, 0, some s.tick, false⟩] else [])) ∧
       t.rd MDM_ACTIVE = s.rd MDM_ACTIVE ∧
       t.modes = s.modes)

/-- A ramp that has run its time clears ACTIVE, the ramp and the owner; a DRV ramp, or a WHT ramp in SST, may end at any moment
before, and no other does. A stage's switching report makes the waiting instance active and answers its request OK, or
BAD_STATE where an entry condition has lapsed; 20 ms after the decision without a report the request ends FAULT_ACTIVE with
end reason FAULT. A leased instance without a setpoint for its time ends with SETPT_TMO; DCD with the bus low for 10 ms ends
with COND; an ASC hold ends once the speed is below the threshold; in HLD with every ramp, sequence and hold over D9 to D12 go
off; PRK alone for its dwell asks for standby. Where its condition does not hold, each of these events changes nothing (R38,
R41, R43, R44, R53, R54, R56, R268). -/
def Obligations.InstancesEndTimeOutAndHold : Prop :=
  (∀ (s : State) (i : Fin 12),
     s.modes.owner.length = 12 ∧ s.modes.rampAt.length = 12 →
     s.modes.pend = [] →
     s.active i.val = true →
     s.ramping i.val = true →
     nth s.modes.rampAt i.val 0 + s.rampMax i.val ≤ s.now →
     ∃ t, exec (.instanceRampEnd i) s = .next t ∧
       t.active i.val = false ∧
       t.ramping i.val = false ∧
       t.ownerOf i.val = none ∧
       bitOf i.val t.modes.sst = false ∧
       ∀ j : Fin 12, j ≠ i → t.active j.val = s.active j.val) ∧
  (∀ (s : State) (i : Fin 12),
     s.modes.owner.length = 12 ∧ s.modes.rampAt.length = 12 →
     s.modes.pend = [] →
     s.active i.val = true →
     s.ramping i.val = true →
     ¬(nth s.modes.rampAt i.val 0 + s.rampMax i.val ≤ s.now) →
     i.val = 0 ∨ i.val = 1 ∨ ((i.val = 7 ∨ i.val = 8) ∧ bitOf i.val s.modes.sst = true) →
     ∃ t, exec (.instanceRampEnd i) s = .next t ∧
       t = s ∨ (t.active i.val = false ∧ t.ramping i.val = false ∧ t.ownerOf i.val = none ∧ bitOf i.val t.modes.sst = false ∧ (∀ o : Fin 12, o ≠ i → t.active o.val = s.active o.val))) ∧
  (∀ (s : State) (i : Fin 12),
     s.active i.val = false ∨ s.ramping i.val = false ∨ (¬(nth s.modes.rampAt i.val 0 + s.rampMax i.val ≤ s.now) ∧ ¬(i.val = 0 ∨ i.val = 1 ∨ ((i.val = 7 ∨ i.val = 8) ∧ bitOf i.val s.modes.sst = true))) →
     ∃ t, exec (.instanceRampEnd i) s = .next t ∧
       t = s) ∧
  (∀ (s : State) (i : Fin 12) (tk : Tok) (w u : Nat) (x : Ctx),
     s.modes.owner.length = 12 ∧ s.modes.fed.length = 12 →
     s.pendOf i.val = some ⟨i.val, [tk], 1, u⟩ →
     s.entryRefusal i.val = none ∨ i.val = 9 →
     s.session tk.handle = some x →
     x.tport = tk.tport →
     x.peer = tk.peer →
     ∃ t, exec (.stageSwitchingReport i) s = .next t ∧
       t.active i.val = true ∧
       t.waiting i.val = false ∧
       t.pendOf i.val = none ∧
       nth t.modes.fed i.val 0 = s.now ∧
       s.Sends t x (frames tk.tport tk.ks ⟨tk.handle, tk.op ||| 0x8000, tk.seq, tk.cls, x.restored, false, true, 2⟩ 3 0 (beBytes 2 stOk))) ∧
  (∀ (s : State) (i : Fin 12) (tk : Tok) (w u : Nat) (x : Ctx),
     s.modes.owner.length = 12 ∧ s.modes.fed.length = 12 →
     s.pendOf i.val = some ⟨i.val, [tk], 1, u⟩ →
     (s.entryRefusal i.val).isSome = true →
     i.val ≠ 9 →
     s.session tk.handle = some x →
     x.tport = tk.tport →
     x.peer = tk.peer →
     ∃ t, exec (.stageSwitchingReport i) s = .next t ∧
       t.active i.val = s.active i.val ∧
       t.waiting i.val = false ∧
       t.pendOf i.val = none ∧
       s.Sends t x (frames tk.tport tk.ks ⟨tk.handle, tk.op ||| 0x8000, tk.seq, tk.cls, x.restored, false, true, 2⟩ 3 0 (beBytes 2 stBadState))) ∧
  (∀ (s : State) (i : Fin 12),
     s.waitsStage i.val = none →
     ∃ t, exec (.stageSwitchingReport i) s = .next t ∧
       t = s) ∧
  (∀ (s : State) (i : Fin 12) (tk : Tok) (w u : Nat) (x : Ctx),
     s.modes.owner.length = 12 ∧ s.modes.fed.length = 12 →
     2 ≤ i.val ∧ i.val ≤ 5 →
     s.pendOf i.val = some ⟨i.val, [tk], w, u⟩ →
     s.elapsedMs u 20 = true →
     s.session tk.handle = some x →
     x.tport = tk.tport →
     x.peer = tk.peer →
     ∃ t, exec (.stageStartTimeout i) s = .next t ∧
       t.active i.val = s.active i.val ∧
       t.waiting i.val = false ∧
       t.get (endFld i.val) = 8 ∧
       t.pendOf i.val = none ∧
       s.Sends t x (frames tk.tport tk.ks ⟨tk.handle, tk.op ||| 0x8000, tk.seq, tk.cls, x.restored, false, true, 2⟩ 3 0 (beBytes 2 stFault))) ∧
  (∀ (s : State) (i : Fin 12),
     i.val < 2 ∨ 5 < i.val ∨ (s.pendOf i.val).all (fun (p : PendReq) => !s.elapsedMs p.since 20) = true →
     ∃ t, exec (.stageStartTimeout i) s = .next t ∧
       t = s) ∧
  (∀ (s : State) (m : Fin 2),
     s.get (LGE_STAT_HOLD m.val) ≠ 0 →
     s.holdSpeed m.val = false →
     ∃ t, exec (.ascHoldEnd m) s = .next t ∧
       t.get (LGE_STAT_HOLD m.val) = 0 ∧
       ∀ k ∈ entryMods m.val, t.pwmRuns k = false) ∧
  (∀ (s : State) (m : Fin 2),
     s.get (LGE_STAT_HOLD m.val) = 0 ∨ s.holdSpeed m.val = true →
     ∃ t, exec (.ascHoldEnd m) s = .next t ∧
       t = s) ∧
  (∀ (s : State),
     s.ticking = true →
     s.active 11 = true →
     s.osdBusy = false →
     s.modes.ramp = 0 →
     s.anySeq = false →
     s.get (LGE_STAT_HOLD 0) = 0 →
     s.get (LGE_STAT_HOLD 1) = 0 →
     ∃ t, exec (.hldHoldsEnd) s = .next t ∧
       t.isOn 9 = false ∧
       t.isOn 10 = false ∧
       t.isOn 11 = false ∧
       t.isOn 12 = false ∧
       t.isOn 6 = s.isOn 6) ∧
  (∀ (s : State),
     s.ticking = false ∨ s.active 11 = false ∨ s.osdBusy = true ∨ s.modes.ramp ≠ 0 ∨ s.anySeq = true ∨ s.get (LGE_STAT_HOLD 0) ≠ 0 ∨ s.get (LGE_STAT_HOLD 1) ≠ 0 →
     ∃ t, exec (.hldHoldsEnd) s = .next t ∧
       t = s) ∧
  (∀ (s : State) (i : Fin 12),
     s.modes.owner.length = 12 ∧ s.modes.fed.length = 12 →
     i.val ∈ leased →
     s.active i.val = true →
     s.ramping i.val = false →
     s.elapsedMs (nth s.modes.fed i.val 0) (s.par 0x0010) = true →
     ∃ t, exec (.setptTimeout i) s = .next t ∧
       t.get (endFld i.val) = 3 ∧
       t.ramping i.val = true ∧
       t.rd MDM_ACTIVE = s.rd MDM_ACTIVE ∧
       t.modes.owner = s.modes.owner) ∧
  (∀ (s : State) (i : Fin 12),
     i.val ∉ leased ∨ s.active i.val = false ∨ s.ramping i.val = true ∨ s.elapsedMs (nth s.modes.fed i.val 0) (s.par 0x0010) = false →
     ∃ t, exec (.setptTimeout i) s = .next t ∧
       t = s) ∧
  (∀ (s : State) (u : Nat),
     s.modes.owner.length = 12 ∧ s.modes.fed.length = 12 →
     s.modes.dcdLow = some u →
     s.active 5 = true →
     s.ramping 5 = false →
     s.linkUp = false →
     s.elapsedMs u 10 = true →
     ∃ t, exec (.dcdVminTimeout) s = .next t ∧
       t.get (endFld 5) = 9 ∧
       t.ramping 5 = true ∧
       t.rd MDM_ACTIVE = s.rd MDM_ACTIVE) ∧
  (∀ (s : State),
     s.modes.dcdLow.all (fun u => !s.elapsedMs u 10) = true ∨ s.active 5 = false ∨ s.ramping 5 = true ∨ s.linkUp = true →
     ∃ t, exec (.dcdVminTimeout) s = .next t ∧
       t = s) ∧
  (∀ (s : State),
     s.get MDM_ACTIVE_ACTIVE = 0x200 →
     s.get MDM_ACTIVE_PENDING = 0 →
     s.start.kp = true →
     s.elapsedMs s.modes.dwell (1000 * s.par 0x0014) = true →
     s.is SUP_STAT_SRC = false →
     ∃ t, exec (.prkDwellExpiry) s = .next t ∧
       t.sup.standby = true ∧
       t.get AON_CAUSE_LAST = 1 ∧
       t.start.kp = false ∧
       ∀ d : Fin 14, d.val ≠ 0 → t.isOn d.val = false) ∧
  (∀ (s : State),
     s.get MDM_ACTIVE_ACTIVE = 0x200 →
     s.get MDM_ACTIVE_PENDING = 0 →
     s.start.kp = true →
     s.elapsedMs s.modes.dwell (1000 * s.par 0x0014) = true →
     s.is SUP_STAT_SRC = true →
     ∃ t, exec (.prkDwellExpiry) s = .next t ∧
       t.is SUP_STAT_STBYREF = true ∧
       s.OnlyRegs t [SUP_STAT.addr]) ∧
  (∀ (s : State),
     s.get MDM_ACTIVE_ACTIVE ≠ 0x200 ∨ s.get MDM_ACTIVE_PENDING ≠ 0 ∨ s.start.kp = false ∨ s.elapsedMs s.modes.dwell (1000 * s.par 0x0014) = false →
     ∃ t, exec (.prkDwellExpiry) s = .next t ∧
       t = s)

/-- A new pad level restarts the debounce count and shows in RAW after polarity; a level held for DB units of 32 Marten cycles
becomes the plug state and counts the change, in MDM_PLUG too while the mode manager runs; until then nothing changes. A write
to MDM_PLUGPOL, MDM_PAIRDENY or MDM_PLUG while an instance other than PRK and HLD is active only sets WR_IGN; otherwise it
writes the register's fields unless POL_LOCK is set, and a write that changes the level by POL restarts the count (R46, R60).
When the debounced plug state changes from 1 to 0 while the mode manager runs, every active BCH, ACH or V2G instance ends with
reason PLUG: its ramp runs and its end reason is PLUG; one whose ramp already runs goes on ending, and a pending one is
cancelled. The policy registers play no part. When it changes from 0 to 1, every running DRV, WHT or DCD instance whose policy
is 0b10 ends with reason PLUG, and the others go on (R45, R47, R48). -/
def Obligations.PlugStateIsDebounced : Prop :=
  (∀ (s : State) (level : Bool),
     s.sup.plug ≠ level →
     s.start.kp = true →
     ∃ t, exec (.plugDetLevel level) s = .next t ∧
       t.is MDM_PLUG_RAW = (level != s.is MDM_PLUG_POL) ∧
       t.is MDM_PLUG_PLUG = s.sup.plugged ∧
       t.sup = { s.sup with plug := level, plugAt := s.marten } ∧
       s.OnlyRegs { t with sup := s.sup } [MDM_PLUG.addr]) ∧
  (∀ (s : State) (level : Bool),
     s.sup.plug ≠ level →
     s.start.kp = false →
     ∃ t, exec (.plugDetLevel level) s = .next t ∧
       t = s.setSup { s.sup with plug := level, plugAt := s.marten }) ∧
  (∀ (s : State) (level : Bool),
     s.sup.plug = level →
     ∃ t, exec (.plugDetLevel level) s = .next t ∧
       t = s) ∧
  (∀ (s : State),
     s.plugLevel ≠ s.sup.plugged →
     s.sup.plugAt + 32 * max 1 (bitsOf 15 8 s.plugWord) ≤ s.marten →
     s.start.kp = true →
     ∃ t, exec (.plugDebounced) s = .next t ∧
       t.sup.plugged = s.plugLevel ∧
       t.sup.plugCnt = min 65535 (s.sup.plugCnt + 1) ∧
       t.is MDM_PLUG_PLUG = s.plugLevel ∧
       t.get MDM_PLUG_CHG_CNT = min 65535 (s.sup.plugCnt + 1)) ∧
  (∀ (s : State),
     s.plugLevel ≠ s.sup.plugged →
     s.sup.plugAt + 32 * max 1 (bitsOf 15 8 s.plugWord) ≤ s.marten →
     s.start.kp = false →
     ∃ t, exec (.plugDebounced) s = .next t ∧
       t = s.setSup { s.sup with plugged := s.plugLevel, plugCnt := min 65535 (s.sup.plugCnt + 1) }) ∧
  (∀ (s : State),
     s.plugLevel = s.sup.plugged ∨ s.marten < s.sup.plugAt + 32 * max 1 (bitsOf 15 8 s.plugWord) →
     ∃ t, exec (.plugDebounced) s = .next t ∧
       t = s) ∧
  (∀ (s : State) (ini : Initiator) (sel : Fin 3) (val : Word),
     s.Reaches ini (policyReg sel.val).addr →
     s.policyBusy = true →
     ∃ t, exec (.mdmPolicyWrite ini sel val) s = .next t ∧
       t.is MDM_LOCK_WR_IGN = true ∧
       s.OnlyRegs t [MDM_LOCK.addr]) ∧
  (∀ (s : State) (ini : Initiator) (val : Word),
     s.Reaches ini MDM_PLUGPOL.addr →
     s.policyBusy = false →
     s.is MDM_LOCK_POL_LOCK = false →
     ∃ t, exec (.mdmPolicyWrite ini 0 val) s = .next t ∧
       t.rd MDM_PLUGPOL = (s.rd MDM_PLUGPOL &&& 0xFFFF0000) ||| (val &&& 0xFFFF) ∧
       s.OnlyRegs t [MDM_PLUGPOL.addr]) ∧
  (∀ (s : State) (ini : Initiator) (val : Word),
     s.Reaches ini MDM_PAIRDENY.addr →
     s.policyBusy = false →
     s.is MDM_LOCK_POL_LOCK = false →
     ∃ t, exec (.mdmPolicyWrite ini 1 val) s = .next t ∧
       t.rd MDM_PAIRDENY = (s.rd MDM_PAIRDENY &&& 0xC0000000) ||| (val &&& 0x3FFFFFFF) ∧
       s.OnlyRegs t [MDM_PAIRDENY.addr]) ∧
  (∀ (s : State) (ini : Initiator) (val : Word),
     s.Reaches ini MDM_PLUG.addr →
     s.start.kp = true →
     s.policyBusy = false →
     s.is MDM_LOCK_POL_LOCK = false →
     ∃ t, exec (.mdmPolicyWrite ini 2 val) s = .next t ∧
       t.get MDM_PLUG_DB = bitsOf 15 8 val.toNat ∧
       t.is MDM_PLUG_POL = bitOf 2 val.toNat ∧
       t.is MDM_PLUG_RAW = (s.sup.plug != bitOf 2 val.toNat) ∧
       t.sup = { s.sup with plugAt := if s.is MDM_PLUG_POL = bitOf 2 val.toNat then s.sup.plugAt else s.marten } ∧
       s.OnlyRegs { t with sup := s.sup } [MDM_PLUG.addr]) ∧
  (∀ (s : State) (ini : Initiator) (sel : Fin 3) (val : Word),
     s.Reaches ini (policyReg sel.val).addr →
     s.is MDM_LOCK_POL_LOCK = true →
     s.policyBusy = false →
     ∃ t, exec (.mdmPolicyWrite ini sel val) s = .next t ∧
       t.rd MDM_PLUGPOL = s.rd MDM_PLUGPOL ∧
       t.rd MDM_PAIRDENY = s.rd MDM_PAIRDENY ∧
       t.get MDM_PLUG_DB = s.get MDM_PLUG_DB ∧
       t.get MDM_PLUG_POL = s.get MDM_PLUG_POL ∧
       t.sup = s.sup) ∧
  (∀ (s : State),
     s.plugLevel ≠ s.sup.plugged →
     s.sup.plugAt + 32 * max 1 (bitsOf 15 8 s.plugWord) ≤ s.marten →
     s.modes.owner.length = 12 ∧ s.modes.fed.length = 12 →
     s.start.kp = true →
     s.sup.plugged = true →
     ∃ t, exec (.plugDebounced) s = .next t ∧
       t.is MDM_PLUG_PLUG = false ∧
       ∀ i : Fin 12, i.val ∈ [2, 3, 4] → s.active i.val = true → s.ramping i.val = false → t.ramping i.val = true ∧ t.get (endFld i.val) = 4 ∧
       ∀ i : Fin 12, i.val ∈ [2, 3, 4] → s.active i.val = true → s.ramping i.val = true → t.ramping i.val = true ∧
       ∀ i : Fin 12, i.val ∈ [2, 3, 4] → t.pendOf i.val = none ∧
       ∀ i : Fin 12, t.active i.val = s.active i.val) ∧
  (∀ (s : State),
     s.plugLevel ≠ s.sup.plugged →
     s.sup.plugAt + 32 * max 1 (bitsOf 15 8 s.plugWord) ≤ s.marten →
     s.modes.owner.length = 12 ∧ s.modes.fed.length = 12 →
     s.start.kp = true →
     s.sup.plugged = false →
     ∃ t, exec (.plugDebounced) s = .next t ∧
       t.is MDM_PLUG_PLUG = true ∧
       ∀ i : Fin 12, i.val ∈ [0, 1, 5, 7, 8] → s.running i.val = true → (polField i.val).any (fun lo => decide (2 ≤ s.policy lo)) = true → t.ramping i.val = true ∧ t.get (endFld i.val) = 4 ∧
       ∀ i : Fin 12, i.val ∈ [0, 1, 5, 7, 8] → (polField i.val).any (fun lo => decide (2 ≤ s.policy lo)) = false → t.ramping i.val = s.ramping i.val ∧
       ∀ i : Fin 12, t.active i.val = s.active i.val)

/-- For each of the 40 session requests: with KP not running, or no live session, nothing changes; with the lease due, the lease
ends and nothing else happens. Of a live session, a class above 5 is answered BAD_PARAM; a class not granted, or a keyed
opcode on an unkeyed session, is counted and answered AUTH_FAIL; a sequence of the window already recorded is counted and
answered SEQ_REPLAY with its recorded status, one outside the window with 0xFFFF. A new sequence is marked seen and the lease
renewed; then an opcode that the recovery firmware does not serve is answered BAD_OPCODE, a payload that fails a check
BAD_PARAM with its offset, and a full queue or share QUEUE_FULL with the hint; another request takes its place in the class
queue, and the requests before it, and then it, leave the queue. The refusals are recorded for their sequence (R358, R362 to
R364, R367, R373, R378, R465). -/
def Obligations.RequestsAreAdmittedInOrder : Prop :=
  (∀ (s : State) (i : Instr) (op cls : Nat) (q : Req) (x : Ctx),
     requestOf i = some (op, cls, q) →
     s.kpRuns = false →
     ∃ t, exec (i) s = .next t ∧
       t = s) ∧
  (∀ (s : State) (i : Instr) (op cls : Nat) (q : Req) (x : Ctx),
     requestOf i = some (op, cls, q) →
     s.kpRuns = true →
     s.leaseDue q.ctx.val = true →
     ∃ t, exec (i) s = .next t ∧
       t = s.leaseExpire q.ctx.val) ∧
  (∀ (s : State) (i : Instr) (op cls : Nat) (q : Req) (x : Ctx),
     requestOf i = some (op, cls, q) →
     (s.ctxOf q.ctx.val).all (fun (y : Ctx) => !y.live) = true →
     ∃ t, exec (i) s = .next t ∧
       t = s) ∧
  (∀ (s : State) (i : Instr) (op cls : Nat) (q : Req) (x : Ctx),
     requestOf i = some (op, cls, q) →
     s.Live q x →
     6 ≤ cls →
     ∃ t, exec (i) s = .next t ∧
       s.Sends t x (replyOf op cls q x stBadParam (beBytes 2 0xFFFF)) ∧
       (t.ctxOf q.ctx.val).map (fun (y : Ctx) => (y.h, y.expiry, y.seen)) = some (x.h, x.expiry, x.seen) ∧
       t.kcp = { s.kcp with ctxs := t.kcp.ctxs, out := t.kcp.out, hspi := t.kcp.hspi } ∧
       s.OnlyRegs { t with kcp := s.kcp } []) ∧
  (∀ (s : State) (i : Instr) (op cls : Nat) (q : Req) (x : Ctx),
     requestOf i = some (op, cls, q) →
     s.Live q x →
     cls < 6 →
     bitOf cls x.classes = false ∨ (opKeyed op = true ∧ x.slot = 0xF) →
     ∃ t, exec (i) s = .next t ∧
       s.Sends t x (replyOf op cls q x stAuthFail []) ∧
       (t.ctxOf q.ctx.val).map (fun (y : Ctx) => (y.h, y.expiry, y.seen)) = some (x.h, x.expiry, x.seen) ∧
       t.kcp = { s.kcp with ctxs := t.kcp.ctxs, out := t.kcp.out, hspi := t.kcp.hspi } ∧
       t.get KCP_ERR0_AUTHFAIL = min (s.get KCP_ERR0_AUTHFAIL + 1) 65535 ∧
       s.OnlyRegs { t with kcp := s.kcp } [KCP_ERR0.addr]) ∧
  (∀ (s : State) (i : Instr) (op cls : Nat) (q : Req) (x : Ctx) (st : Nat),
     requestOf i = some (op, cls, q) →
     s.Live q x →
     cls < 6 →
     bitOf cls x.classes = true →
     opKeyed op = true → x.slot ≠ 0xF →
     seqDist x.h q.seq.toNat = 0 ∨ 65473 ≤ seqDist x.h q.seq.toNat →
     lookupKey q.seq.toNat x.seen = some st →
     ∃ t, exec (i) s = .next t ∧
       s.Sends t x (replyOf op cls q x stSeqReplay (beBytes 2 st)) ∧
       (t.ctxOf q.ctx.val).map (fun (y : Ctx) => (y.h, y.expiry, y.seen)) = some (x.h, x.expiry, x.seen) ∧
       t.kcp = { s.kcp with ctxs := t.kcp.ctxs, out := t.kcp.out, hspi := t.kcp.hspi } ∧
       t.get KCP_ERR0_SEQREPLAY = min (s.get KCP_ERR0_SEQREPLAY + 1) 65535 ∧
       s.OnlyRegs { t with kcp := s.kcp } [KCP_ERR0.addr]) ∧
  (∀ (s : State) (i : Instr) (op cls : Nat) (q : Req) (x : Ctx),
     requestOf i = some (op, cls, q) →
     s.Live q x →
     cls < 6 →
     bitOf cls x.classes = true →
     opKeyed op = true → x.slot ≠ 0xF →
     32768 ≤ seqDist x.h q.seq.toNat →
     seqDist x.h q.seq.toNat < 65473 →
     ∃ t, exec (i) s = .next t ∧
       s.Sends t x (replyOf op cls q x stSeqReplay (beBytes 2 0xFFFF)) ∧
       (t.ctxOf q.ctx.val).map (fun (y : Ctx) => (y.h, y.expiry, y.seen)) = some (x.h, x.expiry, x.seen) ∧
       t.kcp = { s.kcp with ctxs := t.kcp.ctxs, out := t.kcp.out, hspi := t.kcp.hspi } ∧
       t.get KCP_ERR0_SEQREPLAY = min (s.get KCP_ERR0_SEQREPLAY + 1) 65535 ∧
       s.OnlyRegs { t with kcp := s.kcp } [KCP_ERR0.addr]) ∧
  (∀ (s : State) (i : Instr) (op cls : Nat) (q : Req) (x : Ctx),
     requestOf i = some (op, cls, q) →
     s.Live q x →
     cls < 6 →
     bitOf cls x.classes = true →
     opKeyed op = true → x.slot ≠ 0xF →
     newSeq x q.seq.toNat →
     s.is SYSC_BOOT_RECOV = true →
     opRecovery op = false →
     ∃ t, exec (i) s = .next t ∧
       s.Sends t x (replyOf op cls q x stBadOpcode []) ∧
       (t.ctxOf q.ctx.val).map (fun (y : Ctx) => (y.h, y.expiry, lookupKey q.seq.toNat y.seen)) = some (newH x q.seq.toNat, s.tick + x.lease * 100000, some stBadOpcode) ∧
       t.kcp = { s.kcp with ctxs := t.kcp.ctxs, out := t.kcp.out, hspi := t.kcp.hspi } ∧
       s.OnlyRegs { t with kcp := s.kcp } []) ∧
  (∀ (s : State) (i : Instr) (op cls : Nat) (q : Req) (x : Ctx) (o : Nat),
     requestOf i = some (op, cls, q) →
     s.Live q x →
     cls < 6 →
     bitOf cls x.classes = true →
     opKeyed op = true → x.slot ≠ 0xF →
     newSeq x q.seq.toNat →
     op < 0xF000 →
     s.is SYSC_BOOT_RECOV = true → opRecovery op = true →
     s.checkParams op q.pay = some o →
     ∃ t, exec (i) s = .next t ∧
       s.Sends t x (replyOf op cls q x stBadParam (beBytes 2 o)) ∧
       (t.ctxOf q.ctx.val).map (fun (y : Ctx) => (y.h, y.expiry, lookupKey q.seq.toNat y.seen)) = some (newH x q.seq.toNat, s.tick + x.lease * 100000, some stBadParam) ∧
       t.kcp = { s.kcp with ctxs := t.kcp.ctxs, out := t.kcp.out, hspi := t.kcp.hspi } ∧
       s.OnlyRegs { t with kcp := s.kcp, evl := s.evl, fresh := s.fresh } [EVL_STATUS.addr]) ∧
  (∀ (s : State) (i : Instr) (op cls : Nat) (q : Req) (x : Ctx),
     requestOf i = some (op, cls, q) →
     s.Live q x →
     cls < 6 →
     bitOf cls x.classes = true →
     opKeyed op = true → x.slot ≠ 0xF →
     newSeq x q.seq.toNat →
     op < 0xF000 →
     s.is SYSC_BOOT_RECOV = true → opRecovery op = true →
     s.kcp.queues.length = 4 →
     2 ≤ cls →
     s.checkParams op q.pay = none →
     qDepth cls ≤ (s.queueOf cls).length →
     (s.queueOf cls).all (fun (r : KReq) => !(r.tok.handle == q.ctx.val * 256 + x.gen && r.tok.seq == q.seq.toNat)) = true →
     ∃ t, exec (i) s = .next t ∧
       s.Sends t x (replyOf op cls q x stQueueFull ([BitVec.ofNat 8 cls, BitVec.ofNat 8 0] ++ beBytes 2 (min 0xFFFF (s.hint cls)))) ∧
       (t.ctxOf q.ctx.val).map (fun (y : Ctx) => (y.h, y.expiry, lookupKey q.seq.toNat y.seen)) = some (newH x q.seq.toNat, s.tick + x.lease * 100000, some stQueueFull) ∧
       t.queueOf cls = s.queueOf cls ∧
       s.OnlyRegs { t with kcp := s.kcp, evl := s.evl, fresh := s.fresh } [EVL_STATUS.addr]) ∧
  (∀ (s : State) (i : Instr) (op cls : Nat) (q : Req) (x : Ctx),
     requestOf i = some (op, cls, q) →
     s.Live q x →
     cls < 6 →
     bitOf cls x.classes = true →
     opKeyed op = true → x.slot ≠ 0xF →
     newSeq x q.seq.toNat →
     op < 0xF000 →
     s.is SYSC_BOOT_RECOV = true → opRecovery op = true →
     s.kcp.queues.length = 4 →
     2 ≤ cls →
     s.checkParams op q.pay = none →
     (s.queueOf cls).length < qDepth cls →
     s.qCap cls ≤ ((s.queueOf cls).filter (fun (r : KReq) => r.tok.handle == q.ctx.val * 256 + x.gen)).length →
     (s.queueOf cls).all (fun (r : KReq) => !(r.tok.handle == q.ctx.val * 256 + x.gen && r.tok.seq == q.seq.toNat)) = true →
     ∃ t, exec (i) s = .next t ∧
       s.Sends t x (replyOf op cls q x stQueueFull ([BitVec.ofNat 8 cls, BitVec.ofNat 8 1] ++ beBytes 2 (min 0xFFFF (s.hint cls)))) ∧
       (t.ctxOf q.ctx.val).map (fun (y : Ctx) => (y.h, y.expiry, lookupKey q.seq.toNat y.seen)) = some (newH x q.seq.toNat, s.tick + x.lease * 100000, some stQueueFull) ∧
       t.queueOf cls = s.queueOf cls ∧
       s.OnlyRegs { t with kcp := s.kcp, evl := s.evl, fresh := s.fresh } [EVL_STATUS.addr]) ∧
  (∀ (s : State) (i : Instr) (op cls : Nat) (q : Req) (x : Ctx),
     requestOf i = some (op, cls, q) →
     s.Live q x →
     cls < 6 →
     bitOf cls x.classes = true →
     opKeyed op = true → x.slot ≠ 0xF →
     newSeq x q.seq.toNat →
     op < 0xF000 →
     s.is SYSC_BOOT_RECOV = true → opRecovery op = true →
     s.kcp.queues.length = 4 →
     2 ≤ cls →
     s.checkParams op q.pay = none →
     (s.queueOf cls).length < qDepth cls →
     ((s.queueOf cls).filter (fun (r : KReq) => r.tok.handle == q.ctx.val * 256 + x.gen)).length < s.qCap cls →
     ∃ t, exec (i) s = .next t ∧
       t = ((s.admitted q x).setQueue cls (queueInsert ⟨tokOf q.ctx.val x op q.seq.toNat cls, s.tick, none, q.pay⟩ (s.queueOf cls))).departUpTo cls (q.ctx.val * 256 + x.gen) q.seq.toNat 64)

/-- OPEN on a permitted transport: a tag that does not fit, or a keyed slot without a tag, counts AUTHFAIL and is answered so; a
wrong length, slot, class mask or lease is answered BAD_PARAM with its offset, a nonce used before SEQ_REPLAY, and with no
context free, or the limit of unkeyed sessions reached, SESSION_TABLE_FULL; otherwise the context that the device allocates
holds the session, with the next generation (free for a context never used), its classes, lease, expiry and, with a key, its
session key, and the reply carries the handle and the device's nonce, which is free. RENEW sets the lease, or keeps it for 0,
and the expiry. CLOSE and a due lease end the session's leased instances with LEASE and its pending and queued requests,
withdraw its untaken setpoints, and drop its subscriptions, update, captures and reassembly. Elsewhere nothing changes (R37,
R354, R357 to R359, R362). -/
def Obligations.SessionsOpenRenewCloseAndExpire : Prop :=
  (∀ (s : State) (p : Fin 12) (peer : Nat) (seq : BitVec 16) (tag : Option (List Byte)) (pay : List Byte),
     s.kpRuns = false ∨ (s.is SYSC_BOOT_RECOV = true ∧ p.val ≠ 11) →
     ∃ t, exec (.openSession p peer seq tag pay) s = .next t ∧
       t = s) ∧
  (∀ (s : State) (p : Fin 12) (peer : Nat) (seq : BitVec 16) (tag : Option (List Byte)) (pay : List Byte),
     s.kpRuns = true →
     s.is SYSC_BOOT_RECOV = true → p.val = 11 →
     (match tag with | none => pay.isEmpty || decide (0xF ≤ (payU pay 0 1)) | some g => s.openTag seq.toNat g pay) = false →
     ∃ t, exec (.openSession p peer seq tag pay) s = .next t ∧
       t.get KCP_ERR0_AUTHFAIL = min (s.get KCP_ERR0_AUTHFAIL + 1) 65535 ∧
       t.kcp.ctxs = s.kcp.ctxs ∧
       t.kcp.nhs = s.kcp.nhs ∧
       s.Untagged t p.val peer (plainOf p.val 0 0x0101 seq.toNat 0 stAuthFail [])) ∧
  (∀ (s : State) (p : Fin 12) (peer : Nat) (seq : BitVec 16) (tag : Option (List Byte)) (pay : List Byte),
     s.kpRuns = true →
     s.is SYSC_BOOT_RECOV = true → p.val = 11 →
     (match tag with | none => pay.isEmpty || decide (0xF ≤ (payU pay 0 1)) | some g => s.openTag seq.toNat g pay) = true →
     pay.length ≠ 20 →
     ∃ t, exec (.openSession p peer seq tag pay) s = .next t ∧
       t.kcp.ctxs = s.kcp.ctxs ∧
       t.kcp.nhs = s.kcp.nhs ∧
       s.SendsTo t p.val peer (plainOf p.val 0 0x0101 seq.toNat 0 stBadParam (beBytes 2 0xFFFF)) ∧
       s.OnlyRegs { t with kcp := s.kcp } []) ∧
  (∀ (s : State) (p : Fin 12) (peer : Nat) (seq : BitVec 16) (tag : Option (List Byte)) (pay : List Byte),
     s.kpRuns = true →
     s.is SYSC_BOOT_RECOV = true → p.val = 11 →
     (match tag with | none => pay.isEmpty || decide (0xF ≤ (payU pay 0 1)) | some g => s.openTag seq.toNat g pay) = true →
     pay.length = 20 →
     0xF < (payU pay 0 1) →
     ∃ t, exec (.openSession p peer seq tag pay) s = .next t ∧
       t.kcp.ctxs = s.kcp.ctxs ∧
       t.kcp.nhs = s.kcp.nhs ∧
       s.SendsTo t p.val peer (plainOf p.val 0 0x0101 seq.toNat 0 stBadParam (beBytes 2 0)) ∧
       s.OnlyRegs { t with kcp := s.kcp } []) ∧
  (∀ (s : State) (p : Fin 12) (peer : Nat) (seq : BitVec 16) (tag : Option (List Byte)) (pay : List Byte),
     s.kpRuns = true →
     s.is SYSC_BOOT_RECOV = true → p.val = 11 →
     (match tag with | none => pay.isEmpty || decide (0xF ≤ (payU pay 0 1)) | some g => s.openTag seq.toNat g pay) = true →
     pay.length = 20 →
     (payU pay 0 1) ≤ 0xF →
     (payU pay 1 1) &&& 0xC1 ≠ 0 →
     ∃ t, exec (.openSession p peer seq tag pay) s = .next t ∧
       t.kcp.ctxs = s.kcp.ctxs ∧
       t.kcp.nhs = s.kcp.nhs ∧
       s.SendsTo t p.val peer (plainOf p.val 0 0x0101 seq.toNat 0 stBadParam (beBytes 2 1)) ∧
       s.OnlyRegs { t with kcp := s.kcp } []) ∧
  (∀ (s : State) (p : Fin 12) (peer : Nat) (seq : BitVec 16) (tag : Option (List Byte)) (pay : List Byte),
     s.kpRuns = true →
     s.is SYSC_BOOT_RECOV = true → p.val = 11 →
     (match tag with | none => pay.isEmpty || decide (0xF ≤ (payU pay 0 1)) | some g => s.openTag seq.toNat g pay) = true →
     pay.length = 20 →
     (payU pay 0 1) ≤ 0xF →
     (payU pay 1 1) &&& 0xC1 = 0 →
     (payU pay 2 2) < 100 ∨ 60000 < (payU pay 2 2) →
     ∃ t, exec (.openSession p peer seq tag pay) s = .next t ∧
       t.kcp.ctxs = s.kcp.ctxs ∧
       t.kcp.nhs = s.kcp.nhs ∧
       s.SendsTo t p.val peer (plainOf p.val 0 0x0101 seq.toNat 0 stBadParam (beBytes 2 2)) ∧
       s.OnlyRegs { t with kcp := s.kcp } []) ∧
  (∀ (s : State) (p : Fin 12) (peer : Nat) (seq : BitVec 16) (tag : Option (List Byte)) (pay : List Byte),
     s.kpRuns = true →
     s.is SYSC_BOOT_RECOV = true → p.val = 11 →
     (match tag with | none => pay.isEmpty || decide (0xF ≤ (payU pay 0 1)) | some g => s.openTag seq.toNat g pay) = true →
     pay.length = 20 →
     (payU pay 0 1) ≤ 0xF →
     (payU pay 1 1) &&& 0xC1 = 0 →
     100 ≤ (payU pay 2 2) →
     (payU pay 2 2) ≤ 60000 →
     ((s.kcp.nhs.filter (fun (e : Nat × List Byte) => e.1 == (payU pay 0 1))).take 256).any (fun (e : Nat × List Byte) => e.2 == pay.drop 4) = true →
     ∃ t, exec (.openSession p peer seq tag pay) s = .next t ∧
       t.kcp.ctxs = s.kcp.ctxs ∧
       t.kcp.nhs = s.kcp.nhs ∧
       s.SendsTo t p.val peer (plainOf p.val 0 0x0101 seq.toNat 0 stSeqReplay (beBytes 2 0xFFFF)) ∧
       t.get KCP_ERR0_SEQREPLAY = min (s.get KCP_ERR0_SEQREPLAY + 1) 65535) ∧
  (∀ (s : State) (p : Fin 12) (peer : Nat) (seq : BitVec 16) (tag : Option (List Byte)) (pay : List Byte),
     s.kpRuns = true →
     s.is SYSC_BOOT_RECOV = true → p.val = 11 →
     (match tag with | none => pay.isEmpty || decide (0xF ≤ (payU pay 0 1)) | some g => s.openTag seq.toNat g pay) = true →
     pay.length = 20 →
     (payU pay 0 1) ≤ 0xF →
     (payU pay 1 1) &&& 0xC1 = 0 →
     100 ≤ (payU pay 2 2) →
     (payU pay 2 2) ≤ 60000 →
     ((s.kcp.nhs.filter (fun (e : Nat × List Byte) => e.1 == (payU pay 0 1))).take 256).any (fun (e : Nat × List Byte) => e.2 == pay.drop 4) = false →
     ¬((payU pay 0 1) = 0xF → s.unauthCtxs.length < s.get KCP_CFG_UNAUTH_MAX) ∨ s.allocate = none →
     ∃ t, exec (.openSession p peer seq tag pay) s = .next t ∧
       t.kcp.ctxs = s.kcp.ctxs ∧
       t.kcp.nhs = s.kcp.nhs ∧
       s.SendsTo t p.val peer (plainOf p.val 0 0x0101 seq.toNat 0 stTableFull s.tableFields) ∧
       s.OnlyRegs { t with kcp := s.kcp, fresh := s.fresh } []) ∧
  (∀ (s : State) (p : Fin 12) (peer : Nat) (seq : BitVec 16) (tag : Option (List Byte)) (pay : List Byte) (c : Nat),
     s.kpRuns = true →
     s.is SYSC_BOOT_RECOV = true → p.val = 11 →
     (match tag with | none => pay.isEmpty || decide (0xF ≤ (payU pay 0 1)) | some g => s.openTag seq.toNat g pay) = true →
     (tag = none → s.kcp.keys.find? (fun (e : Nat × List Byte × Nat) => e.1 == (payU pay 0 1)) = none) →
     pay.length = 20 →
     (payU pay 0 1) ≤ 0xF →
     (payU pay 1 1) &&& 0xC1 = 0 →
     100 ≤ (payU pay 2 2) →
     (payU pay 2 2) ≤ 60000 →
     ((s.kcp.nhs.filter (fun (e : Nat × List Byte) => e.1 == (payU pay 0 1))).take 256).any (fun (e : Nat × List Byte) => e.2 == pay.drop 4) = false →
     ((payU pay 0 1) = 0xF → s.unauthCtxs.length < s.get KCP_CFG_UNAUTH_MAX) →
     s.allocate = some c →
     s.ctxOf c = none →
     ∃ t, exec (.openSession p peer seq tag pay) s = .next t ∧
       (t.ctxOf c).map (fun (o : Ctx) => (o.gen, o.live, o.tport, o.peer, o.slot)) = some ((if (s.freeNat % 255 + 1) = 255 then 1 else (s.freeNat % 255 + 1) + 1), true, p.val, peer, (payU pay 0 1)) ∧
       (t.ctxOf c).map (fun (o : Ctx) => (o.classes, o.lease, o.expiry)) = some ((((payU pay 1 1) &&& (match s.kcp.keys.find? (fun (e : Nat × List Byte × Nat) => e.1 == (payU pay 0 1)) with | some k => k.2.2 | none => 2 * s.get KCP_CFG_UNAUTH_CLS)) &&& 0x3E) + 1, (payU pay 2 2), s.tick + (payU pay 2 2) * 100000) ∧
       (t.ctxOf c).map (fun (o : Ctx) => (o.h, o.seen, o.ntf)) = some (seq.toNat, [(seq.toNat, stOk)], 1) ∧
       (t.ctxOf c).map (fun (o : Ctx) => (o.restored, o.subs, o.ks.isSome)) = some (false, [], tag.isSome) ∧
       ∃ nd : List Byte, nd.length = 16 ∧ (t.ctxOf c).bind (fun (o : Ctx) => o.ks) = (s.kcp.keys.find? (fun (e : Nat × List Byte × Nat) => e.1 == (payU pay 0 1))).map (fun (k : Nat × List Byte × Nat) => sessionKey k.2.1 (pay.drop 4) nd (c * 256 + (if (s.freeNat % 255 + 1) = 255 then 1 else (s.freeNat % 255 + 1) + 1))) ∧ s.SendsTo t p.val peer (frames p.val ((t.ctxOf c).bind (fun (o : Ctx) => o.ks)) ⟨c * 256 + (if (s.freeNat % 255 + 1) = 255 then 1 else (s.freeNat % 255 + 1) + 1), 0x8101, seq.toNat, 0, false, false, true, 24⟩ 25 0 (beBytes 2 stOk ++ (beBytes 2 (c * 256 + (if (s.freeNat % 255 + 1) = 255 then 1 else (s.freeNat % 255 + 1) + 1)) ++ beBytes 2 (payU pay 2 2) ++ nd ++ [BitVec.ofNat 8 (((payU pay 1 1) &&& (match s.kcp.keys.find? (fun (e : Nat × List Byte × Nat) => e.1 == (payU pay 0 1)) with | some k => k.2.2 | none => 2 * s.get KCP_CFG_UNAUTH_CLS)) &&& 0x3E), 0]))) ∧
       t.kcp.nhs = ((payU pay 0 1), pay.drop 4) :: (s.kcp.nhs.filter (fun (e : Nat × List Byte) => e.1 == (payU pay 0 1))).take 255 ++ s.kcp.nhs.filter (fun (e : Nat × List Byte) => e.1 != (payU pay 0 1))) ∧
  (∀ (s : State) (p : Fin 12) (peer : Nat) (seq : BitVec 16) (tag : Option (List Byte)) (pay : List Byte) (c : Nat) (y : Ctx),
     s.kpRuns = true →
     s.is SYSC_BOOT_RECOV = true → p.val = 11 →
     (match tag with | none => pay.isEmpty || decide (0xF ≤ (payU pay 0 1)) | some g => s.openTag seq.toNat g pay) = true →
     (tag = none → s.kcp.keys.find? (fun (e : Nat × List Byte × Nat) => e.1 == (payU pay 0 1)) = none) →
     pay.length = 20 →
     (payU pay 0 1) ≤ 0xF →
     (payU pay 1 1) &&& 0xC1 = 0 →
     100 ≤ (payU pay 2 2) →
     (payU pay 2 2) ≤ 60000 →
     ((s.kcp.nhs.filter (fun (e : Nat × List Byte) => e.1 == (payU pay 0 1))).take 256).any (fun (e : Nat × List Byte) => e.2 == pay.drop 4) = false →
     ((payU pay 0 1) = 0xF → s.unauthCtxs.length < s.get KCP_CFG_UNAUTH_MAX) →
     s.allocate = some c →
     s.ctxOf c = some y →
     ∃ t, exec (.openSession p peer seq tag pay) s = .next t ∧
       (t.ctxOf c).map (fun (o : Ctx) => (o.gen, o.live, o.tport, o.peer, o.slot)) = some ((if y.gen = 255 then 1 else y.gen + 1), true, p.val, peer, (payU pay 0 1)) ∧
       (t.ctxOf c).map (fun (o : Ctx) => (o.classes, o.lease, o.expiry)) = some ((((payU pay 1 1) &&& (match s.kcp.keys.find? (fun (e : Nat × List Byte × Nat) => e.1 == (payU pay 0 1)) with | some k => k.2.2 | none => 2 * s.get KCP_CFG_UNAUTH_CLS)) &&& 0x3E) + 1, (payU pay 2 2), s.tick + (payU pay 2 2) * 100000) ∧
       (t.ctxOf c).map (fun (o : Ctx) => (o.h, o.seen, o.ntf)) = some (seq.toNat, [(seq.toNat, stOk)], 1) ∧
       (t.ctxOf c).map (fun (o : Ctx) => (o.restored, o.subs, o.ks.isSome)) = some (false, [], tag.isSome) ∧
       ∃ nd : List Byte, nd.length = 16 ∧ (t.ctxOf c).bind (fun (o : Ctx) => o.ks) = (s.kcp.keys.find? (fun (e : Nat × List Byte × Nat) => e.1 == (payU pay 0 1))).map (fun (k : Nat × List Byte × Nat) => sessionKey k.2.1 (pay.drop 4) nd (c * 256 + (if y.gen = 255 then 1 else y.gen + 1))) ∧ s.SendsTo t p.val peer (frames p.val ((t.ctxOf c).bind (fun (o : Ctx) => o.ks)) ⟨c * 256 + (if y.gen = 255 then 1 else y.gen + 1), 0x8101, seq.toNat, 0, false, false, true, 24⟩ 25 0 (beBytes 2 stOk ++ (beBytes 2 (c * 256 + (if y.gen = 255 then 1 else y.gen + 1)) ++ beBytes 2 (payU pay 2 2) ++ nd ++ [BitVec.ofNat 8 (((payU pay 1 1) &&& (match s.kcp.keys.find? (fun (e : Nat × List Byte × Nat) => e.1 == (payU pay 0 1)) with | some k => k.2.2 | none => 2 * s.get KCP_CFG_UNAUTH_CLS)) &&& 0x3E), 0]))) ∧
       t.kcp.nhs = ((payU pay 0 1), pay.drop 4) :: (s.kcp.nhs.filter (fun (e : Nat × List Byte) => e.1 == (payU pay 0 1))).take 255 ++ s.kcp.nhs.filter (fun (e : Nat × List Byte) => e.1 != (payU pay 0 1))) ∧
  (∀ (s : State) (q : Req) (x : Ctx),
     s.Open 0x0103 0 q x →
     q.pay.length = 2 →
     payU q.pay 0 2 = 0 ∨ (100 ≤ payU q.pay 0 2 ∧ payU q.pay 0 2 ≤ 60000) →
     ∃ t, exec (.renew q) s = .next t ∧
       (t.ctxOf q.ctx.val).map (fun (y : Ctx) => (y.lease, y.expiry, y.live, y.h)) = some ((if payU q.pay 0 2 = 0 then x.lease else payU q.pay 0 2), s.tick + (if payU q.pay 0 2 = 0 then x.lease else payU q.pay 0 2) * 100000, true, newH x q.seq.toNat) ∧
       s.Sends t x (replyOf 0x0103 0 q x stOk (beBytes 2 (if payU q.pay 0 2 = 0 then x.lease else payU q.pay 0 2)))) ∧
  (∀ (s : State) (q : Req) (x : Ctx),
     s.modes.owner.length = 12 →
     s.kcp.queues.length = 4 →
     s.Open 0x0102 0 q x →
     q.pay = [] →
     ∃ t, exec (.close q) s = .next t ∧
       (t.ctxOf q.ctx.val).map (fun (y : Ctx) => (y.isOpen, y.subs)) = some (false, []) ∧
       t.session (q.ctx.val * 256 + x.gen) = none ∧
       ∀ i ∈ leased, s.running i = true → s.ownerOf i = some (q.ctx.val * 256 + x.gen) → t.ramping i = true ∧ t.active i = true ∧ t.get (endFld i) = 2 ∧
       ∀ i : Fin 12, s.waiting i.val = true → s.ownerOf i.val = some (q.ctx.val * 256 + x.gen) → t.pendOf i.val = none ∧
       ∀ i : Fin 12, t.ownerOf i.val ≠ some (q.ctx.val * 256 + x.gen) ∧
       ∀ k : Fin 4, t.queueOf (k.val + 2) = (s.queueOf (k.val + 2)).filter (fun (r : KReq) => r.tok.handle != (q.ctx.val * 256 + x.gen)) ∧
       ∀ e ∈ t.kcp.c1, e.tok.handle = (q.ctx.val * 256 + x.gen) → e.drop ≠ none ∧
       t.kcp.fw.all (fun (f : FwUpd) => f.handle != (q.ctx.val * 256 + x.gen)) = true ∧
       t.kcp.caps = s.kcp.caps.filter (fun (e : CapReq) => !(e.fin && e.tok.handle == (q.ctx.val * 256 + x.gen))) ∧
       t.kcp.reasm = s.kcp.reasm.filter (fun (m : Reasm) => m.ctx != q.ctx.val) ∧
       s.modes.pend = [] → s.kcp.queues = [[], [], [], []] → s.kcp.c1 = [] → s.kcp.fw = none → s.Sends t x (replyOf 0x0102 0 q { x with restored := false } stOk [])) ∧
  (∀ (s : State) (c : Fin 256) (x : Ctx),
     s.modes.owner.length = 12 →
     s.kcp.queues.length = 4 →
     s.kpRuns = true →
     s.leaseDue c.val = true →
     s.ctxOf c.val = some x →
     ∃ t, exec (.leaseExpiry c) s = .next t ∧
       (t.ctxOf c.val).map (fun (y : Ctx) => (y.isOpen, y.gone, y.subs)) = some (true, true, []) ∧
       ∀ i ∈ leased, s.running i = true → s.ownerOf i = some (c.val * 256 + x.gen) → t.ramping i = true ∧ t.active i = true ∧ t.get (endFld i) = 2 ∧
       ∀ i : Fin 12, s.waiting i.val = true → s.ownerOf i.val = some (c.val * 256 + x.gen) → t.pendOf i.val = none ∧
       ∀ i : Fin 12, t.ownerOf i.val ≠ some (c.val * 256 + x.gen) ∧
       ∀ k : Fin 4, t.queueOf (k.val + 2) = (s.queueOf (k.val + 2)).filter (fun (r : KReq) => r.tok.handle != (c.val * 256 + x.gen)) ∧
       ∀ e ∈ t.kcp.c1, e.tok.handle = (c.val * 256 + x.gen) → e.drop ≠ none ∧
       t.kcp.fw.all (fun (f : FwUpd) => f.handle != (c.val * 256 + x.gen)) = true ∧
       t.kcp.caps = s.kcp.caps.filter (fun (e : CapReq) => !(e.fin && e.tok.handle == (c.val * 256 + x.gen))) ∧
       t.kcp.reasm = s.kcp.reasm.filter (fun (m : Reasm) => m.ctx != c.val)) ∧
  (∀ (s : State) (c : Fin 256),
     s.kpRuns = false ∨ s.leaseDue c.val = false →
     ∃ t, exec (.leaseExpiry c) s = .next t ∧
       t = s)

/-- A frame that its transport discards, or that is shorter than its header says, changes nothing; a wrong magic or reserved bit
only counts BADHDR, another version is answered BAD_PARAM; OPEN goes to session opening; a frame without a session of its peer
is answered BAD_SESSION, a wrong tag is counted and answered AUTH_FAIL; then the class and window checks; a frame of a message
in reassembly joins it, ends it with BAD_PARAM, or completes it; a new sequence is marked seen and its frame refused, kept in
a buffer, answered QUEUE_FULL without one, or dispatched, so that a good request enters its class queue with its deadline. A
message past its reassembly time is dropped and answered. An HSPI WRITE sets OVF or CRCERR, or keeps its frame, which KP
takes; a READ that clocks the CRC takes the oldest frame; STATUS shifts its word out and clears the flags (R352 to R355, R361
to R364, R367). -/
def Obligations.FramesAndHspiTransactions : Prop :=
  (∀ (s : State) (p : Fin 12) (peer : Nat) (f : List Byte),
     s.kpRuns = false ∨ f.length < 16 ∨ frameMax p.val < f.length ∨ (3 ≤ p.val ∧ p.val < 11 ∧ s.is (KCP_CAN_EN ((p.val - 3) % 4)) = false) ∨ (s.is SYSC_BOOT_RECOV = true ∧ p.val ≠ 11) →
     ∃ t, exec (.kcpFrameReceive p peer f) s = .next t ∧
       t = s) ∧
  (∀ (s : State) (p : Fin 12) (peer : Nat) (f : List Byte),
     s.kpRuns = true →
     16 ≤ f.length →
     f.length ≤ frameMax p.val →
     3 ≤ p.val → p.val < 11 → s.is (KCP_CAN_EN ((p.val - 3) % 4)) = true →
     s.is SYSC_BOOT_RECOV = true → p.val = 11 →
     payU f 0 1 ≠ 0xA5 ∨ bitOf 7 (payU f 8 1) = true ∨ bitOf 4 (payU f 8 1) = true ∨ bitOf 3 (payU f 8 1) = true ∨ payU f 14 2 ≠ 0 →
     ∃ t, exec (.kcpFrameReceive p peer f) s = .next t ∧
       t.get KCP_ERR1_BADHDR = min (s.get KCP_ERR1_BADHDR + 1) 65535 ∧
       s.OnlyRegs t [KCP_ERR1.addr]) ∧
  (∀ (s : State) (p : Fin 12) (peer : Nat) (f : List Byte) (r : RxFrame),
     s.kpRuns = true →
     16 ≤ f.length →
     f.length ≤ frameMax p.val →
     3 ≤ p.val → p.val < 11 → s.is (KCP_CAN_EN ((p.val - 3) % 4)) = true →
     s.is SYSC_BOOT_RECOV = true → p.val = 11 →
     payU f 0 1 = 0xA5 →
     bitOf 7 (payU f 8 1) = false →
     bitOf 4 (payU f 8 1) = false →
     bitOf 3 (payU f 8 1) = false →
     payU f 14 2 = 0 →
     r = kcpFrame p.val f →
     payU f 1 1 ≠ 2 →
     ∃ t, exec (.kcpFrameReceive p peer f) s = .next t ∧
       t.kcp.ctxs = s.kcp.ctxs ∧
       s.Untagged t p.val peer (plainOf p.val r.handle r.op r.seq r.cls stBadParam (beBytes 2 0xFFFF))) ∧
  (∀ (s : State) (p : Fin 12) (peer : Nat) (f : List Byte) (r : RxFrame),
     s.kpRuns = true →
     16 ≤ f.length →
     f.length ≤ frameMax p.val →
     3 ≤ p.val → p.val < 11 → s.is (KCP_CAN_EN ((p.val - 3) % 4)) = true →
     s.is SYSC_BOOT_RECOV = true → p.val = 11 →
     payU f 0 1 = 0xA5 →
     bitOf 7 (payU f 8 1) = false →
     bitOf 4 (payU f 8 1) = false →
     bitOf 3 (payU f 8 1) = false →
     payU f 14 2 = 0 →
     r = kcpFrame p.val f →
     payU f 1 1 = 2 →
     r.complete p.val = false →
     ∃ t, exec (.kcpFrameReceive p peer f) s = .next t ∧
       t = s) ∧
  (∀ (s : State) (p : Fin 12) (peer : Nat) (f : List Byte) (r : RxFrame),
     s.kpRuns = true →
     16 ≤ f.length →
     f.length ≤ frameMax p.val →
     3 ≤ p.val → p.val < 11 → s.is (KCP_CAN_EN ((p.val - 3) % 4)) = true →
     s.is SYSC_BOOT_RECOV = true → p.val = 11 →
     payU f 0 1 = 0xA5 →
     bitOf 7 (payU f 8 1) = false →
     bitOf 4 (payU f 8 1) = false →
     bitOf 3 (payU f 8 1) = false →
     payU f 14 2 = 0 →
     r = kcpFrame p.val f →
     payU f 1 1 = 2 →
     r.complete p.val = true →
     r.op = 0x0101 →
     ∃ t, exec (.kcpFrameReceive p peer f) s = .next t ∧
       t = s.openRequest p.val peer r.handle r.seq r.cls r.auth (match s.kcp.keys.find? (fun (e : Nat × List Byte × Nat) => e.1 == payU r.data 0 1) with | some k => tag8 k.2.1 r.signed == r.tag | none => false) (if r.more = true ∨ r.off ≠ 0 then [] else r.data)) ∧
  (∀ (s : State) (p : Fin 12) (peer : Nat) (f : List Byte) (r : RxFrame),
     s.kpRuns = true →
     16 ≤ f.length →
     f.length ≤ frameMax p.val →
     3 ≤ p.val → p.val < 11 → s.is (KCP_CAN_EN ((p.val - 3) % 4)) = true →
     s.is SYSC_BOOT_RECOV = true → p.val = 11 →
     payU f 0 1 = 0xA5 →
     bitOf 7 (payU f 8 1) = false →
     bitOf 4 (payU f 8 1) = false →
     bitOf 3 (payU f 8 1) = false →
     payU f 14 2 = 0 →
     r = kcpFrame p.val f →
     payU f 1 1 = 2 →
     r.complete p.val = true →
     r.op ≠ 0x0101 →
     ((s.leaseExpire (r.handle / 256)).session r.handle).all (fun (y : Ctx) => y.tport != p.val || y.peer != peer) = true →
     ∃ t, exec (.kcpFrameReceive p peer f) s = .next t ∧
       t.kcp.ctxs = (s.leaseExpire (r.handle / 256)).kcp.ctxs ∧
       (s.leaseExpire (r.handle / 256)).Untagged t p.val peer (plainOf p.val r.handle r.op r.seq r.cls stBadSession [])) ∧
  (∀ (s : State) (p : Fin 12) (peer : Nat) (f : List Byte) (r : RxFrame) (x : Ctx),
     s.kpRuns = true →
     16 ≤ f.length →
     f.length ≤ frameMax p.val →
     3 ≤ p.val → p.val < 11 → s.is (KCP_CAN_EN ((p.val - 3) % 4)) = true →
     s.is SYSC_BOOT_RECOV = true → p.val = 11 →
     payU f 0 1 = 0xA5 →
     bitOf 7 (payU f 8 1) = false →
     bitOf 4 (payU f 8 1) = false →
     bitOf 3 (payU f 8 1) = false →
     payU f 14 2 = 0 →
     r = kcpFrame p.val f →
     payU f 1 1 = 2 →
     r.complete p.val = true →
     r.op ≠ 0x0101 →
     (s.leaseExpire (r.handle / 256)).session r.handle = some x →
     x.tport = p.val →
     x.peer = peer →
     r.auth ≠ x.ks.isSome ∨ x.ks.all (fun k => tag8 k r.signed == r.tag) = false →
     ∃ t, exec (.kcpFrameReceive p peer f) s = .next t ∧
       t.kcp.ctxs = (s.leaseExpire (r.handle / 256)).kcp.ctxs ∧
       t.get KCP_ERR0_AUTHFAIL = min ((s.leaseExpire (r.handle / 256)).get KCP_ERR0_AUTHFAIL + 1) 65535 ∧
       (s.leaseExpire (r.handle / 256)).Untagged t p.val peer (plainOf p.val r.handle r.op r.seq r.cls stAuthFail [])) ∧
  (∀ (s : State) (p : Fin 12) (peer : Nat) (f : List Byte) (r : RxFrame) (x : Ctx) (tk : Tok),
     s.kpRuns = true →
     16 ≤ f.length →
     f.length ≤ frameMax p.val →
     3 ≤ p.val → p.val < 11 → s.is (KCP_CAN_EN ((p.val - 3) % 4)) = true →
     s.is SYSC_BOOT_RECOV = true → p.val = 11 →
     payU f 0 1 = 0xA5 →
     bitOf 7 (payU f 8 1) = false →
     bitOf 4 (payU f 8 1) = false →
     bitOf 3 (payU f 8 1) = false →
     payU f 14 2 = 0 →
     r = kcpFrame p.val f →
     payU f 1 1 = 2 →
     r.complete p.val = true →
     r.op ≠ 0x0101 →
     (s.leaseExpire (r.handle / 256)).session r.handle = some x →
     x.tport = p.val →
     x.peer = peer →
     r.auth = x.ks.isSome →
     x.ks.all (fun k => tag8 k r.signed == r.tag) = true →
     tk = tokOf (r.handle / 256) x r.op r.seq r.cls →
     6 ≤ r.cls →
     ∃ t, exec (.kcpFrameReceive p peer f) s = .next t ∧
       (t.ctxOf (r.handle / 256)).map (fun (y : Ctx) => (y.h, y.expiry, y.seen)) = some (x.h, x.expiry, x.seen) ∧
       t.kcp = { (s.leaseExpire (r.handle / 256)).kcp with ctxs := t.kcp.ctxs, out := t.kcp.out, hspi := t.kcp.hspi } ∧
       (s.leaseExpire (r.handle / 256)).Sends t x (frames tk.tport tk.ks ⟨tk.handle, tk.op ||| 0x8000, tk.seq, tk.cls, x.restored, false, true, (beBytes 2 stBadParam ++ (beBytes 2 0xFFFF)).length⟩ ((beBytes 2 stBadParam ++ (beBytes 2 0xFFFF)).length + 1) 0 (beBytes 2 stBadParam ++ (beBytes 2 0xFFFF)))) ∧
  (∀ (s : State) (p : Fin 12) (peer : Nat) (f : List Byte) (r : RxFrame) (x : Ctx) (tk : Tok),
     s.kpRuns = true →
     16 ≤ f.length →
     f.length ≤ frameMax p.val →
     3 ≤ p.val → p.val < 11 → s.is (KCP_CAN_EN ((p.val - 3) % 4)) = true →
     s.is SYSC_BOOT_RECOV = true → p.val = 11 →
     payU f 0 1 = 0xA5 →
     bitOf 7 (payU f 8 1) = false →
     bitOf 4 (payU f 8 1) = false →
     bitOf 3 (payU f 8 1) = false →
     payU f 14 2 = 0 →
     r = kcpFrame p.val f →
     payU f 1 1 = 2 →
     r.complete p.val = true →
     r.op ≠ 0x0101 →
     (s.leaseExpire (r.handle / 256)).session r.handle = some x →
     x.tport = p.val →
     x.peer = peer →
     r.auth = x.ks.isSome →
     x.ks.all (fun k => tag8 k r.signed == r.tag) = true →
     tk = tokOf (r.handle / 256) x r.op r.seq r.cls →
     r.cls < 6 →
     bitOf r.cls x.classes = false ∨ (opKeyed r.op = true ∧ x.slot = 0xF) →
     ∃ t, exec (.kcpFrameReceive p peer f) s = .next t ∧
       (t.ctxOf (r.handle / 256)).map (fun (y : Ctx) => (y.h, y.expiry, y.seen)) = some (x.h, x.expiry, x.seen) ∧
       t.kcp = { (s.leaseExpire (r.handle / 256)).kcp with ctxs := t.kcp.ctxs, out := t.kcp.out, hspi := t.kcp.hspi } ∧
       t.get KCP_ERR0_AUTHFAIL = min ((s.leaseExpire (r.handle / 256)).get KCP_ERR0_AUTHFAIL + 1) 65535 ∧
       (s.leaseExpire (r.handle / 256)).Sends t x (frames tk.tport tk.ks ⟨tk.handle, tk.op ||| 0x8000, tk.seq, tk.cls, x.restored, false, true, (beBytes 2 stAuthFail ++ []).length⟩ ((beBytes 2 stAuthFail ++ []).length + 1) 0 (beBytes 2 stAuthFail ++ []))) ∧
  (∀ (s : State) (p : Fin 12) (peer : Nat) (f : List Byte) (r : RxFrame) (x : Ctx) (tk : Tok) (st : Nat),
     s.kpRuns = true →
     16 ≤ f.length →
     f.length ≤ frameMax p.val →
     3 ≤ p.val → p.val < 11 → s.is (KCP_CAN_EN ((p.val - 3) % 4)) = true →
     s.is SYSC_BOOT_RECOV = true → p.val = 11 →
     payU f 0 1 = 0xA5 →
     bitOf 7 (payU f 8 1) = false →
     bitOf 4 (payU f 8 1) = false →
     bitOf 3 (payU f 8 1) = false →
     payU f 14 2 = 0 →
     r = kcpFrame p.val f →
     payU f 1 1 = 2 →
     r.complete p.val = true →
     r.op ≠ 0x0101 →
     (s.leaseExpire (r.handle / 256)).session r.handle = some x →
     x.tport = p.val →
     x.peer = peer →
     r.auth = x.ks.isSome →
     x.ks.all (fun k => tag8 k r.signed == r.tag) = true →
     tk = tokOf (r.handle / 256) x r.op r.seq r.cls →
     r.cls < 6 →
     bitOf r.cls x.classes = true →
     opKeyed r.op = true → x.slot ≠ 0xF →
     (s.leaseExpire (r.handle / 256)).reasmOf (r.handle / 256) r.seq = none →
     seqDist x.h r.seq = 0 ∨ 65473 ≤ seqDist x.h r.seq →
     lookupKey r.seq x.seen = some st →
     ∃ t, exec (.kcpFrameReceive p peer f) s = .next t ∧
       (t.ctxOf (r.handle / 256)).map (fun (y : Ctx) => (y.h, y.expiry, y.seen)) = some (x.h, x.expiry, x.seen) ∧
       t.kcp = { (s.leaseExpire (r.handle / 256)).kcp with ctxs := t.kcp.ctxs, out := t.kcp.out, hspi := t.kcp.hspi } ∧
       t.get KCP_ERR0_SEQREPLAY = min ((s.leaseExpire (r.handle / 256)).get KCP_ERR0_SEQREPLAY + 1) 65535 ∧
       (s.leaseExpire (r.handle / 256)).Sends t x (frames tk.tport tk.ks ⟨tk.handle, tk.op ||| 0x8000, tk.seq, tk.cls, x.restored, false, true, (beBytes 2 stSeqReplay ++ (beBytes 2 st)).length⟩ ((beBytes 2 stSeqReplay ++ (beBytes 2 st)).length + 1) 0 (beBytes 2 stSeqReplay ++ (beBytes 2 st)))) ∧
  (∀ (s : State) (p : Fin 12) (peer : Nat) (f : List Byte) (r : RxFrame) (x : Ctx) (tk : Tok),
     s.kpRuns = true →
     16 ≤ f.length →
     f.length ≤ frameMax p.val →
     3 ≤ p.val → p.val < 11 → s.is (KCP_CAN_EN ((p.val - 3) % 4)) = true →
     s.is SYSC_BOOT_RECOV = true → p.val = 11 →
     payU f 0 1 = 0xA5 →
     bitOf 7 (payU f 8 1) = false →
     bitOf 4 (payU f 8 1) = false →
     bitOf 3 (payU f 8 1) = false →
     payU f 14 2 = 0 →
     r = kcpFrame p.val f →
     payU f 1 1 = 2 →
     r.complete p.val = true →
     r.op ≠ 0x0101 →
     (s.leaseExpire (r.handle / 256)).session r.handle = some x →
     x.tport = p.val →
     x.peer = peer →
     r.auth = x.ks.isSome →
     x.ks.all (fun k => tag8 k r.signed == r.tag) = true →
     tk = tokOf (r.handle / 256) x r.op r.seq r.cls →
     r.cls < 6 →
     bitOf r.cls x.classes = true →
     opKeyed r.op = true → x.slot ≠ 0xF →
     (s.leaseExpire (r.handle / 256)).reasmOf (r.handle / 256) r.seq = none →
     32768 ≤ seqDist x.h r.seq →
     seqDist x.h r.seq < 65473 →
     ∃ t, exec (.kcpFrameReceive p peer f) s = .next t ∧
       (t.ctxOf (r.handle / 256)).map (fun (y : Ctx) => (y.h, y.expiry, y.seen)) = some (x.h, x.expiry, x.seen) ∧
       t.kcp = { (s.leaseExpire (r.handle / 256)).kcp with ctxs := t.kcp.ctxs, out := t.kcp.out, hspi := t.kcp.hspi } ∧
       t.get KCP_ERR0_SEQREPLAY = min ((s.leaseExpire (r.handle / 256)).get KCP_ERR0_SEQREPLAY + 1) 65535 ∧
       (s.leaseExpire (r.handle / 256)).Sends t x (frames tk.tport tk.ks ⟨tk.handle, tk.op ||| 0x8000, tk.seq, tk.cls, x.restored, false, true, (beBytes 2 stSeqReplay ++ (beBytes 2 0xFFFF)).length⟩ ((beBytes 2 stSeqReplay ++ (beBytes 2 0xFFFF)).length + 1) 0 (beBytes 2 stSeqReplay ++ (beBytes 2 0xFFFF)))) ∧
  (∀ (s : State) (p : Fin 12) (peer : Nat) (f : List Byte) (r : RxFrame) (x : Ctx) (tk : Tok) (st : Nat) (fs : List Byte),
     s.kpRuns = true →
     16 ≤ f.length →
     f.length ≤ frameMax p.val →
     3 ≤ p.val → p.val < 11 → s.is (KCP_CAN_EN ((p.val - 3) % 4)) = true →
     s.is SYSC_BOOT_RECOV = true → p.val = 11 →
     payU f 0 1 = 0xA5 →
     bitOf 7 (payU f 8 1) = false →
     bitOf 4 (payU f 8 1) = false →
     bitOf 3 (payU f 8 1) = false →
     payU f 14 2 = 0 →
     r = kcpFrame p.val f →
     payU f 1 1 = 2 →
     r.complete p.val = true →
     r.op ≠ 0x0101 →
     (s.leaseExpire (r.handle / 256)).session r.handle = some x →
     x.tport = p.val →
     x.peer = peer →
     r.auth = x.ks.isSome →
     x.ks.all (fun k => tag8 k r.signed == r.tag) = true →
     tk = tokOf (r.handle / 256) x r.op r.seq r.cls →
     r.cls < 6 →
     bitOf r.cls x.classes = true →
     opKeyed r.op = true → x.slot ≠ 0xF →
     (s.leaseExpire (r.handle / 256)).reasmOf (r.handle / 256) r.seq = none →
     newSeq x r.seq →
     (s.leaseExpire (r.handle / 256)).opRefusal tk = some (st, fs) →
     ∃ t, exec (.kcpFrameReceive p peer f) s = .next t ∧
       (t.ctxOf (r.handle / 256)).map (fun (y : Ctx) => (y.h, y.expiry, lookupKey r.seq y.seen)) = some (newH x r.seq, s.tick + x.lease * 100000, some st) ∧
       t.kcp = { (s.leaseExpire (r.handle / 256)).kcp with ctxs := t.kcp.ctxs, out := t.kcp.out, hspi := t.kcp.hspi } ∧
       (s.leaseExpire (r.handle / 256)).Sends t x (frames tk.tport tk.ks ⟨tk.handle, tk.op ||| 0x8000, tk.seq, tk.cls, x.restored, false, true, (beBytes 2 st ++ fs).length⟩ ((beBytes 2 st ++ fs).length + 1) 0 (beBytes 2 st ++ fs))) ∧
  (∀ (s : State) (p : Fin 12) (peer : Nat) (f : List Byte) (r : RxFrame) (x : Ctx) (tk : Tok),
     s.kpRuns = true →
     16 ≤ f.length →
     f.length ≤ frameMax p.val →
     3 ≤ p.val → p.val < 11 → s.is (KCP_CAN_EN ((p.val - 3) % 4)) = true →
     s.is SYSC_BOOT_RECOV = true → p.val = 11 →
     payU f 0 1 = 0xA5 →
     bitOf 7 (payU f 8 1) = false →
     bitOf 4 (payU f 8 1) = false →
     bitOf 3 (payU f 8 1) = false →
     payU f 14 2 = 0 →
     r = kcpFrame p.val f →
     payU f 1 1 = 2 →
     r.complete p.val = true →
     r.op ≠ 0x0101 →
     (s.leaseExpire (r.handle / 256)).session r.handle = some x →
     x.tport = p.val →
     x.peer = peer →
     r.auth = x.ks.isSome →
     x.ks.all (fun k => tag8 k r.signed == r.tag) = true →
     tk = tokOf (r.handle / 256) x r.op r.seq r.cls →
     r.cls < 6 →
     bitOf r.cls x.classes = true →
     opKeyed r.op = true → x.slot ≠ 0xF →
     (s.leaseExpire (r.handle / 256)).reasmOf (r.handle / 256) r.seq = none →
     newSeq x r.seq →
     (s.leaseExpire (r.handle / 256)).opRefusal tk = none →
     r.fits p.val = false →
     ∃ t, exec (.kcpFrameReceive p peer f) s = .next t ∧
       (t.ctxOf (r.handle / 256)).map (fun (y : Ctx) => (y.h, y.expiry, lookupKey r.seq y.seen)) = some (newH x r.seq, s.tick + x.lease * 100000, some stBadParam) ∧
       t.kcp = { (s.leaseExpire (r.handle / 256)).kcp with ctxs := t.kcp.ctxs, out := t.kcp.out, hspi := t.kcp.hspi } ∧
       (s.leaseExpire (r.handle / 256)).Sends t x (frames tk.tport tk.ks ⟨tk.handle, tk.op ||| 0x8000, tk.seq, tk.cls, x.restored, false, true, (beBytes 2 stBadParam ++ (beBytes 2 0xFFFF)).length⟩ ((beBytes 2 stBadParam ++ (beBytes 2 0xFFFF)).length + 1) 0 (beBytes 2 stBadParam ++ (beBytes 2 0xFFFF)))) ∧
  (∀ (s : State) (p : Fin 12) (peer : Nat) (f : List Byte) (r : RxFrame) (x : Ctx) (tk : Tok),
     s.kpRuns = true →
     16 ≤ f.length →
     f.length ≤ frameMax p.val →
     3 ≤ p.val → p.val < 11 → s.is (KCP_CAN_EN ((p.val - 3) % 4)) = true →
     s.is SYSC_BOOT_RECOV = true → p.val = 11 →
     payU f 0 1 = 0xA5 →
     bitOf 7 (payU f 8 1) = false →
     bitOf 4 (payU f 8 1) = false →
     bitOf 3 (payU f 8 1) = false →
     payU f 14 2 = 0 →
     r = kcpFrame p.val f →
     payU f 1 1 = 2 →
     r.complete p.val = true →
     r.op ≠ 0x0101 →
     (s.leaseExpire (r.handle / 256)).session r.handle = some x →
     x.tport = p.val →
     x.peer = peer →
     r.auth = x.ks.isSome →
     x.ks.all (fun k => tag8 k r.signed == r.tag) = true →
     tk = tokOf (r.handle / 256) x r.op r.seq r.cls →
     r.cls < 6 →
     bitOf r.cls x.classes = true →
     opKeyed r.op = true → x.slot ≠ 0xF →
     (s.leaseExpire (r.handle / 256)).reasmOf (r.handle / 256) r.seq = none →
     newSeq x r.seq →
     (s.leaseExpire (r.handle / 256)).opRefusal tk = none →
     r.fits p.val = true →
     r.off = 0 →
     r.more = false →
     ∃ t, exec (.kcpFrameReceive p peer f) s = .next t ∧
       t = ((s.leaseExpire (r.handle / 256)).markSeen (r.handle / 256) (newH x r.seq) r.seq x).dispatch tk r.data r.ms) ∧
  (∀ (s : State) (p : Fin 12) (peer : Nat) (f : List Byte) (r : RxFrame) (x : Ctx) (tk : Tok),
     s.kpRuns = true →
     16 ≤ f.length →
     f.length ≤ frameMax p.val →
     3 ≤ p.val → p.val < 11 → s.is (KCP_CAN_EN ((p.val - 3) % 4)) = true →
     s.is SYSC_BOOT_RECOV = true → p.val = 11 →
     payU f 0 1 = 0xA5 →
     bitOf 7 (payU f 8 1) = false →
     bitOf 4 (payU f 8 1) = false →
     bitOf 3 (payU f 8 1) = false →
     payU f 14 2 = 0 →
     r = kcpFrame p.val f →
     payU f 1 1 = 2 →
     r.complete p.val = true →
     r.op ≠ 0x0101 →
     (s.leaseExpire (r.handle / 256)).session r.handle = some x →
     x.tport = p.val →
     x.peer = peer →
     r.auth = x.ks.isSome →
     x.ks.all (fun k => tag8 k r.signed == r.tag) = true →
     tk = tokOf (r.handle / 256) x r.op r.seq r.cls →
     r.cls < 6 →
     bitOf r.cls x.classes = true →
     opKeyed r.op = true → x.slot ≠ 0xF →
     (s.leaseExpire (r.handle / 256)).reasmOf (r.handle / 256) r.seq = none →
     newSeq x r.seq →
     (s.leaseExpire (r.handle / 256)).opRefusal tk = none →
     r.fits p.val = true →
     r.off ≠ 0 ∨ r.more = true →
     16 ≤ (s.leaseExpire (r.handle / 256)).kcp.reasm.length →
     ∃ t, exec (.kcpFrameReceive p peer f) s = .next t ∧
       (t.ctxOf (r.handle / 256)).map (fun (y : Ctx) => (y.h, y.expiry, lookupKey r.seq y.seen)) = some (newH x r.seq, s.tick + x.lease * 100000, some stQueueFull) ∧
       t.kcp = { (s.leaseExpire (r.handle / 256)).kcp with ctxs := t.kcp.ctxs, out := t.kcp.out, hspi := t.kcp.hspi } ∧
       (s.leaseExpire (r.handle / 256)).Sends t x (frames tk.tport tk.ks ⟨tk.handle, tk.op ||| 0x8000, tk.seq, tk.cls, x.restored, false, true, (beBytes 2 stQueueFull ++ ([BitVec.ofNat 8 r.cls, BitVec.ofNat 8 2] ++ beBytes 2 (min 0xFFFF (s.leaseExpire (r.handle / 256)).reasmHint))).length⟩ ((beBytes 2 stQueueFull ++ ([BitVec.ofNat 8 r.cls, BitVec.ofNat 8 2] ++ beBytes 2 (min 0xFFFF (s.leaseExpire (r.handle / 256)).reasmHint))).length + 1) 0 (beBytes 2 stQueueFull ++ ([BitVec.ofNat 8 r.cls, BitVec.ofNat 8 2] ++ beBytes 2 (min 0xFFFF (s.leaseExpire (r.handle / 256)).reasmHint))))) ∧
  (∀ (s : State) (p : Fin 12) (peer : Nat) (f : List Byte) (r : RxFrame) (x : Ctx) (tk : Tok),
     s.kpRuns = true →
     16 ≤ f.length →
     f.length ≤ frameMax p.val →
     3 ≤ p.val → p.val < 11 → s.is (KCP_CAN_EN ((p.val - 3) % 4)) = true →
     s.is SYSC_BOOT_RECOV = true → p.val = 11 →
     payU f 0 1 = 0xA5 →
     bitOf 7 (payU f 8 1) = false →
     bitOf 4 (payU f 8 1) = false →
     bitOf 3 (payU f 8 1) = false →
     payU f 14 2 = 0 →
     r = kcpFrame p.val f →
     payU f 1 1 = 2 →
     r.complete p.val = true →
     r.op ≠ 0x0101 →
     (s.leaseExpire (r.handle / 256)).session r.handle = some x →
     x.tport = p.val →
     x.peer = peer →
     r.auth = x.ks.isSome →
     x.ks.all (fun k => tag8 k r.signed == r.tag) = true →
     tk = tokOf (r.handle / 256) x r.op r.seq r.cls →
     r.cls < 6 →
     bitOf r.cls x.classes = true →
     opKeyed r.op = true → x.slot ≠ 0xF →
     (s.leaseExpire (r.handle / 256)).reasmOf (r.handle / 256) r.seq = none →
     newSeq x r.seq →
     (s.leaseExpire (r.handle / 256)).opRefusal tk = none →
     r.fits p.val = true →
     r.off ≠ 0 ∨ r.more = true →
     (s.leaseExpire (r.handle / 256)).kcp.reasm.length < 16 →
     ∃ t, exec (.kcpFrameReceive p peer f) s = .next t ∧
       t.kcp.reasm = (s.leaseExpire (r.handle / 256)).kcp.reasm ++ [⟨r.handle / 256, rxHdr r, [(r.off, r.data, r.more)], s.tick⟩] ∧
       (t.ctxOf (r.handle / 256)).map (fun (y : Ctx) => (y.h, y.expiry, lookupKey r.seq y.seen)) = some (newH x r.seq, s.tick + x.lease * 100000, some stPending) ∧
       t.kcp.out = (s.leaseExpire (r.handle / 256)).kcp.out) ∧
  (∀ (s : State) (p : Fin 12) (peer : Nat) (f : List Byte) (r : RxFrame) (x : Ctx) (tk : Tok) (m : Reasm),
     s.kpRuns = true →
     16 ≤ f.length →
     f.length ≤ frameMax p.val →
     3 ≤ p.val → p.val < 11 → s.is (KCP_CAN_EN ((p.val - 3) % 4)) = true →
     s.is SYSC_BOOT_RECOV = true → p.val = 11 →
     payU f 0 1 = 0xA5 →
     bitOf 7 (payU f 8 1) = false →
     bitOf 4 (payU f 8 1) = false →
     bitOf 3 (payU f 8 1) = false →
     payU f 14 2 = 0 →
     r = kcpFrame p.val f →
     payU f 1 1 = 2 →
     r.complete p.val = true →
     r.op ≠ 0x0101 →
     (s.leaseExpire (r.handle / 256)).session r.handle = some x →
     x.tport = p.val →
     x.peer = peer →
     r.auth = x.ks.isSome →
     x.ks.all (fun k => tag8 k r.signed == r.tag) = true →
     tk = tokOf (r.handle / 256) x r.op r.seq r.cls →
     r.cls < 6 →
     bitOf r.cls x.classes = true →
     opKeyed r.op = true → x.slot ≠ 0xF →
     (s.leaseExpire (r.handle / 256)).reasmOf (r.handle / 256) r.seq = some m →
     rxHdr r ≠ m.hdr ∨ r.fits p.val = false ∨ m.parts.any (fun (o : Nat × List Byte × Bool) => partsClash r.off r.data o) = true →
     ∃ t, exec (.kcpFrameReceive p peer f) s = .next t ∧
       t.kcp.reasm = (s.leaseExpire (r.handle / 256)).kcp.reasm.filter (fun (o : Reasm) => o != m) ∧
       (s.leaseExpire (r.handle / 256)).Sends t x (frames tk.tport tk.ks ⟨tk.handle, tk.op ||| 0x8000, tk.seq, tk.cls, x.restored, false, true, (beBytes 2 stBadParam ++ (beBytes 2 0xFFFF)).length⟩ ((beBytes 2 stBadParam ++ (beBytes 2 0xFFFF)).length + 1) 0 (beBytes 2 stBadParam ++ (beBytes 2 0xFFFF)))) ∧
  (∀ (s : State) (p : Fin 12) (peer : Nat) (f : List Byte) (r : RxFrame) (x : Ctx) (tk : Tok) (m : Reasm),
     s.kpRuns = true →
     16 ≤ f.length →
     f.length ≤ frameMax p.val →
     3 ≤ p.val → p.val < 11 → s.is (KCP_CAN_EN ((p.val - 3) % 4)) = true →
     s.is SYSC_BOOT_RECOV = true → p.val = 11 →
     payU f 0 1 = 0xA5 →
     bitOf 7 (payU f 8 1) = false →
     bitOf 4 (payU f 8 1) = false →
     bitOf 3 (payU f 8 1) = false →
     payU f 14 2 = 0 →
     r = kcpFrame p.val f →
     payU f 1 1 = 2 →
     r.complete p.val = true →
     r.op ≠ 0x0101 →
     (s.leaseExpire (r.handle / 256)).session r.handle = some x →
     x.tport = p.val →
     x.peer = peer →
     r.auth = x.ks.isSome →
     x.ks.all (fun k => tag8 k r.signed == r.tag) = true →
     tk = tokOf (r.handle / 256) x r.op r.seq r.cls →
     r.cls < 6 →
     bitOf r.cls x.classes = true →
     opKeyed r.op = true → x.slot ≠ 0xF →
     (s.leaseExpire (r.handle / 256)).reasmOf (r.handle / 256) r.seq = some m →
     rxHdr r = m.hdr →
     r.fits p.val = true →
     m.parts.any (fun (o : Nat × List Byte × Bool) => partsClash r.off r.data o) = false →
     reasmPayload { m with parts := m.parts.filter (fun (o : Nat × List Byte × Bool) => o.1 != r.off) ++ [(r.off, r.data, r.more)] } r.len = none →
     ∃ t, exec (.kcpFrameReceive p peer f) s = .next t ∧
       t.kcp.reasm = (s.leaseExpire (r.handle / 256)).kcp.reasm.map (fun (o : Reasm) => if o = m then { m with parts := m.parts.filter (fun (o : Nat × List Byte × Bool) => o.1 != r.off) ++ [(r.off, r.data, r.more)] } else o) ∧
       t.kcp.out = (s.leaseExpire (r.handle / 256)).kcp.out ∧
       t.kcp.ctxs = (s.leaseExpire (r.handle / 256)).kcp.ctxs) ∧
  (∀ (s : State) (p : Fin 12) (peer : Nat) (f : List Byte) (r : RxFrame) (x : Ctx) (tk : Tok) (m : Reasm) (pl : List Byte),
     s.kpRuns = true →
     16 ≤ f.length →
     f.length ≤ frameMax p.val →
     3 ≤ p.val → p.val < 11 → s.is (KCP_CAN_EN ((p.val - 3) % 4)) = true →
     s.is SYSC_BOOT_RECOV = true → p.val = 11 →
     payU f 0 1 = 0xA5 →
     bitOf 7 (payU f 8 1) = false →
     bitOf 4 (payU f 8 1) = false →
     bitOf 3 (payU f 8 1) = false →
     payU f 14 2 = 0 →
     r = kcpFrame p.val f →
     payU f 1 1 = 2 →
     r.complete p.val = true →
     r.op ≠ 0x0101 →
     (s.leaseExpire (r.handle / 256)).session r.handle = some x →
     x.tport = p.val →
     x.peer = peer →
     r.auth = x.ks.isSome →
     x.ks.all (fun k => tag8 k r.signed == r.tag) = true →
     tk = tokOf (r.handle / 256) x r.op r.seq r.cls →
     r.cls < 6 →
     bitOf r.cls x.classes = true →
     opKeyed r.op = true → x.slot ≠ 0xF →
     (s.leaseExpire (r.handle / 256)).reasmOf (r.handle / 256) r.seq = some m →
     rxHdr r = m.hdr →
     r.fits p.val = true →
     m.parts.any (fun (o : Nat × List Byte × Bool) => partsClash r.off r.data o) = false →
     reasmPayload { m with parts := m.parts.filter (fun (o : Nat × List Byte × Bool) => o.1 != r.off) ++ [(r.off, r.data, r.more)] } r.len = some pl →
     ∃ t, exec (.kcpFrameReceive p peer f) s = .next t ∧
       t = ((s.leaseExpire (r.handle / 256)).setKcp { (s.leaseExpire (r.handle / 256)).kcp with reasm := (s.leaseExpire (r.handle / 256)).kcp.reasm.filter (fun (o : Reasm) => o != m) }).dispatch tk pl r.ms) ∧
  (∀ (s : State) (p : Fin 12) (peer : Nat) (f : List Byte) (r : RxFrame) (x : Ctx) (tk : Tok),
     s.kpRuns = true →
     16 ≤ f.length →
     f.length ≤ frameMax p.val →
     3 ≤ p.val → p.val < 11 → s.is (KCP_CAN_EN ((p.val - 3) % 4)) = true →
     s.is SYSC_BOOT_RECOV = true → p.val = 11 →
     payU f 0 1 = 0xA5 →
     bitOf 7 (payU f 8 1) = false →
     bitOf 4 (payU f 8 1) = false →
     bitOf 3 (payU f 8 1) = false →
     payU f 14 2 = 0 →
     r = kcpFrame p.val f →
     payU f 1 1 = 2 →
     r.complete p.val = true →
     r.op ≠ 0x0101 →
     (s.leaseExpire (r.handle / 256)).session r.handle = some x →
     x.tport = p.val →
     x.peer = peer →
     r.auth = x.ks.isSome →
     x.ks.all (fun k => tag8 k r.signed == r.tag) = true →
     tk = tokOf (r.handle / 256) x r.op r.seq r.cls →
     r.cls < 6 →
     bitOf r.cls x.classes = true →
     opKeyed r.op = true → x.slot ≠ 0xF →
     (s.leaseExpire (r.handle / 256)).reasmOf (r.handle / 256) r.seq = none →
     newSeq x r.seq →
     (s.leaseExpire (r.handle / 256)).opRefusal tk = none →
     r.fits p.val = true →
     r.off = 0 →
     r.more = false →
     s.leaseDue (r.handle / 256) = false →
     s.kcp.queues.length = 4 →
     2 ≤ r.cls →
     r.cls ≤ 5 →
     r.op < 0xF000 →
     s.checkParams r.op r.data = none →
     s.queueOf r.cls = [] →
     ∃ t, exec (.kcpFrameReceive p peer f) s = .next t ∧
       t.queueOf r.cls = [⟨tk, s.tick, (if r.ms = 0 then none else some (s.tick + r.ms * 100000)), r.data⟩] ∧
       t.kcp.out = s.kcp.out ∧
       (t.ctxOf (r.handle / 256)).map (fun (y : Ctx) => (y.h, y.expiry, lookupKey r.seq y.seen)) = some (newH x r.seq, s.tick + x.lease * 100000, some stPending)) ∧
  (∀ (s : State) (i : Fin 16) (m : Reasm) (x : Ctx),
     s.kpRuns = true →
     s.kcp.reasm[i.val]? = some m →
     m.began + s.reasmMs * 100000 ≤ s.tick →
     s.ctxOf m.ctx = some x →
     x.gen < 256 →
     ∃ t, exec (.kcpReassemblyTimeout i) s = .next t ∧
       t.kcp.reasm = s.kcp.reasm.filter (fun (o : Reasm) => o != m) ∧
       s.Sends t x (frames (tokOf m.ctx x (payU m.hdr 4 2) (payU m.hdr 6 2) (payU m.hdr 8 1 % 8)).tport (tokOf m.ctx x (payU m.hdr 4 2) (payU m.hdr 6 2) (payU m.hdr 8 1 % 8)).ks ⟨(tokOf m.ctx x (payU m.hdr 4 2) (payU m.hdr 6 2) (payU m.hdr 8 1 % 8)).handle, (tokOf m.ctx x (payU m.hdr 4 2) (payU m.hdr 6 2) (payU m.hdr 8 1 % 8)).op ||| 0x8000, (tokOf m.ctx x (payU m.hdr 4 2) (payU m.hdr 6 2) (payU m.hdr 8 1 % 8)).seq, (tokOf m.ctx x (payU m.hdr 4 2) (payU m.hdr 6 2) (payU m.hdr 8 1 % 8)).cls, x.restored, false, true, (beBytes 2 stBadParam ++ beBytes 2 0xFFFF).length⟩ ((beBytes 2 stBadParam ++ beBytes 2 0xFFFF).length + 1) 0 (beBytes 2 stBadParam ++ beBytes 2 0xFFFF))) ∧
  (∀ (s : State) (i : Fin 16),
     s.kpRuns = false ∨ (s.kcp.reasm[i.val]?).all (fun (o : Reasm) => decide (s.tick < o.began + s.reasmMs * 100000) || (s.ctxOf o.ctx).isNone) = true →
     ∃ t, exec (.kcpReassemblyTimeout i) s = .next t ∧
       t = s) ∧
  (∀ (s : State) (l : List Byte),
     s.isOn 13 = false →
     ∃ t, exec (.hspiWrite l) s = .next t ∧
       t = s) ∧
  (∀ (s : State) (l : List Byte),
     s.isOn 13 = true →
     s.hspiUsed + (16 + payU l 10 2 + (if bitOf 6 (payU l 8 1) then 8 else 0)) ≤ 8192 →
     l.length < (16 + payU l 10 2 + (if bitOf 6 (payU l 8 1) then 8 else 0)) + 4 ∨ beNat ((l.drop (16 + payU l 10 2 + (if bitOf 6 (payU l 8 1) then 8 else 0))).take 4) ≠ crc32c (l.take (16 + payU l 10 2 + (if bitOf 6 (payU l 8 1) then 8 else 0))) →
     ∃ t, exec (.hspiWrite l) s = .next t ∧
       t.kcp.hspiCrc = true ∧
       t.get KCP_ERR1_BADHDR = min (s.get KCP_ERR1_BADHDR + 1) 65535 ∧
       t.kcp.hspiRx = s.kcp.hspiRx ∧
       t.kcp.ctxs = s.kcp.ctxs) ∧
  (∀ (s : State) (l : List Byte),
     s.isOn 13 = true →
     8192 < s.hspiUsed + (16 + payU l 10 2 + (if bitOf 6 (payU l 8 1) then 8 else 0)) →
     ∃ t, exec (.hspiWrite l) s = .next t ∧
       t = s.setKcp { s.kcp with hspiOvf := true }) ∧
  (∀ (s : State) (l : List Byte),
     s.isOn 13 = true →
     s.kpRuns = false →
     s.hspiUsed + (16 + payU l 10 2 + (if bitOf 6 (payU l 8 1) then 8 else 0)) ≤ 8192 →
     (16 + payU l 10 2 + (if bitOf 6 (payU l 8 1) then 8 else 0)) + 4 ≤ l.length →
     beNat ((l.drop (16 + payU l 10 2 + (if bitOf 6 (payU l 8 1) then 8 else 0))).take 4) = crc32c (l.take (16 + payU l 10 2 + (if bitOf 6 (payU l 8 1) then 8 else 0))) →
     ∃ t, exec (.hspiWrite l) s = .next t ∧
       t = s.setKcp { s.kcp with hspiRx := s.kcp.hspiRx ++ [(l.take (16 + payU l 10 2 + (if bitOf 6 (payU l 8 1) then 8 else 0)))] }) ∧
  (∀ (s : State) (l : List Byte),
     s.isOn 13 = true →
     s.kpRuns = true →
     s.hspiUsed + (16 + payU l 10 2 + (if bitOf 6 (payU l 8 1) then 8 else 0)) ≤ 8192 →
     (16 + payU l 10 2 + (if bitOf 6 (payU l 8 1) then 8 else 0)) + 4 ≤ l.length →
     beNat ((l.drop (16 + payU l 10 2 + (if bitOf 6 (payU l 8 1) then 8 else 0))).take 4) = crc32c (l.take (16 + payU l 10 2 + (if bitOf 6 (payU l 8 1) then 8 else 0))) →
     ∃ t, exec (.hspiWrite l) s = .next t ∧
       t = (s.kcp.hspiRx ++ [(l.take (16 + payU l 10 2 + (if bitOf 6 (payU l 8 1) then 8 else 0)))]).foldl (fun (u : State) (f : List Byte) => u.kpReceive 11 0 f) (s.setKcp { s.kcp with hspiRx := [] })) ∧
  (∀ (s : State) (n : Nat) (f : List Byte) (rest : List (List Byte)),
     s.isOn 13 = true →
     s.kcp.hspi = f :: rest →
     f.length + 4 ≤ n →
     ∃ t, exec (.hspiRead n) s = .next t ∧
       t = s.setKcp { s.kcp with hspi := rest, out := s.kcp.out ++ [⟨11, 0, f ++ beBytes 4 (crc32c f)⟩] }) ∧
  (∀ (s : State) (n : Nat),
     s.isOn 13 = false ∨ s.kcp.hspi.head?.all (fun (f : List Byte) => decide (n < f.length + 4)) = true →
     ∃ t, exec (.hspiRead n) s = .next t ∧
       t = s) ∧
  (∀ (s : State),
     s.isOn 13 = true →
     ∃ t, exec (.hspiStatus) s = .next t ∧
       t = s.setKcp { s.kcp with out := s.kcp.out ++ [⟨11, 0, beBytes 4 s.hspiWord⟩], hspiOvf := false, hspiCrc := false }) ∧
  (∀ (s : State),
     s.isOn 13 = false →
     ∃ t, exec (.hspiStatus) s = .next t ∧
       t = s)

/-- The head of a class queue leaves it and runs, or is answered LATE past its deadline; the due requests of a context and
sequence are withdrawn with LATE, and its due untaken setpoints with their VALID bit. A due subscription advances its counter,
clears its change and sends its notification, unless the transmit path is full, which is free. A customer request without an
enabled mailbox is answered BAD_OPCODE, one in C0 or C1, or longer than 4,064 bytes, BAD_PARAM; in the queue it takes its
turn; in C2 during SST or HLD it is answered SAFE_STATE, without a free slot QUEUE_FULL, and otherwise its header, arrival
time and payload are in the lowest free slot with its PEND bit. DONE of a placed slot frees it and sends the core's reply, or
FAULT_ACTIVE for a bad length; DONE of another counts IGN; a timeout frees the slot, counts and answers LATE. Elsewhere
nothing changes (R55, R56, R364, R366, R367, R369, R370, R379). -/
def Obligations.QueuesDeadlinesAndMailboxes : Prop :=
  (∀ (s : State) (k : Fin 4) (r : KReq) (rest : List KReq) (x : Ctx),
     s.kcp.queues.length = 4 →
     s.kpRuns = true →
     s.queueOf (k.val + 2) = r :: rest →
     r.deadline.any (fun d => decide (d ≤ s.tick)) = true →
     s.session r.tok.handle = some x →
     x.tport = r.tok.tport →
     x.peer = r.tok.peer →
     ∃ t, exec (.kcpQueueDepart k) s = .next t ∧
       t.queueOf (k.val + 2) = rest ∧
       s.Sends t x (frames r.tok.tport r.tok.ks ⟨r.tok.handle, r.tok.op ||| 0x8000, r.tok.seq, r.tok.cls, x.restored, false, true, (beBytes 2 stLate ++ []).length⟩ ((beBytes 2 stLate ++ []).length + 1) 0 (beBytes 2 stLate ++ []))) ∧
  (∀ (s : State) (k : Fin 4) (r : KReq) (rest : List KReq),
     s.kcp.queues.length = 4 →
     s.kpRuns = true →
     s.queueOf (k.val + 2) = r :: rest →
     r.deadline.all (fun d => decide (s.tick < d)) = true →
     r.tok.op < 0xF000 →
     ∃ t, exec (.kcpQueueDepart k) s = .next t ∧
       t = (s.setQueue (k.val + 2) rest).runOp { r.tok with left := s.tick } r.pay ∧
       (s.setQueue (k.val + 2) rest).queueOf (k.val + 2) = rest) ∧
  (∀ (s : State) (k : Fin 4) (r : KReq) (rest : List KReq),
     s.kcp.queues.length = 4 →
     s.kpRuns = true →
     s.queueOf (k.val + 2) = r :: rest →
     r.deadline.all (fun d => decide (s.tick < d)) = true →
     0xF000 ≤ r.tok.op →
     ∃ t, exec (.kcpQueueDepart k) s = .next t ∧
       t = (s.setQueue (k.val + 2) rest).custPlace { r with tok := { r.tok with left := s.tick } } ∧
       (s.setQueue (k.val + 2) rest).queueOf (k.val + 2) = rest) ∧
  (∀ (s : State) (k : Fin 4),
     s.kpRuns = false ∨ s.queueOf (k.val + 2) = [] →
     ∃ t, exec (.kcpQueueDepart k) s = .next t ∧
       t = s) ∧
  (∀ (s : State) (c : Fin 256) (seq : BitVec 16),
     s.kcp.queues.length = 4 →
     s.kpRuns = true →
     ∃ t, exec (.kcpDeadlineExpiry c seq) s = .next t ∧
       ∀ k : Fin 4, t.queueOf (k.val + 2) = (s.queueOf (k.val + 2)).filter (fun (r : KReq) => !(fun (z : KReq) => (z.tok.handle / 256 == c.val && z.tok.seq == seq.toNat) && deadlineDue s.tick z.deadline) r) ∧
       ∀ e ∈ t.kcp.c1, e.tok.handle / 256 = c.val → e.tok.seq = seq.toNat → deadlineDue s.tick e.deadline = true → e.drop ≠ none) ∧
  (∀ (s : State) (c : Fin 256) (seq : BitVec 16) (r : KReq) (x : Ctx) (k : Fin 4),
     s.kcp.queues.length = 4 →
     s.kpRuns = true →
     s.kcp.c1 = [] →
     (s.queueOf (k.val + 2)).filter (fun (z : KReq) => (z.tok.handle / 256 == c.val && z.tok.seq == seq.toNat) && deadlineDue s.tick z.deadline) = [r] →
     [2, 3, 4, 5].all (fun o => o == k.val + 2 || ((s.queueOf o).filter (fun (z : KReq) => (z.tok.handle / 256 == c.val && z.tok.seq == seq.toNat) && deadlineDue s.tick z.deadline)).isEmpty) = true →
     s.session r.tok.handle = some x →
     x.tport = r.tok.tport →
     x.peer = r.tok.peer →
     ∃ t, exec (.kcpDeadlineExpiry c seq) s = .next t ∧
       s.Sends t x (frames r.tok.tport r.tok.ks ⟨r.tok.handle, r.tok.op ||| 0x8000, r.tok.seq, r.tok.cls, x.restored, false, true, (beBytes 2 stLate ++ []).length⟩ ((beBytes 2 stLate ++ []).length + 1) 0 (beBytes 2 stLate ++ []))) ∧
  (∀ (s : State) (c : Fin 256) (seq : BitVec 16),
     s.kpRuns = false →
     ∃ t, exec (.kcpDeadlineExpiry c seq) s = .next t ∧
       t = s) ∧
  (∀ (s : State) (c : Fin 256) (k : Fin 3) (x : Ctx) (b : Sub),
     s.kpRuns = true →
     s.ctxOf c.val = some x →
     x.live = true →
     x.gen < 256 →
     x.subs.find? (fun (o : Sub) => o.op == (nth [0x0203, 0x0503, 0x0603] k.val 0)) = some b →
     s.notifyDue b = true →
     ∃ t, exec (.kcpNotify c k) s = .next t ∧
       (t.ctxOf c.val).map (fun (y : Ctx) => (y.ntf, y.subs)) = some ((if x.ntf = 65535 then 1 else x.ntf + 1), x.subs.map (fun (o : Sub) => if o.op = (nth [0x0203, 0x0503, 0x0603] k.val 0) then { o with last := some s.tick, dirty := false } else o)) ∧
       s.SendsTo t (if 7 ≤ x.tport ∧ x.tport < 11 then x.tport - 4 else x.tport) x.peer (if s.freeBool = true then [] else frames (if 7 ≤ x.tport ∧ x.tport < 11 then x.tport - 4 else x.tport) x.ks ⟨c.val * 256 + x.gen, (nth [0x0203, 0x0503, 0x0603] k.val 0) ||| 0x8000, x.ntf, 4, x.restored, true, true, (beBytes 2 stOk ++ s.statusFields (nth [0x0203, 0x0503, 0x0603] k.val 0) b.mask).length⟩ ((beBytes 2 stOk ++ s.statusFields (nth [0x0203, 0x0503, 0x0603] k.val 0) b.mask).length + 1) 0 (beBytes 2 stOk ++ s.statusFields (nth [0x0203, 0x0503, 0x0603] k.val 0) b.mask)) ∧
       t.fresh = s.fresh + 1) ∧
  (∀ (s : State) (c : Fin 256) (k : Fin 3),
     s.kpRuns = false ∨ (s.ctxOf c.val).all (fun (y : Ctx) => !y.live || (y.subs.find? (fun (o : Sub) => o.op == (nth [0x0203, 0x0503, 0x0603] k.val 0))).all (fun (o : Sub) => !s.notifyDue o)) = true →
     ∃ t, exec (.kcpNotify c k) s = .next t ∧
       t = s) ∧
  (∀ (s : State) (op : Fin 4096) (cls : Fin 8) (q : Req) (x : Ctx),
     s.Open (0xF000 + op.val) cls.val q x →
     cls.val < 6 →
     s.is SYSC_BOOT_RECOV = false →
     s.custMbx (0xF000 + op.val) = none →
     ∃ t, exec (.customerOpcode op cls q) s = .next t ∧
       s.Sends t x (replyOf (0xF000 + op.val) cls.val q x stBadOpcode []) ∧
       t.kcp.mbx = s.kcp.mbx ∧
       t.kcp.queues = s.kcp.queues) ∧
  (∀ (s : State) (op : Fin 4096) (cls : Fin 8) (q : Req) (x : Ctx),
     s.Open (0xF000 + op.val) cls.val q x →
     cls.val < 6 →
     s.is SYSC_BOOT_RECOV = false →
     (s.custMbx (0xF000 + op.val)).isSome = true →
     cls.val < 2 →
     ∃ t, exec (.customerOpcode op cls q) s = .next t ∧
       s.Sends t x (replyOf (0xF000 + op.val) cls.val q x stBadParam (beBytes 2 0xFFFF)) ∧
       t.kcp.mbx = s.kcp.mbx ∧
       t.kcp.queues = s.kcp.queues) ∧
  (∀ (s : State) (op : Fin 4096) (cls : Fin 8) (q : Req) (x : Ctx),
     s.kcp.queues.length = 4 →
     s.Open (0xF000 + op.val) cls.val q x →
     cls.val < 6 →
     s.is SYSC_BOOT_RECOV = false →
     2 ≤ cls.val →
     (s.custMbx (0xF000 + op.val)).isSome = true →
     4064 < q.pay.length →
     (s.queueOf cls.val).all (fun (r : KReq) => !(r.tok.handle == (q.ctx.val * 256 + x.gen) && r.tok.seq == q.seq.toNat)) = true →
     ∃ t, exec (.customerOpcode op cls q) s = .next t ∧
       s.Sends t x (replyOf (0xF000 + op.val) cls.val q x stBadParam (beBytes 2 0xFFFF)) ∧
       t.kcp.mbx = s.kcp.mbx ∧
       t.kcp.queues = s.kcp.queues ∧
       s.OnlyRegs { t with kcp := s.kcp, evl := s.evl, fresh := s.fresh } [EVL_STATUS.addr]) ∧
  (∀ (s : State) (op : Fin 4096) (cls : Fin 8) (q : Req) (x : Ctx),
     s.kcp.queues.length = 4 →
     2 ≤ cls.val →
     s.Open (0xF000 + op.val) cls.val q x →
     cls.val < 6 →
     s.is SYSC_BOOT_RECOV = false →
     q.pay.length ≤ 4064 →
     (s.custMbx (0xF000 + op.val)).isSome = true →
     ∃ t, exec (.customerOpcode op cls q) s = .next t ∧
       t = ((s.admitted q x).enqueue ⟨(tokOf q.ctx.val x (0xF000 + op.val) q.seq.toNat cls.val), s.tick, none, q.pay⟩).departUpTo cls.val (q.ctx.val * 256 + x.gen) q.seq.toNat 64) ∧
  (∀ (s : State) (op : Fin 4096) (cls : Fin 8) (q : Req) (x : Ctx),
     s.kcp.queues.length = 4 →
     2 ≤ cls.val →
     s.Open (0xF000 + op.val) cls.val q x →
     cls.val < 6 →
     s.is SYSC_BOOT_RECOV = false →
     q.pay.length ≤ 4064 →
     (s.custMbx (0xF000 + op.val)).isSome = true →
     s.queueOf cls.val = [] →
     cls.val = 2 →
     s.active 10 = true ∨ s.active 11 = true →
     ∃ t, exec (.customerOpcode op cls q) s = .next t ∧
       s.Sends t x (replyOf (0xF000 + op.val) cls.val q x stSafeState s.safeFields) ∧
       t.kcp.mbx = s.kcp.mbx ∧
       t.queueOf cls.val = []) ∧
  (∀ (s : State) (op : Fin 4096) (cls : Fin 8) (q : Req) (x : Ctx) (m : Fin 8) (k : Fin 4),
     s.kcp.queues.length = 4 →
     2 ≤ cls.val →
     s.Open (0xF000 + op.val) cls.val q x →
     cls.val < 6 →
     s.is SYSC_BOOT_RECOV = false →
     q.pay.length ≤ 4064 →
     (s.custMbx (0xF000 + op.val)).isSome = true →
     s.queueOf cls.val = [] →
     ¬(cls.val = 2 ∧ (s.active 10 = true ∨ s.active 11 = true)) →
     s.custMbx (0xF000 + op.val) = some m.val →
     (List.range 4).find? (fun j => !s.kcp.mbx.any (fun (e : MbxReq) => e.mbx == m.val && e.slot == j)) = some k.val →
     ∃ t, exec (.customerOpcode op cls q) s = .next t ∧
       t.kcp.mbx = s.kcp.mbx ++ [⟨m.val, k.val, { (tokOf q.ctx.val x (0xF000 + op.val) q.seq.toNat cls.val) with left := s.tick }, s.tick⟩] ∧
       t.bit (MBX_REQ_PEND m.val) k.val = true ∧
       t.rdBytes (reqSlot m.val k.val) 16 = slotHeader (tokOf q.ctx.val x (0xF000 + op.val) q.seq.toNat cls.val) 0 q.pay.length ∧
       t.rdBytes (reqSlot m.val k.val + 16) 16 = leBytes 8 (s.tick * 10) ++ leBytes 8 0 ∧
       t.rdBytes (reqSlot m.val k.val + 32) q.pay.length = q.pay ∧
       t.kcp.out = s.kcp.out ∧
       t.queueOf cls.val = []) ∧
  (∀ (s : State) (op : Fin 4096) (cls : Fin 8) (q : Req) (x : Ctx) (m : Fin 8),
     s.kcp.queues.length = 4 →
     2 ≤ cls.val →
     s.Open (0xF000 + op.val) cls.val q x →
     cls.val < 6 →
     s.is SYSC_BOOT_RECOV = false →
     q.pay.length ≤ 4064 →
     (s.custMbx (0xF000 + op.val)).isSome = true →
     s.queueOf cls.val = [] →
     ¬(cls.val = 2 ∧ (s.active 10 = true ∨ s.active 11 = true)) →
     s.custMbx (0xF000 + op.val) = some m.val →
     (List.range 4).find? (fun j => !s.kcp.mbx.any (fun (e : MbxReq) => e.mbx == m.val && e.slot == j)) = none →
     ∃ t, exec (.customerOpcode op cls q) s = .next t ∧
       s.Sends t x (replyOf (0xF000 + op.val) cls.val q x stQueueFull ([BitVec.ofNat 8 cls.val, BitVec.ofNat 8 3] ++ beBytes 2 (min 0xFFFF (s.hint (16 + m.val))))) ∧
       t.kcp.mbx = s.kcp.mbx ∧
       t.queueOf cls.val = []) ∧
  (∀ (s : State) (ini : Initiator) (val : Word) (m : Fin 8) (k : Fin 4) (e : MbxReq) (x : Ctx),
     s.Reaches ini (MBX_DONE m.val).addr →
     setBits 4 val.toNat = [k.val] →
     s.kcp.mbx.find? (fun (o : MbxReq) => o.mbx == m.val && o.slot == k.val) = some e →
     s.session e.tok.handle = some x →
     x.tport = e.tok.tport →
     x.peer = e.tok.peer →
     2 ≤ (leNat (s.rdBytes (reqSlot m.val k.val + 0x4000) 2)) →
     (leNat (s.rdBytes (reqSlot m.val k.val + 0x4000) 2)) ≤ 4064 →
     ∃ t, exec (.mbxDone ini m val) s = .next t ∧
       t.kcp.mbx = s.kcp.mbx.filter (fun (o : MbxReq) => o != e) ∧
       t.bit (MBX_REQ_PEND m.val) k.val = false ∧
       s.Sends t x (frames e.tok.tport e.tok.ks ⟨e.tok.handle, e.tok.op ||| 0x8000, e.tok.seq, e.tok.cls, x.restored, false, true, (leNat (s.rdBytes (reqSlot m.val k.val + 0x4000) 2))⟩ ((leNat (s.rdBytes (reqSlot m.val k.val + 0x4000) 2)) + 1) 0 (s.rdBytes (reqSlot m.val k.val + 0x4020) (leNat (s.rdBytes (reqSlot m.val k.val + 0x4000) 2))))) ∧
  (∀ (s : State) (ini : Initiator) (val : Word) (m : Fin 8) (k : Fin 4) (e : MbxReq) (x : Ctx),
     s.Reaches ini (MBX_DONE m.val).addr →
     setBits 4 val.toNat = [k.val] →
     s.kcp.mbx.find? (fun (o : MbxReq) => o.mbx == m.val && o.slot == k.val) = some e →
     s.session e.tok.handle = some x →
     x.tport = e.tok.tport →
     x.peer = e.tok.peer →
     (leNat (s.rdBytes (reqSlot m.val k.val + 0x4000) 2)) < 2 ∨ 4064 < (leNat (s.rdBytes (reqSlot m.val k.val + 0x4000) 2)) →
     ∃ t, exec (.mbxDone ini m val) s = .next t ∧
       t.kcp.mbx = s.kcp.mbx.filter (fun (o : MbxReq) => o != e) ∧
       t.bit (MBX_REQ_PEND m.val) k.val = false ∧
       s.Sends t x (frames e.tok.tport e.tok.ks ⟨e.tok.handle, e.tok.op ||| 0x8000, e.tok.seq, e.tok.cls, x.restored, false, true, (beBytes 2 stFault ++ []).length⟩ ((beBytes 2 stFault ++ []).length + 1) 0 (beBytes 2 stFault ++ []))) ∧
  (∀ (s : State) (ini : Initiator) (m : Fin 8) (k : Fin 4) (val : Word),
     s.Reaches ini (MBX_DONE m.val).addr →
     setBits 4 val.toNat = [k.val] →
     s.kcp.mbx.find? (fun (o : MbxReq) => o.mbx == m.val && o.slot == k.val) = none →
     ∃ t, exec (.mbxDone ini m val) s = .next t ∧
       t.get (MBX_STAT_IGN_CNT m.val) = min (s.get (MBX_STAT_IGN_CNT m.val) + 1) 65535 ∧
       s.OnlyRegs t [(MBX_STAT m.val).addr]) ∧
  (∀ (s : State) (ini : Initiator) (m : Fin 8) (val : Word),
     s.Reaches ini (MBX_DONE m.val).addr →
     ∃ t, exec (.mbxDone ini m val) s = .next t ∧
       t = (setBits 4 val.toNat).foldl (fun (u : State) (j : Nat) => u.mbxDone m.val j) s) ∧
  (∀ (s : State) (m : Fin 8) (k : Fin 4) (e : MbxReq) (x : Ctx),
     s.kcp.mbx.find? (fun (o : MbxReq) => o.mbx == m.val && o.slot == k.val) = some e →
     s.session e.tok.handle = some x →
     x.tport = e.tok.tport →
     x.peer = e.tok.peer →
     s.kpRuns = true →
     e.since + max 1 (s.get (MBX_CFG_TMO m.val)) * 1000000 ≤ s.tick →
     ∃ t, exec (.mbxTimeout m k) s = .next t ∧
       t.kcp.mbx = s.kcp.mbx.filter (fun (o : MbxReq) => o != e) ∧
       t.bit (MBX_REQ_PEND m.val) k.val = false ∧
       t.get (MBX_STAT_TMO_CNT m.val) = min (s.get (MBX_STAT_TMO_CNT m.val) + 1) 65535 ∧
       s.Sends t x (frames e.tok.tport e.tok.ks ⟨e.tok.handle, e.tok.op ||| 0x8000, e.tok.seq, e.tok.cls, x.restored, false, true, (beBytes 2 stLate ++ []).length⟩ ((beBytes 2 stLate ++ []).length + 1) 0 (beBytes 2 stLate ++ []))) ∧
  (∀ (s : State) (m : Fin 8) (k : Fin 4),
     s.kpRuns = false ∨ (s.kcp.mbx.find? (fun (o : MbxReq) => o.mbx == m.val && o.slot == k.val)).all (fun (o : MbxReq) => decide (s.tick < o.since + max 1 (s.get (MBX_CFG_TMO m.val)) * 1000000)) = true →
     ∃ t, exec (.mbxTimeout m k) s = .next t ∧
       t = s)

/-- For each of the seven setpoint opcodes: a setpoint that passes the checks of R384 and is not older than the newest that its
session has placed in the slot is written, with its sequence, context and VALID, into the half of its engine's mailbox slot
that the engine does not hold, which becomes the newest and untaken; an untaken one that it replaces is answered SUPERSEDED,
and no reply to the new one is sent yet; a setpoint that fails a check is answered with that check's status, SAFE_STATE while
SST or HLD is active, an older one SUPERSEDED, and neither is written (R55, R56, R207, R365, R384). -/
def Obligations.SetpointsReachTheirMailboxHalf : Prop :=
  (∀ (s : State) (q : Req) (x : Ctx),
     s.ce.length = 8 ∧ (s.ceOf 0).slots.length = 3 →
     s.Open 0x0301 1 q x →
     s.checkParams 0x0301 q.pay = none →
     s.c1Refusal (tokOf q.ctx.val x 0x0301 q.seq.toNat 1) q.pay = none →
     s.c1Older (tokOf q.ctx.val x 0x0301 q.seq.toNat 1) 0 = false →
     ∃ t, exec (.setptDrvA q) s = .next t ∧
       t.kcp.c1 = s.kcp.c1.filter (fun (e : C1Set) => !(e.ce == 0 && e.slot == 0)) ++ [⟨0, 0, (writeHalf (s.slotOf 0 0)), 0, (tokOf q.ctx.val x 0x0301 q.seq.toNat 1), none, none⟩] ∧
       t.rdBytes (0x30020000 + 0 * 0x40000 + 0x1FA00 + 0x80 * 0 + 0x40 * (writeHalf (s.slotOf 0 0))) (4 + q.pay.length) = beBytes 2 q.seq.toNat ++ [BitVec.ofNat 8 q.ctx.val, 1] ++ q.pay ∧
       (t.slotOf 0 0).newest = some (writeHalf (s.slotOf 0 0)) ∧
       (t.slotOf 0 0).taken = false ∧
       (t.slotOf 0 0).held = (s.slotOf 0 0).held ∧
       s.kcp.c1.filter (fun (e : C1Set) => e.ce == 0 && e.slot == 0) = [] → t.kcp.out = s.kcp.out ∧ t.kcp.hspi = s.kcp.hspi) ∧
  (∀ (s : State) (q : Req) (x : Ctx) (e : C1Set),
     s.ce.length = 8 ∧ (s.ceOf 0).slots.length = 3 →
     s.Open 0x0301 1 q x →
     s.checkParams 0x0301 q.pay = none →
     s.c1Refusal (tokOf q.ctx.val x 0x0301 q.seq.toNat 1) q.pay = none →
     s.c1Older (tokOf q.ctx.val x 0x0301 q.seq.toNat 1) 0 = false →
     s.kcp.c1.filter (fun (o : C1Set) => o.ce == 0 && o.slot == 0) = [e] →
     e.drop = none →
     e.tok.handle = (q.ctx.val * 256 + x.gen) →
     e.tok.tport = x.tport →
     e.tok.peer = x.peer →
     ∃ t, exec (.setptDrvA q) s = .next t ∧
       s.Sends t x (frames e.tok.tport e.tok.ks ⟨e.tok.handle, e.tok.op ||| 0x8000, e.tok.seq, e.tok.cls, x.restored, false, true, 2⟩ 3 0 (beBytes 2 stSuperseded))) ∧
  (∀ (s : State) (q : Req) (x : Ctx) (st : Nat) (fs : List Byte),
     s.ce.length = 8 ∧ (s.ceOf 0).slots.length = 3 →
     s.Open 0x0301 1 q x →
     s.checkParams 0x0301 q.pay = none →
     s.c1Refusal (tokOf q.ctx.val x 0x0301 q.seq.toNat 1) q.pay = some (st, fs) →
     ∃ t, exec (.setptDrvA q) s = .next t ∧
       t.mem = s.mem ∧
       t.kcp.c1 = s.kcp.c1 ∧
       t.ce = s.ce ∧
       s.Sends t x (replyOf 0x0301 1 q x st fs)) ∧
  (∀ (s : State) (q : Req) (x : Ctx),
     s.ce.length = 8 ∧ (s.ceOf 0).slots.length = 3 →
     s.Open 0x0301 1 q x →
     s.checkParams 0x0301 q.pay = none →
     s.active 10 = true ∨ s.active 11 = true →
     ∃ t, exec (.setptDrvA q) s = .next t ∧
       t.mem = s.mem ∧
       t.kcp.c1 = s.kcp.c1 ∧
       t.ce = s.ce ∧
       s.Sends t x (replyOf 0x0301 1 q x stSafeState s.safeFields)) ∧
  (∀ (s : State) (q : Req) (x : Ctx),
     s.ce.length = 8 ∧ (s.ceOf 0).slots.length = 3 →
     s.Open 0x0301 1 q x →
     s.checkParams 0x0301 q.pay = none →
     s.c1Refusal (tokOf q.ctx.val x 0x0301 q.seq.toNat 1) q.pay = none →
     s.c1Older (tokOf q.ctx.val x 0x0301 q.seq.toNat 1) 0 = true →
     ∃ t, exec (.setptDrvA q) s = .next t ∧
       t.mem = s.mem ∧
       t.kcp.c1 = s.kcp.c1 ∧
       t.ce = s.ce ∧
       s.Sends t x (replyOf 0x0301 1 q x stSuperseded [])) ∧
  (∀ (s : State) (q : Req) (x : Ctx),
     s.ce.length = 8 ∧ (s.ceOf 2).slots.length = 3 →
     s.Open 0x0302 1 q x →
     s.checkParams 0x0302 q.pay = none →
     s.c1Refusal (tokOf q.ctx.val x 0x0302 q.seq.toNat 1) q.pay = none →
     s.c1Older (tokOf q.ctx.val x 0x0302 q.seq.toNat 1) 8 = false →
     ∃ t, exec (.setptDrvB q) s = .next t ∧
       t.kcp.c1 = s.kcp.c1.filter (fun (e : C1Set) => !(e.ce == 2 && e.slot == 0)) ++ [⟨2, 0, (writeHalf (s.slotOf 2 0)), 1, (tokOf q.ctx.val x 0x0302 q.seq.toNat 1), none, none⟩] ∧
       t.rdBytes (0x30020000 + 2 * 0x40000 + 0x1FA00 + 0x80 * 0 + 0x40 * (writeHalf (s.slotOf 2 0))) (4 + q.pay.length) = beBytes 2 q.seq.toNat ++ [BitVec.ofNat 8 q.ctx.val, 1] ++ q.pay ∧
       (t.slotOf 2 0).newest = some (writeHalf (s.slotOf 2 0)) ∧
       (t.slotOf 2 0).taken = false ∧
       (t.slotOf 2 0).held = (s.slotOf 2 0).held ∧
       s.kcp.c1.filter (fun (e : C1Set) => e.ce == 2 && e.slot == 0) = [] → t.kcp.out = s.kcp.out ∧ t.kcp.hspi = s.kcp.hspi) ∧
  (∀ (s : State) (q : Req) (x : Ctx) (e : C1Set),
     s.ce.length = 8 ∧ (s.ceOf 2).slots.length = 3 →
     s.Open 0x0302 1 q x →
     s.checkParams 0x0302 q.pay = none →
     s.c1Refusal (tokOf q.ctx.val x 0x0302 q.seq.toNat 1) q.pay = none →
     s.c1Older (tokOf q.ctx.val x 0x0302 q.seq.toNat 1) 8 = false →
     s.kcp.c1.filter (fun (o : C1Set) => o.ce == 2 && o.slot == 0) = [e] →
     e.drop = none →
     e.tok.handle = (q.ctx.val * 256 + x.gen) →
     e.tok.tport = x.tport →
     e.tok.peer = x.peer →
     ∃ t, exec (.setptDrvB q) s = .next t ∧
       s.Sends t x (frames e.tok.tport e.tok.ks ⟨e.tok.handle, e.tok.op ||| 0x8000, e.tok.seq, e.tok.cls, x.restored, false, true, 2⟩ 3 0 (beBytes 2 stSuperseded))) ∧
  (∀ (s : State) (q : Req) (x : Ctx) (st : Nat) (fs : List Byte),
     s.ce.length = 8 ∧ (s.ceOf 2).slots.length = 3 →
     s.Open 0x0302 1 q x →
     s.checkParams 0x0302 q.pay = none →
     s.c1Refusal (tokOf q.ctx.val x 0x0302 q.seq.toNat 1) q.pay = some (st, fs) →
     ∃ t, exec (.setptDrvB q) s = .next t ∧
       t.mem = s.mem ∧
       t.kcp.c1 = s.kcp.c1 ∧
       t.ce = s.ce ∧
       s.Sends t x (replyOf 0x0302 1 q x st fs)) ∧
  (∀ (s : State) (q : Req) (x : Ctx),
     s.ce.length = 8 ∧ (s.ceOf 2).slots.length = 3 →
     s.Open 0x0302 1 q x →
     s.checkParams 0x0302 q.pay = none →
     s.active 10 = true ∨ s.active 11 = true →
     ∃ t, exec (.setptDrvB q) s = .next t ∧
       t.mem = s.mem ∧
       t.kcp.c1 = s.kcp.c1 ∧
       t.ce = s.ce ∧
       s.Sends t x (replyOf 0x0302 1 q x stSafeState s.safeFields)) ∧
  (∀ (s : State) (q : Req) (x : Ctx),
     s.ce.length = 8 ∧ (s.ceOf 2).slots.length = 3 →
     s.Open 0x0302 1 q x →
     s.checkParams 0x0302 q.pay = none →
     s.c1Refusal (tokOf q.ctx.val x 0x0302 q.seq.toNat 1) q.pay = none →
     s.c1Older (tokOf q.ctx.val x 0x0302 q.seq.toNat 1) 8 = true →
     ∃ t, exec (.setptDrvB q) s = .next t ∧
       t.mem = s.mem ∧
       t.kcp.c1 = s.kcp.c1 ∧
       t.ce = s.ce ∧
       s.Sends t x (replyOf 0x0302 1 q x stSuperseded [])) ∧
  (∀ (s : State) (q : Req) (x : Ctx),
     s.ce.length = 8 ∧ (s.ceOf 0).slots.length = 3 →
     s.Open 0x0303 1 q x →
     s.checkParams 0x0303 q.pay = none →
     s.c1Refusal (tokOf q.ctx.val x 0x0303 q.seq.toNat 1) q.pay = none →
     s.c1Older (tokOf q.ctx.val x 0x0303 q.seq.toNat 1) 1 = false →
     ∃ t, exec (.setptWhtA q) s = .next t ∧
       t.kcp.c1 = s.kcp.c1.filter (fun (e : C1Set) => !(e.ce == 0 && e.slot == 1)) ++ [⟨0, 1, (writeHalf (s.slotOf 0 1)), 7, (tokOf q.ctx.val x 0x0303 q.seq.toNat 1), none, none⟩] ∧
       t.rdBytes (0x30020000 + 0 * 0x40000 + 0x1FA00 + 0x80 * 1 + 0x40 * (writeHalf (s.slotOf 0 1))) (4 + q.pay.length) = beBytes 2 q.seq.toNat ++ [BitVec.ofNat 8 q.ctx.val, 1] ++ q.pay ∧
       (t.slotOf 0 1).newest = some (writeHalf (s.slotOf 0 1)) ∧
       (t.slotOf 0 1).taken = false ∧
       (t.slotOf 0 1).held = (s.slotOf 0 1).held ∧
       s.kcp.c1.filter (fun (e : C1Set) => e.ce == 0 && e.slot == 1) = [] → t.kcp.out = s.kcp.out ∧ t.kcp.hspi = s.kcp.hspi) ∧
  (∀ (s : State) (q : Req) (x : Ctx) (e : C1Set),
     s.ce.length = 8 ∧ (s.ceOf 0).slots.length = 3 →
     s.Open 0x0303 1 q x →
     s.checkParams 0x0303 q.pay = none →
     s.c1Refusal (tokOf q.ctx.val x 0x0303 q.seq.toNat 1) q.pay = none →
     s.c1Older (tokOf q.ctx.val x 0x0303 q.seq.toNat 1) 1 = false →
     s.kcp.c1.filter (fun (o : C1Set) => o.ce == 0 && o.slot == 1) = [e] →
     e.drop = none →
     e.tok.handle = (q.ctx.val * 256 + x.gen) →
     e.tok.tport = x.tport →
     e.tok.peer = x.peer →
     ∃ t, exec (.setptWhtA q) s = .next t ∧
       s.Sends t x (frames e.tok.tport e.tok.ks ⟨e.tok.handle, e.tok.op ||| 0x8000, e.tok.seq, e.tok.cls, x.restored, false, true, 2⟩ 3 0 (beBytes 2 stSuperseded))) ∧
  (∀ (s : State) (q : Req) (x : Ctx) (st : Nat) (fs : List Byte),
     s.ce.length = 8 ∧ (s.ceOf 0).slots.length = 3 →
     s.Open 0x0303 1 q x →
     s.checkParams 0x0303 q.pay = none →
     s.c1Refusal (tokOf q.ctx.val x 0x0303 q.seq.toNat 1) q.pay = some (st, fs) →
     ∃ t, exec (.setptWhtA q) s = .next t ∧
       t.mem = s.mem ∧
       t.kcp.c1 = s.kcp.c1 ∧
       t.ce = s.ce ∧
       s.Sends t x (replyOf 0x0303 1 q x st fs)) ∧
  (∀ (s : State) (q : Req) (x : Ctx),
     s.ce.length = 8 ∧ (s.ceOf 0).slots.length = 3 →
     s.Open 0x0303 1 q x →
     s.checkParams 0x0303 q.pay = none →
     s.active 10 = true ∨ s.active 11 = true →
     ∃ t, exec (.setptWhtA q) s = .next t ∧
       t.mem = s.mem ∧
       t.kcp.c1 = s.kcp.c1 ∧
       t.ce = s.ce ∧
       s.Sends t x (replyOf 0x0303 1 q x stSafeState s.safeFields)) ∧
  (∀ (s : State) (q : Req) (x : Ctx),
     s.ce.length = 8 ∧ (s.ceOf 0).slots.length = 3 →
     s.Open 0x0303 1 q x →
     s.checkParams 0x0303 q.pay = none →
     s.c1Refusal (tokOf q.ctx.val x 0x0303 q.seq.toNat 1) q.pay = none →
     s.c1Older (tokOf q.ctx.val x 0x0303 q.seq.toNat 1) 1 = true →
     ∃ t, exec (.setptWhtA q) s = .next t ∧
       t.mem = s.mem ∧
       t.kcp.c1 = s.kcp.c1 ∧
       t.ce = s.ce ∧
       s.Sends t x (replyOf 0x0303 1 q x stSuperseded [])) ∧
  (∀ (s : State) (q : Req) (x : Ctx),
     s.ce.length = 8 ∧ (s.ceOf 2).slots.length = 3 →
     s.Open 0x0304 1 q x →
     s.checkParams 0x0304 q.pay = none →
     s.c1Refusal (tokOf q.ctx.val x 0x0304 q.seq.toNat 1) q.pay = none →
     s.c1Older (tokOf q.ctx.val x 0x0304 q.seq.toNat 1) 9 = false →
     ∃ t, exec (.setptWhtB q) s = .next t ∧
       t.kcp.c1 = s.kcp.c1.filter (fun (e : C1Set) => !(e.ce == 2 && e.slot == 1)) ++ [⟨2, 1, (writeHalf (s.slotOf 2 1)), 8, (tokOf q.ctx.val x 0x0304 q.seq.toNat 1), none, none⟩] ∧
       t.rdBytes (0x30020000 + 2 * 0x40000 + 0x1FA00 + 0x80 * 1 + 0x40 * (writeHalf (s.slotOf 2 1))) (4 + q.pay.length) = beBytes 2 q.seq.toNat ++ [BitVec.ofNat 8 q.ctx.val, 1] ++ q.pay ∧
       (t.slotOf 2 1).newest = some (writeHalf (s.slotOf 2 1)) ∧
       (t.slotOf 2 1).taken = false ∧
       (t.slotOf 2 1).held = (s.slotOf 2 1).held ∧
       s.kcp.c1.filter (fun (e : C1Set) => e.ce == 2 && e.slot == 1) = [] → t.kcp.out = s.kcp.out ∧ t.kcp.hspi = s.kcp.hspi) ∧
  (∀ (s : State) (q : Req) (x : Ctx) (e : C1Set),
     s.ce.length = 8 ∧ (s.ceOf 2).slots.length = 3 →
     s.Open 0x0304 1 q x →
     s.checkParams 0x0304 q.pay = none →
     s.c1Refusal (tokOf q.ctx.val x 0x0304 q.seq.toNat 1) q.pay = none →
     s.c1Older (tokOf q.ctx.val x 0x0304 q.seq.toNat 1) 9 = false →
     s.kcp.c1.filter (fun (o : C1Set) => o.ce == 2 && o.slot == 1) = [e] →
     e.drop = none →
     e.tok.handle = (q.ctx.val * 256 + x.gen) →
     e.tok.tport = x.tport →
     e.tok.peer = x.peer →
     ∃ t, exec (.setptWhtB q) s = .next t ∧
       s.Sends t x (frames e.tok.tport e.tok.ks ⟨e.tok.handle, e.tok.op ||| 0x8000, e.tok.seq, e.tok.cls, x.restored, false, true, 2⟩ 3 0 (beBytes 2 stSuperseded))) ∧
  (∀ (s : State) (q : Req) (x : Ctx) (st : Nat) (fs : List Byte),
     s.ce.length = 8 ∧ (s.ceOf 2).slots.length = 3 →
     s.Open 0x0304 1 q x →
     s.checkParams 0x0304 q.pay = none →
     s.c1Refusal (tokOf q.ctx.val x 0x0304 q.seq.toNat 1) q.pay = some (st, fs) →
     ∃ t, exec (.setptWhtB q) s = .next t ∧
       t.mem = s.mem ∧
       t.kcp.c1 = s.kcp.c1 ∧
       t.ce = s.ce ∧
       s.Sends t x (replyOf 0x0304 1 q x st fs)) ∧
  (∀ (s : State) (q : Req) (x : Ctx),
     s.ce.length = 8 ∧ (s.ceOf 2).slots.length = 3 →
     s.Open 0x0304 1 q x →
     s.checkParams 0x0304 q.pay = none →
     s.active 10 = true ∨ s.active 11 = true →
     ∃ t, exec (.setptWhtB q) s = .next t ∧
       t.mem = s.mem ∧
       t.kcp.c1 = s.kcp.c1 ∧
       t.ce = s.ce ∧
       s.Sends t x (replyOf 0x0304 1 q x stSafeState s.safeFields)) ∧
  (∀ (s : State) (q : Req) (x : Ctx),
     s.ce.length = 8 ∧ (s.ceOf 2).slots.length = 3 →
     s.Open 0x0304 1 q x →
     s.checkParams 0x0304 q.pay = none →
     s.c1Refusal (tokOf q.ctx.val x 0x0304 q.seq.toNat 1) q.pay = none →
     s.c1Older (tokOf q.ctx.val x 0x0304 q.seq.toNat 1) 9 = true →
     ∃ t, exec (.setptWhtB q) s = .next t ∧
       t.mem = s.mem ∧
       t.kcp.c1 = s.kcp.c1 ∧
       t.ce = s.ce ∧
       s.Sends t x (replyOf 0x0304 1 q x stSuperseded [])) ∧
  (∀ (s : State) (q : Req) (x : Ctx),
     s.ce.length = 8 ∧ (s.ceOf 2).slots.length = 3 →
     s.Open 0x0305 1 q x →
     s.checkParams 0x0305 q.pay = none →
     s.c1Refusal (tokOf q.ctx.val x 0x0305 q.seq.toNat 1) q.pay = none →
     s.c1Older (tokOf q.ctx.val x 0x0305 q.seq.toNat 1) 10 = false →
     ∃ t, exec (.setptBch q) s = .next t ∧
       t.kcp.c1 = s.kcp.c1.filter (fun (e : C1Set) => !(e.ce == 2 && e.slot == 2)) ++ [⟨2, 2, (writeHalf (s.slotOf 2 2)), 2, (tokOf q.ctx.val x 0x0305 q.seq.toNat 1), none, none⟩] ∧
       t.rdBytes (0x30020000 + 2 * 0x40000 + 0x1FA00 + 0x80 * 2 + 0x40 * (writeHalf (s.slotOf 2 2))) (4 + q.pay.length) = beBytes 2 q.seq.toNat ++ [BitVec.ofNat 8 q.ctx.val, 1] ++ q.pay ∧
       (t.slotOf 2 2).newest = some (writeHalf (s.slotOf 2 2)) ∧
       (t.slotOf 2 2).taken = false ∧
       (t.slotOf 2 2).held = (s.slotOf 2 2).held ∧
       s.kcp.c1.filter (fun (e : C1Set) => e.ce == 2 && e.slot == 2) = [] → t.kcp.out = s.kcp.out ∧ t.kcp.hspi = s.kcp.hspi) ∧
  (∀ (s : State) (q : Req) (x : Ctx) (e : C1Set),
     s.ce.length = 8 ∧ (s.ceOf 2).slots.length = 3 →
     s.Open 0x0305 1 q x →
     s.checkParams 0x0305 q.pay = none →
     s.c1Refusal (tokOf q.ctx.val x 0x0305 q.seq.toNat 1) q.pay = none →
     s.c1Older (tokOf q.ctx.val x 0x0305 q.seq.toNat 1) 10 = false →
     s.kcp.c1.filter (fun (o : C1Set) => o.ce == 2 && o.slot == 2) = [e] →
     e.drop = none →
     e.tok.handle = (q.ctx.val * 256 + x.gen) →
     e.tok.tport = x.tport →
     e.tok.peer = x.peer →
     ∃ t, exec (.setptBch q) s = .next t ∧
       s.Sends t x (frames e.tok.tport e.tok.ks ⟨e.tok.handle, e.tok.op ||| 0x8000, e.tok.seq, e.tok.cls, x.restored, false, true, 2⟩ 3 0 (beBytes 2 stSuperseded))) ∧
  (∀ (s : State) (q : Req) (x : Ctx) (st : Nat) (fs : List Byte),
     s.ce.length = 8 ∧ (s.ceOf 2).slots.length = 3 →
     s.Open 0x0305 1 q x →
     s.checkParams 0x0305 q.pay = none →
     s.c1Refusal (tokOf q.ctx.val x 0x0305 q.seq.toNat 1) q.pay = some (st, fs) →
     ∃ t, exec (.setptBch q) s = .next t ∧
       t.mem = s.mem ∧
       t.kcp.c1 = s.kcp.c1 ∧
       t.ce = s.ce ∧
       s.Sends t x (replyOf 0x0305 1 q x st fs)) ∧
  (∀ (s : State) (q : Req) (x : Ctx),
     s.ce.length = 8 ∧ (s.ceOf 2).slots.length = 3 →
     s.Open 0x0305 1 q x →
     s.checkParams 0x0305 q.pay = none →
     s.active 10 = true ∨ s.active 11 = true →
     ∃ t, exec (.setptBch q) s = .next t ∧
       t.mem = s.mem ∧
       t.kcp.c1 = s.kcp.c1 ∧
       t.ce = s.ce ∧
       s.Sends t x (replyOf 0x0305 1 q x stSafeState s.safeFields)) ∧
  (∀ (s : State) (q : Req) (x : Ctx),
     s.ce.length = 8 ∧ (s.ceOf 2).slots.length = 3 →
     s.Open 0x0305 1 q x →
     s.checkParams 0x0305 q.pay = none →
     s.c1Refusal (tokOf q.ctx.val x 0x0305 q.seq.toNat 1) q.pay = none →
     s.c1Older (tokOf q.ctx.val x 0x0305 q.seq.toNat 1) 10 = true →
     ∃ t, exec (.setptBch q) s = .next t ∧
       t.mem = s.mem ∧
       t.kcp.c1 = s.kcp.c1 ∧
       t.ce = s.ce ∧
       s.Sends t x (replyOf 0x0305 1 q x stSuperseded [])) ∧
  (∀ (s : State) (q : Req) (x : Ctx),
     s.ce.length = 8 ∧ (s.ceOf 5).slots.length = 3 →
     s.Open 0x0306 1 q x →
     s.checkParams 0x0306 q.pay = none →
     s.c1Refusal (tokOf q.ctx.val x 0x0306 q.seq.toNat 1) q.pay = none →
     s.c1Older (tokOf q.ctx.val x 0x0306 q.seq.toNat 1) 20 = false →
     ∃ t, exec (.setptChg q) s = .next t ∧
       t.kcp.c1 = s.kcp.c1.filter (fun (e : C1Set) => !(e.ce == 5 && e.slot == 0)) ++ [⟨5, 0, (writeHalf (s.slotOf 5 0)), (s.c1Inst 0x0306), (tokOf q.ctx.val x 0x0306 q.seq.toNat 1), none, none⟩] ∧
       t.rdBytes (0x30020000 + 5 * 0x40000 + 0x1FA00 + 0x80 * 0 + 0x40 * (writeHalf (s.slotOf 5 0))) (4 + q.pay.length) = beBytes 2 q.seq.toNat ++ [BitVec.ofNat 8 q.ctx.val, 1] ++ q.pay ∧
       (t.slotOf 5 0).newest = some (writeHalf (s.slotOf 5 0)) ∧
       (t.slotOf 5 0).taken = false ∧
       (t.slotOf 5 0).held = (s.slotOf 5 0).held ∧
       s.kcp.c1.filter (fun (e : C1Set) => e.ce == 5 && e.slot == 0) = [] → t.kcp.out = s.kcp.out ∧ t.kcp.hspi = s.kcp.hspi) ∧
  (∀ (s : State) (q : Req) (x : Ctx) (e : C1Set),
     s.ce.length = 8 ∧ (s.ceOf 5).slots.length = 3 →
     s.Open 0x0306 1 q x →
     s.checkParams 0x0306 q.pay = none →
     s.c1Refusal (tokOf q.ctx.val x 0x0306 q.seq.toNat 1) q.pay = none →
     s.c1Older (tokOf q.ctx.val x 0x0306 q.seq.toNat 1) 20 = false →
     s.kcp.c1.filter (fun (o : C1Set) => o.ce == 5 && o.slot == 0) = [e] →
     e.drop = none →
     e.tok.handle = (q.ctx.val * 256 + x.gen) →
     e.tok.tport = x.tport →
     e.tok.peer = x.peer →
     ∃ t, exec (.setptChg q) s = .next t ∧
       s.Sends t x (frames e.tok.tport e.tok.ks ⟨e.tok.handle, e.tok.op ||| 0x8000, e.tok.seq, e.tok.cls, x.restored, false, true, 2⟩ 3 0 (beBytes 2 stSuperseded))) ∧
  (∀ (s : State) (q : Req) (x : Ctx) (st : Nat) (fs : List Byte),
     s.ce.length = 8 ∧ (s.ceOf 5).slots.length = 3 →
     s.Open 0x0306 1 q x →
     s.checkParams 0x0306 q.pay = none →
     s.c1Refusal (tokOf q.ctx.val x 0x0306 q.seq.toNat 1) q.pay = some (st, fs) →
     ∃ t, exec (.setptChg q) s = .next t ∧
       t.mem = s.mem ∧
       t.kcp.c1 = s.kcp.c1 ∧
       t.ce = s.ce ∧
       s.Sends t x (replyOf 0x0306 1 q x st fs)) ∧
  (∀ (s : State) (q : Req) (x : Ctx),
     s.ce.length = 8 ∧ (s.ceOf 5).slots.length = 3 →
     s.Open 0x0306 1 q x →
     s.checkParams 0x0306 q.pay = none →
     s.active 10 = true ∨ s.active 11 = true →
     ∃ t, exec (.setptChg q) s = .next t ∧
       t.mem = s.mem ∧
       t.kcp.c1 = s.kcp.c1 ∧
       t.ce = s.ce ∧
       s.Sends t x (replyOf 0x0306 1 q x stSafeState s.safeFields)) ∧
  (∀ (s : State) (q : Req) (x : Ctx),
     s.ce.length = 8 ∧ (s.ceOf 5).slots.length = 3 →
     s.Open 0x0306 1 q x →
     s.checkParams 0x0306 q.pay = none →
     s.c1Refusal (tokOf q.ctx.val x 0x0306 q.seq.toNat 1) q.pay = none →
     s.c1Older (tokOf q.ctx.val x 0x0306 q.seq.toNat 1) 20 = true →
     ∃ t, exec (.setptChg q) s = .next t ∧
       t.mem = s.mem ∧
       t.kcp.c1 = s.kcp.c1 ∧
       t.ce = s.ce ∧
       s.Sends t x (replyOf 0x0306 1 q x stSuperseded [])) ∧
  (∀ (s : State) (q : Req) (x : Ctx),
     s.ce.length = 8 ∧ (s.ceOf 6).slots.length = 3 →
     s.Open 0x0307 1 q x →
     s.checkParams 0x0307 q.pay = none →
     s.c1Refusal (tokOf q.ctx.val x 0x0307 q.seq.toNat 1) q.pay = none →
     s.c1Older (tokOf q.ctx.val x 0x0307 q.seq.toNat 1) 24 = false →
     ∃ t, exec (.setptDcd q) s = .next t ∧
       t.kcp.c1 = s.kcp.c1.filter (fun (e : C1Set) => !(e.ce == 6 && e.slot == 0)) ++ [⟨6, 0, (writeHalf (s.slotOf 6 0)), 5, (tokOf q.ctx.val x 0x0307 q.seq.toNat 1), none, none⟩] ∧
       t.rdBytes (0x30020000 + 6 * 0x40000 + 0x1FA00 + 0x80 * 0 + 0x40 * (writeHalf (s.slotOf 6 0))) (4 + q.pay.length) = beBytes 2 q.seq.toNat ++ [BitVec.ofNat 8 q.ctx.val, 1] ++ q.pay ∧
       (t.slotOf 6 0).newest = some (writeHalf (s.slotOf 6 0)) ∧
       (t.slotOf 6 0).taken = false ∧
       (t.slotOf 6 0).held = (s.slotOf 6 0).held ∧
       s.kcp.c1.filter (fun (e : C1Set) => e.ce == 6 && e.slot == 0) = [] → t.kcp.out = s.kcp.out ∧ t.kcp.hspi = s.kcp.hspi) ∧
  (∀ (s : State) (q : Req) (x : Ctx) (e : C1Set),
     s.ce.length = 8 ∧ (s.ceOf 6).slots.length = 3 →
     s.Open 0x0307 1 q x →
     s.checkParams 0x0307 q.pay = none →
     s.c1Refusal (tokOf q.ctx.val x 0x0307 q.seq.toNat 1) q.pay = none →
     s.c1Older (tokOf q.ctx.val x 0x0307 q.seq.toNat 1) 24 = false →
     s.kcp.c1.filter (fun (o : C1Set) => o.ce == 6 && o.slot == 0) = [e] →
     e.drop = none →
     e.tok.handle = (q.ctx.val * 256 + x.gen) →
     e.tok.tport = x.tport →
     e.tok.peer = x.peer →
     ∃ t, exec (.setptDcd q) s = .next t ∧
       s.Sends t x (frames e.tok.tport e.tok.ks ⟨e.tok.handle, e.tok.op ||| 0x8000, e.tok.seq, e.tok.cls, x.restored, false, true, 2⟩ 3 0 (beBytes 2 stSuperseded))) ∧
  (∀ (s : State) (q : Req) (x : Ctx) (st : Nat) (fs : List Byte),
     s.ce.length = 8 ∧ (s.ceOf 6).slots.length = 3 →
     s.Open 0x0307 1 q x →
     s.checkParams 0x0307 q.pay = none →
     s.c1Refusal (tokOf q.ctx.val x 0x0307 q.seq.toNat 1) q.pay = some (st, fs) →
     ∃ t, exec (.setptDcd q) s = .next t ∧
       t.mem = s.mem ∧
       t.kcp.c1 = s.kcp.c1 ∧
       t.ce = s.ce ∧
       s.Sends t x (replyOf 0x0307 1 q x st fs)) ∧
  (∀ (s : State) (q : Req) (x : Ctx),
     s.ce.length = 8 ∧ (s.ceOf 6).slots.length = 3 →
     s.Open 0x0307 1 q x →
     s.checkParams 0x0307 q.pay = none →
     s.active 10 = true ∨ s.active 11 = true →
     ∃ t, exec (.setptDcd q) s = .next t ∧
       t.mem = s.mem ∧
       t.kcp.c1 = s.kcp.c1 ∧
       t.ce = s.ce ∧
       s.Sends t x (replyOf 0x0307 1 q x stSafeState s.safeFields)) ∧
  (∀ (s : State) (q : Req) (x : Ctx),
     s.ce.length = 8 ∧ (s.ceOf 6).slots.length = 3 →
     s.Open 0x0307 1 q x →
     s.checkParams 0x0307 q.pay = none →
     s.c1Refusal (tokOf q.ctx.val x 0x0307 q.seq.toNat 1) q.pay = none →
     s.c1Older (tokOf q.ctx.val x 0x0307 q.seq.toNat 1) 24 = true →
     ∃ t, exec (.setptDcd q) s = .next t ∧
       t.mem = s.mem ∧
       t.kcp.c1 = s.kcp.c1 ∧
       t.ce = s.ce ∧
       s.Sends t x (replyOf 0x0307 1 q x stSuperseded []))

/-- CFG_WRITE records a parameter that nothing in use needs, and drops ended captures where it moves their buffer; it is refused
with BAD_STATE for one in use; CFG_READ and POLICY_READ answer the identifier and the value; POLICY_WRITE writes and records
its register, and is refused while an instance other than PRK and HLD is active or POL_LOCK is set; TIME_GET answers TIMEBASE,
TB_OFFSET, their sum and the flags; TIME_DISC sets the discipline; TIME_MASTER enables the CAN time master on an enabled bus,
is refused while another bus has it or its bus is not enabled, and disables it on its own bus (R41, R60, R385 to R387, R400).
OSD_RESULT answers the run's status, link voltage and 32 results; STAGE_STATUS and ACT_STATUS the registers that their rules
name, and set or end their subscription; REG_READ the words of the range, with a mask bit and zeros for those of a domain that
is off, and with the reader's latches; THERMAL_STATUS, SAFETY_STATUS and CHG_STATUS the registers that their rules name, an
input voltage that no register holds being free. OSD_START is answered HELD while a run is busy; otherwise it loads the run's
registers, and the run ends at once with the cause of the first failed condition or with no step to make, is aborted by a
forced state on a tested leg, or goes on with its steps and is answered ACCEPTED_PENDING; in HLD it first switches on the
domains that it needs (R388 to R391, R395, R396). -/
def Obligations.ConfigurationStatusAndDiagnosticRequests : Prop :=
  (∀ (s : State) (q : Req) (x : Ctx),
     s.kcp.queues.length = 4 →
     s.Ready 0x0401 3 q x →
     s.parUsed (payU q.pay 0 2) = false →
     ∃ t, exec (.cfgWrite q) s = .next t ∧
       t.par (payU q.pay 0 2) = (payU q.pay 4 4) ∧
       s.Sends t x (replyOf 0x0401 3 q x stOk []) ∧
       t.kcp.cfg = insertKey (payU q.pay 0 2) (payU q.pay 4 4) s.kcp.cfg ∧
       t.kcp.caps = (if (payU q.pay 0 2) = 0x0200 ∨ (payU q.pay 0 2) = 0x0201 then s.kcp.caps.filter (fun (c : CapReq) => !c.fin) else s.kcp.caps) ∧
       s.OnlyRegs { t with kcp := s.kcp, evl := s.evl, fresh := s.fresh } [EVL_STATUS.addr]) ∧
  (∀ (s : State) (q : Req) (x : Ctx),
     s.kcp.queues.length = 4 →
     s.Ready 0x0401 3 q x →
     s.parUsed (payU q.pay 0 2) = true →
     ∃ t, exec (.cfgWrite q) s = .next t ∧
       t.kcp.cfg = s.kcp.cfg ∧
       s.Sends t x (replyOf 0x0401 3 q x stBadState []) ∧
       s.OnlyRegs { t with kcp := s.kcp, evl := s.evl, fresh := s.fresh } [EVL_STATUS.addr]) ∧
  (∀ (s : State) (q : Req) (x : Ctx),
     s.kcp.queues.length = 4 →
     s.Ready 0x0402 3 q x →
     ∃ t, exec (.cfgRead q) s = .next t ∧
       s.Sends t x (replyOf 0x0402 3 q x stOk (beBytes 2 (payU q.pay 0 2) ++ beBytes 4 (s.par (payU q.pay 0 2)))) ∧
       s.OnlyRegs { t with kcp := s.kcp, evl := s.evl, fresh := s.fresh } [EVL_STATUS.addr] ∧
       t.kcp.cfg = s.kcp.cfg) ∧
  (∀ (s : State) (q : Req) (x : Ctx),
     s.kcp.queues.length = 4 →
     s.Ready 0x0403 3 q x →
     s.policyBusy = false →
     s.is MDM_LOCK_POL_LOCK = false →
     (payU q.pay 0 1) = 0 →
     ∃ t, exec (.policyWrite q) s = .next t ∧
       t.get ⟨MDM_PLUGPOL, 15, 0⟩ = (payU q.pay 4 4) % 65536 ∧
       t.kcp.pol = ((payU q.pay 4 4), s.kcp.pol.2.1, s.kcp.pol.2.2) ∧
       s.Sends t x (replyOf 0x0403 3 q x stOk []) ∧
       s.OnlyRegs { t with kcp := s.kcp, evl := s.evl, fresh := s.fresh } [MDM_PLUGPOL.addr, EVL_STATUS.addr]) ∧
  (∀ (s : State) (q : Req) (x : Ctx),
     s.kcp.queues.length = 4 →
     s.Ready 0x0403 3 q x →
     s.policyBusy = false →
     s.is MDM_LOCK_POL_LOCK = false →
     (payU q.pay 0 1) = 1 →
     ∃ t, exec (.policyWrite q) s = .next t ∧
       t.get ⟨MDM_PAIRDENY, 29, 0⟩ = (payU q.pay 4 4) % 2 ^ 30 ∧
       t.kcp.pol = (s.kcp.pol.1, (payU q.pay 4 4), s.kcp.pol.2.2) ∧
       s.Sends t x (replyOf 0x0403 3 q x stOk []) ∧
       s.OnlyRegs { t with kcp := s.kcp, evl := s.evl, fresh := s.fresh } [MDM_PAIRDENY.addr, EVL_STATUS.addr]) ∧
  (∀ (s : State) (q : Req) (x : Ctx),
     s.kcp.queues.length = 4 →
     s.Ready 0x0403 3 q x →
     s.policyBusy = false →
     s.is MDM_LOCK_POL_LOCK = false →
     (payU q.pay 0 1) = 2 →
     ∃ t, exec (.policyWrite q) s = .next t ∧
       t.get MDM_PLUG_DB = bitsOf 15 8 (payU q.pay 4 4) ∧
       t.is MDM_PLUG_POL = bitOf 2 (payU q.pay 4 4) ∧
       t.kcp.pol = (s.kcp.pol.1, s.kcp.pol.2.1, (payU q.pay 4 4)) ∧
       t.sup = { s.sup with plugAt := if s.is MDM_PLUG_POL = bitOf 2 (payU q.pay 4 4) then s.sup.plugAt else s.marten } ∧
       s.Sends t x (replyOf 0x0403 3 q x stOk []) ∧
       s.OnlyRegs { t with kcp := s.kcp, evl := s.evl, fresh := s.fresh, sup := s.sup } [MDM_PLUG.addr, EVL_STATUS.addr]) ∧
  (∀ (s : State) (q : Req) (x : Ctx),
     s.kcp.queues.length = 4 →
     s.Ready 0x0403 3 q x →
     s.policyBusy = true ∨ s.is MDM_LOCK_POL_LOCK = true →
     ∃ t, exec (.policyWrite q) s = .next t ∧
       t.kcp.pol = s.kcp.pol ∧
       s.Sends t x (replyOf 0x0403 3 q x stBadState []) ∧
       s.OnlyRegs { t with kcp := s.kcp, evl := s.evl, fresh := s.fresh } [EVL_STATUS.addr]) ∧
  (∀ (s : State) (q : Req) (x : Ctx),
     s.kcp.queues.length = 4 →
     s.Ready 0x0404 3 q x →
     ∃ t, exec (.policyRead q) s = .next t ∧
       s.Sends t x (replyOf 0x0404 3 q x stOk ([BitVec.ofNat 8 (payU q.pay 0 1), 0] ++ beBytes 4 (s.peek (policyReg (payU q.pay 0 1)).addr).toNat)) ∧
       s.OnlyRegs { t with kcp := s.kcp, evl := s.evl, fresh := s.fresh } [EVL_STATUS.addr]) ∧
  (∀ (s : State) (q : Req) (x : Ctx),
     s.kcp.queues.length = 4 →
     s.Ready 0x0A01 4 q x →
     ∃ t, exec (.timeGet q) s = .next t ∧
       s.Sends t x (replyOf 0x0A01 4 q x stOk (beBytes 8 s.timebase ++ beBytes 8 s.tbOffset ++ beBytes 8 ((s.timebase + s.tbOffset) % 2 ^ 64) ++ [BitVec.ofNat 8 (s.get TB_CTRL_LOCKED + 2 * s.get TB_CTRL_DISC_EN + 4 * s.get TB_CTRL_PORT), 0])) ∧
       s.OnlyRegs { t with kcp := s.kcp, evl := s.evl, fresh := s.fresh } [EVL_STATUS.addr]) ∧
  (∀ (s : State) (q : Req) (x : Ctx),
     s.kcp.queues.length = 4 →
     s.Ready 0x0A02 3 q x →
     ∃ t, exec (.timeDisc q) s = .next t ∧
       t.get TB_CTRL_DISC_EN = (payU q.pay 0 1) ∧
       t.get TB_CTRL_PORT = (payU q.pay 1 1) ∧
       s.Sends t x (replyOf 0x0A02 3 q x stOk []) ∧
       s.OnlyRegs { t with kcp := s.kcp, evl := s.evl, fresh := s.fresh } [TB_CTRL.addr, EVL_STATUS.addr]) ∧
  (∀ (s : State) (q : Req) (x : Ctx),
     s.kcp.queues.length = 4 →
     s.Ready 0x0A03 3 q x →
     (payU q.pay 1 1) = 1 →
     s.is CANG_TMCFG_EN = false ∨ s.get CANG_TMCFG_BUS = (payU q.pay 0 1) →
     s.isOn 13 = true →
     s.canEnabled (payU q.pay 0 1) = true →
     ∃ t, exec (.timeMaster q) s = .next t ∧
       t.is CANG_TMCFG_EN = true ∧
       t.get CANG_TMCFG_BUS = (payU q.pay 0 1) ∧
       t.get CANG_TMCFG_CYCLE = payU q.pay 6 2 ∧
       (t.rd CANG_TMID).toNat = payU q.pay 2 4 ∧
       s.Sends t x (replyOf 0x0A03 3 q x stOk []) ∧
       s.OnlyRegs { t with kcp := s.kcp, evl := s.evl, fresh := s.fresh, canTm := s.canTm } [CANG_TMCFG.addr, CANG_TMID.addr, EVL_STATUS.addr]) ∧
  (∀ (s : State) (q : Req) (x : Ctx),
     s.kcp.queues.length = 4 →
     s.Ready 0x0A03 3 q x →
     (payU q.pay 1 1) = 1 →
     s.is CANG_TMCFG_EN = true →
     s.get CANG_TMCFG_BUS ≠ (payU q.pay 0 1) →
     ∃ t, exec (.timeMaster q) s = .next t ∧
       s.Sends t x (replyOf 0x0A03 3 q x stHeld []) ∧
       s.OnlyRegs { t with kcp := s.kcp, evl := s.evl, fresh := s.fresh } [EVL_STATUS.addr]) ∧
  (∀ (s : State) (q : Req) (x : Ctx),
     s.kcp.queues.length = 4 →
     s.Ready 0x0A03 3 q x →
     (payU q.pay 1 1) = 1 →
     s.is CANG_TMCFG_EN = false ∨ s.get CANG_TMCFG_BUS = (payU q.pay 0 1) →
     s.isOn 13 = false ∨ s.canEnabled (payU q.pay 0 1) = false →
     ∃ t, exec (.timeMaster q) s = .next t ∧
       s.Sends t x (replyOf 0x0A03 3 q x stBadState []) ∧
       s.OnlyRegs { t with kcp := s.kcp, evl := s.evl, fresh := s.fresh } [EVL_STATUS.addr]) ∧
  (∀ (s : State) (q : Req) (x : Ctx),
     s.kcp.queues.length = 4 →
     s.Ready 0x0A03 3 q x →
     (payU q.pay 1 1) = 0 →
     s.get CANG_TMCFG_BUS = (payU q.pay 0 1) →
     ∃ t, exec (.timeMaster q) s = .next t ∧
       t.is CANG_TMCFG_EN = false ∧
       t.canTm.due = none ∧
       s.Sends t x (replyOf 0x0A03 3 q x stOk []) ∧
       s.OnlyRegs { t with kcp := s.kcp, evl := s.evl, fresh := s.fresh, canTm := s.canTm } [CANG_TMCFG.addr, EVL_STATUS.addr]) ∧
  (∀ (s : State) (q : Req) (x : Ctx),
     s.kcp.queues.length = 4 →
     s.Ready 0x0A03 3 q x →
     (payU q.pay 1 1) = 0 →
     s.get CANG_TMCFG_BUS ≠ (payU q.pay 0 1) →
     ∃ t, exec (.timeMaster q) s = .next t ∧
       s.Sends t x (replyOf 0x0A03 3 q x stOk []) ∧
       s.OnlyRegs { t with kcp := s.kcp, evl := s.evl, fresh := s.fresh } [EVL_STATUS.addr]) ∧
  (∀ (s : State) (q : Req) (x : Ctx),
     s.kcp.queues.length = 4 →
     s.Ready 0x0502 4 q x →
     ∃ t, exec (.osdResult q) s = .next t ∧
       s.Sends t x (replyOf 0x0502 4 q x stOk (beBytes 4 (s.peek GDG_OSDSTAT.addr).toNat ++ beBytes 2 (s.get GDG_OSDVDC_VDC) ++ (List.range 32).flatMap (fun k => beBytes 4 (s.peek (GDG_OSDRES k).addr).toNat))) ∧
       s.OnlyRegs { t with kcp := s.kcp, evl := s.evl, fresh := s.fresh } [EVL_STATUS.addr]) ∧
  (∀ (s : State) (q : Req) (x : Ctx),
     s.kcp.queues.length = 4 →
     s.Ready 0x0503 4 q x →
     (payU q.pay 1 1) = 0 →
     ∃ t, exec (.stageStatus q) s = .next t ∧
       s.Sends t x (replyOf 0x0503 4 q x stOk (beBytes 4 (s.peek LGC_STAT.addr).toNat ++ (setBits 6 (payU q.pay 0 1)).flatMap (fun e => [BitVec.ofNat 8 e, 0, 0, 0] ++ beBytes 4 (s.peek (LGE_PRED e).addr).toNat ++ beBytes 4 (s.peek (LGE_HEAT e).addr).toNat ++ beBytes 4 (s.peek (LGE_GRANT e).addr).toNat ++ beBytes 4 (s.peek (LGE_STAT e).addr).toNat ++ beBytes 4 (s.peek (LGE_OFS e).addr).toNat))) ∧
       s.OnlyRegs { t with kcp := s.kcp, evl := s.evl, fresh := s.fresh } [EVL_STATUS.addr] ∧
       (t.ctxOf q.ctx.val).map (fun (y : Ctx) => y.subs) = some (x.subs.filter (fun (b : Sub) => b.op != 0x0503))) ∧
  (∀ (s : State) (q : Req) (x : Ctx),
     s.kcp.queues.length = 4 →
     s.Ready 0x0503 4 q x →
     (payU q.pay 1 1) = 1 →
     ∃ t, exec (.stageStatus q) s = .next t ∧
       s.Sends t x (replyOf 0x0503 4 q x stOk (beBytes 4 (s.peek LGC_STAT.addr).toNat ++ (setBits 6 (payU q.pay 0 1)).flatMap (fun e => [BitVec.ofNat 8 e, 0, 0, 0] ++ beBytes 4 (s.peek (LGE_PRED e).addr).toNat ++ beBytes 4 (s.peek (LGE_HEAT e).addr).toNat ++ beBytes 4 (s.peek (LGE_GRANT e).addr).toNat ++ beBytes 4 (s.peek (LGE_STAT e).addr).toNat ++ beBytes 4 (s.peek (LGE_OFS e).addr).toNat))) ∧
       s.OnlyRegs { t with kcp := s.kcp, evl := s.evl, fresh := s.fresh } [EVL_STATUS.addr] ∧
       (t.ctxOf q.ctx.val).map (fun (y : Ctx) => y.subs) = some (x.subs.filter (fun (b : Sub) => b.op != 0x0503) ++ [⟨0x0503, (payU q.pay 0 1), payU q.pay 2 2, some s.tick, false⟩])) ∧
  (∀ (s : State) (q : Req) (x : Ctx),
     s.kcp.queues.length = 4 →
     s.Ready 0x0504 4 q x →
     ∃ t, exec (.regRead q) s = .next t ∧
       t.tbLatch = ((s.afterAdmission 4 q x).latchReads .kp (s.afterAdmission 4 q x).poweredAt (payU q.pay 0 4) (payU q.pay 4 1)).2.tbLatch ∧
       s.Sends t x (replyOf 0x0504 4 q x stOk (beBytes 8 (ofBits 64 (fun i => decide (i < (payU q.pay 4 1)) && !(s.afterAdmission 4 q x).poweredAt ((payU q.pay 0 4) + 4 * i))) ++ ((s.afterAdmission 4 q x).latchReads .kp (s.afterAdmission 4 q x).poweredAt (payU q.pay 0 4) (payU q.pay 4 1)).1))) ∧
  (∀ (s : State) (q : Req) (x : Ctx),
     s.kcp.queues.length = 4 →
     s.Ready 0x0504 4 q x →
     ∀ i : Fin 64, i.val < (payU q.pay 4 1) → (payU q.pay 0 4) + 4 * i.val ≠ TB_LO.addr ∧ (payU q.pay 0 4) + 4 * i.val ≠ TB_HI.addr ∧ inWin 0x40204000 0x40205000 ((payU q.pay 0 4) + 4 * i.val) = false →
     ∃ t, exec (.regRead q) s = .next t ∧
       s.Sends t x (replyOf 0x0504 4 q x stOk (beBytes 8 (ofBits 64 (fun i => decide (i < (payU q.pay 4 1)) && !(s.afterAdmission 4 q x).poweredAt ((payU q.pay 0 4) + 4 * i))) ++ (List.range (payU q.pay 4 1)).flatMap (fun i => if (s.afterAdmission 4 q x).poweredAt ((payU q.pay 0 4) + 4 * i) then beBytes 4 ((s.afterAdmission 4 q x).peek ((payU q.pay 0 4) + 4 * i)).toNat else [0, 0, 0, 0]))) ∧
       s.OnlyRegs { t with kcp := s.kcp, evl := s.evl, fresh := s.fresh } [EVL_STATUS.addr]) ∧
  (∀ (s : State) (q : Req) (x : Ctx),
     s.kcp.queues.length = 4 →
     s.Ready 0x0505 4 q x →
     ∃ t, exec (.thermalStatus q) s = .next t ∧
       s.Sends t x (replyOf 0x0505 4 q x stOk (beBytes 2 (s.get THM_STAT_TEMP_MAX) ++ [BitVec.ofNat 8 (s.get THM_STAT_STEP), BitVec.ofNat 8 (b2n s.onBackup)] ++ (List.range 30).flatMap (fun j => beBytes 2 ((s.peek (THM_T j).addr).toNat % 65536)))) ∧
       s.OnlyRegs { t with kcp := s.kcp, evl := s.evl, fresh := s.fresh } [EVL_STATUS.addr]) ∧
  (∀ (s : State) (q : Req) (x : Ctx),
     s.kcp.queues.length = 4 →
     s.Ready 0x0506 4 q x →
     ∃ t, exec (.safetyStatus q) s = .next t ∧
       s.Sends t x (replyOf 0x0506 4 q x stOk ([HSM_CFG.addr, HSM_STATUS.addr, HSM_CAUSE.addr, HSM_SIN.addr, (HSM_SPD 0).addr, (HSM_SPD 1).addr, (SCC_STAT 0).addr, (SCC_STAT 1).addr, (SCC_STAT 2).addr, (SCC_STAT 3).addr].flatMap (fun a => beBytes 4 (s.peek a).toNat))) ∧
       s.OnlyRegs { t with kcp := s.kcp, evl := s.evl, fresh := s.fresh } [EVL_STATUS.addr]) ∧
  (∀ (s : State) (q : Req) (x : Ctx),
     s.kcp.queues.length = 4 →
     s.Ready 0x0603 4 q x →
     (payU q.pay 0 1) = 0 →
     ∃ t, exec (.actStatus q) s = .next t ∧
       s.Sends t x (replyOf 0x0603 4 q x stOk (beBytes 4 (s.peek (ACS_STAT 0).addr).toNat ++ beBytes 4 (s.peek (ACS_STAT 1).addr).toNat ++ beBytes 4 (s.peek (ACS_STAT 2).addr).toNat ++ (List.range 3).flatMap (fun n => beBytes 4 (unsigned 32 (s.actCnt n))) ++ beBytes 4 (s.peek DCS_STAT.addr).toNat ++ beBytes 2 (s.get DCS_IOUT_IOUT))) ∧
       s.OnlyRegs { t with kcp := s.kcp, evl := s.evl, fresh := s.fresh } [EVL_STATUS.addr] ∧
       (t.ctxOf q.ctx.val).map (fun (y : Ctx) => y.subs) = some (x.subs.filter (fun (b : Sub) => b.op != 0x0603))) ∧
  (∀ (s : State) (q : Req) (x : Ctx),
     s.kcp.queues.length = 4 →
     s.Ready 0x0603 4 q x →
     (payU q.pay 0 1) = 1 →
     ∃ t, exec (.actStatus q) s = .next t ∧
       s.Sends t x (replyOf 0x0603 4 q x stOk (beBytes 4 (s.peek (ACS_STAT 0).addr).toNat ++ beBytes 4 (s.peek (ACS_STAT 1).addr).toNat ++ beBytes 4 (s.peek (ACS_STAT 2).addr).toNat ++ (List.range 3).flatMap (fun n => beBytes 4 (unsigned 32 (s.actCnt n))) ++ beBytes 4 (s.peek DCS_STAT.addr).toNat ++ beBytes 2 (s.get DCS_IOUT_IOUT))) ∧
       s.OnlyRegs { t with kcp := s.kcp, evl := s.evl, fresh := s.fresh } [EVL_STATUS.addr] ∧
       (t.ctxOf q.ctx.val).map (fun (y : Ctx) => y.subs) = some (x.subs.filter (fun (b : Sub) => b.op != 0x0603) ++ [⟨0x0603, 0, 0, some s.tick, false⟩])) ∧
  (∀ (s : State) (q : Req) (x : Ctx),
     s.kcp.queues.length = 4 →
     s.Ready 0x0702 4 q x →
     ∃ t, exec (.chgStatus q) s = .next t ∧
       ∃ v : Nat, v < 65536 ∧ s.Sends t x (replyOf 0x0702 4 q x stOk (beBytes 4 (s.peek MDM_PLUG.addr).toNat ++ beBytes 2 (s.get ADG_VDC_VDC) ++ beBytes 2 v ++ [1, 2, 3].flatMap (fun e => beBytes 4 (s.peek (LGE_GRANT e).addr).toNat ++ beBytes 4 (s.peek (LGE_STAT e).addr).toNat))) ∧
       s.OnlyRegs { t with kcp := s.kcp, evl := s.evl, fresh := s.fresh } [EVL_STATUS.addr]) ∧
  (∀ (s : State) (q : Req) (x : Ctx),
     s.kcp.queues.length = 4 →
     s.Ready 0x0501 4 q x →
     s.is GDG_OSDSTAT_BUSY = true →
     ∃ t, exec (.osdStart q) s = .next t ∧
       s.Sends t x (replyOf 0x0501 4 q x stHeld []) ∧
       s.OnlyRegs { t with kcp := s.kcp, evl := s.evl, fresh := s.fresh } [EVL_STATUS.addr] ∧
       t.osd = s.osd) ∧
  (∀ (s : State) (q : Req) (x : Ctx),
     s.kcp.queues.length = 4 →
     s.Ready 0x0501 4 q x →
     s.is GDG_OSDSTAT_BUSY = false →
     s.active 11 = false ∨ ([9, 10, 11, 12].filter (fun d => (setBits 32 (payU q.pay 0 4)).any (fun k => gateGroup (2 * k) == d - 9) && (!s.isOn d && s.domReady d && s.domExists d))) = [] →
     600 ≤ s.get ADG_VDC_VDC →
     ∃ t, exec (.osdStart q) s = .next t ∧
       (t.rd GDG_OSDLEGS).toNat = payU q.pay 0 4 ∧
       t.get GDG_OSDCTRL_SETTLE = payU q.pay 4 1 % GDG_OSDCTRL_SETTLE.size ∧
       t.is GDG_OSDCTRL_SHORT_EN = bitOf 0 (payU q.pay 5 1) ∧
       t.is GDG_OSDCTRL_OPEN_EN = bitOf 1 (payU q.pay 5 1) ∧
       ∀ n : Fin 8, (t.rd (GDG_OSDPAIR n.val)).toNat = leNat ((q.pay.drop (8 + 4 * n.val)).take 4) ∧
       t.is GDG_OSDSTAT_BUSY = false ∧
       t.get GDG_OSDSTAT_CAUSE = 1 ∧
       s.Sends t x (replyOf 0x0501 4 q x stOk [BitVec.ofNat 8 1, 0])) ∧
  (∀ (s : State) (q : Req) (x : Ctx),
     s.kcp.queues.length = 4 →
     s.Ready 0x0501 4 q x →
     s.is GDG_OSDSTAT_BUSY = false →
     s.active 11 = false ∨ ([9, 10, 11, 12].filter (fun d => (setBits 32 (payU q.pay 0 4)).any (fun k => gateGroup (2 * k) == d - 9) && (!s.isOn d && s.domReady d && s.domExists d))) = [] →
     s.get ADG_VDC_VDC < 600 →
     (setBits 32 (payU q.pay 0 4)).any (fun k => s.is (GD_STATUS_CMD (2 * k)) || s.is (GD_STATUS_CMD (2 * k + 1))) = true →
     ∃ t, exec (.osdStart q) s = .next t ∧
       (t.rd GDG_OSDLEGS).toNat = payU q.pay 0 4 ∧
       t.get GDG_OSDCTRL_SETTLE = payU q.pay 4 1 % GDG_OSDCTRL_SETTLE.size ∧
       t.is GDG_OSDCTRL_SHORT_EN = bitOf 0 (payU q.pay 5 1) ∧
       t.is GDG_OSDCTRL_OPEN_EN = bitOf 1 (payU q.pay 5 1) ∧
       ∀ n : Fin 8, (t.rd (GDG_OSDPAIR n.val)).toNat = leNat ((q.pay.drop (8 + 4 * n.val)).take 4) ∧
       t.is GDG_OSDSTAT_BUSY = false ∧
       t.get GDG_OSDSTAT_CAUSE = 3 ∧
       s.Sends t x (replyOf 0x0501 4 q x stOk [BitVec.ofNat 8 3, 0])) ∧
  (∀ (s : State) (q : Req) (x : Ctx),
     s.kcp.queues.length = 4 →
     s.Ready 0x0501 4 q x →
     s.is GDG_OSDSTAT_BUSY = false →
     s.active 11 = false ∨ ([9, 10, 11, 12].filter (fun d => (setBits 32 (payU q.pay 0 4)).any (fun k => gateGroup (2 * k) == d - 9) && (!s.isOn d && s.domReady d && s.domExists d))) = [] →
     s.get ADG_VDC_VDC < 600 →
     (setBits 32 (payU q.pay 0 4)).any (fun k => s.is (GD_STATUS_CMD (2 * k)) || s.is (GD_STATUS_CMD (2 * k + 1))) = false →
     (setBits 32 (payU q.pay 0 4)).any (fun k => if k ≤ 20 then !(s.is (GD_STATUS_BIASOK (2 * k)) && s.is (GD_STATUS_BIASOK (2 * k + 1))) else !s.isOn 12) = true →
     ∃ t, exec (.osdStart q) s = .next t ∧
       (t.rd GDG_OSDLEGS).toNat = payU q.pay 0 4 ∧
       t.get GDG_OSDCTRL_SETTLE = payU q.pay 4 1 % GDG_OSDCTRL_SETTLE.size ∧
       t.is GDG_OSDCTRL_SHORT_EN = bitOf 0 (payU q.pay 5 1) ∧
       t.is GDG_OSDCTRL_OPEN_EN = bitOf 1 (payU q.pay 5 1) ∧
       ∀ n : Fin 8, (t.rd (GDG_OSDPAIR n.val)).toNat = leNat ((q.pay.drop (8 + 4 * n.val)).take 4) ∧
       t.is GDG_OSDSTAT_BUSY = false ∧
       t.get GDG_OSDSTAT_CAUSE = 4 ∧
       s.Sends t x (replyOf 0x0501 4 q x stOk [BitVec.ofNat 8 4, 0])) ∧
  (∀ (s : State) (q : Req) (x : Ctx),
     s.kcp.queues.length = 4 →
     s.Ready 0x0501 4 q x →
     s.is GDG_OSDSTAT_BUSY = false →
     s.active 11 = false ∨ ([9, 10, 11, 12].filter (fun d => (setBits 32 (payU q.pay 0 4)).any (fun k => gateGroup (2 * k) == d - 9) && (!s.isOn d && s.domReady d && s.domExists d))) = [] →
     s.get ADG_VDC_VDC < 600 →
     (setBits 32 (payU q.pay 0 4)).any (fun k => s.is (GD_STATUS_CMD (2 * k)) || s.is (GD_STATUS_CMD (2 * k + 1))) = false →
     (setBits 32 (payU q.pay 0 4)).any (fun k => if k ≤ 20 then !(s.is (GD_STATUS_BIASOK (2 * k)) && s.is (GD_STATUS_BIASOK (2 * k + 1))) else !s.isOn 12) = false →
     ((if bitOf 0 (payU q.pay 5 1) then (setBits 32 (payU q.pay 0 4)).flatMap (fun k => [OsdStep.shlo k, OsdStep.shhi k]) else []) ++ (if bitOf 1 (payU q.pay 5 1) then ((setBits 32 (payU q.pay 0 4)).filter (fun k => bitOf 7 ((fun (k : Nat) => payU q.pay (8 + k) 1) k))).map (fun k => OsdStep.opn k (bitsOf 4 0 ((fun (k : Nat) => payU q.pay (8 + k) 1) k))) else [])) = [] →
     ∃ t, exec (.osdStart q) s = .next t ∧
       (t.rd GDG_OSDLEGS).toNat = payU q.pay 0 4 ∧
       t.get GDG_OSDCTRL_SETTLE = payU q.pay 4 1 % GDG_OSDCTRL_SETTLE.size ∧
       t.is GDG_OSDCTRL_SHORT_EN = bitOf 0 (payU q.pay 5 1) ∧
       t.is GDG_OSDCTRL_OPEN_EN = bitOf 1 (payU q.pay 5 1) ∧
       ∀ n : Fin 8, (t.rd (GDG_OSDPAIR n.val)).toNat = leNat ((q.pay.drop (8 + 4 * n.val)).take 4) ∧
       t.is GDG_OSDSTAT_BUSY = false ∧
       t.get GDG_OSDSTAT_CAUSE = 0 ∧
       s.Sends t x (replyOf 0x0501 4 q x stOk [BitVec.ofNat 8 0, 0]) ∧
       t.get GDG_OSDVDC_VDC = s.get ADG_VDC_VDC) ∧
  (∀ (s : State) (q : Req) (x : Ctx),
     s.kcp.queues.length = 4 →
     s.Ready 0x0501 4 q x →
     s.is GDG_OSDSTAT_BUSY = false →
     s.active 11 = false ∨ ([9, 10, 11, 12].filter (fun d => (setBits 32 (payU q.pay 0 4)).any (fun k => gateGroup (2 * k) == d - 9) && (!s.isOn d && s.domReady d && s.domExists d))) = [] →
     s.get ADG_VDC_VDC < 600 →
     (setBits 32 (payU q.pay 0 4)).any (fun k => s.is (GD_STATUS_CMD (2 * k)) || s.is (GD_STATUS_CMD (2 * k + 1))) = false →
     (setBits 32 (payU q.pay 0 4)).any (fun k => if k ≤ 20 then !(s.is (GD_STATUS_BIASOK (2 * k)) && s.is (GD_STATUS_BIASOK (2 * k + 1))) else !s.isOn 12) = false →
     ((if bitOf 0 (payU q.pay 5 1) then (setBits 32 (payU q.pay 0 4)).flatMap (fun k => [OsdStep.shlo k, OsdStep.shhi k]) else []) ++ (if bitOf 1 (payU q.pay 5 1) then ((setBits 32 (payU q.pay 0 4)).filter (fun k => bitOf 7 ((fun (k : Nat) => payU q.pay (8 + k) 1) k))).map (fun k => OsdStep.opn k (bitsOf 4 0 ((fun (k : Nat) => payU q.pay (8 + k) 1) k))) else [])) ≠ [] →
     (setBits 32 (payU q.pay 0 4)).any (fun k => s.is (GD_STATUS_FORCED (2 * k)) || s.is (GD_STATUS_FORCED (2 * k + 1))) = false →
     ∃ t, exec (.osdStart q) s = .next t ∧
       (t.rd GDG_OSDLEGS).toNat = payU q.pay 0 4 ∧
       t.get GDG_OSDCTRL_SETTLE = payU q.pay 4 1 % GDG_OSDCTRL_SETTLE.size ∧
       t.is GDG_OSDCTRL_SHORT_EN = bitOf 0 (payU q.pay 5 1) ∧
       t.is GDG_OSDCTRL_OPEN_EN = bitOf 1 (payU q.pay 5 1) ∧
       ∀ n : Fin 8, (t.rd (GDG_OSDPAIR n.val)).toNat = leNat ((q.pay.drop (8 + 4 * n.val)).take 4) ∧
       t.is GDG_OSDSTAT_BUSY = true ∧
       t.osd.steps = ((if bitOf 0 (payU q.pay 5 1) then (setBits 32 (payU q.pay 0 4)).flatMap (fun k => [OsdStep.shlo k, OsdStep.shhi k]) else []) ++ (if bitOf 1 (payU q.pay 5 1) then ((setBits 32 (payU q.pay 0 4)).filter (fun k => bitOf 7 ((fun (k : Nat) => payU q.pay (8 + k) 1) k))).map (fun k => OsdStep.opn k (bitsOf 4 0 ((fun (k : Nat) => payU q.pay (8 + k) 1) k))) else [])) ∧
       t.osd.since = s.now ∧
       t.osd.wait = false ∧
       t.get GDG_OSDVDC_VDC = s.get ADG_VDC_VDC ∧
       s.Sends t x (replyOf 0x0501 4 q x stPending [])) ∧
  (∀ (s : State) (q : Req) (x : Ctx),
     s.kcp.queues.length = 4 →
     s.Ready 0x0501 4 q x →
     s.is GDG_OSDSTAT_BUSY = false →
     s.active 11 = false ∨ ([9, 10, 11, 12].filter (fun d => (setBits 32 (payU q.pay 0 4)).any (fun k => gateGroup (2 * k) == d - 9) && (!s.isOn d && s.domReady d && s.domExists d))) = [] →
     s.get ADG_VDC_VDC < 600 →
     (setBits 32 (payU q.pay 0 4)).any (fun k => s.is (GD_STATUS_CMD (2 * k)) || s.is (GD_STATUS_CMD (2 * k + 1))) = false →
     (setBits 32 (payU q.pay 0 4)).any (fun k => if k ≤ 20 then !(s.is (GD_STATUS_BIASOK (2 * k)) && s.is (GD_STATUS_BIASOK (2 * k + 1))) else !s.isOn 12) = false →
     ((if bitOf 0 (payU q.pay 5 1) then (setBits 32 (payU q.pay 0 4)).flatMap (fun k => [OsdStep.shlo k, OsdStep.shhi k]) else []) ++ (if bitOf 1 (payU q.pay 5 1) then ((setBits 32 (payU q.pay 0 4)).filter (fun k => bitOf 7 ((fun (k : Nat) => payU q.pay (8 + k) 1) k))).map (fun k => OsdStep.opn k (bitsOf 4 0 ((fun (k : Nat) => payU q.pay (8 + k) 1) k))) else [])) ≠ [] →
     (setBits 32 (payU q.pay 0 4)).any (fun k => s.is (GD_STATUS_FORCED (2 * k)) || s.is (GD_STATUS_FORCED (2 * k + 1))) = true →
     ∃ t, exec (.osdStart q) s = .next t ∧
       (t.rd GDG_OSDLEGS).toNat = payU q.pay 0 4 ∧
       t.get GDG_OSDCTRL_SETTLE = payU q.pay 4 1 % GDG_OSDCTRL_SETTLE.size ∧
       t.is GDG_OSDCTRL_SHORT_EN = bitOf 0 (payU q.pay 5 1) ∧
       t.is GDG_OSDCTRL_OPEN_EN = bitOf 1 (payU q.pay 5 1) ∧
       ∀ n : Fin 8, (t.rd (GDG_OSDPAIR n.val)).toNat = leNat ((q.pay.drop (8 + 4 * n.val)).take 4) ∧
       t.is GDG_OSDSTAT_BUSY = false ∧
       t.get GDG_OSDSTAT_CAUSE = 6 ∧
       s.Sends t x (replyOf 0x0501 4 q x stOk [BitVec.ofNat 8 6, 0])) ∧
  (∀ (s : State) (q : Req) (x : Ctx),
     s.kcp.queues.length = 4 →
     s.Ready 0x0501 4 q x →
     s.is GDG_OSDSTAT_BUSY = false →
     s.active 11 = true →
     ([9, 10, 11, 12].filter (fun d => (setBits 32 (payU q.pay 0 4)).any (fun k => gateGroup (2 * k) == d - 9) && (!s.isOn d && s.domReady d && s.domExists d))) ≠ [] →
     ∃ t, exec (.osdStart q) s = .next t ∧
       (t.rd GDG_OSDLEGS).toNat = payU q.pay 0 4 ∧
       t.get GDG_OSDCTRL_SETTLE = payU q.pay 4 1 % GDG_OSDCTRL_SETTLE.size ∧
       t.is GDG_OSDCTRL_SHORT_EN = bitOf 0 (payU q.pay 5 1) ∧
       t.is GDG_OSDCTRL_OPEN_EN = bitOf 1 (payU q.pay 5 1) ∧
       ∀ n : Fin 8, (t.rd (GDG_OSDPAIR n.val)).toNat = leNat ((q.pay.drop (8 + 4 * n.val)).take 4) ∧
       t.is GDG_OSDSTAT_BUSY = true ∧
       t.osd.wait = true ∧
       t.osd.since = s.now ∧
       t.osd.doms = ([9, 10, 11, 12].filter (fun d => (setBits 32 (payU q.pay 0 4)).any (fun k => gateGroup (2 * k) == d - 9) && (!s.isOn d && s.domReady d && s.domExists d))) ∧
       ∀ o : Fin 14, o.val ∈ ([9, 10, 11, 12].filter (fun d => (setBits 32 (payU q.pay 0 4)).any (fun k => gateGroup (2 * k) == d - 9) && (!s.isOn d && s.domReady d && s.domExists d))) → t.isOn o.val = true ∧
       s.Sends t x (replyOf 0x0501 4 q x stPending []))

/-- CAPTURE_START needs a buffer that holds its length, an idle unit and no other session's capture; it loads the unit's
registers, starts the unit at once for start code 0xFF, and waits with ACCEPTED_PENDING. When the capture has ended its last
words reach the buffer, and its session is answered with the count, the time and the state; the capture of a session that has
ended is dropped. CAPTURE_READ answers bytes of the session's last capture within it. LOG_READ answers records of either log
from the ring, with the next and the newest index, the newest of an empty log being free. FORCE_COLD in HLD with cause 2 or 3
clears HOLD and FAILS and a cold start is due, and is refused otherwise (R392, R393, R397, R466). -/
def Obligations.CapturesLogsAndForceCold : Prop :=
  (∀ (s : State) (q : Req) (x : Ctx),
     s.kcp.queues.length = 4 →
     s.Ready 0x0507 4 q x →
     s.capBase = 0 →
     ∃ t, exec (.captureStart q) s = .next t ∧
       s.Sends t x (replyOf 0x0507 4 q x stBadState []) ∧
       s.OnlyRegs { t with kcp := s.kcp, evl := s.evl, fresh := s.fresh } [EVL_STATUS.addr] ∧
       t.kcp.caps = s.kcp.caps) ∧
  (∀ (s : State) (q : Req) (x : Ctx),
     s.kcp.queues.length = 4 →
     s.Ready 0x0507 4 q x →
     s.capBase ≠ 0 →
     s.par 0x0201 * 65536 < 2 * (payU q.pay 4 4) →
     ∃ t, exec (.captureStart q) s = .next t ∧
       s.Sends t x (replyOf 0x0507 4 q x stBadParam (beBytes 2 4)) ∧
       s.OnlyRegs { t with kcp := s.kcp, evl := s.evl, fresh := s.fresh } [EVL_STATUS.addr] ∧
       t.kcp.caps = s.kcp.caps) ∧
  (∀ (s : State) (q : Req) (x : Ctx),
     s.kcp.queues.length = 4 →
     s.Ready 0x0507 4 q x →
     s.capBase ≠ 0 →
     2 * (payU q.pay 4 4) ≤ s.par 0x0201 * 65536 →
     s.get (CAP_STATUS_STATE (payU q.pay 0 1)) ≠ 0 ∨ s.kcp.caps.any (fun (c : CapReq) => !c.fin && c.tok.handle != (q.ctx.val * 256 + x.gen)) = true →
     ∃ t, exec (.captureStart q) s = .next t ∧
       s.Sends t x (replyOf 0x0507 4 q x stHeld []) ∧
       s.OnlyRegs { t with kcp := s.kcp, evl := s.evl, fresh := s.fresh } [EVL_STATUS.addr] ∧
       t.kcp.caps = s.kcp.caps) ∧
  (∀ (s : State) (q : Req) (x : Ctx),
     s.kcp.queues.length = 4 →
     s.Ready 0x0507 4 q x →
     s.capBase ≠ 0 →
     2 * (payU q.pay 4 4) ≤ s.par 0x0201 * 65536 →
     s.get (CAP_STATUS_STATE (payU q.pay 0 1)) = 0 →
     s.kcp.caps.any (fun (c : CapReq) => !c.fin && c.tok.handle != (q.ctx.val * 256 + x.gen)) = false →
     payU q.pay 3 1 ≠ 0xFF →
     ∃ t, exec (.captureStart q) s = .next t ∧
       t.kcp.caps = (s.kcp.caps.filter (fun (c : CapReq) => !(c.fin && c.tok.handle == (q.ctx.val * 256 + x.gen))) ++ [(⟨(payU q.pay 0 1), s.tokOf 0x0507 4 q x, false, 0, false⟩ : CapReq)]) ∧
       (t.rd (CAP_CFG (payU q.pay 0 1))).toNat = payU q.pay 4 4 % 65536 * 65536 + payU q.pay 3 1 * 256 + payU q.pay 2 1 ∧
       t.get (CAP_SRC_AD (payU q.pay 0 1)) = payU q.pay 1 1 ∧
       s.Sends t x (replyOf 0x0507 4 q x stPending []) ∧
       t.mem = s.mem ∧
       s.OnlyRegs { t with kcp := s.kcp, evl := s.evl, fresh := s.fresh } [(CAP_CFG (payU q.pay 0 1)).addr, (CAP_SRC (payU q.pay 0 1)).addr, EVL_STATUS.addr]) ∧
  (∀ (s : State) (q : Req) (x : Ctx),
     s.kcp.queues.length = 4 →
     s.Ready 0x0507 4 q x →
     s.capBase ≠ 0 →
     2 * (payU q.pay 4 4) ≤ s.par 0x0201 * 65536 →
     s.get (CAP_STATUS_STATE (payU q.pay 0 1)) = 0 →
     s.kcp.caps.any (fun (c : CapReq) => !c.fin && c.tok.handle != (q.ctx.val * 256 + x.gen)) = false →
     payU q.pay 3 1 = 0xFF →
     s.conv.caps.length = 4 →
     ∃ t, exec (.captureStart q) s = .next t ∧
       t.kcp.caps = (s.kcp.caps.filter (fun (c : CapReq) => !(c.fin && c.tok.handle == (q.ctx.val * 256 + x.gen))) ++ [(⟨(payU q.pay 0 1), s.tokOf 0x0507 4 q x, false, 0, false⟩ : CapReq)]).map (fun (c : CapReq) => if c.unit = (payU q.pay 0 1) ∧ c.fin = false then { c with ran := true } else c) ∧
       (t.rd (CAP_CFG (payU q.pay 0 1))).toNat = payU q.pay 4 4 % 65536 * 65536 + payU q.pay 3 1 * 256 + payU q.pay 2 1 ∧
       t.get (CAP_SRC_AD (payU q.pay 0 1)) = payU q.pay 1 1 ∧
       s.Sends t x (replyOf 0x0507 4 q x stPending []) ∧
       t.mem = s.mem ∧
       t.get (CAP_STATUS_STATE (payU q.pay 0 1)) = 1 ∧
       t.get (CAP_STATUS_STORED (payU q.pay 0 1)) = 0 ∧
       t.capFifo (payU q.pay 0 1) = []) ∧
  (∀ (s : State) (u : Fin 4) (c : CapReq) (x : Ctx),
     s.start.kp = true →
     s.pllA = true →
     s.get (CAP_STATUS_STATE u.val) = 0 ∨ s.get (CAP_STATUS_STATE u.val) = 3 →
     s.kcp.caps = [c] →
     c.unit = u.val →
     c.ran = true →
     c.fin = false →
     s.conv.caps.length = 4 →
     s.session c.tok.handle = some x →
     x.tport = c.tok.tport →
     x.peer = c.tok.peer →
     ∃ t, exec (.captureComplete u) s = .next t ∧
       t.kcp.caps = [{ c with stored := c.stored + (s.capFifo u.val).length, fin := true }] ∧
       t.rdBytes (s.capBase + 2 * c.stored) (2 * (s.capFifo u.val).length) = (s.capFifo u.val).flatMap (fun (w : Word) => leBytes 2 w.toNat) ∧
       s.Sends t x (frames c.tok.tport c.tok.ks ⟨c.tok.handle, c.tok.op ||| 0x8000, c.tok.seq, c.tok.cls, x.restored, false, true, 15⟩ 16 0 (beBytes 2 stOk ++ beBytes 4 (c.stored + (s.capFifo u.val).length) ++ beBytes 4 (s.get (CAP_T0HI_T0 u.val)) ++ beBytes 4 (s.get (CAP_T0LO_T0 u.val)) ++ [BitVec.ofNat 8 (s.get (CAP_STATUS_STATE u.val))])) ∧
       t.capFifo u.val = []) ∧
  (∀ (s : State) (u : Fin 4) (c : CapReq),
     s.start.kp = true →
     s.pllA = true →
     s.get (CAP_STATUS_STATE u.val) = 0 ∨ s.get (CAP_STATUS_STATE u.val) = 3 →
     s.kcp.caps = [c] →
     c.unit = u.val →
     c.ran = true →
     c.fin = false →
     s.conv.caps.length = 4 →
     s.session c.tok.handle = none →
     ∃ t, exec (.captureComplete u) s = .next t ∧
       t.kcp.caps = [] ∧
       t.rdBytes (s.capBase + 2 * c.stored) (2 * (s.capFifo u.val).length) = (s.capFifo u.val).flatMap (fun (w : Word) => leBytes 2 w.toNat) ∧
       t.capFifo u.val = []) ∧
  (∀ (s : State) (u : Fin 4),
     s.start.kp = true →
     s.pllA = true →
     s.get (CAP_STATUS_STATE u.val) = 0 ∨ s.get (CAP_STATUS_STATE u.val) = 3 →
     s.kcp.caps.all (fun (o : CapReq) => o.unit != u.val || !o.ran || o.fin) = true →
     ∃ t, exec (.captureComplete u) s = .next t ∧
       t = s.capDrainAll) ∧
  (∀ (s : State) (u : Fin 4),
     s.start.kp = false ∨ s.pllA = false ∨ (s.get (CAP_STATUS_STATE u.val) ≠ 0 ∧ s.get (CAP_STATUS_STATE u.val) ≠ 3) →
     ∃ t, exec (.captureComplete u) s = .next t ∧
       t = s) ∧
  (∀ (s : State) (q : Req) (x : Ctx) (c : CapReq),
     s.kcp.queues.length = 4 →
     s.Ready 0x0508 5 q x →
     (s.kcp.caps.reverse.find? (fun (o : CapReq) => o.fin && o.tok.handle == (q.ctx.val * 256 + x.gen))) = some c →
     payU q.pay 0 4 + payU q.pay 4 2 ≤ 2 * c.stored →
     ∃ t, exec (.captureRead q) s = .next t ∧
       s.Sends t x (replyOf 0x0508 5 q x stOk (beBytes 4 (payU q.pay 0 4) ++ s.rdBytes (s.capBase + payU q.pay 0 4) (payU q.pay 4 2))) ∧
       s.OnlyRegs { t with kcp := s.kcp, evl := s.evl, fresh := s.fresh } [EVL_STATUS.addr]) ∧
  (∀ (s : State) (q : Req) (x : Ctx) (c : CapReq),
     s.kcp.queues.length = 4 →
     s.Ready 0x0508 5 q x →
     (s.kcp.caps.reverse.find? (fun (o : CapReq) => o.fin && o.tok.handle == (q.ctx.val * 256 + x.gen))) = some c →
     2 * c.stored < payU q.pay 0 4 + payU q.pay 4 2 →
     ∃ t, exec (.captureRead q) s = .next t ∧
       s.Sends t x (replyOf 0x0508 5 q x stBadParam (beBytes 2 0)) ∧
       s.OnlyRegs { t with kcp := s.kcp, evl := s.evl, fresh := s.fresh } [EVL_STATUS.addr]) ∧
  (∀ (s : State) (q : Req) (x : Ctx),
     s.kcp.queues.length = 4 →
     s.Ready 0x0508 5 q x →
     (s.kcp.caps.reverse.find? (fun (o : CapReq) => o.fin && o.tok.handle == (q.ctx.val * 256 + x.gen))) = none →
     ∃ t, exec (.captureRead q) s = .next t ∧
       s.Sends t x (replyOf 0x0508 5 q x stBadState []) ∧
       s.OnlyRegs { t with kcp := s.kcp, evl := s.evl, fresh := s.fresh } [EVL_STATUS.addr]) ∧
  (∀ (s : State) (q : Req) (x : Ctx),
     s.kcp.queues.length = 4 →
     s.Ready 0x0509 4 q x →
     s.active 11 = true ∧ (s.get MDM_HOLD_CAUSE = 2 ∨ s.get MDM_HOLD_CAUSE = 3) →
     ∃ t, exec (.forceCold q) s = .next t ∧
       t.start.trig = some 0 ∧
       t.get AON_START_HOLD = 0 ∧
       t.get AON_START_FAILS = 0 ∧
       s.Sends t x (replyOf 0x0509 4 q x stOk []) ∧
       t.rd MDM_ACTIVE = s.rd MDM_ACTIVE) ∧
  (∀ (s : State) (q : Req) (x : Ctx),
     s.kcp.queues.length = 4 →
     s.Ready 0x0509 4 q x →
     ¬(s.active 11 = true ∧ (s.get MDM_HOLD_CAUSE = 2 ∨ s.get MDM_HOLD_CAUSE = 3)) →
     ∃ t, exec (.forceCold q) s = .next t ∧
       t.start = s.start ∧
       s.Sends t x (replyOf 0x0509 4 q x stBadState []) ∧
       s.OnlyRegs { t with kcp := s.kcp, evl := s.evl, fresh := s.fresh } [EVL_STATUS.addr]) ∧
  (∀ (s : State) (q : Req) (x : Ctx) (base size next cnt st num : Nat),
     s.kcp.queues.length = 4 →
     s.Ready 0x0801 5 q x →
     s.logRing ((payU q.pay 0 1) == 1) = (base, size, next, cnt) →
     st = (if (payU q.pay 4 4) = 0xFFFFFFFF then (next + size - cnt) % size else (payU q.pay 4 4)) →
     num = (if size ≤ st then 0 else min (payU q.pay 2 2) (cnt - (st + size - (next + size - cnt) % size) % size)) →
     cnt ≠ 0 →
     ∃ t, exec (.logRead q) s = .next t ∧
       s.Sends t x (replyOf 0x0801 5 q x stOk ([BitVec.ofNat 8 (payU q.pay 0 1), 0] ++ beBytes 2 num ++ beBytes 4 (if num = 0 then st else (st + num) % size) ++ beBytes 4 ((next + size - 1) % size) ++ (List.range num).flatMap (fun i => s.memBytes (base + (st + i) % size * 32) 32))) ∧
       s.OnlyRegs { t with kcp := s.kcp, evl := s.evl, fresh := s.fresh } [EVL_STATUS.addr]) ∧
  (∀ (s : State) (q : Req) (x : Ctx) (base size next cnt st num : Nat),
     s.kcp.queues.length = 4 →
     s.Ready 0x0801 5 q x →
     s.logRing ((payU q.pay 0 1) == 1) = (base, size, next, cnt) →
     st = (if (payU q.pay 4 4) = 0xFFFFFFFF then (next + size - cnt) % size else (payU q.pay 4 4)) →
     num = (if size ≤ st then 0 else min (payU q.pay 2 2) (cnt - (st + size - (next + size - cnt) % size) % size)) →
     cnt = 0 →
     ∃ t, exec (.logRead q) s = .next t ∧
       num = 0 ∧
       ∃ v : Nat, v < 2 ^ 32 ∧ s.Sends t x (replyOf 0x0801 5 q x stOk ([BitVec.ofNat 8 (payU q.pay 0 1), 0] ++ beBytes 2 num ++ beBytes 4 (if num = 0 then st else (st + num) % size) ++ beBytes 4 v ++ (List.range num).flatMap (fun i => s.memBytes (base + (st + i) % size * 32) 32))) ∧
       s.OnlyRegs { t with kcp := s.kcp, evl := s.evl, fresh := s.fresh } [EVL_STATUS.addr])

/-- ACT_SEQ is evaluated after what is due in its tick. With every check passed it puts the actuator into PRECHECK with its code;
an inactive ACT becomes active, owned by the session, and an active one keeps its owner. SST or HLD is answered SAFE_STATE; an
ACT that exits, a run of the off-state diagnostics on the modules, D12 off or the plug policy BAD_STATE; a running actuator
HELD; a pair rule or a condition of R272 its status; none of these changes an instance or a sequence. ACT_ABORT by the
starter, or with the starter's lease gone, answers OK and ends the sequence with result 2, by another session it is HELD, and
with no sequence BAD_STATE. BATT_LIMITS writes both limits in units of 10 W, saturated, and is refused in HLD with SAFE_STATE
(R39, R48, R58, R257, R272, R273, R394, R396). -/
def Obligations.ActuatorAndBatteryRequests : Prop :=
  (∀ (s : State) (q : Req) (x : Ctx),
     s.kcp.queues.length = 4 →
     s.Ready 0x0601 2 q x →
     (s.atMode q x).act.length = 3 →
     (s.atMode q x).modes.owner.length = 12 →
     (s.atMode q x).gateRefusal 6 false = none →
     (s.atMode q x).modes.exitAct = [] →
     (s.atMode q x).osdBlocks (actMods (payU q.pay 0 1)) = false →
     (s.atMode q x).isOn 12 = true →
     (s.atMode q x).actRuns (payU q.pay 0 1) = false →
     (s.atMode q x).seqPlug (payU q.pay 0 1) (payU q.pay 1 1) = false →
     (s.atMode q x).seqPairs (payU q.pay 1 1) = none →
     (s.atMode q x).seqRefusal (payU q.pay 0 1) (payU q.pay 1 1) = none →
     (s.atMode q x).active 6 = false →
     ∃ t, exec (.actSeq q) s = .next t ∧
       t.active 6 = true ∧
       t.ownerOf 6 = some (q.ctx.val * 256 + x.gen) ∧
       ∀ i : Fin 12, i.val ≠ 6 → t.active i.val = (s.atMode q x).active i.val ∧
       t.actRuns (payU q.pay 0 1) = true ∧
       t.get (ACS_STAT_SEQ (payU q.pay 0 1)) = (payU q.pay 1 1) ∧
       t.get (ACS_STAT_PHASE (payU q.pay 0 1)) = 1 ∧
       (t.actOf (payU q.pay 0 1)).handle = (q.ctx.val * 256 + x.gen) ∧
       (t.actOf (payU q.pay 0 1)).began = (s.atMode q x).now ∧
       (s.atMode q x).Sends t x ((s.atMode q x).replyTo 0x0601 2 q x stOk [])) ∧
  (∀ (s : State) (q : Req) (x : Ctx),
     s.kcp.queues.length = 4 →
     s.Ready 0x0601 2 q x →
     (s.atMode q x).act.length = 3 →
     (s.atMode q x).gateRefusal 6 false = none →
     (s.atMode q x).modes.exitAct = [] →
     (s.atMode q x).osdBlocks (actMods (payU q.pay 0 1)) = false →
     (s.atMode q x).isOn 12 = true →
     (s.atMode q x).actRuns (payU q.pay 0 1) = false →
     (s.atMode q x).seqPlug (payU q.pay 0 1) (payU q.pay 1 1) = false →
     (s.atMode q x).seqPairs (payU q.pay 1 1) = none →
     (s.atMode q x).seqRefusal (payU q.pay 0 1) (payU q.pay 1 1) = none →
     (s.atMode q x).active 6 = true →
     ∃ t, exec (.actSeq q) s = .next t ∧
       t.rd MDM_ACTIVE = (s.atMode q x).rd MDM_ACTIVE ∧
       t.modes.owner = (s.atMode q x).modes.owner ∧
       t.actRuns (payU q.pay 0 1) = true ∧
       t.get (ACS_STAT_SEQ (payU q.pay 0 1)) = (payU q.pay 1 1) ∧
       t.get (ACS_STAT_PHASE (payU q.pay 0 1)) = 1 ∧
       (t.actOf (payU q.pay 0 1)).handle = (q.ctx.val * 256 + x.gen) ∧
       (t.actOf (payU q.pay 0 1)).began = (s.atMode q x).now ∧
       (s.atMode q x).Sends t x ((s.atMode q x).replyTo 0x0601 2 q x stOk [])) ∧
  (∀ (s : State) (q : Req) (x : Ctx) (st : Nat),
     s.kcp.queues.length = 4 →
     s.Ready 0x0601 2 q x →
     (s.atMode q x).gateRefusal 6 false = some st →
     ∃ t, exec (.actSeq q) s = .next t ∧
       t.rd MDM_ACTIVE = (s.atMode q x).rd MDM_ACTIVE ∧
       t.act = (s.atMode q x).act ∧
       t.modes = (s.atMode q x).modes ∧
       (s.atMode q x).Sends t x ((s.atMode q x).replyTo 0x0601 2 q x st (if st = stSafeState then (s.atMode q x).safeFields else beBytes 2 0))) ∧
  (∀ (s : State) (q : Req) (x : Ctx),
     s.kcp.queues.length = 4 →
     s.Ready 0x0601 2 q x →
     (s.atMode q x).gateRefusal 6 false = none →
     (s.atMode q x).modes.exitAct ≠ [] ∨ (s.atMode q x).osdBlocks (actMods (payU q.pay 0 1)) = true ∨ (s.atMode q x).isOn 12 = false →
     ∃ t, exec (.actSeq q) s = .next t ∧
       t.rd MDM_ACTIVE = (s.atMode q x).rd MDM_ACTIVE ∧
       t.act = (s.atMode q x).act ∧
       t.modes = (s.atMode q x).modes ∧
       (s.atMode q x).Sends t x ((s.atMode q x).replyTo 0x0601 2 q x stBadState [])) ∧
  (∀ (s : State) (q : Req) (x : Ctx),
     s.kcp.queues.length = 4 →
     s.Ready 0x0601 2 q x →
     (s.atMode q x).gateRefusal 6 false = none →
     (s.atMode q x).modes.exitAct = [] →
     (s.atMode q x).osdBlocks (actMods (payU q.pay 0 1)) = false →
     (s.atMode q x).isOn 12 = true →
     (s.atMode q x).actRuns (payU q.pay 0 1) = true →
     ∃ t, exec (.actSeq q) s = .next t ∧
       t.rd MDM_ACTIVE = (s.atMode q x).rd MDM_ACTIVE ∧
       t.act = (s.atMode q x).act ∧
       t.modes = (s.atMode q x).modes ∧
       (s.atMode q x).Sends t x ((s.atMode q x).replyTo 0x0601 2 q x stHeld [])) ∧
  (∀ (s : State) (q : Req) (x : Ctx),
     s.kcp.queues.length = 4 →
     s.Ready 0x0601 2 q x →
     (s.atMode q x).gateRefusal 6 false = none →
     (s.atMode q x).modes.exitAct = [] →
     (s.atMode q x).osdBlocks (actMods (payU q.pay 0 1)) = false →
     (s.atMode q x).isOn 12 = true →
     (s.atMode q x).actRuns (payU q.pay 0 1) = false →
     (s.atMode q x).seqPlug (payU q.pay 0 1) (payU q.pay 1 1) = true →
     ∃ t, exec (.actSeq q) s = .next t ∧
       t.rd MDM_ACTIVE = (s.atMode q x).rd MDM_ACTIVE ∧
       t.act = (s.atMode q x).act ∧
       t.modes = (s.atMode q x).modes ∧
       (s.atMode q x).Sends t x ((s.atMode q x).replyTo 0x0601 2 q x stBadState [])) ∧
  (∀ (s : State) (q : Req) (x : Ctx) (st : Nat),
     s.kcp.queues.length = 4 →
     s.Ready 0x0601 2 q x →
     (s.atMode q x).gateRefusal 6 false = none →
     (s.atMode q x).modes.exitAct = [] →
     (s.atMode q x).osdBlocks (actMods (payU q.pay 0 1)) = false →
     (s.atMode q x).isOn 12 = true →
     (s.atMode q x).actRuns (payU q.pay 0 1) = false →
     (s.atMode q x).seqPlug (payU q.pay 0 1) (payU q.pay 1 1) = false →
     (s.atMode q x).seqPairs (payU q.pay 1 1) = some st →
     ∃ t, exec (.actSeq q) s = .next t ∧
       t.rd MDM_ACTIVE = (s.atMode q x).rd MDM_ACTIVE ∧
       t.act = (s.atMode q x).act ∧
       t.modes = (s.atMode q x).modes ∧
       (s.atMode q x).Sends t x ((s.atMode q x).replyTo 0x0601 2 q x st [])) ∧
  (∀ (s : State) (q : Req) (x : Ctx) (st : Nat),
     s.kcp.queues.length = 4 →
     s.Ready 0x0601 2 q x →
     (s.atMode q x).gateRefusal 6 false = none →
     (s.atMode q x).modes.exitAct = [] →
     (s.atMode q x).osdBlocks (actMods (payU q.pay 0 1)) = false →
     (s.atMode q x).isOn 12 = true →
     (s.atMode q x).actRuns (payU q.pay 0 1) = false →
     (s.atMode q x).seqPlug (payU q.pay 0 1) (payU q.pay 1 1) = false →
     (s.atMode q x).seqPairs (payU q.pay 1 1) = none →
     (s.atMode q x).seqRefusal (payU q.pay 0 1) (payU q.pay 1 1) = some st →
     ∃ t, exec (.actSeq q) s = .next t ∧
       t.rd MDM_ACTIVE = (s.atMode q x).rd MDM_ACTIVE ∧
       t.act = (s.atMode q x).act ∧
       t.modes = (s.atMode q x).modes ∧
       (s.atMode q x).Sends t x ((s.atMode q x).replyTo 0x0601 2 q x st [])) ∧
  (∀ (s : State) (q : Req) (x : Ctx),
     s.kcp.queues.length = 4 →
     s.Ready 0x0602 2 q x →
     s.act.length = 3 →
     s.actRuns (payU q.pay 0 1) = true →
     (s.actOf (payU q.pay 0 1)).handle = (q.ctx.val * 256 + x.gen) ∨ s.valid (s.actOf (payU q.pay 0 1)).handle = false →
     ∃ t, exec (.actAbort q) s = .next t ∧
       t.actRuns (payU q.pay 0 1) = false ∧
       t.get (ACS_STAT_RESULT (payU q.pay 0 1)) = 2 ∧
       s.modes.exitAct = [] → s.modes.pend = [] → s.Sends t x (replyOf 0x0602 2 q x stOk [])) ∧
  (∀ (s : State) (q : Req) (x : Ctx),
     s.kcp.queues.length = 4 →
     s.Ready 0x0602 2 q x →
     s.actRuns (payU q.pay 0 1) = true →
     (s.actOf (payU q.pay 0 1)).handle ≠ (q.ctx.val * 256 + x.gen) →
     s.valid (s.actOf (payU q.pay 0 1)).handle = true →
     ∃ t, exec (.actAbort q) s = .next t ∧
       s.Sends t x (replyOf 0x0602 2 q x stHeld []) ∧
       s.OnlyRegs { t with kcp := s.kcp, evl := s.evl, fresh := s.fresh } [EVL_STATUS.addr] ∧
       t.act = s.act) ∧
  (∀ (s : State) (q : Req) (x : Ctx),
     s.kcp.queues.length = 4 →
     s.Ready 0x0602 2 q x →
     s.actRuns (payU q.pay 0 1) = false →
     ∃ t, exec (.actAbort q) s = .next t ∧
       s.Sends t x (replyOf 0x0602 2 q x stBadState []) ∧
       s.OnlyRegs { t with kcp := s.kcp, evl := s.evl, fresh := s.fresh } [EVL_STATUS.addr] ∧
       t.act = s.act) ∧
  (∀ (s : State) (q : Req) (x : Ctx),
     s.kcp.queues.length = 4 →
     s.Ready 0x0701 2 q x →
     s.active 11 = false →
     ∃ t, exec (.battLimits q) s = .next t ∧
       t.get LGC_BATLIM_DIS = min 0xFFFF (payU q.pay 0 4 / 10) ∧
       t.get LGC_BATLIM_CHG = min 0xFFFF (payU q.pay 4 4 / 10) ∧
       t.ledger.batAt = some s.cyc ∧
       t.is LGC_STAT_FALLBACK = false ∧
       s.Sends t x (replyOf 0x0701 2 q x stOk [])) ∧
  (∀ (s : State) (q : Req) (x : Ctx),
     s.kcp.queues.length = 4 →
     s.Ready 0x0701 2 q x →
     s.active 11 = true →
     ∃ t, exec (.battLimits q) s = .next t ∧
       t.rd LGC_BATLIM = s.rd LGC_BATLIM ∧
       t.ledger = s.ledger ∧
       s.Sends t x (replyOf 0x0701 2 q x stSafeState s.safeFields))

/-- FW_BEGIN opens an update for its session and clears the verified mark of the bank that does not run; FW_DATA writes its bytes
at the offset in that bank and notes its blocks, and is answered BAD_PARAM past the length or for an incomplete block before
its end; FW_END with every block written waits for the verification; during it another FW_BEGIN is HELD and FW_END BAD_STATE.
A verification that passes with an epoch at or above the floor marks the bank and answers OK, another is answered VERIFY_FAIL.
Without an update FW_DATA and FW_END are BAD_STATE; another session's update is HELD, and transfers on the backup supply or at
step 4 are THROTTLED. FW_SELECT takes a verified bank only; FW_INFO answers the banks (R398, R399, R469). -/
def Obligations.FirmwareRequestsUpdateTheOtherBank : Prop :=
  (∀ (s : State) (q : Req) (x : Ctx),
     s.kcp.queues.length = 4 →
     s.Ready 0x0901 5 q x →
     s.kcp.fw.all (fun (g : FwUpd) => g.handle == (q.ctx.val * 256 + x.gen) && g.verify.isNone) = true →
     s.is GDG_AGG_BACKUP = false ∧ s.get THM_STAT_STEP < 4 →
     s.start.banks.length = 2 →
     ∃ t, exec (.fwBegin q) s = .next t ∧
       t.kcp.fw = some ⟨(q.ctx.val * 256 + x.gen), payU q.pay 0 4, [], none⟩ ∧
       (t.bankOf s.idleBank).verified = false ∧
       t.bankOf (1 - s.idleBank) = s.bankOf (1 - s.idleBank) ∧
       t.mem = s.mem ∧
       s.Sends t x (replyOf 0x0901 5 q x stOk [BitVec.ofNat 8 s.idleBank])) ∧
  (∀ (s : State) (q : Req) (x : Ctx) (f : FwUpd),
     s.kcp.queues.length = 4 →
     s.Ready 0x0901 5 q x →
     s.kcp.fw = some f →
     f.handle = (q.ctx.val * 256 + x.gen) →
     f.verify.isSome = true →
     s.is GDG_AGG_BACKUP = false ∧ s.get THM_STAT_STEP < 4 →
     ∃ t, exec (.fwBegin q) s = .next t ∧
       t.kcp.fw = s.kcp.fw ∧
       t.start = s.start ∧
       t.mem = s.mem ∧
       s.Sends t x (replyOf 0x0901 5 q x stHeld [])) ∧
  (∀ (s : State) (q : Req) (x : Ctx) (f : FwUpd),
     s.kcp.queues.length = 4 →
     s.Ready 0x0901 5 q x →
     s.kcp.fw = some f →
     f.handle ≠ (q.ctx.val * 256 + x.gen) →
     ∃ t, exec (.fwBegin q) s = .next t ∧
       t.kcp.fw = s.kcp.fw ∧
       t.start = s.start ∧
       t.mem = s.mem ∧
       s.Sends t x (replyOf 0x0901 5 q x stHeld [])) ∧
  (∀ (s : State) (q : Req) (x : Ctx),
     s.kcp.queues.length = 4 →
     s.Ready 0x0901 5 q x →
     s.kcp.fw.all (fun (g : FwUpd) => g.handle == (q.ctx.val * 256 + x.gen)) = true →
     s.is GDG_AGG_BACKUP = true ∨ 4 ≤ s.get THM_STAT_STEP →
     ∃ t, exec (.fwBegin q) s = .next t ∧
       t.kcp.fw = s.kcp.fw ∧
       t.start = s.start ∧
       t.mem = s.mem ∧
       s.Sends t x (replyOf 0x0901 5 q x stThrottled ([BitVec.ofNat 8 (s.get THM_STAT_STEP), BitVec.ofNat 8 (b2n s.onBackup)] ++ beBytes 2 1024))) ∧
  (∀ (s : State) (q : Req) (x : Ctx) (f : FwUpd),
     s.kcp.queues.length = 4 →
     s.Ready 0x0902 5 q x →
     s.kcp.fw = some f →
     f.handle ≠ (q.ctx.val * 256 + x.gen) →
     ∃ t, exec (.fwData q) s = .next t ∧
       t.kcp.fw = s.kcp.fw ∧
       t.start = s.start ∧
       t.mem = s.mem ∧
       s.Sends t x (replyOf 0x0902 5 q x stHeld [])) ∧
  (∀ (s : State) (q : Req) (x : Ctx),
     s.kcp.queues.length = 4 →
     s.Ready 0x0902 5 q x →
     s.kcp.fw.all (fun (g : FwUpd) => g.handle == (q.ctx.val * 256 + x.gen)) = true →
     s.is GDG_AGG_BACKUP = true ∨ 4 ≤ s.get THM_STAT_STEP →
     ∃ t, exec (.fwData q) s = .next t ∧
       t.kcp.fw = s.kcp.fw ∧
       t.start = s.start ∧
       t.mem = s.mem ∧
       s.Sends t x (replyOf 0x0902 5 q x stThrottled ([BitVec.ofNat 8 (s.get THM_STAT_STEP), BitVec.ofNat 8 (b2n s.onBackup)] ++ beBytes 2 1024))) ∧
  (∀ (s : State) (q : Req) (x : Ctx) (f : FwUpd),
     s.kcp.queues.length = 4 →
     s.Ready 0x0903 5 q x →
     s.kcp.fw = some f →
     f.handle ≠ (q.ctx.val * 256 + x.gen) →
     ∃ t, exec (.fwEnd q) s = .next t ∧
       t.kcp.fw = s.kcp.fw ∧
       t.start = s.start ∧
       t.mem = s.mem ∧
       s.Sends t x (replyOf 0x0903 5 q x stHeld [])) ∧
  (∀ (s : State) (q : Req) (x : Ctx),
     s.kcp.queues.length = 4 →
     s.Ready 0x0903 5 q x →
     s.kcp.fw.all (fun (g : FwUpd) => g.handle == (q.ctx.val * 256 + x.gen)) = true →
     s.is GDG_AGG_BACKUP = true ∨ 4 ≤ s.get THM_STAT_STEP →
     ∃ t, exec (.fwEnd q) s = .next t ∧
       t.kcp.fw = s.kcp.fw ∧
       t.start = s.start ∧
       t.mem = s.mem ∧
       s.Sends t x (replyOf 0x0903 5 q x stThrottled ([BitVec.ofNat 8 (s.get THM_STAT_STEP), BitVec.ofNat 8 (b2n s.onBackup)] ++ beBytes 2 1024))) ∧
  (∀ (s : State) (q : Req) (x : Ctx) (f : FwUpd),
     s.kcp.queues.length = 4 →
     s.Ready 0x0902 5 q x →
     s.kcp.fw = some f →
     f.handle = (q.ctx.val * 256 + x.gen) →
     s.is GDG_AGG_BACKUP = false ∧ s.get THM_STAT_STEP < 4 →
     payU q.pay 0 4 + (q.pay.drop 4).length ≤ f.len →
     (q.pay.drop 4).length % 64 = 0 ∨ payU q.pay 0 4 + (q.pay.drop 4).length = f.len →
     ∃ t, exec (.fwData q) s = .next t ∧
       t.rdBytes (bankBase s.idleBank + payU q.pay 0 4) (q.pay.drop 4).length = q.pay.drop 4 ∧
       ∀ a, a < bankBase s.idleBank + payU q.pay 0 4 ∨ bankBase s.idleBank + payU q.pay 0 4 + (q.pay.drop 4).length ≤ a → t.rdByte a = s.rdByte a ∧
       ∀ i : Fin 64, i.val < ((q.pay.drop 4).length + 63) / 64 → (t.kcp.fw.map (fun (g : FwUpd) => g.blocks.contains (payU q.pay 0 4 / 64 + i.val))) = some true ∧
       t.kcp.fw.map (fun (g : FwUpd) => (g.handle, g.len, g.verify)) = some (f.handle, f.len, f.verify) ∧
       s.Sends t x (replyOf 0x0902 5 q x stOk [])) ∧
  (∀ (s : State) (q : Req) (x : Ctx) (f : FwUpd),
     s.kcp.queues.length = 4 →
     s.Ready 0x0902 5 q x →
     s.kcp.fw = some f →
     f.handle = (q.ctx.val * 256 + x.gen) →
     s.is GDG_AGG_BACKUP = false ∧ s.get THM_STAT_STEP < 4 →
     f.len < payU q.pay 0 4 + (q.pay.drop 4).length ∨ ((q.pay.drop 4).length % 64 ≠ 0 ∧ payU q.pay 0 4 + (q.pay.drop 4).length ≠ f.len) →
     ∃ t, exec (.fwData q) s = .next t ∧
       t.kcp.fw = s.kcp.fw ∧
       t.start = s.start ∧
       t.mem = s.mem ∧
       s.Sends t x (replyOf 0x0902 5 q x stBadParam (beBytes 2 4))) ∧
  (∀ (s : State) (q : Req) (x : Ctx),
     s.kcp.queues.length = 4 →
     s.Ready 0x0902 5 q x →
     s.kcp.fw = none →
     s.is GDG_AGG_BACKUP = false ∧ s.get THM_STAT_STEP < 4 →
     ∃ t, exec (.fwData q) s = .next t ∧
       t.kcp.fw = s.kcp.fw ∧
       t.start = s.start ∧
       t.mem = s.mem ∧
       s.Sends t x (replyOf 0x0902 5 q x stBadState [])) ∧
  (∀ (s : State) (q : Req) (x : Ctx) (f : FwUpd),
     s.kcp.queues.length = 4 →
     s.Ready 0x0903 5 q x →
     s.kcp.fw = some f →
     f.handle = (q.ctx.val * 256 + x.gen) →
     s.is GDG_AGG_BACKUP = false ∧ s.get THM_STAT_STEP < 4 →
     f.verify = none →
     (f.len + 63) / 64 ≤ f.blocks.length →
     ∃ t, exec (.fwEnd q) s = .next t ∧
       t.kcp.fw = some { f with verify := some (s.tokOf 0x0903 5 q x) } ∧
       s.Sends t x (replyOf 0x0903 5 q x stPending []) ∧
       t.start = s.start) ∧
  (∀ (s : State) (q : Req) (x : Ctx) (f : FwUpd),
     s.kcp.queues.length = 4 →
     s.Ready 0x0903 5 q x →
     s.kcp.fw = some f →
     f.handle = (q.ctx.val * 256 + x.gen) →
     s.is GDG_AGG_BACKUP = false ∧ s.get THM_STAT_STEP < 4 →
     f.verify.isSome = true ∨ f.blocks.length < (f.len + 63) / 64 →
     ∃ t, exec (.fwEnd q) s = .next t ∧
       t.kcp.fw = s.kcp.fw ∧
       t.start = s.start ∧
       t.mem = s.mem ∧
       s.Sends t x (replyOf 0x0903 5 q x stBadState [])) ∧
  (∀ (s : State) (q : Req) (x : Ctx),
     s.kcp.queues.length = 4 →
     s.Ready 0x0903 5 q x →
     s.kcp.fw = none →
     s.is GDG_AGG_BACKUP = false ∧ s.get THM_STAT_STEP < 4 →
     ∃ t, exec (.fwEnd q) s = .next t ∧
       t.kcp.fw = s.kcp.fw ∧
       t.start = s.start ∧
       t.mem = s.mem ∧
       s.Sends t x (replyOf 0x0903 5 q x stBadState [])) ∧
  (∀ (s : State) (ok prod : Bool) (ver : Word) (ep : Fin 64) (f : FwUpd) (tk : Tok) (x : Ctx),
     s.start.kp = true →
     s.pllA = true →
     s.start.banks.length = 2 →
     s.kcp.fw = some f →
     f.verify = some tk →
     s.session tk.handle = some x →
     x.tport = tk.tport →
     x.peer = tk.peer →
     ok = true →
     s.start.floor ≤ ep.val →
     ∃ t, exec (.fwVerifyDone ok prod ver ep) s = .next t ∧
       t.kcp.fw = none ∧
       t.bankOf s.idleBank = ⟨true, ver.toNat, ep.val, prod⟩ ∧
       t.bankOf (1 - s.idleBank) = s.bankOf (1 - s.idleBank) ∧
       s.Sends t x (frames tk.tport tk.ks ⟨tk.handle, tk.op ||| 0x8000, tk.seq, tk.cls, x.restored, false, true, 2⟩ 3 0 (beBytes 2 stOk ++ []))) ∧
  (∀ (s : State) (ok prod : Bool) (ver : Word) (ep : Fin 64) (f : FwUpd) (tk : Tok) (x : Ctx),
     s.start.kp = true →
     s.pllA = true →
     s.start.banks.length = 2 →
     s.kcp.fw = some f →
     f.verify = some tk →
     s.session tk.handle = some x →
     x.tport = tk.tport →
     x.peer = tk.peer →
     ok = false ∨ ep.val < s.start.floor →
     ∃ t, exec (.fwVerifyDone ok prod ver ep) s = .next t ∧
       t.kcp.fw = none ∧
       t.start = s.start ∧
       s.Sends t x (frames tk.tport tk.ks ⟨tk.handle, tk.op ||| 0x8000, tk.seq, tk.cls, x.restored, false, true, 3⟩ 4 0 (beBytes 2 stVerifyFail ++ [BitVec.ofNat 8 s.idleBank]))) ∧
  (∀ (s : State) (ok prod : Bool) (ver : Word) (ep : Fin 64),
     s.start.kp = false ∨ s.pllA = false ∨ s.kcp.fw.all (fun (g : FwUpd) => g.verify.isNone) = true →
     ∃ t, exec (.fwVerifyDone ok prod ver ep) s = .next t ∧
       t = s) ∧
  (∀ (s : State) (q : Req) (x : Ctx),
     s.kcp.queues.length = 4 →
     s.Ready 0x0904 5 q x →
     (s.bankOf (payU q.pay 0 1)).verified = true →
     ∃ t, exec (.fwSelect q) s = .next t ∧
       t.start.selected = (payU q.pay 0 1) ∧
       t.start.bank = s.start.bank ∧
       s.Sends t x (replyOf 0x0904 5 q x stOk [])) ∧
  (∀ (s : State) (q : Req) (x : Ctx),
     s.kcp.queues.length = 4 →
     s.Ready 0x0904 5 q x →
     (s.bankOf (payU q.pay 0 1)).verified = false →
     ∃ t, exec (.fwSelect q) s = .next t ∧
       t.start = s.start ∧
       s.Sends t x (replyOf 0x0904 5 q x stBadState [])) ∧
  (∀ (s : State) (q : Req) (x : Ctx),
     s.kcp.queues.length = 4 →
     s.Ready 0x0905 4 q x →
     ∃ t, exec (.fwInfo q) s = .next t ∧
       s.Sends t x (replyOf 0x0905 4 q x stOk ([BitVec.ofNat 8 s.start.bank, BitVec.ofNat 8 s.start.selected, BitVec.ofNat 8 (b2n (s.bankOf 0).verified + 2 * b2n (s.bankOf 1).verified + 4 * b2n s.kcp.fw.isSome), 0] ++ beBytes 4 (s.bankOf 0).version ++ beBytes 4 (s.bankOf 1).version)) ∧
       s.OnlyRegs { t with kcp := s.kcp, evl := s.evl, fresh := s.fresh } [EVL_STATUS.addr])

/-- For each opcode that the spec marks "keyed session" (FORCE_COLD, FW_BEGIN, FW_DATA, FW_END, FW_SELECT: no others) and every
request of it in a live session opened with SLOT = 0xF: the reply is AUTH_FAIL, the failure is counted, and nothing that the
opcode would do happens. -/
def Obligations.KeyedOpcodesNeedAKeyedSession : Prop :=
  (∀ (s : State) (q : Req) (x : Ctx),
     s.Live q x →
     x.slot = 0xF →
     ∃ t, exec (.forceCold q) s = .next t ∧
       s.Sends t x (replyOf 0x0509 4 q x stAuthFail []) ∧
       t.get KCP_ERR0_AUTHFAIL = min (s.get KCP_ERR0_AUTHFAIL + 1) 65535 ∧
       t.start = s.start ∧
       t.kcp.fw = s.kcp.fw ∧
       s.OnlyRegs { t with kcp := s.kcp } [KCP_ERR0.addr]) ∧
  (∀ (s : State) (q : Req) (x : Ctx),
     s.Live q x →
     x.slot = 0xF →
     ∃ t, exec (.fwBegin q) s = .next t ∧
       s.Sends t x (replyOf 0x0901 5 q x stAuthFail []) ∧
       t.get KCP_ERR0_AUTHFAIL = min (s.get KCP_ERR0_AUTHFAIL + 1) 65535 ∧
       t.start = s.start ∧
       t.kcp.fw = s.kcp.fw ∧
       s.OnlyRegs { t with kcp := s.kcp } [KCP_ERR0.addr]) ∧
  (∀ (s : State) (q : Req) (x : Ctx),
     s.Live q x →
     x.slot = 0xF →
     ∃ t, exec (.fwData q) s = .next t ∧
       s.Sends t x (replyOf 0x0902 5 q x stAuthFail []) ∧
       t.get KCP_ERR0_AUTHFAIL = min (s.get KCP_ERR0_AUTHFAIL + 1) 65535 ∧
       t.start = s.start ∧
       t.kcp.fw = s.kcp.fw ∧
       s.OnlyRegs { t with kcp := s.kcp } [KCP_ERR0.addr]) ∧
  (∀ (s : State) (q : Req) (x : Ctx),
     s.Live q x →
     x.slot = 0xF →
     ∃ t, exec (.fwEnd q) s = .next t ∧
       s.Sends t x (replyOf 0x0903 5 q x stAuthFail []) ∧
       t.get KCP_ERR0_AUTHFAIL = min (s.get KCP_ERR0_AUTHFAIL + 1) 65535 ∧
       t.start = s.start ∧
       t.kcp.fw = s.kcp.fw ∧
       s.OnlyRegs { t with kcp := s.kcp } [KCP_ERR0.addr]) ∧
  (∀ (s : State) (q : Req) (x : Ctx),
     s.Live q x →
     x.slot = 0xF →
     ∃ t, exec (.fwSelect q) s = .next t ∧
       s.Sends t x (replyOf 0x0904 5 q x stAuthFail []) ∧
       t.get KCP_ERR0_AUTHFAIL = min (s.get KCP_ERR0_AUTHFAIL + 1) 65535 ∧
       t.start = s.start ∧
       t.kcp.fw = s.kcp.fw ∧
       s.OnlyRegs { t with kcp := s.kcp } [KCP_ERR0.addr]) ∧
  (∀ (op : Nat),
     opKeyed op = true ↔ op ∈ [0x0509, 0x0901, 0x0902, 0x0903, 0x0904])

/-- A write of INIT = 1 stops the controller and ends what is pending with result 3, at once or, with a frame in progress, at its
end; in INIT the guarded fields take the write, and outside it they stay and a change of them sets CFGIGN; a write of INIT = 0
with a good area starts the integration, with a bad one it leaves INIT and sets its flag; the integration puts the controller
on the bus; a receive error raises REC in normal operation, into error passive at 128, and in the other modes leaves it;
RECOVER in bus-off starts the recovery, whose end clears both counters; OPMODE takes effect between frames; an instant of the
basic cycle makes a reference due, advances the cycle count and counts a missed one. Elsewhere nothing changes (R403, R404,
R412 to R415). -/
def Obligations.CanControllersConfigureAndConfine : Prop :=
  (∀ (s : State) (ini : Initiator) (n : Fin 4) (val : Word),
     s.can.length = 4 →
     s.Reaches ini (CAN_CTRL n.val).addr →
     s.is (CAN_CTRL_INIT n.val) = false →
     ∃ t, exec (.canInitSet ini n val false) s = .next t ∧
       t.is (CAN_CTRL_INIT n.val) = true ∧
       (t.canOf n.val).live = 0 ∧
       (t.canOf n.val).att = none ∧
       (t.get (CAN_TXPEND_PEND n.val)) = 0 ∧
       (t.canOf n.val).stopAt = false ∧
       ∀ b : Fin 28, bitOf b.val (s.get (CAN_TXPEND_PEND n.val)) = true → t.canRes n.val b.val = 3 ∧
       t.get (CAN_CTRL_OPMODE n.val) = bitsOf 30 29 val.toNat ∧
       t.get (CAN_CTRL_DMAEN n.val) = bitsOf 20 20 val.toNat) ∧
  (∀ (s : State) (ini : Initiator) (n : Fin 4) (val : Word),
     s.can.length = 4 →
     s.Reaches ini (CAN_CTRL n.val).addr →
     s.is (CAN_CTRL_INIT n.val) = false →
     ∃ t, exec (.canInitSet ini n val true) s = .next t ∧
       t.is (CAN_CTRL_INIT n.val) = false ∧
       (t.canOf n.val).stopAt = true ∧
       (t.get (CAN_TXPEND_PEND n.val)) = (s.get (CAN_TXPEND_PEND n.val)) ∧
       t.get (CAN_CTRL_OPMODE n.val) = bitsOf 30 29 val.toNat ∧
       t.get (CAN_CTRL_DMAEN n.val) = bitsOf 20 20 val.toNat) ∧
  (∀ (s : State) (ini : Initiator) (n : Fin 4) (val : Word) (busy : Bool),
     s.can.length = 4 →
     s.Reaches ini (CAN_CTRL n.val).addr →
     s.is (CAN_CTRL_INIT n.val) = true →
     ∃ t, exec (.canInitSet ini n val busy) s = .next t ∧
       t.is (CAN_CTRL_INIT n.val) = true ∧
       (t.canOf n.val).live = (s.canOf n.val).live ∧
       bitsOf 28 21 (t.rd (CAN_CTRL n.val)).toNat = bitsOf 28 21 val.toNat ∧
       t.get (CAN_CTRL_OPMODE n.val) = bitsOf 30 29 val.toNat ∧
       t.get (CAN_CTRL_DMAEN n.val) = bitsOf 20 20 val.toNat) ∧
  (∀ (s : State) (ini : Initiator) (n : Fin 4) (val : Word) (busy : Bool),
     s.can.length = 4 →
     s.Reaches ini (CAN_CTRL n.val).addr →
     s.is (CAN_CTRL_INIT n.val) = false →
     ∃ t, exec (.canInitSet ini n val busy) s = .next t ∧
       bitsOf 28 21 (t.rd (CAN_CTRL n.val)).toNat = bitsOf 28 21 (s.rd (CAN_CTRL n.val)).toNat ∧
       bitsOf 28 21 (s.rd (CAN_CTRL n.val)).toNat ≠ bitsOf 28 21 val.toNat → bitOf 7 (t.rd (CAN_IFLG n.val)).toNat = true) ∧
  (∀ (s : State) (ini : Initiator) (n : Fin 4) (val : Word),
     s.can.length = 4 →
     s.Reaches ini (CAN_CTRL n.val).addr →
     s.is (CAN_CTRL_INIT n.val) = true →
     s.canBadArea n.val = false →
     ∃ t, exec (.canInitClear ini n val) s = .next t ∧
       t.is (CAN_CTRL_INIT n.val) = false ∧
       (t.canOf n.val).live = 1 ∧
       (t.canOf n.val).mode = min 2 (bitsOf 30 29 val.toNat)) ∧
  (∀ (s : State) (ini : Initiator) (n : Fin 4) (val : Word),
     s.can.length = 4 →
     s.Reaches ini (CAN_CTRL n.val).addr →
     s.is (CAN_CTRL_INIT n.val) = true →
     s.canBadArea n.val = true →
     ∃ t, exec (.canInitClear ini n val) s = .next t ∧
       t.is (CAN_CTRL_INIT n.val) = true ∧
       (t.canOf n.val).live = (s.canOf n.val).live ∧
       bitOf 8 (t.rd (CAN_IFLG n.val)).toNat = true) ∧
  (∀ (s : State) (ini : Initiator) (n : Fin 4) (val : Word),
     s.can.length = 4 →
     s.Reaches ini (CAN_CTRL n.val).addr →
     s.is (CAN_CTRL_INIT n.val) = false →
     ∃ t, exec (.canInitClear ini n val) s = .next t ∧
       t.is (CAN_CTRL_INIT n.val) = false ∧
       (t.canOf n.val).live = (s.canOf n.val).live ∧
       bitsOf 28 21 (t.rd (CAN_CTRL n.val)).toNat = bitsOf 28 21 (s.rd (CAN_CTRL n.val)).toNat ∧
       (t.get (CAN_TXPEND_PEND n.val)) = (s.get (CAN_TXPEND_PEND n.val)) ∧
       t.get (CAN_CTRL_OPMODE n.val) = bitsOf 30 29 val.toNat ∧
       t.get (CAN_CTRL_DMAEN n.val) = bitsOf 20 20 val.toNat) ∧
  (∀ (s : State) (n : Fin 4),
     s.can.length = 4 →
     s.canClocked = true →
     (s.canOf n.val).live = 1 →
     ∃ t, exec (.canBusIntegration n) s = .next t ∧
       t = s.setCan n.val { (s.canOf n.val) with live := 2 }) ∧
  (∀ (s : State) (n : Fin 4),
     s.canClocked = false ∨ (s.canOf n.val).live ≠ 1 →
     ∃ t, exec (.canBusIntegration n) s = .next t ∧
       t = s) ∧
  (∀ (s : State) (ini : Initiator) (n : Fin 4) (val : Word),
     s.can.length = 4 →
     s.Reaches ini (CAN_CTRL n.val).addr →
     ∃ t, exec (.canRecover ini n val) s = .next t ∧
       t.get (CAN_ECR_STATE n.val) = (if s.get (CAN_ECR_STATE n.val) = 2 then 3 else s.get (CAN_ECR_STATE n.val))) ∧
  (∀ (s : State) (n : Fin 4),
     s.can.length = 4 →
     s.canClocked = true →
     s.is (CAN_CTRL_INIT n.val) = false →
     s.get (CAN_ECR_STATE n.val) = 3 →
     ∃ t, exec (.canBusoffRecovered n) s = .next t ∧
       t.get (CAN_ECR_STATE n.val) = 0 ∧
       (t.canOf n.val).tec = 0 ∧
       (t.canOf n.val).recv = 0 ∧
       t.get (CAN_ECR_TEC n.val) = 0 ∧
       t.get (CAN_ECR_REC n.val) = 0 ∧
       s.OnlyRegs { t with can := s.can } [(CAN_ECR n.val).addr]) ∧
  (∀ (s : State) (n : Fin 4),
     s.canClocked = false ∨ s.is (CAN_CTRL_INIT n.val) = true ∨ s.get (CAN_ECR_STATE n.val) ≠ 3 →
     ∃ t, exec (.canBusoffRecovered n) s = .next t ∧
       t = s) ∧
  (∀ (s : State) (n : Fin 4),
     s.can.length = 4 →
     s.canClocked = true →
     s.is (CAN_CTRL_INIT n.val) = false →
     (s.canOf n.val).att = none →
     ∃ t, exec (.canOpmodeChange n) s = .next t ∧
       t = s.setCan n.val { (s.canOf n.val) with mode := min 2 (s.get (CAN_CTRL_OPMODE n.val)) }) ∧
  (∀ (s : State) (n : Fin 4),
     s.canClocked = false ∨ s.is (CAN_CTRL_INIT n.val) = true ∨ (s.canOf n.val).att ≠ none →
     ∃ t, exec (.canOpmodeChange n) s = .next t ∧
       t = s) ∧
  (∀ (s : State) (n : Fin 4) (e : Bool),
     s.can.length = 4 →
     s.canClocked = true →
     (s.canOf n.val).live = 2 →
     s.get (CAN_ECR_STATE n.val) < 2 →
     (s.canOf n.val).mode = 0 →
     (s.canOf n.val).stopAt = false →
     (s.canOf n.val).tec < 128 →
     (s.canOf n.val).recv + (if e then 8 else 1) < 128 →
     ∃ t, exec (.canReceiveError n e) s = .next t ∧
       (t.canOf n.val).recv = (s.canOf n.val).recv + (if e then 8 else 1) ∧
       (t.canOf n.val).tec = (s.canOf n.val).tec ∧
       t.get (CAN_ECR_REC n.val) = (s.canOf n.val).recv + (if e then 8 else 1) ∧
       t.get (CAN_ECR_STATE n.val) = 0) ∧
  (∀ (s : State) (n : Fin 4) (e : Bool),
     s.can.length = 4 →
     s.canClocked = true →
     (s.canOf n.val).live = 2 →
     s.get (CAN_ECR_STATE n.val) < 2 →
     (s.canOf n.val).mode = 0 →
     (s.canOf n.val).stopAt = false →
     (s.canOf n.val).tec ≤ 255 →
     128 ≤ (s.canOf n.val).recv + (if e then 8 else 1) →
     ∃ t, exec (.canReceiveError n e) s = .next t ∧
       (t.canOf n.val).recv = (s.canOf n.val).recv + (if e then 8 else 1) ∧
       t.get (CAN_ECR_STATE n.val) = 1 ∧
       s.get (CAN_ECR_STATE n.val) = 0 → bitOf 2 (t.rd (CAN_IFLG n.val)).toNat = true) ∧
  (∀ (s : State) (n : Fin 4) (e : Bool),
     s.can.length = 4 →
     s.canClocked = true →
     (s.canOf n.val).live = 2 →
     s.get (CAN_ECR_STATE n.val) < 2 →
     (s.canOf n.val).mode ≠ 0 →
     (s.canOf n.val).stopAt = false →
     ∃ t, exec (.canReceiveError n e) s = .next t ∧
       t = s) ∧
  (∀ (s : State) (n : Fin 4) (e : Bool),
     s.can.length = 4 →
     s.canClocked = true →
     (s.canOf n.val).live = 2 →
     s.get (CAN_ECR_STATE n.val) < 2 →
     (s.canOf n.val).stopAt = true →
     ∃ t, exec (.canReceiveError n e) s = .next t ∧
       t.is (CAN_CTRL_INIT n.val) = true ∧
       (t.canOf n.val).live = 0 ∧
       (t.canOf n.val).att = none ∧
       (t.get (CAN_TXPEND_PEND n.val)) = 0) ∧
  (∀ (s : State) (n : Fin 4) (e : Bool),
     s.canClocked = false ∨ (s.canOf n.val).live ≠ 2 ∨ 2 ≤ s.get (CAN_ECR_STATE n.val) →
     ∃ t, exec (.canReceiveError n e) s = .next t ∧
       t = s) ∧
  (∀ (s : State) (sof : Bool),
     s.can.length = 4 →
     s.canClocked = true →
     s.ticking = true →
     s.is CANG_TMCFG_EN = true →
     s.tmCycle ≠ s.canTm.cycleAt →
     ∃ t, exec (.canTimeReference sof) s = .next t ∧
       t.canTm = { s.canTm with due := some false, ran := true, cycleAt := s.tmCycle } ∧
       t.get CANG_TMSTAT_CYC = (if s.canTm.ran then (s.get CANG_TMSTAT_CYC + 1) % 64 else s.get CANG_TMSTAT_CYC) ∧
       t.get CANG_TMSTAT_MISSED = (if s.canTm.due.isSome then min (s.get CANG_TMSTAT_MISSED + 1) 255 else s.get CANG_TMSTAT_MISSED) ∧
       (t.canOf (s.get CANG_TMCFG_BUS)).att ≠ some 28) ∧
  (∀ (s : State) (sof : Bool),
     s.canClocked = false ∨ s.ticking = false ∨ s.is CANG_TMCFG_EN = false ∨ s.tmCycle = s.canTm.cycleAt →
     ∃ t, exec (.canTimeReference sof) s = .next t ∧
       t = s)

/-- A valid frame goes where its first matching filter says, or without one to FIFO 0 with a free index unless NOMATCH drops it:
into a FIFO with its header, stamp and data (cut to the element), PUT and FILL advancing and IFLG set; a full FIFO counts LOST
and drops the frame or, with OVWR, its oldest; KP's frames reach KP. REC falls with a good frame. A write of GET frees the
elements before it, one out of range none; reads of RXDMA take word after word; words written to TXDMA fill a free buffer
(which one is free) and request it when full. TXREQ makes free buffers pending; TXCNCL ends pending ones with result 3 or,
once the frame has started, marks a late cancel. An attempt that ends done, lost or in error ends its buffer with the result
that lateness and one-shot give, or leaves it pending, and moves TEC; above 255 it enters bus-off; the time master's reference
is followed by its follow-up. A waiting INIT takes effect at the end of the frame (R405 to R413, R415). -/
def Obligations.CanFramesAreStoredAndSent : Prop :=
  (∀ (s : State) (n : Fin 4) (f : CanFrame) (sof : Nat) (k : Fin 2) (m : Fin 64),
     s.can.length = 4 →
     s.canClocked = true →
     (s.canOf n.val).live = 2 →
     s.get (CAN_ECR_STATE n.val) < 2 →
     s.canValid n.val f = true →
     (s.canOf n.val).recv ≤ 127 →
     (s.canOf n.val).stopAt = false →
     s.canFilter n.val f = some m.val →
     s.get (CAN_FLT_A_ACT n.val m.val) = k.val →
     s.get (CAN_RXF_FILL n.val k.val) < s.canNf n.val k.val →
     s.get (CAN_RXF_PUT n.val k.val) < s.canNf n.val k.val →
     s.get (CAN_RXF_FILL n.val k.val) < 64 →
     s.get (CAN_RXF_GET n.val k.val) < s.canNf n.val k.val →
     ∃ t, exec (.canFrameReceive n f sof) s = .next t ∧
       t.rdBytes (s.canRxElem n.val k.val (s.get (CAN_RXF_PUT n.val k.val))) (32 + (f.data.take (s.canCap n.val)).length) = canHeader f m.val (sof * 10 % 2 ^ 64) (decide (s.canCap n.val < f.data.length)) ++ (f.data.take (s.canCap n.val)) ∧
       t.get (CAN_RXF_PUT n.val k.val) = incMod (s.get (CAN_RXF_PUT n.val k.val)) (s.canNf n.val k.val) ∧
       bitOf 0 (t.rd (CAN_IFLG n.val)).toNat = true ∧
       (decide (s.canCap n.val < f.data.length)) = true → bitOf 6 (t.rd (CAN_IFLG n.val)).toNat = true ∧
       t.get (CAN_RXF_FILL n.val k.val) = s.get (CAN_RXF_FILL n.val k.val) + 1 ∧
       t.get (CAN_RXF_GET n.val k.val) = s.get (CAN_RXF_GET n.val k.val)) ∧
  (∀ (s : State) (n : Fin 4) (f : CanFrame) (sof : Nat) (k : Fin 2) (m : Fin 64),
     s.can.length = 4 →
     s.canClocked = true →
     (s.canOf n.val).live = 2 →
     s.get (CAN_ECR_STATE n.val) < 2 →
     s.canValid n.val f = true →
     (s.canOf n.val).recv ≤ 127 →
     (s.canOf n.val).stopAt = false →
     s.canFilter n.val f = some m.val →
     s.get (CAN_FLT_A_ACT n.val m.val) = k.val →
     s.canNf n.val k.val ≤ s.get (CAN_RXF_FILL n.val k.val) →
     s.is (CAN_RXF_OVWR n.val k.val) = false ∨ s.canNf n.val k.val = 0 →
     ∃ t, exec (.canFrameReceive n f sof) s = .next t ∧
       t.get (CAN_RXF_FILL n.val k.val) = s.get (CAN_RXF_FILL n.val k.val) ∧
       t.get (CAN_RXF_PUT n.val k.val) = s.get (CAN_RXF_PUT n.val k.val) ∧
       t.get (CAN_RXF_GET n.val k.val) = s.get (CAN_RXF_GET n.val k.val) ∧
       t.get (CAN_RXF_LOST n.val k.val) = min (s.get (CAN_RXF_LOST n.val k.val) + 1) ((CAN_RXF_LOST n.val k.val).size - 1) ∧
       t.mem = s.mem) ∧
  (∀ (s : State) (n : Fin 4) (f : CanFrame) (sof : Nat) (k : Fin 2) (m : Fin 64),
     s.can.length = 4 →
     s.canClocked = true →
     (s.canOf n.val).live = 2 →
     s.get (CAN_ECR_STATE n.val) < 2 →
     s.canValid n.val f = true →
     (s.canOf n.val).recv ≤ 127 →
     (s.canOf n.val).stopAt = false →
     s.canFilter n.val f = some m.val →
     s.get (CAN_FLT_A_ACT n.val m.val) = k.val →
     s.canNf n.val k.val ≤ s.get (CAN_RXF_FILL n.val k.val) →
     s.is (CAN_RXF_OVWR n.val k.val) = true →
     s.get (CAN_RXF_PUT n.val k.val) < s.canNf n.val k.val →
     s.get (CAN_RXF_FILL n.val k.val) ≤ 64 →
     1 ≤ s.get (CAN_RXF_FILL n.val k.val) →
     s.get (CAN_RXF_GET n.val k.val) < s.canNf n.val k.val →
     ∃ t, exec (.canFrameReceive n f sof) s = .next t ∧
       t.rdBytes (s.canRxElem n.val k.val (s.get (CAN_RXF_PUT n.val k.val))) (32 + (f.data.take (s.canCap n.val)).length) = canHeader f m.val (sof * 10 % 2 ^ 64) (decide (s.canCap n.val < f.data.length)) ++ (f.data.take (s.canCap n.val)) ∧
       t.get (CAN_RXF_PUT n.val k.val) = incMod (s.get (CAN_RXF_PUT n.val k.val)) (s.canNf n.val k.val) ∧
       bitOf 0 (t.rd (CAN_IFLG n.val)).toNat = true ∧
       (decide (s.canCap n.val < f.data.length)) = true → bitOf 6 (t.rd (CAN_IFLG n.val)).toNat = true ∧
       t.get (CAN_RXF_FILL n.val k.val) = s.get (CAN_RXF_FILL n.val k.val) ∧
       t.get (CAN_RXF_GET n.val k.val) = incMod (s.get (CAN_RXF_GET n.val k.val)) (s.canNf n.val k.val) ∧
       t.get (CAN_RXF_LOST n.val k.val) = min (s.get (CAN_RXF_LOST n.val k.val) + 1) ((CAN_RXF_LOST n.val k.val).size - 1)) ∧
  (∀ (s : State) (n : Fin 4) (f : CanFrame) (sof : Nat) (m : Fin 64),
     s.can.length = 4 →
     s.canClocked = true →
     (s.canOf n.val).live = 2 →
     s.get (CAN_ECR_STATE n.val) < 2 →
     s.canValid n.val f = true →
     s.canFilter n.val f = some m.val →
     s.get (CAN_FLT_A_ACT n.val m.val) = 2 →
     ∃ t, exec (.canFrameReceive n f sof) s = .next t ∧
       t = ((s.canRxGood n.val).canKp n.val f).canFrameEnd n.val) ∧
  (∀ (s : State) (n : Fin 4) (f : CanFrame) (sof : Nat) (m : Fin 64),
     s.can.length = 4 →
     s.canClocked = true →
     (s.canOf n.val).live = 2 →
     s.get (CAN_ECR_STATE n.val) < 2 →
     s.canValid n.val f = true →
     (s.canOf n.val).recv ≤ 127 →
     (s.canOf n.val).stopAt = false →
     s.canFilter n.val f = some m.val →
     s.get (CAN_FLT_A_ACT n.val m.val) = 3 →
     (s.canOf n.val).mode = 0 →
     (s.canOf n.val).tec ≤ 255 →
     ∃ t, exec (.canFrameReceive n f sof) s = .next t ∧
       t.mem = s.mem ∧
       (t.canOf n.val).recv = (s.canOf n.val).recv - 1 ∧
       ∀ k : Fin 2, t.get (CAN_RXF_FILL n.val k.val) = s.get (CAN_RXF_FILL n.val k.val)) ∧
  (∀ (s : State) (n : Fin 4) (f : CanFrame) (sof : Nat),
     s.can.length = 4 →
     s.canClocked = true →
     (s.canOf n.val).live = 2 →
     s.get (CAN_ECR_STATE n.val) < 2 →
     s.canValid n.val f = true →
     (s.canOf n.val).stopAt = false →
     (s.canOf n.val).mode = 0 →
     127 < (s.canOf n.val).recv →
     ∃ t, exec (.canFrameReceive n f sof) s = .next t ∧
       119 ≤ (t.canOf n.val).recv ∧ (t.canOf n.val).recv ≤ 127) ∧
  (∀ (s : State) (n : Fin 4) (f : CanFrame) (sof : Nat),
     s.can.length = 4 →
     s.canClocked = true →
     (s.canOf n.val).live = 2 →
     s.get (CAN_ECR_STATE n.val) < 2 →
     s.canValid n.val f = true →
     (s.canOf n.val).recv ≤ 127 →
     (s.canOf n.val).stopAt = false →
     s.canFilter n.val f = none →
     s.is (CAN_CTRL_NOMATCH n.val) = true →
     ∃ t, exec (.canFrameReceive n f sof) s = .next t ∧
       t.mem = s.mem ∧
       ∀ k : Fin 2, t.get (CAN_RXF_FILL n.val k.val) = s.get (CAN_RXF_FILL n.val k.val)) ∧
  (∀ (s : State) (n : Fin 4) (f : CanFrame) (sof : Nat),
     s.can.length = 4 →
     s.canClocked = true →
     (s.canOf n.val).live = 2 →
     s.get (CAN_ECR_STATE n.val) < 2 →
     s.canValid n.val f = true →
     (s.canOf n.val).recv ≤ 127 →
     (s.canOf n.val).stopAt = false →
     s.canFilter n.val f = none →
     s.is (CAN_CTRL_NOMATCH n.val) = false →
     s.get (CAN_RXF_FILL n.val 0) < s.canNf n.val 0 →
     s.get (CAN_RXF_PUT n.val 0) < s.canNf n.val 0 →
     s.get (CAN_RXF_FILL n.val 0) < 64 →
     s.get (CAN_RXF_GET n.val 0) < s.canNf n.val 0 →
     ∃ t, exec (.canFrameReceive n f sof) s = .next t ∧
       ∃ i : Nat, i < 64 ∧ t.rdBytes (s.canRxElem n.val 0 (s.get (CAN_RXF_PUT n.val 0))) (32 + (f.data.take (s.canCap n.val)).length) = canHeader f i (sof * 10 % 2 ^ 64) (decide (s.canCap n.val < f.data.length)) ++ (f.data.take (s.canCap n.val)) ∧
       t.get (CAN_RXF_FILL n.val 0) = s.get (CAN_RXF_FILL n.val 0) + 1) ∧
  (∀ (s : State) (n : Fin 4) (f : CanFrame) (sof : Nat),
     s.can.length = 4 →
     s.canClocked = true →
     (s.canOf n.val).live = 2 →
     s.get (CAN_ECR_STATE n.val) < 2 →
     s.canValid n.val f = true →
     (s.canOf n.val).stopAt = true →
     ∀ m : Fin 64, s.canFilter n.val f = some m.val → s.get (CAN_FLT_A_ACT n.val m.val) ≠ 2 →
     ∃ t, exec (.canFrameReceive n f sof) s = .next t ∧
       t.is (CAN_CTRL_INIT n.val) = true ∧
       (t.canOf n.val).live = 0 ∧
       (t.canOf n.val).att = none ∧
       (t.get (CAN_TXPEND_PEND n.val)) = 0) ∧
  (∀ (s : State) (n : Fin 4) (f : CanFrame) (sof : Nat),
     s.canClocked = false ∨ (s.canOf n.val).live ≠ 2 ∨ 2 ≤ s.get (CAN_ECR_STATE n.val) ∨ s.canValid n.val f = false →
     ∃ t, exec (.canFrameReceive n f sof) s = .next t ∧
       t = s) ∧
  (∀ (s : State) (ini : Initiator) (n : Fin 4) (k : Fin 2) (val : Word),
     s.can.length = 4 →
     s.Reaches ini (CAN_RXF n.val k.val).addr →
     s.get (CAN_RXF_FILL n.val k.val) ≤ s.canNf n.val k.val →
     s.get (CAN_RXF_GET n.val k.val) < s.canNf n.val k.val →
     val.toNat % 64 < s.canNf n.val k.val →
     (val.toNat % 64 + s.canNf n.val k.val - s.get (CAN_RXF_GET n.val k.val)) % s.canNf n.val k.val ≤ s.get (CAN_RXF_FILL n.val k.val) →
     ∃ t, exec (.canRxfGet ini n k val) s = .next t ∧
       t.get (CAN_RXF_GET n.val k.val) = val.toNat % 64 ∧
       t.get (CAN_RXF_FILL n.val k.val) = s.get (CAN_RXF_FILL n.val k.val) - (val.toNat % 64 + s.canNf n.val k.val - s.get (CAN_RXF_GET n.val k.val)) % s.canNf n.val k.val ∧
       t.mem = s.mem) ∧
  (∀ (s : State) (ini : Initiator) (n : Fin 4) (k : Fin 2) (val : Word),
     s.Reaches ini (CAN_RXF n.val k.val).addr →
     s.canNf n.val k.val ≤ val.toNat % 64 ∨ s.get (CAN_RXF_FILL n.val k.val) < (val.toNat % 64 + s.canNf n.val k.val - s.get (CAN_RXF_GET n.val k.val)) % max 1 (s.canNf n.val k.val) →
     ∃ t, exec (.canRxfGet ini n k val) s = .next t ∧
       t.get (CAN_RXF_GET n.val k.val) = s.get (CAN_RXF_GET n.val k.val) ∧
       t.get (CAN_RXF_FILL n.val k.val) = s.get (CAN_RXF_FILL n.val k.val) ∧
       t.get (CAN_RXF_PUT n.val k.val) = s.get (CAN_RXF_PUT n.val k.val) ∧
       t.mem = s.mem) ∧
  (∀ (s : State) (ini : Initiator) (n : Fin 4),
     s.can.length = 4 →
     s.answers ini (CAN_RXDMA n.val).addr = true →
     s.busOk ini (CAN_RXDMA n.val).addr false = true →
     s.canRxAsks n.val = true →
     4 * ((s.canOf n.val).rxw + 1) < s.canStride n.val →
     ∃ t, exec (.canRxdmaRead ini n) s = .next t ∧
       t = s.setCan n.val { (s.canOf n.val) with rxw := (s.canOf n.val).rxw + 1 }) ∧
  (∀ (s : State) (ini : Initiator) (n : Fin 4),
     s.can.length = 4 →
     s.answers ini (CAN_RXDMA n.val).addr = true →
     s.busOk ini (CAN_RXDMA n.val).addr false = true →
     s.canRxAsks n.val = true →
     s.canStride n.val ≤ 4 * ((s.canOf n.val).rxw + 1) →
     ∃ t, exec (.canRxdmaRead ini n) s = .next t ∧
       (t.canOf n.val).rxw = 0 ∧
       t.get (CAN_RXF_FILL n.val (s.get (CAN_CTRL_DMAF n.val))) = s.get (CAN_RXF_FILL n.val (s.get (CAN_CTRL_DMAF n.val))) - 1) ∧
  (∀ (s : State) (ini : Initiator) (n : Fin 4),
     s.can.length = 4 →
     s.answers ini (CAN_RXDMA n.val).addr = true →
     s.busOk ini (CAN_RXDMA n.val).addr false = true →
     s.canRxAsks n.val = false →
     ∃ t, exec (.canRxdmaRead ini n) s = .next t ∧
       t = s.useFree) ∧
  (∀ (s : State) (ini : Initiator) (n : Fin 4) (val : Word) (b w : Nat),
     s.can.length = 4 →
     s.Reaches ini (CAN_TXDMA n.val).addr →
     s.is (CAN_CTRL_TXMODE n.val) = true →
     (s.canOf n.val).txb = some (b, w) →
     4 * (w + 1) < s.canStride n.val →
     ∃ t, exec (.canTxdmaWrite ini n val false) s = .next t ∧
       t.rdMem32 (s.canTxElem n.val b + 4 * w) = val ∧
       (t.canOf n.val).txb = some (b, w + 1) ∧
       (t.get (CAN_TXPEND_PEND n.val)) = (s.get (CAN_TXPEND_PEND n.val))) ∧
  (∀ (s : State) (ini : Initiator) (n : Fin 4) (val : Word) (b : Fin 28) (w : Nat),
     s.can.length = 4 →
     s.Reaches ini (CAN_TXDMA n.val).addr →
     s.is (CAN_CTRL_TXMODE n.val) = true →
     (s.canOf n.val).txb = some (b.val, w) →
     s.canStride n.val ≤ 4 * (w + 1) →
     b.val < s.canNtx n.val →
     bitOf b.val (s.get (CAN_TXPEND_PEND n.val)) = false →
     ∃ t, exec (.canTxdmaWrite ini n val false) s = .next t ∧
       t.rdMem32 (s.canTxElem n.val b.val + 4 * w) = val ∧
       (t.canOf n.val).txb = none ∧
       bitOf b.val (t.get (CAN_TXPEND_PEND n.val)) = true ∧
       (t.canOf n.val).order = (s.canOf n.val).order ++ [b.val]) ∧
  (∀ (s : State) (ini : Initiator) (n : Fin 4) (val : Word),
     s.can.length = 4 →
     s.Reaches ini (CAN_TXDMA n.val).addr →
     s.is (CAN_CTRL_TXMODE n.val) = true →
     (s.canOf n.val).txb = none →
     s.canFree n.val ≠ [] →
     ∃ t, exec (.canTxdmaWrite ini n val false) s = .next t ∧
       ∃ b ∈ s.canFree n.val, t.rdMem32 (s.canTxElem n.val b) = val ∧ (t.canOf n.val).txb = some (b, 1) ∧
       (t.get (CAN_TXPEND_PEND n.val)) = (s.get (CAN_TXPEND_PEND n.val))) ∧
  (∀ (s : State) (ini : Initiator) (n : Fin 4) (val : Word),
     s.can.length = 4 →
     s.Reaches ini (CAN_TXDMA n.val).addr →
     s.is (CAN_CTRL_TXMODE n.val) = false ∨ ((s.canOf n.val).txb = none ∧ s.canFree n.val = []) →
     ∃ t, exec (.canTxdmaWrite ini n val false) s = .next t ∧
       t = s) ∧
  (∀ (s : State) (ini : Initiator) (n : Fin 4) (val : Word),
     s.can.length = 4 →
     s.Reaches ini (CAN_TXDMA n.val).addr →
     ∃ t, exec (.canTxdmaWrite ini n val true) s = .next t ∧
       t = (s.canSof n.val true).canTxWrite n.val val false) ∧
  (∀ (s : State) (ini : Initiator) (n : Fin 4) (val : Word),
     s.can.length = 4 →
     s.Reaches ini (CAN_TXREQ n.val).addr →
     ∃ t, exec (.canTxreq ini n val false) s = .next t ∧
       ∀ b : Fin 28, bitOf b.val (t.get (CAN_TXPEND_PEND n.val)) = (bitOf b.val (s.get (CAN_TXPEND_PEND n.val)) || (val.getLsbD b.val && decide (b.val < s.canNtx n.val))) ∧
       ∀ b : Fin 28, t.canRes n.val b.val = (if val.getLsbD b.val = true ∧ b.val < s.canNtx n.val ∧ bitOf b.val (s.get (CAN_TXPEND_PEND n.val)) = false then 0 else s.canRes n.val b.val) ∧
       (t.canOf n.val).order = (s.canOf n.val).order ++ (setBits 28 val.toNat).filter (fun b => decide (b < s.canNtx n.val) && !bitOf b (s.get (CAN_TXPEND_PEND n.val)))) ∧
  (∀ (s : State) (ini : Initiator) (n : Fin 4) (val : Word),
     s.can.length = 4 →
     s.Reaches ini (CAN_TXREQ n.val).addr →
     ∃ t, exec (.canTxreq ini n val true) s = .next t ∧
       t = (s.canSof n.val true).canTxReq n.val val false) ∧
  (∀ (s : State) (ini : Initiator) (n : Fin 4) (val : Word),
     s.can.length = 4 →
     s.Reaches ini (CAN_TXCNCL n.val).addr →
     ∃ t, exec (.canTxcncl ini n val false) s = .next t ∧
       ∀ b : Fin 28, bitOf b.val (t.get (CAN_TXPEND_PEND n.val)) = (bitOf b.val (s.get (CAN_TXPEND_PEND n.val)) && !(val.getLsbD b.val && decide ((s.canOf n.val).att ≠ some b.val))) ∧
       ∀ b : Fin 28, val.getLsbD b.val = true → bitOf b.val (s.get (CAN_TXPEND_PEND n.val)) = true → (s.canOf n.val).att ≠ some b.val → t.canRes n.val b.val = 3 ∧
       ∀ b : Fin 28, val.getLsbD b.val = true → bitOf b.val (s.get (CAN_TXPEND_PEND n.val)) = true → (s.canOf n.val).att = some b.val → bitOf b.val (t.canOf n.val).late = true ∧ bitOf 4 (t.rd (CAN_IFLG n.val)).toNat = true ∧
       ∀ b : Fin 28, val.getLsbD b.val = false → t.canRes n.val b.val = s.canRes n.val b.val) ∧
  (∀ (s : State) (ini : Initiator) (n : Fin 4) (val : Word),
     s.can.length = 4 →
     s.Reaches ini (CAN_TXCNCL n.val).addr →
     ∃ t, exec (.canTxcncl ini n val true) s = .next t ∧
       t = (s.canSof n.val true).canTxCncl n.val val false) ∧
  (∀ (s : State) (n : Fin 4) (b : Fin 28) (sof : Nat),
     s.can.length = 4 →
     s.canSends n.val = true →
     s.pllA = true →
     (s.canOf n.val).att.or (s.canOffer n.val) = some b.val →
     (s.canOf n.val).stopAt = false →
     (s.canOf n.val).tec < 120 →
     (s.canOf n.val).recv < 128 →
     ∃ t, exec (.canTxEnd n false .done sof) s = .next t ∧
       bitOf b.val (t.get (CAN_TXPEND_PEND n.val)) = false ∧
       (t.canOf n.val).att = none ∧
       (t.canOf n.val).order = (s.canOf n.val).order.filter (fun j => j != b.val) ∧
       t.canRes n.val b.val = (if bitOf b.val (s.canOf n.val).late then 2 else 1) ∧
       (t.canOf n.val).tec = (s.canOf n.val).tec - 1 ∧
       t.canTm.sent = s.canTm.sent ++ [(n.val, s.canFrameOf n.val b.val)]) ∧
  (∀ (s : State) (n : Fin 4) (b : Fin 28) (sof : Nat),
     s.can.length = 4 →
     s.canSends n.val = true →
     s.pllA = true →
     (s.canOf n.val).att.or (s.canOffer n.val) = some b.val →
     (s.canOf n.val).stopAt = false →
     bitOf b.val (s.canOf n.val).late = true ∨ (s.canOneshot n.val b.val || s.is (CAN_CTRL_DAR n.val)) = true →
     ∃ t, exec (.canTxEnd n false .lost sof) s = .next t ∧
       bitOf b.val (t.get (CAN_TXPEND_PEND n.val)) = false ∧
       (t.canOf n.val).att = none ∧
       (t.canOf n.val).order = (s.canOf n.val).order.filter (fun j => j != b.val) ∧
       t.canRes n.val b.val = (if bitOf b.val (s.canOf n.val).late then 4 else 6) ∧
       (t.canOf n.val).tec = (s.canOf n.val).tec) ∧
  (∀ (s : State) (n : Fin 4) (b : Fin 28) (sof : Nat),
     s.can.length = 4 →
     s.canSends n.val = true →
     s.pllA = true →
     (s.canOf n.val).att.or (s.canOffer n.val) = some b.val →
     (s.canOf n.val).stopAt = false →
     bitOf b.val (s.canOf n.val).late = false →
     (s.canOneshot n.val b.val || s.is (CAN_CTRL_DAR n.val)) = false →
     ∃ t, exec (.canTxEnd n false .lost sof) s = .next t ∧
       (t.get (CAN_TXPEND_PEND n.val)) = (s.get (CAN_TXPEND_PEND n.val)) ∧
       (t.canOf n.val).att = none ∧
       (t.canOf n.val).order = (s.canOf n.val).order ∧
       (t.canOf n.val).tec = (s.canOf n.val).tec) ∧
  (∀ (s : State) (n : Fin 4) (ack quiet postArb : Bool) (b : Fin 28) (sof : Nat),
     s.can.length = 4 →
     s.canSends n.val = true →
     s.pllA = true →
     (s.canOf n.val).att.or (s.canOffer n.val) = some b.val →
     (s.canOf n.val).stopAt = false →
     bitOf b.val (s.canOf n.val).late = true ∨ (s.canOneshot n.val b.val || s.is (CAN_CTRL_DAR n.val)) = true →
     (s.canOf n.val).tec < 120 →
     (s.canOf n.val).recv < 128 →
     ∃ t, exec (.canTxEnd n false (.err ack quiet postArb) sof) s = .next t ∧
       bitOf b.val (t.get (CAN_TXPEND_PEND n.val)) = false ∧
       (t.canOf n.val).att = none ∧
       (t.canOf n.val).order = (s.canOf n.val).order.filter (fun j => j != b.val) ∧
       t.canRes n.val b.val = (if bitOf b.val (s.canOf n.val).late then 5 else 6)) ∧
  (∀ (s : State) (n : Fin 4) (ack quiet postArb : Bool) (b : Fin 28) (sof : Nat),
     s.can.length = 4 →
     s.canSends n.val = true →
     s.pllA = true →
     (s.canOf n.val).att.or (s.canOffer n.val) = some b.val →
     (s.canOf n.val).stopAt = false →
     bitOf b.val (s.canOf n.val).late = false →
     (s.canOneshot n.val b.val || s.is (CAN_CTRL_DAR n.val)) = false →
     (s.canOf n.val).tec < 120 →
     (s.canOf n.val).recv < 128 →
     ∃ t, exec (.canTxEnd n false (.err ack quiet postArb) sof) s = .next t ∧
       (t.get (CAN_TXPEND_PEND n.val)) = (s.get (CAN_TXPEND_PEND n.val)) ∧
       (t.canOf n.val).att = none ∧
       (t.canOf n.val).order = (s.canOf n.val).order) ∧
  (∀ (s : State) (n : Fin 4) (ack quiet postArb : Bool) (b : Fin 28) (sof : Nat),
     s.can.length = 4 →
     s.canSends n.val = true →
     s.pllA = true →
     (s.canOf n.val).att.or (s.canOffer n.val) = some b.val →
     (s.canOf n.val).stopAt = false →
     (s.canOf n.val).tec < 120 →
     (s.canOf n.val).recv < 128 →
     ∃ t, exec (.canTxEnd n false (.err ack quiet postArb) sof) s = .next t ∧
       (t.canOf n.val).tec = (if quiet = true ∧ (ack = false ∨ s.get (CAN_ECR_STATE n.val) = 1) then (s.canOf n.val).tec else (s.canOf n.val).tec + 8) ∧
       ack = true → t.get (CAN_CNT_ACKERR_CNT n.val) = min (s.get (CAN_CNT_ACKERR_CNT n.val) + 1) ((CAN_CNT_ACKERR_CNT n.val).size - 1) ∧
       postArb = true → t.get (CAN_CNT_POSTARB_CNT n.val) = min (s.get (CAN_CNT_POSTARB_CNT n.val) + 1) ((CAN_CNT_POSTARB_CNT n.val).size - 1) ∧ t.get (CAN_DUPID_ID n.val) = (s.canFrameOf n.val b.val).id.toNat ∧ bitOf 5 (t.rd (CAN_IFLG n.val)).toNat = true) ∧
  (∀ (s : State) (n : Fin 4) (b : Fin 28) (sof : Nat),
     s.can.length = 4 →
     s.canSends n.val = true →
     s.pllA = true →
     (s.canOf n.val).att.or (s.canOffer n.val) = some b.val →
     (s.canOf n.val).stopAt = false →
     247 < (s.canOf n.val).tec →
     (s.canOf n.val).recv ≤ 127 →
     ∃ t, exec (.canTxEnd n false (.err false false false) sof) s = .next t ∧
       t.get (CAN_ECR_STATE n.val) = (if s.is (CAN_CTRL_ABO n.val) = true then 3 else 2) ∧
       t.get (CAN_CNT2_BUSOFF_CNT n.val) = min (s.get (CAN_CNT2_BUSOFF_CNT n.val) + 1) ((CAN_CNT2_BUSOFF_CNT n.val).size - 1) ∧
       bitOf 3 (t.rd (CAN_IFLG n.val)).toNat = true ∧
       s.is (CAN_CTRL_BOABT n.val) = true → (t.get (CAN_TXPEND_PEND n.val)) = 0) ∧
  (∀ (s : State) (n : Fin 4) (sof : Nat),
     s.can.length = 4 →
     s.canSends n.val = true →
     s.pllA = true →
     (s.canOf n.val).att.or (s.canOffer n.val) = some 28 →
     (s.canOf n.val).stopAt = false →
     (s.canOf n.val).tec < 120 →
     (s.canOf n.val).recv < 128 →
     s.canTm.due = some false →
     ∃ t, exec (.canTxEnd n false .done sof) s = .next t ∧
       t.canTm = { s.canTm with due := some true, ref := (sof * 10 + s.tbOffset) % 2 ^ 64, sent := s.canTm.sent ++ [(n.val, s.tmFrame)] } ∧
       (t.canOf n.val).att = none ∧
       (t.get (CAN_TXPEND_PEND n.val)) = (s.get (CAN_TXPEND_PEND n.val))) ∧
  (∀ (s : State) (n : Fin 4) (sof : Nat),
     s.can.length = 4 →
     s.canSends n.val = true →
     s.pllA = true →
     (s.canOf n.val).att.or (s.canOffer n.val) = some 28 →
     (s.canOf n.val).stopAt = false →
     (s.canOf n.val).tec < 120 →
     (s.canOf n.val).recv < 128 →
     s.canTm.due = some true →
     ∃ t, exec (.canTxEnd n false .done sof) s = .next t ∧
       t.canTm = { s.canTm with due := none, sent := s.canTm.sent ++ [(n.val, s.tmFrame)] } ∧
       (t.canOf n.val).att = none ∧
       (t.get (CAN_TXPEND_PEND n.val)) = (s.get (CAN_TXPEND_PEND n.val))) ∧
  (∀ (s : State) (n : Fin 4) (res : CanEnd) (sof : Nat),
     s.can.length = 4 →
     s.canSends n.val = true →
     s.pllA = true →
     s.is (KCP_CAN_EN n.val) = true →
     (s.canOf n.val).stopAt = false →
     (s.canOf n.val).tec < 120 →
     (s.canOf n.val).recv < 128 →
     ∃ t, exec (.canTxEnd n true res sof) s = .next t ∧
       (t.get (CAN_TXPEND_PEND n.val)) = (s.get (CAN_TXPEND_PEND n.val)) ∧
       (t.canOf n.val).att = (s.canOf n.val).att ∧
       res = .done → (t.canOf n.val).tec = (s.canOf n.val).tec - 1 ∧
       res = .lost → (t.canOf n.val).tec = (s.canOf n.val).tec) ∧
  (∀ (s : State) (n : Fin 4) (kp : Bool) (res : CanEnd) (sof : Nat),
     s.canSends n.val = false ∨ s.pllA = false ∨ (kp = true ∧ s.is (KCP_CAN_EN n.val) = false) ∨ (kp = false ∧ (s.canOf n.val).att.or (s.canOffer n.val) = none) →
     ∃ t, exec (.canTxEnd n kp res sof) s = .next t ∧
       t = s) ∧
  (∀ (s : State) (n : Fin 4) (b : Fin 28) (sof : Nat),
     s.can.length = 4 →
     s.canSends n.val = true →
     s.pllA = true →
     (s.canOf n.val).att.or (s.canOffer n.val) = some b.val →
     (s.canOf n.val).stopAt = true →
     ∃ t, exec (.canTxEnd n false .done sof) s = .next t ∧
       t.is (CAN_CTRL_INIT n.val) = true ∧
       (t.canOf n.val).live = 0 ∧
       (t.canOf n.val).att = none ∧
       (t.get (CAN_TXPEND_PEND n.val)) = 0) ∧
  (∀ (s : State) (n : Fin 4),
     (s.canOf n.val).att = none →
     s.canSends n.val = true →
     s.can.length = 4 →
     ∃ t, exec (.canTxreq .kp n 0 true) s = .next t ∧
       s.Reaches .kp (CAN_TXREQ n.val).addr → (t.canOf n.val).att = s.canOffer n.val)

/-- A link change sets LINK and SQI and counts a loss. A frame on a port that is up is counted where too long and ignored where
too short or without an enabled VLAN; a link-local one goes to the device; any other is learned and goes to the known port of
its address, to the device, or to all other members, tagged or untagged as the VLAN says, one without room being counted in
DROP. To the device: gPTP is ignored here, ARP and echo requests for its addresses are answered, IP with options, fragments or
bad checksums is counted in DISC, port 47121 goes to KP, and what an application filter takes enters the receive FIFO with its
record while there is room, the rest counting DISC. T1S0 takes group frames and its own address. A whole record of the
transmit FIFO goes to the switch or to T1S0. An address ages out 300 s after it was seen. An opportunity sends the waiting
frames that the burst allows, or the coordinator's beacon; otherwise nothing changes (R416 to R419). A Sync of the slave port
is kept with its stamp until its Follow_Up, which sets TB_OFFSET from the origin, the correction, the link delay and the
stamp, LOCKED as the last nine offsets say, and nothing else; with RELAY both are sent on at the other port with the residence
time and the link delay. A message of another port or without its Sync changes nothing. A peer delay exchange writes the link
delay (a free value where it does not fit), and a peer request is answered. The trim moves by at most 0.1 ppm per 100 ms
within 100 ppm (R73, R420). -/
def Obligations.EthernetServesTheDeviceAndKeepsTime : Prop :=
  (∀ (s : State) (k : Fin 2) (up : Bool) (q : BitVec 3),
     s.isOn 13 = true →
     ∃ t, exec (.ethLinkChange k up q) s = .next t ∧
       t.is (ETHP_STAT_LINK k.val) = up ∧
       t.get (ETHP_STAT_SQI k.val) = q.toNat ∧
       t.get (ETHP_STAT_LINKDN_CNT k.val) = (if s.is (ETHP_STAT_LINK k.val) = true ∧ up = false then min (s.get (ETHP_STAT_LINKDN_CNT k.val) + 1) ((ETHP_STAT_LINKDN_CNT k.val).size - 1) else s.get (ETHP_STAT_LINKDN_CNT k.val)) ∧
       s.OnlyRegs t [(ETHP_STAT k.val).addr]) ∧
  (∀ (s : State) (k : Fin 2) (up : Bool) (q : BitVec 3),
     s.isOn 13 = false →
     ∃ t, exec (.ethLinkChange k up q) s = .next t ∧
       t = s) ∧
  (∀ (s : State) (k : Fin 2) (f : List Byte) (stamp : Nat) (room : BitVec 3),
     s.ethClocked = false ∨ s.portUp k.val = false →
     ∃ t, exec (.ethFrameReceive k f stamp room) s = .next t ∧
       t = s) ∧
  (∀ (s : State) (k : Fin 2) (f : List Byte) (stamp : Nat) (room : BitVec 3),
     s.ethClocked = true →
     s.portUp k.val = true →
     1518 < f.length →
     ∃ t, exec (.ethFrameReceive k f stamp room) s = .next t ∧
       t.get (ETHP_CNT_RXERR k.val) = min (s.get (ETHP_CNT_RXERR k.val) + 1) ((ETHP_CNT_RXERR k.val).size - 1) ∧
       s.OnlyRegs t [(ETHP_CNT k.val).addr]) ∧
  (∀ (s : State) (k : Fin 2) (f : List Byte) (stamp : Nat) (room : BitVec 3),
     f.length < 60 →
     ∃ t, exec (.ethFrameReceive k f stamp room) s = .next t ∧
       t = s) ∧
  (∀ (s : State) (k : Fin 2) (f : List Byte) (stamp : Nat) (room : BitVec 3),
     s.ethClocked = true →
     s.portUp k.val = true →
     60 ≤ f.length →
     f.length ≤ 1518 →
     isLinkLocal (frDst f) = true →
     ∃ t, exec (.ethFrameReceive k f stamp room) s = .next t ∧
       t = s.deviceFrame k.val (s.frClass k.val f).1 stamp room f) ∧
  (∀ (s : State) (k : Fin 2) (f : List Byte) (stamp : Nat) (room : BitVec 3),
     s.ethClocked = true →
     s.portUp k.val = true →
     60 ≤ f.length →
     f.length ≤ 1518 →
     isLinkLocal (frDst f) = false →
     s.vlanOf (s.frClass k.val f).1 = none →
     ∃ t, exec (.ethFrameReceive k f stamp room) s = .next t ∧
       t = s) ∧
  (∀ (s : State) (k : Fin 2) (f : List Byte) (stamp : Nat) (room : BitVec 3) (v : Nat),
     s.ethClocked = true →
     s.portUp k.val = true →
     60 ≤ f.length →
     f.length ≤ 1518 →
     isLinkLocal (frDst f) = false →
     s.vlanOf (s.frClass k.val f).1 = some v →
     isMulticast (frDst f) = true ∨ (frDst f ≠ s.devMac ∧ (let r := s.eth.table.filter (fun (e : Nat × Nat × Nat) => e.1 != frSrc f); if isMulticast (frSrc f) || decide (256 ≤ r.length) then s.eth.table else r ++ [(frSrc f, k.val, s.now)]).all (fun e => e.1 != frDst f) = true) →
     s.bit (ETHSW_VLAN_MEMB v) 2 = false ∨ room.getLsbD 2 = false →
     s.bit (ETHSW_VLAN_MEMB v) (1 - k.val) = true → room.getLsbD (1 - k.val) = true →
     ∃ t, exec (.ethFrameReceive k f stamp room) s = .next t ∧
       t = s.setEth { s.eth with table := (let r := s.eth.table.filter (fun (e : Nat × Nat × Nat) => e.1 != frSrc f); if isMulticast (frSrc f) || decide (256 ≤ r.length) then s.eth.table else r ++ [(frSrc f, k.val, s.now)]), out := s.eth.out ++ (if s.bit (ETHSW_VLAN_MEMB v) (1 - k.val) && s.portUp (1 - k.val) then [⟨(1 - k.val), (s.frClass k.val f).2, (if s.bit (ETHSW_VLAN_UNTAG v) (1 - k.val) then frUntag f else frTag f (s.frClass k.val f).2 (s.frClass k.val f).1)⟩] else []) }) ∧
  (∀ (s : State) (k : Fin 2) (f : List Byte) (stamp : Nat) (room : BitVec 3) (v : Nat),
     s.ethClocked = true →
     s.portUp k.val = true →
     60 ≤ f.length →
     f.length ≤ 1518 →
     isLinkLocal (frDst f) = false →
     s.vlanOf (s.frClass k.val f).1 = some v →
     isMulticast (frDst f) = true ∨ (frDst f ≠ s.devMac ∧ (let r := s.eth.table.filter (fun (e : Nat × Nat × Nat) => e.1 != frSrc f); if isMulticast (frSrc f) || decide (256 ≤ r.length) then s.eth.table else r ++ [(frSrc f, k.val, s.now)]).all (fun e => e.1 != frDst f) = true) →
     s.bit (ETHSW_VLAN_MEMB v) 2 = true →
     room.getLsbD 2 = true →
     s.bit (ETHSW_VLAN_MEMB v) (1 - k.val) = true → room.getLsbD (1 - k.val) = true →
     ∃ t, exec (.ethFrameReceive k f stamp room) s = .next t ∧
       t = (s.setEth { s.eth with table := (let r := s.eth.table.filter (fun (e : Nat × Nat × Nat) => e.1 != frSrc f); if isMulticast (frSrc f) || decide (256 ≤ r.length) then s.eth.table else r ++ [(frSrc f, k.val, s.now)]), out := s.eth.out ++ (if s.bit (ETHSW_VLAN_MEMB v) (1 - k.val) && s.portUp (1 - k.val) then [⟨(1 - k.val), (s.frClass k.val f).2, (if s.bit (ETHSW_VLAN_UNTAG v) (1 - k.val) then frUntag f else frTag f (s.frClass k.val f).2 (s.frClass k.val f).1)⟩] else []) }).deviceFrame k.val (s.frClass k.val f).1 stamp room (if s.bit (ETHSW_VLAN_UNTAG v) 2 then frUntag f else frTag f (s.frClass k.val f).2 (s.frClass k.val f).1)) ∧
  (∀ (s : State) (k : Fin 2) (f : List Byte) (stamp : Nat) (room : BitVec 3) (v : Nat),
     s.ethClocked = true →
     s.portUp k.val = true →
     60 ≤ f.length →
     f.length ≤ 1518 →
     isLinkLocal (frDst f) = false →
     s.vlanOf (s.frClass k.val f).1 = some v →
     isMulticast (frDst f) = true ∨ (frDst f ≠ s.devMac ∧ (let r := s.eth.table.filter (fun (e : Nat × Nat × Nat) => e.1 != frSrc f); if isMulticast (frSrc f) || decide (256 ≤ r.length) then s.eth.table else r ++ [(frSrc f, k.val, s.now)]).all (fun e => e.1 != frDst f) = true) →
     s.bit (ETHSW_VLAN_MEMB v) 2 = false ∨ room.getLsbD 2 = false →
     s.bit (ETHSW_VLAN_MEMB v) (1 - k.val) = true →
     room.getLsbD (1 - k.val) = false →
     ∃ t, exec (.ethFrameReceive k f stamp room) s = .next t ∧
       t.get (ETHP_CNT_DROP (1 - k.val)) = min (s.get (ETHP_CNT_DROP (1 - k.val)) + 1) ((ETHP_CNT_DROP (1 - k.val)).size - 1) ∧
       t.eth = { s.eth with table := (let r := s.eth.table.filter (fun (e : Nat × Nat × Nat) => e.1 != frSrc f); if isMulticast (frSrc f) || decide (256 ≤ r.length) then s.eth.table else r ++ [(frSrc f, k.val, s.now)]) } ∧
       s.OnlyRegs { t with eth := s.eth } [(ETHP_CNT (1 - k.val)).addr]) ∧
  (∀ (s : State) (k : Fin 2) (f : List Byte) (stamp : Nat) (room : BitVec 3) (v : Nat) (x : Nat × Nat × Nat),
     s.ethClocked = true →
     s.portUp k.val = true →
     60 ≤ f.length →
     f.length ≤ 1518 →
     isLinkLocal (frDst f) = false →
     s.vlanOf (s.frClass k.val f).1 = some v →
     isMulticast (frDst f) = false →
     frDst f ≠ s.devMac →
     (let r := s.eth.table.filter (fun (e : Nat × Nat × Nat) => e.1 != frSrc f); if isMulticast (frSrc f) || decide (256 ≤ r.length) then s.eth.table else r ++ [(frSrc f, k.val, s.now)]).find? (fun e => e.1 == frDst f) = some x →
     x.2.1 < 2 →
     x.2.1 = (1 - k.val) → s.bit (ETHSW_VLAN_MEMB v) (1 - k.val) = true → room.getLsbD (1 - k.val) = true →
     ∃ t, exec (.ethFrameReceive k f stamp room) s = .next t ∧
       t = s.setEth { s.eth with table := (let r := s.eth.table.filter (fun (e : Nat × Nat × Nat) => e.1 != frSrc f); if isMulticast (frSrc f) || decide (256 ≤ r.length) then s.eth.table else r ++ [(frSrc f, k.val, s.now)]), out := s.eth.out ++ (if x.2.1 = (1 - k.val) ∧ s.bit (ETHSW_VLAN_MEMB v) (1 - k.val) = true ∧ s.portUp (1 - k.val) = true then [⟨(1 - k.val), (s.frClass k.val f).2, (if s.bit (ETHSW_VLAN_UNTAG v) (1 - k.val) then frUntag f else frTag f (s.frClass k.val f).2 (s.frClass k.val f).1)⟩] else []) }) ∧
  (∀ (s : State) (k : Fin 2) (f : List Byte) (stamp : Nat) (room : BitVec 3) (v : Nat),
     s.ethClocked = true →
     s.portUp k.val = true →
     60 ≤ f.length →
     f.length ≤ 1518 →
     isLinkLocal (frDst f) = false →
     s.vlanOf (s.frClass k.val f).1 = some v →
     frDst f = s.devMac →
     isMulticast (frDst f) = false →
     s.bit (ETHSW_VLAN_MEMB v) 2 = true →
     room.getLsbD 2 = true →
     ∃ t, exec (.ethFrameReceive k f stamp room) s = .next t ∧
       t = (s.setEth { s.eth with table := (let r := s.eth.table.filter (fun (e : Nat × Nat × Nat) => e.1 != frSrc f); if isMulticast (frSrc f) || decide (256 ≤ r.length) then s.eth.table else r ++ [(frSrc f, k.val, s.now)]) }).deviceFrame k.val (s.frClass k.val f).1 stamp room (if s.bit (ETHSW_VLAN_UNTAG v) 2 then frUntag f else frTag f (s.frClass k.val f).2 (s.frClass k.val f).1)) ∧
  (∀ (s : State) (k : Fin 2) (f : List Byte) (stamp : Nat) (room : BitVec 3) (v : Nat),
     s.ethClocked = true →
     s.portUp k.val = true →
     60 ≤ f.length →
     f.length ≤ 1518 →
     isLinkLocal (frDst f) = false →
     s.vlanOf (s.frClass k.val f).1 = some v →
     frDst f = s.devMac →
     isMulticast (frDst f) = false →
     s.bit (ETHSW_VLAN_MEMB v) 2 = false ∨ room.getLsbD 2 = false →
     ∃ t, exec (.ethFrameReceive k f stamp room) s = .next t ∧
       t = s.setEth { s.eth with table := (let r := s.eth.table.filter (fun (e : Nat × Nat × Nat) => e.1 != frSrc f); if isMulticast (frSrc f) || decide (256 ≤ r.length) then s.eth.table else r ++ [(frSrc f, k.val, s.now)]) }) ∧
  (∀ (s : State) (port vid stamp : Nat) (room : BitVec 3) (f : List Byte),
     payU (frUntag f) 12 2 = 0x88F7 →
     s.is GPTP_CFG_EN = true →
     port ≠ 3 →
     s.deviceFrame port vid stamp room f = s) ∧
  (∀ (s : State) (port vid stamp : Nat) (room : BitVec 3) (f : List Byte),
     payU (frUntag f) 12 2 = 0x0806 →
     payU ((frUntag f).drop 14) 0 4 = 0x00010800 →
     payU ((frUntag f).drop 14) 4 4 = 0x06040001 →
     s.ipHere (port == 3) (frTagged f) vid (payU ((frUntag f).drop 14) 24 4) = true →
     port = 3 →
     s.deviceFrame port vid stamp room f = s.setEth { s.eth with t1s := s.eth.t1s ++ [beBytes 6 (frSrc (frUntag f)) ++ beBytes 6 s.devMac ++ beBytes 2 0x0806 ++ beBytes 2 1 ++ beBytes 2 0x0800 ++ [6, 4] ++ beBytes 2 2 ++ beBytes 6 s.devMac ++ beBytes 4 (payU ((frUntag f).drop 14) 24 4) ++ ((frUntag f).drop 22).take 10] }) ∧
  (∀ (s : State) (port vid stamp : Nat) (room : BitVec 3) (f : List Byte),
     payU (frUntag f) 12 2 = 0x0806 →
     payU ((frUntag f).drop 14) 0 4 = 0x00010800 →
     payU ((frUntag f).drop 14) 4 4 = 0x06040001 →
     s.ipHere (port == 3) (frTagged f) vid (payU ((frUntag f).drop 14) 24 4) = true →
     port ≠ 3 →
     s.deviceFrame port vid stamp room f = (s.switchFrame 2 (if frTagged f then frTag (beBytes 6 (frSrc (frUntag f)) ++ beBytes 6 s.devMac ++ beBytes 2 0x0806 ++ beBytes 2 1 ++ beBytes 2 0x0800 ++ [6, 4] ++ beBytes 2 2 ++ beBytes 6 s.devMac ++ beBytes 4 (payU ((frUntag f).drop 14) 24 4) ++ ((frUntag f).drop 22).take 10) 0 vid else beBytes 6 (frSrc (frUntag f)) ++ beBytes 6 s.devMac ++ beBytes 2 0x0806 ++ beBytes 2 1 ++ beBytes 2 0x0800 ++ [6, 4] ++ beBytes 2 2 ++ beBytes 6 s.devMac ++ beBytes 4 (payU ((frUntag f).drop 14) 24 4) ++ ((frUntag f).drop 22).take 10) room).1) ∧
  (∀ (s : State) (port vid stamp : Nat) (room : BitVec 3) (f : List Byte),
     payU (frUntag f) 12 2 = 0x0800 →
     payU ((frUntag f).drop 14) 0 1 ≠ 0x45 ∨ payU ((frUntag f).drop 14) 6 2 % 16384 ≠ 0 ∨ fold16 (sum16 (((frUntag f).drop 14).take 20)) ≠ 0xFFFF →
     s.deviceFrame port vid stamp room f = s.inc ETH_APPSTAT_DISC) ∧
  (∀ (s : State) (port vid stamp : Nat) (room : BitVec 3) (f : List Byte),
     payU (frUntag f) 12 2 = 0x0800 →
     payU ((frUntag f).drop 14) 0 1 = 0x45 →
     payU ((frUntag f).drop 14) 6 2 % 16384 = 0 →
     fold16 (sum16 (((frUntag f).drop 14).take 20)) = 0xFFFF →
     s.ipHere (port == 3) (frTagged f) vid (payU ((frUntag f).drop 14) 16 4) = true →
     payU ((frUntag f).drop 14) 9 1 = 1 →
     payU ((((frUntag f).drop 14).drop 20).take (payU ((frUntag f).drop 14) 2 2 - 20)) 0 2 = 0x0800 →
     fold16 (sum16 ((((frUntag f).drop 14).drop 20).take (payU ((frUntag f).drop 14) 2 2 - 20))) = 0xFFFF →
     port = 3 →
     s.deviceFrame port vid stamp room f = s.setEth { s.eth with t1s := s.eth.t1s ++ [beBytes 6 (frSrc (frUntag f)) ++ beBytes 6 s.devMac ++ beBytes 2 0x0800 ++ ipAnswerHeader (((frUntag f).drop 14).take 20) ++ [0, 0] ++ beBytes 2 (inetSum ([0, 0, 0, 0] ++ ((((frUntag f).drop 14).drop 20).take (payU ((frUntag f).drop 14) 2 2 - 20)).drop 4)) ++ ((((frUntag f).drop 14).drop 20).take (payU ((frUntag f).drop 14) 2 2 - 20)).drop 4] }) ∧
  (∀ (s : State) (port vid stamp : Nat) (room : BitVec 3) (f : List Byte),
     payU (frUntag f) 12 2 = 0x0800 →
     payU ((frUntag f).drop 14) 0 1 = 0x45 →
     payU ((frUntag f).drop 14) 6 2 % 16384 = 0 →
     fold16 (sum16 (((frUntag f).drop 14).take 20)) = 0xFFFF →
     s.ipHere (port == 3) (frTagged f) vid (payU ((frUntag f).drop 14) 16 4) = true →
     payU ((frUntag f).drop 14) 9 1 = 1 →
     payU ((((frUntag f).drop 14).drop 20).take (payU ((frUntag f).drop 14) 2 2 - 20)) 0 2 = 0x0800 →
     fold16 (sum16 ((((frUntag f).drop 14).drop 20).take (payU ((frUntag f).drop 14) 2 2 - 20))) = 0xFFFF →
     port ≠ 3 →
     s.deviceFrame port vid stamp room f = (s.switchFrame 2 (if frTagged f then frTag (beBytes 6 (frSrc (frUntag f)) ++ beBytes 6 s.devMac ++ beBytes 2 0x0800 ++ ipAnswerHeader (((frUntag f).drop 14).take 20) ++ [0, 0] ++ beBytes 2 (inetSum ([0, 0, 0, 0] ++ ((((frUntag f).drop 14).drop 20).take (payU ((frUntag f).drop 14) 2 2 - 20)).drop 4)) ++ ((((frUntag f).drop 14).drop 20).take (payU ((frUntag f).drop 14) 2 2 - 20)).drop 4) 0 vid else beBytes 6 (frSrc (frUntag f)) ++ beBytes 6 s.devMac ++ beBytes 2 0x0800 ++ ipAnswerHeader (((frUntag f).drop 14).take 20) ++ [0, 0] ++ beBytes 2 (inetSum ([0, 0, 0, 0] ++ ((((frUntag f).drop 14).drop 20).take (payU ((frUntag f).drop 14) 2 2 - 20)).drop 4)) ++ ((((frUntag f).drop 14).drop 20).take (payU ((frUntag f).drop 14) 2 2 - 20)).drop 4) room).1) ∧
  (∀ (s : State) (port vid stamp : Nat) (room : BitVec 3) (f : List Byte),
     payU (frUntag f) 12 2 = 0x0800 →
     payU ((frUntag f).drop 14) 0 1 = 0x45 →
     payU ((frUntag f).drop 14) 6 2 % 16384 = 0 →
     fold16 (sum16 (((frUntag f).drop 14).take 20)) = 0xFFFF →
     payU ((frUntag f).drop 14) 9 1 = 17 →
     s.ipHere (port == 3) (frTagged f) vid (payU ((frUntag f).drop 14) 16 4) = true →
     payU ((((frUntag f).drop 14).drop 20).take (payU ((frUntag f).drop 14) 2 2 - 20)) 2 2 = 47121 →
     udpOk (((frUntag f).drop 14).take 20) ((((frUntag f).drop 14).drop 20).take (payU ((frUntag f).drop 14) 2 2 - 20)) = true →
     s.deviceFrame port vid stamp room f = s.kpReceive (if port = 3 then 2 else port) (payU ((frUntag f).drop 14) 12 4 * 65536 + payU ((((frUntag f).drop 14).drop 20).take (payU ((frUntag f).drop 14) 2 2 - 20)) 0 2) ((((((frUntag f).drop 14).drop 20).take (payU ((frUntag f).drop 14) 2 2 - 20)).drop 8).take (payU ((((frUntag f).drop 14).drop 20).take (payU ((frUntag f).drop 14) 2 2 - 20)) 4 2 - 8))) ∧
  (∀ (s : State) (port vid stamp : Nat) (room : BitVec 3) (f : List Byte),
     payU (frUntag f) 12 2 = 0x0800 →
     payU ((frUntag f).drop 14) 0 1 = 0x45 →
     payU ((frUntag f).drop 14) 6 2 % 16384 = 0 →
     fold16 (sum16 (((frUntag f).drop 14).take 20)) = 0xFFFF →
     payU ((frUntag f).drop 14) 9 1 = 17 →
     s.ipHere (port == 3) (frTagged f) vid (payU ((frUntag f).drop 14) 16 4) = true →
     payU ((((frUntag f).drop 14).drop 20).take (payU ((frUntag f).drop 14) 2 2 - 20)) 2 2 = 47121 →
     udpOk (((frUntag f).drop 14).take 20) ((((frUntag f).drop 14).drop 20).take (payU ((frUntag f).drop 14) 2 2 - 20)) = false →
     s.deviceFrame port vid stamp room f = s.inc ETH_APPSTAT_DISC) ∧
  (∀ (s : State) (port vid stamp : Nat) (room : BitVec 3) (f : List Byte),
     payU (frUntag f) 12 2 = 0x0800 →
     payU ((frUntag f).drop 14) 0 1 = 0x45 →
     payU ((frUntag f).drop 14) 6 2 % 16384 = 0 →
     fold16 (sum16 (((frUntag f).drop 14).take 20)) = 0xFFFF →
     payU ((frUntag f).drop 14) 9 1 = 17 →
     s.ipHere (port == 3) (frTagged f) vid (payU ((frUntag f).drop 14) 16 4) = false ∨ payU ((((frUntag f).drop 14).drop 20).take (payU ((frUntag f).drop 14) 2 2 - 20)) 2 2 ≠ 47121 →
     s.appMatch (payU (frUntag f) 12 2) (some (payU ((((frUntag f).drop 14).drop 20).take (payU ((frUntag f).drop 14) 2 2 - 20)) 2 2)) = true →
     s.eth.rxq.length + (leBytes 8 stamp ++ leBytes 2 f.length ++ [BitVec.ofNat 8 port, 0, 0, 0, 0, 0] ++ f ++ List.replicate ((4 - f.length % 4) % 4) 0).length ≤ 16384 →
     s.deviceFrame port vid stamp room f = (s.setEth { s.eth with rxq := s.eth.rxq ++ (leBytes 8 stamp ++ leBytes 2 f.length ++ [BitVec.ofNat 8 port, 0, 0, 0, 0, 0] ++ f ++ List.replicate ((4 - f.length % 4) % 4) 0), rxr := s.eth.rxr ++ [(leBytes 8 stamp ++ leBytes 2 f.length ++ [BitVec.ofNat 8 port, 0, 0, 0, 0, 0] ++ f ++ List.replicate ((4 - f.length % 4) % 4) 0).length] }).put ETH_APPSTAT_RXFILL (s.eth.rxq ++ (leBytes 8 stamp ++ leBytes 2 f.length ++ [BitVec.ofNat 8 port, 0, 0, 0, 0, 0] ++ f ++ List.replicate ((4 - f.length % 4) % 4) 0)).length) ∧
  (∀ (s : State) (port vid stamp : Nat) (room : BitVec 3) (f : List Byte),
     payU (frUntag f) 12 2 = 0x0800 →
     payU ((frUntag f).drop 14) 0 1 = 0x45 →
     payU ((frUntag f).drop 14) 6 2 % 16384 = 0 →
     fold16 (sum16 (((frUntag f).drop 14).take 20)) = 0xFFFF →
     payU ((frUntag f).drop 14) 9 1 = 17 →
     s.ipHere (port == 3) (frTagged f) vid (payU ((frUntag f).drop 14) 16 4) = false ∨ payU ((((frUntag f).drop 14).drop 20).take (payU ((frUntag f).drop 14) 2 2 - 20)) 2 2 ≠ 47121 →
     s.appMatch (payU (frUntag f) 12 2) (some (payU ((((frUntag f).drop 14).drop 20).take (payU ((frUntag f).drop 14) 2 2 - 20)) 2 2)) = false →
     s.deviceFrame port vid stamp room f = s.inc ETH_APPSTAT_DISC) ∧
  (∀ (s : State) (port vid stamp : Nat) (room : BitVec 3) (f : List Byte),
     ¬(payU (frUntag f) 12 2 = 0x88F7 ∧ s.is GPTP_CFG_EN = true ∧ port ≠ 3) →
     payU (frUntag f) 12 2 ≠ 0x0806 →
     payU (frUntag f) 12 2 ≠ 0x0800 →
     s.appMatch (payU (frUntag f) 12 2) (none) = true →
     s.eth.rxq.length + (leBytes 8 stamp ++ leBytes 2 f.length ++ [BitVec.ofNat 8 port, 0, 0, 0, 0, 0] ++ f ++ List.replicate ((4 - f.length % 4) % 4) 0).length ≤ 16384 →
     s.deviceFrame port vid stamp room f = (s.setEth { s.eth with rxq := s.eth.rxq ++ (leBytes 8 stamp ++ leBytes 2 f.length ++ [BitVec.ofNat 8 port, 0, 0, 0, 0, 0] ++ f ++ List.replicate ((4 - f.length % 4) % 4) 0), rxr := s.eth.rxr ++ [(leBytes 8 stamp ++ leBytes 2 f.length ++ [BitVec.ofNat 8 port, 0, 0, 0, 0, 0] ++ f ++ List.replicate ((4 - f.length % 4) % 4) 0).length] }).put ETH_APPSTAT_RXFILL (s.eth.rxq ++ (leBytes 8 stamp ++ leBytes 2 f.length ++ [BitVec.ofNat 8 port, 0, 0, 0, 0, 0] ++ f ++ List.replicate ((4 - f.length % 4) % 4) 0)).length) ∧
  (∀ (s : State) (port vid stamp : Nat) (room : BitVec 3) (f : List Byte),
     ¬(payU (frUntag f) 12 2 = 0x88F7 ∧ s.is GPTP_CFG_EN = true ∧ port ≠ 3) →
     payU (frUntag f) 12 2 ≠ 0x0806 →
     payU (frUntag f) 12 2 ≠ 0x0800 →
     s.appMatch (payU (frUntag f) 12 2) (none) = true →
     16384 < s.eth.rxq.length + (leBytes 8 stamp ++ leBytes 2 f.length ++ [BitVec.ofNat 8 port, 0, 0, 0, 0, 0] ++ f ++ List.replicate ((4 - f.length % 4) % 4) 0).length →
     s.deviceFrame port vid stamp room f = s.inc ETH_APPSTAT_DISC) ∧
  (∀ (s : State) (port vid stamp : Nat) (room : BitVec 3) (f : List Byte),
     ¬(payU (frUntag f) 12 2 = 0x88F7 ∧ s.is GPTP_CFG_EN = true ∧ port ≠ 3) →
     payU (frUntag f) 12 2 ≠ 0x0806 →
     payU (frUntag f) 12 2 ≠ 0x0800 →
     s.appMatch (payU (frUntag f) 12 2) none = false →
     s.deviceFrame port vid stamp room f = s.inc ETH_APPSTAT_DISC) ∧
  (∀ (s : State) (f : List Byte) (stamp : Nat),
     s.ethClocked = true →
     s.is T1S_CFG_EN = true →
     isMulticast (frDst f) = true ∨ frDst f = s.devMac →
     ∃ t, exec (.t1sFrameReceive f stamp) s = .next t ∧
       t = s.deviceFrame 3 0 stamp 7 f) ∧
  (∀ (s : State) (f : List Byte) (stamp : Nat),
     s.ethClocked = false ∨ s.is T1S_CFG_EN = false ∨ (isMulticast (frDst f) = false ∧ frDst f ≠ s.devMac) →
     ∃ t, exec (.t1sFrameReceive f stamp) s = .next t ∧
       t = s) ∧
  (∀ (s : State) (room : BitVec 3) (f rest : List Byte),
     s.ethClocked = true →
     f.length < 65536 →
     f.length % 4 = 0 →
     s.eth.txq = leBytes 8 0 ++ leBytes 2 f.length ++ [3, 0, 0, 0, 0, 0] ++ f ++ rest →
     ∃ t, exec (.ethAppTransmit room) s = .next t ∧
       t = s.setEth { s.eth with t1s := s.eth.t1s ++ [f], txq := rest }) ∧
  (∀ (s : State) (room : BitVec 3) (f rest : List Byte) (v : Nat),
     s.ethClocked = true →
     f.length < 65536 →
     f.length % 4 = 0 →
     s.eth.txq = leBytes 8 0 ++ leBytes 2 f.length ++ [2, 0, 0, 0, 0, 0] ++ f ++ rest →
     isLinkLocal (frDst f) = false →
     isMulticast (frDst f) = true →
     s.vlanOf (s.frClass 2 f).1 = some v →
     ∀ q : Fin 2, s.bit (ETHSW_VLAN_MEMB v) q.val = true ∧ room.getLsbD q.val = true ∧ s.portUp q.val = true →
     ∃ t, exec (.ethAppTransmit room) s = .next t ∧
       t = s.setEth { s.eth with txq := rest, out := s.eth.out ++ [⟨0, (s.frClass 2 f).2, (if s.bit (ETHSW_VLAN_UNTAG v) 0 then frUntag f else frTag f (s.frClass 2 f).2 (s.frClass 2 f).1)⟩, ⟨1, (s.frClass 2 f).2, (if s.bit (ETHSW_VLAN_UNTAG v) 1 then frUntag f else frTag f (s.frClass 2 f).2 (s.frClass 2 f).1)⟩] }) ∧
  (∀ (s : State) (room : BitVec 3) (f rest : List Byte),
     s.ethClocked = true →
     f.length < 65536 →
     f.length % 4 = 0 →
     s.eth.txq = leBytes 8 0 ++ leBytes 2 f.length ++ [2, 0, 0, 0, 0, 0] ++ f ++ rest →
     isLinkLocal (frDst f) = true ∨ s.vlanOf (s.frClass 2 f).1 = none →
     ∃ t, exec (.ethAppTransmit room) s = .next t ∧
       t = s.setEth { s.eth with txq := rest }) ∧
  (∀ (s : State) (room : BitVec 3) (f rest : List Byte) (z : Byte),
     s.ethClocked = true →
     f.length < 65536 →
     f.length % 4 = 0 →
     s.eth.txq = leBytes 8 0 ++ leBytes 2 f.length ++ [z, 0, 0, 0, 0, 0] ++ f ++ rest →
     z ≠ 2 →
     z ≠ 3 →
     ∃ t, exec (.ethAppTransmit room) s = .next t ∧
       t = s.setEth { s.eth with txq := rest }) ∧
  (∀ (s : State) (room : BitVec 3),
     s.ethClocked = false ∨ s.eth.txq.length < 16 ∨ s.eth.txq.length < 16 + (leNat ((s.eth.txq.drop 8).take 2) + 3) / 4 * 4 →
     ∃ t, exec (.ethAppTransmit room) s = .next t ∧
       t = s) ∧
  (∀ (s : State) (mac : BitVec 48),
     s.ethClocked = true →
     ∃ t, exec (.ethAddressAgeout mac) s = .next t ∧
       ∀ e, e ∈ t.eth.table ↔ e ∈ s.eth.table ∧ ¬(e.1 = mac.toNat ∧ s.elapsedMs e.2.2 300000 = true) ∧
       t = s.setEth { s.eth with table := t.eth.table }) ∧
  (∀ (s : State) (mac : BitVec 48),
     s.ethClocked = false →
     ∃ t, exec (.ethAddressAgeout mac) s = .next t ∧
       t = s) ∧
  (∀ (s : State),
     s.ethClocked = true →
     s.is T1S_CFG_EN = true →
     s.is T1S_CFG_PLCA = false ∨ s.get T1S_CFG_NODEID ≠ 255 →
     ∃ t, exec (.t1sTransmitOpportunity false) s = .next t ∧
       t = s.setEth { s.eth with out := s.eth.out ++ (s.eth.t1s.take (if s.is T1S_CFG_PLCA then 1 + s.get T1S_BURST_MAXBC else 1)).map (fun o => ⟨3, 0, o⟩), t1s := s.eth.t1s.drop (if s.is T1S_CFG_PLCA then 1 + s.get T1S_BURST_MAXBC else 1) }) ∧
  (∀ (s : State),
     s.ethClocked = true →
     s.is T1S_CFG_EN = true →
     s.is T1S_CFG_PLCA = true →
     s.get T1S_CFG_NODEID = 0 →
     ∃ t, exec (.t1sTransmitOpportunity true) s = .next t ∧
       t = s.setEth { s.eth with beacons := s.eth.beacons + 1 }) ∧
  (∀ (s : State) (o : Bool),
     s.ethClocked = false ∨ s.is T1S_CFG_EN = false ∨ (o = false ∧ s.is T1S_CFG_PLCA = true ∧ s.get T1S_CFG_NODEID = 255) ∨ (o = true ∧ (s.is T1S_CFG_PLCA = false ∨ s.get T1S_CFG_NODEID ≠ 0)) →
     ∃ t, exec (.t1sTransmitOpportunity o) s = .next t ∧
       t = s) ∧
  (∀ (s : State) (k : Fin 2) (stamp : Nat),
     s.ethClocked = true →
     s.ticking = true →
     s.is GPTP_CFG_EN = true →
     s.portUp k.val = true →
     s.get TB_CTRL_PORT = k.val →
     ∃ t, exec (.gptpMessage k (.sync stamp)) s = .next t ∧
       t = s.setEth { s.eth with sync := some (k.val, stamp, s.timebase), gptp := s.eth.gptp ++ (if s.is GPTP_CFG_RELAY && s.portUp (1 - k.val) then [(1 - k.val, GptpMsg.sync s.timebase)] else []) }) ∧
  (∀ (s : State) (k : Fin 2) (o rx tx : Nat) (corr : Int),
     s.ethClocked = true →
     s.ticking = true →
     s.is GPTP_CFG_EN = true →
     s.portUp k.val = true →
     s.get TB_CTRL_PORT = k.val →
     s.eth.sync = some (k.val, rx, tx) →
     ∃ t, exec (.gptpMessage k (.followUp o corr)) s = .next t ∧
       t.tbOffset = unsigned 64 ((o : Int) + corr + s.get (GPTP_PDELAY_DELAY k.val) - rx) ∧
       t.eth = { s.eth with sync := none, offs := ((o : Int) + corr + s.get (GPTP_PDELAY_DELAY k.val) - rx) :: s.eth.offs.take 8, gptp := s.eth.gptp ++ (if s.is GPTP_CFG_RELAY && s.portUp (1 - k.val) then [(1 - k.val, GptpMsg.followUp o (corr + s.get (GPTP_PDELAY_DELAY k.val) + (tx - rx)))] else []) } ∧
       t.is TB_CTRL_LOCKED = offsLocked t.eth.offs ∧
       s.OnlyRegs { t with eth := s.eth } [TB_OFFSET_LO.addr, TB_OFFSET_HI.addr, TB_CTRL.addr]) ∧
  (∀ (s : State) (k : Fin 2) (stamp : Nat),
     s.get TB_CTRL_PORT ≠ k.val →
     ∃ t, exec (.gptpMessage k (.sync stamp)) s = .next t ∧
       t = s) ∧
  (∀ (s : State) (k : Fin 2) (o : Nat) (corr : Int),
     s.get TB_CTRL_PORT ≠ k.val ∨ s.eth.sync.all (fun e => e.1 != k.val) = true →
     ∃ t, exec (.gptpMessage k (.followUp o corr)) s = .next t ∧
       t = s) ∧
  (∀ (s : State) (k : Fin 2) (a b c d : Nat),
     s.ethClocked = true →
     s.ticking = true →
     s.is GPTP_CFG_EN = true →
     s.portUp k.val = true →
     0 ≤ (((d : Int) - a) - ((c : Int) - b)) / 2 →
     (((d : Int) - a) - ((c : Int) - b)) / 2 < 2 ^ 32 →
     ∃ t, exec (.gptpMessage k (.peerDelay a b c d)) s = .next t ∧
       (t.get (GPTP_PDELAY_DELAY k.val) : Int) = (((d : Int) - a) - ((c : Int) - b)) / 2 ∧
       s.OnlyRegs t [(GPTP_PDELAY k.val).addr]) ∧
  (∀ (s : State) (k : Fin 2) (a b c d : Nat),
     s.ethClocked = true →
     s.ticking = true →
     s.is GPTP_CFG_EN = true →
     s.portUp k.val = true →
     (((d : Int) - a) - ((c : Int) - b)) / 2 < 0 ∨ 2 ^ 32 ≤ (((d : Int) - a) - ((c : Int) - b)) / 2 →
     ∃ t, exec (.gptpMessage k (.peerDelay a b c d)) s = .next t ∧
       s.useFree.OnlyRegs t [(GPTP_PDELAY k.val).addr]) ∧
  (∀ (s : State) (k : Fin 2) (stamp : Nat),
     s.ethClocked = true →
     s.ticking = true →
     s.is GPTP_CFG_EN = true →
     s.portUp k.val = true →
     ∃ t, exec (.gptpMessage k (.peerRequest stamp)) s = .next t ∧
       t = s.setEth { s.eth with gptp := s.eth.gptp ++ [(k.val, .peerRequest stamp)] }) ∧
  (∀ (s : State) (k : Fin 2) (g : GptpMsg),
     s.ethClocked = false ∨ s.ticking = false ∨ s.is GPTP_CFG_EN = false ∨ s.portUp k.val = false →
     ∃ t, exec (.gptpMessage k g) s = .next t ∧
       t = s) ∧
  (∀ (l : List Int) (a b : Int),
     l[0]? = some a →
     l[8]? = some b →
     (offsLocked l = true ↔ (a - b).natAbs < 1000)) ∧
  (∀ (s : State),
     s.eth.trimAt + 40000000 ≤ s.now → s.ticking = true → s.is TB_CTRL_DISC_EN = false ∨ s.eth.offs = [] →
     s.trimStep = s) ∧
  (∀ (s : State),
     s.ticking = true →
     s.is TB_CTRL_DISC_EN = true →
     s.eth.offs ≠ [] →
     s.eth.trimAt + 40000000 ≤ s.now →
     (signed 20 (s.get TB_CTRL_TRIM)).natAbs ≤ 1000 →
     (signed 20 (s.trimStep.get TB_CTRL_TRIM) - signed 20 (s.get TB_CTRL_TRIM)).natAbs ≤ 1 ∧ (signed 20 (s.trimStep.get TB_CTRL_TRIM)).natAbs ≤ 1000 ∧ s.trimStep.eth = { s.eth with trimAt := s.now })

/-- An open call of a running Paired or Voted core with a descriptor in range and a new identity adds the connection in its first
state with its status block, or reopens its own one; a Split core is answered NOT_SAFE_CORE, and a descriptor out of range, an
identity in use and a full core are refused. No sooner than 100 µs after the core's last pass, a pass takes what is placed for
a TX connection, sends a due data unit by UDP or CAN with SEQ, flags, data and CRC, counting LOST where an old one is still
pending or there is no room; an RX connection takes a waiting frame, counts a format, CRC or sequence error or accepts it as
R430 says; one whose time has passed, or with too many errors, goes to FAILED, and Badger gets the demand of REACT as source
0x05 or 0x06. Otherwise nothing changes (R421, R423 to R425, R427 to R431, R434). -/
def Obligations.SafetyLayerConnectionsOpenReceiveAndSend : Prop :=
  (∀ (desc : BitVec 256),
     (badDesc desc = false ↔ descU desc 0 4 ≠ 0 ∧ descU desc 4 1 ≤ 1 ∧ descU desc 5 1 ≤ 3 ∧ descU desc 6 1 ≤ 3 ∧ descU desc 7 1 ≤ (if descU desc 5 1 = 0 then 0 else if descU desc 5 1 = 1 then 56 else 64) ∧ (descU desc 5 1 = 3 ↔ descU desc 12 2 ≠ 0) ∧ 1 ≤ descU desc 14 2 ∧ descU desc 14 2 ≤ 1000 ∧ descU desc 16 1 ≤ 15 ∧ descU desc 17 1 ≤ 1 ∧ 1 ≤ descU desc 18 1 ∧ descU desc 18 1 ≤ 15 ∧ descU desc 19 1 ≤ 3 ∧ descU desc 20 12 = 0)) ∧
  (∀ (s : State) (c : Fin 4) (desc : BitVec 256) (blk : BitVec 25) (re : Bool),
     s.asl.results.length = 4 →
     s.scRuns c.val = true →
     s.scRedundant c.val = true →
     badDesc desc = false →
     descU desc 4 1 = 0 →
     s.asl.conns.any (fun o => o.ident == descU desc 0 4 && s.aslOpen o) = false →
     (s.asl.conns.filter (fun o => o.core == c.val)).length < 32 →
     ∃ t, exec (.aslOpen c desc blk re) s = .next t ∧
       t.asl.conns = s.asl.conns ++ [{ newConn c.val (0x20000000 + blk.toNat) desc [] with state := 1, timer := some s.tick, init := true }] ∧
       nth t.asl.results c.val .ok = .ok ∧
       t.rdBytes (0x20000000 + blk.toNat) 16 = ({ newConn c.val (0x20000000 + blk.toNat) desc [] with state := 1, timer := some s.tick, init := true }).block) ∧
  (∀ (s : State) (c : Fin 4) (desc : BitVec 256) (blk : BitVec 25) (re : Bool),
     s.asl.results.length = 4 →
     s.scRuns c.val = true →
     s.scRedundant c.val = true →
     badDesc desc = false →
     descU desc 4 1 = 1 →
     s.asl.conns.any (fun o => o.ident == descU desc 0 4 && s.aslOpen o) = false →
     (s.asl.conns.filter (fun o => o.core == c.val)).length < 32 →
     ∃ t, exec (.aslOpen c desc blk re) s = .next t ∧
       ∃ o : List Byte, o.length = descU desc 7 1 ∧ t.asl.conns = s.asl.conns ++ [{ newConn c.val (0x20000000 + blk.toNat) desc o with state := 2, init := true }] ∧
       nth t.asl.results c.val .ok = .ok ∧
       t.rdBytes (0x20000000 + blk.toNat) 16 = ({ newConn c.val (0x20000000 + blk.toNat) desc [] with state := 2, init := true }).block) ∧
  (∀ (s : State) (c : Fin 4) (desc : BitVec 256) (blk : BitVec 25) (i : Nat) (a : AslConn),
     s.asl.results.length = 4 →
     s.scRuns c.val = true →
     s.scRedundant c.val = true →
     s.asl.conns.findIdx? (fun o => o.core == c.val && o.ident == descU desc 0 4 && s.aslOpen o) = some i →
     s.asl.conns[i]? = some a →
     ∃ t, exec (.aslOpen c desc blk true) s = .next t ∧
       t.asl.conns = s.asl.conns.set i { a with state := (if a.tx then 2 else 1), cause := 0, timer := (if a.tx then none else some s.tick), errs := [], init := true, seq := 0, buf := none } ∧
       nth t.asl.results c.val .ok = .ok) ∧
  (∀ (s : State) (c : Fin 4) (desc : BitVec 256) (blk : BitVec 25) (re : Bool),
     s.asl.results.length = 4 →
     s.scRuns c.val = true →
     s.scRedundant c.val = false →
     ∃ t, exec (.aslOpen c desc blk re) s = .next t ∧
       nth t.asl.results c.val .ok = .notSafeCore ∧
       t = { s with asl := t.asl } ∧
       t.asl.conns = s.asl.conns) ∧
  (∀ (s : State) (c : Fin 4) (desc : BitVec 256) (blk : BitVec 25) (re : Bool),
     s.asl.results.length = 4 →
     s.scRuns c.val = true →
     s.scRedundant c.val = true →
     re = false ∨ s.asl.conns.findIdx? (fun o => o.core == c.val && o.ident == descU desc 0 4 && s.aslOpen o) = none →
     badDesc desc = true →
     ∃ t, exec (.aslOpen c desc blk re) s = .next t ∧
       nth t.asl.results c.val .ok = .badDesc ∧
       t = { s with asl := t.asl } ∧
       t.asl.conns = s.asl.conns) ∧
  (∀ (s : State) (c : Fin 4) (desc : BitVec 256) (blk : BitVec 25) (re : Bool),
     s.asl.results.length = 4 →
     s.scRuns c.val = true →
     s.scRedundant c.val = true →
     badDesc desc = false →
     re = false ∨ s.asl.conns.findIdx? (fun o => o.core == c.val && o.ident == descU desc 0 4 && s.aslOpen o) = none →
     s.asl.conns.any (fun o => o.ident == descU desc 0 4 && s.aslOpen o) = true →
     ∃ t, exec (.aslOpen c desc blk re) s = .next t ∧
       nth t.asl.results c.val .ok = .dupIdent ∧
       t = { s with asl := t.asl } ∧
       t.asl.conns = s.asl.conns) ∧
  (∀ (s : State) (c : Fin 4) (desc : BitVec 256) (blk : BitVec 25) (re : Bool),
     s.asl.results.length = 4 →
     s.scRuns c.val = true →
     s.scRedundant c.val = true →
     badDesc desc = false →
     s.asl.conns.any (fun o => o.ident == descU desc 0 4 && s.aslOpen o) = false →
     32 ≤ (s.asl.conns.filter (fun o => o.core == c.val)).length →
     ∃ t, exec (.aslOpen c desc blk re) s = .next t ∧
       nth t.asl.results c.val .ok = .full ∧
       t = { s with asl := t.asl } ∧
       t.asl.conns = s.asl.conns) ∧
  (∀ (s : State) (c : Fin 4) (desc : BitVec 256) (blk : BitVec 25) (re : Bool),
     s.scRuns c.val = false →
     ∃ t, exec (.aslOpen c desc blk re) s = .next t ∧
       t = s) ∧
  (∀ (s : State) (c : Fin 4) (l : List AslPlace) (sof : BitVec 4),
     s.scRuns c.val = false ∨ s.scRedundant c.val = false ∨ s.aslSince c.val 1 = false →
     ∃ t, exec (.aslServicePass c l sof) s = .next t ∧
       t = s) ∧
  (∀ (s : State) (c : Fin 4) (sof : BitVec 4),
     s.scRuns c.val = true →
     s.scRedundant c.val = true →
     s.aslSince c.val 1 = true →
     s.asl.conns = [] →
     ∃ t, exec (.aslServicePass c [] sof) s = .next t ∧
       t.asl = { s.asl with passAt := s.asl.passAt.set c.val (some s.now) } ∧
       t = { s with asl := t.asl, fresh := t.fresh }) ∧
  (∀ (s : State) (c : Fin 4) (a : AslConn) (p : AslPlace) (sof : BitVec 4),
     s.scRuns c.val = true →
     s.scRedundant c.val = true →
     s.aslSince c.val 1 = true →
     s.asl.conns = [a] →
     a.core = c.val →
     s.asl.passAt.length = 4 →
     a.tx = true →
     a.timer.any (fun o => decide (s.tick < o + a.time * 100000)) = true →
     ∃ t, exec (.aslServicePass c [p] sof) s = .next t ∧
       t.asl.conns = [if p.ident.toNat = a.ident ∧ p.data.length = a.len then { a with data := p.data, stop := p.stop, sto := p.sto } else a] ∧
       t.asl.sent = s.asl.sent) ∧
  (∀ (s : State) (c : Fin 4) (a : AslConn) (sof : BitVec 4),
     s.scRuns c.val = true →
     s.scRedundant c.val = true →
     s.aslSince c.val 1 = true →
     s.asl.conns = [a] →
     a.core = c.val →
     s.asl.passAt.length = 4 →
     a.tx = true →
     a.state = 2 →
     a.timer = none ∨ a.timer.any (fun o => decide (o + a.time * 100000 ≤ s.tick)) = true →
     a.isUdp = true →
     s.isOn 13 = true →
     s.pllA = true →
     s.eth.txq.length + (s.useFree.aslUdpRecord a (aslPdu a.ident a.seq (b2n a.init + 2 * b2n a.stop + 4 * b2n a.sto + 8 * b2n (!s.is HSM_STATUS_SAFEOK)) a.data)).length ≤ 16384 →
     ∃ t, exec (.aslServicePass c [] sof) s = .next t ∧
       t.asl.sent = s.asl.sent ++ [(BitVec.ofNat 32 a.ident, (aslPdu a.ident a.seq (b2n a.init + 2 * b2n a.stop + 4 * b2n a.sto + 8 * b2n (!s.is HSM_STATUS_SAFEOK)) a.data))] ∧
       t.asl.conns = [{ a with lastSeq := a.seq, seq := (a.seq + 1) % 65536, timer := some s.tick, init := false, tstamp := s.tick * 10 % 2 ^ 32, lost := a.lost, buf := a.buf }] ∧
       ∃ o : List Byte, t.eth.txq = s.eth.txq ++ o ∧ (s.is (ETH_IPCFG_T1S a.port) = true ∨ s.get (ETH_IPCFG_VID a.port) = 0 → (o.drop 58).take (aslPdu a.ident a.seq (b2n a.init + 2 * b2n a.stop + 4 * b2n a.sto + 8 * b2n (!s.is HSM_STATUS_SAFEOK)) a.data).length = (aslPdu a.ident a.seq (b2n a.init + 2 * b2n a.stop + 4 * b2n a.sto + 8 * b2n (!s.is HSM_STATUS_SAFEOK)) a.data))) ∧
  (∀ (s : State) (c : Fin 4) (a : AslConn) (sof : BitVec 4),
     s.scRuns c.val = true →
     s.scRedundant c.val = true →
     s.aslSince c.val 1 = true →
     s.asl.conns = [a] →
     a.core = c.val →
     s.asl.passAt.length = 4 →
     a.tx = true →
     a.state = 2 →
     a.timer = none ∨ a.timer.any (fun o => decide (o + a.time * 100000 ≤ s.tick)) = true →
     a.isUdp = true →
     s.isOn 13 = false ∨ s.pllA = false ∨ 16384 < s.eth.txq.length + (s.useFree.aslUdpRecord a (aslPdu a.ident a.seq (b2n a.init + 2 * b2n a.stop + 4 * b2n a.sto + 8 * b2n (!s.is HSM_STATUS_SAFEOK)) a.data)).length →
     ∃ t, exec (.aslServicePass c [] sof) s = .next t ∧
       t.asl.sent = s.asl.sent ++ [(BitVec.ofNat 32 a.ident, (aslPdu a.ident a.seq (b2n a.init + 2 * b2n a.stop + 4 * b2n a.sto + 8 * b2n (!s.is HSM_STATUS_SAFEOK)) a.data))] ∧
       t.asl.conns = [{ a with lastSeq := a.seq, seq := (a.seq + 1) % 65536, timer := some s.tick, init := false, tstamp := s.tick * 10 % 2 ^ 32, lost := min 65535 (a.lost + 1), buf := a.buf }] ∧
       t.eth.txq = s.eth.txq) ∧
  (∀ (s : State) (c : Fin 4) (a : AslConn) (sof : BitVec 4),
     s.scRuns c.val = true →
     s.scRedundant c.val = true →
     s.aslSince c.val 1 = true →
     s.asl.conns = [a] →
     a.core = c.val →
     s.asl.passAt.length = 4 →
     a.tx = true →
     a.state = 2 →
     a.timer = none ∨ a.timer.any (fun o => decide (o + a.time * 100000 ≤ s.tick)) = true →
     a.isUdp = false →
     a.port < 4 →
     s.can.length = 4 →
     s.isOn 13 = true →
     s.pllA = true →
     a.buf.all (fun o => !bitOf o (s.get (CAN_TXPEND_PEND a.port))) = true →
     s.canFree a.port ≠ [] →
     ∃ t, exec (.aslServicePass c [] sof) s = .next t ∧
       t.asl.sent = s.asl.sent ++ [(BitVec.ofNat 32 a.ident, (aslPdu a.ident a.seq (b2n a.init + 2 * b2n a.stop + 4 * b2n a.sto + 8 * b2n (!s.is HSM_STATUS_SAFEOK)) a.data))] ∧
       ∃ o ∈ s.canFree a.port, bitOf o (t.get (CAN_TXPEND_PEND a.port)) = true ∧ t.asl.conns = [{ a with lastSeq := a.seq, seq := (a.seq + 1) % 65536, timer := some s.tick, init := false, tstamp := s.tick * 10 % 2 ^ 32, lost := a.lost, buf := some o }]) ∧
  (∀ (s : State) (c : Fin 4) (a : AslConn) (b : Fin 28) (sof : BitVec 4),
     s.scRuns c.val = true →
     s.scRedundant c.val = true →
     s.aslSince c.val 1 = true →
     s.asl.conns = [a] →
     a.core = c.val →
     s.asl.passAt.length = 4 →
     a.tx = true →
     a.state = 2 →
     a.timer = none ∨ a.timer.any (fun o => decide (o + a.time * 100000 ≤ s.tick)) = true →
     a.isUdp = false →
     a.port < 4 →
     s.can.length = 4 →
     s.isOn 13 = true →
     s.pllA = true →
     a.buf = some b.val →
     b.val < s.canNtx a.port →
     bitOf b.val (s.get (CAN_TXPEND_PEND a.port)) = true →
     (s.canOf a.port).att.isSome = true →
     (s.canOf a.port).att ≠ some b.val →
     ∃ t, exec (.aslServicePass c [] sof) s = .next t ∧
       t.asl.sent = s.asl.sent ++ [(BitVec.ofNat 32 a.ident, (aslPdu a.ident a.seq (b2n a.init + 2 * b2n a.stop + 4 * b2n a.sto + 8 * b2n (!s.is HSM_STATUS_SAFEOK)) a.data))] ∧
       ∃ o ∈ b.val :: s.canFree a.port, bitOf o (t.get (CAN_TXPEND_PEND a.port)) = true ∧ t.asl.conns = [{ a with lastSeq := a.seq, seq := (a.seq + 1) % 65536, timer := some s.tick, init := false, tstamp := s.tick * 10 % 2 ^ 32, lost := min 65535 (a.lost + 1), buf := some o }]) ∧
  (∀ (s : State) (c : Fin 4) (a : AslConn) (sof : BitVec 4),
     s.scRuns c.val = true →
     s.scRedundant c.val = true →
     s.aslSince c.val 1 = true →
     s.asl.conns = [a] →
     a.core = c.val →
     s.asl.passAt.length = 4 →
     a.tx = true →
     a.state = 2 →
     a.timer = none ∨ a.timer.any (fun o => decide (o + a.time * 100000 ≤ s.tick)) = true →
     a.isUdp = false →
     a.buf = none →
     s.isOn 13 = false ∨ s.pllA = false ∨ s.canFree a.port = [] →
     ∃ t, exec (.aslServicePass c [] sof) s = .next t ∧
       t.asl.sent = s.asl.sent ++ [(BitVec.ofNat 32 a.ident, (aslPdu a.ident a.seq (b2n a.init + 2 * b2n a.stop + 4 * b2n a.sto + 8 * b2n (!s.is HSM_STATUS_SAFEOK)) a.data))] ∧
       t.asl.conns = [{ a with lastSeq := a.seq, seq := (a.seq + 1) % 65536, timer := some s.tick, init := false, tstamp := s.tick * 10 % 2 ^ 32, lost := min 65535 (a.lost + 1), buf := none }]) ∧
  (∀ (s : State) (c : Fin 4) (a : AslConn) (sof : BitVec 4),
     s.scRuns c.val = true →
     s.scRedundant c.val = true →
     s.aslSince c.val 1 = true →
     s.asl.conns = [a] →
     a.core = c.val →
     s.asl.passAt.length = 4 →
     a.tx = false →
     s.isOn 13 = false ∨ s.pllA = false →
     a.state = 1 ∨ a.state = 2 →
     a.timer.any (fun o => decide (o + a.time * 100000 ≤ s.tick)) = true →
     ∃ t, exec (.aslServicePass c [] sof) s = .next t ∧
       t = (((s.setAsl { s.asl with conns := [{ a with state := 3, cause := 1 }], passAt := s.asl.passAt.set c.val (some s.now) }).wrBytes a.blk ({ a with state := 3, cause := 1 } : AslConn).block).bSource (if a.react = 0 then 0x05 else 0x06) 0)) ∧
  (∀ (s : State) (c : Fin 4) (a : AslConn) (sof : BitVec 4),
     s.scRuns c.val = true →
     s.scRedundant c.val = true →
     s.aslSince c.val 1 = true →
     s.asl.conns = [a] →
     a.core = c.val →
     s.asl.passAt.length = 4 →
     a.tx = false →
     s.isOn 13 = true →
     s.pllA = true →
     a.isUdp = false →
     a.port < 4 →
     ∀ k : Fin 2, s.get (CAN_RXF_FILL a.port k.val) = 0 →
     a.state = 1 ∨ a.state = 2 →
     a.timer.any (fun o => decide (o + a.time * 100000 ≤ s.tick)) = true →
     ∃ t, exec (.aslServicePass c [] sof) s = .next t ∧
       t = (((s.useFree.setAsl { s.asl with conns := [{ a with state := 3, cause := 1 }], passAt := s.asl.passAt.set c.val (some s.now) }).wrBytes a.blk ({ a with state := 3, cause := 1 } : AslConn).block).bSource (if a.react = 0 then 0x05 else 0x06) 0)) ∧
  (∀ (s : State) (c : Fin 4) (a : AslConn) (sof : BitVec 4),
     s.scRuns c.val = true →
     s.scRedundant c.val = true →
     s.aslSince c.val 1 = true →
     s.asl.conns = [a] →
     a.core = c.val →
     s.asl.passAt.length = 4 →
     a.tx = false →
     s.isOn 13 = false ∨ s.pllA = false →
     a.state = 1 ∨ a.state = 2 →
     a.timer.any (fun o => decide (o + a.time * 100000 ≤ s.tick)) = false →
     a.errMax ≤ (a.errs.filter (fun o => decide (s.tick < o + 100000000))).length →
     ∃ t, exec (.aslServicePass c [] sof) s = .next t ∧
       t = (((s.setAsl { s.asl with conns := [{ a with state := 3, cause := 2 }], passAt := s.asl.passAt.set c.val (some s.now) }).wrBytes a.blk ({ a with state := 3, cause := 2 } : AslConn).block).bSource (if a.react = 0 then 0x05 else 0x06) 0)) ∧
  (∀ (s : State) (c : Fin 4) (a : AslConn) (sof : BitVec 4),
     s.scRuns c.val = true →
     s.scRedundant c.val = true →
     s.aslSince c.val 1 = true →
     s.asl.conns = [a] →
     a.core = c.val →
     s.asl.passAt.length = 4 →
     a.tx = false →
     s.isOn 13 = true →
     s.pllA = true →
     a.isUdp = false →
     a.port < 4 →
     ∀ k : Fin 2, s.get (CAN_RXF_FILL a.port k.val) = 0 →
     a.state = 3 ∨ (a.timer.any (fun o => decide (o + a.time * 100000 ≤ s.tick)) = false ∧ (a.errs.filter (fun o => decide (s.tick < o + 100000000))).length < a.errMax) →
     ∃ t, exec (.aslServicePass c [] sof) s = .next t ∧
       t = (s.setAsl { s.asl with passAt := s.asl.passAt.set c.val (some s.now) }).useFree) ∧
  (∀ (s : State) (c : Fin 4) (a : AslConn) (f : AslFrame) (sof : BitVec 4),
     s.scRuns c.val = true →
     s.scRedundant c.val = true →
     s.aslSince c.val 1 = true →
     s.asl.conns = [a] →
     a.core = c.val →
     s.asl.passAt.length = 4 →
     a.tx = false →
     s.isOn 13 = true →
     s.pllA = true →
     a.isUdp = false →
     a.port < 4 →
     s.canWaiting a.port 0 ++ s.canWaiting a.port 1 = [f] →
     a.addressed f = true →
     (a.receive s.tick f).1.fails s.tick = 0 →
     ∃ t, exec (.aslServicePass c [] sof) s = .next t ∧
       t.asl.conns = [(a.receive s.tick f).1] ∧
       t.asl.sent = s.asl.sent ∧
       (a.receive s.tick f).2 = 0 → t.badger = s.badger ∧
       ∀ k : Fin 2, t.get (CAN_RXF_FILL a.port k.val) = 0) ∧
  (∀ (s : State) (c : Fin 4) (a : AslConn) (f : AslFrame) (sof : BitVec 4),
     s.scRuns c.val = true →
     s.scRedundant c.val = true →
     s.aslSince c.val 1 = true →
     s.asl.conns = [a] →
     a.core = c.val →
     s.asl.passAt.length = 4 →
     a.tx = false →
     s.isOn 13 = true →
     s.pllA = true →
     a.isUdp = true →
     s.udpWaiting s.eth.rxr s.eth.rxq = [f] →
     a.addressed f = true →
     (a.receive s.tick f).1.fails s.tick = 0 →
     ∃ t, exec (.aslServicePass c [] sof) s = .next t ∧
       t.asl.conns = [(a.receive s.tick f).1] ∧
       t.asl.sent = s.asl.sent ∧
       (a.receive s.tick f).2 = 0 → t.badger = s.badger ∧
       t.eth = { s.eth with rxq := [], rxr := [] } ∧
       t.get ETH_APPSTAT_RXFILL = 0) ∧
  (∀ (a : AslConn) (now : Nat) (f : AslFrame),
     (f.udp = false ∧ f.fmt ≠ a.transport) ∨ f.data.length < 8 + a.len ∨ payU f.data 2 1 ≠ a.len →
     a.fmtErr ≤ 65535 →
     (a.receive now f) = ({ a with fmtErr := min 65535 (a.fmtErr + 1), errs := (if a.fmtErr < 65535 then now :: a.errs else a.errs) }, 0)) ∧
  (∀ (a : AslConn) (now : Nat) (f : AslFrame),
     f.udp = true ∨ f.fmt = a.transport →
     8 + a.len ≤ f.data.length →
     payU f.data 2 1 = a.len →
     aslCrc a.ident (f.data.take (4 + a.len)) ≠ payU f.data (4 + a.len) 4 →
     a.crcErr ≤ 65535 →
     (a.receive now f) = ({ a with crcErr := min 65535 (a.crcErr + 1), errs := (if a.crcErr < 65535 then now :: a.errs else a.errs) }, 0)) ∧
  (∀ (a : AslConn) (now : Nat) (f : AslFrame),
     f.udp = true ∨ f.fmt = a.transport →
     8 + a.len ≤ f.data.length →
     payU f.data 2 1 = a.len →
     aslCrc a.ident (f.data.take (4 + a.len)) = payU f.data (4 + a.len) 4 →
     payU f.data 3 1 / 16 ≠ 0 ∨ (bitOf 1 (payU f.data 3 1) = true ∧ bitOf 0 a.demand = false) ∨ (bitOf 2 (payU f.data 3 1) = true ∧ bitOf 1 a.demand = false) →
     a.fmtErr ≤ 65535 →
     (a.receive now f) = ({ a with fmtErr := min 65535 (a.fmtErr + 1), errs := (if a.fmtErr < 65535 then now :: a.errs else a.errs) }, 0)) ∧
  (∀ (a : AslConn) (now : Nat) (f : AslFrame),
     f.udp = true ∨ f.fmt = a.transport →
     8 + a.len ≤ f.data.length →
     payU f.data 2 1 = a.len →
     aslCrc a.ident (f.data.take (4 + a.len)) = payU f.data (4 + a.len) 4 →
     payU f.data 3 1 / 16 = 0 →
     bitOf 1 (payU f.data 3 1) = true → bitOf 0 a.demand = true →
     bitOf 2 (payU f.data 3 1) = true → bitOf 1 a.demand = true →
     a.state = 1 →
     bitOf 0 (payU f.data 3 1) = true →
     (a.receive now f) = ({ a with state := 2, lastSeq := payU f.data 0 2, timer := some now, tstamp := now * 10 % 2 ^ 32, data := (f.data.take (4 + a.len)).drop 4, dataAt := now, stop := bitOf 1 (payU f.data 3 1), sto := bitOf 2 (payU f.data 3 1) }, if bitOf 2 (payU f.data 3 1) then 0x11 else if bitOf 1 (payU f.data 3 1) then 0x10 else 0)) ∧
  (∀ (a : AslConn) (now : Nat) (f : AslFrame),
     f.udp = true ∨ f.fmt = a.transport →
     8 + a.len ≤ f.data.length →
     payU f.data 2 1 = a.len →
     aslCrc a.ident (f.data.take (4 + a.len)) = payU f.data (4 + a.len) 4 →
     payU f.data 3 1 / 16 = 0 →
     bitOf 1 (payU f.data 3 1) = true → bitOf 0 a.demand = true →
     bitOf 2 (payU f.data 3 1) = true → bitOf 1 a.demand = true →
     a.state = 1 →
     bitOf 0 (payU f.data 3 1) = false →
     a.seqErr ≤ 65535 →
     (a.receive now f) = ({ a with seqErr := min 65535 (a.seqErr + 1), errs := (if a.seqErr < 65535 then now :: a.errs else a.errs) }, 0)) ∧
  (∀ (a : AslConn) (now : Nat) (f : AslFrame),
     f.udp = true ∨ f.fmt = a.transport →
     8 + a.len ≤ f.data.length →
     payU f.data 2 1 = a.len →
     aslCrc a.ident (f.data.take (4 + a.len)) = payU f.data (4 + a.len) 4 →
     payU f.data 3 1 / 16 = 0 →
     bitOf 1 (payU f.data 3 1) = true → bitOf 0 a.demand = true →
     bitOf 2 (payU f.data 3 1) = true → bitOf 1 a.demand = true →
     a.state = 2 →
     ((payU f.data 0 2 + 65536 - a.lastSeq) % 65536) = 0 ∨ a.maxGap + 1 < ((payU f.data 0 2 + 65536 - a.lastSeq) % 65536) →
     a.seqErr ≤ 65535 →
     (a.receive now f) = ({ a with seqErr := min 65535 (a.seqErr + 1), errs := (if a.seqErr < 65535 then now :: a.errs else a.errs) }, 0)) ∧
  (∀ (a : AslConn) (now : Nat) (f : AslFrame),
     f.udp = true ∨ f.fmt = a.transport →
     8 + a.len ≤ f.data.length →
     payU f.data 2 1 = a.len →
     aslCrc a.ident (f.data.take (4 + a.len)) = payU f.data (4 + a.len) 4 →
     payU f.data 3 1 / 16 = 0 →
     bitOf 1 (payU f.data 3 1) = true → bitOf 0 a.demand = true →
     bitOf 2 (payU f.data 3 1) = true → bitOf 1 a.demand = true →
     a.state = 2 →
     ((payU f.data 0 2 + 65536 - a.lastSeq) % 65536) ≠ 0 →
     ((payU f.data 0 2 + 65536 - a.lastSeq) % 65536) ≤ a.maxGap + 1 →
     (a.receive now f) = ({ a with lost := min 65535 (a.lost + (((payU f.data 0 2 + 65536 - a.lastSeq) % 65536) - 1)), state := 2, lastSeq := payU f.data 0 2, timer := some now, tstamp := now * 10 % 2 ^ 32, data := (f.data.take (4 + a.len)).drop 4, dataAt := now, stop := bitOf 1 (payU f.data 3 1), sto := bitOf 2 (payU f.data 3 1) }, if bitOf 2 (payU f.data 3 1) then 0x11 else if bitOf 1 (payU f.data 3 1) then 0x10 else 0)) ∧
  (∀ (a : AslConn) (now : Nat) (f : AslFrame),
     f.udp = true ∨ f.fmt = a.transport →
     8 + a.len ≤ f.data.length →
     payU f.data 2 1 = a.len →
     aslCrc a.ident (f.data.take (4 + a.len)) = payU f.data (4 + a.len) 4 →
     payU f.data 3 1 / 16 = 0 →
     bitOf 1 (payU f.data 3 1) = true → bitOf 0 a.demand = true →
     bitOf 2 (payU f.data 3 1) = true → bitOf 1 a.demand = true →
     a.state ≠ 1 →
     a.state ≠ 2 →
     (a.receive now f) = (a, 0))

/-- VMAIN below its threshold, which NET and TH set (within its 3 %), or above 63 V is recorded: with the flyback READY this makes
it ACTIVE and begins the switch-over, with it ACTIVE the device stays on it, otherwise the collapse is declared and recorded
and Badger signalled; the switch-over's end sets SRC, counts and is recorded; VMAIN back above its return threshold for the
return time puts the device on VMAIN with the flyback READY; the flyback starts at 200 V to 1,050 V where enabled, becomes
READY, and a drop, a fault, a cleared BKEN or an overvoltage turns it OFF, from ACTIVE with an immediate return or a collapse;
a collapse switches D13 to D1 off once Badger forces off or after 3 µs; the lock write sets LOCK. Where its condition does not
hold an event changes nothing (R439 to R444, R446). -/
def Obligations.SupplySwitchesOverReturnsAndCollapses : Prop :=
  (∀ (s : State),
     (s.vmainTh = (if s.is SUP_CFG_NET then (24000 + 500 * min 24 (s.get SUP_CFG_TH), 28000 + 500 * min 24 (s.get SUP_CFG_TH)) else (6000 + 250 * min 12 (s.get SUP_CFG_TH), 7000 + 250 * min 12 (s.get SUP_CFG_TH))))) ∧
  (∀ (s : State) (o : Bool) (v : Nat),
     s.isOn 1 = true →
     s.sup.collapse = false →
     (o = true ∧ 63000 < v) ∨ (o = false ∧ s.vmainLow v = true) →
     s.get SUP_STAT_BKST = 2 →
     ∃ t, exec (.vmainLoss o v) s = .next t ∧
       t.is SUP_STAT_VMOK = false ∧
       t.is SUP_FLT_OVLO = (s.is SUP_FLT_OVLO || o) ∧
       t.on = s.on ∧
       s.ticking = true → s.evl.queue.length < 60 → t.evl.queue.any (fun y => y.level == 2 && y.index == 0 && y.typ == (if o then 2 else 1) && y.stamp == s.timebase) = true ∧
       t.get SUP_STAT_BKST = 3 ∧
       t.sup = { s.sup with swo := true, swoAt := s.now }) ∧
  (∀ (s : State) (o : Bool) (v : Nat),
     s.isOn 1 = true →
     s.sup.collapse = false →
     (o = true ∧ 63000 < v) ∨ (o = false ∧ s.vmainLow v = true) →
     s.get SUP_STAT_BKST = 3 →
     o = true ∨ s.get SUP_STAT_BKST ≠ 3 ∨ s.is SUP_STAT_VMOK = true →
     ∃ t, exec (.vmainLoss o v) s = .next t ∧
       t.is SUP_STAT_VMOK = false ∧
       t.is SUP_FLT_OVLO = (s.is SUP_FLT_OVLO || o) ∧
       t.on = s.on ∧
       s.ticking = true → s.evl.queue.length < 60 → t.evl.queue.any (fun y => y.level == 2 && y.index == 0 && y.typ == (if o then 2 else 1) && y.stamp == s.timebase) = true ∧
       t.get SUP_STAT_BKST = 3 ∧
       t.sup = s.sup) ∧
  (∀ (s : State) (o : Bool) (v : Nat),
     s.isOn 1 = true →
     s.sup.collapse = false →
     (o = true ∧ 63000 < v) ∨ (o = false ∧ s.vmainLow v = true) →
     s.get SUP_STAT_BKST ≠ 2 →
     s.get SUP_STAT_BKST ≠ 3 →
     s.isOn 2 = false →
     ∃ t, exec (.vmainLoss o v) s = .next t ∧
       t.is SUP_STAT_VMOK = false ∧
       t.is SUP_FLT_OVLO = (s.is SUP_FLT_OVLO || o) ∧
       t.on = s.on ∧
       s.ticking = true → s.evl.queue.length < 60 → t.evl.queue.any (fun y => y.level == 2 && y.index == 0 && y.typ == (if o then 2 else 1) && y.stamp == s.timebase) = true ∧
       t.sup.collapse = true ∧
       t.sup.collAt = s.now ∧
       t.get AON_CAUSE_LAST = 2 ∧
       t.get SUP_STAT_BKST = 0 ∧
       s.ticking = true → s.evl.queue.length < 60 → t.evl.queue.any (fun y => y.level == 2 && y.index == 2 && y.typ == 6 && y.stamp == s.timebase) = true) ∧
  (∀ (s : State) (o : Bool) (v : Nat),
     s.isOn 1 = true →
     s.sup.collapse = false →
     (o = true ∧ 63000 < v) ∨ (o = false ∧ s.vmainLow v = true) →
     s.get SUP_STAT_BKST ≠ 2 →
     s.get SUP_STAT_BKST ≠ 3 →
     s.isOn 2 = true →
     s.sup.latch = false →
     ∃ t, exec (.vmainLoss o v) s = .next t ∧
       t.sup.collapse = true ∧
       t.sup.collAt = s.now ∧
       t.get AON_CAUSE_LAST = 2 ∧
       t.get SUP_STAT_BKST = 0 ∧
       t.is SUP_STAT_VMOK = false ∧
       t.get HSM_STATUS_STATE = 6) ∧
  (∀ (s : State) (o : Bool) (v : Nat),
     s.isOn 1 = false ∨ s.sup.collapse = true ∨ (o = true ∧ v ≤ 63000) ∨ (o = false ∧ (s.vmainLow v = false ∨ (s.get SUP_STAT_BKST = 3 ∧ s.is SUP_STAT_VMOK = false))) →
     ∃ t, exec (.vmainLoss o v) s = .next t ∧
       t = s) ∧
  (∀ (s : State) (v : Nat),
     (s.vmainLow v = true ↔ 100 * v < 103 * s.vmainTh.1) ∧ (s.vmainBack v = true ↔ 97 * s.vmainTh.2 < 100 * v ∧ v < 61000)) ∧
  (∀ (s : State),
     s.sup.swo = true →
     s.isOn 6 = false →
     ∃ t, exec (.switchOverComplete) s = .next t ∧
       t.is SUP_STAT_SRC = true ∧
       t.get SWO_CNT_SWO = min (s.get SWO_CNT_SWO + 1) (SWO_CNT_SWO.size - 1) ∧
       t.sup = { s.sup with swo := false }) ∧
  (∀ (s : State),
     s.sup.swo = true →
     s.isOn 6 = true →
     ∃ t, exec (.switchOverComplete) s = .next t ∧
       t.is SUP_STAT_SRC = true ∧
       t.get SWO_CNT_SWO = min (s.get SWO_CNT_SWO + 1) (SWO_CNT_SWO.size - 1) ∧
       t.is GDG_AGG_BACKUP = true ∧
       t.get GDG_AGG_AGGLIM ≤ 48 ∧
       t.sup = { s.sup with swo := false } ∧
       t.on = s.on ∧
       s.ticking = true → s.evl.queue.length < 60 → t.evl.queue.any (fun y => y.level == 2 && y.index == 1 && y.typ == 3 && y.stamp == s.timebase) = true) ∧
  (∀ (s : State),
     s.sup.swo = false →
     ∃ t, exec (.switchOverComplete) s = .next t ∧
       t = s) ∧
  (∀ (s : State) (v : Nat),
     s.isOn 1 = true →
     s.sup.collapse = false →
     s.vmainBack v = true →
     ∃ t, exec (.vmainUsable v) s = .next t ∧
       t.is SUP_STAT_VMOK = true ∧
       t.sup = { s.sup with retAt := s.now } ∧
       s.OnlyRegs { t with sup := s.sup } [SUP_STAT.addr]) ∧
  (∀ (s : State) (v : Nat),
     s.isOn 1 = false ∨ s.sup.collapse = true ∨ s.vmainBack v = false →
     ∃ t, exec (.vmainUsable v) s = .next t ∧
       t = s) ∧
  (∀ (s : State) (lo hi : Nat),
     s.is SUP_STAT_SRC = true →
     s.is SUP_STAT_VMOK = true →
     s.vmainBack lo = true →
     hi < 61000 →
     s.sup.retAt + 400000 * max 1 (s.get SUP_CFG_RET) ≤ s.now →
     ∃ t, exec (.vmainReturn lo hi) s = .next t ∧
       t.is SUP_STAT_SRC = false ∧
       t.get SWO_CNT_RET_CNT = min (s.get SWO_CNT_RET_CNT + 1) (SWO_CNT_RET_CNT.size - 1) ∧
       t.sup = { s.sup with swo := false } ∧
       s.isOn 6 = true → t.is GDG_AGG_BACKUP = false ∧
       t.on = s.on ∧
       s.ticking = true → s.evl.queue.length < 60 → t.evl.queue.any (fun y => y.level == 2 && y.index == 1 && y.typ == 4 && y.stamp == s.timebase) = true ∧
       t.get SUP_STAT_BKST = 2) ∧
  (∀ (s : State) (lo hi : Nat),
     s.is SUP_STAT_SRC = false ∨ s.is SUP_STAT_VMOK = false ∨ s.vmainBack lo = false ∨ 61000 ≤ hi ∨ s.now < s.sup.retAt + 400000 * max 1 (s.get SUP_CFG_RET) →
     ∃ t, exec (.vmainReturn lo hi) s = .next t ∧
       t = s) ∧
  (∀ (s : State) (v : Nat),
     s.isOn 1 = true →
     200 ≤ v →
     v ≤ 1050 →
     s.is SUP_CFG_BKEN = true →
     s.get SUP_STAT_BKST = 0 →
     s.sup.collapse = false →
     ∃ t, exec (.flybackStart v) s = .next t ∧
       t.get SUP_STAT_BKST = 1 ∧
       t.is SUP_STAT_VHVOK = true ∧
       t.sup = { s.sup with bkAt := s.now } ∧
       s.OnlyRegs { t with sup := s.sup } [SUP_STAT.addr]) ∧
  (∀ (s : State) (v : Nat),
     s.isOn 1 = true →
     200 ≤ v →
     s.is SUP_CFG_BKEN = false ∨ s.get SUP_STAT_BKST ≠ 0 ∨ s.sup.collapse = true ∨ 1050 < v →
     ∃ t, exec (.flybackStart v) s = .next t ∧
       t.is SUP_STAT_VHVOK = true ∧
       t.get SUP_STAT_BKST = s.get SUP_STAT_BKST ∧
       s.OnlyRegs t [SUP_STAT.addr]) ∧
  (∀ (s : State) (v : Nat),
     s.isOn 1 = false ∨ v < 200 →
     ∃ t, exec (.flybackStart v) s = .next t ∧
       t = s) ∧
  (∀ (s : State),
     s.get SUP_STAT_BKST = 1 →
     s.isOn 1 = true →
     ∃ t, exec (.flybackReady) s = .next t ∧
       t.get SUP_STAT_BKST = 2 ∧
       s.OnlyRegs t [SUP_STAT.addr]) ∧
  (∀ (s : State),
     s.get SUP_STAT_BKST ≠ 1 ∨ s.isOn 1 = false →
     ∃ t, exec (.flybackReady) s = .next t ∧
       t = s) ∧
  (∀ (s : State) (o : Fin 3) (v : Nat),
     s.isOn 1 = true →
     s.get SUP_STAT_BKST ≠ 3 →
     o = 0 → v < 190 →
     o = 1 → s.is SUP_CFG_BKEN = false →
     ∃ t, exec (.flybackDrop o v) s = .next t ∧
       t.get SUP_STAT_BKST = 0 ∧
       t.is SUP_STAT_VHVOK = (s.is SUP_STAT_VHVOK && !(o == 0)) ∧
       t.is SUP_FLT_BKFLT = (s.is SUP_FLT_BKFLT || o == 2) ∧
       t.sup = s.sup ∧
       s.get SUP_STAT_BKST = 2 → s.ticking = true → s.evl.queue.length < 60 → t.evl.queue.any (fun y => y.level == 2 && y.index == 2 && y.typ == 5 && y.stamp == s.timebase) = true) ∧
  (∀ (s : State) (o : Fin 3) (v : Nat),
     s.isOn 1 = true →
     s.get SUP_STAT_BKST = 3 →
     s.is SUP_STAT_VMOK = true →
     o = 0 → v < 190 →
     o = 1 → s.is SUP_CFG_BKEN = false →
     ∃ t, exec (.flybackDrop o v) s = .next t ∧
       t.is SUP_STAT_SRC = false ∧
       t.get SWO_CNT_RET_CNT = min (s.get SWO_CNT_RET_CNT + 1) (SWO_CNT_RET_CNT.size - 1) ∧
       t.sup = { s.sup with swo := false } ∧
       s.isOn 6 = true → t.is GDG_AGG_BACKUP = false ∧
       t.on = s.on ∧
       s.ticking = true → s.evl.queue.length < 60 → t.evl.queue.any (fun y => y.level == 2 && y.index == 1 && y.typ == 4 && y.stamp == s.timebase) = true ∧
       t.get SUP_STAT_BKST = 0 ∧
       s.ticking = true → s.evl.queue.length < 60 → t.evl.queue.any (fun y => y.level == 2 && y.index == 2 && y.typ == 5 && y.stamp == s.timebase) = true) ∧
  (∀ (s : State) (o : Fin 3) (v : Nat),
     s.isOn 1 = true →
     s.sup.collapse = false →
     s.get SUP_STAT_BKST = 3 →
     s.is SUP_STAT_VMOK = false →
     o = 0 → v < 190 →
     o = 1 → s.is SUP_CFG_BKEN = false →
     ∃ t, exec (.flybackDrop o v) s = .next t ∧
       t.sup.collapse = true ∧
       t.sup.collAt = s.now ∧
       t.get AON_CAUSE_LAST = 2 ∧
       t.get SUP_STAT_BKST = 0 ∧
       s.ticking = true → s.evl.queue.length < 60 → t.evl.queue.any (fun y => y.level == 2 && y.index == 2 && y.typ == 6 && y.stamp == s.timebase) = true) ∧
  (∀ (s : State) (o : Fin 3) (v : Nat),
     s.isOn 1 = false ∨ (o = 0 ∧ 190 ≤ v) ∨ (o = 1 ∧ s.is SUP_CFG_BKEN = true) →
     ∃ t, exec (.flybackDrop o v) s = .next t ∧
       t = s) ∧
  (∀ (s : State) (v : Nat),
     s.isOn 1 = true →
     1050 < v →
     s.get SUP_STAT_BKST = 3 →
     s.is SUP_STAT_VMOK = true →
     ∃ t, exec (.vhvOvervoltage v) s = .next t ∧
       t.is SUP_STAT_SRC = false ∧
       t.get SWO_CNT_RET_CNT = min (s.get SWO_CNT_RET_CNT + 1) (SWO_CNT_RET_CNT.size - 1) ∧
       t.sup = { s.sup with swo := false } ∧
       s.isOn 6 = true → t.is GDG_AGG_BACKUP = false ∧
       t.on = s.on ∧
       s.ticking = true → s.evl.queue.length < 60 → t.evl.queue.any (fun y => y.level == 2 && y.index == 1 && y.typ == 4 && y.stamp == s.timebase) = true ∧
       t.get SUP_STAT_BKST = 0 ∧
       s.ticking = true → s.evl.queue.length < 60 → t.evl.queue.any (fun y => y.level == 2 && y.index == 2 && y.typ == 5 && y.stamp == s.timebase) = true) ∧
  (∀ (s : State) (v : Nat),
     s.isOn 1 = true →
     1050 < v →
     s.get SUP_STAT_BKST ≠ 3 →
     ∃ t, exec (.vhvOvervoltage v) s = .next t ∧
       t.get SUP_STAT_BKST = 0 ∧
       t.sup = s.sup ∧
       s.get SUP_STAT_BKST = 2 → s.ticking = true → s.evl.queue.length < 60 → t.evl.queue.any (fun y => y.level == 2 && y.index == 2 && y.typ == 5 && y.stamp == s.timebase) = true) ∧
  (∀ (s : State) (v : Nat),
     s.isOn 1 = true →
     s.sup.collapse = false →
     1050 < v →
     s.get SUP_STAT_BKST = 3 →
     s.is SUP_STAT_VMOK = false →
     ∃ t, exec (.vhvOvervoltage v) s = .next t ∧
       t.sup.collapse = true ∧
       t.sup.collAt = s.now ∧
       t.get AON_CAUSE_LAST = 2 ∧
       t.get SUP_STAT_BKST = 0) ∧
  (∀ (s : State) (v : Nat),
     s.isOn 1 = false ∨ v ≤ 1050 →
     ∃ t, exec (.vhvOvervoltage v) s = .next t ∧
       t = s) ∧
  (∀ (s : State),
     s.sup.collapse = true →
     (s.isOn 2 = true ∧ s.get HSM_STATUS_FOFF = 15) ∨ s.sup.collAt + 1200 ≤ s.now →
     ∃ t, exec (.collapseSwitchOff) s = .next t ∧
       ∀ d : Fin 14, d.val ≠ 0 → t.isOn d.val = false ∧
       t.isOn 0 = s.isOn 0) ∧
  (∀ (s : State),
     s.sup.collapse = false ∨ ((s.isOn 2 = false ∨ s.get HSM_STATUS_FOFF ≠ 15) ∧ s.now < s.sup.collAt + 1200) →
     ∃ t, exec (.collapseSwitchOff) s = .next t ∧
       t = s) ∧
  (∀ (s : State) (ini : Initiator) (val : Word),
     s.Reaches ini SUP_CFG.addr →
     s.is SUP_CFG_LOCK = false →
     val.getLsbD SUP_CFG_BKEN.lo = true →
     ∃ t, exec (.supLock ini val) s = .next t ∧
       t.is SUP_CFG_LOCK = true ∧
       t.is SUP_CFG_BKEN = true ∧
       t.get SUP_CFG_RET = bitsOf 23 16 val.toNat ∧
       s.OnlyRegs t [SUP_CFG.addr]) ∧
  (∀ (s : State) (ini : Initiator) (val : Word),
     s.Reaches ini SUP_CFG.addr →
     s.is SUP_CFG_LOCK = false →
     val.getLsbD SUP_CFG_BKEN.lo = false →
     s.get SUP_STAT_BKST ≠ 3 →
     s.isOn 1 = true →
     ∃ t, exec (.supLock ini val) s = .next t ∧
       t.is SUP_CFG_LOCK = true ∧
       t.is SUP_CFG_BKEN = false ∧
       t.get SUP_STAT_BKST = 0) ∧
  (∀ (s : State) (ini : Initiator) (val : Word),
     s.Reaches ini SUP_CFG.addr →
     s.is SUP_CFG_LOCK = true →
     s.is SUP_CFG_BKEN = true →
     ∃ t, exec (.supLock ini val) s = .next t ∧
       s.OnlyRegs t [SUP_CFG.addr] ∧
       ∀ f : Fin 3, t.get (nth [SUP_CFG_RET, SUP_CFG_TH, SUP_CFG_NET] f.val SUP_CFG_NET) = s.get (nth [SUP_CFG_RET, SUP_CFG_TH, SUP_CFG_NET] f.val SUP_CFG_NET))

/-- A write of PDC_REQ by HK, or of bits 7 to 13 by another initiator, switches a requested domain on, refuses it with the first
reason that applies and the domain, or switches a cleared one off with its dependants; a write that changes no bit its writer
may change does nothing. SUP_STBY with its key enters standby or, on the backup or with an instance active, sets STBYREF;
without the key it does nothing. An enabled wake source whose condition holds ends standby, records itself and makes a cold
start due; any other does nothing. A power cycle clears everything but MRAM and what OTP and the pads hold; a lock loss of a
PLL sets its flag and stops its clock (R448, R450 to R453, R63). -/
def Obligations.DomainsStandbyAndWake : Prop :=
  (∀ (s : State) (ini : Initiator) (d : Fin 14) (val : Word),
     s.Reaches ini PDC_REQ.addr →
     ∀ j : Fin 14, j ≠ d → val.getLsbD j.val = bitOf j.val (s.get PDC_REQ_REQ) →
     1 ≤ d.val →
     ini = .hk ∨ 7 ≤ d.val →
     bitOf d.val (s.get PDC_REQ_REQ) = false →
     val.getLsbD d.val = true →
     s.pdcReason d.val = 0 →
     s.isOn d.val = false →
     ∃ t, exec (.pdcReqWrite ini val) s = .next t ∧
       t.isOn d.val = true ∧
       bitOf d.val (t.get PDC_REQ_REQ) = true ∧
       ∀ e : Fin 14, e ≠ d → t.isOn e.val = s.isOn e.val) ∧
  (∀ (s : State) (ini : Initiator) (d : Fin 14) (val : Word),
     s.Reaches ini PDC_REQ.addr →
     ∀ j : Fin 14, j ≠ d → val.getLsbD j.val = bitOf j.val (s.get PDC_REQ_REQ) →
     1 ≤ d.val →
     ini = .hk ∨ 7 ≤ d.val →
     bitOf d.val (s.get PDC_REQ_REQ) = false →
     val.getLsbD d.val = true →
     s.pdcReason d.val ≠ 0 →
     ∃ t, exec (.pdcReqWrite ini val) s = .next t ∧
       t.on = s.on ∧
       t.get PDC_REFUSE_REASON = s.pdcReason d.val ∧
       t.get PDC_REFUSE_DOM = d.val ∧
       t.get PDC_REFUSE_REF_CNT = min (s.get PDC_REFUSE_REF_CNT + 1) (PDC_REFUSE_REF_CNT.size - 1) ∧
       s.OnlyRegs t [PDC_REFUSE.addr]) ∧
  (∀ (s : State) (ini : Initiator) (d : Fin 14) (val : Word),
     s.Reaches ini PDC_REQ.addr →
     ∀ j : Fin 14, j ≠ d → val.getLsbD j.val = bitOf j.val (s.get PDC_REQ_REQ) →
     1 ≤ d.val →
     ini = .hk ∨ 7 ≤ d.val →
     bitOf d.val (s.get PDC_REQ_REQ) = true →
     val.getLsbD d.val = false →
     ∃ t, exec (.pdcReqWrite ini val) s = .next t ∧
       t.isOn d.val = false ∧
       bitOf d.val (t.get PDC_REQ_REQ) = false ∧
       ∀ e : Fin 14, t.isOn e.val = (s.isOn e.val && !(domCone d.val).contains e.val)) ∧
  (∀ (s : State) (ini : Initiator) (val : Word),
     s.Reaches ini PDC_REQ.addr →
     ∀ d : Fin 14, 1 ≤ d.val → (ini = .hk ∨ 7 ≤ d.val) → val.getLsbD d.val = bitOf d.val (s.get PDC_REQ_REQ) →
     ∃ t, exec (.pdcReqWrite ini val) s = .next t ∧
       t = s) ∧
  (∀ (s : State) (d : Fin 14),
     s.pdcReason d.val = (if (d.val = 10 ∧ s.order = .sa) then 4 else if s.sup.latch = true ∧ 2 ≤ d.val then 3 else if 9 ≤ d.val ∧ d.val ≤ 12 ∧ s.bit HSM_STATUS_EN (d.val - 9) = false then 2 else if (nth [[], [0], [1], [4], [1, 2], [4], [4], [4], [2], [6, 8], [6, 8], [6, 8], [6, 8], [4]] d.val []).all (fun o => s.isOn o) = true then 0 else 1)) ∧
  ((domCone 6 = [12, 11, 10, 9, 6] ∧ domCone 8 = [12, 11, 10, 9, 8] ∧ domCone 4 = [12, 11, 10, 9, 13, 7, 6, 5, 3, 4] ∧ domCone 7 = [7] ∧ domCone 13 = [13])) ∧
  (∀ (s : State) (c : Fin 4) (th : Fin 3) (val : Word),
     s.Reaches (.sc c th) SUP_STBY.addr →
     val.toNat % 65536 = 0x5354 →
     s.is SUP_STAT_SRC = false →
     s.get MDM_ACTIVE_ACTIVE &&& 0x5FF = 0 →
     ∃ t, exec (.supStby (.sc c th) val) s = .next t ∧
       t.sup.standby = true ∧
       t.sup.sbAt = s.marten ∧
       t.sup.sbPlug = s.sup.plug ∧
       t.get AON_CAUSE_LAST = 1 ∧
       t.start.running = false ∧
       t.start.kp = false ∧
       ∀ d : Fin 14, d.val ≠ 0 → t.isOn d.val = false) ∧
  (∀ (s : State) (c : Fin 4) (th : Fin 3) (val : Word),
     s.Reaches (.sc c th) SUP_STBY.addr →
     val.toNat % 65536 = 0x5354 →
     s.is SUP_STAT_SRC = true ∨ s.get MDM_ACTIVE_ACTIVE &&& 0x5FF ≠ 0 →
     ∃ t, exec (.supStby (.sc c th) val) s = .next t ∧
       t.is SUP_STAT_STBYREF = true ∧
       s.OnlyRegs t [SUP_STAT.addr]) ∧
  (∀ (s : State) (ini : Initiator) (val : Word),
     s.Reaches ini SUP_STBY.addr →
     isSc ini = false ∨ val.toNat % 65536 ≠ 0x5354 →
     ∃ t, exec (.supStby ini val) s = .next t ∧
       t = s) ∧
  (∀ (s : State) (l : Bool),
     s.sup.standby = true →
     s.bit AON_WAKE_EN 0 = true →
     l ≠ s.is AON_WAKE_WPOL →
     ∃ t, exec (.wakePad l) s = .next t ∧
       t.sup = { s.sup with standby := false } ∧
       t.get AON_CAUSE_WAKE = 1 ∧
       t.start = { s.start with trig := some 0 } ∧
       s.OnlyRegs { t with sup := s.sup, start := s.start } [AON_CAUSE.addr]) ∧
  (∀ (s : State) (l : Bool),
     s.sup.standby = false ∨ s.bit AON_WAKE_EN 0 = false ∨ l = s.is AON_WAKE_WPOL →
     ∃ t, exec (.wakePad l) s = .next t ∧
       t = s) ∧
  (∀ (s : State),
     s.sup.standby = true →
     s.bit AON_WAKE_EN 1 = true →
     s.get AON_TIMER_SEC ≠ 0 →
     s.sup.sbAt + s.get AON_TIMER_SEC * 32768 ≤ s.marten →
     ∃ t, exec (.wakeTimer) s = .next t ∧
       t.sup = { s.sup with standby := false } ∧
       t.get AON_CAUSE_WAKE = 2 ∧
       t.start = { s.start with trig := some 0 } ∧
       s.OnlyRegs { t with sup := s.sup, start := s.start } [AON_CAUSE.addr]) ∧
  (∀ (s : State),
     s.sup.standby = false ∨ s.bit AON_WAKE_EN 1 = false ∨ s.get AON_TIMER_SEC = 0 ∨ s.marten < s.sup.sbAt + s.get AON_TIMER_SEC * 32768 →
     ∃ t, exec (.wakeTimer) s = .next t ∧
       t = s) ∧
  (∀ (s : State),
     s.sup.standby = true →
     s.bit AON_WAKE_EN 2 = true →
     s.sup.plug ≠ s.sup.sbPlug →
     s.sup.plugAt + 32 ≤ s.marten →
     ∃ t, exec (.wakePlug) s = .next t ∧
       t.sup = { s.sup with standby := false } ∧
       t.get AON_CAUSE_WAKE = 4 ∧
       t.start = { s.start with trig := some 0 } ∧
       s.OnlyRegs { t with sup := s.sup, start := s.start } [AON_CAUSE.addr]) ∧
  (∀ (s : State),
     s.sup.standby = false ∨ s.bit AON_WAKE_EN 2 = false ∨ s.sup.plug = s.sup.sbPlug ∨ s.marten < s.sup.plugAt + 32 →
     ∃ t, exec (.wakePlug) s = .next t ∧
       t = s) ∧
  (∀ (s : State) (b : Fin 2),
     s.sup.standby = true →
     s.bit AON_WAKE_EN (3 + b.val) = true →
     ∃ t, exec (.wakeCan b) s = .next t ∧
       t.sup = { s.sup with standby := false } ∧
       t.get AON_CAUSE_WAKE = 2 ^ (3 + b.val) ∧
       t.start = { s.start with trig := some 0 } ∧
       s.OnlyRegs { t with sup := s.sup, start := s.start } [AON_CAUSE.addr]) ∧
  (∀ (s : State) (b : Fin 2),
     s.sup.standby = false ∨ s.bit AON_WAKE_EN (3 + b.val) = false →
     ∃ t, exec (.wakeCan b) s = .next t ∧
       t = s) ∧
  (∀ (s : State),
     ∃ t, exec (.powerCycle) s = .next t ∧
       t.regs = [] ∧
       t.on = 1 ∧
       t.cyc = 0 ∧
       t.sup = { State.reset.sup with plug := s.sup.plug } ∧
       t.start.trig = some 0 ∧
       t.start.running = false ∧
       t.kcp.keys = s.kcp.keys ∧
       t.start.banks = s.start.banks ∧
       ∀ a, 0x04000000 ≤ a → t.rdByte a = 0 ∧
       ∀ a, a < 0x04000000 → t.rdByte a = s.mramDrain.rdByte a) ∧
  (∀ (s : State),
     s.pllB = true →
     s.isOn 1 = true →
     ∃ t, exec (.pllbLockLoss) s = .next t ∧
       t.pllB = false ∧
       t.is SUP_FLT_PLLB_UL = true ∧
       t.clk = { s.clk with pllbAt := s.now } ∧
       s.OnlyRegs { t with pllB := s.pllB, clk := s.clk } [SUP_FLT.addr]) ∧
  (∀ (s : State),
     s.pllB = false ∨ s.isOn 1 = false →
     ∃ t, exec (.pllbLockLoss) s = .next t ∧
       t = s) ∧
  (∀ (s : State),
     s.pllA = true →
     s.isOn 1 = true →
     ∃ t, exec (.pllaLockLoss) s = .next t ∧
       t.pllA = false ∧
       t.is SUP_FLT_PLLA_UL = true ∧
       s.OnlyRegs { t with pllA := s.pllA } [SUP_FLT.addr]) ∧
  (∀ (s : State),
     s.pllA = false ∨ s.isOn 1 = false →
     ∃ t, exec (.pllaLockLoss) s = .next t ∧
       t = s)

/-- The end of a housekeeping channel, once its 16 µs have passed, stores the means of both paths, flags an over-range word, flags
and records a mismatch and moves on; a sensor's channel writes its temperature, or 0x8000 where disabled, and at TSHUT
declares the shutdown with its latch; a threshold DAC read outside its tolerance sets its fault bit. A round's end sets
TEMP_MAX from the hottest sensor, raises the step at once or lowers it by one after its rounds, and sets AGGLIM for step and
supply. A declared shutdown switches D13 to D2 off after 1.9 ms. Before its time each of these changes nothing (R123, R175,
R176, R192, R478 to R480, R483 to R485). -/
def Obligations.HousekeepingRoundsAndShutdown : Prop :=
  (∀ (s : State),
     s.isOn 7 = true →
     s.ticking = true →
     s.conv.onAt + 6400 * (s.hk.chan + 1) + 68 ≤ s.now →
     ∃ t, exec (.hkChannelEnd) s = .next t ∧
       t.get (HKR_VAL_MEANA (s.hk.chan % 64)) = ((if s.conv.hkA.chan = s.hk.chan then s.conv.hkA else ⟨s.hk.chan, 0, 0, false⟩).sum / 32) % 65536 ∧
       t.get (HKR_VAL_MEANB (s.hk.chan % 64)) = ((if s.conv.hkB.chan = s.hk.chan then s.conv.hkB else ⟨s.hk.chan, 0, 0, false⟩).sum / 32) % 65536 ∧
       ((if s.conv.hkA.chan = s.hk.chan then s.conv.hkA else ⟨s.hk.chan, 0, 0, false⟩).ovr || (if s.conv.hkB.chan = s.hk.chan then s.conv.hkB else ⟨s.hk.chan, 0, 0, false⟩).ovr) = true → bitOf ((s.hk.chan % 64) % 32) (t.get (HKR_OVR_OVR ((s.hk.chan % 64) / 32))) = true ∧
       s.hkMismatch (s.hk.chan % 64) ((if s.conv.hkA.chan = s.hk.chan then s.conv.hkA else ⟨s.hk.chan, 0, 0, false⟩).sum / 32) ((if s.conv.hkB.chan = s.hk.chan then s.conv.hkB else ⟨s.hk.chan, 0, 0, false⟩).sum / 32) = true → bitOf ((s.hk.chan % 64) % 32) (t.get (HKR_MISM_MISM ((s.hk.chan % 64) / 32))) = true ∧
       t.hk.chan = s.hk.chan + 1 ∧
       t.get HKR_STATUS_CHAN = (s.hk.chan + 1) % 64 ∧
       t.get HKR_STATUS_ROUND = (s.hk.chan + 1) / 64 % 65536 ∧
       t.hk.ended = (s.hk.ended || (s.hk.chan % 64) == 63) ∧
       t.hk.thw = 0) ∧
  (∀ (s : State),
     s.isOn 7 = true →
     s.ticking = true →
     s.conv.onAt + 6400 * (s.hk.chan + 1) + 68 ≤ s.now →
     30 ≤ (s.hk.chan % 64) →
     (s.hk.chan % 64) < 44 ∨ 48 ≤ (s.hk.chan % 64) →
     ∃ t, exec (.hkChannelEnd) s = .next t ∧
       t.sup = s.sup ∧
       t.fox = s.fox ∧
       ∀ e : Fin 30, t.get (THM_T_TEMP e.val) = s.get (THM_T_TEMP e.val) ∧
       s.hkMismatch (s.hk.chan % 64) ((if s.conv.hkA.chan = s.hk.chan then s.conv.hkA else ⟨s.hk.chan, 0, 0, false⟩).sum / 32) ((if s.conv.hkB.chan = s.hk.chan then s.conv.hkB else ⟨s.hk.chan, 0, 0, false⟩).sum / 32) = true → s.logged 9 = true → s.evl.queue.length < 64 → t.evl.queue.any (fun o => o.level == 9 && o.index == 86 && o.typ == 0x20 && o.data == [BitVec.ofNat 8 (s.hk.chan % 64)]) = true) ∧
  (∀ (s : State),
     s.isOn 7 = false ∨ s.ticking = false ∨ s.now < s.conv.onAt + 6400 * (s.hk.chan + 1) + 68 →
     ∃ t, exec (.hkChannelEnd) s = .next t ∧
       t = s) ∧
  (∀ (s : State),
     s.isOn 7 = true →
     s.ticking = true →
     s.conv.onAt + 6400 * (s.hk.chan + 1) + 68 ≤ s.now →
     (s.hk.chan % 64) < 30 →
     bitOf (s.hk.chan % 64) s.thmEn = true →
     bitOf (s.hk.chan % 64) s.hk.mism = false →
     bitOf (s.hk.chan % 64) s.hk.ovr = false →
     s.hk.stopped = false →
     s.hkMismatch (s.hk.chan % 64) ((if s.conv.hkA.chan = s.hk.chan then s.conv.hkA else ⟨s.hk.chan, 0, 0, false⟩).sum / 32) ((if s.conv.hkB.chan = s.hk.chan then s.conv.hkB else ⟨s.hk.chan, 0, 0, false⟩).sum / 32) = false →
     ((if s.conv.hkA.chan = s.hk.chan then s.conv.hkA else ⟨s.hk.chan, 0, 0, false⟩).ovr || (if s.conv.hkB.chan = s.hk.chan then s.conv.hkB else ⟨s.hk.chan, 0, 0, false⟩).ovr) = false →
     s.temperature (s.hk.chan % 64) ((if s.conv.hkA.chan = s.hk.chan then s.conv.hkA else ⟨s.hk.chan, 0, 0, false⟩).sum / 32) ((if s.conv.hkB.chan = s.hk.chan then s.conv.hkB else ⟨s.hk.chan, 0, 0, false⟩).sum / 32) < (s.tshut : Int) * 10 →
     -32768 ≤ s.temperature (s.hk.chan % 64) ((if s.conv.hkA.chan = s.hk.chan then s.conv.hkA else ⟨s.hk.chan, 0, 0, false⟩).sum / 32) ((if s.conv.hkB.chan = s.hk.chan then s.conv.hkB else ⟨s.hk.chan, 0, 0, false⟩).sum / 32) →
     ∃ t, exec (.hkChannelEnd) s = .next t ∧
       t.get (THM_T_TEMP (s.hk.chan % 64)) = unsigned 16 (s.temperature (s.hk.chan % 64) ((if s.conv.hkA.chan = s.hk.chan then s.conv.hkA else ⟨s.hk.chan, 0, 0, false⟩).sum / 32) ((if s.conv.hkB.chan = s.hk.chan then s.conv.hkB else ⟨s.hk.chan, 0, 0, false⟩).sum / 32)) ∧
       t.sup = s.sup) ∧
  (∀ (s : State),
     s.isOn 7 = true →
     s.ticking = true →
     s.conv.onAt + 6400 * (s.hk.chan + 1) + 68 ≤ s.now →
     (s.hk.chan % 64) < 30 →
     bitOf (s.hk.chan % 64) s.thmEn = true →
     bitOf (s.hk.chan % 64) s.hk.mism = false →
     bitOf (s.hk.chan % 64) s.hk.ovr = false →
     s.hk.stopped = false →
     s.hkMismatch (s.hk.chan % 64) ((if s.conv.hkA.chan = s.hk.chan then s.conv.hkA else ⟨s.hk.chan, 0, 0, false⟩).sum / 32) ((if s.conv.hkB.chan = s.hk.chan then s.conv.hkB else ⟨s.hk.chan, 0, 0, false⟩).sum / 32) = false →
     ((if s.conv.hkA.chan = s.hk.chan then s.conv.hkA else ⟨s.hk.chan, 0, 0, false⟩).ovr || (if s.conv.hkB.chan = s.hk.chan then s.conv.hkB else ⟨s.hk.chan, 0, 0, false⟩).ovr) = false →
     (s.tshut : Int) * 10 ≤ s.temperature (s.hk.chan % 64) ((if s.conv.hkA.chan = s.hk.chan then s.conv.hkA else ⟨s.hk.chan, 0, 0, false⟩).sum / 32) ((if s.conv.hkB.chan = s.hk.chan then s.conv.hkB else ⟨s.hk.chan, 0, 0, false⟩).sum / 32) →
     s.temperature (s.hk.chan % 64) ((if s.conv.hkA.chan = s.hk.chan then s.conv.hkA else ⟨s.hk.chan, 0, 0, false⟩).sum / 32) ((if s.conv.hkB.chan = s.hk.chan then s.conv.hkB else ⟨s.hk.chan, 0, 0, false⟩).sum / 32) ≤ 32767 →
     s.sup.latch = false →
     ∃ t, exec (.hkChannelEnd) s = .next t ∧
       t.get (THM_T_TEMP (s.hk.chan % 64)) = unsigned 16 (s.temperature (s.hk.chan % 64) ((if s.conv.hkA.chan = s.hk.chan then s.conv.hkA else ⟨s.hk.chan, 0, 0, false⟩).sum / 32) ((if s.conv.hkB.chan = s.hk.chan then s.conv.hkB else ⟨s.hk.chan, 0, 0, false⟩).sum / 32)) ∧
       t.sup = { s.sup with latch := true, shutAt := some s.now } ∧
       t.get AON_CAUSE_LAST = 3 ∧
       s.isOn 2 = true → t.get HSM_STATUS_STATE = 6) ∧
  (∀ (s : State),
     s.isOn 7 = true →
     s.ticking = true →
     s.conv.onAt + 6400 * (s.hk.chan + 1) + 68 ≤ s.now →
     (s.hk.chan % 64) < 30 →
     bitOf (s.hk.chan % 64) s.thmEn = false →
     ∃ t, exec (.hkChannelEnd) s = .next t ∧
       t.get (THM_T_TEMP (s.hk.chan % 64)) = 0x8000 ∧
       t.sup = s.sup) ∧
  (∀ (s : State),
     s.isOn 7 = true →
     s.ticking = true →
     s.conv.onAt + 6400 * (s.hk.chan + 1) + 68 ≤ s.now →
     44 ≤ (s.hk.chan % 64) →
     (s.hk.chan % 64) < 48 →
     bitOf (24 * ((s.hk.chan % 64) - 44) + s.hk.chan / 64 % 24) s.hk.thw = false →
     s.isOn 8 = true →
     128 * s.get WMG_RBTOL_RBTOL < distance (((if s.conv.hkA.chan = s.hk.chan then s.conv.hkA else ⟨s.hk.chan, 0, 0, false⟩).sum / 32) + ((if s.conv.hkB.chan = s.hk.chan then s.conv.hkB else ⟨s.hk.chan, 0, 0, false⟩).sum / 32)) (128 * s.get (wmTh ((24 * ((s.hk.chan % 64) - 44) + s.hk.chan / 64 % 24) / 2) ((24 * ((s.hk.chan % 64) - 44) + s.hk.chan / 64 % 24) % 2 == 1))) →
     ∃ t, exec (.hkChannelEnd) s = .next t ∧
       bitOf ((24 * ((s.hk.chan % 64) - 44) + s.hk.chan / 64 % 24) % 32) (t.get (WMG_DACFLT_DACFLT ((24 * ((s.hk.chan % 64) - 44) + s.hk.chan / 64 % 24) / 32))) = true ∧
       s.is (WM_CFG_DACFT ((24 * ((s.hk.chan % 64) - 44) + s.hk.chan / 64 % 24) / 2)) = true → bitOf (24 * ((s.hk.chan % 64) - 44) + s.hk.chan / 64 % 24) t.fox.hk = true) ∧
  (∀ (s : State),
     s.isOn 7 = true →
     s.ticking = true →
     s.conv.onAt + 6400 * (s.hk.chan + 1) + 68 ≤ s.now →
     44 ≤ (s.hk.chan % 64) →
     (s.hk.chan % 64) < 48 →
     bitOf (24 * ((s.hk.chan % 64) - 44) + s.hk.chan / 64 % 24) s.hk.thw = false →
     s.isOn 8 = true →
     ¬ 128 * s.get WMG_RBTOL_RBTOL < distance (((if s.conv.hkA.chan = s.hk.chan then s.conv.hkA else ⟨s.hk.chan, 0, 0, false⟩).sum / 32) + ((if s.conv.hkB.chan = s.hk.chan then s.conv.hkB else ⟨s.hk.chan, 0, 0, false⟩).sum / 32)) (128 * s.get (wmTh ((24 * ((s.hk.chan % 64) - 44) + s.hk.chan / 64 % 24) / 2) ((24 * ((s.hk.chan % 64) - 44) + s.hk.chan / 64 % 24) % 2 == 1))) →
     ∃ t, exec (.hkChannelEnd) s = .next t ∧
       t.fox = s.fox ∧
       bitOf ((24 * ((s.hk.chan % 64) - 44) + s.hk.chan / 64 % 24) % 32) (t.get (WMG_DACFLT_DACFLT ((24 * ((s.hk.chan % 64) - 44) + s.hk.chan / 64 % 24) / 32))) = bitOf ((24 * ((s.hk.chan % 64) - 44) + s.hk.chan / 64 % 24) % 32) (s.get (WMG_DACFLT_DACFLT ((24 * ((s.hk.chan % 64) - 44) + s.hk.chan / 64 % 24) / 32)))) ∧
  (∀ (s : State),
     s.start.kp = true →
     s.ticking = true →
     s.hk.ended = true ∨ (s.isOn 7 = false ∧ s.hk.roundAt + 409600 ≤ s.cyc) →
     s.osdLinkHigh = false →
     ∃ t, exec (.hkRoundEnd) s = .next t ∧
       t.hk.ended = false ∧
       t.hk.mism = 0 ∧
       t.hk.roundAt = s.cyc ∧
       t.get THM_STAT_TEMP_MAX = (match s.hottest with
    | some e => unsigned 16 e.1
    | none => 0x8000) ∧
       t.get THM_STAT_STEP = (if s.get THM_STAT_STEP < stepUp ((s.hottest.map (fun e => e.1)).getD (-400)) ((s.tstart : Int) * 10) then stepUp ((s.hottest.map (fun e => e.1)).getD (-400)) ((s.tstart : Int) * 10) else if stepDown ((s.hottest.map (fun e => e.1)).getD (-400)) ((s.tstart : Int) * 10) < s.get THM_STAT_STEP ∧ 97 ≤ s.hk.since then s.get THM_STAT_STEP - 1 else s.get THM_STAT_STEP) ∧
       t.get GDG_AGG_STEP = t.get THM_STAT_STEP % 16 ∧
       t.get GDG_AGG_AGGLIM = (if s.is GDG_AGG_BACKUP then min (192 - 20 * t.get THM_STAT_STEP) 48 else 192 - 20 * t.get THM_STAT_STEP)) ∧
  (∀ (s : State),
     s.start.kp = false ∨ s.ticking = false ∨ (s.hk.ended = false ∧ (s.isOn 7 = true ∨ s.cyc < s.hk.roundAt + 409600)) →
     ∃ t, exec (.hkRoundEnd) s = .next t ∧
       t = s) ∧
  (∀ (s : State) (u : Nat),
     s.sup.shutAt = some u →
     u + 760000 ≤ s.now →
     ∃ t, exec (.thermalShutdownSwitchoff) s = .next t ∧
       t.sup.shutAt = none ∧
       ∀ d : Fin 14, 2 ≤ d.val → t.isOn d.val = false ∧
       t.isOn 1 = s.isOn 1 ∧
       t.sup.latch = s.sup.latch) ∧
  (∀ (s : State),
     s.sup.shutAt.all (fun o => decide (s.now < o + 760000)) = true →
     ∃ t, exec (.thermalShutdownSwitchoff) s = .next t ∧
       t = s)

/-- A key in SYSC_RST from an SC thread with D9 to D12 off makes a cold or warm start due, with one of them on it sets RSTREF
alone; a lost heartbeat makes a warm start due. A due start, or one after a collapse with VMAIN above 9 V, begins with step 1
and its kind: hold while HOLD is set, warm only where D1, D2 and the retention section are powered. A step that completes is
recorded and has its action; one that fails ends the start with its code in FSTEP and its count, as the timeout does with 15,
but in the hold configuration is only marked in FMASK; the retry begins a cold start. A valid unlock in PRODUCTION erases
keys, banks and data first, and a debugger in an open lifecycle halts a Split core's thread or every copy. Elsewhere nothing
changes (R457, R459, R461 to R465, R468, R473, R474). -/
def Obligations.StartsBeginStepFailAndRetry : Prop :=
  (∀ (s : State) (c : Fin 4) (th : Fin 3) (val : Word),
     s.Reaches (.sc c th) SYSC_RST.addr →
     s.isOn 9 = false ∧ s.isOn 10 = false ∧ s.isOn 11 = false ∧ s.isOn 12 = false →
     s.sup.latch = false →
     ∃ t, exec (.syscRstCold (.sc c th) val) s = .next t ∧
       t.start = { s.start with trig := some 0 } ∧
       s.OnlyRegs { t with start := s.start } [SYSC_RST.addr]) ∧
  (∀ (s : State) (c : Fin 4) (th : Fin 3) (val : Word),
     s.Reaches (.sc c th) SYSC_RST.addr →
     s.isOn 9 = false ∧ s.isOn 10 = false ∧ s.isOn 11 = false ∧ s.isOn 12 = false →
     s.sup.latch = true →
     ∃ t, exec (.syscRstCold (.sc c th) val) s = .next t ∧
       s.OnlyRegs t [SYSC_RST.addr]) ∧
  (∀ (s : State) (c : Fin 4) (th : Fin 3) (val : Word),
     s.Reaches (.sc c th) SYSC_RST.addr →
     s.isOn 9 = true ∨ s.isOn 10 = true ∨ s.isOn 11 = true ∨ s.isOn 12 = true →
     ∃ t, exec (.syscRstCold (.sc c th) val) s = .next t ∧
       t.is SYSC_RST_RSTREF = true ∧
       s.OnlyRegs t [SYSC_RST.addr]) ∧
  (∀ (s : State) (ini : Initiator) (val : Word),
     s.Reaches ini SYSC_RST.addr →
     isSc ini = false →
     ∃ t, exec (.syscRstCold ini val) s = .next t ∧
       s.OnlyRegs t [SYSC_RST.addr]) ∧
  (∀ (s : State) (c : Fin 4) (th : Fin 3) (val : Word),
     s.Reaches (.sc c th) SYSC_RST.addr →
     s.isOn 9 = false ∧ s.isOn 10 = false ∧ s.isOn 11 = false ∧ s.isOn 12 = false →
     s.sup.latch = false →
     ∃ t, exec (.syscRstWarm (.sc c th) val) s = .next t ∧
       t.start = { s.start with trig := some 1 } ∧
       s.OnlyRegs { t with start := s.start } [SYSC_RST.addr]) ∧
  (∀ (s : State) (c : Fin 4) (th : Fin 3) (val : Word),
     s.Reaches (.sc c th) SYSC_RST.addr →
     s.isOn 9 = false ∧ s.isOn 10 = false ∧ s.isOn 11 = false ∧ s.isOn 12 = false →
     s.sup.latch = true →
     ∃ t, exec (.syscRstWarm (.sc c th) val) s = .next t ∧
       s.OnlyRegs t [SYSC_RST.addr]) ∧
  (∀ (s : State) (c : Fin 4) (th : Fin 3) (val : Word),
     s.Reaches (.sc c th) SYSC_RST.addr →
     s.isOn 9 = true ∨ s.isOn 10 = true ∨ s.isOn 11 = true ∨ s.isOn 12 = true →
     ∃ t, exec (.syscRstWarm (.sc c th) val) s = .next t ∧
       t.is SYSC_RST_RSTREF = true ∧
       s.OnlyRegs t [SYSC_RST.addr]) ∧
  (∀ (s : State) (ini : Initiator) (val : Word),
     s.Reaches ini SYSC_RST.addr →
     isSc ini = false →
     ∃ t, exec (.syscRstWarm ini val) s = .next t ∧
       s.OnlyRegs t [SYSC_RST.addr]) ∧
  (∀ (s : State),
     s.start.kp = true →
     s.pllA = true →
     s.sup.latch = false →
     ∃ t, exec (.hkHeartbeatLoss) s = .next t ∧
       t = s.setStart { s.start with trig := some 1 }) ∧
  (∀ (s : State),
     s.start.kp = false ∨ s.pllA = false ∨ s.sup.latch = true →
     ∃ t, exec (.hkHeartbeatLoss) s = .next t ∧
       t = s) ∧
  (∀ (s : State) (k v : Nat),
     s.sup.latch = false →
     s.start.running = false →
     s.start.trig = some k →
     ∃ t, exec (.startBegin v) s = .next t ∧
       t.start.running = true ∧
       t.start.step = 1 ∧
       t.start.trig = none ∧
       t.start.retryAt = none ∧
       t.start.begun = s.marten ∧
       t.start.kind = (if s.is AON_START_HOLD = true then 2 else if k = 1 ∧ s.isOn 1 = true ∧ s.isOn 2 = true ∧ s.start.retained = true then 1 else 0) ∧
       t.start.kp = false ∧
       t.isOn 3 = false ∧
       t.isOn 4 = false ∧
       t.isOn 12 = false ∧
       t.get AON_START_ATTEMPTS = min (s.get AON_START_ATTEMPTS + 1) (AON_START_ATTEMPTS.size - 1) ∧
       (if s.is AON_START_HOLD = true then 2 else if k = 1 ∧ s.isOn 1 = true ∧ s.isOn 2 = true ∧ s.start.retained = true then 1 else 0) ≠ 1 → t.isOn 1 = false) ∧
  (∀ (s : State) (v : Nat),
     s.sup.latch = false →
     s.start.running = false →
     s.start.trig = none →
     s.get AON_CAUSE_LAST = 2 →
     s.isOn 1 = false →
     s.sup.standby = false →
     s.start.retryAt = none →
     9000 < v →
     ∃ t, exec (.startBegin v) s = .next t ∧
       t.start.running = true ∧
       t.start.step = 1 ∧
       t.start.trig = none ∧
       t.start.retryAt = none ∧
       t.start.begun = s.marten ∧
       t.start.kind = (if s.is AON_START_HOLD = true then 2 else 0) ∧
       t.start.kp = false ∧
       t.isOn 3 = false ∧
       t.isOn 4 = false ∧
       t.isOn 12 = false ∧
       t.get AON_START_ATTEMPTS = min (s.get AON_START_ATTEMPTS + 1) (AON_START_ATTEMPTS.size - 1) ∧
       (if s.is AON_START_HOLD = true then 2 else 0) ≠ 1 → t.isOn 1 = false) ∧
  (∀ (s : State) (v : Nat),
     s.start.running = true ∨ s.sup.latch = true ∨ (s.start.trig = none ∧ (s.get AON_CAUSE_LAST ≠ 2 ∨ s.isOn 1 = true ∨ s.sup.standby = true ∨ s.start.retryAt ≠ none ∨ v ≤ 9000)) →
     ∃ t, exec (.startBegin v) s = .next t ∧
       t = s) ∧
  (∀ (s : State) (ok alt : Bool),
     s.start.running = true →
     s.sup.latch = false →
     nextStep s.start.kind s.start.step = 2 →
     ok = true ∨ s.start.kind = 2 →
     ∃ t, exec (.startStep ok alt) s = .next t ∧
       t.start.step = 2 ∧
       t.isOn 1 = s.domReady 1 ∨ t.isOn 1 = true ∧
       s.isOn 0 = true → t.isOn 1 = true ∧
       s.start.kind = 2 → ok = false → bitOf 1 (t.get SYSC_BOOT_FMASK) = true) ∧
  (∀ (s : State) (ok alt : Bool),
     s.start.running = true →
     s.sup.latch = false →
     nextStep s.start.kind s.start.step = 3 →
     ∃ t, exec (.startStep ok alt) s = .next t ∧
       t.start.step = 3 ∧
       s.isOn 1 = true → t.isOn 2 = true ∧
       t.start.running = true) ∧
  (∀ (s : State) (ok alt : Bool),
     s.start.running = true →
     s.sup.latch = false →
     nextStep s.start.kind s.start.step = 4 →
     ok = true ∨ s.start.kind = 2 →
     s.start.kind = 1 ∨ (s.bState ≠ 0 ∧ s.bState ≠ 1) →
     ∃ t, exec (.startStep ok alt) s = .next t ∧
       t.start.step = 4 ∧
       s.isOn 1 = true → s.isOn 2 = true → t.isOn 4 = true ∧ t.isOn 5 = true ∧
       t.pllA = true ∧
       t.get SYSC_BOOT_LCS = s.start.lcs % 8 ∧
       s.start.kind = 1 → t.is HSM_CFG_CFGACK = false ∧
       s.start.kind = 2 → ok = false → bitOf 3 (t.get SYSC_BOOT_FMASK) = true) ∧
  (∀ (s : State) (ok alt : Bool),
     s.start.running = true →
     s.sup.latch = false →
     nextStep s.start.kind s.start.step = 4 →
     s.start.kind ≠ 1 →
     s.bState = 1 →
     ∃ t, exec (.startStep ok alt) s = .next t ∧
       t.start.step = 4 ∧
       t.start.kind = 2 ∧
       t.start.sealed = !(s.is AON_START_HOLD) ∧
       t.start.running = true) ∧
  (∀ (s : State) (ok alt : Bool),
     nextStep s.start.kind s.start.step = 4 →
     s.start.kind ≠ 1 →
     s.bState = 0 →
     ∃ t, exec (.startStep ok alt) s = .next t ∧
       t = s) ∧
  (∀ (s : State) (ok alt : Bool),
     s.start.running = true →
     s.sup.latch = false →
     nextStep s.start.kind s.start.step = 6 →
     ok = true ∨ s.start.kind = 2 →
     ∃ t, exec (.startStep ok alt) s = .next t ∧
       t.start.step = 6 ∧
       ∀ a, 0x20000000 ≤ a → a < 0x22000000 → t.rdByte a = 0) ∧
  (∀ (s : State) (ok alt : Bool),
     s.start.running = true →
     s.sup.latch = false →
     nextStep s.start.kind s.start.step = 7 →
     ok = true ∨ s.start.kind = 2 →
     ∃ t, exec (.startStep ok alt) s = .next t ∧
       t.start.step = 7 ∧
       s.isOn 4 = true → t.isOn 6 = true ∧
       s.isOn 2 = true → t.isOn 8 = true) ∧
  (∀ (s : State) (ok alt : Bool),
     s.start.running = true →
     s.sup.latch = false →
     nextStep s.start.kind s.start.step = 8 →
     ok = true →
     s.start.kind ≠ 1 →
     ∃ t, exec (.startStep ok alt) s = .next t ∧
       t.start.step = 8 ∧
       t.start.bank = s.start.selected ∧
       t.get SYSC_BOOT_BANK = s.start.selected % 2 ∧
       t.start.running = true) ∧
  (∀ (s : State) (ok alt : Bool),
     s.start.running = true →
     s.sup.latch = false →
     nextStep s.start.kind s.start.step = 8 →
     ok = false →
     alt = true →
     s.start.kind ≠ 1 →
     s.start.selected < 2 →
     s.start.banks.length = 2 →
     ∃ t, exec (.startStep ok alt) s = .next t ∧
       t.start.step = 8 ∧
       t.start.selected = 1 - s.start.selected ∧
       t.start.bank = 1 - s.start.selected ∧
       t.is SYSC_BOOT_FALLBACK = true ∧
       (nth t.start.banks s.start.selected ⟨true, 0, 0, false⟩).verified = false) ∧
  (∀ (s : State) (ok alt : Bool),
     s.start.running = true →
     s.sup.latch = false →
     nextStep s.start.kind s.start.step = 8 →
     ok = true →
     s.start.kind = 1 →
     ∃ t, exec (.startStep ok alt) s = .next t ∧
       t.start.step = 8 ∧
       t.get SYSC_BOOT_BANK = s.start.bank % 2 ∧
       t.start.running = true) ∧
  (∀ (s : State) (ok alt : Bool),
     s.start.running = true →
     s.sup.latch = false →
     nextStep s.start.kind s.start.step = 8 →
     ok = false →
     alt = false →
     s.start.kind = 2 →
     ∃ t, exec (.startStep ok alt) s = .next t ∧
       t.start.step = 8 ∧
       t.is SYSC_BOOT_RECOV = true ∧
       bitOf 7 (t.get SYSC_BOOT_FMASK) = true) ∧
  (∀ (s : State) (ok alt : Bool),
     s.start.running = true →
     s.sup.latch = false →
     nextStep s.start.kind s.start.step = 9 →
     ok = true ∨ s.start.kind ≠ 1 →
     s.start.entries = [] →
     ∃ t, exec (.startStep ok alt) s = .next t ∧
       t.start.step = 9 ∧
       t.regs = s.regs ∨ s.start.kind = 2) ∧
  (∀ (s : State) (ok alt : Bool),
     s.start.running = true →
     s.sup.latch = false →
     nextStep s.start.kind s.start.step = 11 →
     ok = true ∨ s.start.kind = 2 →
     s.isOn 4 = true →
     ∃ t, exec (.startStep ok alt) s = .next t ∧
       t.start.step = 11 ∧
       t.start.kp = true) ∧
  (∀ (s : State) (ok alt : Bool),
     s.start.running = true →
     s.sup.latch = false →
     nextStep s.start.kind s.start.step = 12 →
     s.start.kind ≠ 2 →
     ∃ t, exec (.startStep ok alt) s = .next t ∧
       t.start.step = 12 ∧
       t.start.sc = true ∧
       t.start.running = false ∧
       t.start.retained = true ∧
       t.get SYSC_BOOT_KIND = s.start.kind % 4 ∧
       t.get AON_START_FSTEP = 0 ∧
       t.get AON_START_FAILS = 0 ∧
       t.is AON_START_WARMFAIL = false ∧
       s.isOn 4 = true → t.isOn 3 = true ∧
       ∀ a, 0x20000000 ≤ a → a < 0x21F80000 → t.rdByte a = 0) ∧
  (∀ (s : State) (ok alt : Bool) (n : Nat),
     s.start.running = true →
     s.sup.latch = false →
     nextStep s.start.kind s.start.step = n →
     stepFails s.start.kind n ok alt = true →
     s.start.kind ≠ 2 →
     n ≠ 4 ∨ s.start.kind = 1 ∨ (s.bState ≠ 0 ∧ s.bState ≠ 1) →
     n < 16 →
     ∃ t, exec (.startStep ok alt) s = .next t ∧
       t.get AON_START_FSTEP = n ∧
       t.start.running = false ∧
       t.start.retryAt = some s.now ∧
       ∀ d : Fin 14, d.val ≠ 0 → t.isOn d.val = false ∧
       s.start.kind = 1 → t.is AON_START_WARMFAIL = true ∧ t.get AON_START_FAILS = s.get AON_START_FAILS ∧
       s.start.kind ≠ 1 → t.get AON_START_FAILS = (if s.get AON_START_FAILS = 0 ∨ 10240 ≤ s.startWindow then 1 else min (s.get AON_START_FAILS + 1) (AON_START_FAILS.size - 1)) ∧
       s.start.kind ≠ 1 → ¬ (s.get AON_START_FAILS = 0 ∨ 10240 ≤ s.startWindow) → s.get AON_START_FAILS = 2 → t.is AON_START_HOLD = true) ∧
  (∀ (ok alt : Bool) (k n : Nat),
     (stepFails k n ok alt = true ↔ ok = false ∧ n ≠ 3 ∧ n ≠ 12 ∧ (n = 8 → k = 1 ∨ alt = false) ∧ (n = 9 → k = 1))) ∧
  (((List.range 13).map (fun n => nextStep 0 n) = [1, 2, 3, 4, 5, 6, 7, 8, 9, 11, 11, 12, 13] ∧ (List.range 13).map (fun n => nextStep 1 n) = [1, 4, 3, 4, 8, 6, 7, 8, 9, 10, 11, 12, 13])) ∧
  (∀ (s : State) (ok alt : Bool),
     s.start.running = false ∨ s.sup.latch = true →
     ∃ t, exec (.startStep ok alt) s = .next t ∧
       t = s) ∧
  (∀ (s : State),
     s.start.running = true →
     s.start.begun + 16384 ≤ s.marten →
     ∃ t, exec (.startTimeout) s = .next t ∧
       t.get AON_START_FSTEP = 15 ∧
       t.start.running = false ∧
       t.start.retryAt = some s.now ∧
       ∀ d : Fin 14, d.val ≠ 0 → t.isOn d.val = false ∧
       s.start.kind = 1 → t.is AON_START_WARMFAIL = true ∧ t.get AON_START_FAILS = s.get AON_START_FAILS ∧
       s.start.kind ≠ 1 → t.get AON_START_FAILS = (if s.get AON_START_FAILS = 0 ∨ 10240 ≤ s.startWindow then 1 else min (s.get AON_START_FAILS + 1) (AON_START_FAILS.size - 1)) ∧
       s.start.kind ≠ 1 → ¬ (s.get AON_START_FAILS = 0 ∨ 10240 ≤ s.startWindow) → s.get AON_START_FAILS = 2 → t.is AON_START_HOLD = true) ∧
  (∀ (s : State),
     s.start.running = false ∨ s.marten < s.start.begun + 16384 →
     ∃ t, exec (.startTimeout) s = .next t ∧
       t = s) ∧
  (∀ (s : State) (u : Nat),
     s.sup.latch = false →
     s.start.retryAt = some u →
     u + 400000 ≤ s.now →
     s.start.running = false →
     ∃ t, exec (.startRetry) s = .next t ∧
       t.start.running = true ∧
       t.start.step = 1 ∧
       t.start.trig = none ∧
       t.start.retryAt = none ∧
       t.start.begun = s.marten ∧
       t.start.kind = (if s.is AON_START_HOLD = true then 2 else 0) ∧
       t.start.kp = false ∧
       t.isOn 3 = false ∧
       t.isOn 4 = false ∧
       t.isOn 12 = false ∧
       t.get AON_START_ATTEMPTS = min (s.get AON_START_ATTEMPTS + 1) (AON_START_ATTEMPTS.size - 1) ∧
       (if s.is AON_START_HOLD = true then 2 else 0) ≠ 1 → t.isOn 1 = false) ∧
  (∀ (s : State),
     s.sup.latch = true ∨ s.start.running = true ∨ s.start.retryAt.all (fun o => decide (s.now < o + 400000)) = true →
     ∃ t, exec (.startRetry) s = .next t ∧
       t = s) ∧
  (∀ (s : State),
     s.isOn 4 = true →
     s.start.lcs = 3 →
     ∃ t, exec (.lifecycleUnlock true) s = .next t ∧
       t.start.lcs = 4 ∧
       t.kcp.keys = [] ∧
       t.get SYSC_BOOT_LCS = 4 ∧
       t.start.banks = List.replicate 2 ⟨false, 0, 0, false⟩ ∧
       ∀ a, 0x00010000 ≤ a → a < 0x00020000 → t.rdByte a = 0 ∧
       ∀ a, 0x00200000 ≤ a → a < 0x04000000 → t.rdByte a = 0) ∧
  (∀ (s : State) (o : Bool),
     o = false ∨ s.isOn 4 = false ∨ s.start.lcs ≠ 3 →
     ∃ t, exec (.lifecycleUnlock o) s = .next t ∧
       t = s) ∧
  (∀ (s : State) (c : Fin 4) (th : Fin 3),
     s.sc.length = 12 →
     s.isOn 3 = true →
     s.start.lcs = 2 ∨ s.start.lcs = 4 →
     s.scRedundant c.val = false →
     ∃ t, exec (.debugHalt c th) s = .next t ∧
       (t.thr (c.val * 3 + th.val)).halted = true ∧
       t.regs = s.regs ∧
       ∀ i : Fin 12, i.val ≠ c.val * 3 + th.val → t.thr i.val = s.thr i.val) ∧
  (∀ (s : State) (c : Fin 4) (th : Fin 3),
     s.scc.length = 4 →
     s.isOn 3 = true →
     s.start.lcs = 2 ∨ s.start.lcs = 4 →
     s.scRedundant c.val = true →
     ∃ t, exec (.debugHalt c th) s = .next t ∧
       t.get (SCC_STAT_STATE c.val) = 0 ∧
       (t.scOf c.val).halted = true ∧
       s.OnlyRegs { t with scc := s.scc } [(SCC_STAT c.val).addr]) ∧
  (∀ (s : State) (c : Fin 4) (th : Fin 3),
     s.isOn 3 = false ∨ (s.start.lcs ≠ 2 ∧ s.start.lcs ≠ 4) →
     ∃ t, exec (.debugHalt c th) s = .next t ∧
       t = s)

/-- In every state with the thermal shutdown latch set, a step that is not a power cycle leaves the latch set, and no start runs
after it that did not run before it; a power cycle clears the latch. -/
def Obligations.NoStartBeginsWhileTheShutdownLatchIsSet : Prop :=
  (∀ (s : State) (t : State),
     s.sup.latch = true →
     s.pending.head? ≠ some .powerCycle →
     step s = .next t →
     t.sup.latch = true ∧ (t.start.running = true → s.start.running = true)) ∧
  (∀ (s : State),
     ∃ t, exec (.powerCycle) s = .next t ∧
       t.sup.latch = false)

end
end

