-- ==== Sys2Proof/Laws/State.lean ====
section
/-! SUPPORT. One lemma per field per update of State: an update gives its field the new value and leaves every other field, and
every register, as it was. Then reading a register after a write. -/

namespace Sys2Proof.Machine

section
variable (s : State) (r : Reg) (f : Fld) (i : Nat) (v : Word) (b : Byte)

@[simp] theorem State.setClk_pending (x : Clocks) : (s.setClk x).pending = s.pending := rfl
@[simp] theorem State.setClk_order (x : Clocks) : (s.setClk x).order = s.order := rfl
@[simp] theorem State.setClk_regs (x : Clocks) : (s.setClk x).regs = s.regs := rfl
@[simp] theorem State.setClk_mem (x : Clocks) : (s.setClk x).mem = s.mem := rfl
@[simp] theorem State.setClk_fresh (x : Clocks) : (s.setClk x).fresh = s.fresh := rfl
@[simp] theorem State.setClk_clk (x : Clocks) : (s.setClk x).clk = x := rfl
@[simp] theorem State.setClk_cyc (x : Clocks) : (s.setClk x).cyc = s.cyc := rfl
@[simp] theorem State.setClk_evl (x : Clocks) : (s.setClk x).evl = s.evl := rfl
@[simp] theorem State.setClk_irqs (x : Clocks) : (s.setClk x).irqs = s.irqs := rfl
@[simp] theorem State.setClk_pwm (x : Clocks) : (s.setClk x).pwm = s.pwm := rfl
@[simp] theorem State.setClk_on (x : Clocks) : (s.setClk x).on = s.on := rfl
@[simp] theorem State.setClk_pllA (x : Clocks) : (s.setClk x).pllA = s.pllA := rfl
@[simp] theorem State.setClk_pllB (x : Clocks) : (s.setClk x).pllB = s.pllB := rfl
@[simp] theorem State.setClk_busErr (x : Clocks) : (s.setClk x).busErr = s.busErr := rfl
@[simp] theorem State.setClk_mramW (x : Clocks) : (s.setClk x).mramW = s.mramW := rfl
@[simp] theorem State.setClk_tbLatch (x : Clocks) : (s.setClk x).tbLatch = s.tbLatch := rfl
@[simp] theorem State.setClk_ce (x : Clocks) : (s.setClk x).ce = s.ce := rfl
@[simp] theorem State.setClk_fox (x : Clocks) : (s.setClk x).fox = s.fox := rfl
@[simp] theorem State.setClk_conv (x : Clocks) : (s.setClk x).conv = s.conv := rfl
@[simp] theorem State.setClk_badger (x : Clocks) : (s.setClk x).badger = s.badger := rfl
@[simp] theorem State.setClk_marten (x : Clocks) : (s.setClk x).marten = s.marten := rfl
@[simp] theorem State.setClk_gates (x : Clocks) : (s.setClk x).gates = s.gates := rfl
@[simp] theorem State.setClk_scg (x : Clocks) : (s.setClk x).scg = s.scg := rfl
@[simp] theorem State.setClk_osd (x : Clocks) : (s.setClk x).osd = s.osd := rfl
@[simp] theorem State.setClk_kcp (x : Clocks) : (s.setClk x).kcp = s.kcp := rfl
@[simp] theorem State.setClk_modes (x : Clocks) : (s.setClk x).modes = s.modes := rfl
@[simp] theorem State.setClk_act (x : Clocks) : (s.setClk x).act = s.act := rfl
@[simp] theorem State.setClk_pos (x : Clocks) : (s.setClk x).pos = s.pos := rfl
@[simp] theorem State.setClk_ledger (x : Clocks) : (s.setClk x).ledger = s.ledger := rfl
@[simp] theorem State.setClk_hk (x : Clocks) : (s.setClk x).hk = s.hk := rfl
@[simp] theorem State.setClk_sc (x : Clocks) : (s.setClk x).sc = s.sc := rfl
@[simp] theorem State.setClk_scc (x : Clocks) : (s.setClk x).scc = s.scc := rfl
@[simp] theorem State.setClk_dma (x : Clocks) : (s.setClk x).dma = s.dma := rfl
@[simp] theorem State.setClk_can (x : Clocks) : (s.setClk x).can = s.can := rfl
@[simp] theorem State.setClk_canTm (x : Clocks) : (s.setClk x).canTm = s.canTm := rfl
@[simp] theorem State.setClk_eth (x : Clocks) : (s.setClk x).eth = s.eth := rfl
@[simp] theorem State.setClk_asl (x : Clocks) : (s.setClk x).asl = s.asl := rfl
@[simp] theorem State.setClk_sup (x : Clocks) : (s.setClk x).sup = s.sup := rfl
@[simp] theorem State.setClk_start (x : Clocks) : (s.setClk x).start = s.start := rfl
@[simp] theorem State.setClk_rd (x : Clocks) : (s.setClk x).rd r = s.rd r := rfl
@[simp] theorem State.setClk_get (x : Clocks) : (s.setClk x).get f = s.get f := rfl
@[simp] theorem State.setClk_is (x : Clocks) : (s.setClk x).is f = s.is f := rfl
@[simp] theorem State.setClk_bit (x : Clocks) : (s.setClk x).bit f i = s.bit f i := rfl

@[simp] theorem State.setFresh_pending (x : Nat) : (s.setFresh x).pending = s.pending := rfl
@[simp] theorem State.setFresh_order (x : Nat) : (s.setFresh x).order = s.order := rfl
@[simp] theorem State.setFresh_regs (x : Nat) : (s.setFresh x).regs = s.regs := rfl
@[simp] theorem State.setFresh_mem (x : Nat) : (s.setFresh x).mem = s.mem := rfl
@[simp] theorem State.setFresh_fresh (x : Nat) : (s.setFresh x).fresh = x := rfl
@[simp] theorem State.setFresh_clk (x : Nat) : (s.setFresh x).clk = s.clk := rfl
@[simp] theorem State.setFresh_cyc (x : Nat) : (s.setFresh x).cyc = s.cyc := rfl
@[simp] theorem State.setFresh_evl (x : Nat) : (s.setFresh x).evl = s.evl := rfl
@[simp] theorem State.setFresh_irqs (x : Nat) : (s.setFresh x).irqs = s.irqs := rfl
@[simp] theorem State.setFresh_pwm (x : Nat) : (s.setFresh x).pwm = s.pwm := rfl
@[simp] theorem State.setFresh_on (x : Nat) : (s.setFresh x).on = s.on := rfl
@[simp] theorem State.setFresh_pllA (x : Nat) : (s.setFresh x).pllA = s.pllA := rfl
@[simp] theorem State.setFresh_pllB (x : Nat) : (s.setFresh x).pllB = s.pllB := rfl
@[simp] theorem State.setFresh_busErr (x : Nat) : (s.setFresh x).busErr = s.busErr := rfl
@[simp] theorem State.setFresh_mramW (x : Nat) : (s.setFresh x).mramW = s.mramW := rfl
@[simp] theorem State.setFresh_tbLatch (x : Nat) : (s.setFresh x).tbLatch = s.tbLatch := rfl
@[simp] theorem State.setFresh_ce (x : Nat) : (s.setFresh x).ce = s.ce := rfl
@[simp] theorem State.setFresh_fox (x : Nat) : (s.setFresh x).fox = s.fox := rfl
@[simp] theorem State.setFresh_conv (x : Nat) : (s.setFresh x).conv = s.conv := rfl
@[simp] theorem State.setFresh_badger (x : Nat) : (s.setFresh x).badger = s.badger := rfl
@[simp] theorem State.setFresh_marten (x : Nat) : (s.setFresh x).marten = s.marten := rfl
@[simp] theorem State.setFresh_gates (x : Nat) : (s.setFresh x).gates = s.gates := rfl
@[simp] theorem State.setFresh_scg (x : Nat) : (s.setFresh x).scg = s.scg := rfl
@[simp] theorem State.setFresh_osd (x : Nat) : (s.setFresh x).osd = s.osd := rfl
@[simp] theorem State.setFresh_kcp (x : Nat) : (s.setFresh x).kcp = s.kcp := rfl
@[simp] theorem State.setFresh_modes (x : Nat) : (s.setFresh x).modes = s.modes := rfl
@[simp] theorem State.setFresh_act (x : Nat) : (s.setFresh x).act = s.act := rfl
@[simp] theorem State.setFresh_pos (x : Nat) : (s.setFresh x).pos = s.pos := rfl
@[simp] theorem State.setFresh_ledger (x : Nat) : (s.setFresh x).ledger = s.ledger := rfl
@[simp] theorem State.setFresh_hk (x : Nat) : (s.setFresh x).hk = s.hk := rfl
@[simp] theorem State.setFresh_sc (x : Nat) : (s.setFresh x).sc = s.sc := rfl
@[simp] theorem State.setFresh_scc (x : Nat) : (s.setFresh x).scc = s.scc := rfl
@[simp] theorem State.setFresh_dma (x : Nat) : (s.setFresh x).dma = s.dma := rfl
@[simp] theorem State.setFresh_can (x : Nat) : (s.setFresh x).can = s.can := rfl
@[simp] theorem State.setFresh_canTm (x : Nat) : (s.setFresh x).canTm = s.canTm := rfl
@[simp] theorem State.setFresh_eth (x : Nat) : (s.setFresh x).eth = s.eth := rfl
@[simp] theorem State.setFresh_asl (x : Nat) : (s.setFresh x).asl = s.asl := rfl
@[simp] theorem State.setFresh_sup (x : Nat) : (s.setFresh x).sup = s.sup := rfl
@[simp] theorem State.setFresh_start (x : Nat) : (s.setFresh x).start = s.start := rfl
@[simp] theorem State.setFresh_rd (x : Nat) : (s.setFresh x).rd r = s.rd r := rfl
@[simp] theorem State.setFresh_get (x : Nat) : (s.setFresh x).get f = s.get f := rfl
@[simp] theorem State.setFresh_is (x : Nat) : (s.setFresh x).is f = s.is f := rfl
@[simp] theorem State.setFresh_bit (x : Nat) : (s.setFresh x).bit f i = s.bit f i := rfl

@[simp] theorem State.setCyc_pending (x : Nat) : (s.setCyc x).pending = s.pending := rfl
@[simp] theorem State.setCyc_order (x : Nat) : (s.setCyc x).order = s.order := rfl
@[simp] theorem State.setCyc_regs (x : Nat) : (s.setCyc x).regs = s.regs := rfl
@[simp] theorem State.setCyc_mem (x : Nat) : (s.setCyc x).mem = s.mem := rfl
@[simp] theorem State.setCyc_fresh (x : Nat) : (s.setCyc x).fresh = s.fresh := rfl
@[simp] theorem State.setCyc_clk (x : Nat) : (s.setCyc x).clk = s.clk := rfl
@[simp] theorem State.setCyc_cyc (x : Nat) : (s.setCyc x).cyc = x := rfl
@[simp] theorem State.setCyc_evl (x : Nat) : (s.setCyc x).evl = s.evl := rfl
@[simp] theorem State.setCyc_irqs (x : Nat) : (s.setCyc x).irqs = s.irqs := rfl
@[simp] theorem State.setCyc_pwm (x : Nat) : (s.setCyc x).pwm = s.pwm := rfl
@[simp] theorem State.setCyc_on (x : Nat) : (s.setCyc x).on = s.on := rfl
@[simp] theorem State.setCyc_pllA (x : Nat) : (s.setCyc x).pllA = s.pllA := rfl
@[simp] theorem State.setCyc_pllB (x : Nat) : (s.setCyc x).pllB = s.pllB := rfl
@[simp] theorem State.setCyc_busErr (x : Nat) : (s.setCyc x).busErr = s.busErr := rfl
@[simp] theorem State.setCyc_mramW (x : Nat) : (s.setCyc x).mramW = s.mramW := rfl
@[simp] theorem State.setCyc_tbLatch (x : Nat) : (s.setCyc x).tbLatch = s.tbLatch := rfl
@[simp] theorem State.setCyc_ce (x : Nat) : (s.setCyc x).ce = s.ce := rfl
@[simp] theorem State.setCyc_fox (x : Nat) : (s.setCyc x).fox = s.fox := rfl
@[simp] theorem State.setCyc_conv (x : Nat) : (s.setCyc x).conv = s.conv := rfl
@[simp] theorem State.setCyc_badger (x : Nat) : (s.setCyc x).badger = s.badger := rfl
@[simp] theorem State.setCyc_marten (x : Nat) : (s.setCyc x).marten = s.marten := rfl
@[simp] theorem State.setCyc_gates (x : Nat) : (s.setCyc x).gates = s.gates := rfl
@[simp] theorem State.setCyc_scg (x : Nat) : (s.setCyc x).scg = s.scg := rfl
@[simp] theorem State.setCyc_osd (x : Nat) : (s.setCyc x).osd = s.osd := rfl
@[simp] theorem State.setCyc_kcp (x : Nat) : (s.setCyc x).kcp = s.kcp := rfl
@[simp] theorem State.setCyc_modes (x : Nat) : (s.setCyc x).modes = s.modes := rfl
@[simp] theorem State.setCyc_act (x : Nat) : (s.setCyc x).act = s.act := rfl
@[simp] theorem State.setCyc_pos (x : Nat) : (s.setCyc x).pos = s.pos := rfl
@[simp] theorem State.setCyc_ledger (x : Nat) : (s.setCyc x).ledger = s.ledger := rfl
@[simp] theorem State.setCyc_hk (x : Nat) : (s.setCyc x).hk = s.hk := rfl
@[simp] theorem State.setCyc_sc (x : Nat) : (s.setCyc x).sc = s.sc := rfl
@[simp] theorem State.setCyc_scc (x : Nat) : (s.setCyc x).scc = s.scc := rfl
@[simp] theorem State.setCyc_dma (x : Nat) : (s.setCyc x).dma = s.dma := rfl
@[simp] theorem State.setCyc_can (x : Nat) : (s.setCyc x).can = s.can := rfl
@[simp] theorem State.setCyc_canTm (x : Nat) : (s.setCyc x).canTm = s.canTm := rfl
@[simp] theorem State.setCyc_eth (x : Nat) : (s.setCyc x).eth = s.eth := rfl
@[simp] theorem State.setCyc_asl (x : Nat) : (s.setCyc x).asl = s.asl := rfl
@[simp] theorem State.setCyc_sup (x : Nat) : (s.setCyc x).sup = s.sup := rfl
@[simp] theorem State.setCyc_start (x : Nat) : (s.setCyc x).start = s.start := rfl
@[simp] theorem State.setCyc_rd (x : Nat) : (s.setCyc x).rd r = s.rd r := rfl
@[simp] theorem State.setCyc_get (x : Nat) : (s.setCyc x).get f = s.get f := rfl
@[simp] theorem State.setCyc_is (x : Nat) : (s.setCyc x).is f = s.is f := rfl
@[simp] theorem State.setCyc_bit (x : Nat) : (s.setCyc x).bit f i = s.bit f i := rfl

@[simp] theorem State.setEvl_pending (x : EvLog) : (s.setEvl x).pending = s.pending := rfl
@[simp] theorem State.setEvl_order (x : EvLog) : (s.setEvl x).order = s.order := rfl
@[simp] theorem State.setEvl_regs (x : EvLog) : (s.setEvl x).regs = s.regs := rfl
@[simp] theorem State.setEvl_mem (x : EvLog) : (s.setEvl x).mem = s.mem := rfl
@[simp] theorem State.setEvl_fresh (x : EvLog) : (s.setEvl x).fresh = s.fresh := rfl
@[simp] theorem State.setEvl_clk (x : EvLog) : (s.setEvl x).clk = s.clk := rfl
@[simp] theorem State.setEvl_cyc (x : EvLog) : (s.setEvl x).cyc = s.cyc := rfl
@[simp] theorem State.setEvl_evl (x : EvLog) : (s.setEvl x).evl = x := rfl
@[simp] theorem State.setEvl_irqs (x : EvLog) : (s.setEvl x).irqs = s.irqs := rfl
@[simp] theorem State.setEvl_pwm (x : EvLog) : (s.setEvl x).pwm = s.pwm := rfl
@[simp] theorem State.setEvl_on (x : EvLog) : (s.setEvl x).on = s.on := rfl
@[simp] theorem State.setEvl_pllA (x : EvLog) : (s.setEvl x).pllA = s.pllA := rfl
@[simp] theorem State.setEvl_pllB (x : EvLog) : (s.setEvl x).pllB = s.pllB := rfl
@[simp] theorem State.setEvl_busErr (x : EvLog) : (s.setEvl x).busErr = s.busErr := rfl
@[simp] theorem State.setEvl_mramW (x : EvLog) : (s.setEvl x).mramW = s.mramW := rfl
@[simp] theorem State.setEvl_tbLatch (x : EvLog) : (s.setEvl x).tbLatch = s.tbLatch := rfl
@[simp] theorem State.setEvl_ce (x : EvLog) : (s.setEvl x).ce = s.ce := rfl
@[simp] theorem State.setEvl_fox (x : EvLog) : (s.setEvl x).fox = s.fox := rfl
@[simp] theorem State.setEvl_conv (x : EvLog) : (s.setEvl x).conv = s.conv := rfl
@[simp] theorem State.setEvl_badger (x : EvLog) : (s.setEvl x).badger = s.badger := rfl
@[simp] theorem State.setEvl_marten (x : EvLog) : (s.setEvl x).marten = s.marten := rfl
@[simp] theorem State.setEvl_gates (x : EvLog) : (s.setEvl x).gates = s.gates := rfl
@[simp] theorem State.setEvl_scg (x : EvLog) : (s.setEvl x).scg = s.scg := rfl
@[simp] theorem State.setEvl_osd (x : EvLog) : (s.setEvl x).osd = s.osd := rfl
@[simp] theorem State.setEvl_kcp (x : EvLog) : (s.setEvl x).kcp = s.kcp := rfl
@[simp] theorem State.setEvl_modes (x : EvLog) : (s.setEvl x).modes = s.modes := rfl
@[simp] theorem State.setEvl_act (x : EvLog) : (s.setEvl x).act = s.act := rfl
@[simp] theorem State.setEvl_pos (x : EvLog) : (s.setEvl x).pos = s.pos := rfl
@[simp] theorem State.setEvl_ledger (x : EvLog) : (s.setEvl x).ledger = s.ledger := rfl
@[simp] theorem State.setEvl_hk (x : EvLog) : (s.setEvl x).hk = s.hk := rfl
@[simp] theorem State.setEvl_sc (x : EvLog) : (s.setEvl x).sc = s.sc := rfl
@[simp] theorem State.setEvl_scc (x : EvLog) : (s.setEvl x).scc = s.scc := rfl
@[simp] theorem State.setEvl_dma (x : EvLog) : (s.setEvl x).dma = s.dma := rfl
@[simp] theorem State.setEvl_can (x : EvLog) : (s.setEvl x).can = s.can := rfl
@[simp] theorem State.setEvl_canTm (x : EvLog) : (s.setEvl x).canTm = s.canTm := rfl
@[simp] theorem State.setEvl_eth (x : EvLog) : (s.setEvl x).eth = s.eth := rfl
@[simp] theorem State.setEvl_asl (x : EvLog) : (s.setEvl x).asl = s.asl := rfl
@[simp] theorem State.setEvl_sup (x : EvLog) : (s.setEvl x).sup = s.sup := rfl
@[simp] theorem State.setEvl_start (x : EvLog) : (s.setEvl x).start = s.start := rfl
@[simp] theorem State.setEvl_rd (x : EvLog) : (s.setEvl x).rd r = s.rd r := rfl
@[simp] theorem State.setEvl_get (x : EvLog) : (s.setEvl x).get f = s.get f := rfl
@[simp] theorem State.setEvl_is (x : EvLog) : (s.setEvl x).is f = s.is f := rfl
@[simp] theorem State.setEvl_bit (x : EvLog) : (s.setEvl x).bit f i = s.bit f i := rfl

@[simp] theorem State.setIrqs_pending (x : List Irq) : (s.setIrqs x).pending = s.pending := rfl
@[simp] theorem State.setIrqs_order (x : List Irq) : (s.setIrqs x).order = s.order := rfl
@[simp] theorem State.setIrqs_regs (x : List Irq) : (s.setIrqs x).regs = s.regs := rfl
@[simp] theorem State.setIrqs_mem (x : List Irq) : (s.setIrqs x).mem = s.mem := rfl
@[simp] theorem State.setIrqs_fresh (x : List Irq) : (s.setIrqs x).fresh = s.fresh := rfl
@[simp] theorem State.setIrqs_clk (x : List Irq) : (s.setIrqs x).clk = s.clk := rfl
@[simp] theorem State.setIrqs_cyc (x : List Irq) : (s.setIrqs x).cyc = s.cyc := rfl
@[simp] theorem State.setIrqs_evl (x : List Irq) : (s.setIrqs x).evl = s.evl := rfl
@[simp] theorem State.setIrqs_irqs (x : List Irq) : (s.setIrqs x).irqs = x := rfl
@[simp] theorem State.setIrqs_pwm (x : List Irq) : (s.setIrqs x).pwm = s.pwm := rfl
@[simp] theorem State.setIrqs_on (x : List Irq) : (s.setIrqs x).on = s.on := rfl
@[simp] theorem State.setIrqs_pllA (x : List Irq) : (s.setIrqs x).pllA = s.pllA := rfl
@[simp] theorem State.setIrqs_pllB (x : List Irq) : (s.setIrqs x).pllB = s.pllB := rfl
@[simp] theorem State.setIrqs_busErr (x : List Irq) : (s.setIrqs x).busErr = s.busErr := rfl
@[simp] theorem State.setIrqs_mramW (x : List Irq) : (s.setIrqs x).mramW = s.mramW := rfl
@[simp] theorem State.setIrqs_tbLatch (x : List Irq) : (s.setIrqs x).tbLatch = s.tbLatch := rfl
@[simp] theorem State.setIrqs_ce (x : List Irq) : (s.setIrqs x).ce = s.ce := rfl
@[simp] theorem State.setIrqs_fox (x : List Irq) : (s.setIrqs x).fox = s.fox := rfl
@[simp] theorem State.setIrqs_conv (x : List Irq) : (s.setIrqs x).conv = s.conv := rfl
@[simp] theorem State.setIrqs_badger (x : List Irq) : (s.setIrqs x).badger = s.badger := rfl
@[simp] theorem State.setIrqs_marten (x : List Irq) : (s.setIrqs x).marten = s.marten := rfl
@[simp] theorem State.setIrqs_gates (x : List Irq) : (s.setIrqs x).gates = s.gates := rfl
@[simp] theorem State.setIrqs_scg (x : List Irq) : (s.setIrqs x).scg = s.scg := rfl
@[simp] theorem State.setIrqs_osd (x : List Irq) : (s.setIrqs x).osd = s.osd := rfl
@[simp] theorem State.setIrqs_kcp (x : List Irq) : (s.setIrqs x).kcp = s.kcp := rfl
@[simp] theorem State.setIrqs_modes (x : List Irq) : (s.setIrqs x).modes = s.modes := rfl
@[simp] theorem State.setIrqs_act (x : List Irq) : (s.setIrqs x).act = s.act := rfl
@[simp] theorem State.setIrqs_pos (x : List Irq) : (s.setIrqs x).pos = s.pos := rfl
@[simp] theorem State.setIrqs_ledger (x : List Irq) : (s.setIrqs x).ledger = s.ledger := rfl
@[simp] theorem State.setIrqs_hk (x : List Irq) : (s.setIrqs x).hk = s.hk := rfl
@[simp] theorem State.setIrqs_sc (x : List Irq) : (s.setIrqs x).sc = s.sc := rfl
@[simp] theorem State.setIrqs_scc (x : List Irq) : (s.setIrqs x).scc = s.scc := rfl
@[simp] theorem State.setIrqs_dma (x : List Irq) : (s.setIrqs x).dma = s.dma := rfl
@[simp] theorem State.setIrqs_can (x : List Irq) : (s.setIrqs x).can = s.can := rfl
@[simp] theorem State.setIrqs_canTm (x : List Irq) : (s.setIrqs x).canTm = s.canTm := rfl
@[simp] theorem State.setIrqs_eth (x : List Irq) : (s.setIrqs x).eth = s.eth := rfl
@[simp] theorem State.setIrqs_asl (x : List Irq) : (s.setIrqs x).asl = s.asl := rfl
@[simp] theorem State.setIrqs_sup (x : List Irq) : (s.setIrqs x).sup = s.sup := rfl
@[simp] theorem State.setIrqs_start (x : List Irq) : (s.setIrqs x).start = s.start := rfl
@[simp] theorem State.setIrqs_rd (x : List Irq) : (s.setIrqs x).rd r = s.rd r := rfl
@[simp] theorem State.setIrqs_get (x : List Irq) : (s.setIrqs x).get f = s.get f := rfl
@[simp] theorem State.setIrqs_is (x : List Irq) : (s.setIrqs x).is f = s.is f := rfl
@[simp] theorem State.setIrqs_bit (x : List Irq) : (s.setIrqs x).bit f i = s.bit f i := rfl

@[simp] theorem State.setOn_pending (x : BitVec 14) : (s.setOn x).pending = s.pending := rfl
@[simp] theorem State.setOn_order (x : BitVec 14) : (s.setOn x).order = s.order := rfl
@[simp] theorem State.setOn_regs (x : BitVec 14) : (s.setOn x).regs = s.regs := rfl
@[simp] theorem State.setOn_mem (x : BitVec 14) : (s.setOn x).mem = s.mem := rfl
@[simp] theorem State.setOn_fresh (x : BitVec 14) : (s.setOn x).fresh = s.fresh := rfl
@[simp] theorem State.setOn_clk (x : BitVec 14) : (s.setOn x).clk = s.clk := rfl
@[simp] theorem State.setOn_cyc (x : BitVec 14) : (s.setOn x).cyc = s.cyc := rfl
@[simp] theorem State.setOn_evl (x : BitVec 14) : (s.setOn x).evl = s.evl := rfl
@[simp] theorem State.setOn_irqs (x : BitVec 14) : (s.setOn x).irqs = s.irqs := rfl
@[simp] theorem State.setOn_pwm (x : BitVec 14) : (s.setOn x).pwm = s.pwm := rfl
@[simp] theorem State.setOn_on (x : BitVec 14) : (s.setOn x).on = x := rfl
@[simp] theorem State.setOn_pllA (x : BitVec 14) : (s.setOn x).pllA = s.pllA := rfl
@[simp] theorem State.setOn_pllB (x : BitVec 14) : (s.setOn x).pllB = s.pllB := rfl
@[simp] theorem State.setOn_busErr (x : BitVec 14) : (s.setOn x).busErr = s.busErr := rfl
@[simp] theorem State.setOn_mramW (x : BitVec 14) : (s.setOn x).mramW = s.mramW := rfl
@[simp] theorem State.setOn_tbLatch (x : BitVec 14) : (s.setOn x).tbLatch = s.tbLatch := rfl
@[simp] theorem State.setOn_ce (x : BitVec 14) : (s.setOn x).ce = s.ce := rfl
@[simp] theorem State.setOn_fox (x : BitVec 14) : (s.setOn x).fox = s.fox := rfl
@[simp] theorem State.setOn_conv (x : BitVec 14) : (s.setOn x).conv = s.conv := rfl
@[simp] theorem State.setOn_badger (x : BitVec 14) : (s.setOn x).badger = s.badger := rfl
@[simp] theorem State.setOn_marten (x : BitVec 14) : (s.setOn x).marten = s.marten := rfl
@[simp] theorem State.setOn_gates (x : BitVec 14) : (s.setOn x).gates = s.gates := rfl
@[simp] theorem State.setOn_scg (x : BitVec 14) : (s.setOn x).scg = s.scg := rfl
@[simp] theorem State.setOn_osd (x : BitVec 14) : (s.setOn x).osd = s.osd := rfl
@[simp] theorem State.setOn_kcp (x : BitVec 14) : (s.setOn x).kcp = s.kcp := rfl
@[simp] theorem State.setOn_modes (x : BitVec 14) : (s.setOn x).modes = s.modes := rfl
@[simp] theorem State.setOn_act (x : BitVec 14) : (s.setOn x).act = s.act := rfl
@[simp] theorem State.setOn_pos (x : BitVec 14) : (s.setOn x).pos = s.pos := rfl
@[simp] theorem State.setOn_ledger (x : BitVec 14) : (s.setOn x).ledger = s.ledger := rfl
@[simp] theorem State.setOn_hk (x : BitVec 14) : (s.setOn x).hk = s.hk := rfl
@[simp] theorem State.setOn_sc (x : BitVec 14) : (s.setOn x).sc = s.sc := rfl
@[simp] theorem State.setOn_scc (x : BitVec 14) : (s.setOn x).scc = s.scc := rfl
@[simp] theorem State.setOn_dma (x : BitVec 14) : (s.setOn x).dma = s.dma := rfl
@[simp] theorem State.setOn_can (x : BitVec 14) : (s.setOn x).can = s.can := rfl
@[simp] theorem State.setOn_canTm (x : BitVec 14) : (s.setOn x).canTm = s.canTm := rfl
@[simp] theorem State.setOn_eth (x : BitVec 14) : (s.setOn x).eth = s.eth := rfl
@[simp] theorem State.setOn_asl (x : BitVec 14) : (s.setOn x).asl = s.asl := rfl
@[simp] theorem State.setOn_sup (x : BitVec 14) : (s.setOn x).sup = s.sup := rfl
@[simp] theorem State.setOn_start (x : BitVec 14) : (s.setOn x).start = s.start := rfl
@[simp] theorem State.setOn_rd (x : BitVec 14) : (s.setOn x).rd r = s.rd r := rfl
@[simp] theorem State.setOn_get (x : BitVec 14) : (s.setOn x).get f = s.get f := rfl
@[simp] theorem State.setOn_is (x : BitVec 14) : (s.setOn x).is f = s.is f := rfl
@[simp] theorem State.setOn_bit (x : BitVec 14) : (s.setOn x).bit f i = s.bit f i := rfl

@[simp] theorem State.setBusErr_pending (x : List (Initiator × Nat × Nat)) : (s.setBusErr x).pending = s.pending := rfl
@[simp] theorem State.setBusErr_order (x : List (Initiator × Nat × Nat)) : (s.setBusErr x).order = s.order := rfl
@[simp] theorem State.setBusErr_regs (x : List (Initiator × Nat × Nat)) : (s.setBusErr x).regs = s.regs := rfl
@[simp] theorem State.setBusErr_mem (x : List (Initiator × Nat × Nat)) : (s.setBusErr x).mem = s.mem := rfl
@[simp] theorem State.setBusErr_fresh (x : List (Initiator × Nat × Nat)) : (s.setBusErr x).fresh = s.fresh := rfl
@[simp] theorem State.setBusErr_clk (x : List (Initiator × Nat × Nat)) : (s.setBusErr x).clk = s.clk := rfl
@[simp] theorem State.setBusErr_cyc (x : List (Initiator × Nat × Nat)) : (s.setBusErr x).cyc = s.cyc := rfl
@[simp] theorem State.setBusErr_evl (x : List (Initiator × Nat × Nat)) : (s.setBusErr x).evl = s.evl := rfl
@[simp] theorem State.setBusErr_irqs (x : List (Initiator × Nat × Nat)) : (s.setBusErr x).irqs = s.irqs := rfl
@[simp] theorem State.setBusErr_pwm (x : List (Initiator × Nat × Nat)) : (s.setBusErr x).pwm = s.pwm := rfl
@[simp] theorem State.setBusErr_on (x : List (Initiator × Nat × Nat)) : (s.setBusErr x).on = s.on := rfl
@[simp] theorem State.setBusErr_pllA (x : List (Initiator × Nat × Nat)) : (s.setBusErr x).pllA = s.pllA := rfl
@[simp] theorem State.setBusErr_pllB (x : List (Initiator × Nat × Nat)) : (s.setBusErr x).pllB = s.pllB := rfl
@[simp] theorem State.setBusErr_busErr (x : List (Initiator × Nat × Nat)) : (s.setBusErr x).busErr = x := rfl
@[simp] theorem State.setBusErr_mramW (x : List (Initiator × Nat × Nat)) : (s.setBusErr x).mramW = s.mramW := rfl
@[simp] theorem State.setBusErr_tbLatch (x : List (Initiator × Nat × Nat)) : (s.setBusErr x).tbLatch = s.tbLatch := rfl
@[simp] theorem State.setBusErr_ce (x : List (Initiator × Nat × Nat)) : (s.setBusErr x).ce = s.ce := rfl
@[simp] theorem State.setBusErr_fox (x : List (Initiator × Nat × Nat)) : (s.setBusErr x).fox = s.fox := rfl
@[simp] theorem State.setBusErr_conv (x : List (Initiator × Nat × Nat)) : (s.setBusErr x).conv = s.conv := rfl
@[simp] theorem State.setBusErr_badger (x : List (Initiator × Nat × Nat)) : (s.setBusErr x).badger = s.badger := rfl
@[simp] theorem State.setBusErr_marten (x : List (Initiator × Nat × Nat)) : (s.setBusErr x).marten = s.marten := rfl
@[simp] theorem State.setBusErr_gates (x : List (Initiator × Nat × Nat)) : (s.setBusErr x).gates = s.gates := rfl
@[simp] theorem State.setBusErr_scg (x : List (Initiator × Nat × Nat)) : (s.setBusErr x).scg = s.scg := rfl
@[simp] theorem State.setBusErr_osd (x : List (Initiator × Nat × Nat)) : (s.setBusErr x).osd = s.osd := rfl
@[simp] theorem State.setBusErr_kcp (x : List (Initiator × Nat × Nat)) : (s.setBusErr x).kcp = s.kcp := rfl
@[simp] theorem State.setBusErr_modes (x : List (Initiator × Nat × Nat)) : (s.setBusErr x).modes = s.modes := rfl
@[simp] theorem State.setBusErr_act (x : List (Initiator × Nat × Nat)) : (s.setBusErr x).act = s.act := rfl
@[simp] theorem State.setBusErr_pos (x : List (Initiator × Nat × Nat)) : (s.setBusErr x).pos = s.pos := rfl
@[simp] theorem State.setBusErr_ledger (x : List (Initiator × Nat × Nat)) : (s.setBusErr x).ledger = s.ledger := rfl
@[simp] theorem State.setBusErr_hk (x : List (Initiator × Nat × Nat)) : (s.setBusErr x).hk = s.hk := rfl
@[simp] theorem State.setBusErr_sc (x : List (Initiator × Nat × Nat)) : (s.setBusErr x).sc = s.sc := rfl
@[simp] theorem State.setBusErr_scc (x : List (Initiator × Nat × Nat)) : (s.setBusErr x).scc = s.scc := rfl
@[simp] theorem State.setBusErr_dma (x : List (Initiator × Nat × Nat)) : (s.setBusErr x).dma = s.dma := rfl
@[simp] theorem State.setBusErr_can (x : List (Initiator × Nat × Nat)) : (s.setBusErr x).can = s.can := rfl
@[simp] theorem State.setBusErr_canTm (x : List (Initiator × Nat × Nat)) : (s.setBusErr x).canTm = s.canTm := rfl
@[simp] theorem State.setBusErr_eth (x : List (Initiator × Nat × Nat)) : (s.setBusErr x).eth = s.eth := rfl
@[simp] theorem State.setBusErr_asl (x : List (Initiator × Nat × Nat)) : (s.setBusErr x).asl = s.asl := rfl
@[simp] theorem State.setBusErr_sup (x : List (Initiator × Nat × Nat)) : (s.setBusErr x).sup = s.sup := rfl
@[simp] theorem State.setBusErr_start (x : List (Initiator × Nat × Nat)) : (s.setBusErr x).start = s.start := rfl
@[simp] theorem State.setBusErr_rd (x : List (Initiator × Nat × Nat)) : (s.setBusErr x).rd r = s.rd r := rfl
@[simp] theorem State.setBusErr_get (x : List (Initiator × Nat × Nat)) : (s.setBusErr x).get f = s.get f := rfl
@[simp] theorem State.setBusErr_is (x : List (Initiator × Nat × Nat)) : (s.setBusErr x).is f = s.is f := rfl
@[simp] theorem State.setBusErr_bit (x : List (Initiator × Nat × Nat)) : (s.setBusErr x).bit f i = s.bit f i := rfl

@[simp] theorem State.setMramW_pending (x : List (Nat × List Byte)) : (s.setMramW x).pending = s.pending := rfl
@[simp] theorem State.setMramW_order (x : List (Nat × List Byte)) : (s.setMramW x).order = s.order := rfl
@[simp] theorem State.setMramW_regs (x : List (Nat × List Byte)) : (s.setMramW x).regs = s.regs := rfl
@[simp] theorem State.setMramW_mem (x : List (Nat × List Byte)) : (s.setMramW x).mem = s.mem := rfl
@[simp] theorem State.setMramW_fresh (x : List (Nat × List Byte)) : (s.setMramW x).fresh = s.fresh := rfl
@[simp] theorem State.setMramW_clk (x : List (Nat × List Byte)) : (s.setMramW x).clk = s.clk := rfl
@[simp] theorem State.setMramW_cyc (x : List (Nat × List Byte)) : (s.setMramW x).cyc = s.cyc := rfl
@[simp] theorem State.setMramW_evl (x : List (Nat × List Byte)) : (s.setMramW x).evl = s.evl := rfl
@[simp] theorem State.setMramW_irqs (x : List (Nat × List Byte)) : (s.setMramW x).irqs = s.irqs := rfl
@[simp] theorem State.setMramW_pwm (x : List (Nat × List Byte)) : (s.setMramW x).pwm = s.pwm := rfl
@[simp] theorem State.setMramW_on (x : List (Nat × List Byte)) : (s.setMramW x).on = s.on := rfl
@[simp] theorem State.setMramW_pllA (x : List (Nat × List Byte)) : (s.setMramW x).pllA = s.pllA := rfl
@[simp] theorem State.setMramW_pllB (x : List (Nat × List Byte)) : (s.setMramW x).pllB = s.pllB := rfl
@[simp] theorem State.setMramW_busErr (x : List (Nat × List Byte)) : (s.setMramW x).busErr = s.busErr := rfl
@[simp] theorem State.setMramW_mramW (x : List (Nat × List Byte)) : (s.setMramW x).mramW = x := rfl
@[simp] theorem State.setMramW_tbLatch (x : List (Nat × List Byte)) : (s.setMramW x).tbLatch = s.tbLatch := rfl
@[simp] theorem State.setMramW_ce (x : List (Nat × List Byte)) : (s.setMramW x).ce = s.ce := rfl
@[simp] theorem State.setMramW_fox (x : List (Nat × List Byte)) : (s.setMramW x).fox = s.fox := rfl
@[simp] theorem State.setMramW_conv (x : List (Nat × List Byte)) : (s.setMramW x).conv = s.conv := rfl
@[simp] theorem State.setMramW_badger (x : List (Nat × List Byte)) : (s.setMramW x).badger = s.badger := rfl
@[simp] theorem State.setMramW_marten (x : List (Nat × List Byte)) : (s.setMramW x).marten = s.marten := rfl
@[simp] theorem State.setMramW_gates (x : List (Nat × List Byte)) : (s.setMramW x).gates = s.gates := rfl
@[simp] theorem State.setMramW_scg (x : List (Nat × List Byte)) : (s.setMramW x).scg = s.scg := rfl
@[simp] theorem State.setMramW_osd (x : List (Nat × List Byte)) : (s.setMramW x).osd = s.osd := rfl
@[simp] theorem State.setMramW_kcp (x : List (Nat × List Byte)) : (s.setMramW x).kcp = s.kcp := rfl
@[simp] theorem State.setMramW_modes (x : List (Nat × List Byte)) : (s.setMramW x).modes = s.modes := rfl
@[simp] theorem State.setMramW_act (x : List (Nat × List Byte)) : (s.setMramW x).act = s.act := rfl
@[simp] theorem State.setMramW_pos (x : List (Nat × List Byte)) : (s.setMramW x).pos = s.pos := rfl
@[simp] theorem State.setMramW_ledger (x : List (Nat × List Byte)) : (s.setMramW x).ledger = s.ledger := rfl
@[simp] theorem State.setMramW_hk (x : List (Nat × List Byte)) : (s.setMramW x).hk = s.hk := rfl
@[simp] theorem State.setMramW_sc (x : List (Nat × List Byte)) : (s.setMramW x).sc = s.sc := rfl
@[simp] theorem State.setMramW_scc (x : List (Nat × List Byte)) : (s.setMramW x).scc = s.scc := rfl
@[simp] theorem State.setMramW_dma (x : List (Nat × List Byte)) : (s.setMramW x).dma = s.dma := rfl
@[simp] theorem State.setMramW_can (x : List (Nat × List Byte)) : (s.setMramW x).can = s.can := rfl
@[simp] theorem State.setMramW_canTm (x : List (Nat × List Byte)) : (s.setMramW x).canTm = s.canTm := rfl
@[simp] theorem State.setMramW_eth (x : List (Nat × List Byte)) : (s.setMramW x).eth = s.eth := rfl
@[simp] theorem State.setMramW_asl (x : List (Nat × List Byte)) : (s.setMramW x).asl = s.asl := rfl
@[simp] theorem State.setMramW_sup (x : List (Nat × List Byte)) : (s.setMramW x).sup = s.sup := rfl
@[simp] theorem State.setMramW_start (x : List (Nat × List Byte)) : (s.setMramW x).start = s.start := rfl
@[simp] theorem State.setMramW_rd (x : List (Nat × List Byte)) : (s.setMramW x).rd r = s.rd r := rfl
@[simp] theorem State.setMramW_get (x : List (Nat × List Byte)) : (s.setMramW x).get f = s.get f := rfl
@[simp] theorem State.setMramW_is (x : List (Nat × List Byte)) : (s.setMramW x).is f = s.is f := rfl
@[simp] theorem State.setMramW_bit (x : List (Nat × List Byte)) : (s.setMramW x).bit f i = s.bit f i := rfl

@[simp] theorem State.setTbLatch_pending (x : List (Initiator × Word)) : (s.setTbLatch x).pending = s.pending := rfl
@[simp] theorem State.setTbLatch_order (x : List (Initiator × Word)) : (s.setTbLatch x).order = s.order := rfl
@[simp] theorem State.setTbLatch_regs (x : List (Initiator × Word)) : (s.setTbLatch x).regs = s.regs := rfl
@[simp] theorem State.setTbLatch_mem (x : List (Initiator × Word)) : (s.setTbLatch x).mem = s.mem := rfl
@[simp] theorem State.setTbLatch_fresh (x : List (Initiator × Word)) : (s.setTbLatch x).fresh = s.fresh := rfl
@[simp] theorem State.setTbLatch_clk (x : List (Initiator × Word)) : (s.setTbLatch x).clk = s.clk := rfl
@[simp] theorem State.setTbLatch_cyc (x : List (Initiator × Word)) : (s.setTbLatch x).cyc = s.cyc := rfl
@[simp] theorem State.setTbLatch_evl (x : List (Initiator × Word)) : (s.setTbLatch x).evl = s.evl := rfl
@[simp] theorem State.setTbLatch_irqs (x : List (Initiator × Word)) : (s.setTbLatch x).irqs = s.irqs := rfl
@[simp] theorem State.setTbLatch_pwm (x : List (Initiator × Word)) : (s.setTbLatch x).pwm = s.pwm := rfl
@[simp] theorem State.setTbLatch_on (x : List (Initiator × Word)) : (s.setTbLatch x).on = s.on := rfl
@[simp] theorem State.setTbLatch_pllA (x : List (Initiator × Word)) : (s.setTbLatch x).pllA = s.pllA := rfl
@[simp] theorem State.setTbLatch_pllB (x : List (Initiator × Word)) : (s.setTbLatch x).pllB = s.pllB := rfl
@[simp] theorem State.setTbLatch_busErr (x : List (Initiator × Word)) : (s.setTbLatch x).busErr = s.busErr := rfl
@[simp] theorem State.setTbLatch_mramW (x : List (Initiator × Word)) : (s.setTbLatch x).mramW = s.mramW := rfl
@[simp] theorem State.setTbLatch_tbLatch (x : List (Initiator × Word)) : (s.setTbLatch x).tbLatch = x := rfl
@[simp] theorem State.setTbLatch_ce (x : List (Initiator × Word)) : (s.setTbLatch x).ce = s.ce := rfl
@[simp] theorem State.setTbLatch_fox (x : List (Initiator × Word)) : (s.setTbLatch x).fox = s.fox := rfl
@[simp] theorem State.setTbLatch_conv (x : List (Initiator × Word)) : (s.setTbLatch x).conv = s.conv := rfl
@[simp] theorem State.setTbLatch_badger (x : List (Initiator × Word)) : (s.setTbLatch x).badger = s.badger := rfl
@[simp] theorem State.setTbLatch_marten (x : List (Initiator × Word)) : (s.setTbLatch x).marten = s.marten := rfl
@[simp] theorem State.setTbLatch_gates (x : List (Initiator × Word)) : (s.setTbLatch x).gates = s.gates := rfl
@[simp] theorem State.setTbLatch_scg (x : List (Initiator × Word)) : (s.setTbLatch x).scg = s.scg := rfl
@[simp] theorem State.setTbLatch_osd (x : List (Initiator × Word)) : (s.setTbLatch x).osd = s.osd := rfl
@[simp] theorem State.setTbLatch_kcp (x : List (Initiator × Word)) : (s.setTbLatch x).kcp = s.kcp := rfl
@[simp] theorem State.setTbLatch_modes (x : List (Initiator × Word)) : (s.setTbLatch x).modes = s.modes := rfl
@[simp] theorem State.setTbLatch_act (x : List (Initiator × Word)) : (s.setTbLatch x).act = s.act := rfl
@[simp] theorem State.setTbLatch_pos (x : List (Initiator × Word)) : (s.setTbLatch x).pos = s.pos := rfl
@[simp] theorem State.setTbLatch_ledger (x : List (Initiator × Word)) : (s.setTbLatch x).ledger = s.ledger := rfl
@[simp] theorem State.setTbLatch_hk (x : List (Initiator × Word)) : (s.setTbLatch x).hk = s.hk := rfl
@[simp] theorem State.setTbLatch_sc (x : List (Initiator × Word)) : (s.setTbLatch x).sc = s.sc := rfl
@[simp] theorem State.setTbLatch_scc (x : List (Initiator × Word)) : (s.setTbLatch x).scc = s.scc := rfl
@[simp] theorem State.setTbLatch_dma (x : List (Initiator × Word)) : (s.setTbLatch x).dma = s.dma := rfl
@[simp] theorem State.setTbLatch_can (x : List (Initiator × Word)) : (s.setTbLatch x).can = s.can := rfl
@[simp] theorem State.setTbLatch_canTm (x : List (Initiator × Word)) : (s.setTbLatch x).canTm = s.canTm := rfl
@[simp] theorem State.setTbLatch_eth (x : List (Initiator × Word)) : (s.setTbLatch x).eth = s.eth := rfl
@[simp] theorem State.setTbLatch_asl (x : List (Initiator × Word)) : (s.setTbLatch x).asl = s.asl := rfl
@[simp] theorem State.setTbLatch_sup (x : List (Initiator × Word)) : (s.setTbLatch x).sup = s.sup := rfl
@[simp] theorem State.setTbLatch_start (x : List (Initiator × Word)) : (s.setTbLatch x).start = s.start := rfl
@[simp] theorem State.setTbLatch_rd (x : List (Initiator × Word)) : (s.setTbLatch x).rd r = s.rd r := rfl
@[simp] theorem State.setTbLatch_get (x : List (Initiator × Word)) : (s.setTbLatch x).get f = s.get f := rfl
@[simp] theorem State.setTbLatch_is (x : List (Initiator × Word)) : (s.setTbLatch x).is f = s.is f := rfl
@[simp] theorem State.setTbLatch_bit (x : List (Initiator × Word)) : (s.setTbLatch x).bit f i = s.bit f i := rfl

@[simp] theorem State.setFox_pending (x : Fox) : (s.setFox x).pending = s.pending := rfl
@[simp] theorem State.setFox_order (x : Fox) : (s.setFox x).order = s.order := rfl
@[simp] theorem State.setFox_regs (x : Fox) : (s.setFox x).regs = s.regs := rfl
@[simp] theorem State.setFox_mem (x : Fox) : (s.setFox x).mem = s.mem := rfl
@[simp] theorem State.setFox_fresh (x : Fox) : (s.setFox x).fresh = s.fresh := rfl
@[simp] theorem State.setFox_clk (x : Fox) : (s.setFox x).clk = s.clk := rfl
@[simp] theorem State.setFox_cyc (x : Fox) : (s.setFox x).cyc = s.cyc := rfl
@[simp] theorem State.setFox_evl (x : Fox) : (s.setFox x).evl = s.evl := rfl
@[simp] theorem State.setFox_irqs (x : Fox) : (s.setFox x).irqs = s.irqs := rfl
@[simp] theorem State.setFox_pwm (x : Fox) : (s.setFox x).pwm = s.pwm := rfl
@[simp] theorem State.setFox_on (x : Fox) : (s.setFox x).on = s.on := rfl
@[simp] theorem State.setFox_pllA (x : Fox) : (s.setFox x).pllA = s.pllA := rfl
@[simp] theorem State.setFox_pllB (x : Fox) : (s.setFox x).pllB = s.pllB := rfl
@[simp] theorem State.setFox_busErr (x : Fox) : (s.setFox x).busErr = s.busErr := rfl
@[simp] theorem State.setFox_mramW (x : Fox) : (s.setFox x).mramW = s.mramW := rfl
@[simp] theorem State.setFox_tbLatch (x : Fox) : (s.setFox x).tbLatch = s.tbLatch := rfl
@[simp] theorem State.setFox_ce (x : Fox) : (s.setFox x).ce = s.ce := rfl
@[simp] theorem State.setFox_fox (x : Fox) : (s.setFox x).fox = x := rfl
@[simp] theorem State.setFox_conv (x : Fox) : (s.setFox x).conv = s.conv := rfl
@[simp] theorem State.setFox_badger (x : Fox) : (s.setFox x).badger = s.badger := rfl
@[simp] theorem State.setFox_marten (x : Fox) : (s.setFox x).marten = s.marten := rfl
@[simp] theorem State.setFox_gates (x : Fox) : (s.setFox x).gates = s.gates := rfl
@[simp] theorem State.setFox_scg (x : Fox) : (s.setFox x).scg = s.scg := rfl
@[simp] theorem State.setFox_osd (x : Fox) : (s.setFox x).osd = s.osd := rfl
@[simp] theorem State.setFox_kcp (x : Fox) : (s.setFox x).kcp = s.kcp := rfl
@[simp] theorem State.setFox_modes (x : Fox) : (s.setFox x).modes = s.modes := rfl
@[simp] theorem State.setFox_act (x : Fox) : (s.setFox x).act = s.act := rfl
@[simp] theorem State.setFox_pos (x : Fox) : (s.setFox x).pos = s.pos := rfl
@[simp] theorem State.setFox_ledger (x : Fox) : (s.setFox x).ledger = s.ledger := rfl
@[simp] theorem State.setFox_hk (x : Fox) : (s.setFox x).hk = s.hk := rfl
@[simp] theorem State.setFox_sc (x : Fox) : (s.setFox x).sc = s.sc := rfl
@[simp] theorem State.setFox_scc (x : Fox) : (s.setFox x).scc = s.scc := rfl
@[simp] theorem State.setFox_dma (x : Fox) : (s.setFox x).dma = s.dma := rfl
@[simp] theorem State.setFox_can (x : Fox) : (s.setFox x).can = s.can := rfl
@[simp] theorem State.setFox_canTm (x : Fox) : (s.setFox x).canTm = s.canTm := rfl
@[simp] theorem State.setFox_eth (x : Fox) : (s.setFox x).eth = s.eth := rfl
@[simp] theorem State.setFox_asl (x : Fox) : (s.setFox x).asl = s.asl := rfl
@[simp] theorem State.setFox_sup (x : Fox) : (s.setFox x).sup = s.sup := rfl
@[simp] theorem State.setFox_start (x : Fox) : (s.setFox x).start = s.start := rfl
@[simp] theorem State.setFox_rd (x : Fox) : (s.setFox x).rd r = s.rd r := rfl
@[simp] theorem State.setFox_get (x : Fox) : (s.setFox x).get f = s.get f := rfl
@[simp] theorem State.setFox_is (x : Fox) : (s.setFox x).is f = s.is f := rfl
@[simp] theorem State.setFox_bit (x : Fox) : (s.setFox x).bit f i = s.bit f i := rfl

@[simp] theorem State.setMarten_pending (x : Nat) : (s.setMarten x).pending = s.pending := rfl
@[simp] theorem State.setMarten_order (x : Nat) : (s.setMarten x).order = s.order := rfl
@[simp] theorem State.setMarten_regs (x : Nat) : (s.setMarten x).regs = s.regs := rfl
@[simp] theorem State.setMarten_mem (x : Nat) : (s.setMarten x).mem = s.mem := rfl
@[simp] theorem State.setMarten_fresh (x : Nat) : (s.setMarten x).fresh = s.fresh := rfl
@[simp] theorem State.setMarten_clk (x : Nat) : (s.setMarten x).clk = s.clk := rfl
@[simp] theorem State.setMarten_cyc (x : Nat) : (s.setMarten x).cyc = s.cyc := rfl
@[simp] theorem State.setMarten_evl (x : Nat) : (s.setMarten x).evl = s.evl := rfl
@[simp] theorem State.setMarten_irqs (x : Nat) : (s.setMarten x).irqs = s.irqs := rfl
@[simp] theorem State.setMarten_pwm (x : Nat) : (s.setMarten x).pwm = s.pwm := rfl
@[simp] theorem State.setMarten_on (x : Nat) : (s.setMarten x).on = s.on := rfl
@[simp] theorem State.setMarten_pllA (x : Nat) : (s.setMarten x).pllA = s.pllA := rfl
@[simp] theorem State.setMarten_pllB (x : Nat) : (s.setMarten x).pllB = s.pllB := rfl
@[simp] theorem State.setMarten_busErr (x : Nat) : (s.setMarten x).busErr = s.busErr := rfl
@[simp] theorem State.setMarten_mramW (x : Nat) : (s.setMarten x).mramW = s.mramW := rfl
@[simp] theorem State.setMarten_tbLatch (x : Nat) : (s.setMarten x).tbLatch = s.tbLatch := rfl
@[simp] theorem State.setMarten_ce (x : Nat) : (s.setMarten x).ce = s.ce := rfl
@[simp] theorem State.setMarten_fox (x : Nat) : (s.setMarten x).fox = s.fox := rfl
@[simp] theorem State.setMarten_conv (x : Nat) : (s.setMarten x).conv = s.conv := rfl
@[simp] theorem State.setMarten_badger (x : Nat) : (s.setMarten x).badger = s.badger := rfl
@[simp] theorem State.setMarten_marten (x : Nat) : (s.setMarten x).marten = x := rfl
@[simp] theorem State.setMarten_gates (x : Nat) : (s.setMarten x).gates = s.gates := rfl
@[simp] theorem State.setMarten_scg (x : Nat) : (s.setMarten x).scg = s.scg := rfl
@[simp] theorem State.setMarten_osd (x : Nat) : (s.setMarten x).osd = s.osd := rfl
@[simp] theorem State.setMarten_kcp (x : Nat) : (s.setMarten x).kcp = s.kcp := rfl
@[simp] theorem State.setMarten_modes (x : Nat) : (s.setMarten x).modes = s.modes := rfl
@[simp] theorem State.setMarten_act (x : Nat) : (s.setMarten x).act = s.act := rfl
@[simp] theorem State.setMarten_pos (x : Nat) : (s.setMarten x).pos = s.pos := rfl
@[simp] theorem State.setMarten_ledger (x : Nat) : (s.setMarten x).ledger = s.ledger := rfl
@[simp] theorem State.setMarten_hk (x : Nat) : (s.setMarten x).hk = s.hk := rfl
@[simp] theorem State.setMarten_sc (x : Nat) : (s.setMarten x).sc = s.sc := rfl
@[simp] theorem State.setMarten_scc (x : Nat) : (s.setMarten x).scc = s.scc := rfl
@[simp] theorem State.setMarten_dma (x : Nat) : (s.setMarten x).dma = s.dma := rfl
@[simp] theorem State.setMarten_can (x : Nat) : (s.setMarten x).can = s.can := rfl
@[simp] theorem State.setMarten_canTm (x : Nat) : (s.setMarten x).canTm = s.canTm := rfl
@[simp] theorem State.setMarten_eth (x : Nat) : (s.setMarten x).eth = s.eth := rfl
@[simp] theorem State.setMarten_asl (x : Nat) : (s.setMarten x).asl = s.asl := rfl
@[simp] theorem State.setMarten_sup (x : Nat) : (s.setMarten x).sup = s.sup := rfl
@[simp] theorem State.setMarten_start (x : Nat) : (s.setMarten x).start = s.start := rfl
@[simp] theorem State.setMarten_rd (x : Nat) : (s.setMarten x).rd r = s.rd r := rfl
@[simp] theorem State.setMarten_get (x : Nat) : (s.setMarten x).get f = s.get f := rfl
@[simp] theorem State.setMarten_is (x : Nat) : (s.setMarten x).is f = s.is f := rfl
@[simp] theorem State.setMarten_bit (x : Nat) : (s.setMarten x).bit f i = s.bit f i := rfl

@[simp] theorem State.setOsd_pending (x : Osd) : (s.setOsd x).pending = s.pending := rfl
@[simp] theorem State.setOsd_order (x : Osd) : (s.setOsd x).order = s.order := rfl
@[simp] theorem State.setOsd_regs (x : Osd) : (s.setOsd x).regs = s.regs := rfl
@[simp] theorem State.setOsd_mem (x : Osd) : (s.setOsd x).mem = s.mem := rfl
@[simp] theorem State.setOsd_fresh (x : Osd) : (s.setOsd x).fresh = s.fresh := rfl
@[simp] theorem State.setOsd_clk (x : Osd) : (s.setOsd x).clk = s.clk := rfl
@[simp] theorem State.setOsd_cyc (x : Osd) : (s.setOsd x).cyc = s.cyc := rfl
@[simp] theorem State.setOsd_evl (x : Osd) : (s.setOsd x).evl = s.evl := rfl
@[simp] theorem State.setOsd_irqs (x : Osd) : (s.setOsd x).irqs = s.irqs := rfl
@[simp] theorem State.setOsd_pwm (x : Osd) : (s.setOsd x).pwm = s.pwm := rfl
@[simp] theorem State.setOsd_on (x : Osd) : (s.setOsd x).on = s.on := rfl
@[simp] theorem State.setOsd_pllA (x : Osd) : (s.setOsd x).pllA = s.pllA := rfl
@[simp] theorem State.setOsd_pllB (x : Osd) : (s.setOsd x).pllB = s.pllB := rfl
@[simp] theorem State.setOsd_busErr (x : Osd) : (s.setOsd x).busErr = s.busErr := rfl
@[simp] theorem State.setOsd_mramW (x : Osd) : (s.setOsd x).mramW = s.mramW := rfl
@[simp] theorem State.setOsd_tbLatch (x : Osd) : (s.setOsd x).tbLatch = s.tbLatch := rfl
@[simp] theorem State.setOsd_ce (x : Osd) : (s.setOsd x).ce = s.ce := rfl
@[simp] theorem State.setOsd_fox (x : Osd) : (s.setOsd x).fox = s.fox := rfl
@[simp] theorem State.setOsd_conv (x : Osd) : (s.setOsd x).conv = s.conv := rfl
@[simp] theorem State.setOsd_badger (x : Osd) : (s.setOsd x).badger = s.badger := rfl
@[simp] theorem State.setOsd_marten (x : Osd) : (s.setOsd x).marten = s.marten := rfl
@[simp] theorem State.setOsd_gates (x : Osd) : (s.setOsd x).gates = s.gates := rfl
@[simp] theorem State.setOsd_scg (x : Osd) : (s.setOsd x).scg = s.scg := rfl
@[simp] theorem State.setOsd_osd (x : Osd) : (s.setOsd x).osd = x := rfl
@[simp] theorem State.setOsd_kcp (x : Osd) : (s.setOsd x).kcp = s.kcp := rfl
@[simp] theorem State.setOsd_modes (x : Osd) : (s.setOsd x).modes = s.modes := rfl
@[simp] theorem State.setOsd_act (x : Osd) : (s.setOsd x).act = s.act := rfl
@[simp] theorem State.setOsd_pos (x : Osd) : (s.setOsd x).pos = s.pos := rfl
@[simp] theorem State.setOsd_ledger (x : Osd) : (s.setOsd x).ledger = s.ledger := rfl
@[simp] theorem State.setOsd_hk (x : Osd) : (s.setOsd x).hk = s.hk := rfl
@[simp] theorem State.setOsd_sc (x : Osd) : (s.setOsd x).sc = s.sc := rfl
@[simp] theorem State.setOsd_scc (x : Osd) : (s.setOsd x).scc = s.scc := rfl
@[simp] theorem State.setOsd_dma (x : Osd) : (s.setOsd x).dma = s.dma := rfl
@[simp] theorem State.setOsd_can (x : Osd) : (s.setOsd x).can = s.can := rfl
@[simp] theorem State.setOsd_canTm (x : Osd) : (s.setOsd x).canTm = s.canTm := rfl
@[simp] theorem State.setOsd_eth (x : Osd) : (s.setOsd x).eth = s.eth := rfl
@[simp] theorem State.setOsd_asl (x : Osd) : (s.setOsd x).asl = s.asl := rfl
@[simp] theorem State.setOsd_sup (x : Osd) : (s.setOsd x).sup = s.sup := rfl
@[simp] theorem State.setOsd_start (x : Osd) : (s.setOsd x).start = s.start := rfl
@[simp] theorem State.setOsd_rd (x : Osd) : (s.setOsd x).rd r = s.rd r := rfl
@[simp] theorem State.setOsd_get (x : Osd) : (s.setOsd x).get f = s.get f := rfl
@[simp] theorem State.setOsd_is (x : Osd) : (s.setOsd x).is f = s.is f := rfl
@[simp] theorem State.setOsd_bit (x : Osd) : (s.setOsd x).bit f i = s.bit f i := rfl

@[simp] theorem State.setPosBlk_pending (x : PosBlk) : (s.setPosBlk x).pending = s.pending := rfl
@[simp] theorem State.setPosBlk_order (x : PosBlk) : (s.setPosBlk x).order = s.order := rfl
@[simp] theorem State.setPosBlk_regs (x : PosBlk) : (s.setPosBlk x).regs = s.regs := rfl
@[simp] theorem State.setPosBlk_mem (x : PosBlk) : (s.setPosBlk x).mem = s.mem := rfl
@[simp] theorem State.setPosBlk_fresh (x : PosBlk) : (s.setPosBlk x).fresh = s.fresh := rfl
@[simp] theorem State.setPosBlk_clk (x : PosBlk) : (s.setPosBlk x).clk = s.clk := rfl
@[simp] theorem State.setPosBlk_cyc (x : PosBlk) : (s.setPosBlk x).cyc = s.cyc := rfl
@[simp] theorem State.setPosBlk_evl (x : PosBlk) : (s.setPosBlk x).evl = s.evl := rfl
@[simp] theorem State.setPosBlk_irqs (x : PosBlk) : (s.setPosBlk x).irqs = s.irqs := rfl
@[simp] theorem State.setPosBlk_pwm (x : PosBlk) : (s.setPosBlk x).pwm = s.pwm := rfl
@[simp] theorem State.setPosBlk_on (x : PosBlk) : (s.setPosBlk x).on = s.on := rfl
@[simp] theorem State.setPosBlk_pllA (x : PosBlk) : (s.setPosBlk x).pllA = s.pllA := rfl
@[simp] theorem State.setPosBlk_pllB (x : PosBlk) : (s.setPosBlk x).pllB = s.pllB := rfl
@[simp] theorem State.setPosBlk_busErr (x : PosBlk) : (s.setPosBlk x).busErr = s.busErr := rfl
@[simp] theorem State.setPosBlk_mramW (x : PosBlk) : (s.setPosBlk x).mramW = s.mramW := rfl
@[simp] theorem State.setPosBlk_tbLatch (x : PosBlk) : (s.setPosBlk x).tbLatch = s.tbLatch := rfl
@[simp] theorem State.setPosBlk_ce (x : PosBlk) : (s.setPosBlk x).ce = s.ce := rfl
@[simp] theorem State.setPosBlk_fox (x : PosBlk) : (s.setPosBlk x).fox = s.fox := rfl
@[simp] theorem State.setPosBlk_conv (x : PosBlk) : (s.setPosBlk x).conv = s.conv := rfl
@[simp] theorem State.setPosBlk_badger (x : PosBlk) : (s.setPosBlk x).badger = s.badger := rfl
@[simp] theorem State.setPosBlk_marten (x : PosBlk) : (s.setPosBlk x).marten = s.marten := rfl
@[simp] theorem State.setPosBlk_gates (x : PosBlk) : (s.setPosBlk x).gates = s.gates := rfl
@[simp] theorem State.setPosBlk_scg (x : PosBlk) : (s.setPosBlk x).scg = s.scg := rfl
@[simp] theorem State.setPosBlk_osd (x : PosBlk) : (s.setPosBlk x).osd = s.osd := rfl
@[simp] theorem State.setPosBlk_kcp (x : PosBlk) : (s.setPosBlk x).kcp = s.kcp := rfl
@[simp] theorem State.setPosBlk_modes (x : PosBlk) : (s.setPosBlk x).modes = s.modes := rfl
@[simp] theorem State.setPosBlk_act (x : PosBlk) : (s.setPosBlk x).act = s.act := rfl
@[simp] theorem State.setPosBlk_pos (x : PosBlk) : (s.setPosBlk x).pos = x := rfl
@[simp] theorem State.setPosBlk_ledger (x : PosBlk) : (s.setPosBlk x).ledger = s.ledger := rfl
@[simp] theorem State.setPosBlk_hk (x : PosBlk) : (s.setPosBlk x).hk = s.hk := rfl
@[simp] theorem State.setPosBlk_sc (x : PosBlk) : (s.setPosBlk x).sc = s.sc := rfl
@[simp] theorem State.setPosBlk_scc (x : PosBlk) : (s.setPosBlk x).scc = s.scc := rfl
@[simp] theorem State.setPosBlk_dma (x : PosBlk) : (s.setPosBlk x).dma = s.dma := rfl
@[simp] theorem State.setPosBlk_can (x : PosBlk) : (s.setPosBlk x).can = s.can := rfl
@[simp] theorem State.setPosBlk_canTm (x : PosBlk) : (s.setPosBlk x).canTm = s.canTm := rfl
@[simp] theorem State.setPosBlk_eth (x : PosBlk) : (s.setPosBlk x).eth = s.eth := rfl
@[simp] theorem State.setPosBlk_asl (x : PosBlk) : (s.setPosBlk x).asl = s.asl := rfl
@[simp] theorem State.setPosBlk_sup (x : PosBlk) : (s.setPosBlk x).sup = s.sup := rfl
@[simp] theorem State.setPosBlk_start (x : PosBlk) : (s.setPosBlk x).start = s.start := rfl
@[simp] theorem State.setPosBlk_rd (x : PosBlk) : (s.setPosBlk x).rd r = s.rd r := rfl
@[simp] theorem State.setPosBlk_get (x : PosBlk) : (s.setPosBlk x).get f = s.get f := rfl
@[simp] theorem State.setPosBlk_is (x : PosBlk) : (s.setPosBlk x).is f = s.is f := rfl
@[simp] theorem State.setPosBlk_bit (x : PosBlk) : (s.setPosBlk x).bit f i = s.bit f i := rfl

@[simp] theorem State.setLedger_pending (x : Ledger) : (s.setLedger x).pending = s.pending := rfl
@[simp] theorem State.setLedger_order (x : Ledger) : (s.setLedger x).order = s.order := rfl
@[simp] theorem State.setLedger_regs (x : Ledger) : (s.setLedger x).regs = s.regs := rfl
@[simp] theorem State.setLedger_mem (x : Ledger) : (s.setLedger x).mem = s.mem := rfl
@[simp] theorem State.setLedger_fresh (x : Ledger) : (s.setLedger x).fresh = s.fresh := rfl
@[simp] theorem State.setLedger_clk (x : Ledger) : (s.setLedger x).clk = s.clk := rfl
@[simp] theorem State.setLedger_cyc (x : Ledger) : (s.setLedger x).cyc = s.cyc := rfl
@[simp] theorem State.setLedger_evl (x : Ledger) : (s.setLedger x).evl = s.evl := rfl
@[simp] theorem State.setLedger_irqs (x : Ledger) : (s.setLedger x).irqs = s.irqs := rfl
@[simp] theorem State.setLedger_pwm (x : Ledger) : (s.setLedger x).pwm = s.pwm := rfl
@[simp] theorem State.setLedger_on (x : Ledger) : (s.setLedger x).on = s.on := rfl
@[simp] theorem State.setLedger_pllA (x : Ledger) : (s.setLedger x).pllA = s.pllA := rfl
@[simp] theorem State.setLedger_pllB (x : Ledger) : (s.setLedger x).pllB = s.pllB := rfl
@[simp] theorem State.setLedger_busErr (x : Ledger) : (s.setLedger x).busErr = s.busErr := rfl
@[simp] theorem State.setLedger_mramW (x : Ledger) : (s.setLedger x).mramW = s.mramW := rfl
@[simp] theorem State.setLedger_tbLatch (x : Ledger) : (s.setLedger x).tbLatch = s.tbLatch := rfl
@[simp] theorem State.setLedger_ce (x : Ledger) : (s.setLedger x).ce = s.ce := rfl
@[simp] theorem State.setLedger_fox (x : Ledger) : (s.setLedger x).fox = s.fox := rfl
@[simp] theorem State.setLedger_conv (x : Ledger) : (s.setLedger x).conv = s.conv := rfl
@[simp] theorem State.setLedger_badger (x : Ledger) : (s.setLedger x).badger = s.badger := rfl
@[simp] theorem State.setLedger_marten (x : Ledger) : (s.setLedger x).marten = s.marten := rfl
@[simp] theorem State.setLedger_gates (x : Ledger) : (s.setLedger x).gates = s.gates := rfl
@[simp] theorem State.setLedger_scg (x : Ledger) : (s.setLedger x).scg = s.scg := rfl
@[simp] theorem State.setLedger_osd (x : Ledger) : (s.setLedger x).osd = s.osd := rfl
@[simp] theorem State.setLedger_kcp (x : Ledger) : (s.setLedger x).kcp = s.kcp := rfl
@[simp] theorem State.setLedger_modes (x : Ledger) : (s.setLedger x).modes = s.modes := rfl
@[simp] theorem State.setLedger_act (x : Ledger) : (s.setLedger x).act = s.act := rfl
@[simp] theorem State.setLedger_pos (x : Ledger) : (s.setLedger x).pos = s.pos := rfl
@[simp] theorem State.setLedger_ledger (x : Ledger) : (s.setLedger x).ledger = x := rfl
@[simp] theorem State.setLedger_hk (x : Ledger) : (s.setLedger x).hk = s.hk := rfl
@[simp] theorem State.setLedger_sc (x : Ledger) : (s.setLedger x).sc = s.sc := rfl
@[simp] theorem State.setLedger_scc (x : Ledger) : (s.setLedger x).scc = s.scc := rfl
@[simp] theorem State.setLedger_dma (x : Ledger) : (s.setLedger x).dma = s.dma := rfl
@[simp] theorem State.setLedger_can (x : Ledger) : (s.setLedger x).can = s.can := rfl
@[simp] theorem State.setLedger_canTm (x : Ledger) : (s.setLedger x).canTm = s.canTm := rfl
@[simp] theorem State.setLedger_eth (x : Ledger) : (s.setLedger x).eth = s.eth := rfl
@[simp] theorem State.setLedger_asl (x : Ledger) : (s.setLedger x).asl = s.asl := rfl
@[simp] theorem State.setLedger_sup (x : Ledger) : (s.setLedger x).sup = s.sup := rfl
@[simp] theorem State.setLedger_start (x : Ledger) : (s.setLedger x).start = s.start := rfl
@[simp] theorem State.setLedger_rd (x : Ledger) : (s.setLedger x).rd r = s.rd r := rfl
@[simp] theorem State.setLedger_get (x : Ledger) : (s.setLedger x).get f = s.get f := rfl
@[simp] theorem State.setLedger_is (x : Ledger) : (s.setLedger x).is f = s.is f := rfl
@[simp] theorem State.setLedger_bit (x : Ledger) : (s.setLedger x).bit f i = s.bit f i := rfl

@[simp] theorem State.setHk_pending (x : Hk) : (s.setHk x).pending = s.pending := rfl
@[simp] theorem State.setHk_order (x : Hk) : (s.setHk x).order = s.order := rfl
@[simp] theorem State.setHk_regs (x : Hk) : (s.setHk x).regs = s.regs := rfl
@[simp] theorem State.setHk_mem (x : Hk) : (s.setHk x).mem = s.mem := rfl
@[simp] theorem State.setHk_fresh (x : Hk) : (s.setHk x).fresh = s.fresh := rfl
@[simp] theorem State.setHk_clk (x : Hk) : (s.setHk x).clk = s.clk := rfl
@[simp] theorem State.setHk_cyc (x : Hk) : (s.setHk x).cyc = s.cyc := rfl
@[simp] theorem State.setHk_evl (x : Hk) : (s.setHk x).evl = s.evl := rfl
@[simp] theorem State.setHk_irqs (x : Hk) : (s.setHk x).irqs = s.irqs := rfl
@[simp] theorem State.setHk_pwm (x : Hk) : (s.setHk x).pwm = s.pwm := rfl
@[simp] theorem State.setHk_on (x : Hk) : (s.setHk x).on = s.on := rfl
@[simp] theorem State.setHk_pllA (x : Hk) : (s.setHk x).pllA = s.pllA := rfl
@[simp] theorem State.setHk_pllB (x : Hk) : (s.setHk x).pllB = s.pllB := rfl
@[simp] theorem State.setHk_busErr (x : Hk) : (s.setHk x).busErr = s.busErr := rfl
@[simp] theorem State.setHk_mramW (x : Hk) : (s.setHk x).mramW = s.mramW := rfl
@[simp] theorem State.setHk_tbLatch (x : Hk) : (s.setHk x).tbLatch = s.tbLatch := rfl
@[simp] theorem State.setHk_ce (x : Hk) : (s.setHk x).ce = s.ce := rfl
@[simp] theorem State.setHk_fox (x : Hk) : (s.setHk x).fox = s.fox := rfl
@[simp] theorem State.setHk_conv (x : Hk) : (s.setHk x).conv = s.conv := rfl
@[simp] theorem State.setHk_badger (x : Hk) : (s.setHk x).badger = s.badger := rfl
@[simp] theorem State.setHk_marten (x : Hk) : (s.setHk x).marten = s.marten := rfl
@[simp] theorem State.setHk_gates (x : Hk) : (s.setHk x).gates = s.gates := rfl
@[simp] theorem State.setHk_scg (x : Hk) : (s.setHk x).scg = s.scg := rfl
@[simp] theorem State.setHk_osd (x : Hk) : (s.setHk x).osd = s.osd := rfl
@[simp] theorem State.setHk_kcp (x : Hk) : (s.setHk x).kcp = s.kcp := rfl
@[simp] theorem State.setHk_modes (x : Hk) : (s.setHk x).modes = s.modes := rfl
@[simp] theorem State.setHk_act (x : Hk) : (s.setHk x).act = s.act := rfl
@[simp] theorem State.setHk_pos (x : Hk) : (s.setHk x).pos = s.pos := rfl
@[simp] theorem State.setHk_ledger (x : Hk) : (s.setHk x).ledger = s.ledger := rfl
@[simp] theorem State.setHk_hk (x : Hk) : (s.setHk x).hk = x := rfl
@[simp] theorem State.setHk_sc (x : Hk) : (s.setHk x).sc = s.sc := rfl
@[simp] theorem State.setHk_scc (x : Hk) : (s.setHk x).scc = s.scc := rfl
@[simp] theorem State.setHk_dma (x : Hk) : (s.setHk x).dma = s.dma := rfl
@[simp] theorem State.setHk_can (x : Hk) : (s.setHk x).can = s.can := rfl
@[simp] theorem State.setHk_canTm (x : Hk) : (s.setHk x).canTm = s.canTm := rfl
@[simp] theorem State.setHk_eth (x : Hk) : (s.setHk x).eth = s.eth := rfl
@[simp] theorem State.setHk_asl (x : Hk) : (s.setHk x).asl = s.asl := rfl
@[simp] theorem State.setHk_sup (x : Hk) : (s.setHk x).sup = s.sup := rfl
@[simp] theorem State.setHk_start (x : Hk) : (s.setHk x).start = s.start := rfl
@[simp] theorem State.setHk_rd (x : Hk) : (s.setHk x).rd r = s.rd r := rfl
@[simp] theorem State.setHk_get (x : Hk) : (s.setHk x).get f = s.get f := rfl
@[simp] theorem State.setHk_is (x : Hk) : (s.setHk x).is f = s.is f := rfl
@[simp] theorem State.setHk_bit (x : Hk) : (s.setHk x).bit f i = s.bit f i := rfl

@[simp] theorem State.setDma_pending (x : Dma) : (s.setDma x).pending = s.pending := rfl
@[simp] theorem State.setDma_order (x : Dma) : (s.setDma x).order = s.order := rfl
@[simp] theorem State.setDma_regs (x : Dma) : (s.setDma x).regs = s.regs := rfl
@[simp] theorem State.setDma_mem (x : Dma) : (s.setDma x).mem = s.mem := rfl
@[simp] theorem State.setDma_fresh (x : Dma) : (s.setDma x).fresh = s.fresh := rfl
@[simp] theorem State.setDma_clk (x : Dma) : (s.setDma x).clk = s.clk := rfl
@[simp] theorem State.setDma_cyc (x : Dma) : (s.setDma x).cyc = s.cyc := rfl
@[simp] theorem State.setDma_evl (x : Dma) : (s.setDma x).evl = s.evl := rfl
@[simp] theorem State.setDma_irqs (x : Dma) : (s.setDma x).irqs = s.irqs := rfl
@[simp] theorem State.setDma_pwm (x : Dma) : (s.setDma x).pwm = s.pwm := rfl
@[simp] theorem State.setDma_on (x : Dma) : (s.setDma x).on = s.on := rfl
@[simp] theorem State.setDma_pllA (x : Dma) : (s.setDma x).pllA = s.pllA := rfl
@[simp] theorem State.setDma_pllB (x : Dma) : (s.setDma x).pllB = s.pllB := rfl
@[simp] theorem State.setDma_busErr (x : Dma) : (s.setDma x).busErr = s.busErr := rfl
@[simp] theorem State.setDma_mramW (x : Dma) : (s.setDma x).mramW = s.mramW := rfl
@[simp] theorem State.setDma_tbLatch (x : Dma) : (s.setDma x).tbLatch = s.tbLatch := rfl
@[simp] theorem State.setDma_ce (x : Dma) : (s.setDma x).ce = s.ce := rfl
@[simp] theorem State.setDma_fox (x : Dma) : (s.setDma x).fox = s.fox := rfl
@[simp] theorem State.setDma_conv (x : Dma) : (s.setDma x).conv = s.conv := rfl
@[simp] theorem State.setDma_badger (x : Dma) : (s.setDma x).badger = s.badger := rfl
@[simp] theorem State.setDma_marten (x : Dma) : (s.setDma x).marten = s.marten := rfl
@[simp] theorem State.setDma_gates (x : Dma) : (s.setDma x).gates = s.gates := rfl
@[simp] theorem State.setDma_scg (x : Dma) : (s.setDma x).scg = s.scg := rfl
@[simp] theorem State.setDma_osd (x : Dma) : (s.setDma x).osd = s.osd := rfl
@[simp] theorem State.setDma_kcp (x : Dma) : (s.setDma x).kcp = s.kcp := rfl
@[simp] theorem State.setDma_modes (x : Dma) : (s.setDma x).modes = s.modes := rfl
@[simp] theorem State.setDma_act (x : Dma) : (s.setDma x).act = s.act := rfl
@[simp] theorem State.setDma_pos (x : Dma) : (s.setDma x).pos = s.pos := rfl
@[simp] theorem State.setDma_ledger (x : Dma) : (s.setDma x).ledger = s.ledger := rfl
@[simp] theorem State.setDma_hk (x : Dma) : (s.setDma x).hk = s.hk := rfl
@[simp] theorem State.setDma_sc (x : Dma) : (s.setDma x).sc = s.sc := rfl
@[simp] theorem State.setDma_scc (x : Dma) : (s.setDma x).scc = s.scc := rfl
@[simp] theorem State.setDma_dma (x : Dma) : (s.setDma x).dma = x := rfl
@[simp] theorem State.setDma_can (x : Dma) : (s.setDma x).can = s.can := rfl
@[simp] theorem State.setDma_canTm (x : Dma) : (s.setDma x).canTm = s.canTm := rfl
@[simp] theorem State.setDma_eth (x : Dma) : (s.setDma x).eth = s.eth := rfl
@[simp] theorem State.setDma_asl (x : Dma) : (s.setDma x).asl = s.asl := rfl
@[simp] theorem State.setDma_sup (x : Dma) : (s.setDma x).sup = s.sup := rfl
@[simp] theorem State.setDma_start (x : Dma) : (s.setDma x).start = s.start := rfl
@[simp] theorem State.setDma_rd (x : Dma) : (s.setDma x).rd r = s.rd r := rfl
@[simp] theorem State.setDma_get (x : Dma) : (s.setDma x).get f = s.get f := rfl
@[simp] theorem State.setDma_is (x : Dma) : (s.setDma x).is f = s.is f := rfl
@[simp] theorem State.setDma_bit (x : Dma) : (s.setDma x).bit f i = s.bit f i := rfl

@[simp] theorem State.setCanTm_pending (x : CanTm) : (s.setCanTm x).pending = s.pending := rfl
@[simp] theorem State.setCanTm_order (x : CanTm) : (s.setCanTm x).order = s.order := rfl
@[simp] theorem State.setCanTm_regs (x : CanTm) : (s.setCanTm x).regs = s.regs := rfl
@[simp] theorem State.setCanTm_mem (x : CanTm) : (s.setCanTm x).mem = s.mem := rfl
@[simp] theorem State.setCanTm_fresh (x : CanTm) : (s.setCanTm x).fresh = s.fresh := rfl
@[simp] theorem State.setCanTm_clk (x : CanTm) : (s.setCanTm x).clk = s.clk := rfl
@[simp] theorem State.setCanTm_cyc (x : CanTm) : (s.setCanTm x).cyc = s.cyc := rfl
@[simp] theorem State.setCanTm_evl (x : CanTm) : (s.setCanTm x).evl = s.evl := rfl
@[simp] theorem State.setCanTm_irqs (x : CanTm) : (s.setCanTm x).irqs = s.irqs := rfl
@[simp] theorem State.setCanTm_pwm (x : CanTm) : (s.setCanTm x).pwm = s.pwm := rfl
@[simp] theorem State.setCanTm_on (x : CanTm) : (s.setCanTm x).on = s.on := rfl
@[simp] theorem State.setCanTm_pllA (x : CanTm) : (s.setCanTm x).pllA = s.pllA := rfl
@[simp] theorem State.setCanTm_pllB (x : CanTm) : (s.setCanTm x).pllB = s.pllB := rfl
@[simp] theorem State.setCanTm_busErr (x : CanTm) : (s.setCanTm x).busErr = s.busErr := rfl
@[simp] theorem State.setCanTm_mramW (x : CanTm) : (s.setCanTm x).mramW = s.mramW := rfl
@[simp] theorem State.setCanTm_tbLatch (x : CanTm) : (s.setCanTm x).tbLatch = s.tbLatch := rfl
@[simp] theorem State.setCanTm_ce (x : CanTm) : (s.setCanTm x).ce = s.ce := rfl
@[simp] theorem State.setCanTm_fox (x : CanTm) : (s.setCanTm x).fox = s.fox := rfl
@[simp] theorem State.setCanTm_conv (x : CanTm) : (s.setCanTm x).conv = s.conv := rfl
@[simp] theorem State.setCanTm_badger (x : CanTm) : (s.setCanTm x).badger = s.badger := rfl
@[simp] theorem State.setCanTm_marten (x : CanTm) : (s.setCanTm x).marten = s.marten := rfl
@[simp] theorem State.setCanTm_gates (x : CanTm) : (s.setCanTm x).gates = s.gates := rfl
@[simp] theorem State.setCanTm_scg (x : CanTm) : (s.setCanTm x).scg = s.scg := rfl
@[simp] theorem State.setCanTm_osd (x : CanTm) : (s.setCanTm x).osd = s.osd := rfl
@[simp] theorem State.setCanTm_kcp (x : CanTm) : (s.setCanTm x).kcp = s.kcp := rfl
@[simp] theorem State.setCanTm_modes (x : CanTm) : (s.setCanTm x).modes = s.modes := rfl
@[simp] theorem State.setCanTm_act (x : CanTm) : (s.setCanTm x).act = s.act := rfl
@[simp] theorem State.setCanTm_pos (x : CanTm) : (s.setCanTm x).pos = s.pos := rfl
@[simp] theorem State.setCanTm_ledger (x : CanTm) : (s.setCanTm x).ledger = s.ledger := rfl
@[simp] theorem State.setCanTm_hk (x : CanTm) : (s.setCanTm x).hk = s.hk := rfl
@[simp] theorem State.setCanTm_sc (x : CanTm) : (s.setCanTm x).sc = s.sc := rfl
@[simp] theorem State.setCanTm_scc (x : CanTm) : (s.setCanTm x).scc = s.scc := rfl
@[simp] theorem State.setCanTm_dma (x : CanTm) : (s.setCanTm x).dma = s.dma := rfl
@[simp] theorem State.setCanTm_can (x : CanTm) : (s.setCanTm x).can = s.can := rfl
@[simp] theorem State.setCanTm_canTm (x : CanTm) : (s.setCanTm x).canTm = x := rfl
@[simp] theorem State.setCanTm_eth (x : CanTm) : (s.setCanTm x).eth = s.eth := rfl
@[simp] theorem State.setCanTm_asl (x : CanTm) : (s.setCanTm x).asl = s.asl := rfl
@[simp] theorem State.setCanTm_sup (x : CanTm) : (s.setCanTm x).sup = s.sup := rfl
@[simp] theorem State.setCanTm_start (x : CanTm) : (s.setCanTm x).start = s.start := rfl
@[simp] theorem State.setCanTm_rd (x : CanTm) : (s.setCanTm x).rd r = s.rd r := rfl
@[simp] theorem State.setCanTm_get (x : CanTm) : (s.setCanTm x).get f = s.get f := rfl
@[simp] theorem State.setCanTm_is (x : CanTm) : (s.setCanTm x).is f = s.is f := rfl
@[simp] theorem State.setCanTm_bit (x : CanTm) : (s.setCanTm x).bit f i = s.bit f i := rfl

@[simp] theorem State.setEth_pending (x : Eth) : (s.setEth x).pending = s.pending := rfl
@[simp] theorem State.setEth_order (x : Eth) : (s.setEth x).order = s.order := rfl
@[simp] theorem State.setEth_regs (x : Eth) : (s.setEth x).regs = s.regs := rfl
@[simp] theorem State.setEth_mem (x : Eth) : (s.setEth x).mem = s.mem := rfl
@[simp] theorem State.setEth_fresh (x : Eth) : (s.setEth x).fresh = s.fresh := rfl
@[simp] theorem State.setEth_clk (x : Eth) : (s.setEth x).clk = s.clk := rfl
@[simp] theorem State.setEth_cyc (x : Eth) : (s.setEth x).cyc = s.cyc := rfl
@[simp] theorem State.setEth_evl (x : Eth) : (s.setEth x).evl = s.evl := rfl
@[simp] theorem State.setEth_irqs (x : Eth) : (s.setEth x).irqs = s.irqs := rfl
@[simp] theorem State.setEth_pwm (x : Eth) : (s.setEth x).pwm = s.pwm := rfl
@[simp] theorem State.setEth_on (x : Eth) : (s.setEth x).on = s.on := rfl
@[simp] theorem State.setEth_pllA (x : Eth) : (s.setEth x).pllA = s.pllA := rfl
@[simp] theorem State.setEth_pllB (x : Eth) : (s.setEth x).pllB = s.pllB := rfl
@[simp] theorem State.setEth_busErr (x : Eth) : (s.setEth x).busErr = s.busErr := rfl
@[simp] theorem State.setEth_mramW (x : Eth) : (s.setEth x).mramW = s.mramW := rfl
@[simp] theorem State.setEth_tbLatch (x : Eth) : (s.setEth x).tbLatch = s.tbLatch := rfl
@[simp] theorem State.setEth_ce (x : Eth) : (s.setEth x).ce = s.ce := rfl
@[simp] theorem State.setEth_fox (x : Eth) : (s.setEth x).fox = s.fox := rfl
@[simp] theorem State.setEth_conv (x : Eth) : (s.setEth x).conv = s.conv := rfl
@[simp] theorem State.setEth_badger (x : Eth) : (s.setEth x).badger = s.badger := rfl
@[simp] theorem State.setEth_marten (x : Eth) : (s.setEth x).marten = s.marten := rfl
@[simp] theorem State.setEth_gates (x : Eth) : (s.setEth x).gates = s.gates := rfl
@[simp] theorem State.setEth_scg (x : Eth) : (s.setEth x).scg = s.scg := rfl
@[simp] theorem State.setEth_osd (x : Eth) : (s.setEth x).osd = s.osd := rfl
@[simp] theorem State.setEth_kcp (x : Eth) : (s.setEth x).kcp = s.kcp := rfl
@[simp] theorem State.setEth_modes (x : Eth) : (s.setEth x).modes = s.modes := rfl
@[simp] theorem State.setEth_act (x : Eth) : (s.setEth x).act = s.act := rfl
@[simp] theorem State.setEth_pos (x : Eth) : (s.setEth x).pos = s.pos := rfl
@[simp] theorem State.setEth_ledger (x : Eth) : (s.setEth x).ledger = s.ledger := rfl
@[simp] theorem State.setEth_hk (x : Eth) : (s.setEth x).hk = s.hk := rfl
@[simp] theorem State.setEth_sc (x : Eth) : (s.setEth x).sc = s.sc := rfl
@[simp] theorem State.setEth_scc (x : Eth) : (s.setEth x).scc = s.scc := rfl
@[simp] theorem State.setEth_dma (x : Eth) : (s.setEth x).dma = s.dma := rfl
@[simp] theorem State.setEth_can (x : Eth) : (s.setEth x).can = s.can := rfl
@[simp] theorem State.setEth_canTm (x : Eth) : (s.setEth x).canTm = s.canTm := rfl
@[simp] theorem State.setEth_eth (x : Eth) : (s.setEth x).eth = x := rfl
@[simp] theorem State.setEth_asl (x : Eth) : (s.setEth x).asl = s.asl := rfl
@[simp] theorem State.setEth_sup (x : Eth) : (s.setEth x).sup = s.sup := rfl
@[simp] theorem State.setEth_start (x : Eth) : (s.setEth x).start = s.start := rfl
@[simp] theorem State.setEth_rd (x : Eth) : (s.setEth x).rd r = s.rd r := rfl
@[simp] theorem State.setEth_get (x : Eth) : (s.setEth x).get f = s.get f := rfl
@[simp] theorem State.setEth_is (x : Eth) : (s.setEth x).is f = s.is f := rfl
@[simp] theorem State.setEth_bit (x : Eth) : (s.setEth x).bit f i = s.bit f i := rfl

@[simp] theorem State.setAsl_pending (x : Asl) : (s.setAsl x).pending = s.pending := rfl
@[simp] theorem State.setAsl_order (x : Asl) : (s.setAsl x).order = s.order := rfl
@[simp] theorem State.setAsl_regs (x : Asl) : (s.setAsl x).regs = s.regs := rfl
@[simp] theorem State.setAsl_mem (x : Asl) : (s.setAsl x).mem = s.mem := rfl
@[simp] theorem State.setAsl_fresh (x : Asl) : (s.setAsl x).fresh = s.fresh := rfl
@[simp] theorem State.setAsl_clk (x : Asl) : (s.setAsl x).clk = s.clk := rfl
@[simp] theorem State.setAsl_cyc (x : Asl) : (s.setAsl x).cyc = s.cyc := rfl
@[simp] theorem State.setAsl_evl (x : Asl) : (s.setAsl x).evl = s.evl := rfl
@[simp] theorem State.setAsl_irqs (x : Asl) : (s.setAsl x).irqs = s.irqs := rfl
@[simp] theorem State.setAsl_pwm (x : Asl) : (s.setAsl x).pwm = s.pwm := rfl
@[simp] theorem State.setAsl_on (x : Asl) : (s.setAsl x).on = s.on := rfl
@[simp] theorem State.setAsl_pllA (x : Asl) : (s.setAsl x).pllA = s.pllA := rfl
@[simp] theorem State.setAsl_pllB (x : Asl) : (s.setAsl x).pllB = s.pllB := rfl
@[simp] theorem State.setAsl_busErr (x : Asl) : (s.setAsl x).busErr = s.busErr := rfl
@[simp] theorem State.setAsl_mramW (x : Asl) : (s.setAsl x).mramW = s.mramW := rfl
@[simp] theorem State.setAsl_tbLatch (x : Asl) : (s.setAsl x).tbLatch = s.tbLatch := rfl
@[simp] theorem State.setAsl_ce (x : Asl) : (s.setAsl x).ce = s.ce := rfl
@[simp] theorem State.setAsl_fox (x : Asl) : (s.setAsl x).fox = s.fox := rfl
@[simp] theorem State.setAsl_conv (x : Asl) : (s.setAsl x).conv = s.conv := rfl
@[simp] theorem State.setAsl_badger (x : Asl) : (s.setAsl x).badger = s.badger := rfl
@[simp] theorem State.setAsl_marten (x : Asl) : (s.setAsl x).marten = s.marten := rfl
@[simp] theorem State.setAsl_gates (x : Asl) : (s.setAsl x).gates = s.gates := rfl
@[simp] theorem State.setAsl_scg (x : Asl) : (s.setAsl x).scg = s.scg := rfl
@[simp] theorem State.setAsl_osd (x : Asl) : (s.setAsl x).osd = s.osd := rfl
@[simp] theorem State.setAsl_kcp (x : Asl) : (s.setAsl x).kcp = s.kcp := rfl
@[simp] theorem State.setAsl_modes (x : Asl) : (s.setAsl x).modes = s.modes := rfl
@[simp] theorem State.setAsl_act (x : Asl) : (s.setAsl x).act = s.act := rfl
@[simp] theorem State.setAsl_pos (x : Asl) : (s.setAsl x).pos = s.pos := rfl
@[simp] theorem State.setAsl_ledger (x : Asl) : (s.setAsl x).ledger = s.ledger := rfl
@[simp] theorem State.setAsl_hk (x : Asl) : (s.setAsl x).hk = s.hk := rfl
@[simp] theorem State.setAsl_sc (x : Asl) : (s.setAsl x).sc = s.sc := rfl
@[simp] theorem State.setAsl_scc (x : Asl) : (s.setAsl x).scc = s.scc := rfl
@[simp] theorem State.setAsl_dma (x : Asl) : (s.setAsl x).dma = s.dma := rfl
@[simp] theorem State.setAsl_can (x : Asl) : (s.setAsl x).can = s.can := rfl
@[simp] theorem State.setAsl_canTm (x : Asl) : (s.setAsl x).canTm = s.canTm := rfl
@[simp] theorem State.setAsl_eth (x : Asl) : (s.setAsl x).eth = s.eth := rfl
@[simp] theorem State.setAsl_asl (x : Asl) : (s.setAsl x).asl = x := rfl
@[simp] theorem State.setAsl_sup (x : Asl) : (s.setAsl x).sup = s.sup := rfl
@[simp] theorem State.setAsl_start (x : Asl) : (s.setAsl x).start = s.start := rfl
@[simp] theorem State.setAsl_rd (x : Asl) : (s.setAsl x).rd r = s.rd r := rfl
@[simp] theorem State.setAsl_get (x : Asl) : (s.setAsl x).get f = s.get f := rfl
@[simp] theorem State.setAsl_is (x : Asl) : (s.setAsl x).is f = s.is f := rfl
@[simp] theorem State.setAsl_bit (x : Asl) : (s.setAsl x).bit f i = s.bit f i := rfl

@[simp] theorem State.setSup_pending (x : Supply) : (s.setSup x).pending = s.pending := rfl
@[simp] theorem State.setSup_order (x : Supply) : (s.setSup x).order = s.order := rfl
@[simp] theorem State.setSup_regs (x : Supply) : (s.setSup x).regs = s.regs := rfl
@[simp] theorem State.setSup_mem (x : Supply) : (s.setSup x).mem = s.mem := rfl
@[simp] theorem State.setSup_fresh (x : Supply) : (s.setSup x).fresh = s.fresh := rfl
@[simp] theorem State.setSup_clk (x : Supply) : (s.setSup x).clk = s.clk := rfl
@[simp] theorem State.setSup_cyc (x : Supply) : (s.setSup x).cyc = s.cyc := rfl
@[simp] theorem State.setSup_evl (x : Supply) : (s.setSup x).evl = s.evl := rfl
@[simp] theorem State.setSup_irqs (x : Supply) : (s.setSup x).irqs = s.irqs := rfl
@[simp] theorem State.setSup_pwm (x : Supply) : (s.setSup x).pwm = s.pwm := rfl
@[simp] theorem State.setSup_on (x : Supply) : (s.setSup x).on = s.on := rfl
@[simp] theorem State.setSup_pllA (x : Supply) : (s.setSup x).pllA = s.pllA := rfl
@[simp] theorem State.setSup_pllB (x : Supply) : (s.setSup x).pllB = s.pllB := rfl
@[simp] theorem State.setSup_busErr (x : Supply) : (s.setSup x).busErr = s.busErr := rfl
@[simp] theorem State.setSup_mramW (x : Supply) : (s.setSup x).mramW = s.mramW := rfl
@[simp] theorem State.setSup_tbLatch (x : Supply) : (s.setSup x).tbLatch = s.tbLatch := rfl
@[simp] theorem State.setSup_ce (x : Supply) : (s.setSup x).ce = s.ce := rfl
@[simp] theorem State.setSup_fox (x : Supply) : (s.setSup x).fox = s.fox := rfl
@[simp] theorem State.setSup_conv (x : Supply) : (s.setSup x).conv = s.conv := rfl
@[simp] theorem State.setSup_badger (x : Supply) : (s.setSup x).badger = s.badger := rfl
@[simp] theorem State.setSup_marten (x : Supply) : (s.setSup x).marten = s.marten := rfl
@[simp] theorem State.setSup_gates (x : Supply) : (s.setSup x).gates = s.gates := rfl
@[simp] theorem State.setSup_scg (x : Supply) : (s.setSup x).scg = s.scg := rfl
@[simp] theorem State.setSup_osd (x : Supply) : (s.setSup x).osd = s.osd := rfl
@[simp] theorem State.setSup_kcp (x : Supply) : (s.setSup x).kcp = s.kcp := rfl
@[simp] theorem State.setSup_modes (x : Supply) : (s.setSup x).modes = s.modes := rfl
@[simp] theorem State.setSup_act (x : Supply) : (s.setSup x).act = s.act := rfl
@[simp] theorem State.setSup_pos (x : Supply) : (s.setSup x).pos = s.pos := rfl
@[simp] theorem State.setSup_ledger (x : Supply) : (s.setSup x).ledger = s.ledger := rfl
@[simp] theorem State.setSup_hk (x : Supply) : (s.setSup x).hk = s.hk := rfl
@[simp] theorem State.setSup_sc (x : Supply) : (s.setSup x).sc = s.sc := rfl
@[simp] theorem State.setSup_scc (x : Supply) : (s.setSup x).scc = s.scc := rfl
@[simp] theorem State.setSup_dma (x : Supply) : (s.setSup x).dma = s.dma := rfl
@[simp] theorem State.setSup_can (x : Supply) : (s.setSup x).can = s.can := rfl
@[simp] theorem State.setSup_canTm (x : Supply) : (s.setSup x).canTm = s.canTm := rfl
@[simp] theorem State.setSup_eth (x : Supply) : (s.setSup x).eth = s.eth := rfl
@[simp] theorem State.setSup_asl (x : Supply) : (s.setSup x).asl = s.asl := rfl
@[simp] theorem State.setSup_sup (x : Supply) : (s.setSup x).sup = x := rfl
@[simp] theorem State.setSup_start (x : Supply) : (s.setSup x).start = s.start := rfl
@[simp] theorem State.setSup_rd (x : Supply) : (s.setSup x).rd r = s.rd r := rfl
@[simp] theorem State.setSup_get (x : Supply) : (s.setSup x).get f = s.get f := rfl
@[simp] theorem State.setSup_is (x : Supply) : (s.setSup x).is f = s.is f := rfl
@[simp] theorem State.setSup_bit (x : Supply) : (s.setSup x).bit f i = s.bit f i := rfl

@[simp] theorem State.setStart_pending (x : Start) : (s.setStart x).pending = s.pending := rfl
@[simp] theorem State.setStart_order (x : Start) : (s.setStart x).order = s.order := rfl
@[simp] theorem State.setStart_regs (x : Start) : (s.setStart x).regs = s.regs := rfl
@[simp] theorem State.setStart_mem (x : Start) : (s.setStart x).mem = s.mem := rfl
@[simp] theorem State.setStart_fresh (x : Start) : (s.setStart x).fresh = s.fresh := rfl
@[simp] theorem State.setStart_clk (x : Start) : (s.setStart x).clk = s.clk := rfl
@[simp] theorem State.setStart_cyc (x : Start) : (s.setStart x).cyc = s.cyc := rfl
@[simp] theorem State.setStart_evl (x : Start) : (s.setStart x).evl = s.evl := rfl
@[simp] theorem State.setStart_irqs (x : Start) : (s.setStart x).irqs = s.irqs := rfl
@[simp] theorem State.setStart_pwm (x : Start) : (s.setStart x).pwm = s.pwm := rfl
@[simp] theorem State.setStart_on (x : Start) : (s.setStart x).on = s.on := rfl
@[simp] theorem State.setStart_pllA (x : Start) : (s.setStart x).pllA = s.pllA := rfl
@[simp] theorem State.setStart_pllB (x : Start) : (s.setStart x).pllB = s.pllB := rfl
@[simp] theorem State.setStart_busErr (x : Start) : (s.setStart x).busErr = s.busErr := rfl
@[simp] theorem State.setStart_mramW (x : Start) : (s.setStart x).mramW = s.mramW := rfl
@[simp] theorem State.setStart_tbLatch (x : Start) : (s.setStart x).tbLatch = s.tbLatch := rfl
@[simp] theorem State.setStart_ce (x : Start) : (s.setStart x).ce = s.ce := rfl
@[simp] theorem State.setStart_fox (x : Start) : (s.setStart x).fox = s.fox := rfl
@[simp] theorem State.setStart_conv (x : Start) : (s.setStart x).conv = s.conv := rfl
@[simp] theorem State.setStart_badger (x : Start) : (s.setStart x).badger = s.badger := rfl
@[simp] theorem State.setStart_marten (x : Start) : (s.setStart x).marten = s.marten := rfl
@[simp] theorem State.setStart_gates (x : Start) : (s.setStart x).gates = s.gates := rfl
@[simp] theorem State.setStart_scg (x : Start) : (s.setStart x).scg = s.scg := rfl
@[simp] theorem State.setStart_osd (x : Start) : (s.setStart x).osd = s.osd := rfl
@[simp] theorem State.setStart_kcp (x : Start) : (s.setStart x).kcp = s.kcp := rfl
@[simp] theorem State.setStart_modes (x : Start) : (s.setStart x).modes = s.modes := rfl
@[simp] theorem State.setStart_act (x : Start) : (s.setStart x).act = s.act := rfl
@[simp] theorem State.setStart_pos (x : Start) : (s.setStart x).pos = s.pos := rfl
@[simp] theorem State.setStart_ledger (x : Start) : (s.setStart x).ledger = s.ledger := rfl
@[simp] theorem State.setStart_hk (x : Start) : (s.setStart x).hk = s.hk := rfl
@[simp] theorem State.setStart_sc (x : Start) : (s.setStart x).sc = s.sc := rfl
@[simp] theorem State.setStart_scc (x : Start) : (s.setStart x).scc = s.scc := rfl
@[simp] theorem State.setStart_dma (x : Start) : (s.setStart x).dma = s.dma := rfl
@[simp] theorem State.setStart_can (x : Start) : (s.setStart x).can = s.can := rfl
@[simp] theorem State.setStart_canTm (x : Start) : (s.setStart x).canTm = s.canTm := rfl
@[simp] theorem State.setStart_eth (x : Start) : (s.setStart x).eth = s.eth := rfl
@[simp] theorem State.setStart_asl (x : Start) : (s.setStart x).asl = s.asl := rfl
@[simp] theorem State.setStart_sup (x : Start) : (s.setStart x).sup = s.sup := rfl
@[simp] theorem State.setStart_start (x : Start) : (s.setStart x).start = x := rfl
@[simp] theorem State.setStart_rd (x : Start) : (s.setStart x).rd r = s.rd r := rfl
@[simp] theorem State.setStart_get (x : Start) : (s.setStart x).get f = s.get f := rfl
@[simp] theorem State.setStart_is (x : Start) : (s.setStart x).is f = s.is f := rfl
@[simp] theorem State.setStart_bit (x : Start) : (s.setStart x).bit f i = s.bit f i := rfl

@[simp] theorem State.setModes_pending (x : Modes) : (s.setModes x).pending = s.pending := rfl
@[simp] theorem State.setModes_order (x : Modes) : (s.setModes x).order = s.order := rfl
@[simp] theorem State.setModes_regs (x : Modes) : (s.setModes x).regs = s.regs := rfl
@[simp] theorem State.setModes_mem (x : Modes) : (s.setModes x).mem = s.mem := rfl
@[simp] theorem State.setModes_fresh (x : Modes) : (s.setModes x).fresh = s.fresh := rfl
@[simp] theorem State.setModes_clk (x : Modes) : (s.setModes x).clk = s.clk := rfl
@[simp] theorem State.setModes_cyc (x : Modes) : (s.setModes x).cyc = s.cyc := rfl
@[simp] theorem State.setModes_evl (x : Modes) : (s.setModes x).evl = s.evl := rfl
@[simp] theorem State.setModes_irqs (x : Modes) : (s.setModes x).irqs = s.irqs := rfl
@[simp] theorem State.setModes_pwm (x : Modes) : (s.setModes x).pwm = s.pwm := rfl
@[simp] theorem State.setModes_on (x : Modes) : (s.setModes x).on = s.on := rfl
@[simp] theorem State.setModes_pllA (x : Modes) : (s.setModes x).pllA = s.pllA := rfl
@[simp] theorem State.setModes_pllB (x : Modes) : (s.setModes x).pllB = s.pllB := rfl
@[simp] theorem State.setModes_busErr (x : Modes) : (s.setModes x).busErr = s.busErr := rfl
@[simp] theorem State.setModes_mramW (x : Modes) : (s.setModes x).mramW = s.mramW := rfl
@[simp] theorem State.setModes_tbLatch (x : Modes) : (s.setModes x).tbLatch = s.tbLatch := rfl
@[simp] theorem State.setModes_ce (x : Modes) : (s.setModes x).ce = s.ce := rfl
@[simp] theorem State.setModes_fox (x : Modes) : (s.setModes x).fox = s.fox := rfl
@[simp] theorem State.setModes_conv (x : Modes) : (s.setModes x).conv = s.conv := rfl
@[simp] theorem State.setModes_badger (x : Modes) : (s.setModes x).badger = s.badger := rfl
@[simp] theorem State.setModes_marten (x : Modes) : (s.setModes x).marten = s.marten := rfl
@[simp] theorem State.setModes_gates (x : Modes) : (s.setModes x).gates = s.gates := rfl
@[simp] theorem State.setModes_scg (x : Modes) : (s.setModes x).scg = s.scg := rfl
@[simp] theorem State.setModes_osd (x : Modes) : (s.setModes x).osd = s.osd := rfl
@[simp] theorem State.setModes_kcp (x : Modes) : (s.setModes x).kcp = s.kcp := rfl
@[simp] theorem State.setModes_modes (x : Modes) : (s.setModes x).modes = x := rfl
@[simp] theorem State.setModes_act (x : Modes) : (s.setModes x).act = s.act := rfl
@[simp] theorem State.setModes_pos (x : Modes) : (s.setModes x).pos = s.pos := rfl
@[simp] theorem State.setModes_ledger (x : Modes) : (s.setModes x).ledger = s.ledger := rfl
@[simp] theorem State.setModes_hk (x : Modes) : (s.setModes x).hk = s.hk := rfl
@[simp] theorem State.setModes_sc (x : Modes) : (s.setModes x).sc = s.sc := rfl
@[simp] theorem State.setModes_scc (x : Modes) : (s.setModes x).scc = s.scc := rfl
@[simp] theorem State.setModes_dma (x : Modes) : (s.setModes x).dma = s.dma := rfl
@[simp] theorem State.setModes_can (x : Modes) : (s.setModes x).can = s.can := rfl
@[simp] theorem State.setModes_canTm (x : Modes) : (s.setModes x).canTm = s.canTm := rfl
@[simp] theorem State.setModes_eth (x : Modes) : (s.setModes x).eth = s.eth := rfl
@[simp] theorem State.setModes_asl (x : Modes) : (s.setModes x).asl = s.asl := rfl
@[simp] theorem State.setModes_sup (x : Modes) : (s.setModes x).sup = s.sup := rfl
@[simp] theorem State.setModes_start (x : Modes) : (s.setModes x).start = s.start := rfl
@[simp] theorem State.setModes_rd (x : Modes) : (s.setModes x).rd r = s.rd r := rfl
@[simp] theorem State.setModes_get (x : Modes) : (s.setModes x).get f = s.get f := rfl
@[simp] theorem State.setModes_is (x : Modes) : (s.setModes x).is f = s.is f := rfl
@[simp] theorem State.setModes_bit (x : Modes) : (s.setModes x).bit f i = s.bit f i := rfl

@[simp] theorem State.setKcp_pending (x : Kcp) : (s.setKcp x).pending = s.pending := rfl
@[simp] theorem State.setKcp_order (x : Kcp) : (s.setKcp x).order = s.order := rfl
@[simp] theorem State.setKcp_regs (x : Kcp) : (s.setKcp x).regs = s.regs := rfl
@[simp] theorem State.setKcp_mem (x : Kcp) : (s.setKcp x).mem = s.mem := rfl
@[simp] theorem State.setKcp_fresh (x : Kcp) : (s.setKcp x).fresh = s.fresh := rfl
@[simp] theorem State.setKcp_clk (x : Kcp) : (s.setKcp x).clk = s.clk := rfl
@[simp] theorem State.setKcp_cyc (x : Kcp) : (s.setKcp x).cyc = s.cyc := rfl
@[simp] theorem State.setKcp_evl (x : Kcp) : (s.setKcp x).evl = s.evl := rfl
@[simp] theorem State.setKcp_irqs (x : Kcp) : (s.setKcp x).irqs = s.irqs := rfl
@[simp] theorem State.setKcp_pwm (x : Kcp) : (s.setKcp x).pwm = s.pwm := rfl
@[simp] theorem State.setKcp_on (x : Kcp) : (s.setKcp x).on = s.on := rfl
@[simp] theorem State.setKcp_pllA (x : Kcp) : (s.setKcp x).pllA = s.pllA := rfl
@[simp] theorem State.setKcp_pllB (x : Kcp) : (s.setKcp x).pllB = s.pllB := rfl
@[simp] theorem State.setKcp_busErr (x : Kcp) : (s.setKcp x).busErr = s.busErr := rfl
@[simp] theorem State.setKcp_mramW (x : Kcp) : (s.setKcp x).mramW = s.mramW := rfl
@[simp] theorem State.setKcp_tbLatch (x : Kcp) : (s.setKcp x).tbLatch = s.tbLatch := rfl
@[simp] theorem State.setKcp_ce (x : Kcp) : (s.setKcp x).ce = s.ce := rfl
@[simp] theorem State.setKcp_fox (x : Kcp) : (s.setKcp x).fox = s.fox := rfl
@[simp] theorem State.setKcp_conv (x : Kcp) : (s.setKcp x).conv = s.conv := rfl
@[simp] theorem State.setKcp_badger (x : Kcp) : (s.setKcp x).badger = s.badger := rfl
@[simp] theorem State.setKcp_marten (x : Kcp) : (s.setKcp x).marten = s.marten := rfl
@[simp] theorem State.setKcp_gates (x : Kcp) : (s.setKcp x).gates = s.gates := rfl
@[simp] theorem State.setKcp_scg (x : Kcp) : (s.setKcp x).scg = s.scg := rfl
@[simp] theorem State.setKcp_osd (x : Kcp) : (s.setKcp x).osd = s.osd := rfl
@[simp] theorem State.setKcp_kcp (x : Kcp) : (s.setKcp x).kcp = x := rfl
@[simp] theorem State.setKcp_modes (x : Kcp) : (s.setKcp x).modes = s.modes := rfl
@[simp] theorem State.setKcp_act (x : Kcp) : (s.setKcp x).act = s.act := rfl
@[simp] theorem State.setKcp_pos (x : Kcp) : (s.setKcp x).pos = s.pos := rfl
@[simp] theorem State.setKcp_ledger (x : Kcp) : (s.setKcp x).ledger = s.ledger := rfl
@[simp] theorem State.setKcp_hk (x : Kcp) : (s.setKcp x).hk = s.hk := rfl
@[simp] theorem State.setKcp_sc (x : Kcp) : (s.setKcp x).sc = s.sc := rfl
@[simp] theorem State.setKcp_scc (x : Kcp) : (s.setKcp x).scc = s.scc := rfl
@[simp] theorem State.setKcp_dma (x : Kcp) : (s.setKcp x).dma = s.dma := rfl
@[simp] theorem State.setKcp_can (x : Kcp) : (s.setKcp x).can = s.can := rfl
@[simp] theorem State.setKcp_canTm (x : Kcp) : (s.setKcp x).canTm = s.canTm := rfl
@[simp] theorem State.setKcp_eth (x : Kcp) : (s.setKcp x).eth = s.eth := rfl
@[simp] theorem State.setKcp_asl (x : Kcp) : (s.setKcp x).asl = s.asl := rfl
@[simp] theorem State.setKcp_sup (x : Kcp) : (s.setKcp x).sup = s.sup := rfl
@[simp] theorem State.setKcp_start (x : Kcp) : (s.setKcp x).start = s.start := rfl
@[simp] theorem State.setKcp_rd (x : Kcp) : (s.setKcp x).rd r = s.rd r := rfl
@[simp] theorem State.setKcp_get (x : Kcp) : (s.setKcp x).get f = s.get f := rfl
@[simp] theorem State.setKcp_is (x : Kcp) : (s.setKcp x).is f = s.is f := rfl
@[simp] theorem State.setKcp_bit (x : Kcp) : (s.setKcp x).bit f i = s.bit f i := rfl

@[simp] theorem State.setConv_pending (x : Conv) : (s.setConv x).pending = s.pending := rfl
@[simp] theorem State.setConv_order (x : Conv) : (s.setConv x).order = s.order := rfl
@[simp] theorem State.setConv_regs (x : Conv) : (s.setConv x).regs = s.regs := rfl
@[simp] theorem State.setConv_mem (x : Conv) : (s.setConv x).mem = s.mem := rfl
@[simp] theorem State.setConv_fresh (x : Conv) : (s.setConv x).fresh = s.fresh := rfl
@[simp] theorem State.setConv_clk (x : Conv) : (s.setConv x).clk = s.clk := rfl
@[simp] theorem State.setConv_cyc (x : Conv) : (s.setConv x).cyc = s.cyc := rfl
@[simp] theorem State.setConv_evl (x : Conv) : (s.setConv x).evl = s.evl := rfl
@[simp] theorem State.setConv_irqs (x : Conv) : (s.setConv x).irqs = s.irqs := rfl
@[simp] theorem State.setConv_pwm (x : Conv) : (s.setConv x).pwm = s.pwm := rfl
@[simp] theorem State.setConv_on (x : Conv) : (s.setConv x).on = s.on := rfl
@[simp] theorem State.setConv_pllA (x : Conv) : (s.setConv x).pllA = s.pllA := rfl
@[simp] theorem State.setConv_pllB (x : Conv) : (s.setConv x).pllB = s.pllB := rfl
@[simp] theorem State.setConv_busErr (x : Conv) : (s.setConv x).busErr = s.busErr := rfl
@[simp] theorem State.setConv_mramW (x : Conv) : (s.setConv x).mramW = s.mramW := rfl
@[simp] theorem State.setConv_tbLatch (x : Conv) : (s.setConv x).tbLatch = s.tbLatch := rfl
@[simp] theorem State.setConv_ce (x : Conv) : (s.setConv x).ce = s.ce := rfl
@[simp] theorem State.setConv_fox (x : Conv) : (s.setConv x).fox = s.fox := rfl
@[simp] theorem State.setConv_conv (x : Conv) : (s.setConv x).conv = x := rfl
@[simp] theorem State.setConv_badger (x : Conv) : (s.setConv x).badger = s.badger := rfl
@[simp] theorem State.setConv_marten (x : Conv) : (s.setConv x).marten = s.marten := rfl
@[simp] theorem State.setConv_gates (x : Conv) : (s.setConv x).gates = s.gates := rfl
@[simp] theorem State.setConv_scg (x : Conv) : (s.setConv x).scg = s.scg := rfl
@[simp] theorem State.setConv_osd (x : Conv) : (s.setConv x).osd = s.osd := rfl
@[simp] theorem State.setConv_kcp (x : Conv) : (s.setConv x).kcp = s.kcp := rfl
@[simp] theorem State.setConv_modes (x : Conv) : (s.setConv x).modes = s.modes := rfl
@[simp] theorem State.setConv_act (x : Conv) : (s.setConv x).act = s.act := rfl
@[simp] theorem State.setConv_pos (x : Conv) : (s.setConv x).pos = s.pos := rfl
@[simp] theorem State.setConv_ledger (x : Conv) : (s.setConv x).ledger = s.ledger := rfl
@[simp] theorem State.setConv_hk (x : Conv) : (s.setConv x).hk = s.hk := rfl
@[simp] theorem State.setConv_sc (x : Conv) : (s.setConv x).sc = s.sc := rfl
@[simp] theorem State.setConv_scc (x : Conv) : (s.setConv x).scc = s.scc := rfl
@[simp] theorem State.setConv_dma (x : Conv) : (s.setConv x).dma = s.dma := rfl
@[simp] theorem State.setConv_can (x : Conv) : (s.setConv x).can = s.can := rfl
@[simp] theorem State.setConv_canTm (x : Conv) : (s.setConv x).canTm = s.canTm := rfl
@[simp] theorem State.setConv_eth (x : Conv) : (s.setConv x).eth = s.eth := rfl
@[simp] theorem State.setConv_asl (x : Conv) : (s.setConv x).asl = s.asl := rfl
@[simp] theorem State.setConv_sup (x : Conv) : (s.setConv x).sup = s.sup := rfl
@[simp] theorem State.setConv_start (x : Conv) : (s.setConv x).start = s.start := rfl
@[simp] theorem State.setConv_rd (x : Conv) : (s.setConv x).rd r = s.rd r := rfl
@[simp] theorem State.setConv_get (x : Conv) : (s.setConv x).get f = s.get f := rfl
@[simp] theorem State.setConv_is (x : Conv) : (s.setConv x).is f = s.is f := rfl
@[simp] theorem State.setConv_bit (x : Conv) : (s.setConv x).bit f i = s.bit f i := rfl

@[simp] theorem State.setBadger_pending (x : Badger) : (s.setBadger x).pending = s.pending := rfl
@[simp] theorem State.setBadger_order (x : Badger) : (s.setBadger x).order = s.order := rfl
@[simp] theorem State.setBadger_regs (x : Badger) : (s.setBadger x).regs = s.regs := rfl
@[simp] theorem State.setBadger_mem (x : Badger) : (s.setBadger x).mem = s.mem := rfl
@[simp] theorem State.setBadger_fresh (x : Badger) : (s.setBadger x).fresh = s.fresh := rfl
@[simp] theorem State.setBadger_clk (x : Badger) : (s.setBadger x).clk = s.clk := rfl
@[simp] theorem State.setBadger_cyc (x : Badger) : (s.setBadger x).cyc = s.cyc := rfl
@[simp] theorem State.setBadger_evl (x : Badger) : (s.setBadger x).evl = s.evl := rfl
@[simp] theorem State.setBadger_irqs (x : Badger) : (s.setBadger x).irqs = s.irqs := rfl
@[simp] theorem State.setBadger_pwm (x : Badger) : (s.setBadger x).pwm = s.pwm := rfl
@[simp] theorem State.setBadger_on (x : Badger) : (s.setBadger x).on = s.on := rfl
@[simp] theorem State.setBadger_pllA (x : Badger) : (s.setBadger x).pllA = s.pllA := rfl
@[simp] theorem State.setBadger_pllB (x : Badger) : (s.setBadger x).pllB = s.pllB := rfl
@[simp] theorem State.setBadger_busErr (x : Badger) : (s.setBadger x).busErr = s.busErr := rfl
@[simp] theorem State.setBadger_mramW (x : Badger) : (s.setBadger x).mramW = s.mramW := rfl
@[simp] theorem State.setBadger_tbLatch (x : Badger) : (s.setBadger x).tbLatch = s.tbLatch := rfl
@[simp] theorem State.setBadger_ce (x : Badger) : (s.setBadger x).ce = s.ce := rfl
@[simp] theorem State.setBadger_fox (x : Badger) : (s.setBadger x).fox = s.fox := rfl
@[simp] theorem State.setBadger_conv (x : Badger) : (s.setBadger x).conv = s.conv := rfl
@[simp] theorem State.setBadger_badger (x : Badger) : (s.setBadger x).badger = x := rfl
@[simp] theorem State.setBadger_marten (x : Badger) : (s.setBadger x).marten = s.marten := rfl
@[simp] theorem State.setBadger_gates (x : Badger) : (s.setBadger x).gates = s.gates := rfl
@[simp] theorem State.setBadger_scg (x : Badger) : (s.setBadger x).scg = s.scg := rfl
@[simp] theorem State.setBadger_osd (x : Badger) : (s.setBadger x).osd = s.osd := rfl
@[simp] theorem State.setBadger_kcp (x : Badger) : (s.setBadger x).kcp = s.kcp := rfl
@[simp] theorem State.setBadger_modes (x : Badger) : (s.setBadger x).modes = s.modes := rfl
@[simp] theorem State.setBadger_act (x : Badger) : (s.setBadger x).act = s.act := rfl
@[simp] theorem State.setBadger_pos (x : Badger) : (s.setBadger x).pos = s.pos := rfl
@[simp] theorem State.setBadger_ledger (x : Badger) : (s.setBadger x).ledger = s.ledger := rfl
@[simp] theorem State.setBadger_hk (x : Badger) : (s.setBadger x).hk = s.hk := rfl
@[simp] theorem State.setBadger_sc (x : Badger) : (s.setBadger x).sc = s.sc := rfl
@[simp] theorem State.setBadger_scc (x : Badger) : (s.setBadger x).scc = s.scc := rfl
@[simp] theorem State.setBadger_dma (x : Badger) : (s.setBadger x).dma = s.dma := rfl
@[simp] theorem State.setBadger_can (x : Badger) : (s.setBadger x).can = s.can := rfl
@[simp] theorem State.setBadger_canTm (x : Badger) : (s.setBadger x).canTm = s.canTm := rfl
@[simp] theorem State.setBadger_eth (x : Badger) : (s.setBadger x).eth = s.eth := rfl
@[simp] theorem State.setBadger_asl (x : Badger) : (s.setBadger x).asl = s.asl := rfl
@[simp] theorem State.setBadger_sup (x : Badger) : (s.setBadger x).sup = s.sup := rfl
@[simp] theorem State.setBadger_start (x : Badger) : (s.setBadger x).start = s.start := rfl
@[simp] theorem State.setBadger_rd (x : Badger) : (s.setBadger x).rd r = s.rd r := rfl
@[simp] theorem State.setBadger_get (x : Badger) : (s.setBadger x).get f = s.get f := rfl
@[simp] theorem State.setBadger_is (x : Badger) : (s.setBadger x).is f = s.is f := rfl
@[simp] theorem State.setBadger_bit (x : Badger) : (s.setBadger x).bit f i = s.bit f i := rfl

@[simp] theorem State.setScThreads_pending (x : List ScThr) : (s.setScThreads x).pending = s.pending := rfl
@[simp] theorem State.setScThreads_order (x : List ScThr) : (s.setScThreads x).order = s.order := rfl
@[simp] theorem State.setScThreads_regs (x : List ScThr) : (s.setScThreads x).regs = s.regs := rfl
@[simp] theorem State.setScThreads_mem (x : List ScThr) : (s.setScThreads x).mem = s.mem := rfl
@[simp] theorem State.setScThreads_fresh (x : List ScThr) : (s.setScThreads x).fresh = s.fresh := rfl
@[simp] theorem State.setScThreads_clk (x : List ScThr) : (s.setScThreads x).clk = s.clk := rfl
@[simp] theorem State.setScThreads_cyc (x : List ScThr) : (s.setScThreads x).cyc = s.cyc := rfl
@[simp] theorem State.setScThreads_evl (x : List ScThr) : (s.setScThreads x).evl = s.evl := rfl
@[simp] theorem State.setScThreads_irqs (x : List ScThr) : (s.setScThreads x).irqs = s.irqs := rfl
@[simp] theorem State.setScThreads_pwm (x : List ScThr) : (s.setScThreads x).pwm = s.pwm := rfl
@[simp] theorem State.setScThreads_on (x : List ScThr) : (s.setScThreads x).on = s.on := rfl
@[simp] theorem State.setScThreads_pllA (x : List ScThr) : (s.setScThreads x).pllA = s.pllA := rfl
@[simp] theorem State.setScThreads_pllB (x : List ScThr) : (s.setScThreads x).pllB = s.pllB := rfl
@[simp] theorem State.setScThreads_busErr (x : List ScThr) : (s.setScThreads x).busErr = s.busErr := rfl
@[simp] theorem State.setScThreads_mramW (x : List ScThr) : (s.setScThreads x).mramW = s.mramW := rfl
@[simp] theorem State.setScThreads_tbLatch (x : List ScThr) : (s.setScThreads x).tbLatch = s.tbLatch := rfl
@[simp] theorem State.setScThreads_ce (x : List ScThr) : (s.setScThreads x).ce = s.ce := rfl
@[simp] theorem State.setScThreads_fox (x : List ScThr) : (s.setScThreads x).fox = s.fox := rfl
@[simp] theorem State.setScThreads_conv (x : List ScThr) : (s.setScThreads x).conv = s.conv := rfl
@[simp] theorem State.setScThreads_badger (x : List ScThr) : (s.setScThreads x).badger = s.badger := rfl
@[simp] theorem State.setScThreads_marten (x : List ScThr) : (s.setScThreads x).marten = s.marten := rfl
@[simp] theorem State.setScThreads_gates (x : List ScThr) : (s.setScThreads x).gates = s.gates := rfl
@[simp] theorem State.setScThreads_scg (x : List ScThr) : (s.setScThreads x).scg = s.scg := rfl
@[simp] theorem State.setScThreads_osd (x : List ScThr) : (s.setScThreads x).osd = s.osd := rfl
@[simp] theorem State.setScThreads_kcp (x : List ScThr) : (s.setScThreads x).kcp = s.kcp := rfl
@[simp] theorem State.setScThreads_modes (x : List ScThr) : (s.setScThreads x).modes = s.modes := rfl
@[simp] theorem State.setScThreads_act (x : List ScThr) : (s.setScThreads x).act = s.act := rfl
@[simp] theorem State.setScThreads_pos (x : List ScThr) : (s.setScThreads x).pos = s.pos := rfl
@[simp] theorem State.setScThreads_ledger (x : List ScThr) : (s.setScThreads x).ledger = s.ledger := rfl
@[simp] theorem State.setScThreads_hk (x : List ScThr) : (s.setScThreads x).hk = s.hk := rfl
@[simp] theorem State.setScThreads_sc (x : List ScThr) : (s.setScThreads x).sc = x := rfl
@[simp] theorem State.setScThreads_scc (x : List ScThr) : (s.setScThreads x).scc = s.scc := rfl
@[simp] theorem State.setScThreads_dma (x : List ScThr) : (s.setScThreads x).dma = s.dma := rfl
@[simp] theorem State.setScThreads_can (x : List ScThr) : (s.setScThreads x).can = s.can := rfl
@[simp] theorem State.setScThreads_canTm (x : List ScThr) : (s.setScThreads x).canTm = s.canTm := rfl
@[simp] theorem State.setScThreads_eth (x : List ScThr) : (s.setScThreads x).eth = s.eth := rfl
@[simp] theorem State.setScThreads_asl (x : List ScThr) : (s.setScThreads x).asl = s.asl := rfl
@[simp] theorem State.setScThreads_sup (x : List ScThr) : (s.setScThreads x).sup = s.sup := rfl
@[simp] theorem State.setScThreads_start (x : List ScThr) : (s.setScThreads x).start = s.start := rfl
@[simp] theorem State.setScThreads_rd (x : List ScThr) : (s.setScThreads x).rd r = s.rd r := rfl
@[simp] theorem State.setScThreads_get (x : List ScThr) : (s.setScThreads x).get f = s.get f := rfl
@[simp] theorem State.setScThreads_is (x : List ScThr) : (s.setScThreads x).is f = s.is f := rfl
@[simp] theorem State.setScThreads_bit (x : List ScThr) : (s.setScThreads x).bit f i = s.bit f i := rfl

@[simp] theorem State.setScCores_pending (x : List ScCore) : (s.setScCores x).pending = s.pending := rfl
@[simp] theorem State.setScCores_order (x : List ScCore) : (s.setScCores x).order = s.order := rfl
@[simp] theorem State.setScCores_regs (x : List ScCore) : (s.setScCores x).regs = s.regs := rfl
@[simp] theorem State.setScCores_mem (x : List ScCore) : (s.setScCores x).mem = s.mem := rfl
@[simp] theorem State.setScCores_fresh (x : List ScCore) : (s.setScCores x).fresh = s.fresh := rfl
@[simp] theorem State.setScCores_clk (x : List ScCore) : (s.setScCores x).clk = s.clk := rfl
@[simp] theorem State.setScCores_cyc (x : List ScCore) : (s.setScCores x).cyc = s.cyc := rfl
@[simp] theorem State.setScCores_evl (x : List ScCore) : (s.setScCores x).evl = s.evl := rfl
@[simp] theorem State.setScCores_irqs (x : List ScCore) : (s.setScCores x).irqs = s.irqs := rfl
@[simp] theorem State.setScCores_pwm (x : List ScCore) : (s.setScCores x).pwm = s.pwm := rfl
@[simp] theorem State.setScCores_on (x : List ScCore) : (s.setScCores x).on = s.on := rfl
@[simp] theorem State.setScCores_pllA (x : List ScCore) : (s.setScCores x).pllA = s.pllA := rfl
@[simp] theorem State.setScCores_pllB (x : List ScCore) : (s.setScCores x).pllB = s.pllB := rfl
@[simp] theorem State.setScCores_busErr (x : List ScCore) : (s.setScCores x).busErr = s.busErr := rfl
@[simp] theorem State.setScCores_mramW (x : List ScCore) : (s.setScCores x).mramW = s.mramW := rfl
@[simp] theorem State.setScCores_tbLatch (x : List ScCore) : (s.setScCores x).tbLatch = s.tbLatch := rfl
@[simp] theorem State.setScCores_ce (x : List ScCore) : (s.setScCores x).ce = s.ce := rfl
@[simp] theorem State.setScCores_fox (x : List ScCore) : (s.setScCores x).fox = s.fox := rfl
@[simp] theorem State.setScCores_conv (x : List ScCore) : (s.setScCores x).conv = s.conv := rfl
@[simp] theorem State.setScCores_badger (x : List ScCore) : (s.setScCores x).badger = s.badger := rfl
@[simp] theorem State.setScCores_marten (x : List ScCore) : (s.setScCores x).marten = s.marten := rfl
@[simp] theorem State.setScCores_gates (x : List ScCore) : (s.setScCores x).gates = s.gates := rfl
@[simp] theorem State.setScCores_scg (x : List ScCore) : (s.setScCores x).scg = s.scg := rfl
@[simp] theorem State.setScCores_osd (x : List ScCore) : (s.setScCores x).osd = s.osd := rfl
@[simp] theorem State.setScCores_kcp (x : List ScCore) : (s.setScCores x).kcp = s.kcp := rfl
@[simp] theorem State.setScCores_modes (x : List ScCore) : (s.setScCores x).modes = s.modes := rfl
@[simp] theorem State.setScCores_act (x : List ScCore) : (s.setScCores x).act = s.act := rfl
@[simp] theorem State.setScCores_pos (x : List ScCore) : (s.setScCores x).pos = s.pos := rfl
@[simp] theorem State.setScCores_ledger (x : List ScCore) : (s.setScCores x).ledger = s.ledger := rfl
@[simp] theorem State.setScCores_hk (x : List ScCore) : (s.setScCores x).hk = s.hk := rfl
@[simp] theorem State.setScCores_sc (x : List ScCore) : (s.setScCores x).sc = s.sc := rfl
@[simp] theorem State.setScCores_scc (x : List ScCore) : (s.setScCores x).scc = x := rfl
@[simp] theorem State.setScCores_dma (x : List ScCore) : (s.setScCores x).dma = s.dma := rfl
@[simp] theorem State.setScCores_can (x : List ScCore) : (s.setScCores x).can = s.can := rfl
@[simp] theorem State.setScCores_canTm (x : List ScCore) : (s.setScCores x).canTm = s.canTm := rfl
@[simp] theorem State.setScCores_eth (x : List ScCore) : (s.setScCores x).eth = s.eth := rfl
@[simp] theorem State.setScCores_asl (x : List ScCore) : (s.setScCores x).asl = s.asl := rfl
@[simp] theorem State.setScCores_sup (x : List ScCore) : (s.setScCores x).sup = s.sup := rfl
@[simp] theorem State.setScCores_start (x : List ScCore) : (s.setScCores x).start = s.start := rfl
@[simp] theorem State.setScCores_rd (x : List ScCore) : (s.setScCores x).rd r = s.rd r := rfl
@[simp] theorem State.setScCores_get (x : List ScCore) : (s.setScCores x).get f = s.get f := rfl
@[simp] theorem State.setScCores_is (x : List ScCore) : (s.setScCores x).is f = s.is f := rfl
@[simp] theorem State.setScCores_bit (x : List ScCore) : (s.setScCores x).bit f i = s.bit f i := rfl

@[simp] theorem State.setPwms_pending (x : List PwmMod) : (s.setPwms x).pending = s.pending := rfl
@[simp] theorem State.setPwms_order (x : List PwmMod) : (s.setPwms x).order = s.order := rfl
@[simp] theorem State.setPwms_regs (x : List PwmMod) : (s.setPwms x).regs = s.regs := rfl
@[simp] theorem State.setPwms_mem (x : List PwmMod) : (s.setPwms x).mem = s.mem := rfl
@[simp] theorem State.setPwms_fresh (x : List PwmMod) : (s.setPwms x).fresh = s.fresh := rfl
@[simp] theorem State.setPwms_clk (x : List PwmMod) : (s.setPwms x).clk = s.clk := rfl
@[simp] theorem State.setPwms_cyc (x : List PwmMod) : (s.setPwms x).cyc = s.cyc := rfl
@[simp] theorem State.setPwms_evl (x : List PwmMod) : (s.setPwms x).evl = s.evl := rfl
@[simp] theorem State.setPwms_irqs (x : List PwmMod) : (s.setPwms x).irqs = s.irqs := rfl
@[simp] theorem State.setPwms_pwm (x : List PwmMod) : (s.setPwms x).pwm = x := rfl
@[simp] theorem State.setPwms_on (x : List PwmMod) : (s.setPwms x).on = s.on := rfl
@[simp] theorem State.setPwms_pllA (x : List PwmMod) : (s.setPwms x).pllA = s.pllA := rfl
@[simp] theorem State.setPwms_pllB (x : List PwmMod) : (s.setPwms x).pllB = s.pllB := rfl
@[simp] theorem State.setPwms_busErr (x : List PwmMod) : (s.setPwms x).busErr = s.busErr := rfl
@[simp] theorem State.setPwms_mramW (x : List PwmMod) : (s.setPwms x).mramW = s.mramW := rfl
@[simp] theorem State.setPwms_tbLatch (x : List PwmMod) : (s.setPwms x).tbLatch = s.tbLatch := rfl
@[simp] theorem State.setPwms_ce (x : List PwmMod) : (s.setPwms x).ce = s.ce := rfl
@[simp] theorem State.setPwms_fox (x : List PwmMod) : (s.setPwms x).fox = s.fox := rfl
@[simp] theorem State.setPwms_conv (x : List PwmMod) : (s.setPwms x).conv = s.conv := rfl
@[simp] theorem State.setPwms_badger (x : List PwmMod) : (s.setPwms x).badger = s.badger := rfl
@[simp] theorem State.setPwms_marten (x : List PwmMod) : (s.setPwms x).marten = s.marten := rfl
@[simp] theorem State.setPwms_gates (x : List PwmMod) : (s.setPwms x).gates = s.gates := rfl
@[simp] theorem State.setPwms_scg (x : List PwmMod) : (s.setPwms x).scg = s.scg := rfl
@[simp] theorem State.setPwms_osd (x : List PwmMod) : (s.setPwms x).osd = s.osd := rfl
@[simp] theorem State.setPwms_kcp (x : List PwmMod) : (s.setPwms x).kcp = s.kcp := rfl
@[simp] theorem State.setPwms_modes (x : List PwmMod) : (s.setPwms x).modes = s.modes := rfl
@[simp] theorem State.setPwms_act (x : List PwmMod) : (s.setPwms x).act = s.act := rfl
@[simp] theorem State.setPwms_pos (x : List PwmMod) : (s.setPwms x).pos = s.pos := rfl
@[simp] theorem State.setPwms_ledger (x : List PwmMod) : (s.setPwms x).ledger = s.ledger := rfl
@[simp] theorem State.setPwms_hk (x : List PwmMod) : (s.setPwms x).hk = s.hk := rfl
@[simp] theorem State.setPwms_sc (x : List PwmMod) : (s.setPwms x).sc = s.sc := rfl
@[simp] theorem State.setPwms_scc (x : List PwmMod) : (s.setPwms x).scc = s.scc := rfl
@[simp] theorem State.setPwms_dma (x : List PwmMod) : (s.setPwms x).dma = s.dma := rfl
@[simp] theorem State.setPwms_can (x : List PwmMod) : (s.setPwms x).can = s.can := rfl
@[simp] theorem State.setPwms_canTm (x : List PwmMod) : (s.setPwms x).canTm = s.canTm := rfl
@[simp] theorem State.setPwms_eth (x : List PwmMod) : (s.setPwms x).eth = s.eth := rfl
@[simp] theorem State.setPwms_asl (x : List PwmMod) : (s.setPwms x).asl = s.asl := rfl
@[simp] theorem State.setPwms_sup (x : List PwmMod) : (s.setPwms x).sup = s.sup := rfl
@[simp] theorem State.setPwms_start (x : List PwmMod) : (s.setPwms x).start = s.start := rfl
@[simp] theorem State.setPwms_rd (x : List PwmMod) : (s.setPwms x).rd r = s.rd r := rfl
@[simp] theorem State.setPwms_get (x : List PwmMod) : (s.setPwms x).get f = s.get f := rfl
@[simp] theorem State.setPwms_is (x : List PwmMod) : (s.setPwms x).is f = s.is f := rfl
@[simp] theorem State.setPwms_bit (x : List PwmMod) : (s.setPwms x).bit f i = s.bit f i := rfl

@[simp] theorem State.setCes_pending (x : List CeCore) : (s.setCes x).pending = s.pending := rfl
@[simp] theorem State.setCes_order (x : List CeCore) : (s.setCes x).order = s.order := rfl
@[simp] theorem State.setCes_regs (x : List CeCore) : (s.setCes x).regs = s.regs := rfl
@[simp] theorem State.setCes_mem (x : List CeCore) : (s.setCes x).mem = s.mem := rfl
@[simp] theorem State.setCes_fresh (x : List CeCore) : (s.setCes x).fresh = s.fresh := rfl
@[simp] theorem State.setCes_clk (x : List CeCore) : (s.setCes x).clk = s.clk := rfl
@[simp] theorem State.setCes_cyc (x : List CeCore) : (s.setCes x).cyc = s.cyc := rfl
@[simp] theorem State.setCes_evl (x : List CeCore) : (s.setCes x).evl = s.evl := rfl
@[simp] theorem State.setCes_irqs (x : List CeCore) : (s.setCes x).irqs = s.irqs := rfl
@[simp] theorem State.setCes_pwm (x : List CeCore) : (s.setCes x).pwm = s.pwm := rfl
@[simp] theorem State.setCes_on (x : List CeCore) : (s.setCes x).on = s.on := rfl
@[simp] theorem State.setCes_pllA (x : List CeCore) : (s.setCes x).pllA = s.pllA := rfl
@[simp] theorem State.setCes_pllB (x : List CeCore) : (s.setCes x).pllB = s.pllB := rfl
@[simp] theorem State.setCes_busErr (x : List CeCore) : (s.setCes x).busErr = s.busErr := rfl
@[simp] theorem State.setCes_mramW (x : List CeCore) : (s.setCes x).mramW = s.mramW := rfl
@[simp] theorem State.setCes_tbLatch (x : List CeCore) : (s.setCes x).tbLatch = s.tbLatch := rfl
@[simp] theorem State.setCes_ce (x : List CeCore) : (s.setCes x).ce = x := rfl
@[simp] theorem State.setCes_fox (x : List CeCore) : (s.setCes x).fox = s.fox := rfl
@[simp] theorem State.setCes_conv (x : List CeCore) : (s.setCes x).conv = s.conv := rfl
@[simp] theorem State.setCes_badger (x : List CeCore) : (s.setCes x).badger = s.badger := rfl
@[simp] theorem State.setCes_marten (x : List CeCore) : (s.setCes x).marten = s.marten := rfl
@[simp] theorem State.setCes_gates (x : List CeCore) : (s.setCes x).gates = s.gates := rfl
@[simp] theorem State.setCes_scg (x : List CeCore) : (s.setCes x).scg = s.scg := rfl
@[simp] theorem State.setCes_osd (x : List CeCore) : (s.setCes x).osd = s.osd := rfl
@[simp] theorem State.setCes_kcp (x : List CeCore) : (s.setCes x).kcp = s.kcp := rfl
@[simp] theorem State.setCes_modes (x : List CeCore) : (s.setCes x).modes = s.modes := rfl
@[simp] theorem State.setCes_act (x : List CeCore) : (s.setCes x).act = s.act := rfl
@[simp] theorem State.setCes_pos (x : List CeCore) : (s.setCes x).pos = s.pos := rfl
@[simp] theorem State.setCes_ledger (x : List CeCore) : (s.setCes x).ledger = s.ledger := rfl
@[simp] theorem State.setCes_hk (x : List CeCore) : (s.setCes x).hk = s.hk := rfl
@[simp] theorem State.setCes_sc (x : List CeCore) : (s.setCes x).sc = s.sc := rfl
@[simp] theorem State.setCes_scc (x : List CeCore) : (s.setCes x).scc = s.scc := rfl
@[simp] theorem State.setCes_dma (x : List CeCore) : (s.setCes x).dma = s.dma := rfl
@[simp] theorem State.setCes_can (x : List CeCore) : (s.setCes x).can = s.can := rfl
@[simp] theorem State.setCes_canTm (x : List CeCore) : (s.setCes x).canTm = s.canTm := rfl
@[simp] theorem State.setCes_eth (x : List CeCore) : (s.setCes x).eth = s.eth := rfl
@[simp] theorem State.setCes_asl (x : List CeCore) : (s.setCes x).asl = s.asl := rfl
@[simp] theorem State.setCes_sup (x : List CeCore) : (s.setCes x).sup = s.sup := rfl
@[simp] theorem State.setCes_start (x : List CeCore) : (s.setCes x).start = s.start := rfl
@[simp] theorem State.setCes_rd (x : List CeCore) : (s.setCes x).rd r = s.rd r := rfl
@[simp] theorem State.setCes_get (x : List CeCore) : (s.setCes x).get f = s.get f := rfl
@[simp] theorem State.setCes_is (x : List CeCore) : (s.setCes x).is f = s.is f := rfl
@[simp] theorem State.setCes_bit (x : List CeCore) : (s.setCes x).bit f i = s.bit f i := rfl

@[simp] theorem State.setGates_pending (x : List GateCh) : (s.setGates x).pending = s.pending := rfl
@[simp] theorem State.setGates_order (x : List GateCh) : (s.setGates x).order = s.order := rfl
@[simp] theorem State.setGates_regs (x : List GateCh) : (s.setGates x).regs = s.regs := rfl
@[simp] theorem State.setGates_mem (x : List GateCh) : (s.setGates x).mem = s.mem := rfl
@[simp] theorem State.setGates_fresh (x : List GateCh) : (s.setGates x).fresh = s.fresh := rfl
@[simp] theorem State.setGates_clk (x : List GateCh) : (s.setGates x).clk = s.clk := rfl
@[simp] theorem State.setGates_cyc (x : List GateCh) : (s.setGates x).cyc = s.cyc := rfl
@[simp] theorem State.setGates_evl (x : List GateCh) : (s.setGates x).evl = s.evl := rfl
@[simp] theorem State.setGates_irqs (x : List GateCh) : (s.setGates x).irqs = s.irqs := rfl
@[simp] theorem State.setGates_pwm (x : List GateCh) : (s.setGates x).pwm = s.pwm := rfl
@[simp] theorem State.setGates_on (x : List GateCh) : (s.setGates x).on = s.on := rfl
@[simp] theorem State.setGates_pllA (x : List GateCh) : (s.setGates x).pllA = s.pllA := rfl
@[simp] theorem State.setGates_pllB (x : List GateCh) : (s.setGates x).pllB = s.pllB := rfl
@[simp] theorem State.setGates_busErr (x : List GateCh) : (s.setGates x).busErr = s.busErr := rfl
@[simp] theorem State.setGates_mramW (x : List GateCh) : (s.setGates x).mramW = s.mramW := rfl
@[simp] theorem State.setGates_tbLatch (x : List GateCh) : (s.setGates x).tbLatch = s.tbLatch := rfl
@[simp] theorem State.setGates_ce (x : List GateCh) : (s.setGates x).ce = s.ce := rfl
@[simp] theorem State.setGates_fox (x : List GateCh) : (s.setGates x).fox = s.fox := rfl
@[simp] theorem State.setGates_conv (x : List GateCh) : (s.setGates x).conv = s.conv := rfl
@[simp] theorem State.setGates_badger (x : List GateCh) : (s.setGates x).badger = s.badger := rfl
@[simp] theorem State.setGates_marten (x : List GateCh) : (s.setGates x).marten = s.marten := rfl
@[simp] theorem State.setGates_gates (x : List GateCh) : (s.setGates x).gates = x := rfl
@[simp] theorem State.setGates_scg (x : List GateCh) : (s.setGates x).scg = s.scg := rfl
@[simp] theorem State.setGates_osd (x : List GateCh) : (s.setGates x).osd = s.osd := rfl
@[simp] theorem State.setGates_kcp (x : List GateCh) : (s.setGates x).kcp = s.kcp := rfl
@[simp] theorem State.setGates_modes (x : List GateCh) : (s.setGates x).modes = s.modes := rfl
@[simp] theorem State.setGates_act (x : List GateCh) : (s.setGates x).act = s.act := rfl
@[simp] theorem State.setGates_pos (x : List GateCh) : (s.setGates x).pos = s.pos := rfl
@[simp] theorem State.setGates_ledger (x : List GateCh) : (s.setGates x).ledger = s.ledger := rfl
@[simp] theorem State.setGates_hk (x : List GateCh) : (s.setGates x).hk = s.hk := rfl
@[simp] theorem State.setGates_sc (x : List GateCh) : (s.setGates x).sc = s.sc := rfl
@[simp] theorem State.setGates_scc (x : List GateCh) : (s.setGates x).scc = s.scc := rfl
@[simp] theorem State.setGates_dma (x : List GateCh) : (s.setGates x).dma = s.dma := rfl
@[simp] theorem State.setGates_can (x : List GateCh) : (s.setGates x).can = s.can := rfl
@[simp] theorem State.setGates_canTm (x : List GateCh) : (s.setGates x).canTm = s.canTm := rfl
@[simp] theorem State.setGates_eth (x : List GateCh) : (s.setGates x).eth = s.eth := rfl
@[simp] theorem State.setGates_asl (x : List GateCh) : (s.setGates x).asl = s.asl := rfl
@[simp] theorem State.setGates_sup (x : List GateCh) : (s.setGates x).sup = s.sup := rfl
@[simp] theorem State.setGates_start (x : List GateCh) : (s.setGates x).start = s.start := rfl
@[simp] theorem State.setGates_rd (x : List GateCh) : (s.setGates x).rd r = s.rd r := rfl
@[simp] theorem State.setGates_get (x : List GateCh) : (s.setGates x).get f = s.get f := rfl
@[simp] theorem State.setGates_is (x : List GateCh) : (s.setGates x).is f = s.is f := rfl
@[simp] theorem State.setGates_bit (x : List GateCh) : (s.setGates x).bit f i = s.bit f i := rfl

@[simp] theorem State.setScgs_pending (x : List Scg) : (s.setScgs x).pending = s.pending := rfl
@[simp] theorem State.setScgs_order (x : List Scg) : (s.setScgs x).order = s.order := rfl
@[simp] theorem State.setScgs_regs (x : List Scg) : (s.setScgs x).regs = s.regs := rfl
@[simp] theorem State.setScgs_mem (x : List Scg) : (s.setScgs x).mem = s.mem := rfl
@[simp] theorem State.setScgs_fresh (x : List Scg) : (s.setScgs x).fresh = s.fresh := rfl
@[simp] theorem State.setScgs_clk (x : List Scg) : (s.setScgs x).clk = s.clk := rfl
@[simp] theorem State.setScgs_cyc (x : List Scg) : (s.setScgs x).cyc = s.cyc := rfl
@[simp] theorem State.setScgs_evl (x : List Scg) : (s.setScgs x).evl = s.evl := rfl
@[simp] theorem State.setScgs_irqs (x : List Scg) : (s.setScgs x).irqs = s.irqs := rfl
@[simp] theorem State.setScgs_pwm (x : List Scg) : (s.setScgs x).pwm = s.pwm := rfl
@[simp] theorem State.setScgs_on (x : List Scg) : (s.setScgs x).on = s.on := rfl
@[simp] theorem State.setScgs_pllA (x : List Scg) : (s.setScgs x).pllA = s.pllA := rfl
@[simp] theorem State.setScgs_pllB (x : List Scg) : (s.setScgs x).pllB = s.pllB := rfl
@[simp] theorem State.setScgs_busErr (x : List Scg) : (s.setScgs x).busErr = s.busErr := rfl
@[simp] theorem State.setScgs_mramW (x : List Scg) : (s.setScgs x).mramW = s.mramW := rfl
@[simp] theorem State.setScgs_tbLatch (x : List Scg) : (s.setScgs x).tbLatch = s.tbLatch := rfl
@[simp] theorem State.setScgs_ce (x : List Scg) : (s.setScgs x).ce = s.ce := rfl
@[simp] theorem State.setScgs_fox (x : List Scg) : (s.setScgs x).fox = s.fox := rfl
@[simp] theorem State.setScgs_conv (x : List Scg) : (s.setScgs x).conv = s.conv := rfl
@[simp] theorem State.setScgs_badger (x : List Scg) : (s.setScgs x).badger = s.badger := rfl
@[simp] theorem State.setScgs_marten (x : List Scg) : (s.setScgs x).marten = s.marten := rfl
@[simp] theorem State.setScgs_gates (x : List Scg) : (s.setScgs x).gates = s.gates := rfl
@[simp] theorem State.setScgs_scg (x : List Scg) : (s.setScgs x).scg = x := rfl
@[simp] theorem State.setScgs_osd (x : List Scg) : (s.setScgs x).osd = s.osd := rfl
@[simp] theorem State.setScgs_kcp (x : List Scg) : (s.setScgs x).kcp = s.kcp := rfl
@[simp] theorem State.setScgs_modes (x : List Scg) : (s.setScgs x).modes = s.modes := rfl
@[simp] theorem State.setScgs_act (x : List Scg) : (s.setScgs x).act = s.act := rfl
@[simp] theorem State.setScgs_pos (x : List Scg) : (s.setScgs x).pos = s.pos := rfl
@[simp] theorem State.setScgs_ledger (x : List Scg) : (s.setScgs x).ledger = s.ledger := rfl
@[simp] theorem State.setScgs_hk (x : List Scg) : (s.setScgs x).hk = s.hk := rfl
@[simp] theorem State.setScgs_sc (x : List Scg) : (s.setScgs x).sc = s.sc := rfl
@[simp] theorem State.setScgs_scc (x : List Scg) : (s.setScgs x).scc = s.scc := rfl
@[simp] theorem State.setScgs_dma (x : List Scg) : (s.setScgs x).dma = s.dma := rfl
@[simp] theorem State.setScgs_can (x : List Scg) : (s.setScgs x).can = s.can := rfl
@[simp] theorem State.setScgs_canTm (x : List Scg) : (s.setScgs x).canTm = s.canTm := rfl
@[simp] theorem State.setScgs_eth (x : List Scg) : (s.setScgs x).eth = s.eth := rfl
@[simp] theorem State.setScgs_asl (x : List Scg) : (s.setScgs x).asl = s.asl := rfl
@[simp] theorem State.setScgs_sup (x : List Scg) : (s.setScgs x).sup = s.sup := rfl
@[simp] theorem State.setScgs_start (x : List Scg) : (s.setScgs x).start = s.start := rfl
@[simp] theorem State.setScgs_rd (x : List Scg) : (s.setScgs x).rd r = s.rd r := rfl
@[simp] theorem State.setScgs_get (x : List Scg) : (s.setScgs x).get f = s.get f := rfl
@[simp] theorem State.setScgs_is (x : List Scg) : (s.setScgs x).is f = s.is f := rfl
@[simp] theorem State.setScgs_bit (x : List Scg) : (s.setScgs x).bit f i = s.bit f i := rfl

@[simp] theorem State.setActs_pending (x : List ActSeq) : (s.setActs x).pending = s.pending := rfl
@[simp] theorem State.setActs_order (x : List ActSeq) : (s.setActs x).order = s.order := rfl
@[simp] theorem State.setActs_regs (x : List ActSeq) : (s.setActs x).regs = s.regs := rfl
@[simp] theorem State.setActs_mem (x : List ActSeq) : (s.setActs x).mem = s.mem := rfl
@[simp] theorem State.setActs_fresh (x : List ActSeq) : (s.setActs x).fresh = s.fresh := rfl
@[simp] theorem State.setActs_clk (x : List ActSeq) : (s.setActs x).clk = s.clk := rfl
@[simp] theorem State.setActs_cyc (x : List ActSeq) : (s.setActs x).cyc = s.cyc := rfl
@[simp] theorem State.setActs_evl (x : List ActSeq) : (s.setActs x).evl = s.evl := rfl
@[simp] theorem State.setActs_irqs (x : List ActSeq) : (s.setActs x).irqs = s.irqs := rfl
@[simp] theorem State.setActs_pwm (x : List ActSeq) : (s.setActs x).pwm = s.pwm := rfl
@[simp] theorem State.setActs_on (x : List ActSeq) : (s.setActs x).on = s.on := rfl
@[simp] theorem State.setActs_pllA (x : List ActSeq) : (s.setActs x).pllA = s.pllA := rfl
@[simp] theorem State.setActs_pllB (x : List ActSeq) : (s.setActs x).pllB = s.pllB := rfl
@[simp] theorem State.setActs_busErr (x : List ActSeq) : (s.setActs x).busErr = s.busErr := rfl
@[simp] theorem State.setActs_mramW (x : List ActSeq) : (s.setActs x).mramW = s.mramW := rfl
@[simp] theorem State.setActs_tbLatch (x : List ActSeq) : (s.setActs x).tbLatch = s.tbLatch := rfl
@[simp] theorem State.setActs_ce (x : List ActSeq) : (s.setActs x).ce = s.ce := rfl
@[simp] theorem State.setActs_fox (x : List ActSeq) : (s.setActs x).fox = s.fox := rfl
@[simp] theorem State.setActs_conv (x : List ActSeq) : (s.setActs x).conv = s.conv := rfl
@[simp] theorem State.setActs_badger (x : List ActSeq) : (s.setActs x).badger = s.badger := rfl
@[simp] theorem State.setActs_marten (x : List ActSeq) : (s.setActs x).marten = s.marten := rfl
@[simp] theorem State.setActs_gates (x : List ActSeq) : (s.setActs x).gates = s.gates := rfl
@[simp] theorem State.setActs_scg (x : List ActSeq) : (s.setActs x).scg = s.scg := rfl
@[simp] theorem State.setActs_osd (x : List ActSeq) : (s.setActs x).osd = s.osd := rfl
@[simp] theorem State.setActs_kcp (x : List ActSeq) : (s.setActs x).kcp = s.kcp := rfl
@[simp] theorem State.setActs_modes (x : List ActSeq) : (s.setActs x).modes = s.modes := rfl
@[simp] theorem State.setActs_act (x : List ActSeq) : (s.setActs x).act = x := rfl
@[simp] theorem State.setActs_pos (x : List ActSeq) : (s.setActs x).pos = s.pos := rfl
@[simp] theorem State.setActs_ledger (x : List ActSeq) : (s.setActs x).ledger = s.ledger := rfl
@[simp] theorem State.setActs_hk (x : List ActSeq) : (s.setActs x).hk = s.hk := rfl
@[simp] theorem State.setActs_sc (x : List ActSeq) : (s.setActs x).sc = s.sc := rfl
@[simp] theorem State.setActs_scc (x : List ActSeq) : (s.setActs x).scc = s.scc := rfl
@[simp] theorem State.setActs_dma (x : List ActSeq) : (s.setActs x).dma = s.dma := rfl
@[simp] theorem State.setActs_can (x : List ActSeq) : (s.setActs x).can = s.can := rfl
@[simp] theorem State.setActs_canTm (x : List ActSeq) : (s.setActs x).canTm = s.canTm := rfl
@[simp] theorem State.setActs_eth (x : List ActSeq) : (s.setActs x).eth = s.eth := rfl
@[simp] theorem State.setActs_asl (x : List ActSeq) : (s.setActs x).asl = s.asl := rfl
@[simp] theorem State.setActs_sup (x : List ActSeq) : (s.setActs x).sup = s.sup := rfl
@[simp] theorem State.setActs_start (x : List ActSeq) : (s.setActs x).start = s.start := rfl
@[simp] theorem State.setActs_rd (x : List ActSeq) : (s.setActs x).rd r = s.rd r := rfl
@[simp] theorem State.setActs_get (x : List ActSeq) : (s.setActs x).get f = s.get f := rfl
@[simp] theorem State.setActs_is (x : List ActSeq) : (s.setActs x).is f = s.is f := rfl
@[simp] theorem State.setActs_bit (x : List ActSeq) : (s.setActs x).bit f i = s.bit f i := rfl

@[simp] theorem State.setCans_pending (x : List Can) : (s.setCans x).pending = s.pending := rfl
@[simp] theorem State.setCans_order (x : List Can) : (s.setCans x).order = s.order := rfl
@[simp] theorem State.setCans_regs (x : List Can) : (s.setCans x).regs = s.regs := rfl
@[simp] theorem State.setCans_mem (x : List Can) : (s.setCans x).mem = s.mem := rfl
@[simp] theorem State.setCans_fresh (x : List Can) : (s.setCans x).fresh = s.fresh := rfl
@[simp] theorem State.setCans_clk (x : List Can) : (s.setCans x).clk = s.clk := rfl
@[simp] theorem State.setCans_cyc (x : List Can) : (s.setCans x).cyc = s.cyc := rfl
@[simp] theorem State.setCans_evl (x : List Can) : (s.setCans x).evl = s.evl := rfl
@[simp] theorem State.setCans_irqs (x : List Can) : (s.setCans x).irqs = s.irqs := rfl
@[simp] theorem State.setCans_pwm (x : List Can) : (s.setCans x).pwm = s.pwm := rfl
@[simp] theorem State.setCans_on (x : List Can) : (s.setCans x).on = s.on := rfl
@[simp] theorem State.setCans_pllA (x : List Can) : (s.setCans x).pllA = s.pllA := rfl
@[simp] theorem State.setCans_pllB (x : List Can) : (s.setCans x).pllB = s.pllB := rfl
@[simp] theorem State.setCans_busErr (x : List Can) : (s.setCans x).busErr = s.busErr := rfl
@[simp] theorem State.setCans_mramW (x : List Can) : (s.setCans x).mramW = s.mramW := rfl
@[simp] theorem State.setCans_tbLatch (x : List Can) : (s.setCans x).tbLatch = s.tbLatch := rfl
@[simp] theorem State.setCans_ce (x : List Can) : (s.setCans x).ce = s.ce := rfl
@[simp] theorem State.setCans_fox (x : List Can) : (s.setCans x).fox = s.fox := rfl
@[simp] theorem State.setCans_conv (x : List Can) : (s.setCans x).conv = s.conv := rfl
@[simp] theorem State.setCans_badger (x : List Can) : (s.setCans x).badger = s.badger := rfl
@[simp] theorem State.setCans_marten (x : List Can) : (s.setCans x).marten = s.marten := rfl
@[simp] theorem State.setCans_gates (x : List Can) : (s.setCans x).gates = s.gates := rfl
@[simp] theorem State.setCans_scg (x : List Can) : (s.setCans x).scg = s.scg := rfl
@[simp] theorem State.setCans_osd (x : List Can) : (s.setCans x).osd = s.osd := rfl
@[simp] theorem State.setCans_kcp (x : List Can) : (s.setCans x).kcp = s.kcp := rfl
@[simp] theorem State.setCans_modes (x : List Can) : (s.setCans x).modes = s.modes := rfl
@[simp] theorem State.setCans_act (x : List Can) : (s.setCans x).act = s.act := rfl
@[simp] theorem State.setCans_pos (x : List Can) : (s.setCans x).pos = s.pos := rfl
@[simp] theorem State.setCans_ledger (x : List Can) : (s.setCans x).ledger = s.ledger := rfl
@[simp] theorem State.setCans_hk (x : List Can) : (s.setCans x).hk = s.hk := rfl
@[simp] theorem State.setCans_sc (x : List Can) : (s.setCans x).sc = s.sc := rfl
@[simp] theorem State.setCans_scc (x : List Can) : (s.setCans x).scc = s.scc := rfl
@[simp] theorem State.setCans_dma (x : List Can) : (s.setCans x).dma = s.dma := rfl
@[simp] theorem State.setCans_can (x : List Can) : (s.setCans x).can = x := rfl
@[simp] theorem State.setCans_canTm (x : List Can) : (s.setCans x).canTm = s.canTm := rfl
@[simp] theorem State.setCans_eth (x : List Can) : (s.setCans x).eth = s.eth := rfl
@[simp] theorem State.setCans_asl (x : List Can) : (s.setCans x).asl = s.asl := rfl
@[simp] theorem State.setCans_sup (x : List Can) : (s.setCans x).sup = s.sup := rfl
@[simp] theorem State.setCans_start (x : List Can) : (s.setCans x).start = s.start := rfl
@[simp] theorem State.setCans_rd (x : List Can) : (s.setCans x).rd r = s.rd r := rfl
@[simp] theorem State.setCans_get (x : List Can) : (s.setCans x).get f = s.get f := rfl
@[simp] theorem State.setCans_is (x : List Can) : (s.setCans x).is f = s.is f := rfl
@[simp] theorem State.setCans_bit (x : List Can) : (s.setCans x).bit f i = s.bit f i := rfl

@[simp] theorem State.setPllA_pending (x : Bool) : (s.setPllA x).pending = s.pending := rfl
@[simp] theorem State.setPllA_order (x : Bool) : (s.setPllA x).order = s.order := rfl
@[simp] theorem State.setPllA_regs (x : Bool) : (s.setPllA x).regs = s.regs := rfl
@[simp] theorem State.setPllA_mem (x : Bool) : (s.setPllA x).mem = s.mem := rfl
@[simp] theorem State.setPllA_fresh (x : Bool) : (s.setPllA x).fresh = s.fresh := rfl
@[simp] theorem State.setPllA_clk (x : Bool) : (s.setPllA x).clk = s.clk := rfl
@[simp] theorem State.setPllA_cyc (x : Bool) : (s.setPllA x).cyc = s.cyc := rfl
@[simp] theorem State.setPllA_evl (x : Bool) : (s.setPllA x).evl = s.evl := rfl
@[simp] theorem State.setPllA_irqs (x : Bool) : (s.setPllA x).irqs = s.irqs := rfl
@[simp] theorem State.setPllA_pwm (x : Bool) : (s.setPllA x).pwm = s.pwm := rfl
@[simp] theorem State.setPllA_on (x : Bool) : (s.setPllA x).on = s.on := rfl
@[simp] theorem State.setPllA_pllA (x : Bool) : (s.setPllA x).pllA = x := rfl
@[simp] theorem State.setPllA_pllB (x : Bool) : (s.setPllA x).pllB = s.pllB := rfl
@[simp] theorem State.setPllA_busErr (x : Bool) : (s.setPllA x).busErr = s.busErr := rfl
@[simp] theorem State.setPllA_mramW (x : Bool) : (s.setPllA x).mramW = s.mramW := rfl
@[simp] theorem State.setPllA_tbLatch (x : Bool) : (s.setPllA x).tbLatch = s.tbLatch := rfl
@[simp] theorem State.setPllA_ce (x : Bool) : (s.setPllA x).ce = s.ce := rfl
@[simp] theorem State.setPllA_fox (x : Bool) : (s.setPllA x).fox = s.fox := rfl
@[simp] theorem State.setPllA_conv (x : Bool) : (s.setPllA x).conv = s.conv := rfl
@[simp] theorem State.setPllA_badger (x : Bool) : (s.setPllA x).badger = s.badger := rfl
@[simp] theorem State.setPllA_marten (x : Bool) : (s.setPllA x).marten = s.marten := rfl
@[simp] theorem State.setPllA_gates (x : Bool) : (s.setPllA x).gates = s.gates := rfl
@[simp] theorem State.setPllA_scg (x : Bool) : (s.setPllA x).scg = s.scg := rfl
@[simp] theorem State.setPllA_osd (x : Bool) : (s.setPllA x).osd = s.osd := rfl
@[simp] theorem State.setPllA_kcp (x : Bool) : (s.setPllA x).kcp = s.kcp := rfl
@[simp] theorem State.setPllA_modes (x : Bool) : (s.setPllA x).modes = s.modes := rfl
@[simp] theorem State.setPllA_act (x : Bool) : (s.setPllA x).act = s.act := rfl
@[simp] theorem State.setPllA_pos (x : Bool) : (s.setPllA x).pos = s.pos := rfl
@[simp] theorem State.setPllA_ledger (x : Bool) : (s.setPllA x).ledger = s.ledger := rfl
@[simp] theorem State.setPllA_hk (x : Bool) : (s.setPllA x).hk = s.hk := rfl
@[simp] theorem State.setPllA_sc (x : Bool) : (s.setPllA x).sc = s.sc := rfl
@[simp] theorem State.setPllA_scc (x : Bool) : (s.setPllA x).scc = s.scc := rfl
@[simp] theorem State.setPllA_dma (x : Bool) : (s.setPllA x).dma = s.dma := rfl
@[simp] theorem State.setPllA_can (x : Bool) : (s.setPllA x).can = s.can := rfl
@[simp] theorem State.setPllA_canTm (x : Bool) : (s.setPllA x).canTm = s.canTm := rfl
@[simp] theorem State.setPllA_eth (x : Bool) : (s.setPllA x).eth = s.eth := rfl
@[simp] theorem State.setPllA_asl (x : Bool) : (s.setPllA x).asl = s.asl := rfl
@[simp] theorem State.setPllA_sup (x : Bool) : (s.setPllA x).sup = s.sup := rfl
@[simp] theorem State.setPllA_start (x : Bool) : (s.setPllA x).start = s.start := rfl
@[simp] theorem State.setPllA_rd (x : Bool) : (s.setPllA x).rd r = s.rd r := rfl
@[simp] theorem State.setPllA_get (x : Bool) : (s.setPllA x).get f = s.get f := rfl
@[simp] theorem State.setPllA_is (x : Bool) : (s.setPllA x).is f = s.is f := rfl
@[simp] theorem State.setPllA_bit (x : Bool) : (s.setPllA x).bit f i = s.bit f i := rfl

@[simp] theorem State.setPllB_pending (x : Bool) : (s.setPllB x).pending = s.pending := rfl
@[simp] theorem State.setPllB_order (x : Bool) : (s.setPllB x).order = s.order := rfl
@[simp] theorem State.setPllB_regs (x : Bool) : (s.setPllB x).regs = s.regs := rfl
@[simp] theorem State.setPllB_mem (x : Bool) : (s.setPllB x).mem = s.mem := rfl
@[simp] theorem State.setPllB_fresh (x : Bool) : (s.setPllB x).fresh = s.fresh := rfl
@[simp] theorem State.setPllB_clk (x : Bool) : (s.setPllB x).clk = s.clk := rfl
@[simp] theorem State.setPllB_cyc (x : Bool) : (s.setPllB x).cyc = s.cyc := rfl
@[simp] theorem State.setPllB_evl (x : Bool) : (s.setPllB x).evl = s.evl := rfl
@[simp] theorem State.setPllB_irqs (x : Bool) : (s.setPllB x).irqs = s.irqs := rfl
@[simp] theorem State.setPllB_pwm (x : Bool) : (s.setPllB x).pwm = s.pwm := rfl
@[simp] theorem State.setPllB_on (x : Bool) : (s.setPllB x).on = s.on := rfl
@[simp] theorem State.setPllB_pllA (x : Bool) : (s.setPllB x).pllA = s.pllA := rfl
@[simp] theorem State.setPllB_pllB (x : Bool) : (s.setPllB x).pllB = x := rfl
@[simp] theorem State.setPllB_busErr (x : Bool) : (s.setPllB x).busErr = s.busErr := rfl
@[simp] theorem State.setPllB_mramW (x : Bool) : (s.setPllB x).mramW = s.mramW := rfl
@[simp] theorem State.setPllB_tbLatch (x : Bool) : (s.setPllB x).tbLatch = s.tbLatch := rfl
@[simp] theorem State.setPllB_ce (x : Bool) : (s.setPllB x).ce = s.ce := rfl
@[simp] theorem State.setPllB_fox (x : Bool) : (s.setPllB x).fox = s.fox := rfl
@[simp] theorem State.setPllB_conv (x : Bool) : (s.setPllB x).conv = s.conv := rfl
@[simp] theorem State.setPllB_badger (x : Bool) : (s.setPllB x).badger = s.badger := rfl
@[simp] theorem State.setPllB_marten (x : Bool) : (s.setPllB x).marten = s.marten := rfl
@[simp] theorem State.setPllB_gates (x : Bool) : (s.setPllB x).gates = s.gates := rfl
@[simp] theorem State.setPllB_scg (x : Bool) : (s.setPllB x).scg = s.scg := rfl
@[simp] theorem State.setPllB_osd (x : Bool) : (s.setPllB x).osd = s.osd := rfl
@[simp] theorem State.setPllB_kcp (x : Bool) : (s.setPllB x).kcp = s.kcp := rfl
@[simp] theorem State.setPllB_modes (x : Bool) : (s.setPllB x).modes = s.modes := rfl
@[simp] theorem State.setPllB_act (x : Bool) : (s.setPllB x).act = s.act := rfl
@[simp] theorem State.setPllB_pos (x : Bool) : (s.setPllB x).pos = s.pos := rfl
@[simp] theorem State.setPllB_ledger (x : Bool) : (s.setPllB x).ledger = s.ledger := rfl
@[simp] theorem State.setPllB_hk (x : Bool) : (s.setPllB x).hk = s.hk := rfl
@[simp] theorem State.setPllB_sc (x : Bool) : (s.setPllB x).sc = s.sc := rfl
@[simp] theorem State.setPllB_scc (x : Bool) : (s.setPllB x).scc = s.scc := rfl
@[simp] theorem State.setPllB_dma (x : Bool) : (s.setPllB x).dma = s.dma := rfl
@[simp] theorem State.setPllB_can (x : Bool) : (s.setPllB x).can = s.can := rfl
@[simp] theorem State.setPllB_canTm (x : Bool) : (s.setPllB x).canTm = s.canTm := rfl
@[simp] theorem State.setPllB_eth (x : Bool) : (s.setPllB x).eth = s.eth := rfl
@[simp] theorem State.setPllB_asl (x : Bool) : (s.setPllB x).asl = s.asl := rfl
@[simp] theorem State.setPllB_sup (x : Bool) : (s.setPllB x).sup = s.sup := rfl
@[simp] theorem State.setPllB_start (x : Bool) : (s.setPllB x).start = s.start := rfl
@[simp] theorem State.setPllB_rd (x : Bool) : (s.setPllB x).rd r = s.rd r := rfl
@[simp] theorem State.setPllB_get (x : Bool) : (s.setPllB x).get f = s.get f := rfl
@[simp] theorem State.setPllB_is (x : Bool) : (s.setPllB x).is f = s.is f := rfl
@[simp] theorem State.setPllB_bit (x : Bool) : (s.setPllB x).bit f i = s.bit f i := rfl

@[simp] theorem State.wr_pending : (s.wr r v).pending = s.pending := rfl
@[simp] theorem State.wr_order : (s.wr r v).order = s.order := rfl
@[simp] theorem State.wr_mem : (s.wr r v).mem = s.mem := rfl
@[simp] theorem State.wr_fresh : (s.wr r v).fresh = s.fresh := rfl
@[simp] theorem State.wr_clk : (s.wr r v).clk = s.clk := rfl
@[simp] theorem State.wr_cyc : (s.wr r v).cyc = s.cyc := rfl
@[simp] theorem State.wr_evl : (s.wr r v).evl = s.evl := rfl
@[simp] theorem State.wr_irqs : (s.wr r v).irqs = s.irqs := rfl
@[simp] theorem State.wr_pwm : (s.wr r v).pwm = s.pwm := rfl
@[simp] theorem State.wr_on : (s.wr r v).on = s.on := rfl
@[simp] theorem State.wr_pllA : (s.wr r v).pllA = s.pllA := rfl
@[simp] theorem State.wr_pllB : (s.wr r v).pllB = s.pllB := rfl
@[simp] theorem State.wr_busErr : (s.wr r v).busErr = s.busErr := rfl
@[simp] theorem State.wr_mramW : (s.wr r v).mramW = s.mramW := rfl
@[simp] theorem State.wr_tbLatch : (s.wr r v).tbLatch = s.tbLatch := rfl
@[simp] theorem State.wr_ce : (s.wr r v).ce = s.ce := rfl
@[simp] theorem State.wr_fox : (s.wr r v).fox = s.fox := rfl
@[simp] theorem State.wr_conv : (s.wr r v).conv = s.conv := rfl
@[simp] theorem State.wr_badger : (s.wr r v).badger = s.badger := rfl
@[simp] theorem State.wr_marten : (s.wr r v).marten = s.marten := rfl
@[simp] theorem State.wr_gates : (s.wr r v).gates = s.gates := rfl
@[simp] theorem State.wr_scg : (s.wr r v).scg = s.scg := rfl
@[simp] theorem State.wr_osd : (s.wr r v).osd = s.osd := rfl
@[simp] theorem State.wr_kcp : (s.wr r v).kcp = s.kcp := rfl
@[simp] theorem State.wr_modes : (s.wr r v).modes = s.modes := rfl
@[simp] theorem State.wr_act : (s.wr r v).act = s.act := rfl
@[simp] theorem State.wr_pos : (s.wr r v).pos = s.pos := rfl
@[simp] theorem State.wr_ledger : (s.wr r v).ledger = s.ledger := rfl
@[simp] theorem State.wr_hk : (s.wr r v).hk = s.hk := rfl
@[simp] theorem State.wr_sc : (s.wr r v).sc = s.sc := rfl
@[simp] theorem State.wr_scc : (s.wr r v).scc = s.scc := rfl
@[simp] theorem State.wr_dma : (s.wr r v).dma = s.dma := rfl
@[simp] theorem State.wr_can : (s.wr r v).can = s.can := rfl
@[simp] theorem State.wr_canTm : (s.wr r v).canTm = s.canTm := rfl
@[simp] theorem State.wr_eth : (s.wr r v).eth = s.eth := rfl
@[simp] theorem State.wr_asl : (s.wr r v).asl = s.asl := rfl
@[simp] theorem State.wr_sup : (s.wr r v).sup = s.sup := rfl
@[simp] theorem State.wr_start : (s.wr r v).start = s.start := rfl
@[simp] theorem State.put_pending : (s.put f i).pending = s.pending := rfl
@[simp] theorem State.put_order : (s.put f i).order = s.order := rfl
@[simp] theorem State.put_mem : (s.put f i).mem = s.mem := rfl
@[simp] theorem State.put_fresh : (s.put f i).fresh = s.fresh := rfl
@[simp] theorem State.put_clk : (s.put f i).clk = s.clk := rfl
@[simp] theorem State.put_cyc : (s.put f i).cyc = s.cyc := rfl
@[simp] theorem State.put_evl : (s.put f i).evl = s.evl := rfl
@[simp] theorem State.put_irqs : (s.put f i).irqs = s.irqs := rfl
@[simp] theorem State.put_pwm : (s.put f i).pwm = s.pwm := rfl
@[simp] theorem State.put_on : (s.put f i).on = s.on := rfl
@[simp] theorem State.put_pllA : (s.put f i).pllA = s.pllA := rfl
@[simp] theorem State.put_pllB : (s.put f i).pllB = s.pllB := rfl
@[simp] theorem State.put_busErr : (s.put f i).busErr = s.busErr := rfl
@[simp] theorem State.put_mramW : (s.put f i).mramW = s.mramW := rfl
@[simp] theorem State.put_tbLatch : (s.put f i).tbLatch = s.tbLatch := rfl
@[simp] theorem State.put_ce : (s.put f i).ce = s.ce := rfl
@[simp] theorem State.put_fox : (s.put f i).fox = s.fox := rfl
@[simp] theorem State.put_conv : (s.put f i).conv = s.conv := rfl
@[simp] theorem State.put_badger : (s.put f i).badger = s.badger := rfl
@[simp] theorem State.put_marten : (s.put f i).marten = s.marten := rfl
@[simp] theorem State.put_gates : (s.put f i).gates = s.gates := rfl
@[simp] theorem State.put_scg : (s.put f i).scg = s.scg := rfl
@[simp] theorem State.put_osd : (s.put f i).osd = s.osd := rfl
@[simp] theorem State.put_kcp : (s.put f i).kcp = s.kcp := rfl
@[simp] theorem State.put_modes : (s.put f i).modes = s.modes := rfl
@[simp] theorem State.put_act : (s.put f i).act = s.act := rfl
@[simp] theorem State.put_pos : (s.put f i).pos = s.pos := rfl
@[simp] theorem State.put_ledger : (s.put f i).ledger = s.ledger := rfl
@[simp] theorem State.put_hk : (s.put f i).hk = s.hk := rfl
@[simp] theorem State.put_sc : (s.put f i).sc = s.sc := rfl
@[simp] theorem State.put_scc : (s.put f i).scc = s.scc := rfl
@[simp] theorem State.put_dma : (s.put f i).dma = s.dma := rfl
@[simp] theorem State.put_can : (s.put f i).can = s.can := rfl
@[simp] theorem State.put_canTm : (s.put f i).canTm = s.canTm := rfl
@[simp] theorem State.put_eth : (s.put f i).eth = s.eth := rfl
@[simp] theorem State.put_asl : (s.put f i).asl = s.asl := rfl
@[simp] theorem State.put_sup : (s.put f i).sup = s.sup := rfl
@[simp] theorem State.put_start : (s.put f i).start = s.start := rfl
@[simp] theorem State.wrByte_pending : (s.wrByte i b).pending = s.pending := rfl
@[simp] theorem State.wrByte_order : (s.wrByte i b).order = s.order := rfl
@[simp] theorem State.wrByte_regs : (s.wrByte i b).regs = s.regs := rfl
@[simp] theorem State.wrByte_fresh : (s.wrByte i b).fresh = s.fresh := rfl
@[simp] theorem State.wrByte_clk : (s.wrByte i b).clk = s.clk := rfl
@[simp] theorem State.wrByte_cyc : (s.wrByte i b).cyc = s.cyc := rfl
@[simp] theorem State.wrByte_evl : (s.wrByte i b).evl = s.evl := rfl
@[simp] theorem State.wrByte_irqs : (s.wrByte i b).irqs = s.irqs := rfl
@[simp] theorem State.wrByte_pwm : (s.wrByte i b).pwm = s.pwm := rfl
@[simp] theorem State.wrByte_on : (s.wrByte i b).on = s.on := rfl
@[simp] theorem State.wrByte_pllA : (s.wrByte i b).pllA = s.pllA := rfl
@[simp] theorem State.wrByte_pllB : (s.wrByte i b).pllB = s.pllB := rfl
@[simp] theorem State.wrByte_busErr : (s.wrByte i b).busErr = s.busErr := rfl
@[simp] theorem State.wrByte_mramW : (s.wrByte i b).mramW = s.mramW := rfl
@[simp] theorem State.wrByte_tbLatch : (s.wrByte i b).tbLatch = s.tbLatch := rfl
@[simp] theorem State.wrByte_ce : (s.wrByte i b).ce = s.ce := rfl
@[simp] theorem State.wrByte_fox : (s.wrByte i b).fox = s.fox := rfl
@[simp] theorem State.wrByte_conv : (s.wrByte i b).conv = s.conv := rfl
@[simp] theorem State.wrByte_badger : (s.wrByte i b).badger = s.badger := rfl
@[simp] theorem State.wrByte_marten : (s.wrByte i b).marten = s.marten := rfl
@[simp] theorem State.wrByte_gates : (s.wrByte i b).gates = s.gates := rfl
@[simp] theorem State.wrByte_scg : (s.wrByte i b).scg = s.scg := rfl
@[simp] theorem State.wrByte_osd : (s.wrByte i b).osd = s.osd := rfl
@[simp] theorem State.wrByte_kcp : (s.wrByte i b).kcp = s.kcp := rfl
@[simp] theorem State.wrByte_modes : (s.wrByte i b).modes = s.modes := rfl
@[simp] theorem State.wrByte_act : (s.wrByte i b).act = s.act := rfl
@[simp] theorem State.wrByte_pos : (s.wrByte i b).pos = s.pos := rfl
@[simp] theorem State.wrByte_ledger : (s.wrByte i b).ledger = s.ledger := rfl
@[simp] theorem State.wrByte_hk : (s.wrByte i b).hk = s.hk := rfl
@[simp] theorem State.wrByte_sc : (s.wrByte i b).sc = s.sc := rfl
@[simp] theorem State.wrByte_scc : (s.wrByte i b).scc = s.scc := rfl
@[simp] theorem State.wrByte_dma : (s.wrByte i b).dma = s.dma := rfl
@[simp] theorem State.wrByte_can : (s.wrByte i b).can = s.can := rfl
@[simp] theorem State.wrByte_canTm : (s.wrByte i b).canTm = s.canTm := rfl
@[simp] theorem State.wrByte_eth : (s.wrByte i b).eth = s.eth := rfl
@[simp] theorem State.wrByte_asl : (s.wrByte i b).asl = s.asl := rfl
@[simp] theorem State.wrByte_sup : (s.wrByte i b).sup = s.sup := rfl
@[simp] theorem State.wrByte_start : (s.wrByte i b).start = s.start := rfl
@[simp] theorem State.wrByte_rd : (s.wrByte i b).rd r = s.rd r := rfl
@[simp] theorem State.wrByte_get : (s.wrByte i b).get f = s.get f := rfl

end

/-! ### Association lists -/

theorem lookupKey_insertKey_self {α : Type} (k : Nat) (v : α) (l : List (Nat × α)) : lookupKey k (insertKey k v l) = some v := by
  induction l with
  | nil => simp [insertKey, lookupKey]
  | cons e t ih =>
    obtain ⟨a, w⟩ := e
    unfold insertKey
    split
    · simp [lookupKey]
    · split
      · simp [lookupKey]
      · next h1 h2 =>
        have : (a == k) = false := by simp only [beq_iff_eq] at h2; simp; omega
        simp [lookupKey, this, ih]

theorem lookupKey_insertKey_ne {α : Type} {k j : Nat} (v : α) (l : List (Nat × α)) (h : j ≠ k) :
    lookupKey j (insertKey k v l) = lookupKey j l := by
  induction l with
  | nil => simp [insertKey, lookupKey]; omega
  | cons e t ih =>
    obtain ⟨a, w⟩ := e
    unfold insertKey
    split
    · have : (k == j) = false := by simp; omega
      simp [lookupKey, this]
    · split
      · next h2 =>
        simp only [beq_iff_eq] at h2
        have hk : (k == j) = false := by simp; omega
        have ha : (a == j) = false := by simp; omega
        simp [lookupKey, hk, ha]
      · by_cases ha : (a == j) = true <;> simp [lookupKey, ha, ih]

/-! ### Registers -/

@[simp] theorem State.rd_wr_self (s : State) (r : Reg) (v : Word) : (s.wr r v).rd r = v := by
  simp [State.rd, State.wr, lookupKey_insertKey_self]

/-- A write leaves every register at another address as it was. -/
theorem State.rd_wr_ne (s : State) {r q : Reg} (v : Word) (h : q.addr ≠ r.addr) : (s.wr r v).rd q = s.rd q := by
  simp [State.rd, State.wr, lookupKey_insertKey_ne v s.regs h]

theorem State.rd_put_ne (s : State) {f : Fld} {q : Reg} (v : Nat) (h : q.addr ≠ f.reg.addr) : (s.put f v).rd q = s.rd q :=
  State.rd_wr_ne s _ h

theorem State.get_put_ne (s : State) {f g : Fld} (v : Nat) (h : g.reg.addr ≠ f.reg.addr) : (s.put f v).get g = s.get g := by
  simp [State.get, State.rd_put_ne s v h]

end Sys2Proof.Machine
end

