-- ==== Sys2Proof/Laws/Keep.lean ====
section
/-! SUPPORT. What the operations keep. A property of states that survives the changes to some of State's fields survives every
operation that changes no other field: the lemmas of Laws/Keep*.lean say so once for each operation, for every such property, so
that a frame or an invariant is an application of the lemma of the command's meaning. Bit i of a mask stands for State's field i,
in the order of its declaration. -/

namespace Sys2Proof.Machine

/-- P survives the changes to the fields whose bits are in m: a register or a byte of memory takes a value, entries are dropped,
the event log's queue stays within its 64 entries,
the lists of instances keep their lengths, the instant and what its writes find stay (bit 5) or go on (bit 39), and any other field takes any value. -/
structure Keep (P : State → Prop) (m : Nat) : Prop where
  regs : m.testBit 2 = true → ∀ s a v, P s → P { s with regs := insertKey a v s.regs }
  regsDrop : m.testBit 2 = true → ∀ s p, P s → P { s with regs := s.regs.filter p }
  mem : m.testBit 3 = true → ∀ s a v, P s → P { s with mem := memPut a v s.mem }
  memDrop : m.testBit 3 = true → ∀ s p, P s → P { s with mem := s.mem.filter p }
  fresh : m.testBit 4 = true → ∀ s x, P s → P { s with fresh := x }
  clk : m.testBit 5 = true → ∀ s x, x.now = s.clk.now → x.was = s.clk.was → P s → P { s with clk := x }
  cyc : m.testBit 6 = true → ∀ s x, P s → P { s with cyc := x }
  evl : m.testBit 7 = true → ∀ s (x : EvLog), (s.evl.queue.length ≤ 64 → x.queue.length ≤ 64) → P s → P { s with evl := x }
  irqs : m.testBit 8 = true → ∀ s x, P s → P { s with irqs := x }
  pwm : m.testBit 9 = true → ∀ s (x : List _), (s.pwm.length = 32 → x.length = 32) → P s → P { s with pwm := x }
  on : m.testBit 10 = true → ∀ s x, P s → P { s with on := x }
  pllA : m.testBit 11 = true → ∀ s x, P s → P { s with pllA := x }
  pllB : m.testBit 12 = true → ∀ s x, P s → P { s with pllB := x }
  busErr : m.testBit 13 = true → ∀ s x, P s → P { s with busErr := x }
  mramW : m.testBit 14 = true → ∀ s x, P s → P { s with mramW := x }
  tbLatch : m.testBit 15 = true → ∀ s x, P s → P { s with tbLatch := x }
  ce : m.testBit 16 = true → ∀ s (x : List _), (s.ce.length = 8 → x.length = 8) → P s → P { s with ce := x }
  fox : m.testBit 17 = true → ∀ s x, P s → P { s with fox := x }
  conv : m.testBit 18 = true → ∀ s (x : Conv), (s.conv.Shaped → x.Shaped) → P s → P { s with conv := x }
  badger : m.testBit 19 = true → ∀ s (x : Badger), (s.badger.Shaped → x.Shaped) → P s → P { s with badger := x }
  marten : m.testBit 20 = true → ∀ s x, P s → P { s with marten := x }
  gates : m.testBit 21 = true → ∀ s (x : List _), (s.gates.length = 64 → x.length = 64) → P s → P { s with gates := x }
  scg : m.testBit 22 = true → ∀ s (x : List _), (s.scg.length = 8 → x.length = 8) → P s → P { s with scg := x }
  osd : m.testBit 23 = true → ∀ s x, P s → P { s with osd := x }
  kcp : m.testBit 24 = true → ∀ s (x : Kcp), (s.kcp.Shaped → x.Shaped) → P s → P { s with kcp := x }
  modes : m.testBit 25 = true → ∀ s (x : Modes), (s.modes.Shaped → x.Shaped) → P s → P { s with modes := x }
  act : m.testBit 26 = true → ∀ s (x : List _), (s.act.length = 3 → x.length = 3) → P s → P { s with act := x }
  pos : m.testBit 27 = true → ∀ s (x : PosBlk), (s.pos.Shaped → x.Shaped) → P s → P { s with pos := x }
  ledger : m.testBit 28 = true → ∀ s (x : Ledger), (s.ledger.Shaped → x.Shaped) → P s → P { s with ledger := x }
  hk : m.testBit 29 = true → ∀ s x, P s → P { s with hk := x }
  sc : m.testBit 30 = true → ∀ s (x : List _), (s.sc.length = 12 → x.length = 12) → P s → P { s with sc := x }
  scc : m.testBit 31 = true → ∀ s (x : List _), (s.scc.length = 4 → x.length = 4) → P s → P { s with scc := x }
  dma : m.testBit 32 = true → ∀ s (x : Dma), (s.dma.Shaped → x.Shaped) → P s → P { s with dma := x }
  can : m.testBit 33 = true → ∀ s (x : List _), (s.can.length = 4 → x.length = 4) → P s → P { s with can := x }
  canTm : m.testBit 34 = true → ∀ s x, P s → P { s with canTm := x }
  eth : m.testBit 35 = true → ∀ s x, P s → P { s with eth := x }
  asl : m.testBit 36 = true → ∀ s x, P s → P { s with asl := x }
  sup : m.testBit 37 = true → ∀ s x, P s → P { s with sup := x }
  instant : m.testBit 39 = true → ∀ s x, P s → P { s with clk := x }
  start : m.testBit 38 = true → ∀ s (x : Start), (s.start.Shaped → x.Shaped) → P s → P { s with start := x }

theorem testBit_of_land {m n i : Nat} (hm : m &&& n = m) (hi : m.testBit i = true) : n.testBit i = true := by
  have h := congrArg (fun x => x.testBit i) hm
  simp [Nat.testBit_and, hi] at h
  exact h

theorem Keep.mono {P : State → Prop} {m n : Nat} (h : Keep P n) (hm : m &&& n = m) : Keep P m where
  regs := fun hi => h.regs (testBit_of_land hm hi)
  regsDrop := fun hi => h.regsDrop (testBit_of_land hm hi)
  mem := fun hi => h.mem (testBit_of_land hm hi)
  memDrop := fun hi => h.memDrop (testBit_of_land hm hi)
  fresh := fun hi => h.fresh (testBit_of_land hm hi)
  clk := fun hi => h.clk (testBit_of_land hm hi)
  cyc := fun hi => h.cyc (testBit_of_land hm hi)
  evl := fun hi => h.evl (testBit_of_land hm hi)
  irqs := fun hi => h.irqs (testBit_of_land hm hi)
  pwm := fun hi => h.pwm (testBit_of_land hm hi)
  on := fun hi => h.on (testBit_of_land hm hi)
  pllA := fun hi => h.pllA (testBit_of_land hm hi)
  pllB := fun hi => h.pllB (testBit_of_land hm hi)
  busErr := fun hi => h.busErr (testBit_of_land hm hi)
  mramW := fun hi => h.mramW (testBit_of_land hm hi)
  tbLatch := fun hi => h.tbLatch (testBit_of_land hm hi)
  ce := fun hi => h.ce (testBit_of_land hm hi)
  fox := fun hi => h.fox (testBit_of_land hm hi)
  conv := fun hi => h.conv (testBit_of_land hm hi)
  badger := fun hi => h.badger (testBit_of_land hm hi)
  marten := fun hi => h.marten (testBit_of_land hm hi)
  gates := fun hi => h.gates (testBit_of_land hm hi)
  scg := fun hi => h.scg (testBit_of_land hm hi)
  osd := fun hi => h.osd (testBit_of_land hm hi)
  kcp := fun hi => h.kcp (testBit_of_land hm hi)
  modes := fun hi => h.modes (testBit_of_land hm hi)
  act := fun hi => h.act (testBit_of_land hm hi)
  pos := fun hi => h.pos (testBit_of_land hm hi)
  ledger := fun hi => h.ledger (testBit_of_land hm hi)
  hk := fun hi => h.hk (testBit_of_land hm hi)
  sc := fun hi => h.sc (testBit_of_land hm hi)
  scc := fun hi => h.scc (testBit_of_land hm hi)
  dma := fun hi => h.dma (testBit_of_land hm hi)
  can := fun hi => h.can (testBit_of_land hm hi)
  canTm := fun hi => h.canTm (testBit_of_land hm hi)
  eth := fun hi => h.eth (testBit_of_land hm hi)
  asl := fun hi => h.asl (testBit_of_land hm hi)
  sup := fun hi => h.sup (testBit_of_land hm hi)
  instant := fun hi => h.instant (testBit_of_land hm hi)
  start := fun hi => h.start (testBit_of_land hm hi)

/-- The command answers a next state, which has P. -/
def Answers (P : State → Prop) (r : Res) : Prop := ∃ t, r = .next t ∧ P t

theorem keeps_ite {P : State → Prop} {c : Prop} [Decidable c] {a b : State} (ha : P a) (hb : P b) :
    P (if c then a else b) := by
  split <;> assumption

theorem keeps_iteSnd {P : State → Prop} {α : Type} {c : Prop} [Decidable c] {a b : α × State} (ha : P a.2) (hb : P b.2) :
    P (if c then a else b).2 := by
  split <;> assumption

theorem keeps_iteFst {P : State → Prop} {α : Type} {c : Prop} [Decidable c] {a b : State × α} (ha : P a.1) (hb : P b.1) :
    P (if c then a else b).1 := by
  split <;> assumption

theorem keeps_foldl {P : State → Prop} {α : Type} {f : State → α → State} {l : List α} {s : State}
    (hf : ∀ s a, P s → P (f s a)) (hs : P s) : P (l.foldl f s) := by
  induction l generalizing s with
  | nil => exact hs
  | cons a l ih => exact ih (hf s a hs)

theorem keeps_foldlPair {P : State → Prop} {α β : Type} {f : State × β → α → State × β} {l : List α} {s : State × β}
    (hf : ∀ s a, P s.1 → P (f s a).1) (hs : P s.1) : P (l.foldl f s).1 := by
  induction l generalizing s with
  | nil => exact hs
  | cons a l ih => exact ih (hf s a hs)

theorem keeps_snd {P : State → Prop} {α : Type} {p : α × State} {x : α} {s : State} (he : p = (x, s)) (hp : P p.2) : P s := by
  rw [he] at hp
  exact hp

theorem keeps_fst {P : State → Prop} {α : Type} {p : State × α} {x : α} {s : State} (he : p = (s, x)) (hp : P p.1) : P s := by
  rw [he] at hp
  exact hp

theorem foldl_max_mem (q : List EvEntry) (n : Nat) :
    q.foldl (fun m e => max m e.level) n = n ∨ ∃ x ∈ q, x.level = q.foldl (fun m e => max m e.level) n := by
  induction q generalizing n with
  | nil => exact Or.inl rfl
  | cons e t ih =>
    rcases ih (max n e.level) with h | ⟨x, hx, hl⟩
    · rcases Nat.le_total n e.level with hn | hn
      · refine Or.inr ⟨e, List.mem_cons_self, ?_⟩
        simp only [List.foldl_cons, h]
        omega
      · refine Or.inl ?_
        simp only [List.foldl_cons, h]
        omega
    · exact Or.inr ⟨x, List.mem_cons_of_mem _ hx, hl⟩

/-- Dropping the newest event of a level that the queue holds makes room for one. -/
theorem evDropNewest_length (l : Nat) (q : List EvEntry) (h : ∃ x ∈ q, x.level = l) :
    (evDropNewest l q).length + 1 = q.length := by
  induction q with
  | nil => obtain ⟨x, hx, -⟩ := h; simp at hx
  | cons e t ih =>
    unfold evDropNewest
    split
    · next ha =>
      simp only [List.any_eq_true, beq_iff_eq] at ha
      simpa using ih ha
    · next ha =>
      obtain ⟨x, hx, hl⟩ := h
      rcases List.mem_cons.mp hx with rfl | hx
      · simp [hl]
      · exact absurd (List.any_eq_true.mpr ⟨x, hx, by simp [hl]⟩) ha

/-- A full queue keeps its length (R75). -/
theorem evDrop_length (q : List EvEntry) (e : EvEntry) :
    (if e.level < evMaxLevel q then evDropNewest (evMaxLevel q) q ++ [e] else q).length ≤ q.length := by
  split
  · next h =>
    have := foldl_max_mem q 0
    have hm : ∃ x ∈ q, x.level = evMaxLevel q := by
      rcases this with h0 | hx
      · unfold evMaxLevel at h
        omega
      · exact hx
    have := evDropNewest_length _ q hm
    simp
    omega
  · exact Nat.le_refl _

/-- The event log's queue stays what it is where only other fields change. -/
theorem keep_evl (s : State) : Keep (fun t => t.evl = s.evl) 1099511627647 := by
  constructor <;> intros <;> first | assumption | contradiction

end Sys2Proof.Machine
end

