-- ==== Sys2Proof/Laws/KeepOps.lean ====
section
/-! SUPPORT. What the operations of Machine/Ops.lean keep (Laws/Keep.lean). -/

namespace Sys2Proof.Machine

variable {P : State → Prop}

theorem State.setClk_keeps (h : Keep P 549755813888) {s : State} {x : Clocks} (hs : P s) :
    P (State.setClk s x) := by
  exact h.instant (by decide) _ _ hs

theorem State.noteClk_keeps (h : Keep P 32) {s : State} {x : Clocks} (hs : P s) :
    P (State.noteClk s x) := by
  exact h.clk (by decide) _ _ rfl rfl hs

theorem State.setFresh_keeps (h : Keep P 16) {s : State} {x : Nat} (hs : P s) :
    P (State.setFresh s x) := by
  unfold State.setFresh
  with_reducible repeat' first
    | assumption | apply h.fresh (by decide) | (extract_lets +onlyGivenNames x)

theorem State.setCyc_keeps (h : Keep P 64) {s : State} {x : Nat} (hs : P s) :
    P (State.setCyc s x) := by
  unfold State.setCyc
  with_reducible repeat' first
    | assumption | apply h.cyc (by decide) | (extract_lets +onlyGivenNames x)

theorem State.setEvl_keeps (h : Keep P 128) {s : State} {x : EvLog} (hq : s.evl.queue.length ≤ 64 → x.queue.length ≤ 64) (hs : P s) :
    P (State.setEvl s x) := by
  exact h.evl (by decide) _ _ hq hs

theorem State.setIrqs_keeps (h : Keep P 256) {s : State} {x : List Irq} (hs : P s) :
    P (State.setIrqs s x) := by
  unfold State.setIrqs
  with_reducible repeat' first
    | assumption | apply h.irqs (by decide) | (extract_lets +onlyGivenNames x)

theorem State.setOn_keeps (h : Keep P 1024) {s : State} {x : BitVec 14} (hs : P s) :
    P (State.setOn s x) := by
  unfold State.setOn
  with_reducible repeat' first
    | assumption | apply h.on (by decide) | (extract_lets +onlyGivenNames x)

theorem State.setBusErr_keeps (h : Keep P 8192) {s : State} {x : List (Initiator × Nat × Nat)} (hs : P s) :
    P (State.setBusErr s x) := by
  unfold State.setBusErr
  with_reducible repeat' first
    | assumption | apply h.busErr (by decide) | (extract_lets +onlyGivenNames x)

theorem State.setMramW_keeps (h : Keep P 16384) {s : State} {x : List (Nat × List Byte)} (hs : P s) :
    P (State.setMramW s x) := by
  unfold State.setMramW
  with_reducible repeat' first
    | assumption | apply h.mramW (by decide) | (extract_lets +onlyGivenNames x)

theorem State.setTbLatch_keeps (h : Keep P 32768) {s : State} {x : List (Initiator × Word)} (hs : P s) :
    P (State.setTbLatch s x) := by
  unfold State.setTbLatch
  with_reducible repeat' first
    | assumption | apply h.tbLatch (by decide) | (extract_lets +onlyGivenNames x)

theorem State.setFox_keeps (h : Keep P 131072) {s : State} {x : Fox} (hs : P s) :
    P (State.setFox s x) := by
  unfold State.setFox
  with_reducible repeat' first
    | assumption | apply h.fox (by decide) | (extract_lets +onlyGivenNames x)

theorem State.setMarten_keeps (h : Keep P 1048576) {s : State} {x : Nat} (hs : P s) :
    P (State.setMarten s x) := by
  unfold State.setMarten
  with_reducible repeat' first
    | assumption | apply h.marten (by decide) | (extract_lets +onlyGivenNames x)

theorem State.setOsd_keeps (h : Keep P 8388608) {s : State} {x : Osd} (hs : P s) :
    P (State.setOsd s x) := by
  unfold State.setOsd
  with_reducible repeat' first
    | assumption | apply h.osd (by decide) | (extract_lets +onlyGivenNames x)

theorem State.setPosBlk_keeps (h : Keep P 134217728) {s : State} {x : PosBlk} (hq : s.pos.Shaped → x.Shaped) (hs : P s) :
    P (State.setPosBlk s x) := by
  exact h.pos (by decide) _ _ hq hs

theorem State.setLedger_keeps (h : Keep P 268435456) {s : State} {x : Ledger} (hq : s.ledger.Shaped → x.Shaped) (hs : P s) :
    P (State.setLedger s x) := by
  exact h.ledger (by decide) _ _ hq hs

theorem State.setHk_keeps (h : Keep P 536870912) {s : State} {x : Hk} (hs : P s) :
    P (State.setHk s x) := by
  unfold State.setHk
  with_reducible repeat' first
    | assumption | apply h.hk (by decide) | (extract_lets +onlyGivenNames x)

theorem State.setDma_keeps (h : Keep P 4294967296) {s : State} {x : Dma} (hq : s.dma.Shaped → x.Shaped) (hs : P s) :
    P (State.setDma s x) := by
  exact h.dma (by decide) _ _ hq hs

theorem State.setCanTm_keeps (h : Keep P 17179869184) {s : State} {x : CanTm} (hs : P s) :
    P (State.setCanTm s x) := by
  unfold State.setCanTm
  with_reducible repeat' first
    | assumption | apply h.canTm (by decide) | (extract_lets +onlyGivenNames x)

theorem State.setEth_keeps (h : Keep P 34359738368) {s : State} {x : Eth} (hs : P s) :
    P (State.setEth s x) := by
  unfold State.setEth
  with_reducible repeat' first
    | assumption | apply h.eth (by decide) | (extract_lets +onlyGivenNames x)

theorem State.setAsl_keeps (h : Keep P 68719476736) {s : State} {x : Asl} (hs : P s) :
    P (State.setAsl s x) := by
  unfold State.setAsl
  with_reducible repeat' first
    | assumption | apply h.asl (by decide) | (extract_lets +onlyGivenNames x)

theorem State.setSup_keeps (h : Keep P 137438953472) {s : State} {x : Supply} (hs : P s) :
    P (State.setSup s x) := by
  unfold State.setSup
  with_reducible repeat' first
    | assumption | apply h.sup (by decide) | (extract_lets +onlyGivenNames x)

theorem State.setStart_keeps (h : Keep P 274877906944) {s : State} {x : Start} (hq : s.start.Shaped → x.Shaped) (hs : P s) :
    P (State.setStart s x) := by
  exact h.start (by decide) _ _ hq hs

theorem State.setModes_keeps (h : Keep P 33554432) {s : State} {x : Modes} (hq : s.modes.Shaped → x.Shaped) (hs : P s) :
    P (State.setModes s x) := by
  exact h.modes (by decide) _ _ hq hs

theorem State.setKcp_keeps (h : Keep P 16777216) {s : State} {x : Kcp} (hq : s.kcp.Shaped → x.Shaped) (hs : P s) :
    P (State.setKcp s x) := by
  exact h.kcp (by decide) _ _ hq hs

theorem State.setConv_keeps (h : Keep P 262144) {s : State} {x : Conv} (hq : s.conv.Shaped → x.Shaped) (hs : P s) :
    P (State.setConv s x) := by
  exact h.conv (by decide) _ _ hq hs

theorem State.setBadger_keeps (h : Keep P 524288) {s : State} {x : Badger} (hq : s.badger.Shaped → x.Shaped) (hs : P s) :
    P (State.setBadger s x) := by
  exact h.badger (by decide) _ _ hq hs

theorem State.setScThreads_keeps (h : Keep P 1073741824) {s : State} {x : List ScThr} (hq : s.sc.length = 12 → x.length = 12) (hs : P s) :
    P (State.setScThreads s x) := by
  exact h.sc (by decide) _ _ hq hs

theorem State.setScCores_keeps (h : Keep P 2147483648) {s : State} {x : List ScCore} (hq : s.scc.length = 4 → x.length = 4) (hs : P s) :
    P (State.setScCores s x) := by
  exact h.scc (by decide) _ _ hq hs

theorem State.setPwms_keeps (h : Keep P 512) {s : State} {x : List PwmMod} (hq : s.pwm.length = 32 → x.length = 32) (hs : P s) :
    P (State.setPwms s x) := by
  exact h.pwm (by decide) _ _ hq hs

theorem State.setCes_keeps (h : Keep P 65536) {s : State} {x : List CeCore} (hq : s.ce.length = 8 → x.length = 8) (hs : P s) :
    P (State.setCes s x) := by
  exact h.ce (by decide) _ _ hq hs

theorem State.setGates_keeps (h : Keep P 2097152) {s : State} {x : List GateCh} (hq : s.gates.length = 64 → x.length = 64) (hs : P s) :
    P (State.setGates s x) := by
  exact h.gates (by decide) _ _ hq hs

theorem State.setScgs_keeps (h : Keep P 4194304) {s : State} {x : List Scg} (hq : s.scg.length = 8 → x.length = 8) (hs : P s) :
    P (State.setScgs s x) := by
  exact h.scg (by decide) _ _ hq hs

theorem State.setActs_keeps (h : Keep P 67108864) {s : State} {x : List ActSeq} (hq : s.act.length = 3 → x.length = 3) (hs : P s) :
    P (State.setActs s x) := by
  exact h.act (by decide) _ _ hq hs

theorem State.setCans_keeps (h : Keep P 8589934592) {s : State} {x : List Can} (hq : s.can.length = 4 → x.length = 4) (hs : P s) :
    P (State.setCans s x) := by
  exact h.can (by decide) _ _ hq hs

theorem State.setPllA_keeps (h : Keep P 2048) {s : State} {x : Bool} (hs : P s) :
    P (State.setPllA s x) := by
  unfold State.setPllA
  with_reducible repeat' first
    | assumption | apply h.pllA (by decide) | (extract_lets +onlyGivenNames x)

theorem State.setPllB_keeps (h : Keep P 4096) {s : State} {x : Bool} (hs : P s) :
    P (State.setPllB s x) := by
  unfold State.setPllB
  with_reducible repeat' first
    | assumption | apply h.pllB (by decide) | (extract_lets +onlyGivenNames x)

theorem State.wr_keeps (h : Keep P 4) {s : State} {r : Reg} {v : Word} (hs : P s) :
    P (State.wr s r v) := by
  unfold State.wr
  with_reducible repeat' first
    | assumption | apply h.regs (by decide) | apply h.regsDrop (by decide) | (extract_lets +onlyGivenNames x)

theorem State.put_keeps (h : Keep P 4) {s : State} {f : Fld} {v : Nat} (hs : P s) :
    P (State.put s f v) := by
  unfold State.put
  with_reducible repeat' first
    | assumption | apply State.wr_keeps (h.mono (by decide))

theorem State.putB_keeps (h : Keep P 4) {s : State} {f : Fld} {b : Bool} (hs : P s) :
    P (State.putB s f b) := by
  unfold State.putB
  with_reducible repeat' first
    | assumption | apply State.put_keeps (h.mono (by decide))

theorem State.putFldBit_keeps (h : Keep P 4) {s : State} {f : Fld} {i : Nat} {b : Bool} (hs : P s) :
    P (State.putFldBit s f i b) := by
  unfold State.putFldBit
  with_reducible repeat' first
    | assumption | apply State.put_keeps (h.mono (by decide))

theorem State.inc_keeps (h : Keep P 4) {s : State} {f : Fld} (hs : P s) :
    P (State.inc s f) := by
  unfold State.inc
  with_reducible repeat' first
    | assumption | apply State.put_keeps (h.mono (by decide)) | apply keeps_ite (P := P)

theorem State.incBy_keeps (h : Keep P 4) {s : State} {f : Fld} {n : Nat} (hs : P s) :
    P (State.incBy s f n) := by
  unfold State.incBy
  with_reducible repeat' first
    | assumption | apply State.put_keeps (h.mono (by decide))

theorem State.wrapInc_keeps (h : Keep P 4) {s : State} {f : Fld} (hs : P s) :
    P (State.wrapInc s f) := by
  unfold State.wrapInc
  with_reducible repeat' first
    | assumption | apply State.put_keeps (h.mono (by decide))

theorem State.wrByte_keeps (h : Keep P 8) {s : State} {a : Nat} {v : Byte} (hs : P s) :
    P (State.wrByte s a v) := by
  unfold State.wrByte
  with_reducible repeat' first
    | assumption | apply h.mem (by decide) | apply h.memDrop (by decide) | (extract_lets +onlyGivenNames x)

theorem State.wrBytes_keeps (h : Keep P 8) {s : State} {a : Nat} {x2 : List Byte} (hs : P s) :
    P (State.wrBytes s a x2) := by
  induction x2 generalizing s a with
  | nil => exact hs
  | cons b t ih => exact ih (State.wrByte_keeps h hs)

theorem State.wrMem32_keeps (h : Keep P 8) {s : State} {a : Nat} {v : Word} (hs : P s) :
    P (State.wrMem32 s a v) := by
  unfold State.wrMem32
  with_reducible repeat' first
    | assumption | apply State.wrBytes_keeps (h.mono (by decide))

theorem State.useFree_keeps (h : Keep P 16) {s : State} (hs : P s) :
    P (State.useFree s) := by
  unfold State.useFree
  with_reducible repeat' first
    | assumption | apply State.setFresh_keeps (h.mono (by decide))

theorem State.irq_keeps (h : Keep P 256) {s : State} {t : IrqTo} {src : Nat} {ev : Nat} (hs : P s) :
    P (State.irq s t src ev) := by
  unfold State.irq
  with_reducible repeat' first
    | assumption | apply State.setIrqs_keeps (h.mono (by decide))

theorem State.irqIf_keeps (h : Keep P 256) {s : State} {c : Bool} {t : IrqTo} {src : Nat} {ev : Nat} (hs : P s) :
    P (State.irqIf s c t src ev) := by
  unfold State.irqIf
  with_reducible repeat' first
    | assumption | apply State.irq_keeps (h.mono (by decide)) | apply keeps_ite (P := P)

theorem State.evPush_keeps (h : Keep P 132) {s : State} {e : EvEntry} (hs : P s) :
    P (State.evPush s e) := by
  unfold State.evPush
  split
  · refine State.setEvl_keeps (h.mono (by decide)) ?_ hs
    simp; omega
  · extract_lets m q
    refine State.inc_keeps (h.mono (by decide)) (State.setEvl_keeps (h.mono (by decide)) ?_ hs)
    intro hl
    exact Nat.le_trans (evDrop_length s.evl.queue e) hl

theorem State.log_keeps (h : Keep P 132) {s : State} {level : Nat} {index : Nat} {typ : Nat} {data : optParam (List Byte) []} {fox : optParam Bool false} {place : optParam Nat (evPlace level index typ)} (hs : P s) :
    P (State.log s level index typ data fox place) := by
  unfold State.log
  with_reducible repeat' first
    | assumption | (intro _) | apply State.evPush_keeps (h.mono (by decide))
    | (refine State.setEvl_keeps (h.mono (by decide)) (by intro hq; first | exact hq | (simp [State.reset]; done) | simpa using hq) ?_)
    | apply keeps_ite (P := P)
    | (extract_lets +onlyGivenNames x; refine (fun (hx : P x) => ?_) ?_; clear_value x; rotate_left; dsimp -zeta only [x])
    | (extract_lets +onlyGivenNames x)

theorem State.setPwm_keeps (h : Keep P 512) {s : State} {k : Nat} {p : PwmMod} (hs : P s) :
    P (State.setPwm s k p) := by
  unfold State.setPwm
  with_reducible repeat' first
    | assumption
    | (refine State.setPwms_keeps (h.mono (by decide)) (by intro hq; first | exact hq | (simp +zetaDelta at hq ⊢ <;> simp [hq]; done) | simpa +zetaDelta using hq) ?_)

theorem State.setCe_keeps (h : Keep P 65536) {s : State} {n : Nat} {c : CeCore} (hs : P s) :
    P (State.setCe s n c) := by
  unfold State.setCe
  with_reducible repeat' first
    | assumption
    | (refine State.setCes_keeps (h.mono (by decide)) (by intro hq; first | exact hq | (simp +zetaDelta at hq ⊢ <;> simp [hq]; done) | simpa +zetaDelta using hq) ?_)

theorem State.busError_keeps (h : Keep P 8192) {s : State} {i : Initiator} {a : Nat} (hs : P s) :
    P (State.busError s i a) := by
  unfold State.busError
  with_reducible repeat' first
    | assumption | apply State.setBusErr_keeps (h.mono (by decide))

theorem State.ownViolation_keeps (h : Keep P 260) {s : State} {i : Initiator} {k : Nat} (hs : P s) :
    P (State.ownViolation s i k) := by
  unfold State.ownViolation
  with_reducible repeat' first
    | assumption | apply State.irq_keeps (h.mono (by decide)) | apply State.inc_keeps (h.mono (by decide))
    | apply State.put_keeps (h.mono (by decide))

theorem State.countDiscard_keeps (h : Keep P 4) {s : State} {i : Initiator} (hs : P s) :
    P (State.countDiscard s i) := by
  unfold State.countDiscard
  with_reducible repeat' first
    | assumption | apply State.inc_keeps (h.mono (by decide)) | split | (refine keeps_snd (P := P) ‹_› ?_)
    | (refine keeps_fst (P := P) ‹_› ?_)

theorem State.busWrite_keeps (h : Keep P 8192) {s : State} {i : Initiator} {a : Nat} {f : State → State} {n : optParam Nat 4} (hs : P s) (hf : ∀ (y0 : State), P y0 → P (f y0)) :
    P (State.busWrite s i a f n) := by
  unfold State.busWrite
  with_reducible repeat' first
    | assumption | (apply hf) | apply State.busError_keeps (h.mono (by decide)) | apply keeps_ite (P := P)

theorem State.pwmOwned_keeps (h : Keep P 260) {s : State} {i : Initiator} {k : Nat} {f : State → State} (hs : P s) (hf : ∀ (y0 : State), P y0 → P (f y0)) :
    P (State.pwmOwned s i k f) := by
  unfold State.pwmOwned
  with_reducible repeat' first
    | assumption | (apply hf) | apply State.countDiscard_keeps (h.mono (by decide))
    | apply State.ownViolation_keeps (h.mono (by decide)) | apply keeps_ite (P := P)

theorem State.pwmWrite_keeps (h : Keep P 8452) {s : State} {i : Initiator} {k : Nat} {a : Nat} {f : State → State} (hs : P s) (hf : ∀ (y0 : State), P y0 → P (f y0)) :
    P (State.pwmWrite s i k a f) := by
  unfold State.pwmWrite
  with_reducible repeat' first
    | assumption | (intro _) | (apply hf) | apply State.pwmOwned_keeps (h.mono (by decide))
    | apply State.busWrite_keeps (h.mono (by decide))
    | (extract_lets +onlyGivenNames x; refine (fun (hx : P x) => ?_) ?_; clear_value x; rotate_left; dsimp -zeta only [x])

theorem State.ceComplete_keeps (h : Keep P 65540) {s : State} {n : Nat} {k : Nat} {stamp : Nat} (hs : P s) :
    P (State.ceComplete s n k stamp) := by
  unfold State.ceComplete
  with_reducible repeat' first
    | assumption | apply State.setCe_keeps (h.mono (by decide)) | apply State.inc_keeps (h.mono (by decide))
    | apply State.putFldBit_keeps (h.mono (by decide)) | apply keeps_ite (P := P)
    | (extract_lets +onlyGivenNames x; refine (fun (hx : P x) => ?_) ?_; clear_value x; rotate_left; dsimp -zeta only [x])
    | (extract_lets +onlyGivenNames x) | split | (refine keeps_snd (P := P) ‹_› ?_) | (refine keeps_fst (P := P) ‹_› ?_)

theorem State.ceEventSets_keeps (h : Keep P 65540) {s : State} {ev : Nat} (hs : P s) :
    P (State.ceEventSets s ev) := by
  unfold State.ceEventSets
  with_reducible repeat' first
    | assumption | (intro _) | apply State.ceComplete_keeps (h.mono (by decide)) | apply keeps_ite (P := P)
    | apply keeps_foldl (P := P)
    | (extract_lets +onlyGivenNames x; refine (fun (hx : P x) => ?_) ?_; clear_value x; rotate_left; dsimp -zeta only [x])
    | (extract_lets +onlyGivenNames x)

theorem State.ceUnitDone_keeps (h : Keep P 65540) {s : State} {u : Nat} {close : Nat} (hs : P s) :
    P (State.ceUnitDone s u close) := by
  unfold State.ceUnitDone
  with_reducible repeat' first
    | assumption | (intro _) | apply State.ceComplete_keeps (h.mono (by decide)) | apply State.setCe_keeps (h.mono (by decide))
    | apply keeps_ite (P := P) | apply keeps_foldl (P := P)
    | (extract_lets +onlyGivenNames x; refine (fun (hx : P x) => ?_) ?_; clear_value x; rotate_left; dsimp -zeta only [x])
    | (extract_lets +onlyGivenNames x)

end Sys2Proof.Machine
end

