-- ==== Sys2Proof/Laws/KeepKcpOps.lean ====
section
/-! SUPPORT. What the operations of Machine/KcpOps.lean keep (Laws/Keep.lean). -/

namespace Sys2Proof.Machine

variable {P : State → Prop}

theorem State.setCtx_keeps (h : Keep P 16777216) {s : State} {c : Nat} {x : Ctx} (hs : P s) :
    P (State.setCtx s c x) := by
  unfold State.setCtx
  with_reducible repeat' first
    | assumption
    | (refine State.setKcp_keeps (h.mono (by decide)) (by intro hq; first | exact hq | (simp +zetaDelta [Kcp.Shaped] at hq ⊢ <;> simp [hq]; done) | simpa +zetaDelta [Kcp.Shaped] using hq) ?_)
    | (extract_lets +onlyGivenNames x)

theorem State.record_keeps (h : Keep P 16777216) {s : State} {handle : Nat} {seq : Nat} {st : Nat} (hs : P s) :
    P (State.record s handle seq st) := by
  unfold State.record
  with_reducible repeat' first
    | assumption | (intro _) | apply State.setCtx_keeps (h.mono (by decide)) | apply keeps_ite (P := P)
    | (extract_lets +onlyGivenNames x) | split | (refine keeps_snd (P := P) ‹_› ?_) | (refine keeps_fst (P := P) ‹_› ?_)

theorem State.emit_keeps (h : Keep P 16777216) {s : State} {t : Nat} {peer : Nat} {l : List (List Byte)} (hs : P s) :
    P (State.emit s t peer l) := by
  unfold State.emit
  with_reducible repeat' first
    | assumption | (intro _)
    | (refine State.setKcp_keeps (h.mono (by decide)) (by intro hq; first | exact hq | (simp +zetaDelta [Kcp.Shaped] at hq ⊢ <;> simp [hq]; done) | simpa +zetaDelta [Kcp.Shaped] using hq) ?_)
    | apply keeps_ite (P := P) | (extract_lets +onlyGivenNames x)

theorem State.kpSend_keeps (h : Keep P 16777216) {s : State} {tk : Tok} {notify : Bool} {seq : Nat} {pay : List Byte} (hs : P s) :
    P (State.kpSend s tk notify seq pay) := by
  unfold State.kpSend
  with_reducible repeat' first
    | assumption | (intro _) | apply State.emit_keeps (h.mono (by decide)) | apply State.setCtx_keeps (h.mono (by decide))
    | (extract_lets +onlyGivenNames x; refine (fun (hx : P x) => ?_) ?_; clear_value x; rotate_left; dsimp -zeta only [x])
    | (extract_lets +onlyGivenNames x) | split | (refine keeps_snd (P := P) ‹_› ?_) | (refine keeps_fst (P := P) ‹_› ?_)

theorem State.served_keeps (h : Keep P 16777216) {s : State} {key : Nat} {left : Nat} (hs : P s) :
    P (State.served s key left) := by
  unfold State.served
  with_reducible repeat' first
    | assumption | (intro _)
    | (refine State.setKcp_keeps (h.mono (by decide)) (by intro hq; first | exact hq | (simp +zetaDelta [Kcp.Shaped] at hq ⊢ <;> simp [hq]; done) | simpa +zetaDelta [Kcp.Shaped] using hq) ?_)
    | (extract_lets +onlyGivenNames x; refine (fun (hx : P x) => ?_) ?_; clear_value x; rotate_left; dsimp -zeta only [x])
    | (extract_lets +onlyGivenNames x; refine (fun (hx : P x.1) => ?_) ?_; clear_value x; rotate_left; dsimp -zeta only [x])
    | (extract_lets +onlyGivenNames x; refine (fun (hx : P x.2) => ?_) ?_; clear_value x; rotate_left; dsimp -zeta only [x])
    | (extract_lets +onlyGivenNames x)

theorem State.reply_keeps (h : Keep P 16777216) {s : State} {tk : Tok} {status : Nat} {fields : optParam (List Byte) []} (hs : P s) :
    P (State.reply s tk status fields) := by
  unfold State.reply
  with_reducible repeat' first
    | assumption | apply State.served_keeps (h.mono (by decide)) | apply State.kpSend_keeps (h.mono (by decide))
    | apply State.record_keeps (h.mono (by decide)) | apply keeps_ite (P := P)
    | (extract_lets +onlyGivenNames x; refine (fun (hx : P x) => ?_) ?_; clear_value x; rotate_left; dsimp -zeta only [x])
    | (extract_lets +onlyGivenNames x)

theorem State.finalReply_keeps (h : Keep P 16777216) {s : State} {tk : Tok} {status : Nat} {fields : optParam (List Byte) []} (hs : P s) :
    P (State.finalReply s tk status fields) := by
  unfold State.finalReply
  with_reducible repeat' first
    | assumption | apply State.kpSend_keeps (h.mono (by decide)) | apply State.record_keeps (h.mono (by decide))

theorem State.finalAll_keeps (h : Keep P 16777216) {s : State} {l : List Tok} {status : Nat} {fields : optParam (List Byte) []} (hs : P s) :
    P (State.finalAll s l status fields) := by
  unfold State.finalAll
  with_reducible repeat' first
    | assumption | (intro _) | apply State.finalReply_keeps (h.mono (by decide)) | apply keeps_foldl (P := P)
    | (extract_lets +onlyGivenNames x; refine (fun (hx : P x) => ?_) ?_; clear_value x; rotate_left; dsimp -zeta only [x])

theorem State.badParam_keeps (h : Keep P 16777216) {s : State} {tk : Tok} {off : Nat} (hs : P s) :
    P (State.badParam s tk off) := by
  unfold State.badParam
  with_reducible repeat' first
    | assumption | apply State.reply_keeps (h.mono (by decide))

theorem State.safeState_keeps (h : Keep P 16777216) {s : State} {tk : Tok} (hs : P s) :
    P (State.safeState s tk) := by
  unfold State.safeState
  with_reducible repeat' first
    | assumption | apply State.reply_keeps (h.mono (by decide))

theorem State.refuse_keeps (h : Keep P 16777216) {s : State} {tk : Tok} {status : Nat} (hs : P s) :
    P (State.refuse s tk status) := by
  unfold State.refuse
  with_reducible repeat' first
    | assumption | apply State.safeState_keeps (h.mono (by decide)) | apply State.badParam_keeps (h.mono (by decide))
    | apply State.reply_keeps (h.mono (by decide)) | apply keeps_ite (P := P)

theorem State.untagged_keeps (h : Keep P 16777220) {s : State} {t : Nat} {peer : Nat} {handle : Nat} {op : Nat} {seq : Nat} {cls : Nat} {status : Nat} {fields : List Byte} (hs : P s) :
    P (State.untagged s t peer handle op seq cls status fields) := by
  unfold State.untagged
  with_reducible repeat' first
    | assumption | (intro _) | apply State.emit_keeps (h.mono (by decide)) | apply State.inc_keeps (h.mono (by decide))
    | (refine State.setKcp_keeps (h.mono (by decide)) (by intro hq; first | exact hq | (simp +zetaDelta [Kcp.Shaped] at hq ⊢ <;> simp [hq]; done) | simpa +zetaDelta [Kcp.Shaped] using hq) ?_)
    | apply keeps_ite (P := P)
    | (extract_lets +onlyGivenNames x; refine (fun (hx : P x) => ?_) ?_; clear_value x; rotate_left; dsimp -zeta only [x])
    | (extract_lets +onlyGivenNames x; refine (fun (hx : P x.1) => ?_) ?_; clear_value x; rotate_left; dsimp -zeta only [x])
    | (extract_lets +onlyGivenNames x; refine (fun (hx : P x.2) => ?_) ?_; clear_value x; rotate_left; dsimp -zeta only [x])
    | (extract_lets +onlyGivenNames x)

theorem State.queueFull_keeps (h : Keep P 16777216) {s : State} {tk : Tok} {reason : Nat} {hint : Nat} (hs : P s) :
    P (State.queueFull s tk reason hint) := by
  unfold State.queueFull
  with_reducible repeat' first
    | assumption | apply State.reply_keeps (h.mono (by decide))

theorem State.notify_keeps (h : Keep P 16777232) {s : State} {c : Nat} {op : Nat} {cls : Nat} {pay : List Byte} (hs : P s) :
    P (State.notify s c op cls pay) := by
  unfold State.notify
  with_reducible repeat' first
    | assumption | apply State.kpSend_keeps (h.mono (by decide)) | apply State.setCtx_keeps (h.mono (by decide))
    | apply State.useFree_keeps (h.mono (by decide)) | apply keeps_ite (P := P)
    | (extract_lets +onlyGivenNames x; refine (fun (hx : P x) => ?_) ?_; clear_value x; rotate_left; dsimp -zeta only [x])
    | (extract_lets +onlyGivenNames x) | split | (refine keeps_snd (P := P) ‹_› ?_) | (refine keeps_fst (P := P) ‹_› ?_)

theorem State.subscribe_keeps (h : Keep P 16777216) {s : State} {handle : Nat} {op : Nat} {mask : Nat} {period : Nat} {on : Bool} (hs : P s) :
    P (State.subscribe s handle op mask period on) := by
  unfold State.subscribe
  with_reducible repeat' first
    | assumption | (intro _) | apply State.setCtx_keeps (h.mono (by decide)) | apply keeps_ite (P := P)
    | (extract_lets +onlyGivenNames x; refine (fun (hx : P x) => ?_) ?_; clear_value x; rotate_left; dsimp -zeta only [x])
    | (extract_lets +onlyGivenNames x) | split | (refine keeps_snd (P := P) ‹_› ?_) | (refine keeps_fst (P := P) ‹_› ?_)

theorem State.changed_keeps (h : Keep P 16777216) {s : State} {op : Nat} (hs : P s) :
    P (State.changed s op) := by
  unfold State.changed
  with_reducible repeat' first
    | assumption | (intro _)
    | (refine State.setKcp_keeps (h.mono (by decide)) (by intro hq; first | exact hq | (simp +zetaDelta [Kcp.Shaped] at hq ⊢ <;> simp [hq]; done) | simpa +zetaDelta [Kcp.Shaped] using hq) ?_)
    | apply keeps_ite (P := P) | (extract_lets +onlyGivenNames x)

end Sys2Proof.Machine
end

