-- ==== Sys2Proof/Laws/Fields.lean ====
section
/-! SUPPORT. Bit fields, and reading a field of a register after a write to another or the same field. -/

namespace Sys2Proof.Machine

theorem bitsOf_mod (hi lo n w : Nat) (h : hi < w) (hl : lo ≤ hi) : bitsOf hi lo (n % 2 ^ w) = bitsOf hi lo n := by
  obtain ⟨d, rfl⟩ : ∃ d, w = lo + ((hi + 1 - lo) + d) := ⟨w - hi - 1, by omega⟩
  unfold bitsOf
  rw [Nat.pow_add, Nat.mod_mul_right_div_self, Nat.pow_add, Nat.mod_mul_right_mod]

theorem bitsOf_putBits_self (hi lo n v : Nat) (hl : lo ≤ hi) : bitsOf hi lo (putBits hi lo n v) = v % 2 ^ (hi + 1 - lo) := by
  obtain ⟨w, hw⟩ : ∃ w, hi + 1 = lo + w := ⟨hi + 1 - lo, by omega⟩
  have hw' : hi + 1 - lo = w := by omega
  unfold bitsOf putBits
  rw [hw', hw, Nat.pow_add]
  have hB : n % 2 ^ lo < 2 ^ lo := Nat.mod_lt _ (Nat.two_pow_pos lo)
  have hX : n / (2 ^ lo * 2 ^ w) * (2 ^ lo * 2 ^ w) + v % 2 ^ w * 2 ^ lo + n % 2 ^ lo
      = n % 2 ^ lo + 2 ^ lo * (n / (2 ^ lo * 2 ^ w) * 2 ^ w + v % 2 ^ w) := by ring
  rw [hX, Nat.add_mul_div_left _ _ (Nat.two_pow_pos lo), Nat.div_eq_of_lt hB, Nat.zero_add, Nat.mul_add_mod', Nat.mod_mod]

theorem bitsOf_putBits_below (hi lo n v a b : Nat) (hb : b ≤ a) (ha : a < lo) (hl : lo ≤ hi) :
    bitsOf a b (putBits hi lo n v) = bitsOf a b n := by
  have h : putBits hi lo n v % 2 ^ lo = n % 2 ^ lo := by
    obtain ⟨w, hw⟩ : ∃ w, hi + 1 = lo + w := ⟨hi + 1 - lo, by omega⟩
    unfold putBits
    rw [hw, Nat.pow_add]
    have hX : n / (2 ^ lo * 2 ^ w) * (2 ^ lo * 2 ^ w) + v % 2 ^ (lo + w - lo) * 2 ^ lo + n % 2 ^ lo
        = n % 2 ^ lo + 2 ^ lo * (n / (2 ^ lo * 2 ^ w) * 2 ^ w + v % 2 ^ (lo + w - lo)) := by ring
    rw [hX, Nat.add_mul_mod_self_left, Nat.mod_mod]
  rw [← bitsOf_mod a b _ lo ha hb, h, bitsOf_mod a b _ lo ha hb]

theorem bitsOf_putBits_above (hi lo n v a b : Nat) (hb : hi < b) (hl : lo ≤ hi) :
    bitsOf a b (putBits hi lo n v) = bitsOf a b n := by
  have h : putBits hi lo n v / 2 ^ (hi + 1) = n / 2 ^ (hi + 1) := by
    obtain ⟨w, hw⟩ : ∃ w, hi + 1 = lo + w := ⟨hi + 1 - lo, by omega⟩
    have hw' : hi + 1 - lo = w := by omega
    unfold putBits
    rw [hw', hw, Nat.pow_add]
    have hB : n % 2 ^ lo < 2 ^ lo := Nat.mod_lt _ (Nat.two_pow_pos lo)
    have hV : v % 2 ^ w < 2 ^ w := Nat.mod_lt _ (Nat.two_pow_pos w)
    have hlt : v % 2 ^ w * 2 ^ lo + n % 2 ^ lo < 2 ^ lo * 2 ^ w := by
      have := Nat.mul_le_mul_right (2 ^ lo) (Nat.succ_le_of_lt hV)
      rw [Nat.succ_mul] at this
      rw [Nat.mul_comm (2 ^ lo)]
      omega
    rw [Nat.add_assoc, Nat.mul_comm (n / _), Nat.mul_add_div (Nat.mul_pos (Nat.two_pow_pos lo) (Nat.two_pow_pos w)),
      Nat.div_eq_of_lt hlt, Nat.add_zero]
  obtain ⟨d, rfl⟩ : ∃ d, b = (hi + 1) + d := ⟨b - hi - 1, by omega⟩
  unfold bitsOf
  rw [Nat.pow_add, ← Nat.div_div_eq_div_mul, ← Nat.div_div_eq_div_mul, h]

theorem State.get_put_self (s : State) (f : Fld) (v : Nat) (hl : f.lo ≤ f.hi) (hh : f.hi < 32) :
    (s.put f v).get f = v % f.size := by
  simp only [State.get, State.put, State.rd_wr_self, BitVec.toNat_ofNat, Fld.size]
  rw [bitsOf_mod _ _ _ _ hh hl, bitsOf_putBits_self _ _ _ _ hl]

/-- A field of the same register with no bit in common keeps its value. -/
theorem State.get_put_disjoint (s : State) {f g : Fld} (v : Nat) (hr : g.reg.addr = f.reg.addr) (hrst : g.reg.rst = f.reg.rst)
    (hl : f.lo ≤ f.hi) (hg : g.lo ≤ g.hi) (hgh : g.hi < 32) (hd : g.hi < f.lo ∨ f.hi < g.lo) :
    (s.put f v).get g = s.get g := by
  have he : g.reg = f.reg := by
    cases hq : g.reg
    cases hp : f.reg
    simp_all
  simp only [State.get, State.put, he, State.rd_wr_self, BitVec.toNat_ofNat]
  rw [bitsOf_mod _ _ _ _ hgh hg]
  rcases hd with hd | hd
  · exact bitsOf_putBits_below _ _ _ _ _ _ hg hd hl
  · exact bitsOf_putBits_above _ _ _ _ _ _ hd hl

end Sys2Proof.Machine
end

