-- ==== Sys2Proof/Laws/Memory.lean ====
section
/-! SUPPORT. The canonical forms of memory and of the register list: every operation on them keeps them; and reading a byte after
a write. -/

namespace Sys2Proof.Machine

/-- Keys that rise above c rise above any smaller bound. -/
theorem keysRise_weaken {α : Type} {b c : Option Nat} {l : List (Nat × α)} (h : keysRiseFrom c l = true)
    (hb : ∀ m, b = some m → ∃ n, c = some n ∧ m ≤ n) : keysRiseFrom b l = true := by
  cases l with
  | nil => rfl
  | cons e t =>
    obtain ⟨a, v⟩ := e
    simp only [keysRiseFrom, Bool.and_eq_true] at h ⊢
    refine ⟨?_, h.2⟩
    cases b with
    | none => rfl
    | some m =>
      obtain ⟨n, rfl, hmn⟩ := hb m rfl
      simp only [decide_eq_true_eq] at h ⊢
      omega

theorem keysRise_insert {α : Type} (k : Nat) (v : α) {b : Option Nat} {l : List (Nat × α)} (h : keysRiseFrom b l = true)
    (hk : ∀ m, b = some m → m < k) : keysRiseFrom b (insertKey k v l) = true := by
  induction l generalizing b with
  | nil => cases b <;> simp_all [insertKey, keysRiseFrom]
  | cons e t ih =>
    obtain ⟨a, w⟩ := e
    unfold insertKey
    simp only [keysRiseFrom, Bool.and_eq_true] at h
    split
    · next hlt =>
      simp only [keysRiseFrom, Bool.and_eq_true]
      refine ⟨?_, by simpa using hlt, h.2⟩
      cases b <;> simp_all
    · split
      · next heq =>
        simp only [beq_iff_eq] at heq
        subst heq
        simp only [keysRiseFrom, Bool.and_eq_true]
        exact h
      · next hlt hne =>
        simp only [keysRiseFrom, Bool.and_eq_true]
        refine ⟨h.1, ih h.2 ?_⟩
        intro m hm
        simp only [beq_iff_eq, Option.some.injEq] at hne hm
        omega

theorem keysRise_erase {α : Type} (k : Nat) {b : Option Nat} {l : List (Nat × α)} (h : keysRiseFrom b l = true) :
    keysRiseFrom b (eraseKey k l) = true := by
  induction l generalizing b with
  | nil => rfl
  | cons e t ih =>
    obtain ⟨a, w⟩ := e
    unfold eraseKey
    simp only [keysRiseFrom, Bool.and_eq_true] at h
    split
    · refine keysRise_weaken h.2 ?_
      intro m hm
      subst hm
      exact ⟨a, rfl, by simpa using Nat.le_of_lt (by simpa using h.1)⟩
    · simp only [keysRiseFrom, Bool.and_eq_true]
      exact ⟨h.1, ih h.2⟩

theorem keysRise_filter {α : Type} (p : Nat × α → Bool) {b : Option Nat} {l : List (Nat × α)} (h : keysRiseFrom b l = true) :
    keysRiseFrom b (l.filter p) = true := by
  induction l generalizing b with
  | nil => rfl
  | cons e t ih =>
    obtain ⟨a, w⟩ := e
    simp only [keysRiseFrom, Bool.and_eq_true] at h
    rw [List.filter_cons]
    split
    · simp only [keysRiseFrom, Bool.and_eq_true]
      exact ⟨h.1, ih h.2⟩
    · refine keysRise_weaken (ih h.2) ?_
      intro m hm
      subst hm
      exact ⟨a, rfl, by simpa using Nat.le_of_lt (by simpa using h.1)⟩

theorem all_insertKey {α : Type} (q : Nat × α → Bool) (k : Nat) (v : α) {l : List (Nat × α)} (h : l.all q = true)
    (hv : q (k, v) = true) : (insertKey k v l).all q = true := by
  induction l with
  | nil => simp [insertKey, hv]
  | cons e t ih =>
    obtain ⟨a, w⟩ := e
    simp only [List.all_cons, Bool.and_eq_true] at h
    unfold insertKey
    split
    · simp [hv, h.1, h.2]
    · split
      · simp [hv, h.2]
      · simp [h.1, ih h.2]

theorem all_eraseKey {α : Type} (q : Nat × α → Bool) (k : Nat) {l : List (Nat × α)} (h : l.all q = true) :
    (eraseKey k l).all q = true := by
  induction l with
  | nil => rfl
  | cons e t ih =>
    obtain ⟨a, w⟩ := e
    simp only [List.all_cons, Bool.and_eq_true] at h
    unfold eraseKey
    split
    · exact h.2
    · simp [h.1, ih h.2]

/-- Writing a byte keeps the canonical form. -/
theorem memPut_wf (a : Nat) (v : Byte) {m : List Host.Cell} (h : Memory.wf m = true) : Memory.wf (memPut a v m) = true := by
  unfold Memory.wf at h ⊢
  simp only [Bool.and_eq_true] at h ⊢
  unfold memPut
  split
  · exact ⟨keysRise_erase a h.1, all_eraseKey _ a h.2⟩
  · next hv => exact ⟨keysRise_insert a v h.1 (by simp), all_insertKey _ a v h.2 (by simpa using hv)⟩

/-- Dropping bytes keeps the canonical form. -/
theorem filter_wf (p : Host.Cell → Bool) {m : List Host.Cell} (h : Memory.wf m = true) : Memory.wf (m.filter p) = true := by
  unfold Memory.wf at h ⊢
  simp only [Bool.and_eq_true] at h ⊢
  refine ⟨keysRise_filter p h.1, ?_⟩
  simp only [List.all_eq_true] at h ⊢
  exact fun x hx => h.2 x ((List.mem_filter.mp hx).1)

theorem State.Shaped.regs {s : State} (h : s.Shaped) (x : _) : State.Shaped { s with regs := x } := { h with }
theorem State.Shaped.mem {s : State} (h : s.Shaped) (x : _) : State.Shaped { s with mem := x } := { h with }
theorem State.Shaped.evl {s : State} (h : s.Shaped) (x : _) : State.Shaped { s with evl := x } := { h with }

/-- The invariant survives every change that the operations make. -/
theorem keep_inv (m : Nat) : Keep State.Inv m where
  regs := fun _ _ a v h => ⟨h.mem, keysRise_insert a v h.regs (by simp), h.queue, h.shape.regs _⟩
  regsDrop := fun _ _ p h => ⟨h.mem, keysRise_filter p h.regs, h.queue, h.shape.regs _⟩
  mem := fun _ _ a v h => ⟨memPut_wf a v h.mem, h.regs, h.queue, h.shape.mem _⟩
  memDrop := fun _ _ p h => ⟨filter_wf p h.mem, h.regs, h.queue, h.shape.mem _⟩
  evl := fun _ _ _ hq h => ⟨h.mem, h.regs, hq h.queue, h.shape.evl _⟩
  fresh := fun _ _ _ h => ⟨h.mem, h.regs, h.queue, { h.shape with }⟩
  clk := fun _ _ _ _ _ h => ⟨h.mem, h.regs, h.queue, { h.shape with }⟩
  instant := fun _ _ _ h => ⟨h.mem, h.regs, h.queue, { h.shape with }⟩
  cyc := fun _ _ _ h => ⟨h.mem, h.regs, h.queue, { h.shape with }⟩
  irqs := fun _ _ _ h => ⟨h.mem, h.regs, h.queue, { h.shape with }⟩
  pwm := fun _ _ _ hq h => ⟨h.mem, h.regs, h.queue, { h.shape with pwm := hq h.shape.pwm }⟩
  on := fun _ _ _ h => ⟨h.mem, h.regs, h.queue, { h.shape with }⟩
  pllA := fun _ _ _ h => ⟨h.mem, h.regs, h.queue, { h.shape with }⟩
  pllB := fun _ _ _ h => ⟨h.mem, h.regs, h.queue, { h.shape with }⟩
  busErr := fun _ _ _ h => ⟨h.mem, h.regs, h.queue, { h.shape with }⟩
  mramW := fun _ _ _ h => ⟨h.mem, h.regs, h.queue, { h.shape with }⟩
  tbLatch := fun _ _ _ h => ⟨h.mem, h.regs, h.queue, { h.shape with }⟩
  ce := fun _ _ _ hq h => ⟨h.mem, h.regs, h.queue, { h.shape with ce := hq h.shape.ce }⟩
  fox := fun _ _ _ h => ⟨h.mem, h.regs, h.queue, { h.shape with }⟩
  conv := fun _ _ _ hq h => ⟨h.mem, h.regs, h.queue, { h.shape with conv := hq h.shape.conv }⟩
  badger := fun _ _ _ hq h => ⟨h.mem, h.regs, h.queue, { h.shape with badger := hq h.shape.badger }⟩
  marten := fun _ _ _ h => ⟨h.mem, h.regs, h.queue, { h.shape with }⟩
  gates := fun _ _ _ hq h => ⟨h.mem, h.regs, h.queue, { h.shape with gates := hq h.shape.gates }⟩
  scg := fun _ _ _ hq h => ⟨h.mem, h.regs, h.queue, { h.shape with scg := hq h.shape.scg }⟩
  osd := fun _ _ _ h => ⟨h.mem, h.regs, h.queue, { h.shape with }⟩
  kcp := fun _ _ _ hq h => ⟨h.mem, h.regs, h.queue, { h.shape with kcp := hq h.shape.kcp }⟩
  modes := fun _ _ _ hq h => ⟨h.mem, h.regs, h.queue, { h.shape with modes := hq h.shape.modes }⟩
  act := fun _ _ _ hq h => ⟨h.mem, h.regs, h.queue, { h.shape with act := hq h.shape.act }⟩
  pos := fun _ _ _ hq h => ⟨h.mem, h.regs, h.queue, { h.shape with pos := hq h.shape.pos }⟩
  ledger := fun _ _ _ hq h => ⟨h.mem, h.regs, h.queue, { h.shape with ledger := hq h.shape.ledger }⟩
  hk := fun _ _ _ h => ⟨h.mem, h.regs, h.queue, { h.shape with }⟩
  sc := fun _ _ _ hq h => ⟨h.mem, h.regs, h.queue, { h.shape with sc := hq h.shape.sc }⟩
  scc := fun _ _ _ hq h => ⟨h.mem, h.regs, h.queue, { h.shape with scc := hq h.shape.scc }⟩
  dma := fun _ _ _ hq h => ⟨h.mem, h.regs, h.queue, { h.shape with dma := hq h.shape.dma }⟩
  can := fun _ _ _ hq h => ⟨h.mem, h.regs, h.queue, { h.shape with can := hq h.shape.can }⟩
  canTm := fun _ _ _ h => ⟨h.mem, h.regs, h.queue, { h.shape with }⟩
  eth := fun _ _ _ h => ⟨h.mem, h.regs, h.queue, { h.shape with }⟩
  asl := fun _ _ _ h => ⟨h.mem, h.regs, h.queue, { h.shape with }⟩
  sup := fun _ _ _ h => ⟨h.mem, h.regs, h.queue, { h.shape with }⟩
  start := fun _ _ _ hq h => ⟨h.mem, h.regs, h.queue, { h.shape with start := hq h.shape.start }⟩

/-! ### Reading a byte after a write -/

theorem lookupKey_eraseKey_ne {α : Type} {k j : Nat} (l : List (Nat × α)) (h : j ≠ k) :
    lookupKey j (eraseKey k l) = lookupKey j l := by
  induction l with
  | nil => rfl
  | cons e t ih =>
    obtain ⟨a, w⟩ := e
    unfold eraseKey
    split
    · next ha =>
      have : (a == j) = false := by simp only [beq_iff_eq] at ha; simp; omega
      simp [lookupKey, this]
    · by_cases ha : (a == j) = true <;> simp [lookupKey, ha, ih]

theorem lookupKey_none {α : Type} (k : Nat) {b : Nat} {l : List (Nat × α)} (h : keysRiseFrom (some b) l = true) (hk : k ≤ b) :
    lookupKey k l = none := by
  induction l generalizing b with
  | nil => rfl
  | cons e t ih =>
    obtain ⟨a, w⟩ := e
    simp only [keysRiseFrom, Bool.and_eq_true, decide_eq_true_eq] at h
    have : (a == k) = false := by simp; omega
    simp only [lookupKey, this, Bool.false_eq_true, if_false]
    exact ih h.2 (by omega)

theorem lookupKey_eraseKey_self {α : Type} (k : Nat) {b : Option Nat} {l : List (Nat × α)} (h : keysRiseFrom b l = true) :
    lookupKey k (eraseKey k l) = none := by
  induction l generalizing b with
  | nil => rfl
  | cons e t ih =>
    obtain ⟨a, w⟩ := e
    simp only [keysRiseFrom, Bool.and_eq_true] at h
    unfold eraseKey
    split
    · next ha =>
      simp only [beq_iff_eq] at ha
      exact lookupKey_none k h.2 (by omega)
    · next ha => simp [lookupKey, ha, ih h.2]

/-- A byte reads as the value last written to it, in canonical memory. -/
theorem State.rdByte_wrByte_self (s : State) (a : Nat) (v : Byte) (h : Memory.wf s.mem = true) :
    (s.wrByte a v).rdByte a = v := by
  unfold Memory.wf at h
  simp only [Bool.and_eq_true] at h
  unfold State.rdByte State.wrByte memPut
  split
  · next hv =>
    simp only [beq_iff_eq] at hv
    simp [lookupKey_eraseKey_self a h.1, hv]
  · simp [lookupKey_insertKey_self]

/-- A write leaves every other byte as it was. -/
theorem State.rdByte_wrByte_ne (s : State) {a b : Nat} (v : Byte) (h : b ≠ a) : (s.wrByte a v).rdByte b = s.rdByte b := by
  unfold State.rdByte State.wrByte memPut
  split
  · simp [lookupKey_eraseKey_ne s.mem h]
  · simp [lookupKey_insertKey_ne v s.mem h]

/-- A write of several bytes leaves every byte outside them as it was. -/
theorem State.rdByte_wrBytes_ne (s : State) {a b : Nat} (l : List Byte) (h : b < a ∨ a + l.length ≤ b) :
    (s.wrBytes a l).rdByte b = s.rdByte b := by
  induction l generalizing s a with
  | nil => rfl
  | cons v t ih =>
    simp only [List.length_cons] at h
    unfold State.wrBytes
    rw [ih _ (by omega), State.rdByte_wrByte_ne s v (by omega)]

end Sys2Proof.Machine
end

