-- ==== Sys2Proof/Laws/Frames.lean ====
section
/-! SUPPORT. A part of State stays what it is under every operation whose mask leaves it out (Laws/Keep.lean): the frame of an
operation, part by part. -/

namespace Sys2Proof.Machine

theorem keep_pending (x : List Instr) : Keep (fun t => t.pending = x) 1099511627774 := by
  constructor <;> intros <;> first | assumption | contradiction

theorem keep_order (x : OrderCode) : Keep (fun t => t.order = x) 1099511627773 := by
  constructor <;> intros <;> first | assumption | contradiction

theorem keep_regs (x : List (Nat × Word)) : Keep (fun t => t.regs = x) 1099511627771 := by
  constructor <;> intros <;> first | assumption | contradiction

theorem keep_mem (x : List Host.Cell) : Keep (fun t => t.mem = x) 1099511627767 := by
  constructor <;> intros <;> first | assumption | contradiction

theorem keep_fresh (x : Nat) : Keep (fun t => t.fresh = x) 1099511627759 := by
  constructor <;> intros <;> first | assumption | contradiction

theorem keep_clk (x : Clocks) : Keep (fun t => t.clk = x) 549755813855 := by
  constructor <;> intros <;> first | assumption | contradiction

theorem keep_cyc (x : Nat) : Keep (fun t => t.cyc = x) 1099511627711 := by
  constructor <;> intros <;> first | assumption | contradiction

theorem keep_irqs (x : List Irq) : Keep (fun t => t.irqs = x) 1099511627519 := by
  constructor <;> intros <;> first | assumption | contradiction

theorem keep_pwm (x : List PwmMod) : Keep (fun t => t.pwm = x) 1099511627263 := by
  constructor <;> intros <;> first | assumption | contradiction

theorem keep_on (x : BitVec 14) : Keep (fun t => t.on = x) 1099511626751 := by
  constructor <;> intros <;> first | assumption | contradiction

theorem keep_pllA (x : Bool) : Keep (fun t => t.pllA = x) 1099511625727 := by
  constructor <;> intros <;> first | assumption | contradiction

theorem keep_pllB (x : Bool) : Keep (fun t => t.pllB = x) 1099511623679 := by
  constructor <;> intros <;> first | assumption | contradiction

theorem keep_busErr (x : List (Initiator × Nat × Nat)) : Keep (fun t => t.busErr = x) 1099511619583 := by
  constructor <;> intros <;> first | assumption | contradiction

theorem keep_mramW (x : List (Nat × List Byte)) : Keep (fun t => t.mramW = x) 1099511611391 := by
  constructor <;> intros <;> first | assumption | contradiction

theorem keep_tbLatch (x : List (Initiator × Word)) : Keep (fun t => t.tbLatch = x) 1099511595007 := by
  constructor <;> intros <;> first | assumption | contradiction

theorem keep_ce (x : List CeCore) : Keep (fun t => t.ce = x) 1099511562239 := by
  constructor <;> intros <;> first | assumption | contradiction

theorem keep_fox (x : Fox) : Keep (fun t => t.fox = x) 1099511496703 := by
  constructor <;> intros <;> first | assumption | contradiction

theorem keep_conv (x : Conv) : Keep (fun t => t.conv = x) 1099511365631 := by
  constructor <;> intros <;> first | assumption | contradiction

theorem keep_badger (x : Badger) : Keep (fun t => t.badger = x) 1099511103487 := by
  constructor <;> intros <;> first | assumption | contradiction

theorem keep_marten (x : Nat) : Keep (fun t => t.marten = x) 1099510579199 := by
  constructor <;> intros <;> first | assumption | contradiction

theorem keep_gates (x : List GateCh) : Keep (fun t => t.gates = x) 1099509530623 := by
  constructor <;> intros <;> first | assumption | contradiction

theorem keep_scg (x : List Scg) : Keep (fun t => t.scg = x) 1099507433471 := by
  constructor <;> intros <;> first | assumption | contradiction

theorem keep_osd (x : Osd) : Keep (fun t => t.osd = x) 1099503239167 := by
  constructor <;> intros <;> first | assumption | contradiction

theorem keep_kcp (x : Kcp) : Keep (fun t => t.kcp = x) 1099494850559 := by
  constructor <;> intros <;> first | assumption | contradiction

theorem keep_modes (x : Modes) : Keep (fun t => t.modes = x) 1099478073343 := by
  constructor <;> intros <;> first | assumption | contradiction

theorem keep_act (x : List ActSeq) : Keep (fun t => t.act = x) 1099444518911 := by
  constructor <;> intros <;> first | assumption | contradiction

theorem keep_pos (x : PosBlk) : Keep (fun t => t.pos = x) 1099377410047 := by
  constructor <;> intros <;> first | assumption | contradiction

theorem keep_ledger (x : Ledger) : Keep (fun t => t.ledger = x) 1099243192319 := by
  constructor <;> intros <;> first | assumption | contradiction

theorem keep_hk (x : Hk) : Keep (fun t => t.hk = x) 1098974756863 := by
  constructor <;> intros <;> first | assumption | contradiction

theorem keep_sc (x : List ScThr) : Keep (fun t => t.sc = x) 1098437885951 := by
  constructor <;> intros <;> first | assumption | contradiction

theorem keep_scc (x : List ScCore) : Keep (fun t => t.scc = x) 1097364144127 := by
  constructor <;> intros <;> first | assumption | contradiction

theorem keep_dma (x : Dma) : Keep (fun t => t.dma = x) 1095216660479 := by
  constructor <;> intros <;> first | assumption | contradiction

theorem keep_can (x : List Can) : Keep (fun t => t.can = x) 1090921693183 := by
  constructor <;> intros <;> first | assumption | contradiction

theorem keep_canTm (x : CanTm) : Keep (fun t => t.canTm = x) 1082331758591 := by
  constructor <;> intros <;> first | assumption | contradiction

theorem keep_eth (x : Eth) : Keep (fun t => t.eth = x) 1065151889407 := by
  constructor <;> intros <;> first | assumption | contradiction

theorem keep_asl (x : Asl) : Keep (fun t => t.asl = x) 1030792151039 := by
  constructor <;> intros <;> first | assumption | contradiction

theorem keep_sup (x : Supply) : Keep (fun t => t.sup = x) 962072674303 := by
  constructor <;> intros <;> first | assumption | contradiction

theorem keep_start (x : Start) : Keep (fun t => t.start = x) 824633720831 := by
  constructor <;> intros <;> first | assumption | contradiction

/-- A byte of memory stays what it is where memory does not change. -/
theorem keep_rdByte (a : Nat) (v : Byte) : Keep (fun t => t.rdByte a = v) 1099511627767 := by
  constructor <;> intros <;> first | assumption | contradiction

/-- A register keeps its value where no register changes. -/
theorem keep_rd (r : Reg) (v : Word) : Keep (fun t => t.rd r = v) 1099511627771 := by
  constructor <;> intros <;> first | assumption | contradiction

end Sys2Proof.Machine
end

