-- ==== Sys2Proof/Laws/Reads.lean ====
section
/-! SUPPORT. What the shared operations leave in the registers: a count, a bit of a field, the event log, interrupts and free
values change no register but their own. -/

namespace Sys2Proof.Machine

variable {s : State} {r : Reg} {g : Fld}

theorem State.inc_rd {f : Fld} (h : r.addr ≠ f.reg.addr) : (s.inc f).rd r = s.rd r := by
  unfold State.inc
  split
  · exact State.rd_put_ne s _ h
  · rfl

theorem State.incBy_rd {f : Fld} {n : Nat} (h : r.addr ≠ f.reg.addr) : (s.incBy f n).rd r = s.rd r := State.rd_put_ne s _ h
theorem State.wrapInc_rd {f : Fld} (h : r.addr ≠ f.reg.addr) : (s.wrapInc f).rd r = s.rd r := State.rd_put_ne s _ h
theorem State.putB_rd {f : Fld} {b : Bool} (h : r.addr ≠ f.reg.addr) : (s.putB f b).rd r = s.rd r := State.rd_put_ne s _ h
theorem State.putFldBit_rd {f : Fld} {i : Nat} {b : Bool} (h : r.addr ≠ f.reg.addr) : (s.putFldBit f i b).rd r = s.rd r :=
  State.rd_put_ne s _ h

@[simp] theorem State.useFree_rd : s.useFree.rd r = s.rd r := rfl
@[simp] theorem State.irq_rd {t : IrqTo} {a e : Nat} : (s.irq t a e).rd r = s.rd r := rfl
@[simp] theorem State.irqIf_rd {c : Bool} {t : IrqTo} {a e : Nat} : (s.irqIf c t a e).rd r = s.rd r := by
  cases c <;> rfl

/-- The event log writes no register but EVL_STATUS. -/
theorem State.evPush_rd {e : EvEntry} (h : r.addr ≠ EVL_STATUS.addr) : (s.evPush e).rd r = s.rd r := by
  unfold State.evPush
  split
  · rfl
  · exact State.inc_rd h

theorem State.log_rd {l i t c : Nat} {d : List Byte} {b : Bool} (h : r.addr ≠ EVL_STATUS.addr) :
    (s.log l i t d b c).rd r = s.rd r := by
  unfold State.log
  split
  · exact State.evPush_rd h
  · rfl

theorem State.get_of_rd {t : State} (h : t.rd g.reg = s.rd g.reg) : t.get g = s.get g := by
  simp [State.get, h]

theorem State.is_of_rd {t : State} (h : t.rd g.reg = s.rd g.reg) : t.is g = s.is g := by
  simp [State.is, State.get_of_rd h]

/-- A one-bit field reads 1 after it has been set, and 0 after it has been cleared. -/
theorem State.is_put_self {f : Fld} (v : Nat) (hl : f.lo ≤ f.hi) (hh : f.hi < 32) : (s.put f v).is f = (v % f.size != 0) := by
  simp [State.is, State.get_put_self s f v hl hh]

end Sys2Proof.Machine
end

