-- ==== Sys2Proof/Laws/Admission.lean ====
section
/-! SUPPORT. A request that its session admits, with its class queue empty, leaves the queue at once and runs (R361–R368). -/

namespace Sys2Proof.Machine

theorem State.log_kcp (s : State) (l i t : Nat) : (s.log l i t).kcp = s.kcp := State.log_keeps ((keep_kcp _).mono (by decide)) rfl
theorem State.log_cyc (s : State) (l i t : Nat) : (s.log l i t).cyc = s.cyc := State.log_keeps ((keep_cyc _).mono (by decide)) rfl
theorem State.log_order (s : State) (l i t : Nat) : (s.log l i t).order = s.order := State.log_keeps ((keep_order _).mono (by decide)) rfl

theorem State.setQueue_setQueue (s : State) (c : Nat) (p q : List KReq) : (s.setQueue c p).setQueue c q = s.setQueue c q := by
  simp [State.setQueue, State.setKcp]

theorem State.queueOf_setQueue (s : State) (c : Nat) (q : List KReq) (h : s.kcp.queues.length = 4) (hc : c - 2 < 4) :
    (s.setQueue c q).queueOf c = q := by
  simp [State.setQueue, State.setKcp, State.queueOf, nth]
  simp [h, hc]

theorem qDepth_pos (c : Nat) : 0 < qDepth c := by
  unfold qDepth nth
  generalize c - 2 = i
  rcases i with _ | _ | _ | _ | i <;> simp

theorem State.qCap_pos (s : State) (c : Nat) : 0 < s.qCap c := by
  unfold State.qCap
  extract_lets x
  split
  · exact qDepth_pos c
  · rename_i h
    simp at h
    omega

/-- An admitted request of the classes C2–C5 runs on the state that its admission leaves. -/
theorem State.request_admitted {s : State} {op cls : Nat} {q : Req} {x : Ctx} (h : s.Ready op cls q x) (hk : s.kcp.Shaped)
    (ho : opClass op = some cls) (hc : 2 ≤ cls) (hc' : cls ≤ 5) (hop : op < 0xF000) :
    s.request op cls q = (s.afterAdmission cls q x).runOp (s.tokOf op cls q x) q.pay := by
  obtain ⟨⟨h1, h2, h3, hg, h4⟩, h5, h7, h8, h9, h10, h11⟩ := h
  have e1 : s.leaseDue q.ctx.val = false := by
    simp [State.leaseDue, h2, h3]
    omega
  have hk8 : (opKeyed op && x.slot == 0xF) = false := by
    by_cases hh : opKeyed op = true
    · simp [hh, h8 hh]
    · simp [hh]
  have e2 : s.classRefusal x (Sys2Proof.Machine.tokOf q.ctx.val x op q.seq.toNat cls) = none := by
    simp only [State.classRefusal, Sys2Proof.Machine.tokOf]
    simp [h7, hk8]; omega
  have e3 : s.window q.ctx.val x (Sys2Proof.Machine.tokOf q.ctx.val x op q.seq.toNat cls)
      = (s.markSeen q.ctx.val (newH x q.seq.toNat) q.seq.toNat x, true) := by
    by_cases hd : 1 ≤ seqDist x.h q.seq.toNat ∧ seqDist x.h q.seq.toNat ≤ 32767
    · simp [State.window, Sys2Proof.Machine.tokOf, newH, hd]
    · obtain h5 | ⟨h5, h6⟩ := h5
      · exact absurd h5 hd
      · have hb : seqDist x.h q.seq.toNat ≠ 0 → decide (65473 ≤ seqDist x.h q.seq.toNat) = true :=
          fun h => decide_eq_true (h5.resolve_left h)
        simp [State.window, Sys2Proof.Machine.tokOf, newH, if_neg hd, h6]
        exact hb
  have e4 : (s.markSeen q.ctx.val (newH x q.seq.toNat) q.seq.toNat x).opRefusal (Sys2Proof.Machine.tokOf q.ctx.val x op q.seq.toNat cls) = none := by
    have : ((s.markSeen q.ctx.val (newH x q.seq.toNat) q.seq.toNat x).is SYSC_BOOT_RECOV && !opRecovery op) = false := by
      show (s.is SYSC_BOOT_RECOV && !opRecovery op) = false
      cases hr : s.is SYSC_BOOT_RECOV <;> simp_all
    simp [State.opRefusal, this, Sys2Proof.Machine.tokOf, ho]
    omega
  have e5 : ∀ s' : State, s'.order = s.order → s'.checkParams op q.pay = none := by
    intro s' he
    rw [← h10]
    simp only [State.checkParams, he]
  unfold State.request
  simp only [e1, h1, h2, h3, e2, e3, e4, Bool.not_true, Bool.false_eq_true, if_false]
  generalize hs1 : ((s.markSeen q.ctx.val (newH x q.seq.toNat) q.seq.toNat x).log 10 q.ctx.val
    ((s.markSeen q.ctx.val (newH x q.seq.toNat) q.seq.toNat x).freeNat % 256)).useFree = s1
  have k1 : s1.kcp.queues = s.kcp.queues := by
    rw [← hs1]
    simp [State.useFree, State.log_kcp, State.markSeen, State.setCtx]
  have k2 : s1.queueOf cls = [] := by rw [← h11]; simp [State.queueOf, k1]
  have k3 : s1.kcp.queues.length = 4 := by rw [k1]; exact hk
  have k4 : s1.order = s.order := by
    rw [← hs1]
    simp [State.useFree, State.log_order, State.markSeen, State.setCtx]
  have k5 : s1.cyc = s.cyc := by
    rw [← hs1]
    simp [State.useFree, State.log_cyc, State.markSeen, State.setCtx]
  have hc0 : cls ≠ 0 := by omega
  have hc1 : cls ≠ 1 := by omega
  have hdisp : (s.markSeen q.ctx.val (newH x q.seq.toNat) q.seq.toNat x).dispatch (Sys2Proof.Machine.tokOf q.ctx.val x op q.seq.toNat cls) q.pay 0
      = s1.enqueue ⟨Sys2Proof.Machine.tokOf q.ctx.val x op q.seq.toNat cls, s1.tick, none, q.pay⟩ := by
    have hh : (q.ctx.val * 256 + x.gen) / 256 = q.ctx.val := by omega
    have hf : ¬ 0xF000 ≤ op := by omega
    simp only [State.dispatch, Sys2Proof.Machine.tokOf]
    rw [hh]
    simp only [hs1, hf, e5 s1 k4]
    simp [hc0, hc1]
  have henq : s1.enqueue ⟨Sys2Proof.Machine.tokOf q.ctx.val x op q.seq.toNat cls, s1.tick, none, q.pay⟩
      = s1.setQueue cls [⟨Sys2Proof.Machine.tokOf q.ctx.val x op q.seq.toNat cls, s1.tick, none, q.pay⟩] := by
    have := qDepth_pos cls
    have := s1.qCap_pos cls
    simp only [State.enqueue, Sys2Proof.Machine.tokOf, k2, List.length_nil, List.filter_nil, queueInsert]
    rw [if_neg (by omega), if_neg (by omega)]
  have htick : s1.tick = s.tick := by simp [State.tick, k5]
  simp only [hdisp, henq, hc, if_true]
  unfold State.departUpTo
  rw [State.queueOf_setQueue _ _ _ k3 (by omega)]
  simp only [beq_self_eq_true, Bool.and_self, if_true]
  unfold State.depart
  rw [State.queueOf_setQueue _ _ _ k3 (by omega)]
  have hf : ¬ 0xF000 ≤ op := by omega
  have hseq : (s.markSeen q.ctx.val (newH x q.seq.toNat) q.seq.toNat x).freeNat = s.freeNat := rfl
  rw [hseq] at hs1
  simp only [State.setQueue_setQueue, Option.any_none, Bool.false_eq_true, if_false, Sys2Proof.Machine.tokOf, hf, State.afterAdmission, State.admitted, hs1, State.tokOf]
  have : (s1.setQueue cls []).tick = s.tick := htick
  rw [this, hseq, hs1]
end Sys2Proof.Machine
end

