-- ==== Sys2Proof/Laws/KeepPwmOps.lean ====
section
/-! SUPPORT. What the operations of Machine/PwmOps.lean keep (Laws/Keep.lean). -/

namespace Sys2Proof.Machine

variable {P : State → Prop}

theorem State.pwmEvent_keeps (h : Keep P 388) {s : State} {k : Nat} {b : Nat} {typ : Option Nat} {data : Nat} (hs : P s) :
    P (State.pwmEvent s k b typ data) := by
  unfold State.pwmEvent
  with_reducible repeat' first
    | assumption | apply State.log_keeps (h.mono (by decide)) | apply State.irqIf_keeps (h.mono (by decide))
    | (extract_lets +onlyGivenNames x; refine (fun (hx : P x) => ?_) ?_; clear_value x; rotate_left; dsimp -zeta only [x])
    | (extract_lets +onlyGivenNames x) | split | (refine keeps_snd (P := P) ‹_› ?_) | (refine keeps_fst (P := P) ‹_› ?_)

theorem State.tripConf_keeps (h : Keep P 4) {s : State} {k : Nat} (hs : P s) :
    P (State.tripConf s k) := by
  unfold State.tripConf
  with_reducible repeat' first
    | assumption | apply State.put_keeps (h.mono (by decide)) | apply keeps_ite (P := P)

theorem State.tripArm_keeps (h : Keep P 528) {s : State} {k : Nat} {i : Nat} (hs : P s) :
    P (State.tripArm s k i) := by
  unfold State.tripArm
  with_reducible repeat' first
    | assumption | apply State.setPwm_keeps (h.mono (by decide)) | apply State.useFree_keeps (h.mono (by decide))
    | apply keeps_ite (P := P)
    | (extract_lets +onlyGivenNames x; refine (fun (hx : P x) => ?_) ?_; clear_value x; rotate_left; dsimp -zeta only [x])
    | (extract_lets +onlyGivenNames x)

theorem State.setPwmO_keeps (h : Keep P 512) {s : State} {k : Nat} {x : Side} {o : PwmOut} (hs : P s) :
    P (State.setPwmO s k x o) := by
  unfold State.setPwmO
  with_reducible repeat' first
    | assumption | apply State.setPwm_keeps (h.mono (by decide))

theorem State.pwmTurnOff_keeps (h : Keep P 516) {s : State} {k : Nat} {x : Side} {t : Int} (hs : P s) :
    P (State.pwmTurnOff s k x t) := by
  unfold State.pwmTurnOff
  with_reducible repeat' first
    | assumption | apply State.setPwmO_keeps (h.mono (by decide)) | apply State.put_keeps (h.mono (by decide))
    | apply keeps_ite (P := P)
    | (extract_lets +onlyGivenNames x; refine (fun (hx : P x) => ?_) ?_; clear_value x; rotate_left; dsimp -zeta only [x])
    | (extract_lets +onlyGivenNames x) | split | (refine keeps_snd (P := P) ‹_› ?_) | (refine keeps_fst (P := P) ‹_› ?_)

theorem State.pwmFall_keeps (h : Keep P 900) {s : State} {k : Nat} {x : Side} {t : Int} (hs : P s) :
    P (State.pwmFall s k x t) := by
  unfold State.pwmFall
  with_reducible repeat' first
    | assumption | apply State.pwmTurnOff_keeps (h.mono (by decide)) | apply State.setPwmO_keeps (h.mono (by decide))
    | apply State.pwmEvent_keeps (h.mono (by decide)) | apply State.inc_keeps (h.mono (by decide))
    | apply State.put_keeps (h.mono (by decide)) | apply keeps_ite (P := P)
    | (extract_lets +onlyGivenNames x; refine (fun (hx : P x) => ?_) ?_; clear_value x; rotate_left; dsimp -zeta only [x])
    | (extract_lets +onlyGivenNames x) | split | (refine keeps_snd (P := P) ‹_› ?_) | (refine keeps_fst (P := P) ‹_› ?_)

theorem State.pwmRise_keeps (h : Keep P 512) {s : State} {k : Nat} {x : Side} {t : Int} (hs : P s) :
    P (State.pwmRise s k x t) := by
  unfold State.pwmRise
  with_reducible repeat' first
    | assumption | apply State.setPwmO_keeps (h.mono (by decide)) | apply keeps_ite (P := P)
    | (extract_lets +onlyGivenNames x; refine (fun (hx : P x) => ?_) ?_; clear_value x; rotate_left; dsimp -zeta only [x])
    | (extract_lets +onlyGivenNames x)

theorem State.pwmHoldEnd_keeps (h : Keep P 900) {s : State} {k : Nat} {x : Side} {hx : Int} (hs : P s) :
    P (State.pwmHoldEnd s k x hx) := by
  unfold State.pwmHoldEnd
  with_reducible repeat' first
    | assumption | apply State.pwmTurnOff_keeps (h.mono (by decide)) | apply State.pwmEvent_keeps (h.mono (by decide))
    | apply State.inc_keeps (h.mono (by decide)) | apply State.put_keeps (h.mono (by decide)) | apply keeps_ite (P := P)
    | (extract_lets +onlyGivenNames x; refine (fun (hx : P x) => ?_) ?_; clear_value x; rotate_left; dsimp -zeta only [x])
    | (extract_lets +onlyGivenNames x)

theorem State.pwmKill_keeps (h : Keep P 516) {s : State} {k : Nat} {x : Side} {t : Int} (hs : P s) :
    P (State.pwmKill s k x t) := by
  unfold State.pwmKill
  with_reducible repeat' first
    | assumption | apply State.pwmTurnOff_keeps (h.mono (by decide)) | apply State.setPwmO_keeps (h.mono (by decide))
    | apply keeps_ite (P := P)
    | (extract_lets +onlyGivenNames x; refine (fun (hx : P x) => ?_) ?_; clear_value x; rotate_left; dsimp -zeta only [x])
    | (extract_lets +onlyGivenNames x)

theorem State.pwmEval_keeps (h : Keep P 900) {s : State} {k : Nat} {x : Side} {fallsOnly : Bool} {t : Int} (hs : P s) :
    P (State.pwmEval s k x fallsOnly t) := by
  unfold State.pwmEval
  with_reducible repeat' first
    | assumption | apply State.pwmKill_keeps (h.mono (by decide)) | apply State.pwmRise_keeps (h.mono (by decide))
    | apply State.pwmFall_keeps (h.mono (by decide)) | apply State.setPwmO_keeps (h.mono (by decide)) | apply keeps_ite (P := P)
    | (extract_lets +onlyGivenNames x; refine (fun (hx : P x) => ?_) ?_; clear_value x; rotate_left; dsimp -zeta only [x])
    | (extract_lets +onlyGivenNames x)

theorem State.pwmApply_keeps (h : Keep P 900) {s : State} {k : Nat} {t : Int} (hs : P s) :
    P (State.pwmApply s k t) := by
  unfold State.pwmApply
  with_reducible repeat' first
    | assumption | apply State.pwmEval_keeps (h.mono (by decide))
    | (extract_lets +onlyGivenNames x; refine (fun (hx : P x) => ?_) ?_; clear_value x; rotate_left; dsimp -zeta only [x])
    | (extract_lets +onlyGivenNames x)

theorem State.pwmTurnOn_keeps (h : Keep P 900) {s : State} {k : Nat} {x : Side} {t : Int} (hs : P s) :
    P (State.pwmTurnOn s k x t) := by
  unfold State.pwmTurnOn
  with_reducible repeat' first
    | assumption | apply State.setPwmO_keeps (h.mono (by decide)) | apply State.pwmEvent_keeps (h.mono (by decide))
    | apply State.inc_keeps (h.mono (by decide)) | apply State.put_keeps (h.mono (by decide)) | apply keeps_ite (P := P)
    | (extract_lets +onlyGivenNames x; refine (fun (hx : P x) => ?_) ?_; clear_value x; rotate_left; dsimp -zeta only [x])
    | (extract_lets +onlyGivenNames x) | split | (refine keeps_snd (P := P) ‹_› ?_) | (refine keeps_fst (P := P) ‹_› ?_)

theorem State.pwmTransfer_keeps (h : Keep P 4) {s : State} {k : Nat} {mask : Nat} (hs : P s) :
    P (State.pwmTransfer s k mask) := by
  unfold State.pwmTransfer
  with_reducible repeat' first
    | assumption | (intro _) | apply State.wr_keeps (h.mono (by decide)) | apply keeps_ite (P := P) | apply keeps_foldl (P := P)
    | (extract_lets +onlyGivenNames x; refine (fun (hx : P x) => ?_) ?_; clear_value x; rotate_left; dsimp -zeta only [x])

theorem State.setCommit_keeps (h : Keep P 4) {s : State} {k : Nat} {b : Bool} (hs : P s) :
    P (State.setCommit s k b) := by
  unfold State.setCommit
  with_reducible repeat' first
    | assumption | apply State.putFldBit_keeps (h.mono (by decide)) | apply State.putB_keeps (h.mono (by decide))

theorem State.pwmLevels_keeps (h : Keep P 900) {s : State} {k : Nat} {t : Int} (hs : P s) :
    P (State.pwmLevels s k t) := by
  unfold State.pwmLevels
  with_reducible repeat' first
    | assumption | apply State.pwmApply_keeps (h.mono (by decide)) | apply State.setPwm_keeps (h.mono (by decide))
    | (extract_lets +onlyGivenNames x; refine (fun (hx : P x) => ?_) ?_; clear_value x; rotate_left; dsimp -zeta only [x])
    | (extract_lets +onlyGivenNames x)

theorem State.pwmTakeEdges_keeps (h : Keep P 900) {s : State} {k : Nat} {x : Side} {hi : Int} {x4 : Nat} (hs : P s) :
    P (State.pwmTakeEdges s k x hi x4) := by
  induction x4 generalizing s k x hi with
  | zero =>
    unfold State.pwmTakeEdges
    with_reducible repeat' first
      | (with_reducible apply ih) | with_reducible assumption | with_reducible apply State.pwmApply_keeps (h.mono (by decide)) | with_reducible apply State.setPwmO_keeps (h.mono (by decide)) | (extract_lets +onlyGivenNames x; refine (fun (hx : P x) => ?_) ?_; clear_value x; rotate_left; dsimp -zeta only [x]) | (extract_lets +onlyGivenNames x) | split | (refine keeps_snd (P := P) ‹_› ?_) | (refine keeps_fst (P := P) ‹_› ?_)
  | succ k ih =>
    unfold State.pwmTakeEdges
    with_reducible repeat' first
      | (with_reducible apply ih) | with_reducible assumption | with_reducible apply State.pwmApply_keeps (h.mono (by decide)) | with_reducible apply State.setPwmO_keeps (h.mono (by decide)) | (extract_lets +onlyGivenNames x; refine (fun (hx : P x) => ?_) ?_; clear_value x; rotate_left; dsimp -zeta only [x]) | (extract_lets +onlyGivenNames x) | split | (refine keeps_snd (P := P) ‹_› ?_) | (refine keeps_fst (P := P) ‹_› ?_)


theorem State.tripCycleEnd_keeps (h : Keep P 4) {s : State} {k : Nat} (hs : P s) :
    P (State.tripCycleEnd s k) := by
  unfold State.tripCycleEnd
  with_reducible repeat' first
    | assumption | (intro _) | apply State.putFldBit_keeps (h.mono (by decide)) | apply keeps_ite (P := P)
    | apply keeps_foldl (P := P)
    | (extract_lets +onlyGivenNames x; refine (fun (hx : P x) => ?_) ?_; clear_value x; rotate_left; dsimp -zeta only [x])

theorem State.synco_keeps (h : Keep P 512) {s : State} {k : Nat} {x2 : Nat} (hs : P s) :
    P (State.synco s k x2) := by
  induction x2 generalizing s k with
  | zero =>
    unfold State.synco
    with_reducible repeat' first
      | (with_reducible apply ih) | with_reducible assumption | with_reducible apply State.setPwm_keeps (h.mono (by decide)) | with_reducible apply keeps_ite (P := P) | (extract_lets +onlyGivenNames x; refine (fun (hx : P x) => ?_) ?_; clear_value x; rotate_left; dsimp -zeta only [x]) | (extract_lets +onlyGivenNames x)
  | succ k ih =>
    unfold State.synco
    with_reducible repeat' first
      | (with_reducible apply ih) | with_reducible assumption | with_reducible apply State.setPwm_keeps (h.mono (by decide)) | with_reducible apply keeps_ite (P := P) | (extract_lets +onlyGivenNames x; refine (fun (hx : P x) => ?_) ?_; clear_value x; rotate_left; dsimp -zeta only [x]) | (extract_lets +onlyGivenNames x)


theorem State.syncEmit_keeps (h : Keep P 512) {s : State} {k : Nat} {sel : Nat} (hs : P s) :
    P (State.syncEmit s k sel) := by
  unfold State.syncEmit
  with_reducible repeat' first
    | assumption | apply State.synco_keeps (h.mono (by decide)) | apply keeps_ite (P := P)

theorem State.pwmZero_keeps (h : Keep P 66436) {s : State} {k : Nat} {jump : Bool} (hs : P s) :
    P (State.pwmZero s k jump) := by
  unfold State.pwmZero
  with_reducible repeat' first
    | assumption | apply State.syncEmit_keeps (h.mono (by decide)) | apply State.tripCycleEnd_keeps (h.mono (by decide))
    | apply State.pwmTakeEdges_keeps (h.mono (by decide)) | apply State.pwmLevels_keeps (h.mono (by decide))
    | apply State.setCommit_keeps (h.mono (by decide)) | apply State.pwmTransfer_keeps (h.mono (by decide))
    | apply State.pwmEvent_keeps (h.mono (by decide)) | apply State.ceEventSets_keeps (h.mono (by decide))
    | apply State.setPwm_keeps (h.mono (by decide)) | apply keeps_ite (P := P)
    | (extract_lets +onlyGivenNames x; refine (fun (hx : P x) => ?_) ?_; clear_value x; rotate_left; dsimp -zeta only [x])
    | (extract_lets +onlyGivenNames x)

theorem State.pwmZeroBoundary_keeps (h : Keep P 66436) {s : State} {k : Nat} (hs : P s) :
    P (State.pwmZeroBoundary s k) := by
  unfold State.pwmZeroBoundary
  with_reducible repeat' first
    | assumption | apply State.pwmZero_keeps (h.mono (by decide)) | apply State.setPwm_keeps (h.mono (by decide))
    | apply keeps_ite (P := P) | (extract_lets +onlyGivenNames x)

theorem State.pwmPeakBoundary_keeps (h : Keep P 66436) {s : State} {k : Nat} (hs : P s) :
    P (State.pwmPeakBoundary s k) := by
  unfold State.pwmPeakBoundary
  with_reducible repeat' first
    | assumption | apply State.syncEmit_keeps (h.mono (by decide)) | apply State.pwmTakeEdges_keeps (h.mono (by decide))
    | apply State.pwmLevels_keeps (h.mono (by decide)) | apply State.setCommit_keeps (h.mono (by decide))
    | apply State.pwmTransfer_keeps (h.mono (by decide)) | apply State.pwmEvent_keeps (h.mono (by decide))
    | apply State.ceEventSets_keeps (h.mono (by decide)) | apply State.setPwm_keeps (h.mono (by decide))
    | apply keeps_ite (P := P)
    | (extract_lets +onlyGivenNames x; refine (fun (hx : P x) => ?_) ?_; clear_value x; rotate_left; dsimp -zeta only [x])
    | (extract_lets +onlyGivenNames x)

theorem State.pwmBoundary_keeps (h : Keep P 66436) {s : State} {k : Nat} (hs : P s) :
    P (State.pwmBoundary s k) := by
  unfold State.pwmBoundary
  with_reducible repeat' first
    | assumption | apply State.pwmPeakBoundary_keeps (h.mono (by decide))
    | apply State.pwmZeroBoundary_keeps (h.mono (by decide))

theorem State.pwmSetLate_keeps (h : Keep P 388) {s : State} {k : Nat} {data : Nat} (hs : P s) :
    P (State.pwmSetLate s k data) := by
  unfold State.pwmSetLate
  with_reducible repeat' first
    | assumption | apply State.pwmEvent_keeps (h.mono (by decide)) | apply State.inc_keeps (h.mono (by decide))
    | apply State.put_keeps (h.mono (by decide))

theorem State.tripStart_keeps (h : Keep P 916) {s : State} {k : Nat} {i : Nat} (hs : P s) :
    P (State.tripStart s k i) := by
  unfold State.tripStart
  with_reducible repeat' first
    | assumption | apply State.pwmApply_keeps (h.mono (by decide)) | apply State.tripArm_keeps (h.mono (by decide))
    | apply State.tripConf_keeps (h.mono (by decide)) | apply State.pwmEvent_keeps (h.mono (by decide))
    | apply State.putFldBit_keeps (h.mono (by decide)) | apply keeps_ite (P := P)
    | (extract_lets +onlyGivenNames x; refine (fun (hx : P x) => ?_) ?_; clear_value x; rotate_left; dsimp -zeta only [x])
    | (extract_lets +onlyGivenNames x)

theorem State.tripOnDue_keeps (h : Keep P 900) {s : State} {k : Nat} (hs : P s) :
    P (State.tripOnDue s k) := by
  unfold State.tripOnDue
  with_reducible repeat' first
    | assumption | (intro _) | apply State.pwmApply_keeps (h.mono (by decide)) | apply keeps_ite (P := P)

theorem State.tripCfgWrite_keeps (h : Keep P 916) {s : State} {k : Nat} {v : Word} (hs : P s) :
    P (State.tripCfgWrite s k v) := by
  unfold State.tripCfgWrite
  with_reducible repeat' first
    | assumption | (intro _) | apply State.pwmApply_keeps (h.mono (by decide)) | apply State.tripArm_keeps (h.mono (by decide))
    | apply State.tripConf_keeps (h.mono (by decide)) | apply State.wr_keeps (h.mono (by decide)) | apply keeps_ite (P := P)
    | apply keeps_foldl (P := P)
    | (extract_lets +onlyGivenNames x; refine (fun (hx : P x) => ?_) ?_; clear_value x; rotate_left; dsimp -zeta only [x])
    | (extract_lets +onlyGivenNames x; refine (fun (hx : ∀ s y, P s → P (x s y)) => ?_) ?_; clear_value x; rotate_left; dsimp -zeta only [x])
    | (extract_lets +onlyGivenNames x) | (refine ‹∀ (s : State) (y : _), P s → P _› _ _ ?_)

theorem State.tripScan_keeps (h : Keep P 916) {s : State} (hs : P s) :
    P (State.tripScan s) := by
  unfold State.tripScan
  with_reducible repeat' first
    | assumption | (intro _) | apply State.tripStart_keeps (h.mono (by decide)) | apply keeps_foldl (P := P)
    | (extract_lets +onlyGivenNames x; refine (fun (hx : P x) => ?_) ?_; clear_value x; rotate_left; dsimp -zeta only [x])

theorem State.pwmStop_keeps (h : Keep P 516) {s : State} {k : Nat} (hs : P s) :
    P (State.pwmStop s k) := by
  unfold State.pwmStop
  with_reducible repeat' first
    | assumption | apply State.pwmKill_keeps (h.mono (by decide)) | apply State.setPwm_keeps (h.mono (by decide))
    | apply State.put_keeps (h.mono (by decide))
    | (extract_lets +onlyGivenNames x; refine (fun (hx : P x) => ?_) ?_; clear_value x; rotate_left; dsimp -zeta only [x])
    | (extract_lets +onlyGivenNames x)

theorem State.pwmStart_keeps (h : Keep P 516) {s : State} {k : Nat} (hs : P s) :
    P (State.pwmStart s k) := by
  unfold State.pwmStart
  with_reducible repeat' first
    | assumption | apply State.setPwm_keeps (h.mono (by decide)) | apply State.put_keeps (h.mono (by decide))
    | apply keeps_ite (P := P)
    | (extract_lets +onlyGivenNames x; refine (fun (hx : P x) => ?_) ?_; clear_value x; rotate_left; dsimp -zeta only [x])
    | (extract_lets +onlyGivenNames x)

theorem State.pwmForceWrite_keeps (h : Keep P 516) {s : State} {k : Nat} {v : Word} (hs : P s) :
    P (State.pwmForceWrite s k v) := by
  unfold State.pwmForceWrite
  with_reducible repeat' first
    | assumption | apply State.setPwm_keeps (h.mono (by decide)) | apply State.wr_keeps (h.mono (by decide))
    | (extract_lets +onlyGivenNames x; refine (fun (hx : P x) => ?_) ?_; clear_value x; rotate_left; dsimp -zeta only [x])
    | (extract_lets +onlyGivenNames x)

theorem State.pwmForceDue_keeps (h : Keep P 900) {s : State} {k : Nat} (hs : P s) :
    P (State.pwmForceDue s k) := by
  unfold State.pwmForceDue
  with_reducible repeat' first
    | assumption | apply State.pwmApply_keeps (h.mono (by decide)) | apply State.setPwm_keeps (h.mono (by decide))
    | apply keeps_ite (P := P)
    | (extract_lets +onlyGivenNames x; refine (fun (hx : P x) => ?_) ?_; clear_value x; rotate_left; dsimp -zeta only [x])
    | (extract_lets +onlyGivenNames x) | split | (refine keeps_snd (P := P) ‹_› ?_) | (refine keeps_fst (P := P) ‹_› ?_)

end Sys2Proof.Machine
end

