-- ==== Sys2Proof/Laws/KeepActOps.lean ====
section
/-! SUPPORT. What the operations of Machine/ActOps.lean keep (Laws/Keep.lean). -/

namespace Sys2Proof.Machine

variable {P : State → Prop}

theorem State.setAct_keeps (h : Keep P 67108864) {s : State} {n : Nat} {a : ActSeq} (hs : P s) :
    P (State.setAct s n a) := by
  unfold State.setAct
  with_reducible repeat' first
    | assumption
    | (refine State.setActs_keeps (h.mono (by decide)) (by intro hq; first | exact hq | (simp +zetaDelta at hq ⊢ <;> simp [hq]; done) | simpa +zetaDelta using hq) ?_)

theorem State.seqStart_keeps (h : Keep P 117441028) {s : State} {n : Nat} {code : Nat} {handle : Nat} (hs : P s) :
    P (State.seqStart s n code handle) := by
  unfold State.seqStart
  with_reducible repeat' first
    | assumption | (intro _) | apply State.setAct_keeps (h.mono (by decide)) | apply State.changed_keeps (h.mono (by decide))
    | apply State.pwmStart_keeps (h.mono (by decide)) | apply State.wr_keeps (h.mono (by decide))
    | (refine State.setModes_keeps (h.mono (by decide)) (by intro hq; first | exact hq | (simp +zetaDelta [Modes.Shaped, Modes.idle] at hq ⊢ <;> simp [hq]; done) | simpa +zetaDelta [Modes.Shaped, Modes.idle] using hq) ?_)
    | apply keeps_ite (P := P) | apply keeps_foldl (P := P)
    | (extract_lets +onlyGivenNames x; refine (fun (hx : P x) => ?_) ?_; clear_value x; rotate_left; dsimp -zeta only [x])
    | (extract_lets +onlyGivenNames x)

end Sys2Proof.Machine
end

