-- ==== Sys2Proof/Laws/KeepPwm.lean ====
section
/-! SUPPORT. What the operations of Machine/Pwm.lean keep (Laws/Keep.lean). -/

namespace Sys2Proof.Machine

variable {P : State → Prop}

theorem execPwmPeakBoundary_keeps (h : Keep P 66436) {k : Fin 32} {s : State} (hs : P s) :
    Answers P (execPwmPeakBoundary k s) := by
  unfold execPwmPeakBoundary
  refine ⟨_, rfl, ?_⟩
  with_reducible repeat' first
    | assumption | apply State.pwmPeakBoundary_keeps (h.mono (by decide))

theorem State.pwmShadowWrite_keeps (h : Keep P 66436) {s : State} {k : Nat} {r : Nat} {v : Word} (hs : P s) :
    P (State.pwmShadowWrite s k r v) := by
  unfold State.pwmShadowWrite
  with_reducible repeat' first
    | assumption | apply State.pwmSetLate_keeps (h.mono (by decide)) | apply State.pwmBoundary_keeps (h.mono (by decide))
    | apply State.setPwm_keeps (h.mono (by decide)) | apply State.wr_keeps (h.mono (by decide)) | apply keeps_ite (P := P)
    | (extract_lets +onlyGivenNames x; refine (fun (hx : P x) => ?_) ?_; clear_value x; rotate_left; dsimp -zeta only [x])
    | (extract_lets +onlyGivenNames x)

theorem execPwmShadowWrite_keeps (h : Keep P 74628) {ini : Initiator} {k : Fin 32} {r : Fin 8} {val : Word} {s : State} (hs : P s) :
    Answers P (execPwmShadowWrite ini k r val s) := by
  unfold execPwmShadowWrite
  refine ⟨_, rfl, ?_⟩
  with_reducible repeat' first
    | assumption | (intro _) | apply State.pwmShadowWrite_keeps (h.mono (by decide))
    | apply State.pwmWrite_keeps (h.mono (by decide))
    | (extract_lets +onlyGivenNames x; refine (fun (hx : P x) => ?_) ?_; clear_value x; rotate_left; dsimp -zeta only [x])

theorem State.pwmEach_keeps (h : Keep P 260) {s : State} {ini : Initiator} {v : Word} {f : State → Nat → State} (hs : P s) (hf : ∀ (y0 : State) (y1 : Nat), P y0 → P (f y0 y1)) :
    P (State.pwmEach s ini v f) := by
  unfold State.pwmEach
  with_reducible repeat' first
    | assumption | (intro _) | (apply hf) | apply State.countDiscard_keeps (h.mono (by decide))
    | apply State.ownViolation_keeps (h.mono (by decide)) | apply keeps_ite (P := P) | apply keeps_foldl (P := P)
    | (extract_lets +onlyGivenNames x; refine (fun (hx : P x) => ?_) ?_; clear_value x; rotate_left; dsimp -zeta only [x])

theorem State.pwmGlobal_keeps (h : Keep P 8452) {s : State} {ini : Initiator} {a : Nat} {v : Word} {f : State → Nat → State} (hs : P s) (hf : ∀ (y0 : State) (y1 : Nat), P y0 → P (f y0 y1)) :
    P (State.pwmGlobal s ini a v f) := by
  unfold State.pwmGlobal
  with_reducible repeat' first
    | assumption | (intro _) | (apply hf) | apply State.pwmEach_keeps (h.mono (by decide))
    | apply State.busWrite_keeps (h.mono (by decide))
    | (extract_lets +onlyGivenNames x; refine (fun (hx : P x) => ?_) ?_; clear_value x; rotate_left; dsimp -zeta only [x])

theorem State.pwmCommit_keeps (h : Keep P 66436) {s : State} {k : Nat} (hs : P s) :
    P (State.pwmCommit s k) := by
  unfold State.pwmCommit
  with_reducible repeat' first
    | assumption | apply State.pwmSetLate_keeps (h.mono (by decide)) | apply State.pwmBoundary_keeps (h.mono (by decide))
    | apply State.setCommit_keeps (h.mono (by decide)) | apply State.setPwm_keeps (h.mono (by decide))
    | apply keeps_ite (P := P)
    | (extract_lets +onlyGivenNames x; refine (fun (hx : P x) => ?_) ?_; clear_value x; rotate_left; dsimp -zeta only [x])
    | (extract_lets +onlyGivenNames x)

theorem execPwmgCommit_keeps (h : Keep P 74628) {ini : Initiator} {val : Word} {s : State} (hs : P s) :
    Answers P (execPwmgCommit ini val s) := by
  unfold execPwmgCommit
  refine ⟨_, rfl, ?_⟩
  with_reducible repeat' first
    | assumption | (intro _) | apply State.pwmCommit_keeps (h.mono (by decide))
    | apply State.pwmGlobal_keeps (h.mono (by decide))
    | (extract_lets +onlyGivenNames x; refine (fun (hx : P x) => ?_) ?_; clear_value x; rotate_left; dsimp -zeta only [x])

theorem execPwmgStart_keeps (h : Keep P 8964) {ini : Initiator} {val : Word} {s : State} (hs : P s) :
    Answers P (execPwmgStart ini val s) := by
  unfold execPwmgStart
  refine ⟨_, rfl, ?_⟩
  with_reducible repeat' first
    | assumption | (intro _) | apply State.pwmGlobal_keeps (h.mono (by decide))
    | apply State.pwmStart_keeps (h.mono (by decide))
    | (extract_lets +onlyGivenNames x; refine (fun (hx : P x) => ?_) ?_; clear_value x; rotate_left; dsimp -zeta only [x])

theorem State.pwmCtrlWrite_keeps (h : Keep P 516) {s : State} {k : Nat} {v : Word} (hs : P s) :
    P (State.pwmCtrlWrite s k v) := by
  unfold State.pwmCtrlWrite
  with_reducible repeat' first
    | assumption | apply State.pwmStart_keeps (h.mono (by decide)) | apply State.pwmStop_keeps (h.mono (by decide))
    | apply State.put_keeps (h.mono (by decide)) | apply State.wr_keeps (h.mono (by decide)) | apply keeps_ite (P := P)
    | (extract_lets +onlyGivenNames x; refine (fun (hx : P x) => ?_) ?_; clear_value x; rotate_left; dsimp -zeta only [x])
    | (extract_lets +onlyGivenNames x)

theorem execPwmCtrlRun_keeps (h : Keep P 8964) {ini : Initiator} {k : Fin 32} {val : Word} {s : State} (hs : P s) :
    Answers P (execPwmCtrlRun ini k val s) := by
  unfold execPwmCtrlRun
  refine ⟨_, rfl, ?_⟩
  with_reducible repeat' first
    | assumption | (intro _) | apply State.pwmCtrlWrite_keeps (h.mono (by decide))
    | apply State.pwmWrite_keeps (h.mono (by decide))
    | (extract_lets +onlyGivenNames x; refine (fun (hx : P x) => ?_) ?_; clear_value x; rotate_left; dsimp -zeta only [x])

theorem execPwmCtrlStop_keeps (h : Keep P 8964) {ini : Initiator} {k : Fin 32} {val : Word} {s : State} (hs : P s) :
    Answers P (execPwmCtrlStop ini k val s) := by
  unfold execPwmCtrlStop
  refine ⟨_, rfl, ?_⟩
  with_reducible repeat' first
    | assumption | (intro _) | apply State.pwmCtrlWrite_keeps (h.mono (by decide))
    | apply State.pwmWrite_keeps (h.mono (by decide))
    | (extract_lets +onlyGivenNames x; refine (fun (hx : P x) => ?_) ?_; clear_value x; rotate_left; dsimp -zeta only [x])

theorem State.pwmCompareEdge_keeps (h : Keep P 900) {s : State} {k : Nat} {x : Side} (hs : P s) :
    P (State.pwmCompareEdge s k x) := by
  unfold State.pwmCompareEdge
  with_reducible repeat' first
    | assumption | apply State.pwmTakeEdges_keeps (h.mono (by decide)) | apply keeps_ite (P := P)

theorem execPwmCompareEdge_keeps (h : Keep P 900) {k : Fin 32} {x : Side} {s : State} (hs : P s) :
    Answers P (execPwmCompareEdge k x s) := by
  unfold execPwmCompareEdge
  refine ⟨_, rfl, ?_⟩
  with_reducible repeat' first
    | assumption | apply State.pwmCompareEdge_keeps (h.mono (by decide))

theorem State.pwmDeadtimeEnd_keeps (h : Keep P 900) {s : State} {k : Nat} {x : Side} (hs : P s) :
    P (State.pwmDeadtimeEnd s k x) := by
  unfold State.pwmDeadtimeEnd
  with_reducible repeat' first
    | assumption | apply State.pwmTurnOn_keeps (h.mono (by decide)) | apply keeps_ite (P := P)
    | (extract_lets +onlyGivenNames x; refine (fun (hx : P x) => ?_) ?_; clear_value x; rotate_left; dsimp -zeta only [x])
    | (extract_lets +onlyGivenNames x) | split | (refine keeps_snd (P := P) ‹_› ?_) | (refine keeps_fst (P := P) ‹_› ?_)

theorem execPwmDeadtimeEnd_keeps (h : Keep P 900) {k : Fin 32} {x : Side} {s : State} (hs : P s) :
    Answers P (execPwmDeadtimeEnd k x s) := by
  unfold execPwmDeadtimeEnd
  refine ⟨_, rfl, ?_⟩
  with_reducible repeat' first
    | assumption | apply State.pwmDeadtimeEnd_keeps (h.mono (by decide))

theorem State.pwmMinpulseEnd_keeps (h : Keep P 900) {s : State} {k : Nat} {x : Side} (hs : P s) :
    P (State.pwmMinpulseEnd s k x) := by
  unfold State.pwmMinpulseEnd
  with_reducible repeat' first
    | assumption | apply State.pwmHoldEnd_keeps (h.mono (by decide)) | apply keeps_ite (P := P)
    | (extract_lets +onlyGivenNames x; refine (fun (hx : P x) => ?_) ?_; clear_value x; rotate_left; dsimp -zeta only [x])
    | (extract_lets +onlyGivenNames x) | split | (refine keeps_snd (P := P) ‹_› ?_) | (refine keeps_fst (P := P) ‹_› ?_)

theorem execPwmMinpulseEnd_keeps (h : Keep P 900) {k : Fin 32} {x : Side} {s : State} (hs : P s) :
    Answers P (execPwmMinpulseEnd k x s) := by
  unfold execPwmMinpulseEnd
  refine ⟨_, rfl, ?_⟩
  with_reducible repeat' first
    | assumption | apply State.pwmMinpulseEnd_keeps (h.mono (by decide))

theorem State.pwmCmpEvent_keeps (h : Keep P 66436) {s : State} {k : Nat} {d : Bool} (hs : P s) :
    P (State.pwmCmpEvent s k d) := by
  unfold State.pwmCmpEvent
  with_reducible repeat' first
    | assumption | apply State.pwmEvent_keeps (h.mono (by decide)) | apply State.ceEventSets_keeps (h.mono (by decide))
    | apply State.setPwm_keeps (h.mono (by decide)) | apply keeps_ite (P := P)
    | (extract_lets +onlyGivenNames x; refine (fun (hx : P x) => ?_) ?_; clear_value x; rotate_left; dsimp -zeta only [x])
    | (extract_lets +onlyGivenNames x)

theorem execPwmCmpcCmpd_keeps (h : Keep P 66436) {k : Fin 32} {d : Bool} {s : State} (hs : P s) :
    Answers P (execPwmCmpcCmpd k d s) := by
  unfold execPwmCmpcCmpd
  refine ⟨_, rfl, ?_⟩
  with_reducible repeat' first
    | assumption | apply State.pwmCmpEvent_keeps (h.mono (by decide))

theorem execPwmForce_keeps (h : Keep P 8964) {ini : Initiator} {k : Fin 32} {val : Word} {s : State} (hs : P s) :
    Answers P (execPwmForce ini k val s) := by
  unfold execPwmForce
  refine ⟨_, rfl, ?_⟩
  with_reducible repeat' first
    | assumption | (intro _) | apply State.pwmForceWrite_keeps (h.mono (by decide))
    | apply State.pwmWrite_keeps (h.mono (by decide))
    | (extract_lets +onlyGivenNames x; refine (fun (hx : P x) => ?_) ?_; clear_value x; rotate_left; dsimp -zeta only [x])

theorem execPwmTripActive_keeps (h : Keep P 916) {k : Fin 32} {i : Fin 4} {s : State} (hs : P s) :
    Answers P (execPwmTripActive k i s) := by
  unfold execPwmTripActive
  refine ⟨_, rfl, ?_⟩
  with_reducible repeat' first
    | assumption | apply State.tripStart_keeps (h.mono (by decide))

theorem State.pwmTripClear_keeps (h : Keep P 900) {s : State} {k : Nat} {v : Word} (hs : P s) :
    P (State.pwmTripClear s k v) := by
  unfold State.pwmTripClear
  with_reducible repeat' first
    | assumption | (intro _) | apply State.pwmApply_keeps (h.mono (by decide))
    | apply State.putFldBit_keeps (h.mono (by decide)) | apply keeps_ite (P := P) | apply keeps_foldl (P := P)
    | (extract_lets +onlyGivenNames x; refine (fun (hx : P x) => ?_) ?_; clear_value x; rotate_left; dsimp -zeta only [x])
    | (extract_lets +onlyGivenNames x)

theorem execPwmTripclr_keeps (h : Keep P 9092) {ini : Initiator} {k : Fin 32} {val : Word} {s : State} (hs : P s) :
    Answers P (execPwmTripclr ini k val s) := by
  unfold execPwmTripclr
  refine ⟨_, rfl, ?_⟩
  with_reducible repeat' first
    | assumption | (intro _) | apply State.pwmTripClear_keeps (h.mono (by decide))
    | apply State.pwmWrite_keeps (h.mono (by decide))
    | (extract_lets +onlyGivenNames x; refine (fun (hx : P x) => ?_) ?_; clear_value x; rotate_left; dsimp -zeta only [x])

theorem State.pwmSync_keeps (h : Keep P 66436) {s : State} {k : Nat} (hs : P s) :
    P (State.pwmSync s k) := by
  unfold State.pwmSync
  with_reducible repeat' first
    | assumption | apply State.pwmZero_keeps (h.mono (by decide)) | apply State.pwmEvent_keeps (h.mono (by decide))
    | apply State.setPwm_keeps (h.mono (by decide)) | apply State.put_keeps (h.mono (by decide)) | apply keeps_ite (P := P)
    | (extract_lets +onlyGivenNames x; refine (fun (hx : P x) => ?_) ?_; clear_value x; rotate_left; dsimp -zeta only [x])
    | (extract_lets +onlyGivenNames x)

theorem execPwmSynci_keeps (h : Keep P 66436) {k : Fin 32} {s : State} (hs : P s) :
    Answers P (execPwmSynci k s) := by
  unfold execPwmSynci
  refine ⟨_, rfl, ?_⟩
  with_reducible repeat' first
    | assumption | apply State.pwmSync_keeps (h.mono (by decide))

theorem State.tapCalibrate_keeps (h : Keep P 512) {s : State} {k : Nat} {up : Bool} (hs : P s) :
    P (State.tapCalibrate s k up) := by
  unfold State.tapCalibrate
  with_reducible repeat' first
    | assumption | apply State.setPwm_keeps (h.mono (by decide)) | apply keeps_ite (P := P)
    | (extract_lets +onlyGivenNames x; refine (fun (hx : P x) => ?_) ?_; clear_value x; rotate_left; dsimp -zeta only [x])
    | (extract_lets +onlyGivenNames x)

theorem State.pwmCycle_keeps (h : Keep P 66436) {s : State} {k : Nat} (hs : P s) :
    P (State.pwmCycle s k) := by
  unfold State.pwmCycle
  with_reducible repeat' first
    | assumption | apply State.pwmSync_keeps (h.mono (by decide)) | apply State.pwmCmpEvent_keeps (h.mono (by decide))
    | apply State.pwmMinpulseEnd_keeps (h.mono (by decide)) | apply State.pwmDeadtimeEnd_keeps (h.mono (by decide))
    | apply State.pwmCompareEdge_keeps (h.mono (by decide)) | apply State.pwmBoundary_keeps (h.mono (by decide))
    | apply keeps_ite (P := P)
    | (extract_lets +onlyGivenNames x; refine (fun (hx : P x) => ?_) ?_; clear_value x; rotate_left; dsimp -zeta only [x])
    | (extract_lets +onlyGivenNames x)

theorem execPwmTapCalibration_keeps (h : Keep P 512) {k : Fin 32} {up : Bool} {s : State} (hs : P s) :
    Answers P (execPwmTapCalibration k up s) := by
  unfold execPwmTapCalibration
  refine ⟨_, rfl, ?_⟩
  with_reducible repeat' first
    | assumption | apply State.tapCalibrate_keeps (h.mono (by decide))

theorem execCecLock_keeps (h : Keep P 8196) {ini : Initiator} {val : Word} {s : State} (hs : P s) :
    Answers P (execCecLock ini val s) := by
  unfold execCecLock
  refine ⟨_, rfl, ?_⟩
  with_reducible repeat' first
    | assumption | (intro _) | apply State.busWrite_keeps (h.mono (by decide)) | apply State.put_keeps (h.mono (by decide))
    | apply keeps_ite (P := P)
    | (extract_lets +onlyGivenNames x; refine (fun (hx : P x) => ?_) ?_; clear_value x; rotate_left; dsimp -zeta only [x])

end Sys2Proof.Machine
end

