-- ==== Sys2Proof/Laws/KeepModeOps.lean ====
section
/-! SUPPORT. What the operations of Machine/ModeOps.lean keep (Laws/Keep.lean). -/

namespace Sys2Proof.Machine

variable {P : State → Prop}

theorem State.setOwner_keeps (h : Keep P 33554432) {s : State} {i : Nat} {o : Option Nat} (hs : P s) :
    P (State.setOwner s i o) := by
  unfold State.setOwner
  with_reducible repeat' first
    | assumption
    | (refine State.setModes_keeps (h.mono (by decide)) (by intro hq; first | exact hq | (simp +zetaDelta [Modes.Shaped] at hq ⊢ <;> simp [hq]; done) | simpa +zetaDelta [Modes.Shaped] using hq) ?_)
    | (extract_lets +onlyGivenNames x)

theorem State.modesChanged_keeps (h : Keep P 50331648) {s : State} (hs : P s) :
    P (State.modesChanged s) := by
  unfold State.modesChanged
  with_reducible repeat' first
    | assumption | apply State.changed_keeps (h.mono (by decide))
    | (refine State.setModes_keeps (h.mono (by decide)) (by intro hq; first | exact hq | (simp +zetaDelta [Modes.Shaped] at hq ⊢ <;> simp [hq]; done) | simpa +zetaDelta [Modes.Shaped] using hq) ?_)
    | (extract_lets +onlyGivenNames x)

theorem State.setActive_keeps (h : Keep P 50331652) {s : State} {i : Nat} {b : Bool} (hs : P s) :
    P (State.setActive s i b) := by
  unfold State.setActive
  with_reducible repeat' first
    | assumption | apply State.modesChanged_keeps (h.mono (by decide)) | apply State.putFldBit_keeps (h.mono (by decide))

theorem State.setWaiting_keeps (h : Keep P 50331652) {s : State} {i : Nat} {b : Bool} (hs : P s) :
    P (State.setWaiting s i b) := by
  unfold State.setWaiting
  with_reducible repeat' first
    | assumption | apply State.modesChanged_keeps (h.mono (by decide)) | apply State.putFldBit_keeps (h.mono (by decide))

theorem State.stageOff_keeps (h : Keep P 516) {s : State} {e : Nat} (hs : P s) :
    P (State.stageOff s e) := by
  unfold State.stageOff
  with_reducible repeat' first
    | assumption | (intro _) | apply State.pwmStop_keeps (h.mono (by decide)) | apply keeps_ite (P := P)
    | apply keeps_foldl (P := P)
    | (extract_lets +onlyGivenNames x; refine (fun (hx : P x) => ?_) ?_; clear_value x; rotate_left; dsimp -zeta only [x])

theorem State.holdBegin_keeps (h : Keep P 516) {s : State} {m : Nat} {i : Nat} {off : Bool} (hs : P s) :
    P (State.holdBegin s m i off) := by
  unfold State.holdBegin
  with_reducible repeat' first
    | assumption | apply State.stageOff_keeps (h.mono (by decide)) | apply State.put_keeps (h.mono (by decide))
    | apply keeps_ite (P := P)

theorem State.dropPend_keeps (h : Keep P 50331652) {s : State} {i : Nat} (hs : P s) :
    P (State.dropPend s i) := by
  unfold State.dropPend
  with_reducible repeat' first
    | assumption | (intro _) | apply State.setWaiting_keeps (h.mono (by decide))
    | (refine State.setModes_keeps (h.mono (by decide)) (by intro hq; first | exact hq | (simp +zetaDelta [Modes.Shaped] at hq ⊢ <;> simp [hq]; done) | simpa +zetaDelta [Modes.Shaped] using hq) ?_)
    | (extract_lets +onlyGivenNames x)

theorem State.cancelPend_keeps (h : Keep P 50332164) {s : State} {i : Nat} {status : Nat} (hs : P s) :
    P (State.cancelPend s i status) := by
  unfold State.cancelPend
  with_reducible repeat' first
    | assumption | (intro _) | apply State.dropPend_keeps (h.mono (by decide)) | apply State.stageOff_keeps (h.mono (by decide))
    | apply State.setOwner_keeps (h.mono (by decide)) | apply State.finalAll_keeps (h.mono (by decide))
    | apply State.put_keeps (h.mono (by decide)) | apply keeps_ite (P := P) | apply keeps_foldl (P := P)
    | (extract_lets +onlyGivenNames x; refine (fun (hx : P x) => ?_) ?_; clear_value x; rotate_left; dsimp -zeta only [x])
    | (extract_lets +onlyGivenNames x) | split | (refine keeps_snd (P := P) ‹_› ?_) | (refine keeps_fst (P := P) ‹_› ?_)

theorem State.enterInst_keeps (h : Keep P 50331652) {s : State} {i : Nat} (hs : P s) :
    P (State.enterInst s i) := by
  unfold State.enterInst
  with_reducible repeat' first
    | assumption | apply State.setActive_keeps (h.mono (by decide)) | apply State.putFldBit_keeps (h.mono (by decide))
    | apply State.put_keeps (h.mono (by decide))
    | (refine State.setModes_keeps (h.mono (by decide)) (by intro hq; first | exact hq | (simp +zetaDelta [Modes.Shaped] at hq ⊢ <;> simp [hq]; done) | simpa +zetaDelta [Modes.Shaped] using hq) ?_)
    | (extract_lets +onlyGivenNames x; refine (fun (hx : P x) => ?_) ?_; clear_value x; rotate_left; dsimp -zeta only [x])
    | (extract_lets +onlyGivenNames x) | split | (refine keeps_snd (P := P) ‹_› ?_) | (refine keeps_fst (P := P) ‹_› ?_)

theorem State.activate_keeps (h : Keep P 50332164) {s : State} {i : Nat} (hs : P s) :
    P (State.activate s i) := by
  unfold State.activate
  with_reducible repeat' first
    | assumption | apply State.enterInst_keeps (h.mono (by decide)) | apply State.cancelPend_keeps (h.mono (by decide))
    | apply State.dropPend_keeps (h.mono (by decide)) | apply State.finalAll_keeps (h.mono (by decide))
    | apply keeps_ite (P := P) | split | (refine keeps_snd (P := P) ‹_› ?_) | (refine keeps_fst (P := P) ‹_› ?_)

theorem State.rampsDone_keeps (h : Keep P 117441028) {s : State} {p : PendReq} (hs : P s) :
    P (State.rampsDone s p) := by
  unfold State.rampsDone
  with_reducible repeat' first
    | assumption | (intro _) | apply State.activate_keeps (h.mono (by decide))
    | apply State.cancelPend_keeps (h.mono (by decide)) | apply State.seqStart_keeps (h.mono (by decide))
    | (refine State.setModes_keeps (h.mono (by decide)) (by intro hq; first | exact hq | (simp +zetaDelta [Modes.Shaped] at hq ⊢ <;> simp [hq]; done) | simpa +zetaDelta [Modes.Shaped] using hq) ?_)
    | apply keeps_ite (P := P) | (extract_lets +onlyGivenNames x) | split | (refine keeps_snd (P := P) ‹_› ?_)
    | (refine keeps_fst (P := P) ‹_› ?_)

theorem State.pendScan_keeps (h : Keep P 117441028) {s : State} (hs : P s) :
    P (State.pendScan s) := by
  unfold State.pendScan
  with_reducible repeat' first
    | assumption | (intro _) | apply State.rampsDone_keeps (h.mono (by decide)) | apply keeps_foldl (P := P)
    | (extract_lets +onlyGivenNames x; refine (fun (hx : P x) => ?_) ?_; clear_value x; rotate_left; dsimp -zeta only [x])

theorem State.instGone_keeps (h : Keep P 117441028) {s : State} {i : Nat} {off : Bool} (hs : P s) :
    P (State.instGone s i off) := by
  unfold State.instGone
  with_reducible repeat' first
    | assumption | (intro _) | apply State.pendScan_keeps (h.mono (by decide))
    | apply State.holdBegin_keeps (h.mono (by decide)) | apply State.stageOff_keeps (h.mono (by decide))
    | apply State.setActive_keeps (h.mono (by decide))
    | (refine State.setModes_keeps (h.mono (by decide)) (by intro hq; first | exact hq | (simp +zetaDelta [Modes.Shaped] at hq ⊢ <;> simp [hq]; done) | simpa +zetaDelta [Modes.Shaped] using hq) ?_)
    | apply keeps_ite (P := P) | apply keeps_foldl (P := P)
    | (extract_lets +onlyGivenNames x; refine (fun (hx : P x) => ?_) ?_; clear_value x; rotate_left; dsimp -zeta only [x])
    | (extract_lets +onlyGivenNames x)

theorem State.dcdTripClear_keeps (h : Keep P 900) {s : State} (hs : P s) :
    P (State.dcdTripClear s) := by
  unfold State.dcdTripClear
  with_reducible repeat' first
    | assumption | (intro _) | apply State.pwmTripClear_keeps (h.mono (by decide)) | apply keeps_foldl (P := P)
    | (extract_lets +onlyGivenNames x; refine (fun (hx : P x) => ?_) ?_; clear_value x; rotate_left; dsimp -zeta only [x])
    | (extract_lets +onlyGivenNames x)

theorem State.rampBegin_keeps (h : Keep P 33554432) {s : State} {i : Nat} (hs : P s) :
    P (State.rampBegin s i) := by
  unfold State.rampBegin
  with_reducible repeat' first
    | assumption
    | (refine State.setModes_keeps (h.mono (by decide)) (by intro hq; first | exact hq | (simp +zetaDelta [Modes.Shaped] at hq ⊢ <;> simp [hq]; done) | simpa +zetaDelta [Modes.Shaped] using hq) ?_)
    | (extract_lets +onlyGivenNames x)

theorem State.sstInst_keeps (h : Keep P 117441028) {s : State} {i : Nat} (hs : P s) :
    P (State.sstInst s i) := by
  unfold State.sstInst
  with_reducible repeat' first
    | assumption | apply State.rampBegin_keeps (h.mono (by decide)) | apply State.instGone_keeps (h.mono (by decide))
    | apply State.put_keeps (h.mono (by decide))
    | (refine State.setModes_keeps (h.mono (by decide)) (by intro hq; first | exact hq | (simp +zetaDelta [Modes.Shaped] at hq ⊢ <;> simp [hq]; done) | simpa +zetaDelta [Modes.Shaped] using hq) ?_)
    | apply keeps_ite (P := P)
    | (extract_lets +onlyGivenNames x; refine (fun (hx : P x) => ?_) ?_; clear_value x; rotate_left; dsimp -zeta only [x])
    | (extract_lets +onlyGivenNames x)

theorem State.endInst_keeps (h : Keep P 117441028) {s : State} {i : Nat} {rsn : Nat} (hs : P s) :
    P (State.endInst s i rsn) := by
  unfold State.endInst
  with_reducible repeat' first
    | assumption | apply State.sstInst_keeps (h.mono (by decide)) | apply State.rampBegin_keeps (h.mono (by decide))
    | apply State.instGone_keeps (h.mono (by decide)) | apply State.put_keeps (h.mono (by decide)) | apply keeps_ite (P := P)
    | (extract_lets +onlyGivenNames x; refine (fun (hx : P x) => ?_) ?_; clear_value x; rotate_left; dsimp -zeta only [x])
    | (extract_lets +onlyGivenNames x)

theorem State.entryFault_keeps (h : Keep P 117441028) {s : State} {e : Nat} (hs : P s) :
    P (State.entryFault s e) := by
  unfold State.entryFault
  with_reducible repeat' first
    | assumption | (intro _) | apply State.endInst_keeps (h.mono (by decide))
    | apply State.cancelPend_keeps (h.mono (by decide)) | apply keeps_foldl (P := P)
    | (extract_lets +onlyGivenNames x; refine (fun (hx : P x) => ?_) ?_; clear_value x; rotate_left; dsimp -zeta only [x])

theorem State.stageFault_keeps (h : Keep P 117441028) {s : State} {g : Nat} (hs : P s) :
    P (State.stageFault s g) := by
  unfold State.stageFault
  with_reducible repeat' first
    | assumption | apply State.entryFault_keeps (h.mono (by decide)) | apply keeps_ite (P := P)

theorem State.sstDcd_keeps (h : Keep P 117441028) {s : State} (hs : P s) :
    P (State.sstDcd s) := by
  unfold State.sstDcd
  with_reducible repeat' first
    | assumption | apply State.endInst_keeps (h.mono (by decide)) | apply keeps_ite (P := P)

theorem State.sstEnter_keeps (h : Keep P 117441028) {s : State} (hs : P s) :
    P (State.sstEnter s) := by
  unfold State.sstEnter
  with_reducible repeat' first
    | assumption | (intro _) | apply State.sstDcd_keeps (h.mono (by decide)) | apply State.endInst_keeps (h.mono (by decide))
    | apply State.cancelPend_keeps (h.mono (by decide)) | apply State.setActive_keeps (h.mono (by decide))
    | (refine State.setModes_keeps (h.mono (by decide)) (by intro hq; first | exact hq | (simp +zetaDelta [Modes.Shaped] at hq ⊢ <;> simp [hq]; done) | simpa +zetaDelta [Modes.Shaped] using hq) ?_)
    | apply keeps_ite (P := P) | apply keeps_foldl (P := P)
    | (extract_lets +onlyGivenNames x; refine (fun (hx : P x) => ?_) ?_; clear_value x; rotate_left; dsimp -zeta only [x])
    | (extract_lets +onlyGivenNames x)

theorem State.hldEnter_keeps (h : Keep P 117441028) {s : State} {cause : Nat} (hs : P s) :
    P (State.hldEnter s cause) := by
  unfold State.hldEnter
  with_reducible repeat' first
    | assumption | (intro _) | apply State.endInst_keeps (h.mono (by decide))
    | apply State.cancelPend_keeps (h.mono (by decide)) | apply State.setActive_keeps (h.mono (by decide))
    | apply State.changed_keeps (h.mono (by decide)) | apply State.put_keeps (h.mono (by decide)) | apply keeps_ite (P := P)
    | apply keeps_foldl (P := P)
    | (extract_lets +onlyGivenNames x; refine (fun (hx : P x) => ?_) ?_; clear_value x; rotate_left; dsimp -zeta only [x])
    | (extract_lets +onlyGivenNames x)

theorem State.sstDone_keeps (h : Keep P 117441028) {s : State} (hs : P s) :
    P (State.sstDone s) := by
  unfold State.sstDone
  with_reducible repeat' first
    | assumption | apply State.hldEnter_keeps (h.mono (by decide)) | apply State.dropPend_keeps (h.mono (by decide))
    | apply State.setActive_keeps (h.mono (by decide)) | apply State.finalAll_keeps (h.mono (by decide))
    | apply State.put_keeps (h.mono (by decide))
    | (refine State.setModes_keeps (h.mono (by decide)) (by intro hq; first | exact hq | (simp +zetaDelta [Modes.Shaped] at hq ⊢ <;> simp [hq]; done) | simpa +zetaDelta [Modes.Shaped] using hq) ?_)
    | apply keeps_ite (P := P)
    | (extract_lets +onlyGivenNames x; refine (fun (hx : P x) => ?_) ?_; clear_value x; rotate_left; dsimp -zeta only [x])
    | (extract_lets +onlyGivenNames x) | split | (refine keeps_snd (P := P) ‹_› ?_) | (refine keeps_fst (P := P) ‹_› ?_)

theorem State.restartPermitted_keeps (h : Keep P 33554432) {s : State} (hs : P s) :
    P (State.restartPermitted s) := by
  unfold State.restartPermitted
  with_reducible repeat' first
    | assumption
    | (refine State.setModes_keeps (h.mono (by decide)) (by intro hq; first | exact hq | (simp +zetaDelta [Modes.Shaped] at hq ⊢ <;> simp [hq]; done) | simpa +zetaDelta [Modes.Shaped] using hq) ?_)
    | (extract_lets +onlyGivenNames x)

theorem State.hldExit_keeps (h : Keep P 50331652) {s : State} (hs : P s) :
    P (State.hldExit s) := by
  unfold State.hldExit
  with_reducible repeat' first
    | assumption | (intro _) | apply State.setActive_keeps (h.mono (by decide))
    | apply State.setOwner_keeps (h.mono (by decide)) | apply State.changed_keeps (h.mono (by decide))
    | apply State.put_keeps (h.mono (by decide)) | apply keeps_ite (P := P) | apply keeps_foldl (P := P)
    | (extract_lets +onlyGivenNames x; refine (fun (hx : P x) => ?_) ?_; clear_value x; rotate_left; dsimp -zeta only [x])
    | (extract_lets +onlyGivenNames x)

theorem State.modesLeave_keeps (h : Keep P 117441028) {s : State} {handle : Nat} (hs : P s) :
    P (State.modesLeave s handle) := by
  unfold State.modesLeave
  with_reducible repeat' first
    | assumption | (intro _) | apply State.endInst_keeps (h.mono (by decide))
    | apply State.cancelPend_keeps (h.mono (by decide)) | apply State.setOwner_keeps (h.mono (by decide))
    | apply keeps_ite (P := P) | apply keeps_foldl (P := P)
    | (extract_lets +onlyGivenNames x; refine (fun (hx : P x) => ?_) ?_; clear_value x; rotate_left; dsimp -zeta only [x])
    | (extract_lets +onlyGivenNames x; refine (fun (hx : ∀ s y, P s → P (x s y)) => ?_) ?_; clear_value x; rotate_left; dsimp -zeta only [x])
    | (extract_lets +onlyGivenNames x) | (refine ‹∀ (s : State) (y : _), P s → P _› _ _ ?_)

theorem State.makePend_keeps (h : Keep P 50331652) {s : State} {i : Nat} {why : Nat} {tk : Tok} (hs : P s) :
    P (State.makePend s i why tk) := by
  unfold State.makePend
  with_reducible repeat' first
    | assumption | apply State.setWaiting_keeps (h.mono (by decide)) | apply State.setOwner_keeps (h.mono (by decide))
    | apply State.reply_keeps (h.mono (by decide))
    | (refine State.setModes_keeps (h.mono (by decide)) (by intro hq; first | exact hq | (simp +zetaDelta [Modes.Shaped] at hq ⊢ <;> simp [hq]; done) | simpa +zetaDelta [Modes.Shaped] using hq) ?_)
    | apply keeps_ite (P := P)
    | (extract_lets +onlyGivenNames x; refine (fun (hx : P x) => ?_) ?_; clear_value x; rotate_left; dsimp -zeta only [x])
    | (extract_lets +onlyGivenNames x)

theorem State.joinPend_keeps (h : Keep P 50331648) {s : State} {i : Nat} {tk : Tok} (hs : P s) :
    P (State.joinPend s i tk) := by
  unfold State.joinPend
  with_reducible repeat' first
    | assumption | (intro _) | apply State.reply_keeps (h.mono (by decide))
    | (refine State.setModes_keeps (h.mono (by decide)) (by intro hq; first | exact hq | (simp +zetaDelta [Modes.Shaped] at hq ⊢ <;> simp [hq]; done) | simpa +zetaDelta [Modes.Shaped] using hq) ?_)
    | apply keeps_ite (P := P) | (extract_lets +onlyGivenNames x)

theorem State.reEnter_keeps (h : Keep P 50331648) {s : State} {i : Nat} {tk : Tok} (hs : P s) :
    P (State.reEnter s i tk) := by
  unfold State.reEnter
  with_reducible repeat' first
    | assumption | apply State.joinPend_keeps (h.mono (by decide)) | apply State.setOwner_keeps (h.mono (by decide))
    | apply State.reply_keeps (h.mono (by decide)) | apply keeps_ite (P := P)

theorem State.grantMode_keeps (h : Keep P 117441028) {s : State} {i : Nat} {tk : Tok} (hs : P s) :
    P (State.grantMode s i tk) := by
  unfold State.grantMode
  with_reducible repeat' first
    | assumption | (intro _) | apply State.makePend_keeps (h.mono (by decide)) | apply State.hldEnter_keeps (h.mono (by decide))
    | apply State.endInst_keeps (h.mono (by decide)) | apply State.pendScan_keeps (h.mono (by decide))
    | apply State.enterInst_keeps (h.mono (by decide)) | apply State.cancelPend_keeps (h.mono (by decide))
    | apply State.setOwner_keeps (h.mono (by decide)) | apply State.seqStart_keeps (h.mono (by decide))
    | apply State.reply_keeps (h.mono (by decide)) | apply keeps_ite (P := P) | apply keeps_foldl (P := P)
    | (extract_lets +onlyGivenNames x; refine (fun (hx : P x) => ?_) ?_; clear_value x; rotate_left; dsimp -zeta only [x])
    | (extract_lets +onlyGivenNames x)

theorem State.modeEnter_keeps (h : Keep P 117441028) {s : State} {i : Nat} {tk : Tok} (hs : P s) :
    P (State.modeEnter s i tk) := by
  unfold State.modeEnter
  with_reducible repeat' first
    | assumption | apply State.grantMode_keeps (h.mono (by decide)) | apply State.reEnter_keeps (h.mono (by decide))
    | apply State.joinPend_keeps (h.mono (by decide)) | apply State.makePend_keeps (h.mono (by decide))
    | apply State.refuse_keeps (h.mono (by decide)) | apply State.badParam_keeps (h.mono (by decide))
    | apply State.reply_keeps (h.mono (by decide)) | apply keeps_ite (P := P) | split | (refine keeps_snd (P := P) ‹_› ?_)
    | (refine keeps_fst (P := P) ‹_› ?_)

theorem State.modeExit_keeps (h : Keep P 117441412) {s : State} {i : Nat} {tk : Tok} (hs : P s) :
    P (State.modeExit s i tk) := by
  unfold State.modeExit
  with_reducible repeat' first
    | assumption | apply State.hldExit_keeps (h.mono (by decide)) | apply State.endInst_keeps (h.mono (by decide))
    | apply State.dcdTripClear_keeps (h.mono (by decide)) | apply State.cancelPend_keeps (h.mono (by decide))
    | apply State.setOwner_keeps (h.mono (by decide)) | apply State.refuse_keeps (h.mono (by decide))
    | apply State.badParam_keeps (h.mono (by decide)) | apply State.reply_keeps (h.mono (by decide))
    | (refine State.setModes_keeps (h.mono (by decide)) (by intro hq; first | exact hq | (simp +zetaDelta [Modes.Shaped] at hq ⊢ <;> simp [hq]; done) | simpa +zetaDelta [Modes.Shaped] using hq) ?_)
    | apply keeps_ite (P := P)
    | (extract_lets +onlyGivenNames x; refine (fun (hx : P x) => ?_) ?_; clear_value x; rotate_left; dsimp -zeta only [x])
    | (extract_lets +onlyGivenNames x) | split | (refine keeps_snd (P := P) ‹_› ?_) | (refine keeps_fst (P := P) ‹_› ?_)

end Sys2Proof.Machine
end

