-- ==== Sys2Proof/Laws/KeepAct.lean ====
section
/-! SUPPORT. What the operations of Machine/Act.lean keep (Laws/Keep.lean). -/

namespace Sys2Proof.Machine

variable {P : State → Prop}

theorem State.actPhase_keeps (h : Keep P 83886084) {s : State} {n : Nat} {ph : Nat} (hs : P s) :
    P (State.actPhase s n ph) := by
  unfold State.actPhase
  with_reducible repeat' first
    | assumption | apply State.setAct_keeps (h.mono (by decide)) | apply State.changed_keeps (h.mono (by decide))
    | apply State.put_keeps (h.mono (by decide)) | (extract_lets +onlyGivenNames x)

theorem State.prkResolve_keeps (h : Keep P 50332164) {s : State} (hs : P s) :
    P (State.prkResolve s) := by
  unfold State.prkResolve
  with_reducible repeat' first
    | assumption | apply State.activate_keeps (h.mono (by decide)) | apply State.cancelPend_keeps (h.mono (by decide))
    | apply keeps_ite (P := P) | split | (refine keeps_snd (P := P) ‹_› ?_) | (refine keeps_fst (P := P) ‹_› ?_)

theorem State.actLast_keeps (h : Keep P 117441028) {s : State} {bad : Bool} (hs : P s) :
    P (State.actLast s bad) := by
  unfold State.actLast
  with_reducible repeat' first
    | assumption | apply State.endInst_keeps (h.mono (by decide)) | apply State.finalAll_keeps (h.mono (by decide))
    | (refine State.setModes_keeps (h.mono (by decide)) (by intro hq; first | exact hq | (simp +zetaDelta [Modes.Shaped] at hq ⊢ <;> simp [hq]; done) | simpa +zetaDelta [Modes.Shaped] using hq) ?_)
    | apply keeps_ite (P := P)
    | (extract_lets +onlyGivenNames x; refine (fun (hx : P x) => ?_) ?_; clear_value x; rotate_left; dsimp -zeta only [x])
    | (extract_lets +onlyGivenNames x)

theorem State.actEnd_keeps (h : Keep P 117441028) {s : State} {n : Nat} {result : Nat} (hs : P s) :
    P (State.actEnd s n result) := by
  unfold State.actEnd
  with_reducible repeat' first
    | assumption | (intro _) | apply State.actLast_keeps (h.mono (by decide))
    | apply State.prkResolve_keeps (h.mono (by decide)) | apply State.changed_keeps (h.mono (by decide))
    | apply State.pwmStop_keeps (h.mono (by decide)) | apply State.put_keeps (h.mono (by decide))
    | (refine State.setModes_keeps (h.mono (by decide)) (by intro hq; first | exact hq | (simp +zetaDelta [Modes.Shaped] at hq ⊢ <;> simp [hq]; done) | simpa +zetaDelta [Modes.Shaped] using hq) ?_)
    | apply keeps_ite (P := P) | apply keeps_foldl (P := P)
    | (extract_lets +onlyGivenNames x; refine (fun (hx : P x) => ?_) ?_; clear_value x; rotate_left; dsimp -zeta only [x])
    | (extract_lets +onlyGivenNames x)

theorem State.actPrecheckEnd_keeps (h : Keep P 83886084) {s : State} {n : Nat} (hs : P s) :
    P (State.actPrecheckEnd s n) := by
  unfold State.actPrecheckEnd
  with_reducible repeat' first
    | assumption | apply State.actPhase_keeps (h.mono (by decide)) | apply keeps_ite (P := P)

theorem execActPrecheckEnd_keeps (h : Keep P 83886084) {n : Fin 3} {s : State} (hs : P s) :
    Answers P (execActPrecheckEnd n s) := by
  unfold execActPrecheckEnd
  refine ⟨_, rfl, ?_⟩
  with_reducible repeat' first
    | assumption | apply State.actPrecheckEnd_keeps (h.mono (by decide))

theorem State.actDwellEnd_keeps (h : Keep P 83886084) {s : State} {n : Nat} (hs : P s) :
    P (State.actDwellEnd s n) := by
  unfold State.actDwellEnd
  with_reducible repeat' first
    | assumption | apply State.actPhase_keeps (h.mono (by decide)) | apply keeps_ite (P := P)

theorem execActDwellEnd_keeps (h : Keep P 83886084) {n : Fin 3} {s : State} (hs : P s) :
    Answers P (execActDwellEnd n s) := by
  unfold execActDwellEnd
  refine ⟨_, rfl, ?_⟩
  with_reducible repeat' first
    | assumption | apply State.actDwellEnd_keeps (h.mono (by decide))

theorem State.actRelaxEnd_keeps (h : Keep P 117441028) {s : State} {n : Nat} (hs : P s) :
    P (State.actRelaxEnd s n) := by
  unfold State.actRelaxEnd
  with_reducible repeat' first
    | assumption | apply State.actEnd_keeps (h.mono (by decide)) | apply keeps_ite (P := P)

theorem execActRelaxEnd_keeps (h : Keep P 117441028) {n : Fin 3} {s : State} (hs : P s) :
    Answers P (execActRelaxEnd n s) := by
  unfold execActRelaxEnd
  refine ⟨_, rfl, ?_⟩
  with_reducible repeat' first
    | assumption | apply State.actRelaxEnd_keeps (h.mono (by decide))

theorem State.actTimeout_keeps (h : Keep P 117441028) {s : State} {n : Nat} (hs : P s) :
    P (State.actTimeout s n) := by
  unfold State.actTimeout
  with_reducible repeat' first
    | assumption | apply State.actEnd_keeps (h.mono (by decide)) | apply keeps_ite (P := P)

theorem execActSeqTimeout_keeps (h : Keep P 117441028) {n : Fin 3} {s : State} (hs : P s) :
    Answers P (execActSeqTimeout n s) := by
  unfold execActSeqTimeout
  refine ⟨_, rfl, ?_⟩
  with_reducible repeat' first
    | assumption | apply State.actTimeout_keeps (h.mono (by decide))

theorem State.actStall_keeps (h : Keep P 117441028) {s : State} {n : Nat} (hs : P s) :
    P (State.actStall s n) := by
  unfold State.actStall
  with_reducible repeat' first
    | assumption | apply State.actEnd_keeps (h.mono (by decide)) | apply State.changed_keeps (h.mono (by decide))
    | apply State.put_keeps (h.mono (by decide)) | apply keeps_ite (P := P)

theorem execActStall_keeps (h : Keep P 117441028) {n : Fin 3} {s : State} (hs : P s) :
    Answers P (execActStall n s) := by
  unfold execActStall
  refine ⟨_, rfl, ?_⟩
  with_reducible repeat' first
    | assumption | apply State.actStall_keeps (h.mono (by decide))

theorem execActBusuv_keeps (h : Keep P 117441028) {n : Fin 3} {v : Nat} {held : Nat} {s : State} (hs : P s) :
    Answers P (execActBusuv n v held s) := by
  unfold execActBusuv
  refine ⟨_, rfl, ?_⟩
  with_reducible repeat' first
    | assumption | apply State.actEnd_keeps (h.mono (by decide)) | apply keeps_ite (P := P)

theorem State.actScan_keeps (h : Keep P 117441028) {s : State} {n : Nat} (hs : P s) :
    P (State.actScan s n) := by
  unfold State.actScan
  with_reducible repeat' first
    | assumption | apply State.actTimeout_keeps (h.mono (by decide)) | apply State.actRelaxEnd_keeps (h.mono (by decide))
    | apply State.actDwellEnd_keeps (h.mono (by decide)) | apply State.actPrecheckEnd_keeps (h.mono (by decide))
    | apply State.actEnd_keeps (h.mono (by decide)) | apply State.actPhase_keeps (h.mono (by decide))
    | apply State.setAct_keeps (h.mono (by decide)) | apply State.changed_keeps (h.mono (by decide))
    | apply State.put_keeps (h.mono (by decide)) | apply keeps_ite (P := P)
    | (extract_lets +onlyGivenNames x; refine (fun (hx : P x) => ?_) ?_; clear_value x; rotate_left; dsimp -zeta only [x])
    | (extract_lets +onlyGivenNames x)

theorem State.actPeriod_keeps (h : Keep P 117441028) {s : State} {n : Nat} {tripped : Bool} (hs : P s) :
    P (State.actPeriod s n tripped) := by
  unfold State.actPeriod
  with_reducible repeat' first
    | assumption | (intro _) | apply State.actEnd_keeps (h.mono (by decide)) | apply State.setAct_keeps (h.mono (by decide))
    | apply keeps_ite (P := P)
    | (extract_lets +onlyGivenNames x; refine (fun (hx : P x) => ?_) ?_; clear_value x; rotate_left; dsimp -zeta only [x])
    | (extract_lets +onlyGivenNames x)

theorem State.pwmPeriodEnd_keeps (h : Keep P 117506948) {s : State} {k : Nat} (hs : P s) :
    P (State.pwmPeriodEnd s k) := by
  unfold State.pwmPeriodEnd
  with_reducible repeat' first
    | assumption | (intro _) | apply State.actPeriod_keeps (h.mono (by decide)) | apply State.setAct_keeps (h.mono (by decide))
    | apply State.pwmZeroBoundary_keeps (h.mono (by decide)) | apply keeps_ite (P := P)
    | (extract_lets +onlyGivenNames x; refine (fun (hx : P x) => ?_) ?_; clear_value x; rotate_left; dsimp -zeta only [x])
    | (extract_lets +onlyGivenNames x)

theorem execPwmZeroBoundary_keeps (h : Keep P 117506948) {k : Fin 32} {s : State} (hs : P s) :
    Answers P (execPwmZeroBoundary k s) := by
  unfold execPwmZeroBoundary
  refine ⟨_, rfl, ?_⟩
  with_reducible repeat' first
    | assumption | apply State.pwmPeriodEnd_keeps (h.mono (by decide))

theorem State.dcdStart_keeps (h : Keep P 772) {s : State} {mask : Word} (hs : P s) :
    P (State.dcdStart s mask) := by
  unfold State.dcdStart
  with_reducible repeat' first
    | assumption | (intro _) | apply State.pwmEach_keeps (h.mono (by decide)) | apply State.pwmStart_keeps (h.mono (by decide))
    | (extract_lets +onlyGivenNames x; refine (fun (hx : P x) => ?_) ?_; clear_value x; rotate_left; dsimp -zeta only [x])

theorem State.dcdRectify_keeps (h : Keep P 772) {s : State} (hs : P s) :
    P (State.dcdRectify s) := by
  unfold State.dcdRectify
  with_reducible repeat' first
    | assumption | (intro _) | apply State.dcdStart_keeps (h.mono (by decide)) | apply State.pwmStop_keeps (h.mono (by decide))
    | apply State.pwmOwned_keeps (h.mono (by decide)) | apply keeps_ite (P := P) | apply keeps_foldl (P := P)
    | (extract_lets +onlyGivenNames x; refine (fun (hx : P x) => ?_) ?_; clear_value x; rotate_left; dsimp -zeta only [x])
    | (extract_lets +onlyGivenNames x)

theorem State.dcdMeasure_keeps (h : Keep P 33555220) {s : State} (hs : P s) :
    P (State.dcdMeasure s) := by
  unfold State.dcdMeasure
  with_reducible repeat' first
    | assumption | apply State.dcdRectify_keeps (h.mono (by decide)) | apply State.useFree_keeps (h.mono (by decide))
    | (refine State.setModes_keeps (h.mono (by decide)) (by intro hq; first | exact hq | (simp +zetaDelta [Modes.Shaped] at hq ⊢ <;> simp [hq]; done) | simpa +zetaDelta [Modes.Shaped] using hq) ?_)
    | apply keeps_ite (P := P) | (extract_lets +onlyGivenNames x)

theorem State.dcdSoftStart_keeps (h : Keep P 33555204) {s : State} {held : Bool} (hs : P s) :
    P (State.dcdSoftStart s held) := by
  unfold State.dcdSoftStart
  with_reducible repeat' first
    | assumption | apply State.dcdStart_keeps (h.mono (by decide))
    | (refine State.setModes_keeps (h.mono (by decide)) (by intro hq; first | exact hq | (simp +zetaDelta [Modes.Shaped] at hq ⊢ <;> simp [hq]; done) | simpa +zetaDelta [Modes.Shaped] using hq) ?_)
    | apply keeps_ite (P := P)
    | (extract_lets +onlyGivenNames x; refine (fun (hx : P x) => ?_) ?_; clear_value x; rotate_left; dsimp -zeta only [x])
    | (extract_lets +onlyGivenNames x)

theorem State.dcdScan_keeps (h : Keep P 33555204) {s : State} (hs : P s) :
    P (State.dcdScan s) := by
  unfold State.dcdScan
  with_reducible repeat' first
    | assumption | apply State.dcdSoftStart_keeps (h.mono (by decide)) | apply State.stageOff_keeps (h.mono (by decide))
    | apply State.putB_keeps (h.mono (by decide)) | apply keeps_ite (P := P)
    | (extract_lets +onlyGivenNames x; refine (fun (hx : P x) => ?_) ?_; clear_value x; rotate_left; dsimp -zeta only [x])
    | (extract_lets +onlyGivenNames x)

theorem State.dcdReport_keeps (h : Keep P 20) {s : State} (hs : P s) :
    P (State.dcdReport s) := by
  unfold State.dcdReport
  with_reducible repeat' first
    | assumption | apply State.useFree_keeps (h.mono (by decide)) | apply State.putB_keeps (h.mono (by decide))
    | apply State.put_keeps (h.mono (by decide))
    | (extract_lets +onlyGivenNames x; refine (fun (hx : P x) => ?_) ?_; clear_value x; rotate_left; dsimp -zeta only [x])
    | (extract_lets +onlyGivenNames x)

theorem State.driveScan_keeps (h : Keep P 117441300) {s : State} (hs : P s) :
    P (State.driveScan s) := by
  unfold State.driveScan
  with_reducible repeat' first
    | assumption | (intro _) | apply State.dcdReport_keeps (h.mono (by decide)) | apply State.dcdScan_keeps (h.mono (by decide))
    | apply State.actScan_keeps (h.mono (by decide)) | apply keeps_ite (P := P) | apply keeps_foldl (P := P)
    | (extract_lets +onlyGivenNames x; refine (fun (hx : P x) => ?_) ?_; clear_value x; rotate_left; dsimp -zeta only [x])
    | (extract_lets +onlyGivenNames x)

end Sys2Proof.Machine
end

