-- ==== Sys2Proof/Laws/KeepGateOps.lean ====
section
/-! SUPPORT. What the operations of Machine/GateOps.lean keep (Laws/Keep.lean). -/

namespace Sys2Proof.Machine

variable {P : State → Prop}

theorem State.setGate_keeps (h : Keep P 2097152) {s : State} {g : Nat} {c : GateCh} (hs : P s) :
    P (State.setGate s g c) := by
  unfold State.setGate
  with_reducible repeat' first
    | assumption
    | (refine State.setGates_keeps (h.mono (by decide)) (by intro hq; first | exact hq | (simp +zetaDelta at hq ⊢ <;> simp [hq]; done) | simpa +zetaDelta using hq) ?_)

theorem State.setScg_keeps (h : Keep P 4194304) {s : State} {n : Nat} {c : Scg} (hs : P s) :
    P (State.setScg s n c) := by
  unfold State.setScg
  with_reducible repeat' first
    | assumption
    | (refine State.setScgs_keeps (h.mono (by decide)) (by intro hq; first | exact hq | (simp +zetaDelta at hq ⊢ <;> simp [hq]; done) | simpa +zetaDelta using hq) ?_)

theorem State.takeProfile_keeps (h : Keep P 2097156) {s : State} {g : Nat} {on : Bool} (hs : P s) :
    P (State.takeProfile s g on) := by
  unfold State.takeProfile
  with_reducible repeat' first
    | assumption | (intro _) | apply State.setGate_keeps (h.mono (by decide)) | apply State.put_keeps (h.mono (by decide))
    | apply State.wr_keeps (h.mono (by decide)) | apply keeps_ite (P := P)
    | (extract_lets +onlyGivenNames x; refine (fun (hx : P x) => ?_) ?_; clear_value x; rotate_left; dsimp -zeta only [x])
    | (extract_lets +onlyGivenNames x; refine (fun (hx : P x.1) => ?_) ?_; clear_value x; rotate_left; dsimp -zeta only [x])
    | (extract_lets +onlyGivenNames x; refine (fun (hx : P x.2) => ?_) ?_; clear_value x; rotate_left; dsimp -zeta only [x])
    | (extract_lets +onlyGivenNames x) | split | (refine keeps_snd (P := P) ‹_› ?_) | (refine keeps_fst (P := P) ‹_› ?_)

theorem State.setPhase_keeps (h : Keep P 2097152) {s : State} {g : Nat} {p : Nat} (hs : P s) :
    P (State.setPhase s g p) := by
  unfold State.setPhase
  with_reducible repeat' first
    | assumption | apply State.setGate_keeps (h.mono (by decide))
    | (extract_lets +onlyGivenNames x; refine (fun (hx : P x) => ?_) ?_; clear_value x; rotate_left; dsimp -zeta only [x])
    | (extract_lets +onlyGivenNames x)

theorem State.edgeInvalid_keeps (h : Keep P 20) {s : State} {g : Nat} {on : Bool} {n : Nat} {cause : Nat} (hs : P s) :
    P (State.edgeInvalid s g on n cause) := by
  unfold State.edgeInvalid
  with_reducible repeat' first
    | assumption | apply State.useFree_keeps (h.mono (by decide)) | apply State.inc_keeps (h.mono (by decide))
    | apply State.wr_keeps (h.mono (by decide))
    | (extract_lets +onlyGivenNames x; refine (fun (hx : P x) => ?_) ?_; clear_value x; rotate_left; dsimp -zeta only [x])
    | (extract_lets +onlyGivenNames x)

theorem State.edgeAbandon_keeps (h : Keep P 2097172) {s : State} {g : Nat} {on : Bool} (hs : P s) :
    P (State.edgeAbandon s g on) := by
  unfold State.edgeAbandon
  with_reducible repeat' first
    | assumption | apply State.edgeInvalid_keeps (h.mono (by decide)) | apply State.setGate_keeps (h.mono (by decide))
    | apply keeps_ite (P := P)
    | (extract_lets +onlyGivenNames x; refine (fun (hx : P x) => ?_) ?_; clear_value x; rotate_left; dsimp -zeta only [x])
    | (extract_lets +onlyGivenNames x)

theorem State.edgeSpoil_keeps (h : Keep P 2097152) {s : State} {g : Nat} (hs : P s) :
    P (State.edgeSpoil s g) := by
  unfold State.edgeSpoil
  with_reducible repeat' first
    | assumption | apply State.setGate_keeps (h.mono (by decide))
    | (extract_lets +onlyGivenNames x; refine (fun (hx : P x) => ?_) ?_; clear_value x; rotate_left; dsimp -zeta only [x])
    | (extract_lets +onlyGivenNames x) | split | (refine keeps_snd (P := P) ‹_› ?_) | (refine keeps_fst (P := P) ‹_› ?_)

theorem State.storeLevel_keeps (h : Keep P 2097156) {s : State} {g : Nat} {on : Bool} {level : Nat} (hs : P s) :
    P (State.storeLevel s g on level) := by
  unfold State.storeLevel
  with_reducible repeat' first
    | assumption | apply State.setGate_keeps (h.mono (by decide)) | apply State.put_keeps (h.mono (by decide))
    | apply keeps_ite (P := P)
    | (extract_lets +onlyGivenNames x; refine (fun (hx : P x) => ?_) ?_; clear_value x; rotate_left; dsimp -zeta only [x])
    | (extract_lets +onlyGivenNames x)

theorem State.edgeStart_keeps (h : Keep P 2097172) {s : State} {g : Nat} {on : Bool} {level : Nat} (hs : P s) :
    P (State.edgeStart s g on level) := by
  unfold State.edgeStart
  with_reducible repeat' first
    | assumption | apply State.storeLevel_keeps (h.mono (by decide)) | apply State.edgeAbandon_keeps (h.mono (by decide))
    | apply State.setPhase_keeps (h.mono (by decide)) | apply State.takeProfile_keeps (h.mono (by decide))
    | apply State.setGate_keeps (h.mono (by decide)) | apply State.putB_keeps (h.mono (by decide))
    | apply State.put_keeps (h.mono (by decide)) | apply keeps_ite (P := P)
    | (extract_lets +onlyGivenNames x; refine (fun (hx : P x) => ?_) ?_; clear_value x; rotate_left; dsimp -zeta only [x])
    | (extract_lets +onlyGivenNames x)

theorem State.driveIso_keeps (h : Keep P 2097172) {s : State} {g : Nat} {rx : Bool} {level : Nat} (hs : P s) :
    P (State.driveIso s g rx level) := by
  unfold State.driveIso
  with_reducible repeat' first
    | assumption | apply State.edgeStart_keeps (h.mono (by decide)) | apply keeps_ite (P := P)

theorem State.driveHigh_keeps (h : Keep P 2097156) {s : State} {g : Nat} {rx : Bool} (hs : P s) :
    P (State.driveHigh s g rx) := by
  unfold State.driveHigh
  with_reducible repeat' first
    | assumption | apply State.setGate_keeps (h.mono (by decide)) | apply State.put_keeps (h.mono (by decide))
    | apply keeps_ite (P := P)
    | (extract_lets +onlyGivenNames x; refine (fun (hx : P x) => ?_) ?_; clear_value x; rotate_left; dsimp -zeta only [x])
    | (extract_lets +onlyGivenNames x)

theorem State.driveLow_keeps (h : Keep P 4) {s : State} {g : Nat} {rx : Bool} (hs : P s) :
    P (State.driveLow s g rx) := by
  unfold State.driveLow
  with_reducible repeat' first
    | assumption | apply State.putB_keeps (h.mono (by decide))
    | (extract_lets +onlyGivenNames x; refine (fun (hx : P x) => ?_) ?_; clear_value x; rotate_left; dsimp -zeta only [x])
    | (extract_lets +onlyGivenNames x)

theorem State.gateFollow_keeps (h : Keep P 2097172) {s : State} {g : Nat} {level : Nat} (hs : P s) :
    P (State.gateFollow s g level) := by
  unfold State.gateFollow
  with_reducible repeat' first
    | assumption | apply State.driveLow_keeps (h.mono (by decide)) | apply State.driveHigh_keeps (h.mono (by decide))
    | apply State.driveIso_keeps (h.mono (by decide)) | apply State.edgeSpoil_keeps (h.mono (by decide))
    | apply State.setGate_keeps (h.mono (by decide)) | apply State.putB_keeps (h.mono (by decide))
    | apply State.put_keeps (h.mono (by decide)) | apply keeps_ite (P := P)
    | (extract_lets +onlyGivenNames x; refine (fun (hx : P x) => ?_) ?_; clear_value x; rotate_left; dsimp -zeta only [x])
    | (extract_lets +onlyGivenNames x)

theorem State.gatesFollow_keeps (h : Keep P 2097172) {s : State} (hs : P s) :
    P (State.gatesFollow s) := by
  unfold State.gatesFollow
  with_reducible repeat' first
    | assumption | (intro _) | apply State.gateFollow_keeps (h.mono (by decide))
    | apply State.useFree_keeps (h.mono (by decide)) | apply keeps_foldl (P := P)
    | (extract_lets +onlyGivenNames x; refine (fun (hx : P x) => ?_) ?_; clear_value x; rotate_left; dsimp -zeta only [x])

theorem State.ilkRefuse_keeps (h : Keep P 2097284) {s : State} {g : Nat} (hs : P s) :
    P (State.ilkRefuse s g) := by
  unfold State.ilkRefuse
  with_reducible repeat' first
    | assumption | apply State.setGate_keeps (h.mono (by decide)) | apply State.log_keeps (h.mono (by decide))
    | apply State.inc_keeps (h.mono (by decide)) | apply State.put_keeps (h.mono (by decide))
    | (extract_lets +onlyGivenNames x; refine (fun (hx : P x) => ?_) ?_; clear_value x; rotate_left; dsimp -zeta only [x])
    | (extract_lets +onlyGivenNames x)

theorem State.gateOn_keeps (h : Keep P 2097300) {s : State} {g : Nat} {near : Bool} {level : Nat} (hs : P s) :
    P (State.gateOn s g near level) := by
  unfold State.gateOn
  with_reducible repeat' first
    | assumption | apply State.ilkRefuse_keeps (h.mono (by decide)) | apply State.gateFollow_keeps (h.mono (by decide))
    | apply State.setGate_keeps (h.mono (by decide)) | apply State.put_keeps (h.mono (by decide)) | apply keeps_ite (P := P)
    | (extract_lets +onlyGivenNames x; refine (fun (hx : P x) => ?_) ?_; clear_value x; rotate_left; dsimp -zeta only [x])
    | (extract_lets +onlyGivenNames x)

theorem State.gateCommand_keeps (h : Keep P 2097300) {s : State} {g : Nat} {short : Bool} {near : Bool} {level : Nat} (hs : P s) :
    P (State.gateCommand s g short near level) := by
  unfold State.gateCommand
  with_reducible repeat' first
    | assumption | apply State.gateOn_keeps (h.mono (by decide)) | apply State.gateFollow_keeps (h.mono (by decide))
    | apply State.setGate_keeps (h.mono (by decide)) | apply State.put_keeps (h.mono (by decide)) | apply keeps_ite (P := P)
    | (extract_lets +onlyGivenNames x; refine (fun (hx : P x) => ?_) ?_; clear_value x; rotate_left; dsimp -zeta only [x])
    | (extract_lets +onlyGivenNames x) | split | (refine keeps_snd (P := P) ‹_› ?_) | (refine keeps_fst (P := P) ‹_› ?_)

theorem State.gateDue_keeps (h : Keep P 2097300) {s : State} {g : Nat} (hs : P s) :
    P (State.gateDue s g) := by
  unfold State.gateDue
  with_reducible repeat' first
    | assumption | apply State.gateCommand_keeps (h.mono (by decide)) | apply State.gateOn_keeps (h.mono (by decide))
    | apply State.setGate_keeps (h.mono (by decide)) | apply State.useFree_keeps (h.mono (by decide)) | apply keeps_ite (P := P)
    | (extract_lets +onlyGivenNames x; refine (fun (hx : P x) => ?_) ?_; clear_value x; rotate_left; dsimp -zeta only [x])
    | (extract_lets +onlyGivenNames x) | split | (refine keeps_snd (P := P) ‹_› ?_) | (refine keeps_fst (P := P) ‹_› ?_)

theorem State.ginPass_keeps (h : Keep P 2097300) {s : State} {g : Nat} {short : Bool} {level : Nat} (hs : P s) :
    P (State.ginPass s g short level) := by
  unfold State.ginPass
  with_reducible repeat' first
    | assumption | apply State.gateCommand_keeps (h.mono (by decide)) | apply State.setGate_keeps (h.mono (by decide))
    | apply keeps_ite (P := P)
    | (extract_lets +onlyGivenNames x; refine (fun (hx : P x) => ?_) ?_; clear_value x; rotate_left; dsimp -zeta only [x])
    | (extract_lets +onlyGivenNames x)

theorem State.scgSides_keeps (h : Keep P 4) {s : State} {n : Nat} (hs : P s) :
    P (State.scgSides s n) := by
  unfold State.scgSides
  with_reducible repeat' first
    | assumption | apply State.putB_keeps (h.mono (by decide))

theorem State.scgLines_keeps (h : Keep P 2229140) {s : State} {n : Nat} (hs : P s) :
    P (State.scgLines s n) := by
  unfold State.scgLines
  with_reducible repeat' first
    | assumption | apply State.gatesFollow_keeps (h.mono (by decide)) | apply State.tripScan_keeps (h.mono (by decide))
    | apply State.setFox_keeps (h.mono (by decide)) | apply keeps_ite (P := P)
    | (extract_lets +onlyGivenNames x; refine (fun (hx : P x) => ?_) ?_; clear_value x; rotate_left; dsimp -zeta only [x])
    | (extract_lets +onlyGivenNames x)

theorem State.scgLog_keeps (h : Keep P 132) {s : State} {n : Nat} {index : Nat} {st : Nat} {place : Nat} (hs : P s) :
    P (State.scgLog s n index st place) := by
  unfold State.scgLog
  with_reducible repeat' first
    | assumption | apply State.log_keeps (h.mono (by decide))

theorem State.scgEarlier_keeps (h : Keep P 4194436) {s : State} {n : Nat} {g : Nat} {place : Nat} (hs : P s) :
    P (State.scgEarlier s n g place) := by
  unfold State.scgEarlier
  with_reducible repeat' first
    | assumption | (intro _) | apply State.setScg_keeps (h.mono (by decide)) | apply State.put_keeps (h.mono (by decide))
    | (refine State.setEvl_keeps (h.mono (by decide)) (by intro hq; first | exact hq | (simp [State.reset]; done) | simpa using hq) ?_)
    | apply keeps_ite (P := P)
    | (extract_lets +onlyGivenNames x; refine (fun (hx : P x) => ?_) ?_; clear_value x; rotate_left; dsimp -zeta only [x])
    | (extract_lets +onlyGivenNames x) | split

theorem State.scgEval_keeps (h : Keep P 6423444) {s : State} {n : Nat} {cause : Option (Nat × Nat)} (hs : P s) :
    P (State.scgEval s n cause) := by
  unfold State.scgEval
  with_reducible repeat' first
    | assumption | apply State.scgEarlier_keeps (h.mono (by decide)) | apply State.scgLog_keeps (h.mono (by decide))
    | apply State.scgLines_keeps (h.mono (by decide)) | apply State.scgSides_keeps (h.mono (by decide))
    | apply State.setScg_keeps (h.mono (by decide)) | apply State.putB_keeps (h.mono (by decide))
    | apply State.put_keeps (h.mono (by decide)) | apply keeps_ite (P := P)
    | (extract_lets +onlyGivenNames x; refine (fun (hx : P x) => ?_) ?_; clear_value x; rotate_left; dsimp -zeta only [x])
    | (extract_lets +onlyGivenNames x)

theorem State.scgReact_keeps (h : Keep P 6423444) {s : State} {g : Nat} {level : Nat} {typ : Nat} (hs : P s) :
    P (State.scgReact s g level typ) := by
  unfold State.scgReact
  with_reducible repeat' first
    | assumption | apply State.scgEval_keeps (h.mono (by decide)) | split | (refine keeps_snd (P := P) ‹_› ?_)
    | (refine keeps_fst (P := P) ‹_› ?_)

theorem State.scgAll_keeps (h : Keep P 6423444) {s : State} (hs : P s) :
    P (State.scgAll s) := by
  unfold State.scgAll
  with_reducible repeat' first
    | assumption | (intro _) | apply State.scgEval_keeps (h.mono (by decide)) | apply keeps_foldl (P := P)
    | (extract_lets +onlyGivenNames x; refine (fun (hx : P x) => ?_) ?_; clear_value x; rotate_left; dsimp -zeta only [x])

end Sys2Proof.Machine
end

