-- ==== Sys2Proof/Laws/KeepFlags.lean ====
section
/-! SUPPORT. What the operations of Machine/Flags.lean keep (Laws/Keep.lean). -/

namespace Sys2Proof.Machine

variable {P : State → Prop}

theorem State.fieldWrite_keeps (h : Keep P 4) {s : State} {a : Nat} {v : Word} (hs : P s) :
    P (State.fieldWrite s a v) := by
  unfold State.fieldWrite
  with_reducible repeat' first
    | assumption | apply State.wr_keeps (h.mono (by decide)) | apply keeps_foldl (P := P)
    | (extract_lets +onlyGivenNames x; refine (fun (hx : P x) => ?_) ?_; clear_value x; rotate_left; dsimp -zeta only [x])
    | (extract_lets +onlyGivenNames x) | split | (refine keeps_snd (P := P) ‹_› ?_) | (refine keeps_fst (P := P) ‹_› ?_)

end Sys2Proof.Machine
end

