-- ==== Sys2Proof/Laws/KeepConv.lean ====
section
/-! SUPPORT. What the operations of Machine/Conv.lean keep (Laws/Keep.lean). -/

namespace Sys2Proof.Machine

variable {P : State → Prop}

theorem State.setLane_keeps (h : Keep P 262144) {s : State} {n : Nat} {l : AdLane} (hs : P s) :
    P (State.setLane s n l) := by
  unfold State.setLane
  with_reducible repeat' first
    | assumption
    | (refine State.setConv_keeps (h.mono (by decide)) (by intro hq; first | exact hq | (simp +zetaDelta [Conv.Shaped] at hq ⊢ <;> simp [hq]; done) | simpa +zetaDelta [Conv.Shaped] using hq) ?_)
    | (extract_lets +onlyGivenNames x)

theorem State.setWu_keeps (h : Keep P 262144) {s : State} {u : Nat} {w : WuUnit} (hs : P s) :
    P (State.setWu s u w) := by
  unfold State.setWu
  with_reducible repeat' first
    | assumption
    | (refine State.setConv_keeps (h.mono (by decide)) (by intro hq; first | exact hq | (simp +zetaDelta [Conv.Shaped] at hq ⊢ <;> simp [hq]; done) | simpa +zetaDelta [Conv.Shaped] using hq) ?_)
    | (extract_lets +onlyGivenNames x)

theorem State.wuLimit_keeps (h : Keep P 388) {s : State} {u : Nat} {w : WuWin} {data : List Byte} (hs : P s) :
    P (State.wuLimit s u w data) := by
  unfold State.wuLimit
  with_reducible repeat' first
    | assumption | apply State.log_keeps (h.mono (by decide)) | apply State.irqIf_keeps (h.mono (by decide))
    | apply State.inc_keeps (h.mono (by decide))
    | (extract_lets +onlyGivenNames x; refine (fun (hx : P x) => ?_) ?_; clear_value x; rotate_left; dsimp -zeta only [x])
    | (extract_lets +onlyGivenNames x)

theorem State.wuWord_keeps (h : Keep P 388) {s : State} {u : Nat} {w : WuWin} {n : Nat} {slot : Nat} {tag : Nat} {code : Nat} {ovr : Bool} (hs : P s) :
    P (State.wuWord s u w n slot tag code ovr).1 := by
  unfold State.wuWord
  with_reducible repeat' first
    | assumption | (intro _) | apply State.wuLimit_keeps (h.mono (by decide)) | apply keeps_ite (P := P)
    | apply keeps_iteSnd (P := P) | apply keeps_iteFst (P := P) | apply keeps_foldl (P := P) | apply keeps_foldlPair (P := P)
    | (extract_lets +onlyGivenNames x; refine (fun (hx : P x) => ?_) ?_; clear_value x; rotate_left; dsimp -zeta only [x])
    | (extract_lets +onlyGivenNames x; refine (fun (hx : ∀ s, P s → P (x s)) => ?_) ?_; clear_value x; rotate_left; dsimp -zeta only [x])
    | (extract_lets +onlyGivenNames x; refine (fun (hx : ∀ s y, P s → P (x s y)) => ?_) ?_; clear_value x; rotate_left; dsimp -zeta only [x])
    | (extract_lets +onlyGivenNames x; refine (fun (hx : P x.1) => ?_) ?_; clear_value x; rotate_left; dsimp -zeta only [x])
    | (extract_lets +onlyGivenNames x; refine (fun (hx : P x.2) => ?_) ?_; clear_value x; rotate_left; dsimp -zeta only [x])
    | (extract_lets +onlyGivenNames x; refine (fun (hx : ∀ y, P (x y)) => ?_) ?_; clear_value x; rotate_left; dsimp -zeta only [x])
    | (extract_lets +onlyGivenNames x) | (exact ‹∀ y : _, P _› _) | (refine ‹∀ s : State, P s → P _› _ ?_)
    | (refine ‹∀ (s : State) (y : _), P s → P _› _ _ ?_) | (dsimp -zeta only) | split | (refine keeps_snd (P := P) ‹_› ?_)
    | (refine keeps_fst (P := P) ‹_› ?_)

theorem State.wuWords_keeps (h : Keep P 388) {s : State} {u : Nat} {n : Nat} {slot : Nat} {tag : Nat} {code : Nat} {ovr : Bool} {x7 : List WuWin} (hs : P s) :
    P (State.wuWords s u n slot tag code ovr x7).1 := by
  induction x7 generalizing s u n slot tag code ovr with
  | nil =>
    unfold State.wuWords
    with_reducible repeat' first
      | (with_reducible apply ih) | with_reducible assumption | with_reducible apply State.wuWord_keeps (h.mono (by decide)) | (extract_lets +onlyGivenNames x) | split | (refine keeps_snd (P := P) ‹_› ?_) | (refine keeps_fst (P := P) ‹_› ?_)
  | cons hd tl ih =>
    unfold State.wuWords
    with_reducible repeat' first
      | (with_reducible apply ih) | with_reducible assumption | with_reducible apply State.wuWord_keeps (h.mono (by decide)) | (extract_lets +onlyGivenNames x) | split | (refine keeps_snd (P := P) ‹_› ?_) | (refine keeps_fst (P := P) ‹_› ?_)


theorem State.wuFeed_keeps (h : Keep P 262532) {s : State} {n : Nat} {slot : Nat} {tag : Nat} {code : Nat} {ovr : Bool} {u : Nat} (hs : P s) :
    P (State.wuFeed s n slot tag code ovr u) := by
  unfold State.wuFeed
  with_reducible repeat' first
    | assumption | apply State.wuWords_keeps (h.mono (by decide)) | apply State.wuWord_keeps (h.mono (by decide))
    | apply State.setWu_keeps (h.mono (by decide))
    | (extract_lets +onlyGivenNames x; refine (fun (hx : P x) => ?_) ?_; clear_value x; rotate_left; dsimp -zeta only [x])
    | (extract_lets +onlyGivenNames x) | split | (refine keeps_snd (P := P) ‹_› ?_) | (refine keeps_fst (P := P) ‹_› ?_)

theorem State.setCap_keeps (h : Keep P 262144) {s : State} {n : Nat} {l : List Word} (hs : P s) :
    P (State.setCap s n l) := by
  unfold State.setCap
  with_reducible repeat' first
    | assumption
    | (refine State.setConv_keeps (h.mono (by decide)) (by intro hq; first | exact hq | (simp +zetaDelta [Conv.Shaped] at hq ⊢ <;> simp [hq]; done) | simpa +zetaDelta [Conv.Shaped] using hq) ?_)
    | (extract_lets +onlyGivenNames x)

theorem State.capWord_keeps (h : Keep P 262148) {s : State} {nn : Nat} {slot : Nat} {tag : Nat} {w : Word} {n : Nat} (hs : P s) :
    P (State.capWord s nn slot tag w n) := by
  unfold State.capWord
  with_reducible repeat' first
    | assumption | apply State.setCap_keeps (h.mono (by decide)) | apply State.wrapInc_keeps (h.mono (by decide))
    | apply State.put_keeps (h.mono (by decide)) | apply keeps_ite (P := P)
    | (extract_lets +onlyGivenNames x; refine (fun (hx : P x) => ?_) ?_; clear_value x; rotate_left; dsimp -zeta only [x])
    | (extract_lets +onlyGivenNames x)

theorem State.adEvent_keeps (h : Keep P 388) {s : State} {nn : Nat} {typ : Nat} (hs : P s) :
    P (State.adEvent s nn typ) := by
  unfold State.adEvent
  with_reducible repeat' first
    | assumption | apply State.log_keeps (h.mono (by decide)) | apply State.irqIf_keeps (h.mono (by decide))

theorem State.resWord_keeps (h : Keep P 134217728) {s : State} {nn : Nat} {slot : Nat} {code : Nat} {ovr : Bool} {n : Nat} (hs : P s) :
    P (State.resWord s nn slot code ovr n) := by
  unfold State.resWord
  with_reducible repeat' first
    | assumption
    | (refine State.setPosBlk_keeps (h.mono (by decide)) (by intro hq; first | exact hq | (simp +zetaDelta [PosBlk.Shaped, PosBlk.idle] at hq ⊢ <;> simp [hq]; done) | simpa +zetaDelta [PosBlk.Shaped, PosBlk.idle] using hq) ?_)
    | apply keeps_ite (P := P)
    | (extract_lets +onlyGivenNames x; refine (fun (hx : P x) => ?_) ?_; clear_value x; rotate_left; dsimp -zeta only [x])
    | (extract_lets +onlyGivenNames x)

theorem State.deliver_keeps (h : Keep P 134480260) {s : State} {nn : Nat} {slot : Nat} {t : Nat} {tag : Nat} {word : Nat} (hs : P s) :
    P (State.deliver s nn slot t tag word) := by
  unfold State.deliver
  with_reducible repeat' first
    | assumption | (intro _) | apply State.resWord_keeps (h.mono (by decide)) | apply State.adEvent_keeps (h.mono (by decide))
    | apply State.capWord_keeps (h.mono (by decide)) | apply State.wuFeed_keeps (h.mono (by decide))
    | apply State.put_keeps (h.mono (by decide))
    | (refine State.setConv_keeps (h.mono (by decide)) (by intro hq; first | exact hq | (simp +zetaDelta [Conv.Shaped] at hq ⊢ <;> simp [hq]; done) | simpa +zetaDelta [Conv.Shaped] using hq) ?_)
    | apply keeps_ite (P := P) | apply keeps_foldl (P := P)
    | (extract_lets +onlyGivenNames x; refine (fun (hx : P x) => ?_) ?_; clear_value x; rotate_left; dsimp -zeta only [x])
    | (extract_lets +onlyGivenNames x)

theorem State.wordTaken_keeps (h : Keep P 134480260) {s : State} {nn : Nat} {t : Nat} {tag : Nat} {word : Nat} (hs : P s) :
    P (State.wordTaken s nn t tag word) := by
  unfold State.wordTaken
  with_reducible repeat' first
    | assumption | apply State.deliver_keeps (h.mono (by decide)) | apply State.adEvent_keeps (h.mono (by decide))
    | apply State.setLane_keeps (h.mono (by decide)) | apply State.inc_keeps (h.mono (by decide))
    | apply State.putB_keeps (h.mono (by decide)) | apply State.put_keeps (h.mono (by decide)) | apply keeps_ite (P := P)
    | (extract_lets +onlyGivenNames x; refine (fun (hx : P x) => ?_) ?_; clear_value x; rotate_left; dsimp -zeta only [x])
    | (extract_lets +onlyGivenNames x; refine (fun (hx : ∀ s, P s → P (x s)) => ?_) ?_; clear_value x; rotate_left; dsimp -zeta only [x])
    | (extract_lets +onlyGivenNames x; refine (fun (hx : ∀ y, P (x y)) => ?_) ?_; clear_value x; rotate_left; dsimp -zeta only [x])
    | (extract_lets +onlyGivenNames x) | (exact ‹∀ y : _, P _› _) | (refine ‹∀ s : State, P s → P _› _ ?_)

theorem State.wordArrival_keeps (h : Keep P 134480260) {s : State} {nn : Nat} {w : LaneWord} (hs : P s) :
    P (State.wordArrival s nn w) := by
  unfold State.wordArrival
  with_reducible repeat' first
    | assumption | apply State.wordTaken_keeps (h.mono (by decide)) | apply State.setLane_keeps (h.mono (by decide))
    | (extract_lets +onlyGivenNames x) | split | (refine keeps_snd (P := P) ‹_› ?_) | (refine keeps_fst (P := P) ‹_› ?_)

theorem execWordArrival_keeps (h : Keep P 134480260) {nn : Fin 24} {w : LaneWord} {s : State} (hs : P s) :
    Answers P (execWordArrival nn w s) := by
  unfold execWordArrival
  refine ⟨_, rfl, ?_⟩
  with_reducible repeat' first
    | assumption | apply State.wordArrival_keeps (h.mono (by decide))

theorem State.converterClock_keeps (h : Keep P 262160) {s : State} (hs : P s) :
    P (State.converterClock s) := by
  unfold State.converterClock
  with_reducible repeat' first
    | assumption | apply State.useFree_keeps (h.mono (by decide))
    | (refine State.setConv_keeps (h.mono (by decide)) (by intro hq; first | exact hq | (simp +zetaDelta [Conv.Shaped, State.useFree] at hq ⊢ <;> simp [hq]; done) | simpa +zetaDelta [Conv.Shaped, State.useFree] using hq) ?_)
    | apply keeps_ite (P := P)
    | (extract_lets +onlyGivenNames x; refine (fun (hx : P x) => ?_) ?_; clear_value x; rotate_left; dsimp -zeta only [x])
    | (extract_lets +onlyGivenNames x) | split | (refine keeps_snd (P := P) ‹_› ?_) | (refine keeps_fst (P := P) ‹_› ?_)

theorem State.adSeqWrite_keeps (h : Keep P 262148) {s : State} {nn : Nat} {v : Word} (hs : P s) :
    P (State.adSeqWrite s nn v) := by
  unfold State.adSeqWrite
  with_reducible repeat' first
    | assumption | apply State.setLane_keeps (h.mono (by decide)) | apply State.wr_keeps (h.mono (by decide))
    | apply keeps_ite (P := P)
    | (extract_lets +onlyGivenNames x; refine (fun (hx : P x) => ?_) ?_; clear_value x; rotate_left; dsimp -zeta only [x])
    | (extract_lets +onlyGivenNames x)

theorem execAdSeqWrite_keeps (h : Keep P 270340) {ini : Initiator} {nn : Fin 24} {val : Word} {s : State} (hs : P s) :
    Answers P (execAdSeqWrite ini nn val s) := by
  unfold execAdSeqWrite
  refine ⟨_, rfl, ?_⟩
  with_reducible repeat' first
    | assumption | (intro _) | apply State.adSeqWrite_keeps (h.mono (by decide))
    | apply State.busWrite_keeps (h.mono (by decide))
    | (extract_lets +onlyGivenNames x; refine (fun (hx : P x) => ?_) ?_; clear_value x; rotate_left; dsimp -zeta only [x])

theorem State.adSeqApply_keeps (h : Keep P 262148) {s : State} {nn : Nat} (hs : P s) :
    P (State.adSeqApply s nn) := by
  unfold State.adSeqApply
  with_reducible repeat' first
    | assumption | apply State.setLane_keeps (h.mono (by decide)) | apply State.wr_keeps (h.mono (by decide))
    | apply keeps_ite (P := P)
    | (extract_lets +onlyGivenNames x; refine (fun (hx : P x) => ?_) ?_; clear_value x; rotate_left; dsimp -zeta only [x])
    | (extract_lets +onlyGivenNames x) | split | (refine keeps_snd (P := P) ‹_› ?_) | (refine keeps_fst (P := P) ‹_› ?_)

theorem execAdSeqApply_keeps (h : Keep P 262148) {nn : Fin 24} {s : State} (hs : P s) :
    Answers P (execAdSeqApply nn s) := by
  unfold execAdSeqApply
  refine ⟨_, rfl, ?_⟩
  with_reducible repeat' first
    | assumption | apply State.adSeqApply_keeps (h.mono (by decide))

theorem State.adCfgWrite_keeps (h : Keep P 4) {s : State} {nn : Nat} {v : Word} (hs : P s) :
    P (State.adCfgWrite s nn v) := by
  unfold State.adCfgWrite
  with_reducible repeat' first
    | assumption | apply State.fieldWrite_keeps (h.mono (by decide)) | apply keeps_ite (P := P)

theorem State.vdcSrcWrite_keeps (h : Keep P 262148) {s : State} {v : Word} (hs : P s) :
    P (State.vdcSrcWrite s v) := by
  unfold State.vdcSrcWrite
  with_reducible repeat' first
    | assumption | apply State.fieldWrite_keeps (h.mono (by decide)) | apply State.put_keeps (h.mono (by decide))
    | (refine State.setConv_keeps (h.mono (by decide)) (by intro hq; first | exact hq | (simp +zetaDelta [Conv.Shaped] at hq ⊢ <;> simp [hq]; done) | simpa +zetaDelta [Conv.Shaped] using hq) ?_)
    | apply keeps_ite (P := P)
    | (extract_lets +onlyGivenNames x; refine (fun (hx : P x) => ?_) ?_; clear_value x; rotate_left; dsimp -zeta only [x])
    | (extract_lets +onlyGivenNames x)

theorem execAdcClockLoss_keeps (h : Keep P 388) {s : State} (hs : P s) :
    Answers P (execAdcClockLoss s) := by
  unfold execAdcClockLoss
  refine ⟨_, rfl, ?_⟩
  with_reducible repeat' first
    | assumption | (intro _) | apply State.adEvent_keeps (h.mono (by decide)) | apply State.put_keeps (h.mono (by decide))
    | apply keeps_ite (P := P) | apply keeps_foldl (P := P)
    | (extract_lets +onlyGivenNames x; refine (fun (hx : P x) => ?_) ?_; clear_value x; rotate_left; dsimp -zeta only [x])
    | (extract_lets +onlyGivenNames x)

theorem execAdcClockReturn_keeps (h : Keep P 4) {s : State} (hs : P s) :
    Answers P (execAdcClockReturn s) := by
  unfold execAdcClockReturn
  refine ⟨_, rfl, ?_⟩
  with_reducible repeat' first
    | assumption | (intro _) | apply State.putB_keeps (h.mono (by decide)) | apply State.put_keeps (h.mono (by decide))
    | apply keeps_ite (P := P) | apply keeps_foldl (P := P)
    | (extract_lets +onlyGivenNames x; refine (fun (hx : P x) => ?_) ?_; clear_value x; rotate_left; dsimp -zeta only [x])
    | (extract_lets +onlyGivenNames x)

theorem execAdgLock_keeps (h : Keep P 8196) {ini : Initiator} {val : Word} {s : State} (hs : P s) :
    Answers P (execAdgLock ini val s) := by
  unfold execAdgLock
  refine ⟨_, rfl, ?_⟩
  with_reducible repeat' first
    | assumption | (intro _) | apply State.fieldWrite_keeps (h.mono (by decide))
    | apply State.busWrite_keeps (h.mono (by decide)) | apply State.put_keeps (h.mono (by decide)) | apply keeps_ite (P := P)
    | (extract_lets +onlyGivenNames x; refine (fun (hx : P x) => ?_) ?_; clear_value x; rotate_left; dsimp -zeta only [x])
    | (extract_lets +onlyGivenNames x)

theorem State.vdcUpdate_keeps (h : Keep P 262148) {s : State} (hs : P s) :
    P (State.vdcUpdate s) := by
  unfold State.vdcUpdate
  with_reducible repeat' first
    | assumption | (intro _) | apply State.put_keeps (h.mono (by decide))
    | (refine State.setConv_keeps (h.mono (by decide)) (by intro hq; first | exact hq | (simp +zetaDelta [Conv.Shaped] at hq ⊢ <;> simp [hq]; done) | simpa +zetaDelta [Conv.Shaped] using hq) ?_)
    | apply keeps_ite (P := P)
    | (extract_lets +onlyGivenNames x; refine (fun (hx : P x) => ?_) ?_; clear_value x; rotate_left; dsimp -zeta only [x])
    | (extract_lets +onlyGivenNames x; refine (fun (hx : P x.1) => ?_) ?_; clear_value x; rotate_left; dsimp -zeta only [x])
    | (extract_lets +onlyGivenNames x; refine (fun (hx : P x.2) => ?_) ?_; clear_value x; rotate_left; dsimp -zeta only [x])
    | (extract_lets +onlyGivenNames x)

theorem execVdcUpdate_keeps (h : Keep P 262148) {s : State} (hs : P s) :
    Answers P (execVdcUpdate s) := by
  unfold execVdcUpdate
  refine ⟨_, rfl, ?_⟩
  with_reducible repeat' first
    | assumption | apply State.vdcUpdate_keeps (h.mono (by decide))

theorem State.wuArm_keeps (h : Keep P 262148) {s : State} {u : Nat} {openV : Nat} (hs : P s) :
    P (State.wuArm s u openV) := by
  unfold State.wuArm
  with_reducible repeat' first
    | assumption | apply State.setWu_keeps (h.mono (by decide)) | apply State.put_keeps (h.mono (by decide))
    | apply keeps_ite (P := P)
    | (extract_lets +onlyGivenNames x; refine (fun (hx : P x) => ?_) ?_; clear_value x; rotate_left; dsimp -zeta only [x])
    | (extract_lets +onlyGivenNames x)

theorem State.wuComplete_keeps (h : Keep P 262276) {s : State} {u : Nat} {w : WuWin} {c : Nat} (hs : P s) :
    P (State.wuComplete s u w c) := by
  unfold State.wuComplete
  with_reducible repeat' first
    | assumption | apply State.wuArm_keeps (h.mono (by decide)) | apply State.setWu_keeps (h.mono (by decide))
    | apply State.log_keeps (h.mono (by decide)) | apply State.put_keeps (h.mono (by decide)) | apply keeps_ite (P := P)
    | (extract_lets +onlyGivenNames x; refine (fun (hx : P x) => ?_) ?_; clear_value x; rotate_left; dsimp -zeta only [x])
    | (extract_lets +onlyGivenNames x) | split | (refine keeps_snd (P := P) ‹_› ?_) | (refine keeps_fst (P := P) ‹_› ?_)

theorem State.wuDueClose_keeps (h : Keep P 262276) {s : State} {u : Nat} (hs : P s) :
    P (State.wuDueClose s u) := by
  unfold State.wuDueClose
  with_reducible repeat' first
    | assumption | apply State.wuComplete_keeps (h.mono (by decide)) | apply keeps_ite (P := P)
    | (extract_lets +onlyGivenNames x) | split | (refine keeps_snd (P := P) ‹_› ?_) | (refine keeps_fst (P := P) ‹_› ?_)

theorem State.wuMissed_keeps (h : Keep P 388) {s : State} {u : Nat} {w : WuWin} (hs : P s) :
    P (State.wuMissed s u w) := by
  unfold State.wuMissed
  with_reducible repeat' first
    | assumption | apply State.log_keeps (h.mono (by decide)) | apply State.irqIf_keeps (h.mono (by decide))
    | apply State.inc_keeps (h.mono (by decide))
    | (extract_lets +onlyGivenNames x; refine (fun (hx : P x) => ?_) ?_; clear_value x; rotate_left; dsimp -zeta only [x])
    | (extract_lets +onlyGivenNames x)

theorem State.wuTrigger_keeps (h : Keep P 262532) {s : State} {u : Nat} (hs : P s) :
    P (State.wuTrigger s u) := by
  unfold State.wuTrigger
  with_reducible repeat' first
    | assumption | apply State.wuMissed_keeps (h.mono (by decide)) | apply State.wuDueClose_keeps (h.mono (by decide))
    | apply State.wuComplete_keeps (h.mono (by decide)) | apply State.wuArm_keeps (h.mono (by decide))
    | apply State.setWu_keeps (h.mono (by decide)) | apply State.put_keeps (h.mono (by decide)) | apply keeps_ite (P := P)
    | (extract_lets +onlyGivenNames x; refine (fun (hx : P x) => ?_) ?_; clear_value x; rotate_left; dsimp -zeta only [x])
    | (extract_lets +onlyGivenNames x) | split | (refine keeps_snd (P := P) ‹_› ?_) | (refine keeps_fst (P := P) ‹_› ?_)

theorem State.wuOpenEvent_keeps (h : Keep P 262532) {s : State} {u : Nat} {ev : Nat} (hs : P s) :
    P (State.wuOpenEvent s u ev) := by
  unfold State.wuOpenEvent
  with_reducible repeat' first
    | assumption | apply State.wuTrigger_keeps (h.mono (by decide)) | apply State.wuDueClose_keeps (h.mono (by decide))
    | apply keeps_ite (P := P)
    | (extract_lets +onlyGivenNames x; refine (fun (hx : P x) => ?_) ?_; clear_value x; rotate_left; dsimp -zeta only [x])
    | (extract_lets +onlyGivenNames x)

theorem execWuOpenEvent_keeps (h : Keep P 262532) {u : Fin 64} {ev : Fin 256} {s : State} (hs : P s) :
    Answers P (execWuOpenEvent u ev s) := by
  unfold execWuOpenEvent
  refine ⟨_, rfl, ?_⟩
  with_reducible repeat' first
    | assumption | apply State.wuOpenEvent_keeps (h.mono (by decide))

theorem execWuOpen_keeps (h : Keep P 4) {u : Fin 64} {s : State} (hs : P s) :
    Answers P (execWuOpen u s) := by
  unfold execWuOpen
  refine ⟨_, rfl, ?_⟩
  with_reducible repeat' first
    | assumption | apply State.put_keeps (h.mono (by decide)) | apply keeps_ite (P := P) | split
    | (refine keeps_snd (P := P) ‹_› ?_) | (refine keeps_fst (P := P) ‹_› ?_)

theorem State.wuCloseEvent_keeps (h : Keep P 262276) {s : State} {u : Nat} {ev : Nat} (hs : P s) :
    P (State.wuCloseEvent s u ev) := by
  unfold State.wuCloseEvent
  with_reducible repeat' first
    | assumption | apply State.wuDueClose_keeps (h.mono (by decide)) | apply State.setWu_keeps (h.mono (by decide))
    | apply State.inc_keeps (h.mono (by decide)) | apply keeps_ite (P := P)
    | (extract_lets +onlyGivenNames x; refine (fun (hx : P x) => ?_) ?_; clear_value x; rotate_left; dsimp -zeta only [x])
    | (extract_lets +onlyGivenNames x) | split | (refine keeps_snd (P := P) ‹_› ?_) | (refine keeps_fst (P := P) ‹_› ?_)

theorem execWuCloseEvent_keeps (h : Keep P 262276) {u : Fin 64} {ev : Fin 256} {s : State} (hs : P s) :
    Answers P (execWuCloseEvent u ev s) := by
  unfold execWuCloseEvent
  refine ⟨_, rfl, ?_⟩
  with_reducible repeat' first
    | assumption | apply State.wuCloseEvent_keeps (h.mono (by decide))

theorem State.swTrig_keeps (h : Keep P 262532) {s : State} {hi : Bool} {v : Word} (hs : P s) :
    P (State.swTrig s hi v) := by
  unfold State.swTrig
  with_reducible repeat' first
    | assumption | (intro _) | apply State.wuCloseEvent_keeps (h.mono (by decide))
    | apply State.wuOpenEvent_keeps (h.mono (by decide)) | apply keeps_ite (P := P) | apply keeps_foldl (P := P)
    | (extract_lets +onlyGivenNames x; refine (fun (hx : P x) => ?_) ?_; clear_value x; rotate_left; dsimp -zeta only [x])

theorem execWugSwtrig_keeps (h : Keep P 270724) {ini : Initiator} {hi : Bool} {val : Word} {s : State} (hs : P s) :
    Answers P (execWugSwtrig ini hi val s) := by
  unfold execWugSwtrig
  refine ⟨_, rfl, ?_⟩
  with_reducible repeat' first
    | assumption | (intro _) | apply State.swTrig_keeps (h.mono (by decide)) | apply State.busWrite_keeps (h.mono (by decide))
    | (extract_lets +onlyGivenNames x; refine (fun (hx : P x) => ?_) ?_; clear_value x; rotate_left; dsimp -zeta only [x])

theorem execWuClose_keeps (h : Keep P 262276) {u : Fin 64} {s : State} (hs : P s) :
    Answers P (execWuClose u s) := by
  unfold execWuClose
  refine ⟨_, rfl, ?_⟩
  with_reducible repeat' first
    | assumption | apply State.wuDueClose_keeps (h.mono (by decide)) | apply keeps_ite (P := P)

theorem execWuOpenTimeout_keeps (h : Keep P 262276) {u : Fin 64} {s : State} (hs : P s) :
    Answers P (execWuOpenTimeout u s) := by
  unfold execWuOpenTimeout
  refine ⟨_, rfl, ?_⟩
  with_reducible repeat' first
    | assumption | apply State.wuDueClose_keeps (h.mono (by decide)) | apply keeps_ite (P := P) | split
    | (refine keeps_snd (P := P) ‹_› ?_) | (refine keeps_fst (P := P) ‹_› ?_)

theorem State.wuFinal_keeps (h : Keep P 388) {s : State} {u : Nat} {w : WuWin} (hs : P s) :
    P (State.wuFinal s u w).1 := by
  unfold State.wuFinal
  with_reducible repeat' first
    | assumption | apply State.wuLimit_keeps (h.mono (by decide)) | apply keeps_ite (P := P) | apply keeps_iteFst (P := P)
    | (extract_lets +onlyGivenNames x; refine (fun (hx : P x) => ?_) ?_; clear_value x; rotate_left; dsimp -zeta only [x])
    | (extract_lets +onlyGivenNames x)

theorem State.wuFinals_keeps (h : Keep P 388) {s : State} {u : Nat} {x2 : List WuWin} (hs : P s) :
    P (State.wuFinals s u x2).1 := by
  induction x2 generalizing s u with
  | nil =>
    unfold State.wuFinals
    with_reducible repeat' first
      | (with_reducible apply ih) | with_reducible assumption | with_reducible apply State.wuFinal_keeps (h.mono (by decide)) | (extract_lets +onlyGivenNames x) | split | (refine keeps_snd (P := P) ‹_› ?_) | (refine keeps_fst (P := P) ‹_› ?_)
  | cons hd tl ih =>
    unfold State.wuFinals
    with_reducible repeat' first
      | (with_reducible apply ih) | with_reducible assumption | with_reducible apply State.wuFinal_keeps (h.mono (by decide)) | (extract_lets +onlyGivenNames x) | split | (refine keeps_snd (P := P) ‹_› ?_) | (refine keeps_fst (P := P) ‹_› ?_)


theorem State.wuFinalise_keeps (h : Keep P 262532) {s : State} {u : Nat} (hs : P s) :
    P (State.wuFinalise s u) := by
  unfold State.wuFinalise
  with_reducible repeat' first
    | assumption | apply State.wuFinals_keeps (h.mono (by decide)) | apply State.setWu_keeps (h.mono (by decide))
    | apply keeps_ite (P := P) | (extract_lets +onlyGivenNames x) | split | (refine keeps_snd (P := P) ‹_› ?_)
    | (refine keeps_fst (P := P) ‹_› ?_)

theorem execWuFinalise_keeps (h : Keep P 262532) {u : Fin 64} {s : State} (hs : P s) :
    Answers P (execWuFinalise u s) := by
  unfold execWuFinalise
  refine ⟨_, rfl, ?_⟩
  with_reducible repeat' first
    | assumption | apply State.wuFinalise_keeps (h.mono (by decide))

theorem State.rqPush_keeps (h : Keep P 262148) {s : State} {u : Nat} (hs : P s) :
    P (State.rqPush s u) := by
  unfold State.rqPush
  extract_lets r s1
  split
  · next hl =>
    refine State.put_keeps (h.mono (by decide)) (State.setConv_keeps (h.mono (by decide)) ?_ hs)
    rintro ⟨h1, h2, h3, h4⟩
    exact ⟨h1, h2, h3, by simp; omega⟩
  · exact State.inc_keeps (h.mono (by decide)) hs

theorem State.wuPublish_keeps (h : Keep P 327948) {s : State} {u : Nat} (hs : P s) :
    P (State.wuPublish s u) := by
  unfold State.wuPublish
  with_reducible repeat' first
    | assumption | (intro _) | apply State.rqPush_keeps (h.mono (by decide)) | apply State.setWu_keeps (h.mono (by decide))
    | apply State.ceUnitDone_keeps (h.mono (by decide)) | apply State.irqIf_keeps (h.mono (by decide))
    | apply State.wrBytes_keeps (h.mono (by decide)) | apply State.put_keeps (h.mono (by decide))
    | apply State.wr_keeps (h.mono (by decide)) | apply keeps_ite (P := P) | apply keeps_foldl (P := P)
    | (extract_lets +onlyGivenNames x; refine (fun (hx : P x) => ?_) ?_; clear_value x; rotate_left; dsimp -zeta only [x])
    | (extract_lets +onlyGivenNames x) | split | (refine keeps_snd (P := P) ‹_› ?_) | (refine keeps_fst (P := P) ‹_› ?_)

theorem execWuResultPublish_keeps (h : Keep P 327948) {u : Fin 64} {s : State} (hs : P s) :
    Answers P (execWuResultPublish u s) := by
  unfold execWuResultPublish
  refine ⟨_, rfl, ?_⟩
  with_reducible repeat' first
    | assumption | apply State.wuPublish_keeps (h.mono (by decide))

theorem State.wuLatch_keeps (h : Keep P 262144) {s : State} {ini : Initiator} {u : Nat} (hs : P s) :
    P (State.wuLatch s ini u) := by
  unfold State.wuLatch
  with_reducible repeat' first
    | assumption | (intro _)
    | (refine State.setConv_keeps (h.mono (by decide)) (by intro hq; first | exact hq | (simp +zetaDelta [Conv.Shaped] at hq ⊢ <;> simp [hq]; done) | simpa +zetaDelta [Conv.Shaped] using hq) ?_)
    | (extract_lets +onlyGivenNames x)

theorem execWuRes0Read_keeps (h : Keep P 270336) {ini : Initiator} {u : Fin 64} {s : State} (hs : P s) :
    Answers P (execWuRes0Read ini u s) := by
  unfold execWuRes0Read
  refine ⟨_, rfl, ?_⟩
  with_reducible repeat' first
    | assumption | apply State.wuLatch_keeps (h.mono (by decide)) | apply State.busError_keeps (h.mono (by decide))
    | apply keeps_ite (P := P)

theorem State.wuSrcWrite_keeps (h : Keep P 262148) {s : State} {u : Nat} {v : Word} (hs : P s) :
    P (State.wuSrcWrite s u v) := by
  unfold State.wuSrcWrite
  with_reducible repeat' first
    | assumption | apply State.setWu_keeps (h.mono (by decide)) | apply State.fieldWrite_keeps (h.mono (by decide))
    | apply State.put_keeps (h.mono (by decide)) | apply keeps_ite (P := P)
    | (extract_lets +onlyGivenNames x; refine (fun (hx : P x) => ?_) ?_; clear_value x; rotate_left; dsimp -zeta only [x])
    | (extract_lets +onlyGivenNames x)

theorem execWuDisable_keeps (h : Keep P 270340) {ini : Initiator} {u : Fin 64} {val : Word} {s : State} (hs : P s) :
    Answers P (execWuDisable ini u val s) := by
  unfold execWuDisable
  refine ⟨_, rfl, ?_⟩
  with_reducible repeat' first
    | assumption | (intro _) | apply State.wuSrcWrite_keeps (h.mono (by decide))
    | apply State.busWrite_keeps (h.mono (by decide))
    | (extract_lets +onlyGivenNames x; refine (fun (hx : P x) => ?_) ?_; clear_value x; rotate_left; dsimp -zeta only [x])

theorem State.capStart_keeps (h : Keep P 17039364) {s : State} {n : Nat} (hs : P s) :
    P (State.capStart s n) := by
  unfold State.capStart
  with_reducible repeat' first
    | assumption | (intro _) | apply State.setCap_keeps (h.mono (by decide)) | apply State.put_keeps (h.mono (by decide))
    | (refine State.setKcp_keeps (h.mono (by decide)) (by intro hq; first | exact hq | (simp +zetaDelta [Kcp.Shaped] at hq ⊢ <;> simp [hq]; done) | simpa +zetaDelta [Kcp.Shaped] using hq) ?_)
    | apply keeps_ite (P := P)
    | (extract_lets +onlyGivenNames x; refine (fun (hx : P x) => ?_) ?_; clear_value x; rotate_left; dsimp -zeta only [x])
    | (extract_lets +onlyGivenNames x)

theorem execCapStart_keeps (h : Keep P 17047556) {ini : Option Initiator} {n : Fin 4} {ev : Fin 256} {s : State} (hs : P s) :
    Answers P (execCapStart ini n ev s) := by
  unfold execCapStart
  refine ⟨_, rfl, ?_⟩
  with_reducible repeat' first
    | assumption | (intro _) | apply State.capStart_keeps (h.mono (by decide)) | apply State.busWrite_keeps (h.mono (by decide))
    | apply keeps_ite (P := P)
    | (extract_lets +onlyGivenNames x; refine (fun (hx : P x) => ?_) ?_; clear_value x; rotate_left; dsimp -zeta only [x])
    | split | (refine keeps_snd (P := P) ‹_› ?_) | (refine keeps_fst (P := P) ‹_› ?_)

theorem State.capStop_keeps (h : Keep P 4) {s : State} {n : Nat} (hs : P s) :
    P (State.capStop s n) := by
  unfold State.capStop
  with_reducible repeat' first
    | assumption | apply State.put_keeps (h.mono (by decide)) | apply keeps_ite (P := P)
    | (extract_lets +onlyGivenNames x; refine (fun (hx : P x) => ?_) ?_; clear_value x; rotate_left; dsimp -zeta only [x])
    | (extract_lets +onlyGivenNames x)

theorem execCapStop_keeps (h : Keep P 8196) {ini : Initiator} {n : Fin 4} {s : State} (hs : P s) :
    Answers P (execCapStop ini n s) := by
  unfold execCapStop
  refine ⟨_, rfl, ?_⟩
  with_reducible repeat' first
    | assumption | (intro _) | apply State.capStop_keeps (h.mono (by decide)) | apply State.busWrite_keeps (h.mono (by decide))
    | (extract_lets +onlyGivenNames x; refine (fun (hx : P x) => ?_) ?_; clear_value x; rotate_left; dsimp -zeta only [x])

theorem execCapLenReached_keeps (h : Keep P 4) {n : Fin 4} {s : State} (hs : P s) :
    Answers P (execCapLenReached n s) := by
  unfold execCapLenReached
  refine ⟨_, rfl, ?_⟩
  with_reducible repeat' first
    | assumption | apply State.put_keeps (h.mono (by decide)) | apply keeps_ite (P := P)

theorem State.convOff_keeps (h : Keep P 262144) {s : State} (hs : P s) :
    P (State.convOff s) := by
  unfold State.convOff
  with_reducible repeat' first
    | assumption | (intro _)
    | (refine State.setConv_keeps (h.mono (by decide)) (by intro hq; first | exact hq | (simp +zetaDelta [Conv.Shaped, Conv.idle] at hq ⊢ <;> simp [hq]; done) | simpa +zetaDelta [Conv.Shaped, Conv.idle] using hq) ?_)
    | (extract_lets +onlyGivenNames x)

theorem State.convDue_keeps (h : Keep P 328076) {s : State} (hs : P s) :
    P (State.convDue s) := by
  unfold State.convDue
  with_reducible repeat' first
    | assumption | (intro _) | apply State.wuPublish_keeps (h.mono (by decide))
    | apply State.wuFinalise_keeps (h.mono (by decide)) | apply State.wuDueClose_keeps (h.mono (by decide))
    | apply State.vdcUpdate_keeps (h.mono (by decide)) | apply keeps_ite (P := P) | apply keeps_foldl (P := P)
    | (extract_lets +onlyGivenNames x; refine (fun (hx : P x) => ?_) ?_; clear_value x; rotate_left; dsimp -zeta only [x])
    | (extract_lets +onlyGivenNames x)

end Sys2Proof.Machine
end

