-- ==== Sys2Proof/Laws/KeepWm.lean ====
section
/-! SUPPORT. What the operations of Machine/Wm.lean keep (Laws/Keep.lean). -/

namespace Sys2Proof.Machine

variable {P : State → Prop}

theorem State.foxComp_keeps (h : Keep P 131072) {s : State} {c : Nat} {b : Bool} (hs : P s) :
    P (State.foxComp s c b) := by
  unfold State.foxComp
  with_reducible repeat' first
    | assumption | apply State.setFox_keeps (h.mono (by decide)) | (extract_lets +onlyGivenNames x)

theorem State.wmSet_keeps (h : Keep P 131076) {s : State} {m : Nat} {low : Bool} {tripped : Bool} (hs : P s) :
    P (State.wmSet s m low tripped) := by
  unfold State.wmSet
  with_reducible repeat' first
    | assumption | apply State.foxComp_keeps (h.mono (by decide)) | apply State.putB_keeps (h.mono (by decide))
    | apply keeps_ite (P := P)
    | (extract_lets +onlyGivenNames x; refine (fun (hx : P x) => ?_) ?_; clear_value x; rotate_left; dsimp -zeta only [x])
    | (extract_lets +onlyGivenNames x)

theorem State.wmOnset_keeps (h : Keep P 131460) {s : State} {m : Nat} {low : Bool} (hs : P s) :
    P (State.wmOnset s m low) := by
  unfold State.wmOnset
  with_reducible repeat' first
    | assumption | apply State.log_keeps (h.mono (by decide)) | apply State.irqIf_keeps (h.mono (by decide))
    | apply State.inc_keeps (h.mono (by decide)) | apply State.put_keeps (h.mono (by decide))
    | apply State.setFox_keeps (h.mono (by decide)) | apply keeps_ite (P := P)
    | (extract_lets +onlyGivenNames x; refine (fun (hx : P x) => ?_) ?_; clear_value x; rotate_left; dsimp -zeta only [x])
    | (extract_lets +onlyGivenNames x)

theorem State.wmEvaluate_keeps (h : Keep P 131476) {s : State} {m : Nat} {low : Bool} {v : Int} (hs : P s) :
    P (State.wmEvaluate s m low v) := by
  unfold State.wmEvaluate
  with_reducible repeat' first
    | assumption | apply State.wmOnset_keeps (h.mono (by decide)) | apply State.wmSet_keeps (h.mono (by decide))
    | apply State.useFree_keeps (h.mono (by decide)) | apply keeps_ite (P := P)
    | (extract_lets +onlyGivenNames x; refine (fun (hx : P x) => ?_) ?_; clear_value x; rotate_left; dsimp -zeta only [x])
    | (extract_lets +onlyGivenNames x)

theorem State.wmFirst_keeps (h : Keep P 131476) {s : State} {m : Nat} {low : Bool} {v : Int} (hs : P s) :
    P (State.wmFirst s m low v) := by
  unfold State.wmFirst
  with_reducible repeat' first
    | assumption | apply State.wmOnset_keeps (h.mono (by decide)) | apply State.wmSet_keeps (h.mono (by decide))
    | apply State.useFree_keeps (h.mono (by decide)) | apply State.setFox_keeps (h.mono (by decide)) | apply keeps_ite (P := P)
    | (extract_lets +onlyGivenNames x; refine (fun (hx : P x) => ?_) ?_; clear_value x; rotate_left; dsimp -zeta only [x])
    | (extract_lets +onlyGivenNames x)

theorem State.wmFollow_keeps (h : Keep P 131476) {s : State} {m : Nat} {v : Int} {low : Bool} (hs : P s) :
    P (State.wmFollow s m v low) := by
  unfold State.wmFollow
  with_reducible repeat' first
    | assumption | apply State.wmEvaluate_keeps (h.mono (by decide)) | apply keeps_ite (P := P)

theorem State.wmBoth_keeps (h : Keep P 131476) {s : State} {m : Nat} {v : Int} (hs : P s) :
    P (State.wmBoth s m v) := by
  unfold State.wmBoth
  with_reducible repeat' first
    | assumption | apply State.wmFollow_keeps (h.mono (by decide))

theorem execWmComparatorChange_keeps (h : Keep P 131476) {m : Fin 48} {v : Int} {s : State} (hs : P s) :
    Answers P (execWmComparatorChange m v s) := by
  unfold execWmComparatorChange
  refine ⟨_, rfl, ?_⟩
  with_reducible repeat' first
    | assumption | apply State.wmBoth_keeps (h.mono (by decide))

theorem State.wmFirstSeen_keeps (h : Keep P 131476) {s : State} {m : Nat} {low : Bool} {v : Int} (hs : P s) :
    P (State.wmFirstSeen s m low v) := by
  unfold State.wmFirstSeen
  with_reducible repeat' first
    | assumption | apply State.wmFollow_keeps (h.mono (by decide)) | apply State.wmFirst_keeps (h.mono (by decide))
    | apply keeps_ite (P := P)

theorem execWmFirstEvaluation_keeps (h : Keep P 131476) {m : Fin 48} {low : Bool} {v : Int} {s : State} (hs : P s) :
    Answers P (execWmFirstEvaluation m low v s) := by
  unfold execWmFirstEvaluation
  refine ⟨_, rfl, ?_⟩
  with_reducible repeat' first
    | assumption | apply State.wmFirstSeen_keeps (h.mono (by decide))

theorem State.wmStrobe_keeps (h : Keep P 131476) {s : State} {m : Nat} {v : Int} (hs : P s) :
    P (State.wmStrobe s m v) := by
  unfold State.wmStrobe
  with_reducible repeat' first
    | assumption | (intro _) | apply State.wmFirst_keeps (h.mono (by decide))
    | apply State.wmEvaluate_keeps (h.mono (by decide)) | apply State.setFox_keeps (h.mono (by decide))
    | apply keeps_ite (P := P) | apply keeps_foldl (P := P)
    | (extract_lets +onlyGivenNames x; refine (fun (hx : P x) => ?_) ?_; clear_value x; rotate_left; dsimp -zeta only [x])
    | (extract_lets +onlyGivenNames x)

theorem execWmStrobe_keeps (h : Keep P 131476) {m : Fin 48} {v : Int} {s : State} (hs : P s) :
    Answers P (execWmStrobe m v s) := by
  unfold execWmStrobe
  refine ⟨_, rfl, ?_⟩
  with_reducible repeat' first
    | assumption | apply State.wmStrobe_keeps (h.mono (by decide))

theorem execWmStrobeLoss_keeps (h : Keep P 131076) {m : Fin 48} {s : State} (hs : P s) :
    Answers P (execWmStrobeLoss m s) := by
  unfold execWmStrobeLoss
  refine ⟨_, rfl, ?_⟩
  with_reducible repeat' first
    | assumption | apply State.put_keeps (h.mono (by decide)) | apply State.setFox_keeps (h.mono (by decide))
    | apply keeps_ite (P := P) | (extract_lets +onlyGivenNames x)

theorem State.wmEnable_keeps (h : Keep P 131460) {s : State} {m : Nat} {low : Bool} (hs : P s) :
    P (State.wmEnable s m low) := by
  unfold State.wmEnable
  with_reducible repeat' first
    | assumption | apply State.wmOnset_keeps (h.mono (by decide)) | apply State.wmSet_keeps (h.mono (by decide))
    | apply State.setFox_keeps (h.mono (by decide)) | apply keeps_ite (P := P)
    | (extract_lets +onlyGivenNames x; refine (fun (hx : P x) => ?_) ?_; clear_value x; rotate_left; dsimp -zeta only [x])
    | (extract_lets +onlyGivenNames x)

theorem State.wmRelease_keeps (h : Keep P 131076) {s : State} {m : Nat} {low : Bool} (hs : P s) :
    P (State.wmRelease s m low) := by
  unfold State.wmRelease
  with_reducible repeat' first
    | assumption | apply State.wmSet_keeps (h.mono (by decide)) | apply State.setFox_keeps (h.mono (by decide))
    | (extract_lets +onlyGivenNames x; refine (fun (hx : P x) => ?_) ?_; clear_value x; rotate_left; dsimp -zeta only [x])
    | (extract_lets +onlyGivenNames x)

theorem State.wmCfgWrite_keeps (h : Keep P 131460) {s : State} {m : Nat} {v : Word} (hs : P s) :
    P (State.wmCfgWrite s m v) := by
  unfold State.wmCfgWrite
  with_reducible repeat' first
    | assumption | (intro _) | apply State.wmRelease_keeps (h.mono (by decide))
    | apply State.wmEnable_keeps (h.mono (by decide)) | apply State.fieldWrite_keeps (h.mono (by decide))
    | apply keeps_ite (P := P) | apply keeps_foldl (P := P)
    | (extract_lets +onlyGivenNames x; refine (fun (hx : P x) => ?_) ?_; clear_value x; rotate_left; dsimp -zeta only [x])
    | (extract_lets +onlyGivenNames x)

theorem execWmEnable_keeps (h : Keep P 139652) {ini : Initiator} {m : Fin 48} {val : Word} {s : State} (hs : P s) :
    Answers P (execWmEnable ini m val s) := by
  unfold execWmEnable
  refine ⟨_, rfl, ?_⟩
  with_reducible repeat' first
    | assumption | (intro _) | apply State.wmCfgWrite_keeps (h.mono (by decide))
    | apply State.busWrite_keeps (h.mono (by decide))
    | (extract_lets +onlyGivenNames x; refine (fun (hx : P x) => ?_) ?_; clear_value x; rotate_left; dsimp -zeta only [x])

theorem execWmDisable_keeps (h : Keep P 139652) {ini : Initiator} {m : Fin 48} {val : Word} {s : State} (hs : P s) :
    Answers P (execWmDisable ini m val s) := by
  unfold execWmDisable
  refine ⟨_, rfl, ?_⟩
  with_reducible repeat' first
    | assumption | (intro _) | apply State.wmCfgWrite_keeps (h.mono (by decide))
    | apply State.busWrite_keeps (h.mono (by decide))
    | (extract_lets +onlyGivenNames x; refine (fun (hx : P x) => ?_) ?_; clear_value x; rotate_left; dsimp -zeta only [x])

theorem State.dacMove_keeps (h : Keep P 131072) {s : State} {d : Nat} {old : Nat} {new : Nat} (hs : P s) :
    P (State.dacMove s d old new) := by
  unfold State.dacMove
  with_reducible repeat' first
    | assumption | (intro _) | apply State.setFox_keeps (h.mono (by decide)) | apply keeps_ite (P := P)
    | (extract_lets +onlyGivenNames x; refine (fun (hx : P x.1) => ?_) ?_; clear_value x; rotate_left; dsimp -zeta only [x])
    | (extract_lets +onlyGivenNames x; refine (fun (hx : P x.2) => ?_) ?_; clear_value x; rotate_left; dsimp -zeta only [x])
    | (extract_lets +onlyGivenNames x) | split | (refine keeps_snd (P := P) ‹_› ?_) | (refine keeps_fst (P := P) ‹_› ?_)

theorem State.wmThWrite_keeps (h : Keep P 537001988) {s : State} {m : Nat} {v : Word} (hs : P s) :
    P (State.wmThWrite s m v) := by
  unfold State.wmThWrite
  with_reducible repeat' first
    | assumption | apply State.dacMove_keeps (h.mono (by decide)) | apply State.fieldWrite_keeps (h.mono (by decide))
    | apply State.setHk_keeps (h.mono (by decide)) | apply keeps_ite (P := P)
    | (extract_lets +onlyGivenNames x; refine (fun (hx : P x) => ?_) ?_; clear_value x; rotate_left; dsimp -zeta only [x])
    | (extract_lets +onlyGivenNames x)

theorem execWmThWrite_keeps (h : Keep P 537010180) {ini : Initiator} {m : Fin 48} {val : Word} {s : State} (hs : P s) :
    Answers P (execWmThWrite ini m val s) := by
  unfold execWmThWrite
  refine ⟨_, rfl, ?_⟩
  with_reducible repeat' first
    | assumption | (intro _) | apply State.wmThWrite_keeps (h.mono (by decide))
    | apply State.busWrite_keeps (h.mono (by decide))
    | (extract_lets +onlyGivenNames x; refine (fun (hx : P x) => ?_) ?_; clear_value x; rotate_left; dsimp -zeta only [x])

theorem State.padOnset_keeps (h : Keep P 131204) {s : State} {i : Nat} (hs : P s) :
    P (State.padOnset s i) := by
  unfold State.padOnset
  with_reducible repeat' first
    | assumption | apply State.log_keeps (h.mono (by decide)) | apply State.putFldBit_keeps (h.mono (by decide))
    | apply State.setFox_keeps (h.mono (by decide)) | apply keeps_ite (P := P)
    | (extract_lets +onlyGivenNames x; refine (fun (hx : P x) => ?_) ?_; clear_value x; rotate_left; dsimp -zeta only [x])
    | (extract_lets +onlyGivenNames x)

theorem State.padFollow_keeps (h : Keep P 131204) {s : State} {i : Nat} (hs : P s) :
    P (State.padFollow s i) := by
  unfold State.padFollow
  with_reducible repeat' first
    | assumption | apply State.padOnset_keeps (h.mono (by decide)) | apply State.setFox_keeps (h.mono (by decide))
    | apply keeps_ite (P := P) | (extract_lets +onlyGivenNames x)

theorem execTripInEdge_keeps (h : Keep P 131204) {i : Fin 4} {level : Option Bool} {s : State} (hs : P s) :
    Answers P (execTripInEdge i level s) := by
  unfold execTripInEdge
  refine ⟨_, rfl, ?_⟩
  with_reducible repeat' first
    | assumption | apply State.padFollow_keeps (h.mono (by decide)) | apply State.setFox_keeps (h.mono (by decide))
    | (extract_lets +onlyGivenNames x; refine (fun (hx : P x) => ?_) ?_; clear_value x; rotate_left; dsimp -zeta only [x])
    | (extract_lets +onlyGivenNames x)

theorem State.foxAccept_keeps (h : Keep P 131204) {s : State} {c : Nat} (hs : P s) :
    P (State.foxAccept s c) := by
  unfold State.foxAccept
  with_reducible repeat' first
    | assumption | apply State.padOnset_keeps (h.mono (by decide)) | apply State.foxComp_keeps (h.mono (by decide))
    | apply keeps_ite (P := P)

theorem execFoxFilterAccept_keeps (h : Keep P 131204) {code : Fin 256} {s : State} (hs : P s) :
    Answers P (execFoxFilterAccept code s) := by
  unfold execFoxFilterAccept
  refine ⟨_, rfl, ?_⟩
  with_reducible repeat' first
    | assumption | apply State.foxAccept_keeps (h.mono (by decide))

theorem State.routeWrite_keeps (h : Keep P 131988) {s : State} {a : Nat} {v : Word} (hs : P s) :
    P (State.routeWrite s a v) := by
  unfold State.routeWrite
  with_reducible repeat' first
    | assumption | (intro _) | apply State.padFollow_keeps (h.mono (by decide))
    | apply State.fieldWrite_keeps (h.mono (by decide)) | apply State.tripScan_keeps (h.mono (by decide))
    | apply keeps_ite (P := P) | apply keeps_foldl (P := P)
    | (extract_lets +onlyGivenNames x; refine (fun (hx : P x) => ?_) ?_; clear_value x; rotate_left; dsimp -zeta only [x])
    | (extract_lets +onlyGivenNames x)

theorem execTrnRouteWrite_keeps (h : Keep P 140180) {ini : Initiator} {addr : Word} {val : Word} {s : State} (hs : P s) :
    Answers P (execTrnRouteWrite ini addr val s) := by
  unfold execTrnRouteWrite
  refine ⟨_, rfl, ?_⟩
  with_reducible repeat' first
    | assumption | (intro _) | apply State.routeWrite_keeps (h.mono (by decide))
    | apply State.busWrite_keeps (h.mono (by decide)) | apply keeps_ite (P := P)
    | (extract_lets +onlyGivenNames x; refine (fun (hx : P x) => ?_) ?_; clear_value x; rotate_left; dsimp -zeta only [x])

theorem execTrnLock_keeps (h : Keep P 8196) {ini : Initiator} {val : Word} {s : State} (hs : P s) :
    Answers P (execTrnLock ini val s) := by
  unfold execTrnLock
  refine ⟨_, rfl, ?_⟩
  with_reducible repeat' first
    | assumption | (intro _) | apply State.busWrite_keeps (h.mono (by decide)) | apply State.put_keeps (h.mono (by decide))
    | apply keeps_ite (P := P)
    | (extract_lets +onlyGivenNames x; refine (fun (hx : P x) => ?_) ?_; clear_value x; rotate_left; dsimp -zeta only [x])

theorem execWmgLock_keeps (h : Keep P 8196) {ini : Initiator} {val : Word} {s : State} (hs : P s) :
    Answers P (execWmgLock ini val s) := by
  unfold execWmgLock
  refine ⟨_, rfl, ?_⟩
  with_reducible repeat' first
    | assumption | (intro _) | apply State.busWrite_keeps (h.mono (by decide)) | apply State.put_keeps (h.mono (by decide))
    | apply keeps_ite (P := P)
    | (extract_lets +onlyGivenNames x; refine (fun (hx : P x) => ?_) ?_; clear_value x; rotate_left; dsimp -zeta only [x])

theorem State.foxOff_keeps (h : Keep P 131076) {s : State} (hs : P s) :
    P (State.foxOff s) := by
  unfold State.foxOff
  with_reducible repeat' first
    | assumption | (intro _) | apply State.put_keeps (h.mono (by decide)) | apply State.setFox_keeps (h.mono (by decide))
    | apply keeps_ite (P := P) | apply keeps_foldl (P := P)
    | (extract_lets +onlyGivenNames x; refine (fun (hx : P x) => ?_) ?_; clear_value x; rotate_left; dsimp -zeta only [x])
    | (extract_lets +onlyGivenNames x)

theorem State.foxOn_keeps (h : Keep P 131460) {s : State} (hs : P s) :
    P (State.foxOn s) := by
  unfold State.foxOn
  with_reducible repeat' first
    | assumption | (intro _) | apply State.padFollow_keeps (h.mono (by decide))
    | apply State.wmEnable_keeps (h.mono (by decide)) | apply keeps_ite (P := P) | apply keeps_foldl (P := P)
    | (extract_lets +onlyGivenNames x; refine (fun (hx : P x) => ?_) ?_; clear_value x; rotate_left; dsimp -zeta only [x])
    | (extract_lets +onlyGivenNames x)

end Sys2Proof.Machine
end

