-- ==== Sys2Proof/Laws/KeepPowerOps.lean ====
section
/-! SUPPORT. What the operations of Machine/PowerOps.lean keep (Laws/Keep.lean). -/

namespace Sys2Proof.Machine

variable {P : State → Prop}

theorem State.dropRegs_keeps (h : Keep P 4) {s : State} {p : Nat → Bool} (hs : P s) :
    P (State.dropRegs s p) := by
  unfold State.dropRegs
  with_reducible repeat' first
    | assumption | (intro _) | apply h.regs (by decide) | apply h.regsDrop (by decide) | (extract_lets +onlyGivenNames x)

theorem State.dropMem_keeps (h : Keep P 8) {s : State} {p : Nat → Bool} (hs : P s) :
    P (State.dropMem s p) := by
  unfold State.dropMem
  with_reducible repeat' first
    | assumption | (intro _) | apply h.mem (by decide) | apply h.memDrop (by decide) | (extract_lets +onlyGivenNames x)

theorem State.gateDead_keeps (h : Keep P 2097156) {s : State} {g : Nat} (hs : P s) :
    P (State.gateDead s g) := by
  unfold State.gateDead
  with_reducible repeat' first
    | assumption | apply State.setGate_keeps (h.mono (by decide)) | apply State.put_keeps (h.mono (by decide))
    | (extract_lets +onlyGivenNames x; refine (fun (hx : P x) => ?_) ?_; clear_value x; rotate_left; dsimp -zeta only [x])
    | (extract_lets +onlyGivenNames x)

theorem State.kcpRebase_keeps (h : Keep P 16777216) {s : State} (hs : P s) :
    P (State.kcpRebase s) := by
  unfold State.kcpRebase
  with_reducible repeat' first
    | assumption | (intro _)
    | (refine State.setKcp_keeps (h.mono (by decide)) (by intro hq; first | exact hq | (simp +zetaDelta [Kcp.Shaped] at hq ⊢ <;> simp [hq]; done) | simpa +zetaDelta [Kcp.Shaped] using hq) ?_)
    | (extract_lets +onlyGivenNames x; refine (fun (hx : P x) => ?_) ?_; clear_value x; rotate_left; dsimp -zeta only [x])
    | (extract_lets +onlyGivenNames x; refine (fun (hx : P x.1) => ?_) ?_; clear_value x; rotate_left; dsimp -zeta only [x])
    | (extract_lets +onlyGivenNames x; refine (fun (hx : P x.2) => ?_) ?_; clear_value x; rotate_left; dsimp -zeta only [x])
    | (extract_lets +onlyGivenNames x)

theorem State.d6Off_keeps (h : Keep P 35331211980) {s : State} (hs : P s) :
    P (State.d6Off s) := by
  unfold State.d6Off
  with_reducible repeat' first
    | assumption | (intro _) | apply State.kcpRebase_keeps (h.mono (by decide)) | apply State.dropMem_keeps (h.mono (by decide))
    | apply State.dropRegs_keeps (h.mono (by decide)) | apply State.put_keeps (h.mono (by decide))
    | (refine State.setScgs_keeps (h.mono (by decide)) (by intro hq; first | exact hq | (simp +zetaDelta at hq ⊢ <;> simp [hq]; done) | simpa +zetaDelta using hq) ?_)
    | (refine State.setGates_keeps (h.mono (by decide)) (by intro hq; first | exact hq | (simp +zetaDelta at hq ⊢ <;> simp [hq]; done) | simpa +zetaDelta using hq) ?_)
    | (refine State.setCes_keeps (h.mono (by decide)) (by intro hq; first | exact hq | (simp +zetaDelta at hq ⊢ <;> simp [hq]; done) | simpa +zetaDelta using hq) ?_)
    | (refine State.setPwms_keeps (h.mono (by decide)) (by intro hq; first | exact hq | (simp +zetaDelta at hq ⊢ <;> simp [hq]; done) | simpa +zetaDelta using hq) ?_)
    | (refine State.setConv_keeps (h.mono (by decide)) (by intro hq; first | exact hq | (simp +zetaDelta [Conv.Shaped, Conv.idle] at hq ⊢ <;> simp [hq]; done) | simpa +zetaDelta [Conv.Shaped, Conv.idle] using hq) ?_)
    | apply State.setEth_keeps (h.mono (by decide)) | apply State.setHk_keeps (h.mono (by decide))
    | (refine State.setLedger_keeps (h.mono (by decide)) (by intro hq; first | exact hq | (simp +zetaDelta [Ledger.Shaped, Ledger.idle] at hq ⊢ <;> simp [hq]; done) | simpa +zetaDelta [Ledger.Shaped, Ledger.idle] using hq) ?_)
    | (refine State.setPosBlk_keeps (h.mono (by decide)) (by intro hq; first | exact hq | (simp +zetaDelta [PosBlk.Shaped, PosBlk.idle] at hq ⊢ <;> simp [hq]; done) | simpa +zetaDelta [PosBlk.Shaped, PosBlk.idle] using hq) ?_)
    | apply State.setOsd_keeps (h.mono (by decide)) | apply State.setFox_keeps (h.mono (by decide))
    | apply State.setTbLatch_keeps (h.mono (by decide))
    | (refine State.setEvl_keeps (h.mono (by decide)) (by intro hq; first | exact hq | (simp [State.reset]; done) | simpa using hq) ?_)
    | apply State.setCyc_keeps (h.mono (by decide)) | apply keeps_ite (P := P) | apply keeps_foldl (P := P)
    | (extract_lets +onlyGivenNames x; refine (fun (hx : P x) => ?_) ?_; clear_value x; rotate_left; dsimp -zeta only [x])
    | (extract_lets +onlyGivenNames x) | split

theorem State.d7Off_keeps (h : Keep P 537133060) {s : State} (hs : P s) :
    P (State.d7Off s) := by
  unfold State.d7Off
  with_reducible repeat' first
    | assumption | (intro _) | apply State.dropRegs_keeps (h.mono (by decide)) | apply State.convOff_keeps (h.mono (by decide))
    | apply State.setHk_keeps (h.mono (by decide))
    | (extract_lets +onlyGivenNames x; refine (fun (hx : P x) => ?_) ?_; clear_value x; rotate_left; dsimp -zeta only [x])
    | (extract_lets +onlyGivenNames x)

theorem State.d4Off_keeps (h : Keep P 283048421388) {s : State} (hs : P s) :
    P (State.d4Off s) := by
  unfold State.d4Off
  with_reducible repeat' first
    | assumption | (intro _) | apply State.dropMem_keeps (h.mono (by decide)) | apply State.dropRegs_keeps (h.mono (by decide))
    | apply State.setPllA_keeps (h.mono (by decide))
    | (refine State.setActs_keeps (h.mono (by decide)) (by intro hq; first | exact hq | (simp +zetaDelta at hq ⊢ <;> simp [hq]; done) | simpa +zetaDelta using hq) ?_)
    | (refine State.setScCores_keeps (h.mono (by decide)) (by intro hq; first | exact hq | (simp +zetaDelta at hq ⊢ <;> simp [hq]; done) | simpa +zetaDelta using hq) ?_)
    | (refine State.setScThreads_keeps (h.mono (by decide)) (by intro hq; first | exact hq | (simp +zetaDelta at hq ⊢ <;> simp [hq]; done) | simpa +zetaDelta using hq) ?_)
    | (refine State.setKcp_keeps (h.mono (by decide)) (by intro hq; first | exact hq | (simp +zetaDelta [Kcp.Shaped, Kcp.idle] at hq ⊢ <;> simp [hq]; done) | simpa +zetaDelta [Kcp.Shaped, Kcp.idle] using hq) ?_)
    | (refine State.setModes_keeps (h.mono (by decide)) (by intro hq; first | exact hq | (simp +zetaDelta [Modes.Shaped, Modes.idle] at hq ⊢ <;> simp [hq]; done) | simpa +zetaDelta [Modes.Shaped, Modes.idle] using hq) ?_)
    | (refine State.setStart_keeps (h.mono (by decide)) (by intro hq; first | exact hq | (simp +zetaDelta [Start.Shaped, Start.idle] at hq ⊢ <;> simp [hq]; done) | simpa +zetaDelta [Start.Shaped, Start.idle] using hq) ?_)
    | (refine State.setDma_keeps (h.mono (by decide)) (by intro hq; first | exact hq | (simp +zetaDelta [Dma.Shaped, Dma.idle] at hq ⊢ <;> simp [hq]; done) | simpa +zetaDelta [Dma.Shaped, Dma.idle] using hq) ?_)
    | apply State.setHk_keeps (h.mono (by decide)) | apply State.setBusErr_keeps (h.mono (by decide))
    | (extract_lets +onlyGivenNames x; refine (fun (hx : P x) => ?_) ?_; clear_value x; rotate_left; dsimp -zeta only [x])
    | (extract_lets +onlyGivenNames x)

theorem State.mramDrain_keeps (h : Keep P 16392) {s : State} (hs : P s) :
    P (State.mramDrain s) := by
  unfold State.mramDrain
  with_reducible repeat' first
    | assumption | (intro _) | apply State.wrBytes_keeps (h.mono (by decide)) | apply State.setMramW_keeps (h.mono (by decide))
    | apply keeps_foldl (P := P) | apply keeps_foldlPair (P := P)
    | (extract_lets +onlyGivenNames x; refine (fun (hx : P x) => ?_) ?_; clear_value x; rotate_left; dsimp -zeta only [x])

theorem State.domLose_keeps (h : Keep P 481035284172) {s : State} {d : Nat} (hs : P s) :
    P (State.domLose s d) := by
  unfold State.domLose
  with_reducible repeat' first
    | assumption | (intro _) | apply State.mramDrain_keeps (h.mono (by decide)) | apply State.d4Off_keeps (h.mono (by decide))
    | apply State.d7Off_keeps (h.mono (by decide)) | apply State.d6Off_keeps (h.mono (by decide))
    | apply State.gateDead_keeps (h.mono (by decide)) | apply State.dropMem_keeps (h.mono (by decide))
    | apply State.dropRegs_keeps (h.mono (by decide)) | apply State.foxOff_keeps (h.mono (by decide))
    | apply State.putFldBit_keeps (h.mono (by decide)) | apply State.put_keeps (h.mono (by decide))
    | (refine State.setCans_keeps (h.mono (by decide)) (by intro hq; first | exact hq | (simp +zetaDelta at hq ⊢ <;> simp [hq]; done) | simpa +zetaDelta using hq) ?_)
    | (refine State.setBadger_keeps (h.mono (by decide)) (by intro hq; first | exact hq | (simp +zetaDelta [Badger.Shaped, Badger.idle] at hq ⊢ <;> simp [hq]; done) | simpa +zetaDelta [Badger.Shaped, Badger.idle] using hq) ?_)
    | (refine State.setKcp_keeps (h.mono (by decide)) (by intro hq; first | exact hq | (simp +zetaDelta [Kcp.Shaped, Kcp.idle] at hq ⊢ <;> simp [hq]; done) | simpa +zetaDelta [Kcp.Shaped, Kcp.idle] using hq) ?_)
    | (refine State.setStart_keeps (h.mono (by decide)) (by intro hq; first | exact hq | (simp +zetaDelta [Start.Shaped, Start.idle] at hq ⊢ <;> simp [hq]; done) | simpa +zetaDelta [Start.Shaped, Start.idle] using hq) ?_)
    | apply State.setSup_keeps (h.mono (by decide)) | apply State.setEth_keeps (h.mono (by decide))
    | apply State.setCanTm_keeps (h.mono (by decide)) | apply State.setOn_keeps (h.mono (by decide)) | apply keeps_ite (P := P)
    | apply keeps_foldl (P := P)
    | (extract_lets +onlyGivenNames x; refine (fun (hx : P x) => ?_) ?_; clear_value x; rotate_left; dsimp -zeta only [x])
    | (extract_lets +onlyGivenNames x) | split

theorem State.domOff_keeps (h : Keep P 481035284172) {s : State} {d : Nat} (hs : P s) :
    P (State.domOff s d) := by
  unfold State.domOff
  with_reducible repeat' first
    | assumption | (intro _) | apply State.domLose_keeps (h.mono (by decide)) | apply keeps_foldl (P := P)
    | (extract_lets +onlyGivenNames x; refine (fun (hx : P x) => ?_) ?_; clear_value x; rotate_left; dsimp -zeta only [x])

theorem State.aggLimit_keeps (h : Keep P 4) {s : State} (hs : P s) :
    P (State.aggLimit s) := by
  unfold State.aggLimit
  with_reducible repeat' first
    | assumption | apply State.put_keeps (h.mono (by decide)) | apply keeps_ite (P := P)
    | (extract_lets +onlyGivenNames x; refine (fun (hx : P x) => ?_) ?_; clear_value x; rotate_left; dsimp -zeta only [x])
    | (extract_lets +onlyGivenNames x)

theorem State.railsLatch_keeps (h : Keep P 2097152) {s : State} {gr : Nat} (hs : P s) :
    P (State.railsLatch s gr) := by
  unfold State.railsLatch
  with_reducible repeat' first
    | assumption | (intro _) | apply State.setGate_keeps (h.mono (by decide)) | apply keeps_ite (P := P)
    | apply keeps_foldl (P := P)
    | (extract_lets +onlyGivenNames x; refine (fun (hx : P x) => ?_) ?_; clear_value x; rotate_left; dsimp -zeta only [x])
    | (extract_lets +onlyGivenNames x)

theorem State.domBegin_keeps (h : Keep P 539890100) {s : State} {d : Nat} (hs : P s) :
    P (State.domBegin s d) := by
  unfold State.domBegin
  with_reducible repeat' first
    | assumption | (intro _) | apply State.railsLatch_keeps (h.mono (by decide))
    | apply State.aggLimit_keeps (h.mono (by decide)) | apply State.foxOn_keeps (h.mono (by decide))
    | apply State.gatesFollow_keeps (h.mono (by decide)) | apply State.useFree_keeps (h.mono (by decide))
    | apply State.putB_keeps (h.mono (by decide)) | apply State.put_keeps (h.mono (by decide))
    | apply State.setPllB_keeps (h.mono (by decide))
    | (refine State.setBadger_keeps (h.mono (by decide)) (by intro hq; first | exact hq | (simp +zetaDelta [Badger.Shaped] at hq ⊢ <;> simp [hq]; done) | simpa +zetaDelta [Badger.Shaped] using hq) ?_)
    | (refine State.setConv_keeps (h.mono (by decide)) (by intro hq; first | exact hq | (simp +zetaDelta [Conv.Shaped] at hq ⊢ <;> simp [hq]; done) | simpa +zetaDelta [Conv.Shaped] using hq) ?_)
    | apply State.setHk_keeps (h.mono (by decide))
    | (refine State.setEvl_keeps (h.mono (by decide)) (by intro hq; first | exact hq | (simp [State.reset]; done) | simpa using hq) ?_)
    | apply State.noteClk_keeps (h.mono (by decide)) | apply keeps_ite (P := P) | apply keeps_foldl (P := P)
    | (extract_lets +onlyGivenNames x; refine (fun (hx : P x) => ?_) ?_; clear_value x; rotate_left; dsimp -zeta only [x])
    | (extract_lets +onlyGivenNames x) | split

theorem State.domOn_keeps (h : Keep P 539891124) {s : State} {d : Nat} (hs : P s) :
    P (State.domOn s d) := by
  unfold State.domOn
  with_reducible repeat' first
    | assumption | apply State.domBegin_keeps (h.mono (by decide)) | apply State.putFldBit_keeps (h.mono (by decide))
    | apply State.setOn_keeps (h.mono (by decide)) | apply keeps_ite (P := P)
    | (extract_lets +onlyGivenNames x; refine (fun (hx : P x) => ?_) ?_; clear_value x; rotate_left; dsimp -zeta only [x])
    | (extract_lets +onlyGivenNames x)

theorem State.standbyEnter_keeps (h : Keep P 481035284172) {s : State} (hs : P s) :
    P (State.standbyEnter s) := by
  unfold State.standbyEnter
  with_reducible repeat' first
    | assumption | apply State.domOff_keeps (h.mono (by decide)) | apply State.put_keeps (h.mono (by decide))
    | (refine State.setStart_keeps (h.mono (by decide)) (by intro hq; first | exact hq | (simp +zetaDelta [Start.Shaped] at hq ⊢ <;> simp [hq]; done) | simpa +zetaDelta [Start.Shaped] using hq) ?_)
    | apply State.setSup_keeps (h.mono (by decide))
    | (extract_lets +onlyGivenNames x; refine (fun (hx : P x) => ?_) ?_; clear_value x; rotate_left; dsimp -zeta only [x])
    | (extract_lets +onlyGivenNames x)

theorem State.standbyRequest_keeps (h : Keep P 481035284172) {s : State} (hs : P s) :
    P (State.standbyRequest s) := by
  unfold State.standbyRequest
  with_reducible repeat' first
    | assumption | apply State.standbyEnter_keeps (h.mono (by decide)) | apply State.put_keeps (h.mono (by decide))
    | apply keeps_ite (P := P)

end Sys2Proof.Machine
end

