-- ==== Sys2Proof/Laws/KeepOsdOps.lean ====
section
/-! SUPPORT. What the operations of Machine/OsdOps.lean keep (Laws/Keep.lean). -/

namespace Sys2Proof.Machine

variable {P : State → Prop}

theorem State.osdEnd_keeps (h : Keep P 481035284428) {s : State} {cause : Nat} (hs : P s) :
    P (State.osdEnd s cause) := by
  unfold State.osdEnd
  with_reducible repeat' first
    | assumption | (intro _) | apply State.domOff_keeps (h.mono (by decide)) | apply State.finalReply_keeps (h.mono (by decide))
    | apply State.irq_keeps (h.mono (by decide)) | apply State.put_keeps (h.mono (by decide))
    | apply State.setOsd_keeps (h.mono (by decide)) | apply keeps_foldl (P := P)
    | (extract_lets +onlyGivenNames x; refine (fun (hx : P x) => ?_) ?_; clear_value x; rotate_left; dsimp -zeta only [x])
    | (extract_lets +onlyGivenNames x) | split | (refine keeps_snd (P := P) ‹_› ?_) | (refine keeps_fst (P := P) ‹_› ?_)

theorem State.osdAbort_keeps (h : Keep P 481035284428) {s : State} {cause : Nat} (hs : P s) :
    P (State.osdAbort s cause) := by
  unfold State.osdAbort
  with_reducible repeat' first
    | assumption | apply State.osdEnd_keeps (h.mono (by decide)) | apply keeps_ite (P := P)

theorem State.osdGuard_keeps (h : Keep P 481035284428) {s : State} (hs : P s) :
    P (State.osdGuard s) := by
  unfold State.osdGuard
  with_reducible repeat' first
    | assumption | (intro _) | apply State.osdEnd_keeps (h.mono (by decide)) | apply keeps_ite (P := P)

theorem State.osdCheck_keeps (h : Keep P 481035284428) {s : State} (hs : P s) :
    P (State.osdCheck s) := by
  unfold State.osdCheck
  with_reducible repeat' first
    | assumption | apply State.osdGuard_keeps (h.mono (by decide)) | apply State.osdEnd_keeps (h.mono (by decide))
    | apply State.put_keeps (h.mono (by decide)) | apply State.setOsd_keeps (h.mono (by decide)) | apply keeps_ite (P := P)
    | (extract_lets +onlyGivenNames x; refine (fun (hx : P x) => ?_) ?_; clear_value x; rotate_left; dsimp -zeta only [x])
    | (extract_lets +onlyGivenNames x) | split | (refine keeps_snd (P := P) ‹_› ?_) | (refine keeps_fst (P := P) ‹_› ?_)

theorem State.osdStart_keeps (h : Keep P 481035288572) {s : State} {req : Option Tok} (hs : P s) :
    P (State.osdStart s req) := by
  unfold State.osdStart
  with_reducible repeat' first
    | assumption | (intro _) | apply State.osdCheck_keeps (h.mono (by decide)) | apply State.domOn_keeps (h.mono (by decide))
    | apply State.put_keeps (h.mono (by decide)) | apply State.wr_keeps (h.mono (by decide))
    | apply State.setOsd_keeps (h.mono (by decide)) | apply keeps_ite (P := P) | apply keeps_foldl (P := P)
    | (extract_lets +onlyGivenNames x; refine (fun (hx : P x) => ?_) ?_; clear_value x; rotate_left; dsimp -zeta only [x])
    | (extract_lets +onlyGivenNames x)

end Sys2Proof.Machine
end

