-- ==== Sys2Proof/Laws/KeepBadger.lean ====
section
/-! SUPPORT. What the operations of Machine/Badger.lean keep (Laws/Keep.lean). -/

namespace Sys2Proof.Machine

variable {P : State → Prop}

theorem State.bLog_keeps (h : Keep P 132) {s : State} {index : Nat} {typ : Nat} {code : Nat} {arg : Nat} (hs : P s) :
    P (State.bLog s index typ code arg) := by
  unfold State.bLog
  with_reducible repeat' first
    | assumption | apply State.log_keeps (h.mono (by decide))

theorem State.bDerived_keeps (h : Keep P 4) {s : State} (hs : P s) :
    P (State.bDerived s) := by
  unfold State.bDerived
  with_reducible repeat' first
    | assumption | apply State.putB_keeps (h.mono (by decide))
    | (extract_lets +onlyGivenNames x; refine (fun (hx : P x) => ?_) ?_; clear_value x; rotate_left; dsimp -zeta only [x])
    | (extract_lets +onlyGivenNames x)

theorem State.bMirror_keeps (h : Keep P 481035284444) {s : State} (hs : P s) :
    P (State.bMirror s) := by
  unfold State.bMirror
  with_reducible repeat' first
    | assumption | apply State.bDerived_keeps (h.mono (by decide)) | apply State.osdGuard_keeps (h.mono (by decide))
    | apply State.gatesFollow_keeps (h.mono (by decide))

theorem State.bRemove_keeps (h : Keep P 481035284172) {s : State} {g : Nat} (hs : P s) :
    P (State.bRemove s g) := by
  unfold State.bRemove
  with_reducible repeat' first
    | assumption | apply State.domOff_keeps (h.mono (by decide)) | apply State.putFldBit_keeps (h.mono (by decide))
    | (refine State.setBadger_keeps (h.mono (by decide)) (by intro hq; first | exact hq | (simp +zetaDelta [Badger.Shaped] at hq ⊢ <;> simp [hq]; done) | simpa +zetaDelta [Badger.Shaped] using hq) ?_)
    | apply keeps_ite (P := P)
    | (extract_lets +onlyGivenNames x; refine (fun (hx : P x) => ?_) ?_; clear_value x; rotate_left; dsimp -zeta only [x])
    | (extract_lets +onlyGivenNames x)

theorem State.ascBegin_keeps (h : Keep P 539891124) {s : State} {m : Nat} {code : Nat} (hs : P s) :
    P (State.ascBegin s m code) := by
  unfold State.ascBegin
  with_reducible repeat' first
    | assumption | apply State.bLog_keeps (h.mono (by decide)) | apply State.domOn_keeps (h.mono (by decide))
    | apply State.putFldBit_keeps (h.mono (by decide)) | apply State.put_keeps (h.mono (by decide)) | apply keeps_ite (P := P)
    | (extract_lets +onlyGivenNames x; refine (fun (hx : P x) => ?_) ?_; clear_value x; rotate_left; dsimp -zeta only [x])
    | (extract_lets +onlyGivenNames x)

theorem State.ascDecide_keeps (h : Keep P 539891124) {s : State} {code : Nat} (hs : P s) :
    P (State.ascDecide s code) := by
  unfold State.ascDecide
  with_reducible repeat' first
    | assumption | (intro _) | apply State.ascBegin_keeps (h.mono (by decide)) | apply State.put_keeps (h.mono (by decide))
    | apply keeps_ite (P := P) | apply keeps_foldl (P := P)
    | (extract_lets +onlyGivenNames x; refine (fun (hx : P x) => ?_) ?_; clear_value x; rotate_left; dsimp -zeta only [x])

theorem State.bRemoveAll_keeps (h : Keep P 481035284172) {s : State} {groups : List Nat} {code : Nat} (hs : P s) :
    P (State.bRemoveAll s groups code) := by
  unfold State.bRemoveAll
  with_reducible repeat' first
    | assumption | (intro _) | apply State.bRemove_keeps (h.mono (by decide)) | apply State.bLog_keeps (h.mono (by decide))
    | apply State.sstDcd_keeps (h.mono (by decide)) | apply keeps_foldl (P := P)
    | (extract_lets +onlyGivenNames x; refine (fun (hx : P x) => ?_) ?_; clear_value x; rotate_left; dsimp -zeta only [x])
    | (extract_lets +onlyGivenNames x)

theorem State.stopCheck_keeps (h : Keep P 117441156) {s : State} (hs : P s) :
    P (State.stopCheck s) := by
  unfold State.stopCheck
  with_reducible repeat' first
    | assumption | apply State.bLog_keeps (h.mono (by decide)) | apply State.sstDone_keeps (h.mono (by decide))
    | apply State.put_keeps (h.mono (by decide)) | apply keeps_ite (P := P)

theorem State.enterStop_keeps (h : Keep P 481035288572) {s : State} {st : Nat} {code : Nat} (hs : P s) :
    P (State.enterStop s st code) := by
  unfold State.enterStop
  with_reducible repeat' first
    | assumption | apply State.stopCheck_keeps (h.mono (by decide)) | apply State.bRemoveAll_keeps (h.mono (by decide))
    | apply State.ascDecide_keeps (h.mono (by decide)) | apply State.bLog_keeps (h.mono (by decide))
    | apply State.sstEnter_keeps (h.mono (by decide)) | apply State.put_keeps (h.mono (by decide)) | apply keeps_ite (P := P)
    | (extract_lets +onlyGivenNames x; refine (fun (hx : P x) => ?_) ?_; clear_value x; rotate_left; dsimp -zeta only [x])
    | (extract_lets +onlyGivenNames x)

theorem State.enterSs1_keeps (h : Keep P 117965316) {s : State} (hs : P s) :
    P (State.enterSs1 s) := by
  unfold State.enterSs1
  with_reducible repeat' first
    | assumption | apply State.sstEnter_keeps (h.mono (by decide)) | apply State.put_keeps (h.mono (by decide))
    | (refine State.setBadger_keeps (h.mono (by decide)) (by intro hq; first | exact hq | (simp +zetaDelta [Badger.Shaped] at hq ⊢ <;> simp [hq]; done) | simpa +zetaDelta [Badger.Shaped] using hq) ?_)
    | (extract_lets +onlyGivenNames x; refine (fun (hx : P x) => ?_) ?_; clear_value x; rotate_left; dsimp -zeta only [x])
    | (extract_lets +onlyGivenNames x)

theorem State.firstNow_keeps (h : Keep P 524288) {s : State} (hs : P s) :
    P (State.firstNow s) := by
  unfold State.firstNow
  with_reducible repeat' first
    | assumption
    | (refine State.setBadger_keeps (h.mono (by decide)) (by intro hq; first | exact hq | (simp +zetaDelta [Badger.Shaped] at hq ⊢ <;> simp [hq]; done) | simpa +zetaDelta [Badger.Shaped] using hq) ?_)
    | (extract_lets +onlyGivenNames x)

theorem State.bCause_keeps (h : Keep P 524292) {s : State} {code : Nat} (hs : P s) :
    P (State.bCause s code) := by
  unfold State.bCause
  with_reducible repeat' first
    | assumption | apply State.firstNow_keeps (h.mono (by decide)) | apply State.putFldBit_keeps (h.mono (by decide))
    | apply State.put_keeps (h.mono (by decide)) | apply keeps_ite (P := P)
    | (extract_lets +onlyGivenNames x; refine (fun (hx : P x) => ?_) ?_; clear_value x; rotate_left; dsimp -zeta only [x])
    | (extract_lets +onlyGivenNames x)

theorem State.bSource_keeps (h : Keep P 481035288572) {s : State} {code : Nat} {r : Nat} (hs : P s) :
    P (State.bSource s code r) := by
  unfold State.bSource
  with_reducible repeat' first
    | assumption | apply State.bCause_keeps (h.mono (by decide)) | apply State.enterSs1_keeps (h.mono (by decide))
    | apply State.enterStop_keeps (h.mono (by decide)) | apply State.bMirror_keeps (h.mono (by decide))
    | apply State.bLog_keeps (h.mono (by decide)) | apply keeps_ite (P := P)
    | (extract_lets +onlyGivenNames x; refine (fun (hx : P x) => ?_) ?_; clear_value x; rotate_left; dsimp -zeta only [x])
    | (extract_lets +onlyGivenNames x)

theorem State.sealRead_keeps (h : Keep P 481035284444) {s : State} {d0 : BitVec 24} {d1 : BitVec 24} {d2 : BitVec 24} {u0 : BitVec 24} {u1 : BitVec 24} {u2 : BitVec 24} (hs : P s) :
    P (State.sealRead s d0 d1 d2 u0 u1 u2) := by
  unfold State.sealRead
  with_reducible repeat' first
    | assumption | apply State.bMirror_keeps (h.mono (by decide)) | apply State.bLog_keeps (h.mono (by decide))
    | apply State.hldEnter_keeps (h.mono (by decide)) | apply State.putB_keeps (h.mono (by decide))
    | apply State.put_keeps (h.mono (by decide)) | apply keeps_ite (P := P)
    | (extract_lets +onlyGivenNames x; refine (fun (hx : P x) => ?_) ?_; clear_value x; rotate_left; dsimp -zeta only [x])
    | (extract_lets +onlyGivenNames x)

theorem execSealRead_keeps (h : Keep P 481035284444) {d0 : BitVec 24} {d1 : BitVec 24} {d2 : BitVec 24} {u0 : BitVec 24} {u1 : BitVec 24} {u2 : BitVec 24} {s : State} (hs : P s) :
    Answers P (execSealRead d0 d1 d2 u0 u1 u2 s) := by
  unfold execSealRead
  refine ⟨_, rfl, ?_⟩
  with_reducible repeat' first
    | assumption | apply State.sealRead_keeps (h.mono (by decide))

theorem State.clockCheck_keeps (h : Keep P 481035288572) {s : State} (hs : P s) :
    P (State.clockCheck s) := by
  unfold State.clockCheck
  with_reducible repeat' first
    | assumption | apply State.bSource_keeps (h.mono (by decide))
    | (refine State.setBadger_keeps (h.mono (by decide)) (by intro hq; first | exact hq | (simp +zetaDelta [Badger.Shaped] at hq ⊢ <;> simp [hq]; done) | simpa +zetaDelta [Badger.Shaped] using hq) ?_)
    | apply keeps_ite (P := P)
    | (extract_lets +onlyGivenNames x; refine (fun (hx : P x) => ?_) ?_; clear_value x; rotate_left; dsimp -zeta only [x])
    | (extract_lets +onlyGivenNames x)

theorem execBadgerClockCheck_keeps (h : Keep P 481035288572) {s : State} (hs : P s) :
    Answers P (execBadgerClockCheck s) := by
  unfold execBadgerClockCheck
  refine ⟨_, rfl, ?_⟩
  with_reducible repeat' first
    | assumption | apply State.clockCheck_keeps (h.mono (by decide))

theorem State.latchCheck_keeps (h : Keep P 481035288572) {s : State} (hs : P s) :
    P (State.latchCheck s) := by
  unfold State.latchCheck
  with_reducible repeat' first
    | assumption | apply State.bSource_keeps (h.mono (by decide))
    | (refine State.setBadger_keeps (h.mono (by decide)) (by intro hq; first | exact hq | (simp +zetaDelta [Badger.Shaped] at hq ⊢ <;> simp [hq]; done) | simpa +zetaDelta [Badger.Shaped] using hq) ?_)
    | apply keeps_ite (P := P)
    | (extract_lets +onlyGivenNames x; refine (fun (hx : P x) => ?_) ?_; clear_value x; rotate_left; dsimp -zeta only [x])
    | (extract_lets +onlyGivenNames x)

theorem execLatchSelfCheck_keeps (h : Keep P 481035288572) {s : State} (hs : P s) :
    Answers P (execLatchSelfCheck s) := by
  unfold execLatchSelfCheck
  refine ⟨_, rfl, ?_⟩
  with_reducible repeat' first
    | assumption | apply State.latchCheck_keeps (h.mono (by decide))

theorem State.hsmFrom_keeps (h : Keep P 4) {s : State} {ini : Initiator} {f : State → State} (hs : P s) (hf : ∀ (y0 : State), P y0 → P (f y0)) :
    P (State.hsmFrom s ini f) := by
  unfold State.hsmFrom
  with_reducible repeat' first
    | assumption | (apply hf) | apply State.inc_keeps (h.mono (by decide)) | apply keeps_ite (P := P) | split
    | (refine keeps_snd (P := P) ‹_› ?_) | (refine keeps_fst (P := P) ‹_› ?_)

theorem State.hsmAck_keeps (h : Keep P 481035288572) {s : State} {v : Word} (hs : P s) :
    P (State.hsmAck s v) := by
  unfold State.hsmAck
  with_reducible repeat' first
    | assumption | (intro _) | apply State.bCause_keeps (h.mono (by decide)) | apply State.enterStop_keeps (h.mono (by decide))
    | apply State.bMirror_keeps (h.mono (by decide)) | apply State.bLog_keeps (h.mono (by decide))
    | apply State.inc_keeps (h.mono (by decide)) | apply State.put_keeps (h.mono (by decide))
    | (refine State.setBadger_keeps (h.mono (by decide)) (by intro hq; first | exact hq | (simp +zetaDelta [Badger.Shaped] at hq ⊢ <;> simp [hq]; done) | simpa +zetaDelta [Badger.Shaped] using hq) ?_)
    | apply keeps_ite (P := P) | apply keeps_foldl (P := P)
    | (extract_lets +onlyGivenNames x; refine (fun (hx : P x) => ?_) ?_; clear_value x; rotate_left; dsimp -zeta only [x])
    | (extract_lets +onlyGivenNames x) | split | (refine keeps_snd (P := P) ‹_› ?_) | (refine keeps_fst (P := P) ‹_› ?_)

theorem execHsmAck_keeps (h : Keep P 481035288572) {ini : Initiator} {val : Word} {s : State} (hs : P s) :
    Answers P (execHsmAck ini val s) := by
  unfold execHsmAck
  refine ⟨_, rfl, ?_⟩
  with_reducible repeat' first
    | assumption | (intro _) | apply State.hsmAck_keeps (h.mono (by decide)) | apply State.hsmFrom_keeps (h.mono (by decide))
    | (extract_lets +onlyGivenNames x; refine (fun (hx : P x) => ?_) ?_; clear_value x; rotate_left; dsimp -zeta only [x])

theorem execSinPadChange_keeps (h : Keep P 524288) {ch : Fin 8} {level : Bool} {s : State} (hs : P s) :
    Answers P (execSinPadChange ch level s) := by
  unfold execSinPadChange
  refine ⟨_, rfl, ?_⟩
  with_reducible repeat' first
    | assumption
    | (refine State.setBadger_keeps (h.mono (by decide)) (by intro hq; first | exact hq | (simp +zetaDelta [Badger.Shaped] at hq ⊢ <;> simp [hq]; done) | simpa +zetaDelta [Badger.Shaped] using hq) ?_)
    | apply keeps_ite (P := P) | (extract_lets +onlyGivenNames x)

theorem State.sinDiscrepancy_keeps (h : Keep P 481035284444) {s : State} {i : Nat} (hs : P s) :
    P (State.sinDiscrepancy s i) := by
  unfold State.sinDiscrepancy
  with_reducible repeat' first
    | assumption | apply State.bMirror_keeps (h.mono (by decide)) | apply State.bLog_keeps (h.mono (by decide))
    | apply State.putFldBit_keeps (h.mono (by decide))
    | (refine State.setBadger_keeps (h.mono (by decide)) (by intro hq; first | exact hq | (simp +zetaDelta [Badger.Shaped] at hq ⊢ <;> simp [hq]; done) | simpa +zetaDelta [Badger.Shaped] using hq) ?_)
    | apply keeps_ite (P := P)
    | (extract_lets +onlyGivenNames x; refine (fun (hx : P x) => ?_) ?_; clear_value x; rotate_left; dsimp -zeta only [x])
    | (extract_lets +onlyGivenNames x) | split | (refine keeps_snd (P := P) ‹_› ?_) | (refine keeps_fst (P := P) ‹_› ?_)

theorem execSinDiscrepancy_keeps (h : Keep P 481035284444) {i : Fin 4} {s : State} (hs : P s) :
    Answers P (execSinDiscrepancy i s) := by
  unfold execSinDiscrepancy
  refine ⟨_, rfl, ?_⟩
  with_reducible repeat' first
    | assumption | apply State.sinDiscrepancy_keeps (h.mono (by decide))

theorem State.sinAccept_keeps (h : Keep P 481035288572) {s : State} {ch : Nat} (hs : P s) :
    P (State.sinAccept s ch) := by
  unfold State.sinAccept
  with_reducible repeat' first
    | assumption | apply State.sinDiscrepancy_keeps (h.mono (by decide)) | apply State.bSource_keeps (h.mono (by decide))
    | apply State.bMirror_keeps (h.mono (by decide)) | apply State.putFldBit_keeps (h.mono (by decide))
    | (refine State.setBadger_keeps (h.mono (by decide)) (by intro hq; first | exact hq | (simp +zetaDelta [Badger.Shaped] at hq ⊢ <;> simp [hq]; done) | simpa +zetaDelta [Badger.Shaped] using hq) ?_)
    | apply keeps_ite (P := P)
    | (extract_lets +onlyGivenNames x; refine (fun (hx : P x) => ?_) ?_; clear_value x; rotate_left; dsimp -zeta only [x])
    | (extract_lets +onlyGivenNames x) | split | (refine keeps_snd (P := P) ‹_› ?_) | (refine keeps_fst (P := P) ‹_› ?_)

theorem execSinAccept_keeps (h : Keep P 481035288572) {ch : Fin 8} {s : State} (hs : P s) :
    Answers P (execSinAccept ch s) := by
  unfold execSinAccept
  refine ⟨_, rfl, ?_⟩
  with_reducible repeat' first
    | assumption | apply State.sinAccept_keeps (h.mono (by decide))

theorem State.setBspd_keeps (h : Keep P 524288) {s : State} {c : Nat} {b : Bspd} (hs : P s) :
    P (State.setBspd s c b) := by
  unfold State.setBspd
  with_reducible repeat' first
    | assumption
    | (refine State.setBadger_keeps (h.mono (by decide)) (by intro hq; first | exact hq | (simp +zetaDelta [Badger.Shaped] at hq ⊢ <;> simp [hq]; done) | simpa +zetaDelta [Badger.Shaped] using hq) ?_)
    | (extract_lets +onlyGivenNames x)

theorem execBspdPadChange_keeps (h : Keep P 524288) {ch : Fin 4} {level : Bool} {s : State} (hs : P s) :
    Answers P (execBspdPadChange ch level s) := by
  unfold execBspdPadChange
  refine ⟨_, rfl, ?_⟩
  with_reducible repeat' first
    | assumption | apply State.setBspd_keeps (h.mono (by decide)) | apply keeps_ite (P := P)
    | (extract_lets +onlyGivenNames x; refine (fun (hx : P x) => ?_) ?_; clear_value x; rotate_left; dsimp -zeta only [x])
    | (extract_lets +onlyGivenNames x)

theorem State.spdMirror_keeps (h : Keep P 4) {s : State} {c : Nat} (hs : P s) :
    P (State.spdMirror s c) := by
  unfold State.spdMirror
  with_reducible repeat' first
    | assumption | apply State.put_keeps (h.mono (by decide)) | apply keeps_ite (P := P)

theorem State.bspdEdge_keeps (h : Keep P 524292) {s : State} {c : Nat} (hs : P s) :
    P (State.bspdEdge s c) := by
  unfold State.bspdEdge
  with_reducible repeat' first
    | assumption | apply State.spdMirror_keeps (h.mono (by decide)) | apply State.setBspd_keeps (h.mono (by decide))
    | apply keeps_ite (P := P)
    | (extract_lets +onlyGivenNames x; refine (fun (hx : P x) => ?_) ?_; clear_value x; rotate_left; dsimp -zeta only [x])
    | (extract_lets +onlyGivenNames x) | split | (refine keeps_snd (P := P) ‹_› ?_) | (refine keeps_fst (P := P) ‹_› ?_)

theorem execBspdEdge_keeps (h : Keep P 524292) {ch : Fin 4} {s : State} (hs : P s) :
    Answers P (execBspdEdge ch s) := by
  unfold execBspdEdge
  refine ⟨_, rfl, ?_⟩
  with_reducible repeat' first
    | assumption | apply State.bspdEdge_keeps (h.mono (by decide))

theorem State.bspdTimeout_keeps (h : Keep P 4) {s : State} {ch : Nat} (hs : P s) :
    P (State.bspdTimeout s ch) := by
  unfold State.bspdTimeout
  with_reducible repeat' first
    | assumption | apply State.spdMirror_keeps (h.mono (by decide)) | apply keeps_ite (P := P) | split
    | (refine keeps_snd (P := P) ‹_› ?_) | (refine keeps_fst (P := P) ‹_› ?_)

theorem execBspdSpeedTimeout_keeps (h : Keep P 4) {ch : Fin 4} {s : State} (hs : P s) :
    Answers P (execBspdSpeedTimeout ch s) := by
  unfold execBspdSpeedTimeout
  refine ⟨_, rfl, ?_⟩
  with_reducible repeat' first
    | assumption | apply State.bspdTimeout_keeps (h.mono (by decide))

theorem State.bspdPlaus_keeps (h : Keep P 481035288572) {s : State} {m : Nat} (hs : P s) :
    P (State.bspdPlaus s m) := by
  unfold State.bspdPlaus
  with_reducible repeat' first
    | assumption | apply State.bSource_keeps (h.mono (by decide)) | apply keeps_ite (P := P) | split
    | (refine keeps_snd (P := P) ‹_› ?_) | (refine keeps_fst (P := P) ‹_› ?_)

theorem execBspdPlausibility_keeps (h : Keep P 481035288572) {m : Fin 2} {s : State} (hs : P s) :
    Answers P (execBspdPlausibility m s) := by
  unfold execBspdPlausibility
  refine ⟨_, rfl, ?_⟩
  with_reducible repeat' first
    | assumption | apply State.bspdPlaus_keeps (h.mono (by decide))

theorem State.badgerTick_keeps (h : Keep P 524288) {s : State} (hs : P s) :
    P (State.badgerTick s) := by
  unfold State.badgerTick
  with_reducible repeat' first
    | assumption
    | (refine State.setBadger_keeps (h.mono (by decide)) (by intro hq; first | exact hq | (simp +zetaDelta [Badger.Shaped] at hq ⊢ <;> simp [hq]; done) | simpa +zetaDelta [Badger.Shaped] using hq) ?_)
    | apply keeps_ite (P := P)
    | (extract_lets +onlyGivenNames x; refine (fun (hx : P x) => ?_) ?_; clear_value x; rotate_left; dsimp -zeta only [x])
    | (extract_lets +onlyGivenNames x) | split | (refine keeps_snd (P := P) ‹_› ?_) | (refine keeps_fst (P := P) ‹_› ?_)

theorem State.envCheck_keeps (h : Keep P 524292) {s : State} {m : Nat} (hs : P s) :
    P (State.envCheck s m).1 := by
  unfold State.envCheck
  with_reducible repeat' first
    | assumption | apply State.put_keeps (h.mono (by decide))
    | (refine State.setBadger_keeps (h.mono (by decide)) (by intro hq; first | exact hq | (simp +zetaDelta [Badger.Shaped] at hq ⊢ <;> simp [hq]; done) | simpa +zetaDelta [Badger.Shaped] using hq) ?_)
    | apply keeps_ite (P := P) | apply keeps_iteFst (P := P)
    | (extract_lets +onlyGivenNames x; refine (fun (hx : P x) => ?_) ?_; clear_value x; rotate_left; dsimp -zeta only [x])
    | (extract_lets +onlyGivenNames x)

theorem State.ascEval_keeps (h : Keep P 481035288572) {s : State} {m : Nat} (hs : P s) :
    P (State.ascEval s m) := by
  unfold State.ascEval
  with_reducible repeat' first
    | assumption | apply State.ascBegin_keeps (h.mono (by decide)) | apply State.bRemove_keeps (h.mono (by decide))
    | apply State.bLog_keeps (h.mono (by decide)) | apply State.put_keeps (h.mono (by decide)) | apply keeps_ite (P := P)
    | (extract_lets +onlyGivenNames x; refine (fun (hx : P x) => ?_) ?_; clear_value x; rotate_left; dsimp -zeta only [x])
    | (extract_lets +onlyGivenNames x)

theorem State.bEvaluate_keeps (h : Keep P 481035288572) {s : State} (hs : P s) :
    P (State.bEvaluate s) := by
  unfold State.bEvaluate
  with_reducible repeat' first
    | assumption | apply State.ascEval_keeps (h.mono (by decide)) | apply State.envCheck_keeps (h.mono (by decide))
    | apply State.bSource_keeps (h.mono (by decide)) | apply State.enterStop_keeps (h.mono (by decide))
    | apply State.stopCheck_keeps (h.mono (by decide)) | apply State.bMirror_keeps (h.mono (by decide))
    | (refine State.setBadger_keeps (h.mono (by decide)) (by intro hq; first | exact hq | (simp +zetaDelta [Badger.Shaped] at hq ⊢ <;> simp [hq]; done) | simpa +zetaDelta [Badger.Shaped] using hq) ?_)
    | apply keeps_ite (P := P)
    | (extract_lets +onlyGivenNames x; refine (fun (hx : P x) => ?_) ?_; clear_value x; rotate_left; dsimp -zeta only [x])
    | (extract_lets +onlyGivenNames x) | split | (refine keeps_snd (P := P) ‹_› ?_) | (refine keeps_fst (P := P) ‹_› ?_)

theorem execBadgerEvaluation_keeps (h : Keep P 481035288572) {s : State} (hs : P s) :
    Answers P (execBadgerEvaluation s) := by
  unfold execBadgerEvaluation
  refine ⟨_, rfl, ?_⟩
  with_reducible repeat' first
    | assumption | apply State.bEvaluate_keeps (h.mono (by decide))

theorem State.ss1Timeout_keeps (h : Keep P 481035288572) {s : State} (hs : P s) :
    P (State.ss1Timeout s) := by
  unfold State.ss1Timeout
  with_reducible repeat' first
    | assumption | apply State.bSource_keeps (h.mono (by decide)) | apply keeps_ite (P := P)

theorem execSs1Timeout_keeps (h : Keep P 481035288572) {s : State} (hs : P s) :
    Answers P (execSs1Timeout s) := by
  unfold execSs1Timeout
  refine ⟨_, rfl, ?_⟩
  with_reducible repeat' first
    | assumption | apply State.ss1Timeout_keeps (h.mono (by decide))

theorem State.setWd_keeps (h : Keep P 524288) {s : State} {n : Nat} {w : WdTask} (hs : P s) :
    P (State.setWd s n w) := by
  unfold State.setWd
  with_reducible repeat' first
    | assumption
    | (refine State.setBadger_keeps (h.mono (by decide)) (by intro hq; first | exact hq | (simp +zetaDelta [Badger.Shaped] at hq ⊢ <;> simp [hq]; done) | simpa +zetaDelta [Badger.Shaped] using hq) ?_)
    | (extract_lets +onlyGivenNames x)

theorem State.wdError_keeps (h : Keep P 481035288572) {s : State} {n : Nat} (hs : P s) :
    P (State.wdError s n) := by
  unfold State.wdError
  with_reducible repeat' first
    | assumption | apply State.bSource_keeps (h.mono (by decide)) | apply State.bMirror_keeps (h.mono (by decide))
    | apply State.bLog_keeps (h.mono (by decide)) | apply State.inc_keeps (h.mono (by decide)) | apply keeps_ite (P := P)
    | (extract_lets +onlyGivenNames x; refine (fun (hx : P x) => ?_) ?_; clear_value x; rotate_left; dsimp -zeta only [x])
    | (extract_lets +onlyGivenNames x)

theorem State.wdQuestion_keeps (h : Keep P 481035288572) {s : State} {n : Nat} (hs : P s) :
    P (State.wdQuestion s n) := by
  unfold State.wdQuestion
  with_reducible repeat' first
    | assumption | apply State.wdError_keeps (h.mono (by decide)) | apply State.setWd_keeps (h.mono (by decide))
    | apply State.put_keeps (h.mono (by decide)) | apply keeps_ite (P := P)
    | (extract_lets +onlyGivenNames x; refine (fun (hx : P x) => ?_) ?_; clear_value x; rotate_left; dsimp -zeta only [x])
    | (extract_lets +onlyGivenNames x)

theorem execWdQuestion_keeps (h : Keep P 481035288572) {n : Fin 8} {s : State} (hs : P s) :
    Answers P (execWdQuestion n s) := by
  unfold execWdQuestion
  refine ⟨_, rfl, ?_⟩
  with_reducible repeat' first
    | assumption | apply State.wdQuestion_keeps (h.mono (by decide))

theorem State.wdAnswer_keeps (h : Keep P 481035288572) {s : State} {core : Nat} {n : Nat} {v : Word} (hs : P s) :
    P (State.wdAnswer s core n v) := by
  unfold State.wdAnswer
  with_reducible repeat' first
    | assumption | apply State.wdQuestion_keeps (h.mono (by decide)) | apply State.wdError_keeps (h.mono (by decide))
    | apply State.setWd_keeps (h.mono (by decide)) | apply State.bMirror_keeps (h.mono (by decide))
    | apply State.put_keeps (h.mono (by decide)) | apply keeps_ite (P := P)
    | (extract_lets +onlyGivenNames x; refine (fun (hx : P x) => ?_) ?_; clear_value x; rotate_left; dsimp -zeta only [x])
    | (extract_lets +onlyGivenNames x)

theorem execWdAnswer_keeps (h : Keep P 481035288572) {ini : Initiator} {n : Fin 8} {val : Word} {s : State} (hs : P s) :
    Answers P (execWdAnswer ini n val s) := by
  unfold execWdAnswer
  refine ⟨_, rfl, ?_⟩
  with_reducible repeat' first
    | assumption | (intro _) | apply State.wdAnswer_keeps (h.mono (by decide)) | apply State.hsmFrom_keeps (h.mono (by decide))
    | (extract_lets +onlyGivenNames x; refine (fun (hx : P x) => ?_) ?_; clear_value x; rotate_left; dsimp -zeta only [x])
    | split | (refine keeps_snd (P := P) ‹_› ?_) | (refine keeps_fst (P := P) ‹_› ?_)

theorem State.wdCfgWrite_keeps (h : Keep P 4) {s : State} {n : Nat} {v : Word} (hs : P s) :
    P (State.wdCfgWrite s n v) := by
  unfold State.wdCfgWrite
  with_reducible repeat' first
    | assumption | apply State.wr_keeps (h.mono (by decide)) | apply keeps_ite (P := P)

theorem State.badgerDue_keeps (h : Keep P 481035288572) {s : State} (hs : P s) :
    P (State.badgerDue s) := by
  unfold State.badgerDue
  with_reducible repeat' first
    | assumption | (intro _) | apply State.wdQuestion_keeps (h.mono (by decide))
    | apply State.ss1Timeout_keeps (h.mono (by decide)) | apply State.bEvaluate_keeps (h.mono (by decide))
    | apply State.bspdPlaus_keeps (h.mono (by decide)) | apply State.bspdEdge_keeps (h.mono (by decide))
    | apply State.spdMirror_keeps (h.mono (by decide)) | apply State.sinAccept_keeps (h.mono (by decide))
    | apply State.sinDiscrepancy_keeps (h.mono (by decide)) | apply State.latchCheck_keeps (h.mono (by decide))
    | apply State.clockCheck_keeps (h.mono (by decide)) | apply State.bDerived_keeps (h.mono (by decide))
    | apply keeps_ite (P := P) | apply keeps_foldl (P := P)
    | (extract_lets +onlyGivenNames x; refine (fun (hx : P x) => ?_) ?_; clear_value x; rotate_left; dsimp -zeta only [x])
    | (extract_lets +onlyGivenNames x)

theorem State.bRefuse_keeps (h : Keep P 4) {s : State} (hs : P s) :
    P (State.bRefuse s) := by
  unfold State.bRefuse
  with_reducible repeat' first
    | assumption | apply State.inc_keeps (h.mono (by decide))

theorem State.hsmEnable_keeps (h : Keep P 481035288572) {s : State} {mask : Nat} (hs : P s) :
    P (State.hsmEnable s mask) := by
  unfold State.hsmEnable
  with_reducible repeat' first
    | assumption | (intro _) | apply State.bRefuse_keeps (h.mono (by decide)) | apply State.badgerDue_keeps (h.mono (by decide))
    | apply State.bMirror_keeps (h.mono (by decide)) | apply State.bLog_keeps (h.mono (by decide))
    | apply State.domOn_keeps (h.mono (by decide)) | apply State.putFldBit_keeps (h.mono (by decide)) | apply keeps_ite (P := P)
    | apply keeps_foldl (P := P)
    | (extract_lets +onlyGivenNames x; refine (fun (hx : P x) => ?_) ?_; clear_value x; rotate_left; dsimp -zeta only [x])
    | (extract_lets +onlyGivenNames x)

theorem execHsmEnable_keeps (h : Keep P 481035288572) {ini : Initiator} {mask : BitVec 4} {s : State} (hs : P s) :
    Answers P (execHsmEnable ini mask s) := by
  unfold execHsmEnable
  refine ⟨_, rfl, ?_⟩
  with_reducible repeat' first
    | assumption | (intro _) | apply State.hsmEnable_keeps (h.mono (by decide)) | apply State.hsmFrom_keeps (h.mono (by decide))
    | (extract_lets +onlyGivenNames x; refine (fun (hx : P x) => ?_) ?_; clear_value x; rotate_left; dsimp -zeta only [x])

theorem State.hsmRelease_keeps (h : Keep P 481035284444) {s : State} {mask : Nat} (hs : P s) :
    P (State.hsmRelease s mask) := by
  unfold State.hsmRelease
  with_reducible repeat' first
    | assumption | (intro _) | apply State.bRemove_keeps (h.mono (by decide)) | apply State.bMirror_keeps (h.mono (by decide))
    | apply State.bLog_keeps (h.mono (by decide)) | apply keeps_ite (P := P) | apply keeps_foldl (P := P)
    | (extract_lets +onlyGivenNames x; refine (fun (hx : P x) => ?_) ?_; clear_value x; rotate_left; dsimp -zeta only [x])
    | (extract_lets +onlyGivenNames x)

theorem execHsmRelease_keeps (h : Keep P 481035284444) {ini : Initiator} {mask : BitVec 4} {s : State} (hs : P s) :
    Answers P (execHsmRelease ini mask s) := by
  unfold execHsmRelease
  refine ⟨_, rfl, ?_⟩
  with_reducible repeat' first
    | assumption | (intro _) | apply State.hsmRelease_keeps (h.mono (by decide))
    | apply State.hsmFrom_keeps (h.mono (by decide))
    | (extract_lets +onlyGivenNames x; refine (fun (hx : P x) => ?_) ?_; clear_value x; rotate_left; dsimp -zeta only [x])

theorem execHsmSs1_keeps (h : Keep P 481035288572) {ini : Initiator} {s : State} (hs : P s) :
    Answers P (execHsmSs1 ini s) := by
  unfold execHsmSs1
  refine ⟨_, rfl, ?_⟩
  with_reducible repeat' first
    | assumption | (intro _) | apply State.hsmFrom_keeps (h.mono (by decide)) | apply State.bSource_keeps (h.mono (by decide))
    | (extract_lets +onlyGivenNames x; refine (fun (hx : P x) => ?_) ?_; clear_value x; rotate_left; dsimp -zeta only [x])

theorem execHsmSto_keeps (h : Keep P 481035288572) {ini : Initiator} {s : State} (hs : P s) :
    Answers P (execHsmSto ini s) := by
  unfold execHsmSto
  refine ⟨_, rfl, ?_⟩
  with_reducible repeat' first
    | assumption | (intro _) | apply State.hsmFrom_keeps (h.mono (by decide)) | apply State.bSource_keeps (h.mono (by decide))
    | (extract_lets +onlyGivenNames x; refine (fun (hx : P x) => ?_) ?_; clear_value x; rotate_left; dsimp -zeta only [x])

theorem State.hsmRestart_keeps (h : Keep P 481035288572) {s : State} (hs : P s) :
    P (State.hsmRestart s) := by
  unfold State.hsmRestart
  with_reducible repeat' first
    | assumption | apply State.bRefuse_keeps (h.mono (by decide)) | apply State.badgerDue_keeps (h.mono (by decide))
    | apply State.bMirror_keeps (h.mono (by decide)) | apply State.bLog_keeps (h.mono (by decide))
    | apply State.restartPermitted_keeps (h.mono (by decide)) | apply State.put_keeps (h.mono (by decide))
    | apply State.wr_keeps (h.mono (by decide)) | apply keeps_ite (P := P)
    | (extract_lets +onlyGivenNames x; refine (fun (hx : P x) => ?_) ?_; clear_value x; rotate_left; dsimp -zeta only [x])
    | (extract_lets +onlyGivenNames x)

theorem execHsmRestart_keeps (h : Keep P 481035288572) {ini : Initiator} {s : State} (hs : P s) :
    Answers P (execHsmRestart ini s) := by
  unfold execHsmRestart
  refine ⟨_, rfl, ?_⟩
  with_reducible repeat' first
    | assumption | (intro _) | apply State.hsmRestart_keeps (h.mono (by decide))
    | apply State.hsmFrom_keeps (h.mono (by decide))
    | (extract_lets +onlyGivenNames x; refine (fun (hx : P x) => ?_) ?_; clear_value x; rotate_left; dsimp -zeta only [x])

theorem State.hsmReq_keeps (h : Keep P 481035288572) {s : State} {v : Word} (hs : P s) :
    P (State.hsmReq s v) := by
  unfold State.hsmReq
  with_reducible repeat' first
    | assumption | apply State.hsmRestart_keeps (h.mono (by decide)) | apply State.hsmRelease_keeps (h.mono (by decide))
    | apply State.hsmEnable_keeps (h.mono (by decide)) | apply State.bRefuse_keeps (h.mono (by decide))
    | apply State.bSource_keeps (h.mono (by decide)) | apply keeps_ite (P := P)
    | (extract_lets +onlyGivenNames x; refine (fun (hx : P x) => ?_) ?_; clear_value x; rotate_left; dsimp -zeta only [x])
    | (extract_lets +onlyGivenNames x)

theorem execStoReadback_keeps (h : Keep P 481035288572) {forced : BitVec 4} {good : BitVec 4} {s : State} (hs : P s) :
    Answers P (execStoReadback forced good s) := by
  unfold execStoReadback
  refine ⟨_, rfl, ?_⟩
  with_reducible repeat' first
    | assumption | (intro _) | apply State.bSource_keeps (h.mono (by decide)) | apply keeps_ite (P := P)
    | (extract_lets +onlyGivenNames x; refine (fun (hx : P x) => ?_) ?_; clear_value x; rotate_left; dsimp -zeta only [x])
    | (extract_lets +onlyGivenNames x)

end Sys2Proof.Machine
end

