-- ==== Sys2Proof/Laws/KeepCanOps.lean ====
section
/-! SUPPORT. What the operations of Machine/CanOps.lean keep (Laws/Keep.lean). -/

namespace Sys2Proof.Machine

variable {P : State → Prop}

theorem State.setCan_keeps (h : Keep P 8589934592) {s : State} {n : Nat} {c : Can} (hs : P s) :
    P (State.setCan s n c) := by
  unfold State.setCan
  with_reducible repeat' first
    | assumption
    | (refine State.setCans_keeps (h.mono (by decide)) (by intro hq; first | exact hq | (simp +zetaDelta at hq ⊢ <;> simp [hq]; done) | simpa +zetaDelta using hq) ?_)

theorem State.canFlag_keeps (h : Keep P 260) {s : State} {n : Nat} {bit : Nat} (hs : P s) :
    P (State.canFlag s n bit) := by
  unfold State.canFlag
  with_reducible repeat' first
    | assumption | apply State.irqIf_keeps (h.mono (by decide)) | apply State.wr_keeps (h.mono (by decide))
    | (extract_lets +onlyGivenNames x; refine (fun (hx : P x) => ?_) ?_; clear_value x; rotate_left; dsimp -zeta only [x])
    | (extract_lets +onlyGivenNames x)

theorem State.canRamWrite_keeps (h : Keep P 268) {s : State} {a : Nat} {v : List Byte} (hs : P s) :
    P (State.canRamWrite s a v) := by
  unfold State.canRamWrite
  with_reducible repeat' first
    | assumption | apply State.canFlag_keeps (h.mono (by decide)) | apply State.wrBytes_keeps (h.mono (by decide)) | split
    | (refine keeps_snd (P := P) ‹_› ?_) | (refine keeps_fst (P := P) ‹_› ?_)

theorem State.canSetRes_keeps (h : Keep P 260) {s : State} {n : Nat} {b : Nat} {v : Nat} (hs : P s) :
    P (State.canSetRes s n b v) := by
  unfold State.canSetRes
  with_reducible repeat' first
    | assumption | apply State.canFlag_keeps (h.mono (by decide)) | apply State.wr_keeps (h.mono (by decide))
    | apply keeps_ite (P := P)
    | (extract_lets +onlyGivenNames x; refine (fun (hx : P x) => ?_) ?_; clear_value x; rotate_left; dsimp -zeta only [x])
    | (extract_lets +onlyGivenNames x)

theorem State.canEndBuf_keeps (h : Keep P 8589934852) {s : State} {n : Nat} {b : Nat} {v : Nat} (hs : P s) :
    P (State.canEndBuf s n b v) := by
  unfold State.canEndBuf
  with_reducible repeat' first
    | assumption | (intro _) | apply State.canSetRes_keeps (h.mono (by decide)) | apply State.setCan_keeps (h.mono (by decide))
    | apply State.putFldBit_keeps (h.mono (by decide))
    | (extract_lets +onlyGivenNames x; refine (fun (hx : P x) => ?_) ?_; clear_value x; rotate_left; dsimp -zeta only [x])
    | (extract_lets +onlyGivenNames x)

theorem State.canEndAll_keeps (h : Keep P 8589934852) {s : State} {n : Nat} {v : Nat} (hs : P s) :
    P (State.canEndAll s n v) := by
  unfold State.canEndAll
  with_reducible repeat' first
    | assumption | (intro _) | apply State.canEndBuf_keeps (h.mono (by decide)) | apply keeps_foldl (P := P)
    | (extract_lets +onlyGivenNames x; refine (fun (hx : P x) => ?_) ?_; clear_value x; rotate_left; dsimp -zeta only [x])

theorem State.canSof_keeps (h : Keep P 8589934592) {s : State} {n : Nat} {sof : Bool} (hs : P s) :
    P (State.canSof s n sof) := by
  unfold State.canSof
  with_reducible repeat' first
    | assumption | apply State.setCan_keeps (h.mono (by decide)) | apply keeps_ite (P := P)
    | (extract_lets +onlyGivenNames x; refine (fun (hx : P x) => ?_) ?_; clear_value x; rotate_left; dsimp -zeta only [x])
    | (extract_lets +onlyGivenNames x)

theorem State.canRequest_keeps (h : Keep P 8589934852) {s : State} {n : Nat} {b : Nat} (hs : P s) :
    P (State.canRequest s n b) := by
  unfold State.canRequest
  with_reducible repeat' first
    | assumption | apply State.canSetRes_keeps (h.mono (by decide)) | apply State.setCan_keeps (h.mono (by decide))
    | apply State.putFldBit_keeps (h.mono (by decide)) | apply keeps_ite (P := P)
    | (extract_lets +onlyGivenNames x; refine (fun (hx : P x) => ?_) ?_; clear_value x; rotate_left; dsimp -zeta only [x])
    | (extract_lets +onlyGivenNames x)

theorem State.canTxReq_keeps (h : Keep P 8589934852) {s : State} {n : Nat} {v : Word} {sof : Bool} (hs : P s) :
    P (State.canTxReq s n v sof) := by
  unfold State.canTxReq
  with_reducible repeat' first
    | assumption | (intro _) | apply State.canRequest_keeps (h.mono (by decide)) | apply State.canSof_keeps (h.mono (by decide))
    | apply keeps_foldl (P := P)
    | (extract_lets +onlyGivenNames x; refine (fun (hx : P x) => ?_) ?_; clear_value x; rotate_left; dsimp -zeta only [x])

theorem State.canCancel_keeps (h : Keep P 8589934852) {s : State} {n : Nat} {b : Nat} (hs : P s) :
    P (State.canCancel s n b) := by
  unfold State.canCancel
  with_reducible repeat' first
    | assumption | apply State.canEndBuf_keeps (h.mono (by decide)) | apply State.canFlag_keeps (h.mono (by decide))
    | apply State.setCan_keeps (h.mono (by decide)) | apply State.inc_keeps (h.mono (by decide)) | apply keeps_ite (P := P)
    | (extract_lets +onlyGivenNames x; refine (fun (hx : P x) => ?_) ?_; clear_value x; rotate_left; dsimp -zeta only [x])
    | (extract_lets +onlyGivenNames x)

theorem State.canTxCncl_keeps (h : Keep P 8589934852) {s : State} {n : Nat} {v : Word} {sof : Bool} (hs : P s) :
    P (State.canTxCncl s n v sof) := by
  unfold State.canTxCncl
  with_reducible repeat' first
    | assumption | (intro _) | apply State.canCancel_keeps (h.mono (by decide)) | apply State.canSof_keeps (h.mono (by decide))
    | apply keeps_foldl (P := P)
    | (extract_lets +onlyGivenNames x; refine (fun (hx : P x) => ?_) ?_; clear_value x; rotate_left; dsimp -zeta only [x])

theorem State.canPop_keeps (h : Keep P 8589934596) {s : State} {n : Nat} {k : Nat} (hs : P s) :
    P (State.canPop s n k) := by
  unfold State.canPop
  with_reducible repeat' first
    | assumption | apply State.setCan_keeps (h.mono (by decide)) | apply State.put_keeps (h.mono (by decide))
    | apply keeps_ite (P := P)
    | (extract_lets +onlyGivenNames x; refine (fun (hx : P x) => ?_) ?_; clear_value x; rotate_left; dsimp -zeta only [x])
    | (extract_lets +onlyGivenNames x)

theorem State.canGetWrite_keeps (h : Keep P 8589934596) {s : State} {n : Nat} {k : Nat} {g : Nat} (hs : P s) :
    P (State.canGetWrite s n k g) := by
  unfold State.canGetWrite
  with_reducible repeat' first
    | assumption | (intro _) | apply State.canPop_keeps (h.mono (by decide)) | apply keeps_ite (P := P)
    | apply keeps_foldl (P := P)
    | (extract_lets +onlyGivenNames x; refine (fun (hx : P x) => ?_) ?_; clear_value x; rotate_left; dsimp -zeta only [x])
    | (extract_lets +onlyGivenNames x)

theorem State.canRxfWrite_keeps (h : Keep P 8589934596) {s : State} {n : Nat} {k : Nat} {v : Word} (hs : P s) :
    P (State.canRxfWrite s n k v) := by
  unfold State.canRxfWrite
  with_reducible repeat' first
    | assumption | apply State.canGetWrite_keeps (h.mono (by decide)) | apply State.fieldWrite_keeps (h.mono (by decide))
    | apply State.put_keeps (h.mono (by decide))
    | (extract_lets +onlyGivenNames x; refine (fun (hx : P x) => ?_) ?_; clear_value x; rotate_left; dsimp -zeta only [x])
    | (extract_lets +onlyGivenNames x)

theorem State.canRxRead_keeps (h : Keep P 8589934612) {s : State} {n : Nat} (hs : P s) :
    P (State.canRxRead s n).2 := by
  unfold State.canRxRead
  with_reducible repeat' first
    | assumption | (intro _) | apply State.canPop_keeps (h.mono (by decide)) | apply State.setCan_keeps (h.mono (by decide))
    | apply State.useFree_keeps (h.mono (by decide)) | apply keeps_ite (P := P) | apply keeps_iteSnd (P := P)
    | apply keeps_iteFst (P := P) | apply keeps_foldl (P := P) | apply keeps_foldlPair (P := P)
    | (extract_lets +onlyGivenNames x; refine (fun (hx : P x) => ?_) ?_; clear_value x; rotate_left; dsimp -zeta only [x])
    | (extract_lets +onlyGivenNames x; refine (fun (hx : ∀ s, P s → P (x s)) => ?_) ?_; clear_value x; rotate_left; dsimp -zeta only [x])
    | (extract_lets +onlyGivenNames x; refine (fun (hx : ∀ s y, P s → P (x s y)) => ?_) ?_; clear_value x; rotate_left; dsimp -zeta only [x])
    | (extract_lets +onlyGivenNames x; refine (fun (hx : P x.1) => ?_) ?_; clear_value x; rotate_left; dsimp -zeta only [x])
    | (extract_lets +onlyGivenNames x; refine (fun (hx : P x.2) => ?_) ?_; clear_value x; rotate_left; dsimp -zeta only [x])
    | (extract_lets +onlyGivenNames x; refine (fun (hx : ∀ y, P (x y)) => ?_) ?_; clear_value x; rotate_left; dsimp -zeta only [x])
    | (extract_lets +onlyGivenNames x) | (exact ‹∀ y : _, P _› _) | (refine ‹∀ s : State, P s → P _› _ ?_)
    | (refine ‹∀ (s : State) (y : _), P s → P _› _ _ ?_) | (dsimp -zeta only) | split | (refine keeps_snd (P := P) ‹_› ?_)
    | (refine keeps_fst (P := P) ‹_› ?_)

theorem State.canTxWrite_keeps (h : Keep P 8589934876) {s : State} {n : Nat} {v : Word} {sof : Bool} (hs : P s) :
    P (State.canTxWrite s n v sof) := by
  unfold State.canTxWrite
  with_reducible repeat' first
    | assumption | apply State.canRequest_keeps (h.mono (by decide)) | apply State.canSof_keeps (h.mono (by decide))
    | apply State.setCan_keeps (h.mono (by decide)) | apply State.useFree_keeps (h.mono (by decide))
    | apply State.wrMem32_keeps (h.mono (by decide)) | apply keeps_ite (P := P)
    | (extract_lets +onlyGivenNames x; refine (fun (hx : P x) => ?_) ?_; clear_value x; rotate_left; dsimp -zeta only [x])
    | (extract_lets +onlyGivenNames x) | split | (refine keeps_snd (P := P) ‹_› ?_) | (refine keeps_fst (P := P) ‹_› ?_)

theorem State.ethTxWrite_keeps (h : Keep P 34359738368) {s : State} {v : Word} (hs : P s) :
    P (State.ethTxWrite s v) := by
  unfold State.ethTxWrite
  with_reducible repeat' first
    | assumption | apply State.setEth_keeps (h.mono (by decide)) | apply keeps_ite (P := P) | (extract_lets +onlyGivenNames x)

end Sys2Proof.Machine
end

