-- ==== Sys2Proof/Laws/KeepAsl.lean ====
section
/-! SUPPORT. What the operations of Machine/Asl.lean keep (Laws/Keep.lean). -/

namespace Sys2Proof.Machine

variable {P : State → Prop}

theorem State.setConn_keeps (h : Keep P 68719476744) {s : State} {i : Nat} {c : AslConn} (hs : P s) :
    P (State.setConn s i c) := by
  unfold State.setConn
  with_reducible repeat' first
    | assumption | apply State.wrBytes_keeps (h.mono (by decide)) | apply State.setAsl_keeps (h.mono (by decide))
    | (extract_lets +onlyGivenNames x)

theorem State.aslResult_keeps (h : Keep P 68719476736) {s : State} {core : Nat} {r : AslResult} (hs : P s) :
    P (State.aslResult s core r) := by
  unfold State.aslResult
  with_reducible repeat' first
    | assumption | apply State.setAsl_keeps (h.mono (by decide)) | (extract_lets +onlyGivenNames x)

theorem State.aslOpenCall_keeps (h : Keep P 68719476760) {s : State} {core : Nat} {desc : BitVec 256} {blk : Nat} {reopen : Bool} (hs : P s) :
    P (State.aslOpenCall s core desc blk reopen) := by
  unfold State.aslOpenCall
  with_reducible repeat' first
    | assumption | (intro _) | apply State.aslResult_keeps (h.mono (by decide)) | apply State.setConn_keeps (h.mono (by decide))
    | apply State.setAsl_keeps (h.mono (by decide)) | apply State.setFresh_keeps (h.mono (by decide)) | apply keeps_ite (P := P)
    | (extract_lets +onlyGivenNames x; refine (fun (hx : P x) => ?_) ?_; clear_value x; rotate_left; dsimp -zeta only [x])
    | (extract_lets +onlyGivenNames x) | split | (refine keeps_snd (P := P) ‹_› ?_) | (refine keeps_fst (P := P) ‹_› ?_)

theorem execAslOpen_keeps (h : Keep P 68719476760) {core : Fin 4} {desc : BitVec 256} {blk : BitVec 25} {reopen : Bool} {s : State} (hs : P s) :
    Answers P (execAslOpen core desc blk reopen s) := by
  unfold execAslOpen
  refine ⟨_, rfl, ?_⟩
  with_reducible repeat' first
    | assumption | apply State.aslOpenCall_keeps (h.mono (by decide))

theorem State.aslStop_keeps (h : Keep P 481035288572) {s : State} {core : Fin 4} {code : Nat} (hs : P s) :
    P (State.aslStop s core code) := by
  unfold State.aslStop
  with_reducible repeat' first
    | assumption | (intro _) | apply State.hsmReq_keeps (h.mono (by decide)) | apply State.hsmFrom_keeps (h.mono (by decide))
    | apply keeps_ite (P := P)
    | (extract_lets +onlyGivenNames x; refine (fun (hx : P x) => ?_) ?_; clear_value x; rotate_left; dsimp -zeta only [x])

theorem State.aslFrame_keeps (h : Keep P 549754765308) {s : State} {core : Fin 4} {t : Nat} {f : AslFrame} (hs : P s) :
    P (State.aslFrame s core t f) := by
  unfold State.aslFrame
  with_reducible repeat' first
    | assumption | (intro _) | apply State.aslStop_keeps (h.mono (by decide)) | apply State.setConn_keeps (h.mono (by decide))
    | apply keeps_ite (P := P) | apply keeps_foldl (P := P) | apply keeps_foldlPair (P := P)
    | (extract_lets +onlyGivenNames x; refine (fun (hx : P x) => ?_) ?_; clear_value x; rotate_left; dsimp -zeta only [x])
    | (extract_lets +onlyGivenNames x; refine (fun (hx : P x.1) => ?_) ?_; clear_value x; rotate_left; dsimp -zeta only [x])
    | (extract_lets +onlyGivenNames x; refine (fun (hx : P x.2) => ?_) ?_; clear_value x; rotate_left; dsimp -zeta only [x])
    | (extract_lets +onlyGivenNames x) | split | (refine keeps_snd (P := P) ‹_› ?_) | (refine keeps_fst (P := P) ‹_› ?_)

theorem State.aslTake_keeps (h : Keep P 42949672980) {s : State} {core : Nat} (hs : P s) :
    P (State.aslTake s core).2 := by
  unfold State.aslTake
  with_reducible repeat' first
    | assumption | (intro _) | apply State.canPop_keeps (h.mono (by decide)) | apply State.useFree_keeps (h.mono (by decide))
    | apply State.put_keeps (h.mono (by decide)) | apply State.setEth_keeps (h.mono (by decide)) | apply keeps_ite (P := P)
    | apply keeps_iteSnd (P := P) | apply keeps_iteFst (P := P) | apply keeps_foldl (P := P) | apply keeps_foldlPair (P := P)
    | (extract_lets +onlyGivenNames x; refine (fun (hx : P x) => ?_) ?_; clear_value x; rotate_left; dsimp -zeta only [x])
    | (extract_lets +onlyGivenNames x; refine (fun (hx : ∀ s, P s → P (x s)) => ?_) ?_; clear_value x; rotate_left; dsimp -zeta only [x])
    | (extract_lets +onlyGivenNames x; refine (fun (hx : ∀ s y, P s → P (x s y)) => ?_) ?_; clear_value x; rotate_left; dsimp -zeta only [x])
    | (extract_lets +onlyGivenNames x; refine (fun (hx : P x.1) => ?_) ?_; clear_value x; rotate_left; dsimp -zeta only [x])
    | (extract_lets +onlyGivenNames x; refine (fun (hx : P x.2) => ?_) ?_; clear_value x; rotate_left; dsimp -zeta only [x])
    | (extract_lets +onlyGivenNames x; refine (fun (hx : ∀ y, P (x y)) => ?_) ?_; clear_value x; rotate_left; dsimp -zeta only [x])
    | (extract_lets +onlyGivenNames x) | (exact ‹∀ y : _, P _› _) | (refine ‹∀ s : State, P s → P _› _ ?_)
    | (refine ‹∀ (s : State) (y : _), P s → P _› _ _ ?_) | (dsimp -zeta only) | split | (refine keeps_snd (P := P) ‹_› ?_)
    | (refine keeps_fst (P := P) ‹_› ?_)

theorem State.aslCheck_keeps (h : Keep P 549754765308) {s : State} {core : Fin 4} {t : Nat} (hs : P s) :
    P (State.aslCheck s core t) := by
  unfold State.aslCheck
  with_reducible repeat' first
    | assumption | (intro _) | apply State.aslStop_keeps (h.mono (by decide)) | apply State.setConn_keeps (h.mono (by decide))
    | apply keeps_ite (P := P) | apply keeps_foldl (P := P)
    | (extract_lets +onlyGivenNames x; refine (fun (hx : P x) => ?_) ?_; clear_value x; rotate_left; dsimp -zeta only [x])
    | (extract_lets +onlyGivenNames x) | split | (refine keeps_snd (P := P) ‹_› ?_) | (refine keeps_fst (P := P) ‹_› ?_)

theorem State.aslCan_keeps (h : Keep P 77309411612) {s : State} {i : Nat} {c : AslConn} {pdu : List Byte} {sof : Bool} (hs : P s) :
    P (State.aslCan s i c pdu sof) := by
  unfold State.aslCan
  with_reducible repeat' first
    | assumption | apply State.setConn_keeps (h.mono (by decide)) | apply State.canCancel_keeps (h.mono (by decide))
    | apply State.canRequest_keeps (h.mono (by decide)) | apply State.canSof_keeps (h.mono (by decide))
    | apply State.useFree_keeps (h.mono (by decide)) | apply State.wrBytes_keeps (h.mono (by decide)) | apply keeps_ite (P := P)
    | (extract_lets +onlyGivenNames x; refine (fun (hx : P x) => ?_) ?_; clear_value x; rotate_left; dsimp -zeta only [x])
    | (extract_lets +onlyGivenNames x) | split | (refine keeps_snd (P := P) ‹_› ?_) | (refine keeps_fst (P := P) ‹_› ?_)

theorem State.aslUdp_keeps (h : Keep P 103079215128) {s : State} {i : Nat} {c : AslConn} {pdu : List Byte} (hs : P s) :
    P (State.aslUdp s i c pdu) := by
  unfold State.aslUdp
  with_reducible repeat' first
    | assumption | apply State.setConn_keeps (h.mono (by decide)) | apply State.setEth_keeps (h.mono (by decide))
    | apply State.setFresh_keeps (h.mono (by decide)) | apply keeps_ite (P := P)
    | (extract_lets +onlyGivenNames x; refine (fun (hx : P x) => ?_) ?_; clear_value x; rotate_left; dsimp -zeta only [x])
    | (extract_lets +onlyGivenNames x)

theorem State.aslSend_keeps (h : Keep P 111669149980) {s : State} {i : Nat} {t : Nat} {c : AslConn} {sof : BitVec 4} (hs : P s) :
    P (State.aslSend s i t c sof) := by
  unfold State.aslSend
  with_reducible repeat' first
    | assumption | apply State.aslUdp_keeps (h.mono (by decide)) | apply State.aslCan_keeps (h.mono (by decide))
    | apply State.setConn_keeps (h.mono (by decide)) | apply State.setAsl_keeps (h.mono (by decide)) | apply keeps_ite (P := P)
    | (extract_lets +onlyGivenNames x; refine (fun (hx : P x) => ?_) ?_; clear_value x; rotate_left; dsimp -zeta only [x])
    | (extract_lets +onlyGivenNames x) | split | (refine keeps_snd (P := P) ‹_› ?_) | (refine keeps_fst (P := P) ‹_› ?_)

theorem State.aslSendAll_keeps (h : Keep P 111669149980) {s : State} {core : Nat} {t : Nat} {sof : BitVec 4} (hs : P s) :
    P (State.aslSendAll s core t sof) := by
  unfold State.aslSendAll
  with_reducible repeat' first
    | assumption | (intro _) | apply State.aslSend_keeps (h.mono (by decide)) | apply keeps_ite (P := P)
    | apply keeps_foldl (P := P)
    | (extract_lets +onlyGivenNames x; refine (fun (hx : P x) => ?_) ?_; clear_value x; rotate_left; dsimp -zeta only [x])
    | split | (refine keeps_snd (P := P) ‹_› ?_) | (refine keeps_fst (P := P) ‹_› ?_)

theorem State.aslPlaced_keeps (h : Keep P 68719476736) {s : State} {core : Nat} {p : AslPlace} (hs : P s) :
    P (State.aslPlaced s core p) := by
  unfold State.aslPlaced
  with_reducible repeat' first
    | assumption | (intro _) | apply State.setAsl_keeps (h.mono (by decide)) | apply keeps_ite (P := P)
    | (extract_lets +onlyGivenNames x) | split

theorem State.aslPass_keeps (h : Keep P 549754765308) {s : State} {core : Fin 4} {placed : List AslPlace} {sof : BitVec 4} (hs : P s) :
    P (State.aslPass s core placed sof) := by
  unfold State.aslPass
  with_reducible repeat' first
    | assumption | (intro _) | apply State.aslPlaced_keeps (h.mono (by decide))
    | apply State.aslSendAll_keeps (h.mono (by decide)) | apply State.aslCheck_keeps (h.mono (by decide))
    | apply State.aslTake_keeps (h.mono (by decide)) | apply State.aslFrame_keeps (h.mono (by decide))
    | apply State.setAsl_keeps (h.mono (by decide)) | apply keeps_ite (P := P) | apply keeps_foldl (P := P)
    | apply keeps_foldlPair (P := P)
    | (extract_lets +onlyGivenNames x; refine (fun (hx : P x) => ?_) ?_; clear_value x; rotate_left; dsimp -zeta only [x])
    | (extract_lets +onlyGivenNames x; refine (fun (hx : P x.1) => ?_) ?_; clear_value x; rotate_left; dsimp -zeta only [x])
    | (extract_lets +onlyGivenNames x; refine (fun (hx : P x.2) => ?_) ?_; clear_value x; rotate_left; dsimp -zeta only [x])
    | (extract_lets +onlyGivenNames x)

theorem State.aslDue_keeps (h : Keep P 549754765308) {s : State} (hs : P s) :
    P (State.aslDue s) := by
  unfold State.aslDue
  with_reducible repeat' first
    | assumption | (intro _) | apply State.aslPass_keeps (h.mono (by decide)) | apply keeps_ite (P := P)
    | apply keeps_foldl (P := P)
    | (extract_lets +onlyGivenNames x; refine (fun (hx : P x) => ?_) ?_; clear_value x; rotate_left; dsimp -zeta only [x])

theorem execAslServicePass_keeps (h : Keep P 549754765308) {core : Fin 4} {placed : List AslPlace} {sof : BitVec 4} {s : State} (hs : P s) :
    Answers P (execAslServicePass core placed sof s) := by
  unfold execAslServicePass
  refine ⟨_, rfl, ?_⟩
  with_reducible repeat' first
    | assumption | apply State.aslPass_keeps (h.mono (by decide))

end Sys2Proof.Machine
end

