-- ==== Sys2Proof/Laws/KeepLedger.lean ====
section
/-! SUPPORT. What the operations of Machine/Ledger.lean keep (Laws/Keep.lean). -/

namespace Sys2Proof.Machine

variable {P : State → Prop}

theorem State.inputScan_keeps (h : Keep P 268435472) {s : State} (hs : P s) :
    P (State.inputScan s) := by
  unfold State.inputScan
  with_reducible repeat' first
    | assumption | apply State.useFree_keeps (h.mono (by decide))
    | (refine State.setLedger_keeps (h.mono (by decide)) (by intro hq; first | exact hq | (simp +zetaDelta [Ledger.Shaped] at hq ⊢ <;> simp [hq]; done) | simpa +zetaDelta [Ledger.Shaped] using hq) ?_)
    | apply keeps_ite (P := P)
    | (extract_lets +onlyGivenNames x; refine (fun (hx : P x) => ?_) ?_; clear_value x; rotate_left; dsimp -zeta only [x])
    | (extract_lets +onlyGivenNames x)

theorem State.predictions_keeps (h : Keep P 16) {s : State} {x1 : Nat} {x2 : Nat} (hs : P s) :
    P (State.predictions s x1 x2).2 := by
  induction x1 generalizing s x2 with
  | zero =>
    unfold State.predictions
    with_reducible repeat' first
      | (with_reducible apply ih) | with_reducible assumption | with_reducible apply State.useFree_keeps (h.mono (by decide)) | (extract_lets +onlyGivenNames x; refine (fun (hx : P x) => ?_) ?_; clear_value x; rotate_left; dsimp -zeta only [x]) | (extract_lets +onlyGivenNames x; refine (fun (hx : P x.1) => ?_) ?_; clear_value x; rotate_left; dsimp -zeta only [x]) | (extract_lets +onlyGivenNames x; refine (fun (hx : P x.2) => ?_) ?_; clear_value x; rotate_left; dsimp -zeta only [x]) | (extract_lets +onlyGivenNames x)
  | succ k ih =>
    unfold State.predictions
    with_reducible repeat' first
      | (with_reducible apply ih) | with_reducible assumption | with_reducible apply State.useFree_keeps (h.mono (by decide)) | (extract_lets +onlyGivenNames x; refine (fun (hx : P x) => ?_) ?_; clear_value x; rotate_left; dsimp -zeta only [x]) | (extract_lets +onlyGivenNames x; refine (fun (hx : P x.1) => ?_) ?_; clear_value x; rotate_left; dsimp -zeta only [x]) | (extract_lets +onlyGivenNames x; refine (fun (hx : P x.2) => ?_) ?_; clear_value x; rotate_left; dsimp -zeta only [x]) | (extract_lets +onlyGivenNames x)


theorem State.ledgerCycle_keeps (h : Keep P 268435476) {s : State} (hs : P s) :
    P (State.ledgerCycle s) := by
  unfold State.ledgerCycle
  with_reducible repeat' first
    | assumption | apply State.predictions_keeps (h.mono (by decide)) | apply State.inputScan_keeps (h.mono (by decide))
    | apply State.useFree_keeps (h.mono (by decide)) | apply State.inc_keeps (h.mono (by decide))
    | (refine State.setLedger_keeps (h.mono (by decide)) (by intro hq; first | exact hq | (simp +zetaDelta [Ledger.Shaped] at hq ⊢ <;> simp [hq]; done) | simpa +zetaDelta [Ledger.Shaped] using hq) ?_)
    | apply keeps_ite (P := P)
    | (extract_lets +onlyGivenNames x; refine (fun (hx : P x) => ?_) ?_; clear_value x; rotate_left; dsimp -zeta only [x])
    | (extract_lets +onlyGivenNames x; refine (fun (hx : P x.1) => ?_) ?_; clear_value x; rotate_left; dsimp -zeta only [x])
    | (extract_lets +onlyGivenNames x; refine (fun (hx : P x.2) => ?_) ?_; clear_value x; rotate_left; dsimp -zeta only [x])
    | (extract_lets +onlyGivenNames x)

theorem execLedgerCycle_keeps (h : Keep P 268435476) {s : State} (hs : P s) :
    Answers P (execLedgerCycle s) := by
  unfold execLedgerCycle
  refine ⟨_, rfl, ?_⟩
  with_reducible repeat' first
    | assumption | apply State.ledgerCycle_keeps (h.mono (by decide))

theorem State.publish_keeps (h : Keep P 4) {s : State} {e : Nat} {r : LgRes} (hs : P s) :
    P (State.publish s e r) := by
  unfold State.publish
  with_reducible repeat' first
    | assumption | apply State.wr_keeps (h.mono (by decide))
    | (extract_lets +onlyGivenNames x; refine (fun (hx : P x) => ?_) ?_; clear_value x; rotate_left; dsimp -zeta only [x])
    | (extract_lets +onlyGivenNames x)

theorem publishAll_keeps (h : Keep P 4) {x0 : List LgRes} {x1 : Nat} {x2 : State} (hs : P x2) :
    P (publishAll x0 x1 x2) := by
  induction x0 generalizing x1 x2 with
  | nil =>
    unfold publishAll
    with_reducible repeat' first
      | (with_reducible apply ih) | with_reducible assumption | with_reducible apply State.publish_keeps (h.mono (by decide))
  | cons hd tl ih =>
    unfold publishAll
    with_reducible repeat' first
      | (with_reducible apply ih) | with_reducible assumption | with_reducible apply State.publish_keeps (h.mono (by decide))


theorem State.ledgerPublish_keeps (h : Keep P 268435460) {s : State} (hs : P s) :
    P (State.ledgerPublish s) := by
  unfold State.ledgerPublish
  with_reducible repeat' first
    | assumption | apply publishAll_keeps (h.mono (by decide)) | apply State.wrapInc_keeps (h.mono (by decide))
    | apply State.putB_keeps (h.mono (by decide)) | apply State.put_keeps (h.mono (by decide))
    | (refine State.setLedger_keeps (h.mono (by decide)) (by intro hq; first | exact hq | (simp +zetaDelta [Ledger.Shaped] at hq ⊢ <;> simp [hq]; done) | simpa +zetaDelta [Ledger.Shaped] using hq) ?_)
    | apply keeps_ite (P := P)
    | (extract_lets +onlyGivenNames x; refine (fun (hx : P x) => ?_) ?_; clear_value x; rotate_left; dsimp -zeta only [x])
    | (extract_lets +onlyGivenNames x) | split | (refine keeps_snd (P := P) ‹_› ?_) | (refine keeps_fst (P := P) ‹_› ?_)

theorem execLedgerPublish_keeps (h : Keep P 268435460) {s : State} (hs : P s) :
    Answers P (execLedgerPublish s) := by
  unfold execLedgerPublish
  refine ⟨_, rfl, ?_⟩
  with_reducible repeat' first
    | assumption | apply State.ledgerPublish_keeps (h.mono (by decide))

theorem State.batlimWrite_keeps (h : Keep P 268435460) {s : State} {v : Word} (hs : P s) :
    P (State.batlimWrite s v) := by
  unfold State.batlimWrite
  with_reducible repeat' first
    | assumption | apply State.put_keeps (h.mono (by decide)) | apply State.wr_keeps (h.mono (by decide))
    | (refine State.setLedger_keeps (h.mono (by decide)) (by intro hq; first | exact hq | (simp +zetaDelta [Ledger.Shaped] at hq ⊢ <;> simp [hq]; done) | simpa +zetaDelta [Ledger.Shaped] using hq) ?_)
    | (extract_lets +onlyGivenNames x; refine (fun (hx : P x) => ?_) ?_; clear_value x; rotate_left; dsimp -zeta only [x])
    | (extract_lets +onlyGivenNames x)

theorem execLgcBatlimWrite_keeps (h : Keep P 268443652) {ini : Initiator} {val : Word} {s : State} (hs : P s) :
    Answers P (execLgcBatlimWrite ini val s) := by
  unfold execLgcBatlimWrite
  refine ⟨_, rfl, ?_⟩
  with_reducible repeat' first
    | assumption | (intro _) | apply State.batlimWrite_keeps (h.mono (by decide))
    | apply State.busWrite_keeps (h.mono (by decide))
    | (extract_lets +onlyGivenNames x; refine (fun (hx : P x) => ?_) ?_; clear_value x; rotate_left; dsimp -zeta only [x])

theorem State.batTimeout_keeps (h : Keep P 268435460) {s : State} (hs : P s) :
    P (State.batTimeout s) := by
  unfold State.batTimeout
  with_reducible repeat' first
    | assumption | apply State.put_keeps (h.mono (by decide))
    | (refine State.setLedger_keeps (h.mono (by decide)) (by intro hq; first | exact hq | (simp +zetaDelta [Ledger.Shaped] at hq ⊢ <;> simp [hq]; done) | simpa +zetaDelta [Ledger.Shaped] using hq) ?_)
    | apply keeps_ite (P := P)
    | (extract_lets +onlyGivenNames x; refine (fun (hx : P x) => ?_) ?_; clear_value x; rotate_left; dsimp -zeta only [x])
    | (extract_lets +onlyGivenNames x)

theorem execBattLimitTimeout_keeps (h : Keep P 268435460) {s : State} (hs : P s) :
    Answers P (execBattLimitTimeout s) := by
  unfold execBattLimitTimeout
  refine ⟨_, rfl, ?_⟩
  with_reducible repeat' first
    | assumption | apply State.batTimeout_keeps (h.mono (by decide))

theorem execLgcLock_keeps (h : Keep P 8196) {ini : Initiator} {val : Word} {s : State} (hs : P s) :
    Answers P (execLgcLock ini val s) := by
  unfold execLgcLock
  refine ⟨_, rfl, ?_⟩
  with_reducible repeat' first
    | assumption | (intro _) | apply State.fieldWrite_keeps (h.mono (by decide))
    | apply State.busWrite_keeps (h.mono (by decide))
    | (extract_lets +onlyGivenNames x; refine (fun (hx : P x) => ?_) ?_; clear_value x; rotate_left; dsimp -zeta only [x])

theorem State.members_keeps (h : Keep P 16) {s : State} {b : Nat} {x2 : Nat} {x3 : Nat} (hs : P s) :
    P (State.members s b x2 x3).2 := by
  induction x2 generalizing s b x3 with
  | zero =>
    unfold State.members
    with_reducible repeat' first
      | (with_reducible apply ih) | with_reducible assumption | with_reducible apply State.useFree_keeps (h.mono (by decide)) | (extract_lets +onlyGivenNames x; refine (fun (hx : P x) => ?_) ?_; clear_value x; rotate_left; dsimp -zeta only [x]) | (extract_lets +onlyGivenNames x; refine (fun (hx : P x.1) => ?_) ?_; clear_value x; rotate_left; dsimp -zeta only [x]) | (extract_lets +onlyGivenNames x; refine (fun (hx : P x.2) => ?_) ?_; clear_value x; rotate_left; dsimp -zeta only [x]) | (extract_lets +onlyGivenNames x) | split | (refine keeps_snd (P := P) ‹_› ?_) | (refine keeps_fst (P := P) ‹_› ?_)
  | succ k ih =>
    unfold State.members
    with_reducible repeat' first
      | (with_reducible apply ih) | with_reducible assumption | with_reducible apply State.useFree_keeps (h.mono (by decide)) | (extract_lets +onlyGivenNames x; refine (fun (hx : P x) => ?_) ?_; clear_value x; rotate_left; dsimp -zeta only [x]) | (extract_lets +onlyGivenNames x; refine (fun (hx : P x.1) => ?_) ?_; clear_value x; rotate_left; dsimp -zeta only [x]) | (extract_lets +onlyGivenNames x; refine (fun (hx : P x.2) => ?_) ?_; clear_value x; rotate_left; dsimp -zeta only [x]) | (extract_lets +onlyGivenNames x) | split | (refine keeps_snd (P := P) ‹_› ?_) | (refine keeps_fst (P := P) ‹_› ?_)


theorem State.publishOffset_keeps (h : Keep P 268435460) {s : State} {b : Nat} {x : Member × Nat} (hs : P s) :
    P (State.publishOffset s b x) := by
  unfold State.publishOffset
  with_reducible repeat' first
    | assumption | apply State.wr_keeps (h.mono (by decide))
    | (refine State.setLedger_keeps (h.mono (by decide)) (by intro hq; first | exact hq | (simp +zetaDelta [Ledger.Shaped] at hq ⊢ <;> simp [hq]; done) | simpa +zetaDelta [Ledger.Shaped] using hq) ?_)
    | apply keeps_ite (P := P)
    | (extract_lets +onlyGivenNames x; refine (fun (hx : P x) => ?_) ?_; clear_value x; rotate_left; dsimp -zeta only [x])
    | (extract_lets +onlyGivenNames x; refine (fun (hx : P x.1) => ?_) ?_; clear_value x; rotate_left; dsimp -zeta only [x])
    | (extract_lets +onlyGivenNames x; refine (fun (hx : P x.2) => ?_) ?_; clear_value x; rotate_left; dsimp -zeta only [x])
    | (extract_lets +onlyGivenNames x)

theorem State.steerCompute_keeps (h : Keep P 268435476) {s : State} (hs : P s) :
    P (State.steerCompute s) := by
  unfold State.steerCompute
  with_reducible repeat' first
    | assumption | (intro _) | apply State.publishOffset_keeps (h.mono (by decide))
    | apply State.members_keeps (h.mono (by decide)) | apply State.useFree_keeps (h.mono (by decide))
    | apply State.wr_keeps (h.mono (by decide))
    | (refine State.setLedger_keeps (h.mono (by decide)) (by intro hq; first | exact hq | (simp +zetaDelta [Ledger.Shaped] at hq ⊢ <;> simp [hq]; done) | simpa +zetaDelta [Ledger.Shaped] using hq) ?_)
    | apply keeps_ite (P := P) | apply keeps_foldl (P := P)
    | (extract_lets +onlyGivenNames x; refine (fun (hx : P x) => ?_) ?_; clear_value x; rotate_left; dsimp -zeta only [x])
    | (extract_lets +onlyGivenNames x) | split | (refine keeps_snd (P := P) ‹_› ?_) | (refine keeps_fst (P := P) ‹_› ?_)

theorem execSteerCompute_keeps (h : Keep P 268435476) {s : State} (hs : P s) :
    Answers P (execSteerCompute s) := by
  unfold execSteerCompute
  refine ⟨_, rfl, ?_⟩
  with_reducible repeat' first
    | assumption | apply State.steerCompute_keeps (h.mono (by decide))

theorem State.limpWrite_keeps (h : Keep P 66436) {s : State} {n : Fin 8} {prds : List (Nat × Nat)} (hs : P s) :
    P (State.limpWrite s n prds) := by
  unfold State.limpWrite
  with_reducible repeat' first
    | assumption | (intro _) | apply State.pwmCommit_keeps (h.mono (by decide))
    | apply State.pwmShadowWrite_keeps (h.mono (by decide)) | apply State.pwmOwned_keeps (h.mono (by decide))
    | apply keeps_ite (P := P) | apply keeps_foldl (P := P) | apply keeps_foldlPair (P := P)
    | (extract_lets +onlyGivenNames x; refine (fun (hx : P x) => ?_) ?_; clear_value x; rotate_left; dsimp -zeta only [x])
    | (extract_lets +onlyGivenNames x; refine (fun (hx : P x.1) => ?_) ?_; clear_value x; rotate_left; dsimp -zeta only [x])
    | (extract_lets +onlyGivenNames x; refine (fun (hx : P x.2) => ?_) ?_; clear_value x; rotate_left; dsimp -zeta only [x])
    | (extract_lets +onlyGivenNames x)

theorem State.limpScan_keeps (h : Keep P 268501908) {s : State} {n : Fin 8} (hs : P s) :
    P (State.limpScan s n) := by
  unfold State.limpScan
  with_reducible repeat' first
    | assumption | (intro _) | apply State.limpWrite_keeps (h.mono (by decide)) | apply State.useFree_keeps (h.mono (by decide))
    | (refine State.setLedger_keeps (h.mono (by decide)) (by intro hq; first | exact hq | (simp +zetaDelta [Ledger.Shaped] at hq ⊢ <;> simp [hq]; done) | simpa +zetaDelta [Ledger.Shaped] using hq) ?_)
    | apply keeps_ite (P := P)
    | (extract_lets +onlyGivenNames x; refine (fun (hx : P x) => ?_) ?_; clear_value x; rotate_left; dsimp -zeta only [x])
    | (extract_lets +onlyGivenNames x; refine (fun (hx : P x.1) => ?_) ?_; clear_value x; rotate_left; dsimp -zeta only [x])
    | (extract_lets +onlyGivenNames x; refine (fun (hx : P x.2) => ?_) ?_; clear_value x; rotate_left; dsimp -zeta only [x])
    | (extract_lets +onlyGivenNames x) | split | (refine keeps_snd (P := P) ‹_› ?_) | (refine keeps_fst (P := P) ‹_› ?_)

theorem State.ledgerDue_keeps (h : Keep P 268501908) {s : State} (hs : P s) :
    P (State.ledgerDue s) := by
  unfold State.ledgerDue
  with_reducible repeat' first
    | assumption | (intro _) | apply State.limpScan_keeps (h.mono (by decide))
    | apply State.steerCompute_keeps (h.mono (by decide)) | apply State.batTimeout_keeps (h.mono (by decide))
    | apply State.ledgerPublish_keeps (h.mono (by decide)) | apply State.ledgerCycle_keeps (h.mono (by decide))
    | apply keeps_foldl (P := P)
    | (extract_lets +onlyGivenNames x; refine (fun (hx : P x) => ?_) ?_; clear_value x; rotate_left; dsimp -zeta only [x])
    | (extract_lets +onlyGivenNames x)

end Sys2Proof.Machine
end

