-- ==== Sys2Proof/Laws/KeepModes.lean ====
section
/-! SUPPORT. What the operations of Machine/Modes.lean keep (Laws/Keep.lean). -/

namespace Sys2Proof.Machine

variable {P : State → Prop}

theorem State.rampEnd_keeps (h : Keep P 117441044) {s : State} {i : Nat} (hs : P s) :
    P (State.rampEnd s i) := by
  unfold State.rampEnd
  with_reducible repeat' first
    | assumption | apply State.instGone_keeps (h.mono (by decide)) | apply State.useFree_keeps (h.mono (by decide))
    | (refine State.setModes_keeps (h.mono (by decide)) (by intro hq; first | exact hq | (simp +zetaDelta [Modes.Shaped] at hq ⊢ <;> simp [hq]; done) | simpa +zetaDelta [Modes.Shaped] using hq) ?_)
    | apply keeps_ite (P := P)
    | (extract_lets +onlyGivenNames x; refine (fun (hx : P x) => ?_) ?_; clear_value x; rotate_left; dsimp -zeta only [x])
    | (extract_lets +onlyGivenNames x)

theorem execInstanceRampEnd_keeps (h : Keep P 117441044) {i : Fin 12} {s : State} (hs : P s) :
    Answers P (execInstanceRampEnd i s) := by
  unfold execInstanceRampEnd
  refine ⟨_, rfl, ?_⟩
  with_reducible repeat' first
    | assumption | apply State.rampEnd_keeps (h.mono (by decide))

theorem execStageSwitchingReport_keeps (h : Keep P 50332164) {i : Fin 12} {s : State} (hs : P s) :
    Answers P (execStageSwitchingReport i s) := by
  unfold execStageSwitchingReport
  refine ⟨_, rfl, ?_⟩
  with_reducible repeat' first
    | assumption | apply State.activate_keeps (h.mono (by decide)) | split | (refine keeps_snd (P := P) ‹_› ?_)
    | (refine keeps_fst (P := P) ‹_› ?_)

theorem State.stageTimeout_keeps (h : Keep P 50332164) {s : State} {i : Nat} (hs : P s) :
    P (State.stageTimeout s i) := by
  unfold State.stageTimeout
  with_reducible repeat' first
    | assumption | apply State.cancelPend_keeps (h.mono (by decide)) | apply keeps_ite (P := P) | split
    | (refine keeps_snd (P := P) ‹_› ?_) | (refine keeps_fst (P := P) ‹_› ?_)

theorem execStageStartTimeout_keeps (h : Keep P 50332164) {i : Fin 12} {s : State} (hs : P s) :
    Answers P (execStageStartTimeout i s) := by
  unfold execStageStartTimeout
  refine ⟨_, rfl, ?_⟩
  with_reducible repeat' first
    | assumption | apply State.stageTimeout_keeps (h.mono (by decide))

theorem execAscHoldEnd_keeps (h : Keep P 516) {m : Fin 2} {s : State} (hs : P s) :
    Answers P (execAscHoldEnd m s) := by
  unfold execAscHoldEnd
  refine ⟨_, rfl, ?_⟩
  with_reducible repeat' first
    | assumption | apply State.stageOff_keeps (h.mono (by decide)) | apply State.put_keeps (h.mono (by decide))
    | apply keeps_ite (P := P)

theorem execHldHoldsEnd_keeps (h : Keep P 481035284172) {s : State} (hs : P s) :
    Answers P (execHldHoldsEnd s) := by
  unfold execHldHoldsEnd
  refine ⟨_, rfl, ?_⟩
  with_reducible repeat' first
    | assumption | (intro _) | apply State.domOff_keeps (h.mono (by decide)) | apply keeps_ite (P := P)
    | apply keeps_foldl (P := P)
    | (extract_lets +onlyGivenNames x; refine (fun (hx : P x) => ?_) ?_; clear_value x; rotate_left; dsimp -zeta only [x])

theorem State.setptTimeout_keeps (h : Keep P 117441028) {s : State} {i : Nat} (hs : P s) :
    P (State.setptTimeout s i) := by
  unfold State.setptTimeout
  with_reducible repeat' first
    | assumption | apply State.endInst_keeps (h.mono (by decide)) | apply keeps_ite (P := P)

theorem execSetptTimeout_keeps (h : Keep P 117441028) {i : Fin 12} {s : State} (hs : P s) :
    Answers P (execSetptTimeout i s) := by
  unfold execSetptTimeout
  refine ⟨_, rfl, ?_⟩
  with_reducible repeat' first
    | assumption | apply State.setptTimeout_keeps (h.mono (by decide))

theorem State.dcdVminTimeout_keeps (h : Keep P 117441028) {s : State} (hs : P s) :
    P (State.dcdVminTimeout s) := by
  unfold State.dcdVminTimeout
  with_reducible repeat' first
    | assumption | apply State.endInst_keeps (h.mono (by decide)) | apply keeps_ite (P := P) | split
    | (refine keeps_snd (P := P) ‹_› ?_) | (refine keeps_fst (P := P) ‹_› ?_)

theorem execDcdVminTimeout_keeps (h : Keep P 117441028) {s : State} (hs : P s) :
    Answers P (execDcdVminTimeout s) := by
  unfold execDcdVminTimeout
  refine ⟨_, rfl, ?_⟩
  with_reducible repeat' first
    | assumption | apply State.dcdVminTimeout_keeps (h.mono (by decide))

theorem State.prkDwell_keeps (h : Keep P 481035284172) {s : State} (hs : P s) :
    P (State.prkDwell s) := by
  unfold State.prkDwell
  with_reducible repeat' first
    | assumption | apply State.standbyRequest_keeps (h.mono (by decide)) | apply keeps_ite (P := P)

theorem execPrkDwellExpiry_keeps (h : Keep P 481035284172) {s : State} (hs : P s) :
    Answers P (execPrkDwellExpiry s) := by
  unfold execPrkDwellExpiry
  refine ⟨_, rfl, ?_⟩
  with_reducible repeat' first
    | assumption | apply State.prkDwell_keeps (h.mono (by decide))

theorem State.plugShow_keeps (h : Keep P 4) {s : State} (hs : P s) :
    P (State.plugShow s) := by
  unfold State.plugShow
  with_reducible repeat' first
    | assumption | apply State.putB_keeps (h.mono (by decide)) | apply State.put_keeps (h.mono (by decide))
    | apply keeps_ite (P := P)

theorem execPlugDetLevel_keeps (h : Keep P 137438953476) {level : Bool} {s : State} (hs : P s) :
    Answers P (execPlugDetLevel level s) := by
  unfold execPlugDetLevel
  refine ⟨_, rfl, ?_⟩
  with_reducible repeat' first
    | assumption | apply State.plugShow_keeps (h.mono (by decide)) | apply State.setSup_keeps (h.mono (by decide))
    | apply keeps_ite (P := P) | (extract_lets +onlyGivenNames x)

theorem State.plugApply_keeps (h : Keep P 117441028) {s : State} (hs : P s) :
    P (State.plugApply s) := by
  unfold State.plugApply
  with_reducible repeat' first
    | assumption | (intro _) | apply State.endInst_keeps (h.mono (by decide))
    | apply State.cancelPend_keeps (h.mono (by decide)) | apply keeps_ite (P := P) | apply keeps_foldl (P := P)
    | (extract_lets +onlyGivenNames x; refine (fun (hx : P x) => ?_) ?_; clear_value x; rotate_left; dsimp -zeta only [x])
    | split | (refine keeps_snd (P := P) ‹_› ?_) | (refine keeps_fst (P := P) ‹_› ?_)

theorem State.plugDebounced_keeps (h : Keep P 137556394500) {s : State} (hs : P s) :
    P (State.plugDebounced s) := by
  unfold State.plugDebounced
  with_reducible repeat' first
    | assumption | apply State.plugApply_keeps (h.mono (by decide)) | apply State.plugShow_keeps (h.mono (by decide))
    | apply State.changed_keeps (h.mono (by decide)) | apply State.setSup_keeps (h.mono (by decide)) | apply keeps_ite (P := P)
    | (extract_lets +onlyGivenNames x; refine (fun (hx : P x) => ?_) ?_; clear_value x; rotate_left; dsimp -zeta only [x])
    | (extract_lets +onlyGivenNames x)

theorem execPlugDebounced_keeps (h : Keep P 137556394500) {s : State} (hs : P s) :
    Answers P (execPlugDebounced s) := by
  unfold execPlugDebounced
  refine ⟨_, rfl, ?_⟩
  with_reducible repeat' first
    | assumption | apply State.plugDebounced_keeps (h.mono (by decide))

theorem State.policyWrite_keeps (h : Keep P 137438953476) {s : State} {sel : Nat} {v : Word} (hs : P s) :
    P (State.policyWrite s sel v) := by
  unfold State.policyWrite
  with_reducible repeat' first
    | assumption | apply State.plugShow_keeps (h.mono (by decide)) | apply State.fieldWrite_keeps (h.mono (by decide))
    | apply State.put_keeps (h.mono (by decide)) | apply State.setSup_keeps (h.mono (by decide)) | apply keeps_ite (P := P)
    | (extract_lets +onlyGivenNames x; refine (fun (hx : P x) => ?_) ?_; clear_value x; rotate_left; dsimp -zeta only [x])
    | (extract_lets +onlyGivenNames x)

theorem execMdmPolicyWrite_keeps (h : Keep P 137438961668) {ini : Initiator} {sel : Fin 3} {val : Word} {s : State} (hs : P s) :
    Answers P (execMdmPolicyWrite ini sel val s) := by
  unfold execMdmPolicyWrite
  refine ⟨_, rfl, ?_⟩
  with_reducible repeat' first
    | assumption | (intro _) | apply State.policyWrite_keeps (h.mono (by decide))
    | apply State.busWrite_keeps (h.mono (by decide))
    | (extract_lets +onlyGivenNames x; refine (fun (hx : P x) => ?_) ?_; clear_value x; rotate_left; dsimp -zeta only [x])

theorem execMdmLock_keeps (h : Keep P 8196) {ini : Initiator} {val : Word} {s : State} (hs : P s) :
    Answers P (execMdmLock ini val s) := by
  unfold execMdmLock
  refine ⟨_, rfl, ?_⟩
  with_reducible repeat' first
    | assumption | (intro _) | apply State.fieldWrite_keeps (h.mono (by decide))
    | apply State.busWrite_keeps (h.mono (by decide))
    | (extract_lets +onlyGivenNames x; refine (fun (hx : P x) => ?_) ?_; clear_value x; rotate_left; dsimp -zeta only [x])

theorem State.gridScan_keeps (h : Keep P 117441044) {s : State} (hs : P s) :
    P (State.gridScan s) := by
  unfold State.gridScan
  with_reducible repeat' first
    | assumption | (intro _) | apply State.endInst_keeps (h.mono (by decide)) | apply State.useFree_keeps (h.mono (by decide))
    | apply keeps_ite (P := P) | apply keeps_foldl (P := P)
    | (extract_lets +onlyGivenNames x; refine (fun (hx : P x) => ?_) ?_; clear_value x; rotate_left; dsimp -zeta only [x])

theorem State.pendingScan_keeps (h : Keep P 117441044) {s : State} (hs : P s) :
    P (State.pendingScan s) := by
  unfold State.pendingScan
  with_reducible repeat' first
    | assumption | (intro _) | apply State.dcdVminTimeout_keeps (h.mono (by decide))
    | apply State.setptTimeout_keeps (h.mono (by decide)) | apply State.stageTimeout_keeps (h.mono (by decide))
    | apply State.rampEnd_keeps (h.mono (by decide)) | apply State.cancelPend_keeps (h.mono (by decide))
    | apply keeps_ite (P := P) | apply keeps_foldl (P := P)
    | (extract_lets +onlyGivenNames x; refine (fun (hx : P x) => ?_) ?_; clear_value x; rotate_left; dsimp -zeta only [x])
    | (extract_lets +onlyGivenNames x)

theorem State.modesScan_keeps (h : Keep P 481035284188) {s : State} (hs : P s) :
    P (State.modesScan s) := by
  unfold State.modesScan
  with_reducible repeat' first
    | assumption | (intro _) | apply State.pendingScan_keeps (h.mono (by decide))
    | apply State.gridScan_keeps (h.mono (by decide)) | apply State.prkDwell_keeps (h.mono (by decide))
    | apply State.endInst_keeps (h.mono (by decide)) | apply State.putB_keeps (h.mono (by decide))
    | (refine State.setModes_keeps (h.mono (by decide)) (by intro hq; first | exact hq | (simp +zetaDelta [Modes.Shaped] at hq ⊢ <;> simp [hq]; done) | simpa +zetaDelta [Modes.Shaped] using hq) ?_)
    | apply keeps_ite (P := P) | apply keeps_foldl (P := P)
    | (extract_lets +onlyGivenNames x; refine (fun (hx : P x) => ?_) ?_; clear_value x; rotate_left; dsimp -zeta only [x])
    | (extract_lets +onlyGivenNames x) | split | (refine keeps_snd (P := P) ‹_› ?_) | (refine keeps_fst (P := P) ‹_› ?_)

end Sys2Proof.Machine
end

