-- ==== Sys2Proof/Laws/KeepParams.lean ====
section
/-! SUPPORT. What the operations of Machine/Params.lean keep (Laws/Keep.lean). -/

namespace Sys2Proof.Machine

variable {P : State → Prop}

theorem State.parWrite_keeps (h : Keep P 16777216) {s : State} {id : Nat} {v : Nat} (hs : P s) :
    P (State.parWrite s id v) := by
  unfold State.parWrite
  with_reducible repeat' first
    | assumption
    | (refine State.setKcp_keeps (h.mono (by decide)) (by intro hq; first | exact hq | (simp +zetaDelta [Kcp.Shaped] at hq ⊢ <;> simp [hq]; done) | simpa +zetaDelta [Kcp.Shaped] using hq) ?_)
    | (extract_lets +onlyGivenNames x)

end Sys2Proof.Machine
end

