-- ==== Sys2Proof/Laws/KeepView.lean ====
section
/-! SUPPORT. What the operations of Machine/View.lean keep (Laws/Keep.lean). -/

namespace Sys2Proof.Machine

variable {P : State → Prop}

theorem State.tbLatchSet_keeps (h : Keep P 32768) {s : State} {ini : Initiator} (hs : P s) :
    P (State.tbLatchSet s ini) := by
  unfold State.tbLatchSet
  with_reducible repeat' first
    | assumption | (intro _) | apply State.setTbLatch_keeps (h.mono (by decide))

theorem State.latchRead_keeps (h : Keep P 294912) {s : State} {ini : Initiator} {a : Nat} (hs : P s) :
    P (State.latchRead s ini a).2 := by
  unfold State.latchRead
  with_reducible repeat' first
    | assumption | apply State.tbLatchSet_keeps (h.mono (by decide)) | apply State.wuLatch_keeps (h.mono (by decide))
    | apply keeps_ite (P := P) | apply keeps_iteSnd (P := P)
    | (extract_lets +onlyGivenNames x; refine (fun (hx : P x) => ?_) ?_; clear_value x; rotate_left; dsimp -zeta only [x])
    | (extract_lets +onlyGivenNames x)

theorem State.latchReads_keeps (h : Keep P 294912) {s : State} {ini : Initiator} {on : Nat → Bool} {a : Nat} {x4 : Nat} (hs : P s) :
    P (State.latchReads s ini on a x4).2 := by
  induction x4 generalizing s ini on a with
  | zero =>
    unfold State.latchReads
    with_reducible repeat' first
      | (with_reducible apply ih) | with_reducible assumption | with_reducible apply State.latchRead_keeps (h.mono (by decide)) | with_reducible apply keeps_ite (P := P) | with_reducible apply keeps_iteSnd (P := P) | (extract_lets +onlyGivenNames x; refine (fun (hx : P x) => ?_) ?_; clear_value x; rotate_left; dsimp -zeta only [x]) | (extract_lets +onlyGivenNames x; refine (fun (hx : P x.1) => ?_) ?_; clear_value x; rotate_left; dsimp -zeta only [x]) | (extract_lets +onlyGivenNames x; refine (fun (hx : P x.2) => ?_) ?_; clear_value x; rotate_left; dsimp -zeta only [x]) | (extract_lets +onlyGivenNames x)
  | succ k ih =>
    unfold State.latchReads
    with_reducible repeat' first
      | (with_reducible apply ih) | with_reducible assumption | with_reducible apply State.latchRead_keeps (h.mono (by decide)) | with_reducible apply keeps_ite (P := P) | with_reducible apply keeps_iteSnd (P := P) | (extract_lets +onlyGivenNames x; refine (fun (hx : P x) => ?_) ?_; clear_value x; rotate_left; dsimp -zeta only [x]) | (extract_lets +onlyGivenNames x; refine (fun (hx : P x.1) => ?_) ?_; clear_value x; rotate_left; dsimp -zeta only [x]) | (extract_lets +onlyGivenNames x; refine (fun (hx : P x.2) => ?_) ?_; clear_value x; rotate_left; dsimp -zeta only [x]) | (extract_lets +onlyGivenNames x)


end Sys2Proof.Machine
end

