-- ==== Sys2Proof/Laws/KeepRequests.lean ====
section
/-! SUPPORT. What the operations of Machine/Requests.lean keep (Laws/Keep.lean). -/

namespace Sys2Proof.Machine

variable {P : State → Prop}

theorem State.runStatus_keeps (h : Keep P 16777216) {s : State} {tk : Tok} {mask : Nat} {period : Nat} {sub : Bool} (hs : P s) :
    P (State.runStatus s tk mask period sub) := by
  unfold State.runStatus
  with_reducible repeat' first
    | assumption | apply State.subscribe_keeps (h.mono (by decide)) | apply State.reply_keeps (h.mono (by decide))

theorem State.runCfgWrite_keeps (h : Keep P 16777216) {s : State} {tk : Tok} {pay : List Byte} (hs : P s) :
    P (State.runCfgWrite s tk pay) := by
  unfold State.runCfgWrite
  with_reducible repeat' first
    | assumption | (intro _) | apply State.reply_keeps (h.mono (by decide)) | apply State.parWrite_keeps (h.mono (by decide))
    | (refine State.setKcp_keeps (h.mono (by decide)) (by intro hq; first | exact hq | (simp +zetaDelta [Kcp.Shaped] at hq ⊢ <;> simp [hq]; done) | simpa +zetaDelta [Kcp.Shaped] using hq) ?_)
    | apply keeps_ite (P := P)
    | (extract_lets +onlyGivenNames x; refine (fun (hx : P x) => ?_) ?_; clear_value x; rotate_left; dsimp -zeta only [x])
    | (extract_lets +onlyGivenNames x)

theorem State.runCfgRead_keeps (h : Keep P 16777216) {s : State} {tk : Tok} {pay : List Byte} (hs : P s) :
    P (State.runCfgRead s tk pay) := by
  unfold State.runCfgRead
  with_reducible repeat' first
    | assumption | apply State.reply_keeps (h.mono (by decide))
    | (extract_lets +onlyGivenNames x; refine (fun (hx : P x) => ?_) ?_; clear_value x; rotate_left; dsimp -zeta only [x])
    | (extract_lets +onlyGivenNames x)

theorem State.runPolicyWrite_keeps (h : Keep P 137455730692) {s : State} {tk : Tok} {pay : List Byte} (hs : P s) :
    P (State.runPolicyWrite s tk pay) := by
  unfold State.runPolicyWrite
  with_reducible repeat' first
    | assumption | apply State.policyWrite_keeps (h.mono (by decide)) | apply State.reply_keeps (h.mono (by decide))
    | (refine State.setKcp_keeps (h.mono (by decide)) (by intro hq; first | exact hq | (simp +zetaDelta [Kcp.Shaped] at hq ⊢ <;> simp [hq]; done) | simpa +zetaDelta [Kcp.Shaped] using hq) ?_)
    | apply keeps_ite (P := P)
    | (extract_lets +onlyGivenNames x; refine (fun (hx : P x) => ?_) ?_; clear_value x; rotate_left; dsimp -zeta only [x])
    | (extract_lets +onlyGivenNames x)

theorem State.runPolicyRead_keeps (h : Keep P 16777216) {s : State} {tk : Tok} {pay : List Byte} (hs : P s) :
    P (State.runPolicyRead s tk pay) := by
  unfold State.runPolicyRead
  with_reducible repeat' first
    | assumption | apply State.reply_keeps (h.mono (by decide))
    | (extract_lets +onlyGivenNames x; refine (fun (hx : P x) => ?_) ?_; clear_value x; rotate_left; dsimp -zeta only [x])
    | (extract_lets +onlyGivenNames x)

theorem State.runTimeGet_keeps (h : Keep P 16777216) {s : State} {tk : Tok} (hs : P s) :
    P (State.runTimeGet s tk) := by
  unfold State.runTimeGet
  with_reducible repeat' first
    | assumption | apply State.reply_keeps (h.mono (by decide))

theorem State.runTimeDisc_keeps (h : Keep P 16777220) {s : State} {tk : Tok} {pay : List Byte} (hs : P s) :
    P (State.runTimeDisc s tk pay) := by
  unfold State.runTimeDisc
  with_reducible repeat' first
    | assumption | apply State.reply_keeps (h.mono (by decide)) | apply State.put_keeps (h.mono (by decide))

theorem State.runTimeMaster_keeps (h : Keep P 17196646404) {s : State} {tk : Tok} {pay : List Byte} (hs : P s) :
    P (State.runTimeMaster s tk pay) := by
  unfold State.runTimeMaster
  with_reducible repeat' first
    | assumption | apply State.reply_keeps (h.mono (by decide)) | apply State.put_keeps (h.mono (by decide))
    | apply State.wr_keeps (h.mono (by decide)) | apply State.setCanTm_keeps (h.mono (by decide)) | apply keeps_ite (P := P)
    | (extract_lets +onlyGivenNames x; refine (fun (hx : P x) => ?_) ?_; clear_value x; rotate_left; dsimp -zeta only [x])
    | (extract_lets +onlyGivenNames x)

theorem State.runOsdStart_keeps (h : Keep P 481035288572) {s : State} {tk : Tok} {pay : List Byte} (hs : P s) :
    P (State.runOsdStart s tk pay) := by
  unfold State.runOsdStart
  with_reducible repeat' first
    | assumption | (intro _) | apply State.osdStart_keeps (h.mono (by decide)) | apply State.reply_keeps (h.mono (by decide))
    | apply State.served_keeps (h.mono (by decide)) | apply State.kpSend_keeps (h.mono (by decide))
    | apply State.record_keeps (h.mono (by decide)) | apply State.put_keeps (h.mono (by decide))
    | apply State.wr_keeps (h.mono (by decide)) | apply keeps_ite (P := P) | apply keeps_foldl (P := P)
    | (extract_lets +onlyGivenNames x; refine (fun (hx : P x) => ?_) ?_; clear_value x; rotate_left; dsimp -zeta only [x])
    | (extract_lets +onlyGivenNames x)

theorem State.runOsdResult_keeps (h : Keep P 16777216) {s : State} {tk : Tok} (hs : P s) :
    P (State.runOsdResult s tk) := by
  unfold State.runOsdResult
  with_reducible repeat' first
    | assumption | (intro _) | apply State.reply_keeps (h.mono (by decide))

theorem State.runRegRead_keeps (h : Keep P 17072128) {s : State} {tk : Tok} {pay : List Byte} (hs : P s) :
    P (State.runRegRead s tk pay) := by
  unfold State.runRegRead
  with_reducible repeat' first
    | assumption | (intro _) | apply State.latchReads_keeps (h.mono (by decide)) | apply State.reply_keeps (h.mono (by decide))
    | (extract_lets +onlyGivenNames x; refine (fun (hx : P x) => ?_) ?_; clear_value x; rotate_left; dsimp -zeta only [x])
    | (extract_lets +onlyGivenNames x; refine (fun (hx : P x.1) => ?_) ?_; clear_value x; rotate_left; dsimp -zeta only [x])
    | (extract_lets +onlyGivenNames x; refine (fun (hx : P x.2) => ?_) ?_; clear_value x; rotate_left; dsimp -zeta only [x])
    | (extract_lets +onlyGivenNames x)

theorem State.runThermal_keeps (h : Keep P 16777216) {s : State} {tk : Tok} (hs : P s) :
    P (State.runThermal s tk) := by
  unfold State.runThermal
  with_reducible repeat' first
    | assumption | (intro _) | apply State.reply_keeps (h.mono (by decide))

theorem State.runSafety_keeps (h : Keep P 16777216) {s : State} {tk : Tok} (hs : P s) :
    P (State.runSafety s tk) := by
  unfold State.runSafety
  with_reducible repeat' first
    | assumption | (intro _) | apply State.reply_keeps (h.mono (by decide))

theorem State.runCaptureStart_keeps (h : Keep P 17039364) {s : State} {tk : Tok} {pay : List Byte} (hs : P s) :
    P (State.runCaptureStart s tk pay) := by
  unfold State.runCaptureStart
  with_reducible repeat' first
    | assumption | (intro _) | apply State.badParam_keeps (h.mono (by decide)) | apply State.reply_keeps (h.mono (by decide))
    | apply State.capStart_keeps (h.mono (by decide)) | apply State.put_keeps (h.mono (by decide))
    | apply State.wr_keeps (h.mono (by decide))
    | (refine State.setKcp_keeps (h.mono (by decide)) (by intro hq; first | exact hq | (simp +zetaDelta [Kcp.Shaped] at hq ⊢ <;> simp [hq]; done) | simpa +zetaDelta [Kcp.Shaped] using hq) ?_)
    | apply keeps_ite (P := P)
    | (extract_lets +onlyGivenNames x; refine (fun (hx : P x) => ?_) ?_; clear_value x; rotate_left; dsimp -zeta only [x])
    | (extract_lets +onlyGivenNames x)

theorem State.capDrain_keeps (h : Keep P 262152) {s : State} {c : CapReq} (hs : P s) :
    P (State.capDrain s c).1 := by
  unfold State.capDrain
  with_reducible repeat' first
    | assumption | (intro _) | apply State.setCap_keeps (h.mono (by decide)) | apply State.wrBytes_keeps (h.mono (by decide))
    | apply keeps_ite (P := P) | apply keeps_iteFst (P := P)
    | (extract_lets +onlyGivenNames x; refine (fun (hx : P x) => ?_) ?_; clear_value x; rotate_left; dsimp -zeta only [x])
    | (extract_lets +onlyGivenNames x) | split

theorem State.capDrainAll_keeps (h : Keep P 17039368) {s : State} (hs : P s) :
    P (State.capDrainAll s) := by
  unfold State.capDrainAll
  with_reducible repeat' first
    | assumption | (intro _) | apply State.capDrain_keeps (h.mono (by decide))
    | (refine State.setKcp_keeps (h.mono (by decide)) (by intro hq; first | exact hq | (simp +zetaDelta [Kcp.Shaped] at hq ⊢ <;> simp [hq]; done) | simpa +zetaDelta [Kcp.Shaped] using hq) ?_)
    | apply keeps_foldl (P := P) | apply keeps_foldlPair (P := P)
    | (extract_lets +onlyGivenNames x; refine (fun (hx : P x) => ?_) ?_; clear_value x; rotate_left; dsimp -zeta only [x])
    | (extract_lets +onlyGivenNames x; refine (fun (hx : P x.1) => ?_) ?_; clear_value x; rotate_left; dsimp -zeta only [x])
    | (extract_lets +onlyGivenNames x; refine (fun (hx : P x.2) => ?_) ?_; clear_value x; rotate_left; dsimp -zeta only [x])
    | (extract_lets +onlyGivenNames x) | split | (refine keeps_snd (P := P) ‹_› ?_) | (refine keeps_fst (P := P) ‹_› ?_)

theorem State.captureComplete_keeps (h : Keep P 17039368) {s : State} {n : Nat} (hs : P s) :
    P (State.captureComplete s n) := by
  unfold State.captureComplete
  with_reducible repeat' first
    | assumption | (intro _) | apply State.capDrainAll_keeps (h.mono (by decide))
    | apply State.finalReply_keeps (h.mono (by decide))
    | (refine State.setKcp_keeps (h.mono (by decide)) (by intro hq; first | exact hq | (simp +zetaDelta [Kcp.Shaped] at hq ⊢ <;> simp [hq]; done) | simpa +zetaDelta [Kcp.Shaped] using hq) ?_)
    | apply keeps_ite (P := P)
    | (extract_lets +onlyGivenNames x; refine (fun (hx : P x) => ?_) ?_; clear_value x; rotate_left; dsimp -zeta only [x])
    | (extract_lets +onlyGivenNames x) | split | (refine keeps_snd (P := P) ‹_› ?_) | (refine keeps_fst (P := P) ‹_› ?_)

theorem execCaptureComplete_keeps (h : Keep P 17039368) {unit : Fin 4} {s : State} (hs : P s) :
    Answers P (execCaptureComplete unit s) := by
  unfold execCaptureComplete
  refine ⟨_, rfl, ?_⟩
  with_reducible repeat' first
    | assumption | apply State.captureComplete_keeps (h.mono (by decide))

theorem State.runCaptureRead_keeps (h : Keep P 16777216) {s : State} {tk : Tok} {pay : List Byte} (hs : P s) :
    P (State.runCaptureRead s tk pay) := by
  unfold State.runCaptureRead
  with_reducible repeat' first
    | assumption | (intro _) | apply State.badParam_keeps (h.mono (by decide)) | apply State.reply_keeps (h.mono (by decide))
    | apply keeps_ite (P := P)
    | (extract_lets +onlyGivenNames x; refine (fun (hx : P x) => ?_) ?_; clear_value x; rotate_left; dsimp -zeta only [x])
    | (extract_lets +onlyGivenNames x) | split | (refine keeps_snd (P := P) ‹_› ?_) | (refine keeps_fst (P := P) ‹_› ?_)

theorem State.runForceCold_keeps (h : Keep P 274894684164) {s : State} {tk : Tok} (hs : P s) :
    P (State.runForceCold s tk) := by
  unfold State.runForceCold
  with_reducible repeat' first
    | assumption | apply State.reply_keeps (h.mono (by decide)) | apply State.put_keeps (h.mono (by decide))
    | (refine State.setStart_keeps (h.mono (by decide)) (by intro hq; first | exact hq | (simp +zetaDelta [Start.Shaped] at hq ⊢ <;> simp [hq]; done) | simpa +zetaDelta [Start.Shaped] using hq) ?_)
    | apply keeps_ite (P := P)
    | (extract_lets +onlyGivenNames x; refine (fun (hx : P x) => ?_) ?_; clear_value x; rotate_left; dsimp -zeta only [x])
    | (extract_lets +onlyGivenNames x)

theorem State.runActSeq_keeps (h : Keep P 117441028) {s : State} {tk : Tok} {pay : List Byte} (hs : P s) :
    P (State.runActSeq s tk pay) := by
  unfold State.runActSeq
  with_reducible repeat' first
    | assumption | apply State.enterInst_keeps (h.mono (by decide)) | apply State.setOwner_keeps (h.mono (by decide))
    | apply State.seqStart_keeps (h.mono (by decide)) | apply State.refuse_keeps (h.mono (by decide))
    | apply State.reply_keeps (h.mono (by decide)) | apply keeps_ite (P := P)
    | (extract_lets +onlyGivenNames x; refine (fun (hx : P x) => ?_) ?_; clear_value x; rotate_left; dsimp -zeta only [x])
    | (extract_lets +onlyGivenNames x) | split | (refine keeps_snd (P := P) ‹_› ?_) | (refine keeps_fst (P := P) ‹_› ?_)

theorem State.runActAbort_keeps (h : Keep P 117441028) {s : State} {tk : Tok} {pay : List Byte} (hs : P s) :
    P (State.runActAbort s tk pay) := by
  unfold State.runActAbort
  with_reducible repeat' first
    | assumption | apply State.actEnd_keeps (h.mono (by decide)) | apply State.reply_keeps (h.mono (by decide))
    | apply keeps_ite (P := P)
    | (extract_lets +onlyGivenNames x; refine (fun (hx : P x) => ?_) ?_; clear_value x; rotate_left; dsimp -zeta only [x])
    | (extract_lets +onlyGivenNames x)

theorem State.runBattLimits_keeps (h : Keep P 285212676) {s : State} {tk : Tok} {pay : List Byte} (hs : P s) :
    P (State.runBattLimits s tk pay) := by
  unfold State.runBattLimits
  with_reducible repeat' first
    | assumption | apply State.batlimWrite_keeps (h.mono (by decide)) | apply State.safeState_keeps (h.mono (by decide))
    | apply State.reply_keeps (h.mono (by decide)) | apply keeps_ite (P := P) | (extract_lets +onlyGivenNames x)

theorem State.runChgStatus_keeps (h : Keep P 16777232) {s : State} {tk : Tok} (hs : P s) :
    P (State.runChgStatus s tk) := by
  unfold State.runChgStatus
  with_reducible repeat' first
    | assumption | (intro _) | apply State.reply_keeps (h.mono (by decide)) | apply State.useFree_keeps (h.mono (by decide))
    | (extract_lets +onlyGivenNames x; refine (fun (hx : P x) => ?_) ?_; clear_value x; rotate_left; dsimp -zeta only [x])
    | (extract_lets +onlyGivenNames x)

theorem State.runLogRead_keeps (h : Keep P 16777232) {s : State} {tk : Tok} {pay : List Byte} (hs : P s) :
    P (State.runLogRead s tk pay) := by
  unfold State.runLogRead
  with_reducible repeat' first
    | assumption | (intro _) | apply State.reply_keeps (h.mono (by decide)) | apply State.useFree_keeps (h.mono (by decide))
    | apply keeps_ite (P := P)
    | (extract_lets +onlyGivenNames x; refine (fun (hx : P x) => ?_) ?_; clear_value x; rotate_left; dsimp -zeta only [x])
    | (extract_lets +onlyGivenNames x) | split | (refine keeps_snd (P := P) ‹_› ?_) | (refine keeps_fst (P := P) ‹_› ?_)

theorem State.setBank_keeps (h : Keep P 274877906944) {s : State} {b : Nat} {x : Bank} (hs : P s) :
    P (State.setBank s b x) := by
  unfold State.setBank
  with_reducible repeat' first
    | assumption
    | (refine State.setStart_keeps (h.mono (by decide)) (by intro hq; first | exact hq | (simp +zetaDelta [Start.Shaped] at hq ⊢ <;> simp [hq]; done) | simpa +zetaDelta [Start.Shaped] using hq) ?_)
    | (extract_lets +onlyGivenNames x)

theorem State.fwThrottled_keeps (h : Keep P 16777216) {s : State} {tk : Tok} {t : State} (hs : P s) (ht : State.fwThrottled s tk = some t) :
    P t := by
  unfold State.fwThrottled at ht
  repeat' first
    | (cases ht; done)
    | (cases ht)
    | with_reducible apply State.reply_keeps (h.mono (by decide))
    | with_reducible assumption
    | split at ht

theorem State.fwRefused_keeps (h : Keep P 16777216) {s : State} {tk : Tok} {t : State} (hs : P s) (ht : State.fwRefused s tk = some t) :
    P t := by
  unfold State.fwRefused at ht
  repeat' first
    | (cases ht; done)
    | (cases ht)
    | with_reducible apply State.reply_keeps (h.mono (by decide))
    | with_reducible assumption
    | exact State.fwThrottled_keeps (h.mono (by decide)) hs ht
    | split at ht

theorem State.runFwBegin_keeps (h : Keep P 274894684160) {s : State} {tk : Tok} {pay : List Byte} (hs : P s) :
    P (State.runFwBegin s tk pay) := by
  unfold State.runFwBegin
  with_reducible repeat' first
    | assumption | (intro _) | (refine State.fwRefused_keeps (h.mono (by decide)) ?_ ‹_ = some _›)
    | apply State.setBank_keeps (h.mono (by decide)) | apply State.reply_keeps (h.mono (by decide))
    | (refine State.setKcp_keeps (h.mono (by decide)) (by intro hq; first | exact hq | (simp +zetaDelta [Kcp.Shaped, Kcp.idle] at hq ⊢ <;> simp [hq]; done) | simpa +zetaDelta [Kcp.Shaped, Kcp.idle] using hq) ?_)
    | apply keeps_ite (P := P)
    | (extract_lets +onlyGivenNames x; refine (fun (hx : P x) => ?_) ?_; clear_value x; rotate_left; dsimp -zeta only [x])
    | (extract_lets +onlyGivenNames x) | split | (refine keeps_snd (P := P) ‹_› ?_) | (refine keeps_fst (P := P) ‹_› ?_)

theorem State.runFwData_keeps (h : Keep P 16777224) {s : State} {tk : Tok} {pay : List Byte} (hs : P s) :
    P (State.runFwData s tk pay) := by
  unfold State.runFwData
  with_reducible repeat' first
    | assumption | (intro _) | (refine State.fwRefused_keeps (h.mono (by decide)) ?_ ‹_ = some _›)
    | apply State.badParam_keeps (h.mono (by decide)) | apply State.reply_keeps (h.mono (by decide))
    | apply State.wrBytes_keeps (h.mono (by decide))
    | (refine State.setKcp_keeps (h.mono (by decide)) (by intro hq; first | exact hq | (simp +zetaDelta [Kcp.Shaped, Kcp.idle] at hq ⊢ <;> simp [hq]; done) | simpa +zetaDelta [Kcp.Shaped, Kcp.idle] using hq) ?_)
    | apply keeps_ite (P := P)
    | (extract_lets +onlyGivenNames x; refine (fun (hx : P x) => ?_) ?_; clear_value x; rotate_left; dsimp -zeta only [x])
    | (extract_lets +onlyGivenNames x) | split | (refine keeps_snd (P := P) ‹_› ?_) | (refine keeps_fst (P := P) ‹_› ?_)

theorem State.runFwEnd_keeps (h : Keep P 16777216) {s : State} {tk : Tok} (hs : P s) :
    P (State.runFwEnd s tk) := by
  unfold State.runFwEnd
  with_reducible repeat' first
    | assumption | (refine State.fwRefused_keeps (h.mono (by decide)) ?_ ‹_ = some _›)
    | apply State.reply_keeps (h.mono (by decide))
    | (refine State.setKcp_keeps (h.mono (by decide)) (by intro hq; first | exact hq | (simp +zetaDelta [Kcp.Shaped] at hq ⊢ <;> simp [hq]; done) | simpa +zetaDelta [Kcp.Shaped] using hq) ?_)
    | apply keeps_ite (P := P) | (extract_lets +onlyGivenNames x) | split | (refine keeps_snd (P := P) ‹_› ?_)
    | (refine keeps_fst (P := P) ‹_› ?_)

theorem State.fwVerified_keeps (h : Keep P 274894684160) {s : State} {ok : Bool} {prod : Bool} {version : Nat} {epoch : Nat} (hs : P s) :
    P (State.fwVerified s ok prod version epoch) := by
  unfold State.fwVerified
  with_reducible repeat' first
    | assumption | apply State.setBank_keeps (h.mono (by decide)) | apply State.finalReply_keeps (h.mono (by decide))
    | (refine State.setKcp_keeps (h.mono (by decide)) (by intro hq; first | exact hq | (simp +zetaDelta [Kcp.Shaped, Kcp.idle] at hq ⊢ <;> simp [hq]; done) | simpa +zetaDelta [Kcp.Shaped, Kcp.idle] using hq) ?_)
    | apply keeps_ite (P := P)
    | (extract_lets +onlyGivenNames x; refine (fun (hx : P x) => ?_) ?_; clear_value x; rotate_left; dsimp -zeta only [x])
    | (extract_lets +onlyGivenNames x) | split | (refine keeps_snd (P := P) ‹_› ?_) | (refine keeps_fst (P := P) ‹_› ?_)

theorem execFwVerifyDone_keeps (h : Keep P 274894684160) {ok : Bool} {prod : Bool} {version : Word} {epoch : Fin 64} {s : State} (hs : P s) :
    Answers P (execFwVerifyDone ok prod version epoch s) := by
  unfold execFwVerifyDone
  refine ⟨_, rfl, ?_⟩
  with_reducible repeat' first
    | assumption | apply State.fwVerified_keeps (h.mono (by decide)) | apply keeps_ite (P := P)

theorem State.runFwSelect_keeps (h : Keep P 274894684160) {s : State} {tk : Tok} {pay : List Byte} (hs : P s) :
    P (State.runFwSelect s tk pay) := by
  unfold State.runFwSelect
  with_reducible repeat' first
    | assumption | apply State.reply_keeps (h.mono (by decide))
    | (refine State.setStart_keeps (h.mono (by decide)) (by intro hq; first | exact hq | (simp +zetaDelta [Start.Shaped] at hq ⊢ <;> simp [hq]; done) | simpa +zetaDelta [Start.Shaped] using hq) ?_)
    | apply keeps_ite (P := P)
    | (extract_lets +onlyGivenNames x; refine (fun (hx : P x) => ?_) ?_; clear_value x; rotate_left; dsimp -zeta only [x])
    | (extract_lets +onlyGivenNames x)

theorem State.runFwInfo_keeps (h : Keep P 16777216) {s : State} {tk : Tok} (hs : P s) :
    P (State.runFwInfo s tk) := by
  unfold State.runFwInfo
  with_reducible repeat' first
    | assumption | apply State.reply_keeps (h.mono (by decide)) | (extract_lets +onlyGivenNames x)

theorem State.dueFirst_keeps (h : Keep P 481035288572) {s : State} (hs : P s) :
    P (State.dueFirst s) := by
  unfold State.dueFirst
  with_reducible repeat' first
    | assumption | apply State.plugDebounced_keeps (h.mono (by decide)) | apply State.badgerDue_keeps (h.mono (by decide))

theorem State.runOp_keeps (h : Keep P 481035288572) {s : State} {tk : Tok} {pay : List Byte} (hs : P s) :
    P (State.runOp s tk pay) := by
  unfold State.runOp
  with_reducible repeat' first
    | assumption | apply State.dueFirst_keeps (h.mono (by decide)) | apply State.runFwInfo_keeps (h.mono (by decide))
    | apply State.runFwSelect_keeps (h.mono (by decide)) | apply State.runFwEnd_keeps (h.mono (by decide))
    | apply State.runFwData_keeps (h.mono (by decide)) | apply State.runFwBegin_keeps (h.mono (by decide))
    | apply State.runLogRead_keeps (h.mono (by decide)) | apply State.runChgStatus_keeps (h.mono (by decide))
    | apply State.runBattLimits_keeps (h.mono (by decide)) | apply State.runActAbort_keeps (h.mono (by decide))
    | apply State.runActSeq_keeps (h.mono (by decide)) | apply State.runForceCold_keeps (h.mono (by decide))
    | apply State.runCaptureRead_keeps (h.mono (by decide)) | apply State.runCaptureStart_keeps (h.mono (by decide))
    | apply State.runSafety_keeps (h.mono (by decide)) | apply State.runThermal_keeps (h.mono (by decide))
    | apply State.runRegRead_keeps (h.mono (by decide)) | apply State.runOsdResult_keeps (h.mono (by decide))
    | apply State.runOsdStart_keeps (h.mono (by decide)) | apply State.runTimeMaster_keeps (h.mono (by decide))
    | apply State.runTimeDisc_keeps (h.mono (by decide)) | apply State.runTimeGet_keeps (h.mono (by decide))
    | apply State.runPolicyRead_keeps (h.mono (by decide)) | apply State.runPolicyWrite_keeps (h.mono (by decide))
    | apply State.runCfgRead_keeps (h.mono (by decide)) | apply State.runCfgWrite_keeps (h.mono (by decide))
    | apply State.runStatus_keeps (h.mono (by decide)) | apply State.modeExit_keeps (h.mono (by decide))
    | apply State.modeEnter_keeps (h.mono (by decide)) | apply keeps_ite (P := P)
    | (extract_lets +onlyGivenNames x; refine (fun (hx : P x) => ?_) ?_; clear_value x; rotate_left; dsimp -zeta only [x])
    | (extract_lets +onlyGivenNames x)

end Sys2Proof.Machine
end

