-- ==== Sys2Proof/Laws/KeepKcpRx.lean ====
section
/-! SUPPORT. What the operations of Machine/KcpRx.lean keep (Laws/Keep.lean). -/

namespace Sys2Proof.Machine

variable {P : State → Prop}

theorem State.answer_keeps (h : Keep P 16777216) {s : State} {tk : Tok} {status : Nat} {fields : optParam (List Byte) []} (hs : P s) :
    P (State.answer s tk status fields) := by
  unfold State.answer
  with_reducible repeat' first
    | assumption | apply State.kpSend_keeps (h.mono (by decide))

theorem State.setSlot_keeps (h : Keep P 65536) {s : State} {n : Nat} {slot : Nat} {x : CeSlot} (hs : P s) :
    P (State.setSlot s n slot x) := by
  unfold State.setSlot
  with_reducible repeat' first
    | assumption | apply State.setCe_keeps (h.mono (by decide)) | (extract_lets +onlyGivenNames x)

theorem State.c1End_keeps (h : Keep P 16842752) {s : State} {c : C1Set} {status : Nat} (hs : P s) :
    P (State.c1End s c status) := by
  unfold State.c1End
  with_reducible repeat' first
    | assumption | (intro _) | apply State.setSlot_keeps (h.mono (by decide))
    | apply State.finalReply_keeps (h.mono (by decide))
    | (refine State.setKcp_keeps (h.mono (by decide)) (by intro hq; first | exact hq | (simp +zetaDelta [Kcp.Shaped] at hq ⊢ <;> simp [hq]; done) | simpa +zetaDelta [Kcp.Shaped] using hq) ?_)
    | (extract_lets +onlyGivenNames x; refine (fun (hx : P x) => ?_) ?_; clear_value x; rotate_left; dsimp -zeta only [x])
    | (extract_lets +onlyGivenNames x)

theorem State.c1Drop_keeps (h : Keep P 16842760) {s : State} {c : C1Set} {status : Nat} (hs : P s) :
    P (State.c1Drop s c status) := by
  unfold State.c1Drop
  with_reducible repeat' first
    | assumption | (intro _) | apply State.c1End_keeps (h.mono (by decide)) | apply State.wrByte_keeps (h.mono (by decide))
    | (refine State.setKcp_keeps (h.mono (by decide)) (by intro hq; first | exact hq | (simp +zetaDelta [Kcp.Shaped] at hq ⊢ <;> simp [hq]; done) | simpa +zetaDelta [Kcp.Shaped] using hq) ?_)
    | apply keeps_ite (P := P)
    | (extract_lets +onlyGivenNames x; refine (fun (hx : P x) => ?_) ?_; clear_value x; rotate_left; dsimp -zeta only [x])
    | (extract_lets +onlyGivenNames x)

theorem State.c1DropAll_keeps (h : Keep P 16842760) {s : State} {p : C1Set → Bool} {status : Nat} (hs : P s) :
    P (State.c1DropAll s p status) := by
  unfold State.c1DropAll
  with_reducible repeat' first
    | assumption | (intro _) | apply State.c1Drop_keeps (h.mono (by decide)) | apply keeps_foldl (P := P)
    | (extract_lets +onlyGivenNames x; refine (fun (hx : P x) => ?_) ?_; clear_value x; rotate_left; dsimp -zeta only [x])

theorem State.c1Settle_keeps (h : Keep P 16842752) {s : State} (hs : P s) :
    P (State.c1Settle s) := by
  unfold State.c1Settle
  with_reducible repeat' first
    | assumption | (intro _) | apply State.c1End_keeps (h.mono (by decide)) | apply keeps_ite (P := P)
    | apply keeps_foldl (P := P)
    | (extract_lets +onlyGivenNames x; refine (fun (hx : P x) => ?_) ?_; clear_value x; rotate_left; dsimp -zeta only [x])
    | split | (refine keeps_snd (P := P) ‹_› ?_) | (refine keeps_fst (P := P) ‹_› ?_)

theorem State.c1Replace_keeps (h : Keep P 16842752) {s : State} {n : Nat} {slot : Nat} (hs : P s) :
    P (State.c1Replace s n slot) := by
  unfold State.c1Replace
  with_reducible repeat' first
    | assumption | (intro _) | apply State.c1End_keeps (h.mono (by decide)) | apply keeps_foldl (P := P)
    | (extract_lets +onlyGivenNames x; refine (fun (hx : P x) => ?_) ?_; clear_value x; rotate_left; dsimp -zeta only [x])
    | split | (refine keeps_snd (P := P) ‹_› ?_) | (refine keeps_fst (P := P) ‹_› ?_)

theorem State.setpoint_keeps (h : Keep P 16842760) {s : State} {tk : Tok} {pay : List Byte} {deadline : Option Nat} (hs : P s) :
    P (State.setpoint s tk pay deadline) := by
  unfold State.setpoint
  with_reducible repeat' first
    | assumption | (intro _) | apply State.c1Replace_keeps (h.mono (by decide)) | apply State.setSlot_keeps (h.mono (by decide))
    | apply State.finalReply_keeps (h.mono (by decide)) | apply State.wrBytes_keeps (h.mono (by decide))
    | (refine State.setKcp_keeps (h.mono (by decide)) (by intro hq; first | exact hq | (simp +zetaDelta [Kcp.Shaped] at hq ⊢ <;> simp [hq]; done) | simpa +zetaDelta [Kcp.Shaped] using hq) ?_)
    | apply keeps_ite (P := P)
    | (extract_lets +onlyGivenNames x; refine (fun (hx : P x) => ?_) ?_; clear_value x; rotate_left; dsimp -zeta only [x])
    | (extract_lets +onlyGivenNames x; refine (fun (hx : P x.1) => ?_) ?_; clear_value x; rotate_left; dsimp -zeta only [x])
    | (extract_lets +onlyGivenNames x; refine (fun (hx : P x.2) => ?_) ?_; clear_value x; rotate_left; dsimp -zeta only [x])
    | (extract_lets +onlyGivenNames x) | split | (refine keeps_snd (P := P) ‹_› ?_) | (refine keeps_fst (P := P) ‹_› ?_)

theorem State.mbTake_keeps (h : Keep P 50397184) {s : State} {n : Nat} {slot : Nat} (hs : P s) :
    P (State.mbTake s n slot).2 := by
  unfold State.mbTake
  with_reducible repeat' first
    | assumption | (intro _) | apply State.setSlot_keeps (h.mono (by decide))
    | apply State.finalReply_keeps (h.mono (by decide))
    | (refine State.setKcp_keeps (h.mono (by decide)) (by intro hq; first | exact hq | (simp +zetaDelta [Kcp.Shaped] at hq ⊢ <;> simp [hq]; done) | simpa +zetaDelta [Kcp.Shaped] using hq) ?_)
    | (refine State.setModes_keeps (h.mono (by decide)) (by intro hq; first | exact hq | (simp +zetaDelta [Modes.Shaped] at hq ⊢ <;> simp [hq]; done) | simpa +zetaDelta [Modes.Shaped] using hq) ?_)
    | apply keeps_ite (P := P) | apply keeps_iteSnd (P := P)
    | (extract_lets +onlyGivenNames x; refine (fun (hx : P x) => ?_) ?_; clear_value x; rotate_left; dsimp -zeta only [x])
    | (extract_lets +onlyGivenNames x) | split | (refine keeps_snd (P := P) ‹_› ?_) | (refine keeps_fst (P := P) ‹_› ?_)

theorem State.setQueue_keeps (h : Keep P 16777216) {s : State} {cls : Nat} {q : List KReq} (hs : P s) :
    P (State.setQueue s cls q) := by
  unfold State.setQueue
  with_reducible repeat' first
    | assumption
    | (refine State.setKcp_keeps (h.mono (by decide)) (by intro hq; first | exact hq | (simp +zetaDelta [Kcp.Shaped] at hq ⊢ <;> simp [hq]; done) | simpa +zetaDelta [Kcp.Shaped] using hq) ?_)
    | (extract_lets +onlyGivenNames x)

theorem State.queueRefuse_keeps (h : Keep P 16777216) {s : State} {tk : Tok} {reason : Nat} {hint : Nat} (hs : P s) :
    P (State.queueRefuse s tk reason hint) := by
  unfold State.queueRefuse
  with_reducible repeat' first
    | assumption | apply State.finalReply_keeps (h.mono (by decide))

theorem State.enqueue_keeps (h : Keep P 16777216) {s : State} {r : KReq} (hs : P s) :
    P (State.enqueue s r) := by
  unfold State.enqueue
  with_reducible repeat' first
    | assumption | (intro _) | apply State.queueRefuse_keeps (h.mono (by decide))
    | apply State.setQueue_keeps (h.mono (by decide)) | apply keeps_ite (P := P)
    | (extract_lets +onlyGivenNames x; refine (fun (hx : P x) => ?_) ?_; clear_value x; rotate_left; dsimp -zeta only [x])
    | (extract_lets +onlyGivenNames x)

theorem State.threadIrq_keeps (h : Keep P 256) {s : State} {d : Nat} {src : Nat} {ev : Nat} (hs : P s) :
    P (State.threadIrq s d src ev) := by
  unfold State.threadIrq
  with_reducible repeat' first
    | assumption | apply State.irq_keeps (h.mono (by decide)) | apply keeps_ite (P := P)
    | (extract_lets +onlyGivenNames x; refine (fun (hx : P x) => ?_) ?_; clear_value x; rotate_left; dsimp -zeta only [x])
    | (extract_lets +onlyGivenNames x)

theorem State.custPlace_keeps (h : Keep P 16777484) {s : State} {r : KReq} (hs : P s) :
    P (State.custPlace s r) := by
  unfold State.custPlace
  with_reducible repeat' first
    | assumption | (intro _) | apply State.threadIrq_keeps (h.mono (by decide))
    | apply State.queueFull_keeps (h.mono (by decide)) | apply State.safeState_keeps (h.mono (by decide))
    | apply State.reply_keeps (h.mono (by decide)) | apply State.wrBytes_keeps (h.mono (by decide))
    | apply State.putFldBit_keeps (h.mono (by decide))
    | (refine State.setKcp_keeps (h.mono (by decide)) (by intro hq; first | exact hq | (simp +zetaDelta [Kcp.Shaped] at hq ⊢ <;> simp [hq]; done) | simpa +zetaDelta [Kcp.Shaped] using hq) ?_)
    | apply keeps_ite (P := P)
    | (extract_lets +onlyGivenNames x; refine (fun (hx : P x) => ?_) ?_; clear_value x; rotate_left; dsimp -zeta only [x])
    | (extract_lets +onlyGivenNames x) | split | (refine keeps_snd (P := P) ‹_› ?_) | (refine keeps_fst (P := P) ‹_› ?_)

theorem State.mbxFree_keeps (h : Keep P 16777220) {s : State} {e : MbxReq} (hs : P s) :
    P (State.mbxFree s e) := by
  unfold State.mbxFree
  with_reducible repeat' first
    | assumption | (intro _) | apply State.putFldBit_keeps (h.mono (by decide))
    | (refine State.setKcp_keeps (h.mono (by decide)) (by intro hq; first | exact hq | (simp +zetaDelta [Kcp.Shaped] at hq ⊢ <;> simp [hq]; done) | simpa +zetaDelta [Kcp.Shaped] using hq) ?_)
    | (extract_lets +onlyGivenNames x)

theorem State.mbxDone_keeps (h : Keep P 16777220) {s : State} {m : Nat} {k : Nat} (hs : P s) :
    P (State.mbxDone s m k) := by
  unfold State.mbxDone
  with_reducible repeat' first
    | assumption | (intro _) | apply State.mbxFree_keeps (h.mono (by decide))
    | apply State.finalReply_keeps (h.mono (by decide)) | apply State.served_keeps (h.mono (by decide))
    | apply State.kpSend_keeps (h.mono (by decide)) | apply State.record_keeps (h.mono (by decide))
    | apply State.inc_keeps (h.mono (by decide)) | apply keeps_ite (P := P)
    | (extract_lets +onlyGivenNames x; refine (fun (hx : P x) => ?_) ?_; clear_value x; rotate_left; dsimp -zeta only [x])
    | (extract_lets +onlyGivenNames x) | split | (refine keeps_snd (P := P) ‹_› ?_) | (refine keeps_fst (P := P) ‹_› ?_)

theorem State.mbxDoneWrite_keeps (h : Keep P 16777220) {s : State} {m : Nat} {v : Word} (hs : P s) :
    P (State.mbxDoneWrite s m v) := by
  unfold State.mbxDoneWrite
  with_reducible repeat' first
    | assumption | (intro _) | apply State.mbxDone_keeps (h.mono (by decide)) | apply keeps_foldl (P := P)
    | (extract_lets +onlyGivenNames x; refine (fun (hx : P x) => ?_) ?_; clear_value x; rotate_left; dsimp -zeta only [x])

theorem State.mbxTimeout_keeps (h : Keep P 16777220) {s : State} {m : Nat} {k : Nat} (hs : P s) :
    P (State.mbxTimeout s m k) := by
  unfold State.mbxTimeout
  with_reducible repeat' first
    | assumption | (intro _) | apply State.mbxFree_keeps (h.mono (by decide)) | apply State.reply_keeps (h.mono (by decide))
    | apply State.served_keeps (h.mono (by decide)) | apply State.inc_keeps (h.mono (by decide)) | apply keeps_ite (P := P)
    | split | (refine keeps_snd (P := P) ‹_› ?_) | (refine keeps_fst (P := P) ‹_› ?_)

theorem State.depart_keeps (h : Keep P 481035288572) {s : State} {cls : Nat} (hs : P s) :
    P (State.depart s cls) := by
  unfold State.depart
  with_reducible repeat' first
    | assumption | (intro _) | apply State.custPlace_keeps (h.mono (by decide))
    | apply State.setQueue_keeps (h.mono (by decide)) | apply State.runOp_keeps (h.mono (by decide))
    | apply State.finalReply_keeps (h.mono (by decide)) | apply keeps_ite (P := P)
    | (extract_lets +onlyGivenNames x; refine (fun (hx : P x) => ?_) ?_; clear_value x; rotate_left; dsimp -zeta only [x])
    | (extract_lets +onlyGivenNames x) | split | (refine keeps_snd (P := P) ‹_› ?_) | (refine keeps_fst (P := P) ‹_› ?_)

theorem State.departUpTo_keeps (h : Keep P 481035288572) {s : State} {cls : Nat} {handle : Nat} {seq : Nat} {x4 : Nat} (hs : P s) :
    P (State.departUpTo s cls handle seq x4) := by
  induction x4 generalizing s cls handle seq with
  | zero =>
    unfold State.departUpTo
    with_reducible repeat' first
      | (with_reducible apply ih) | with_reducible assumption | intro _ | with_reducible apply State.depart_keeps (h.mono (by decide)) | with_reducible apply keeps_ite (P := P) | split | (refine keeps_snd (P := P) ‹_› ?_) | (refine keeps_fst (P := P) ‹_› ?_)
  | succ k ih =>
    unfold State.departUpTo
    with_reducible repeat' first
      | (with_reducible apply ih) | with_reducible assumption | intro _ | with_reducible apply State.depart_keeps (h.mono (by decide)) | with_reducible apply keeps_ite (P := P) | split | (refine keeps_snd (P := P) ‹_› ?_) | (refine keeps_fst (P := P) ‹_› ?_)


theorem State.sessionEnd_keeps (h : Keep P 117506572) {s : State} {c : Nat} {closed : Bool} (hs : P s) :
    P (State.sessionEnd s c closed) := by
  unfold State.sessionEnd
  with_reducible repeat' first
    | assumption | (intro _) | apply State.setQueue_keeps (h.mono (by decide))
    | apply State.c1DropAll_keeps (h.mono (by decide)) | apply State.modesLeave_keeps (h.mono (by decide))
    | apply State.finalReply_keeps (h.mono (by decide)) | apply State.setCtx_keeps (h.mono (by decide))
    | (refine State.setKcp_keeps (h.mono (by decide)) (by intro hq; first | exact hq | (simp +zetaDelta [Kcp.Shaped] at hq ⊢ <;> simp [hq]; done) | simpa +zetaDelta [Kcp.Shaped] using hq) ?_)
    | apply keeps_ite (P := P) | apply keeps_foldl (P := P) | apply keeps_foldlPair (P := P)
    | (extract_lets +onlyGivenNames x; refine (fun (hx : P x) => ?_) ?_; clear_value x; rotate_left; dsimp -zeta only [x])
    | (extract_lets +onlyGivenNames x; refine (fun (hx : P x.1) => ?_) ?_; clear_value x; rotate_left; dsimp -zeta only [x])
    | (extract_lets +onlyGivenNames x; refine (fun (hx : P x.2) => ?_) ?_; clear_value x; rotate_left; dsimp -zeta only [x])
    | (extract_lets +onlyGivenNames x) | split | (refine keeps_snd (P := P) ‹_› ?_) | (refine keeps_fst (P := P) ‹_› ?_)

theorem State.leaseExpire_keeps (h : Keep P 117506572) {s : State} {c : Nat} (hs : P s) :
    P (State.leaseExpire s c) := by
  unfold State.leaseExpire
  with_reducible repeat' first
    | assumption | apply State.sessionEnd_keeps (h.mono (by decide)) | apply keeps_ite (P := P)

theorem State.leasesDue_keeps (h : Keep P 117506572) {s : State} (hs : P s) :
    P (State.leasesDue s) := by
  unfold State.leasesDue
  with_reducible repeat' first
    | assumption | (intro _) | apply State.leaseExpire_keeps (h.mono (by decide)) | apply keeps_foldl (P := P)
    | apply keeps_foldlPair (P := P)
    | (extract_lets +onlyGivenNames x; refine (fun (hx : P x) => ?_) ?_; clear_value x; rotate_left; dsimp -zeta only [x])

theorem State.plain_keeps (h : Keep P 16777216) {s : State} {t : Nat} {peer : Nat} {handle : Nat} {op : Nat} {seq : Nat} {cls : Nat} {status : Nat} {fields : List Byte} (hs : P s) :
    P (State.plain s t peer handle op seq cls status fields) := by
  unfold State.plain
  with_reducible repeat' first
    | assumption | apply State.emit_keeps (h.mono (by decide))
    | (extract_lets +onlyGivenNames x; refine (fun (hx : P x) => ?_) ?_; clear_value x; rotate_left; dsimp -zeta only [x])
    | (extract_lets +onlyGivenNames x)

theorem State.openRequest_keeps (h : Keep P 16777236) {s : State} {t : Nat} {peer : Nat} {handle : Nat} {seq : Nat} {cls : Nat} {auth : Bool} {tagOk : Bool} {pay : List Byte} (hs : P s) :
    P (State.openRequest s t peer handle seq cls auth tagOk pay) := by
  unfold State.openRequest
  with_reducible repeat' first
    | assumption | (intro _) | apply State.plain_keeps (h.mono (by decide)) | apply State.answer_keeps (h.mono (by decide))
    | apply State.untagged_keeps (h.mono (by decide)) | apply State.setCtx_keeps (h.mono (by decide))
    | apply State.useFree_keeps (h.mono (by decide)) | apply State.inc_keeps (h.mono (by decide))
    | (refine State.setKcp_keeps (h.mono (by decide)) (by intro hq; first | exact hq | (simp +zetaDelta [Kcp.Shaped] at hq ⊢ <;> simp [hq]; done) | simpa +zetaDelta [Kcp.Shaped] using hq) ?_)
    | apply State.setFresh_keeps (h.mono (by decide)) | apply keeps_ite (P := P)
    | (extract_lets +onlyGivenNames x; refine (fun (hx : P x) => ?_) ?_; clear_value x; rotate_left; dsimp -zeta only [x])
    | (extract_lets +onlyGivenNames x; refine (fun (hx : ∀ s y, P s → P (x s y)) => ?_) ?_; clear_value x; rotate_left; dsimp -zeta only [x])
    | (extract_lets +onlyGivenNames x; refine (fun (hx : P x.1) => ?_) ?_; clear_value x; rotate_left; dsimp -zeta only [x])
    | (extract_lets +onlyGivenNames x; refine (fun (hx : P x.2) => ?_) ?_; clear_value x; rotate_left; dsimp -zeta only [x])
    | (extract_lets +onlyGivenNames x; refine (fun (hx : ∀ y, P (x y)) => ?_) ?_; clear_value x; rotate_left; dsimp -zeta only [x])
    | (extract_lets +onlyGivenNames x) | (exact ‹∀ y : _, P _› _) | (refine ‹∀ (s : State) (y : _), P s → P _› _ _ ?_) | split
    | (refine keeps_snd (P := P) ‹_› ?_) | (refine keeps_fst (P := P) ‹_› ?_)

theorem State.closeSession_keeps (h : Keep P 117506572) {s : State} {tk : Tok} (hs : P s) :
    P (State.closeSession s tk) := by
  unfold State.closeSession
  with_reducible repeat' first
    | assumption | apply State.sessionEnd_keeps (h.mono (by decide)) | apply State.finalReply_keeps (h.mono (by decide))

theorem State.renew_keeps (h : Keep P 16777216) {s : State} {tk : Tok} {pay : List Byte} (hs : P s) :
    P (State.renew s tk pay) := by
  unfold State.renew
  with_reducible repeat' first
    | assumption | apply State.finalReply_keeps (h.mono (by decide)) | apply State.setCtx_keeps (h.mono (by decide))
    | apply keeps_ite (P := P)
    | (extract_lets +onlyGivenNames x; refine (fun (hx : P x) => ?_) ?_; clear_value x; rotate_left; dsimp -zeta only [x])
    | (extract_lets +onlyGivenNames x) | split | (refine keeps_snd (P := P) ‹_› ?_) | (refine keeps_fst (P := P) ‹_› ?_)

theorem State.authFail_keeps (h : Keep P 16777220) {s : State} {tk : Tok} (hs : P s) :
    P (State.authFail s tk) := by
  unfold State.authFail
  with_reducible repeat' first
    | assumption | apply State.answer_keeps (h.mono (by decide)) | apply State.inc_keeps (h.mono (by decide))

theorem State.classRefusal_keeps (h : Keep P 16777220) {s : State} {x : Ctx} {tk : Tok} {t : State} (hs : P s) (ht : State.classRefusal s x tk = some t) :
    P t := by
  unfold State.classRefusal at ht
  repeat' first
    | (cases ht; done)
    | (cases ht)
    | with_reducible apply State.answer_keeps (h.mono (by decide))
    | with_reducible apply State.authFail_keeps (h.mono (by decide))
    | with_reducible assumption
    | split at ht

theorem State.replay_keeps (h : Keep P 16777220) {s : State} {tk : Tok} {st : Nat} (hs : P s) :
    P (State.replay s tk st) := by
  unfold State.replay
  with_reducible repeat' first
    | assumption | apply State.answer_keeps (h.mono (by decide)) | apply State.inc_keeps (h.mono (by decide))

theorem State.markSeen_keeps (h : Keep P 16777216) {s : State} {c : Nat} {hx : Nat} {seq : Nat} {x : Ctx} (hs : P s) :
    P (State.markSeen s c hx seq x) := by
  unfold State.markSeen
  with_reducible repeat' first
    | assumption | apply State.setCtx_keeps (h.mono (by decide)) | (extract_lets +onlyGivenNames x)

theorem State.window_keeps (h : Keep P 16777220) {s : State} {c : Nat} {x : Ctx} {tk : Tok} (hs : P s) :
    P (State.window s c x tk).1 := by
  unfold State.window
  with_reducible repeat' first
    | assumption | apply State.markSeen_keeps (h.mono (by decide)) | apply State.replay_keeps (h.mono (by decide))
    | apply keeps_ite (P := P) | apply keeps_iteFst (P := P)
    | (extract_lets +onlyGivenNames x; refine (fun (hx : P x) => ?_) ?_; clear_value x; rotate_left; dsimp -zeta only [x])
    | (extract_lets +onlyGivenNames x) | split | (refine keeps_snd (P := P) ‹_› ?_) | (refine keeps_fst (P := P) ‹_› ?_)

theorem State.dispatch_keeps (h : Keep P 117506716) {s : State} {tk : Tok} {pay : List Byte} {ms : Nat} (hs : P s) :
    P (State.dispatch s tk pay ms) := by
  unfold State.dispatch
  with_reducible repeat' first
    | assumption | apply State.renew_keeps (h.mono (by decide)) | apply State.closeSession_keeps (h.mono (by decide))
    | apply State.enqueue_keeps (h.mono (by decide)) | apply State.setpoint_keeps (h.mono (by decide))
    | apply State.finalReply_keeps (h.mono (by decide)) | apply State.log_keeps (h.mono (by decide))
    | apply State.useFree_keeps (h.mono (by decide)) | apply keeps_ite (P := P)
    | (extract_lets +onlyGivenNames x; refine (fun (hx : P x) => ?_) ?_; clear_value x; rotate_left; dsimp -zeta only [x])
    | (extract_lets +onlyGivenNames x) | split | (refine keeps_snd (P := P) ‹_› ?_) | (refine keeps_fst (P := P) ‹_› ?_)

theorem State.request_keeps (h : Keep P 481035288572) {s : State} {op : Nat} {cls : Nat} {q : Req} (hs : P s) :
    P (State.request s op cls q) := by
  unfold State.request
  with_reducible repeat' first
    | assumption | apply State.dispatch_keeps (h.mono (by decide)) | apply State.window_keeps (h.mono (by decide))
    | (refine State.classRefusal_keeps (h.mono (by decide)) ?_ ‹_ = some _›)
    | apply State.leaseExpire_keeps (h.mono (by decide)) | apply State.departUpTo_keeps (h.mono (by decide))
    | apply State.finalReply_keeps (h.mono (by decide)) | apply keeps_ite (P := P)
    | (extract_lets +onlyGivenNames x; refine (fun (hx : P x) => ?_) ?_; clear_value x; rotate_left; dsimp -zeta only [x])
    | (extract_lets +onlyGivenNames x) | split | (refine keeps_snd (P := P) ‹_› ?_) | (refine keeps_fst (P := P) ‹_› ?_)

theorem State.reasmEnd_keeps (h : Keep P 16777216) {s : State} {m : Reasm} {tk : Tok} (hs : P s) :
    P (State.reasmEnd s m tk) := by
  unfold State.reasmEnd
  with_reducible repeat' first
    | assumption | (intro _) | apply State.finalReply_keeps (h.mono (by decide))
    | (refine State.setKcp_keeps (h.mono (by decide)) (by intro hq; first | exact hq | (simp +zetaDelta [Kcp.Shaped] at hq ⊢ <;> simp [hq]; done) | simpa +zetaDelta [Kcp.Shaped] using hq) ?_)
    | (extract_lets +onlyGivenNames x)

theorem State.reasmAdd_keeps (h : Keep P 117506716) {s : State} {m : Reasm} {tk : Tok} {t : Nat} {r : RxFrame} (hs : P s) :
    P (State.reasmAdd s m tk t r) := by
  unfold State.reasmAdd
  with_reducible repeat' first
    | assumption | (intro _) | apply State.reasmEnd_keeps (h.mono (by decide)) | apply State.dispatch_keeps (h.mono (by decide))
    | (refine State.setKcp_keeps (h.mono (by decide)) (by intro hq; first | exact hq | (simp +zetaDelta [Kcp.Shaped] at hq ⊢ <;> simp [hq]; done) | simpa +zetaDelta [Kcp.Shaped] using hq) ?_)
    | apply keeps_ite (P := P)
    | (extract_lets +onlyGivenNames x; refine (fun (hx : P x.1) => ?_) ?_; clear_value x; rotate_left; dsimp -zeta only [x])
    | (extract_lets +onlyGivenNames x; refine (fun (hx : P x.2) => ?_) ?_; clear_value x; rotate_left; dsimp -zeta only [x])
    | (extract_lets +onlyGivenNames x) | split | (refine keeps_snd (P := P) ‹_› ?_) | (refine keeps_fst (P := P) ‹_› ?_)

theorem State.firstFrame_keeps (h : Keep P 117506716) {s : State} {c : Nat} {t : Nat} {tk : Tok} {r : RxFrame} (hs : P s) :
    P (State.firstFrame s c t tk r) := by
  unfold State.firstFrame
  with_reducible repeat' first
    | assumption | apply State.dispatch_keeps (h.mono (by decide)) | apply State.queueRefuse_keeps (h.mono (by decide))
    | apply State.finalReply_keeps (h.mono (by decide))
    | (refine State.setKcp_keeps (h.mono (by decide)) (by intro hq; first | exact hq | (simp +zetaDelta [Kcp.Shaped] at hq ⊢ <;> simp [hq]; done) | simpa +zetaDelta [Kcp.Shaped] using hq) ?_)
    | apply keeps_ite (P := P) | (extract_lets +onlyGivenNames x) | split | (refine keeps_snd (P := P) ‹_› ?_)
    | (refine keeps_fst (P := P) ‹_› ?_)

theorem State.sessionFrame_keeps (h : Keep P 117506716) {s : State} {t : Nat} {peer : Nat} {r : RxFrame} (hs : P s) :
    P (State.sessionFrame s t peer r) := by
  unfold State.sessionFrame
  with_reducible repeat' first
    | assumption | (intro _) | apply State.firstFrame_keeps (h.mono (by decide))
    | apply State.reasmAdd_keeps (h.mono (by decide)) | apply State.window_keeps (h.mono (by decide))
    | (refine State.classRefusal_keeps (h.mono (by decide)) ?_ ‹_ = some _›)
    | apply State.leaseExpire_keeps (h.mono (by decide)) | apply State.untagged_keeps (h.mono (by decide))
    | apply State.inc_keeps (h.mono (by decide)) | apply keeps_ite (P := P) | apply keeps_iteSnd (P := P)
    | apply keeps_iteFst (P := P) | apply keeps_foldl (P := P) | apply keeps_foldlPair (P := P)
    | (extract_lets +onlyGivenNames x; refine (fun (hx : P x) => ?_) ?_; clear_value x; rotate_left; dsimp -zeta only [x])
    | (extract_lets +onlyGivenNames x; refine (fun (hx : ∀ s, P s → P (x s)) => ?_) ?_; clear_value x; rotate_left; dsimp -zeta only [x])
    | (extract_lets +onlyGivenNames x; refine (fun (hx : ∀ s y, P s → P (x s y)) => ?_) ?_; clear_value x; rotate_left; dsimp -zeta only [x])
    | (extract_lets +onlyGivenNames x; refine (fun (hx : P x.1) => ?_) ?_; clear_value x; rotate_left; dsimp -zeta only [x])
    | (extract_lets +onlyGivenNames x; refine (fun (hx : P x.2) => ?_) ?_; clear_value x; rotate_left; dsimp -zeta only [x])
    | (extract_lets +onlyGivenNames x; refine (fun (hx : ∀ y, P (x y)) => ?_) ?_; clear_value x; rotate_left; dsimp -zeta only [x])
    | (extract_lets +onlyGivenNames x) | (exact ‹∀ y : _, P _› _) | (refine ‹∀ s : State, P s → P _› _ ?_)
    | (refine ‹∀ (s : State) (y : _), P s → P _› _ _ ?_) | (dsimp -zeta only) | split | (refine keeps_snd (P := P) ‹_› ?_)
    | (refine keeps_fst (P := P) ‹_› ?_)

theorem State.kpReceive_keeps (h : Keep P 117506716) {s : State} {t : Nat} {peer : Nat} {f : List Byte} (hs : P s) :
    P (State.kpReceive s t peer f) := by
  unfold State.kpReceive
  with_reducible repeat' first
    | assumption | (intro _) | apply State.sessionFrame_keeps (h.mono (by decide))
    | apply State.openRequest_keeps (h.mono (by decide)) | apply State.untagged_keeps (h.mono (by decide))
    | apply State.inc_keeps (h.mono (by decide)) | apply keeps_ite (P := P)
    | (extract_lets +onlyGivenNames x; refine (fun (hx : P x) => ?_) ?_; clear_value x; rotate_left; dsimp -zeta only [x])
    | (extract_lets +onlyGivenNames x; refine (fun (hx : P x.1) => ?_) ?_; clear_value x; rotate_left; dsimp -zeta only [x])
    | (extract_lets +onlyGivenNames x; refine (fun (hx : P x.2) => ?_) ?_; clear_value x; rotate_left; dsimp -zeta only [x])
    | (extract_lets +onlyGivenNames x) | split | (refine keeps_snd (P := P) ‹_› ?_) | (refine keeps_fst (P := P) ‹_› ?_)

end Sys2Proof.Machine
end

