-- ==== Sys2Proof/Laws/KeepCan.lean ====
section
/-! SUPPORT. What the operations of Machine/Can.lean keep (Laws/Keep.lean). -/

namespace Sys2Proof.Machine

variable {P : State → Prop}

theorem State.canEcr_keeps (h : Keep P 20) {s : State} {n : Nat} (hs : P s) :
    P (State.canEcr s n) := by
  unfold State.canEcr
  with_reducible repeat' first
    | assumption | apply State.useFree_keeps (h.mono (by decide)) | apply State.put_keeps (h.mono (by decide))
    | apply keeps_ite (P := P)
    | (extract_lets +onlyGivenNames x; refine (fun (hx : P x) => ?_) ?_; clear_value x; rotate_left; dsimp -zeta only [x])
    | (extract_lets +onlyGivenNames x)

theorem State.canBusOff_keeps (h : Keep P 8589934852) {s : State} {n : Nat} (hs : P s) :
    P (State.canBusOff s n) := by
  unfold State.canBusOff
  with_reducible repeat' first
    | assumption | apply State.canEndAll_keeps (h.mono (by decide)) | apply State.canFlag_keeps (h.mono (by decide))
    | apply State.setCan_keeps (h.mono (by decide)) | apply State.inc_keeps (h.mono (by decide))
    | apply State.put_keeps (h.mono (by decide)) | apply keeps_ite (P := P)
    | (extract_lets +onlyGivenNames x; refine (fun (hx : P x) => ?_) ?_; clear_value x; rotate_left; dsimp -zeta only [x])
    | (extract_lets +onlyGivenNames x)

theorem State.canErr_keeps (h : Keep P 8589934868) {s : State} {n : Nat} {tec : Nat} {recv : Nat} (hs : P s) :
    P (State.canErr s n tec recv) := by
  unfold State.canErr
  with_reducible repeat' first
    | assumption | apply State.canBusOff_keeps (h.mono (by decide)) | apply State.canEcr_keeps (h.mono (by decide))
    | apply State.canFlag_keeps (h.mono (by decide)) | apply State.setCan_keeps (h.mono (by decide))
    | apply State.put_keeps (h.mono (by decide)) | apply keeps_ite (P := P)
    | (extract_lets +onlyGivenNames x; refine (fun (hx : P x) => ?_) ?_; clear_value x; rotate_left; dsimp -zeta only [x])
    | (extract_lets +onlyGivenNames x)

theorem State.canRxError_keeps (h : Keep P 8589934868) {s : State} {n : Nat} {k : Nat} (hs : P s) :
    P (State.canRxError s n k) := by
  unfold State.canRxError
  with_reducible repeat' first
    | assumption | apply State.canErr_keeps (h.mono (by decide)) | apply keeps_ite (P := P)
    | (extract_lets +onlyGivenNames x; refine (fun (hx : P x) => ?_) ?_; clear_value x; rotate_left; dsimp -zeta only [x])
    | (extract_lets +onlyGivenNames x)

theorem State.canRxGood_keeps (h : Keep P 8589934868) {s : State} {n : Nat} (hs : P s) :
    P (State.canRxGood s n) := by
  unfold State.canRxGood
  with_reducible repeat' first
    | assumption | apply State.canErr_keeps (h.mono (by decide)) | apply State.useFree_keeps (h.mono (by decide))
    | apply keeps_ite (P := P)
    | (extract_lets +onlyGivenNames x; refine (fun (hx : P x) => ?_) ?_; clear_value x; rotate_left; dsimp -zeta only [x])
    | (extract_lets +onlyGivenNames x)

theorem State.canInit_keeps (h : Keep P 8589934852) {s : State} {n : Nat} (hs : P s) :
    P (State.canInit s n) := by
  unfold State.canInit
  with_reducible repeat' first
    | assumption | apply State.canEndAll_keeps (h.mono (by decide)) | apply State.setCan_keeps (h.mono (by decide))
    | apply State.put_keeps (h.mono (by decide))
    | (extract_lets +onlyGivenNames x; refine (fun (hx : P x) => ?_) ?_; clear_value x; rotate_left; dsimp -zeta only [x])
    | (extract_lets +onlyGivenNames x)

theorem State.canFrameEnd_keeps (h : Keep P 8589934852) {s : State} {n : Nat} (hs : P s) :
    P (State.canFrameEnd s n) := by
  unfold State.canFrameEnd
  with_reducible repeat' first
    | assumption | apply State.canInit_keeps (h.mono (by decide)) | apply keeps_ite (P := P)

theorem State.canKpSetup_keeps (h : Keep P 4) {s : State} {n : Nat} (hs : P s) :
    P (State.canKpSetup s n) := by
  unfold State.canKpSetup
  with_reducible repeat' first
    | assumption | (intro _) | apply State.wr_keeps (h.mono (by decide)) | apply keeps_ite (P := P) | apply keeps_foldl (P := P)
    | (extract_lets +onlyGivenNames x; refine (fun (hx : P x) => ?_) ?_; clear_value x; rotate_left; dsimp -zeta only [x])
    | (extract_lets +onlyGivenNames x)

theorem State.canLeaveInit_keeps (h : Keep P 8589934852) {s : State} {n : Nat} (hs : P s) :
    P (State.canLeaveInit s n) := by
  unfold State.canLeaveInit
  with_reducible repeat' first
    | assumption | apply State.canKpSetup_keeps (h.mono (by decide)) | apply State.canFlag_keeps (h.mono (by decide))
    | apply State.setCan_keeps (h.mono (by decide)) | apply State.put_keeps (h.mono (by decide)) | apply keeps_ite (P := P)
    | (extract_lets +onlyGivenNames x; refine (fun (hx : P x) => ?_) ?_; clear_value x; rotate_left; dsimp -zeta only [x])
    | (extract_lets +onlyGivenNames x)

theorem State.canRecover_keeps (h : Keep P 4) {s : State} {n : Nat} (hs : P s) :
    P (State.canRecover s n) := by
  unfold State.canRecover
  with_reducible repeat' first
    | assumption | apply State.put_keeps (h.mono (by decide)) | apply keeps_ite (P := P)

theorem State.canCtrlWrite_keeps (h : Keep P 8589934852) {s : State} {n : Nat} {v : Word} {busy : Bool} (hs : P s) :
    P (State.canCtrlWrite s n v busy) := by
  unfold State.canCtrlWrite
  with_reducible repeat' first
    | assumption | apply State.canRecover_keeps (h.mono (by decide)) | apply State.canLeaveInit_keeps (h.mono (by decide))
    | apply State.canInit_keeps (h.mono (by decide)) | apply State.canFlag_keeps (h.mono (by decide))
    | apply State.setCan_keeps (h.mono (by decide)) | apply State.put_keeps (h.mono (by decide))
    | apply State.wr_keeps (h.mono (by decide)) | apply keeps_ite (P := P)
    | (extract_lets +onlyGivenNames x; refine (fun (hx : P x) => ?_) ?_; clear_value x; rotate_left; dsimp -zeta only [x])
    | (extract_lets +onlyGivenNames x)

theorem State.canCfgWrite_keeps (h : Keep P 260) {s : State} {ini : Initiator} {n : Nat} {a : Nat} {v : Word} (hs : P s) :
    P (State.canCfgWrite s ini n a v) := by
  unfold State.canCfgWrite
  with_reducible repeat' first
    | assumption | apply State.canFlag_keeps (h.mono (by decide)) | apply State.fieldWrite_keeps (h.mono (by decide))
    | apply keeps_ite (P := P)
    | (extract_lets +onlyGivenNames x; refine (fun (hx : P x) => ?_) ?_; clear_value x; rotate_left; dsimp -zeta only [x])
    | (extract_lets +onlyGivenNames x)

theorem State.canWrite_keeps (h : Keep P 8589934876) {s : State} {ini : Initiator} {a : Nat} {v : Word} (hs : P s) :
    P (State.canWrite s ini a v) := by
  unfold State.canWrite
  with_reducible repeat' first
    | assumption | apply State.canCfgWrite_keeps (h.mono (by decide)) | apply State.canCtrlWrite_keeps (h.mono (by decide))
    | apply State.canTxWrite_keeps (h.mono (by decide)) | apply State.canRxfWrite_keeps (h.mono (by decide))
    | apply State.canTxCncl_keeps (h.mono (by decide)) | apply State.canTxReq_keeps (h.mono (by decide))
    | apply State.fieldWrite_keeps (h.mono (by decide)) | apply keeps_ite (P := P)
    | (extract_lets +onlyGivenNames x; refine (fun (hx : P x) => ?_) ?_; clear_value x; rotate_left; dsimp -zeta only [x])
    | (extract_lets +onlyGivenNames x)

theorem execCanInitSet_keeps (h : Keep P 8589943044) {ini : Initiator} {n : Fin 4} {val : Word} {busy : Bool} {s : State} (hs : P s) :
    Answers P (execCanInitSet ini n val busy s) := by
  unfold execCanInitSet
  refine ⟨_, rfl, ?_⟩
  with_reducible repeat' first
    | assumption | (intro _) | apply State.canCtrlWrite_keeps (h.mono (by decide))
    | apply State.busWrite_keeps (h.mono (by decide))
    | (extract_lets +onlyGivenNames x; refine (fun (hx : P x) => ?_) ?_; clear_value x; rotate_left; dsimp -zeta only [x])

theorem execCanInitClear_keeps (h : Keep P 8589943044) {ini : Initiator} {n : Fin 4} {val : Word} {s : State} (hs : P s) :
    Answers P (execCanInitClear ini n val s) := by
  unfold execCanInitClear
  refine ⟨_, rfl, ?_⟩
  with_reducible repeat' first
    | assumption | (intro _) | apply State.canCtrlWrite_keeps (h.mono (by decide))
    | apply State.busWrite_keeps (h.mono (by decide))
    | (extract_lets +onlyGivenNames x; refine (fun (hx : P x) => ?_) ?_; clear_value x; rotate_left; dsimp -zeta only [x])

theorem execCanBusIntegration_keeps (h : Keep P 8589934592) {n : Fin 4} {s : State} (hs : P s) :
    Answers P (execCanBusIntegration n s) := by
  unfold execCanBusIntegration
  refine ⟨_, rfl, ?_⟩
  with_reducible repeat' first
    | assumption | apply State.setCan_keeps (h.mono (by decide)) | apply keeps_ite (P := P) | (extract_lets +onlyGivenNames x)

theorem execCanRecover_keeps (h : Keep P 8589943044) {ini : Initiator} {n : Fin 4} {val : Word} {s : State} (hs : P s) :
    Answers P (execCanRecover ini n val s) := by
  unfold execCanRecover
  refine ⟨_, rfl, ?_⟩
  with_reducible repeat' first
    | assumption | (intro _) | apply State.canCtrlWrite_keeps (h.mono (by decide))
    | apply State.busWrite_keeps (h.mono (by decide))
    | (extract_lets +onlyGivenNames x; refine (fun (hx : P x) => ?_) ?_; clear_value x; rotate_left; dsimp -zeta only [x])

theorem execCanBusoffRecovered_keeps (h : Keep P 8589934868) {n : Fin 4} {s : State} (hs : P s) :
    Answers P (execCanBusoffRecovered n s) := by
  unfold execCanBusoffRecovered
  refine ⟨_, rfl, ?_⟩
  with_reducible repeat' first
    | assumption | apply State.canErr_keeps (h.mono (by decide)) | apply State.put_keeps (h.mono (by decide))
    | apply keeps_ite (P := P)

theorem execCanOpmodeChange_keeps (h : Keep P 8589934592) {n : Fin 4} {s : State} (hs : P s) :
    Answers P (execCanOpmodeChange n s) := by
  unfold execCanOpmodeChange
  refine ⟨_, rfl, ?_⟩
  with_reducible repeat' first
    | assumption | apply State.setCan_keeps (h.mono (by decide)) | apply keeps_ite (P := P) | (extract_lets +onlyGivenNames x)

theorem State.canStore_keeps (h : Keep P 8589934860) {s : State} {n : Nat} {k : Nat} {idx : Nat} {sof : Nat} {f : CanFrame} (hs : P s) :
    P (State.canStore s n k idx sof f) := by
  unfold State.canStore
  with_reducible repeat' first
    | assumption | apply State.canPop_keeps (h.mono (by decide)) | apply State.canFlag_keeps (h.mono (by decide))
    | apply State.wrBytes_keeps (h.mono (by decide)) | apply State.inc_keeps (h.mono (by decide))
    | apply State.put_keeps (h.mono (by decide)) | apply keeps_ite (P := P)
    | (extract_lets +onlyGivenNames x; refine (fun (hx : P x) => ?_) ?_; clear_value x; rotate_left; dsimp -zeta only [x])
    | (extract_lets +onlyGivenNames x)

theorem State.canKp_keeps (h : Keep P 117506716) {s : State} {n : Nat} {f : CanFrame} (hs : P s) :
    P (State.canKp s n f) := by
  unfold State.canKp
  with_reducible repeat' first
    | assumption | apply State.kpReceive_keeps (h.mono (by decide)) | apply keeps_ite (P := P)
    | (extract_lets +onlyGivenNames x; refine (fun (hx : P x) => ?_) ?_; clear_value x; rotate_left; dsimp -zeta only [x])
    | (extract_lets +onlyGivenNames x)

theorem State.canReceive_keeps (h : Keep P 8707441564) {s : State} {n : Nat} {f : CanFrame} {sof : Nat} (hs : P s) :
    P (State.canReceive s n f sof) := by
  unfold State.canReceive
  with_reducible repeat' first
    | assumption | apply State.canKp_keeps (h.mono (by decide)) | apply State.canStore_keeps (h.mono (by decide))
    | apply State.canFrameEnd_keeps (h.mono (by decide)) | apply State.canRxGood_keeps (h.mono (by decide))
    | apply State.useFree_keeps (h.mono (by decide)) | apply keeps_ite (P := P)
    | (extract_lets +onlyGivenNames x; refine (fun (hx : P x) => ?_) ?_; clear_value x; rotate_left; dsimp -zeta only [x])
    | (extract_lets +onlyGivenNames x) | split | (refine keeps_snd (P := P) ‹_› ?_) | (refine keeps_fst (P := P) ‹_› ?_)

theorem execCanFrameReceive_keeps (h : Keep P 8707441564) {n : Fin 4} {f : CanFrame} {sof : Nat} {s : State} (hs : P s) :
    Answers P (execCanFrameReceive n f sof s) := by
  unfold execCanFrameReceive
  refine ⟨_, rfl, ?_⟩
  with_reducible repeat' first
    | assumption | apply State.canReceive_keeps (h.mono (by decide))

theorem execCanReceiveError_keeps (h : Keep P 8589934868) {n : Fin 4} {eight : Bool} {s : State} (hs : P s) :
    Answers P (execCanReceiveError n eight s) := by
  unfold execCanReceiveError
  refine ⟨_, rfl, ?_⟩
  with_reducible repeat' first
    | assumption | apply State.canFrameEnd_keeps (h.mono (by decide)) | apply State.canRxError_keeps (h.mono (by decide))
    | apply keeps_ite (P := P)

theorem execCanRxfGet_keeps (h : Keep P 8589942788) {ini : Initiator} {n : Fin 4} {k : Fin 2} {val : Word} {s : State} (hs : P s) :
    Answers P (execCanRxfGet ini n k val s) := by
  unfold execCanRxfGet
  refine ⟨_, rfl, ?_⟩
  with_reducible repeat' first
    | assumption | (intro _) | apply State.canRxfWrite_keeps (h.mono (by decide))
    | apply State.busWrite_keeps (h.mono (by decide))
    | (extract_lets +onlyGivenNames x; refine (fun (hx : P x) => ?_) ?_; clear_value x; rotate_left; dsimp -zeta only [x])

theorem State.busRead_keeps (h : Keep P 8192) {s : State} {i : Initiator} {a : Nat} {f : State → State} (hs : P s) (hf : ∀ (y0 : State), P y0 → P (f y0)) :
    P (State.busRead s i a f) := by
  unfold State.busRead
  with_reducible repeat' first
    | assumption | (apply hf) | apply State.busError_keeps (h.mono (by decide)) | apply keeps_ite (P := P)

theorem execCanRxdmaRead_keeps (h : Keep P 8589942804) {ini : Initiator} {n : Fin 4} {s : State} (hs : P s) :
    Answers P (execCanRxdmaRead ini n s) := by
  unfold execCanRxdmaRead
  refine ⟨_, rfl, ?_⟩
  with_reducible repeat' first
    | assumption | (intro _) | apply State.busRead_keeps (h.mono (by decide)) | apply State.canRxRead_keeps (h.mono (by decide))
    | (extract_lets +onlyGivenNames x; refine (fun (hx : P x) => ?_) ?_; clear_value x; rotate_left; dsimp -zeta only [x])

theorem execCanTxdmaWrite_keeps (h : Keep P 8589943068) {ini : Initiator} {n : Fin 4} {val : Word} {sof : Bool} {s : State} (hs : P s) :
    Answers P (execCanTxdmaWrite ini n val sof s) := by
  unfold execCanTxdmaWrite
  refine ⟨_, rfl, ?_⟩
  with_reducible repeat' first
    | assumption | (intro _) | apply State.canTxWrite_keeps (h.mono (by decide))
    | apply State.busWrite_keeps (h.mono (by decide))
    | (extract_lets +onlyGivenNames x; refine (fun (hx : P x) => ?_) ?_; clear_value x; rotate_left; dsimp -zeta only [x])

theorem execCanTxreq_keeps (h : Keep P 8589943044) {ini : Initiator} {n : Fin 4} {val : Word} {sof : Bool} {s : State} (hs : P s) :
    Answers P (execCanTxreq ini n val sof s) := by
  unfold execCanTxreq
  refine ⟨_, rfl, ?_⟩
  with_reducible repeat' first
    | assumption | (intro _) | apply State.canTxReq_keeps (h.mono (by decide)) | apply State.busWrite_keeps (h.mono (by decide))
    | (extract_lets +onlyGivenNames x; refine (fun (hx : P x) => ?_) ?_; clear_value x; rotate_left; dsimp -zeta only [x])

theorem execCanTxcncl_keeps (h : Keep P 8589943044) {ini : Initiator} {n : Fin 4} {val : Word} {sof : Bool} {s : State} (hs : P s) :
    Answers P (execCanTxcncl ini n val sof s) := by
  unfold execCanTxcncl
  refine ⟨_, rfl, ?_⟩
  with_reducible repeat' first
    | assumption | (intro _) | apply State.canTxCncl_keeps (h.mono (by decide))
    | apply State.busWrite_keeps (h.mono (by decide))
    | (extract_lets +onlyGivenNames x; refine (fun (hx : P x) => ?_) ?_; clear_value x; rotate_left; dsimp -zeta only [x])

theorem State.canSent_keeps (h : Keep P 17179869184) {s : State} {n : Nat} {f : CanFrame} (hs : P s) :
    P (State.canSent s n f) := by
  unfold State.canSent
  with_reducible repeat' first
    | assumption | apply State.setCanTm_keeps (h.mono (by decide)) | (extract_lets +onlyGivenNames x)

theorem State.tmSent_keeps (h : Keep P 17179869184) {s : State} {n : Nat} {sof : Nat} (hs : P s) :
    P (State.tmSent s n sof) := by
  unfold State.tmSent
  with_reducible repeat' first
    | assumption | apply State.canSent_keeps (h.mono (by decide)) | apply State.setCanTm_keeps (h.mono (by decide))
    | (extract_lets +onlyGivenNames x; refine (fun (hx : P x) => ?_) ?_; clear_value x; rotate_left; dsimp -zeta only [x])
    | (extract_lets +onlyGivenNames x) | split | (refine keeps_snd (P := P) ‹_› ?_) | (refine keeps_fst (P := P) ‹_› ?_)

theorem State.canBufEnd_keeps (h : Keep P 25769804036) {s : State} {n : Nat} {b : Nat} {res : CanEnd} (hs : P s) :
    P (State.canBufEnd s n b res) := by
  unfold State.canBufEnd
  with_reducible repeat' first
    | assumption | apply State.canSent_keeps (h.mono (by decide)) | apply State.canEndBuf_keeps (h.mono (by decide))
    | apply keeps_ite (P := P)
    | (extract_lets +onlyGivenNames x; refine (fun (hx : P x) => ?_) ?_; clear_value x; rotate_left; dsimp -zeta only [x])
    | (extract_lets +onlyGivenNames x) | split | (refine keeps_snd (P := P) ‹_› ?_) | (refine keeps_fst (P := P) ‹_› ?_)

theorem State.canTxCount_keeps (h : Keep P 8589934868) {s : State} {n : Nat} {id : Nat} {xtd : Bool} {res : CanEnd} (hs : P s) :
    P (State.canTxCount s n id xtd res) := by
  unfold State.canTxCount
  with_reducible repeat' first
    | assumption | apply State.canErr_keeps (h.mono (by decide)) | apply State.canFlag_keeps (h.mono (by decide))
    | apply State.inc_keeps (h.mono (by decide)) | apply State.putB_keeps (h.mono (by decide))
    | apply State.put_keeps (h.mono (by decide)) | apply keeps_ite (P := P)
    | (extract_lets +onlyGivenNames x; refine (fun (hx : P x) => ?_) ?_; clear_value x; rotate_left; dsimp -zeta only [x])
    | (extract_lets +onlyGivenNames x) | split | (refine keeps_snd (P := P) ‹_› ?_) | (refine keeps_fst (P := P) ‹_› ?_)

theorem State.canTxEnd_keeps (h : Keep P 25769804052) {s : State} {n : Nat} {kp : Bool} {res : CanEnd} {sof : Nat} (hs : P s) :
    P (State.canTxEnd s n kp res sof) := by
  unfold State.canTxEnd
  with_reducible repeat' first
    | assumption | apply State.canTxCount_keeps (h.mono (by decide)) | apply State.canBufEnd_keeps (h.mono (by decide))
    | apply State.tmSent_keeps (h.mono (by decide)) | apply State.canFrameEnd_keeps (h.mono (by decide))
    | apply State.setCan_keeps (h.mono (by decide)) | apply State.useFree_keeps (h.mono (by decide)) | apply keeps_ite (P := P)
    | (extract_lets +onlyGivenNames x; refine (fun (hx : P x) => ?_) ?_; clear_value x; rotate_left; dsimp -zeta only [x])
    | (extract_lets +onlyGivenNames x) | split | (refine keeps_snd (P := P) ‹_› ?_) | (refine keeps_fst (P := P) ‹_› ?_)

theorem execCanTxEnd_keeps (h : Keep P 25769804052) {n : Fin 4} {kp : Bool} {res : CanEnd} {sof : Nat} {s : State} (hs : P s) :
    Answers P (execCanTxEnd n kp res sof s) := by
  unfold execCanTxEnd
  refine ⟨_, rfl, ?_⟩
  with_reducible repeat' first
    | assumption | apply State.canTxEnd_keeps (h.mono (by decide))

theorem State.tmInstant_keeps (h : Keep P 25769803780) {s : State} {sof : Bool} (hs : P s) :
    P (State.tmInstant s sof) := by
  unfold State.tmInstant
  with_reducible repeat' first
    | assumption | apply State.canSof_keeps (h.mono (by decide)) | apply State.setCan_keeps (h.mono (by decide))
    | apply State.inc_keeps (h.mono (by decide)) | apply State.put_keeps (h.mono (by decide))
    | apply State.setCanTm_keeps (h.mono (by decide)) | apply keeps_ite (P := P)
    | (extract_lets +onlyGivenNames x; refine (fun (hx : P x) => ?_) ?_; clear_value x; rotate_left; dsimp -zeta only [x])
    | (extract_lets +onlyGivenNames x)

theorem execCanTimeReference_keeps (h : Keep P 25769803780) {sof : Bool} {s : State} (hs : P s) :
    Answers P (execCanTimeReference sof s) := by
  unfold execCanTimeReference
  refine ⟨_, rfl, ?_⟩
  with_reducible repeat' first
    | assumption | apply State.tmInstant_keeps (h.mono (by decide))

end Sys2Proof.Machine
end

