-- ==== Sys2Proof/Laws/KeepCe.lean ====
section
/-! SUPPORT. What the operations of Machine/Ce.lean keep (Laws/Keep.lean). -/

namespace Sys2Proof.Machine

variable {P : State → Prop}

theorem State.ceRestart_keeps (h : Keep P 65540) {s : State} {n : Nat} (hs : P s) :
    P (State.ceRestart s n) := by
  unfold State.ceRestart
  with_reducible repeat' first
    | assumption | (intro _) | apply State.setCe_keeps (h.mono (by decide)) | apply State.put_keeps (h.mono (by decide))
    | apply keeps_ite (P := P)
    | (extract_lets +onlyGivenNames x; refine (fun (hx : P x) => ?_) ?_; clear_value x; rotate_left; dsimp -zeta only [x])
    | (extract_lets +onlyGivenNames x)

theorem State.ceRun_keeps (h : Keep P 65540) {s : State} {n : Nat} (hs : P s) :
    P (State.ceRun s n) := by
  unfold State.ceRun
  with_reducible repeat' first
    | assumption | apply State.setCe_keeps (h.mono (by decide)) | apply State.put_keeps (h.mono (by decide))
    | apply keeps_ite (P := P)
    | (extract_lets +onlyGivenNames x; refine (fun (hx : P x) => ?_) ?_; clear_value x; rotate_left; dsimp -zeta only [x])
    | (extract_lets +onlyGivenNames x)

theorem State.ceUntake_keeps (h : Keep P 65540) {s : State} {n : Nat} (hs : P s) :
    P (State.ceUntake s n) := by
  unfold State.ceUntake
  with_reducible repeat' first
    | assumption | apply State.setCe_keeps (h.mono (by decide)) | apply State.putFldBit_keeps (h.mono (by decide))
    | (extract_lets +onlyGivenNames x; refine (fun (hx : P x) => ?_) ?_; clear_value x; rotate_left; dsimp -zeta only [x])
    | (extract_lets +onlyGivenNames x) | split | (refine keeps_snd (P := P) ‹_› ?_) | (refine keeps_fst (P := P) ‹_› ?_)

theorem State.ceHalt_keeps (h : Keep P 65540) {s : State} {n : Nat} (hs : P s) :
    P (State.ceHalt s n) := by
  unfold State.ceHalt
  with_reducible repeat' first
    | assumption | apply State.ceUntake_keeps (h.mono (by decide)) | apply State.put_keeps (h.mono (by decide))
    | apply keeps_ite (P := P)
    | (extract_lets +onlyGivenNames x; refine (fun (hx : P x) => ?_) ?_; clear_value x; rotate_left; dsimp -zeta only [x])
    | (extract_lets +onlyGivenNames x)

theorem State.ceCtrlWrite_keeps (h : Keep P 65540) {s : State} {n : Nat} {v : Word} (hs : P s) :
    P (State.ceCtrlWrite s n v) := by
  unfold State.ceCtrlWrite
  with_reducible repeat' first
    | assumption | apply State.ceHalt_keeps (h.mono (by decide)) | apply State.ceRun_keeps (h.mono (by decide))
    | apply State.ceRestart_keeps (h.mono (by decide)) | apply State.fieldWrite_keeps (h.mono (by decide))
    | apply State.put_keeps (h.mono (by decide)) | apply keeps_ite (P := P)
    | (extract_lets +onlyGivenNames x; refine (fun (hx : P x) => ?_) ?_; clear_value x; rotate_left; dsimp -zeta only [x])
    | (extract_lets +onlyGivenNames x)

theorem State.ceBlock_keeps (h : Keep P 8192) {s : State} {ini : Initiator} {a : Nat} {f : State → State} (hs : P s) (hf : ∀ (y0 : State), P y0 → P (f y0)) :
    P (State.ceBlock s ini a f) := by
  unfold State.ceBlock
  with_reducible repeat' first
    | assumption | (intro _) | (apply hf) | apply State.busWrite_keeps (h.mono (by decide)) | apply keeps_ite (P := P)
    | (extract_lets +onlyGivenNames x; refine (fun (hx : P x) => ?_) ?_; clear_value x; rotate_left; dsimp -zeta only [x])

theorem execCeHalt_keeps (h : Keep P 73732) {ini : Initiator} {n : Fin 8} {val : Word} {s : State} (hs : P s) :
    Answers P (execCeHalt ini n val s) := by
  unfold execCeHalt
  refine ⟨_, rfl, ?_⟩
  with_reducible repeat' first
    | assumption | (intro _) | apply State.ceBlock_keeps (h.mono (by decide))
    | apply State.ceCtrlWrite_keeps (h.mono (by decide))
    | (extract_lets +onlyGivenNames x; refine (fun (hx : P x) => ?_) ?_; clear_value x; rotate_left; dsimp -zeta only [x])

theorem execCeRun_keeps (h : Keep P 73732) {ini : Initiator} {n : Fin 8} {val : Word} {s : State} (hs : P s) :
    Answers P (execCeRun ini n val s) := by
  unfold execCeRun
  refine ⟨_, rfl, ?_⟩
  with_reducible repeat' first
    | assumption | (intro _) | apply State.ceBlock_keeps (h.mono (by decide))
    | apply State.ceCtrlWrite_keeps (h.mono (by decide))
    | (extract_lets +onlyGivenNames x; refine (fun (hx : P x) => ?_) ?_; clear_value x; rotate_left; dsimp -zeta only [x])

theorem execCeRestart_keeps (h : Keep P 73732) {ini : Initiator} {n : Fin 8} {val : Word} {s : State} (hs : P s) :
    Answers P (execCeRestart ini n val s) := by
  unfold execCeRestart
  refine ⟨_, rfl, ?_⟩
  with_reducible repeat' first
    | assumption | (intro _) | apply State.ceBlock_keeps (h.mono (by decide))
    | apply State.ceCtrlWrite_keeps (h.mono (by decide))
    | (extract_lets +onlyGivenNames x; refine (fun (hx : P x) => ?_) ?_; clear_value x; rotate_left; dsimp -zeta only [x])

theorem State.ceRing_keeps (h : Keep P 65540) {s : State} {n : Nat} {v : Word} (hs : P s) :
    P (State.ceRing s n v) := by
  unfold State.ceRing
  with_reducible repeat' first
    | assumption | (intro _) | apply State.ceComplete_keeps (h.mono (by decide)) | apply keeps_ite (P := P)
    | apply keeps_foldl (P := P)
    | (extract_lets +onlyGivenNames x; refine (fun (hx : P x) => ?_) ?_; clear_value x; rotate_left; dsimp -zeta only [x])

theorem execCeDoorbell_keeps (h : Keep P 73732) {ini : Initiator} {n : Fin 8} {val : Word} {s : State} (hs : P s) :
    Answers P (execCeDoorbell ini n val s) := by
  unfold execCeDoorbell
  refine ⟨_, rfl, ?_⟩
  with_reducible repeat' first
    | assumption | (intro _) | apply State.ceRing_keeps (h.mono (by decide)) | apply State.ceBlock_keeps (h.mono (by decide))
    | (extract_lets +onlyGivenNames x; refine (fun (hx : P x) => ?_) ?_; clear_value x; rotate_left; dsimp -zeta only [x])

theorem State.ceSetWrite_keeps (h : Keep P 65540) {s : State} {n : Nat} {a : Nat} {v : Word} (hs : P s) :
    P (State.ceSetWrite s n a v) := by
  unfold State.ceSetWrite
  with_reducible repeat' first
    | assumption | apply State.fieldWrite_keeps (h.mono (by decide)) | apply State.setCe_keeps (h.mono (by decide))
    | apply State.putFldBit_keeps (h.mono (by decide))
    | (extract_lets +onlyGivenNames x; refine (fun (hx : P x) => ?_) ?_; clear_value x; rotate_left; dsimp -zeta only [x])
    | (extract_lets +onlyGivenNames x) | split | (refine keeps_snd (P := P) ‹_› ?_) | (refine keeps_fst (P := P) ‹_› ?_)

theorem execCeTriggerSetWrite_keeps (h : Keep P 73732) {ini : Initiator} {n : Fin 8} {addr : Word} {val : Word} {s : State} (hs : P s) :
    Answers P (execCeTriggerSetWrite ini n addr val s) := by
  unfold execCeTriggerSetWrite
  refine ⟨_, rfl, ?_⟩
  with_reducible repeat' first
    | assumption | (intro _) | apply State.ceSetWrite_keeps (h.mono (by decide))
    | apply State.ceBlock_keeps (h.mono (by decide)) | apply keeps_ite (P := P)
    | (extract_lets +onlyGivenNames x; refine (fun (hx : P x) => ?_) ?_; clear_value x; rotate_left; dsimp -zeta only [x])

theorem State.ceDlstatWrite_keeps (h : Keep P 4) {s : State} {ini : Initiator} {n : Nat} {v : Word} (hs : P s) :
    P (State.ceDlstatWrite s ini n v) := by
  unfold State.ceDlstatWrite
  with_reducible repeat' first
    | assumption | apply State.fieldWrite_keeps (h.mono (by decide)) | apply keeps_ite (P := P)

theorem execCeEscClear_keeps (h : Keep P 8196) {ini : Initiator} {n : Fin 8} {val : Word} {s : State} (hs : P s) :
    Answers P (execCeEscClear ini n val s) := by
  unfold execCeEscClear
  refine ⟨_, rfl, ?_⟩
  with_reducible repeat' first
    | assumption | (intro _) | apply State.ceDlstatWrite_keeps (h.mono (by decide))
    | apply State.busWrite_keeps (h.mono (by decide))
    | (extract_lets +onlyGivenNames x; refine (fun (hx : P x) => ?_) ?_; clear_value x; rotate_left; dsimp -zeta only [x])

end Sys2Proof.Machine
end

