-- ==== Sys2Proof/Laws/KeepDmaOps.lean ====
section
/-! SUPPORT. What the operations of Machine/DmaOps.lean keep (Laws/Keep.lean). -/

namespace Sys2Proof.Machine

variable {P : State → Prop}

theorem State.mramStore_keeps (h : Keep P 16384) {s : State} {a : Nat} {v : List Byte} {x3 : Nat} (hs : P s) :
    P (State.mramStore s a v x3) := by
  induction x3 generalizing s a v with
  | zero =>
    unfold State.mramStore
    with_reducible repeat' first
      | (with_reducible apply ih) | with_reducible assumption | with_reducible apply State.setMramW_keeps (h.mono (by decide)) | with_reducible apply keeps_ite (P := P) | (extract_lets +onlyGivenNames x; refine (fun (hx : P x) => ?_) ?_; clear_value x; rotate_left; dsimp -zeta only [x]) | (extract_lets +onlyGivenNames x)
  | succ k ih =>
    unfold State.mramStore
    with_reducible repeat' first
      | (with_reducible apply ih) | with_reducible assumption | with_reducible apply State.setMramW_keeps (h.mono (by decide)) | with_reducible apply keeps_ite (P := P) | (extract_lets +onlyGivenNames x; refine (fun (hx : P x) => ?_) ?_; clear_value x; rotate_left; dsimp -zeta only [x]) | (extract_lets +onlyGivenNames x)


theorem State.memStore_keeps (h : Keep P 16392) {s : State} {a : Nat} {v : List Byte} (hs : P s) :
    P (State.memStore s a v) := by
  unfold State.memStore
  with_reducible repeat' first
    | assumption | apply State.mramStore_keeps (h.mono (by decide)) | apply State.wrBytes_keeps (h.mono (by decide))
    | apply keeps_ite (P := P)

theorem State.tcmPut_keeps (h : Keep P 65548) {s : State} {i : Initiator} {w : Nat} {a : Nat} {v : List Byte} (hs : P s) :
    P (State.tcmPut s i w a v) := by
  unfold State.tcmPut
  with_reducible repeat' first
    | assumption | (intro _) | apply State.setCe_keeps (h.mono (by decide)) | apply State.wrBytes_keeps (h.mono (by decide))
    | apply State.inc_keeps (h.mono (by decide)) | apply keeps_ite (P := P)
    | (extract_lets +onlyGivenNames x; refine (fun (hx : P x) => ?_) ?_; clear_value x; rotate_left; dsimp -zeta only [x])
    | (extract_lets +onlyGivenNames x; refine (fun (hx : P x.1) => ?_) ?_; clear_value x; rotate_left; dsimp -zeta only [x])
    | (extract_lets +onlyGivenNames x; refine (fun (hx : P x.2) => ?_) ?_; clear_value x; rotate_left; dsimp -zeta only [x])
    | (extract_lets +onlyGivenNames x)

theorem State.tcmStore_keeps (h : Keep P 65548) {s : State} {i : Initiator} {a : Nat} {v : List Byte} {x4 : Nat} (hs : P s) :
    P (State.tcmStore s i a v x4) := by
  induction x4 generalizing s i a v with
  | zero =>
    unfold State.tcmStore
    with_reducible repeat' first
      | (with_reducible apply ih) | with_reducible assumption | with_reducible apply State.tcmPut_keeps (h.mono (by decide)) | with_reducible apply keeps_ite (P := P) | (extract_lets +onlyGivenNames x; refine (fun (hx : P x) => ?_) ?_; clear_value x; rotate_left; dsimp -zeta only [x]) | (extract_lets +onlyGivenNames x)
  | succ k ih =>
    unfold State.tcmStore
    with_reducible repeat' first
      | (with_reducible apply ih) | with_reducible assumption | with_reducible apply State.tcmPut_keeps (h.mono (by decide)) | with_reducible apply keeps_ite (P := P) | (extract_lets +onlyGivenNames x; refine (fun (hx : P x) => ?_) ?_; clear_value x; rotate_left; dsimp -zeta only [x]) | (extract_lets +onlyGivenNames x)


theorem execMramBlockWrite_keeps (h : Keep P 16392) {s : State} (hs : P s) :
    Answers P (execMramBlockWrite s) := by
  unfold execMramBlockWrite
  refine ⟨_, rfl, ?_⟩
  with_reducible repeat' first
    | assumption | apply State.wrBytes_keeps (h.mono (by decide)) | apply State.setMramW_keeps (h.mono (by decide)) | split
    | (refine keeps_snd (P := P) ‹_› ?_) | (refine keeps_fst (P := P) ‹_› ?_)

theorem execStuLock_keeps (h : Keep P 8196) {ini : Initiator} {val : Word} {s : State} (hs : P s) :
    Answers P (execStuLock ini val s) := by
  unfold execStuLock
  refine ⟨_, rfl, ?_⟩
  with_reducible repeat' first
    | assumption | (intro _) | apply State.fieldWrite_keeps (h.mono (by decide))
    | apply State.busWrite_keeps (h.mono (by decide))
    | (extract_lets +onlyGivenNames x; refine (fun (hx : P x) => ?_) ?_; clear_value x; rotate_left; dsimp -zeta only [x])

theorem State.setDmaCh_keeps (h : Keep P 4294967296) {s : State} {c : Nat} {x : DmaCh} (hs : P s) :
    P (State.setDmaCh s c x) := by
  unfold State.setDmaCh
  with_reducible repeat' first
    | assumption
    | (refine State.setDma_keeps (h.mono (by decide)) (by intro hq; first | exact hq | (simp +zetaDelta [Dma.Shaped] at hq ⊢ <;> simp [hq]; done) | simpa +zetaDelta [Dma.Shaped] using hq) ?_)
    | (extract_lets +onlyGivenNames x)

theorem State.dmaIrq_keeps (h : Keep P 256) {s : State} {c : Nat} {ev : Nat} (hs : P s) :
    P (State.dmaIrq s c ev) := by
  unfold State.dmaIrq
  with_reducible repeat' first
    | assumption | apply State.irq_keeps (h.mono (by decide)) | apply keeps_ite (P := P)
    | (extract_lets +onlyGivenNames x; refine (fun (hx : P x) => ?_) ?_; clear_value x; rotate_left; dsimp -zeta only [x])
    | (extract_lets +onlyGivenNames x)

theorem State.dmaComplete_keeps (h : Keep P 4294967556) {s : State} {c : Nat} (hs : P s) :
    P (State.dmaComplete s c) := by
  unfold State.dmaComplete
  with_reducible repeat' first
    | assumption | apply State.dmaIrq_keeps (h.mono (by decide)) | apply State.setDmaCh_keeps (h.mono (by decide))
    | apply State.put_keeps (h.mono (by decide)) | apply keeps_ite (P := P)
    | (extract_lets +onlyGivenNames x; refine (fun (hx : P x) => ?_) ?_; clear_value x; rotate_left; dsimp -zeta only [x])
    | (extract_lets +onlyGivenNames x)

theorem State.dmaFault_keeps (h : Keep P 4294967684) {s : State} {c : Nat} {err : Nat} {typ : Nat} {a : Nat} (hs : P s) :
    P (State.dmaFault s c err typ a) := by
  unfold State.dmaFault
  with_reducible repeat' first
    | assumption | apply State.dmaIrq_keeps (h.mono (by decide)) | apply State.setDmaCh_keeps (h.mono (by decide))
    | apply State.log_keeps (h.mono (by decide)) | apply State.put_keeps (h.mono (by decide)) | apply keeps_ite (P := P)
    | (extract_lets +onlyGivenNames x; refine (fun (hx : P x) => ?_) ?_; clear_value x; rotate_left; dsimp -zeta only [x])
    | (extract_lets +onlyGivenNames x)

theorem State.dmaRelease_keeps (h : Keep P 4294967296) {s : State} {c : Nat} (hs : P s) :
    P (State.dmaRelease s c) := by
  unfold State.dmaRelease
  with_reducible repeat' first
    | assumption
    | (refine State.setDma_keeps (h.mono (by decide)) (by intro hq; first | exact hq | (simp +zetaDelta [Dma.Shaped] at hq ⊢ <;> simp [hq]; done) | simpa +zetaDelta [Dma.Shaped] using hq) ?_)
    | apply keeps_ite (P := P) | (extract_lets +onlyGivenNames x)

theorem State.dmaWait_keeps (h : Keep P 4294967556) {s : State} {c : Nat} (hs : P s) :
    P (State.dmaWait s c) := by
  unfold State.dmaWait
  with_reducible repeat' first
    | assumption | apply State.dmaComplete_keeps (h.mono (by decide)) | apply State.setDmaCh_keeps (h.mono (by decide))
    | apply State.put_keeps (h.mono (by decide)) | apply keeps_ite (P := P)
    | (extract_lets +onlyGivenNames x; refine (fun (hx : P x) => ?_) ?_; clear_value x; rotate_left; dsimp -zeta only [x])
    | (extract_lets +onlyGivenNames x)

theorem State.dmaStart_keeps (h : Keep P 4294967684) {s : State} {c : Nat} {fw : Bool} (hs : P s) :
    P (State.dmaStart s c fw) := by
  unfold State.dmaStart
  with_reducible repeat' first
    | assumption | apply State.dmaWait_keeps (h.mono (by decide)) | apply State.dmaRelease_keeps (h.mono (by decide))
    | apply State.dmaIrq_keeps (h.mono (by decide)) | apply State.setDmaCh_keeps (h.mono (by decide))
    | apply State.log_keeps (h.mono (by decide)) | apply State.put_keeps (h.mono (by decide))
    | apply State.wr_keeps (h.mono (by decide)) | apply keeps_ite (P := P)
    | (extract_lets +onlyGivenNames x; refine (fun (hx : P x) => ?_) ?_; clear_value x; rotate_left; dsimp -zeta only [x])
    | (extract_lets +onlyGivenNames x)

theorem State.dmaResume_keeps (h : Keep P 4294967556) {s : State} {c : Nat} (hs : P s) :
    P (State.dmaResume s c) := by
  unfold State.dmaResume
  with_reducible repeat' first
    | assumption | apply State.dmaWait_keeps (h.mono (by decide)) | apply State.put_keeps (h.mono (by decide))
    | apply keeps_ite (P := P)

theorem State.dmaAbort_keeps (h : Keep P 4294967300) {s : State} {c : Nat} (hs : P s) :
    P (State.dmaAbort s c) := by
  unfold State.dmaAbort
  with_reducible repeat' first
    | assumption | apply State.setDmaCh_keeps (h.mono (by decide)) | apply State.put_keeps (h.mono (by decide))
    | apply keeps_ite (P := P)
    | (extract_lets +onlyGivenNames x; refine (fun (hx : P x) => ?_) ?_; clear_value x; rotate_left; dsimp -zeta only [x])
    | (extract_lets +onlyGivenNames x)

theorem State.dmaGrant_keeps (h : Keep P 4294967300) {s : State} {c : Nat} (hs : P s) :
    P (State.dmaGrant s c) := by
  unfold State.dmaGrant
  with_reducible repeat' first
    | assumption | apply State.setDmaCh_keeps (h.mono (by decide)) | apply State.put_keeps (h.mono (by decide))
    | (refine State.setDma_keeps (h.mono (by decide)) (by intro hq; first | exact hq | (simp +zetaDelta [Dma.Shaped] at hq ⊢ <;> simp [hq]; done) | simpa +zetaDelta [Dma.Shaped] using hq) ?_)
    | apply keeps_ite (P := P)
    | (extract_lets +onlyGivenNames x; refine (fun (hx : P x) => ?_) ?_; clear_value x; rotate_left; dsimp -zeta only [x])
    | (extract_lets +onlyGivenNames x)

theorem State.dmaArbitrate_keeps (h : Keep P 4294967300) {s : State} (hs : P s) :
    P (State.dmaArbitrate s) := by
  unfold State.dmaArbitrate
  with_reducible repeat' first
    | assumption | apply State.dmaGrant_keeps (h.mono (by decide)) | apply State.put_keeps (h.mono (by decide))
    | (refine State.setDma_keeps (h.mono (by decide)) (by intro hq; first | exact hq | (simp +zetaDelta [Dma.Shaped] at hq ⊢ <;> simp [hq]; done) | simpa +zetaDelta [Dma.Shaped] using hq) ?_)
    | (extract_lets +onlyGivenNames x; refine (fun (hx : P x) => ?_) ?_; clear_value x; rotate_left; dsimp -zeta only [x])
    | (extract_lets +onlyGivenNames x) | split | (refine keeps_snd (P := P) ‹_› ?_) | (refine keeps_fst (P := P) ‹_› ?_)

theorem State.dmaKick_keeps (h : Keep P 4294967300) {s : State} (hs : P s) :
    P (State.dmaKick s) := by
  unfold State.dmaKick
  with_reducible repeat' first
    | assumption | apply State.dmaArbitrate_keeps (h.mono (by decide)) | apply keeps_ite (P := P)

theorem State.dmaCtrl_keeps (h : Keep P 4294967684) {s : State} {c : Nat} {fw : Bool} {v : Word} (hs : P s) :
    P (State.dmaCtrl s c fw v) := by
  unfold State.dmaCtrl
  with_reducible repeat' first
    | assumption | apply State.dmaKick_keeps (h.mono (by decide)) | apply State.dmaAbort_keeps (h.mono (by decide))
    | apply State.dmaResume_keeps (h.mono (by decide)) | apply State.dmaStart_keeps (h.mono (by decide))
    | apply State.fieldWrite_keeps (h.mono (by decide)) | apply keeps_ite (P := P)
    | (extract_lets +onlyGivenNames x; refine (fun (hx : P x) => ?_) ?_; clear_value x; rotate_left; dsimp -zeta only [x])
    | (extract_lets +onlyGivenNames x)

theorem State.dmaWrite_keeps (h : Keep P 4294967684) {s : State} {ini : Initiator} {a : Nat} {v : Word} (hs : P s) :
    P (State.dmaWrite s ini a v) := by
  unfold State.dmaWrite
  with_reducible repeat' first
    | assumption | apply State.dmaCtrl_keeps (h.mono (by decide)) | apply State.fieldWrite_keeps (h.mono (by decide))
    | apply State.inc_keeps (h.mono (by decide)) | apply State.put_keeps (h.mono (by decide)) | apply keeps_ite (P := P)
    | (extract_lets +onlyGivenNames x; refine (fun (hx : P x) => ?_) ?_; clear_value x; rotate_left; dsimp -zeta only [x])
    | (extract_lets +onlyGivenNames x)

theorem execDmaStart_keeps (h : Keep P 4294975876) {ini : Initiator} {c : Fin 32} {val : Word} {s : State} (hs : P s) :
    Answers P (execDmaStart ini c val s) := by
  unfold execDmaStart
  refine ⟨_, rfl, ?_⟩
  with_reducible repeat' first
    | assumption | (intro _) | apply State.dmaWrite_keeps (h.mono (by decide)) | apply State.busWrite_keeps (h.mono (by decide))
    | (extract_lets +onlyGivenNames x; refine (fun (hx : P x) => ?_) ?_; clear_value x; rotate_left; dsimp -zeta only [x])

theorem execDmaResume_keeps (h : Keep P 4294975876) {ini : Initiator} {c : Fin 32} {val : Word} {s : State} (hs : P s) :
    Answers P (execDmaResume ini c val s) := by
  unfold execDmaResume
  refine ⟨_, rfl, ?_⟩
  with_reducible repeat' first
    | assumption | (intro _) | apply State.dmaWrite_keeps (h.mono (by decide)) | apply State.busWrite_keeps (h.mono (by decide))
    | (extract_lets +onlyGivenNames x; refine (fun (hx : P x) => ?_) ?_; clear_value x; rotate_left; dsimp -zeta only [x])

theorem execDmaAbort_keeps (h : Keep P 4294975876) {ini : Initiator} {c : Fin 32} {val : Word} {s : State} (hs : P s) :
    Answers P (execDmaAbort ini c val s) := by
  unfold execDmaAbort
  refine ⟨_, rfl, ?_⟩
  with_reducible repeat' first
    | assumption | (intro _) | apply State.dmaWrite_keeps (h.mono (by decide)) | apply State.busWrite_keeps (h.mono (by decide))
    | (extract_lets +onlyGivenNames x; refine (fun (hx : P x) => ?_) ?_; clear_value x; rotate_left; dsimp -zeta only [x])

theorem State.dmaRequest_keeps (h : Keep P 4294967300) {s : State} {c : Nat} (hs : P s) :
    P (State.dmaRequest s c) := by
  unfold State.dmaRequest
  with_reducible repeat' first
    | assumption | apply State.dmaKick_keeps (h.mono (by decide)) | apply State.setDmaCh_keeps (h.mono (by decide))
    | apply State.inc_keeps (h.mono (by decide)) | apply keeps_ite (P := P)
    | (extract_lets +onlyGivenNames x; refine (fun (hx : P x) => ?_) ?_; clear_value x; rotate_left; dsimp -zeta only [x])
    | (extract_lets +onlyGivenNames x)

theorem execDmaRequest_keeps (h : Keep P 4294967300) {c : Fin 32} {s : State} (hs : P s) :
    Answers P (execDmaRequest c s) := by
  unfold execDmaRequest
  refine ⟨_, rfl, ?_⟩
  with_reducible repeat' first
    | assumption | apply State.dmaRequest_keeps (h.mono (by decide)) | apply keeps_ite (P := P)

end Sys2Proof.Machine
end

