-- ==== Sys2Proof/Laws/KeepGate.lean ====
section
/-! SUPPORT. What the operations of Machine/Gate.lean keep (Laws/Keep.lean). -/

namespace Sys2Proof.Machine

variable {P : State → Prop}

theorem execGateCommandEdge_keeps (h : Keep P 2097300) {g : Fin 64} {short : Bool} {near : Bool} {level : BitVec 10} {s : State} (hs : P s) :
    Answers P (execGateCommandEdge g short near level s) := by
  unfold execGateCommandEdge
  refine ⟨_, rfl, ?_⟩
  with_reducible repeat' first
    | assumption | apply State.gateCommand_keeps (h.mono (by decide)) | apply keeps_ite (P := P)

theorem State.ginEdge_keeps (h : Keep P 2097300) {s : State} {g : Nat} {up : Bool} {short : Bool} {near : Bool} {level : Nat} (hs : P s) :
    P (State.ginEdge s g up short near level) := by
  unfold State.ginEdge
  with_reducible repeat' first
    | assumption | apply State.ginPass_keeps (h.mono (by decide)) | apply State.setGate_keeps (h.mono (by decide))
    | apply keeps_ite (P := P)
    | (extract_lets +onlyGivenNames x; refine (fun (hx : P x) => ?_) ?_; clear_value x; rotate_left; dsimp -zeta only [x])
    | (extract_lets +onlyGivenNames x)

theorem execGinEdge_keeps (h : Keep P 2097300) {g : Fin 64} {up : Bool} {short : Bool} {near : Bool} {level : BitVec 10} {s : State} (hs : P s) :
    Answers P (execGinEdge g up short near level s) := by
  unfold execGinEdge
  refine ⟨_, rfl, ?_⟩
  with_reducible repeat' first
    | assumption | apply State.ginEdge_keeps (h.mono (by decide))

theorem State.keepaliveLoss_keeps (h : Keep P 2097300) {s : State} {g : Nat} {level : Nat} (hs : P s) :
    P (State.keepaliveLoss s g level) := by
  unfold State.keepaliveLoss
  with_reducible repeat' first
    | assumption | apply State.gateFollow_keeps (h.mono (by decide)) | apply State.setGate_keeps (h.mono (by decide))
    | apply State.log_keeps (h.mono (by decide)) | apply State.put_keeps (h.mono (by decide)) | apply keeps_ite (P := P)
    | (extract_lets +onlyGivenNames x)

theorem execKeepaliveLoss_keeps (h : Keep P 2097300) {g : Fin 64} {level : BitVec 10} {s : State} (hs : P s) :
    Answers P (execKeepaliveLoss g level s) := by
  unfold execKeepaliveLoss
  refine ⟨_, rfl, ?_⟩
  with_reducible repeat' first
    | assumption | apply State.keepaliveLoss_keeps (h.mono (by decide))

theorem State.linkResume_keeps (h : Keep P 2097172) {s : State} {g : Nat} {level : Nat} (hs : P s) :
    P (State.linkResume s g level) := by
  unfold State.linkResume
  with_reducible repeat' first
    | assumption | apply State.gateFollow_keeps (h.mono (by decide)) | apply State.setGate_keeps (h.mono (by decide))
    | apply keeps_ite (P := P)
    | (extract_lets +onlyGivenNames x; refine (fun (hx : P x) => ?_) ?_; clear_value x; rotate_left; dsimp -zeta only [x])
    | (extract_lets +onlyGivenNames x)

theorem execLinkResume_keeps (h : Keep P 2097172) {g : Fin 64} {level : BitVec 10} {s : State} (hs : P s) :
    Answers P (execLinkResume g level s) := by
  unfold execLinkResume
  refine ⟨_, rfl, ?_⟩
  with_reducible repeat' first
    | assumption | apply State.linkResume_keeps (h.mono (by decide))

theorem State.biasReady_keeps (h : Keep P 2097172) {s : State} {g : Nat} {level : Nat} (hs : P s) :
    P (State.biasReady s g level) := by
  unfold State.biasReady
  with_reducible repeat' first
    | assumption | apply State.gateFollow_keeps (h.mono (by decide)) | apply State.setGate_keeps (h.mono (by decide))
    | apply State.put_keeps (h.mono (by decide)) | apply keeps_ite (P := P)
    | (extract_lets +onlyGivenNames x; refine (fun (hx : P x) => ?_) ?_; clear_value x; rotate_left; dsimp -zeta only [x])
    | (extract_lets +onlyGivenNames x)

theorem execBiasRegulationReached_keeps (h : Keep P 2097172) {g : Fin 64} {level : BitVec 10} {s : State} (hs : P s) :
    Answers P (execBiasRegulationReached g level s) := by
  unfold execBiasRegulationReached
  refine ⟨_, rfl, ?_⟩
  with_reducible repeat' first
    | assumption | apply State.biasReady_keeps (h.mono (by decide))

theorem State.gdWrite_keeps (h : Keep P 8192) {s : State} {ini : Initiator} {g : Nat} {a : Nat} {f : State → State} (hs : P s) (hf : ∀ (y0 : State), P y0 → P (f y0)) :
    P (State.gdWrite s ini g a f) := by
  unfold State.gdWrite
  with_reducible repeat' first
    | assumption | (intro _) | (apply hf) | apply State.busWrite_keeps (h.mono (by decide)) | apply keeps_ite (P := P)
    | (extract_lets +onlyGivenNames x; refine (fun (hx : P x) => ?_) ?_; clear_value x; rotate_left; dsimp -zeta only [x])

theorem execGdgLock_keeps (h : Keep P 8196) {ini : Initiator} {val : Word} {s : State} (hs : P s) :
    Answers P (execGdgLock ini val s) := by
  unfold execGdgLock
  refine ⟨_, rfl, ?_⟩
  with_reducible repeat' first
    | assumption | (intro _) | apply State.fieldWrite_keeps (h.mono (by decide))
    | apply State.busWrite_keeps (h.mono (by decide))
    | (extract_lets +onlyGivenNames x; refine (fun (hx : P x) => ?_) ?_; clear_value x; rotate_left; dsimp -zeta only [x])

theorem State.phaseNext_keeps (h : Keep P 2097152) {s : State} {g : Nat} (hs : P s) :
    P (State.phaseNext s g) := by
  unfold State.phaseNext
  with_reducible repeat' first
    | assumption | apply State.setPhase_keeps (h.mono (by decide)) | apply keeps_ite (P := P)
    | (extract_lets +onlyGivenNames x; refine (fun (hx : P x) => ?_) ?_; clear_value x; rotate_left; dsimp -zeta only [x])
    | (extract_lets +onlyGivenNames x)

theorem State.phaseEnd_keeps (h : Keep P 2097152) {s : State} {g : Nat} (hs : P s) :
    P (State.phaseEnd s g) := by
  unfold State.phaseEnd
  with_reducible repeat' first
    | assumption | apply State.phaseNext_keeps (h.mono (by decide)) | apply keeps_ite (P := P)
    | (extract_lets +onlyGivenNames x; refine (fun (hx : P x) => ?_) ?_; clear_value x; rotate_left; dsimp -zeta only [x])
    | (extract_lets +onlyGivenNames x)

theorem execEdgePhaseEnd_keeps (h : Keep P 2097152) {g : Fin 64} {s : State} (hs : P s) :
    Answers P (execEdgePhaseEnd g s) := by
  unfold execEdgePhaseEnd
  refine ⟨_, rfl, ?_⟩
  with_reducible repeat' first
    | assumption | apply State.phaseEnd_keeps (h.mono (by decide))

theorem State.profilePush_keeps (h : Keep P 2097152) {s : State} {g : Nat} {on : Bool} {v : Word} {reload : Bool} (hs : P s) :
    P (State.profilePush s g on v reload) := by
  unfold State.profilePush
  with_reducible repeat' first
    | assumption | apply State.setGate_keeps (h.mono (by decide)) | apply keeps_ite (P := P)
    | (extract_lets +onlyGivenNames x; refine (fun (hx : P x) => ?_) ?_; clear_value x; rotate_left; dsimp -zeta only [x])
    | (extract_lets +onlyGivenNames x)

theorem State.profileWrite_keeps (h : Keep P 2097156) {s : State} {g : Nat} {on : Bool} {v : Word} (hs : P s) :
    P (State.profileWrite s g on v) := by
  unfold State.profileWrite
  with_reducible repeat' first
    | assumption | apply State.profilePush_keeps (h.mono (by decide)) | apply State.fieldWrite_keeps (h.mono (by decide))
    | apply keeps_ite (P := P)
    | (extract_lets +onlyGivenNames x; refine (fun (hx : P x) => ?_) ?_; clear_value x; rotate_left; dsimp -zeta only [x])
    | (extract_lets +onlyGivenNames x)

theorem execGdProfileWrite_keeps (h : Keep P 2105348) {ini : Initiator} {g : Fin 64} {on : Bool} {val : Word} {s : State} (hs : P s) :
    Answers P (execGdProfileWrite ini g on val s) := by
  unfold execGdProfileWrite
  refine ⟨_, rfl, ?_⟩
  with_reducible repeat' first
    | assumption | (intro _) | apply State.profileWrite_keeps (h.mono (by decide))
    | apply State.gdWrite_keeps (h.mono (by decide))
    | (extract_lets +onlyGivenNames x; refine (fun (hx : P x) => ?_) ?_; clear_value x; rotate_left; dsimp -zeta only [x])

theorem State.loopWrite_keeps (h : Keep P 2097156) {s : State} {g : Nat} {v : Word} (hs : P s) :
    P (State.loopWrite s g v) := by
  unfold State.loopWrite
  with_reducible repeat' first
    | assumption | (intro _) | apply State.profilePush_keeps (h.mono (by decide))
    | apply State.setGate_keeps (h.mono (by decide)) | apply State.fieldWrite_keeps (h.mono (by decide))
    | apply keeps_ite (P := P) | apply keeps_foldl (P := P)
    | (extract_lets +onlyGivenNames x; refine (fun (hx : P x) => ?_) ?_; clear_value x; rotate_left; dsimp -zeta only [x])
    | (extract_lets +onlyGivenNames x)

theorem execGdLoopWrite_keeps (h : Keep P 2105348) {ini : Initiator} {g : Fin 64} {val : Word} {s : State} (hs : P s) :
    Answers P (execGdLoopWrite ini g val s) := by
  unfold execGdLoopWrite
  refine ⟨_, rfl, ?_⟩
  with_reducible repeat' first
    | assumption | (intro _) | apply State.loopWrite_keeps (h.mono (by decide)) | apply State.gdWrite_keeps (h.mono (by decide))
    | (extract_lets +onlyGivenNames x; refine (fun (hx : P x) => ?_) ?_; clear_value x; rotate_left; dsimp -zeta only [x])

theorem State.loopStep_keeps (h : Keep P 4) {s : State} {g : Nat} {on : Bool} {n : Nat} {dvdt : Nat} (hs : P s) :
    P (State.loopStep s g on n dvdt) := by
  unfold State.loopStep
  with_reducible repeat' first
    | assumption | apply State.inc_keeps (h.mono (by decide)) | apply State.put_keeps (h.mono (by decide))
    | apply keeps_ite (P := P)
    | (extract_lets +onlyGivenNames x; refine (fun (hx : P x) => ?_) ?_; clear_value x; rotate_left; dsimp -zeta only [x])
    | (extract_lets +onlyGivenNames x)

theorem State.edgeMeasured_keeps (h : Keep P 2097172) {s : State} {g : Nat} {on : Bool} {cross : Option (Nat × Nat)} (hs : P s) :
    P (State.edgeMeasured s g on cross) := by
  unfold State.edgeMeasured
  with_reducible repeat' first
    | assumption | apply State.loopStep_keeps (h.mono (by decide)) | apply State.edgeInvalid_keeps (h.mono (by decide))
    | apply State.setGate_keeps (h.mono (by decide)) | apply State.wr_keeps (h.mono (by decide)) | apply keeps_ite (P := P)
    | (extract_lets +onlyGivenNames x; refine (fun (hx : P x) => ?_) ?_; clear_value x; rotate_left; dsimp -zeta only [x])
    | (extract_lets +onlyGivenNames x) | split | (refine keeps_snd (P := P) ‹_› ?_) | (refine keeps_fst (P := P) ‹_› ?_)

theorem execEdgeMeasured_keeps (h : Keep P 2097172) {g : Fin 64} {on : Bool} {cross : Option (Nat × Nat)} {s : State} (hs : P s) :
    Answers P (execEdgeMeasured g on cross s) := by
  unfold execEdgeMeasured
  refine ⟨_, rfl, ?_⟩
  with_reducible repeat' first
    | assumption | apply State.edgeMeasured_keeps (h.mono (by decide))

theorem State.refreshStart_keeps (h : Keep P 2097156) {s : State} {g : Nat} (hs : P s) :
    P (State.refreshStart s g) := by
  unfold State.refreshStart
  with_reducible repeat' first
    | assumption | apply State.setGate_keeps (h.mono (by decide)) | apply State.inc_keeps (h.mono (by decide))
    | apply State.put_keeps (h.mono (by decide)) | apply keeps_ite (P := P)
    | (extract_lets +onlyGivenNames x; refine (fun (hx : P x) => ?_) ?_; clear_value x; rotate_left; dsimp -zeta only [x])
    | (extract_lets +onlyGivenNames x)

theorem execBootRefreshStart_keeps (h : Keep P 2097156) {g : Fin 64} {s : State} (hs : P s) :
    Answers P (execBootRefreshStart g s) := by
  unfold execBootRefreshStart
  refine ⟨_, rfl, ?_⟩
  with_reducible repeat' first
    | assumption | apply State.refreshStart_keeps (h.mono (by decide))

theorem State.lowAgain_keeps (h : Keep P 4) {s : State} {g : Nat} (hs : P s) :
    P (State.lowAgain s g) := by
  unfold State.lowAgain
  with_reducible repeat' first
    | assumption | apply State.driveLow_keeps (h.mono (by decide))

theorem State.refreshStep_keeps (h : Keep P 2097156) {s : State} {g : Nat} (hs : P s) :
    P (State.refreshStep s g) := by
  unfold State.refreshStep
  with_reducible repeat' first
    | assumption | apply State.lowAgain_keeps (h.mono (by decide)) | apply State.driveHigh_keeps (h.mono (by decide))
    | apply State.setGate_keeps (h.mono (by decide)) | apply State.put_keeps (h.mono (by decide)) | apply keeps_ite (P := P)
    | (extract_lets +onlyGivenNames x; refine (fun (hx : P x) => ?_) ?_; clear_value x; rotate_left; dsimp -zeta only [x])
    | (extract_lets +onlyGivenNames x)

theorem execBootRefreshStep_keeps (h : Keep P 2097156) {g : Fin 64} {s : State} (hs : P s) :
    Answers P (execBootRefreshStep g s) := by
  unfold execBootRefreshStep
  refine ⟨_, rfl, ?_⟩
  with_reducible repeat' first
    | assumption | apply State.refreshStep_keeps (h.mono (by decide))

theorem State.bootUnder_keeps (h : Keep P 2097284) {s : State} {g : Nat} {v : Int} (hs : P s) :
    P (State.bootUnder s g v) := by
  unfold State.bootUnder
  with_reducible repeat' first
    | assumption | apply State.lowAgain_keeps (h.mono (by decide)) | apply State.setGate_keeps (h.mono (by decide))
    | apply State.log_keeps (h.mono (by decide)) | apply State.put_keeps (h.mono (by decide)) | apply keeps_ite (P := P)
    | (extract_lets +onlyGivenNames x; refine (fun (hx : P x) => ?_) ?_; clear_value x; rotate_left; dsimp -zeta only [x])
    | (extract_lets +onlyGivenNames x)

theorem execBootUndervoltage_keeps (h : Keep P 2097284) {g : Fin 64} {v : Int} {s : State} (hs : P s) :
    Answers P (execBootUndervoltage g v s) := by
  unfold execBootUndervoltage
  refine ⟨_, rfl, ?_⟩
  with_reducible repeat' first
    | assumption | apply State.bootUnder_keeps (h.mono (by decide))

theorem State.bootWrite_keeps (h : Keep P 4) {s : State} {g : Nat} {v : Word} (hs : P s) :
    P (State.bootWrite s g v) := by
  unfold State.bootWrite
  with_reducible repeat' first
    | assumption | apply State.lowAgain_keeps (h.mono (by decide)) | apply State.fieldWrite_keeps (h.mono (by decide))
    | apply keeps_ite (P := P)
    | (extract_lets +onlyGivenNames x; refine (fun (hx : P x) => ?_) ?_; clear_value x; rotate_left; dsimp -zeta only [x])
    | (extract_lets +onlyGivenNames x)

theorem State.gdStatusWrite_keeps (h : Keep P 4) {s : State} {g : Nat} {v : Word} {ok : Bool} (hs : P s) :
    P (State.gdStatusWrite s g v ok) := by
  unfold State.gdStatusWrite
  with_reducible repeat' first
    | assumption | apply State.lowAgain_keeps (h.mono (by decide)) | apply State.fieldWrite_keeps (h.mono (by decide))
    | apply State.put_keeps (h.mono (by decide)) | apply keeps_ite (P := P)
    | (extract_lets +onlyGivenNames x; refine (fun (hx : P x) => ?_) ?_; clear_value x; rotate_left; dsimp -zeta only [x])
    | (extract_lets +onlyGivenNames x)

theorem execGdBuvClear_keeps (h : Keep P 8196) {ini : Initiator} {g : Fin 64} {val : Word} {v : Int} {s : State} (hs : P s) :
    Answers P (execGdBuvClear ini g val v s) := by
  unfold execGdBuvClear
  refine ⟨_, rfl, ?_⟩
  with_reducible repeat' first
    | assumption | (intro _) | apply State.gdStatusWrite_keeps (h.mono (by decide))
    | apply State.gdWrite_keeps (h.mono (by decide))
    | (extract_lets +onlyGivenNames x; refine (fun (hx : P x) => ?_) ?_; clear_value x; rotate_left; dsimp -zeta only [x])

theorem State.didtArm_keeps (h : Keep P 2097152) {s : State} {g : Nat} (hs : P s) :
    P (State.didtArm s g) := by
  unfold State.didtArm
  with_reducible repeat' first
    | assumption | apply State.setGate_keeps (h.mono (by decide)) | apply keeps_ite (P := P)
    | (extract_lets +onlyGivenNames x; refine (fun (hx : P x) => ?_) ?_; clear_value x; rotate_left; dsimp -zeta only [x])
    | (extract_lets +onlyGivenNames x)

theorem execDidtArm_keeps (h : Keep P 2097152) {g : Fin 64} {s : State} (hs : P s) :
    Answers P (execDidtArm g s) := by
  unfold execDidtArm
  refine ⟨_, rfl, ?_⟩
  with_reducible repeat' first
    | assumption | apply State.didtArm_keeps (h.mono (by decide))

theorem State.dsatBlankEnd_keeps (h : Keep P 2097152) {s : State} {g : Nat} (hs : P s) :
    P (State.dsatBlankEnd s g) := by
  unfold State.dsatBlankEnd
  with_reducible repeat' first
    | assumption | apply State.setGate_keeps (h.mono (by decide)) | apply keeps_ite (P := P)
    | (extract_lets +onlyGivenNames x; refine (fun (hx : P x) => ?_) ?_; clear_value x; rotate_left; dsimp -zeta only [x])
    | (extract_lets +onlyGivenNames x)

theorem execDsatBlankEnd_keeps (h : Keep P 2097152) {g : Fin 64} {s : State} (hs : P s) :
    Answers P (execDsatBlankEnd g s) := by
  unfold execDsatBlankEnd
  refine ⟨_, rfl, ?_⟩
  with_reducible repeat' first
    | assumption | apply State.dsatBlankEnd_keeps (h.mono (by decide))

theorem State.softOff_keeps (h : Keep P 2097156) {s : State} {g : Nat} (hs : P s) :
    P (State.softOff s g) := by
  unfold State.softOff
  with_reducible repeat' first
    | assumption | apply State.edgeSpoil_keeps (h.mono (by decide)) | apply State.setGate_keeps (h.mono (by decide))
    | apply State.put_keeps (h.mono (by decide))
    | (extract_lets +onlyGivenNames x; refine (fun (hx : P x) => ?_) ?_; clear_value x; rotate_left; dsimp -zeta only [x])
    | (extract_lets +onlyGivenNames x)

theorem State.scgWatch_keeps (h : Keep P 481035284428) {s : State} {f : State → State} (hs : P s) (hf : ∀ (y0 : State), P y0 → P (f y0)) :
    P (State.scgWatch s f) := by
  unfold State.scgWatch
  with_reducible repeat' first
    | assumption | (intro _) | (apply hf) | apply State.osdAbort_keeps (h.mono (by decide)) | apply keeps_ite (P := P)
    | (extract_lets +onlyGivenNames x; refine (fun (hx : P x) => ?_) ?_; clear_value x; rotate_left; dsimp -zeta only [x])
    | (extract_lets +onlyGivenNames x; refine (fun (hx : ∀ s, P s → P (x s)) => ?_) ?_; clear_value x; rotate_left; dsimp -zeta only [x])
    | (extract_lets +onlyGivenNames x) | (refine ‹∀ s : State, P s → P _› _ ?_)

theorem State.gateFault_keeps (h : Keep P 481035288572) {s : State} {g : Nat} {level : Nat} {typ : Nat} {act : Bool} (hs : P s) :
    P (State.gateFault s g level typ act) := by
  unfold State.gateFault
  with_reducible repeat' first
    | assumption | (intro _) | apply State.scgWatch_keeps (h.mono (by decide)) | apply State.bSource_keeps (h.mono (by decide))
    | apply State.bMirror_keeps (h.mono (by decide)) | apply State.stageFault_keeps (h.mono (by decide))
    | apply State.scgReact_keeps (h.mono (by decide)) | apply State.tripScan_keeps (h.mono (by decide))
    | apply State.log_keeps (h.mono (by decide)) | apply State.irqIf_keeps (h.mono (by decide))
    | apply State.irq_keeps (h.mono (by decide)) | apply keeps_ite (P := P)
    | (extract_lets +onlyGivenNames x; refine (fun (hx : P x) => ?_) ?_; clear_value x; rotate_left; dsimp -zeta only [x])
    | (extract_lets +onlyGivenNames x)

theorem State.shortDetect_keeps (h : Keep P 481035288572) {s : State} {g : Nat} {di : Bool} {v : Int} (hs : P s) :
    P (State.shortDetect s g di v) := by
  unfold State.shortDetect
  with_reducible repeat' first
    | assumption | apply State.gateFault_keeps (h.mono (by decide)) | apply State.softOff_keeps (h.mono (by decide))
    | apply State.put_keeps (h.mono (by decide)) | apply keeps_ite (P := P)
    | (extract_lets +onlyGivenNames x; refine (fun (hx : P x) => ?_) ?_; clear_value x; rotate_left; dsimp -zeta only [x])
    | (extract_lets +onlyGivenNames x)

theorem execDidtDetect_keeps (h : Keep P 481035288572) {g : Fin 64} {v : Int} {s : State} (hs : P s) :
    Answers P (execDidtDetect g v s) := by
  unfold execDidtDetect
  refine ⟨_, rfl, ?_⟩
  with_reducible repeat' first
    | assumption | apply State.shortDetect_keeps (h.mono (by decide))

theorem execDsatDetect_keeps (h : Keep P 481035288572) {g : Fin 64} {v : Int} {s : State} (hs : P s) :
    Answers P (execDsatDetect g v s) := by
  unfold execDsatDetect
  refine ⟨_, rfl, ?_⟩
  with_reducible repeat' first
    | assumption | apply State.shortDetect_keeps (h.mono (by decide))

theorem State.softEnd_keeps (h : Keep P 2097156) {s : State} {g : Nat} (hs : P s) :
    P (State.softEnd s g) := by
  unfold State.softEnd
  with_reducible repeat' first
    | assumption | apply State.setPhase_keeps (h.mono (by decide)) | apply State.put_keeps (h.mono (by decide))
    | apply keeps_ite (P := P)

theorem execSoftTurnoffEnd_keeps (h : Keep P 2097156) {g : Fin 64} {s : State} (hs : P s) :
    Answers P (execSoftTurnoffEnd g s) := by
  unfold execSoftTurnoffEnd
  refine ⟨_, rfl, ?_⟩
  with_reducible repeat' first
    | assumption | apply State.softEnd_keeps (h.mono (by decide))

theorem State.railAct_keeps (h : Keep P 2097156) {s : State} {g : Nat} (hs : P s) :
    P (State.railAct s g) := by
  unfold State.railAct
  with_reducible repeat' first
    | assumption | apply State.softOff_keeps (h.mono (by decide)) | apply State.edgeSpoil_keeps (h.mono (by decide))
    | apply keeps_ite (P := P)

theorem State.railUnder_keeps (h : Keep P 481035288572) {s : State} {g : Nat} {neg : Bool} {v : Int} (hs : P s) :
    P (State.railUnder s g neg v) := by
  unfold State.railUnder
  with_reducible repeat' first
    | assumption | apply State.railAct_keeps (h.mono (by decide)) | apply State.gateFault_keeps (h.mono (by decide))
    | apply State.put_keeps (h.mono (by decide)) | apply keeps_ite (P := P)
    | (extract_lets +onlyGivenNames x; refine (fun (hx : P x) => ?_) ?_; clear_value x; rotate_left; dsimp -zeta only [x])
    | (extract_lets +onlyGivenNames x)

theorem execRailUndervoltage_keeps (h : Keep P 481035288572) {g : Fin 64} {neg : Bool} {v : Int} {s : State} (hs : P s) :
    Answers P (execRailUndervoltage g neg v s) := by
  unfold execRailUndervoltage
  refine ⟨_, rfl, ?_⟩
  with_reducible repeat' first
    | assumption | apply State.railUnder_keeps (h.mono (by decide))

theorem State.clampEngage_keeps (h : Keep P 4) {s : State} {g : Nat} {v : Int} (hs : P s) :
    P (State.clampEngage s g v) := by
  unfold State.clampEngage
  with_reducible repeat' first
    | assumption | apply State.put_keeps (h.mono (by decide)) | apply keeps_ite (P := P)

theorem execMillerClampEngage_keeps (h : Keep P 4) {g : Fin 64} {v : Int} {s : State} (hs : P s) :
    Answers P (execMillerClampEngage g v s) := by
  unfold execMillerClampEngage
  refine ⟨_, rfl, ?_⟩
  with_reducible repeat' first
    | assumption | apply State.clampEngage_keeps (h.mono (by decide))

theorem State.nuvAct_keeps (h : Keep P 481035288572) {s : State} {g : Nat} (hs : P s) :
    P (State.nuvAct s g) := by
  unfold State.nuvAct
  with_reducible repeat' first
    | assumption | apply State.railAct_keeps (h.mono (by decide)) | apply State.bSource_keeps (h.mono (by decide))
    | apply State.stageFault_keeps (h.mono (by decide)) | apply keeps_ite (P := P)
    | (extract_lets +onlyGivenNames x; refine (fun (hx : P x) => ?_) ?_; clear_value x; rotate_left; dsimp -zeta only [x])
    | (extract_lets +onlyGivenNames x)

theorem State.protWrite_keeps (h : Keep P 481035288572) {s : State} {g : Nat} {v : Word} (hs : P s) :
    P (State.protWrite s g v) := by
  unfold State.protWrite
  with_reducible repeat' first
    | assumption | (intro _) | apply State.nuvAct_keeps (h.mono (by decide)) | apply State.scgWatch_keeps (h.mono (by decide))
    | apply State.bMirror_keeps (h.mono (by decide)) | apply State.scgAll_keeps (h.mono (by decide))
    | apply State.fieldWrite_keeps (h.mono (by decide)) | apply State.tripScan_keeps (h.mono (by decide))
    | apply State.put_keeps (h.mono (by decide)) | apply keeps_ite (P := P)
    | (extract_lets +onlyGivenNames x; refine (fun (hx : P x) => ?_) ?_; clear_value x; rotate_left; dsimp -zeta only [x])
    | (extract_lets +onlyGivenNames x)

theorem State.scgWrite_keeps (h : Keep P 481035284444) {s : State} {a : Nat} {v : Word} (hs : P s) :
    P (State.scgWrite s a v) := by
  unfold State.scgWrite
  with_reducible repeat' first
    | assumption | (intro _) | apply State.scgWatch_keeps (h.mono (by decide)) | apply State.bMirror_keeps (h.mono (by decide))
    | apply State.scgAll_keeps (h.mono (by decide)) | apply State.fieldWrite_keeps (h.mono (by decide))
    | (extract_lets +onlyGivenNames x; refine (fun (hx : P x) => ?_) ?_; clear_value x; rotate_left; dsimp -zeta only [x])

theorem State.gdCfgWrite_keeps (h : Keep P 2097300) {s : State} {g : Nat} {v : Word} (hs : P s) :
    P (State.gdCfgWrite s g v) := by
  unfold State.gdCfgWrite
  with_reducible repeat' first
    | assumption | apply State.gateCommand_keeps (h.mono (by decide)) | apply State.fieldWrite_keeps (h.mono (by decide))
    | apply State.useFree_keeps (h.mono (by decide))

theorem State.pfltBit_keeps (h : Keep P 4) {s : State} {g : Nat} {f : Fld} {v : Word} {ok : Bool} (hs : P s) :
    P (State.pfltBit s g f v ok) := by
  unfold State.pfltBit
  with_reducible repeat' first
    | assumption | apply State.put_keeps (h.mono (by decide)) | apply keeps_ite (P := P)

theorem State.pfltWrite_keeps (h : Keep P 481035284444) {s : State} {g : Nat} {v : Word} {posOk : Bool} {negOk : Bool} (hs : P s) :
    P (State.pfltWrite s g v posOk negOk) := by
  unfold State.pfltWrite
  with_reducible repeat' first
    | assumption | (intro _) | apply State.pfltBit_keeps (h.mono (by decide)) | apply State.scgWatch_keeps (h.mono (by decide))
    | apply State.bMirror_keeps (h.mono (by decide)) | apply State.scgEval_keeps (h.mono (by decide))
    | apply State.tripScan_keeps (h.mono (by decide)) | apply State.put_keeps (h.mono (by decide)) | apply keeps_ite (P := P)
    | (extract_lets +onlyGivenNames x; refine (fun (hx : P x) => ?_) ?_; clear_value x; rotate_left; dsimp -zeta only [x])
    | (extract_lets +onlyGivenNames x) | split | (refine keeps_snd (P := P) ‹_› ?_) | (refine keeps_fst (P := P) ‹_› ?_)

theorem execPfltClear_keeps (h : Keep P 481035284444) {ini : Initiator} {g : Fin 64} {val : Word} {pos : Int} {neg : Int} {s : State} (hs : P s) :
    Answers P (execPfltClear ini g val pos neg s) := by
  unfold execPfltClear
  refine ⟨_, rfl, ?_⟩
  with_reducible repeat' first
    | assumption | (intro _) | apply State.pfltWrite_keeps (h.mono (by decide)) | apply State.gdWrite_keeps (h.mono (by decide))
    | (extract_lets +onlyGivenNames x; refine (fun (hx : P x) => ?_) ?_; clear_value x; rotate_left; dsimp -zeta only [x])

theorem State.scgDelayEnd_keeps (h : Keep P 481035284444) {s : State} {n : Nat} (hs : P s) :
    P (State.scgDelayEnd s n) := by
  unfold State.scgDelayEnd
  with_reducible repeat' first
    | assumption | apply State.bMirror_keeps (h.mono (by decide)) | apply State.osdAbort_keeps (h.mono (by decide))
    | apply State.scgLog_keeps (h.mono (by decide)) | apply State.scgLines_keeps (h.mono (by decide))
    | apply State.put_keeps (h.mono (by decide)) | apply keeps_ite (P := P)
    | (extract_lets +onlyGivenNames x; refine (fun (hx : P x) => ?_) ?_; clear_value x; rotate_left; dsimp -zeta only [x])
    | (extract_lets +onlyGivenNames x)

theorem execScgAscDelayEnd_keeps (h : Keep P 481035284444) {n : Fin 8} {s : State} (hs : P s) :
    Answers P (execScgAscDelayEnd n s) := by
  unfold execScgAscDelayEnd
  refine ⟨_, rfl, ?_⟩
  with_reducible repeat' first
    | assumption | apply State.scgDelayEnd_keeps (h.mono (by decide))

theorem State.scgClear_keeps (h : Keep P 481035284444) {s : State} {n : Nat} {v : Word} (hs : P s) :
    P (State.scgClear s n v) := by
  unfold State.scgClear
  with_reducible repeat' first
    | assumption | apply State.bMirror_keeps (h.mono (by decide)) | apply State.scgLog_keeps (h.mono (by decide))
    | apply State.scgLines_keeps (h.mono (by decide)) | apply State.scgSides_keeps (h.mono (by decide))
    | apply State.setScg_keeps (h.mono (by decide)) | apply State.wr_keeps (h.mono (by decide)) | apply keeps_ite (P := P)
    | (extract_lets +onlyGivenNames x; refine (fun (hx : P x) => ?_) ?_; clear_value x; rotate_left; dsimp -zeta only [x])
    | (extract_lets +onlyGivenNames x)

theorem execScgClr_keeps (h : Keep P 481035284444) {ini : Initiator} {n : Fin 8} {val : Word} {s : State} (hs : P s) :
    Answers P (execScgClr ini n val s) := by
  unfold execScgClr
  refine ⟨_, rfl, ?_⟩
  with_reducible repeat' first
    | assumption | (intro _) | apply State.scgClear_keeps (h.mono (by decide)) | apply State.busWrite_keeps (h.mono (by decide))
    | (extract_lets +onlyGivenNames x; refine (fun (hx : P x) => ?_) ?_; clear_value x; rotate_left; dsimp -zeta only [x])

theorem State.osdCtrlWrite_keeps (h : Keep P 481035288572) {s : State} {v : Word} (hs : P s) :
    P (State.osdCtrlWrite s v) := by
  unfold State.osdCtrlWrite
  with_reducible repeat' first
    | assumption | apply State.osdStart_keeps (h.mono (by decide)) | apply State.osdAbort_keeps (h.mono (by decide))
    | apply State.fieldWrite_keeps (h.mono (by decide)) | apply keeps_ite (P := P)
    | (extract_lets +onlyGivenNames x; refine (fun (hx : P x) => ?_) ?_; clear_value x; rotate_left; dsimp -zeta only [x])
    | (extract_lets +onlyGivenNames x)

theorem execOsdctrlStart_keeps (h : Keep P 481035288572) {ini : Initiator} {val : Word} {s : State} (hs : P s) :
    Answers P (execOsdctrlStart ini val s) := by
  unfold execOsdctrlStart
  refine ⟨_, rfl, ?_⟩
  with_reducible repeat' first
    | assumption | (intro _) | apply State.osdCtrlWrite_keeps (h.mono (by decide))
    | apply State.busWrite_keeps (h.mono (by decide))
    | (extract_lets +onlyGivenNames x; refine (fun (hx : P x) => ?_) ?_; clear_value x; rotate_left; dsimp -zeta only [x])

theorem execOsdctrlAbort_keeps (h : Keep P 481035288572) {ini : Initiator} {val : Word} {s : State} (hs : P s) :
    Answers P (execOsdctrlAbort ini val s) := by
  unfold execOsdctrlAbort
  refine ⟨_, rfl, ?_⟩
  with_reducible repeat' first
    | assumption | (intro _) | apply State.osdCtrlWrite_keeps (h.mono (by decide))
    | apply State.busWrite_keeps (h.mono (by decide))
    | (extract_lets +onlyGivenNames x; refine (fun (hx : P x) => ?_) ?_; clear_value x; rotate_left; dsimp -zeta only [x])

theorem State.osdBiasReady_keeps (h : Keep P 481035284428) {s : State} (hs : P s) :
    P (State.osdBiasReady s) := by
  unfold State.osdBiasReady
  with_reducible repeat' first
    | assumption | apply State.osdCheck_keeps (h.mono (by decide)) | apply keeps_ite (P := P)

theorem execOsdBiasReady_keeps (h : Keep P 481035284428) {s : State} (hs : P s) :
    Answers P (execOsdBiasReady s) := by
  unfold execOsdBiasReady
  refine ⟨_, rfl, ?_⟩
  with_reducible repeat' first
    | assumption | apply State.osdBiasReady_keeps (h.mono (by decide))

theorem State.osdResult_keeps (h : Keep P 4) {s : State} {f : Fld} {fail : Bool} {eval : Bool} (hs : P s) :
    P (State.osdResult s f fail eval) := by
  unfold State.osdResult
  with_reducible repeat' first
    | assumption | apply State.inc_keeps (h.mono (by decide)) | apply State.put_keeps (h.mono (by decide))
    | apply keeps_ite (P := P)

theorem State.osdStep_keeps (h : Keep P 20) {s : State} {st : OsdStep} {a : Nat} {b : Nat} (hs : P s) :
    P (State.osdStep s st a b) := by
  unfold State.osdStep
  with_reducible repeat' first
    | assumption | apply State.osdResult_keeps (h.mono (by decide)) | apply State.useFree_keeps (h.mono (by decide))
    | apply State.put_keeps (h.mono (by decide)) | apply keeps_ite (P := P)
    | (extract_lets +onlyGivenNames x; refine (fun (hx : P x) => ?_) ?_; clear_value x; rotate_left; dsimp -zeta only [x])
    | (extract_lets +onlyGivenNames x) | split | (refine keeps_snd (P := P) ‹_› ?_) | (refine keeps_fst (P := P) ‹_› ?_)

theorem State.osdStepEnd_keeps (h : Keep P 481035284444) {s : State} {a : Nat} {b : Nat} (hs : P s) :
    P (State.osdStepEnd s a b) := by
  unfold State.osdStepEnd
  with_reducible repeat' first
    | assumption | apply State.osdStep_keeps (h.mono (by decide)) | apply State.osdEnd_keeps (h.mono (by decide))
    | apply State.wrapInc_keeps (h.mono (by decide)) | apply State.setOsd_keeps (h.mono (by decide)) | apply keeps_ite (P := P)
    | (extract_lets +onlyGivenNames x; refine (fun (hx : P x) => ?_) ?_; clear_value x; rotate_left; dsimp -zeta only [x])
    | (extract_lets +onlyGivenNames x) | split | (refine keeps_snd (P := P) ‹_› ?_) | (refine keeps_fst (P := P) ‹_› ?_)

theorem execOsdStepEnd_keeps (h : Keep P 481035284444) {a : BitVec 10} {b : BitVec 10} {s : State} (hs : P s) :
    Answers P (execOsdStepEnd a b s) := by
  unfold execOsdStepEnd
  refine ⟨_, rfl, ?_⟩
  with_reducible repeat' first
    | assumption | apply State.osdStepEnd_keeps (h.mono (by decide))

theorem State.isoDue_keeps (h : Keep P 2097156) {s : State} {g : Nat} (hs : P s) :
    P (State.isoDue s g) := by
  unfold State.isoDue
  with_reducible repeat' first
    | assumption | apply State.softEnd_keeps (h.mono (by decide)) | apply State.dsatBlankEnd_keeps (h.mono (by decide))
    | apply State.didtArm_keeps (h.mono (by decide)) | apply State.phaseNext_keeps (h.mono (by decide))
    | apply keeps_ite (P := P)
    | (extract_lets +onlyGivenNames x; refine (fun (hx : P x) => ?_) ?_; clear_value x; rotate_left; dsimp -zeta only [x])
    | (extract_lets +onlyGivenNames x)

theorem State.bootDue_keeps (h : Keep P 2097156) {s : State} {g : Nat} (hs : P s) :
    P (State.bootDue s g) := by
  unfold State.bootDue
  with_reducible repeat' first
    | assumption | apply State.refreshStep_keeps (h.mono (by decide)) | apply State.lowAgain_keeps (h.mono (by decide))
    | apply State.refreshStart_keeps (h.mono (by decide)) | apply keeps_ite (P := P)
    | (extract_lets +onlyGivenNames x; refine (fun (hx : P x) => ?_) ?_; clear_value x; rotate_left; dsimp -zeta only [x])
    | (extract_lets +onlyGivenNames x)

theorem State.gatesDue_keeps (h : Keep P 481035284444) {s : State} (hs : P s) :
    P (State.gatesDue s) := by
  unfold State.gatesDue
  with_reducible repeat' first
    | assumption | (intro _) | apply State.bootDue_keeps (h.mono (by decide)) | apply State.isoDue_keeps (h.mono (by decide))
    | apply State.osdBiasReady_keeps (h.mono (by decide)) | apply State.scgDelayEnd_keeps (h.mono (by decide))
    | apply State.ginPass_keeps (h.mono (by decide)) | apply State.gateDue_keeps (h.mono (by decide))
    | apply State.useFree_keeps (h.mono (by decide)) | apply keeps_ite (P := P) | apply keeps_foldl (P := P)
    | (extract_lets +onlyGivenNames x; refine (fun (hx : P x) => ?_) ?_; clear_value x; rotate_left; dsimp -zeta only [x])
    | (extract_lets +onlyGivenNames x)

end Sys2Proof.Machine
end

