-- ==== Sys2Proof/Laws/KeepPos.lean ====
section
/-! SUPPORT. What the operations of Machine/Pos.lean keep (Laws/Keep.lean). -/

namespace Sys2Proof.Machine

variable {P : State → Prop}

theorem State.setPos_keeps (h : Keep P 134217728) {s : State} {n : Nat} {c : PosCh} (hs : P s) :
    P (State.setPos s n c) := by
  unfold State.setPos
  with_reducible repeat' first
    | assumption
    | (refine State.setPosBlk_keeps (h.mono (by decide)) (by intro hq; first | exact hq | (simp +zetaDelta [PosBlk.Shaped] at hq ⊢ <;> simp [hq]; done) | simpa +zetaDelta [PosBlk.Shaped] using hq) ?_)
    | (extract_lets +onlyGivenNames x)

theorem State.posRefresh_keeps (h : Keep P 4) {s : State} {n : Nat} (hs : P s) :
    P (State.posRefresh s n) := by
  unfold State.posRefresh
  with_reducible repeat' first
    | assumption | apply State.putB_keeps (h.mono (by decide))

theorem State.posIrq_keeps (h : Keep P 256) {s : State} {n : Nat} {f : Fld} {ev : Nat} (hs : P s) :
    P (State.posIrq s n f ev) := by
  unfold State.posIrq
  with_reducible repeat' first
    | assumption | apply State.irq_keeps (h.mono (by decide)) | apply keeps_ite (P := P)
    | (extract_lets +onlyGivenNames x; refine (fun (hx : P x) => ?_) ?_; clear_value x; rotate_left; dsimp -zeta only [x])
    | (extract_lets +onlyGivenNames x)

theorem State.posSpeed_keeps (h : Keep P 4) {s : State} {n : Nat} {mag : Option Nat} (hs : P s) :
    P (State.posSpeed s n mag) := by
  unfold State.posSpeed
  with_reducible repeat' first
    | assumption | apply State.put_keeps (h.mono (by decide)) | split | (refine keeps_snd (P := P) ‹_› ?_)
    | (refine keeps_fst (P := P) ‹_› ?_)

theorem State.posDir_keeps (h : Keep P 388) {s : State} {n : Nat} {back : Bool} (hs : P s) :
    P (State.posDir s n back) := by
  unfold State.posDir
  with_reducible repeat' first
    | assumption | apply State.posIrq_keeps (h.mono (by decide)) | apply State.log_keeps (h.mono (by decide))
    | apply State.putB_keeps (h.mono (by decide)) | apply State.put_keeps (h.mono (by decide)) | apply keeps_ite (P := P)
    | (extract_lets +onlyGivenNames x; refine (fun (hx : P x) => ?_) ?_; clear_value x; rotate_left; dsimp -zeta only [x])
    | (extract_lets +onlyGivenNames x)

theorem State.posFire_keeps (h : Keep P 134283652) {s : State} {n : Nat} (hs : P s) :
    P (State.posFire s n) := by
  unfold State.posFire
  with_reducible repeat' first
    | assumption | apply State.posIrq_keeps (h.mono (by decide)) | apply State.setPos_keeps (h.mono (by decide))
    | apply State.ceEventSets_keeps (h.mono (by decide)) | apply State.log_keeps (h.mono (by decide)) | apply keeps_ite (P := P)
    | (extract_lets +onlyGivenNames x; refine (fun (hx : P x) => ?_) ?_; clear_value x; rotate_left; dsimp -zeta only [x])
    | (extract_lets +onlyGivenNames x)

theorem State.posCompare_keeps (h : Keep P 134283652) {s : State} {n : Nat} {bits : Nat} {c0 : Int} {c1 : Int} {d : Int} {x6 : Nat} {x7 : Bool} (hs : P s) :
    P (State.posCompare s n bits c0 c1 d x6 x7) := by
  induction x6 generalizing s n bits c0 c1 d x7 with
  | zero =>
    unfold State.posCompare
    with_reducible repeat' first
      | (with_reducible apply ih) | with_reducible assumption | with_reducible apply State.posFire_keeps (h.mono (by decide)) | with_reducible apply State.inc_keeps (h.mono (by decide)) | with_reducible apply State.put_keeps (h.mono (by decide)) | with_reducible apply keeps_ite (P := P) | (extract_lets +onlyGivenNames x; refine (fun (hx : P x) => ?_) ?_; clear_value x; rotate_left; dsimp -zeta only [x]) | (extract_lets +onlyGivenNames x)
  | succ k ih =>
    unfold State.posCompare
    with_reducible repeat' first
      | (with_reducible apply ih) | with_reducible assumption | with_reducible apply State.posFire_keeps (h.mono (by decide)) | with_reducible apply State.inc_keeps (h.mono (by decide)) | with_reducible apply State.put_keeps (h.mono (by decide)) | with_reducible apply keeps_ite (P := P) | (extract_lets +onlyGivenNames x; refine (fun (hx : P x) => ?_) ?_; clear_value x; rotate_left; dsimp -zeta only [x]) | (extract_lets +onlyGivenNames x)


theorem State.posChanged_keeps (h : Keep P 134283652) {s : State} {n : Nat} {bits : Nat} {c0 : Int} {c1 : Int} {d : Int} (hs : P s) :
    P (State.posChanged s n bits c0 c1 d) := by
  unfold State.posChanged
  with_reducible repeat' first
    | assumption | apply State.posCompare_keeps (h.mono (by decide)) | apply keeps_ite (P := P)
    | (extract_lets +onlyGivenNames x; refine (fun (hx : P x) => ?_) ?_; clear_value x; rotate_left; dsimp -zeta only [x])
    | (extract_lets +onlyGivenNames x)

theorem State.posLoad_keeps (h : Keep P 4) {s : State} {n : Nat} {v : Int} (hs : P s) :
    P (State.posLoad s n v) := by
  unfold State.posLoad
  with_reducible repeat' first
    | assumption | apply State.put_keeps (h.mono (by decide)) | apply keeps_ite (P := P)
    | (extract_lets +onlyGivenNames x; refine (fun (hx : P x) => ?_) ?_; clear_value x; rotate_left; dsimp -zeta only [x])
    | (extract_lets +onlyGivenNames x)

theorem State.posEdge_keeps (h : Keep P 134218116) {s : State} {n : Nat} {d : Int} (hs : P s) :
    P (State.posEdge s n d) := by
  unfold State.posEdge
  with_reducible repeat' first
    | assumption | apply State.posLoad_keeps (h.mono (by decide)) | apply State.posDir_keeps (h.mono (by decide))
    | apply State.posSpeed_keeps (h.mono (by decide)) | apply State.setPos_keeps (h.mono (by decide))
    | apply State.put_keeps (h.mono (by decide)) | apply keeps_ite (P := P)
    | (extract_lets +onlyGivenNames x; refine (fun (hx : P x) => ?_) ?_; clear_value x; rotate_left; dsimp -zeta only [x])
    | (extract_lets +onlyGivenNames x)

theorem State.posIllegal_keeps (h : Keep P 134217988) {s : State} {n : Nat} (hs : P s) :
    P (State.posIllegal s n) := by
  unfold State.posIllegal
  with_reducible repeat' first
    | assumption | apply State.posSpeed_keeps (h.mono (by decide)) | apply State.posIrq_keeps (h.mono (by decide))
    | apply State.setPos_keeps (h.mono (by decide)) | apply State.inc_keeps (h.mono (by decide))
    | apply State.put_keeps (h.mono (by decide))
    | (extract_lets +onlyGivenNames x; refine (fun (hx : P x) => ?_) ?_; clear_value x; rotate_left; dsimp -zeta only [x])
    | (extract_lets +onlyGivenNames x)

theorem State.posDecode_keeps (h : Keep P 134218116) {s : State} {n : Nat} {old : Nat} {new : Nat} (hs : P s) :
    P (State.posDecode s n old new) := by
  unfold State.posDecode
  with_reducible repeat' first
    | assumption | apply State.posIllegal_keeps (h.mono (by decide)) | apply State.posEdge_keeps (h.mono (by decide))
    | apply State.put_keeps (h.mono (by decide)) | apply keeps_ite (P := P)
    | (extract_lets +onlyGivenNames x; refine (fun (hx : P x) => ?_) ?_; clear_value x; rotate_left; dsimp -zeta only [x])
    | (extract_lets +onlyGivenNames x) | split | (refine keeps_snd (P := P) ‹_› ?_) | (refine keeps_fst (P := P) ‹_› ?_)

theorem State.posAccept_keeps (h : Keep P 134218116) {s : State} {n : Nat} (hs : P s) :
    P (State.posAccept s n) := by
  unfold State.posAccept
  with_reducible repeat' first
    | assumption | apply State.posDecode_keeps (h.mono (by decide)) | apply State.posRefresh_keeps (h.mono (by decide))
    | apply State.setPos_keeps (h.mono (by decide)) | apply keeps_ite (P := P)
    | (extract_lets +onlyGivenNames x; refine (fun (hx : P x) => ?_) ?_; clear_value x; rotate_left; dsimp -zeta only [x])
    | (extract_lets +onlyGivenNames x)

theorem State.posRaw_keeps (h : Keep P 134218116) {s : State} {n : Nat} {levels : Nat} (hs : P s) :
    P (State.posRaw s n levels) := by
  unfold State.posRaw
  with_reducible repeat' first
    | assumption | apply State.posAccept_keeps (h.mono (by decide)) | apply State.setPos_keeps (h.mono (by decide))
    | apply State.incBy_keeps (h.mono (by decide)) | apply State.put_keeps (h.mono (by decide)) | apply keeps_ite (P := P)
    | (extract_lets +onlyGivenNames x; refine (fun (hx : P x) => ?_) ?_; clear_value x; rotate_left; dsimp -zeta only [x])
    | (extract_lets +onlyGivenNames x) | split | (refine keeps_snd (P := P) ‹_› ?_) | (refine keeps_fst (P := P) ‹_› ?_)

theorem execPosRawTransition_keeps (h : Keep P 134218116) {n : Fin 8} {levels : BitVec 3} {s : State} (hs : P s) :
    Answers P (execPosRawTransition n levels s) := by
  unfold execPosRawTransition
  refine ⟨_, rfl, ?_⟩
  with_reducible repeat' first
    | assumption | apply State.posRaw_keeps (h.mono (by decide))

theorem State.posTminExpiry_keeps (h : Keep P 134218116) {s : State} {n : Nat} (hs : P s) :
    P (State.posTminExpiry s n) := by
  unfold State.posTminExpiry
  with_reducible repeat' first
    | assumption | apply State.posAccept_keeps (h.mono (by decide)) | apply keeps_ite (P := P)
    | (extract_lets +onlyGivenNames x; refine (fun (hx : P x) => ?_) ?_; clear_value x; rotate_left; dsimp -zeta only [x])
    | (extract_lets +onlyGivenNames x) | split | (refine keeps_snd (P := P) ‹_› ?_) | (refine keeps_fst (P := P) ‹_› ?_)

theorem execPosTminExpiry_keeps (h : Keep P 134218116) {n : Fin 8} {s : State} (hs : P s) :
    Answers P (execPosTminExpiry n s) := by
  unfold execPosTminExpiry
  refine ⟨_, rfl, ?_⟩
  with_reducible repeat' first
    | assumption | apply State.posTminExpiry_keeps (h.mono (by decide))

theorem State.pcmpEnd_keeps (h : Keep P 134217728) {s : State} {n : Nat} (hs : P s) :
    P (State.pcmpEnd s n) := by
  unfold State.pcmpEnd
  with_reducible repeat' first
    | assumption | apply State.setPos_keeps (h.mono (by decide)) | apply keeps_ite (P := P) | (extract_lets +onlyGivenNames x)
    | split | (refine keeps_snd (P := P) ‹_› ?_) | (refine keeps_fst (P := P) ‹_› ?_)

theorem execPcmpPulseEnd_keeps (h : Keep P 134217728) {n : Fin 8} {s : State} (hs : P s) :
    Answers P (execPcmpPulseEnd n s) := by
  unfold execPcmpPulseEnd
  refine ⟨_, rfl, ?_⟩
  with_reducible repeat' first
    | assumption | apply State.pcmpEnd_keeps (h.mono (by decide))

theorem State.posStandstill_keeps (h : Keep P 134217860) {s : State} {n : Nat} (hs : P s) :
    P (State.posStandstill s n) := by
  unfold State.posStandstill
  with_reducible repeat' first
    | assumption | apply State.posSpeed_keeps (h.mono (by decide)) | apply State.setPos_keeps (h.mono (by decide))
    | apply State.log_keeps (h.mono (by decide)) | apply State.put_keeps (h.mono (by decide)) | apply keeps_ite (P := P)
    | (extract_lets +onlyGivenNames x; refine (fun (hx : P x) => ?_) ?_; clear_value x; rotate_left; dsimp -zeta only [x])
    | (extract_lets +onlyGivenNames x) | split | (refine keeps_snd (P := P) ‹_› ?_) | (refine keeps_fst (P := P) ‹_› ?_)

theorem execPosStandstill_keeps (h : Keep P 134217860) {n : Fin 8} {s : State} (hs : P s) :
    Answers P (execPosStandstill n s) := by
  unfold execPosStandstill
  refine ⟨_, rfl, ?_⟩
  with_reducible repeat' first
    | assumption | apply State.posStandstill_keeps (h.mono (by decide))

theorem State.posCntWrite_keeps (h : Keep P 134217732) {s : State} {n : Nat} {v : Word} (hs : P s) :
    P (State.posCntWrite s n v) := by
  unfold State.posCntWrite
  with_reducible repeat' first
    | assumption | apply State.posLoad_keeps (h.mono (by decide)) | apply State.setPos_keeps (h.mono (by decide))
    | apply State.put_keeps (h.mono (by decide)) | apply State.wr_keeps (h.mono (by decide)) | apply keeps_ite (P := P)
    | (extract_lets +onlyGivenNames x; refine (fun (hx : P x) => ?_) ?_; clear_value x; rotate_left; dsimp -zeta only [x])
    | (extract_lets +onlyGivenNames x) | split | (refine keeps_snd (P := P) ‹_› ?_) | (refine keeps_fst (P := P) ‹_› ?_)

theorem State.posEdgeCompare_keeps (h : Keep P 134283652) {s : State} {n : Nat} (hs : P s) :
    P (State.posEdgeCompare s n) := by
  unfold State.posEdgeCompare
  with_reducible repeat' first
    | assumption | apply State.posChanged_keeps (h.mono (by decide)) | apply State.setPos_keeps (h.mono (by decide))
    | (extract_lets +onlyGivenNames x; refine (fun (hx : P x) => ?_) ?_; clear_value x; rotate_left; dsimp -zeta only [x])
    | (extract_lets +onlyGivenNames x) | split | (refine keeps_snd (P := P) ‹_› ?_) | (refine keeps_fst (P := P) ‹_› ?_)

theorem execPosCntWrite_keeps (h : Keep P 134225924) {ini : Initiator} {n : Fin 8} {val : Word} {s : State} (hs : P s) :
    Answers P (execPosCntWrite ini n val s) := by
  unfold execPosCntWrite
  refine ⟨_, rfl, ?_⟩
  with_reducible repeat' first
    | assumption | (intro _) | apply State.posCntWrite_keeps (h.mono (by decide))
    | apply State.busWrite_keeps (h.mono (by decide))
    | (extract_lets +onlyGivenNames x; refine (fun (hx : P x) => ?_) ?_; clear_value x; rotate_left; dsimp -zeta only [x])

theorem State.posRestart_keeps (h : Keep P 4) {s : State} {n : Nat} {v : Word} (hs : P s) :
    P (State.posRestart s n v) := by
  unfold State.posRestart
  with_reducible repeat' first
    | assumption | apply State.put_keeps (h.mono (by decide)) | apply keeps_ite (P := P)

theorem execPosCmpRestart_keeps (h : Keep P 8196) {ini : Initiator} {n : Fin 8} {val : Word} {s : State} (hs : P s) :
    Answers P (execPosCmpRestart ini n val s) := by
  unfold execPosCmpRestart
  refine ⟨_, rfl, ?_⟩
  with_reducible repeat' first
    | assumption | (intro _) | apply State.posRestart_keeps (h.mono (by decide))
    | apply State.busWrite_keeps (h.mono (by decide))
    | (extract_lets +onlyGivenNames x; refine (fun (hx : P x) => ?_) ?_; clear_value x; rotate_left; dsimp -zeta only [x])

theorem State.posCfgWrite_keeps (h : Keep P 134217732) {s : State} {n : Nat} {v : Word} (hs : P s) :
    P (State.posCfgWrite s n v) := by
  unfold State.posCfgWrite
  with_reducible repeat' first
    | assumption | apply State.posSpeed_keeps (h.mono (by decide)) | apply State.posRefresh_keeps (h.mono (by decide))
    | apply State.setPos_keeps (h.mono (by decide)) | apply State.fieldWrite_keeps (h.mono (by decide))
    | apply keeps_ite (P := P)
    | (extract_lets +onlyGivenNames x; refine (fun (hx : P x) => ?_) ?_; clear_value x; rotate_left; dsimp -zeta only [x])
    | (extract_lets +onlyGivenNames x)

theorem State.posStatusWrite_keeps (h : Keep P 4) {s : State} {n : Nat} {v : Word} (hs : P s) :
    P (State.posStatusWrite s n v) := by
  unfold State.posStatusWrite
  with_reducible repeat' first
    | assumption | apply State.posRefresh_keeps (h.mono (by decide)) | apply State.fieldWrite_keeps (h.mono (by decide))

theorem execPosgLock_keeps (h : Keep P 8196) {ini : Initiator} {val : Word} {s : State} (hs : P s) :
    Answers P (execPosgLock ini val s) := by
  unfold execPosgLock
  refine ⟨_, rfl, ?_⟩
  with_reducible repeat' first
    | assumption | (intro _) | apply State.fieldWrite_keeps (h.mono (by decide))
    | apply State.busWrite_keeps (h.mono (by decide))
    | (extract_lets +onlyGivenNames x; refine (fun (hx : P x) => ?_) ?_; clear_value x; rotate_left; dsimp -zeta only [x])

theorem State.posFrame_keeps (h : Keep P 134283668) {s : State} {n : Nat} {bits : Nat} {p : Nat} {stamp : Nat} (hs : P s) :
    P (State.posFrame s n bits p stamp) := by
  unfold State.posFrame
  with_reducible repeat' first
    | assumption | apply State.posLoad_keeps (h.mono (by decide)) | apply State.posChanged_keeps (h.mono (by decide))
    | apply State.posDir_keeps (h.mono (by decide)) | apply State.posSpeed_keeps (h.mono (by decide))
    | apply State.posRefresh_keeps (h.mono (by decide)) | apply State.setPos_keeps (h.mono (by decide))
    | apply State.useFree_keeps (h.mono (by decide)) | apply State.put_keeps (h.mono (by decide)) | apply keeps_ite (P := P)
    | (extract_lets +onlyGivenNames x; refine (fun (hx : P x) => ?_) ?_; clear_value x; rotate_left; dsimp -zeta only [x])
    | (extract_lets +onlyGivenNames x) | split | (refine keeps_snd (P := P) ‹_› ?_) | (refine keeps_fst (P := P) ‹_› ?_)

theorem State.posBadFrame_keeps (h : Keep P 134217732) {s : State} {n : Nat} (hs : P s) :
    P (State.posBadFrame s n) := by
  unfold State.posBadFrame
  with_reducible repeat' first
    | assumption | apply State.posSpeed_keeps (h.mono (by decide)) | apply State.setPos_keeps (h.mono (by decide))
    | apply State.inc_keeps (h.mono (by decide)) | (extract_lets +onlyGivenNames x)

theorem State.rxFrame_keeps (h : Keep P 134283668) {s : State} {rx : Nat} {lost : Bool} {ok : Bool} {bits : Nat} {p : Nat} {stamp : Nat} (hs : P s) :
    P (State.rxFrame s rx lost ok bits p stamp) := by
  unfold State.rxFrame
  with_reducible repeat' first
    | assumption | (intro _) | apply State.posBadFrame_keeps (h.mono (by decide))
    | apply State.posFrame_keeps (h.mono (by decide)) | apply State.inc_keeps (h.mono (by decide)) | apply keeps_ite (P := P)
    | apply keeps_foldl (P := P)
    | (extract_lets +onlyGivenNames x; refine (fun (hx : P x) => ?_) ?_; clear_value x; rotate_left; dsimp -zeta only [x])

theorem State.rxPos_keeps (h : Keep P 16) {s : State} {b : Nat} {w : Nat} {v : Nat} (hs : P s) :
    P (State.rxPos s b w v).2 := by
  unfold State.rxPos
  with_reducible repeat' first
    | assumption | apply State.useFree_keeps (h.mono (by decide)) | apply keeps_ite (P := P) | apply keeps_iteSnd (P := P)

theorem State.sentFrame_keeps (h : Keep P 134283668) {s : State} {i : Nat} {stamp : Nat} {cal : Nat} {status : Nat} {data : List Nat} {crc : Nat} {pause : Bool} {lost : Bool} (hs : P s) :
    P (State.sentFrame s i stamp cal status data crc pause lost) := by
  unfold State.sentFrame
  with_reducible repeat' first
    | assumption | apply State.rxPos_keeps (h.mono (by decide)) | apply State.rxFrame_keeps (h.mono (by decide))
    | apply State.put_keeps (h.mono (by decide))
    | (refine State.setPosBlk_keeps (h.mono (by decide)) (by intro hq; first | exact hq | (simp +zetaDelta [PosBlk.Shaped] at hq ⊢ <;> simp [hq]; done) | simpa +zetaDelta [PosBlk.Shaped] using hq) ?_)
    | apply keeps_ite (P := P)
    | (extract_lets +onlyGivenNames x; refine (fun (hx : P x) => ?_) ?_; clear_value x; rotate_left; dsimp -zeta only [x])
    | (extract_lets +onlyGivenNames x; refine (fun (hx : P x.1) => ?_) ?_; clear_value x; rotate_left; dsimp -zeta only [x])
    | (extract_lets +onlyGivenNames x; refine (fun (hx : P x.2) => ?_) ?_; clear_value x; rotate_left; dsimp -zeta only [x])
    | (extract_lets +onlyGivenNames x) | split | (refine keeps_snd (P := P) ‹_› ?_) | (refine keeps_fst (P := P) ‹_› ?_)

theorem execSentFrame_keeps (h : Keep P 134283668) {i : Fin 4} {stamp : Nat} {cal : Nat} {status : BitVec 4} {data : List (BitVec 4)} {crc : BitVec 4} {pause : Bool} {lost : Bool} {s : State} (hs : P s) :
    Answers P (execSentFrame i stamp cal status data crc pause lost s) := by
  unfold execSentFrame
  refine ⟨_, rfl, ?_⟩
  with_reducible repeat' first
    | assumption | (intro _) | apply State.sentFrame_keeps (h.mono (by decide))

theorem State.setSsi_keeps (h : Keep P 134217728) {s : State} {i : Nat} {r : SsiRx} (hs : P s) :
    P (State.setSsi s i r) := by
  unfold State.setSsi
  with_reducible repeat' first
    | assumption
    | (refine State.setPosBlk_keeps (h.mono (by decide)) (by intro hq; first | exact hq | (simp +zetaDelta [PosBlk.Shaped] at hq ⊢ <;> simp [hq]; done) | simpa +zetaDelta [PosBlk.Shaped] using hq) ?_)
    | (extract_lets +onlyGivenNames x)

theorem State.ssiTrigger_keeps (h : Keep P 134217732) {s : State} {i : Nat} {ev : Nat} (hs : P s) :
    P (State.ssiTrigger s i ev) := by
  unfold State.ssiTrigger
  with_reducible repeat' first
    | assumption | apply State.setSsi_keeps (h.mono (by decide)) | apply State.inc_keeps (h.mono (by decide))
    | apply keeps_ite (P := P)
    | (extract_lets +onlyGivenNames x; refine (fun (hx : P x) => ?_) ?_; clear_value x; rotate_left; dsimp -zeta only [x])
    | (extract_lets +onlyGivenNames x) | split | (refine keeps_snd (P := P) ‹_› ?_) | (refine keeps_fst (P := P) ‹_› ?_)

theorem execSsiTrigger_keeps (h : Keep P 134217732) {i : Fin 2} {ev : Fin 256} {s : State} (hs : P s) :
    Answers P (execSsiTrigger i ev s) := by
  unfold execSsiTrigger
  refine ⟨_, rfl, ?_⟩
  with_reducible repeat' first
    | assumption | apply State.ssiTrigger_keeps (h.mono (by decide))

theorem State.ssiFrame_keeps (h : Keep P 134283668) {s : State} {i : Nat} {bits : Nat} {lost : Bool} (hs : P s) :
    P (State.ssiFrame s i bits lost) := by
  unfold State.ssiFrame
  with_reducible repeat' first
    | assumption | apply State.setSsi_keeps (h.mono (by decide)) | apply State.rxPos_keeps (h.mono (by decide))
    | apply State.rxFrame_keeps (h.mono (by decide)) | apply keeps_ite (P := P)
    | (extract_lets +onlyGivenNames x; refine (fun (hx : P x) => ?_) ?_; clear_value x; rotate_left; dsimp -zeta only [x])
    | (extract_lets +onlyGivenNames x; refine (fun (hx : P x.1) => ?_) ?_; clear_value x; rotate_left; dsimp -zeta only [x])
    | (extract_lets +onlyGivenNames x; refine (fun (hx : P x.2) => ?_) ?_; clear_value x; rotate_left; dsimp -zeta only [x])
    | (extract_lets +onlyGivenNames x) | split | (refine keeps_snd (P := P) ‹_› ?_) | (refine keeps_fst (P := P) ‹_› ?_)

theorem execSsiFrame_keeps (h : Keep P 134283668) {i : Fin 2} {bits : BitVec 32} {lost : Bool} {s : State} (hs : P s) :
    Answers P (execSsiFrame i bits lost s) := by
  unfold execSsiFrame
  refine ⟨_, rfl, ?_⟩
  with_reducible repeat' first
    | assumption | apply State.ssiFrame_keeps (h.mono (by decide))

theorem State.posFrameTimeout_keeps (h : Keep P 134218116) {s : State} {n : Nat} (hs : P s) :
    P (State.posFrameTimeout s n) := by
  unfold State.posFrameTimeout
  with_reducible repeat' first
    | assumption | apply State.posIrq_keeps (h.mono (by decide)) | apply State.posRefresh_keeps (h.mono (by decide))
    | apply State.setPos_keeps (h.mono (by decide)) | apply State.log_keeps (h.mono (by decide))
    | apply State.put_keeps (h.mono (by decide)) | apply keeps_ite (P := P)
    | (extract_lets +onlyGivenNames x; refine (fun (hx : P x) => ?_) ?_; clear_value x; rotate_left; dsimp -zeta only [x])
    | (extract_lets +onlyGivenNames x) | split | (refine keeps_snd (P := P) ‹_› ?_) | (refine keeps_fst (P := P) ‹_› ?_)

theorem execPosFrameTimeout_keeps (h : Keep P 134218116) {n : Fin 8} {s : State} (hs : P s) :
    Answers P (execPosFrameTimeout n s) := by
  unfold execPosFrameTimeout
  refine ⟨_, rfl, ?_⟩
  with_reducible repeat' first
    | assumption | apply State.posFrameTimeout_keeps (h.mono (by decide))

theorem State.posDue_keeps (h : Keep P 134283652) {s : State} {n : Nat} (hs : P s) :
    P (State.posDue s n) := by
  unfold State.posDue
  with_reducible repeat' first
    | assumption | apply State.posFrameTimeout_keeps (h.mono (by decide))
    | apply State.posEdgeCompare_keeps (h.mono (by decide)) | apply State.posStandstill_keeps (h.mono (by decide))
    | apply State.pcmpEnd_keeps (h.mono (by decide)) | apply State.posTminExpiry_keeps (h.mono (by decide))

theorem State.resRefresh_keeps (h : Keep P 4) {s : State} {n : Nat} (hs : P s) :
    P (State.resRefresh s n) := by
  unfold State.resRefresh
  with_reducible repeat' first
    | assumption | apply State.putB_keeps (h.mono (by decide))

theorem State.resFault_keeps (h : Keep P 388) {s : State} {n : Nat} {f : Fld} {typ : Nat} {c : Bool} (hs : P s) :
    P (State.resFault s n f typ c) := by
  unfold State.resFault
  with_reducible repeat' first
    | assumption | apply State.log_keeps (h.mono (by decide)) | apply State.irq_keeps (h.mono (by decide))
    | apply State.put_keeps (h.mono (by decide)) | apply keeps_ite (P := P)

theorem State.resUpdate_keeps (h : Keep P 134218132) {s : State} {n : Nat} {exc : Bool} (hs : P s) :
    P (State.resUpdate s n exc) := by
  unfold State.resUpdate
  with_reducible repeat' first
    | assumption | apply State.resFault_keeps (h.mono (by decide)) | apply State.resRefresh_keeps (h.mono (by decide))
    | apply State.log_keeps (h.mono (by decide)) | apply State.useFree_keeps (h.mono (by decide))
    | apply State.put_keeps (h.mono (by decide))
    | (refine State.setPosBlk_keeps (h.mono (by decide)) (by intro hq; first | exact hq | (simp +zetaDelta [PosBlk.Shaped, PosBlk.idle] at hq ⊢ <;> simp [hq]; done) | simpa +zetaDelta [PosBlk.Shaped, PosBlk.idle] using hq) ?_)
    | apply keeps_ite (P := P)
    | (extract_lets +onlyGivenNames x; refine (fun (hx : P x) => ?_) ?_; clear_value x; rotate_left; dsimp -zeta only [x])
    | (extract_lets +onlyGivenNames x)

theorem execResPeriodUpdate_keeps (h : Keep P 134218132) {n : Fin 2} {exc : Bool} {s : State} (hs : P s) :
    Answers P (execResPeriodUpdate n exc s) := by
  unfold execResPeriodUpdate
  refine ⟨_, rfl, ?_⟩
  with_reducible repeat' first
    | assumption | apply State.resUpdate_keeps (h.mono (by decide))

theorem State.resCfgWrite_keeps (h : Keep P 134217732) {s : State} {n : Nat} {v : Word} (hs : P s) :
    P (State.resCfgWrite s n v) := by
  unfold State.resCfgWrite
  with_reducible repeat' first
    | assumption | apply State.resRefresh_keeps (h.mono (by decide)) | apply State.fieldWrite_keeps (h.mono (by decide))
    | (refine State.setPosBlk_keeps (h.mono (by decide)) (by intro hq; first | exact hq | (simp +zetaDelta [PosBlk.Shaped, PosBlk.idle] at hq ⊢ <;> simp [hq]; done) | simpa +zetaDelta [PosBlk.Shaped, PosBlk.idle] using hq) ?_)
    | apply keeps_ite (P := P)
    | (extract_lets +onlyGivenNames x; refine (fun (hx : P x) => ?_) ?_; clear_value x; rotate_left; dsimp -zeta only [x])
    | (extract_lets +onlyGivenNames x)

theorem State.resStatusWrite_keeps (h : Keep P 4) {s : State} {n : Nat} {v : Word} (hs : P s) :
    P (State.resStatusWrite s n v) := by
  unfold State.resStatusWrite
  with_reducible repeat' first
    | assumption | apply State.resRefresh_keeps (h.mono (by decide)) | apply State.fieldWrite_keeps (h.mono (by decide))

end Sys2Proof.Machine
end

