-- ==== Sys2Proof/Laws/KeepThermal.lean ====
section
/-! SUPPORT. What the operations of Machine/Thermal.lean keep (Laws/Keep.lean). -/

namespace Sys2Proof.Machine

variable {P : State → Prop}

theorem State.thermalDeclare_keeps (h : Keep P 481035288572) {s : State} {j : Nat} (hs : P s) :
    P (State.thermalDeclare s j) := by
  unfold State.thermalDeclare
  with_reducible repeat' first
    | assumption | apply State.bSource_keeps (h.mono (by decide)) | apply State.log_keeps (h.mono (by decide))
    | apply State.put_keeps (h.mono (by decide)) | apply State.setSup_keeps (h.mono (by decide))
    | apply State.setHk_keeps (h.mono (by decide)) | apply keeps_ite (P := P)
    | (extract_lets +onlyGivenNames x; refine (fun (hx : P x) => ?_) ?_; clear_value x; rotate_left; dsimp -zeta only [x])
    | (extract_lets +onlyGivenNames x)

theorem State.sensorEnd_keeps (h : Keep P 481035288572) {s : State} {j : Nat} {a : Nat} {b : Nat} (hs : P s) :
    P (State.sensorEnd s j a b) := by
  unfold State.sensorEnd
  with_reducible repeat' first
    | assumption | apply State.thermalDeclare_keeps (h.mono (by decide)) | apply State.useFree_keeps (h.mono (by decide))
    | apply State.put_keeps (h.mono (by decide)) | apply keeps_ite (P := P)
    | (extract_lets +onlyGivenNames x; refine (fun (hx : P x) => ?_) ?_; clear_value x; rotate_left; dsimp -zeta only [x])
    | (extract_lets +onlyGivenNames x)

theorem State.dacReadback_keeps (h : Keep P 131460) {s : State} {c : Nat} {a : Nat} {b : Nat} (hs : P s) :
    P (State.dacReadback s c a b) := by
  unfold State.dacReadback
  with_reducible repeat' first
    | assumption | apply State.wmOnset_keeps (h.mono (by decide)) | apply State.foxComp_keeps (h.mono (by decide))
    | apply State.log_keeps (h.mono (by decide)) | apply State.putFldBit_keeps (h.mono (by decide))
    | apply State.putB_keeps (h.mono (by decide)) | apply State.setFox_keeps (h.mono (by decide)) | apply keeps_ite (P := P)
    | (extract_lets +onlyGivenNames x; refine (fun (hx : P x) => ?_) ?_; clear_value x; rotate_left; dsimp -zeta only [x])
    | (extract_lets +onlyGivenNames x)

theorem State.hkChannelEnd_keeps (h : Keep P 481035288572) {s : State} (hs : P s) :
    P (State.hkChannelEnd s) := by
  unfold State.hkChannelEnd
  with_reducible repeat' first
    | assumption | apply State.dacReadback_keeps (h.mono (by decide)) | apply State.sensorEnd_keeps (h.mono (by decide))
    | apply State.log_keeps (h.mono (by decide)) | apply State.putFldBit_keeps (h.mono (by decide))
    | apply State.put_keeps (h.mono (by decide)) | apply State.setHk_keeps (h.mono (by decide)) | apply keeps_ite (P := P)
    | (extract_lets +onlyGivenNames x; refine (fun (hx : P x) => ?_) ?_; clear_value x; rotate_left; dsimp -zeta only [x])
    | (extract_lets +onlyGivenNames x) | split | (refine keeps_snd (P := P) ‹_› ?_) | (refine keeps_fst (P := P) ‹_› ?_)

theorem execHkChannelEnd_keeps (h : Keep P 481035288572) {s : State} (hs : P s) :
    Answers P (execHkChannelEnd s) := by
  unfold execHkChannelEnd
  refine ⟨_, rfl, ?_⟩
  with_reducible repeat' first
    | assumption | apply State.hkChannelEnd_keeps (h.mono (by decide))

theorem State.stepTo_keeps (h : Keep P 536871060) {s : State} {n : Nat} (hs : P s) :
    P (State.stepTo s n) := by
  unfold State.stepTo
  with_reducible repeat' first
    | assumption | apply State.log_keeps (h.mono (by decide)) | apply State.useFree_keeps (h.mono (by decide))
    | apply State.inc_keeps (h.mono (by decide)) | apply State.put_keeps (h.mono (by decide))
    | apply State.setHk_keeps (h.mono (by decide)) | apply keeps_ite (P := P)
    | (extract_lets +onlyGivenNames x; refine (fun (hx : P x) => ?_) ?_; clear_value x; rotate_left; dsimp -zeta only [x])
    | (extract_lets +onlyGivenNames x)

theorem State.throttle_keeps (h : Keep P 536871060) {s : State} (hs : P s) :
    P (State.throttle s) := by
  unfold State.throttle
  with_reducible repeat' first
    | assumption | (intro _) | apply State.stepTo_keeps (h.mono (by decide)) | apply State.put_keeps (h.mono (by decide))
    | apply State.setHk_keeps (h.mono (by decide)) | apply keeps_ite (P := P)
    | (extract_lets +onlyGivenNames x; refine (fun (hx : P x) => ?_) ?_; clear_value x; rotate_left; dsimp -zeta only [x])
    | (extract_lets +onlyGivenNames x) | split | (refine keeps_snd (P := P) ‹_› ?_) | (refine keeps_fst (P := P) ‹_› ?_)

theorem State.groupLimit_keeps (h : Keep P 20) {s : State} {g : Nat} (hs : P s) :
    P (State.groupLimit s g) := by
  unfold State.groupLimit
  with_reducible repeat' first
    | assumption | (intro _) | apply State.useFree_keeps (h.mono (by decide)) | apply State.put_keeps (h.mono (by decide))
    | apply keeps_ite (P := P) | apply keeps_foldl (P := P)
    | (extract_lets +onlyGivenNames x; refine (fun (hx : P x) => ?_) ?_; clear_value x; rotate_left; dsimp -zeta only [x])
    | (extract_lets +onlyGivenNames x)

theorem State.biasLimits_keeps (h : Keep P 20) {s : State} (hs : P s) :
    P (State.biasLimits s) := by
  unfold State.biasLimits
  with_reducible repeat' first
    | assumption | (intro _) | apply State.groupLimit_keeps (h.mono (by decide))
    | apply State.aggLimit_keeps (h.mono (by decide)) | apply keeps_foldl (P := P)
    | (extract_lets +onlyGivenNames x; refine (fun (hx : P x) => ?_) ?_; clear_value x; rotate_left; dsimp -zeta only [x])
    | (extract_lets +onlyGivenNames x)

theorem State.channelPower_keeps (h : Keep P 2097172) {s : State} {g : Nat} (hs : P s) :
    P (State.channelPower s g) := by
  unfold State.channelPower
  with_reducible repeat' first
    | assumption | (intro _) | apply State.setGate_keeps (h.mono (by decide)) | apply State.useFree_keeps (h.mono (by decide))
    | apply State.put_keeps (h.mono (by decide)) | apply keeps_ite (P := P)
    | (extract_lets +onlyGivenNames x; refine (fun (hx : P x) => ?_) ?_; clear_value x; rotate_left; dsimp -zeta only [x])
    | (extract_lets +onlyGivenNames x)

theorem State.biasPowers_keeps (h : Keep P 270532628) {s : State} (hs : P s) :
    P (State.biasPowers s) := by
  unfold State.biasPowers
  with_reducible repeat' first
    | assumption | (intro _) | apply State.channelPower_keeps (h.mono (by decide))
    | apply State.useFree_keeps (h.mono (by decide)) | apply State.put_keeps (h.mono (by decide))
    | (refine State.setLedger_keeps (h.mono (by decide)) (by intro hq; first | exact hq | (simp +zetaDelta [Ledger.Shaped] at hq ⊢ <;> simp [hq]; done) | simpa +zetaDelta [Ledger.Shaped] using hq) ?_)
    | apply keeps_ite (P := P) | apply keeps_foldl (P := P)
    | (extract_lets +onlyGivenNames x; refine (fun (hx : P x) => ?_) ?_; clear_value x; rotate_left; dsimp -zeta only [x])
    | (extract_lets +onlyGivenNames x)

theorem State.hkRoundEnd_keeps (h : Keep P 481035284444) {s : State} (hs : P s) :
    P (State.hkRoundEnd s) := by
  unfold State.hkRoundEnd
  with_reducible repeat' first
    | assumption | apply State.biasPowers_keeps (h.mono (by decide)) | apply State.biasLimits_keeps (h.mono (by decide))
    | apply State.throttle_keeps (h.mono (by decide)) | apply State.osdAbort_keeps (h.mono (by decide))
    | apply State.setHk_keeps (h.mono (by decide)) | apply keeps_ite (P := P)
    | (extract_lets +onlyGivenNames x; refine (fun (hx : P x) => ?_) ?_; clear_value x; rotate_left; dsimp -zeta only [x])
    | (extract_lets +onlyGivenNames x)

theorem execHkRoundEnd_keeps (h : Keep P 481035284444) {s : State} (hs : P s) :
    Answers P (execHkRoundEnd s) := by
  unfold execHkRoundEnd
  refine ⟨_, rfl, ?_⟩
  with_reducible repeat' first
    | assumption | apply State.hkRoundEnd_keeps (h.mono (by decide))

theorem State.shutOff_keeps (h : Keep P 481035284172) {s : State} (hs : P s) :
    P (State.shutOff s) := by
  unfold State.shutOff
  with_reducible repeat' first
    | assumption | apply State.domOff_keeps (h.mono (by decide)) | apply State.setSup_keeps (h.mono (by decide))
    | (extract_lets +onlyGivenNames x; refine (fun (hx : P x) => ?_) ?_; clear_value x; rotate_left; dsimp -zeta only [x])
    | (extract_lets +onlyGivenNames x)

theorem State.thermalOff_keeps (h : Keep P 481035284172) {s : State} {us : Nat} (hs : P s) :
    P (State.thermalOff s us) := by
  unfold State.thermalOff
  with_reducible repeat' first
    | assumption | apply State.shutOff_keeps (h.mono (by decide)) | apply keeps_ite (P := P) | split
    | (refine keeps_snd (P := P) ‹_› ?_) | (refine keeps_fst (P := P) ‹_› ?_)

theorem execThermalShutdownSwitchoff_keeps (h : Keep P 481035284172) {s : State} (hs : P s) :
    Answers P (execThermalShutdownSwitchoff s) := by
  unfold execThermalShutdownSwitchoff
  refine ⟨_, rfl, ?_⟩
  with_reducible repeat' first
    | assumption | apply State.thermalOff_keeps (h.mono (by decide))

theorem execThmLock_keeps (h : Keep P 8196) {ini : Initiator} {val : Word} {s : State} (hs : P s) :
    Answers P (execThmLock ini val s) := by
  unfold execThmLock
  refine ⟨_, rfl, ?_⟩
  with_reducible repeat' first
    | assumption | (intro _) | apply State.fieldWrite_keeps (h.mono (by decide))
    | apply State.busWrite_keeps (h.mono (by decide))
    | (extract_lets +onlyGivenNames x; refine (fun (hx : P x) => ?_) ?_; clear_value x; rotate_left; dsimp -zeta only [x])

end Sys2Proof.Machine
end

