-- ==== Sys2Proof/Laws/KeepSupply.lean ====
section
/-! SUPPORT. What the operations of Machine/Supply.lean keep (Laws/Keep.lean). -/

namespace Sys2Proof.Machine

variable {P : State → Prop}

theorem State.supEvent_keeps (h : Keep P 388) {s : State} {index : Nat} {typ : Nat} {place : optParam Nat (evPlace 2 index typ)} (hs : P s) :
    P (State.supEvent s index typ place) := by
  unfold State.supEvent
  with_reducible repeat' first
    | assumption | apply State.log_keeps (h.mono (by decide)) | apply State.irqIf_keeps (h.mono (by decide))

theorem State.collapseDeclare_keeps (h : Keep P 481035288572) {s : State} (hs : P s) :
    P (State.collapseDeclare s) := by
  unfold State.collapseDeclare
  with_reducible repeat' first
    | assumption | apply State.supEvent_keeps (h.mono (by decide)) | apply State.bSource_keeps (h.mono (by decide))
    | apply State.put_keeps (h.mono (by decide)) | apply State.setSup_keeps (h.mono (by decide)) | apply keeps_ite (P := P)
    | (extract_lets +onlyGivenNames x; refine (fun (hx : P x) => ?_) ?_; clear_value x; rotate_left; dsimp -zeta only [x])
    | (extract_lets +onlyGivenNames x)

theorem State.vmainLoss_keeps (h : Keep P 481035288572) {s : State} {ovlo : Bool} (hs : P s) :
    P (State.vmainLoss s ovlo) := by
  unfold State.vmainLoss
  with_reducible repeat' first
    | assumption | apply State.collapseDeclare_keeps (h.mono (by decide)) | apply State.supEvent_keeps (h.mono (by decide))
    | apply State.put_keeps (h.mono (by decide)) | apply State.setSup_keeps (h.mono (by decide)) | apply keeps_ite (P := P)
    | (extract_lets +onlyGivenNames x; refine (fun (hx : P x) => ?_) ?_; clear_value x; rotate_left; dsimp -zeta only [x])
    | (extract_lets +onlyGivenNames x)

theorem execVmainLoss_keeps (h : Keep P 481035288572) {ovlo : Bool} {v : Nat} {s : State} (hs : P s) :
    Answers P (execVmainLoss ovlo v s) := by
  unfold execVmainLoss
  refine ⟨_, rfl, ?_⟩
  with_reducible repeat' first
    | assumption | apply State.vmainLoss_keeps (h.mono (by decide)) | apply keeps_ite (P := P)

theorem State.switchOver_keeps (h : Keep P 137438953876) {s : State} (hs : P s) :
    P (State.switchOver s) := by
  unfold State.switchOver
  with_reducible repeat' first
    | assumption | apply State.supEvent_keeps (h.mono (by decide)) | apply State.biasLimits_keeps (h.mono (by decide))
    | apply State.inc_keeps (h.mono (by decide)) | apply State.put_keeps (h.mono (by decide))
    | apply State.setSup_keeps (h.mono (by decide)) | apply keeps_ite (P := P)
    | (extract_lets +onlyGivenNames x; refine (fun (hx : P x) => ?_) ?_; clear_value x; rotate_left; dsimp -zeta only [x])
    | (extract_lets +onlyGivenNames x)

theorem execSwitchOverComplete_keeps (h : Keep P 137438953876) {s : State} (hs : P s) :
    Answers P (execSwitchOverComplete s) := by
  unfold execSwitchOverComplete
  refine ⟨_, rfl, ?_⟩
  with_reducible repeat' first
    | assumption | apply State.switchOver_keeps (h.mono (by decide))

theorem execVmainUsable_keeps (h : Keep P 137438953476) {v : Nat} {s : State} (hs : P s) :
    Answers P (execVmainUsable v s) := by
  unfold execVmainUsable
  refine ⟨_, rfl, ?_⟩
  with_reducible repeat' first
    | assumption | apply State.put_keeps (h.mono (by decide)) | apply State.setSup_keeps (h.mono (by decide))
    | apply keeps_ite (P := P) | (extract_lets +onlyGivenNames x)

theorem State.toVmain_keeps (h : Keep P 137438953860) {s : State} {bkst : Nat} (hs : P s) :
    P (State.toVmain s bkst) := by
  unfold State.toVmain
  with_reducible repeat' first
    | assumption | apply State.supEvent_keeps (h.mono (by decide)) | apply State.inc_keeps (h.mono (by decide))
    | apply State.put_keeps (h.mono (by decide)) | apply State.setSup_keeps (h.mono (by decide)) | apply keeps_ite (P := P)
    | (extract_lets +onlyGivenNames x; refine (fun (hx : P x) => ?_) ?_; clear_value x; rotate_left; dsimp -zeta only [x])
    | (extract_lets +onlyGivenNames x)

theorem execVmainReturn_keeps (h : Keep P 137438953860) {lo : Nat} {hi : Nat} {s : State} (hs : P s) :
    Answers P (execVmainReturn lo hi s) := by
  unfold execVmainReturn
  refine ⟨_, rfl, ?_⟩
  with_reducible repeat' first
    | assumption | apply State.toVmain_keeps (h.mono (by decide)) | apply keeps_ite (P := P)

theorem execFlybackStart_keeps (h : Keep P 137438953476) {v : Nat} {s : State} (hs : P s) :
    Answers P (execFlybackStart v s) := by
  unfold execFlybackStart
  refine ⟨_, rfl, ?_⟩
  with_reducible repeat' first
    | assumption | apply State.put_keeps (h.mono (by decide)) | apply State.setSup_keeps (h.mono (by decide))
    | apply keeps_ite (P := P)
    | (extract_lets +onlyGivenNames x; refine (fun (hx : P x) => ?_) ?_; clear_value x; rotate_left; dsimp -zeta only [x])
    | (extract_lets +onlyGivenNames x)

theorem State.flybackReady_keeps (h : Keep P 4) {s : State} (hs : P s) :
    P (State.flybackReady s) := by
  unfold State.flybackReady
  with_reducible repeat' first
    | assumption | apply State.put_keeps (h.mono (by decide)) | apply keeps_ite (P := P)

theorem execFlybackReady_keeps (h : Keep P 4) {s : State} (hs : P s) :
    Answers P (execFlybackReady s) := by
  unfold execFlybackReady
  refine ⟨_, rfl, ?_⟩
  with_reducible repeat' first
    | assumption | apply State.flybackReady_keeps (h.mono (by decide))

theorem State.flybackOff_keeps (h : Keep P 481035288572) {s : State} (hs : P s) :
    P (State.flybackOff s) := by
  unfold State.flybackOff
  with_reducible repeat' first
    | assumption | apply State.toVmain_keeps (h.mono (by decide)) | apply State.collapseDeclare_keeps (h.mono (by decide))
    | apply State.supEvent_keeps (h.mono (by decide)) | apply State.put_keeps (h.mono (by decide)) | apply keeps_ite (P := P)
    | (extract_lets +onlyGivenNames x; refine (fun (hx : P x) => ?_) ?_; clear_value x; rotate_left; dsimp -zeta only [x])
    | (extract_lets +onlyGivenNames x)

theorem State.flybackDrop_keeps (h : Keep P 481035288572) {s : State} {cause : Nat} (hs : P s) :
    P (State.flybackDrop s cause) := by
  unfold State.flybackDrop
  with_reducible repeat' first
    | assumption | apply State.flybackOff_keeps (h.mono (by decide)) | apply State.put_keeps (h.mono (by decide))
    | apply keeps_ite (P := P)
    | (extract_lets +onlyGivenNames x; refine (fun (hx : P x) => ?_) ?_; clear_value x; rotate_left; dsimp -zeta only [x])
    | (extract_lets +onlyGivenNames x)

theorem execFlybackDrop_keeps (h : Keep P 481035288572) {cause : Fin 3} {v : Nat} {s : State} (hs : P s) :
    Answers P (execFlybackDrop cause v s) := by
  unfold execFlybackDrop
  refine ⟨_, rfl, ?_⟩
  with_reducible repeat' first
    | assumption | apply State.flybackDrop_keeps (h.mono (by decide)) | apply keeps_ite (P := P)

theorem execVhvOvervoltage_keeps (h : Keep P 481035288572) {v : Nat} {s : State} (hs : P s) :
    Answers P (execVhvOvervoltage v s) := by
  unfold execVhvOvervoltage
  refine ⟨_, rfl, ?_⟩
  with_reducible repeat' first
    | assumption | apply State.flybackOff_keeps (h.mono (by decide)) | apply keeps_ite (P := P)

theorem State.collapseOff_keeps (h : Keep P 481035284172) {s : State} (hs : P s) :
    P (State.collapseOff s) := by
  unfold State.collapseOff
  with_reducible repeat' first
    | assumption | apply State.domOff_keeps (h.mono (by decide)) | apply keeps_ite (P := P)

theorem execCollapseSwitchOff_keeps (h : Keep P 481035284172) {s : State} (hs : P s) :
    Answers P (execCollapseSwitchOff s) := by
  unfold execCollapseSwitchOff
  refine ⟨_, rfl, ?_⟩
  with_reducible repeat' first
    | assumption | apply State.collapseOff_keeps (h.mono (by decide))

theorem State.supCfgWrite_keeps (h : Keep P 481035288572) {s : State} {v : Word} (hs : P s) :
    P (State.supCfgWrite s v) := by
  unfold State.supCfgWrite
  with_reducible repeat' first
    | assumption | apply State.flybackDrop_keeps (h.mono (by decide)) | apply State.fieldWrite_keeps (h.mono (by decide))
    | apply keeps_ite (P := P)
    | (extract_lets +onlyGivenNames x; refine (fun (hx : P x) => ?_) ?_; clear_value x; rotate_left; dsimp -zeta only [x])
    | (extract_lets +onlyGivenNames x)

theorem execSupLock_keeps (h : Keep P 481035288572) {ini : Initiator} {val : Word} {s : State} (hs : P s) :
    Answers P (execSupLock ini val s) := by
  unfold execSupLock
  refine ⟨_, rfl, ?_⟩
  with_reducible repeat' first
    | assumption | (intro _) | apply State.supCfgWrite_keeps (h.mono (by decide))
    | apply State.busWrite_keeps (h.mono (by decide))
    | (extract_lets +onlyGivenNames x; refine (fun (hx : P x) => ?_) ?_; clear_value x; rotate_left; dsimp -zeta only [x])

theorem State.pdcSet_keeps (h : Keep P 539891124) {s : State} {d : Nat} (hs : P s) :
    P (State.pdcSet s d) := by
  unfold State.pdcSet
  with_reducible repeat' first
    | assumption | apply State.domOn_keeps (h.mono (by decide)) | apply State.inc_keeps (h.mono (by decide))
    | apply State.put_keeps (h.mono (by decide)) | apply keeps_ite (P := P)
    | (extract_lets +onlyGivenNames x; refine (fun (hx : P x) => ?_) ?_; clear_value x; rotate_left; dsimp -zeta only [x])
    | (extract_lets +onlyGivenNames x)

theorem State.pdcWrite_keeps (h : Keep P 481035288572) {s : State} {ini : Initiator} {v : Word} (hs : P s) :
    P (State.pdcWrite s ini v) := by
  unfold State.pdcWrite
  with_reducible repeat' first
    | assumption | (intro _) | apply State.pdcSet_keeps (h.mono (by decide)) | apply State.domOff_keeps (h.mono (by decide))
    | apply keeps_ite (P := P) | apply keeps_foldl (P := P)
    | (extract_lets +onlyGivenNames x; refine (fun (hx : P x) => ?_) ?_; clear_value x; rotate_left; dsimp -zeta only [x])
    | (extract_lets +onlyGivenNames x)

theorem execPdcReqWrite_keeps (h : Keep P 481035288572) {ini : Initiator} {val : Word} {s : State} (hs : P s) :
    Answers P (execPdcReqWrite ini val s) := by
  unfold execPdcReqWrite
  refine ⟨_, rfl, ?_⟩
  with_reducible repeat' first
    | assumption | (intro _) | apply State.pdcWrite_keeps (h.mono (by decide)) | apply State.busWrite_keeps (h.mono (by decide))
    | (extract_lets +onlyGivenNames x; refine (fun (hx : P x) => ?_) ?_; clear_value x; rotate_left; dsimp -zeta only [x])

theorem State.stbyWrite_keeps (h : Keep P 481035284172) {s : State} {ini : Initiator} {v : Word} (hs : P s) :
    P (State.stbyWrite s ini v) := by
  unfold State.stbyWrite
  with_reducible repeat' first
    | assumption | apply State.standbyRequest_keeps (h.mono (by decide)) | apply keeps_ite (P := P)

theorem execSupStby_keeps (h : Keep P 481035284172) {ini : Initiator} {val : Word} {s : State} (hs : P s) :
    Answers P (execSupStby ini val s) := by
  unfold execSupStby
  refine ⟨_, rfl, ?_⟩
  with_reducible repeat' first
    | assumption | (intro _) | apply State.stbyWrite_keeps (h.mono (by decide))
    | apply State.busWrite_keeps (h.mono (by decide))
    | (extract_lets +onlyGivenNames x; refine (fun (hx : P x) => ?_) ?_; clear_value x; rotate_left; dsimp -zeta only [x])

theorem State.wake_keeps (h : Keep P 412316860420) {s : State} {k : Nat} (hs : P s) :
    P (State.wake s k) := by
  unfold State.wake
  with_reducible repeat' first
    | assumption | apply State.put_keeps (h.mono (by decide))
    | (refine State.setStart_keeps (h.mono (by decide)) (by intro hq; first | exact hq | (simp +zetaDelta [Start.Shaped] at hq ⊢ <;> simp [hq]; done) | simpa +zetaDelta [Start.Shaped] using hq) ?_)
    | apply State.setSup_keeps (h.mono (by decide)) | apply keeps_ite (P := P)
    | (extract_lets +onlyGivenNames x; refine (fun (hx : P x) => ?_) ?_; clear_value x; rotate_left; dsimp -zeta only [x])
    | (extract_lets +onlyGivenNames x)

theorem execWakePad_keeps (h : Keep P 412316860420) {level : Bool} {s : State} (hs : P s) :
    Answers P (execWakePad level s) := by
  unfold execWakePad
  refine ⟨_, rfl, ?_⟩
  with_reducible repeat' first
    | assumption | apply State.wake_keeps (h.mono (by decide)) | apply keeps_ite (P := P)

theorem State.wakeTimer_keeps (h : Keep P 412316860420) {s : State} (hs : P s) :
    P (State.wakeTimer s) := by
  unfold State.wakeTimer
  with_reducible repeat' first
    | assumption | apply State.wake_keeps (h.mono (by decide)) | apply keeps_ite (P := P)

theorem execWakeTimer_keeps (h : Keep P 412316860420) {s : State} (hs : P s) :
    Answers P (execWakeTimer s) := by
  unfold execWakeTimer
  refine ⟨_, rfl, ?_⟩
  with_reducible repeat' first
    | assumption | apply State.wakeTimer_keeps (h.mono (by decide))

theorem State.wakePlug_keeps (h : Keep P 412316860420) {s : State} (hs : P s) :
    P (State.wakePlug s) := by
  unfold State.wakePlug
  with_reducible repeat' first
    | assumption | apply State.wake_keeps (h.mono (by decide)) | apply keeps_ite (P := P)

theorem execWakePlug_keeps (h : Keep P 412316860420) {s : State} (hs : P s) :
    Answers P (execWakePlug s) := by
  unfold execWakePlug
  refine ⟨_, rfl, ?_⟩
  with_reducible repeat' first
    | assumption | apply State.wakePlug_keeps (h.mono (by decide))

theorem execWakeCan_keeps (h : Keep P 412316860420) {bus : Fin 2} {s : State} (hs : P s) :
    Answers P (execWakeCan bus s) := by
  unfold execWakeCan
  refine ⟨_, rfl, ?_⟩
  with_reducible repeat' first
    | assumption | apply State.wake_keeps (h.mono (by decide))

theorem State.powerCycle_keeps (h : Keep P 549755813836) {s : State} (hs : P s) :
    P (State.powerCycle s) := by
  unfold State.powerCycle
  with_reducible repeat' first
    | assumption | (intro _) | apply State.dropMem_keeps (h.mono (by decide)) | apply State.dropRegs_keeps (h.mono (by decide))
    | apply State.setPllB_keeps (h.mono (by decide)) | apply State.setPllA_keeps (h.mono (by decide))
    | (refine State.setCans_keeps (h.mono (by decide)) (by intro hq; first | exact hq | (simp +zetaDelta [State.reset] at hq ⊢ <;> simp [hq]; done) | simpa +zetaDelta [State.reset] using hq) ?_)
    | (refine State.setActs_keeps (h.mono (by decide)) (by intro hq; first | exact hq | (simp +zetaDelta [State.reset] at hq ⊢ <;> simp [hq]; done) | simpa +zetaDelta [State.reset] using hq) ?_)
    | (refine State.setScgs_keeps (h.mono (by decide)) (by intro hq; first | exact hq | (simp +zetaDelta [State.reset] at hq ⊢ <;> simp [hq]; done) | simpa +zetaDelta [State.reset] using hq) ?_)
    | (refine State.setGates_keeps (h.mono (by decide)) (by intro hq; first | exact hq | (simp +zetaDelta [State.reset] at hq ⊢ <;> simp [hq]; done) | simpa +zetaDelta [State.reset] using hq) ?_)
    | (refine State.setCes_keeps (h.mono (by decide)) (by intro hq; first | exact hq | (simp +zetaDelta [State.reset] at hq ⊢ <;> simp [hq]; done) | simpa +zetaDelta [State.reset] using hq) ?_)
    | (refine State.setPwms_keeps (h.mono (by decide)) (by intro hq; first | exact hq | (simp +zetaDelta [State.reset] at hq ⊢ <;> simp [hq]; done) | simpa +zetaDelta [State.reset] using hq) ?_)
    | (refine State.setScCores_keeps (h.mono (by decide)) (by intro hq; first | exact hq | (simp +zetaDelta [State.reset] at hq ⊢ <;> simp [hq]; done) | simpa +zetaDelta [State.reset] using hq) ?_)
    | (refine State.setScThreads_keeps (h.mono (by decide)) (by intro hq; first | exact hq | (simp +zetaDelta [State.reset] at hq ⊢ <;> simp [hq]; done) | simpa +zetaDelta [State.reset] using hq) ?_)
    | (refine State.setBadger_keeps (h.mono (by decide)) (by intro hq; first | exact hq | (simp +zetaDelta [Badger.Shaped, Badger.idle, State.reset] at hq ⊢ <;> simp [hq]; done) | simpa +zetaDelta [Badger.Shaped, Badger.idle, State.reset] using hq) ?_)
    | (refine State.setConv_keeps (h.mono (by decide)) (by intro hq; first | exact hq | (simp +zetaDelta [Conv.Shaped, Conv.idle, State.reset] at hq ⊢ <;> simp [hq]; done) | simpa +zetaDelta [Conv.Shaped, Conv.idle, State.reset] using hq) ?_)
    | (refine State.setKcp_keeps (h.mono (by decide)) (by intro hq; first | exact hq | (simp +zetaDelta [Kcp.Shaped, Kcp.idle, State.reset] at hq ⊢ <;> simp [hq]; done) | simpa +zetaDelta [Kcp.Shaped, Kcp.idle, State.reset] using hq) ?_)
    | (refine State.setModes_keeps (h.mono (by decide)) (by intro hq; first | exact hq | (simp +zetaDelta [Modes.Shaped, Modes.idle, State.reset] at hq ⊢ <;> simp [hq]; done) | simpa +zetaDelta [Modes.Shaped, Modes.idle, State.reset] using hq) ?_)
    | (refine State.setStart_keeps (h.mono (by decide)) (by intro hq; first | exact hq | (simp +zetaDelta [Start.Shaped, Start.idle, State.reset] at hq ⊢ <;> simp [hq]; done) | simpa +zetaDelta [Start.Shaped, Start.idle, State.reset] using hq) ?_)
    | apply State.setSup_keeps (h.mono (by decide)) | apply State.setAsl_keeps (h.mono (by decide))
    | apply State.setEth_keeps (h.mono (by decide)) | apply State.setCanTm_keeps (h.mono (by decide))
    | (refine State.setDma_keeps (h.mono (by decide)) (by intro hq; first | exact hq | (simp +zetaDelta [Dma.Shaped, Dma.idle, State.reset] at hq ⊢ <;> simp [hq]; done) | simpa +zetaDelta [Dma.Shaped, Dma.idle, State.reset] using hq) ?_)
    | apply State.setHk_keeps (h.mono (by decide))
    | (refine State.setLedger_keeps (h.mono (by decide)) (by intro hq; first | exact hq | (simp +zetaDelta [Ledger.Shaped, Ledger.idle, State.reset] at hq ⊢ <;> simp [hq]; done) | simpa +zetaDelta [Ledger.Shaped, Ledger.idle, State.reset] using hq) ?_)
    | (refine State.setPosBlk_keeps (h.mono (by decide)) (by intro hq; first | exact hq | (simp +zetaDelta [PosBlk.Shaped, PosBlk.idle, State.reset] at hq ⊢ <;> simp [hq]; done) | simpa +zetaDelta [PosBlk.Shaped, PosBlk.idle, State.reset] using hq) ?_)
    | apply State.setOsd_keeps (h.mono (by decide)) | apply State.setMarten_keeps (h.mono (by decide))
    | apply State.setFox_keeps (h.mono (by decide)) | apply State.setTbLatch_keeps (h.mono (by decide))
    | apply State.setMramW_keeps (h.mono (by decide)) | apply State.setBusErr_keeps (h.mono (by decide))
    | apply State.setOn_keeps (h.mono (by decide)) | apply State.setIrqs_keeps (h.mono (by decide))
    | (refine State.setEvl_keeps (h.mono (by decide)) (by intro hq; first | exact hq | (simp [State.reset]; done) | simpa using hq) ?_)
    | apply State.setCyc_keeps (h.mono (by decide))
    | (extract_lets +onlyGivenNames x; refine (fun (hx : P x) => ?_) ?_; clear_value x; rotate_left; dsimp -zeta only [x])
    | (extract_lets +onlyGivenNames x) | split

theorem execPowerCycle_keeps (h : Keep P 549755813836) {s : State} (hs : P s) :
    Answers P (execPowerCycle s) := by
  unfold execPowerCycle
  refine ⟨_, rfl, ?_⟩
  with_reducible repeat' first
    | assumption | apply State.powerCycle_keeps (h.mono (by decide)) | apply State.mramDrain_keeps (h.mono (by decide))

theorem State.supplyDue_keeps (h : Keep P 481035284444) {s : State} (hs : P s) :
    P (State.supplyDue s) := by
  unfold State.supplyDue
  with_reducible repeat' first
    | assumption | apply State.collapseOff_keeps (h.mono (by decide)) | apply State.flybackReady_keeps (h.mono (by decide))
    | apply State.switchOver_keeps (h.mono (by decide)) | apply State.thermalOff_keeps (h.mono (by decide))
    | apply keeps_ite (P := P)
    | (extract_lets +onlyGivenNames x; refine (fun (hx : P x) => ?_) ?_; clear_value x; rotate_left; dsimp -zeta only [x])
    | (extract_lets +onlyGivenNames x)

theorem execPllbLockLoss_keeps (h : Keep P 4132) {s : State} (hs : P s) :
    Answers P (execPllbLockLoss s) := by
  unfold execPllbLockLoss
  refine ⟨_, rfl, ?_⟩
  with_reducible repeat' first
    | assumption | apply State.put_keeps (h.mono (by decide)) | apply State.setPllB_keeps (h.mono (by decide))
    | apply State.noteClk_keeps (h.mono (by decide)) | apply keeps_ite (P := P) | (extract_lets +onlyGivenNames x)

theorem execPllaLockLoss_keeps (h : Keep P 2052) {s : State} (hs : P s) :
    Answers P (execPllaLockLoss s) := by
  unfold execPllaLockLoss
  refine ⟨_, rfl, ?_⟩
  with_reducible repeat' first
    | assumption | apply State.put_keeps (h.mono (by decide)) | apply State.setPllA_keeps (h.mono (by decide))
    | apply keeps_ite (P := P)

end Sys2Proof.Machine
end

