-- ==== Sys2Proof/Laws/KeepStart.lean ====
section
/-! SUPPORT. What the operations of Machine/Start.lean keep (Laws/Keep.lean). -/

namespace Sys2Proof.Machine

variable {P : State → Prop}

theorem State.latchEntries_keeps (h : Keep P 4) {s : State} (hs : P s) :
    P (State.latchEntries s) := by
  unfold State.latchEntries
  with_reducible repeat' first
    | assumption | (intro _) | apply State.wr_keeps (h.mono (by decide)) | apply keeps_foldl (P := P)
    | apply keeps_foldlPair (P := P)
    | (extract_lets +onlyGivenNames x; refine (fun (hx : P x) => ?_) ?_; clear_value x; rotate_left; dsimp -zeta only [x])

theorem State.scRelease_keeps (h : Keep P 70866960388) {s : State} (hs : P s) :
    P (State.scRelease s) := by
  unfold State.scRelease
  with_reducible repeat' first
    | assumption | (intro _) | apply State.put_keeps (h.mono (by decide))
    | (refine State.setScCores_keeps (h.mono (by decide)) (by intro hq; first | exact hq | (simp +zetaDelta at hq ⊢ <;> simp [hq]; done) | simpa +zetaDelta using hq) ?_)
    | apply State.setAsl_keeps (h.mono (by decide)) | apply keeps_ite (P := P) | apply keeps_foldl (P := P)
    | (extract_lets +onlyGivenNames x; refine (fun (hx : P x) => ?_) ?_; clear_value x; rotate_left; dsimp -zeta only [x])
    | (extract_lets +onlyGivenNames x)

theorem State.startBegin_keeps (h : Keep P 481035284172) {s : State} {k : Nat} (hs : P s) :
    P (State.startBegin s k) := by
  unfold State.startBegin
  with_reducible repeat' first
    | assumption | (intro _) | apply State.domOff_keeps (h.mono (by decide)) | apply State.dropRegs_keeps (h.mono (by decide))
    | apply State.inc_keeps (h.mono (by decide))
    | (refine State.setKcp_keeps (h.mono (by decide)) (by intro hq; first | exact hq | (simp +zetaDelta [Kcp.Shaped] at hq ⊢ <;> simp [hq]; done) | simpa +zetaDelta [Kcp.Shaped] using hq) ?_)
    | (refine State.setStart_keeps (h.mono (by decide)) (by intro hq; first | exact hq | (simp +zetaDelta [Start.Shaped] at hq ⊢ <;> simp [hq]; done) | simpa +zetaDelta [Start.Shaped] using hq) ?_)
    | apply keeps_ite (P := P)
    | (extract_lets +onlyGivenNames x; refine (fun (hx : P x) => ?_) ?_; clear_value x; rotate_left; dsimp -zeta only [x])
    | (extract_lets +onlyGivenNames x)

theorem execStartBegin_keeps (h : Keep P 481035284172) {v : Nat} {s : State} (hs : P s) :
    Answers P (execStartBegin v s) := by
  unfold execStartBegin
  refine ⟨_, rfl, ?_⟩
  with_reducible repeat' first
    | assumption | apply State.startBegin_keeps (h.mono (by decide)) | apply keeps_ite (P := P) | split
    | (refine keeps_snd (P := P) ‹_› ?_) | (refine keeps_fst (P := P) ‹_› ?_)

theorem State.startFail_keeps (h : Keep P 481035284172) {s : State} {code : Nat} (hs : P s) :
    P (State.startFail s code) := by
  unfold State.startFail
  with_reducible repeat' first
    | assumption | apply State.domOff_keeps (h.mono (by decide)) | apply State.inc_keeps (h.mono (by decide))
    | apply State.put_keeps (h.mono (by decide))
    | (refine State.setStart_keeps (h.mono (by decide)) (by intro hq; first | exact hq | (simp +zetaDelta [Start.Shaped] at hq ⊢ <;> simp [hq]; done) | simpa +zetaDelta [Start.Shaped] using hq) ?_)
    | apply keeps_ite (P := P)
    | (extract_lets +onlyGivenNames x; refine (fun (hx : P x) => ?_) ?_; clear_value x; rotate_left; dsimp -zeta only [x])
    | (extract_lets +onlyGivenNames x)

theorem State.startTimeout_keeps (h : Keep P 481035284172) {s : State} (hs : P s) :
    P (State.startTimeout s) := by
  unfold State.startTimeout
  with_reducible repeat' first
    | assumption | apply State.startFail_keeps (h.mono (by decide)) | apply keeps_ite (P := P)

theorem execStartTimeout_keeps (h : Keep P 481035284172) {s : State} (hs : P s) :
    Answers P (execStartTimeout s) := by
  unfold execStartTimeout
  refine ⟨_, rfl, ?_⟩
  with_reducible repeat' first
    | assumption | apply State.startTimeout_keeps (h.mono (by decide))

theorem State.startRetry_keeps (h : Keep P 481035284172) {s : State} {us : Nat} (hs : P s) :
    P (State.startRetry s us) := by
  unfold State.startRetry
  with_reducible repeat' first
    | assumption | apply State.startBegin_keeps (h.mono (by decide)) | apply keeps_ite (P := P) | split
    | (refine keeps_snd (P := P) ‹_› ?_) | (refine keeps_fst (P := P) ‹_› ?_)

theorem execStartRetry_keeps (h : Keep P 481035284172) {s : State} (hs : P s) :
    Answers P (execStartRetry s) := by
  unfold execStartRetry
  refine ⟨_, rfl, ?_⟩
  with_reducible repeat' first
    | assumption | apply State.startRetry_keeps (h.mono (by decide))

theorem State.badgerWarm_keeps (h : Keep P 481035284444) {s : State} (hs : P s) :
    P (State.badgerWarm s) := by
  unfold State.badgerWarm
  with_reducible repeat' first
    | assumption | (intro _) | apply State.bRemove_keeps (h.mono (by decide)) | apply State.bMirror_keeps (h.mono (by decide))
    | apply State.put_keeps (h.mono (by decide)) | apply keeps_ite (P := P) | apply keeps_foldl (P := P)
    | (extract_lets +onlyGivenNames x; refine (fun (hx : P x) => ?_) ?_; clear_value x; rotate_left; dsimp -zeta only [x])
    | (extract_lets +onlyGivenNames x)

theorem State.firmwareStart_keeps (h : Keep P 412974192564) {s : State} (hs : P s) :
    P (State.firmwareStart s) := by
  unfold State.firmwareStart
  with_reducible repeat' first
    | assumption | (intro _) | apply State.plugShow_keeps (h.mono (by decide)) | apply State.sstDone_keeps (h.mono (by decide))
    | apply State.hldEnter_keeps (h.mono (by decide)) | apply State.sstEnter_keeps (h.mono (by decide))
    | apply State.domOn_keeps (h.mono (by decide)) | apply State.put_keeps (h.mono (by decide))
    | apply State.wr_keeps (h.mono (by decide))
    | (refine State.setKcp_keeps (h.mono (by decide)) (by intro hq; first | exact hq | (simp +zetaDelta [Kcp.Shaped] at hq ⊢ <;> simp [hq]; done) | simpa +zetaDelta [Kcp.Shaped] using hq) ?_)
    | (refine State.setStart_keeps (h.mono (by decide)) (by intro hq; first | exact hq | (simp +zetaDelta [Start.Shaped] at hq ⊢ <;> simp [hq]; done) | simpa +zetaDelta [Start.Shaped] using hq) ?_)
    | apply State.setSup_keeps (h.mono (by decide)) | apply keeps_ite (P := P)
    | (extract_lets +onlyGivenNames x; refine (fun (hx : P x) => ?_) ?_; clear_value x; rotate_left; dsimp -zeta only [x])
    | (extract_lets +onlyGivenNames x; refine (fun (hx : P x.1) => ?_) ?_; clear_value x; rotate_left; dsimp -zeta only [x])
    | (extract_lets +onlyGivenNames x; refine (fun (hx : P x.2) => ?_) ?_; clear_value x; rotate_left; dsimp -zeta only [x])
    | (extract_lets +onlyGivenNames x) | split

theorem State.startDone_keeps (h : Keep P 274877906948) {s : State} (hs : P s) :
    P (State.startDone s) := by
  unfold State.startDone
  with_reducible repeat' first
    | assumption | apply State.put_keeps (h.mono (by decide))
    | (refine State.setStart_keeps (h.mono (by decide)) (by intro hq; first | exact hq | (simp +zetaDelta [Start.Shaped] at hq ⊢ <;> simp [hq]; done) | simpa +zetaDelta [Start.Shaped] using hq) ?_)
    | apply keeps_ite (P := P)
    | (extract_lets +onlyGivenNames x; refine (fun (hx : P x) => ?_) ?_; clear_value x; rotate_left; dsimp -zeta only [x])
    | (extract_lets +onlyGivenNames x)

theorem State.verifyImage_keeps (h : Keep P 274877906948) {s : State} {ok : Bool} {alt : Bool} (hs : P s) :
    P (State.verifyImage s ok alt) := by
  unfold State.verifyImage
  with_reducible repeat' first
    | assumption | apply State.put_keeps (h.mono (by decide))
    | (refine State.setStart_keeps (h.mono (by decide)) (by intro hq; first | exact hq | (simp +zetaDelta [Start.Shaped] at hq ⊢ <;> simp [hq]; done) | simpa +zetaDelta [Start.Shaped] using hq) ?_)
    | apply keeps_ite (P := P)
    | (extract_lets +onlyGivenNames x; refine (fun (hx : P x) => ?_) ?_; clear_value x; rotate_left; dsimp -zeta only [x])
    | (extract_lets +onlyGivenNames x)

theorem State.stepAction_keeps (h : Keep P 549754765308) {s : State} {n : Nat} {ok : Bool} {alt : Bool} (hs : P s) :
    P (State.stepAction s n ok alt) := by
  unfold State.stepAction
  with_reducible repeat' first
    | assumption | (intro _) | apply State.verifyImage_keeps (h.mono (by decide))
    | apply State.firmwareStart_keeps (h.mono (by decide)) | apply State.badgerWarm_keeps (h.mono (by decide))
    | apply State.scRelease_keeps (h.mono (by decide)) | apply State.latchEntries_keeps (h.mono (by decide))
    | apply State.domOn_keeps (h.mono (by decide)) | apply State.dropMem_keeps (h.mono (by decide))
    | apply State.put_keeps (h.mono (by decide)) | apply State.setPllA_keeps (h.mono (by decide))
    | (refine State.setStart_keeps (h.mono (by decide)) (by intro hq; first | exact hq | (simp +zetaDelta [Start.Shaped] at hq ⊢ <;> simp [hq]; done) | simpa +zetaDelta [Start.Shaped] using hq) ?_)
    | apply keeps_ite (P := P)
    | (extract_lets +onlyGivenNames x; refine (fun (hx : P x) => ?_) ?_; clear_value x; rotate_left; dsimp -zeta only [x])
    | (extract_lets +onlyGivenNames x)

theorem State.startStep_keeps (h : Keep P 549754765308) {s : State} {ok : Bool} {alt : Bool} (hs : P s) :
    P (State.startStep s ok alt) := by
  unfold State.startStep
  with_reducible repeat' first
    | assumption | apply State.stepAction_keeps (h.mono (by decide)) | apply State.startDone_keeps (h.mono (by decide))
    | apply State.startFail_keeps (h.mono (by decide)) | apply State.putFldBit_keeps (h.mono (by decide))
    | (refine State.setStart_keeps (h.mono (by decide)) (by intro hq; first | exact hq | (simp +zetaDelta [Start.Shaped] at hq ⊢ <;> simp [hq]; done) | simpa +zetaDelta [Start.Shaped] using hq) ?_)
    | apply keeps_ite (P := P)
    | (extract_lets +onlyGivenNames x; refine (fun (hx : P x) => ?_) ?_; clear_value x; rotate_left; dsimp -zeta only [x])
    | (extract_lets +onlyGivenNames x)

theorem execStartStep_keeps (h : Keep P 549754765308) {ok : Bool} {alt : Bool} {s : State} (hs : P s) :
    Answers P (execStartStep ok alt s) := by
  unfold execStartStep
  refine ⟨_, rfl, ?_⟩
  with_reducible repeat' first
    | assumption | apply State.startStep_keeps (h.mono (by decide))

theorem State.rstWrite_keeps (h : Keep P 274877906948) {s : State} {ini : Initiator} {v : Word} (hs : P s) :
    P (State.rstWrite s ini v) := by
  unfold State.rstWrite
  with_reducible repeat' first
    | assumption | (intro _) | apply State.fieldWrite_keeps (h.mono (by decide)) | apply State.put_keeps (h.mono (by decide))
    | (refine State.setStart_keeps (h.mono (by decide)) (by intro hq; first | exact hq | (simp +zetaDelta [Start.Shaped] at hq ⊢ <;> simp [hq]; done) | simpa +zetaDelta [Start.Shaped] using hq) ?_)
    | apply keeps_ite (P := P)
    | (extract_lets +onlyGivenNames x; refine (fun (hx : P x) => ?_) ?_; clear_value x; rotate_left; dsimp -zeta only [x])
    | (extract_lets +onlyGivenNames x)

theorem execSyscRstCold_keeps (h : Keep P 274877915140) {ini : Initiator} {val : Word} {s : State} (hs : P s) :
    Answers P (execSyscRstCold ini val s) := by
  unfold execSyscRstCold
  refine ⟨_, rfl, ?_⟩
  with_reducible repeat' first
    | assumption | (intro _) | apply State.rstWrite_keeps (h.mono (by decide)) | apply State.busWrite_keeps (h.mono (by decide))
    | (extract_lets +onlyGivenNames x; refine (fun (hx : P x) => ?_) ?_; clear_value x; rotate_left; dsimp -zeta only [x])

theorem execSyscRstWarm_keeps (h : Keep P 274877915140) {ini : Initiator} {val : Word} {s : State} (hs : P s) :
    Answers P (execSyscRstWarm ini val s) := by
  unfold execSyscRstWarm
  refine ⟨_, rfl, ?_⟩
  with_reducible repeat' first
    | assumption | (intro _) | apply State.rstWrite_keeps (h.mono (by decide)) | apply State.busWrite_keeps (h.mono (by decide))
    | (extract_lets +onlyGivenNames x; refine (fun (hx : P x) => ?_) ?_; clear_value x; rotate_left; dsimp -zeta only [x])

theorem State.heartbeatLoss_keeps (h : Keep P 274877906944) {s : State} (hs : P s) :
    P (State.heartbeatLoss s) := by
  unfold State.heartbeatLoss
  with_reducible repeat' first
    | assumption
    | (refine State.setStart_keeps (h.mono (by decide)) (by intro hq; first | exact hq | (simp +zetaDelta [Start.Shaped] at hq ⊢ <;> simp [hq]; done) | simpa +zetaDelta [Start.Shaped] using hq) ?_)
    | apply keeps_ite (P := P) | (extract_lets +onlyGivenNames x)

theorem execHkHeartbeatLoss_keeps (h : Keep P 274877906944) {s : State} (hs : P s) :
    Answers P (execHkHeartbeatLoss s) := by
  unfold execHkHeartbeatLoss
  refine ⟨_, rfl, ?_⟩
  with_reducible repeat' first
    | assumption | apply State.heartbeatLoss_keeps (h.mono (by decide))

theorem State.heartbeatDue_keeps (h : Keep P 274877906944) {s : State} (hs : P s) :
    P (State.heartbeatDue s) := by
  unfold State.heartbeatDue
  with_reducible repeat' first
    | assumption | apply State.heartbeatLoss_keeps (h.mono (by decide)) | apply keeps_ite (P := P)

theorem State.martenDue_keeps (h : Keep P 481035284172) {s : State} (hs : P s) :
    P (State.martenDue s) := by
  unfold State.martenDue
  with_reducible repeat' first
    | assumption | apply State.startRetry_keeps (h.mono (by decide)) | apply State.startTimeout_keeps (h.mono (by decide))
    | apply State.wakePlug_keeps (h.mono (by decide)) | apply State.wakeTimer_keeps (h.mono (by decide))
    | apply keeps_ite (P := P)
    | (extract_lets +onlyGivenNames x; refine (fun (hx : P x) => ?_) ?_; clear_value x; rotate_left; dsimp -zeta only [x])
    | (extract_lets +onlyGivenNames x)

theorem execLifecycleUnlock_keeps (h : Keep P 274894700556) {valid : Bool} {s : State} (hs : P s) :
    Answers P (execLifecycleUnlock valid s) := by
  unfold execLifecycleUnlock
  refine ⟨_, rfl, ?_⟩
  with_reducible repeat' first
    | assumption | (intro _) | apply State.mramDrain_keeps (h.mono (by decide)) | apply State.dropMem_keeps (h.mono (by decide))
    | apply State.put_keeps (h.mono (by decide))
    | (refine State.setKcp_keeps (h.mono (by decide)) (by intro hq; first | exact hq | (simp +zetaDelta [Kcp.Shaped] at hq ⊢ <;> simp [hq]; done) | simpa +zetaDelta [Kcp.Shaped] using hq) ?_)
    | (refine State.setStart_keeps (h.mono (by decide)) (by intro hq; first | exact hq | (simp +zetaDelta [Start.Shaped] at hq ⊢ <;> simp [hq]; done) | simpa +zetaDelta [Start.Shaped] using hq) ?_)
    | apply keeps_ite (P := P)
    | (extract_lets +onlyGivenNames x; refine (fun (hx : P x) => ?_) ?_; clear_value x; rotate_left; dsimp -zeta only [x])
    | (extract_lets +onlyGivenNames x)

theorem execDebugHalt_keeps (h : Keep P 3221225476) {core : Fin 4} {thread : Fin 3} {s : State} (hs : P s) :
    Answers P (execDebugHalt core thread s) := by
  unfold execDebugHalt
  refine ⟨_, rfl, ?_⟩
  with_reducible repeat' first
    | assumption | apply State.put_keeps (h.mono (by decide))
    | (refine State.setScCores_keeps (h.mono (by decide)) (by intro hq; first | exact hq | (simp +zetaDelta at hq ⊢ <;> simp [hq]; done) | simpa +zetaDelta using hq) ?_)
    | (refine State.setScThreads_keeps (h.mono (by decide)) (by intro hq; first | exact hq | (simp +zetaDelta at hq ⊢ <;> simp [hq]; done) | simpa +zetaDelta using hq) ?_)
    | apply keeps_ite (P := P)
    | (extract_lets +onlyGivenNames x; refine (fun (hx : P x) => ?_) ?_; clear_value x; rotate_left; dsimp -zeta only [x])
    | (extract_lets +onlyGivenNames x)

end Sys2Proof.Machine
end

