-- ==== Sys2Proof/Laws/KeepBus.lean ====
section
/-! SUPPORT. What the operations of Machine/Bus.lean keep (Laws/Keep.lean). -/

namespace Sys2Proof.Machine

variable {P : State → Prop}

theorem State.pwmRegWrite_keeps (h : Keep P 66452) {s : State} {k : Nat} {o : Nat} {v : Word} (hs : P s) :
    P (State.pwmRegWrite s k o v) := by
  unfold State.pwmRegWrite
  with_reducible repeat' first
    | assumption | apply State.pwmTripClear_keeps (h.mono (by decide)) | apply State.pwmCtrlWrite_keeps (h.mono (by decide))
    | apply State.pwmShadowWrite_keeps (h.mono (by decide)) | apply State.fieldWrite_keeps (h.mono (by decide))
    | apply State.pwmForceWrite_keeps (h.mono (by decide)) | apply State.tripCfgWrite_keeps (h.mono (by decide))
    | apply keeps_ite (P := P)
    | (extract_lets +onlyGivenNames x; refine (fun (hx : P x) => ?_) ?_; clear_value x; rotate_left; dsimp -zeta only [x])
    | (extract_lets +onlyGivenNames x)

theorem State.pwmWindow_keeps (h : Keep P 66452) {s : State} {ini : Initiator} {a : Nat} {v : Word} (hs : P s) :
    P (State.pwmWindow s ini a v) := by
  unfold State.pwmWindow
  with_reducible repeat' first
    | assumption | (intro _) | apply State.pwmRegWrite_keeps (h.mono (by decide))
    | apply State.pwmCommit_keeps (h.mono (by decide)) | apply State.pwmEach_keeps (h.mono (by decide))
    | apply State.fieldWrite_keeps (h.mono (by decide)) | apply State.pwmStart_keeps (h.mono (by decide))
    | apply State.pwmOwned_keeps (h.mono (by decide)) | apply State.countDiscard_keeps (h.mono (by decide))
    | apply keeps_ite (P := P)
    | (extract_lets +onlyGivenNames x; refine (fun (hx : P x) => ?_) ?_; clear_value x; rotate_left; dsimp -zeta only [x])
    | (extract_lets +onlyGivenNames x)

theorem State.gdWindow_keeps (h : Keep P 481035288572) {s : State} {a : Nat} {v : Word} (hs : P s) :
    P (State.gdWindow s a v) := by
  unfold State.gdWindow
  with_reducible repeat' first
    | assumption | apply State.osdCtrlWrite_keeps (h.mono (by decide)) | apply State.scgClear_keeps (h.mono (by decide))
    | apply State.pfltWrite_keeps (h.mono (by decide)) | apply State.gdCfgWrite_keeps (h.mono (by decide))
    | apply State.scgWrite_keeps (h.mono (by decide)) | apply State.protWrite_keeps (h.mono (by decide))
    | apply State.gdStatusWrite_keeps (h.mono (by decide)) | apply State.bootWrite_keeps (h.mono (by decide))
    | apply State.loopWrite_keeps (h.mono (by decide)) | apply State.profileWrite_keeps (h.mono (by decide))
    | apply State.fieldWrite_keeps (h.mono (by decide)) | apply State.useFree_keeps (h.mono (by decide))
    | apply keeps_ite (P := P)
    | (extract_lets +onlyGivenNames x; refine (fun (hx : P x) => ?_) ?_; clear_value x; rotate_left; dsimp -zeta only [x])
    | (extract_lets +onlyGivenNames x)

theorem State.convWindow_keeps (h : Keep P 17039748) {s : State} {a : Nat} {v : Word} (hs : P s) :
    P (State.convWindow s a v) := by
  unfold State.convWindow
  with_reducible repeat' first
    | assumption | apply State.capStop_keeps (h.mono (by decide)) | apply State.capStart_keeps (h.mono (by decide))
    | apply State.wuSrcWrite_keeps (h.mono (by decide)) | apply State.swTrig_keeps (h.mono (by decide))
    | apply State.vdcSrcWrite_keeps (h.mono (by decide)) | apply State.adCfgWrite_keeps (h.mono (by decide))
    | apply State.adSeqWrite_keeps (h.mono (by decide)) | apply State.fieldWrite_keeps (h.mono (by decide))
    | apply keeps_ite (P := P)
    | (extract_lets +onlyGivenNames x; refine (fun (hx : P x) => ?_) ?_; clear_value x; rotate_left; dsimp -zeta only [x])
    | (extract_lets +onlyGivenNames x)

theorem State.dacFltWrite_keeps (h : Keep P 131076) {s : State} {a : Nat} {v : Word} (hs : P s) :
    P (State.dacFltWrite s a v) := by
  unfold State.dacFltWrite
  with_reducible repeat' first
    | assumption | (intro _) | apply State.fieldWrite_keeps (h.mono (by decide)) | apply State.setFox_keeps (h.mono (by decide))
    | apply keeps_ite (P := P) | apply keeps_foldl (P := P)
    | (extract_lets +onlyGivenNames x; refine (fun (hx : P x) => ?_) ?_; clear_value x; rotate_left; dsimp -zeta only [x])
    | (extract_lets +onlyGivenNames x)

theorem State.wmWindow_keeps (h : Keep P 537002900) {s : State} {a : Nat} {v : Word} (hs : P s) :
    P (State.wmWindow s a v) := by
  unfold State.wmWindow
  with_reducible repeat' first
    | assumption | apply State.dacFltWrite_keeps (h.mono (by decide)) | apply State.routeWrite_keeps (h.mono (by decide))
    | apply State.wmThWrite_keeps (h.mono (by decide)) | apply State.wmCfgWrite_keeps (h.mono (by decide))
    | apply State.fieldWrite_keeps (h.mono (by decide)) | apply keeps_ite (P := P)
    | (extract_lets +onlyGivenNames x; refine (fun (hx : P x) => ?_) ?_; clear_value x; rotate_left; dsimp -zeta only [x])
    | (extract_lets +onlyGivenNames x)

theorem State.posWindow_keeps (h : Keep P 134217732) {s : State} {a : Nat} {v : Word} (hs : P s) :
    P (State.posWindow s a v) := by
  unfold State.posWindow
  with_reducible repeat' first
    | assumption | apply State.resStatusWrite_keeps (h.mono (by decide)) | apply State.resCfgWrite_keeps (h.mono (by decide))
    | apply State.posStatusWrite_keeps (h.mono (by decide)) | apply State.posCfgWrite_keeps (h.mono (by decide))
    | apply State.posRestart_keeps (h.mono (by decide)) | apply State.posCntWrite_keeps (h.mono (by decide))
    | apply State.fieldWrite_keeps (h.mono (by decide)) | apply keeps_ite (P := P)
    | (extract_lets +onlyGivenNames x; refine (fun (hx : P x) => ?_) ?_; clear_value x; rotate_left; dsimp -zeta only [x])
    | (extract_lets +onlyGivenNames x)

theorem State.ceOwnWrite_keeps (h : Keep P 4) {s : State} {ini : Initiator} {n : Nat} {o : Nat} {a : Nat} {v : Word} (hs : P s) :
    P (State.ceOwnWrite s ini n o a v) := by
  unfold State.ceOwnWrite
  with_reducible repeat' first
    | assumption | apply State.ceDlstatWrite_keeps (h.mono (by decide)) | apply State.fieldWrite_keeps (h.mono (by decide))
    | apply keeps_ite (P := P)

theorem State.ceWindow_keeps (h : Keep P 268500996) {s : State} {ini : Initiator} {a : Nat} {v : Word} (hs : P s) :
    P (State.ceWindow s ini a v) := by
  unfold State.ceWindow
  with_reducible repeat' first
    | assumption | apply State.ceOwnWrite_keeps (h.mono (by decide)) | apply State.batlimWrite_keeps (h.mono (by decide))
    | apply State.ceDlstatWrite_keeps (h.mono (by decide)) | apply State.ceSetWrite_keeps (h.mono (by decide))
    | apply State.ceRing_keeps (h.mono (by decide)) | apply State.ceCtrlWrite_keeps (h.mono (by decide))
    | apply State.fieldWrite_keeps (h.mono (by decide)) | apply keeps_ite (P := P)
    | (extract_lets +onlyGivenNames x; refine (fun (hx : P x) => ?_) ?_; clear_value x; rotate_left; dsimp -zeta only [x])
    | (extract_lets +onlyGivenNames x)

theorem State.puWrite_keeps (h : Keep P 4) {s : State} {ini : Initiator} {a : Nat} {v : Word} (hs : P s) :
    P (State.puWrite s ini a v) := by
  unfold State.puWrite
  with_reducible repeat' first
    | assumption | apply State.fieldWrite_keeps (h.mono (by decide)) | apply keeps_ite (P := P)
    | (extract_lets +onlyGivenNames x; refine (fun (hx : P x) => ?_) ?_; clear_value x; rotate_left; dsimp -zeta only [x])
    | (extract_lets +onlyGivenNames x) | split | (refine keeps_snd (P := P) ‹_› ?_) | (refine keeps_fst (P := P) ‹_› ?_)

theorem State.hsmWindow_keeps (h : Keep P 481035288572) {s : State} {ini : Initiator} {a : Nat} {v : Word} (hs : P s) :
    P (State.hsmWindow s ini a v) := by
  unfold State.hsmWindow
  with_reducible repeat' first
    | assumption | (intro _) | apply State.hsmReq_keeps (h.mono (by decide)) | apply State.wdCfgWrite_keeps (h.mono (by decide))
    | apply State.wdAnswer_keeps (h.mono (by decide)) | apply State.hsmAck_keeps (h.mono (by decide))
    | apply State.hsmFrom_keeps (h.mono (by decide)) | apply State.fieldWrite_keeps (h.mono (by decide))
    | apply keeps_ite (P := P)
    | (extract_lets +onlyGivenNames x; refine (fun (hx : P x) => ?_) ?_; clear_value x; rotate_left; dsimp -zeta only [x])
    | split | (refine keeps_snd (P := P) ‹_› ?_) | (refine keeps_fst (P := P) ‹_› ?_)

theorem State.sysWindow_keeps (h : Keep P 481035288572) {s : State} {ini : Initiator} {a : Nat} {v : Word} (hs : P s) :
    P (State.sysWindow s ini a v) := by
  unfold State.sysWindow
  with_reducible repeat' first
    | assumption | apply State.mbxDoneWrite_keeps (h.mono (by decide)) | apply State.rstWrite_keeps (h.mono (by decide))
    | apply State.stbyWrite_keeps (h.mono (by decide)) | apply State.pdcWrite_keeps (h.mono (by decide))
    | apply State.supCfgWrite_keeps (h.mono (by decide)) | apply State.policyWrite_keeps (h.mono (by decide))
    | apply State.fieldWrite_keeps (h.mono (by decide)) | apply keeps_ite (P := P)

theorem State.regWrite_keeps (h : Keep P 481035288572) {s : State} {ini : Initiator} {a : Nat} {v : Word} (hs : P s) :
    P (State.regWrite s ini a v) := by
  unfold State.regWrite
  with_reducible repeat' first
    | assumption | apply State.sysWindow_keeps (h.mono (by decide)) | apply State.hsmWindow_keeps (h.mono (by decide))
    | apply State.puWrite_keeps (h.mono (by decide)) | apply State.ceWindow_keeps (h.mono (by decide))
    | apply State.posWindow_keeps (h.mono (by decide)) | apply State.wmWindow_keeps (h.mono (by decide))
    | apply State.convWindow_keeps (h.mono (by decide)) | apply State.gdWindow_keeps (h.mono (by decide))
    | apply State.pwmWindow_keeps (h.mono (by decide)) | apply State.canWrite_keeps (h.mono (by decide))
    | apply State.dmaWrite_keeps (h.mono (by decide)) | apply State.fieldWrite_keeps (h.mono (by decide))
    | apply keeps_ite (P := P)

theorem State.blockStore_keeps (h : Keep P 481035288572) {s : State} {ini : Initiator} {a : Nat} {v : List Byte} (hs : P s) :
    P (State.blockStore s ini a v) := by
  unfold State.blockStore
  with_reducible repeat' first
    | assumption | apply State.regWrite_keeps (h.mono (by decide)) | apply State.tcmStore_keeps (h.mono (by decide))
    | apply State.memStore_keeps (h.mono (by decide)) | apply State.canRamWrite_keeps (h.mono (by decide))
    | apply keeps_ite (P := P)

theorem State.busStore_keeps (h : Keep P 481035288572) {s : State} {ini : Initiator} {a : Nat} {v : List Byte} (hs : P s) :
    P (State.busStore s ini a v) := by
  unfold State.busStore
  with_reducible repeat' first
    | assumption | (intro _) | apply State.blockStore_keeps (h.mono (by decide))
    | apply State.busWrite_keeps (h.mono (by decide))
    | (extract_lets +onlyGivenNames x; refine (fun (hx : P x) => ?_) ?_; clear_value x; rotate_left; dsimp -zeta only [x])

theorem execRegisterWrite_keeps (h : Keep P 481035288572) {ini : Initiator} {addr : Word} {val : Word} {s : State} (hs : P s) :
    Answers P (execRegisterWrite ini addr val s) := by
  unfold execRegisterWrite
  refine ⟨_, rfl, ?_⟩
  with_reducible repeat' first
    | assumption | apply State.busStore_keeps (h.mono (by decide))

theorem State.regRead_keeps (h : Keep P 8590229524) {s : State} {ini : Initiator} {a : Nat} (hs : P s) :
    P (State.regRead s ini a).2 := by
  unfold State.regRead
  with_reducible repeat' first
    | assumption | (intro _) | apply State.latchRead_keeps (h.mono (by decide))
    | apply State.canRxRead_keeps (h.mono (by decide)) | apply keeps_ite (P := P) | apply keeps_iteSnd (P := P)
    | apply keeps_iteFst (P := P) | apply keeps_foldl (P := P) | apply keeps_foldlPair (P := P)
    | (extract_lets +onlyGivenNames x; refine (fun (hx : P x) => ?_) ?_; clear_value x; rotate_left; dsimp -zeta only [x])
    | (extract_lets +onlyGivenNames x; refine (fun (hx : ∀ s, P s → P (x s)) => ?_) ?_; clear_value x; rotate_left; dsimp -zeta only [x])
    | (extract_lets +onlyGivenNames x; refine (fun (hx : ∀ s y, P s → P (x s y)) => ?_) ?_; clear_value x; rotate_left; dsimp -zeta only [x])
    | (extract_lets +onlyGivenNames x; refine (fun (hx : P x.1) => ?_) ?_; clear_value x; rotate_left; dsimp -zeta only [x])
    | (extract_lets +onlyGivenNames x; refine (fun (hx : P x.2) => ?_) ?_; clear_value x; rotate_left; dsimp -zeta only [x])
    | (extract_lets +onlyGivenNames x; refine (fun (hx : ∀ y, P (x y)) => ?_) ?_; clear_value x; rotate_left; dsimp -zeta only [x])
    | (extract_lets +onlyGivenNames x) | (exact ‹∀ y : _, P _› _) | (refine ‹∀ s : State, P s → P _› _ ?_)
    | (refine ‹∀ (s : State) (y : _), P s → P _› _ _ ?_) | (dsimp -zeta only) | split | (refine keeps_snd (P := P) ‹_› ?_)
    | (refine keeps_fst (P := P) ‹_› ?_)

theorem State.blockLoad_keeps (h : Keep P 8590229524) {s : State} {ini : Initiator} {a : Nat} {n : Nat} (hs : P s) :
    P (State.blockLoad s ini a n).2 := by
  unfold State.blockLoad
  with_reducible repeat' first
    | assumption | (intro _) | apply State.regRead_keeps (h.mono (by decide)) | apply keeps_ite (P := P)
    | apply keeps_iteSnd (P := P) | apply keeps_iteFst (P := P) | apply keeps_foldl (P := P) | apply keeps_foldlPair (P := P)
    | (extract_lets +onlyGivenNames x; refine (fun (hx : P x) => ?_) ?_; clear_value x; rotate_left; dsimp -zeta only [x])
    | (extract_lets +onlyGivenNames x; refine (fun (hx : ∀ s, P s → P (x s)) => ?_) ?_; clear_value x; rotate_left; dsimp -zeta only [x])
    | (extract_lets +onlyGivenNames x; refine (fun (hx : ∀ s y, P s → P (x s y)) => ?_) ?_; clear_value x; rotate_left; dsimp -zeta only [x])
    | (extract_lets +onlyGivenNames x; refine (fun (hx : P x.1) => ?_) ?_; clear_value x; rotate_left; dsimp -zeta only [x])
    | (extract_lets +onlyGivenNames x; refine (fun (hx : P x.2) => ?_) ?_; clear_value x; rotate_left; dsimp -zeta only [x])
    | (extract_lets +onlyGivenNames x; refine (fun (hx : ∀ y, P (x y)) => ?_) ?_; clear_value x; rotate_left; dsimp -zeta only [x])
    | (extract_lets +onlyGivenNames x) | (exact ‹∀ y : _, P _› _) | (refine ‹∀ s : State, P s → P _› _ ?_)
    | (refine ‹∀ (s : State) (y : _), P s → P _› _ _ ?_) | (dsimp -zeta only) | split | (refine keeps_snd (P := P) ‹_› ?_)
    | (refine keeps_fst (P := P) ‹_› ?_)

theorem execTbLoRead_keeps (h : Keep P 40960) {ini : Initiator} {s : State} (hs : P s) :
    Answers P (execTbLoRead ini s) := by
  unfold execTbLoRead
  refine ⟨_, rfl, ?_⟩
  with_reducible repeat' first
    | assumption | (intro _) | apply State.busRead_keeps (h.mono (by decide))
    | apply State.tbLatchSet_keeps (h.mono (by decide))
    | (extract_lets +onlyGivenNames x; refine (fun (hx : P x) => ?_) ?_; clear_value x; rotate_left; dsimp -zeta only [x])

theorem execTbCtrlWrite_keeps (h : Keep P 8196) {ini : Initiator} {val : Word} {s : State} (hs : P s) :
    Answers P (execTbCtrlWrite ini val s) := by
  unfold execTbCtrlWrite
  refine ⟨_, rfl, ?_⟩
  with_reducible repeat' first
    | assumption | (intro _) | apply State.fieldWrite_keeps (h.mono (by decide))
    | apply State.busWrite_keeps (h.mono (by decide))
    | (extract_lets +onlyGivenNames x; refine (fun (hx : P x) => ?_) ?_; clear_value x; rotate_left; dsimp -zeta only [x])

theorem State.scLoaded_keeps (h : Keep P 1073741824) {s : State} {ini : Initiator} {v : Word} (hs : P s) :
    P (State.scLoaded s ini v) := by
  unfold State.scLoaded
  with_reducible repeat' first
    | assumption
    | (refine State.setScThreads_keeps (h.mono (by decide)) (by intro hq; first | exact hq | (simp +zetaDelta at hq ⊢ <;> simp [hq]; done) | simpa +zetaDelta using hq) ?_)
    | (extract_lets +onlyGivenNames x) | split | (refine keeps_snd (P := P) ‹_› ?_) | (refine keeps_fst (P := P) ‹_› ?_)

theorem State.tcmAccess_keeps (h : Keep P 481035288572) {s : State} {ini : Initiator} {a : Nat} {data : Option Word} (hs : P s) :
    P (State.tcmAccess s ini a data) := by
  unfold State.tcmAccess
  with_reducible repeat' first
    | assumption | (intro _) | apply State.scLoaded_keeps (h.mono (by decide)) | apply State.busStore_keeps (h.mono (by decide))
    | apply State.busRead_keeps (h.mono (by decide))
    | (extract_lets +onlyGivenNames x; refine (fun (hx : P x) => ?_) ?_; clear_value x; rotate_left; dsimp -zeta only [x])
    | split | (refine keeps_snd (P := P) ‹_› ?_) | (refine keeps_fst (P := P) ‹_› ?_)

theorem execFabricTcmAccess_keeps (h : Keep P 481035288572) {ini : Initiator} {w : BitVec 19} {data : Option Word} {s : State} (hs : P s) :
    Answers P (execFabricTcmAccess ini w data s) := by
  unfold execFabricTcmAccess
  refine ⟨_, rfl, ?_⟩
  with_reducible repeat' first
    | assumption | apply State.tcmAccess_keeps (h.mono (by decide))

end Sys2Proof.Machine
end

