-- ==== Sys2Proof/Laws/KeepEvlDma.lean ====
section
/-! SUPPORT. What the operations of Machine/EvlDma.lean keep (Laws/Keep.lean). -/

namespace Sys2Proof.Machine

variable {P : State → Prop}

theorem evRemove_length (e : EvEntry) (q : List EvEntry) : (evRemove e q).length ≤ q.length := by
  induction q with
  | nil => exact Nat.le_refl _
  | cons f t ih =>
    unfold evRemove
    split
    · exact Nat.le_succ _
    · exact Nat.succ_le_succ ih

theorem takeRecs_length (n : Nat) (l : List (List Byte)) : (takeRecs n l).length ≤ l.length := by
  induction l generalizing n with
  | nil => cases n <;> exact Nat.le_refl _
  | cons a t ih =>
    unfold takeRecs
    split <;> first | exact Nat.le_refl _ | (split <;> first | exact Nat.le_succ_of_le (ih _) | simp)

theorem State.faultCopy_keeps (h : Keep P 274877923336) {s : State} {r : List Byte} (hs : P s) :
    P (State.faultCopy s r) := by
  unfold State.faultCopy
  with_reducible repeat' first
    | assumption | apply State.memStore_keeps (h.mono (by decide))
    | (refine State.setStart_keeps (h.mono (by decide)) (by intro hq; first | exact hq | (simp +zetaDelta [Start.Shaped] at hq ⊢ <;> simp [hq]; done) | simpa +zetaDelta [Start.Shaped] using hq) ?_)
    | apply keeps_ite (P := P)
    | (extract_lets +onlyGivenNames x; refine (fun (hx : P x) => ?_) ?_; clear_value x; rotate_left; dsimp -zeta only [x])
    | (extract_lets +onlyGivenNames x)

theorem State.evWrite_keeps (h : Keep P 274877923484) {s : State} (hs : P s) :
    P (State.evWrite s) := by
  unfold State.evWrite
  split
  · next e _ =>
    split
    · extract_lets rest again order r w s1 s2 l1 s3 l2 s4
      have e2 : s2.evl = s.evl := State.setFresh_keeps ((keep_evl s).mono (by decide))
        (State.wrapInc_keeps ((keep_evl s).mono (by decide)) (State.wrBytes_keeps ((keep_evl s).mono (by decide)) rfl))
      have h2 : P s2 := State.setFresh_keeps (h.mono (by decide))
        (State.wrapInc_keeps (h.mono (by decide)) (State.wrBytes_keeps (h.mono (by decide)) hs))
      have h3 : P s3 := State.setEvl_keeps (h.mono (by decide))
        (fun hl => Nat.le_trans (evRemove_length e s.evl.queue) (e2 ▸ hl)) h2
      have h4 : P s4 := by
        refine State.setStart_keeps (h.mono (by decide)) ?_ h3
        intro hq
        simpa [Start.Shaped] using hq
      split
      · exact State.faultCopy_keeps (h.mono (by decide)) h4
      · exact h4
    · exact hs
  · exact hs

theorem execEvlRecordWrite_keeps (h : Keep P 274877923484) {s : State} (hs : P s) :
    Answers P (execEvlRecordWrite s) := by
  unfold execEvlRecordWrite
  refine ⟨_, rfl, ?_⟩
  with_reducible repeat' first
    | assumption | apply State.evWrite_keeps (h.mono (by decide))

theorem State.fabCount_keeps (h : Keep P 4) {s : State} {a : Nat} {resends : Nat} {fixed : Nat} (hs : P s) :
    P (State.fabCount s a resends fixed) := by
  unfold State.fabCount
  with_reducible repeat' first
    | assumption | apply State.incBy_keeps (h.mono (by decide)) | apply keeps_ite (P := P)
    | (extract_lets +onlyGivenNames x; refine (fun (hx : P x) => ?_) ?_; clear_value x; rotate_left; dsimp -zeta only [x])
    | (extract_lets +onlyGivenNames x)

theorem State.fabFault_keeps (h : Keep P 4) {s : State} (hs : P s) :
    P (State.fabFault s) := by
  unfold State.fabFault
  with_reducible repeat' first
    | assumption | apply State.incBy_keeps (h.mono (by decide)) | apply State.inc_keeps (h.mono (by decide))

theorem State.memBad_keeps (h : Keep P 4) {s : State} {a : Nat} (hs : P s) :
    P (State.memBad s a) := by
  unfold State.memBad
  with_reducible repeat' first
    | assumption | apply State.inc_keeps (h.mono (by decide)) | apply State.put_keeps (h.mono (by decide))
    | apply keeps_ite (P := P)

theorem State.fabEnd_keeps (h : Keep P 4) {s : State} {a : Nat} {r : FabRes} (hs : P s) :
    P (State.fabEnd s a r).2 := by
  unfold State.fabEnd
  with_reducible repeat' first
    | assumption | apply State.memBad_keeps (h.mono (by decide)) | apply State.fabFault_keeps (h.mono (by decide))
    | apply State.fabCount_keeps (h.mono (by decide)) | apply keeps_ite (P := P) | apply keeps_iteSnd (P := P) | split
    | (refine keeps_snd (P := P) ‹_› ?_) | (refine keeps_fst (P := P) ‹_› ?_)

theorem State.rqTake_keeps (h : Keep P 262148) {s : State} {n : Nat} (hs : P s) :
    P (State.rqTake s n) := by
  unfold State.rqTake
  extract_lets s1
  refine State.put_keeps (h.mono (by decide)) (State.setConv_keeps (h.mono (by decide)) ?_ hs)
  rintro ⟨h1, h2, h3, h4⟩
  exact ⟨h1, h2, h3, Nat.le_trans (takeRecs_length n s.conv.rq) h4⟩

theorem State.queueRead_keeps (h : Keep P 34360000532) {s : State} {q : Nat} {n : Nat} (hs : P s) :
    P (State.queueRead s q n).2 := by
  unfold State.queueRead
  with_reducible repeat' first
    | assumption | (intro _) | apply State.rqTake_keeps (h.mono (by decide)) | apply State.put_keeps (h.mono (by decide))
    | (refine State.setConv_keeps (h.mono (by decide)) (by intro hq; first | exact hq | (simp +zetaDelta [Conv.Shaped] at hq ⊢ <;> simp [hq]; done) | simpa +zetaDelta [Conv.Shaped] using hq) ?_)
    | apply State.setEth_keeps (h.mono (by decide)) | apply State.setFresh_keeps (h.mono (by decide)) | apply keeps_ite (P := P)
    | apply keeps_iteSnd (P := P) | apply keeps_iteFst (P := P) | apply keeps_foldl (P := P) | apply keeps_foldlPair (P := P)
    | (extract_lets +onlyGivenNames x; refine (fun (hx : P x) => ?_) ?_; clear_value x; rotate_left; dsimp -zeta only [x])
    | (extract_lets +onlyGivenNames x; refine (fun (hx : ∀ s, P s → P (x s)) => ?_) ?_; clear_value x; rotate_left; dsimp -zeta only [x])
    | (extract_lets +onlyGivenNames x; refine (fun (hx : ∀ s y, P s → P (x s y)) => ?_) ?_; clear_value x; rotate_left; dsimp -zeta only [x])
    | (extract_lets +onlyGivenNames x; refine (fun (hx : P x.1) => ?_) ?_; clear_value x; rotate_left; dsimp -zeta only [x])
    | (extract_lets +onlyGivenNames x; refine (fun (hx : P x.2) => ?_) ?_; clear_value x; rotate_left; dsimp -zeta only [x])
    | (extract_lets +onlyGivenNames x; refine (fun (hx : ∀ y, P (x y)) => ?_) ?_; clear_value x; rotate_left; dsimp -zeta only [x])
    | (extract_lets +onlyGivenNames x) | (exact ‹∀ y : _, P _› _) | (refine ‹∀ s : State, P s → P _› _ ?_)
    | (refine ‹∀ (s : State) (y : _), P s → P _› _ _ ?_) | (dsimp -zeta only) | split | (refine keeps_snd (P := P) ‹_› ?_)
    | (refine keeps_fst (P := P) ‹_› ?_)

theorem State.wordReads_keeps (h : Keep P 8590229524) {s : State} {ini : Initiator} {a : Nat} {inc : Bool} {x4 : Nat} (hs : P s) :
    P (State.wordReads s ini a inc x4).2 := by
  induction x4 generalizing s ini a inc with
  | zero =>
    unfold State.wordReads
    with_reducible repeat' first
      | (with_reducible apply ih) | with_reducible assumption | with_reducible apply State.blockLoad_keeps (h.mono (by decide)) | with_reducible apply keeps_ite (P := P) | with_reducible apply keeps_iteSnd (P := P) | (extract_lets +onlyGivenNames x; refine (fun (hx : P x) => ?_) ?_; clear_value x; rotate_left; dsimp -zeta only [x]) | (extract_lets +onlyGivenNames x; refine (fun (hx : P x.1) => ?_) ?_; clear_value x; rotate_left; dsimp -zeta only [x]) | (extract_lets +onlyGivenNames x; refine (fun (hx : P x.2) => ?_) ?_; clear_value x; rotate_left; dsimp -zeta only [x]) | (extract_lets +onlyGivenNames x)
  | succ k ih =>
    unfold State.wordReads
    with_reducible repeat' first
      | (with_reducible apply ih) | with_reducible assumption | with_reducible apply State.blockLoad_keeps (h.mono (by decide)) | with_reducible apply keeps_ite (P := P) | with_reducible apply keeps_iteSnd (P := P) | (extract_lets +onlyGivenNames x; refine (fun (hx : P x) => ?_) ?_; clear_value x; rotate_left; dsimp -zeta only [x]) | (extract_lets +onlyGivenNames x; refine (fun (hx : P x.1) => ?_) ?_; clear_value x; rotate_left; dsimp -zeta only [x]) | (extract_lets +onlyGivenNames x; refine (fun (hx : P x.2) => ?_) ?_; clear_value x; rotate_left; dsimp -zeta only [x]) | (extract_lets +onlyGivenNames x)


theorem State.dmaRead_keeps (h : Keep P 42949967892) {s : State} {c : Nat} {p : Nat} {n : Nat} (hs : P s) :
    P (State.dmaRead s c p n).2 := by
  unfold State.dmaRead
  with_reducible repeat' first
    | assumption | apply State.wordReads_keeps (h.mono (by decide)) | apply State.queueRead_keeps (h.mono (by decide))
    | apply keeps_ite (P := P) | apply keeps_iteSnd (P := P) | split | (refine keeps_snd (P := P) ‹_› ?_)
    | (refine keeps_fst (P := P) ‹_› ?_)

theorem State.wordWrites_keeps (h : Keep P 481035288572) {s : State} {ini : Initiator} {a : Nat} {inc : Bool} {l : List Byte} {x5 : Nat} (hs : P s) :
    P (State.wordWrites s ini a inc l x5) := by
  induction x5 generalizing s ini a inc l with
  | zero =>
    unfold State.wordWrites
    with_reducible repeat' first
      | (with_reducible apply ih) | with_reducible assumption | with_reducible apply State.blockStore_keeps (h.mono (by decide)) | with_reducible apply keeps_ite (P := P)
  | succ k ih =>
    unfold State.wordWrites
    with_reducible repeat' first
      | (with_reducible apply ih) | with_reducible assumption | with_reducible apply State.blockStore_keeps (h.mono (by decide)) | with_reducible apply keeps_ite (P := P)


theorem State.dmaPut_keeps (h : Keep P 481035288572) {s : State} {c : Nat} {p : Nat} {l : List Byte} (hs : P s) :
    P (State.dmaPut s c p l) := by
  unfold State.dmaPut
  with_reducible repeat' first
    | assumption | (intro _) | apply State.wordWrites_keeps (h.mono (by decide))
    | apply State.ethTxWrite_keeps (h.mono (by decide)) | apply keeps_ite (P := P) | apply keeps_foldl (P := P)
    | (extract_lets +onlyGivenNames x; refine (fun (hx : P x) => ?_) ?_; clear_value x; rotate_left; dsimp -zeta only [x])
    | split | (refine keeps_snd (P := P) ‹_› ?_) | (refine keeps_fst (P := P) ‹_› ?_)

theorem State.dmaSteps_keeps (h : Keep P 481035288572) {s : State} {c : Nat} {n : Nat} {rd : FabRes} {wr : FabRes} (hs : P s) :
    P (State.dmaSteps s c n rd wr).2 := by
  unfold State.dmaSteps
  with_reducible repeat' first
    | assumption | apply State.dmaPut_keeps (h.mono (by decide)) | apply State.dmaRead_keeps (h.mono (by decide))
    | apply State.fabEnd_keeps (h.mono (by decide)) | apply keeps_ite (P := P) | apply keeps_iteSnd (P := P)
    | (extract_lets +onlyGivenNames x; refine (fun (hx : P x) => ?_) ?_; clear_value x; rotate_left; dsimp -zeta only [x])
    | (extract_lets +onlyGivenNames x; refine (fun (hx : P x.1) => ?_) ?_; clear_value x; rotate_left; dsimp -zeta only [x])
    | (extract_lets +onlyGivenNames x; refine (fun (hx : P x.2) => ?_) ?_; clear_value x; rotate_left; dsimp -zeta only [x])
    | (extract_lets +onlyGivenNames x) | split | (refine keeps_snd (P := P) ‹_› ?_) | (refine keeps_fst (P := P) ‹_› ?_)

theorem State.dmaBoundary_keeps (h : Keep P 4294967556) {s : State} {c : Nat} {n : Nat} (hs : P s) :
    P (State.dmaBoundary s c n) := by
  unfold State.dmaBoundary
  with_reducible repeat' first
    | assumption | apply State.dmaArbitrate_keeps (h.mono (by decide)) | apply State.dmaRelease_keeps (h.mono (by decide))
    | apply State.dmaComplete_keeps (h.mono (by decide)) | apply State.setDmaCh_keeps (h.mono (by decide))
    | apply State.inc_keeps (h.mono (by decide)) | apply State.put_keeps (h.mono (by decide)) | apply keeps_ite (P := P)
    | (extract_lets +onlyGivenNames x; refine (fun (hx : P x) => ?_) ?_; clear_value x; rotate_left; dsimp -zeta only [x])
    | (extract_lets +onlyGivenNames x)

theorem State.dmaBlock_keeps (h : Keep P 481035288572) {s : State} {rd : FabRes} {wr : FabRes} (hs : P s) :
    P (State.dmaBlock s rd wr) := by
  unfold State.dmaBlock
  with_reducible repeat' first
    | assumption | apply State.dmaBoundary_keeps (h.mono (by decide)) | apply State.dmaSteps_keeps (h.mono (by decide))
    | apply State.dmaArbitrate_keeps (h.mono (by decide)) | apply State.dmaRelease_keeps (h.mono (by decide))
    | apply State.dmaFault_keeps (h.mono (by decide)) | apply State.put_keeps (h.mono (by decide)) | apply keeps_ite (P := P)
    | (extract_lets +onlyGivenNames x; refine (fun (hx : P x) => ?_) ?_; clear_value x; rotate_left; dsimp -zeta only [x])
    | (extract_lets +onlyGivenNames x) | split | (refine keeps_snd (P := P) ‹_› ?_) | (refine keeps_fst (P := P) ‹_› ?_)

theorem execDmaBlock_keeps (h : Keep P 481035288572) {rd : FabRes} {wr : FabRes} {s : State} (hs : P s) :
    Answers P (execDmaBlock rd wr s) := by
  unfold execDmaBlock
  refine ⟨_, rfl, ?_⟩
  with_reducible repeat' first
    | assumption | apply State.dmaBlock_keeps (h.mono (by decide))

end Sys2Proof.Machine
end

