-- ==== Sys2Proof/Laws/KeepCeOps.lean ====
section
/-! SUPPORT. What the operations of Machine/CeOps.lean keep (Laws/Keep.lean). -/

namespace Sys2Proof.Machine

variable {P : State → Prop}

theorem State.ceTrap_keeps (h : Keep P 65796) {s : State} {n : Nat} {cause : Nat} {tval : Nat} (hs : P s) :
    P (State.ceTrap s n cause tval) := by
  unfold State.ceTrap
  with_reducible repeat' first
    | assumption | apply State.setCe_keeps (h.mono (by decide)) | apply State.irq_keeps (h.mono (by decide))
    | apply State.put_keeps (h.mono (by decide)) | apply keeps_ite (P := P)
    | (extract_lets +onlyGivenNames x; refine (fun (hx : P x) => ?_) ?_; clear_value x; rotate_left; dsimp -zeta only [x])
    | (extract_lets +onlyGivenNames x)

theorem State.ceBusTrap_keeps (h : Keep P 65924) {s : State} {n : Nat} {cause : Nat} {a : Nat} {typ : Nat} (hs : P s) :
    P (State.ceBusTrap s n cause a typ) := by
  unfold State.ceBusTrap
  with_reducible repeat' first
    | assumption | apply State.ceTrap_keeps (h.mono (by decide)) | apply State.log_keeps (h.mono (by decide))

theorem State.ceStoreError_keeps (h : Keep P 74116) {s : State} {n : Nat} (hs : P s) :
    P (State.ceStoreError s n) := by
  unfold State.ceStoreError
  with_reducible repeat' first
    | assumption | (intro _) | apply State.ceBusTrap_keeps (h.mono (by decide))
    | apply State.ceUntake_keeps (h.mono (by decide)) | apply State.setBusErr_keeps (h.mono (by decide))
    | apply keeps_ite (P := P)
    | (extract_lets +onlyGivenNames x; refine (fun (hx : P x) => ?_) ?_; clear_value x; rotate_left; dsimp -zeta only [x])
    | (extract_lets +onlyGivenNames x; refine (fun (hx : P x.1) => ?_) ?_; clear_value x; rotate_left; dsimp -zeta only [x])
    | (extract_lets +onlyGivenNames x; refine (fun (hx : P x.2) => ?_) ?_; clear_value x; rotate_left; dsimp -zeta only [x])
    | (extract_lets +onlyGivenNames x) | split | (refine keeps_snd (P := P) ‹_› ?_) | (refine keeps_fst (P := P) ‹_› ?_)

theorem execCeStoreBusError_keeps (h : Keep P 74116) {n : Fin 8} {s : State} (hs : P s) :
    Answers P (execCeStoreBusError n s) := by
  unfold execCeStoreBusError
  refine ⟨_, rfl, ?_⟩
  with_reducible repeat' first
    | assumption | apply State.ceStoreError_keeps (h.mono (by decide))

theorem State.ceLoad_keeps (h : Keep P 8590295444) {s : State} {n : Fin 8} {a : Nat} {k : Nat} {fab : FabRes} {f : List Byte → State → State} (hs : P s) (hf : ∀ (y0 : List Byte) (y1 : State), P y1 → P (f y0 y1)) :
    P (State.ceLoad s n a k fab f) := by
  unfold State.ceLoad
  with_reducible repeat' first
    | assumption | (apply hf) | apply State.ceBusTrap_keeps (h.mono (by decide)) | apply State.ceTrap_keeps (h.mono (by decide))
    | apply State.fabEnd_keeps (h.mono (by decide)) | apply State.blockLoad_keeps (h.mono (by decide))
    | apply keeps_ite (P := P)
    | (extract_lets +onlyGivenNames x; refine (fun (hx : P x) => ?_) ?_; clear_value x; rotate_left; dsimp -zeta only [x])
    | (extract_lets +onlyGivenNames x; refine (fun (hx : P x.1) => ?_) ?_; clear_value x; rotate_left; dsimp -zeta only [x])
    | (extract_lets +onlyGivenNames x; refine (fun (hx : P x.2) => ?_) ?_; clear_value x; rotate_left; dsimp -zeta only [x])
    | (extract_lets +onlyGivenNames x) | split | (refine keeps_snd (P := P) ‹_› ?_) | (refine keeps_fst (P := P) ‹_› ?_)

theorem State.cePost_keeps (h : Keep P 481035288572) {s : State} {n : Fin 8} {a : Nat} {v : List Byte} {fab : FabRes} (hs : P s) :
    P (State.cePost s n a v fab) := by
  unfold State.cePost
  with_reducible repeat' first
    | assumption | apply State.fabEnd_keeps (h.mono (by decide)) | apply State.busStore_keeps (h.mono (by decide))
    | apply State.blockStore_keeps (h.mono (by decide)) | apply State.countDiscard_keeps (h.mono (by decide))
    | apply State.setCe_keeps (h.mono (by decide)) | apply State.setBusErr_keeps (h.mono (by decide)) | apply keeps_ite (P := P)
    | (extract_lets +onlyGivenNames x; refine (fun (hx : P x) => ?_) ?_; clear_value x; rotate_left; dsimp -zeta only [x])
    | (extract_lets +onlyGivenNames x) | split | (refine keeps_snd (P := P) ‹_› ?_) | (refine keeps_fst (P := P) ‹_› ?_)

theorem State.ceLandOne_keeps (h : Keep P 481035288572) {s : State} {n : Fin 8} {a : Nat} {v : List Byte} (hs : P s) :
    P (State.ceLandOne s n a v) := by
  unfold State.ceLandOne
  with_reducible repeat' first
    | assumption | apply State.busStore_keeps (h.mono (by decide)) | apply State.setCe_keeps (h.mono (by decide))
    | (extract_lets +onlyGivenNames x; refine (fun (hx : P x) => ?_) ?_; clear_value x; rotate_left; dsimp -zeta only [x])
    | (extract_lets +onlyGivenNames x)

theorem State.ceLand_keeps (h : Keep P 481035288572) {s : State} {n : Fin 8} (hs : P s) :
    P (State.ceLand s n) := by
  unfold State.ceLand
  with_reducible repeat' first
    | assumption | (intro _) | apply State.ceLandOne_keeps (h.mono (by decide)) | apply State.setCe_keeps (h.mono (by decide))
    | apply keeps_ite (P := P) | apply keeps_foldl (P := P) | apply keeps_foldlPair (P := P)
    | (extract_lets +onlyGivenNames x; refine (fun (hx : P x) => ?_) ?_; clear_value x; rotate_left; dsimp -zeta only [x])
    | (extract_lets +onlyGivenNames x; refine (fun (hx : P x.1) => ?_) ?_; clear_value x; rotate_left; dsimp -zeta only [x])
    | (extract_lets +onlyGivenNames x; refine (fun (hx : P x.2) => ?_) ?_; clear_value x; rotate_left; dsimp -zeta only [x])
    | (extract_lets +onlyGivenNames x)

theorem State.ceStore_keeps (h : Keep P 481035288572) {s : State} {n : Fin 8} {a : Nat} {v : List Byte} {fab : FabRes} (hs : P s) :
    P (State.ceStore s n a v fab) := by
  unfold State.ceStore
  with_reducible repeat' first
    | assumption | apply State.cePost_keeps (h.mono (by decide)) | apply State.ceTrap_keeps (h.mono (by decide))
    | apply State.setCe_keeps (h.mono (by decide)) | apply keeps_ite (P := P)

end Sys2Proof.Machine
end

