-- ==== Sys2Proof/Laws/KeepCeBase.lean ====
section
/-! SUPPORT. What the operations of Machine/CeBase.lean keep (Laws/Keep.lean). -/

namespace Sys2Proof.Machine

variable {P : State → Prop}

theorem State.ceJump_keeps (h : Keep P 65796) {s : State} {n : Nat} {c : CeCore} {target : Nat} (hs : P s) :
    P (State.ceJump s n c target) := by
  unfold State.ceJump
  with_reducible repeat' first
    | assumption | apply State.ceTrap_keeps (h.mono (by decide)) | apply State.setCe_keeps (h.mono (by decide))
    | apply keeps_ite (P := P)

theorem State.ceDo_keeps (h : Keep P 65796) {s : State} {n : Nat} {w : Nat} {r : Option CeCore} (hs : P s) :
    P (State.ceDo s n w r) := by
  unfold State.ceDo
  with_reducible repeat' first
    | assumption | apply State.ceTrap_keeps (h.mono (by decide)) | apply State.setCe_keeps (h.mono (by decide)) | split
    | (refine keeps_snd (P := P) ‹_› ?_) | (refine keeps_fst (P := P) ‹_› ?_)

theorem State.ceLoadX_keeps (h : Keep P 8590295444) {s : State} {n : Fin 8} {w : Nat} {a : Nat} {k : Nat} {sg : Bool} {fab : FabRes} (hs : P s) :
    P (State.ceLoadX s n w a k sg fab) := by
  unfold State.ceLoadX
  with_reducible repeat' first
    | assumption | (intro _) | apply State.ceLoad_keeps (h.mono (by decide)) | apply State.setCe_keeps (h.mono (by decide))
    | apply keeps_ite (P := P)
    | (extract_lets +onlyGivenNames x; refine (fun (hx : P x) => ?_) ?_; clear_value x; rotate_left; dsimp -zeta only [x])
    | (extract_lets +onlyGivenNames x)

theorem State.ceBaseStep_keeps (h : Keep P 481035288572) {s : State} {n : Fin 8} {w : Nat} {fab : FabRes} (hs : P s) :
    P (State.ceBaseStep s n w fab) := by
  unfold State.ceBaseStep
  with_reducible repeat' first
    | assumption | (intro _) | apply State.ceLoadX_keeps (h.mono (by decide)) | apply State.ceDo_keeps (h.mono (by decide))
    | apply State.ceJump_keeps (h.mono (by decide)) | apply State.ceStore_keeps (h.mono (by decide))
    | apply State.ceLoad_keeps (h.mono (by decide)) | apply State.ceTrap_keeps (h.mono (by decide))
    | apply State.setCe_keeps (h.mono (by decide)) | apply keeps_ite (P := P)
    | (extract_lets +onlyGivenNames x; refine (fun (hx : P x) => ?_) ?_; clear_value x; rotate_left; dsimp -zeta only [x])
    | (extract_lets +onlyGivenNames x; refine (fun (hx : ∀ y, P (x y)) => ?_) ?_; clear_value x; rotate_left; dsimp -zeta only [x])
    | (extract_lets +onlyGivenNames x; clear_value x) | (exact ‹∀ y : _, P _› _) | split | (refine keeps_snd (P := P) ‹_› ?_)
    | (refine keeps_fst (P := P) ‹_› ?_)

end Sys2Proof.Machine
end

