-- ==== Sys2Proof/Laws/KeepCeRun.lean ====
section
/-! SUPPORT. What the operations of Machine/CeRun.lean keep (Laws/Keep.lean). -/

namespace Sys2Proof.Machine

variable {P : State → Prop}

theorem State.ceWake_keeps (h : Keep P 65540) {s : State} {n : Nat} (hs : P s) :
    P (State.ceWake s n) := by
  unfold State.ceWake
  with_reducible repeat' first
    | assumption | apply State.setCe_keeps (h.mono (by decide)) | apply State.put_keeps (h.mono (by decide))
    | apply keeps_ite (P := P)
    | (extract_lets +onlyGivenNames x; refine (fun (hx : P x) => ?_) ?_; clear_value x; rotate_left; dsimp -zeta only [x])
    | (extract_lets +onlyGivenNames x) | split | (refine keeps_snd (P := P) ‹_› ?_) | (refine keeps_fst (P := P) ‹_› ?_)

theorem execCeWake_keeps (h : Keep P 65540) {n : Fin 8} {s : State} (hs : P s) :
    Answers P (execCeWake n s) := by
  unfold execCeWake
  refine ⟨_, rfl, ?_⟩
  with_reducible repeat' first
    | assumption | apply State.ceWake_keeps (h.mono (by decide))

theorem State.ceDone_keeps (h : Keep P 65540) {s : State} {n : Nat} (hs : P s) :
    P (State.ceDone s n) := by
  unfold State.ceDone
  with_reducible repeat' first
    | assumption | apply State.setCe_keeps (h.mono (by decide)) | apply State.put_keeps (h.mono (by decide))
    | apply keeps_ite (P := P)
    | (extract_lets +onlyGivenNames x; refine (fun (hx : P x) => ?_) ?_; clear_value x; rotate_left; dsimp -zeta only [x])
    | (extract_lets +onlyGivenNames x)

theorem State.ceEscalate_keeps (h : Keep P 481035288572) {s : State} {n : Nat} (hs : P s) :
    P (State.ceEscalate s n) := by
  unfold State.ceEscalate
  with_reducible repeat' first
    | assumption | (intro _) | apply State.bSource_keeps (h.mono (by decide))
    | apply State.entryFault_keeps (h.mono (by decide)) | apply State.pwmForceWrite_keeps (h.mono (by decide))
    | apply State.pwmStop_keeps (h.mono (by decide)) | apply State.log_keeps (h.mono (by decide))
    | apply State.put_keeps (h.mono (by decide)) | apply keeps_ite (P := P) | apply keeps_foldl (P := P)
    | (extract_lets +onlyGivenNames x; refine (fun (hx : P x) => ?_) ?_; clear_value x; rotate_left; dsimp -zeta only [x])
    | (extract_lets +onlyGivenNames x) | split | (refine keeps_snd (P := P) ‹_› ?_) | (refine keeps_fst (P := P) ‹_› ?_)

theorem State.ceMiss_keeps (h : Keep P 481035288572) {s : State} {n : Nat} (hs : P s) :
    P (State.ceMiss s n) := by
  unfold State.ceMiss
  with_reducible repeat' first
    | assumption | apply State.ceEscalate_keeps (h.mono (by decide)) | apply State.setCe_keeps (h.mono (by decide))
    | apply State.log_keeps (h.mono (by decide)) | apply State.irqIf_keeps (h.mono (by decide))
    | apply State.inc_keeps (h.mono (by decide)) | apply State.put_keeps (h.mono (by decide)) | apply keeps_ite (P := P)
    | (extract_lets +onlyGivenNames x; refine (fun (hx : P x) => ?_) ?_; clear_value x; rotate_left; dsimp -zeta only [x])
    | (extract_lets +onlyGivenNames x)

theorem execCeDeadlineMiss_keeps (h : Keep P 481035288572) {n : Fin 8} {s : State} (hs : P s) :
    Answers P (execCeDeadlineMiss n s) := by
  unfold execCeDeadlineMiss
  refine ⟨_, rfl, ?_⟩
  with_reducible repeat' first
    | assumption | apply State.ceMiss_keeps (h.mono (by decide))

theorem State.ceDeadline_keeps (h : Keep P 481035288572) {s : State} {n : Nat} (hs : P s) :
    P (State.ceDeadline s n) := by
  unfold State.ceDeadline
  with_reducible repeat' first
    | assumption | apply State.ceMiss_keeps (h.mono (by decide)) | apply State.pwmSync_keeps (h.mono (by decide))
    | apply keeps_ite (P := P)

theorem State.ceWakeDue_keeps (h : Keep P 65540) {s : State} {n : Nat} (hs : P s) :
    P (State.ceWakeDue s n) := by
  unfold State.ceWakeDue
  with_reducible repeat' first
    | assumption | apply State.ceWake_keeps (h.mono (by decide)) | apply keeps_ite (P := P)
    | (extract_lets +onlyGivenNames x; refine (fun (hx : P x) => ?_) ?_; clear_value x; rotate_left; dsimp -zeta only [x])
    | (extract_lets +onlyGivenNames x) | split | (refine keeps_snd (P := P) ‹_› ?_) | (refine keeps_fst (P := P) ‹_› ?_)

end Sys2Proof.Machine
end

