-- ==== Sys2Proof/Laws/KeepCeExt.lean ====
section
/-! SUPPORT. What the operations of Machine/CeExt.lean keep (Laws/Keep.lean). -/

namespace Sys2Proof.Machine

variable {P : State → Prop}

theorem State.cx_keeps (h : Keep P 0) {s : State} {n : Fin 8} {op : CxOp} {f : Nat → CeCore → State} (hs : P s) (hf : ∀ (y0 : Nat) (y1 : CeCore), P (f y0 y1)) :
    P (State.cx s n op f) := by
  unfold State.cx
  with_reducible repeat' first
    | assumption | (apply hf) | apply keeps_ite (P := P) | split | (refine keeps_snd (P := P) ‹_› ?_)
    | (refine keeps_fst (P := P) ‹_› ?_)

theorem State.cxReg_keeps (h : Keep P 65536) {s : State} {n : Fin 8} {op : CxOp} {f : Nat → CeCore → CeCore} (hs : P s) :
    P (State.cxReg s n op f) := by
  unfold State.cxReg
  with_reducible repeat' first
    | assumption | (intro _) | apply State.cx_keeps (h.mono (by decide)) | apply State.setCe_keeps (h.mono (by decide))

theorem execCxMv_keeps (h : Keep P 65536) {n : Fin 8} {s : State} (hs : P s) :
    Answers P (execCxMv n s) := by
  unfold execCxMv
  refine ⟨_, rfl, ?_⟩
  with_reducible repeat' first
    | assumption | (intro _) | apply State.cxReg_keeps (h.mono (by decide))

theorem execCxVadd_keeps (h : Keep P 65536) {n : Fin 8} {s : State} (hs : P s) :
    Answers P (execCxVadd n s) := by
  unfold execCxVadd
  refine ⟨_, rfl, ?_⟩
  with_reducible repeat' first
    | assumption | (intro _) | apply State.cxReg_keeps (h.mono (by decide))

theorem execCxVsub_keeps (h : Keep P 65536) {n : Fin 8} {s : State} (hs : P s) :
    Answers P (execCxVsub n s) := by
  unfold execCxVsub
  refine ⟨_, rfl, ?_⟩
  with_reducible repeat' first
    | assumption | (intro _) | apply State.cxReg_keeps (h.mono (by decide))

theorem execCxVscl_keeps (h : Keep P 65536) {n : Fin 8} {s : State} (hs : P s) :
    Answers P (execCxVscl n s) := by
  unfold execCxVscl
  refine ⟨_, rfl, ?_⟩
  with_reducible repeat' first
    | assumption | (intro _) | apply State.cxReg_keeps (h.mono (by decide))

theorem State.cxData_keeps (h : Keep P 65796) {s : State} {n : Fin 8} {a : Nat} {k : Nat} {cause : Nat} {f : Nat → State} (hs : P s) (hf : ∀ (y0 : Nat), P (f y0)) :
    P (State.cxData s n a k cause f) := by
  unfold State.cxData
  with_reducible repeat' first
    | assumption | (apply hf) | apply State.ceTrap_keeps (h.mono (by decide)) | apply keeps_ite (P := P)

theorem execCxVld_keeps (h : Keep P 65796) {n : Fin 8} {s : State} (hs : P s) :
    Answers P (execCxVld n s) := by
  unfold execCxVld
  refine ⟨_, rfl, ?_⟩
  with_reducible repeat' first
    | assumption | (intro _) | apply State.cxData_keeps (h.mono (by decide)) | apply State.cx_keeps (h.mono (by decide))
    | apply State.setCe_keeps (h.mono (by decide))

theorem execCxMld_keeps (h : Keep P 65796) {n : Fin 8} {s : State} (hs : P s) :
    Answers P (execCxMld n s) := by
  unfold execCxMld
  refine ⟨_, rfl, ?_⟩
  with_reducible repeat' first
    | assumption | (intro _) | apply State.cxData_keeps (h.mono (by decide)) | apply State.cx_keeps (h.mono (by decide))
    | apply State.setCe_keeps (h.mono (by decide))

theorem execCxVst_keeps (h : Keep P 481035288572) {n : Fin 8} {s : State} (hs : P s) :
    Answers P (execCxVst n s) := by
  unfold execCxVst
  refine ⟨_, rfl, ?_⟩
  with_reducible repeat' first
    | assumption | (intro _) | apply State.cxData_keeps (h.mono (by decide)) | apply State.cx_keeps (h.mono (by decide))
    | apply State.blockStore_keeps (h.mono (by decide)) | apply State.setCe_keeps (h.mono (by decide))
    | apply keeps_foldl (P := P)
    | (extract_lets +onlyGivenNames x; refine (fun (hx : P x) => ?_) ?_; clear_value x; rotate_left; dsimp -zeta only [x])

theorem execCxVext_keeps (h : Keep P 65536) {n : Fin 8} {s : State} (hs : P s) :
    Answers P (execCxVext n s) := by
  unfold execCxVext
  refine ⟨_, rfl, ?_⟩
  with_reducible repeat' first
    | assumption | (intro _) | apply State.cxReg_keeps (h.mono (by decide))

theorem execCxVins_keeps (h : Keep P 65536) {n : Fin 8} {s : State} (hs : P s) :
    Answers P (execCxVins n s) := by
  unfold execCxVins
  refine ⟨_, rfl, ?_⟩
  with_reducible repeat' first
    | assumption | (intro _) | apply State.cxReg_keeps (h.mono (by decide))

theorem execCxSincos_keeps (h : Keep P 65552) {n : Fin 8} {s : State} (hs : P s) :
    Answers P (execCxSincos n s) := by
  unfold execCxSincos
  refine ⟨_, rfl, ?_⟩
  with_reducible repeat' first
    | assumption | (intro _) | apply State.cx_keeps (h.mono (by decide)) | apply State.setCe_keeps (h.mono (by decide))
    | apply State.useFree_keeps (h.mono (by decide))
    | (extract_lets +onlyGivenNames x; refine (fun (hx : P x) => ?_) ?_; clear_value x; rotate_left; dsimp -zeta only [x])
    | (extract_lets +onlyGivenNames x)

theorem execCxRot_keeps (h : Keep P 65552) {n : Fin 8} {s : State} (hs : P s) :
    Answers P (execCxRot n s) := by
  unfold execCxRot
  refine ⟨_, rfl, ?_⟩
  with_reducible repeat' first
    | assumption | (intro _) | apply State.cx_keeps (h.mono (by decide)) | apply State.setCe_keeps (h.mono (by decide))
    | apply State.useFree_keeps (h.mono (by decide))
    | (extract_lets +onlyGivenNames x; refine (fun (hx : P x) => ?_) ?_; clear_value x; rotate_left; dsimp -zeta only [x])
    | (extract_lets +onlyGivenNames x)

theorem execCxRsqrt_keeps (h : Keep P 65536) {n : Fin 8} {s : State} (hs : P s) :
    Answers P (execCxRsqrt n s) := by
  unfold execCxRsqrt
  refine ⟨_, rfl, ?_⟩
  with_reducible repeat' first
    | assumption | (intro _) | apply State.cxReg_keeps (h.mono (by decide))

theorem execCxFclmp_keeps (h : Keep P 65536) {n : Fin 8} {s : State} (hs : P s) :
    Answers P (execCxFclmp n s) := by
  unfold execCxFclmp
  refine ⟨_, rfl, ?_⟩
  with_reducible repeat' first
    | assumption | (intro _) | apply State.cxReg_keeps (h.mono (by decide))

theorem execCxSadd_keeps (h : Keep P 65536) {n : Fin 8} {s : State} (hs : P s) :
    Answers P (execCxSadd n s) := by
  unfold execCxSadd
  refine ⟨_, rfl, ?_⟩
  with_reducible repeat' first
    | assumption | (intro _) | apply State.cxReg_keeps (h.mono (by decide))

theorem execCxSsub_keeps (h : Keep P 65536) {n : Fin 8} {s : State} (hs : P s) :
    Answers P (execCxSsub n s) := by
  unfold execCxSsub
  refine ⟨_, rfl, ?_⟩
  with_reducible repeat' first
    | assumption | (intro _) | apply State.cxReg_keeps (h.mono (by decide))

theorem execCxSatn_keeps (h : Keep P 65536) {n : Fin 8} {s : State} (hs : P s) :
    Answers P (execCxSatn n s) := by
  unfold execCxSatn
  refine ⟨_, rfl, ?_⟩
  with_reducible repeat' first
    | assumption | (intro _) | apply State.cxReg_keeps (h.mono (by decide))

theorem execCxDuty_keeps (h : Keep P 65552) {n : Fin 8} {s : State} (hs : P s) :
    Answers P (execCxDuty n s) := by
  unfold execCxDuty
  refine ⟨_, rfl, ?_⟩
  with_reducible repeat' first
    | assumption | (intro _) | apply State.cx_keeps (h.mono (by decide)) | apply State.setCe_keeps (h.mono (by decide))
    | apply State.useFree_keeps (h.mono (by decide)) | apply keeps_ite (P := P)
    | (extract_lets +onlyGivenNames x; refine (fun (hx : P x) => ?_) ?_; clear_value x; rotate_left; dsimp -zeta only [x])
    | (extract_lets +onlyGivenNames x; refine (fun (hx : P x.1) => ?_) ?_; clear_value x; rotate_left; dsimp -zeta only [x])
    | (extract_lets +onlyGivenNames x; refine (fun (hx : P x.2) => ?_) ?_; clear_value x; rotate_left; dsimp -zeta only [x])
    | (extract_lets +onlyGivenNames x)

theorem State.ceThaw_keeps (h : Keep P 65544) {s : State} {n : Nat} (hs : P s) :
    P (State.ceThaw s n) := by
  unfold State.ceThaw
  with_reducible repeat' first
    | assumption | (intro _) | apply State.setCe_keeps (h.mono (by decide)) | apply State.wrBytes_keeps (h.mono (by decide))
    | apply keeps_foldl (P := P)
    | (extract_lets +onlyGivenNames x; refine (fun (hx : P x) => ?_) ?_; clear_value x; rotate_left; dsimp -zeta only [x])
    | (extract_lets +onlyGivenNames x)

theorem State.ceWait_keeps (h : Keep P 65548) {s : State} {n : Nat} {w : Nat} (hs : P s) :
    P (State.ceWait s n w) := by
  unfold State.ceWait
  with_reducible repeat' first
    | assumption | (intro _) | apply State.ceThaw_keeps (h.mono (by decide)) | apply State.ceDone_keeps (h.mono (by decide))
    | apply State.setCe_keeps (h.mono (by decide)) | apply State.inc_keeps (h.mono (by decide))
    | apply State.putFldBit_keeps (h.mono (by decide)) | apply State.put_keeps (h.mono (by decide))
    | (extract_lets +onlyGivenNames x; refine (fun (hx : P x) => ?_) ?_; clear_value x; rotate_left; dsimp -zeta only [x])
    | (extract_lets +onlyGivenNames x) | split | (refine keeps_snd (P := P) ‹_› ?_) | (refine keeps_fst (P := P) ‹_› ?_)

theorem execCxWait_keeps (h : Keep P 65548) {n : Fin 8} {s : State} (hs : P s) :
    Answers P (execCxWait n s) := by
  unfold execCxWait
  refine ⟨_, rfl, ?_⟩
  with_reducible repeat' first
    | assumption | (intro _) | apply State.ceWait_keeps (h.mono (by decide)) | apply State.cx_keeps (h.mono (by decide))

theorem execCxDone_keeps (h : Keep P 65540) {n : Fin 8} {s : State} (hs : P s) :
    Answers P (execCxDone n s) := by
  unfold execCxDone
  refine ⟨_, rfl, ?_⟩
  with_reducible repeat' first
    | assumption | (intro _) | apply State.cx_keeps (h.mono (by decide)) | apply State.ceDone_keeps (h.mono (by decide))
    | apply State.setCe_keeps (h.mono (by decide))

theorem execCxMbtake_keeps (h : Keep P 50397184) {n : Fin 8} {s : State} (hs : P s) :
    Answers P (execCxMbtake n s) := by
  unfold execCxMbtake
  refine ⟨_, rfl, ?_⟩
  with_reducible repeat' first
    | assumption | (intro _) | apply State.cx_keeps (h.mono (by decide)) | apply State.mbTake_keeps (h.mono (by decide))
    | apply State.setCe_keeps (h.mono (by decide))
    | (extract_lets +onlyGivenNames x; refine (fun (hx : P x) => ?_) ?_; clear_value x; rotate_left; dsimp -zeta only [x])
    | (extract_lets +onlyGivenNames x; refine (fun (hx : P x.1) => ?_) ?_; clear_value x; rotate_left; dsimp -zeta only [x])
    | (extract_lets +onlyGivenNames x; refine (fun (hx : P x.2) => ?_) ?_; clear_value x; rotate_left; dsimp -zeta only [x])
    | (extract_lets +onlyGivenNames x)

theorem execCxLgrd_keeps (h : Keep P 65536) {n : Fin 8} {s : State} (hs : P s) :
    Answers P (execCxLgrd n s) := by
  unfold execCxLgrd
  refine ⟨_, rfl, ?_⟩
  with_reducible repeat' first
    | assumption | (intro _) | apply State.cxReg_keeps (h.mono (by decide))

theorem execCxLgwr_keeps (h : Keep P 65536) {n : Fin 8} {s : State} (hs : P s) :
    Answers P (execCxLgwr n s) := by
  unfold execCxLgwr
  refine ⟨_, rfl, ?_⟩
  with_reducible repeat' first
    | assumption | (intro _) | apply State.cxReg_keeps (h.mono (by decide)) | apply keeps_ite (P := P)
    | (extract_lets +onlyGivenNames x)

theorem execCxWtime_keeps (h : Keep P 65536) {n : Fin 8} {s : State} (hs : P s) :
    Answers P (execCxWtime n s) := by
  unfold execCxWtime
  refine ⟨_, rfl, ?_⟩
  with_reducible repeat' first
    | assumption | (intro _) | apply State.cxReg_keeps (h.mono (by decide))

theorem execCxXwr_keeps (h : Keep P 65536) {n : Fin 8} {s : State} (hs : P s) :
    Answers P (execCxXwr n s) := by
  unfold execCxXwr
  refine ⟨_, rfl, ?_⟩
  with_reducible repeat' first
    | assumption | (intro _) | apply State.cxReg_keeps (h.mono (by decide))
    | (extract_lets +onlyGivenNames x; refine (fun (hx : P x) => ?_) ?_; clear_value x; rotate_left; dsimp -zeta only [x])
    | (extract_lets +onlyGivenNames x)

theorem execCxXrd_keeps (h : Keep P 65536) {n : Fin 8} {s : State} (hs : P s) :
    Answers P (execCxXrd n s) := by
  unfold execCxXrd
  refine ⟨_, rfl, ?_⟩
  with_reducible repeat' first
    | assumption | (intro _) | apply State.cxReg_keeps (h.mono (by decide))
    | (extract_lets +onlyGivenNames x; refine (fun (hx : P x) => ?_) ?_; clear_value x; rotate_left; dsimp -zeta only [x])
    | (extract_lets +onlyGivenNames x)

theorem State.ceStep_keeps (h : Keep P 481035288572) {s : State} {n : Fin 8} {fab : FabRes} (hs : P s) :
    P (State.ceStep s n fab) := by
  unfold State.ceStep
  with_reducible repeat' first
    | assumption | apply State.ceBaseStep_keeps (h.mono (by decide)) | apply State.ceTrap_keeps (h.mono (by decide))
    | apply keeps_ite (P := P) | split | (refine keeps_snd (P := P) ‹_› ?_) | (refine keeps_fst (P := P) ‹_› ?_)

theorem execCeInstruction_keeps (h : Keep P 481035288572) {n : Fin 8} {fab : FabRes} {s : State} (hs : P s) :
    Answers P (execCeInstruction n fab s) := by
  unfold execCeInstruction
  refine ⟨_, rfl, ?_⟩
  with_reducible repeat' first
    | assumption | apply State.ceStep_keeps (h.mono (by decide))

end Sys2Proof.Machine
end

