-- ==== Sys2Proof/Laws/KeepEth.lean ====
section
/-! SUPPORT. What the operations of Machine/Eth.lean keep (Laws/Keep.lean). -/

namespace Sys2Proof.Machine

variable {P : State → Prop}

theorem execEthLinkChange_keeps (h : Keep P 4) {k : Fin 2} {up : Bool} {sqi : BitVec 3} {s : State} (hs : P s) :
    Answers P (execEthLinkChange k up sqi s) := by
  unfold execEthLinkChange
  refine ⟨_, rfl, ?_⟩
  with_reducible repeat' first
    | assumption | apply State.inc_keeps (h.mono (by decide)) | apply State.putB_keeps (h.mono (by decide))
    | apply State.put_keeps (h.mono (by decide)) | apply keeps_ite (P := P)
    | (extract_lets +onlyGivenNames x; refine (fun (hx : P x) => ?_) ?_; clear_value x; rotate_left; dsimp -zeta only [x])
    | (extract_lets +onlyGivenNames x)

theorem State.learn_keeps (h : Keep P 34359738368) {s : State} {p : Nat} {f : List Byte} (hs : P s) :
    P (State.learn s p f) := by
  unfold State.learn
  with_reducible repeat' first
    | assumption | (intro _) | apply State.setEth_keeps (h.mono (by decide)) | apply keeps_ite (P := P)
    | (extract_lets +onlyGivenNames x; refine (fun (hx : P x) => ?_) ?_; clear_value x; rotate_left; dsimp -zeta only [x])
    | (extract_lets +onlyGivenNames x; refine (fun (hx : P x.1) => ?_) ?_; clear_value x; rotate_left; dsimp -zeta only [x])
    | (extract_lets +onlyGivenNames x; refine (fun (hx : P x.2) => ?_) ?_; clear_value x; rotate_left; dsimp -zeta only [x])
    | (extract_lets +onlyGivenNames x) | split

theorem State.portSend_keeps (h : Keep P 34359738372) {s : State} {q : Nat} {pcp : Nat} {room : BitVec 3} {f : List Byte} (hs : P s) :
    P (State.portSend s q pcp room f) := by
  unfold State.portSend
  with_reducible repeat' first
    | assumption | apply State.inc_keeps (h.mono (by decide)) | apply State.setEth_keeps (h.mono (by decide))
    | apply keeps_ite (P := P) | (extract_lets +onlyGivenNames x)

theorem State.switchFrame_keeps (h : Keep P 34359738372) {s : State} {p : Nat} {f : List Byte} {room : BitVec 3} (hs : P s) :
    P (State.switchFrame s p f room).1 := by
  unfold State.switchFrame
  with_reducible repeat' first
    | assumption | (intro _) | apply State.portSend_keeps (h.mono (by decide)) | apply State.learn_keeps (h.mono (by decide))
    | apply keeps_ite (P := P) | apply keeps_iteFst (P := P) | apply keeps_foldl (P := P) | apply keeps_foldlPair (P := P)
    | (extract_lets +onlyGivenNames x; refine (fun (hx : P x) => ?_) ?_; clear_value x; rotate_left; dsimp -zeta only [x])
    | (extract_lets +onlyGivenNames x; refine (fun (hx : P x.1) => ?_) ?_; clear_value x; rotate_left; dsimp -zeta only [x])
    | (extract_lets +onlyGivenNames x; refine (fun (hx : P x.2) => ?_) ?_; clear_value x; rotate_left; dsimp -zeta only [x])
    | (extract_lets +onlyGivenNames x) | split | (refine keeps_snd (P := P) ‹_› ?_) | (refine keeps_fst (P := P) ‹_› ?_)

theorem State.devSend_keeps (h : Keep P 34359738372) {s : State} {t1s : Bool} {tagged : Bool} {vid : Nat} {room : BitVec 3} {f : List Byte} (hs : P s) :
    P (State.devSend s t1s tagged vid room f) := by
  unfold State.devSend
  with_reducible repeat' first
    | assumption | apply State.switchFrame_keeps (h.mono (by decide)) | apply State.setEth_keeps (h.mono (by decide))
    | apply keeps_ite (P := P) | (extract_lets +onlyGivenNames x)

theorem State.appStore_keeps (h : Keep P 34359738372) {s : State} {port : Nat} {stamp : Nat} {f : List Byte} (hs : P s) :
    P (State.appStore s port stamp f) := by
  unfold State.appStore
  with_reducible repeat' first
    | assumption | apply State.inc_keeps (h.mono (by decide)) | apply State.put_keeps (h.mono (by decide))
    | apply State.setEth_keeps (h.mono (by decide)) | apply keeps_ite (P := P)
    | (extract_lets +onlyGivenNames x; refine (fun (hx : P x) => ?_) ?_; clear_value x; rotate_left; dsimp -zeta only [x])
    | (extract_lets +onlyGivenNames x)

theorem State.deviceFrame_keeps (h : Keep P 34477245084) {s : State} {port : Nat} {vid : Nat} {stamp : Nat} {room : BitVec 3} {f : List Byte} (hs : P s) :
    P (State.deviceFrame s port vid stamp room f) := by
  unfold State.deviceFrame
  with_reducible repeat' first
    | assumption | apply State.appStore_keeps (h.mono (by decide)) | apply State.devSend_keeps (h.mono (by decide))
    | apply State.kpReceive_keeps (h.mono (by decide)) | apply State.inc_keeps (h.mono (by decide)) | apply keeps_ite (P := P)
    | (extract_lets +onlyGivenNames x; refine (fun (hx : P x) => ?_) ?_; clear_value x; rotate_left; dsimp -zeta only [x])
    | (extract_lets +onlyGivenNames x; refine (fun (hx : ∀ s y, P s → P (x s y)) => ?_) ?_; clear_value x; rotate_left; dsimp -zeta only [x])
    | (extract_lets +onlyGivenNames x) | (refine ‹∀ (s : State) (y : _), P s → P _› _ _ ?_)

theorem State.ethReceive_keeps (h : Keep P 34477245084) {s : State} {k : Nat} {f : List Byte} {stamp : Nat} {room : BitVec 3} (hs : P s) :
    P (State.ethReceive s k f stamp room) := by
  unfold State.ethReceive
  with_reducible repeat' first
    | assumption | apply State.deviceFrame_keeps (h.mono (by decide)) | apply State.switchFrame_keeps (h.mono (by decide))
    | apply State.inc_keeps (h.mono (by decide)) | apply keeps_ite (P := P) | split | (refine keeps_snd (P := P) ‹_› ?_)
    | (refine keeps_fst (P := P) ‹_› ?_)

theorem execEthFrameReceive_keeps (h : Keep P 34477245084) {k : Fin 2} {bytes : List Byte} {stamp : Nat} {room : BitVec 3} {s : State} (hs : P s) :
    Answers P (execEthFrameReceive k bytes stamp room s) := by
  unfold execEthFrameReceive
  refine ⟨_, rfl, ?_⟩
  with_reducible repeat' first
    | assumption | apply State.ethReceive_keeps (h.mono (by decide))

theorem State.appTransmit_keeps (h : Keep P 34359738372) {s : State} {room : BitVec 3} (hs : P s) :
    P (State.appTransmit s room) := by
  unfold State.appTransmit
  with_reducible repeat' first
    | assumption | apply State.switchFrame_keeps (h.mono (by decide)) | apply State.setEth_keeps (h.mono (by decide))
    | apply keeps_ite (P := P)
    | (extract_lets +onlyGivenNames x; refine (fun (hx : P x) => ?_) ?_; clear_value x; rotate_left; dsimp -zeta only [x])
    | (extract_lets +onlyGivenNames x; refine (fun (hx : P x.1) => ?_) ?_; clear_value x; rotate_left; dsimp -zeta only [x])
    | (extract_lets +onlyGivenNames x; refine (fun (hx : P x.2) => ?_) ?_; clear_value x; rotate_left; dsimp -zeta only [x])
    | (extract_lets +onlyGivenNames x)

theorem execEthAppTransmit_keeps (h : Keep P 34359738372) {room : BitVec 3} {s : State} (hs : P s) :
    Answers P (execEthAppTransmit room s) := by
  unfold execEthAppTransmit
  refine ⟨_, rfl, ?_⟩
  with_reducible repeat' first
    | assumption | apply State.appTransmit_keeps (h.mono (by decide))

theorem State.ethAge_keeps (h : Keep P 34359738368) {s : State} {mac : Nat} (hs : P s) :
    P (State.ethAge s mac) := by
  unfold State.ethAge
  with_reducible repeat' first
    | assumption | (intro _) | apply State.setEth_keeps (h.mono (by decide)) | (extract_lets +onlyGivenNames x)

theorem State.ethAgeAll_keeps (h : Keep P 34359738368) {s : State} (hs : P s) :
    P (State.ethAgeAll s) := by
  unfold State.ethAgeAll
  with_reducible repeat' first
    | assumption | (intro _) | apply State.setEth_keeps (h.mono (by decide)) | apply keeps_ite (P := P)
    | (extract_lets +onlyGivenNames x)

theorem execEthAddressAgeout_keeps (h : Keep P 34359738368) {mac : BitVec 48} {s : State} (hs : P s) :
    Answers P (execEthAddressAgeout mac s) := by
  unfold execEthAddressAgeout
  refine ⟨_, rfl, ?_⟩
  with_reducible repeat' first
    | assumption | apply State.ethAge_keeps (h.mono (by decide)) | apply keeps_ite (P := P)

theorem execEthLock_keeps (h : Keep P 8196) {ini : Initiator} {val : Word} {s : State} (hs : P s) :
    Answers P (execEthLock ini val s) := by
  unfold execEthLock
  refine ⟨_, rfl, ?_⟩
  with_reducible repeat' first
    | assumption | (intro _) | apply State.fieldWrite_keeps (h.mono (by decide))
    | apply State.busWrite_keeps (h.mono (by decide))
    | (extract_lets +onlyGivenNames x; refine (fun (hx : P x) => ?_) ?_; clear_value x; rotate_left; dsimp -zeta only [x])

theorem execT1sFrameReceive_keeps (h : Keep P 34477245084) {bytes : List Byte} {stamp : Nat} {s : State} (hs : P s) :
    Answers P (execT1sFrameReceive bytes stamp s) := by
  unfold execT1sFrameReceive
  refine ⟨_, rfl, ?_⟩
  with_reducible repeat' first
    | assumption | apply State.deviceFrame_keeps (h.mono (by decide)) | apply keeps_ite (P := P)

theorem State.t1sOpportunity_keeps (h : Keep P 34359738368) {s : State} {beacon : Bool} (hs : P s) :
    P (State.t1sOpportunity s beacon) := by
  unfold State.t1sOpportunity
  with_reducible repeat' first
    | assumption | (intro _) | apply State.setEth_keeps (h.mono (by decide)) | apply keeps_ite (P := P)
    | (extract_lets +onlyGivenNames x; refine (fun (hx : P x) => ?_) ?_; clear_value x; rotate_left; dsimp -zeta only [x])
    | (extract_lets +onlyGivenNames x)

theorem execT1sTransmitOpportunity_keeps (h : Keep P 34359738368) {beacon : Bool} {s : State} (hs : P s) :
    Answers P (execT1sTransmitOpportunity beacon s) := by
  unfold execT1sTransmitOpportunity
  refine ⟨_, rfl, ?_⟩
  with_reducible repeat' first
    | assumption | apply State.t1sOpportunity_keeps (h.mono (by decide))

theorem State.gptpSend_keeps (h : Keep P 34359738368) {s : State} {k : Nat} {m : GptpMsg} (hs : P s) :
    P (State.gptpSend s k m) := by
  unfold State.gptpSend
  with_reducible repeat' first
    | assumption | apply State.setEth_keeps (h.mono (by decide)) | (extract_lets +onlyGivenNames x)

theorem State.trimStep_keeps (h : Keep P 34359738388) {s : State} (hs : P s) :
    P (State.trimStep s) := by
  unfold State.trimStep
  with_reducible repeat' first
    | assumption | apply State.useFree_keeps (h.mono (by decide)) | apply State.put_keeps (h.mono (by decide))
    | apply State.setEth_keeps (h.mono (by decide)) | apply keeps_ite (P := P)
    | (extract_lets +onlyGivenNames x; refine (fun (hx : P x) => ?_) ?_; clear_value x; rotate_left; dsimp -zeta only [x])
    | (extract_lets +onlyGivenNames x)

theorem State.tbOffsetSet_keeps (h : Keep P 34359738372) {s : State} {off : Int} (hs : P s) :
    P (State.tbOffsetSet s off) := by
  unfold State.tbOffsetSet
  with_reducible repeat' first
    | assumption | apply State.putB_keeps (h.mono (by decide)) | apply State.wr_keeps (h.mono (by decide))
    | apply State.setEth_keeps (h.mono (by decide))
    | (extract_lets +onlyGivenNames x; refine (fun (hx : P x) => ?_) ?_; clear_value x; rotate_left; dsimp -zeta only [x])
    | (extract_lets +onlyGivenNames x)

theorem State.gptpMessage_keeps (h : Keep P 34359738388) {s : State} {k : Nat} {m : GptpMsg} (hs : P s) :
    P (State.gptpMessage s k m) := by
  unfold State.gptpMessage
  with_reducible repeat' first
    | assumption | apply State.tbOffsetSet_keeps (h.mono (by decide)) | apply State.gptpSend_keeps (h.mono (by decide))
    | apply State.useFree_keeps (h.mono (by decide)) | apply State.put_keeps (h.mono (by decide))
    | apply State.setEth_keeps (h.mono (by decide)) | apply keeps_ite (P := P)
    | (extract_lets +onlyGivenNames x; refine (fun (hx : P x) => ?_) ?_; clear_value x; rotate_left; dsimp -zeta only [x])
    | (extract_lets +onlyGivenNames x) | split | (refine keeps_snd (P := P) ‹_› ?_) | (refine keeps_fst (P := P) ‹_› ?_)

theorem execGptpMessage_keeps (h : Keep P 34359738388) {k : Fin 2} {msg : GptpMsg} {s : State} (hs : P s) :
    Answers P (execGptpMessage k msg s) := by
  unfold execGptpMessage
  refine ⟨_, rfl, ?_⟩
  with_reducible repeat' first
    | assumption | apply State.gptpMessage_keeps (h.mono (by decide))

end Sys2Proof.Machine
end

