-- ==== Sys2Proof/Laws/KeepKcp.lean ====
section
/-! SUPPORT. What the operations of Machine/Kcp.lean keep (Laws/Keep.lean). -/

namespace Sys2Proof.Machine

variable {P : State → Prop}

theorem execKcpFrameReceive_keeps (h : Keep P 117506716) {t : Fin 12} {peer : Nat} {frame : List Byte} {s : State} (hs : P s) :
    Answers P (execKcpFrameReceive t peer frame s) := by
  unfold execKcpFrameReceive
  refine ⟨_, rfl, ?_⟩
  with_reducible repeat' first
    | assumption | apply State.kpReceive_keeps (h.mono (by decide))

theorem State.reasmLate_keeps (h : Keep P 16777216) {s : State} {m : Reasm} (hs : P s) :
    P (State.reasmLate s m) := by
  unfold State.reasmLate
  with_reducible repeat' first
    | assumption | apply State.reasmEnd_keeps (h.mono (by decide)) | apply keeps_ite (P := P) | split
    | (refine keeps_snd (P := P) ‹_› ?_) | (refine keeps_fst (P := P) ‹_› ?_)

theorem State.reasmTimeout_keeps (h : Keep P 16777216) {s : State} {i : Nat} (hs : P s) :
    P (State.reasmTimeout s i) := by
  unfold State.reasmTimeout
  with_reducible repeat' first
    | assumption | apply State.reasmLate_keeps (h.mono (by decide)) | split | (refine keeps_snd (P := P) ‹_› ?_)
    | (refine keeps_fst (P := P) ‹_› ?_)

theorem execKcpReassemblyTimeout_keeps (h : Keep P 16777216) {i : Fin 16} {s : State} (hs : P s) :
    Answers P (execKcpReassemblyTimeout i s) := by
  unfold execKcpReassemblyTimeout
  refine ⟨_, rfl, ?_⟩
  with_reducible repeat' first
    | assumption | apply State.reasmTimeout_keeps (h.mono (by decide))

theorem State.hspiTake_keeps (h : Keep P 117506716) {s : State} (hs : P s) :
    P (State.hspiTake s) := by
  unfold State.hspiTake
  with_reducible repeat' first
    | assumption | (intro _) | apply State.kpReceive_keeps (h.mono (by decide))
    | (refine State.setKcp_keeps (h.mono (by decide)) (by intro hq; first | exact hq | (simp +zetaDelta [Kcp.Shaped] at hq ⊢ <;> simp [hq]; done) | simpa +zetaDelta [Kcp.Shaped] using hq) ?_)
    | apply keeps_ite (P := P) | apply keeps_foldl (P := P)
    | (extract_lets +onlyGivenNames x; refine (fun (hx : P x) => ?_) ?_; clear_value x; rotate_left; dsimp -zeta only [x])
    | (extract_lets +onlyGivenNames x)

theorem State.hspiWrite_keeps (h : Keep P 117506716) {s : State} {l : List Byte} (hs : P s) :
    P (State.hspiWrite s l) := by
  unfold State.hspiWrite
  with_reducible repeat' first
    | assumption | apply State.hspiTake_keeps (h.mono (by decide)) | apply State.inc_keeps (h.mono (by decide))
    | (refine State.setKcp_keeps (h.mono (by decide)) (by intro hq; first | exact hq | (simp +zetaDelta [Kcp.Shaped] at hq ⊢ <;> simp [hq]; done) | simpa +zetaDelta [Kcp.Shaped] using hq) ?_)
    | apply keeps_ite (P := P)
    | (extract_lets +onlyGivenNames x; refine (fun (hx : P x) => ?_) ?_; clear_value x; rotate_left; dsimp -zeta only [x])
    | (extract_lets +onlyGivenNames x)

theorem execHspiWrite_keeps (h : Keep P 117506716) {bytes : List Byte} {s : State} (hs : P s) :
    Answers P (execHspiWrite bytes s) := by
  unfold execHspiWrite
  refine ⟨_, rfl, ?_⟩
  with_reducible repeat' first
    | assumption | apply State.hspiWrite_keeps (h.mono (by decide)) | apply keeps_ite (P := P)

theorem State.hspiRead_keeps (h : Keep P 16777216) {s : State} {n : Nat} (hs : P s) :
    P (State.hspiRead s n) := by
  unfold State.hspiRead
  with_reducible repeat' first
    | assumption
    | (refine State.setKcp_keeps (h.mono (by decide)) (by intro hq; first | exact hq | (simp +zetaDelta [Kcp.Shaped] at hq ⊢ <;> simp [hq]; done) | simpa +zetaDelta [Kcp.Shaped] using hq) ?_)
    | apply keeps_ite (P := P) | (extract_lets +onlyGivenNames x) | split | (refine keeps_snd (P := P) ‹_› ?_)
    | (refine keeps_fst (P := P) ‹_› ?_)

theorem execHspiRead_keeps (h : Keep P 16777216) {n : Nat} {s : State} (hs : P s) :
    Answers P (execHspiRead n s) := by
  unfold execHspiRead
  refine ⟨_, rfl, ?_⟩
  with_reducible repeat' first
    | assumption | apply State.hspiRead_keeps (h.mono (by decide)) | apply keeps_ite (P := P)

theorem State.hspiStatus_keeps (h : Keep P 16777216) {s : State} (hs : P s) :
    P (State.hspiStatus s) := by
  unfold State.hspiStatus
  with_reducible repeat' first
    | assumption
    | (refine State.setKcp_keeps (h.mono (by decide)) (by intro hq; first | exact hq | (simp +zetaDelta [Kcp.Shaped] at hq ⊢ <;> simp [hq]; done) | simpa +zetaDelta [Kcp.Shaped] using hq) ?_)
    | (extract_lets +onlyGivenNames x)

theorem execHspiStatus_keeps (h : Keep P 16777216) {s : State} (hs : P s) :
    Answers P (execHspiStatus s) := by
  unfold execHspiStatus
  refine ⟨_, rfl, ?_⟩
  with_reducible repeat' first
    | assumption | apply State.hspiStatus_keeps (h.mono (by decide)) | apply keeps_ite (P := P)

theorem execOpenSession_keeps (h : Keep P 16777236) {t : Fin 12} {peer : Nat} {seq : BitVec 16} {tag : Option (List Byte)} {pay : List Byte} {s : State} (hs : P s) :
    Answers P (execOpenSession t peer seq tag pay s) := by
  unfold execOpenSession
  refine ⟨_, rfl, ?_⟩
  with_reducible repeat' first
    | assumption | apply State.openRequest_keeps (h.mono (by decide)) | apply keeps_ite (P := P) | split
    | (refine keeps_snd (P := P) ‹_› ?_) | (refine keeps_fst (P := P) ‹_› ?_)

theorem execLeaseExpiry_keeps (h : Keep P 117506572) {ctx : Fin 256} {s : State} (hs : P s) :
    Answers P (execLeaseExpiry ctx s) := by
  unfold execLeaseExpiry
  refine ⟨_, rfl, ?_⟩
  with_reducible repeat' first
    | assumption | apply State.leaseExpire_keeps (h.mono (by decide)) | apply keeps_ite (P := P)

theorem execKcpQueueDepart_keeps (h : Keep P 481035288572) {k : Fin 4} {s : State} (hs : P s) :
    Answers P (execKcpQueueDepart k s) := by
  unfold execKcpQueueDepart
  refine ⟨_, rfl, ?_⟩
  with_reducible repeat' first
    | assumption | apply State.depart_keeps (h.mono (by decide)) | apply keeps_ite (P := P)

theorem State.lateEnd_keeps (h : Keep P 16842760) {s : State} {mine : Tok → Bool} (hs : P s) :
    P (State.lateEnd s mine) := by
  unfold State.lateEnd
  with_reducible repeat' first
    | assumption | (intro _) | apply State.setQueue_keeps (h.mono (by decide))
    | apply State.c1DropAll_keeps (h.mono (by decide)) | apply State.finalReply_keeps (h.mono (by decide))
    | apply keeps_foldl (P := P)
    | (extract_lets +onlyGivenNames x; refine (fun (hx : P x) => ?_) ?_; clear_value x; rotate_left; dsimp -zeta only [x])
    | (extract_lets +onlyGivenNames x)

theorem State.deadlineExpire_keeps (h : Keep P 16842760) {s : State} {c : Nat} {seq : Nat} (hs : P s) :
    P (State.deadlineExpire s c seq) := by
  unfold State.deadlineExpire
  with_reducible repeat' first
    | assumption | (intro _) | apply State.lateEnd_keeps (h.mono (by decide))

theorem execKcpDeadlineExpiry_keeps (h : Keep P 16842760) {ctx : Fin 256} {seq : BitVec 16} {s : State} (hs : P s) :
    Answers P (execKcpDeadlineExpiry ctx seq s) := by
  unfold execKcpDeadlineExpiry
  refine ⟨_, rfl, ?_⟩
  with_reducible repeat' first
    | assumption | apply State.deadlineExpire_keeps (h.mono (by decide)) | apply keeps_ite (P := P)

theorem State.notifyScan_keeps (h : Keep P 16777232) {s : State} {c : Nat} {op : Nat} (hs : P s) :
    P (State.notifyScan s c op) := by
  unfold State.notifyScan
  with_reducible repeat' first
    | assumption | (intro _) | apply State.notify_keeps (h.mono (by decide)) | apply State.setCtx_keeps (h.mono (by decide))
    | apply keeps_ite (P := P)
    | (extract_lets +onlyGivenNames x; refine (fun (hx : P x) => ?_) ?_; clear_value x; rotate_left; dsimp -zeta only [x])
    | (extract_lets +onlyGivenNames x) | split | (refine keeps_snd (P := P) ‹_› ?_) | (refine keeps_fst (P := P) ‹_› ?_)

theorem State.notifyAll_keeps (h : Keep P 16777232) {s : State} (hs : P s) :
    P (State.notifyAll s) := by
  unfold State.notifyAll
  with_reducible repeat' first
    | assumption | (intro _) | apply State.notifyScan_keeps (h.mono (by decide)) | apply keeps_foldl (P := P)
    | apply keeps_foldlPair (P := P)
    | (extract_lets +onlyGivenNames x; refine (fun (hx : P x) => ?_) ?_; clear_value x; rotate_left; dsimp -zeta only [x])

theorem execKcpNotify_keeps (h : Keep P 16777232) {ctx : Fin 256} {k : Fin 3} {s : State} (hs : P s) :
    Answers P (execKcpNotify ctx k s) := by
  unfold execKcpNotify
  refine ⟨_, rfl, ?_⟩
  with_reducible repeat' first
    | assumption | apply State.notifyScan_keeps (h.mono (by decide))

theorem execCustomerOpcode_keeps (h : Keep P 481035288572) {op : Fin 4096} {cls : Fin 8} {q : Req} {s : State} (hs : P s) :
    Answers P (execCustomerOpcode op cls q s) := by
  unfold execCustomerOpcode
  refine ⟨_, rfl, ?_⟩
  with_reducible repeat' first
    | assumption | apply State.request_keeps (h.mono (by decide))

theorem execMbxDone_keeps (h : Keep P 16785412) {ini : Initiator} {m : Fin 8} {val : Word} {s : State} (hs : P s) :
    Answers P (execMbxDone ini m val s) := by
  unfold execMbxDone
  refine ⟨_, rfl, ?_⟩
  with_reducible repeat' first
    | assumption | (intro _) | apply State.mbxDoneWrite_keeps (h.mono (by decide))
    | apply State.busWrite_keeps (h.mono (by decide))
    | (extract_lets +onlyGivenNames x; refine (fun (hx : P x) => ?_) ?_; clear_value x; rotate_left; dsimp -zeta only [x])

theorem execMbxTimeout_keeps (h : Keep P 16777220) {m : Fin 8} {slot : Fin 4} {s : State} (hs : P s) :
    Answers P (execMbxTimeout m slot s) := by
  unfold execMbxTimeout
  refine ⟨_, rfl, ?_⟩
  with_reducible repeat' first
    | assumption | apply State.mbxTimeout_keeps (h.mono (by decide))

theorem execKcpLock_keeps (h : Keep P 8196) {ini : Initiator} {val : Word} {s : State} (hs : P s) :
    Answers P (execKcpLock ini val s) := by
  unfold execKcpLock
  refine ⟨_, rfl, ?_⟩
  with_reducible repeat' first
    | assumption | (intro _) | apply State.fieldWrite_keeps (h.mono (by decide))
    | apply State.busWrite_keeps (h.mono (by decide))
    | (extract_lets +onlyGivenNames x; refine (fun (hx : P x) => ?_) ?_; clear_value x; rotate_left; dsimp -zeta only [x])

theorem State.kpDue_keeps (h : Keep P 117506588) {s : State} (hs : P s) :
    P (State.kpDue s) := by
  unfold State.kpDue
  with_reducible repeat' first
    | assumption | (intro _) | apply State.notifyAll_keeps (h.mono (by decide)) | apply State.lateEnd_keeps (h.mono (by decide))
    | apply State.reasmLate_keeps (h.mono (by decide)) | apply State.leasesDue_keeps (h.mono (by decide))
    | apply State.mbxTimeout_keeps (h.mono (by decide)) | apply keeps_foldl (P := P)
    | (extract_lets +onlyGivenNames x; refine (fun (hx : P x) => ?_) ?_; clear_value x; rotate_left; dsimp -zeta only [x])
    | (extract_lets +onlyGivenNames x)

theorem execModeEnter_keeps (h : Keep P 481035288572) {q : Req} {s : State} (hs : P s) :
    Answers P (execModeEnter q s) := by
  unfold execModeEnter
  refine ⟨_, rfl, ?_⟩
  with_reducible repeat' first
    | assumption | apply State.request_keeps (h.mono (by decide))

theorem execModeExit_keeps (h : Keep P 481035288572) {q : Req} {s : State} (hs : P s) :
    Answers P (execModeExit q s) := by
  unfold execModeExit
  refine ⟨_, rfl, ?_⟩
  with_reducible repeat' first
    | assumption | apply State.request_keeps (h.mono (by decide))

theorem execModeStatus_keeps (h : Keep P 481035288572) {q : Req} {s : State} (hs : P s) :
    Answers P (execModeStatus q s) := by
  unfold execModeStatus
  refine ⟨_, rfl, ?_⟩
  with_reducible repeat' first
    | assumption | apply State.request_keeps (h.mono (by decide))

theorem execSetptDrvA_keeps (h : Keep P 481035288572) {q : Req} {s : State} (hs : P s) :
    Answers P (execSetptDrvA q s) := by
  unfold execSetptDrvA
  refine ⟨_, rfl, ?_⟩
  with_reducible repeat' first
    | assumption | apply State.request_keeps (h.mono (by decide))

theorem execSetptDrvB_keeps (h : Keep P 481035288572) {q : Req} {s : State} (hs : P s) :
    Answers P (execSetptDrvB q s) := by
  unfold execSetptDrvB
  refine ⟨_, rfl, ?_⟩
  with_reducible repeat' first
    | assumption | apply State.request_keeps (h.mono (by decide))

theorem execSetptWhtA_keeps (h : Keep P 481035288572) {q : Req} {s : State} (hs : P s) :
    Answers P (execSetptWhtA q s) := by
  unfold execSetptWhtA
  refine ⟨_, rfl, ?_⟩
  with_reducible repeat' first
    | assumption | apply State.request_keeps (h.mono (by decide))

theorem execSetptWhtB_keeps (h : Keep P 481035288572) {q : Req} {s : State} (hs : P s) :
    Answers P (execSetptWhtB q s) := by
  unfold execSetptWhtB
  refine ⟨_, rfl, ?_⟩
  with_reducible repeat' first
    | assumption | apply State.request_keeps (h.mono (by decide))

theorem execSetptBch_keeps (h : Keep P 481035288572) {q : Req} {s : State} (hs : P s) :
    Answers P (execSetptBch q s) := by
  unfold execSetptBch
  refine ⟨_, rfl, ?_⟩
  with_reducible repeat' first
    | assumption | apply State.request_keeps (h.mono (by decide))

theorem execSetptChg_keeps (h : Keep P 481035288572) {q : Req} {s : State} (hs : P s) :
    Answers P (execSetptChg q s) := by
  unfold execSetptChg
  refine ⟨_, rfl, ?_⟩
  with_reducible repeat' first
    | assumption | apply State.request_keeps (h.mono (by decide))

theorem execSetptDcd_keeps (h : Keep P 481035288572) {q : Req} {s : State} (hs : P s) :
    Answers P (execSetptDcd q s) := by
  unfold execSetptDcd
  refine ⟨_, rfl, ?_⟩
  with_reducible repeat' first
    | assumption | apply State.request_keeps (h.mono (by decide))

theorem execCfgWrite_keeps (h : Keep P 481035288572) {q : Req} {s : State} (hs : P s) :
    Answers P (execCfgWrite q s) := by
  unfold execCfgWrite
  refine ⟨_, rfl, ?_⟩
  with_reducible repeat' first
    | assumption | apply State.request_keeps (h.mono (by decide))

theorem execCfgRead_keeps (h : Keep P 481035288572) {q : Req} {s : State} (hs : P s) :
    Answers P (execCfgRead q s) := by
  unfold execCfgRead
  refine ⟨_, rfl, ?_⟩
  with_reducible repeat' first
    | assumption | apply State.request_keeps (h.mono (by decide))

theorem execPolicyWrite_keeps (h : Keep P 481035288572) {q : Req} {s : State} (hs : P s) :
    Answers P (execPolicyWrite q s) := by
  unfold execPolicyWrite
  refine ⟨_, rfl, ?_⟩
  with_reducible repeat' first
    | assumption | apply State.request_keeps (h.mono (by decide))

theorem execPolicyRead_keeps (h : Keep P 481035288572) {q : Req} {s : State} (hs : P s) :
    Answers P (execPolicyRead q s) := by
  unfold execPolicyRead
  refine ⟨_, rfl, ?_⟩
  with_reducible repeat' first
    | assumption | apply State.request_keeps (h.mono (by decide))

theorem execOsdStart_keeps (h : Keep P 481035288572) {q : Req} {s : State} (hs : P s) :
    Answers P (execOsdStart q s) := by
  unfold execOsdStart
  refine ⟨_, rfl, ?_⟩
  with_reducible repeat' first
    | assumption | apply State.request_keeps (h.mono (by decide))

theorem execOsdResult_keeps (h : Keep P 481035288572) {q : Req} {s : State} (hs : P s) :
    Answers P (execOsdResult q s) := by
  unfold execOsdResult
  refine ⟨_, rfl, ?_⟩
  with_reducible repeat' first
    | assumption | apply State.request_keeps (h.mono (by decide))

theorem execStageStatus_keeps (h : Keep P 481035288572) {q : Req} {s : State} (hs : P s) :
    Answers P (execStageStatus q s) := by
  unfold execStageStatus
  refine ⟨_, rfl, ?_⟩
  with_reducible repeat' first
    | assumption | apply State.request_keeps (h.mono (by decide))

theorem execRegRead_keeps (h : Keep P 481035288572) {q : Req} {s : State} (hs : P s) :
    Answers P (execRegRead q s) := by
  unfold execRegRead
  refine ⟨_, rfl, ?_⟩
  with_reducible repeat' first
    | assumption | apply State.request_keeps (h.mono (by decide))

theorem execThermalStatus_keeps (h : Keep P 481035288572) {q : Req} {s : State} (hs : P s) :
    Answers P (execThermalStatus q s) := by
  unfold execThermalStatus
  refine ⟨_, rfl, ?_⟩
  with_reducible repeat' first
    | assumption | apply State.request_keeps (h.mono (by decide))

theorem execSafetyStatus_keeps (h : Keep P 481035288572) {q : Req} {s : State} (hs : P s) :
    Answers P (execSafetyStatus q s) := by
  unfold execSafetyStatus
  refine ⟨_, rfl, ?_⟩
  with_reducible repeat' first
    | assumption | apply State.request_keeps (h.mono (by decide))

theorem execCaptureStart_keeps (h : Keep P 481035288572) {q : Req} {s : State} (hs : P s) :
    Answers P (execCaptureStart q s) := by
  unfold execCaptureStart
  refine ⟨_, rfl, ?_⟩
  with_reducible repeat' first
    | assumption | apply State.request_keeps (h.mono (by decide))

theorem execCaptureRead_keeps (h : Keep P 481035288572) {q : Req} {s : State} (hs : P s) :
    Answers P (execCaptureRead q s) := by
  unfold execCaptureRead
  refine ⟨_, rfl, ?_⟩
  with_reducible repeat' first
    | assumption | apply State.request_keeps (h.mono (by decide))

theorem execForceCold_keeps (h : Keep P 481035288572) {q : Req} {s : State} (hs : P s) :
    Answers P (execForceCold q s) := by
  unfold execForceCold
  refine ⟨_, rfl, ?_⟩
  with_reducible repeat' first
    | assumption | apply State.request_keeps (h.mono (by decide))

theorem execActSeq_keeps (h : Keep P 481035288572) {q : Req} {s : State} (hs : P s) :
    Answers P (execActSeq q s) := by
  unfold execActSeq
  refine ⟨_, rfl, ?_⟩
  with_reducible repeat' first
    | assumption | apply State.request_keeps (h.mono (by decide))

theorem execActAbort_keeps (h : Keep P 481035288572) {q : Req} {s : State} (hs : P s) :
    Answers P (execActAbort q s) := by
  unfold execActAbort
  refine ⟨_, rfl, ?_⟩
  with_reducible repeat' first
    | assumption | apply State.request_keeps (h.mono (by decide))

theorem execActStatus_keeps (h : Keep P 481035288572) {q : Req} {s : State} (hs : P s) :
    Answers P (execActStatus q s) := by
  unfold execActStatus
  refine ⟨_, rfl, ?_⟩
  with_reducible repeat' first
    | assumption | apply State.request_keeps (h.mono (by decide))

theorem execBattLimits_keeps (h : Keep P 481035288572) {q : Req} {s : State} (hs : P s) :
    Answers P (execBattLimits q s) := by
  unfold execBattLimits
  refine ⟨_, rfl, ?_⟩
  with_reducible repeat' first
    | assumption | apply State.request_keeps (h.mono (by decide))

theorem execChgStatus_keeps (h : Keep P 481035288572) {q : Req} {s : State} (hs : P s) :
    Answers P (execChgStatus q s) := by
  unfold execChgStatus
  refine ⟨_, rfl, ?_⟩
  with_reducible repeat' first
    | assumption | apply State.request_keeps (h.mono (by decide))

theorem execLogRead_keeps (h : Keep P 481035288572) {q : Req} {s : State} (hs : P s) :
    Answers P (execLogRead q s) := by
  unfold execLogRead
  refine ⟨_, rfl, ?_⟩
  with_reducible repeat' first
    | assumption | apply State.request_keeps (h.mono (by decide))

theorem execFwBegin_keeps (h : Keep P 481035288572) {q : Req} {s : State} (hs : P s) :
    Answers P (execFwBegin q s) := by
  unfold execFwBegin
  refine ⟨_, rfl, ?_⟩
  with_reducible repeat' first
    | assumption | apply State.request_keeps (h.mono (by decide))

theorem execFwData_keeps (h : Keep P 481035288572) {q : Req} {s : State} (hs : P s) :
    Answers P (execFwData q s) := by
  unfold execFwData
  refine ⟨_, rfl, ?_⟩
  with_reducible repeat' first
    | assumption | apply State.request_keeps (h.mono (by decide))

theorem execFwEnd_keeps (h : Keep P 481035288572) {q : Req} {s : State} (hs : P s) :
    Answers P (execFwEnd q s) := by
  unfold execFwEnd
  refine ⟨_, rfl, ?_⟩
  with_reducible repeat' first
    | assumption | apply State.request_keeps (h.mono (by decide))

theorem execFwSelect_keeps (h : Keep P 481035288572) {q : Req} {s : State} (hs : P s) :
    Answers P (execFwSelect q s) := by
  unfold execFwSelect
  refine ⟨_, rfl, ?_⟩
  with_reducible repeat' first
    | assumption | apply State.request_keeps (h.mono (by decide))

theorem execFwInfo_keeps (h : Keep P 481035288572) {q : Req} {s : State} (hs : P s) :
    Answers P (execFwInfo q s) := by
  unfold execFwInfo
  refine ⟨_, rfl, ?_⟩
  with_reducible repeat' first
    | assumption | apply State.request_keeps (h.mono (by decide))

theorem execTimeGet_keeps (h : Keep P 481035288572) {q : Req} {s : State} (hs : P s) :
    Answers P (execTimeGet q s) := by
  unfold execTimeGet
  refine ⟨_, rfl, ?_⟩
  with_reducible repeat' first
    | assumption | apply State.request_keeps (h.mono (by decide))

theorem execTimeDisc_keeps (h : Keep P 481035288572) {q : Req} {s : State} (hs : P s) :
    Answers P (execTimeDisc q s) := by
  unfold execTimeDisc
  refine ⟨_, rfl, ?_⟩
  with_reducible repeat' first
    | assumption | apply State.request_keeps (h.mono (by decide))

theorem execTimeMaster_keeps (h : Keep P 481035288572) {q : Req} {s : State} (hs : P s) :
    Answers P (execTimeMaster q s) := by
  unfold execTimeMaster
  refine ⟨_, rfl, ?_⟩
  with_reducible repeat' first
    | assumption | apply State.request_keeps (h.mono (by decide))

theorem execClose_keeps (h : Keep P 481035288572) {q : Req} {s : State} (hs : P s) :
    Answers P (execClose q s) := by
  unfold execClose
  refine ⟨_, rfl, ?_⟩
  with_reducible repeat' first
    | assumption | apply State.request_keeps (h.mono (by decide))

theorem execRenew_keeps (h : Keep P 481035288572) {q : Req} {s : State} (hs : P s) :
    Answers P (execRenew q s) := by
  unfold execRenew
  refine ⟨_, rfl, ?_⟩
  with_reducible repeat' first
    | assumption | apply State.request_keeps (h.mono (by decide))

end Sys2Proof.Machine
end

