-- ==== Sys2Proof/Laws/KeepSc.lean ====
section
/-! SUPPORT. What the operations of Machine/Sc.lean keep (Laws/Keep.lean). -/

namespace Sys2Proof.Machine

variable {P : State → Prop}

theorem State.setScc_keeps (h : Keep P 2147483648) {s : State} {n : Nat} {c : ScCore} (hs : P s) :
    P (State.setScc s n c) := by
  unfold State.setScc
  with_reducible repeat' first
    | assumption
    | (refine State.setScCores_keeps (h.mono (by decide)) (by intro hq; first | exact hq | (simp +zetaDelta at hq ⊢ <;> simp [hq]; done) | simpa +zetaDelta using hq) ?_)

theorem State.setThr_keeps (h : Keep P 1073741824) {s : State} {u : Nat} {t : ScThr} (hs : P s) :
    P (State.setThr s u t) := by
  unfold State.setThr
  with_reducible repeat' first
    | assumption
    | (refine State.setScThreads_keeps (h.mono (by decide)) (by intro hq; first | exact hq | (simp +zetaDelta at hq ⊢ <;> simp [hq]; done) | simpa +zetaDelta using hq) ?_)

theorem State.scTrap_keeps (h : Keep P 1073741824) {s : State} {u : Nat} {pc : Word} {cause : Word} {tval : Word} (hs : P s) :
    P (State.scTrap s u pc cause tval) := by
  unfold State.scTrap
  with_reducible repeat' first
    | assumption | apply State.setThr_keeps (h.mono (by decide)) | (extract_lets +onlyGivenNames x)

theorem State.puFault_keeps (h : Keep P 132) {s : State} {u : Nat} {kind : Nat} {a : Nat} {flags : Nat} {typ : Nat} {data : List Byte} (hs : P s) :
    P (State.puFault s u kind a flags typ data) := by
  unfold State.puFault
  with_reducible repeat' first
    | assumption | apply State.log_keeps (h.mono (by decide)) | apply State.put_keeps (h.mono (by decide))
    | apply State.wr_keeps (h.mono (by decide))
    | (extract_lets +onlyGivenNames x; refine (fun (hx : P x) => ?_) ?_; clear_value x; rotate_left; dsimp -zeta only [x])
    | (extract_lets +onlyGivenNames x)

theorem execPuLock_keeps (h : Keep P 8196) {ini : Initiator} {u : Fin 12} {val : Word} {s : State} (hs : P s) :
    Answers P (execPuLock ini u val s) := by
  unfold execPuLock
  refine ⟨_, rfl, ?_⟩
  with_reducible repeat' first
    | assumption | (intro _) | apply State.puWrite_keeps (h.mono (by decide)) | apply State.busWrite_keeps (h.mono (by decide))
    | (extract_lets +onlyGivenNames x; refine (fun (hx : P x) => ?_) ?_; clear_value x; rotate_left; dsimp -zeta only [x])

theorem State.imgStore_keeps (h : Keep P 8) {s : State} {n : Nat} {copy : Nat} {a : Nat} {x4 : List Byte} (hs : P s) :
    P (State.imgStore s n copy a x4) := by
  induction x4 generalizing s n copy a with
  | nil =>
    unfold State.imgStore
    with_reducible repeat' first
      | (with_reducible apply ih) | with_reducible assumption | with_reducible apply State.wrByte_keeps (h.mono (by decide))
  | cons hd tl ih =>
    unfold State.imgStore
    with_reducible repeat' first
      | (with_reducible apply ih) | with_reducible assumption | with_reducible apply State.wrByte_keeps (h.mono (by decide))


theorem State.scStore_keeps (h : Keep P 481035288572) {s : State} {core : Fin 4} {thread : Fin 3} {a : Nat} {v : List Byte} (hs : P s) :
    P (State.scStore s core thread a v) := by
  unfold State.scStore
  with_reducible repeat' first
    | assumption | (intro _) | apply State.imgStore_keeps (h.mono (by decide)) | apply State.busStore_keeps (h.mono (by decide))
    | apply keeps_ite (P := P) | apply keeps_foldl (P := P)
    | (extract_lets +onlyGivenNames x; refine (fun (hx : P x) => ?_) ?_; clear_value x; rotate_left; dsimp -zeta only [x])

theorem State.scPrecise_keeps (h : Keep P 1073741956) {s : State} {u : Nat} {kind : Nat} {a : Nat} {typ : Nat} {pc : Word} (hs : P s) :
    P (State.scPrecise s u kind a typ pc) := by
  unfold State.scPrecise
  with_reducible repeat' first
    | assumption | apply State.puFault_keeps (h.mono (by decide)) | apply State.scTrap_keeps (h.mono (by decide))
    | apply keeps_ite (P := P)
    | (extract_lets +onlyGivenNames x; refine (fun (hx : P x) => ?_) ?_; clear_value x; rotate_left; dsimp -zeta only [x])
    | (extract_lets +onlyGivenNames x)

theorem State.scLoad_keeps (h : Keep P 9663971476) {s : State} {core : Fin 4} {thread : Fin 3} {u : Nat} {a : Nat} {n : Nat} {fab : FabRes} {pc : Word} (hs : P s) :
    P (State.scLoad s core thread u a n fab pc) := by
  unfold State.scLoad
  with_reducible repeat' first
    | assumption | apply State.scPrecise_keeps (h.mono (by decide)) | apply State.setThr_keeps (h.mono (by decide))
    | apply State.fabEnd_keeps (h.mono (by decide)) | apply State.blockLoad_keeps (h.mono (by decide))
    | apply keeps_ite (P := P)
    | (extract_lets +onlyGivenNames x; refine (fun (hx : P x) => ?_) ?_; clear_value x; rotate_left; dsimp -zeta only [x])
    | (extract_lets +onlyGivenNames x; refine (fun (hx : ∀ s y, P s → P (x s y)) => ?_) ?_; clear_value x; rotate_left; dsimp -zeta only [x])
    | (extract_lets +onlyGivenNames x; refine (fun (hx : P x.1) => ?_) ?_; clear_value x; rotate_left; dsimp -zeta only [x])
    | (extract_lets +onlyGivenNames x; refine (fun (hx : P x.2) => ?_) ?_; clear_value x; rotate_left; dsimp -zeta only [x])
    | (extract_lets +onlyGivenNames x) | (refine ‹∀ (s : State) (y : _), P s → P _› _ _ ?_) | split
    | (refine keeps_snd (P := P) ‹_› ?_) | (refine keeps_fst (P := P) ‹_› ?_)

theorem State.scFetch_keeps (h : Keep P 1073741956) {s : State} {core : Fin 4} {thread : Fin 3} {u : Nat} {a : Nat} {fab : FabRes} {pc : Word} (hs : P s) :
    P (State.scFetch s core thread u a fab pc) := by
  unfold State.scFetch
  with_reducible repeat' first
    | assumption | apply State.scPrecise_keeps (h.mono (by decide)) | apply State.fabEnd_keeps (h.mono (by decide))
    | apply keeps_ite (P := P)
    | (extract_lets +onlyGivenNames x; refine (fun (hx : P x) => ?_) ?_; clear_value x; rotate_left; dsimp -zeta only [x])
    | (extract_lets +onlyGivenNames x) | split | (refine keeps_snd (P := P) ‹_› ?_) | (refine keeps_fst (P := P) ‹_› ?_)

theorem State.scPost_keeps (h : Keep P 481035288572) {s : State} {core : Fin 4} {thread : Fin 3} {a : Nat} {v : List Byte} {fab : FabRes} (hs : P s) :
    P (State.scPost s core thread a v fab) := by
  unfold State.scPost
  with_reducible repeat' first
    | assumption | apply State.fabEnd_keeps (h.mono (by decide)) | apply State.busStore_keeps (h.mono (by decide))
    | apply State.blockStore_keeps (h.mono (by decide)) | apply State.setBusErr_keeps (h.mono (by decide))
    | apply keeps_ite (P := P)
    | (extract_lets +onlyGivenNames x; refine (fun (hx : P x) => ?_) ?_; clear_value x; rotate_left; dsimp -zeta only [x])
    | (extract_lets +onlyGivenNames x) | split | (refine keeps_snd (P := P) ‹_› ?_) | (refine keeps_fst (P := P) ‹_› ?_)

theorem State.scAccess_keeps (h : Keep P 481035288572) {s : State} {core : Fin 4} {thread : Fin 3} {acc : ScAcc} {user : Bool} {fab : FabRes} {pc : Word} (hs : P s) :
    P (State.scAccess s core thread acc user fab pc) := by
  unfold State.scAccess
  with_reducible repeat' first
    | assumption | apply State.scPost_keeps (h.mono (by decide)) | apply State.scFetch_keeps (h.mono (by decide))
    | apply State.scLoad_keeps (h.mono (by decide)) | apply State.scPrecise_keeps (h.mono (by decide))
    | apply keeps_ite (P := P)
    | (extract_lets +onlyGivenNames x; refine (fun (hx : P x) => ?_) ?_; clear_value x; rotate_left; dsimp -zeta only [x])
    | (extract_lets +onlyGivenNames x) | split | (refine keeps_snd (P := P) ‹_› ?_) | (refine keeps_fst (P := P) ‹_› ?_)

theorem execScMemoryAccess_keeps (h : Keep P 481035288572) {core : Fin 4} {thread : Fin 3} {acc : ScAcc} {user : Bool} {fab : FabRes} {pc : Word} {s : State} (hs : P s) :
    Answers P (execScMemoryAccess core thread acc user fab pc s) := by
  unfold execScMemoryAccess
  refine ⟨_, rfl, ?_⟩
  with_reducible repeat' first
    | assumption | apply State.scAccess_keeps (h.mono (by decide))

theorem State.postedError_keeps (h : Keep P 1073750148) {s : State} {core : Fin 4} {thread : Fin 3} {pc : Word} (hs : P s) :
    P (State.postedError s core thread pc) := by
  unfold State.postedError
  with_reducible repeat' first
    | assumption | apply State.puFault_keeps (h.mono (by decide)) | apply State.scTrap_keeps (h.mono (by decide))
    | apply State.setBusErr_keeps (h.mono (by decide)) | apply keeps_ite (P := P)
    | (extract_lets +onlyGivenNames x; refine (fun (hx : P x) => ?_) ?_; clear_value x; rotate_left; dsimp -zeta only [x])
    | (extract_lets +onlyGivenNames x) | split | (refine keeps_snd (P := P) ‹_› ?_) | (refine keeps_fst (P := P) ‹_› ?_)

theorem execPostedStoreError_keeps (h : Keep P 1073750148) {core : Fin 4} {thread : Fin 3} {pc : Word} {s : State} (hs : P s) :
    Answers P (execPostedStoreError core thread pc s) := by
  unfold execPostedStoreError
  refine ⟨_, rfl, ?_⟩
  with_reducible repeat' first
    | assumption | apply State.postedError_keeps (h.mono (by decide))

theorem State.entryRefused_keeps (h : Keep P 1073741956) {s : State} {u : Nat} {kind : Nat} {a : Nat} {flags : Nat} {pc : Word} (hs : P s) :
    P (State.entryRefused s u kind a flags pc) := by
  unfold State.entryRefused
  with_reducible repeat' first
    | assumption | apply State.puFault_keeps (h.mono (by decide)) | apply State.scTrap_keeps (h.mono (by decide))

theorem State.irqAccept_keeps (h : Keep P 3221225728) {s : State} {core : Fin 4} {u : Nat} {k : Nat} {icnt : Nat} {i : Irq} {pc : Word} {cause : Word} (hs : P s) :
    P (State.irqAccept s core u k icnt i pc cause) := by
  unfold State.irqAccept
  with_reducible repeat' first
    | assumption | apply State.scTrap_keeps (h.mono (by decide)) | apply State.setScc_keeps (h.mono (by decide))
    | apply State.setIrqs_keeps (h.mono (by decide)) | apply keeps_ite (P := P)
    | (extract_lets +onlyGivenNames x; refine (fun (hx : P x) => ?_) ?_; clear_value x; rotate_left; dsimp -zeta only [x])
    | (extract_lets +onlyGivenNames x)

theorem State.handlerFetch_keeps (h : Keep P 1073741956) {s : State} {core : Fin 4} {thread : Fin 3} {u : Nat} {handler : Word} {fetch : FabRes} (hs : P s) :
    P (State.handlerFetch s core thread u handler fetch) := by
  unfold State.handlerFetch
  with_reducible repeat' first
    | assumption | apply State.scFetch_keeps (h.mono (by decide)) | apply State.scPrecise_keeps (h.mono (by decide))
    | apply keeps_ite (P := P)

theorem State.irqEntry_keeps (h : Keep P 481035288572) {s : State} {core : Fin 4} {thread : Fin 3} {k : Nat} {pc : Word} {handler : Word} {sp : Word} {saved : List Word} {wr : FabRes} {fetch : FabRes} {icnt : Nat} (hs : P s) :
    P (State.irqEntry s core thread k pc handler sp saved wr fetch icnt) := by
  unfold State.irqEntry
  with_reducible repeat' first
    | assumption | apply State.handlerFetch_keeps (h.mono (by decide)) | apply State.irqAccept_keeps (h.mono (by decide))
    | apply State.entryRefused_keeps (h.mono (by decide)) | apply State.scStore_keeps (h.mono (by decide))
    | apply State.setThr_keeps (h.mono (by decide)) | apply State.fabEnd_keeps (h.mono (by decide))
    | apply State.useFree_keeps (h.mono (by decide)) | apply keeps_ite (P := P)
    | (extract_lets +onlyGivenNames x; refine (fun (hx : P x) => ?_) ?_; clear_value x; rotate_left; dsimp -zeta only [x])
    | (extract_lets +onlyGivenNames x) | split | (refine keeps_snd (P := P) ‹_› ?_) | (refine keeps_fst (P := P) ‹_› ?_)

theorem execScInterruptEntry_keeps (h : Keep P 481035288572) {core : Fin 4} {thread : Fin 3} {k : Nat} {pc : Word} {handler : Word} {sp : Word} {saved : List Word} {wr : FabRes} {fetch : FabRes} {icnt : Nat} {s : State} (hs : P s) :
    Answers P (execScInterruptEntry core thread k pc handler sp saved wr fetch icnt s) := by
  unfold execScInterruptEntry
  refine ⟨_, rfl, ?_⟩
  with_reducible repeat' first
    | assumption | apply State.irqEntry_keeps (h.mono (by decide))

theorem State.scCapture_keeps (h : Keep P 2147483924) {s : State} {n : Nat} {p : CmpPoint} {run : List Nat} {cause : Nat} (hs : P s) :
    P (State.scCapture s n p run cause) := by
  unfold State.scCapture
  with_reducible repeat' first
    | assumption | (intro _) | apply State.setScc_keeps (h.mono (by decide)) | apply State.useFree_keeps (h.mono (by decide))
    | apply State.put_keeps (h.mono (by decide)) | apply State.wr_keeps (h.mono (by decide))
    | apply State.setIrqs_keeps (h.mono (by decide))
    | (extract_lets +onlyGivenNames x; refine (fun (hx : P x) => ?_) ?_; clear_value x; rotate_left; dsimp -zeta only [x])
    | (extract_lets +onlyGivenNames x; refine (fun (hx : P x.1) => ?_) ?_; clear_value x; rotate_left; dsimp -zeta only [x])
    | (extract_lets +onlyGivenNames x; refine (fun (hx : P x.2) => ?_) ?_; clear_value x; rotate_left; dsimp -zeta only [x])
    | (extract_lets +onlyGivenNames x)

theorem State.scStop_keeps (h : Keep P 481035288572) {s : State} {n : Nat} (hs : P s) :
    P (State.scStop s n) := by
  unfold State.scStop
  with_reducible repeat' first
    | assumption | (intro _) | apply State.setScc_keeps (h.mono (by decide)) | apply State.bSource_keeps (h.mono (by decide))
    | apply State.irqIf_keeps (h.mono (by decide)) | apply State.put_keeps (h.mono (by decide)) | apply keeps_ite (P := P)
    | apply keeps_foldl (P := P)
    | (extract_lets +onlyGivenNames x; refine (fun (hx : P x) => ?_) ?_; clear_value x; rotate_left; dsimp -zeta only [x])
    | (extract_lets +onlyGivenNames x)

theorem State.scOdd_keeps (h : Keep P 2147483652) {s : State} {n : Nat} {x : Nat} (hs : P s) :
    P (State.scOdd s n x) := by
  unfold State.scOdd
  with_reducible repeat' first
    | assumption | (intro _) | apply State.setScc_keeps (h.mono (by decide)) | apply State.inc_keeps (h.mono (by decide))
    | apply State.putFldBit_keeps (h.mono (by decide)) | apply State.put_keeps (h.mono (by decide)) | apply keeps_ite (P := P)
    | (extract_lets +onlyGivenNames x; refine (fun (hx : P x) => ?_) ?_; clear_value x; rotate_left; dsimp -zeta only [x])
    | (extract_lets +onlyGivenNames x)

theorem State.scFinal_keeps (h : Keep P 2147483648) {s : State} {n : Nat} {icnt : Nat} (hs : P s) :
    P (State.scFinal s n icnt) := by
  unfold State.scFinal
  with_reducible repeat' first
    | assumption | (intro _) | apply State.setScc_keeps (h.mono (by decide))
    | (extract_lets +onlyGivenNames x; refine (fun (hx : P x) => ?_) ?_; clear_value x; rotate_left; dsimp -zeta only [x])
    | (extract_lets +onlyGivenNames x; refine (fun (hx : P x.1) => ?_) ?_; clear_value x; rotate_left; dsimp -zeta only [x])
    | (extract_lets +onlyGivenNames x; refine (fun (hx : P x.2) => ?_) ?_; clear_value x; rotate_left; dsimp -zeta only [x])
    | (extract_lets +onlyGivenNames x)

theorem State.lagSeen_keeps (h : Keep P 4) {s : State} {n : Nat} {lag : Nat} (hs : P s) :
    P (State.lagSeen s n lag) := by
  unfold State.lagSeen
  with_reducible repeat' first
    | assumption | apply State.put_keeps (h.mono (by decide))

theorem State.scCompare_keeps (h : Keep P 481035288572) {s : State} {n : Nat} {p : CmpPoint} {own : Nat} {f : Nat → State → State} (hs : P s) (hf : ∀ (y0 : Nat) (y1 : State), P y1 → P (f y0 y1)) :
    P (State.scCompare s n p own f) := by
  unfold State.scCompare
  with_reducible repeat' first
    | assumption | (intro _) | (apply hf) | apply State.lagSeen_keeps (h.mono (by decide))
    | apply State.scFinal_keeps (h.mono (by decide)) | apply State.scOdd_keeps (h.mono (by decide))
    | apply State.scStop_keeps (h.mono (by decide)) | apply State.scCapture_keeps (h.mono (by decide))
    | apply keeps_ite (P := P)
    | (extract_lets +onlyGivenNames x; refine (fun (hx : P x) => ?_) ?_; clear_value x; rotate_left; dsimp -zeta only [x])
    | (extract_lets +onlyGivenNames x; clear_value x) | split | (refine keeps_snd (P := P) ‹_› ?_)
    | (refine keeps_fst (P := P) ‹_› ?_)

theorem State.scWrite_keeps (h : Keep P 481035288572) {s : State} {core : Fin 4} {p : CmpPoint} {c : Nat} (hs : P s) :
    P (State.scWrite s core p c) := by
  unfold State.scWrite
  with_reducible repeat' first
    | assumption | apply State.scStore_keeps (h.mono (by decide)) | split | (refine keeps_snd (P := P) ‹_› ?_)
    | (refine keeps_fst (P := P) ‹_› ?_)

theorem execScComparison_keeps (h : Keep P 481035288572) {core : Fin 4} {p : CmpPoint} {s : State} (hs : P s) :
    Answers P (execScComparison core p s) := by
  unfold execScComparison
  refine ⟨_, rfl, ?_⟩
  with_reducible repeat' first
    | assumption | (intro _) | apply State.scWrite_keeps (h.mono (by decide)) | apply State.scCompare_keeps (h.mono (by decide))

theorem State.resyncEnd_keeps (h : Keep P 2147483652) {s : State} {n : Nat} (hs : P s) :
    P (State.resyncEnd s n) := by
  unfold State.resyncEnd
  with_reducible repeat' first
    | assumption | apply State.setScc_keeps (h.mono (by decide)) | apply State.put_keeps (h.mono (by decide))
    | apply keeps_ite (P := P)
    | (extract_lets +onlyGivenNames x; refine (fun (hx : P x) => ?_) ?_; clear_value x; rotate_left; dsimp -zeta only [x])
    | (extract_lets +onlyGivenNames x) | split | (refine keeps_snd (P := P) ‹_› ?_) | (refine keeps_fst (P := P) ‹_› ?_)

theorem execScResyncEnd_keeps (h : Keep P 2147483652) {core : Fin 4} {s : State} (hs : P s) :
    Answers P (execScResyncEnd core s) := by
  unfold execScResyncEnd
  refine ⟨_, rfl, ?_⟩
  with_reducible repeat' first
    | assumption | apply State.resyncEnd_keeps (h.mono (by decide))

theorem State.resyncDue_keeps (h : Keep P 2147483652) {s : State} (hs : P s) :
    P (State.resyncDue s) := by
  unfold State.resyncDue
  with_reducible repeat' first
    | assumption | (intro _) | apply State.resyncEnd_keeps (h.mono (by decide)) | apply keeps_ite (P := P)
    | apply keeps_foldl (P := P)
    | (extract_lets +onlyGivenNames x; refine (fun (hx : P x) => ?_) ?_; clear_value x; rotate_left; dsimp -zeta only [x])

theorem State.amo_keeps (h : Keep P 481035288572) {s : State} {core : Fin 4} {op : AmoOp} {held : Bool} {w : Present} {pc : Word} (hs : P s) :
    P (State.amo s core op held w pc) := by
  unfold State.amo
  with_reducible repeat' first
    | assumption | apply State.scPrecise_keeps (h.mono (by decide)) | apply State.setThr_keeps (h.mono (by decide))
    | apply State.setScc_keeps (h.mono (by decide)) | apply State.blockLoad_keeps (h.mono (by decide))
    | apply State.blockStore_keeps (h.mono (by decide)) | apply keeps_ite (P := P)
    | (extract_lets +onlyGivenNames x; refine (fun (hx : P x) => ?_) ?_; clear_value x; rotate_left; dsimp -zeta only [x])
    | (extract_lets +onlyGivenNames x; refine (fun (hx : ∀ s y, P s → P (x s y)) => ?_) ?_; clear_value x; rotate_left; dsimp -zeta only [x])
    | (extract_lets +onlyGivenNames x; refine (fun (hx : P x.1) => ?_) ?_; clear_value x; rotate_left; dsimp -zeta only [x])
    | (extract_lets +onlyGivenNames x; refine (fun (hx : P x.2) => ?_) ?_; clear_value x; rotate_left; dsimp -zeta only [x])
    | (extract_lets +onlyGivenNames x) | (refine ‹∀ (s : State) (y : _), P s → P _› _ _ ?_) | split
    | (refine keeps_snd (P := P) ‹_› ?_) | (refine keeps_fst (P := P) ‹_› ?_)

theorem execScAmoCompare_keeps (h : Keep P 481035288572) {core : Fin 4} {op : AmoOp} {p : CmpPoint} {held : Bool} {s : State} (hs : P s) :
    Answers P (execScAmoCompare core op p held s) := by
  unfold execScAmoCompare
  refine ⟨_, rfl, ?_⟩
  with_reducible repeat' first
    | assumption | (intro _) | apply State.amo_keeps (h.mono (by decide)) | apply State.scCompare_keeps (h.mono (by decide))
    | split | (refine keeps_snd (P := P) ‹_› ?_) | (refine keeps_fst (P := P) ‹_› ?_)

theorem State.scrub_keeps (h : Keep P 164) {s : State} {res : FabRes} {w : Nat} (hs : P s) :
    P (State.scrub s res w) := by
  unfold State.scrub
  with_reducible repeat' first
    | assumption | apply State.memBad_keeps (h.mono (by decide)) | apply State.log_keeps (h.mono (by decide))
    | apply State.wrapInc_keeps (h.mono (by decide)) | apply State.incBy_keeps (h.mono (by decide))
    | apply State.noteClk_keeps (h.mono (by decide)) | apply keeps_ite (P := P)
    | (extract_lets +onlyGivenNames x; refine (fun (hx : P x) => ?_) ?_; clear_value x; rotate_left; dsimp -zeta only [x])
    | (extract_lets +onlyGivenNames x) | split | (refine keeps_snd (P := P) ‹_› ?_) | (refine keeps_fst (P := P) ‹_› ?_)

theorem execSramScrub_keeps (h : Keep P 164) {res : FabRes} {w : Fin 8} {s : State} (hs : P s) :
    Answers P (execSramScrub res w s) := by
  unfold execSramScrub
  refine ⟨_, rfl, ?_⟩
  with_reducible repeat' first
    | assumption | apply State.scrub_keeps (h.mono (by decide))

end Sys2Proof.Machine
end

