-- ==== Sys2Proof/Laws/KeepTime.lean ====
section
/-! SUPPORT. What the operations of Machine/Time.lean keep (Laws/Keep.lean). -/

namespace Sys2Proof.Machine

variable {P : State → Prop}

theorem State.badgerClock_keeps (h : Keep P 481035288572) {s : State} (hs : P s) :
    P (State.badgerClock s) := by
  unfold State.badgerClock
  with_reducible repeat' first
    | assumption | apply State.badgerDue_keeps (h.mono (by decide)) | apply State.badgerTick_keeps (h.mono (by decide))
    | apply State.useFree_keeps (h.mono (by decide)) | apply State.noteClk_keeps (h.mono (by decide)) | apply keeps_ite (P := P)
    | (extract_lets +onlyGivenNames x; refine (fun (hx : P x) => ?_) ?_; clear_value x; rotate_left; dsimp -zeta only [x])
    | (extract_lets +onlyGivenNames x)

theorem State.martenClock_keeps (h : Keep P 481036332796) {s : State} (hs : P s) :
    P (State.martenClock s) := by
  unfold State.martenClock
  with_reducible repeat' first
    | assumption | apply State.martenDue_keeps (h.mono (by decide)) | apply State.plugDebounced_keeps (h.mono (by decide))
    | apply State.useFree_keeps (h.mono (by decide)) | apply State.setMarten_keeps (h.mono (by decide))
    | apply State.noteClk_keeps (h.mono (by decide)) | apply keeps_ite (P := P)
    | (extract_lets +onlyGivenNames x; refine (fun (hx : P x) => ?_) ?_; clear_value x; rotate_left; dsimp -zeta only [x])
    | (extract_lets +onlyGivenNames x)

theorem State.cycleDue_keeps (h : Keep P 481035288572) {s : State} (hs : P s) :
    P (State.cycleDue s) := by
  unfold State.cycleDue
  with_reducible repeat' first
    | assumption | (intro _) | apply State.tmInstant_keeps (h.mono (by decide)) | apply State.posDue_keeps (h.mono (by decide))
    | apply State.ledgerDue_keeps (h.mono (by decide)) | apply State.ceWakeDue_keeps (h.mono (by decide))
    | apply State.hkRoundEnd_keeps (h.mono (by decide)) | apply State.hkChannelEnd_keeps (h.mono (by decide))
    | apply State.dcdMeasure_keeps (h.mono (by decide)) | apply State.pwmPeriodEnd_keeps (h.mono (by decide))
    | apply State.gatesDue_keeps (h.mono (by decide)) | apply State.pwmCycle_keeps (h.mono (by decide))
    | apply State.convDue_keeps (h.mono (by decide)) | apply keeps_ite (P := P) | apply keeps_foldl (P := P)
    | (extract_lets +onlyGivenNames x; refine (fun (hx : P x) => ?_) ?_; clear_value x; rotate_left; dsimp -zeta only [x])
    | (extract_lets +onlyGivenNames x)

theorem State.networkDue_keeps (h : Keep P 549754765308) {s : State} (hs : P s) :
    P (State.networkDue s) := by
  unfold State.networkDue
  with_reducible repeat' first
    | assumption | apply State.aslDue_keeps (h.mono (by decide)) | apply State.ethAgeAll_keeps (h.mono (by decide))

theorem State.memoryDue_keeps (h : Keep P 2147483812) {s : State} (hs : P s) :
    P (State.memoryDue s) := by
  unfold State.memoryDue
  with_reducible repeat' first
    | assumption | apply State.scrub_keeps (h.mono (by decide)) | apply State.resyncDue_keeps (h.mono (by decide))

theorem State.nextInstant_keeps (h : Keep P 549755813888) {s : State} (hs : P s) :
    P (State.nextInstant s) := by
  unfold State.nextInstant
  with_reducible repeat' first
    | assumption | apply State.setClk_keeps (h.mono (by decide)) | (extract_lets +onlyGivenNames x)

theorem State.controlCycle_keeps (h : Keep P 481035288572) {s : State} (hs : P s) :
    P (State.controlCycle s) := by
  unfold State.controlCycle
  with_reducible repeat' first
    | assumption | (intro _) | apply State.ceLand_keeps (h.mono (by decide)) | apply State.trimStep_keeps (h.mono (by decide))
    | apply State.ceDeadline_keeps (h.mono (by decide)) | apply State.pwmForceDue_keeps (h.mono (by decide))
    | apply State.tripOnDue_keeps (h.mono (by decide))
    | (refine State.setCes_keeps (h.mono (by decide)) (by intro hq; first | exact hq | (simp +zetaDelta at hq ⊢ <;> simp [hq]; done) | simpa +zetaDelta using hq) ?_)
    | apply State.setCyc_keeps (h.mono (by decide)) | apply keeps_ite (P := P) | apply keeps_foldl (P := P)
    | (extract_lets +onlyGivenNames x; refine (fun (hx : P x) => ?_) ?_; clear_value x; rotate_left; dsimp -zeta only [x])
    | (extract_lets +onlyGivenNames x)

theorem State.firmware_keeps (h : Keep P 481035284444) {s : State} (hs : P s) :
    P (State.firmware s) := by
  unfold State.firmware
  with_reducible repeat' first
    | assumption | apply State.kpDue_keeps (h.mono (by decide)) | apply State.hspiTake_keeps (h.mono (by decide))
    | apply State.c1Settle_keeps (h.mono (by decide)) | apply State.capDrainAll_keeps (h.mono (by decide))
    | apply State.heartbeatDue_keeps (h.mono (by decide)) | apply State.driveScan_keeps (h.mono (by decide))
    | apply State.modesScan_keeps (h.mono (by decide)) | apply keeps_ite (P := P)

theorem State.idle_keeps (h : Keep P 1099511627772) {s : State} (hs : P s) :
    P (State.idle s) := by
  unfold State.idle
  with_reducible repeat' first
    | assumption | apply State.firmware_keeps (h.mono (by decide)) | apply State.controlCycle_keeps (h.mono (by decide))
    | apply State.nextInstant_keeps (h.mono (by decide)) | apply State.memoryDue_keeps (h.mono (by decide))
    | apply State.networkDue_keeps (h.mono (by decide)) | apply State.cycleDue_keeps (h.mono (by decide))
    | apply State.martenClock_keeps (h.mono (by decide)) | apply State.badgerClock_keeps (h.mono (by decide))
    | apply State.supplyDue_keeps (h.mono (by decide)) | apply State.converterClock_keeps (h.mono (by decide))

end Sys2Proof.Machine
end

