-- ==== Sys2Proof/Laws/KeepExec.lean ====
section
/-! SUPPORT. What every command keeps, and what a step keeps (Laws/Keep.lean). Every command answers a next state. -/

namespace Sys2Proof.Machine

/-- The mask of the parts that a command can change (Laws/Keep.lean). -/
def maskOf : Instr → Nat
  | .registerWrite _ _ _ => 481035288572
  | .cecLock _ _ => 8196
  | .fabricTcmAccess _ _ _ => 481035288572
  | .wordArrival _ _ => 134480260
  | .modeEnter _ => 481035288572
  | .modeExit _ => 481035288572
  | .modeStatus _ => 481035288572
  | .instanceRampEnd _ => 117441044
  | .stageSwitchingReport _ => 50332164
  | .stageStartTimeout _ => 50332164
  | .ascHoldEnd _ => 516
  | .hldHoldsEnd => 481035284172
  | .setptTimeout _ => 117441028
  | .dcdVminTimeout => 117441028
  | .prkDwellExpiry => 481035284172
  | .plugDetLevel _ => 137438953476
  | .plugDebounced => 137556394500
  | .mdmPolicyWrite _ _ _ => 137438961668
  | .mdmLock _ _ => 8196
  | .pllbLockLoss => 4132
  | .pllaLockLoss => 2052
  | .tbLoRead _ => 40960
  | .tbCtrlWrite _ _ => 8196
  | .evlRecordWrite => 274877923484
  | .pwmZeroBoundary _ => 117506948
  | .pwmPeakBoundary _ => 66436
  | .pwmShadowWrite _ _ _ _ => 74628
  | .pwmgCommit _ _ => 74628
  | .pwmgStart _ _ => 8964
  | .pwmCtrlRun _ _ _ => 8964
  | .pwmCtrlStop _ _ _ => 8964
  | .pwmCompareEdge _ _ => 900
  | .pwmDeadtimeEnd _ _ => 900
  | .pwmMinpulseEnd _ _ => 900
  | .pwmCmpcCmpd _ _ => 66436
  | .pwmForce _ _ _ => 8964
  | .pwmTripActive _ _ => 916
  | .pwmTripclr _ _ _ => 9092
  | .pwmSynci _ => 66436
  | .pwmTapCalibration _ _ => 512
  | .gateCommandEdge _ _ _ _ => 2097300
  | .ginEdge _ _ _ _ _ => 2097300
  | .keepaliveLoss _ _ => 2097300
  | .linkResume _ _ => 2097172
  | .edgePhaseEnd _ => 2097152
  | .gdProfileWrite _ _ _ _ => 2105348
  | .edgeMeasured _ _ _ => 2097172
  | .gdLoopWrite _ _ _ => 2105348
  | .biasRegulationReached _ _ => 2097172
  | .gdgLock _ _ => 8196
  | .bootRefreshStart _ => 2097156
  | .bootRefreshStep _ => 2097156
  | .bootUndervoltage _ _ => 2097284
  | .gdBuvClear _ _ _ _ => 8196
  | .didtArm _ => 2097152
  | .didtDetect _ _ => 481035288572
  | .dsatBlankEnd _ => 2097152
  | .dsatDetect _ _ => 481035288572
  | .softTurnoffEnd _ => 2097156
  | .pfltClear _ _ _ _ _ => 481035284444
  | .millerClampEngage _ _ => 4
  | .railUndervoltage _ _ _ => 481035288572
  | .scgAscDelayEnd _ => 481035284444
  | .scgClr _ _ _ => 481035284444
  | .osdctrlStart _ _ => 481035288572
  | .osdBiasReady => 481035284428
  | .osdctrlAbort _ _ => 481035288572
  | .osdStepEnd _ _ => 481035284444
  | .adSeqWrite _ _ _ => 270340
  | .adSeqApply _ => 262148
  | .adcClockLoss => 388
  | .adgLock _ _ => 8196
  | .vdcUpdate => 262148
  | .wuOpenEvent _ _ => 262532
  | .wugSwtrig _ _ _ => 270724
  | .wuOpen _ => 4
  | .wuCloseEvent _ _ => 262276
  | .wuClose _ => 262276
  | .wuOpenTimeout _ => 262276
  | .wuFinalise _ => 262532
  | .wuResultPublish _ => 327948
  | .wuRes0Read _ _ => 270336
  | .wuDisable _ _ _ => 270340
  | .capStart _ _ _ => 17047556
  | .capStop _ _ => 8196
  | .capLenReached _ => 4
  | .hkChannelEnd => 481035288572
  | .hkRoundEnd => 481035284444
  | .wmComparatorChange _ _ => 131476
  | .wmFirstEvaluation _ _ _ => 131476
  | .wmThWrite _ _ _ => 537010180
  | .wmDisable _ _ _ => 139652
  | .wmStrobe _ _ => 131476
  | .wmStrobeLoss _ => 131076
  | .foxFilterAccept _ => 131204
  | .tripInEdge _ _ => 131204
  | .trnRouteWrite _ _ _ => 140180
  | .trnLock _ _ => 8196
  | .wmgLock _ _ => 8196
  | .ceInstruction _ _ => 481035288572
  | .ceStoreBusError _ => 74116
  | .ceHalt _ _ _ => 73732
  | .ceRun _ _ _ => 73732
  | .ceRestart _ _ _ => 73732
  | .ceWake _ => 65540
  | .ceDoorbell _ _ _ => 73732
  | .ceTriggerSetWrite _ _ _ _ => 73732
  | .ceDeadlineMiss _ => 481035288572
  | .ceEscClear _ _ _ => 8196
  | .cxMv _ => 65536
  | .cxVadd _ => 65536
  | .cxVsub _ => 65536
  | .cxVscl _ => 65536
  | .cxVld _ => 65796
  | .cxMld _ => 65796
  | .cxVst _ => 481035288572
  | .cxVext _ => 65536
  | .cxVins _ => 65536
  | .cxSincos _ => 65552
  | .cxRot _ => 65552
  | .cxRsqrt _ => 65536
  | .cxFclmp _ => 65536
  | .cxSadd _ => 65536
  | .cxSsub _ => 65536
  | .cxSatn _ => 65536
  | .cxDuty _ => 65552
  | .cxWait _ => 65548
  | .cxDone _ => 65540
  | .cxMbtake _ => 50397184
  | .cxLgrd _ => 65536
  | .cxLgwr _ => 65536
  | .cxWtime _ => 65536
  | .cxXwr _ => 65536
  | .cxXrd _ => 65536
  | .posRawTransition _ _ => 134218116
  | .posTminExpiry _ => 134218116
  | .pcmpPulseEnd _ => 134217728
  | .posStandstill _ => 134217860
  | .posCntWrite _ _ _ => 134225924
  | .posCmpRestart _ _ _ => 8196
  | .sentFrame _ _ _ _ _ _ _ _ => 134283668
  | .ssiTrigger _ _ => 134217732
  | .ssiFrame _ _ _ => 134283668
  | .posFrameTimeout _ => 134218116
  | .posgLock _ _ => 8196
  | .resPeriodUpdate _ _ => 134218132
  | .ledgerCycle => 268435476
  | .ledgerPublish => 268435460
  | .lgcBatlimWrite _ _ => 268443652
  | .battLimitTimeout => 268435460
  | .lgcLock _ _ => 8196
  | .steerCompute => 268435476
  | .actPrecheckEnd _ => 83886084
  | .actDwellEnd _ => 83886084
  | .actRelaxEnd _ => 117441028
  | .actSeqTimeout _ => 117441028
  | .actStall _ => 117441028
  | .actBusuv _ _ _ => 117441028
  | .sealRead _ _ _ _ _ _ => 481035284444
  | .badgerClockCheck => 481035288572
  | .latchSelfCheck => 481035288572
  | .hsmAck _ _ => 481035288572
  | .sinAccept _ => 481035288572
  | .sinDiscrepancy _ => 481035284444
  | .bspdEdge _ => 524292
  | .bspdSpeedTimeout _ => 4
  | .bspdPlausibility _ => 481035288572
  | .badgerEvaluation => 481035288572
  | .ss1Timeout => 481035288572
  | .hsmEnable _ _ => 481035288572
  | .hsmRelease _ _ => 481035284444
  | .hsmSs1 _ => 481035288572
  | .hsmSto _ => 481035288572
  | .hsmRestart _ => 481035288572
  | .wdQuestion _ => 481035288572
  | .wdAnswer _ _ _ => 481035288572
  | .stoReadback _ _ => 481035288572
  | .scComparison _ _ => 481035288572
  | .scResyncEnd _ => 2147483652
  | .scAmoCompare _ _ _ _ => 481035288572
  | .scMemoryAccess _ _ _ _ _ _ => 481035288572
  | .postedStoreError _ _ _ => 1073750148
  | .scInterruptEntry _ _ _ _ _ _ _ _ _ _ => 481035288572
  | .puLock _ _ _ => 8196
  | .mramBlockWrite => 16392
  | .sramScrub _ _ => 164
  | .dmaStart _ _ _ => 4294975876
  | .dmaResume _ _ _ => 4294975876
  | .dmaAbort _ _ _ => 4294975876
  | .dmaRequest _ => 4294967300
  | .dmaBlock _ _ => 481035288572
  | .stuLock _ _ => 8196
  | .kcpFrameReceive _ _ _ => 117506716
  | .kcpReassemblyTimeout _ => 16777216
  | .hspiWrite _ => 117506716
  | .hspiRead _ => 16777216
  | .hspiStatus => 16777216
  | .openSession _ _ _ _ _ => 16777236
  | .close _ => 481035288572
  | .renew _ => 481035288572
  | .leaseExpiry _ => 117506572
  | .kcpQueueDepart _ => 481035288572
  | .kcpDeadlineExpiry _ _ => 16842760
  | .kcpNotify _ _ => 16777232
  | .customerOpcode _ _ _ => 481035288572
  | .mbxDone _ _ _ => 16785412
  | .mbxTimeout _ _ => 16777220
  | .kcpLock _ _ => 8196
  | .setptDrvA _ => 481035288572
  | .setptDrvB _ => 481035288572
  | .setptWhtA _ => 481035288572
  | .setptWhtB _ => 481035288572
  | .setptBch _ => 481035288572
  | .setptChg _ => 481035288572
  | .setptDcd _ => 481035288572
  | .cfgWrite _ => 481035288572
  | .cfgRead _ => 481035288572
  | .policyWrite _ => 481035288572
  | .policyRead _ => 481035288572
  | .osdStart _ => 481035288572
  | .osdResult _ => 481035288572
  | .stageStatus _ => 481035288572
  | .regRead _ => 481035288572
  | .thermalStatus _ => 481035288572
  | .safetyStatus _ => 481035288572
  | .captureStart _ => 481035288572
  | .captureComplete _ => 17039368
  | .captureRead _ => 481035288572
  | .forceCold _ => 481035288572
  | .actSeq _ => 481035288572
  | .actAbort _ => 481035288572
  | .actStatus _ => 481035288572
  | .battLimits _ => 481035288572
  | .chgStatus _ => 481035288572
  | .logRead _ => 481035288572
  | .fwBegin _ => 481035288572
  | .fwData _ => 481035288572
  | .fwEnd _ => 481035288572
  | .fwVerifyDone _ _ _ _ => 274894684160
  | .fwSelect _ => 481035288572
  | .fwInfo _ => 481035288572
  | .timeGet _ => 481035288572
  | .timeDisc _ => 481035288572
  | .timeMaster _ => 481035288572
  | .canInitSet _ _ _ _ => 8589943044
  | .canInitClear _ _ _ => 8589943044
  | .canBusIntegration _ => 8589934592
  | .canFrameReceive _ _ _ => 8707441564
  | .canRxfGet _ _ _ _ => 8589942788
  | .canRxdmaRead _ _ => 8589942804
  | .canTxdmaWrite _ _ _ _ => 8589943068
  | .canTxreq _ _ _ _ => 8589943044
  | .canTxcncl _ _ _ _ => 8589943044
  | .canTxEnd _ _ _ _ => 25769804052
  | .canRecover _ _ _ => 8589943044
  | .canBusoffRecovered _ => 8589934868
  | .canOpmodeChange _ => 8589934592
  | .canTimeReference _ => 25769803780
  | .ethLinkChange _ _ _ => 4
  | .ethFrameReceive _ _ _ _ => 34477245084
  | .ethAppTransmit _ => 34359738372
  | .ethAddressAgeout _ => 34359738368
  | .t1sTransmitOpportunity _ => 34359738368
  | .gptpMessage _ _ => 34359738388
  | .ethLock _ _ => 8196
  | .aslOpen _ _ _ _ => 68719476760
  | .aslServicePass _ _ _ => 549754765308
  | .vmainLoss _ _ => 481035288572
  | .switchOverComplete => 137438953876
  | .vmainReturn _ _ => 137438953860
  | .flybackStart _ => 137438953476
  | .flybackReady => 4
  | .flybackDrop _ _ => 481035288572
  | .collapseSwitchOff => 481035284172
  | .supLock _ _ => 481035288572
  | .pdcReqWrite _ _ => 481035288572
  | .supStby _ _ => 481035284172
  | .wakePad _ => 412316860420
  | .wakeTimer => 412316860420
  | .wakePlug => 412316860420
  | .wakeCan _ => 412316860420
  | .powerCycle => 549755813836
  | .syscRstCold _ _ => 274877915140
  | .syscRstWarm _ _ => 274877915140
  | .hkHeartbeatLoss => 274877906944
  | .startBegin _ => 481035284172
  | .startStep _ _ => 549754765308
  | .startTimeout => 481035284172
  | .startRetry => 481035284172
  | .lifecycleUnlock _ => 274894700556
  | .debugHalt _ _ => 3221225476
  | .thermalShutdownSwitchoff => 481035284172
  | .thmLock _ _ => 8196
  | .t1sFrameReceive _ _ => 34477245084
  | .canReceiveError _ _ => 8589934868
  | .vmainUsable _ => 137438953476
  | .vhvOvervoltage _ => 481035288572
  | .wmEnable _ _ _ => 139652
  | .sinPadChange _ _ => 524288
  | .bspdPadChange _ _ => 524288
  | .adcClockReturn => 4

/-- A property that survives the changes to the parts that a command can change holds after the command. -/
theorem exec_keeps_mask {P : State → Prop} (i : Instr) (h : Keep P (maskOf i)) {s : State} (hs : P s) : Answers P (exec i s) := by
  cases i with
  | registerWrite ini addr val => exact execRegisterWrite_keeps h hs
  | cecLock ini val => exact execCecLock_keeps h hs
  | fabricTcmAccess ini w data => exact execFabricTcmAccess_keeps h hs
  | wordArrival nn w => exact execWordArrival_keeps h hs
  | modeEnter q => exact execModeEnter_keeps h hs
  | modeExit q => exact execModeExit_keeps h hs
  | modeStatus q => exact execModeStatus_keeps h hs
  | instanceRampEnd ix => exact execInstanceRampEnd_keeps h hs
  | stageSwitchingReport ix => exact execStageSwitchingReport_keeps h hs
  | stageStartTimeout ix => exact execStageStartTimeout_keeps h hs
  | ascHoldEnd m => exact execAscHoldEnd_keeps h hs
  | hldHoldsEnd => exact execHldHoldsEnd_keeps h hs
  | setptTimeout ix => exact execSetptTimeout_keeps h hs
  | dcdVminTimeout => exact execDcdVminTimeout_keeps h hs
  | prkDwellExpiry => exact execPrkDwellExpiry_keeps h hs
  | plugDetLevel level => exact execPlugDetLevel_keeps h hs
  | plugDebounced => exact execPlugDebounced_keeps h hs
  | mdmPolicyWrite ini sel val => exact execMdmPolicyWrite_keeps h hs
  | mdmLock ini val => exact execMdmLock_keeps h hs
  | pllbLockLoss => exact execPllbLockLoss_keeps h hs
  | pllaLockLoss => exact execPllaLockLoss_keeps h hs
  | tbLoRead ini => exact execTbLoRead_keeps h hs
  | tbCtrlWrite ini val => exact execTbCtrlWrite_keeps h hs
  | evlRecordWrite => exact execEvlRecordWrite_keeps h hs
  | pwmZeroBoundary k => exact execPwmZeroBoundary_keeps h hs
  | pwmPeakBoundary k => exact execPwmPeakBoundary_keeps h hs
  | pwmShadowWrite ini k r val => exact execPwmShadowWrite_keeps h hs
  | pwmgCommit ini val => exact execPwmgCommit_keeps h hs
  | pwmgStart ini val => exact execPwmgStart_keeps h hs
  | pwmCtrlRun ini k val => exact execPwmCtrlRun_keeps h hs
  | pwmCtrlStop ini k val => exact execPwmCtrlStop_keeps h hs
  | pwmCompareEdge k x => exact execPwmCompareEdge_keeps h hs
  | pwmDeadtimeEnd k x => exact execPwmDeadtimeEnd_keeps h hs
  | pwmMinpulseEnd k x => exact execPwmMinpulseEnd_keeps h hs
  | pwmCmpcCmpd k d => exact execPwmCmpcCmpd_keeps h hs
  | pwmForce ini k val => exact execPwmForce_keeps h hs
  | pwmTripActive k ix => exact execPwmTripActive_keeps h hs
  | pwmTripclr ini k val => exact execPwmTripclr_keeps h hs
  | pwmSynci k => exact execPwmSynci_keeps h hs
  | pwmTapCalibration k up => exact execPwmTapCalibration_keeps h hs
  | gateCommandEdge g short near level => exact execGateCommandEdge_keeps h hs
  | ginEdge g up short near level => exact execGinEdge_keeps h hs
  | keepaliveLoss g level => exact execKeepaliveLoss_keeps h hs
  | linkResume g level => exact execLinkResume_keeps h hs
  | edgePhaseEnd g => exact execEdgePhaseEnd_keeps h hs
  | gdProfileWrite ini g on val => exact execGdProfileWrite_keeps h hs
  | edgeMeasured g on cross => exact execEdgeMeasured_keeps h hs
  | gdLoopWrite ini g val => exact execGdLoopWrite_keeps h hs
  | biasRegulationReached g level => exact execBiasRegulationReached_keeps h hs
  | gdgLock ini val => exact execGdgLock_keeps h hs
  | bootRefreshStart g => exact execBootRefreshStart_keeps h hs
  | bootRefreshStep g => exact execBootRefreshStep_keeps h hs
  | bootUndervoltage g v => exact execBootUndervoltage_keeps h hs
  | gdBuvClear ini g val v => exact execGdBuvClear_keeps h hs
  | didtArm g => exact execDidtArm_keeps h hs
  | didtDetect g v => exact execDidtDetect_keeps h hs
  | dsatBlankEnd g => exact execDsatBlankEnd_keeps h hs
  | dsatDetect g v => exact execDsatDetect_keeps h hs
  | softTurnoffEnd g => exact execSoftTurnoffEnd_keeps h hs
  | pfltClear ini g val pos neg => exact execPfltClear_keeps h hs
  | millerClampEngage g v => exact execMillerClampEngage_keeps h hs
  | railUndervoltage g neg v => exact execRailUndervoltage_keeps h hs
  | scgAscDelayEnd n => exact execScgAscDelayEnd_keeps h hs
  | scgClr ini n val => exact execScgClr_keeps h hs
  | osdctrlStart ini val => exact execOsdctrlStart_keeps h hs
  | osdBiasReady => exact execOsdBiasReady_keeps h hs
  | osdctrlAbort ini val => exact execOsdctrlAbort_keeps h hs
  | osdStepEnd a b => exact execOsdStepEnd_keeps h hs
  | adSeqWrite ini nn val => exact execAdSeqWrite_keeps h hs
  | adSeqApply nn => exact execAdSeqApply_keeps h hs
  | adcClockLoss => exact execAdcClockLoss_keeps h hs
  | adgLock ini val => exact execAdgLock_keeps h hs
  | vdcUpdate => exact execVdcUpdate_keeps h hs
  | wuOpenEvent u ev => exact execWuOpenEvent_keeps h hs
  | wugSwtrig ini hi val => exact execWugSwtrig_keeps h hs
  | wuOpen u => exact execWuOpen_keeps h hs
  | wuCloseEvent u ev => exact execWuCloseEvent_keeps h hs
  | wuClose u => exact execWuClose_keeps h hs
  | wuOpenTimeout u => exact execWuOpenTimeout_keeps h hs
  | wuFinalise u => exact execWuFinalise_keeps h hs
  | wuResultPublish u => exact execWuResultPublish_keeps h hs
  | wuRes0Read ini u => exact execWuRes0Read_keeps h hs
  | wuDisable ini u val => exact execWuDisable_keeps h hs
  | capStart ini n ev => exact execCapStart_keeps h hs
  | capStop ini n => exact execCapStop_keeps h hs
  | capLenReached n => exact execCapLenReached_keeps h hs
  | hkChannelEnd => exact execHkChannelEnd_keeps h hs
  | hkRoundEnd => exact execHkRoundEnd_keeps h hs
  | wmComparatorChange m v => exact execWmComparatorChange_keeps h hs
  | wmFirstEvaluation m low v => exact execWmFirstEvaluation_keeps h hs
  | wmThWrite ini m val => exact execWmThWrite_keeps h hs
  | wmDisable ini m val => exact execWmDisable_keeps h hs
  | wmStrobe m v => exact execWmStrobe_keeps h hs
  | wmStrobeLoss m => exact execWmStrobeLoss_keeps h hs
  | foxFilterAccept code => exact execFoxFilterAccept_keeps h hs
  | tripInEdge ix level => exact execTripInEdge_keeps h hs
  | trnRouteWrite ini addr val => exact execTrnRouteWrite_keeps h hs
  | trnLock ini val => exact execTrnLock_keeps h hs
  | wmgLock ini val => exact execWmgLock_keeps h hs
  | ceInstruction n fab => exact execCeInstruction_keeps h hs
  | ceStoreBusError n => exact execCeStoreBusError_keeps h hs
  | ceHalt ini n val => exact execCeHalt_keeps h hs
  | ceRun ini n val => exact execCeRun_keeps h hs
  | ceRestart ini n val => exact execCeRestart_keeps h hs
  | ceWake n => exact execCeWake_keeps h hs
  | ceDoorbell ini n val => exact execCeDoorbell_keeps h hs
  | ceTriggerSetWrite ini n addr val => exact execCeTriggerSetWrite_keeps h hs
  | ceDeadlineMiss n => exact execCeDeadlineMiss_keeps h hs
  | ceEscClear ini n val => exact execCeEscClear_keeps h hs
  | cxMv n => exact execCxMv_keeps h hs
  | cxVadd n => exact execCxVadd_keeps h hs
  | cxVsub n => exact execCxVsub_keeps h hs
  | cxVscl n => exact execCxVscl_keeps h hs
  | cxVld n => exact execCxVld_keeps h hs
  | cxMld n => exact execCxMld_keeps h hs
  | cxVst n => exact execCxVst_keeps h hs
  | cxVext n => exact execCxVext_keeps h hs
  | cxVins n => exact execCxVins_keeps h hs
  | cxSincos n => exact execCxSincos_keeps h hs
  | cxRot n => exact execCxRot_keeps h hs
  | cxRsqrt n => exact execCxRsqrt_keeps h hs
  | cxFclmp n => exact execCxFclmp_keeps h hs
  | cxSadd n => exact execCxSadd_keeps h hs
  | cxSsub n => exact execCxSsub_keeps h hs
  | cxSatn n => exact execCxSatn_keeps h hs
  | cxDuty n => exact execCxDuty_keeps h hs
  | cxWait n => exact execCxWait_keeps h hs
  | cxDone n => exact execCxDone_keeps h hs
  | cxMbtake n => exact execCxMbtake_keeps h hs
  | cxLgrd n => exact execCxLgrd_keeps h hs
  | cxLgwr n => exact execCxLgwr_keeps h hs
  | cxWtime n => exact execCxWtime_keeps h hs
  | cxXwr n => exact execCxXwr_keeps h hs
  | cxXrd n => exact execCxXrd_keeps h hs
  | posRawTransition n levels => exact execPosRawTransition_keeps h hs
  | posTminExpiry n => exact execPosTminExpiry_keeps h hs
  | pcmpPulseEnd n => exact execPcmpPulseEnd_keeps h hs
  | posStandstill n => exact execPosStandstill_keeps h hs
  | posCntWrite ini n val => exact execPosCntWrite_keeps h hs
  | posCmpRestart ini n val => exact execPosCmpRestart_keeps h hs
  | sentFrame ix stamp cal status data crc pause lost => exact execSentFrame_keeps h hs
  | ssiTrigger ix ev => exact execSsiTrigger_keeps h hs
  | ssiFrame ix bits lost => exact execSsiFrame_keeps h hs
  | posFrameTimeout n => exact execPosFrameTimeout_keeps h hs
  | posgLock ini val => exact execPosgLock_keeps h hs
  | resPeriodUpdate n exc => exact execResPeriodUpdate_keeps h hs
  | ledgerCycle => exact execLedgerCycle_keeps h hs
  | ledgerPublish => exact execLedgerPublish_keeps h hs
  | lgcBatlimWrite ini val => exact execLgcBatlimWrite_keeps h hs
  | battLimitTimeout => exact execBattLimitTimeout_keeps h hs
  | lgcLock ini val => exact execLgcLock_keeps h hs
  | steerCompute => exact execSteerCompute_keeps h hs
  | actPrecheckEnd n => exact execActPrecheckEnd_keeps h hs
  | actDwellEnd n => exact execActDwellEnd_keeps h hs
  | actRelaxEnd n => exact execActRelaxEnd_keeps h hs
  | actSeqTimeout n => exact execActSeqTimeout_keeps h hs
  | actStall n => exact execActStall_keeps h hs
  | actBusuv n v held => exact execActBusuv_keeps h hs
  | sealRead d0 d1 d2 u0 u1 u2 => exact execSealRead_keeps h hs
  | badgerClockCheck => exact execBadgerClockCheck_keeps h hs
  | latchSelfCheck => exact execLatchSelfCheck_keeps h hs
  | hsmAck ini val => exact execHsmAck_keeps h hs
  | sinAccept ch => exact execSinAccept_keeps h hs
  | sinDiscrepancy ix => exact execSinDiscrepancy_keeps h hs
  | bspdEdge ch => exact execBspdEdge_keeps h hs
  | bspdSpeedTimeout ch => exact execBspdSpeedTimeout_keeps h hs
  | bspdPlausibility m => exact execBspdPlausibility_keeps h hs
  | badgerEvaluation => exact execBadgerEvaluation_keeps h hs
  | ss1Timeout => exact execSs1Timeout_keeps h hs
  | hsmEnable ini mask => exact execHsmEnable_keeps h hs
  | hsmRelease ini mask => exact execHsmRelease_keeps h hs
  | hsmSs1 ini => exact execHsmSs1_keeps h hs
  | hsmSto ini => exact execHsmSto_keeps h hs
  | hsmRestart ini => exact execHsmRestart_keeps h hs
  | wdQuestion n => exact execWdQuestion_keeps h hs
  | wdAnswer ini n val => exact execWdAnswer_keeps h hs
  | stoReadback forced good => exact execStoReadback_keeps h hs
  | scComparison core p => exact execScComparison_keeps h hs
  | scResyncEnd core => exact execScResyncEnd_keeps h hs
  | scAmoCompare core op p held => exact execScAmoCompare_keeps h hs
  | scMemoryAccess core thread acc user fab pc => exact execScMemoryAccess_keeps h hs
  | postedStoreError core thread pc => exact execPostedStoreError_keeps h hs
  | scInterruptEntry core thread k pc handler sp saved wr fetch icnt => exact execScInterruptEntry_keeps h hs
  | puLock ini u val => exact execPuLock_keeps h hs
  | mramBlockWrite => exact execMramBlockWrite_keeps h hs
  | sramScrub res w => exact execSramScrub_keeps h hs
  | dmaStart ini c val => exact execDmaStart_keeps h hs
  | dmaResume ini c val => exact execDmaResume_keeps h hs
  | dmaAbort ini c val => exact execDmaAbort_keeps h hs
  | dmaRequest c => exact execDmaRequest_keeps h hs
  | dmaBlock rd wr => exact execDmaBlock_keeps h hs
  | stuLock ini val => exact execStuLock_keeps h hs
  | kcpFrameReceive t peer frame => exact execKcpFrameReceive_keeps h hs
  | kcpReassemblyTimeout ix => exact execKcpReassemblyTimeout_keeps h hs
  | hspiWrite bytes => exact execHspiWrite_keeps h hs
  | hspiRead n => exact execHspiRead_keeps h hs
  | hspiStatus => exact execHspiStatus_keeps h hs
  | openSession t peer seq tag pay => exact execOpenSession_keeps h hs
  | close q => exact execClose_keeps h hs
  | renew q => exact execRenew_keeps h hs
  | leaseExpiry ctx => exact execLeaseExpiry_keeps h hs
  | kcpQueueDepart k => exact execKcpQueueDepart_keeps h hs
  | kcpDeadlineExpiry ctx seq => exact execKcpDeadlineExpiry_keeps h hs
  | kcpNotify ctx k => exact execKcpNotify_keeps h hs
  | customerOpcode op cls q => exact execCustomerOpcode_keeps h hs
  | mbxDone ini m val => exact execMbxDone_keeps h hs
  | mbxTimeout m slot => exact execMbxTimeout_keeps h hs
  | kcpLock ini val => exact execKcpLock_keeps h hs
  | setptDrvA q => exact execSetptDrvA_keeps h hs
  | setptDrvB q => exact execSetptDrvB_keeps h hs
  | setptWhtA q => exact execSetptWhtA_keeps h hs
  | setptWhtB q => exact execSetptWhtB_keeps h hs
  | setptBch q => exact execSetptBch_keeps h hs
  | setptChg q => exact execSetptChg_keeps h hs
  | setptDcd q => exact execSetptDcd_keeps h hs
  | cfgWrite q => exact execCfgWrite_keeps h hs
  | cfgRead q => exact execCfgRead_keeps h hs
  | policyWrite q => exact execPolicyWrite_keeps h hs
  | policyRead q => exact execPolicyRead_keeps h hs
  | osdStart q => exact execOsdStart_keeps h hs
  | osdResult q => exact execOsdResult_keeps h hs
  | stageStatus q => exact execStageStatus_keeps h hs
  | regRead q => exact execRegRead_keeps h hs
  | thermalStatus q => exact execThermalStatus_keeps h hs
  | safetyStatus q => exact execSafetyStatus_keeps h hs
  | captureStart q => exact execCaptureStart_keeps h hs
  | captureComplete unit => exact execCaptureComplete_keeps h hs
  | captureRead q => exact execCaptureRead_keeps h hs
  | forceCold q => exact execForceCold_keeps h hs
  | actSeq q => exact execActSeq_keeps h hs
  | actAbort q => exact execActAbort_keeps h hs
  | actStatus q => exact execActStatus_keeps h hs
  | battLimits q => exact execBattLimits_keeps h hs
  | chgStatus q => exact execChgStatus_keeps h hs
  | logRead q => exact execLogRead_keeps h hs
  | fwBegin q => exact execFwBegin_keeps h hs
  | fwData q => exact execFwData_keeps h hs
  | fwEnd q => exact execFwEnd_keeps h hs
  | fwVerifyDone ok prod version epoch => exact execFwVerifyDone_keeps h hs
  | fwSelect q => exact execFwSelect_keeps h hs
  | fwInfo q => exact execFwInfo_keeps h hs
  | timeGet q => exact execTimeGet_keeps h hs
  | timeDisc q => exact execTimeDisc_keeps h hs
  | timeMaster q => exact execTimeMaster_keeps h hs
  | canInitSet ini n val busy => exact execCanInitSet_keeps h hs
  | canInitClear ini n val => exact execCanInitClear_keeps h hs
  | canBusIntegration n => exact execCanBusIntegration_keeps h hs
  | canFrameReceive n f sof => exact execCanFrameReceive_keeps h hs
  | canRxfGet ini n k val => exact execCanRxfGet_keeps h hs
  | canRxdmaRead ini n => exact execCanRxdmaRead_keeps h hs
  | canTxdmaWrite ini n val sof => exact execCanTxdmaWrite_keeps h hs
  | canTxreq ini n val sof => exact execCanTxreq_keeps h hs
  | canTxcncl ini n val sof => exact execCanTxcncl_keeps h hs
  | canTxEnd n kp res sof => exact execCanTxEnd_keeps h hs
  | canRecover ini n val => exact execCanRecover_keeps h hs
  | canBusoffRecovered n => exact execCanBusoffRecovered_keeps h hs
  | canOpmodeChange n => exact execCanOpmodeChange_keeps h hs
  | canTimeReference sof => exact execCanTimeReference_keeps h hs
  | ethLinkChange k up sqi => exact execEthLinkChange_keeps h hs
  | ethFrameReceive k bytes stamp room => exact execEthFrameReceive_keeps h hs
  | ethAppTransmit room => exact execEthAppTransmit_keeps h hs
  | ethAddressAgeout mac => exact execEthAddressAgeout_keeps h hs
  | t1sTransmitOpportunity beacon => exact execT1sTransmitOpportunity_keeps h hs
  | gptpMessage k msg => exact execGptpMessage_keeps h hs
  | ethLock ini val => exact execEthLock_keeps h hs
  | aslOpen core desc blk reopen => exact execAslOpen_keeps h hs
  | aslServicePass core placed sof => exact execAslServicePass_keeps h hs
  | vmainLoss ovlo v => exact execVmainLoss_keeps h hs
  | switchOverComplete => exact execSwitchOverComplete_keeps h hs
  | vmainReturn lo hi => exact execVmainReturn_keeps h hs
  | flybackStart v => exact execFlybackStart_keeps h hs
  | flybackReady => exact execFlybackReady_keeps h hs
  | flybackDrop cause v => exact execFlybackDrop_keeps h hs
  | collapseSwitchOff => exact execCollapseSwitchOff_keeps h hs
  | supLock ini val => exact execSupLock_keeps h hs
  | pdcReqWrite ini val => exact execPdcReqWrite_keeps h hs
  | supStby ini val => exact execSupStby_keeps h hs
  | wakePad level => exact execWakePad_keeps h hs
  | wakeTimer => exact execWakeTimer_keeps h hs
  | wakePlug => exact execWakePlug_keeps h hs
  | wakeCan bus => exact execWakeCan_keeps h hs
  | powerCycle => exact execPowerCycle_keeps h hs
  | syscRstCold ini val => exact execSyscRstCold_keeps h hs
  | syscRstWarm ini val => exact execSyscRstWarm_keeps h hs
  | hkHeartbeatLoss => exact execHkHeartbeatLoss_keeps h hs
  | startBegin v => exact execStartBegin_keeps h hs
  | startStep ok alt => exact execStartStep_keeps h hs
  | startTimeout => exact execStartTimeout_keeps h hs
  | startRetry => exact execStartRetry_keeps h hs
  | lifecycleUnlock valid => exact execLifecycleUnlock_keeps h hs
  | debugHalt core thread => exact execDebugHalt_keeps h hs
  | thermalShutdownSwitchoff => exact execThermalShutdownSwitchoff_keeps h hs
  | thmLock ini val => exact execThmLock_keeps h hs
  | t1sFrameReceive bytes stamp => exact execT1sFrameReceive_keeps h hs
  | canReceiveError n eight => exact execCanReceiveError_keeps h hs
  | vmainUsable v => exact execVmainUsable_keeps h hs
  | vhvOvervoltage v => exact execVhvOvervoltage_keeps h hs
  | wmEnable ini m val => exact execWmEnable_keeps h hs
  | sinPadChange ch level => exact execSinPadChange_keeps h hs
  | bspdPadChange ch level => exact execBspdPadChange_keeps h hs
  | adcClockReturn => exact execAdcClockReturn_keeps h hs

/-- A property that survives the changes to every part but the queue and the order code holds after every command. -/
theorem exec_keeps {P : State → Prop} (h : Keep P 549755813884) (i : Instr) {s : State} (hs : P s) : Answers P (exec i s) :=
  by
  cases i with
  | registerWrite ini addr val => exact execRegisterWrite_keeps (h.mono (by decide)) hs
  | cecLock ini val => exact execCecLock_keeps (h.mono (by decide)) hs
  | fabricTcmAccess ini w data => exact execFabricTcmAccess_keeps (h.mono (by decide)) hs
  | wordArrival nn w => exact execWordArrival_keeps (h.mono (by decide)) hs
  | modeEnter q => exact execModeEnter_keeps (h.mono (by decide)) hs
  | modeExit q => exact execModeExit_keeps (h.mono (by decide)) hs
  | modeStatus q => exact execModeStatus_keeps (h.mono (by decide)) hs
  | instanceRampEnd ix => exact execInstanceRampEnd_keeps (h.mono (by decide)) hs
  | stageSwitchingReport ix => exact execStageSwitchingReport_keeps (h.mono (by decide)) hs
  | stageStartTimeout ix => exact execStageStartTimeout_keeps (h.mono (by decide)) hs
  | ascHoldEnd m => exact execAscHoldEnd_keeps (h.mono (by decide)) hs
  | hldHoldsEnd => exact execHldHoldsEnd_keeps (h.mono (by decide)) hs
  | setptTimeout ix => exact execSetptTimeout_keeps (h.mono (by decide)) hs
  | dcdVminTimeout => exact execDcdVminTimeout_keeps (h.mono (by decide)) hs
  | prkDwellExpiry => exact execPrkDwellExpiry_keeps (h.mono (by decide)) hs
  | plugDetLevel level => exact execPlugDetLevel_keeps (h.mono (by decide)) hs
  | plugDebounced => exact execPlugDebounced_keeps (h.mono (by decide)) hs
  | mdmPolicyWrite ini sel val => exact execMdmPolicyWrite_keeps (h.mono (by decide)) hs
  | mdmLock ini val => exact execMdmLock_keeps (h.mono (by decide)) hs
  | pllbLockLoss => exact execPllbLockLoss_keeps (h.mono (by decide)) hs
  | pllaLockLoss => exact execPllaLockLoss_keeps (h.mono (by decide)) hs
  | tbLoRead ini => exact execTbLoRead_keeps (h.mono (by decide)) hs
  | tbCtrlWrite ini val => exact execTbCtrlWrite_keeps (h.mono (by decide)) hs
  | evlRecordWrite => exact execEvlRecordWrite_keeps (h.mono (by decide)) hs
  | pwmZeroBoundary k => exact execPwmZeroBoundary_keeps (h.mono (by decide)) hs
  | pwmPeakBoundary k => exact execPwmPeakBoundary_keeps (h.mono (by decide)) hs
  | pwmShadowWrite ini k r val => exact execPwmShadowWrite_keeps (h.mono (by decide)) hs
  | pwmgCommit ini val => exact execPwmgCommit_keeps (h.mono (by decide)) hs
  | pwmgStart ini val => exact execPwmgStart_keeps (h.mono (by decide)) hs
  | pwmCtrlRun ini k val => exact execPwmCtrlRun_keeps (h.mono (by decide)) hs
  | pwmCtrlStop ini k val => exact execPwmCtrlStop_keeps (h.mono (by decide)) hs
  | pwmCompareEdge k x => exact execPwmCompareEdge_keeps (h.mono (by decide)) hs
  | pwmDeadtimeEnd k x => exact execPwmDeadtimeEnd_keeps (h.mono (by decide)) hs
  | pwmMinpulseEnd k x => exact execPwmMinpulseEnd_keeps (h.mono (by decide)) hs
  | pwmCmpcCmpd k d => exact execPwmCmpcCmpd_keeps (h.mono (by decide)) hs
  | pwmForce ini k val => exact execPwmForce_keeps (h.mono (by decide)) hs
  | pwmTripActive k ix => exact execPwmTripActive_keeps (h.mono (by decide)) hs
  | pwmTripclr ini k val => exact execPwmTripclr_keeps (h.mono (by decide)) hs
  | pwmSynci k => exact execPwmSynci_keeps (h.mono (by decide)) hs
  | pwmTapCalibration k up => exact execPwmTapCalibration_keeps (h.mono (by decide)) hs
  | gateCommandEdge g short near level => exact execGateCommandEdge_keeps (h.mono (by decide)) hs
  | ginEdge g up short near level => exact execGinEdge_keeps (h.mono (by decide)) hs
  | keepaliveLoss g level => exact execKeepaliveLoss_keeps (h.mono (by decide)) hs
  | linkResume g level => exact execLinkResume_keeps (h.mono (by decide)) hs
  | edgePhaseEnd g => exact execEdgePhaseEnd_keeps (h.mono (by decide)) hs
  | gdProfileWrite ini g on val => exact execGdProfileWrite_keeps (h.mono (by decide)) hs
  | edgeMeasured g on cross => exact execEdgeMeasured_keeps (h.mono (by decide)) hs
  | gdLoopWrite ini g val => exact execGdLoopWrite_keeps (h.mono (by decide)) hs
  | biasRegulationReached g level => exact execBiasRegulationReached_keeps (h.mono (by decide)) hs
  | gdgLock ini val => exact execGdgLock_keeps (h.mono (by decide)) hs
  | bootRefreshStart g => exact execBootRefreshStart_keeps (h.mono (by decide)) hs
  | bootRefreshStep g => exact execBootRefreshStep_keeps (h.mono (by decide)) hs
  | bootUndervoltage g v => exact execBootUndervoltage_keeps (h.mono (by decide)) hs
  | gdBuvClear ini g val v => exact execGdBuvClear_keeps (h.mono (by decide)) hs
  | didtArm g => exact execDidtArm_keeps (h.mono (by decide)) hs
  | didtDetect g v => exact execDidtDetect_keeps (h.mono (by decide)) hs
  | dsatBlankEnd g => exact execDsatBlankEnd_keeps (h.mono (by decide)) hs
  | dsatDetect g v => exact execDsatDetect_keeps (h.mono (by decide)) hs
  | softTurnoffEnd g => exact execSoftTurnoffEnd_keeps (h.mono (by decide)) hs
  | pfltClear ini g val pos neg => exact execPfltClear_keeps (h.mono (by decide)) hs
  | millerClampEngage g v => exact execMillerClampEngage_keeps (h.mono (by decide)) hs
  | railUndervoltage g neg v => exact execRailUndervoltage_keeps (h.mono (by decide)) hs
  | scgAscDelayEnd n => exact execScgAscDelayEnd_keeps (h.mono (by decide)) hs
  | scgClr ini n val => exact execScgClr_keeps (h.mono (by decide)) hs
  | osdctrlStart ini val => exact execOsdctrlStart_keeps (h.mono (by decide)) hs
  | osdBiasReady => exact execOsdBiasReady_keeps (h.mono (by decide)) hs
  | osdctrlAbort ini val => exact execOsdctrlAbort_keeps (h.mono (by decide)) hs
  | osdStepEnd a b => exact execOsdStepEnd_keeps (h.mono (by decide)) hs
  | adSeqWrite ini nn val => exact execAdSeqWrite_keeps (h.mono (by decide)) hs
  | adSeqApply nn => exact execAdSeqApply_keeps (h.mono (by decide)) hs
  | adcClockLoss => exact execAdcClockLoss_keeps (h.mono (by decide)) hs
  | adgLock ini val => exact execAdgLock_keeps (h.mono (by decide)) hs
  | vdcUpdate => exact execVdcUpdate_keeps (h.mono (by decide)) hs
  | wuOpenEvent u ev => exact execWuOpenEvent_keeps (h.mono (by decide)) hs
  | wugSwtrig ini hi val => exact execWugSwtrig_keeps (h.mono (by decide)) hs
  | wuOpen u => exact execWuOpen_keeps (h.mono (by decide)) hs
  | wuCloseEvent u ev => exact execWuCloseEvent_keeps (h.mono (by decide)) hs
  | wuClose u => exact execWuClose_keeps (h.mono (by decide)) hs
  | wuOpenTimeout u => exact execWuOpenTimeout_keeps (h.mono (by decide)) hs
  | wuFinalise u => exact execWuFinalise_keeps (h.mono (by decide)) hs
  | wuResultPublish u => exact execWuResultPublish_keeps (h.mono (by decide)) hs
  | wuRes0Read ini u => exact execWuRes0Read_keeps (h.mono (by decide)) hs
  | wuDisable ini u val => exact execWuDisable_keeps (h.mono (by decide)) hs
  | capStart ini n ev => exact execCapStart_keeps (h.mono (by decide)) hs
  | capStop ini n => exact execCapStop_keeps (h.mono (by decide)) hs
  | capLenReached n => exact execCapLenReached_keeps (h.mono (by decide)) hs
  | hkChannelEnd => exact execHkChannelEnd_keeps (h.mono (by decide)) hs
  | hkRoundEnd => exact execHkRoundEnd_keeps (h.mono (by decide)) hs
  | wmComparatorChange m v => exact execWmComparatorChange_keeps (h.mono (by decide)) hs
  | wmFirstEvaluation m low v => exact execWmFirstEvaluation_keeps (h.mono (by decide)) hs
  | wmThWrite ini m val => exact execWmThWrite_keeps (h.mono (by decide)) hs
  | wmDisable ini m val => exact execWmDisable_keeps (h.mono (by decide)) hs
  | wmStrobe m v => exact execWmStrobe_keeps (h.mono (by decide)) hs
  | wmStrobeLoss m => exact execWmStrobeLoss_keeps (h.mono (by decide)) hs
  | foxFilterAccept code => exact execFoxFilterAccept_keeps (h.mono (by decide)) hs
  | tripInEdge ix level => exact execTripInEdge_keeps (h.mono (by decide)) hs
  | trnRouteWrite ini addr val => exact execTrnRouteWrite_keeps (h.mono (by decide)) hs
  | trnLock ini val => exact execTrnLock_keeps (h.mono (by decide)) hs
  | wmgLock ini val => exact execWmgLock_keeps (h.mono (by decide)) hs
  | ceInstruction n fab => exact execCeInstruction_keeps (h.mono (by decide)) hs
  | ceStoreBusError n => exact execCeStoreBusError_keeps (h.mono (by decide)) hs
  | ceHalt ini n val => exact execCeHalt_keeps (h.mono (by decide)) hs
  | ceRun ini n val => exact execCeRun_keeps (h.mono (by decide)) hs
  | ceRestart ini n val => exact execCeRestart_keeps (h.mono (by decide)) hs
  | ceWake n => exact execCeWake_keeps (h.mono (by decide)) hs
  | ceDoorbell ini n val => exact execCeDoorbell_keeps (h.mono (by decide)) hs
  | ceTriggerSetWrite ini n addr val => exact execCeTriggerSetWrite_keeps (h.mono (by decide)) hs
  | ceDeadlineMiss n => exact execCeDeadlineMiss_keeps (h.mono (by decide)) hs
  | ceEscClear ini n val => exact execCeEscClear_keeps (h.mono (by decide)) hs
  | cxMv n => exact execCxMv_keeps (h.mono (by decide)) hs
  | cxVadd n => exact execCxVadd_keeps (h.mono (by decide)) hs
  | cxVsub n => exact execCxVsub_keeps (h.mono (by decide)) hs
  | cxVscl n => exact execCxVscl_keeps (h.mono (by decide)) hs
  | cxVld n => exact execCxVld_keeps (h.mono (by decide)) hs
  | cxMld n => exact execCxMld_keeps (h.mono (by decide)) hs
  | cxVst n => exact execCxVst_keeps (h.mono (by decide)) hs
  | cxVext n => exact execCxVext_keeps (h.mono (by decide)) hs
  | cxVins n => exact execCxVins_keeps (h.mono (by decide)) hs
  | cxSincos n => exact execCxSincos_keeps (h.mono (by decide)) hs
  | cxRot n => exact execCxRot_keeps (h.mono (by decide)) hs
  | cxRsqrt n => exact execCxRsqrt_keeps (h.mono (by decide)) hs
  | cxFclmp n => exact execCxFclmp_keeps (h.mono (by decide)) hs
  | cxSadd n => exact execCxSadd_keeps (h.mono (by decide)) hs
  | cxSsub n => exact execCxSsub_keeps (h.mono (by decide)) hs
  | cxSatn n => exact execCxSatn_keeps (h.mono (by decide)) hs
  | cxDuty n => exact execCxDuty_keeps (h.mono (by decide)) hs
  | cxWait n => exact execCxWait_keeps (h.mono (by decide)) hs
  | cxDone n => exact execCxDone_keeps (h.mono (by decide)) hs
  | cxMbtake n => exact execCxMbtake_keeps (h.mono (by decide)) hs
  | cxLgrd n => exact execCxLgrd_keeps (h.mono (by decide)) hs
  | cxLgwr n => exact execCxLgwr_keeps (h.mono (by decide)) hs
  | cxWtime n => exact execCxWtime_keeps (h.mono (by decide)) hs
  | cxXwr n => exact execCxXwr_keeps (h.mono (by decide)) hs
  | cxXrd n => exact execCxXrd_keeps (h.mono (by decide)) hs
  | posRawTransition n levels => exact execPosRawTransition_keeps (h.mono (by decide)) hs
  | posTminExpiry n => exact execPosTminExpiry_keeps (h.mono (by decide)) hs
  | pcmpPulseEnd n => exact execPcmpPulseEnd_keeps (h.mono (by decide)) hs
  | posStandstill n => exact execPosStandstill_keeps (h.mono (by decide)) hs
  | posCntWrite ini n val => exact execPosCntWrite_keeps (h.mono (by decide)) hs
  | posCmpRestart ini n val => exact execPosCmpRestart_keeps (h.mono (by decide)) hs
  | sentFrame ix stamp cal status data crc pause lost => exact execSentFrame_keeps (h.mono (by decide)) hs
  | ssiTrigger ix ev => exact execSsiTrigger_keeps (h.mono (by decide)) hs
  | ssiFrame ix bits lost => exact execSsiFrame_keeps (h.mono (by decide)) hs
  | posFrameTimeout n => exact execPosFrameTimeout_keeps (h.mono (by decide)) hs
  | posgLock ini val => exact execPosgLock_keeps (h.mono (by decide)) hs
  | resPeriodUpdate n exc => exact execResPeriodUpdate_keeps (h.mono (by decide)) hs
  | ledgerCycle => exact execLedgerCycle_keeps (h.mono (by decide)) hs
  | ledgerPublish => exact execLedgerPublish_keeps (h.mono (by decide)) hs
  | lgcBatlimWrite ini val => exact execLgcBatlimWrite_keeps (h.mono (by decide)) hs
  | battLimitTimeout => exact execBattLimitTimeout_keeps (h.mono (by decide)) hs
  | lgcLock ini val => exact execLgcLock_keeps (h.mono (by decide)) hs
  | steerCompute => exact execSteerCompute_keeps (h.mono (by decide)) hs
  | actPrecheckEnd n => exact execActPrecheckEnd_keeps (h.mono (by decide)) hs
  | actDwellEnd n => exact execActDwellEnd_keeps (h.mono (by decide)) hs
  | actRelaxEnd n => exact execActRelaxEnd_keeps (h.mono (by decide)) hs
  | actSeqTimeout n => exact execActSeqTimeout_keeps (h.mono (by decide)) hs
  | actStall n => exact execActStall_keeps (h.mono (by decide)) hs
  | actBusuv n v held => exact execActBusuv_keeps (h.mono (by decide)) hs
  | sealRead d0 d1 d2 u0 u1 u2 => exact execSealRead_keeps (h.mono (by decide)) hs
  | badgerClockCheck => exact execBadgerClockCheck_keeps (h.mono (by decide)) hs
  | latchSelfCheck => exact execLatchSelfCheck_keeps (h.mono (by decide)) hs
  | hsmAck ini val => exact execHsmAck_keeps (h.mono (by decide)) hs
  | sinAccept ch => exact execSinAccept_keeps (h.mono (by decide)) hs
  | sinDiscrepancy ix => exact execSinDiscrepancy_keeps (h.mono (by decide)) hs
  | bspdEdge ch => exact execBspdEdge_keeps (h.mono (by decide)) hs
  | bspdSpeedTimeout ch => exact execBspdSpeedTimeout_keeps (h.mono (by decide)) hs
  | bspdPlausibility m => exact execBspdPlausibility_keeps (h.mono (by decide)) hs
  | badgerEvaluation => exact execBadgerEvaluation_keeps (h.mono (by decide)) hs
  | ss1Timeout => exact execSs1Timeout_keeps (h.mono (by decide)) hs
  | hsmEnable ini mask => exact execHsmEnable_keeps (h.mono (by decide)) hs
  | hsmRelease ini mask => exact execHsmRelease_keeps (h.mono (by decide)) hs
  | hsmSs1 ini => exact execHsmSs1_keeps (h.mono (by decide)) hs
  | hsmSto ini => exact execHsmSto_keeps (h.mono (by decide)) hs
  | hsmRestart ini => exact execHsmRestart_keeps (h.mono (by decide)) hs
  | wdQuestion n => exact execWdQuestion_keeps (h.mono (by decide)) hs
  | wdAnswer ini n val => exact execWdAnswer_keeps (h.mono (by decide)) hs
  | stoReadback forced good => exact execStoReadback_keeps (h.mono (by decide)) hs
  | scComparison core p => exact execScComparison_keeps (h.mono (by decide)) hs
  | scResyncEnd core => exact execScResyncEnd_keeps (h.mono (by decide)) hs
  | scAmoCompare core op p held => exact execScAmoCompare_keeps (h.mono (by decide)) hs
  | scMemoryAccess core thread acc user fab pc => exact execScMemoryAccess_keeps (h.mono (by decide)) hs
  | postedStoreError core thread pc => exact execPostedStoreError_keeps (h.mono (by decide)) hs
  | scInterruptEntry core thread k pc handler sp saved wr fetch icnt => exact execScInterruptEntry_keeps (h.mono (by decide)) hs
  | puLock ini u val => exact execPuLock_keeps (h.mono (by decide)) hs
  | mramBlockWrite => exact execMramBlockWrite_keeps (h.mono (by decide)) hs
  | sramScrub res w => exact execSramScrub_keeps (h.mono (by decide)) hs
  | dmaStart ini c val => exact execDmaStart_keeps (h.mono (by decide)) hs
  | dmaResume ini c val => exact execDmaResume_keeps (h.mono (by decide)) hs
  | dmaAbort ini c val => exact execDmaAbort_keeps (h.mono (by decide)) hs
  | dmaRequest c => exact execDmaRequest_keeps (h.mono (by decide)) hs
  | dmaBlock rd wr => exact execDmaBlock_keeps (h.mono (by decide)) hs
  | stuLock ini val => exact execStuLock_keeps (h.mono (by decide)) hs
  | kcpFrameReceive t peer frame => exact execKcpFrameReceive_keeps (h.mono (by decide)) hs
  | kcpReassemblyTimeout ix => exact execKcpReassemblyTimeout_keeps (h.mono (by decide)) hs
  | hspiWrite bytes => exact execHspiWrite_keeps (h.mono (by decide)) hs
  | hspiRead n => exact execHspiRead_keeps (h.mono (by decide)) hs
  | hspiStatus => exact execHspiStatus_keeps (h.mono (by decide)) hs
  | openSession t peer seq tag pay => exact execOpenSession_keeps (h.mono (by decide)) hs
  | close q => exact execClose_keeps (h.mono (by decide)) hs
  | renew q => exact execRenew_keeps (h.mono (by decide)) hs
  | leaseExpiry ctx => exact execLeaseExpiry_keeps (h.mono (by decide)) hs
  | kcpQueueDepart k => exact execKcpQueueDepart_keeps (h.mono (by decide)) hs
  | kcpDeadlineExpiry ctx seq => exact execKcpDeadlineExpiry_keeps (h.mono (by decide)) hs
  | kcpNotify ctx k => exact execKcpNotify_keeps (h.mono (by decide)) hs
  | customerOpcode op cls q => exact execCustomerOpcode_keeps (h.mono (by decide)) hs
  | mbxDone ini m val => exact execMbxDone_keeps (h.mono (by decide)) hs
  | mbxTimeout m slot => exact execMbxTimeout_keeps (h.mono (by decide)) hs
  | kcpLock ini val => exact execKcpLock_keeps (h.mono (by decide)) hs
  | setptDrvA q => exact execSetptDrvA_keeps (h.mono (by decide)) hs
  | setptDrvB q => exact execSetptDrvB_keeps (h.mono (by decide)) hs
  | setptWhtA q => exact execSetptWhtA_keeps (h.mono (by decide)) hs
  | setptWhtB q => exact execSetptWhtB_keeps (h.mono (by decide)) hs
  | setptBch q => exact execSetptBch_keeps (h.mono (by decide)) hs
  | setptChg q => exact execSetptChg_keeps (h.mono (by decide)) hs
  | setptDcd q => exact execSetptDcd_keeps (h.mono (by decide)) hs
  | cfgWrite q => exact execCfgWrite_keeps (h.mono (by decide)) hs
  | cfgRead q => exact execCfgRead_keeps (h.mono (by decide)) hs
  | policyWrite q => exact execPolicyWrite_keeps (h.mono (by decide)) hs
  | policyRead q => exact execPolicyRead_keeps (h.mono (by decide)) hs
  | osdStart q => exact execOsdStart_keeps (h.mono (by decide)) hs
  | osdResult q => exact execOsdResult_keeps (h.mono (by decide)) hs
  | stageStatus q => exact execStageStatus_keeps (h.mono (by decide)) hs
  | regRead q => exact execRegRead_keeps (h.mono (by decide)) hs
  | thermalStatus q => exact execThermalStatus_keeps (h.mono (by decide)) hs
  | safetyStatus q => exact execSafetyStatus_keeps (h.mono (by decide)) hs
  | captureStart q => exact execCaptureStart_keeps (h.mono (by decide)) hs
  | captureComplete unit => exact execCaptureComplete_keeps (h.mono (by decide)) hs
  | captureRead q => exact execCaptureRead_keeps (h.mono (by decide)) hs
  | forceCold q => exact execForceCold_keeps (h.mono (by decide)) hs
  | actSeq q => exact execActSeq_keeps (h.mono (by decide)) hs
  | actAbort q => exact execActAbort_keeps (h.mono (by decide)) hs
  | actStatus q => exact execActStatus_keeps (h.mono (by decide)) hs
  | battLimits q => exact execBattLimits_keeps (h.mono (by decide)) hs
  | chgStatus q => exact execChgStatus_keeps (h.mono (by decide)) hs
  | logRead q => exact execLogRead_keeps (h.mono (by decide)) hs
  | fwBegin q => exact execFwBegin_keeps (h.mono (by decide)) hs
  | fwData q => exact execFwData_keeps (h.mono (by decide)) hs
  | fwEnd q => exact execFwEnd_keeps (h.mono (by decide)) hs
  | fwVerifyDone ok prod version epoch => exact execFwVerifyDone_keeps (h.mono (by decide)) hs
  | fwSelect q => exact execFwSelect_keeps (h.mono (by decide)) hs
  | fwInfo q => exact execFwInfo_keeps (h.mono (by decide)) hs
  | timeGet q => exact execTimeGet_keeps (h.mono (by decide)) hs
  | timeDisc q => exact execTimeDisc_keeps (h.mono (by decide)) hs
  | timeMaster q => exact execTimeMaster_keeps (h.mono (by decide)) hs
  | canInitSet ini n val busy => exact execCanInitSet_keeps (h.mono (by decide)) hs
  | canInitClear ini n val => exact execCanInitClear_keeps (h.mono (by decide)) hs
  | canBusIntegration n => exact execCanBusIntegration_keeps (h.mono (by decide)) hs
  | canFrameReceive n f sof => exact execCanFrameReceive_keeps (h.mono (by decide)) hs
  | canRxfGet ini n k val => exact execCanRxfGet_keeps (h.mono (by decide)) hs
  | canRxdmaRead ini n => exact execCanRxdmaRead_keeps (h.mono (by decide)) hs
  | canTxdmaWrite ini n val sof => exact execCanTxdmaWrite_keeps (h.mono (by decide)) hs
  | canTxreq ini n val sof => exact execCanTxreq_keeps (h.mono (by decide)) hs
  | canTxcncl ini n val sof => exact execCanTxcncl_keeps (h.mono (by decide)) hs
  | canTxEnd n kp res sof => exact execCanTxEnd_keeps (h.mono (by decide)) hs
  | canRecover ini n val => exact execCanRecover_keeps (h.mono (by decide)) hs
  | canBusoffRecovered n => exact execCanBusoffRecovered_keeps (h.mono (by decide)) hs
  | canOpmodeChange n => exact execCanOpmodeChange_keeps (h.mono (by decide)) hs
  | canTimeReference sof => exact execCanTimeReference_keeps (h.mono (by decide)) hs
  | ethLinkChange k up sqi => exact execEthLinkChange_keeps (h.mono (by decide)) hs
  | ethFrameReceive k bytes stamp room => exact execEthFrameReceive_keeps (h.mono (by decide)) hs
  | ethAppTransmit room => exact execEthAppTransmit_keeps (h.mono (by decide)) hs
  | ethAddressAgeout mac => exact execEthAddressAgeout_keeps (h.mono (by decide)) hs
  | t1sTransmitOpportunity beacon => exact execT1sTransmitOpportunity_keeps (h.mono (by decide)) hs
  | gptpMessage k msg => exact execGptpMessage_keeps (h.mono (by decide)) hs
  | ethLock ini val => exact execEthLock_keeps (h.mono (by decide)) hs
  | aslOpen core desc blk reopen => exact execAslOpen_keeps (h.mono (by decide)) hs
  | aslServicePass core placed sof => exact execAslServicePass_keeps (h.mono (by decide)) hs
  | vmainLoss ovlo v => exact execVmainLoss_keeps (h.mono (by decide)) hs
  | switchOverComplete => exact execSwitchOverComplete_keeps (h.mono (by decide)) hs
  | vmainReturn lo hi => exact execVmainReturn_keeps (h.mono (by decide)) hs
  | flybackStart v => exact execFlybackStart_keeps (h.mono (by decide)) hs
  | flybackReady => exact execFlybackReady_keeps (h.mono (by decide)) hs
  | flybackDrop cause v => exact execFlybackDrop_keeps (h.mono (by decide)) hs
  | collapseSwitchOff => exact execCollapseSwitchOff_keeps (h.mono (by decide)) hs
  | supLock ini val => exact execSupLock_keeps (h.mono (by decide)) hs
  | pdcReqWrite ini val => exact execPdcReqWrite_keeps (h.mono (by decide)) hs
  | supStby ini val => exact execSupStby_keeps (h.mono (by decide)) hs
  | wakePad level => exact execWakePad_keeps (h.mono (by decide)) hs
  | wakeTimer => exact execWakeTimer_keeps (h.mono (by decide)) hs
  | wakePlug => exact execWakePlug_keeps (h.mono (by decide)) hs
  | wakeCan bus => exact execWakeCan_keeps (h.mono (by decide)) hs
  | powerCycle => exact execPowerCycle_keeps (h.mono (by decide)) hs
  | syscRstCold ini val => exact execSyscRstCold_keeps (h.mono (by decide)) hs
  | syscRstWarm ini val => exact execSyscRstWarm_keeps (h.mono (by decide)) hs
  | hkHeartbeatLoss => exact execHkHeartbeatLoss_keeps (h.mono (by decide)) hs
  | startBegin v => exact execStartBegin_keeps (h.mono (by decide)) hs
  | startStep ok alt => exact execStartStep_keeps (h.mono (by decide)) hs
  | startTimeout => exact execStartTimeout_keeps (h.mono (by decide)) hs
  | startRetry => exact execStartRetry_keeps (h.mono (by decide)) hs
  | lifecycleUnlock valid => exact execLifecycleUnlock_keeps (h.mono (by decide)) hs
  | debugHalt core thread => exact execDebugHalt_keeps (h.mono (by decide)) hs
  | thermalShutdownSwitchoff => exact execThermalShutdownSwitchoff_keeps (h.mono (by decide)) hs
  | thmLock ini val => exact execThmLock_keeps (h.mono (by decide)) hs
  | t1sFrameReceive bytes stamp => exact execT1sFrameReceive_keeps (h.mono (by decide)) hs
  | canReceiveError n eight => exact execCanReceiveError_keeps (h.mono (by decide)) hs
  | vmainUsable v => exact execVmainUsable_keeps (h.mono (by decide)) hs
  | vhvOvervoltage v => exact execVhvOvervoltage_keeps (h.mono (by decide)) hs
  | wmEnable ini m val => exact execWmEnable_keeps (h.mono (by decide)) hs
  | sinPadChange ch level => exact execSinPadChange_keeps (h.mono (by decide)) hs
  | bspdPadChange ch level => exact execBspdPadChange_keeps (h.mono (by decide)) hs
  | adcClockReturn => exact execAdcClockReturn_keeps (h.mono (by decide)) hs

end Sys2Proof.Machine
end

