-- ==== Sys2Proof/WellFormed.lean ====
section
/-! DEFINITION. Which commands can come to the device: the sizes that the spec gives their operands. -/

namespace Sys2Proof

/-- A message's payload has at most 4,096 bytes (R351). -/
def Req.wf (q : Req) : Bool := decide (q.pay.length ≤ 4096)

/-- After three failed re-sends the access ends (R333). -/
def FabRes.wf : FabRes → Bool
  | .ok r _ => decide (r ≤ 3)
  | .resendsOut => true
  | .uncorrectable => true

/-- A load or store moves 1, 2, 4 or 8 bytes. -/
def ScAcc.wf : ScAcc → Bool
  | .load _ n => [1, 2, 4, 8].any (fun k => k == n.val)
  | .store _ d => [1, 2, 4, 8].any (fun k => k == d.length)
  | .fetch _ => true

/-- Each copy of a core presents its write or its signature: two or three of them (R320). -/
def CmpPoint.wf (p : CmpPoint) : Bool :=
  p.write.all (fun l => (l.length == 2 || l.length == 3) && l.all (fun x => decide (x.data.length ≤ 64)))
  && p.sig.all (fun l => l.length == 2 || l.length == 3)

/-- A frame carries what its format can carry: at most 8 bytes classical, a length that the DLC codes in FD, 1 to 2,048 bytes in
XL; only a classical frame is remote, and a base identifier has 11 bits (R401). -/
def CanFrame.wf (f : CanFrame) : Bool :=
  (if f.fmt == 0 then decide (f.data.length ≤ 8)
   else if f.fmt == 1 then
     decide (f.data.length ≤ 8) || [12, 16, 20, 24, 32, 48, 64].any (fun n => n == f.data.length)
   else decide (1 ≤ f.data.length) && decide (f.data.length ≤ 2048))
  && (!f.rtr || f.fmt == 0)
  && (f.xtd || decide (f.id.toNat < 2048))

/-- The largest frame of a transport (R353). -/
def frameMax (t : Fin 12) : Nat := if t.val < 3 then 1472 else if t.val < 7 then 64 else if t.val < 11 then 2048 else 4120

/-- The command's operands have sizes that the spec allows. -/
def Instr.wf : Instr → Bool
  | .modeEnter q => q.wf
  | .modeExit q => q.wf
  | .modeStatus q => q.wf
  | .ceInstruction _ fab => fab.wf
  | .sentFrame _ _ cal _ data _ _ _ => decide (data.length ≤ 6) && decide (0 < cal)
  | .scComparison _ p => p.wf
  | .scAmoCompare _ _ p _ => p.wf
  | .scMemoryAccess _ _ acc _ fab _ => acc.wf && fab.wf
  | .scInterruptEntry _ _ _ _ _ _ saved wr fetch _ => saved.length == 14 && wr.wf && fetch.wf
  | .sramScrub res _ => res.wf
  | .dmaBlock rd wr => rd.wf && wr.wf
  | .kcpFrameReceive t _ frame => decide (frame.length ≤ frameMax t)
  | .hspiWrite bytes => decide (bytes.length ≤ 4124)
  | .openSession _ _ _ tag pay => tag.all (fun m => m.length == 8) && decide (pay.length ≤ 4096)
  | .close q => q.wf
  | .renew q => q.wf
  | .customerOpcode _ _ q => q.wf
  | .setptDrvA q => q.wf
  | .setptDrvB q => q.wf
  | .setptWhtA q => q.wf
  | .setptWhtB q => q.wf
  | .setptBch q => q.wf
  | .setptChg q => q.wf
  | .setptDcd q => q.wf
  | .cfgWrite q => q.wf
  | .cfgRead q => q.wf
  | .policyWrite q => q.wf
  | .policyRead q => q.wf
  | .osdStart q => q.wf
  | .osdResult q => q.wf
  | .stageStatus q => q.wf
  | .regRead q => q.wf
  | .thermalStatus q => q.wf
  | .safetyStatus q => q.wf
  | .captureStart q => q.wf
  | .captureRead q => q.wf
  | .forceCold q => q.wf
  | .actSeq q => q.wf
  | .actAbort q => q.wf
  | .actStatus q => q.wf
  | .battLimits q => q.wf
  | .chgStatus q => q.wf
  | .logRead q => q.wf
  | .fwBegin q => q.wf
  | .fwData q => q.wf
  | .fwEnd q => q.wf
  | .fwSelect q => q.wf
  | .fwInfo q => q.wf
  | .timeGet q => q.wf
  | .timeDisc q => q.wf
  | .timeMaster q => q.wf
  | .canFrameReceive _ f _ => f.wf
  | .ethFrameReceive _ bytes _ _ => decide (bytes.length ≤ 1518)
  | .aslServicePass _ placed _ => placed.all (fun p => decide (p.data.length ≤ 64))
  | .t1sFrameReceive bytes _ => decide (bytes.length ≤ 1518)
  | .registerWrite .. | .cecLock .. | .fabricTcmAccess .. | .wordArrival .. | .instanceRampEnd .. |
    .stageSwitchingReport .. | .stageStartTimeout .. | .ascHoldEnd .. | .hldHoldsEnd | .setptTimeout .. |
    .dcdVminTimeout | .prkDwellExpiry | .plugDetLevel .. | .plugDebounced | .mdmPolicyWrite .. | .mdmLock .. |
    .pllbLockLoss | .pllaLockLoss | .tbLoRead .. | .tbCtrlWrite .. | .evlRecordWrite | .pwmZeroBoundary .. |
    .pwmPeakBoundary .. | .pwmShadowWrite .. | .pwmgCommit .. | .pwmgStart .. | .pwmCtrlRun .. | .pwmCtrlStop .. |
    .pwmCompareEdge .. | .pwmDeadtimeEnd .. | .pwmMinpulseEnd .. | .pwmCmpcCmpd .. | .pwmForce .. |
    .pwmTripActive .. | .pwmTripclr .. | .pwmSynci .. | .pwmTapCalibration .. | .gateCommandEdge .. | .ginEdge .. |
    .keepaliveLoss .. | .linkResume .. | .edgePhaseEnd .. | .gdProfileWrite .. | .edgeMeasured .. | .gdLoopWrite .. |
    .biasRegulationReached .. | .gdgLock .. | .bootRefreshStart .. | .bootRefreshStep .. | .bootUndervoltage .. |
    .gdBuvClear .. | .didtArm .. | .didtDetect .. | .dsatBlankEnd .. | .dsatDetect .. | .softTurnoffEnd .. |
    .pfltClear .. | .millerClampEngage .. | .railUndervoltage .. | .scgAscDelayEnd .. | .scgClr .. |
    .osdctrlStart .. | .osdBiasReady | .osdctrlAbort .. | .osdStepEnd .. | .adSeqWrite .. | .adSeqApply .. |
    .adcClockLoss | .adgLock .. | .vdcUpdate | .wuOpenEvent .. | .wugSwtrig .. | .wuOpen .. | .wuCloseEvent .. |
    .wuClose .. | .wuOpenTimeout .. | .wuFinalise .. | .wuResultPublish .. | .wuRes0Read .. | .wuDisable .. |
    .capStart .. | .capStop .. | .capLenReached .. | .hkChannelEnd | .hkRoundEnd | .wmComparatorChange .. |
    .wmFirstEvaluation .. | .wmThWrite .. | .wmDisable .. | .wmStrobe .. | .wmStrobeLoss .. | .foxFilterAccept .. |
    .tripInEdge .. | .trnRouteWrite .. | .trnLock .. | .wmgLock .. | .ceStoreBusError .. | .ceHalt .. | .ceRun .. |
    .ceRestart .. | .ceWake .. | .ceDoorbell .. | .ceTriggerSetWrite .. | .ceDeadlineMiss .. | .ceEscClear .. |
    .cxMv .. | .cxVadd .. | .cxVsub .. | .cxVscl .. | .cxVld .. | .cxMld .. | .cxVst .. | .cxVext .. | .cxVins .. |
    .cxSincos .. | .cxRot .. | .cxRsqrt .. | .cxFclmp .. | .cxSadd .. | .cxSsub .. | .cxSatn .. | .cxDuty .. |
    .cxWait .. | .cxDone .. | .cxMbtake .. | .cxLgrd .. | .cxLgwr .. | .cxWtime .. | .cxXwr .. | .cxXrd .. |
    .posRawTransition .. | .posTminExpiry .. | .pcmpPulseEnd .. | .posStandstill .. | .posCntWrite .. |
    .posCmpRestart .. | .ssiTrigger .. | .ssiFrame .. | .posFrameTimeout .. | .posgLock .. | .resPeriodUpdate .. |
    .ledgerCycle | .ledgerPublish | .lgcBatlimWrite .. | .battLimitTimeout | .lgcLock .. | .steerCompute |
    .actPrecheckEnd .. | .actDwellEnd .. | .actRelaxEnd .. | .actSeqTimeout .. | .actStall .. | .actBusuv .. |
    .sealRead .. | .badgerClockCheck | .latchSelfCheck | .hsmAck .. | .sinAccept .. | .sinDiscrepancy .. |
    .bspdEdge .. | .bspdSpeedTimeout .. | .bspdPlausibility .. | .badgerEvaluation | .ss1Timeout | .hsmEnable .. |
    .hsmRelease .. | .hsmSs1 .. | .hsmSto .. | .hsmRestart .. | .wdQuestion .. | .wdAnswer .. | .stoReadback .. |
    .scResyncEnd .. | .postedStoreError .. | .puLock .. | .mramBlockWrite | .dmaStart .. | .dmaResume .. |
    .dmaAbort .. | .dmaRequest .. | .stuLock .. | .kcpReassemblyTimeout .. | .hspiRead .. | .hspiStatus |
    .leaseExpiry .. | .kcpQueueDepart .. | .kcpDeadlineExpiry .. | .kcpNotify .. | .mbxDone .. | .mbxTimeout .. |
    .kcpLock .. | .captureComplete .. | .fwVerifyDone .. | .canInitSet .. | .canInitClear .. | .canBusIntegration .. |
    .canRxfGet .. | .canRxdmaRead .. | .canTxdmaWrite .. | .canTxreq .. | .canTxcncl .. | .canTxEnd .. |
    .canRecover .. | .canBusoffRecovered .. | .canOpmodeChange .. | .canTimeReference .. | .ethLinkChange .. |
    .ethAppTransmit .. | .ethAddressAgeout .. | .t1sTransmitOpportunity .. | .gptpMessage .. | .ethLock .. |
    .aslOpen .. | .vmainLoss .. | .switchOverComplete | .vmainReturn .. | .flybackStart .. | .flybackReady |
    .flybackDrop .. | .collapseSwitchOff | .supLock .. | .pdcReqWrite .. | .supStby .. | .wakePad .. | .wakeTimer |
    .wakePlug | .wakeCan .. | .powerCycle | .syscRstCold .. | .syscRstWarm .. | .hkHeartbeatLoss | .startBegin .. |
    .startStep .. | .startTimeout | .startRetry | .lifecycleUnlock .. | .debugHalt .. | .thermalShutdownSwitchoff |
    .thmLock .. | .canReceiveError .. | .vmainUsable .. | .vhvOvervoltage .. | .wmEnable .. | .sinPadChange .. |
    .bspdPadChange .. | .adcClockReturn => true

end Sys2Proof
end

