-- ==== Sys2Proof/Tests/Slice0.lean ====
section
/-! SUPPORT. Tests: a command that is not well formed for every check of WellFormed.lean, a state that meets the conditions of
every clause of the statements, and single steps. -/

namespace Sys2Proof.Machine

set_option Elab.async false

/-- Every domain on, both PLLs locked, a thousand ticks after D6 came on. -/
def wOn : State := { State.reset with on := 0x3FFF, pllA := true, pllB := true, cyc := 4000 }

/-- KP owns every PWM module. -/
def wPwm : State := (List.range 4).foldl (fun s k => s.wr (CEC_PWMOWN k) 0x99999999) wOn

/-- CE 2 owns modules 0-1; KP owns the others. -/
def wPwm2 : State := wPwm.wr (CEC_PWMOWN 0) 0x99999922

/-- Module 3 of KP counts up and down over 100 cycles and is at a zero boundary. -/
def wRun : State :=
  (((wPwm.wr (PWM_PRD_EFF 3) 100).put (PWM_CTRL_RUN 3) 1).put (PWM_CTRL_CNTMODE 3) 1).setPwm 3 { PwmMod.idle with zero := 4000 }

/-- Comparator 5, selected for trip input 2 of module 3, is active. -/
def wTrip : State := (wRun.put (TRN_SEL_SEL2 3) 5).setFox { wRun.fox with comp := 2 ^ 5 }

/-- An event waits in the writer queue. -/
def wEvl : State := wOn.setEvl { wOn.evl with queue := [⟨9000, 3, 5, 1, 0, false, false, []⟩] }

/-- Channel 6 is enabled and its PWM output is on. -/
def wGate : State := ((wOn.put (PWM_STATUS_OUTA 3) 1).put (GD_CFG_CH_EN 6) 1).put (GD_CFG_ILK_EN 6) 0

/-- Its rails are in regulation as well. -/
def wGateOn : State := wGate.put (GD_STATUS_BIASOK 6) 1

/-- The high side of bootstrap channel 44 is on. -/
def wBoot : State :=
  ((wOn.put (GD_BOOT_RF_EN 44) 1).put (GD_STATUS_GATE 44) 1).setGate 44 { GateCh.idle with drv := true }

/-- Legs 3 and 4 may be tested. -/
def wOsd : State :=
  ([6, 7, 8, 9].foldl (fun s g => s.put (GD_STATUS_BIASOK g) 1) (wOn.put GDG_OSDLEGS_LEGS 0x18)).put ADG_VDC_VDC 100

/-- Converter 3 runs and expects the word of slot 3. -/
def wAd : State :=
  (((wOn.put ADG_STATUS_LOCKED 1).put (AD_CFG_EN 3) 1).put (AD_STATUS_ACTIVE 3) 1).setLane 3 ⟨3, false, 0, none, []⟩

/-- The sample of edge n of the converter clock may arrive. -/
def wAdE (n : Nat) : State :=
  { wAd.setConv { wAd.conv with edges := [⟨n, 935, 993⟩] } with clk := { wAd.clk with now := 1000 } }

/-- The high comparator of monitor 5 runs with a threshold of 0 V. -/
def wWm : State := ((wOn.put (WM_CFG_EN_HI 5) 1).put (WM_CFG_MODE 5) 0).put (WM_TH_TH_HI 5) 512

/-- Control engine 2 with distinct register values. -/
def wCore : CeCore :=
  { CeCore.idle with x := (List.range 32).map (fun i => if i == 0 then 0 else BitVec.ofNat 32 (0x20000 + 24 * i))
                     f := (List.range 32).map (fun i => BitVec.ofNat 32 (0x3F800000 + i * 0x100000))
                     v := (List.range 8).map (fun i => (List.range 6).map (fun j => BitVec.ofNat 32 (0x3F800000 + i * 0x90000 + j * 0x10000)))
                     m := (List.range 4).map (fun i => (List.range 36).map (fun j => BitVec.ofNat 32 (0x3F800000 + i * 0x90000 + j * 0x10000))) }

/-- Control engine 2 executes a word. -/
def wCe (w : Nat) : State :=
  ((wOn.put (CE_STATUS_STATE 2) 2).wrMem32 0x30080000 (BitVec.ofNat 32 w)).setCe 2 wCore

/-- Position channel 3 is enabled with a quadrature source. -/
def wPos : State := (wOn.put (POS_CFG_EN 3) 1).put (POS_CFG_SRC 3) 0

/-- Core 1 is Paired, Badger has run for 6,000 ticks and is in its first state. -/
def wBad : State :=
  ((((wOn.put (SCC_MODE_MODE 1) 1).put HSM_SIN_DEM 0).put HSM_STATUS_STATE 0)).setBadger { Badger.idle with tick := 6000 }

/-- Core 1 is Paired and core 2 Voted; every copy runs. -/
def wSc : State :=
  ((((((((wOn.put (SCC_MODE_MODE 1) 1).put (SCC_MODE_MODE 2) 2).put (SCC_STAT_STATE 1) 1).put (SCC_STAT_STATE 2) 1).put
    (SCC_RDBASE_BASE 1) 0x2010).put (SCC_IMGB_BASE 1) 0x2020).put (SCC_RDBASE_BASE 2) 0x2030).setScc 1
    { ScCore.idle with order := [0, 1] }).setScc 2 { ScCore.idle with order := [0, 1, 2] }

/-- Core 0 is Split and its thread 1 runs. -/
def wScSplit : State := (wSc.put (SCC_MODE_MODE 0) 0).put (SCC_STAT_STATE 0) 1

/-- DMA channel 3 moves 256 bytes from SRAM to SRAM, without stream translation. -/
def wDma : State :=
  ((((wOn.put STU_CTRL_BYPASS 1).wr (DMA_SRC 3) 0x20010000).wr (DMA_DST 3) 0x20020000).wr (DMA_LEN 3) 256).wr (DMA_CFG 3) 0xFF00F003

/-- A session of an Ethernet peer that is granted every class. -/
def wCtx : Ctx := ⟨7, true, false, 0, 9, 3, none, 0x3F, 1000, 10 ^ 8, 10, [(10, 0)], 1, false, []⟩

/-- A request of that session. -/
def wReq (pay : List Byte) : Req := ⟨5, 11, pay⟩

/-- KP runs, and the session is open as context 5. -/
def wKp : State := (wOn.setStart { wOn.start with kp := true }).setKcp { Kcp.idle with ctxs := [(5, wCtx)] }

/-- A request of wKp's session waits in the queue of C4. -/
def wWaits (n : Nat) : State :=
  wKp.setQueue 4 ((List.range n).map (fun i => ⟨⟨0x507, 0, 9, none, 20 + i, 0x0203, 4, 0⟩, 900, none, [0]⟩))

/-- The first part of a message of 1,536 bytes on that session, and what is kept of the message before it. -/
def wFirst : List Byte := [0xA5, 2, 5, 7, 2, 3, 0, 11, 0x24, 0, 6, 0, 0, 0, 0, 0] ++ List.replicate 1456 0
def wReasm : Reasm := ⟨5, [0xA5, 2, 5, 7, 2, 3, 0, 11, 4, 0, 6, 0], [], 0⟩

/-- Both motors stand still on their resolvers, and every position channel is valid. -/
def wStill : State :=
  (List.range 8).foldl (fun s p => s.put (POS_STATUS_PVALID p) 1) ((wKp.put (RES_STATUS_PVALID 0) 1).put (RES_STATUS_PVALID 1) 1)

/-- WHT of motor A is active, with no request pending. -/
def wWht : State := (wKp.put MDM_ACTIVE_ACTIVE 0x80).setModes { Modes.idle with owner := Modes.idle.owner.set 7 (some 0x507) }

/-- CAN controller 2 is on the bus; its area has 4 transmit buffers and 8 elements in each FIFO. -/
def wCan : State :=
  ((((wOn.put (CAN_CTRL_INIT 2) 0).put (CAN_RAM_NTX 2) 4).put (CAN_RAM_NF0 2) 8).put (CAN_RAM_NF1 2) 8).setCan 2 { Can.idle with live := 2 }

/-- A classical CAN frame. -/
def wFrame : CanFrame := ⟨0x123, false, false, false, 0, false, false, 0, 0, 0, [1, 2, 3]⟩

/-- Both Ethernet ports are up, and VLAN 1 has every port. -/
def wEth : State :=
  [0, 1].foldl (fun s k => (s.put (ETHP_CFG_EN k) 1).put (ETHP_STAT_LINK k) 1)
    ((((wOn.put (ETHSW_VLAN_EN 0) 1).put (ETHSW_VLAN_VID 0) 1).put (ETHSW_VLAN_MEMB 0) 7).put (ETHSW_VLAN_UNTAG 0) 7)

/-- A broadcast frame of 60 bytes. -/
def wBytes : List Byte := List.replicate 6 0xFF ++ [2, 0, 0, 0, 0, 1, 0x12, 0x34] ++ List.replicate 46 0

/-- The descriptor of an RX connection of CAN FD, 8 data bytes, 100 ms. -/
def wDesc : BitVec 256 := BitVec.ofNat 256 (0xABCD1234 + 2 ^ 40 + 8 * 2 ^ 56 + 0x321 * 2 ^ 64 + 100 * 2 ^ 112 + 3 * 2 ^ 128 + 5 * 2 ^ 144)

/-- An RX connection of core 1 with that descriptor, opened at tick 0. -/
def wConn : AslConn := ⟨1, wDesc, 0x20001000, 1, 0, 0, 0, 0, 0, 0, 0, some 0, [], true, 0, [], 0, false, false, none⟩

/-- One of another identity. -/
def wConnOther : AslConn := { wConn with desc := wDesc + 1 }

/-- A TX connection of core 1 by UDP with 8 data bytes, before its first data unit. -/
def wConnTx : AslConn :=
  ⟨1, BitVec.ofNat 256 (0xABCD1234 + 2 ^ 32 + 3 * 2 ^ 40 + 8 * 2 ^ 56 + 0x0A000001 * 2 ^ 64 + 5000 * 2 ^ 96 + 100 * 2 ^ 112 + 5 * 2 ^ 144),
   0x20001000, 2, 0, 0, 0, 0, 0, 0, 0, none, [], true, 7, [1, 2, 3, 4, 5, 6, 7, 8], 0, false, false, none⟩

/-- The same by CAN FD on bus 2. -/
def wConnCan (b : Option Nat) : AslConn :=
  { wConnTx with desc := BitVec.ofNat 256 (0xABCD1234 + 2 ^ 32 + 2 ^ 40 + 2 * 2 ^ 48 + 8 * 2 ^ 56 + 0x321 * 2 ^ 64 + 100 * 2 ^ 112 + 5 * 2 ^ 144), buf := b }

/-- The results of a ledger cycle. -/
def wLgr : List LgRes := (List.range 8).map (fun e => ⟨BitVec.ofNat 32 e, 1, 2, 0x80000100⟩)

theorem wOn_inv : wOn.Inv :=
  ⟨by decide, by decide, by decide, ⟨by decide, by decide, by decide, by decide, by decide, by decide, by decide, by decide,
    by simp [wOn, State.reset, Conv.idle, Conv.Shaped], by simp [wOn, State.reset, Badger.idle, Badger.Shaped],
    by simp [wOn, State.reset, PosBlk.idle, PosBlk.Shaped], by simp [wOn, State.reset, Dma.idle, Dma.Shaped],
    by simp [wOn, State.reset, Modes.idle, Modes.Shaped], by simp [wOn, State.reset, Kcp.idle, Kcp.Shaped],
    by simp [wOn, State.reset, Ledger.idle, Ledger.Shaped], by simp [wOn, State.reset, Start.idle, Start.Shaped]⟩⟩


theorem witness_step_takes_the_front_command :
    ((({ wOn with pending := [.ledgerCycle] }).pending = (.ledgerCycle : Sys2Proof.Instr) :: ([] : List Sys2Proof.Instr))) := by
  and_intros <;> decide +kernel

theorem witness_empty_queue_lets_an_instant_pass :
    ((wOn.pending = []))
    ∧ ((wOn.ticking = true))
    ∧ ((({ wOn with pllB := false }).isOn 6 = false ∨ ({ wOn with pllB := false }).pllB = false))
    ∧ ((({ wOn with clk := { wOn.clk with now := 20000, badgerAt := 19900, martenAt := 7000 } }).clk.martenAt + 12716 ≤ ({ wOn with clk := { wOn.clk with now := 20000, badgerAt := 19900, martenAt := 7000 } }).now))
    ∧ ((({ wOn with clk := { wOn.clk with now := 20000, badgerAt := 19900, martenAt := 9000 } }).now < ({ wOn with clk := { wOn.clk with now := 20000, badgerAt := 19900, martenAt := 9000 } }).clk.martenAt + 11736))
    ∧ ((({ wOn with clk := { wOn.clk with now := 20000, badgerAt := 19900, martenAt := 9000 } }).isOn 2 = false ∨ ({ wOn with clk := { wOn.clk with now := 20000, badgerAt := 19900, martenAt := 9000 } }).now < ({ wOn with clk := { wOn.clk with now := 20000, badgerAt := 19900, martenAt := 9000 } }).clk.badgerAt + 381)) := by
  and_intros <;> decide +kernel

theorem witness_every_step_keeps_the_invariant_0 : (wOn.Inv)
    ∧ (step wOn = .next (wOn.idle : State)) :=
  ⟨wOn_inv, by rfl⟩

theorem witness_commands_leave_other_parts_alone :
    (((.mem : Part) ∉ partsOf (.cecLock .kp 0 : Sys2Proof.Instr))) := by
  and_intros <;> decide +kernel

theorem witness_shadow_writes_wait_for_their_boundary :
    ((wRun.ticking = true)
    ∧ (wRun.pwm.length = 32)
    ∧ (wRun.pwmAtZero (3 : Fin 32).val = true)
    ∧ ((wRun.pwmOf (3 : Fin 32).val).lastZero ≠ some wRun.cyc)
    ∧ ((wRun.pwmOf (3 : Fin 32).val).start = false)
    ∧ (wRun.is (PWM_CTRL_CMTREQ (3 : Fin 32).val) = false))
    ∧ (((wRun.setPwm 3 { wRun.pwmOf 3 with start := true }).ticking = true)
    ∧ ((wRun.setPwm 3 { wRun.pwmOf 3 with start := true }).pwm.length = 32)
    ∧ ((wRun.setPwm 3 { wRun.pwmOf 3 with start := true }).pwmAtZero (3 : Fin 32).val = true)
    ∧ (((wRun.setPwm 3 { wRun.pwmOf 3 with start := true }).pwmOf (3 : Fin 32).val).lastZero ≠ some (wRun.setPwm 3 { wRun.pwmOf 3 with start := true }).cyc)
    ∧ (((wRun.setPwm 3 { wRun.pwmOf 3 with start := true }).pwmOf (3 : Fin 32).val).start = true))
    ∧ ((((wRun.put (PWM_CTRL_CMTREQ 3) 1).put (PWM_STATUS_CMTPEND 3) 1).ticking = true)
    ∧ (((wRun.put (PWM_CTRL_CMTREQ 3) 1).put (PWM_STATUS_CMTPEND 3) 1).pwm.length = 32)
    ∧ (((wRun.put (PWM_CTRL_CMTREQ 3) 1).put (PWM_STATUS_CMTPEND 3) 1).pwmAtZero (3 : Fin 32).val = true)
    ∧ ((((wRun.put (PWM_CTRL_CMTREQ 3) 1).put (PWM_STATUS_CMTPEND 3) 1).pwmOf (3 : Fin 32).val).lastZero ≠ some ((wRun.put (PWM_CTRL_CMTREQ 3) 1).put (PWM_STATUS_CMTPEND 3) 1).cyc)
    ∧ ((((wRun.put (PWM_CTRL_CMTREQ 3) 1).put (PWM_STATUS_CMTPEND 3) 1).pwmOf (3 : Fin 32).val).start = false)
    ∧ (((wRun.put (PWM_CTRL_CMTREQ 3) 1).put (PWM_STATUS_CMTPEND 3) 1).is (PWM_CTRL_CMTREQ (3 : Fin 32).val) = true)
    ∧ (((wRun.put (PWM_CTRL_CMTREQ 3) 1).put (PWM_STATUS_CMTPEND 3) 1).is (PWM_STATUS_CMTPEND (3 : Fin 32).val) = true))
    ∧ ((((wRun.put (PWM_CTRL_CMTREQ 3) 1).setPwm 3 { wRun.pwmOf 3 with owed := 5 }).ticking = true)
    ∧ (((wRun.put (PWM_CTRL_CMTREQ 3) 1).setPwm 3 { wRun.pwmOf 3 with owed := 5 }).pwm.length = 32)
    ∧ (((wRun.put (PWM_CTRL_CMTREQ 3) 1).setPwm 3 { wRun.pwmOf 3 with owed := 5 }).pwmAtZero (3 : Fin 32).val = true)
    ∧ ((((wRun.put (PWM_CTRL_CMTREQ 3) 1).setPwm 3 { wRun.pwmOf 3 with owed := 5 }).pwmOf (3 : Fin 32).val).lastZero ≠ some ((wRun.put (PWM_CTRL_CMTREQ 3) 1).setPwm 3 { wRun.pwmOf 3 with owed := 5 }).cyc)
    ∧ ((((wRun.put (PWM_CTRL_CMTREQ 3) 1).setPwm 3 { wRun.pwmOf 3 with owed := 5 }).pwmOf (3 : Fin 32).val).start = false)
    ∧ (((wRun.put (PWM_CTRL_CMTREQ 3) 1).setPwm 3 { wRun.pwmOf 3 with owed := 5 }).is (PWM_CTRL_CMTREQ (3 : Fin 32).val) = true)
    ∧ (((wRun.put (PWM_CTRL_CMTREQ 3) 1).setPwm 3 { wRun.pwmOf 3 with owed := 5 }).is (PWM_STATUS_CMTPEND (3 : Fin 32).val) = false))
    ∧ ((wPwm.pwmAtZero (3 : Fin 32).val = false ∨ wPwm.ticking = false))
    ∧ ((({ wRun with cyc := 4100 }).ticking = true)
    ∧ (({ wRun with cyc := 4100 }).pwm.length = 32)
    ∧ (({ wRun with cyc := 4100 }).pwmAtPeak (3 : Fin 32).val = true)
    ∧ ((({ wRun with cyc := 4100 }).pwmOf (3 : Fin 32).val).lastPeak ≠ some ({ wRun with cyc := 4100 }).cyc)
    ∧ (({ wRun with cyc := 4100 }).is (PWM_CTRL_CMTREQ (3 : Fin 32).val) = false)) := by
  and_intros <;> decide +kernel

theorem witness_shadow_writes_wait_for_their_boundary_part2 :
    ((((({ wRun with cyc := 4100 }.put (PWM_CTRL_CMTREQ 3) 1).put (PWM_STATUS_CMTPEND 3) 1).put (PWM_CTRL_LOADMODE 3) 2).ticking = true)
    ∧ (((({ wRun with cyc := 4100 }.put (PWM_CTRL_CMTREQ 3) 1).put (PWM_STATUS_CMTPEND 3) 1).put (PWM_CTRL_LOADMODE 3) 2).pwm.length = 32)
    ∧ (((({ wRun with cyc := 4100 }.put (PWM_CTRL_CMTREQ 3) 1).put (PWM_STATUS_CMTPEND 3) 1).put (PWM_CTRL_LOADMODE 3) 2).pwmAtPeak (3 : Fin 32).val = true)
    ∧ ((((({ wRun with cyc := 4100 }.put (PWM_CTRL_CMTREQ 3) 1).put (PWM_STATUS_CMTPEND 3) 1).put (PWM_CTRL_LOADMODE 3) 2).pwmOf (3 : Fin 32).val).lastPeak ≠ some ((({ wRun with cyc := 4100 }.put (PWM_CTRL_CMTREQ 3) 1).put (PWM_STATUS_CMTPEND 3) 1).put (PWM_CTRL_LOADMODE 3) 2).cyc)
    ∧ (((({ wRun with cyc := 4100 }.put (PWM_CTRL_CMTREQ 3) 1).put (PWM_STATUS_CMTPEND 3) 1).put (PWM_CTRL_LOADMODE 3) 2).is (PWM_CTRL_CMTREQ (3 : Fin 32).val) = true)
    ∧ (((({ wRun with cyc := 4100 }.put (PWM_CTRL_CMTREQ 3) 1).put (PWM_STATUS_CMTPEND 3) 1).put (PWM_CTRL_LOADMODE 3) 2).is (PWM_STATUS_CMTPEND (3 : Fin 32).val) = true)
    ∧ (((({ wRun with cyc := 4100 }.put (PWM_CTRL_CMTREQ 3) 1).put (PWM_STATUS_CMTPEND 3) 1).put (PWM_CTRL_LOADMODE 3) 2).cmpAtPeak (3 : Fin 32).val = true))
    ∧ ((({ wRun with cyc := 4100 }.put (PWM_CTRL_CMTREQ 3) 1).ticking = true)
    ∧ (({ wRun with cyc := 4100 }.put (PWM_CTRL_CMTREQ 3) 1).pwm.length = 32)
    ∧ (({ wRun with cyc := 4100 }.put (PWM_CTRL_CMTREQ 3) 1).pwmAtPeak (3 : Fin 32).val = true)
    ∧ ((({ wRun with cyc := 4100 }.put (PWM_CTRL_CMTREQ 3) 1).pwmOf (3 : Fin 32).val).lastPeak ≠ some ({ wRun with cyc := 4100 }.put (PWM_CTRL_CMTREQ 3) 1).cyc)
    ∧ (({ wRun with cyc := 4100 }.put (PWM_CTRL_CMTREQ 3) 1).is (PWM_CTRL_CMTREQ (3 : Fin 32).val) = true)
    ∧ (({ wRun with cyc := 4100 }.put (PWM_CTRL_CMTREQ 3) 1).is (PWM_STATUS_CMTPEND (3 : Fin 32).val) = false ∨ ({ wRun with cyc := 4100 }.put (PWM_CTRL_CMTREQ 3) 1).cmpAtPeak (3 : Fin 32).val = false))
    ∧ ((wPwm.pwmAtPeak (3 : Fin 32).val = false ∨ wPwm.ticking = false))
    ∧ ((wPwm.Owns (Initiator.kp : Initiator) (3 : Fin 32).val (pwmShadow (3 : Fin 32).val (2 : Fin 8).val).addr)
    ∧ (wPwm.pwmAtZero (3 : Fin 32).val = false)
    ∧ (wPwm.pwmAtPeak (3 : Fin 32).val = false))
    ∧ (((wRun.wr (PWM_PRD 3) 100).Owns (Initiator.kp : Initiator) (3 : Fin 32).val (pwmShadow (3 : Fin 32).val (0 : Fin 8).val).addr)
    ∧ ((wRun.wr (PWM_PRD 3) 100).pwm.length = 32)
    ∧ ((wRun.wr (PWM_PRD 3) 100).ticking = true)
    ∧ ((wRun.wr (PWM_PRD 3) 100).pwmAtZero (3 : Fin 32).val = true)
    ∧ (((wRun.wr (PWM_PRD 3) 100).pwmOf (3 : Fin 32).val).lastZero ≠ some (wRun.wr (PWM_PRD 3) 100).cyc)
    ∧ (((wRun.wr (PWM_PRD 3) 100).pwmOf (3 : Fin 32).val).start = false)
    ∧ ((wRun.wr (PWM_PRD 3) 100).is (PWM_CTRL_CMTREQ (3 : Fin 32).val) = false)
    ∧ ((0 : Fin 8) ∈ ([0, 5, 6, 7] : List (Fin 8)))) := by
  and_intros <;> decide +kernel

theorem witness_modules_start_stop_and_commit_for_their_owners :
    ((wPwm2.Reaches (Initiator.kp : Initiator) PWMG_START.addr)
    ∧ (wPwm2.ceStoreDiscard (Initiator.kp : Initiator) = false)
    ∧ (wPwm2.pwm.length = 32))
    ∧ ((wPwm2.Reaches (Initiator.kp : Initiator) PWMG_COMMIT.addr)
    ∧ (wPwm2.ceStoreDiscard (Initiator.kp : Initiator) = false))
    ∧ ((wPwm.Owns (Initiator.kp : Initiator) (31 : Fin 32).val (PWM_CTRL (31 : Fin 32).val).addr)
    ∧ (wPwm.pwm.length = 32)
    ∧ (wPwm.is (PWM_CTRL_RUN (31 : Fin 32).val) = false))
    ∧ ((wRun.Owns (Initiator.kp : Initiator) (3 : Fin 32).val (PWM_CTRL (3 : Fin 32).val).addr)
    ∧ (wRun.is (PWM_CTRL_RUN (3 : Fin 32).val) = true))
    ∧ ((wRun.Owns (Initiator.kp : Initiator) (3 : Fin 32).val (PWM_CTRL (3 : Fin 32).val).addr)
    ∧ (wRun.pwm.length = 32)
    ∧ (wRun.is (PWM_CTRL_RUN (3 : Fin 32).val) = true))
    ∧ ((wPwm.Owns (Initiator.kp : Initiator) (31 : Fin 32).val (PWM_CTRL (31 : Fin 32).val).addr)
    ∧ (wPwm.is (PWM_CTRL_RUN (31 : Fin 32).val) = false)) := by
  and_intros <;> decide +kernel

theorem witness_modules_start_stop_and_commit_for_their_owners_part2 :
    ((wPwm2.Reaches (Initiator.kp : Initiator) (PWM_PRD (1 : Fin 32).val).addr)
    ∧ (wPwm2.ceStoreDiscard (Initiator.kp : Initiator) = false)
    ∧ (wPwm2.pwmMayWrite (Initiator.kp : Initiator) (1 : Fin 32).val = false))
    ∧ ((wPwm2.Reaches (Initiator.kp : Initiator) (PWM_FORCE (1 : Fin 32).val).addr)
    ∧ (wPwm2.ceStoreDiscard (Initiator.kp : Initiator) = false)
    ∧ (wPwm2.pwmMayWrite (Initiator.kp : Initiator) (1 : Fin 32).val = false))
    ∧ ((wPwm2.Reaches (Initiator.kp : Initiator) (PWM_TRIPCLR (1 : Fin 32).val).addr)
    ∧ (wPwm2.ceStoreDiscard (Initiator.kp : Initiator) = false)
    ∧ (wPwm2.pwmMayWrite (Initiator.kp : Initiator) (1 : Fin 32).val = false))
    ∧ ((wPwm2.Reaches (Initiator.kp : Initiator) (PWM_CTRL (1 : Fin 32).val).addr)
    ∧ (wPwm2.ceStoreDiscard (Initiator.kp : Initiator) = false)
    ∧ (wPwm2.pwmMayWrite (Initiator.kp : Initiator) (1 : Fin 32).val = false))
    ∧ ((wPwm2.Reaches (Initiator.kp : Initiator) (PWM_CTRL (1 : Fin 32).val).addr)
    ∧ (wPwm2.ceStoreDiscard (Initiator.kp : Initiator) = false)
    ∧ (wPwm2.pwmMayWrite (Initiator.kp : Initiator) (1 : Fin 32).val = false)) := by
  and_intros <;> decide +kernel

theorem witness_pwm_edges_follow_compare_dead_time_and_minimum_pulse :
    ((((({ wRun with cyc := 4010 }.wr (PWM_CMPA_EFF 3) 160)).setPwm 3 { (wRun.pwmOf 3) with a := { (wRun.pwmOf 3).a with raw := true } }).ticking = true)
    ∧ (((({ wRun with cyc := 4010 }.wr (PWM_CMPA_EFF 3) 160)).setPwm 3 { (wRun.pwmOf 3) with a := { (wRun.pwmOf 3).a with raw := true } }).pwm.length = 32)
    ∧ (((({ wRun with cyc := 4010 }.wr (PWM_CMPA_EFF 3) 160)).setPwm 3 { (wRun.pwmOf 3) with a := { (wRun.pwmOf 3).a with raw := true } }).pwmRuns (3 : Fin 32).val = true)
    ∧ ((((({ wRun with cyc := 4010 }.wr (PWM_CMPA_EFF 3) 160)).setPwm 3 { (wRun.pwmOf 3) with a := { (wRun.pwmOf 3).a with raw := true } }).pwmOf (3 : Fin 32).val).start = false)
    ∧ (((({ wRun with cyc := 4010 }.wr (PWM_CMPA_EFF 3) 160)).setPwm 3 { (wRun.pwmOf 3) with a := { (wRun.pwmOf 3).a with raw := true } }).pwmHasEdges (3 : Fin 32).val (.a : Side) = true)
    ∧ (((64160 : Int), (false : Bool)) ∈ ((({ wRun with cyc := 4010 }.wr (PWM_CMPA_EFF 3) 160)).setPwm 3 { (wRun.pwmOf 3) with a := { (wRun.pwmOf 3).a with raw := true } }).pwmEdges (3 : Fin 32).val (.a : Side))
    ∧ (((({ wRun with cyc := 4010 }.wr (PWM_CMPA_EFF 3) 160)).setPwm 3 { (wRun.pwmOf 3) with a := { (wRun.pwmOf 3).a with raw := true } }).now16 ≤ (64160 : Int))
    ∧ ((64160 : Int) < ((({ wRun with cyc := 4010 }.wr (PWM_CMPA_EFF 3) 160)).setPwm 3 { (wRun.pwmOf 3) with a := { (wRun.pwmOf 3).a with raw := true } }).now16 + 16)
    ∧ ((((({ wRun with cyc := 4010 }.wr (PWM_CMPA_EFF 3) 160)).setPwm 3 { (wRun.pwmOf 3) with a := { (wRun.pwmOf 3).a with raw := true } }).pwmO (3 : Fin 32).val (.a : Side)).upTo < (64160 : Int))
    ∧ (∀ f ∈ ((({ wRun with cyc := 4010 }.wr (PWM_CMPA_EFF 3) 160)).setPwm 3 { (wRun.pwmOf 3) with a := { (wRun.pwmOf 3).a with raw := true } }).pwmEdges (3 : Fin 32).val (.a : Side), (64160 : Int) < f.1 → ((({ wRun with cyc := 4010 }.wr (PWM_CMPA_EFF 3) 160)).setPwm 3 { (wRun.pwmOf 3) with a := { (wRun.pwmOf 3).a with raw := true } }).now16 + 16 ≤ f.1)
    ∧ (∀ f ∈ ((({ wRun with cyc := 4010 }.wr (PWM_CMPA_EFF 3) 160)).setPwm 3 { (wRun.pwmOf 3) with a := { (wRun.pwmOf 3).a with raw := true } }).pwmEdges (3 : Fin 32).val (.a : Side), f.1 = (64160 : Int) → f.2 = (false : Bool)))
    ∧ ((wRun.pwmHasEdges (3 : Fin 32).val (.b : Side) = false ∨ wRun.pwmRuns (3 : Fin 32).val = false ∨ wRun.ticking = false))
    ∧ (((wRun.setPwmO 3 .b { wRun.pwmO 3 .b with ref := true, due := some 64000 }).ticking = true)
    ∧ ((wRun.setPwmO 3 .b { wRun.pwmO 3 .b with ref := true, due := some 64000 }).pwm.length = 32)
    ∧ ((wRun.setPwmO 3 .b { wRun.pwmO 3 .b with ref := true, due := some 64000 }).pwmRuns (3 : Fin 32).val = true)
    ∧ (((wRun.setPwmO 3 .b { wRun.pwmO 3 .b with ref := true, due := some 64000 }).pwmO (3 : Fin 32).val (.b : Side)).due = some (64000 : Int))
    ∧ (((wRun.setPwmO 3 .b { wRun.pwmO 3 .b with ref := true, due := some 64000 }).pwmO (3 : Fin 32).val (.b : Side)).ref = true)
    ∧ ((64000 : Int).fdiv 16 ≤ ((wRun.setPwmO 3 .b { wRun.pwmO 3 .b with ref := true, due := some 64000 }).cyc : Int))
    ∧ (((wRun.setPwmO 3 .b { wRun.pwmO 3 .b with ref := true, due := some 64000 }).get (PWM_MINPW_EFF_MINPW (3 : Fin 32).val)) = 0))
    ∧ (((((wRun.setPwmO 3 .a { wRun.pwmO 3 .a with ref := true, due := some 64000 }).put (PWM_MINPW_EFF_MINPW 3) 100).wr (PWM_CMPA_EFF 3) 160).ticking = true)
    ∧ ((((wRun.setPwmO 3 .a { wRun.pwmO 3 .a with ref := true, due := some 64000 }).put (PWM_MINPW_EFF_MINPW 3) 100).wr (PWM_CMPA_EFF 3) 160).pwm.length = 32)
    ∧ ((((wRun.setPwmO 3 .a { wRun.pwmO 3 .a with ref := true, due := some 64000 }).put (PWM_MINPW_EFF_MINPW 3) 100).wr (PWM_CMPA_EFF 3) 160).pwmRuns (3 : Fin 32).val = true)
    ∧ (((((wRun.setPwmO 3 .a { wRun.pwmO 3 .a with ref := true, due := some 64000 }).put (PWM_MINPW_EFF_MINPW 3) 100).wr (PWM_CMPA_EFF 3) 160).pwmO (3 : Fin 32).val (.a : Side)).due = some (64000 : Int))
    ∧ (((((wRun.setPwmO 3 .a { wRun.pwmO 3 .a with ref := true, due := some 64000 }).put (PWM_MINPW_EFF_MINPW 3) 100).wr (PWM_CMPA_EFF 3) 160).pwmO (3 : Fin 32).val (.a : Side)).ref = true)
    ∧ ((64000 : Int).fdiv 16 ≤ ((((wRun.setPwmO 3 .a { wRun.pwmO 3 .a with ref := true, due := some 64000 }).put (PWM_MINPW_EFF_MINPW 3) 100).wr (PWM_CMPA_EFF 3) 160).cyc : Int))
    ∧ (((((wRun.setPwmO 3 .a { wRun.pwmO 3 .a with ref := true, due := some 64000 }).put (PWM_MINPW_EFF_MINPW 3) 100).wr (PWM_CMPA_EFF 3) 160).get (PWM_MINPW_EFF_MINPW (3 : Fin 32).val)) ≠ 0)
    ∧ ((((wRun.setPwmO 3 .a { wRun.pwmO 3 .a with ref := true, due := some 64000 }).put (PWM_MINPW_EFF_MINPW 3) 100).wr (PWM_CMPA_EFF 3) 160).pwmPredFall (3 : Fin 32).val (.a : Side) (64000 : Int) = some (64160 : Int))
    ∧ ((((((wRun.setPwmO 3 .a { wRun.pwmO 3 .a with ref := true, due := some 64000 }).put (PWM_MINPW_EFF_MINPW 3) 100).wr (PWM_CMPA_EFF 3) 160).get (PWM_MINPW_EFF_MINPW (3 : Fin 32).val)) : Int) ≤ (64160 : Int) - (64000 : Int)))
    ∧ (((((wRun.setPwmO 3 .a { wRun.pwmO 3 .a with ref := true, due := some 64000 }).put (PWM_MINPW_EFF_MINPW 3) 200).wr (PWM_CMPA_EFF 3) 160).ticking = true)
    ∧ ((((wRun.setPwmO 3 .a { wRun.pwmO 3 .a with ref := true, due := some 64000 }).put (PWM_MINPW_EFF_MINPW 3) 200).wr (PWM_CMPA_EFF 3) 160).pwm.length = 32)
    ∧ ((((wRun.setPwmO 3 .a { wRun.pwmO 3 .a with ref := true, due := some 64000 }).put (PWM_MINPW_EFF_MINPW 3) 200).wr (PWM_CMPA_EFF 3) 160).pwmRuns (3 : Fin 32).val = true)
    ∧ (((((wRun.setPwmO 3 .a { wRun.pwmO 3 .a with ref := true, due := some 64000 }).put (PWM_MINPW_EFF_MINPW 3) 200).wr (PWM_CMPA_EFF 3) 160).pwmO (3 : Fin 32).val (.a : Side)).due = some (64000 : Int))
    ∧ (((((wRun.setPwmO 3 .a { wRun.pwmO 3 .a with ref := true, due := some 64000 }).put (PWM_MINPW_EFF_MINPW 3) 200).wr (PWM_CMPA_EFF 3) 160).pwmO (3 : Fin 32).val (.a : Side)).ref = true)
    ∧ ((64000 : Int).fdiv 16 ≤ ((((wRun.setPwmO 3 .a { wRun.pwmO 3 .a with ref := true, due := some 64000 }).put (PWM_MINPW_EFF_MINPW 3) 200).wr (PWM_CMPA_EFF 3) 160).cyc : Int))
    ∧ ((((wRun.setPwmO 3 .a { wRun.pwmO 3 .a with ref := true, due := some 64000 }).put (PWM_MINPW_EFF_MINPW 3) 200).wr (PWM_CMPA_EFF 3) 160).pwmPredFall (3 : Fin 32).val (.a : Side) (64000 : Int) = some (64160 : Int))
    ∧ ((64160 : Int) - (64000 : Int) < (((((wRun.setPwmO 3 .a { wRun.pwmO 3 .a with ref := true, due := some 64000 }).put (PWM_MINPW_EFF_MINPW 3) 200).wr (PWM_CMPA_EFF 3) 160).get (PWM_MINPW_EFF_MINPW (3 : Fin 32).val)) : Int))
    ∧ ((((wRun.setPwmO 3 .a { wRun.pwmO 3 .a with ref := true, due := some 64000 }).put (PWM_MINPW_EFF_MINPW 3) 200).wr (PWM_CMPA_EFF 3) 160).is (PWM_CTRL_MINPOL (3 : Fin 32).val) = false)
    ∧ (((((wRun.setPwmO 3 .a { wRun.pwmO 3 .a with ref := true, due := some 64000 }).put (PWM_MINPW_EFF_MINPW 3) 200).wr (PWM_CMPA_EFF 3) 160).get (PWM_MINPW_EFF_MINPW (3 : Fin 32).val)) ≠ 0))
    ∧ ((((((wRun.setPwmO 3 .a { wRun.pwmO 3 .a with ref := true, due := some 64000 }).put (PWM_MINPW_EFF_MINPW 3) 200).wr (PWM_CMPA_EFF 3) 160).put (PWM_CTRL_MINPOL 3) 1).ticking = true)
    ∧ (((((wRun.setPwmO 3 .a { wRun.pwmO 3 .a with ref := true, due := some 64000 }).put (PWM_MINPW_EFF_MINPW 3) 200).wr (PWM_CMPA_EFF 3) 160).put (PWM_CTRL_MINPOL 3) 1).pwm.length = 32)
    ∧ (((((wRun.setPwmO 3 .a { wRun.pwmO 3 .a with ref := true, due := some 64000 }).put (PWM_MINPW_EFF_MINPW 3) 200).wr (PWM_CMPA_EFF 3) 160).put (PWM_CTRL_MINPOL 3) 1).pwmRuns (3 : Fin 32).val = true)
    ∧ ((((((wRun.setPwmO 3 .a { wRun.pwmO 3 .a with ref := true, due := some 64000 }).put (PWM_MINPW_EFF_MINPW 3) 200).wr (PWM_CMPA_EFF 3) 160).put (PWM_CTRL_MINPOL 3) 1).pwmO (3 : Fin 32).val (.a : Side)).due = some (64000 : Int))
    ∧ ((((((wRun.setPwmO 3 .a { wRun.pwmO 3 .a with ref := true, due := some 64000 }).put (PWM_MINPW_EFF_MINPW 3) 200).wr (PWM_CMPA_EFF 3) 160).put (PWM_CTRL_MINPOL 3) 1).pwmO (3 : Fin 32).val (.a : Side)).ref = true)
    ∧ ((64000 : Int).fdiv 16 ≤ (((((wRun.setPwmO 3 .a { wRun.pwmO 3 .a with ref := true, due := some 64000 }).put (PWM_MINPW_EFF_MINPW 3) 200).wr (PWM_CMPA_EFF 3) 160).put (PWM_CTRL_MINPOL 3) 1).cyc : Int))
    ∧ (((((wRun.setPwmO 3 .a { wRun.pwmO 3 .a with ref := true, due := some 64000 }).put (PWM_MINPW_EFF_MINPW 3) 200).wr (PWM_CMPA_EFF 3) 160).put (PWM_CTRL_MINPOL 3) 1).pwmPredFall (3 : Fin 32).val (.a : Side) (64000 : Int) = some (64160 : Int))
    ∧ ((64160 : Int) - (64000 : Int) < ((((((wRun.setPwmO 3 .a { wRun.pwmO 3 .a with ref := true, due := some 64000 }).put (PWM_MINPW_EFF_MINPW 3) 200).wr (PWM_CMPA_EFF 3) 160).put (PWM_CTRL_MINPOL 3) 1).get (PWM_MINPW_EFF_MINPW (3 : Fin 32).val)) : Int))
    ∧ (((((wRun.setPwmO 3 .a { wRun.pwmO 3 .a with ref := true, due := some 64000 }).put (PWM_MINPW_EFF_MINPW 3) 200).wr (PWM_CMPA_EFF 3) 160).put (PWM_CTRL_MINPOL 3) 1).is (PWM_CTRL_MINPOL (3 : Fin 32).val) = true)
    ∧ ((((((wRun.setPwmO 3 .a { wRun.pwmO 3 .a with ref := true, due := some 64000 }).put (PWM_MINPW_EFF_MINPW 3) 200).wr (PWM_CMPA_EFF 3) 160).put (PWM_CTRL_MINPOL 3) 1).get (PWM_MINPW_EFF_MINPW (3 : Fin 32).val)) ≠ 0)) := by
  and_intros <;> decide +kernel

theorem witness_pwm_edges_follow_compare_dead_time_and_minimum_pulse_part2 :
    (((wRun.pwmO (3 : Fin 32).val (.b : Side)).due = none ∨ wRun.ticking = false))
    ∧ ((((wRun.put (PWM_STATUS_OUTA 3) 1).setPwmO 3 .a { wRun.pwmO 3 .a with hold := some 63999 }).ticking = true)
    ∧ (((wRun.put (PWM_STATUS_OUTA 3) 1).setPwmO 3 .a { wRun.pwmO 3 .a with hold := some 63999 }).pwm.length = 32)
    ∧ ((((wRun.put (PWM_STATUS_OUTA 3) 1).setPwmO 3 .a { wRun.pwmO 3 .a with hold := some 63999 }).pwmO (3 : Fin 32).val (.a : Side)).hold = some (63999 : Int))
    ∧ (((wRun.put (PWM_STATUS_OUTA 3) 1).setPwmO 3 .a { wRun.pwmO 3 .a with hold := some 63999 }).is (outFld (3 : Fin 32).val (.a : Side)) = true)
    ∧ ((((wRun.put (PWM_STATUS_OUTA 3) 1).setPwmO 3 .a { wRun.pwmO 3 .a with hold := some 63999 }).pwmO (3 : Fin 32).val (.a : Side)).ref = false)
    ∧ ((63999 : Int).fdiv 16 ≤ (((wRun.put (PWM_STATUS_OUTA 3) 1).setPwmO 3 .a { wRun.pwmO 3 .a with hold := some 63999 }).cyc : Int)))
    ∧ (((wRun.pwmO (3 : Fin 32).val (.b : Side)).hold = none ∨ wRun.ticking = false))
    ∧ (((((wRun.wr (PWM_CMPD_EFF 3) 0x300000)).wr (PWM_IEN 3) 8).ticking = true)
    ∧ ((((wRun.wr (PWM_CMPD_EFF 3) 0x300000)).wr (PWM_IEN 3) 8).pwm.length = 32)
    ∧ ((((wRun.wr (PWM_CMPD_EFF 3) 0x300000)).wr (PWM_IEN 3) 8).pwmRuns (3 : Fin 32).val = true)
    ∧ (((((wRun.wr (PWM_CMPD_EFF 3) 0x300000)).wr (PWM_IEN 3) 8).pwmOf (3 : Fin 32).val).start = false)
    ∧ (((((wRun.wr (PWM_CMPD_EFF 3) 0x300000)).wr (PWM_IEN 3) 8).pwmOf (3 : Fin 32).val).zero ≤ ((((wRun.wr (PWM_CMPD_EFF 3) 0x300000)).wr (PWM_IEN 3) 8).cyc : Int))
    ∧ ((if (true : Bool) then ((((wRun.wr (PWM_CMPD_EFF 3) 0x300000)).wr (PWM_IEN 3) 8).pwmOf (3 : Fin 32).val).cmpdAt else ((((wRun.wr (PWM_CMPD_EFF 3) 0x300000)).wr (PWM_IEN 3) 8).pwmOf (3 : Fin 32).val).cmpcAt) ≠ some (((wRun.wr (PWM_CMPD_EFF 3) 0x300000)).wr (PWM_IEN 3) 8).cyc)
    ∧ ((((wRun.wr (PWM_CMPD_EFF 3) 0x300000)).wr (PWM_IEN 3) 8).pwmCount (3 : Fin 32).val = ((((wRun.wr (PWM_CMPD_EFF 3) 0x300000)).wr (PWM_IEN 3) 8).get (if (true : Bool) then PWM_CMPD_EFF_VAL (3 : Fin 32).val else PWM_CMPC_EFF_VAL (3 : Fin 32).val)))
    ∧ ((((((wRun.wr (PWM_CMPD_EFF 3) 0x300000)).wr (PWM_IEN 3) 8).get (if (true : Bool) then PWM_CMPD_EFF_DIR (3 : Fin 32).val else PWM_CMPC_EFF_DIR (3 : Fin 32).val)) = 3 ∨ (((((wRun.wr (PWM_CMPD_EFF 3) 0x300000)).wr (PWM_IEN 3) 8).get (if (true : Bool) then PWM_CMPD_EFF_DIR (3 : Fin 32).val else PWM_CMPC_EFF_DIR (3 : Fin 32).val)) = 1 ∧ (((wRun.wr (PWM_CMPD_EFF 3) 0x300000)).wr (PWM_IEN 3) 8).pwmDown (3 : Fin 32).val = false) ∨ (((((wRun.wr (PWM_CMPD_EFF 3) 0x300000)).wr (PWM_IEN 3) 8).get (if (true : Bool) then PWM_CMPD_EFF_DIR (3 : Fin 32).val else PWM_CMPC_EFF_DIR (3 : Fin 32).val)) = 2 ∧ (((wRun.wr (PWM_CMPD_EFF 3) 0x300000)).wr (PWM_IEN 3) 8).pwmDown (3 : Fin 32).val = true) ∨ (((((wRun.wr (PWM_CMPD_EFF 3) 0x300000)).wr (PWM_IEN 3) 8).get (if (true : Bool) then PWM_CMPD_EFF_DIR (3 : Fin 32).val else PWM_CMPC_EFF_DIR (3 : Fin 32).val)) ≠ 0 ∧ (((wRun.wr (PWM_CMPD_EFF 3) 0x300000)).wr (PWM_IEN 3) 8).is (PWM_CTRL_CNTMODE (3 : Fin 32).val) = true ∧ (((((wRun.wr (PWM_CMPD_EFF 3) 0x300000)).wr (PWM_IEN 3) 8).get (if (true : Bool) then PWM_CMPD_EFF_VAL (3 : Fin 32).val else PWM_CMPC_EFF_VAL (3 : Fin 32).val)) = 0 ∨ ((((wRun.wr (PWM_CMPD_EFF 3) 0x300000)).wr (PWM_IEN 3) 8).get (if (true : Bool) then PWM_CMPD_EFF_VAL (3 : Fin 32).val else PWM_CMPC_EFF_VAL (3 : Fin 32).val)) = (((wRun.wr (PWM_CMPD_EFF 3) 0x300000)).wr (PWM_IEN 3) 8).pwmPrd (3 : Fin 32).val))))
    ∧ (((((wRun.wr (PWM_CMPD_EFF 3) 0x300000)).wr (PWM_IEN 3) 8).rd (PWM_IEN (3 : Fin 32).val)).getLsbD (if (true : Bool) then 3 else 2) = true))
    ∧ (((wRun.wr (PWM_CMPD_EFF 3) 0x300000).ticking = true)
    ∧ ((wRun.wr (PWM_CMPD_EFF 3) 0x300000).pwm.length = 32)
    ∧ ((wRun.wr (PWM_CMPD_EFF 3) 0x300000).pwmRuns (3 : Fin 32).val = true)
    ∧ (((wRun.wr (PWM_CMPD_EFF 3) 0x300000).pwmOf (3 : Fin 32).val).start = false)
    ∧ (((wRun.wr (PWM_CMPD_EFF 3) 0x300000).pwmOf (3 : Fin 32).val).zero ≤ ((wRun.wr (PWM_CMPD_EFF 3) 0x300000).cyc : Int))
    ∧ ((if (true : Bool) then ((wRun.wr (PWM_CMPD_EFF 3) 0x300000).pwmOf (3 : Fin 32).val).cmpdAt else ((wRun.wr (PWM_CMPD_EFF 3) 0x300000).pwmOf (3 : Fin 32).val).cmpcAt) ≠ some (wRun.wr (PWM_CMPD_EFF 3) 0x300000).cyc)
    ∧ ((wRun.wr (PWM_CMPD_EFF 3) 0x300000).pwmCount (3 : Fin 32).val = ((wRun.wr (PWM_CMPD_EFF 3) 0x300000).get (if (true : Bool) then PWM_CMPD_EFF_VAL (3 : Fin 32).val else PWM_CMPC_EFF_VAL (3 : Fin 32).val)))
    ∧ ((((wRun.wr (PWM_CMPD_EFF 3) 0x300000).get (if (true : Bool) then PWM_CMPD_EFF_DIR (3 : Fin 32).val else PWM_CMPC_EFF_DIR (3 : Fin 32).val)) = 3 ∨ (((wRun.wr (PWM_CMPD_EFF 3) 0x300000).get (if (true : Bool) then PWM_CMPD_EFF_DIR (3 : Fin 32).val else PWM_CMPC_EFF_DIR (3 : Fin 32).val)) = 1 ∧ (wRun.wr (PWM_CMPD_EFF 3) 0x300000).pwmDown (3 : Fin 32).val = false) ∨ (((wRun.wr (PWM_CMPD_EFF 3) 0x300000).get (if (true : Bool) then PWM_CMPD_EFF_DIR (3 : Fin 32).val else PWM_CMPC_EFF_DIR (3 : Fin 32).val)) = 2 ∧ (wRun.wr (PWM_CMPD_EFF 3) 0x300000).pwmDown (3 : Fin 32).val = true) ∨ (((wRun.wr (PWM_CMPD_EFF 3) 0x300000).get (if (true : Bool) then PWM_CMPD_EFF_DIR (3 : Fin 32).val else PWM_CMPC_EFF_DIR (3 : Fin 32).val)) ≠ 0 ∧ (wRun.wr (PWM_CMPD_EFF 3) 0x300000).is (PWM_CTRL_CNTMODE (3 : Fin 32).val) = true ∧ (((wRun.wr (PWM_CMPD_EFF 3) 0x300000).get (if (true : Bool) then PWM_CMPD_EFF_VAL (3 : Fin 32).val else PWM_CMPC_EFF_VAL (3 : Fin 32).val)) = 0 ∨ ((wRun.wr (PWM_CMPD_EFF 3) 0x300000).get (if (true : Bool) then PWM_CMPD_EFF_VAL (3 : Fin 32).val else PWM_CMPC_EFF_VAL (3 : Fin 32).val)) = (wRun.wr (PWM_CMPD_EFF 3) 0x300000).pwmPrd (3 : Fin 32).val))))
    ∧ (((wRun.wr (PWM_CMPD_EFF 3) 0x300000).rd (PWM_IEN (3 : Fin 32).val)).getLsbD (if (true : Bool) then 3 else 2) = false))
    ∧ (((wRun.wr (PWM_CMPD_EFF 3) 0x300001).pwmCount (3 : Fin 32).val ≠ ((wRun.wr (PWM_CMPD_EFF 3) 0x300001).get (if (true : Bool) then PWM_CMPD_EFF_VAL (3 : Fin 32).val else PWM_CMPC_EFF_VAL (3 : Fin 32).val)) ∨ ((wRun.wr (PWM_CMPD_EFF 3) 0x300001).get (if (true : Bool) then PWM_CMPD_EFF_DIR (3 : Fin 32).val else PWM_CMPC_EFF_DIR (3 : Fin 32).val)) = 0 ∨ (if (true : Bool) then ((wRun.wr (PWM_CMPD_EFF 3) 0x300001).pwmOf (3 : Fin 32).val).cmpdAt else ((wRun.wr (PWM_CMPD_EFF 3) 0x300001).pwmOf (3 : Fin 32).val).cmpcAt) = some (wRun.wr (PWM_CMPD_EFF 3) 0x300001).cyc ∨ (wRun.wr (PWM_CMPD_EFF 3) 0x300001).pwmRuns (3 : Fin 32).val = false)) := by
  and_intros <;> decide +kernel

theorem witness_forces_trips_and_synchronisation_act_on_their_module :
    ((wPwm.Owns (Initiator.kp : Initiator) (3 : Fin 32).val (PWM_FORCE (3 : Fin 32).val).addr)
    ∧ (wPwm.pwm.length = 32))
    ∧ ((wTrip.tripIn (3 : Fin 32).val (2 : Fin 4).val = true)
    ∧ (wTrip.bit (PWM_STATUS_TRIPPED (3 : Fin 32).val) (2 : Fin 4).val = false))
    ∧ ((wRun.tripIn (3 : Fin 32).val (2 : Fin 4).val = false ∨ wRun.bit (PWM_STATUS_TRIPPED (3 : Fin 32).val) (2 : Fin 4).val = true))
    ∧ ((((wPwm.put (PWM_STATUS_TRIPPED 3) 15).wr (PWM_TRIPCFG 3) 0x10101010).Owns (Initiator.kp : Initiator) (3 : Fin 32).val (PWM_TRIPCLR (3 : Fin 32).val).addr))
    ∧ (((((({ wRun with cyc := 4010 }.put (PWM_CTRL_SYNCEN 3) 1).put (PWM_CTRL_CNTMODE 3) 0).wr (PWM_PHASE_EFF 3) 0x57).setPwm 3 { wRun.pwmOf 3 with syncAt := some 4010 }).ticking = true)
    ∧ ((((({ wRun with cyc := 4010 }.put (PWM_CTRL_SYNCEN 3) 1).put (PWM_CTRL_CNTMODE 3) 0).wr (PWM_PHASE_EFF 3) 0x57).setPwm 3 { wRun.pwmOf 3 with syncAt := some 4010 }).pwm.length = 32)
    ∧ (((((({ wRun with cyc := 4010 }.put (PWM_CTRL_SYNCEN 3) 1).put (PWM_CTRL_CNTMODE 3) 0).wr (PWM_PHASE_EFF 3) 0x57).setPwm 3 { wRun.pwmOf 3 with syncAt := some 4010 }).pwmOf (3 : Fin 32).val).syncAt = some (((({ wRun with cyc := 4010 }.put (PWM_CTRL_SYNCEN 3) 1).put (PWM_CTRL_CNTMODE 3) 0).wr (PWM_PHASE_EFF 3) 0x57).setPwm 3 { wRun.pwmOf 3 with syncAt := some 4010 }).cyc)
    ∧ ((((({ wRun with cyc := 4010 }.put (PWM_CTRL_SYNCEN 3) 1).put (PWM_CTRL_CNTMODE 3) 0).wr (PWM_PHASE_EFF 3) 0x57).setPwm 3 { wRun.pwmOf 3 with syncAt := some 4010 }).pwmRuns (3 : Fin 32).val = true)
    ∧ (((((({ wRun with cyc := 4010 }.put (PWM_CTRL_SYNCEN 3) 1).put (PWM_CTRL_CNTMODE 3) 0).wr (PWM_PHASE_EFF 3) 0x57).setPwm 3 { wRun.pwmOf 3 with syncAt := some 4010 }).pwmOf (3 : Fin 32).val).start = false)
    ∧ ((((({ wRun with cyc := 4010 }.put (PWM_CTRL_SYNCEN 3) 1).put (PWM_CTRL_CNTMODE 3) 0).wr (PWM_PHASE_EFF 3) 0x57).setPwm 3 { wRun.pwmOf 3 with syncAt := some 4010 }).is (PWM_CTRL_SYNCEN (3 : Fin 32).val) = true)
    ∧ ((((({ wRun with cyc := 4010 }.put (PWM_CTRL_SYNCEN 3) 1).put (PWM_CTRL_CNTMODE 3) 0).wr (PWM_PHASE_EFF 3) 0x57).setPwm 3 { wRun.pwmOf 3 with syncAt := some 4010 }).is (PWM_CTRL_SYNCMODE (3 : Fin 32).val) = false ∨ (((({ wRun with cyc := 4010 }.put (PWM_CTRL_SYNCEN 3) 1).put (PWM_CTRL_CNTMODE 3) 0).wr (PWM_PHASE_EFF 3) 0x57).setPwm 3 { wRun.pwmOf 3 with syncAt := some 4010 }).is (PWM_CTRL_SYNCARM (3 : Fin 32).val) = true)
    ∧ (((((({ wRun with cyc := 4010 }.put (PWM_CTRL_SYNCEN 3) 1).put (PWM_CTRL_CNTMODE 3) 0).wr (PWM_PHASE_EFF 3) 0x57).setPwm 3 { wRun.pwmOf 3 with syncAt := some 4010 }).get (PWM_PHASE_EFF_PHASE (3 : Fin 32).val)) < 16 * (((({ wRun with cyc := 4010 }.put (PWM_CTRL_SYNCEN 3) 1).put (PWM_CTRL_CNTMODE 3) 0).wr (PWM_PHASE_EFF 3) 0x57).setPwm 3 { wRun.pwmOf 3 with syncAt := some 4010 }).pwmPrd (3 : Fin 32).val)
    ∧ ((((({ wRun with cyc := 4010 }.put (PWM_CTRL_SYNCEN 3) 1).put (PWM_CTRL_CNTMODE 3) 0).wr (PWM_PHASE_EFF 3) 0x57).setPwm 3 { wRun.pwmOf 3 with syncAt := some 4010 }).is (PWM_CTRL_CNTMODE (3 : Fin 32).val) = false ∨ ((((({ wRun with cyc := 4010 }.put (PWM_CTRL_SYNCEN 3) 1).put (PWM_CTRL_CNTMODE 3) 0).wr (PWM_PHASE_EFF 3) 0x57).setPwm 3 { wRun.pwmOf 3 with syncAt := some 4010 }).is (PWM_PHASE_EFF_PHDIR (3 : Fin 32).val) = false ∧ ((((({ wRun with cyc := 4010 }.put (PWM_CTRL_SYNCEN 3) 1).put (PWM_CTRL_CNTMODE 3) 0).wr (PWM_PHASE_EFF 3) 0x57).setPwm 3 { wRun.pwmOf 3 with syncAt := some 4010 }).get (PWM_PHASE_EFF_PHASE (3 : Fin 32).val)) / 16 + 1 < (((({ wRun with cyc := 4010 }.put (PWM_CTRL_SYNCEN 3) 1).put (PWM_CTRL_CNTMODE 3) 0).wr (PWM_PHASE_EFF 3) 0x57).setPwm 3 { wRun.pwmOf 3 with syncAt := some 4010 }).pwmPrd (3 : Fin 32).val))
    ∧ ((((((({ wRun with cyc := 4010 }.put (PWM_CTRL_SYNCEN 3) 1).put (PWM_CTRL_CNTMODE 3) 0).wr (PWM_PHASE_EFF 3) 0x57).setPwm 3 { wRun.pwmOf 3 with syncAt := some 4010 }).pwmOf (3 : Fin 32).val).zero - (((((({ wRun with cyc := 4010 }.put (PWM_CTRL_SYNCEN 3) 1).put (PWM_CTRL_CNTMODE 3) 0).wr (PWM_PHASE_EFF 3) 0x57).setPwm 3 { wRun.pwmOf 3 with syncAt := some 4010 }).cyc : Int) - 1 - (((((({ wRun with cyc := 4010 }.put (PWM_CTRL_SYNCEN 3) 1).put (PWM_CTRL_CNTMODE 3) 0).wr (PWM_PHASE_EFF 3) 0x57).setPwm 3 { wRun.pwmOf 3 with syncAt := some 4010 }).get (PWM_PHASE_EFF_PHASE (3 : Fin 32).val)) / 16 : Nat))) % ((((({ wRun with cyc := 4010 }.put (PWM_CTRL_SYNCEN 3) 1).put (PWM_CTRL_CNTMODE 3) 0).wr (PWM_PHASE_EFF 3) 0x57).setPwm 3 { wRun.pwmOf 3 with syncAt := some 4010 }).pwmPeriod (3 : Fin 32).val : Int) ≠ 0))
    ∧ (((((({ wRun with cyc := 4010 }.put (PWM_CTRL_SYNCEN 3) 1).put (PWM_CTRL_CNTMODE 3) 0).wr (PWM_PHASE_EFF 3) 0x97).setPwm 3 { wRun.pwmOf 3 with syncAt := some 4010 }).ticking = true)
    ∧ ((((({ wRun with cyc := 4010 }.put (PWM_CTRL_SYNCEN 3) 1).put (PWM_CTRL_CNTMODE 3) 0).wr (PWM_PHASE_EFF 3) 0x97).setPwm 3 { wRun.pwmOf 3 with syncAt := some 4010 }).pwm.length = 32)
    ∧ (((((({ wRun with cyc := 4010 }.put (PWM_CTRL_SYNCEN 3) 1).put (PWM_CTRL_CNTMODE 3) 0).wr (PWM_PHASE_EFF 3) 0x97).setPwm 3 { wRun.pwmOf 3 with syncAt := some 4010 }).pwmOf (3 : Fin 32).val).syncAt = some (((({ wRun with cyc := 4010 }.put (PWM_CTRL_SYNCEN 3) 1).put (PWM_CTRL_CNTMODE 3) 0).wr (PWM_PHASE_EFF 3) 0x97).setPwm 3 { wRun.pwmOf 3 with syncAt := some 4010 }).cyc)
    ∧ ((((({ wRun with cyc := 4010 }.put (PWM_CTRL_SYNCEN 3) 1).put (PWM_CTRL_CNTMODE 3) 0).wr (PWM_PHASE_EFF 3) 0x97).setPwm 3 { wRun.pwmOf 3 with syncAt := some 4010 }).pwmRuns (3 : Fin 32).val = true)
    ∧ (((((({ wRun with cyc := 4010 }.put (PWM_CTRL_SYNCEN 3) 1).put (PWM_CTRL_CNTMODE 3) 0).wr (PWM_PHASE_EFF 3) 0x97).setPwm 3 { wRun.pwmOf 3 with syncAt := some 4010 }).pwmOf (3 : Fin 32).val).start = false)
    ∧ ((((({ wRun with cyc := 4010 }.put (PWM_CTRL_SYNCEN 3) 1).put (PWM_CTRL_CNTMODE 3) 0).wr (PWM_PHASE_EFF 3) 0x97).setPwm 3 { wRun.pwmOf 3 with syncAt := some 4010 }).is (PWM_CTRL_SYNCEN (3 : Fin 32).val) = true)
    ∧ ((((({ wRun with cyc := 4010 }.put (PWM_CTRL_SYNCEN 3) 1).put (PWM_CTRL_CNTMODE 3) 0).wr (PWM_PHASE_EFF 3) 0x97).setPwm 3 { wRun.pwmOf 3 with syncAt := some 4010 }).is (PWM_CTRL_SYNCMODE (3 : Fin 32).val) = false ∨ (((({ wRun with cyc := 4010 }.put (PWM_CTRL_SYNCEN 3) 1).put (PWM_CTRL_CNTMODE 3) 0).wr (PWM_PHASE_EFF 3) 0x97).setPwm 3 { wRun.pwmOf 3 with syncAt := some 4010 }).is (PWM_CTRL_SYNCARM (3 : Fin 32).val) = true)
    ∧ (((((({ wRun with cyc := 4010 }.put (PWM_CTRL_SYNCEN 3) 1).put (PWM_CTRL_CNTMODE 3) 0).wr (PWM_PHASE_EFF 3) 0x97).setPwm 3 { wRun.pwmOf 3 with syncAt := some 4010 }).get (PWM_PHASE_EFF_PHASE (3 : Fin 32).val)) < 16 * (((({ wRun with cyc := 4010 }.put (PWM_CTRL_SYNCEN 3) 1).put (PWM_CTRL_CNTMODE 3) 0).wr (PWM_PHASE_EFF 3) 0x97).setPwm 3 { wRun.pwmOf 3 with syncAt := some 4010 }).pwmPrd (3 : Fin 32).val)
    ∧ ((((({ wRun with cyc := 4010 }.put (PWM_CTRL_SYNCEN 3) 1).put (PWM_CTRL_CNTMODE 3) 0).wr (PWM_PHASE_EFF 3) 0x97).setPwm 3 { wRun.pwmOf 3 with syncAt := some 4010 }).is (PWM_CTRL_CNTMODE (3 : Fin 32).val) = false ∨ ((((({ wRun with cyc := 4010 }.put (PWM_CTRL_SYNCEN 3) 1).put (PWM_CTRL_CNTMODE 3) 0).wr (PWM_PHASE_EFF 3) 0x97).setPwm 3 { wRun.pwmOf 3 with syncAt := some 4010 }).is (PWM_PHASE_EFF_PHDIR (3 : Fin 32).val) = false ∧ ((((({ wRun with cyc := 4010 }.put (PWM_CTRL_SYNCEN 3) 1).put (PWM_CTRL_CNTMODE 3) 0).wr (PWM_PHASE_EFF 3) 0x97).setPwm 3 { wRun.pwmOf 3 with syncAt := some 4010 }).get (PWM_PHASE_EFF_PHASE (3 : Fin 32).val)) / 16 + 1 < (((({ wRun with cyc := 4010 }.put (PWM_CTRL_SYNCEN 3) 1).put (PWM_CTRL_CNTMODE 3) 0).wr (PWM_PHASE_EFF 3) 0x97).setPwm 3 { wRun.pwmOf 3 with syncAt := some 4010 }).pwmPrd (3 : Fin 32).val))
    ∧ ((((((({ wRun with cyc := 4010 }.put (PWM_CTRL_SYNCEN 3) 1).put (PWM_CTRL_CNTMODE 3) 0).wr (PWM_PHASE_EFF 3) 0x97).setPwm 3 { wRun.pwmOf 3 with syncAt := some 4010 }).pwmOf (3 : Fin 32).val).zero - (((((({ wRun with cyc := 4010 }.put (PWM_CTRL_SYNCEN 3) 1).put (PWM_CTRL_CNTMODE 3) 0).wr (PWM_PHASE_EFF 3) 0x97).setPwm 3 { wRun.pwmOf 3 with syncAt := some 4010 }).cyc : Int) - 1 - (((((({ wRun with cyc := 4010 }.put (PWM_CTRL_SYNCEN 3) 1).put (PWM_CTRL_CNTMODE 3) 0).wr (PWM_PHASE_EFF 3) 0x97).setPwm 3 { wRun.pwmOf 3 with syncAt := some 4010 }).get (PWM_PHASE_EFF_PHASE (3 : Fin 32).val)) / 16 : Nat))) % ((((({ wRun with cyc := 4010 }.put (PWM_CTRL_SYNCEN 3) 1).put (PWM_CTRL_CNTMODE 3) 0).wr (PWM_PHASE_EFF 3) 0x97).setPwm 3 { wRun.pwmOf 3 with syncAt := some 4010 }).pwmPeriod (3 : Fin 32).val : Int) = 0)) := by
  and_intros <;> decide +kernel

theorem witness_forces_trips_and_synchronisation_act_on_their_module_part2 :
    (((wRun.pwmOf (3 : Fin 32).val).syncAt ≠ some wRun.cyc))
    ∧ (((wRun.setPwm 3 { wRun.pwmOf 3 with lastZero := some 7 }).ticking = true)
    ∧ ((wRun.setPwm 3 { wRun.pwmOf 3 with lastZero := some 7 }).pwm.length = 32)
    ∧ (((wRun.setPwm 3 { wRun.pwmOf 3 with lastZero := some 7 }).pwmOf (3 : Fin 32).val).tapZero ≠ ((wRun.setPwm 3 { wRun.pwmOf 3 with lastZero := some 7 }).pwmOf (3 : Fin 32).val).lastZero))
    ∧ (((wRun.pwmOf (3 : Fin 32).val).tapZero = (wRun.pwmOf (3 : Fin 32).val).lastZero)) := by
  and_intros <;> decide +kernel

theorem witness_locks_lock_and_change_nothing_else :
    ((wOn.Reaches (Initiator.kp : Initiator) CEC_LOCK.addr)
    ∧ ((0xFFFFFFFF : Word).getLsbD 0 = true))
    ∧ ((wOn.Reaches (Initiator.kp : Initiator) CEC_LOCK.addr)
    ∧ ((0x7FFFFFFE : Word).getLsbD 0 = false))
    ∧ ((wOn.Reaches (Initiator.kp : Initiator) TRN_LOCK.addr)
    ∧ ((0x7FFFFFFE : Word).getLsbD 0 = false))
    ∧ ((wOn.Reaches (Initiator.kp : Initiator) WMG_LOCK.addr)
    ∧ ((0x7FFFFFFE : Word).getLsbD 0 = false))
    ∧ ((wOn.Reaches (Initiator.kp : Initiator) ADG_CTRL.addr)
    ∧ ((1 : Word).getLsbD 31 = false))
    ∧ ((wOn.Reaches (Initiator.kp : Initiator) (PU_CTRL (7 : Fin 12).val).addr)
    ∧ (∀ (c : Fin 4) (th : Fin 3), (Initiator.kp : Initiator) = .sc c th → (7 : Fin 12).val ≠ c.val * 3 + (if wOn.scRedundant c.val then 0 else th.val))) := by
  and_intros <;> decide +kernel

theorem witness_locks_lock_and_change_nothing_else_part2 :
    ((wOn.Reaches (Initiator.kp : Initiator) MDM_LOCK.addr))
    ∧ ((wOn.Reaches (Initiator.kp : Initiator) GDG_LOCK.addr))
    ∧ ((wOn.Reaches (Initiator.kp : Initiator) ADG_CTRL.addr)
    ∧ ((0xFFFFFFFF : Word).getLsbD 31 = true))
    ∧ ((wOn.Reaches (Initiator.kp : Initiator) TRN_LOCK.addr)
    ∧ ((0xFFFFFFFF : Word).getLsbD 0 = true))
    ∧ ((wOn.Reaches (Initiator.kp : Initiator) WMG_LOCK.addr)
    ∧ ((0xFFFFFFFF : Word).getLsbD 0 = true))
    ∧ ((wOn.Reaches (Initiator.kp : Initiator) POSG_LOCK.addr)) := by
  and_intros <;> decide +kernel

theorem witness_locks_lock_and_change_nothing_else_part3 :
    ((wOn.Reaches (Initiator.kp : Initiator) LGC_CTRL.addr))
    ∧ ((wOn.Reaches (Initiator.kp : Initiator) STU_CTRL.addr))
    ∧ ((wOn.Reaches (.sc (2 : Fin 4) (1 : Fin 3)) (PU_CTRL (7 : Fin 12).val).addr)
    ∧ ((7 : Fin 12).val = (2 : Fin 4).val * 3 + (if wOn.scRedundant (2 : Fin 4).val then 0 else (1 : Fin 3).val)))
    ∧ ((wOn.Reaches (Initiator.kp : Initiator) KCP_CFG.addr))
    ∧ ((wOn.Reaches (Initiator.kp : Initiator) ETH_LOCK.addr))
    ∧ ((wOn.Reaches (Initiator.kp : Initiator) THM_CFG.addr)) := by
  and_intros <;> decide +kernel

theorem witness_locked_fields_keep_their_values :
    (((wOn.put CEC_LOCK_OWN_LOCK 1).Reaches (Initiator.kp : Initiator) CEC_LOCK.addr)
    ∧ ((wOn.put CEC_LOCK_OWN_LOCK 1).is CEC_LOCK_OWN_LOCK = true))
    ∧ (((wOn.put CEC_LOCK_OWN_LOCK 1).Reaches (Initiator.kp : Initiator) (CEC_PWMOWN (2 : Fin 4).val).addr)
    ∧ ((wOn.put CEC_LOCK_OWN_LOCK 1).is CEC_LOCK_OWN_LOCK = true))
    ∧ (((wOn.put MDM_LOCK_POL_LOCK 1).Reaches (Initiator.kp : Initiator) MDM_PLUGPOL.addr)
    ∧ ((wOn.put MDM_LOCK_POL_LOCK 1).is MDM_LOCK_POL_LOCK = true))
    ∧ (((wOn.put MDM_LOCK_POL_LOCK 1).Reaches (Initiator.kp : Initiator) MDM_PAIRDENY.addr)
    ∧ ((wOn.put MDM_LOCK_POL_LOCK 1).is MDM_LOCK_POL_LOCK = true))
    ∧ (((wOn.put GDG_LOCK_CFG_LOCK 1).Reaches (Initiator.kp : Initiator) (GD_CFG (7 : Fin 64).val).addr)
    ∧ ((wOn.put GDG_LOCK_CFG_LOCK 1).is GDG_LOCK_CFG_LOCK = true))
    ∧ (((wOn.put TRN_LOCK_LOCK 1).Reaches (Initiator.kp : Initiator) (TRN_SEL (7 : Fin 32).val).addr)
    ∧ ((wOn.put TRN_LOCK_LOCK 1).is TRN_LOCK_LOCK = true)) := by
  and_intros <;> decide +kernel

theorem witness_locked_fields_keep_their_values_part2 :
    (((wOn.put ETH_LOCK_LOCK 1).Reaches (Initiator.kp : Initiator) ETH_MAC0.addr)
    ∧ ((wOn.put ETH_LOCK_LOCK 1).is ETH_LOCK_LOCK = true)) := by
  and_intros <;> decide +kernel

theorem witness_access_codes_decide_what_a_write_does :
    ((wOn.Reaches (Initiator.kp : Initiator) GPTP_CFG.addr))
    ∧ ((wOn.Reaches (Initiator.kp : Initiator) TB_OFFSET_LO.addr))
    ∧ ((wOn.Reaches (Initiator.kp : Initiator) ETH_MAC0.addr))
    ∧ ((((wOn.wr SUP_FLT 0xF).setClk { wOn.clk with was := [(SUP_FLT.addr, 0xE)] }).Reaches (Initiator.kp : Initiator) SUP_FLT.addr))
    ∧ ((((wOn.wr CEC_TCMCOLL_CNT 77).setClk { wOn.clk with was := [(CEC_TCMCOLL_CNT.addr, 76)] }).Reaches (Initiator.kp : Initiator) CEC_TCMCOLL_CNT.addr))
    ∧ ((wOn.Reaches (Initiator.kp : Initiator) (0x60100004 + 0x20 : Word).toNat)
    ∧ (0x60100000 ≤ (0x60100004 + 0x20 : Word).toNat)
    ∧ ((0x60100004 + 0x20 : Word).toNat < 0x60200000)
    ∧ (rowOf (0x60100004 + 0x20 : Word).toNat = none)) := by
  and_intros <;> decide +kernel

theorem witness_access_codes_decide_what_a_write_does_part2 :
    ((({ wOn with pllB := false }).answers (Initiator.kp : Initiator) (0x40000004 : Word).toNat = false)) := by
  and_intros <;> decide +kernel

theorem witness_access_codes_decide_what_a_write_does_0 : (wOn.answers (Initiator.kp : Initiator) (0x40800002 : Word).toNat = true)
    ∧ (windowDomain (0x40800002 : Word).toNat = none ∨ (∃ d, windowDomain (0x40800002 : Word).toNat = some d ∧ wOn.isOn d = false) ∨ (0x40000000 ≤ (0x40800002 : Word).toNat ∧ (0x40800002 : Word).toNat % 4 ≠ 0) ∨ (∃ n : Fin 8, (Initiator.kp : Initiator) = .ce n ∧ wOn.ceGrant n.val (0x40800002 : Word).toNat true = false)) :=
  ⟨by decide +kernel, Or.inr (Or.inr (Or.inl (by decide)))⟩

theorem witness_tb_lo_latches_tb_hi_for_its_reader :
    ((({ wOn with cyc := 2 ^ 34 }).answers (Initiator.kp : Initiator) TB_LO.addr = true)
    ∧ (({ wOn with cyc := 2 ^ 34 }).busOk (Initiator.kp : Initiator) TB_LO.addr false = true)) := by
  and_intros <;> decide +kernel

theorem witness_memory_writes_land_where_they_are_addressed :
    ((wOn.Reaches (Initiator.kp : Initiator) (0x30000000 + 4 * (0x8001 : BitVec 19).toNat))
    ∧ (notCe (Initiator.kp : Initiator) = true)
    ∧ (wOn.ceWrote (tcmCe (0x30000000 + 4 * (0x8001 : BitVec 19).toNat)) = []))
    ∧ (((wOn.setCe 0 { wOn.ceOf 0 with stored := (4000, [(0x30020004, 7)]) }).Reaches (Initiator.kp : Initiator) (0x30000000 + 4 * (0x8001 : BitVec 19).toNat))
    ∧ (notCe (Initiator.kp : Initiator) = true)
    ∧ (((wOn.setCe 0 { wOn.ceOf 0 with stored := (4000, [(0x30020004, 7)]) }).ceWrote (tcmCe (0x30000000 + 4 * (0x8001 : BitVec 19).toNat))).any (fun e => e.1 == (0x30000000 + 4 * (0x8001 : BitVec 19).toNat)) = true))
    ∧ (((wOn.wrMem32 0x30020004 77).answers (.sc (1 : Fin 4) (2 : Fin 3)) (0x30000000 + 4 * (0x8001 : BitVec 19).toNat) = true)
    ∧ ((wOn.wrMem32 0x30020004 77).busOk (.sc (1 : Fin 4) (2 : Fin 3)) (0x30000000 + 4 * (0x8001 : BitVec 19).toNat) false = true)
    ∧ ((wOn.wrMem32 0x30020004 77).sc.length = 12))
    ∧ ((wOn.answers (.ce (3 : Fin 8)) (0x30000000 + 4 * (0x8001 : BitVec 19).toNat) = true)
    ∧ ((tcmCe (0x30000000 + 4 * (0x8001 : BitVec 19).toNat)) ≠ (3 : Fin 8).val))
    ∧ ((wOn.Reaches (Initiator.kp : Initiator) TB_CTRL.addr))
    ∧ ((evNext wEvl.evl.queue = some (⟨9000, 3, 5, 1, 0, false, false, []⟩ : EvEntry))
    ∧ (wEvl.ticking = true)
    ∧ (wEvl.pllA = true)
    ∧ (wEvl.evl.lastTick ≠ some wEvl.tick)
    ∧ ((⟨9000, 3, 5, 1, 0, false, false, []⟩ : EvEntry).stamp < wEvl.timebase)) := by
  and_intros <;> decide +kernel

theorem witness_memory_writes_land_where_they_are_addressed_0 : (evNext wOn.evl.queue = none ∨ wOn.ticking = false ∨ wOn.pllA = false ∨ wOn.evl.lastTick = some wOn.tick ∨ (∀ e, evNext wOn.evl.queue = some e → wOn.timebase ≤ e.stamp)) :=
  Or.inl (by decide +kernel)

theorem witness_gate_commands_pass_enable_filter_and_interlock :
    ((wGate.gates.length = 64)
    ∧ (wGate.isOn 6 = true)
    ∧ (wGate.enabled (6 : Fin 64).val = true)
    ∧ ((wGate.gate (6 : Fin 64).val).inp = false)
    ∧ (∀ f ∈ (wGate.gate (6 : Fin 64).val).fallAt, f + 4 ≤ wGate.now)
    ∧ (wGate.is (GD_CFG_ILK_EN ((6 : Fin 64).val / 2 * 2)) = false ∨ ((true : Bool) = false ∧ wGate.is (GD_STATUS_CMD (partner (6 : Fin 64).val)) = false)))
    ∧ ((((wGate.put (GD_STATUS_CMD 7) 1).put (GD_CFG_ILK_EN 6) 1).gates.length = 64)
    ∧ (((wGate.put (GD_STATUS_CMD 7) 1).put (GD_CFG_ILK_EN 6) 1).isOn 6 = true)
    ∧ (((wGate.put (GD_STATUS_CMD 7) 1).put (GD_CFG_ILK_EN 6) 1).enabled (6 : Fin 64).val = true)
    ∧ ((((wGate.put (GD_STATUS_CMD 7) 1).put (GD_CFG_ILK_EN 6) 1).gate (6 : Fin 64).val).inp = false)
    ∧ (∀ f ∈ (((wGate.put (GD_STATUS_CMD 7) 1).put (GD_CFG_ILK_EN 6) 1).gate (6 : Fin 64).val).fallAt, f + 4 ≤ ((wGate.put (GD_STATUS_CMD 7) 1).put (GD_CFG_ILK_EN 6) 1).now)
    ∧ (((wGate.put (GD_STATUS_CMD 7) 1).put (GD_CFG_ILK_EN 6) 1).is (GD_CFG_ILK_EN ((6 : Fin 64).val / 2 * 2)) = true)
    ∧ ((false : Bool) = true ∨ ((wGate.put (GD_STATUS_CMD 7) 1).put (GD_CFG_ILK_EN 6) 1).is (GD_STATUS_CMD (partner (6 : Fin 64).val)) = true))
    ∧ ((wGate.isOn 6 = true)
    ∧ (wGate.enabled (6 : Fin 64).val = true)
    ∧ ((wGate.gate (6 : Fin 64).val).inp = false))
    ∧ (((wGate.setGate 6 { wGate.gate 6 with fallAt := some 0 }).isOn 6 = true)
    ∧ ((wGate.setGate 6 { wGate.gate 6 with fallAt := some 0 }).enabled (6 : Fin 64).val = true)
    ∧ (((wGate.setGate 6 { wGate.gate 6 with fallAt := some 0 }).gate (6 : Fin 64).val).inp = false)
    ∧ (((wGate.setGate 6 { wGate.gate 6 with fallAt := some 0 }).gate (6 : Fin 64).val).fallAt = some (0 : Nat))
    ∧ ((wGate.setGate 6 { wGate.gate 6 with fallAt := some 0 }).now < (0 : Nat) + 4))
    ∧ (((((wGate.put (PWM_STATUS_OUTA 3) 0).put (GD_STATUS_CMD 6) 1).setGate 6 { wGate.gate 6 with inp := true }).gates.length = 64)
    ∧ ((((wGate.put (PWM_STATUS_OUTA 3) 0).put (GD_STATUS_CMD 6) 1).setGate 6 { wGate.gate 6 with inp := true }).isOn 6 = true)
    ∧ ((((wGate.put (PWM_STATUS_OUTA 3) 0).put (GD_STATUS_CMD 6) 1).setGate 6 { wGate.gate 6 with inp := true }).enabled (6 : Fin 64).val = false)
    ∧ (((((wGate.put (PWM_STATUS_OUTA 3) 0).put (GD_STATUS_CMD 6) 1).setGate 6 { wGate.gate 6 with inp := true }).gate (6 : Fin 64).val).inp = true))
    ∧ (((State.reset).isOn 6 = false ∨ ((State.reset).enabled (6 : Fin 64).val = true ∧ ((State.reset).gate (6 : Fin 64).val).inp = true))) := by
  and_intros <;> decide +kernel

theorem witness_gate_commands_pass_enable_filter_and_interlock_part2 :
    ((wOn.isOn 6 = true)
    ∧ (wOn.enabled (6 : Fin 64).val = false)
    ∧ ((wOn.gate (6 : Fin 64).val).inp = false))
    ∧ (((wGate.put (GD_CFG_GINFLT 6) 1).gates.length = 64)
    ∧ ((wGate.put (GD_CFG_GINFLT 6) 1).isOn 6 = true))
    ∧ (((State.reset).isOn 6 = false))
    ∧ ((((wGateOn.put (GD_STATUS_GATE 6) 1).setGate 6 { wGateOn.gate 6 with drv := true }).gates.length = 64)
    ∧ (((wGateOn.put (GD_STATUS_GATE 6) 1).setGate 6 { wGateOn.gate 6 with drv := true }).linkUpGate (6 : Fin 64).val = true)
    ∧ ((((wGateOn.put (GD_STATUS_GATE 6) 1).setGate 6 { wGateOn.gate 6 with drv := true }).gate (6 : Fin 64).val).link = false))
    ∧ ((wOn.linkUpGate (6 : Fin 64).val = false ∨ (wOn.gate (6 : Fin 64).val).link = true))
    ∧ (((((wGateOn.put (GD_STATUS_LINKLOSS 6) 1).setGate 6 { wGateOn.gate 6 with link := true }).setClk { wOn.clk with now := 400 }).gates.length = 64)
    ∧ (((((wGateOn.put (GD_STATUS_LINKLOSS 6) 1).setGate 6 { wGateOn.gate 6 with link := true }).setClk { wOn.clk with now := 400 }).gate (6 : Fin 64).val).link = true)
    ∧ (((((wGateOn.put (GD_STATUS_LINKLOSS 6) 1).setGate 6 { wGateOn.gate 6 with link := true }).setClk { wOn.clk with now := 400 }).gate (6 : Fin 64).val).eff = false)
    ∧ (((((wGateOn.put (GD_STATUS_LINKLOSS 6) 1).setGate 6 { wGateOn.gate 6 with link := true }).setClk { wOn.clk with now := 400 }).gate (6 : Fin 64).val).effAt + 400 ≤ (((wGateOn.put (GD_STATUS_LINKLOSS 6) 1).setGate 6 { wGateOn.gate 6 with link := true }).setClk { wOn.clk with now := 400 }).now)) := by
  and_intros <;> decide +kernel

theorem witness_gate_commands_pass_enable_filter_and_interlock_part3 :
    (((wOn.gate (6 : Fin 64).val).link = false ∨ (wOn.gate (6 : Fin 64).val).eff = true ∨ wOn.now < (wOn.gate (6 : Fin 64).val).effAt + 400))
    ∧ ((wGate.gates.length = 64)
    ∧ (isolated (6 : Fin 64).val = true)
    ∧ (wGate.gatePowered (6 : Fin 64).val = true)
    ∧ (wGate.is (GD_STATUS_BIASOK (6 : Fin 64).val) = false))
    ∧ ((isolated (50 : Fin 64).val = false ∨ wOn.gatePowered (50 : Fin 64).val = false ∨ wOn.is (GD_STATUS_BIASOK (50 : Fin 64).val) = true)) := by
  and_intros <;> decide +kernel

theorem witness_profiles_edges_and_the_loop :
    ((((wOn.setGate 6 { wOn.gate 6 with phase := 1, prof := 0x10501 }).setClk { wOn.clk with now := 4 }).gates.length = 64)
    ∧ (isolated (6 : Fin 64).val = true)
    ∧ ((((wOn.setGate 6 { wOn.gate 6 with phase := 1, prof := 0x10501 }).setClk { wOn.clk with now := 4 }).gate (6 : Fin 64).val).phase ≠ 0)
    ∧ (97 * phaseTime (((wOn.setGate 6 { wOn.gate 6 with phase := 1, prof := 0x10501 }).setClk { wOn.clk with now := 4 }).gate (6 : Fin 64).val).prof.toNat (((wOn.setGate 6 { wOn.gate 6 with phase := 1, prof := 0x10501 }).setClk { wOn.clk with now := 4 }).gate (6 : Fin 64).val).phase ≤ 25 * (((wOn.setGate 6 { wOn.gate 6 with phase := 1, prof := 0x10501 }).setClk { wOn.clk with now := 4 }).now - (((wOn.setGate 6 { wOn.gate 6 with phase := 1, prof := 0x10501 }).setClk { wOn.clk with now := 4 }).gate (6 : Fin 64).val).phaseAt) + 20))
    ∧ ((isolated (6 : Fin 64).val = false ∨ (wOn.gate (6 : Fin 64).val).phase = 0 ∨ 25 * (wOn.now - (wOn.gate (6 : Fin 64).val).phaseAt) + 20 < 97 * phaseTime (wOn.gate (6 : Fin 64).val).prof.toNat (wOn.gate (6 : Fin 64).val).phase))
    ∧ ((wOn.gates.length = 64)
    ∧ (wOn.Reaches (Initiator.kp : Initiator) (profReg (6 : Fin 64).val (false : Bool)).addr)
    ∧ (wOn.gatePopulated (6 : Fin 64).val = true)
    ∧ (isolated (6 : Fin 64).val = true))
    ∧ ((wOn.Reaches (Initiator.kp : Initiator) (profReg (46 : Fin 64).val (false : Bool)).addr)
    ∧ (wOn.gatePopulated (46 : Fin 64).val = false ∨ isolated (46 : Fin 64).val = false))
    ∧ ((wOn.gates.length = 64)
    ∧ (wOn.Reaches (Initiator.kp : Initiator) (GD_LOOP (6 : Fin 64).val).addr)
    ∧ (wOn.gatePopulated (6 : Fin 64).val = true)
    ∧ (isolated (6 : Fin 64).val = true))
    ∧ ((wOn.Reaches (Initiator.kp : Initiator) (GD_LOOP (46 : Fin 64).val).addr)
    ∧ (wOn.gatePopulated (46 : Fin 64).val = false ∨ isolated (46 : Fin 64).val = false)) := by
  and_intros <;> decide +kernel

theorem witness_profiles_edges_and_the_loop_part2 :
    (((((((wOn.put (GD_LEVELS_VOFF 6) 900).put (GD_LEVELS_VON 6) 10).put (GD_SENSE_SNSK 6) 100).put (GD_SENSE_VSWMIN 6) 1).setGate 6 { wOn.gate 6 with levOn := true, levOff := true, monOn := some (2, false) }).gates.length = 64)
    ∧ (((((((wOn.put (GD_LEVELS_VOFF 6) 900).put (GD_LEVELS_VON 6) 10).put (GD_SENSE_SNSK 6) 100).put (GD_SENSE_VSWMIN 6) 1).setGate 6 { wOn.gate 6 with levOn := true, levOff := true, monOn := some (2, false) }).gate (6 : Fin 64).val).monOn = some ((2 : Fin 4).val, false))
    ∧ (((((((wOn.put (GD_LEVELS_VOFF 6) 900).put (GD_LEVELS_VON 6) 10).put (GD_SENSE_SNSK 6) 100).put (GD_SENSE_VSWMIN 6) 1).setGate 6 { wOn.gate 6 with levOn := true, levOff := true, monOn := some (2, false) }).gate (6 : Fin 64).val).levOn = true)
    ∧ (((((((wOn.put (GD_LEVELS_VOFF 6) 900).put (GD_LEVELS_VON 6) 10).put (GD_SENSE_SNSK 6) 100).put (GD_SENSE_VSWMIN 6) 1).setGate 6 { wOn.gate 6 with levOn := true, levOff := true, monOn := some (2, false) }).gate (6 : Fin 64).val).levOff = true)
    ∧ ((((((wOn.put (GD_LEVELS_VOFF 6) 900).put (GD_LEVELS_VON 6) 10).put (GD_SENSE_SNSK 6) 100).put (GD_SENSE_VSWMIN 6) 1).setGate 6 { wOn.gate 6 with levOn := true, levOff := true, monOn := some (2, false) }).get (GD_SENSE_SNSK (6 : Fin 64).val) ≠ 0)
    ∧ (1000 * ((((((wOn.put (GD_LEVELS_VOFF 6) 900).put (GD_LEVELS_VON 6) 10).put (GD_SENSE_SNSK 6) 100).put (GD_SENSE_VSWMIN 6) 1).setGate 6 { wOn.gate 6 with levOn := true, levOff := true, monOn := some (2, false) }).get (GD_SENSE_VSWMIN (6 : Fin 64).val) : Int) ≤ (((((wOn.put (GD_LEVELS_VOFF 6) 900).put (GD_LEVELS_VON 6) 10).put (GD_SENSE_SNSK 6) 100).put (GD_SENSE_VSWMIN 6) 1).setGate 6 { wOn.gate 6 with levOn := true, levOff := true, monOn := some (2, false) }).switched (6 : Fin 64).val)
    ∧ (max (100 : Fin 65536).val (177 : Fin 65536).val < (((((wOn.put (GD_LEVELS_VOFF 6) 900).put (GD_LEVELS_VON 6) 10).put (GD_SENSE_SNSK 6) 100).put (GD_SENSE_VSWMIN 6) 1).setGate 6 { wOn.gate 6 with levOn := true, levOff := true, monOn := some (2, false) }).measWin (6 : Fin 64).val)
    ∧ ((max (100 : Fin 65536).val (177 : Fin 65536).val - min (100 : Fin 65536).val (177 : Fin 65536).val) ≤ 4095))
    ∧ (((wOn.setGate 6 { wOn.gate 6 with monOn := some (2, false) }).gates.length = 64)
    ∧ (((wOn.setGate 6 { wOn.gate 6 with monOn := some (2, false) }).gate (6 : Fin 64).val).monOn = some ((2 : Fin 4).val, (false : Bool)))
    ∧ (((wOn.setGate 6 { wOn.gate 6 with monOn := some (2, false) }).gate (6 : Fin 64).val).levOn = false ∨ ((wOn.setGate 6 { wOn.gate 6 with monOn := some (2, false) }).gate (6 : Fin 64).val).levOff = false ∨ (wOn.setGate 6 { wOn.gate 6 with monOn := some (2, false) }).get (GD_SENSE_SNSK (6 : Fin 64).val) = 0 ∨ (wOn.setGate 6 { wOn.gate 6 with monOn := some (2, false) }).switched (6 : Fin 64).val < 1000 * ((wOn.setGate 6 { wOn.gate 6 with monOn := some (2, false) }).get (GD_SENSE_VSWMIN (6 : Fin 64).val) : Int)))
    ∧ (((((((wOn.put (GD_LEVELS_VOFF 6) 900).put (GD_LEVELS_VON 6) 10).put (GD_SENSE_SNSK 6) 100).put (GD_SENSE_VSWMIN 6) 1).setGate 6 { wOn.gate 6 with levOn := true, levOff := true, monOn := some (2, false) }).gates.length = 64)
    ∧ (((((((wOn.put (GD_LEVELS_VOFF 6) 900).put (GD_LEVELS_VON 6) 10).put (GD_SENSE_SNSK 6) 100).put (GD_SENSE_VSWMIN 6) 1).setGate 6 { wOn.gate 6 with levOn := true, levOff := true, monOn := some (2, false) }).gate (6 : Fin 64).val).monOn = some ((2 : Fin 4).val, (false : Bool)))
    ∧ (((((((wOn.put (GD_LEVELS_VOFF 6) 900).put (GD_LEVELS_VON 6) 10).put (GD_SENSE_SNSK 6) 100).put (GD_SENSE_VSWMIN 6) 1).setGate 6 { wOn.gate 6 with levOn := true, levOff := true, monOn := some (2, false) }).gate (6 : Fin 64).val).levOn = true)
    ∧ (((((((wOn.put (GD_LEVELS_VOFF 6) 900).put (GD_LEVELS_VON 6) 10).put (GD_SENSE_SNSK 6) 100).put (GD_SENSE_VSWMIN 6) 1).setGate 6 { wOn.gate 6 with levOn := true, levOff := true, monOn := some (2, false) }).gate (6 : Fin 64).val).levOff = true)
    ∧ ((((((wOn.put (GD_LEVELS_VOFF 6) 900).put (GD_LEVELS_VON 6) 10).put (GD_SENSE_SNSK 6) 100).put (GD_SENSE_VSWMIN 6) 1).setGate 6 { wOn.gate 6 with levOn := true, levOff := true, monOn := some (2, false) }).get (GD_SENSE_SNSK (6 : Fin 64).val) ≠ 0)
    ∧ (1000 * ((((((wOn.put (GD_LEVELS_VOFF 6) 900).put (GD_LEVELS_VON 6) 10).put (GD_SENSE_SNSK 6) 100).put (GD_SENSE_VSWMIN 6) 1).setGate 6 { wOn.gate 6 with levOn := true, levOff := true, monOn := some (2, false) }).get (GD_SENSE_VSWMIN (6 : Fin 64).val) : Int) ≤ (((((wOn.put (GD_LEVELS_VOFF 6) 900).put (GD_LEVELS_VON 6) 10).put (GD_SENSE_SNSK 6) 100).put (GD_SENSE_VSWMIN 6) 1).setGate 6 { wOn.gate 6 with levOn := true, levOff := true, monOn := some (2, false) }).switched (6 : Fin 64).val))
    ∧ (((((((wOn.put (GD_LEVELS_VOFF 6) 900).put (GD_LEVELS_VON 6) 10).put (GD_SENSE_SNSK 6) 100).put (GD_SENSE_VSWMIN 6) 1).setGate 6 { wOn.gate 6 with levOn := true, levOff := true, monOn := some (2, false) }).gates.length = 64)
    ∧ (((((((wOn.put (GD_LEVELS_VOFF 6) 900).put (GD_LEVELS_VON 6) 10).put (GD_SENSE_SNSK 6) 100).put (GD_SENSE_VSWMIN 6) 1).setGate 6 { wOn.gate 6 with levOn := true, levOff := true, monOn := some (2, false) }).gate (6 : Fin 64).val).monOn = some ((2 : Fin 4).val, (false : Bool)))
    ∧ (((((((wOn.put (GD_LEVELS_VOFF 6) 900).put (GD_LEVELS_VON 6) 10).put (GD_SENSE_SNSK 6) 100).put (GD_SENSE_VSWMIN 6) 1).setGate 6 { wOn.gate 6 with levOn := true, levOff := true, monOn := some (2, false) }).gate (6 : Fin 64).val).levOn = true)
    ∧ (((((((wOn.put (GD_LEVELS_VOFF 6) 900).put (GD_LEVELS_VON 6) 10).put (GD_SENSE_SNSK 6) 100).put (GD_SENSE_VSWMIN 6) 1).setGate 6 { wOn.gate 6 with levOn := true, levOff := true, monOn := some (2, false) }).gate (6 : Fin 64).val).levOff = true)
    ∧ ((((((wOn.put (GD_LEVELS_VOFF 6) 900).put (GD_LEVELS_VON 6) 10).put (GD_SENSE_SNSK 6) 100).put (GD_SENSE_VSWMIN 6) 1).setGate 6 { wOn.gate 6 with levOn := true, levOff := true, monOn := some (2, false) }).get (GD_SENSE_SNSK (6 : Fin 64).val) ≠ 0)
    ∧ (1000 * ((((((wOn.put (GD_LEVELS_VOFF 6) 900).put (GD_LEVELS_VON 6) 10).put (GD_SENSE_SNSK 6) 100).put (GD_SENSE_VSWMIN 6) 1).setGate 6 { wOn.gate 6 with levOn := true, levOff := true, monOn := some (2, false) }).get (GD_SENSE_VSWMIN (6 : Fin 64).val) : Int) ≤ (((((wOn.put (GD_LEVELS_VOFF 6) 900).put (GD_LEVELS_VON 6) 10).put (GD_SENSE_SNSK 6) 100).put (GD_SENSE_VSWMIN 6) 1).setGate 6 { wOn.gate 6 with levOn := true, levOff := true, monOn := some (2, false) }).switched (6 : Fin 64).val)
    ∧ ((((((wOn.put (GD_LEVELS_VOFF 6) 900).put (GD_LEVELS_VON 6) 10).put (GD_SENSE_SNSK 6) 100).put (GD_SENSE_VSWMIN 6) 1).setGate 6 { wOn.gate 6 with levOn := true, levOff := true, monOn := some (2, false) }).measWin (6 : Fin 64).val ≤ max (1 : Fin 65536).val (65535 : Fin 65536).val))
    ∧ ((((((((wOn.put (GD_LEVELS_VOFF 6) 900).put (GD_LEVELS_VON 6) 10).put (GD_SENSE_SNSK 6) 100).put (GD_SENSE_VSWMIN 6) 1).setGate 6 { wOn.gate 6 with levOn := true, levOff := true, monOn := some (2, false) }).put (GD_SENSE_MEASWIN 6) 255).gates.length = 64)
    ∧ ((((((((wOn.put (GD_LEVELS_VOFF 6) 900).put (GD_LEVELS_VON 6) 10).put (GD_SENSE_SNSK 6) 100).put (GD_SENSE_VSWMIN 6) 1).setGate 6 { wOn.gate 6 with levOn := true, levOff := true, monOn := some (2, false) }).put (GD_SENSE_MEASWIN 6) 255).gate (6 : Fin 64).val).monOn = some ((2 : Fin 4).val, (false : Bool)))
    ∧ ((((((((wOn.put (GD_LEVELS_VOFF 6) 900).put (GD_LEVELS_VON 6) 10).put (GD_SENSE_SNSK 6) 100).put (GD_SENSE_VSWMIN 6) 1).setGate 6 { wOn.gate 6 with levOn := true, levOff := true, monOn := some (2, false) }).put (GD_SENSE_MEASWIN 6) 255).gate (6 : Fin 64).val).levOn = true)
    ∧ ((((((((wOn.put (GD_LEVELS_VOFF 6) 900).put (GD_LEVELS_VON 6) 10).put (GD_SENSE_SNSK 6) 100).put (GD_SENSE_VSWMIN 6) 1).setGate 6 { wOn.gate 6 with levOn := true, levOff := true, monOn := some (2, false) }).put (GD_SENSE_MEASWIN 6) 255).gate (6 : Fin 64).val).levOff = true)
    ∧ (((((((wOn.put (GD_LEVELS_VOFF 6) 900).put (GD_LEVELS_VON 6) 10).put (GD_SENSE_SNSK 6) 100).put (GD_SENSE_VSWMIN 6) 1).setGate 6 { wOn.gate 6 with levOn := true, levOff := true, monOn := some (2, false) }).put (GD_SENSE_MEASWIN 6) 255).get (GD_SENSE_SNSK (6 : Fin 64).val) ≠ 0)
    ∧ (1000 * (((((((wOn.put (GD_LEVELS_VOFF 6) 900).put (GD_LEVELS_VON 6) 10).put (GD_SENSE_SNSK 6) 100).put (GD_SENSE_VSWMIN 6) 1).setGate 6 { wOn.gate 6 with levOn := true, levOff := true, monOn := some (2, false) }).put (GD_SENSE_MEASWIN 6) 255).get (GD_SENSE_VSWMIN (6 : Fin 64).val) : Int) ≤ ((((((wOn.put (GD_LEVELS_VOFF 6) 900).put (GD_LEVELS_VON 6) 10).put (GD_SENSE_SNSK 6) 100).put (GD_SENSE_VSWMIN 6) 1).setGate 6 { wOn.gate 6 with levOn := true, levOff := true, monOn := some (2, false) }).put (GD_SENSE_MEASWIN 6) 255).switched (6 : Fin 64).val)
    ∧ (max (10000 : Fin 65536).val (1 : Fin 65536).val < ((((((wOn.put (GD_LEVELS_VOFF 6) 900).put (GD_LEVELS_VON 6) 10).put (GD_SENSE_SNSK 6) 100).put (GD_SENSE_VSWMIN 6) 1).setGate 6 { wOn.gate 6 with levOn := true, levOff := true, monOn := some (2, false) }).put (GD_SENSE_MEASWIN 6) 255).measWin (6 : Fin 64).val)
    ∧ (4095 < (max (10000 : Fin 65536).val (1 : Fin 65536).val - min (10000 : Fin 65536).val (1 : Fin 65536).val)))
    ∧ (((((((wOn.put (GD_LEVELS_VOFF 6) 900).put (GD_LEVELS_VON 6) 10).put (GD_SENSE_SNSK 6) 100).put (GD_SENSE_VSWMIN 6) 1).setGate 6 { wOn.gate 6 with levOn := true, levOff := true, monOn := some (2, true) }).gates.length = 64)
    ∧ (((((((wOn.put (GD_LEVELS_VOFF 6) 900).put (GD_LEVELS_VON 6) 10).put (GD_SENSE_SNSK 6) 100).put (GD_SENSE_VSWMIN 6) 1).setGate 6 { wOn.gate 6 with levOn := true, levOff := true, monOn := some (2, true) }).gate (6 : Fin 64).val).monOn = some ((2 : Fin 4).val, true))
    ∧ (((((((wOn.put (GD_LEVELS_VOFF 6) 900).put (GD_LEVELS_VON 6) 10).put (GD_SENSE_SNSK 6) 100).put (GD_SENSE_VSWMIN 6) 1).setGate 6 { wOn.gate 6 with levOn := true, levOff := true, monOn := some (2, true) }).gate (6 : Fin 64).val).levOn = true)
    ∧ (((((((wOn.put (GD_LEVELS_VOFF 6) 900).put (GD_LEVELS_VON 6) 10).put (GD_SENSE_SNSK 6) 100).put (GD_SENSE_VSWMIN 6) 1).setGate 6 { wOn.gate 6 with levOn := true, levOff := true, monOn := some (2, true) }).gate (6 : Fin 64).val).levOff = true)
    ∧ ((((((wOn.put (GD_LEVELS_VOFF 6) 900).put (GD_LEVELS_VON 6) 10).put (GD_SENSE_SNSK 6) 100).put (GD_SENSE_VSWMIN 6) 1).setGate 6 { wOn.gate 6 with levOn := true, levOff := true, monOn := some (2, true) }).get (GD_SENSE_SNSK (6 : Fin 64).val) ≠ 0)
    ∧ (1000 * ((((((wOn.put (GD_LEVELS_VOFF 6) 900).put (GD_LEVELS_VON 6) 10).put (GD_SENSE_SNSK 6) 100).put (GD_SENSE_VSWMIN 6) 1).setGate 6 { wOn.gate 6 with levOn := true, levOff := true, monOn := some (2, true) }).get (GD_SENSE_VSWMIN (6 : Fin 64).val) : Int) ≤ (((((wOn.put (GD_LEVELS_VOFF 6) 900).put (GD_LEVELS_VON 6) 10).put (GD_SENSE_SNSK 6) 100).put (GD_SENSE_VSWMIN 6) 1).setGate 6 { wOn.gate 6 with levOn := true, levOff := true, monOn := some (2, true) }).switched (6 : Fin 64).val)
    ∧ (max (100 : Fin 65536).val (177 : Fin 65536).val < (((((wOn.put (GD_LEVELS_VOFF 6) 900).put (GD_LEVELS_VON 6) 10).put (GD_SENSE_SNSK 6) 100).put (GD_SENSE_VSWMIN 6) 1).setGate 6 { wOn.gate 6 with levOn := true, levOff := true, monOn := some (2, true) }).measWin (6 : Fin 64).val)
    ∧ ((max (100 : Fin 65536).val (177 : Fin 65536).val - min (100 : Fin 65536).val (177 : Fin 65536).val) ≤ 4095)) := by
  and_intros <;> decide +kernel

theorem witness_profiles_edges_and_the_loop_part3 :
    (((wOn.gate (6 : Fin 64).val).monOn = none))
    ∧ (((((((wOn.put (GD_LEVELS_VOFF 6) 900).put (GD_LEVELS_VON 6) 10).put (GD_SENSE_SNSK 6) 100).put (GD_SENSE_VSWMIN 6) 1).setGate 6 { wOn.gate 6 with levOn := true, levOff := true, monOff := some (2, false) }).gates.length = 64)
    ∧ (((((((wOn.put (GD_LEVELS_VOFF 6) 900).put (GD_LEVELS_VON 6) 10).put (GD_SENSE_SNSK 6) 100).put (GD_SENSE_VSWMIN 6) 1).setGate 6 { wOn.gate 6 with levOn := true, levOff := true, monOff := some (2, false) }).gate (6 : Fin 64).val).monOff = some ((2 : Fin 4).val, false))
    ∧ (((((((wOn.put (GD_LEVELS_VOFF 6) 900).put (GD_LEVELS_VON 6) 10).put (GD_SENSE_SNSK 6) 100).put (GD_SENSE_VSWMIN 6) 1).setGate 6 { wOn.gate 6 with levOn := true, levOff := true, monOff := some (2, false) }).gate (6 : Fin 64).val).levOn = true)
    ∧ (((((((wOn.put (GD_LEVELS_VOFF 6) 900).put (GD_LEVELS_VON 6) 10).put (GD_SENSE_SNSK 6) 100).put (GD_SENSE_VSWMIN 6) 1).setGate 6 { wOn.gate 6 with levOn := true, levOff := true, monOff := some (2, false) }).gate (6 : Fin 64).val).levOff = true)
    ∧ ((((((wOn.put (GD_LEVELS_VOFF 6) 900).put (GD_LEVELS_VON 6) 10).put (GD_SENSE_SNSK 6) 100).put (GD_SENSE_VSWMIN 6) 1).setGate 6 { wOn.gate 6 with levOn := true, levOff := true, monOff := some (2, false) }).get (GD_SENSE_SNSK (6 : Fin 64).val) ≠ 0)
    ∧ (1000 * ((((((wOn.put (GD_LEVELS_VOFF 6) 900).put (GD_LEVELS_VON 6) 10).put (GD_SENSE_SNSK 6) 100).put (GD_SENSE_VSWMIN 6) 1).setGate 6 { wOn.gate 6 with levOn := true, levOff := true, monOff := some (2, false) }).get (GD_SENSE_VSWMIN (6 : Fin 64).val) : Int) ≤ (((((wOn.put (GD_LEVELS_VOFF 6) 900).put (GD_LEVELS_VON 6) 10).put (GD_SENSE_SNSK 6) 100).put (GD_SENSE_VSWMIN 6) 1).setGate 6 { wOn.gate 6 with levOn := true, levOff := true, monOff := some (2, false) }).switched (6 : Fin 64).val)
    ∧ (max (100 : Fin 65536).val (177 : Fin 65536).val < (((((wOn.put (GD_LEVELS_VOFF 6) 900).put (GD_LEVELS_VON 6) 10).put (GD_SENSE_SNSK 6) 100).put (GD_SENSE_VSWMIN 6) 1).setGate 6 { wOn.gate 6 with levOn := true, levOff := true, monOff := some (2, false) }).measWin (6 : Fin 64).val)
    ∧ ((max (100 : Fin 65536).val (177 : Fin 65536).val - min (100 : Fin 65536).val (177 : Fin 65536).val) ≤ 4095))
    ∧ (((wOn.setGate 6 { wOn.gate 6 with monOff := some (2, false) }).gates.length = 64)
    ∧ (((wOn.setGate 6 { wOn.gate 6 with monOff := some (2, false) }).gate (6 : Fin 64).val).monOff = some ((2 : Fin 4).val, (false : Bool)))
    ∧ (((wOn.setGate 6 { wOn.gate 6 with monOff := some (2, false) }).gate (6 : Fin 64).val).levOn = false ∨ ((wOn.setGate 6 { wOn.gate 6 with monOff := some (2, false) }).gate (6 : Fin 64).val).levOff = false ∨ (wOn.setGate 6 { wOn.gate 6 with monOff := some (2, false) }).get (GD_SENSE_SNSK (6 : Fin 64).val) = 0 ∨ (wOn.setGate 6 { wOn.gate 6 with monOff := some (2, false) }).switched (6 : Fin 64).val < 1000 * ((wOn.setGate 6 { wOn.gate 6 with monOff := some (2, false) }).get (GD_SENSE_VSWMIN (6 : Fin 64).val) : Int)))
    ∧ (((((((wOn.put (GD_LEVELS_VOFF 6) 900).put (GD_LEVELS_VON 6) 10).put (GD_SENSE_SNSK 6) 100).put (GD_SENSE_VSWMIN 6) 1).setGate 6 { wOn.gate 6 with levOn := true, levOff := true, monOff := some (2, false) }).gates.length = 64)
    ∧ (((((((wOn.put (GD_LEVELS_VOFF 6) 900).put (GD_LEVELS_VON 6) 10).put (GD_SENSE_SNSK 6) 100).put (GD_SENSE_VSWMIN 6) 1).setGate 6 { wOn.gate 6 with levOn := true, levOff := true, monOff := some (2, false) }).gate (6 : Fin 64).val).monOff = some ((2 : Fin 4).val, (false : Bool)))
    ∧ (((((((wOn.put (GD_LEVELS_VOFF 6) 900).put (GD_LEVELS_VON 6) 10).put (GD_SENSE_SNSK 6) 100).put (GD_SENSE_VSWMIN 6) 1).setGate 6 { wOn.gate 6 with levOn := true, levOff := true, monOff := some (2, false) }).gate (6 : Fin 64).val).levOn = true)
    ∧ (((((((wOn.put (GD_LEVELS_VOFF 6) 900).put (GD_LEVELS_VON 6) 10).put (GD_SENSE_SNSK 6) 100).put (GD_SENSE_VSWMIN 6) 1).setGate 6 { wOn.gate 6 with levOn := true, levOff := true, monOff := some (2, false) }).gate (6 : Fin 64).val).levOff = true)
    ∧ ((((((wOn.put (GD_LEVELS_VOFF 6) 900).put (GD_LEVELS_VON 6) 10).put (GD_SENSE_SNSK 6) 100).put (GD_SENSE_VSWMIN 6) 1).setGate 6 { wOn.gate 6 with levOn := true, levOff := true, monOff := some (2, false) }).get (GD_SENSE_SNSK (6 : Fin 64).val) ≠ 0)
    ∧ (1000 * ((((((wOn.put (GD_LEVELS_VOFF 6) 900).put (GD_LEVELS_VON 6) 10).put (GD_SENSE_SNSK 6) 100).put (GD_SENSE_VSWMIN 6) 1).setGate 6 { wOn.gate 6 with levOn := true, levOff := true, monOff := some (2, false) }).get (GD_SENSE_VSWMIN (6 : Fin 64).val) : Int) ≤ (((((wOn.put (GD_LEVELS_VOFF 6) 900).put (GD_LEVELS_VON 6) 10).put (GD_SENSE_SNSK 6) 100).put (GD_SENSE_VSWMIN 6) 1).setGate 6 { wOn.gate 6 with levOn := true, levOff := true, monOff := some (2, false) }).switched (6 : Fin 64).val))
    ∧ (((((((wOn.put (GD_LEVELS_VOFF 6) 900).put (GD_LEVELS_VON 6) 10).put (GD_SENSE_SNSK 6) 100).put (GD_SENSE_VSWMIN 6) 1).setGate 6 { wOn.gate 6 with levOn := true, levOff := true, monOff := some (2, false) }).gates.length = 64)
    ∧ (((((((wOn.put (GD_LEVELS_VOFF 6) 900).put (GD_LEVELS_VON 6) 10).put (GD_SENSE_SNSK 6) 100).put (GD_SENSE_VSWMIN 6) 1).setGate 6 { wOn.gate 6 with levOn := true, levOff := true, monOff := some (2, false) }).gate (6 : Fin 64).val).monOff = some ((2 : Fin 4).val, (false : Bool)))
    ∧ (((((((wOn.put (GD_LEVELS_VOFF 6) 900).put (GD_LEVELS_VON 6) 10).put (GD_SENSE_SNSK 6) 100).put (GD_SENSE_VSWMIN 6) 1).setGate 6 { wOn.gate 6 with levOn := true, levOff := true, monOff := some (2, false) }).gate (6 : Fin 64).val).levOn = true)
    ∧ (((((((wOn.put (GD_LEVELS_VOFF 6) 900).put (GD_LEVELS_VON 6) 10).put (GD_SENSE_SNSK 6) 100).put (GD_SENSE_VSWMIN 6) 1).setGate 6 { wOn.gate 6 with levOn := true, levOff := true, monOff := some (2, false) }).gate (6 : Fin 64).val).levOff = true)
    ∧ ((((((wOn.put (GD_LEVELS_VOFF 6) 900).put (GD_LEVELS_VON 6) 10).put (GD_SENSE_SNSK 6) 100).put (GD_SENSE_VSWMIN 6) 1).setGate 6 { wOn.gate 6 with levOn := true, levOff := true, monOff := some (2, false) }).get (GD_SENSE_SNSK (6 : Fin 64).val) ≠ 0)
    ∧ (1000 * ((((((wOn.put (GD_LEVELS_VOFF 6) 900).put (GD_LEVELS_VON 6) 10).put (GD_SENSE_SNSK 6) 100).put (GD_SENSE_VSWMIN 6) 1).setGate 6 { wOn.gate 6 with levOn := true, levOff := true, monOff := some (2, false) }).get (GD_SENSE_VSWMIN (6 : Fin 64).val) : Int) ≤ (((((wOn.put (GD_LEVELS_VOFF 6) 900).put (GD_LEVELS_VON 6) 10).put (GD_SENSE_SNSK 6) 100).put (GD_SENSE_VSWMIN 6) 1).setGate 6 { wOn.gate 6 with levOn := true, levOff := true, monOff := some (2, false) }).switched (6 : Fin 64).val)
    ∧ ((((((wOn.put (GD_LEVELS_VOFF 6) 900).put (GD_LEVELS_VON 6) 10).put (GD_SENSE_SNSK 6) 100).put (GD_SENSE_VSWMIN 6) 1).setGate 6 { wOn.gate 6 with levOn := true, levOff := true, monOff := some (2, false) }).measWin (6 : Fin 64).val ≤ max (1 : Fin 65536).val (65535 : Fin 65536).val))
    ∧ ((((((((wOn.put (GD_LEVELS_VOFF 6) 900).put (GD_LEVELS_VON 6) 10).put (GD_SENSE_SNSK 6) 100).put (GD_SENSE_VSWMIN 6) 1).setGate 6 { wOn.gate 6 with levOn := true, levOff := true, monOff := some (2, false) }).put (GD_SENSE_MEASWIN 6) 255).gates.length = 64)
    ∧ ((((((((wOn.put (GD_LEVELS_VOFF 6) 900).put (GD_LEVELS_VON 6) 10).put (GD_SENSE_SNSK 6) 100).put (GD_SENSE_VSWMIN 6) 1).setGate 6 { wOn.gate 6 with levOn := true, levOff := true, monOff := some (2, false) }).put (GD_SENSE_MEASWIN 6) 255).gate (6 : Fin 64).val).monOff = some ((2 : Fin 4).val, (false : Bool)))
    ∧ ((((((((wOn.put (GD_LEVELS_VOFF 6) 900).put (GD_LEVELS_VON 6) 10).put (GD_SENSE_SNSK 6) 100).put (GD_SENSE_VSWMIN 6) 1).setGate 6 { wOn.gate 6 with levOn := true, levOff := true, monOff := some (2, false) }).put (GD_SENSE_MEASWIN 6) 255).gate (6 : Fin 64).val).levOn = true)
    ∧ ((((((((wOn.put (GD_LEVELS_VOFF 6) 900).put (GD_LEVELS_VON 6) 10).put (GD_SENSE_SNSK 6) 100).put (GD_SENSE_VSWMIN 6) 1).setGate 6 { wOn.gate 6 with levOn := true, levOff := true, monOff := some (2, false) }).put (GD_SENSE_MEASWIN 6) 255).gate (6 : Fin 64).val).levOff = true)
    ∧ (((((((wOn.put (GD_LEVELS_VOFF 6) 900).put (GD_LEVELS_VON 6) 10).put (GD_SENSE_SNSK 6) 100).put (GD_SENSE_VSWMIN 6) 1).setGate 6 { wOn.gate 6 with levOn := true, levOff := true, monOff := some (2, false) }).put (GD_SENSE_MEASWIN 6) 255).get (GD_SENSE_SNSK (6 : Fin 64).val) ≠ 0)
    ∧ (1000 * (((((((wOn.put (GD_LEVELS_VOFF 6) 900).put (GD_LEVELS_VON 6) 10).put (GD_SENSE_SNSK 6) 100).put (GD_SENSE_VSWMIN 6) 1).setGate 6 { wOn.gate 6 with levOn := true, levOff := true, monOff := some (2, false) }).put (GD_SENSE_MEASWIN 6) 255).get (GD_SENSE_VSWMIN (6 : Fin 64).val) : Int) ≤ ((((((wOn.put (GD_LEVELS_VOFF 6) 900).put (GD_LEVELS_VON 6) 10).put (GD_SENSE_SNSK 6) 100).put (GD_SENSE_VSWMIN 6) 1).setGate 6 { wOn.gate 6 with levOn := true, levOff := true, monOff := some (2, false) }).put (GD_SENSE_MEASWIN 6) 255).switched (6 : Fin 64).val)
    ∧ (max (10000 : Fin 65536).val (1 : Fin 65536).val < ((((((wOn.put (GD_LEVELS_VOFF 6) 900).put (GD_LEVELS_VON 6) 10).put (GD_SENSE_SNSK 6) 100).put (GD_SENSE_VSWMIN 6) 1).setGate 6 { wOn.gate 6 with levOn := true, levOff := true, monOff := some (2, false) }).put (GD_SENSE_MEASWIN 6) 255).measWin (6 : Fin 64).val)
    ∧ (4095 < (max (10000 : Fin 65536).val (1 : Fin 65536).val - min (10000 : Fin 65536).val (1 : Fin 65536).val))) := by
  and_intros <;> decide +kernel

theorem witness_profiles_edges_and_the_loop_part4 :
    (((((((wOn.put (GD_LEVELS_VOFF 6) 900).put (GD_LEVELS_VON 6) 10).put (GD_SENSE_SNSK 6) 100).put (GD_SENSE_VSWMIN 6) 1).setGate 6 { wOn.gate 6 with levOn := true, levOff := true, monOff := some (2, true) }).gates.length = 64)
    ∧ (((((((wOn.put (GD_LEVELS_VOFF 6) 900).put (GD_LEVELS_VON 6) 10).put (GD_SENSE_SNSK 6) 100).put (GD_SENSE_VSWMIN 6) 1).setGate 6 { wOn.gate 6 with levOn := true, levOff := true, monOff := some (2, true) }).gate (6 : Fin 64).val).monOff = some ((2 : Fin 4).val, true))
    ∧ (((((((wOn.put (GD_LEVELS_VOFF 6) 900).put (GD_LEVELS_VON 6) 10).put (GD_SENSE_SNSK 6) 100).put (GD_SENSE_VSWMIN 6) 1).setGate 6 { wOn.gate 6 with levOn := true, levOff := true, monOff := some (2, true) }).gate (6 : Fin 64).val).levOn = true)
    ∧ (((((((wOn.put (GD_LEVELS_VOFF 6) 900).put (GD_LEVELS_VON 6) 10).put (GD_SENSE_SNSK 6) 100).put (GD_SENSE_VSWMIN 6) 1).setGate 6 { wOn.gate 6 with levOn := true, levOff := true, monOff := some (2, true) }).gate (6 : Fin 64).val).levOff = true)
    ∧ ((((((wOn.put (GD_LEVELS_VOFF 6) 900).put (GD_LEVELS_VON 6) 10).put (GD_SENSE_SNSK 6) 100).put (GD_SENSE_VSWMIN 6) 1).setGate 6 { wOn.gate 6 with levOn := true, levOff := true, monOff := some (2, true) }).get (GD_SENSE_SNSK (6 : Fin 64).val) ≠ 0)
    ∧ (1000 * ((((((wOn.put (GD_LEVELS_VOFF 6) 900).put (GD_LEVELS_VON 6) 10).put (GD_SENSE_SNSK 6) 100).put (GD_SENSE_VSWMIN 6) 1).setGate 6 { wOn.gate 6 with levOn := true, levOff := true, monOff := some (2, true) }).get (GD_SENSE_VSWMIN (6 : Fin 64).val) : Int) ≤ (((((wOn.put (GD_LEVELS_VOFF 6) 900).put (GD_LEVELS_VON 6) 10).put (GD_SENSE_SNSK 6) 100).put (GD_SENSE_VSWMIN 6) 1).setGate 6 { wOn.gate 6 with levOn := true, levOff := true, monOff := some (2, true) }).switched (6 : Fin 64).val)
    ∧ (max (100 : Fin 65536).val (177 : Fin 65536).val < (((((wOn.put (GD_LEVELS_VOFF 6) 900).put (GD_LEVELS_VON 6) 10).put (GD_SENSE_SNSK 6) 100).put (GD_SENSE_VSWMIN 6) 1).setGate 6 { wOn.gate 6 with levOn := true, levOff := true, monOff := some (2, true) }).measWin (6 : Fin 64).val)
    ∧ ((max (100 : Fin 65536).val (177 : Fin 65536).val - min (100 : Fin 65536).val (177 : Fin 65536).val) ≤ 4095))
    ∧ (((wOn.gate (6 : Fin 64).val).monOff = none)) := by
  and_intros <;> decide +kernel

theorem witness_bootstrap_refresh_and_undervoltage :
    (((wBoot.setClk { wOn.clk with now := 10000000 }).gates.length = 64)
    ∧ (bootHigh (44 : Fin 64).val = true)
    ∧ ((wBoot.setClk { wOn.clk with now := 10000000 }).gatePowered (44 : Fin 64).val = true)
    ∧ ((wBoot.setClk { wOn.clk with now := 10000000 }).is (GD_BOOT_RF_EN (44 : Fin 64).val) = true)
    ∧ (((wBoot.setClk { wOn.clk with now := 10000000 }).gate (44 : Fin 64).val).drv = true)
    ∧ ((wBoot.setClk { wOn.clk with now := 10000000 }).is (GD_STATUS_GATE (44 : Fin 64).val) = true)
    ∧ (((wBoot.setClk { wOn.clk with now := 10000000 }).gate (44 : Fin 64).val).refresh = 0)
    ∧ (((wBoot.setClk { wOn.clk with now := 10000000 }).gate (44 : Fin 64).val).gateAt + (wBoot.setClk { wOn.clk with now := 10000000 }).tRefresh (44 : Fin 64).val ≤ (wBoot.setClk { wOn.clk with now := 10000000 }).now))
    ∧ ((bootHigh (44 : Fin 64).val = false ∨ wBoot.gatePowered (44 : Fin 64).val = false ∨ wBoot.is (GD_BOOT_RF_EN (44 : Fin 64).val) = false ∨ (wBoot.gate (44 : Fin 64).val).drv = false ∨ wBoot.is (GD_STATUS_GATE (44 : Fin 64).val) = false ∨ (wBoot.gate (44 : Fin 64).val).refresh ≠ 0 ∨ wBoot.now < (wBoot.gate (44 : Fin 64).val).gateAt + wBoot.tRefresh (44 : Fin 64).val))
    ∧ (((((wBoot.put HSM_STATUS_FOFF 0).setGate 44 { wBoot.gate 44 with refresh := 1 }).setClk { wOn.clk with now := 1000 }).gates.length = 64)
    ∧ (bootHigh (44 : Fin 64).val = true)
    ∧ (((((wBoot.put HSM_STATUS_FOFF 0).setGate 44 { wBoot.gate 44 with refresh := 1 }).setClk { wOn.clk with now := 1000 }).gate (44 : Fin 64).val).refresh = 1 ∨ ((((wBoot.put HSM_STATUS_FOFF 0).setGate 44 { wBoot.gate 44 with refresh := 1 }).setClk { wOn.clk with now := 1000 }).gate (44 : Fin 64).val).refresh = 2)
    ∧ (((((wBoot.put HSM_STATUS_FOFF 0).setGate 44 { wBoot.gate 44 with refresh := 1 }).setClk { wOn.clk with now := 1000 }).gate (44 : Fin 64).val).refAt + (((wBoot.put HSM_STATUS_FOFF 0).setGate 44 { wBoot.gate 44 with refresh := 1 }).setClk { wOn.clk with now := 1000 }).refreshMin (44 : Fin 64).val ≤ (((wBoot.put HSM_STATUS_FOFF 0).setGate 44 { wBoot.gate 44 with refresh := 1 }).setClk { wOn.clk with now := 1000 }).now)
    ∧ (((((wBoot.put HSM_STATUS_FOFF 0).setGate 44 { wBoot.gate 44 with refresh := 1 }).setClk { wOn.clk with now := 1000 }).gate (44 : Fin 64).val).drv = true)
    ∧ (((((wBoot.put HSM_STATUS_FOFF 0).setGate 44 { wBoot.gate 44 with refresh := 1 }).setClk { wOn.clk with now := 1000 }).gate (44 : Fin 64).val).refEnd = false))
    ∧ (((((wBoot.put (GD_STATUS_GATE 44) 0).setGate 44 { wBoot.gate 44 with refresh := 3 }).setClk { wOn.clk with now := 1000 }).gates.length = 64)
    ∧ (bootHigh (44 : Fin 64).val = true)
    ∧ (((((wBoot.put (GD_STATUS_GATE 44) 0).setGate 44 { wBoot.gate 44 with refresh := 3 }).setClk { wOn.clk with now := 1000 }).gate (44 : Fin 64).val).refresh = 3)
    ∧ (((((wBoot.put (GD_STATUS_GATE 44) 0).setGate 44 { wBoot.gate 44 with refresh := 3 }).setClk { wOn.clk with now := 1000 }).gate (44 : Fin 64).val).refAt + (((wBoot.put (GD_STATUS_GATE 44) 0).setGate 44 { wBoot.gate 44 with refresh := 3 }).setClk { wOn.clk with now := 1000 }).refreshMin (44 : Fin 64).val ≤ (((wBoot.put (GD_STATUS_GATE 44) 0).setGate 44 { wBoot.gate 44 with refresh := 3 }).setClk { wOn.clk with now := 1000 }).now)
    ∧ (((((wBoot.put (GD_STATUS_GATE 44) 0).setGate 44 { wBoot.gate 44 with refresh := 3 }).setClk { wOn.clk with now := 1000 }).gate (44 : Fin 64).val).drv = true)
    ∧ (((((wBoot.put (GD_STATUS_GATE 44) 0).setGate 44 { wBoot.gate 44 with refresh := 3 }).setClk { wOn.clk with now := 1000 }).gate (44 : Fin 64).val).refEnd = false))
    ∧ (((((wBoot.put (GD_STATUS_GATE 44) 0).setGate 44 { wBoot.gate 44 with refresh := 1, refEnd := true }).setClk { wOn.clk with now := 1000 }).gates.length = 64)
    ∧ (bootHigh (44 : Fin 64).val = true)
    ∧ (((((wBoot.put (GD_STATUS_GATE 44) 0).setGate 44 { wBoot.gate 44 with refresh := 1, refEnd := true }).setClk { wOn.clk with now := 1000 }).gate (44 : Fin 64).val).refresh ≠ 0)
    ∧ (((((wBoot.put (GD_STATUS_GATE 44) 0).setGate 44 { wBoot.gate 44 with refresh := 1, refEnd := true }).setClk { wOn.clk with now := 1000 }).gate (44 : Fin 64).val).refAt + (((wBoot.put (GD_STATUS_GATE 44) 0).setGate 44 { wBoot.gate 44 with refresh := 1, refEnd := true }).setClk { wOn.clk with now := 1000 }).refreshMin (44 : Fin 64).val ≤ (((wBoot.put (GD_STATUS_GATE 44) 0).setGate 44 { wBoot.gate 44 with refresh := 1, refEnd := true }).setClk { wOn.clk with now := 1000 }).now)
    ∧ (((((wBoot.put (GD_STATUS_GATE 44) 0).setGate 44 { wBoot.gate 44 with refresh := 1, refEnd := true }).setClk { wOn.clk with now := 1000 }).gate (44 : Fin 64).val).drv = false ∨ ((((wBoot.put (GD_STATUS_GATE 44) 0).setGate 44 { wBoot.gate 44 with refresh := 1, refEnd := true }).setClk { wOn.clk with now := 1000 }).gate (44 : Fin 64).val).refEnd = true))
    ∧ ((bootHigh (44 : Fin 64).val = false ∨ (wBoot.gate (44 : Fin 64).val).refresh = 0 ∨ wBoot.now < (wBoot.gate (44 : Fin 64).val).refAt + wBoot.refreshMin (44 : Fin 64).val)) := by
  and_intros <;> decide +kernel

theorem witness_bootstrap_refresh_and_undervoltage_part2 :
    ((wBoot.gates.length = 64)
    ∧ (bootHigh (44 : Fin 64).val = true)
    ∧ (wBoot.gatePowered (44 : Fin 64).val = true)
    ∧ (wBoot.is (GD_STATUS_BUV (44 : Fin 64).val) = false)
    ∧ ((7999999 : Int) < 8000000))
    ∧ ((bootHigh (44 : Fin 64).val = false ∨ wBoot.gatePowered (44 : Fin 64).val = false ∨ wBoot.is (GD_STATUS_BUV (44 : Fin 64).val) = true ∨ 8000000 ≤ (8000000 : Int)))
    ∧ ((((wBoot.put (GD_STATUS_BUV 44) 1).setClk { wOn.clk with was := [((GD_STATUS 44).addr, 0x800)] }).Reaches (Initiator.kp : Initiator) (GD_STATUS (44 : Fin 64).val).addr)
    ∧ (((wBoot.put (GD_STATUS_BUV 44) 1).setClk { wOn.clk with was := [((GD_STATUS 44).addr, 0x800)] }).gatePopulated (44 : Fin 64).val = true))
    ∧ ((({ wOn with order := .sa }).Reaches (Initiator.kp : Initiator) (GD_STATUS (14 : Fin 64).val).addr)
    ∧ (({ wOn with order := .sa }).gatePopulated (14 : Fin 64).val = false)) := by
  and_intros <;> decide +kernel

theorem witness_short_circuit_protection_latches :
    ((((((wGateOn.put (GD_PROT_DIDT_EN 6) 1).put (GD_STATUS_GATE 6) 1).setGate 6 { wGateOn.gate 6 with drv := true }).setClk { wOn.clk with now := 6 }).gates.length = 64)
    ∧ (isolated (6 : Fin 64).val = true)
    ∧ ((((((wGateOn.put (GD_PROT_DIDT_EN 6) 1).put (GD_STATUS_GATE 6) 1).setGate 6 { wGateOn.gate 6 with drv := true }).setClk { wOn.clk with now := 6 }).gate (6 : Fin 64).val).drv = true)
    ∧ (((((wGateOn.put (GD_PROT_DIDT_EN 6) 1).put (GD_STATUS_GATE 6) 1).setGate 6 { wGateOn.gate 6 with drv := true }).setClk { wOn.clk with now := 6 }).is (GD_STATUS_GATE (6 : Fin 64).val) = true)
    ∧ (((((wGateOn.put (GD_PROT_DIDT_EN 6) 1).put (GD_STATUS_GATE 6) 1).setGate 6 { wGateOn.gate 6 with drv := true }).setClk { wOn.clk with now := 6 }).is (GD_PROT_DIDT_EN (6 : Fin 64).val) = true)
    ∧ ((((((wGateOn.put (GD_PROT_DIDT_EN 6) 1).put (GD_STATUS_GATE 6) 1).setGate 6 { wGateOn.gate 6 with drv := true }).setClk { wOn.clk with now := 6 }).gate (6 : Fin 64).val).drvAt + 6 ≤ ((((wGateOn.put (GD_PROT_DIDT_EN 6) 1).put (GD_STATUS_GATE 6) 1).setGate 6 { wGateOn.gate 6 with drv := true }).setClk { wOn.clk with now := 6 }).now))
    ∧ ((isolated (6 : Fin 64).val = false ∨ (wOn.gate (6 : Fin 64).val).drv = false ∨ wOn.is (GD_STATUS_GATE (6 : Fin 64).val) = false ∨ wOn.is (GD_PROT_DIDT_EN (6 : Fin 64).val) = false ∨ wOn.now < (wOn.gate (6 : Fin 64).val).drvAt + 6))
    ∧ ((((((wGateOn.put (GD_PROT_DSAT_EN 6) 1).put (GD_STATUS_GATE 6) 1).setGate 6 { wGateOn.gate 6 with drv := true }).setClk { wOn.clk with now := 10000 }).gates.length = 64)
    ∧ (isolated (6 : Fin 64).val = true)
    ∧ ((((((wGateOn.put (GD_PROT_DSAT_EN 6) 1).put (GD_STATUS_GATE 6) 1).setGate 6 { wGateOn.gate 6 with drv := true }).setClk { wOn.clk with now := 10000 }).gate (6 : Fin 64).val).drv = true)
    ∧ (((((wGateOn.put (GD_PROT_DSAT_EN 6) 1).put (GD_STATUS_GATE 6) 1).setGate 6 { wGateOn.gate 6 with drv := true }).setClk { wOn.clk with now := 10000 }).is (GD_STATUS_GATE (6 : Fin 64).val) = true)
    ∧ (((((wGateOn.put (GD_PROT_DSAT_EN 6) 1).put (GD_STATUS_GATE 6) 1).setGate 6 { wGateOn.gate 6 with drv := true }).setClk { wOn.clk with now := 10000 }).is (GD_PROT_DSAT_EN (6 : Fin 64).val) = true)
    ∧ (97 * ((((wGateOn.put (GD_PROT_DSAT_EN 6) 1).put (GD_STATUS_GATE 6) 1).setGate 6 { wGateOn.gate 6 with drv := true }).setClk { wOn.clk with now := 10000 }).blank (6 : Fin 64).val ≤ 250 * (((((wGateOn.put (GD_PROT_DSAT_EN 6) 1).put (GD_STATUS_GATE 6) 1).setGate 6 { wGateOn.gate 6 with drv := true }).setClk { wOn.clk with now := 10000 }).now - (((((wGateOn.put (GD_PROT_DSAT_EN 6) 1).put (GD_STATUS_GATE 6) 1).setGate 6 { wGateOn.gate 6 with drv := true }).setClk { wOn.clk with now := 10000 }).gate (6 : Fin 64).val).drvAt) + 1000))
    ∧ ((isolated (6 : Fin 64).val = false ∨ (wOn.gate (6 : Fin 64).val).drv = false ∨ wOn.is (GD_STATUS_GATE (6 : Fin 64).val) = false ∨ wOn.is (GD_PROT_DSAT_EN (6 : Fin 64).val) = false ∨ 250 * (wOn.now - (wOn.gate (6 : Fin 64).val).drvAt) + 1000 < 97 * wOn.blank (6 : Fin 64).val))
    ∧ ((((wGateOn.put (GD_PROT_DIDT_EN 6) 1).setGate 6 { wGateOn.gate 6 with didt := true, drv := true }).gates.length = 64)
    ∧ (((wGateOn.put (GD_PROT_DIDT_EN 6) 1).setGate 6 { wGateOn.gate 6 with didt := true, drv := true }).osd.doms = [])
    ∧ (isolated (6 : Fin 64).val = true)
    ∧ (((wGateOn.put (GD_PROT_DIDT_EN 6) 1).setGate 6 { wGateOn.gate 6 with didt := true, drv := true }).gatePowered (6 : Fin 64).val = true)
    ∧ ((((wGateOn.put (GD_PROT_DIDT_EN 6) 1).setGate 6 { wGateOn.gate 6 with didt := true, drv := true }).gate (6 : Fin 64).val).didt = true)
    ∧ (((wGateOn.put (GD_PROT_DIDT_EN 6) 1).setGate 6 { wGateOn.gate 6 with didt := true, drv := true }).is (GD_PROT_DIDT_EN (6 : Fin 64).val) = true)
    ∧ ((((wGateOn.put (GD_PROT_DIDT_EN 6) 1).setGate 6 { wGateOn.gate 6 with didt := true, drv := true }).gate (6 : Fin 64).val).drv = true ∨ ((wGateOn.put (GD_PROT_DIDT_EN 6) 1).setGate 6 { wGateOn.gate 6 with didt := true, drv := true }).now < (((wGateOn.put (GD_PROT_DIDT_EN 6) 1).setGate 6 { wGateOn.gate 6 with didt := true, drv := true }).gate (6 : Fin 64).val).drvAt + 20)
    ∧ (6200000 + 1800000 * (((wGateOn.put (GD_PROT_DIDT_EN 6) 1).setGate 6 { wGateOn.gate 6 with didt := true, drv := true }).get (GD_PROT_DIDT_TH (6 : Fin 64).val) : Int) < 31 * (2000001 : Int))
    ∧ (((wGateOn.put (GD_PROT_DIDT_EN 6) 1).setGate 6 { wGateOn.gate 6 with didt := true, drv := true }).is (GD_PFLT_DIDT (6 : Fin 64).val) = false)
    ∧ (((wGateOn.put (GD_PROT_DIDT_EN 6) 1).setGate 6 { wGateOn.gate 6 with didt := true, drv := true }).is (GD_PFLT_SOFTACT (6 : Fin 64).val) = false ∨ ((wGateOn.put (GD_PROT_DIDT_EN 6) 1).setGate 6 { wGateOn.gate 6 with didt := true, drv := true }).now - ((wGateOn.put (GD_PROT_DIDT_EN 6) 1).setGate 6 { wGateOn.gate 6 with didt := true, drv := true }).cyc % 4 ≤ (((wGateOn.put (GD_PROT_DIDT_EN 6) 1).setGate 6 { wGateOn.gate 6 with didt := true, drv := true }).gate (6 : Fin 64).val).softAt))
    ∧ ((isolated (6 : Fin 64).val = false ∨ wOn.gatePowered (6 : Fin 64).val = false ∨ (wOn.gate (6 : Fin 64).val).didt = false ∨ wOn.is (GD_PROT_DIDT_EN (6 : Fin 64).val) = false ∨ ((wOn.gate (6 : Fin 64).val).drv = false ∧ (wOn.gate (6 : Fin 64).val).drvAt + 20 ≤ wOn.now) ∨ 31 * (2000001 : Int) ≤ 6200000 + 1800000 * (wOn.get (GD_PROT_DIDT_TH (6 : Fin 64).val) : Int) ∨ wOn.is (GD_PFLT_DIDT (6 : Fin 64).val) = true ∨ (wOn.is (GD_PFLT_SOFTACT (6 : Fin 64).val) = true ∧ (wOn.gate (6 : Fin 64).val).softAt < wOn.now - wOn.cyc % 4))) := by
  and_intros <;> decide +kernel

theorem witness_short_circuit_protection_latches_part2 :
    ((((wGateOn.put (GD_PROT_DSAT_EN 6) 1).setGate 6 { wGateOn.gate 6 with dsat := true, drv := true }).gates.length = 64)
    ∧ (((wGateOn.put (GD_PROT_DSAT_EN 6) 1).setGate 6 { wGateOn.gate 6 with dsat := true, drv := true }).osd.doms = [])
    ∧ (isolated (6 : Fin 64).val = true)
    ∧ (((wGateOn.put (GD_PROT_DSAT_EN 6) 1).setGate 6 { wGateOn.gate 6 with dsat := true, drv := true }).gatePowered (6 : Fin 64).val = true)
    ∧ ((((wGateOn.put (GD_PROT_DSAT_EN 6) 1).setGate 6 { wGateOn.gate 6 with dsat := true, drv := true }).gate (6 : Fin 64).val).dsat = true)
    ∧ (((wGateOn.put (GD_PROT_DSAT_EN 6) 1).setGate 6 { wGateOn.gate 6 with dsat := true, drv := true }).is (GD_PROT_DSAT_EN (6 : Fin 64).val) = true)
    ∧ ((((wGateOn.put (GD_PROT_DSAT_EN 6) 1).setGate 6 { wGateOn.gate 6 with dsat := true, drv := true }).gate (6 : Fin 64).val).drv = true ∨ ((wGateOn.put (GD_PROT_DSAT_EN 6) 1).setGate 6 { wGateOn.gate 6 with dsat := true, drv := true }).now < (((wGateOn.put (GD_PROT_DSAT_EN 6) 1).setGate 6 { wGateOn.gate 6 with dsat := true, drv := true }).gate (6 : Fin 64).val).drvAt + 20)
    ∧ (4000000 + 500000 * ((min 16 (((wGateOn.put (GD_PROT_DSAT_EN 6) 1).setGate 6 { wGateOn.gate 6 with dsat := true, drv := true }).get (GD_PROT_DSAT_TH (6 : Fin 64).val)) : Nat) : Int) < (12000001 : Int))
    ∧ (((wGateOn.put (GD_PROT_DSAT_EN 6) 1).setGate 6 { wGateOn.gate 6 with dsat := true, drv := true }).is (GD_PFLT_DSAT (6 : Fin 64).val) = false)
    ∧ (((wGateOn.put (GD_PROT_DSAT_EN 6) 1).setGate 6 { wGateOn.gate 6 with dsat := true, drv := true }).is (GD_PFLT_SOFTACT (6 : Fin 64).val) = false ∨ ((wGateOn.put (GD_PROT_DSAT_EN 6) 1).setGate 6 { wGateOn.gate 6 with dsat := true, drv := true }).now - ((wGateOn.put (GD_PROT_DSAT_EN 6) 1).setGate 6 { wGateOn.gate 6 with dsat := true, drv := true }).cyc % 4 ≤ (((wGateOn.put (GD_PROT_DSAT_EN 6) 1).setGate 6 { wGateOn.gate 6 with dsat := true, drv := true }).gate (6 : Fin 64).val).softAt))
    ∧ ((isolated (6 : Fin 64).val = false ∨ wOn.gatePowered (6 : Fin 64).val = false ∨ (wOn.gate (6 : Fin 64).val).dsat = false ∨ wOn.is (GD_PROT_DSAT_EN (6 : Fin 64).val) = false ∨ ((wOn.gate (6 : Fin 64).val).drv = false ∧ (wOn.gate (6 : Fin 64).val).drvAt + 20 ≤ wOn.now) ∨ (12000001 : Int) ≤ 4000000 + 500000 * ((min 16 (wOn.get (GD_PROT_DSAT_TH (6 : Fin 64).val)) : Nat) : Int) ∨ wOn.is (GD_PFLT_DSAT (6 : Fin 64).val) = true ∨ (wOn.is (GD_PFLT_SOFTACT (6 : Fin 64).val) = true ∧ (wOn.gate (6 : Fin 64).val).softAt < wOn.now - wOn.cyc % 4)))
    ∧ (((((wOn.put (GD_PFLT_SOFTACT 6) 1).put (GD_PFLT_DIDT 6) 1).setClk { wOn.clk with now := 1200 }).gates.length = 64)
    ∧ ((((wOn.put (GD_PFLT_SOFTACT 6) 1).put (GD_PFLT_DIDT 6) 1).setClk { wOn.clk with now := 1200 }).is (GD_PFLT_SOFTACT (6 : Fin 64).val) = true)
    ∧ (95 * (((wOn.put (GD_PFLT_SOFTACT 6) 1).put (GD_PFLT_DIDT 6) 1).setClk { wOn.clk with now := 1200 }).softTime (6 : Fin 64).val ≤ 100 * ((((wOn.put (GD_PFLT_SOFTACT 6) 1).put (GD_PFLT_DIDT 6) 1).setClk { wOn.clk with now := 1200 }).now - ((((wOn.put (GD_PFLT_SOFTACT 6) 1).put (GD_PFLT_DIDT 6) 1).setClk { wOn.clk with now := 1200 }).gate (6 : Fin 64).val).softAt)))
    ∧ ((wOn.is (GD_PFLT_SOFTACT (6 : Fin 64).val) = false ∨ 100 * (wOn.now - (wOn.gate (6 : Fin 64).val).softAt) < 95 * wOn.softTime (6 : Fin 64).val))
    ∧ (((wGateOn.put (GD_STATUS_GATE 6) 1).linkUpGate (6 : Fin 64).val = true)
    ∧ ((wGateOn.put (GD_STATUS_GATE 6) 1).is (GD_PFLT_UVN (6 : Fin 64).val) = false)
    ∧ ((wGateOn.put (GD_STATUS_GATE 6) 1).is (GD_PROT_NUV_ACT (6 : Fin 64).val) = false)
    ∧ (railBad ((wGateOn.put (GD_STATUS_GATE 6) 1).gate (6 : Fin 64).val) true (0 : Int) = true))
    ∧ (((wGateOn.put (GD_PROT_NUV_ACT 6) 1).gates.length = 64)
    ∧ ((wGateOn.put (GD_PROT_NUV_ACT 6) 1).osd.doms = [])
    ∧ ((wGateOn.put (GD_PROT_NUV_ACT 6) 1).linkUpGate (6 : Fin 64).val = true)
    ∧ ((wGateOn.put (GD_PROT_NUV_ACT 6) 1).is (GD_PFLT_UVN (6 : Fin 64).val) = false)
    ∧ ((wGateOn.put (GD_PROT_NUV_ACT 6) 1).is (GD_PROT_NUV_ACT (6 : Fin 64).val) = true)
    ∧ (railBad ((wGateOn.put (GD_PROT_NUV_ACT 6) 1).gate (6 : Fin 64).val) true (0 : Int) = true)) := by
  and_intros <;> decide +kernel

theorem witness_short_circuit_protection_latches_part3 :
    ((wGateOn.gates.length = 64)
    ∧ (wGateOn.osd.doms = [])
    ∧ (wGateOn.linkUpGate (6 : Fin 64).val = true)
    ∧ (wGateOn.is (GD_PFLT_UVP (6 : Fin 64).val) = false)
    ∧ (railBad (wGateOn.gate (6 : Fin 64).val) false (0 : Int) = true))
    ∧ ((wGateOn.linkUpGate (6 : Fin 64).val = false ∨ wGateOn.is (if (false : Bool) then GD_PFLT_UVN (6 : Fin 64).val else GD_PFLT_UVP (6 : Fin 64).val) = true ∨ railBad (wGateOn.gate (6 : Fin 64).val) (false : Bool) (20000000 : Int) = false))
    ∧ (((wGateOn.put (GD_PROT_MCL_TH 6) 1).linkUpGate (6 : Fin 64).val = true)
    ∧ ((wGateOn.put (GD_PROT_MCL_TH 6) 1).is (GD_STATUS_GATE (6 : Fin 64).val) = false)
    ∧ ((wGateOn.put (GD_PROT_MCL_TH 6) 1).get (GD_PROT_MCL_TH (6 : Fin 64).val) ≠ 0)
    ∧ ((1499999 : Int) < 1000000 + 500000 * ((wGateOn.put (GD_PROT_MCL_TH 6) 1).get (GD_PROT_MCL_TH (6 : Fin 64).val) : Int)))
    ∧ ((wOn.linkUpGate (6 : Fin 64).val = false ∨ wOn.is (GD_STATUS_GATE (6 : Fin 64).val) = true ∨ wOn.get (GD_PROT_MCL_TH (6 : Fin 64).val) = 0 ∨ 1000000 + 500000 * (wOn.get (GD_PROT_MCL_TH (6 : Fin 64).val) : Int) ≤ (0 : Int)))
    ∧ ((((wOn.wr (GD_PFLT 6) 0x1B).setClk { wOn.clk with was := [((GD_PFLT 6).addr, 0x1B)] }).gates.length = 64)
    ∧ (((wOn.wr (GD_PFLT 6) 0x1B).setClk { wOn.clk with was := [((GD_PFLT 6).addr, 0x1B)] }).osd.doms = [])
    ∧ (((wOn.wr (GD_PFLT 6) 0x1B).setClk { wOn.clk with was := [((GD_PFLT 6).addr, 0x1B)] }).Reaches (Initiator.kp : Initiator) (GD_PFLT (6 : Fin 64).val).addr)
    ∧ (isolated (6 : Fin 64).val = true)
    ∧ (((wOn.wr (GD_PFLT 6) 0x1B).setClk { wOn.clk with was := [((GD_PFLT 6).addr, 0x1B)] }).gatePopulated (6 : Fin 64).val = true)
    ∧ (((wOn.wr (GD_PFLT 6) 0x1B).setClk { wOn.clk with was := [((GD_PFLT 6).addr, 0x1B)] }).is (GD_STATUS_CMD (6 : Fin 64).val) = false)
    ∧ (((wOn.wr (GD_PFLT 6) 0x1B).setClk { wOn.clk with was := [((GD_PFLT 6).addr, 0x1B)] }).is (GD_PFLT_SOFTACT (6 : Fin 64).val) = false))
    ∧ (((((wOn.wr (GD_PFLT 6) 0x1B).put (GD_STATUS_CMD 6) 1).setClk { wOn.clk with was := [((GD_PFLT 6).addr, 0x1B)] }).gates.length = 64)
    ∧ ((((wOn.wr (GD_PFLT 6) 0x1B).put (GD_STATUS_CMD 6) 1).setClk { wOn.clk with was := [((GD_PFLT 6).addr, 0x1B)] }).osd.doms = [])
    ∧ ((((wOn.wr (GD_PFLT 6) 0x1B).put (GD_STATUS_CMD 6) 1).setClk { wOn.clk with was := [((GD_PFLT 6).addr, 0x1B)] }).Reaches (Initiator.kp : Initiator) (GD_PFLT (6 : Fin 64).val).addr)
    ∧ (isolated (6 : Fin 64).val = true)
    ∧ ((((wOn.wr (GD_PFLT 6) 0x1B).put (GD_STATUS_CMD 6) 1).setClk { wOn.clk with was := [((GD_PFLT 6).addr, 0x1B)] }).gatePopulated (6 : Fin 64).val = true)
    ∧ ((((wOn.wr (GD_PFLT 6) 0x1B).put (GD_STATUS_CMD 6) 1).setClk { wOn.clk with was := [((GD_PFLT 6).addr, 0x1B)] }).is (GD_STATUS_CMD (6 : Fin 64).val) = true ∨ (((wOn.wr (GD_PFLT 6) 0x1B).put (GD_STATUS_CMD 6) 1).setClk { wOn.clk with was := [((GD_PFLT 6).addr, 0x1B)] }).is (GD_PFLT_SOFTACT (6 : Fin 64).val) = true)) := by
  and_intros <;> decide +kernel

theorem witness_short_circuit_protection_latches_part4 :
    ((wOn.Reaches (Initiator.kp : Initiator) (GD_PFLT (50 : Fin 64).val).addr)
    ∧ (wOn.gatePopulated (50 : Fin 64).val = false ∨ isolated (50 : Fin 64).val = false)) := by
  and_intros <;> decide +kernel

theorem witness_reaction_groups_and_off_state_diagnostics :
    (((((((wOn.put (SCG_STAT_DLY 2) 1).put (SCG_STAT_STATE 2) 3).put (SCG_CFG_REACT 2) 1).setScg 2 { Scg.idle with target := 2, chan := 6 }).setClk { wOn.clk with now := 2000 }).scg.length = 8)
    ∧ ((((((wOn.put (SCG_STAT_DLY 2) 1).put (SCG_STAT_STATE 2) 3).put (SCG_CFG_REACT 2) 1).setScg 2 { Scg.idle with target := 2, chan := 6 }).setClk { wOn.clk with now := 2000 }).osd.doms = [])
    ∧ ((((((wOn.put (SCG_STAT_DLY 2) 1).put (SCG_STAT_STATE 2) 3).put (SCG_CFG_REACT 2) 1).setScg 2 { Scg.idle with target := 2, chan := 6 }).setClk { wOn.clk with now := 2000 }).is (SCG_STAT_DLY (2 : Fin 8).val) = true)
    ∧ (((((((wOn.put (SCG_STAT_DLY 2) 1).put (SCG_STAT_STATE 2) 3).put (SCG_CFG_REACT 2) 1).setScg 2 { Scg.idle with target := 2, chan := 6 }).setClk { wOn.clk with now := 2000 }).scgOf (2 : Fin 8).val).target = 1 ∨ ((((((wOn.put (SCG_STAT_DLY 2) 1).put (SCG_STAT_STATE 2) 3).put (SCG_CFG_REACT 2) 1).setScg 2 { Scg.idle with target := 2, chan := 6 }).setClk { wOn.clk with now := 2000 }).scgOf (2 : Fin 8).val).target = 2)
    ∧ (((((((wOn.put (SCG_STAT_DLY 2) 1).put (SCG_STAT_STATE 2) 3).put (SCG_CFG_REACT 2) 1).setScg 2 { Scg.idle with target := 2, chan := 6 }).setClk { wOn.clk with now := 2000 }).scgOf (2 : Fin 8).val).dlyAt + (((((wOn.put (SCG_STAT_DLY 2) 1).put (SCG_STAT_STATE 2) 3).put (SCG_CFG_REACT 2) 1).setScg 2 { Scg.idle with target := 2, chan := 6 }).setClk { wOn.clk with now := 2000 }).ascDly (2 : Fin 8).val ≤ (((((wOn.put (SCG_STAT_DLY 2) 1).put (SCG_STAT_STATE 2) 3).put (SCG_CFG_REACT 2) 1).setScg 2 { Scg.idle with target := 2, chan := 6 }).setClk { wOn.clk with now := 2000 }).now))
    ∧ ((wOn.is (SCG_STAT_DLY (2 : Fin 8).val) = false ∨ ((wOn.scgOf (2 : Fin 8).val).target ≠ 1 ∧ (wOn.scgOf (2 : Fin 8).val).target ≠ 2) ∨ wOn.now < (wOn.scgOf (2 : Fin 8).val).dlyAt + wOn.ascDly (2 : Fin 8).val))
    ∧ ((((wOn.put (SCG_STAT_STATE 2) 3).setScg 2 { Scg.idle with target := 3, chan := 6 }).scg.length = 8)
    ∧ (((wOn.put (SCG_STAT_STATE 2) 3).setScg 2 { Scg.idle with target := 3, chan := 6 }).Reaches (Initiator.kp : Initiator) (SCG_CLR (2 : Fin 8).val).addr)
    ∧ ((1 : Word).getLsbD 0 = true)
    ∧ (((wOn.put (SCG_STAT_STATE 2) 3).setScg 2 { Scg.idle with target := 3, chan := 6 }).sideBad (2 : Fin 8).val 0 = false)
    ∧ (((wOn.put (SCG_STAT_STATE 2) 3).setScg 2 { Scg.idle with target := 3, chan := 6 }).sideBad (2 : Fin 8).val 1 = false)
    ∧ (((wOn.put (SCG_STAT_STATE 2) 3).setScg 2 { Scg.idle with target := 3, chan := 6 }).get (SCG_STAT_STATE (2 : Fin 8).val) ≠ 0))
    ∧ ((wOn.Reaches (Initiator.kp : Initiator) (SCG_CLR (2 : Fin 8).val).addr)
    ∧ ((1 : Word).getLsbD 0 = false ∨ wOn.sideBad (2 : Fin 8).val 0 = true ∨ wOn.sideBad (2 : Fin 8).val 1 = true ∨ wOn.get (SCG_STAT_STATE (2 : Fin 8).val) = 0))
    ∧ ((wOsd.Reaches (Initiator.kp : Initiator) GDG_OSDCTRL.addr)
    ∧ (wOsd.is GDG_OSDSTAT_BUSY = false)
    ∧ (wOsd.bit MDM_ACTIVE_ACTIVE 11 = false)
    ∧ (wOsd.osdRefusal = none)
    ∧ (∀ k ∈ wOsd.osdLegs, wOsd.is (GD_STATUS_FORCED (2 * k)) = false ∧ wOsd.is (GD_STATUS_FORCED (2 * k + 1)) = false)
    ∧ ((wOsd.fieldWrite GDG_OSDCTRL.addr ((4 : Word) ||| 1)).osdSteps ≠ []))
    ∧ (((wOsd.put ADG_VDC_VDC 600).Reaches (Initiator.kp : Initiator) GDG_OSDCTRL.addr)
    ∧ ((wOsd.put ADG_VDC_VDC 600).is GDG_OSDSTAT_BUSY = false)
    ∧ ((wOsd.put ADG_VDC_VDC 600).bit MDM_ACTIVE_ACTIVE 11 = false)
    ∧ ((wOsd.put ADG_VDC_VDC 600).osdRefusal = some (1 : Nat))) := by
  and_intros <;> decide +kernel

theorem witness_reaction_groups_and_off_state_diagnostics_part2 :
    ((({ ((wOsd.put MDM_ACTIVE_ACTIVE 0x800).put HSM_STATUS_EN 15) with on := 0x3FFF - 0x200 }).Reaches (Initiator.kp : Initiator) GDG_OSDCTRL.addr)
    ∧ (({ ((wOsd.put MDM_ACTIVE_ACTIVE 0x800).put HSM_STATUS_EN 15) with on := 0x3FFF - 0x200 }).is GDG_OSDSTAT_BUSY = false)
    ∧ (({ ((wOsd.put MDM_ACTIVE_ACTIVE 0x800).put HSM_STATUS_EN 15) with on := 0x3FFF - 0x200 }).bit MDM_ACTIVE_ACTIVE 11 = true)
    ∧ (({ ((wOsd.put MDM_ACTIVE_ACTIVE 0x800).put HSM_STATUS_EN 15) with on := 0x3FFF - 0x200 }).osdDoms.filter (fun d => !({ ((wOsd.put MDM_ACTIVE_ACTIVE 0x800).put HSM_STATUS_EN 15) with on := 0x3FFF - 0x200 }).isOn d && ({ ((wOsd.put MDM_ACTIVE_ACTIVE 0x800).put HSM_STATUS_EN 15) with on := 0x3FFF - 0x200 }).domReady d && ({ ((wOsd.put MDM_ACTIVE_ACTIVE 0x800).put HSM_STATUS_EN 15) with on := 0x3FFF - 0x200 }).domExists d) ≠ []))
    ∧ (((wOsd.put GDG_OSDSTAT_BUSY 1).Reaches (Initiator.kp : Initiator) GDG_OSDCTRL.addr)
    ∧ ((wOsd.put GDG_OSDSTAT_BUSY 1).is GDG_OSDSTAT_BUSY = true)
    ∧ ((4 : Word).getLsbD 1 = false))
    ∧ ((({ wOsd.put GDG_OSDSTAT_BUSY 1 with osd := ⟨true, [], 0, 0, [], none⟩, clk := { wOn.clk with now := 10000000 } }).is GDG_OSDSTAT_BUSY = true)
    ∧ (({ wOsd.put GDG_OSDSTAT_BUSY 1 with osd := ⟨true, [], 0, 0, [], none⟩, clk := { wOn.clk with now := 10000000 } }).osd.wait = true)
    ∧ (({ wOsd.put GDG_OSDSTAT_BUSY 1 with osd := ⟨true, [], 0, 0, [], none⟩, clk := { wOn.clk with now := 10000000 } }).osdReady = true)
    ∧ (({ wOsd.put GDG_OSDSTAT_BUSY 1 with osd := ⟨true, [], 0, 0, [], none⟩, clk := { wOn.clk with now := 10000000 } }).osdRefusal = none)
    ∧ (({ wOsd.put GDG_OSDSTAT_BUSY 1 with osd := ⟨true, [], 0, 0, [], none⟩, clk := { wOn.clk with now := 10000000 } }).osdSteps ≠ [])
    ∧ (∀ k ∈ ({ wOsd.put GDG_OSDSTAT_BUSY 1 with osd := ⟨true, [], 0, 0, [], none⟩, clk := { wOn.clk with now := 10000000 } }).osdLegs, ({ wOsd.put GDG_OSDSTAT_BUSY 1 with osd := ⟨true, [], 0, 0, [], none⟩, clk := { wOn.clk with now := 10000000 } }).is (GD_STATUS_FORCED (2 * k)) = false ∧ ({ wOsd.put GDG_OSDSTAT_BUSY 1 with osd := ⟨true, [], 0, 0, [], none⟩, clk := { wOn.clk with now := 10000000 } }).is (GD_STATUS_FORCED (2 * k + 1)) = false))
    ∧ (((({ wOsd.put GDG_OSDSTAT_BUSY 1 with osd := ⟨true, [], 0, 0, [], none⟩, clk := { wOn.clk with now := 10000000 } }).put ADG_VDC_VDC 600).is GDG_OSDSTAT_BUSY = true)
    ∧ ((({ wOsd.put GDG_OSDSTAT_BUSY 1 with osd := ⟨true, [], 0, 0, [], none⟩, clk := { wOn.clk with now := 10000000 } }).put ADG_VDC_VDC 600).osd.wait = true)
    ∧ ((({ wOsd.put GDG_OSDSTAT_BUSY 1 with osd := ⟨true, [], 0, 0, [], none⟩, clk := { wOn.clk with now := 10000000 } }).put ADG_VDC_VDC 600).osdReady = true)
    ∧ ((({ wOsd.put GDG_OSDSTAT_BUSY 1 with osd := ⟨true, [], 0, 0, [], none⟩, clk := { wOn.clk with now := 10000000 } }).put ADG_VDC_VDC 600).osdRefusal = some (1 : Nat))
    ∧ ((({ wOsd.put GDG_OSDSTAT_BUSY 1 with osd := ⟨true, [], 0, 0, [], none⟩, clk := { wOn.clk with now := 10000000 } }).put ADG_VDC_VDC 600).osd.doms = [])
    ∧ ((({ wOsd.put GDG_OSDSTAT_BUSY 1 with osd := ⟨true, [], 0, 0, [], none⟩, clk := { wOn.clk with now := 10000000 } }).put ADG_VDC_VDC 600).osd.req = none))
    ∧ ((wOsd.is GDG_OSDSTAT_BUSY = false ∨ wOsd.osd.wait = false ∨ wOsd.osdReady = false))
    ∧ (((wOsd.put GDG_OSDSTAT_BUSY 1).Reaches (Initiator.kp : Initiator) GDG_OSDCTRL.addr)
    ∧ ((wOsd.put GDG_OSDSTAT_BUSY 1).is GDG_OSDSTAT_BUSY = true)
    ∧ ((wOsd.put GDG_OSDSTAT_BUSY 1).osd.doms = [])
    ∧ ((wOsd.put GDG_OSDSTAT_BUSY 1).osd.req = none)) := by
  and_intros <;> decide +kernel

theorem witness_reaction_groups_and_off_state_diagnostics_part3 :
    ((wOsd.Reaches (Initiator.kp : Initiator) GDG_OSDCTRL.addr)
    ∧ (wOsd.is GDG_OSDSTAT_BUSY = false))
    ∧ ((({ wOsd.put GDG_OSDSTAT_BUSY 1 with osd := ⟨false, [.shlo 3], 0, 0, [], none⟩, clk := { wOn.clk with now := 10000000 } }).is GDG_OSDSTAT_BUSY = true)
    ∧ (({ wOsd.put GDG_OSDSTAT_BUSY 1 with osd := ⟨false, [.shlo 3], 0, 0, [], none⟩, clk := { wOn.clk with now := 10000000 } }).osd.wait = false)
    ∧ (({ wOsd.put GDG_OSDSTAT_BUSY 1 with osd := ⟨false, [.shlo 3], 0, 0, [], none⟩, clk := { wOn.clk with now := 10000000 } }).osd.since + ({ wOsd.put GDG_OSDSTAT_BUSY 1 with osd := ⟨false, [.shlo 3], 0, 0, [], none⟩, clk := { wOn.clk with now := 10000000 } }).osdTime ≤ ({ wOsd.put GDG_OSDSTAT_BUSY 1 with osd := ⟨false, [.shlo 3], 0, 0, [], none⟩, clk := { wOn.clk with now := 10000000 } }).now)
    ∧ (({ wOsd.put GDG_OSDSTAT_BUSY 1 with osd := ⟨false, [.shlo 3], 0, 0, [], none⟩, clk := { wOn.clk with now := 10000000 } }).osd.steps = (.shlo 3 : OsdStep) :: ([] : List OsdStep))
    ∧ (({ wOsd.put GDG_OSDSTAT_BUSY 1 with osd := ⟨false, [.shlo 3], 0, 0, [], none⟩, clk := { wOn.clk with now := 10000000 } }).osd.part = 0))
    ∧ ((({ wOsd.put GDG_OSDSTAT_BUSY 1 with osd := ⟨false, [.shlo 3, .shhi 3], 0, 1, [], none⟩, clk := { wOn.clk with now := 10000000 } }).is GDG_OSDSTAT_BUSY = true)
    ∧ (({ wOsd.put GDG_OSDSTAT_BUSY 1 with osd := ⟨false, [.shlo 3, .shhi 3], 0, 1, [], none⟩, clk := { wOn.clk with now := 10000000 } }).osd.wait = false)
    ∧ (({ wOsd.put GDG_OSDSTAT_BUSY 1 with osd := ⟨false, [.shlo 3, .shhi 3], 0, 1, [], none⟩, clk := { wOn.clk with now := 10000000 } }).osd.since + ({ wOsd.put GDG_OSDSTAT_BUSY 1 with osd := ⟨false, [.shlo 3, .shhi 3], 0, 1, [], none⟩, clk := { wOn.clk with now := 10000000 } }).osdTime ≤ ({ wOsd.put GDG_OSDSTAT_BUSY 1 with osd := ⟨false, [.shlo 3, .shhi 3], 0, 1, [], none⟩, clk := { wOn.clk with now := 10000000 } }).now)
    ∧ (({ wOsd.put GDG_OSDSTAT_BUSY 1 with osd := ⟨false, [.shlo 3, .shhi 3], 0, 1, [], none⟩, clk := { wOn.clk with now := 10000000 } }).osd.steps = .shlo (3 : Fin 32).val :: ([.shhi 3] : List OsdStep))
    ∧ (({ wOsd.put GDG_OSDSTAT_BUSY 1 with osd := ⟨false, [.shlo 3, .shhi 3], 0, 1, [], none⟩, clk := { wOn.clk with now := 10000000 } }).osd.part = 1))
    ∧ ((({ wOsd.put GDG_OSDSTAT_BUSY 1 with osd := ⟨false, [.shhi 3], 0, 1, [], none⟩, clk := { wOn.clk with now := 10000000 } }).is GDG_OSDSTAT_BUSY = true)
    ∧ (({ wOsd.put GDG_OSDSTAT_BUSY 1 with osd := ⟨false, [.shhi 3], 0, 1, [], none⟩, clk := { wOn.clk with now := 10000000 } }).osd.wait = false)
    ∧ (({ wOsd.put GDG_OSDSTAT_BUSY 1 with osd := ⟨false, [.shhi 3], 0, 1, [], none⟩, clk := { wOn.clk with now := 10000000 } }).osd.since + ({ wOsd.put GDG_OSDSTAT_BUSY 1 with osd := ⟨false, [.shhi 3], 0, 1, [], none⟩, clk := { wOn.clk with now := 10000000 } }).osdTime ≤ ({ wOsd.put GDG_OSDSTAT_BUSY 1 with osd := ⟨false, [.shhi 3], 0, 1, [], none⟩, clk := { wOn.clk with now := 10000000 } }).now)
    ∧ (({ wOsd.put GDG_OSDSTAT_BUSY 1 with osd := ⟨false, [.shhi 3], 0, 1, [], none⟩, clk := { wOn.clk with now := 10000000 } }).osd.steps = .shhi (3 : Fin 32).val :: ([] : List OsdStep))
    ∧ (({ wOsd.put GDG_OSDSTAT_BUSY 1 with osd := ⟨false, [.shhi 3], 0, 1, [], none⟩, clk := { wOn.clk with now := 10000000 } }).osd.part = 1))
    ∧ (((({ wOsd.put GDG_OSDSTAT_BUSY 1 with osd := ⟨false, [.opn 3 4], 0, 1, [], none⟩, clk := { wOn.clk with now := 10000000 } }).put GDG_OSDVDC_VDC 20).is GDG_OSDSTAT_BUSY = true)
    ∧ ((({ wOsd.put GDG_OSDSTAT_BUSY 1 with osd := ⟨false, [.opn 3 4], 0, 1, [], none⟩, clk := { wOn.clk with now := 10000000 } }).put GDG_OSDVDC_VDC 20).osd.wait = false)
    ∧ ((({ wOsd.put GDG_OSDSTAT_BUSY 1 with osd := ⟨false, [.opn 3 4], 0, 1, [], none⟩, clk := { wOn.clk with now := 10000000 } }).put GDG_OSDVDC_VDC 20).osd.since + (({ wOsd.put GDG_OSDSTAT_BUSY 1 with osd := ⟨false, [.opn 3 4], 0, 1, [], none⟩, clk := { wOn.clk with now := 10000000 } }).put GDG_OSDVDC_VDC 20).osdTime ≤ (({ wOsd.put GDG_OSDSTAT_BUSY 1 with osd := ⟨false, [.opn 3 4], 0, 1, [], none⟩, clk := { wOn.clk with now := 10000000 } }).put GDG_OSDVDC_VDC 20).now)
    ∧ ((({ wOsd.put GDG_OSDSTAT_BUSY 1 with osd := ⟨false, [.opn 3 4], 0, 1, [], none⟩, clk := { wOn.clk with now := 10000000 } }).put GDG_OSDVDC_VDC 20).osd.steps = .opn (3 : Fin 32).val (4 : Fin 32).val :: ([] : List OsdStep))
    ∧ ((({ wOsd.put GDG_OSDSTAT_BUSY 1 with osd := ⟨false, [.opn 3 4], 0, 1, [], none⟩, clk := { wOn.clk with now := 10000000 } }).put GDG_OSDVDC_VDC 20).osd.part = 1)
    ∧ ((3 : Fin 32).val ≤ 20)
    ∧ ((4 : Fin 32).val ≤ 20))
    ∧ ((({ wOsd.put GDG_OSDSTAT_BUSY 1 with osd := ⟨false, [.opn 23 24], 0, 1, [], none⟩, clk := { wOn.clk with now := 10000000 } }).is GDG_OSDSTAT_BUSY = true)
    ∧ (({ wOsd.put GDG_OSDSTAT_BUSY 1 with osd := ⟨false, [.opn 23 24], 0, 1, [], none⟩, clk := { wOn.clk with now := 10000000 } }).osd.wait = false)
    ∧ (({ wOsd.put GDG_OSDSTAT_BUSY 1 with osd := ⟨false, [.opn 23 24], 0, 1, [], none⟩, clk := { wOn.clk with now := 10000000 } }).osd.since + ({ wOsd.put GDG_OSDSTAT_BUSY 1 with osd := ⟨false, [.opn 23 24], 0, 1, [], none⟩, clk := { wOn.clk with now := 10000000 } }).osdTime ≤ ({ wOsd.put GDG_OSDSTAT_BUSY 1 with osd := ⟨false, [.opn 23 24], 0, 1, [], none⟩, clk := { wOn.clk with now := 10000000 } }).now)
    ∧ (({ wOsd.put GDG_OSDSTAT_BUSY 1 with osd := ⟨false, [.opn 23 24], 0, 1, [], none⟩, clk := { wOn.clk with now := 10000000 } }).osd.steps = .opn (23 : Fin 32).val (24 : Fin 32).val :: ([] : List OsdStep))
    ∧ (({ wOsd.put GDG_OSDSTAT_BUSY 1 with osd := ⟨false, [.opn 23 24], 0, 1, [], none⟩, clk := { wOn.clk with now := 10000000 } }).osd.part = 1)
    ∧ (21 ≤ (23 : Fin 32).val)
    ∧ (21 ≤ (24 : Fin 32).val)) := by
  and_intros <;> decide +kernel

theorem witness_reaction_groups_and_off_state_diagnostics_part4 :
    ((({ wOsd.put GDG_OSDSTAT_BUSY 1 with osd := ⟨false, [.opn 3 24], 0, 1, [], none⟩, clk := { wOn.clk with now := 10000000 } }).is GDG_OSDSTAT_BUSY = true)
    ∧ (({ wOsd.put GDG_OSDSTAT_BUSY 1 with osd := ⟨false, [.opn 3 24], 0, 1, [], none⟩, clk := { wOn.clk with now := 10000000 } }).osd.wait = false)
    ∧ (({ wOsd.put GDG_OSDSTAT_BUSY 1 with osd := ⟨false, [.opn 3 24], 0, 1, [], none⟩, clk := { wOn.clk with now := 10000000 } }).osd.since + ({ wOsd.put GDG_OSDSTAT_BUSY 1 with osd := ⟨false, [.opn 3 24], 0, 1, [], none⟩, clk := { wOn.clk with now := 10000000 } }).osdTime ≤ ({ wOsd.put GDG_OSDSTAT_BUSY 1 with osd := ⟨false, [.opn 3 24], 0, 1, [], none⟩, clk := { wOn.clk with now := 10000000 } }).now)
    ∧ (({ wOsd.put GDG_OSDSTAT_BUSY 1 with osd := ⟨false, [.opn 3 24], 0, 1, [], none⟩, clk := { wOn.clk with now := 10000000 } }).osd.steps = .opn (3 : Fin 32).val (24 : Fin 32).val :: ([] : List OsdStep))
    ∧ (({ wOsd.put GDG_OSDSTAT_BUSY 1 with osd := ⟨false, [.opn 3 24], 0, 1, [], none⟩, clk := { wOn.clk with now := 10000000 } }).osd.part = 1)
    ∧ ((3 : Fin 32).val ≤ 20 ∧ 21 ≤ (24 : Fin 32).val ∨ 21 ≤ (3 : Fin 32).val ∧ (24 : Fin 32).val ≤ 20))
    ∧ ((({ wOsd.put GDG_OSDSTAT_BUSY 1 with osd := ⟨false, [.shlo 3, .shhi 3], 0, 2, [], none⟩, clk := { wOn.clk with now := 10000000 } }).is GDG_OSDSTAT_BUSY = true)
    ∧ (({ wOsd.put GDG_OSDSTAT_BUSY 1 with osd := ⟨false, [.shlo 3, .shhi 3], 0, 2, [], none⟩, clk := { wOn.clk with now := 10000000 } }).osd.wait = false)
    ∧ (({ wOsd.put GDG_OSDSTAT_BUSY 1 with osd := ⟨false, [.shlo 3, .shhi 3], 0, 2, [], none⟩, clk := { wOn.clk with now := 10000000 } }).osd.since + ({ wOsd.put GDG_OSDSTAT_BUSY 1 with osd := ⟨false, [.shlo 3, .shhi 3], 0, 2, [], none⟩, clk := { wOn.clk with now := 10000000 } }).osdTime ≤ ({ wOsd.put GDG_OSDSTAT_BUSY 1 with osd := ⟨false, [.shlo 3, .shhi 3], 0, 2, [], none⟩, clk := { wOn.clk with now := 10000000 } }).now)
    ∧ (({ wOsd.put GDG_OSDSTAT_BUSY 1 with osd := ⟨false, [.shlo 3, .shhi 3], 0, 2, [], none⟩, clk := { wOn.clk with now := 10000000 } }).osd.steps = (.shlo 3 : OsdStep) :: (.shhi 3 : OsdStep) :: ([] : List OsdStep))
    ∧ (2 ≤ ({ wOsd.put GDG_OSDSTAT_BUSY 1 with osd := ⟨false, [.shlo 3, .shhi 3], 0, 2, [], none⟩, clk := { wOn.clk with now := 10000000 } }).osd.part))
    ∧ ((({ wOsd.put GDG_OSDSTAT_BUSY 1 with osd := ⟨false, [.shhi 3], 0, 2, [], none⟩, clk := { wOn.clk with now := 10000000 } }).is GDG_OSDSTAT_BUSY = true)
    ∧ (({ wOsd.put GDG_OSDSTAT_BUSY 1 with osd := ⟨false, [.shhi 3], 0, 2, [], none⟩, clk := { wOn.clk with now := 10000000 } }).osd.wait = false)
    ∧ (({ wOsd.put GDG_OSDSTAT_BUSY 1 with osd := ⟨false, [.shhi 3], 0, 2, [], none⟩, clk := { wOn.clk with now := 10000000 } }).osd.since + ({ wOsd.put GDG_OSDSTAT_BUSY 1 with osd := ⟨false, [.shhi 3], 0, 2, [], none⟩, clk := { wOn.clk with now := 10000000 } }).osdTime ≤ ({ wOsd.put GDG_OSDSTAT_BUSY 1 with osd := ⟨false, [.shhi 3], 0, 2, [], none⟩, clk := { wOn.clk with now := 10000000 } }).now)
    ∧ (({ wOsd.put GDG_OSDSTAT_BUSY 1 with osd := ⟨false, [.shhi 3], 0, 2, [], none⟩, clk := { wOn.clk with now := 10000000 } }).osd.steps = [(.shhi 3 : OsdStep)])
    ∧ (2 ≤ ({ wOsd.put GDG_OSDSTAT_BUSY 1 with osd := ⟨false, [.shhi 3], 0, 2, [], none⟩, clk := { wOn.clk with now := 10000000 } }).osd.part)
    ∧ (({ wOsd.put GDG_OSDSTAT_BUSY 1 with osd := ⟨false, [.shhi 3], 0, 2, [], none⟩, clk := { wOn.clk with now := 10000000 } }).osd.doms = [])
    ∧ (({ wOsd.put GDG_OSDSTAT_BUSY 1 with osd := ⟨false, [.shhi 3], 0, 2, [], none⟩, clk := { wOn.clk with now := 10000000 } }).osd.req = none))
    ∧ ((wOsd.is GDG_OSDSTAT_BUSY = false ∨ wOsd.osd.wait = true ∨ wOsd.now < wOsd.osd.since + wOsd.osdTime ∨ wOsd.osd.steps = [])) := by
  and_intros <;> decide +kernel

theorem witness_converter_words_reach_their_slot :
    ((((wAdE 3)).conv.lanes.length = 24)
    ∧ (((wAdE 3)).laneDue (3 : Fin 24).val = some (⟨3, 935, 993⟩ : AdEdge))
    ∧ (((wAdE 3)).isOn 7 = true)
    ∧ (((wAdE 3)).ticking = true)
    ∧ (((wAdE 3)).is ADG_STATUS_LOCKED = true)
    ∧ (((wAdE 3)).is (AD_STATUS_ACTIVE (3 : Fin 24).val) = true)
    ∧ ((((wAdE 3)).lane (3 : Fin 24).val).slot < 8)
    ∧ ((((wAdE 3)).lane (3 : Fin 24).val).slot ≠ 0)
    ∧ ((((wAdE 3)).laneWord (3 : Fin 24).val (⟨3, 935, 993⟩ : AdEdge) (.raw 0x6005 : LaneWord)).testBit 15 = false)
    ∧ ((((wAdE 3)).lane (3 : Fin 24).val).lost = false))
    ∧ (((((wAdE 8).setLane 3 ⟨5, true, 0, none, []⟩)).conv.lanes.length = 24)
    ∧ ((((wAdE 8).setLane 3 ⟨5, true, 0, none, []⟩)).laneDue (3 : Fin 24).val = some (⟨8, 935, 993⟩ : AdEdge))
    ∧ ((((wAdE 8).setLane 3 ⟨5, true, 0, none, []⟩)).isOn 7 = true)
    ∧ ((((wAdE 8).setLane 3 ⟨5, true, 0, none, []⟩)).ticking = true)
    ∧ ((((wAdE 8).setLane 3 ⟨5, true, 0, none, []⟩)).is ADG_STATUS_LOCKED = true)
    ∧ ((((wAdE 8).setLane 3 ⟨5, true, 0, none, []⟩)).is (AD_CFG_EN (3 : Fin 24).val) = true)
    ∧ (((((wAdE 8).setLane 3 ⟨5, true, 0, none, []⟩)).laneWord (3 : Fin 24).val (⟨8, 935, 993⟩ : AdEdge) (.sample 1000 : LaneWord)).testBit 15 = true)
    ∧ (((((wAdE 8).setLane 3 ⟨5, true, 0, none, []⟩)).lane (3 : Fin 24).val).lost = true ∨ ((((wAdE 8).setLane 3 ⟨5, true, 0, none, []⟩)).lane (3 : Fin 24).val).slot = 0))
    ∧ ((((wAdE 8)).conv.lanes.length = 24)
    ∧ (((wAdE 8)).laneDue (3 : Fin 24).val = some (⟨8, 935, 993⟩ : AdEdge))
    ∧ (((wAdE 8)).isOn 7 = true)
    ∧ (((wAdE 8)).ticking = true)
    ∧ (((wAdE 8)).is ADG_STATUS_LOCKED = true)
    ∧ ((if (((wAdE 8)).laneWord (3 : Fin 24).val (⟨8, 935, 993⟩ : AdEdge) (.raw 0x8005 : LaneWord)).testBit 15 then ((wAdE 8)).is (AD_CFG_EN (3 : Fin 24).val) else ((wAdE 8)).is (AD_STATUS_ACTIVE (3 : Fin 24).val)) = true)
    ∧ ((((wAdE 8)).laneWord (3 : Fin 24).val (⟨8, 935, 993⟩ : AdEdge) (.raw 0x8005 : LaneWord)).testBit 15 ≠ ((((wAdE 8)).lane (3 : Fin 24).val).slot == 0))
    ∧ ((((wAdE 8)).lane (3 : Fin 24).val).lost = false))
    ∧ (((((wAdE 9).setLane 3 ⟨5, true, 0, none, []⟩)).conv.lanes.length = 24)
    ∧ ((((wAdE 9).setLane 3 ⟨5, true, 0, none, []⟩)).laneDue (3 : Fin 24).val = some (⟨9, 935, 993⟩ : AdEdge))
    ∧ ((((wAdE 9).setLane 3 ⟨5, true, 0, none, []⟩)).isOn 7 = true)
    ∧ ((((wAdE 9).setLane 3 ⟨5, true, 0, none, []⟩)).ticking = true)
    ∧ ((((wAdE 9).setLane 3 ⟨5, true, 0, none, []⟩)).is ADG_STATUS_LOCKED = true)
    ∧ ((((wAdE 9).setLane 3 ⟨5, true, 0, none, []⟩)).is (AD_STATUS_ACTIVE (3 : Fin 24).val) = true)
    ∧ (((((wAdE 9).setLane 3 ⟨5, true, 0, none, []⟩)).laneWord (3 : Fin 24).val (⟨9, 935, 993⟩ : AdEdge) (.sample 1000 : LaneWord)).testBit 15 = false)
    ∧ (((((wAdE 9).setLane 3 ⟨5, true, 0, none, []⟩)).lane (3 : Fin 24).val).lost = true))
    ∧ (((((wAdE 8).put (AD_CFG_EN 3) 0)).conv.lanes.length = 24)
    ∧ ((((wAdE 8).put (AD_CFG_EN 3) 0)).laneDue (3 : Fin 24).val = some (⟨8, 935, 993⟩ : AdEdge))
    ∧ ((((wAdE 8).put (AD_CFG_EN 3) 0)).isOn 7 = true)
    ∧ ((((wAdE 8).put (AD_CFG_EN 3) 0)).ticking = true)
    ∧ ((((wAdE 8).put (AD_CFG_EN 3) 0)).is ADG_STATUS_LOCKED = true)
    ∧ (((((wAdE 8).put (AD_CFG_EN 3) 0)).laneWord (3 : Fin 24).val (⟨8, 935, 993⟩ : AdEdge) (.sample 1000 : LaneWord)).testBit 15 = true)
    ∧ ((((wAdE 8).put (AD_CFG_EN 3) 0)).is (AD_CFG_EN (3 : Fin 24).val) = false))
    ∧ (((((wAdE 9).put ADG_STATUS_LOCKED 0)).laneDue (3 : Fin 24).val = some (⟨9, 935, 993⟩ : AdEdge))
    ∧ ((((wAdE 9).put ADG_STATUS_LOCKED 0)).isOn 7 = false ∨ (((wAdE 9).put ADG_STATUS_LOCKED 0)).ticking = false ∨ (((wAdE 9).put ADG_STATUS_LOCKED 0)).is ADG_STATUS_LOCKED = false ∨ ((((wAdE 9).put ADG_STATUS_LOCKED 0)).is (AD_STATUS_ACTIVE (3 : Fin 24).val) = false ∧ ((((wAdE 9).put ADG_STATUS_LOCKED 0)).laneWord (3 : Fin 24).val (⟨9, 935, 993⟩ : AdEdge) (.sample 1000 : LaneWord)).testBit 15 = false))) := by
  and_intros <;> decide +kernel

theorem witness_converter_words_reach_their_slot_part2 :
    ((wAd.laneDue (3 : Fin 24).val = none))
    ∧ ((wOn.conv.lanes.length = 24)
    ∧ (wOn.Reaches (Initiator.kp : Initiator) (AD_SEQ (22 : Fin 24).val).addr))
    ∧ ((({ ((wAd.wr (AD_SEQ 3) 0x1234).setLane 3 ⟨3, false, 0, some 910, []⟩).setConv { ((wAd.wr (AD_SEQ 3) 0x1234).setLane 3 ⟨3, false, 0, some 910, []⟩).conv with edges := [⟨8, 935, 993⟩] } with clk := { wAd.clk with now := 935 } }).conv.lanes.length = 24)
    ∧ ((({ ((wAd.wr (AD_SEQ 3) 0x1234).setLane 3 ⟨3, false, 0, some 910, []⟩).setConv { ((wAd.wr (AD_SEQ 3) 0x1234).setLane 3 ⟨3, false, 0, some 910, []⟩).conv with edges := [⟨8, 935, 993⟩] } with clk := { wAd.clk with now := 935 } }).lane (3 : Fin 24).val).seqAt = some (910 : Nat))
    ∧ (({ ((wAd.wr (AD_SEQ 3) 0x1234).setLane 3 ⟨3, false, 0, some 910, []⟩).setConv { ((wAd.wr (AD_SEQ 3) 0x1234).setLane 3 ⟨3, false, 0, some 910, []⟩).conv with edges := [⟨8, 935, 993⟩] } with clk := { wAd.clk with now := 935 } }).conv.edges = (⟨8, 935, 993⟩ : AdEdge) :: ([] : List AdEdge))
    ∧ (({ ((wAd.wr (AD_SEQ 3) 0x1234).setLane 3 ⟨3, false, 0, some 910, []⟩).setConv { ((wAd.wr (AD_SEQ 3) 0x1234).setLane 3 ⟨3, false, 0, some 910, []⟩).conv with edges := [⟨8, 935, 993⟩] } with clk := { wAd.clk with now := 935 } }).isOn 7 = true)
    ∧ (({ ((wAd.wr (AD_SEQ 3) 0x1234).setLane 3 ⟨3, false, 0, some 910, []⟩).setConv { ((wAd.wr (AD_SEQ 3) 0x1234).setLane 3 ⟨3, false, 0, some 910, []⟩).conv with edges := [⟨8, 935, 993⟩] } with clk := { wAd.clk with now := 935 } }).is ADG_STATUS_LOCKED = true)
    ∧ ((⟨8, 935, 993⟩ : AdEdge).num % 8 = 0 ∧ (⟨8, 935, 993⟩ : AdEdge).at' = ({ ((wAd.wr (AD_SEQ 3) 0x1234).setLane 3 ⟨3, false, 0, some 910, []⟩).setConv { ((wAd.wr (AD_SEQ 3) 0x1234).setLane 3 ⟨3, false, 0, some 910, []⟩).conv with edges := [⟨8, 935, 993⟩] } with clk := { wAd.clk with now := 935 } }).now)
    ∧ ((910 : Nat) + 25 ≤ ({ ((wAd.wr (AD_SEQ 3) 0x1234).setLane 3 ⟨3, false, 0, some 910, []⟩).setConv { ((wAd.wr (AD_SEQ 3) 0x1234).setLane 3 ⟨3, false, 0, some 910, []⟩).conv with edges := [⟨8, 935, 993⟩] } with clk := { wAd.clk with now := 935 } }).now))
    ∧ (((wAd.lane (3 : Fin 24).val).seqAt = none ∨ wAd.isOn 7 = false ∨ wAd.is ADG_STATUS_LOCKED = false ∨ (∀ e ∈ wAd.conv.edges.head?, e.num % 8 ≠ 0 ∨ e.at' ≠ wAd.now ∨ ∀ c ∈ (wAd.lane (3 : Fin 24).val).seqAt, wAd.now < c + 25)))
    ∧ ((wAd.isOn 7 = true)
    ∧ (wAd.is ADG_STATUS_LOCKED = true))
    ∧ ((wOn.isOn 7 = false ∨ wOn.is ADG_STATUS_LOCKED = false)) := by
  and_intros <;> decide +kernel

theorem witness_converter_words_reach_their_slot_part3 :
    (((wAd.put ADG_STATUS_LOCKED 0).isOn 7 = true)
    ∧ ((wAd.put ADG_STATUS_LOCKED 0).is ADG_STATUS_LOCKED = false))
    ∧ ((wAd.isOn 7 = false ∨ wAd.is ADG_STATUS_LOCKED = true))
    ∧ ((({ ((wOn.put ADG_VDCSRC_EN 1).put ADG_VDCSRC_GAIN 100).setConv { wOn.conv with vdc := [(1, 8192 * 100, 100, false)] } with cyc := 4 * 2017 }).isOn 7 = true)
    ∧ (({ ((wOn.put ADG_VDCSRC_EN 1).put ADG_VDCSRC_GAIN 100).setConv { wOn.conv with vdc := [(1, 8192 * 100, 100, false)] } with cyc := 4 * 2017 }).ticking = true)
    ∧ (({ ((wOn.put ADG_VDCSRC_EN 1).put ADG_VDCSRC_GAIN 100).setConv { wOn.conv with vdc := [(1, 8192 * 100, 100, false)] } with cyc := 4 * 2017 }).tick = 1000 * ((1 : Nat) + 1) + 17))
    ∧ ((wOn.isOn 7 = false ∨ wOn.ticking = false ∨ wOn.tick < 1017 ∨ (wOn.tick - 17) % 1000 ≠ 0)) := by
  and_intros <;> decide +kernel

theorem witness_window_units_open_close_and_publish :
    (((((wOn.put (WU_SRC_EN 9) 1).put (WU_OPEN_OSEL 9) 0x20).put (WU_OPEN_ODLY 9) 5).conv.wu.length = 64)
    ∧ ((((wOn.put (WU_SRC_EN 9) 1).put (WU_OPEN_OSEL 9) 0x20).put (WU_OPEN_ODLY 9) 5).wuLive (9 : Fin 64).val = true)
    ∧ ((0x20 : Fin 256).val < 0x89)
    ∧ (((((wOn.put (WU_SRC_EN 9) 1).put (WU_OPEN_OSEL 9) 0x20).put (WU_OPEN_ODLY 9) 5).wu (9 : Fin 64).val).cur = none)
    ∧ ((((wOn.put (WU_SRC_EN 9) 1).put (WU_OPEN_OSEL 9) 0x20).put (WU_OPEN_ODLY 9) 5).get (WU_OPEN_OSEL (9 : Fin 64).val) = (0x20 : Fin 256).val))
    ∧ ((((wOn.put (WU_SRC_EN 9) 1).setWu 9 ⟨some ⟨10, none, 0x100, 0x20, 0, 1, 0, 0, 0, 0x3FFF, 0, false, false, false, false, false⟩, [], none⟩).conv.wu.length = 64)
    ∧ (((wOn.put (WU_SRC_EN 9) 1).setWu 9 ⟨some ⟨10, none, 0x100, 0x20, 0, 1, 0, 0, 0, 0x3FFF, 0, false, false, false, false, false⟩, [], none⟩).wuLive (9 : Fin 64).val = true)
    ∧ ((0x20 : Fin 256).val < 0x89)
    ∧ ((((wOn.put (WU_SRC_EN 9) 1).setWu 9 ⟨some ⟨10, none, 0x100, 0x20, 0, 1, 0, 0, 0, 0x3FFF, 0, false, false, false, false, false⟩, [], none⟩).wu (9 : Fin 64).val).cur = some (⟨10, none, 0x100, 0x20, 0, 1, 0, 0, 0, 0x3FFF, 0, false, false, false, false, false⟩ : WuWin))
    ∧ (((wOn.put (WU_SRC_EN 9) 1).setWu 9 ⟨some ⟨10, none, 0x100, 0x20, 0, 1, 0, 0, 0, 0x3FFF, 0, false, false, false, false, false⟩, [], none⟩).tick < winClose (⟨10, none, 0x100, 0x20, 0, 1, 0, 0, 0, 0x3FFF, 0, false, false, false, false, false⟩ : WuWin))
    ∧ (bitsOf 7 0 (⟨10, none, 0x100, 0x20, 0, 1, 0, 0, 0, 0x3FFF, 0, false, false, false, false, false⟩ : WuWin).opn.toNat = (0x20 : Fin 256).val)
    ∧ (bitsOf 1 0 (⟨10, none, 0x100, 0x20, 0, 1, 0, 0, 0, 0x3FFF, 0, false, false, false, false, false⟩ : WuWin).pol.toNat = 1))
    ∧ ((((wOn.put (WU_SRC_EN 9) 1).setWu 9 ⟨some ⟨10, none, 0x100, 0x20, 0, 2, 0, 0, 0, 0x3FFF, 0, false, false, false, false, false⟩, [], none⟩).conv.wu.length = 64)
    ∧ (((wOn.put (WU_SRC_EN 9) 1).setWu 9 ⟨some ⟨10, none, 0x100, 0x20, 0, 2, 0, 0, 0, 0x3FFF, 0, false, false, false, false, false⟩, [], none⟩).wuLive (9 : Fin 64).val = true)
    ∧ ((0x20 : Fin 256).val < 0x89)
    ∧ ((((wOn.put (WU_SRC_EN 9) 1).setWu 9 ⟨some ⟨10, none, 0x100, 0x20, 0, 2, 0, 0, 0, 0x3FFF, 0, false, false, false, false, false⟩, [], none⟩).wu (9 : Fin 64).val).cur = some (⟨10, none, 0x100, 0x20, 0, 2, 0, 0, 0, 0x3FFF, 0, false, false, false, false, false⟩ : WuWin))
    ∧ (((wOn.put (WU_SRC_EN 9) 1).setWu 9 ⟨some ⟨10, none, 0x100, 0x20, 0, 2, 0, 0, 0, 0x3FFF, 0, false, false, false, false, false⟩, [], none⟩).tick < winClose (⟨10, none, 0x100, 0x20, 0, 2, 0, 0, 0, 0x3FFF, 0, false, false, false, false, false⟩ : WuWin))
    ∧ (bitsOf 7 0 (⟨10, none, 0x100, 0x20, 0, 2, 0, 0, 0, 0x3FFF, 0, false, false, false, false, false⟩ : WuWin).opn.toNat = (0x20 : Fin 256).val)
    ∧ (bitsOf 1 0 (⟨10, none, 0x100, 0x20, 0, 2, 0, 0, 0, 0x3FFF, 0, false, false, false, false, false⟩ : WuWin).pol.toNat = 2)
    ∧ ((((wOn.put (WU_SRC_EN 9) 1).setWu 9 ⟨some ⟨10, none, 0x100, 0x20, 0, 2, 0, 0, 0, 0x3FFF, 0, false, false, false, false, false⟩, [], none⟩).wu (9 : Fin 64).val).pend = none))
    ∧ ((((wOn.put (WU_SRC_EN 9) 1).setWu 9 ⟨some ⟨10, none, 0x100, 0x20, 0, 0, 0, 0, 0, 0x3FFF, 0, false, false, false, false, false⟩, [], none⟩).conv.wu.length = 64)
    ∧ (((wOn.put (WU_SRC_EN 9) 1).setWu 9 ⟨some ⟨10, none, 0x100, 0x20, 0, 0, 0, 0, 0, 0x3FFF, 0, false, false, false, false, false⟩, [], none⟩).wuLive (9 : Fin 64).val = true)
    ∧ ((0x20 : Fin 256).val < 0x89)
    ∧ ((((wOn.put (WU_SRC_EN 9) 1).setWu 9 ⟨some ⟨10, none, 0x100, 0x20, 0, 0, 0, 0, 0, 0x3FFF, 0, false, false, false, false, false⟩, [], none⟩).wu (9 : Fin 64).val).cur = some (⟨10, none, 0x100, 0x20, 0, 0, 0, 0, 0, 0x3FFF, 0, false, false, false, false, false⟩ : WuWin))
    ∧ (((wOn.put (WU_SRC_EN 9) 1).setWu 9 ⟨some ⟨10, none, 0x100, 0x20, 0, 0, 0, 0, 0, 0x3FFF, 0, false, false, false, false, false⟩, [], none⟩).tick < winClose (⟨10, none, 0x100, 0x20, 0, 0, 0, 0, 0, 0x3FFF, 0, false, false, false, false, false⟩ : WuWin))
    ∧ (bitsOf 7 0 (⟨10, none, 0x100, 0x20, 0, 0, 0, 0, 0, 0x3FFF, 0, false, false, false, false, false⟩ : WuWin).opn.toNat = (0x20 : Fin 256).val)
    ∧ (bitsOf 1 0 (⟨10, none, 0x100, 0x20, 0, 0, 0, 0, 0, 0x3FFF, 0, false, false, false, false, false⟩ : WuWin).pol.toNat = 0 ∨ bitsOf 1 0 (⟨10, none, 0x100, 0x20, 0, 0, 0, 0, 0, 0x3FFF, 0, false, false, false, false, false⟩ : WuWin).pol.toNat = 3 ∨ (bitsOf 1 0 (⟨10, none, 0x100, 0x20, 0, 0, 0, 0, 0, 0x3FFF, 0, false, false, false, false, false⟩ : WuWin).pol.toNat = 2 ∧ (((wOn.put (WU_SRC_EN 9) 1).setWu 9 ⟨some ⟨10, none, 0x100, 0x20, 0, 0, 0, 0, 0, 0x3FFF, 0, false, false, false, false, false⟩, [], none⟩).wu (9 : Fin 64).val).pend ≠ none)))
    ∧ ((((((wOn.put (WU_SRC_EN 9) 1).setWu 9 ⟨some ⟨10, some 900, 0x100, 0, 0, 0, 0, 0, 0, 0x3FFF, 0, false, false, false, false, false⟩, [], none⟩).put (WU_OPEN_OSEL 9) 0x20)).conv.wu.length = 64)
    ∧ (((((wOn.put (WU_SRC_EN 9) 1).setWu 9 ⟨some ⟨10, some 900, 0x100, 0, 0, 0, 0, 0, 0, 0x3FFF, 0, false, false, false, false, false⟩, [], none⟩).put (WU_OPEN_OSEL 9) 0x20)).wuLive (9 : Fin 64).val = true)
    ∧ ((0x20 : Fin 256).val < 0x89)
    ∧ ((((((wOn.put (WU_SRC_EN 9) 1).setWu 9 ⟨some ⟨10, some 900, 0x100, 0, 0, 0, 0, 0, 0, 0x3FFF, 0, false, false, false, false, false⟩, [], none⟩).put (WU_OPEN_OSEL 9) 0x20)).wu (9 : Fin 64).val).cur = some (⟨10, some 900, 0x100, 0, 0, 0, 0, 0, 0, 0x3FFF, 0, false, false, false, false, false⟩ : WuWin))
    ∧ (winClose (⟨10, some 900, 0x100, 0, 0, 0, 0, 0, 0, 0x3FFF, 0, false, false, false, false, false⟩ : WuWin) ≤ ((((wOn.put (WU_SRC_EN 9) 1).setWu 9 ⟨some ⟨10, some 900, 0x100, 0, 0, 0, 0, 0, 0, 0x3FFF, 0, false, false, false, false, false⟩, [], none⟩).put (WU_OPEN_OSEL 9) 0x20)).tick)
    ∧ ((((((wOn.put (WU_SRC_EN 9) 1).setWu 9 ⟨some ⟨10, some 900, 0x100, 0, 0, 0, 0, 0, 0, 0x3FFF, 0, false, false, false, false, false⟩, [], none⟩).put (WU_OPEN_OSEL 9) 0x20)).wu (9 : Fin 64).val).pend = none)
    ∧ (((((wOn.put (WU_SRC_EN 9) 1).setWu 9 ⟨some ⟨10, some 900, 0x100, 0, 0, 0, 0, 0, 0, 0x3FFF, 0, false, false, false, false, false⟩, [], none⟩).put (WU_OPEN_OSEL 9) 0x20)).get (WU_OPEN_OSEL (9 : Fin 64).val) = (0x20 : Fin 256).val))
    ∧ ((wOn.wuLive (9 : Fin 64).val = false ∨ 0x89 ≤ (0x20 : Fin 256).val ∨ ((wOn.wu (9 : Fin 64).val).cur = none ∧ wOn.get (WU_OPEN_OSEL (9 : Fin 64).val) ≠ (0x20 : Fin 256).val) ∨ (∃ w ∈ (wOn.wu (9 : Fin 64).val).cur, wOn.tick < winClose w ∧ bitsOf 7 0 w.opn.toNat ≠ (0x20 : Fin 256).val))) := by
  and_intros <;> decide +kernel

theorem witness_window_units_open_close_and_publish_part2 :
    ((((wOn.put (WU_SRC_EN 41) 1).put (WU_OPEN_OSEL 41) 0x88).conv.wu.length = 64)
    ∧ (((wOn.put (WU_SRC_EN 41) 1).put (WU_OPEN_OSEL 41) 0x88).Reaches (Initiator.kp : Initiator) (WUG_SWTRIG (b2n (true : Bool))).addr))
    ∧ ((((((wOn.put (WU_SRC_EN 9) 1).setWu 9 ⟨some ⟨10, none, 0x100, 0, 0, 0, 0, 0, 0, 0x3FFF, 0, false, false, false, false, false⟩, [], none⟩).put (WU_STATUS_STATE 9) 1).wu (9 : Fin 64).val).cur = some (⟨10, none, 0x100, 0, 0, 0, 0, 0, 0, 0x3FFF, 0, false, false, false, false, false⟩ : WuWin))
    ∧ ((((wOn.put (WU_SRC_EN 9) 1).setWu 9 ⟨some ⟨10, none, 0x100, 0, 0, 0, 0, 0, 0, 0x3FFF, 0, false, false, false, false, false⟩, [], none⟩).put (WU_STATUS_STATE 9) 1).wuLive (9 : Fin 64).val = true)
    ∧ ((((wOn.put (WU_SRC_EN 9) 1).setWu 9 ⟨some ⟨10, none, 0x100, 0, 0, 0, 0, 0, 0, 0x3FFF, 0, false, false, false, false, false⟩, [], none⟩).put (WU_STATUS_STATE 9) 1).get (WU_STATUS_STATE (9 : Fin 64).val) = 1)
    ∧ ((⟨10, none, 0x100, 0, 0, 0, 0, 0, 0, 0x3FFF, 0, false, false, false, false, false⟩ : WuWin).openV ≤ (((wOn.put (WU_SRC_EN 9) 1).setWu 9 ⟨some ⟨10, none, 0x100, 0, 0, 0, 0, 0, 0, 0x3FFF, 0, false, false, false, false, false⟩, [], none⟩).put (WU_STATUS_STATE 9) 1).tick))
    ∧ ((wOn.wuLive (9 : Fin 64).val = false ∨ wOn.get (WU_STATUS_STATE (9 : Fin 64).val) ≠ 1 ∨ ∀ w ∈ (wOn.wu (9 : Fin 64).val).cur, wOn.tick < w.openV))
    ∧ ((((wOn.put (WU_SRC_EN 9) 1).setWu 9 ⟨some ⟨10, none, 0x100, 0, 0x200007, 0, 0, 0, 0, 0x3FFF, 0, false, false, false, false, false⟩, [], none⟩).conv.wu.length = 64)
    ∧ (((wOn.put (WU_SRC_EN 9) 1).setWu 9 ⟨some ⟨10, none, 0x100, 0, 0x200007, 0, 0, 0, 0, 0x3FFF, 0, false, false, false, false, false⟩, [], none⟩).wuLive (9 : Fin 64).val = true)
    ∧ ((0x20 : Fin 256).val < 0x89)
    ∧ ((((wOn.put (WU_SRC_EN 9) 1).setWu 9 ⟨some ⟨10, none, 0x100, 0, 0x200007, 0, 0, 0, 0, 0x3FFF, 0, false, false, false, false, false⟩, [], none⟩).wu (9 : Fin 64).val).cur = some (⟨10, none, 0x100, 0, 0x200007, 0, 0, 0, 0, 0x3FFF, 0, false, false, false, false, false⟩ : WuWin))
    ∧ (((wOn.put (WU_SRC_EN 9) 1).setWu 9 ⟨some ⟨10, none, 0x100, 0, 0x200007, 0, 0, 0, 0, 0x3FFF, 0, false, false, false, false, false⟩, [], none⟩).tick < winClose (⟨10, none, 0x100, 0, 0x200007, 0, 0, 0, 0, 0x3FFF, 0, false, false, false, false, false⟩ : WuWin))
    ∧ ((⟨10, none, 0x100, 0, 0x200007, 0, 0, 0, 0, 0x3FFF, 0, false, false, false, false, false⟩ : WuWin).closeV = none)
    ∧ (bitsOf 23 16 (⟨10, none, 0x100, 0, 0x200007, 0, 0, 0, 0, 0x3FFF, 0, false, false, false, false, false⟩ : WuWin).cls.toNat = (0x20 : Fin 256).val)
    ∧ (bitOf 31 (⟨10, none, 0x100, 0, 0x200007, 0, 0, 0, 0, 0x3FFF, 0, false, false, false, false, false⟩ : WuWin).cls.toNat = false)
    ∧ (bitsOf 15 0 (⟨10, none, 0x100, 0, 0x200007, 0, 0, 0, 0, 0x3FFF, 0, false, false, false, false, false⟩ : WuWin).cls.toNat ≠ 0))
    ∧ ((((wOn.put (WU_SRC_EN 9) 1).setWu 9 ⟨some ⟨10, none, 0x100, 0, 0x200000, 0, 0, 0, 0, 0x3FFF, 0, false, false, false, false, false⟩, [], none⟩).conv.wu.length = 64)
    ∧ (((wOn.put (WU_SRC_EN 9) 1).setWu 9 ⟨some ⟨10, none, 0x100, 0, 0x200000, 0, 0, 0, 0, 0x3FFF, 0, false, false, false, false, false⟩, [], none⟩).wuLive (9 : Fin 64).val = true)
    ∧ ((0x20 : Fin 256).val < 0x89)
    ∧ ((((wOn.put (WU_SRC_EN 9) 1).setWu 9 ⟨some ⟨10, none, 0x100, 0, 0x200000, 0, 0, 0, 0, 0x3FFF, 0, false, false, false, false, false⟩, [], none⟩).wu (9 : Fin 64).val).cur = some (⟨10, none, 0x100, 0, 0x200000, 0, 0, 0, 0, 0x3FFF, 0, false, false, false, false, false⟩ : WuWin))
    ∧ (((wOn.put (WU_SRC_EN 9) 1).setWu 9 ⟨some ⟨10, none, 0x100, 0, 0x200000, 0, 0, 0, 0, 0x3FFF, 0, false, false, false, false, false⟩, [], none⟩).tick < winClose (⟨10, none, 0x100, 0, 0x200000, 0, 0, 0, 0, 0x3FFF, 0, false, false, false, false, false⟩ : WuWin))
    ∧ ((⟨10, none, 0x100, 0, 0x200000, 0, 0, 0, 0, 0x3FFF, 0, false, false, false, false, false⟩ : WuWin).closeV = none)
    ∧ (bitsOf 23 16 (⟨10, none, 0x100, 0, 0x200000, 0, 0, 0, 0, 0x3FFF, 0, false, false, false, false, false⟩ : WuWin).cls.toNat = (0x20 : Fin 256).val)
    ∧ (bitOf 31 (⟨10, none, 0x100, 0, 0x200000, 0, 0, 0, 0, 0x3FFF, 0, false, false, false, false, false⟩ : WuWin).cls.toNat = false)
    ∧ (bitsOf 15 0 (⟨10, none, 0x100, 0, 0x200000, 0, 0, 0, 0, 0x3FFF, 0, false, false, false, false, false⟩ : WuWin).cls.toNat = 0)
    ∧ ((((wOn.put (WU_SRC_EN 9) 1).setWu 9 ⟨some ⟨10, none, 0x100, 0, 0x200000, 0, 0, 0, 0, 0x3FFF, 0, false, false, false, false, false⟩, [], none⟩).wu (9 : Fin 64).val).pend = none))
    ∧ ((((wOn.put (WU_SRC_EN 9) 1).setWu 9 ⟨some ⟨10, some 2000, 0x100, 0, 0x200007, 0, 0, 0, 0, 0x3FFF, 0, false, false, false, false, false⟩, [], none⟩).wuLive (9 : Fin 64).val = true)
    ∧ ((0x20 : Fin 256).val < 0x89)
    ∧ ((((wOn.put (WU_SRC_EN 9) 1).setWu 9 ⟨some ⟨10, some 2000, 0x100, 0, 0x200007, 0, 0, 0, 0, 0x3FFF, 0, false, false, false, false, false⟩, [], none⟩).wu (9 : Fin 64).val).cur = some (⟨10, some 2000, 0x100, 0, 0x200007, 0, 0, 0, 0, 0x3FFF, 0, false, false, false, false, false⟩ : WuWin))
    ∧ (((wOn.put (WU_SRC_EN 9) 1).setWu 9 ⟨some ⟨10, some 2000, 0x100, 0, 0x200007, 0, 0, 0, 0, 0x3FFF, 0, false, false, false, false, false⟩, [], none⟩).tick < winClose (⟨10, some 2000, 0x100, 0, 0x200007, 0, 0, 0, 0, 0x3FFF, 0, false, false, false, false, false⟩ : WuWin))
    ∧ ((⟨10, some 2000, 0x100, 0, 0x200007, 0, 0, 0, 0, 0x3FFF, 0, false, false, false, false, false⟩ : WuWin).closeV ≠ none)
    ∧ (bitsOf 23 16 (⟨10, some 2000, 0x100, 0, 0x200007, 0, 0, 0, 0, 0x3FFF, 0, false, false, false, false, false⟩ : WuWin).cls.toNat = (0x20 : Fin 256).val)
    ∧ (bitOf 31 (⟨10, some 2000, 0x100, 0, 0x200007, 0, 0, 0, 0, 0x3FFF, 0, false, false, false, false, false⟩ : WuWin).cls.toNat = false)) := by
  and_intros <;> decide +kernel

theorem witness_window_units_open_close_and_publish_part3 :
    ((((wOn.put (WU_SRC_EN 9) 1).wr (WU_CLOSE 9) 0x200007).wuLive (9 : Fin 64).val = true)
    ∧ ((0x20 : Fin 256).val < 0x89)
    ∧ ((((wOn.put (WU_SRC_EN 9) 1).wr (WU_CLOSE 9) 0x200007).wu (9 : Fin 64).val).cur = none)
    ∧ (((wOn.put (WU_SRC_EN 9) 1).wr (WU_CLOSE 9) 0x200007).get (WU_CLOSE_CSEL (9 : Fin 64).val) = (0x20 : Fin 256).val)
    ∧ (((wOn.put (WU_SRC_EN 9) 1).wr (WU_CLOSE 9) 0x200007).is (WU_CLOSE_CMODE (9 : Fin 64).val) = false))
    ∧ ((wOn.wuLive (9 : Fin 64).val = false ∨ 0x89 ≤ (0x20 : Fin 256).val ∨ ((wOn.wu (9 : Fin 64).val).cur = none ∧ (wOn.get (WU_CLOSE_CSEL (9 : Fin 64).val) ≠ (0x20 : Fin 256).val ∨ wOn.is (WU_CLOSE_CMODE (9 : Fin 64).val) = true)) ∨ (∃ w ∈ (wOn.wu (9 : Fin 64).val).cur, wOn.tick < winClose w ∧ (bitsOf 23 16 w.cls.toNat ≠ (0x20 : Fin 256).val ∨ bitOf 31 w.cls.toNat = true))))
    ∧ ((((wOn.put (WU_SRC_EN 9) 1).setWu 9 ⟨some ⟨10, some 900, 0x100, 0, 0, 0, 0, 0, 0, 0x3FFF, 0, false, false, false, false, false⟩, [], none⟩).conv.wu.length = 64)
    ∧ (((wOn.put (WU_SRC_EN 9) 1).setWu 9 ⟨some ⟨10, some 900, 0x100, 0, 0, 0, 0, 0, 0, 0x3FFF, 0, false, false, false, false, false⟩, [], none⟩).wuLive (9 : Fin 64).val = true)
    ∧ ((((wOn.put (WU_SRC_EN 9) 1).setWu 9 ⟨some ⟨10, some 900, 0x100, 0, 0, 0, 0, 0, 0, 0x3FFF, 0, false, false, false, false, false⟩, [], none⟩).wu (9 : Fin 64).val).cur = some (⟨10, some 900, 0x100, 0, 0, 0, 0, 0, 0, 0x3FFF, 0, false, false, false, false, false⟩ : WuWin))
    ∧ (winClose (⟨10, some 900, 0x100, 0, 0, 0, 0, 0, 0, 0x3FFF, 0, false, false, false, false, false⟩ : WuWin) ≤ ((wOn.put (WU_SRC_EN 9) 1).setWu 9 ⟨some ⟨10, some 900, 0x100, 0, 0, 0, 0, 0, 0, 0x3FFF, 0, false, false, false, false, false⟩, [], none⟩).tick)
    ∧ ((((wOn.put (WU_SRC_EN 9) 1).setWu 9 ⟨some ⟨10, some 900, 0x100, 0, 0, 0, 0, 0, 0, 0x3FFF, 0, false, false, false, false, false⟩, [], none⟩).wu (9 : Fin 64).val).pend = none))
    ∧ ((((wOn.put (WU_SRC_EN 9) 1).setWu 9 ⟨some ⟨10, some 900, 0x100, 0, 0, 0, 0, 0, 0, 0x3FFF, 0, false, false, false, false, false⟩, [], some 890⟩).conv.wu.length = 64)
    ∧ (((wOn.put (WU_SRC_EN 9) 1).setWu 9 ⟨some ⟨10, some 900, 0x100, 0, 0, 0, 0, 0, 0, 0x3FFF, 0, false, false, false, false, false⟩, [], some 890⟩).wuLive (9 : Fin 64).val = true)
    ∧ ((((wOn.put (WU_SRC_EN 9) 1).setWu 9 ⟨some ⟨10, some 900, 0x100, 0, 0, 0, 0, 0, 0, 0x3FFF, 0, false, false, false, false, false⟩, [], some 890⟩).wu (9 : Fin 64).val).cur = some (⟨10, some 900, 0x100, 0, 0, 0, 0, 0, 0, 0x3FFF, 0, false, false, false, false, false⟩ : WuWin))
    ∧ (winClose (⟨10, some 900, 0x100, 0, 0, 0, 0, 0, 0, 0x3FFF, 0, false, false, false, false, false⟩ : WuWin) ≤ ((wOn.put (WU_SRC_EN 9) 1).setWu 9 ⟨some ⟨10, some 900, 0x100, 0, 0, 0, 0, 0, 0, 0x3FFF, 0, false, false, false, false, false⟩, [], some 890⟩).tick)
    ∧ ((((wOn.put (WU_SRC_EN 9) 1).setWu 9 ⟨some ⟨10, some 900, 0x100, 0, 0, 0, 0, 0, 0, 0x3FFF, 0, false, false, false, false, false⟩, [], some 890⟩).wu (9 : Fin 64).val).pend = some (890 : Nat)))
    ∧ ((wOn.wuLive (9 : Fin 64).val = false ∨ ∀ w ∈ (wOn.wu (9 : Fin 64).val).cur, wOn.tick < winClose w))
    ∧ ((({ (wOn.put (WU_SRC_EN 9) 1).setWu 9 ⟨some ⟨10, none, 0x100, 0, 0, 0, 0, 0, 0, 0x3FFF, 0, false, false, false, false, false⟩, [], none⟩ with cyc := 400000 }).conv.wu.length = 64)
    ∧ (({ (wOn.put (WU_SRC_EN 9) 1).setWu 9 ⟨some ⟨10, none, 0x100, 0, 0, 0, 0, 0, 0, 0x3FFF, 0, false, false, false, false, false⟩, [], none⟩ with cyc := 400000 }).wuLive (9 : Fin 64).val = true)
    ∧ ((({ (wOn.put (WU_SRC_EN 9) 1).setWu 9 ⟨some ⟨10, none, 0x100, 0, 0, 0, 0, 0, 0, 0x3FFF, 0, false, false, false, false, false⟩, [], none⟩ with cyc := 400000 }).wu (9 : Fin 64).val).cur = some (⟨10, none, 0x100, 0, 0, 0, 0, 0, 0, 0x3FFF, 0, false, false, false, false, false⟩ : WuWin))
    ∧ ((⟨10, none, 0x100, 0, 0, 0, 0, 0, 0, 0x3FFF, 0, false, false, false, false, false⟩ : WuWin).closeV = none)
    ∧ ((⟨10, none, 0x100, 0, 0, 0, 0, 0, 0, 0x3FFF, 0, false, false, false, false, false⟩ : WuWin).openV + 65535 ≤ ({ (wOn.put (WU_SRC_EN 9) 1).setWu 9 ⟨some ⟨10, none, 0x100, 0, 0, 0, 0, 0, 0, 0x3FFF, 0, false, false, false, false, false⟩, [], none⟩ with cyc := 400000 }).tick)
    ∧ ((({ (wOn.put (WU_SRC_EN 9) 1).setWu 9 ⟨some ⟨10, none, 0x100, 0, 0, 0, 0, 0, 0, 0x3FFF, 0, false, false, false, false, false⟩, [], none⟩ with cyc := 400000 }).wu (9 : Fin 64).val).pend = none)) := by
  and_intros <;> decide +kernel

theorem witness_window_units_open_close_and_publish_part4 :
    ((wOn.wuLive (9 : Fin 64).val = false ∨ ∀ w ∈ (wOn.wu (9 : Fin 64).val).cur, w.closeV ≠ none ∨ wOn.tick < w.openV + 65535))
    ∧ ((((wOn.put (WU_SRC_EN 9) 1).setWu 9 ⟨none, [⟨10, some 900, 0x100, 0, 0, 0x30, 0, 1, 5, 0x3FFF, 5, false, false, false, false, false⟩], none⟩).conv.wu.length = 64)
    ∧ (((wOn.put (WU_SRC_EN 9) 1).setWu 9 ⟨none, [⟨10, some 900, 0x100, 0, 0, 0x30, 0, 1, 5, 0x3FFF, 5, false, false, false, false, false⟩], none⟩).isOn 7 = true)
    ∧ (((wOn.put (WU_SRC_EN 9) 1).setWu 9 ⟨none, [⟨10, some 900, 0x100, 0, 0, 0x30, 0, 1, 5, 0x3FFF, 5, false, false, false, false, false⟩], none⟩).ticking = true))
    ∧ (((State.reset).isOn 7 = false ∨ (State.reset).ticking = false))
    ∧ ((((wOn.put (WU_SRC_EN 9) 1).setWu 9 ⟨none, [⟨10, some 900, 0x100, 0, 0, 0x100, 0, 4, 1000, 200, 300, false, false, false, false, true⟩], none⟩).conv.wu.length = 64)
    ∧ ((((wOn.put (WU_SRC_EN 9) 1).setWu 9 ⟨none, [⟨10, some 900, 0x100, 0, 0, 0x100, 0, 4, 1000, 200, 300, false, false, false, false, true⟩], none⟩).wu (9 : Fin 64).val).closing = (⟨10, some 900, 0x100, 0, 0, 0x100, 0, 4, 1000, 200, 300, false, false, false, false, true⟩ : WuWin) :: ([] : List WuWin))
    ∧ (((wOn.put (WU_SRC_EN 9) 1).setWu 9 ⟨none, [⟨10, some 900, 0x100, 0, 0, 0x100, 0, 4, 1000, 200, 300, false, false, false, false, true⟩], none⟩).isOn 7 = true)
    ∧ (((wOn.put (WU_SRC_EN 9) 1).setWu 9 ⟨none, [⟨10, some 900, 0x100, 0, 0, 0x100, 0, 4, 1000, 200, 300, false, false, false, false, true⟩], none⟩).ticking = true)
    ∧ ((⟨10, some 900, 0x100, 0, 0, 0x100, 0, 4, 1000, 200, 300, false, false, false, false, true⟩ : WuWin).fin = true)
    ∧ ((⟨10, some 900, 0x100, 0, 0, 0x100, 0, 4, 1000, 200, 300, false, false, false, false, true⟩ : WuWin).closeV.getD 0 + 18 ≤ ((wOn.put (WU_SRC_EN 9) 1).setWu 9 ⟨none, [⟨10, some 900, 0x100, 0, 0, 0x100, 0, 4, 1000, 200, 300, false, false, false, false, true⟩], none⟩).tick))
    ∧ ((wOn.isOn 7 = false ∨ wOn.ticking = false ∨ ∀ w ∈ (wOn.wu (9 : Fin 64).val).closing.head?, w.fin = false ∨ wOn.tick < w.closeV.getD 0 + 18))
    ∧ (((wOn.wr (WU_RES1 9) 7).answers (Initiator.kp : Initiator) (WU_RES0 (9 : Fin 64).val).addr = true)
    ∧ ((wOn.wr (WU_RES1 9) 7).busOk (Initiator.kp : Initiator) (WU_RES0 (9 : Fin 64).val).addr false = true)) := by
  and_intros <;> decide +kernel

theorem witness_window_units_open_close_and_publish_part5 :
    ((((wOn.put (WU_SRC_EN 9) 1).setWu 9 ⟨some ⟨10, none, 0x100, 0, 0, 0, 0, 0, 0, 0x3FFF, 0, false, false, false, false, false⟩, [], none⟩).conv.wu.length = 64)
    ∧ (((wOn.put (WU_SRC_EN 9) 1).setWu 9 ⟨some ⟨10, none, 0x100, 0, 0, 0, 0, 0, 0, 0x3FFF, 0, false, false, false, false, false⟩, [], none⟩).Reaches (Initiator.kp : Initiator) (WU_SRC (9 : Fin 64).val).addr))
    ∧ (((wOn.setCap 2 [5]).conv.caps.length = 4)
    ∧ ((wOn.setCap 2 [5]).Reaches (.kp : Initiator) (CAP_CTRL (2 : Fin 4).val).addr)
    ∧ ((wOn.setCap 2 [5]).get (CAP_STATUS_STATE (2 : Fin 4).val) = 0 ∨ (wOn.setCap 2 [5]).get (CAP_STATUS_STATE (2 : Fin 4).val) = 3))
    ∧ (((wOn.wr (CAP_STATUS 2) 0x16).Reaches (.kp : Initiator) (CAP_CTRL (2 : Fin 4).val).addr)
    ∧ ((wOn.wr (CAP_STATUS 2) 0x16).get (CAP_STATUS_STATE (2 : Fin 4).val) = 1 ∨ (wOn.wr (CAP_STATUS 2) 0x16).get (CAP_STATUS_STATE (2 : Fin 4).val) = 2))
    ∧ (((wOn.put (CAP_CFG_SSEL 2) 3).conv.caps.length = 4)
    ∧ ((wOn.put (CAP_CFG_SSEL 2) 3).isOn 7 = true)
    ∧ ((wOn.put (CAP_CFG_SSEL 2) 3).ticking = true)
    ∧ ((3 : Fin 256).val < 0x89)
    ∧ ((wOn.put (CAP_CFG_SSEL 2) 3).get (CAP_CFG_SSEL (2 : Fin 4).val) = (3 : Fin 256).val)
    ∧ ((wOn.put (CAP_CFG_SSEL 2) 3).get (CAP_STATUS_STATE (2 : Fin 4).val) = 0 ∨ (wOn.put (CAP_CFG_SSEL 2) 3).get (CAP_STATUS_STATE (2 : Fin 4).val) = 3))
    ∧ ((wOn.isOn 7 = false ∨ wOn.ticking = false ∨ 0x89 ≤ (3 : Fin 256).val ∨ wOn.get (CAP_CFG_SSEL (2 : Fin 4).val) ≠ (3 : Fin 256).val ∨ wOn.get (CAP_STATUS_STATE (2 : Fin 4).val) = 1 ∨ wOn.get (CAP_STATUS_STATE (2 : Fin 4).val) = 2))
    ∧ (((wOn.wr (CAP_STATUS 2) 0x16).Reaches (Initiator.kp : Initiator) (CAP_CTRL (2 : Fin 4).val).addr)
    ∧ ((wOn.wr (CAP_STATUS 2) 0x16).get (CAP_STATUS_STATE (2 : Fin 4).val) = 1 ∨ (wOn.wr (CAP_STATUS 2) 0x16).get (CAP_STATUS_STATE (2 : Fin 4).val) = 2)) := by
  and_intros <;> decide +kernel

theorem witness_window_units_open_close_and_publish_part6 :
    ((wOn.Reaches (Initiator.kp : Initiator) (CAP_CTRL (2 : Fin 4).val).addr)
    ∧ (wOn.get (CAP_STATUS_STATE (2 : Fin 4).val) = 0 ∨ wOn.get (CAP_STATUS_STATE (2 : Fin 4).val) = 3))
    ∧ ((((wOn.wr (CAP_STATUS 2) 0x16).put (CAP_CFG_LEN 2) 5).get (CAP_STATUS_STATE (2 : Fin 4).val) = 2)
    ∧ (((wOn.wr (CAP_STATUS 2) 0x16).put (CAP_CFG_LEN 2) 5).get (CAP_STATUS_STORED (2 : Fin 4).val) = ((wOn.wr (CAP_STATUS 2) 0x16).put (CAP_CFG_LEN 2) 5).capLen (2 : Fin 4).val))
    ∧ ((wOn.get (CAP_STATUS_STATE (2 : Fin 4).val) ≠ 2 ∨ wOn.get (CAP_STATUS_STORED (2 : Fin 4).val) ≠ wOn.capLen (2 : Fin 4).val)) := by
  and_intros <;> decide +kernel

theorem witness_window_monitors_trip_and_release :
    ((wWm.wmActive (5 : Fin 48).val (false : Bool) = true)
    ∧ (wWm.wmContinuous (5 : Fin 48).val = true)
    ∧ (bitOf (wmCode (5 : Fin 48).val (false : Bool)) wWm.fox.firstDue = false)
    ∧ (bitOf (wmCode (5 : Fin 48).val (false : Bool)) wWm.fox.hk = false)
    ∧ (∀ e ∈ wWm.fox.dac, e.1 = wmCode (5 : Fin 48).val (false : Bool) → e.2.2.2 ≤ wWm.now))
    ∧ (((wWm.setFox { wWm.fox with dac := [(10, 5, 5, 400)] }).wmActive (5 : Fin 48).val (false : Bool) = true)
    ∧ ((wWm.setFox { wWm.fox with dac := [(10, 5, 5, 400)] }).wmContinuous (5 : Fin 48).val = true)
    ∧ (bitOf (wmCode (5 : Fin 48).val (false : Bool)) (wWm.setFox { wWm.fox with dac := [(10, 5, 5, 400)] }).fox.firstDue = false)
    ∧ (bitOf (wmCode (5 : Fin 48).val (false : Bool)) (wWm.setFox { wWm.fox with dac := [(10, 5, 5, 400)] }).fox.hk = false))
    ∧ ((wOn.wmActive (5 : Fin 48).val (false : Bool) = false ∨ wOn.wmContinuous (5 : Fin 48).val = false ∨ bitOf (wmCode (5 : Fin 48).val (false : Bool)) wOn.fox.firstDue = true ∨ bitOf (wmCode (5 : Fin 48).val (false : Bool)) wOn.fox.hk = true))
    ∧ (((wWm.setFox { wWm.fox with firstDue := 2 ^ 10 }).wmActive (5 : Fin 48).val (false : Bool) = true)
    ∧ ((wWm.setFox { wWm.fox with firstDue := 2 ^ 10 }).wmContinuous (5 : Fin 48).val = true)
    ∧ (bitOf (wmCode (5 : Fin 48).val (false : Bool)) (wWm.setFox { wWm.fox with firstDue := 2 ^ 10 }).fox.firstDue = true)
    ∧ (bitOf (wmCode (5 : Fin 48).val (false : Bool)) (wWm.setFox { wWm.fox with firstDue := 2 ^ 10 }).fox.hk = false)
    ∧ (∀ e ∈ (wWm.setFox { wWm.fox with firstDue := 2 ^ 10 }).fox.dac, e.1 = wmCode (5 : Fin 48).val (false : Bool) → e.2.2.2 ≤ (wWm.setFox { wWm.fox with firstDue := 2 ^ 10 }).now))
    ∧ (((wWm.setFox { wWm.fox with firstDue := 2 ^ 10, hk := 2 ^ 10 }).wmActive (5 : Fin 48).val (false : Bool) = true)
    ∧ ((wWm.setFox { wWm.fox with firstDue := 2 ^ 10, hk := 2 ^ 10 }).wmContinuous (5 : Fin 48).val = true)
    ∧ (bitOf (wmCode (5 : Fin 48).val (false : Bool)) (wWm.setFox { wWm.fox with firstDue := 2 ^ 10, hk := 2 ^ 10 }).fox.firstDue = true)
    ∧ (bitOf (wmCode (5 : Fin 48).val (false : Bool)) (wWm.setFox { wWm.fox with firstDue := 2 ^ 10, hk := 2 ^ 10 }).fox.hk = true))
    ∧ ((wOn.wmActive (5 : Fin 48).val (false : Bool) = false ∨ wOn.wmContinuous (5 : Fin 48).val = false ∨ bitOf (wmCode (5 : Fin 48).val (false : Bool)) wOn.fox.firstDue = false)) := by
  and_intros <;> decide +kernel

theorem witness_window_monitors_trip_and_release_part2 :
    ((wOn.Reaches (Initiator.kp : Initiator) (WM_CFG (5 : Fin 48).val).addr))
    ∧ ((((wOn.wr (WM_CFG 5) 0xFFFFFFFF).put (wmOut 5 true) 1).Reaches (Initiator.kp : Initiator) (WM_CFG (5 : Fin 48).val).addr))
    ∧ ((wOn.Reaches (Initiator.kp : Initiator) (WM_TH (5 : Fin 48).val).addr)
    ∧ (wOn.is WMG_LOCK_LOCK = false))
    ∧ (((wOn.put WMG_LOCK_LOCK 1).Reaches (Initiator.kp : Initiator) (WM_TH (5 : Fin 48).val).addr)
    ∧ ((wOn.put WMG_LOCK_LOCK 1).is WMG_LOCK_LOCK = true))
    ∧ ((((wWm.put (WM_CFG_MODE 5) 1).put (WM_CFG_SMP 5) 0).ticking = true)
    ∧ (((wWm.put (WM_CFG_MODE 5) 1).put (WM_CFG_SMP 5) 0).isOn 8 = true)
    ∧ (((wWm.put (WM_CFG_MODE 5) 1).put (WM_CFG_SMP 5) 0).is (WM_CFG_MODE (5 : Fin 48).val) = true)
    ∧ (((wWm.put (WM_CFG_MODE 5) 1).put (WM_CFG_SMP 5) 0).is (WM_STATUS_NOSTRB (5 : Fin 48).val) = false)
    ∧ (((wWm.put (WM_CFG_MODE 5) 1).put (WM_CFG_SMP 5) 0).timebase % (1000 * 2 ^ min 10 (((wWm.put (WM_CFG_MODE 5) 1).put (WM_CFG_SMP 5) 0).get (WM_CFG_SMP (5 : Fin 48).val))) = 0)
    ∧ (((wWm.put (WM_CFG_MODE 5) 1).put (WM_CFG_SMP 5) 0).is (wmEn (5 : Fin 48).val (false : Bool)) = true)
    ∧ (bitOf (wmCode (5 : Fin 48).val (false : Bool)) ((wWm.put (WM_CFG_MODE 5) 1).put (WM_CFG_SMP 5) 0).fox.hk = false)
    ∧ (∀ e ∈ ((wWm.put (WM_CFG_MODE 5) 1).put (WM_CFG_SMP 5) 0).fox.dac, e.1 = wmCode (5 : Fin 48).val (false : Bool) → e.2.2.2 ≤ ((wWm.put (WM_CFG_MODE 5) 1).put (WM_CFG_SMP 5) 0).now))
    ∧ ((((wWm.put (WM_CFG_MODE 5) 1).put (WM_CFG_SMP 5) 0).ticking = true)
    ∧ (((wWm.put (WM_CFG_MODE 5) 1).put (WM_CFG_SMP 5) 0).isOn 8 = true)
    ∧ (((wWm.put (WM_CFG_MODE 5) 1).put (WM_CFG_SMP 5) 0).is (WM_CFG_MODE (5 : Fin 48).val) = true)
    ∧ (((wWm.put (WM_CFG_MODE 5) 1).put (WM_CFG_SMP 5) 0).is (WM_STATUS_NOSTRB (5 : Fin 48).val) = false)
    ∧ (((wWm.put (WM_CFG_MODE 5) 1).put (WM_CFG_SMP 5) 0).timebase % (1000 * 2 ^ min 10 (((wWm.put (WM_CFG_MODE 5) 1).put (WM_CFG_SMP 5) 0).get (WM_CFG_SMP (5 : Fin 48).val))) = 0)
    ∧ (((wWm.put (WM_CFG_MODE 5) 1).put (WM_CFG_SMP 5) 0).is (wmEn (5 : Fin 48).val (true : Bool)) = false ∨ bitOf (wmCode (5 : Fin 48).val (true : Bool)) ((wWm.put (WM_CFG_MODE 5) 1).put (WM_CFG_SMP 5) 0).fox.hk = true)) := by
  and_intros <;> decide +kernel

theorem witness_window_monitors_trip_and_release_part3 :
    ((wWm.ticking = false ∨ wWm.isOn 8 = false ∨ wWm.is (WM_CFG_MODE (5 : Fin 48).val) = false ∨ wWm.is (WM_STATUS_NOSTRB (5 : Fin 48).val) = true ∨ wWm.timebase % (1000 * 2 ^ min 10 (wWm.get (WM_CFG_SMP (5 : Fin 48).val))) ≠ 0))
    ∧ ((({ wWm.put (WM_CFG_MODE 5) 1 with pllB := false }).isOn 8 = true)
    ∧ (({ wWm.put (WM_CFG_MODE 5) 1 with pllB := false }).ticking = false)
    ∧ (({ wWm.put (WM_CFG_MODE 5) 1 with pllB := false }).is (WM_CFG_MODE (5 : Fin 48).val) = true))
    ∧ ((wWm.isOn 8 = false ∨ wWm.ticking = true ∨ wWm.is (WM_CFG_MODE (5 : Fin 48).val) = false))
    ∧ (((wWm.put (wmOut 5 false) 1).isOn 8 = true)
    ∧ ((10 : Fin 256).val < 0x60)
    ∧ ((wWm.put (wmOut 5 false) 1).is (wmOut ((10 : Fin 256).val / 2) ((10 : Fin 256).val % 2 == 1)) = true))
    ∧ (((wOn.setFox { wOn.fox with driven := 15, pads := 15 }).isOn 8 = true)
    ∧ (0x8A ≤ (0x8B : Fin 256).val ∧ (0x8B : Fin 256).val < 0x8E)
    ∧ ((wOn.setFox { wOn.fox with driven := 15, pads := 15 }).padActive ((0x8B : Fin 256).val - 0x8A) = true))
    ∧ ((wOn.isOn 8 = false ∨ ((10 : Fin 256).val < 0x60 ∧ wOn.is (wmOut ((10 : Fin 256).val / 2) ((10 : Fin 256).val % 2 == 1)) = false) ∨ (0x60 ≤ (10 : Fin 256).val ∧ (10 : Fin 256).val < 0x8A) ∨ 0x8E ≤ (10 : Fin 256).val ∨ (0x8A ≤ (10 : Fin 256).val ∧ (10 : Fin 256).val < 0x8E ∧ wOn.padActive ((10 : Fin 256).val - 0x8A) = false))) := by
  and_intros <;> decide +kernel

theorem witness_window_monitors_trip_and_release_part4 :
    ((wOn.isOn 8 = true)
    ∧ (((some true : Option Bool) = some (!wOn.padPol (2 : Fin 4).val)))
    ∧ (wOn.padFlt (2 : Fin 4).val = 0))
    ∧ (((wOn.wr TRN_PADCFG 0x100).isOn 8 = true)
    ∧ (((some true : Option Bool) = some (!(wOn.wr TRN_PADCFG 0x100).padPol (2 : Fin 4).val)))
    ∧ ((wOn.wr TRN_PADCFG 0x100).padFlt (2 : Fin 4).val ≠ 0))
    ∧ (((wOn.setFox { wOn.fox with padAct := 15, pads := 15, driven := 15 }).isOn 8 = true)
    ∧ ((some false : Option Bool) ≠ some (!(wOn.setFox { wOn.fox with padAct := 15, pads := 15, driven := 15 }).padPol (2 : Fin 4).val)))
    ∧ (((State.reset).isOn 8 = false))
    ∧ ((wOn.Reaches (Initiator.kp : Initiator) (TRN_SEL (7 : Fin 32).val).addr)
    ∧ (wOn.is TRN_LOCK_LOCK = false))
    ∧ ((wOn.Reaches (Initiator.kp : Initiator) (TRN_OR_MSK (7 : Fin 16).val (2 : Fin 5).val).addr)
    ∧ (wOn.is TRN_LOCK_LOCK = false)) := by
  and_intros <;> decide +kernel

theorem witness_window_monitors_trip_and_release_part5 :
    ((wOn.Reaches (Initiator.kp : Initiator) (TRN_PADCFG).addr)
    ∧ (wOn.is TRN_LOCK_LOCK = false))
    ∧ ((wOn.Reaches (Initiator.kp : Initiator) (TRN_OUT).addr)
    ∧ (wOn.is TRN_LOCK_LOCK = false))
    ∧ (((wOn.put TRN_LOCK_LOCK 1).Reaches (Initiator.kp : Initiator) (0x4030201C : Word).toNat)
    ∧ ((wOn.put TRN_LOCK_LOCK 1).is TRN_LOCK_LOCK = true)
    ∧ (((0x4030201C : Word).toNat = (TRN_SEL (7 : Fin 32).val).addr ∨ (0x4030201C : Word).toNat = (TRN_OR_MSK (0 : Fin 16).val (0 : Fin 5).val).addr ∨ (0x4030201C : Word).toNat = TRN_PADCFG.addr ∨ (0x4030201C : Word).toNat = TRN_OUT.addr)))
    ∧ ((isRouteReg (0x40300000 : Word).toNat = false)) := by
  and_intros <;> decide +kernel

theorem witness_vector_instructions_of_the_control_engines :
    (((wCe (rWord 0x0B 1 0 ((3 : Fin 8).val) ((1 : Fin 8).val) ((5 : Fin 8).val))).At (2 : Fin 8) (rWord 0x0B 1 0 ((3 : Fin 8).val) ((1 : Fin 8).val) ((5 : Fin 8).val))))
    ∧ (((wCe (rWord 0x0B 1 1 ((3 : Fin 8).val) ((1 : Fin 8).val) ((5 : Fin 8).val))).At (2 : Fin 8) (rWord 0x0B 1 1 ((3 : Fin 8).val) ((1 : Fin 8).val) ((5 : Fin 8).val))))
    ∧ (((wCe (rWord 0x0B 1 2 ((3 : Fin 8).val) ((1 : Fin 8).val) ((5 : Fin 32).val))).At (2 : Fin 8) (rWord 0x0B 1 2 ((3 : Fin 8).val) ((1 : Fin 8).val) ((5 : Fin 32).val))))
    ∧ (((wCe (rWord 0x0B 0 2 ((3 : Fin 8).val) ((1 : Fin 4).val) ((5 : Fin 8).val))).At (2 : Fin 8) (rWord 0x0B 0 2 ((3 : Fin 8).val) ((1 : Fin 4).val) ((5 : Fin 8).val))))
    ∧ ((((wCe (rWord 0x0B 2 0 ((3 : Fin 8).val) ((1 : Fin 32).val) (0))).wrMem32 (0x30080000 + 0x2001C) 77).At (2 : Fin 8) (rWord 0x0B 2 0 ((3 : Fin 8).val) ((1 : Fin 32).val) (0)))
    ∧ (((((wCe (rWord 0x0B 2 0 ((3 : Fin 8).val) ((1 : Fin 32).val) (0))).wrMem32 (0x30080000 + 0x2001C) 77).ceOf (2 : Fin 8).val).xr (1 : Fin 32).val).toNat % 4 = 0)
    ∧ (0x20000 ≤ ((((wCe (rWord 0x0B 2 0 ((3 : Fin 8).val) ((1 : Fin 32).val) (0))).wrMem32 (0x30080000 + 0x2001C) 77).ceOf (2 : Fin 8).val).xr (1 : Fin 32).val).toNat)
    ∧ (((((wCe (rWord 0x0B 2 0 ((3 : Fin 8).val) ((1 : Fin 32).val) (0))).wrMem32 (0x30080000 + 0x2001C) 77).ceOf (2 : Fin 8).val).xr (1 : Fin 32).val).toNat + 24 ≤ 0x40000))
    ∧ ((((wCe (rWord 0x0B 2 0 ((3 : Fin 8).val) ((1 : Fin 32).val) (0))).setCe 2 (wCore.setX 1 0x20003)).At (2 : Fin 8) (rWord 0x0B 2 0 ((3 : Fin 8).val) ((1 : Fin 32).val) (0)))
    ∧ (((((wCe (rWord 0x0B 2 0 ((3 : Fin 8).val) ((1 : Fin 32).val) (0))).setCe 2 (wCore.setX 1 0x20003)).ceOf (2 : Fin 8).val).xr (1 : Fin 32).val).toNat % 4 ≠ 0)) := by
  and_intros <;> decide +kernel

theorem witness_vector_instructions_of_the_control_engines_part2 :
    ((((wCe (rWord 0x0B 2 0 ((3 : Fin 8).val) ((1 : Fin 32).val) (0))).setCe 2 (wCore.setX 1 0x10000)).At (2 : Fin 8) (rWord 0x0B 2 0 ((3 : Fin 8).val) ((1 : Fin 32).val) (0)))
    ∧ (((((wCe (rWord 0x0B 2 0 ((3 : Fin 8).val) ((1 : Fin 32).val) (0))).setCe 2 (wCore.setX 1 0x10000)).ceOf (2 : Fin 8).val).xr (1 : Fin 32).val).toNat % 4 = 0)
    ∧ (¬(0x20000 ≤ ((((wCe (rWord 0x0B 2 0 ((3 : Fin 8).val) ((1 : Fin 32).val) (0))).setCe 2 (wCore.setX 1 0x10000)).ceOf (2 : Fin 8).val).xr (1 : Fin 32).val).toNat ∧ ((((wCe (rWord 0x0B 2 0 ((3 : Fin 8).val) ((1 : Fin 32).val) (0))).setCe 2 (wCore.setX 1 0x10000)).ceOf (2 : Fin 8).val).xr (1 : Fin 32).val).toNat + 24 ≤ 0x40000)))
    ∧ ((((wCe (rWord 0x0B 2 1 ((3 : Fin 4).val) ((1 : Fin 32).val) (0))).wrMem32 (0x30080000 + 0x2001C) 77).At (2 : Fin 8) (rWord 0x0B 2 1 ((3 : Fin 4).val) ((1 : Fin 32).val) (0)))
    ∧ (((((wCe (rWord 0x0B 2 1 ((3 : Fin 4).val) ((1 : Fin 32).val) (0))).wrMem32 (0x30080000 + 0x2001C) 77).ceOf (2 : Fin 8).val).xr (1 : Fin 32).val).toNat % 4 = 0)
    ∧ (0x20000 ≤ ((((wCe (rWord 0x0B 2 1 ((3 : Fin 4).val) ((1 : Fin 32).val) (0))).wrMem32 (0x30080000 + 0x2001C) 77).ceOf (2 : Fin 8).val).xr (1 : Fin 32).val).toNat)
    ∧ (((((wCe (rWord 0x0B 2 1 ((3 : Fin 4).val) ((1 : Fin 32).val) (0))).wrMem32 (0x30080000 + 0x2001C) 77).ceOf (2 : Fin 8).val).xr (1 : Fin 32).val).toNat + 144 ≤ 0x40000))
    ∧ ((((wCe (rWord 0x0B 2 1 ((3 : Fin 4).val) ((1 : Fin 32).val) (0))).setCe 2 (wCore.setX 1 0x20003)).At (2 : Fin 8) (rWord 0x0B 2 1 ((3 : Fin 4).val) ((1 : Fin 32).val) (0)))
    ∧ (((((wCe (rWord 0x0B 2 1 ((3 : Fin 4).val) ((1 : Fin 32).val) (0))).setCe 2 (wCore.setX 1 0x20003)).ceOf (2 : Fin 8).val).xr (1 : Fin 32).val).toNat % 4 ≠ 0))
    ∧ ((((wCe (rWord 0x0B 2 1 ((3 : Fin 4).val) ((1 : Fin 32).val) (0))).setCe 2 (wCore.setX 1 0x10000)).At (2 : Fin 8) (rWord 0x0B 2 1 ((3 : Fin 4).val) ((1 : Fin 32).val) (0)))
    ∧ (((((wCe (rWord 0x0B 2 1 ((3 : Fin 4).val) ((1 : Fin 32).val) (0))).setCe 2 (wCore.setX 1 0x10000)).ceOf (2 : Fin 8).val).xr (1 : Fin 32).val).toNat % 4 = 0)
    ∧ (¬(0x20000 ≤ ((((wCe (rWord 0x0B 2 1 ((3 : Fin 4).val) ((1 : Fin 32).val) (0))).setCe 2 (wCore.setX 1 0x10000)).ceOf (2 : Fin 8).val).xr (1 : Fin 32).val).toNat ∧ ((((wCe (rWord 0x0B 2 1 ((3 : Fin 4).val) ((1 : Fin 32).val) (0))).setCe 2 (wCore.setX 1 0x10000)).ceOf (2 : Fin 8).val).xr (1 : Fin 32).val).toNat + 144 ≤ 0x40000)))
    ∧ ((((wCe (rWord 0x0B 3 0 (0) ((1 : Fin 32).val) ((5 : Fin 8).val))).setCe 2 (wCore.setX 1 0x3F9F0)).At (2 : Fin 8) (rWord 0x0B 3 0 (0) ((1 : Fin 32).val) ((5 : Fin 8).val)))
    ∧ (((((wCe (rWord 0x0B 3 0 (0) ((1 : Fin 32).val) ((5 : Fin 8).val))).setCe 2 (wCore.setX 1 0x3F9F0)).ceOf (2 : Fin 8).val).xr (1 : Fin 32).val).toNat % 4 = 0)
    ∧ (0x20000 ≤ ((((wCe (rWord 0x0B 3 0 (0) ((1 : Fin 32).val) ((5 : Fin 8).val))).setCe 2 (wCore.setX 1 0x3F9F0)).ceOf (2 : Fin 8).val).xr (1 : Fin 32).val).toNat)
    ∧ (((((wCe (rWord 0x0B 3 0 (0) ((1 : Fin 32).val) ((5 : Fin 8).val))).setCe 2 (wCore.setX 1 0x3F9F0)).ceOf (2 : Fin 8).val).xr (1 : Fin 32).val).toNat + 24 ≤ 0x40000))
    ∧ ((((wCe (rWord 0x0B 3 0 (0) ((1 : Fin 32).val) ((5 : Fin 8).val))).setCe 2 (wCore.setX 1 0x20003)).At (2 : Fin 8) (rWord 0x0B 3 0 (0) ((1 : Fin 32).val) ((5 : Fin 8).val)))
    ∧ (((((wCe (rWord 0x0B 3 0 (0) ((1 : Fin 32).val) ((5 : Fin 8).val))).setCe 2 (wCore.setX 1 0x20003)).ceOf (2 : Fin 8).val).xr (1 : Fin 32).val).toNat % 4 ≠ 0)) := by
  and_intros <;> decide +kernel

theorem witness_vector_instructions_of_the_control_engines_part3 :
    ((((wCe (rWord 0x0B 3 0 (0) ((1 : Fin 32).val) ((5 : Fin 8).val))).setCe 2 (wCore.setX 1 0x10000)).At (2 : Fin 8) (rWord 0x0B 3 0 (0) ((1 : Fin 32).val) ((5 : Fin 8).val)))
    ∧ (((((wCe (rWord 0x0B 3 0 (0) ((1 : Fin 32).val) ((5 : Fin 8).val))).setCe 2 (wCore.setX 1 0x10000)).ceOf (2 : Fin 8).val).xr (1 : Fin 32).val).toNat % 4 = 0)
    ∧ (¬(0x20000 ≤ ((((wCe (rWord 0x0B 3 0 (0) ((1 : Fin 32).val) ((5 : Fin 8).val))).setCe 2 (wCore.setX 1 0x10000)).ceOf (2 : Fin 8).val).xr (1 : Fin 32).val).toNat ∧ ((((wCe (rWord 0x0B 3 0 (0) ((1 : Fin 32).val) ((5 : Fin 8).val))).setCe 2 (wCore.setX 1 0x10000)).ceOf (2 : Fin 8).val).xr (1 : Fin 32).val).toNat + 24 ≤ 0x40000)))
    ∧ (((wCe (rWord 0x0B 4 0 ((3 : Fin 32).val) ((1 : Fin 8).val) ((5 : Fin 6).val))).At (2 : Fin 8) (rWord 0x0B 4 0 ((3 : Fin 32).val) ((1 : Fin 8).val) ((5 : Fin 6).val))))
    ∧ (((wCe (rWord 0x0B 5 0 ((3 : Fin 8).val) ((1 : Fin 32).val) ((5 : Fin 6).val))).At (2 : Fin 8) (rWord 0x0B 5 0 ((3 : Fin 8).val) ((1 : Fin 32).val) ((5 : Fin 6).val))))
    ∧ ((wOn.ceRuns (2 : Fin 8).val = false ∨ ∀ w ∈ wOn.ceFetch (2 : Fin 8).val, cxDecode w ≠ some .vadd))
    ∧ ((wOn.ceRuns (2 : Fin 8).val = false ∨ ∀ w ∈ wOn.ceFetch (2 : Fin 8).val, cxDecode w ≠ some .vsub))
    ∧ ((wOn.ceRuns (2 : Fin 8).val = false ∨ ∀ w ∈ wOn.ceFetch (2 : Fin 8).val, cxDecode w ≠ some .vscl)) := by
  and_intros <;> decide +kernel

theorem witness_vector_instructions_of_the_control_engines_part4 :
    ((wOn.ceRuns (2 : Fin 8).val = false ∨ ∀ w ∈ wOn.ceFetch (2 : Fin 8).val, cxDecode w ≠ some .mv))
    ∧ ((wOn.ceRuns (2 : Fin 8).val = false ∨ ∀ w ∈ wOn.ceFetch (2 : Fin 8).val, cxDecode w ≠ some .vld))
    ∧ ((wOn.ceRuns (2 : Fin 8).val = false ∨ ∀ w ∈ wOn.ceFetch (2 : Fin 8).val, cxDecode w ≠ some .mld))
    ∧ ((wOn.ceRuns (2 : Fin 8).val = false ∨ ∀ w ∈ wOn.ceFetch (2 : Fin 8).val, cxDecode w ≠ some .vst))
    ∧ ((wOn.ceRuns (2 : Fin 8).val = false ∨ ∀ w ∈ wOn.ceFetch (2 : Fin 8).val, cxDecode w ≠ some .vext))
    ∧ ((wOn.ceRuns (2 : Fin 8).val = false ∨ ∀ w ∈ wOn.ceFetch (2 : Fin 8).val, cxDecode w ≠ some .vins)) := by
  and_intros <;> decide +kernel

theorem witness_scalar_instructions_of_the_control_engines :
    ((((wCe (rWord 0x2B 4 0 ((3 : Fin 32).val) ((1 : Fin 32).val) ((5 : Fin 32).val))).setCe 2 (wCore.setX 1 0x7FFFFFFF)).At (2 : Fin 8) (rWord 0x2B 4 0 ((3 : Fin 32).val) ((1 : Fin 32).val) ((5 : Fin 32).val))))
    ∧ ((((wCe (rWord 0x2B 4 1 ((3 : Fin 32).val) ((1 : Fin 32).val) ((5 : Fin 32).val))).setCe 2 (wCore.setX 1 0x80000001)).At (2 : Fin 8) (rWord 0x2B 4 1 ((3 : Fin 32).val) ((1 : Fin 32).val) ((5 : Fin 32).val))))
    ∧ (((wCe (rWord 0x2B 5 0 ((3 : Fin 32).val) ((1 : Fin 32).val) ((5 : Fin 32).val))).At (2 : Fin 8) (rWord 0x2B 5 0 ((3 : Fin 32).val) ((1 : Fin 32).val) ((5 : Fin 32).val)))
    ∧ ((5 : Fin 32).val ≠ 0))
    ∧ (((wCe (rWord 0x2B 3 0 ((3 : Fin 32).val) ((1 : Fin 32).val) ((5 : Fin 32).val + 2 ^ 7 * (7 : Fin 32).val))).At (2 : Fin 8) (rWord 0x2B 3 0 ((3 : Fin 32).val) ((1 : Fin 32).val) ((5 : Fin 32).val + 2 ^ 7 * (7 : Fin 32).val))))
    ∧ (((wCe (rWord 0x2B 6 0 ((3 : Fin 32).val) ((1 : Fin 32).val) ((5 : Fin 32).val))).At (2 : Fin 8) (rWord 0x2B 6 0 ((3 : Fin 32).val) ((1 : Fin 32).val) ((5 : Fin 32).val))))
    ∧ (((wCe (rWord 0x2B 2 0 ((3 : Fin 32).val) ((1 : Fin 32).val) (0))).At (2 : Fin 8) (rWord 0x2B 2 0 ((3 : Fin 32).val) ((1 : Fin 32).val) (0)))) := by
  and_intros <;> decide +kernel

theorem witness_scalar_instructions_of_the_control_engines_part2 :
    (((wCe (rWord 0x2B 0 0 (2 * (3 : Fin 16).val) ((1 : Fin 32).val) (0))).At (2 : Fin 8) (rWord 0x2B 0 0 (2 * (3 : Fin 16).val) ((1 : Fin 32).val) (0))))
    ∧ (((wCe (rWord 0x2B 1 0 (2 * (3 : Fin 16).val) (2 * (1 : Fin 16).val) (2 * (5 : Fin 16).val))).At (2 : Fin 8) (rWord 0x2B 1 0 (2 * (3 : Fin 16).val) (2 * (1 : Fin 16).val) (2 * (5 : Fin 16).val))))
    ∧ ((wOn.ceRuns (2 : Fin 8).val = false ∨ ∀ w ∈ wOn.ceFetch (2 : Fin 8).val, cxDecode w ≠ some .sadd))
    ∧ ((wOn.ceRuns (2 : Fin 8).val = false ∨ ∀ w ∈ wOn.ceFetch (2 : Fin 8).val, cxDecode w ≠ some .ssub))
    ∧ ((wOn.ceRuns (2 : Fin 8).val = false ∨ ∀ w ∈ wOn.ceFetch (2 : Fin 8).val, cxDecode w ≠ some .satn))
    ∧ ((wOn.ceRuns (2 : Fin 8).val = false ∨ ∀ w ∈ wOn.ceFetch (2 : Fin 8).val, cxDecode w ≠ some .fclmp)) := by
  and_intros <;> decide +kernel

theorem witness_scalar_instructions_of_the_control_engines_part3 :
    ((wOn.ceRuns (2 : Fin 8).val = false ∨ ∀ w ∈ wOn.ceFetch (2 : Fin 8).val, cxDecode w ≠ some .duty))
    ∧ ((wOn.ceRuns (2 : Fin 8).val = false ∨ ∀ w ∈ wOn.ceFetch (2 : Fin 8).val, cxDecode w ≠ some .rsqrt))
    ∧ ((wOn.ceRuns (2 : Fin 8).val = false ∨ ∀ w ∈ wOn.ceFetch (2 : Fin 8).val, cxDecode w ≠ some .sincos))
    ∧ ((wOn.ceRuns (2 : Fin 8).val = false ∨ ∀ w ∈ wOn.ceFetch (2 : Fin 8).val, cxDecode w ≠ some .rot)) := by
  and_intros <;> decide +kernel

theorem witness_updates_waits_and_interfaces_of_the_control_engines :
    (((wCe (rWord 0x5B 0 0 ((3 : Fin 32).val) ((1 : Fin 32).val) (0))).At (2 : Fin 8) (rWord 0x5B 0 0 ((3 : Fin 32).val) ((1 : Fin 32).val) (0)))
    ∧ ((wCe (rWord 0x5B 0 0 ((3 : Fin 32).val) ((1 : Fin 32).val) (0))).is (CE_DLSTAT_OPEN (2 : Fin 8).val) = false)
    ∧ (∀ k : Fin 4, bitOf k.val ((((wCe (rWord 0x5B 0 0 ((3 : Fin 32).val) ((1 : Fin 32).val) (0))).ceOf (2 : Fin 8).val).xr (1 : Fin 32).val).toNat % 16) = true → (nth ((wCe (rWord 0x5B 0 0 ((3 : Fin 32).val) ((1 : Fin 32).val) (0))).ceOf (2 : Fin 8).val).sets k.val ⟨0, false, 0⟩).pend = false))
    ∧ ((((wCe (rWord 0x5B 0 0 ((3 : Fin 32).val) ((1 : Fin 32).val) (0))).put (CE_DLSTAT_OPEN 2) 1).At (2 : Fin 8) (rWord 0x5B 0 0 ((3 : Fin 32).val) ((1 : Fin 32).val) (0)))
    ∧ (((wCe (rWord 0x5B 0 0 ((3 : Fin 32).val) ((1 : Fin 32).val) (0))).put (CE_DLSTAT_OPEN 2) 1).is (CE_DLSTAT_OPEN (2 : Fin 8).val) = true)
    ∧ (∀ k : Fin 4, bitOf k.val (((((wCe (rWord 0x5B 0 0 ((3 : Fin 32).val) ((1 : Fin 32).val) (0))).put (CE_DLSTAT_OPEN 2) 1).ceOf (2 : Fin 8).val).xr (1 : Fin 32).val).toNat % 16) = true → (nth (((wCe (rWord 0x5B 0 0 ((3 : Fin 32).val) ((1 : Fin 32).val) (0))).put (CE_DLSTAT_OPEN 2) 1).ceOf (2 : Fin 8).val).sets k.val ⟨0, false, 0⟩).pend = false))
    ∧ ((((wCe (rWord 0x5B 0 0 ((3 : Fin 32).val) ((1 : Fin 32).val) (0))).setCe 2 ({ wCore with sets := [⟨0, true, 5⟩, ⟨0, false, 0⟩, ⟨0, false, 0⟩, ⟨0, false, 0⟩] }.setX 1 1)).At (2 : Fin 8) (rWord 0x5B 0 0 ((3 : Fin 32).val) ((1 : Fin 32).val) (0)))
    ∧ (bitOf (0 : Fin 4).val (((((wCe (rWord 0x5B 0 0 ((3 : Fin 32).val) ((1 : Fin 32).val) (0))).setCe 2 ({ wCore with sets := [⟨0, true, 5⟩, ⟨0, false, 0⟩, ⟨0, false, 0⟩, ⟨0, false, 0⟩] }.setX 1 1)).ceOf (2 : Fin 8).val).xr (1 : Fin 32).val).toNat % 16) = true)
    ∧ ((nth (((wCe (rWord 0x5B 0 0 ((3 : Fin 32).val) ((1 : Fin 32).val) (0))).setCe 2 ({ wCore with sets := [⟨0, true, 5⟩, ⟨0, false, 0⟩, ⟨0, false, 0⟩, ⟨0, false, 0⟩] }.setX 1 1)).ceOf (2 : Fin 8).val).sets (0 : Fin 4).val ⟨0, false, 0⟩).pend = true)
    ∧ (∀ j : Fin 4, j < (0 : Fin 4) → bitOf j.val (((((wCe (rWord 0x5B 0 0 ((3 : Fin 32).val) ((1 : Fin 32).val) (0))).setCe 2 ({ wCore with sets := [⟨0, true, 5⟩, ⟨0, false, 0⟩, ⟨0, false, 0⟩, ⟨0, false, 0⟩] }.setX 1 1)).ceOf (2 : Fin 8).val).xr (1 : Fin 32).val).toNat % 16) = true → (nth (((wCe (rWord 0x5B 0 0 ((3 : Fin 32).val) ((1 : Fin 32).val) (0))).setCe 2 ({ wCore with sets := [⟨0, true, 5⟩, ⟨0, false, 0⟩, ⟨0, false, 0⟩, ⟨0, false, 0⟩] }.setX 1 1)).ceOf (2 : Fin 8).val).sets j.val ⟨0, false, 0⟩).pend = false))
    ∧ ((((wCe (rWord 0x5B 1 0 (0) (0) (0))).put (CE_DLSTAT_OPEN 2) 1).At (2 : Fin 8) (rWord 0x5B 1 0 (0) (0) (0)))
    ∧ (((wCe (rWord 0x5B 1 0 (0) (0) (0))).put (CE_DLSTAT_OPEN 2) 1).is (CE_DLSTAT_OPEN (2 : Fin 8).val) = true))
    ∧ (((wCe (rWord 0x5B 1 0 (0) (0) (0))).At (2 : Fin 8) (rWord 0x5B 1 0 (0) (0) (0)))
    ∧ ((wCe (rWord 0x5B 1 0 (0) (0) (0))).is (CE_DLSTAT_OPEN (2 : Fin 8).val) = false))
    ∧ (((wCe (rWord 0x5B 2 0 ((3 : Fin 32).val) ((1 : Fin 32).val) (0))).At (2 : Fin 8) (rWord 0x5B 2 0 ((3 : Fin 32).val) ((1 : Fin 32).val) (0)))
    ∧ (((wCe (rWord 0x5B 2 0 ((3 : Fin 32).val) ((1 : Fin 32).val) (0))).slotOf (2 : Fin 8).val ((((wCe (rWord 0x5B 2 0 ((3 : Fin 32).val) ((1 : Fin 32).val) (0))).ceOf (2 : Fin 8).val).xr (1 : Fin 32).val).toNat % 4)).newest = none ∨ ((wCe (rWord 0x5B 2 0 ((3 : Fin 32).val) ((1 : Fin 32).val) (0))).slotOf (2 : Fin 8).val ((((wCe (rWord 0x5B 2 0 ((3 : Fin 32).val) ((1 : Fin 32).val) (0))).ceOf (2 : Fin 8).val).xr (1 : Fin 32).val).toNat % 4)).taken = true ∨ ((wCe (rWord 0x5B 2 0 ((3 : Fin 32).val) ((1 : Fin 32).val) (0))).slotOf (2 : Fin 8).val ((((wCe (rWord 0x5B 2 0 ((3 : Fin 32).val) ((1 : Fin 32).val) (0))).ceOf (2 : Fin 8).val).xr (1 : Fin 32).val).toNat % 4)).flipAt = some (wCe (rWord 0x5B 2 0 ((3 : Fin 32).val) ((1 : Fin 32).val) (0))).cyc)) := by
  and_intros <;> decide +kernel

theorem witness_updates_waits_and_interfaces_of_the_control_engines_part2 :
    ((((wCe (rWord 0x5B 2 0 ((3 : Fin 32).val) ((1 : Fin 32).val) (0))).setCe 2 { wCore with slots := List.replicate 4 ⟨some 1, false, none, none⟩ }).At (2 : Fin 8) (rWord 0x5B 2 0 ((3 : Fin 32).val) ((1 : Fin 32).val) (0)))
    ∧ ((((wCe (rWord 0x5B 2 0 ((3 : Fin 32).val) ((1 : Fin 32).val) (0))).setCe 2 { wCore with slots := List.replicate 4 ⟨some 1, false, none, none⟩ }).slotOf (2 : Fin 8).val (((((wCe (rWord 0x5B 2 0 ((3 : Fin 32).val) ((1 : Fin 32).val) (0))).setCe 2 { wCore with slots := List.replicate 4 ⟨some 1, false, none, none⟩ }).ceOf (2 : Fin 8).val).xr (1 : Fin 32).val).toNat % 4)).newest = some (1 : Fin 2).val)
    ∧ ((((wCe (rWord 0x5B 2 0 ((3 : Fin 32).val) ((1 : Fin 32).val) (0))).setCe 2 { wCore with slots := List.replicate 4 ⟨some 1, false, none, none⟩ }).slotOf (2 : Fin 8).val (((((wCe (rWord 0x5B 2 0 ((3 : Fin 32).val) ((1 : Fin 32).val) (0))).setCe 2 { wCore with slots := List.replicate 4 ⟨some 1, false, none, none⟩ }).ceOf (2 : Fin 8).val).xr (1 : Fin 32).val).toNat % 4)).taken = false)
    ∧ ((((wCe (rWord 0x5B 2 0 ((3 : Fin 32).val) ((1 : Fin 32).val) (0))).setCe 2 { wCore with slots := List.replicate 4 ⟨some 1, false, none, none⟩ }).slotOf (2 : Fin 8).val (((((wCe (rWord 0x5B 2 0 ((3 : Fin 32).val) ((1 : Fin 32).val) (0))).setCe 2 { wCore with slots := List.replicate 4 ⟨some 1, false, none, none⟩ }).ceOf (2 : Fin 8).val).xr (1 : Fin 32).val).toNat % 4)).flipAt ≠ some ((wCe (rWord 0x5B 2 0 ((3 : Fin 32).val) ((1 : Fin 32).val) (0))).setCe 2 { wCore with slots := List.replicate 4 ⟨some 1, false, none, none⟩ }).cyc))
    ∧ (((wCe (rWord 0x5B 3 0 (2 * (4 : Fin 16).val) (0) (0))).At (2 : Fin 8) (rWord 0x5B 3 0 (2 * (4 : Fin 16).val) (0) (0)))
    ∧ (((wCe (rWord 0x5B 3 0 (2 * (4 : Fin 16).val) (0) (0))).ceOf (2 : Fin 8).val).lgInf = true))
    ∧ ((((wCe (rWord 0x5B 3 0 (2 * (4 : Fin 16).val) (0) (0))).setCe 2 { wCore with lgInf := false, lgLimit := 5000, lgFactor := 128 }).At (2 : Fin 8) (rWord 0x5B 3 0 (2 * (4 : Fin 16).val) (0) (0)))
    ∧ ((((wCe (rWord 0x5B 3 0 (2 * (4 : Fin 16).val) (0) (0))).setCe 2 { wCore with lgInf := false, lgLimit := 5000, lgFactor := 128 }).ceOf (2 : Fin 8).val).lgInf = false))
    ∧ ((((wCe (rWord 0x5B 4 0 (0) ((9 : Fin 32).val) (0))).put (CE_CTRL_LGENT 2) 3).At (2 : Fin 8) (rWord 0x5B 4 0 (0) ((9 : Fin 32).val) (0)))
    ∧ (((wCe (rWord 0x5B 4 0 (0) ((9 : Fin 32).val) (0))).put (CE_CTRL_LGENT 2) 3).get (CE_CTRL_LGENT (2 : Fin 8).val) < 8))
    ∧ (((wCe (rWord 0x5B 4 0 (0) ((9 : Fin 32).val) (0))).At (2 : Fin 8) (rWord 0x5B 4 0 (0) ((9 : Fin 32).val) (0)))
    ∧ (8 ≤ (wCe (rWord 0x5B 4 0 (0) ((9 : Fin 32).val) (0))).get (CE_CTRL_LGENT (2 : Fin 8).val)))
    ∧ ((((wCe (rWord 0x5B 5 0 ((9 : Fin 32).val) (0) (0))).setCe 2 { wCore with wtime := 70 }).At (2 : Fin 8) (rWord 0x5B 5 0 ((9 : Fin 32).val) (0) (0)))) := by
  and_intros <;> decide +kernel

theorem witness_updates_waits_and_interfaces_of_the_control_engines_part3 :
    (((wCe (rWord 0x5B 6 0 (0) ((1 : Fin 32).val) ((5 : Fin 32).val))).At (2 : Fin 8) (rWord 0x5B 6 0 (0) ((1 : Fin 32).val) ((5 : Fin 32).val))))
    ∧ (((wCe (rWord 0x5B 7 0 ((9 : Fin 32).val) ((1 : Fin 32).val) (0))).At (2 : Fin 8) (rWord 0x5B 7 0 ((9 : Fin 32).val) ((1 : Fin 32).val) (0))))
    ∧ ((wOn.ceRuns (2 : Fin 8).val = false ∨ ∀ w ∈ wOn.ceFetch (2 : Fin 8).val, cxDecode w ≠ some .wait))
    ∧ ((wOn.ceRuns (2 : Fin 8).val = false ∨ ∀ w ∈ wOn.ceFetch (2 : Fin 8).val, cxDecode w ≠ some .done))
    ∧ ((wOn.ceRuns (2 : Fin 8).val = false ∨ ∀ w ∈ wOn.ceFetch (2 : Fin 8).val, cxDecode w ≠ some .mbtake))
    ∧ ((wOn.ceRuns (2 : Fin 8).val = false ∨ ∀ w ∈ wOn.ceFetch (2 : Fin 8).val, cxDecode w ≠ some .lgrd)) := by
  and_intros <;> decide +kernel

theorem witness_updates_waits_and_interfaces_of_the_control_engines_part4 :
    ((wOn.ceRuns (2 : Fin 8).val = false ∨ ∀ w ∈ wOn.ceFetch (2 : Fin 8).val, cxDecode w ≠ some .lgwr))
    ∧ ((wOn.ceRuns (2 : Fin 8).val = false ∨ ∀ w ∈ wOn.ceFetch (2 : Fin 8).val, cxDecode w ≠ some .wtime))
    ∧ ((wOn.ceRuns (2 : Fin 8).val = false ∨ ∀ w ∈ wOn.ceFetch (2 : Fin 8).val, cxDecode w ≠ some .xwr))
    ∧ ((wOn.ceRuns (2 : Fin 8).val = false ∨ ∀ w ∈ wOn.ceFetch (2 : Fin 8).val, cxDecode w ≠ some .xrd)) := by
  and_intros <;> decide +kernel

theorem witness_base_instructions_of_the_control_engines :
    (((wCe 0x5081B3).At (2 : Fin 8) (0x5081B3 : Word).toNat)
    ∧ ((fOp (0x5081B3 : Word).toNat) = 0x33)
    ∧ ((fF7 (0x5081B3 : Word).toNat) = 0))
    ∧ (((wCe 0x4050D1B3).At (2 : Fin 8) (0x4050D1B3 : Word).toNat)
    ∧ ((fOp (0x4050D1B3 : Word).toNat) = 0x33)
    ∧ ((fF7 (0x4050D1B3 : Word).toNat) = 0x20)
    ∧ ((fF3 (0x4050D1B3 : Word).toNat) = 0 ∨ (fF3 (0x4050D1B3 : Word).toNat) = 5))
    ∧ (((wCe 0x250B1B3).At (2 : Fin 8) (0x250B1B3 : Word).toNat)
    ∧ ((fOp (0x250B1B3 : Word).toNat) = 0x33)
    ∧ ((fF7 (0x250B1B3 : Word).toNat) = 1))
    ∧ (((wCe 0xE050A193).At (2 : Fin 8) (0xE050A193 : Word).toNat)
    ∧ ((fOp (0xE050A193 : Word).toNat) = 0x13)
    ∧ ((fF3 (0xE050A193 : Word).toNat) ≠ 1)
    ∧ ((fF3 (0xE050A193 : Word).toNat) ≠ 5))
    ∧ (((wCe 0x4050D193).At (2 : Fin 8) (0x4050D193 : Word).toNat)
    ∧ ((fOp (0x4050D193 : Word).toNat) = 0x13)
    ∧ (((fF3 (0x4050D193 : Word).toNat) = 1 ∧ (fF7 (0x4050D193 : Word).toNat) = 0) ∨ ((fF3 (0x4050D193 : Word).toNat) = 5 ∧ ((fF7 (0x4050D193 : Word).toNat) = 0 ∨ (fF7 (0x4050D193 : Word).toNat) = 0x20))))
    ∧ (((wCe 0x812341B7).At (2 : Fin 8) (0x812341B7 : Word).toNat)
    ∧ ((fOp (0x812341B7 : Word).toNat) = 0x37)) := by
  and_intros <;> decide +kernel

theorem witness_base_instructions_of_the_control_engines_part2 :
    (((wCe 0x81234197).At (2 : Fin 8) (0x81234197 : Word).toNat)
    ∧ ((fOp (0x81234197 : Word).toNat) = 0x17))
    ∧ (((wCe 0x10001EF).At (2 : Fin 8) (0x10001EF : Word).toNat)
    ∧ ((fOp (0x10001EF : Word).toNat) = 0x6F)
    ∧ ((plusI ((wCe 0x10001EF).ceOf (2 : Fin 8).val).pc (immJ (0x10001EF : Word).toNat)) % 4 = 0))
    ∧ (((wCe 0x8081E7).At (2 : Fin 8) (0x8081E7 : Word).toNat)
    ∧ ((fOp (0x8081E7 : Word).toNat) = 0x67)
    ∧ ((fF3 (0x8081E7 : Word).toNat) = 0)
    ∧ ((plusI (((wCe 0x8081E7).ceOf (2 : Fin 8).val).xr (fRs1 (0x8081E7 : Word).toNat)).toNat (immI (0x8081E7 : Word).toNat) / 2 * 2) % 4 = 0))
    ∧ (((wCe 0x509463).At (2 : Fin 8) (0x509463 : Word).toNat)
    ∧ ((fOp (0x509463 : Word).toNat) = 0x63)
    ∧ (branchTaken (fF3 (0x509463 : Word).toNat) (((wCe 0x509463).ceOf (2 : Fin 8).val).xr (fRs1 (0x509463 : Word).toNat)) (((wCe 0x509463).ceOf (2 : Fin 8).val).xr (fRs2 (0x509463 : Word).toNat)) = some true)
    ∧ ((plusI ((wCe 0x509463).ceOf (2 : Fin 8).val).pc (immB (0x509463 : Word).toNat)) % 4 = 0))
    ∧ (((wCe 0x508463).At (2 : Fin 8) (0x508463 : Word).toNat)
    ∧ ((fOp (0x508463 : Word).toNat) = 0x63)
    ∧ (branchTaken (fF3 (0x508463 : Word).toNat) (((wCe 0x508463).ceOf (2 : Fin 8).val).xr (fRs1 (0x508463 : Word).toNat)) (((wCe 0x508463).ceOf (2 : Fin 8).val).xr (fRs2 (0x508463 : Word).toNat)) = some false))
    ∧ (((wCe 0x2001EF).At (2 : Fin 8) (0x2001EF : Word).toNat)
    ∧ (((fOp (0x2001EF : Word).toNat) = 0x6F ∧ (plusI ((wCe 0x2001EF).ceOf (2 : Fin 8).val).pc (immJ (0x2001EF : Word).toNat)) % 4 ≠ 0) ∨ ((fOp (0x2001EF : Word).toNat) = 0x63 ∧ branchTaken (fF3 (0x2001EF : Word).toNat) (((wCe 0x2001EF).ceOf (2 : Fin 8).val).xr (fRs1 (0x2001EF : Word).toNat)) (((wCe 0x2001EF).ceOf (2 : Fin 8).val).xr (fRs2 (0x2001EF : Word).toNat)) = some true ∧ (plusI ((wCe 0x2001EF).ceOf (2 : Fin 8).val).pc (immB (0x2001EF : Word).toNat)) % 4 ≠ 0))) := by
  and_intros <;> decide +kernel

theorem witness_base_instructions_of_the_control_engines_part3 :
    (((wCe 0x2081E7).At (2 : Fin 8) (0x2081E7 : Word).toNat)
    ∧ ((fOp (0x2081E7 : Word).toNat) = 0x67)
    ∧ ((fF3 (0x2081E7 : Word).toNat) = 0)
    ∧ ((plusI (((wCe 0x2081E7).ceOf (2 : Fin 8).val).xr (fRs1 (0x2081E7 : Word).toNat)).toNat (immI (0x2081E7 : Word).toNat) / 2 * 2) % 4 ≠ 0))
    ∧ (((wCe 0x409183).At (2 : Fin 8) (0x409183 : Word).toNat)
    ∧ ((fOp (0x409183 : Word).toNat) = 0x03)
    ∧ ((fF3 (0x409183 : Word).toNat) ∈ ([0, 1, 2, 4, 5] : List Nat))
    ∧ ((plusI (((wCe 0x409183).ceOf (2 : Fin 8).val).xr (fRs1 (0x409183 : Word).toNat)).toNat (immI (0x409183 : Word).toNat)) % 2 ^ ((fF3 (0x409183 : Word).toNat) % 4) = 0)
    ∧ ((plusI (((wCe 0x409183).ceOf (2 : Fin 8).val).xr (fRs1 (0x409183 : Word).toNat)).toNat (immI (0x409183 : Word).toNat)) < 0x40000))
    ∧ (((wCe 0x309183).At (2 : Fin 8) (0x309183 : Word).toNat)
    ∧ ((fOp (0x309183 : Word).toNat) = 0x03)
    ∧ ((fF3 (0x309183 : Word).toNat) ∈ ([0, 1, 2, 4, 5] : List Nat))
    ∧ ((plusI (((wCe 0x309183).ceOf (2 : Fin 8).val).xr (fRs1 (0x309183 : Word).toNat)).toNat (immI (0x309183 : Word).toNat)) % 2 ^ ((fF3 (0x309183 : Word).toNat) % 4) ≠ 0))
    ∧ ((((wCe 0xA183).setCe 2 (wCore.setX 1 0x40800000)).At (2 : Fin 8) (0xA183 : Word).toNat)
    ∧ ((fOp (0xA183 : Word).toNat) = 0x03)
    ∧ ((fF3 (0xA183 : Word).toNat) ∈ ([0, 1, 2, 4, 5] : List Nat))
    ∧ ((plusI ((((wCe 0xA183).setCe 2 (wCore.setX 1 0x40800000)).ceOf (2 : Fin 8).val).xr (fRs1 (0xA183 : Word).toNat)).toNat (immI (0xA183 : Word).toNat)) % 2 ^ ((fF3 (0xA183 : Word).toNat) % 4) = 0)
    ∧ (0x40000 ≤ (plusI ((((wCe 0xA183).setCe 2 (wCore.setX 1 0x40800000)).ceOf (2 : Fin 8).val).xr (fRs1 (0xA183 : Word).toNat)).toNat (immI (0xA183 : Word).toNat)))
    ∧ (((wCe 0xA183).setCe 2 (wCore.setX 1 0x40800000)).answers (.ce (2 : Fin 8)) (plusI ((((wCe 0xA183).setCe 2 (wCore.setX 1 0x40800000)).ceOf (2 : Fin 8).val).xr (fRs1 (0xA183 : Word).toNat)).toNat (immI (0xA183 : Word).toNat)) = true)
    ∧ (((wCe 0xA183).setCe 2 (wCore.setX 1 0x40800000)).busOk (.ce (2 : Fin 8)) (plusI ((((wCe 0xA183).setCe 2 (wCore.setX 1 0x40800000)).ceOf (2 : Fin 8).val).xr (fRs1 (0xA183 : Word).toNat)).toNat (immI (0xA183 : Word).toNat)) false (2 ^ ((fF3 (0xA183 : Word).toNat) % 4)) = true)
    ∧ (ctlPort (plusI ((((wCe 0xA183).setCe 2 (wCore.setX 1 0x40800000)).ceOf (2 : Fin 8).val).xr (fRs1 (0xA183 : Word).toNat)).toNat (immI (0xA183 : Word).toNat)) = true))
    ∧ ((((wCe 0xA183).setCe 2 (wCore.setX 1 0x20010000)).At (2 : Fin 8) (0xA183 : Word).toNat)
    ∧ ((fOp (0xA183 : Word).toNat) = 0x03)
    ∧ ((fF3 (0xA183 : Word).toNat) ∈ ([0, 1, 2, 4, 5] : List Nat))
    ∧ ((plusI ((((wCe 0xA183).setCe 2 (wCore.setX 1 0x20010000)).ceOf (2 : Fin 8).val).xr (fRs1 (0xA183 : Word).toNat)).toNat (immI (0xA183 : Word).toNat)) % 2 ^ ((fF3 (0xA183 : Word).toNat) % 4) = 0)
    ∧ (0x40000 ≤ (plusI ((((wCe 0xA183).setCe 2 (wCore.setX 1 0x20010000)).ceOf (2 : Fin 8).val).xr (fRs1 (0xA183 : Word).toNat)).toNat (immI (0xA183 : Word).toNat)))
    ∧ (((wCe 0xA183).setCe 2 (wCore.setX 1 0x20010000)).answers (.ce (2 : Fin 8)) (plusI ((((wCe 0xA183).setCe 2 (wCore.setX 1 0x20010000)).ceOf (2 : Fin 8).val).xr (fRs1 (0xA183 : Word).toNat)).toNat (immI (0xA183 : Word).toNat)) = true)
    ∧ (((wCe 0xA183).setCe 2 (wCore.setX 1 0x20010000)).busOk (.ce (2 : Fin 8)) (plusI ((((wCe 0xA183).setCe 2 (wCore.setX 1 0x20010000)).ceOf (2 : Fin 8).val).xr (fRs1 (0xA183 : Word).toNat)).toNat (immI (0xA183 : Word).toNat)) false (2 ^ ((fF3 (0xA183 : Word).toNat) % 4)) = true)
    ∧ (ctlPort (plusI ((((wCe 0xA183).setCe 2 (wCore.setX 1 0x20010000)).ceOf (2 : Fin 8).val).xr (fRs1 (0xA183 : Word).toNat)).toNat (immI (0xA183 : Word).toNat)) = false)
    ∧ (∃ i j : Fin 4, (.ok 0 0 : FabRes) = .ok i.val j.val))
    ∧ ((((wCe 0xA183).setCe 2 (wCore.setX 1 0x60000000)).At (2 : Fin 8) (0xA183 : Word).toNat)
    ∧ ((fOp (0xA183 : Word).toNat) = 0x03)
    ∧ ((fF3 (0xA183 : Word).toNat) ∈ ([0, 1, 2, 4, 5] : List Nat))
    ∧ ((plusI ((((wCe 0xA183).setCe 2 (wCore.setX 1 0x60000000)).ceOf (2 : Fin 8).val).xr (fRs1 (0xA183 : Word).toNat)).toNat (immI (0xA183 : Word).toNat)) % 2 ^ ((fF3 (0xA183 : Word).toNat) % 4) = 0)
    ∧ (0x40000 ≤ (plusI ((((wCe 0xA183).setCe 2 (wCore.setX 1 0x60000000)).ceOf (2 : Fin 8).val).xr (fRs1 (0xA183 : Word).toNat)).toNat (immI (0xA183 : Word).toNat)))
    ∧ (((wCe 0xA183).setCe 2 (wCore.setX 1 0x60000000)).answers (.ce (2 : Fin 8)) (plusI ((((wCe 0xA183).setCe 2 (wCore.setX 1 0x60000000)).ceOf (2 : Fin 8).val).xr (fRs1 (0xA183 : Word).toNat)).toNat (immI (0xA183 : Word).toNat)) = true)
    ∧ (((wCe 0xA183).setCe 2 (wCore.setX 1 0x60000000)).busOk (.ce (2 : Fin 8)) (plusI ((((wCe 0xA183).setCe 2 (wCore.setX 1 0x60000000)).ceOf (2 : Fin 8).val).xr (fRs1 (0xA183 : Word).toNat)).toNat (immI (0xA183 : Word).toNat)) false (2 ^ ((fF3 (0xA183 : Word).toNat) % 4)) = false)) := by
  and_intros <;> decide +kernel

theorem witness_base_instructions_of_the_control_engines_part4 :
    ((((wCe 0xA183).setCe 2 (wCore.setX 1 0x20010000)).At (2 : Fin 8) (0xA183 : Word).toNat)
    ∧ ((fOp (0xA183 : Word).toNat) = 0x03)
    ∧ ((fF3 (0xA183 : Word).toNat) = 2)
    ∧ ((plusI ((((wCe 0xA183).setCe 2 (wCore.setX 1 0x20010000)).ceOf (2 : Fin 8).val).xr (fRs1 (0xA183 : Word).toNat)).toNat (immI (0xA183 : Word).toNat)) % 4 = 0)
    ∧ (0x20000000 ≤ (plusI ((((wCe 0xA183).setCe 2 (wCore.setX 1 0x20010000)).ceOf (2 : Fin 8).val).xr (fRs1 (0xA183 : Word).toNat)).toNat (immI (0xA183 : Word).toNat)) ∧ (plusI ((((wCe 0xA183).setCe 2 (wCore.setX 1 0x20010000)).ceOf (2 : Fin 8).val).xr (fRs1 (0xA183 : Word).toNat)).toNat (immI (0xA183 : Word).toNat)) < 0x22000000)
    ∧ (((wCe 0xA183).setCe 2 (wCore.setX 1 0x20010000)).answers (.ce (2 : Fin 8)) (plusI ((((wCe 0xA183).setCe 2 (wCore.setX 1 0x20010000)).ceOf (2 : Fin 8).val).xr (fRs1 (0xA183 : Word).toNat)).toNat (immI (0xA183 : Word).toNat)) = true)
    ∧ (((wCe 0xA183).setCe 2 (wCore.setX 1 0x20010000)).busOk (.ce (2 : Fin 8)) (plusI ((((wCe 0xA183).setCe 2 (wCore.setX 1 0x20010000)).ceOf (2 : Fin 8).val).xr (fRs1 (0xA183 : Word).toNat)).toNat (immI (0xA183 : Word).toNat)) false = true)
    ∧ ((.resendsOut : FabRes) = .resendsOut ∨ (.resendsOut : FabRes) = .uncorrectable))
    ∧ (((({ (wCe 0xA183).setCe 2 (wCore.setX 1 0x20010000) with pllA := false })).At (2 : Fin 8) (0xA183 : Word).toNat)
    ∧ ((fOp (0xA183 : Word).toNat) = 0x03)
    ∧ ((fF3 (0xA183 : Word).toNat) ∈ ([0, 1, 2, 4, 5] : List Nat))
    ∧ ((plusI (((({ (wCe 0xA183).setCe 2 (wCore.setX 1 0x20010000) with pllA := false })).ceOf (2 : Fin 8).val).xr (fRs1 (0xA183 : Word).toNat)).toNat (immI (0xA183 : Word).toNat)) % 2 ^ ((fF3 (0xA183 : Word).toNat) % 4) = 0)
    ∧ (0x40000 ≤ (plusI (((({ (wCe 0xA183).setCe 2 (wCore.setX 1 0x20010000) with pllA := false })).ceOf (2 : Fin 8).val).xr (fRs1 (0xA183 : Word).toNat)).toNat (immI (0xA183 : Word).toNat)))
    ∧ ((({ (wCe 0xA183).setCe 2 (wCore.setX 1 0x20010000) with pllA := false })).answers (.ce (2 : Fin 8)) (plusI (((({ (wCe 0xA183).setCe 2 (wCore.setX 1 0x20010000) with pllA := false })).ceOf (2 : Fin 8).val).xr (fRs1 (0xA183 : Word).toNat)).toNat (immI (0xA183 : Word).toNat)) = false))
    ∧ (((wCe 0x509223).At (2 : Fin 8) (0x509223 : Word).toNat)
    ∧ ((fOp (0x509223 : Word).toNat) = 0x23)
    ∧ ((fF3 (0x509223 : Word).toNat) < 3)
    ∧ ((plusI (((wCe 0x509223).ceOf (2 : Fin 8).val).xr (fRs1 (0x509223 : Word).toNat)).toNat (immS (0x509223 : Word).toNat)) % 2 ^ (fF3 (0x509223 : Word).toNat) = 0)
    ∧ ((plusI (((wCe 0x509223).ceOf (2 : Fin 8).val).xr (fRs1 (0x509223 : Word).toNat)).toNat (immS (0x509223 : Word).toNat)) < 0x3FA00))
    ∧ ((((wCe 0x509223).setCe 2 (wCore.setX 1 0x3FA00)).At (2 : Fin 8) (0x509223 : Word).toNat)
    ∧ ((fOp (0x509223 : Word).toNat) = 0x23)
    ∧ ((fF3 (0x509223 : Word).toNat) < 3)
    ∧ ((plusI ((((wCe 0x509223).setCe 2 (wCore.setX 1 0x3FA00)).ceOf (2 : Fin 8).val).xr (fRs1 (0x509223 : Word).toNat)).toNat (immS (0x509223 : Word).toNat)) % 2 ^ (fF3 (0x509223 : Word).toNat) = 0)
    ∧ (0x3FA00 ≤ (plusI ((((wCe 0x509223).setCe 2 (wCore.setX 1 0x3FA00)).ceOf (2 : Fin 8).val).xr (fRs1 (0x509223 : Word).toNat)).toNat (immS (0x509223 : Word).toNat)) ∧ (plusI ((((wCe 0x509223).setCe 2 (wCore.setX 1 0x3FA00)).ceOf (2 : Fin 8).val).xr (fRs1 (0x509223 : Word).toNat)).toNat (immS (0x509223 : Word).toNat)) < 0x40000))
    ∧ (((wCe 0x5091A3).At (2 : Fin 8) (0x5091A3 : Word).toNat)
    ∧ ((fOp (0x5091A3 : Word).toNat) = 0x23)
    ∧ ((fF3 (0x5091A3 : Word).toNat) < 3)
    ∧ ((plusI (((wCe 0x5091A3).ceOf (2 : Fin 8).val).xr (fRs1 (0x5091A3 : Word).toNat)).toNat (immS (0x5091A3 : Word).toNat)) % 2 ^ (fF3 (0x5091A3 : Word).toNat) ≠ 0))
    ∧ ((((wCe 0x50A023).setCe 2 (wCore.setX 1 0x40000004)).At (2 : Fin 8) (0x50A023 : Word).toNat)
    ∧ ((fOp (0x50A023 : Word).toNat) = 0x23)
    ∧ ((fF3 (0x50A023 : Word).toNat) < 3)
    ∧ ((plusI ((((wCe 0x50A023).setCe 2 (wCore.setX 1 0x40000004)).ceOf (2 : Fin 8).val).xr (fRs1 (0x50A023 : Word).toNat)).toNat (immS (0x50A023 : Word).toNat)) % 2 ^ (fF3 (0x50A023 : Word).toNat) = 0)
    ∧ (0x40000 ≤ (plusI ((((wCe 0x50A023).setCe 2 (wCore.setX 1 0x40000004)).ceOf (2 : Fin 8).val).xr (fRs1 (0x50A023 : Word).toNat)).toNat (immS (0x50A023 : Word).toNat)))
    ∧ (((wCe 0x50A023).setCe 2 (wCore.setX 1 0x40000004)).answers (.ce (2 : Fin 8)) (plusI ((((wCe 0x50A023).setCe 2 (wCore.setX 1 0x40000004)).ceOf (2 : Fin 8).val).xr (fRs1 (0x50A023 : Word).toNat)).toNat (immS (0x50A023 : Word).toNat)) = true)
    ∧ (((wCe 0x50A023).setCe 2 (wCore.setX 1 0x40000004)).busOk (.ce (2 : Fin 8)) (plusI ((((wCe 0x50A023).setCe 2 (wCore.setX 1 0x40000004)).ceOf (2 : Fin 8).val).xr (fRs1 (0x50A023 : Word).toNat)).toNat (immS (0x50A023 : Word).toNat)) true (2 ^ (fF3 (0x50A023 : Word).toNat)) = true)
    ∧ (ctlPort (plusI ((((wCe 0x50A023).setCe 2 (wCore.setX 1 0x40000004)).ceOf (2 : Fin 8).val).xr (fRs1 (0x50A023 : Word).toNat)).toNat (immS (0x50A023 : Word).toNat)) = true)
    ∧ (0x40100000 ≤ (plusI ((((wCe 0x50A023).setCe 2 (wCore.setX 1 0x40000004)).ceOf (2 : Fin 8).val).xr (fRs1 (0x50A023 : Word).toNat)).toNat (immS (0x50A023 : Word).toNat)) ∨ ((wCe 0x50A023).setCe 2 (wCore.setX 1 0x40000004)).ceStoreDiscard (.ce (2 : Fin 8)) = false)) := by
  and_intros <;> decide +kernel

theorem witness_base_instructions_of_the_control_engines_part5 :
    (((((wCe 0x50A023).setCe 2 (wCore.setX 1 0x40000004)).put (CE_DLSTAT_ESC 2) 1).At (2 : Fin 8) (0x50A023 : Word).toNat)
    ∧ ((fOp (0x50A023 : Word).toNat) = 0x23)
    ∧ ((fF3 (0x50A023 : Word).toNat) < 3)
    ∧ ((plusI (((((wCe 0x50A023).setCe 2 (wCore.setX 1 0x40000004)).put (CE_DLSTAT_ESC 2) 1).ceOf (2 : Fin 8).val).xr (fRs1 (0x50A023 : Word).toNat)).toNat (immS (0x50A023 : Word).toNat)) % 2 ^ (fF3 (0x50A023 : Word).toNat) = 0)
    ∧ (0x40000000 ≤ (plusI (((((wCe 0x50A023).setCe 2 (wCore.setX 1 0x40000004)).put (CE_DLSTAT_ESC 2) 1).ceOf (2 : Fin 8).val).xr (fRs1 (0x50A023 : Word).toNat)).toNat (immS (0x50A023 : Word).toNat)) ∧ (plusI (((((wCe 0x50A023).setCe 2 (wCore.setX 1 0x40000004)).put (CE_DLSTAT_ESC 2) 1).ceOf (2 : Fin 8).val).xr (fRs1 (0x50A023 : Word).toNat)).toNat (immS (0x50A023 : Word).toNat)) < 0x40100000)
    ∧ ((((wCe 0x50A023).setCe 2 (wCore.setX 1 0x40000004)).put (CE_DLSTAT_ESC 2) 1).answers (.ce (2 : Fin 8)) (plusI (((((wCe 0x50A023).setCe 2 (wCore.setX 1 0x40000004)).put (CE_DLSTAT_ESC 2) 1).ceOf (2 : Fin 8).val).xr (fRs1 (0x50A023 : Word).toNat)).toNat (immS (0x50A023 : Word).toNat)) = true)
    ∧ ((((wCe 0x50A023).setCe 2 (wCore.setX 1 0x40000004)).put (CE_DLSTAT_ESC 2) 1).busOk (.ce (2 : Fin 8)) (plusI (((((wCe 0x50A023).setCe 2 (wCore.setX 1 0x40000004)).put (CE_DLSTAT_ESC 2) 1).ceOf (2 : Fin 8).val).xr (fRs1 (0x50A023 : Word).toNat)).toNat (immS (0x50A023 : Word).toNat)) true (2 ^ (fF3 (0x50A023 : Word).toNat)) = true)
    ∧ ((((wCe 0x50A023).setCe 2 (wCore.setX 1 0x40000004)).put (CE_DLSTAT_ESC 2) 1).ceStoreDiscard (.ce (2 : Fin 8)) = true))
    ∧ ((((wCe 0x50A023).setCe 2 (wCore.setX 1 0x60000000)).At (2 : Fin 8) (0x50A023 : Word).toNat)
    ∧ ((fOp (0x50A023 : Word).toNat) = 0x23)
    ∧ ((fF3 (0x50A023 : Word).toNat) < 3)
    ∧ ((plusI ((((wCe 0x50A023).setCe 2 (wCore.setX 1 0x60000000)).ceOf (2 : Fin 8).val).xr (fRs1 (0x50A023 : Word).toNat)).toNat (immS (0x50A023 : Word).toNat)) % 2 ^ (fF3 (0x50A023 : Word).toNat) = 0)
    ∧ (0x40000 ≤ (plusI ((((wCe 0x50A023).setCe 2 (wCore.setX 1 0x60000000)).ceOf (2 : Fin 8).val).xr (fRs1 (0x50A023 : Word).toNat)).toNat (immS (0x50A023 : Word).toNat)))
    ∧ (((wCe 0x50A023).setCe 2 (wCore.setX 1 0x60000000)).answers (.ce (2 : Fin 8)) (plusI ((((wCe 0x50A023).setCe 2 (wCore.setX 1 0x60000000)).ceOf (2 : Fin 8).val).xr (fRs1 (0x50A023 : Word).toNat)).toNat (immS (0x50A023 : Word).toNat)) = true)
    ∧ (((wCe 0x50A023).setCe 2 (wCore.setX 1 0x60000000)).busOk (.ce (2 : Fin 8)) (plusI ((((wCe 0x50A023).setCe 2 (wCore.setX 1 0x60000000)).ceOf (2 : Fin 8).val).xr (fRs1 (0x50A023 : Word).toNat)).toNat (immS (0x50A023 : Word).toNat)) true (2 ^ (fF3 (0x50A023 : Word).toNat)) = false))
    ∧ ((((wCe 0x50A023).setCe 2 (wCore.setX 1 0x20010000)).At (2 : Fin 8) (0x50A023 : Word).toNat)
    ∧ ((fOp (0x50A023 : Word).toNat) = 0x23)
    ∧ ((fF3 (0x50A023 : Word).toNat) < 3)
    ∧ ((plusI ((((wCe 0x50A023).setCe 2 (wCore.setX 1 0x20010000)).ceOf (2 : Fin 8).val).xr (fRs1 (0x50A023 : Word).toNat)).toNat (immS (0x50A023 : Word).toNat)) % 2 ^ (fF3 (0x50A023 : Word).toNat) = 0)
    ∧ (0x20000000 ≤ (plusI ((((wCe 0x50A023).setCe 2 (wCore.setX 1 0x20010000)).ceOf (2 : Fin 8).val).xr (fRs1 (0x50A023 : Word).toNat)).toNat (immS (0x50A023 : Word).toNat)) ∧ (plusI ((((wCe 0x50A023).setCe 2 (wCore.setX 1 0x20010000)).ceOf (2 : Fin 8).val).xr (fRs1 (0x50A023 : Word).toNat)).toNat (immS (0x50A023 : Word).toNat)) < 0x22000000)
    ∧ (((wCe 0x50A023).setCe 2 (wCore.setX 1 0x20010000)).answers (.ce (2 : Fin 8)) (plusI ((((wCe 0x50A023).setCe 2 (wCore.setX 1 0x20010000)).ceOf (2 : Fin 8).val).xr (fRs1 (0x50A023 : Word).toNat)).toNat (immS (0x50A023 : Word).toNat)) = true)
    ∧ (((wCe 0x50A023).setCe 2 (wCore.setX 1 0x20010000)).busOk (.ce (2 : Fin 8)) (plusI ((((wCe 0x50A023).setCe 2 (wCore.setX 1 0x20010000)).ceOf (2 : Fin 8).val).xr (fRs1 (0x50A023 : Word).toNat)).toNat (immS (0x50A023 : Word).toNat)) true (2 ^ (fF3 (0x50A023 : Word).toNat)) = true)
    ∧ (∃ i j : Fin 4, (.ok 0 0 : FabRes) = .ok i.val j.val))
    ∧ (((wCe 0x10500073).At (2 : Fin 8) (0x10500073 : Word).toNat)
    ∧ (((fOp (0x10500073 : Word).toNat) = 0x0F ∧ (fF3 (0x10500073 : Word).toNat) = 0) ∨ (0x10500073 : Word) = 0x10500073))
    ∧ (((wCe 0x30200073).At (2 : Fin 8) (0x30200073 : Word).toNat)
    ∧ ((0x30200073 : Word) = 0x30200073))
    ∧ (((wCe 0x73).At (2 : Fin 8) (0x73 : Word).toNat)
    ∧ ((0x73 : Word) = 0x73)) := by
  and_intros <;> decide +kernel

theorem witness_base_instructions_of_the_control_engines_part6 :
    (((wCe 0x100073).At (2 : Fin 8) (0x100073 : Word).toNat)
    ∧ ((0x100073 : Word) = 0x100073))
    ∧ (((wCe 0x305091F3).At (2 : Fin 8) (0x305091F3 : Word).toNat)
    ∧ ((fOp (0x305091F3 : Word).toNat) = 0x73)
    ∧ ((fF3 (0x305091F3 : Word).toNat) ≠ 0)
    ∧ (((wCe 0x305091F3).ceOf (2 : Fin 8).val).csrOp (0x305091F3 : Word).toNat ≠ none))
    ∧ (((wCe 0x123091F3).At (2 : Fin 8) (0x123091F3 : Word).toNat)
    ∧ ((fOp (0x123091F3 : Word).toNat) = 0x73)
    ∧ ((fF3 (0x123091F3 : Word).toNat) ≠ 0)
    ∧ (((wCe 0x123091F3).ceOf (2 : Fin 8).val).csrOp (0x123091F3 : Word).toNat = none))
    ∧ (((wCe 0x40A187).At (2 : Fin 8) (0x40A187 : Word).toNat)
    ∧ ((fOp (0x40A187 : Word).toNat) = 0x07)
    ∧ ((fF3 (0x40A187 : Word).toNat) = 2)
    ∧ ((plusI (((wCe 0x40A187).ceOf (2 : Fin 8).val).xr (fRs1 (0x40A187 : Word).toNat)).toNat (immI (0x40A187 : Word).toNat)) % 4 = 0)
    ∧ ((plusI (((wCe 0x40A187).ceOf (2 : Fin 8).val).xr (fRs1 (0x40A187 : Word).toNat)).toNat (immI (0x40A187 : Word).toNat)) < 0x40000))
    ∧ (((wCe 0x50A227).At (2 : Fin 8) (0x50A227 : Word).toNat)
    ∧ ((fOp (0x50A227 : Word).toNat) = 0x27)
    ∧ ((fF3 (0x50A227 : Word).toNat) = 2)
    ∧ ((plusI (((wCe 0x50A227).ceOf (2 : Fin 8).val).xr (fRs1 (0x50A227 : Word).toNat)).toNat (immS (0x50A227 : Word).toNat)) % 4 = 0)
    ∧ ((plusI (((wCe 0x50A227).ceOf (2 : Fin 8).val).xr (fRs1 (0x50A227 : Word).toNat)).toNat (immS (0x50A227 : Word).toNat)) < 0x3FA00))
    ∧ (((wCe 0x105081D3).At (2 : Fin 8) (0x105081D3 : Word).toNat)
    ∧ ((fOp (0x105081D3 : Word).toNat) = 0x53)
    ∧ (((wCe 0x105081D3).ceOf (2 : Fin 8).val).fpOp (0x105081D3 : Word).toNat ≠ none)) := by
  and_intros <;> decide +kernel

theorem witness_base_instructions_of_the_control_engines_part7 :
    (((wCe 0x1050D1D3).At (2 : Fin 8) (0x1050D1D3 : Word).toNat)
    ∧ ((fOp (0x1050D1D3 : Word).toNat) = 0x53)
    ∧ (((wCe 0x1050D1D3).ceOf (2 : Fin 8).val).fpOp (0x1050D1D3 : Word).toNat = none))
    ∧ (((wCe 0x405081C7).At (2 : Fin 8) (0x405081C7 : Word).toNat)
    ∧ ((fOp (0x405081C7 : Word).toNat) ∈ ([0x43, 0x47, 0x4B, 0x4F] : List Nat))
    ∧ (((wCe 0x405081C7).ceOf (2 : Fin 8).val).fmaOp (0x405081C7 : Word).toNat (bitsOf 3 2 (0x405081C7 : Word).toNat) ≠ none))
    ∧ (((wCe 0x0).At (2 : Fin 8) (0x0 : Word).toNat)
    ∧ ((fOp (0x0 : Word).toNat) ∉ ([0x37, 0x17, 0x6F, 0x67, 0x63, 0x03, 0x23, 0x13, 0x33, 0x0F, 0x73, 0x07, 0x27, 0x53, 0x43, 0x47, 0x4B, 0x4F] : List Nat))
    ∧ (cxDecode (0x0 : Word).toNat = none))
    ∧ (((wCe 0x50918B).At (2 : Fin 8) (0x50918B : Word).toNat)
    ∧ (cxDecode (0x50918B : Word).toNat ≠ none))
    ∧ ((((wCe 0).setCe 2 { wCore with pc := 0x40000 }).ce.length = 8)
    ∧ (((wCe 0).setCe 2 { wCore with pc := 0x40000 }).ceRuns (2 : Fin 8).val = true)
    ∧ (0x40000 ≤ (((wCe 0).setCe 2 { wCore with pc := 0x40000 }).ceOf (2 : Fin 8).val).pc))
    ∧ ((wOn.ceRuns (2 : Fin 8).val = false)) := by
  and_intros <;> decide +kernel

theorem witness_base_instructions_of_the_control_engines_part8 :
    ((({ wCe 0 with busErr := [(.kp, 4, 0x21), (.ce 2, 0x40800002, 0x21)] }).ce.length = 8)
    ∧ (({ wCe 0 with busErr := [(.kp, 4, 0x21), (.ce 2, 0x40800002, 0x21)] }).ticking = true)
    ∧ (({ wCe 0 with busErr := [(.kp, 4, 0x21), (.ce 2, 0x40800002, 0x21)] }).get (CE_STATUS_STATE (2 : Fin 8).val) = 1 ∨ ({ wCe 0 with busErr := [(.kp, 4, 0x21), (.ce 2, 0x40800002, 0x21)] }).get (CE_STATUS_STATE (2 : Fin 8).val) = 2)
    ∧ (({ wCe 0 with busErr := [(.kp, 4, 0x21), (.ce 2, 0x40800002, 0x21)] }).busErr.find? (fun e => decide (e.1 = Initiator.ce (2 : Fin 8))) = some (.ce (2 : Fin 8), (0x40800002 : Nat), (0x21 : Nat))))
    ∧ ((wOn.ticking = false ∨ (wOn.get (CE_STATUS_STATE (2 : Fin 8).val) ≠ 1 ∧ wOn.get (CE_STATUS_STATE (2 : Fin 8).val) ≠ 2) ∨ ∀ e ∈ wOn.busErr, e.1 ≠ .ce (2 : Fin 8))) := by
  and_intros <;> decide +kernel

theorem witness_control_engines_halt_run_restart_and_wake :
    (((wCe 0).Reaches (Initiator.kp : Initiator) (CE_CTRL (2 : Fin 8).val).addr)
    ∧ (notCe (Initiator.kp : Initiator) = true)
    ∧ ((wCe 0).ce.length = 8))
    ∧ ((((wCe 0).put (CE_STATUS_STATE 2) 3).Reaches (Initiator.kp : Initiator) (CE_CTRL (2 : Fin 8).val).addr)
    ∧ (notCe (Initiator.kp : Initiator) = true)
    ∧ (((wCe 0).put (CE_STATUS_STATE 2) 3).ce.length = 8))
    ∧ (((((wCe 0).put (CE_STATUS_STATE 2) 3).setCe 2 { wCore with pc := 8, sets := List.replicate 4 ⟨0, true, 0⟩ }).Reaches (Initiator.kp : Initiator) (CE_CTRL (2 : Fin 8).val).addr)
    ∧ (notCe (Initiator.kp : Initiator) = true)
    ∧ ((((wCe 0).put (CE_STATUS_STATE 2) 3).setCe 2 { wCore with pc := 8, sets := List.replicate 4 ⟨0, true, 0⟩ }).ce.length = 8)
    ∧ (((((wCe 0).put (CE_STATUS_STATE 2) 3).setCe 2 { wCore with pc := 8, sets := List.replicate 4 ⟨0, true, 0⟩ }).get (CE_STATUS_STATE (2 : Fin 8).val) = 0 ∨ (((wCe 0).put (CE_STATUS_STATE 2) 3).setCe 2 { wCore with pc := 8, sets := List.replicate 4 ⟨0, true, 0⟩ }).get (CE_STATUS_STATE (2 : Fin 8).val) = 3)))
    ∧ (((wCe 0).Reaches (Initiator.kp : Initiator) (CE_CTRL (2 : Fin 8).val).addr)
    ∧ (notCe (Initiator.kp : Initiator) = true)
    ∧ ((wCe 0).ce.length = 8)
    ∧ ((wCe 0).get (CE_STATUS_STATE (2 : Fin 8).val) = 1 ∨ (wCe 0).get (CE_STATUS_STATE (2 : Fin 8).val) = 2))
    ∧ ((wOn.Reaches (.ce (2 : Fin 8)) (CE_CTRL (2 : Fin 8).val).addr))
    ∧ ((wOn.Reaches (.ce (2 : Fin 8)) (CE_CTRL (2 : Fin 8).val).addr)) := by
  and_intros <;> decide +kernel

theorem witness_control_engines_halt_run_restart_and_wake_part2 :
    ((wOn.Reaches (.ce (2 : Fin 8)) (CE_CTRL (2 : Fin 8).val).addr))
    ∧ ((wOn.Reaches (.ce (2 : Fin 8)) (CE_DOORBELL (2 : Fin 8).val).addr))
    ∧ (((((wCe 0).put (CE_TSCFG_EN 2 1) 1).put (CE_TSCFG_TYPE 2 1) 2).Reaches (Initiator.kp : Initiator) (CE_DOORBELL (2 : Fin 8).val).addr)
    ∧ (notCe (Initiator.kp : Initiator) = true)
    ∧ ((((wCe 0).put (CE_TSCFG_EN 2 1) 1).put (CE_TSCFG_TYPE 2 1) 2).ce.length = 8)
    ∧ (((((wCe 0).put (CE_TSCFG_EN 2 1) 1).put (CE_TSCFG_TYPE 2 1) 2).ceOf (2 : Fin 8).val).sets.length = 4)
    ∧ ((((wCe 0).put (CE_TSCFG_EN 2 1) 1).put (CE_TSCFG_TYPE 2 1) 2).get (CE_STATUS_STATE (2 : Fin 8).val) ≠ 1))
    ∧ (((((((wCe 0).put (CE_STATUS_STATE 2) 1).put (CE_TSCFG_EN 2 1) 1).put (CE_TSCFG_TYPE 2 1) 2).setCe 2 { wCore with waitMask := 15 }).Reaches (Initiator.kp : Initiator) (CE_DOORBELL (2 : Fin 8).val).addr)
    ∧ (notCe (Initiator.kp : Initiator) = true)
    ∧ ((((((wCe 0).put (CE_STATUS_STATE 2) 1).put (CE_TSCFG_EN 2 1) 1).put (CE_TSCFG_TYPE 2 1) 2).setCe 2 { wCore with waitMask := 15 }).ce.length = 8)
    ∧ ((((((wCe 0).put (CE_STATUS_STATE 2) 1).put (CE_TSCFG_EN 2 1) 1).put (CE_TSCFG_TYPE 2 1) 2).setCe 2 { wCore with waitMask := 15 }).get (CE_STATUS_STATE (2 : Fin 8).val) = 1)
    ∧ (((((((wCe 0).put (CE_STATUS_STATE 2) 1).put (CE_TSCFG_EN 2 1) 1).put (CE_TSCFG_TYPE 2 1) 2).setCe 2 { wCore with waitMask := 15 }).ceOf (2 : Fin 8).val).woken = none)
    ∧ (((2 : Word).getLsbD (1 : Fin 4).val && (((((wCe 0).put (CE_STATUS_STATE 2) 1).put (CE_TSCFG_EN 2 1) 1).put (CE_TSCFG_TYPE 2 1) 2).setCe 2 { wCore with waitMask := 15 }).is (CE_TSCFG_EN (2 : Fin 8).val (1 : Fin 4).val) && (((((wCe 0).put (CE_STATUS_STATE 2) 1).put (CE_TSCFG_EN 2 1) 1).put (CE_TSCFG_TYPE 2 1) 2).setCe 2 { wCore with waitMask := 15 }).get (CE_TSCFG_TYPE (2 : Fin 8).val (1 : Fin 4).val) == 2) = true)
    ∧ (bitOf (1 : Fin 4).val ((((((wCe 0).put (CE_STATUS_STATE 2) 1).put (CE_TSCFG_EN 2 1) 1).put (CE_TSCFG_TYPE 2 1) 2).setCe 2 { wCore with waitMask := 15 }).ceOf (2 : Fin 8).val).waitMask = true)
    ∧ (∀ j : Fin 4, j < (1 : Fin 4) → ((2 : Word).getLsbD j.val && (((((wCe 0).put (CE_STATUS_STATE 2) 1).put (CE_TSCFG_EN 2 1) 1).put (CE_TSCFG_TYPE 2 1) 2).setCe 2 { wCore with waitMask := 15 }).is (CE_TSCFG_EN (2 : Fin 8).val j.val) && (((((wCe 0).put (CE_STATUS_STATE 2) 1).put (CE_TSCFG_EN 2 1) 1).put (CE_TSCFG_TYPE 2 1) 2).setCe 2 { wCore with waitMask := 15 }).get (CE_TSCFG_TYPE (2 : Fin 8).val j.val) == 2) = false))
    ∧ ((((wCe 0).setCe 2 { wCore with sets := List.replicate 4 ⟨5, true, 0⟩ }).Reaches (Initiator.kp : Initiator) (CE_TSCFG (2 : Fin 8).val (1 : Fin 4).val).addr)
    ∧ (notCe (Initiator.kp : Initiator) = true)
    ∧ (((wCe 0).setCe 2 { wCore with sets := List.replicate 4 ⟨5, true, 0⟩ }).ce.length = 8))
    ∧ ((((wCe 0).setCe 2 { wCore with sets := List.replicate 4 ⟨5, true, 0⟩ }).Reaches (Initiator.kp : Initiator) (if (true : Bool) then CE_TSMSKHI (2 : Fin 8).val (1 : Fin 4).val else CE_TSMSKLO (2 : Fin 8).val (1 : Fin 4).val).addr)
    ∧ (notCe (Initiator.kp : Initiator) = true)
    ∧ (((wCe 0).setCe 2 { wCore with sets := List.replicate 4 ⟨5, true, 0⟩ }).ce.length = 8)) := by
  and_intros <;> decide +kernel

theorem witness_control_engines_halt_run_restart_and_wake_part3 :
    (((0x40500400 : Word).toNat < ceBase (2 : Fin 8).val + 8 ∨ ceBase (2 : Fin 8).val + 0x38 ≤ (0x40500400 : Word).toNat ∨ (0x40500400 : Word).toNat % 4 ≠ 0 ∨ (wOn.Reaches (Initiator.kp : Initiator) (0x40500400 : Word).toNat ∧ notCe (Initiator.kp : Initiator) = false)))
    ∧ (((((wCe 0).put (CE_STATUS_STATE 2) 1).setCe 2 { wCore with woken := some 1, waitRd := 3, wakeAt := 3000 }).ce.length = 8)
    ∧ (((((wCe 0).put (CE_STATUS_STATE 2) 1).setCe 2 { wCore with woken := some 1, waitRd := 3, wakeAt := 3000 }).ceOf (2 : Fin 8).val).woken = some (1 : Fin 4).val)
    ∧ ((((wCe 0).put (CE_STATUS_STATE 2) 1).setCe 2 { wCore with woken := some 1, waitRd := 3, wakeAt := 3000 }).ticking = true)
    ∧ ((((wCe 0).put (CE_STATUS_STATE 2) 1).setCe 2 { wCore with woken := some 1, waitRd := 3, wakeAt := 3000 }).get (CE_STATUS_STATE (2 : Fin 8).val) = 1)
    ∧ (((((wCe 0).put (CE_STATUS_STATE 2) 1).setCe 2 { wCore with woken := some 1, waitRd := 3, wakeAt := 3000 }).ceOf (2 : Fin 8).val).wakeAt ≤ (((wCe 0).put (CE_STATUS_STATE 2) 1).setCe 2 { wCore with woken := some 1, waitRd := 3, wakeAt := 3000 }).cyc))
    ∧ ((wOn.ticking = false ∨ wOn.get (CE_STATUS_STATE (2 : Fin 8).val) ≠ 1 ∨ (wOn.ceOf (2 : Fin 8).val).woken = none ∨ wOn.cyc < (wOn.ceOf (2 : Fin 8).val).wakeAt))
    ∧ (((((((wCe 0).put (CE_DLSTAT_OPEN 2) 1).wr (PWM_PRD_EFF 3) 100).put (PWM_CTRL_RUN 3) 1).setPwm 3 { PwmMod.idle with zero := 3910 } |>.setCe 2 { wCore with dl := 0xC000300A }).ce.length = 8)
    ∧ ((((((wCe 0).put (CE_DLSTAT_OPEN 2) 1).wr (PWM_PRD_EFF 3) 100).put (PWM_CTRL_RUN 3) 1).setPwm 3 { PwmMod.idle with zero := 3910 } |>.setCe 2 { wCore with dl := 0xC000300A }).ticking = true)
    ∧ ((((((wCe 0).put (CE_DLSTAT_OPEN 2) 1).wr (PWM_PRD_EFF 3) 100).put (PWM_CTRL_RUN 3) 1).setPwm 3 { PwmMod.idle with zero := 3910 } |>.setCe 2 { wCore with dl := 0xC000300A }).is (CE_DLSTAT_OPEN (2 : Fin 8).val) = true)
    ∧ (((((((wCe 0).put (CE_DLSTAT_OPEN 2) 1).wr (PWM_PRD_EFF 3) 100).put (PWM_CTRL_RUN 3) 1).setPwm 3 { PwmMod.idle with zero := 3910 } |>.setCe 2 { wCore with dl := 0xC000300A }).ceOf (2 : Fin 8).val).missed = false)
    ∧ (((((((wCe 0).put (CE_DLSTAT_OPEN 2) 1).wr (PWM_PRD_EFF 3) 100).put (PWM_CTRL_RUN 3) 1).setPwm 3 { PwmMod.idle with zero := 3910 } |>.setCe 2 { wCore with dl := 0xC000300A }).ceOf (2 : Fin 8).val).wakeCyc < (((((wCe 0).put (CE_DLSTAT_OPEN 2) 1).wr (PWM_PRD_EFF 3) 100).put (PWM_CTRL_RUN 3) 1).setPwm 3 { PwmMod.idle with zero := 3910 } |>.setCe 2 { wCore with dl := 0xC000300A }).cyc)
    ∧ ((((((wCe 0).put (CE_DLSTAT_OPEN 2) 1).wr (PWM_PRD_EFF 3) 100).put (PWM_CTRL_RUN 3) 1).setPwm 3 { PwmMod.idle with zero := 3910 } |>.setCe 2 { wCore with dl := 0xC000300A }).deadlinePoint (2 : Fin 8).val = true)
    ∧ (bitsOf 27 24 ((((((wCe 0).put (CE_DLSTAT_OPEN 2) 1).wr (PWM_PRD_EFF 3) 100).put (PWM_CTRL_RUN 3) 1).setPwm 3 { PwmMod.idle with zero := 3910 } |>.setCe 2 { wCore with dl := 0xC000300A }).ceOf (2 : Fin 8).val).dl.toNat = 0 ∨ (((((wCe 0).put (CE_DLSTAT_OPEN 2) 1).wr (PWM_PRD_EFF 3) 100).put (PWM_CTRL_RUN 3) 1).setPwm 3 { PwmMod.idle with zero := 3910 } |>.setCe 2 { wCore with dl := 0xC000300A }).get (CE_DLSTAT_RUNMISS (2 : Fin 8).val) + 1 ≠ bitsOf 27 24 ((((((wCe 0).put (CE_DLSTAT_OPEN 2) 1).wr (PWM_PRD_EFF 3) 100).put (PWM_CTRL_RUN 3) 1).setPwm 3 { PwmMod.idle with zero := 3910 } |>.setCe 2 { wCore with dl := 0xC000300A }).ceOf (2 : Fin 8).val).dl.toNat))
    ∧ ((((((((wCe 0).put (CE_DLSTAT_OPEN 2) 1).wr (PWM_PRD_EFF 3) 100).put (PWM_CTRL_RUN 3) 1).wr (CEC_PWMOWN 0) 0x99999922).setPwm 3 { PwmMod.idle with zero := 3910 } |>.setCe 2 { wCore with dl := 0xC100300A }).ce.length = 8)
    ∧ (((((((wCe 0).put (CE_DLSTAT_OPEN 2) 1).wr (PWM_PRD_EFF 3) 100).put (PWM_CTRL_RUN 3) 1).wr (CEC_PWMOWN 0) 0x99999922).setPwm 3 { PwmMod.idle with zero := 3910 } |>.setCe 2 { wCore with dl := 0xC100300A }).pwm.length = 32)
    ∧ (((((((wCe 0).put (CE_DLSTAT_OPEN 2) 1).wr (PWM_PRD_EFF 3) 100).put (PWM_CTRL_RUN 3) 1).wr (CEC_PWMOWN 0) 0x99999922).setPwm 3 { PwmMod.idle with zero := 3910 } |>.setCe 2 { wCore with dl := 0xC100300A }).ticking = true)
    ∧ (((((((wCe 0).put (CE_DLSTAT_OPEN 2) 1).wr (PWM_PRD_EFF 3) 100).put (PWM_CTRL_RUN 3) 1).wr (CEC_PWMOWN 0) 0x99999922).setPwm 3 { PwmMod.idle with zero := 3910 } |>.setCe 2 { wCore with dl := 0xC100300A }).is (CE_DLSTAT_OPEN (2 : Fin 8).val) = true)
    ∧ ((((((((wCe 0).put (CE_DLSTAT_OPEN 2) 1).wr (PWM_PRD_EFF 3) 100).put (PWM_CTRL_RUN 3) 1).wr (CEC_PWMOWN 0) 0x99999922).setPwm 3 { PwmMod.idle with zero := 3910 } |>.setCe 2 { wCore with dl := 0xC100300A }).ceOf (2 : Fin 8).val).missed = false)
    ∧ ((((((((wCe 0).put (CE_DLSTAT_OPEN 2) 1).wr (PWM_PRD_EFF 3) 100).put (PWM_CTRL_RUN 3) 1).wr (CEC_PWMOWN 0) 0x99999922).setPwm 3 { PwmMod.idle with zero := 3910 } |>.setCe 2 { wCore with dl := 0xC100300A }).ceOf (2 : Fin 8).val).wakeCyc < ((((((wCe 0).put (CE_DLSTAT_OPEN 2) 1).wr (PWM_PRD_EFF 3) 100).put (PWM_CTRL_RUN 3) 1).wr (CEC_PWMOWN 0) 0x99999922).setPwm 3 { PwmMod.idle with zero := 3910 } |>.setCe 2 { wCore with dl := 0xC100300A }).cyc)
    ∧ (((((((wCe 0).put (CE_DLSTAT_OPEN 2) 1).wr (PWM_PRD_EFF 3) 100).put (PWM_CTRL_RUN 3) 1).wr (CEC_PWMOWN 0) 0x99999922).setPwm 3 { PwmMod.idle with zero := 3910 } |>.setCe 2 { wCore with dl := 0xC100300A }).deadlinePoint (2 : Fin 8).val = true)
    ∧ (bitsOf 27 24 (((((((wCe 0).put (CE_DLSTAT_OPEN 2) 1).wr (PWM_PRD_EFF 3) 100).put (PWM_CTRL_RUN 3) 1).wr (CEC_PWMOWN 0) 0x99999922).setPwm 3 { PwmMod.idle with zero := 3910 } |>.setCe 2 { wCore with dl := 0xC100300A }).ceOf (2 : Fin 8).val).dl.toNat ≠ 0)
    ∧ (((((((wCe 0).put (CE_DLSTAT_OPEN 2) 1).wr (PWM_PRD_EFF 3) 100).put (PWM_CTRL_RUN 3) 1).wr (CEC_PWMOWN 0) 0x99999922).setPwm 3 { PwmMod.idle with zero := 3910 } |>.setCe 2 { wCore with dl := 0xC100300A }).get (CE_DLSTAT_RUNMISS (2 : Fin 8).val) + 1 = bitsOf 27 24 (((((((wCe 0).put (CE_DLSTAT_OPEN 2) 1).wr (PWM_PRD_EFF 3) 100).put (PWM_CTRL_RUN 3) 1).wr (CEC_PWMOWN 0) 0x99999922).setPwm 3 { PwmMod.idle with zero := 3910 } |>.setCe 2 { wCore with dl := 0xC100300A }).ceOf (2 : Fin 8).val).dl.toNat))
    ∧ ((wOn.ticking = false ∨ wOn.is (CE_DLSTAT_OPEN (2 : Fin 8).val) = false ∨ (wOn.ceOf (2 : Fin 8).val).missed = true ∨ wOn.cyc ≤ (wOn.ceOf (2 : Fin 8).val).wakeCyc ∨ wOn.deadlinePoint (2 : Fin 8).val = false)) := by
  and_intros <;> decide +kernel

theorem witness_control_engines_halt_run_restart_and_wake_part4 :
    ((((wOn.put (CE_DLSTAT_ESC 2) 1).setClk { wOn.clk with was := [((CE_DLSTAT 2).addr, 4)] }).Reaches (.sc 1 0 : Initiator) (CE_DLSTAT (2 : Fin 8).val).addr)) := by
  and_intros <;> decide +kernel

theorem witness_position_edges_are_filtered_decoded_and_counted :
    (((wPos.wr (POS_CNT 3) 0xFFFFFFFF).pos.ch.length = 8)
    ∧ ((wPos.wr (POS_CNT 3) 0xFFFFFFFF).ticking = true)
    ∧ ((wPos.wr (POS_CNT 3) 0xFFFFFFFF).is (POS_CFG_EN (3 : Fin 8).val) = true)
    ∧ ((1 : BitVec 3).toNat ≠ ((wPos.wr (POS_CNT 3) 0xFFFFFFFF).posCh (3 : Fin 8).val).sync)
    ∧ ((1 : BitVec 3).toNat ≠ ((wPos.wr (POS_CNT 3) 0xFFFFFFFF).posCh (3 : Fin 8).val).acc)
    ∧ (∀ u ∈ ((wPos.wr (POS_CNT 3) 0xFFFFFFFF).posCh (3 : Fin 8).val).la, u + (max 4 (min 4000 ((wPos.wr (POS_CNT 3) 0xFFFFFFFF).get (POS_CFG_TMIN (3 : Fin 8).val)))) ≤ (wPos.wr (POS_CNT 3) 0xFFFFFFFF).cyc)
    ∧ ((wPos.wr (POS_CNT 3) 0xFFFFFFFF).get (POS_CFG_SRC (3 : Fin 8).val) = 0)
    ∧ ((wPos.wr (POS_CNT 3) 0xFFFFFFFF).is (POS_CFG_CNTMODE (3 : Fin 8).val) = false)
    ∧ ((wPos.wr (POS_CNT 3) 0xFFFFFFFF).is (POS_CFG_LIMEN (3 : Fin 8).val) = false)
    ∧ ((wPos.wr (POS_CNT 3) 0xFFFFFFFF).is (POS_CFG_DIRINV (3 : Fin 8).val) = false)
    ∧ ((wPos.wr (POS_CNT 3) 0xFFFFFFFF).is (POS_CFG_ZEN (3 : Fin 8).val) = false ∨ (1 : BitVec 3).toNat.testBit 2 = false ∨ ((wPos.wr (POS_CNT 3) 0xFFFFFFFF).posCh (3 : Fin 8).val).acc.testBit 2 = true)
    ∧ (quadIdx (1 : BitVec 3).toNat = (quadIdx ((wPos.wr (POS_CNT 3) 0xFFFFFFFF).posCh (3 : Fin 8).val).acc + 1) % 4))
    ∧ ((wPos.pos.ch.length = 8)
    ∧ (wPos.ticking = true)
    ∧ (wPos.is (POS_CFG_EN (3 : Fin 8).val) = true)
    ∧ ((2 : BitVec 3).toNat ≠ (wPos.posCh (3 : Fin 8).val).sync)
    ∧ ((2 : BitVec 3).toNat ≠ (wPos.posCh (3 : Fin 8).val).acc)
    ∧ (∀ u ∈ (wPos.posCh (3 : Fin 8).val).la, u + (max 4 (min 4000 (wPos.get (POS_CFG_TMIN (3 : Fin 8).val)))) ≤ wPos.cyc)
    ∧ (wPos.get (POS_CFG_SRC (3 : Fin 8).val) = 0)
    ∧ (wPos.is (POS_CFG_CNTMODE (3 : Fin 8).val) = false)
    ∧ (wPos.is (POS_CFG_LIMEN (3 : Fin 8).val) = false)
    ∧ (wPos.is (POS_CFG_DIRINV (3 : Fin 8).val) = false)
    ∧ (wPos.is (POS_CFG_ZEN (3 : Fin 8).val) = false ∨ (2 : BitVec 3).toNat.testBit 2 = false ∨ (wPos.posCh (3 : Fin 8).val).acc.testBit 2 = true)
    ∧ (quadIdx (wPos.posCh (3 : Fin 8).val).acc = (quadIdx (2 : BitVec 3).toNat + 1) % 4))
    ∧ ((((wPos.put (POS_CFG_SRC 3) 1).setPos 3 { PosCh.idle with acc := 3 }).pos.ch.length = 8)
    ∧ (((wPos.put (POS_CFG_SRC 3) 1).setPos 3 { PosCh.idle with acc := 3 }).ticking = true)
    ∧ (((wPos.put (POS_CFG_SRC 3) 1).setPos 3 { PosCh.idle with acc := 3 }).is (POS_CFG_EN (3 : Fin 8).val) = true)
    ∧ ((2 : BitVec 3).toNat ≠ (((wPos.put (POS_CFG_SRC 3) 1).setPos 3 { PosCh.idle with acc := 3 }).posCh (3 : Fin 8).val).sync)
    ∧ ((2 : BitVec 3).toNat ≠ (((wPos.put (POS_CFG_SRC 3) 1).setPos 3 { PosCh.idle with acc := 3 }).posCh (3 : Fin 8).val).acc)
    ∧ (∀ u ∈ (((wPos.put (POS_CFG_SRC 3) 1).setPos 3 { PosCh.idle with acc := 3 }).posCh (3 : Fin 8).val).la, u + (max 4 (min 4000 (((wPos.put (POS_CFG_SRC 3) 1).setPos 3 { PosCh.idle with acc := 3 }).get (POS_CFG_TMIN (3 : Fin 8).val)))) ≤ ((wPos.put (POS_CFG_SRC 3) 1).setPos 3 { PosCh.idle with acc := 3 }).cyc)
    ∧ (((wPos.put (POS_CFG_SRC 3) 1).setPos 3 { PosCh.idle with acc := 3 }).get (POS_CFG_SRC (3 : Fin 8).val) < 2)
    ∧ (posStep (((wPos.put (POS_CFG_SRC 3) 1).setPos 3 { PosCh.idle with acc := 3 }).get (POS_CFG_SRC (3 : Fin 8).val) == 1) (((wPos.put (POS_CFG_SRC 3) 1).setPos 3 { PosCh.idle with acc := 3 }).posCh (3 : Fin 8).val).acc (2 : BitVec 3).toNat = some (1 : Int))
    ∧ ((1 : Int) ≠ 0))
    ∧ ((wPos.pos.ch.length = 8)
    ∧ (wPos.ticking = true)
    ∧ (wPos.is (POS_CFG_EN (3 : Fin 8).val) = true)
    ∧ ((3 : BitVec 3).toNat ≠ (wPos.posCh (3 : Fin 8).val).sync)
    ∧ ((3 : BitVec 3).toNat ≠ (wPos.posCh (3 : Fin 8).val).acc)
    ∧ (∀ u ∈ (wPos.posCh (3 : Fin 8).val).la, u + (max 4 (min 4000 (wPos.get (POS_CFG_TMIN (3 : Fin 8).val)))) ≤ wPos.cyc)
    ∧ (wPos.get (POS_CFG_SRC (3 : Fin 8).val) < 2)
    ∧ (posStep (wPos.get (POS_CFG_SRC (3 : Fin 8).val) == 1) (wPos.posCh (3 : Fin 8).val).acc (3 : BitVec 3).toNat = some 0)
    ∧ (¬(wPos.get (POS_CFG_SRC (3 : Fin 8).val) = 0 ∧ wPos.is (POS_CFG_ZEN (3 : Fin 8).val) = true ∧ (3 : BitVec 3).toNat.testBit 2 = true ∧ (wPos.posCh (3 : Fin 8).val).acc.testBit 2 = false ∧ wPos.is (POS_CFG_ZRST (3 : Fin 8).val) = true)))
    ∧ ((((wPos.put (POS_CFG_ZEN 3) 1).put (POS_CFG_ZRST 3) 1).pos.ch.length = 8)
    ∧ (((wPos.put (POS_CFG_ZEN 3) 1).put (POS_CFG_ZRST 3) 1).ticking = true)
    ∧ (((wPos.put (POS_CFG_ZEN 3) 1).put (POS_CFG_ZRST 3) 1).is (POS_CFG_EN (3 : Fin 8).val) = true)
    ∧ ((4 : BitVec 3).toNat ≠ (((wPos.put (POS_CFG_ZEN 3) 1).put (POS_CFG_ZRST 3) 1).posCh (3 : Fin 8).val).sync)
    ∧ ((4 : BitVec 3).toNat ≠ (((wPos.put (POS_CFG_ZEN 3) 1).put (POS_CFG_ZRST 3) 1).posCh (3 : Fin 8).val).acc)
    ∧ (∀ u ∈ (((wPos.put (POS_CFG_ZEN 3) 1).put (POS_CFG_ZRST 3) 1).posCh (3 : Fin 8).val).la, u + (max 4 (min 4000 (((wPos.put (POS_CFG_ZEN 3) 1).put (POS_CFG_ZRST 3) 1).get (POS_CFG_TMIN (3 : Fin 8).val)))) ≤ ((wPos.put (POS_CFG_ZEN 3) 1).put (POS_CFG_ZRST 3) 1).cyc)
    ∧ (((wPos.put (POS_CFG_ZEN 3) 1).put (POS_CFG_ZRST 3) 1).get (POS_CFG_SRC (3 : Fin 8).val) < 2)
    ∧ (posStep (((wPos.put (POS_CFG_ZEN 3) 1).put (POS_CFG_ZRST 3) 1).get (POS_CFG_SRC (3 : Fin 8).val) == 1) (((wPos.put (POS_CFG_ZEN 3) 1).put (POS_CFG_ZRST 3) 1).posCh (3 : Fin 8).val).acc (4 : BitVec 3).toNat = none))
    ∧ (((wPos.setPos 3 { PosCh.idle with la := some 3999 }).pos.ch.length = 8)
    ∧ ((wPos.setPos 3 { PosCh.idle with la := some 3999 }).ticking = true)
    ∧ ((wPos.setPos 3 { PosCh.idle with la := some 3999 }).is (POS_CFG_EN (3 : Fin 8).val) = true)
    ∧ ((3 : BitVec 3).toNat ≠ ((wPos.setPos 3 { PosCh.idle with la := some 3999 }).posCh (3 : Fin 8).val).sync)
    ∧ (((wPos.setPos 3 { PosCh.idle with la := some 3999 }).posCh (3 : Fin 8).val).la = some (3999 : Nat))
    ∧ ((wPos.setPos 3 { PosCh.idle with la := some 3999 }).cyc < (3999 : Nat) + (max 4 (min 4000 ((wPos.setPos 3 { PosCh.idle with la := some 3999 }).get (POS_CFG_TMIN (3 : Fin 8).val)))))) := by
  and_intros <;> decide +kernel

theorem witness_position_edges_are_filtered_decoded_and_counted_part2 :
    ((wOn.pos.ch.length = 8)
    ∧ ((3 : BitVec 3).toNat ≠ (wOn.posCh (3 : Fin 8).val).sync)
    ∧ (wOn.ticking = false ∨ wOn.is (POS_CFG_EN (3 : Fin 8).val) = false ∨ ((3 : BitVec 3).toNat = (wOn.posCh (3 : Fin 8).val).acc ∧ ∀ u ∈ (wOn.posCh (3 : Fin 8).val).la, u + (max 4 (min 4000 (wOn.get (POS_CFG_TMIN (3 : Fin 8).val)))) ≤ wOn.cyc)))
    ∧ (((wPos.put (POS_CFG_SRC 3) 4).pos.ch.length = 8)
    ∧ ((wPos.put (POS_CFG_SRC 3) 4).ticking = true)
    ∧ ((wPos.put (POS_CFG_SRC 3) 4).is (POS_CFG_EN (3 : Fin 8).val) = true)
    ∧ ((3 : BitVec 3).toNat ≠ ((wPos.put (POS_CFG_SRC 3) 4).posCh (3 : Fin 8).val).sync)
    ∧ ((3 : BitVec 3).toNat ≠ ((wPos.put (POS_CFG_SRC 3) 4).posCh (3 : Fin 8).val).acc)
    ∧ (∀ u ∈ ((wPos.put (POS_CFG_SRC 3) 4).posCh (3 : Fin 8).val).la, u + (max 4 (min 4000 ((wPos.put (POS_CFG_SRC 3) 4).get (POS_CFG_TMIN (3 : Fin 8).val)))) ≤ (wPos.put (POS_CFG_SRC 3) 4).cyc)
    ∧ (2 ≤ (wPos.put (POS_CFG_SRC 3) 4).get (POS_CFG_SRC (3 : Fin 8).val)))
    ∧ (((0 : BitVec 3).toNat = (wOn.posCh (3 : Fin 8).val).sync))
    ∧ ((({ wPos.setPos 3 { PosCh.idle with la := some 3990, sync := 1 } with cyc := 3994 }).pos.ch.length = 8)
    ∧ ((({ wPos.setPos 3 { PosCh.idle with la := some 3990, sync := 1 } with cyc := 3994 }).posCh (3 : Fin 8).val).la = some (3990 : Nat))
    ∧ (({ wPos.setPos 3 { PosCh.idle with la := some 3990, sync := 1 } with cyc := 3994 }).ticking = true)
    ∧ (({ wPos.setPos 3 { PosCh.idle with la := some 3990, sync := 1 } with cyc := 3994 }).is (POS_CFG_EN (3 : Fin 8).val) = true)
    ∧ (({ wPos.setPos 3 { PosCh.idle with la := some 3990, sync := 1 } with cyc := 3994 }).cyc = (3990 : Nat) + (max 4 (min 4000 (({ wPos.setPos 3 { PosCh.idle with la := some 3990, sync := 1 } with cyc := 3994 }).get (POS_CFG_TMIN (3 : Fin 8).val)))))
    ∧ ((({ wPos.setPos 3 { PosCh.idle with la := some 3990, sync := 1 } with cyc := 3994 }).posCh (3 : Fin 8).val).sync ≠ (({ wPos.setPos 3 { PosCh.idle with la := some 3990, sync := 1 } with cyc := 3994 }).posCh (3 : Fin 8).val).acc)
    ∧ (({ wPos.setPos 3 { PosCh.idle with la := some 3990, sync := 1 } with cyc := 3994 }).get (POS_CFG_SRC (3 : Fin 8).val) < 2)
    ∧ (posStep (({ wPos.setPos 3 { PosCh.idle with la := some 3990, sync := 1 } with cyc := 3994 }).get (POS_CFG_SRC (3 : Fin 8).val) == 1) (({ wPos.setPos 3 { PosCh.idle with la := some 3990, sync := 1 } with cyc := 3994 }).posCh (3 : Fin 8).val).acc (({ wPos.setPos 3 { PosCh.idle with la := some 3990, sync := 1 } with cyc := 3994 }).posCh (3 : Fin 8).val).sync = some (1 : Int))
    ∧ ((1 : Int) ≠ 0)
    ∧ (({ wPos.setPos 3 { PosCh.idle with la := some 3990, sync := 1 } with cyc := 3994 }).is (POS_CFG_ZEN (3 : Fin 8).val) = false))
    ∧ ((({ wPos.setPos 3 { PosCh.idle with la := some 3990, sync := 1 } with cyc := 3994 }).pos.ch.length = 8)
    ∧ ((({ wPos.setPos 3 { PosCh.idle with la := some 3990, sync := 1 } with cyc := 3994 }).posCh (3 : Fin 8).val).la = some (3990 : Nat))
    ∧ (({ wPos.setPos 3 { PosCh.idle with la := some 3990, sync := 1 } with cyc := 3994 }).ticking = true)
    ∧ (({ wPos.setPos 3 { PosCh.idle with la := some 3990, sync := 1 } with cyc := 3994 }).is (POS_CFG_EN (3 : Fin 8).val) = true)
    ∧ (({ wPos.setPos 3 { PosCh.idle with la := some 3990, sync := 1 } with cyc := 3994 }).cyc = (3990 : Nat) + (max 4 (min 4000 (({ wPos.setPos 3 { PosCh.idle with la := some 3990, sync := 1 } with cyc := 3994 }).get (POS_CFG_TMIN (3 : Fin 8).val)))))
    ∧ ((({ wPos.setPos 3 { PosCh.idle with la := some 3990, sync := 1 } with cyc := 3994 }).posCh (3 : Fin 8).val).sync ≠ (({ wPos.setPos 3 { PosCh.idle with la := some 3990, sync := 1 } with cyc := 3994 }).posCh (3 : Fin 8).val).acc))
    ∧ ((wOn.ticking = false ∨ wOn.is (POS_CFG_EN (3 : Fin 8).val) = false ∨ (wOn.posCh (3 : Fin 8).val).sync = (wOn.posCh (3 : Fin 8).val).acc ∨ (∀ u ∈ (wOn.posCh (3 : Fin 8).val).la, wOn.cyc ≠ u + (max 4 (min 4000 (wOn.get (POS_CFG_TMIN (3 : Fin 8).val))))))) := by
  and_intros <;> decide +kernel

theorem witness_position_edges_are_filtered_decoded_and_counted_part3 :
    (((wPos.setPos 3 { PosCh.idle with pulse := some 7 }).pos.ch.length = 8)
    ∧ (((wPos.setPos 3 { PosCh.idle with pulse := some 7 }).posCh (3 : Fin 8).val).pulse = some (7 : Nat))
    ∧ ((wPos.setPos 3 { PosCh.idle with pulse := some 7 }).ticking = true)
    ∧ ((7 : Nat) ≤ (wPos.setPos 3 { PosCh.idle with pulse := some 7 }).cyc))
    ∧ ((wOn.ticking = false ∨ ∀ u ∈ (wOn.posCh (3 : Fin 8).val).pulse, wOn.cyc < u))
    ∧ ((({ wPos.setPos 3 { PosCh.idle with stAt := some 7 } with cyc := 10 ^ 9 }).pos.ch.length = 8)
    ∧ ((({ wPos.setPos 3 { PosCh.idle with stAt := some 7 } with cyc := 10 ^ 9 }).posCh (3 : Fin 8).val).stAt = some (7 : Nat))
    ∧ (({ wPos.setPos 3 { PosCh.idle with stAt := some 7 } with cyc := 10 ^ 9 }).ticking = true)
    ∧ ((7 : Nat) + 4000 * max 1 (({ wPos.setPos 3 { PosCh.idle with stAt := some 7 } with cyc := 10 ^ 9 }).get (POS_TMO_STTMO (3 : Fin 8).val)) ≤ ({ wPos.setPos 3 { PosCh.idle with stAt := some 7 } with cyc := 10 ^ 9 }).cyc))
    ∧ ((wOn.ticking = false ∨ ∀ u ∈ (wOn.posCh (3 : Fin 8).val).stAt, wOn.cyc < u + 4000 * max 1 (wOn.get (POS_TMO_STTMO (3 : Fin 8).val)))) := by
  and_intros <;> decide +kernel

theorem witness_position_writes_frames_and_resolver :
    ((wOn.Reaches (Initiator.kp : Initiator) (POS_CNT (3 : Fin 8).val).addr)
    ∧ (∀ x ∈ (wOn.posCh (3 : Fin 8).val).step, x.1 ≠ wOn.cyc))
    ∧ (((wPos.setPos 3 { PosCh.idle with step := some (4000, 1) }).pos.ch.length = 8)
    ∧ ((wPos.setPos 3 { PosCh.idle with step := some (4000, 1) }).Reaches (Initiator.kp : Initiator) (POS_CNT (3 : Fin 8).val).addr)
    ∧ (((wPos.setPos 3 { PosCh.idle with step := some (4000, 1) }).posCh (3 : Fin 8).val).step = some ((wPos.setPos 3 { PosCh.idle with step := some (4000, 1) }).cyc, (1 : Int))))
    ∧ (((wOn.wr (POS_STATUS 3) 0x30000200).Reaches (Initiator.kp : Initiator) (POS_CMPCTRL (3 : Fin 8).val).addr)
    ∧ ((1 : Word).getLsbD 0 = true))
    ∧ ((wOn.Reaches (Initiator.kp : Initiator) (POS_CMPCTRL (3 : Fin 8).val).addr)
    ∧ ((2 : Word).getLsbD 0 = false))
    ∧ ((((wPos.put (SENT_CFG_EN 1) 1).put (POS_CFG_SRC 3) 3).ticking = true)
    ∧ (((wPos.put (SENT_CFG_EN 1) 1).put (POS_CFG_SRC 3) 3).is (SENT_CFG_EN (1 : Fin 4).val) = true)
    ∧ (((wPos.put (SENT_CFG_EN 1) 1).put (POS_CFG_SRC 3) 3).pos.cal.length = 4))
    ∧ ((((wPos.put (SENT_CFG_EN 1) 1).put (POS_CFG_SRC 3) 3).ticking = true)
    ∧ (((wPos.put (SENT_CFG_EN 1) 1).put (POS_CFG_SRC 3) 3).is (SENT_CFG_EN (1 : Fin 4).val) = true)
    ∧ (((wPos.put (SENT_CFG_EN 1) 1).put (POS_CFG_SRC 3) 3).pos.cal.length = 4)
    ∧ (¬(4 * (9000 : Nat) ≤ 5 * (2240 * max 30 (min 900 (((wPos.put (SENT_CFG_EN 1) 1).put (POS_CFG_SRC 3) 3).get (SENT_CFG_TICK (1 : Fin 4).val)))) ∧ 3 * (2240 * max 30 (min 900 (((wPos.put (SENT_CFG_EN 1) 1).put (POS_CFG_SRC 3) 3).get (SENT_CFG_TICK (1 : Fin 4).val)))) ≤ 4 * (9000 : Nat) ∧ (((wPos.put (SENT_CFG_EN 1) 1).put (POS_CFG_SRC 3) 3).is (SENT_CFG_SUCCHK (1 : Fin 4).val) = true → ∀ p ∈ nth ((wPos.put (SENT_CFG_EN 1) 1).put (POS_CFG_SRC 3) 3).pos.cal (1 : Fin 4).val none, 64 * (((9000 : Nat) : Int) - p).natAbs ≤ p) ∧ ([1, 2, 3, 4, 5, 6] : List (BitVec 4)).length = (if ((wPos.put (SENT_CFG_EN 1) 1).put (POS_CFG_SRC 3) 3).get (SENT_CFG_NIB (1 : Fin 4).val) = 0 ∨ ((wPos.put (SENT_CFG_EN 1) 1).put (POS_CFG_SRC 3) 3).get (SENT_CFG_NIB (1 : Fin 4).val) = 7 then 6 else ((wPos.put (SENT_CFG_EN 1) 1).put (POS_CFG_SRC 3) 3).get (SENT_CFG_NIB (1 : Fin 4).val)) ∧ (((wPos.put (SENT_CFG_EN 1) 1).put (POS_CFG_SRC 3) 3).is (SENT_CFG_PAUSE (1 : Fin 4).val) = true ∨ (false : Bool) = false) ∧ sentCrc (((wPos.put (SENT_CFG_EN 1) 1).put (POS_CFG_SRC 3) 3).is (SENT_CFG_CRCLEG (1 : Fin 4).val)) (([1, 2, 3, 4, 5, 6] : List (BitVec 4)).map (fun x => x.toNat)) = (0 : BitVec 4).toNat))) := by
  and_intros <;> decide +kernel

theorem witness_position_writes_frames_and_resolver_part2 :
    (((((wPos.put (SENT_CFG_EN 1) 1).put (POS_CFG_SRC 3) 3).put (SENT_CFG_TICK 1) 30).ticking = true)
    ∧ ((((wPos.put (SENT_CFG_EN 1) 1).put (POS_CFG_SRC 3) 3).put (SENT_CFG_TICK 1) 30).is (SENT_CFG_EN (1 : Fin 4).val) = true)
    ∧ ((((wPos.put (SENT_CFG_EN 1) 1).put (POS_CFG_SRC 3) 3).put (SENT_CFG_TICK 1) 30).pos.cal.length = 4)
    ∧ ((((wPos.put (SENT_CFG_EN 1) 1).put (POS_CFG_SRC 3) 3).put (SENT_CFG_TICK 1) 30).pos.ch.length = 8)
    ∧ (4 * (67200 : Nat) ≤ 5 * (2240 * max 30 (min 900 ((((wPos.put (SENT_CFG_EN 1) 1).put (POS_CFG_SRC 3) 3).put (SENT_CFG_TICK 1) 30).get (SENT_CFG_TICK (1 : Fin 4).val)))) ∧ 3 * (2240 * max 30 (min 900 ((((wPos.put (SENT_CFG_EN 1) 1).put (POS_CFG_SRC 3) 3).put (SENT_CFG_TICK 1) 30).get (SENT_CFG_TICK (1 : Fin 4).val)))) ≤ 4 * (67200 : Nat) ∧ ((((wPos.put (SENT_CFG_EN 1) 1).put (POS_CFG_SRC 3) 3).put (SENT_CFG_TICK 1) 30).is (SENT_CFG_SUCCHK (1 : Fin 4).val) = true → ∀ p ∈ nth (((wPos.put (SENT_CFG_EN 1) 1).put (POS_CFG_SRC 3) 3).put (SENT_CFG_TICK 1) 30).pos.cal (1 : Fin 4).val none, 64 * (((67200 : Nat) : Int) - p).natAbs ≤ p) ∧ ([1, 2, 3, 4, 5, 6] : List (BitVec 4)).length = (if (((wPos.put (SENT_CFG_EN 1) 1).put (POS_CFG_SRC 3) 3).put (SENT_CFG_TICK 1) 30).get (SENT_CFG_NIB (1 : Fin 4).val) = 0 ∨ (((wPos.put (SENT_CFG_EN 1) 1).put (POS_CFG_SRC 3) 3).put (SENT_CFG_TICK 1) 30).get (SENT_CFG_NIB (1 : Fin 4).val) = 7 then 6 else (((wPos.put (SENT_CFG_EN 1) 1).put (POS_CFG_SRC 3) 3).put (SENT_CFG_TICK 1) 30).get (SENT_CFG_NIB (1 : Fin 4).val)) ∧ ((((wPos.put (SENT_CFG_EN 1) 1).put (POS_CFG_SRC 3) 3).put (SENT_CFG_TICK 1) 30).is (SENT_CFG_PAUSE (1 : Fin 4).val) = true ∨ (false : Bool) = false) ∧ sentCrc ((((wPos.put (SENT_CFG_EN 1) 1).put (POS_CFG_SRC 3) 3).put (SENT_CFG_TICK 1) 30).is (SENT_CFG_CRCLEG (1 : Fin 4).val)) (([1, 2, 3, 4, 5, 6] : List (BitVec 4)).map (fun x => x.toNat)) = (BitVec.ofNat 4 (sentCrc false [1, 2, 3, 4, 5, 6]) : BitVec 4).toNat))
    ∧ ((wOn.ticking = false ∨ wOn.is (SENT_CFG_EN (1 : Fin 4).val) = false))
    ∧ ((((wOn.put (SSI_CFG_EN 1) 1).put (SSI_CFG_TRIG 1) 5).pos.ssi.length = 2)
    ∧ (((wOn.put (SSI_CFG_EN 1) 1).put (SSI_CFG_TRIG 1) 5).ticking = true)
    ∧ (((wOn.put (SSI_CFG_EN 1) 1).put (SSI_CFG_TRIG 1) 5).is (SSI_CFG_EN (1 : Fin 2).val) = true)
    ∧ ((5 : Fin 256).val ≤ 0x87)
    ∧ (((wOn.put (SSI_CFG_EN 1) 1).put (SSI_CFG_TRIG 1) 5).get (SSI_CFG_TRIG (1 : Fin 2).val) = (5 : Fin 256).val)
    ∧ ((((wOn.put (SSI_CFG_EN 1) 1).put (SSI_CFG_TRIG 1) 5).ssiOf (1 : Fin 2).val).began = none)
    ∧ (¬(∃ u ∈ (((wOn.put (SSI_CFG_EN 1) 1).put (SSI_CFG_TRIG 1) 5).ssiOf (1 : Fin 2).val).ended.toList, ((wOn.put (SSI_CFG_EN 1) 1).put (SSI_CFG_TRIG 1) 5).cyc < u + 400 * ((wOn.put (SSI_CFG_EN 1) 1).put (SSI_CFG_TRIG 1) 5).get (SSI_CFG_MONO (1 : Fin 2).val))))
    ∧ (((((wOn.put (SSI_CFG_EN 1) 1).put (SSI_CFG_TRIG 1) 5).setSsi 1 ⟨some 5, none⟩).ticking = true)
    ∧ ((((wOn.put (SSI_CFG_EN 1) 1).put (SSI_CFG_TRIG 1) 5).setSsi 1 ⟨some 5, none⟩).is (SSI_CFG_EN (1 : Fin 2).val) = true)
    ∧ ((5 : Fin 256).val ≤ 0x87)
    ∧ ((((wOn.put (SSI_CFG_EN 1) 1).put (SSI_CFG_TRIG 1) 5).setSsi 1 ⟨some 5, none⟩).get (SSI_CFG_TRIG (1 : Fin 2).val) = (5 : Fin 256).val)
    ∧ (((((wOn.put (SSI_CFG_EN 1) 1).put (SSI_CFG_TRIG 1) 5).setSsi 1 ⟨some 5, none⟩).ssiOf (1 : Fin 2).val).began.isSome = true ∨ ∃ u ∈ ((((wOn.put (SSI_CFG_EN 1) 1).put (SSI_CFG_TRIG 1) 5).setSsi 1 ⟨some 5, none⟩).ssiOf (1 : Fin 2).val).ended.toList, (((wOn.put (SSI_CFG_EN 1) 1).put (SSI_CFG_TRIG 1) 5).setSsi 1 ⟨some 5, none⟩).cyc < u + 400 * (((wOn.put (SSI_CFG_EN 1) 1).put (SSI_CFG_TRIG 1) 5).setSsi 1 ⟨some 5, none⟩).get (SSI_CFG_MONO (1 : Fin 2).val)))
    ∧ ((wOn.ticking = false ∨ wOn.is (SSI_CFG_EN (1 : Fin 2).val) = false ∨ 0x87 < (5 : Fin 256).val ∨ wOn.get (SSI_CFG_TRIG (1 : Fin 2).val) ≠ (5 : Fin 256).val))
    ∧ ((({ ((wPos.put (POS_CFG_SRC 3) 7).put (SSI_CFG_LEN 1) 23).setSsi 1 ⟨some 5, none⟩ with cyc := 10 ^ 9 }).pos.ssi.length = 2)
    ∧ ((({ ((wPos.put (POS_CFG_SRC 3) 7).put (SSI_CFG_LEN 1) 23).setSsi 1 ⟨some 5, none⟩ with cyc := 10 ^ 9 }).ssiOf (1 : Fin 2).val).began = some (5 : Nat))
    ∧ (({ ((wPos.put (POS_CFG_SRC 3) 7).put (SSI_CFG_LEN 1) 23).setSsi 1 ⟨some 5, none⟩ with cyc := 10 ^ 9 }).ticking = true)
    ∧ ((5 : Nat) + ((max 7 (({ ((wPos.put (POS_CFG_SRC 3) 7).put (SSI_CFG_LEN 1) 23).setSsi 1 ⟨some 5, none⟩ with cyc := 10 ^ 9 }).get (SSI_CFG_LEN (1 : Fin 2).val)) + 1) * 2 * (max 19 (min 1999 (({ ((wPos.put (POS_CFG_SRC 3) 7).put (SSI_CFG_LEN 1) 23).setSsi 1 ⟨some 5, none⟩ with cyc := 10 ^ 9 }).get (SSI_DIV_DIV (1 : Fin 2).val))) + 1)) ≤ ({ ((wPos.put (POS_CFG_SRC 3) 7).put (SSI_CFG_LEN 1) 23).setSsi 1 ⟨some 5, none⟩ with cyc := 10 ^ 9 }).cyc)) := by
  and_intros <;> decide +kernel

theorem witness_position_writes_frames_and_resolver_part3 :
    ((({ (((wPos.put (POS_CFG_SRC 3) 7).put (SSI_CFG_PARITY 1) 1).put (SSI_CFG_LEN 1) 23).setSsi 1 ⟨some 5, none⟩ with cyc := 10 ^ 9 }).pos.ssi.length = 2)
    ∧ ((({ (((wPos.put (POS_CFG_SRC 3) 7).put (SSI_CFG_PARITY 1) 1).put (SSI_CFG_LEN 1) 23).setSsi 1 ⟨some 5, none⟩ with cyc := 10 ^ 9 }).ssiOf (1 : Fin 2).val).began = some (5 : Nat))
    ∧ (({ (((wPos.put (POS_CFG_SRC 3) 7).put (SSI_CFG_PARITY 1) 1).put (SSI_CFG_LEN 1) 23).setSsi 1 ⟨some 5, none⟩ with cyc := 10 ^ 9 }).ticking = true)
    ∧ ((5 : Nat) + ((max 7 (({ (((wPos.put (POS_CFG_SRC 3) 7).put (SSI_CFG_PARITY 1) 1).put (SSI_CFG_LEN 1) 23).setSsi 1 ⟨some 5, none⟩ with cyc := 10 ^ 9 }).get (SSI_CFG_LEN (1 : Fin 2).val)) + 1) * 2 * (max 19 (min 1999 (({ (((wPos.put (POS_CFG_SRC 3) 7).put (SSI_CFG_PARITY 1) 1).put (SSI_CFG_LEN 1) 23).setSsi 1 ⟨some 5, none⟩ with cyc := 10 ^ 9 }).get (SSI_DIV_DIV (1 : Fin 2).val))) + 1)) ≤ ({ (((wPos.put (POS_CFG_SRC 3) 7).put (SSI_CFG_PARITY 1) 1).put (SSI_CFG_LEN 1) 23).setSsi 1 ⟨some 5, none⟩ with cyc := 10 ^ 9 }).cyc)
    ∧ (({ (((wPos.put (POS_CFG_SRC 3) 7).put (SSI_CFG_PARITY 1) 1).put (SSI_CFG_LEN 1) 23).setSsi 1 ⟨some 5, none⟩ with cyc := 10 ^ 9 }).is (SSI_CFG_PARITY (1 : Fin 2).val) = true)
    ∧ (evenParity (max 7 (({ (((wPos.put (POS_CFG_SRC 3) 7).put (SSI_CFG_PARITY 1) 1).put (SSI_CFG_LEN 1) 23).setSsi 1 ⟨some 5, none⟩ with cyc := 10 ^ 9 }).get (SSI_CFG_LEN (1 : Fin 2).val)) + 1) ((1 : BitVec 32).toNat % 2 ^ (max 7 (({ (((wPos.put (POS_CFG_SRC 3) 7).put (SSI_CFG_PARITY 1) 1).put (SSI_CFG_LEN 1) 23).setSsi 1 ⟨some 5, none⟩ with cyc := 10 ^ 9 }).get (SSI_CFG_LEN (1 : Fin 2).val)) + 1)) = true))
    ∧ ((({ ((wPos.put (POS_CFG_SRC 3) 7).put (SSI_CFG_LEN 1) 23).setSsi 1 ⟨some 5, none⟩ with cyc := 10 ^ 9 }).pos.ch.length = 8)
    ∧ (({ ((wPos.put (POS_CFG_SRC 3) 7).put (SSI_CFG_LEN 1) 23).setSsi 1 ⟨some 5, none⟩ with cyc := 10 ^ 9 }).pos.ssi.length = 2)
    ∧ ((({ ((wPos.put (POS_CFG_SRC 3) 7).put (SSI_CFG_LEN 1) 23).setSsi 1 ⟨some 5, none⟩ with cyc := 10 ^ 9 }).ssiOf (1 : Fin 2).val).began = some (5 : Nat))
    ∧ (({ ((wPos.put (POS_CFG_SRC 3) 7).put (SSI_CFG_LEN 1) 23).setSsi 1 ⟨some 5, none⟩ with cyc := 10 ^ 9 }).ticking = true)
    ∧ ((5 : Nat) + ((max 7 (({ ((wPos.put (POS_CFG_SRC 3) 7).put (SSI_CFG_LEN 1) 23).setSsi 1 ⟨some 5, none⟩ with cyc := 10 ^ 9 }).get (SSI_CFG_LEN (1 : Fin 2).val)) + 1) * 2 * (max 19 (min 1999 (({ ((wPos.put (POS_CFG_SRC 3) 7).put (SSI_CFG_LEN 1) 23).setSsi 1 ⟨some 5, none⟩ with cyc := 10 ^ 9 }).get (SSI_DIV_DIV (1 : Fin 2).val))) + 1)) ≤ ({ ((wPos.put (POS_CFG_SRC 3) 7).put (SSI_CFG_LEN 1) 23).setSsi 1 ⟨some 5, none⟩ with cyc := 10 ^ 9 }).cyc)
    ∧ (({ ((wPos.put (POS_CFG_SRC 3) 7).put (SSI_CFG_LEN 1) 23).setSsi 1 ⟨some 5, none⟩ with cyc := 10 ^ 9 }).is (SSI_CFG_PARITY (1 : Fin 2).val) = false ∨ evenParity (max 7 (({ ((wPos.put (POS_CFG_SRC 3) 7).put (SSI_CFG_LEN 1) 23).setSsi 1 ⟨some 5, none⟩ with cyc := 10 ^ 9 }).get (SSI_CFG_LEN (1 : Fin 2).val)) + 1) ((0x12345 : BitVec 32).toNat % 2 ^ (max 7 (({ ((wPos.put (POS_CFG_SRC 3) 7).put (SSI_CFG_LEN 1) 23).setSsi 1 ⟨some 5, none⟩ with cyc := 10 ^ 9 }).get (SSI_CFG_LEN (1 : Fin 2).val)) + 1)) = false))
    ∧ ((wOn.ticking = false ∨ ∀ u ∈ (wOn.ssiOf (1 : Fin 2).val).began, wOn.cyc < u + ((max 7 (wOn.get (SSI_CFG_LEN (1 : Fin 2).val)) + 1) * 2 * (max 19 (min 1999 (wOn.get (SSI_DIV_DIV (1 : Fin 2).val))) + 1))))
    ∧ ((({ (wPos.put (POS_CFG_SRC 3) 4).setPos 3 { PosCh.idle with frAt := some 5 } with cyc := 10 ^ 9 }).pos.ch.length = 8)
    ∧ ((({ (wPos.put (POS_CFG_SRC 3) 4).setPos 3 { PosCh.idle with frAt := some 5 } with cyc := 10 ^ 9 }).posCh (3 : Fin 8).val).frAt = some (5 : Nat))
    ∧ (({ (wPos.put (POS_CFG_SRC 3) 4).setPos 3 { PosCh.idle with frAt := some 5 } with cyc := 10 ^ 9 }).ticking = true)
    ∧ (({ (wPos.put (POS_CFG_SRC 3) 4).setPos 3 { PosCh.idle with frAt := some 5 } with cyc := 10 ^ 9 }).is (POS_CFG_EN (3 : Fin 8).val) = true)
    ∧ (2 ≤ ({ (wPos.put (POS_CFG_SRC 3) 4).setPos 3 { PosCh.idle with frAt := some 5 } with cyc := 10 ^ 9 }).get (POS_CFG_SRC (3 : Fin 8).val))
    ∧ ((5 : Nat) + 4000 * max 1 (({ (wPos.put (POS_CFG_SRC 3) 4).setPos 3 { PosCh.idle with frAt := some 5 } with cyc := 10 ^ 9 }).get (POS_TMO_FRTMO (3 : Fin 8).val)) ≤ ({ (wPos.put (POS_CFG_SRC 3) 4).setPos 3 { PosCh.idle with frAt := some 5 } with cyc := 10 ^ 9 }).cyc))
    ∧ ((wOn.ticking = false ∨ wOn.is (POS_CFG_EN (3 : Fin 8).val) = false ∨ wOn.get (POS_CFG_SRC (3 : Fin 8).val) < 2 ∨ ∀ u ∈ (wOn.posCh (3 : Fin 8).val).frAt, wOn.cyc < u + 4000 * max 1 (wOn.get (POS_TMO_FRTMO (3 : Fin 8).val))))
    ∧ (((((wOn.put (RES_CFG_EN 1) 1).put (RES_CFG_DIV 1) 500).setPosBlk { wOn.pos with res := [ResCh.idle, ⟨List.replicate 500 8192, List.replicate 500 8192, false, 3⟩] }).pos.res.length = 2)
    ∧ ((((wOn.put (RES_CFG_EN 1) 1).put (RES_CFG_DIV 1) 500).setPosBlk { wOn.pos with res := [ResCh.idle, ⟨List.replicate 500 8192, List.replicate 500 8192, false, 3⟩] }).ticking = true)
    ∧ ((((wOn.put (RES_CFG_EN 1) 1).put (RES_CFG_DIV 1) 500).setPosBlk { wOn.pos with res := [ResCh.idle, ⟨List.replicate 500 8192, List.replicate 500 8192, false, 3⟩] }).is (RES_CFG_EN (1 : Fin 2).val) = true)
    ∧ ((max 500 (min 1250 ((((wOn.put (RES_CFG_EN 1) 1).put (RES_CFG_DIV 1) 500).setPosBlk { wOn.pos with res := [ResCh.idle, ⟨List.replicate 500 8192, List.replicate 500 8192, false, 3⟩] }).get (RES_CFG_DIV (1 : Fin 2).val)))) ≤ (nth (((wOn.put (RES_CFG_EN 1) 1).put (RES_CFG_DIV 1) 500).setPosBlk { wOn.pos with res := [ResCh.idle, ⟨List.replicate 500 8192, List.replicate 500 8192, false, 3⟩] }).pos.res (1 : Fin 2).val ResCh.idle).s.length)
    ∧ ((max 500 (min 1250 ((((wOn.put (RES_CFG_EN 1) 1).put (RES_CFG_DIV 1) 500).setPosBlk { wOn.pos with res := [ResCh.idle, ⟨List.replicate 500 8192, List.replicate 500 8192, false, 3⟩] }).get (RES_CFG_DIV (1 : Fin 2).val)))) ≤ (nth (((wOn.put (RES_CFG_EN 1) 1).put (RES_CFG_DIV 1) 500).setPosBlk { wOn.pos with res := [ResCh.idle, ⟨List.replicate 500 8192, List.replicate 500 8192, false, 3⟩] }).pos.res (1 : Fin 2).val ResCh.idle).c.length)) := by
  and_intros <;> decide +kernel

theorem witness_position_writes_frames_and_resolver_part4 :
    ((wOn.ticking = false ∨ wOn.is (RES_CFG_EN (1 : Fin 2).val) = false ∨ (nth wOn.pos.res (1 : Fin 2).val ResCh.idle).s.length < (max 500 (min 1250 (wOn.get (RES_CFG_DIV (1 : Fin 2).val)))) ∨ (nth wOn.pos.res (1 : Fin 2).val ResCh.idle).c.length < (max 500 (min 1250 (wOn.get (RES_CFG_DIV (1 : Fin 2).val)))))) := by
  and_intros <;> decide +kernel

theorem witness_the_ledger_computes_publishes_and_falls_back :
    ((wOn.ticking = true)
    ∧ (wOn.tick % 1000 = 0)
    ∧ (wOn.ledger.ranAt ≠ some wOn.tick))
    ∧ (((State.reset).ticking = false ∨ (State.reset).tick % 1000 ≠ 0 ∨ (State.reset).ledger.ranAt = some (State.reset).tick))
    ∧ ((((wOn.put (LGE_STAT_HOLD 2) 3).setLedger { Ledger.idle with due := some (3200, wLgr) }).ledger.due = some ((3200 : Nat), (wLgr : List LgRes)))
    ∧ ((wLgr : List LgRes).length = 8)
    ∧ (((wOn.put (LGE_STAT_HOLD 2) 3).setLedger { Ledger.idle with due := some (3200, wLgr) }).ticking = true)
    ∧ (((wOn.put (LGE_STAT_HOLD 2) 3).setLedger { Ledger.idle with due := some (3200, wLgr) }).ledger.slow = false)
    ∧ ((3200 : Nat) + 800 ≤ ((wOn.put (LGE_STAT_HOLD 2) 3).setLedger { Ledger.idle with due := some (3200, wLgr) }).cyc))
    ∧ ((wOn.ticking = false ∨ wOn.ledger.slow = true ∨ ∀ x ∈ wOn.ledger.due, wOn.cyc < x.1 + 800))
    ∧ ((wOn.Reaches (Initiator.kp : Initiator) LGC_BATLIM.addr))
    ∧ ((({ wOn.setLedger { Ledger.idle with batAt := some 5 } with cyc := 10 ^ 9 }).ticking = true)
    ∧ (({ wOn.setLedger { Ledger.idle with batAt := some 5 } with cyc := 10 ^ 9 }).ledger.batAt = some (5 : Nat))
    ∧ ((5 : Nat) + 400000 * max 1 (({ wOn.setLedger { Ledger.idle with batAt := some 5 } with cyc := 10 ^ 9 }).get LGC_BATTMO_TMO) ≤ ({ wOn.setLedger { Ledger.idle with batAt := some 5 } with cyc := 10 ^ 9 }).cyc)) := by
  and_intros <;> decide +kernel

theorem witness_the_ledger_computes_publishes_and_falls_back_part2 :
    ((wOn.ticking = false ∨ ∀ u ∈ wOn.ledger.batAt, wOn.cyc < u + 400000 * max 1 (wOn.get LGC_BATTMO_TMO)))
    ∧ ((({ wOn.put LGC_STEER_EN 1 with cyc := 10 ^ 9 }).ticking = true)
    ∧ (({ wOn.put LGC_STEER_EN 1 with cyc := 10 ^ 9 }).is LGC_STEER_EN = true)
    ∧ (({ wOn.put LGC_STEER_EN 1 with cyc := 10 ^ 9 }).ledger.steerAt + 400000 * max 1 (({ wOn.put LGC_STEER_EN 1 with cyc := 10 ^ 9 }).get LGC_STEER_PERIOD) ≤ ({ wOn.put LGC_STEER_EN 1 with cyc := 10 ^ 9 }).cyc))
    ∧ ((wOn.ticking = false ∨ wOn.is LGC_STEER_EN = false ∨ wOn.cyc < wOn.ledger.steerAt + 400000 * max 1 (wOn.get LGC_STEER_PERIOD))) := by
  and_intros <;> decide +kernel

theorem witness_actuator_sequences_move_through_their_phases :
    ((((wOn.put (ACS_STAT_PHASE 1) 1).setClk { wOn.clk with now := 10 ^ 12 }).act.length = 3)
    ∧ (((wOn.put (ACS_STAT_PHASE 1) 1).setClk { wOn.clk with now := 10 ^ 12 }).get (ACS_STAT_PHASE (1 : Fin 3).val) = 1)
    ∧ ((((wOn.put (ACS_STAT_PHASE 1) 1).setClk { wOn.clk with now := 10 ^ 12 }).actOf (1 : Fin 3).val).phaseAt + 400000 ≤ ((wOn.put (ACS_STAT_PHASE 1) 1).setClk { wOn.clk with now := 10 ^ 12 }).now))
    ∧ ((wOn.get (ACS_STAT_PHASE (1 : Fin 3).val) ≠ 1 ∨ wOn.now < (wOn.actOf (1 : Fin 3).val).phaseAt + 400000))
    ∧ ((((wOn.put (ACS_STAT_PHASE 1) 3).setClk { wOn.clk with now := 10 ^ 12 }).act.length = 3)
    ∧ (((wOn.put (ACS_STAT_PHASE 1) 3).setClk { wOn.clk with now := 10 ^ 12 }).get (ACS_STAT_PHASE (1 : Fin 3).val) = 3)
    ∧ (((wOn.put (ACS_STAT_PHASE 1) 3).setClk { wOn.clk with now := 10 ^ 12 }).actInTol (1 : Fin 3).val = true)
    ∧ ((((wOn.put (ACS_STAT_PHASE 1) 3).setClk { wOn.clk with now := 10 ^ 12 }).actOf (1 : Fin 3).val).phaseAt + 400000 * ((wOn.put (ACS_STAT_PHASE 1) 3).setClk { wOn.clk with now := 10 ^ 12 }).par 0x0038 ≤ ((wOn.put (ACS_STAT_PHASE 1) 3).setClk { wOn.clk with now := 10 ^ 12 }).now))
    ∧ ((wOn.get (ACS_STAT_PHASE (1 : Fin 3).val) ≠ 3 ∨ wOn.actInTol (1 : Fin 3).val = false ∨ wOn.now < (wOn.actOf (1 : Fin 3).val).phaseAt + 400000 * wOn.par 0x0038))
    ∧ (((((wOn.put (ACS_STAT_PHASE 1) 4).put (PWM_CTRL_RUN 27) 1).setClk { wOn.clk with now := 10 ^ 12 }).act.length = 3)
    ∧ ((((wOn.put (ACS_STAT_PHASE 1) 4).put (PWM_CTRL_RUN 27) 1).setClk { wOn.clk with now := 10 ^ 12 }).get (ACS_STAT_PHASE (1 : Fin 3).val) = 4)
    ∧ (((((wOn.put (ACS_STAT_PHASE 1) 4).put (PWM_CTRL_RUN 27) 1).setClk { wOn.clk with now := 10 ^ 12 }).actOf (1 : Fin 3).val).phaseAt + 400000 ≤ (((wOn.put (ACS_STAT_PHASE 1) 4).put (PWM_CTRL_RUN 27) 1).setClk { wOn.clk with now := 10 ^ 12 }).now))
    ∧ ((wOn.get (ACS_STAT_PHASE (1 : Fin 3).val) ≠ 4 ∨ wOn.now < (wOn.actOf (1 : Fin 3).val).phaseAt + 400000)) := by
  and_intros <;> decide +kernel

theorem witness_actuator_sequences_move_through_their_phases_part2 :
    (((((wOn.put (ACS_STAT_PHASE 1) 2).put (PWM_CTRL_RUN 27) 1).setClk { wOn.clk with now := 10 ^ 12 }).act.length = 3)
    ∧ ((((wOn.put (ACS_STAT_PHASE 1) 2).put (PWM_CTRL_RUN 27) 1).setClk { wOn.clk with now := 10 ^ 12 }).get (ACS_STAT_PHASE (1 : Fin 3).val) ≠ 0)
    ∧ (((((wOn.put (ACS_STAT_PHASE 1) 2).put (PWM_CTRL_RUN 27) 1).setClk { wOn.clk with now := 10 ^ 12 }).actOf (1 : Fin 3).val).began + 400000 * (((wOn.put (ACS_STAT_PHASE 1) 2).put (PWM_CTRL_RUN 27) 1).setClk { wOn.clk with now := 10 ^ 12 }).par (0x0034 + (1 : Fin 3).val) ≤ (((wOn.put (ACS_STAT_PHASE 1) 2).put (PWM_CTRL_RUN 27) 1).setClk { wOn.clk with now := 10 ^ 12 }).now))
    ∧ ((wOn.get (ACS_STAT_PHASE (1 : Fin 3).val) = 0 ∨ wOn.now < (wOn.actOf (1 : Fin 3).val).began + 400000 * wOn.par (0x0034 + (1 : Fin 3).val)))
    ∧ (((((wOn.put (ACS_STAT_PHASE 1) 2).put (PWM_CTRL_RUN 27) 1).setClk { wOn.clk with now := 10 ^ 12 }).act.length = 3)
    ∧ (¬((1 : Fin 3).val = 0 ∧ (((wOn.put (ACS_STAT_PHASE 1) 2).put (PWM_CTRL_RUN 27) 1).setClk { wOn.clk with now := 10 ^ 12 }).get (ACS_STAT_SEQ 0) = 1 ∧ (((wOn.put (ACS_STAT_PHASE 1) 2).put (PWM_CTRL_RUN 27) 1).setClk { wOn.clk with now := 10 ^ 12 }).beyondTooth = true))
    ∧ ((((wOn.put (ACS_STAT_PHASE 1) 2).put (PWM_CTRL_RUN 27) 1).setClk { wOn.clk with now := 10 ^ 12 }).get (ACS_STAT_PHASE (1 : Fin 3).val) = 2)
    ∧ (((((wOn.put (ACS_STAT_PHASE 1) 2).put (PWM_CTRL_RUN 27) 1).setClk { wOn.clk with now := 10 ^ 12 }).actOf (1 : Fin 3).val).stallAt + 400000 * (((wOn.put (ACS_STAT_PHASE 1) 2).put (PWM_CTRL_RUN 27) 1).setClk { wOn.clk with now := 10 ^ 12 }).par 0x003A ≤ (((wOn.put (ACS_STAT_PHASE 1) 2).put (PWM_CTRL_RUN 27) 1).setClk { wOn.clk with now := 10 ^ 12 }).now))
    ∧ (((((((wOn.put (ACS_STAT_PHASE 0) 2).put (ACS_STAT_SEQ 0) 1).wr (POS_CNT (wOn.actPos 0)) 0x10000000).setKcp { wOn.kcp with cfg := [(0x41, 0x20000000)] }).setClk { wOn.clk with now := 10 ^ 12 }).act.length = 3)
    ∧ ((0 : Fin 3).val = 0 ∧ (((((wOn.put (ACS_STAT_PHASE 0) 2).put (ACS_STAT_SEQ 0) 1).wr (POS_CNT (wOn.actPos 0)) 0x10000000).setKcp { wOn.kcp with cfg := [(0x41, 0x20000000)] }).setClk { wOn.clk with now := 10 ^ 12 }).get (ACS_STAT_SEQ 0) = 1 ∧ (((((wOn.put (ACS_STAT_PHASE 0) 2).put (ACS_STAT_SEQ 0) 1).wr (POS_CNT (wOn.actPos 0)) 0x10000000).setKcp { wOn.kcp with cfg := [(0x41, 0x20000000)] }).setClk { wOn.clk with now := 10 ^ 12 }).beyondTooth = true)
    ∧ ((((((wOn.put (ACS_STAT_PHASE 0) 2).put (ACS_STAT_SEQ 0) 1).wr (POS_CNT (wOn.actPos 0)) 0x10000000).setKcp { wOn.kcp with cfg := [(0x41, 0x20000000)] }).setClk { wOn.clk with now := 10 ^ 12 }).get (ACS_STAT_PHASE (0 : Fin 3).val) = 2)
    ∧ (((((((wOn.put (ACS_STAT_PHASE 0) 2).put (ACS_STAT_SEQ 0) 1).wr (POS_CNT (wOn.actPos 0)) 0x10000000).setKcp { wOn.kcp with cfg := [(0x41, 0x20000000)] }).setClk { wOn.clk with now := 10 ^ 12 }).actOf (0 : Fin 3).val).stallAt + 400000 * (((((wOn.put (ACS_STAT_PHASE 0) 2).put (ACS_STAT_SEQ 0) 1).wr (POS_CNT (wOn.actPos 0)) 0x10000000).setKcp { wOn.kcp with cfg := [(0x41, 0x20000000)] }).setClk { wOn.clk with now := 10 ^ 12 }).par 0x003A ≤ (((((wOn.put (ACS_STAT_PHASE 0) 2).put (ACS_STAT_SEQ 0) 1).wr (POS_CNT (wOn.actPos 0)) 0x10000000).setKcp { wOn.kcp with cfg := [(0x41, 0x20000000)] }).setClk { wOn.clk with now := 10 ^ 12 }).now))
    ∧ ((wOn.get (ACS_STAT_PHASE (1 : Fin 3).val) ≠ 2 ∨ wOn.now < (wOn.actOf (1 : Fin 3).val).stallAt + 400000 * wOn.par 0x003A))
    ∧ ((((wOn.put (ACS_STAT_PHASE 1) 2).put (PWM_CTRL_RUN 27) 1).act.length = 3)
    ∧ (((wOn.put (ACS_STAT_PHASE 1) 2).put (PWM_CTRL_RUN 27) 1).get (ACS_STAT_PHASE (1 : Fin 3).val) ≠ 0)
    ∧ ((0 : Nat) < ((wOn.put (ACS_STAT_PHASE 1) 2).put (PWM_CTRL_RUN 27) 1).par 0x003B)
    ∧ (400000 * ((wOn.put (ACS_STAT_PHASE 1) 2).put (PWM_CTRL_RUN 27) 1).par 0x003C ≤ (10 ^ 9 : Nat))) := by
  and_intros <;> decide +kernel

theorem witness_actuator_sequences_move_through_their_phases_part3 :
    ((wOn.get (ACS_STAT_PHASE (1 : Fin 3).val) = 0 ∨ wOn.par 0x003B ≤ (0 : Nat) ∨ (10 ^ 9 : Nat) < 400000 * wOn.par 0x003C)) := by
  and_intros <;> decide +kernel

theorem witness_badger_seals_its_configuration_and_checks_itself :
    ((wBad.isOn 2 = true)
    ∧ (wBad.get HSM_STATUS_STATE = 0)
    ∧ (wBad.badger.onAt + 100 ≤ wBad.badger.tick)
    ∧ (crc8 [(BitVec.ofNat 24 (0x1234 * 256 + crc8 [0x12, 0x34]) : BitVec 24).toNat / 65536, (BitVec.ofNat 24 (0x1234 * 256 + crc8 [0x12, 0x34]) : BitVec 24).toNat / 256 % 256] = (BitVec.ofNat 24 (0x1234 * 256 + crc8 [0x12, 0x34]) : BitVec 24).toNat % 256))
    ∧ ((wBad.isOn 2 = true)
    ∧ (wBad.get HSM_STATUS_STATE = 0)
    ∧ (wBad.badger.onAt + 100 ≤ wBad.badger.tick)
    ∧ (¬((0 : BitVec 24) = (0 : BitVec 24) ∧ (0 : BitVec 24) = (0 : BitVec 24) ∧ (0 : BitVec 24) = (0 : BitVec 24) ∧ (0 : BitVec 24) = (1 : BitVec 24) ∧ (0 : BitVec 24) = (0 : BitVec 24) ∧ crc8 [(0 : BitVec 24).toNat / 65536, (0 : BitVec 24).toNat / 256 % 256] = (0 : BitVec 24).toNat % 256)))
    ∧ (((State.reset).isOn 2 = false ∨ (State.reset).get HSM_STATUS_STATE ≠ 0 ∨ (State.reset).badger.tick < (State.reset).badger.onAt + 100))
    ∧ ((({ wBad.setBadger { wBad.badger with tick := 977 } with marten := 32 }).isOn 2 = true)
    ∧ (({ wBad.setBadger { wBad.badger with tick := 977 } with marten := 32 }).badger.clkMarten + 32 ≤ ({ wBad.setBadger { wBad.badger with tick := 977 } with marten := 32 }).marten)
    ∧ (880 ≤ ({ wBad.setBadger { wBad.badger with tick := 977 } with marten := 32 }).badger.tick - ({ wBad.setBadger { wBad.badger with tick := 977 } with marten := 32 }).badger.clkTick)
    ∧ (({ wBad.setBadger { wBad.badger with tick := 977 } with marten := 32 }).badger.tick - ({ wBad.setBadger { wBad.badger with tick := 977 } with marten := 32 }).badger.clkTick ≤ 1080))
    ∧ ((({ wBad.setBadger { wBad.badger with tick := 9770 } with marten := 32 }).isOn 2 = true)
    ∧ (({ wBad.setBadger { wBad.badger with tick := 9770 } with marten := 32 }).badger.clkMarten + 32 ≤ ({ wBad.setBadger { wBad.badger with tick := 9770 } with marten := 32 }).marten)
    ∧ (({ wBad.setBadger { wBad.badger with tick := 9770 } with marten := 32 }).badger.tick - ({ wBad.setBadger { wBad.badger with tick := 9770 } with marten := 32 }).badger.clkTick < 880 ∨ 1080 < ({ wBad.setBadger { wBad.badger with tick := 9770 } with marten := 32 }).badger.tick - ({ wBad.setBadger { wBad.badger with tick := 9770 } with marten := 32 }).badger.clkTick))
    ∧ (((State.reset).isOn 2 = false ∨ (State.reset).marten < (State.reset).badger.clkMarten + 32)) := by
  and_intros <;> decide +kernel

theorem witness_badger_seals_its_configuration_and_checks_itself_part2 :
    ((((wBad.put HSM_CFG_VALID 1).put HSM_CFG_SAFECHK (crc8 [0, 0])).isOn 2 = true)
    ∧ (((wBad.put HSM_CFG_VALID 1).put HSM_CFG_SAFECHK (crc8 [0, 0])).is HSM_CFG_VALID = true)
    ∧ (((wBad.put HSM_CFG_VALID 1).put HSM_CFG_SAFECHK (crc8 [0, 0])).badger.latchAt + 1000 ≤ ((wBad.put HSM_CFG_VALID 1).put HSM_CFG_SAFECHK (crc8 [0, 0])).badger.tick)
    ∧ (crc8 [((wBad.put HSM_CFG_VALID 1).put HSM_CFG_SAFECHK (crc8 [0, 0])).safeCfg / 256, ((wBad.put HSM_CFG_VALID 1).put HSM_CFG_SAFECHK (crc8 [0, 0])).safeCfg % 256] = ((wBad.put HSM_CFG_VALID 1).put HSM_CFG_SAFECHK (crc8 [0, 0])).get HSM_CFG_SAFECHK))
    ∧ ((((wBad.put HSM_CFG_VALID 1).put HSM_CFG_SAFECHK (1 + crc8 [0, 0])).isOn 2 = true)
    ∧ (((wBad.put HSM_CFG_VALID 1).put HSM_CFG_SAFECHK (1 + crc8 [0, 0])).is HSM_CFG_VALID = true)
    ∧ (((wBad.put HSM_CFG_VALID 1).put HSM_CFG_SAFECHK (1 + crc8 [0, 0])).badger.latchAt + 1000 ≤ ((wBad.put HSM_CFG_VALID 1).put HSM_CFG_SAFECHK (1 + crc8 [0, 0])).badger.tick)
    ∧ (crc8 [((wBad.put HSM_CFG_VALID 1).put HSM_CFG_SAFECHK (1 + crc8 [0, 0])).safeCfg / 256, ((wBad.put HSM_CFG_VALID 1).put HSM_CFG_SAFECHK (1 + crc8 [0, 0])).safeCfg % 256] ≠ ((wBad.put HSM_CFG_VALID 1).put HSM_CFG_SAFECHK (1 + crc8 [0, 0])).get HSM_CFG_SAFECHK))
    ∧ (((State.reset).isOn 2 = false ∨ (State.reset).is HSM_CFG_VALID = false ∨ (State.reset).badger.tick < (State.reset).badger.latchAt + 1000))
    ∧ ((((wBad.put HSM_STATUS_STATE 2).put HSM_CFG_SAFECFG 0x1C).get (SCC_MODE_MODE (1 : Fin 4).val) = 1 ∨ ((wBad.put HSM_STATUS_STATE 2).put HSM_CFG_SAFECFG 0x1C).get (SCC_MODE_MODE (1 : Fin 4).val) = 2)
    ∧ (((wBad.put HSM_STATUS_STATE 2).put HSM_CFG_SAFECFG 0x1C).get HSM_STATUS_STATE = 2)
    ∧ (bitsOf 23 0 (0x1C00 : Word).toNat = ((wBad.put HSM_STATUS_STATE 2).put HSM_CFG_SAFECFG 0x1C).get HSM_CFG_SAFECFG * 256 + ((wBad.put HSM_STATUS_STATE 2).put HSM_CFG_SAFECFG 0x1C).get HSM_CFG_SAFECHK)
    ∧ (∀ i : Fin 4, ((wBad.put HSM_STATUS_STATE 2).put HSM_CFG_SAFECFG 0x1C).sinEn i.val = true → ((wBad.put HSM_STATUS_STATE 2).put HSM_CFG_SAFECFG 0x1C).sinDem i.val = false))
    ∧ (((((wBad.put HSM_STATUS_STATE 2).put HSM_CFG_SAFECFG 0x1C1C).put HSM_SIN_DEM 0x10).get (SCC_MODE_MODE (1 : Fin 4).val) = 1 ∨ (((wBad.put HSM_STATUS_STATE 2).put HSM_CFG_SAFECFG 0x1C1C).put HSM_SIN_DEM 0x10).get (SCC_MODE_MODE (1 : Fin 4).val) = 2)
    ∧ ((((wBad.put HSM_STATUS_STATE 2).put HSM_CFG_SAFECFG 0x1C1C).put HSM_SIN_DEM 0x10).get HSM_STATUS_STATE = 2)
    ∧ (bitsOf 23 0 (0x1C1C00 : Word).toNat = (((wBad.put HSM_STATUS_STATE 2).put HSM_CFG_SAFECFG 0x1C1C).put HSM_SIN_DEM 0x10).get HSM_CFG_SAFECFG * 256 + (((wBad.put HSM_STATUS_STATE 2).put HSM_CFG_SAFECFG 0x1C1C).put HSM_SIN_DEM 0x10).get HSM_CFG_SAFECHK)
    ∧ ((((wBad.put HSM_STATUS_STATE 2).put HSM_CFG_SAFECFG 0x1C1C).put HSM_SIN_DEM 0x10).sinEn (2 : Fin 4).val = true)
    ∧ ((((wBad.put HSM_STATUS_STATE 2).put HSM_CFG_SAFECFG 0x1C1C).put HSM_SIN_DEM 0x10).sinDem (2 : Fin 4).val = true))
    ∧ (((wBad.put HSM_STATUS_STATE 2).get (SCC_MODE_MODE (1 : Fin 4).val) = 1 ∨ (wBad.put HSM_STATUS_STATE 2).get (SCC_MODE_MODE (1 : Fin 4).val) = 2)
    ∧ ((wBad.put HSM_STATUS_STATE 2).get HSM_STATUS_STATE ≠ 2 ∨ bitsOf 23 0 (5 : Word).toNat ≠ (wBad.put HSM_STATUS_STATE 2).get HSM_CFG_SAFECFG * 256 + (wBad.put HSM_STATUS_STATE 2).get HSM_CFG_SAFECHK)) := by
  and_intros <;> decide +kernel

theorem witness_badger_seals_its_configuration_and_checks_itself_part3 :
    ((∀ c : Fin 4, ∀ th : Fin 3, (.sc 0 1 : Initiator) = .sc c th → wOn.get (SCC_MODE_MODE c.val) ≠ 1 ∧ wOn.get (SCC_MODE_MODE c.val) ≠ 2))
    ∧ ((wBad.isOn 2 = true)
    ∧ (wBad.get HSM_STATUS_STATE ≠ 6)
    ∧ (∃ g : Fin 4, (wBad.bit HSM_STATUS_FOFF g.val = true ∧ (0xB : BitVec 4).getLsbD g.val = false) ∨ (wBad.bit HSM_STATUS_EN g.val = false ∧ (0 : BitVec 4).getLsbD g.val = true ∧ nth wBad.badger.removedAt g.val 0 + 5000 ≤ wBad.badger.tick)))
    ∧ ((wBad.isOn 2 = false ∨ wBad.get HSM_STATUS_STATE = 6 ∨ ¬(∃ g : Fin 4, (wBad.bit HSM_STATUS_FOFF g.val = true ∧ (0xF : BitVec 4).getLsbD g.val = false) ∨ (wBad.bit HSM_STATUS_EN g.val = false ∧ (0 : BitVec 4).getLsbD g.val = true ∧ nth wBad.badger.removedAt g.val 0 + 5000 ≤ wBad.badger.tick)))) := by
  and_intros <;> decide +kernel

theorem witness_badger_stops_enables_and_restarts :
    ((∀ c : Fin 4, ∀ th : Fin 3, (.sc 0 1 : Initiator) = .sc c th → wOn.get (SCC_MODE_MODE c.val) ≠ 1 ∧ wOn.get (SCC_MODE_MODE c.val) ≠ 2))
    ∧ (((wBad.put HSM_STATUS_EN 0xF).get (SCC_MODE_MODE (1 : Fin 4).val) = 1 ∨ (wBad.put HSM_STATUS_EN 0xF).get (SCC_MODE_MODE (1 : Fin 4).val) = 2))
    ∧ ((∀ c : Fin 4, ∀ th : Fin 3, (.sc 0 1 : Initiator) = .sc c th → wOn.get (SCC_MODE_MODE c.val) ≠ 1 ∧ wOn.get (SCC_MODE_MODE c.val) ≠ 2))
    ∧ (((wBad.put HSM_STATUS_STATE 3).get (SCC_MODE_MODE (1 : Fin 4).val) = 1 ∨ (wBad.put HSM_STATUS_STATE 3).get (SCC_MODE_MODE (1 : Fin 4).val) = 2)
    ∧ ((wBad.put HSM_STATUS_STATE 3).get HSM_STATUS_STATE = 3))
    ∧ ((wBad.get (SCC_MODE_MODE (1 : Fin 4).val) = 1 ∨ wBad.get (SCC_MODE_MODE (1 : Fin 4).val) = 2)
    ∧ (wBad.get HSM_STATUS_STATE ≠ 3))
    ∧ ((∀ c : Fin 4, ∀ th : Fin 3, (.sc 0 1 : Initiator) = .sc c th → wOn.get (SCC_MODE_MODE c.val) ≠ 1 ∧ wOn.get (SCC_MODE_MODE c.val) ≠ 2)) := by
  and_intros <;> decide +kernel

theorem witness_badger_stops_enables_and_restarts_part2 :
    (((((wBad.put HSM_STATUS_STATE 3).put HSM_STATUS_EN 0xF).put HSM_CFG_SAFECFG 0x180).get (SCC_MODE_MODE (1 : Fin 4).val) = 1 ∨ (((wBad.put HSM_STATUS_STATE 3).put HSM_STATUS_EN 0xF).put HSM_CFG_SAFECFG 0x180).get (SCC_MODE_MODE (1 : Fin 4).val) = 2)
    ∧ ((((wBad.put HSM_STATUS_STATE 3).put HSM_STATUS_EN 0xF).put HSM_CFG_SAFECFG 0x180).get HSM_STATUS_STATE ≠ 5)
    ∧ ((((wBad.put HSM_STATUS_STATE 3).put HSM_STATUS_EN 0xF).put HSM_CFG_SAFECFG 0x180).get HSM_STATUS_STATE ≠ 6))
    ∧ ((((wBad.put HSM_STATUS_STATE 3).put HSM_STATUS_EN 0xF).get (SCC_MODE_MODE (1 : Fin 4).val) = 1 ∨ ((wBad.put HSM_STATUS_STATE 3).put HSM_STATUS_EN 0xF).get (SCC_MODE_MODE (1 : Fin 4).val) = 2)
    ∧ (((wBad.put HSM_STATUS_STATE 3).put HSM_STATUS_EN 0xF).get HSM_STATUS_STATE ≠ 5)
    ∧ (((wBad.put HSM_STATUS_STATE 3).put HSM_STATUS_EN 0xF).get HSM_STATUS_STATE ≠ 6)
    ∧ (∀ m : Fin 2, ((wBad.put HSM_STATUS_STATE 3).put HSM_STATUS_EN 0xF).ascSpeed m.val = false)
    ∧ (((wBad.put HSM_STATUS_STATE 3).put HSM_STATUS_EN 0xF).is HSM_STATUS_ASC_A = false)
    ∧ (((wBad.put HSM_STATUS_STATE 3).put HSM_STATUS_EN 0xF).is HSM_STATUS_ASC_B = false))
    ∧ (((wBad.put HSM_STATUS_STATE 6).get (SCC_MODE_MODE (1 : Fin 4).val) = 1 ∨ (wBad.put HSM_STATUS_STATE 6).get (SCC_MODE_MODE (1 : Fin 4).val) = 2)
    ∧ ((wBad.put HSM_STATUS_STATE 6).get HSM_STATUS_STATE = 5 ∨ (wBad.put HSM_STATUS_STATE 6).get HSM_STATUS_STATE = 6))
    ∧ ((∀ c : Fin 4, ∀ th : Fin 3, (.sc 0 1 : Initiator) = .sc c th → wOn.get (SCC_MODE_MODE c.val) ≠ 1 ∧ wOn.get (SCC_MODE_MODE c.val) ≠ 2))
    ∧ ((∀ c : Fin 4, ∀ th : Fin 3, (.sc 0 1 : Initiator) = .sc c th → wOn.get (SCC_MODE_MODE c.val) ≠ 1 ∧ wOn.get (SCC_MODE_MODE c.val) ≠ 2))
    ∧ ((((wBad.put HSM_STATUS_STATE 4).setBadger { wBad.badger with tick := 10 ^ 8 }).isOn 2 = true)
    ∧ (((wBad.put HSM_STATUS_STATE 4).setBadger { wBad.badger with tick := 10 ^ 8 }).get HSM_STATUS_STATE = 4)
    ∧ (((wBad.put HSM_STATUS_STATE 4).setBadger { wBad.badger with tick := 10 ^ 8 }).badger.ss1At + ((wBad.put HSM_STATUS_STATE 4).setBadger { wBad.badger with tick := 10 ^ 8 }).stopTmo ≤ ((wBad.put HSM_STATUS_STATE 4).setBadger { wBad.badger with tick := 10 ^ 8 }).badger.tick)) := by
  and_intros <;> decide +kernel

theorem witness_badger_stops_enables_and_restarts_part3 :
    ((wBad.isOn 2 = false ∨ wBad.get HSM_STATUS_STATE ≠ 4 ∨ wBad.badger.tick < wBad.badger.ss1At + wBad.stopTmo))
    ∧ (((wBad.put HSM_STATUS_STATE 4).isOn 2 = true)
    ∧ ((wBad.put HSM_STATUS_STATE 4).badger.evalAt + 100 ≤ (wBad.put HSM_STATUS_STATE 4).badger.tick)
    ∧ ((wBad.put HSM_STATUS_STATE 4).get HSM_STATUS_STATE = 4)
    ∧ ((wBad.put HSM_STATUS_STATE 4).badger.excess.length = 2)
    ∧ ((∃ m : Fin 2, envelope (nth (wBad.put HSM_STATUS_STATE 4).badger.fd m.val 0) (wBad.put HSM_STATUS_STATE 4).slope ((wBad.put HSM_STATUS_STATE 4).badger.tick - (wBad.put HSM_STATUS_STATE 4).badger.ss1At) < 16 * (wBad.put HSM_STATUS_STATE 4).bspdSpeed m.val ∧ 1 ≤ nth (wBad.put HSM_STATUS_STATE 4).badger.excess m.val 0) ∨ (wBad.put HSM_STATUS_STATE 4).badger.ss1At + (wBad.put HSM_STATUS_STATE 4).stopTmo ≤ (wBad.put HSM_STATUS_STATE 4).badger.tick ∨ ((wBad.put HSM_STATUS_STATE 4).bspdSpeed 0 = 0 ∧ (wBad.put HSM_STATUS_STATE 4).bspdSpeed 1 = 0)))
    ∧ ((((wBad.put HSM_STATUS_STATE 4).setBadger { wBad.badger with bspd := [⟨true, some true, 5, some 5999, some 900⟩, ⟨true, some true, 5, some 5999, some 900⟩, ⟨true, some true, 5, none, none⟩, ⟨true, some true, 5, none, none⟩] }).isOn 2 = true)
    ∧ (((wBad.put HSM_STATUS_STATE 4).setBadger { wBad.badger with bspd := [⟨true, some true, 5, some 5999, some 900⟩, ⟨true, some true, 5, some 5999, some 900⟩, ⟨true, some true, 5, none, none⟩, ⟨true, some true, 5, none, none⟩] }).badger.evalAt + 100 ≤ ((wBad.put HSM_STATUS_STATE 4).setBadger { wBad.badger with bspd := [⟨true, some true, 5, some 5999, some 900⟩, ⟨true, some true, 5, some 5999, some 900⟩, ⟨true, some true, 5, none, none⟩, ⟨true, some true, 5, none, none⟩] }).badger.tick)
    ∧ (((wBad.put HSM_STATUS_STATE 4).setBadger { wBad.badger with bspd := [⟨true, some true, 5, some 5999, some 900⟩, ⟨true, some true, 5, some 5999, some 900⟩, ⟨true, some true, 5, none, none⟩, ⟨true, some true, 5, none, none⟩] }).get HSM_STATUS_STATE = 4)
    ∧ (((wBad.put HSM_STATUS_STATE 4).setBadger { wBad.badger with bspd := [⟨true, some true, 5, some 5999, some 900⟩, ⟨true, some true, 5, some 5999, some 900⟩, ⟨true, some true, 5, none, none⟩, ⟨true, some true, 5, none, none⟩] }).badger.excess.length = 2)
    ∧ (¬(∃ m : Fin 2, envelope (nth ((wBad.put HSM_STATUS_STATE 4).setBadger { wBad.badger with bspd := [⟨true, some true, 5, some 5999, some 900⟩, ⟨true, some true, 5, some 5999, some 900⟩, ⟨true, some true, 5, none, none⟩, ⟨true, some true, 5, none, none⟩] }).badger.fd m.val 0) ((wBad.put HSM_STATUS_STATE 4).setBadger { wBad.badger with bspd := [⟨true, some true, 5, some 5999, some 900⟩, ⟨true, some true, 5, some 5999, some 900⟩, ⟨true, some true, 5, none, none⟩, ⟨true, some true, 5, none, none⟩] }).slope (((wBad.put HSM_STATUS_STATE 4).setBadger { wBad.badger with bspd := [⟨true, some true, 5, some 5999, some 900⟩, ⟨true, some true, 5, some 5999, some 900⟩, ⟨true, some true, 5, none, none⟩, ⟨true, some true, 5, none, none⟩] }).badger.tick - ((wBad.put HSM_STATUS_STATE 4).setBadger { wBad.badger with bspd := [⟨true, some true, 5, some 5999, some 900⟩, ⟨true, some true, 5, some 5999, some 900⟩, ⟨true, some true, 5, none, none⟩, ⟨true, some true, 5, none, none⟩] }).badger.ss1At) < 16 * ((wBad.put HSM_STATUS_STATE 4).setBadger { wBad.badger with bspd := [⟨true, some true, 5, some 5999, some 900⟩, ⟨true, some true, 5, some 5999, some 900⟩, ⟨true, some true, 5, none, none⟩, ⟨true, some true, 5, none, none⟩] }).bspdSpeed m.val ∧ 1 ≤ nth ((wBad.put HSM_STATUS_STATE 4).setBadger { wBad.badger with bspd := [⟨true, some true, 5, some 5999, some 900⟩, ⟨true, some true, 5, some 5999, some 900⟩, ⟨true, some true, 5, none, none⟩, ⟨true, some true, 5, none, none⟩] }).badger.excess m.val 0))
    ∧ (¬(((wBad.put HSM_STATUS_STATE 4).setBadger { wBad.badger with bspd := [⟨true, some true, 5, some 5999, some 900⟩, ⟨true, some true, 5, some 5999, some 900⟩, ⟨true, some true, 5, none, none⟩, ⟨true, some true, 5, none, none⟩] }).badger.ss1At + ((wBad.put HSM_STATUS_STATE 4).setBadger { wBad.badger with bspd := [⟨true, some true, 5, some 5999, some 900⟩, ⟨true, some true, 5, some 5999, some 900⟩, ⟨true, some true, 5, none, none⟩, ⟨true, some true, 5, none, none⟩] }).stopTmo ≤ ((wBad.put HSM_STATUS_STATE 4).setBadger { wBad.badger with bspd := [⟨true, some true, 5, some 5999, some 900⟩, ⟨true, some true, 5, some 5999, some 900⟩, ⟨true, some true, 5, none, none⟩, ⟨true, some true, 5, none, none⟩] }).badger.tick))
    ∧ (¬(((wBad.put HSM_STATUS_STATE 4).setBadger { wBad.badger with bspd := [⟨true, some true, 5, some 5999, some 900⟩, ⟨true, some true, 5, some 5999, some 900⟩, ⟨true, some true, 5, none, none⟩, ⟨true, some true, 5, none, none⟩] }).bspdSpeed 0 = 0 ∧ ((wBad.put HSM_STATUS_STATE 4).setBadger { wBad.badger with bspd := [⟨true, some true, 5, some 5999, some 900⟩, ⟨true, some true, 5, some 5999, some 900⟩, ⟨true, some true, 5, none, none⟩, ⟨true, some true, 5, none, none⟩] }).bspdSpeed 1 = 0)))
    ∧ (((((wBad.put HSM_STATUS_STATE 5).put HSM_STATUS_ASC_A 1).put HSM_STATUS_EN 0xF).isOn 2 = true)
    ∧ ((((wBad.put HSM_STATUS_STATE 5).put HSM_STATUS_ASC_A 1).put HSM_STATUS_EN 0xF).badger.evalAt + 100 ≤ (((wBad.put HSM_STATUS_STATE 5).put HSM_STATUS_ASC_A 1).put HSM_STATUS_EN 0xF).badger.tick)
    ∧ ((((wBad.put HSM_STATUS_STATE 5).put HSM_STATUS_ASC_A 1).put HSM_STATUS_EN 0xF).get HSM_STATUS_STATE = 5 ∨ (((wBad.put HSM_STATUS_STATE 5).put HSM_STATUS_ASC_A 1).put HSM_STATUS_EN 0xF).get HSM_STATUS_STATE = 6))
    ∧ (((wBad.put HSM_STATUS_STATE 3).isOn 2 = true)
    ∧ ((wBad.put HSM_STATUS_STATE 3).badger.evalAt + 100 ≤ (wBad.put HSM_STATUS_STATE 3).badger.tick)
    ∧ ((wBad.put HSM_STATUS_STATE 3).get HSM_STATUS_STATE < 4))
    ∧ (((State.reset).isOn 2 = false ∨ (State.reset).badger.tick < (State.reset).badger.evalAt + 100)) := by
  and_intros <;> decide +kernel

theorem witness_badger_stops_enables_and_restarts_part4 :
    ((((wBad.put HSM_STATUS_STATE 3).put HSM_CFG_CFGACK 1).get (SCC_MODE_MODE (1 : Fin 4).val) = 1 ∨ ((wBad.put HSM_STATUS_STATE 3).put HSM_CFG_CFGACK 1).get (SCC_MODE_MODE (1 : Fin 4).val) = 2)
    ∧ (((wBad.put HSM_STATUS_STATE 3).put HSM_CFG_CFGACK 1).badgerDue.get HSM_STATUS_STATE = 3)
    ∧ (((wBad.put HSM_STATUS_STATE 3).put HSM_CFG_CFGACK 1).badgerDue.is HSM_CFG_CFGACK = true)) := by
  and_intros <;> decide +kernel

theorem witness_badger_stops_enables_and_restarts_part5 :
    ((wBad.get (SCC_MODE_MODE (1 : Fin 4).val) = 1 ∨ wBad.get (SCC_MODE_MODE (1 : Fin 4).val) = 2)
    ∧ (wBad.badgerDue.get HSM_STATUS_STATE ≠ 3 ∨ wBad.badgerDue.is HSM_CFG_CFGACK = false)) := by
  and_intros <;> decide +kernel

theorem witness_badger_stops_enables_and_restarts_part6 :
    ((((((wBad.put HSM_STATUS_STATE 5).put HSM_STATUS_STOPCPL 1).put HSM_CFG_CFGACK 1).wr HSM_CAUSE 0x26).get (SCC_MODE_MODE (1 : Fin 4).val) = 1 ∨ ((((wBad.put HSM_STATUS_STATE 5).put HSM_STATUS_STOPCPL 1).put HSM_CFG_CFGACK 1).wr HSM_CAUSE 0x26).get (SCC_MODE_MODE (1 : Fin 4).val) = 2)
    ∧ (((((wBad.put HSM_STATUS_STATE 5).put HSM_STATUS_STOPCPL 1).put HSM_CFG_CFGACK 1).wr HSM_CAUSE 0x26).badgerDue.restOk = true)) := by
  and_intros <;> decide +kernel

theorem witness_badger_stops_enables_and_restarts_part7 :
    ((wBad.get (SCC_MODE_MODE (1 : Fin 4).val) = 1 ∨ wBad.get (SCC_MODE_MODE (1 : Fin 4).val) = 2)
    ∧ (wBad.badgerDue.restOk = false)) := by
  and_intros <;> decide +kernel

theorem witness_badger_watches_inputs_speeds_and_tasks :
    ((bitOf (3 : Fin 8).val wBad.badger.pads ≠ (true : Bool))
    ∧ (wBad.badger.padAt.length = 8))
    ∧ ((bitOf (3 : Fin 8).val wBad.badger.pads = (false : Bool)))
    ∧ (((wBad.put HSM_SIN_DEM 0).isOn 2 = true)
    ∧ ((wBad.put HSM_SIN_DEM 0).bit HSM_SIN_DEM (3 : Fin 8).val = bitOf (3 : Fin 8).val (wBad.put HSM_SIN_DEM 0).badger.pads)
    ∧ (nth (wBad.put HSM_SIN_DEM 0).badger.padAt (3 : Fin 8).val 0 + 200 ≤ (wBad.put HSM_SIN_DEM 0).badger.tick))
    ∧ (((((wBad.put HSM_SIN_DEM 0).put HSM_CFG_SAFECFG 0x7C00).put HSM_STATUS_STATE 3).isOn 2 = true)
    ∧ (bitOf (3 : Fin 8).val (((wBad.put HSM_SIN_DEM 0).put HSM_CFG_SAFECFG 0x7C00).put HSM_STATUS_STATE 3).badger.pads = false)
    ∧ ((((wBad.put HSM_SIN_DEM 0).put HSM_CFG_SAFECFG 0x7C00).put HSM_STATUS_STATE 3).bit HSM_SIN_DEM (3 : Fin 8).val = false)
    ∧ (nth (((wBad.put HSM_SIN_DEM 0).put HSM_CFG_SAFECFG 0x7C00).put HSM_STATUS_STATE 3).badger.padAt (3 : Fin 8).val 0 + 200 ≤ (((wBad.put HSM_SIN_DEM 0).put HSM_CFG_SAFECFG 0x7C00).put HSM_STATUS_STATE 3).badger.tick)
    ∧ ((((wBad.put HSM_SIN_DEM 0).put HSM_CFG_SAFECFG 0x7C00).put HSM_STATUS_STATE 3).sinEn ((3 : Fin 8).val / 2) = true)
    ∧ ((((wBad.put HSM_SIN_DEM 0).put HSM_CFG_SAFECFG 0x7C00).put HSM_STATUS_STATE 3).get HSM_STATUS_STATE = 3))
    ∧ (((State.reset).isOn 2 = false ∨ (State.reset).bit HSM_SIN_DEM (3 : Fin 8).val ≠ bitOf (3 : Fin 8).val (State.reset).badger.pads ∨ (State.reset).badger.tick < nth (State.reset).badger.padAt (3 : Fin 8).val 0 + 200))
    ∧ ((nth (((wBad.put HSM_SIN_DEM 0x4).put HSM_CFG_SAFECFG 0x3C00).setBadger { wBad.badger with tick := 10 ^ 8, disc := [none, some 5, none, none] }).badger.disc (1 : Fin 4).val none = some (5 : Nat))
    ∧ ((((wBad.put HSM_SIN_DEM 0x4).put HSM_CFG_SAFECFG 0x3C00).setBadger { wBad.badger with tick := 10 ^ 8, disc := [none, some 5, none, none] }).badger.disc.length = 4)
    ∧ ((((wBad.put HSM_SIN_DEM 0x4).put HSM_CFG_SAFECFG 0x3C00).setBadger { wBad.badger with tick := 10 ^ 8, disc := [none, some 5, none, none] }).isOn 2 = true)
    ∧ ((((wBad.put HSM_SIN_DEM 0x4).put HSM_CFG_SAFECFG 0x3C00).setBadger { wBad.badger with tick := 10 ^ 8, disc := [none, some 5, none, none] }).sinEn (1 : Fin 4).val = true)
    ∧ ((((wBad.put HSM_SIN_DEM 0x4).put HSM_CFG_SAFECFG 0x3C00).setBadger { wBad.badger with tick := 10 ^ 8, disc := [none, some 5, none, none] }).bit HSM_SIN_DEM (2 * (1 : Fin 4).val) ≠ (((wBad.put HSM_SIN_DEM 0x4).put HSM_CFG_SAFECFG 0x3C00).setBadger { wBad.badger with tick := 10 ^ 8, disc := [none, some 5, none, none] }).bit HSM_SIN_DEM (2 * (1 : Fin 4).val + 1))
    ∧ ((5 : Nat) + (((wBad.put HSM_SIN_DEM 0x4).put HSM_CFG_SAFECFG 0x3C00).setBadger { wBad.badger with tick := 10 ^ 8, disc := [none, some 5, none, none] }).discWin ≤ (((wBad.put HSM_SIN_DEM 0x4).put HSM_CFG_SAFECFG 0x3C00).setBadger { wBad.badger with tick := 10 ^ 8, disc := [none, some 5, none, none] }).badger.tick)) := by
  and_intros <;> decide +kernel

theorem witness_badger_watches_inputs_speeds_and_tasks_part2 :
    (((State.reset).isOn 2 = false ∨ (State.reset).sinEn (1 : Fin 4).val = false ∨ ¬((State.reset).bit HSM_SIN_DEM (2 * (1 : Fin 4).val) ≠ (State.reset).bit HSM_SIN_DEM (2 * (1 : Fin 4).val + 1)) ∨ ∀ u ∈ nth (State.reset).badger.disc (1 : Fin 4).val none, (State.reset).badger.tick < u + (State.reset).discWin))
    ∧ (((wBad.bspdCh (3 : Fin 4).val).pad ≠ (true : Bool))
    ∧ (wBad.badger.bspd.length = 4))
    ∧ (((wBad.bspdCh (3 : Fin 4).val).pad = (false : Bool)))
    ∧ (((wBad.setBspd 3 ⟨true, some false, 5000, some 900, none⟩).isOn 2 = true)
    ∧ ((wBad.setBspd 3 ⟨true, some false, 5000, some 900, none⟩).badger.bspd.length = 4)
    ∧ (((wBad.setBspd 3 ⟨true, some false, 5000, some 900, none⟩).bspdCh (3 : Fin 4).val).changeAt + 3 ≤ (wBad.setBspd 3 ⟨true, some false, 5000, some 900, none⟩).badger.tick)
    ∧ (((wBad.setBspd 3 ⟨true, some false, 5000, some 900, none⟩).bspdCh (3 : Fin 4).val).accepted = some false)
    ∧ (((wBad.setBspd 3 ⟨true, some false, 5000, some 900, none⟩).bspdCh (3 : Fin 4).val).pad = true))
    ∧ (((wBad.setBspd 3 ⟨true, none, 5000, some 900, none⟩).isOn 2 = true)
    ∧ ((wBad.setBspd 3 ⟨true, none, 5000, some 900, none⟩).badger.bspd.length = 4)
    ∧ (((wBad.setBspd 3 ⟨true, none, 5000, some 900, none⟩).bspdCh (3 : Fin 4).val).changeAt + 3 ≤ (wBad.setBspd 3 ⟨true, none, 5000, some 900, none⟩).badger.tick)
    ∧ (((wBad.setBspd 3 ⟨true, none, 5000, some 900, none⟩).bspdCh (3 : Fin 4).val).accepted ≠ some ((wBad.setBspd 3 ⟨true, none, 5000, some 900, none⟩).bspdCh (3 : Fin 4).val).pad)
    ∧ (((wBad.setBspd 3 ⟨true, none, 5000, some 900, none⟩).bspdCh (3 : Fin 4).val).accepted ≠ some false))
    ∧ (((State.reset).isOn 2 = false ∨ (State.reset).badger.tick < ((State.reset).bspdCh (3 : Fin 4).val).changeAt + 3 ∨ ((State.reset).bspdCh (3 : Fin 4).val).accepted = some ((State.reset).bspdCh (3 : Fin 4).val).pad)) := by
  and_intros <;> decide +kernel

theorem witness_badger_watches_inputs_speeds_and_tasks_part3 :
    (((((wBad.wr (HSM_SPD 1) 0xFFFFFFFF).setBadger { wBad.badger with tick := 10 ^ 8, bspd := List.replicate 4 ⟨true, some true, 5, some 5, some 7⟩ }).bspdCh (3 : Fin 4).val).lastEdge = some (5 : Nat))
    ∧ (((wBad.wr (HSM_SPD 1) 0xFFFFFFFF).setBadger { wBad.badger with tick := 10 ^ 8, bspd := List.replicate 4 ⟨true, some true, 5, some 5, some 7⟩ }).isOn 2 = true)
    ∧ ((5 : Nat) + 50000 ≤ ((wBad.wr (HSM_SPD 1) 0xFFFFFFFF).setBadger { wBad.badger with tick := 10 ^ 8, bspd := List.replicate 4 ⟨true, some true, 5, some 5, some 7⟩ }).badger.tick))
    ∧ (((State.reset).isOn 2 = false ∨ ∀ l ∈ ((State.reset).bspdCh (3 : Fin 4).val).lastEdge, (State.reset).badger.tick < l + 50000))
    ∧ ((nth (wBad.setBadger { wBad.badger with tick := 10 ^ 6, plaus := [none, some 5], bspd := [⟨true, some true, 5, none, none⟩, ⟨true, some true, 5, none, none⟩, ⟨true, some true, 5, some 999000, some 1000⟩, ⟨true, some true, 5, none, none⟩] }).badger.plaus (1 : Fin 2).val none = some (5 : Nat))
    ∧ ((wBad.setBadger { wBad.badger with tick := 10 ^ 6, plaus := [none, some 5], bspd := [⟨true, some true, 5, none, none⟩, ⟨true, some true, 5, none, none⟩, ⟨true, some true, 5, some 999000, some 1000⟩, ⟨true, some true, 5, none, none⟩] }).isOn 2 = true)
    ∧ ((5 : Nat) + 19999 ≤ (wBad.setBadger { wBad.badger with tick := 10 ^ 6, plaus := [none, some 5], bspd := [⟨true, some true, 5, none, none⟩, ⟨true, some true, 5, none, none⟩, ⟨true, some true, 5, some 999000, some 1000⟩, ⟨true, some true, 5, none, none⟩] }).badger.tick)
    ∧ ((wBad.setBadger { wBad.badger with tick := 10 ^ 6, plaus := [none, some 5], bspd := [⟨true, some true, 5, none, none⟩, ⟨true, some true, 5, none, none⟩, ⟨true, some true, 5, some 999000, some 1000⟩, ⟨true, some true, 5, none, none⟩] }).bspdDiffer (1 : Fin 2).val = true))
    ∧ (((State.reset).isOn 2 = false ∨ (State.reset).bspdDiffer (1 : Fin 2).val = false ∨ ∀ u ∈ nth (State.reset).badger.plaus (1 : Fin 2).val none, (State.reset).badger.tick < u + 19999))
    ∧ (((((wBad.put HSM_CFG_CFGACK 1).put (HSM_WDCFG_EN 3) 1).setWd 3 ⟨0, true, none⟩ |>.setWd 2 ⟨0, true, none⟩).wdLive (3 : Fin 8).val = true)
    ∧ (((((wBad.put HSM_CFG_CFGACK 1).put (HSM_WDCFG_EN 3) 1).setWd 3 ⟨0, true, none⟩ |>.setWd 2 ⟨0, true, none⟩).wdOf (3 : Fin 8).val).qAt + (((wBad.put HSM_CFG_CFGACK 1).put (HSM_WDCFG_EN 3) 1).setWd 3 ⟨0, true, none⟩ |>.setWd 2 ⟨0, true, none⟩).wdPeriod (3 : Fin 8).val ≤ (((wBad.put HSM_CFG_CFGACK 1).put (HSM_WDCFG_EN 3) 1).setWd 3 ⟨0, true, none⟩ |>.setWd 2 ⟨0, true, none⟩).badger.tick)
    ∧ ((((wBad.put HSM_CFG_CFGACK 1).put (HSM_WDCFG_EN 3) 1).setWd 3 ⟨0, true, none⟩ |>.setWd 2 ⟨0, true, none⟩).badger.wd.length = 8)
    ∧ (((((wBad.put HSM_CFG_CFGACK 1).put (HSM_WDCFG_EN 3) 1).setWd 3 ⟨0, true, none⟩ |>.setWd 2 ⟨0, true, none⟩).wdOf (3 : Fin 8).val).answered = true))
    ∧ ((((wBad.put HSM_CFG_CFGACK 1).put (HSM_WDCFG_EN 3) 1).wdLive (3 : Fin 8).val = true)
    ∧ ((((wBad.put HSM_CFG_CFGACK 1).put (HSM_WDCFG_EN 3) 1).wdOf (3 : Fin 8).val).qAt + ((wBad.put HSM_CFG_CFGACK 1).put (HSM_WDCFG_EN 3) 1).wdPeriod (3 : Fin 8).val ≤ ((wBad.put HSM_CFG_CFGACK 1).put (HSM_WDCFG_EN 3) 1).badger.tick)
    ∧ ((((wBad.put HSM_CFG_CFGACK 1).put (HSM_WDCFG_EN 3) 1).wdOf (3 : Fin 8).val).answered = false)) := by
  and_intros <;> decide +kernel

theorem witness_badger_watches_inputs_speeds_and_tasks_part4 :
    (((State.reset).wdLive (3 : Fin 8).val = false ∨ (State.reset).badger.tick < ((State.reset).wdOf (3 : Fin 8).val).qAt + (State.reset).wdPeriod (3 : Fin 8).val))
    ∧ (((((((wBad.put HSM_CFG_CFGACK 1).wr (HSM_WDCFG 3) 0x90000001).put (HSM_WDQ_ERR 3) 2).setBadger { wBad.badger with wd := List.replicate 8 ⟨5950, false, none⟩ })).get (SCC_MODE_MODE (1 : Fin 4).val) = 1 ∨ (((((wBad.put HSM_CFG_CFGACK 1).wr (HSM_WDCFG 3) 0x90000001).put (HSM_WDQ_ERR 3) 2).setBadger { wBad.badger with wd := List.replicate 8 ⟨5950, false, none⟩ })).get (SCC_MODE_MODE (1 : Fin 4).val) = 2)
    ∧ ((((((wBad.put HSM_CFG_CFGACK 1).wr (HSM_WDCFG 3) 0x90000001).put (HSM_WDQ_ERR 3) 2).setBadger { wBad.badger with wd := List.replicate 8 ⟨5950, false, none⟩ })).is (HSM_WDCFG_EN (3 : Fin 8).val) = true)
    ∧ ((((((wBad.put HSM_CFG_CFGACK 1).wr (HSM_WDCFG 3) 0x90000001).put (HSM_WDQ_ERR 3) 2).setBadger { wBad.badger with wd := List.replicate 8 ⟨5950, false, none⟩ })).is HSM_CFG_CFGACK = true)
    ∧ ((((((wBad.put HSM_CFG_CFGACK 1).wr (HSM_WDCFG 3) 0x90000001).put (HSM_WDQ_ERR 3) 2).setBadger { wBad.badger with wd := List.replicate 8 ⟨5950, false, none⟩ })).get (HSM_WDCFG_CORE (3 : Fin 8).val) = (1 : Fin 4).val)
    ∧ ((((((wBad.put HSM_CFG_CFGACK 1).wr (HSM_WDCFG 3) 0x90000001).put (HSM_WDQ_ERR 3) 2).setBadger { wBad.badger with wd := List.replicate 8 ⟨5950, false, none⟩ })).badger.wd.length = 8)
    ∧ ((((((((wBad.put HSM_CFG_CFGACK 1).wr (HSM_WDCFG 3) 0x90000001).put (HSM_WDQ_ERR 3) 2).setBadger { wBad.badger with wd := List.replicate 8 ⟨5950, false, none⟩ })).wdQuestion (3 : Fin 8).val).wdOf (3 : Fin 8).val).answered = false ∧ (((((wBad.put HSM_CFG_CFGACK 1).wr (HSM_WDCFG 3) 0x90000001).put (HSM_WDQ_ERR 3) 2).setBadger { wBad.badger with wd := List.replicate 8 ⟨5950, false, none⟩ })).wdOpen (3 : Fin 8).val ≤ (((((wBad.put HSM_CFG_CFGACK 1).wr (HSM_WDCFG 3) 0x90000001).put (HSM_WDQ_ERR 3) 2).setBadger { wBad.badger with wd := List.replicate 8 ⟨5950, false, none⟩ })).badger.tick - (((((((wBad.put HSM_CFG_CFGACK 1).wr (HSM_WDCFG 3) 0x90000001).put (HSM_WDQ_ERR 3) 2).setBadger { wBad.badger with wd := List.replicate 8 ⟨5950, false, none⟩ })).wdQuestion (3 : Fin 8).val).wdOf (3 : Fin 8).val).qAt ∧ bitsOf 7 0 (BitVec.ofNat 32 (0x12300 + crc8 [3, (wBad.get (HSM_WDQ_Q 3))]) : Word).toNat = crc8 [(3 : Fin 8).val, ((((((wBad.put HSM_CFG_CFGACK 1).wr (HSM_WDCFG 3) 0x90000001).put (HSM_WDQ_ERR 3) 2).setBadger { wBad.badger with wd := List.replicate 8 ⟨5950, false, none⟩ })).wdQuestion (3 : Fin 8).val).get (HSM_WDQ_Q (3 : Fin 8).val)] ∧ tbOk (((((((wBad.put HSM_CFG_CFGACK 1).wr (HSM_WDCFG 3) 0x90000001).put (HSM_WDQ_ERR 3) 2).setBadger { wBad.badger with wd := List.replicate 8 ⟨5950, false, none⟩ })).wdQuestion (3 : Fin 8).val).wdOf (3 : Fin 8).val).last (bitsOf 31 8 (BitVec.ofNat 32 (0x12300 + crc8 [3, (wBad.get (HSM_WDQ_Q 3))]) : Word).toNat) (((((wBad.put HSM_CFG_CFGACK 1).wr (HSM_WDCFG 3) 0x90000001).put (HSM_WDQ_ERR 3) 2).setBadger { wBad.badger with wd := List.replicate 8 ⟨5950, false, none⟩ })).badger.tick = true))
    ∧ (((((wBad.put HSM_CFG_CFGACK 1).wr (HSM_WDCFG 3) 0x90000001)).get (SCC_MODE_MODE (1 : Fin 4).val) = 1 ∨ (((wBad.put HSM_CFG_CFGACK 1).wr (HSM_WDCFG 3) 0x90000001)).get (SCC_MODE_MODE (1 : Fin 4).val) = 2)
    ∧ ((((wBad.put HSM_CFG_CFGACK 1).wr (HSM_WDCFG 3) 0x90000001)).is (HSM_WDCFG_EN (3 : Fin 8).val) = true)
    ∧ ((((wBad.put HSM_CFG_CFGACK 1).wr (HSM_WDCFG 3) 0x90000001)).is HSM_CFG_CFGACK = true)
    ∧ ((((wBad.put HSM_CFG_CFGACK 1).wr (HSM_WDCFG 3) 0x90000001)).get (HSM_WDCFG_CORE (3 : Fin 8).val) = (1 : Fin 4).val)
    ∧ (¬((((((wBad.put HSM_CFG_CFGACK 1).wr (HSM_WDCFG 3) 0x90000001)).wdQuestion (3 : Fin 8).val).wdOf (3 : Fin 8).val).answered = false ∧ (((wBad.put HSM_CFG_CFGACK 1).wr (HSM_WDCFG 3) 0x90000001)).wdOpen (3 : Fin 8).val ≤ (((wBad.put HSM_CFG_CFGACK 1).wr (HSM_WDCFG 3) 0x90000001)).badger.tick - (((((wBad.put HSM_CFG_CFGACK 1).wr (HSM_WDCFG 3) 0x90000001)).wdQuestion (3 : Fin 8).val).wdOf (3 : Fin 8).val).qAt ∧ bitsOf 7 0 (BitVec.ofNat 32 (0x12301 + crc8 [3, (wBad.get (HSM_WDQ_Q 3))]) : Word).toNat = crc8 [(3 : Fin 8).val, ((((wBad.put HSM_CFG_CFGACK 1).wr (HSM_WDCFG 3) 0x90000001)).wdQuestion (3 : Fin 8).val).get (HSM_WDQ_Q (3 : Fin 8).val)] ∧ tbOk (((((wBad.put HSM_CFG_CFGACK 1).wr (HSM_WDCFG 3) 0x90000001)).wdQuestion (3 : Fin 8).val).wdOf (3 : Fin 8).val).last (bitsOf 31 8 (BitVec.ofNat 32 (0x12301 + crc8 [3, (wBad.get (HSM_WDQ_Q 3))]) : Word).toNat) (((wBad.put HSM_CFG_CFGACK 1).wr (HSM_WDCFG 3) 0x90000001)).badger.tick = true)))
    ∧ (((((wBad.put HSM_CFG_CFGACK 1).wr (HSM_WDCFG 3) 0xA0000001)).get (SCC_MODE_MODE (1 : Fin 4).val) = 1 ∨ (((wBad.put HSM_CFG_CFGACK 1).wr (HSM_WDCFG 3) 0xA0000001)).get (SCC_MODE_MODE (1 : Fin 4).val) = 2)
    ∧ ((((wBad.put HSM_CFG_CFGACK 1).wr (HSM_WDCFG 3) 0xA0000001)).is (HSM_WDCFG_EN (3 : Fin 8).val) = true)
    ∧ ((((wBad.put HSM_CFG_CFGACK 1).wr (HSM_WDCFG 3) 0xA0000001)).is HSM_CFG_CFGACK = true)
    ∧ ((((wBad.put HSM_CFG_CFGACK 1).wr (HSM_WDCFG 3) 0xA0000001)).get (HSM_WDCFG_CORE (3 : Fin 8).val) ≠ (1 : Fin 4).val))
    ∧ ((wBad.get (SCC_MODE_MODE (1 : Fin 4).val) = 1 ∨ wBad.get (SCC_MODE_MODE (1 : Fin 4).val) = 2)
    ∧ (wBad.is (HSM_WDCFG_EN (3 : Fin 8).val) = false ∨ wBad.is HSM_CFG_CFGACK = false))
    ∧ ((∀ c : Fin 4, ∀ th : Fin 3, (.sc 0 1 : Initiator) = .sc c th → wOn.get (SCC_MODE_MODE c.val) ≠ 1 ∧ wOn.get (SCC_MODE_MODE c.val) ≠ 2)) := by
  and_intros <;> decide +kernel

theorem witness_copies_are_compared_before_a_write_leaves :
    ((wSc.scRuns (2 : Fin 4).val = true)
    ∧ ((wSc.scOf (2 : Fin 4).val).order ≠ [])
    ∧ (∀ o ∈ (wSc.scOf (2 : Fin 4).val).order, cmpAgree (⟨none, some [5, 5, 5], 0, 0, 0x100, 7, 3⟩ : CmpPoint) ((wSc.scOf (2 : Fin 4).val).order.headD 0) o = true)
    ∧ ((⟨none, some [5, 5, 5], 0, 0, 0x100, 7, 3⟩ : CmpPoint).write = none))
    ∧ ((wOn.scRuns (1 : Fin 4).val = false ∨ (wOn.scOf (1 : Fin 4).val).order = []))
    ∧ ((wSc.scRuns (1 : Fin 4).val = true)
    ∧ ((wSc.scOf (1 : Fin 4).val).order ≠ [])
    ∧ (∀ o ∈ (wSc.scOf (1 : Fin 4).val).order, cmpAgree (⟨some [⟨0x20001000, leBytes 4 0x11223344, 0⟩, ⟨0x20001000, leBytes 4 0x11223344, 0⟩], none, 0, 0, 0x100, 7, 3⟩ : CmpPoint) ((wSc.scOf (1 : Fin 4).val).order.headD 0) o = true)
    ∧ (cmpPresent (⟨some [⟨0x20001000, leBytes 4 0x11223344, 0⟩, ⟨0x20001000, leBytes 4 0x11223344, 0⟩], none, 0, 0, 0x100, 7, 3⟩ : CmpPoint) ((wSc.scOf (1 : Fin 4).val).order.headD 0) = some ⟨(0x20001000 : Word), leBytes 4 (0x11223344 : Word).toNat, (0 : Nat)⟩)
    ∧ (wSc.inRegion (1 : Fin 4).val (0x20001000 : Word).toNat = false)
    ∧ (0x20000000 ≤ (0x20001000 : Word).toNat)
    ∧ ((0x20001000 : Word).toNat + 4 ≤ 0x21F80000)
    ∧ (wSc.answers (wSc.scIni (1 : Fin 4) 0) (0x20001000 : Word).toNat = true)
    ∧ (wSc.busOk (wSc.scIni (1 : Fin 4) 0) (0x20001000 : Word).toNat true 4 = true))
    ∧ ((wSc.scRuns (1 : Fin 4).val = true)
    ∧ ((wSc.scOf (1 : Fin 4).val).order = [0, 1])
    ∧ ((wSc.scOf (1 : Fin 4).val).odd = none)
    ∧ (cmpAgree (⟨some [⟨0x20100040, leBytes 4 0x11223344, 0⟩, ⟨0x20100040, leBytes 4 0x11223344, 0⟩], none, 0, 0, 0x100, 7, 3⟩ : CmpPoint) 0 1 = true)
    ∧ (cmpPresent (⟨some [⟨0x20100040, leBytes 4 0x11223344, 0⟩, ⟨0x20100040, leBytes 4 0x11223344, 0⟩], none, 0, 0, 0x100, 7, 3⟩ : CmpPoint) 0 = some ⟨(0x20100040 : Word), leBytes 4 (0x11223344 : Word).toNat, (0 : Nat)⟩)
    ∧ (wSc.inRegion (1 : Fin 4).val (0x20100040 : Word).toNat = true)
    ∧ (∀ i j : Fin 4, wSc.imgAddr (1 : Fin 4).val 0 ((0x20100040 : Word).toNat + i.val) ≠ wSc.imgAddr (1 : Fin 4).val 1 ((0x20100040 : Word).toNat + j.val))
    ∧ (∀ i j : Fin 4, i ≠ j → wSc.imgAddr (1 : Fin 4).val 1 ((0x20100040 : Word).toNat + i.val) ≠ wSc.imgAddr (1 : Fin 4).val 1 ((0x20100040 : Word).toNat + j.val)))
    ∧ ((wSc.scc.length = 4)
    ∧ (wSc.scRuns (2 : Fin 4).val = true)
    ∧ (∃ o ∈ (wSc.scOf (2 : Fin 4).val).order, cmpAgree (⟨none, some [5, 5, 6], 0, 0, 0x100, 7, 3⟩ : CmpPoint) ((wSc.scOf (2 : Fin 4).val).order.headD 0) o = false)
    ∧ (((wSc.scOf (2 : Fin 4).val).order.find? (fun o => match (wSc.scOf (2 : Fin 4).val).order.filter (fun y => y != o) with | [y, z] => cmpAgree (⟨none, some [5, 5, 6], 0, 0, 0x100, 7, 3⟩ : CmpPoint) y z | _ => false)) = some (2 : Nat))
    ∧ ((2 : Nat) < 3)
    ∧ ((⟨none, some [5, 5, 6], 0, 0, 0x100, 7, 3⟩ : CmpPoint).write = none)
    ∧ (permanent (wSc.scOf (2 : Fin 4).val).hist (2 : Nat) wSc.timebase = false))
    ∧ (((wSc.setScc 2 { ScCore.idle with order := [0, 1, 2], hist := [(2, 0), (2, 0)] }).scc.length = 4)
    ∧ ((wSc.setScc 2 { ScCore.idle with order := [0, 1, 2], hist := [(2, 0), (2, 0)] }).scRuns (2 : Fin 4).val = true)
    ∧ (∃ o ∈ ((wSc.setScc 2 { ScCore.idle with order := [0, 1, 2], hist := [(2, 0), (2, 0)] }).scOf (2 : Fin 4).val).order, cmpAgree (⟨none, some [5, 5, 6], 0, 0, 0x100, 7, 3⟩ : CmpPoint) (((wSc.setScc 2 { ScCore.idle with order := [0, 1, 2], hist := [(2, 0), (2, 0)] }).scOf (2 : Fin 4).val).order.headD 0) o = false)
    ∧ ((((wSc.setScc 2 { ScCore.idle with order := [0, 1, 2], hist := [(2, 0), (2, 0)] }).scOf (2 : Fin 4).val).order.find? (fun o => match ((wSc.setScc 2 { ScCore.idle with order := [0, 1, 2], hist := [(2, 0), (2, 0)] }).scOf (2 : Fin 4).val).order.filter (fun y => y != o) with | [y, z] => cmpAgree (⟨none, some [5, 5, 6], 0, 0, 0x100, 7, 3⟩ : CmpPoint) y z | _ => false)) = some (2 : Nat))
    ∧ ((2 : Nat) < 3)
    ∧ ((⟨none, some [5, 5, 6], 0, 0, 0x100, 7, 3⟩ : CmpPoint).write = none)
    ∧ (permanent ((wSc.setScc 2 { ScCore.idle with order := [0, 1, 2], hist := [(2, 0), (2, 0)] }).scOf (2 : Fin 4).val).hist (2 : Nat) (wSc.setScc 2 { ScCore.idle with order := [0, 1, 2], hist := [(2, 0), (2, 0)] }).timebase = true)) := by
  and_intros <;> decide +kernel

theorem witness_copies_are_compared_before_a_write_leaves_part2 :
    ((wSc.scc.length = 4)
    ∧ (wSc.scRuns (2 : Fin 4).val = true)
    ∧ (∃ o ∈ (wSc.scOf (2 : Fin 4).val).order, cmpAgree (⟨some [⟨0x20001000, leBytes 4 0x11223344, 0⟩, ⟨0x20001000, leBytes 4 0x11223345, 0⟩, ⟨0x20001000, leBytes 4 0x11223344, 0⟩], none, 0, 0, 0x100, 7, 3⟩ : CmpPoint) ((wSc.scOf (2 : Fin 4).val).order.headD 0) o = false)
    ∧ (((wSc.scOf (2 : Fin 4).val).order.find? (fun o => match (wSc.scOf (2 : Fin 4).val).order.filter (fun y => y != o) with | [y, z] => cmpAgree (⟨some [⟨0x20001000, leBytes 4 0x11223344, 0⟩, ⟨0x20001000, leBytes 4 0x11223345, 0⟩, ⟨0x20001000, leBytes 4 0x11223344, 0⟩], none, 0, 0, 0x100, 7, 3⟩ : CmpPoint) y z | _ => false)) = some (1 : Nat))
    ∧ ((1 : Nat) < 3)
    ∧ (cmpPresent (⟨some [⟨0x20001000, leBytes 4 0x11223344, 0⟩, ⟨0x20001000, leBytes 4 0x11223345, 0⟩, ⟨0x20001000, leBytes 4 0x11223344, 0⟩], none, 0, 0, 0x100, 7, 3⟩ : CmpPoint) (((wSc.scOf (2 : Fin 4).val).order.filter (fun y => y != (1 : Nat))).headD 0) = some ⟨(0x20001000 : Word), leBytes 4 (0x11223344 : Word).toNat, (0 : Nat)⟩)
    ∧ (wSc.inRegion (2 : Fin 4).val (0x20001000 : Word).toNat = false)
    ∧ (0x20000000 ≤ (0x20001000 : Word).toNat)
    ∧ ((0x20001000 : Word).toNat + 4 ≤ 0x21F80000)
    ∧ (wSc.isOn 4 = true)
    ∧ (wSc.pllA = true))
    ∧ ((wSc.scc.length = 4)
    ∧ (wSc.scRuns (1 : Fin 4).val = true)
    ∧ (∃ o ∈ (wSc.scOf (1 : Fin 4).val).order, cmpAgree (⟨some [⟨0x20001000, leBytes 4 0x11223344, 0⟩, ⟨0x20001000, leBytes 4 0x11223345, 0⟩], none, 0, 0, 0x100, 7, 3⟩ : CmpPoint) ((wSc.scOf (1 : Fin 4).val).order.headD 0) o = false)
    ∧ (((wSc.scOf (1 : Fin 4).val).order.find? (fun o => match (wSc.scOf (1 : Fin 4).val).order.filter (fun y => y != o) with | [y, z] => cmpAgree (⟨some [⟨0x20001000, leBytes 4 0x11223344, 0⟩, ⟨0x20001000, leBytes 4 0x11223345, 0⟩], none, 0, 0, 0x100, 7, 3⟩ : CmpPoint) y z | _ => false)) = none))
    ∧ (((((wSc.put (SCC_STAT_STATE 2) 2).setScc 2 { ScCore.idle with order := [0, 2], odd := some 1 })).scc.length = 4)
    ∧ ((((wSc.put (SCC_STAT_STATE 2) 2).setScc 2 { ScCore.idle with order := [0, 2], odd := some 1 })).scRuns (2 : Fin 4).val = true)
    ∧ (((((wSc.put (SCC_STAT_STATE 2) 2).setScc 2 { ScCore.idle with order := [0, 2], odd := some 1 })).scOf (2 : Fin 4).val).odd = some (1 : Nat)))
    ∧ (((wSc.scOf (2 : Fin 4).val).odd = none ∨ wSc.scRuns (2 : Fin 4).val = false))
    ∧ (((wSc.wrMem32 0x20001000 0x80000001).sc.length = 12)
    ∧ ((wSc.wrMem32 0x20001000 0x80000001).scc.length = 4)
    ∧ ((wSc.wrMem32 0x20001000 0x80000001).scRuns (1 : Fin 4).val = true)
    ∧ (((wSc.wrMem32 0x20001000 0x80000001).scOf (1 : Fin 4).val).order ≠ [])
    ∧ (∀ o ∈ ((wSc.wrMem32 0x20001000 0x80000001).scOf (1 : Fin 4).val).order, cmpAgree (⟨some [⟨0x20001000, leBytes 4 0x11223344, 0⟩, ⟨0x20001000, leBytes 4 0x11223344, 0⟩], none, 0, 0, 0x100, 7, 3⟩ : CmpPoint) (((wSc.wrMem32 0x20001000 0x80000001).scOf (1 : Fin 4).val).order.headD 0) o = true)
    ∧ (cmpPresent (⟨some [⟨0x20001000, leBytes 4 0x11223344, 0⟩, ⟨0x20001000, leBytes 4 0x11223344, 0⟩], none, 0, 0, 0x100, 7, 3⟩ : CmpPoint) (((wSc.wrMem32 0x20001000 0x80000001).scOf (1 : Fin 4).val).order.headD 0) = some ⟨(0x20001000 : Word), (leBytes 4 0x11223344 : List Byte), (0 : Nat)⟩)
    ∧ ((wSc.wrMem32 0x20001000 0x80000001).puAllows ((1 : Fin 4).val * 3) (0x20001000 : Word).toNat (leBytes 4 0x11223344 : List Byte).length 1 false = true)
    ∧ ((wSc.wrMem32 0x20001000 0x80000001).answers ((wSc.wrMem32 0x20001000 0x80000001).scIni (1 : Fin 4) 0) (0x20001000 : Word).toNat = true)
    ∧ ((wSc.wrMem32 0x20001000 0x80000001).busOk ((wSc.wrMem32 0x20001000 0x80000001).scIni (1 : Fin 4) 0) (0x20001000 : Word).toNat false (leBytes 4 0x11223344 : List Byte).length = true)
    ∧ (0x20000000 ≤ (0x20001000 : Word).toNat)
    ∧ ((0x20001000 : Word).toNat + (leBytes 4 0x11223344 : List Byte).length ≤ 0x21F80000)
    ∧ ((wSc.wrMem32 0x20001000 0x80000001).busOk ((wSc.wrMem32 0x20001000 0x80000001).scIni (1 : Fin 4) 0) (0x20001000 : Word).toNat true (leBytes 4 0x11223344 : List Byte).length = true)
    ∧ ((.min : AmoOp) ≠ .lr)
    ∧ ((.min : AmoOp) ≠ .sc))
    ∧ (((wSc.wrMem32 0x20001000 0x80000001).sc.length = 12)
    ∧ ((wSc.wrMem32 0x20001000 0x80000001).scc.length = 4)
    ∧ ((wSc.wrMem32 0x20001000 0x80000001).scRuns (1 : Fin 4).val = true)
    ∧ (((wSc.wrMem32 0x20001000 0x80000001).scOf (1 : Fin 4).val).order ≠ [])
    ∧ (∀ o ∈ ((wSc.wrMem32 0x20001000 0x80000001).scOf (1 : Fin 4).val).order, cmpAgree (⟨some [⟨0x20001000, leBytes 4 0x11223344, 0⟩, ⟨0x20001000, leBytes 4 0x11223344, 0⟩], none, 0, 0, 0x100, 7, 3⟩ : CmpPoint) (((wSc.wrMem32 0x20001000 0x80000001).scOf (1 : Fin 4).val).order.headD 0) o = true)
    ∧ (cmpPresent (⟨some [⟨0x20001000, leBytes 4 0x11223344, 0⟩, ⟨0x20001000, leBytes 4 0x11223344, 0⟩], none, 0, 0, 0x100, 7, 3⟩ : CmpPoint) (((wSc.wrMem32 0x20001000 0x80000001).scOf (1 : Fin 4).val).order.headD 0) = some ⟨(0x20001000 : Word), (leBytes 4 0x11223344 : List Byte), (0 : Nat)⟩)
    ∧ ((wSc.wrMem32 0x20001000 0x80000001).puAllows ((1 : Fin 4).val * 3) (0x20001000 : Word).toNat (leBytes 4 0x11223344 : List Byte).length 0 false = true)
    ∧ ((wSc.wrMem32 0x20001000 0x80000001).answers ((wSc.wrMem32 0x20001000 0x80000001).scIni (1 : Fin 4) 0) (0x20001000 : Word).toNat = true)
    ∧ ((wSc.wrMem32 0x20001000 0x80000001).busOk ((wSc.wrMem32 0x20001000 0x80000001).scIni (1 : Fin 4) 0) (0x20001000 : Word).toNat false (leBytes 4 0x11223344 : List Byte).length = true)
    ∧ (0x20000000 ≤ (0x20001000 : Word).toNat)
    ∧ ((0x20001000 : Word).toNat + (leBytes 4 0x11223344 : List Byte).length ≤ 0x21F80000)) := by
  and_intros <;> decide +kernel

theorem witness_copies_are_compared_before_a_write_leaves_part3 :
    ((({ ((wSc.wrMem32 0x20001000 0x80000001).setScc 1 { ScCore.idle with order := [0, 1], resv := some (0x20001000 / 8) }) with fresh := 2 }).sc.length = 12)
    ∧ (({ ((wSc.wrMem32 0x20001000 0x80000001).setScc 1 { ScCore.idle with order := [0, 1], resv := some (0x20001000 / 8) }) with fresh := 2 }).scc.length = 4)
    ∧ (({ ((wSc.wrMem32 0x20001000 0x80000001).setScc 1 { ScCore.idle with order := [0, 1], resv := some (0x20001000 / 8) }) with fresh := 2 }).scRuns (1 : Fin 4).val = true)
    ∧ ((({ ((wSc.wrMem32 0x20001000 0x80000001).setScc 1 { ScCore.idle with order := [0, 1], resv := some (0x20001000 / 8) }) with fresh := 2 }).scOf (1 : Fin 4).val).order ≠ [])
    ∧ (∀ o ∈ (({ ((wSc.wrMem32 0x20001000 0x80000001).setScc 1 { ScCore.idle with order := [0, 1], resv := some (0x20001000 / 8) }) with fresh := 2 }).scOf (1 : Fin 4).val).order, cmpAgree (⟨some [⟨0x20001000, leBytes 4 0x11223344, 0⟩, ⟨0x20001000, leBytes 4 0x11223344, 0⟩], none, 0, 0, 0x100, 7, 3⟩ : CmpPoint) ((({ ((wSc.wrMem32 0x20001000 0x80000001).setScc 1 { ScCore.idle with order := [0, 1], resv := some (0x20001000 / 8) }) with fresh := 2 }).scOf (1 : Fin 4).val).order.headD 0) o = true)
    ∧ (cmpPresent (⟨some [⟨0x20001000, leBytes 4 0x11223344, 0⟩, ⟨0x20001000, leBytes 4 0x11223344, 0⟩], none, 0, 0, 0x100, 7, 3⟩ : CmpPoint) ((({ ((wSc.wrMem32 0x20001000 0x80000001).setScc 1 { ScCore.idle with order := [0, 1], resv := some (0x20001000 / 8) }) with fresh := 2 }).scOf (1 : Fin 4).val).order.headD 0) = some ⟨(0x20001000 : Word), (leBytes 4 0x11223344 : List Byte), (0 : Nat)⟩)
    ∧ (({ ((wSc.wrMem32 0x20001000 0x80000001).setScc 1 { ScCore.idle with order := [0, 1], resv := some (0x20001000 / 8) }) with fresh := 2 }).puAllows ((1 : Fin 4).val * 3) (0x20001000 : Word).toNat (leBytes 4 0x11223344 : List Byte).length 1 false = true)
    ∧ (({ ((wSc.wrMem32 0x20001000 0x80000001).setScc 1 { ScCore.idle with order := [0, 1], resv := some (0x20001000 / 8) }) with fresh := 2 }).answers (({ ((wSc.wrMem32 0x20001000 0x80000001).setScc 1 { ScCore.idle with order := [0, 1], resv := some (0x20001000 / 8) }) with fresh := 2 }).scIni (1 : Fin 4) 0) (0x20001000 : Word).toNat = true)
    ∧ (({ ((wSc.wrMem32 0x20001000 0x80000001).setScc 1 { ScCore.idle with order := [0, 1], resv := some (0x20001000 / 8) }) with fresh := 2 }).busOk (({ ((wSc.wrMem32 0x20001000 0x80000001).setScc 1 { ScCore.idle with order := [0, 1], resv := some (0x20001000 / 8) }) with fresh := 2 }).scIni (1 : Fin 4) 0) (0x20001000 : Word).toNat false (leBytes 4 0x11223344 : List Byte).length = true)
    ∧ (0x20000000 ≤ (0x20001000 : Word).toNat)
    ∧ ((0x20001000 : Word).toNat + (leBytes 4 0x11223344 : List Byte).length ≤ 0x21F80000)
    ∧ (({ ((wSc.wrMem32 0x20001000 0x80000001).setScc 1 { ScCore.idle with order := [0, 1], resv := some (0x20001000 / 8) }) with fresh := 2 }).busOk (({ ((wSc.wrMem32 0x20001000 0x80000001).setScc 1 { ScCore.idle with order := [0, 1], resv := some (0x20001000 / 8) }) with fresh := 2 }).scIni (1 : Fin 4) 0) (0x20001000 : Word).toNat true (leBytes 4 0x11223344 : List Byte).length = true)
    ∧ ((({ ((wSc.wrMem32 0x20001000 0x80000001).setScc 1 { ScCore.idle with order := [0, 1], resv := some (0x20001000 / 8) }) with fresh := 2 }).scOf (1 : Fin 4).val).resv = some ((0x20001000 : Word).toNat / 8)))
    ∧ ((({ ((wSc.wrMem32 0x20001000 0x80000001).setScc 1 { ScCore.idle with order := [0, 1], resv := some (0x20001000 / 8) }) with fresh := 2 }).sc.length = 12)
    ∧ (({ ((wSc.wrMem32 0x20001000 0x80000001).setScc 1 { ScCore.idle with order := [0, 1], resv := some (0x20001000 / 8) }) with fresh := 2 }).scc.length = 4)
    ∧ (({ ((wSc.wrMem32 0x20001000 0x80000001).setScc 1 { ScCore.idle with order := [0, 1], resv := some (0x20001000 / 8) }) with fresh := 2 }).scRuns (1 : Fin 4).val = true)
    ∧ ((({ ((wSc.wrMem32 0x20001000 0x80000001).setScc 1 { ScCore.idle with order := [0, 1], resv := some (0x20001000 / 8) }) with fresh := 2 }).scOf (1 : Fin 4).val).order ≠ [])
    ∧ (∀ o ∈ (({ ((wSc.wrMem32 0x20001000 0x80000001).setScc 1 { ScCore.idle with order := [0, 1], resv := some (0x20001000 / 8) }) with fresh := 2 }).scOf (1 : Fin 4).val).order, cmpAgree (⟨some [⟨0x20001000, leBytes 4 0x11223344, 0⟩, ⟨0x20001000, leBytes 4 0x11223344, 0⟩], none, 0, 0, 0x100, 7, 3⟩ : CmpPoint) ((({ ((wSc.wrMem32 0x20001000 0x80000001).setScc 1 { ScCore.idle with order := [0, 1], resv := some (0x20001000 / 8) }) with fresh := 2 }).scOf (1 : Fin 4).val).order.headD 0) o = true)
    ∧ (cmpPresent (⟨some [⟨0x20001000, leBytes 4 0x11223344, 0⟩, ⟨0x20001000, leBytes 4 0x11223344, 0⟩], none, 0, 0, 0x100, 7, 3⟩ : CmpPoint) ((({ ((wSc.wrMem32 0x20001000 0x80000001).setScc 1 { ScCore.idle with order := [0, 1], resv := some (0x20001000 / 8) }) with fresh := 2 }).scOf (1 : Fin 4).val).order.headD 0) = some ⟨(0x20001000 : Word), (leBytes 4 0x11223344 : List Byte), (0 : Nat)⟩)
    ∧ (({ ((wSc.wrMem32 0x20001000 0x80000001).setScc 1 { ScCore.idle with order := [0, 1], resv := some (0x20001000 / 8) }) with fresh := 2 }).puAllows ((1 : Fin 4).val * 3) (0x20001000 : Word).toNat (leBytes 4 0x11223344 : List Byte).length 1 false = true)
    ∧ (({ ((wSc.wrMem32 0x20001000 0x80000001).setScc 1 { ScCore.idle with order := [0, 1], resv := some (0x20001000 / 8) }) with fresh := 2 }).answers (({ ((wSc.wrMem32 0x20001000 0x80000001).setScc 1 { ScCore.idle with order := [0, 1], resv := some (0x20001000 / 8) }) with fresh := 2 }).scIni (1 : Fin 4) 0) (0x20001000 : Word).toNat = true)
    ∧ (({ ((wSc.wrMem32 0x20001000 0x80000001).setScc 1 { ScCore.idle with order := [0, 1], resv := some (0x20001000 / 8) }) with fresh := 2 }).busOk (({ ((wSc.wrMem32 0x20001000 0x80000001).setScc 1 { ScCore.idle with order := [0, 1], resv := some (0x20001000 / 8) }) with fresh := 2 }).scIni (1 : Fin 4) 0) (0x20001000 : Word).toNat false (leBytes 4 0x11223344 : List Byte).length = true)
    ∧ (({ ((wSc.wrMem32 0x20001000 0x80000001).setScc 1 { ScCore.idle with order := [0, 1], resv := some (0x20001000 / 8) }) with fresh := 2 }).busOk (({ ((wSc.wrMem32 0x20001000 0x80000001).setScc 1 { ScCore.idle with order := [0, 1], resv := some (0x20001000 / 8) }) with fresh := 2 }).scIni (1 : Fin 4) 0) (0x20001000 : Word).toNat true (leBytes 4 0x11223344 : List Byte).length = true)
    ∧ ((({ ((wSc.wrMem32 0x20001000 0x80000001).setScc 1 { ScCore.idle with order := [0, 1], resv := some (0x20001000 / 8) }) with fresh := 2 }).scOf (1 : Fin 4).val).resv ≠ some ((0x20001000 : Word).toNat / 8) ∨ (false : Bool) = false))
    ∧ (((wSc.wrMem32 0x20001000 0x80000001).sc.length = 12)
    ∧ ((wSc.wrMem32 0x20001000 0x80000001).scc.length = 4)
    ∧ ((wSc.wrMem32 0x20001000 0x80000001).scRuns (1 : Fin 4).val = true)
    ∧ (((wSc.wrMem32 0x20001000 0x80000001).scOf (1 : Fin 4).val).order ≠ [])
    ∧ (∀ o ∈ ((wSc.wrMem32 0x20001000 0x80000001).scOf (1 : Fin 4).val).order, cmpAgree (⟨some [⟨0x28000000, leBytes 4 5, 0⟩, ⟨0x28000000, leBytes 4 5, 0⟩], none, 0, 0, 0x100, 7, 3⟩ : CmpPoint) (((wSc.wrMem32 0x20001000 0x80000001).scOf (1 : Fin 4).val).order.headD 0) o = true)
    ∧ (cmpPresent (⟨some [⟨0x28000000, leBytes 4 5, 0⟩, ⟨0x28000000, leBytes 4 5, 0⟩], none, 0, 0, 0x100, 7, 3⟩ : CmpPoint) (((wSc.wrMem32 0x20001000 0x80000001).scOf (1 : Fin 4).val).order.headD 0) = some ⟨(0x28000000 : Word), (leBytes 4 5 : List Byte), (0 : Nat)⟩)
    ∧ ((wSc.wrMem32 0x20001000 0x80000001).puAllows ((1 : Fin 4).val * 3) (0x28000000 : Word).toNat (leBytes 4 5 : List Byte).length (if (.min : AmoOp) = AmoOp.lr then 0 else 1) false = false ∨ ((wSc.wrMem32 0x20001000 0x80000001).answers ((wSc.wrMem32 0x20001000 0x80000001).scIni (1 : Fin 4) 0) (0x28000000 : Word).toNat = true ∧ ((wSc.wrMem32 0x20001000 0x80000001).busOk ((wSc.wrMem32 0x20001000 0x80000001).scIni (1 : Fin 4) 0) (0x28000000 : Word).toNat false (leBytes 4 5 : List Byte).length = false ∨ ((.min : AmoOp) ≠ .lr ∧ (wSc.wrMem32 0x20001000 0x80000001).busOk ((wSc.wrMem32 0x20001000 0x80000001).scIni (1 : Fin 4) 0) (0x28000000 : Word).toNat true (leBytes 4 5 : List Byte).length = false)))))
    ∧ ((({ wSc with pllB := false }).sc.length = 12)
    ∧ (({ wSc with pllB := false }).scc.length = 4)
    ∧ (({ wSc with pllB := false }).scRuns (1 : Fin 4).val = true)
    ∧ ((({ wSc with pllB := false }).scOf (1 : Fin 4).val).order ≠ [])
    ∧ (∀ o ∈ (({ wSc with pllB := false }).scOf (1 : Fin 4).val).order, cmpAgree (⟨some [⟨0x40000000, leBytes 4 5, 0⟩, ⟨0x40000000, leBytes 4 5, 0⟩], none, 0, 0, 0x100, 7, 3⟩ : CmpPoint) ((({ wSc with pllB := false }).scOf (1 : Fin 4).val).order.headD 0) o = true)
    ∧ (cmpPresent (⟨some [⟨0x40000000, leBytes 4 5, 0⟩, ⟨0x40000000, leBytes 4 5, 0⟩], none, 0, 0, 0x100, 7, 3⟩ : CmpPoint) ((({ wSc with pllB := false }).scOf (1 : Fin 4).val).order.headD 0) = some ⟨(0x40000000 : Word), (leBytes 4 5 : List Byte), (0 : Nat)⟩)
    ∧ (({ wSc with pllB := false }).puAllows ((1 : Fin 4).val * 3) (0x40000000 : Word).toNat (leBytes 4 5 : List Byte).length (if (.min : AmoOp) = AmoOp.lr then 0 else 1) false = true)
    ∧ (({ wSc with pllB := false }).answers (({ wSc with pllB := false }).scIni (1 : Fin 4) 0) (0x40000000 : Word).toNat = false))
    ∧ ((wSc.sc.length = 12)
    ∧ (wSc.scc.length = 4)
    ∧ (wSc.scRuns (2 : Fin 4).val = true)
    ∧ ((wSc.scOf (2 : Fin 4).val).order ≠ [])
    ∧ (∀ o ∈ (wSc.scOf (2 : Fin 4).val).order, cmpAgree (⟨none, some [5, 5, 5], 0, 0, 0x100, 7, 3⟩ : CmpPoint) ((wSc.scOf (2 : Fin 4).val).order.headD 0) o = true)
    ∧ ((⟨none, some [5, 5, 5], 0, 0, 0x100, 7, 3⟩ : CmpPoint).write = none))
    ∧ ((wSc.scc.length = 4)
    ∧ (wSc.scRuns (2 : Fin 4).val = true)
    ∧ (∃ o ∈ (wSc.scOf (2 : Fin 4).val).order, cmpAgree (⟨none, some [5, 5, 6], 0, 0, 0x100, 7, 3⟩ : CmpPoint) ((wSc.scOf (2 : Fin 4).val).order.headD 0) o = false)
    ∧ (((wSc.scOf (2 : Fin 4).val).order.find? (fun o => match (wSc.scOf (2 : Fin 4).val).order.filter (fun y => y != o) with | [y, z] => cmpAgree (⟨none, some [5, 5, 6], 0, 0, 0x100, 7, 3⟩ : CmpPoint) y z | _ => false)) = some (2 : Nat))
    ∧ ((2 : Nat) < 3)
    ∧ ((⟨none, some [5, 5, 6], 0, 0, 0x100, 7, 3⟩ : CmpPoint).write = none)
    ∧ (permanent (wSc.scOf (2 : Fin 4).val).hist (2 : Nat) wSc.timebase = false)) := by
  and_intros <;> decide +kernel

theorem witness_copies_are_compared_before_a_write_leaves_part4 :
    (((wSc.setScc 2 { ScCore.idle with order := [0, 1, 2], hist := [(2, 0), (2, 0)] }).scc.length = 4)
    ∧ ((wSc.setScc 2 { ScCore.idle with order := [0, 1, 2], hist := [(2, 0), (2, 0)] }).scRuns (2 : Fin 4).val = true)
    ∧ (∃ o ∈ ((wSc.setScc 2 { ScCore.idle with order := [0, 1, 2], hist := [(2, 0), (2, 0)] }).scOf (2 : Fin 4).val).order, cmpAgree (⟨none, some [5, 5, 6], 0, 0, 0x100, 7, 3⟩ : CmpPoint) (((wSc.setScc 2 { ScCore.idle with order := [0, 1, 2], hist := [(2, 0), (2, 0)] }).scOf (2 : Fin 4).val).order.headD 0) o = false)
    ∧ ((((wSc.setScc 2 { ScCore.idle with order := [0, 1, 2], hist := [(2, 0), (2, 0)] }).scOf (2 : Fin 4).val).order.find? (fun o => match ((wSc.setScc 2 { ScCore.idle with order := [0, 1, 2], hist := [(2, 0), (2, 0)] }).scOf (2 : Fin 4).val).order.filter (fun y => y != o) with | [y, z] => cmpAgree (⟨none, some [5, 5, 6], 0, 0, 0x100, 7, 3⟩ : CmpPoint) y z | _ => false)) = some (2 : Nat))
    ∧ ((2 : Nat) < 3)
    ∧ ((⟨none, some [5, 5, 6], 0, 0, 0x100, 7, 3⟩ : CmpPoint).write = none)
    ∧ (permanent ((wSc.setScc 2 { ScCore.idle with order := [0, 1, 2], hist := [(2, 0), (2, 0)] }).scOf (2 : Fin 4).val).hist (2 : Nat) (wSc.setScc 2 { ScCore.idle with order := [0, 1, 2], hist := [(2, 0), (2, 0)] }).timebase = true))
    ∧ ((wSc.scc.length = 4)
    ∧ (wSc.scRuns (1 : Fin 4).val = true)
    ∧ (∃ o ∈ (wSc.scOf (1 : Fin 4).val).order, cmpAgree (⟨some [⟨0x20001000, leBytes 4 0x11223344, 0⟩, ⟨0x20001000, leBytes 4 0x11223345, 0⟩], none, 0, 0, 0x100, 7, 3⟩ : CmpPoint) ((wSc.scOf (1 : Fin 4).val).order.headD 0) o = false)
    ∧ (((wSc.scOf (1 : Fin 4).val).order.find? (fun o => match (wSc.scOf (1 : Fin 4).val).order.filter (fun y => y != o) with | [y, z] => cmpAgree (⟨some [⟨0x20001000, leBytes 4 0x11223344, 0⟩, ⟨0x20001000, leBytes 4 0x11223345, 0⟩], none, 0, 0, 0x100, 7, 3⟩ : CmpPoint) y z | _ => false)) = none))
    ∧ ((wOn.scRuns (1 : Fin 4).val = false ∨ (wOn.scOf (1 : Fin 4).val).order = [])) := by
  and_intros <;> decide +kernel

theorem witness_safety_core_accesses_pass_their_protection :
    (((wScSplit.wrMem32 0x20001000 0x12345678).thrRuns (0 : Fin 4) (1 : Fin 3) = true)
    ∧ ((wScSplit.wrMem32 0x20001000 0x12345678).sc.length = 12)
    ∧ ((wScSplit.wrMem32 0x20001000 0x12345678).puAllows ((0 : Fin 4).val * 3 + (1 : Fin 3).val) (0x20001000 : Word).toNat (4 : Fin 9).val 0 (false : Bool) = true)
    ∧ ((wScSplit.wrMem32 0x20001000 0x12345678).inRegion (0 : Fin 4).val (0x20001000 : Word).toNat = false)
    ∧ ((wScSplit.wrMem32 0x20001000 0x12345678).answers ((wScSplit.wrMem32 0x20001000 0x12345678).scIni (0 : Fin 4) (1 : Fin 3)) (0x20001000 : Word).toNat = true)
    ∧ ((wScSplit.wrMem32 0x20001000 0x12345678).busOk ((wScSplit.wrMem32 0x20001000 0x12345678).scIni (0 : Fin 4) (1 : Fin 3)) (0x20001000 : Word).toNat false (4 : Fin 9).val = true)
    ∧ ((((wScSplit.wrMem32 0x20001000 0x12345678).blockLoad ((wScSplit.wrMem32 0x20001000 0x12345678).scIni (0 : Fin 4) (1 : Fin 3)) (0x20001000 : Word).toNat (4 : Fin 9).val).2.fabEnd (0x20001000 : Word).toNat (.ok 0 0 : FabRes)).1 = none))
    ∧ (((wScSplit.wrMem32 0x20001000 0x12345678).thrRuns (0 : Fin 4) (1 : Fin 3) = true)
    ∧ ((wScSplit.wrMem32 0x20001000 0x12345678).sc.length = 12)
    ∧ ((wScSplit.wrMem32 0x20001000 0x12345678).puAllows ((0 : Fin 4).val * 3 + (1 : Fin 3).val) (0x20001000 : Word).toNat (4 : Fin 9).val 0 (false : Bool) = true)
    ∧ ((wScSplit.wrMem32 0x20001000 0x12345678).inRegion (0 : Fin 4).val (0x20001000 : Word).toNat = false)
    ∧ ((wScSplit.wrMem32 0x20001000 0x12345678).answers ((wScSplit.wrMem32 0x20001000 0x12345678).scIni (0 : Fin 4) (1 : Fin 3)) (0x20001000 : Word).toNat = true)
    ∧ ((wScSplit.wrMem32 0x20001000 0x12345678).busOk ((wScSplit.wrMem32 0x20001000 0x12345678).scIni (0 : Fin 4) (1 : Fin 3)) (0x20001000 : Word).toNat false (4 : Fin 9).val = true)
    ∧ (0x20000000 ≤ (0x20001000 : Word).toNat)
    ∧ ((0x20001000 : Word).toNat + (4 : Fin 9).val ≤ 0x21F80000)
    ∧ ((.ok 0 0 : FabRes) = .ok 0 0))
    ∧ ((wSc.thrRuns (1 : Fin 4) (0 : Fin 3) = true)
    ∧ (wSc.sc.length = 12)
    ∧ (wSc.puAllows ((1 : Fin 4).val * 3 + (0 : Fin 3).val) (0x20100040 : Word).toNat (4 : Fin 9).val 0 (false : Bool) = true)
    ∧ (wSc.inRegion (1 : Fin 4).val (0x20100040 : Word).toNat = true))
    ∧ ((wScSplit.thrRuns (0 : Fin 4) (1 : Fin 3) = true)
    ∧ (wScSplit.sc.length = 12)
    ∧ (wScSplit.puAllows ((0 : Fin 4).val * 3 + (1 : Fin 3).val) (0x20001000 : Word).toNat (4 : Fin 9).val 0 (false : Bool) = true)
    ∧ (wScSplit.inRegion (0 : Fin 4).val (0x20001000 : Word).toNat = false)
    ∧ (wScSplit.answers (wScSplit.scIni (0 : Fin 4) (1 : Fin 3)) (0x20001000 : Word).toNat = true)
    ∧ ((wScSplit.busOk (wScSplit.scIni (0 : Fin 4) (1 : Fin 3)) (0x20001000 : Word).toNat false (4 : Fin 9).val = false ∧ (0x22 : Nat) = 0x21) ∨ (wScSplit.busOk (wScSplit.scIni (0 : Fin 4) (1 : Fin 3)) (0x20001000 : Word).toNat false (4 : Fin 9).val = true ∧ isMemory (0x20001000 : Word).toNat = true ∧ (wScSplit.fabEnd (0x20001000 : Word).toNat (.resendsOut : FabRes)).1 = some (0x22 : Nat))))
    ∧ (((wScSplit.setClk { wOn.clk with was := [((PU_CTRL 1).addr, 1)] }).thrRuns (0 : Fin 4) (1 : Fin 3) = true)
    ∧ ((wScSplit.setClk { wOn.clk with was := [((PU_CTRL 1).addr, 1)] }).sc.length = 12)
    ∧ ((wScSplit.setClk { wOn.clk with was := [((PU_CTRL 1).addr, 1)] }).puAllows ((0 : Fin 4).val * 3 + (1 : Fin 3).val) (0x20001000 : Word).toNat (4 : Fin 9).val 0 (true : Bool) = false))
    ∧ ((({ wScSplit with pllB := false }).thrRuns (0 : Fin 4) (1 : Fin 3) = true)
    ∧ (({ wScSplit with pllB := false }).sc.length = 12)
    ∧ (({ wScSplit with pllB := false }).puAllows ((0 : Fin 4).val * 3 + (1 : Fin 3).val) (0x40000000 : Word).toNat (4 : Fin 9).val 0 (false : Bool) = true)
    ∧ (({ wScSplit with pllB := false }).inRegion (0 : Fin 4).val (0x40000000 : Word).toNat = false)
    ∧ (({ wScSplit with pllB := false }).answers (({ wScSplit with pllB := false }).scIni (0 : Fin 4) (1 : Fin 3)) (0x40000000 : Word).toNat = false)) := by
  and_intros <;> decide +kernel

theorem witness_safety_core_accesses_pass_their_protection_part2 :
    ((wScSplit.thrRuns (0 : Fin 4) (1 : Fin 3) = true)
    ∧ (wScSplit.sc.length = 12)
    ∧ (wScSplit.scRedundant (0 : Fin 4).val = false)
    ∧ ((leBytes 4 0x12345678 : List Byte) ≠ [])
    ∧ (wScSplit.puAllows ((0 : Fin 4).val * 3 + (1 : Fin 3).val) (0x20001000 : Word).toNat (leBytes 4 0x12345678 : List Byte).length 1 (false : Bool) = true)
    ∧ (0x20000000 ≤ (0x20001000 : Word).toNat)
    ∧ ((0x20001000 : Word).toNat + (leBytes 4 0x12345678 : List Byte).length ≤ 0x21F80000)
    ∧ (wScSplit.answers (wScSplit.scIni (0 : Fin 4) (1 : Fin 3)) (0x20001000 : Word).toNat = true)
    ∧ (wScSplit.busOk (wScSplit.scIni (0 : Fin 4) (1 : Fin 3)) (0x20001000 : Word).toNat true (leBytes 4 0x12345678 : List Byte).length = true)
    ∧ ((.ok 0 0 : FabRes) ≠ .resendsOut)
    ∧ ((.ok 0 0 : FabRes) = .uncorrectable → mergesWord (0x20001000 : Word).toNat (leBytes 4 0x12345678 : List Byte).length true = false))
    ∧ ((wScSplit.thrRuns (0 : Fin 4) (1 : Fin 3) = true)
    ∧ (wScSplit.sc.length = 12)
    ∧ (wScSplit.scRedundant (0 : Fin 4).val = false)
    ∧ ((leBytes 4 0x12345678 : List Byte) ≠ [])
    ∧ (wScSplit.puAllows ((0 : Fin 4).val * 3 + (1 : Fin 3).val) (0x20001000 : Word).toNat (leBytes 4 0x12345678 : List Byte).length 1 (false : Bool) = true)
    ∧ (wScSplit.answers (wScSplit.scIni (0 : Fin 4) (1 : Fin 3)) (0x20001000 : Word).toNat = true)
    ∧ (wScSplit.busOk (wScSplit.scIni (0 : Fin 4) (1 : Fin 3)) (0x20001000 : Word).toNat true (leBytes 4 0x12345678 : List Byte).length = true)
    ∧ (0x20000000 ≤ (0x20001000 : Word).toNat)
    ∧ ((0x20001000 : Word).toNat < 0x22000000)
    ∧ ((((.resendsOut : FabRes) = .resendsOut ∧ (0x22 : Nat) = 0x22) ∨ ((.resendsOut : FabRes) = .uncorrectable ∧ mergesWord (0x20001000 : Word).toNat (leBytes 4 0x12345678 : List Byte).length true = true ∧ (0x22 : Nat) = 0x23))))
    ∧ ((wScSplit.thrRuns (0 : Fin 4) (1 : Fin 3) = true)
    ∧ (wScSplit.sc.length = 12)
    ∧ (wScSplit.scRedundant (0 : Fin 4).val = false)
    ∧ ((leBytes 4 0x12345678 : List Byte) ≠ [])
    ∧ (wScSplit.puAllows ((0 : Fin 4).val * 3 + (1 : Fin 3).val) (0x28000000 : Word).toNat (leBytes 4 0x12345678 : List Byte).length 1 (false : Bool) = true)
    ∧ (wScSplit.answers (wScSplit.scIni (0 : Fin 4) (1 : Fin 3)) (0x28000000 : Word).toNat = true)
    ∧ (wScSplit.busOk (wScSplit.scIni (0 : Fin 4) (1 : Fin 3)) (0x28000000 : Word).toNat true (leBytes 4 0x12345678 : List Byte).length = false))
    ∧ ((wSc.thrRuns (1 : Fin 4) (0 : Fin 3) = true)
    ∧ (wSc.sc.length = 12)
    ∧ (wSc.puAllows ((1 : Fin 4).val * 3 + (0 : Fin 3).val) (0x20001000 : Word).toNat (leBytes 4 0x12345678 : List Byte).length 1 (false : Bool) = true)
    ∧ (wSc.scRedundant (1 : Fin 4).val = true ∨ (leBytes 4 0x12345678 : List Byte) = []))
    ∧ (((wScSplit.setClk { wOn.clk with was := [((PU_CTRL 1).addr, 1)] }).thrRuns (0 : Fin 4) (1 : Fin 3) = true)
    ∧ ((wScSplit.setClk { wOn.clk with was := [((PU_CTRL 1).addr, 1)] }).sc.length = 12)
    ∧ ((wScSplit.setClk { wOn.clk with was := [((PU_CTRL 1).addr, 1)] }).puAllows ((0 : Fin 4).val * 3 + (1 : Fin 3).val) (0x20001000 : Word).toNat (leBytes 4 0x12345678 : List Byte).length 1 (true : Bool) = false))
    ∧ ((({ wScSplit with pllB := false }).thrRuns (0 : Fin 4) (1 : Fin 3) = true)
    ∧ (({ wScSplit with pllB := false }).sc.length = 12)
    ∧ (({ wScSplit with pllB := false }).scRedundant (0 : Fin 4).val = false)
    ∧ ((leBytes 4 0x12345678 : List Byte) ≠ [])
    ∧ (({ wScSplit with pllB := false }).puAllows ((0 : Fin 4).val * 3 + (1 : Fin 3).val) (0x40000000 : Word).toNat (leBytes 4 0x12345678 : List Byte).length 1 (false : Bool) = true)
    ∧ (({ wScSplit with pllB := false }).answers (({ wScSplit with pllB := false }).scIni (0 : Fin 4) (1 : Fin 3)) (0x40000000 : Word).toNat = false)) := by
  and_intros <;> decide +kernel

theorem witness_safety_core_accesses_pass_their_protection_part3 :
    ((wScSplit.thrRuns (0 : Fin 4) (1 : Fin 3) = true)
    ∧ (wScSplit.sc.length = 12)
    ∧ (wScSplit.puAllows ((0 : Fin 4).val * 3 + (1 : Fin 3).val) (0x20001000 : Word).toNat 4 2 (false : Bool) = true)
    ∧ (wScSplit.answers (wScSplit.scIni (0 : Fin 4) (1 : Fin 3)) (0x20001000 : Word).toNat = true)
    ∧ (wScSplit.busOk (wScSplit.scIni (0 : Fin 4) (1 : Fin 3)) (0x20001000 : Word).toNat false 4 = true)
    ∧ (fetchGrant (0x20001000 : Word).toNat = true)
    ∧ ((wScSplit.fabEnd (0x20001000 : Word).toNat (.ok 0 0 : FabRes)).1 = none))
    ∧ ((wScSplit.thrRuns (0 : Fin 4) (1 : Fin 3) = true)
    ∧ (wScSplit.sc.length = 12)
    ∧ (wScSplit.puAllows ((0 : Fin 4).val * 3 + (1 : Fin 3).val) (0x20001000 : Word).toNat 4 2 (false : Bool) = true)
    ∧ (wScSplit.answers (wScSplit.scIni (0 : Fin 4) (1 : Fin 3)) (0x20001000 : Word).toNat = true)
    ∧ (((wScSplit.busOk (wScSplit.scIni (0 : Fin 4) (1 : Fin 3)) (0x20001000 : Word).toNat false && fetchGrant (0x20001000 : Word).toNat) = false ∧ (0x22 : Nat) = 0x21) ∨ ((wScSplit.busOk (wScSplit.scIni (0 : Fin 4) (1 : Fin 3)) (0x20001000 : Word).toNat false && fetchGrant (0x20001000 : Word).toNat) = true ∧ (wScSplit.fabEnd (0x20001000 : Word).toNat (.resendsOut : FabRes)).1 = some (0x22 : Nat))))
    ∧ (((wScSplit.setClk { wOn.clk with was := [((PU_CTRL 1).addr, 1)] }).thrRuns (0 : Fin 4) (1 : Fin 3) = true)
    ∧ ((wScSplit.setClk { wOn.clk with was := [((PU_CTRL 1).addr, 1)] }).sc.length = 12)
    ∧ ((wScSplit.setClk { wOn.clk with was := [((PU_CTRL 1).addr, 1)] }).puAllows ((0 : Fin 4).val * 3 + (1 : Fin 3).val) (0x20001000 : Word).toNat 4 2 (true : Bool) = false))
    ∧ ((({ wScSplit with pllB := false }).thrRuns (0 : Fin 4) (1 : Fin 3) = true)
    ∧ (({ wScSplit with pllB := false }).sc.length = 12)
    ∧ (({ wScSplit with pllB := false }).puAllows ((0 : Fin 4).val * 3 + (1 : Fin 3).val) (0x40000000 : Word).toNat 4 2 (false : Bool) = true)
    ∧ (({ wScSplit with pllB := false }).answers (({ wScSplit with pllB := false }).scIni (0 : Fin 4) (1 : Fin 3)) (0x40000000 : Word).toNat = false))
    ∧ ((wOn.thrRuns (0 : Fin 4) (1 : Fin 3) = false))
    ∧ (((wScSplit.setBusErr [(.sc 0 1, 0x28000000, 0x21)]).thrRuns (0 : Fin 4) (1 : Fin 3) = true)
    ∧ ((wScSplit.setBusErr [(.sc 0 1, 0x28000000, 0x21)]).sc.length = 12)
    ∧ ((wScSplit.setBusErr [(.sc 0 1, 0x28000000, 0x21)]).busErr = (.sc (0 : Fin 4) (1 : Fin 3), (0x28000000 : Word).toNat, (0x21 : Nat)) :: ([] : List (Initiator × Nat × Nat)))) := by
  and_intros <;> decide +kernel

theorem witness_safety_core_accesses_pass_their_protection_part4 :
    (((wScSplit.setBusErr [(.sc 0 2, 0x28000000, 0x21)]).thrRuns (0 : Fin 4) (1 : Fin 3) = false ∨ ∀ x ∈ (wScSplit.setBusErr [(.sc 0 2, 0x28000000, 0x21)]).busErr, ∀ y : Fin 3, x.1 = .sc (0 : Fin 4) y → (wScSplit.setBusErr [(.sc 0 2, 0x28000000, 0x21)]).scRedundant (0 : Fin 4).val = false ∧ y ≠ (1 : Fin 3))) := by
  and_intros <;> decide +kernel

theorem witness_interrupt_entry_saves_its_frame :
    ((({ (wScSplit.put (PU_CTRL_HWSAVE 1) 0) with irqs := [⟨.thread 1, 0x40600000, 0, 0⟩] }).irqFor ((0 : Fin 4).val * 3 + (1 : Fin 3).val) (0 : Nat) = some (⟨.thread 1, 0x40600000, 0, 0⟩ : Irq))
    ∧ (({ (wScSplit.put (PU_CTRL_HWSAVE 1) 0) with irqs := [⟨.thread 1, 0x40600000, 0, 0⟩] }).thrRuns (0 : Fin 4) (1 : Fin 3) = true)
    ∧ (({ (wScSplit.put (PU_CTRL_HWSAVE 1) 0) with irqs := [⟨.thread 1, 0x40600000, 0, 0⟩] }).sc.length = 12)
    ∧ (({ (wScSplit.put (PU_CTRL_HWSAVE 1) 0) with irqs := [⟨.thread 1, 0x40600000, 0, 0⟩] }).is (PU_CTRL_HWSAVE ((0 : Fin 4).val * 3 + (1 : Fin 3).val)) = false)
    ∧ (({ (wScSplit.put (PU_CTRL_HWSAVE 1) 0) with irqs := [⟨.thread 1, 0x40600000, 0, 0⟩] }).puAllows ((0 : Fin 4).val * 3 + (1 : Fin 3).val) (0x20000100 : Word).toNat 4 2 false = true)
    ∧ (({ (wScSplit.put (PU_CTRL_HWSAVE 1) 0) with irqs := [⟨.thread 1, 0x40600000, 0, 0⟩] }).answers (({ (wScSplit.put (PU_CTRL_HWSAVE 1) 0) with irqs := [⟨.thread 1, 0x40600000, 0, 0⟩] }).scIni (0 : Fin 4) (1 : Fin 3)) (0x20000100 : Word).toNat = true)
    ∧ (({ (wScSplit.put (PU_CTRL_HWSAVE 1) 0) with irqs := [⟨.thread 1, 0x40600000, 0, 0⟩] }).busOk (({ (wScSplit.put (PU_CTRL_HWSAVE 1) 0) with irqs := [⟨.thread 1, 0x40600000, 0, 0⟩] }).scIni (0 : Fin 4) (1 : Fin 3)) (0x20000100 : Word).toNat false = true)
    ∧ (0x20000000 ≤ (0x20000100 : Word).toNat))
    ∧ ((({ wSc with irqs := [⟨.thread 3, 0x40600000, 0, 0⟩] }).irqFor ((1 : Fin 4).val * 3 + (0 : Fin 3).val) (0 : Nat) = some (⟨.thread 3, 0x40600000, 0, 0⟩ : Irq))
    ∧ (({ wSc with irqs := [⟨.thread 3, 0x40600000, 0, 0⟩] }).thrRuns (1 : Fin 4) (0 : Fin 3) = true)
    ∧ (({ wSc with irqs := [⟨.thread 3, 0x40600000, 0, 0⟩] }).sc.length = 12)
    ∧ (({ wSc with irqs := [⟨.thread 3, 0x40600000, 0, 0⟩] }).scc.length = 4)
    ∧ (({ wSc with irqs := [⟨.thread 3, 0x40600000, 0, 0⟩] }).scRedundant (1 : Fin 4).val = true)
    ∧ (({ wSc with irqs := [⟨.thread 3, 0x40600000, 0, 0⟩] }).is (PU_CTRL_HWSAVE ((1 : Fin 4).val * 3 + (0 : Fin 3).val)) = false)
    ∧ (({ wSc with irqs := [⟨.thread 3, 0x40600000, 0, 0⟩] }).puAllows ((1 : Fin 4).val * 3 + (0 : Fin 3).val) (0x20000100 : Word).toNat 4 2 false = true)
    ∧ (({ wSc with irqs := [⟨.thread 3, 0x40600000, 0, 0⟩] }).answers (({ wSc with irqs := [⟨.thread 3, 0x40600000, 0, 0⟩] }).scIni (1 : Fin 4) (0 : Fin 3)) (0x20000100 : Word).toNat = true)
    ∧ (({ wSc with irqs := [⟨.thread 3, 0x40600000, 0, 0⟩] }).busOk (({ wSc with irqs := [⟨.thread 3, 0x40600000, 0, 0⟩] }).scIni (1 : Fin 4) (0 : Fin 3)) (0x20000100 : Word).toNat false = true)
    ∧ (0x20000000 ≤ (0x20000100 : Word).toNat))
    ∧ (((({ (wScSplit.put (PU_CTRL_HWSAVE 1) 0) with irqs := [⟨.thread 1, 0x40600000, 0, 0⟩] }).setClk { wOn.clk with was := [((PU_CTRL 1).addr, 1), ((PU_RBASE 1 2).addr, 0x20001000), ((PU_RLIM 1 2).addr, 0x20001FC7)] }).irqFor ((0 : Fin 4).val * 3 + (1 : Fin 3).val) (0 : Nat) = some (⟨.thread 1, 0x40600000, 0, 0⟩ : Irq))
    ∧ ((({ (wScSplit.put (PU_CTRL_HWSAVE 1) 0) with irqs := [⟨.thread 1, 0x40600000, 0, 0⟩] }).setClk { wOn.clk with was := [((PU_CTRL 1).addr, 1), ((PU_RBASE 1 2).addr, 0x20001000), ((PU_RLIM 1 2).addr, 0x20001FC7)] }).thrRuns (0 : Fin 4) (1 : Fin 3) = true)
    ∧ ((({ (wScSplit.put (PU_CTRL_HWSAVE 1) 0) with irqs := [⟨.thread 1, 0x40600000, 0, 0⟩] }).setClk { wOn.clk with was := [((PU_CTRL 1).addr, 1), ((PU_RBASE 1 2).addr, 0x20001000), ((PU_RLIM 1 2).addr, 0x20001FC7)] }).sc.length = 12)
    ∧ ((({ (wScSplit.put (PU_CTRL_HWSAVE 1) 0) with irqs := [⟨.thread 1, 0x40600000, 0, 0⟩] }).setClk { wOn.clk with was := [((PU_CTRL 1).addr, 1), ((PU_RBASE 1 2).addr, 0x20001000), ((PU_RLIM 1 2).addr, 0x20001FC7)] }).is (PU_CTRL_HWSAVE ((0 : Fin 4).val * 3 + (1 : Fin 3).val)) = false)
    ∧ ((({ (wScSplit.put (PU_CTRL_HWSAVE 1) 0) with irqs := [⟨.thread 1, 0x40600000, 0, 0⟩] }).setClk { wOn.clk with was := [((PU_CTRL 1).addr, 1), ((PU_RBASE 1 2).addr, 0x20001000), ((PU_RLIM 1 2).addr, 0x20001FC7)] }).puAllows ((0 : Fin 4).val * 3 + (1 : Fin 3).val) (0x20000100 : Word).toNat 4 2 false = false))
    ∧ ((({ (wScSplit.put (PU_CTRL_HWSAVE 1) 1) with irqs := [⟨.thread 1, 0x40600000, 0, 0⟩] }).irqFor ((0 : Fin 4).val * 3 + (1 : Fin 3).val) (0 : Nat) = some (⟨.thread 1, 0x40600000, 0, 0⟩ : Irq))
    ∧ (({ (wScSplit.put (PU_CTRL_HWSAVE 1) 1) with irqs := [⟨.thread 1, 0x40600000, 0, 0⟩] }).thrRuns (0 : Fin 4) (1 : Fin 3) = true)
    ∧ (({ (wScSplit.put (PU_CTRL_HWSAVE 1) 1) with irqs := [⟨.thread 1, 0x40600000, 0, 0⟩] }).sc.length = 12)
    ∧ (({ (wScSplit.put (PU_CTRL_HWSAVE 1) 1) with irqs := [⟨.thread 1, 0x40600000, 0, 0⟩] }).inRegion (0 : Fin 4).val ((0x20001040 : Word) - 64).toNat = false)
    ∧ (({ (wScSplit.put (PU_CTRL_HWSAVE 1) 1) with irqs := [⟨.thread 1, 0x40600000, 0, 0⟩] }).is (PU_CTRL_HWSAVE ((0 : Fin 4).val * 3 + (1 : Fin 3).val)) = true)
    ∧ (({ (wScSplit.put (PU_CTRL_HWSAVE 1) 1) with irqs := [⟨.thread 1, 0x40600000, 0, 0⟩] }).puAllows ((0 : Fin 4).val * 3 + (1 : Fin 3).val) (0x20000100 : Word).toNat 4 2 false = true)
    ∧ (({ (wScSplit.put (PU_CTRL_HWSAVE 1) 1) with irqs := [⟨.thread 1, 0x40600000, 0, 0⟩] }).answers (({ (wScSplit.put (PU_CTRL_HWSAVE 1) 1) with irqs := [⟨.thread 1, 0x40600000, 0, 0⟩] }).scIni (0 : Fin 4) (1 : Fin 3)) (0x20000100 : Word).toNat = true)
    ∧ (({ (wScSplit.put (PU_CTRL_HWSAVE 1) 1) with irqs := [⟨.thread 1, 0x40600000, 0, 0⟩] }).busOk (({ (wScSplit.put (PU_CTRL_HWSAVE 1) 1) with irqs := [⟨.thread 1, 0x40600000, 0, 0⟩] }).scIni (0 : Fin 4) (1 : Fin 3)) (0x20000100 : Word).toNat false = true)
    ∧ (0x20000000 ≤ (0x20000100 : Word).toNat)
    ∧ ((0x20001040 : Word).toNat % 64 = 0)
    ∧ (((List.range 14).map (fun n => BitVec.ofNat 32 (n + 5)) : List Word).length = 14)
    ∧ (({ (wScSplit.put (PU_CTRL_HWSAVE 1) 1) with irqs := [⟨.thread 1, 0x40600000, 0, 0⟩] }).puAllows ((0 : Fin 4).val * 3 + (1 : Fin 3).val) ((0x20001040 : Word) - 64).toNat 64 1 false = true)
    ∧ (({ (wScSplit.put (PU_CTRL_HWSAVE 1) 1) with irqs := [⟨.thread 1, 0x40600000, 0, 0⟩] }).answers (({ (wScSplit.put (PU_CTRL_HWSAVE 1) 1) with irqs := [⟨.thread 1, 0x40600000, 0, 0⟩] }).scIni (0 : Fin 4) (1 : Fin 3)) ((0x20001040 : Word) - 64).toNat = true)
    ∧ (({ (wScSplit.put (PU_CTRL_HWSAVE 1) 1) with irqs := [⟨.thread 1, 0x40600000, 0, 0⟩] }).busOk (({ (wScSplit.put (PU_CTRL_HWSAVE 1) 1) with irqs := [⟨.thread 1, 0x40600000, 0, 0⟩] }).scIni (0 : Fin 4) (1 : Fin 3)) ((0x20001040 : Word) - 64).toNat true = true)
    ∧ (0x20000000 ≤ ((0x20001040 : Word) - 64).toNat)
    ∧ (((0x20001040 : Word) - 64).toNat + 64 ≤ 0x21F80000))
    ∧ ((({ (wScSplit.put (PU_CTRL_HWSAVE 1) 1) with irqs := [⟨.thread 1, 0x40600000, 0, 0⟩] }).irqFor ((0 : Fin 4).val * 3 + (1 : Fin 3).val) (0 : Nat) = some (⟨.thread 1, 0x40600000, 0, 0⟩ : Irq))
    ∧ (({ (wScSplit.put (PU_CTRL_HWSAVE 1) 1) with irqs := [⟨.thread 1, 0x40600000, 0, 0⟩] }).thrRuns (0 : Fin 4) (1 : Fin 3) = true)
    ∧ (({ (wScSplit.put (PU_CTRL_HWSAVE 1) 1) with irqs := [⟨.thread 1, 0x40600000, 0, 0⟩] }).sc.length = 12)
    ∧ (({ (wScSplit.put (PU_CTRL_HWSAVE 1) 1) with irqs := [⟨.thread 1, 0x40600000, 0, 0⟩] }).is (PU_CTRL_HWSAVE ((0 : Fin 4).val * 3 + (1 : Fin 3).val)) = true)
    ∧ ((0x20001044 : Word).toNat % 64 ≠ 0 ∨ ({ (wScSplit.put (PU_CTRL_HWSAVE 1) 1) with irqs := [⟨.thread 1, 0x40600000, 0, 0⟩] }).puAllows ((0 : Fin 4).val * 3 + (1 : Fin 3).val) ((0x20001044 : Word) - 64).toNat 64 1 false = false))
    ∧ ((({ (wScSplit.put (PU_CTRL_HWSAVE 1) 1) with irqs := [⟨.thread 1, 0x40600000, 0, 0⟩] }).irqFor ((0 : Fin 4).val * 3 + (1 : Fin 3).val) (0 : Nat) = some (⟨.thread 1, 0x40600000, 0, 0⟩ : Irq))
    ∧ (({ (wScSplit.put (PU_CTRL_HWSAVE 1) 1) with irqs := [⟨.thread 1, 0x40600000, 0, 0⟩] }).thrRuns (0 : Fin 4) (1 : Fin 3) = true)
    ∧ (({ (wScSplit.put (PU_CTRL_HWSAVE 1) 1) with irqs := [⟨.thread 1, 0x40600000, 0, 0⟩] }).sc.length = 12)
    ∧ (({ (wScSplit.put (PU_CTRL_HWSAVE 1) 1) with irqs := [⟨.thread 1, 0x40600000, 0, 0⟩] }).is (PU_CTRL_HWSAVE ((0 : Fin 4).val * 3 + (1 : Fin 3).val)) = true)
    ∧ ((0x28000040 : Word).toNat % 64 = 0)
    ∧ (({ (wScSplit.put (PU_CTRL_HWSAVE 1) 1) with irqs := [⟨.thread 1, 0x40600000, 0, 0⟩] }).puAllows ((0 : Fin 4).val * 3 + (1 : Fin 3).val) ((0x28000040 : Word) - 64).toNat 64 1 false = true)
    ∧ (({ (wScSplit.put (PU_CTRL_HWSAVE 1) 1) with irqs := [⟨.thread 1, 0x40600000, 0, 0⟩] }).puAllows ((0 : Fin 4).val * 3 + (1 : Fin 3).val) (0x20000100 : Word).toNat 4 2 false = true)
    ∧ (({ (wScSplit.put (PU_CTRL_HWSAVE 1) 1) with irqs := [⟨.thread 1, 0x40600000, 0, 0⟩] }).inRegion (0 : Fin 4).val ((0x28000040 : Word) - 64).toNat = false)
    ∧ (({ (wScSplit.put (PU_CTRL_HWSAVE 1) 1) with irqs := [⟨.thread 1, 0x40600000, 0, 0⟩] }).answers (({ (wScSplit.put (PU_CTRL_HWSAVE 1) 1) with irqs := [⟨.thread 1, 0x40600000, 0, 0⟩] }).scIni (0 : Fin 4) (1 : Fin 3)) ((0x28000040 : Word) - 64).toNat = false ∨ ({ (wScSplit.put (PU_CTRL_HWSAVE 1) 1) with irqs := [⟨.thread 1, 0x40600000, 0, 0⟩] }).busOk (({ (wScSplit.put (PU_CTRL_HWSAVE 1) 1) with irqs := [⟨.thread 1, 0x40600000, 0, 0⟩] }).scIni (0 : Fin 4) (1 : Fin 3)) ((0x28000040 : Word) - 64).toNat true = false)) := by
  and_intros <;> decide +kernel

theorem witness_interrupt_entry_saves_its_frame_part2 :
    ((({ (wScSplit.put (PU_CTRL_HWSAVE 1) 1) with irqs := [⟨.thread 1, 0x40600000, 0, 0⟩] }).irqFor ((0 : Fin 4).val * 3 + (1 : Fin 3).val) (0 : Nat) = some (⟨.thread 1, 0x40600000, 0, 0⟩ : Irq))
    ∧ (({ (wScSplit.put (PU_CTRL_HWSAVE 1) 1) with irqs := [⟨.thread 1, 0x40600000, 0, 0⟩] }).thrRuns (0 : Fin 4) (1 : Fin 3) = true)
    ∧ (({ (wScSplit.put (PU_CTRL_HWSAVE 1) 1) with irqs := [⟨.thread 1, 0x40600000, 0, 0⟩] }).sc.length = 12)
    ∧ (({ (wScSplit.put (PU_CTRL_HWSAVE 1) 1) with irqs := [⟨.thread 1, 0x40600000, 0, 0⟩] }).is (PU_CTRL_HWSAVE ((0 : Fin 4).val * 3 + (1 : Fin 3).val)) = true)
    ∧ ((0x20001040 : Word).toNat % 64 = 0)
    ∧ (({ (wScSplit.put (PU_CTRL_HWSAVE 1) 1) with irqs := [⟨.thread 1, 0x40600000, 0, 0⟩] }).puAllows ((0 : Fin 4).val * 3 + (1 : Fin 3).val) ((0x20001040 : Word) - 64).toNat 64 1 false = true)
    ∧ (({ (wScSplit.put (PU_CTRL_HWSAVE 1) 1) with irqs := [⟨.thread 1, 0x40600000, 0, 0⟩] }).puAllows ((0 : Fin 4).val * 3 + (1 : Fin 3).val) (0x20000100 : Word).toNat 4 2 false = true))
    ∧ (((({ (wScSplit.put (PU_CTRL_HWSAVE 1) 1) with irqs := [⟨.thread 1, 0x40600000, 0, 0⟩] }).setClk { wOn.clk with was := [((PU_CTRL 1).addr, 1), ((PU_RBASE 1 2).addr, 0x20001000), ((PU_RLIM 1 2).addr, 0x20001FC7)] }).irqFor ((0 : Fin 4).val * 3 + (1 : Fin 3).val) (0 : Nat) = some (⟨.thread 1, 0x40600000, 0, 0⟩ : Irq))
    ∧ ((({ (wScSplit.put (PU_CTRL_HWSAVE 1) 1) with irqs := [⟨.thread 1, 0x40600000, 0, 0⟩] }).setClk { wOn.clk with was := [((PU_CTRL 1).addr, 1), ((PU_RBASE 1 2).addr, 0x20001000), ((PU_RLIM 1 2).addr, 0x20001FC7)] }).thrRuns (0 : Fin 4) (1 : Fin 3) = true)
    ∧ ((({ (wScSplit.put (PU_CTRL_HWSAVE 1) 1) with irqs := [⟨.thread 1, 0x40600000, 0, 0⟩] }).setClk { wOn.clk with was := [((PU_CTRL 1).addr, 1), ((PU_RBASE 1 2).addr, 0x20001000), ((PU_RLIM 1 2).addr, 0x20001FC7)] }).sc.length = 12)
    ∧ ((({ (wScSplit.put (PU_CTRL_HWSAVE 1) 1) with irqs := [⟨.thread 1, 0x40600000, 0, 0⟩] }).setClk { wOn.clk with was := [((PU_CTRL 1).addr, 1), ((PU_RBASE 1 2).addr, 0x20001000), ((PU_RLIM 1 2).addr, 0x20001FC7)] }).is (PU_CTRL_HWSAVE ((0 : Fin 4).val * 3 + (1 : Fin 3).val)) = true)
    ∧ ((0x20001040 : Word).toNat % 64 = 0)
    ∧ ((({ (wScSplit.put (PU_CTRL_HWSAVE 1) 1) with irqs := [⟨.thread 1, 0x40600000, 0, 0⟩] }).setClk { wOn.clk with was := [((PU_CTRL 1).addr, 1), ((PU_RBASE 1 2).addr, 0x20001000), ((PU_RLIM 1 2).addr, 0x20001FC7)] }).puAllows ((0 : Fin 4).val * 3 + (1 : Fin 3).val) ((0x20001040 : Word) - 64).toNat 64 1 false = true)
    ∧ ((({ (wScSplit.put (PU_CTRL_HWSAVE 1) 1) with irqs := [⟨.thread 1, 0x40600000, 0, 0⟩] }).setClk { wOn.clk with was := [((PU_CTRL 1).addr, 1), ((PU_RBASE 1 2).addr, 0x20001000), ((PU_RLIM 1 2).addr, 0x20001FC7)] }).puAllows ((0 : Fin 4).val * 3 + (1 : Fin 3).val) (0x20000100 : Word).toNat 4 2 false = false))
    ∧ ((wOn.irqFor ((0 : Fin 4).val * 3 + (1 : Fin 3).val) (0 : Nat) = none ∨ wOn.thrRuns (0 : Fin 4) (1 : Fin 3) = false)) := by
  and_intros <;> decide +kernel

theorem witness_mram_scrubber_and_dma_commands :
    ((({ wOn with mramW := [(0x200040, List.replicate 64 7), (0, [])] }).mramW = ((0x200040 : Nat), (List.replicate 64 7 : List Byte)) :: ([(0, [])] : List (Nat × List Byte))))
    ∧ ((wOn.mramW = []))
    ∧ (((wOn.setClk { wOn.clk with now := 4000 }).isOn 4 = true)
    ∧ ((wOn.setClk { wOn.clk with now := 4000 }).pllA = true)
    ∧ ((wOn.setClk { wOn.clk with now := 4000 }).is MEM_SCRUB_EN = true)
    ∧ ((wOn.setClk { wOn.clk with now := 4000 }).clk.scrubAt + 4000 ≤ (wOn.setClk { wOn.clk with now := 4000 }).now))
    ∧ (((wOn.setClk { wOn.clk with now := 4000 }).isOn 4 = true)
    ∧ ((wOn.setClk { wOn.clk with now := 4000 }).pllA = true)
    ∧ ((wOn.setClk { wOn.clk with now := 4000 }).is MEM_SCRUB_EN = true)
    ∧ ((wOn.setClk { wOn.clk with now := 4000 }).clk.scrubAt + 4000 ≤ (wOn.setClk { wOn.clk with now := 4000 }).now))
    ∧ (((wOn.setClk { wOn.clk with now := 4000 }).isOn 4 = true)
    ∧ ((wOn.setClk { wOn.clk with now := 4000 }).pllA = true)
    ∧ ((wOn.setClk { wOn.clk with now := 4000 }).is MEM_SCRUB_EN = true)
    ∧ ((wOn.setClk { wOn.clk with now := 4000 }).clk.scrubAt + 4000 ≤ (wOn.setClk { wOn.clk with now := 4000 }).now))
    ∧ ((wOn.isOn 4 = false ∨ wOn.pllA = false ∨ wOn.is MEM_SCRUB_EN = false ∨ wOn.now < wOn.clk.scrubAt + 4000)) := by
  and_intros <;> decide +kernel

theorem witness_mram_scrubber_and_dma_commands_part2 :
    ((wDma.dma.ch.length = 32)
    ∧ (wDma.Reaches (.sc 0 1 : Initiator) (DMA_CTRL (30 : Fin 32).val).addr)
    ∧ (24 ≤ (30 : Fin 32).val)
    ∧ (isSc (.sc 0 1 : Initiator) = true))
    ∧ ((wDma.dma.ch.length = 32)
    ∧ (wDma.Reaches (Initiator.kp : Initiator) (DMA_CTRL (3 : Fin 32).val).addr)
    ∧ ((0x31 : Word).getLsbD 2 = false)
    ∧ (wDma.dmaIllegal (3 : Fin 32).val = false)
    ∧ (((3 : Fin 32).val < 24 ∨ firmware (Initiator.kp : Initiator) = true))
    ∧ (wDma.get (DMA_LEN_LEN (3 : Fin 32).val) ≠ 0))
    ∧ (((wDma.put (DMA_LEN_LEN 3) 0).dma.ch.length = 32)
    ∧ ((wDma.put (DMA_LEN_LEN 3) 0).Reaches (Initiator.kp : Initiator) (DMA_CTRL (3 : Fin 32).val).addr)
    ∧ ((wDma.put (DMA_LEN_LEN 3) 0).dmaIllegal (3 : Fin 32).val = false)
    ∧ (((3 : Fin 32).val < 24 ∨ firmware (Initiator.kp : Initiator) = true))
    ∧ ((wDma.put (DMA_LEN_LEN 3) 0).get (DMA_LEN_LEN (3 : Fin 32).val) = 0))
    ∧ ((wDma.dma.ch.length = 32)
    ∧ (wDma.Reaches (Initiator.kp : Initiator) (DMA_CTRL (3 : Fin 32).val).addr)
    ∧ ((0x35 : Word).getLsbD 2 = true)
    ∧ (wDma.dmaIllegal (3 : Fin 32).val = false)
    ∧ (((3 : Fin 32).val < 24 ∨ firmware (Initiator.kp : Initiator) = true))
    ∧ (wDma.get (DMA_LEN_LEN (3 : Fin 32).val) ≠ 0))
    ∧ (((wDma.wr (DMA_SRC 3) 0x20010004).dma.ch.length = 32)
    ∧ ((wDma.wr (DMA_SRC 3) 0x20010004).Reaches (Initiator.kp : Initiator) (DMA_CTRL (3 : Fin 32).val).addr)
    ∧ ((0x31 : Word).getLsbD 1 = false)
    ∧ ((wDma.wr (DMA_SRC 3) 0x20010004).dmaIllegal (3 : Fin 32).val = true ∨ ¬((3 : Fin 32).val < 24 ∨ firmware (Initiator.kp : Initiator) = true))
    ∧ (¬(24 ≤ (3 : Fin 32).val ∧ isSc (Initiator.kp : Initiator) = true)))
    ∧ (((wDma.wr (DMA_SRC 3) 0x20010004).dma.ch.length = 32)
    ∧ ((wDma.wr (DMA_SRC 3) 0x20010004).Reaches (Initiator.kp : Initiator) (DMA_CTRL (3 : Fin 32).val).addr)
    ∧ ((0x33 : Word).getLsbD 1 = true)
    ∧ ((wDma.wr (DMA_SRC 3) 0x20010004).dmaIllegal (3 : Fin 32).val = true ∨ ¬((3 : Fin 32).val < 24 ∨ firmware (Initiator.kp : Initiator) = true))
    ∧ (¬(24 ≤ (3 : Fin 32).val ∧ isSc (Initiator.kp : Initiator) = true))) := by
  and_intros <;> decide +kernel

theorem witness_mram_scrubber_and_dma_commands_part3 :
    ((wDma.dma.ch.length = 32)
    ∧ (wDma.Reaches (.sc 0 1 : Initiator) (DMA_CTRL (30 : Fin 32).val).addr)
    ∧ (24 ≤ (30 : Fin 32).val)
    ∧ (isSc (.sc 0 1 : Initiator) = true))
    ∧ ((wDma.dma.ch.length = 32)
    ∧ (wDma.Reaches (Initiator.kp : Initiator) (DMA_CTRL (3 : Fin 32).val).addr)
    ∧ ((0x31 : Word).getLsbD 0 = true)
    ∧ ((0x31 : Word).getLsbD 2 = false)
    ∧ (wDma.dmaIllegal (3 : Fin 32).val = false)
    ∧ (((3 : Fin 32).val < 24 ∨ firmware (Initiator.kp : Initiator) = true))
    ∧ (wDma.get (DMA_LEN_LEN (3 : Fin 32).val) ≠ 0))
    ∧ (((wDma.put (DMA_LEN_LEN 3) 0).dma.ch.length = 32)
    ∧ ((wDma.put (DMA_LEN_LEN 3) 0).Reaches (Initiator.kp : Initiator) (DMA_CTRL (3 : Fin 32).val).addr)
    ∧ ((0x31 : Word).getLsbD 0 = true)
    ∧ ((wDma.put (DMA_LEN_LEN 3) 0).dmaIllegal (3 : Fin 32).val = false)
    ∧ (((3 : Fin 32).val < 24 ∨ firmware (Initiator.kp : Initiator) = true))
    ∧ ((wDma.put (DMA_LEN_LEN 3) 0).get (DMA_LEN_LEN (3 : Fin 32).val) = 0))
    ∧ ((wDma.dma.ch.length = 32)
    ∧ (wDma.Reaches (Initiator.kp : Initiator) (DMA_CTRL (3 : Fin 32).val).addr)
    ∧ ((0x35 : Word).getLsbD 0 = true)
    ∧ ((0x35 : Word).getLsbD 2 = true)
    ∧ (wDma.dmaIllegal (3 : Fin 32).val = false)
    ∧ (((3 : Fin 32).val < 24 ∨ firmware (Initiator.kp : Initiator) = true))
    ∧ (wDma.get (DMA_LEN_LEN (3 : Fin 32).val) ≠ 0))
    ∧ (((wDma.wr (DMA_SRC 3) 0x20010004).dma.ch.length = 32)
    ∧ ((wDma.wr (DMA_SRC 3) 0x20010004).Reaches (Initiator.kp : Initiator) (DMA_CTRL (3 : Fin 32).val).addr)
    ∧ ((0x33 : Word).getLsbD 0 = true)
    ∧ ((wDma.wr (DMA_SRC 3) 0x20010004).dmaIllegal (3 : Fin 32).val = true ∨ ¬((3 : Fin 32).val < 24 ∨ firmware (Initiator.kp : Initiator) = true))
    ∧ (¬(24 ≤ (3 : Fin 32).val ∧ isSc (Initiator.kp : Initiator) = true)))
    ∧ ((((wDma.put (DMA_STAT_STATE 3) 6).put (DMA_REMAIN_REMAIN 3) 64).dma.ch.length = 32)
    ∧ (((wDma.put (DMA_STAT_STATE 3) 6).put (DMA_REMAIN_REMAIN 3) 64).Reaches (Initiator.kp : Initiator) (DMA_CTRL (3 : Fin 32).val).addr)
    ∧ ((0x32 : Word).getLsbD 0 = false)
    ∧ ((0x32 : Word).getLsbD 2 = false)
    ∧ (¬(24 ≤ (3 : Fin 32).val ∧ isSc (Initiator.kp : Initiator) = true))
    ∧ ((((wDma.put (DMA_STAT_STATE 3) 6).put (DMA_REMAIN_REMAIN 3) 64).dmaState (3 : Fin 32).val = 5 ∨ ((wDma.put (DMA_STAT_STATE 3) 6).put (DMA_REMAIN_REMAIN 3) 64).dmaState (3 : Fin 32).val = 6))
    ∧ (((wDma.put (DMA_STAT_STATE 3) 6).put (DMA_REMAIN_REMAIN 3) 64).get (DMA_REMAIN_REMAIN (3 : Fin 32).val) ≠ 0)) := by
  and_intros <;> decide +kernel

theorem witness_mram_scrubber_and_dma_commands_part4 :
    ((((wDma.put (DMA_STAT_STATE 3) 6)).dma.ch.length = 32)
    ∧ (((wDma.put (DMA_STAT_STATE 3) 6)).Reaches (Initiator.kp : Initiator) (DMA_CTRL (3 : Fin 32).val).addr)
    ∧ ((0x32 : Word).getLsbD 0 = false)
    ∧ (¬(24 ≤ (3 : Fin 32).val ∧ isSc (Initiator.kp : Initiator) = true))
    ∧ ((((wDma.put (DMA_STAT_STATE 3) 6)).dmaState (3 : Fin 32).val = 5 ∨ ((wDma.put (DMA_STAT_STATE 3) 6)).dmaState (3 : Fin 32).val = 6))
    ∧ (((wDma.put (DMA_STAT_STATE 3) 6)).get (DMA_REMAIN_REMAIN (3 : Fin 32).val) = 0))
    ∧ ((((wDma.put (DMA_STAT_STATE 3) 6).put (DMA_REMAIN_REMAIN 3) 64).dma.ch.length = 32)
    ∧ (((wDma.put (DMA_STAT_STATE 3) 6).put (DMA_REMAIN_REMAIN 3) 64).Reaches (Initiator.kp : Initiator) (DMA_CTRL (3 : Fin 32).val).addr)
    ∧ ((0x36 : Word).getLsbD 0 = false)
    ∧ ((0x36 : Word).getLsbD 2 = true)
    ∧ (¬(24 ≤ (3 : Fin 32).val ∧ isSc (Initiator.kp : Initiator) = true))
    ∧ ((((wDma.put (DMA_STAT_STATE 3) 6).put (DMA_REMAIN_REMAIN 3) 64).dmaState (3 : Fin 32).val = 5 ∨ ((wDma.put (DMA_STAT_STATE 3) 6).put (DMA_REMAIN_REMAIN 3) 64).dmaState (3 : Fin 32).val = 6))
    ∧ (((wDma.put (DMA_STAT_STATE 3) 6).put (DMA_REMAIN_REMAIN 3) 64).get (DMA_REMAIN_REMAIN (3 : Fin 32).val) ≠ 0))
    ∧ ((wDma.dma.ch.length = 32)
    ∧ (wDma.Reaches (Initiator.kp : Initiator) (DMA_CTRL (3 : Fin 32).val).addr)
    ∧ ((0x32 : Word).getLsbD 0 = false)
    ∧ ((0x32 : Word).getLsbD 2 = false)
    ∧ (¬(24 ≤ (3 : Fin 32).val ∧ isSc (Initiator.kp : Initiator) = true))
    ∧ (wDma.dmaState (3 : Fin 32).val = 0 ∨ wDma.dmaState (3 : Fin 32).val = 4))
    ∧ ((wDma.dma.ch.length = 32)
    ∧ (wDma.Reaches (.sc 0 1 : Initiator) (DMA_CTRL (30 : Fin 32).val).addr)
    ∧ (24 ≤ (30 : Fin 32).val)
    ∧ (isSc (.sc 0 1 : Initiator) = true))
    ∧ (((wDma.put (DMA_LEN_LEN 3) 0).dma.ch.length = 32)
    ∧ ((wDma.put (DMA_LEN_LEN 3) 0).Reaches (Initiator.kp : Initiator) (DMA_CTRL (3 : Fin 32).val).addr)
    ∧ ((0x31 : Word).getLsbD 0 = true)
    ∧ ((wDma.put (DMA_LEN_LEN 3) 0).dmaIllegal (3 : Fin 32).val = false)
    ∧ (((3 : Fin 32).val < 24 ∨ firmware (Initiator.kp : Initiator) = true))
    ∧ ((wDma.put (DMA_LEN_LEN 3) 0).get (DMA_LEN_LEN (3 : Fin 32).val) = 0))
    ∧ ((wDma.dma.ch.length = 32)
    ∧ (wDma.Reaches (Initiator.kp : Initiator) (DMA_CTRL (3 : Fin 32).val).addr)
    ∧ ((0x35 : Word).getLsbD 0 = true)
    ∧ (wDma.dmaIllegal (3 : Fin 32).val = false)
    ∧ (((3 : Fin 32).val < 24 ∨ firmware (Initiator.kp : Initiator) = true))
    ∧ (wDma.get (DMA_LEN_LEN (3 : Fin 32).val) ≠ 0)) := by
  and_intros <;> decide +kernel

theorem witness_mram_scrubber_and_dma_commands_part5 :
    (((wDma.wr (DMA_SRC 3) 0x20010004).dma.ch.length = 32)
    ∧ ((wDma.wr (DMA_SRC 3) 0x20010004).Reaches (Initiator.kp : Initiator) (DMA_CTRL (3 : Fin 32).val).addr)
    ∧ ((0x31 : Word).getLsbD 0 = true)
    ∧ ((0x31 : Word).getLsbD 1 = false)
    ∧ ((wDma.wr (DMA_SRC 3) 0x20010004).dmaIllegal (3 : Fin 32).val = true ∨ ¬((3 : Fin 32).val < 24 ∨ firmware (Initiator.kp : Initiator) = true))
    ∧ (¬(24 ≤ (3 : Fin 32).val ∧ isSc (Initiator.kp : Initiator) = true)))
    ∧ (((wDma.wr (DMA_SRC 3) 0x20010004).dma.ch.length = 32)
    ∧ ((wDma.wr (DMA_SRC 3) 0x20010004).Reaches (Initiator.kp : Initiator) (DMA_CTRL (3 : Fin 32).val).addr)
    ∧ ((0x33 : Word).getLsbD 0 = true)
    ∧ ((0x33 : Word).getLsbD 1 = true)
    ∧ ((wDma.wr (DMA_SRC 3) 0x20010004).dmaIllegal (3 : Fin 32).val = true ∨ ¬((3 : Fin 32).val < 24 ∨ firmware (Initiator.kp : Initiator) = true))
    ∧ (¬(24 ≤ (3 : Fin 32).val ∧ isSc (Initiator.kp : Initiator) = true)))
    ∧ ((((wDma.put (DMA_STAT_STATE 3) 6)).dma.ch.length = 32)
    ∧ (((wDma.put (DMA_STAT_STATE 3) 6)).Reaches (Initiator.kp : Initiator) (DMA_CTRL (3 : Fin 32).val).addr)
    ∧ ((0x32 : Word).getLsbD 0 = false)
    ∧ ((0x32 : Word).getLsbD 1 = true)
    ∧ (¬(24 ≤ (3 : Fin 32).val ∧ isSc (Initiator.kp : Initiator) = true))
    ∧ ((((wDma.put (DMA_STAT_STATE 3) 6)).dmaState (3 : Fin 32).val = 5 ∨ ((wDma.put (DMA_STAT_STATE 3) 6)).dmaState (3 : Fin 32).val = 6))
    ∧ (((wDma.put (DMA_STAT_STATE 3) 6)).get (DMA_REMAIN_REMAIN (3 : Fin 32).val) = 0))
    ∧ ((((wDma.put (DMA_STAT_STATE 3) 6).put (DMA_REMAIN_REMAIN 3) 64).dma.ch.length = 32)
    ∧ (((wDma.put (DMA_STAT_STATE 3) 6).put (DMA_REMAIN_REMAIN 3) 64).Reaches (Initiator.kp : Initiator) (DMA_CTRL (3 : Fin 32).val).addr)
    ∧ ((0x36 : Word).getLsbD 0 = false)
    ∧ ((0x36 : Word).getLsbD 1 = true)
    ∧ (¬(24 ≤ (3 : Fin 32).val ∧ isSc (Initiator.kp : Initiator) = true))
    ∧ ((((wDma.put (DMA_STAT_STATE 3) 6).put (DMA_REMAIN_REMAIN 3) 64).dmaState (3 : Fin 32).val = 5 ∨ ((wDma.put (DMA_STAT_STATE 3) 6).put (DMA_REMAIN_REMAIN 3) 64).dmaState (3 : Fin 32).val = 6))
    ∧ (((wDma.put (DMA_STAT_STATE 3) 6).put (DMA_REMAIN_REMAIN 3) 64).get (DMA_REMAIN_REMAIN (3 : Fin 32).val) ≠ 0))
    ∧ (((wDma.put (DMA_STAT_STATE 3) 1).dma.ch.length = 32)
    ∧ ((wDma.put (DMA_STAT_STATE 3) 1).Reaches (Initiator.kp : Initiator) (DMA_CTRL (3 : Fin 32).val).addr)
    ∧ ((0x34 : Word).getLsbD 0 = false)
    ∧ (¬(24 ≤ (3 : Fin 32).val ∧ isSc (Initiator.kp : Initiator) = true))
    ∧ ((wDma.put (DMA_STAT_STATE 3) 1).dmaState (3 : Fin 32).val ≠ 5)
    ∧ ((wDma.put (DMA_STAT_STATE 3) 1).dmaState (3 : Fin 32).val ≠ 6)
    ∧ ((wDma.put (DMA_STAT_STATE 3) 1).dmaState (3 : Fin 32).val = 1 ∨ (wDma.put (DMA_STAT_STATE 3) 1).dmaState (3 : Fin 32).val = 3))
    ∧ ((((wDma.put (DMA_STAT_STATE 3) 2).setDma { Dma.idle with cur := some 3 }).dma.ch.length = 32)
    ∧ (((wDma.put (DMA_STAT_STATE 3) 2).setDma { Dma.idle with cur := some 3 }).Reaches (Initiator.kp : Initiator) (DMA_CTRL (3 : Fin 32).val).addr)
    ∧ ((0x34 : Word).getLsbD 0 = false)
    ∧ (¬(24 ≤ (3 : Fin 32).val ∧ isSc (Initiator.kp : Initiator) = true))
    ∧ (((wDma.put (DMA_STAT_STATE 3) 2).setDma { Dma.idle with cur := some 3 }).dmaState (3 : Fin 32).val = 2)
    ∧ (((wDma.put (DMA_STAT_STATE 3) 2).setDma { Dma.idle with cur := some 3 }).dma.cur = some (3 : Fin 32).val)) := by
  and_intros <;> decide +kernel

theorem witness_mram_scrubber_and_dma_commands_part6 :
    ((wDma.dma.ch.length = 32)
    ∧ (wDma.Reaches (Initiator.kp : Initiator) (DMA_CTRL (3 : Fin 32).val).addr)
    ∧ ((0x34 : Word).getLsbD 0 = false)
    ∧ ((0x34 : Word).getLsbD 1 = false)
    ∧ (¬(24 ≤ (3 : Fin 32).val ∧ isSc (Initiator.kp : Initiator) = true))
    ∧ (wDma.dmaState (3 : Fin 32).val = 0 ∨ 4 ≤ wDma.dmaState (3 : Fin 32).val))
    ∧ (((((wDma.wr (DMA_CFG 3) 0xFF3FF003).put (DMA_STAT_STATE 3) 1).setDmaCh 3 ⟨0, true, false⟩).dma.ch.length = 32)
    ∧ ((((wDma.wr (DMA_CFG 3) 0xFF3FF003).put (DMA_STAT_STATE 3) 1).setDmaCh 3 ⟨0, true, false⟩).isOn 4 = true)
    ∧ ((((wDma.wr (DMA_CFG 3) 0xFF3FF003).put (DMA_STAT_STATE 3) 1).setDmaCh 3 ⟨0, true, false⟩).ticking = true)
    ∧ ((((wDma.wr (DMA_CFG 3) 0xFF3FF003).put (DMA_STAT_STATE 3) 1).setDmaCh 3 ⟨0, true, false⟩).get (DMA_CFG_REQSEL (3 : Fin 32).val) = 0x3F)
    ∧ (((((wDma.wr (DMA_CFG 3) 0xFF3FF003).put (DMA_STAT_STATE 3) 1).setDmaCh 3 ⟨0, true, false⟩).dmaState (3 : Fin 32).val = 1 ∨ (((wDma.wr (DMA_CFG 3) 0xFF3FF003).put (DMA_STAT_STATE 3) 1).setDmaCh 3 ⟨0, true, false⟩).dmaState (3 : Fin 32).val = 2 ∨ (((wDma.wr (DMA_CFG 3) 0xFF3FF003).put (DMA_STAT_STATE 3) 1).setDmaCh 3 ⟨0, true, false⟩).dmaState (3 : Fin 32).val = 3))
    ∧ (((((wDma.wr (DMA_CFG 3) 0xFF3FF003).put (DMA_STAT_STATE 3) 1).setDmaCh 3 ⟨0, true, false⟩).dmaCh (3 : Fin 32).val).owed = true ∨ 0 < ((((wDma.wr (DMA_CFG 3) 0xFF3FF003).put (DMA_STAT_STATE 3) 1).setDmaCh 3 ⟨0, true, false⟩).dmaCh (3 : Fin 32).val).left))
    ∧ ((((wDma.wr (DMA_CFG 3) 0xFF3FF003).put (DMA_STAT_STATE 3) 1).dma.ch.length = 32)
    ∧ (((wDma.wr (DMA_CFG 3) 0xFF3FF003).put (DMA_STAT_STATE 3) 1).isOn 4 = true)
    ∧ (((wDma.wr (DMA_CFG 3) 0xFF3FF003).put (DMA_STAT_STATE 3) 1).ticking = true)
    ∧ (((wDma.wr (DMA_CFG 3) 0xFF3FF003).put (DMA_STAT_STATE 3) 1).get (DMA_CFG_REQSEL (3 : Fin 32).val) = 0x3F)
    ∧ (((wDma.wr (DMA_CFG 3) 0xFF3FF003).put (DMA_STAT_STATE 3) 1).dmaState (3 : Fin 32).val = 1)
    ∧ (((wDma.wr (DMA_CFG 3) 0xFF3FF003).put (DMA_STAT_STATE 3) 1).dmaCh (3 : Fin 32).val = ⟨0, false, false⟩)
    ∧ (((wDma.wr (DMA_CFG 3) 0xFF3FF003).put (DMA_STAT_STATE 3) 1).dma.cur = none)
    ∧ (∀ x ∈ List.range 32, x ≠ (3 : Fin 32).val → ((wDma.wr (DMA_CFG 3) 0xFF3FF003).put (DMA_STAT_STATE 3) 1).dmaWants x = false))
    ∧ (((((wDma.wr (DMA_CFG 3) 0xFF3FF003).put (DMA_STAT_STATE 3) 1).setDma { Dma.idle with cur := some 5 }).dma.ch.length = 32)
    ∧ ((((wDma.wr (DMA_CFG 3) 0xFF3FF003).put (DMA_STAT_STATE 3) 1).setDma { Dma.idle with cur := some 5 }).isOn 4 = true)
    ∧ ((((wDma.wr (DMA_CFG 3) 0xFF3FF003).put (DMA_STAT_STATE 3) 1).setDma { Dma.idle with cur := some 5 }).ticking = true)
    ∧ ((((wDma.wr (DMA_CFG 3) 0xFF3FF003).put (DMA_STAT_STATE 3) 1).setDma { Dma.idle with cur := some 5 }).get (DMA_CFG_REQSEL (3 : Fin 32).val) = 0x3F)
    ∧ (((((wDma.wr (DMA_CFG 3) 0xFF3FF003).put (DMA_STAT_STATE 3) 1).setDma { Dma.idle with cur := some 5 }).dmaState (3 : Fin 32).val = 1 ∨ (((wDma.wr (DMA_CFG 3) 0xFF3FF003).put (DMA_STAT_STATE 3) 1).setDma { Dma.idle with cur := some 5 }).dmaState (3 : Fin 32).val = 2 ∨ (((wDma.wr (DMA_CFG 3) 0xFF3FF003).put (DMA_STAT_STATE 3) 1).setDma { Dma.idle with cur := some 5 }).dmaState (3 : Fin 32).val = 3))
    ∧ (((((wDma.wr (DMA_CFG 3) 0xFF3FF003).put (DMA_STAT_STATE 3) 1).setDma { Dma.idle with cur := some 5 }).dmaCh (3 : Fin 32).val).owed = false)
    ∧ (((((wDma.wr (DMA_CFG 3) 0xFF3FF003).put (DMA_STAT_STATE 3) 1).setDma { Dma.idle with cur := some 5 }).dmaCh (3 : Fin 32).val).left = 0)
    ∧ ((((wDma.wr (DMA_CFG 3) 0xFF3FF003).put (DMA_STAT_STATE 3) 1).setDma { Dma.idle with cur := some 5 }).dma.cur = some (5 : Nat)))
    ∧ (((wDma.wr (DMA_CFG 3) 0xFF3FF003).dma.ch.length = 32)
    ∧ ((wDma.wr (DMA_CFG 3) 0xFF3FF003).isOn 4 = true)
    ∧ ((wDma.wr (DMA_CFG 3) 0xFF3FF003).ticking = true)
    ∧ ((wDma.wr (DMA_CFG 3) 0xFF3FF003).get (DMA_CFG_REQSEL (3 : Fin 32).val) = 0x3F)
    ∧ (¬((wDma.wr (DMA_CFG 3) 0xFF3FF003).dmaState (3 : Fin 32).val = 1 ∨ (wDma.wr (DMA_CFG 3) 0xFF3FF003).dmaState (3 : Fin 32).val = 2 ∨ (wDma.wr (DMA_CFG 3) 0xFF3FF003).dmaState (3 : Fin 32).val = 3)))
    ∧ ((wDma.dma.ch.length = 32)
    ∧ (wDma.isOn 4 = true)
    ∧ (wDma.ticking = true)
    ∧ (wDma.get (DMA_CFG_REQSEL (3 : Fin 32).val) ≠ 0x3F)) := by
  and_intros <;> decide +kernel

theorem witness_mram_scrubber_and_dma_commands_part7 :
    (((State.reset).isOn 4 = false ∨ (State.reset).ticking = false))
    ∧ ((((((((wDma.put (DMA_STAT_STATE 3) 2).wr (DMA_CURSRC 3) 0x20010000).wr (DMA_CURDST 3) 0x20020000).put (DMA_REMAIN_REMAIN 3) 128).wrMem32 0x20010004 0xCAFEF00D).setDma { ch := Dma.idle.ch.set 3 ⟨2, false, false⟩, cur := some 3 }).dma.ch.length = 32)
    ∧ (((((((wDma.put (DMA_STAT_STATE 3) 2).wr (DMA_CURSRC 3) 0x20010000).wr (DMA_CURDST 3) 0x20020000).put (DMA_REMAIN_REMAIN 3) 128).wrMem32 0x20010004 0xCAFEF00D).setDma { ch := Dma.idle.ch.set 3 ⟨2, false, false⟩, cur := some 3 }).dma.cur = some (3 : Fin 32).val)
    ∧ (((((((wDma.put (DMA_STAT_STATE 3) 2).wr (DMA_CURSRC 3) 0x20010000).wr (DMA_CURDST 3) 0x20020000).put (DMA_REMAIN_REMAIN 3) 128).wrMem32 0x20010004 0xCAFEF00D).setDma { ch := Dma.idle.ch.set 3 ⟨2, false, false⟩, cur := some 3 }).isOn 4 = true)
    ∧ (((((((wDma.put (DMA_STAT_STATE 3) 2).wr (DMA_CURSRC 3) 0x20010000).wr (DMA_CURDST 3) 0x20020000).put (DMA_REMAIN_REMAIN 3) 128).wrMem32 0x20010004 0xCAFEF00D).setDma { ch := Dma.idle.ch.set 3 ⟨2, false, false⟩, cur := some 3 }).pllA = true)
    ∧ (((((((wDma.put (DMA_STAT_STATE 3) 2).wr (DMA_CURSRC 3) 0x20010000).wr (DMA_CURDST 3) 0x20020000).put (DMA_REMAIN_REMAIN 3) 128).wrMem32 0x20010004 0xCAFEF00D).setDma { ch := Dma.idle.ch.set 3 ⟨2, false, false⟩, cur := some 3 }).dmaStuck (3 : Fin 32).val = false)
    ∧ (((((((wDma.put (DMA_STAT_STATE 3) 2).wr (DMA_CURSRC 3) 0x20010000).wr (DMA_CURDST 3) 0x20020000).put (DMA_REMAIN_REMAIN 3) 128).wrMem32 0x20010004 0xCAFEF00D).setDma { ch := Dma.idle.ch.set 3 ⟨2, false, false⟩, cur := some 3 }).is STU_CTRL_BYPASS = true)
    ∧ (((((((wDma.put (DMA_STAT_STATE 3) 2).wr (DMA_CURSRC 3) 0x20010000).wr (DMA_CURDST 3) 0x20020000).put (DMA_REMAIN_REMAIN 3) 128).wrMem32 0x20010004 0xCAFEF00D).setDma { ch := Dma.idle.ch.set 3 ⟨2, false, false⟩, cur := some 3 }).is (DMA_CFG_SRCINC (3 : Fin 32).val) = true)
    ∧ (((((((wDma.put (DMA_STAT_STATE 3) 2).wr (DMA_CURSRC 3) 0x20010000).wr (DMA_CURDST 3) 0x20020000).put (DMA_REMAIN_REMAIN 3) 128).wrMem32 0x20010004 0xCAFEF00D).setDma { ch := Dma.idle.ch.set 3 ⟨2, false, false⟩, cur := some 3 }).is (DMA_CFG_DSTINC (3 : Fin 32).val) = true)
    ∧ ((((((((wDma.put (DMA_STAT_STATE 3) 2).wr (DMA_CURSRC 3) 0x20010000).wr (DMA_CURDST 3) 0x20020000).put (DMA_REMAIN_REMAIN 3) 128).wrMem32 0x20010004 0xCAFEF00D).setDma { ch := Dma.idle.ch.set 3 ⟨2, false, false⟩, cur := some 3 }).rd (DMA_CURSRC (3 : Fin 32).val)).toNat % 64 = 0)
    ∧ ((((((((wDma.put (DMA_STAT_STATE 3) 2).wr (DMA_CURSRC 3) 0x20010000).wr (DMA_CURDST 3) 0x20020000).put (DMA_REMAIN_REMAIN 3) 128).wrMem32 0x20010004 0xCAFEF00D).setDma { ch := Dma.idle.ch.set 3 ⟨2, false, false⟩, cur := some 3 }).rd (DMA_CURDST (3 : Fin 32).val)).toNat % 64 = 0)
    ∧ (0x20000000 ≤ (((((((wDma.put (DMA_STAT_STATE 3) 2).wr (DMA_CURSRC 3) 0x20010000).wr (DMA_CURDST 3) 0x20020000).put (DMA_REMAIN_REMAIN 3) 128).wrMem32 0x20010004 0xCAFEF00D).setDma { ch := Dma.idle.ch.set 3 ⟨2, false, false⟩, cur := some 3 }).rd (DMA_CURSRC (3 : Fin 32).val)).toNat)
    ∧ ((((((((wDma.put (DMA_STAT_STATE 3) 2).wr (DMA_CURSRC 3) 0x20010000).wr (DMA_CURDST 3) 0x20020000).put (DMA_REMAIN_REMAIN 3) 128).wrMem32 0x20010004 0xCAFEF00D).setDma { ch := Dma.idle.ch.set 3 ⟨2, false, false⟩, cur := some 3 }).rd (DMA_CURSRC (3 : Fin 32).val)).toNat + 64 ≤ 0x21F80000)
    ∧ (0x20000000 ≤ (((((((wDma.put (DMA_STAT_STATE 3) 2).wr (DMA_CURSRC 3) 0x20010000).wr (DMA_CURDST 3) 0x20020000).put (DMA_REMAIN_REMAIN 3) 128).wrMem32 0x20010004 0xCAFEF00D).setDma { ch := Dma.idle.ch.set 3 ⟨2, false, false⟩, cur := some 3 }).rd (DMA_CURDST (3 : Fin 32).val)).toNat)
    ∧ ((((((((wDma.put (DMA_STAT_STATE 3) 2).wr (DMA_CURSRC 3) 0x20010000).wr (DMA_CURDST 3) 0x20020000).put (DMA_REMAIN_REMAIN 3) 128).wrMem32 0x20010004 0xCAFEF00D).setDma { ch := Dma.idle.ch.set 3 ⟨2, false, false⟩, cur := some 3 }).rd (DMA_CURDST (3 : Fin 32).val)).toNat + 64 ≤ 0x21F80000)
    ∧ (((((((wDma.put (DMA_STAT_STATE 3) 2).wr (DMA_CURSRC 3) 0x20010000).wr (DMA_CURDST 3) 0x20020000).put (DMA_REMAIN_REMAIN 3) 128).wrMem32 0x20010004 0xCAFEF00D).setDma { ch := Dma.idle.ch.set 3 ⟨2, false, false⟩, cur := some 3 }).dmaCh (3 : Fin 32).val = ⟨(0 : Nat) + 2, false, false⟩)
    ∧ (64 < ((((((wDma.put (DMA_STAT_STATE 3) 2).wr (DMA_CURSRC 3) 0x20010000).wr (DMA_CURDST 3) 0x20020000).put (DMA_REMAIN_REMAIN 3) 128).wrMem32 0x20010004 0xCAFEF00D).setDma { ch := Dma.idle.ch.set 3 ⟨2, false, false⟩, cur := some 3 }).get (DMA_REMAIN_REMAIN (3 : Fin 32).val))
    ∧ (((((((wDma.put (DMA_STAT_STATE 3) 2).wr (DMA_CURSRC 3) 0x20010000).wr (DMA_CURDST 3) 0x20020000).put (DMA_REMAIN_REMAIN 3) 128).wrMem32 0x20010004 0xCAFEF00D).setDma { ch := Dma.idle.ch.set 3 ⟨2, false, false⟩, cur := some 3 }).dmaOutranked (3 : Fin 32).val = false)
    ∧ ((((((((wDma.put (DMA_STAT_STATE 3) 2).wr (DMA_CURSRC 3) 0x20010000).wr (DMA_CURDST 3) 0x20020000).put (DMA_REMAIN_REMAIN 3) 128).wrMem32 0x20010004 0xCAFEF00D).setDma { ch := Dma.idle.ch.set 3 ⟨2, false, false⟩, cur := some 3 }).rd (DMA_CURSRC (3 : Fin 32).val)).toNat + 64 ≤ (((((((wDma.put (DMA_STAT_STATE 3) 2).wr (DMA_CURSRC 3) 0x20010000).wr (DMA_CURDST 3) 0x20020000).put (DMA_REMAIN_REMAIN 3) 128).wrMem32 0x20010004 0xCAFEF00D).setDma { ch := Dma.idle.ch.set 3 ⟨2, false, false⟩, cur := some 3 }).rd (DMA_CURDST (3 : Fin 32).val)).toNat))
    ∧ ((((((((wDma.put (DMA_STAT_STATE 3) 2).wr (DMA_CURSRC 3) 0x20010000).wr (DMA_CURDST 3) 0x20020000).put (DMA_REMAIN_REMAIN 3) 64).wrMem32 0x20010004 0xCAFEF00D).setDma { ch := Dma.idle.ch.set 3 ⟨2, false, false⟩, cur := some 3 }).dma.ch.length = 32)
    ∧ (((((((wDma.put (DMA_STAT_STATE 3) 2).wr (DMA_CURSRC 3) 0x20010000).wr (DMA_CURDST 3) 0x20020000).put (DMA_REMAIN_REMAIN 3) 64).wrMem32 0x20010004 0xCAFEF00D).setDma { ch := Dma.idle.ch.set 3 ⟨2, false, false⟩, cur := some 3 }).dma.cur = some (3 : Fin 32).val)
    ∧ (((((((wDma.put (DMA_STAT_STATE 3) 2).wr (DMA_CURSRC 3) 0x20010000).wr (DMA_CURDST 3) 0x20020000).put (DMA_REMAIN_REMAIN 3) 64).wrMem32 0x20010004 0xCAFEF00D).setDma { ch := Dma.idle.ch.set 3 ⟨2, false, false⟩, cur := some 3 }).isOn 4 = true)
    ∧ (((((((wDma.put (DMA_STAT_STATE 3) 2).wr (DMA_CURSRC 3) 0x20010000).wr (DMA_CURDST 3) 0x20020000).put (DMA_REMAIN_REMAIN 3) 64).wrMem32 0x20010004 0xCAFEF00D).setDma { ch := Dma.idle.ch.set 3 ⟨2, false, false⟩, cur := some 3 }).pllA = true)
    ∧ (((((((wDma.put (DMA_STAT_STATE 3) 2).wr (DMA_CURSRC 3) 0x20010000).wr (DMA_CURDST 3) 0x20020000).put (DMA_REMAIN_REMAIN 3) 64).wrMem32 0x20010004 0xCAFEF00D).setDma { ch := Dma.idle.ch.set 3 ⟨2, false, false⟩, cur := some 3 }).dmaStuck (3 : Fin 32).val = false)
    ∧ (((((((wDma.put (DMA_STAT_STATE 3) 2).wr (DMA_CURSRC 3) 0x20010000).wr (DMA_CURDST 3) 0x20020000).put (DMA_REMAIN_REMAIN 3) 64).wrMem32 0x20010004 0xCAFEF00D).setDma { ch := Dma.idle.ch.set 3 ⟨2, false, false⟩, cur := some 3 }).is STU_CTRL_BYPASS = true)
    ∧ (((((((wDma.put (DMA_STAT_STATE 3) 2).wr (DMA_CURSRC 3) 0x20010000).wr (DMA_CURDST 3) 0x20020000).put (DMA_REMAIN_REMAIN 3) 64).wrMem32 0x20010004 0xCAFEF00D).setDma { ch := Dma.idle.ch.set 3 ⟨2, false, false⟩, cur := some 3 }).is (DMA_CFG_SRCINC (3 : Fin 32).val) = true)
    ∧ (((((((wDma.put (DMA_STAT_STATE 3) 2).wr (DMA_CURSRC 3) 0x20010000).wr (DMA_CURDST 3) 0x20020000).put (DMA_REMAIN_REMAIN 3) 64).wrMem32 0x20010004 0xCAFEF00D).setDma { ch := Dma.idle.ch.set 3 ⟨2, false, false⟩, cur := some 3 }).is (DMA_CFG_DSTINC (3 : Fin 32).val) = true)
    ∧ ((((((((wDma.put (DMA_STAT_STATE 3) 2).wr (DMA_CURSRC 3) 0x20010000).wr (DMA_CURDST 3) 0x20020000).put (DMA_REMAIN_REMAIN 3) 64).wrMem32 0x20010004 0xCAFEF00D).setDma { ch := Dma.idle.ch.set 3 ⟨2, false, false⟩, cur := some 3 }).rd (DMA_CURSRC (3 : Fin 32).val)).toNat % 64 = 0)
    ∧ ((((((((wDma.put (DMA_STAT_STATE 3) 2).wr (DMA_CURSRC 3) 0x20010000).wr (DMA_CURDST 3) 0x20020000).put (DMA_REMAIN_REMAIN 3) 64).wrMem32 0x20010004 0xCAFEF00D).setDma { ch := Dma.idle.ch.set 3 ⟨2, false, false⟩, cur := some 3 }).rd (DMA_CURDST (3 : Fin 32).val)).toNat % 64 = 0)
    ∧ (0x20000000 ≤ (((((((wDma.put (DMA_STAT_STATE 3) 2).wr (DMA_CURSRC 3) 0x20010000).wr (DMA_CURDST 3) 0x20020000).put (DMA_REMAIN_REMAIN 3) 64).wrMem32 0x20010004 0xCAFEF00D).setDma { ch := Dma.idle.ch.set 3 ⟨2, false, false⟩, cur := some 3 }).rd (DMA_CURSRC (3 : Fin 32).val)).toNat)
    ∧ ((((((((wDma.put (DMA_STAT_STATE 3) 2).wr (DMA_CURSRC 3) 0x20010000).wr (DMA_CURDST 3) 0x20020000).put (DMA_REMAIN_REMAIN 3) 64).wrMem32 0x20010004 0xCAFEF00D).setDma { ch := Dma.idle.ch.set 3 ⟨2, false, false⟩, cur := some 3 }).rd (DMA_CURSRC (3 : Fin 32).val)).toNat + 64 ≤ 0x21F80000)
    ∧ (0x20000000 ≤ (((((((wDma.put (DMA_STAT_STATE 3) 2).wr (DMA_CURSRC 3) 0x20010000).wr (DMA_CURDST 3) 0x20020000).put (DMA_REMAIN_REMAIN 3) 64).wrMem32 0x20010004 0xCAFEF00D).setDma { ch := Dma.idle.ch.set 3 ⟨2, false, false⟩, cur := some 3 }).rd (DMA_CURDST (3 : Fin 32).val)).toNat)
    ∧ ((((((((wDma.put (DMA_STAT_STATE 3) 2).wr (DMA_CURSRC 3) 0x20010000).wr (DMA_CURDST 3) 0x20020000).put (DMA_REMAIN_REMAIN 3) 64).wrMem32 0x20010004 0xCAFEF00D).setDma { ch := Dma.idle.ch.set 3 ⟨2, false, false⟩, cur := some 3 }).rd (DMA_CURDST (3 : Fin 32).val)).toNat + 64 ≤ 0x21F80000)
    ∧ ((((((((wDma.put (DMA_STAT_STATE 3) 2).wr (DMA_CURSRC 3) 0x20010000).wr (DMA_CURDST 3) 0x20020000).put (DMA_REMAIN_REMAIN 3) 64).wrMem32 0x20010004 0xCAFEF00D).setDma { ch := Dma.idle.ch.set 3 ⟨2, false, false⟩, cur := some 3 }).dmaCh (3 : Fin 32).val).abort = false)
    ∧ (((((((wDma.put (DMA_STAT_STATE 3) 2).wr (DMA_CURSRC 3) 0x20010000).wr (DMA_CURDST 3) 0x20020000).put (DMA_REMAIN_REMAIN 3) 64).wrMem32 0x20010004 0xCAFEF00D).setDma { ch := Dma.idle.ch.set 3 ⟨2, false, false⟩, cur := some 3 }).get (DMA_REMAIN_REMAIN (3 : Fin 32).val) = 64))
    ∧ ((((((((wDma.put (DMA_STAT_STATE 3) 2).wr (DMA_CURSRC 3) 0x20010000).wr (DMA_CURDST 3) 0x20020000).put (DMA_REMAIN_REMAIN 3) 128).wrMem32 0x20010004 0xCAFEF00D).setDma { ch := Dma.idle.ch.set 3 ⟨2, false, true⟩, cur := some 3 }).dma.ch.length = 32)
    ∧ (((((((wDma.put (DMA_STAT_STATE 3) 2).wr (DMA_CURSRC 3) 0x20010000).wr (DMA_CURDST 3) 0x20020000).put (DMA_REMAIN_REMAIN 3) 128).wrMem32 0x20010004 0xCAFEF00D).setDma { ch := Dma.idle.ch.set 3 ⟨2, false, true⟩, cur := some 3 }).dma.cur = some (3 : Fin 32).val)
    ∧ (((((((wDma.put (DMA_STAT_STATE 3) 2).wr (DMA_CURSRC 3) 0x20010000).wr (DMA_CURDST 3) 0x20020000).put (DMA_REMAIN_REMAIN 3) 128).wrMem32 0x20010004 0xCAFEF00D).setDma { ch := Dma.idle.ch.set 3 ⟨2, false, true⟩, cur := some 3 }).isOn 4 = true)
    ∧ (((((((wDma.put (DMA_STAT_STATE 3) 2).wr (DMA_CURSRC 3) 0x20010000).wr (DMA_CURDST 3) 0x20020000).put (DMA_REMAIN_REMAIN 3) 128).wrMem32 0x20010004 0xCAFEF00D).setDma { ch := Dma.idle.ch.set 3 ⟨2, false, true⟩, cur := some 3 }).pllA = true)
    ∧ (((((((wDma.put (DMA_STAT_STATE 3) 2).wr (DMA_CURSRC 3) 0x20010000).wr (DMA_CURDST 3) 0x20020000).put (DMA_REMAIN_REMAIN 3) 128).wrMem32 0x20010004 0xCAFEF00D).setDma { ch := Dma.idle.ch.set 3 ⟨2, false, true⟩, cur := some 3 }).dmaStuck (3 : Fin 32).val = false)
    ∧ (((((((wDma.put (DMA_STAT_STATE 3) 2).wr (DMA_CURSRC 3) 0x20010000).wr (DMA_CURDST 3) 0x20020000).put (DMA_REMAIN_REMAIN 3) 128).wrMem32 0x20010004 0xCAFEF00D).setDma { ch := Dma.idle.ch.set 3 ⟨2, false, true⟩, cur := some 3 }).is STU_CTRL_BYPASS = true)
    ∧ (((((((wDma.put (DMA_STAT_STATE 3) 2).wr (DMA_CURSRC 3) 0x20010000).wr (DMA_CURDST 3) 0x20020000).put (DMA_REMAIN_REMAIN 3) 128).wrMem32 0x20010004 0xCAFEF00D).setDma { ch := Dma.idle.ch.set 3 ⟨2, false, true⟩, cur := some 3 }).is (DMA_CFG_SRCINC (3 : Fin 32).val) = true)
    ∧ (((((((wDma.put (DMA_STAT_STATE 3) 2).wr (DMA_CURSRC 3) 0x20010000).wr (DMA_CURDST 3) 0x20020000).put (DMA_REMAIN_REMAIN 3) 128).wrMem32 0x20010004 0xCAFEF00D).setDma { ch := Dma.idle.ch.set 3 ⟨2, false, true⟩, cur := some 3 }).is (DMA_CFG_DSTINC (3 : Fin 32).val) = true)
    ∧ ((((((((wDma.put (DMA_STAT_STATE 3) 2).wr (DMA_CURSRC 3) 0x20010000).wr (DMA_CURDST 3) 0x20020000).put (DMA_REMAIN_REMAIN 3) 128).wrMem32 0x20010004 0xCAFEF00D).setDma { ch := Dma.idle.ch.set 3 ⟨2, false, true⟩, cur := some 3 }).rd (DMA_CURSRC (3 : Fin 32).val)).toNat % 64 = 0)
    ∧ ((((((((wDma.put (DMA_STAT_STATE 3) 2).wr (DMA_CURSRC 3) 0x20010000).wr (DMA_CURDST 3) 0x20020000).put (DMA_REMAIN_REMAIN 3) 128).wrMem32 0x20010004 0xCAFEF00D).setDma { ch := Dma.idle.ch.set 3 ⟨2, false, true⟩, cur := some 3 }).rd (DMA_CURDST (3 : Fin 32).val)).toNat % 64 = 0)
    ∧ (0x20000000 ≤ (((((((wDma.put (DMA_STAT_STATE 3) 2).wr (DMA_CURSRC 3) 0x20010000).wr (DMA_CURDST 3) 0x20020000).put (DMA_REMAIN_REMAIN 3) 128).wrMem32 0x20010004 0xCAFEF00D).setDma { ch := Dma.idle.ch.set 3 ⟨2, false, true⟩, cur := some 3 }).rd (DMA_CURSRC (3 : Fin 32).val)).toNat)
    ∧ ((((((((wDma.put (DMA_STAT_STATE 3) 2).wr (DMA_CURSRC 3) 0x20010000).wr (DMA_CURDST 3) 0x20020000).put (DMA_REMAIN_REMAIN 3) 128).wrMem32 0x20010004 0xCAFEF00D).setDma { ch := Dma.idle.ch.set 3 ⟨2, false, true⟩, cur := some 3 }).rd (DMA_CURSRC (3 : Fin 32).val)).toNat + 64 ≤ 0x21F80000)
    ∧ (0x20000000 ≤ (((((((wDma.put (DMA_STAT_STATE 3) 2).wr (DMA_CURSRC 3) 0x20010000).wr (DMA_CURDST 3) 0x20020000).put (DMA_REMAIN_REMAIN 3) 128).wrMem32 0x20010004 0xCAFEF00D).setDma { ch := Dma.idle.ch.set 3 ⟨2, false, true⟩, cur := some 3 }).rd (DMA_CURDST (3 : Fin 32).val)).toNat)
    ∧ ((((((((wDma.put (DMA_STAT_STATE 3) 2).wr (DMA_CURSRC 3) 0x20010000).wr (DMA_CURDST 3) 0x20020000).put (DMA_REMAIN_REMAIN 3) 128).wrMem32 0x20010004 0xCAFEF00D).setDma { ch := Dma.idle.ch.set 3 ⟨2, false, true⟩, cur := some 3 }).rd (DMA_CURDST (3 : Fin 32).val)).toNat + 64 ≤ 0x21F80000)
    ∧ ((((((((wDma.put (DMA_STAT_STATE 3) 2).wr (DMA_CURSRC 3) 0x20010000).wr (DMA_CURDST 3) 0x20020000).put (DMA_REMAIN_REMAIN 3) 128).wrMem32 0x20010004 0xCAFEF00D).setDma { ch := Dma.idle.ch.set 3 ⟨2, false, true⟩, cur := some 3 }).dmaCh (3 : Fin 32).val).abort = true)
    ∧ (64 < ((((((wDma.put (DMA_STAT_STATE 3) 2).wr (DMA_CURSRC 3) 0x20010000).wr (DMA_CURDST 3) 0x20020000).put (DMA_REMAIN_REMAIN 3) 128).wrMem32 0x20010004 0xCAFEF00D).setDma { ch := Dma.idle.ch.set 3 ⟨2, false, true⟩, cur := some 3 }).get (DMA_REMAIN_REMAIN (3 : Fin 32).val)))
    ∧ ((((((((((wDma.put (DMA_STAT_STATE 3) 2).wr (DMA_CURSRC 3) 0x20010000).wr (DMA_CURDST 3) 0x20020000).put (DMA_REMAIN_REMAIN 3) 128).wrMem32 0x20010004 0xCAFEF00D).setDma { ch := Dma.idle.ch.set 3 ⟨2, false, false⟩, cur := some 3 }).put (DMA_STAT_STATE 5) 1).put (DMA_CFG_PRIO 5) 7 |>.put (DMA_CFG_PRIO 3) 0 |>.put (DMA_CFG_REQSEL 5) 0).dma.ch.length = 32)
    ∧ (((((((((wDma.put (DMA_STAT_STATE 3) 2).wr (DMA_CURSRC 3) 0x20010000).wr (DMA_CURDST 3) 0x20020000).put (DMA_REMAIN_REMAIN 3) 128).wrMem32 0x20010004 0xCAFEF00D).setDma { ch := Dma.idle.ch.set 3 ⟨2, false, false⟩, cur := some 3 }).put (DMA_STAT_STATE 5) 1).put (DMA_CFG_PRIO 5) 7 |>.put (DMA_CFG_PRIO 3) 0 |>.put (DMA_CFG_REQSEL 5) 0).dma.cur = some (3 : Fin 32).val)
    ∧ (((((((((wDma.put (DMA_STAT_STATE 3) 2).wr (DMA_CURSRC 3) 0x20010000).wr (DMA_CURDST 3) 0x20020000).put (DMA_REMAIN_REMAIN 3) 128).wrMem32 0x20010004 0xCAFEF00D).setDma { ch := Dma.idle.ch.set 3 ⟨2, false, false⟩, cur := some 3 }).put (DMA_STAT_STATE 5) 1).put (DMA_CFG_PRIO 5) 7 |>.put (DMA_CFG_PRIO 3) 0 |>.put (DMA_CFG_REQSEL 5) 0).isOn 4 = true)
    ∧ (((((((((wDma.put (DMA_STAT_STATE 3) 2).wr (DMA_CURSRC 3) 0x20010000).wr (DMA_CURDST 3) 0x20020000).put (DMA_REMAIN_REMAIN 3) 128).wrMem32 0x20010004 0xCAFEF00D).setDma { ch := Dma.idle.ch.set 3 ⟨2, false, false⟩, cur := some 3 }).put (DMA_STAT_STATE 5) 1).put (DMA_CFG_PRIO 5) 7 |>.put (DMA_CFG_PRIO 3) 0 |>.put (DMA_CFG_REQSEL 5) 0).pllA = true)
    ∧ (((((((((wDma.put (DMA_STAT_STATE 3) 2).wr (DMA_CURSRC 3) 0x20010000).wr (DMA_CURDST 3) 0x20020000).put (DMA_REMAIN_REMAIN 3) 128).wrMem32 0x20010004 0xCAFEF00D).setDma { ch := Dma.idle.ch.set 3 ⟨2, false, false⟩, cur := some 3 }).put (DMA_STAT_STATE 5) 1).put (DMA_CFG_PRIO 5) 7 |>.put (DMA_CFG_PRIO 3) 0 |>.put (DMA_CFG_REQSEL 5) 0).dmaStuck (3 : Fin 32).val = false)
    ∧ (((((((((wDma.put (DMA_STAT_STATE 3) 2).wr (DMA_CURSRC 3) 0x20010000).wr (DMA_CURDST 3) 0x20020000).put (DMA_REMAIN_REMAIN 3) 128).wrMem32 0x20010004 0xCAFEF00D).setDma { ch := Dma.idle.ch.set 3 ⟨2, false, false⟩, cur := some 3 }).put (DMA_STAT_STATE 5) 1).put (DMA_CFG_PRIO 5) 7 |>.put (DMA_CFG_PRIO 3) 0 |>.put (DMA_CFG_REQSEL 5) 0).is STU_CTRL_BYPASS = true)
    ∧ (((((((((wDma.put (DMA_STAT_STATE 3) 2).wr (DMA_CURSRC 3) 0x20010000).wr (DMA_CURDST 3) 0x20020000).put (DMA_REMAIN_REMAIN 3) 128).wrMem32 0x20010004 0xCAFEF00D).setDma { ch := Dma.idle.ch.set 3 ⟨2, false, false⟩, cur := some 3 }).put (DMA_STAT_STATE 5) 1).put (DMA_CFG_PRIO 5) 7 |>.put (DMA_CFG_PRIO 3) 0 |>.put (DMA_CFG_REQSEL 5) 0).is (DMA_CFG_SRCINC (3 : Fin 32).val) = true)
    ∧ (((((((((wDma.put (DMA_STAT_STATE 3) 2).wr (DMA_CURSRC 3) 0x20010000).wr (DMA_CURDST 3) 0x20020000).put (DMA_REMAIN_REMAIN 3) 128).wrMem32 0x20010004 0xCAFEF00D).setDma { ch := Dma.idle.ch.set 3 ⟨2, false, false⟩, cur := some 3 }).put (DMA_STAT_STATE 5) 1).put (DMA_CFG_PRIO 5) 7 |>.put (DMA_CFG_PRIO 3) 0 |>.put (DMA_CFG_REQSEL 5) 0).is (DMA_CFG_DSTINC (3 : Fin 32).val) = true)
    ∧ ((((((((((wDma.put (DMA_STAT_STATE 3) 2).wr (DMA_CURSRC 3) 0x20010000).wr (DMA_CURDST 3) 0x20020000).put (DMA_REMAIN_REMAIN 3) 128).wrMem32 0x20010004 0xCAFEF00D).setDma { ch := Dma.idle.ch.set 3 ⟨2, false, false⟩, cur := some 3 }).put (DMA_STAT_STATE 5) 1).put (DMA_CFG_PRIO 5) 7 |>.put (DMA_CFG_PRIO 3) 0 |>.put (DMA_CFG_REQSEL 5) 0).rd (DMA_CURSRC (3 : Fin 32).val)).toNat % 64 = 0)
    ∧ ((((((((((wDma.put (DMA_STAT_STATE 3) 2).wr (DMA_CURSRC 3) 0x20010000).wr (DMA_CURDST 3) 0x20020000).put (DMA_REMAIN_REMAIN 3) 128).wrMem32 0x20010004 0xCAFEF00D).setDma { ch := Dma.idle.ch.set 3 ⟨2, false, false⟩, cur := some 3 }).put (DMA_STAT_STATE 5) 1).put (DMA_CFG_PRIO 5) 7 |>.put (DMA_CFG_PRIO 3) 0 |>.put (DMA_CFG_REQSEL 5) 0).rd (DMA_CURDST (3 : Fin 32).val)).toNat % 64 = 0)
    ∧ (0x20000000 ≤ (((((((((wDma.put (DMA_STAT_STATE 3) 2).wr (DMA_CURSRC 3) 0x20010000).wr (DMA_CURDST 3) 0x20020000).put (DMA_REMAIN_REMAIN 3) 128).wrMem32 0x20010004 0xCAFEF00D).setDma { ch := Dma.idle.ch.set 3 ⟨2, false, false⟩, cur := some 3 }).put (DMA_STAT_STATE 5) 1).put (DMA_CFG_PRIO 5) 7 |>.put (DMA_CFG_PRIO 3) 0 |>.put (DMA_CFG_REQSEL 5) 0).rd (DMA_CURSRC (3 : Fin 32).val)).toNat)
    ∧ ((((((((((wDma.put (DMA_STAT_STATE 3) 2).wr (DMA_CURSRC 3) 0x20010000).wr (DMA_CURDST 3) 0x20020000).put (DMA_REMAIN_REMAIN 3) 128).wrMem32 0x20010004 0xCAFEF00D).setDma { ch := Dma.idle.ch.set 3 ⟨2, false, false⟩, cur := some 3 }).put (DMA_STAT_STATE 5) 1).put (DMA_CFG_PRIO 5) 7 |>.put (DMA_CFG_PRIO 3) 0 |>.put (DMA_CFG_REQSEL 5) 0).rd (DMA_CURSRC (3 : Fin 32).val)).toNat + 64 ≤ 0x21F80000)
    ∧ (0x20000000 ≤ (((((((((wDma.put (DMA_STAT_STATE 3) 2).wr (DMA_CURSRC 3) 0x20010000).wr (DMA_CURDST 3) 0x20020000).put (DMA_REMAIN_REMAIN 3) 128).wrMem32 0x20010004 0xCAFEF00D).setDma { ch := Dma.idle.ch.set 3 ⟨2, false, false⟩, cur := some 3 }).put (DMA_STAT_STATE 5) 1).put (DMA_CFG_PRIO 5) 7 |>.put (DMA_CFG_PRIO 3) 0 |>.put (DMA_CFG_REQSEL 5) 0).rd (DMA_CURDST (3 : Fin 32).val)).toNat)
    ∧ ((((((((((wDma.put (DMA_STAT_STATE 3) 2).wr (DMA_CURSRC 3) 0x20010000).wr (DMA_CURDST 3) 0x20020000).put (DMA_REMAIN_REMAIN 3) 128).wrMem32 0x20010004 0xCAFEF00D).setDma { ch := Dma.idle.ch.set 3 ⟨2, false, false⟩, cur := some 3 }).put (DMA_STAT_STATE 5) 1).put (DMA_CFG_PRIO 5) 7 |>.put (DMA_CFG_PRIO 3) 0 |>.put (DMA_CFG_REQSEL 5) 0).rd (DMA_CURDST (3 : Fin 32).val)).toNat + 64 ≤ 0x21F80000)
    ∧ ((((((((((wDma.put (DMA_STAT_STATE 3) 2).wr (DMA_CURSRC 3) 0x20010000).wr (DMA_CURDST 3) 0x20020000).put (DMA_REMAIN_REMAIN 3) 128).wrMem32 0x20010004 0xCAFEF00D).setDma { ch := Dma.idle.ch.set 3 ⟨2, false, false⟩, cur := some 3 }).put (DMA_STAT_STATE 5) 1).put (DMA_CFG_PRIO 5) 7 |>.put (DMA_CFG_PRIO 3) 0 |>.put (DMA_CFG_REQSEL 5) 0).dmaCh (3 : Fin 32).val).abort = false)
    ∧ (64 < ((((((((wDma.put (DMA_STAT_STATE 3) 2).wr (DMA_CURSRC 3) 0x20010000).wr (DMA_CURDST 3) 0x20020000).put (DMA_REMAIN_REMAIN 3) 128).wrMem32 0x20010004 0xCAFEF00D).setDma { ch := Dma.idle.ch.set 3 ⟨2, false, false⟩, cur := some 3 }).put (DMA_STAT_STATE 5) 1).put (DMA_CFG_PRIO 5) 7 |>.put (DMA_CFG_PRIO 3) 0 |>.put (DMA_CFG_REQSEL 5) 0).get (DMA_REMAIN_REMAIN (3 : Fin 32).val))
    ∧ ((5 : Fin 32) ≠ (3 : Fin 32))
    ∧ (((((((((wDma.put (DMA_STAT_STATE 3) 2).wr (DMA_CURSRC 3) 0x20010000).wr (DMA_CURDST 3) 0x20020000).put (DMA_REMAIN_REMAIN 3) 128).wrMem32 0x20010004 0xCAFEF00D).setDma { ch := Dma.idle.ch.set 3 ⟨2, false, false⟩, cur := some 3 }).put (DMA_STAT_STATE 5) 1).put (DMA_CFG_PRIO 5) 7 |>.put (DMA_CFG_PRIO 3) 0 |>.put (DMA_CFG_REQSEL 5) 0).dmaWants (5 : Fin 32).val = true)
    ∧ (((((((((wDma.put (DMA_STAT_STATE 3) 2).wr (DMA_CURSRC 3) 0x20010000).wr (DMA_CURDST 3) 0x20020000).put (DMA_REMAIN_REMAIN 3) 128).wrMem32 0x20010004 0xCAFEF00D).setDma { ch := Dma.idle.ch.set 3 ⟨2, false, false⟩, cur := some 3 }).put (DMA_STAT_STATE 5) 1).put (DMA_CFG_PRIO 5) 7 |>.put (DMA_CFG_PRIO 3) 0 |>.put (DMA_CFG_REQSEL 5) 0).get (DMA_CFG_PRIO (3 : Fin 32).val) < ((((((((wDma.put (DMA_STAT_STATE 3) 2).wr (DMA_CURSRC 3) 0x20010000).wr (DMA_CURDST 3) 0x20020000).put (DMA_REMAIN_REMAIN 3) 128).wrMem32 0x20010004 0xCAFEF00D).setDma { ch := Dma.idle.ch.set 3 ⟨2, false, false⟩, cur := some 3 }).put (DMA_STAT_STATE 5) 1).put (DMA_CFG_PRIO 5) 7 |>.put (DMA_CFG_PRIO 3) 0 |>.put (DMA_CFG_REQSEL 5) 0).get (DMA_CFG_PRIO (5 : Fin 32).val))
    ∧ (∀ y : Fin 32, y ≠ (5 : Fin 32) → y ≠ (3 : Fin 32) → ((((((((wDma.put (DMA_STAT_STATE 3) 2).wr (DMA_CURSRC 3) 0x20010000).wr (DMA_CURDST 3) 0x20020000).put (DMA_REMAIN_REMAIN 3) 128).wrMem32 0x20010004 0xCAFEF00D).setDma { ch := Dma.idle.ch.set 3 ⟨2, false, false⟩, cur := some 3 }).put (DMA_STAT_STATE 5) 1).put (DMA_CFG_PRIO 5) 7 |>.put (DMA_CFG_PRIO 3) 0 |>.put (DMA_CFG_REQSEL 5) 0).dmaWants y.val = false))
    ∧ (((((((((wDma.put (DMA_STAT_STATE 3) 2).wr (DMA_CURSRC 3) 0x20010000).wr (DMA_CURDST 3) 0x20020000).put (DMA_REMAIN_REMAIN 3) 128).wrMem32 0x20010004 0xCAFEF00D).setDma { ch := Dma.idle.ch.set 3 ⟨1, false, false⟩, cur := some 3 }).put (DMA_CFG_REQSEL 3) 0x3F).dma.ch.length = 32)
    ∧ ((((((((wDma.put (DMA_STAT_STATE 3) 2).wr (DMA_CURSRC 3) 0x20010000).wr (DMA_CURDST 3) 0x20020000).put (DMA_REMAIN_REMAIN 3) 128).wrMem32 0x20010004 0xCAFEF00D).setDma { ch := Dma.idle.ch.set 3 ⟨1, false, false⟩, cur := some 3 }).put (DMA_CFG_REQSEL 3) 0x3F).dma.cur = some (3 : Fin 32).val)
    ∧ ((((((((wDma.put (DMA_STAT_STATE 3) 2).wr (DMA_CURSRC 3) 0x20010000).wr (DMA_CURDST 3) 0x20020000).put (DMA_REMAIN_REMAIN 3) 128).wrMem32 0x20010004 0xCAFEF00D).setDma { ch := Dma.idle.ch.set 3 ⟨1, false, false⟩, cur := some 3 }).put (DMA_CFG_REQSEL 3) 0x3F).isOn 4 = true)
    ∧ ((((((((wDma.put (DMA_STAT_STATE 3) 2).wr (DMA_CURSRC 3) 0x20010000).wr (DMA_CURDST 3) 0x20020000).put (DMA_REMAIN_REMAIN 3) 128).wrMem32 0x20010004 0xCAFEF00D).setDma { ch := Dma.idle.ch.set 3 ⟨1, false, false⟩, cur := some 3 }).put (DMA_CFG_REQSEL 3) 0x3F).pllA = true)
    ∧ ((((((((wDma.put (DMA_STAT_STATE 3) 2).wr (DMA_CURSRC 3) 0x20010000).wr (DMA_CURDST 3) 0x20020000).put (DMA_REMAIN_REMAIN 3) 128).wrMem32 0x20010004 0xCAFEF00D).setDma { ch := Dma.idle.ch.set 3 ⟨1, false, false⟩, cur := some 3 }).put (DMA_CFG_REQSEL 3) 0x3F).dmaStuck (3 : Fin 32).val = false)
    ∧ ((((((((wDma.put (DMA_STAT_STATE 3) 2).wr (DMA_CURSRC 3) 0x20010000).wr (DMA_CURDST 3) 0x20020000).put (DMA_REMAIN_REMAIN 3) 128).wrMem32 0x20010004 0xCAFEF00D).setDma { ch := Dma.idle.ch.set 3 ⟨1, false, false⟩, cur := some 3 }).put (DMA_CFG_REQSEL 3) 0x3F).is STU_CTRL_BYPASS = true)
    ∧ ((((((((wDma.put (DMA_STAT_STATE 3) 2).wr (DMA_CURSRC 3) 0x20010000).wr (DMA_CURDST 3) 0x20020000).put (DMA_REMAIN_REMAIN 3) 128).wrMem32 0x20010004 0xCAFEF00D).setDma { ch := Dma.idle.ch.set 3 ⟨1, false, false⟩, cur := some 3 }).put (DMA_CFG_REQSEL 3) 0x3F).is (DMA_CFG_SRCINC (3 : Fin 32).val) = true)
    ∧ ((((((((wDma.put (DMA_STAT_STATE 3) 2).wr (DMA_CURSRC 3) 0x20010000).wr (DMA_CURDST 3) 0x20020000).put (DMA_REMAIN_REMAIN 3) 128).wrMem32 0x20010004 0xCAFEF00D).setDma { ch := Dma.idle.ch.set 3 ⟨1, false, false⟩, cur := some 3 }).put (DMA_CFG_REQSEL 3) 0x3F).is (DMA_CFG_DSTINC (3 : Fin 32).val) = true)
    ∧ (((((((((wDma.put (DMA_STAT_STATE 3) 2).wr (DMA_CURSRC 3) 0x20010000).wr (DMA_CURDST 3) 0x20020000).put (DMA_REMAIN_REMAIN 3) 128).wrMem32 0x20010004 0xCAFEF00D).setDma { ch := Dma.idle.ch.set 3 ⟨1, false, false⟩, cur := some 3 }).put (DMA_CFG_REQSEL 3) 0x3F).rd (DMA_CURSRC (3 : Fin 32).val)).toNat % 64 = 0)
    ∧ (((((((((wDma.put (DMA_STAT_STATE 3) 2).wr (DMA_CURSRC 3) 0x20010000).wr (DMA_CURDST 3) 0x20020000).put (DMA_REMAIN_REMAIN 3) 128).wrMem32 0x20010004 0xCAFEF00D).setDma { ch := Dma.idle.ch.set 3 ⟨1, false, false⟩, cur := some 3 }).put (DMA_CFG_REQSEL 3) 0x3F).rd (DMA_CURDST (3 : Fin 32).val)).toNat % 64 = 0)
    ∧ (0x20000000 ≤ ((((((((wDma.put (DMA_STAT_STATE 3) 2).wr (DMA_CURSRC 3) 0x20010000).wr (DMA_CURDST 3) 0x20020000).put (DMA_REMAIN_REMAIN 3) 128).wrMem32 0x20010004 0xCAFEF00D).setDma { ch := Dma.idle.ch.set 3 ⟨1, false, false⟩, cur := some 3 }).put (DMA_CFG_REQSEL 3) 0x3F).rd (DMA_CURSRC (3 : Fin 32).val)).toNat)
    ∧ (((((((((wDma.put (DMA_STAT_STATE 3) 2).wr (DMA_CURSRC 3) 0x20010000).wr (DMA_CURDST 3) 0x20020000).put (DMA_REMAIN_REMAIN 3) 128).wrMem32 0x20010004 0xCAFEF00D).setDma { ch := Dma.idle.ch.set 3 ⟨1, false, false⟩, cur := some 3 }).put (DMA_CFG_REQSEL 3) 0x3F).rd (DMA_CURSRC (3 : Fin 32).val)).toNat + 64 ≤ 0x21F80000)
    ∧ (0x20000000 ≤ ((((((((wDma.put (DMA_STAT_STATE 3) 2).wr (DMA_CURSRC 3) 0x20010000).wr (DMA_CURDST 3) 0x20020000).put (DMA_REMAIN_REMAIN 3) 128).wrMem32 0x20010004 0xCAFEF00D).setDma { ch := Dma.idle.ch.set 3 ⟨1, false, false⟩, cur := some 3 }).put (DMA_CFG_REQSEL 3) 0x3F).rd (DMA_CURDST (3 : Fin 32).val)).toNat)
    ∧ (((((((((wDma.put (DMA_STAT_STATE 3) 2).wr (DMA_CURSRC 3) 0x20010000).wr (DMA_CURDST 3) 0x20020000).put (DMA_REMAIN_REMAIN 3) 128).wrMem32 0x20010004 0xCAFEF00D).setDma { ch := Dma.idle.ch.set 3 ⟨1, false, false⟩, cur := some 3 }).put (DMA_CFG_REQSEL 3) 0x3F).rd (DMA_CURDST (3 : Fin 32).val)).toNat + 64 ≤ 0x21F80000)
    ∧ (((((((((wDma.put (DMA_STAT_STATE 3) 2).wr (DMA_CURSRC 3) 0x20010000).wr (DMA_CURDST 3) 0x20020000).put (DMA_REMAIN_REMAIN 3) 128).wrMem32 0x20010004 0xCAFEF00D).setDma { ch := Dma.idle.ch.set 3 ⟨1, false, false⟩, cur := some 3 }).put (DMA_CFG_REQSEL 3) 0x3F).dmaCh (3 : Fin 32).val).abort = false)
    ∧ (((((((((wDma.put (DMA_STAT_STATE 3) 2).wr (DMA_CURSRC 3) 0x20010000).wr (DMA_CURDST 3) 0x20020000).put (DMA_REMAIN_REMAIN 3) 128).wrMem32 0x20010004 0xCAFEF00D).setDma { ch := Dma.idle.ch.set 3 ⟨1, false, false⟩, cur := some 3 }).put (DMA_CFG_REQSEL 3) 0x3F).dmaCh (3 : Fin 32).val).left = 1)
    ∧ (64 < (((((((wDma.put (DMA_STAT_STATE 3) 2).wr (DMA_CURSRC 3) 0x20010000).wr (DMA_CURDST 3) 0x20020000).put (DMA_REMAIN_REMAIN 3) 128).wrMem32 0x20010004 0xCAFEF00D).setDma { ch := Dma.idle.ch.set 3 ⟨1, false, false⟩, cur := some 3 }).put (DMA_CFG_REQSEL 3) 0x3F).get (DMA_REMAIN_REMAIN (3 : Fin 32).val))
    ∧ (∀ y : Fin 32, y ≠ (3 : Fin 32) → (((((((wDma.put (DMA_STAT_STATE 3) 2).wr (DMA_CURSRC 3) 0x20010000).wr (DMA_CURDST 3) 0x20020000).put (DMA_REMAIN_REMAIN 3) 128).wrMem32 0x20010004 0xCAFEF00D).setDma { ch := Dma.idle.ch.set 3 ⟨1, false, false⟩, cur := some 3 }).put (DMA_CFG_REQSEL 3) 0x3F).dmaWants y.val = false)
    ∧ ((((((((wDma.put (DMA_STAT_STATE 3) 2).wr (DMA_CURSRC 3) 0x20010000).wr (DMA_CURDST 3) 0x20020000).put (DMA_REMAIN_REMAIN 3) 128).wrMem32 0x20010004 0xCAFEF00D).setDma { ch := Dma.idle.ch.set 3 ⟨1, false, false⟩, cur := some 3 }).put (DMA_CFG_REQSEL 3) 0x3F).dmaAsks (3 : Fin 32).val = false)) := by
  and_intros <;> decide +kernel

theorem witness_mram_scrubber_and_dma_commands_part8 :
    (((((((((wDma.put STU_CTRL_BYPASS 0).put (DMA_STAT_STATE 3) 2).wr (DMA_CURSRC 3) 0x20010000).wr (DMA_CURDST 3) 0x20020000).put (DMA_REMAIN_REMAIN 3) 64).wrMem32 0x20010004 0xCAFEF00D).setDma { ch := Dma.idle.ch.set 3 ⟨2, false, false⟩, cur := some 3 }).dma.ch.length = 32)
    ∧ ((((((((wDma.put STU_CTRL_BYPASS 0).put (DMA_STAT_STATE 3) 2).wr (DMA_CURSRC 3) 0x20010000).wr (DMA_CURDST 3) 0x20020000).put (DMA_REMAIN_REMAIN 3) 64).wrMem32 0x20010004 0xCAFEF00D).setDma { ch := Dma.idle.ch.set 3 ⟨2, false, false⟩, cur := some 3 }).dma.cur = some (3 : Fin 32).val)
    ∧ ((((((((wDma.put STU_CTRL_BYPASS 0).put (DMA_STAT_STATE 3) 2).wr (DMA_CURSRC 3) 0x20010000).wr (DMA_CURDST 3) 0x20020000).put (DMA_REMAIN_REMAIN 3) 64).wrMem32 0x20010004 0xCAFEF00D).setDma { ch := Dma.idle.ch.set 3 ⟨2, false, false⟩, cur := some 3 }).isOn 4 = true)
    ∧ ((((((((wDma.put STU_CTRL_BYPASS 0).put (DMA_STAT_STATE 3) 2).wr (DMA_CURSRC 3) 0x20010000).wr (DMA_CURDST 3) 0x20020000).put (DMA_REMAIN_REMAIN 3) 64).wrMem32 0x20010004 0xCAFEF00D).setDma { ch := Dma.idle.ch.set 3 ⟨2, false, false⟩, cur := some 3 }).pllA = true)
    ∧ ((((((((wDma.put STU_CTRL_BYPASS 0).put (DMA_STAT_STATE 3) 2).wr (DMA_CURSRC 3) 0x20010000).wr (DMA_CURDST 3) 0x20020000).put (DMA_REMAIN_REMAIN 3) 64).wrMem32 0x20010004 0xCAFEF00D).setDma { ch := Dma.idle.ch.set 3 ⟨2, false, false⟩, cur := some 3 }).dmaStuck (3 : Fin 32).val = false)
    ∧ ((((((((wDma.put STU_CTRL_BYPASS 0).put (DMA_STAT_STATE 3) 2).wr (DMA_CURSRC 3) 0x20010000).wr (DMA_CURDST 3) 0x20020000).put (DMA_REMAIN_REMAIN 3) 64).wrMem32 0x20010004 0xCAFEF00D).setDma { ch := Dma.idle.ch.set 3 ⟨2, false, false⟩, cur := some 3 }).translate ((((((((wDma.put STU_CTRL_BYPASS 0).put (DMA_STAT_STATE 3) 2).wr (DMA_CURSRC 3) 0x20010000).wr (DMA_CURDST 3) 0x20020000).put (DMA_REMAIN_REMAIN 3) 64).wrMem32 0x20010004 0xCAFEF00D).setDma { ch := Dma.idle.ch.set 3 ⟨2, false, false⟩, cur := some 3 }).get (DMA_CFG_SID (3 : Fin 32).val)) ((((((((wDma.put STU_CTRL_BYPASS 0).put (DMA_STAT_STATE 3) 2).wr (DMA_CURSRC 3) 0x20010000).wr (DMA_CURDST 3) 0x20020000).put (DMA_REMAIN_REMAIN 3) 64).wrMem32 0x20010004 0xCAFEF00D).setDma { ch := Dma.idle.ch.set 3 ⟨2, false, false⟩, cur := some 3 }).get (DMA_CURSRC_CURSRC (3 : Fin 32).val)) false = none))
    ∧ (((((((((((((wDma.put STU_CTRL_BYPASS 0).put (DMA_STAT_STATE 3) 2).wr (DMA_CURSRC 3) 0x20010000).wr (DMA_CURDST 3) 0x20020000).put (DMA_REMAIN_REMAIN 3) 64).wrMem32 0x20010004 0xCAFEF00D).setDma { ch := Dma.idle.ch.set 3 ⟨2, false, false⟩, cur := some 3 }).put (STU_MAP_VPAGE 2) 0x2001).put (STU_MAP_PPAGE 2) 0x2001).put (STU_ATTR_VALID 2) 1).put (STU_ATTR_R 2) 1 |>.put (STU_ATTR_SIDMASK 2) 0xFFFF).dma.ch.length = 32)
    ∧ ((((((((((((wDma.put STU_CTRL_BYPASS 0).put (DMA_STAT_STATE 3) 2).wr (DMA_CURSRC 3) 0x20010000).wr (DMA_CURDST 3) 0x20020000).put (DMA_REMAIN_REMAIN 3) 64).wrMem32 0x20010004 0xCAFEF00D).setDma { ch := Dma.idle.ch.set 3 ⟨2, false, false⟩, cur := some 3 }).put (STU_MAP_VPAGE 2) 0x2001).put (STU_MAP_PPAGE 2) 0x2001).put (STU_ATTR_VALID 2) 1).put (STU_ATTR_R 2) 1 |>.put (STU_ATTR_SIDMASK 2) 0xFFFF).dma.cur = some (3 : Fin 32).val)
    ∧ ((((((((((((wDma.put STU_CTRL_BYPASS 0).put (DMA_STAT_STATE 3) 2).wr (DMA_CURSRC 3) 0x20010000).wr (DMA_CURDST 3) 0x20020000).put (DMA_REMAIN_REMAIN 3) 64).wrMem32 0x20010004 0xCAFEF00D).setDma { ch := Dma.idle.ch.set 3 ⟨2, false, false⟩, cur := some 3 }).put (STU_MAP_VPAGE 2) 0x2001).put (STU_MAP_PPAGE 2) 0x2001).put (STU_ATTR_VALID 2) 1).put (STU_ATTR_R 2) 1 |>.put (STU_ATTR_SIDMASK 2) 0xFFFF).isOn 4 = true)
    ∧ ((((((((((((wDma.put STU_CTRL_BYPASS 0).put (DMA_STAT_STATE 3) 2).wr (DMA_CURSRC 3) 0x20010000).wr (DMA_CURDST 3) 0x20020000).put (DMA_REMAIN_REMAIN 3) 64).wrMem32 0x20010004 0xCAFEF00D).setDma { ch := Dma.idle.ch.set 3 ⟨2, false, false⟩, cur := some 3 }).put (STU_MAP_VPAGE 2) 0x2001).put (STU_MAP_PPAGE 2) 0x2001).put (STU_ATTR_VALID 2) 1).put (STU_ATTR_R 2) 1 |>.put (STU_ATTR_SIDMASK 2) 0xFFFF).pllA = true)
    ∧ ((((((((((((wDma.put STU_CTRL_BYPASS 0).put (DMA_STAT_STATE 3) 2).wr (DMA_CURSRC 3) 0x20010000).wr (DMA_CURDST 3) 0x20020000).put (DMA_REMAIN_REMAIN 3) 64).wrMem32 0x20010004 0xCAFEF00D).setDma { ch := Dma.idle.ch.set 3 ⟨2, false, false⟩, cur := some 3 }).put (STU_MAP_VPAGE 2) 0x2001).put (STU_MAP_PPAGE 2) 0x2001).put (STU_ATTR_VALID 2) 1).put (STU_ATTR_R 2) 1 |>.put (STU_ATTR_SIDMASK 2) 0xFFFF).dmaStuck (3 : Fin 32).val = false)
    ∧ ((((((((((((wDma.put STU_CTRL_BYPASS 0).put (DMA_STAT_STATE 3) 2).wr (DMA_CURSRC 3) 0x20010000).wr (DMA_CURDST 3) 0x20020000).put (DMA_REMAIN_REMAIN 3) 64).wrMem32 0x20010004 0xCAFEF00D).setDma { ch := Dma.idle.ch.set 3 ⟨2, false, false⟩, cur := some 3 }).put (STU_MAP_VPAGE 2) 0x2001).put (STU_MAP_PPAGE 2) 0x2001).put (STU_ATTR_VALID 2) 1).put (STU_ATTR_R 2) 1 |>.put (STU_ATTR_SIDMASK 2) 0xFFFF).translate ((((((((((((wDma.put STU_CTRL_BYPASS 0).put (DMA_STAT_STATE 3) 2).wr (DMA_CURSRC 3) 0x20010000).wr (DMA_CURDST 3) 0x20020000).put (DMA_REMAIN_REMAIN 3) 64).wrMem32 0x20010004 0xCAFEF00D).setDma { ch := Dma.idle.ch.set 3 ⟨2, false, false⟩, cur := some 3 }).put (STU_MAP_VPAGE 2) 0x2001).put (STU_MAP_PPAGE 2) 0x2001).put (STU_ATTR_VALID 2) 1).put (STU_ATTR_R 2) 1 |>.put (STU_ATTR_SIDMASK 2) 0xFFFF).get (DMA_CFG_SID (3 : Fin 32).val)) ((((((((((((wDma.put STU_CTRL_BYPASS 0).put (DMA_STAT_STATE 3) 2).wr (DMA_CURSRC 3) 0x20010000).wr (DMA_CURDST 3) 0x20020000).put (DMA_REMAIN_REMAIN 3) 64).wrMem32 0x20010004 0xCAFEF00D).setDma { ch := Dma.idle.ch.set 3 ⟨2, false, false⟩, cur := some 3 }).put (STU_MAP_VPAGE 2) 0x2001).put (STU_MAP_PPAGE 2) 0x2001).put (STU_ATTR_VALID 2) 1).put (STU_ATTR_R 2) 1 |>.put (STU_ATTR_SIDMASK 2) 0xFFFF).get (DMA_CURSRC_CURSRC (3 : Fin 32).val)) false = some (0x20010000 : Nat))
    ∧ ((((((((((((wDma.put STU_CTRL_BYPASS 0).put (DMA_STAT_STATE 3) 2).wr (DMA_CURSRC 3) 0x20010000).wr (DMA_CURDST 3) 0x20020000).put (DMA_REMAIN_REMAIN 3) 64).wrMem32 0x20010004 0xCAFEF00D).setDma { ch := Dma.idle.ch.set 3 ⟨2, false, false⟩, cur := some 3 }).put (STU_MAP_VPAGE 2) 0x2001).put (STU_MAP_PPAGE 2) 0x2001).put (STU_ATTR_VALID 2) 1).put (STU_ATTR_R 2) 1 |>.put (STU_ATTR_SIDMASK 2) 0xFFFF).translate ((((((((((((wDma.put STU_CTRL_BYPASS 0).put (DMA_STAT_STATE 3) 2).wr (DMA_CURSRC 3) 0x20010000).wr (DMA_CURDST 3) 0x20020000).put (DMA_REMAIN_REMAIN 3) 64).wrMem32 0x20010004 0xCAFEF00D).setDma { ch := Dma.idle.ch.set 3 ⟨2, false, false⟩, cur := some 3 }).put (STU_MAP_VPAGE 2) 0x2001).put (STU_MAP_PPAGE 2) 0x2001).put (STU_ATTR_VALID 2) 1).put (STU_ATTR_R 2) 1 |>.put (STU_ATTR_SIDMASK 2) 0xFFFF).get (DMA_CFG_SID (3 : Fin 32).val)) ((((((((((((wDma.put STU_CTRL_BYPASS 0).put (DMA_STAT_STATE 3) 2).wr (DMA_CURSRC 3) 0x20010000).wr (DMA_CURDST 3) 0x20020000).put (DMA_REMAIN_REMAIN 3) 64).wrMem32 0x20010004 0xCAFEF00D).setDma { ch := Dma.idle.ch.set 3 ⟨2, false, false⟩, cur := some 3 }).put (STU_MAP_VPAGE 2) 0x2001).put (STU_MAP_PPAGE 2) 0x2001).put (STU_ATTR_VALID 2) 1).put (STU_ATTR_R 2) 1 |>.put (STU_ATTR_SIDMASK 2) 0xFFFF).get (DMA_CURDST_CURDST (3 : Fin 32).val)) true = none))
    ∧ (((((((((wDma.put (DMA_STAT_STATE 3) 2).wr (DMA_CURSRC 3) 0x20010000).wr (DMA_CURDST 3) 0x20020000).put (DMA_REMAIN_REMAIN 3) 64).wrMem32 0x20010004 0xCAFEF00D).setDma { ch := Dma.idle.ch.set 3 ⟨2, false, false⟩, cur := some 3 }).wr (DMA_CURSRC 3) 0x28000000).dma.ch.length = 32)
    ∧ ((((((((wDma.put (DMA_STAT_STATE 3) 2).wr (DMA_CURSRC 3) 0x20010000).wr (DMA_CURDST 3) 0x20020000).put (DMA_REMAIN_REMAIN 3) 64).wrMem32 0x20010004 0xCAFEF00D).setDma { ch := Dma.idle.ch.set 3 ⟨2, false, false⟩, cur := some 3 }).wr (DMA_CURSRC 3) 0x28000000).dma.cur = some (3 : Fin 32).val)
    ∧ ((((((((wDma.put (DMA_STAT_STATE 3) 2).wr (DMA_CURSRC 3) 0x20010000).wr (DMA_CURDST 3) 0x20020000).put (DMA_REMAIN_REMAIN 3) 64).wrMem32 0x20010004 0xCAFEF00D).setDma { ch := Dma.idle.ch.set 3 ⟨2, false, false⟩, cur := some 3 }).wr (DMA_CURSRC 3) 0x28000000).isOn 4 = true)
    ∧ ((((((((wDma.put (DMA_STAT_STATE 3) 2).wr (DMA_CURSRC 3) 0x20010000).wr (DMA_CURDST 3) 0x20020000).put (DMA_REMAIN_REMAIN 3) 64).wrMem32 0x20010004 0xCAFEF00D).setDma { ch := Dma.idle.ch.set 3 ⟨2, false, false⟩, cur := some 3 }).wr (DMA_CURSRC 3) 0x28000000).pllA = true)
    ∧ ((((((((wDma.put (DMA_STAT_STATE 3) 2).wr (DMA_CURSRC 3) 0x20010000).wr (DMA_CURDST 3) 0x20020000).put (DMA_REMAIN_REMAIN 3) 64).wrMem32 0x20010004 0xCAFEF00D).setDma { ch := Dma.idle.ch.set 3 ⟨2, false, false⟩, cur := some 3 }).wr (DMA_CURSRC 3) 0x28000000).dmaStuck (3 : Fin 32).val = false)
    ∧ ((((((((wDma.put (DMA_STAT_STATE 3) 2).wr (DMA_CURSRC 3) 0x20010000).wr (DMA_CURDST 3) 0x20020000).put (DMA_REMAIN_REMAIN 3) 64).wrMem32 0x20010004 0xCAFEF00D).setDma { ch := Dma.idle.ch.set 3 ⟨2, false, false⟩, cur := some 3 }).wr (DMA_CURSRC 3) 0x28000000).is STU_CTRL_BYPASS = true)
    ∧ ((((((((wDma.put (DMA_STAT_STATE 3) 2).wr (DMA_CURSRC 3) 0x20010000).wr (DMA_CURDST 3) 0x20020000).put (DMA_REMAIN_REMAIN 3) 64).wrMem32 0x20010004 0xCAFEF00D).setDma { ch := Dma.idle.ch.set 3 ⟨2, false, false⟩, cur := some 3 }).wr (DMA_CURSRC 3) 0x28000000).dmaOk (3 : Fin 32).val ((((((((wDma.put (DMA_STAT_STATE 3) 2).wr (DMA_CURSRC 3) 0x20010000).wr (DMA_CURDST 3) 0x20020000).put (DMA_REMAIN_REMAIN 3) 64).wrMem32 0x20010004 0xCAFEF00D).setDma { ch := Dma.idle.ch.set 3 ⟨2, false, false⟩, cur := some 3 }).wr (DMA_CURSRC 3) 0x28000000).get (DMA_CURSRC_CURSRC (3 : Fin 32).val)) false = false))
    ∧ ((((((((wDma.put (DMA_STAT_STATE 3) 2).wr (DMA_CURSRC 3) 0x20010000).wr (DMA_CURDST 3) 0x20020000).put (DMA_REMAIN_REMAIN 3) 64).wrMem32 0x20010004 0xCAFEF00D).setDma { ch := Dma.idle.ch.set 3 ⟨2, false, false⟩, cur := some 3 }).dma.ch.length = 32)
    ∧ (((((((wDma.put (DMA_STAT_STATE 3) 2).wr (DMA_CURSRC 3) 0x20010000).wr (DMA_CURDST 3) 0x20020000).put (DMA_REMAIN_REMAIN 3) 64).wrMem32 0x20010004 0xCAFEF00D).setDma { ch := Dma.idle.ch.set 3 ⟨2, false, false⟩, cur := some 3 }).dma.cur = some (3 : Fin 32).val)
    ∧ (((((((wDma.put (DMA_STAT_STATE 3) 2).wr (DMA_CURSRC 3) 0x20010000).wr (DMA_CURDST 3) 0x20020000).put (DMA_REMAIN_REMAIN 3) 64).wrMem32 0x20010004 0xCAFEF00D).setDma { ch := Dma.idle.ch.set 3 ⟨2, false, false⟩, cur := some 3 }).isOn 4 = true)
    ∧ (((((((wDma.put (DMA_STAT_STATE 3) 2).wr (DMA_CURSRC 3) 0x20010000).wr (DMA_CURDST 3) 0x20020000).put (DMA_REMAIN_REMAIN 3) 64).wrMem32 0x20010004 0xCAFEF00D).setDma { ch := Dma.idle.ch.set 3 ⟨2, false, false⟩, cur := some 3 }).pllA = true)
    ∧ (((((((wDma.put (DMA_STAT_STATE 3) 2).wr (DMA_CURSRC 3) 0x20010000).wr (DMA_CURDST 3) 0x20020000).put (DMA_REMAIN_REMAIN 3) 64).wrMem32 0x20010004 0xCAFEF00D).setDma { ch := Dma.idle.ch.set 3 ⟨2, false, false⟩, cur := some 3 }).dmaStuck (3 : Fin 32).val = false)
    ∧ (((((((wDma.put (DMA_STAT_STATE 3) 2).wr (DMA_CURSRC 3) 0x20010000).wr (DMA_CURDST 3) 0x20020000).put (DMA_REMAIN_REMAIN 3) 64).wrMem32 0x20010004 0xCAFEF00D).setDma { ch := Dma.idle.ch.set 3 ⟨2, false, false⟩, cur := some 3 }).is STU_CTRL_BYPASS = true)
    ∧ (((((((wDma.put (DMA_STAT_STATE 3) 2).wr (DMA_CURSRC 3) 0x20010000).wr (DMA_CURDST 3) 0x20020000).put (DMA_REMAIN_REMAIN 3) 64).wrMem32 0x20010004 0xCAFEF00D).setDma { ch := Dma.idle.ch.set 3 ⟨2, false, false⟩, cur := some 3 }).is (DMA_CFG_SRCINC (3 : Fin 32).val) = true)
    ∧ (((((((wDma.put (DMA_STAT_STATE 3) 2).wr (DMA_CURSRC 3) 0x20010000).wr (DMA_CURDST 3) 0x20020000).put (DMA_REMAIN_REMAIN 3) 64).wrMem32 0x20010004 0xCAFEF00D).setDma { ch := Dma.idle.ch.set 3 ⟨2, false, false⟩, cur := some 3 }).is (DMA_CFG_DSTINC (3 : Fin 32).val) = true)
    ∧ (0x20000000 ≤ (((((((wDma.put (DMA_STAT_STATE 3) 2).wr (DMA_CURSRC 3) 0x20010000).wr (DMA_CURDST 3) 0x20020000).put (DMA_REMAIN_REMAIN 3) 64).wrMem32 0x20010004 0xCAFEF00D).setDma { ch := Dma.idle.ch.set 3 ⟨2, false, false⟩, cur := some 3 }).rd (DMA_CURSRC (3 : Fin 32).val)).toNat)
    ∧ ((((((((wDma.put (DMA_STAT_STATE 3) 2).wr (DMA_CURSRC 3) 0x20010000).wr (DMA_CURDST 3) 0x20020000).put (DMA_REMAIN_REMAIN 3) 64).wrMem32 0x20010004 0xCAFEF00D).setDma { ch := Dma.idle.ch.set 3 ⟨2, false, false⟩, cur := some 3 }).rd (DMA_CURSRC (3 : Fin 32).val)).toNat + 64 ≤ 0x21F80000)
    ∧ (((((((wDma.put (DMA_STAT_STATE 3) 2).wr (DMA_CURSRC 3) 0x20010000).wr (DMA_CURDST 3) 0x20020000).put (DMA_REMAIN_REMAIN 3) 64).wrMem32 0x20010004 0xCAFEF00D).setDma { ch := Dma.idle.ch.set 3 ⟨2, false, false⟩, cur := some 3 }).dmaOk (3 : Fin 32).val (((((((wDma.put (DMA_STAT_STATE 3) 2).wr (DMA_CURSRC 3) 0x20010000).wr (DMA_CURDST 3) 0x20020000).put (DMA_REMAIN_REMAIN 3) 64).wrMem32 0x20010004 0xCAFEF00D).setDma { ch := Dma.idle.ch.set 3 ⟨2, false, false⟩, cur := some 3 }).get (DMA_CURSRC_CURSRC (3 : Fin 32).val)) false = true))
    ∧ ((((((((wDma.put (DMA_STAT_STATE 3) 2).wr (DMA_CURSRC 3) 0x20010000).wr (DMA_CURDST 3) 0x20020000).put (DMA_REMAIN_REMAIN 3) 64).wrMem32 0x20010004 0xCAFEF00D).setDma { ch := Dma.idle.ch.set 3 ⟨2, false, false⟩, cur := some 3 }).dma.ch.length = 32)
    ∧ (((((((wDma.put (DMA_STAT_STATE 3) 2).wr (DMA_CURSRC 3) 0x20010000).wr (DMA_CURDST 3) 0x20020000).put (DMA_REMAIN_REMAIN 3) 64).wrMem32 0x20010004 0xCAFEF00D).setDma { ch := Dma.idle.ch.set 3 ⟨2, false, false⟩, cur := some 3 }).dma.cur = some (3 : Fin 32).val)
    ∧ (((((((wDma.put (DMA_STAT_STATE 3) 2).wr (DMA_CURSRC 3) 0x20010000).wr (DMA_CURDST 3) 0x20020000).put (DMA_REMAIN_REMAIN 3) 64).wrMem32 0x20010004 0xCAFEF00D).setDma { ch := Dma.idle.ch.set 3 ⟨2, false, false⟩, cur := some 3 }).isOn 4 = true)
    ∧ (((((((wDma.put (DMA_STAT_STATE 3) 2).wr (DMA_CURSRC 3) 0x20010000).wr (DMA_CURDST 3) 0x20020000).put (DMA_REMAIN_REMAIN 3) 64).wrMem32 0x20010004 0xCAFEF00D).setDma { ch := Dma.idle.ch.set 3 ⟨2, false, false⟩, cur := some 3 }).pllA = true)
    ∧ (((((((wDma.put (DMA_STAT_STATE 3) 2).wr (DMA_CURSRC 3) 0x20010000).wr (DMA_CURDST 3) 0x20020000).put (DMA_REMAIN_REMAIN 3) 64).wrMem32 0x20010004 0xCAFEF00D).setDma { ch := Dma.idle.ch.set 3 ⟨2, false, false⟩, cur := some 3 }).dmaStuck (3 : Fin 32).val = false)
    ∧ (((((((wDma.put (DMA_STAT_STATE 3) 2).wr (DMA_CURSRC 3) 0x20010000).wr (DMA_CURDST 3) 0x20020000).put (DMA_REMAIN_REMAIN 3) 64).wrMem32 0x20010004 0xCAFEF00D).setDma { ch := Dma.idle.ch.set 3 ⟨2, false, false⟩, cur := some 3 }).is STU_CTRL_BYPASS = true)
    ∧ (((((((wDma.put (DMA_STAT_STATE 3) 2).wr (DMA_CURSRC 3) 0x20010000).wr (DMA_CURDST 3) 0x20020000).put (DMA_REMAIN_REMAIN 3) 64).wrMem32 0x20010004 0xCAFEF00D).setDma { ch := Dma.idle.ch.set 3 ⟨2, false, false⟩, cur := some 3 }).is (DMA_CFG_SRCINC (3 : Fin 32).val) = true)
    ∧ (((((((wDma.put (DMA_STAT_STATE 3) 2).wr (DMA_CURSRC 3) 0x20010000).wr (DMA_CURDST 3) 0x20020000).put (DMA_REMAIN_REMAIN 3) 64).wrMem32 0x20010004 0xCAFEF00D).setDma { ch := Dma.idle.ch.set 3 ⟨2, false, false⟩, cur := some 3 }).is (DMA_CFG_DSTINC (3 : Fin 32).val) = true)
    ∧ (0x20000000 ≤ (((((((wDma.put (DMA_STAT_STATE 3) 2).wr (DMA_CURSRC 3) 0x20010000).wr (DMA_CURDST 3) 0x20020000).put (DMA_REMAIN_REMAIN 3) 64).wrMem32 0x20010004 0xCAFEF00D).setDma { ch := Dma.idle.ch.set 3 ⟨2, false, false⟩, cur := some 3 }).rd (DMA_CURSRC (3 : Fin 32).val)).toNat)
    ∧ ((((((((wDma.put (DMA_STAT_STATE 3) 2).wr (DMA_CURSRC 3) 0x20010000).wr (DMA_CURDST 3) 0x20020000).put (DMA_REMAIN_REMAIN 3) 64).wrMem32 0x20010004 0xCAFEF00D).setDma { ch := Dma.idle.ch.set 3 ⟨2, false, false⟩, cur := some 3 }).rd (DMA_CURSRC (3 : Fin 32).val)).toNat + 64 ≤ 0x21F80000)
    ∧ (((((((wDma.put (DMA_STAT_STATE 3) 2).wr (DMA_CURSRC 3) 0x20010000).wr (DMA_CURDST 3) 0x20020000).put (DMA_REMAIN_REMAIN 3) 64).wrMem32 0x20010004 0xCAFEF00D).setDma { ch := Dma.idle.ch.set 3 ⟨2, false, false⟩, cur := some 3 }).dmaOk (3 : Fin 32).val (((((((wDma.put (DMA_STAT_STATE 3) 2).wr (DMA_CURSRC 3) 0x20010000).wr (DMA_CURDST 3) 0x20020000).put (DMA_REMAIN_REMAIN 3) 64).wrMem32 0x20010004 0xCAFEF00D).setDma { ch := Dma.idle.ch.set 3 ⟨2, false, false⟩, cur := some 3 }).get (DMA_CURSRC_CURSRC (3 : Fin 32).val)) false = true))
    ∧ ((({ ((((((wDma.put (DMA_STAT_STATE 3) 2).wr (DMA_CURSRC 3) 0x20010000).wr (DMA_CURDST 3) 0x20020000).put (DMA_REMAIN_REMAIN 3) 64).wrMem32 0x20010004 0xCAFEF00D).setDma { ch := Dma.idle.ch.set 3 ⟨2, false, false⟩, cur := some 3 }) with pllA := false }).dma.cur = some (3 : Fin 32).val)
    ∧ (({ ((((((wDma.put (DMA_STAT_STATE 3) 2).wr (DMA_CURSRC 3) 0x20010000).wr (DMA_CURDST 3) 0x20020000).put (DMA_REMAIN_REMAIN 3) 64).wrMem32 0x20010004 0xCAFEF00D).setDma { ch := Dma.idle.ch.set 3 ⟨2, false, false⟩, cur := some 3 }) with pllA := false }).isOn 4 = false ∨ ({ ((((((wDma.put (DMA_STAT_STATE 3) 2).wr (DMA_CURSRC 3) 0x20010000).wr (DMA_CURDST 3) 0x20020000).put (DMA_REMAIN_REMAIN 3) 64).wrMem32 0x20010004 0xCAFEF00D).setDma { ch := Dma.idle.ch.set 3 ⟨2, false, false⟩, cur := some 3 }) with pllA := false }).pllA = false ∨ ({ ((((((wDma.put (DMA_STAT_STATE 3) 2).wr (DMA_CURSRC 3) 0x20010000).wr (DMA_CURDST 3) 0x20020000).put (DMA_REMAIN_REMAIN 3) 64).wrMem32 0x20010004 0xCAFEF00D).setDma { ch := Dma.idle.ch.set 3 ⟨2, false, false⟩, cur := some 3 }) with pllA := false }).dmaStuck (3 : Fin 32).val = true)) := by
  and_intros <;> decide +kernel

theorem witness_mram_scrubber_and_dma_commands_part9 :
    ((wDma.dma.cur = none)) := by
  and_intros <;> decide +kernel

theorem witness_mode_requests_enter_and_exit_instances :
    (((((wKp.put HSM_STATUS_EN 0xF).put HSM_CFG_CFGACK 1)).kcp.queues.length = 4)
    ∧ ((((wKp.put HSM_STATUS_EN 0xF).put HSM_CFG_CFGACK 1)).Ready 0x0201 2 (wReq [7, 0, 0, 0] : Req) (wCtx : Ctx))
    ∧ (((((wKp.put HSM_STATUS_EN 0xF).put HSM_CFG_CFGACK 1)).atMode (wReq [7, 0, 0, 0] : Req) (wCtx : Ctx)).modes.owner.length = 12 ∧ ((((wKp.put HSM_STATUS_EN 0xF).put HSM_CFG_CFGACK 1)).atMode (wReq [7, 0, 0, 0] : Req) (wCtx : Ctx)).modes.fed.length = 12)
    ∧ (payU (wReq [7, 0, 0, 0] : Req).pay 0 1 = (7 : Fin 12).val)
    ∧ ((7 : Fin 12).val ∈ [0, 1, 7, 8])
    ∧ (((((wKp.put HSM_STATUS_EN 0xF).put HSM_CFG_CFGACK 1)).atMode (wReq [7, 0, 0, 0] : Req) (wCtx : Ctx)).gateRefusal (7 : Fin 12).val false = none)
    ∧ (((((wKp.put HSM_STATUS_EN 0xF).put HSM_CFG_CFGACK 1)).atMode (wReq [7, 0, 0, 0] : Req) (wCtx : Ctx)).active (7 : Fin 12).val = false)
    ∧ (((((wKp.put HSM_STATUS_EN 0xF).put HSM_CFG_CFGACK 1)).atMode (wReq [7, 0, 0, 0] : Req) (wCtx : Ctx)).waiting (7 : Fin 12).val = false)
    ∧ (((((wKp.put HSM_STATUS_EN 0xF).put HSM_CFG_CFGACK 1)).atMode (wReq [7, 0, 0, 0] : Req) (wCtx : Ctx)).osdBlocks (((((wKp.put HSM_STATUS_EN 0xF).put HSM_CFG_CFGACK 1)).atMode (wReq [7, 0, 0, 0] : Req) (wCtx : Ctx)).entryModules (7 : Fin 12).val) = false)
    ∧ (((((wKp.put HSM_STATUS_EN 0xF).put HSM_CFG_CFGACK 1)).atMode (wReq [7, 0, 0, 0] : Req) (wCtx : Ctx)).entryRefusal (7 : Fin 12).val = none)
    ∧ (((((wKp.put HSM_STATUS_EN 0xF).put HSM_CFG_CFGACK 1)).atMode (wReq [7, 0, 0, 0] : Req) (wCtx : Ctx)).plugRefuses (7 : Fin 12).val = false)
    ∧ (((((wKp.put HSM_STATUS_EN 0xF).put HSM_CFG_CFGACK 1)).atMode (wReq [7, 0, 0, 0] : Req) (wCtx : Ctx)).pairRefusal (7 : Fin 12).val 0 (((((wKp.put HSM_STATUS_EN 0xF).put HSM_CFG_CFGACK 1)).atMode (wReq [7, 0, 0, 0] : Req) (wCtx : Ctx)).others (7 : Fin 12).val) = none))
    ∧ ((((((wKp.put HSM_STATUS_EN 0xF).put HSM_CFG_CFGACK 1).put MDM_PLUG_PLUG 1)).kcp.queues.length = 4)
    ∧ (((((wKp.put HSM_STATUS_EN 0xF).put HSM_CFG_CFGACK 1).put MDM_PLUG_PLUG 1)).Ready 0x0201 2 (wReq [3, 0, 0, 0] : Req) (wCtx : Ctx))
    ∧ ((((((wKp.put HSM_STATUS_EN 0xF).put HSM_CFG_CFGACK 1).put MDM_PLUG_PLUG 1)).atMode (wReq [3, 0, 0, 0] : Req) (wCtx : Ctx)).modes.owner.length = 12 ∧ (((((wKp.put HSM_STATUS_EN 0xF).put HSM_CFG_CFGACK 1).put MDM_PLUG_PLUG 1)).atMode (wReq [3, 0, 0, 0] : Req) (wCtx : Ctx)).modes.fed.length = 12)
    ∧ (payU (wReq [3, 0, 0, 0] : Req).pay 0 1 = (3 : Fin 12).val)
    ∧ (2 ≤ (3 : Fin 12).val ∧ (3 : Fin 12).val ≤ 5)
    ∧ (∀ j ∈ (((((wKp.put HSM_STATUS_EN 0xF).put HSM_CFG_CFGACK 1).put MDM_PLUG_PLUG 1)).atMode (wReq [3, 0, 0, 0] : Req) (wCtx : Ctx)).others (3 : Fin 12).val, (((((wKp.put HSM_STATUS_EN 0xF).put HSM_CFG_CFGACK 1).put MDM_PLUG_PLUG 1)).atMode (wReq [3, 0, 0, 0] : Req) (wCtx : Ctx)).pairRule (3 : Fin 12).val j 0 ≠ .preempt)
    ∧ ((((((wKp.put HSM_STATUS_EN 0xF).put HSM_CFG_CFGACK 1).put MDM_PLUG_PLUG 1)).atMode (wReq [3, 0, 0, 0] : Req) (wCtx : Ctx)).gateRefusal (3 : Fin 12).val false = none)
    ∧ ((((((wKp.put HSM_STATUS_EN 0xF).put HSM_CFG_CFGACK 1).put MDM_PLUG_PLUG 1)).atMode (wReq [3, 0, 0, 0] : Req) (wCtx : Ctx)).active (3 : Fin 12).val = false)
    ∧ ((((((wKp.put HSM_STATUS_EN 0xF).put HSM_CFG_CFGACK 1).put MDM_PLUG_PLUG 1)).atMode (wReq [3, 0, 0, 0] : Req) (wCtx : Ctx)).waiting (3 : Fin 12).val = false)
    ∧ ((((((wKp.put HSM_STATUS_EN 0xF).put HSM_CFG_CFGACK 1).put MDM_PLUG_PLUG 1)).atMode (wReq [3, 0, 0, 0] : Req) (wCtx : Ctx)).osdBlocks ((((((wKp.put HSM_STATUS_EN 0xF).put HSM_CFG_CFGACK 1).put MDM_PLUG_PLUG 1)).atMode (wReq [3, 0, 0, 0] : Req) (wCtx : Ctx)).entryModules (3 : Fin 12).val) = false)
    ∧ ((((((wKp.put HSM_STATUS_EN 0xF).put HSM_CFG_CFGACK 1).put MDM_PLUG_PLUG 1)).atMode (wReq [3, 0, 0, 0] : Req) (wCtx : Ctx)).entryRefusal (3 : Fin 12).val = none)
    ∧ ((((((wKp.put HSM_STATUS_EN 0xF).put HSM_CFG_CFGACK 1).put MDM_PLUG_PLUG 1)).atMode (wReq [3, 0, 0, 0] : Req) (wCtx : Ctx)).plugRefuses (3 : Fin 12).val = false)
    ∧ ((((((wKp.put HSM_STATUS_EN 0xF).put HSM_CFG_CFGACK 1).put MDM_PLUG_PLUG 1)).atMode (wReq [3, 0, 0, 0] : Req) (wCtx : Ctx)).pairRefusal (3 : Fin 12).val 0 ((((((wKp.put HSM_STATUS_EN 0xF).put HSM_CFG_CFGACK 1).put MDM_PLUG_PLUG 1)).atMode (wReq [3, 0, 0, 0] : Req) (wCtx : Ctx)).others (3 : Fin 12).val) = none))
    ∧ (((((wStill.setModes { wStill.modes with lock := true }).put MDM_ACTIVE_ACTIVE 1)).kcp.queues.length = 4)
    ∧ ((((wStill.setModes { wStill.modes with lock := true }).put MDM_ACTIVE_ACTIVE 1)).Ready 0x0201 2 (wReq [9, 0, 0, 0] : Req) (wCtx : Ctx))
    ∧ (((((wStill.setModes { wStill.modes with lock := true }).put MDM_ACTIVE_ACTIVE 1)).atMode (wReq [9, 0, 0, 0] : Req) (wCtx : Ctx)).modes.owner.length = 12 ∧ ((((wStill.setModes { wStill.modes with lock := true }).put MDM_ACTIVE_ACTIVE 1)).atMode (wReq [9, 0, 0, 0] : Req) (wCtx : Ctx)).modes.fed.length = 12)
    ∧ (payU (wReq [9, 0, 0, 0] : Req).pay 0 1 = (9 : Fin 12).val)
    ∧ (((((wStill.setModes { wStill.modes with lock := true }).put MDM_ACTIVE_ACTIVE 1)).atMode (wReq [9, 0, 0, 0] : Req) (wCtx : Ctx)).others (9 : Fin 12).val ≠ [])
    ∧ ((((((wStill.setModes { wStill.modes with lock := true }).put MDM_ACTIVE_ACTIVE 1)).atMode (wReq [9, 0, 0, 0] : Req) (wCtx : Ctx)).others (9 : Fin 12).val).any (fun j => ((((wStill.setModes { wStill.modes with lock := true }).put MDM_ACTIVE_ACTIVE 1)).atMode (wReq [9, 0, 0, 0] : Req) (wCtx : Ctx)).pairRule (9 : Fin 12).val j 0 == .preempt) = true)
    ∧ (∀ j ∈ ((((wStill.setModes { wStill.modes with lock := true }).put MDM_ACTIVE_ACTIVE 1)).atMode (wReq [9, 0, 0, 0] : Req) (wCtx : Ctx)).others (9 : Fin 12).val, ((((wStill.setModes { wStill.modes with lock := true }).put MDM_ACTIVE_ACTIVE 1)).atMode (wReq [9, 0, 0, 0] : Req) (wCtx : Ctx)).pairRule (9 : Fin 12).val j 0 = .preempt → ((((wStill.setModes { wStill.modes with lock := true }).put MDM_ACTIVE_ACTIVE 1)).atMode (wReq [9, 0, 0, 0] : Req) (wCtx : Ctx)).active j = true ∧ ((((wStill.setModes { wStill.modes with lock := true }).put MDM_ACTIVE_ACTIVE 1)).atMode (wReq [9, 0, 0, 0] : Req) (wCtx : Ctx)).pendOf j = none)
    ∧ (((((wStill.setModes { wStill.modes with lock := true }).put MDM_ACTIVE_ACTIVE 1)).atMode (wReq [9, 0, 0, 0] : Req) (wCtx : Ctx)).modes.pend.all (fun (p : PendReq) => p.why != 0 || (preempted p.inst).any (fun j => ((((wStill.setModes { wStill.modes with lock := true }).put MDM_ACTIVE_ACTIVE 1)).atMode (wReq [9, 0, 0, 0] : Req) (wCtx : Ctx)).active j)) = true)
    ∧ (((((wStill.setModes { wStill.modes with lock := true }).put MDM_ACTIVE_ACTIVE 1)).atMode (wReq [9, 0, 0, 0] : Req) (wCtx : Ctx)).gateRefusal (9 : Fin 12).val false = none)
    ∧ (((((wStill.setModes { wStill.modes with lock := true }).put MDM_ACTIVE_ACTIVE 1)).atMode (wReq [9, 0, 0, 0] : Req) (wCtx : Ctx)).active (9 : Fin 12).val = false)
    ∧ (((((wStill.setModes { wStill.modes with lock := true }).put MDM_ACTIVE_ACTIVE 1)).atMode (wReq [9, 0, 0, 0] : Req) (wCtx : Ctx)).waiting (9 : Fin 12).val = false)
    ∧ (((((wStill.setModes { wStill.modes with lock := true }).put MDM_ACTIVE_ACTIVE 1)).atMode (wReq [9, 0, 0, 0] : Req) (wCtx : Ctx)).osdBlocks (((((wStill.setModes { wStill.modes with lock := true }).put MDM_ACTIVE_ACTIVE 1)).atMode (wReq [9, 0, 0, 0] : Req) (wCtx : Ctx)).entryModules (9 : Fin 12).val) = false)
    ∧ (((((wStill.setModes { wStill.modes with lock := true }).put MDM_ACTIVE_ACTIVE 1)).atMode (wReq [9, 0, 0, 0] : Req) (wCtx : Ctx)).entryRefusal (9 : Fin 12).val = none)
    ∧ (((((wStill.setModes { wStill.modes with lock := true }).put MDM_ACTIVE_ACTIVE 1)).atMode (wReq [9, 0, 0, 0] : Req) (wCtx : Ctx)).plugRefuses (9 : Fin 12).val = false)
    ∧ (((((wStill.setModes { wStill.modes with lock := true }).put MDM_ACTIVE_ACTIVE 1)).atMode (wReq [9, 0, 0, 0] : Req) (wCtx : Ctx)).pairRefusal (9 : Fin 12).val 0 (((((wStill.setModes { wStill.modes with lock := true }).put MDM_ACTIVE_ACTIVE 1)).atMode (wReq [9, 0, 0, 0] : Req) (wCtx : Ctx)).others (9 : Fin 12).val) = none))
    ∧ ((((wStill.setModes { wStill.modes with lock := true })).kcp.queues.length = 4)
    ∧ (((wStill.setModes { wStill.modes with lock := true })).Ready 0x0201 2 (wReq [9, 0, 0, 0] : Req) (wCtx : Ctx))
    ∧ ((((wStill.setModes { wStill.modes with lock := true })).atMode (wReq [9, 0, 0, 0] : Req) (wCtx : Ctx)).modes.owner.length = 12 ∧ (((wStill.setModes { wStill.modes with lock := true })).atMode (wReq [9, 0, 0, 0] : Req) (wCtx : Ctx)).modes.fed.length = 12)
    ∧ (payU (wReq [9, 0, 0, 0] : Req).pay 0 1 = (9 : Fin 12).val)
    ∧ ((9 : Fin 12).val = 9)
    ∧ ((((wStill.setModes { wStill.modes with lock := true })).atMode (wReq [9, 0, 0, 0] : Req) (wCtx : Ctx)).modes.lock = true)
    ∧ (((((wStill.setModes { wStill.modes with lock := true })).atMode (wReq [9, 0, 0, 0] : Req) (wCtx : Ctx)).others 9).any (fun j => (((wStill.setModes { wStill.modes with lock := true })).atMode (wReq [9, 0, 0, 0] : Req) (wCtx : Ctx)).pairRule 9 j 0 == .wait) = false)
    ∧ (∀ j ∈ (((wStill.setModes { wStill.modes with lock := true })).atMode (wReq [9, 0, 0, 0] : Req) (wCtx : Ctx)).others (9 : Fin 12).val, (((wStill.setModes { wStill.modes with lock := true })).atMode (wReq [9, 0, 0, 0] : Req) (wCtx : Ctx)).pairRule (9 : Fin 12).val j 0 ≠ .preempt)
    ∧ ((((wStill.setModes { wStill.modes with lock := true })).atMode (wReq [9, 0, 0, 0] : Req) (wCtx : Ctx)).gateRefusal (9 : Fin 12).val false = none)
    ∧ ((((wStill.setModes { wStill.modes with lock := true })).atMode (wReq [9, 0, 0, 0] : Req) (wCtx : Ctx)).active (9 : Fin 12).val = false)
    ∧ ((((wStill.setModes { wStill.modes with lock := true })).atMode (wReq [9, 0, 0, 0] : Req) (wCtx : Ctx)).waiting (9 : Fin 12).val = false)
    ∧ ((((wStill.setModes { wStill.modes with lock := true })).atMode (wReq [9, 0, 0, 0] : Req) (wCtx : Ctx)).osdBlocks ((((wStill.setModes { wStill.modes with lock := true })).atMode (wReq [9, 0, 0, 0] : Req) (wCtx : Ctx)).entryModules (9 : Fin 12).val) = false)
    ∧ ((((wStill.setModes { wStill.modes with lock := true })).atMode (wReq [9, 0, 0, 0] : Req) (wCtx : Ctx)).entryRefusal (9 : Fin 12).val = none)
    ∧ ((((wStill.setModes { wStill.modes with lock := true })).atMode (wReq [9, 0, 0, 0] : Req) (wCtx : Ctx)).plugRefuses (9 : Fin 12).val = false)
    ∧ ((((wStill.setModes { wStill.modes with lock := true })).atMode (wReq [9, 0, 0, 0] : Req) (wCtx : Ctx)).pairRefusal (9 : Fin 12).val 0 ((((wStill.setModes { wStill.modes with lock := true })).atMode (wReq [9, 0, 0, 0] : Req) (wCtx : Ctx)).others (9 : Fin 12).val) = none))
    ∧ ((wStill.kcp.queues.length = 4)
    ∧ (wStill.Ready 0x0201 2 (wReq [9, 0, 0, 0] : Req) (wCtx : Ctx))
    ∧ ((wStill.atMode (wReq [9, 0, 0, 0] : Req) (wCtx : Ctx)).modes.owner.length = 12 ∧ (wStill.atMode (wReq [9, 0, 0, 0] : Req) (wCtx : Ctx)).modes.fed.length = 12)
    ∧ (payU (wReq [9, 0, 0, 0] : Req).pay 0 1 = (9 : Fin 12).val)
    ∧ ((9 : Fin 12).val = 9)
    ∧ ((wStill.atMode (wReq [9, 0, 0, 0] : Req) (wCtx : Ctx)).act.length = 3)
    ∧ ((wStill.atMode (wReq [9, 0, 0, 0] : Req) (wCtx : Ctx)).modes.lock = false)
    ∧ ((wStill.atMode (wReq [9, 0, 0, 0] : Req) (wCtx : Ctx)).actRuns 0 = false)
    ∧ (∀ j ∈ (wStill.atMode (wReq [9, 0, 0, 0] : Req) (wCtx : Ctx)).others (9 : Fin 12).val, (wStill.atMode (wReq [9, 0, 0, 0] : Req) (wCtx : Ctx)).pairRule (9 : Fin 12).val j 0 ≠ .preempt)
    ∧ ((wStill.atMode (wReq [9, 0, 0, 0] : Req) (wCtx : Ctx)).gateRefusal (9 : Fin 12).val false = none)
    ∧ ((wStill.atMode (wReq [9, 0, 0, 0] : Req) (wCtx : Ctx)).active (9 : Fin 12).val = false)
    ∧ ((wStill.atMode (wReq [9, 0, 0, 0] : Req) (wCtx : Ctx)).waiting (9 : Fin 12).val = false)
    ∧ ((wStill.atMode (wReq [9, 0, 0, 0] : Req) (wCtx : Ctx)).osdBlocks ((wStill.atMode (wReq [9, 0, 0, 0] : Req) (wCtx : Ctx)).entryModules (9 : Fin 12).val) = false)
    ∧ ((wStill.atMode (wReq [9, 0, 0, 0] : Req) (wCtx : Ctx)).entryRefusal (9 : Fin 12).val = none)
    ∧ ((wStill.atMode (wReq [9, 0, 0, 0] : Req) (wCtx : Ctx)).plugRefuses (9 : Fin 12).val = false)
    ∧ ((wStill.atMode (wReq [9, 0, 0, 0] : Req) (wCtx : Ctx)).pairRefusal (9 : Fin 12).val 0 ((wStill.atMode (wReq [9, 0, 0, 0] : Req) (wCtx : Ctx)).others (9 : Fin 12).val) = none))
    ∧ ((((wStill.put (ACS_STAT_PHASE 0) 2)).kcp.queues.length = 4)
    ∧ (((wStill.put (ACS_STAT_PHASE 0) 2)).Ready 0x0201 2 (wReq [9, 0, 0, 0] : Req) (wCtx : Ctx))
    ∧ ((((wStill.put (ACS_STAT_PHASE 0) 2)).atMode (wReq [9, 0, 0, 0] : Req) (wCtx : Ctx)).modes.owner.length = 12 ∧ (((wStill.put (ACS_STAT_PHASE 0) 2)).atMode (wReq [9, 0, 0, 0] : Req) (wCtx : Ctx)).modes.fed.length = 12)
    ∧ (payU (wReq [9, 0, 0, 0] : Req).pay 0 1 = (9 : Fin 12).val)
    ∧ ((9 : Fin 12).val = 9)
    ∧ ((((wStill.put (ACS_STAT_PHASE 0) 2)).atMode (wReq [9, 0, 0, 0] : Req) (wCtx : Ctx)).actRuns 0 = true)
    ∧ ((((wStill.put (ACS_STAT_PHASE 0) 2)).atMode (wReq [9, 0, 0, 0] : Req) (wCtx : Ctx)).modes.lock = false ∨ ((((wStill.put (ACS_STAT_PHASE 0) 2)).atMode (wReq [9, 0, 0, 0] : Req) (wCtx : Ctx)).others 9).any (fun j => (((wStill.put (ACS_STAT_PHASE 0) 2)).atMode (wReq [9, 0, 0, 0] : Req) (wCtx : Ctx)).pairRule 9 j 0 == .wait) = true)
    ∧ (∀ j ∈ (((wStill.put (ACS_STAT_PHASE 0) 2)).atMode (wReq [9, 0, 0, 0] : Req) (wCtx : Ctx)).others (9 : Fin 12).val, (((wStill.put (ACS_STAT_PHASE 0) 2)).atMode (wReq [9, 0, 0, 0] : Req) (wCtx : Ctx)).pairRule (9 : Fin 12).val j 0 ≠ .preempt)
    ∧ ((((wStill.put (ACS_STAT_PHASE 0) 2)).atMode (wReq [9, 0, 0, 0] : Req) (wCtx : Ctx)).gateRefusal (9 : Fin 12).val false = none)
    ∧ ((((wStill.put (ACS_STAT_PHASE 0) 2)).atMode (wReq [9, 0, 0, 0] : Req) (wCtx : Ctx)).active (9 : Fin 12).val = false)
    ∧ ((((wStill.put (ACS_STAT_PHASE 0) 2)).atMode (wReq [9, 0, 0, 0] : Req) (wCtx : Ctx)).waiting (9 : Fin 12).val = false)
    ∧ ((((wStill.put (ACS_STAT_PHASE 0) 2)).atMode (wReq [9, 0, 0, 0] : Req) (wCtx : Ctx)).osdBlocks ((((wStill.put (ACS_STAT_PHASE 0) 2)).atMode (wReq [9, 0, 0, 0] : Req) (wCtx : Ctx)).entryModules (9 : Fin 12).val) = false)
    ∧ ((((wStill.put (ACS_STAT_PHASE 0) 2)).atMode (wReq [9, 0, 0, 0] : Req) (wCtx : Ctx)).entryRefusal (9 : Fin 12).val = none)
    ∧ ((((wStill.put (ACS_STAT_PHASE 0) 2)).atMode (wReq [9, 0, 0, 0] : Req) (wCtx : Ctx)).plugRefuses (9 : Fin 12).val = false)
    ∧ ((((wStill.put (ACS_STAT_PHASE 0) 2)).atMode (wReq [9, 0, 0, 0] : Req) (wCtx : Ctx)).pairRefusal (9 : Fin 12).val 0 ((((wStill.put (ACS_STAT_PHASE 0) 2)).atMode (wReq [9, 0, 0, 0] : Req) (wCtx : Ctx)).others (9 : Fin 12).val) = none)) := by
  and_intros <;> decide +kernel

theorem witness_mode_requests_enter_and_exit_instances_part2 :
    ((((wKp.put MDM_ACTIVE_ACTIVE 0x281)).kcp.queues.length = 4)
    ∧ (((wKp.put MDM_ACTIVE_ACTIVE 0x281)).Ready 0x0201 2 (wReq [11, 0, 0, 0] : Req) (wCtx : Ctx))
    ∧ ((((wKp.put MDM_ACTIVE_ACTIVE 0x281)).atMode (wReq [11, 0, 0, 0] : Req) (wCtx : Ctx)).modes.owner.length = 12 ∧ (((wKp.put MDM_ACTIVE_ACTIVE 0x281)).atMode (wReq [11, 0, 0, 0] : Req) (wCtx : Ctx)).modes.fed.length = 12)
    ∧ (payU (wReq [11, 0, 0, 0] : Req).pay 0 1 = (11 : Fin 12).val)
    ∧ ((11 : Fin 12).val = 11)
    ∧ ((((wKp.put MDM_ACTIVE_ACTIVE 0x281)).atMode (wReq [11, 0, 0, 0] : Req) (wCtx : Ctx)).active 10 = false)
    ∧ ((((wKp.put MDM_ACTIVE_ACTIVE 0x281)).atMode (wReq [11, 0, 0, 0] : Req) (wCtx : Ctx)).gateRefusal (11 : Fin 12).val false = none)
    ∧ ((((wKp.put MDM_ACTIVE_ACTIVE 0x281)).atMode (wReq [11, 0, 0, 0] : Req) (wCtx : Ctx)).active (11 : Fin 12).val = false)
    ∧ ((((wKp.put MDM_ACTIVE_ACTIVE 0x281)).atMode (wReq [11, 0, 0, 0] : Req) (wCtx : Ctx)).waiting (11 : Fin 12).val = false)
    ∧ ((((wKp.put MDM_ACTIVE_ACTIVE 0x281)).atMode (wReq [11, 0, 0, 0] : Req) (wCtx : Ctx)).osdBlocks ((((wKp.put MDM_ACTIVE_ACTIVE 0x281)).atMode (wReq [11, 0, 0, 0] : Req) (wCtx : Ctx)).entryModules (11 : Fin 12).val) = false)
    ∧ ((((wKp.put MDM_ACTIVE_ACTIVE 0x281)).atMode (wReq [11, 0, 0, 0] : Req) (wCtx : Ctx)).entryRefusal (11 : Fin 12).val = none)
    ∧ ((((wKp.put MDM_ACTIVE_ACTIVE 0x281)).atMode (wReq [11, 0, 0, 0] : Req) (wCtx : Ctx)).plugRefuses (11 : Fin 12).val = false)
    ∧ ((((wKp.put MDM_ACTIVE_ACTIVE 0x281)).atMode (wReq [11, 0, 0, 0] : Req) (wCtx : Ctx)).pairRefusal (11 : Fin 12).val 0 ((((wKp.put MDM_ACTIVE_ACTIVE 0x281)).atMode (wReq [11, 0, 0, 0] : Req) (wCtx : Ctx)).others (11 : Fin 12).val) = none))
    ∧ ((((wKp.put MDM_ACTIVE_ACTIVE 0x400)).kcp.queues.length = 4)
    ∧ (((wKp.put MDM_ACTIVE_ACTIVE 0x400)).Ready 0x0201 2 (wReq [11, 0, 0, 0] : Req) (wCtx : Ctx))
    ∧ ((((wKp.put MDM_ACTIVE_ACTIVE 0x400)).atMode (wReq [11, 0, 0, 0] : Req) (wCtx : Ctx)).modes.owner.length = 12 ∧ (((wKp.put MDM_ACTIVE_ACTIVE 0x400)).atMode (wReq [11, 0, 0, 0] : Req) (wCtx : Ctx)).modes.fed.length = 12)
    ∧ (payU (wReq [11, 0, 0, 0] : Req).pay 0 1 = (11 : Fin 12).val)
    ∧ ((11 : Fin 12).val = 11)
    ∧ ((((wKp.put MDM_ACTIVE_ACTIVE 0x400)).atMode (wReq [11, 0, 0, 0] : Req) (wCtx : Ctx)).active 10 = true))
    ∧ (((((wKp.setKcp { wKp.kcp with ctxs := [(5, wCtx), (6, wCtx)] }).put MDM_ACTIVE_ACTIVE 0x80).setModes { Modes.idle with owner := Modes.idle.owner.set 7 (some 0x607) }).kcp.queues.length = 4)
    ∧ ((((wKp.setKcp { wKp.kcp with ctxs := [(5, wCtx), (6, wCtx)] }).put MDM_ACTIVE_ACTIVE 0x80).setModes { Modes.idle with owner := Modes.idle.owner.set 7 (some 0x607) }).Ready 0x0201 2 (wReq [7, 0, 0, 0] : Req) (wCtx : Ctx))
    ∧ (((((wKp.setKcp { wKp.kcp with ctxs := [(5, wCtx), (6, wCtx)] }).put MDM_ACTIVE_ACTIVE 0x80).setModes { Modes.idle with owner := Modes.idle.owner.set 7 (some 0x607) }).atMode (wReq [7, 0, 0, 0] : Req) (wCtx : Ctx)).modes.owner.length = 12 ∧ ((((wKp.setKcp { wKp.kcp with ctxs := [(5, wCtx), (6, wCtx)] }).put MDM_ACTIVE_ACTIVE 0x80).setModes { Modes.idle with owner := Modes.idle.owner.set 7 (some 0x607) }).atMode (wReq [7, 0, 0, 0] : Req) (wCtx : Ctx)).modes.fed.length = 12)
    ∧ (payU (wReq [7, 0, 0, 0] : Req).pay 0 1 = (7 : Fin 12).val)
    ∧ (¬(((((wKp.setKcp { wKp.kcp with ctxs := [(5, wCtx), (6, wCtx)] }).put MDM_ACTIVE_ACTIVE 0x80).setModes { Modes.idle with owner := Modes.idle.owner.set 7 (some 0x607) }).atMode (wReq [7, 0, 0, 0] : Req) (wCtx : Ctx)).active 10 = true ∧ (7 : Fin 12).val = 11))
    ∧ (((((wKp.setKcp { wKp.kcp with ctxs := [(5, wCtx), (6, wCtx)] }).put MDM_ACTIVE_ACTIVE 0x80).setModes { Modes.idle with owner := Modes.idle.owner.set 7 (some 0x607) }).atMode (wReq [7, 0, 0, 0] : Req) (wCtx : Ctx)).gateRefusal (7 : Fin 12).val false = none)
    ∧ (((((wKp.setKcp { wKp.kcp with ctxs := [(5, wCtx), (6, wCtx)] }).put MDM_ACTIVE_ACTIVE 0x80).setModes { Modes.idle with owner := Modes.idle.owner.set 7 (some 0x607) }).atMode (wReq [7, 0, 0, 0] : Req) (wCtx : Ctx)).active (7 : Fin 12).val = true ∨ ((((wKp.setKcp { wKp.kcp with ctxs := [(5, wCtx), (6, wCtx)] }).put MDM_ACTIVE_ACTIVE 0x80).setModes { Modes.idle with owner := Modes.idle.owner.set 7 (some 0x607) }).atMode (wReq [7, 0, 0, 0] : Req) (wCtx : Ctx)).waiting (7 : Fin 12).val = true)
    ∧ (((((wKp.setKcp { wKp.kcp with ctxs := [(5, wCtx), (6, wCtx)] }).put MDM_ACTIVE_ACTIVE 0x80).setModes { Modes.idle with owner := Modes.idle.owner.set 7 (some 0x607) }).atMode (wReq [7, 0, 0, 0] : Req) (wCtx : Ctx)).heldBy (7 : Fin 12).val ((wReq [7, 0, 0, 0] : Req).ctx.val * 256 + (wCtx : Ctx).gen) = true))
    ∧ ((wWht.kcp.queues.length = 4)
    ∧ (wWht.Ready 0x0201 2 (wReq [7, 0, 0, 0] : Req) (wCtx : Ctx))
    ∧ ((wWht.atMode (wReq [7, 0, 0, 0] : Req) (wCtx : Ctx)).modes.owner.length = 12 ∧ (wWht.atMode (wReq [7, 0, 0, 0] : Req) (wCtx : Ctx)).modes.fed.length = 12)
    ∧ (payU (wReq [7, 0, 0, 0] : Req).pay 0 1 = (7 : Fin 12).val)
    ∧ (¬((wWht.atMode (wReq [7, 0, 0, 0] : Req) (wCtx : Ctx)).active 10 = true ∧ (7 : Fin 12).val = 11))
    ∧ ((wWht.atMode (wReq [7, 0, 0, 0] : Req) (wCtx : Ctx)).gateRefusal (7 : Fin 12).val false = none)
    ∧ ((wWht.atMode (wReq [7, 0, 0, 0] : Req) (wCtx : Ctx)).active (7 : Fin 12).val = true)
    ∧ ((wWht.atMode (wReq [7, 0, 0, 0] : Req) (wCtx : Ctx)).heldBy (7 : Fin 12).val ((wReq [7, 0, 0, 0] : Req).ctx.val * 256 + (wCtx : Ctx).gen) = false))
    ∧ (((((wKp.put MDM_ACTIVE_PENDING 0x8).setModes { Modes.idle with owner := Modes.idle.owner.set 3 (some 0x507), pend := [⟨3, [⟨0x507, 0, 9, none, 10, 0x0201, 2, 0⟩], 1, 5⟩] })).kcp.queues.length = 4)
    ∧ ((((wKp.put MDM_ACTIVE_PENDING 0x8).setModes { Modes.idle with owner := Modes.idle.owner.set 3 (some 0x507), pend := [⟨3, [⟨0x507, 0, 9, none, 10, 0x0201, 2, 0⟩], 1, 5⟩] })).Ready 0x0201 2 (wReq [3, 0, 0, 0] : Req) (wCtx : Ctx))
    ∧ (((((wKp.put MDM_ACTIVE_PENDING 0x8).setModes { Modes.idle with owner := Modes.idle.owner.set 3 (some 0x507), pend := [⟨3, [⟨0x507, 0, 9, none, 10, 0x0201, 2, 0⟩], 1, 5⟩] })).atMode (wReq [3, 0, 0, 0] : Req) (wCtx : Ctx)).modes.owner.length = 12 ∧ ((((wKp.put MDM_ACTIVE_PENDING 0x8).setModes { Modes.idle with owner := Modes.idle.owner.set 3 (some 0x507), pend := [⟨3, [⟨0x507, 0, 9, none, 10, 0x0201, 2, 0⟩], 1, 5⟩] })).atMode (wReq [3, 0, 0, 0] : Req) (wCtx : Ctx)).modes.fed.length = 12)
    ∧ (payU (wReq [3, 0, 0, 0] : Req).pay 0 1 = (3 : Fin 12).val)
    ∧ (¬(((((wKp.put MDM_ACTIVE_PENDING 0x8).setModes { Modes.idle with owner := Modes.idle.owner.set 3 (some 0x507), pend := [⟨3, [⟨0x507, 0, 9, none, 10, 0x0201, 2, 0⟩], 1, 5⟩] })).atMode (wReq [3, 0, 0, 0] : Req) (wCtx : Ctx)).active 10 = true ∧ (3 : Fin 12).val = 11))
    ∧ (((((wKp.put MDM_ACTIVE_PENDING 0x8).setModes { Modes.idle with owner := Modes.idle.owner.set 3 (some 0x507), pend := [⟨3, [⟨0x507, 0, 9, none, 10, 0x0201, 2, 0⟩], 1, 5⟩] })).atMode (wReq [3, 0, 0, 0] : Req) (wCtx : Ctx)).gateRefusal (3 : Fin 12).val false = none)
    ∧ (((((wKp.put MDM_ACTIVE_PENDING 0x8).setModes { Modes.idle with owner := Modes.idle.owner.set 3 (some 0x507), pend := [⟨3, [⟨0x507, 0, 9, none, 10, 0x0201, 2, 0⟩], 1, 5⟩] })).atMode (wReq [3, 0, 0, 0] : Req) (wCtx : Ctx)).active (3 : Fin 12).val = false)
    ∧ (((((wKp.put MDM_ACTIVE_PENDING 0x8).setModes { Modes.idle with owner := Modes.idle.owner.set 3 (some 0x507), pend := [⟨3, [⟨0x507, 0, 9, none, 10, 0x0201, 2, 0⟩], 1, 5⟩] })).atMode (wReq [3, 0, 0, 0] : Req) (wCtx : Ctx)).waiting (3 : Fin 12).val = true)
    ∧ (((((wKp.put MDM_ACTIVE_PENDING 0x8).setModes { Modes.idle with owner := Modes.idle.owner.set 3 (some 0x507), pend := [⟨3, [⟨0x507, 0, 9, none, 10, 0x0201, 2, 0⟩], 1, 5⟩] })).atMode (wReq [3, 0, 0, 0] : Req) (wCtx : Ctx)).heldBy (3 : Fin 12).val ((wReq [3, 0, 0, 0] : Req).ctx.val * 256 + (wCtx : Ctx).gen) = false))
    ∧ ((((wKp.put MDM_ACTIVE_ACTIVE 0x400)).kcp.queues.length = 4)
    ∧ (((wKp.put MDM_ACTIVE_ACTIVE 0x400)).Ready 0x0201 2 (wReq [7, 0, 0, 0] : Req) (wCtx : Ctx))
    ∧ ((((wKp.put MDM_ACTIVE_ACTIVE 0x400)).atMode (wReq [7, 0, 0, 0] : Req) (wCtx : Ctx)).modes.owner.length = 12 ∧ (((wKp.put MDM_ACTIVE_ACTIVE 0x400)).atMode (wReq [7, 0, 0, 0] : Req) (wCtx : Ctx)).modes.fed.length = 12)
    ∧ (payU (wReq [7, 0, 0, 0] : Req).pay 0 1 = (7 : Fin 12).val)
    ∧ (¬((((wKp.put MDM_ACTIVE_ACTIVE 0x400)).atMode (wReq [7, 0, 0, 0] : Req) (wCtx : Ctx)).active 10 = true ∧ (7 : Fin 12).val = 11))
    ∧ ((((wKp.put MDM_ACTIVE_ACTIVE 0x400)).atMode (wReq [7, 0, 0, 0] : Req) (wCtx : Ctx)).gateRefusal (7 : Fin 12).val false = some (stSafeState : Nat))) := by
  and_intros <;> decide +kernel

theorem witness_mode_requests_enter_and_exit_instances_part3 :
    ((((wKp.put GDG_OSDSTAT_BUSY 1).put GDG_OSDLEGS_LEGS 1).kcp.queues.length = 4)
    ∧ (((wKp.put GDG_OSDSTAT_BUSY 1).put GDG_OSDLEGS_LEGS 1).Ready 0x0201 2 (wReq [7, 0, 0, 0] : Req) (wCtx : Ctx))
    ∧ ((((wKp.put GDG_OSDSTAT_BUSY 1).put GDG_OSDLEGS_LEGS 1).atMode (wReq [7, 0, 0, 0] : Req) (wCtx : Ctx)).modes.owner.length = 12 ∧ (((wKp.put GDG_OSDSTAT_BUSY 1).put GDG_OSDLEGS_LEGS 1).atMode (wReq [7, 0, 0, 0] : Req) (wCtx : Ctx)).modes.fed.length = 12)
    ∧ (payU (wReq [7, 0, 0, 0] : Req).pay 0 1 = (7 : Fin 12).val)
    ∧ (¬((((wKp.put GDG_OSDSTAT_BUSY 1).put GDG_OSDLEGS_LEGS 1).atMode (wReq [7, 0, 0, 0] : Req) (wCtx : Ctx)).active 10 = true ∧ (7 : Fin 12).val = 11))
    ∧ ((((wKp.put GDG_OSDSTAT_BUSY 1).put GDG_OSDLEGS_LEGS 1).atMode (wReq [7, 0, 0, 0] : Req) (wCtx : Ctx)).gateRefusal (7 : Fin 12).val false = none)
    ∧ ((((wKp.put GDG_OSDSTAT_BUSY 1).put GDG_OSDLEGS_LEGS 1).atMode (wReq [7, 0, 0, 0] : Req) (wCtx : Ctx)).active (7 : Fin 12).val = false)
    ∧ ((((wKp.put GDG_OSDSTAT_BUSY 1).put GDG_OSDLEGS_LEGS 1).atMode (wReq [7, 0, 0, 0] : Req) (wCtx : Ctx)).waiting (7 : Fin 12).val = false)
    ∧ ((((wKp.put GDG_OSDSTAT_BUSY 1).put GDG_OSDLEGS_LEGS 1).atMode (wReq [7, 0, 0, 0] : Req) (wCtx : Ctx)).osdBlocks ((((wKp.put GDG_OSDSTAT_BUSY 1).put GDG_OSDLEGS_LEGS 1).atMode (wReq [7, 0, 0, 0] : Req) (wCtx : Ctx)).entryModules (7 : Fin 12).val) = true))
    ∧ ((wKp.kcp.queues.length = 4)
    ∧ (wKp.Ready 0x0201 2 (wReq [7, 0, 0, 0] : Req) (wCtx : Ctx))
    ∧ ((wKp.atMode (wReq [7, 0, 0, 0] : Req) (wCtx : Ctx)).modes.owner.length = 12 ∧ (wKp.atMode (wReq [7, 0, 0, 0] : Req) (wCtx : Ctx)).modes.fed.length = 12)
    ∧ (payU (wReq [7, 0, 0, 0] : Req).pay 0 1 = (7 : Fin 12).val)
    ∧ (¬((wKp.atMode (wReq [7, 0, 0, 0] : Req) (wCtx : Ctx)).active 10 = true ∧ (7 : Fin 12).val = 11))
    ∧ ((wKp.atMode (wReq [7, 0, 0, 0] : Req) (wCtx : Ctx)).gateRefusal (7 : Fin 12).val false = none)
    ∧ ((wKp.atMode (wReq [7, 0, 0, 0] : Req) (wCtx : Ctx)).active (7 : Fin 12).val = false)
    ∧ ((wKp.atMode (wReq [7, 0, 0, 0] : Req) (wCtx : Ctx)).waiting (7 : Fin 12).val = false)
    ∧ ((wKp.atMode (wReq [7, 0, 0, 0] : Req) (wCtx : Ctx)).osdBlocks ((wKp.atMode (wReq [7, 0, 0, 0] : Req) (wCtx : Ctx)).entryModules (7 : Fin 12).val) = false)
    ∧ ((wKp.atMode (wReq [7, 0, 0, 0] : Req) (wCtx : Ctx)).entryRefusal (7 : Fin 12).val = some (stBadState : Nat)))
    ∧ (((((((wKp.put HSM_STATUS_EN 0xF).put HSM_CFG_CFGACK 1).put MDM_PLUG_PLUG 1).put MDM_PLUGPOL_WHT_A 1)).kcp.queues.length = 4)
    ∧ ((((((wKp.put HSM_STATUS_EN 0xF).put HSM_CFG_CFGACK 1).put MDM_PLUG_PLUG 1).put MDM_PLUGPOL_WHT_A 1)).Ready 0x0201 2 (wReq [7, 0, 0, 0] : Req) (wCtx : Ctx))
    ∧ (((((((wKp.put HSM_STATUS_EN 0xF).put HSM_CFG_CFGACK 1).put MDM_PLUG_PLUG 1).put MDM_PLUGPOL_WHT_A 1)).atMode (wReq [7, 0, 0, 0] : Req) (wCtx : Ctx)).modes.owner.length = 12 ∧ ((((((wKp.put HSM_STATUS_EN 0xF).put HSM_CFG_CFGACK 1).put MDM_PLUG_PLUG 1).put MDM_PLUGPOL_WHT_A 1)).atMode (wReq [7, 0, 0, 0] : Req) (wCtx : Ctx)).modes.fed.length = 12)
    ∧ (payU (wReq [7, 0, 0, 0] : Req).pay 0 1 = (7 : Fin 12).val)
    ∧ (¬(((((((wKp.put HSM_STATUS_EN 0xF).put HSM_CFG_CFGACK 1).put MDM_PLUG_PLUG 1).put MDM_PLUGPOL_WHT_A 1)).atMode (wReq [7, 0, 0, 0] : Req) (wCtx : Ctx)).active 10 = true ∧ (7 : Fin 12).val = 11))
    ∧ (((((((wKp.put HSM_STATUS_EN 0xF).put HSM_CFG_CFGACK 1).put MDM_PLUG_PLUG 1).put MDM_PLUGPOL_WHT_A 1)).atMode (wReq [7, 0, 0, 0] : Req) (wCtx : Ctx)).gateRefusal (7 : Fin 12).val false = none)
    ∧ (((((((wKp.put HSM_STATUS_EN 0xF).put HSM_CFG_CFGACK 1).put MDM_PLUG_PLUG 1).put MDM_PLUGPOL_WHT_A 1)).atMode (wReq [7, 0, 0, 0] : Req) (wCtx : Ctx)).active (7 : Fin 12).val = false)
    ∧ (((((((wKp.put HSM_STATUS_EN 0xF).put HSM_CFG_CFGACK 1).put MDM_PLUG_PLUG 1).put MDM_PLUGPOL_WHT_A 1)).atMode (wReq [7, 0, 0, 0] : Req) (wCtx : Ctx)).waiting (7 : Fin 12).val = false)
    ∧ (((((((wKp.put HSM_STATUS_EN 0xF).put HSM_CFG_CFGACK 1).put MDM_PLUG_PLUG 1).put MDM_PLUGPOL_WHT_A 1)).atMode (wReq [7, 0, 0, 0] : Req) (wCtx : Ctx)).osdBlocks (((((((wKp.put HSM_STATUS_EN 0xF).put HSM_CFG_CFGACK 1).put MDM_PLUG_PLUG 1).put MDM_PLUGPOL_WHT_A 1)).atMode (wReq [7, 0, 0, 0] : Req) (wCtx : Ctx)).entryModules (7 : Fin 12).val) = false)
    ∧ (((((((wKp.put HSM_STATUS_EN 0xF).put HSM_CFG_CFGACK 1).put MDM_PLUG_PLUG 1).put MDM_PLUGPOL_WHT_A 1)).atMode (wReq [7, 0, 0, 0] : Req) (wCtx : Ctx)).entryRefusal (7 : Fin 12).val = none)
    ∧ (((((((wKp.put HSM_STATUS_EN 0xF).put HSM_CFG_CFGACK 1).put MDM_PLUG_PLUG 1).put MDM_PLUGPOL_WHT_A 1)).atMode (wReq [7, 0, 0, 0] : Req) (wCtx : Ctx)).plugRefuses (7 : Fin 12).val = true))
    ∧ ((((((((wKp.put HSM_STATUS_EN 0xF).put HSM_CFG_CFGACK 1).put MDM_PLUG_PLUG 1)).put MDM_ACTIVE_ACTIVE 0x10)).kcp.queues.length = 4)
    ∧ (((((((wKp.put HSM_STATUS_EN 0xF).put HSM_CFG_CFGACK 1).put MDM_PLUG_PLUG 1)).put MDM_ACTIVE_ACTIVE 0x10)).Ready 0x0201 2 (wReq [3, 0, 0, 0] : Req) (wCtx : Ctx))
    ∧ ((((((((wKp.put HSM_STATUS_EN 0xF).put HSM_CFG_CFGACK 1).put MDM_PLUG_PLUG 1)).put MDM_ACTIVE_ACTIVE 0x10)).atMode (wReq [3, 0, 0, 0] : Req) (wCtx : Ctx)).modes.owner.length = 12 ∧ (((((((wKp.put HSM_STATUS_EN 0xF).put HSM_CFG_CFGACK 1).put MDM_PLUG_PLUG 1)).put MDM_ACTIVE_ACTIVE 0x10)).atMode (wReq [3, 0, 0, 0] : Req) (wCtx : Ctx)).modes.fed.length = 12)
    ∧ (payU (wReq [3, 0, 0, 0] : Req).pay 0 1 = (3 : Fin 12).val)
    ∧ (¬((((((((wKp.put HSM_STATUS_EN 0xF).put HSM_CFG_CFGACK 1).put MDM_PLUG_PLUG 1)).put MDM_ACTIVE_ACTIVE 0x10)).atMode (wReq [3, 0, 0, 0] : Req) (wCtx : Ctx)).active 10 = true ∧ (3 : Fin 12).val = 11))
    ∧ ((((((((wKp.put HSM_STATUS_EN 0xF).put HSM_CFG_CFGACK 1).put MDM_PLUG_PLUG 1)).put MDM_ACTIVE_ACTIVE 0x10)).atMode (wReq [3, 0, 0, 0] : Req) (wCtx : Ctx)).gateRefusal (3 : Fin 12).val false = none)
    ∧ ((((((((wKp.put HSM_STATUS_EN 0xF).put HSM_CFG_CFGACK 1).put MDM_PLUG_PLUG 1)).put MDM_ACTIVE_ACTIVE 0x10)).atMode (wReq [3, 0, 0, 0] : Req) (wCtx : Ctx)).active (3 : Fin 12).val = false)
    ∧ ((((((((wKp.put HSM_STATUS_EN 0xF).put HSM_CFG_CFGACK 1).put MDM_PLUG_PLUG 1)).put MDM_ACTIVE_ACTIVE 0x10)).atMode (wReq [3, 0, 0, 0] : Req) (wCtx : Ctx)).waiting (3 : Fin 12).val = false)
    ∧ ((((((((wKp.put HSM_STATUS_EN 0xF).put HSM_CFG_CFGACK 1).put MDM_PLUG_PLUG 1)).put MDM_ACTIVE_ACTIVE 0x10)).atMode (wReq [3, 0, 0, 0] : Req) (wCtx : Ctx)).osdBlocks ((((((((wKp.put HSM_STATUS_EN 0xF).put HSM_CFG_CFGACK 1).put MDM_PLUG_PLUG 1)).put MDM_ACTIVE_ACTIVE 0x10)).atMode (wReq [3, 0, 0, 0] : Req) (wCtx : Ctx)).entryModules (3 : Fin 12).val) = false)
    ∧ ((((((((wKp.put HSM_STATUS_EN 0xF).put HSM_CFG_CFGACK 1).put MDM_PLUG_PLUG 1)).put MDM_ACTIVE_ACTIVE 0x10)).atMode (wReq [3, 0, 0, 0] : Req) (wCtx : Ctx)).entryRefusal (3 : Fin 12).val = none)
    ∧ ((((((((wKp.put HSM_STATUS_EN 0xF).put HSM_CFG_CFGACK 1).put MDM_PLUG_PLUG 1)).put MDM_ACTIVE_ACTIVE 0x10)).atMode (wReq [3, 0, 0, 0] : Req) (wCtx : Ctx)).plugRefuses (3 : Fin 12).val = false)
    ∧ ((((((((wKp.put HSM_STATUS_EN 0xF).put HSM_CFG_CFGACK 1).put MDM_PLUG_PLUG 1)).put MDM_ACTIVE_ACTIVE 0x10)).atMode (wReq [3, 0, 0, 0] : Req) (wCtx : Ctx)).pairRefusal (3 : Fin 12).val 0 ((((((((wKp.put HSM_STATUS_EN 0xF).put HSM_CFG_CFGACK 1).put MDM_PLUG_PLUG 1)).put MDM_ACTIVE_ACTIVE 0x10)).atMode (wReq [3, 0, 0, 0] : Req) (wCtx : Ctx)).others (3 : Fin 12).val) = some (stHeld : Nat)))
    ∧ ((wWht.kcp.queues.length = 4)
    ∧ (wWht.Ready 0x0202 2 (wReq [7, 0, 0, 0] : Req) (wCtx : Ctx))
    ∧ ((wWht.atMode (wReq [7, 0, 0, 0] : Req) (wCtx : Ctx)).modes.owner.length = 12 ∧ (wWht.atMode (wReq [7, 0, 0, 0] : Req) (wCtx : Ctx)).modes.fed.length = 12)
    ∧ (payU (wReq [7, 0, 0, 0] : Req).pay 0 1 = (7 : Fin 12).val)
    ∧ ((7 : Fin 12).val ∈ [0, 1, 2, 3, 4, 5, 7, 8])
    ∧ ((wWht.atMode (wReq [7, 0, 0, 0] : Req) (wCtx : Ctx)).gateRefusal (7 : Fin 12).val true = none)
    ∧ ((wWht.atMode (wReq [7, 0, 0, 0] : Req) (wCtx : Ctx)).heldBy (7 : Fin 12).val ((wReq [7, 0, 0, 0] : Req).ctx.val * 256 + (wCtx : Ctx).gen) = false)
    ∧ ((wWht.atMode (wReq [7, 0, 0, 0] : Req) (wCtx : Ctx)).active (7 : Fin 12).val = true)
    ∧ ((wWht.atMode (wReq [7, 0, 0, 0] : Req) (wCtx : Ctx)).ramping (7 : Fin 12).val = false))
    ∧ ((((wWht.setModes { wWht.modes with ramp := 0x80 })).kcp.queues.length = 4)
    ∧ (((wWht.setModes { wWht.modes with ramp := 0x80 })).Ready 0x0202 2 (wReq [7, 0, 0, 0] : Req) (wCtx : Ctx))
    ∧ ((((wWht.setModes { wWht.modes with ramp := 0x80 })).atMode (wReq [7, 0, 0, 0] : Req) (wCtx : Ctx)).modes.owner.length = 12 ∧ (((wWht.setModes { wWht.modes with ramp := 0x80 })).atMode (wReq [7, 0, 0, 0] : Req) (wCtx : Ctx)).modes.fed.length = 12)
    ∧ (payU (wReq [7, 0, 0, 0] : Req).pay 0 1 = (7 : Fin 12).val)
    ∧ ((7 : Fin 12).val ∈ [0, 1, 2, 3, 4, 5, 7, 8])
    ∧ ((((wWht.setModes { wWht.modes with ramp := 0x80 })).atMode (wReq [7, 0, 0, 0] : Req) (wCtx : Ctx)).gateRefusal (7 : Fin 12).val true = none)
    ∧ ((((wWht.setModes { wWht.modes with ramp := 0x80 })).atMode (wReq [7, 0, 0, 0] : Req) (wCtx : Ctx)).heldBy (7 : Fin 12).val ((wReq [7, 0, 0, 0] : Req).ctx.val * 256 + (wCtx : Ctx).gen) = false)
    ∧ ((((wWht.setModes { wWht.modes with ramp := 0x80 })).atMode (wReq [7, 0, 0, 0] : Req) (wCtx : Ctx)).active (7 : Fin 12).val = true)
    ∧ ((((wWht.setModes { wWht.modes with ramp := 0x80 })).atMode (wReq [7, 0, 0, 0] : Req) (wCtx : Ctx)).ramping (7 : Fin 12).val = true)) := by
  and_intros <;> decide +kernel

theorem witness_mode_requests_enter_and_exit_instances_part4 :
    ((((wKp.put MDM_ACTIVE_ACTIVE 0x200)).kcp.queues.length = 4)
    ∧ (((wKp.put MDM_ACTIVE_ACTIVE 0x200)).Ready 0x0202 2 (wReq [9, 0, 0, 0] : Req) (wCtx : Ctx))
    ∧ ((((wKp.put MDM_ACTIVE_ACTIVE 0x200)).atMode (wReq [9, 0, 0, 0] : Req) (wCtx : Ctx)).modes.owner.length = 12 ∧ (((wKp.put MDM_ACTIVE_ACTIVE 0x200)).atMode (wReq [9, 0, 0, 0] : Req) (wCtx : Ctx)).modes.fed.length = 12)
    ∧ (payU (wReq [9, 0, 0, 0] : Req).pay 0 1 = (9 : Fin 12).val)
    ∧ ((9 : Fin 12).val = 9 ∨ ((9 : Fin 12).val = 6 ∧ (((wKp.put MDM_ACTIVE_ACTIVE 0x200)).atMode (wReq [9, 0, 0, 0] : Req) (wCtx : Ctx)).anySeq = false))
    ∧ ((((wKp.put MDM_ACTIVE_ACTIVE 0x200)).atMode (wReq [9, 0, 0, 0] : Req) (wCtx : Ctx)).gateRefusal (9 : Fin 12).val true = none)
    ∧ ((((wKp.put MDM_ACTIVE_ACTIVE 0x200)).atMode (wReq [9, 0, 0, 0] : Req) (wCtx : Ctx)).heldBy (9 : Fin 12).val ((wReq [9, 0, 0, 0] : Req).ctx.val * 256 + (wCtx : Ctx).gen) = false)
    ∧ ((((wKp.put MDM_ACTIVE_ACTIVE 0x200)).atMode (wReq [9, 0, 0, 0] : Req) (wCtx : Ctx)).active (9 : Fin 12).val = true)
    ∧ ((((wKp.put MDM_ACTIVE_ACTIVE 0x200)).atMode (wReq [9, 0, 0, 0] : Req) (wCtx : Ctx)).ramping (9 : Fin 12).val = false)
    ∧ ((((wKp.put MDM_ACTIVE_ACTIVE 0x200)).atMode (wReq [9, 0, 0, 0] : Req) (wCtx : Ctx)).modes.pend.all (fun (p : PendReq) => p.why != 0 || (preempted p.inst).any (fun j => (((wKp.put MDM_ACTIVE_ACTIVE 0x200)).atMode (wReq [9, 0, 0, 0] : Req) (wCtx : Ctx)).active j)) = true))
    ∧ (((((wKp.put MDM_ACTIVE_ACTIVE 0x40).put (ACS_STAT_PHASE 1) 2)).kcp.queues.length = 4)
    ∧ ((((wKp.put MDM_ACTIVE_ACTIVE 0x40).put (ACS_STAT_PHASE 1) 2)).Ready 0x0202 2 (wReq [6, 0, 0, 0] : Req) (wCtx : Ctx))
    ∧ (((((wKp.put MDM_ACTIVE_ACTIVE 0x40).put (ACS_STAT_PHASE 1) 2)).atMode (wReq [6, 0, 0, 0] : Req) (wCtx : Ctx)).modes.owner.length = 12 ∧ ((((wKp.put MDM_ACTIVE_ACTIVE 0x40).put (ACS_STAT_PHASE 1) 2)).atMode (wReq [6, 0, 0, 0] : Req) (wCtx : Ctx)).modes.fed.length = 12)
    ∧ (payU (wReq [6, 0, 0, 0] : Req).pay 0 1 = (6 : Fin 12).val)
    ∧ ((6 : Fin 12).val = 6)
    ∧ (((((wKp.put MDM_ACTIVE_ACTIVE 0x40).put (ACS_STAT_PHASE 1) 2)).atMode (wReq [6, 0, 0, 0] : Req) (wCtx : Ctx)).anySeq = true)
    ∧ (((((wKp.put MDM_ACTIVE_ACTIVE 0x40).put (ACS_STAT_PHASE 1) 2)).atMode (wReq [6, 0, 0, 0] : Req) (wCtx : Ctx)).gateRefusal (6 : Fin 12).val true = none)
    ∧ (((((wKp.put MDM_ACTIVE_ACTIVE 0x40).put (ACS_STAT_PHASE 1) 2)).atMode (wReq [6, 0, 0, 0] : Req) (wCtx : Ctx)).heldBy (6 : Fin 12).val ((wReq [6, 0, 0, 0] : Req).ctx.val * 256 + (wCtx : Ctx).gen) = false)
    ∧ (((((wKp.put MDM_ACTIVE_ACTIVE 0x40).put (ACS_STAT_PHASE 1) 2)).atMode (wReq [6, 0, 0, 0] : Req) (wCtx : Ctx)).active 6 = true))
    ∧ (((((wKp.put MDM_ACTIVE_PENDING 0x8).setModes { Modes.idle with owner := Modes.idle.owner.set 3 (some 0x507), pend := [⟨3, [⟨0x507, 0, 9, none, 10, 0x0201, 2, 0⟩], 1, 5⟩] })).kcp.queues.length = 4)
    ∧ ((((wKp.put MDM_ACTIVE_PENDING 0x8).setModes { Modes.idle with owner := Modes.idle.owner.set 3 (some 0x507), pend := [⟨3, [⟨0x507, 0, 9, none, 10, 0x0201, 2, 0⟩], 1, 5⟩] })).Ready 0x0202 2 (wReq [3, 0, 0, 0] : Req) (wCtx : Ctx))
    ∧ (((((wKp.put MDM_ACTIVE_PENDING 0x8).setModes { Modes.idle with owner := Modes.idle.owner.set 3 (some 0x507), pend := [⟨3, [⟨0x507, 0, 9, none, 10, 0x0201, 2, 0⟩], 1, 5⟩] })).atMode (wReq [3, 0, 0, 0] : Req) (wCtx : Ctx)).modes.owner.length = 12 ∧ ((((wKp.put MDM_ACTIVE_PENDING 0x8).setModes { Modes.idle with owner := Modes.idle.owner.set 3 (some 0x507), pend := [⟨3, [⟨0x507, 0, 9, none, 10, 0x0201, 2, 0⟩], 1, 5⟩] })).atMode (wReq [3, 0, 0, 0] : Req) (wCtx : Ctx)).modes.fed.length = 12)
    ∧ (payU (wReq [3, 0, 0, 0] : Req).pay 0 1 = (3 : Fin 12).val)
    ∧ ((3 : Fin 12).val ≠ 11)
    ∧ (((((wKp.put MDM_ACTIVE_PENDING 0x8).setModes { Modes.idle with owner := Modes.idle.owner.set 3 (some 0x507), pend := [⟨3, [⟨0x507, 0, 9, none, 10, 0x0201, 2, 0⟩], 1, 5⟩] })).atMode (wReq [3, 0, 0, 0] : Req) (wCtx : Ctx)).gateRefusal (3 : Fin 12).val true = none)
    ∧ (((((wKp.put MDM_ACTIVE_PENDING 0x8).setModes { Modes.idle with owner := Modes.idle.owner.set 3 (some 0x507), pend := [⟨3, [⟨0x507, 0, 9, none, 10, 0x0201, 2, 0⟩], 1, 5⟩] })).atMode (wReq [3, 0, 0, 0] : Req) (wCtx : Ctx)).heldBy (3 : Fin 12).val ((wReq [3, 0, 0, 0] : Req).ctx.val * 256 + (wCtx : Ctx).gen) = false)
    ∧ (((((wKp.put MDM_ACTIVE_PENDING 0x8).setModes { Modes.idle with owner := Modes.idle.owner.set 3 (some 0x507), pend := [⟨3, [⟨0x507, 0, 9, none, 10, 0x0201, 2, 0⟩], 1, 5⟩] })).atMode (wReq [3, 0, 0, 0] : Req) (wCtx : Ctx)).active (3 : Fin 12).val = false)
    ∧ (((((wKp.put MDM_ACTIVE_PENDING 0x8).setModes { Modes.idle with owner := Modes.idle.owner.set 3 (some 0x507), pend := [⟨3, [⟨0x507, 0, 9, none, 10, 0x0201, 2, 0⟩], 1, 5⟩] })).atMode (wReq [3, 0, 0, 0] : Req) (wCtx : Ctx)).waiting (3 : Fin 12).val = true)
    ∧ (((((wKp.put MDM_ACTIVE_PENDING 0x8).setModes { Modes.idle with owner := Modes.idle.owner.set 3 (some 0x507), pend := [⟨3, [⟨0x507, 0, 9, none, 10, 0x0201, 2, 0⟩], 1, 5⟩] })).atMode (wReq [3, 0, 0, 0] : Req) (wCtx : Ctx)).pendOf (3 : Fin 12).val = some ⟨(3 : Fin 12).val, [(⟨0x507, 0, 9, none, 10, 0x0201, 2, 0⟩ : Tok)], (1 : Nat), (5 : Nat)⟩)
    ∧ ((⟨0x507, 0, 9, none, 10, 0x0201, 2, 0⟩ : Tok).handle = ((wReq [3, 0, 0, 0] : Req).ctx.val * 256 + (wCtx : Ctx).gen))
    ∧ ((⟨0x507, 0, 9, none, 10, 0x0201, 2, 0⟩ : Tok).tport = (wCtx : Ctx).tport)
    ∧ ((⟨0x507, 0, 9, none, 10, 0x0201, 2, 0⟩ : Tok).peer = (wCtx : Ctx).peer))
    ∧ (((((wKp.put MDM_ACTIVE_ACTIVE 0x800).put MDM_HOLD_CAUSE 3)).kcp.queues.length = 4)
    ∧ ((((wKp.put MDM_ACTIVE_ACTIVE 0x800).put MDM_HOLD_CAUSE 3)).Ready 0x0202 2 (wReq [11, 0, 0, 0] : Req) (wCtx : Ctx))
    ∧ (((((wKp.put MDM_ACTIVE_ACTIVE 0x800).put MDM_HOLD_CAUSE 3)).atMode (wReq [11, 0, 0, 0] : Req) (wCtx : Ctx)).modes.owner.length = 12 ∧ ((((wKp.put MDM_ACTIVE_ACTIVE 0x800).put MDM_HOLD_CAUSE 3)).atMode (wReq [11, 0, 0, 0] : Req) (wCtx : Ctx)).modes.fed.length = 12)
    ∧ (payU (wReq [11, 0, 0, 0] : Req).pay 0 1 = (11 : Fin 12).val)
    ∧ ((11 : Fin 12).val = 11)
    ∧ (((((wKp.put MDM_ACTIVE_ACTIVE 0x800).put MDM_HOLD_CAUSE 3)).atMode (wReq [11, 0, 0, 0] : Req) (wCtx : Ctx)).gateRefusal (11 : Fin 12).val true = none)
    ∧ (((((wKp.put MDM_ACTIVE_ACTIVE 0x800).put MDM_HOLD_CAUSE 3)).atMode (wReq [11, 0, 0, 0] : Req) (wCtx : Ctx)).heldBy (11 : Fin 12).val ((wReq [11, 0, 0, 0] : Req).ctx.val * 256 + (wCtx : Ctx).gen) = false)
    ∧ (((((wKp.put MDM_ACTIVE_ACTIVE 0x800).put MDM_HOLD_CAUSE 3)).atMode (wReq [11, 0, 0, 0] : Req) (wCtx : Ctx)).active 11 = true)
    ∧ (((((wKp.put MDM_ACTIVE_ACTIVE 0x800).put MDM_HOLD_CAUSE 3)).atMode (wReq [11, 0, 0, 0] : Req) (wCtx : Ctx)).get MDM_HOLD_CAUSE = 3))
    ∧ (((((wKp.put MDM_ACTIVE_ACTIVE 0x800).put MDM_HOLD_CAUSE 2)).kcp.queues.length = 4)
    ∧ ((((wKp.put MDM_ACTIVE_ACTIVE 0x800).put MDM_HOLD_CAUSE 2)).Ready 0x0202 2 (wReq [11, 0, 0, 0] : Req) (wCtx : Ctx))
    ∧ (((((wKp.put MDM_ACTIVE_ACTIVE 0x800).put MDM_HOLD_CAUSE 2)).atMode (wReq [11, 0, 0, 0] : Req) (wCtx : Ctx)).modes.owner.length = 12 ∧ ((((wKp.put MDM_ACTIVE_ACTIVE 0x800).put MDM_HOLD_CAUSE 2)).atMode (wReq [11, 0, 0, 0] : Req) (wCtx : Ctx)).modes.fed.length = 12)
    ∧ (payU (wReq [11, 0, 0, 0] : Req).pay 0 1 = (11 : Fin 12).val)
    ∧ ((11 : Fin 12).val = 11)
    ∧ (((((wKp.put MDM_ACTIVE_ACTIVE 0x800).put MDM_HOLD_CAUSE 2)).atMode (wReq [11, 0, 0, 0] : Req) (wCtx : Ctx)).gateRefusal (11 : Fin 12).val true = none)
    ∧ (((((wKp.put MDM_ACTIVE_ACTIVE 0x800).put MDM_HOLD_CAUSE 2)).atMode (wReq [11, 0, 0, 0] : Req) (wCtx : Ctx)).heldBy (11 : Fin 12).val ((wReq [11, 0, 0, 0] : Req).ctx.val * 256 + (wCtx : Ctx).gen) = false)
    ∧ (((((wKp.put MDM_ACTIVE_ACTIVE 0x800).put MDM_HOLD_CAUSE 2)).atMode (wReq [11, 0, 0, 0] : Req) (wCtx : Ctx)).active 11 = true)
    ∧ (((((wKp.put MDM_ACTIVE_ACTIVE 0x800).put MDM_HOLD_CAUSE 2)).atMode (wReq [11, 0, 0, 0] : Req) (wCtx : Ctx)).get MDM_HOLD_CAUSE ≠ 3))
    ∧ (((((wKp.setKcp { wKp.kcp with ctxs := [(5, wCtx), (6, wCtx)] }).put MDM_ACTIVE_ACTIVE 0x80).setModes { Modes.idle with owner := Modes.idle.owner.set 7 (some 0x607) }).kcp.queues.length = 4)
    ∧ ((((wKp.setKcp { wKp.kcp with ctxs := [(5, wCtx), (6, wCtx)] }).put MDM_ACTIVE_ACTIVE 0x80).setModes { Modes.idle with owner := Modes.idle.owner.set 7 (some 0x607) }).Ready 0x0202 2 (wReq [7, 0, 0, 0] : Req) (wCtx : Ctx))
    ∧ (((((wKp.setKcp { wKp.kcp with ctxs := [(5, wCtx), (6, wCtx)] }).put MDM_ACTIVE_ACTIVE 0x80).setModes { Modes.idle with owner := Modes.idle.owner.set 7 (some 0x607) }).atMode (wReq [7, 0, 0, 0] : Req) (wCtx : Ctx)).modes.owner.length = 12 ∧ ((((wKp.setKcp { wKp.kcp with ctxs := [(5, wCtx), (6, wCtx)] }).put MDM_ACTIVE_ACTIVE 0x80).setModes { Modes.idle with owner := Modes.idle.owner.set 7 (some 0x607) }).atMode (wReq [7, 0, 0, 0] : Req) (wCtx : Ctx)).modes.fed.length = 12)
    ∧ (payU (wReq [7, 0, 0, 0] : Req).pay 0 1 = (7 : Fin 12).val)
    ∧ (((((wKp.setKcp { wKp.kcp with ctxs := [(5, wCtx), (6, wCtx)] }).put MDM_ACTIVE_ACTIVE 0x80).setModes { Modes.idle with owner := Modes.idle.owner.set 7 (some 0x607) }).atMode (wReq [7, 0, 0, 0] : Req) (wCtx : Ctx)).gateRefusal (7 : Fin 12).val true = none)
    ∧ (((((wKp.setKcp { wKp.kcp with ctxs := [(5, wCtx), (6, wCtx)] }).put MDM_ACTIVE_ACTIVE 0x80).setModes { Modes.idle with owner := Modes.idle.owner.set 7 (some 0x607) }).atMode (wReq [7, 0, 0, 0] : Req) (wCtx : Ctx)).active (7 : Fin 12).val = true ∨ ((((wKp.setKcp { wKp.kcp with ctxs := [(5, wCtx), (6, wCtx)] }).put MDM_ACTIVE_ACTIVE 0x80).setModes { Modes.idle with owner := Modes.idle.owner.set 7 (some 0x607) }).atMode (wReq [7, 0, 0, 0] : Req) (wCtx : Ctx)).waiting (7 : Fin 12).val = true)
    ∧ (((((wKp.setKcp { wKp.kcp with ctxs := [(5, wCtx), (6, wCtx)] }).put MDM_ACTIVE_ACTIVE 0x80).setModes { Modes.idle with owner := Modes.idle.owner.set 7 (some 0x607) }).atMode (wReq [7, 0, 0, 0] : Req) (wCtx : Ctx)).heldBy (7 : Fin 12).val ((wReq [7, 0, 0, 0] : Req).ctx.val * 256 + (wCtx : Ctx).gen) = true)) := by
  and_intros <;> decide +kernel

theorem witness_mode_requests_enter_and_exit_instances_part5 :
    ((wWht.kcp.queues.length = 4)
    ∧ (wWht.Ready 0x0202 2 (wReq [0, 0, 0, 0] : Req) (wCtx : Ctx))
    ∧ ((wWht.atMode (wReq [0, 0, 0, 0] : Req) (wCtx : Ctx)).modes.owner.length = 12 ∧ (wWht.atMode (wReq [0, 0, 0, 0] : Req) (wCtx : Ctx)).modes.fed.length = 12)
    ∧ (payU (wReq [0, 0, 0, 0] : Req).pay 0 1 = (0 : Fin 12).val)
    ∧ ((wWht.atMode (wReq [0, 0, 0, 0] : Req) (wCtx : Ctx)).gateRefusal (0 : Fin 12).val true = none)
    ∧ ((wWht.atMode (wReq [0, 0, 0, 0] : Req) (wCtx : Ctx)).active (0 : Fin 12).val = false)
    ∧ ((wWht.atMode (wReq [0, 0, 0, 0] : Req) (wCtx : Ctx)).waiting (0 : Fin 12).val = false))
    ∧ ((((wKp.put MDM_ACTIVE_ACTIVE 0x400)).kcp.queues.length = 4)
    ∧ (((wKp.put MDM_ACTIVE_ACTIVE 0x400)).Ready 0x0202 2 (wReq [7, 0, 0, 0] : Req) (wCtx : Ctx))
    ∧ ((((wKp.put MDM_ACTIVE_ACTIVE 0x400)).atMode (wReq [7, 0, 0, 0] : Req) (wCtx : Ctx)).modes.owner.length = 12 ∧ (((wKp.put MDM_ACTIVE_ACTIVE 0x400)).atMode (wReq [7, 0, 0, 0] : Req) (wCtx : Ctx)).modes.fed.length = 12)
    ∧ (payU (wReq [7, 0, 0, 0] : Req).pay 0 1 = (7 : Fin 12).val)
    ∧ ((((wKp.put MDM_ACTIVE_ACTIVE 0x400)).atMode (wReq [7, 0, 0, 0] : Req) (wCtx : Ctx)).gateRefusal (7 : Fin 12).val true = some (stSafeState : Nat)))
    ∧ ((wWht.kcp.queues.length = 4)
    ∧ (wWht.Ready 0x0203 4 (wReq [1] : Req) (wCtx : Ctx))) := by
  and_intros <;> decide +kernel

theorem witness_instances_end_time_out_and_hold :
    ((({ (wWht.setModes { wWht.modes with ramp := 0x80 }) with clk := { ((wWht.setModes { wWht.modes with ramp := 0x80 })).clk with now := 1000000000 } }).modes.owner.length = 12 ∧ ({ (wWht.setModes { wWht.modes with ramp := 0x80 }) with clk := { ((wWht.setModes { wWht.modes with ramp := 0x80 })).clk with now := 1000000000 } }).modes.rampAt.length = 12)
    ∧ (({ (wWht.setModes { wWht.modes with ramp := 0x80 }) with clk := { ((wWht.setModes { wWht.modes with ramp := 0x80 })).clk with now := 1000000000 } }).modes.pend = [])
    ∧ (({ (wWht.setModes { wWht.modes with ramp := 0x80 }) with clk := { ((wWht.setModes { wWht.modes with ramp := 0x80 })).clk with now := 1000000000 } }).active (7 : Fin 12).val = true)
    ∧ (({ (wWht.setModes { wWht.modes with ramp := 0x80 }) with clk := { ((wWht.setModes { wWht.modes with ramp := 0x80 })).clk with now := 1000000000 } }).ramping (7 : Fin 12).val = true)
    ∧ (nth ({ (wWht.setModes { wWht.modes with ramp := 0x80 }) with clk := { ((wWht.setModes { wWht.modes with ramp := 0x80 })).clk with now := 1000000000 } }).modes.rampAt (7 : Fin 12).val 0 + ({ (wWht.setModes { wWht.modes with ramp := 0x80 }) with clk := { ((wWht.setModes { wWht.modes with ramp := 0x80 })).clk with now := 1000000000 } }).rampMax (7 : Fin 12).val ≤ ({ (wWht.setModes { wWht.modes with ramp := 0x80 }) with clk := { ((wWht.setModes { wWht.modes with ramp := 0x80 })).clk with now := 1000000000 } }).now))
    ∧ (((((wKp.put MDM_ACTIVE_ACTIVE 1).setModes { (wKp.put MDM_ACTIVE_ACTIVE 1).modes with ramp := 1 })).modes.owner.length = 12 ∧ (((wKp.put MDM_ACTIVE_ACTIVE 1).setModes { (wKp.put MDM_ACTIVE_ACTIVE 1).modes with ramp := 1 })).modes.rampAt.length = 12)
    ∧ ((((wKp.put MDM_ACTIVE_ACTIVE 1).setModes { (wKp.put MDM_ACTIVE_ACTIVE 1).modes with ramp := 1 })).modes.pend = [])
    ∧ ((((wKp.put MDM_ACTIVE_ACTIVE 1).setModes { (wKp.put MDM_ACTIVE_ACTIVE 1).modes with ramp := 1 })).active (0 : Fin 12).val = true)
    ∧ ((((wKp.put MDM_ACTIVE_ACTIVE 1).setModes { (wKp.put MDM_ACTIVE_ACTIVE 1).modes with ramp := 1 })).ramping (0 : Fin 12).val = true)
    ∧ (¬(nth (((wKp.put MDM_ACTIVE_ACTIVE 1).setModes { (wKp.put MDM_ACTIVE_ACTIVE 1).modes with ramp := 1 })).modes.rampAt (0 : Fin 12).val 0 + (((wKp.put MDM_ACTIVE_ACTIVE 1).setModes { (wKp.put MDM_ACTIVE_ACTIVE 1).modes with ramp := 1 })).rampMax (0 : Fin 12).val ≤ (((wKp.put MDM_ACTIVE_ACTIVE 1).setModes { (wKp.put MDM_ACTIVE_ACTIVE 1).modes with ramp := 1 })).now))
    ∧ ((0 : Fin 12).val = 0 ∨ (0 : Fin 12).val = 1 ∨ (((0 : Fin 12).val = 7 ∨ (0 : Fin 12).val = 8) ∧ bitOf (0 : Fin 12).val (((wKp.put MDM_ACTIVE_ACTIVE 1).setModes { (wKp.put MDM_ACTIVE_ACTIVE 1).modes with ramp := 1 })).modes.sst = true)))
    ∧ ((wWht.active (7 : Fin 12).val = false ∨ wWht.ramping (7 : Fin 12).val = false ∨ (¬(nth wWht.modes.rampAt (7 : Fin 12).val 0 + wWht.rampMax (7 : Fin 12).val ≤ wWht.now) ∧ ¬((7 : Fin 12).val = 0 ∨ (7 : Fin 12).val = 1 ∨ (((7 : Fin 12).val = 7 ∨ (7 : Fin 12).val = 8) ∧ bitOf (7 : Fin 12).val wWht.modes.sst = true)))))
    ∧ ((((((wKp.put HSM_STATUS_EN 0xF).put MDM_PLUG_PLUG 1).put MDM_ACTIVE_PENDING 0x8).setModes { Modes.idle with pend := [⟨3, [⟨0x507, 0, 9, none, 11, 0x0201, 2, 0⟩], 1, 5⟩] }).modes.owner.length = 12 ∧ ((((wKp.put HSM_STATUS_EN 0xF).put MDM_PLUG_PLUG 1).put MDM_ACTIVE_PENDING 0x8).setModes { Modes.idle with pend := [⟨3, [⟨0x507, 0, 9, none, 11, 0x0201, 2, 0⟩], 1, 5⟩] }).modes.fed.length = 12)
    ∧ (((((wKp.put HSM_STATUS_EN 0xF).put MDM_PLUG_PLUG 1).put MDM_ACTIVE_PENDING 0x8).setModes { Modes.idle with pend := [⟨3, [⟨0x507, 0, 9, none, 11, 0x0201, 2, 0⟩], 1, 5⟩] }).pendOf (3 : Fin 12).val = some ⟨(3 : Fin 12).val, [(⟨0x507, 0, 9, none, 11, 0x0201, 2, 0⟩ : Tok)], 1, (5 : Nat)⟩)
    ∧ (((((wKp.put HSM_STATUS_EN 0xF).put MDM_PLUG_PLUG 1).put MDM_ACTIVE_PENDING 0x8).setModes { Modes.idle with pend := [⟨3, [⟨0x507, 0, 9, none, 11, 0x0201, 2, 0⟩], 1, 5⟩] }).entryRefusal (3 : Fin 12).val = none ∨ (3 : Fin 12).val = 9)
    ∧ (((((wKp.put HSM_STATUS_EN 0xF).put MDM_PLUG_PLUG 1).put MDM_ACTIVE_PENDING 0x8).setModes { Modes.idle with pend := [⟨3, [⟨0x507, 0, 9, none, 11, 0x0201, 2, 0⟩], 1, 5⟩] }).session (⟨0x507, 0, 9, none, 11, 0x0201, 2, 0⟩ : Tok).handle = some (wCtx : Ctx))
    ∧ ((wCtx : Ctx).tport = (⟨0x507, 0, 9, none, 11, 0x0201, 2, 0⟩ : Tok).tport)
    ∧ ((wCtx : Ctx).peer = (⟨0x507, 0, 9, none, 11, 0x0201, 2, 0⟩ : Tok).peer))
    ∧ ((((((wKp.put HSM_STATUS_EN 0xF).put MDM_PLUG_PLUG 1).put MDM_ACTIVE_PENDING 0x8).setModes { Modes.idle with pend := [⟨3, [⟨0x507, 0, 9, none, 11, 0x0201, 2, 0⟩], 1, 5⟩] } |>.put MDM_PLUG_PLUG 0).modes.owner.length = 12 ∧ ((((wKp.put HSM_STATUS_EN 0xF).put MDM_PLUG_PLUG 1).put MDM_ACTIVE_PENDING 0x8).setModes { Modes.idle with pend := [⟨3, [⟨0x507, 0, 9, none, 11, 0x0201, 2, 0⟩], 1, 5⟩] } |>.put MDM_PLUG_PLUG 0).modes.fed.length = 12)
    ∧ (((((wKp.put HSM_STATUS_EN 0xF).put MDM_PLUG_PLUG 1).put MDM_ACTIVE_PENDING 0x8).setModes { Modes.idle with pend := [⟨3, [⟨0x507, 0, 9, none, 11, 0x0201, 2, 0⟩], 1, 5⟩] } |>.put MDM_PLUG_PLUG 0).pendOf (3 : Fin 12).val = some ⟨(3 : Fin 12).val, [(⟨0x507, 0, 9, none, 11, 0x0201, 2, 0⟩ : Tok)], 1, (5 : Nat)⟩)
    ∧ ((((((wKp.put HSM_STATUS_EN 0xF).put MDM_PLUG_PLUG 1).put MDM_ACTIVE_PENDING 0x8).setModes { Modes.idle with pend := [⟨3, [⟨0x507, 0, 9, none, 11, 0x0201, 2, 0⟩], 1, 5⟩] } |>.put MDM_PLUG_PLUG 0).entryRefusal (3 : Fin 12).val).isSome = true)
    ∧ ((3 : Fin 12).val ≠ 9)
    ∧ (((((wKp.put HSM_STATUS_EN 0xF).put MDM_PLUG_PLUG 1).put MDM_ACTIVE_PENDING 0x8).setModes { Modes.idle with pend := [⟨3, [⟨0x507, 0, 9, none, 11, 0x0201, 2, 0⟩], 1, 5⟩] } |>.put MDM_PLUG_PLUG 0).session (⟨0x507, 0, 9, none, 11, 0x0201, 2, 0⟩ : Tok).handle = some (wCtx : Ctx))
    ∧ ((wCtx : Ctx).tport = (⟨0x507, 0, 9, none, 11, 0x0201, 2, 0⟩ : Tok).tport)
    ∧ ((wCtx : Ctx).peer = (⟨0x507, 0, 9, none, 11, 0x0201, 2, 0⟩ : Tok).peer))
    ∧ ((wWht.waitsStage (3 : Fin 12).val = none)) := by
  and_intros <;> decide +kernel

theorem witness_instances_end_time_out_and_hold_part2 :
    ((({ ((((wKp.put HSM_STATUS_EN 0xF).put MDM_PLUG_PLUG 1).put MDM_ACTIVE_PENDING 0x8).setModes { Modes.idle with pend := [⟨3, [⟨0x507, 0, 9, none, 11, 0x0201, 2, 0⟩], 1, 5⟩] }) with clk := { (((((wKp.put HSM_STATUS_EN 0xF).put MDM_PLUG_PLUG 1).put MDM_ACTIVE_PENDING 0x8).setModes { Modes.idle with pend := [⟨3, [⟨0x507, 0, 9, none, 11, 0x0201, 2, 0⟩], 1, 5⟩] })).clk with now := 9000000 } }).modes.owner.length = 12 ∧ ({ ((((wKp.put HSM_STATUS_EN 0xF).put MDM_PLUG_PLUG 1).put MDM_ACTIVE_PENDING 0x8).setModes { Modes.idle with pend := [⟨3, [⟨0x507, 0, 9, none, 11, 0x0201, 2, 0⟩], 1, 5⟩] }) with clk := { (((((wKp.put HSM_STATUS_EN 0xF).put MDM_PLUG_PLUG 1).put MDM_ACTIVE_PENDING 0x8).setModes { Modes.idle with pend := [⟨3, [⟨0x507, 0, 9, none, 11, 0x0201, 2, 0⟩], 1, 5⟩] })).clk with now := 9000000 } }).modes.fed.length = 12)
    ∧ (2 ≤ (3 : Fin 12).val ∧ (3 : Fin 12).val ≤ 5)
    ∧ (({ ((((wKp.put HSM_STATUS_EN 0xF).put MDM_PLUG_PLUG 1).put MDM_ACTIVE_PENDING 0x8).setModes { Modes.idle with pend := [⟨3, [⟨0x507, 0, 9, none, 11, 0x0201, 2, 0⟩], 1, 5⟩] }) with clk := { (((((wKp.put HSM_STATUS_EN 0xF).put MDM_PLUG_PLUG 1).put MDM_ACTIVE_PENDING 0x8).setModes { Modes.idle with pend := [⟨3, [⟨0x507, 0, 9, none, 11, 0x0201, 2, 0⟩], 1, 5⟩] })).clk with now := 9000000 } }).pendOf (3 : Fin 12).val = some ⟨(3 : Fin 12).val, [(⟨0x507, 0, 9, none, 11, 0x0201, 2, 0⟩ : Tok)], (1 : Nat), (5 : Nat)⟩)
    ∧ (({ ((((wKp.put HSM_STATUS_EN 0xF).put MDM_PLUG_PLUG 1).put MDM_ACTIVE_PENDING 0x8).setModes { Modes.idle with pend := [⟨3, [⟨0x507, 0, 9, none, 11, 0x0201, 2, 0⟩], 1, 5⟩] }) with clk := { (((((wKp.put HSM_STATUS_EN 0xF).put MDM_PLUG_PLUG 1).put MDM_ACTIVE_PENDING 0x8).setModes { Modes.idle with pend := [⟨3, [⟨0x507, 0, 9, none, 11, 0x0201, 2, 0⟩], 1, 5⟩] })).clk with now := 9000000 } }).elapsedMs (5 : Nat) 20 = true)
    ∧ (({ ((((wKp.put HSM_STATUS_EN 0xF).put MDM_PLUG_PLUG 1).put MDM_ACTIVE_PENDING 0x8).setModes { Modes.idle with pend := [⟨3, [⟨0x507, 0, 9, none, 11, 0x0201, 2, 0⟩], 1, 5⟩] }) with clk := { (((((wKp.put HSM_STATUS_EN 0xF).put MDM_PLUG_PLUG 1).put MDM_ACTIVE_PENDING 0x8).setModes { Modes.idle with pend := [⟨3, [⟨0x507, 0, 9, none, 11, 0x0201, 2, 0⟩], 1, 5⟩] })).clk with now := 9000000 } }).session (⟨0x507, 0, 9, none, 11, 0x0201, 2, 0⟩ : Tok).handle = some (wCtx : Ctx))
    ∧ ((wCtx : Ctx).tport = (⟨0x507, 0, 9, none, 11, 0x0201, 2, 0⟩ : Tok).tport)
    ∧ ((wCtx : Ctx).peer = (⟨0x507, 0, 9, none, 11, 0x0201, 2, 0⟩ : Tok).peer))
    ∧ (((3 : Fin 12).val < 2 ∨ 5 < (3 : Fin 12).val ∨ (wWht.pendOf (3 : Fin 12).val).all (fun (p : PendReq) => !wWht.elapsedMs p.since 20) = true))
    ∧ ((((wKp.put (LGE_STAT_HOLD 1) 1)).get (LGE_STAT_HOLD (1 : Fin 2).val) ≠ 0)
    ∧ (((wKp.put (LGE_STAT_HOLD 1) 1)).holdSpeed (1 : Fin 2).val = false))
    ∧ ((wKp.get (LGE_STAT_HOLD (1 : Fin 2).val) = 0 ∨ wKp.holdSpeed (1 : Fin 2).val = true))
    ∧ (((wKp.put MDM_ACTIVE_ACTIVE 0x800).ticking = true)
    ∧ ((wKp.put MDM_ACTIVE_ACTIVE 0x800).active 11 = true)
    ∧ ((wKp.put MDM_ACTIVE_ACTIVE 0x800).osdBusy = false)
    ∧ ((wKp.put MDM_ACTIVE_ACTIVE 0x800).modes.ramp = 0)
    ∧ ((wKp.put MDM_ACTIVE_ACTIVE 0x800).anySeq = false)
    ∧ ((wKp.put MDM_ACTIVE_ACTIVE 0x800).get (LGE_STAT_HOLD 0) = 0)
    ∧ ((wKp.put MDM_ACTIVE_ACTIVE 0x800).get (LGE_STAT_HOLD 1) = 0))
    ∧ ((wKp.ticking = false ∨ wKp.active 11 = false ∨ wKp.osdBusy = true ∨ wKp.modes.ramp ≠ 0 ∨ wKp.anySeq = true ∨ wKp.get (LGE_STAT_HOLD 0) ≠ 0 ∨ wKp.get (LGE_STAT_HOLD 1) ≠ 0)) := by
  and_intros <;> decide +kernel

theorem witness_instances_end_time_out_and_hold_part3 :
    ((({ wWht with clk := { (wWht).clk with now := 100000000 } }).modes.owner.length = 12 ∧ ({ wWht with clk := { (wWht).clk with now := 100000000 } }).modes.fed.length = 12)
    ∧ ((7 : Fin 12).val ∈ leased)
    ∧ (({ wWht with clk := { (wWht).clk with now := 100000000 } }).active (7 : Fin 12).val = true)
    ∧ (({ wWht with clk := { (wWht).clk with now := 100000000 } }).ramping (7 : Fin 12).val = false)
    ∧ (({ wWht with clk := { (wWht).clk with now := 100000000 } }).elapsedMs (nth ({ wWht with clk := { (wWht).clk with now := 100000000 } }).modes.fed (7 : Fin 12).val 0) (({ wWht with clk := { (wWht).clk with now := 100000000 } }).par 0x0010) = true))
    ∧ (((7 : Fin 12).val ∉ leased ∨ wKp.active (7 : Fin 12).val = false ∨ wKp.ramping (7 : Fin 12).val = true ∨ wKp.elapsedMs (nth wKp.modes.fed (7 : Fin 12).val 0) (wKp.par 0x0010) = false))
    ∧ ((({ ((wKp.put MDM_ACTIVE_ACTIVE 0x20).setModes { Modes.idle with dcdLow := some 5 }) with clk := { (((wKp.put MDM_ACTIVE_ACTIVE 0x20).setModes { Modes.idle with dcdLow := some 5 })).clk with now := 100000000 } }).modes.owner.length = 12 ∧ ({ ((wKp.put MDM_ACTIVE_ACTIVE 0x20).setModes { Modes.idle with dcdLow := some 5 }) with clk := { (((wKp.put MDM_ACTIVE_ACTIVE 0x20).setModes { Modes.idle with dcdLow := some 5 })).clk with now := 100000000 } }).modes.fed.length = 12)
    ∧ (({ ((wKp.put MDM_ACTIVE_ACTIVE 0x20).setModes { Modes.idle with dcdLow := some 5 }) with clk := { (((wKp.put MDM_ACTIVE_ACTIVE 0x20).setModes { Modes.idle with dcdLow := some 5 })).clk with now := 100000000 } }).modes.dcdLow = some (5 : Nat))
    ∧ (({ ((wKp.put MDM_ACTIVE_ACTIVE 0x20).setModes { Modes.idle with dcdLow := some 5 }) with clk := { (((wKp.put MDM_ACTIVE_ACTIVE 0x20).setModes { Modes.idle with dcdLow := some 5 })).clk with now := 100000000 } }).active 5 = true)
    ∧ (({ ((wKp.put MDM_ACTIVE_ACTIVE 0x20).setModes { Modes.idle with dcdLow := some 5 }) with clk := { (((wKp.put MDM_ACTIVE_ACTIVE 0x20).setModes { Modes.idle with dcdLow := some 5 })).clk with now := 100000000 } }).ramping 5 = false)
    ∧ (({ ((wKp.put MDM_ACTIVE_ACTIVE 0x20).setModes { Modes.idle with dcdLow := some 5 }) with clk := { (((wKp.put MDM_ACTIVE_ACTIVE 0x20).setModes { Modes.idle with dcdLow := some 5 })).clk with now := 100000000 } }).linkUp = false)
    ∧ (({ ((wKp.put MDM_ACTIVE_ACTIVE 0x20).setModes { Modes.idle with dcdLow := some 5 }) with clk := { (((wKp.put MDM_ACTIVE_ACTIVE 0x20).setModes { Modes.idle with dcdLow := some 5 })).clk with now := 100000000 } }).elapsedMs (5 : Nat) 10 = true))
    ∧ ((wKp.modes.dcdLow.all (fun u => !wKp.elapsedMs u 10) = true ∨ wKp.active 5 = false ∨ wKp.ramping 5 = true ∨ wKp.linkUp = true))
    ∧ ((({ (wKp.put MDM_ACTIVE_ACTIVE 0x200) with clk := { ((wKp.put MDM_ACTIVE_ACTIVE 0x200)).clk with now := 100000000000 } }).get MDM_ACTIVE_ACTIVE = 0x200)
    ∧ (({ (wKp.put MDM_ACTIVE_ACTIVE 0x200) with clk := { ((wKp.put MDM_ACTIVE_ACTIVE 0x200)).clk with now := 100000000000 } }).get MDM_ACTIVE_PENDING = 0)
    ∧ (({ (wKp.put MDM_ACTIVE_ACTIVE 0x200) with clk := { ((wKp.put MDM_ACTIVE_ACTIVE 0x200)).clk with now := 100000000000 } }).start.kp = true)
    ∧ (({ (wKp.put MDM_ACTIVE_ACTIVE 0x200) with clk := { ((wKp.put MDM_ACTIVE_ACTIVE 0x200)).clk with now := 100000000000 } }).elapsedMs ({ (wKp.put MDM_ACTIVE_ACTIVE 0x200) with clk := { ((wKp.put MDM_ACTIVE_ACTIVE 0x200)).clk with now := 100000000000 } }).modes.dwell (1000 * ({ (wKp.put MDM_ACTIVE_ACTIVE 0x200) with clk := { ((wKp.put MDM_ACTIVE_ACTIVE 0x200)).clk with now := 100000000000 } }).par 0x0014) = true)
    ∧ (({ (wKp.put MDM_ACTIVE_ACTIVE 0x200) with clk := { ((wKp.put MDM_ACTIVE_ACTIVE 0x200)).clk with now := 100000000000 } }).is SUP_STAT_SRC = false))
    ∧ ((({ ((wKp.put MDM_ACTIVE_ACTIVE 0x200).put SUP_STAT_SRC 1) with clk := { (((wKp.put MDM_ACTIVE_ACTIVE 0x200).put SUP_STAT_SRC 1)).clk with now := 100000000000 } }).get MDM_ACTIVE_ACTIVE = 0x200)
    ∧ (({ ((wKp.put MDM_ACTIVE_ACTIVE 0x200).put SUP_STAT_SRC 1) with clk := { (((wKp.put MDM_ACTIVE_ACTIVE 0x200).put SUP_STAT_SRC 1)).clk with now := 100000000000 } }).get MDM_ACTIVE_PENDING = 0)
    ∧ (({ ((wKp.put MDM_ACTIVE_ACTIVE 0x200).put SUP_STAT_SRC 1) with clk := { (((wKp.put MDM_ACTIVE_ACTIVE 0x200).put SUP_STAT_SRC 1)).clk with now := 100000000000 } }).start.kp = true)
    ∧ (({ ((wKp.put MDM_ACTIVE_ACTIVE 0x200).put SUP_STAT_SRC 1) with clk := { (((wKp.put MDM_ACTIVE_ACTIVE 0x200).put SUP_STAT_SRC 1)).clk with now := 100000000000 } }).elapsedMs ({ ((wKp.put MDM_ACTIVE_ACTIVE 0x200).put SUP_STAT_SRC 1) with clk := { (((wKp.put MDM_ACTIVE_ACTIVE 0x200).put SUP_STAT_SRC 1)).clk with now := 100000000000 } }).modes.dwell (1000 * ({ ((wKp.put MDM_ACTIVE_ACTIVE 0x200).put SUP_STAT_SRC 1) with clk := { (((wKp.put MDM_ACTIVE_ACTIVE 0x200).put SUP_STAT_SRC 1)).clk with now := 100000000000 } }).par 0x0014) = true)
    ∧ (({ ((wKp.put MDM_ACTIVE_ACTIVE 0x200).put SUP_STAT_SRC 1) with clk := { (((wKp.put MDM_ACTIVE_ACTIVE 0x200).put SUP_STAT_SRC 1)).clk with now := 100000000000 } }).is SUP_STAT_SRC = true)) := by
  and_intros <;> decide +kernel

theorem witness_instances_end_time_out_and_hold_part4 :
    ((wKp.get MDM_ACTIVE_ACTIVE ≠ 0x200 ∨ wKp.get MDM_ACTIVE_PENDING ≠ 0 ∨ wKp.start.kp = false ∨ wKp.elapsedMs wKp.modes.dwell (1000 * wKp.par 0x0014) = false)) := by
  and_intros <;> decide +kernel

theorem witness_plug_state_is_debounced :
    ((((wKp.setSup { wKp.sup with plug := true })).sup.plug ≠ (false : Bool))
    ∧ (((wKp.setSup { wKp.sup with plug := true })).start.kp = true))
    ∧ ((wOn.sup.plug ≠ (!wOn.sup.plug : Bool))
    ∧ (wOn.start.kp = false))
    ∧ ((((wKp.setSup { wKp.sup with plug := true })).sup.plug = (true : Bool)))
    ∧ ((({ (wKp.setSup { wKp.sup with plugged := !wKp.plugLevel }) with marten := 10000 }).plugLevel ≠ ({ (wKp.setSup { wKp.sup with plugged := !wKp.plugLevel }) with marten := 10000 }).sup.plugged)
    ∧ (({ (wKp.setSup { wKp.sup with plugged := !wKp.plugLevel }) with marten := 10000 }).sup.plugAt + 32 * max 1 (bitsOf 15 8 ({ (wKp.setSup { wKp.sup with plugged := !wKp.plugLevel }) with marten := 10000 }).plugWord) ≤ ({ (wKp.setSup { wKp.sup with plugged := !wKp.plugLevel }) with marten := 10000 }).marten)
    ∧ (({ (wKp.setSup { wKp.sup with plugged := !wKp.plugLevel }) with marten := 10000 }).start.kp = true))
    ∧ ((({ (wOn.setSup { wOn.sup with plugged := !wOn.plugLevel }) with marten := 10000 }).plugLevel ≠ ({ (wOn.setSup { wOn.sup with plugged := !wOn.plugLevel }) with marten := 10000 }).sup.plugged)
    ∧ (({ (wOn.setSup { wOn.sup with plugged := !wOn.plugLevel }) with marten := 10000 }).sup.plugAt + 32 * max 1 (bitsOf 15 8 ({ (wOn.setSup { wOn.sup with plugged := !wOn.plugLevel }) with marten := 10000 }).plugWord) ≤ ({ (wOn.setSup { wOn.sup with plugged := !wOn.plugLevel }) with marten := 10000 }).marten)
    ∧ (({ (wOn.setSup { wOn.sup with plugged := !wOn.plugLevel }) with marten := 10000 }).start.kp = false))
    ∧ ((wKp.plugLevel = wKp.sup.plugged ∨ wKp.marten < wKp.sup.plugAt + 32 * max 1 (bitsOf 15 8 wKp.plugWord))) := by
  and_intros <;> decide +kernel

theorem witness_plug_state_is_debounced_part2 :
    ((wWht.Reaches (Initiator.kp : Initiator) (policyReg (1 : Fin 3).val).addr)
    ∧ (wWht.policyBusy = true))
    ∧ ((wKp.Reaches (Initiator.kp : Initiator) MDM_PLUGPOL.addr)
    ∧ (wKp.policyBusy = false)
    ∧ (wKp.is MDM_LOCK_POL_LOCK = false))
    ∧ ((wKp.Reaches (Initiator.kp : Initiator) MDM_PAIRDENY.addr)
    ∧ (wKp.policyBusy = false)
    ∧ (wKp.is MDM_LOCK_POL_LOCK = false))
    ∧ ((wKp.Reaches (Initiator.kp : Initiator) MDM_PLUG.addr)
    ∧ (wKp.start.kp = true)
    ∧ (wKp.policyBusy = false)
    ∧ (wKp.is MDM_LOCK_POL_LOCK = false))
    ∧ (((wKp.put MDM_LOCK_POL_LOCK 1).Reaches (Initiator.kp : Initiator) (policyReg (0 : Fin 3).val).addr)
    ∧ ((wKp.put MDM_LOCK_POL_LOCK 1).is MDM_LOCK_POL_LOCK = true)
    ∧ ((wKp.put MDM_LOCK_POL_LOCK 1).policyBusy = false))
    ∧ ((({ (wKp.put MDM_ACTIVE_ACTIVE 0x1C).setSup { wKp.sup with plug := !(wKp.plugLevel == wKp.sup.plug), plugged := true } with marten := 10000 }).plugLevel ≠ ({ (wKp.put MDM_ACTIVE_ACTIVE 0x1C).setSup { wKp.sup with plug := !(wKp.plugLevel == wKp.sup.plug), plugged := true } with marten := 10000 }).sup.plugged)
    ∧ (({ (wKp.put MDM_ACTIVE_ACTIVE 0x1C).setSup { wKp.sup with plug := !(wKp.plugLevel == wKp.sup.plug), plugged := true } with marten := 10000 }).sup.plugAt + 32 * max 1 (bitsOf 15 8 ({ (wKp.put MDM_ACTIVE_ACTIVE 0x1C).setSup { wKp.sup with plug := !(wKp.plugLevel == wKp.sup.plug), plugged := true } with marten := 10000 }).plugWord) ≤ ({ (wKp.put MDM_ACTIVE_ACTIVE 0x1C).setSup { wKp.sup with plug := !(wKp.plugLevel == wKp.sup.plug), plugged := true } with marten := 10000 }).marten)
    ∧ (({ (wKp.put MDM_ACTIVE_ACTIVE 0x1C).setSup { wKp.sup with plug := !(wKp.plugLevel == wKp.sup.plug), plugged := true } with marten := 10000 }).modes.owner.length = 12 ∧ ({ (wKp.put MDM_ACTIVE_ACTIVE 0x1C).setSup { wKp.sup with plug := !(wKp.plugLevel == wKp.sup.plug), plugged := true } with marten := 10000 }).modes.fed.length = 12)
    ∧ (({ (wKp.put MDM_ACTIVE_ACTIVE 0x1C).setSup { wKp.sup with plug := !(wKp.plugLevel == wKp.sup.plug), plugged := true } with marten := 10000 }).start.kp = true)
    ∧ (({ (wKp.put MDM_ACTIVE_ACTIVE 0x1C).setSup { wKp.sup with plug := !(wKp.plugLevel == wKp.sup.plug), plugged := true } with marten := 10000 }).sup.plugged = true)) := by
  and_intros <;> decide +kernel

theorem witness_plug_state_is_debounced_part3 :
    ((({ ((wKp.put MDM_ACTIVE_ACTIVE 0xA1).wr MDM_PLUGPOL 0x22).setSup { wKp.sup with plug := (wKp.plugLevel == wKp.sup.plug), plugged := false } with marten := 10000 }).plugLevel ≠ ({ ((wKp.put MDM_ACTIVE_ACTIVE 0xA1).wr MDM_PLUGPOL 0x22).setSup { wKp.sup with plug := (wKp.plugLevel == wKp.sup.plug), plugged := false } with marten := 10000 }).sup.plugged)
    ∧ (({ ((wKp.put MDM_ACTIVE_ACTIVE 0xA1).wr MDM_PLUGPOL 0x22).setSup { wKp.sup with plug := (wKp.plugLevel == wKp.sup.plug), plugged := false } with marten := 10000 }).sup.plugAt + 32 * max 1 (bitsOf 15 8 ({ ((wKp.put MDM_ACTIVE_ACTIVE 0xA1).wr MDM_PLUGPOL 0x22).setSup { wKp.sup with plug := (wKp.plugLevel == wKp.sup.plug), plugged := false } with marten := 10000 }).plugWord) ≤ ({ ((wKp.put MDM_ACTIVE_ACTIVE 0xA1).wr MDM_PLUGPOL 0x22).setSup { wKp.sup with plug := (wKp.plugLevel == wKp.sup.plug), plugged := false } with marten := 10000 }).marten)
    ∧ (({ ((wKp.put MDM_ACTIVE_ACTIVE 0xA1).wr MDM_PLUGPOL 0x22).setSup { wKp.sup with plug := (wKp.plugLevel == wKp.sup.plug), plugged := false } with marten := 10000 }).modes.owner.length = 12 ∧ ({ ((wKp.put MDM_ACTIVE_ACTIVE 0xA1).wr MDM_PLUGPOL 0x22).setSup { wKp.sup with plug := (wKp.plugLevel == wKp.sup.plug), plugged := false } with marten := 10000 }).modes.fed.length = 12)
    ∧ (({ ((wKp.put MDM_ACTIVE_ACTIVE 0xA1).wr MDM_PLUGPOL 0x22).setSup { wKp.sup with plug := (wKp.plugLevel == wKp.sup.plug), plugged := false } with marten := 10000 }).start.kp = true)
    ∧ (({ ((wKp.put MDM_ACTIVE_ACTIVE 0xA1).wr MDM_PLUGPOL 0x22).setSup { wKp.sup with plug := (wKp.plugLevel == wKp.sup.plug), plugged := false } with marten := 10000 }).sup.plugged = false)) := by
  and_intros <;> decide +kernel

theorem witness_requests_are_admitted_in_order :
    ((requestOf (.modeStatus (wReq [0]) : Instr) = some ((0x0203 : Nat), (4 : Nat), (wReq [0] : Req)))
    ∧ (wOn.kpRuns = false))
    ∧ ((requestOf (.modeStatus (wReq [0]) : Instr) = some ((0x0203 : Nat), (4 : Nat), (wReq [0] : Req)))
    ∧ (({ wKp with cyc := 10 ^ 9 }).kpRuns = true)
    ∧ (({ wKp with cyc := 10 ^ 9 }).leaseDue (wReq [0] : Req).ctx.val = true))
    ∧ ((requestOf (.modeStatus (⟨6, 11, [0]⟩) : Instr) = some ((0x0203 : Nat), (4 : Nat), (⟨6, 11, [0]⟩ : Req)))
    ∧ ((wKp.ctxOf (⟨6, 11, [0]⟩ : Req).ctx.val).all (fun (y : Ctx) => !y.live) = true))
    ∧ ((requestOf (.customerOpcode 1 6 (wReq [0]) : Instr) = some ((0xF001 : Nat), (6 : Nat), (wReq [0] : Req)))
    ∧ (wKp.Live (wReq [0] : Req) (wCtx : Ctx))
    ∧ (6 ≤ (6 : Nat)))
    ∧ ((requestOf (.modeStatus (wReq [0]) : Instr) = some ((0x0203 : Nat), (4 : Nat), (wReq [0] : Req)))
    ∧ ((wKp.setKcp { wKp.kcp with ctxs := [(5, { wCtx with classes := 1 })] }).Live (wReq [0] : Req) ({ wCtx with classes := 1 } : Ctx))
    ∧ ((4 : Nat) < 6)
    ∧ (bitOf (4 : Nat) ({ wCtx with classes := 1 } : Ctx).classes = false ∨ (opKeyed (0x0203 : Nat) = true ∧ ({ wCtx with classes := 1 } : Ctx).slot = 0xF)))
    ∧ ((requestOf (.modeStatus (⟨5, 10, [0]⟩) : Instr) = some ((0x0203 : Nat), (4 : Nat), (⟨5, 10, [0]⟩ : Req)))
    ∧ (wKp.Live (⟨5, 10, [0]⟩ : Req) (wCtx : Ctx))
    ∧ ((4 : Nat) < 6)
    ∧ (bitOf (4 : Nat) (wCtx : Ctx).classes = true)
    ∧ (opKeyed (0x0203 : Nat) = true → (wCtx : Ctx).slot ≠ 0xF)
    ∧ (seqDist (wCtx : Ctx).h (⟨5, 10, [0]⟩ : Req).seq.toNat = 0 ∨ 65473 ≤ seqDist (wCtx : Ctx).h (⟨5, 10, [0]⟩ : Req).seq.toNat)
    ∧ (lookupKey (⟨5, 10, [0]⟩ : Req).seq.toNat (wCtx : Ctx).seen = some (0 : Nat))) := by
  and_intros <;> decide +kernel

theorem witness_requests_are_admitted_in_order_part2 :
    ((requestOf (.modeStatus (⟨5, 40000, [0]⟩) : Instr) = some ((0x0203 : Nat), (4 : Nat), (⟨5, 40000, [0]⟩ : Req)))
    ∧ (wKp.Live (⟨5, 40000, [0]⟩ : Req) (wCtx : Ctx))
    ∧ ((4 : Nat) < 6)
    ∧ (bitOf (4 : Nat) (wCtx : Ctx).classes = true)
    ∧ (opKeyed (0x0203 : Nat) = true → (wCtx : Ctx).slot ≠ 0xF)
    ∧ (32768 ≤ seqDist (wCtx : Ctx).h (⟨5, 40000, [0]⟩ : Req).seq.toNat)
    ∧ (seqDist (wCtx : Ctx).h (⟨5, 40000, [0]⟩ : Req).seq.toNat < 65473))
    ∧ ((requestOf (.osdResult (wReq []) : Instr) = some ((0x0502 : Nat), (4 : Nat), (wReq [] : Req)))
    ∧ ((wKp.put SYSC_BOOT_RECOV 1).Live (wReq [] : Req) (wCtx : Ctx))
    ∧ ((4 : Nat) < 6)
    ∧ (bitOf (4 : Nat) (wCtx : Ctx).classes = true)
    ∧ (opKeyed (0x0502 : Nat) = true → (wCtx : Ctx).slot ≠ 0xF)
    ∧ (newSeq (wCtx : Ctx) (wReq [] : Req).seq.toNat)
    ∧ ((wKp.put SYSC_BOOT_RECOV 1).is SYSC_BOOT_RECOV = true)
    ∧ (opRecovery (0x0502 : Nat) = false))
    ∧ ((requestOf (.modeEnter (wReq [10, 0, 0, 0]) : Instr) = some ((0x0201 : Nat), (2 : Nat), (wReq [10, 0, 0, 0] : Req)))
    ∧ (wKp.Live (wReq [10, 0, 0, 0] : Req) (wCtx : Ctx))
    ∧ ((2 : Nat) < 6)
    ∧ (bitOf (2 : Nat) (wCtx : Ctx).classes = true)
    ∧ (opKeyed (0x0201 : Nat) = true → (wCtx : Ctx).slot ≠ 0xF)
    ∧ (newSeq (wCtx : Ctx) (wReq [10, 0, 0, 0] : Req).seq.toNat)
    ∧ ((0x0201 : Nat) < 0xF000)
    ∧ (wKp.is SYSC_BOOT_RECOV = true → opRecovery (0x0201 : Nat) = true)
    ∧ (wKp.checkParams (0x0201 : Nat) (wReq [10, 0, 0, 0] : Req).pay = some (0 : Nat)))
    ∧ ((requestOf (.modeStatus (wReq [0]) : Instr) = some ((0x0203 : Nat), (4 : Nat), (wReq [0] : Req)))
    ∧ ((wWaits 32).Live (wReq [0] : Req) (wCtx : Ctx))
    ∧ ((4 : Nat) < 6)
    ∧ (bitOf (4 : Nat) (wCtx : Ctx).classes = true)
    ∧ (opKeyed (0x0203 : Nat) = true → (wCtx : Ctx).slot ≠ 0xF)
    ∧ (newSeq (wCtx : Ctx) (wReq [0] : Req).seq.toNat)
    ∧ ((0x0203 : Nat) < 0xF000)
    ∧ ((wWaits 32).is SYSC_BOOT_RECOV = true → opRecovery (0x0203 : Nat) = true)
    ∧ ((wWaits 32).kcp.queues.length = 4)
    ∧ (2 ≤ (4 : Nat))
    ∧ ((wWaits 32).checkParams (0x0203 : Nat) (wReq [0] : Req).pay = none)
    ∧ (qDepth (4 : Nat) ≤ ((wWaits 32).queueOf (4 : Nat)).length)
    ∧ (((wWaits 32).queueOf (4 : Nat)).all (fun (r : KReq) => !(r.tok.handle == (wReq [0] : Req).ctx.val * 256 + (wCtx : Ctx).gen && r.tok.seq == (wReq [0] : Req).seq.toNat)) = true))
    ∧ ((requestOf (.modeStatus (wReq [0]) : Instr) = some ((0x0203 : Nat), (4 : Nat), (wReq [0] : Req)))
    ∧ ((wWaits 8).Live (wReq [0] : Req) (wCtx : Ctx))
    ∧ ((4 : Nat) < 6)
    ∧ (bitOf (4 : Nat) (wCtx : Ctx).classes = true)
    ∧ (opKeyed (0x0203 : Nat) = true → (wCtx : Ctx).slot ≠ 0xF)
    ∧ (newSeq (wCtx : Ctx) (wReq [0] : Req).seq.toNat)
    ∧ ((0x0203 : Nat) < 0xF000)
    ∧ ((wWaits 8).is SYSC_BOOT_RECOV = true → opRecovery (0x0203 : Nat) = true)
    ∧ ((wWaits 8).kcp.queues.length = 4)
    ∧ (2 ≤ (4 : Nat))
    ∧ ((wWaits 8).checkParams (0x0203 : Nat) (wReq [0] : Req).pay = none)
    ∧ (((wWaits 8).queueOf (4 : Nat)).length < qDepth (4 : Nat))
    ∧ ((wWaits 8).qCap (4 : Nat) ≤ (((wWaits 8).queueOf (4 : Nat)).filter (fun (r : KReq) => r.tok.handle == (wReq [0] : Req).ctx.val * 256 + (wCtx : Ctx).gen)).length)
    ∧ (((wWaits 8).queueOf (4 : Nat)).all (fun (r : KReq) => !(r.tok.handle == (wReq [0] : Req).ctx.val * 256 + (wCtx : Ctx).gen && r.tok.seq == (wReq [0] : Req).seq.toNat)) = true))
    ∧ ((requestOf (.modeStatus (wReq [0]) : Instr) = some ((0x0203 : Nat), (4 : Nat), (wReq [0] : Req)))
    ∧ ((wWaits 2).Live (wReq [0] : Req) (wCtx : Ctx))
    ∧ ((4 : Nat) < 6)
    ∧ (bitOf (4 : Nat) (wCtx : Ctx).classes = true)
    ∧ (opKeyed (0x0203 : Nat) = true → (wCtx : Ctx).slot ≠ 0xF)
    ∧ (newSeq (wCtx : Ctx) (wReq [0] : Req).seq.toNat)
    ∧ ((0x0203 : Nat) < 0xF000)
    ∧ ((wWaits 2).is SYSC_BOOT_RECOV = true → opRecovery (0x0203 : Nat) = true)
    ∧ ((wWaits 2).kcp.queues.length = 4)
    ∧ (2 ≤ (4 : Nat))
    ∧ ((wWaits 2).checkParams (0x0203 : Nat) (wReq [0] : Req).pay = none)
    ∧ (((wWaits 2).queueOf (4 : Nat)).length < qDepth (4 : Nat))
    ∧ ((((wWaits 2).queueOf (4 : Nat)).filter (fun (r : KReq) => r.tok.handle == (wReq [0] : Req).ctx.val * 256 + (wCtx : Ctx).gen)).length < (wWaits 2).qCap (4 : Nat))) := by
  and_intros <;> decide +kernel

theorem witness_sessions_open_renew_close_and_expire :
    ((wOn.kpRuns = false ∨ (wOn.is SYSC_BOOT_RECOV = true ∧ (2 : Fin 12).val ≠ 11)))
    ∧ ((wKp.kpRuns = true)
    ∧ (wKp.is SYSC_BOOT_RECOV = true → (2 : Fin 12).val = 11)
    ∧ ((match (some (List.replicate 8 1) : Option (List Byte)) with | none => (([0xF, 0x3E, 0x03, 0xE8] ++ List.replicate 16 7) : List Byte).isEmpty || decide (0xF ≤ (payU (([0xF, 0x3E, 0x03, 0xE8] ++ List.replicate 16 7) : List Byte) 0 1)) | some g => wKp.openTag (9 : BitVec 16).toNat g (([0xF, 0x3E, 0x03, 0xE8] ++ List.replicate 16 7) : List Byte)) = false))
    ∧ ((wKp.kpRuns = true)
    ∧ (wKp.is SYSC_BOOT_RECOV = true → (2 : Fin 12).val = 11)
    ∧ ((match (none : Option (List Byte)) with | none => ([] : List Byte).isEmpty || decide (0xF ≤ (payU ([] : List Byte) 0 1)) | some g => wKp.openTag (9 : BitVec 16).toNat g ([] : List Byte)) = true)
    ∧ (([] : List Byte).length ≠ 20))
    ∧ ((wKp.kpRuns = true)
    ∧ (wKp.is SYSC_BOOT_RECOV = true → (2 : Fin 12).val = 11)
    ∧ ((match (none : Option (List Byte)) with | none => (([0x10, 0x3E, 0x03, 0xE8] ++ List.replicate 16 7) : List Byte).isEmpty || decide (0xF ≤ (payU (([0x10, 0x3E, 0x03, 0xE8] ++ List.replicate 16 7) : List Byte) 0 1)) | some g => wKp.openTag (9 : BitVec 16).toNat g (([0x10, 0x3E, 0x03, 0xE8] ++ List.replicate 16 7) : List Byte)) = true)
    ∧ ((([0x10, 0x3E, 0x03, 0xE8] ++ List.replicate 16 7) : List Byte).length = 20)
    ∧ (0xF < (payU (([0x10, 0x3E, 0x03, 0xE8] ++ List.replicate 16 7) : List Byte) 0 1)))
    ∧ ((wKp.kpRuns = true)
    ∧ (wKp.is SYSC_BOOT_RECOV = true → (2 : Fin 12).val = 11)
    ∧ ((match (none : Option (List Byte)) with | none => (([0xF, 0x3F, 0x03, 0xE8] ++ List.replicate 16 7) : List Byte).isEmpty || decide (0xF ≤ (payU (([0xF, 0x3F, 0x03, 0xE8] ++ List.replicate 16 7) : List Byte) 0 1)) | some g => wKp.openTag (9 : BitVec 16).toNat g (([0xF, 0x3F, 0x03, 0xE8] ++ List.replicate 16 7) : List Byte)) = true)
    ∧ ((([0xF, 0x3F, 0x03, 0xE8] ++ List.replicate 16 7) : List Byte).length = 20)
    ∧ ((payU (([0xF, 0x3F, 0x03, 0xE8] ++ List.replicate 16 7) : List Byte) 0 1) ≤ 0xF)
    ∧ ((payU (([0xF, 0x3F, 0x03, 0xE8] ++ List.replicate 16 7) : List Byte) 1 1) &&& 0xC1 ≠ 0))
    ∧ ((wKp.kpRuns = true)
    ∧ (wKp.is SYSC_BOOT_RECOV = true → (2 : Fin 12).val = 11)
    ∧ ((match (none : Option (List Byte)) with | none => (([0xF, 0x3E, 0, 9] ++ List.replicate 16 7) : List Byte).isEmpty || decide (0xF ≤ (payU (([0xF, 0x3E, 0, 9] ++ List.replicate 16 7) : List Byte) 0 1)) | some g => wKp.openTag (9 : BitVec 16).toNat g (([0xF, 0x3E, 0, 9] ++ List.replicate 16 7) : List Byte)) = true)
    ∧ ((([0xF, 0x3E, 0, 9] ++ List.replicate 16 7) : List Byte).length = 20)
    ∧ ((payU (([0xF, 0x3E, 0, 9] ++ List.replicate 16 7) : List Byte) 0 1) ≤ 0xF)
    ∧ ((payU (([0xF, 0x3E, 0, 9] ++ List.replicate 16 7) : List Byte) 1 1) &&& 0xC1 = 0)
    ∧ ((payU (([0xF, 0x3E, 0, 9] ++ List.replicate 16 7) : List Byte) 2 2) < 100 ∨ 60000 < (payU (([0xF, 0x3E, 0, 9] ++ List.replicate 16 7) : List Byte) 2 2))) := by
  and_intros <;> decide +kernel

theorem witness_sessions_open_renew_close_and_expire_part2 :
    (((wKp.setKcp { wKp.kcp with nhs := [(0xF, List.replicate 16 7)] }).kpRuns = true)
    ∧ ((wKp.setKcp { wKp.kcp with nhs := [(0xF, List.replicate 16 7)] }).is SYSC_BOOT_RECOV = true → (2 : Fin 12).val = 11)
    ∧ ((match (none : Option (List Byte)) with | none => (([0xF, 0x3E, 0x03, 0xE8] ++ List.replicate 16 7) : List Byte).isEmpty || decide (0xF ≤ (payU (([0xF, 0x3E, 0x03, 0xE8] ++ List.replicate 16 7) : List Byte) 0 1)) | some g => (wKp.setKcp { wKp.kcp with nhs := [(0xF, List.replicate 16 7)] }).openTag (9 : BitVec 16).toNat g (([0xF, 0x3E, 0x03, 0xE8] ++ List.replicate 16 7) : List Byte)) = true)
    ∧ ((([0xF, 0x3E, 0x03, 0xE8] ++ List.replicate 16 7) : List Byte).length = 20)
    ∧ ((payU (([0xF, 0x3E, 0x03, 0xE8] ++ List.replicate 16 7) : List Byte) 0 1) ≤ 0xF)
    ∧ ((payU (([0xF, 0x3E, 0x03, 0xE8] ++ List.replicate 16 7) : List Byte) 1 1) &&& 0xC1 = 0)
    ∧ (100 ≤ (payU (([0xF, 0x3E, 0x03, 0xE8] ++ List.replicate 16 7) : List Byte) 2 2))
    ∧ ((payU (([0xF, 0x3E, 0x03, 0xE8] ++ List.replicate 16 7) : List Byte) 2 2) ≤ 60000)
    ∧ ((((wKp.setKcp { wKp.kcp with nhs := [(0xF, List.replicate 16 7)] }).kcp.nhs.filter (fun (e : Nat × List Byte) => e.1 == (payU (([0xF, 0x3E, 0x03, 0xE8] ++ List.replicate 16 7) : List Byte) 0 1))).take 256).any (fun (e : Nat × List Byte) => e.2 == (([0xF, 0x3E, 0x03, 0xE8] ++ List.replicate 16 7) : List Byte).drop 4) = true))
    ∧ (((wKp.put KCP_CFG_UNAUTH_MAX 0).kpRuns = true)
    ∧ ((wKp.put KCP_CFG_UNAUTH_MAX 0).is SYSC_BOOT_RECOV = true → (2 : Fin 12).val = 11)
    ∧ ((match (none : Option (List Byte)) with | none => (([0xF, 0x3E, 0x03, 0xE8] ++ List.replicate 16 7) : List Byte).isEmpty || decide (0xF ≤ (payU (([0xF, 0x3E, 0x03, 0xE8] ++ List.replicate 16 7) : List Byte) 0 1)) | some g => (wKp.put KCP_CFG_UNAUTH_MAX 0).openTag (9 : BitVec 16).toNat g (([0xF, 0x3E, 0x03, 0xE8] ++ List.replicate 16 7) : List Byte)) = true)
    ∧ ((([0xF, 0x3E, 0x03, 0xE8] ++ List.replicate 16 7) : List Byte).length = 20)
    ∧ ((payU (([0xF, 0x3E, 0x03, 0xE8] ++ List.replicate 16 7) : List Byte) 0 1) ≤ 0xF)
    ∧ ((payU (([0xF, 0x3E, 0x03, 0xE8] ++ List.replicate 16 7) : List Byte) 1 1) &&& 0xC1 = 0)
    ∧ (100 ≤ (payU (([0xF, 0x3E, 0x03, 0xE8] ++ List.replicate 16 7) : List Byte) 2 2))
    ∧ ((payU (([0xF, 0x3E, 0x03, 0xE8] ++ List.replicate 16 7) : List Byte) 2 2) ≤ 60000)
    ∧ ((((wKp.put KCP_CFG_UNAUTH_MAX 0).kcp.nhs.filter (fun (e : Nat × List Byte) => e.1 == (payU (([0xF, 0x3E, 0x03, 0xE8] ++ List.replicate 16 7) : List Byte) 0 1))).take 256).any (fun (e : Nat × List Byte) => e.2 == (([0xF, 0x3E, 0x03, 0xE8] ++ List.replicate 16 7) : List Byte).drop 4) = false)
    ∧ (¬((payU (([0xF, 0x3E, 0x03, 0xE8] ++ List.replicate 16 7) : List Byte) 0 1) = 0xF → (wKp.put KCP_CFG_UNAUTH_MAX 0).unauthCtxs.length < (wKp.put KCP_CFG_UNAUTH_MAX 0).get KCP_CFG_UNAUTH_MAX) ∨ (wKp.put KCP_CFG_UNAUTH_MAX 0).allocate = none))
    ∧ ((wKp.kpRuns = true)
    ∧ (wKp.is SYSC_BOOT_RECOV = true → (2 : Fin 12).val = 11)
    ∧ ((match (none : Option (List Byte)) with | none => (([0xF, 0x3E, 0x03, 0xE8] ++ List.replicate 16 7) : List Byte).isEmpty || decide (0xF ≤ (payU (([0xF, 0x3E, 0x03, 0xE8] ++ List.replicate 16 7) : List Byte) 0 1)) | some g => wKp.openTag (9 : BitVec 16).toNat g (([0xF, 0x3E, 0x03, 0xE8] ++ List.replicate 16 7) : List Byte)) = true)
    ∧ (((none : Option (List Byte)) = none → wKp.kcp.keys.find? (fun (e : Nat × List Byte × Nat) => e.1 == (payU (([0xF, 0x3E, 0x03, 0xE8] ++ List.replicate 16 7) : List Byte) 0 1)) = none))
    ∧ ((([0xF, 0x3E, 0x03, 0xE8] ++ List.replicate 16 7) : List Byte).length = 20)
    ∧ ((payU (([0xF, 0x3E, 0x03, 0xE8] ++ List.replicate 16 7) : List Byte) 0 1) ≤ 0xF)
    ∧ ((payU (([0xF, 0x3E, 0x03, 0xE8] ++ List.replicate 16 7) : List Byte) 1 1) &&& 0xC1 = 0)
    ∧ (100 ≤ (payU (([0xF, 0x3E, 0x03, 0xE8] ++ List.replicate 16 7) : List Byte) 2 2))
    ∧ ((payU (([0xF, 0x3E, 0x03, 0xE8] ++ List.replicate 16 7) : List Byte) 2 2) ≤ 60000)
    ∧ (((wKp.kcp.nhs.filter (fun (e : Nat × List Byte) => e.1 == (payU (([0xF, 0x3E, 0x03, 0xE8] ++ List.replicate 16 7) : List Byte) 0 1))).take 256).any (fun (e : Nat × List Byte) => e.2 == (([0xF, 0x3E, 0x03, 0xE8] ++ List.replicate 16 7) : List Byte).drop 4) = false)
    ∧ (((payU (([0xF, 0x3E, 0x03, 0xE8] ++ List.replicate 16 7) : List Byte) 0 1) = 0xF → wKp.unauthCtxs.length < wKp.get KCP_CFG_UNAUTH_MAX))
    ∧ (wKp.allocate = some (0 : Nat))
    ∧ (wKp.ctxOf (0 : Nat) = none))
    ∧ (((wKp.setKcp { wKp.kcp with keys := [(3, (List.range 16).map (BitVec.ofNat 8), 0x3E)] } |>.setKcp { (wKp.setKcp { wKp.kcp with keys := [(3, (List.range 16).map (BitVec.ofNat 8), 0x3E)] }).kcp with ctxs := [(0, { wCtx with isOpen := false })] }).kpRuns = true)
    ∧ ((wKp.setKcp { wKp.kcp with keys := [(3, (List.range 16).map (BitVec.ofNat 8), 0x3E)] } |>.setKcp { (wKp.setKcp { wKp.kcp with keys := [(3, (List.range 16).map (BitVec.ofNat 8), 0x3E)] }).kcp with ctxs := [(0, { wCtx with isOpen := false })] }).is SYSC_BOOT_RECOV = true → (2 : Fin 12).val = 11)
    ∧ ((match (some (tag8 ((List.range 16).map (BitVec.ofNat 8)) (openHeader 9 true 20 ++ ([3, 0x3E, 0x03, 0xE8] ++ List.replicate 16 7))) : Option (List Byte)) with | none => (([3, 0x3E, 0x03, 0xE8] ++ List.replicate 16 7) : List Byte).isEmpty || decide (0xF ≤ (payU (([3, 0x3E, 0x03, 0xE8] ++ List.replicate 16 7) : List Byte) 0 1)) | some g => (wKp.setKcp { wKp.kcp with keys := [(3, (List.range 16).map (BitVec.ofNat 8), 0x3E)] } |>.setKcp { (wKp.setKcp { wKp.kcp with keys := [(3, (List.range 16).map (BitVec.ofNat 8), 0x3E)] }).kcp with ctxs := [(0, { wCtx with isOpen := false })] }).openTag (9 : BitVec 16).toNat g (([3, 0x3E, 0x03, 0xE8] ++ List.replicate 16 7) : List Byte)) = true)
    ∧ (((some (tag8 ((List.range 16).map (BitVec.ofNat 8)) (openHeader 9 true 20 ++ ([3, 0x3E, 0x03, 0xE8] ++ List.replicate 16 7))) : Option (List Byte)) = none → (wKp.setKcp { wKp.kcp with keys := [(3, (List.range 16).map (BitVec.ofNat 8), 0x3E)] } |>.setKcp { (wKp.setKcp { wKp.kcp with keys := [(3, (List.range 16).map (BitVec.ofNat 8), 0x3E)] }).kcp with ctxs := [(0, { wCtx with isOpen := false })] }).kcp.keys.find? (fun (e : Nat × List Byte × Nat) => e.1 == (payU (([3, 0x3E, 0x03, 0xE8] ++ List.replicate 16 7) : List Byte) 0 1)) = none))
    ∧ ((([3, 0x3E, 0x03, 0xE8] ++ List.replicate 16 7) : List Byte).length = 20)
    ∧ ((payU (([3, 0x3E, 0x03, 0xE8] ++ List.replicate 16 7) : List Byte) 0 1) ≤ 0xF)
    ∧ ((payU (([3, 0x3E, 0x03, 0xE8] ++ List.replicate 16 7) : List Byte) 1 1) &&& 0xC1 = 0)
    ∧ (100 ≤ (payU (([3, 0x3E, 0x03, 0xE8] ++ List.replicate 16 7) : List Byte) 2 2))
    ∧ ((payU (([3, 0x3E, 0x03, 0xE8] ++ List.replicate 16 7) : List Byte) 2 2) ≤ 60000)
    ∧ ((((wKp.setKcp { wKp.kcp with keys := [(3, (List.range 16).map (BitVec.ofNat 8), 0x3E)] } |>.setKcp { (wKp.setKcp { wKp.kcp with keys := [(3, (List.range 16).map (BitVec.ofNat 8), 0x3E)] }).kcp with ctxs := [(0, { wCtx with isOpen := false })] }).kcp.nhs.filter (fun (e : Nat × List Byte) => e.1 == (payU (([3, 0x3E, 0x03, 0xE8] ++ List.replicate 16 7) : List Byte) 0 1))).take 256).any (fun (e : Nat × List Byte) => e.2 == (([3, 0x3E, 0x03, 0xE8] ++ List.replicate 16 7) : List Byte).drop 4) = false)
    ∧ (((payU (([3, 0x3E, 0x03, 0xE8] ++ List.replicate 16 7) : List Byte) 0 1) = 0xF → (wKp.setKcp { wKp.kcp with keys := [(3, (List.range 16).map (BitVec.ofNat 8), 0x3E)] } |>.setKcp { (wKp.setKcp { wKp.kcp with keys := [(3, (List.range 16).map (BitVec.ofNat 8), 0x3E)] }).kcp with ctxs := [(0, { wCtx with isOpen := false })] }).unauthCtxs.length < (wKp.setKcp { wKp.kcp with keys := [(3, (List.range 16).map (BitVec.ofNat 8), 0x3E)] } |>.setKcp { (wKp.setKcp { wKp.kcp with keys := [(3, (List.range 16).map (BitVec.ofNat 8), 0x3E)] }).kcp with ctxs := [(0, { wCtx with isOpen := false })] }).get KCP_CFG_UNAUTH_MAX))
    ∧ ((wKp.setKcp { wKp.kcp with keys := [(3, (List.range 16).map (BitVec.ofNat 8), 0x3E)] } |>.setKcp { (wKp.setKcp { wKp.kcp with keys := [(3, (List.range 16).map (BitVec.ofNat 8), 0x3E)] }).kcp with ctxs := [(0, { wCtx with isOpen := false })] }).allocate = some (0 : Nat))
    ∧ ((wKp.setKcp { wKp.kcp with keys := [(3, (List.range 16).map (BitVec.ofNat 8), 0x3E)] } |>.setKcp { (wKp.setKcp { wKp.kcp with keys := [(3, (List.range 16).map (BitVec.ofNat 8), 0x3E)] }).kcp with ctxs := [(0, { wCtx with isOpen := false })] }).ctxOf (0 : Nat) = some ({ wCtx with isOpen := false } : Ctx)))
    ∧ ((wKp.Open 0x0103 0 (wReq [1, 0] : Req) (wCtx : Ctx))
    ∧ ((wReq [1, 0] : Req).pay.length = 2)
    ∧ (payU (wReq [1, 0] : Req).pay 0 2 = 0 ∨ (100 ≤ payU (wReq [1, 0] : Req).pay 0 2 ∧ payU (wReq [1, 0] : Req).pay 0 2 ≤ 60000)))
    ∧ ((((wKp.setKcp { wKp.kcp with queues := [[], [], [⟨⟨0x507, 0, 9, none, 11, 0x0203, 4, 0⟩, 900, none, [0]⟩, ⟨⟨0x607, 0, 9, none, 12, 0x0203, 4, 0⟩, 900, none, [0]⟩], []], fw := some ⟨0x507, 64, [], none⟩ }).put MDM_ACTIVE_ACTIVE 0x81 |>.setModes { Modes.idle with owner := (Modes.idle.owner.set 7 (some 0x507)).set 0 (some 0x607) }).modes.owner.length = 12)
    ∧ (((wKp.setKcp { wKp.kcp with queues := [[], [], [⟨⟨0x507, 0, 9, none, 11, 0x0203, 4, 0⟩, 900, none, [0]⟩, ⟨⟨0x607, 0, 9, none, 12, 0x0203, 4, 0⟩, 900, none, [0]⟩], []], fw := some ⟨0x507, 64, [], none⟩ }).put MDM_ACTIVE_ACTIVE 0x81 |>.setModes { Modes.idle with owner := (Modes.idle.owner.set 7 (some 0x507)).set 0 (some 0x607) }).kcp.queues.length = 4)
    ∧ (((wKp.setKcp { wKp.kcp with queues := [[], [], [⟨⟨0x507, 0, 9, none, 11, 0x0203, 4, 0⟩, 900, none, [0]⟩, ⟨⟨0x607, 0, 9, none, 12, 0x0203, 4, 0⟩, 900, none, [0]⟩], []], fw := some ⟨0x507, 64, [], none⟩ }).put MDM_ACTIVE_ACTIVE 0x81 |>.setModes { Modes.idle with owner := (Modes.idle.owner.set 7 (some 0x507)).set 0 (some 0x607) }).Open 0x0102 0 (wReq [] : Req) (wCtx : Ctx))
    ∧ ((wReq [] : Req).pay = [])) := by
  and_intros <;> decide +kernel

theorem witness_sessions_open_renew_close_and_expire_part3 :
    ((({ (wKp.setKcp { wKp.kcp with queues := [[], [], [⟨⟨0x507, 0, 9, none, 11, 0x0203, 4, 0⟩, 900, none, [0]⟩, ⟨⟨0x607, 0, 9, none, 12, 0x0203, 4, 0⟩, 900, none, [0]⟩], []], fw := some ⟨0x507, 64, [], none⟩ }).put MDM_ACTIVE_ACTIVE 0x81 |>.setModes { Modes.idle with owner := (Modes.idle.owner.set 7 (some 0x507)).set 0 (some 0x607) } with cyc := 10 ^ 9 }).modes.owner.length = 12)
    ∧ (({ (wKp.setKcp { wKp.kcp with queues := [[], [], [⟨⟨0x507, 0, 9, none, 11, 0x0203, 4, 0⟩, 900, none, [0]⟩, ⟨⟨0x607, 0, 9, none, 12, 0x0203, 4, 0⟩, 900, none, [0]⟩], []], fw := some ⟨0x507, 64, [], none⟩ }).put MDM_ACTIVE_ACTIVE 0x81 |>.setModes { Modes.idle with owner := (Modes.idle.owner.set 7 (some 0x507)).set 0 (some 0x607) } with cyc := 10 ^ 9 }).kcp.queues.length = 4)
    ∧ (({ (wKp.setKcp { wKp.kcp with queues := [[], [], [⟨⟨0x507, 0, 9, none, 11, 0x0203, 4, 0⟩, 900, none, [0]⟩, ⟨⟨0x607, 0, 9, none, 12, 0x0203, 4, 0⟩, 900, none, [0]⟩], []], fw := some ⟨0x507, 64, [], none⟩ }).put MDM_ACTIVE_ACTIVE 0x81 |>.setModes { Modes.idle with owner := (Modes.idle.owner.set 7 (some 0x507)).set 0 (some 0x607) } with cyc := 10 ^ 9 }).kpRuns = true)
    ∧ (({ (wKp.setKcp { wKp.kcp with queues := [[], [], [⟨⟨0x507, 0, 9, none, 11, 0x0203, 4, 0⟩, 900, none, [0]⟩, ⟨⟨0x607, 0, 9, none, 12, 0x0203, 4, 0⟩, 900, none, [0]⟩], []], fw := some ⟨0x507, 64, [], none⟩ }).put MDM_ACTIVE_ACTIVE 0x81 |>.setModes { Modes.idle with owner := (Modes.idle.owner.set 7 (some 0x507)).set 0 (some 0x607) } with cyc := 10 ^ 9 }).leaseDue (5 : Fin 256).val = true)
    ∧ (({ (wKp.setKcp { wKp.kcp with queues := [[], [], [⟨⟨0x507, 0, 9, none, 11, 0x0203, 4, 0⟩, 900, none, [0]⟩, ⟨⟨0x607, 0, 9, none, 12, 0x0203, 4, 0⟩, 900, none, [0]⟩], []], fw := some ⟨0x507, 64, [], none⟩ }).put MDM_ACTIVE_ACTIVE 0x81 |>.setModes { Modes.idle with owner := (Modes.idle.owner.set 7 (some 0x507)).set 0 (some 0x607) } with cyc := 10 ^ 9 }).ctxOf (5 : Fin 256).val = some (wCtx : Ctx)))
    ∧ ((wKp.kpRuns = false ∨ wKp.leaseDue (5 : Fin 256).val = false)) := by
  and_intros <;> decide +kernel

theorem witness_frames_and_hspi_transactions :
    ((wKp.kpRuns = false ∨ ([1] : List Byte).length < 16 ∨ frameMax (0 : Fin 12).val < ([1] : List Byte).length ∨ (3 ≤ (0 : Fin 12).val ∧ (0 : Fin 12).val < 11 ∧ wKp.is (KCP_CAN_EN (((0 : Fin 12).val - 3) % 4)) = false) ∨ (wKp.is SYSC_BOOT_RECOV = true ∧ (0 : Fin 12).val ≠ 11)))
    ∧ ((wKp.kpRuns = true)
    ∧ (16 ≤ (([0xA4, 2, 5, 7, 2, 3, 0, 11, 4, 0, 0, 1, 0, 0, 0, 0, 0] : List Byte) : List Byte).length)
    ∧ ((([0xA4, 2, 5, 7, 2, 3, 0, 11, 4, 0, 0, 1, 0, 0, 0, 0, 0] : List Byte) : List Byte).length ≤ frameMax (0 : Fin 12).val)
    ∧ (3 ≤ (0 : Fin 12).val → (0 : Fin 12).val < 11 → wKp.is (KCP_CAN_EN (((0 : Fin 12).val - 3) % 4)) = true)
    ∧ (wKp.is SYSC_BOOT_RECOV = true → (0 : Fin 12).val = 11)
    ∧ (payU (([0xA4, 2, 5, 7, 2, 3, 0, 11, 4, 0, 0, 1, 0, 0, 0, 0, 0] : List Byte) : List Byte) 0 1 ≠ 0xA5 ∨ bitOf 7 (payU (([0xA4, 2, 5, 7, 2, 3, 0, 11, 4, 0, 0, 1, 0, 0, 0, 0, 0] : List Byte) : List Byte) 8 1) = true ∨ bitOf 4 (payU (([0xA4, 2, 5, 7, 2, 3, 0, 11, 4, 0, 0, 1, 0, 0, 0, 0, 0] : List Byte) : List Byte) 8 1) = true ∨ bitOf 3 (payU (([0xA4, 2, 5, 7, 2, 3, 0, 11, 4, 0, 0, 1, 0, 0, 0, 0, 0] : List Byte) : List Byte) 8 1) = true ∨ payU (([0xA4, 2, 5, 7, 2, 3, 0, 11, 4, 0, 0, 1, 0, 0, 0, 0, 0] : List Byte) : List Byte) 14 2 ≠ 0))
    ∧ ((wKp.kpRuns = true)
    ∧ (16 ≤ (([0xA5, 3, 5, 7, 2, 3, 0, 11, 4, 0, 0, 1, 0, 0, 0, 0, 0] : List Byte) : List Byte).length)
    ∧ ((([0xA5, 3, 5, 7, 2, 3, 0, 11, 4, 0, 0, 1, 0, 0, 0, 0, 0] : List Byte) : List Byte).length ≤ frameMax (0 : Fin 12).val)
    ∧ (3 ≤ (0 : Fin 12).val → (0 : Fin 12).val < 11 → wKp.is (KCP_CAN_EN (((0 : Fin 12).val - 3) % 4)) = true)
    ∧ (wKp.is SYSC_BOOT_RECOV = true → (0 : Fin 12).val = 11)
    ∧ (payU (([0xA5, 3, 5, 7, 2, 3, 0, 11, 4, 0, 0, 1, 0, 0, 0, 0, 0] : List Byte) : List Byte) 0 1 = 0xA5)
    ∧ (bitOf 7 (payU (([0xA5, 3, 5, 7, 2, 3, 0, 11, 4, 0, 0, 1, 0, 0, 0, 0, 0] : List Byte) : List Byte) 8 1) = false)
    ∧ (bitOf 4 (payU (([0xA5, 3, 5, 7, 2, 3, 0, 11, 4, 0, 0, 1, 0, 0, 0, 0, 0] : List Byte) : List Byte) 8 1) = false)
    ∧ (bitOf 3 (payU (([0xA5, 3, 5, 7, 2, 3, 0, 11, 4, 0, 0, 1, 0, 0, 0, 0, 0] : List Byte) : List Byte) 8 1) = false)
    ∧ (payU (([0xA5, 3, 5, 7, 2, 3, 0, 11, 4, 0, 0, 1, 0, 0, 0, 0, 0] : List Byte) : List Byte) 14 2 = 0)
    ∧ ((kcpFrame 0 ([0xA5, 3, 5, 7, 2, 3, 0, 11, 4, 0, 0, 1, 0, 0, 0, 0, 0] : List Byte) : RxFrame) = kcpFrame (0 : Fin 12).val (([0xA5, 3, 5, 7, 2, 3, 0, 11, 4, 0, 0, 1, 0, 0, 0, 0, 0] : List Byte) : List Byte))
    ∧ (payU (([0xA5, 3, 5, 7, 2, 3, 0, 11, 4, 0, 0, 1, 0, 0, 0, 0, 0] : List Byte) : List Byte) 1 1 ≠ 2))
    ∧ ((wKp.kpRuns = true)
    ∧ (16 ≤ (([0xA5, 2, 5, 7, 2, 3, 0, 11, 4, 0, 0, 2, 0, 0, 0, 0, 0] : List Byte) : List Byte).length)
    ∧ ((([0xA5, 2, 5, 7, 2, 3, 0, 11, 4, 0, 0, 2, 0, 0, 0, 0, 0] : List Byte) : List Byte).length ≤ frameMax (0 : Fin 12).val)
    ∧ (3 ≤ (0 : Fin 12).val → (0 : Fin 12).val < 11 → wKp.is (KCP_CAN_EN (((0 : Fin 12).val - 3) % 4)) = true)
    ∧ (wKp.is SYSC_BOOT_RECOV = true → (0 : Fin 12).val = 11)
    ∧ (payU (([0xA5, 2, 5, 7, 2, 3, 0, 11, 4, 0, 0, 2, 0, 0, 0, 0, 0] : List Byte) : List Byte) 0 1 = 0xA5)
    ∧ (bitOf 7 (payU (([0xA5, 2, 5, 7, 2, 3, 0, 11, 4, 0, 0, 2, 0, 0, 0, 0, 0] : List Byte) : List Byte) 8 1) = false)
    ∧ (bitOf 4 (payU (([0xA5, 2, 5, 7, 2, 3, 0, 11, 4, 0, 0, 2, 0, 0, 0, 0, 0] : List Byte) : List Byte) 8 1) = false)
    ∧ (bitOf 3 (payU (([0xA5, 2, 5, 7, 2, 3, 0, 11, 4, 0, 0, 2, 0, 0, 0, 0, 0] : List Byte) : List Byte) 8 1) = false)
    ∧ (payU (([0xA5, 2, 5, 7, 2, 3, 0, 11, 4, 0, 0, 2, 0, 0, 0, 0, 0] : List Byte) : List Byte) 14 2 = 0)
    ∧ ((kcpFrame 0 ([0xA5, 2, 5, 7, 2, 3, 0, 11, 4, 0, 0, 2, 0, 0, 0, 0, 0] : List Byte) : RxFrame) = kcpFrame (0 : Fin 12).val (([0xA5, 2, 5, 7, 2, 3, 0, 11, 4, 0, 0, 2, 0, 0, 0, 0, 0] : List Byte) : List Byte))
    ∧ (payU (([0xA5, 2, 5, 7, 2, 3, 0, 11, 4, 0, 0, 2, 0, 0, 0, 0, 0] : List Byte) : List Byte) 1 1 = 2)
    ∧ ((kcpFrame 0 ([0xA5, 2, 5, 7, 2, 3, 0, 11, 4, 0, 0, 2, 0, 0, 0, 0, 0] : List Byte) : RxFrame).complete (0 : Fin 12).val = false))
    ∧ ((wKp.kpRuns = true)
    ∧ (16 ≤ (([0xA5, 2, 5, 7, 1, 1, 0, 11, 4, 0, 0, 1, 0, 0, 0, 0, 0] : List Byte) : List Byte).length)
    ∧ ((([0xA5, 2, 5, 7, 1, 1, 0, 11, 4, 0, 0, 1, 0, 0, 0, 0, 0] : List Byte) : List Byte).length ≤ frameMax (0 : Fin 12).val)
    ∧ (3 ≤ (0 : Fin 12).val → (0 : Fin 12).val < 11 → wKp.is (KCP_CAN_EN (((0 : Fin 12).val - 3) % 4)) = true)
    ∧ (wKp.is SYSC_BOOT_RECOV = true → (0 : Fin 12).val = 11)
    ∧ (payU (([0xA5, 2, 5, 7, 1, 1, 0, 11, 4, 0, 0, 1, 0, 0, 0, 0, 0] : List Byte) : List Byte) 0 1 = 0xA5)
    ∧ (bitOf 7 (payU (([0xA5, 2, 5, 7, 1, 1, 0, 11, 4, 0, 0, 1, 0, 0, 0, 0, 0] : List Byte) : List Byte) 8 1) = false)
    ∧ (bitOf 4 (payU (([0xA5, 2, 5, 7, 1, 1, 0, 11, 4, 0, 0, 1, 0, 0, 0, 0, 0] : List Byte) : List Byte) 8 1) = false)
    ∧ (bitOf 3 (payU (([0xA5, 2, 5, 7, 1, 1, 0, 11, 4, 0, 0, 1, 0, 0, 0, 0, 0] : List Byte) : List Byte) 8 1) = false)
    ∧ (payU (([0xA5, 2, 5, 7, 1, 1, 0, 11, 4, 0, 0, 1, 0, 0, 0, 0, 0] : List Byte) : List Byte) 14 2 = 0)
    ∧ ((kcpFrame 0 ([0xA5, 2, 5, 7, 1, 1, 0, 11, 4, 0, 0, 1, 0, 0, 0, 0, 0] : List Byte) : RxFrame) = kcpFrame (0 : Fin 12).val (([0xA5, 2, 5, 7, 1, 1, 0, 11, 4, 0, 0, 1, 0, 0, 0, 0, 0] : List Byte) : List Byte))
    ∧ (payU (([0xA5, 2, 5, 7, 1, 1, 0, 11, 4, 0, 0, 1, 0, 0, 0, 0, 0] : List Byte) : List Byte) 1 1 = 2)
    ∧ ((kcpFrame 0 ([0xA5, 2, 5, 7, 1, 1, 0, 11, 4, 0, 0, 1, 0, 0, 0, 0, 0] : List Byte) : RxFrame).complete (0 : Fin 12).val = true)
    ∧ ((kcpFrame 0 ([0xA5, 2, 5, 7, 1, 1, 0, 11, 4, 0, 0, 1, 0, 0, 0, 0, 0] : List Byte) : RxFrame).op = 0x0101))
    ∧ ((wKp.kpRuns = true)
    ∧ (16 ≤ (([0xA5, 2, 6, 7, 2, 3, 0, 11, 4, 0, 0, 1, 0, 0, 0, 0, 0] : List Byte) : List Byte).length)
    ∧ ((([0xA5, 2, 6, 7, 2, 3, 0, 11, 4, 0, 0, 1, 0, 0, 0, 0, 0] : List Byte) : List Byte).length ≤ frameMax (0 : Fin 12).val)
    ∧ (3 ≤ (0 : Fin 12).val → (0 : Fin 12).val < 11 → wKp.is (KCP_CAN_EN (((0 : Fin 12).val - 3) % 4)) = true)
    ∧ (wKp.is SYSC_BOOT_RECOV = true → (0 : Fin 12).val = 11)
    ∧ (payU (([0xA5, 2, 6, 7, 2, 3, 0, 11, 4, 0, 0, 1, 0, 0, 0, 0, 0] : List Byte) : List Byte) 0 1 = 0xA5)
    ∧ (bitOf 7 (payU (([0xA5, 2, 6, 7, 2, 3, 0, 11, 4, 0, 0, 1, 0, 0, 0, 0, 0] : List Byte) : List Byte) 8 1) = false)
    ∧ (bitOf 4 (payU (([0xA5, 2, 6, 7, 2, 3, 0, 11, 4, 0, 0, 1, 0, 0, 0, 0, 0] : List Byte) : List Byte) 8 1) = false)
    ∧ (bitOf 3 (payU (([0xA5, 2, 6, 7, 2, 3, 0, 11, 4, 0, 0, 1, 0, 0, 0, 0, 0] : List Byte) : List Byte) 8 1) = false)
    ∧ (payU (([0xA5, 2, 6, 7, 2, 3, 0, 11, 4, 0, 0, 1, 0, 0, 0, 0, 0] : List Byte) : List Byte) 14 2 = 0)
    ∧ ((kcpFrame 0 ([0xA5, 2, 6, 7, 2, 3, 0, 11, 4, 0, 0, 1, 0, 0, 0, 0, 0] : List Byte) : RxFrame) = kcpFrame (0 : Fin 12).val (([0xA5, 2, 6, 7, 2, 3, 0, 11, 4, 0, 0, 1, 0, 0, 0, 0, 0] : List Byte) : List Byte))
    ∧ (payU (([0xA5, 2, 6, 7, 2, 3, 0, 11, 4, 0, 0, 1, 0, 0, 0, 0, 0] : List Byte) : List Byte) 1 1 = 2)
    ∧ ((kcpFrame 0 ([0xA5, 2, 6, 7, 2, 3, 0, 11, 4, 0, 0, 1, 0, 0, 0, 0, 0] : List Byte) : RxFrame).complete (0 : Fin 12).val = true)
    ∧ ((kcpFrame 0 ([0xA5, 2, 6, 7, 2, 3, 0, 11, 4, 0, 0, 1, 0, 0, 0, 0, 0] : List Byte) : RxFrame).op ≠ 0x0101)
    ∧ (((wKp.leaseExpire ((kcpFrame 0 ([0xA5, 2, 6, 7, 2, 3, 0, 11, 4, 0, 0, 1, 0, 0, 0, 0, 0] : List Byte) : RxFrame).handle / 256)).session (kcpFrame 0 ([0xA5, 2, 6, 7, 2, 3, 0, 11, 4, 0, 0, 1, 0, 0, 0, 0, 0] : List Byte) : RxFrame).handle).all (fun (y : Ctx) => y.tport != (0 : Fin 12).val || y.peer != (9 : Nat)) = true)) := by
  and_intros <;> decide +kernel

theorem witness_frames_and_hspi_transactions_part2 :
    ((wKp.kpRuns = true)
    ∧ (16 ≤ (([0xA5, 2, 5, 7, 2, 3, 0, 11, 0x44, 0, 0, 1, 0, 0, 0, 0, 0] ++ List.replicate 8 0 : List Byte) : List Byte).length)
    ∧ ((([0xA5, 2, 5, 7, 2, 3, 0, 11, 0x44, 0, 0, 1, 0, 0, 0, 0, 0] ++ List.replicate 8 0 : List Byte) : List Byte).length ≤ frameMax (0 : Fin 12).val)
    ∧ (3 ≤ (0 : Fin 12).val → (0 : Fin 12).val < 11 → wKp.is (KCP_CAN_EN (((0 : Fin 12).val - 3) % 4)) = true)
    ∧ (wKp.is SYSC_BOOT_RECOV = true → (0 : Fin 12).val = 11)
    ∧ (payU (([0xA5, 2, 5, 7, 2, 3, 0, 11, 0x44, 0, 0, 1, 0, 0, 0, 0, 0] ++ List.replicate 8 0 : List Byte) : List Byte) 0 1 = 0xA5)
    ∧ (bitOf 7 (payU (([0xA5, 2, 5, 7, 2, 3, 0, 11, 0x44, 0, 0, 1, 0, 0, 0, 0, 0] ++ List.replicate 8 0 : List Byte) : List Byte) 8 1) = false)
    ∧ (bitOf 4 (payU (([0xA5, 2, 5, 7, 2, 3, 0, 11, 0x44, 0, 0, 1, 0, 0, 0, 0, 0] ++ List.replicate 8 0 : List Byte) : List Byte) 8 1) = false)
    ∧ (bitOf 3 (payU (([0xA5, 2, 5, 7, 2, 3, 0, 11, 0x44, 0, 0, 1, 0, 0, 0, 0, 0] ++ List.replicate 8 0 : List Byte) : List Byte) 8 1) = false)
    ∧ (payU (([0xA5, 2, 5, 7, 2, 3, 0, 11, 0x44, 0, 0, 1, 0, 0, 0, 0, 0] ++ List.replicate 8 0 : List Byte) : List Byte) 14 2 = 0)
    ∧ ((kcpFrame 0 ([0xA5, 2, 5, 7, 2, 3, 0, 11, 0x44, 0, 0, 1, 0, 0, 0, 0, 0] ++ List.replicate 8 0 : List Byte) : RxFrame) = kcpFrame (0 : Fin 12).val (([0xA5, 2, 5, 7, 2, 3, 0, 11, 0x44, 0, 0, 1, 0, 0, 0, 0, 0] ++ List.replicate 8 0 : List Byte) : List Byte))
    ∧ (payU (([0xA5, 2, 5, 7, 2, 3, 0, 11, 0x44, 0, 0, 1, 0, 0, 0, 0, 0] ++ List.replicate 8 0 : List Byte) : List Byte) 1 1 = 2)
    ∧ ((kcpFrame 0 ([0xA5, 2, 5, 7, 2, 3, 0, 11, 0x44, 0, 0, 1, 0, 0, 0, 0, 0] ++ List.replicate 8 0 : List Byte) : RxFrame).complete (0 : Fin 12).val = true)
    ∧ ((kcpFrame 0 ([0xA5, 2, 5, 7, 2, 3, 0, 11, 0x44, 0, 0, 1, 0, 0, 0, 0, 0] ++ List.replicate 8 0 : List Byte) : RxFrame).op ≠ 0x0101)
    ∧ ((wKp.leaseExpire ((kcpFrame 0 ([0xA5, 2, 5, 7, 2, 3, 0, 11, 0x44, 0, 0, 1, 0, 0, 0, 0, 0] ++ List.replicate 8 0 : List Byte) : RxFrame).handle / 256)).session (kcpFrame 0 ([0xA5, 2, 5, 7, 2, 3, 0, 11, 0x44, 0, 0, 1, 0, 0, 0, 0, 0] ++ List.replicate 8 0 : List Byte) : RxFrame).handle = some (wCtx : Ctx))
    ∧ ((wCtx : Ctx).tport = (0 : Fin 12).val)
    ∧ ((wCtx : Ctx).peer = (9 : Nat))
    ∧ ((kcpFrame 0 ([0xA5, 2, 5, 7, 2, 3, 0, 11, 0x44, 0, 0, 1, 0, 0, 0, 0, 0] ++ List.replicate 8 0 : List Byte) : RxFrame).auth ≠ (wCtx : Ctx).ks.isSome ∨ (wCtx : Ctx).ks.all (fun k => tag8 k (kcpFrame 0 ([0xA5, 2, 5, 7, 2, 3, 0, 11, 0x44, 0, 0, 1, 0, 0, 0, 0, 0] ++ List.replicate 8 0 : List Byte) : RxFrame).signed == (kcpFrame 0 ([0xA5, 2, 5, 7, 2, 3, 0, 11, 0x44, 0, 0, 1, 0, 0, 0, 0, 0] ++ List.replicate 8 0 : List Byte) : RxFrame).tag) = false))
    ∧ ((wKp.kpRuns = true)
    ∧ (16 ≤ (([0xA5, 2, 5, 7, 2, 3, 0, 11, 6, 0, 0, 1, 0, 0, 0, 0, 0] : List Byte) : List Byte).length)
    ∧ ((([0xA5, 2, 5, 7, 2, 3, 0, 11, 6, 0, 0, 1, 0, 0, 0, 0, 0] : List Byte) : List Byte).length ≤ frameMax (0 : Fin 12).val)
    ∧ (3 ≤ (0 : Fin 12).val → (0 : Fin 12).val < 11 → wKp.is (KCP_CAN_EN (((0 : Fin 12).val - 3) % 4)) = true)
    ∧ (wKp.is SYSC_BOOT_RECOV = true → (0 : Fin 12).val = 11)
    ∧ (payU (([0xA5, 2, 5, 7, 2, 3, 0, 11, 6, 0, 0, 1, 0, 0, 0, 0, 0] : List Byte) : List Byte) 0 1 = 0xA5)
    ∧ (bitOf 7 (payU (([0xA5, 2, 5, 7, 2, 3, 0, 11, 6, 0, 0, 1, 0, 0, 0, 0, 0] : List Byte) : List Byte) 8 1) = false)
    ∧ (bitOf 4 (payU (([0xA5, 2, 5, 7, 2, 3, 0, 11, 6, 0, 0, 1, 0, 0, 0, 0, 0] : List Byte) : List Byte) 8 1) = false)
    ∧ (bitOf 3 (payU (([0xA5, 2, 5, 7, 2, 3, 0, 11, 6, 0, 0, 1, 0, 0, 0, 0, 0] : List Byte) : List Byte) 8 1) = false)
    ∧ (payU (([0xA5, 2, 5, 7, 2, 3, 0, 11, 6, 0, 0, 1, 0, 0, 0, 0, 0] : List Byte) : List Byte) 14 2 = 0)
    ∧ ((kcpFrame 0 ([0xA5, 2, 5, 7, 2, 3, 0, 11, 6, 0, 0, 1, 0, 0, 0, 0, 0] : List Byte) : RxFrame) = kcpFrame (0 : Fin 12).val (([0xA5, 2, 5, 7, 2, 3, 0, 11, 6, 0, 0, 1, 0, 0, 0, 0, 0] : List Byte) : List Byte))
    ∧ (payU (([0xA5, 2, 5, 7, 2, 3, 0, 11, 6, 0, 0, 1, 0, 0, 0, 0, 0] : List Byte) : List Byte) 1 1 = 2)
    ∧ ((kcpFrame 0 ([0xA5, 2, 5, 7, 2, 3, 0, 11, 6, 0, 0, 1, 0, 0, 0, 0, 0] : List Byte) : RxFrame).complete (0 : Fin 12).val = true)
    ∧ ((kcpFrame 0 ([0xA5, 2, 5, 7, 2, 3, 0, 11, 6, 0, 0, 1, 0, 0, 0, 0, 0] : List Byte) : RxFrame).op ≠ 0x0101)
    ∧ ((wKp.leaseExpire ((kcpFrame 0 ([0xA5, 2, 5, 7, 2, 3, 0, 11, 6, 0, 0, 1, 0, 0, 0, 0, 0] : List Byte) : RxFrame).handle / 256)).session (kcpFrame 0 ([0xA5, 2, 5, 7, 2, 3, 0, 11, 6, 0, 0, 1, 0, 0, 0, 0, 0] : List Byte) : RxFrame).handle = some (wCtx : Ctx))
    ∧ ((wCtx : Ctx).tport = (0 : Fin 12).val)
    ∧ ((wCtx : Ctx).peer = (9 : Nat))
    ∧ ((kcpFrame 0 ([0xA5, 2, 5, 7, 2, 3, 0, 11, 6, 0, 0, 1, 0, 0, 0, 0, 0] : List Byte) : RxFrame).auth = (wCtx : Ctx).ks.isSome)
    ∧ ((wCtx : Ctx).ks.all (fun k => tag8 k (kcpFrame 0 ([0xA5, 2, 5, 7, 2, 3, 0, 11, 6, 0, 0, 1, 0, 0, 0, 0, 0] : List Byte) : RxFrame).signed == (kcpFrame 0 ([0xA5, 2, 5, 7, 2, 3, 0, 11, 6, 0, 0, 1, 0, 0, 0, 0, 0] : List Byte) : RxFrame).tag) = true)
    ∧ ((tokOf 5 wCtx 0x0203 11 6 : Tok) = tokOf ((kcpFrame 0 ([0xA5, 2, 5, 7, 2, 3, 0, 11, 6, 0, 0, 1, 0, 0, 0, 0, 0] : List Byte) : RxFrame).handle / 256) (wCtx : Ctx) (kcpFrame 0 ([0xA5, 2, 5, 7, 2, 3, 0, 11, 6, 0, 0, 1, 0, 0, 0, 0, 0] : List Byte) : RxFrame).op (kcpFrame 0 ([0xA5, 2, 5, 7, 2, 3, 0, 11, 6, 0, 0, 1, 0, 0, 0, 0, 0] : List Byte) : RxFrame).seq (kcpFrame 0 ([0xA5, 2, 5, 7, 2, 3, 0, 11, 6, 0, 0, 1, 0, 0, 0, 0, 0] : List Byte) : RxFrame).cls)
    ∧ (6 ≤ (kcpFrame 0 ([0xA5, 2, 5, 7, 2, 3, 0, 11, 6, 0, 0, 1, 0, 0, 0, 0, 0] : List Byte) : RxFrame).cls))
    ∧ (((wKp.setKcp { wKp.kcp with ctxs := [(5, { wCtx with classes := 1 })] }).kpRuns = true)
    ∧ (16 ≤ (([0xA5, 2, 5, 7, 2, 3, 0, 11, 4, 0, 0, 1, 0, 0, 0, 0, 0] : List Byte) : List Byte).length)
    ∧ ((([0xA5, 2, 5, 7, 2, 3, 0, 11, 4, 0, 0, 1, 0, 0, 0, 0, 0] : List Byte) : List Byte).length ≤ frameMax (0 : Fin 12).val)
    ∧ (3 ≤ (0 : Fin 12).val → (0 : Fin 12).val < 11 → (wKp.setKcp { wKp.kcp with ctxs := [(5, { wCtx with classes := 1 })] }).is (KCP_CAN_EN (((0 : Fin 12).val - 3) % 4)) = true)
    ∧ ((wKp.setKcp { wKp.kcp with ctxs := [(5, { wCtx with classes := 1 })] }).is SYSC_BOOT_RECOV = true → (0 : Fin 12).val = 11)
    ∧ (payU (([0xA5, 2, 5, 7, 2, 3, 0, 11, 4, 0, 0, 1, 0, 0, 0, 0, 0] : List Byte) : List Byte) 0 1 = 0xA5)
    ∧ (bitOf 7 (payU (([0xA5, 2, 5, 7, 2, 3, 0, 11, 4, 0, 0, 1, 0, 0, 0, 0, 0] : List Byte) : List Byte) 8 1) = false)
    ∧ (bitOf 4 (payU (([0xA5, 2, 5, 7, 2, 3, 0, 11, 4, 0, 0, 1, 0, 0, 0, 0, 0] : List Byte) : List Byte) 8 1) = false)
    ∧ (bitOf 3 (payU (([0xA5, 2, 5, 7, 2, 3, 0, 11, 4, 0, 0, 1, 0, 0, 0, 0, 0] : List Byte) : List Byte) 8 1) = false)
    ∧ (payU (([0xA5, 2, 5, 7, 2, 3, 0, 11, 4, 0, 0, 1, 0, 0, 0, 0, 0] : List Byte) : List Byte) 14 2 = 0)
    ∧ ((kcpFrame 0 ([0xA5, 2, 5, 7, 2, 3, 0, 11, 4, 0, 0, 1, 0, 0, 0, 0, 0] : List Byte) : RxFrame) = kcpFrame (0 : Fin 12).val (([0xA5, 2, 5, 7, 2, 3, 0, 11, 4, 0, 0, 1, 0, 0, 0, 0, 0] : List Byte) : List Byte))
    ∧ (payU (([0xA5, 2, 5, 7, 2, 3, 0, 11, 4, 0, 0, 1, 0, 0, 0, 0, 0] : List Byte) : List Byte) 1 1 = 2)
    ∧ ((kcpFrame 0 ([0xA5, 2, 5, 7, 2, 3, 0, 11, 4, 0, 0, 1, 0, 0, 0, 0, 0] : List Byte) : RxFrame).complete (0 : Fin 12).val = true)
    ∧ ((kcpFrame 0 ([0xA5, 2, 5, 7, 2, 3, 0, 11, 4, 0, 0, 1, 0, 0, 0, 0, 0] : List Byte) : RxFrame).op ≠ 0x0101)
    ∧ (((wKp.setKcp { wKp.kcp with ctxs := [(5, { wCtx with classes := 1 })] }).leaseExpire ((kcpFrame 0 ([0xA5, 2, 5, 7, 2, 3, 0, 11, 4, 0, 0, 1, 0, 0, 0, 0, 0] : List Byte) : RxFrame).handle / 256)).session (kcpFrame 0 ([0xA5, 2, 5, 7, 2, 3, 0, 11, 4, 0, 0, 1, 0, 0, 0, 0, 0] : List Byte) : RxFrame).handle = some ({ wCtx with classes := 1 } : Ctx))
    ∧ (({ wCtx with classes := 1 } : Ctx).tport = (0 : Fin 12).val)
    ∧ (({ wCtx with classes := 1 } : Ctx).peer = (9 : Nat))
    ∧ ((kcpFrame 0 ([0xA5, 2, 5, 7, 2, 3, 0, 11, 4, 0, 0, 1, 0, 0, 0, 0, 0] : List Byte) : RxFrame).auth = ({ wCtx with classes := 1 } : Ctx).ks.isSome)
    ∧ (({ wCtx with classes := 1 } : Ctx).ks.all (fun k => tag8 k (kcpFrame 0 ([0xA5, 2, 5, 7, 2, 3, 0, 11, 4, 0, 0, 1, 0, 0, 0, 0, 0] : List Byte) : RxFrame).signed == (kcpFrame 0 ([0xA5, 2, 5, 7, 2, 3, 0, 11, 4, 0, 0, 1, 0, 0, 0, 0, 0] : List Byte) : RxFrame).tag) = true)
    ∧ ((tokOf 5 wCtx 0x0203 11 4 : Tok) = tokOf ((kcpFrame 0 ([0xA5, 2, 5, 7, 2, 3, 0, 11, 4, 0, 0, 1, 0, 0, 0, 0, 0] : List Byte) : RxFrame).handle / 256) ({ wCtx with classes := 1 } : Ctx) (kcpFrame 0 ([0xA5, 2, 5, 7, 2, 3, 0, 11, 4, 0, 0, 1, 0, 0, 0, 0, 0] : List Byte) : RxFrame).op (kcpFrame 0 ([0xA5, 2, 5, 7, 2, 3, 0, 11, 4, 0, 0, 1, 0, 0, 0, 0, 0] : List Byte) : RxFrame).seq (kcpFrame 0 ([0xA5, 2, 5, 7, 2, 3, 0, 11, 4, 0, 0, 1, 0, 0, 0, 0, 0] : List Byte) : RxFrame).cls)
    ∧ ((kcpFrame 0 ([0xA5, 2, 5, 7, 2, 3, 0, 11, 4, 0, 0, 1, 0, 0, 0, 0, 0] : List Byte) : RxFrame).cls < 6)
    ∧ (bitOf (kcpFrame 0 ([0xA5, 2, 5, 7, 2, 3, 0, 11, 4, 0, 0, 1, 0, 0, 0, 0, 0] : List Byte) : RxFrame).cls ({ wCtx with classes := 1 } : Ctx).classes = false ∨ (opKeyed (kcpFrame 0 ([0xA5, 2, 5, 7, 2, 3, 0, 11, 4, 0, 0, 1, 0, 0, 0, 0, 0] : List Byte) : RxFrame).op = true ∧ ({ wCtx with classes := 1 } : Ctx).slot = 0xF)))
    ∧ ((wKp.kpRuns = true)
    ∧ (16 ≤ (([0xA5, 2, 5, 7, 2, 3, 0, 10, 4, 0, 0, 1, 0, 0, 0, 0, 0] : List Byte) : List Byte).length)
    ∧ ((([0xA5, 2, 5, 7, 2, 3, 0, 10, 4, 0, 0, 1, 0, 0, 0, 0, 0] : List Byte) : List Byte).length ≤ frameMax (0 : Fin 12).val)
    ∧ (3 ≤ (0 : Fin 12).val → (0 : Fin 12).val < 11 → wKp.is (KCP_CAN_EN (((0 : Fin 12).val - 3) % 4)) = true)
    ∧ (wKp.is SYSC_BOOT_RECOV = true → (0 : Fin 12).val = 11)
    ∧ (payU (([0xA5, 2, 5, 7, 2, 3, 0, 10, 4, 0, 0, 1, 0, 0, 0, 0, 0] : List Byte) : List Byte) 0 1 = 0xA5)
    ∧ (bitOf 7 (payU (([0xA5, 2, 5, 7, 2, 3, 0, 10, 4, 0, 0, 1, 0, 0, 0, 0, 0] : List Byte) : List Byte) 8 1) = false)
    ∧ (bitOf 4 (payU (([0xA5, 2, 5, 7, 2, 3, 0, 10, 4, 0, 0, 1, 0, 0, 0, 0, 0] : List Byte) : List Byte) 8 1) = false)
    ∧ (bitOf 3 (payU (([0xA5, 2, 5, 7, 2, 3, 0, 10, 4, 0, 0, 1, 0, 0, 0, 0, 0] : List Byte) : List Byte) 8 1) = false)
    ∧ (payU (([0xA5, 2, 5, 7, 2, 3, 0, 10, 4, 0, 0, 1, 0, 0, 0, 0, 0] : List Byte) : List Byte) 14 2 = 0)
    ∧ ((kcpFrame 0 ([0xA5, 2, 5, 7, 2, 3, 0, 10, 4, 0, 0, 1, 0, 0, 0, 0, 0] : List Byte) : RxFrame) = kcpFrame (0 : Fin 12).val (([0xA5, 2, 5, 7, 2, 3, 0, 10, 4, 0, 0, 1, 0, 0, 0, 0, 0] : List Byte) : List Byte))
    ∧ (payU (([0xA5, 2, 5, 7, 2, 3, 0, 10, 4, 0, 0, 1, 0, 0, 0, 0, 0] : List Byte) : List Byte) 1 1 = 2)
    ∧ ((kcpFrame 0 ([0xA5, 2, 5, 7, 2, 3, 0, 10, 4, 0, 0, 1, 0, 0, 0, 0, 0] : List Byte) : RxFrame).complete (0 : Fin 12).val = true)
    ∧ ((kcpFrame 0 ([0xA5, 2, 5, 7, 2, 3, 0, 10, 4, 0, 0, 1, 0, 0, 0, 0, 0] : List Byte) : RxFrame).op ≠ 0x0101)
    ∧ ((wKp.leaseExpire ((kcpFrame 0 ([0xA5, 2, 5, 7, 2, 3, 0, 10, 4, 0, 0, 1, 0, 0, 0, 0, 0] : List Byte) : RxFrame).handle / 256)).session (kcpFrame 0 ([0xA5, 2, 5, 7, 2, 3, 0, 10, 4, 0, 0, 1, 0, 0, 0, 0, 0] : List Byte) : RxFrame).handle = some (wCtx : Ctx))
    ∧ ((wCtx : Ctx).tport = (0 : Fin 12).val)
    ∧ ((wCtx : Ctx).peer = (9 : Nat))
    ∧ ((kcpFrame 0 ([0xA5, 2, 5, 7, 2, 3, 0, 10, 4, 0, 0, 1, 0, 0, 0, 0, 0] : List Byte) : RxFrame).auth = (wCtx : Ctx).ks.isSome)
    ∧ ((wCtx : Ctx).ks.all (fun k => tag8 k (kcpFrame 0 ([0xA5, 2, 5, 7, 2, 3, 0, 10, 4, 0, 0, 1, 0, 0, 0, 0, 0] : List Byte) : RxFrame).signed == (kcpFrame 0 ([0xA5, 2, 5, 7, 2, 3, 0, 10, 4, 0, 0, 1, 0, 0, 0, 0, 0] : List Byte) : RxFrame).tag) = true)
    ∧ ((tokOf 5 wCtx 0x0203 10 4 : Tok) = tokOf ((kcpFrame 0 ([0xA5, 2, 5, 7, 2, 3, 0, 10, 4, 0, 0, 1, 0, 0, 0, 0, 0] : List Byte) : RxFrame).handle / 256) (wCtx : Ctx) (kcpFrame 0 ([0xA5, 2, 5, 7, 2, 3, 0, 10, 4, 0, 0, 1, 0, 0, 0, 0, 0] : List Byte) : RxFrame).op (kcpFrame 0 ([0xA5, 2, 5, 7, 2, 3, 0, 10, 4, 0, 0, 1, 0, 0, 0, 0, 0] : List Byte) : RxFrame).seq (kcpFrame 0 ([0xA5, 2, 5, 7, 2, 3, 0, 10, 4, 0, 0, 1, 0, 0, 0, 0, 0] : List Byte) : RxFrame).cls)
    ∧ ((kcpFrame 0 ([0xA5, 2, 5, 7, 2, 3, 0, 10, 4, 0, 0, 1, 0, 0, 0, 0, 0] : List Byte) : RxFrame).cls < 6)
    ∧ (bitOf (kcpFrame 0 ([0xA5, 2, 5, 7, 2, 3, 0, 10, 4, 0, 0, 1, 0, 0, 0, 0, 0] : List Byte) : RxFrame).cls (wCtx : Ctx).classes = true)
    ∧ (opKeyed (kcpFrame 0 ([0xA5, 2, 5, 7, 2, 3, 0, 10, 4, 0, 0, 1, 0, 0, 0, 0, 0] : List Byte) : RxFrame).op = true → (wCtx : Ctx).slot ≠ 0xF)
    ∧ ((wKp.leaseExpire ((kcpFrame 0 ([0xA5, 2, 5, 7, 2, 3, 0, 10, 4, 0, 0, 1, 0, 0, 0, 0, 0] : List Byte) : RxFrame).handle / 256)).reasmOf ((kcpFrame 0 ([0xA5, 2, 5, 7, 2, 3, 0, 10, 4, 0, 0, 1, 0, 0, 0, 0, 0] : List Byte) : RxFrame).handle / 256) (kcpFrame 0 ([0xA5, 2, 5, 7, 2, 3, 0, 10, 4, 0, 0, 1, 0, 0, 0, 0, 0] : List Byte) : RxFrame).seq = none)
    ∧ (seqDist (wCtx : Ctx).h (kcpFrame 0 ([0xA5, 2, 5, 7, 2, 3, 0, 10, 4, 0, 0, 1, 0, 0, 0, 0, 0] : List Byte) : RxFrame).seq = 0 ∨ 65473 ≤ seqDist (wCtx : Ctx).h (kcpFrame 0 ([0xA5, 2, 5, 7, 2, 3, 0, 10, 4, 0, 0, 1, 0, 0, 0, 0, 0] : List Byte) : RxFrame).seq)
    ∧ (lookupKey (kcpFrame 0 ([0xA5, 2, 5, 7, 2, 3, 0, 10, 4, 0, 0, 1, 0, 0, 0, 0, 0] : List Byte) : RxFrame).seq (wCtx : Ctx).seen = some (0 : Nat)))
    ∧ ((wKp.kpRuns = true)
    ∧ (16 ≤ (([0xA5, 2, 5, 7, 2, 3, 0xA0, 0, 4, 0, 0, 1, 0, 0, 0, 0, 0] : List Byte) : List Byte).length)
    ∧ ((([0xA5, 2, 5, 7, 2, 3, 0xA0, 0, 4, 0, 0, 1, 0, 0, 0, 0, 0] : List Byte) : List Byte).length ≤ frameMax (0 : Fin 12).val)
    ∧ (3 ≤ (0 : Fin 12).val → (0 : Fin 12).val < 11 → wKp.is (KCP_CAN_EN (((0 : Fin 12).val - 3) % 4)) = true)
    ∧ (wKp.is SYSC_BOOT_RECOV = true → (0 : Fin 12).val = 11)
    ∧ (payU (([0xA5, 2, 5, 7, 2, 3, 0xA0, 0, 4, 0, 0, 1, 0, 0, 0, 0, 0] : List Byte) : List Byte) 0 1 = 0xA5)
    ∧ (bitOf 7 (payU (([0xA5, 2, 5, 7, 2, 3, 0xA0, 0, 4, 0, 0, 1, 0, 0, 0, 0, 0] : List Byte) : List Byte) 8 1) = false)
    ∧ (bitOf 4 (payU (([0xA5, 2, 5, 7, 2, 3, 0xA0, 0, 4, 0, 0, 1, 0, 0, 0, 0, 0] : List Byte) : List Byte) 8 1) = false)
    ∧ (bitOf 3 (payU (([0xA5, 2, 5, 7, 2, 3, 0xA0, 0, 4, 0, 0, 1, 0, 0, 0, 0, 0] : List Byte) : List Byte) 8 1) = false)
    ∧ (payU (([0xA5, 2, 5, 7, 2, 3, 0xA0, 0, 4, 0, 0, 1, 0, 0, 0, 0, 0] : List Byte) : List Byte) 14 2 = 0)
    ∧ ((kcpFrame 0 ([0xA5, 2, 5, 7, 2, 3, 0xA0, 0, 4, 0, 0, 1, 0, 0, 0, 0, 0] : List Byte) : RxFrame) = kcpFrame (0 : Fin 12).val (([0xA5, 2, 5, 7, 2, 3, 0xA0, 0, 4, 0, 0, 1, 0, 0, 0, 0, 0] : List Byte) : List Byte))
    ∧ (payU (([0xA5, 2, 5, 7, 2, 3, 0xA0, 0, 4, 0, 0, 1, 0, 0, 0, 0, 0] : List Byte) : List Byte) 1 1 = 2)
    ∧ ((kcpFrame 0 ([0xA5, 2, 5, 7, 2, 3, 0xA0, 0, 4, 0, 0, 1, 0, 0, 0, 0, 0] : List Byte) : RxFrame).complete (0 : Fin 12).val = true)
    ∧ ((kcpFrame 0 ([0xA5, 2, 5, 7, 2, 3, 0xA0, 0, 4, 0, 0, 1, 0, 0, 0, 0, 0] : List Byte) : RxFrame).op ≠ 0x0101)
    ∧ ((wKp.leaseExpire ((kcpFrame 0 ([0xA5, 2, 5, 7, 2, 3, 0xA0, 0, 4, 0, 0, 1, 0, 0, 0, 0, 0] : List Byte) : RxFrame).handle / 256)).session (kcpFrame 0 ([0xA5, 2, 5, 7, 2, 3, 0xA0, 0, 4, 0, 0, 1, 0, 0, 0, 0, 0] : List Byte) : RxFrame).handle = some (wCtx : Ctx))
    ∧ ((wCtx : Ctx).tport = (0 : Fin 12).val)
    ∧ ((wCtx : Ctx).peer = (9 : Nat))
    ∧ ((kcpFrame 0 ([0xA5, 2, 5, 7, 2, 3, 0xA0, 0, 4, 0, 0, 1, 0, 0, 0, 0, 0] : List Byte) : RxFrame).auth = (wCtx : Ctx).ks.isSome)
    ∧ ((wCtx : Ctx).ks.all (fun k => tag8 k (kcpFrame 0 ([0xA5, 2, 5, 7, 2, 3, 0xA0, 0, 4, 0, 0, 1, 0, 0, 0, 0, 0] : List Byte) : RxFrame).signed == (kcpFrame 0 ([0xA5, 2, 5, 7, 2, 3, 0xA0, 0, 4, 0, 0, 1, 0, 0, 0, 0, 0] : List Byte) : RxFrame).tag) = true)
    ∧ ((tokOf 5 wCtx 0x0203 0xA000 4 : Tok) = tokOf ((kcpFrame 0 ([0xA5, 2, 5, 7, 2, 3, 0xA0, 0, 4, 0, 0, 1, 0, 0, 0, 0, 0] : List Byte) : RxFrame).handle / 256) (wCtx : Ctx) (kcpFrame 0 ([0xA5, 2, 5, 7, 2, 3, 0xA0, 0, 4, 0, 0, 1, 0, 0, 0, 0, 0] : List Byte) : RxFrame).op (kcpFrame 0 ([0xA5, 2, 5, 7, 2, 3, 0xA0, 0, 4, 0, 0, 1, 0, 0, 0, 0, 0] : List Byte) : RxFrame).seq (kcpFrame 0 ([0xA5, 2, 5, 7, 2, 3, 0xA0, 0, 4, 0, 0, 1, 0, 0, 0, 0, 0] : List Byte) : RxFrame).cls)
    ∧ ((kcpFrame 0 ([0xA5, 2, 5, 7, 2, 3, 0xA0, 0, 4, 0, 0, 1, 0, 0, 0, 0, 0] : List Byte) : RxFrame).cls < 6)
    ∧ (bitOf (kcpFrame 0 ([0xA5, 2, 5, 7, 2, 3, 0xA0, 0, 4, 0, 0, 1, 0, 0, 0, 0, 0] : List Byte) : RxFrame).cls (wCtx : Ctx).classes = true)
    ∧ (opKeyed (kcpFrame 0 ([0xA5, 2, 5, 7, 2, 3, 0xA0, 0, 4, 0, 0, 1, 0, 0, 0, 0, 0] : List Byte) : RxFrame).op = true → (wCtx : Ctx).slot ≠ 0xF)
    ∧ ((wKp.leaseExpire ((kcpFrame 0 ([0xA5, 2, 5, 7, 2, 3, 0xA0, 0, 4, 0, 0, 1, 0, 0, 0, 0, 0] : List Byte) : RxFrame).handle / 256)).reasmOf ((kcpFrame 0 ([0xA5, 2, 5, 7, 2, 3, 0xA0, 0, 4, 0, 0, 1, 0, 0, 0, 0, 0] : List Byte) : RxFrame).handle / 256) (kcpFrame 0 ([0xA5, 2, 5, 7, 2, 3, 0xA0, 0, 4, 0, 0, 1, 0, 0, 0, 0, 0] : List Byte) : RxFrame).seq = none)
    ∧ (32768 ≤ seqDist (wCtx : Ctx).h (kcpFrame 0 ([0xA5, 2, 5, 7, 2, 3, 0xA0, 0, 4, 0, 0, 1, 0, 0, 0, 0, 0] : List Byte) : RxFrame).seq)
    ∧ (seqDist (wCtx : Ctx).h (kcpFrame 0 ([0xA5, 2, 5, 7, 2, 3, 0xA0, 0, 4, 0, 0, 1, 0, 0, 0, 0, 0] : List Byte) : RxFrame).seq < 65473))
    ∧ ((wKp.kpRuns = true)
    ∧ (16 ≤ (([0xA5, 2, 5, 7, 0x7F, 0, 0, 11, 4, 0, 0, 1, 0, 0, 0, 0, 0] : List Byte) : List Byte).length)
    ∧ ((([0xA5, 2, 5, 7, 0x7F, 0, 0, 11, 4, 0, 0, 1, 0, 0, 0, 0, 0] : List Byte) : List Byte).length ≤ frameMax (0 : Fin 12).val)
    ∧ (3 ≤ (0 : Fin 12).val → (0 : Fin 12).val < 11 → wKp.is (KCP_CAN_EN (((0 : Fin 12).val - 3) % 4)) = true)
    ∧ (wKp.is SYSC_BOOT_RECOV = true → (0 : Fin 12).val = 11)
    ∧ (payU (([0xA5, 2, 5, 7, 0x7F, 0, 0, 11, 4, 0, 0, 1, 0, 0, 0, 0, 0] : List Byte) : List Byte) 0 1 = 0xA5)
    ∧ (bitOf 7 (payU (([0xA5, 2, 5, 7, 0x7F, 0, 0, 11, 4, 0, 0, 1, 0, 0, 0, 0, 0] : List Byte) : List Byte) 8 1) = false)
    ∧ (bitOf 4 (payU (([0xA5, 2, 5, 7, 0x7F, 0, 0, 11, 4, 0, 0, 1, 0, 0, 0, 0, 0] : List Byte) : List Byte) 8 1) = false)
    ∧ (bitOf 3 (payU (([0xA5, 2, 5, 7, 0x7F, 0, 0, 11, 4, 0, 0, 1, 0, 0, 0, 0, 0] : List Byte) : List Byte) 8 1) = false)
    ∧ (payU (([0xA5, 2, 5, 7, 0x7F, 0, 0, 11, 4, 0, 0, 1, 0, 0, 0, 0, 0] : List Byte) : List Byte) 14 2 = 0)
    ∧ ((kcpFrame 0 ([0xA5, 2, 5, 7, 0x7F, 0, 0, 11, 4, 0, 0, 1, 0, 0, 0, 0, 0] : List Byte) : RxFrame) = kcpFrame (0 : Fin 12).val (([0xA5, 2, 5, 7, 0x7F, 0, 0, 11, 4, 0, 0, 1, 0, 0, 0, 0, 0] : List Byte) : List Byte))
    ∧ (payU (([0xA5, 2, 5, 7, 0x7F, 0, 0, 11, 4, 0, 0, 1, 0, 0, 0, 0, 0] : List Byte) : List Byte) 1 1 = 2)
    ∧ ((kcpFrame 0 ([0xA5, 2, 5, 7, 0x7F, 0, 0, 11, 4, 0, 0, 1, 0, 0, 0, 0, 0] : List Byte) : RxFrame).complete (0 : Fin 12).val = true)
    ∧ ((kcpFrame 0 ([0xA5, 2, 5, 7, 0x7F, 0, 0, 11, 4, 0, 0, 1, 0, 0, 0, 0, 0] : List Byte) : RxFrame).op ≠ 0x0101)
    ∧ ((wKp.leaseExpire ((kcpFrame 0 ([0xA5, 2, 5, 7, 0x7F, 0, 0, 11, 4, 0, 0, 1, 0, 0, 0, 0, 0] : List Byte) : RxFrame).handle / 256)).session (kcpFrame 0 ([0xA5, 2, 5, 7, 0x7F, 0, 0, 11, 4, 0, 0, 1, 0, 0, 0, 0, 0] : List Byte) : RxFrame).handle = some (wCtx : Ctx))
    ∧ ((wCtx : Ctx).tport = (0 : Fin 12).val)
    ∧ ((wCtx : Ctx).peer = (9 : Nat))
    ∧ ((kcpFrame 0 ([0xA5, 2, 5, 7, 0x7F, 0, 0, 11, 4, 0, 0, 1, 0, 0, 0, 0, 0] : List Byte) : RxFrame).auth = (wCtx : Ctx).ks.isSome)
    ∧ ((wCtx : Ctx).ks.all (fun k => tag8 k (kcpFrame 0 ([0xA5, 2, 5, 7, 0x7F, 0, 0, 11, 4, 0, 0, 1, 0, 0, 0, 0, 0] : List Byte) : RxFrame).signed == (kcpFrame 0 ([0xA5, 2, 5, 7, 0x7F, 0, 0, 11, 4, 0, 0, 1, 0, 0, 0, 0, 0] : List Byte) : RxFrame).tag) = true)
    ∧ ((tokOf 5 wCtx 0x7F00 11 4 : Tok) = tokOf ((kcpFrame 0 ([0xA5, 2, 5, 7, 0x7F, 0, 0, 11, 4, 0, 0, 1, 0, 0, 0, 0, 0] : List Byte) : RxFrame).handle / 256) (wCtx : Ctx) (kcpFrame 0 ([0xA5, 2, 5, 7, 0x7F, 0, 0, 11, 4, 0, 0, 1, 0, 0, 0, 0, 0] : List Byte) : RxFrame).op (kcpFrame 0 ([0xA5, 2, 5, 7, 0x7F, 0, 0, 11, 4, 0, 0, 1, 0, 0, 0, 0, 0] : List Byte) : RxFrame).seq (kcpFrame 0 ([0xA5, 2, 5, 7, 0x7F, 0, 0, 11, 4, 0, 0, 1, 0, 0, 0, 0, 0] : List Byte) : RxFrame).cls)
    ∧ ((kcpFrame 0 ([0xA5, 2, 5, 7, 0x7F, 0, 0, 11, 4, 0, 0, 1, 0, 0, 0, 0, 0] : List Byte) : RxFrame).cls < 6)
    ∧ (bitOf (kcpFrame 0 ([0xA5, 2, 5, 7, 0x7F, 0, 0, 11, 4, 0, 0, 1, 0, 0, 0, 0, 0] : List Byte) : RxFrame).cls (wCtx : Ctx).classes = true)
    ∧ (opKeyed (kcpFrame 0 ([0xA5, 2, 5, 7, 0x7F, 0, 0, 11, 4, 0, 0, 1, 0, 0, 0, 0, 0] : List Byte) : RxFrame).op = true → (wCtx : Ctx).slot ≠ 0xF)
    ∧ ((wKp.leaseExpire ((kcpFrame 0 ([0xA5, 2, 5, 7, 0x7F, 0, 0, 11, 4, 0, 0, 1, 0, 0, 0, 0, 0] : List Byte) : RxFrame).handle / 256)).reasmOf ((kcpFrame 0 ([0xA5, 2, 5, 7, 0x7F, 0, 0, 11, 4, 0, 0, 1, 0, 0, 0, 0, 0] : List Byte) : RxFrame).handle / 256) (kcpFrame 0 ([0xA5, 2, 5, 7, 0x7F, 0, 0, 11, 4, 0, 0, 1, 0, 0, 0, 0, 0] : List Byte) : RxFrame).seq = none)
    ∧ (newSeq (wCtx : Ctx) (kcpFrame 0 ([0xA5, 2, 5, 7, 0x7F, 0, 0, 11, 4, 0, 0, 1, 0, 0, 0, 0, 0] : List Byte) : RxFrame).seq)
    ∧ ((wKp.leaseExpire ((kcpFrame 0 ([0xA5, 2, 5, 7, 0x7F, 0, 0, 11, 4, 0, 0, 1, 0, 0, 0, 0, 0] : List Byte) : RxFrame).handle / 256)).opRefusal (tokOf 5 wCtx 0x7F00 11 4 : Tok) = some ((stBadOpcode : Nat), ([] : List Byte)))) := by
  and_intros <;> decide +kernel

theorem witness_frames_and_hspi_transactions_part3 :
    ((wKp.kpRuns = true)
    ∧ (16 ≤ (([0xA5, 2, 5, 7, 2, 3, 0, 11, 0x24, 0, 0, 1, 0, 0, 0, 0] ++ List.replicate 1456 0 : List Byte) : List Byte).length)
    ∧ ((([0xA5, 2, 5, 7, 2, 3, 0, 11, 0x24, 0, 0, 1, 0, 0, 0, 0] ++ List.replicate 1456 0 : List Byte) : List Byte).length ≤ frameMax (0 : Fin 12).val)
    ∧ (3 ≤ (0 : Fin 12).val → (0 : Fin 12).val < 11 → wKp.is (KCP_CAN_EN (((0 : Fin 12).val - 3) % 4)) = true)
    ∧ (wKp.is SYSC_BOOT_RECOV = true → (0 : Fin 12).val = 11)
    ∧ (payU (([0xA5, 2, 5, 7, 2, 3, 0, 11, 0x24, 0, 0, 1, 0, 0, 0, 0] ++ List.replicate 1456 0 : List Byte) : List Byte) 0 1 = 0xA5)
    ∧ (bitOf 7 (payU (([0xA5, 2, 5, 7, 2, 3, 0, 11, 0x24, 0, 0, 1, 0, 0, 0, 0] ++ List.replicate 1456 0 : List Byte) : List Byte) 8 1) = false)
    ∧ (bitOf 4 (payU (([0xA5, 2, 5, 7, 2, 3, 0, 11, 0x24, 0, 0, 1, 0, 0, 0, 0] ++ List.replicate 1456 0 : List Byte) : List Byte) 8 1) = false)
    ∧ (bitOf 3 (payU (([0xA5, 2, 5, 7, 2, 3, 0, 11, 0x24, 0, 0, 1, 0, 0, 0, 0] ++ List.replicate 1456 0 : List Byte) : List Byte) 8 1) = false)
    ∧ (payU (([0xA5, 2, 5, 7, 2, 3, 0, 11, 0x24, 0, 0, 1, 0, 0, 0, 0] ++ List.replicate 1456 0 : List Byte) : List Byte) 14 2 = 0)
    ∧ ((kcpFrame 0 ([0xA5, 2, 5, 7, 2, 3, 0, 11, 0x24, 0, 0, 1, 0, 0, 0, 0] ++ List.replicate 1456 0 : List Byte) : RxFrame) = kcpFrame (0 : Fin 12).val (([0xA5, 2, 5, 7, 2, 3, 0, 11, 0x24, 0, 0, 1, 0, 0, 0, 0] ++ List.replicate 1456 0 : List Byte) : List Byte))
    ∧ (payU (([0xA5, 2, 5, 7, 2, 3, 0, 11, 0x24, 0, 0, 1, 0, 0, 0, 0] ++ List.replicate 1456 0 : List Byte) : List Byte) 1 1 = 2)
    ∧ ((kcpFrame 0 ([0xA5, 2, 5, 7, 2, 3, 0, 11, 0x24, 0, 0, 1, 0, 0, 0, 0] ++ List.replicate 1456 0 : List Byte) : RxFrame).complete (0 : Fin 12).val = true)
    ∧ ((kcpFrame 0 ([0xA5, 2, 5, 7, 2, 3, 0, 11, 0x24, 0, 0, 1, 0, 0, 0, 0] ++ List.replicate 1456 0 : List Byte) : RxFrame).op ≠ 0x0101)
    ∧ ((wKp.leaseExpire ((kcpFrame 0 ([0xA5, 2, 5, 7, 2, 3, 0, 11, 0x24, 0, 0, 1, 0, 0, 0, 0] ++ List.replicate 1456 0 : List Byte) : RxFrame).handle / 256)).session (kcpFrame 0 ([0xA5, 2, 5, 7, 2, 3, 0, 11, 0x24, 0, 0, 1, 0, 0, 0, 0] ++ List.replicate 1456 0 : List Byte) : RxFrame).handle = some (wCtx : Ctx))
    ∧ ((wCtx : Ctx).tport = (0 : Fin 12).val)
    ∧ ((wCtx : Ctx).peer = (9 : Nat))
    ∧ ((kcpFrame 0 ([0xA5, 2, 5, 7, 2, 3, 0, 11, 0x24, 0, 0, 1, 0, 0, 0, 0] ++ List.replicate 1456 0 : List Byte) : RxFrame).auth = (wCtx : Ctx).ks.isSome)
    ∧ ((wCtx : Ctx).ks.all (fun k => tag8 k (kcpFrame 0 ([0xA5, 2, 5, 7, 2, 3, 0, 11, 0x24, 0, 0, 1, 0, 0, 0, 0] ++ List.replicate 1456 0 : List Byte) : RxFrame).signed == (kcpFrame 0 ([0xA5, 2, 5, 7, 2, 3, 0, 11, 0x24, 0, 0, 1, 0, 0, 0, 0] ++ List.replicate 1456 0 : List Byte) : RxFrame).tag) = true)
    ∧ ((tokOf 5 wCtx 0x0203 11 4 : Tok) = tokOf ((kcpFrame 0 ([0xA5, 2, 5, 7, 2, 3, 0, 11, 0x24, 0, 0, 1, 0, 0, 0, 0] ++ List.replicate 1456 0 : List Byte) : RxFrame).handle / 256) (wCtx : Ctx) (kcpFrame 0 ([0xA5, 2, 5, 7, 2, 3, 0, 11, 0x24, 0, 0, 1, 0, 0, 0, 0] ++ List.replicate 1456 0 : List Byte) : RxFrame).op (kcpFrame 0 ([0xA5, 2, 5, 7, 2, 3, 0, 11, 0x24, 0, 0, 1, 0, 0, 0, 0] ++ List.replicate 1456 0 : List Byte) : RxFrame).seq (kcpFrame 0 ([0xA5, 2, 5, 7, 2, 3, 0, 11, 0x24, 0, 0, 1, 0, 0, 0, 0] ++ List.replicate 1456 0 : List Byte) : RxFrame).cls)
    ∧ ((kcpFrame 0 ([0xA5, 2, 5, 7, 2, 3, 0, 11, 0x24, 0, 0, 1, 0, 0, 0, 0] ++ List.replicate 1456 0 : List Byte) : RxFrame).cls < 6)
    ∧ (bitOf (kcpFrame 0 ([0xA5, 2, 5, 7, 2, 3, 0, 11, 0x24, 0, 0, 1, 0, 0, 0, 0] ++ List.replicate 1456 0 : List Byte) : RxFrame).cls (wCtx : Ctx).classes = true)
    ∧ (opKeyed (kcpFrame 0 ([0xA5, 2, 5, 7, 2, 3, 0, 11, 0x24, 0, 0, 1, 0, 0, 0, 0] ++ List.replicate 1456 0 : List Byte) : RxFrame).op = true → (wCtx : Ctx).slot ≠ 0xF)
    ∧ ((wKp.leaseExpire ((kcpFrame 0 ([0xA5, 2, 5, 7, 2, 3, 0, 11, 0x24, 0, 0, 1, 0, 0, 0, 0] ++ List.replicate 1456 0 : List Byte) : RxFrame).handle / 256)).reasmOf ((kcpFrame 0 ([0xA5, 2, 5, 7, 2, 3, 0, 11, 0x24, 0, 0, 1, 0, 0, 0, 0] ++ List.replicate 1456 0 : List Byte) : RxFrame).handle / 256) (kcpFrame 0 ([0xA5, 2, 5, 7, 2, 3, 0, 11, 0x24, 0, 0, 1, 0, 0, 0, 0] ++ List.replicate 1456 0 : List Byte) : RxFrame).seq = none)
    ∧ (newSeq (wCtx : Ctx) (kcpFrame 0 ([0xA5, 2, 5, 7, 2, 3, 0, 11, 0x24, 0, 0, 1, 0, 0, 0, 0] ++ List.replicate 1456 0 : List Byte) : RxFrame).seq)
    ∧ ((wKp.leaseExpire ((kcpFrame 0 ([0xA5, 2, 5, 7, 2, 3, 0, 11, 0x24, 0, 0, 1, 0, 0, 0, 0] ++ List.replicate 1456 0 : List Byte) : RxFrame).handle / 256)).opRefusal (tokOf 5 wCtx 0x0203 11 4 : Tok) = none)
    ∧ ((kcpFrame 0 ([0xA5, 2, 5, 7, 2, 3, 0, 11, 0x24, 0, 0, 1, 0, 0, 0, 0] ++ List.replicate 1456 0 : List Byte) : RxFrame).fits (0 : Fin 12).val = false))
    ∧ ((wKp.kpRuns = true)
    ∧ (16 ≤ (([0xA5, 2, 5, 7, 2, 3, 0, 11, 4, 0, 0, 1, 0, 0, 0, 0, 0] : List Byte) : List Byte).length)
    ∧ ((([0xA5, 2, 5, 7, 2, 3, 0, 11, 4, 0, 0, 1, 0, 0, 0, 0, 0] : List Byte) : List Byte).length ≤ frameMax (0 : Fin 12).val)
    ∧ (3 ≤ (0 : Fin 12).val → (0 : Fin 12).val < 11 → wKp.is (KCP_CAN_EN (((0 : Fin 12).val - 3) % 4)) = true)
    ∧ (wKp.is SYSC_BOOT_RECOV = true → (0 : Fin 12).val = 11)
    ∧ (payU (([0xA5, 2, 5, 7, 2, 3, 0, 11, 4, 0, 0, 1, 0, 0, 0, 0, 0] : List Byte) : List Byte) 0 1 = 0xA5)
    ∧ (bitOf 7 (payU (([0xA5, 2, 5, 7, 2, 3, 0, 11, 4, 0, 0, 1, 0, 0, 0, 0, 0] : List Byte) : List Byte) 8 1) = false)
    ∧ (bitOf 4 (payU (([0xA5, 2, 5, 7, 2, 3, 0, 11, 4, 0, 0, 1, 0, 0, 0, 0, 0] : List Byte) : List Byte) 8 1) = false)
    ∧ (bitOf 3 (payU (([0xA5, 2, 5, 7, 2, 3, 0, 11, 4, 0, 0, 1, 0, 0, 0, 0, 0] : List Byte) : List Byte) 8 1) = false)
    ∧ (payU (([0xA5, 2, 5, 7, 2, 3, 0, 11, 4, 0, 0, 1, 0, 0, 0, 0, 0] : List Byte) : List Byte) 14 2 = 0)
    ∧ ((kcpFrame 0 ([0xA5, 2, 5, 7, 2, 3, 0, 11, 4, 0, 0, 1, 0, 0, 0, 0, 0] : List Byte) : RxFrame) = kcpFrame (0 : Fin 12).val (([0xA5, 2, 5, 7, 2, 3, 0, 11, 4, 0, 0, 1, 0, 0, 0, 0, 0] : List Byte) : List Byte))
    ∧ (payU (([0xA5, 2, 5, 7, 2, 3, 0, 11, 4, 0, 0, 1, 0, 0, 0, 0, 0] : List Byte) : List Byte) 1 1 = 2)
    ∧ ((kcpFrame 0 ([0xA5, 2, 5, 7, 2, 3, 0, 11, 4, 0, 0, 1, 0, 0, 0, 0, 0] : List Byte) : RxFrame).complete (0 : Fin 12).val = true)
    ∧ ((kcpFrame 0 ([0xA5, 2, 5, 7, 2, 3, 0, 11, 4, 0, 0, 1, 0, 0, 0, 0, 0] : List Byte) : RxFrame).op ≠ 0x0101)
    ∧ ((wKp.leaseExpire ((kcpFrame 0 ([0xA5, 2, 5, 7, 2, 3, 0, 11, 4, 0, 0, 1, 0, 0, 0, 0, 0] : List Byte) : RxFrame).handle / 256)).session (kcpFrame 0 ([0xA5, 2, 5, 7, 2, 3, 0, 11, 4, 0, 0, 1, 0, 0, 0, 0, 0] : List Byte) : RxFrame).handle = some (wCtx : Ctx))
    ∧ ((wCtx : Ctx).tport = (0 : Fin 12).val)
    ∧ ((wCtx : Ctx).peer = (9 : Nat))
    ∧ ((kcpFrame 0 ([0xA5, 2, 5, 7, 2, 3, 0, 11, 4, 0, 0, 1, 0, 0, 0, 0, 0] : List Byte) : RxFrame).auth = (wCtx : Ctx).ks.isSome)
    ∧ ((wCtx : Ctx).ks.all (fun k => tag8 k (kcpFrame 0 ([0xA5, 2, 5, 7, 2, 3, 0, 11, 4, 0, 0, 1, 0, 0, 0, 0, 0] : List Byte) : RxFrame).signed == (kcpFrame 0 ([0xA5, 2, 5, 7, 2, 3, 0, 11, 4, 0, 0, 1, 0, 0, 0, 0, 0] : List Byte) : RxFrame).tag) = true)
    ∧ ((tokOf 5 wCtx 0x0203 11 4 : Tok) = tokOf ((kcpFrame 0 ([0xA5, 2, 5, 7, 2, 3, 0, 11, 4, 0, 0, 1, 0, 0, 0, 0, 0] : List Byte) : RxFrame).handle / 256) (wCtx : Ctx) (kcpFrame 0 ([0xA5, 2, 5, 7, 2, 3, 0, 11, 4, 0, 0, 1, 0, 0, 0, 0, 0] : List Byte) : RxFrame).op (kcpFrame 0 ([0xA5, 2, 5, 7, 2, 3, 0, 11, 4, 0, 0, 1, 0, 0, 0, 0, 0] : List Byte) : RxFrame).seq (kcpFrame 0 ([0xA5, 2, 5, 7, 2, 3, 0, 11, 4, 0, 0, 1, 0, 0, 0, 0, 0] : List Byte) : RxFrame).cls)
    ∧ ((kcpFrame 0 ([0xA5, 2, 5, 7, 2, 3, 0, 11, 4, 0, 0, 1, 0, 0, 0, 0, 0] : List Byte) : RxFrame).cls < 6)
    ∧ (bitOf (kcpFrame 0 ([0xA5, 2, 5, 7, 2, 3, 0, 11, 4, 0, 0, 1, 0, 0, 0, 0, 0] : List Byte) : RxFrame).cls (wCtx : Ctx).classes = true)
    ∧ (opKeyed (kcpFrame 0 ([0xA5, 2, 5, 7, 2, 3, 0, 11, 4, 0, 0, 1, 0, 0, 0, 0, 0] : List Byte) : RxFrame).op = true → (wCtx : Ctx).slot ≠ 0xF)
    ∧ ((wKp.leaseExpire ((kcpFrame 0 ([0xA5, 2, 5, 7, 2, 3, 0, 11, 4, 0, 0, 1, 0, 0, 0, 0, 0] : List Byte) : RxFrame).handle / 256)).reasmOf ((kcpFrame 0 ([0xA5, 2, 5, 7, 2, 3, 0, 11, 4, 0, 0, 1, 0, 0, 0, 0, 0] : List Byte) : RxFrame).handle / 256) (kcpFrame 0 ([0xA5, 2, 5, 7, 2, 3, 0, 11, 4, 0, 0, 1, 0, 0, 0, 0, 0] : List Byte) : RxFrame).seq = none)
    ∧ (newSeq (wCtx : Ctx) (kcpFrame 0 ([0xA5, 2, 5, 7, 2, 3, 0, 11, 4, 0, 0, 1, 0, 0, 0, 0, 0] : List Byte) : RxFrame).seq)
    ∧ ((wKp.leaseExpire ((kcpFrame 0 ([0xA5, 2, 5, 7, 2, 3, 0, 11, 4, 0, 0, 1, 0, 0, 0, 0, 0] : List Byte) : RxFrame).handle / 256)).opRefusal (tokOf 5 wCtx 0x0203 11 4 : Tok) = none)
    ∧ ((kcpFrame 0 ([0xA5, 2, 5, 7, 2, 3, 0, 11, 4, 0, 0, 1, 0, 0, 0, 0, 0] : List Byte) : RxFrame).fits (0 : Fin 12).val = true)
    ∧ ((kcpFrame 0 ([0xA5, 2, 5, 7, 2, 3, 0, 11, 4, 0, 0, 1, 0, 0, 0, 0, 0] : List Byte) : RxFrame).off = 0)
    ∧ ((kcpFrame 0 ([0xA5, 2, 5, 7, 2, 3, 0, 11, 4, 0, 0, 1, 0, 0, 0, 0, 0] : List Byte) : RxFrame).more = false))
    ∧ (((wKp.setKcp { wKp.kcp with reasm := List.replicate 16 ⟨8, [0xA5, 2, 5, 7, 2, 3, 0, 11, 4, 0, 0, 9], [], 0⟩ }).kpRuns = true)
    ∧ (16 ≤ ((wFirst : List Byte) : List Byte).length)
    ∧ (((wFirst : List Byte) : List Byte).length ≤ frameMax (0 : Fin 12).val)
    ∧ (3 ≤ (0 : Fin 12).val → (0 : Fin 12).val < 11 → (wKp.setKcp { wKp.kcp with reasm := List.replicate 16 ⟨8, [0xA5, 2, 5, 7, 2, 3, 0, 11, 4, 0, 0, 9], [], 0⟩ }).is (KCP_CAN_EN (((0 : Fin 12).val - 3) % 4)) = true)
    ∧ ((wKp.setKcp { wKp.kcp with reasm := List.replicate 16 ⟨8, [0xA5, 2, 5, 7, 2, 3, 0, 11, 4, 0, 0, 9], [], 0⟩ }).is SYSC_BOOT_RECOV = true → (0 : Fin 12).val = 11)
    ∧ (payU ((wFirst : List Byte) : List Byte) 0 1 = 0xA5)
    ∧ (bitOf 7 (payU ((wFirst : List Byte) : List Byte) 8 1) = false)
    ∧ (bitOf 4 (payU ((wFirst : List Byte) : List Byte) 8 1) = false)
    ∧ (bitOf 3 (payU ((wFirst : List Byte) : List Byte) 8 1) = false)
    ∧ (payU ((wFirst : List Byte) : List Byte) 14 2 = 0)
    ∧ ((kcpFrame 0 (wFirst : List Byte) : RxFrame) = kcpFrame (0 : Fin 12).val ((wFirst : List Byte) : List Byte))
    ∧ (payU ((wFirst : List Byte) : List Byte) 1 1 = 2)
    ∧ ((kcpFrame 0 (wFirst : List Byte) : RxFrame).complete (0 : Fin 12).val = true)
    ∧ ((kcpFrame 0 (wFirst : List Byte) : RxFrame).op ≠ 0x0101)
    ∧ (((wKp.setKcp { wKp.kcp with reasm := List.replicate 16 ⟨8, [0xA5, 2, 5, 7, 2, 3, 0, 11, 4, 0, 0, 9], [], 0⟩ }).leaseExpire ((kcpFrame 0 (wFirst : List Byte) : RxFrame).handle / 256)).session (kcpFrame 0 (wFirst : List Byte) : RxFrame).handle = some (wCtx : Ctx))
    ∧ ((wCtx : Ctx).tport = (0 : Fin 12).val)
    ∧ ((wCtx : Ctx).peer = (9 : Nat))
    ∧ ((kcpFrame 0 (wFirst : List Byte) : RxFrame).auth = (wCtx : Ctx).ks.isSome)
    ∧ ((wCtx : Ctx).ks.all (fun k => tag8 k (kcpFrame 0 (wFirst : List Byte) : RxFrame).signed == (kcpFrame 0 (wFirst : List Byte) : RxFrame).tag) = true)
    ∧ ((tokOf 5 wCtx 0x0203 11 4 : Tok) = tokOf ((kcpFrame 0 (wFirst : List Byte) : RxFrame).handle / 256) (wCtx : Ctx) (kcpFrame 0 (wFirst : List Byte) : RxFrame).op (kcpFrame 0 (wFirst : List Byte) : RxFrame).seq (kcpFrame 0 (wFirst : List Byte) : RxFrame).cls)
    ∧ ((kcpFrame 0 (wFirst : List Byte) : RxFrame).cls < 6)
    ∧ (bitOf (kcpFrame 0 (wFirst : List Byte) : RxFrame).cls (wCtx : Ctx).classes = true)
    ∧ (opKeyed (kcpFrame 0 (wFirst : List Byte) : RxFrame).op = true → (wCtx : Ctx).slot ≠ 0xF)
    ∧ (((wKp.setKcp { wKp.kcp with reasm := List.replicate 16 ⟨8, [0xA5, 2, 5, 7, 2, 3, 0, 11, 4, 0, 0, 9], [], 0⟩ }).leaseExpire ((kcpFrame 0 (wFirst : List Byte) : RxFrame).handle / 256)).reasmOf ((kcpFrame 0 (wFirst : List Byte) : RxFrame).handle / 256) (kcpFrame 0 (wFirst : List Byte) : RxFrame).seq = none)
    ∧ (newSeq (wCtx : Ctx) (kcpFrame 0 (wFirst : List Byte) : RxFrame).seq)
    ∧ (((wKp.setKcp { wKp.kcp with reasm := List.replicate 16 ⟨8, [0xA5, 2, 5, 7, 2, 3, 0, 11, 4, 0, 0, 9], [], 0⟩ }).leaseExpire ((kcpFrame 0 (wFirst : List Byte) : RxFrame).handle / 256)).opRefusal (tokOf 5 wCtx 0x0203 11 4 : Tok) = none)
    ∧ ((kcpFrame 0 (wFirst : List Byte) : RxFrame).fits (0 : Fin 12).val = true)
    ∧ ((kcpFrame 0 (wFirst : List Byte) : RxFrame).off ≠ 0 ∨ (kcpFrame 0 (wFirst : List Byte) : RxFrame).more = true)
    ∧ (16 ≤ ((wKp.setKcp { wKp.kcp with reasm := List.replicate 16 ⟨8, [0xA5, 2, 5, 7, 2, 3, 0, 11, 4, 0, 0, 9], [], 0⟩ }).leaseExpire ((kcpFrame 0 (wFirst : List Byte) : RxFrame).handle / 256)).kcp.reasm.length))
    ∧ ((wKp.kpRuns = true)
    ∧ (16 ≤ ((wFirst : List Byte) : List Byte).length)
    ∧ (((wFirst : List Byte) : List Byte).length ≤ frameMax (0 : Fin 12).val)
    ∧ (3 ≤ (0 : Fin 12).val → (0 : Fin 12).val < 11 → wKp.is (KCP_CAN_EN (((0 : Fin 12).val - 3) % 4)) = true)
    ∧ (wKp.is SYSC_BOOT_RECOV = true → (0 : Fin 12).val = 11)
    ∧ (payU ((wFirst : List Byte) : List Byte) 0 1 = 0xA5)
    ∧ (bitOf 7 (payU ((wFirst : List Byte) : List Byte) 8 1) = false)
    ∧ (bitOf 4 (payU ((wFirst : List Byte) : List Byte) 8 1) = false)
    ∧ (bitOf 3 (payU ((wFirst : List Byte) : List Byte) 8 1) = false)
    ∧ (payU ((wFirst : List Byte) : List Byte) 14 2 = 0)
    ∧ ((kcpFrame 0 (wFirst : List Byte) : RxFrame) = kcpFrame (0 : Fin 12).val ((wFirst : List Byte) : List Byte))
    ∧ (payU ((wFirst : List Byte) : List Byte) 1 1 = 2)
    ∧ ((kcpFrame 0 (wFirst : List Byte) : RxFrame).complete (0 : Fin 12).val = true)
    ∧ ((kcpFrame 0 (wFirst : List Byte) : RxFrame).op ≠ 0x0101)
    ∧ ((wKp.leaseExpire ((kcpFrame 0 (wFirst : List Byte) : RxFrame).handle / 256)).session (kcpFrame 0 (wFirst : List Byte) : RxFrame).handle = some (wCtx : Ctx))
    ∧ ((wCtx : Ctx).tport = (0 : Fin 12).val)
    ∧ ((wCtx : Ctx).peer = (9 : Nat))
    ∧ ((kcpFrame 0 (wFirst : List Byte) : RxFrame).auth = (wCtx : Ctx).ks.isSome)
    ∧ ((wCtx : Ctx).ks.all (fun k => tag8 k (kcpFrame 0 (wFirst : List Byte) : RxFrame).signed == (kcpFrame 0 (wFirst : List Byte) : RxFrame).tag) = true)
    ∧ ((tokOf 5 wCtx 0x0203 11 4 : Tok) = tokOf ((kcpFrame 0 (wFirst : List Byte) : RxFrame).handle / 256) (wCtx : Ctx) (kcpFrame 0 (wFirst : List Byte) : RxFrame).op (kcpFrame 0 (wFirst : List Byte) : RxFrame).seq (kcpFrame 0 (wFirst : List Byte) : RxFrame).cls)
    ∧ ((kcpFrame 0 (wFirst : List Byte) : RxFrame).cls < 6)
    ∧ (bitOf (kcpFrame 0 (wFirst : List Byte) : RxFrame).cls (wCtx : Ctx).classes = true)
    ∧ (opKeyed (kcpFrame 0 (wFirst : List Byte) : RxFrame).op = true → (wCtx : Ctx).slot ≠ 0xF)
    ∧ ((wKp.leaseExpire ((kcpFrame 0 (wFirst : List Byte) : RxFrame).handle / 256)).reasmOf ((kcpFrame 0 (wFirst : List Byte) : RxFrame).handle / 256) (kcpFrame 0 (wFirst : List Byte) : RxFrame).seq = none)
    ∧ (newSeq (wCtx : Ctx) (kcpFrame 0 (wFirst : List Byte) : RxFrame).seq)
    ∧ ((wKp.leaseExpire ((kcpFrame 0 (wFirst : List Byte) : RxFrame).handle / 256)).opRefusal (tokOf 5 wCtx 0x0203 11 4 : Tok) = none)
    ∧ ((kcpFrame 0 (wFirst : List Byte) : RxFrame).fits (0 : Fin 12).val = true)
    ∧ ((kcpFrame 0 (wFirst : List Byte) : RxFrame).off ≠ 0 ∨ (kcpFrame 0 (wFirst : List Byte) : RxFrame).more = true)
    ∧ ((wKp.leaseExpire ((kcpFrame 0 (wFirst : List Byte) : RxFrame).handle / 256)).kcp.reasm.length < 16))
    ∧ (((wKp.setKcp { wKp.kcp with reasm := [⟨5, [0xA5, 2, 5, 7, 2, 3, 0, 11, 4, 0, 0, 2], [(0, [7], true)], 0⟩] }).kpRuns = true)
    ∧ (16 ≤ (([0xA5, 2, 5, 7, 2, 3, 0, 11, 4, 0, 0, 3, 0, 1, 0, 0, 8, 9] : List Byte) : List Byte).length)
    ∧ ((([0xA5, 2, 5, 7, 2, 3, 0, 11, 4, 0, 0, 3, 0, 1, 0, 0, 8, 9] : List Byte) : List Byte).length ≤ frameMax (0 : Fin 12).val)
    ∧ (3 ≤ (0 : Fin 12).val → (0 : Fin 12).val < 11 → (wKp.setKcp { wKp.kcp with reasm := [⟨5, [0xA5, 2, 5, 7, 2, 3, 0, 11, 4, 0, 0, 2], [(0, [7], true)], 0⟩] }).is (KCP_CAN_EN (((0 : Fin 12).val - 3) % 4)) = true)
    ∧ ((wKp.setKcp { wKp.kcp with reasm := [⟨5, [0xA5, 2, 5, 7, 2, 3, 0, 11, 4, 0, 0, 2], [(0, [7], true)], 0⟩] }).is SYSC_BOOT_RECOV = true → (0 : Fin 12).val = 11)
    ∧ (payU (([0xA5, 2, 5, 7, 2, 3, 0, 11, 4, 0, 0, 3, 0, 1, 0, 0, 8, 9] : List Byte) : List Byte) 0 1 = 0xA5)
    ∧ (bitOf 7 (payU (([0xA5, 2, 5, 7, 2, 3, 0, 11, 4, 0, 0, 3, 0, 1, 0, 0, 8, 9] : List Byte) : List Byte) 8 1) = false)
    ∧ (bitOf 4 (payU (([0xA5, 2, 5, 7, 2, 3, 0, 11, 4, 0, 0, 3, 0, 1, 0, 0, 8, 9] : List Byte) : List Byte) 8 1) = false)
    ∧ (bitOf 3 (payU (([0xA5, 2, 5, 7, 2, 3, 0, 11, 4, 0, 0, 3, 0, 1, 0, 0, 8, 9] : List Byte) : List Byte) 8 1) = false)
    ∧ (payU (([0xA5, 2, 5, 7, 2, 3, 0, 11, 4, 0, 0, 3, 0, 1, 0, 0, 8, 9] : List Byte) : List Byte) 14 2 = 0)
    ∧ ((kcpFrame 0 ([0xA5, 2, 5, 7, 2, 3, 0, 11, 4, 0, 0, 3, 0, 1, 0, 0, 8, 9] : List Byte) : RxFrame) = kcpFrame (0 : Fin 12).val (([0xA5, 2, 5, 7, 2, 3, 0, 11, 4, 0, 0, 3, 0, 1, 0, 0, 8, 9] : List Byte) : List Byte))
    ∧ (payU (([0xA5, 2, 5, 7, 2, 3, 0, 11, 4, 0, 0, 3, 0, 1, 0, 0, 8, 9] : List Byte) : List Byte) 1 1 = 2)
    ∧ ((kcpFrame 0 ([0xA5, 2, 5, 7, 2, 3, 0, 11, 4, 0, 0, 3, 0, 1, 0, 0, 8, 9] : List Byte) : RxFrame).complete (0 : Fin 12).val = true)
    ∧ ((kcpFrame 0 ([0xA5, 2, 5, 7, 2, 3, 0, 11, 4, 0, 0, 3, 0, 1, 0, 0, 8, 9] : List Byte) : RxFrame).op ≠ 0x0101)
    ∧ (((wKp.setKcp { wKp.kcp with reasm := [⟨5, [0xA5, 2, 5, 7, 2, 3, 0, 11, 4, 0, 0, 2], [(0, [7], true)], 0⟩] }).leaseExpire ((kcpFrame 0 ([0xA5, 2, 5, 7, 2, 3, 0, 11, 4, 0, 0, 3, 0, 1, 0, 0, 8, 9] : List Byte) : RxFrame).handle / 256)).session (kcpFrame 0 ([0xA5, 2, 5, 7, 2, 3, 0, 11, 4, 0, 0, 3, 0, 1, 0, 0, 8, 9] : List Byte) : RxFrame).handle = some (wCtx : Ctx))
    ∧ ((wCtx : Ctx).tport = (0 : Fin 12).val)
    ∧ ((wCtx : Ctx).peer = (9 : Nat))
    ∧ ((kcpFrame 0 ([0xA5, 2, 5, 7, 2, 3, 0, 11, 4, 0, 0, 3, 0, 1, 0, 0, 8, 9] : List Byte) : RxFrame).auth = (wCtx : Ctx).ks.isSome)
    ∧ ((wCtx : Ctx).ks.all (fun k => tag8 k (kcpFrame 0 ([0xA5, 2, 5, 7, 2, 3, 0, 11, 4, 0, 0, 3, 0, 1, 0, 0, 8, 9] : List Byte) : RxFrame).signed == (kcpFrame 0 ([0xA5, 2, 5, 7, 2, 3, 0, 11, 4, 0, 0, 3, 0, 1, 0, 0, 8, 9] : List Byte) : RxFrame).tag) = true)
    ∧ ((tokOf 5 wCtx 0x0203 11 4 : Tok) = tokOf ((kcpFrame 0 ([0xA5, 2, 5, 7, 2, 3, 0, 11, 4, 0, 0, 3, 0, 1, 0, 0, 8, 9] : List Byte) : RxFrame).handle / 256) (wCtx : Ctx) (kcpFrame 0 ([0xA5, 2, 5, 7, 2, 3, 0, 11, 4, 0, 0, 3, 0, 1, 0, 0, 8, 9] : List Byte) : RxFrame).op (kcpFrame 0 ([0xA5, 2, 5, 7, 2, 3, 0, 11, 4, 0, 0, 3, 0, 1, 0, 0, 8, 9] : List Byte) : RxFrame).seq (kcpFrame 0 ([0xA5, 2, 5, 7, 2, 3, 0, 11, 4, 0, 0, 3, 0, 1, 0, 0, 8, 9] : List Byte) : RxFrame).cls)
    ∧ ((kcpFrame 0 ([0xA5, 2, 5, 7, 2, 3, 0, 11, 4, 0, 0, 3, 0, 1, 0, 0, 8, 9] : List Byte) : RxFrame).cls < 6)
    ∧ (bitOf (kcpFrame 0 ([0xA5, 2, 5, 7, 2, 3, 0, 11, 4, 0, 0, 3, 0, 1, 0, 0, 8, 9] : List Byte) : RxFrame).cls (wCtx : Ctx).classes = true)
    ∧ (opKeyed (kcpFrame 0 ([0xA5, 2, 5, 7, 2, 3, 0, 11, 4, 0, 0, 3, 0, 1, 0, 0, 8, 9] : List Byte) : RxFrame).op = true → (wCtx : Ctx).slot ≠ 0xF)
    ∧ (((wKp.setKcp { wKp.kcp with reasm := [⟨5, [0xA5, 2, 5, 7, 2, 3, 0, 11, 4, 0, 0, 2], [(0, [7], true)], 0⟩] }).leaseExpire ((kcpFrame 0 ([0xA5, 2, 5, 7, 2, 3, 0, 11, 4, 0, 0, 3, 0, 1, 0, 0, 8, 9] : List Byte) : RxFrame).handle / 256)).reasmOf ((kcpFrame 0 ([0xA5, 2, 5, 7, 2, 3, 0, 11, 4, 0, 0, 3, 0, 1, 0, 0, 8, 9] : List Byte) : RxFrame).handle / 256) (kcpFrame 0 ([0xA5, 2, 5, 7, 2, 3, 0, 11, 4, 0, 0, 3, 0, 1, 0, 0, 8, 9] : List Byte) : RxFrame).seq = some (⟨5, [0xA5, 2, 5, 7, 2, 3, 0, 11, 4, 0, 0, 2], [(0, [7], true)], 0⟩ : Reasm))
    ∧ (rxHdr (kcpFrame 0 ([0xA5, 2, 5, 7, 2, 3, 0, 11, 4, 0, 0, 3, 0, 1, 0, 0, 8, 9] : List Byte) : RxFrame) ≠ (⟨5, [0xA5, 2, 5, 7, 2, 3, 0, 11, 4, 0, 0, 2], [(0, [7], true)], 0⟩ : Reasm).hdr ∨ (kcpFrame 0 ([0xA5, 2, 5, 7, 2, 3, 0, 11, 4, 0, 0, 3, 0, 1, 0, 0, 8, 9] : List Byte) : RxFrame).fits (0 : Fin 12).val = false ∨ (⟨5, [0xA5, 2, 5, 7, 2, 3, 0, 11, 4, 0, 0, 2], [(0, [7], true)], 0⟩ : Reasm).parts.any (fun (o : Nat × List Byte × Bool) => partsClash (kcpFrame 0 ([0xA5, 2, 5, 7, 2, 3, 0, 11, 4, 0, 0, 3, 0, 1, 0, 0, 8, 9] : List Byte) : RxFrame).off (kcpFrame 0 ([0xA5, 2, 5, 7, 2, 3, 0, 11, 4, 0, 0, 3, 0, 1, 0, 0, 8, 9] : List Byte) : RxFrame).data o) = true))
    ∧ (((wKp.setKcp { wKp.kcp with reasm := [wReasm] }).kpRuns = true)
    ∧ (16 ≤ ((wFirst : List Byte) : List Byte).length)
    ∧ (((wFirst : List Byte) : List Byte).length ≤ frameMax (0 : Fin 12).val)
    ∧ (3 ≤ (0 : Fin 12).val → (0 : Fin 12).val < 11 → (wKp.setKcp { wKp.kcp with reasm := [wReasm] }).is (KCP_CAN_EN (((0 : Fin 12).val - 3) % 4)) = true)
    ∧ ((wKp.setKcp { wKp.kcp with reasm := [wReasm] }).is SYSC_BOOT_RECOV = true → (0 : Fin 12).val = 11)
    ∧ (payU ((wFirst : List Byte) : List Byte) 0 1 = 0xA5)
    ∧ (bitOf 7 (payU ((wFirst : List Byte) : List Byte) 8 1) = false)
    ∧ (bitOf 4 (payU ((wFirst : List Byte) : List Byte) 8 1) = false)
    ∧ (bitOf 3 (payU ((wFirst : List Byte) : List Byte) 8 1) = false)
    ∧ (payU ((wFirst : List Byte) : List Byte) 14 2 = 0)
    ∧ ((kcpFrame 0 (wFirst : List Byte) : RxFrame) = kcpFrame (0 : Fin 12).val ((wFirst : List Byte) : List Byte))
    ∧ (payU ((wFirst : List Byte) : List Byte) 1 1 = 2)
    ∧ ((kcpFrame 0 (wFirst : List Byte) : RxFrame).complete (0 : Fin 12).val = true)
    ∧ ((kcpFrame 0 (wFirst : List Byte) : RxFrame).op ≠ 0x0101)
    ∧ (((wKp.setKcp { wKp.kcp with reasm := [wReasm] }).leaseExpire ((kcpFrame 0 (wFirst : List Byte) : RxFrame).handle / 256)).session (kcpFrame 0 (wFirst : List Byte) : RxFrame).handle = some (wCtx : Ctx))
    ∧ ((wCtx : Ctx).tport = (0 : Fin 12).val)
    ∧ ((wCtx : Ctx).peer = (9 : Nat))
    ∧ ((kcpFrame 0 (wFirst : List Byte) : RxFrame).auth = (wCtx : Ctx).ks.isSome)
    ∧ ((wCtx : Ctx).ks.all (fun k => tag8 k (kcpFrame 0 (wFirst : List Byte) : RxFrame).signed == (kcpFrame 0 (wFirst : List Byte) : RxFrame).tag) = true)
    ∧ ((tokOf 5 wCtx 0x0203 11 4 : Tok) = tokOf ((kcpFrame 0 (wFirst : List Byte) : RxFrame).handle / 256) (wCtx : Ctx) (kcpFrame 0 (wFirst : List Byte) : RxFrame).op (kcpFrame 0 (wFirst : List Byte) : RxFrame).seq (kcpFrame 0 (wFirst : List Byte) : RxFrame).cls)
    ∧ ((kcpFrame 0 (wFirst : List Byte) : RxFrame).cls < 6)
    ∧ (bitOf (kcpFrame 0 (wFirst : List Byte) : RxFrame).cls (wCtx : Ctx).classes = true)
    ∧ (opKeyed (kcpFrame 0 (wFirst : List Byte) : RxFrame).op = true → (wCtx : Ctx).slot ≠ 0xF)
    ∧ (((wKp.setKcp { wKp.kcp with reasm := [wReasm] }).leaseExpire ((kcpFrame 0 (wFirst : List Byte) : RxFrame).handle / 256)).reasmOf ((kcpFrame 0 (wFirst : List Byte) : RxFrame).handle / 256) (kcpFrame 0 (wFirst : List Byte) : RxFrame).seq = some (wReasm : Reasm))
    ∧ (rxHdr (kcpFrame 0 (wFirst : List Byte) : RxFrame) = (wReasm : Reasm).hdr)
    ∧ ((kcpFrame 0 (wFirst : List Byte) : RxFrame).fits (0 : Fin 12).val = true)
    ∧ ((wReasm : Reasm).parts.any (fun (o : Nat × List Byte × Bool) => partsClash (kcpFrame 0 (wFirst : List Byte) : RxFrame).off (kcpFrame 0 (wFirst : List Byte) : RxFrame).data o) = false)
    ∧ (reasmPayload { (wReasm : Reasm) with parts := (wReasm : Reasm).parts.filter (fun (o : Nat × List Byte × Bool) => o.1 != (kcpFrame 0 (wFirst : List Byte) : RxFrame).off) ++ [((kcpFrame 0 (wFirst : List Byte) : RxFrame).off, (kcpFrame 0 (wFirst : List Byte) : RxFrame).data, (kcpFrame 0 (wFirst : List Byte) : RxFrame).more)] } (kcpFrame 0 (wFirst : List Byte) : RxFrame).len = none)) := by
  and_intros <;> decide +kernel

theorem witness_frames_and_hspi_transactions_part4 :
    (((wKp.setKcp { wKp.kcp with reasm := [⟨5, [0xA5, 2, 5, 7, 2, 3, 0, 11, 4, 0, 0, 2], [(0, [7], true)], 0⟩] }).kpRuns = true)
    ∧ (16 ≤ (([0xA5, 2, 5, 7, 2, 3, 0, 11, 4, 0, 0, 2, 0, 1, 0, 0, 8] : List Byte) : List Byte).length)
    ∧ ((([0xA5, 2, 5, 7, 2, 3, 0, 11, 4, 0, 0, 2, 0, 1, 0, 0, 8] : List Byte) : List Byte).length ≤ frameMax (0 : Fin 12).val)
    ∧ (3 ≤ (0 : Fin 12).val → (0 : Fin 12).val < 11 → (wKp.setKcp { wKp.kcp with reasm := [⟨5, [0xA5, 2, 5, 7, 2, 3, 0, 11, 4, 0, 0, 2], [(0, [7], true)], 0⟩] }).is (KCP_CAN_EN (((0 : Fin 12).val - 3) % 4)) = true)
    ∧ ((wKp.setKcp { wKp.kcp with reasm := [⟨5, [0xA5, 2, 5, 7, 2, 3, 0, 11, 4, 0, 0, 2], [(0, [7], true)], 0⟩] }).is SYSC_BOOT_RECOV = true → (0 : Fin 12).val = 11)
    ∧ (payU (([0xA5, 2, 5, 7, 2, 3, 0, 11, 4, 0, 0, 2, 0, 1, 0, 0, 8] : List Byte) : List Byte) 0 1 = 0xA5)
    ∧ (bitOf 7 (payU (([0xA5, 2, 5, 7, 2, 3, 0, 11, 4, 0, 0, 2, 0, 1, 0, 0, 8] : List Byte) : List Byte) 8 1) = false)
    ∧ (bitOf 4 (payU (([0xA5, 2, 5, 7, 2, 3, 0, 11, 4, 0, 0, 2, 0, 1, 0, 0, 8] : List Byte) : List Byte) 8 1) = false)
    ∧ (bitOf 3 (payU (([0xA5, 2, 5, 7, 2, 3, 0, 11, 4, 0, 0, 2, 0, 1, 0, 0, 8] : List Byte) : List Byte) 8 1) = false)
    ∧ (payU (([0xA5, 2, 5, 7, 2, 3, 0, 11, 4, 0, 0, 2, 0, 1, 0, 0, 8] : List Byte) : List Byte) 14 2 = 0)
    ∧ ((kcpFrame 0 ([0xA5, 2, 5, 7, 2, 3, 0, 11, 4, 0, 0, 2, 0, 1, 0, 0, 8] : List Byte) : RxFrame) = kcpFrame (0 : Fin 12).val (([0xA5, 2, 5, 7, 2, 3, 0, 11, 4, 0, 0, 2, 0, 1, 0, 0, 8] : List Byte) : List Byte))
    ∧ (payU (([0xA5, 2, 5, 7, 2, 3, 0, 11, 4, 0, 0, 2, 0, 1, 0, 0, 8] : List Byte) : List Byte) 1 1 = 2)
    ∧ ((kcpFrame 0 ([0xA5, 2, 5, 7, 2, 3, 0, 11, 4, 0, 0, 2, 0, 1, 0, 0, 8] : List Byte) : RxFrame).complete (0 : Fin 12).val = true)
    ∧ ((kcpFrame 0 ([0xA5, 2, 5, 7, 2, 3, 0, 11, 4, 0, 0, 2, 0, 1, 0, 0, 8] : List Byte) : RxFrame).op ≠ 0x0101)
    ∧ (((wKp.setKcp { wKp.kcp with reasm := [⟨5, [0xA5, 2, 5, 7, 2, 3, 0, 11, 4, 0, 0, 2], [(0, [7], true)], 0⟩] }).leaseExpire ((kcpFrame 0 ([0xA5, 2, 5, 7, 2, 3, 0, 11, 4, 0, 0, 2, 0, 1, 0, 0, 8] : List Byte) : RxFrame).handle / 256)).session (kcpFrame 0 ([0xA5, 2, 5, 7, 2, 3, 0, 11, 4, 0, 0, 2, 0, 1, 0, 0, 8] : List Byte) : RxFrame).handle = some (wCtx : Ctx))
    ∧ ((wCtx : Ctx).tport = (0 : Fin 12).val)
    ∧ ((wCtx : Ctx).peer = (9 : Nat))
    ∧ ((kcpFrame 0 ([0xA5, 2, 5, 7, 2, 3, 0, 11, 4, 0, 0, 2, 0, 1, 0, 0, 8] : List Byte) : RxFrame).auth = (wCtx : Ctx).ks.isSome)
    ∧ ((wCtx : Ctx).ks.all (fun k => tag8 k (kcpFrame 0 ([0xA5, 2, 5, 7, 2, 3, 0, 11, 4, 0, 0, 2, 0, 1, 0, 0, 8] : List Byte) : RxFrame).signed == (kcpFrame 0 ([0xA5, 2, 5, 7, 2, 3, 0, 11, 4, 0, 0, 2, 0, 1, 0, 0, 8] : List Byte) : RxFrame).tag) = true)
    ∧ ((tokOf 5 wCtx 0x0203 11 4 : Tok) = tokOf ((kcpFrame 0 ([0xA5, 2, 5, 7, 2, 3, 0, 11, 4, 0, 0, 2, 0, 1, 0, 0, 8] : List Byte) : RxFrame).handle / 256) (wCtx : Ctx) (kcpFrame 0 ([0xA5, 2, 5, 7, 2, 3, 0, 11, 4, 0, 0, 2, 0, 1, 0, 0, 8] : List Byte) : RxFrame).op (kcpFrame 0 ([0xA5, 2, 5, 7, 2, 3, 0, 11, 4, 0, 0, 2, 0, 1, 0, 0, 8] : List Byte) : RxFrame).seq (kcpFrame 0 ([0xA5, 2, 5, 7, 2, 3, 0, 11, 4, 0, 0, 2, 0, 1, 0, 0, 8] : List Byte) : RxFrame).cls)
    ∧ ((kcpFrame 0 ([0xA5, 2, 5, 7, 2, 3, 0, 11, 4, 0, 0, 2, 0, 1, 0, 0, 8] : List Byte) : RxFrame).cls < 6)
    ∧ (bitOf (kcpFrame 0 ([0xA5, 2, 5, 7, 2, 3, 0, 11, 4, 0, 0, 2, 0, 1, 0, 0, 8] : List Byte) : RxFrame).cls (wCtx : Ctx).classes = true)
    ∧ (opKeyed (kcpFrame 0 ([0xA5, 2, 5, 7, 2, 3, 0, 11, 4, 0, 0, 2, 0, 1, 0, 0, 8] : List Byte) : RxFrame).op = true → (wCtx : Ctx).slot ≠ 0xF)
    ∧ (((wKp.setKcp { wKp.kcp with reasm := [⟨5, [0xA5, 2, 5, 7, 2, 3, 0, 11, 4, 0, 0, 2], [(0, [7], true)], 0⟩] }).leaseExpire ((kcpFrame 0 ([0xA5, 2, 5, 7, 2, 3, 0, 11, 4, 0, 0, 2, 0, 1, 0, 0, 8] : List Byte) : RxFrame).handle / 256)).reasmOf ((kcpFrame 0 ([0xA5, 2, 5, 7, 2, 3, 0, 11, 4, 0, 0, 2, 0, 1, 0, 0, 8] : List Byte) : RxFrame).handle / 256) (kcpFrame 0 ([0xA5, 2, 5, 7, 2, 3, 0, 11, 4, 0, 0, 2, 0, 1, 0, 0, 8] : List Byte) : RxFrame).seq = some (⟨5, [0xA5, 2, 5, 7, 2, 3, 0, 11, 4, 0, 0, 2], [(0, [7], true)], 0⟩ : Reasm))
    ∧ (rxHdr (kcpFrame 0 ([0xA5, 2, 5, 7, 2, 3, 0, 11, 4, 0, 0, 2, 0, 1, 0, 0, 8] : List Byte) : RxFrame) = (⟨5, [0xA5, 2, 5, 7, 2, 3, 0, 11, 4, 0, 0, 2], [(0, [7], true)], 0⟩ : Reasm).hdr)
    ∧ ((kcpFrame 0 ([0xA5, 2, 5, 7, 2, 3, 0, 11, 4, 0, 0, 2, 0, 1, 0, 0, 8] : List Byte) : RxFrame).fits (0 : Fin 12).val = true)
    ∧ ((⟨5, [0xA5, 2, 5, 7, 2, 3, 0, 11, 4, 0, 0, 2], [(0, [7], true)], 0⟩ : Reasm).parts.any (fun (o : Nat × List Byte × Bool) => partsClash (kcpFrame 0 ([0xA5, 2, 5, 7, 2, 3, 0, 11, 4, 0, 0, 2, 0, 1, 0, 0, 8] : List Byte) : RxFrame).off (kcpFrame 0 ([0xA5, 2, 5, 7, 2, 3, 0, 11, 4, 0, 0, 2, 0, 1, 0, 0, 8] : List Byte) : RxFrame).data o) = false)
    ∧ (reasmPayload { (⟨5, [0xA5, 2, 5, 7, 2, 3, 0, 11, 4, 0, 0, 2], [(0, [7], true)], 0⟩ : Reasm) with parts := (⟨5, [0xA5, 2, 5, 7, 2, 3, 0, 11, 4, 0, 0, 2], [(0, [7], true)], 0⟩ : Reasm).parts.filter (fun (o : Nat × List Byte × Bool) => o.1 != (kcpFrame 0 ([0xA5, 2, 5, 7, 2, 3, 0, 11, 4, 0, 0, 2, 0, 1, 0, 0, 8] : List Byte) : RxFrame).off) ++ [((kcpFrame 0 ([0xA5, 2, 5, 7, 2, 3, 0, 11, 4, 0, 0, 2, 0, 1, 0, 0, 8] : List Byte) : RxFrame).off, (kcpFrame 0 ([0xA5, 2, 5, 7, 2, 3, 0, 11, 4, 0, 0, 2, 0, 1, 0, 0, 8] : List Byte) : RxFrame).data, (kcpFrame 0 ([0xA5, 2, 5, 7, 2, 3, 0, 11, 4, 0, 0, 2, 0, 1, 0, 0, 8] : List Byte) : RxFrame).more)] } (kcpFrame 0 ([0xA5, 2, 5, 7, 2, 3, 0, 11, 4, 0, 0, 2, 0, 1, 0, 0, 8] : List Byte) : RxFrame).len = some ([7, 8] : List Byte)))
    ∧ ((wKp.kpRuns = true)
    ∧ (16 ≤ (([0xA5, 2, 5, 7, 2, 3, 0, 11, 4, 0, 0, 1, 0, 0, 0, 0, 0] : List Byte) : List Byte).length)
    ∧ ((([0xA5, 2, 5, 7, 2, 3, 0, 11, 4, 0, 0, 1, 0, 0, 0, 0, 0] : List Byte) : List Byte).length ≤ frameMax (0 : Fin 12).val)
    ∧ (3 ≤ (0 : Fin 12).val → (0 : Fin 12).val < 11 → wKp.is (KCP_CAN_EN (((0 : Fin 12).val - 3) % 4)) = true)
    ∧ (wKp.is SYSC_BOOT_RECOV = true → (0 : Fin 12).val = 11)
    ∧ (payU (([0xA5, 2, 5, 7, 2, 3, 0, 11, 4, 0, 0, 1, 0, 0, 0, 0, 0] : List Byte) : List Byte) 0 1 = 0xA5)
    ∧ (bitOf 7 (payU (([0xA5, 2, 5, 7, 2, 3, 0, 11, 4, 0, 0, 1, 0, 0, 0, 0, 0] : List Byte) : List Byte) 8 1) = false)
    ∧ (bitOf 4 (payU (([0xA5, 2, 5, 7, 2, 3, 0, 11, 4, 0, 0, 1, 0, 0, 0, 0, 0] : List Byte) : List Byte) 8 1) = false)
    ∧ (bitOf 3 (payU (([0xA5, 2, 5, 7, 2, 3, 0, 11, 4, 0, 0, 1, 0, 0, 0, 0, 0] : List Byte) : List Byte) 8 1) = false)
    ∧ (payU (([0xA5, 2, 5, 7, 2, 3, 0, 11, 4, 0, 0, 1, 0, 0, 0, 0, 0] : List Byte) : List Byte) 14 2 = 0)
    ∧ ((kcpFrame 0 ([0xA5, 2, 5, 7, 2, 3, 0, 11, 4, 0, 0, 1, 0, 0, 0, 0, 0] : List Byte) : RxFrame) = kcpFrame (0 : Fin 12).val (([0xA5, 2, 5, 7, 2, 3, 0, 11, 4, 0, 0, 1, 0, 0, 0, 0, 0] : List Byte) : List Byte))
    ∧ (payU (([0xA5, 2, 5, 7, 2, 3, 0, 11, 4, 0, 0, 1, 0, 0, 0, 0, 0] : List Byte) : List Byte) 1 1 = 2)
    ∧ ((kcpFrame 0 ([0xA5, 2, 5, 7, 2, 3, 0, 11, 4, 0, 0, 1, 0, 0, 0, 0, 0] : List Byte) : RxFrame).complete (0 : Fin 12).val = true)
    ∧ ((kcpFrame 0 ([0xA5, 2, 5, 7, 2, 3, 0, 11, 4, 0, 0, 1, 0, 0, 0, 0, 0] : List Byte) : RxFrame).op ≠ 0x0101)
    ∧ ((wKp.leaseExpire ((kcpFrame 0 ([0xA5, 2, 5, 7, 2, 3, 0, 11, 4, 0, 0, 1, 0, 0, 0, 0, 0] : List Byte) : RxFrame).handle / 256)).session (kcpFrame 0 ([0xA5, 2, 5, 7, 2, 3, 0, 11, 4, 0, 0, 1, 0, 0, 0, 0, 0] : List Byte) : RxFrame).handle = some (wCtx : Ctx))
    ∧ ((wCtx : Ctx).tport = (0 : Fin 12).val)
    ∧ ((wCtx : Ctx).peer = (9 : Nat))
    ∧ ((kcpFrame 0 ([0xA5, 2, 5, 7, 2, 3, 0, 11, 4, 0, 0, 1, 0, 0, 0, 0, 0] : List Byte) : RxFrame).auth = (wCtx : Ctx).ks.isSome)
    ∧ ((wCtx : Ctx).ks.all (fun k => tag8 k (kcpFrame 0 ([0xA5, 2, 5, 7, 2, 3, 0, 11, 4, 0, 0, 1, 0, 0, 0, 0, 0] : List Byte) : RxFrame).signed == (kcpFrame 0 ([0xA5, 2, 5, 7, 2, 3, 0, 11, 4, 0, 0, 1, 0, 0, 0, 0, 0] : List Byte) : RxFrame).tag) = true)
    ∧ ((tokOf 5 wCtx 0x0203 11 4 : Tok) = tokOf ((kcpFrame 0 ([0xA5, 2, 5, 7, 2, 3, 0, 11, 4, 0, 0, 1, 0, 0, 0, 0, 0] : List Byte) : RxFrame).handle / 256) (wCtx : Ctx) (kcpFrame 0 ([0xA5, 2, 5, 7, 2, 3, 0, 11, 4, 0, 0, 1, 0, 0, 0, 0, 0] : List Byte) : RxFrame).op (kcpFrame 0 ([0xA5, 2, 5, 7, 2, 3, 0, 11, 4, 0, 0, 1, 0, 0, 0, 0, 0] : List Byte) : RxFrame).seq (kcpFrame 0 ([0xA5, 2, 5, 7, 2, 3, 0, 11, 4, 0, 0, 1, 0, 0, 0, 0, 0] : List Byte) : RxFrame).cls)
    ∧ ((kcpFrame 0 ([0xA5, 2, 5, 7, 2, 3, 0, 11, 4, 0, 0, 1, 0, 0, 0, 0, 0] : List Byte) : RxFrame).cls < 6)
    ∧ (bitOf (kcpFrame 0 ([0xA5, 2, 5, 7, 2, 3, 0, 11, 4, 0, 0, 1, 0, 0, 0, 0, 0] : List Byte) : RxFrame).cls (wCtx : Ctx).classes = true)
    ∧ (opKeyed (kcpFrame 0 ([0xA5, 2, 5, 7, 2, 3, 0, 11, 4, 0, 0, 1, 0, 0, 0, 0, 0] : List Byte) : RxFrame).op = true → (wCtx : Ctx).slot ≠ 0xF)
    ∧ ((wKp.leaseExpire ((kcpFrame 0 ([0xA5, 2, 5, 7, 2, 3, 0, 11, 4, 0, 0, 1, 0, 0, 0, 0, 0] : List Byte) : RxFrame).handle / 256)).reasmOf ((kcpFrame 0 ([0xA5, 2, 5, 7, 2, 3, 0, 11, 4, 0, 0, 1, 0, 0, 0, 0, 0] : List Byte) : RxFrame).handle / 256) (kcpFrame 0 ([0xA5, 2, 5, 7, 2, 3, 0, 11, 4, 0, 0, 1, 0, 0, 0, 0, 0] : List Byte) : RxFrame).seq = none)
    ∧ (newSeq (wCtx : Ctx) (kcpFrame 0 ([0xA5, 2, 5, 7, 2, 3, 0, 11, 4, 0, 0, 1, 0, 0, 0, 0, 0] : List Byte) : RxFrame).seq)
    ∧ ((wKp.leaseExpire ((kcpFrame 0 ([0xA5, 2, 5, 7, 2, 3, 0, 11, 4, 0, 0, 1, 0, 0, 0, 0, 0] : List Byte) : RxFrame).handle / 256)).opRefusal (tokOf 5 wCtx 0x0203 11 4 : Tok) = none)
    ∧ ((kcpFrame 0 ([0xA5, 2, 5, 7, 2, 3, 0, 11, 4, 0, 0, 1, 0, 0, 0, 0, 0] : List Byte) : RxFrame).fits (0 : Fin 12).val = true)
    ∧ ((kcpFrame 0 ([0xA5, 2, 5, 7, 2, 3, 0, 11, 4, 0, 0, 1, 0, 0, 0, 0, 0] : List Byte) : RxFrame).off = 0)
    ∧ ((kcpFrame 0 ([0xA5, 2, 5, 7, 2, 3, 0, 11, 4, 0, 0, 1, 0, 0, 0, 0, 0] : List Byte) : RxFrame).more = false)
    ∧ (wKp.leaseDue ((kcpFrame 0 ([0xA5, 2, 5, 7, 2, 3, 0, 11, 4, 0, 0, 1, 0, 0, 0, 0, 0] : List Byte) : RxFrame).handle / 256) = false)
    ∧ (wKp.kcp.queues.length = 4)
    ∧ (2 ≤ (kcpFrame 0 ([0xA5, 2, 5, 7, 2, 3, 0, 11, 4, 0, 0, 1, 0, 0, 0, 0, 0] : List Byte) : RxFrame).cls)
    ∧ ((kcpFrame 0 ([0xA5, 2, 5, 7, 2, 3, 0, 11, 4, 0, 0, 1, 0, 0, 0, 0, 0] : List Byte) : RxFrame).cls ≤ 5)
    ∧ ((kcpFrame 0 ([0xA5, 2, 5, 7, 2, 3, 0, 11, 4, 0, 0, 1, 0, 0, 0, 0, 0] : List Byte) : RxFrame).op < 0xF000)
    ∧ (wKp.checkParams (kcpFrame 0 ([0xA5, 2, 5, 7, 2, 3, 0, 11, 4, 0, 0, 1, 0, 0, 0, 0, 0] : List Byte) : RxFrame).op (kcpFrame 0 ([0xA5, 2, 5, 7, 2, 3, 0, 11, 4, 0, 0, 1, 0, 0, 0, 0, 0] : List Byte) : RxFrame).data = none)
    ∧ (wKp.queueOf (kcpFrame 0 ([0xA5, 2, 5, 7, 2, 3, 0, 11, 4, 0, 0, 1, 0, 0, 0, 0, 0] : List Byte) : RxFrame).cls = []))
    ∧ ((({ wKp.setKcp { wKp.kcp with reasm := [⟨5, [0xA5, 2, 5, 7, 2, 3, 0, 11, 4, 0, 0, 9], [], 0⟩] } with cyc := 10 ^ 8 }).kpRuns = true)
    ∧ (({ wKp.setKcp { wKp.kcp with reasm := [⟨5, [0xA5, 2, 5, 7, 2, 3, 0, 11, 4, 0, 0, 9], [], 0⟩] } with cyc := 10 ^ 8 }).kcp.reasm[(0 : Fin 16).val]? = some (⟨5, [0xA5, 2, 5, 7, 2, 3, 0, 11, 4, 0, 0, 9], [], 0⟩ : Reasm))
    ∧ ((⟨5, [0xA5, 2, 5, 7, 2, 3, 0, 11, 4, 0, 0, 9], [], 0⟩ : Reasm).began + ({ wKp.setKcp { wKp.kcp with reasm := [⟨5, [0xA5, 2, 5, 7, 2, 3, 0, 11, 4, 0, 0, 9], [], 0⟩] } with cyc := 10 ^ 8 }).reasmMs * 100000 ≤ ({ wKp.setKcp { wKp.kcp with reasm := [⟨5, [0xA5, 2, 5, 7, 2, 3, 0, 11, 4, 0, 0, 9], [], 0⟩] } with cyc := 10 ^ 8 }).tick)
    ∧ (({ wKp.setKcp { wKp.kcp with reasm := [⟨5, [0xA5, 2, 5, 7, 2, 3, 0, 11, 4, 0, 0, 9], [], 0⟩] } with cyc := 10 ^ 8 }).ctxOf (⟨5, [0xA5, 2, 5, 7, 2, 3, 0, 11, 4, 0, 0, 9], [], 0⟩ : Reasm).ctx = some (wCtx : Ctx))
    ∧ ((wCtx : Ctx).gen < 256))
    ∧ (((wKp.setKcp { wKp.kcp with reasm := [⟨5, [0xA5, 2, 5, 7, 2, 3, 0, 11, 4, 0, 0, 9], [], 0⟩] }).kpRuns = false ∨ ((wKp.setKcp { wKp.kcp with reasm := [⟨5, [0xA5, 2, 5, 7, 2, 3, 0, 11, 4, 0, 0, 9], [], 0⟩] }).kcp.reasm[(0 : Fin 16).val]?).all (fun (o : Reasm) => decide ((wKp.setKcp { wKp.kcp with reasm := [⟨5, [0xA5, 2, 5, 7, 2, 3, 0, 11, 4, 0, 0, 9], [], 0⟩] }).tick < o.began + (wKp.setKcp { wKp.kcp with reasm := [⟨5, [0xA5, 2, 5, 7, 2, 3, 0, 11, 4, 0, 0, 9], [], 0⟩] }).reasmMs * 100000) || ((wKp.setKcp { wKp.kcp with reasm := [⟨5, [0xA5, 2, 5, 7, 2, 3, 0, 11, 4, 0, 0, 9], [], 0⟩] }).ctxOf o.ctx).isNone) = true))
    ∧ ((({ wKp with on := 0 }).isOn 13 = false))
    ∧ ((wKp.isOn 13 = true)
    ∧ (wKp.hspiUsed + (16 + payU (([0xA5, 2, 5, 7, 2, 3, 0, 11, 4, 0, 0, 1, 0, 0, 0, 0, 0] : List Byte) : List Byte) 10 2 + (if bitOf 6 (payU (([0xA5, 2, 5, 7, 2, 3, 0, 11, 4, 0, 0, 1, 0, 0, 0, 0, 0] : List Byte) : List Byte) 8 1) then 8 else 0)) ≤ 8192)
    ∧ ((([0xA5, 2, 5, 7, 2, 3, 0, 11, 4, 0, 0, 1, 0, 0, 0, 0, 0] : List Byte) : List Byte).length < (16 + payU (([0xA5, 2, 5, 7, 2, 3, 0, 11, 4, 0, 0, 1, 0, 0, 0, 0, 0] : List Byte) : List Byte) 10 2 + (if bitOf 6 (payU (([0xA5, 2, 5, 7, 2, 3, 0, 11, 4, 0, 0, 1, 0, 0, 0, 0, 0] : List Byte) : List Byte) 8 1) then 8 else 0)) + 4 ∨ beNat (((([0xA5, 2, 5, 7, 2, 3, 0, 11, 4, 0, 0, 1, 0, 0, 0, 0, 0] : List Byte) : List Byte).drop (16 + payU (([0xA5, 2, 5, 7, 2, 3, 0, 11, 4, 0, 0, 1, 0, 0, 0, 0, 0] : List Byte) : List Byte) 10 2 + (if bitOf 6 (payU (([0xA5, 2, 5, 7, 2, 3, 0, 11, 4, 0, 0, 1, 0, 0, 0, 0, 0] : List Byte) : List Byte) 8 1) then 8 else 0))).take 4) ≠ crc32c ((([0xA5, 2, 5, 7, 2, 3, 0, 11, 4, 0, 0, 1, 0, 0, 0, 0, 0] : List Byte) : List Byte).take (16 + payU (([0xA5, 2, 5, 7, 2, 3, 0, 11, 4, 0, 0, 1, 0, 0, 0, 0, 0] : List Byte) : List Byte) 10 2 + (if bitOf 6 (payU (([0xA5, 2, 5, 7, 2, 3, 0, 11, 4, 0, 0, 1, 0, 0, 0, 0, 0] : List Byte) : List Byte) 8 1) then 8 else 0))))) := by
  and_intros <;> decide +kernel

theorem witness_frames_and_hspi_transactions_part5 :
    (((wKp.setKcp { wKp.kcp with hspiRx := [List.replicate 8180 0] }).isOn 13 = true)
    ∧ (8192 < (wKp.setKcp { wKp.kcp with hspiRx := [List.replicate 8180 0] }).hspiUsed + (16 + payU (([0xA5, 2, 5, 7, 2, 3, 0, 11, 4, 0, 0, 1, 0, 0, 0, 0, 0] : List Byte) : List Byte) 10 2 + (if bitOf 6 (payU (([0xA5, 2, 5, 7, 2, 3, 0, 11, 4, 0, 0, 1, 0, 0, 0, 0, 0] : List Byte) : List Byte) 8 1) then 8 else 0))))
    ∧ ((wOn.isOn 13 = true)
    ∧ (wOn.kpRuns = false)
    ∧ (wOn.hspiUsed + (16 + payU (([0xA5, 2, 5, 7, 2, 3, 0, 11, 4, 0, 0, 1, 0, 0, 0, 0, 0] : List Byte) ++ beBytes 4 (crc32c ([0xA5, 2, 5, 7, 2, 3, 0, 11, 4, 0, 0, 1, 0, 0, 0, 0, 0] : List Byte)) : List Byte) 10 2 + (if bitOf 6 (payU (([0xA5, 2, 5, 7, 2, 3, 0, 11, 4, 0, 0, 1, 0, 0, 0, 0, 0] : List Byte) ++ beBytes 4 (crc32c ([0xA5, 2, 5, 7, 2, 3, 0, 11, 4, 0, 0, 1, 0, 0, 0, 0, 0] : List Byte)) : List Byte) 8 1) then 8 else 0)) ≤ 8192)
    ∧ ((16 + payU (([0xA5, 2, 5, 7, 2, 3, 0, 11, 4, 0, 0, 1, 0, 0, 0, 0, 0] : List Byte) ++ beBytes 4 (crc32c ([0xA5, 2, 5, 7, 2, 3, 0, 11, 4, 0, 0, 1, 0, 0, 0, 0, 0] : List Byte)) : List Byte) 10 2 + (if bitOf 6 (payU (([0xA5, 2, 5, 7, 2, 3, 0, 11, 4, 0, 0, 1, 0, 0, 0, 0, 0] : List Byte) ++ beBytes 4 (crc32c ([0xA5, 2, 5, 7, 2, 3, 0, 11, 4, 0, 0, 1, 0, 0, 0, 0, 0] : List Byte)) : List Byte) 8 1) then 8 else 0)) + 4 ≤ (([0xA5, 2, 5, 7, 2, 3, 0, 11, 4, 0, 0, 1, 0, 0, 0, 0, 0] : List Byte) ++ beBytes 4 (crc32c ([0xA5, 2, 5, 7, 2, 3, 0, 11, 4, 0, 0, 1, 0, 0, 0, 0, 0] : List Byte)) : List Byte).length)
    ∧ (beNat (((([0xA5, 2, 5, 7, 2, 3, 0, 11, 4, 0, 0, 1, 0, 0, 0, 0, 0] : List Byte) ++ beBytes 4 (crc32c ([0xA5, 2, 5, 7, 2, 3, 0, 11, 4, 0, 0, 1, 0, 0, 0, 0, 0] : List Byte)) : List Byte).drop (16 + payU (([0xA5, 2, 5, 7, 2, 3, 0, 11, 4, 0, 0, 1, 0, 0, 0, 0, 0] : List Byte) ++ beBytes 4 (crc32c ([0xA5, 2, 5, 7, 2, 3, 0, 11, 4, 0, 0, 1, 0, 0, 0, 0, 0] : List Byte)) : List Byte) 10 2 + (if bitOf 6 (payU (([0xA5, 2, 5, 7, 2, 3, 0, 11, 4, 0, 0, 1, 0, 0, 0, 0, 0] : List Byte) ++ beBytes 4 (crc32c ([0xA5, 2, 5, 7, 2, 3, 0, 11, 4, 0, 0, 1, 0, 0, 0, 0, 0] : List Byte)) : List Byte) 8 1) then 8 else 0))).take 4) = crc32c ((([0xA5, 2, 5, 7, 2, 3, 0, 11, 4, 0, 0, 1, 0, 0, 0, 0, 0] : List Byte) ++ beBytes 4 (crc32c ([0xA5, 2, 5, 7, 2, 3, 0, 11, 4, 0, 0, 1, 0, 0, 0, 0, 0] : List Byte)) : List Byte).take (16 + payU (([0xA5, 2, 5, 7, 2, 3, 0, 11, 4, 0, 0, 1, 0, 0, 0, 0, 0] : List Byte) ++ beBytes 4 (crc32c ([0xA5, 2, 5, 7, 2, 3, 0, 11, 4, 0, 0, 1, 0, 0, 0, 0, 0] : List Byte)) : List Byte) 10 2 + (if bitOf 6 (payU (([0xA5, 2, 5, 7, 2, 3, 0, 11, 4, 0, 0, 1, 0, 0, 0, 0, 0] : List Byte) ++ beBytes 4 (crc32c ([0xA5, 2, 5, 7, 2, 3, 0, 11, 4, 0, 0, 1, 0, 0, 0, 0, 0] : List Byte)) : List Byte) 8 1) then 8 else 0)))))
    ∧ ((wKp.isOn 13 = true)
    ∧ (wKp.kpRuns = true)
    ∧ (wKp.hspiUsed + (16 + payU (([0xA5, 2, 5, 7, 2, 3, 0, 11, 4, 0, 0, 1, 0, 0, 0, 0, 0] : List Byte) ++ beBytes 4 (crc32c ([0xA5, 2, 5, 7, 2, 3, 0, 11, 4, 0, 0, 1, 0, 0, 0, 0, 0] : List Byte)) : List Byte) 10 2 + (if bitOf 6 (payU (([0xA5, 2, 5, 7, 2, 3, 0, 11, 4, 0, 0, 1, 0, 0, 0, 0, 0] : List Byte) ++ beBytes 4 (crc32c ([0xA5, 2, 5, 7, 2, 3, 0, 11, 4, 0, 0, 1, 0, 0, 0, 0, 0] : List Byte)) : List Byte) 8 1) then 8 else 0)) ≤ 8192)
    ∧ ((16 + payU (([0xA5, 2, 5, 7, 2, 3, 0, 11, 4, 0, 0, 1, 0, 0, 0, 0, 0] : List Byte) ++ beBytes 4 (crc32c ([0xA5, 2, 5, 7, 2, 3, 0, 11, 4, 0, 0, 1, 0, 0, 0, 0, 0] : List Byte)) : List Byte) 10 2 + (if bitOf 6 (payU (([0xA5, 2, 5, 7, 2, 3, 0, 11, 4, 0, 0, 1, 0, 0, 0, 0, 0] : List Byte) ++ beBytes 4 (crc32c ([0xA5, 2, 5, 7, 2, 3, 0, 11, 4, 0, 0, 1, 0, 0, 0, 0, 0] : List Byte)) : List Byte) 8 1) then 8 else 0)) + 4 ≤ (([0xA5, 2, 5, 7, 2, 3, 0, 11, 4, 0, 0, 1, 0, 0, 0, 0, 0] : List Byte) ++ beBytes 4 (crc32c ([0xA5, 2, 5, 7, 2, 3, 0, 11, 4, 0, 0, 1, 0, 0, 0, 0, 0] : List Byte)) : List Byte).length)
    ∧ (beNat (((([0xA5, 2, 5, 7, 2, 3, 0, 11, 4, 0, 0, 1, 0, 0, 0, 0, 0] : List Byte) ++ beBytes 4 (crc32c ([0xA5, 2, 5, 7, 2, 3, 0, 11, 4, 0, 0, 1, 0, 0, 0, 0, 0] : List Byte)) : List Byte).drop (16 + payU (([0xA5, 2, 5, 7, 2, 3, 0, 11, 4, 0, 0, 1, 0, 0, 0, 0, 0] : List Byte) ++ beBytes 4 (crc32c ([0xA5, 2, 5, 7, 2, 3, 0, 11, 4, 0, 0, 1, 0, 0, 0, 0, 0] : List Byte)) : List Byte) 10 2 + (if bitOf 6 (payU (([0xA5, 2, 5, 7, 2, 3, 0, 11, 4, 0, 0, 1, 0, 0, 0, 0, 0] : List Byte) ++ beBytes 4 (crc32c ([0xA5, 2, 5, 7, 2, 3, 0, 11, 4, 0, 0, 1, 0, 0, 0, 0, 0] : List Byte)) : List Byte) 8 1) then 8 else 0))).take 4) = crc32c ((([0xA5, 2, 5, 7, 2, 3, 0, 11, 4, 0, 0, 1, 0, 0, 0, 0, 0] : List Byte) ++ beBytes 4 (crc32c ([0xA5, 2, 5, 7, 2, 3, 0, 11, 4, 0, 0, 1, 0, 0, 0, 0, 0] : List Byte)) : List Byte).take (16 + payU (([0xA5, 2, 5, 7, 2, 3, 0, 11, 4, 0, 0, 1, 0, 0, 0, 0, 0] : List Byte) ++ beBytes 4 (crc32c ([0xA5, 2, 5, 7, 2, 3, 0, 11, 4, 0, 0, 1, 0, 0, 0, 0, 0] : List Byte)) : List Byte) 10 2 + (if bitOf 6 (payU (([0xA5, 2, 5, 7, 2, 3, 0, 11, 4, 0, 0, 1, 0, 0, 0, 0, 0] : List Byte) ++ beBytes 4 (crc32c ([0xA5, 2, 5, 7, 2, 3, 0, 11, 4, 0, 0, 1, 0, 0, 0, 0, 0] : List Byte)) : List Byte) 8 1) then 8 else 0)))))
    ∧ (((wKp.setKcp { wKp.kcp with hspi := [[1, 2]] }).isOn 13 = true)
    ∧ ((wKp.setKcp { wKp.kcp with hspi := [[1, 2]] }).kcp.hspi = ([1, 2] : List Byte) :: ([] : List (List Byte)))
    ∧ (([1, 2] : List Byte).length + 4 ≤ (6 : Nat)))
    ∧ (((wKp.setKcp { wKp.kcp with hspi := [[1, 2]] }).isOn 13 = false ∨ (wKp.setKcp { wKp.kcp with hspi := [[1, 2]] }).kcp.hspi.head?.all (fun (f : List Byte) => decide ((5 : Nat) < f.length + 4)) = true))
    ∧ ((wKp.isOn 13 = true)) := by
  and_intros <;> decide +kernel

theorem witness_frames_and_hspi_transactions_part6 :
    ((({ wKp with on := 0 }).isOn 13 = false)) := by
  and_intros <;> decide +kernel

theorem witness_queues_deadlines_and_mailboxes :
    (((wKp.setKcp { wKp.kcp with queues := [[], [], [⟨⟨0x507, 0, 9, none, 11, 0x0203, 4, 0⟩, 900, some 5, [0]⟩], []] }).kcp.queues.length = 4)
    ∧ ((wKp.setKcp { wKp.kcp with queues := [[], [], [⟨⟨0x507, 0, 9, none, 11, 0x0203, 4, 0⟩, 900, some 5, [0]⟩], []] }).kpRuns = true)
    ∧ ((wKp.setKcp { wKp.kcp with queues := [[], [], [⟨⟨0x507, 0, 9, none, 11, 0x0203, 4, 0⟩, 900, some 5, [0]⟩], []] }).queueOf ((2 : Fin 4).val + 2) = (⟨⟨0x507, 0, 9, none, 11, 0x0203, 4, 0⟩, 900, some 5, [0]⟩ : KReq) :: ([] : List KReq))
    ∧ ((⟨⟨0x507, 0, 9, none, 11, 0x0203, 4, 0⟩, 900, some 5, [0]⟩ : KReq).deadline.any (fun d => decide (d ≤ (wKp.setKcp { wKp.kcp with queues := [[], [], [⟨⟨0x507, 0, 9, none, 11, 0x0203, 4, 0⟩, 900, some 5, [0]⟩], []] }).tick)) = true)
    ∧ ((wKp.setKcp { wKp.kcp with queues := [[], [], [⟨⟨0x507, 0, 9, none, 11, 0x0203, 4, 0⟩, 900, some 5, [0]⟩], []] }).session (⟨⟨0x507, 0, 9, none, 11, 0x0203, 4, 0⟩, 900, some 5, [0]⟩ : KReq).tok.handle = some (wCtx : Ctx))
    ∧ ((wCtx : Ctx).tport = (⟨⟨0x507, 0, 9, none, 11, 0x0203, 4, 0⟩, 900, some 5, [0]⟩ : KReq).tok.tport)
    ∧ ((wCtx : Ctx).peer = (⟨⟨0x507, 0, 9, none, 11, 0x0203, 4, 0⟩, 900, some 5, [0]⟩ : KReq).tok.peer))
    ∧ (((wKp.setKcp { wKp.kcp with queues := [[], [], [⟨⟨0x507, 0, 9, none, 11, 0x0203, 4, 0⟩, 900, none, [0]⟩], []] }).kcp.queues.length = 4)
    ∧ ((wKp.setKcp { wKp.kcp with queues := [[], [], [⟨⟨0x507, 0, 9, none, 11, 0x0203, 4, 0⟩, 900, none, [0]⟩], []] }).kpRuns = true)
    ∧ ((wKp.setKcp { wKp.kcp with queues := [[], [], [⟨⟨0x507, 0, 9, none, 11, 0x0203, 4, 0⟩, 900, none, [0]⟩], []] }).queueOf ((2 : Fin 4).val + 2) = (⟨⟨0x507, 0, 9, none, 11, 0x0203, 4, 0⟩, 900, none, [0]⟩ : KReq) :: ([] : List KReq))
    ∧ ((⟨⟨0x507, 0, 9, none, 11, 0x0203, 4, 0⟩, 900, none, [0]⟩ : KReq).deadline.all (fun d => decide ((wKp.setKcp { wKp.kcp with queues := [[], [], [⟨⟨0x507, 0, 9, none, 11, 0x0203, 4, 0⟩, 900, none, [0]⟩], []] }).tick < d)) = true)
    ∧ ((⟨⟨0x507, 0, 9, none, 11, 0x0203, 4, 0⟩, 900, none, [0]⟩ : KReq).tok.op < 0xF000))
    ∧ (((wKp.setKcp { wKp.kcp with queues := [[], [], [⟨⟨0x507, 0, 9, none, 11, 0xF203, 4, 0⟩, 900, some 5000, [0]⟩], []] }).kcp.queues.length = 4)
    ∧ ((wKp.setKcp { wKp.kcp with queues := [[], [], [⟨⟨0x507, 0, 9, none, 11, 0xF203, 4, 0⟩, 900, some 5000, [0]⟩], []] }).kpRuns = true)
    ∧ ((wKp.setKcp { wKp.kcp with queues := [[], [], [⟨⟨0x507, 0, 9, none, 11, 0xF203, 4, 0⟩, 900, some 5000, [0]⟩], []] }).queueOf ((2 : Fin 4).val + 2) = (⟨⟨0x507, 0, 9, none, 11, 0xF203, 4, 0⟩, 900, some 5000, [0]⟩ : KReq) :: ([] : List KReq))
    ∧ ((⟨⟨0x507, 0, 9, none, 11, 0xF203, 4, 0⟩, 900, some 5000, [0]⟩ : KReq).deadline.all (fun d => decide ((wKp.setKcp { wKp.kcp with queues := [[], [], [⟨⟨0x507, 0, 9, none, 11, 0xF203, 4, 0⟩, 900, some 5000, [0]⟩], []] }).tick < d)) = true)
    ∧ (0xF000 ≤ (⟨⟨0x507, 0, 9, none, 11, 0xF203, 4, 0⟩, 900, some 5000, [0]⟩ : KReq).tok.op))
    ∧ ((wKp.kpRuns = false ∨ wKp.queueOf ((2 : Fin 4).val + 2) = []))
    ∧ (((wKp.setKcp { wKp.kcp with queues := [[], [], [⟨⟨0x507, 0, 9, none, 11, 0x0203, 4, 0⟩, 900, some 5, [0]⟩], []] }).kcp.queues.length = 4)
    ∧ ((wKp.setKcp { wKp.kcp with queues := [[], [], [⟨⟨0x507, 0, 9, none, 11, 0x0203, 4, 0⟩, 900, some 5, [0]⟩], []] }).kpRuns = true))
    ∧ (((wKp.setKcp { wKp.kcp with queues := [[], [], [⟨⟨0x507, 0, 9, none, 11, 0x0203, 4, 0⟩, 900, some 5, [0]⟩], []] }).kcp.queues.length = 4)
    ∧ ((wKp.setKcp { wKp.kcp with queues := [[], [], [⟨⟨0x507, 0, 9, none, 11, 0x0203, 4, 0⟩, 900, some 5, [0]⟩], []] }).kpRuns = true)
    ∧ ((wKp.setKcp { wKp.kcp with queues := [[], [], [⟨⟨0x507, 0, 9, none, 11, 0x0203, 4, 0⟩, 900, some 5, [0]⟩], []] }).kcp.c1 = [])
    ∧ (((wKp.setKcp { wKp.kcp with queues := [[], [], [⟨⟨0x507, 0, 9, none, 11, 0x0203, 4, 0⟩, 900, some 5, [0]⟩], []] }).queueOf ((2 : Fin 4).val + 2)).filter (fun (z : KReq) => (z.tok.handle / 256 == (5 : Fin 256).val && z.tok.seq == (11 : BitVec 16).toNat) && deadlineDue (wKp.setKcp { wKp.kcp with queues := [[], [], [⟨⟨0x507, 0, 9, none, 11, 0x0203, 4, 0⟩, 900, some 5, [0]⟩], []] }).tick z.deadline) = [(⟨⟨0x507, 0, 9, none, 11, 0x0203, 4, 0⟩, 900, some 5, [0]⟩ : KReq)])
    ∧ ([2, 3, 4, 5].all (fun o => o == (2 : Fin 4).val + 2 || (((wKp.setKcp { wKp.kcp with queues := [[], [], [⟨⟨0x507, 0, 9, none, 11, 0x0203, 4, 0⟩, 900, some 5, [0]⟩], []] }).queueOf o).filter (fun (z : KReq) => (z.tok.handle / 256 == (5 : Fin 256).val && z.tok.seq == (11 : BitVec 16).toNat) && deadlineDue (wKp.setKcp { wKp.kcp with queues := [[], [], [⟨⟨0x507, 0, 9, none, 11, 0x0203, 4, 0⟩, 900, some 5, [0]⟩], []] }).tick z.deadline)).isEmpty) = true)
    ∧ ((wKp.setKcp { wKp.kcp with queues := [[], [], [⟨⟨0x507, 0, 9, none, 11, 0x0203, 4, 0⟩, 900, some 5, [0]⟩], []] }).session (⟨⟨0x507, 0, 9, none, 11, 0x0203, 4, 0⟩, 900, some 5, [0]⟩ : KReq).tok.handle = some (wCtx : Ctx))
    ∧ ((wCtx : Ctx).tport = (⟨⟨0x507, 0, 9, none, 11, 0x0203, 4, 0⟩, 900, some 5, [0]⟩ : KReq).tok.tport)
    ∧ ((wCtx : Ctx).peer = (⟨⟨0x507, 0, 9, none, 11, 0x0203, 4, 0⟩, 900, some 5, [0]⟩ : KReq).tok.peer)) := by
  and_intros <;> decide +kernel

theorem witness_queues_deadlines_and_mailboxes_part2 :
    ((wOn.kpRuns = false))
    ∧ (((wKp.setKcp { wKp.kcp with ctxs := [(5, { wCtx with subs := [⟨0x0203, 0, 0, none, true⟩] })] }).kpRuns = true)
    ∧ ((wKp.setKcp { wKp.kcp with ctxs := [(5, { wCtx with subs := [⟨0x0203, 0, 0, none, true⟩] })] }).ctxOf (5 : Fin 256).val = some ({ wCtx with subs := [⟨0x0203, 0, 0, none, true⟩] } : Ctx))
    ∧ (({ wCtx with subs := [⟨0x0203, 0, 0, none, true⟩] } : Ctx).live = true)
    ∧ (({ wCtx with subs := [⟨0x0203, 0, 0, none, true⟩] } : Ctx).gen < 256)
    ∧ (({ wCtx with subs := [⟨0x0203, 0, 0, none, true⟩] } : Ctx).subs.find? (fun (o : Sub) => o.op == (nth [0x0203, 0x0503, 0x0603] (0 : Fin 3).val 0)) = some (⟨0x0203, 0, 0, none, true⟩ : Sub))
    ∧ ((wKp.setKcp { wKp.kcp with ctxs := [(5, { wCtx with subs := [⟨0x0203, 0, 0, none, true⟩] })] }).notifyDue (⟨0x0203, 0, 0, none, true⟩ : Sub) = true))
    ∧ ((wKp.kpRuns = false ∨ (wKp.ctxOf (5 : Fin 256).val).all (fun (y : Ctx) => !y.live || (y.subs.find? (fun (o : Sub) => o.op == (nth [0x0203, 0x0503, 0x0603] (0 : Fin 3).val 0))).all (fun (o : Sub) => !wKp.notifyDue o)) = true))
    ∧ ((wKp.Open (0xF000 + (0x312 : Fin 4096).val) (4 : Fin 8).val (wReq [1, 2, 3] : Req) (wCtx : Ctx))
    ∧ ((4 : Fin 8).val < 6)
    ∧ (wKp.is SYSC_BOOT_RECOV = false)
    ∧ (wKp.custMbx (0xF000 + (0x312 : Fin 4096).val) = none))
    ∧ (((((wKp.put (MBX_CFG_EN 2) 1).wr (KCP_CUSTMAP 0) 0x0000A000)).Open (0xF000 + (0x312 : Fin 4096).val) (1 : Fin 8).val (wReq [1, 2, 3] : Req) (wCtx : Ctx))
    ∧ ((1 : Fin 8).val < 6)
    ∧ ((((wKp.put (MBX_CFG_EN 2) 1).wr (KCP_CUSTMAP 0) 0x0000A000)).is SYSC_BOOT_RECOV = false)
    ∧ (((((wKp.put (MBX_CFG_EN 2) 1).wr (KCP_CUSTMAP 0) 0x0000A000)).custMbx (0xF000 + (0x312 : Fin 4096).val)).isSome = true)
    ∧ ((1 : Fin 8).val < 2))
    ∧ (((((wKp.put (MBX_CFG_EN 2) 1).wr (KCP_CUSTMAP 0) 0x0000A000)).kcp.queues.length = 4)
    ∧ ((((wKp.put (MBX_CFG_EN 2) 1).wr (KCP_CUSTMAP 0) 0x0000A000)).Open (0xF000 + (0x312 : Fin 4096).val) (4 : Fin 8).val (wReq (List.replicate 4065 0) : Req) (wCtx : Ctx))
    ∧ ((4 : Fin 8).val < 6)
    ∧ ((((wKp.put (MBX_CFG_EN 2) 1).wr (KCP_CUSTMAP 0) 0x0000A000)).is SYSC_BOOT_RECOV = false)
    ∧ (2 ≤ (4 : Fin 8).val)
    ∧ (((((wKp.put (MBX_CFG_EN 2) 1).wr (KCP_CUSTMAP 0) 0x0000A000)).custMbx (0xF000 + (0x312 : Fin 4096).val)).isSome = true)
    ∧ (4064 < (wReq (List.replicate 4065 0) : Req).pay.length)
    ∧ (((((wKp.put (MBX_CFG_EN 2) 1).wr (KCP_CUSTMAP 0) 0x0000A000)).queueOf (4 : Fin 8).val).all (fun (r : KReq) => !(r.tok.handle == ((wReq (List.replicate 4065 0) : Req).ctx.val * 256 + (wCtx : Ctx).gen) && r.tok.seq == (wReq (List.replicate 4065 0) : Req).seq.toNat)) = true)) := by
  and_intros <;> decide +kernel

theorem witness_queues_deadlines_and_mailboxes_part3 :
    (((((wKp.put (MBX_CFG_EN 2) 1).wr (KCP_CUSTMAP 0) 0x0000A000)).kcp.queues.length = 4)
    ∧ (2 ≤ (4 : Fin 8).val)
    ∧ ((((wKp.put (MBX_CFG_EN 2) 1).wr (KCP_CUSTMAP 0) 0x0000A000)).Open (0xF000 + (0x312 : Fin 4096).val) (4 : Fin 8).val (wReq [1, 2, 3] : Req) (wCtx : Ctx))
    ∧ ((4 : Fin 8).val < 6)
    ∧ ((((wKp.put (MBX_CFG_EN 2) 1).wr (KCP_CUSTMAP 0) 0x0000A000)).is SYSC_BOOT_RECOV = false)
    ∧ ((wReq [1, 2, 3] : Req).pay.length ≤ 4064)
    ∧ (((((wKp.put (MBX_CFG_EN 2) 1).wr (KCP_CUSTMAP 0) 0x0000A000)).custMbx (0xF000 + (0x312 : Fin 4096).val)).isSome = true))
    ∧ (((((wKp.put (MBX_CFG_EN 2) 1).wr (KCP_CUSTMAP 0) 0x0000A000).put MDM_ACTIVE_ACTIVE 0x800).kcp.queues.length = 4)
    ∧ (2 ≤ (2 : Fin 8).val)
    ∧ ((((wKp.put (MBX_CFG_EN 2) 1).wr (KCP_CUSTMAP 0) 0x0000A000).put MDM_ACTIVE_ACTIVE 0x800).Open (0xF000 + (0x312 : Fin 4096).val) (2 : Fin 8).val (wReq [1, 2, 3] : Req) (wCtx : Ctx))
    ∧ ((2 : Fin 8).val < 6)
    ∧ ((((wKp.put (MBX_CFG_EN 2) 1).wr (KCP_CUSTMAP 0) 0x0000A000).put MDM_ACTIVE_ACTIVE 0x800).is SYSC_BOOT_RECOV = false)
    ∧ ((wReq [1, 2, 3] : Req).pay.length ≤ 4064)
    ∧ (((((wKp.put (MBX_CFG_EN 2) 1).wr (KCP_CUSTMAP 0) 0x0000A000).put MDM_ACTIVE_ACTIVE 0x800).custMbx (0xF000 + (0x312 : Fin 4096).val)).isSome = true)
    ∧ ((((wKp.put (MBX_CFG_EN 2) 1).wr (KCP_CUSTMAP 0) 0x0000A000).put MDM_ACTIVE_ACTIVE 0x800).queueOf (2 : Fin 8).val = [])
    ∧ ((2 : Fin 8).val = 2)
    ∧ ((((wKp.put (MBX_CFG_EN 2) 1).wr (KCP_CUSTMAP 0) 0x0000A000).put MDM_ACTIVE_ACTIVE 0x800).active 10 = true ∨ (((wKp.put (MBX_CFG_EN 2) 1).wr (KCP_CUSTMAP 0) 0x0000A000).put MDM_ACTIVE_ACTIVE 0x800).active 11 = true))
    ∧ ((((((wKp.put (MBX_CFG_EN 2) 1).wr (KCP_CUSTMAP 0) 0x0000A000).setKcp { wKp.kcp with mbx := [⟨2, 0, ⟨0x507, 0, 9, none, 11, 0xF312, 4, 0⟩, 0⟩, ⟨2, 1, ⟨0x507, 0, 9, none, 11, 0xF312, 4, 0⟩, 0⟩] })).kcp.queues.length = 4)
    ∧ (2 ≤ (4 : Fin 8).val)
    ∧ (((((wKp.put (MBX_CFG_EN 2) 1).wr (KCP_CUSTMAP 0) 0x0000A000).setKcp { wKp.kcp with mbx := [⟨2, 0, ⟨0x507, 0, 9, none, 11, 0xF312, 4, 0⟩, 0⟩, ⟨2, 1, ⟨0x507, 0, 9, none, 11, 0xF312, 4, 0⟩, 0⟩] })).Open (0xF000 + (0x312 : Fin 4096).val) (4 : Fin 8).val (wReq [1, 2, 3] : Req) (wCtx : Ctx))
    ∧ ((4 : Fin 8).val < 6)
    ∧ (((((wKp.put (MBX_CFG_EN 2) 1).wr (KCP_CUSTMAP 0) 0x0000A000).setKcp { wKp.kcp with mbx := [⟨2, 0, ⟨0x507, 0, 9, none, 11, 0xF312, 4, 0⟩, 0⟩, ⟨2, 1, ⟨0x507, 0, 9, none, 11, 0xF312, 4, 0⟩, 0⟩] })).is SYSC_BOOT_RECOV = false)
    ∧ ((wReq [1, 2, 3] : Req).pay.length ≤ 4064)
    ∧ ((((((wKp.put (MBX_CFG_EN 2) 1).wr (KCP_CUSTMAP 0) 0x0000A000).setKcp { wKp.kcp with mbx := [⟨2, 0, ⟨0x507, 0, 9, none, 11, 0xF312, 4, 0⟩, 0⟩, ⟨2, 1, ⟨0x507, 0, 9, none, 11, 0xF312, 4, 0⟩, 0⟩] })).custMbx (0xF000 + (0x312 : Fin 4096).val)).isSome = true)
    ∧ (((((wKp.put (MBX_CFG_EN 2) 1).wr (KCP_CUSTMAP 0) 0x0000A000).setKcp { wKp.kcp with mbx := [⟨2, 0, ⟨0x507, 0, 9, none, 11, 0xF312, 4, 0⟩, 0⟩, ⟨2, 1, ⟨0x507, 0, 9, none, 11, 0xF312, 4, 0⟩, 0⟩] })).queueOf (4 : Fin 8).val = [])
    ∧ (¬((4 : Fin 8).val = 2 ∧ (((((wKp.put (MBX_CFG_EN 2) 1).wr (KCP_CUSTMAP 0) 0x0000A000).setKcp { wKp.kcp with mbx := [⟨2, 0, ⟨0x507, 0, 9, none, 11, 0xF312, 4, 0⟩, 0⟩, ⟨2, 1, ⟨0x507, 0, 9, none, 11, 0xF312, 4, 0⟩, 0⟩] })).active 10 = true ∨ ((((wKp.put (MBX_CFG_EN 2) 1).wr (KCP_CUSTMAP 0) 0x0000A000).setKcp { wKp.kcp with mbx := [⟨2, 0, ⟨0x507, 0, 9, none, 11, 0xF312, 4, 0⟩, 0⟩, ⟨2, 1, ⟨0x507, 0, 9, none, 11, 0xF312, 4, 0⟩, 0⟩] })).active 11 = true)))
    ∧ (((((wKp.put (MBX_CFG_EN 2) 1).wr (KCP_CUSTMAP 0) 0x0000A000).setKcp { wKp.kcp with mbx := [⟨2, 0, ⟨0x507, 0, 9, none, 11, 0xF312, 4, 0⟩, 0⟩, ⟨2, 1, ⟨0x507, 0, 9, none, 11, 0xF312, 4, 0⟩, 0⟩] })).custMbx (0xF000 + (0x312 : Fin 4096).val) = some (2 : Fin 8).val)
    ∧ ((List.range 4).find? (fun j => !((((wKp.put (MBX_CFG_EN 2) 1).wr (KCP_CUSTMAP 0) 0x0000A000).setKcp { wKp.kcp with mbx := [⟨2, 0, ⟨0x507, 0, 9, none, 11, 0xF312, 4, 0⟩, 0⟩, ⟨2, 1, ⟨0x507, 0, 9, none, 11, 0xF312, 4, 0⟩, 0⟩] })).kcp.mbx.any (fun (e : MbxReq) => e.mbx == (2 : Fin 8).val && e.slot == j)) = some (2 : Fin 4).val))
    ∧ ((((((wKp.put (MBX_CFG_EN 2) 1).wr (KCP_CUSTMAP 0) 0x0000A000).setKcp { wKp.kcp with mbx := [⟨2, 0, ⟨0x507, 0, 9, none, 11, 0xF312, 4, 0⟩, 0⟩, ⟨2, 1, ⟨0x507, 0, 9, none, 11, 0xF312, 4, 0⟩, 0⟩, ⟨2, 2, ⟨0x507, 0, 9, none, 11, 0xF312, 4, 0⟩, 0⟩, ⟨2, 3, ⟨0x507, 0, 9, none, 11, 0xF312, 4, 0⟩, 0⟩] })).kcp.queues.length = 4)
    ∧ (2 ≤ (4 : Fin 8).val)
    ∧ (((((wKp.put (MBX_CFG_EN 2) 1).wr (KCP_CUSTMAP 0) 0x0000A000).setKcp { wKp.kcp with mbx := [⟨2, 0, ⟨0x507, 0, 9, none, 11, 0xF312, 4, 0⟩, 0⟩, ⟨2, 1, ⟨0x507, 0, 9, none, 11, 0xF312, 4, 0⟩, 0⟩, ⟨2, 2, ⟨0x507, 0, 9, none, 11, 0xF312, 4, 0⟩, 0⟩, ⟨2, 3, ⟨0x507, 0, 9, none, 11, 0xF312, 4, 0⟩, 0⟩] })).Open (0xF000 + (0x312 : Fin 4096).val) (4 : Fin 8).val (wReq [1, 2, 3] : Req) (wCtx : Ctx))
    ∧ ((4 : Fin 8).val < 6)
    ∧ (((((wKp.put (MBX_CFG_EN 2) 1).wr (KCP_CUSTMAP 0) 0x0000A000).setKcp { wKp.kcp with mbx := [⟨2, 0, ⟨0x507, 0, 9, none, 11, 0xF312, 4, 0⟩, 0⟩, ⟨2, 1, ⟨0x507, 0, 9, none, 11, 0xF312, 4, 0⟩, 0⟩, ⟨2, 2, ⟨0x507, 0, 9, none, 11, 0xF312, 4, 0⟩, 0⟩, ⟨2, 3, ⟨0x507, 0, 9, none, 11, 0xF312, 4, 0⟩, 0⟩] })).is SYSC_BOOT_RECOV = false)
    ∧ ((wReq [1, 2, 3] : Req).pay.length ≤ 4064)
    ∧ ((((((wKp.put (MBX_CFG_EN 2) 1).wr (KCP_CUSTMAP 0) 0x0000A000).setKcp { wKp.kcp with mbx := [⟨2, 0, ⟨0x507, 0, 9, none, 11, 0xF312, 4, 0⟩, 0⟩, ⟨2, 1, ⟨0x507, 0, 9, none, 11, 0xF312, 4, 0⟩, 0⟩, ⟨2, 2, ⟨0x507, 0, 9, none, 11, 0xF312, 4, 0⟩, 0⟩, ⟨2, 3, ⟨0x507, 0, 9, none, 11, 0xF312, 4, 0⟩, 0⟩] })).custMbx (0xF000 + (0x312 : Fin 4096).val)).isSome = true)
    ∧ (((((wKp.put (MBX_CFG_EN 2) 1).wr (KCP_CUSTMAP 0) 0x0000A000).setKcp { wKp.kcp with mbx := [⟨2, 0, ⟨0x507, 0, 9, none, 11, 0xF312, 4, 0⟩, 0⟩, ⟨2, 1, ⟨0x507, 0, 9, none, 11, 0xF312, 4, 0⟩, 0⟩, ⟨2, 2, ⟨0x507, 0, 9, none, 11, 0xF312, 4, 0⟩, 0⟩, ⟨2, 3, ⟨0x507, 0, 9, none, 11, 0xF312, 4, 0⟩, 0⟩] })).queueOf (4 : Fin 8).val = [])
    ∧ (¬((4 : Fin 8).val = 2 ∧ (((((wKp.put (MBX_CFG_EN 2) 1).wr (KCP_CUSTMAP 0) 0x0000A000).setKcp { wKp.kcp with mbx := [⟨2, 0, ⟨0x507, 0, 9, none, 11, 0xF312, 4, 0⟩, 0⟩, ⟨2, 1, ⟨0x507, 0, 9, none, 11, 0xF312, 4, 0⟩, 0⟩, ⟨2, 2, ⟨0x507, 0, 9, none, 11, 0xF312, 4, 0⟩, 0⟩, ⟨2, 3, ⟨0x507, 0, 9, none, 11, 0xF312, 4, 0⟩, 0⟩] })).active 10 = true ∨ ((((wKp.put (MBX_CFG_EN 2) 1).wr (KCP_CUSTMAP 0) 0x0000A000).setKcp { wKp.kcp with mbx := [⟨2, 0, ⟨0x507, 0, 9, none, 11, 0xF312, 4, 0⟩, 0⟩, ⟨2, 1, ⟨0x507, 0, 9, none, 11, 0xF312, 4, 0⟩, 0⟩, ⟨2, 2, ⟨0x507, 0, 9, none, 11, 0xF312, 4, 0⟩, 0⟩, ⟨2, 3, ⟨0x507, 0, 9, none, 11, 0xF312, 4, 0⟩, 0⟩] })).active 11 = true)))
    ∧ (((((wKp.put (MBX_CFG_EN 2) 1).wr (KCP_CUSTMAP 0) 0x0000A000).setKcp { wKp.kcp with mbx := [⟨2, 0, ⟨0x507, 0, 9, none, 11, 0xF312, 4, 0⟩, 0⟩, ⟨2, 1, ⟨0x507, 0, 9, none, 11, 0xF312, 4, 0⟩, 0⟩, ⟨2, 2, ⟨0x507, 0, 9, none, 11, 0xF312, 4, 0⟩, 0⟩, ⟨2, 3, ⟨0x507, 0, 9, none, 11, 0xF312, 4, 0⟩, 0⟩] })).custMbx (0xF000 + (0x312 : Fin 4096).val) = some (2 : Fin 8).val)
    ∧ ((List.range 4).find? (fun j => !((((wKp.put (MBX_CFG_EN 2) 1).wr (KCP_CUSTMAP 0) 0x0000A000).setKcp { wKp.kcp with mbx := [⟨2, 0, ⟨0x507, 0, 9, none, 11, 0xF312, 4, 0⟩, 0⟩, ⟨2, 1, ⟨0x507, 0, 9, none, 11, 0xF312, 4, 0⟩, 0⟩, ⟨2, 2, ⟨0x507, 0, 9, none, 11, 0xF312, 4, 0⟩, 0⟩, ⟨2, 3, ⟨0x507, 0, 9, none, 11, 0xF312, 4, 0⟩, 0⟩] })).kcp.mbx.any (fun (e : MbxReq) => e.mbx == (2 : Fin 8).val && e.slot == j)) = none))
    ∧ ((((((wKp.put (MBX_CFG_EN 2) 1).wr (KCP_CUSTMAP 0) 0x0000A000).setKcp { wKp.kcp with mbx := [⟨2, 1, ⟨0x507, 0, 9, none, 11, 0xF312, 4, 0⟩, 0⟩] }).wrBytes (reqSlot 2 1 + 0x4000) [3, 0]).Reaches (Initiator.kp : Initiator) (MBX_DONE (2 : Fin 8).val).addr)
    ∧ (setBits 4 (2 : Word).toNat = [(1 : Fin 4).val])
    ∧ (((((wKp.put (MBX_CFG_EN 2) 1).wr (KCP_CUSTMAP 0) 0x0000A000).setKcp { wKp.kcp with mbx := [⟨2, 1, ⟨0x507, 0, 9, none, 11, 0xF312, 4, 0⟩, 0⟩] }).wrBytes (reqSlot 2 1 + 0x4000) [3, 0]).kcp.mbx.find? (fun (o : MbxReq) => o.mbx == (2 : Fin 8).val && o.slot == (1 : Fin 4).val) = some (⟨2, 1, ⟨0x507, 0, 9, none, 11, 0xF312, 4, 0⟩, 0⟩ : MbxReq))
    ∧ (((((wKp.put (MBX_CFG_EN 2) 1).wr (KCP_CUSTMAP 0) 0x0000A000).setKcp { wKp.kcp with mbx := [⟨2, 1, ⟨0x507, 0, 9, none, 11, 0xF312, 4, 0⟩, 0⟩] }).wrBytes (reqSlot 2 1 + 0x4000) [3, 0]).session (⟨2, 1, ⟨0x507, 0, 9, none, 11, 0xF312, 4, 0⟩, 0⟩ : MbxReq).tok.handle = some (wCtx : Ctx))
    ∧ ((wCtx : Ctx).tport = (⟨2, 1, ⟨0x507, 0, 9, none, 11, 0xF312, 4, 0⟩, 0⟩ : MbxReq).tok.tport)
    ∧ ((wCtx : Ctx).peer = (⟨2, 1, ⟨0x507, 0, 9, none, 11, 0xF312, 4, 0⟩, 0⟩ : MbxReq).tok.peer)
    ∧ (2 ≤ (leNat (((((wKp.put (MBX_CFG_EN 2) 1).wr (KCP_CUSTMAP 0) 0x0000A000).setKcp { wKp.kcp with mbx := [⟨2, 1, ⟨0x507, 0, 9, none, 11, 0xF312, 4, 0⟩, 0⟩] }).wrBytes (reqSlot 2 1 + 0x4000) [3, 0]).rdBytes (reqSlot (2 : Fin 8).val (1 : Fin 4).val + 0x4000) 2)))
    ∧ ((leNat (((((wKp.put (MBX_CFG_EN 2) 1).wr (KCP_CUSTMAP 0) 0x0000A000).setKcp { wKp.kcp with mbx := [⟨2, 1, ⟨0x507, 0, 9, none, 11, 0xF312, 4, 0⟩, 0⟩] }).wrBytes (reqSlot 2 1 + 0x4000) [3, 0]).rdBytes (reqSlot (2 : Fin 8).val (1 : Fin 4).val + 0x4000) 2)) ≤ 4064))
    ∧ ((((((wKp.put (MBX_CFG_EN 2) 1).wr (KCP_CUSTMAP 0) 0x0000A000).setKcp { wKp.kcp with mbx := [⟨2, 1, ⟨0x507, 0, 9, none, 11, 0xF312, 4, 0⟩, 0⟩] })).Reaches (Initiator.kp : Initiator) (MBX_DONE (2 : Fin 8).val).addr)
    ∧ (setBits 4 (2 : Word).toNat = [(1 : Fin 4).val])
    ∧ (((((wKp.put (MBX_CFG_EN 2) 1).wr (KCP_CUSTMAP 0) 0x0000A000).setKcp { wKp.kcp with mbx := [⟨2, 1, ⟨0x507, 0, 9, none, 11, 0xF312, 4, 0⟩, 0⟩] })).kcp.mbx.find? (fun (o : MbxReq) => o.mbx == (2 : Fin 8).val && o.slot == (1 : Fin 4).val) = some (⟨2, 1, ⟨0x507, 0, 9, none, 11, 0xF312, 4, 0⟩, 0⟩ : MbxReq))
    ∧ (((((wKp.put (MBX_CFG_EN 2) 1).wr (KCP_CUSTMAP 0) 0x0000A000).setKcp { wKp.kcp with mbx := [⟨2, 1, ⟨0x507, 0, 9, none, 11, 0xF312, 4, 0⟩, 0⟩] })).session (⟨2, 1, ⟨0x507, 0, 9, none, 11, 0xF312, 4, 0⟩, 0⟩ : MbxReq).tok.handle = some (wCtx : Ctx))
    ∧ ((wCtx : Ctx).tport = (⟨2, 1, ⟨0x507, 0, 9, none, 11, 0xF312, 4, 0⟩, 0⟩ : MbxReq).tok.tport)
    ∧ ((wCtx : Ctx).peer = (⟨2, 1, ⟨0x507, 0, 9, none, 11, 0xF312, 4, 0⟩, 0⟩ : MbxReq).tok.peer)
    ∧ ((leNat (((((wKp.put (MBX_CFG_EN 2) 1).wr (KCP_CUSTMAP 0) 0x0000A000).setKcp { wKp.kcp with mbx := [⟨2, 1, ⟨0x507, 0, 9, none, 11, 0xF312, 4, 0⟩, 0⟩] })).rdBytes (reqSlot (2 : Fin 8).val (1 : Fin 4).val + 0x4000) 2)) < 2 ∨ 4064 < (leNat (((((wKp.put (MBX_CFG_EN 2) 1).wr (KCP_CUSTMAP 0) 0x0000A000).setKcp { wKp.kcp with mbx := [⟨2, 1, ⟨0x507, 0, 9, none, 11, 0xF312, 4, 0⟩, 0⟩] })).rdBytes (reqSlot (2 : Fin 8).val (1 : Fin 4).val + 0x4000) 2)))) := by
  and_intros <;> decide +kernel

theorem witness_queues_deadlines_and_mailboxes_part4 :
    ((wKp.Reaches (Initiator.kp : Initiator) (MBX_DONE (2 : Fin 8).val).addr)
    ∧ (setBits 4 (2 : Word).toNat = [(1 : Fin 4).val])
    ∧ (wKp.kcp.mbx.find? (fun (o : MbxReq) => o.mbx == (2 : Fin 8).val && o.slot == (1 : Fin 4).val) = none))
    ∧ ((((((wKp.put (MBX_CFG_EN 2) 1).wr (KCP_CUSTMAP 0) 0x0000A000).setKcp { wKp.kcp with mbx := [⟨2, 1, ⟨0x507, 0, 9, none, 11, 0xF312, 4, 0⟩, 0⟩] })).Reaches (Initiator.kp : Initiator) (MBX_DONE (2 : Fin 8).val).addr))
    ∧ ((({ (((wKp.put (MBX_CFG_EN 2) 1).wr (KCP_CUSTMAP 0) 0x0000A000).setKcp { wKp.kcp with mbx := [⟨2, 1, ⟨0x507, 0, 9, none, 11, 0xF312, 4, 0⟩, 0⟩] }) with cyc := 10 ^ 9 }).kcp.mbx.find? (fun (o : MbxReq) => o.mbx == (2 : Fin 8).val && o.slot == (1 : Fin 4).val) = some (⟨2, 1, ⟨0x507, 0, 9, none, 11, 0xF312, 4, 0⟩, 0⟩ : MbxReq))
    ∧ (({ (((wKp.put (MBX_CFG_EN 2) 1).wr (KCP_CUSTMAP 0) 0x0000A000).setKcp { wKp.kcp with mbx := [⟨2, 1, ⟨0x507, 0, 9, none, 11, 0xF312, 4, 0⟩, 0⟩] }) with cyc := 10 ^ 9 }).session (⟨2, 1, ⟨0x507, 0, 9, none, 11, 0xF312, 4, 0⟩, 0⟩ : MbxReq).tok.handle = some (wCtx : Ctx))
    ∧ ((wCtx : Ctx).tport = (⟨2, 1, ⟨0x507, 0, 9, none, 11, 0xF312, 4, 0⟩, 0⟩ : MbxReq).tok.tport)
    ∧ ((wCtx : Ctx).peer = (⟨2, 1, ⟨0x507, 0, 9, none, 11, 0xF312, 4, 0⟩, 0⟩ : MbxReq).tok.peer)
    ∧ (({ (((wKp.put (MBX_CFG_EN 2) 1).wr (KCP_CUSTMAP 0) 0x0000A000).setKcp { wKp.kcp with mbx := [⟨2, 1, ⟨0x507, 0, 9, none, 11, 0xF312, 4, 0⟩, 0⟩] }) with cyc := 10 ^ 9 }).kpRuns = true)
    ∧ ((⟨2, 1, ⟨0x507, 0, 9, none, 11, 0xF312, 4, 0⟩, 0⟩ : MbxReq).since + max 1 (({ (((wKp.put (MBX_CFG_EN 2) 1).wr (KCP_CUSTMAP 0) 0x0000A000).setKcp { wKp.kcp with mbx := [⟨2, 1, ⟨0x507, 0, 9, none, 11, 0xF312, 4, 0⟩, 0⟩] }) with cyc := 10 ^ 9 }).get (MBX_CFG_TMO (2 : Fin 8).val)) * 1000000 ≤ ({ (((wKp.put (MBX_CFG_EN 2) 1).wr (KCP_CUSTMAP 0) 0x0000A000).setKcp { wKp.kcp with mbx := [⟨2, 1, ⟨0x507, 0, 9, none, 11, 0xF312, 4, 0⟩, 0⟩] }) with cyc := 10 ^ 9 }).tick))
    ∧ ((((((wKp.put (MBX_CFG_EN 2) 1).wr (KCP_CUSTMAP 0) 0x0000A000).setKcp { wKp.kcp with mbx := [⟨2, 1, ⟨0x507, 0, 9, none, 11, 0xF312, 4, 0⟩, 0⟩] })).kpRuns = false ∨ (((((wKp.put (MBX_CFG_EN 2) 1).wr (KCP_CUSTMAP 0) 0x0000A000).setKcp { wKp.kcp with mbx := [⟨2, 1, ⟨0x507, 0, 9, none, 11, 0xF312, 4, 0⟩, 0⟩] })).kcp.mbx.find? (fun (o : MbxReq) => o.mbx == (2 : Fin 8).val && o.slot == (1 : Fin 4).val)).all (fun (o : MbxReq) => decide (((((wKp.put (MBX_CFG_EN 2) 1).wr (KCP_CUSTMAP 0) 0x0000A000).setKcp { wKp.kcp with mbx := [⟨2, 1, ⟨0x507, 0, 9, none, 11, 0xF312, 4, 0⟩, 0⟩] })).tick < o.since + max 1 (((((wKp.put (MBX_CFG_EN 2) 1).wr (KCP_CUSTMAP 0) 0x0000A000).setKcp { wKp.kcp with mbx := [⟨2, 1, ⟨0x507, 0, 9, none, 11, 0xF312, 4, 0⟩, 0⟩] })).get (MBX_CFG_TMO (2 : Fin 8).val)) * 1000000)) = true)) := by
  and_intros <;> decide +kernel

theorem witness_setpoints_reach_their_mailbox_half :
    ((((wKp.put MDM_ACTIVE_ACTIVE 0x1).setCe 0 { wCore with slots := List.replicate 3 ⟨none, true, none, none⟩ }).ce.length = 8 ∧ (((wKp.put MDM_ACTIVE_ACTIVE 0x1).setCe 0 { wCore with slots := List.replicate 3 ⟨none, true, none, none⟩ }).ceOf 0).slots.length = 3)
    ∧ (((wKp.put MDM_ACTIVE_ACTIVE 0x1).setCe 0 { wCore with slots := List.replicate 3 ⟨none, true, none, none⟩ }).Open 0x0301 1 (wReq [0x3F, 0x80, 0, 0, 0, 0, 0, 0] : Req) (wCtx : Ctx))
    ∧ (((wKp.put MDM_ACTIVE_ACTIVE 0x1).setCe 0 { wCore with slots := List.replicate 3 ⟨none, true, none, none⟩ }).checkParams 0x0301 (wReq [0x3F, 0x80, 0, 0, 0, 0, 0, 0] : Req).pay = none)
    ∧ (((wKp.put MDM_ACTIVE_ACTIVE 0x1).setCe 0 { wCore with slots := List.replicate 3 ⟨none, true, none, none⟩ }).c1Refusal (tokOf (wReq [0x3F, 0x80, 0, 0, 0, 0, 0, 0] : Req).ctx.val (wCtx : Ctx) 0x0301 (wReq [0x3F, 0x80, 0, 0, 0, 0, 0, 0] : Req).seq.toNat 1) (wReq [0x3F, 0x80, 0, 0, 0, 0, 0, 0] : Req).pay = none)
    ∧ (((wKp.put MDM_ACTIVE_ACTIVE 0x1).setCe 0 { wCore with slots := List.replicate 3 ⟨none, true, none, none⟩ }).c1Older (tokOf (wReq [0x3F, 0x80, 0, 0, 0, 0, 0, 0] : Req).ctx.val (wCtx : Ctx) 0x0301 (wReq [0x3F, 0x80, 0, 0, 0, 0, 0, 0] : Req).seq.toNat 1) 0 = false))
    ∧ ((((wKp.put MDM_ACTIVE_ACTIVE 0x1).setCe 0 { wCore with slots := List.replicate 3 ⟨none, true, none, none⟩ } |>.setKcp { wKp.kcp with c1 := [⟨0, 0, 0, 0, ⟨0x507, 0, 9, none, 9, 0x0301, 1, 0⟩, none, none⟩] }).ce.length = 8 ∧ (((wKp.put MDM_ACTIVE_ACTIVE 0x1).setCe 0 { wCore with slots := List.replicate 3 ⟨none, true, none, none⟩ } |>.setKcp { wKp.kcp with c1 := [⟨0, 0, 0, 0, ⟨0x507, 0, 9, none, 9, 0x0301, 1, 0⟩, none, none⟩] }).ceOf 0).slots.length = 3)
    ∧ (((wKp.put MDM_ACTIVE_ACTIVE 0x1).setCe 0 { wCore with slots := List.replicate 3 ⟨none, true, none, none⟩ } |>.setKcp { wKp.kcp with c1 := [⟨0, 0, 0, 0, ⟨0x507, 0, 9, none, 9, 0x0301, 1, 0⟩, none, none⟩] }).Open 0x0301 1 (wReq [0x3F, 0x80, 0, 0, 0, 0, 0, 0] : Req) (wCtx : Ctx))
    ∧ (((wKp.put MDM_ACTIVE_ACTIVE 0x1).setCe 0 { wCore with slots := List.replicate 3 ⟨none, true, none, none⟩ } |>.setKcp { wKp.kcp with c1 := [⟨0, 0, 0, 0, ⟨0x507, 0, 9, none, 9, 0x0301, 1, 0⟩, none, none⟩] }).checkParams 0x0301 (wReq [0x3F, 0x80, 0, 0, 0, 0, 0, 0] : Req).pay = none)
    ∧ (((wKp.put MDM_ACTIVE_ACTIVE 0x1).setCe 0 { wCore with slots := List.replicate 3 ⟨none, true, none, none⟩ } |>.setKcp { wKp.kcp with c1 := [⟨0, 0, 0, 0, ⟨0x507, 0, 9, none, 9, 0x0301, 1, 0⟩, none, none⟩] }).c1Refusal (tokOf (wReq [0x3F, 0x80, 0, 0, 0, 0, 0, 0] : Req).ctx.val (wCtx : Ctx) 0x0301 (wReq [0x3F, 0x80, 0, 0, 0, 0, 0, 0] : Req).seq.toNat 1) (wReq [0x3F, 0x80, 0, 0, 0, 0, 0, 0] : Req).pay = none)
    ∧ (((wKp.put MDM_ACTIVE_ACTIVE 0x1).setCe 0 { wCore with slots := List.replicate 3 ⟨none, true, none, none⟩ } |>.setKcp { wKp.kcp with c1 := [⟨0, 0, 0, 0, ⟨0x507, 0, 9, none, 9, 0x0301, 1, 0⟩, none, none⟩] }).c1Older (tokOf (wReq [0x3F, 0x80, 0, 0, 0, 0, 0, 0] : Req).ctx.val (wCtx : Ctx) 0x0301 (wReq [0x3F, 0x80, 0, 0, 0, 0, 0, 0] : Req).seq.toNat 1) 0 = false)
    ∧ (((wKp.put MDM_ACTIVE_ACTIVE 0x1).setCe 0 { wCore with slots := List.replicate 3 ⟨none, true, none, none⟩ } |>.setKcp { wKp.kcp with c1 := [⟨0, 0, 0, 0, ⟨0x507, 0, 9, none, 9, 0x0301, 1, 0⟩, none, none⟩] }).kcp.c1.filter (fun (o : C1Set) => o.ce == 0 && o.slot == 0) = [(⟨0, 0, 0, 0, ⟨0x507, 0, 9, none, 9, 0x0301, 1, 0⟩, none, none⟩ : C1Set)])
    ∧ ((⟨0, 0, 0, 0, ⟨0x507, 0, 9, none, 9, 0x0301, 1, 0⟩, none, none⟩ : C1Set).drop = none)
    ∧ ((⟨0, 0, 0, 0, ⟨0x507, 0, 9, none, 9, 0x0301, 1, 0⟩, none, none⟩ : C1Set).tok.handle = ((wReq [0x3F, 0x80, 0, 0, 0, 0, 0, 0] : Req).ctx.val * 256 + (wCtx : Ctx).gen))
    ∧ ((⟨0, 0, 0, 0, ⟨0x507, 0, 9, none, 9, 0x0301, 1, 0⟩, none, none⟩ : C1Set).tok.tport = (wCtx : Ctx).tport)
    ∧ ((⟨0, 0, 0, 0, ⟨0x507, 0, 9, none, 9, 0x0301, 1, 0⟩, none, none⟩ : C1Set).tok.peer = (wCtx : Ctx).peer))
    ∧ (((wKp.setCe 0 { wCore with slots := List.replicate 3 ⟨none, true, none, none⟩ }).ce.length = 8 ∧ ((wKp.setCe 0 { wCore with slots := List.replicate 3 ⟨none, true, none, none⟩ }).ceOf 0).slots.length = 3)
    ∧ ((wKp.setCe 0 { wCore with slots := List.replicate 3 ⟨none, true, none, none⟩ }).Open 0x0301 1 (wReq [0x3F, 0x80, 0, 0, 0, 0, 0, 0] : Req) (wCtx : Ctx))
    ∧ ((wKp.setCe 0 { wCore with slots := List.replicate 3 ⟨none, true, none, none⟩ }).checkParams 0x0301 (wReq [0x3F, 0x80, 0, 0, 0, 0, 0, 0] : Req).pay = none)
    ∧ ((wKp.setCe 0 { wCore with slots := List.replicate 3 ⟨none, true, none, none⟩ }).c1Refusal (tokOf (wReq [0x3F, 0x80, 0, 0, 0, 0, 0, 0] : Req).ctx.val (wCtx : Ctx) 0x0301 (wReq [0x3F, 0x80, 0, 0, 0, 0, 0, 0] : Req).seq.toNat 1) (wReq [0x3F, 0x80, 0, 0, 0, 0, 0, 0] : Req).pay = some ((stBadState : Nat), ([] : List Byte))))
    ∧ ((((wKp.put MDM_ACTIVE_ACTIVE 0xC00).setCe 0 { wCore with slots := List.replicate 3 ⟨none, true, none, none⟩ }).ce.length = 8 ∧ (((wKp.put MDM_ACTIVE_ACTIVE 0xC00).setCe 0 { wCore with slots := List.replicate 3 ⟨none, true, none, none⟩ }).ceOf 0).slots.length = 3)
    ∧ (((wKp.put MDM_ACTIVE_ACTIVE 0xC00).setCe 0 { wCore with slots := List.replicate 3 ⟨none, true, none, none⟩ }).Open 0x0301 1 (wReq [0x3F, 0x80, 0, 0, 0, 0, 0, 0] : Req) (wCtx : Ctx))
    ∧ (((wKp.put MDM_ACTIVE_ACTIVE 0xC00).setCe 0 { wCore with slots := List.replicate 3 ⟨none, true, none, none⟩ }).checkParams 0x0301 (wReq [0x3F, 0x80, 0, 0, 0, 0, 0, 0] : Req).pay = none)
    ∧ (((wKp.put MDM_ACTIVE_ACTIVE 0xC00).setCe 0 { wCore with slots := List.replicate 3 ⟨none, true, none, none⟩ }).active 10 = true ∨ ((wKp.put MDM_ACTIVE_ACTIVE 0xC00).setCe 0 { wCore with slots := List.replicate 3 ⟨none, true, none, none⟩ }).active 11 = true))
    ∧ ((((wKp.put MDM_ACTIVE_ACTIVE 0x1).setCe 0 { wCore with slots := List.replicate 3 ⟨none, true, none, none⟩ } |>.setKcp { wKp.kcp with c1seq := [(0x507, 0, 12)] }).ce.length = 8 ∧ (((wKp.put MDM_ACTIVE_ACTIVE 0x1).setCe 0 { wCore with slots := List.replicate 3 ⟨none, true, none, none⟩ } |>.setKcp { wKp.kcp with c1seq := [(0x507, 0, 12)] }).ceOf 0).slots.length = 3)
    ∧ (((wKp.put MDM_ACTIVE_ACTIVE 0x1).setCe 0 { wCore with slots := List.replicate 3 ⟨none, true, none, none⟩ } |>.setKcp { wKp.kcp with c1seq := [(0x507, 0, 12)] }).Open 0x0301 1 (wReq [0x3F, 0x80, 0, 0, 0, 0, 0, 0] : Req) (wCtx : Ctx))
    ∧ (((wKp.put MDM_ACTIVE_ACTIVE 0x1).setCe 0 { wCore with slots := List.replicate 3 ⟨none, true, none, none⟩ } |>.setKcp { wKp.kcp with c1seq := [(0x507, 0, 12)] }).checkParams 0x0301 (wReq [0x3F, 0x80, 0, 0, 0, 0, 0, 0] : Req).pay = none)
    ∧ (((wKp.put MDM_ACTIVE_ACTIVE 0x1).setCe 0 { wCore with slots := List.replicate 3 ⟨none, true, none, none⟩ } |>.setKcp { wKp.kcp with c1seq := [(0x507, 0, 12)] }).c1Refusal (tokOf (wReq [0x3F, 0x80, 0, 0, 0, 0, 0, 0] : Req).ctx.val (wCtx : Ctx) 0x0301 (wReq [0x3F, 0x80, 0, 0, 0, 0, 0, 0] : Req).seq.toNat 1) (wReq [0x3F, 0x80, 0, 0, 0, 0, 0, 0] : Req).pay = none)
    ∧ (((wKp.put MDM_ACTIVE_ACTIVE 0x1).setCe 0 { wCore with slots := List.replicate 3 ⟨none, true, none, none⟩ } |>.setKcp { wKp.kcp with c1seq := [(0x507, 0, 12)] }).c1Older (tokOf (wReq [0x3F, 0x80, 0, 0, 0, 0, 0, 0] : Req).ctx.val (wCtx : Ctx) 0x0301 (wReq [0x3F, 0x80, 0, 0, 0, 0, 0, 0] : Req).seq.toNat 1) 0 = true))
    ∧ ((((wKp.put MDM_ACTIVE_ACTIVE 0x2).setCe 2 { wCore with slots := List.replicate 3 ⟨none, true, none, none⟩ }).ce.length = 8 ∧ (((wKp.put MDM_ACTIVE_ACTIVE 0x2).setCe 2 { wCore with slots := List.replicate 3 ⟨none, true, none, none⟩ }).ceOf 2).slots.length = 3)
    ∧ (((wKp.put MDM_ACTIVE_ACTIVE 0x2).setCe 2 { wCore with slots := List.replicate 3 ⟨none, true, none, none⟩ }).Open 0x0302 1 (wReq [0x3F, 0x80, 0, 0, 0, 0, 0, 0] : Req) (wCtx : Ctx))
    ∧ (((wKp.put MDM_ACTIVE_ACTIVE 0x2).setCe 2 { wCore with slots := List.replicate 3 ⟨none, true, none, none⟩ }).checkParams 0x0302 (wReq [0x3F, 0x80, 0, 0, 0, 0, 0, 0] : Req).pay = none)
    ∧ (((wKp.put MDM_ACTIVE_ACTIVE 0x2).setCe 2 { wCore with slots := List.replicate 3 ⟨none, true, none, none⟩ }).c1Refusal (tokOf (wReq [0x3F, 0x80, 0, 0, 0, 0, 0, 0] : Req).ctx.val (wCtx : Ctx) 0x0302 (wReq [0x3F, 0x80, 0, 0, 0, 0, 0, 0] : Req).seq.toNat 1) (wReq [0x3F, 0x80, 0, 0, 0, 0, 0, 0] : Req).pay = none)
    ∧ (((wKp.put MDM_ACTIVE_ACTIVE 0x2).setCe 2 { wCore with slots := List.replicate 3 ⟨none, true, none, none⟩ }).c1Older (tokOf (wReq [0x3F, 0x80, 0, 0, 0, 0, 0, 0] : Req).ctx.val (wCtx : Ctx) 0x0302 (wReq [0x3F, 0x80, 0, 0, 0, 0, 0, 0] : Req).seq.toNat 1) 8 = false)) := by
  and_intros <;> decide +kernel

theorem witness_setpoints_reach_their_mailbox_half_part2 :
    ((((wKp.put MDM_ACTIVE_ACTIVE 0x2).setCe 2 { wCore with slots := List.replicate 3 ⟨none, true, none, none⟩ } |>.setKcp { wKp.kcp with c1 := [⟨2, 0, 0, 1, ⟨0x507, 0, 9, none, 9, 0x0302, 1, 0⟩, none, none⟩] }).ce.length = 8 ∧ (((wKp.put MDM_ACTIVE_ACTIVE 0x2).setCe 2 { wCore with slots := List.replicate 3 ⟨none, true, none, none⟩ } |>.setKcp { wKp.kcp with c1 := [⟨2, 0, 0, 1, ⟨0x507, 0, 9, none, 9, 0x0302, 1, 0⟩, none, none⟩] }).ceOf 2).slots.length = 3)
    ∧ (((wKp.put MDM_ACTIVE_ACTIVE 0x2).setCe 2 { wCore with slots := List.replicate 3 ⟨none, true, none, none⟩ } |>.setKcp { wKp.kcp with c1 := [⟨2, 0, 0, 1, ⟨0x507, 0, 9, none, 9, 0x0302, 1, 0⟩, none, none⟩] }).Open 0x0302 1 (wReq [0x3F, 0x80, 0, 0, 0, 0, 0, 0] : Req) (wCtx : Ctx))
    ∧ (((wKp.put MDM_ACTIVE_ACTIVE 0x2).setCe 2 { wCore with slots := List.replicate 3 ⟨none, true, none, none⟩ } |>.setKcp { wKp.kcp with c1 := [⟨2, 0, 0, 1, ⟨0x507, 0, 9, none, 9, 0x0302, 1, 0⟩, none, none⟩] }).checkParams 0x0302 (wReq [0x3F, 0x80, 0, 0, 0, 0, 0, 0] : Req).pay = none)
    ∧ (((wKp.put MDM_ACTIVE_ACTIVE 0x2).setCe 2 { wCore with slots := List.replicate 3 ⟨none, true, none, none⟩ } |>.setKcp { wKp.kcp with c1 := [⟨2, 0, 0, 1, ⟨0x507, 0, 9, none, 9, 0x0302, 1, 0⟩, none, none⟩] }).c1Refusal (tokOf (wReq [0x3F, 0x80, 0, 0, 0, 0, 0, 0] : Req).ctx.val (wCtx : Ctx) 0x0302 (wReq [0x3F, 0x80, 0, 0, 0, 0, 0, 0] : Req).seq.toNat 1) (wReq [0x3F, 0x80, 0, 0, 0, 0, 0, 0] : Req).pay = none)
    ∧ (((wKp.put MDM_ACTIVE_ACTIVE 0x2).setCe 2 { wCore with slots := List.replicate 3 ⟨none, true, none, none⟩ } |>.setKcp { wKp.kcp with c1 := [⟨2, 0, 0, 1, ⟨0x507, 0, 9, none, 9, 0x0302, 1, 0⟩, none, none⟩] }).c1Older (tokOf (wReq [0x3F, 0x80, 0, 0, 0, 0, 0, 0] : Req).ctx.val (wCtx : Ctx) 0x0302 (wReq [0x3F, 0x80, 0, 0, 0, 0, 0, 0] : Req).seq.toNat 1) 8 = false)
    ∧ (((wKp.put MDM_ACTIVE_ACTIVE 0x2).setCe 2 { wCore with slots := List.replicate 3 ⟨none, true, none, none⟩ } |>.setKcp { wKp.kcp with c1 := [⟨2, 0, 0, 1, ⟨0x507, 0, 9, none, 9, 0x0302, 1, 0⟩, none, none⟩] }).kcp.c1.filter (fun (o : C1Set) => o.ce == 2 && o.slot == 0) = [(⟨2, 0, 0, 1, ⟨0x507, 0, 9, none, 9, 0x0302, 1, 0⟩, none, none⟩ : C1Set)])
    ∧ ((⟨2, 0, 0, 1, ⟨0x507, 0, 9, none, 9, 0x0302, 1, 0⟩, none, none⟩ : C1Set).drop = none)
    ∧ ((⟨2, 0, 0, 1, ⟨0x507, 0, 9, none, 9, 0x0302, 1, 0⟩, none, none⟩ : C1Set).tok.handle = ((wReq [0x3F, 0x80, 0, 0, 0, 0, 0, 0] : Req).ctx.val * 256 + (wCtx : Ctx).gen))
    ∧ ((⟨2, 0, 0, 1, ⟨0x507, 0, 9, none, 9, 0x0302, 1, 0⟩, none, none⟩ : C1Set).tok.tport = (wCtx : Ctx).tport)
    ∧ ((⟨2, 0, 0, 1, ⟨0x507, 0, 9, none, 9, 0x0302, 1, 0⟩, none, none⟩ : C1Set).tok.peer = (wCtx : Ctx).peer))
    ∧ (((wKp.setCe 2 { wCore with slots := List.replicate 3 ⟨none, true, none, none⟩ }).ce.length = 8 ∧ ((wKp.setCe 2 { wCore with slots := List.replicate 3 ⟨none, true, none, none⟩ }).ceOf 2).slots.length = 3)
    ∧ ((wKp.setCe 2 { wCore with slots := List.replicate 3 ⟨none, true, none, none⟩ }).Open 0x0302 1 (wReq [0x3F, 0x80, 0, 0, 0, 0, 0, 0] : Req) (wCtx : Ctx))
    ∧ ((wKp.setCe 2 { wCore with slots := List.replicate 3 ⟨none, true, none, none⟩ }).checkParams 0x0302 (wReq [0x3F, 0x80, 0, 0, 0, 0, 0, 0] : Req).pay = none)
    ∧ ((wKp.setCe 2 { wCore with slots := List.replicate 3 ⟨none, true, none, none⟩ }).c1Refusal (tokOf (wReq [0x3F, 0x80, 0, 0, 0, 0, 0, 0] : Req).ctx.val (wCtx : Ctx) 0x0302 (wReq [0x3F, 0x80, 0, 0, 0, 0, 0, 0] : Req).seq.toNat 1) (wReq [0x3F, 0x80, 0, 0, 0, 0, 0, 0] : Req).pay = some ((stBadState : Nat), ([] : List Byte))))
    ∧ ((((wKp.put MDM_ACTIVE_ACTIVE 0xC00).setCe 2 { wCore with slots := List.replicate 3 ⟨none, true, none, none⟩ }).ce.length = 8 ∧ (((wKp.put MDM_ACTIVE_ACTIVE 0xC00).setCe 2 { wCore with slots := List.replicate 3 ⟨none, true, none, none⟩ }).ceOf 2).slots.length = 3)
    ∧ (((wKp.put MDM_ACTIVE_ACTIVE 0xC00).setCe 2 { wCore with slots := List.replicate 3 ⟨none, true, none, none⟩ }).Open 0x0302 1 (wReq [0x3F, 0x80, 0, 0, 0, 0, 0, 0] : Req) (wCtx : Ctx))
    ∧ (((wKp.put MDM_ACTIVE_ACTIVE 0xC00).setCe 2 { wCore with slots := List.replicate 3 ⟨none, true, none, none⟩ }).checkParams 0x0302 (wReq [0x3F, 0x80, 0, 0, 0, 0, 0, 0] : Req).pay = none)
    ∧ (((wKp.put MDM_ACTIVE_ACTIVE 0xC00).setCe 2 { wCore with slots := List.replicate 3 ⟨none, true, none, none⟩ }).active 10 = true ∨ ((wKp.put MDM_ACTIVE_ACTIVE 0xC00).setCe 2 { wCore with slots := List.replicate 3 ⟨none, true, none, none⟩ }).active 11 = true))
    ∧ ((((wKp.put MDM_ACTIVE_ACTIVE 0x2).setCe 2 { wCore with slots := List.replicate 3 ⟨none, true, none, none⟩ } |>.setKcp { wKp.kcp with c1seq := [(0x507, 8, 12)] }).ce.length = 8 ∧ (((wKp.put MDM_ACTIVE_ACTIVE 0x2).setCe 2 { wCore with slots := List.replicate 3 ⟨none, true, none, none⟩ } |>.setKcp { wKp.kcp with c1seq := [(0x507, 8, 12)] }).ceOf 2).slots.length = 3)
    ∧ (((wKp.put MDM_ACTIVE_ACTIVE 0x2).setCe 2 { wCore with slots := List.replicate 3 ⟨none, true, none, none⟩ } |>.setKcp { wKp.kcp with c1seq := [(0x507, 8, 12)] }).Open 0x0302 1 (wReq [0x3F, 0x80, 0, 0, 0, 0, 0, 0] : Req) (wCtx : Ctx))
    ∧ (((wKp.put MDM_ACTIVE_ACTIVE 0x2).setCe 2 { wCore with slots := List.replicate 3 ⟨none, true, none, none⟩ } |>.setKcp { wKp.kcp with c1seq := [(0x507, 8, 12)] }).checkParams 0x0302 (wReq [0x3F, 0x80, 0, 0, 0, 0, 0, 0] : Req).pay = none)
    ∧ (((wKp.put MDM_ACTIVE_ACTIVE 0x2).setCe 2 { wCore with slots := List.replicate 3 ⟨none, true, none, none⟩ } |>.setKcp { wKp.kcp with c1seq := [(0x507, 8, 12)] }).c1Refusal (tokOf (wReq [0x3F, 0x80, 0, 0, 0, 0, 0, 0] : Req).ctx.val (wCtx : Ctx) 0x0302 (wReq [0x3F, 0x80, 0, 0, 0, 0, 0, 0] : Req).seq.toNat 1) (wReq [0x3F, 0x80, 0, 0, 0, 0, 0, 0] : Req).pay = none)
    ∧ (((wKp.put MDM_ACTIVE_ACTIVE 0x2).setCe 2 { wCore with slots := List.replicate 3 ⟨none, true, none, none⟩ } |>.setKcp { wKp.kcp with c1seq := [(0x507, 8, 12)] }).c1Older (tokOf (wReq [0x3F, 0x80, 0, 0, 0, 0, 0, 0] : Req).ctx.val (wCtx : Ctx) 0x0302 (wReq [0x3F, 0x80, 0, 0, 0, 0, 0, 0] : Req).seq.toNat 1) 8 = true))
    ∧ ((((wKp.put MDM_ACTIVE_ACTIVE 0x80).setCe 0 { wCore with slots := List.replicate 3 ⟨none, true, none, none⟩ }).ce.length = 8 ∧ (((wKp.put MDM_ACTIVE_ACTIVE 0x80).setCe 0 { wCore with slots := List.replicate 3 ⟨none, true, none, none⟩ }).ceOf 0).slots.length = 3)
    ∧ (((wKp.put MDM_ACTIVE_ACTIVE 0x80).setCe 0 { wCore with slots := List.replicate 3 ⟨none, true, none, none⟩ }).Open 0x0303 1 (wReq [0x3F, 0x80, 0, 0] : Req) (wCtx : Ctx))
    ∧ (((wKp.put MDM_ACTIVE_ACTIVE 0x80).setCe 0 { wCore with slots := List.replicate 3 ⟨none, true, none, none⟩ }).checkParams 0x0303 (wReq [0x3F, 0x80, 0, 0] : Req).pay = none)
    ∧ (((wKp.put MDM_ACTIVE_ACTIVE 0x80).setCe 0 { wCore with slots := List.replicate 3 ⟨none, true, none, none⟩ }).c1Refusal (tokOf (wReq [0x3F, 0x80, 0, 0] : Req).ctx.val (wCtx : Ctx) 0x0303 (wReq [0x3F, 0x80, 0, 0] : Req).seq.toNat 1) (wReq [0x3F, 0x80, 0, 0] : Req).pay = none)
    ∧ (((wKp.put MDM_ACTIVE_ACTIVE 0x80).setCe 0 { wCore with slots := List.replicate 3 ⟨none, true, none, none⟩ }).c1Older (tokOf (wReq [0x3F, 0x80, 0, 0] : Req).ctx.val (wCtx : Ctx) 0x0303 (wReq [0x3F, 0x80, 0, 0] : Req).seq.toNat 1) 1 = false))
    ∧ ((((wKp.put MDM_ACTIVE_ACTIVE 0x80).setCe 0 { wCore with slots := List.replicate 3 ⟨none, true, none, none⟩ } |>.setKcp { wKp.kcp with c1 := [⟨0, 1, 0, 7, ⟨0x507, 0, 9, none, 9, 0x0303, 1, 0⟩, none, none⟩] }).ce.length = 8 ∧ (((wKp.put MDM_ACTIVE_ACTIVE 0x80).setCe 0 { wCore with slots := List.replicate 3 ⟨none, true, none, none⟩ } |>.setKcp { wKp.kcp with c1 := [⟨0, 1, 0, 7, ⟨0x507, 0, 9, none, 9, 0x0303, 1, 0⟩, none, none⟩] }).ceOf 0).slots.length = 3)
    ∧ (((wKp.put MDM_ACTIVE_ACTIVE 0x80).setCe 0 { wCore with slots := List.replicate 3 ⟨none, true, none, none⟩ } |>.setKcp { wKp.kcp with c1 := [⟨0, 1, 0, 7, ⟨0x507, 0, 9, none, 9, 0x0303, 1, 0⟩, none, none⟩] }).Open 0x0303 1 (wReq [0x3F, 0x80, 0, 0] : Req) (wCtx : Ctx))
    ∧ (((wKp.put MDM_ACTIVE_ACTIVE 0x80).setCe 0 { wCore with slots := List.replicate 3 ⟨none, true, none, none⟩ } |>.setKcp { wKp.kcp with c1 := [⟨0, 1, 0, 7, ⟨0x507, 0, 9, none, 9, 0x0303, 1, 0⟩, none, none⟩] }).checkParams 0x0303 (wReq [0x3F, 0x80, 0, 0] : Req).pay = none)
    ∧ (((wKp.put MDM_ACTIVE_ACTIVE 0x80).setCe 0 { wCore with slots := List.replicate 3 ⟨none, true, none, none⟩ } |>.setKcp { wKp.kcp with c1 := [⟨0, 1, 0, 7, ⟨0x507, 0, 9, none, 9, 0x0303, 1, 0⟩, none, none⟩] }).c1Refusal (tokOf (wReq [0x3F, 0x80, 0, 0] : Req).ctx.val (wCtx : Ctx) 0x0303 (wReq [0x3F, 0x80, 0, 0] : Req).seq.toNat 1) (wReq [0x3F, 0x80, 0, 0] : Req).pay = none)
    ∧ (((wKp.put MDM_ACTIVE_ACTIVE 0x80).setCe 0 { wCore with slots := List.replicate 3 ⟨none, true, none, none⟩ } |>.setKcp { wKp.kcp with c1 := [⟨0, 1, 0, 7, ⟨0x507, 0, 9, none, 9, 0x0303, 1, 0⟩, none, none⟩] }).c1Older (tokOf (wReq [0x3F, 0x80, 0, 0] : Req).ctx.val (wCtx : Ctx) 0x0303 (wReq [0x3F, 0x80, 0, 0] : Req).seq.toNat 1) 1 = false)
    ∧ (((wKp.put MDM_ACTIVE_ACTIVE 0x80).setCe 0 { wCore with slots := List.replicate 3 ⟨none, true, none, none⟩ } |>.setKcp { wKp.kcp with c1 := [⟨0, 1, 0, 7, ⟨0x507, 0, 9, none, 9, 0x0303, 1, 0⟩, none, none⟩] }).kcp.c1.filter (fun (o : C1Set) => o.ce == 0 && o.slot == 1) = [(⟨0, 1, 0, 7, ⟨0x507, 0, 9, none, 9, 0x0303, 1, 0⟩, none, none⟩ : C1Set)])
    ∧ ((⟨0, 1, 0, 7, ⟨0x507, 0, 9, none, 9, 0x0303, 1, 0⟩, none, none⟩ : C1Set).drop = none)
    ∧ ((⟨0, 1, 0, 7, ⟨0x507, 0, 9, none, 9, 0x0303, 1, 0⟩, none, none⟩ : C1Set).tok.handle = ((wReq [0x3F, 0x80, 0, 0] : Req).ctx.val * 256 + (wCtx : Ctx).gen))
    ∧ ((⟨0, 1, 0, 7, ⟨0x507, 0, 9, none, 9, 0x0303, 1, 0⟩, none, none⟩ : C1Set).tok.tport = (wCtx : Ctx).tport)
    ∧ ((⟨0, 1, 0, 7, ⟨0x507, 0, 9, none, 9, 0x0303, 1, 0⟩, none, none⟩ : C1Set).tok.peer = (wCtx : Ctx).peer)) := by
  and_intros <;> decide +kernel

theorem witness_setpoints_reach_their_mailbox_half_part3 :
    (((wKp.setCe 0 { wCore with slots := List.replicate 3 ⟨none, true, none, none⟩ }).ce.length = 8 ∧ ((wKp.setCe 0 { wCore with slots := List.replicate 3 ⟨none, true, none, none⟩ }).ceOf 0).slots.length = 3)
    ∧ ((wKp.setCe 0 { wCore with slots := List.replicate 3 ⟨none, true, none, none⟩ }).Open 0x0303 1 (wReq [0x3F, 0x80, 0, 0] : Req) (wCtx : Ctx))
    ∧ ((wKp.setCe 0 { wCore with slots := List.replicate 3 ⟨none, true, none, none⟩ }).checkParams 0x0303 (wReq [0x3F, 0x80, 0, 0] : Req).pay = none)
    ∧ ((wKp.setCe 0 { wCore with slots := List.replicate 3 ⟨none, true, none, none⟩ }).c1Refusal (tokOf (wReq [0x3F, 0x80, 0, 0] : Req).ctx.val (wCtx : Ctx) 0x0303 (wReq [0x3F, 0x80, 0, 0] : Req).seq.toNat 1) (wReq [0x3F, 0x80, 0, 0] : Req).pay = some ((stBadState : Nat), ([] : List Byte))))
    ∧ ((((wKp.put MDM_ACTIVE_ACTIVE 0xC00).setCe 0 { wCore with slots := List.replicate 3 ⟨none, true, none, none⟩ }).ce.length = 8 ∧ (((wKp.put MDM_ACTIVE_ACTIVE 0xC00).setCe 0 { wCore with slots := List.replicate 3 ⟨none, true, none, none⟩ }).ceOf 0).slots.length = 3)
    ∧ (((wKp.put MDM_ACTIVE_ACTIVE 0xC00).setCe 0 { wCore with slots := List.replicate 3 ⟨none, true, none, none⟩ }).Open 0x0303 1 (wReq [0x3F, 0x80, 0, 0] : Req) (wCtx : Ctx))
    ∧ (((wKp.put MDM_ACTIVE_ACTIVE 0xC00).setCe 0 { wCore with slots := List.replicate 3 ⟨none, true, none, none⟩ }).checkParams 0x0303 (wReq [0x3F, 0x80, 0, 0] : Req).pay = none)
    ∧ (((wKp.put MDM_ACTIVE_ACTIVE 0xC00).setCe 0 { wCore with slots := List.replicate 3 ⟨none, true, none, none⟩ }).active 10 = true ∨ ((wKp.put MDM_ACTIVE_ACTIVE 0xC00).setCe 0 { wCore with slots := List.replicate 3 ⟨none, true, none, none⟩ }).active 11 = true))
    ∧ ((((wKp.put MDM_ACTIVE_ACTIVE 0x80).setCe 0 { wCore with slots := List.replicate 3 ⟨none, true, none, none⟩ } |>.setKcp { wKp.kcp with c1seq := [(0x507, 1, 12)] }).ce.length = 8 ∧ (((wKp.put MDM_ACTIVE_ACTIVE 0x80).setCe 0 { wCore with slots := List.replicate 3 ⟨none, true, none, none⟩ } |>.setKcp { wKp.kcp with c1seq := [(0x507, 1, 12)] }).ceOf 0).slots.length = 3)
    ∧ (((wKp.put MDM_ACTIVE_ACTIVE 0x80).setCe 0 { wCore with slots := List.replicate 3 ⟨none, true, none, none⟩ } |>.setKcp { wKp.kcp with c1seq := [(0x507, 1, 12)] }).Open 0x0303 1 (wReq [0x3F, 0x80, 0, 0] : Req) (wCtx : Ctx))
    ∧ (((wKp.put MDM_ACTIVE_ACTIVE 0x80).setCe 0 { wCore with slots := List.replicate 3 ⟨none, true, none, none⟩ } |>.setKcp { wKp.kcp with c1seq := [(0x507, 1, 12)] }).checkParams 0x0303 (wReq [0x3F, 0x80, 0, 0] : Req).pay = none)
    ∧ (((wKp.put MDM_ACTIVE_ACTIVE 0x80).setCe 0 { wCore with slots := List.replicate 3 ⟨none, true, none, none⟩ } |>.setKcp { wKp.kcp with c1seq := [(0x507, 1, 12)] }).c1Refusal (tokOf (wReq [0x3F, 0x80, 0, 0] : Req).ctx.val (wCtx : Ctx) 0x0303 (wReq [0x3F, 0x80, 0, 0] : Req).seq.toNat 1) (wReq [0x3F, 0x80, 0, 0] : Req).pay = none)
    ∧ (((wKp.put MDM_ACTIVE_ACTIVE 0x80).setCe 0 { wCore with slots := List.replicate 3 ⟨none, true, none, none⟩ } |>.setKcp { wKp.kcp with c1seq := [(0x507, 1, 12)] }).c1Older (tokOf (wReq [0x3F, 0x80, 0, 0] : Req).ctx.val (wCtx : Ctx) 0x0303 (wReq [0x3F, 0x80, 0, 0] : Req).seq.toNat 1) 1 = true))
    ∧ ((((wKp.put MDM_ACTIVE_ACTIVE 0x100).setCe 2 { wCore with slots := List.replicate 3 ⟨none, true, none, none⟩ }).ce.length = 8 ∧ (((wKp.put MDM_ACTIVE_ACTIVE 0x100).setCe 2 { wCore with slots := List.replicate 3 ⟨none, true, none, none⟩ }).ceOf 2).slots.length = 3)
    ∧ (((wKp.put MDM_ACTIVE_ACTIVE 0x100).setCe 2 { wCore with slots := List.replicate 3 ⟨none, true, none, none⟩ }).Open 0x0304 1 (wReq [0x3F, 0x80, 0, 0] : Req) (wCtx : Ctx))
    ∧ (((wKp.put MDM_ACTIVE_ACTIVE 0x100).setCe 2 { wCore with slots := List.replicate 3 ⟨none, true, none, none⟩ }).checkParams 0x0304 (wReq [0x3F, 0x80, 0, 0] : Req).pay = none)
    ∧ (((wKp.put MDM_ACTIVE_ACTIVE 0x100).setCe 2 { wCore with slots := List.replicate 3 ⟨none, true, none, none⟩ }).c1Refusal (tokOf (wReq [0x3F, 0x80, 0, 0] : Req).ctx.val (wCtx : Ctx) 0x0304 (wReq [0x3F, 0x80, 0, 0] : Req).seq.toNat 1) (wReq [0x3F, 0x80, 0, 0] : Req).pay = none)
    ∧ (((wKp.put MDM_ACTIVE_ACTIVE 0x100).setCe 2 { wCore with slots := List.replicate 3 ⟨none, true, none, none⟩ }).c1Older (tokOf (wReq [0x3F, 0x80, 0, 0] : Req).ctx.val (wCtx : Ctx) 0x0304 (wReq [0x3F, 0x80, 0, 0] : Req).seq.toNat 1) 9 = false))
    ∧ ((((wKp.put MDM_ACTIVE_ACTIVE 0x100).setCe 2 { wCore with slots := List.replicate 3 ⟨none, true, none, none⟩ } |>.setKcp { wKp.kcp with c1 := [⟨2, 1, 0, 8, ⟨0x507, 0, 9, none, 9, 0x0304, 1, 0⟩, none, none⟩] }).ce.length = 8 ∧ (((wKp.put MDM_ACTIVE_ACTIVE 0x100).setCe 2 { wCore with slots := List.replicate 3 ⟨none, true, none, none⟩ } |>.setKcp { wKp.kcp with c1 := [⟨2, 1, 0, 8, ⟨0x507, 0, 9, none, 9, 0x0304, 1, 0⟩, none, none⟩] }).ceOf 2).slots.length = 3)
    ∧ (((wKp.put MDM_ACTIVE_ACTIVE 0x100).setCe 2 { wCore with slots := List.replicate 3 ⟨none, true, none, none⟩ } |>.setKcp { wKp.kcp with c1 := [⟨2, 1, 0, 8, ⟨0x507, 0, 9, none, 9, 0x0304, 1, 0⟩, none, none⟩] }).Open 0x0304 1 (wReq [0x3F, 0x80, 0, 0] : Req) (wCtx : Ctx))
    ∧ (((wKp.put MDM_ACTIVE_ACTIVE 0x100).setCe 2 { wCore with slots := List.replicate 3 ⟨none, true, none, none⟩ } |>.setKcp { wKp.kcp with c1 := [⟨2, 1, 0, 8, ⟨0x507, 0, 9, none, 9, 0x0304, 1, 0⟩, none, none⟩] }).checkParams 0x0304 (wReq [0x3F, 0x80, 0, 0] : Req).pay = none)
    ∧ (((wKp.put MDM_ACTIVE_ACTIVE 0x100).setCe 2 { wCore with slots := List.replicate 3 ⟨none, true, none, none⟩ } |>.setKcp { wKp.kcp with c1 := [⟨2, 1, 0, 8, ⟨0x507, 0, 9, none, 9, 0x0304, 1, 0⟩, none, none⟩] }).c1Refusal (tokOf (wReq [0x3F, 0x80, 0, 0] : Req).ctx.val (wCtx : Ctx) 0x0304 (wReq [0x3F, 0x80, 0, 0] : Req).seq.toNat 1) (wReq [0x3F, 0x80, 0, 0] : Req).pay = none)
    ∧ (((wKp.put MDM_ACTIVE_ACTIVE 0x100).setCe 2 { wCore with slots := List.replicate 3 ⟨none, true, none, none⟩ } |>.setKcp { wKp.kcp with c1 := [⟨2, 1, 0, 8, ⟨0x507, 0, 9, none, 9, 0x0304, 1, 0⟩, none, none⟩] }).c1Older (tokOf (wReq [0x3F, 0x80, 0, 0] : Req).ctx.val (wCtx : Ctx) 0x0304 (wReq [0x3F, 0x80, 0, 0] : Req).seq.toNat 1) 9 = false)
    ∧ (((wKp.put MDM_ACTIVE_ACTIVE 0x100).setCe 2 { wCore with slots := List.replicate 3 ⟨none, true, none, none⟩ } |>.setKcp { wKp.kcp with c1 := [⟨2, 1, 0, 8, ⟨0x507, 0, 9, none, 9, 0x0304, 1, 0⟩, none, none⟩] }).kcp.c1.filter (fun (o : C1Set) => o.ce == 2 && o.slot == 1) = [(⟨2, 1, 0, 8, ⟨0x507, 0, 9, none, 9, 0x0304, 1, 0⟩, none, none⟩ : C1Set)])
    ∧ ((⟨2, 1, 0, 8, ⟨0x507, 0, 9, none, 9, 0x0304, 1, 0⟩, none, none⟩ : C1Set).drop = none)
    ∧ ((⟨2, 1, 0, 8, ⟨0x507, 0, 9, none, 9, 0x0304, 1, 0⟩, none, none⟩ : C1Set).tok.handle = ((wReq [0x3F, 0x80, 0, 0] : Req).ctx.val * 256 + (wCtx : Ctx).gen))
    ∧ ((⟨2, 1, 0, 8, ⟨0x507, 0, 9, none, 9, 0x0304, 1, 0⟩, none, none⟩ : C1Set).tok.tport = (wCtx : Ctx).tport)
    ∧ ((⟨2, 1, 0, 8, ⟨0x507, 0, 9, none, 9, 0x0304, 1, 0⟩, none, none⟩ : C1Set).tok.peer = (wCtx : Ctx).peer))
    ∧ (((wKp.setCe 2 { wCore with slots := List.replicate 3 ⟨none, true, none, none⟩ }).ce.length = 8 ∧ ((wKp.setCe 2 { wCore with slots := List.replicate 3 ⟨none, true, none, none⟩ }).ceOf 2).slots.length = 3)
    ∧ ((wKp.setCe 2 { wCore with slots := List.replicate 3 ⟨none, true, none, none⟩ }).Open 0x0304 1 (wReq [0x3F, 0x80, 0, 0] : Req) (wCtx : Ctx))
    ∧ ((wKp.setCe 2 { wCore with slots := List.replicate 3 ⟨none, true, none, none⟩ }).checkParams 0x0304 (wReq [0x3F, 0x80, 0, 0] : Req).pay = none)
    ∧ ((wKp.setCe 2 { wCore with slots := List.replicate 3 ⟨none, true, none, none⟩ }).c1Refusal (tokOf (wReq [0x3F, 0x80, 0, 0] : Req).ctx.val (wCtx : Ctx) 0x0304 (wReq [0x3F, 0x80, 0, 0] : Req).seq.toNat 1) (wReq [0x3F, 0x80, 0, 0] : Req).pay = some ((stBadState : Nat), ([] : List Byte)))) := by
  and_intros <;> decide +kernel

theorem witness_setpoints_reach_their_mailbox_half_part4 :
    ((((wKp.put MDM_ACTIVE_ACTIVE 0xC00).setCe 2 { wCore with slots := List.replicate 3 ⟨none, true, none, none⟩ }).ce.length = 8 ∧ (((wKp.put MDM_ACTIVE_ACTIVE 0xC00).setCe 2 { wCore with slots := List.replicate 3 ⟨none, true, none, none⟩ }).ceOf 2).slots.length = 3)
    ∧ (((wKp.put MDM_ACTIVE_ACTIVE 0xC00).setCe 2 { wCore with slots := List.replicate 3 ⟨none, true, none, none⟩ }).Open 0x0304 1 (wReq [0x3F, 0x80, 0, 0] : Req) (wCtx : Ctx))
    ∧ (((wKp.put MDM_ACTIVE_ACTIVE 0xC00).setCe 2 { wCore with slots := List.replicate 3 ⟨none, true, none, none⟩ }).checkParams 0x0304 (wReq [0x3F, 0x80, 0, 0] : Req).pay = none)
    ∧ (((wKp.put MDM_ACTIVE_ACTIVE 0xC00).setCe 2 { wCore with slots := List.replicate 3 ⟨none, true, none, none⟩ }).active 10 = true ∨ ((wKp.put MDM_ACTIVE_ACTIVE 0xC00).setCe 2 { wCore with slots := List.replicate 3 ⟨none, true, none, none⟩ }).active 11 = true))
    ∧ ((((wKp.put MDM_ACTIVE_ACTIVE 0x100).setCe 2 { wCore with slots := List.replicate 3 ⟨none, true, none, none⟩ } |>.setKcp { wKp.kcp with c1seq := [(0x507, 9, 12)] }).ce.length = 8 ∧ (((wKp.put MDM_ACTIVE_ACTIVE 0x100).setCe 2 { wCore with slots := List.replicate 3 ⟨none, true, none, none⟩ } |>.setKcp { wKp.kcp with c1seq := [(0x507, 9, 12)] }).ceOf 2).slots.length = 3)
    ∧ (((wKp.put MDM_ACTIVE_ACTIVE 0x100).setCe 2 { wCore with slots := List.replicate 3 ⟨none, true, none, none⟩ } |>.setKcp { wKp.kcp with c1seq := [(0x507, 9, 12)] }).Open 0x0304 1 (wReq [0x3F, 0x80, 0, 0] : Req) (wCtx : Ctx))
    ∧ (((wKp.put MDM_ACTIVE_ACTIVE 0x100).setCe 2 { wCore with slots := List.replicate 3 ⟨none, true, none, none⟩ } |>.setKcp { wKp.kcp with c1seq := [(0x507, 9, 12)] }).checkParams 0x0304 (wReq [0x3F, 0x80, 0, 0] : Req).pay = none)
    ∧ (((wKp.put MDM_ACTIVE_ACTIVE 0x100).setCe 2 { wCore with slots := List.replicate 3 ⟨none, true, none, none⟩ } |>.setKcp { wKp.kcp with c1seq := [(0x507, 9, 12)] }).c1Refusal (tokOf (wReq [0x3F, 0x80, 0, 0] : Req).ctx.val (wCtx : Ctx) 0x0304 (wReq [0x3F, 0x80, 0, 0] : Req).seq.toNat 1) (wReq [0x3F, 0x80, 0, 0] : Req).pay = none)
    ∧ (((wKp.put MDM_ACTIVE_ACTIVE 0x100).setCe 2 { wCore with slots := List.replicate 3 ⟨none, true, none, none⟩ } |>.setKcp { wKp.kcp with c1seq := [(0x507, 9, 12)] }).c1Older (tokOf (wReq [0x3F, 0x80, 0, 0] : Req).ctx.val (wCtx : Ctx) 0x0304 (wReq [0x3F, 0x80, 0, 0] : Req).seq.toNat 1) 9 = true))
    ∧ ((((wKp.put MDM_ACTIVE_ACTIVE 0x4).setCe 2 { wCore with slots := List.replicate 3 ⟨none, true, none, none⟩ }).ce.length = 8 ∧ (((wKp.put MDM_ACTIVE_ACTIVE 0x4).setCe 2 { wCore with slots := List.replicate 3 ⟨none, true, none, none⟩ }).ceOf 2).slots.length = 3)
    ∧ (((wKp.put MDM_ACTIVE_ACTIVE 0x4).setCe 2 { wCore with slots := List.replicate 3 ⟨none, true, none, none⟩ }).Open 0x0305 1 (wReq [0x3F, 0x80, 0, 0, 0, 0, 0, 0] : Req) (wCtx : Ctx))
    ∧ (((wKp.put MDM_ACTIVE_ACTIVE 0x4).setCe 2 { wCore with slots := List.replicate 3 ⟨none, true, none, none⟩ }).checkParams 0x0305 (wReq [0x3F, 0x80, 0, 0, 0, 0, 0, 0] : Req).pay = none)
    ∧ (((wKp.put MDM_ACTIVE_ACTIVE 0x4).setCe 2 { wCore with slots := List.replicate 3 ⟨none, true, none, none⟩ }).c1Refusal (tokOf (wReq [0x3F, 0x80, 0, 0, 0, 0, 0, 0] : Req).ctx.val (wCtx : Ctx) 0x0305 (wReq [0x3F, 0x80, 0, 0, 0, 0, 0, 0] : Req).seq.toNat 1) (wReq [0x3F, 0x80, 0, 0, 0, 0, 0, 0] : Req).pay = none)
    ∧ (((wKp.put MDM_ACTIVE_ACTIVE 0x4).setCe 2 { wCore with slots := List.replicate 3 ⟨none, true, none, none⟩ }).c1Older (tokOf (wReq [0x3F, 0x80, 0, 0, 0, 0, 0, 0] : Req).ctx.val (wCtx : Ctx) 0x0305 (wReq [0x3F, 0x80, 0, 0, 0, 0, 0, 0] : Req).seq.toNat 1) 10 = false))
    ∧ ((((wKp.put MDM_ACTIVE_ACTIVE 0x4).setCe 2 { wCore with slots := List.replicate 3 ⟨none, true, none, none⟩ } |>.setKcp { wKp.kcp with c1 := [⟨2, 2, 0, 2, ⟨0x507, 0, 9, none, 9, 0x0305, 1, 0⟩, none, none⟩] }).ce.length = 8 ∧ (((wKp.put MDM_ACTIVE_ACTIVE 0x4).setCe 2 { wCore with slots := List.replicate 3 ⟨none, true, none, none⟩ } |>.setKcp { wKp.kcp with c1 := [⟨2, 2, 0, 2, ⟨0x507, 0, 9, none, 9, 0x0305, 1, 0⟩, none, none⟩] }).ceOf 2).slots.length = 3)
    ∧ (((wKp.put MDM_ACTIVE_ACTIVE 0x4).setCe 2 { wCore with slots := List.replicate 3 ⟨none, true, none, none⟩ } |>.setKcp { wKp.kcp with c1 := [⟨2, 2, 0, 2, ⟨0x507, 0, 9, none, 9, 0x0305, 1, 0⟩, none, none⟩] }).Open 0x0305 1 (wReq [0x3F, 0x80, 0, 0, 0, 0, 0, 0] : Req) (wCtx : Ctx))
    ∧ (((wKp.put MDM_ACTIVE_ACTIVE 0x4).setCe 2 { wCore with slots := List.replicate 3 ⟨none, true, none, none⟩ } |>.setKcp { wKp.kcp with c1 := [⟨2, 2, 0, 2, ⟨0x507, 0, 9, none, 9, 0x0305, 1, 0⟩, none, none⟩] }).checkParams 0x0305 (wReq [0x3F, 0x80, 0, 0, 0, 0, 0, 0] : Req).pay = none)
    ∧ (((wKp.put MDM_ACTIVE_ACTIVE 0x4).setCe 2 { wCore with slots := List.replicate 3 ⟨none, true, none, none⟩ } |>.setKcp { wKp.kcp with c1 := [⟨2, 2, 0, 2, ⟨0x507, 0, 9, none, 9, 0x0305, 1, 0⟩, none, none⟩] }).c1Refusal (tokOf (wReq [0x3F, 0x80, 0, 0, 0, 0, 0, 0] : Req).ctx.val (wCtx : Ctx) 0x0305 (wReq [0x3F, 0x80, 0, 0, 0, 0, 0, 0] : Req).seq.toNat 1) (wReq [0x3F, 0x80, 0, 0, 0, 0, 0, 0] : Req).pay = none)
    ∧ (((wKp.put MDM_ACTIVE_ACTIVE 0x4).setCe 2 { wCore with slots := List.replicate 3 ⟨none, true, none, none⟩ } |>.setKcp { wKp.kcp with c1 := [⟨2, 2, 0, 2, ⟨0x507, 0, 9, none, 9, 0x0305, 1, 0⟩, none, none⟩] }).c1Older (tokOf (wReq [0x3F, 0x80, 0, 0, 0, 0, 0, 0] : Req).ctx.val (wCtx : Ctx) 0x0305 (wReq [0x3F, 0x80, 0, 0, 0, 0, 0, 0] : Req).seq.toNat 1) 10 = false)
    ∧ (((wKp.put MDM_ACTIVE_ACTIVE 0x4).setCe 2 { wCore with slots := List.replicate 3 ⟨none, true, none, none⟩ } |>.setKcp { wKp.kcp with c1 := [⟨2, 2, 0, 2, ⟨0x507, 0, 9, none, 9, 0x0305, 1, 0⟩, none, none⟩] }).kcp.c1.filter (fun (o : C1Set) => o.ce == 2 && o.slot == 2) = [(⟨2, 2, 0, 2, ⟨0x507, 0, 9, none, 9, 0x0305, 1, 0⟩, none, none⟩ : C1Set)])
    ∧ ((⟨2, 2, 0, 2, ⟨0x507, 0, 9, none, 9, 0x0305, 1, 0⟩, none, none⟩ : C1Set).drop = none)
    ∧ ((⟨2, 2, 0, 2, ⟨0x507, 0, 9, none, 9, 0x0305, 1, 0⟩, none, none⟩ : C1Set).tok.handle = ((wReq [0x3F, 0x80, 0, 0, 0, 0, 0, 0] : Req).ctx.val * 256 + (wCtx : Ctx).gen))
    ∧ ((⟨2, 2, 0, 2, ⟨0x507, 0, 9, none, 9, 0x0305, 1, 0⟩, none, none⟩ : C1Set).tok.tport = (wCtx : Ctx).tport)
    ∧ ((⟨2, 2, 0, 2, ⟨0x507, 0, 9, none, 9, 0x0305, 1, 0⟩, none, none⟩ : C1Set).tok.peer = (wCtx : Ctx).peer))
    ∧ (((wKp.setCe 2 { wCore with slots := List.replicate 3 ⟨none, true, none, none⟩ }).ce.length = 8 ∧ ((wKp.setCe 2 { wCore with slots := List.replicate 3 ⟨none, true, none, none⟩ }).ceOf 2).slots.length = 3)
    ∧ ((wKp.setCe 2 { wCore with slots := List.replicate 3 ⟨none, true, none, none⟩ }).Open 0x0305 1 (wReq [0x3F, 0x80, 0, 0, 0, 0, 0, 0] : Req) (wCtx : Ctx))
    ∧ ((wKp.setCe 2 { wCore with slots := List.replicate 3 ⟨none, true, none, none⟩ }).checkParams 0x0305 (wReq [0x3F, 0x80, 0, 0, 0, 0, 0, 0] : Req).pay = none)
    ∧ ((wKp.setCe 2 { wCore with slots := List.replicate 3 ⟨none, true, none, none⟩ }).c1Refusal (tokOf (wReq [0x3F, 0x80, 0, 0, 0, 0, 0, 0] : Req).ctx.val (wCtx : Ctx) 0x0305 (wReq [0x3F, 0x80, 0, 0, 0, 0, 0, 0] : Req).seq.toNat 1) (wReq [0x3F, 0x80, 0, 0, 0, 0, 0, 0] : Req).pay = some ((stBadState : Nat), ([] : List Byte))))
    ∧ ((((wKp.put MDM_ACTIVE_ACTIVE 0xC00).setCe 2 { wCore with slots := List.replicate 3 ⟨none, true, none, none⟩ }).ce.length = 8 ∧ (((wKp.put MDM_ACTIVE_ACTIVE 0xC00).setCe 2 { wCore with slots := List.replicate 3 ⟨none, true, none, none⟩ }).ceOf 2).slots.length = 3)
    ∧ (((wKp.put MDM_ACTIVE_ACTIVE 0xC00).setCe 2 { wCore with slots := List.replicate 3 ⟨none, true, none, none⟩ }).Open 0x0305 1 (wReq [0x3F, 0x80, 0, 0, 0, 0, 0, 0] : Req) (wCtx : Ctx))
    ∧ (((wKp.put MDM_ACTIVE_ACTIVE 0xC00).setCe 2 { wCore with slots := List.replicate 3 ⟨none, true, none, none⟩ }).checkParams 0x0305 (wReq [0x3F, 0x80, 0, 0, 0, 0, 0, 0] : Req).pay = none)
    ∧ (((wKp.put MDM_ACTIVE_ACTIVE 0xC00).setCe 2 { wCore with slots := List.replicate 3 ⟨none, true, none, none⟩ }).active 10 = true ∨ ((wKp.put MDM_ACTIVE_ACTIVE 0xC00).setCe 2 { wCore with slots := List.replicate 3 ⟨none, true, none, none⟩ }).active 11 = true)) := by
  and_intros <;> decide +kernel

theorem witness_setpoints_reach_their_mailbox_half_part5 :
    ((((wKp.put MDM_ACTIVE_ACTIVE 0x4).setCe 2 { wCore with slots := List.replicate 3 ⟨none, true, none, none⟩ } |>.setKcp { wKp.kcp with c1seq := [(0x507, 10, 12)] }).ce.length = 8 ∧ (((wKp.put MDM_ACTIVE_ACTIVE 0x4).setCe 2 { wCore with slots := List.replicate 3 ⟨none, true, none, none⟩ } |>.setKcp { wKp.kcp with c1seq := [(0x507, 10, 12)] }).ceOf 2).slots.length = 3)
    ∧ (((wKp.put MDM_ACTIVE_ACTIVE 0x4).setCe 2 { wCore with slots := List.replicate 3 ⟨none, true, none, none⟩ } |>.setKcp { wKp.kcp with c1seq := [(0x507, 10, 12)] }).Open 0x0305 1 (wReq [0x3F, 0x80, 0, 0, 0, 0, 0, 0] : Req) (wCtx : Ctx))
    ∧ (((wKp.put MDM_ACTIVE_ACTIVE 0x4).setCe 2 { wCore with slots := List.replicate 3 ⟨none, true, none, none⟩ } |>.setKcp { wKp.kcp with c1seq := [(0x507, 10, 12)] }).checkParams 0x0305 (wReq [0x3F, 0x80, 0, 0, 0, 0, 0, 0] : Req).pay = none)
    ∧ (((wKp.put MDM_ACTIVE_ACTIVE 0x4).setCe 2 { wCore with slots := List.replicate 3 ⟨none, true, none, none⟩ } |>.setKcp { wKp.kcp with c1seq := [(0x507, 10, 12)] }).c1Refusal (tokOf (wReq [0x3F, 0x80, 0, 0, 0, 0, 0, 0] : Req).ctx.val (wCtx : Ctx) 0x0305 (wReq [0x3F, 0x80, 0, 0, 0, 0, 0, 0] : Req).seq.toNat 1) (wReq [0x3F, 0x80, 0, 0, 0, 0, 0, 0] : Req).pay = none)
    ∧ (((wKp.put MDM_ACTIVE_ACTIVE 0x4).setCe 2 { wCore with slots := List.replicate 3 ⟨none, true, none, none⟩ } |>.setKcp { wKp.kcp with c1seq := [(0x507, 10, 12)] }).c1Older (tokOf (wReq [0x3F, 0x80, 0, 0, 0, 0, 0, 0] : Req).ctx.val (wCtx : Ctx) 0x0305 (wReq [0x3F, 0x80, 0, 0, 0, 0, 0, 0] : Req).seq.toNat 1) 10 = true))
    ∧ ((((wKp.put MDM_ACTIVE_ACTIVE 0x8).setCe 5 { wCore with slots := List.replicate 3 ⟨none, true, none, none⟩ }).ce.length = 8 ∧ (((wKp.put MDM_ACTIVE_ACTIVE 0x8).setCe 5 { wCore with slots := List.replicate 3 ⟨none, true, none, none⟩ }).ceOf 5).slots.length = 3)
    ∧ (((wKp.put MDM_ACTIVE_ACTIVE 0x8).setCe 5 { wCore with slots := List.replicate 3 ⟨none, true, none, none⟩ }).Open 0x0306 1 (wReq [0x3F, 0x80, 0, 0, 0, 0, 0, 0] : Req) (wCtx : Ctx))
    ∧ (((wKp.put MDM_ACTIVE_ACTIVE 0x8).setCe 5 { wCore with slots := List.replicate 3 ⟨none, true, none, none⟩ }).checkParams 0x0306 (wReq [0x3F, 0x80, 0, 0, 0, 0, 0, 0] : Req).pay = none)
    ∧ (((wKp.put MDM_ACTIVE_ACTIVE 0x8).setCe 5 { wCore with slots := List.replicate 3 ⟨none, true, none, none⟩ }).c1Refusal (tokOf (wReq [0x3F, 0x80, 0, 0, 0, 0, 0, 0] : Req).ctx.val (wCtx : Ctx) 0x0306 (wReq [0x3F, 0x80, 0, 0, 0, 0, 0, 0] : Req).seq.toNat 1) (wReq [0x3F, 0x80, 0, 0, 0, 0, 0, 0] : Req).pay = none)
    ∧ (((wKp.put MDM_ACTIVE_ACTIVE 0x8).setCe 5 { wCore with slots := List.replicate 3 ⟨none, true, none, none⟩ }).c1Older (tokOf (wReq [0x3F, 0x80, 0, 0, 0, 0, 0, 0] : Req).ctx.val (wCtx : Ctx) 0x0306 (wReq [0x3F, 0x80, 0, 0, 0, 0, 0, 0] : Req).seq.toNat 1) 20 = false))
    ∧ ((((wKp.put MDM_ACTIVE_ACTIVE 0x8).setCe 5 { wCore with slots := List.replicate 3 ⟨none, true, none, none⟩ } |>.setKcp { wKp.kcp with c1 := [⟨5, 0, 0, 3, ⟨0x507, 0, 9, none, 9, 0x0306, 1, 0⟩, none, none⟩] }).ce.length = 8 ∧ (((wKp.put MDM_ACTIVE_ACTIVE 0x8).setCe 5 { wCore with slots := List.replicate 3 ⟨none, true, none, none⟩ } |>.setKcp { wKp.kcp with c1 := [⟨5, 0, 0, 3, ⟨0x507, 0, 9, none, 9, 0x0306, 1, 0⟩, none, none⟩] }).ceOf 5).slots.length = 3)
    ∧ (((wKp.put MDM_ACTIVE_ACTIVE 0x8).setCe 5 { wCore with slots := List.replicate 3 ⟨none, true, none, none⟩ } |>.setKcp { wKp.kcp with c1 := [⟨5, 0, 0, 3, ⟨0x507, 0, 9, none, 9, 0x0306, 1, 0⟩, none, none⟩] }).Open 0x0306 1 (wReq [0x3F, 0x80, 0, 0, 0, 0, 0, 0] : Req) (wCtx : Ctx))
    ∧ (((wKp.put MDM_ACTIVE_ACTIVE 0x8).setCe 5 { wCore with slots := List.replicate 3 ⟨none, true, none, none⟩ } |>.setKcp { wKp.kcp with c1 := [⟨5, 0, 0, 3, ⟨0x507, 0, 9, none, 9, 0x0306, 1, 0⟩, none, none⟩] }).checkParams 0x0306 (wReq [0x3F, 0x80, 0, 0, 0, 0, 0, 0] : Req).pay = none)
    ∧ (((wKp.put MDM_ACTIVE_ACTIVE 0x8).setCe 5 { wCore with slots := List.replicate 3 ⟨none, true, none, none⟩ } |>.setKcp { wKp.kcp with c1 := [⟨5, 0, 0, 3, ⟨0x507, 0, 9, none, 9, 0x0306, 1, 0⟩, none, none⟩] }).c1Refusal (tokOf (wReq [0x3F, 0x80, 0, 0, 0, 0, 0, 0] : Req).ctx.val (wCtx : Ctx) 0x0306 (wReq [0x3F, 0x80, 0, 0, 0, 0, 0, 0] : Req).seq.toNat 1) (wReq [0x3F, 0x80, 0, 0, 0, 0, 0, 0] : Req).pay = none)
    ∧ (((wKp.put MDM_ACTIVE_ACTIVE 0x8).setCe 5 { wCore with slots := List.replicate 3 ⟨none, true, none, none⟩ } |>.setKcp { wKp.kcp with c1 := [⟨5, 0, 0, 3, ⟨0x507, 0, 9, none, 9, 0x0306, 1, 0⟩, none, none⟩] }).c1Older (tokOf (wReq [0x3F, 0x80, 0, 0, 0, 0, 0, 0] : Req).ctx.val (wCtx : Ctx) 0x0306 (wReq [0x3F, 0x80, 0, 0, 0, 0, 0, 0] : Req).seq.toNat 1) 20 = false)
    ∧ (((wKp.put MDM_ACTIVE_ACTIVE 0x8).setCe 5 { wCore with slots := List.replicate 3 ⟨none, true, none, none⟩ } |>.setKcp { wKp.kcp with c1 := [⟨5, 0, 0, 3, ⟨0x507, 0, 9, none, 9, 0x0306, 1, 0⟩, none, none⟩] }).kcp.c1.filter (fun (o : C1Set) => o.ce == 5 && o.slot == 0) = [(⟨5, 0, 0, 3, ⟨0x507, 0, 9, none, 9, 0x0306, 1, 0⟩, none, none⟩ : C1Set)])
    ∧ ((⟨5, 0, 0, 3, ⟨0x507, 0, 9, none, 9, 0x0306, 1, 0⟩, none, none⟩ : C1Set).drop = none)
    ∧ ((⟨5, 0, 0, 3, ⟨0x507, 0, 9, none, 9, 0x0306, 1, 0⟩, none, none⟩ : C1Set).tok.handle = ((wReq [0x3F, 0x80, 0, 0, 0, 0, 0, 0] : Req).ctx.val * 256 + (wCtx : Ctx).gen))
    ∧ ((⟨5, 0, 0, 3, ⟨0x507, 0, 9, none, 9, 0x0306, 1, 0⟩, none, none⟩ : C1Set).tok.tport = (wCtx : Ctx).tport)
    ∧ ((⟨5, 0, 0, 3, ⟨0x507, 0, 9, none, 9, 0x0306, 1, 0⟩, none, none⟩ : C1Set).tok.peer = (wCtx : Ctx).peer))
    ∧ (((wKp.setCe 5 { wCore with slots := List.replicate 3 ⟨none, true, none, none⟩ }).ce.length = 8 ∧ ((wKp.setCe 5 { wCore with slots := List.replicate 3 ⟨none, true, none, none⟩ }).ceOf 5).slots.length = 3)
    ∧ ((wKp.setCe 5 { wCore with slots := List.replicate 3 ⟨none, true, none, none⟩ }).Open 0x0306 1 (wReq [0x3F, 0x80, 0, 0, 0, 0, 0, 0] : Req) (wCtx : Ctx))
    ∧ ((wKp.setCe 5 { wCore with slots := List.replicate 3 ⟨none, true, none, none⟩ }).checkParams 0x0306 (wReq [0x3F, 0x80, 0, 0, 0, 0, 0, 0] : Req).pay = none)
    ∧ ((wKp.setCe 5 { wCore with slots := List.replicate 3 ⟨none, true, none, none⟩ }).c1Refusal (tokOf (wReq [0x3F, 0x80, 0, 0, 0, 0, 0, 0] : Req).ctx.val (wCtx : Ctx) 0x0306 (wReq [0x3F, 0x80, 0, 0, 0, 0, 0, 0] : Req).seq.toNat 1) (wReq [0x3F, 0x80, 0, 0, 0, 0, 0, 0] : Req).pay = some ((stBadState : Nat), ([] : List Byte))))
    ∧ ((((wKp.put MDM_ACTIVE_ACTIVE 0xC00).setCe 5 { wCore with slots := List.replicate 3 ⟨none, true, none, none⟩ }).ce.length = 8 ∧ (((wKp.put MDM_ACTIVE_ACTIVE 0xC00).setCe 5 { wCore with slots := List.replicate 3 ⟨none, true, none, none⟩ }).ceOf 5).slots.length = 3)
    ∧ (((wKp.put MDM_ACTIVE_ACTIVE 0xC00).setCe 5 { wCore with slots := List.replicate 3 ⟨none, true, none, none⟩ }).Open 0x0306 1 (wReq [0x3F, 0x80, 0, 0, 0, 0, 0, 0] : Req) (wCtx : Ctx))
    ∧ (((wKp.put MDM_ACTIVE_ACTIVE 0xC00).setCe 5 { wCore with slots := List.replicate 3 ⟨none, true, none, none⟩ }).checkParams 0x0306 (wReq [0x3F, 0x80, 0, 0, 0, 0, 0, 0] : Req).pay = none)
    ∧ (((wKp.put MDM_ACTIVE_ACTIVE 0xC00).setCe 5 { wCore with slots := List.replicate 3 ⟨none, true, none, none⟩ }).active 10 = true ∨ ((wKp.put MDM_ACTIVE_ACTIVE 0xC00).setCe 5 { wCore with slots := List.replicate 3 ⟨none, true, none, none⟩ }).active 11 = true))
    ∧ ((((wKp.put MDM_ACTIVE_ACTIVE 0x8).setCe 5 { wCore with slots := List.replicate 3 ⟨none, true, none, none⟩ } |>.setKcp { wKp.kcp with c1seq := [(0x507, 20, 12)] }).ce.length = 8 ∧ (((wKp.put MDM_ACTIVE_ACTIVE 0x8).setCe 5 { wCore with slots := List.replicate 3 ⟨none, true, none, none⟩ } |>.setKcp { wKp.kcp with c1seq := [(0x507, 20, 12)] }).ceOf 5).slots.length = 3)
    ∧ (((wKp.put MDM_ACTIVE_ACTIVE 0x8).setCe 5 { wCore with slots := List.replicate 3 ⟨none, true, none, none⟩ } |>.setKcp { wKp.kcp with c1seq := [(0x507, 20, 12)] }).Open 0x0306 1 (wReq [0x3F, 0x80, 0, 0, 0, 0, 0, 0] : Req) (wCtx : Ctx))
    ∧ (((wKp.put MDM_ACTIVE_ACTIVE 0x8).setCe 5 { wCore with slots := List.replicate 3 ⟨none, true, none, none⟩ } |>.setKcp { wKp.kcp with c1seq := [(0x507, 20, 12)] }).checkParams 0x0306 (wReq [0x3F, 0x80, 0, 0, 0, 0, 0, 0] : Req).pay = none)
    ∧ (((wKp.put MDM_ACTIVE_ACTIVE 0x8).setCe 5 { wCore with slots := List.replicate 3 ⟨none, true, none, none⟩ } |>.setKcp { wKp.kcp with c1seq := [(0x507, 20, 12)] }).c1Refusal (tokOf (wReq [0x3F, 0x80, 0, 0, 0, 0, 0, 0] : Req).ctx.val (wCtx : Ctx) 0x0306 (wReq [0x3F, 0x80, 0, 0, 0, 0, 0, 0] : Req).seq.toNat 1) (wReq [0x3F, 0x80, 0, 0, 0, 0, 0, 0] : Req).pay = none)
    ∧ (((wKp.put MDM_ACTIVE_ACTIVE 0x8).setCe 5 { wCore with slots := List.replicate 3 ⟨none, true, none, none⟩ } |>.setKcp { wKp.kcp with c1seq := [(0x507, 20, 12)] }).c1Older (tokOf (wReq [0x3F, 0x80, 0, 0, 0, 0, 0, 0] : Req).ctx.val (wCtx : Ctx) 0x0306 (wReq [0x3F, 0x80, 0, 0, 0, 0, 0, 0] : Req).seq.toNat 1) 20 = true)) := by
  and_intros <;> decide +kernel

theorem witness_setpoints_reach_their_mailbox_half_part6 :
    ((((wKp.put MDM_ACTIVE_ACTIVE 0x20).setCe 6 { wCore with slots := List.replicate 3 ⟨none, true, none, none⟩ }).ce.length = 8 ∧ (((wKp.put MDM_ACTIVE_ACTIVE 0x20).setCe 6 { wCore with slots := List.replicate 3 ⟨none, true, none, none⟩ }).ceOf 6).slots.length = 3)
    ∧ (((wKp.put MDM_ACTIVE_ACTIVE 0x20).setCe 6 { wCore with slots := List.replicate 3 ⟨none, true, none, none⟩ }).Open 0x0307 1 (wReq [0x42, 0x40, 0, 0] : Req) (wCtx : Ctx))
    ∧ (((wKp.put MDM_ACTIVE_ACTIVE 0x20).setCe 6 { wCore with slots := List.replicate 3 ⟨none, true, none, none⟩ }).checkParams 0x0307 (wReq [0x42, 0x40, 0, 0] : Req).pay = none)
    ∧ (((wKp.put MDM_ACTIVE_ACTIVE 0x20).setCe 6 { wCore with slots := List.replicate 3 ⟨none, true, none, none⟩ }).c1Refusal (tokOf (wReq [0x42, 0x40, 0, 0] : Req).ctx.val (wCtx : Ctx) 0x0307 (wReq [0x42, 0x40, 0, 0] : Req).seq.toNat 1) (wReq [0x42, 0x40, 0, 0] : Req).pay = none)
    ∧ (((wKp.put MDM_ACTIVE_ACTIVE 0x20).setCe 6 { wCore with slots := List.replicate 3 ⟨none, true, none, none⟩ }).c1Older (tokOf (wReq [0x42, 0x40, 0, 0] : Req).ctx.val (wCtx : Ctx) 0x0307 (wReq [0x42, 0x40, 0, 0] : Req).seq.toNat 1) 24 = false))
    ∧ ((((wKp.put MDM_ACTIVE_ACTIVE 0x20).setCe 6 { wCore with slots := List.replicate 3 ⟨none, true, none, none⟩ } |>.setKcp { wKp.kcp with c1 := [⟨6, 0, 0, 5, ⟨0x507, 0, 9, none, 9, 0x0307, 1, 0⟩, none, none⟩] }).ce.length = 8 ∧ (((wKp.put MDM_ACTIVE_ACTIVE 0x20).setCe 6 { wCore with slots := List.replicate 3 ⟨none, true, none, none⟩ } |>.setKcp { wKp.kcp with c1 := [⟨6, 0, 0, 5, ⟨0x507, 0, 9, none, 9, 0x0307, 1, 0⟩, none, none⟩] }).ceOf 6).slots.length = 3)
    ∧ (((wKp.put MDM_ACTIVE_ACTIVE 0x20).setCe 6 { wCore with slots := List.replicate 3 ⟨none, true, none, none⟩ } |>.setKcp { wKp.kcp with c1 := [⟨6, 0, 0, 5, ⟨0x507, 0, 9, none, 9, 0x0307, 1, 0⟩, none, none⟩] }).Open 0x0307 1 (wReq [0x42, 0x40, 0, 0] : Req) (wCtx : Ctx))
    ∧ (((wKp.put MDM_ACTIVE_ACTIVE 0x20).setCe 6 { wCore with slots := List.replicate 3 ⟨none, true, none, none⟩ } |>.setKcp { wKp.kcp with c1 := [⟨6, 0, 0, 5, ⟨0x507, 0, 9, none, 9, 0x0307, 1, 0⟩, none, none⟩] }).checkParams 0x0307 (wReq [0x42, 0x40, 0, 0] : Req).pay = none)
    ∧ (((wKp.put MDM_ACTIVE_ACTIVE 0x20).setCe 6 { wCore with slots := List.replicate 3 ⟨none, true, none, none⟩ } |>.setKcp { wKp.kcp with c1 := [⟨6, 0, 0, 5, ⟨0x507, 0, 9, none, 9, 0x0307, 1, 0⟩, none, none⟩] }).c1Refusal (tokOf (wReq [0x42, 0x40, 0, 0] : Req).ctx.val (wCtx : Ctx) 0x0307 (wReq [0x42, 0x40, 0, 0] : Req).seq.toNat 1) (wReq [0x42, 0x40, 0, 0] : Req).pay = none)
    ∧ (((wKp.put MDM_ACTIVE_ACTIVE 0x20).setCe 6 { wCore with slots := List.replicate 3 ⟨none, true, none, none⟩ } |>.setKcp { wKp.kcp with c1 := [⟨6, 0, 0, 5, ⟨0x507, 0, 9, none, 9, 0x0307, 1, 0⟩, none, none⟩] }).c1Older (tokOf (wReq [0x42, 0x40, 0, 0] : Req).ctx.val (wCtx : Ctx) 0x0307 (wReq [0x42, 0x40, 0, 0] : Req).seq.toNat 1) 24 = false)
    ∧ (((wKp.put MDM_ACTIVE_ACTIVE 0x20).setCe 6 { wCore with slots := List.replicate 3 ⟨none, true, none, none⟩ } |>.setKcp { wKp.kcp with c1 := [⟨6, 0, 0, 5, ⟨0x507, 0, 9, none, 9, 0x0307, 1, 0⟩, none, none⟩] }).kcp.c1.filter (fun (o : C1Set) => o.ce == 6 && o.slot == 0) = [(⟨6, 0, 0, 5, ⟨0x507, 0, 9, none, 9, 0x0307, 1, 0⟩, none, none⟩ : C1Set)])
    ∧ ((⟨6, 0, 0, 5, ⟨0x507, 0, 9, none, 9, 0x0307, 1, 0⟩, none, none⟩ : C1Set).drop = none)
    ∧ ((⟨6, 0, 0, 5, ⟨0x507, 0, 9, none, 9, 0x0307, 1, 0⟩, none, none⟩ : C1Set).tok.handle = ((wReq [0x42, 0x40, 0, 0] : Req).ctx.val * 256 + (wCtx : Ctx).gen))
    ∧ ((⟨6, 0, 0, 5, ⟨0x507, 0, 9, none, 9, 0x0307, 1, 0⟩, none, none⟩ : C1Set).tok.tport = (wCtx : Ctx).tport)
    ∧ ((⟨6, 0, 0, 5, ⟨0x507, 0, 9, none, 9, 0x0307, 1, 0⟩, none, none⟩ : C1Set).tok.peer = (wCtx : Ctx).peer))
    ∧ (((wKp.setCe 6 { wCore with slots := List.replicate 3 ⟨none, true, none, none⟩ }).ce.length = 8 ∧ ((wKp.setCe 6 { wCore with slots := List.replicate 3 ⟨none, true, none, none⟩ }).ceOf 6).slots.length = 3)
    ∧ ((wKp.setCe 6 { wCore with slots := List.replicate 3 ⟨none, true, none, none⟩ }).Open 0x0307 1 (wReq [0x42, 0x40, 0, 0] : Req) (wCtx : Ctx))
    ∧ ((wKp.setCe 6 { wCore with slots := List.replicate 3 ⟨none, true, none, none⟩ }).checkParams 0x0307 (wReq [0x42, 0x40, 0, 0] : Req).pay = none)
    ∧ ((wKp.setCe 6 { wCore with slots := List.replicate 3 ⟨none, true, none, none⟩ }).c1Refusal (tokOf (wReq [0x42, 0x40, 0, 0] : Req).ctx.val (wCtx : Ctx) 0x0307 (wReq [0x42, 0x40, 0, 0] : Req).seq.toNat 1) (wReq [0x42, 0x40, 0, 0] : Req).pay = some ((stBadState : Nat), ([] : List Byte))))
    ∧ ((((wKp.put MDM_ACTIVE_ACTIVE 0xC00).setCe 6 { wCore with slots := List.replicate 3 ⟨none, true, none, none⟩ }).ce.length = 8 ∧ (((wKp.put MDM_ACTIVE_ACTIVE 0xC00).setCe 6 { wCore with slots := List.replicate 3 ⟨none, true, none, none⟩ }).ceOf 6).slots.length = 3)
    ∧ (((wKp.put MDM_ACTIVE_ACTIVE 0xC00).setCe 6 { wCore with slots := List.replicate 3 ⟨none, true, none, none⟩ }).Open 0x0307 1 (wReq [0x42, 0x40, 0, 0] : Req) (wCtx : Ctx))
    ∧ (((wKp.put MDM_ACTIVE_ACTIVE 0xC00).setCe 6 { wCore with slots := List.replicate 3 ⟨none, true, none, none⟩ }).checkParams 0x0307 (wReq [0x42, 0x40, 0, 0] : Req).pay = none)
    ∧ (((wKp.put MDM_ACTIVE_ACTIVE 0xC00).setCe 6 { wCore with slots := List.replicate 3 ⟨none, true, none, none⟩ }).active 10 = true ∨ ((wKp.put MDM_ACTIVE_ACTIVE 0xC00).setCe 6 { wCore with slots := List.replicate 3 ⟨none, true, none, none⟩ }).active 11 = true))
    ∧ ((((wKp.put MDM_ACTIVE_ACTIVE 0x20).setCe 6 { wCore with slots := List.replicate 3 ⟨none, true, none, none⟩ } |>.setKcp { wKp.kcp with c1seq := [(0x507, 24, 12)] }).ce.length = 8 ∧ (((wKp.put MDM_ACTIVE_ACTIVE 0x20).setCe 6 { wCore with slots := List.replicate 3 ⟨none, true, none, none⟩ } |>.setKcp { wKp.kcp with c1seq := [(0x507, 24, 12)] }).ceOf 6).slots.length = 3)
    ∧ (((wKp.put MDM_ACTIVE_ACTIVE 0x20).setCe 6 { wCore with slots := List.replicate 3 ⟨none, true, none, none⟩ } |>.setKcp { wKp.kcp with c1seq := [(0x507, 24, 12)] }).Open 0x0307 1 (wReq [0x42, 0x40, 0, 0] : Req) (wCtx : Ctx))
    ∧ (((wKp.put MDM_ACTIVE_ACTIVE 0x20).setCe 6 { wCore with slots := List.replicate 3 ⟨none, true, none, none⟩ } |>.setKcp { wKp.kcp with c1seq := [(0x507, 24, 12)] }).checkParams 0x0307 (wReq [0x42, 0x40, 0, 0] : Req).pay = none)
    ∧ (((wKp.put MDM_ACTIVE_ACTIVE 0x20).setCe 6 { wCore with slots := List.replicate 3 ⟨none, true, none, none⟩ } |>.setKcp { wKp.kcp with c1seq := [(0x507, 24, 12)] }).c1Refusal (tokOf (wReq [0x42, 0x40, 0, 0] : Req).ctx.val (wCtx : Ctx) 0x0307 (wReq [0x42, 0x40, 0, 0] : Req).seq.toNat 1) (wReq [0x42, 0x40, 0, 0] : Req).pay = none)
    ∧ (((wKp.put MDM_ACTIVE_ACTIVE 0x20).setCe 6 { wCore with slots := List.replicate 3 ⟨none, true, none, none⟩ } |>.setKcp { wKp.kcp with c1seq := [(0x507, 24, 12)] }).c1Older (tokOf (wReq [0x42, 0x40, 0, 0] : Req).ctx.val (wCtx : Ctx) 0x0307 (wReq [0x42, 0x40, 0, 0] : Req).seq.toNat 1) 24 = true)) := by
  and_intros <;> decide +kernel

theorem witness_configuration_status_and_diagnostic_requests :
    ((wKp.kcp.queues.length = 4)
    ∧ (wKp.Ready 0x0401 3 (wReq ([0, 0x10, 0, 0, 0, 0, 0, 40]) : Req) (wCtx : Ctx))
    ∧ (wKp.parUsed (payU (wReq ([0, 0x10, 0, 0, 0, 0, 0, 40]) : Req).pay 0 2) = false))
    ∧ ((wWht.kcp.queues.length = 4)
    ∧ (wWht.Ready 0x0401 3 (wReq ([0, 0x10, 0, 0, 0, 0, 0, 40]) : Req) (wCtx : Ctx))
    ∧ (wWht.parUsed (payU (wReq ([0, 0x10, 0, 0, 0, 0, 0, 40]) : Req).pay 0 2) = true))
    ∧ ((wKp.kcp.queues.length = 4)
    ∧ (wKp.Ready 0x0402 3 (wReq ([0, 0x10]) : Req) (wCtx : Ctx)))
    ∧ ((wKp.kcp.queues.length = 4)
    ∧ (wKp.Ready 0x0403 3 (wReq ([0, 0, 0, 0, 0, 0, 0, 5]) : Req) (wCtx : Ctx))
    ∧ (wKp.policyBusy = false)
    ∧ (wKp.is MDM_LOCK_POL_LOCK = false)
    ∧ ((payU (wReq ([0, 0, 0, 0, 0, 0, 0, 5]) : Req).pay 0 1) = 0))
    ∧ ((wKp.kcp.queues.length = 4)
    ∧ (wKp.Ready 0x0403 3 (wReq ([1, 0, 0, 0, 0, 0, 1, 5]) : Req) (wCtx : Ctx))
    ∧ (wKp.policyBusy = false)
    ∧ (wKp.is MDM_LOCK_POL_LOCK = false)
    ∧ ((payU (wReq ([1, 0, 0, 0, 0, 0, 1, 5]) : Req).pay 0 1) = 1))
    ∧ ((wKp.kcp.queues.length = 4)
    ∧ (wKp.Ready 0x0403 3 (wReq ([2, 0, 0, 0, 0, 0, 9, 4]) : Req) (wCtx : Ctx))
    ∧ (wKp.policyBusy = false)
    ∧ (wKp.is MDM_LOCK_POL_LOCK = false)
    ∧ ((payU (wReq ([2, 0, 0, 0, 0, 0, 9, 4]) : Req).pay 0 1) = 2)) := by
  and_intros <;> decide +kernel

theorem witness_configuration_status_and_diagnostic_requests_part2 :
    ((wWht.kcp.queues.length = 4)
    ∧ (wWht.Ready 0x0403 3 (wReq ([1, 0, 0, 0, 0, 0, 0, 5]) : Req) (wCtx : Ctx))
    ∧ (wWht.policyBusy = true ∨ wWht.is MDM_LOCK_POL_LOCK = true))
    ∧ ((wKp.kcp.queues.length = 4)
    ∧ (wKp.Ready 0x0404 3 (wReq ([1]) : Req) (wCtx : Ctx)))
    ∧ ((wKp.kcp.queues.length = 4)
    ∧ (wKp.Ready 0x0A01 4 (wReq ([]) : Req) (wCtx : Ctx)))
    ∧ ((wKp.kcp.queues.length = 4)
    ∧ (wKp.Ready 0x0A02 3 (wReq ([1, 1]) : Req) (wCtx : Ctx)))
    ∧ (((wKp.put (CAN_CTRL_INIT 2) 0).kcp.queues.length = 4)
    ∧ ((wKp.put (CAN_CTRL_INIT 2) 0).Ready 0x0A03 3 (wReq ([2, 1, 0, 0, 1, 0, 0, 10]) : Req) (wCtx : Ctx))
    ∧ ((payU (wReq ([2, 1, 0, 0, 1, 0, 0, 10]) : Req).pay 1 1) = 1)
    ∧ ((wKp.put (CAN_CTRL_INIT 2) 0).is CANG_TMCFG_EN = false ∨ (wKp.put (CAN_CTRL_INIT 2) 0).get CANG_TMCFG_BUS = (payU (wReq ([2, 1, 0, 0, 1, 0, 0, 10]) : Req).pay 0 1))
    ∧ ((wKp.put (CAN_CTRL_INIT 2) 0).isOn 13 = true)
    ∧ ((wKp.put (CAN_CTRL_INIT 2) 0).canEnabled (payU (wReq ([2, 1, 0, 0, 1, 0, 0, 10]) : Req).pay 0 1) = true))
    ∧ (((wKp.put CANG_TMCFG_EN 1).kcp.queues.length = 4)
    ∧ ((wKp.put CANG_TMCFG_EN 1).Ready 0x0A03 3 (wReq ([2, 1, 0, 0, 1, 0, 0, 10]) : Req) (wCtx : Ctx))
    ∧ ((payU (wReq ([2, 1, 0, 0, 1, 0, 0, 10]) : Req).pay 1 1) = 1)
    ∧ ((wKp.put CANG_TMCFG_EN 1).is CANG_TMCFG_EN = true)
    ∧ ((wKp.put CANG_TMCFG_EN 1).get CANG_TMCFG_BUS ≠ (payU (wReq ([2, 1, 0, 0, 1, 0, 0, 10]) : Req).pay 0 1))) := by
  and_intros <;> decide +kernel

theorem witness_configuration_status_and_diagnostic_requests_part3 :
    ((wKp.kcp.queues.length = 4)
    ∧ (wKp.Ready 0x0A03 3 (wReq ([2, 1, 0, 0, 1, 0, 0, 10]) : Req) (wCtx : Ctx))
    ∧ ((payU (wReq ([2, 1, 0, 0, 1, 0, 0, 10]) : Req).pay 1 1) = 1)
    ∧ (wKp.is CANG_TMCFG_EN = false ∨ wKp.get CANG_TMCFG_BUS = (payU (wReq ([2, 1, 0, 0, 1, 0, 0, 10]) : Req).pay 0 1))
    ∧ (wKp.isOn 13 = false ∨ wKp.canEnabled (payU (wReq ([2, 1, 0, 0, 1, 0, 0, 10]) : Req).pay 0 1) = false))
    ∧ ((((wKp.put CANG_TMCFG_EN 1).put CANG_TMCFG_BUS 2).kcp.queues.length = 4)
    ∧ (((wKp.put CANG_TMCFG_EN 1).put CANG_TMCFG_BUS 2).Ready 0x0A03 3 (wReq ([2, 0, 0, 0, 1, 0, 0, 10]) : Req) (wCtx : Ctx))
    ∧ ((payU (wReq ([2, 0, 0, 0, 1, 0, 0, 10]) : Req).pay 1 1) = 0)
    ∧ (((wKp.put CANG_TMCFG_EN 1).put CANG_TMCFG_BUS 2).get CANG_TMCFG_BUS = (payU (wReq ([2, 0, 0, 0, 1, 0, 0, 10]) : Req).pay 0 1)))
    ∧ ((((wKp.put CANG_TMCFG_EN 1).put CANG_TMCFG_BUS 1).kcp.queues.length = 4)
    ∧ (((wKp.put CANG_TMCFG_EN 1).put CANG_TMCFG_BUS 1).Ready 0x0A03 3 (wReq ([2, 0, 0, 0, 1, 0, 0, 10]) : Req) (wCtx : Ctx))
    ∧ ((payU (wReq ([2, 0, 0, 0, 1, 0, 0, 10]) : Req).pay 1 1) = 0)
    ∧ (((wKp.put CANG_TMCFG_EN 1).put CANG_TMCFG_BUS 1).get CANG_TMCFG_BUS ≠ (payU (wReq ([2, 0, 0, 0, 1, 0, 0, 10]) : Req).pay 0 1)))
    ∧ (((wKp.put GDG_OSDVDC_VDC 77).kcp.queues.length = 4)
    ∧ ((wKp.put GDG_OSDVDC_VDC 77).Ready 0x0502 4 (wReq ([]) : Req) (wCtx : Ctx)))
    ∧ ((wKp.kcp.queues.length = 4)
    ∧ (wKp.Ready 0x0503 4 (wReq ([9, 0, 0, 0]) : Req) (wCtx : Ctx))
    ∧ ((payU (wReq ([9, 0, 0, 0]) : Req).pay 1 1) = 0))
    ∧ ((wKp.kcp.queues.length = 4)
    ∧ (wKp.Ready 0x0503 4 (wReq ([9, 1, 0, 50]) : Req) (wCtx : Ctx))
    ∧ ((payU (wReq ([9, 1, 0, 50]) : Req).pay 1 1) = 1)) := by
  and_intros <;> decide +kernel

theorem witness_configuration_status_and_diagnostic_requests_part4 :
    ((wKp.kcp.queues.length = 4)
    ∧ (wKp.Ready 0x0504 4 (wReq ([0x40, 0, 0, 0x20, 3, 0, 0, 0]) : Req) (wCtx : Ctx)))
    ∧ ((wKp.kcp.queues.length = 4)
    ∧ (wKp.Ready 0x0504 4 (wReq ([0x40, 0, 0, 0x20, 3, 0, 0, 0]) : Req) (wCtx : Ctx))
    ∧ (∀ i : Fin 64, i.val < (payU (wReq ([0x40, 0, 0, 0x20, 3, 0, 0, 0]) : Req).pay 4 1) → (payU (wReq ([0x40, 0, 0, 0x20, 3, 0, 0, 0]) : Req).pay 0 4) + 4 * i.val ≠ TB_LO.addr ∧ (payU (wReq ([0x40, 0, 0, 0x20, 3, 0, 0, 0]) : Req).pay 0 4) + 4 * i.val ≠ TB_HI.addr ∧ inWin 0x40204000 0x40205000 ((payU (wReq ([0x40, 0, 0, 0x20, 3, 0, 0, 0]) : Req).pay 0 4) + 4 * i.val) = false))
    ∧ (((wKp.put THM_STAT_STEP 2).kcp.queues.length = 4)
    ∧ ((wKp.put THM_STAT_STEP 2).Ready 0x0505 4 (wReq ([]) : Req) (wCtx : Ctx)))
    ∧ ((wKp.kcp.queues.length = 4)
    ∧ (wKp.Ready 0x0506 4 (wReq ([]) : Req) (wCtx : Ctx)))
    ∧ ((wKp.kcp.queues.length = 4)
    ∧ (wKp.Ready 0x0603 4 (wReq ([0]) : Req) (wCtx : Ctx))
    ∧ ((payU (wReq ([0]) : Req).pay 0 1) = 0))
    ∧ ((wKp.kcp.queues.length = 4)
    ∧ (wKp.Ready 0x0603 4 (wReq ([1]) : Req) (wCtx : Ctx))
    ∧ ((payU (wReq ([1]) : Req).pay 0 1) = 1)) := by
  and_intros <;> decide +kernel

theorem witness_configuration_status_and_diagnostic_requests_part5 :
    ((wKp.kcp.queues.length = 4)
    ∧ (wKp.Ready 0x0702 4 (wReq ([]) : Req) (wCtx : Ctx)))
    ∧ (((wKp.put GDG_OSDSTAT_BUSY 1).kcp.queues.length = 4)
    ∧ ((wKp.put GDG_OSDSTAT_BUSY 1).Ready 0x0501 4 (wReq ([0, 0, 0, 0x18, 4, 3, 0, 0] ++ List.replicate 32 0) : Req) (wCtx : Ctx))
    ∧ ((wKp.put GDG_OSDSTAT_BUSY 1).is GDG_OSDSTAT_BUSY = true))
    ∧ ((((wOsd.setStart { wOn.start with kp := true } |>.setKcp wKp.kcp).put ADG_VDC_VDC 700).kcp.queues.length = 4)
    ∧ (((wOsd.setStart { wOn.start with kp := true } |>.setKcp wKp.kcp).put ADG_VDC_VDC 700).Ready 0x0501 4 (wReq ([0, 0, 0, 0x18, 4, 3, 0, 0] ++ List.replicate 32 0) : Req) (wCtx : Ctx))
    ∧ (((wOsd.setStart { wOn.start with kp := true } |>.setKcp wKp.kcp).put ADG_VDC_VDC 700).is GDG_OSDSTAT_BUSY = false)
    ∧ (((wOsd.setStart { wOn.start with kp := true } |>.setKcp wKp.kcp).put ADG_VDC_VDC 700).active 11 = false ∨ ([9, 10, 11, 12].filter (fun d => (setBits 32 (payU (wReq ([0, 0, 0, 0x18, 4, 3, 0, 0] ++ List.replicate 32 0) : Req).pay 0 4)).any (fun k => gateGroup (2 * k) == d - 9) && (!((wOsd.setStart { wOn.start with kp := true } |>.setKcp wKp.kcp).put ADG_VDC_VDC 700).isOn d && ((wOsd.setStart { wOn.start with kp := true } |>.setKcp wKp.kcp).put ADG_VDC_VDC 700).domReady d && ((wOsd.setStart { wOn.start with kp := true } |>.setKcp wKp.kcp).put ADG_VDC_VDC 700).domExists d))) = [])
    ∧ (600 ≤ ((wOsd.setStart { wOn.start with kp := true } |>.setKcp wKp.kcp).put ADG_VDC_VDC 700).get ADG_VDC_VDC))
    ∧ ((((wOsd.setStart { wOn.start with kp := true } |>.setKcp wKp.kcp).put (GD_STATUS_CMD 6) 1).kcp.queues.length = 4)
    ∧ (((wOsd.setStart { wOn.start with kp := true } |>.setKcp wKp.kcp).put (GD_STATUS_CMD 6) 1).Ready 0x0501 4 (wReq ([0, 0, 0, 0x18, 4, 3, 0, 0] ++ List.replicate 32 0) : Req) (wCtx : Ctx))
    ∧ (((wOsd.setStart { wOn.start with kp := true } |>.setKcp wKp.kcp).put (GD_STATUS_CMD 6) 1).is GDG_OSDSTAT_BUSY = false)
    ∧ (((wOsd.setStart { wOn.start with kp := true } |>.setKcp wKp.kcp).put (GD_STATUS_CMD 6) 1).active 11 = false ∨ ([9, 10, 11, 12].filter (fun d => (setBits 32 (payU (wReq ([0, 0, 0, 0x18, 4, 3, 0, 0] ++ List.replicate 32 0) : Req).pay 0 4)).any (fun k => gateGroup (2 * k) == d - 9) && (!((wOsd.setStart { wOn.start with kp := true } |>.setKcp wKp.kcp).put (GD_STATUS_CMD 6) 1).isOn d && ((wOsd.setStart { wOn.start with kp := true } |>.setKcp wKp.kcp).put (GD_STATUS_CMD 6) 1).domReady d && ((wOsd.setStart { wOn.start with kp := true } |>.setKcp wKp.kcp).put (GD_STATUS_CMD 6) 1).domExists d))) = [])
    ∧ (((wOsd.setStart { wOn.start with kp := true } |>.setKcp wKp.kcp).put (GD_STATUS_CMD 6) 1).get ADG_VDC_VDC < 600)
    ∧ ((setBits 32 (payU (wReq ([0, 0, 0, 0x18, 4, 3, 0, 0] ++ List.replicate 32 0) : Req).pay 0 4)).any (fun k => ((wOsd.setStart { wOn.start with kp := true } |>.setKcp wKp.kcp).put (GD_STATUS_CMD 6) 1).is (GD_STATUS_CMD (2 * k)) || ((wOsd.setStart { wOn.start with kp := true } |>.setKcp wKp.kcp).put (GD_STATUS_CMD 6) 1).is (GD_STATUS_CMD (2 * k + 1))) = true))
    ∧ ((((wOsd.setStart { wOn.start with kp := true } |>.setKcp wKp.kcp).put (GD_STATUS_BIASOK 6) 0).kcp.queues.length = 4)
    ∧ (((wOsd.setStart { wOn.start with kp := true } |>.setKcp wKp.kcp).put (GD_STATUS_BIASOK 6) 0).Ready 0x0501 4 (wReq ([0, 0, 0, 0x18, 4, 3, 0, 0] ++ List.replicate 32 0) : Req) (wCtx : Ctx))
    ∧ (((wOsd.setStart { wOn.start with kp := true } |>.setKcp wKp.kcp).put (GD_STATUS_BIASOK 6) 0).is GDG_OSDSTAT_BUSY = false)
    ∧ (((wOsd.setStart { wOn.start with kp := true } |>.setKcp wKp.kcp).put (GD_STATUS_BIASOK 6) 0).active 11 = false ∨ ([9, 10, 11, 12].filter (fun d => (setBits 32 (payU (wReq ([0, 0, 0, 0x18, 4, 3, 0, 0] ++ List.replicate 32 0) : Req).pay 0 4)).any (fun k => gateGroup (2 * k) == d - 9) && (!((wOsd.setStart { wOn.start with kp := true } |>.setKcp wKp.kcp).put (GD_STATUS_BIASOK 6) 0).isOn d && ((wOsd.setStart { wOn.start with kp := true } |>.setKcp wKp.kcp).put (GD_STATUS_BIASOK 6) 0).domReady d && ((wOsd.setStart { wOn.start with kp := true } |>.setKcp wKp.kcp).put (GD_STATUS_BIASOK 6) 0).domExists d))) = [])
    ∧ (((wOsd.setStart { wOn.start with kp := true } |>.setKcp wKp.kcp).put (GD_STATUS_BIASOK 6) 0).get ADG_VDC_VDC < 600)
    ∧ ((setBits 32 (payU (wReq ([0, 0, 0, 0x18, 4, 3, 0, 0] ++ List.replicate 32 0) : Req).pay 0 4)).any (fun k => ((wOsd.setStart { wOn.start with kp := true } |>.setKcp wKp.kcp).put (GD_STATUS_BIASOK 6) 0).is (GD_STATUS_CMD (2 * k)) || ((wOsd.setStart { wOn.start with kp := true } |>.setKcp wKp.kcp).put (GD_STATUS_BIASOK 6) 0).is (GD_STATUS_CMD (2 * k + 1))) = false)
    ∧ ((setBits 32 (payU (wReq ([0, 0, 0, 0x18, 4, 3, 0, 0] ++ List.replicate 32 0) : Req).pay 0 4)).any (fun k => if k ≤ 20 then !(((wOsd.setStart { wOn.start with kp := true } |>.setKcp wKp.kcp).put (GD_STATUS_BIASOK 6) 0).is (GD_STATUS_BIASOK (2 * k)) && ((wOsd.setStart { wOn.start with kp := true } |>.setKcp wKp.kcp).put (GD_STATUS_BIASOK 6) 0).is (GD_STATUS_BIASOK (2 * k + 1))) else !((wOsd.setStart { wOn.start with kp := true } |>.setKcp wKp.kcp).put (GD_STATUS_BIASOK 6) 0).isOn 12) = true))
    ∧ ((((wOsd.setStart { wOn.start with kp := true } |>.setKcp wKp.kcp)).kcp.queues.length = 4)
    ∧ (((wOsd.setStart { wOn.start with kp := true } |>.setKcp wKp.kcp)).Ready 0x0501 4 (wReq ([0, 0, 0, 0x18, 4, 2, 0, 0] ++ List.replicate 32 0) : Req) (wCtx : Ctx))
    ∧ (((wOsd.setStart { wOn.start with kp := true } |>.setKcp wKp.kcp)).is GDG_OSDSTAT_BUSY = false)
    ∧ (((wOsd.setStart { wOn.start with kp := true } |>.setKcp wKp.kcp)).active 11 = false ∨ ([9, 10, 11, 12].filter (fun d => (setBits 32 (payU (wReq ([0, 0, 0, 0x18, 4, 2, 0, 0] ++ List.replicate 32 0) : Req).pay 0 4)).any (fun k => gateGroup (2 * k) == d - 9) && (!((wOsd.setStart { wOn.start with kp := true } |>.setKcp wKp.kcp)).isOn d && ((wOsd.setStart { wOn.start with kp := true } |>.setKcp wKp.kcp)).domReady d && ((wOsd.setStart { wOn.start with kp := true } |>.setKcp wKp.kcp)).domExists d))) = [])
    ∧ (((wOsd.setStart { wOn.start with kp := true } |>.setKcp wKp.kcp)).get ADG_VDC_VDC < 600)
    ∧ ((setBits 32 (payU (wReq ([0, 0, 0, 0x18, 4, 2, 0, 0] ++ List.replicate 32 0) : Req).pay 0 4)).any (fun k => ((wOsd.setStart { wOn.start with kp := true } |>.setKcp wKp.kcp)).is (GD_STATUS_CMD (2 * k)) || ((wOsd.setStart { wOn.start with kp := true } |>.setKcp wKp.kcp)).is (GD_STATUS_CMD (2 * k + 1))) = false)
    ∧ ((setBits 32 (payU (wReq ([0, 0, 0, 0x18, 4, 2, 0, 0] ++ List.replicate 32 0) : Req).pay 0 4)).any (fun k => if k ≤ 20 then !(((wOsd.setStart { wOn.start with kp := true } |>.setKcp wKp.kcp)).is (GD_STATUS_BIASOK (2 * k)) && ((wOsd.setStart { wOn.start with kp := true } |>.setKcp wKp.kcp)).is (GD_STATUS_BIASOK (2 * k + 1))) else !((wOsd.setStart { wOn.start with kp := true } |>.setKcp wKp.kcp)).isOn 12) = false)
    ∧ (((if bitOf 0 (payU (wReq ([0, 0, 0, 0x18, 4, 2, 0, 0] ++ List.replicate 32 0) : Req).pay 5 1) then (setBits 32 (payU (wReq ([0, 0, 0, 0x18, 4, 2, 0, 0] ++ List.replicate 32 0) : Req).pay 0 4)).flatMap (fun k => [OsdStep.shlo k, OsdStep.shhi k]) else []) ++ (if bitOf 1 (payU (wReq ([0, 0, 0, 0x18, 4, 2, 0, 0] ++ List.replicate 32 0) : Req).pay 5 1) then ((setBits 32 (payU (wReq ([0, 0, 0, 0x18, 4, 2, 0, 0] ++ List.replicate 32 0) : Req).pay 0 4)).filter (fun k => bitOf 7 ((fun (k : Nat) => payU (wReq ([0, 0, 0, 0x18, 4, 2, 0, 0] ++ List.replicate 32 0) : Req).pay (8 + k) 1) k))).map (fun k => OsdStep.opn k (bitsOf 4 0 ((fun (k : Nat) => payU (wReq ([0, 0, 0, 0x18, 4, 2, 0, 0] ++ List.replicate 32 0) : Req).pay (8 + k) 1) k))) else [])) = [])) := by
  and_intros <;> decide +kernel

theorem witness_configuration_status_and_diagnostic_requests_part6 :
    ((((wOsd.setStart { wOn.start with kp := true } |>.setKcp wKp.kcp)).kcp.queues.length = 4)
    ∧ (((wOsd.setStart { wOn.start with kp := true } |>.setKcp wKp.kcp)).Ready 0x0501 4 (wReq ([0, 0, 0, 0x18, 4, 3, 0, 0] ++ List.replicate 32 0) : Req) (wCtx : Ctx))
    ∧ (((wOsd.setStart { wOn.start with kp := true } |>.setKcp wKp.kcp)).is GDG_OSDSTAT_BUSY = false)
    ∧ (((wOsd.setStart { wOn.start with kp := true } |>.setKcp wKp.kcp)).active 11 = false ∨ ([9, 10, 11, 12].filter (fun d => (setBits 32 (payU (wReq ([0, 0, 0, 0x18, 4, 3, 0, 0] ++ List.replicate 32 0) : Req).pay 0 4)).any (fun k => gateGroup (2 * k) == d - 9) && (!((wOsd.setStart { wOn.start with kp := true } |>.setKcp wKp.kcp)).isOn d && ((wOsd.setStart { wOn.start with kp := true } |>.setKcp wKp.kcp)).domReady d && ((wOsd.setStart { wOn.start with kp := true } |>.setKcp wKp.kcp)).domExists d))) = [])
    ∧ (((wOsd.setStart { wOn.start with kp := true } |>.setKcp wKp.kcp)).get ADG_VDC_VDC < 600)
    ∧ ((setBits 32 (payU (wReq ([0, 0, 0, 0x18, 4, 3, 0, 0] ++ List.replicate 32 0) : Req).pay 0 4)).any (fun k => ((wOsd.setStart { wOn.start with kp := true } |>.setKcp wKp.kcp)).is (GD_STATUS_CMD (2 * k)) || ((wOsd.setStart { wOn.start with kp := true } |>.setKcp wKp.kcp)).is (GD_STATUS_CMD (2 * k + 1))) = false)
    ∧ ((setBits 32 (payU (wReq ([0, 0, 0, 0x18, 4, 3, 0, 0] ++ List.replicate 32 0) : Req).pay 0 4)).any (fun k => if k ≤ 20 then !(((wOsd.setStart { wOn.start with kp := true } |>.setKcp wKp.kcp)).is (GD_STATUS_BIASOK (2 * k)) && ((wOsd.setStart { wOn.start with kp := true } |>.setKcp wKp.kcp)).is (GD_STATUS_BIASOK (2 * k + 1))) else !((wOsd.setStart { wOn.start with kp := true } |>.setKcp wKp.kcp)).isOn 12) = false)
    ∧ (((if bitOf 0 (payU (wReq ([0, 0, 0, 0x18, 4, 3, 0, 0] ++ List.replicate 32 0) : Req).pay 5 1) then (setBits 32 (payU (wReq ([0, 0, 0, 0x18, 4, 3, 0, 0] ++ List.replicate 32 0) : Req).pay 0 4)).flatMap (fun k => [OsdStep.shlo k, OsdStep.shhi k]) else []) ++ (if bitOf 1 (payU (wReq ([0, 0, 0, 0x18, 4, 3, 0, 0] ++ List.replicate 32 0) : Req).pay 5 1) then ((setBits 32 (payU (wReq ([0, 0, 0, 0x18, 4, 3, 0, 0] ++ List.replicate 32 0) : Req).pay 0 4)).filter (fun k => bitOf 7 ((fun (k : Nat) => payU (wReq ([0, 0, 0, 0x18, 4, 3, 0, 0] ++ List.replicate 32 0) : Req).pay (8 + k) 1) k))).map (fun k => OsdStep.opn k (bitsOf 4 0 ((fun (k : Nat) => payU (wReq ([0, 0, 0, 0x18, 4, 3, 0, 0] ++ List.replicate 32 0) : Req).pay (8 + k) 1) k))) else [])) ≠ [])
    ∧ ((setBits 32 (payU (wReq ([0, 0, 0, 0x18, 4, 3, 0, 0] ++ List.replicate 32 0) : Req).pay 0 4)).any (fun k => ((wOsd.setStart { wOn.start with kp := true } |>.setKcp wKp.kcp)).is (GD_STATUS_FORCED (2 * k)) || ((wOsd.setStart { wOn.start with kp := true } |>.setKcp wKp.kcp)).is (GD_STATUS_FORCED (2 * k + 1))) = false))
    ∧ ((((wOsd.setStart { wOn.start with kp := true } |>.setKcp wKp.kcp).put (GD_STATUS_FORCED 6) 1).kcp.queues.length = 4)
    ∧ (((wOsd.setStart { wOn.start with kp := true } |>.setKcp wKp.kcp).put (GD_STATUS_FORCED 6) 1).Ready 0x0501 4 (wReq ([0, 0, 0, 0x18, 4, 3, 0, 0] ++ List.replicate 32 0) : Req) (wCtx : Ctx))
    ∧ (((wOsd.setStart { wOn.start with kp := true } |>.setKcp wKp.kcp).put (GD_STATUS_FORCED 6) 1).is GDG_OSDSTAT_BUSY = false)
    ∧ (((wOsd.setStart { wOn.start with kp := true } |>.setKcp wKp.kcp).put (GD_STATUS_FORCED 6) 1).active 11 = false ∨ ([9, 10, 11, 12].filter (fun d => (setBits 32 (payU (wReq ([0, 0, 0, 0x18, 4, 3, 0, 0] ++ List.replicate 32 0) : Req).pay 0 4)).any (fun k => gateGroup (2 * k) == d - 9) && (!((wOsd.setStart { wOn.start with kp := true } |>.setKcp wKp.kcp).put (GD_STATUS_FORCED 6) 1).isOn d && ((wOsd.setStart { wOn.start with kp := true } |>.setKcp wKp.kcp).put (GD_STATUS_FORCED 6) 1).domReady d && ((wOsd.setStart { wOn.start with kp := true } |>.setKcp wKp.kcp).put (GD_STATUS_FORCED 6) 1).domExists d))) = [])
    ∧ (((wOsd.setStart { wOn.start with kp := true } |>.setKcp wKp.kcp).put (GD_STATUS_FORCED 6) 1).get ADG_VDC_VDC < 600)
    ∧ ((setBits 32 (payU (wReq ([0, 0, 0, 0x18, 4, 3, 0, 0] ++ List.replicate 32 0) : Req).pay 0 4)).any (fun k => ((wOsd.setStart { wOn.start with kp := true } |>.setKcp wKp.kcp).put (GD_STATUS_FORCED 6) 1).is (GD_STATUS_CMD (2 * k)) || ((wOsd.setStart { wOn.start with kp := true } |>.setKcp wKp.kcp).put (GD_STATUS_FORCED 6) 1).is (GD_STATUS_CMD (2 * k + 1))) = false)
    ∧ ((setBits 32 (payU (wReq ([0, 0, 0, 0x18, 4, 3, 0, 0] ++ List.replicate 32 0) : Req).pay 0 4)).any (fun k => if k ≤ 20 then !(((wOsd.setStart { wOn.start with kp := true } |>.setKcp wKp.kcp).put (GD_STATUS_FORCED 6) 1).is (GD_STATUS_BIASOK (2 * k)) && ((wOsd.setStart { wOn.start with kp := true } |>.setKcp wKp.kcp).put (GD_STATUS_FORCED 6) 1).is (GD_STATUS_BIASOK (2 * k + 1))) else !((wOsd.setStart { wOn.start with kp := true } |>.setKcp wKp.kcp).put (GD_STATUS_FORCED 6) 1).isOn 12) = false)
    ∧ (((if bitOf 0 (payU (wReq ([0, 0, 0, 0x18, 4, 3, 0, 0] ++ List.replicate 32 0) : Req).pay 5 1) then (setBits 32 (payU (wReq ([0, 0, 0, 0x18, 4, 3, 0, 0] ++ List.replicate 32 0) : Req).pay 0 4)).flatMap (fun k => [OsdStep.shlo k, OsdStep.shhi k]) else []) ++ (if bitOf 1 (payU (wReq ([0, 0, 0, 0x18, 4, 3, 0, 0] ++ List.replicate 32 0) : Req).pay 5 1) then ((setBits 32 (payU (wReq ([0, 0, 0, 0x18, 4, 3, 0, 0] ++ List.replicate 32 0) : Req).pay 0 4)).filter (fun k => bitOf 7 ((fun (k : Nat) => payU (wReq ([0, 0, 0, 0x18, 4, 3, 0, 0] ++ List.replicate 32 0) : Req).pay (8 + k) 1) k))).map (fun k => OsdStep.opn k (bitsOf 4 0 ((fun (k : Nat) => payU (wReq ([0, 0, 0, 0x18, 4, 3, 0, 0] ++ List.replicate 32 0) : Req).pay (8 + k) 1) k))) else [])) ≠ [])
    ∧ ((setBits 32 (payU (wReq ([0, 0, 0, 0x18, 4, 3, 0, 0] ++ List.replicate 32 0) : Req).pay 0 4)).any (fun k => ((wOsd.setStart { wOn.start with kp := true } |>.setKcp wKp.kcp).put (GD_STATUS_FORCED 6) 1).is (GD_STATUS_FORCED (2 * k)) || ((wOsd.setStart { wOn.start with kp := true } |>.setKcp wKp.kcp).put (GD_STATUS_FORCED 6) 1).is (GD_STATUS_FORCED (2 * k + 1))) = true))
    ∧ ((({ ((wOsd.setStart { wOn.start with kp := true } |>.setKcp wKp.kcp).put MDM_ACTIVE_ACTIVE 0x800).put HSM_STATUS_EN 0xF with on := 0x1FF }).kcp.queues.length = 4)
    ∧ (({ ((wOsd.setStart { wOn.start with kp := true } |>.setKcp wKp.kcp).put MDM_ACTIVE_ACTIVE 0x800).put HSM_STATUS_EN 0xF with on := 0x1FF }).Ready 0x0501 4 (wReq ([0, 0, 0, 0x18, 4, 3, 0, 0] ++ List.replicate 32 0) : Req) (wCtx : Ctx))
    ∧ (({ ((wOsd.setStart { wOn.start with kp := true } |>.setKcp wKp.kcp).put MDM_ACTIVE_ACTIVE 0x800).put HSM_STATUS_EN 0xF with on := 0x1FF }).is GDG_OSDSTAT_BUSY = false)
    ∧ (({ ((wOsd.setStart { wOn.start with kp := true } |>.setKcp wKp.kcp).put MDM_ACTIVE_ACTIVE 0x800).put HSM_STATUS_EN 0xF with on := 0x1FF }).active 11 = true)
    ∧ (([9, 10, 11, 12].filter (fun d => (setBits 32 (payU (wReq ([0, 0, 0, 0x18, 4, 3, 0, 0] ++ List.replicate 32 0) : Req).pay 0 4)).any (fun k => gateGroup (2 * k) == d - 9) && (!({ ((wOsd.setStart { wOn.start with kp := true } |>.setKcp wKp.kcp).put MDM_ACTIVE_ACTIVE 0x800).put HSM_STATUS_EN 0xF with on := 0x1FF }).isOn d && ({ ((wOsd.setStart { wOn.start with kp := true } |>.setKcp wKp.kcp).put MDM_ACTIVE_ACTIVE 0x800).put HSM_STATUS_EN 0xF with on := 0x1FF }).domReady d && ({ ((wOsd.setStart { wOn.start with kp := true } |>.setKcp wKp.kcp).put MDM_ACTIVE_ACTIVE 0x800).put HSM_STATUS_EN 0xF with on := 0x1FF }).domExists d))) ≠ [])) := by
  and_intros <;> decide +kernel

theorem witness_captures_logs_and_force_cold :
    ((wKp.kcp.queues.length = 4)
    ∧ (wKp.Ready 0x0507 4 (wReq ([1, 5, 3, 0x80, 0, 0, 0, 8]) : Req) (wCtx : Ctx))
    ∧ (wKp.capBase = 0))
    ∧ (((wKp.setKcp { wKp.kcp with cfg := [(0x200, 0x2010), (0x201, 1)] }).kcp.queues.length = 4)
    ∧ ((wKp.setKcp { wKp.kcp with cfg := [(0x200, 0x2010), (0x201, 1)] }).Ready 0x0507 4 (wReq ([1, 5, 3, 0x80, 0, 0, 0xFF, 0xFF]) : Req) (wCtx : Ctx))
    ∧ ((wKp.setKcp { wKp.kcp with cfg := [(0x200, 0x2010), (0x201, 1)] }).capBase ≠ 0)
    ∧ ((wKp.setKcp { wKp.kcp with cfg := [(0x200, 0x2010), (0x201, 1)] }).par 0x0201 * 65536 < 2 * (payU (wReq ([1, 5, 3, 0x80, 0, 0, 0xFF, 0xFF]) : Req).pay 4 4)))
    ∧ (((wKp.setKcp { wKp.kcp with cfg := [(0x200, 0x2010)], caps := [⟨2, ⟨0x607, 0, 9, none, 11, 0x0507, 4, 0⟩, true, 2, false⟩] }).kcp.queues.length = 4)
    ∧ ((wKp.setKcp { wKp.kcp with cfg := [(0x200, 0x2010)], caps := [⟨2, ⟨0x607, 0, 9, none, 11, 0x0507, 4, 0⟩, true, 2, false⟩] }).Ready 0x0507 4 (wReq ([1, 5, 3, 0x80, 0, 0, 0, 8]) : Req) (wCtx : Ctx))
    ∧ ((wKp.setKcp { wKp.kcp with cfg := [(0x200, 0x2010)], caps := [⟨2, ⟨0x607, 0, 9, none, 11, 0x0507, 4, 0⟩, true, 2, false⟩] }).capBase ≠ 0)
    ∧ (2 * (payU (wReq ([1, 5, 3, 0x80, 0, 0, 0, 8]) : Req).pay 4 4) ≤ (wKp.setKcp { wKp.kcp with cfg := [(0x200, 0x2010)], caps := [⟨2, ⟨0x607, 0, 9, none, 11, 0x0507, 4, 0⟩, true, 2, false⟩] }).par 0x0201 * 65536)
    ∧ ((wKp.setKcp { wKp.kcp with cfg := [(0x200, 0x2010)], caps := [⟨2, ⟨0x607, 0, 9, none, 11, 0x0507, 4, 0⟩, true, 2, false⟩] }).get (CAP_STATUS_STATE (payU (wReq ([1, 5, 3, 0x80, 0, 0, 0, 8]) : Req).pay 0 1)) ≠ 0 ∨ (wKp.setKcp { wKp.kcp with cfg := [(0x200, 0x2010)], caps := [⟨2, ⟨0x607, 0, 9, none, 11, 0x0507, 4, 0⟩, true, 2, false⟩] }).kcp.caps.any (fun (c : CapReq) => !c.fin && c.tok.handle != ((wReq ([1, 5, 3, 0x80, 0, 0, 0, 8]) : Req).ctx.val * 256 + (wCtx : Ctx).gen)) = true))
    ∧ (((wKp.setKcp { wKp.kcp with cfg := [(0x200, 0x2010)], caps := [⟨1, ⟨0x507, 0, 9, none, 11, 0x0507, 4, 0⟩, true, 2, true⟩] }).kcp.queues.length = 4)
    ∧ ((wKp.setKcp { wKp.kcp with cfg := [(0x200, 0x2010)], caps := [⟨1, ⟨0x507, 0, 9, none, 11, 0x0507, 4, 0⟩, true, 2, true⟩] }).Ready 0x0507 4 (wReq ([1, 5, 3, 0x80, 0, 0, 0, 8]) : Req) (wCtx : Ctx))
    ∧ ((wKp.setKcp { wKp.kcp with cfg := [(0x200, 0x2010)], caps := [⟨1, ⟨0x507, 0, 9, none, 11, 0x0507, 4, 0⟩, true, 2, true⟩] }).capBase ≠ 0)
    ∧ (2 * (payU (wReq ([1, 5, 3, 0x80, 0, 0, 0, 8]) : Req).pay 4 4) ≤ (wKp.setKcp { wKp.kcp with cfg := [(0x200, 0x2010)], caps := [⟨1, ⟨0x507, 0, 9, none, 11, 0x0507, 4, 0⟩, true, 2, true⟩] }).par 0x0201 * 65536)
    ∧ ((wKp.setKcp { wKp.kcp with cfg := [(0x200, 0x2010)], caps := [⟨1, ⟨0x507, 0, 9, none, 11, 0x0507, 4, 0⟩, true, 2, true⟩] }).get (CAP_STATUS_STATE (payU (wReq ([1, 5, 3, 0x80, 0, 0, 0, 8]) : Req).pay 0 1)) = 0)
    ∧ ((wKp.setKcp { wKp.kcp with cfg := [(0x200, 0x2010)], caps := [⟨1, ⟨0x507, 0, 9, none, 11, 0x0507, 4, 0⟩, true, 2, true⟩] }).kcp.caps.any (fun (c : CapReq) => !c.fin && c.tok.handle != ((wReq ([1, 5, 3, 0x80, 0, 0, 0, 8]) : Req).ctx.val * 256 + (wCtx : Ctx).gen)) = false)
    ∧ (payU (wReq ([1, 5, 3, 0x80, 0, 0, 0, 8]) : Req).pay 3 1 ≠ 0xFF))
    ∧ (((wKp.setKcp { wKp.kcp with cfg := [(0x200, 0x2010)] }).kcp.queues.length = 4)
    ∧ ((wKp.setKcp { wKp.kcp with cfg := [(0x200, 0x2010)] }).Ready 0x0507 4 (wReq ([1, 5, 3, 0xFF, 0, 0, 0, 8]) : Req) (wCtx : Ctx))
    ∧ ((wKp.setKcp { wKp.kcp with cfg := [(0x200, 0x2010)] }).capBase ≠ 0)
    ∧ (2 * (payU (wReq ([1, 5, 3, 0xFF, 0, 0, 0, 8]) : Req).pay 4 4) ≤ (wKp.setKcp { wKp.kcp with cfg := [(0x200, 0x2010)] }).par 0x0201 * 65536)
    ∧ ((wKp.setKcp { wKp.kcp with cfg := [(0x200, 0x2010)] }).get (CAP_STATUS_STATE (payU (wReq ([1, 5, 3, 0xFF, 0, 0, 0, 8]) : Req).pay 0 1)) = 0)
    ∧ ((wKp.setKcp { wKp.kcp with cfg := [(0x200, 0x2010)] }).kcp.caps.any (fun (c : CapReq) => !c.fin && c.tok.handle != ((wReq ([1, 5, 3, 0xFF, 0, 0, 0, 8]) : Req).ctx.val * 256 + (wCtx : Ctx).gen)) = false)
    ∧ (payU (wReq ([1, 5, 3, 0xFF, 0, 0, 0, 8]) : Req).pay 3 1 = 0xFF)
    ∧ ((wKp.setKcp { wKp.kcp with cfg := [(0x200, 0x2010)] }).conv.caps.length = 4))
    ∧ ((((wKp.setKcp { wKp.kcp with cfg := [(0x200, 0x2010)], caps := [⟨1, ⟨0x507, 0, 9, none, 11, 0x0507, 4, 0⟩, true, 2, false⟩] }).setCap 1 [7, 8]).start.kp = true)
    ∧ (((wKp.setKcp { wKp.kcp with cfg := [(0x200, 0x2010)], caps := [⟨1, ⟨0x507, 0, 9, none, 11, 0x0507, 4, 0⟩, true, 2, false⟩] }).setCap 1 [7, 8]).pllA = true)
    ∧ (((wKp.setKcp { wKp.kcp with cfg := [(0x200, 0x2010)], caps := [⟨1, ⟨0x507, 0, 9, none, 11, 0x0507, 4, 0⟩, true, 2, false⟩] }).setCap 1 [7, 8]).get (CAP_STATUS_STATE (1 : Fin 4).val) = 0 ∨ ((wKp.setKcp { wKp.kcp with cfg := [(0x200, 0x2010)], caps := [⟨1, ⟨0x507, 0, 9, none, 11, 0x0507, 4, 0⟩, true, 2, false⟩] }).setCap 1 [7, 8]).get (CAP_STATUS_STATE (1 : Fin 4).val) = 3)
    ∧ (((wKp.setKcp { wKp.kcp with cfg := [(0x200, 0x2010)], caps := [⟨1, ⟨0x507, 0, 9, none, 11, 0x0507, 4, 0⟩, true, 2, false⟩] }).setCap 1 [7, 8]).kcp.caps = [(⟨1, ⟨0x507, 0, 9, none, 11, 0x0507, 4, 0⟩, true, 2, false⟩ : CapReq)])
    ∧ ((⟨1, ⟨0x507, 0, 9, none, 11, 0x0507, 4, 0⟩, true, 2, false⟩ : CapReq).unit = (1 : Fin 4).val)
    ∧ ((⟨1, ⟨0x507, 0, 9, none, 11, 0x0507, 4, 0⟩, true, 2, false⟩ : CapReq).ran = true)
    ∧ ((⟨1, ⟨0x507, 0, 9, none, 11, 0x0507, 4, 0⟩, true, 2, false⟩ : CapReq).fin = false)
    ∧ (((wKp.setKcp { wKp.kcp with cfg := [(0x200, 0x2010)], caps := [⟨1, ⟨0x507, 0, 9, none, 11, 0x0507, 4, 0⟩, true, 2, false⟩] }).setCap 1 [7, 8]).conv.caps.length = 4)
    ∧ (((wKp.setKcp { wKp.kcp with cfg := [(0x200, 0x2010)], caps := [⟨1, ⟨0x507, 0, 9, none, 11, 0x0507, 4, 0⟩, true, 2, false⟩] }).setCap 1 [7, 8]).session (⟨1, ⟨0x507, 0, 9, none, 11, 0x0507, 4, 0⟩, true, 2, false⟩ : CapReq).tok.handle = some (wCtx : Ctx))
    ∧ ((wCtx : Ctx).tport = (⟨1, ⟨0x507, 0, 9, none, 11, 0x0507, 4, 0⟩, true, 2, false⟩ : CapReq).tok.tport)
    ∧ ((wCtx : Ctx).peer = (⟨1, ⟨0x507, 0, 9, none, 11, 0x0507, 4, 0⟩, true, 2, false⟩ : CapReq).tok.peer)) := by
  and_intros <;> decide +kernel

theorem witness_captures_logs_and_force_cold_part2 :
    ((((wKp.setKcp { wKp.kcp with cfg := [(0x200, 0x2010)], caps := [⟨1, ⟨0x607, 0, 9, none, 11, 0x0507, 4, 0⟩, true, 2, false⟩] }).setCap 1 [7, 8]).start.kp = true)
    ∧ (((wKp.setKcp { wKp.kcp with cfg := [(0x200, 0x2010)], caps := [⟨1, ⟨0x607, 0, 9, none, 11, 0x0507, 4, 0⟩, true, 2, false⟩] }).setCap 1 [7, 8]).pllA = true)
    ∧ (((wKp.setKcp { wKp.kcp with cfg := [(0x200, 0x2010)], caps := [⟨1, ⟨0x607, 0, 9, none, 11, 0x0507, 4, 0⟩, true, 2, false⟩] }).setCap 1 [7, 8]).get (CAP_STATUS_STATE (1 : Fin 4).val) = 0 ∨ ((wKp.setKcp { wKp.kcp with cfg := [(0x200, 0x2010)], caps := [⟨1, ⟨0x607, 0, 9, none, 11, 0x0507, 4, 0⟩, true, 2, false⟩] }).setCap 1 [7, 8]).get (CAP_STATUS_STATE (1 : Fin 4).val) = 3)
    ∧ (((wKp.setKcp { wKp.kcp with cfg := [(0x200, 0x2010)], caps := [⟨1, ⟨0x607, 0, 9, none, 11, 0x0507, 4, 0⟩, true, 2, false⟩] }).setCap 1 [7, 8]).kcp.caps = [(⟨1, ⟨0x607, 0, 9, none, 11, 0x0507, 4, 0⟩, true, 2, false⟩ : CapReq)])
    ∧ ((⟨1, ⟨0x607, 0, 9, none, 11, 0x0507, 4, 0⟩, true, 2, false⟩ : CapReq).unit = (1 : Fin 4).val)
    ∧ ((⟨1, ⟨0x607, 0, 9, none, 11, 0x0507, 4, 0⟩, true, 2, false⟩ : CapReq).ran = true)
    ∧ ((⟨1, ⟨0x607, 0, 9, none, 11, 0x0507, 4, 0⟩, true, 2, false⟩ : CapReq).fin = false)
    ∧ (((wKp.setKcp { wKp.kcp with cfg := [(0x200, 0x2010)], caps := [⟨1, ⟨0x607, 0, 9, none, 11, 0x0507, 4, 0⟩, true, 2, false⟩] }).setCap 1 [7, 8]).conv.caps.length = 4)
    ∧ (((wKp.setKcp { wKp.kcp with cfg := [(0x200, 0x2010)], caps := [⟨1, ⟨0x607, 0, 9, none, 11, 0x0507, 4, 0⟩, true, 2, false⟩] }).setCap 1 [7, 8]).session (⟨1, ⟨0x607, 0, 9, none, 11, 0x0507, 4, 0⟩, true, 2, false⟩ : CapReq).tok.handle = none))
    ∧ ((((wKp.setKcp { wKp.kcp with cfg := [(0x200, 0x2010)], caps := [⟨2, ⟨0x507, 0, 9, none, 11, 0x0507, 4, 0⟩, true, 2, false⟩] }).setCap 2 [7, 8]).start.kp = true)
    ∧ (((wKp.setKcp { wKp.kcp with cfg := [(0x200, 0x2010)], caps := [⟨2, ⟨0x507, 0, 9, none, 11, 0x0507, 4, 0⟩, true, 2, false⟩] }).setCap 2 [7, 8]).pllA = true)
    ∧ (((wKp.setKcp { wKp.kcp with cfg := [(0x200, 0x2010)], caps := [⟨2, ⟨0x507, 0, 9, none, 11, 0x0507, 4, 0⟩, true, 2, false⟩] }).setCap 2 [7, 8]).get (CAP_STATUS_STATE (1 : Fin 4).val) = 0 ∨ ((wKp.setKcp { wKp.kcp with cfg := [(0x200, 0x2010)], caps := [⟨2, ⟨0x507, 0, 9, none, 11, 0x0507, 4, 0⟩, true, 2, false⟩] }).setCap 2 [7, 8]).get (CAP_STATUS_STATE (1 : Fin 4).val) = 3)
    ∧ (((wKp.setKcp { wKp.kcp with cfg := [(0x200, 0x2010)], caps := [⟨2, ⟨0x507, 0, 9, none, 11, 0x0507, 4, 0⟩, true, 2, false⟩] }).setCap 2 [7, 8]).kcp.caps.all (fun (o : CapReq) => o.unit != (1 : Fin 4).val || !o.ran || o.fin) = true))
    ∧ ((((wKp.setKcp { wKp.kcp with cfg := [(0x200, 0x2010)], caps := [⟨1, ⟨0x507, 0, 9, none, 11, 0x0507, 4, 0⟩, true, 2, false⟩] }).put (CAP_STATUS_STATE 1) 2).start.kp = false ∨ ((wKp.setKcp { wKp.kcp with cfg := [(0x200, 0x2010)], caps := [⟨1, ⟨0x507, 0, 9, none, 11, 0x0507, 4, 0⟩, true, 2, false⟩] }).put (CAP_STATUS_STATE 1) 2).pllA = false ∨ (((wKp.setKcp { wKp.kcp with cfg := [(0x200, 0x2010)], caps := [⟨1, ⟨0x507, 0, 9, none, 11, 0x0507, 4, 0⟩, true, 2, false⟩] }).put (CAP_STATUS_STATE 1) 2).get (CAP_STATUS_STATE (1 : Fin 4).val) ≠ 0 ∧ ((wKp.setKcp { wKp.kcp with cfg := [(0x200, 0x2010)], caps := [⟨1, ⟨0x507, 0, 9, none, 11, 0x0507, 4, 0⟩, true, 2, false⟩] }).put (CAP_STATUS_STATE 1) 2).get (CAP_STATUS_STATE (1 : Fin 4).val) ≠ 3)))
    ∧ ((((wKp.setKcp { wKp.kcp with cfg := [(0x200, 0x2010)], caps := [⟨1, ⟨0x607, 0, 9, none, 11, 0x0507, 4, 0⟩, true, 2, false⟩, ⟨1, ⟨0x507, 0, 9, none, 11, 0x0507, 4, 0⟩, true, 2, true⟩] }).wrBytes 0x20100000 [1, 2, 3, 4]).kcp.queues.length = 4)
    ∧ (((wKp.setKcp { wKp.kcp with cfg := [(0x200, 0x2010)], caps := [⟨1, ⟨0x607, 0, 9, none, 11, 0x0507, 4, 0⟩, true, 2, false⟩, ⟨1, ⟨0x507, 0, 9, none, 11, 0x0507, 4, 0⟩, true, 2, true⟩] }).wrBytes 0x20100000 [1, 2, 3, 4]).Ready 0x0508 5 (wReq ([0, 0, 0, 2, 0, 2, 0, 0]) : Req) (wCtx : Ctx))
    ∧ ((((wKp.setKcp { wKp.kcp with cfg := [(0x200, 0x2010)], caps := [⟨1, ⟨0x607, 0, 9, none, 11, 0x0507, 4, 0⟩, true, 2, false⟩, ⟨1, ⟨0x507, 0, 9, none, 11, 0x0507, 4, 0⟩, true, 2, true⟩] }).wrBytes 0x20100000 [1, 2, 3, 4]).kcp.caps.reverse.find? (fun (o : CapReq) => o.fin && o.tok.handle == ((wReq ([0, 0, 0, 2, 0, 2, 0, 0]) : Req).ctx.val * 256 + (wCtx : Ctx).gen))) = some (⟨1, ⟨0x507, 0, 9, none, 11, 0x0507, 4, 0⟩, true, 2, true⟩ : CapReq))
    ∧ (payU (wReq ([0, 0, 0, 2, 0, 2, 0, 0]) : Req).pay 0 4 + payU (wReq ([0, 0, 0, 2, 0, 2, 0, 0]) : Req).pay 4 2 ≤ 2 * (⟨1, ⟨0x507, 0, 9, none, 11, 0x0507, 4, 0⟩, true, 2, true⟩ : CapReq).stored))
    ∧ (((wKp.setKcp { wKp.kcp with cfg := [(0x200, 0x2010)], caps := [⟨1, ⟨0x507, 0, 9, none, 11, 0x0507, 4, 0⟩, true, 2, true⟩] }).kcp.queues.length = 4)
    ∧ ((wKp.setKcp { wKp.kcp with cfg := [(0x200, 0x2010)], caps := [⟨1, ⟨0x507, 0, 9, none, 11, 0x0507, 4, 0⟩, true, 2, true⟩] }).Ready 0x0508 5 (wReq ([0, 0, 0, 4, 0, 2, 0, 0]) : Req) (wCtx : Ctx))
    ∧ (((wKp.setKcp { wKp.kcp with cfg := [(0x200, 0x2010)], caps := [⟨1, ⟨0x507, 0, 9, none, 11, 0x0507, 4, 0⟩, true, 2, true⟩] }).kcp.caps.reverse.find? (fun (o : CapReq) => o.fin && o.tok.handle == ((wReq ([0, 0, 0, 4, 0, 2, 0, 0]) : Req).ctx.val * 256 + (wCtx : Ctx).gen))) = some (⟨1, ⟨0x507, 0, 9, none, 11, 0x0507, 4, 0⟩, true, 2, true⟩ : CapReq))
    ∧ (2 * (⟨1, ⟨0x507, 0, 9, none, 11, 0x0507, 4, 0⟩, true, 2, true⟩ : CapReq).stored < payU (wReq ([0, 0, 0, 4, 0, 2, 0, 0]) : Req).pay 0 4 + payU (wReq ([0, 0, 0, 4, 0, 2, 0, 0]) : Req).pay 4 2))
    ∧ ((wKp.kcp.queues.length = 4)
    ∧ (wKp.Ready 0x0508 5 (wReq ([0, 0, 0, 2, 0, 2, 0, 0]) : Req) (wCtx : Ctx))
    ∧ ((wKp.kcp.caps.reverse.find? (fun (o : CapReq) => o.fin && o.tok.handle == ((wReq ([0, 0, 0, 2, 0, 2, 0, 0]) : Req).ctx.val * 256 + (wCtx : Ctx).gen))) = none)) := by
  and_intros <;> decide +kernel

theorem witness_captures_logs_and_force_cold_part3 :
    ((((wKp.put MDM_ACTIVE_ACTIVE 0x800).put MDM_HOLD_CAUSE 3).kcp.queues.length = 4)
    ∧ (((wKp.put MDM_ACTIVE_ACTIVE 0x800).put MDM_HOLD_CAUSE 3).Ready 0x0509 4 (wReq ([0x46, 0x43, 0x4F, 0x4C]) : Req) (wCtx : Ctx))
    ∧ (((wKp.put MDM_ACTIVE_ACTIVE 0x800).put MDM_HOLD_CAUSE 3).active 11 = true ∧ (((wKp.put MDM_ACTIVE_ACTIVE 0x800).put MDM_HOLD_CAUSE 3).get MDM_HOLD_CAUSE = 2 ∨ ((wKp.put MDM_ACTIVE_ACTIVE 0x800).put MDM_HOLD_CAUSE 3).get MDM_HOLD_CAUSE = 3)))
    ∧ ((((wKp.put MDM_ACTIVE_ACTIVE 0x800).put MDM_HOLD_CAUSE 1).kcp.queues.length = 4)
    ∧ (((wKp.put MDM_ACTIVE_ACTIVE 0x800).put MDM_HOLD_CAUSE 1).Ready 0x0509 4 (wReq ([0x46, 0x43, 0x4F, 0x4C]) : Req) (wCtx : Ctx))
    ∧ (¬(((wKp.put MDM_ACTIVE_ACTIVE 0x800).put MDM_HOLD_CAUSE 1).active 11 = true ∧ (((wKp.put MDM_ACTIVE_ACTIVE 0x800).put MDM_HOLD_CAUSE 1).get MDM_HOLD_CAUSE = 2 ∨ ((wKp.put MDM_ACTIVE_ACTIVE 0x800).put MDM_HOLD_CAUSE 1).get MDM_HOLD_CAUSE = 3))))
    ∧ ((((wKp.setStart { wKp.start with evlCnt := 4096 }).put EVL_STATUS_WRIDX 4095).kcp.queues.length = 4)
    ∧ (((wKp.setStart { wKp.start with evlCnt := 4096 }).put EVL_STATUS_WRIDX 4095).Ready 0x0801 5 (wReq ([0, 0, 0, 2, 0xFF, 0xFF, 0xFF, 0xFF]) : Req) (wCtx : Ctx))
    ∧ (((wKp.setStart { wKp.start with evlCnt := 4096 }).put EVL_STATUS_WRIDX 4095).logRing ((payU (wReq ([0, 0, 0, 2, 0xFF, 0xFF, 0xFF, 0xFF]) : Req).pay 0 1) == 1) = ((0x21F80000 : Nat), (4096 : Nat), (4095 : Nat), (4096 : Nat)))
    ∧ ((4095 : Nat) = (if (payU (wReq ([0, 0, 0, 2, 0xFF, 0xFF, 0xFF, 0xFF]) : Req).pay 4 4) = 0xFFFFFFFF then ((4095 : Nat) + (4096 : Nat) - (4096 : Nat)) % (4096 : Nat) else (payU (wReq ([0, 0, 0, 2, 0xFF, 0xFF, 0xFF, 0xFF]) : Req).pay 4 4)))
    ∧ ((2 : Nat) = (if (4096 : Nat) ≤ (4095 : Nat) then 0 else min (payU (wReq ([0, 0, 0, 2, 0xFF, 0xFF, 0xFF, 0xFF]) : Req).pay 2 2) ((4096 : Nat) - ((4095 : Nat) + (4096 : Nat) - ((4095 : Nat) + (4096 : Nat) - (4096 : Nat)) % (4096 : Nat)) % (4096 : Nat))))
    ∧ ((4096 : Nat) ≠ 0))
    ∧ ((wKp.kcp.queues.length = 4)
    ∧ (wKp.Ready 0x0801 5 (wReq ([1, 0, 0, 2, 0xFF, 0xFF, 0xFF, 0xFF]) : Req) (wCtx : Ctx))
    ∧ (wKp.logRing ((payU (wReq ([1, 0, 0, 2, 0xFF, 0xFF, 0xFF, 0xFF]) : Req).pay 0 1) == 1) = ((0x00100000 : Nat), (32768 : Nat), (wKp.start.faultAt : Nat), (0 : Nat)))
    ∧ (((wKp.start.faultAt) % 32768 : Nat) = (if (payU (wReq ([1, 0, 0, 2, 0xFF, 0xFF, 0xFF, 0xFF]) : Req).pay 4 4) = 0xFFFFFFFF then ((wKp.start.faultAt : Nat) + (32768 : Nat) - (0 : Nat)) % (32768 : Nat) else (payU (wReq ([1, 0, 0, 2, 0xFF, 0xFF, 0xFF, 0xFF]) : Req).pay 4 4)))
    ∧ ((0 : Nat) = (if (32768 : Nat) ≤ ((wKp.start.faultAt) % 32768 : Nat) then 0 else min (payU (wReq ([1, 0, 0, 2, 0xFF, 0xFF, 0xFF, 0xFF]) : Req).pay 2 2) ((0 : Nat) - (((wKp.start.faultAt) % 32768 : Nat) + (32768 : Nat) - ((wKp.start.faultAt : Nat) + (32768 : Nat) - (0 : Nat)) % (32768 : Nat)) % (32768 : Nat))))
    ∧ ((0 : Nat) = 0)) := by
  and_intros <;> decide +kernel

theorem witness_actuator_and_battery_requests :
    (((((wKp.put (POS_STATUS_PVALID (wKp.actPos 1)) 1))).kcp.queues.length = 4)
    ∧ ((((wKp.put (POS_STATUS_PVALID (wKp.actPos 1)) 1))).Ready 0x0601 2 (wReq ([1, 3, 0, 0]) : Req) (wCtx : Ctx))
    ∧ (((((wKp.put (POS_STATUS_PVALID (wKp.actPos 1)) 1))).atMode (wReq ([1, 3, 0, 0]) : Req) (wCtx : Ctx)).act.length = 3)
    ∧ (((((wKp.put (POS_STATUS_PVALID (wKp.actPos 1)) 1))).atMode (wReq ([1, 3, 0, 0]) : Req) (wCtx : Ctx)).modes.owner.length = 12)
    ∧ (((((wKp.put (POS_STATUS_PVALID (wKp.actPos 1)) 1))).atMode (wReq ([1, 3, 0, 0]) : Req) (wCtx : Ctx)).gateRefusal 6 false = none)
    ∧ (((((wKp.put (POS_STATUS_PVALID (wKp.actPos 1)) 1))).atMode (wReq ([1, 3, 0, 0]) : Req) (wCtx : Ctx)).modes.exitAct = [])
    ∧ (((((wKp.put (POS_STATUS_PVALID (wKp.actPos 1)) 1))).atMode (wReq ([1, 3, 0, 0]) : Req) (wCtx : Ctx)).osdBlocks (actMods (payU (wReq ([1, 3, 0, 0]) : Req).pay 0 1)) = false)
    ∧ (((((wKp.put (POS_STATUS_PVALID (wKp.actPos 1)) 1))).atMode (wReq ([1, 3, 0, 0]) : Req) (wCtx : Ctx)).isOn 12 = true)
    ∧ (((((wKp.put (POS_STATUS_PVALID (wKp.actPos 1)) 1))).atMode (wReq ([1, 3, 0, 0]) : Req) (wCtx : Ctx)).actRuns (payU (wReq ([1, 3, 0, 0]) : Req).pay 0 1) = false)
    ∧ (((((wKp.put (POS_STATUS_PVALID (wKp.actPos 1)) 1))).atMode (wReq ([1, 3, 0, 0]) : Req) (wCtx : Ctx)).seqPlug (payU (wReq ([1, 3, 0, 0]) : Req).pay 0 1) (payU (wReq ([1, 3, 0, 0]) : Req).pay 1 1) = false)
    ∧ (((((wKp.put (POS_STATUS_PVALID (wKp.actPos 1)) 1))).atMode (wReq ([1, 3, 0, 0]) : Req) (wCtx : Ctx)).seqPairs (payU (wReq ([1, 3, 0, 0]) : Req).pay 1 1) = none)
    ∧ (((((wKp.put (POS_STATUS_PVALID (wKp.actPos 1)) 1))).atMode (wReq ([1, 3, 0, 0]) : Req) (wCtx : Ctx)).seqRefusal (payU (wReq ([1, 3, 0, 0]) : Req).pay 0 1) (payU (wReq ([1, 3, 0, 0]) : Req).pay 1 1) = none)
    ∧ (((((wKp.put (POS_STATUS_PVALID (wKp.actPos 1)) 1))).atMode (wReq ([1, 3, 0, 0]) : Req) (wCtx : Ctx)).active 6 = false))
    ∧ (((((wKp.put (POS_STATUS_PVALID (wKp.actPos 1)) 1)).put MDM_ACTIVE_ACTIVE 0x40).kcp.queues.length = 4)
    ∧ ((((wKp.put (POS_STATUS_PVALID (wKp.actPos 1)) 1)).put MDM_ACTIVE_ACTIVE 0x40).Ready 0x0601 2 (wReq ([1, 3, 0, 0]) : Req) (wCtx : Ctx))
    ∧ (((((wKp.put (POS_STATUS_PVALID (wKp.actPos 1)) 1)).put MDM_ACTIVE_ACTIVE 0x40).atMode (wReq ([1, 3, 0, 0]) : Req) (wCtx : Ctx)).act.length = 3)
    ∧ (((((wKp.put (POS_STATUS_PVALID (wKp.actPos 1)) 1)).put MDM_ACTIVE_ACTIVE 0x40).atMode (wReq ([1, 3, 0, 0]) : Req) (wCtx : Ctx)).gateRefusal 6 false = none)
    ∧ (((((wKp.put (POS_STATUS_PVALID (wKp.actPos 1)) 1)).put MDM_ACTIVE_ACTIVE 0x40).atMode (wReq ([1, 3, 0, 0]) : Req) (wCtx : Ctx)).modes.exitAct = [])
    ∧ (((((wKp.put (POS_STATUS_PVALID (wKp.actPos 1)) 1)).put MDM_ACTIVE_ACTIVE 0x40).atMode (wReq ([1, 3, 0, 0]) : Req) (wCtx : Ctx)).osdBlocks (actMods (payU (wReq ([1, 3, 0, 0]) : Req).pay 0 1)) = false)
    ∧ (((((wKp.put (POS_STATUS_PVALID (wKp.actPos 1)) 1)).put MDM_ACTIVE_ACTIVE 0x40).atMode (wReq ([1, 3, 0, 0]) : Req) (wCtx : Ctx)).isOn 12 = true)
    ∧ (((((wKp.put (POS_STATUS_PVALID (wKp.actPos 1)) 1)).put MDM_ACTIVE_ACTIVE 0x40).atMode (wReq ([1, 3, 0, 0]) : Req) (wCtx : Ctx)).actRuns (payU (wReq ([1, 3, 0, 0]) : Req).pay 0 1) = false)
    ∧ (((((wKp.put (POS_STATUS_PVALID (wKp.actPos 1)) 1)).put MDM_ACTIVE_ACTIVE 0x40).atMode (wReq ([1, 3, 0, 0]) : Req) (wCtx : Ctx)).seqPlug (payU (wReq ([1, 3, 0, 0]) : Req).pay 0 1) (payU (wReq ([1, 3, 0, 0]) : Req).pay 1 1) = false)
    ∧ (((((wKp.put (POS_STATUS_PVALID (wKp.actPos 1)) 1)).put MDM_ACTIVE_ACTIVE 0x40).atMode (wReq ([1, 3, 0, 0]) : Req) (wCtx : Ctx)).seqPairs (payU (wReq ([1, 3, 0, 0]) : Req).pay 1 1) = none)
    ∧ (((((wKp.put (POS_STATUS_PVALID (wKp.actPos 1)) 1)).put MDM_ACTIVE_ACTIVE 0x40).atMode (wReq ([1, 3, 0, 0]) : Req) (wCtx : Ctx)).seqRefusal (payU (wReq ([1, 3, 0, 0]) : Req).pay 0 1) (payU (wReq ([1, 3, 0, 0]) : Req).pay 1 1) = none)
    ∧ (((((wKp.put (POS_STATUS_PVALID (wKp.actPos 1)) 1)).put MDM_ACTIVE_ACTIVE 0x40).atMode (wReq ([1, 3, 0, 0]) : Req) (wCtx : Ctx)).active 6 = true))
    ∧ (((wKp.put MDM_ACTIVE_ACTIVE 0x800).kcp.queues.length = 4)
    ∧ ((wKp.put MDM_ACTIVE_ACTIVE 0x800).Ready 0x0601 2 (wReq ([1, 3, 0, 0]) : Req) (wCtx : Ctx))
    ∧ (((wKp.put MDM_ACTIVE_ACTIVE 0x800).atMode (wReq ([1, 3, 0, 0]) : Req) (wCtx : Ctx)).gateRefusal 6 false = some (stSafeState : Nat)))
    ∧ ((({ wKp with on := 0xFFF }).kcp.queues.length = 4)
    ∧ (({ wKp with on := 0xFFF }).Ready 0x0601 2 (wReq ([1, 3, 0, 0]) : Req) (wCtx : Ctx))
    ∧ ((({ wKp with on := 0xFFF }).atMode (wReq ([1, 3, 0, 0]) : Req) (wCtx : Ctx)).gateRefusal 6 false = none)
    ∧ ((({ wKp with on := 0xFFF }).atMode (wReq ([1, 3, 0, 0]) : Req) (wCtx : Ctx)).modes.exitAct ≠ [] ∨ (({ wKp with on := 0xFFF }).atMode (wReq ([1, 3, 0, 0]) : Req) (wCtx : Ctx)).osdBlocks (actMods (payU (wReq ([1, 3, 0, 0]) : Req).pay 0 1)) = true ∨ (({ wKp with on := 0xFFF }).atMode (wReq ([1, 3, 0, 0]) : Req) (wCtx : Ctx)).isOn 12 = false))
    ∧ (((((wKp.put (POS_STATUS_PVALID (wKp.actPos 1)) 1)).put (ACS_STAT_PHASE 1) 2).kcp.queues.length = 4)
    ∧ ((((wKp.put (POS_STATUS_PVALID (wKp.actPos 1)) 1)).put (ACS_STAT_PHASE 1) 2).Ready 0x0601 2 (wReq ([1, 3, 0, 0]) : Req) (wCtx : Ctx))
    ∧ (((((wKp.put (POS_STATUS_PVALID (wKp.actPos 1)) 1)).put (ACS_STAT_PHASE 1) 2).atMode (wReq ([1, 3, 0, 0]) : Req) (wCtx : Ctx)).gateRefusal 6 false = none)
    ∧ (((((wKp.put (POS_STATUS_PVALID (wKp.actPos 1)) 1)).put (ACS_STAT_PHASE 1) 2).atMode (wReq ([1, 3, 0, 0]) : Req) (wCtx : Ctx)).modes.exitAct = [])
    ∧ (((((wKp.put (POS_STATUS_PVALID (wKp.actPos 1)) 1)).put (ACS_STAT_PHASE 1) 2).atMode (wReq ([1, 3, 0, 0]) : Req) (wCtx : Ctx)).osdBlocks (actMods (payU (wReq ([1, 3, 0, 0]) : Req).pay 0 1)) = false)
    ∧ (((((wKp.put (POS_STATUS_PVALID (wKp.actPos 1)) 1)).put (ACS_STAT_PHASE 1) 2).atMode (wReq ([1, 3, 0, 0]) : Req) (wCtx : Ctx)).isOn 12 = true)
    ∧ (((((wKp.put (POS_STATUS_PVALID (wKp.actPos 1)) 1)).put (ACS_STAT_PHASE 1) 2).atMode (wReq ([1, 3, 0, 0]) : Req) (wCtx : Ctx)).actRuns (payU (wReq ([1, 3, 0, 0]) : Req).pay 0 1) = true))
    ∧ (((((wKp.put MDM_PLUG_PLUG 1).wr MDM_PLUGPOL 0xFC00)).kcp.queues.length = 4)
    ∧ ((((wKp.put MDM_PLUG_PLUG 1).wr MDM_PLUGPOL 0xFC00)).Ready 0x0601 2 (wReq ([1, 3, 0, 0]) : Req) (wCtx : Ctx))
    ∧ (((((wKp.put MDM_PLUG_PLUG 1).wr MDM_PLUGPOL 0xFC00)).atMode (wReq ([1, 3, 0, 0]) : Req) (wCtx : Ctx)).gateRefusal 6 false = none)
    ∧ (((((wKp.put MDM_PLUG_PLUG 1).wr MDM_PLUGPOL 0xFC00)).atMode (wReq ([1, 3, 0, 0]) : Req) (wCtx : Ctx)).modes.exitAct = [])
    ∧ (((((wKp.put MDM_PLUG_PLUG 1).wr MDM_PLUGPOL 0xFC00)).atMode (wReq ([1, 3, 0, 0]) : Req) (wCtx : Ctx)).osdBlocks (actMods (payU (wReq ([1, 3, 0, 0]) : Req).pay 0 1)) = false)
    ∧ (((((wKp.put MDM_PLUG_PLUG 1).wr MDM_PLUGPOL 0xFC00)).atMode (wReq ([1, 3, 0, 0]) : Req) (wCtx : Ctx)).isOn 12 = true)
    ∧ (((((wKp.put MDM_PLUG_PLUG 1).wr MDM_PLUGPOL 0xFC00)).atMode (wReq ([1, 3, 0, 0]) : Req) (wCtx : Ctx)).actRuns (payU (wReq ([1, 3, 0, 0]) : Req).pay 0 1) = false)
    ∧ (((((wKp.put MDM_PLUG_PLUG 1).wr MDM_PLUGPOL 0xFC00)).atMode (wReq ([1, 3, 0, 0]) : Req) (wCtx : Ctx)).seqPlug (payU (wReq ([1, 3, 0, 0]) : Req).pay 0 1) (payU (wReq ([1, 3, 0, 0]) : Req).pay 1 1) = true)) := by
  and_intros <;> decide +kernel

theorem witness_actuator_and_battery_requests_part2 :
    (((wKp.put MDM_ACTIVE_ACTIVE 1).kcp.queues.length = 4)
    ∧ ((wKp.put MDM_ACTIVE_ACTIVE 1).Ready 0x0601 2 (wReq ([0, 1, 0, 0]) : Req) (wCtx : Ctx))
    ∧ (((wKp.put MDM_ACTIVE_ACTIVE 1).atMode (wReq ([0, 1, 0, 0]) : Req) (wCtx : Ctx)).gateRefusal 6 false = none)
    ∧ (((wKp.put MDM_ACTIVE_ACTIVE 1).atMode (wReq ([0, 1, 0, 0]) : Req) (wCtx : Ctx)).modes.exitAct = [])
    ∧ (((wKp.put MDM_ACTIVE_ACTIVE 1).atMode (wReq ([0, 1, 0, 0]) : Req) (wCtx : Ctx)).osdBlocks (actMods (payU (wReq ([0, 1, 0, 0]) : Req).pay 0 1)) = false)
    ∧ (((wKp.put MDM_ACTIVE_ACTIVE 1).atMode (wReq ([0, 1, 0, 0]) : Req) (wCtx : Ctx)).isOn 12 = true)
    ∧ (((wKp.put MDM_ACTIVE_ACTIVE 1).atMode (wReq ([0, 1, 0, 0]) : Req) (wCtx : Ctx)).actRuns (payU (wReq ([0, 1, 0, 0]) : Req).pay 0 1) = false)
    ∧ (((wKp.put MDM_ACTIVE_ACTIVE 1).atMode (wReq ([0, 1, 0, 0]) : Req) (wCtx : Ctx)).seqPlug (payU (wReq ([0, 1, 0, 0]) : Req).pay 0 1) (payU (wReq ([0, 1, 0, 0]) : Req).pay 1 1) = false)
    ∧ (((wKp.put MDM_ACTIVE_ACTIVE 1).atMode (wReq ([0, 1, 0, 0]) : Req) (wCtx : Ctx)).seqPairs (payU (wReq ([0, 1, 0, 0]) : Req).pay 1 1) = some (stHeld : Nat)))
    ∧ ((wKp.kcp.queues.length = 4)
    ∧ (wKp.Ready 0x0601 2 (wReq ([1, 3, 0, 0]) : Req) (wCtx : Ctx))
    ∧ ((wKp.atMode (wReq ([1, 3, 0, 0]) : Req) (wCtx : Ctx)).gateRefusal 6 false = none)
    ∧ ((wKp.atMode (wReq ([1, 3, 0, 0]) : Req) (wCtx : Ctx)).modes.exitAct = [])
    ∧ ((wKp.atMode (wReq ([1, 3, 0, 0]) : Req) (wCtx : Ctx)).osdBlocks (actMods (payU (wReq ([1, 3, 0, 0]) : Req).pay 0 1)) = false)
    ∧ ((wKp.atMode (wReq ([1, 3, 0, 0]) : Req) (wCtx : Ctx)).isOn 12 = true)
    ∧ ((wKp.atMode (wReq ([1, 3, 0, 0]) : Req) (wCtx : Ctx)).actRuns (payU (wReq ([1, 3, 0, 0]) : Req).pay 0 1) = false)
    ∧ ((wKp.atMode (wReq ([1, 3, 0, 0]) : Req) (wCtx : Ctx)).seqPlug (payU (wReq ([1, 3, 0, 0]) : Req).pay 0 1) (payU (wReq ([1, 3, 0, 0]) : Req).pay 1 1) = false)
    ∧ ((wKp.atMode (wReq ([1, 3, 0, 0]) : Req) (wCtx : Ctx)).seqPairs (payU (wReq ([1, 3, 0, 0]) : Req).pay 1 1) = none)
    ∧ ((wKp.atMode (wReq ([1, 3, 0, 0]) : Req) (wCtx : Ctx)).seqRefusal (payU (wReq ([1, 3, 0, 0]) : Req).pay 0 1) (payU (wReq ([1, 3, 0, 0]) : Req).pay 1 1) = some (stFault : Nat)))
    ∧ ((((((wKp.put (POS_STATUS_PVALID (wKp.actPos 1)) 1)).put (ACS_STAT_PHASE 1) 2).setAct 1 { ActSeq.idle with handle := 0x507 }).kcp.queues.length = 4)
    ∧ (((((wKp.put (POS_STATUS_PVALID (wKp.actPos 1)) 1)).put (ACS_STAT_PHASE 1) 2).setAct 1 { ActSeq.idle with handle := 0x507 }).Ready 0x0602 2 (wReq ([1, 0, 0, 0]) : Req) (wCtx : Ctx))
    ∧ (((((wKp.put (POS_STATUS_PVALID (wKp.actPos 1)) 1)).put (ACS_STAT_PHASE 1) 2).setAct 1 { ActSeq.idle with handle := 0x507 }).act.length = 3)
    ∧ (((((wKp.put (POS_STATUS_PVALID (wKp.actPos 1)) 1)).put (ACS_STAT_PHASE 1) 2).setAct 1 { ActSeq.idle with handle := 0x507 }).actRuns (payU (wReq ([1, 0, 0, 0]) : Req).pay 0 1) = true)
    ∧ ((((((wKp.put (POS_STATUS_PVALID (wKp.actPos 1)) 1)).put (ACS_STAT_PHASE 1) 2).setAct 1 { ActSeq.idle with handle := 0x507 }).actOf (payU (wReq ([1, 0, 0, 0]) : Req).pay 0 1)).handle = ((wReq ([1, 0, 0, 0]) : Req).ctx.val * 256 + (wCtx : Ctx).gen) ∨ ((((wKp.put (POS_STATUS_PVALID (wKp.actPos 1)) 1)).put (ACS_STAT_PHASE 1) 2).setAct 1 { ActSeq.idle with handle := 0x507 }).valid (((((wKp.put (POS_STATUS_PVALID (wKp.actPos 1)) 1)).put (ACS_STAT_PHASE 1) 2).setAct 1 { ActSeq.idle with handle := 0x507 }).actOf (payU (wReq ([1, 0, 0, 0]) : Req).pay 0 1)).handle = false))
    ∧ ((((((wKp.put (POS_STATUS_PVALID (wKp.actPos 1)) 1)).put (ACS_STAT_PHASE 1) 2).setAct 1 { ActSeq.idle with handle := 0x607 } |>.setKcp { wKp.kcp with ctxs := [(5, wCtx), (6, wCtx)] }).kcp.queues.length = 4)
    ∧ (((((wKp.put (POS_STATUS_PVALID (wKp.actPos 1)) 1)).put (ACS_STAT_PHASE 1) 2).setAct 1 { ActSeq.idle with handle := 0x607 } |>.setKcp { wKp.kcp with ctxs := [(5, wCtx), (6, wCtx)] }).Ready 0x0602 2 (wReq ([1, 0, 0, 0]) : Req) (wCtx : Ctx))
    ∧ (((((wKp.put (POS_STATUS_PVALID (wKp.actPos 1)) 1)).put (ACS_STAT_PHASE 1) 2).setAct 1 { ActSeq.idle with handle := 0x607 } |>.setKcp { wKp.kcp with ctxs := [(5, wCtx), (6, wCtx)] }).actRuns (payU (wReq ([1, 0, 0, 0]) : Req).pay 0 1) = true)
    ∧ ((((((wKp.put (POS_STATUS_PVALID (wKp.actPos 1)) 1)).put (ACS_STAT_PHASE 1) 2).setAct 1 { ActSeq.idle with handle := 0x607 } |>.setKcp { wKp.kcp with ctxs := [(5, wCtx), (6, wCtx)] }).actOf (payU (wReq ([1, 0, 0, 0]) : Req).pay 0 1)).handle ≠ ((wReq ([1, 0, 0, 0]) : Req).ctx.val * 256 + (wCtx : Ctx).gen))
    ∧ (((((wKp.put (POS_STATUS_PVALID (wKp.actPos 1)) 1)).put (ACS_STAT_PHASE 1) 2).setAct 1 { ActSeq.idle with handle := 0x607 } |>.setKcp { wKp.kcp with ctxs := [(5, wCtx), (6, wCtx)] }).valid (((((wKp.put (POS_STATUS_PVALID (wKp.actPos 1)) 1)).put (ACS_STAT_PHASE 1) 2).setAct 1 { ActSeq.idle with handle := 0x607 } |>.setKcp { wKp.kcp with ctxs := [(5, wCtx), (6, wCtx)] }).actOf (payU (wReq ([1, 0, 0, 0]) : Req).pay 0 1)).handle = true))
    ∧ ((wKp.kcp.queues.length = 4)
    ∧ (wKp.Ready 0x0602 2 (wReq ([1, 0, 0, 0]) : Req) (wCtx : Ctx))
    ∧ (wKp.actRuns (payU (wReq ([1, 0, 0, 0]) : Req).pay 0 1) = false))
    ∧ ((wKp.kcp.queues.length = 4)
    ∧ (wKp.Ready 0x0701 2 (wReq ([0, 0, 0x27, 0x10, 0, 0xFF, 0xFF, 0xFF]) : Req) (wCtx : Ctx))
    ∧ (wKp.active 11 = false)) := by
  and_intros <;> decide +kernel

theorem witness_actuator_and_battery_requests_part3 :
    (((wKp.put MDM_ACTIVE_ACTIVE 0x800).kcp.queues.length = 4)
    ∧ ((wKp.put MDM_ACTIVE_ACTIVE 0x800).Ready 0x0701 2 (wReq ([0, 0, 0x27, 0x10, 0, 0xFF, 0xFF, 0xFF]) : Req) (wCtx : Ctx))
    ∧ ((wKp.put MDM_ACTIVE_ACTIVE 0x800).active 11 = true)) := by
  and_intros <;> decide +kernel

theorem witness_firmware_requests_update_the_other_bank :
    (((wKp.setKcp { wKp.kcp with fw := some ⟨0x507, 128, [0, 1], none⟩ }).kcp.queues.length = 4)
    ∧ ((wKp.setKcp { wKp.kcp with fw := some ⟨0x507, 128, [0, 1], none⟩ }).Ready 0x0901 5 (wReq ([0, 0, 0, 128]) : Req) (wCtx : Ctx))
    ∧ ((wKp.setKcp { wKp.kcp with fw := some ⟨0x507, 128, [0, 1], none⟩ }).kcp.fw.all (fun (g : FwUpd) => g.handle == ((wReq ([0, 0, 0, 128]) : Req).ctx.val * 256 + (wCtx : Ctx).gen) && g.verify.isNone) = true)
    ∧ ((wKp.setKcp { wKp.kcp with fw := some ⟨0x507, 128, [0, 1], none⟩ }).is GDG_AGG_BACKUP = false ∧ (wKp.setKcp { wKp.kcp with fw := some ⟨0x507, 128, [0, 1], none⟩ }).get THM_STAT_STEP < 4)
    ∧ ((wKp.setKcp { wKp.kcp with fw := some ⟨0x507, 128, [0, 1], none⟩ }).start.banks.length = 2))
    ∧ (((wKp.setKcp { wKp.kcp with fw := some ⟨0x507, 128, [0, 1], some ⟨0x507, 0, 9, none, 11, 0x0903, 5, 0⟩⟩ }).kcp.queues.length = 4)
    ∧ ((wKp.setKcp { wKp.kcp with fw := some ⟨0x507, 128, [0, 1], some ⟨0x507, 0, 9, none, 11, 0x0903, 5, 0⟩⟩ }).Ready 0x0901 5 (wReq ([0, 0, 0, 128]) : Req) (wCtx : Ctx))
    ∧ ((wKp.setKcp { wKp.kcp with fw := some ⟨0x507, 128, [0, 1], some ⟨0x507, 0, 9, none, 11, 0x0903, 5, 0⟩⟩ }).kcp.fw = some (⟨0x507, 128, [0, 1], some ⟨0x507, 0, 9, none, 11, 0x0903, 5, 0⟩⟩ : FwUpd))
    ∧ ((⟨0x507, 128, [0, 1], some ⟨0x507, 0, 9, none, 11, 0x0903, 5, 0⟩⟩ : FwUpd).handle = ((wReq ([0, 0, 0, 128]) : Req).ctx.val * 256 + (wCtx : Ctx).gen))
    ∧ ((⟨0x507, 128, [0, 1], some ⟨0x507, 0, 9, none, 11, 0x0903, 5, 0⟩⟩ : FwUpd).verify.isSome = true)
    ∧ ((wKp.setKcp { wKp.kcp with fw := some ⟨0x507, 128, [0, 1], some ⟨0x507, 0, 9, none, 11, 0x0903, 5, 0⟩⟩ }).is GDG_AGG_BACKUP = false ∧ (wKp.setKcp { wKp.kcp with fw := some ⟨0x507, 128, [0, 1], some ⟨0x507, 0, 9, none, 11, 0x0903, 5, 0⟩⟩ }).get THM_STAT_STEP < 4))
    ∧ (((wKp.setKcp { wKp.kcp with fw := some ⟨0x101, 128, [0, 1], none⟩ }).kcp.queues.length = 4)
    ∧ ((wKp.setKcp { wKp.kcp with fw := some ⟨0x101, 128, [0, 1], none⟩ }).Ready 0x0901 5 (wReq ([0, 0, 0, 128]) : Req) (wCtx : Ctx))
    ∧ ((wKp.setKcp { wKp.kcp with fw := some ⟨0x101, 128, [0, 1], none⟩ }).kcp.fw = some (⟨0x101, 128, [0, 1], none⟩ : FwUpd))
    ∧ ((⟨0x101, 128, [0, 1], none⟩ : FwUpd).handle ≠ ((wReq ([0, 0, 0, 128]) : Req).ctx.val * 256 + (wCtx : Ctx).gen)))
    ∧ (((wKp.put THM_STAT_STEP 5).kcp.queues.length = 4)
    ∧ ((wKp.put THM_STAT_STEP 5).Ready 0x0901 5 (wReq ([0, 0, 0, 128]) : Req) (wCtx : Ctx))
    ∧ ((wKp.put THM_STAT_STEP 5).kcp.fw.all (fun (g : FwUpd) => g.handle == ((wReq ([0, 0, 0, 128]) : Req).ctx.val * 256 + (wCtx : Ctx).gen)) = true)
    ∧ ((wKp.put THM_STAT_STEP 5).is GDG_AGG_BACKUP = true ∨ 4 ≤ (wKp.put THM_STAT_STEP 5).get THM_STAT_STEP))
    ∧ (((wKp.setKcp { wKp.kcp with fw := some ⟨0x101, 128, [0, 1], none⟩ }).kcp.queues.length = 4)
    ∧ ((wKp.setKcp { wKp.kcp with fw := some ⟨0x101, 128, [0, 1], none⟩ }).Ready 0x0902 5 (wReq ([0, 0, 0, 64] ++ List.replicate 64 7) : Req) (wCtx : Ctx))
    ∧ ((wKp.setKcp { wKp.kcp with fw := some ⟨0x101, 128, [0, 1], none⟩ }).kcp.fw = some (⟨0x101, 128, [0, 1], none⟩ : FwUpd))
    ∧ ((⟨0x101, 128, [0, 1], none⟩ : FwUpd).handle ≠ ((wReq ([0, 0, 0, 64] ++ List.replicate 64 7) : Req).ctx.val * 256 + (wCtx : Ctx).gen)))
    ∧ (((wKp.put THM_STAT_STEP 5).kcp.queues.length = 4)
    ∧ ((wKp.put THM_STAT_STEP 5).Ready 0x0902 5 (wReq ([0, 0, 0, 64] ++ List.replicate 64 7) : Req) (wCtx : Ctx))
    ∧ ((wKp.put THM_STAT_STEP 5).kcp.fw.all (fun (g : FwUpd) => g.handle == ((wReq ([0, 0, 0, 64] ++ List.replicate 64 7) : Req).ctx.val * 256 + (wCtx : Ctx).gen)) = true)
    ∧ ((wKp.put THM_STAT_STEP 5).is GDG_AGG_BACKUP = true ∨ 4 ≤ (wKp.put THM_STAT_STEP 5).get THM_STAT_STEP)) := by
  and_intros <;> decide +kernel

theorem witness_firmware_requests_update_the_other_bank_part2 :
    (((wKp.setKcp { wKp.kcp with fw := some ⟨0x101, 128, [0, 1], none⟩ }).kcp.queues.length = 4)
    ∧ ((wKp.setKcp { wKp.kcp with fw := some ⟨0x101, 128, [0, 1], none⟩ }).Ready 0x0903 5 (wReq ([]) : Req) (wCtx : Ctx))
    ∧ ((wKp.setKcp { wKp.kcp with fw := some ⟨0x101, 128, [0, 1], none⟩ }).kcp.fw = some (⟨0x101, 128, [0, 1], none⟩ : FwUpd))
    ∧ ((⟨0x101, 128, [0, 1], none⟩ : FwUpd).handle ≠ ((wReq ([]) : Req).ctx.val * 256 + (wCtx : Ctx).gen)))
    ∧ (((wKp.put THM_STAT_STEP 5).kcp.queues.length = 4)
    ∧ ((wKp.put THM_STAT_STEP 5).Ready 0x0903 5 (wReq ([]) : Req) (wCtx : Ctx))
    ∧ ((wKp.put THM_STAT_STEP 5).kcp.fw.all (fun (g : FwUpd) => g.handle == ((wReq ([]) : Req).ctx.val * 256 + (wCtx : Ctx).gen)) = true)
    ∧ ((wKp.put THM_STAT_STEP 5).is GDG_AGG_BACKUP = true ∨ 4 ≤ (wKp.put THM_STAT_STEP 5).get THM_STAT_STEP))
    ∧ (((wKp.setKcp { wKp.kcp with fw := some ⟨0x507, 128, [0, 1], none⟩ }).kcp.queues.length = 4)
    ∧ ((wKp.setKcp { wKp.kcp with fw := some ⟨0x507, 128, [0, 1], none⟩ }).Ready 0x0902 5 (wReq ([0, 0, 0, 64] ++ List.replicate 64 7) : Req) (wCtx : Ctx))
    ∧ ((wKp.setKcp { wKp.kcp with fw := some ⟨0x507, 128, [0, 1], none⟩ }).kcp.fw = some (⟨0x507, 128, [0, 1], none⟩ : FwUpd))
    ∧ ((⟨0x507, 128, [0, 1], none⟩ : FwUpd).handle = ((wReq ([0, 0, 0, 64] ++ List.replicate 64 7) : Req).ctx.val * 256 + (wCtx : Ctx).gen))
    ∧ ((wKp.setKcp { wKp.kcp with fw := some ⟨0x507, 128, [0, 1], none⟩ }).is GDG_AGG_BACKUP = false ∧ (wKp.setKcp { wKp.kcp with fw := some ⟨0x507, 128, [0, 1], none⟩ }).get THM_STAT_STEP < 4)
    ∧ (payU (wReq ([0, 0, 0, 64] ++ List.replicate 64 7) : Req).pay 0 4 + ((wReq ([0, 0, 0, 64] ++ List.replicate 64 7) : Req).pay.drop 4).length ≤ (⟨0x507, 128, [0, 1], none⟩ : FwUpd).len)
    ∧ (((wReq ([0, 0, 0, 64] ++ List.replicate 64 7) : Req).pay.drop 4).length % 64 = 0 ∨ payU (wReq ([0, 0, 0, 64] ++ List.replicate 64 7) : Req).pay 0 4 + ((wReq ([0, 0, 0, 64] ++ List.replicate 64 7) : Req).pay.drop 4).length = (⟨0x507, 128, [0, 1], none⟩ : FwUpd).len))
    ∧ (((wKp.setKcp { wKp.kcp with fw := some ⟨0x507, 128, [0, 1], none⟩ }).kcp.queues.length = 4)
    ∧ ((wKp.setKcp { wKp.kcp with fw := some ⟨0x507, 128, [0, 1], none⟩ }).Ready 0x0902 5 (wReq ([0, 0, 0, 128] ++ List.replicate 64 7) : Req) (wCtx : Ctx))
    ∧ ((wKp.setKcp { wKp.kcp with fw := some ⟨0x507, 128, [0, 1], none⟩ }).kcp.fw = some (⟨0x507, 128, [0, 1], none⟩ : FwUpd))
    ∧ ((⟨0x507, 128, [0, 1], none⟩ : FwUpd).handle = ((wReq ([0, 0, 0, 128] ++ List.replicate 64 7) : Req).ctx.val * 256 + (wCtx : Ctx).gen))
    ∧ ((wKp.setKcp { wKp.kcp with fw := some ⟨0x507, 128, [0, 1], none⟩ }).is GDG_AGG_BACKUP = false ∧ (wKp.setKcp { wKp.kcp with fw := some ⟨0x507, 128, [0, 1], none⟩ }).get THM_STAT_STEP < 4)
    ∧ ((⟨0x507, 128, [0, 1], none⟩ : FwUpd).len < payU (wReq ([0, 0, 0, 128] ++ List.replicate 64 7) : Req).pay 0 4 + ((wReq ([0, 0, 0, 128] ++ List.replicate 64 7) : Req).pay.drop 4).length ∨ (((wReq ([0, 0, 0, 128] ++ List.replicate 64 7) : Req).pay.drop 4).length % 64 ≠ 0 ∧ payU (wReq ([0, 0, 0, 128] ++ List.replicate 64 7) : Req).pay 0 4 + ((wReq ([0, 0, 0, 128] ++ List.replicate 64 7) : Req).pay.drop 4).length ≠ (⟨0x507, 128, [0, 1], none⟩ : FwUpd).len)))
    ∧ ((wKp.kcp.queues.length = 4)
    ∧ (wKp.Ready 0x0902 5 (wReq ([0, 0, 0, 64] ++ List.replicate 64 7) : Req) (wCtx : Ctx))
    ∧ (wKp.kcp.fw = none)
    ∧ (wKp.is GDG_AGG_BACKUP = false ∧ wKp.get THM_STAT_STEP < 4))
    ∧ (((wKp.setKcp { wKp.kcp with fw := some ⟨0x507, 128, [0, 1], none⟩ }).kcp.queues.length = 4)
    ∧ ((wKp.setKcp { wKp.kcp with fw := some ⟨0x507, 128, [0, 1], none⟩ }).Ready 0x0903 5 (wReq ([]) : Req) (wCtx : Ctx))
    ∧ ((wKp.setKcp { wKp.kcp with fw := some ⟨0x507, 128, [0, 1], none⟩ }).kcp.fw = some (⟨0x507, 128, [0, 1], none⟩ : FwUpd))
    ∧ ((⟨0x507, 128, [0, 1], none⟩ : FwUpd).handle = ((wReq ([]) : Req).ctx.val * 256 + (wCtx : Ctx).gen))
    ∧ ((wKp.setKcp { wKp.kcp with fw := some ⟨0x507, 128, [0, 1], none⟩ }).is GDG_AGG_BACKUP = false ∧ (wKp.setKcp { wKp.kcp with fw := some ⟨0x507, 128, [0, 1], none⟩ }).get THM_STAT_STEP < 4)
    ∧ ((⟨0x507, 128, [0, 1], none⟩ : FwUpd).verify = none)
    ∧ (((⟨0x507, 128, [0, 1], none⟩ : FwUpd).len + 63) / 64 ≤ (⟨0x507, 128, [0, 1], none⟩ : FwUpd).blocks.length)) := by
  and_intros <;> decide +kernel

theorem witness_firmware_requests_update_the_other_bank_part3 :
    (((wKp.setKcp { wKp.kcp with fw := some ⟨0x507, 128, [0], none⟩ }).kcp.queues.length = 4)
    ∧ ((wKp.setKcp { wKp.kcp with fw := some ⟨0x507, 128, [0], none⟩ }).Ready 0x0903 5 (wReq ([]) : Req) (wCtx : Ctx))
    ∧ ((wKp.setKcp { wKp.kcp with fw := some ⟨0x507, 128, [0], none⟩ }).kcp.fw = some (⟨0x507, 128, [0], none⟩ : FwUpd))
    ∧ ((⟨0x507, 128, [0], none⟩ : FwUpd).handle = ((wReq ([]) : Req).ctx.val * 256 + (wCtx : Ctx).gen))
    ∧ ((wKp.setKcp { wKp.kcp with fw := some ⟨0x507, 128, [0], none⟩ }).is GDG_AGG_BACKUP = false ∧ (wKp.setKcp { wKp.kcp with fw := some ⟨0x507, 128, [0], none⟩ }).get THM_STAT_STEP < 4)
    ∧ ((⟨0x507, 128, [0], none⟩ : FwUpd).verify.isSome = true ∨ (⟨0x507, 128, [0], none⟩ : FwUpd).blocks.length < ((⟨0x507, 128, [0], none⟩ : FwUpd).len + 63) / 64))
    ∧ ((wKp.kcp.queues.length = 4)
    ∧ (wKp.Ready 0x0903 5 (wReq ([]) : Req) (wCtx : Ctx))
    ∧ (wKp.kcp.fw = none)
    ∧ (wKp.is GDG_AGG_BACKUP = false ∧ wKp.get THM_STAT_STEP < 4))
    ∧ (((wKp.setKcp { wKp.kcp with fw := some ⟨0x507, 128, [0, 1], some ⟨0x507, 0, 9, none, 11, 0x0903, 5, 0⟩⟩ }).start.kp = true)
    ∧ ((wKp.setKcp { wKp.kcp with fw := some ⟨0x507, 128, [0, 1], some ⟨0x507, 0, 9, none, 11, 0x0903, 5, 0⟩⟩ }).pllA = true)
    ∧ ((wKp.setKcp { wKp.kcp with fw := some ⟨0x507, 128, [0, 1], some ⟨0x507, 0, 9, none, 11, 0x0903, 5, 0⟩⟩ }).start.banks.length = 2)
    ∧ ((wKp.setKcp { wKp.kcp with fw := some ⟨0x507, 128, [0, 1], some ⟨0x507, 0, 9, none, 11, 0x0903, 5, 0⟩⟩ }).kcp.fw = some (⟨0x507, 128, [0, 1], some ⟨0x507, 0, 9, none, 11, 0x0903, 5, 0⟩⟩ : FwUpd))
    ∧ ((⟨0x507, 128, [0, 1], some ⟨0x507, 0, 9, none, 11, 0x0903, 5, 0⟩⟩ : FwUpd).verify = some (⟨0x507, 0, 9, none, 11, 0x0903, 5, 0⟩ : Tok))
    ∧ ((wKp.setKcp { wKp.kcp with fw := some ⟨0x507, 128, [0, 1], some ⟨0x507, 0, 9, none, 11, 0x0903, 5, 0⟩⟩ }).session (⟨0x507, 0, 9, none, 11, 0x0903, 5, 0⟩ : Tok).handle = some (wCtx : Ctx))
    ∧ ((wCtx : Ctx).tport = (⟨0x507, 0, 9, none, 11, 0x0903, 5, 0⟩ : Tok).tport)
    ∧ ((wCtx : Ctx).peer = (⟨0x507, 0, 9, none, 11, 0x0903, 5, 0⟩ : Tok).peer)
    ∧ ((true : Bool) = true)
    ∧ ((wKp.setKcp { wKp.kcp with fw := some ⟨0x507, 128, [0, 1], some ⟨0x507, 0, 9, none, 11, 0x0903, 5, 0⟩⟩ }).start.floor ≤ (3 : Fin 64).val))
    ∧ (((wKp.setKcp { wKp.kcp with fw := some ⟨0x507, 128, [0, 1], some ⟨0x507, 0, 9, none, 11, 0x0903, 5, 0⟩⟩ }).start.kp = true)
    ∧ ((wKp.setKcp { wKp.kcp with fw := some ⟨0x507, 128, [0, 1], some ⟨0x507, 0, 9, none, 11, 0x0903, 5, 0⟩⟩ }).pllA = true)
    ∧ ((wKp.setKcp { wKp.kcp with fw := some ⟨0x507, 128, [0, 1], some ⟨0x507, 0, 9, none, 11, 0x0903, 5, 0⟩⟩ }).start.banks.length = 2)
    ∧ ((wKp.setKcp { wKp.kcp with fw := some ⟨0x507, 128, [0, 1], some ⟨0x507, 0, 9, none, 11, 0x0903, 5, 0⟩⟩ }).kcp.fw = some (⟨0x507, 128, [0, 1], some ⟨0x507, 0, 9, none, 11, 0x0903, 5, 0⟩⟩ : FwUpd))
    ∧ ((⟨0x507, 128, [0, 1], some ⟨0x507, 0, 9, none, 11, 0x0903, 5, 0⟩⟩ : FwUpd).verify = some (⟨0x507, 0, 9, none, 11, 0x0903, 5, 0⟩ : Tok))
    ∧ ((wKp.setKcp { wKp.kcp with fw := some ⟨0x507, 128, [0, 1], some ⟨0x507, 0, 9, none, 11, 0x0903, 5, 0⟩⟩ }).session (⟨0x507, 0, 9, none, 11, 0x0903, 5, 0⟩ : Tok).handle = some (wCtx : Ctx))
    ∧ ((wCtx : Ctx).tport = (⟨0x507, 0, 9, none, 11, 0x0903, 5, 0⟩ : Tok).tport)
    ∧ ((wCtx : Ctx).peer = (⟨0x507, 0, 9, none, 11, 0x0903, 5, 0⟩ : Tok).peer)
    ∧ ((false : Bool) = false ∨ (3 : Fin 64).val < (wKp.setKcp { wKp.kcp with fw := some ⟨0x507, 128, [0, 1], some ⟨0x507, 0, 9, none, 11, 0x0903, 5, 0⟩⟩ }).start.floor))
    ∧ (((wKp.setKcp { wKp.kcp with fw := some ⟨0x507, 128, [0, 1], none⟩ }).start.kp = false ∨ (wKp.setKcp { wKp.kcp with fw := some ⟨0x507, 128, [0, 1], none⟩ }).pllA = false ∨ (wKp.setKcp { wKp.kcp with fw := some ⟨0x507, 128, [0, 1], none⟩ }).kcp.fw.all (fun (g : FwUpd) => g.verify.isNone) = true))
    ∧ (((wKp.setBank 1 ⟨true, 7, 3, true⟩).kcp.queues.length = 4)
    ∧ ((wKp.setBank 1 ⟨true, 7, 3, true⟩).Ready 0x0904 5 (wReq ([1, 0, 0, 0]) : Req) (wCtx : Ctx))
    ∧ (((wKp.setBank 1 ⟨true, 7, 3, true⟩).bankOf (payU (wReq ([1, 0, 0, 0]) : Req).pay 0 1)).verified = true)) := by
  and_intros <;> decide +kernel

theorem witness_firmware_requests_update_the_other_bank_part4 :
    (((wKp.setBank 1 ⟨false, 7, 3, true⟩).kcp.queues.length = 4)
    ∧ ((wKp.setBank 1 ⟨false, 7, 3, true⟩).Ready 0x0904 5 (wReq ([1, 0, 0, 0]) : Req) (wCtx : Ctx))
    ∧ (((wKp.setBank 1 ⟨false, 7, 3, true⟩).bankOf (payU (wReq ([1, 0, 0, 0]) : Req).pay 0 1)).verified = false))
    ∧ ((wKp.kcp.queues.length = 4)
    ∧ (wKp.Ready 0x0905 4 (wReq ([]) : Req) (wCtx : Ctx))) := by
  and_intros <;> decide +kernel

theorem witness_keyed_opcodes_need_a_keyed_session :
    (((wKp.setKcp { wKp.kcp with ctxs := [(5, { wCtx with slot := 0xF })] }).Live (wReq [0x46, 0x43, 0x4F, 0x4C] : Req) ({ wCtx with slot := 0xF } : Ctx))
    ∧ (({ wCtx with slot := 0xF } : Ctx).slot = 0xF))
    ∧ (((wKp.setKcp { wKp.kcp with ctxs := [(5, { wCtx with slot := 0xF })] }).Live (wReq [0, 0, 0, 128] : Req) ({ wCtx with slot := 0xF } : Ctx))
    ∧ (({ wCtx with slot := 0xF } : Ctx).slot = 0xF))
    ∧ (((wKp.setKcp { wKp.kcp with ctxs := [(5, { wCtx with slot := 0xF })] }).Live (wReq [] : Req) ({ wCtx with slot := 0xF } : Ctx))
    ∧ (({ wCtx with slot := 0xF } : Ctx).slot = 0xF))
    ∧ (((wKp.setKcp { wKp.kcp with ctxs := [(5, { wCtx with slot := 0xF })] }).Live (wReq [] : Req) ({ wCtx with slot := 0xF } : Ctx))
    ∧ (({ wCtx with slot := 0xF } : Ctx).slot = 0xF))
    ∧ (((wKp.setKcp { wKp.kcp with ctxs := [(5, { wCtx with slot := 0xF })] }).Live (wReq [1, 0, 0, 0] : Req) ({ wCtx with slot := 0xF } : Ctx))
    ∧ (({ wCtx with slot := 0xF } : Ctx).slot = 0xF)) := by
  and_intros <;> decide +kernel

theorem witness_can_controllers_configure_and_confine :
    (((wCan.put (CAN_TXPEND_PEND 2) 5).can.length = 4)
    ∧ ((wCan.put (CAN_TXPEND_PEND 2) 5).Reaches (Initiator.kp : Initiator) (CAN_CTRL (2 : Fin 4).val).addr)
    ∧ ((wCan.put (CAN_TXPEND_PEND 2) 5).is (CAN_CTRL_INIT (2 : Fin 4).val) = false))
    ∧ (((wCan.put (CAN_TXPEND_PEND 2) 5).can.length = 4)
    ∧ ((wCan.put (CAN_TXPEND_PEND 2) 5).Reaches (Initiator.kp : Initiator) (CAN_CTRL (2 : Fin 4).val).addr)
    ∧ ((wCan.put (CAN_TXPEND_PEND 2) 5).is (CAN_CTRL_INIT (2 : Fin 4).val) = false))
    ∧ (((wCan.put (CAN_CTRL_INIT 2) 1).can.length = 4)
    ∧ ((wCan.put (CAN_CTRL_INIT 2) 1).Reaches (Initiator.kp : Initiator) (CAN_CTRL (2 : Fin 4).val).addr)
    ∧ ((wCan.put (CAN_CTRL_INIT 2) 1).is (CAN_CTRL_INIT (2 : Fin 4).val) = true))
    ∧ ((wCan.can.length = 4)
    ∧ (wCan.Reaches (Initiator.kp : Initiator) (CAN_CTRL (2 : Fin 4).val).addr)
    ∧ (wCan.is (CAN_CTRL_INIT (2 : Fin 4).val) = false))
    ∧ (((wCan.put (CAN_CTRL_INIT 2) 1).can.length = 4)
    ∧ ((wCan.put (CAN_CTRL_INIT 2) 1).Reaches (Initiator.kp : Initiator) (CAN_CTRL (2 : Fin 4).val).addr)
    ∧ ((wCan.put (CAN_CTRL_INIT 2) 1).is (CAN_CTRL_INIT (2 : Fin 4).val) = true)
    ∧ ((wCan.put (CAN_CTRL_INIT 2) 1).canBadArea (2 : Fin 4).val = false))
    ∧ ((((wCan.put (CAN_CTRL_INIT 2) 1).put (CAN_RAM_BASE 2) 1023).can.length = 4)
    ∧ (((wCan.put (CAN_CTRL_INIT 2) 1).put (CAN_RAM_BASE 2) 1023).Reaches (Initiator.kp : Initiator) (CAN_CTRL (2 : Fin 4).val).addr)
    ∧ (((wCan.put (CAN_CTRL_INIT 2) 1).put (CAN_RAM_BASE 2) 1023).is (CAN_CTRL_INIT (2 : Fin 4).val) = true)
    ∧ (((wCan.put (CAN_CTRL_INIT 2) 1).put (CAN_RAM_BASE 2) 1023).canBadArea (2 : Fin 4).val = true)) := by
  and_intros <;> decide +kernel

theorem witness_can_controllers_configure_and_confine_part2 :
    ((wCan.can.length = 4)
    ∧ (wCan.Reaches (Initiator.kp : Initiator) (CAN_CTRL (2 : Fin 4).val).addr)
    ∧ (wCan.is (CAN_CTRL_INIT (2 : Fin 4).val) = false))
    ∧ (((wCan.setCan 2 { Can.idle with live := 1 }).can.length = 4)
    ∧ ((wCan.setCan 2 { Can.idle with live := 1 }).canClocked = true)
    ∧ (((wCan.setCan 2 { Can.idle with live := 1 }).canOf (2 : Fin 4).val).live = 1))
    ∧ ((wCan.canClocked = false ∨ (wCan.canOf (2 : Fin 4).val).live ≠ 1))
    ∧ (((wCan.put (CAN_ECR_STATE 2) 2).can.length = 4)
    ∧ ((wCan.put (CAN_ECR_STATE 2) 2).Reaches (Initiator.kp : Initiator) (CAN_CTRL (2 : Fin 4).val).addr))
    ∧ (((wCan.put (CAN_ECR_STATE 2) 3).can.length = 4)
    ∧ ((wCan.put (CAN_ECR_STATE 2) 3).canClocked = true)
    ∧ ((wCan.put (CAN_ECR_STATE 2) 3).is (CAN_CTRL_INIT (2 : Fin 4).val) = false)
    ∧ ((wCan.put (CAN_ECR_STATE 2) 3).get (CAN_ECR_STATE (2 : Fin 4).val) = 3))
    ∧ ((wCan.canClocked = false ∨ wCan.is (CAN_CTRL_INIT (2 : Fin 4).val) = true ∨ wCan.get (CAN_ECR_STATE (2 : Fin 4).val) ≠ 3)) := by
  and_intros <;> decide +kernel

theorem witness_can_controllers_configure_and_confine_part3 :
    (((wCan.put (CAN_CTRL_OPMODE 2) 1).can.length = 4)
    ∧ ((wCan.put (CAN_CTRL_OPMODE 2) 1).canClocked = true)
    ∧ ((wCan.put (CAN_CTRL_OPMODE 2) 1).is (CAN_CTRL_INIT (2 : Fin 4).val) = false)
    ∧ (((wCan.put (CAN_CTRL_OPMODE 2) 1).canOf (2 : Fin 4).val).att = none))
    ∧ (((wCan.setCan 2 { Can.idle with live := 2, att := some 1 }).canClocked = false ∨ (wCan.setCan 2 { Can.idle with live := 2, att := some 1 }).is (CAN_CTRL_INIT (2 : Fin 4).val) = true ∨ ((wCan.setCan 2 { Can.idle with live := 2, att := some 1 }).canOf (2 : Fin 4).val).att ≠ none))
    ∧ ((wCan.can.length = 4)
    ∧ (wCan.canClocked = true)
    ∧ ((wCan.canOf (2 : Fin 4).val).live = 2)
    ∧ (wCan.get (CAN_ECR_STATE (2 : Fin 4).val) < 2)
    ∧ ((wCan.canOf (2 : Fin 4).val).mode = 0)
    ∧ ((wCan.canOf (2 : Fin 4).val).stopAt = false)
    ∧ ((wCan.canOf (2 : Fin 4).val).tec < 128)
    ∧ ((wCan.canOf (2 : Fin 4).val).recv + (if (true : Bool) then 8 else 1) < 128))
    ∧ (((wCan.setCan 2 { Can.idle with live := 2, recv := 127 }).can.length = 4)
    ∧ ((wCan.setCan 2 { Can.idle with live := 2, recv := 127 }).canClocked = true)
    ∧ (((wCan.setCan 2 { Can.idle with live := 2, recv := 127 }).canOf (2 : Fin 4).val).live = 2)
    ∧ ((wCan.setCan 2 { Can.idle with live := 2, recv := 127 }).get (CAN_ECR_STATE (2 : Fin 4).val) < 2)
    ∧ (((wCan.setCan 2 { Can.idle with live := 2, recv := 127 }).canOf (2 : Fin 4).val).mode = 0)
    ∧ (((wCan.setCan 2 { Can.idle with live := 2, recv := 127 }).canOf (2 : Fin 4).val).stopAt = false)
    ∧ (((wCan.setCan 2 { Can.idle with live := 2, recv := 127 }).canOf (2 : Fin 4).val).tec ≤ 255)
    ∧ (128 ≤ ((wCan.setCan 2 { Can.idle with live := 2, recv := 127 }).canOf (2 : Fin 4).val).recv + (if (false : Bool) then 8 else 1)))
    ∧ (((wCan.setCan 2 { Can.idle with live := 2, mode := 1 }).can.length = 4)
    ∧ ((wCan.setCan 2 { Can.idle with live := 2, mode := 1 }).canClocked = true)
    ∧ (((wCan.setCan 2 { Can.idle with live := 2, mode := 1 }).canOf (2 : Fin 4).val).live = 2)
    ∧ ((wCan.setCan 2 { Can.idle with live := 2, mode := 1 }).get (CAN_ECR_STATE (2 : Fin 4).val) < 2)
    ∧ (((wCan.setCan 2 { Can.idle with live := 2, mode := 1 }).canOf (2 : Fin 4).val).mode ≠ 0)
    ∧ (((wCan.setCan 2 { Can.idle with live := 2, mode := 1 }).canOf (2 : Fin 4).val).stopAt = false))
    ∧ (((wCan.setCan 2 { Can.idle with live := 2, stopAt := true }).can.length = 4)
    ∧ ((wCan.setCan 2 { Can.idle with live := 2, stopAt := true }).canClocked = true)
    ∧ (((wCan.setCan 2 { Can.idle with live := 2, stopAt := true }).canOf (2 : Fin 4).val).live = 2)
    ∧ ((wCan.setCan 2 { Can.idle with live := 2, stopAt := true }).get (CAN_ECR_STATE (2 : Fin 4).val) < 2)
    ∧ (((wCan.setCan 2 { Can.idle with live := 2, stopAt := true }).canOf (2 : Fin 4).val).stopAt = true)) := by
  and_intros <;> decide +kernel

theorem witness_can_controllers_configure_and_confine_part4 :
    ((wOn.canClocked = false ∨ (wOn.canOf (2 : Fin 4).val).live ≠ 2 ∨ 2 ≤ wOn.get (CAN_ECR_STATE (2 : Fin 4).val)))
    ∧ ((({ ((wCan.put CANG_TMCFG_EN 1).put CANG_TMCFG_CYCLE 10).setCanTm ⟨some true, true, 0, 0, []⟩ with cyc := 10 ^ 9 }).can.length = 4)
    ∧ (({ ((wCan.put CANG_TMCFG_EN 1).put CANG_TMCFG_CYCLE 10).setCanTm ⟨some true, true, 0, 0, []⟩ with cyc := 10 ^ 9 }).canClocked = true)
    ∧ (({ ((wCan.put CANG_TMCFG_EN 1).put CANG_TMCFG_CYCLE 10).setCanTm ⟨some true, true, 0, 0, []⟩ with cyc := 10 ^ 9 }).ticking = true)
    ∧ (({ ((wCan.put CANG_TMCFG_EN 1).put CANG_TMCFG_CYCLE 10).setCanTm ⟨some true, true, 0, 0, []⟩ with cyc := 10 ^ 9 }).is CANG_TMCFG_EN = true)
    ∧ (({ ((wCan.put CANG_TMCFG_EN 1).put CANG_TMCFG_CYCLE 10).setCanTm ⟨some true, true, 0, 0, []⟩ with cyc := 10 ^ 9 }).tmCycle ≠ ({ ((wCan.put CANG_TMCFG_EN 1).put CANG_TMCFG_CYCLE 10).setCanTm ⟨some true, true, 0, 0, []⟩ with cyc := 10 ^ 9 }).canTm.cycleAt))
    ∧ ((wCan.canClocked = false ∨ wCan.ticking = false ∨ wCan.is CANG_TMCFG_EN = false ∨ wCan.tmCycle = wCan.canTm.cycleAt)) := by
  and_intros <;> decide +kernel

theorem witness_can_frames_are_stored_and_sent :
    ((((wCan.put (CAN_FLT_A_EN 2 3) 1).put (CAN_FLT_A_ACT 2 3) 1).can.length = 4)
    ∧ (((wCan.put (CAN_FLT_A_EN 2 3) 1).put (CAN_FLT_A_ACT 2 3) 1).canClocked = true)
    ∧ ((((wCan.put (CAN_FLT_A_EN 2 3) 1).put (CAN_FLT_A_ACT 2 3) 1).canOf (2 : Fin 4).val).live = 2)
    ∧ (((wCan.put (CAN_FLT_A_EN 2 3) 1).put (CAN_FLT_A_ACT 2 3) 1).get (CAN_ECR_STATE (2 : Fin 4).val) < 2)
    ∧ (((wCan.put (CAN_FLT_A_EN 2 3) 1).put (CAN_FLT_A_ACT 2 3) 1).canValid (2 : Fin 4).val (wFrame : CanFrame) = true)
    ∧ ((((wCan.put (CAN_FLT_A_EN 2 3) 1).put (CAN_FLT_A_ACT 2 3) 1).canOf (2 : Fin 4).val).recv ≤ 127)
    ∧ ((((wCan.put (CAN_FLT_A_EN 2 3) 1).put (CAN_FLT_A_ACT 2 3) 1).canOf (2 : Fin 4).val).stopAt = false)
    ∧ (((wCan.put (CAN_FLT_A_EN 2 3) 1).put (CAN_FLT_A_ACT 2 3) 1).canFilter (2 : Fin 4).val (wFrame : CanFrame) = some (3 : Fin 64).val)
    ∧ (((wCan.put (CAN_FLT_A_EN 2 3) 1).put (CAN_FLT_A_ACT 2 3) 1).get (CAN_FLT_A_ACT (2 : Fin 4).val (3 : Fin 64).val) = (1 : Fin 2).val)
    ∧ (((wCan.put (CAN_FLT_A_EN 2 3) 1).put (CAN_FLT_A_ACT 2 3) 1).get (CAN_RXF_FILL (2 : Fin 4).val (1 : Fin 2).val) < ((wCan.put (CAN_FLT_A_EN 2 3) 1).put (CAN_FLT_A_ACT 2 3) 1).canNf (2 : Fin 4).val (1 : Fin 2).val)
    ∧ (((wCan.put (CAN_FLT_A_EN 2 3) 1).put (CAN_FLT_A_ACT 2 3) 1).get (CAN_RXF_PUT (2 : Fin 4).val (1 : Fin 2).val) < ((wCan.put (CAN_FLT_A_EN 2 3) 1).put (CAN_FLT_A_ACT 2 3) 1).canNf (2 : Fin 4).val (1 : Fin 2).val)
    ∧ (((wCan.put (CAN_FLT_A_EN 2 3) 1).put (CAN_FLT_A_ACT 2 3) 1).get (CAN_RXF_FILL (2 : Fin 4).val (1 : Fin 2).val) < 64)
    ∧ (((wCan.put (CAN_FLT_A_EN 2 3) 1).put (CAN_FLT_A_ACT 2 3) 1).get (CAN_RXF_GET (2 : Fin 4).val (1 : Fin 2).val) < ((wCan.put (CAN_FLT_A_EN 2 3) 1).put (CAN_FLT_A_ACT 2 3) 1).canNf (2 : Fin 4).val (1 : Fin 2).val))
    ∧ ((((wCan.put (CAN_FLT_A_EN 2 3) 1).put (CAN_FLT_A_ACT 2 3) 1 |>.put (CAN_RXF_FILL 2 1) 8).can.length = 4)
    ∧ (((wCan.put (CAN_FLT_A_EN 2 3) 1).put (CAN_FLT_A_ACT 2 3) 1 |>.put (CAN_RXF_FILL 2 1) 8).canClocked = true)
    ∧ ((((wCan.put (CAN_FLT_A_EN 2 3) 1).put (CAN_FLT_A_ACT 2 3) 1 |>.put (CAN_RXF_FILL 2 1) 8).canOf (2 : Fin 4).val).live = 2)
    ∧ (((wCan.put (CAN_FLT_A_EN 2 3) 1).put (CAN_FLT_A_ACT 2 3) 1 |>.put (CAN_RXF_FILL 2 1) 8).get (CAN_ECR_STATE (2 : Fin 4).val) < 2)
    ∧ (((wCan.put (CAN_FLT_A_EN 2 3) 1).put (CAN_FLT_A_ACT 2 3) 1 |>.put (CAN_RXF_FILL 2 1) 8).canValid (2 : Fin 4).val (wFrame : CanFrame) = true)
    ∧ ((((wCan.put (CAN_FLT_A_EN 2 3) 1).put (CAN_FLT_A_ACT 2 3) 1 |>.put (CAN_RXF_FILL 2 1) 8).canOf (2 : Fin 4).val).recv ≤ 127)
    ∧ ((((wCan.put (CAN_FLT_A_EN 2 3) 1).put (CAN_FLT_A_ACT 2 3) 1 |>.put (CAN_RXF_FILL 2 1) 8).canOf (2 : Fin 4).val).stopAt = false)
    ∧ (((wCan.put (CAN_FLT_A_EN 2 3) 1).put (CAN_FLT_A_ACT 2 3) 1 |>.put (CAN_RXF_FILL 2 1) 8).canFilter (2 : Fin 4).val (wFrame : CanFrame) = some (3 : Fin 64).val)
    ∧ (((wCan.put (CAN_FLT_A_EN 2 3) 1).put (CAN_FLT_A_ACT 2 3) 1 |>.put (CAN_RXF_FILL 2 1) 8).get (CAN_FLT_A_ACT (2 : Fin 4).val (3 : Fin 64).val) = (1 : Fin 2).val)
    ∧ (((wCan.put (CAN_FLT_A_EN 2 3) 1).put (CAN_FLT_A_ACT 2 3) 1 |>.put (CAN_RXF_FILL 2 1) 8).canNf (2 : Fin 4).val (1 : Fin 2).val ≤ ((wCan.put (CAN_FLT_A_EN 2 3) 1).put (CAN_FLT_A_ACT 2 3) 1 |>.put (CAN_RXF_FILL 2 1) 8).get (CAN_RXF_FILL (2 : Fin 4).val (1 : Fin 2).val))
    ∧ (((wCan.put (CAN_FLT_A_EN 2 3) 1).put (CAN_FLT_A_ACT 2 3) 1 |>.put (CAN_RXF_FILL 2 1) 8).is (CAN_RXF_OVWR (2 : Fin 4).val (1 : Fin 2).val) = false ∨ ((wCan.put (CAN_FLT_A_EN 2 3) 1).put (CAN_FLT_A_ACT 2 3) 1 |>.put (CAN_RXF_FILL 2 1) 8).canNf (2 : Fin 4).val (1 : Fin 2).val = 0))
    ∧ ((((wCan.put (CAN_FLT_A_EN 2 3) 1).put (CAN_FLT_A_ACT 2 3) 1 |>.put (CAN_RXF_FILL 2 1) 8 |>.put (CAN_RXF_OVWR 2 1) 1).can.length = 4)
    ∧ (((wCan.put (CAN_FLT_A_EN 2 3) 1).put (CAN_FLT_A_ACT 2 3) 1 |>.put (CAN_RXF_FILL 2 1) 8 |>.put (CAN_RXF_OVWR 2 1) 1).canClocked = true)
    ∧ ((((wCan.put (CAN_FLT_A_EN 2 3) 1).put (CAN_FLT_A_ACT 2 3) 1 |>.put (CAN_RXF_FILL 2 1) 8 |>.put (CAN_RXF_OVWR 2 1) 1).canOf (2 : Fin 4).val).live = 2)
    ∧ (((wCan.put (CAN_FLT_A_EN 2 3) 1).put (CAN_FLT_A_ACT 2 3) 1 |>.put (CAN_RXF_FILL 2 1) 8 |>.put (CAN_RXF_OVWR 2 1) 1).get (CAN_ECR_STATE (2 : Fin 4).val) < 2)
    ∧ (((wCan.put (CAN_FLT_A_EN 2 3) 1).put (CAN_FLT_A_ACT 2 3) 1 |>.put (CAN_RXF_FILL 2 1) 8 |>.put (CAN_RXF_OVWR 2 1) 1).canValid (2 : Fin 4).val (wFrame : CanFrame) = true)
    ∧ ((((wCan.put (CAN_FLT_A_EN 2 3) 1).put (CAN_FLT_A_ACT 2 3) 1 |>.put (CAN_RXF_FILL 2 1) 8 |>.put (CAN_RXF_OVWR 2 1) 1).canOf (2 : Fin 4).val).recv ≤ 127)
    ∧ ((((wCan.put (CAN_FLT_A_EN 2 3) 1).put (CAN_FLT_A_ACT 2 3) 1 |>.put (CAN_RXF_FILL 2 1) 8 |>.put (CAN_RXF_OVWR 2 1) 1).canOf (2 : Fin 4).val).stopAt = false)
    ∧ (((wCan.put (CAN_FLT_A_EN 2 3) 1).put (CAN_FLT_A_ACT 2 3) 1 |>.put (CAN_RXF_FILL 2 1) 8 |>.put (CAN_RXF_OVWR 2 1) 1).canFilter (2 : Fin 4).val (wFrame : CanFrame) = some (3 : Fin 64).val)
    ∧ (((wCan.put (CAN_FLT_A_EN 2 3) 1).put (CAN_FLT_A_ACT 2 3) 1 |>.put (CAN_RXF_FILL 2 1) 8 |>.put (CAN_RXF_OVWR 2 1) 1).get (CAN_FLT_A_ACT (2 : Fin 4).val (3 : Fin 64).val) = (1 : Fin 2).val)
    ∧ (((wCan.put (CAN_FLT_A_EN 2 3) 1).put (CAN_FLT_A_ACT 2 3) 1 |>.put (CAN_RXF_FILL 2 1) 8 |>.put (CAN_RXF_OVWR 2 1) 1).canNf (2 : Fin 4).val (1 : Fin 2).val ≤ ((wCan.put (CAN_FLT_A_EN 2 3) 1).put (CAN_FLT_A_ACT 2 3) 1 |>.put (CAN_RXF_FILL 2 1) 8 |>.put (CAN_RXF_OVWR 2 1) 1).get (CAN_RXF_FILL (2 : Fin 4).val (1 : Fin 2).val))
    ∧ (((wCan.put (CAN_FLT_A_EN 2 3) 1).put (CAN_FLT_A_ACT 2 3) 1 |>.put (CAN_RXF_FILL 2 1) 8 |>.put (CAN_RXF_OVWR 2 1) 1).is (CAN_RXF_OVWR (2 : Fin 4).val (1 : Fin 2).val) = true)
    ∧ (((wCan.put (CAN_FLT_A_EN 2 3) 1).put (CAN_FLT_A_ACT 2 3) 1 |>.put (CAN_RXF_FILL 2 1) 8 |>.put (CAN_RXF_OVWR 2 1) 1).get (CAN_RXF_PUT (2 : Fin 4).val (1 : Fin 2).val) < ((wCan.put (CAN_FLT_A_EN 2 3) 1).put (CAN_FLT_A_ACT 2 3) 1 |>.put (CAN_RXF_FILL 2 1) 8 |>.put (CAN_RXF_OVWR 2 1) 1).canNf (2 : Fin 4).val (1 : Fin 2).val)
    ∧ (((wCan.put (CAN_FLT_A_EN 2 3) 1).put (CAN_FLT_A_ACT 2 3) 1 |>.put (CAN_RXF_FILL 2 1) 8 |>.put (CAN_RXF_OVWR 2 1) 1).get (CAN_RXF_FILL (2 : Fin 4).val (1 : Fin 2).val) ≤ 64)
    ∧ (1 ≤ ((wCan.put (CAN_FLT_A_EN 2 3) 1).put (CAN_FLT_A_ACT 2 3) 1 |>.put (CAN_RXF_FILL 2 1) 8 |>.put (CAN_RXF_OVWR 2 1) 1).get (CAN_RXF_FILL (2 : Fin 4).val (1 : Fin 2).val))
    ∧ (((wCan.put (CAN_FLT_A_EN 2 3) 1).put (CAN_FLT_A_ACT 2 3) 1 |>.put (CAN_RXF_FILL 2 1) 8 |>.put (CAN_RXF_OVWR 2 1) 1).get (CAN_RXF_GET (2 : Fin 4).val (1 : Fin 2).val) < ((wCan.put (CAN_FLT_A_EN 2 3) 1).put (CAN_FLT_A_ACT 2 3) 1 |>.put (CAN_RXF_FILL 2 1) 8 |>.put (CAN_RXF_OVWR 2 1) 1).canNf (2 : Fin 4).val (1 : Fin 2).val))
    ∧ ((((wCan.put (CAN_FLT_A_EN 2 3) 1).put (CAN_FLT_A_ACT 2 3) 2).can.length = 4)
    ∧ (((wCan.put (CAN_FLT_A_EN 2 3) 1).put (CAN_FLT_A_ACT 2 3) 2).canClocked = true)
    ∧ ((((wCan.put (CAN_FLT_A_EN 2 3) 1).put (CAN_FLT_A_ACT 2 3) 2).canOf (2 : Fin 4).val).live = 2)
    ∧ (((wCan.put (CAN_FLT_A_EN 2 3) 1).put (CAN_FLT_A_ACT 2 3) 2).get (CAN_ECR_STATE (2 : Fin 4).val) < 2)
    ∧ (((wCan.put (CAN_FLT_A_EN 2 3) 1).put (CAN_FLT_A_ACT 2 3) 2).canValid (2 : Fin 4).val (wFrame : CanFrame) = true)
    ∧ (((wCan.put (CAN_FLT_A_EN 2 3) 1).put (CAN_FLT_A_ACT 2 3) 2).canFilter (2 : Fin 4).val (wFrame : CanFrame) = some (3 : Fin 64).val)
    ∧ (((wCan.put (CAN_FLT_A_EN 2 3) 1).put (CAN_FLT_A_ACT 2 3) 2).get (CAN_FLT_A_ACT (2 : Fin 4).val (3 : Fin 64).val) = 2))
    ∧ ((((wCan.setCan 2 { Can.idle with live := 2, recv := 7 }).put (CAN_FLT_A_EN 2 3) 1 |>.put (CAN_FLT_A_ACT 2 3) 3).can.length = 4)
    ∧ (((wCan.setCan 2 { Can.idle with live := 2, recv := 7 }).put (CAN_FLT_A_EN 2 3) 1 |>.put (CAN_FLT_A_ACT 2 3) 3).canClocked = true)
    ∧ ((((wCan.setCan 2 { Can.idle with live := 2, recv := 7 }).put (CAN_FLT_A_EN 2 3) 1 |>.put (CAN_FLT_A_ACT 2 3) 3).canOf (2 : Fin 4).val).live = 2)
    ∧ (((wCan.setCan 2 { Can.idle with live := 2, recv := 7 }).put (CAN_FLT_A_EN 2 3) 1 |>.put (CAN_FLT_A_ACT 2 3) 3).get (CAN_ECR_STATE (2 : Fin 4).val) < 2)
    ∧ (((wCan.setCan 2 { Can.idle with live := 2, recv := 7 }).put (CAN_FLT_A_EN 2 3) 1 |>.put (CAN_FLT_A_ACT 2 3) 3).canValid (2 : Fin 4).val (wFrame : CanFrame) = true)
    ∧ ((((wCan.setCan 2 { Can.idle with live := 2, recv := 7 }).put (CAN_FLT_A_EN 2 3) 1 |>.put (CAN_FLT_A_ACT 2 3) 3).canOf (2 : Fin 4).val).recv ≤ 127)
    ∧ ((((wCan.setCan 2 { Can.idle with live := 2, recv := 7 }).put (CAN_FLT_A_EN 2 3) 1 |>.put (CAN_FLT_A_ACT 2 3) 3).canOf (2 : Fin 4).val).stopAt = false)
    ∧ (((wCan.setCan 2 { Can.idle with live := 2, recv := 7 }).put (CAN_FLT_A_EN 2 3) 1 |>.put (CAN_FLT_A_ACT 2 3) 3).canFilter (2 : Fin 4).val (wFrame : CanFrame) = some (3 : Fin 64).val)
    ∧ (((wCan.setCan 2 { Can.idle with live := 2, recv := 7 }).put (CAN_FLT_A_EN 2 3) 1 |>.put (CAN_FLT_A_ACT 2 3) 3).get (CAN_FLT_A_ACT (2 : Fin 4).val (3 : Fin 64).val) = 3)
    ∧ ((((wCan.setCan 2 { Can.idle with live := 2, recv := 7 }).put (CAN_FLT_A_EN 2 3) 1 |>.put (CAN_FLT_A_ACT 2 3) 3).canOf (2 : Fin 4).val).mode = 0)
    ∧ ((((wCan.setCan 2 { Can.idle with live := 2, recv := 7 }).put (CAN_FLT_A_EN 2 3) 1 |>.put (CAN_FLT_A_ACT 2 3) 3).canOf (2 : Fin 4).val).tec ≤ 255))
    ∧ ((((wCan.setCan 2 { Can.idle with live := 2, recv := 130 }).put (CAN_CTRL_NOMATCH 2) 1 |>.put (CAN_ECR_STATE 2) 1).can.length = 4)
    ∧ (((wCan.setCan 2 { Can.idle with live := 2, recv := 130 }).put (CAN_CTRL_NOMATCH 2) 1 |>.put (CAN_ECR_STATE 2) 1).canClocked = true)
    ∧ ((((wCan.setCan 2 { Can.idle with live := 2, recv := 130 }).put (CAN_CTRL_NOMATCH 2) 1 |>.put (CAN_ECR_STATE 2) 1).canOf (2 : Fin 4).val).live = 2)
    ∧ (((wCan.setCan 2 { Can.idle with live := 2, recv := 130 }).put (CAN_CTRL_NOMATCH 2) 1 |>.put (CAN_ECR_STATE 2) 1).get (CAN_ECR_STATE (2 : Fin 4).val) < 2)
    ∧ (((wCan.setCan 2 { Can.idle with live := 2, recv := 130 }).put (CAN_CTRL_NOMATCH 2) 1 |>.put (CAN_ECR_STATE 2) 1).canValid (2 : Fin 4).val (wFrame : CanFrame) = true)
    ∧ ((((wCan.setCan 2 { Can.idle with live := 2, recv := 130 }).put (CAN_CTRL_NOMATCH 2) 1 |>.put (CAN_ECR_STATE 2) 1).canOf (2 : Fin 4).val).stopAt = false)
    ∧ ((((wCan.setCan 2 { Can.idle with live := 2, recv := 130 }).put (CAN_CTRL_NOMATCH 2) 1 |>.put (CAN_ECR_STATE 2) 1).canOf (2 : Fin 4).val).mode = 0)
    ∧ (127 < (((wCan.setCan 2 { Can.idle with live := 2, recv := 130 }).put (CAN_CTRL_NOMATCH 2) 1 |>.put (CAN_ECR_STATE 2) 1).canOf (2 : Fin 4).val).recv)) := by
  and_intros <;> decide +kernel

theorem witness_can_frames_are_stored_and_sent_part2 :
    (((wCan.put (CAN_CTRL_NOMATCH 2) 1).can.length = 4)
    ∧ ((wCan.put (CAN_CTRL_NOMATCH 2) 1).canClocked = true)
    ∧ (((wCan.put (CAN_CTRL_NOMATCH 2) 1).canOf (2 : Fin 4).val).live = 2)
    ∧ ((wCan.put (CAN_CTRL_NOMATCH 2) 1).get (CAN_ECR_STATE (2 : Fin 4).val) < 2)
    ∧ ((wCan.put (CAN_CTRL_NOMATCH 2) 1).canValid (2 : Fin 4).val (wFrame : CanFrame) = true)
    ∧ (((wCan.put (CAN_CTRL_NOMATCH 2) 1).canOf (2 : Fin 4).val).recv ≤ 127)
    ∧ (((wCan.put (CAN_CTRL_NOMATCH 2) 1).canOf (2 : Fin 4).val).stopAt = false)
    ∧ ((wCan.put (CAN_CTRL_NOMATCH 2) 1).canFilter (2 : Fin 4).val (wFrame : CanFrame) = none)
    ∧ ((wCan.put (CAN_CTRL_NOMATCH 2) 1).is (CAN_CTRL_NOMATCH (2 : Fin 4).val) = true))
    ∧ ((wCan.can.length = 4)
    ∧ (wCan.canClocked = true)
    ∧ ((wCan.canOf (2 : Fin 4).val).live = 2)
    ∧ (wCan.get (CAN_ECR_STATE (2 : Fin 4).val) < 2)
    ∧ (wCan.canValid (2 : Fin 4).val (wFrame : CanFrame) = true)
    ∧ ((wCan.canOf (2 : Fin 4).val).recv ≤ 127)
    ∧ ((wCan.canOf (2 : Fin 4).val).stopAt = false)
    ∧ (wCan.canFilter (2 : Fin 4).val (wFrame : CanFrame) = none)
    ∧ (wCan.is (CAN_CTRL_NOMATCH (2 : Fin 4).val) = false)
    ∧ (wCan.get (CAN_RXF_FILL (2 : Fin 4).val 0) < wCan.canNf (2 : Fin 4).val 0)
    ∧ (wCan.get (CAN_RXF_PUT (2 : Fin 4).val 0) < wCan.canNf (2 : Fin 4).val 0)
    ∧ (wCan.get (CAN_RXF_FILL (2 : Fin 4).val 0) < 64)
    ∧ (wCan.get (CAN_RXF_GET (2 : Fin 4).val 0) < wCan.canNf (2 : Fin 4).val 0))
    ∧ (((wCan.setCan 2 { Can.idle with live := 2, stopAt := true }).can.length = 4)
    ∧ ((wCan.setCan 2 { Can.idle with live := 2, stopAt := true }).canClocked = true)
    ∧ (((wCan.setCan 2 { Can.idle with live := 2, stopAt := true }).canOf (2 : Fin 4).val).live = 2)
    ∧ ((wCan.setCan 2 { Can.idle with live := 2, stopAt := true }).get (CAN_ECR_STATE (2 : Fin 4).val) < 2)
    ∧ ((wCan.setCan 2 { Can.idle with live := 2, stopAt := true }).canValid (2 : Fin 4).val (wFrame : CanFrame) = true)
    ∧ (((wCan.setCan 2 { Can.idle with live := 2, stopAt := true }).canOf (2 : Fin 4).val).stopAt = true)
    ∧ (∀ m : Fin 64, (wCan.setCan 2 { Can.idle with live := 2, stopAt := true }).canFilter (2 : Fin 4).val (wFrame : CanFrame) = some m.val → (wCan.setCan 2 { Can.idle with live := 2, stopAt := true }).get (CAN_FLT_A_ACT (2 : Fin 4).val m.val) ≠ 2))
    ∧ ((wOn.canClocked = false ∨ (wOn.canOf (2 : Fin 4).val).live ≠ 2 ∨ 2 ≤ wOn.get (CAN_ECR_STATE (2 : Fin 4).val) ∨ wOn.canValid (2 : Fin 4).val (wFrame : CanFrame) = false))
    ∧ ((((wCan.put (CAN_RXF_FILL 2 1) 5).put (CAN_RXF_GET 2 1) 6).can.length = 4)
    ∧ (((wCan.put (CAN_RXF_FILL 2 1) 5).put (CAN_RXF_GET 2 1) 6).Reaches (Initiator.kp : Initiator) (CAN_RXF (2 : Fin 4).val (1 : Fin 2).val).addr)
    ∧ (((wCan.put (CAN_RXF_FILL 2 1) 5).put (CAN_RXF_GET 2 1) 6).get (CAN_RXF_FILL (2 : Fin 4).val (1 : Fin 2).val) ≤ ((wCan.put (CAN_RXF_FILL 2 1) 5).put (CAN_RXF_GET 2 1) 6).canNf (2 : Fin 4).val (1 : Fin 2).val)
    ∧ (((wCan.put (CAN_RXF_FILL 2 1) 5).put (CAN_RXF_GET 2 1) 6).get (CAN_RXF_GET (2 : Fin 4).val (1 : Fin 2).val) < ((wCan.put (CAN_RXF_FILL 2 1) 5).put (CAN_RXF_GET 2 1) 6).canNf (2 : Fin 4).val (1 : Fin 2).val)
    ∧ ((1 : Word).toNat % 64 < ((wCan.put (CAN_RXF_FILL 2 1) 5).put (CAN_RXF_GET 2 1) 6).canNf (2 : Fin 4).val (1 : Fin 2).val)
    ∧ (((1 : Word).toNat % 64 + ((wCan.put (CAN_RXF_FILL 2 1) 5).put (CAN_RXF_GET 2 1) 6).canNf (2 : Fin 4).val (1 : Fin 2).val - ((wCan.put (CAN_RXF_FILL 2 1) 5).put (CAN_RXF_GET 2 1) 6).get (CAN_RXF_GET (2 : Fin 4).val (1 : Fin 2).val)) % ((wCan.put (CAN_RXF_FILL 2 1) 5).put (CAN_RXF_GET 2 1) 6).canNf (2 : Fin 4).val (1 : Fin 2).val ≤ ((wCan.put (CAN_RXF_FILL 2 1) 5).put (CAN_RXF_GET 2 1) 6).get (CAN_RXF_FILL (2 : Fin 4).val (1 : Fin 2).val)))
    ∧ ((((wCan.put (CAN_RXF_FILL 2 1) 5).put (CAN_RXF_GET 2 1) 6).Reaches (Initiator.kp : Initiator) (CAN_RXF (2 : Fin 4).val (1 : Fin 2).val).addr)
    ∧ (((wCan.put (CAN_RXF_FILL 2 1) 5).put (CAN_RXF_GET 2 1) 6).canNf (2 : Fin 4).val (1 : Fin 2).val ≤ (5 : Word).toNat % 64 ∨ ((wCan.put (CAN_RXF_FILL 2 1) 5).put (CAN_RXF_GET 2 1) 6).get (CAN_RXF_FILL (2 : Fin 4).val (1 : Fin 2).val) < ((5 : Word).toNat % 64 + ((wCan.put (CAN_RXF_FILL 2 1) 5).put (CAN_RXF_GET 2 1) 6).canNf (2 : Fin 4).val (1 : Fin 2).val - ((wCan.put (CAN_RXF_FILL 2 1) 5).put (CAN_RXF_GET 2 1) 6).get (CAN_RXF_GET (2 : Fin 4).val (1 : Fin 2).val)) % max 1 (((wCan.put (CAN_RXF_FILL 2 1) 5).put (CAN_RXF_GET 2 1) 6).canNf (2 : Fin 4).val (1 : Fin 2).val))) := by
  and_intros <;> decide +kernel

theorem witness_can_frames_are_stored_and_sent_part3 :
    ((((wCan.put (CAN_RXF_FILL 2 0) 5).put (CAN_CTRL_DMAEN 2) 1).can.length = 4)
    ∧ (((wCan.put (CAN_RXF_FILL 2 0) 5).put (CAN_CTRL_DMAEN 2) 1).answers (Initiator.kp : Initiator) (CAN_RXDMA (2 : Fin 4).val).addr = true)
    ∧ (((wCan.put (CAN_RXF_FILL 2 0) 5).put (CAN_CTRL_DMAEN 2) 1).busOk (Initiator.kp : Initiator) (CAN_RXDMA (2 : Fin 4).val).addr false = true)
    ∧ (((wCan.put (CAN_RXF_FILL 2 0) 5).put (CAN_CTRL_DMAEN 2) 1).canRxAsks (2 : Fin 4).val = true)
    ∧ (4 * ((((wCan.put (CAN_RXF_FILL 2 0) 5).put (CAN_CTRL_DMAEN 2) 1).canOf (2 : Fin 4).val).rxw + 1) < ((wCan.put (CAN_RXF_FILL 2 0) 5).put (CAN_CTRL_DMAEN 2) 1).canStride (2 : Fin 4).val))
    ∧ (((((wCan.put (CAN_RXF_FILL 2 0) 5).put (CAN_CTRL_DMAEN 2) 1).setCan 2 { Can.idle with live := 2, rxw := 15 }).can.length = 4)
    ∧ ((((wCan.put (CAN_RXF_FILL 2 0) 5).put (CAN_CTRL_DMAEN 2) 1).setCan 2 { Can.idle with live := 2, rxw := 15 }).answers (Initiator.kp : Initiator) (CAN_RXDMA (2 : Fin 4).val).addr = true)
    ∧ ((((wCan.put (CAN_RXF_FILL 2 0) 5).put (CAN_CTRL_DMAEN 2) 1).setCan 2 { Can.idle with live := 2, rxw := 15 }).busOk (Initiator.kp : Initiator) (CAN_RXDMA (2 : Fin 4).val).addr false = true)
    ∧ ((((wCan.put (CAN_RXF_FILL 2 0) 5).put (CAN_CTRL_DMAEN 2) 1).setCan 2 { Can.idle with live := 2, rxw := 15 }).canRxAsks (2 : Fin 4).val = true)
    ∧ ((((wCan.put (CAN_RXF_FILL 2 0) 5).put (CAN_CTRL_DMAEN 2) 1).setCan 2 { Can.idle with live := 2, rxw := 15 }).canStride (2 : Fin 4).val ≤ 4 * (((((wCan.put (CAN_RXF_FILL 2 0) 5).put (CAN_CTRL_DMAEN 2) 1).setCan 2 { Can.idle with live := 2, rxw := 15 }).canOf (2 : Fin 4).val).rxw + 1)))
    ∧ ((wCan.can.length = 4)
    ∧ (wCan.answers (Initiator.kp : Initiator) (CAN_RXDMA (2 : Fin 4).val).addr = true)
    ∧ (wCan.busOk (Initiator.kp : Initiator) (CAN_RXDMA (2 : Fin 4).val).addr false = true)
    ∧ (wCan.canRxAsks (2 : Fin 4).val = false))
    ∧ ((((wCan.put (CAN_CTRL_TXMODE 2) 1).setCan 2 { Can.idle with live := 2, txb := some (1, 3) }).can.length = 4)
    ∧ (((wCan.put (CAN_CTRL_TXMODE 2) 1).setCan 2 { Can.idle with live := 2, txb := some (1, 3) }).Reaches (Initiator.kp : Initiator) (CAN_TXDMA (2 : Fin 4).val).addr)
    ∧ (((wCan.put (CAN_CTRL_TXMODE 2) 1).setCan 2 { Can.idle with live := 2, txb := some (1, 3) }).is (CAN_CTRL_TXMODE (2 : Fin 4).val) = true)
    ∧ ((((wCan.put (CAN_CTRL_TXMODE 2) 1).setCan 2 { Can.idle with live := 2, txb := some (1, 3) }).canOf (2 : Fin 4).val).txb = some ((1 : Nat), (3 : Nat)))
    ∧ (4 * ((3 : Nat) + 1) < ((wCan.put (CAN_CTRL_TXMODE 2) 1).setCan 2 { Can.idle with live := 2, txb := some (1, 3) }).canStride (2 : Fin 4).val))
    ∧ ((((wCan.put (CAN_CTRL_TXMODE 2) 1).setCan 2 { Can.idle with live := 2, txb := some (1, 15) }).can.length = 4)
    ∧ (((wCan.put (CAN_CTRL_TXMODE 2) 1).setCan 2 { Can.idle with live := 2, txb := some (1, 15) }).Reaches (Initiator.kp : Initiator) (CAN_TXDMA (2 : Fin 4).val).addr)
    ∧ (((wCan.put (CAN_CTRL_TXMODE 2) 1).setCan 2 { Can.idle with live := 2, txb := some (1, 15) }).is (CAN_CTRL_TXMODE (2 : Fin 4).val) = true)
    ∧ ((((wCan.put (CAN_CTRL_TXMODE 2) 1).setCan 2 { Can.idle with live := 2, txb := some (1, 15) }).canOf (2 : Fin 4).val).txb = some ((1 : Fin 28).val, (15 : Nat)))
    ∧ (((wCan.put (CAN_CTRL_TXMODE 2) 1).setCan 2 { Can.idle with live := 2, txb := some (1, 15) }).canStride (2 : Fin 4).val ≤ 4 * ((15 : Nat) + 1))
    ∧ ((1 : Fin 28).val < ((wCan.put (CAN_CTRL_TXMODE 2) 1).setCan 2 { Can.idle with live := 2, txb := some (1, 15) }).canNtx (2 : Fin 4).val)
    ∧ (bitOf (1 : Fin 28).val (((wCan.put (CAN_CTRL_TXMODE 2) 1).setCan 2 { Can.idle with live := 2, txb := some (1, 15) }).get (CAN_TXPEND_PEND (2 : Fin 4).val)) = false))
    ∧ (((wCan.put (CAN_CTRL_TXMODE 2) 1).can.length = 4)
    ∧ ((wCan.put (CAN_CTRL_TXMODE 2) 1).Reaches (Initiator.kp : Initiator) (CAN_TXDMA (2 : Fin 4).val).addr)
    ∧ ((wCan.put (CAN_CTRL_TXMODE 2) 1).is (CAN_CTRL_TXMODE (2 : Fin 4).val) = true)
    ∧ (((wCan.put (CAN_CTRL_TXMODE 2) 1).canOf (2 : Fin 4).val).txb = none)
    ∧ ((wCan.put (CAN_CTRL_TXMODE 2) 1).canFree (2 : Fin 4).val ≠ [])) := by
  and_intros <;> decide +kernel

theorem witness_can_frames_are_stored_and_sent_part4 :
    ((wCan.can.length = 4)
    ∧ (wCan.Reaches (Initiator.kp : Initiator) (CAN_TXDMA (2 : Fin 4).val).addr)
    ∧ (wCan.is (CAN_CTRL_TXMODE (2 : Fin 4).val) = false ∨ ((wCan.canOf (2 : Fin 4).val).txb = none ∧ wCan.canFree (2 : Fin 4).val = [])))
    ∧ ((wCan.can.length = 4)
    ∧ (wCan.Reaches (Initiator.kp : Initiator) (CAN_TXDMA (2 : Fin 4).val).addr))
    ∧ (((wCan.put (CAN_TXPEND_PEND 2) 1).can.length = 4)
    ∧ ((wCan.put (CAN_TXPEND_PEND 2) 1).Reaches (Initiator.kp : Initiator) (CAN_TXREQ (2 : Fin 4).val).addr))
    ∧ ((wCan.can.length = 4)
    ∧ (wCan.Reaches (Initiator.kp : Initiator) (CAN_TXREQ (2 : Fin 4).val).addr))
    ∧ ((((wCan.put (CAN_TXPEND_PEND 2) 0x15).setCan 2 { Can.idle with live := 2, order := [2], att := some 2, tec := 9 }).can.length = 4)
    ∧ (((wCan.put (CAN_TXPEND_PEND 2) 0x15).setCan 2 { Can.idle with live := 2, order := [2], att := some 2, tec := 9 }).Reaches (Initiator.kp : Initiator) (CAN_TXCNCL (2 : Fin 4).val).addr))
    ∧ ((wCan.can.length = 4)
    ∧ (wCan.Reaches (Initiator.kp : Initiator) (CAN_TXCNCL (2 : Fin 4).val).addr)) := by
  and_intros <;> decide +kernel

theorem witness_can_frames_are_stored_and_sent_part5 :
    ((((wCan.put (CAN_TXPEND_PEND 2) 4).setCan 2 { Can.idle with live := 2, order := [2], att := some 2, tec := 9 }).can.length = 4)
    ∧ (((wCan.put (CAN_TXPEND_PEND 2) 4).setCan 2 { Can.idle with live := 2, order := [2], att := some 2, tec := 9 }).canSends (2 : Fin 4).val = true)
    ∧ (((wCan.put (CAN_TXPEND_PEND 2) 4).setCan 2 { Can.idle with live := 2, order := [2], att := some 2, tec := 9 }).pllA = true)
    ∧ ((((wCan.put (CAN_TXPEND_PEND 2) 4).setCan 2 { Can.idle with live := 2, order := [2], att := some 2, tec := 9 }).canOf (2 : Fin 4).val).att.or (((wCan.put (CAN_TXPEND_PEND 2) 4).setCan 2 { Can.idle with live := 2, order := [2], att := some 2, tec := 9 }).canOffer (2 : Fin 4).val) = some (2 : Fin 28).val)
    ∧ ((((wCan.put (CAN_TXPEND_PEND 2) 4).setCan 2 { Can.idle with live := 2, order := [2], att := some 2, tec := 9 }).canOf (2 : Fin 4).val).stopAt = false)
    ∧ ((((wCan.put (CAN_TXPEND_PEND 2) 4).setCan 2 { Can.idle with live := 2, order := [2], att := some 2, tec := 9 }).canOf (2 : Fin 4).val).tec < 120)
    ∧ ((((wCan.put (CAN_TXPEND_PEND 2) 4).setCan 2 { Can.idle with live := 2, order := [2], att := some 2, tec := 9 }).canOf (2 : Fin 4).val).recv < 128))
    ∧ ((((wCan.put (CAN_TXPEND_PEND 2) 4).setCan 2 { Can.idle with live := 2, order := [2], att := some 2, tec := 9, late := 4 }).can.length = 4)
    ∧ (((wCan.put (CAN_TXPEND_PEND 2) 4).setCan 2 { Can.idle with live := 2, order := [2], att := some 2, tec := 9, late := 4 }).canSends (2 : Fin 4).val = true)
    ∧ (((wCan.put (CAN_TXPEND_PEND 2) 4).setCan 2 { Can.idle with live := 2, order := [2], att := some 2, tec := 9, late := 4 }).pllA = true)
    ∧ ((((wCan.put (CAN_TXPEND_PEND 2) 4).setCan 2 { Can.idle with live := 2, order := [2], att := some 2, tec := 9, late := 4 }).canOf (2 : Fin 4).val).att.or (((wCan.put (CAN_TXPEND_PEND 2) 4).setCan 2 { Can.idle with live := 2, order := [2], att := some 2, tec := 9, late := 4 }).canOffer (2 : Fin 4).val) = some (2 : Fin 28).val)
    ∧ ((((wCan.put (CAN_TXPEND_PEND 2) 4).setCan 2 { Can.idle with live := 2, order := [2], att := some 2, tec := 9, late := 4 }).canOf (2 : Fin 4).val).stopAt = false)
    ∧ (bitOf (2 : Fin 28).val (((wCan.put (CAN_TXPEND_PEND 2) 4).setCan 2 { Can.idle with live := 2, order := [2], att := some 2, tec := 9, late := 4 }).canOf (2 : Fin 4).val).late = true ∨ (((wCan.put (CAN_TXPEND_PEND 2) 4).setCan 2 { Can.idle with live := 2, order := [2], att := some 2, tec := 9, late := 4 }).canOneshot (2 : Fin 4).val (2 : Fin 28).val || ((wCan.put (CAN_TXPEND_PEND 2) 4).setCan 2 { Can.idle with live := 2, order := [2], att := some 2, tec := 9, late := 4 }).is (CAN_CTRL_DAR (2 : Fin 4).val)) = true))
    ∧ ((((wCan.put (CAN_TXPEND_PEND 2) 4).setCan 2 { Can.idle with live := 2, order := [2], att := some 2, tec := 9 }).can.length = 4)
    ∧ (((wCan.put (CAN_TXPEND_PEND 2) 4).setCan 2 { Can.idle with live := 2, order := [2], att := some 2, tec := 9 }).canSends (2 : Fin 4).val = true)
    ∧ (((wCan.put (CAN_TXPEND_PEND 2) 4).setCan 2 { Can.idle with live := 2, order := [2], att := some 2, tec := 9 }).pllA = true)
    ∧ ((((wCan.put (CAN_TXPEND_PEND 2) 4).setCan 2 { Can.idle with live := 2, order := [2], att := some 2, tec := 9 }).canOf (2 : Fin 4).val).att.or (((wCan.put (CAN_TXPEND_PEND 2) 4).setCan 2 { Can.idle with live := 2, order := [2], att := some 2, tec := 9 }).canOffer (2 : Fin 4).val) = some (2 : Fin 28).val)
    ∧ ((((wCan.put (CAN_TXPEND_PEND 2) 4).setCan 2 { Can.idle with live := 2, order := [2], att := some 2, tec := 9 }).canOf (2 : Fin 4).val).stopAt = false)
    ∧ (bitOf (2 : Fin 28).val (((wCan.put (CAN_TXPEND_PEND 2) 4).setCan 2 { Can.idle with live := 2, order := [2], att := some 2, tec := 9 }).canOf (2 : Fin 4).val).late = false)
    ∧ ((((wCan.put (CAN_TXPEND_PEND 2) 4).setCan 2 { Can.idle with live := 2, order := [2], att := some 2, tec := 9 }).canOneshot (2 : Fin 4).val (2 : Fin 28).val || ((wCan.put (CAN_TXPEND_PEND 2) 4).setCan 2 { Can.idle with live := 2, order := [2], att := some 2, tec := 9 }).is (CAN_CTRL_DAR (2 : Fin 4).val)) = false))
    ∧ ((((wCan.put (CAN_TXPEND_PEND 2) 4).setCan 2 { Can.idle with live := 2, order := [2], att := some 2, tec := 9, late := 4 }).can.length = 4)
    ∧ (((wCan.put (CAN_TXPEND_PEND 2) 4).setCan 2 { Can.idle with live := 2, order := [2], att := some 2, tec := 9, late := 4 }).canSends (2 : Fin 4).val = true)
    ∧ (((wCan.put (CAN_TXPEND_PEND 2) 4).setCan 2 { Can.idle with live := 2, order := [2], att := some 2, tec := 9, late := 4 }).pllA = true)
    ∧ ((((wCan.put (CAN_TXPEND_PEND 2) 4).setCan 2 { Can.idle with live := 2, order := [2], att := some 2, tec := 9, late := 4 }).canOf (2 : Fin 4).val).att.or (((wCan.put (CAN_TXPEND_PEND 2) 4).setCan 2 { Can.idle with live := 2, order := [2], att := some 2, tec := 9, late := 4 }).canOffer (2 : Fin 4).val) = some (2 : Fin 28).val)
    ∧ ((((wCan.put (CAN_TXPEND_PEND 2) 4).setCan 2 { Can.idle with live := 2, order := [2], att := some 2, tec := 9, late := 4 }).canOf (2 : Fin 4).val).stopAt = false)
    ∧ (bitOf (2 : Fin 28).val (((wCan.put (CAN_TXPEND_PEND 2) 4).setCan 2 { Can.idle with live := 2, order := [2], att := some 2, tec := 9, late := 4 }).canOf (2 : Fin 4).val).late = true ∨ (((wCan.put (CAN_TXPEND_PEND 2) 4).setCan 2 { Can.idle with live := 2, order := [2], att := some 2, tec := 9, late := 4 }).canOneshot (2 : Fin 4).val (2 : Fin 28).val || ((wCan.put (CAN_TXPEND_PEND 2) 4).setCan 2 { Can.idle with live := 2, order := [2], att := some 2, tec := 9, late := 4 }).is (CAN_CTRL_DAR (2 : Fin 4).val)) = true)
    ∧ ((((wCan.put (CAN_TXPEND_PEND 2) 4).setCan 2 { Can.idle with live := 2, order := [2], att := some 2, tec := 9, late := 4 }).canOf (2 : Fin 4).val).tec < 120)
    ∧ ((((wCan.put (CAN_TXPEND_PEND 2) 4).setCan 2 { Can.idle with live := 2, order := [2], att := some 2, tec := 9, late := 4 }).canOf (2 : Fin 4).val).recv < 128))
    ∧ ((((wCan.put (CAN_TXPEND_PEND 2) 4).setCan 2 { Can.idle with live := 2, order := [2], att := some 2, tec := 9 }).can.length = 4)
    ∧ (((wCan.put (CAN_TXPEND_PEND 2) 4).setCan 2 { Can.idle with live := 2, order := [2], att := some 2, tec := 9 }).canSends (2 : Fin 4).val = true)
    ∧ (((wCan.put (CAN_TXPEND_PEND 2) 4).setCan 2 { Can.idle with live := 2, order := [2], att := some 2, tec := 9 }).pllA = true)
    ∧ ((((wCan.put (CAN_TXPEND_PEND 2) 4).setCan 2 { Can.idle with live := 2, order := [2], att := some 2, tec := 9 }).canOf (2 : Fin 4).val).att.or (((wCan.put (CAN_TXPEND_PEND 2) 4).setCan 2 { Can.idle with live := 2, order := [2], att := some 2, tec := 9 }).canOffer (2 : Fin 4).val) = some (2 : Fin 28).val)
    ∧ ((((wCan.put (CAN_TXPEND_PEND 2) 4).setCan 2 { Can.idle with live := 2, order := [2], att := some 2, tec := 9 }).canOf (2 : Fin 4).val).stopAt = false)
    ∧ (bitOf (2 : Fin 28).val (((wCan.put (CAN_TXPEND_PEND 2) 4).setCan 2 { Can.idle with live := 2, order := [2], att := some 2, tec := 9 }).canOf (2 : Fin 4).val).late = false)
    ∧ ((((wCan.put (CAN_TXPEND_PEND 2) 4).setCan 2 { Can.idle with live := 2, order := [2], att := some 2, tec := 9 }).canOneshot (2 : Fin 4).val (2 : Fin 28).val || ((wCan.put (CAN_TXPEND_PEND 2) 4).setCan 2 { Can.idle with live := 2, order := [2], att := some 2, tec := 9 }).is (CAN_CTRL_DAR (2 : Fin 4).val)) = false)
    ∧ ((((wCan.put (CAN_TXPEND_PEND 2) 4).setCan 2 { Can.idle with live := 2, order := [2], att := some 2, tec := 9 }).canOf (2 : Fin 4).val).tec < 120)
    ∧ ((((wCan.put (CAN_TXPEND_PEND 2) 4).setCan 2 { Can.idle with live := 2, order := [2], att := some 2, tec := 9 }).canOf (2 : Fin 4).val).recv < 128))
    ∧ ((((wCan.put (CAN_TXPEND_PEND 2) 4).setCan 2 { Can.idle with live := 2, order := [2], att := some 2, tec := 9 }).can.length = 4)
    ∧ (((wCan.put (CAN_TXPEND_PEND 2) 4).setCan 2 { Can.idle with live := 2, order := [2], att := some 2, tec := 9 }).canSends (2 : Fin 4).val = true)
    ∧ (((wCan.put (CAN_TXPEND_PEND 2) 4).setCan 2 { Can.idle with live := 2, order := [2], att := some 2, tec := 9 }).pllA = true)
    ∧ ((((wCan.put (CAN_TXPEND_PEND 2) 4).setCan 2 { Can.idle with live := 2, order := [2], att := some 2, tec := 9 }).canOf (2 : Fin 4).val).att.or (((wCan.put (CAN_TXPEND_PEND 2) 4).setCan 2 { Can.idle with live := 2, order := [2], att := some 2, tec := 9 }).canOffer (2 : Fin 4).val) = some (2 : Fin 28).val)
    ∧ ((((wCan.put (CAN_TXPEND_PEND 2) 4).setCan 2 { Can.idle with live := 2, order := [2], att := some 2, tec := 9 }).canOf (2 : Fin 4).val).stopAt = false)
    ∧ ((((wCan.put (CAN_TXPEND_PEND 2) 4).setCan 2 { Can.idle with live := 2, order := [2], att := some 2, tec := 9 }).canOf (2 : Fin 4).val).tec < 120)
    ∧ ((((wCan.put (CAN_TXPEND_PEND 2) 4).setCan 2 { Can.idle with live := 2, order := [2], att := some 2, tec := 9 }).canOf (2 : Fin 4).val).recv < 128)) := by
  and_intros <;> decide +kernel

theorem witness_can_frames_are_stored_and_sent_part6 :
    ((((wCan.put (CAN_TXPEND_PEND 2) 4).setCan 2 { Can.idle with live := 2, order := [2], att := some 2, tec := 250 } |>.put (CAN_CTRL_BOABT 2) 1).can.length = 4)
    ∧ (((wCan.put (CAN_TXPEND_PEND 2) 4).setCan 2 { Can.idle with live := 2, order := [2], att := some 2, tec := 250 } |>.put (CAN_CTRL_BOABT 2) 1).canSends (2 : Fin 4).val = true)
    ∧ (((wCan.put (CAN_TXPEND_PEND 2) 4).setCan 2 { Can.idle with live := 2, order := [2], att := some 2, tec := 250 } |>.put (CAN_CTRL_BOABT 2) 1).pllA = true)
    ∧ ((((wCan.put (CAN_TXPEND_PEND 2) 4).setCan 2 { Can.idle with live := 2, order := [2], att := some 2, tec := 250 } |>.put (CAN_CTRL_BOABT 2) 1).canOf (2 : Fin 4).val).att.or (((wCan.put (CAN_TXPEND_PEND 2) 4).setCan 2 { Can.idle with live := 2, order := [2], att := some 2, tec := 250 } |>.put (CAN_CTRL_BOABT 2) 1).canOffer (2 : Fin 4).val) = some (2 : Fin 28).val)
    ∧ ((((wCan.put (CAN_TXPEND_PEND 2) 4).setCan 2 { Can.idle with live := 2, order := [2], att := some 2, tec := 250 } |>.put (CAN_CTRL_BOABT 2) 1).canOf (2 : Fin 4).val).stopAt = false)
    ∧ (247 < (((wCan.put (CAN_TXPEND_PEND 2) 4).setCan 2 { Can.idle with live := 2, order := [2], att := some 2, tec := 250 } |>.put (CAN_CTRL_BOABT 2) 1).canOf (2 : Fin 4).val).tec)
    ∧ ((((wCan.put (CAN_TXPEND_PEND 2) 4).setCan 2 { Can.idle with live := 2, order := [2], att := some 2, tec := 250 } |>.put (CAN_CTRL_BOABT 2) 1).canOf (2 : Fin 4).val).recv ≤ 127))
    ∧ ((((wCan.put CANG_TMCFG_EN 1).put CANG_TMCFG_BUS 2 |>.setCanTm ⟨some false, true, 0, 77, []⟩).can.length = 4)
    ∧ (((wCan.put CANG_TMCFG_EN 1).put CANG_TMCFG_BUS 2 |>.setCanTm ⟨some false, true, 0, 77, []⟩).canSends (2 : Fin 4).val = true)
    ∧ (((wCan.put CANG_TMCFG_EN 1).put CANG_TMCFG_BUS 2 |>.setCanTm ⟨some false, true, 0, 77, []⟩).pllA = true)
    ∧ ((((wCan.put CANG_TMCFG_EN 1).put CANG_TMCFG_BUS 2 |>.setCanTm ⟨some false, true, 0, 77, []⟩).canOf (2 : Fin 4).val).att.or (((wCan.put CANG_TMCFG_EN 1).put CANG_TMCFG_BUS 2 |>.setCanTm ⟨some false, true, 0, 77, []⟩).canOffer (2 : Fin 4).val) = some 28)
    ∧ ((((wCan.put CANG_TMCFG_EN 1).put CANG_TMCFG_BUS 2 |>.setCanTm ⟨some false, true, 0, 77, []⟩).canOf (2 : Fin 4).val).stopAt = false)
    ∧ ((((wCan.put CANG_TMCFG_EN 1).put CANG_TMCFG_BUS 2 |>.setCanTm ⟨some false, true, 0, 77, []⟩).canOf (2 : Fin 4).val).tec < 120)
    ∧ ((((wCan.put CANG_TMCFG_EN 1).put CANG_TMCFG_BUS 2 |>.setCanTm ⟨some false, true, 0, 77, []⟩).canOf (2 : Fin 4).val).recv < 128)
    ∧ (((wCan.put CANG_TMCFG_EN 1).put CANG_TMCFG_BUS 2 |>.setCanTm ⟨some false, true, 0, 77, []⟩).canTm.due = some false))
    ∧ ((((wCan.put CANG_TMCFG_EN 1).put CANG_TMCFG_BUS 2 |>.setCanTm ⟨some true, true, 0, 77, []⟩).can.length = 4)
    ∧ (((wCan.put CANG_TMCFG_EN 1).put CANG_TMCFG_BUS 2 |>.setCanTm ⟨some true, true, 0, 77, []⟩).canSends (2 : Fin 4).val = true)
    ∧ (((wCan.put CANG_TMCFG_EN 1).put CANG_TMCFG_BUS 2 |>.setCanTm ⟨some true, true, 0, 77, []⟩).pllA = true)
    ∧ ((((wCan.put CANG_TMCFG_EN 1).put CANG_TMCFG_BUS 2 |>.setCanTm ⟨some true, true, 0, 77, []⟩).canOf (2 : Fin 4).val).att.or (((wCan.put CANG_TMCFG_EN 1).put CANG_TMCFG_BUS 2 |>.setCanTm ⟨some true, true, 0, 77, []⟩).canOffer (2 : Fin 4).val) = some 28)
    ∧ ((((wCan.put CANG_TMCFG_EN 1).put CANG_TMCFG_BUS 2 |>.setCanTm ⟨some true, true, 0, 77, []⟩).canOf (2 : Fin 4).val).stopAt = false)
    ∧ ((((wCan.put CANG_TMCFG_EN 1).put CANG_TMCFG_BUS 2 |>.setCanTm ⟨some true, true, 0, 77, []⟩).canOf (2 : Fin 4).val).tec < 120)
    ∧ ((((wCan.put CANG_TMCFG_EN 1).put CANG_TMCFG_BUS 2 |>.setCanTm ⟨some true, true, 0, 77, []⟩).canOf (2 : Fin 4).val).recv < 128)
    ∧ (((wCan.put CANG_TMCFG_EN 1).put CANG_TMCFG_BUS 2 |>.setCanTm ⟨some true, true, 0, 77, []⟩).canTm.due = some true))
    ∧ ((((wCan.put (CAN_TXPEND_PEND 2) 4).setCan 2 { Can.idle with live := 2, order := [2], att := some 2, tec := 9 } |>.put (KCP_CAN_EN 2) 1).can.length = 4)
    ∧ (((wCan.put (CAN_TXPEND_PEND 2) 4).setCan 2 { Can.idle with live := 2, order := [2], att := some 2, tec := 9 } |>.put (KCP_CAN_EN 2) 1).canSends (2 : Fin 4).val = true)
    ∧ (((wCan.put (CAN_TXPEND_PEND 2) 4).setCan 2 { Can.idle with live := 2, order := [2], att := some 2, tec := 9 } |>.put (KCP_CAN_EN 2) 1).pllA = true)
    ∧ (((wCan.put (CAN_TXPEND_PEND 2) 4).setCan 2 { Can.idle with live := 2, order := [2], att := some 2, tec := 9 } |>.put (KCP_CAN_EN 2) 1).is (KCP_CAN_EN (2 : Fin 4).val) = true)
    ∧ ((((wCan.put (CAN_TXPEND_PEND 2) 4).setCan 2 { Can.idle with live := 2, order := [2], att := some 2, tec := 9 } |>.put (KCP_CAN_EN 2) 1).canOf (2 : Fin 4).val).stopAt = false)
    ∧ ((((wCan.put (CAN_TXPEND_PEND 2) 4).setCan 2 { Can.idle with live := 2, order := [2], att := some 2, tec := 9 } |>.put (KCP_CAN_EN 2) 1).canOf (2 : Fin 4).val).tec < 120)
    ∧ ((((wCan.put (CAN_TXPEND_PEND 2) 4).setCan 2 { Can.idle with live := 2, order := [2], att := some 2, tec := 9 } |>.put (KCP_CAN_EN 2) 1).canOf (2 : Fin 4).val).recv < 128))
    ∧ ((wCan.canSends (2 : Fin 4).val = false ∨ wCan.pllA = false ∨ ((true : Bool) = true ∧ wCan.is (KCP_CAN_EN (2 : Fin 4).val) = false) ∨ ((true : Bool) = false ∧ (wCan.canOf (2 : Fin 4).val).att.or (wCan.canOffer (2 : Fin 4).val) = none)))
    ∧ ((((wCan.put (CAN_TXPEND_PEND 2) 4).setCan 2 { Can.idle with live := 2, order := [2], att := some 2, tec := 9, stopAt := true }).can.length = 4)
    ∧ (((wCan.put (CAN_TXPEND_PEND 2) 4).setCan 2 { Can.idle with live := 2, order := [2], att := some 2, tec := 9, stopAt := true }).canSends (2 : Fin 4).val = true)
    ∧ (((wCan.put (CAN_TXPEND_PEND 2) 4).setCan 2 { Can.idle with live := 2, order := [2], att := some 2, tec := 9, stopAt := true }).pllA = true)
    ∧ ((((wCan.put (CAN_TXPEND_PEND 2) 4).setCan 2 { Can.idle with live := 2, order := [2], att := some 2, tec := 9, stopAt := true }).canOf (2 : Fin 4).val).att.or (((wCan.put (CAN_TXPEND_PEND 2) 4).setCan 2 { Can.idle with live := 2, order := [2], att := some 2, tec := 9, stopAt := true }).canOffer (2 : Fin 4).val) = some (2 : Fin 28).val)
    ∧ ((((wCan.put (CAN_TXPEND_PEND 2) 4).setCan 2 { Can.idle with live := 2, order := [2], att := some 2, tec := 9, stopAt := true }).canOf (2 : Fin 4).val).stopAt = true)) := by
  and_intros <;> decide +kernel

theorem witness_can_frames_are_stored_and_sent_part7 :
    ((((wCan.put (CAN_TXPEND_PEND 2) 4).canOf (2 : Fin 4).val).att = none)
    ∧ ((wCan.put (CAN_TXPEND_PEND 2) 4).canSends (2 : Fin 4).val = true)
    ∧ ((wCan.put (CAN_TXPEND_PEND 2) 4).can.length = 4)) := by
  and_intros <;> decide +kernel

theorem witness_ethernet_serves_the_device_and_keeps_time :
    ((wEth.isOn 13 = true))
    ∧ ((({ wEth with on := 0x1FFF }).isOn 13 = false))
    ∧ ((wOn.ethClocked = false ∨ wOn.portUp (1 : Fin 2).val = false))
    ∧ ((wEth.ethClocked = true)
    ∧ (wEth.portUp (0 : Fin 2).val = true)
    ∧ (1518 < (List.replicate 1519 0 : List Byte).length))
    ∧ (((List.replicate 59 0 : List Byte).length < 60))
    ∧ ((((((wEth.put ETH_MAC0_MAC 0x02000000).put ETH_MAC1_MAC 9).put (ETH_APPFLT_EN 1) 1).put (ETH_APPFLT_VALUE 1) 0x1234).ethClocked = true)
    ∧ (((((wEth.put ETH_MAC0_MAC 0x02000000).put ETH_MAC1_MAC 9).put (ETH_APPFLT_EN 1) 1).put (ETH_APPFLT_VALUE 1) 0x1234).portUp (0 : Fin 2).val = true)
    ∧ (60 ≤ (([1, 0x80, 0xC2, 0, 0, 14, 2, 0, 0, 0, 0, 1, 0x12, 0x34] ++ List.replicate 46 0) : List Byte).length)
    ∧ ((([1, 0x80, 0xC2, 0, 0, 14, 2, 0, 0, 0, 0, 1, 0x12, 0x34] ++ List.replicate 46 0) : List Byte).length ≤ 1518)
    ∧ (isLinkLocal (frDst (([1, 0x80, 0xC2, 0, 0, 14, 2, 0, 0, 0, 0, 1, 0x12, 0x34] ++ List.replicate 46 0) : List Byte)) = true)) := by
  and_intros <;> decide +kernel

theorem witness_ethernet_serves_the_device_and_keeps_time_part2 :
    ((wEth.ethClocked = true)
    ∧ (wEth.portUp (0 : Fin 2).val = true)
    ∧ (60 ≤ (wBytes : List Byte).length)
    ∧ ((wBytes : List Byte).length ≤ 1518)
    ∧ (isLinkLocal (frDst (wBytes : List Byte)) = false)
    ∧ (wEth.vlanOf (wEth.frClass (0 : Fin 2).val (wBytes : List Byte)).1 = none))
    ∧ ((((wEth.put (ETHSW_VLAN_MEMB 0) 3).put (ETHSW_PVID_PVID 0) 1).ethClocked = true)
    ∧ (((wEth.put (ETHSW_VLAN_MEMB 0) 3).put (ETHSW_PVID_PVID 0) 1).portUp (0 : Fin 2).val = true)
    ∧ (60 ≤ (wBytes : List Byte).length)
    ∧ ((wBytes : List Byte).length ≤ 1518)
    ∧ (isLinkLocal (frDst (wBytes : List Byte)) = false)
    ∧ (((wEth.put (ETHSW_VLAN_MEMB 0) 3).put (ETHSW_PVID_PVID 0) 1).vlanOf (((wEth.put (ETHSW_VLAN_MEMB 0) 3).put (ETHSW_PVID_PVID 0) 1).frClass (0 : Fin 2).val (wBytes : List Byte)).1 = some (0 : Nat))
    ∧ (isMulticast (frDst (wBytes : List Byte)) = true ∨ (frDst (wBytes : List Byte) ≠ ((wEth.put (ETHSW_VLAN_MEMB 0) 3).put (ETHSW_PVID_PVID 0) 1).devMac ∧ (let r := ((wEth.put (ETHSW_VLAN_MEMB 0) 3).put (ETHSW_PVID_PVID 0) 1).eth.table.filter (fun (e : Nat × Nat × Nat) => e.1 != frSrc (wBytes : List Byte)); if isMulticast (frSrc (wBytes : List Byte)) || decide (256 ≤ r.length) then ((wEth.put (ETHSW_VLAN_MEMB 0) 3).put (ETHSW_PVID_PVID 0) 1).eth.table else r ++ [(frSrc (wBytes : List Byte), (0 : Fin 2).val, ((wEth.put (ETHSW_VLAN_MEMB 0) 3).put (ETHSW_PVID_PVID 0) 1).now)]).all (fun e => e.1 != frDst (wBytes : List Byte)) = true))
    ∧ (((wEth.put (ETHSW_VLAN_MEMB 0) 3).put (ETHSW_PVID_PVID 0) 1).bit (ETHSW_VLAN_MEMB (0 : Nat)) 2 = false ∨ (7 : BitVec 3).getLsbD 2 = false)
    ∧ (((wEth.put (ETHSW_VLAN_MEMB 0) 3).put (ETHSW_PVID_PVID 0) 1).bit (ETHSW_VLAN_MEMB (0 : Nat)) (1 - (0 : Fin 2).val) = true → (7 : BitVec 3).getLsbD (1 - (0 : Fin 2).val) = true))
    ∧ (((((((wEth.put ETH_MAC0_MAC 0x02000000).put ETH_MAC1_MAC 9).put (ETH_APPFLT_EN 1) 1).put (ETH_APPFLT_VALUE 1) 0x1234).put (ETHSW_PVID_PVID 0) 1).ethClocked = true)
    ∧ ((((((wEth.put ETH_MAC0_MAC 0x02000000).put ETH_MAC1_MAC 9).put (ETH_APPFLT_EN 1) 1).put (ETH_APPFLT_VALUE 1) 0x1234).put (ETHSW_PVID_PVID 0) 1).portUp (0 : Fin 2).val = true)
    ∧ (60 ≤ (([2, 0, 0, 0, 0, 7, 2, 0, 0, 0, 0, 1, 0x12, 0x34] ++ List.replicate 46 0) : List Byte).length)
    ∧ ((([2, 0, 0, 0, 0, 7, 2, 0, 0, 0, 0, 1, 0x12, 0x34] ++ List.replicate 46 0) : List Byte).length ≤ 1518)
    ∧ (isLinkLocal (frDst (([2, 0, 0, 0, 0, 7, 2, 0, 0, 0, 0, 1, 0x12, 0x34] ++ List.replicate 46 0) : List Byte)) = false)
    ∧ ((((((wEth.put ETH_MAC0_MAC 0x02000000).put ETH_MAC1_MAC 9).put (ETH_APPFLT_EN 1) 1).put (ETH_APPFLT_VALUE 1) 0x1234).put (ETHSW_PVID_PVID 0) 1).vlanOf ((((((wEth.put ETH_MAC0_MAC 0x02000000).put ETH_MAC1_MAC 9).put (ETH_APPFLT_EN 1) 1).put (ETH_APPFLT_VALUE 1) 0x1234).put (ETHSW_PVID_PVID 0) 1).frClass (0 : Fin 2).val (([2, 0, 0, 0, 0, 7, 2, 0, 0, 0, 0, 1, 0x12, 0x34] ++ List.replicate 46 0) : List Byte)).1 = some (0 : Nat))
    ∧ (isMulticast (frDst (([2, 0, 0, 0, 0, 7, 2, 0, 0, 0, 0, 1, 0x12, 0x34] ++ List.replicate 46 0) : List Byte)) = true ∨ (frDst (([2, 0, 0, 0, 0, 7, 2, 0, 0, 0, 0, 1, 0x12, 0x34] ++ List.replicate 46 0) : List Byte) ≠ (((((wEth.put ETH_MAC0_MAC 0x02000000).put ETH_MAC1_MAC 9).put (ETH_APPFLT_EN 1) 1).put (ETH_APPFLT_VALUE 1) 0x1234).put (ETHSW_PVID_PVID 0) 1).devMac ∧ (let r := (((((wEth.put ETH_MAC0_MAC 0x02000000).put ETH_MAC1_MAC 9).put (ETH_APPFLT_EN 1) 1).put (ETH_APPFLT_VALUE 1) 0x1234).put (ETHSW_PVID_PVID 0) 1).eth.table.filter (fun (e : Nat × Nat × Nat) => e.1 != frSrc (([2, 0, 0, 0, 0, 7, 2, 0, 0, 0, 0, 1, 0x12, 0x34] ++ List.replicate 46 0) : List Byte)); if isMulticast (frSrc (([2, 0, 0, 0, 0, 7, 2, 0, 0, 0, 0, 1, 0x12, 0x34] ++ List.replicate 46 0) : List Byte)) || decide (256 ≤ r.length) then (((((wEth.put ETH_MAC0_MAC 0x02000000).put ETH_MAC1_MAC 9).put (ETH_APPFLT_EN 1) 1).put (ETH_APPFLT_VALUE 1) 0x1234).put (ETHSW_PVID_PVID 0) 1).eth.table else r ++ [(frSrc (([2, 0, 0, 0, 0, 7, 2, 0, 0, 0, 0, 1, 0x12, 0x34] ++ List.replicate 46 0) : List Byte), (0 : Fin 2).val, (((((wEth.put ETH_MAC0_MAC 0x02000000).put ETH_MAC1_MAC 9).put (ETH_APPFLT_EN 1) 1).put (ETH_APPFLT_VALUE 1) 0x1234).put (ETHSW_PVID_PVID 0) 1).now)]).all (fun e => e.1 != frDst (([2, 0, 0, 0, 0, 7, 2, 0, 0, 0, 0, 1, 0x12, 0x34] ++ List.replicate 46 0) : List Byte)) = true))
    ∧ ((((((wEth.put ETH_MAC0_MAC 0x02000000).put ETH_MAC1_MAC 9).put (ETH_APPFLT_EN 1) 1).put (ETH_APPFLT_VALUE 1) 0x1234).put (ETHSW_PVID_PVID 0) 1).bit (ETHSW_VLAN_MEMB (0 : Nat)) 2 = true)
    ∧ ((7 : BitVec 3).getLsbD 2 = true)
    ∧ ((((((wEth.put ETH_MAC0_MAC 0x02000000).put ETH_MAC1_MAC 9).put (ETH_APPFLT_EN 1) 1).put (ETH_APPFLT_VALUE 1) 0x1234).put (ETHSW_PVID_PVID 0) 1).bit (ETHSW_VLAN_MEMB (0 : Nat)) (1 - (0 : Fin 2).val) = true → (7 : BitVec 3).getLsbD (1 - (0 : Fin 2).val) = true))
    ∧ ((((wEth.put (ETHSW_VLAN_MEMB 0) 3).put (ETHSW_PVID_PVID 0) 1).ethClocked = true)
    ∧ (((wEth.put (ETHSW_VLAN_MEMB 0) 3).put (ETHSW_PVID_PVID 0) 1).portUp (0 : Fin 2).val = true)
    ∧ (60 ≤ (wBytes : List Byte).length)
    ∧ ((wBytes : List Byte).length ≤ 1518)
    ∧ (isLinkLocal (frDst (wBytes : List Byte)) = false)
    ∧ (((wEth.put (ETHSW_VLAN_MEMB 0) 3).put (ETHSW_PVID_PVID 0) 1).vlanOf (((wEth.put (ETHSW_VLAN_MEMB 0) 3).put (ETHSW_PVID_PVID 0) 1).frClass (0 : Fin 2).val (wBytes : List Byte)).1 = some (0 : Nat))
    ∧ (isMulticast (frDst (wBytes : List Byte)) = true ∨ (frDst (wBytes : List Byte) ≠ ((wEth.put (ETHSW_VLAN_MEMB 0) 3).put (ETHSW_PVID_PVID 0) 1).devMac ∧ (let r := ((wEth.put (ETHSW_VLAN_MEMB 0) 3).put (ETHSW_PVID_PVID 0) 1).eth.table.filter (fun (e : Nat × Nat × Nat) => e.1 != frSrc (wBytes : List Byte)); if isMulticast (frSrc (wBytes : List Byte)) || decide (256 ≤ r.length) then ((wEth.put (ETHSW_VLAN_MEMB 0) 3).put (ETHSW_PVID_PVID 0) 1).eth.table else r ++ [(frSrc (wBytes : List Byte), (0 : Fin 2).val, ((wEth.put (ETHSW_VLAN_MEMB 0) 3).put (ETHSW_PVID_PVID 0) 1).now)]).all (fun e => e.1 != frDst (wBytes : List Byte)) = true))
    ∧ (((wEth.put (ETHSW_VLAN_MEMB 0) 3).put (ETHSW_PVID_PVID 0) 1).bit (ETHSW_VLAN_MEMB (0 : Nat)) 2 = false ∨ (4 : BitVec 3).getLsbD 2 = false)
    ∧ (((wEth.put (ETHSW_VLAN_MEMB 0) 3).put (ETHSW_PVID_PVID 0) 1).bit (ETHSW_VLAN_MEMB (0 : Nat)) (1 - (0 : Fin 2).val) = true)
    ∧ ((4 : BitVec 3).getLsbD (1 - (0 : Fin 2).val) = false))
    ∧ ((((wEth.setEth { Eth.idle with table := [(0x020000000007, 1, 5)] }).put (ETHSW_PVID_PVID 0) 1).ethClocked = true)
    ∧ (((wEth.setEth { Eth.idle with table := [(0x020000000007, 1, 5)] }).put (ETHSW_PVID_PVID 0) 1).portUp (0 : Fin 2).val = true)
    ∧ (60 ≤ (([2, 0, 0, 0, 0, 7, 2, 0, 0, 0, 0, 1, 0x12, 0x34] ++ List.replicate 46 0) : List Byte).length)
    ∧ ((([2, 0, 0, 0, 0, 7, 2, 0, 0, 0, 0, 1, 0x12, 0x34] ++ List.replicate 46 0) : List Byte).length ≤ 1518)
    ∧ (isLinkLocal (frDst (([2, 0, 0, 0, 0, 7, 2, 0, 0, 0, 0, 1, 0x12, 0x34] ++ List.replicate 46 0) : List Byte)) = false)
    ∧ (((wEth.setEth { Eth.idle with table := [(0x020000000007, 1, 5)] }).put (ETHSW_PVID_PVID 0) 1).vlanOf (((wEth.setEth { Eth.idle with table := [(0x020000000007, 1, 5)] }).put (ETHSW_PVID_PVID 0) 1).frClass (0 : Fin 2).val (([2, 0, 0, 0, 0, 7, 2, 0, 0, 0, 0, 1, 0x12, 0x34] ++ List.replicate 46 0) : List Byte)).1 = some (0 : Nat))
    ∧ (isMulticast (frDst (([2, 0, 0, 0, 0, 7, 2, 0, 0, 0, 0, 1, 0x12, 0x34] ++ List.replicate 46 0) : List Byte)) = false)
    ∧ (frDst (([2, 0, 0, 0, 0, 7, 2, 0, 0, 0, 0, 1, 0x12, 0x34] ++ List.replicate 46 0) : List Byte) ≠ ((wEth.setEth { Eth.idle with table := [(0x020000000007, 1, 5)] }).put (ETHSW_PVID_PVID 0) 1).devMac)
    ∧ ((let r := ((wEth.setEth { Eth.idle with table := [(0x020000000007, 1, 5)] }).put (ETHSW_PVID_PVID 0) 1).eth.table.filter (fun (e : Nat × Nat × Nat) => e.1 != frSrc (([2, 0, 0, 0, 0, 7, 2, 0, 0, 0, 0, 1, 0x12, 0x34] ++ List.replicate 46 0) : List Byte)); if isMulticast (frSrc (([2, 0, 0, 0, 0, 7, 2, 0, 0, 0, 0, 1, 0x12, 0x34] ++ List.replicate 46 0) : List Byte)) || decide (256 ≤ r.length) then ((wEth.setEth { Eth.idle with table := [(0x020000000007, 1, 5)] }).put (ETHSW_PVID_PVID 0) 1).eth.table else r ++ [(frSrc (([2, 0, 0, 0, 0, 7, 2, 0, 0, 0, 0, 1, 0x12, 0x34] ++ List.replicate 46 0) : List Byte), (0 : Fin 2).val, ((wEth.setEth { Eth.idle with table := [(0x020000000007, 1, 5)] }).put (ETHSW_PVID_PVID 0) 1).now)]).find? (fun e => e.1 == frDst (([2, 0, 0, 0, 0, 7, 2, 0, 0, 0, 0, 1, 0x12, 0x34] ++ List.replicate 46 0) : List Byte)) = some ((0x020000000007, 1, 5) : Nat × Nat × Nat))
    ∧ (((0x020000000007, 1, 5) : Nat × Nat × Nat).2.1 < 2)
    ∧ (((0x020000000007, 1, 5) : Nat × Nat × Nat).2.1 = (1 - (0 : Fin 2).val) → ((wEth.setEth { Eth.idle with table := [(0x020000000007, 1, 5)] }).put (ETHSW_PVID_PVID 0) 1).bit (ETHSW_VLAN_MEMB (0 : Nat)) (1 - (0 : Fin 2).val) = true → (7 : BitVec 3).getLsbD (1 - (0 : Fin 2).val) = true))
    ∧ (((((((wEth.put ETH_MAC0_MAC 0x02000000).put ETH_MAC1_MAC 9).put (ETH_APPFLT_EN 1) 1).put (ETH_APPFLT_VALUE 1) 0x1234).put (ETHSW_PVID_PVID 0) 1).ethClocked = true)
    ∧ ((((((wEth.put ETH_MAC0_MAC 0x02000000).put ETH_MAC1_MAC 9).put (ETH_APPFLT_EN 1) 1).put (ETH_APPFLT_VALUE 1) 0x1234).put (ETHSW_PVID_PVID 0) 1).portUp (0 : Fin 2).val = true)
    ∧ (60 ≤ (([2, 0, 0, 0, 0, 9, 2, 0, 0, 0, 0, 1, 0x12, 0x34] ++ List.replicate 46 0) : List Byte).length)
    ∧ ((([2, 0, 0, 0, 0, 9, 2, 0, 0, 0, 0, 1, 0x12, 0x34] ++ List.replicate 46 0) : List Byte).length ≤ 1518)
    ∧ (isLinkLocal (frDst (([2, 0, 0, 0, 0, 9, 2, 0, 0, 0, 0, 1, 0x12, 0x34] ++ List.replicate 46 0) : List Byte)) = false)
    ∧ ((((((wEth.put ETH_MAC0_MAC 0x02000000).put ETH_MAC1_MAC 9).put (ETH_APPFLT_EN 1) 1).put (ETH_APPFLT_VALUE 1) 0x1234).put (ETHSW_PVID_PVID 0) 1).vlanOf ((((((wEth.put ETH_MAC0_MAC 0x02000000).put ETH_MAC1_MAC 9).put (ETH_APPFLT_EN 1) 1).put (ETH_APPFLT_VALUE 1) 0x1234).put (ETHSW_PVID_PVID 0) 1).frClass (0 : Fin 2).val (([2, 0, 0, 0, 0, 9, 2, 0, 0, 0, 0, 1, 0x12, 0x34] ++ List.replicate 46 0) : List Byte)).1 = some (0 : Nat))
    ∧ (frDst (([2, 0, 0, 0, 0, 9, 2, 0, 0, 0, 0, 1, 0x12, 0x34] ++ List.replicate 46 0) : List Byte) = (((((wEth.put ETH_MAC0_MAC 0x02000000).put ETH_MAC1_MAC 9).put (ETH_APPFLT_EN 1) 1).put (ETH_APPFLT_VALUE 1) 0x1234).put (ETHSW_PVID_PVID 0) 1).devMac)
    ∧ (isMulticast (frDst (([2, 0, 0, 0, 0, 9, 2, 0, 0, 0, 0, 1, 0x12, 0x34] ++ List.replicate 46 0) : List Byte)) = false)
    ∧ ((((((wEth.put ETH_MAC0_MAC 0x02000000).put ETH_MAC1_MAC 9).put (ETH_APPFLT_EN 1) 1).put (ETH_APPFLT_VALUE 1) 0x1234).put (ETHSW_PVID_PVID 0) 1).bit (ETHSW_VLAN_MEMB (0 : Nat)) 2 = true)
    ∧ ((7 : BitVec 3).getLsbD 2 = true)) := by
  and_intros <;> decide +kernel

theorem witness_ethernet_serves_the_device_and_keeps_time_part3 :
    (((((((wEth.put ETH_MAC0_MAC 0x02000000).put ETH_MAC1_MAC 9).put (ETH_APPFLT_EN 1) 1).put (ETH_APPFLT_VALUE 1) 0x1234).put (ETHSW_PVID_PVID 0) 1).ethClocked = true)
    ∧ ((((((wEth.put ETH_MAC0_MAC 0x02000000).put ETH_MAC1_MAC 9).put (ETH_APPFLT_EN 1) 1).put (ETH_APPFLT_VALUE 1) 0x1234).put (ETHSW_PVID_PVID 0) 1).portUp (0 : Fin 2).val = true)
    ∧ (60 ≤ (([2, 0, 0, 0, 0, 9, 2, 0, 0, 0, 0, 1, 0x12, 0x34] ++ List.replicate 46 0) : List Byte).length)
    ∧ ((([2, 0, 0, 0, 0, 9, 2, 0, 0, 0, 0, 1, 0x12, 0x34] ++ List.replicate 46 0) : List Byte).length ≤ 1518)
    ∧ (isLinkLocal (frDst (([2, 0, 0, 0, 0, 9, 2, 0, 0, 0, 0, 1, 0x12, 0x34] ++ List.replicate 46 0) : List Byte)) = false)
    ∧ ((((((wEth.put ETH_MAC0_MAC 0x02000000).put ETH_MAC1_MAC 9).put (ETH_APPFLT_EN 1) 1).put (ETH_APPFLT_VALUE 1) 0x1234).put (ETHSW_PVID_PVID 0) 1).vlanOf ((((((wEth.put ETH_MAC0_MAC 0x02000000).put ETH_MAC1_MAC 9).put (ETH_APPFLT_EN 1) 1).put (ETH_APPFLT_VALUE 1) 0x1234).put (ETHSW_PVID_PVID 0) 1).frClass (0 : Fin 2).val (([2, 0, 0, 0, 0, 9, 2, 0, 0, 0, 0, 1, 0x12, 0x34] ++ List.replicate 46 0) : List Byte)).1 = some (0 : Nat))
    ∧ (frDst (([2, 0, 0, 0, 0, 9, 2, 0, 0, 0, 0, 1, 0x12, 0x34] ++ List.replicate 46 0) : List Byte) = (((((wEth.put ETH_MAC0_MAC 0x02000000).put ETH_MAC1_MAC 9).put (ETH_APPFLT_EN 1) 1).put (ETH_APPFLT_VALUE 1) 0x1234).put (ETHSW_PVID_PVID 0) 1).devMac)
    ∧ (isMulticast (frDst (([2, 0, 0, 0, 0, 9, 2, 0, 0, 0, 0, 1, 0x12, 0x34] ++ List.replicate 46 0) : List Byte)) = false)
    ∧ ((((((wEth.put ETH_MAC0_MAC 0x02000000).put ETH_MAC1_MAC 9).put (ETH_APPFLT_EN 1) 1).put (ETH_APPFLT_VALUE 1) 0x1234).put (ETHSW_PVID_PVID 0) 1).bit (ETHSW_VLAN_MEMB (0 : Nat)) 2 = false ∨ (3 : BitVec 3).getLsbD 2 = false))
    ∧ ((payU (frUntag (([2, 0, 0, 0, 0, 9, 2, 0, 0, 0, 0, 1, 0x88, 0xF7] ++ List.replicate 46 0) : List Byte)) 12 2 = 0x88F7)
    ∧ ((((wEth.put GPTP_CFG_EN 1).put TB_CTRL_PORT 1)).is GPTP_CFG_EN = true)
    ∧ ((1 : Nat) ≠ 3))
    ∧ ((payU (frUntag (([0xFF, 0xFF, 0xFF, 0xFF, 0xFF, 0xFF, 2, 0, 0, 0, 0, 1, 8, 6, 0, 1, 8, 0, 6, 4, 0, 1, 2, 0, 0, 0, 0, 1, 10, 0, 0, 1, 0, 0, 0, 0, 0, 0, 10, 0, 0, 2] ++ List.replicate 18 0) : List Byte)) 12 2 = 0x0806)
    ∧ (payU ((frUntag (([0xFF, 0xFF, 0xFF, 0xFF, 0xFF, 0xFF, 2, 0, 0, 0, 0, 1, 8, 6, 0, 1, 8, 0, 6, 4, 0, 1, 2, 0, 0, 0, 0, 1, 10, 0, 0, 1, 0, 0, 0, 0, 0, 0, 10, 0, 0, 2] ++ List.replicate 18 0) : List Byte)).drop 14) 0 4 = 0x00010800)
    ∧ (payU ((frUntag (([0xFF, 0xFF, 0xFF, 0xFF, 0xFF, 0xFF, 2, 0, 0, 0, 0, 1, 8, 6, 0, 1, 8, 0, 6, 4, 0, 1, 2, 0, 0, 0, 0, 1, 10, 0, 0, 1, 0, 0, 0, 0, 0, 0, 10, 0, 0, 2] ++ List.replicate 18 0) : List Byte)).drop 14) 4 4 = 0x06040001)
    ∧ ((((((((wEth.put ETH_MAC0_MAC 0x02000000).put ETH_MAC1_MAC 9).put (ETH_APPFLT_EN 1) 1).put (ETH_APPFLT_VALUE 1) 0x1234).put (ETH_IPCFG_EN 2) 1).put (ETH_IP_ADDR 2) 0x0A000002).put (ETH_IPCFG_T1S 2) 1 |>.put T1S_CFG_EN 1).ipHere ((3 : Nat) == 3) (frTagged (([0xFF, 0xFF, 0xFF, 0xFF, 0xFF, 0xFF, 2, 0, 0, 0, 0, 1, 8, 6, 0, 1, 8, 0, 6, 4, 0, 1, 2, 0, 0, 0, 0, 1, 10, 0, 0, 1, 0, 0, 0, 0, 0, 0, 10, 0, 0, 2] ++ List.replicate 18 0) : List Byte)) (0 : Nat) (payU ((frUntag (([0xFF, 0xFF, 0xFF, 0xFF, 0xFF, 0xFF, 2, 0, 0, 0, 0, 1, 8, 6, 0, 1, 8, 0, 6, 4, 0, 1, 2, 0, 0, 0, 0, 1, 10, 0, 0, 1, 0, 0, 0, 0, 0, 0, 10, 0, 0, 2] ++ List.replicate 18 0) : List Byte)).drop 14) 24 4) = true)
    ∧ ((3 : Nat) = 3))
    ∧ ((payU (frUntag (([0xFF, 0xFF, 0xFF, 0xFF, 0xFF, 0xFF, 2, 0, 0, 0, 0, 1, 8, 6, 0, 1, 8, 0, 6, 4, 0, 1, 2, 0, 0, 0, 0, 1, 10, 0, 0, 1, 0, 0, 0, 0, 0, 0, 10, 0, 0, 2] ++ List.replicate 18 0) : List Byte)) 12 2 = 0x0806)
    ∧ (payU ((frUntag (([0xFF, 0xFF, 0xFF, 0xFF, 0xFF, 0xFF, 2, 0, 0, 0, 0, 1, 8, 6, 0, 1, 8, 0, 6, 4, 0, 1, 2, 0, 0, 0, 0, 1, 10, 0, 0, 1, 0, 0, 0, 0, 0, 0, 10, 0, 0, 2] ++ List.replicate 18 0) : List Byte)).drop 14) 0 4 = 0x00010800)
    ∧ (payU ((frUntag (([0xFF, 0xFF, 0xFF, 0xFF, 0xFF, 0xFF, 2, 0, 0, 0, 0, 1, 8, 6, 0, 1, 8, 0, 6, 4, 0, 1, 2, 0, 0, 0, 0, 1, 10, 0, 0, 1, 0, 0, 0, 0, 0, 0, 10, 0, 0, 2] ++ List.replicate 18 0) : List Byte)).drop 14) 4 4 = 0x06040001)
    ∧ ((((((((wEth.put ETH_MAC0_MAC 0x02000000).put ETH_MAC1_MAC 9).put (ETH_APPFLT_EN 1) 1).put (ETH_APPFLT_VALUE 1) 0x1234).put (ETH_IPCFG_EN 2) 1).put (ETH_IP_ADDR 2) 0x0A000002).put (ETHSW_PVID_PVID 2) 1).ipHere ((1 : Nat) == 3) (frTagged (([0xFF, 0xFF, 0xFF, 0xFF, 0xFF, 0xFF, 2, 0, 0, 0, 0, 1, 8, 6, 0, 1, 8, 0, 6, 4, 0, 1, 2, 0, 0, 0, 0, 1, 10, 0, 0, 1, 0, 0, 0, 0, 0, 0, 10, 0, 0, 2] ++ List.replicate 18 0) : List Byte)) (0 : Nat) (payU ((frUntag (([0xFF, 0xFF, 0xFF, 0xFF, 0xFF, 0xFF, 2, 0, 0, 0, 0, 1, 8, 6, 0, 1, 8, 0, 6, 4, 0, 1, 2, 0, 0, 0, 0, 1, 10, 0, 0, 1, 0, 0, 0, 0, 0, 0, 10, 0, 0, 2] ++ List.replicate 18 0) : List Byte)).drop 14) 24 4) = true)
    ∧ ((1 : Nat) ≠ 3))
    ∧ ((payU (frUntag ([2, 0, 0, 0, 0, 9, 2, 0, 0, 0, 0, 1, 8, 0, 69, 0, 0, 28, 0, 0, 0, 0, 64, 1, 102, 222, 10, 0, 0, 1, 10, 0, 0, 2, 8, 0, 247, 252, 0, 1, 0, 2, 0, 0, 0, 0, 0, 0, 0, 0, 0, 0, 0, 0, 0, 0, 0, 0, 0, 0] : List Byte)) 12 2 = 0x0800)
    ∧ (payU ((frUntag ([2, 0, 0, 0, 0, 9, 2, 0, 0, 0, 0, 1, 8, 0, 69, 0, 0, 28, 0, 0, 0, 0, 64, 1, 102, 222, 10, 0, 0, 1, 10, 0, 0, 2, 8, 0, 247, 252, 0, 1, 0, 2, 0, 0, 0, 0, 0, 0, 0, 0, 0, 0, 0, 0, 0, 0, 0, 0, 0, 0] : List Byte)).drop 14) 0 1 ≠ 0x45 ∨ payU ((frUntag ([2, 0, 0, 0, 0, 9, 2, 0, 0, 0, 0, 1, 8, 0, 69, 0, 0, 28, 0, 0, 0, 0, 64, 1, 102, 222, 10, 0, 0, 1, 10, 0, 0, 2, 8, 0, 247, 252, 0, 1, 0, 2, 0, 0, 0, 0, 0, 0, 0, 0, 0, 0, 0, 0, 0, 0, 0, 0, 0, 0] : List Byte)).drop 14) 6 2 % 16384 ≠ 0 ∨ fold16 (sum16 (((frUntag ([2, 0, 0, 0, 0, 9, 2, 0, 0, 0, 0, 1, 8, 0, 69, 0, 0, 28, 0, 0, 0, 0, 64, 1, 102, 222, 10, 0, 0, 1, 10, 0, 0, 2, 8, 0, 247, 252, 0, 1, 0, 2, 0, 0, 0, 0, 0, 0, 0, 0, 0, 0, 0, 0, 0, 0, 0, 0, 0, 0] : List Byte)).drop 14).take 20)) ≠ 0xFFFF))
    ∧ ((payU (frUntag ([2, 0, 0, 0, 0, 9, 2, 0, 0, 0, 0, 1, 8, 0, 69, 0, 0, 30, 0, 0, 0, 0, 64, 1, 102, 221, 10, 0, 0, 1, 10, 0, 0, 2, 8, 0, 238, 243, 0, 1, 0, 2, 9, 9, 0, 0, 0, 0, 0, 0, 0, 0, 0, 0, 0, 0, 0, 0, 0, 0] : List Byte)) 12 2 = 0x0800)
    ∧ (payU ((frUntag ([2, 0, 0, 0, 0, 9, 2, 0, 0, 0, 0, 1, 8, 0, 69, 0, 0, 30, 0, 0, 0, 0, 64, 1, 102, 221, 10, 0, 0, 1, 10, 0, 0, 2, 8, 0, 238, 243, 0, 1, 0, 2, 9, 9, 0, 0, 0, 0, 0, 0, 0, 0, 0, 0, 0, 0, 0, 0, 0, 0] : List Byte)).drop 14) 0 1 = 0x45)
    ∧ (payU ((frUntag ([2, 0, 0, 0, 0, 9, 2, 0, 0, 0, 0, 1, 8, 0, 69, 0, 0, 30, 0, 0, 0, 0, 64, 1, 102, 221, 10, 0, 0, 1, 10, 0, 0, 2, 8, 0, 238, 243, 0, 1, 0, 2, 9, 9, 0, 0, 0, 0, 0, 0, 0, 0, 0, 0, 0, 0, 0, 0, 0, 0] : List Byte)).drop 14) 6 2 % 16384 = 0)
    ∧ (fold16 (sum16 (((frUntag ([2, 0, 0, 0, 0, 9, 2, 0, 0, 0, 0, 1, 8, 0, 69, 0, 0, 30, 0, 0, 0, 0, 64, 1, 102, 221, 10, 0, 0, 1, 10, 0, 0, 2, 8, 0, 238, 243, 0, 1, 0, 2, 9, 9, 0, 0, 0, 0, 0, 0, 0, 0, 0, 0, 0, 0, 0, 0, 0, 0] : List Byte)).drop 14).take 20)) = 0xFFFF)
    ∧ ((((((((wEth.put ETH_MAC0_MAC 0x02000000).put ETH_MAC1_MAC 9).put (ETH_APPFLT_EN 1) 1).put (ETH_APPFLT_VALUE 1) 0x1234).put (ETH_IPCFG_EN 2) 1).put (ETH_IP_ADDR 2) 0x0A000002).put (ETH_IPCFG_T1S 2) 1 |>.put T1S_CFG_EN 1).ipHere ((3 : Nat) == 3) (frTagged ([2, 0, 0, 0, 0, 9, 2, 0, 0, 0, 0, 1, 8, 0, 69, 0, 0, 30, 0, 0, 0, 0, 64, 1, 102, 221, 10, 0, 0, 1, 10, 0, 0, 2, 8, 0, 238, 243, 0, 1, 0, 2, 9, 9, 0, 0, 0, 0, 0, 0, 0, 0, 0, 0, 0, 0, 0, 0, 0, 0] : List Byte)) (0 : Nat) (payU ((frUntag ([2, 0, 0, 0, 0, 9, 2, 0, 0, 0, 0, 1, 8, 0, 69, 0, 0, 30, 0, 0, 0, 0, 64, 1, 102, 221, 10, 0, 0, 1, 10, 0, 0, 2, 8, 0, 238, 243, 0, 1, 0, 2, 9, 9, 0, 0, 0, 0, 0, 0, 0, 0, 0, 0, 0, 0, 0, 0, 0, 0] : List Byte)).drop 14) 16 4) = true)
    ∧ (payU ((frUntag ([2, 0, 0, 0, 0, 9, 2, 0, 0, 0, 0, 1, 8, 0, 69, 0, 0, 30, 0, 0, 0, 0, 64, 1, 102, 221, 10, 0, 0, 1, 10, 0, 0, 2, 8, 0, 238, 243, 0, 1, 0, 2, 9, 9, 0, 0, 0, 0, 0, 0, 0, 0, 0, 0, 0, 0, 0, 0, 0, 0] : List Byte)).drop 14) 9 1 = 1)
    ∧ (payU ((((frUntag ([2, 0, 0, 0, 0, 9, 2, 0, 0, 0, 0, 1, 8, 0, 69, 0, 0, 30, 0, 0, 0, 0, 64, 1, 102, 221, 10, 0, 0, 1, 10, 0, 0, 2, 8, 0, 238, 243, 0, 1, 0, 2, 9, 9, 0, 0, 0, 0, 0, 0, 0, 0, 0, 0, 0, 0, 0, 0, 0, 0] : List Byte)).drop 14).drop 20).take (payU ((frUntag ([2, 0, 0, 0, 0, 9, 2, 0, 0, 0, 0, 1, 8, 0, 69, 0, 0, 30, 0, 0, 0, 0, 64, 1, 102, 221, 10, 0, 0, 1, 10, 0, 0, 2, 8, 0, 238, 243, 0, 1, 0, 2, 9, 9, 0, 0, 0, 0, 0, 0, 0, 0, 0, 0, 0, 0, 0, 0, 0, 0] : List Byte)).drop 14) 2 2 - 20)) 0 2 = 0x0800)
    ∧ (fold16 (sum16 ((((frUntag ([2, 0, 0, 0, 0, 9, 2, 0, 0, 0, 0, 1, 8, 0, 69, 0, 0, 30, 0, 0, 0, 0, 64, 1, 102, 221, 10, 0, 0, 1, 10, 0, 0, 2, 8, 0, 238, 243, 0, 1, 0, 2, 9, 9, 0, 0, 0, 0, 0, 0, 0, 0, 0, 0, 0, 0, 0, 0, 0, 0] : List Byte)).drop 14).drop 20).take (payU ((frUntag ([2, 0, 0, 0, 0, 9, 2, 0, 0, 0, 0, 1, 8, 0, 69, 0, 0, 30, 0, 0, 0, 0, 64, 1, 102, 221, 10, 0, 0, 1, 10, 0, 0, 2, 8, 0, 238, 243, 0, 1, 0, 2, 9, 9, 0, 0, 0, 0, 0, 0, 0, 0, 0, 0, 0, 0, 0, 0, 0, 0] : List Byte)).drop 14) 2 2 - 20))) = 0xFFFF)
    ∧ ((3 : Nat) = 3)) := by
  and_intros <;> decide +kernel

theorem witness_ethernet_serves_the_device_and_keeps_time_part4 :
    ((payU (frUntag ([2, 0, 0, 0, 0, 9, 2, 0, 0, 0, 0, 1, 8, 0, 69, 0, 0, 30, 0, 0, 0, 0, 64, 1, 102, 221, 10, 0, 0, 1, 10, 0, 0, 2, 8, 0, 238, 243, 0, 1, 0, 2, 9, 9, 0, 0, 0, 0, 0, 0, 0, 0, 0, 0, 0, 0, 0, 0, 0, 0] : List Byte)) 12 2 = 0x0800)
    ∧ (payU ((frUntag ([2, 0, 0, 0, 0, 9, 2, 0, 0, 0, 0, 1, 8, 0, 69, 0, 0, 30, 0, 0, 0, 0, 64, 1, 102, 221, 10, 0, 0, 1, 10, 0, 0, 2, 8, 0, 238, 243, 0, 1, 0, 2, 9, 9, 0, 0, 0, 0, 0, 0, 0, 0, 0, 0, 0, 0, 0, 0, 0, 0] : List Byte)).drop 14) 0 1 = 0x45)
    ∧ (payU ((frUntag ([2, 0, 0, 0, 0, 9, 2, 0, 0, 0, 0, 1, 8, 0, 69, 0, 0, 30, 0, 0, 0, 0, 64, 1, 102, 221, 10, 0, 0, 1, 10, 0, 0, 2, 8, 0, 238, 243, 0, 1, 0, 2, 9, 9, 0, 0, 0, 0, 0, 0, 0, 0, 0, 0, 0, 0, 0, 0, 0, 0] : List Byte)).drop 14) 6 2 % 16384 = 0)
    ∧ (fold16 (sum16 (((frUntag ([2, 0, 0, 0, 0, 9, 2, 0, 0, 0, 0, 1, 8, 0, 69, 0, 0, 30, 0, 0, 0, 0, 64, 1, 102, 221, 10, 0, 0, 1, 10, 0, 0, 2, 8, 0, 238, 243, 0, 1, 0, 2, 9, 9, 0, 0, 0, 0, 0, 0, 0, 0, 0, 0, 0, 0, 0, 0, 0, 0] : List Byte)).drop 14).take 20)) = 0xFFFF)
    ∧ ((((((((wEth.put ETH_MAC0_MAC 0x02000000).put ETH_MAC1_MAC 9).put (ETH_APPFLT_EN 1) 1).put (ETH_APPFLT_VALUE 1) 0x1234).put (ETH_IPCFG_EN 2) 1).put (ETH_IP_ADDR 2) 0x0A000002).put (ETHSW_PVID_PVID 2) 1).ipHere ((1 : Nat) == 3) (frTagged ([2, 0, 0, 0, 0, 9, 2, 0, 0, 0, 0, 1, 8, 0, 69, 0, 0, 30, 0, 0, 0, 0, 64, 1, 102, 221, 10, 0, 0, 1, 10, 0, 0, 2, 8, 0, 238, 243, 0, 1, 0, 2, 9, 9, 0, 0, 0, 0, 0, 0, 0, 0, 0, 0, 0, 0, 0, 0, 0, 0] : List Byte)) (0 : Nat) (payU ((frUntag ([2, 0, 0, 0, 0, 9, 2, 0, 0, 0, 0, 1, 8, 0, 69, 0, 0, 30, 0, 0, 0, 0, 64, 1, 102, 221, 10, 0, 0, 1, 10, 0, 0, 2, 8, 0, 238, 243, 0, 1, 0, 2, 9, 9, 0, 0, 0, 0, 0, 0, 0, 0, 0, 0, 0, 0, 0, 0, 0, 0] : List Byte)).drop 14) 16 4) = true)
    ∧ (payU ((frUntag ([2, 0, 0, 0, 0, 9, 2, 0, 0, 0, 0, 1, 8, 0, 69, 0, 0, 30, 0, 0, 0, 0, 64, 1, 102, 221, 10, 0, 0, 1, 10, 0, 0, 2, 8, 0, 238, 243, 0, 1, 0, 2, 9, 9, 0, 0, 0, 0, 0, 0, 0, 0, 0, 0, 0, 0, 0, 0, 0, 0] : List Byte)).drop 14) 9 1 = 1)
    ∧ (payU ((((frUntag ([2, 0, 0, 0, 0, 9, 2, 0, 0, 0, 0, 1, 8, 0, 69, 0, 0, 30, 0, 0, 0, 0, 64, 1, 102, 221, 10, 0, 0, 1, 10, 0, 0, 2, 8, 0, 238, 243, 0, 1, 0, 2, 9, 9, 0, 0, 0, 0, 0, 0, 0, 0, 0, 0, 0, 0, 0, 0, 0, 0] : List Byte)).drop 14).drop 20).take (payU ((frUntag ([2, 0, 0, 0, 0, 9, 2, 0, 0, 0, 0, 1, 8, 0, 69, 0, 0, 30, 0, 0, 0, 0, 64, 1, 102, 221, 10, 0, 0, 1, 10, 0, 0, 2, 8, 0, 238, 243, 0, 1, 0, 2, 9, 9, 0, 0, 0, 0, 0, 0, 0, 0, 0, 0, 0, 0, 0, 0, 0, 0] : List Byte)).drop 14) 2 2 - 20)) 0 2 = 0x0800)
    ∧ (fold16 (sum16 ((((frUntag ([2, 0, 0, 0, 0, 9, 2, 0, 0, 0, 0, 1, 8, 0, 69, 0, 0, 30, 0, 0, 0, 0, 64, 1, 102, 221, 10, 0, 0, 1, 10, 0, 0, 2, 8, 0, 238, 243, 0, 1, 0, 2, 9, 9, 0, 0, 0, 0, 0, 0, 0, 0, 0, 0, 0, 0, 0, 0, 0, 0] : List Byte)).drop 14).drop 20).take (payU ((frUntag ([2, 0, 0, 0, 0, 9, 2, 0, 0, 0, 0, 1, 8, 0, 69, 0, 0, 30, 0, 0, 0, 0, 64, 1, 102, 221, 10, 0, 0, 1, 10, 0, 0, 2, 8, 0, 238, 243, 0, 1, 0, 2, 9, 9, 0, 0, 0, 0, 0, 0, 0, 0, 0, 0, 0, 0, 0, 0, 0, 0] : List Byte)).drop 14) 2 2 - 20))) = 0xFFFF)
    ∧ ((1 : Nat) ≠ 3))
    ∧ ((payU (frUntag ([2, 0, 0, 0, 0, 9, 2, 0, 0, 0, 0, 1, 8, 0, 69, 0, 0, 50, 0, 0, 0, 0, 64, 17, 102, 185, 10, 0, 0, 1, 10, 0, 0, 2, 16, 1, 184, 17, 0, 30, 24, 156, 11, 1, 0, 0, 0, 0, 0, 0, 0, 0, 0, 0, 0, 0, 0, 0, 0, 0, 0, 0, 0, 0] : List Byte)) 12 2 = 0x0800)
    ∧ (payU ((frUntag ([2, 0, 0, 0, 0, 9, 2, 0, 0, 0, 0, 1, 8, 0, 69, 0, 0, 50, 0, 0, 0, 0, 64, 17, 102, 185, 10, 0, 0, 1, 10, 0, 0, 2, 16, 1, 184, 17, 0, 30, 24, 156, 11, 1, 0, 0, 0, 0, 0, 0, 0, 0, 0, 0, 0, 0, 0, 0, 0, 0, 0, 0, 0, 0] : List Byte)).drop 14) 0 1 = 0x45)
    ∧ (payU ((frUntag ([2, 0, 0, 0, 0, 9, 2, 0, 0, 0, 0, 1, 8, 0, 69, 0, 0, 50, 0, 0, 0, 0, 64, 17, 102, 185, 10, 0, 0, 1, 10, 0, 0, 2, 16, 1, 184, 17, 0, 30, 24, 156, 11, 1, 0, 0, 0, 0, 0, 0, 0, 0, 0, 0, 0, 0, 0, 0, 0, 0, 0, 0, 0, 0] : List Byte)).drop 14) 6 2 % 16384 = 0)
    ∧ (fold16 (sum16 (((frUntag ([2, 0, 0, 0, 0, 9, 2, 0, 0, 0, 0, 1, 8, 0, 69, 0, 0, 50, 0, 0, 0, 0, 64, 17, 102, 185, 10, 0, 0, 1, 10, 0, 0, 2, 16, 1, 184, 17, 0, 30, 24, 156, 11, 1, 0, 0, 0, 0, 0, 0, 0, 0, 0, 0, 0, 0, 0, 0, 0, 0, 0, 0, 0, 0] : List Byte)).drop 14).take 20)) = 0xFFFF)
    ∧ (payU ((frUntag ([2, 0, 0, 0, 0, 9, 2, 0, 0, 0, 0, 1, 8, 0, 69, 0, 0, 50, 0, 0, 0, 0, 64, 17, 102, 185, 10, 0, 0, 1, 10, 0, 0, 2, 16, 1, 184, 17, 0, 30, 24, 156, 11, 1, 0, 0, 0, 0, 0, 0, 0, 0, 0, 0, 0, 0, 0, 0, 0, 0, 0, 0, 0, 0] : List Byte)).drop 14) 9 1 = 17)
    ∧ ((((((((wEth.put ETH_MAC0_MAC 0x02000000).put ETH_MAC1_MAC 9).put (ETH_APPFLT_EN 1) 1).put (ETH_APPFLT_VALUE 1) 0x1234).put (ETH_IPCFG_EN 2) 1).put (ETH_IP_ADDR 2) 0x0A000002).put (ETH_IPCFG_T1S 2) 1 |>.put T1S_CFG_EN 1).ipHere ((3 : Nat) == 3) (frTagged ([2, 0, 0, 0, 0, 9, 2, 0, 0, 0, 0, 1, 8, 0, 69, 0, 0, 50, 0, 0, 0, 0, 64, 17, 102, 185, 10, 0, 0, 1, 10, 0, 0, 2, 16, 1, 184, 17, 0, 30, 24, 156, 11, 1, 0, 0, 0, 0, 0, 0, 0, 0, 0, 0, 0, 0, 0, 0, 0, 0, 0, 0, 0, 0] : List Byte)) (0 : Nat) (payU ((frUntag ([2, 0, 0, 0, 0, 9, 2, 0, 0, 0, 0, 1, 8, 0, 69, 0, 0, 50, 0, 0, 0, 0, 64, 17, 102, 185, 10, 0, 0, 1, 10, 0, 0, 2, 16, 1, 184, 17, 0, 30, 24, 156, 11, 1, 0, 0, 0, 0, 0, 0, 0, 0, 0, 0, 0, 0, 0, 0, 0, 0, 0, 0, 0, 0] : List Byte)).drop 14) 16 4) = true)
    ∧ (payU ((((frUntag ([2, 0, 0, 0, 0, 9, 2, 0, 0, 0, 0, 1, 8, 0, 69, 0, 0, 50, 0, 0, 0, 0, 64, 17, 102, 185, 10, 0, 0, 1, 10, 0, 0, 2, 16, 1, 184, 17, 0, 30, 24, 156, 11, 1, 0, 0, 0, 0, 0, 0, 0, 0, 0, 0, 0, 0, 0, 0, 0, 0, 0, 0, 0, 0] : List Byte)).drop 14).drop 20).take (payU ((frUntag ([2, 0, 0, 0, 0, 9, 2, 0, 0, 0, 0, 1, 8, 0, 69, 0, 0, 50, 0, 0, 0, 0, 64, 17, 102, 185, 10, 0, 0, 1, 10, 0, 0, 2, 16, 1, 184, 17, 0, 30, 24, 156, 11, 1, 0, 0, 0, 0, 0, 0, 0, 0, 0, 0, 0, 0, 0, 0, 0, 0, 0, 0, 0, 0] : List Byte)).drop 14) 2 2 - 20)) 2 2 = 47121)
    ∧ (udpOk (((frUntag ([2, 0, 0, 0, 0, 9, 2, 0, 0, 0, 0, 1, 8, 0, 69, 0, 0, 50, 0, 0, 0, 0, 64, 17, 102, 185, 10, 0, 0, 1, 10, 0, 0, 2, 16, 1, 184, 17, 0, 30, 24, 156, 11, 1, 0, 0, 0, 0, 0, 0, 0, 0, 0, 0, 0, 0, 0, 0, 0, 0, 0, 0, 0, 0] : List Byte)).drop 14).take 20) ((((frUntag ([2, 0, 0, 0, 0, 9, 2, 0, 0, 0, 0, 1, 8, 0, 69, 0, 0, 50, 0, 0, 0, 0, 64, 17, 102, 185, 10, 0, 0, 1, 10, 0, 0, 2, 16, 1, 184, 17, 0, 30, 24, 156, 11, 1, 0, 0, 0, 0, 0, 0, 0, 0, 0, 0, 0, 0, 0, 0, 0, 0, 0, 0, 0, 0] : List Byte)).drop 14).drop 20).take (payU ((frUntag ([2, 0, 0, 0, 0, 9, 2, 0, 0, 0, 0, 1, 8, 0, 69, 0, 0, 50, 0, 0, 0, 0, 64, 17, 102, 185, 10, 0, 0, 1, 10, 0, 0, 2, 16, 1, 184, 17, 0, 30, 24, 156, 11, 1, 0, 0, 0, 0, 0, 0, 0, 0, 0, 0, 0, 0, 0, 0, 0, 0, 0, 0, 0, 0] : List Byte)).drop 14) 2 2 - 20)) = true))
    ∧ ((payU (frUntag ([2, 0, 0, 0, 0, 9, 2, 0, 0, 0, 0, 1, 8, 0, 69, 0, 0, 50, 0, 0, 0, 0, 64, 17, 102, 185, 10, 0, 0, 1, 10, 0, 0, 2, 16, 1, 184, 17, 0, 30, 24, 157, 11, 1, 0, 0, 0, 0, 0, 0, 0, 0, 0, 0, 0, 0, 0, 0, 0, 0, 0, 0, 0, 0] : List Byte)) 12 2 = 0x0800)
    ∧ (payU ((frUntag ([2, 0, 0, 0, 0, 9, 2, 0, 0, 0, 0, 1, 8, 0, 69, 0, 0, 50, 0, 0, 0, 0, 64, 17, 102, 185, 10, 0, 0, 1, 10, 0, 0, 2, 16, 1, 184, 17, 0, 30, 24, 157, 11, 1, 0, 0, 0, 0, 0, 0, 0, 0, 0, 0, 0, 0, 0, 0, 0, 0, 0, 0, 0, 0] : List Byte)).drop 14) 0 1 = 0x45)
    ∧ (payU ((frUntag ([2, 0, 0, 0, 0, 9, 2, 0, 0, 0, 0, 1, 8, 0, 69, 0, 0, 50, 0, 0, 0, 0, 64, 17, 102, 185, 10, 0, 0, 1, 10, 0, 0, 2, 16, 1, 184, 17, 0, 30, 24, 157, 11, 1, 0, 0, 0, 0, 0, 0, 0, 0, 0, 0, 0, 0, 0, 0, 0, 0, 0, 0, 0, 0] : List Byte)).drop 14) 6 2 % 16384 = 0)
    ∧ (fold16 (sum16 (((frUntag ([2, 0, 0, 0, 0, 9, 2, 0, 0, 0, 0, 1, 8, 0, 69, 0, 0, 50, 0, 0, 0, 0, 64, 17, 102, 185, 10, 0, 0, 1, 10, 0, 0, 2, 16, 1, 184, 17, 0, 30, 24, 157, 11, 1, 0, 0, 0, 0, 0, 0, 0, 0, 0, 0, 0, 0, 0, 0, 0, 0, 0, 0, 0, 0] : List Byte)).drop 14).take 20)) = 0xFFFF)
    ∧ (payU ((frUntag ([2, 0, 0, 0, 0, 9, 2, 0, 0, 0, 0, 1, 8, 0, 69, 0, 0, 50, 0, 0, 0, 0, 64, 17, 102, 185, 10, 0, 0, 1, 10, 0, 0, 2, 16, 1, 184, 17, 0, 30, 24, 157, 11, 1, 0, 0, 0, 0, 0, 0, 0, 0, 0, 0, 0, 0, 0, 0, 0, 0, 0, 0, 0, 0] : List Byte)).drop 14) 9 1 = 17)
    ∧ ((((((((wEth.put ETH_MAC0_MAC 0x02000000).put ETH_MAC1_MAC 9).put (ETH_APPFLT_EN 1) 1).put (ETH_APPFLT_VALUE 1) 0x1234).put (ETH_IPCFG_EN 2) 1).put (ETH_IP_ADDR 2) 0x0A000002).put (ETH_IPCFG_T1S 2) 1 |>.put T1S_CFG_EN 1).ipHere ((3 : Nat) == 3) (frTagged ([2, 0, 0, 0, 0, 9, 2, 0, 0, 0, 0, 1, 8, 0, 69, 0, 0, 50, 0, 0, 0, 0, 64, 17, 102, 185, 10, 0, 0, 1, 10, 0, 0, 2, 16, 1, 184, 17, 0, 30, 24, 157, 11, 1, 0, 0, 0, 0, 0, 0, 0, 0, 0, 0, 0, 0, 0, 0, 0, 0, 0, 0, 0, 0] : List Byte)) (0 : Nat) (payU ((frUntag ([2, 0, 0, 0, 0, 9, 2, 0, 0, 0, 0, 1, 8, 0, 69, 0, 0, 50, 0, 0, 0, 0, 64, 17, 102, 185, 10, 0, 0, 1, 10, 0, 0, 2, 16, 1, 184, 17, 0, 30, 24, 157, 11, 1, 0, 0, 0, 0, 0, 0, 0, 0, 0, 0, 0, 0, 0, 0, 0, 0, 0, 0, 0, 0] : List Byte)).drop 14) 16 4) = true)
    ∧ (payU ((((frUntag ([2, 0, 0, 0, 0, 9, 2, 0, 0, 0, 0, 1, 8, 0, 69, 0, 0, 50, 0, 0, 0, 0, 64, 17, 102, 185, 10, 0, 0, 1, 10, 0, 0, 2, 16, 1, 184, 17, 0, 30, 24, 157, 11, 1, 0, 0, 0, 0, 0, 0, 0, 0, 0, 0, 0, 0, 0, 0, 0, 0, 0, 0, 0, 0] : List Byte)).drop 14).drop 20).take (payU ((frUntag ([2, 0, 0, 0, 0, 9, 2, 0, 0, 0, 0, 1, 8, 0, 69, 0, 0, 50, 0, 0, 0, 0, 64, 17, 102, 185, 10, 0, 0, 1, 10, 0, 0, 2, 16, 1, 184, 17, 0, 30, 24, 157, 11, 1, 0, 0, 0, 0, 0, 0, 0, 0, 0, 0, 0, 0, 0, 0, 0, 0, 0, 0, 0, 0] : List Byte)).drop 14) 2 2 - 20)) 2 2 = 47121)
    ∧ (udpOk (((frUntag ([2, 0, 0, 0, 0, 9, 2, 0, 0, 0, 0, 1, 8, 0, 69, 0, 0, 50, 0, 0, 0, 0, 64, 17, 102, 185, 10, 0, 0, 1, 10, 0, 0, 2, 16, 1, 184, 17, 0, 30, 24, 157, 11, 1, 0, 0, 0, 0, 0, 0, 0, 0, 0, 0, 0, 0, 0, 0, 0, 0, 0, 0, 0, 0] : List Byte)).drop 14).take 20) ((((frUntag ([2, 0, 0, 0, 0, 9, 2, 0, 0, 0, 0, 1, 8, 0, 69, 0, 0, 50, 0, 0, 0, 0, 64, 17, 102, 185, 10, 0, 0, 1, 10, 0, 0, 2, 16, 1, 184, 17, 0, 30, 24, 157, 11, 1, 0, 0, 0, 0, 0, 0, 0, 0, 0, 0, 0, 0, 0, 0, 0, 0, 0, 0, 0, 0] : List Byte)).drop 14).drop 20).take (payU ((frUntag ([2, 0, 0, 0, 0, 9, 2, 0, 0, 0, 0, 1, 8, 0, 69, 0, 0, 50, 0, 0, 0, 0, 64, 17, 102, 185, 10, 0, 0, 1, 10, 0, 0, 2, 16, 1, 184, 17, 0, 30, 24, 157, 11, 1, 0, 0, 0, 0, 0, 0, 0, 0, 0, 0, 0, 0, 0, 0, 0, 0, 0, 0, 0, 0] : List Byte)).drop 14) 2 2 - 20)) = false))
    ∧ ((payU (frUntag ([2, 0, 0, 0, 0, 9, 2, 0, 0, 0, 0, 1, 8, 0, 69, 0, 0, 32, 0, 0, 0, 0, 64, 17, 102, 203, 10, 0, 0, 1, 10, 0, 0, 2, 16, 1, 18, 52, 0, 12, 197, 152, 1, 2, 3, 4, 0, 0, 0, 0, 0, 0, 0, 0, 0, 0, 0, 0, 0, 0] : List Byte)) 12 2 = 0x0800)
    ∧ (payU ((frUntag ([2, 0, 0, 0, 0, 9, 2, 0, 0, 0, 0, 1, 8, 0, 69, 0, 0, 32, 0, 0, 0, 0, 64, 17, 102, 203, 10, 0, 0, 1, 10, 0, 0, 2, 16, 1, 18, 52, 0, 12, 197, 152, 1, 2, 3, 4, 0, 0, 0, 0, 0, 0, 0, 0, 0, 0, 0, 0, 0, 0] : List Byte)).drop 14) 0 1 = 0x45)
    ∧ (payU ((frUntag ([2, 0, 0, 0, 0, 9, 2, 0, 0, 0, 0, 1, 8, 0, 69, 0, 0, 32, 0, 0, 0, 0, 64, 17, 102, 203, 10, 0, 0, 1, 10, 0, 0, 2, 16, 1, 18, 52, 0, 12, 197, 152, 1, 2, 3, 4, 0, 0, 0, 0, 0, 0, 0, 0, 0, 0, 0, 0, 0, 0] : List Byte)).drop 14) 6 2 % 16384 = 0)
    ∧ (fold16 (sum16 (((frUntag ([2, 0, 0, 0, 0, 9, 2, 0, 0, 0, 0, 1, 8, 0, 69, 0, 0, 32, 0, 0, 0, 0, 64, 17, 102, 203, 10, 0, 0, 1, 10, 0, 0, 2, 16, 1, 18, 52, 0, 12, 197, 152, 1, 2, 3, 4, 0, 0, 0, 0, 0, 0, 0, 0, 0, 0, 0, 0, 0, 0] : List Byte)).drop 14).take 20)) = 0xFFFF)
    ∧ (payU ((frUntag ([2, 0, 0, 0, 0, 9, 2, 0, 0, 0, 0, 1, 8, 0, 69, 0, 0, 32, 0, 0, 0, 0, 64, 17, 102, 203, 10, 0, 0, 1, 10, 0, 0, 2, 16, 1, 18, 52, 0, 12, 197, 152, 1, 2, 3, 4, 0, 0, 0, 0, 0, 0, 0, 0, 0, 0, 0, 0, 0, 0] : List Byte)).drop 14) 9 1 = 17)
    ∧ (((((((((wEth.put ETH_MAC0_MAC 0x02000000).put ETH_MAC1_MAC 9).put (ETH_APPFLT_EN 1) 1).put (ETH_APPFLT_VALUE 1) 0x1234).put (ETH_IPCFG_EN 2) 1).put (ETH_IP_ADDR 2) 0x0A000002).put (ETH_IPCFG_T1S 2) 1 |>.put T1S_CFG_EN 1).put (ETH_APPFLT_KIND 1) 1).ipHere ((3 : Nat) == 3) (frTagged ([2, 0, 0, 0, 0, 9, 2, 0, 0, 0, 0, 1, 8, 0, 69, 0, 0, 32, 0, 0, 0, 0, 64, 17, 102, 203, 10, 0, 0, 1, 10, 0, 0, 2, 16, 1, 18, 52, 0, 12, 197, 152, 1, 2, 3, 4, 0, 0, 0, 0, 0, 0, 0, 0, 0, 0, 0, 0, 0, 0] : List Byte)) (0 : Nat) (payU ((frUntag ([2, 0, 0, 0, 0, 9, 2, 0, 0, 0, 0, 1, 8, 0, 69, 0, 0, 32, 0, 0, 0, 0, 64, 17, 102, 203, 10, 0, 0, 1, 10, 0, 0, 2, 16, 1, 18, 52, 0, 12, 197, 152, 1, 2, 3, 4, 0, 0, 0, 0, 0, 0, 0, 0, 0, 0, 0, 0, 0, 0] : List Byte)).drop 14) 16 4) = false ∨ payU ((((frUntag ([2, 0, 0, 0, 0, 9, 2, 0, 0, 0, 0, 1, 8, 0, 69, 0, 0, 32, 0, 0, 0, 0, 64, 17, 102, 203, 10, 0, 0, 1, 10, 0, 0, 2, 16, 1, 18, 52, 0, 12, 197, 152, 1, 2, 3, 4, 0, 0, 0, 0, 0, 0, 0, 0, 0, 0, 0, 0, 0, 0] : List Byte)).drop 14).drop 20).take (payU ((frUntag ([2, 0, 0, 0, 0, 9, 2, 0, 0, 0, 0, 1, 8, 0, 69, 0, 0, 32, 0, 0, 0, 0, 64, 17, 102, 203, 10, 0, 0, 1, 10, 0, 0, 2, 16, 1, 18, 52, 0, 12, 197, 152, 1, 2, 3, 4, 0, 0, 0, 0, 0, 0, 0, 0, 0, 0, 0, 0, 0, 0] : List Byte)).drop 14) 2 2 - 20)) 2 2 ≠ 47121)
    ∧ (((((((((wEth.put ETH_MAC0_MAC 0x02000000).put ETH_MAC1_MAC 9).put (ETH_APPFLT_EN 1) 1).put (ETH_APPFLT_VALUE 1) 0x1234).put (ETH_IPCFG_EN 2) 1).put (ETH_IP_ADDR 2) 0x0A000002).put (ETH_IPCFG_T1S 2) 1 |>.put T1S_CFG_EN 1).put (ETH_APPFLT_KIND 1) 1).appMatch (payU (frUntag ([2, 0, 0, 0, 0, 9, 2, 0, 0, 0, 0, 1, 8, 0, 69, 0, 0, 32, 0, 0, 0, 0, 64, 17, 102, 203, 10, 0, 0, 1, 10, 0, 0, 2, 16, 1, 18, 52, 0, 12, 197, 152, 1, 2, 3, 4, 0, 0, 0, 0, 0, 0, 0, 0, 0, 0, 0, 0, 0, 0] : List Byte)) 12 2) (some (payU ((((frUntag ([2, 0, 0, 0, 0, 9, 2, 0, 0, 0, 0, 1, 8, 0, 69, 0, 0, 32, 0, 0, 0, 0, 64, 17, 102, 203, 10, 0, 0, 1, 10, 0, 0, 2, 16, 1, 18, 52, 0, 12, 197, 152, 1, 2, 3, 4, 0, 0, 0, 0, 0, 0, 0, 0, 0, 0, 0, 0, 0, 0] : List Byte)).drop 14).drop 20).take (payU ((frUntag ([2, 0, 0, 0, 0, 9, 2, 0, 0, 0, 0, 1, 8, 0, 69, 0, 0, 32, 0, 0, 0, 0, 64, 17, 102, 203, 10, 0, 0, 1, 10, 0, 0, 2, 16, 1, 18, 52, 0, 12, 197, 152, 1, 2, 3, 4, 0, 0, 0, 0, 0, 0, 0, 0, 0, 0, 0, 0, 0, 0] : List Byte)).drop 14) 2 2 - 20)) 2 2)) = true)
    ∧ (((((((((wEth.put ETH_MAC0_MAC 0x02000000).put ETH_MAC1_MAC 9).put (ETH_APPFLT_EN 1) 1).put (ETH_APPFLT_VALUE 1) 0x1234).put (ETH_IPCFG_EN 2) 1).put (ETH_IP_ADDR 2) 0x0A000002).put (ETH_IPCFG_T1S 2) 1 |>.put T1S_CFG_EN 1).put (ETH_APPFLT_KIND 1) 1).eth.rxq.length + (leBytes 8 (9 : Nat) ++ leBytes 2 ([2, 0, 0, 0, 0, 9, 2, 0, 0, 0, 0, 1, 8, 0, 69, 0, 0, 32, 0, 0, 0, 0, 64, 17, 102, 203, 10, 0, 0, 1, 10, 0, 0, 2, 16, 1, 18, 52, 0, 12, 197, 152, 1, 2, 3, 4, 0, 0, 0, 0, 0, 0, 0, 0, 0, 0, 0, 0, 0, 0] : List Byte).length ++ [BitVec.ofNat 8 (3 : Nat), 0, 0, 0, 0, 0] ++ ([2, 0, 0, 0, 0, 9, 2, 0, 0, 0, 0, 1, 8, 0, 69, 0, 0, 32, 0, 0, 0, 0, 64, 17, 102, 203, 10, 0, 0, 1, 10, 0, 0, 2, 16, 1, 18, 52, 0, 12, 197, 152, 1, 2, 3, 4, 0, 0, 0, 0, 0, 0, 0, 0, 0, 0, 0, 0, 0, 0] : List Byte) ++ List.replicate ((4 - ([2, 0, 0, 0, 0, 9, 2, 0, 0, 0, 0, 1, 8, 0, 69, 0, 0, 32, 0, 0, 0, 0, 64, 17, 102, 203, 10, 0, 0, 1, 10, 0, 0, 2, 16, 1, 18, 52, 0, 12, 197, 152, 1, 2, 3, 4, 0, 0, 0, 0, 0, 0, 0, 0, 0, 0, 0, 0, 0, 0] : List Byte).length % 4) % 4) 0).length ≤ 16384))
    ∧ ((payU (frUntag ([2, 0, 0, 0, 0, 9, 2, 0, 0, 0, 0, 1, 8, 0, 69, 0, 0, 32, 0, 0, 0, 0, 64, 17, 102, 203, 10, 0, 0, 1, 10, 0, 0, 2, 16, 1, 18, 53, 0, 12, 197, 151, 1, 2, 3, 4, 0, 0, 0, 0, 0, 0, 0, 0, 0, 0, 0, 0, 0, 0] : List Byte)) 12 2 = 0x0800)
    ∧ (payU ((frUntag ([2, 0, 0, 0, 0, 9, 2, 0, 0, 0, 0, 1, 8, 0, 69, 0, 0, 32, 0, 0, 0, 0, 64, 17, 102, 203, 10, 0, 0, 1, 10, 0, 0, 2, 16, 1, 18, 53, 0, 12, 197, 151, 1, 2, 3, 4, 0, 0, 0, 0, 0, 0, 0, 0, 0, 0, 0, 0, 0, 0] : List Byte)).drop 14) 0 1 = 0x45)
    ∧ (payU ((frUntag ([2, 0, 0, 0, 0, 9, 2, 0, 0, 0, 0, 1, 8, 0, 69, 0, 0, 32, 0, 0, 0, 0, 64, 17, 102, 203, 10, 0, 0, 1, 10, 0, 0, 2, 16, 1, 18, 53, 0, 12, 197, 151, 1, 2, 3, 4, 0, 0, 0, 0, 0, 0, 0, 0, 0, 0, 0, 0, 0, 0] : List Byte)).drop 14) 6 2 % 16384 = 0)
    ∧ (fold16 (sum16 (((frUntag ([2, 0, 0, 0, 0, 9, 2, 0, 0, 0, 0, 1, 8, 0, 69, 0, 0, 32, 0, 0, 0, 0, 64, 17, 102, 203, 10, 0, 0, 1, 10, 0, 0, 2, 16, 1, 18, 53, 0, 12, 197, 151, 1, 2, 3, 4, 0, 0, 0, 0, 0, 0, 0, 0, 0, 0, 0, 0, 0, 0] : List Byte)).drop 14).take 20)) = 0xFFFF)
    ∧ (payU ((frUntag ([2, 0, 0, 0, 0, 9, 2, 0, 0, 0, 0, 1, 8, 0, 69, 0, 0, 32, 0, 0, 0, 0, 64, 17, 102, 203, 10, 0, 0, 1, 10, 0, 0, 2, 16, 1, 18, 53, 0, 12, 197, 151, 1, 2, 3, 4, 0, 0, 0, 0, 0, 0, 0, 0, 0, 0, 0, 0, 0, 0] : List Byte)).drop 14) 9 1 = 17)
    ∧ ((((((((wEth.put ETH_MAC0_MAC 0x02000000).put ETH_MAC1_MAC 9).put (ETH_APPFLT_EN 1) 1).put (ETH_APPFLT_VALUE 1) 0x1234).put (ETH_IPCFG_EN 2) 1).put (ETH_IP_ADDR 2) 0x0A000002).put (ETH_IPCFG_T1S 2) 1 |>.put T1S_CFG_EN 1).ipHere ((3 : Nat) == 3) (frTagged ([2, 0, 0, 0, 0, 9, 2, 0, 0, 0, 0, 1, 8, 0, 69, 0, 0, 32, 0, 0, 0, 0, 64, 17, 102, 203, 10, 0, 0, 1, 10, 0, 0, 2, 16, 1, 18, 53, 0, 12, 197, 151, 1, 2, 3, 4, 0, 0, 0, 0, 0, 0, 0, 0, 0, 0, 0, 0, 0, 0] : List Byte)) (0 : Nat) (payU ((frUntag ([2, 0, 0, 0, 0, 9, 2, 0, 0, 0, 0, 1, 8, 0, 69, 0, 0, 32, 0, 0, 0, 0, 64, 17, 102, 203, 10, 0, 0, 1, 10, 0, 0, 2, 16, 1, 18, 53, 0, 12, 197, 151, 1, 2, 3, 4, 0, 0, 0, 0, 0, 0, 0, 0, 0, 0, 0, 0, 0, 0] : List Byte)).drop 14) 16 4) = false ∨ payU ((((frUntag ([2, 0, 0, 0, 0, 9, 2, 0, 0, 0, 0, 1, 8, 0, 69, 0, 0, 32, 0, 0, 0, 0, 64, 17, 102, 203, 10, 0, 0, 1, 10, 0, 0, 2, 16, 1, 18, 53, 0, 12, 197, 151, 1, 2, 3, 4, 0, 0, 0, 0, 0, 0, 0, 0, 0, 0, 0, 0, 0, 0] : List Byte)).drop 14).drop 20).take (payU ((frUntag ([2, 0, 0, 0, 0, 9, 2, 0, 0, 0, 0, 1, 8, 0, 69, 0, 0, 32, 0, 0, 0, 0, 64, 17, 102, 203, 10, 0, 0, 1, 10, 0, 0, 2, 16, 1, 18, 53, 0, 12, 197, 151, 1, 2, 3, 4, 0, 0, 0, 0, 0, 0, 0, 0, 0, 0, 0, 0, 0, 0] : List Byte)).drop 14) 2 2 - 20)) 2 2 ≠ 47121)
    ∧ ((((((((wEth.put ETH_MAC0_MAC 0x02000000).put ETH_MAC1_MAC 9).put (ETH_APPFLT_EN 1) 1).put (ETH_APPFLT_VALUE 1) 0x1234).put (ETH_IPCFG_EN 2) 1).put (ETH_IP_ADDR 2) 0x0A000002).put (ETH_IPCFG_T1S 2) 1 |>.put T1S_CFG_EN 1).appMatch (payU (frUntag ([2, 0, 0, 0, 0, 9, 2, 0, 0, 0, 0, 1, 8, 0, 69, 0, 0, 32, 0, 0, 0, 0, 64, 17, 102, 203, 10, 0, 0, 1, 10, 0, 0, 2, 16, 1, 18, 53, 0, 12, 197, 151, 1, 2, 3, 4, 0, 0, 0, 0, 0, 0, 0, 0, 0, 0, 0, 0, 0, 0] : List Byte)) 12 2) (some (payU ((((frUntag ([2, 0, 0, 0, 0, 9, 2, 0, 0, 0, 0, 1, 8, 0, 69, 0, 0, 32, 0, 0, 0, 0, 64, 17, 102, 203, 10, 0, 0, 1, 10, 0, 0, 2, 16, 1, 18, 53, 0, 12, 197, 151, 1, 2, 3, 4, 0, 0, 0, 0, 0, 0, 0, 0, 0, 0, 0, 0, 0, 0] : List Byte)).drop 14).drop 20).take (payU ((frUntag ([2, 0, 0, 0, 0, 9, 2, 0, 0, 0, 0, 1, 8, 0, 69, 0, 0, 32, 0, 0, 0, 0, 64, 17, 102, 203, 10, 0, 0, 1, 10, 0, 0, 2, 16, 1, 18, 53, 0, 12, 197, 151, 1, 2, 3, 4, 0, 0, 0, 0, 0, 0, 0, 0, 0, 0, 0, 0, 0, 0] : List Byte)).drop 14) 2 2 - 20)) 2 2)) = false))
    ∧ ((¬(payU (frUntag (([2, 0, 0, 0, 0, 9, 2, 0, 0, 0, 0, 1, 0x12, 0x34] ++ List.replicate 46 0) : List Byte)) 12 2 = 0x88F7 ∧ (((((((wEth.put ETH_MAC0_MAC 0x02000000).put ETH_MAC1_MAC 9).put (ETH_APPFLT_EN 1) 1).put (ETH_APPFLT_VALUE 1) 0x1234).put (ETH_IPCFG_EN 2) 1).put (ETH_IP_ADDR 2) 0x0A000002).put (ETH_IPCFG_T1S 2) 1 |>.put T1S_CFG_EN 1).is GPTP_CFG_EN = true ∧ (1 : Nat) ≠ 3))
    ∧ (payU (frUntag (([2, 0, 0, 0, 0, 9, 2, 0, 0, 0, 0, 1, 0x12, 0x34] ++ List.replicate 46 0) : List Byte)) 12 2 ≠ 0x0806)
    ∧ (payU (frUntag (([2, 0, 0, 0, 0, 9, 2, 0, 0, 0, 0, 1, 0x12, 0x34] ++ List.replicate 46 0) : List Byte)) 12 2 ≠ 0x0800)
    ∧ ((((((((wEth.put ETH_MAC0_MAC 0x02000000).put ETH_MAC1_MAC 9).put (ETH_APPFLT_EN 1) 1).put (ETH_APPFLT_VALUE 1) 0x1234).put (ETH_IPCFG_EN 2) 1).put (ETH_IP_ADDR 2) 0x0A000002).put (ETH_IPCFG_T1S 2) 1 |>.put T1S_CFG_EN 1).appMatch (payU (frUntag (([2, 0, 0, 0, 0, 9, 2, 0, 0, 0, 0, 1, 0x12, 0x34] ++ List.replicate 46 0) : List Byte)) 12 2) (none) = true)
    ∧ ((((((((wEth.put ETH_MAC0_MAC 0x02000000).put ETH_MAC1_MAC 9).put (ETH_APPFLT_EN 1) 1).put (ETH_APPFLT_VALUE 1) 0x1234).put (ETH_IPCFG_EN 2) 1).put (ETH_IP_ADDR 2) 0x0A000002).put (ETH_IPCFG_T1S 2) 1 |>.put T1S_CFG_EN 1).eth.rxq.length + (leBytes 8 (9 : Nat) ++ leBytes 2 (([2, 0, 0, 0, 0, 9, 2, 0, 0, 0, 0, 1, 0x12, 0x34] ++ List.replicate 46 0) : List Byte).length ++ [BitVec.ofNat 8 (1 : Nat), 0, 0, 0, 0, 0] ++ (([2, 0, 0, 0, 0, 9, 2, 0, 0, 0, 0, 1, 0x12, 0x34] ++ List.replicate 46 0) : List Byte) ++ List.replicate ((4 - (([2, 0, 0, 0, 0, 9, 2, 0, 0, 0, 0, 1, 0x12, 0x34] ++ List.replicate 46 0) : List Byte).length % 4) % 4) 0).length ≤ 16384)) := by
  and_intros <;> decide +kernel

theorem witness_ethernet_serves_the_device_and_keeps_time_part5 :
    ((¬(payU (frUntag (([2, 0, 0, 0, 0, 9, 2, 0, 0, 0, 0, 1, 0x12, 0x34] ++ List.replicate 46 0) : List Byte)) 12 2 = 0x88F7 ∧ (((((wEth.put ETH_MAC0_MAC 0x02000000).put ETH_MAC1_MAC 9).put (ETH_APPFLT_EN 1) 1).put (ETH_APPFLT_VALUE 1) 0x1234).setEth { Eth.idle with rxq := List.replicate 16380 0 }).is GPTP_CFG_EN = true ∧ (1 : Nat) ≠ 3))
    ∧ (payU (frUntag (([2, 0, 0, 0, 0, 9, 2, 0, 0, 0, 0, 1, 0x12, 0x34] ++ List.replicate 46 0) : List Byte)) 12 2 ≠ 0x0806)
    ∧ (payU (frUntag (([2, 0, 0, 0, 0, 9, 2, 0, 0, 0, 0, 1, 0x12, 0x34] ++ List.replicate 46 0) : List Byte)) 12 2 ≠ 0x0800)
    ∧ ((((((wEth.put ETH_MAC0_MAC 0x02000000).put ETH_MAC1_MAC 9).put (ETH_APPFLT_EN 1) 1).put (ETH_APPFLT_VALUE 1) 0x1234).setEth { Eth.idle with rxq := List.replicate 16380 0 }).appMatch (payU (frUntag (([2, 0, 0, 0, 0, 9, 2, 0, 0, 0, 0, 1, 0x12, 0x34] ++ List.replicate 46 0) : List Byte)) 12 2) (none) = true)
    ∧ (16384 < (((((wEth.put ETH_MAC0_MAC 0x02000000).put ETH_MAC1_MAC 9).put (ETH_APPFLT_EN 1) 1).put (ETH_APPFLT_VALUE 1) 0x1234).setEth { Eth.idle with rxq := List.replicate 16380 0 }).eth.rxq.length + (leBytes 8 (9 : Nat) ++ leBytes 2 (([2, 0, 0, 0, 0, 9, 2, 0, 0, 0, 0, 1, 0x12, 0x34] ++ List.replicate 46 0) : List Byte).length ++ [BitVec.ofNat 8 (1 : Nat), 0, 0, 0, 0, 0] ++ (([2, 0, 0, 0, 0, 9, 2, 0, 0, 0, 0, 1, 0x12, 0x34] ++ List.replicate 46 0) : List Byte) ++ List.replicate ((4 - (([2, 0, 0, 0, 0, 9, 2, 0, 0, 0, 0, 1, 0x12, 0x34] ++ List.replicate 46 0) : List Byte).length % 4) % 4) 0).length))
    ∧ ((¬(payU (frUntag (([2, 0, 0, 0, 0, 9, 2, 0, 0, 0, 0, 1, 0x12, 0x34] ++ List.replicate 46 0) : List Byte)) 12 2 = 0x88F7 ∧ wEth.is GPTP_CFG_EN = true ∧ (1 : Nat) ≠ 3))
    ∧ (payU (frUntag (([2, 0, 0, 0, 0, 9, 2, 0, 0, 0, 0, 1, 0x12, 0x34] ++ List.replicate 46 0) : List Byte)) 12 2 ≠ 0x0806)
    ∧ (payU (frUntag (([2, 0, 0, 0, 0, 9, 2, 0, 0, 0, 0, 1, 0x12, 0x34] ++ List.replicate 46 0) : List Byte)) 12 2 ≠ 0x0800)
    ∧ (wEth.appMatch (payU (frUntag (([2, 0, 0, 0, 0, 9, 2, 0, 0, 0, 0, 1, 0x12, 0x34] ++ List.replicate 46 0) : List Byte)) 12 2) none = false))
    ∧ ((((((wEth.put ETH_MAC0_MAC 0x02000000).put ETH_MAC1_MAC 9).put (ETH_APPFLT_EN 1) 1).put (ETH_APPFLT_VALUE 1) 0x1234 |>.put T1S_CFG_EN 1).ethClocked = true)
    ∧ (((((wEth.put ETH_MAC0_MAC 0x02000000).put ETH_MAC1_MAC 9).put (ETH_APPFLT_EN 1) 1).put (ETH_APPFLT_VALUE 1) 0x1234 |>.put T1S_CFG_EN 1).is T1S_CFG_EN = true)
    ∧ (isMulticast (frDst (([2, 0, 0, 0, 0, 9, 2, 0, 0, 0, 0, 1, 0x12, 0x34] ++ List.replicate 46 0) : List Byte)) = true ∨ frDst (([2, 0, 0, 0, 0, 9, 2, 0, 0, 0, 0, 1, 0x12, 0x34] ++ List.replicate 46 0) : List Byte) = ((((wEth.put ETH_MAC0_MAC 0x02000000).put ETH_MAC1_MAC 9).put (ETH_APPFLT_EN 1) 1).put (ETH_APPFLT_VALUE 1) 0x1234 |>.put T1S_CFG_EN 1).devMac))
    ∧ ((wEth.ethClocked = false ∨ wEth.is T1S_CFG_EN = false ∨ (isMulticast (frDst (([2, 0, 0, 0, 0, 9, 2, 0, 0, 0, 0, 1, 0x12, 0x34] ++ List.replicate 46 0) : List Byte)) = false ∧ frDst (([2, 0, 0, 0, 0, 9, 2, 0, 0, 0, 0, 1, 0x12, 0x34] ++ List.replicate 46 0) : List Byte) ≠ wEth.devMac)))
    ∧ ((((wEth).setEth { Eth.idle with txq := (leBytes 8 0 ++ leBytes 2 60 ++ [3, 0, 0, 0, 0, 0] ++ wBytes) ++ [5] }).ethClocked = true)
    ∧ ((wBytes : List Byte).length < 65536)
    ∧ ((wBytes : List Byte).length % 4 = 0)
    ∧ (((wEth).setEth { Eth.idle with txq := (leBytes 8 0 ++ leBytes 2 60 ++ [3, 0, 0, 0, 0, 0] ++ wBytes) ++ [5] }).eth.txq = leBytes 8 0 ++ leBytes 2 (wBytes : List Byte).length ++ [3, 0, 0, 0, 0, 0] ++ (wBytes : List Byte) ++ ([5] : List Byte)))
    ∧ ((((wEth.put (ETHSW_PVID_PVID 2) 1).setEth { Eth.idle with txq := (leBytes 8 0 ++ leBytes 2 60 ++ [2, 0, 0, 0, 0, 0] ++ wBytes) ++ [5] }).ethClocked = true)
    ∧ ((wBytes : List Byte).length < 65536)
    ∧ ((wBytes : List Byte).length % 4 = 0)
    ∧ (((wEth.put (ETHSW_PVID_PVID 2) 1).setEth { Eth.idle with txq := (leBytes 8 0 ++ leBytes 2 60 ++ [2, 0, 0, 0, 0, 0] ++ wBytes) ++ [5] }).eth.txq = leBytes 8 0 ++ leBytes 2 (wBytes : List Byte).length ++ [2, 0, 0, 0, 0, 0] ++ (wBytes : List Byte) ++ ([5] : List Byte))
    ∧ (isLinkLocal (frDst (wBytes : List Byte)) = false)
    ∧ (isMulticast (frDst (wBytes : List Byte)) = true)
    ∧ (((wEth.put (ETHSW_PVID_PVID 2) 1).setEth { Eth.idle with txq := (leBytes 8 0 ++ leBytes 2 60 ++ [2, 0, 0, 0, 0, 0] ++ wBytes) ++ [5] }).vlanOf (((wEth.put (ETHSW_PVID_PVID 2) 1).setEth { Eth.idle with txq := (leBytes 8 0 ++ leBytes 2 60 ++ [2, 0, 0, 0, 0, 0] ++ wBytes) ++ [5] }).frClass 2 (wBytes : List Byte)).1 = some (0 : Nat))
    ∧ (∀ q : Fin 2, ((wEth.put (ETHSW_PVID_PVID 2) 1).setEth { Eth.idle with txq := (leBytes 8 0 ++ leBytes 2 60 ++ [2, 0, 0, 0, 0, 0] ++ wBytes) ++ [5] }).bit (ETHSW_VLAN_MEMB (0 : Nat)) q.val = true ∧ (7 : BitVec 3).getLsbD q.val = true ∧ ((wEth.put (ETHSW_PVID_PVID 2) 1).setEth { Eth.idle with txq := (leBytes 8 0 ++ leBytes 2 60 ++ [2, 0, 0, 0, 0, 0] ++ wBytes) ++ [5] }).portUp q.val = true)) := by
  and_intros <;> decide +kernel

theorem witness_ethernet_serves_the_device_and_keeps_time_part6 :
    ((((wEth).setEth { Eth.idle with txq := (leBytes 8 0 ++ leBytes 2 60 ++ [2, 0, 0, 0, 0, 0] ++ wBytes) ++ [5] }).ethClocked = true)
    ∧ ((wBytes : List Byte).length < 65536)
    ∧ ((wBytes : List Byte).length % 4 = 0)
    ∧ (((wEth).setEth { Eth.idle with txq := (leBytes 8 0 ++ leBytes 2 60 ++ [2, 0, 0, 0, 0, 0] ++ wBytes) ++ [5] }).eth.txq = leBytes 8 0 ++ leBytes 2 (wBytes : List Byte).length ++ [2, 0, 0, 0, 0, 0] ++ (wBytes : List Byte) ++ ([5] : List Byte))
    ∧ (isLinkLocal (frDst (wBytes : List Byte)) = true ∨ ((wEth).setEth { Eth.idle with txq := (leBytes 8 0 ++ leBytes 2 60 ++ [2, 0, 0, 0, 0, 0] ++ wBytes) ++ [5] }).vlanOf (((wEth).setEth { Eth.idle with txq := (leBytes 8 0 ++ leBytes 2 60 ++ [2, 0, 0, 0, 0, 0] ++ wBytes) ++ [5] }).frClass 2 (wBytes : List Byte)).1 = none))
    ∧ ((((wEth).setEth { Eth.idle with txq := (leBytes 8 0 ++ leBytes 2 60 ++ [1, 0, 0, 0, 0, 0] ++ wBytes) ++ [5] }).ethClocked = true)
    ∧ ((wBytes : List Byte).length < 65536)
    ∧ ((wBytes : List Byte).length % 4 = 0)
    ∧ (((wEth).setEth { Eth.idle with txq := (leBytes 8 0 ++ leBytes 2 60 ++ [1, 0, 0, 0, 0, 0] ++ wBytes) ++ [5] }).eth.txq = leBytes 8 0 ++ leBytes 2 (wBytes : List Byte).length ++ [(1 : Byte), 0, 0, 0, 0, 0] ++ (wBytes : List Byte) ++ ([5] : List Byte))
    ∧ ((1 : Byte) ≠ 2)
    ∧ ((1 : Byte) ≠ 3))
    ∧ (((wEth.setEth { Eth.idle with txq := ((leBytes 8 0 ++ leBytes 2 60 ++ [3, 0, 0, 0, 0, 0] ++ wBytes)).take 75 }).ethClocked = false ∨ (wEth.setEth { Eth.idle with txq := ((leBytes 8 0 ++ leBytes 2 60 ++ [3, 0, 0, 0, 0, 0] ++ wBytes)).take 75 }).eth.txq.length < 16 ∨ (wEth.setEth { Eth.idle with txq := ((leBytes 8 0 ++ leBytes 2 60 ++ [3, 0, 0, 0, 0, 0] ++ wBytes)).take 75 }).eth.txq.length < 16 + (leNat (((wEth.setEth { Eth.idle with txq := ((leBytes 8 0 ++ leBytes 2 60 ++ [3, 0, 0, 0, 0, 0] ++ wBytes)).take 75 }).eth.txq.drop 8).take 2) + 3) / 4 * 4))
    ∧ ((({ wEth.setEth { Eth.idle with table := [(7, 1, 5), (8, 1, 5)] } with clk := { wEth.clk with now := 10 ^ 12 } }).ethClocked = true))
    ∧ ((({ wEth with on := 0x1FFF }).ethClocked = false))
    ∧ (((((wEth.put T1S_CFG_EN 1).put T1S_CFG_PLCA 1).put T1S_CFG_NODEID 4 |>.setEth { Eth.idle with t1s := [[1], [2]] }).ethClocked = true)
    ∧ ((((wEth.put T1S_CFG_EN 1).put T1S_CFG_PLCA 1).put T1S_CFG_NODEID 4 |>.setEth { Eth.idle with t1s := [[1], [2]] }).is T1S_CFG_EN = true)
    ∧ ((((wEth.put T1S_CFG_EN 1).put T1S_CFG_PLCA 1).put T1S_CFG_NODEID 4 |>.setEth { Eth.idle with t1s := [[1], [2]] }).is T1S_CFG_PLCA = false ∨ (((wEth.put T1S_CFG_EN 1).put T1S_CFG_PLCA 1).put T1S_CFG_NODEID 4 |>.setEth { Eth.idle with t1s := [[1], [2]] }).get T1S_CFG_NODEID ≠ 255)) := by
  and_intros <;> decide +kernel

theorem witness_ethernet_serves_the_device_and_keeps_time_part7 :
    (((((wEth.put T1S_CFG_EN 1).put T1S_CFG_PLCA 1).put T1S_CFG_NODEID 0).ethClocked = true)
    ∧ ((((wEth.put T1S_CFG_EN 1).put T1S_CFG_PLCA 1).put T1S_CFG_NODEID 0).is T1S_CFG_EN = true)
    ∧ ((((wEth.put T1S_CFG_EN 1).put T1S_CFG_PLCA 1).put T1S_CFG_NODEID 0).is T1S_CFG_PLCA = true)
    ∧ ((((wEth.put T1S_CFG_EN 1).put T1S_CFG_PLCA 1).put T1S_CFG_NODEID 0).get T1S_CFG_NODEID = 0))
    ∧ (((((wEth.put T1S_CFG_EN 1).put T1S_CFG_PLCA 1).put T1S_CFG_NODEID 255).ethClocked = false ∨ (((wEth.put T1S_CFG_EN 1).put T1S_CFG_PLCA 1).put T1S_CFG_NODEID 255).is T1S_CFG_EN = false ∨ ((false : Bool) = false ∧ (((wEth.put T1S_CFG_EN 1).put T1S_CFG_PLCA 1).put T1S_CFG_NODEID 255).is T1S_CFG_PLCA = true ∧ (((wEth.put T1S_CFG_EN 1).put T1S_CFG_PLCA 1).put T1S_CFG_NODEID 255).get T1S_CFG_NODEID = 255) ∨ ((false : Bool) = true ∧ ((((wEth.put T1S_CFG_EN 1).put T1S_CFG_PLCA 1).put T1S_CFG_NODEID 255).is T1S_CFG_PLCA = false ∨ (((wEth.put T1S_CFG_EN 1).put T1S_CFG_PLCA 1).put T1S_CFG_NODEID 255).get T1S_CFG_NODEID ≠ 0))))
    ∧ (((((wEth.put GPTP_CFG_EN 1).put TB_CTRL_PORT 1).put GPTP_CFG_RELAY 1).ethClocked = true)
    ∧ ((((wEth.put GPTP_CFG_EN 1).put TB_CTRL_PORT 1).put GPTP_CFG_RELAY 1).ticking = true)
    ∧ ((((wEth.put GPTP_CFG_EN 1).put TB_CTRL_PORT 1).put GPTP_CFG_RELAY 1).is GPTP_CFG_EN = true)
    ∧ ((((wEth.put GPTP_CFG_EN 1).put TB_CTRL_PORT 1).put GPTP_CFG_RELAY 1).portUp (1 : Fin 2).val = true)
    ∧ ((((wEth.put GPTP_CFG_EN 1).put TB_CTRL_PORT 1).put GPTP_CFG_RELAY 1).get TB_CTRL_PORT = (1 : Fin 2).val))
    ∧ ((((((wEth.put GPTP_CFG_EN 1).put TB_CTRL_PORT 1).put GPTP_CFG_RELAY 1).setEth { Eth.idle with sync := some (1, 900, 950), offs := List.replicate 8 4100 }).ethClocked = true)
    ∧ (((((wEth.put GPTP_CFG_EN 1).put TB_CTRL_PORT 1).put GPTP_CFG_RELAY 1).setEth { Eth.idle with sync := some (1, 900, 950), offs := List.replicate 8 4100 }).ticking = true)
    ∧ (((((wEth.put GPTP_CFG_EN 1).put TB_CTRL_PORT 1).put GPTP_CFG_RELAY 1).setEth { Eth.idle with sync := some (1, 900, 950), offs := List.replicate 8 4100 }).is GPTP_CFG_EN = true)
    ∧ (((((wEth.put GPTP_CFG_EN 1).put TB_CTRL_PORT 1).put GPTP_CFG_RELAY 1).setEth { Eth.idle with sync := some (1, 900, 950), offs := List.replicate 8 4100 }).portUp (1 : Fin 2).val = true)
    ∧ (((((wEth.put GPTP_CFG_EN 1).put TB_CTRL_PORT 1).put GPTP_CFG_RELAY 1).setEth { Eth.idle with sync := some (1, 900, 950), offs := List.replicate 8 4100 }).get TB_CTRL_PORT = (1 : Fin 2).val)
    ∧ (((((wEth.put GPTP_CFG_EN 1).put TB_CTRL_PORT 1).put GPTP_CFG_RELAY 1).setEth { Eth.idle with sync := some (1, 900, 950), offs := List.replicate 8 4100 }).eth.sync = some ((1 : Fin 2).val, (900 : Nat), (950 : Nat))))
    ∧ (((((wEth.put GPTP_CFG_EN 1).put TB_CTRL_PORT 1)).get TB_CTRL_PORT ≠ (0 : Fin 2).val))
    ∧ (((((wEth.put GPTP_CFG_EN 1).put TB_CTRL_PORT 1)).get TB_CTRL_PORT ≠ (1 : Fin 2).val ∨ (((wEth.put GPTP_CFG_EN 1).put TB_CTRL_PORT 1)).eth.sync.all (fun e => e.1 != (1 : Fin 2).val) = true)) := by
  and_intros <;> decide +kernel

theorem witness_ethernet_serves_the_device_and_keeps_time_part8 :
    (((((wEth.put GPTP_CFG_EN 1).put TB_CTRL_PORT 1)).ethClocked = true)
    ∧ ((((wEth.put GPTP_CFG_EN 1).put TB_CTRL_PORT 1)).ticking = true)
    ∧ ((((wEth.put GPTP_CFG_EN 1).put TB_CTRL_PORT 1)).is GPTP_CFG_EN = true)
    ∧ ((((wEth.put GPTP_CFG_EN 1).put TB_CTRL_PORT 1)).portUp (1 : Fin 2).val = true)
    ∧ (0 ≤ ((((95 : Nat) : Int) - (5 : Nat)) - (((950 : Nat) : Int) - (900 : Nat))) / 2)
    ∧ (((((95 : Nat) : Int) - (5 : Nat)) - (((950 : Nat) : Int) - (900 : Nat))) / 2 < 2 ^ 32))
    ∧ (((((wEth.put GPTP_CFG_EN 1).put TB_CTRL_PORT 1)).ethClocked = true)
    ∧ ((((wEth.put GPTP_CFG_EN 1).put TB_CTRL_PORT 1)).ticking = true)
    ∧ ((((wEth.put GPTP_CFG_EN 1).put TB_CTRL_PORT 1)).is GPTP_CFG_EN = true)
    ∧ ((((wEth.put GPTP_CFG_EN 1).put TB_CTRL_PORT 1)).portUp (1 : Fin 2).val = true)
    ∧ (((((5 : Nat) : Int) - (95 : Nat)) - (((950 : Nat) : Int) - (900 : Nat))) / 2 < 0 ∨ 2 ^ 32 ≤ ((((5 : Nat) : Int) - (95 : Nat)) - (((950 : Nat) : Int) - (900 : Nat))) / 2))
    ∧ (((((wEth.put GPTP_CFG_EN 1).put TB_CTRL_PORT 1)).ethClocked = true)
    ∧ ((((wEth.put GPTP_CFG_EN 1).put TB_CTRL_PORT 1)).ticking = true)
    ∧ ((((wEth.put GPTP_CFG_EN 1).put TB_CTRL_PORT 1)).is GPTP_CFG_EN = true)
    ∧ ((((wEth.put GPTP_CFG_EN 1).put TB_CTRL_PORT 1)).portUp (1 : Fin 2).val = true))
    ∧ ((wEth.ethClocked = false ∨ wEth.ticking = false ∨ wEth.is GPTP_CFG_EN = false ∨ wEth.portUp (1 : Fin 2).val = false))
    ∧ ((([5, 0, 0, 0, 0, 0, 0, 0, 4] : List Int)[0]? = some (5 : Int))
    ∧ (([5, 0, 0, 0, 0, 0, 0, 0, 4] : List Int)[8]? = some (4 : Int)))
    ∧ ((wOn.eth.trimAt + 40000000 ≤ wOn.now → wOn.ticking = true → wOn.is TB_CTRL_DISC_EN = false ∨ wOn.eth.offs = [])) := by
  and_intros <;> decide +kernel

theorem witness_ethernet_serves_the_device_and_keeps_time_part9 :
    ((({ (wOn.put TB_CTRL_DISC_EN 1).setEth { Eth.idle with offs := [5] } with clk := { wOn.clk with now := 50000000 } }).ticking = true)
    ∧ (({ (wOn.put TB_CTRL_DISC_EN 1).setEth { Eth.idle with offs := [5] } with clk := { wOn.clk with now := 50000000 } }).is TB_CTRL_DISC_EN = true)
    ∧ (({ (wOn.put TB_CTRL_DISC_EN 1).setEth { Eth.idle with offs := [5] } with clk := { wOn.clk with now := 50000000 } }).eth.offs ≠ [])
    ∧ (({ (wOn.put TB_CTRL_DISC_EN 1).setEth { Eth.idle with offs := [5] } with clk := { wOn.clk with now := 50000000 } }).eth.trimAt + 40000000 ≤ ({ (wOn.put TB_CTRL_DISC_EN 1).setEth { Eth.idle with offs := [5] } with clk := { wOn.clk with now := 50000000 } }).now)
    ∧ ((signed 20 (({ (wOn.put TB_CTRL_DISC_EN 1).setEth { Eth.idle with offs := [5] } with clk := { wOn.clk with now := 50000000 } }).get TB_CTRL_TRIM)).natAbs ≤ 1000)) := by
  and_intros <;> decide +kernel

theorem witness_safety_layer_connections_open_receive_and_send :
    ((wSc.asl.results.length = 4)
    ∧ (wSc.scRuns (1 : Fin 4).val = true)
    ∧ (wSc.scRedundant (1 : Fin 4).val = true)
    ∧ (badDesc (wDesc : BitVec 256) = false)
    ∧ (descU (wDesc : BitVec 256) 4 1 = 0)
    ∧ (wSc.asl.conns.any (fun o => o.ident == descU (wDesc : BitVec 256) 0 4 && wSc.aslOpen o) = false)
    ∧ ((wSc.asl.conns.filter (fun o => o.core == (1 : Fin 4).val)).length < 32))
    ∧ ((wSc.asl.results.length = 4)
    ∧ (wSc.scRuns (1 : Fin 4).val = true)
    ∧ (wSc.scRedundant (1 : Fin 4).val = true)
    ∧ (badDesc ((wDesc + BitVec.ofNat 256 (2 ^ 32 + 2 * 2 ^ 40 + 5000 * 2 ^ 96)) : BitVec 256) = false)
    ∧ (descU ((wDesc + BitVec.ofNat 256 (2 ^ 32 + 2 * 2 ^ 40 + 5000 * 2 ^ 96)) : BitVec 256) 4 1 = 1)
    ∧ (wSc.asl.conns.any (fun o => o.ident == descU ((wDesc + BitVec.ofNat 256 (2 ^ 32 + 2 * 2 ^ 40 + 5000 * 2 ^ 96)) : BitVec 256) 0 4 && wSc.aslOpen o) = false)
    ∧ ((wSc.asl.conns.filter (fun o => o.core == (1 : Fin 4).val)).length < 32))
    ∧ ((((wSc).setAsl { Asl.idle with conns := [{ wConn with state := 3, cause := 1 }] }).asl.results.length = 4)
    ∧ (((wSc).setAsl { Asl.idle with conns := [{ wConn with state := 3, cause := 1 }] }).scRuns (1 : Fin 4).val = true)
    ∧ (((wSc).setAsl { Asl.idle with conns := [{ wConn with state := 3, cause := 1 }] }).scRedundant (1 : Fin 4).val = true)
    ∧ (((wSc).setAsl { Asl.idle with conns := [{ wConn with state := 3, cause := 1 }] }).asl.conns.findIdx? (fun o => o.core == (1 : Fin 4).val && o.ident == descU (wDesc : BitVec 256) 0 4 && ((wSc).setAsl { Asl.idle with conns := [{ wConn with state := 3, cause := 1 }] }).aslOpen o) = some (0 : Nat))
    ∧ (((wSc).setAsl { Asl.idle with conns := [{ wConn with state := 3, cause := 1 }] }).asl.conns[(0 : Nat)]? = some ({ wConn with state := 3, cause := 1 } : AslConn)))
    ∧ ((wScSplit.asl.results.length = 4)
    ∧ (wScSplit.scRuns (0 : Fin 4).val = true)
    ∧ (wScSplit.scRedundant (0 : Fin 4).val = false))
    ∧ ((wSc.asl.results.length = 4)
    ∧ (wSc.scRuns (1 : Fin 4).val = true)
    ∧ (wSc.scRedundant (1 : Fin 4).val = true)
    ∧ ((true : Bool) = false ∨ wSc.asl.conns.findIdx? (fun o => o.core == (1 : Fin 4).val && o.ident == descU (0 : BitVec 256) 0 4 && wSc.aslOpen o) = none)
    ∧ (badDesc (0 : BitVec 256) = true))
    ∧ ((((wSc).setAsl { Asl.idle with conns := [wConn] }).asl.results.length = 4)
    ∧ (((wSc).setAsl { Asl.idle with conns := [wConn] }).scRuns (1 : Fin 4).val = true)
    ∧ (((wSc).setAsl { Asl.idle with conns := [wConn] }).scRedundant (1 : Fin 4).val = true)
    ∧ (badDesc (wDesc : BitVec 256) = false)
    ∧ ((false : Bool) = false ∨ ((wSc).setAsl { Asl.idle with conns := [wConn] }).asl.conns.findIdx? (fun o => o.core == (1 : Fin 4).val && o.ident == descU (wDesc : BitVec 256) 0 4 && ((wSc).setAsl { Asl.idle with conns := [wConn] }).aslOpen o) = none)
    ∧ (((wSc).setAsl { Asl.idle with conns := [wConn] }).asl.conns.any (fun o => o.ident == descU (wDesc : BitVec 256) 0 4 && ((wSc).setAsl { Asl.idle with conns := [wConn] }).aslOpen o) = true)) := by
  and_intros <;> decide +kernel

theorem witness_safety_layer_connections_open_receive_and_send_part2 :
    (((wSc.setAsl { Asl.idle with conns := List.replicate 32 wConnOther }).asl.results.length = 4)
    ∧ ((wSc.setAsl { Asl.idle with conns := List.replicate 32 wConnOther }).scRuns (1 : Fin 4).val = true)
    ∧ ((wSc.setAsl { Asl.idle with conns := List.replicate 32 wConnOther }).scRedundant (1 : Fin 4).val = true)
    ∧ (badDesc (wDesc : BitVec 256) = false)
    ∧ ((wSc.setAsl { Asl.idle with conns := List.replicate 32 wConnOther }).asl.conns.any (fun o => o.ident == descU (wDesc : BitVec 256) 0 4 && (wSc.setAsl { Asl.idle with conns := List.replicate 32 wConnOther }).aslOpen o) = false)
    ∧ (32 ≤ ((wSc.setAsl { Asl.idle with conns := List.replicate 32 wConnOther }).asl.conns.filter (fun o => o.core == (1 : Fin 4).val)).length))
    ∧ ((wOn.scRuns (1 : Fin 4).val = false))
    ∧ ((wOn.scRuns (1 : Fin 4).val = false ∨ wOn.scRedundant (1 : Fin 4).val = false ∨ wOn.aslSince (1 : Fin 4).val 1 = false))
    ∧ ((wSc.scRuns (1 : Fin 4).val = true)
    ∧ (wSc.scRedundant (1 : Fin 4).val = true)
    ∧ (wSc.aslSince (1 : Fin 4).val 1 = true)
    ∧ (wSc.asl.conns = []))
    ∧ ((((wSc).setAsl { Asl.idle with conns := [{ wConnTx with timer := some 800 }] }).scRuns (1 : Fin 4).val = true)
    ∧ (((wSc).setAsl { Asl.idle with conns := [{ wConnTx with timer := some 800 }] }).scRedundant (1 : Fin 4).val = true)
    ∧ (((wSc).setAsl { Asl.idle with conns := [{ wConnTx with timer := some 800 }] }).aslSince (1 : Fin 4).val 1 = true)
    ∧ (((wSc).setAsl { Asl.idle with conns := [{ wConnTx with timer := some 800 }] }).asl.conns = [({ wConnTx with timer := some 800 } : AslConn)])
    ∧ (({ wConnTx with timer := some 800 } : AslConn).core = (1 : Fin 4).val)
    ∧ (((wSc).setAsl { Asl.idle with conns := [{ wConnTx with timer := some 800 }] }).asl.passAt.length = 4)
    ∧ (({ wConnTx with timer := some 800 } : AslConn).tx = true)
    ∧ (({ wConnTx with timer := some 800 } : AslConn).timer.any (fun o => decide (((wSc).setAsl { Asl.idle with conns := [{ wConnTx with timer := some 800 }] }).tick < o + ({ wConnTx with timer := some 800 } : AslConn).time * 100000)) = true))
    ∧ ((((wSc).setAsl { Asl.idle with conns := [wConnTx] }).scRuns (1 : Fin 4).val = true)
    ∧ (((wSc).setAsl { Asl.idle with conns := [wConnTx] }).scRedundant (1 : Fin 4).val = true)
    ∧ (((wSc).setAsl { Asl.idle with conns := [wConnTx] }).aslSince (1 : Fin 4).val 1 = true)
    ∧ (((wSc).setAsl { Asl.idle with conns := [wConnTx] }).asl.conns = [(wConnTx : AslConn)])
    ∧ ((wConnTx : AslConn).core = (1 : Fin 4).val)
    ∧ (((wSc).setAsl { Asl.idle with conns := [wConnTx] }).asl.passAt.length = 4)
    ∧ ((wConnTx : AslConn).tx = true)
    ∧ ((wConnTx : AslConn).state = 2)
    ∧ ((wConnTx : AslConn).timer = none ∨ (wConnTx : AslConn).timer.any (fun o => decide (o + (wConnTx : AslConn).time * 100000 ≤ ((wSc).setAsl { Asl.idle with conns := [wConnTx] }).tick)) = true)
    ∧ ((wConnTx : AslConn).isUdp = true)
    ∧ (((wSc).setAsl { Asl.idle with conns := [wConnTx] }).isOn 13 = true)
    ∧ (((wSc).setAsl { Asl.idle with conns := [wConnTx] }).pllA = true)
    ∧ (((wSc).setAsl { Asl.idle with conns := [wConnTx] }).eth.txq.length + (((wSc).setAsl { Asl.idle with conns := [wConnTx] }).useFree.aslUdpRecord (wConnTx : AslConn) (aslPdu (wConnTx : AslConn).ident (wConnTx : AslConn).seq (b2n (wConnTx : AslConn).init + 2 * b2n (wConnTx : AslConn).stop + 4 * b2n (wConnTx : AslConn).sto + 8 * b2n (!((wSc).setAsl { Asl.idle with conns := [wConnTx] }).is HSM_STATUS_SAFEOK)) (wConnTx : AslConn).data)).length ≤ 16384)) := by
  and_intros <;> decide +kernel

theorem witness_safety_layer_connections_open_receive_and_send_part3 :
    ((((wSc).setAsl { Asl.idle with conns := [wConnTx] } |>.setEth { Eth.idle with txq := List.replicate 16380 0 }).scRuns (1 : Fin 4).val = true)
    ∧ (((wSc).setAsl { Asl.idle with conns := [wConnTx] } |>.setEth { Eth.idle with txq := List.replicate 16380 0 }).scRedundant (1 : Fin 4).val = true)
    ∧ (((wSc).setAsl { Asl.idle with conns := [wConnTx] } |>.setEth { Eth.idle with txq := List.replicate 16380 0 }).aslSince (1 : Fin 4).val 1 = true)
    ∧ (((wSc).setAsl { Asl.idle with conns := [wConnTx] } |>.setEth { Eth.idle with txq := List.replicate 16380 0 }).asl.conns = [(wConnTx : AslConn)])
    ∧ ((wConnTx : AslConn).core = (1 : Fin 4).val)
    ∧ (((wSc).setAsl { Asl.idle with conns := [wConnTx] } |>.setEth { Eth.idle with txq := List.replicate 16380 0 }).asl.passAt.length = 4)
    ∧ ((wConnTx : AslConn).tx = true)
    ∧ ((wConnTx : AslConn).state = 2)
    ∧ ((wConnTx : AslConn).timer = none ∨ (wConnTx : AslConn).timer.any (fun o => decide (o + (wConnTx : AslConn).time * 100000 ≤ ((wSc).setAsl { Asl.idle with conns := [wConnTx] } |>.setEth { Eth.idle with txq := List.replicate 16380 0 }).tick)) = true)
    ∧ ((wConnTx : AslConn).isUdp = true)
    ∧ (((wSc).setAsl { Asl.idle with conns := [wConnTx] } |>.setEth { Eth.idle with txq := List.replicate 16380 0 }).isOn 13 = false ∨ ((wSc).setAsl { Asl.idle with conns := [wConnTx] } |>.setEth { Eth.idle with txq := List.replicate 16380 0 }).pllA = false ∨ 16384 < ((wSc).setAsl { Asl.idle with conns := [wConnTx] } |>.setEth { Eth.idle with txq := List.replicate 16380 0 }).eth.txq.length + (((wSc).setAsl { Asl.idle with conns := [wConnTx] } |>.setEth { Eth.idle with txq := List.replicate 16380 0 }).useFree.aslUdpRecord (wConnTx : AslConn) (aslPdu (wConnTx : AslConn).ident (wConnTx : AslConn).seq (b2n (wConnTx : AslConn).init + 2 * b2n (wConnTx : AslConn).stop + 4 * b2n (wConnTx : AslConn).sto + 8 * b2n (!((wSc).setAsl { Asl.idle with conns := [wConnTx] } |>.setEth { Eth.idle with txq := List.replicate 16380 0 }).is HSM_STATUS_SAFEOK)) (wConnTx : AslConn).data)).length))
    ∧ ((((((((wSc.put (CAN_CTRL_INIT 2) 0).put (CAN_RAM_NTX 2) 4).put (CAN_RAM_NF0 2) 8).put (CAN_RAM_NF1 2) 8).setCan 2 { Can.idle with live := 2 }).setAsl { Asl.idle with conns := [(wConnCan none)] }).scRuns (1 : Fin 4).val = true)
    ∧ (((((((wSc.put (CAN_CTRL_INIT 2) 0).put (CAN_RAM_NTX 2) 4).put (CAN_RAM_NF0 2) 8).put (CAN_RAM_NF1 2) 8).setCan 2 { Can.idle with live := 2 }).setAsl { Asl.idle with conns := [(wConnCan none)] }).scRedundant (1 : Fin 4).val = true)
    ∧ (((((((wSc.put (CAN_CTRL_INIT 2) 0).put (CAN_RAM_NTX 2) 4).put (CAN_RAM_NF0 2) 8).put (CAN_RAM_NF1 2) 8).setCan 2 { Can.idle with live := 2 }).setAsl { Asl.idle with conns := [(wConnCan none)] }).aslSince (1 : Fin 4).val 1 = true)
    ∧ (((((((wSc.put (CAN_CTRL_INIT 2) 0).put (CAN_RAM_NTX 2) 4).put (CAN_RAM_NF0 2) 8).put (CAN_RAM_NF1 2) 8).setCan 2 { Can.idle with live := 2 }).setAsl { Asl.idle with conns := [(wConnCan none)] }).asl.conns = [((wConnCan none) : AslConn)])
    ∧ (((wConnCan none) : AslConn).core = (1 : Fin 4).val)
    ∧ (((((((wSc.put (CAN_CTRL_INIT 2) 0).put (CAN_RAM_NTX 2) 4).put (CAN_RAM_NF0 2) 8).put (CAN_RAM_NF1 2) 8).setCan 2 { Can.idle with live := 2 }).setAsl { Asl.idle with conns := [(wConnCan none)] }).asl.passAt.length = 4)
    ∧ (((wConnCan none) : AslConn).tx = true)
    ∧ (((wConnCan none) : AslConn).state = 2)
    ∧ (((wConnCan none) : AslConn).timer = none ∨ ((wConnCan none) : AslConn).timer.any (fun o => decide (o + ((wConnCan none) : AslConn).time * 100000 ≤ ((((((wSc.put (CAN_CTRL_INIT 2) 0).put (CAN_RAM_NTX 2) 4).put (CAN_RAM_NF0 2) 8).put (CAN_RAM_NF1 2) 8).setCan 2 { Can.idle with live := 2 }).setAsl { Asl.idle with conns := [(wConnCan none)] }).tick)) = true)
    ∧ (((wConnCan none) : AslConn).isUdp = false)
    ∧ (((wConnCan none) : AslConn).port < 4)
    ∧ (((((((wSc.put (CAN_CTRL_INIT 2) 0).put (CAN_RAM_NTX 2) 4).put (CAN_RAM_NF0 2) 8).put (CAN_RAM_NF1 2) 8).setCan 2 { Can.idle with live := 2 }).setAsl { Asl.idle with conns := [(wConnCan none)] }).can.length = 4)
    ∧ (((((((wSc.put (CAN_CTRL_INIT 2) 0).put (CAN_RAM_NTX 2) 4).put (CAN_RAM_NF0 2) 8).put (CAN_RAM_NF1 2) 8).setCan 2 { Can.idle with live := 2 }).setAsl { Asl.idle with conns := [(wConnCan none)] }).isOn 13 = true)
    ∧ (((((((wSc.put (CAN_CTRL_INIT 2) 0).put (CAN_RAM_NTX 2) 4).put (CAN_RAM_NF0 2) 8).put (CAN_RAM_NF1 2) 8).setCan 2 { Can.idle with live := 2 }).setAsl { Asl.idle with conns := [(wConnCan none)] }).pllA = true)
    ∧ (((wConnCan none) : AslConn).buf.all (fun o => !bitOf o (((((((wSc.put (CAN_CTRL_INIT 2) 0).put (CAN_RAM_NTX 2) 4).put (CAN_RAM_NF0 2) 8).put (CAN_RAM_NF1 2) 8).setCan 2 { Can.idle with live := 2 }).setAsl { Asl.idle with conns := [(wConnCan none)] }).get (CAN_TXPEND_PEND ((wConnCan none) : AslConn).port))) = true)
    ∧ (((((((wSc.put (CAN_CTRL_INIT 2) 0).put (CAN_RAM_NTX 2) 4).put (CAN_RAM_NF0 2) 8).put (CAN_RAM_NF1 2) 8).setCan 2 { Can.idle with live := 2 }).setAsl { Asl.idle with conns := [(wConnCan none)] }).canFree ((wConnCan none) : AslConn).port ≠ []))
    ∧ ((((((((wSc.put (CAN_CTRL_INIT 2) 0).put (CAN_RAM_NTX 2) 4).put (CAN_RAM_NF0 2) 8).put (CAN_RAM_NF1 2) 8).setCan 2 { Can.idle with live := 2, order := [2, 1], att := some 1 } |>.put (CAN_TXPEND_PEND 2) 6).setAsl { Asl.idle with conns := [(wConnCan (some 2))] }).scRuns (1 : Fin 4).val = true)
    ∧ (((((((wSc.put (CAN_CTRL_INIT 2) 0).put (CAN_RAM_NTX 2) 4).put (CAN_RAM_NF0 2) 8).put (CAN_RAM_NF1 2) 8).setCan 2 { Can.idle with live := 2, order := [2, 1], att := some 1 } |>.put (CAN_TXPEND_PEND 2) 6).setAsl { Asl.idle with conns := [(wConnCan (some 2))] }).scRedundant (1 : Fin 4).val = true)
    ∧ (((((((wSc.put (CAN_CTRL_INIT 2) 0).put (CAN_RAM_NTX 2) 4).put (CAN_RAM_NF0 2) 8).put (CAN_RAM_NF1 2) 8).setCan 2 { Can.idle with live := 2, order := [2, 1], att := some 1 } |>.put (CAN_TXPEND_PEND 2) 6).setAsl { Asl.idle with conns := [(wConnCan (some 2))] }).aslSince (1 : Fin 4).val 1 = true)
    ∧ (((((((wSc.put (CAN_CTRL_INIT 2) 0).put (CAN_RAM_NTX 2) 4).put (CAN_RAM_NF0 2) 8).put (CAN_RAM_NF1 2) 8).setCan 2 { Can.idle with live := 2, order := [2, 1], att := some 1 } |>.put (CAN_TXPEND_PEND 2) 6).setAsl { Asl.idle with conns := [(wConnCan (some 2))] }).asl.conns = [((wConnCan (some 2)) : AslConn)])
    ∧ (((wConnCan (some 2)) : AslConn).core = (1 : Fin 4).val)
    ∧ (((((((wSc.put (CAN_CTRL_INIT 2) 0).put (CAN_RAM_NTX 2) 4).put (CAN_RAM_NF0 2) 8).put (CAN_RAM_NF1 2) 8).setCan 2 { Can.idle with live := 2, order := [2, 1], att := some 1 } |>.put (CAN_TXPEND_PEND 2) 6).setAsl { Asl.idle with conns := [(wConnCan (some 2))] }).asl.passAt.length = 4)
    ∧ (((wConnCan (some 2)) : AslConn).tx = true)
    ∧ (((wConnCan (some 2)) : AslConn).state = 2)
    ∧ (((wConnCan (some 2)) : AslConn).timer = none ∨ ((wConnCan (some 2)) : AslConn).timer.any (fun o => decide (o + ((wConnCan (some 2)) : AslConn).time * 100000 ≤ ((((((wSc.put (CAN_CTRL_INIT 2) 0).put (CAN_RAM_NTX 2) 4).put (CAN_RAM_NF0 2) 8).put (CAN_RAM_NF1 2) 8).setCan 2 { Can.idle with live := 2, order := [2, 1], att := some 1 } |>.put (CAN_TXPEND_PEND 2) 6).setAsl { Asl.idle with conns := [(wConnCan (some 2))] }).tick)) = true)
    ∧ (((wConnCan (some 2)) : AslConn).isUdp = false)
    ∧ (((wConnCan (some 2)) : AslConn).port < 4)
    ∧ (((((((wSc.put (CAN_CTRL_INIT 2) 0).put (CAN_RAM_NTX 2) 4).put (CAN_RAM_NF0 2) 8).put (CAN_RAM_NF1 2) 8).setCan 2 { Can.idle with live := 2, order := [2, 1], att := some 1 } |>.put (CAN_TXPEND_PEND 2) 6).setAsl { Asl.idle with conns := [(wConnCan (some 2))] }).can.length = 4)
    ∧ (((((((wSc.put (CAN_CTRL_INIT 2) 0).put (CAN_RAM_NTX 2) 4).put (CAN_RAM_NF0 2) 8).put (CAN_RAM_NF1 2) 8).setCan 2 { Can.idle with live := 2, order := [2, 1], att := some 1 } |>.put (CAN_TXPEND_PEND 2) 6).setAsl { Asl.idle with conns := [(wConnCan (some 2))] }).isOn 13 = true)
    ∧ (((((((wSc.put (CAN_CTRL_INIT 2) 0).put (CAN_RAM_NTX 2) 4).put (CAN_RAM_NF0 2) 8).put (CAN_RAM_NF1 2) 8).setCan 2 { Can.idle with live := 2, order := [2, 1], att := some 1 } |>.put (CAN_TXPEND_PEND 2) 6).setAsl { Asl.idle with conns := [(wConnCan (some 2))] }).pllA = true)
    ∧ (((wConnCan (some 2)) : AslConn).buf = some (2 : Fin 28).val)
    ∧ ((2 : Fin 28).val < ((((((wSc.put (CAN_CTRL_INIT 2) 0).put (CAN_RAM_NTX 2) 4).put (CAN_RAM_NF0 2) 8).put (CAN_RAM_NF1 2) 8).setCan 2 { Can.idle with live := 2, order := [2, 1], att := some 1 } |>.put (CAN_TXPEND_PEND 2) 6).setAsl { Asl.idle with conns := [(wConnCan (some 2))] }).canNtx ((wConnCan (some 2)) : AslConn).port)
    ∧ (bitOf (2 : Fin 28).val (((((((wSc.put (CAN_CTRL_INIT 2) 0).put (CAN_RAM_NTX 2) 4).put (CAN_RAM_NF0 2) 8).put (CAN_RAM_NF1 2) 8).setCan 2 { Can.idle with live := 2, order := [2, 1], att := some 1 } |>.put (CAN_TXPEND_PEND 2) 6).setAsl { Asl.idle with conns := [(wConnCan (some 2))] }).get (CAN_TXPEND_PEND ((wConnCan (some 2)) : AslConn).port)) = true)
    ∧ ((((((((wSc.put (CAN_CTRL_INIT 2) 0).put (CAN_RAM_NTX 2) 4).put (CAN_RAM_NF0 2) 8).put (CAN_RAM_NF1 2) 8).setCan 2 { Can.idle with live := 2, order := [2, 1], att := some 1 } |>.put (CAN_TXPEND_PEND 2) 6).setAsl { Asl.idle with conns := [(wConnCan (some 2))] }).canOf ((wConnCan (some 2)) : AslConn).port).att.isSome = true)
    ∧ ((((((((wSc.put (CAN_CTRL_INIT 2) 0).put (CAN_RAM_NTX 2) 4).put (CAN_RAM_NF0 2) 8).put (CAN_RAM_NF1 2) 8).setCan 2 { Can.idle with live := 2, order := [2, 1], att := some 1 } |>.put (CAN_TXPEND_PEND 2) 6).setAsl { Asl.idle with conns := [(wConnCan (some 2))] }).canOf ((wConnCan (some 2)) : AslConn).port).att ≠ some (2 : Fin 28).val))
    ∧ ((((wSc).setAsl { Asl.idle with conns := [(wConnCan none)] }).scRuns (1 : Fin 4).val = true)
    ∧ (((wSc).setAsl { Asl.idle with conns := [(wConnCan none)] }).scRedundant (1 : Fin 4).val = true)
    ∧ (((wSc).setAsl { Asl.idle with conns := [(wConnCan none)] }).aslSince (1 : Fin 4).val 1 = true)
    ∧ (((wSc).setAsl { Asl.idle with conns := [(wConnCan none)] }).asl.conns = [((wConnCan none) : AslConn)])
    ∧ (((wConnCan none) : AslConn).core = (1 : Fin 4).val)
    ∧ (((wSc).setAsl { Asl.idle with conns := [(wConnCan none)] }).asl.passAt.length = 4)
    ∧ (((wConnCan none) : AslConn).tx = true)
    ∧ (((wConnCan none) : AslConn).state = 2)
    ∧ (((wConnCan none) : AslConn).timer = none ∨ ((wConnCan none) : AslConn).timer.any (fun o => decide (o + ((wConnCan none) : AslConn).time * 100000 ≤ ((wSc).setAsl { Asl.idle with conns := [(wConnCan none)] }).tick)) = true)
    ∧ (((wConnCan none) : AslConn).isUdp = false)
    ∧ (((wConnCan none) : AslConn).buf = none)
    ∧ (((wSc).setAsl { Asl.idle with conns := [(wConnCan none)] }).isOn 13 = false ∨ ((wSc).setAsl { Asl.idle with conns := [(wConnCan none)] }).pllA = false ∨ ((wSc).setAsl { Asl.idle with conns := [(wConnCan none)] }).canFree ((wConnCan none) : AslConn).port = []))
    ∧ ((({ (wSc).setAsl { Asl.idle with conns := [wConn] } with cyc := 10 ^ 9, on := 0x1FFF }).scRuns (1 : Fin 4).val = true)
    ∧ (({ (wSc).setAsl { Asl.idle with conns := [wConn] } with cyc := 10 ^ 9, on := 0x1FFF }).scRedundant (1 : Fin 4).val = true)
    ∧ (({ (wSc).setAsl { Asl.idle with conns := [wConn] } with cyc := 10 ^ 9, on := 0x1FFF }).aslSince (1 : Fin 4).val 1 = true)
    ∧ (({ (wSc).setAsl { Asl.idle with conns := [wConn] } with cyc := 10 ^ 9, on := 0x1FFF }).asl.conns = [(wConn : AslConn)])
    ∧ ((wConn : AslConn).core = (1 : Fin 4).val)
    ∧ (({ (wSc).setAsl { Asl.idle with conns := [wConn] } with cyc := 10 ^ 9, on := 0x1FFF }).asl.passAt.length = 4)
    ∧ ((wConn : AslConn).tx = false)
    ∧ (({ (wSc).setAsl { Asl.idle with conns := [wConn] } with cyc := 10 ^ 9, on := 0x1FFF }).isOn 13 = false ∨ ({ (wSc).setAsl { Asl.idle with conns := [wConn] } with cyc := 10 ^ 9, on := 0x1FFF }).pllA = false)
    ∧ ((wConn : AslConn).state = 1 ∨ (wConn : AslConn).state = 2)
    ∧ ((wConn : AslConn).timer.any (fun o => decide (o + (wConn : AslConn).time * 100000 ≤ ({ (wSc).setAsl { Asl.idle with conns := [wConn] } with cyc := 10 ^ 9, on := 0x1FFF }).tick)) = true))
    ∧ ((({ (wSc).setAsl { Asl.idle with conns := [wConn] } with cyc := 10 ^ 9 }).scRuns (1 : Fin 4).val = true)
    ∧ (({ (wSc).setAsl { Asl.idle with conns := [wConn] } with cyc := 10 ^ 9 }).scRedundant (1 : Fin 4).val = true)
    ∧ (({ (wSc).setAsl { Asl.idle with conns := [wConn] } with cyc := 10 ^ 9 }).aslSince (1 : Fin 4).val 1 = true)
    ∧ (({ (wSc).setAsl { Asl.idle with conns := [wConn] } with cyc := 10 ^ 9 }).asl.conns = [(wConn : AslConn)])
    ∧ ((wConn : AslConn).core = (1 : Fin 4).val)
    ∧ (({ (wSc).setAsl { Asl.idle with conns := [wConn] } with cyc := 10 ^ 9 }).asl.passAt.length = 4)
    ∧ ((wConn : AslConn).tx = false)
    ∧ (({ (wSc).setAsl { Asl.idle with conns := [wConn] } with cyc := 10 ^ 9 }).isOn 13 = true)
    ∧ (({ (wSc).setAsl { Asl.idle with conns := [wConn] } with cyc := 10 ^ 9 }).pllA = true)
    ∧ ((wConn : AslConn).isUdp = false)
    ∧ ((wConn : AslConn).port < 4)
    ∧ (∀ k : Fin 2, ({ (wSc).setAsl { Asl.idle with conns := [wConn] } with cyc := 10 ^ 9 }).get (CAN_RXF_FILL (wConn : AslConn).port k.val) = 0)
    ∧ ((wConn : AslConn).state = 1 ∨ (wConn : AslConn).state = 2)
    ∧ ((wConn : AslConn).timer.any (fun o => decide (o + (wConn : AslConn).time * 100000 ≤ ({ (wSc).setAsl { Asl.idle with conns := [wConn] } with cyc := 10 ^ 9 }).tick)) = true)) := by
  and_intros <;> decide +kernel

theorem witness_safety_layer_connections_open_receive_and_send_part4 :
    ((({ (wSc).setAsl { Asl.idle with conns := [{ wConn with timer := some 900, errs := [1, 2, 3, 4, 5] }] } with on := 0x1FFF }).scRuns (1 : Fin 4).val = true)
    ∧ (({ (wSc).setAsl { Asl.idle with conns := [{ wConn with timer := some 900, errs := [1, 2, 3, 4, 5] }] } with on := 0x1FFF }).scRedundant (1 : Fin 4).val = true)
    ∧ (({ (wSc).setAsl { Asl.idle with conns := [{ wConn with timer := some 900, errs := [1, 2, 3, 4, 5] }] } with on := 0x1FFF }).aslSince (1 : Fin 4).val 1 = true)
    ∧ (({ (wSc).setAsl { Asl.idle with conns := [{ wConn with timer := some 900, errs := [1, 2, 3, 4, 5] }] } with on := 0x1FFF }).asl.conns = [({ wConn with timer := some 900, errs := [1, 2, 3, 4, 5] } : AslConn)])
    ∧ (({ wConn with timer := some 900, errs := [1, 2, 3, 4, 5] } : AslConn).core = (1 : Fin 4).val)
    ∧ (({ (wSc).setAsl { Asl.idle with conns := [{ wConn with timer := some 900, errs := [1, 2, 3, 4, 5] }] } with on := 0x1FFF }).asl.passAt.length = 4)
    ∧ (({ wConn with timer := some 900, errs := [1, 2, 3, 4, 5] } : AslConn).tx = false)
    ∧ (({ (wSc).setAsl { Asl.idle with conns := [{ wConn with timer := some 900, errs := [1, 2, 3, 4, 5] }] } with on := 0x1FFF }).isOn 13 = false ∨ ({ (wSc).setAsl { Asl.idle with conns := [{ wConn with timer := some 900, errs := [1, 2, 3, 4, 5] }] } with on := 0x1FFF }).pllA = false)
    ∧ (({ wConn with timer := some 900, errs := [1, 2, 3, 4, 5] } : AslConn).state = 1 ∨ ({ wConn with timer := some 900, errs := [1, 2, 3, 4, 5] } : AslConn).state = 2)
    ∧ (({ wConn with timer := some 900, errs := [1, 2, 3, 4, 5] } : AslConn).timer.any (fun o => decide (o + ({ wConn with timer := some 900, errs := [1, 2, 3, 4, 5] } : AslConn).time * 100000 ≤ ({ (wSc).setAsl { Asl.idle with conns := [{ wConn with timer := some 900, errs := [1, 2, 3, 4, 5] }] } with on := 0x1FFF }).tick)) = false)
    ∧ (({ wConn with timer := some 900, errs := [1, 2, 3, 4, 5] } : AslConn).errMax ≤ (({ wConn with timer := some 900, errs := [1, 2, 3, 4, 5] } : AslConn).errs.filter (fun o => decide (({ (wSc).setAsl { Asl.idle with conns := [{ wConn with timer := some 900, errs := [1, 2, 3, 4, 5] }] } with on := 0x1FFF }).tick < o + 100000000))).length))
    ∧ ((((wSc).setAsl { Asl.idle with conns := [wConn] }).scRuns (1 : Fin 4).val = true)
    ∧ (((wSc).setAsl { Asl.idle with conns := [wConn] }).scRedundant (1 : Fin 4).val = true)
    ∧ (((wSc).setAsl { Asl.idle with conns := [wConn] }).aslSince (1 : Fin 4).val 1 = true)
    ∧ (((wSc).setAsl { Asl.idle with conns := [wConn] }).asl.conns = [(wConn : AslConn)])
    ∧ ((wConn : AslConn).core = (1 : Fin 4).val)
    ∧ (((wSc).setAsl { Asl.idle with conns := [wConn] }).asl.passAt.length = 4)
    ∧ ((wConn : AslConn).tx = false)
    ∧ (((wSc).setAsl { Asl.idle with conns := [wConn] }).isOn 13 = true)
    ∧ (((wSc).setAsl { Asl.idle with conns := [wConn] }).pllA = true)
    ∧ ((wConn : AslConn).isUdp = false)
    ∧ ((wConn : AslConn).port < 4)
    ∧ (∀ k : Fin 2, ((wSc).setAsl { Asl.idle with conns := [wConn] }).get (CAN_RXF_FILL (wConn : AslConn).port k.val) = 0)
    ∧ ((wConn : AslConn).state = 3 ∨ ((wConn : AslConn).timer.any (fun o => decide (o + (wConn : AslConn).time * 100000 ≤ ((wSc).setAsl { Asl.idle with conns := [wConn] }).tick)) = false ∧ ((wConn : AslConn).errs.filter (fun o => decide (((wSc).setAsl { Asl.idle with conns := [wConn] }).tick < o + 100000000))).length < (wConn : AslConn).errMax)))
    ∧ ((((((((((((wSc.put (CAN_CTRL_INIT 2) 0).put (CAN_RAM_NTX 2) 4).put (CAN_RAM_NF0 2) 8).put (CAN_RAM_NF1 2) 8).setCan 2 { Can.idle with live := 2 }).put (CAN_RXF_FILL 2 1) 1).put (CAN_RXF_GET 2 1) 3).put (CAN_RAM_ESZ 2) 1).wrBytes (((((((((wSc.put (CAN_CTRL_INIT 2) 0).put (CAN_RAM_NTX 2) 4).put (CAN_RAM_NF0 2) 8).put (CAN_RAM_NF1 2) 8).setCan 2 { Can.idle with live := 2 }).put (CAN_RXF_FILL 2 1) 1).put (CAN_RXF_GET 2 1) 3).put (CAN_RAM_ESZ 2) 1).canRxElem 2 1 3) (leBytes 4 0x321 ++ leBytes 4 (2 ^ 30 + 16 * 2 ^ 16) ++ leBytes 8 0 ++ leBytes 8 900 ++ leBytes 8 0 ++ aslPdu 0xABCD1234 5 1 [1, 2, 3, 4, 5, 6, 7, 8])).setAsl { Asl.idle with conns := [{ wConn with desc := (BitVec.ofNat 256 (0xABCD1234 + 2 ^ 40 + 2 * 2 ^ 48 + 8 * 2 ^ 56 + 0x321 * 2 ^ 64 + 100 * 2 ^ 112 + 3 * 2 ^ 128 + 5 * 2 ^ 144)) }] }).scRuns (1 : Fin 4).val = true)
    ∧ (((((((((((wSc.put (CAN_CTRL_INIT 2) 0).put (CAN_RAM_NTX 2) 4).put (CAN_RAM_NF0 2) 8).put (CAN_RAM_NF1 2) 8).setCan 2 { Can.idle with live := 2 }).put (CAN_RXF_FILL 2 1) 1).put (CAN_RXF_GET 2 1) 3).put (CAN_RAM_ESZ 2) 1).wrBytes (((((((((wSc.put (CAN_CTRL_INIT 2) 0).put (CAN_RAM_NTX 2) 4).put (CAN_RAM_NF0 2) 8).put (CAN_RAM_NF1 2) 8).setCan 2 { Can.idle with live := 2 }).put (CAN_RXF_FILL 2 1) 1).put (CAN_RXF_GET 2 1) 3).put (CAN_RAM_ESZ 2) 1).canRxElem 2 1 3) (leBytes 4 0x321 ++ leBytes 4 (2 ^ 30 + 16 * 2 ^ 16) ++ leBytes 8 0 ++ leBytes 8 900 ++ leBytes 8 0 ++ aslPdu 0xABCD1234 5 1 [1, 2, 3, 4, 5, 6, 7, 8])).setAsl { Asl.idle with conns := [{ wConn with desc := (BitVec.ofNat 256 (0xABCD1234 + 2 ^ 40 + 2 * 2 ^ 48 + 8 * 2 ^ 56 + 0x321 * 2 ^ 64 + 100 * 2 ^ 112 + 3 * 2 ^ 128 + 5 * 2 ^ 144)) }] }).scRedundant (1 : Fin 4).val = true)
    ∧ (((((((((((wSc.put (CAN_CTRL_INIT 2) 0).put (CAN_RAM_NTX 2) 4).put (CAN_RAM_NF0 2) 8).put (CAN_RAM_NF1 2) 8).setCan 2 { Can.idle with live := 2 }).put (CAN_RXF_FILL 2 1) 1).put (CAN_RXF_GET 2 1) 3).put (CAN_RAM_ESZ 2) 1).wrBytes (((((((((wSc.put (CAN_CTRL_INIT 2) 0).put (CAN_RAM_NTX 2) 4).put (CAN_RAM_NF0 2) 8).put (CAN_RAM_NF1 2) 8).setCan 2 { Can.idle with live := 2 }).put (CAN_RXF_FILL 2 1) 1).put (CAN_RXF_GET 2 1) 3).put (CAN_RAM_ESZ 2) 1).canRxElem 2 1 3) (leBytes 4 0x321 ++ leBytes 4 (2 ^ 30 + 16 * 2 ^ 16) ++ leBytes 8 0 ++ leBytes 8 900 ++ leBytes 8 0 ++ aslPdu 0xABCD1234 5 1 [1, 2, 3, 4, 5, 6, 7, 8])).setAsl { Asl.idle with conns := [{ wConn with desc := (BitVec.ofNat 256 (0xABCD1234 + 2 ^ 40 + 2 * 2 ^ 48 + 8 * 2 ^ 56 + 0x321 * 2 ^ 64 + 100 * 2 ^ 112 + 3 * 2 ^ 128 + 5 * 2 ^ 144)) }] }).aslSince (1 : Fin 4).val 1 = true)
    ∧ (((((((((((wSc.put (CAN_CTRL_INIT 2) 0).put (CAN_RAM_NTX 2) 4).put (CAN_RAM_NF0 2) 8).put (CAN_RAM_NF1 2) 8).setCan 2 { Can.idle with live := 2 }).put (CAN_RXF_FILL 2 1) 1).put (CAN_RXF_GET 2 1) 3).put (CAN_RAM_ESZ 2) 1).wrBytes (((((((((wSc.put (CAN_CTRL_INIT 2) 0).put (CAN_RAM_NTX 2) 4).put (CAN_RAM_NF0 2) 8).put (CAN_RAM_NF1 2) 8).setCan 2 { Can.idle with live := 2 }).put (CAN_RXF_FILL 2 1) 1).put (CAN_RXF_GET 2 1) 3).put (CAN_RAM_ESZ 2) 1).canRxElem 2 1 3) (leBytes 4 0x321 ++ leBytes 4 (2 ^ 30 + 16 * 2 ^ 16) ++ leBytes 8 0 ++ leBytes 8 900 ++ leBytes 8 0 ++ aslPdu 0xABCD1234 5 1 [1, 2, 3, 4, 5, 6, 7, 8])).setAsl { Asl.idle with conns := [{ wConn with desc := (BitVec.ofNat 256 (0xABCD1234 + 2 ^ 40 + 2 * 2 ^ 48 + 8 * 2 ^ 56 + 0x321 * 2 ^ 64 + 100 * 2 ^ 112 + 3 * 2 ^ 128 + 5 * 2 ^ 144)) }] }).asl.conns = [({ wConn with desc := (BitVec.ofNat 256 (0xABCD1234 + 2 ^ 40 + 2 * 2 ^ 48 + 8 * 2 ^ 56 + 0x321 * 2 ^ 64 + 100 * 2 ^ 112 + 3 * 2 ^ 128 + 5 * 2 ^ 144)) } : AslConn)])
    ∧ (({ wConn with desc := (BitVec.ofNat 256 (0xABCD1234 + 2 ^ 40 + 2 * 2 ^ 48 + 8 * 2 ^ 56 + 0x321 * 2 ^ 64 + 100 * 2 ^ 112 + 3 * 2 ^ 128 + 5 * 2 ^ 144)) } : AslConn).core = (1 : Fin 4).val)
    ∧ (((((((((((wSc.put (CAN_CTRL_INIT 2) 0).put (CAN_RAM_NTX 2) 4).put (CAN_RAM_NF0 2) 8).put (CAN_RAM_NF1 2) 8).setCan 2 { Can.idle with live := 2 }).put (CAN_RXF_FILL 2 1) 1).put (CAN_RXF_GET 2 1) 3).put (CAN_RAM_ESZ 2) 1).wrBytes (((((((((wSc.put (CAN_CTRL_INIT 2) 0).put (CAN_RAM_NTX 2) 4).put (CAN_RAM_NF0 2) 8).put (CAN_RAM_NF1 2) 8).setCan 2 { Can.idle with live := 2 }).put (CAN_RXF_FILL 2 1) 1).put (CAN_RXF_GET 2 1) 3).put (CAN_RAM_ESZ 2) 1).canRxElem 2 1 3) (leBytes 4 0x321 ++ leBytes 4 (2 ^ 30 + 16 * 2 ^ 16) ++ leBytes 8 0 ++ leBytes 8 900 ++ leBytes 8 0 ++ aslPdu 0xABCD1234 5 1 [1, 2, 3, 4, 5, 6, 7, 8])).setAsl { Asl.idle with conns := [{ wConn with desc := (BitVec.ofNat 256 (0xABCD1234 + 2 ^ 40 + 2 * 2 ^ 48 + 8 * 2 ^ 56 + 0x321 * 2 ^ 64 + 100 * 2 ^ 112 + 3 * 2 ^ 128 + 5 * 2 ^ 144)) }] }).asl.passAt.length = 4)
    ∧ (({ wConn with desc := (BitVec.ofNat 256 (0xABCD1234 + 2 ^ 40 + 2 * 2 ^ 48 + 8 * 2 ^ 56 + 0x321 * 2 ^ 64 + 100 * 2 ^ 112 + 3 * 2 ^ 128 + 5 * 2 ^ 144)) } : AslConn).tx = false)
    ∧ (((((((((((wSc.put (CAN_CTRL_INIT 2) 0).put (CAN_RAM_NTX 2) 4).put (CAN_RAM_NF0 2) 8).put (CAN_RAM_NF1 2) 8).setCan 2 { Can.idle with live := 2 }).put (CAN_RXF_FILL 2 1) 1).put (CAN_RXF_GET 2 1) 3).put (CAN_RAM_ESZ 2) 1).wrBytes (((((((((wSc.put (CAN_CTRL_INIT 2) 0).put (CAN_RAM_NTX 2) 4).put (CAN_RAM_NF0 2) 8).put (CAN_RAM_NF1 2) 8).setCan 2 { Can.idle with live := 2 }).put (CAN_RXF_FILL 2 1) 1).put (CAN_RXF_GET 2 1) 3).put (CAN_RAM_ESZ 2) 1).canRxElem 2 1 3) (leBytes 4 0x321 ++ leBytes 4 (2 ^ 30 + 16 * 2 ^ 16) ++ leBytes 8 0 ++ leBytes 8 900 ++ leBytes 8 0 ++ aslPdu 0xABCD1234 5 1 [1, 2, 3, 4, 5, 6, 7, 8])).setAsl { Asl.idle with conns := [{ wConn with desc := (BitVec.ofNat 256 (0xABCD1234 + 2 ^ 40 + 2 * 2 ^ 48 + 8 * 2 ^ 56 + 0x321 * 2 ^ 64 + 100 * 2 ^ 112 + 3 * 2 ^ 128 + 5 * 2 ^ 144)) }] }).isOn 13 = true)
    ∧ (((((((((((wSc.put (CAN_CTRL_INIT 2) 0).put (CAN_RAM_NTX 2) 4).put (CAN_RAM_NF0 2) 8).put (CAN_RAM_NF1 2) 8).setCan 2 { Can.idle with live := 2 }).put (CAN_RXF_FILL 2 1) 1).put (CAN_RXF_GET 2 1) 3).put (CAN_RAM_ESZ 2) 1).wrBytes (((((((((wSc.put (CAN_CTRL_INIT 2) 0).put (CAN_RAM_NTX 2) 4).put (CAN_RAM_NF0 2) 8).put (CAN_RAM_NF1 2) 8).setCan 2 { Can.idle with live := 2 }).put (CAN_RXF_FILL 2 1) 1).put (CAN_RXF_GET 2 1) 3).put (CAN_RAM_ESZ 2) 1).canRxElem 2 1 3) (leBytes 4 0x321 ++ leBytes 4 (2 ^ 30 + 16 * 2 ^ 16) ++ leBytes 8 0 ++ leBytes 8 900 ++ leBytes 8 0 ++ aslPdu 0xABCD1234 5 1 [1, 2, 3, 4, 5, 6, 7, 8])).setAsl { Asl.idle with conns := [{ wConn with desc := (BitVec.ofNat 256 (0xABCD1234 + 2 ^ 40 + 2 * 2 ^ 48 + 8 * 2 ^ 56 + 0x321 * 2 ^ 64 + 100 * 2 ^ 112 + 3 * 2 ^ 128 + 5 * 2 ^ 144)) }] }).pllA = true)
    ∧ (({ wConn with desc := (BitVec.ofNat 256 (0xABCD1234 + 2 ^ 40 + 2 * 2 ^ 48 + 8 * 2 ^ 56 + 0x321 * 2 ^ 64 + 100 * 2 ^ 112 + 3 * 2 ^ 128 + 5 * 2 ^ 144)) } : AslConn).isUdp = false)
    ∧ (({ wConn with desc := (BitVec.ofNat 256 (0xABCD1234 + 2 ^ 40 + 2 * 2 ^ 48 + 8 * 2 ^ 56 + 0x321 * 2 ^ 64 + 100 * 2 ^ 112 + 3 * 2 ^ 128 + 5 * 2 ^ 144)) } : AslConn).port < 4)
    ∧ (((((((((((wSc.put (CAN_CTRL_INIT 2) 0).put (CAN_RAM_NTX 2) 4).put (CAN_RAM_NF0 2) 8).put (CAN_RAM_NF1 2) 8).setCan 2 { Can.idle with live := 2 }).put (CAN_RXF_FILL 2 1) 1).put (CAN_RXF_GET 2 1) 3).put (CAN_RAM_ESZ 2) 1).wrBytes (((((((((wSc.put (CAN_CTRL_INIT 2) 0).put (CAN_RAM_NTX 2) 4).put (CAN_RAM_NF0 2) 8).put (CAN_RAM_NF1 2) 8).setCan 2 { Can.idle with live := 2 }).put (CAN_RXF_FILL 2 1) 1).put (CAN_RXF_GET 2 1) 3).put (CAN_RAM_ESZ 2) 1).canRxElem 2 1 3) (leBytes 4 0x321 ++ leBytes 4 (2 ^ 30 + 16 * 2 ^ 16) ++ leBytes 8 0 ++ leBytes 8 900 ++ leBytes 8 0 ++ aslPdu 0xABCD1234 5 1 [1, 2, 3, 4, 5, 6, 7, 8])).setAsl { Asl.idle with conns := [{ wConn with desc := (BitVec.ofNat 256 (0xABCD1234 + 2 ^ 40 + 2 * 2 ^ 48 + 8 * 2 ^ 56 + 0x321 * 2 ^ 64 + 100 * 2 ^ 112 + 3 * 2 ^ 128 + 5 * 2 ^ 144)) }] }).canWaiting ({ wConn with desc := (BitVec.ofNat 256 (0xABCD1234 + 2 ^ 40 + 2 * 2 ^ 48 + 8 * 2 ^ 56 + 0x321 * 2 ^ 64 + 100 * 2 ^ 112 + 3 * 2 ^ 128 + 5 * 2 ^ 144)) } : AslConn).port 0 ++ ((((((((((wSc.put (CAN_CTRL_INIT 2) 0).put (CAN_RAM_NTX 2) 4).put (CAN_RAM_NF0 2) 8).put (CAN_RAM_NF1 2) 8).setCan 2 { Can.idle with live := 2 }).put (CAN_RXF_FILL 2 1) 1).put (CAN_RXF_GET 2 1) 3).put (CAN_RAM_ESZ 2) 1).wrBytes (((((((((wSc.put (CAN_CTRL_INIT 2) 0).put (CAN_RAM_NTX 2) 4).put (CAN_RAM_NF0 2) 8).put (CAN_RAM_NF1 2) 8).setCan 2 { Can.idle with live := 2 }).put (CAN_RXF_FILL 2 1) 1).put (CAN_RXF_GET 2 1) 3).put (CAN_RAM_ESZ 2) 1).canRxElem 2 1 3) (leBytes 4 0x321 ++ leBytes 4 (2 ^ 30 + 16 * 2 ^ 16) ++ leBytes 8 0 ++ leBytes 8 900 ++ leBytes 8 0 ++ aslPdu 0xABCD1234 5 1 [1, 2, 3, 4, 5, 6, 7, 8])).setAsl { Asl.idle with conns := [{ wConn with desc := (BitVec.ofNat 256 (0xABCD1234 + 2 ^ 40 + 2 * 2 ^ 48 + 8 * 2 ^ 56 + 0x321 * 2 ^ 64 + 100 * 2 ^ 112 + 3 * 2 ^ 128 + 5 * 2 ^ 144)) }] }).canWaiting ({ wConn with desc := (BitVec.ofNat 256 (0xABCD1234 + 2 ^ 40 + 2 * 2 ^ 48 + 8 * 2 ^ 56 + 0x321 * 2 ^ 64 + 100 * 2 ^ 112 + 3 * 2 ^ 128 + 5 * 2 ^ 144)) } : AslConn).port 1 = [(⟨900, false, 2, 0x321, 1, 0, aslPdu 0xABCD1234 5 1 [1, 2, 3, 4, 5, 6, 7, 8]⟩ : AslFrame)])
    ∧ (({ wConn with desc := (BitVec.ofNat 256 (0xABCD1234 + 2 ^ 40 + 2 * 2 ^ 48 + 8 * 2 ^ 56 + 0x321 * 2 ^ 64 + 100 * 2 ^ 112 + 3 * 2 ^ 128 + 5 * 2 ^ 144)) } : AslConn).addressed (⟨900, false, 2, 0x321, 1, 0, aslPdu 0xABCD1234 5 1 [1, 2, 3, 4, 5, 6, 7, 8]⟩ : AslFrame) = true)
    ∧ ((({ wConn with desc := (BitVec.ofNat 256 (0xABCD1234 + 2 ^ 40 + 2 * 2 ^ 48 + 8 * 2 ^ 56 + 0x321 * 2 ^ 64 + 100 * 2 ^ 112 + 3 * 2 ^ 128 + 5 * 2 ^ 144)) } : AslConn).receive ((((((((((wSc.put (CAN_CTRL_INIT 2) 0).put (CAN_RAM_NTX 2) 4).put (CAN_RAM_NF0 2) 8).put (CAN_RAM_NF1 2) 8).setCan 2 { Can.idle with live := 2 }).put (CAN_RXF_FILL 2 1) 1).put (CAN_RXF_GET 2 1) 3).put (CAN_RAM_ESZ 2) 1).wrBytes (((((((((wSc.put (CAN_CTRL_INIT 2) 0).put (CAN_RAM_NTX 2) 4).put (CAN_RAM_NF0 2) 8).put (CAN_RAM_NF1 2) 8).setCan 2 { Can.idle with live := 2 }).put (CAN_RXF_FILL 2 1) 1).put (CAN_RXF_GET 2 1) 3).put (CAN_RAM_ESZ 2) 1).canRxElem 2 1 3) (leBytes 4 0x321 ++ leBytes 4 (2 ^ 30 + 16 * 2 ^ 16) ++ leBytes 8 0 ++ leBytes 8 900 ++ leBytes 8 0 ++ aslPdu 0xABCD1234 5 1 [1, 2, 3, 4, 5, 6, 7, 8])).setAsl { Asl.idle with conns := [{ wConn with desc := (BitVec.ofNat 256 (0xABCD1234 + 2 ^ 40 + 2 * 2 ^ 48 + 8 * 2 ^ 56 + 0x321 * 2 ^ 64 + 100 * 2 ^ 112 + 3 * 2 ^ 128 + 5 * 2 ^ 144)) }] }).tick (⟨900, false, 2, 0x321, 1, 0, aslPdu 0xABCD1234 5 1 [1, 2, 3, 4, 5, 6, 7, 8]⟩ : AslFrame)).1.fails ((((((((((wSc.put (CAN_CTRL_INIT 2) 0).put (CAN_RAM_NTX 2) 4).put (CAN_RAM_NF0 2) 8).put (CAN_RAM_NF1 2) 8).setCan 2 { Can.idle with live := 2 }).put (CAN_RXF_FILL 2 1) 1).put (CAN_RXF_GET 2 1) 3).put (CAN_RAM_ESZ 2) 1).wrBytes (((((((((wSc.put (CAN_CTRL_INIT 2) 0).put (CAN_RAM_NTX 2) 4).put (CAN_RAM_NF0 2) 8).put (CAN_RAM_NF1 2) 8).setCan 2 { Can.idle with live := 2 }).put (CAN_RXF_FILL 2 1) 1).put (CAN_RXF_GET 2 1) 3).put (CAN_RAM_ESZ 2) 1).canRxElem 2 1 3) (leBytes 4 0x321 ++ leBytes 4 (2 ^ 30 + 16 * 2 ^ 16) ++ leBytes 8 0 ++ leBytes 8 900 ++ leBytes 8 0 ++ aslPdu 0xABCD1234 5 1 [1, 2, 3, 4, 5, 6, 7, 8])).setAsl { Asl.idle with conns := [{ wConn with desc := (BitVec.ofNat 256 (0xABCD1234 + 2 ^ 40 + 2 * 2 ^ 48 + 8 * 2 ^ 56 + 0x321 * 2 ^ 64 + 100 * 2 ^ 112 + 3 * 2 ^ 128 + 5 * 2 ^ 144)) }] }).tick = 0))
    ∧ (((((wSc.put (ETH_IPCFG_EN 2) 1).put (ETH_IP_ADDR 2) 0x0A000002).setEth { Eth.idle with rxq := leBytes 8 900 ++ leBytes 2 60 ++ leBytes 6 0 ++ ([2, 0, 0, 0, 0, 9, 2, 0, 0, 0, 0, 1, 8, 0, 0x45, 0, 0, 44, 0, 0, 0, 0, 64, 17, 0, 0, 10, 0, 0, 1, 10, 0, 0, 2] ++ beBytes 2 4000 ++ beBytes 2 5000 ++ beBytes 2 24 ++ beBytes 2 0 ++ aslPdu 0xABCD1234 5 1 [1, 2, 3, 4, 5, 6, 7, 8] ++ [0, 0]), rxr := [76] } |>.setAsl { Asl.idle with conns := [{ wConn with desc := (BitVec.ofNat 256 (0xABCD1234 + 3 * 2 ^ 40 + 2 * 2 ^ 48 + 8 * 2 ^ 56 + 0x0A000001 * 2 ^ 64 + 5000 * 2 ^ 96 + 100 * 2 ^ 112 + 3 * 2 ^ 128 + 5 * 2 ^ 144)) }] }).scRuns (1 : Fin 4).val = true)
    ∧ ((((wSc.put (ETH_IPCFG_EN 2) 1).put (ETH_IP_ADDR 2) 0x0A000002).setEth { Eth.idle with rxq := leBytes 8 900 ++ leBytes 2 60 ++ leBytes 6 0 ++ ([2, 0, 0, 0, 0, 9, 2, 0, 0, 0, 0, 1, 8, 0, 0x45, 0, 0, 44, 0, 0, 0, 0, 64, 17, 0, 0, 10, 0, 0, 1, 10, 0, 0, 2] ++ beBytes 2 4000 ++ beBytes 2 5000 ++ beBytes 2 24 ++ beBytes 2 0 ++ aslPdu 0xABCD1234 5 1 [1, 2, 3, 4, 5, 6, 7, 8] ++ [0, 0]), rxr := [76] } |>.setAsl { Asl.idle with conns := [{ wConn with desc := (BitVec.ofNat 256 (0xABCD1234 + 3 * 2 ^ 40 + 2 * 2 ^ 48 + 8 * 2 ^ 56 + 0x0A000001 * 2 ^ 64 + 5000 * 2 ^ 96 + 100 * 2 ^ 112 + 3 * 2 ^ 128 + 5 * 2 ^ 144)) }] }).scRedundant (1 : Fin 4).val = true)
    ∧ ((((wSc.put (ETH_IPCFG_EN 2) 1).put (ETH_IP_ADDR 2) 0x0A000002).setEth { Eth.idle with rxq := leBytes 8 900 ++ leBytes 2 60 ++ leBytes 6 0 ++ ([2, 0, 0, 0, 0, 9, 2, 0, 0, 0, 0, 1, 8, 0, 0x45, 0, 0, 44, 0, 0, 0, 0, 64, 17, 0, 0, 10, 0, 0, 1, 10, 0, 0, 2] ++ beBytes 2 4000 ++ beBytes 2 5000 ++ beBytes 2 24 ++ beBytes 2 0 ++ aslPdu 0xABCD1234 5 1 [1, 2, 3, 4, 5, 6, 7, 8] ++ [0, 0]), rxr := [76] } |>.setAsl { Asl.idle with conns := [{ wConn with desc := (BitVec.ofNat 256 (0xABCD1234 + 3 * 2 ^ 40 + 2 * 2 ^ 48 + 8 * 2 ^ 56 + 0x0A000001 * 2 ^ 64 + 5000 * 2 ^ 96 + 100 * 2 ^ 112 + 3 * 2 ^ 128 + 5 * 2 ^ 144)) }] }).aslSince (1 : Fin 4).val 1 = true)
    ∧ ((((wSc.put (ETH_IPCFG_EN 2) 1).put (ETH_IP_ADDR 2) 0x0A000002).setEth { Eth.idle with rxq := leBytes 8 900 ++ leBytes 2 60 ++ leBytes 6 0 ++ ([2, 0, 0, 0, 0, 9, 2, 0, 0, 0, 0, 1, 8, 0, 0x45, 0, 0, 44, 0, 0, 0, 0, 64, 17, 0, 0, 10, 0, 0, 1, 10, 0, 0, 2] ++ beBytes 2 4000 ++ beBytes 2 5000 ++ beBytes 2 24 ++ beBytes 2 0 ++ aslPdu 0xABCD1234 5 1 [1, 2, 3, 4, 5, 6, 7, 8] ++ [0, 0]), rxr := [76] } |>.setAsl { Asl.idle with conns := [{ wConn with desc := (BitVec.ofNat 256 (0xABCD1234 + 3 * 2 ^ 40 + 2 * 2 ^ 48 + 8 * 2 ^ 56 + 0x0A000001 * 2 ^ 64 + 5000 * 2 ^ 96 + 100 * 2 ^ 112 + 3 * 2 ^ 128 + 5 * 2 ^ 144)) }] }).asl.conns = [({ wConn with desc := (BitVec.ofNat 256 (0xABCD1234 + 3 * 2 ^ 40 + 2 * 2 ^ 48 + 8 * 2 ^ 56 + 0x0A000001 * 2 ^ 64 + 5000 * 2 ^ 96 + 100 * 2 ^ 112 + 3 * 2 ^ 128 + 5 * 2 ^ 144)) } : AslConn)])
    ∧ (({ wConn with desc := (BitVec.ofNat 256 (0xABCD1234 + 3 * 2 ^ 40 + 2 * 2 ^ 48 + 8 * 2 ^ 56 + 0x0A000001 * 2 ^ 64 + 5000 * 2 ^ 96 + 100 * 2 ^ 112 + 3 * 2 ^ 128 + 5 * 2 ^ 144)) } : AslConn).core = (1 : Fin 4).val)
    ∧ ((((wSc.put (ETH_IPCFG_EN 2) 1).put (ETH_IP_ADDR 2) 0x0A000002).setEth { Eth.idle with rxq := leBytes 8 900 ++ leBytes 2 60 ++ leBytes 6 0 ++ ([2, 0, 0, 0, 0, 9, 2, 0, 0, 0, 0, 1, 8, 0, 0x45, 0, 0, 44, 0, 0, 0, 0, 64, 17, 0, 0, 10, 0, 0, 1, 10, 0, 0, 2] ++ beBytes 2 4000 ++ beBytes 2 5000 ++ beBytes 2 24 ++ beBytes 2 0 ++ aslPdu 0xABCD1234 5 1 [1, 2, 3, 4, 5, 6, 7, 8] ++ [0, 0]), rxr := [76] } |>.setAsl { Asl.idle with conns := [{ wConn with desc := (BitVec.ofNat 256 (0xABCD1234 + 3 * 2 ^ 40 + 2 * 2 ^ 48 + 8 * 2 ^ 56 + 0x0A000001 * 2 ^ 64 + 5000 * 2 ^ 96 + 100 * 2 ^ 112 + 3 * 2 ^ 128 + 5 * 2 ^ 144)) }] }).asl.passAt.length = 4)
    ∧ (({ wConn with desc := (BitVec.ofNat 256 (0xABCD1234 + 3 * 2 ^ 40 + 2 * 2 ^ 48 + 8 * 2 ^ 56 + 0x0A000001 * 2 ^ 64 + 5000 * 2 ^ 96 + 100 * 2 ^ 112 + 3 * 2 ^ 128 + 5 * 2 ^ 144)) } : AslConn).tx = false)
    ∧ ((((wSc.put (ETH_IPCFG_EN 2) 1).put (ETH_IP_ADDR 2) 0x0A000002).setEth { Eth.idle with rxq := leBytes 8 900 ++ leBytes 2 60 ++ leBytes 6 0 ++ ([2, 0, 0, 0, 0, 9, 2, 0, 0, 0, 0, 1, 8, 0, 0x45, 0, 0, 44, 0, 0, 0, 0, 64, 17, 0, 0, 10, 0, 0, 1, 10, 0, 0, 2] ++ beBytes 2 4000 ++ beBytes 2 5000 ++ beBytes 2 24 ++ beBytes 2 0 ++ aslPdu 0xABCD1234 5 1 [1, 2, 3, 4, 5, 6, 7, 8] ++ [0, 0]), rxr := [76] } |>.setAsl { Asl.idle with conns := [{ wConn with desc := (BitVec.ofNat 256 (0xABCD1234 + 3 * 2 ^ 40 + 2 * 2 ^ 48 + 8 * 2 ^ 56 + 0x0A000001 * 2 ^ 64 + 5000 * 2 ^ 96 + 100 * 2 ^ 112 + 3 * 2 ^ 128 + 5 * 2 ^ 144)) }] }).isOn 13 = true)
    ∧ ((((wSc.put (ETH_IPCFG_EN 2) 1).put (ETH_IP_ADDR 2) 0x0A000002).setEth { Eth.idle with rxq := leBytes 8 900 ++ leBytes 2 60 ++ leBytes 6 0 ++ ([2, 0, 0, 0, 0, 9, 2, 0, 0, 0, 0, 1, 8, 0, 0x45, 0, 0, 44, 0, 0, 0, 0, 64, 17, 0, 0, 10, 0, 0, 1, 10, 0, 0, 2] ++ beBytes 2 4000 ++ beBytes 2 5000 ++ beBytes 2 24 ++ beBytes 2 0 ++ aslPdu 0xABCD1234 5 1 [1, 2, 3, 4, 5, 6, 7, 8] ++ [0, 0]), rxr := [76] } |>.setAsl { Asl.idle with conns := [{ wConn with desc := (BitVec.ofNat 256 (0xABCD1234 + 3 * 2 ^ 40 + 2 * 2 ^ 48 + 8 * 2 ^ 56 + 0x0A000001 * 2 ^ 64 + 5000 * 2 ^ 96 + 100 * 2 ^ 112 + 3 * 2 ^ 128 + 5 * 2 ^ 144)) }] }).pllA = true)
    ∧ (({ wConn with desc := (BitVec.ofNat 256 (0xABCD1234 + 3 * 2 ^ 40 + 2 * 2 ^ 48 + 8 * 2 ^ 56 + 0x0A000001 * 2 ^ 64 + 5000 * 2 ^ 96 + 100 * 2 ^ 112 + 3 * 2 ^ 128 + 5 * 2 ^ 144)) } : AslConn).isUdp = true)
    ∧ ((((wSc.put (ETH_IPCFG_EN 2) 1).put (ETH_IP_ADDR 2) 0x0A000002).setEth { Eth.idle with rxq := leBytes 8 900 ++ leBytes 2 60 ++ leBytes 6 0 ++ ([2, 0, 0, 0, 0, 9, 2, 0, 0, 0, 0, 1, 8, 0, 0x45, 0, 0, 44, 0, 0, 0, 0, 64, 17, 0, 0, 10, 0, 0, 1, 10, 0, 0, 2] ++ beBytes 2 4000 ++ beBytes 2 5000 ++ beBytes 2 24 ++ beBytes 2 0 ++ aslPdu 0xABCD1234 5 1 [1, 2, 3, 4, 5, 6, 7, 8] ++ [0, 0]), rxr := [76] } |>.setAsl { Asl.idle with conns := [{ wConn with desc := (BitVec.ofNat 256 (0xABCD1234 + 3 * 2 ^ 40 + 2 * 2 ^ 48 + 8 * 2 ^ 56 + 0x0A000001 * 2 ^ 64 + 5000 * 2 ^ 96 + 100 * 2 ^ 112 + 3 * 2 ^ 128 + 5 * 2 ^ 144)) }] }).udpWaiting (((wSc.put (ETH_IPCFG_EN 2) 1).put (ETH_IP_ADDR 2) 0x0A000002).setEth { Eth.idle with rxq := leBytes 8 900 ++ leBytes 2 60 ++ leBytes 6 0 ++ ([2, 0, 0, 0, 0, 9, 2, 0, 0, 0, 0, 1, 8, 0, 0x45, 0, 0, 44, 0, 0, 0, 0, 64, 17, 0, 0, 10, 0, 0, 1, 10, 0, 0, 2] ++ beBytes 2 4000 ++ beBytes 2 5000 ++ beBytes 2 24 ++ beBytes 2 0 ++ aslPdu 0xABCD1234 5 1 [1, 2, 3, 4, 5, 6, 7, 8] ++ [0, 0]), rxr := [76] } |>.setAsl { Asl.idle with conns := [{ wConn with desc := (BitVec.ofNat 256 (0xABCD1234 + 3 * 2 ^ 40 + 2 * 2 ^ 48 + 8 * 2 ^ 56 + 0x0A000001 * 2 ^ 64 + 5000 * 2 ^ 96 + 100 * 2 ^ 112 + 3 * 2 ^ 128 + 5 * 2 ^ 144)) }] }).eth.rxr (((wSc.put (ETH_IPCFG_EN 2) 1).put (ETH_IP_ADDR 2) 0x0A000002).setEth { Eth.idle with rxq := leBytes 8 900 ++ leBytes 2 60 ++ leBytes 6 0 ++ ([2, 0, 0, 0, 0, 9, 2, 0, 0, 0, 0, 1, 8, 0, 0x45, 0, 0, 44, 0, 0, 0, 0, 64, 17, 0, 0, 10, 0, 0, 1, 10, 0, 0, 2] ++ beBytes 2 4000 ++ beBytes 2 5000 ++ beBytes 2 24 ++ beBytes 2 0 ++ aslPdu 0xABCD1234 5 1 [1, 2, 3, 4, 5, 6, 7, 8] ++ [0, 0]), rxr := [76] } |>.setAsl { Asl.idle with conns := [{ wConn with desc := (BitVec.ofNat 256 (0xABCD1234 + 3 * 2 ^ 40 + 2 * 2 ^ 48 + 8 * 2 ^ 56 + 0x0A000001 * 2 ^ 64 + 5000 * 2 ^ 96 + 100 * 2 ^ 112 + 3 * 2 ^ 128 + 5 * 2 ^ 144)) }] }).eth.rxq = [(⟨900, true, 2, 0x0A000001, 3, 5000, aslPdu 0xABCD1234 5 1 [1, 2, 3, 4, 5, 6, 7, 8]⟩ : AslFrame)])
    ∧ (({ wConn with desc := (BitVec.ofNat 256 (0xABCD1234 + 3 * 2 ^ 40 + 2 * 2 ^ 48 + 8 * 2 ^ 56 + 0x0A000001 * 2 ^ 64 + 5000 * 2 ^ 96 + 100 * 2 ^ 112 + 3 * 2 ^ 128 + 5 * 2 ^ 144)) } : AslConn).addressed (⟨900, true, 2, 0x0A000001, 3, 5000, aslPdu 0xABCD1234 5 1 [1, 2, 3, 4, 5, 6, 7, 8]⟩ : AslFrame) = true)
    ∧ ((({ wConn with desc := (BitVec.ofNat 256 (0xABCD1234 + 3 * 2 ^ 40 + 2 * 2 ^ 48 + 8 * 2 ^ 56 + 0x0A000001 * 2 ^ 64 + 5000 * 2 ^ 96 + 100 * 2 ^ 112 + 3 * 2 ^ 128 + 5 * 2 ^ 144)) } : AslConn).receive (((wSc.put (ETH_IPCFG_EN 2) 1).put (ETH_IP_ADDR 2) 0x0A000002).setEth { Eth.idle with rxq := leBytes 8 900 ++ leBytes 2 60 ++ leBytes 6 0 ++ ([2, 0, 0, 0, 0, 9, 2, 0, 0, 0, 0, 1, 8, 0, 0x45, 0, 0, 44, 0, 0, 0, 0, 64, 17, 0, 0, 10, 0, 0, 1, 10, 0, 0, 2] ++ beBytes 2 4000 ++ beBytes 2 5000 ++ beBytes 2 24 ++ beBytes 2 0 ++ aslPdu 0xABCD1234 5 1 [1, 2, 3, 4, 5, 6, 7, 8] ++ [0, 0]), rxr := [76] } |>.setAsl { Asl.idle with conns := [{ wConn with desc := (BitVec.ofNat 256 (0xABCD1234 + 3 * 2 ^ 40 + 2 * 2 ^ 48 + 8 * 2 ^ 56 + 0x0A000001 * 2 ^ 64 + 5000 * 2 ^ 96 + 100 * 2 ^ 112 + 3 * 2 ^ 128 + 5 * 2 ^ 144)) }] }).tick (⟨900, true, 2, 0x0A000001, 3, 5000, aslPdu 0xABCD1234 5 1 [1, 2, 3, 4, 5, 6, 7, 8]⟩ : AslFrame)).1.fails (((wSc.put (ETH_IPCFG_EN 2) 1).put (ETH_IP_ADDR 2) 0x0A000002).setEth { Eth.idle with rxq := leBytes 8 900 ++ leBytes 2 60 ++ leBytes 6 0 ++ ([2, 0, 0, 0, 0, 9, 2, 0, 0, 0, 0, 1, 8, 0, 0x45, 0, 0, 44, 0, 0, 0, 0, 64, 17, 0, 0, 10, 0, 0, 1, 10, 0, 0, 2] ++ beBytes 2 4000 ++ beBytes 2 5000 ++ beBytes 2 24 ++ beBytes 2 0 ++ aslPdu 0xABCD1234 5 1 [1, 2, 3, 4, 5, 6, 7, 8] ++ [0, 0]), rxr := [76] } |>.setAsl { Asl.idle with conns := [{ wConn with desc := (BitVec.ofNat 256 (0xABCD1234 + 3 * 2 ^ 40 + 2 * 2 ^ 48 + 8 * 2 ^ 56 + 0x0A000001 * 2 ^ 64 + 5000 * 2 ^ 96 + 100 * 2 ^ 112 + 3 * 2 ^ 128 + 5 * 2 ^ 144)) }] }).tick = 0))
    ∧ ((((⟨900, false, 0, 0x321, 0, 0, aslPdu 0xABCD1234 5 1 [1, 2, 3, 4, 5, 6, 7, 8]⟩ : AslFrame).udp = false ∧ (⟨900, false, 0, 0x321, 0, 0, aslPdu 0xABCD1234 5 1 [1, 2, 3, 4, 5, 6, 7, 8]⟩ : AslFrame).fmt ≠ ({ wConn with desc := wDesc + BitVec.ofNat 256 (2 * 2 ^ 128 + 3 * 2 ^ 152), state := 1, lastSeq := 0 } : AslConn).transport) ∨ (⟨900, false, 0, 0x321, 0, 0, aslPdu 0xABCD1234 5 1 [1, 2, 3, 4, 5, 6, 7, 8]⟩ : AslFrame).data.length < 8 + ({ wConn with desc := wDesc + BitVec.ofNat 256 (2 * 2 ^ 128 + 3 * 2 ^ 152), state := 1, lastSeq := 0 } : AslConn).len ∨ payU (⟨900, false, 0, 0x321, 0, 0, aslPdu 0xABCD1234 5 1 [1, 2, 3, 4, 5, 6, 7, 8]⟩ : AslFrame).data 2 1 ≠ ({ wConn with desc := wDesc + BitVec.ofNat 256 (2 * 2 ^ 128 + 3 * 2 ^ 152), state := 1, lastSeq := 0 } : AslConn).len)
    ∧ (({ wConn with desc := wDesc + BitVec.ofNat 256 (2 * 2 ^ 128 + 3 * 2 ^ 152), state := 1, lastSeq := 0 } : AslConn).fmtErr ≤ 65535))
    ∧ (((⟨900, false, 0, 0x321, 1, 0, aslPdu 0xABCD1235 5 1 [1, 2, 3, 4, 5, 6, 7, 8]⟩ : AslFrame).udp = true ∨ (⟨900, false, 0, 0x321, 1, 0, aslPdu 0xABCD1235 5 1 [1, 2, 3, 4, 5, 6, 7, 8]⟩ : AslFrame).fmt = ({ wConn with desc := wDesc + BitVec.ofNat 256 (2 * 2 ^ 128 + 3 * 2 ^ 152), state := 1, lastSeq := 0 } : AslConn).transport)
    ∧ (8 + ({ wConn with desc := wDesc + BitVec.ofNat 256 (2 * 2 ^ 128 + 3 * 2 ^ 152), state := 1, lastSeq := 0 } : AslConn).len ≤ (⟨900, false, 0, 0x321, 1, 0, aslPdu 0xABCD1235 5 1 [1, 2, 3, 4, 5, 6, 7, 8]⟩ : AslFrame).data.length)
    ∧ (payU (⟨900, false, 0, 0x321, 1, 0, aslPdu 0xABCD1235 5 1 [1, 2, 3, 4, 5, 6, 7, 8]⟩ : AslFrame).data 2 1 = ({ wConn with desc := wDesc + BitVec.ofNat 256 (2 * 2 ^ 128 + 3 * 2 ^ 152), state := 1, lastSeq := 0 } : AslConn).len)
    ∧ (aslCrc ({ wConn with desc := wDesc + BitVec.ofNat 256 (2 * 2 ^ 128 + 3 * 2 ^ 152), state := 1, lastSeq := 0 } : AslConn).ident ((⟨900, false, 0, 0x321, 1, 0, aslPdu 0xABCD1235 5 1 [1, 2, 3, 4, 5, 6, 7, 8]⟩ : AslFrame).data.take (4 + ({ wConn with desc := wDesc + BitVec.ofNat 256 (2 * 2 ^ 128 + 3 * 2 ^ 152), state := 1, lastSeq := 0 } : AslConn).len)) ≠ payU (⟨900, false, 0, 0x321, 1, 0, aslPdu 0xABCD1235 5 1 [1, 2, 3, 4, 5, 6, 7, 8]⟩ : AslFrame).data (4 + ({ wConn with desc := wDesc + BitVec.ofNat 256 (2 * 2 ^ 128 + 3 * 2 ^ 152), state := 1, lastSeq := 0 } : AslConn).len) 4)
    ∧ (({ wConn with desc := wDesc + BitVec.ofNat 256 (2 * 2 ^ 128 + 3 * 2 ^ 152), state := 1, lastSeq := 0 } : AslConn).crcErr ≤ 65535)) := by
  and_intros <;> decide +kernel

theorem witness_safety_layer_connections_open_receive_and_send_part5 :
    (((⟨900, false, 0, 0x321, 1, 0, aslPdu 0xABCD1234 5 5 [1, 2, 3, 4, 5, 6, 7, 8]⟩ : AslFrame).udp = true ∨ (⟨900, false, 0, 0x321, 1, 0, aslPdu 0xABCD1234 5 5 [1, 2, 3, 4, 5, 6, 7, 8]⟩ : AslFrame).fmt = ({ wConn with desc := wDesc + BitVec.ofNat 256 (2 * 2 ^ 128 + 2 ^ 152), state := 1, lastSeq := 0 } : AslConn).transport)
    ∧ (8 + ({ wConn with desc := wDesc + BitVec.ofNat 256 (2 * 2 ^ 128 + 2 ^ 152), state := 1, lastSeq := 0 } : AslConn).len ≤ (⟨900, false, 0, 0x321, 1, 0, aslPdu 0xABCD1234 5 5 [1, 2, 3, 4, 5, 6, 7, 8]⟩ : AslFrame).data.length)
    ∧ (payU (⟨900, false, 0, 0x321, 1, 0, aslPdu 0xABCD1234 5 5 [1, 2, 3, 4, 5, 6, 7, 8]⟩ : AslFrame).data 2 1 = ({ wConn with desc := wDesc + BitVec.ofNat 256 (2 * 2 ^ 128 + 2 ^ 152), state := 1, lastSeq := 0 } : AslConn).len)
    ∧ (aslCrc ({ wConn with desc := wDesc + BitVec.ofNat 256 (2 * 2 ^ 128 + 2 ^ 152), state := 1, lastSeq := 0 } : AslConn).ident ((⟨900, false, 0, 0x321, 1, 0, aslPdu 0xABCD1234 5 5 [1, 2, 3, 4, 5, 6, 7, 8]⟩ : AslFrame).data.take (4 + ({ wConn with desc := wDesc + BitVec.ofNat 256 (2 * 2 ^ 128 + 2 ^ 152), state := 1, lastSeq := 0 } : AslConn).len)) = payU (⟨900, false, 0, 0x321, 1, 0, aslPdu 0xABCD1234 5 5 [1, 2, 3, 4, 5, 6, 7, 8]⟩ : AslFrame).data (4 + ({ wConn with desc := wDesc + BitVec.ofNat 256 (2 * 2 ^ 128 + 2 ^ 152), state := 1, lastSeq := 0 } : AslConn).len) 4)
    ∧ (payU (⟨900, false, 0, 0x321, 1, 0, aslPdu 0xABCD1234 5 5 [1, 2, 3, 4, 5, 6, 7, 8]⟩ : AslFrame).data 3 1 / 16 ≠ 0 ∨ (bitOf 1 (payU (⟨900, false, 0, 0x321, 1, 0, aslPdu 0xABCD1234 5 5 [1, 2, 3, 4, 5, 6, 7, 8]⟩ : AslFrame).data 3 1) = true ∧ bitOf 0 ({ wConn with desc := wDesc + BitVec.ofNat 256 (2 * 2 ^ 128 + 2 ^ 152), state := 1, lastSeq := 0 } : AslConn).demand = false) ∨ (bitOf 2 (payU (⟨900, false, 0, 0x321, 1, 0, aslPdu 0xABCD1234 5 5 [1, 2, 3, 4, 5, 6, 7, 8]⟩ : AslFrame).data 3 1) = true ∧ bitOf 1 ({ wConn with desc := wDesc + BitVec.ofNat 256 (2 * 2 ^ 128 + 2 ^ 152), state := 1, lastSeq := 0 } : AslConn).demand = false))
    ∧ (({ wConn with desc := wDesc + BitVec.ofNat 256 (2 * 2 ^ 128 + 2 ^ 152), state := 1, lastSeq := 0 } : AslConn).fmtErr ≤ 65535))
    ∧ (((⟨900, false, 0, 0x321, 1, 0, aslPdu 0xABCD1234 5 3 [1, 2, 3, 4, 5, 6, 7, 8]⟩ : AslFrame).udp = true ∨ (⟨900, false, 0, 0x321, 1, 0, aslPdu 0xABCD1234 5 3 [1, 2, 3, 4, 5, 6, 7, 8]⟩ : AslFrame).fmt = ({ wConn with desc := wDesc + BitVec.ofNat 256 (2 * 2 ^ 128 + 3 * 2 ^ 152), state := 1, lastSeq := 0 } : AslConn).transport)
    ∧ (8 + ({ wConn with desc := wDesc + BitVec.ofNat 256 (2 * 2 ^ 128 + 3 * 2 ^ 152), state := 1, lastSeq := 0 } : AslConn).len ≤ (⟨900, false, 0, 0x321, 1, 0, aslPdu 0xABCD1234 5 3 [1, 2, 3, 4, 5, 6, 7, 8]⟩ : AslFrame).data.length)
    ∧ (payU (⟨900, false, 0, 0x321, 1, 0, aslPdu 0xABCD1234 5 3 [1, 2, 3, 4, 5, 6, 7, 8]⟩ : AslFrame).data 2 1 = ({ wConn with desc := wDesc + BitVec.ofNat 256 (2 * 2 ^ 128 + 3 * 2 ^ 152), state := 1, lastSeq := 0 } : AslConn).len)
    ∧ (aslCrc ({ wConn with desc := wDesc + BitVec.ofNat 256 (2 * 2 ^ 128 + 3 * 2 ^ 152), state := 1, lastSeq := 0 } : AslConn).ident ((⟨900, false, 0, 0x321, 1, 0, aslPdu 0xABCD1234 5 3 [1, 2, 3, 4, 5, 6, 7, 8]⟩ : AslFrame).data.take (4 + ({ wConn with desc := wDesc + BitVec.ofNat 256 (2 * 2 ^ 128 + 3 * 2 ^ 152), state := 1, lastSeq := 0 } : AslConn).len)) = payU (⟨900, false, 0, 0x321, 1, 0, aslPdu 0xABCD1234 5 3 [1, 2, 3, 4, 5, 6, 7, 8]⟩ : AslFrame).data (4 + ({ wConn with desc := wDesc + BitVec.ofNat 256 (2 * 2 ^ 128 + 3 * 2 ^ 152), state := 1, lastSeq := 0 } : AslConn).len) 4)
    ∧ (payU (⟨900, false, 0, 0x321, 1, 0, aslPdu 0xABCD1234 5 3 [1, 2, 3, 4, 5, 6, 7, 8]⟩ : AslFrame).data 3 1 / 16 = 0)
    ∧ (bitOf 1 (payU (⟨900, false, 0, 0x321, 1, 0, aslPdu 0xABCD1234 5 3 [1, 2, 3, 4, 5, 6, 7, 8]⟩ : AslFrame).data 3 1) = true → bitOf 0 ({ wConn with desc := wDesc + BitVec.ofNat 256 (2 * 2 ^ 128 + 3 * 2 ^ 152), state := 1, lastSeq := 0 } : AslConn).demand = true)
    ∧ (bitOf 2 (payU (⟨900, false, 0, 0x321, 1, 0, aslPdu 0xABCD1234 5 3 [1, 2, 3, 4, 5, 6, 7, 8]⟩ : AslFrame).data 3 1) = true → bitOf 1 ({ wConn with desc := wDesc + BitVec.ofNat 256 (2 * 2 ^ 128 + 3 * 2 ^ 152), state := 1, lastSeq := 0 } : AslConn).demand = true)
    ∧ (({ wConn with desc := wDesc + BitVec.ofNat 256 (2 * 2 ^ 128 + 3 * 2 ^ 152), state := 1, lastSeq := 0 } : AslConn).state = 1)
    ∧ (bitOf 0 (payU (⟨900, false, 0, 0x321, 1, 0, aslPdu 0xABCD1234 5 3 [1, 2, 3, 4, 5, 6, 7, 8]⟩ : AslFrame).data 3 1) = true))
    ∧ (((⟨900, false, 0, 0x321, 1, 0, aslPdu 0xABCD1234 5 2 [1, 2, 3, 4, 5, 6, 7, 8]⟩ : AslFrame).udp = true ∨ (⟨900, false, 0, 0x321, 1, 0, aslPdu 0xABCD1234 5 2 [1, 2, 3, 4, 5, 6, 7, 8]⟩ : AslFrame).fmt = ({ wConn with desc := wDesc + BitVec.ofNat 256 (2 * 2 ^ 128 + 3 * 2 ^ 152), state := 1, lastSeq := 0 } : AslConn).transport)
    ∧ (8 + ({ wConn with desc := wDesc + BitVec.ofNat 256 (2 * 2 ^ 128 + 3 * 2 ^ 152), state := 1, lastSeq := 0 } : AslConn).len ≤ (⟨900, false, 0, 0x321, 1, 0, aslPdu 0xABCD1234 5 2 [1, 2, 3, 4, 5, 6, 7, 8]⟩ : AslFrame).data.length)
    ∧ (payU (⟨900, false, 0, 0x321, 1, 0, aslPdu 0xABCD1234 5 2 [1, 2, 3, 4, 5, 6, 7, 8]⟩ : AslFrame).data 2 1 = ({ wConn with desc := wDesc + BitVec.ofNat 256 (2 * 2 ^ 128 + 3 * 2 ^ 152), state := 1, lastSeq := 0 } : AslConn).len)
    ∧ (aslCrc ({ wConn with desc := wDesc + BitVec.ofNat 256 (2 * 2 ^ 128 + 3 * 2 ^ 152), state := 1, lastSeq := 0 } : AslConn).ident ((⟨900, false, 0, 0x321, 1, 0, aslPdu 0xABCD1234 5 2 [1, 2, 3, 4, 5, 6, 7, 8]⟩ : AslFrame).data.take (4 + ({ wConn with desc := wDesc + BitVec.ofNat 256 (2 * 2 ^ 128 + 3 * 2 ^ 152), state := 1, lastSeq := 0 } : AslConn).len)) = payU (⟨900, false, 0, 0x321, 1, 0, aslPdu 0xABCD1234 5 2 [1, 2, 3, 4, 5, 6, 7, 8]⟩ : AslFrame).data (4 + ({ wConn with desc := wDesc + BitVec.ofNat 256 (2 * 2 ^ 128 + 3 * 2 ^ 152), state := 1, lastSeq := 0 } : AslConn).len) 4)
    ∧ (payU (⟨900, false, 0, 0x321, 1, 0, aslPdu 0xABCD1234 5 2 [1, 2, 3, 4, 5, 6, 7, 8]⟩ : AslFrame).data 3 1 / 16 = 0)
    ∧ (bitOf 1 (payU (⟨900, false, 0, 0x321, 1, 0, aslPdu 0xABCD1234 5 2 [1, 2, 3, 4, 5, 6, 7, 8]⟩ : AslFrame).data 3 1) = true → bitOf 0 ({ wConn with desc := wDesc + BitVec.ofNat 256 (2 * 2 ^ 128 + 3 * 2 ^ 152), state := 1, lastSeq := 0 } : AslConn).demand = true)
    ∧ (bitOf 2 (payU (⟨900, false, 0, 0x321, 1, 0, aslPdu 0xABCD1234 5 2 [1, 2, 3, 4, 5, 6, 7, 8]⟩ : AslFrame).data 3 1) = true → bitOf 1 ({ wConn with desc := wDesc + BitVec.ofNat 256 (2 * 2 ^ 128 + 3 * 2 ^ 152), state := 1, lastSeq := 0 } : AslConn).demand = true)
    ∧ (({ wConn with desc := wDesc + BitVec.ofNat 256 (2 * 2 ^ 128 + 3 * 2 ^ 152), state := 1, lastSeq := 0 } : AslConn).state = 1)
    ∧ (bitOf 0 (payU (⟨900, false, 0, 0x321, 1, 0, aslPdu 0xABCD1234 5 2 [1, 2, 3, 4, 5, 6, 7, 8]⟩ : AslFrame).data 3 1) = false)
    ∧ (({ wConn with desc := wDesc + BitVec.ofNat 256 (2 * 2 ^ 128 + 3 * 2 ^ 152), state := 1, lastSeq := 0 } : AslConn).seqErr ≤ 65535))
    ∧ (((⟨900, false, 0, 0x321, 1, 0, aslPdu 0xABCD1234 5 1 [1, 2, 3, 4, 5, 6, 7, 8]⟩ : AslFrame).udp = true ∨ (⟨900, false, 0, 0x321, 1, 0, aslPdu 0xABCD1234 5 1 [1, 2, 3, 4, 5, 6, 7, 8]⟩ : AslFrame).fmt = ({ wConn with desc := wDesc + BitVec.ofNat 256 (2 * 2 ^ 128 + 3 * 2 ^ 152), state := 2, lastSeq := 5 } : AslConn).transport)
    ∧ (8 + ({ wConn with desc := wDesc + BitVec.ofNat 256 (2 * 2 ^ 128 + 3 * 2 ^ 152), state := 2, lastSeq := 5 } : AslConn).len ≤ (⟨900, false, 0, 0x321, 1, 0, aslPdu 0xABCD1234 5 1 [1, 2, 3, 4, 5, 6, 7, 8]⟩ : AslFrame).data.length)
    ∧ (payU (⟨900, false, 0, 0x321, 1, 0, aslPdu 0xABCD1234 5 1 [1, 2, 3, 4, 5, 6, 7, 8]⟩ : AslFrame).data 2 1 = ({ wConn with desc := wDesc + BitVec.ofNat 256 (2 * 2 ^ 128 + 3 * 2 ^ 152), state := 2, lastSeq := 5 } : AslConn).len)
    ∧ (aslCrc ({ wConn with desc := wDesc + BitVec.ofNat 256 (2 * 2 ^ 128 + 3 * 2 ^ 152), state := 2, lastSeq := 5 } : AslConn).ident ((⟨900, false, 0, 0x321, 1, 0, aslPdu 0xABCD1234 5 1 [1, 2, 3, 4, 5, 6, 7, 8]⟩ : AslFrame).data.take (4 + ({ wConn with desc := wDesc + BitVec.ofNat 256 (2 * 2 ^ 128 + 3 * 2 ^ 152), state := 2, lastSeq := 5 } : AslConn).len)) = payU (⟨900, false, 0, 0x321, 1, 0, aslPdu 0xABCD1234 5 1 [1, 2, 3, 4, 5, 6, 7, 8]⟩ : AslFrame).data (4 + ({ wConn with desc := wDesc + BitVec.ofNat 256 (2 * 2 ^ 128 + 3 * 2 ^ 152), state := 2, lastSeq := 5 } : AslConn).len) 4)
    ∧ (payU (⟨900, false, 0, 0x321, 1, 0, aslPdu 0xABCD1234 5 1 [1, 2, 3, 4, 5, 6, 7, 8]⟩ : AslFrame).data 3 1 / 16 = 0)
    ∧ (bitOf 1 (payU (⟨900, false, 0, 0x321, 1, 0, aslPdu 0xABCD1234 5 1 [1, 2, 3, 4, 5, 6, 7, 8]⟩ : AslFrame).data 3 1) = true → bitOf 0 ({ wConn with desc := wDesc + BitVec.ofNat 256 (2 * 2 ^ 128 + 3 * 2 ^ 152), state := 2, lastSeq := 5 } : AslConn).demand = true)
    ∧ (bitOf 2 (payU (⟨900, false, 0, 0x321, 1, 0, aslPdu 0xABCD1234 5 1 [1, 2, 3, 4, 5, 6, 7, 8]⟩ : AslFrame).data 3 1) = true → bitOf 1 ({ wConn with desc := wDesc + BitVec.ofNat 256 (2 * 2 ^ 128 + 3 * 2 ^ 152), state := 2, lastSeq := 5 } : AslConn).demand = true)
    ∧ (({ wConn with desc := wDesc + BitVec.ofNat 256 (2 * 2 ^ 128 + 3 * 2 ^ 152), state := 2, lastSeq := 5 } : AslConn).state = 2)
    ∧ (((payU (⟨900, false, 0, 0x321, 1, 0, aslPdu 0xABCD1234 5 1 [1, 2, 3, 4, 5, 6, 7, 8]⟩ : AslFrame).data 0 2 + 65536 - ({ wConn with desc := wDesc + BitVec.ofNat 256 (2 * 2 ^ 128 + 3 * 2 ^ 152), state := 2, lastSeq := 5 } : AslConn).lastSeq) % 65536) = 0 ∨ ({ wConn with desc := wDesc + BitVec.ofNat 256 (2 * 2 ^ 128 + 3 * 2 ^ 152), state := 2, lastSeq := 5 } : AslConn).maxGap + 1 < ((payU (⟨900, false, 0, 0x321, 1, 0, aslPdu 0xABCD1234 5 1 [1, 2, 3, 4, 5, 6, 7, 8]⟩ : AslFrame).data 0 2 + 65536 - ({ wConn with desc := wDesc + BitVec.ofNat 256 (2 * 2 ^ 128 + 3 * 2 ^ 152), state := 2, lastSeq := 5 } : AslConn).lastSeq) % 65536))
    ∧ (({ wConn with desc := wDesc + BitVec.ofNat 256 (2 * 2 ^ 128 + 3 * 2 ^ 152), state := 2, lastSeq := 5 } : AslConn).seqErr ≤ 65535))
    ∧ (((⟨900, false, 0, 0x321, 1, 0, aslPdu 0xABCD1234 5 4 [1, 2, 3, 4, 5, 6, 7, 8]⟩ : AslFrame).udp = true ∨ (⟨900, false, 0, 0x321, 1, 0, aslPdu 0xABCD1234 5 4 [1, 2, 3, 4, 5, 6, 7, 8]⟩ : AslFrame).fmt = ({ wConn with desc := wDesc + BitVec.ofNat 256 (2 * 2 ^ 128 + 3 * 2 ^ 152), state := 2, lastSeq := 2 } : AslConn).transport)
    ∧ (8 + ({ wConn with desc := wDesc + BitVec.ofNat 256 (2 * 2 ^ 128 + 3 * 2 ^ 152), state := 2, lastSeq := 2 } : AslConn).len ≤ (⟨900, false, 0, 0x321, 1, 0, aslPdu 0xABCD1234 5 4 [1, 2, 3, 4, 5, 6, 7, 8]⟩ : AslFrame).data.length)
    ∧ (payU (⟨900, false, 0, 0x321, 1, 0, aslPdu 0xABCD1234 5 4 [1, 2, 3, 4, 5, 6, 7, 8]⟩ : AslFrame).data 2 1 = ({ wConn with desc := wDesc + BitVec.ofNat 256 (2 * 2 ^ 128 + 3 * 2 ^ 152), state := 2, lastSeq := 2 } : AslConn).len)
    ∧ (aslCrc ({ wConn with desc := wDesc + BitVec.ofNat 256 (2 * 2 ^ 128 + 3 * 2 ^ 152), state := 2, lastSeq := 2 } : AslConn).ident ((⟨900, false, 0, 0x321, 1, 0, aslPdu 0xABCD1234 5 4 [1, 2, 3, 4, 5, 6, 7, 8]⟩ : AslFrame).data.take (4 + ({ wConn with desc := wDesc + BitVec.ofNat 256 (2 * 2 ^ 128 + 3 * 2 ^ 152), state := 2, lastSeq := 2 } : AslConn).len)) = payU (⟨900, false, 0, 0x321, 1, 0, aslPdu 0xABCD1234 5 4 [1, 2, 3, 4, 5, 6, 7, 8]⟩ : AslFrame).data (4 + ({ wConn with desc := wDesc + BitVec.ofNat 256 (2 * 2 ^ 128 + 3 * 2 ^ 152), state := 2, lastSeq := 2 } : AslConn).len) 4)
    ∧ (payU (⟨900, false, 0, 0x321, 1, 0, aslPdu 0xABCD1234 5 4 [1, 2, 3, 4, 5, 6, 7, 8]⟩ : AslFrame).data 3 1 / 16 = 0)
    ∧ (bitOf 1 (payU (⟨900, false, 0, 0x321, 1, 0, aslPdu 0xABCD1234 5 4 [1, 2, 3, 4, 5, 6, 7, 8]⟩ : AslFrame).data 3 1) = true → bitOf 0 ({ wConn with desc := wDesc + BitVec.ofNat 256 (2 * 2 ^ 128 + 3 * 2 ^ 152), state := 2, lastSeq := 2 } : AslConn).demand = true)
    ∧ (bitOf 2 (payU (⟨900, false, 0, 0x321, 1, 0, aslPdu 0xABCD1234 5 4 [1, 2, 3, 4, 5, 6, 7, 8]⟩ : AslFrame).data 3 1) = true → bitOf 1 ({ wConn with desc := wDesc + BitVec.ofNat 256 (2 * 2 ^ 128 + 3 * 2 ^ 152), state := 2, lastSeq := 2 } : AslConn).demand = true)
    ∧ (({ wConn with desc := wDesc + BitVec.ofNat 256 (2 * 2 ^ 128 + 3 * 2 ^ 152), state := 2, lastSeq := 2 } : AslConn).state = 2)
    ∧ (((payU (⟨900, false, 0, 0x321, 1, 0, aslPdu 0xABCD1234 5 4 [1, 2, 3, 4, 5, 6, 7, 8]⟩ : AslFrame).data 0 2 + 65536 - ({ wConn with desc := wDesc + BitVec.ofNat 256 (2 * 2 ^ 128 + 3 * 2 ^ 152), state := 2, lastSeq := 2 } : AslConn).lastSeq) % 65536) ≠ 0)
    ∧ (((payU (⟨900, false, 0, 0x321, 1, 0, aslPdu 0xABCD1234 5 4 [1, 2, 3, 4, 5, 6, 7, 8]⟩ : AslFrame).data 0 2 + 65536 - ({ wConn with desc := wDesc + BitVec.ofNat 256 (2 * 2 ^ 128 + 3 * 2 ^ 152), state := 2, lastSeq := 2 } : AslConn).lastSeq) % 65536) ≤ ({ wConn with desc := wDesc + BitVec.ofNat 256 (2 * 2 ^ 128 + 3 * 2 ^ 152), state := 2, lastSeq := 2 } : AslConn).maxGap + 1))
    ∧ (((⟨900, false, 0, 0x321, 1, 0, aslPdu 0xABCD1234 5 1 [1, 2, 3, 4, 5, 6, 7, 8]⟩ : AslFrame).udp = true ∨ (⟨900, false, 0, 0x321, 1, 0, aslPdu 0xABCD1234 5 1 [1, 2, 3, 4, 5, 6, 7, 8]⟩ : AslFrame).fmt = ({ wConn with desc := wDesc + BitVec.ofNat 256 (2 * 2 ^ 128 + 3 * 2 ^ 152), state := 3, lastSeq := 0 } : AslConn).transport)
    ∧ (8 + ({ wConn with desc := wDesc + BitVec.ofNat 256 (2 * 2 ^ 128 + 3 * 2 ^ 152), state := 3, lastSeq := 0 } : AslConn).len ≤ (⟨900, false, 0, 0x321, 1, 0, aslPdu 0xABCD1234 5 1 [1, 2, 3, 4, 5, 6, 7, 8]⟩ : AslFrame).data.length)
    ∧ (payU (⟨900, false, 0, 0x321, 1, 0, aslPdu 0xABCD1234 5 1 [1, 2, 3, 4, 5, 6, 7, 8]⟩ : AslFrame).data 2 1 = ({ wConn with desc := wDesc + BitVec.ofNat 256 (2 * 2 ^ 128 + 3 * 2 ^ 152), state := 3, lastSeq := 0 } : AslConn).len)
    ∧ (aslCrc ({ wConn with desc := wDesc + BitVec.ofNat 256 (2 * 2 ^ 128 + 3 * 2 ^ 152), state := 3, lastSeq := 0 } : AslConn).ident ((⟨900, false, 0, 0x321, 1, 0, aslPdu 0xABCD1234 5 1 [1, 2, 3, 4, 5, 6, 7, 8]⟩ : AslFrame).data.take (4 + ({ wConn with desc := wDesc + BitVec.ofNat 256 (2 * 2 ^ 128 + 3 * 2 ^ 152), state := 3, lastSeq := 0 } : AslConn).len)) = payU (⟨900, false, 0, 0x321, 1, 0, aslPdu 0xABCD1234 5 1 [1, 2, 3, 4, 5, 6, 7, 8]⟩ : AslFrame).data (4 + ({ wConn with desc := wDesc + BitVec.ofNat 256 (2 * 2 ^ 128 + 3 * 2 ^ 152), state := 3, lastSeq := 0 } : AslConn).len) 4)
    ∧ (payU (⟨900, false, 0, 0x321, 1, 0, aslPdu 0xABCD1234 5 1 [1, 2, 3, 4, 5, 6, 7, 8]⟩ : AslFrame).data 3 1 / 16 = 0)
    ∧ (bitOf 1 (payU (⟨900, false, 0, 0x321, 1, 0, aslPdu 0xABCD1234 5 1 [1, 2, 3, 4, 5, 6, 7, 8]⟩ : AslFrame).data 3 1) = true → bitOf 0 ({ wConn with desc := wDesc + BitVec.ofNat 256 (2 * 2 ^ 128 + 3 * 2 ^ 152), state := 3, lastSeq := 0 } : AslConn).demand = true)
    ∧ (bitOf 2 (payU (⟨900, false, 0, 0x321, 1, 0, aslPdu 0xABCD1234 5 1 [1, 2, 3, 4, 5, 6, 7, 8]⟩ : AslFrame).data 3 1) = true → bitOf 1 ({ wConn with desc := wDesc + BitVec.ofNat 256 (2 * 2 ^ 128 + 3 * 2 ^ 152), state := 3, lastSeq := 0 } : AslConn).demand = true)
    ∧ (({ wConn with desc := wDesc + BitVec.ofNat 256 (2 * 2 ^ 128 + 3 * 2 ^ 152), state := 3, lastSeq := 0 } : AslConn).state ≠ 1)
    ∧ (({ wConn with desc := wDesc + BitVec.ofNat 256 (2 * 2 ^ 128 + 3 * 2 ^ 152), state := 3, lastSeq := 0 } : AslConn).state ≠ 2)) := by
  and_intros <;> decide +kernel

theorem witness_supply_switches_over_returns_and_collapses :
    (((wOn.put SUP_STAT_BKST 2).isOn 1 = true)
    ∧ ((wOn.put SUP_STAT_BKST 2).sup.collapse = false)
    ∧ (((true : Bool) = true ∧ 63000 < (64000 : Nat)) ∨ ((true : Bool) = false ∧ (wOn.put SUP_STAT_BKST 2).vmainLow (64000 : Nat) = true))
    ∧ ((wOn.put SUP_STAT_BKST 2).get SUP_STAT_BKST = 2))
    ∧ ((((wOn.put SUP_STAT_BKST 3).put SUP_STAT_VMOK 1).isOn 1 = true)
    ∧ (((wOn.put SUP_STAT_BKST 3).put SUP_STAT_VMOK 1).sup.collapse = false)
    ∧ (((false : Bool) = true ∧ 63000 < (5900 : Nat)) ∨ ((false : Bool) = false ∧ ((wOn.put SUP_STAT_BKST 3).put SUP_STAT_VMOK 1).vmainLow (5900 : Nat) = true))
    ∧ (((wOn.put SUP_STAT_BKST 3).put SUP_STAT_VMOK 1).get SUP_STAT_BKST = 3)
    ∧ ((false : Bool) = true ∨ ((wOn.put SUP_STAT_BKST 3).put SUP_STAT_VMOK 1).get SUP_STAT_BKST ≠ 3 ∨ ((wOn.put SUP_STAT_BKST 3).put SUP_STAT_VMOK 1).is SUP_STAT_VMOK = true))
    ∧ ((({ wOn with on := 0x3FFB }).isOn 1 = true)
    ∧ (({ wOn with on := 0x3FFB }).sup.collapse = false)
    ∧ (((false : Bool) = true ∧ 63000 < (5900 : Nat)) ∨ ((false : Bool) = false ∧ ({ wOn with on := 0x3FFB }).vmainLow (5900 : Nat) = true))
    ∧ (({ wOn with on := 0x3FFB }).get SUP_STAT_BKST ≠ 2)
    ∧ (({ wOn with on := 0x3FFB }).get SUP_STAT_BKST ≠ 3)
    ∧ (({ wOn with on := 0x3FFB }).isOn 2 = false))
    ∧ (((wOn.put HSM_STATUS_STATE 3).isOn 1 = true)
    ∧ ((wOn.put HSM_STATUS_STATE 3).sup.collapse = false)
    ∧ (((true : Bool) = true ∧ 63000 < (64000 : Nat)) ∨ ((true : Bool) = false ∧ (wOn.put HSM_STATUS_STATE 3).vmainLow (64000 : Nat) = true))
    ∧ ((wOn.put HSM_STATUS_STATE 3).get SUP_STAT_BKST ≠ 2)
    ∧ ((wOn.put HSM_STATUS_STATE 3).get SUP_STAT_BKST ≠ 3)
    ∧ ((wOn.put HSM_STATUS_STATE 3).isOn 2 = true)
    ∧ ((wOn.put HSM_STATUS_STATE 3).sup.latch = false))
    ∧ ((((wOn.put SUP_STAT_BKST 2).put SUP_STAT_VMOK 1).isOn 1 = false ∨ ((wOn.put SUP_STAT_BKST 2).put SUP_STAT_VMOK 1).sup.collapse = true ∨ ((false : Bool) = true ∧ (9000 : Nat) ≤ 63000) ∨ ((false : Bool) = false ∧ (((wOn.put SUP_STAT_BKST 2).put SUP_STAT_VMOK 1).vmainLow (9000 : Nat) = false ∨ (((wOn.put SUP_STAT_BKST 2).put SUP_STAT_VMOK 1).get SUP_STAT_BKST = 3 ∧ ((wOn.put SUP_STAT_BKST 2).put SUP_STAT_VMOK 1).is SUP_STAT_VMOK = false)))))
    ∧ ((({ wOn.setSup { wOn.sup with swo := true } with on := 0x3FBF }).sup.swo = true)
    ∧ (({ wOn.setSup { wOn.sup with swo := true } with on := 0x3FBF }).isOn 6 = false)) := by
  and_intros <;> decide +kernel

theorem witness_supply_switches_over_returns_and_collapses_part2 :
    (((wOn.setSup { wOn.sup with swo := true }).sup.swo = true)
    ∧ ((wOn.setSup { wOn.sup with swo := true }).isOn 6 = true))
    ∧ ((wOn.sup.swo = false))
    ∧ (((wOn.put SUP_STAT_VMOK 0).isOn 1 = true)
    ∧ ((wOn.put SUP_STAT_VMOK 0).sup.collapse = false)
    ∧ ((wOn.put SUP_STAT_VMOK 0).vmainBack (12000 : Nat) = true))
    ∧ ((wOn.isOn 1 = false ∨ wOn.sup.collapse = true ∨ wOn.vmainBack (61000 : Nat) = false))
    ∧ ((({ (wOn.put SUP_STAT_SRC 1).put SUP_STAT_VMOK 1 |>.put SUP_STAT_BKST 3 with clk := { wOn.clk with now := 10 ^ 9 } }).is SUP_STAT_SRC = true)
    ∧ (({ (wOn.put SUP_STAT_SRC 1).put SUP_STAT_VMOK 1 |>.put SUP_STAT_BKST 3 with clk := { wOn.clk with now := 10 ^ 9 } }).is SUP_STAT_VMOK = true)
    ∧ (({ (wOn.put SUP_STAT_SRC 1).put SUP_STAT_VMOK 1 |>.put SUP_STAT_BKST 3 with clk := { wOn.clk with now := 10 ^ 9 } }).vmainBack (10000 : Nat) = true)
    ∧ ((16000 : Nat) < 61000)
    ∧ (({ (wOn.put SUP_STAT_SRC 1).put SUP_STAT_VMOK 1 |>.put SUP_STAT_BKST 3 with clk := { wOn.clk with now := 10 ^ 9 } }).sup.retAt + 400000 * max 1 (({ (wOn.put SUP_STAT_SRC 1).put SUP_STAT_VMOK 1 |>.put SUP_STAT_BKST 3 with clk := { wOn.clk with now := 10 ^ 9 } }).get SUP_CFG_RET) ≤ ({ (wOn.put SUP_STAT_SRC 1).put SUP_STAT_VMOK 1 |>.put SUP_STAT_BKST 3 with clk := { wOn.clk with now := 10 ^ 9 } }).now))
    ∧ ((wOn.is SUP_STAT_SRC = false ∨ wOn.is SUP_STAT_VMOK = false ∨ wOn.vmainBack (10000 : Nat) = false ∨ 61000 ≤ (16000 : Nat) ∨ wOn.now < wOn.sup.retAt + 400000 * max 1 (wOn.get SUP_CFG_RET))) := by
  and_intros <;> decide +kernel

theorem witness_supply_switches_over_returns_and_collapses_part3 :
    ((((wOn.put SUP_CFG_BKEN 1).put SUP_STAT_BKST 0).isOn 1 = true)
    ∧ (200 ≤ (650 : Nat))
    ∧ ((650 : Nat) ≤ 1050)
    ∧ (((wOn.put SUP_CFG_BKEN 1).put SUP_STAT_BKST 0).is SUP_CFG_BKEN = true)
    ∧ (((wOn.put SUP_CFG_BKEN 1).put SUP_STAT_BKST 0).get SUP_STAT_BKST = 0)
    ∧ (((wOn.put SUP_CFG_BKEN 1).put SUP_STAT_BKST 0).sup.collapse = false))
    ∧ (((wOn.put SUP_CFG_BKEN 1).isOn 1 = true)
    ∧ (200 ≤ (1051 : Nat))
    ∧ ((wOn.put SUP_CFG_BKEN 1).is SUP_CFG_BKEN = false ∨ (wOn.put SUP_CFG_BKEN 1).get SUP_STAT_BKST ≠ 0 ∨ (wOn.put SUP_CFG_BKEN 1).sup.collapse = true ∨ 1050 < (1051 : Nat)))
    ∧ ((wOn.isOn 1 = false ∨ (199 : Nat) < 200))
    ∧ (((wOn.put SUP_STAT_BKST 1).get SUP_STAT_BKST = 1)
    ∧ ((wOn.put SUP_STAT_BKST 1).isOn 1 = true))
    ∧ ((wOn.get SUP_STAT_BKST ≠ 1 ∨ wOn.isOn 1 = false))
    ∧ (((wOn.put SUP_STAT_BKST 2).isOn 1 = true)
    ∧ ((wOn.put SUP_STAT_BKST 2).get SUP_STAT_BKST ≠ 3)
    ∧ ((2 : Fin 3) = 0 → (600 : Nat) < 190)
    ∧ ((2 : Fin 3) = 1 → (wOn.put SUP_STAT_BKST 2).is SUP_CFG_BKEN = false)) := by
  and_intros <;> decide +kernel

theorem witness_supply_switches_over_returns_and_collapses_part4 :
    (((((wOn.put SUP_STAT_BKST 3).put SUP_STAT_VMOK 1).put SUP_STAT_SRC 1).isOn 1 = true)
    ∧ ((((wOn.put SUP_STAT_BKST 3).put SUP_STAT_VMOK 1).put SUP_STAT_SRC 1).get SUP_STAT_BKST = 3)
    ∧ ((((wOn.put SUP_STAT_BKST 3).put SUP_STAT_VMOK 1).put SUP_STAT_SRC 1).is SUP_STAT_VMOK = true)
    ∧ ((0 : Fin 3) = 0 → (189 : Nat) < 190)
    ∧ ((0 : Fin 3) = 1 → (((wOn.put SUP_STAT_BKST 3).put SUP_STAT_VMOK 1).put SUP_STAT_SRC 1).is SUP_CFG_BKEN = false))
    ∧ ((((wOn.put SUP_STAT_BKST 3).put SUP_STAT_VMOK 0).isOn 1 = true)
    ∧ (((wOn.put SUP_STAT_BKST 3).put SUP_STAT_VMOK 0).sup.collapse = false)
    ∧ (((wOn.put SUP_STAT_BKST 3).put SUP_STAT_VMOK 0).get SUP_STAT_BKST = 3)
    ∧ (((wOn.put SUP_STAT_BKST 3).put SUP_STAT_VMOK 0).is SUP_STAT_VMOK = false)
    ∧ ((2 : Fin 3) = 0 → (600 : Nat) < 190)
    ∧ ((2 : Fin 3) = 1 → ((wOn.put SUP_STAT_BKST 3).put SUP_STAT_VMOK 0).is SUP_CFG_BKEN = false))
    ∧ ((wOn.isOn 1 = false ∨ ((0 : Fin 3) = 0 ∧ 190 ≤ (190 : Nat)) ∨ ((0 : Fin 3) = 1 ∧ wOn.is SUP_CFG_BKEN = true)))
    ∧ (((((wOn.put SUP_STAT_BKST 3).put SUP_STAT_VMOK 1).put SUP_STAT_SRC 1).isOn 1 = true)
    ∧ (1050 < (1051 : Nat))
    ∧ ((((wOn.put SUP_STAT_BKST 3).put SUP_STAT_VMOK 1).put SUP_STAT_SRC 1).get SUP_STAT_BKST = 3)
    ∧ ((((wOn.put SUP_STAT_BKST 3).put SUP_STAT_VMOK 1).put SUP_STAT_SRC 1).is SUP_STAT_VMOK = true))
    ∧ ((((wOn.put SUP_STAT_BKST 2).put SUP_STAT_VMOK 1).isOn 1 = true)
    ∧ (1050 < (1051 : Nat))
    ∧ (((wOn.put SUP_STAT_BKST 2).put SUP_STAT_VMOK 1).get SUP_STAT_BKST ≠ 3))
    ∧ ((((wOn.put SUP_STAT_BKST 3).put SUP_STAT_VMOK 0).isOn 1 = true)
    ∧ (((wOn.put SUP_STAT_BKST 3).put SUP_STAT_VMOK 0).sup.collapse = false)
    ∧ (1050 < (1051 : Nat))
    ∧ (((wOn.put SUP_STAT_BKST 3).put SUP_STAT_VMOK 0).get SUP_STAT_BKST = 3)
    ∧ (((wOn.put SUP_STAT_BKST 3).put SUP_STAT_VMOK 0).is SUP_STAT_VMOK = false)) := by
  and_intros <;> decide +kernel

theorem witness_supply_switches_over_returns_and_collapses_part5 :
    ((wOn.isOn 1 = false ∨ (1050 : Nat) ≤ 1050))
    ∧ ((({ wOn.setSup { wOn.sup with collapse := true } with clk := { wOn.clk with now := 1200 } }).sup.collapse = true)
    ∧ ((({ wOn.setSup { wOn.sup with collapse := true } with clk := { wOn.clk with now := 1200 } }).isOn 2 = true ∧ ({ wOn.setSup { wOn.sup with collapse := true } with clk := { wOn.clk with now := 1200 } }).get HSM_STATUS_FOFF = 15) ∨ ({ wOn.setSup { wOn.sup with collapse := true } with clk := { wOn.clk with now := 1200 } }).sup.collAt + 1200 ≤ ({ wOn.setSup { wOn.sup with collapse := true } with clk := { wOn.clk with now := 1200 } }).now))
    ∧ ((wOn.sup.collapse = false ∨ ((wOn.isOn 2 = false ∨ wOn.get HSM_STATUS_FOFF ≠ 15) ∧ wOn.now < wOn.sup.collAt + 1200)))
    ∧ ((wOn.Reaches (Initiator.kp : Initiator) SUP_CFG.addr)
    ∧ (wOn.is SUP_CFG_LOCK = false)
    ∧ ((0xFFFF : Word).getLsbD SUP_CFG_BKEN.lo = true))
    ∧ ((((wOn.put SUP_STAT_BKST 2).put SUP_STAT_VMOK 1).Reaches (Initiator.kp : Initiator) SUP_CFG.addr)
    ∧ (((wOn.put SUP_STAT_BKST 2).put SUP_STAT_VMOK 1).is SUP_CFG_LOCK = false)
    ∧ ((0x20000 : Word).getLsbD SUP_CFG_BKEN.lo = false)
    ∧ (((wOn.put SUP_STAT_BKST 2).put SUP_STAT_VMOK 1).get SUP_STAT_BKST ≠ 3)
    ∧ (((wOn.put SUP_STAT_BKST 2).put SUP_STAT_VMOK 1).isOn 1 = true))
    ∧ ((((wOn.put SUP_CFG_LOCK 1).put SUP_CFG_BKEN 1).Reaches (Initiator.kp : Initiator) SUP_CFG.addr)
    ∧ (((wOn.put SUP_CFG_LOCK 1).put SUP_CFG_BKEN 1).is SUP_CFG_LOCK = true)
    ∧ (((wOn.put SUP_CFG_LOCK 1).put SUP_CFG_BKEN 1).is SUP_CFG_BKEN = true)) := by
  and_intros <;> decide +kernel

theorem witness_domains_standby_and_wake :
    ((({ wOn.put PDC_REQ_REQ 0x1FFF with on := 0x1FFF }).Reaches (Initiator.kp : Initiator) PDC_REQ.addr)
    ∧ (∀ j : Fin 14, j ≠ (13 : Fin 14) → (0x3FFF : Word).getLsbD j.val = bitOf j.val (({ wOn.put PDC_REQ_REQ 0x1FFF with on := 0x1FFF }).get PDC_REQ_REQ))
    ∧ (1 ≤ (13 : Fin 14).val)
    ∧ ((Initiator.kp : Initiator) = .hk ∨ 7 ≤ (13 : Fin 14).val)
    ∧ (bitOf (13 : Fin 14).val (({ wOn.put PDC_REQ_REQ 0x1FFF with on := 0x1FFF }).get PDC_REQ_REQ) = false)
    ∧ ((0x3FFF : Word).getLsbD (13 : Fin 14).val = true)
    ∧ (({ wOn.put PDC_REQ_REQ 0x1FFF with on := 0x1FFF }).pdcReason (13 : Fin 14).val = 0)
    ∧ (({ wOn.put PDC_REQ_REQ 0x1FFF with on := 0x1FFF }).isOn (13 : Fin 14).val = false))
    ∧ ((({ wOn.put PDC_REQ_REQ 0x3DFF with on := 0x3DFF }).Reaches (Initiator.kp : Initiator) PDC_REQ.addr)
    ∧ (∀ j : Fin 14, j ≠ (9 : Fin 14) → (0x3FFF : Word).getLsbD j.val = bitOf j.val (({ wOn.put PDC_REQ_REQ 0x3DFF with on := 0x3DFF }).get PDC_REQ_REQ))
    ∧ (1 ≤ (9 : Fin 14).val)
    ∧ ((Initiator.kp : Initiator) = .hk ∨ 7 ≤ (9 : Fin 14).val)
    ∧ (bitOf (9 : Fin 14).val (({ wOn.put PDC_REQ_REQ 0x3DFF with on := 0x3DFF }).get PDC_REQ_REQ) = false)
    ∧ ((0x3FFF : Word).getLsbD (9 : Fin 14).val = true)
    ∧ (({ wOn.put PDC_REQ_REQ 0x3DFF with on := 0x3DFF }).pdcReason (9 : Fin 14).val ≠ 0))
    ∧ (((wOn.put PDC_REQ_REQ 0x3FFF).Reaches (.hk : Initiator) PDC_REQ.addr)
    ∧ (∀ j : Fin 14, j ≠ (8 : Fin 14) → (0x3EFF : Word).getLsbD j.val = bitOf j.val ((wOn.put PDC_REQ_REQ 0x3FFF).get PDC_REQ_REQ))
    ∧ (1 ≤ (8 : Fin 14).val)
    ∧ ((.hk : Initiator) = .hk ∨ 7 ≤ (8 : Fin 14).val)
    ∧ (bitOf (8 : Fin 14).val ((wOn.put PDC_REQ_REQ 0x3FFF).get PDC_REQ_REQ) = true)
    ∧ ((0x3EFF : Word).getLsbD (8 : Fin 14).val = false))
    ∧ (((wOn.put PDC_REQ_REQ 0x3FFF).Reaches (.kp : Initiator) PDC_REQ.addr)
    ∧ (∀ d : Fin 14, 1 ≤ d.val → ((.kp : Initiator) = .hk ∨ 7 ≤ d.val) → (0x3F80 : Word).getLsbD d.val = bitOf d.val ((wOn.put PDC_REQ_REQ 0x3FFF).get PDC_REQ_REQ)))
    ∧ ((wOn.Reaches (.sc (1 : Fin 4) (0 : Fin 3)) SUP_STBY.addr)
    ∧ ((0x5354 : Word).toNat % 65536 = 0x5354)
    ∧ (wOn.is SUP_STAT_SRC = false)
    ∧ (wOn.get MDM_ACTIVE_ACTIVE &&& 0x5FF = 0))
    ∧ (((wOn.put SUP_STAT_SRC 1).Reaches (.sc (1 : Fin 4) (0 : Fin 3)) SUP_STBY.addr)
    ∧ ((0x5354 : Word).toNat % 65536 = 0x5354)
    ∧ ((wOn.put SUP_STAT_SRC 1).is SUP_STAT_SRC = true ∨ (wOn.put SUP_STAT_SRC 1).get MDM_ACTIVE_ACTIVE &&& 0x5FF ≠ 0)) := by
  and_intros <;> decide +kernel

theorem witness_domains_standby_and_wake_part2 :
    ((wOn.Reaches (Initiator.kp : Initiator) SUP_STBY.addr)
    ∧ (isSc (Initiator.kp : Initiator) = false ∨ (0x5354 : Word).toNat % 65536 ≠ 0x5354))
    ∧ ((({ (wOn.put AON_WAKE_EN 1).setSup { wOn.sup with standby := true } with marten := 10 ^ 9 } |>.put AON_WAKE_WPOL 1).sup.standby = true)
    ∧ (({ (wOn.put AON_WAKE_EN 1).setSup { wOn.sup with standby := true } with marten := 10 ^ 9 } |>.put AON_WAKE_WPOL 1).bit AON_WAKE_EN 0 = true)
    ∧ ((false : Bool) ≠ ({ (wOn.put AON_WAKE_EN 1).setSup { wOn.sup with standby := true } with marten := 10 ^ 9 } |>.put AON_WAKE_WPOL 1).is AON_WAKE_WPOL))
    ∧ ((({ (wOn.put AON_WAKE_EN 30).setSup { wOn.sup with standby := true } with marten := 10 ^ 9 }).sup.standby = false ∨ ({ (wOn.put AON_WAKE_EN 30).setSup { wOn.sup with standby := true } with marten := 10 ^ 9 }).bit AON_WAKE_EN 0 = false ∨ (true : Bool) = ({ (wOn.put AON_WAKE_EN 30).setSup { wOn.sup with standby := true } with marten := 10 ^ 9 }).is AON_WAKE_WPOL))
    ∧ ((({ (wOn.put AON_WAKE_EN 2).setSup { wOn.sup with standby := true } with marten := 10 ^ 9 } |>.put AON_TIMER_SEC 3).sup.standby = true)
    ∧ (({ (wOn.put AON_WAKE_EN 2).setSup { wOn.sup with standby := true } with marten := 10 ^ 9 } |>.put AON_TIMER_SEC 3).bit AON_WAKE_EN 1 = true)
    ∧ (({ (wOn.put AON_WAKE_EN 2).setSup { wOn.sup with standby := true } with marten := 10 ^ 9 } |>.put AON_TIMER_SEC 3).get AON_TIMER_SEC ≠ 0)
    ∧ (({ (wOn.put AON_WAKE_EN 2).setSup { wOn.sup with standby := true } with marten := 10 ^ 9 } |>.put AON_TIMER_SEC 3).sup.sbAt + ({ (wOn.put AON_WAKE_EN 2).setSup { wOn.sup with standby := true } with marten := 10 ^ 9 } |>.put AON_TIMER_SEC 3).get AON_TIMER_SEC * 32768 ≤ ({ (wOn.put AON_WAKE_EN 2).setSup { wOn.sup with standby := true } with marten := 10 ^ 9 } |>.put AON_TIMER_SEC 3).marten))
    ∧ ((({ (wOn.put AON_WAKE_EN 2).setSup { wOn.sup with standby := true } with marten := 10 ^ 9 }).sup.standby = false ∨ ({ (wOn.put AON_WAKE_EN 2).setSup { wOn.sup with standby := true } with marten := 10 ^ 9 }).bit AON_WAKE_EN 1 = false ∨ ({ (wOn.put AON_WAKE_EN 2).setSup { wOn.sup with standby := true } with marten := 10 ^ 9 }).get AON_TIMER_SEC = 0 ∨ ({ (wOn.put AON_WAKE_EN 2).setSup { wOn.sup with standby := true } with marten := 10 ^ 9 }).marten < ({ (wOn.put AON_WAKE_EN 2).setSup { wOn.sup with standby := true } with marten := 10 ^ 9 }).sup.sbAt + ({ (wOn.put AON_WAKE_EN 2).setSup { wOn.sup with standby := true } with marten := 10 ^ 9 }).get AON_TIMER_SEC * 32768))
    ∧ ((({ (wOn.put AON_WAKE_EN 4).setSup { wOn.sup with standby := true, plug := true } with marten := 10 ^ 9 }).sup.standby = true)
    ∧ (({ (wOn.put AON_WAKE_EN 4).setSup { wOn.sup with standby := true, plug := true } with marten := 10 ^ 9 }).bit AON_WAKE_EN 2 = true)
    ∧ (({ (wOn.put AON_WAKE_EN 4).setSup { wOn.sup with standby := true, plug := true } with marten := 10 ^ 9 }).sup.plug ≠ ({ (wOn.put AON_WAKE_EN 4).setSup { wOn.sup with standby := true, plug := true } with marten := 10 ^ 9 }).sup.sbPlug)
    ∧ (({ (wOn.put AON_WAKE_EN 4).setSup { wOn.sup with standby := true, plug := true } with marten := 10 ^ 9 }).sup.plugAt + 32 ≤ ({ (wOn.put AON_WAKE_EN 4).setSup { wOn.sup with standby := true, plug := true } with marten := 10 ^ 9 }).marten)) := by
  and_intros <;> decide +kernel

theorem witness_domains_standby_and_wake_part3 :
    ((({ (wOn.put AON_WAKE_EN 4).setSup { wOn.sup with standby := true } with marten := 10 ^ 9 }).sup.standby = false ∨ ({ (wOn.put AON_WAKE_EN 4).setSup { wOn.sup with standby := true } with marten := 10 ^ 9 }).bit AON_WAKE_EN 2 = false ∨ ({ (wOn.put AON_WAKE_EN 4).setSup { wOn.sup with standby := true } with marten := 10 ^ 9 }).sup.plug = ({ (wOn.put AON_WAKE_EN 4).setSup { wOn.sup with standby := true } with marten := 10 ^ 9 }).sup.sbPlug ∨ ({ (wOn.put AON_WAKE_EN 4).setSup { wOn.sup with standby := true } with marten := 10 ^ 9 }).marten < ({ (wOn.put AON_WAKE_EN 4).setSup { wOn.sup with standby := true } with marten := 10 ^ 9 }).sup.plugAt + 32))
    ∧ ((({ (wOn.put AON_WAKE_EN 16).setSup { wOn.sup with standby := true } with marten := 10 ^ 9 }).sup.standby = true)
    ∧ (({ (wOn.put AON_WAKE_EN 16).setSup { wOn.sup with standby := true } with marten := 10 ^ 9 }).bit AON_WAKE_EN (3 + (1 : Fin 2).val) = true))
    ∧ ((({ (wOn.put AON_WAKE_EN 16).setSup { wOn.sup with standby := true } with marten := 10 ^ 9 }).sup.standby = false ∨ ({ (wOn.put AON_WAKE_EN 16).setSup { wOn.sup with standby := true } with marten := 10 ^ 9 }).bit AON_WAKE_EN (3 + (0 : Fin 2).val) = false))
    ∧ ((wOn.pllB = true)
    ∧ (wOn.isOn 1 = true))
    ∧ ((({ wOn with pllB := false }).pllB = false ∨ ({ wOn with pllB := false }).isOn 1 = false))
    ∧ ((wOn.pllA = true)
    ∧ (wOn.isOn 1 = true)) := by
  and_intros <;> decide +kernel

theorem witness_domains_standby_and_wake_part4 :
    ((({ wOn with pllA := false }).pllA = false ∨ ({ wOn with pllA := false }).isOn 1 = false)) := by
  and_intros <;> decide +kernel

theorem witness_housekeeping_rounds_and_shutdown :
    ((({ (wOn).setConv { wOn.conv with hkA := ⟨50, 128, 32 * 777, false⟩, hkB := ⟨50, 128, 32 * 778, true⟩ } |>.setHk { wOn.hk with chan := 50 } with clk := { wOn.clk with now := 10 ^ 8 } }).isOn 7 = true)
    ∧ (({ (wOn).setConv { wOn.conv with hkA := ⟨50, 128, 32 * 777, false⟩, hkB := ⟨50, 128, 32 * 778, true⟩ } |>.setHk { wOn.hk with chan := 50 } with clk := { wOn.clk with now := 10 ^ 8 } }).ticking = true)
    ∧ (({ (wOn).setConv { wOn.conv with hkA := ⟨50, 128, 32 * 777, false⟩, hkB := ⟨50, 128, 32 * 778, true⟩ } |>.setHk { wOn.hk with chan := 50 } with clk := { wOn.clk with now := 10 ^ 8 } }).conv.onAt + 6400 * (({ (wOn).setConv { wOn.conv with hkA := ⟨50, 128, 32 * 777, false⟩, hkB := ⟨50, 128, 32 * 778, true⟩ } |>.setHk { wOn.hk with chan := 50 } with clk := { wOn.clk with now := 10 ^ 8 } }).hk.chan + 1) + 68 ≤ ({ (wOn).setConv { wOn.conv with hkA := ⟨50, 128, 32 * 777, false⟩, hkB := ⟨50, 128, 32 * 778, true⟩ } |>.setHk { wOn.hk with chan := 50 } with clk := { wOn.clk with now := 10 ^ 8 } }).now))
    ∧ ((({ (wOn.put EVL_CTRL_LVL_EN 7).setConv { wOn.conv with hkA := ⟨50, 128, 32 * 777, false⟩, hkB := ⟨50, 128, 32 * 40000, false⟩ } |>.setHk { wOn.hk with chan := 50 } with clk := { wOn.clk with now := 10 ^ 8 } }).isOn 7 = true)
    ∧ (({ (wOn.put EVL_CTRL_LVL_EN 7).setConv { wOn.conv with hkA := ⟨50, 128, 32 * 777, false⟩, hkB := ⟨50, 128, 32 * 40000, false⟩ } |>.setHk { wOn.hk with chan := 50 } with clk := { wOn.clk with now := 10 ^ 8 } }).ticking = true)
    ∧ (({ (wOn.put EVL_CTRL_LVL_EN 7).setConv { wOn.conv with hkA := ⟨50, 128, 32 * 777, false⟩, hkB := ⟨50, 128, 32 * 40000, false⟩ } |>.setHk { wOn.hk with chan := 50 } with clk := { wOn.clk with now := 10 ^ 8 } }).conv.onAt + 6400 * (({ (wOn.put EVL_CTRL_LVL_EN 7).setConv { wOn.conv with hkA := ⟨50, 128, 32 * 777, false⟩, hkB := ⟨50, 128, 32 * 40000, false⟩ } |>.setHk { wOn.hk with chan := 50 } with clk := { wOn.clk with now := 10 ^ 8 } }).hk.chan + 1) + 68 ≤ ({ (wOn.put EVL_CTRL_LVL_EN 7).setConv { wOn.conv with hkA := ⟨50, 128, 32 * 777, false⟩, hkB := ⟨50, 128, 32 * 40000, false⟩ } |>.setHk { wOn.hk with chan := 50 } with clk := { wOn.clk with now := 10 ^ 8 } }).now)
    ∧ (30 ≤ (({ (wOn.put EVL_CTRL_LVL_EN 7).setConv { wOn.conv with hkA := ⟨50, 128, 32 * 777, false⟩, hkB := ⟨50, 128, 32 * 40000, false⟩ } |>.setHk { wOn.hk with chan := 50 } with clk := { wOn.clk with now := 10 ^ 8 } }).hk.chan % 64))
    ∧ ((({ (wOn.put EVL_CTRL_LVL_EN 7).setConv { wOn.conv with hkA := ⟨50, 128, 32 * 777, false⟩, hkB := ⟨50, 128, 32 * 40000, false⟩ } |>.setHk { wOn.hk with chan := 50 } with clk := { wOn.clk with now := 10 ^ 8 } }).hk.chan % 64) < 44 ∨ 48 ≤ (({ (wOn.put EVL_CTRL_LVL_EN 7).setConv { wOn.conv with hkA := ⟨50, 128, 32 * 777, false⟩, hkB := ⟨50, 128, 32 * 40000, false⟩ } |>.setHk { wOn.hk with chan := 50 } with clk := { wOn.clk with now := 10 ^ 8 } }).hk.chan % 64)))
    ∧ ((wOn.isOn 7 = false ∨ wOn.ticking = false ∨ wOn.now < wOn.conv.onAt + 6400 * (wOn.hk.chan + 1) + 68))
    ∧ ((({ (((wOn.put THM_EN_EN 0x4000000).put (THM_TXCFG_OFS 2) 250)).setConv { wOn.conv with hkA := ⟨26, 128, 32 * 32768, false⟩, hkB := ⟨26, 128, 32 * 32770, false⟩ } |>.setHk { wOn.hk with chan := 26 } with clk := { wOn.clk with now := 10 ^ 8 } }).isOn 7 = true)
    ∧ (({ (((wOn.put THM_EN_EN 0x4000000).put (THM_TXCFG_OFS 2) 250)).setConv { wOn.conv with hkA := ⟨26, 128, 32 * 32768, false⟩, hkB := ⟨26, 128, 32 * 32770, false⟩ } |>.setHk { wOn.hk with chan := 26 } with clk := { wOn.clk with now := 10 ^ 8 } }).ticking = true)
    ∧ (({ (((wOn.put THM_EN_EN 0x4000000).put (THM_TXCFG_OFS 2) 250)).setConv { wOn.conv with hkA := ⟨26, 128, 32 * 32768, false⟩, hkB := ⟨26, 128, 32 * 32770, false⟩ } |>.setHk { wOn.hk with chan := 26 } with clk := { wOn.clk with now := 10 ^ 8 } }).conv.onAt + 6400 * (({ (((wOn.put THM_EN_EN 0x4000000).put (THM_TXCFG_OFS 2) 250)).setConv { wOn.conv with hkA := ⟨26, 128, 32 * 32768, false⟩, hkB := ⟨26, 128, 32 * 32770, false⟩ } |>.setHk { wOn.hk with chan := 26 } with clk := { wOn.clk with now := 10 ^ 8 } }).hk.chan + 1) + 68 ≤ ({ (((wOn.put THM_EN_EN 0x4000000).put (THM_TXCFG_OFS 2) 250)).setConv { wOn.conv with hkA := ⟨26, 128, 32 * 32768, false⟩, hkB := ⟨26, 128, 32 * 32770, false⟩ } |>.setHk { wOn.hk with chan := 26 } with clk := { wOn.clk with now := 10 ^ 8 } }).now)
    ∧ ((({ (((wOn.put THM_EN_EN 0x4000000).put (THM_TXCFG_OFS 2) 250)).setConv { wOn.conv with hkA := ⟨26, 128, 32 * 32768, false⟩, hkB := ⟨26, 128, 32 * 32770, false⟩ } |>.setHk { wOn.hk with chan := 26 } with clk := { wOn.clk with now := 10 ^ 8 } }).hk.chan % 64) < 30)
    ∧ (bitOf (({ (((wOn.put THM_EN_EN 0x4000000).put (THM_TXCFG_OFS 2) 250)).setConv { wOn.conv with hkA := ⟨26, 128, 32 * 32768, false⟩, hkB := ⟨26, 128, 32 * 32770, false⟩ } |>.setHk { wOn.hk with chan := 26 } with clk := { wOn.clk with now := 10 ^ 8 } }).hk.chan % 64) ({ (((wOn.put THM_EN_EN 0x4000000).put (THM_TXCFG_OFS 2) 250)).setConv { wOn.conv with hkA := ⟨26, 128, 32 * 32768, false⟩, hkB := ⟨26, 128, 32 * 32770, false⟩ } |>.setHk { wOn.hk with chan := 26 } with clk := { wOn.clk with now := 10 ^ 8 } }).thmEn = true)
    ∧ (bitOf (({ (((wOn.put THM_EN_EN 0x4000000).put (THM_TXCFG_OFS 2) 250)).setConv { wOn.conv with hkA := ⟨26, 128, 32 * 32768, false⟩, hkB := ⟨26, 128, 32 * 32770, false⟩ } |>.setHk { wOn.hk with chan := 26 } with clk := { wOn.clk with now := 10 ^ 8 } }).hk.chan % 64) ({ (((wOn.put THM_EN_EN 0x4000000).put (THM_TXCFG_OFS 2) 250)).setConv { wOn.conv with hkA := ⟨26, 128, 32 * 32768, false⟩, hkB := ⟨26, 128, 32 * 32770, false⟩ } |>.setHk { wOn.hk with chan := 26 } with clk := { wOn.clk with now := 10 ^ 8 } }).hk.mism = false)
    ∧ (bitOf (({ (((wOn.put THM_EN_EN 0x4000000).put (THM_TXCFG_OFS 2) 250)).setConv { wOn.conv with hkA := ⟨26, 128, 32 * 32768, false⟩, hkB := ⟨26, 128, 32 * 32770, false⟩ } |>.setHk { wOn.hk with chan := 26 } with clk := { wOn.clk with now := 10 ^ 8 } }).hk.chan % 64) ({ (((wOn.put THM_EN_EN 0x4000000).put (THM_TXCFG_OFS 2) 250)).setConv { wOn.conv with hkA := ⟨26, 128, 32 * 32768, false⟩, hkB := ⟨26, 128, 32 * 32770, false⟩ } |>.setHk { wOn.hk with chan := 26 } with clk := { wOn.clk with now := 10 ^ 8 } }).hk.ovr = false)
    ∧ (({ (((wOn.put THM_EN_EN 0x4000000).put (THM_TXCFG_OFS 2) 250)).setConv { wOn.conv with hkA := ⟨26, 128, 32 * 32768, false⟩, hkB := ⟨26, 128, 32 * 32770, false⟩ } |>.setHk { wOn.hk with chan := 26 } with clk := { wOn.clk with now := 10 ^ 8 } }).hk.stopped = false)
    ∧ (({ (((wOn.put THM_EN_EN 0x4000000).put (THM_TXCFG_OFS 2) 250)).setConv { wOn.conv with hkA := ⟨26, 128, 32 * 32768, false⟩, hkB := ⟨26, 128, 32 * 32770, false⟩ } |>.setHk { wOn.hk with chan := 26 } with clk := { wOn.clk with now := 10 ^ 8 } }).hkMismatch (({ (((wOn.put THM_EN_EN 0x4000000).put (THM_TXCFG_OFS 2) 250)).setConv { wOn.conv with hkA := ⟨26, 128, 32 * 32768, false⟩, hkB := ⟨26, 128, 32 * 32770, false⟩ } |>.setHk { wOn.hk with chan := 26 } with clk := { wOn.clk with now := 10 ^ 8 } }).hk.chan % 64) ((if ({ (((wOn.put THM_EN_EN 0x4000000).put (THM_TXCFG_OFS 2) 250)).setConv { wOn.conv with hkA := ⟨26, 128, 32 * 32768, false⟩, hkB := ⟨26, 128, 32 * 32770, false⟩ } |>.setHk { wOn.hk with chan := 26 } with clk := { wOn.clk with now := 10 ^ 8 } }).conv.hkA.chan = ({ (((wOn.put THM_EN_EN 0x4000000).put (THM_TXCFG_OFS 2) 250)).setConv { wOn.conv with hkA := ⟨26, 128, 32 * 32768, false⟩, hkB := ⟨26, 128, 32 * 32770, false⟩ } |>.setHk { wOn.hk with chan := 26 } with clk := { wOn.clk with now := 10 ^ 8 } }).hk.chan then ({ (((wOn.put THM_EN_EN 0x4000000).put (THM_TXCFG_OFS 2) 250)).setConv { wOn.conv with hkA := ⟨26, 128, 32 * 32768, false⟩, hkB := ⟨26, 128, 32 * 32770, false⟩ } |>.setHk { wOn.hk with chan := 26 } with clk := { wOn.clk with now := 10 ^ 8 } }).conv.hkA else ⟨({ (((wOn.put THM_EN_EN 0x4000000).put (THM_TXCFG_OFS 2) 250)).setConv { wOn.conv with hkA := ⟨26, 128, 32 * 32768, false⟩, hkB := ⟨26, 128, 32 * 32770, false⟩ } |>.setHk { wOn.hk with chan := 26 } with clk := { wOn.clk with now := 10 ^ 8 } }).hk.chan, 0, 0, false⟩).sum / 32) ((if ({ (((wOn.put THM_EN_EN 0x4000000).put (THM_TXCFG_OFS 2) 250)).setConv { wOn.conv with hkA := ⟨26, 128, 32 * 32768, false⟩, hkB := ⟨26, 128, 32 * 32770, false⟩ } |>.setHk { wOn.hk with chan := 26 } with clk := { wOn.clk with now := 10 ^ 8 } }).conv.hkB.chan = ({ (((wOn.put THM_EN_EN 0x4000000).put (THM_TXCFG_OFS 2) 250)).setConv { wOn.conv with hkA := ⟨26, 128, 32 * 32768, false⟩, hkB := ⟨26, 128, 32 * 32770, false⟩ } |>.setHk { wOn.hk with chan := 26 } with clk := { wOn.clk with now := 10 ^ 8 } }).hk.chan then ({ (((wOn.put THM_EN_EN 0x4000000).put (THM_TXCFG_OFS 2) 250)).setConv { wOn.conv with hkA := ⟨26, 128, 32 * 32768, false⟩, hkB := ⟨26, 128, 32 * 32770, false⟩ } |>.setHk { wOn.hk with chan := 26 } with clk := { wOn.clk with now := 10 ^ 8 } }).conv.hkB else ⟨({ (((wOn.put THM_EN_EN 0x4000000).put (THM_TXCFG_OFS 2) 250)).setConv { wOn.conv with hkA := ⟨26, 128, 32 * 32768, false⟩, hkB := ⟨26, 128, 32 * 32770, false⟩ } |>.setHk { wOn.hk with chan := 26 } with clk := { wOn.clk with now := 10 ^ 8 } }).hk.chan, 0, 0, false⟩).sum / 32) = false)
    ∧ (((if ({ (((wOn.put THM_EN_EN 0x4000000).put (THM_TXCFG_OFS 2) 250)).setConv { wOn.conv with hkA := ⟨26, 128, 32 * 32768, false⟩, hkB := ⟨26, 128, 32 * 32770, false⟩ } |>.setHk { wOn.hk with chan := 26 } with clk := { wOn.clk with now := 10 ^ 8 } }).conv.hkA.chan = ({ (((wOn.put THM_EN_EN 0x4000000).put (THM_TXCFG_OFS 2) 250)).setConv { wOn.conv with hkA := ⟨26, 128, 32 * 32768, false⟩, hkB := ⟨26, 128, 32 * 32770, false⟩ } |>.setHk { wOn.hk with chan := 26 } with clk := { wOn.clk with now := 10 ^ 8 } }).hk.chan then ({ (((wOn.put THM_EN_EN 0x4000000).put (THM_TXCFG_OFS 2) 250)).setConv { wOn.conv with hkA := ⟨26, 128, 32 * 32768, false⟩, hkB := ⟨26, 128, 32 * 32770, false⟩ } |>.setHk { wOn.hk with chan := 26 } with clk := { wOn.clk with now := 10 ^ 8 } }).conv.hkA else ⟨({ (((wOn.put THM_EN_EN 0x4000000).put (THM_TXCFG_OFS 2) 250)).setConv { wOn.conv with hkA := ⟨26, 128, 32 * 32768, false⟩, hkB := ⟨26, 128, 32 * 32770, false⟩ } |>.setHk { wOn.hk with chan := 26 } with clk := { wOn.clk with now := 10 ^ 8 } }).hk.chan, 0, 0, false⟩).ovr || (if ({ (((wOn.put THM_EN_EN 0x4000000).put (THM_TXCFG_OFS 2) 250)).setConv { wOn.conv with hkA := ⟨26, 128, 32 * 32768, false⟩, hkB := ⟨26, 128, 32 * 32770, false⟩ } |>.setHk { wOn.hk with chan := 26 } with clk := { wOn.clk with now := 10 ^ 8 } }).conv.hkB.chan = ({ (((wOn.put THM_EN_EN 0x4000000).put (THM_TXCFG_OFS 2) 250)).setConv { wOn.conv with hkA := ⟨26, 128, 32 * 32768, false⟩, hkB := ⟨26, 128, 32 * 32770, false⟩ } |>.setHk { wOn.hk with chan := 26 } with clk := { wOn.clk with now := 10 ^ 8 } }).hk.chan then ({ (((wOn.put THM_EN_EN 0x4000000).put (THM_TXCFG_OFS 2) 250)).setConv { wOn.conv with hkA := ⟨26, 128, 32 * 32768, false⟩, hkB := ⟨26, 128, 32 * 32770, false⟩ } |>.setHk { wOn.hk with chan := 26 } with clk := { wOn.clk with now := 10 ^ 8 } }).conv.hkB else ⟨({ (((wOn.put THM_EN_EN 0x4000000).put (THM_TXCFG_OFS 2) 250)).setConv { wOn.conv with hkA := ⟨26, 128, 32 * 32768, false⟩, hkB := ⟨26, 128, 32 * 32770, false⟩ } |>.setHk { wOn.hk with chan := 26 } with clk := { wOn.clk with now := 10 ^ 8 } }).hk.chan, 0, 0, false⟩).ovr) = false)
    ∧ (({ (((wOn.put THM_EN_EN 0x4000000).put (THM_TXCFG_OFS 2) 250)).setConv { wOn.conv with hkA := ⟨26, 128, 32 * 32768, false⟩, hkB := ⟨26, 128, 32 * 32770, false⟩ } |>.setHk { wOn.hk with chan := 26 } with clk := { wOn.clk with now := 10 ^ 8 } }).temperature (({ (((wOn.put THM_EN_EN 0x4000000).put (THM_TXCFG_OFS 2) 250)).setConv { wOn.conv with hkA := ⟨26, 128, 32 * 32768, false⟩, hkB := ⟨26, 128, 32 * 32770, false⟩ } |>.setHk { wOn.hk with chan := 26 } with clk := { wOn.clk with now := 10 ^ 8 } }).hk.chan % 64) ((if ({ (((wOn.put THM_EN_EN 0x4000000).put (THM_TXCFG_OFS 2) 250)).setConv { wOn.conv with hkA := ⟨26, 128, 32 * 32768, false⟩, hkB := ⟨26, 128, 32 * 32770, false⟩ } |>.setHk { wOn.hk with chan := 26 } with clk := { wOn.clk with now := 10 ^ 8 } }).conv.hkA.chan = ({ (((wOn.put THM_EN_EN 0x4000000).put (THM_TXCFG_OFS 2) 250)).setConv { wOn.conv with hkA := ⟨26, 128, 32 * 32768, false⟩, hkB := ⟨26, 128, 32 * 32770, false⟩ } |>.setHk { wOn.hk with chan := 26 } with clk := { wOn.clk with now := 10 ^ 8 } }).hk.chan then ({ (((wOn.put THM_EN_EN 0x4000000).put (THM_TXCFG_OFS 2) 250)).setConv { wOn.conv with hkA := ⟨26, 128, 32 * 32768, false⟩, hkB := ⟨26, 128, 32 * 32770, false⟩ } |>.setHk { wOn.hk with chan := 26 } with clk := { wOn.clk with now := 10 ^ 8 } }).conv.hkA else ⟨({ (((wOn.put THM_EN_EN 0x4000000).put (THM_TXCFG_OFS 2) 250)).setConv { wOn.conv with hkA := ⟨26, 128, 32 * 32768, false⟩, hkB := ⟨26, 128, 32 * 32770, false⟩ } |>.setHk { wOn.hk with chan := 26 } with clk := { wOn.clk with now := 10 ^ 8 } }).hk.chan, 0, 0, false⟩).sum / 32) ((if ({ (((wOn.put THM_EN_EN 0x4000000).put (THM_TXCFG_OFS 2) 250)).setConv { wOn.conv with hkA := ⟨26, 128, 32 * 32768, false⟩, hkB := ⟨26, 128, 32 * 32770, false⟩ } |>.setHk { wOn.hk with chan := 26 } with clk := { wOn.clk with now := 10 ^ 8 } }).conv.hkB.chan = ({ (((wOn.put THM_EN_EN 0x4000000).put (THM_TXCFG_OFS 2) 250)).setConv { wOn.conv with hkA := ⟨26, 128, 32 * 32768, false⟩, hkB := ⟨26, 128, 32 * 32770, false⟩ } |>.setHk { wOn.hk with chan := 26 } with clk := { wOn.clk with now := 10 ^ 8 } }).hk.chan then ({ (((wOn.put THM_EN_EN 0x4000000).put (THM_TXCFG_OFS 2) 250)).setConv { wOn.conv with hkA := ⟨26, 128, 32 * 32768, false⟩, hkB := ⟨26, 128, 32 * 32770, false⟩ } |>.setHk { wOn.hk with chan := 26 } with clk := { wOn.clk with now := 10 ^ 8 } }).conv.hkB else ⟨({ (((wOn.put THM_EN_EN 0x4000000).put (THM_TXCFG_OFS 2) 250)).setConv { wOn.conv with hkA := ⟨26, 128, 32 * 32768, false⟩, hkB := ⟨26, 128, 32 * 32770, false⟩ } |>.setHk { wOn.hk with chan := 26 } with clk := { wOn.clk with now := 10 ^ 8 } }).hk.chan, 0, 0, false⟩).sum / 32) < (({ (((wOn.put THM_EN_EN 0x4000000).put (THM_TXCFG_OFS 2) 250)).setConv { wOn.conv with hkA := ⟨26, 128, 32 * 32768, false⟩, hkB := ⟨26, 128, 32 * 32770, false⟩ } |>.setHk { wOn.hk with chan := 26 } with clk := { wOn.clk with now := 10 ^ 8 } }).tshut : Int) * 10)
    ∧ (-32768 ≤ ({ (((wOn.put THM_EN_EN 0x4000000).put (THM_TXCFG_OFS 2) 250)).setConv { wOn.conv with hkA := ⟨26, 128, 32 * 32768, false⟩, hkB := ⟨26, 128, 32 * 32770, false⟩ } |>.setHk { wOn.hk with chan := 26 } with clk := { wOn.clk with now := 10 ^ 8 } }).temperature (({ (((wOn.put THM_EN_EN 0x4000000).put (THM_TXCFG_OFS 2) 250)).setConv { wOn.conv with hkA := ⟨26, 128, 32 * 32768, false⟩, hkB := ⟨26, 128, 32 * 32770, false⟩ } |>.setHk { wOn.hk with chan := 26 } with clk := { wOn.clk with now := 10 ^ 8 } }).hk.chan % 64) ((if ({ (((wOn.put THM_EN_EN 0x4000000).put (THM_TXCFG_OFS 2) 250)).setConv { wOn.conv with hkA := ⟨26, 128, 32 * 32768, false⟩, hkB := ⟨26, 128, 32 * 32770, false⟩ } |>.setHk { wOn.hk with chan := 26 } with clk := { wOn.clk with now := 10 ^ 8 } }).conv.hkA.chan = ({ (((wOn.put THM_EN_EN 0x4000000).put (THM_TXCFG_OFS 2) 250)).setConv { wOn.conv with hkA := ⟨26, 128, 32 * 32768, false⟩, hkB := ⟨26, 128, 32 * 32770, false⟩ } |>.setHk { wOn.hk with chan := 26 } with clk := { wOn.clk with now := 10 ^ 8 } }).hk.chan then ({ (((wOn.put THM_EN_EN 0x4000000).put (THM_TXCFG_OFS 2) 250)).setConv { wOn.conv with hkA := ⟨26, 128, 32 * 32768, false⟩, hkB := ⟨26, 128, 32 * 32770, false⟩ } |>.setHk { wOn.hk with chan := 26 } with clk := { wOn.clk with now := 10 ^ 8 } }).conv.hkA else ⟨({ (((wOn.put THM_EN_EN 0x4000000).put (THM_TXCFG_OFS 2) 250)).setConv { wOn.conv with hkA := ⟨26, 128, 32 * 32768, false⟩, hkB := ⟨26, 128, 32 * 32770, false⟩ } |>.setHk { wOn.hk with chan := 26 } with clk := { wOn.clk with now := 10 ^ 8 } }).hk.chan, 0, 0, false⟩).sum / 32) ((if ({ (((wOn.put THM_EN_EN 0x4000000).put (THM_TXCFG_OFS 2) 250)).setConv { wOn.conv with hkA := ⟨26, 128, 32 * 32768, false⟩, hkB := ⟨26, 128, 32 * 32770, false⟩ } |>.setHk { wOn.hk with chan := 26 } with clk := { wOn.clk with now := 10 ^ 8 } }).conv.hkB.chan = ({ (((wOn.put THM_EN_EN 0x4000000).put (THM_TXCFG_OFS 2) 250)).setConv { wOn.conv with hkA := ⟨26, 128, 32 * 32768, false⟩, hkB := ⟨26, 128, 32 * 32770, false⟩ } |>.setHk { wOn.hk with chan := 26 } with clk := { wOn.clk with now := 10 ^ 8 } }).hk.chan then ({ (((wOn.put THM_EN_EN 0x4000000).put (THM_TXCFG_OFS 2) 250)).setConv { wOn.conv with hkA := ⟨26, 128, 32 * 32768, false⟩, hkB := ⟨26, 128, 32 * 32770, false⟩ } |>.setHk { wOn.hk with chan := 26 } with clk := { wOn.clk with now := 10 ^ 8 } }).conv.hkB else ⟨({ (((wOn.put THM_EN_EN 0x4000000).put (THM_TXCFG_OFS 2) 250)).setConv { wOn.conv with hkA := ⟨26, 128, 32 * 32768, false⟩, hkB := ⟨26, 128, 32 * 32770, false⟩ } |>.setHk { wOn.hk with chan := 26 } with clk := { wOn.clk with now := 10 ^ 8 } }).hk.chan, 0, 0, false⟩).sum / 32)))
    ∧ ((({ ((((wOn.put THM_EN_EN 0x4000000).put (THM_TXCFG_OFS 2) 1700).put HSM_STATUS_STATE 3)).setConv { wOn.conv with hkA := ⟨26, 128, 32 * 32768, false⟩, hkB := ⟨26, 128, 32 * 32770, false⟩ } |>.setHk { wOn.hk with chan := 26 } with clk := { wOn.clk with now := 10 ^ 8 } }).isOn 7 = true)
    ∧ (({ ((((wOn.put THM_EN_EN 0x4000000).put (THM_TXCFG_OFS 2) 1700).put HSM_STATUS_STATE 3)).setConv { wOn.conv with hkA := ⟨26, 128, 32 * 32768, false⟩, hkB := ⟨26, 128, 32 * 32770, false⟩ } |>.setHk { wOn.hk with chan := 26 } with clk := { wOn.clk with now := 10 ^ 8 } }).ticking = true)
    ∧ (({ ((((wOn.put THM_EN_EN 0x4000000).put (THM_TXCFG_OFS 2) 1700).put HSM_STATUS_STATE 3)).setConv { wOn.conv with hkA := ⟨26, 128, 32 * 32768, false⟩, hkB := ⟨26, 128, 32 * 32770, false⟩ } |>.setHk { wOn.hk with chan := 26 } with clk := { wOn.clk with now := 10 ^ 8 } }).conv.onAt + 6400 * (({ ((((wOn.put THM_EN_EN 0x4000000).put (THM_TXCFG_OFS 2) 1700).put HSM_STATUS_STATE 3)).setConv { wOn.conv with hkA := ⟨26, 128, 32 * 32768, false⟩, hkB := ⟨26, 128, 32 * 32770, false⟩ } |>.setHk { wOn.hk with chan := 26 } with clk := { wOn.clk with now := 10 ^ 8 } }).hk.chan + 1) + 68 ≤ ({ ((((wOn.put THM_EN_EN 0x4000000).put (THM_TXCFG_OFS 2) 1700).put HSM_STATUS_STATE 3)).setConv { wOn.conv with hkA := ⟨26, 128, 32 * 32768, false⟩, hkB := ⟨26, 128, 32 * 32770, false⟩ } |>.setHk { wOn.hk with chan := 26 } with clk := { wOn.clk with now := 10 ^ 8 } }).now)
    ∧ ((({ ((((wOn.put THM_EN_EN 0x4000000).put (THM_TXCFG_OFS 2) 1700).put HSM_STATUS_STATE 3)).setConv { wOn.conv with hkA := ⟨26, 128, 32 * 32768, false⟩, hkB := ⟨26, 128, 32 * 32770, false⟩ } |>.setHk { wOn.hk with chan := 26 } with clk := { wOn.clk with now := 10 ^ 8 } }).hk.chan % 64) < 30)
    ∧ (bitOf (({ ((((wOn.put THM_EN_EN 0x4000000).put (THM_TXCFG_OFS 2) 1700).put HSM_STATUS_STATE 3)).setConv { wOn.conv with hkA := ⟨26, 128, 32 * 32768, false⟩, hkB := ⟨26, 128, 32 * 32770, false⟩ } |>.setHk { wOn.hk with chan := 26 } with clk := { wOn.clk with now := 10 ^ 8 } }).hk.chan % 64) ({ ((((wOn.put THM_EN_EN 0x4000000).put (THM_TXCFG_OFS 2) 1700).put HSM_STATUS_STATE 3)).setConv { wOn.conv with hkA := ⟨26, 128, 32 * 32768, false⟩, hkB := ⟨26, 128, 32 * 32770, false⟩ } |>.setHk { wOn.hk with chan := 26 } with clk := { wOn.clk with now := 10 ^ 8 } }).thmEn = true)
    ∧ (bitOf (({ ((((wOn.put THM_EN_EN 0x4000000).put (THM_TXCFG_OFS 2) 1700).put HSM_STATUS_STATE 3)).setConv { wOn.conv with hkA := ⟨26, 128, 32 * 32768, false⟩, hkB := ⟨26, 128, 32 * 32770, false⟩ } |>.setHk { wOn.hk with chan := 26 } with clk := { wOn.clk with now := 10 ^ 8 } }).hk.chan % 64) ({ ((((wOn.put THM_EN_EN 0x4000000).put (THM_TXCFG_OFS 2) 1700).put HSM_STATUS_STATE 3)).setConv { wOn.conv with hkA := ⟨26, 128, 32 * 32768, false⟩, hkB := ⟨26, 128, 32 * 32770, false⟩ } |>.setHk { wOn.hk with chan := 26 } with clk := { wOn.clk with now := 10 ^ 8 } }).hk.mism = false)
    ∧ (bitOf (({ ((((wOn.put THM_EN_EN 0x4000000).put (THM_TXCFG_OFS 2) 1700).put HSM_STATUS_STATE 3)).setConv { wOn.conv with hkA := ⟨26, 128, 32 * 32768, false⟩, hkB := ⟨26, 128, 32 * 32770, false⟩ } |>.setHk { wOn.hk with chan := 26 } with clk := { wOn.clk with now := 10 ^ 8 } }).hk.chan % 64) ({ ((((wOn.put THM_EN_EN 0x4000000).put (THM_TXCFG_OFS 2) 1700).put HSM_STATUS_STATE 3)).setConv { wOn.conv with hkA := ⟨26, 128, 32 * 32768, false⟩, hkB := ⟨26, 128, 32 * 32770, false⟩ } |>.setHk { wOn.hk with chan := 26 } with clk := { wOn.clk with now := 10 ^ 8 } }).hk.ovr = false)
    ∧ (({ ((((wOn.put THM_EN_EN 0x4000000).put (THM_TXCFG_OFS 2) 1700).put HSM_STATUS_STATE 3)).setConv { wOn.conv with hkA := ⟨26, 128, 32 * 32768, false⟩, hkB := ⟨26, 128, 32 * 32770, false⟩ } |>.setHk { wOn.hk with chan := 26 } with clk := { wOn.clk with now := 10 ^ 8 } }).hk.stopped = false)
    ∧ (({ ((((wOn.put THM_EN_EN 0x4000000).put (THM_TXCFG_OFS 2) 1700).put HSM_STATUS_STATE 3)).setConv { wOn.conv with hkA := ⟨26, 128, 32 * 32768, false⟩, hkB := ⟨26, 128, 32 * 32770, false⟩ } |>.setHk { wOn.hk with chan := 26 } with clk := { wOn.clk with now := 10 ^ 8 } }).hkMismatch (({ ((((wOn.put THM_EN_EN 0x4000000).put (THM_TXCFG_OFS 2) 1700).put HSM_STATUS_STATE 3)).setConv { wOn.conv with hkA := ⟨26, 128, 32 * 32768, false⟩, hkB := ⟨26, 128, 32 * 32770, false⟩ } |>.setHk { wOn.hk with chan := 26 } with clk := { wOn.clk with now := 10 ^ 8 } }).hk.chan % 64) ((if ({ ((((wOn.put THM_EN_EN 0x4000000).put (THM_TXCFG_OFS 2) 1700).put HSM_STATUS_STATE 3)).setConv { wOn.conv with hkA := ⟨26, 128, 32 * 32768, false⟩, hkB := ⟨26, 128, 32 * 32770, false⟩ } |>.setHk { wOn.hk with chan := 26 } with clk := { wOn.clk with now := 10 ^ 8 } }).conv.hkA.chan = ({ ((((wOn.put THM_EN_EN 0x4000000).put (THM_TXCFG_OFS 2) 1700).put HSM_STATUS_STATE 3)).setConv { wOn.conv with hkA := ⟨26, 128, 32 * 32768, false⟩, hkB := ⟨26, 128, 32 * 32770, false⟩ } |>.setHk { wOn.hk with chan := 26 } with clk := { wOn.clk with now := 10 ^ 8 } }).hk.chan then ({ ((((wOn.put THM_EN_EN 0x4000000).put (THM_TXCFG_OFS 2) 1700).put HSM_STATUS_STATE 3)).setConv { wOn.conv with hkA := ⟨26, 128, 32 * 32768, false⟩, hkB := ⟨26, 128, 32 * 32770, false⟩ } |>.setHk { wOn.hk with chan := 26 } with clk := { wOn.clk with now := 10 ^ 8 } }).conv.hkA else ⟨({ ((((wOn.put THM_EN_EN 0x4000000).put (THM_TXCFG_OFS 2) 1700).put HSM_STATUS_STATE 3)).setConv { wOn.conv with hkA := ⟨26, 128, 32 * 32768, false⟩, hkB := ⟨26, 128, 32 * 32770, false⟩ } |>.setHk { wOn.hk with chan := 26 } with clk := { wOn.clk with now := 10 ^ 8 } }).hk.chan, 0, 0, false⟩).sum / 32) ((if ({ ((((wOn.put THM_EN_EN 0x4000000).put (THM_TXCFG_OFS 2) 1700).put HSM_STATUS_STATE 3)).setConv { wOn.conv with hkA := ⟨26, 128, 32 * 32768, false⟩, hkB := ⟨26, 128, 32 * 32770, false⟩ } |>.setHk { wOn.hk with chan := 26 } with clk := { wOn.clk with now := 10 ^ 8 } }).conv.hkB.chan = ({ ((((wOn.put THM_EN_EN 0x4000000).put (THM_TXCFG_OFS 2) 1700).put HSM_STATUS_STATE 3)).setConv { wOn.conv with hkA := ⟨26, 128, 32 * 32768, false⟩, hkB := ⟨26, 128, 32 * 32770, false⟩ } |>.setHk { wOn.hk with chan := 26 } with clk := { wOn.clk with now := 10 ^ 8 } }).hk.chan then ({ ((((wOn.put THM_EN_EN 0x4000000).put (THM_TXCFG_OFS 2) 1700).put HSM_STATUS_STATE 3)).setConv { wOn.conv with hkA := ⟨26, 128, 32 * 32768, false⟩, hkB := ⟨26, 128, 32 * 32770, false⟩ } |>.setHk { wOn.hk with chan := 26 } with clk := { wOn.clk with now := 10 ^ 8 } }).conv.hkB else ⟨({ ((((wOn.put THM_EN_EN 0x4000000).put (THM_TXCFG_OFS 2) 1700).put HSM_STATUS_STATE 3)).setConv { wOn.conv with hkA := ⟨26, 128, 32 * 32768, false⟩, hkB := ⟨26, 128, 32 * 32770, false⟩ } |>.setHk { wOn.hk with chan := 26 } with clk := { wOn.clk with now := 10 ^ 8 } }).hk.chan, 0, 0, false⟩).sum / 32) = false)
    ∧ (((if ({ ((((wOn.put THM_EN_EN 0x4000000).put (THM_TXCFG_OFS 2) 1700).put HSM_STATUS_STATE 3)).setConv { wOn.conv with hkA := ⟨26, 128, 32 * 32768, false⟩, hkB := ⟨26, 128, 32 * 32770, false⟩ } |>.setHk { wOn.hk with chan := 26 } with clk := { wOn.clk with now := 10 ^ 8 } }).conv.hkA.chan = ({ ((((wOn.put THM_EN_EN 0x4000000).put (THM_TXCFG_OFS 2) 1700).put HSM_STATUS_STATE 3)).setConv { wOn.conv with hkA := ⟨26, 128, 32 * 32768, false⟩, hkB := ⟨26, 128, 32 * 32770, false⟩ } |>.setHk { wOn.hk with chan := 26 } with clk := { wOn.clk with now := 10 ^ 8 } }).hk.chan then ({ ((((wOn.put THM_EN_EN 0x4000000).put (THM_TXCFG_OFS 2) 1700).put HSM_STATUS_STATE 3)).setConv { wOn.conv with hkA := ⟨26, 128, 32 * 32768, false⟩, hkB := ⟨26, 128, 32 * 32770, false⟩ } |>.setHk { wOn.hk with chan := 26 } with clk := { wOn.clk with now := 10 ^ 8 } }).conv.hkA else ⟨({ ((((wOn.put THM_EN_EN 0x4000000).put (THM_TXCFG_OFS 2) 1700).put HSM_STATUS_STATE 3)).setConv { wOn.conv with hkA := ⟨26, 128, 32 * 32768, false⟩, hkB := ⟨26, 128, 32 * 32770, false⟩ } |>.setHk { wOn.hk with chan := 26 } with clk := { wOn.clk with now := 10 ^ 8 } }).hk.chan, 0, 0, false⟩).ovr || (if ({ ((((wOn.put THM_EN_EN 0x4000000).put (THM_TXCFG_OFS 2) 1700).put HSM_STATUS_STATE 3)).setConv { wOn.conv with hkA := ⟨26, 128, 32 * 32768, false⟩, hkB := ⟨26, 128, 32 * 32770, false⟩ } |>.setHk { wOn.hk with chan := 26 } with clk := { wOn.clk with now := 10 ^ 8 } }).conv.hkB.chan = ({ ((((wOn.put THM_EN_EN 0x4000000).put (THM_TXCFG_OFS 2) 1700).put HSM_STATUS_STATE 3)).setConv { wOn.conv with hkA := ⟨26, 128, 32 * 32768, false⟩, hkB := ⟨26, 128, 32 * 32770, false⟩ } |>.setHk { wOn.hk with chan := 26 } with clk := { wOn.clk with now := 10 ^ 8 } }).hk.chan then ({ ((((wOn.put THM_EN_EN 0x4000000).put (THM_TXCFG_OFS 2) 1700).put HSM_STATUS_STATE 3)).setConv { wOn.conv with hkA := ⟨26, 128, 32 * 32768, false⟩, hkB := ⟨26, 128, 32 * 32770, false⟩ } |>.setHk { wOn.hk with chan := 26 } with clk := { wOn.clk with now := 10 ^ 8 } }).conv.hkB else ⟨({ ((((wOn.put THM_EN_EN 0x4000000).put (THM_TXCFG_OFS 2) 1700).put HSM_STATUS_STATE 3)).setConv { wOn.conv with hkA := ⟨26, 128, 32 * 32768, false⟩, hkB := ⟨26, 128, 32 * 32770, false⟩ } |>.setHk { wOn.hk with chan := 26 } with clk := { wOn.clk with now := 10 ^ 8 } }).hk.chan, 0, 0, false⟩).ovr) = false)
    ∧ ((({ ((((wOn.put THM_EN_EN 0x4000000).put (THM_TXCFG_OFS 2) 1700).put HSM_STATUS_STATE 3)).setConv { wOn.conv with hkA := ⟨26, 128, 32 * 32768, false⟩, hkB := ⟨26, 128, 32 * 32770, false⟩ } |>.setHk { wOn.hk with chan := 26 } with clk := { wOn.clk with now := 10 ^ 8 } }).tshut : Int) * 10 ≤ ({ ((((wOn.put THM_EN_EN 0x4000000).put (THM_TXCFG_OFS 2) 1700).put HSM_STATUS_STATE 3)).setConv { wOn.conv with hkA := ⟨26, 128, 32 * 32768, false⟩, hkB := ⟨26, 128, 32 * 32770, false⟩ } |>.setHk { wOn.hk with chan := 26 } with clk := { wOn.clk with now := 10 ^ 8 } }).temperature (({ ((((wOn.put THM_EN_EN 0x4000000).put (THM_TXCFG_OFS 2) 1700).put HSM_STATUS_STATE 3)).setConv { wOn.conv with hkA := ⟨26, 128, 32 * 32768, false⟩, hkB := ⟨26, 128, 32 * 32770, false⟩ } |>.setHk { wOn.hk with chan := 26 } with clk := { wOn.clk with now := 10 ^ 8 } }).hk.chan % 64) ((if ({ ((((wOn.put THM_EN_EN 0x4000000).put (THM_TXCFG_OFS 2) 1700).put HSM_STATUS_STATE 3)).setConv { wOn.conv with hkA := ⟨26, 128, 32 * 32768, false⟩, hkB := ⟨26, 128, 32 * 32770, false⟩ } |>.setHk { wOn.hk with chan := 26 } with clk := { wOn.clk with now := 10 ^ 8 } }).conv.hkA.chan = ({ ((((wOn.put THM_EN_EN 0x4000000).put (THM_TXCFG_OFS 2) 1700).put HSM_STATUS_STATE 3)).setConv { wOn.conv with hkA := ⟨26, 128, 32 * 32768, false⟩, hkB := ⟨26, 128, 32 * 32770, false⟩ } |>.setHk { wOn.hk with chan := 26 } with clk := { wOn.clk with now := 10 ^ 8 } }).hk.chan then ({ ((((wOn.put THM_EN_EN 0x4000000).put (THM_TXCFG_OFS 2) 1700).put HSM_STATUS_STATE 3)).setConv { wOn.conv with hkA := ⟨26, 128, 32 * 32768, false⟩, hkB := ⟨26, 128, 32 * 32770, false⟩ } |>.setHk { wOn.hk with chan := 26 } with clk := { wOn.clk with now := 10 ^ 8 } }).conv.hkA else ⟨({ ((((wOn.put THM_EN_EN 0x4000000).put (THM_TXCFG_OFS 2) 1700).put HSM_STATUS_STATE 3)).setConv { wOn.conv with hkA := ⟨26, 128, 32 * 32768, false⟩, hkB := ⟨26, 128, 32 * 32770, false⟩ } |>.setHk { wOn.hk with chan := 26 } with clk := { wOn.clk with now := 10 ^ 8 } }).hk.chan, 0, 0, false⟩).sum / 32) ((if ({ ((((wOn.put THM_EN_EN 0x4000000).put (THM_TXCFG_OFS 2) 1700).put HSM_STATUS_STATE 3)).setConv { wOn.conv with hkA := ⟨26, 128, 32 * 32768, false⟩, hkB := ⟨26, 128, 32 * 32770, false⟩ } |>.setHk { wOn.hk with chan := 26 } with clk := { wOn.clk with now := 10 ^ 8 } }).conv.hkB.chan = ({ ((((wOn.put THM_EN_EN 0x4000000).put (THM_TXCFG_OFS 2) 1700).put HSM_STATUS_STATE 3)).setConv { wOn.conv with hkA := ⟨26, 128, 32 * 32768, false⟩, hkB := ⟨26, 128, 32 * 32770, false⟩ } |>.setHk { wOn.hk with chan := 26 } with clk := { wOn.clk with now := 10 ^ 8 } }).hk.chan then ({ ((((wOn.put THM_EN_EN 0x4000000).put (THM_TXCFG_OFS 2) 1700).put HSM_STATUS_STATE 3)).setConv { wOn.conv with hkA := ⟨26, 128, 32 * 32768, false⟩, hkB := ⟨26, 128, 32 * 32770, false⟩ } |>.setHk { wOn.hk with chan := 26 } with clk := { wOn.clk with now := 10 ^ 8 } }).conv.hkB else ⟨({ ((((wOn.put THM_EN_EN 0x4000000).put (THM_TXCFG_OFS 2) 1700).put HSM_STATUS_STATE 3)).setConv { wOn.conv with hkA := ⟨26, 128, 32 * 32768, false⟩, hkB := ⟨26, 128, 32 * 32770, false⟩ } |>.setHk { wOn.hk with chan := 26 } with clk := { wOn.clk with now := 10 ^ 8 } }).hk.chan, 0, 0, false⟩).sum / 32))
    ∧ (({ ((((wOn.put THM_EN_EN 0x4000000).put (THM_TXCFG_OFS 2) 1700).put HSM_STATUS_STATE 3)).setConv { wOn.conv with hkA := ⟨26, 128, 32 * 32768, false⟩, hkB := ⟨26, 128, 32 * 32770, false⟩ } |>.setHk { wOn.hk with chan := 26 } with clk := { wOn.clk with now := 10 ^ 8 } }).temperature (({ ((((wOn.put THM_EN_EN 0x4000000).put (THM_TXCFG_OFS 2) 1700).put HSM_STATUS_STATE 3)).setConv { wOn.conv with hkA := ⟨26, 128, 32 * 32768, false⟩, hkB := ⟨26, 128, 32 * 32770, false⟩ } |>.setHk { wOn.hk with chan := 26 } with clk := { wOn.clk with now := 10 ^ 8 } }).hk.chan % 64) ((if ({ ((((wOn.put THM_EN_EN 0x4000000).put (THM_TXCFG_OFS 2) 1700).put HSM_STATUS_STATE 3)).setConv { wOn.conv with hkA := ⟨26, 128, 32 * 32768, false⟩, hkB := ⟨26, 128, 32 * 32770, false⟩ } |>.setHk { wOn.hk with chan := 26 } with clk := { wOn.clk with now := 10 ^ 8 } }).conv.hkA.chan = ({ ((((wOn.put THM_EN_EN 0x4000000).put (THM_TXCFG_OFS 2) 1700).put HSM_STATUS_STATE 3)).setConv { wOn.conv with hkA := ⟨26, 128, 32 * 32768, false⟩, hkB := ⟨26, 128, 32 * 32770, false⟩ } |>.setHk { wOn.hk with chan := 26 } with clk := { wOn.clk with now := 10 ^ 8 } }).hk.chan then ({ ((((wOn.put THM_EN_EN 0x4000000).put (THM_TXCFG_OFS 2) 1700).put HSM_STATUS_STATE 3)).setConv { wOn.conv with hkA := ⟨26, 128, 32 * 32768, false⟩, hkB := ⟨26, 128, 32 * 32770, false⟩ } |>.setHk { wOn.hk with chan := 26 } with clk := { wOn.clk with now := 10 ^ 8 } }).conv.hkA else ⟨({ ((((wOn.put THM_EN_EN 0x4000000).put (THM_TXCFG_OFS 2) 1700).put HSM_STATUS_STATE 3)).setConv { wOn.conv with hkA := ⟨26, 128, 32 * 32768, false⟩, hkB := ⟨26, 128, 32 * 32770, false⟩ } |>.setHk { wOn.hk with chan := 26 } with clk := { wOn.clk with now := 10 ^ 8 } }).hk.chan, 0, 0, false⟩).sum / 32) ((if ({ ((((wOn.put THM_EN_EN 0x4000000).put (THM_TXCFG_OFS 2) 1700).put HSM_STATUS_STATE 3)).setConv { wOn.conv with hkA := ⟨26, 128, 32 * 32768, false⟩, hkB := ⟨26, 128, 32 * 32770, false⟩ } |>.setHk { wOn.hk with chan := 26 } with clk := { wOn.clk with now := 10 ^ 8 } }).conv.hkB.chan = ({ ((((wOn.put THM_EN_EN 0x4000000).put (THM_TXCFG_OFS 2) 1700).put HSM_STATUS_STATE 3)).setConv { wOn.conv with hkA := ⟨26, 128, 32 * 32768, false⟩, hkB := ⟨26, 128, 32 * 32770, false⟩ } |>.setHk { wOn.hk with chan := 26 } with clk := { wOn.clk with now := 10 ^ 8 } }).hk.chan then ({ ((((wOn.put THM_EN_EN 0x4000000).put (THM_TXCFG_OFS 2) 1700).put HSM_STATUS_STATE 3)).setConv { wOn.conv with hkA := ⟨26, 128, 32 * 32768, false⟩, hkB := ⟨26, 128, 32 * 32770, false⟩ } |>.setHk { wOn.hk with chan := 26 } with clk := { wOn.clk with now := 10 ^ 8 } }).conv.hkB else ⟨({ ((((wOn.put THM_EN_EN 0x4000000).put (THM_TXCFG_OFS 2) 1700).put HSM_STATUS_STATE 3)).setConv { wOn.conv with hkA := ⟨26, 128, 32 * 32768, false⟩, hkB := ⟨26, 128, 32 * 32770, false⟩ } |>.setHk { wOn.hk with chan := 26 } with clk := { wOn.clk with now := 10 ^ 8 } }).hk.chan, 0, 0, false⟩).sum / 32) ≤ 32767)
    ∧ (({ ((((wOn.put THM_EN_EN 0x4000000).put (THM_TXCFG_OFS 2) 1700).put HSM_STATUS_STATE 3)).setConv { wOn.conv with hkA := ⟨26, 128, 32 * 32768, false⟩, hkB := ⟨26, 128, 32 * 32770, false⟩ } |>.setHk { wOn.hk with chan := 26 } with clk := { wOn.clk with now := 10 ^ 8 } }).sup.latch = false))
    ∧ ((({ (wOn.put THM_EN_EN 0).setConv { wOn.conv with hkA := ⟨26, 128, 32 * 32768, false⟩, hkB := ⟨26, 128, 32 * 32770, false⟩ } |>.setHk { wOn.hk with chan := 26 } with clk := { wOn.clk with now := 10 ^ 8 } }).isOn 7 = true)
    ∧ (({ (wOn.put THM_EN_EN 0).setConv { wOn.conv with hkA := ⟨26, 128, 32 * 32768, false⟩, hkB := ⟨26, 128, 32 * 32770, false⟩ } |>.setHk { wOn.hk with chan := 26 } with clk := { wOn.clk with now := 10 ^ 8 } }).ticking = true)
    ∧ (({ (wOn.put THM_EN_EN 0).setConv { wOn.conv with hkA := ⟨26, 128, 32 * 32768, false⟩, hkB := ⟨26, 128, 32 * 32770, false⟩ } |>.setHk { wOn.hk with chan := 26 } with clk := { wOn.clk with now := 10 ^ 8 } }).conv.onAt + 6400 * (({ (wOn.put THM_EN_EN 0).setConv { wOn.conv with hkA := ⟨26, 128, 32 * 32768, false⟩, hkB := ⟨26, 128, 32 * 32770, false⟩ } |>.setHk { wOn.hk with chan := 26 } with clk := { wOn.clk with now := 10 ^ 8 } }).hk.chan + 1) + 68 ≤ ({ (wOn.put THM_EN_EN 0).setConv { wOn.conv with hkA := ⟨26, 128, 32 * 32768, false⟩, hkB := ⟨26, 128, 32 * 32770, false⟩ } |>.setHk { wOn.hk with chan := 26 } with clk := { wOn.clk with now := 10 ^ 8 } }).now)
    ∧ ((({ (wOn.put THM_EN_EN 0).setConv { wOn.conv with hkA := ⟨26, 128, 32 * 32768, false⟩, hkB := ⟨26, 128, 32 * 32770, false⟩ } |>.setHk { wOn.hk with chan := 26 } with clk := { wOn.clk with now := 10 ^ 8 } }).hk.chan % 64) < 30)
    ∧ (bitOf (({ (wOn.put THM_EN_EN 0).setConv { wOn.conv with hkA := ⟨26, 128, 32 * 32768, false⟩, hkB := ⟨26, 128, 32 * 32770, false⟩ } |>.setHk { wOn.hk with chan := 26 } with clk := { wOn.clk with now := 10 ^ 8 } }).hk.chan % 64) ({ (wOn.put THM_EN_EN 0).setConv { wOn.conv with hkA := ⟨26, 128, 32 * 32768, false⟩, hkB := ⟨26, 128, 32 * 32770, false⟩ } |>.setHk { wOn.hk with chan := 26 } with clk := { wOn.clk with now := 10 ^ 8 } }).thmEn = false)) := by
  and_intros <;> decide +kernel

theorem witness_housekeeping_rounds_and_shutdown_part2 :
    ((({ (wOn.put (WM_CFG_DACFT 12) 1).setConv { wOn.conv with hkA := ⟨45, 128, 32 * 100, false⟩, hkB := ⟨45, 128, 32 * 102, false⟩ } |>.setHk { wOn.hk with chan := 45 } with clk := { wOn.clk with now := 10 ^ 8 } }).isOn 7 = true)
    ∧ (({ (wOn.put (WM_CFG_DACFT 12) 1).setConv { wOn.conv with hkA := ⟨45, 128, 32 * 100, false⟩, hkB := ⟨45, 128, 32 * 102, false⟩ } |>.setHk { wOn.hk with chan := 45 } with clk := { wOn.clk with now := 10 ^ 8 } }).ticking = true)
    ∧ (({ (wOn.put (WM_CFG_DACFT 12) 1).setConv { wOn.conv with hkA := ⟨45, 128, 32 * 100, false⟩, hkB := ⟨45, 128, 32 * 102, false⟩ } |>.setHk { wOn.hk with chan := 45 } with clk := { wOn.clk with now := 10 ^ 8 } }).conv.onAt + 6400 * (({ (wOn.put (WM_CFG_DACFT 12) 1).setConv { wOn.conv with hkA := ⟨45, 128, 32 * 100, false⟩, hkB := ⟨45, 128, 32 * 102, false⟩ } |>.setHk { wOn.hk with chan := 45 } with clk := { wOn.clk with now := 10 ^ 8 } }).hk.chan + 1) + 68 ≤ ({ (wOn.put (WM_CFG_DACFT 12) 1).setConv { wOn.conv with hkA := ⟨45, 128, 32 * 100, false⟩, hkB := ⟨45, 128, 32 * 102, false⟩ } |>.setHk { wOn.hk with chan := 45 } with clk := { wOn.clk with now := 10 ^ 8 } }).now)
    ∧ (44 ≤ (({ (wOn.put (WM_CFG_DACFT 12) 1).setConv { wOn.conv with hkA := ⟨45, 128, 32 * 100, false⟩, hkB := ⟨45, 128, 32 * 102, false⟩ } |>.setHk { wOn.hk with chan := 45 } with clk := { wOn.clk with now := 10 ^ 8 } }).hk.chan % 64))
    ∧ ((({ (wOn.put (WM_CFG_DACFT 12) 1).setConv { wOn.conv with hkA := ⟨45, 128, 32 * 100, false⟩, hkB := ⟨45, 128, 32 * 102, false⟩ } |>.setHk { wOn.hk with chan := 45 } with clk := { wOn.clk with now := 10 ^ 8 } }).hk.chan % 64) < 48)
    ∧ (bitOf (24 * ((({ (wOn.put (WM_CFG_DACFT 12) 1).setConv { wOn.conv with hkA := ⟨45, 128, 32 * 100, false⟩, hkB := ⟨45, 128, 32 * 102, false⟩ } |>.setHk { wOn.hk with chan := 45 } with clk := { wOn.clk with now := 10 ^ 8 } }).hk.chan % 64) - 44) + ({ (wOn.put (WM_CFG_DACFT 12) 1).setConv { wOn.conv with hkA := ⟨45, 128, 32 * 100, false⟩, hkB := ⟨45, 128, 32 * 102, false⟩ } |>.setHk { wOn.hk with chan := 45 } with clk := { wOn.clk with now := 10 ^ 8 } }).hk.chan / 64 % 24) ({ (wOn.put (WM_CFG_DACFT 12) 1).setConv { wOn.conv with hkA := ⟨45, 128, 32 * 100, false⟩, hkB := ⟨45, 128, 32 * 102, false⟩ } |>.setHk { wOn.hk with chan := 45 } with clk := { wOn.clk with now := 10 ^ 8 } }).hk.thw = false)
    ∧ (({ (wOn.put (WM_CFG_DACFT 12) 1).setConv { wOn.conv with hkA := ⟨45, 128, 32 * 100, false⟩, hkB := ⟨45, 128, 32 * 102, false⟩ } |>.setHk { wOn.hk with chan := 45 } with clk := { wOn.clk with now := 10 ^ 8 } }).isOn 8 = true)
    ∧ (128 * ({ (wOn.put (WM_CFG_DACFT 12) 1).setConv { wOn.conv with hkA := ⟨45, 128, 32 * 100, false⟩, hkB := ⟨45, 128, 32 * 102, false⟩ } |>.setHk { wOn.hk with chan := 45 } with clk := { wOn.clk with now := 10 ^ 8 } }).get WMG_RBTOL_RBTOL < distance (((if ({ (wOn.put (WM_CFG_DACFT 12) 1).setConv { wOn.conv with hkA := ⟨45, 128, 32 * 100, false⟩, hkB := ⟨45, 128, 32 * 102, false⟩ } |>.setHk { wOn.hk with chan := 45 } with clk := { wOn.clk with now := 10 ^ 8 } }).conv.hkA.chan = ({ (wOn.put (WM_CFG_DACFT 12) 1).setConv { wOn.conv with hkA := ⟨45, 128, 32 * 100, false⟩, hkB := ⟨45, 128, 32 * 102, false⟩ } |>.setHk { wOn.hk with chan := 45 } with clk := { wOn.clk with now := 10 ^ 8 } }).hk.chan then ({ (wOn.put (WM_CFG_DACFT 12) 1).setConv { wOn.conv with hkA := ⟨45, 128, 32 * 100, false⟩, hkB := ⟨45, 128, 32 * 102, false⟩ } |>.setHk { wOn.hk with chan := 45 } with clk := { wOn.clk with now := 10 ^ 8 } }).conv.hkA else ⟨({ (wOn.put (WM_CFG_DACFT 12) 1).setConv { wOn.conv with hkA := ⟨45, 128, 32 * 100, false⟩, hkB := ⟨45, 128, 32 * 102, false⟩ } |>.setHk { wOn.hk with chan := 45 } with clk := { wOn.clk with now := 10 ^ 8 } }).hk.chan, 0, 0, false⟩).sum / 32) + ((if ({ (wOn.put (WM_CFG_DACFT 12) 1).setConv { wOn.conv with hkA := ⟨45, 128, 32 * 100, false⟩, hkB := ⟨45, 128, 32 * 102, false⟩ } |>.setHk { wOn.hk with chan := 45 } with clk := { wOn.clk with now := 10 ^ 8 } }).conv.hkB.chan = ({ (wOn.put (WM_CFG_DACFT 12) 1).setConv { wOn.conv with hkA := ⟨45, 128, 32 * 100, false⟩, hkB := ⟨45, 128, 32 * 102, false⟩ } |>.setHk { wOn.hk with chan := 45 } with clk := { wOn.clk with now := 10 ^ 8 } }).hk.chan then ({ (wOn.put (WM_CFG_DACFT 12) 1).setConv { wOn.conv with hkA := ⟨45, 128, 32 * 100, false⟩, hkB := ⟨45, 128, 32 * 102, false⟩ } |>.setHk { wOn.hk with chan := 45 } with clk := { wOn.clk with now := 10 ^ 8 } }).conv.hkB else ⟨({ (wOn.put (WM_CFG_DACFT 12) 1).setConv { wOn.conv with hkA := ⟨45, 128, 32 * 100, false⟩, hkB := ⟨45, 128, 32 * 102, false⟩ } |>.setHk { wOn.hk with chan := 45 } with clk := { wOn.clk with now := 10 ^ 8 } }).hk.chan, 0, 0, false⟩).sum / 32)) (128 * ({ (wOn.put (WM_CFG_DACFT 12) 1).setConv { wOn.conv with hkA := ⟨45, 128, 32 * 100, false⟩, hkB := ⟨45, 128, 32 * 102, false⟩ } |>.setHk { wOn.hk with chan := 45 } with clk := { wOn.clk with now := 10 ^ 8 } }).get (wmTh ((24 * ((({ (wOn.put (WM_CFG_DACFT 12) 1).setConv { wOn.conv with hkA := ⟨45, 128, 32 * 100, false⟩, hkB := ⟨45, 128, 32 * 102, false⟩ } |>.setHk { wOn.hk with chan := 45 } with clk := { wOn.clk with now := 10 ^ 8 } }).hk.chan % 64) - 44) + ({ (wOn.put (WM_CFG_DACFT 12) 1).setConv { wOn.conv with hkA := ⟨45, 128, 32 * 100, false⟩, hkB := ⟨45, 128, 32 * 102, false⟩ } |>.setHk { wOn.hk with chan := 45 } with clk := { wOn.clk with now := 10 ^ 8 } }).hk.chan / 64 % 24) / 2) ((24 * ((({ (wOn.put (WM_CFG_DACFT 12) 1).setConv { wOn.conv with hkA := ⟨45, 128, 32 * 100, false⟩, hkB := ⟨45, 128, 32 * 102, false⟩ } |>.setHk { wOn.hk with chan := 45 } with clk := { wOn.clk with now := 10 ^ 8 } }).hk.chan % 64) - 44) + ({ (wOn.put (WM_CFG_DACFT 12) 1).setConv { wOn.conv with hkA := ⟨45, 128, 32 * 100, false⟩, hkB := ⟨45, 128, 32 * 102, false⟩ } |>.setHk { wOn.hk with chan := 45 } with clk := { wOn.clk with now := 10 ^ 8 } }).hk.chan / 64 % 24) % 2 == 1)))))
    ∧ ((({ (wOn).setConv { wOn.conv with hkA := ⟨44, 128, 32 * (64 * wOn.get (wmTh 0 false)), false⟩, hkB := ⟨44, 128, 32 * (64 * wOn.get (wmTh 0 false) + 2), false⟩ } |>.setHk { wOn.hk with chan := 44 } with clk := { wOn.clk with now := 10 ^ 8 } }).isOn 7 = true)
    ∧ (({ (wOn).setConv { wOn.conv with hkA := ⟨44, 128, 32 * (64 * wOn.get (wmTh 0 false)), false⟩, hkB := ⟨44, 128, 32 * (64 * wOn.get (wmTh 0 false) + 2), false⟩ } |>.setHk { wOn.hk with chan := 44 } with clk := { wOn.clk with now := 10 ^ 8 } }).ticking = true)
    ∧ (({ (wOn).setConv { wOn.conv with hkA := ⟨44, 128, 32 * (64 * wOn.get (wmTh 0 false)), false⟩, hkB := ⟨44, 128, 32 * (64 * wOn.get (wmTh 0 false) + 2), false⟩ } |>.setHk { wOn.hk with chan := 44 } with clk := { wOn.clk with now := 10 ^ 8 } }).conv.onAt + 6400 * (({ (wOn).setConv { wOn.conv with hkA := ⟨44, 128, 32 * (64 * wOn.get (wmTh 0 false)), false⟩, hkB := ⟨44, 128, 32 * (64 * wOn.get (wmTh 0 false) + 2), false⟩ } |>.setHk { wOn.hk with chan := 44 } with clk := { wOn.clk with now := 10 ^ 8 } }).hk.chan + 1) + 68 ≤ ({ (wOn).setConv { wOn.conv with hkA := ⟨44, 128, 32 * (64 * wOn.get (wmTh 0 false)), false⟩, hkB := ⟨44, 128, 32 * (64 * wOn.get (wmTh 0 false) + 2), false⟩ } |>.setHk { wOn.hk with chan := 44 } with clk := { wOn.clk with now := 10 ^ 8 } }).now)
    ∧ (44 ≤ (({ (wOn).setConv { wOn.conv with hkA := ⟨44, 128, 32 * (64 * wOn.get (wmTh 0 false)), false⟩, hkB := ⟨44, 128, 32 * (64 * wOn.get (wmTh 0 false) + 2), false⟩ } |>.setHk { wOn.hk with chan := 44 } with clk := { wOn.clk with now := 10 ^ 8 } }).hk.chan % 64))
    ∧ ((({ (wOn).setConv { wOn.conv with hkA := ⟨44, 128, 32 * (64 * wOn.get (wmTh 0 false)), false⟩, hkB := ⟨44, 128, 32 * (64 * wOn.get (wmTh 0 false) + 2), false⟩ } |>.setHk { wOn.hk with chan := 44 } with clk := { wOn.clk with now := 10 ^ 8 } }).hk.chan % 64) < 48)
    ∧ (bitOf (24 * ((({ (wOn).setConv { wOn.conv with hkA := ⟨44, 128, 32 * (64 * wOn.get (wmTh 0 false)), false⟩, hkB := ⟨44, 128, 32 * (64 * wOn.get (wmTh 0 false) + 2), false⟩ } |>.setHk { wOn.hk with chan := 44 } with clk := { wOn.clk with now := 10 ^ 8 } }).hk.chan % 64) - 44) + ({ (wOn).setConv { wOn.conv with hkA := ⟨44, 128, 32 * (64 * wOn.get (wmTh 0 false)), false⟩, hkB := ⟨44, 128, 32 * (64 * wOn.get (wmTh 0 false) + 2), false⟩ } |>.setHk { wOn.hk with chan := 44 } with clk := { wOn.clk with now := 10 ^ 8 } }).hk.chan / 64 % 24) ({ (wOn).setConv { wOn.conv with hkA := ⟨44, 128, 32 * (64 * wOn.get (wmTh 0 false)), false⟩, hkB := ⟨44, 128, 32 * (64 * wOn.get (wmTh 0 false) + 2), false⟩ } |>.setHk { wOn.hk with chan := 44 } with clk := { wOn.clk with now := 10 ^ 8 } }).hk.thw = false)
    ∧ (({ (wOn).setConv { wOn.conv with hkA := ⟨44, 128, 32 * (64 * wOn.get (wmTh 0 false)), false⟩, hkB := ⟨44, 128, 32 * (64 * wOn.get (wmTh 0 false) + 2), false⟩ } |>.setHk { wOn.hk with chan := 44 } with clk := { wOn.clk with now := 10 ^ 8 } }).isOn 8 = true)
    ∧ (¬ 128 * ({ (wOn).setConv { wOn.conv with hkA := ⟨44, 128, 32 * (64 * wOn.get (wmTh 0 false)), false⟩, hkB := ⟨44, 128, 32 * (64 * wOn.get (wmTh 0 false) + 2), false⟩ } |>.setHk { wOn.hk with chan := 44 } with clk := { wOn.clk with now := 10 ^ 8 } }).get WMG_RBTOL_RBTOL < distance (((if ({ (wOn).setConv { wOn.conv with hkA := ⟨44, 128, 32 * (64 * wOn.get (wmTh 0 false)), false⟩, hkB := ⟨44, 128, 32 * (64 * wOn.get (wmTh 0 false) + 2), false⟩ } |>.setHk { wOn.hk with chan := 44 } with clk := { wOn.clk with now := 10 ^ 8 } }).conv.hkA.chan = ({ (wOn).setConv { wOn.conv with hkA := ⟨44, 128, 32 * (64 * wOn.get (wmTh 0 false)), false⟩, hkB := ⟨44, 128, 32 * (64 * wOn.get (wmTh 0 false) + 2), false⟩ } |>.setHk { wOn.hk with chan := 44 } with clk := { wOn.clk with now := 10 ^ 8 } }).hk.chan then ({ (wOn).setConv { wOn.conv with hkA := ⟨44, 128, 32 * (64 * wOn.get (wmTh 0 false)), false⟩, hkB := ⟨44, 128, 32 * (64 * wOn.get (wmTh 0 false) + 2), false⟩ } |>.setHk { wOn.hk with chan := 44 } with clk := { wOn.clk with now := 10 ^ 8 } }).conv.hkA else ⟨({ (wOn).setConv { wOn.conv with hkA := ⟨44, 128, 32 * (64 * wOn.get (wmTh 0 false)), false⟩, hkB := ⟨44, 128, 32 * (64 * wOn.get (wmTh 0 false) + 2), false⟩ } |>.setHk { wOn.hk with chan := 44 } with clk := { wOn.clk with now := 10 ^ 8 } }).hk.chan, 0, 0, false⟩).sum / 32) + ((if ({ (wOn).setConv { wOn.conv with hkA := ⟨44, 128, 32 * (64 * wOn.get (wmTh 0 false)), false⟩, hkB := ⟨44, 128, 32 * (64 * wOn.get (wmTh 0 false) + 2), false⟩ } |>.setHk { wOn.hk with chan := 44 } with clk := { wOn.clk with now := 10 ^ 8 } }).conv.hkB.chan = ({ (wOn).setConv { wOn.conv with hkA := ⟨44, 128, 32 * (64 * wOn.get (wmTh 0 false)), false⟩, hkB := ⟨44, 128, 32 * (64 * wOn.get (wmTh 0 false) + 2), false⟩ } |>.setHk { wOn.hk with chan := 44 } with clk := { wOn.clk with now := 10 ^ 8 } }).hk.chan then ({ (wOn).setConv { wOn.conv with hkA := ⟨44, 128, 32 * (64 * wOn.get (wmTh 0 false)), false⟩, hkB := ⟨44, 128, 32 * (64 * wOn.get (wmTh 0 false) + 2), false⟩ } |>.setHk { wOn.hk with chan := 44 } with clk := { wOn.clk with now := 10 ^ 8 } }).conv.hkB else ⟨({ (wOn).setConv { wOn.conv with hkA := ⟨44, 128, 32 * (64 * wOn.get (wmTh 0 false)), false⟩, hkB := ⟨44, 128, 32 * (64 * wOn.get (wmTh 0 false) + 2), false⟩ } |>.setHk { wOn.hk with chan := 44 } with clk := { wOn.clk with now := 10 ^ 8 } }).hk.chan, 0, 0, false⟩).sum / 32)) (128 * ({ (wOn).setConv { wOn.conv with hkA := ⟨44, 128, 32 * (64 * wOn.get (wmTh 0 false)), false⟩, hkB := ⟨44, 128, 32 * (64 * wOn.get (wmTh 0 false) + 2), false⟩ } |>.setHk { wOn.hk with chan := 44 } with clk := { wOn.clk with now := 10 ^ 8 } }).get (wmTh ((24 * ((({ (wOn).setConv { wOn.conv with hkA := ⟨44, 128, 32 * (64 * wOn.get (wmTh 0 false)), false⟩, hkB := ⟨44, 128, 32 * (64 * wOn.get (wmTh 0 false) + 2), false⟩ } |>.setHk { wOn.hk with chan := 44 } with clk := { wOn.clk with now := 10 ^ 8 } }).hk.chan % 64) - 44) + ({ (wOn).setConv { wOn.conv with hkA := ⟨44, 128, 32 * (64 * wOn.get (wmTh 0 false)), false⟩, hkB := ⟨44, 128, 32 * (64 * wOn.get (wmTh 0 false) + 2), false⟩ } |>.setHk { wOn.hk with chan := 44 } with clk := { wOn.clk with now := 10 ^ 8 } }).hk.chan / 64 % 24) / 2) ((24 * ((({ (wOn).setConv { wOn.conv with hkA := ⟨44, 128, 32 * (64 * wOn.get (wmTh 0 false)), false⟩, hkB := ⟨44, 128, 32 * (64 * wOn.get (wmTh 0 false) + 2), false⟩ } |>.setHk { wOn.hk with chan := 44 } with clk := { wOn.clk with now := 10 ^ 8 } }).hk.chan % 64) - 44) + ({ (wOn).setConv { wOn.conv with hkA := ⟨44, 128, 32 * (64 * wOn.get (wmTh 0 false)), false⟩, hkB := ⟨44, 128, 32 * (64 * wOn.get (wmTh 0 false) + 2), false⟩ } |>.setHk { wOn.hk with chan := 44 } with clk := { wOn.clk with now := 10 ^ 8 } }).hk.chan / 64 % 24) % 2 == 1)))))
    ∧ (((((wKp.setHk { wKp.hk with ended := true }).put (THM_T_TEMP 3) 1400).put ADG_VDC_VDC 100).start.kp = true)
    ∧ ((((wKp.setHk { wKp.hk with ended := true }).put (THM_T_TEMP 3) 1400).put ADG_VDC_VDC 100).ticking = true)
    ∧ ((((wKp.setHk { wKp.hk with ended := true }).put (THM_T_TEMP 3) 1400).put ADG_VDC_VDC 100).hk.ended = true ∨ ((((wKp.setHk { wKp.hk with ended := true }).put (THM_T_TEMP 3) 1400).put ADG_VDC_VDC 100).isOn 7 = false ∧ (((wKp.setHk { wKp.hk with ended := true }).put (THM_T_TEMP 3) 1400).put ADG_VDC_VDC 100).hk.roundAt + 409600 ≤ (((wKp.setHk { wKp.hk with ended := true }).put (THM_T_TEMP 3) 1400).put ADG_VDC_VDC 100).cyc))
    ∧ ((((wKp.setHk { wKp.hk with ended := true }).put (THM_T_TEMP 3) 1400).put ADG_VDC_VDC 100).osdLinkHigh = false))
    ∧ ((wOn.start.kp = false ∨ wOn.ticking = false ∨ (wOn.hk.ended = false ∧ (wOn.isOn 7 = true ∨ wOn.cyc < wOn.hk.roundAt + 409600))))
    ∧ ((({ wOn.setSup { wOn.sup with latch := true, shutAt := some 5 } with clk := { wOn.clk with now := 10 ^ 9 } }).sup.shutAt = some (5 : Nat))
    ∧ ((5 : Nat) + 760000 ≤ ({ wOn.setSup { wOn.sup with latch := true, shutAt := some 5 } with clk := { wOn.clk with now := 10 ^ 9 } }).now))
    ∧ ((wOn.sup.shutAt.all (fun o => decide (wOn.now < o + 760000)) = true)) := by
  and_intros <;> decide +kernel

theorem witness_starts_begin_step_fail_and_retry :
    ((({ wOn with on := 0x21FF }).Reaches (.sc (1 : Fin 4) (0 : Fin 3)) SYSC_RST.addr)
    ∧ (({ wOn with on := 0x21FF }).isOn 9 = false ∧ ({ wOn with on := 0x21FF }).isOn 10 = false ∧ ({ wOn with on := 0x21FF }).isOn 11 = false ∧ ({ wOn with on := 0x21FF }).isOn 12 = false)
    ∧ (({ wOn with on := 0x21FF }).sup.latch = false))
    ∧ ((({ wOn.setSup { wOn.sup with latch := true } with on := 0x21FF }).Reaches (.sc (1 : Fin 4) (0 : Fin 3)) SYSC_RST.addr)
    ∧ (({ wOn.setSup { wOn.sup with latch := true } with on := 0x21FF }).isOn 9 = false ∧ ({ wOn.setSup { wOn.sup with latch := true } with on := 0x21FF }).isOn 10 = false ∧ ({ wOn.setSup { wOn.sup with latch := true } with on := 0x21FF }).isOn 11 = false ∧ ({ wOn.setSup { wOn.sup with latch := true } with on := 0x21FF }).isOn 12 = false)
    ∧ (({ wOn.setSup { wOn.sup with latch := true } with on := 0x21FF }).sup.latch = true))
    ∧ ((wOn.Reaches (.sc (1 : Fin 4) (0 : Fin 3)) SYSC_RST.addr)
    ∧ (wOn.isOn 9 = true ∨ wOn.isOn 10 = true ∨ wOn.isOn 11 = true ∨ wOn.isOn 12 = true))
    ∧ ((wOn.Reaches (Initiator.kp : Initiator) SYSC_RST.addr)
    ∧ (isSc (Initiator.kp : Initiator) = false))
    ∧ ((({ wOn with on := 0x21FF }).Reaches (.sc (1 : Fin 4) (0 : Fin 3)) SYSC_RST.addr)
    ∧ (({ wOn with on := 0x21FF }).isOn 9 = false ∧ ({ wOn with on := 0x21FF }).isOn 10 = false ∧ ({ wOn with on := 0x21FF }).isOn 11 = false ∧ ({ wOn with on := 0x21FF }).isOn 12 = false)
    ∧ (({ wOn with on := 0x21FF }).sup.latch = false))
    ∧ ((({ wOn.setSup { wOn.sup with latch := true } with on := 0x21FF }).Reaches (.sc (1 : Fin 4) (0 : Fin 3)) SYSC_RST.addr)
    ∧ (({ wOn.setSup { wOn.sup with latch := true } with on := 0x21FF }).isOn 9 = false ∧ ({ wOn.setSup { wOn.sup with latch := true } with on := 0x21FF }).isOn 10 = false ∧ ({ wOn.setSup { wOn.sup with latch := true } with on := 0x21FF }).isOn 11 = false ∧ ({ wOn.setSup { wOn.sup with latch := true } with on := 0x21FF }).isOn 12 = false)
    ∧ (({ wOn.setSup { wOn.sup with latch := true } with on := 0x21FF }).sup.latch = true)) := by
  and_intros <;> decide +kernel

theorem witness_starts_begin_step_fail_and_retry_part2 :
    ((wOn.Reaches (.sc (1 : Fin 4) (0 : Fin 3)) SYSC_RST.addr)
    ∧ (wOn.isOn 9 = true ∨ wOn.isOn 10 = true ∨ wOn.isOn 11 = true ∨ wOn.isOn 12 = true))
    ∧ ((wOn.Reaches (Initiator.kp : Initiator) SYSC_RST.addr)
    ∧ (isSc (Initiator.kp : Initiator) = false))
    ∧ ((wKp.start.kp = true)
    ∧ (wKp.pllA = true)
    ∧ (wKp.sup.latch = false))
    ∧ ((wOn.start.kp = false ∨ wOn.pllA = false ∨ wOn.sup.latch = true))
    ∧ ((((wKp.setStart { wKp.start with trig := some 1, retained := true })).sup.latch = false)
    ∧ (((wKp.setStart { wKp.start with trig := some 1, retained := true })).start.running = false)
    ∧ (((wKp.setStart { wKp.start with trig := some 1, retained := true })).start.trig = some (1 : Nat)))
    ∧ ((({ (wOn.put AON_CAUSE_LAST 2).setStart { wOn.start with trig := none } with on := 1 }).sup.latch = false)
    ∧ (({ (wOn.put AON_CAUSE_LAST 2).setStart { wOn.start with trig := none } with on := 1 }).start.running = false)
    ∧ (({ (wOn.put AON_CAUSE_LAST 2).setStart { wOn.start with trig := none } with on := 1 }).start.trig = none)
    ∧ (({ (wOn.put AON_CAUSE_LAST 2).setStart { wOn.start with trig := none } with on := 1 }).get AON_CAUSE_LAST = 2)
    ∧ (({ (wOn.put AON_CAUSE_LAST 2).setStart { wOn.start with trig := none } with on := 1 }).isOn 1 = false)
    ∧ (({ (wOn.put AON_CAUSE_LAST 2).setStart { wOn.start with trig := none } with on := 1 }).sup.standby = false)
    ∧ (({ (wOn.put AON_CAUSE_LAST 2).setStart { wOn.start with trig := none } with on := 1 }).start.retryAt = none)
    ∧ (9000 < (9001 : Nat))) := by
  and_intros <;> decide +kernel

theorem witness_starts_begin_step_fail_and_retry_part3 :
    (((wOn.setStart { wOn.start with running := true, step := 1, kind := 0 }).start.running = true ∨ (wOn.setStart { wOn.start with running := true, step := 1, kind := 0 }).sup.latch = true ∨ ((wOn.setStart { wOn.start with running := true, step := 1, kind := 0 }).start.trig = none ∧ ((wOn.setStart { wOn.start with running := true, step := 1, kind := 0 }).get AON_CAUSE_LAST ≠ 2 ∨ (wOn.setStart { wOn.start with running := true, step := 1, kind := 0 }).isOn 1 = true ∨ (wOn.setStart { wOn.start with running := true, step := 1, kind := 0 }).sup.standby = true ∨ (wOn.setStart { wOn.start with running := true, step := 1, kind := 0 }).start.retryAt ≠ none ∨ (12000 : Nat) ≤ 9000))))
    ∧ ((({ wOn.setStart { wOn.start with running := true, step := 1, kind := 0 } with on := 1 }).start.running = true)
    ∧ (({ wOn.setStart { wOn.start with running := true, step := 1, kind := 0 } with on := 1 }).sup.latch = false)
    ∧ (nextStep ({ wOn.setStart { wOn.start with running := true, step := 1, kind := 0 } with on := 1 }).start.kind ({ wOn.setStart { wOn.start with running := true, step := 1, kind := 0 } with on := 1 }).start.step = 2)
    ∧ ((true : Bool) = true ∨ ({ wOn.setStart { wOn.start with running := true, step := 1, kind := 0 } with on := 1 }).start.kind = 2))
    ∧ ((({ wOn.setStart { wOn.start with running := true, step := 2, kind := 0 } with on := 3 }).start.running = true)
    ∧ (({ wOn.setStart { wOn.start with running := true, step := 2, kind := 0 } with on := 3 }).sup.latch = false)
    ∧ (nextStep ({ wOn.setStart { wOn.start with running := true, step := 2, kind := 0 } with on := 3 }).start.kind ({ wOn.setStart { wOn.start with running := true, step := 2, kind := 0 } with on := 3 }).start.step = 3))
    ∧ ((({ (wOn.setStart { wOn.start with running := true, step := 3, kind := 0 }).put HSM_STATUS_STATE 2 with on := 7, pllA := false }).start.running = true)
    ∧ (({ (wOn.setStart { wOn.start with running := true, step := 3, kind := 0 }).put HSM_STATUS_STATE 2 with on := 7, pllA := false }).sup.latch = false)
    ∧ (nextStep ({ (wOn.setStart { wOn.start with running := true, step := 3, kind := 0 }).put HSM_STATUS_STATE 2 with on := 7, pllA := false }).start.kind ({ (wOn.setStart { wOn.start with running := true, step := 3, kind := 0 }).put HSM_STATUS_STATE 2 with on := 7, pllA := false }).start.step = 4)
    ∧ ((true : Bool) = true ∨ ({ (wOn.setStart { wOn.start with running := true, step := 3, kind := 0 }).put HSM_STATUS_STATE 2 with on := 7, pllA := false }).start.kind = 2)
    ∧ (({ (wOn.setStart { wOn.start with running := true, step := 3, kind := 0 }).put HSM_STATUS_STATE 2 with on := 7, pllA := false }).start.kind = 1 ∨ (({ (wOn.setStart { wOn.start with running := true, step := 3, kind := 0 }).put HSM_STATUS_STATE 2 with on := 7, pllA := false }).bState ≠ 0 ∧ ({ (wOn.setStart { wOn.start with running := true, step := 3, kind := 0 }).put HSM_STATUS_STATE 2 with on := 7, pllA := false }).bState ≠ 1)))
    ∧ ((({ (wOn.setStart { wOn.start with running := true, step := 3, kind := 0 }).put HSM_STATUS_STATE 1 with on := 7 }).start.running = true)
    ∧ (({ (wOn.setStart { wOn.start with running := true, step := 3, kind := 0 }).put HSM_STATUS_STATE 1 with on := 7 }).sup.latch = false)
    ∧ (nextStep ({ (wOn.setStart { wOn.start with running := true, step := 3, kind := 0 }).put HSM_STATUS_STATE 1 with on := 7 }).start.kind ({ (wOn.setStart { wOn.start with running := true, step := 3, kind := 0 }).put HSM_STATUS_STATE 1 with on := 7 }).start.step = 4)
    ∧ (({ (wOn.setStart { wOn.start with running := true, step := 3, kind := 0 }).put HSM_STATUS_STATE 1 with on := 7 }).start.kind ≠ 1)
    ∧ (({ (wOn.setStart { wOn.start with running := true, step := 3, kind := 0 }).put HSM_STATUS_STATE 1 with on := 7 }).bState = 1))
    ∧ ((nextStep ((wOn.setStart { wOn.start with running := true, step := 3, kind := 0 }).put HSM_STATUS_STATE 0).start.kind ((wOn.setStart { wOn.start with running := true, step := 3, kind := 0 }).put HSM_STATUS_STATE 0).start.step = 4)
    ∧ (((wOn.setStart { wOn.start with running := true, step := 3, kind := 0 }).put HSM_STATUS_STATE 0).start.kind ≠ 1)
    ∧ (((wOn.setStart { wOn.start with running := true, step := 3, kind := 0 }).put HSM_STATUS_STATE 0).bState = 0)) := by
  and_intros <;> decide +kernel

theorem witness_starts_begin_step_fail_and_retry_part4 :
    ((((wOn.setStart { wOn.start with running := true, step := 5, kind := 0 }).wrMem32 0x20000000 5).start.running = true)
    ∧ (((wOn.setStart { wOn.start with running := true, step := 5, kind := 0 }).wrMem32 0x20000000 5).sup.latch = false)
    ∧ (nextStep ((wOn.setStart { wOn.start with running := true, step := 5, kind := 0 }).wrMem32 0x20000000 5).start.kind ((wOn.setStart { wOn.start with running := true, step := 5, kind := 0 }).wrMem32 0x20000000 5).start.step = 6)
    ∧ ((true : Bool) = true ∨ ((wOn.setStart { wOn.start with running := true, step := 5, kind := 0 }).wrMem32 0x20000000 5).start.kind = 2))
    ∧ ((({ wOn.setStart { wOn.start with running := true, step := 6, kind := 0 } with on := 0x37 }).start.running = true)
    ∧ (({ wOn.setStart { wOn.start with running := true, step := 6, kind := 0 } with on := 0x37 }).sup.latch = false)
    ∧ (nextStep ({ wOn.setStart { wOn.start with running := true, step := 6, kind := 0 } with on := 0x37 }).start.kind ({ wOn.setStart { wOn.start with running := true, step := 6, kind := 0 } with on := 0x37 }).start.step = 7)
    ∧ ((true : Bool) = true ∨ ({ wOn.setStart { wOn.start with running := true, step := 6, kind := 0 } with on := 0x37 }).start.kind = 2))
    ∧ (((wOn.setStart { wOn.start with running := true, step := 7, kind := 0 }).start.running = true)
    ∧ ((wOn.setStart { wOn.start with running := true, step := 7, kind := 0 }).sup.latch = false)
    ∧ (nextStep (wOn.setStart { wOn.start with running := true, step := 7, kind := 0 }).start.kind (wOn.setStart { wOn.start with running := true, step := 7, kind := 0 }).start.step = 8)
    ∧ ((true : Bool) = true)
    ∧ ((wOn.setStart { wOn.start with running := true, step := 7, kind := 0 }).start.kind ≠ 1))
    ∧ (((wOn.setStart { wOn.start with running := true, step := 7, kind := 0 }).start.running = true)
    ∧ ((wOn.setStart { wOn.start with running := true, step := 7, kind := 0 }).sup.latch = false)
    ∧ (nextStep (wOn.setStart { wOn.start with running := true, step := 7, kind := 0 }).start.kind (wOn.setStart { wOn.start with running := true, step := 7, kind := 0 }).start.step = 8)
    ∧ ((false : Bool) = false)
    ∧ ((true : Bool) = true)
    ∧ ((wOn.setStart { wOn.start with running := true, step := 7, kind := 0 }).start.kind ≠ 1)
    ∧ ((wOn.setStart { wOn.start with running := true, step := 7, kind := 0 }).start.selected < 2)
    ∧ ((wOn.setStart { wOn.start with running := true, step := 7, kind := 0 }).start.banks.length = 2))
    ∧ (((wOn.setStart { wOn.start with running := true, step := 4, kind := 1 }).start.running = true)
    ∧ ((wOn.setStart { wOn.start with running := true, step := 4, kind := 1 }).sup.latch = false)
    ∧ (nextStep (wOn.setStart { wOn.start with running := true, step := 4, kind := 1 }).start.kind (wOn.setStart { wOn.start with running := true, step := 4, kind := 1 }).start.step = 8)
    ∧ ((true : Bool) = true)
    ∧ ((wOn.setStart { wOn.start with running := true, step := 4, kind := 1 }).start.kind = 1))
    ∧ (((wOn.setStart { wOn.start with running := true, step := 7, kind := 2 }).start.running = true)
    ∧ ((wOn.setStart { wOn.start with running := true, step := 7, kind := 2 }).sup.latch = false)
    ∧ (nextStep (wOn.setStart { wOn.start with running := true, step := 7, kind := 2 }).start.kind (wOn.setStart { wOn.start with running := true, step := 7, kind := 2 }).start.step = 8)
    ∧ ((false : Bool) = false)
    ∧ ((false : Bool) = false)
    ∧ ((wOn.setStart { wOn.start with running := true, step := 7, kind := 2 }).start.kind = 2)) := by
  and_intros <;> decide +kernel

theorem witness_starts_begin_step_fail_and_retry_part5 :
    (((wOn.setStart { wOn.start with running := true, step := 8, kind := 0 }).start.running = true)
    ∧ ((wOn.setStart { wOn.start with running := true, step := 8, kind := 0 }).sup.latch = false)
    ∧ (nextStep (wOn.setStart { wOn.start with running := true, step := 8, kind := 0 }).start.kind (wOn.setStart { wOn.start with running := true, step := 8, kind := 0 }).start.step = 9)
    ∧ ((true : Bool) = true ∨ (wOn.setStart { wOn.start with running := true, step := 8, kind := 0 }).start.kind ≠ 1)
    ∧ ((wOn.setStart { wOn.start with running := true, step := 8, kind := 0 }).start.entries = []))
    ∧ (((wOn.setStart { wOn.start with running := true, step := 9, kind := 0 }).start.running = true)
    ∧ ((wOn.setStart { wOn.start with running := true, step := 9, kind := 0 }).sup.latch = false)
    ∧ (nextStep (wOn.setStart { wOn.start with running := true, step := 9, kind := 0 }).start.kind (wOn.setStart { wOn.start with running := true, step := 9, kind := 0 }).start.step = 11)
    ∧ ((true : Bool) = true ∨ (wOn.setStart { wOn.start with running := true, step := 9, kind := 0 }).start.kind = 2)
    ∧ ((wOn.setStart { wOn.start with running := true, step := 9, kind := 0 }).isOn 4 = true))
    ∧ ((((wOn.setStart { wOn.start with running := true, step := 11, kind := 0 }).put AON_START_FSTEP 5).start.running = true)
    ∧ (((wOn.setStart { wOn.start with running := true, step := 11, kind := 0 }).put AON_START_FSTEP 5).sup.latch = false)
    ∧ (nextStep ((wOn.setStart { wOn.start with running := true, step := 11, kind := 0 }).put AON_START_FSTEP 5).start.kind ((wOn.setStart { wOn.start with running := true, step := 11, kind := 0 }).put AON_START_FSTEP 5).start.step = 12)
    ∧ (((wOn.setStart { wOn.start with running := true, step := 11, kind := 0 }).put AON_START_FSTEP 5).start.kind ≠ 2))
    ∧ (((wOn.setStart { wOn.start with running := true, step := 4, kind := 0 }).start.running = true)
    ∧ ((wOn.setStart { wOn.start with running := true, step := 4, kind := 0 }).sup.latch = false)
    ∧ (nextStep (wOn.setStart { wOn.start with running := true, step := 4, kind := 0 }).start.kind (wOn.setStart { wOn.start with running := true, step := 4, kind := 0 }).start.step = (5 : Nat))
    ∧ (stepFails (wOn.setStart { wOn.start with running := true, step := 4, kind := 0 }).start.kind (5 : Nat) (false : Bool) (false : Bool) = true)
    ∧ ((wOn.setStart { wOn.start with running := true, step := 4, kind := 0 }).start.kind ≠ 2)
    ∧ ((5 : Nat) ≠ 4 ∨ (wOn.setStart { wOn.start with running := true, step := 4, kind := 0 }).start.kind = 1 ∨ ((wOn.setStart { wOn.start with running := true, step := 4, kind := 0 }).bState ≠ 0 ∧ (wOn.setStart { wOn.start with running := true, step := 4, kind := 0 }).bState ≠ 1))
    ∧ ((5 : Nat) < 16))
    ∧ ((wOn.start.running = false ∨ wOn.sup.latch = true))
    ∧ ((({ wOn.setStart { wOn.start with running := true, step := 4, kind := 0 } with marten := 20000 }).start.running = true)
    ∧ (({ wOn.setStart { wOn.start with running := true, step := 4, kind := 0 } with marten := 20000 }).start.begun + 16384 ≤ ({ wOn.setStart { wOn.start with running := true, step := 4, kind := 0 } with marten := 20000 }).marten)) := by
  and_intros <;> decide +kernel

theorem witness_starts_begin_step_fail_and_retry_part6 :
    ((wOn.start.running = false ∨ wOn.marten < wOn.start.begun + 16384))
    ∧ ((({ wOn.setStart { wOn.start with retryAt := some 5 } with clk := { wOn.clk with now := 10 ^ 6 } }).sup.latch = false)
    ∧ (({ wOn.setStart { wOn.start with retryAt := some 5 } with clk := { wOn.clk with now := 10 ^ 6 } }).start.retryAt = some (5 : Nat))
    ∧ ((5 : Nat) + 400000 ≤ ({ wOn.setStart { wOn.start with retryAt := some 5 } with clk := { wOn.clk with now := 10 ^ 6 } }).now)
    ∧ (({ wOn.setStart { wOn.start with retryAt := some 5 } with clk := { wOn.clk with now := 10 ^ 6 } }).start.running = false))
    ∧ ((wOn.sup.latch = true ∨ wOn.start.running = true ∨ wOn.start.retryAt.all (fun o => decide (wOn.now < o + 400000)) = true))
    ∧ (((wOn.setStart { wOn.start with lcs := 3 } |>.wrMem32 0x00010000 7).isOn 4 = true)
    ∧ ((wOn.setStart { wOn.start with lcs := 3 } |>.wrMem32 0x00010000 7).start.lcs = 3))
    ∧ (((true : Bool) = false ∨ wOn.isOn 4 = false ∨ wOn.start.lcs ≠ 3))
    ∧ ((wScSplit.sc.length = 12)
    ∧ (wScSplit.isOn 3 = true)
    ∧ (wScSplit.start.lcs = 2 ∨ wScSplit.start.lcs = 4)
    ∧ (wScSplit.scRedundant (0 : Fin 4).val = false)) := by
  and_intros <;> decide +kernel

theorem witness_starts_begin_step_fail_and_retry_part7 :
    ((wSc.scc.length = 4)
    ∧ (wSc.isOn 3 = true)
    ∧ (wSc.start.lcs = 2 ∨ wSc.start.lcs = 4)
    ∧ (wSc.scRedundant (1 : Fin 4).val = true))
    ∧ (((wSc.setStart { wSc.start with lcs := 3 }).isOn 3 = false ∨ ((wSc.setStart { wSc.start with lcs := 3 }).start.lcs ≠ 2 ∧ (wSc.setStart { wSc.start with lcs := 3 }).start.lcs ≠ 4))) := by
  and_intros <;> decide +kernel

theorem witness_no_start_begins_while_the_shutdown_latch_is_set_0 : (((wOn.setSup { wOn.sup with latch := true })).sup.latch = true)
    ∧ (((wOn.setSup { wOn.sup with latch := true })).pending.head? ≠ some .powerCycle)
    ∧ (step ((wOn.setSup { wOn.sup with latch := true })) = .next ((wOn.setSup { wOn.sup with latch := true }).idle : State)) :=
  ⟨by decide, by decide, by rfl⟩

/-! ### Commands that are not well formed, one for each check -/

theorem test_wf_request_payload : Instr.wf (.modeEnter ⟨5, 1, List.replicate 4097 0⟩) = false := by decide +kernel
theorem test_wf_resends : Instr.wf (.ceInstruction 2 (.ok 4 0)) = false := by decide
theorem test_wf_load_size : Instr.wf (.scMemoryAccess 0 0 (.load 0x20000000 3) false (.ok 0 0) 0) = false := by decide
theorem test_wf_store_size : Instr.wf (.scMemoryAccess 0 0 (.store 0x20000000 [1, 2, 3]) false (.ok 0 0) 0) = false := by decide
theorem test_wf_copies : Instr.wf (.scComparison 1 ⟨some [⟨0, [1], 0⟩], none, 0, 0, 0, 0, 0⟩) = false := by decide
theorem test_wf_copy_data :
    Instr.wf (.scComparison 1 ⟨some [⟨0, List.replicate 65 1, 0⟩, ⟨0, [1], 0⟩], none, 0, 0, 0, 0, 0⟩) = false := by decide
theorem test_wf_signatures : Instr.wf (.scAmoCompare 1 .lr ⟨none, some [1], 0, 0, 0, 0, 0⟩ false) = false := by decide
theorem test_wf_can_classical_length : Instr.wf (.canFrameReceive 2 { wFrame with data := List.replicate 9 0 } 0) = false := by decide
theorem test_wf_can_fd_length : Instr.wf (.canFrameReceive 2 { wFrame with fmt := 1, data := List.replicate 13 0 } 0) = false := by decide
theorem test_wf_can_xl_length : Instr.wf (.canFrameReceive 2 { wFrame with fmt := 2, data := [] } 0) = false := by decide
theorem test_wf_can_remote : Instr.wf (.canFrameReceive 2 { wFrame with fmt := 1, rtr := true } 0) = false := by decide
theorem test_wf_can_identifier : Instr.wf (.canFrameReceive 2 { wFrame with id := 0x800 } 0) = false := by decide
theorem test_wf_sent_nibbles : Instr.wf (.sentFrame 0 9 100 0 (List.replicate 7 0) 0 false false) = false := by decide
theorem test_wf_sent_calibration : Instr.wf (.sentFrame 0 9 0 0 [] 0 false false) = false := by decide
theorem test_wf_saved_registers :
    Instr.wf (.scInterruptEntry 0 0 0 0 0 0 (List.replicate 13 0) (.ok 0 0) (.ok 0 0) 0) = false := by decide
theorem test_wf_scrub : Instr.wf (.sramScrub (.ok 5 0) 0) = false := by decide
theorem test_wf_dma : Instr.wf (.dmaBlock (.ok 0 0) (.ok 4 0)) = false := by decide
theorem test_wf_kcp_frame : Instr.wf (.kcpFrameReceive 3 1 (List.replicate 65 0)) = false := by decide
theorem test_wf_hspi : Instr.wf (.hspiWrite (List.replicate 4125 0)) = false := by decide +kernel
theorem test_wf_open_tag : Instr.wf (.openSession 0 1 1 (some [1, 2]) []) = false := by decide
theorem test_wf_ethernet : Instr.wf (.ethFrameReceive 0 (List.replicate 1519 0) 0 0) = false := by decide +kernel
theorem test_wf_t1s : Instr.wf (.t1sFrameReceive (List.replicate 1519 0) 0) = false := by decide +kernel
theorem test_wf_asl_data : Instr.wf (.aslServicePass 1 [⟨1, List.replicate 65 0, false, false⟩] 0) = false := by decide
theorem test_wf_can_frame : Instr.wf (.canFrameReceive 2 wFrame 0) = true := by decide

/-! ### Single steps. The expected values are those of the spec's worked examples; the chapter is named at each. -/

/-- The state after a command, none where it has no next state. -/
def after (i : Instr) (s : State) : Option State :=
  match exec i s with
  | .next t => some t
  | _ => none

def seen (i : Instr) (s : State) (r : Reg) : Option Word := (after i s).map (fun t => t.rd r)

/-- Chapter 01: PWM0–PWM7 are owned as the example gives it, and the map is locked. -/
def xOwn : State := (wOn.wr (CEC_PWMOWN 0) 0x22000000).wr CEC_LOCK 1

theorem test_shadow_write_of_another_engine : seen (.pwmShadowWrite (.ce 1) 3 1 5) xOwn CEC_OWNVIOL_CNT = some 0x01030001 := by
  decide +kernel

/-- Chapter 02: PRK, DCD and ACH are active while the plug is in, and the record enables BCH. -/
def xPark : State :=
  let s := ((((wKp.put MDM_ACTIVE_ACTIVE 0x228).put MDM_PLUGPOL_DRV_A 1).put MDM_PLUG_PLUG 1).put HSM_STATUS_EN 0xF).put HSM_CFG_CFGACK 1
  let s := (((s.put HSM_STATUS_STATE 3).put (RES_STATUS_PVALID 0) 1).put (RES_STATUS_PVALID 1) 1).put (POS_STATUS_STANDSTILL 0) 1
  (s.setModes { Modes.idle with owner := ((Modes.idle.owner.set 9 (some 0x507)).set 5 (some 0x507)).set 3 (some 0x507), lock := true }).setKcp
    { s.kcp with cfg := [(0x10A, 1), (0x10D, 100)] }

/-- The status of the last reply. -/
def statusSent (t : State) : Nat := payU ((t.kcp.out.getLast?.map (fun o => o.bytes)).getD []) 16 2

theorem test_bch_held_by_ach : (after (.modeEnter (wReq [2, 0, 0, 0])) xPark).map (fun t => (statusSent t, t.rd MDM_ACTIVE))
    = some (stHeld, 0x228) := by decide +kernel
theorem test_wht_beside_ach : (after (.modeEnter (wReq [7, 0, 0, 0])) xPark).map (fun t => (statusSent t, t.rd MDM_ACTIVE))
    = some (stOk, 0x2A8) := by decide +kernel

/-- Chapter 04: PWM0 is set up and stopped. -/
theorem test_pwm_start : seen (.pwmgStart .kp 0x3F) ((wPwm.wr (PWM_CTRL 0) 0x110A).wr (PWM_PRD 0) 0xC35) (PWM_CTRL 0) = some 0x110B := by
  decide +kernel

/-- Chapter 05: GD02 with plateau count code n and run r; the monitor holds a turn-on edge of that count. -/
def xEdge (n r : Nat) : State :=
  let s := (((wOn.wr (GD_PROFILE_ON 2) 0xCAC6C3).wr (GD_LOOP 2) 0x06443301).wr (GD_SENSE 2) 0x01E190C8).wr (GD_LEVELS 2) 0x03220002
  (s.wr (GD_LOOPSTAT 2) (BitVec.ofNat 32 (r * 256 + n))).setGate 2 { GateCh.idle with monOn := some (n, false), levOn := true, levOff := true }

theorem test_edge_above_ceiling : (after (.edgeMeasured 2 true (some (10, 90))) (xEdge 3 0)).map (fun t => (t.rd (GD_LOOPSTAT 2), t.get (GD_EDGE_ON_DVDT 2)))
    = some (2, 153) := by decide +kernel
theorem test_fourth_slow_edge : (after (.edgeMeasured 2 true (some (10, 234))) (xEdge 1 3)).map (fun t => (t.rd (GD_LOOPSTAT 2), t.get (GD_EDGE_ON_DVDT 2)))
    = some (2, 54) := by decide +kernel

/-- Chapter 06: both lines of motor A's group have been asserted for a fault on the low side, 2.5 µs ago. -/
def xGroup : State :=
  { (((wOn.wr (SCG_MEMB 0) 0x3F).wr (SCG_CFG 0) 0x7D01).wr (SCG_STAT 0) 0x0D07).setScg 0 ⟨1, 3, 3000, 0, 0, true⟩ with clk := { wOn.clk with now := 4000 } }

theorem test_delay_ends : seen (.scgAscDelayEnd 0) xGroup (SCG_STAT 0) = some 0x0D01 := by decide +kernel

/-- Chapter 07: the window of WU00 with WSEQ 0x36 before it. -/
def xWin : State :=
  (wOn.put (WU_RES0_WSEQ 0) 0x36).setWu 0
    ⟨none, [{ openV := 100, closeV := some 150, src := 0x100, opn := 2, cls := 0x80000032, pol := 0xC10, lim := 0x3C2003E0, count := 5,
              sum := 54400, min := 0x2A00, max := 0x2B00, ovr := false, limv := false, part := false, tmo := false, fin := true }], none⟩

theorem test_window_result : (after (.wuResultPublish 0) xWin).map (fun t => (t.rd (WU_RES0 0), t.rd (WU_RES1 0), t.rd (WU_RES2 0)))
    = some (0x37000005, 0x0002A800, 0x2B002A00) := by decide +kernel
theorem test_link_voltage : vdcValue ((0x2000 + 6400) * 1000, 1000, false) 125 = 8000 := by decide

/-- Chapter 08: WM02 guards ±1.5 V. -/
def xMon : State := (wOn.wr (WM_CFG 2) 0x8800500F).wr (WM_TH 2) 0x03770089

theorem test_monitor_trips : (after (.wmComparatorChange 2 1500001) xMon).map (fun t => t.is (WM_STATUS_STK_HI 2)) = some true := by
  decide +kernel

/-- Chapter 09: CX.DUTY a0, f10, a1 with a duty of 0.4372 and the scale 50,000. -/
def xDuty : State := (wCe 0x00B5652B).setCe 2 { wCore with f := wCore.f.set 10 0x3EDFD8AE, x := wCore.x.set 11 50000 }

theorem test_duty : (after (.cxDuty 2) xDuty).map (fun t => (t.ceOf 2).x.getD 10 0) = some 0x5564 := by decide +kernel

/-- Chapter 10: the channel at 160 µs, in state 11 at count 101 after the reversal at 130 µs. -/
def xPos : State :=
  let s := (((((wOn.wr (POS_CFG 6) 0x84380050).wr (POS_LIMHI 6) 0x66).wr (POS_CMP 6 0) 0x65).wr (POS_TMO 6) 0x006403E8).wr (POS_CNT 6) 101).wr (POS_SPD 6) 0x40000000
  { (s.put (POS_STATUS_DIR 6) 1).setPos 6 ⟨3, 3, some 452000, true, 452000, some (452000, -1), 0, none, some 452000, none, none, 0, none⟩ with cyc := 464000 }

theorem test_quadrature_backward : (after (.posRawTransition 6 1) xPos).map (fun t => (t.get (POS_CNT_CNT 6), t.get (POS_SPD_MAG 6), t.is (POS_SPD_SIGN 6)))
    = some (100, 266666, true) := by decide +kernel
theorem test_quadrature_illegal : (after (.posRawTransition 6 2) { xPos.setPos 6 { xPos.posCh 6 with sync := 1, acc := 1 } with cyc := 468000 }).map
    (fun t => (t.get (POS_CNTS0_QERR_CNT 6), t.rd (POS_SPD 6))) = some (1, 0x40000000) := by decide +kernel

/-- Chapter 11: both motors drive, the DC-DC converter runs and the throttle step is 2. -/
def xLedger : State :=
  let s := (((wOn.put THM_STAT_STEP 2).wr LGC_BATLIM 0x61A82EE0).put MDM_ACTIVE_ACTIVE 0x23).setLedger { Ledger.idle with batAt := some 3990 }
  (s.put (LGE_CFG_PMAX 0) 0x7D0).put (LGE_CFG_PMAX 1) 0x7D0

theorem test_ledger_shares : ((xLedger.ledgerCompute [(160000, 0), (150000, 0), (0, 0), (0, 0), (4000, 0), (1000, 0), (0, 0), (0, 0)]).map
    (fun r => (r.grant, r.stat))).take 2 = [(0x1EFF7, 0x814000E0), (0x1D0F8, 0x814000E0)] := by decide +kernel
theorem test_steering_offset : offsetCode 16 3125 3125 = 0x61A8 := by decide

/-- Chapter 13: the seal is read, and acknowledged by a Paired core. -/
theorem test_seal_crc : crc8 [0x0D, 0x35] = 0xB0 := by decide +kernel
theorem test_seal_acknowledged :
    seen (.hsmAck (.sc 1 0) 0x0D35B0) ((wBad.put HSM_STATUS_STATE 2).wr HSM_CFG 0x800D35B0) HSM_CFG = some 0xC00D35B0 := by decide +kernel

/-- Chapter 14: SC1 is Voted with the keys of the example. -/
def xVoted : State :=
  let s := ((wOn.wr (SCC_MODE 1) 0x56AA5202).put (SCC_STAT_STATE 1) 1).put (SCC_RDBASE_BASE 1) 0x2010
  ((s.put (SCC_IMGB_BASE 1) 0x2040).put (SCC_IMGC_BASE 1) 0x2060).setScc 1 { ScCore.idle with order := [0, 1, 2] }

/-- A store of 0x1234_5678 that copy C presents otherwise. -/
def xStore : CmpPoint :=
  let good : Present := ⟨0x20104A48, [0x78, 0x56, 0x34, 0x12], 0⟩
  ⟨some [good, good, { good with data := [0, 0, 0, 0] }], none, 0, 0, 0x1000, 50, 3⟩

theorem test_images : (after (.scComparison 1 xStore) xVoted).map (fun t => (t.rdMem32 0x20104A48, t.rdMem32 0x2040E308, t.rdMem32 0x20601CC8))
    = some (0x12345678, 0xEDCBA987, 0x12345678) := by decide +kernel
theorem test_odd_copy : (after (.scComparison 1 xStore) xVoted).map (fun t => (t.get (SCC_STAT_STATE 1), t.get (SCC_CNT_ODDC 1)))
    = some (2, 1) := by decide +kernel

/-- Chapter 15: DMA05 before block 8 of the example. -/
def xDma : State :=
  let s := (((wOn.put STU_CTRL_BYPASS 0).wr (STU_MAP 0) 0x20002000).wr (STU_ATTR 0) 0x80000303).wr (STU_MAP 1) 0x20802080
  let s := ((((s.wr (STU_ATTR 1) 0x80000202).wr (DMA_CFG 5) 0xFF00002B).wr (DMA_SRC 5) 0x20001010).wr (DMA_DST 5) 0x2080FE10).wr (DMA_LEN 5) 1000
  let s := ((s.wr (DMA_DONE 5) 496).wr (DMA_CURSRC 5) 0x20001200).wr (DMA_CURDST 5) 0x20810000
  let s := (s.wr (DMA_REMAIN 5) 0x1F8).put (DMA_STAT_STATE 5) 2
  { s.setDmaCh 5 ⟨1, true, false⟩ with dma := { (s.setDmaCh 5 ⟨1, true, false⟩).dma with cur := some 5 } }

theorem test_dma_translation : (after (.dmaBlock (.ok 0 0) (.ok 0 0)) xDma).map (fun t => (t.rd (DMA_STAT 5), t.rd (DMA_FADDR 5), t.rd (DMA_DONE 5)))
    = some (0x52000002, 0x20810000, 0x1F0) := by decide +kernel

/-- Chapter 17: 250,000 W and 120,000 W. -/
theorem test_batt_limits : seen (.battLimits (wReq [0, 3, 0xD0, 0x90, 0, 1, 0xD4, 0xC0])) wKp LGC_BATLIM = some 0x61A82EE0 := by
  decide +kernel

/-- Chapter 18: fifteen attempts of buffer 3 have met no acknowledgement. -/
def xTec : State :=
  ((wCan.put (CAN_TXPEND_PEND 2) 8).put (CAN_ECR_TEC 2) 120).setCan 2 { Can.idle with live := 2, order := [3], tec := 120 }

theorem test_can_passive : seen (.canTxEnd 2 false (.err true false false) 0) xTec (CAN_ECR 2) = some 0x40000080 := by decide +kernel

/-- Chapter 19: the connection after the pass at 8 ms. -/
def xConn : AslConn :=
  ⟨1, BitVec.ofNat 256 (0x5A170C03 + 2 ^ 40 + 2 ^ 48 + 4 * 2 ^ 56 + 0x120 * 2 ^ 64 + 20 * 2 ^ 112 + 2 * 2 ^ 128 + 4 * 2 ^ 144 + 2 ^ 152),
    0x20001000, 2, 0, 1, 0, 0, 0, 0, 0, some 800000, [], true, 0, [], 0, false, false, none⟩

theorem test_asl_gap : (fun (c : AslConn) => (c.state, c.lastSeq, c.lost, c.timer)) (xConn.receive 1800000 ⟨0, false, 1, 0x120, 1, 0, aslPdu 0x5A170C03 3 0 [1, 2, 3, 4]⟩).1
    = (2, 3, 1, some 1800000) := by decide +kernel
theorem test_asl_timeout : { xConn with lastSeq := 3, timer := some 1800000 }.fails 3800000 = 1 := by decide +kernel

/-- Chapter 21: a warm start, the second since the reset of ATTEMPTS, comes to step 10. -/
def xWarm : State := (wKp.put AON_START_ATTEMPTS 2).setStart { wKp.start with running := true, kind := 1, step := 9, retained := true }

theorem test_warm_start_fails : seen (.startStep false false) xWarm AON_START = some 0x02A80000 := by decide +kernel

/-- Chapter 22: the hottest sensor is TS14 with 140.0 °C, in step 1. -/
def xHot : State :=
  (((wKp.put (THM_T_TEMP 14) 1400).put THM_STAT_STEP 1).put ADG_VDC_VDC 100).setHk { wKp.hk with ended := true, since := 4 }

theorem test_throttle : (after .hkRoundEnd xHot).map (fun t => (t.rd THM_STAT, t.rd GDG_AGG)) = some (0x300E0578, 0x384) := by decide +kernel

end Sys2Proof.Machine
end

section
/-! SUPPORT. What a write does to a register by the access codes of its fields (R16–R18): each field of the register after
`State.fieldWrite`, each bit of it, and what stays as it was. -/

namespace Sys2Proof.Machine

/-! ### One field -/

theorem bitsOf_lt (hi lo n : Nat) : bitsOf hi lo n < 2 ^ (hi + 1 - lo) := Nat.mod_lt _ (Nat.two_pow_pos _)

/-- What a field of w bits holds after a write (R16): v is written to it, it holds cur, and it held was when the instant began. -/
def accessValue (locked : Bool) (acc : Access) (w v was cur : Nat) : Nat :=
  match acc with
  | .rw => v
  | .shd => v
  | .rwl => if locked then cur else v
  | .w1c => cur &&& (2 ^ w - 1 - (v &&& was))
  | .cnt => if v == 0 then cur else cur - was
  | .ro => cur
  | .wo => cur

/-- A written field takes what its access code gives. -/
theorem bitsOf_applyField_self (locked : Bool) (v was old : Nat) (f : Nat × Nat × Access) (hf : f.2.1 ≤ f.1) :
    bitsOf f.1 f.2.1 (applyField locked v was old f) =
      accessValue locked f.2.2 (f.1 + 1 - f.2.1) (bitsOf f.1 f.2.1 v) (bitsOf f.1 f.2.1 was) (bitsOf f.1 f.2.1 old) := by
  obtain ⟨hi, lo, acc⟩ := f
  have hv := bitsOf_lt hi lo v
  have ho := bitsOf_lt hi lo old
  cases acc <;> simp only [applyField, accessValue]
  case rw | shd => rw [bitsOf_putBits_self _ _ _ _ hf, Nat.mod_eq_of_lt hv]
  case rwl => split <;> simp [bitsOf_putBits_self _ _ _ _ hf, Nat.mod_eq_of_lt hv]
  case w1c => rw [bitsOf_putBits_self _ _ _ _ hf, Nat.mod_eq_of_lt (Nat.lt_of_le_of_lt Nat.and_le_left ho)]
  case cnt =>
    split
    · rfl
    · rw [bitsOf_putBits_self _ _ _ _ hf, Nat.mod_eq_of_lt (Nat.lt_of_le_of_lt (Nat.sub_le _ _) ho)]

/-- Bits outside a written field stay as they were. -/
theorem bitsOf_applyField_outside (locked : Bool) (v was old : Nat) (f : Nat × Nat × Access) {hi lo : Nat} (hf : f.2.1 ≤ f.1)
    (hl : lo ≤ hi) (h : hi < f.2.1 ∨ f.1 < lo) : bitsOf hi lo (applyField locked v was old f) = bitsOf hi lo old := by
  obtain ⟨fhi, flo, acc⟩ := f
  have hput : ∀ x, bitsOf hi lo (putBits fhi flo old x) = bitsOf hi lo old := fun x => by
    rcases h with h | h
    · exact bitsOf_putBits_below _ _ _ _ _ _ hl h hf
    · exact bitsOf_putBits_above _ _ _ _ _ _ h hf
  cases acc <;> simp only [applyField, hput]
  case rwl | cnt => split <;> simp [hput]

/-! ### The fields of a register -/

/-- The fields of a register stand one below the other, all below bit b. -/
def fieldsFall : Nat → List (Nat × Nat × Access) → Bool
  | _, [] => true
  | b, f :: t => decide (f.1 < b) && decide (f.2.1 ≤ f.1) && fieldsFall f.2.1 t

theorem fieldsFall_cons {b : Nat} {f : Nat × Nat × Access} {t : List (Nat × Nat × Access)} :
    fieldsFall b (f :: t) = true ↔ f.1 < b ∧ f.2.1 ≤ f.1 ∧ fieldsFall f.2.1 t = true := by
  simp [fieldsFall, and_assoc]

theorem fieldsFall_mem {fs : List (Nat × Nat × Access)} {b : Nat} (h : fieldsFall b fs = true) {f : Nat × Nat × Access}
    (hf : f ∈ fs) : f.2.1 ≤ f.1 ∧ f.1 < b := by
  induction fs generalizing b with
  | nil => simp at hf
  | cons g t ih =>
    obtain ⟨hb, hg, ht⟩ := fieldsFall_cons.mp h
    rcases List.mem_cons.mp hf with rfl | hf
    · exact ⟨hg, hb⟩
    · obtain ⟨hf1, hf2⟩ := ih ht hf
      exact ⟨hf1, by omega⟩

/-- Bits that no field holds stay as they were (R17). -/
theorem bitsOf_foldl_outside (locked : Bool) (v was old : Nat) {fs : List (Nat × Nat × Access)} {hi lo : Nat} (hl : lo ≤ hi)
    (h : ∀ f ∈ fs, f.2.1 ≤ f.1 ∧ (hi < f.2.1 ∨ f.1 < lo)) :
    bitsOf hi lo (fs.foldl (applyField locked v was) old) = bitsOf hi lo old := by
  induction fs generalizing old with
  | nil => rfl
  | cons g t ih =>
    obtain ⟨hg, hout⟩ := h g List.mem_cons_self
    rw [List.foldl_cons, ih _ (fun f hf => h f (List.mem_cons_of_mem _ hf)), bitsOf_applyField_outside _ _ _ _ _ hg hl hout]

/-- Each field of a written register takes what its own access code gives. -/
theorem bitsOf_foldl_applyField (locked : Bool) (v was old : Nat) {fs : List (Nat × Nat × Access)} {b : Nat}
    (h : fieldsFall b fs = true) {f : Nat × Nat × Access} (hf : f ∈ fs) :
    bitsOf f.1 f.2.1 (fs.foldl (applyField locked v was) old) =
      accessValue locked f.2.2 (f.1 + 1 - f.2.1) (bitsOf f.1 f.2.1 v) (bitsOf f.1 f.2.1 was) (bitsOf f.1 f.2.1 old) := by
  induction fs generalizing b old with
  | nil => simp at hf
  | cons g t ih =>
    obtain ⟨-, hg, ht⟩ := fieldsFall_cons.mp h
    rw [List.foldl_cons]
    rcases List.mem_cons.mp hf with rfl | hf
    · rw [bitsOf_foldl_outside _ _ _ _ hg fun e he => ⟨(fieldsFall_mem ht he).1, .inr (fieldsFall_mem ht he).2⟩,
        bitsOf_applyField_self _ _ _ _ _ hg]
    · obtain ⟨hlo, hlt⟩ := fieldsFall_mem ht hf
      rw [ih _ ht hf, bitsOf_applyField_outside _ _ _ _ _ hg hlo (.inl hlt)]

/-! ### The register at an address -/

/-- The fields of the register at an address: none at an unlisted offset. -/
def fieldsAt (a : Nat) : List (Nat × Nat × Access) := ((rowOf a).map Row.flds).getD []

theorem mem_of_findRow {a : Nat} {l : List Row} {r : Row} (h : findRow a l = some r) : r ∈ l := by
  induction l with
  | nil => simp [findRow] at h
  | cons e t ih =>
    unfold findRow at h
    split at h
    · cases h
      exact List.mem_cons_self
    · exact List.mem_cons_of_mem _ (ih h)

/-- The 1 MB windows that hold registers. -/
def registerWindows : List Nat :=
  [0x400, 0x401, 0x402, 0x403, 0x404, 0x405, 0x406, 0x407, 0x408, 0x500, 0x600, 0x601, 0x700, 0x701]

theorem windowRows_of_not_mem {w : Nat} (h : w ∉ registerWindows) : windowRows w = [] := by
  simp only [registerWindows, List.mem_cons, List.not_mem_nil, or_false, not_or] at h
  simp [windowRows, h]

theorem windowRows_fieldsFall (w : Nat) : ∀ r ∈ windowRows w, fieldsFall 32 r.flds = true := by
  by_cases h : w ∈ registerWindows
  · exact (by decide : ∀ w ∈ registerWindows, ∀ r ∈ windowRows w, fieldsFall 32 r.flds = true) w h
  · simp [windowRows_of_not_mem h]

theorem fieldsAt_fall (a : Nat) : fieldsFall 32 (fieldsAt a) = true := by
  unfold fieldsAt
  cases h : rowOf a with
  | none => rfl
  | some r => exact windowRows_fieldsFall _ r (mem_of_findRow h)

/-- A register after a write to it is what its fields make of the value written. -/
theorem State.rd_fieldWrite_self (s : State) (a : Nat) (v : Word) :
    (s.fieldWrite a v).rd (regAt a) = BitVec.ofNat 32
      ((fieldsAt a).foldl (applyField (s.locked a) v.toNat (s.rdWas (regAt a)).toNat) (s.rd (regAt a)).toNat) := by
  unfold State.fieldWrite fieldsAt
  cases rowOf a with
  | none => simp
  | some r => exact State.rd_wr_self _ _ _

theorem State.rd_fieldWrite_ne (s : State) {a : Nat} (v : Word) {r : Reg} (h : r.addr ≠ a) : (s.fieldWrite a v).rd r = s.rd r := by
  unfold State.fieldWrite
  split
  · rfl
  · exact State.rd_wr_ne _ _ h

/-- An unlisted offset ignores a write (R18). -/
theorem State.fieldWrite_unlisted (s : State) {a : Nat} (v : Word) (h : rowOf a = none) : s.fieldWrite a v = s := by
  simp [State.fieldWrite, h]

/-- A field after a write to its register (R16). -/
theorem State.get_fieldWrite (s : State) (v : Word) {f : Fld} {acc : Access} (hr : regAt f.reg.addr = f.reg)
    (hf : (f.hi, f.lo, acc) ∈ fieldsAt f.reg.addr) :
    (s.fieldWrite f.reg.addr v).get f = accessValue (s.locked f.reg.addr) acc (f.hi + 1 - f.lo) (bitsOf f.hi f.lo v.toNat)
      (bitsOf f.hi f.lo (s.rdWas f.reg).toNat) (s.get f) := by
  obtain ⟨hlo, hhi⟩ := fieldsFall_mem (fieldsAt_fall _) hf
  have h := State.rd_fieldWrite_self s f.reg.addr v
  rw [hr] at h
  rw [State.get, h, BitVec.toNat_ofNat, bitsOf_mod _ _ _ _ hhi hlo,
    bitsOf_foldl_applyField _ _ _ _ (fieldsAt_fall _) hf, State.get]

/-- A register keeps its value where each of its fields is read-only or locked. -/
theorem State.rd_fieldWrite_kept (s : State) (v : Word) {r : Reg} (hr : regAt r.addr = r)
    (h : ∀ f ∈ fieldsAt r.addr, f.2.2 = .ro ∨ f.2.2 = .rwl ∧ s.locked r.addr = true) :
    (s.fieldWrite r.addr v).rd r = s.rd r := by
  have hkeep : ∀ (fs : List (Nat × Nat × Access)) (old : Nat),
      (∀ f ∈ fs, f.2.2 = .ro ∨ f.2.2 = .rwl ∧ s.locked r.addr = true) →
      fs.foldl (applyField (s.locked r.addr) v.toNat (s.rdWas r).toNat) old = old := by
    intro fs old hfs
    refine List.foldlRecOn fs _ (motive := (· = old)) rfl ?_
    rintro _ rfl f hf
    rcases hfs f hf with hro | ⟨hrwl, hl⟩ <;> simp [applyField, *]
  have h1 := State.rd_fieldWrite_self s r.addr v
  rw [hr, hkeep _ _ h] at h1
  simpa using h1

end Sys2Proof.Machine
end

section
/-! SUPPORT. The bits of a written register, lock bits, what a register write leaves alone, and what the bus makes of a write
(R16–R18, R25, R61). -/

namespace Sys2Proof.Machine

/-! ### Bits -/

theorem testBit_bitsOf (hi lo n i : Nat) : (bitsOf hi lo n).testBit i = (decide (i < hi + 1 - lo) && n.testBit (lo + i)) := by
  rw [bitsOf, Nat.testBit_mod_two_pow, Nat.testBit_div_two_pow, Nat.add_comm i lo]

theorem bitOf_eq_testBit (i n : Nat) : bitOf i n = n.testBit i := by
  rw [bitOf, Nat.testBit_eq_decide_div_mod_eq]
  rfl

theorem bitOf_toNat (i : Nat) (w : Word) : bitOf i w.toNat = w.getLsbD i := bitOf_eq_testBit _ _

/-- What a bit of a field other than a count holds after a write. -/
def bitAfter (locked : Bool) (acc : Access) (v was cur : Bool) : Bool :=
  match acc with
  | .rw => v
  | .shd => v
  | .rwl => if locked then cur else v
  | .w1c => cur && !(v && was)
  | _ => cur

theorem testBit_accessValue (locked : Bool) {acc : Access} {w v : Nat} (was cur : Nat) {i : Nat} (hc : acc ≠ .cnt) (hv : v < 2 ^ w)
    (hi : i < w) : (accessValue locked acc w v was cur).testBit i =
      bitAfter locked acc (v.testBit i) (was.testBit i) (cur.testBit i) := by
  cases acc <;> simp only [accessValue, bitAfter]
  case rwl => cases locked <;> rfl
  case w1c =>
    rw [Nat.sub_sub, Nat.add_comm 1, Nat.testBit_and, Nat.testBit_two_pow_sub_succ (Nat.lt_of_le_of_lt Nat.and_le_left hv),
      Nat.testBit_and]
    simp [hi]
  case cnt => exact absurd rfl hc

/-- A bit of a written field holds what the field's access code gives (R16). -/
theorem State.getLsbD_fieldWrite (s : State) (v : Word) {r : Reg} {hi lo i : Nat} {acc : Access} (hr : regAt r.addr = r)
    (hf : (hi, lo, acc) ∈ fieldsAt r.addr) (hc : acc ≠ .cnt) (hlo : lo ≤ i) (hhi : i ≤ hi) :
    ((s.fieldWrite r.addr v).rd r).getLsbD i =
      bitAfter (s.locked r.addr) acc (v.getLsbD i) ((s.rdWas r).getLsbD i) ((s.rd r).getLsbD i) := by
  obtain ⟨j, rfl⟩ : ∃ j, i = lo + j := ⟨i - lo, by omega⟩
  have hj : j < hi + 1 - lo := by omega
  have h := congrArg (Nat.testBit · j) (State.get_fieldWrite s v (f := ⟨r, hi, lo⟩) hr hf)
  simp only [State.get, testBit_accessValue _ _ _ hc (bitsOf_lt _ _ _) hj, testBit_bitsOf, hj, decide_true, Bool.true_and] at h
  exact h

/-- A bit that no field holds stays as it was (R17). -/
theorem State.getLsbD_fieldWrite_reserved (s : State) (v : Word) {r : Reg} {i : Nat} (hr : regAt r.addr = r) (hi : i < 32)
    (h : ∀ f ∈ fieldsAt r.addr, i < f.2.1 ∨ f.1 < i) :
    ((s.fieldWrite r.addr v).rd r).getLsbD i = (s.rd r).getLsbD i := by
  have h1 := State.rd_fieldWrite_self s r.addr v
  rw [hr] at h1
  have h2 := congrArg (Nat.testBit · 0) (bitsOf_foldl_outside (s.locked r.addr) v.toNat (s.rdWas r).toNat (s.rd r).toNat (Nat.le_refl i)
    fun f hf => ⟨(fieldsFall_mem (fieldsAt_fall _) hf).1, h f hf⟩)
  simp only [testBit_bitsOf, Nat.add_sub_cancel_left, Nat.zero_lt_one, decide_true, Bool.true_and, Nat.add_zero] at h2
  rw [h1, BitVec.getLsbD_ofNat, h2]
  simp [hi, BitVec.getLsbD]

/-! ### Locks -/

/-- Writing 1 to a lock bit that locks itself leaves it set, locked before or not (R16). -/
theorem State.is_fieldWrite_lock (s : State) {v : Word} {f : Fld} (hr : regAt f.reg.addr = f.reg)
    (hf : (f.hi, f.lo, .rwl) ∈ fieldsAt f.reg.addr) (hl : s.locked f.reg.addr = s.is f) (hv : v.getLsbD f.lo = true) :
    (s.fieldWrite f.reg.addr v).is f = true := by
  have hlo : f.lo ≤ f.hi := (fieldsFall_mem (fieldsAt_fall _) hf).1
  rw [State.is, State.get_fieldWrite s v hr hf, hl]
  cases h : s.is f with
  | true => exact h
  | false =>
    refine bne_iff_ne.mpr fun h0 : bitsOf f.hi f.lo v.toNat = 0 => ?_
    have hbit := testBit_bitsOf f.hi f.lo v.toNat 0
    rw [h0, Nat.zero_testBit, Nat.add_zero, decide_eq_true (by omega : 0 < f.hi + 1 - f.lo), Bool.true_and] at hbit
    exact Bool.false_ne_true (hbit.trans hv)

/-! ### What stays -/

theorem State.OnlyRegs.refl (s : State) (as : List Nat) : s.OnlyRegs s as := ⟨rfl, fun _ _ => rfl⟩

theorem State.OnlyRegs.trans {s t u : State} {as : List Nat} (h : s.OnlyRegs t as) (h' : t.OnlyRegs u as) : s.OnlyRegs u as := by
  obtain ⟨ht, hr⟩ := h
  obtain ⟨hu, hr'⟩ := h'
  refine ⟨?_, fun r ha => (hr' r ha).trans (hr r ha)⟩
  rw [hu, ht]

theorem State.onlyRegs_wr (s : State) (r : Reg) (v : Word) : s.OnlyRegs (s.wr r v) [r.addr] :=
  ⟨rfl, fun _ h => State.rd_wr_ne _ _ (List.ne_of_not_mem_cons h)⟩

theorem State.onlyRegs_put (s : State) (f : Fld) (v : Nat) : s.OnlyRegs (s.put f v) [f.reg.addr] := State.onlyRegs_wr _ _ _

theorem State.onlyRegs_fieldWrite (s : State) (a : Nat) (v : Word) : s.OnlyRegs (s.fieldWrite a v) [a] := by
  unfold State.fieldWrite
  split
  · exact State.OnlyRegs.refl _ _
  · exact State.onlyRegs_wr _ (regAt a) _

/-! ### The bus -/

theorem State.busWrite_of_reaches {s : State} {ini : Initiator} {a : Nat} (h : s.Reaches ini a) (f : State → State) :
    s.busWrite ini a f = f s := by
  simp [State.busWrite, h.1, h.2]

/-- Where a clock of the initiator or of the window stands, an access has no effect (R61, R63). -/
theorem State.busWrite_of_not_answers {s : State} {ini : Initiator} {a : Nat} (h : s.answers ini a = false) (f : State → State) :
    s.busWrite ini a f = s := by
  simp [State.busWrite, h]

/-- An access that the bus refuses only sends a bus error back (R25). -/
theorem State.busWrite_of_not_busOk {s : State} {ini : Initiator} {a : Nat} (ha : s.answers ini a = true) (h : s.busOk ini a true = false)
    (f : State → State) : s.busWrite ini a f = { s with busErr := s.busErr ++ [(ini, a, 0x21)] } := by
  simp [State.busWrite, ha, h, State.busError, State.setBusErr]

theorem leNat_leBytes (n v : Nat) : leNat (leBytes n v) = v % 256 ^ n := by
  induction n generalizing v with
  | zero => simp [leBytes, leNat, Nat.mod_one]
  | succ n ih =>
    rw [leBytes, leNat, ih, BitVec.toNat_ofNat, show 256 ^ (n + 1) = 256 * 256 ^ n from Nat.pow_succ', Nat.mod_mul]

/-- Outside the windows that hold memory, a 32-bit store writes a register at a multiple of 4 and nothing elsewhere (R18). -/
theorem State.blockStore_of_not_isMemory (s : State) (ini : Initiator) {a : Nat} (v : Word) (h : isMemory a = false) :
    s.blockStore ini a (leBytes 4 v.toNat) = if a % 4 = 0 then s.regWrite ini a v else s := by
  obtain ⟨⟨hm, hcan⟩, -⟩ :
      (¬ a < 0x40000000 ∧ inWin 0x60010000 0x60020000 a = false) ∧ inWin 0x70110000 0x70150000 a = false := by
    simpa only [isMemory, Bool.or_eq_false_iff, decide_eq_false_iff_not] using h
  have hown : ceOwnKept ini a = false := by
    cases ini <;> simp only [ceOwnKept]
    simp [inWin]
    omega
  have htcm : inWin 0x30000000 0x30200000 a = false := by simp [inWin]; omega
  have hv : BitVec.ofNat 32 (leNat (leBytes 4 v.toNat)) = v := by
    rw [leNat_leBytes, Nat.mod_eq_of_lt (show v.toNat < 256 ^ 4 from v.isLt), BitVec.ofNat_toNat, BitVec.setWidth_eq]
  by_cases h4 : a % 4 = 0 <;> simp [State.blockStore, hown, htcm, hcan, h, h4, hv]

/-- The address of a register: a multiple of 4 outside the windows that hold memory. -/
def isRegister (a : Nat) : Bool := decide (a < 2 ^ 32) && !isMemory a && a % 4 == 0

theorem leBytes_length (n v : Nat) : (leBytes n v).length = n := by
  induction n generalizing v with
  | zero => rfl
  | succ n ih => simp [leBytes, ih]

theorem exec_registerWrite (s : State) (ini : Initiator) (addr v : Word) :
    exec (.registerWrite ini addr v) s = .next (s.busWrite ini addr.toNat (fun s => s.blockStore ini addr.toNat (leBytes 4 v.toNat))) := by
  show Host.Outcome.next (s.busStore ini addr.toNat (leBytes 4 v.toNat)) = _
  rw [State.busStore, leBytes_length]

/-- A 32-bit write that reaches a register is its window's (R18). -/
theorem exec_registerWrite_of_reaches {s : State} {ini : Initiator} {a : Nat} (v : Word) (h : s.Reaches ini a) (ha : isRegister a = true) :
    exec (.registerWrite ini (BitVec.ofNat 32 a) v) s = .next (s.regWrite ini a v) := by
  obtain ⟨⟨hlt, hm⟩, h4⟩ : (a < 2 ^ 32 ∧ isMemory a = false) ∧ a % 4 = 0 := by simpa [isRegister] using ha
  have hto : (BitVec.ofNat 32 a).toNat = a := Nat.mod_eq_of_lt hlt
  rw [exec_registerWrite, hto, State.busWrite_of_reaches h, State.blockStore_of_not_isMemory _ _ _ hm, if_pos h4]

end Sys2Proof.Machine
end

section
/-! SUPPORT. The lock commands (R16, R24, R60, R191, R339, R371, R448, R512, R513), and the statement about them. -/

namespace Sys2Proof.Machine

/-! ### Lock commands (R16) -/

theorem getLsbD_or_one (v : Word) : (v ||| 1).getLsbD 0 = true := by simp

theorem getLsbD_or_top (v : Word) : (v ||| 0x80000000).getLsbD 31 = true := by simp

/-- A command that writes its register with the lock bit set locks it and changes no other register. -/
theorem locks_by_fieldWrite {s : State} {c : Instr} {ini : Initiator} {f : Fld} {v : Word} {w : State → State}
    (hc : exec c s = .next (s.busWrite ini f.reg.addr w)) (hw : w s = s.fieldWrite f.reg.addr v) (h : s.Reaches ini f.reg.addr)
    (hr : regAt f.reg.addr = f.reg) (hf : (f.hi, f.lo, .rwl) ∈ fieldsAt f.reg.addr) (hl : s.locked f.reg.addr = s.is f)
    (hv : v.getLsbD f.lo = true) : ∃ t, exec c s = .next t ∧ t.is f = true ∧ s.OnlyRegs t [f.reg.addr] :=
  ⟨_, by rw [hc, State.busWrite_of_reaches h, hw], State.is_fieldWrite_lock s hr hf hl hv, State.onlyRegs_fieldWrite _ _ _⟩

/-- A command that sets a one-bit lock where bit i of its value is 1 locks its register and changes no other one. -/
theorem locks_by_put {s : State} {c : Instr} {ini : Initiator} {f : Fld} {v : Word} {i : Nat}
    (hc : exec c s = .next (s.busWrite ini f.reg.addr fun s => if bitOf i v.toNat then s.put f 1 else s))
    (h : s.Reaches ini f.reg.addr) (hv : v.getLsbD i = true) (hlo : f.lo = f.hi) (hhi : f.hi < 32) :
    ∃ t, exec c s = .next t ∧ t.is f = true ∧ s.OnlyRegs t [f.reg.addr] := by
  refine ⟨s.put f 1, by rw [hc, State.busWrite_of_reaches h, bitOf_toNat, if_pos hv], ?_, State.onlyRegs_put _ _ _⟩
  rw [State.is_put_self _ (Nat.le_of_eq hlo) hhi, Fld.size, hlo, Nat.add_sub_cancel_left]
  rfl

/-- Such a command changes nothing where that bit is 0. -/
theorem no_lock_by_put {s : State} {c : Instr} {ini : Initiator} {f : Fld} {v : Word} {i : Nat}
    (hc : exec c s = .next (s.busWrite ini f.reg.addr fun s => if bitOf i v.toNat then s.put f 1 else s))
    (h : s.Reaches ini f.reg.addr) (hv : v.getLsbD i = false) : ∃ t, exec c s = .next t ∧ t = s :=
  ⟨s, by rw [hc, State.busWrite_of_reaches h, bitOf_toNat, if_neg (by simp [hv])], rfl⟩

/-- ADG_CTRL without its lock bit: CLKSEL is taken while it is unlocked, and the lock stays (R513). -/
theorem adgCtrl_fieldWrite (s : State) (v : Word) :
    (s.fieldWrite ADG_CTRL.addr (v &&& 0x7FFFFFFF)).is ADG_CTRL_LOCK = s.is ADG_CTRL_LOCK ∧
      (s.fieldWrite ADG_CTRL.addr (v &&& 0x7FFFFFFF)).get ADG_CTRL_CLKSEL =
        (if s.is ADG_CTRL_LOCK then s.get ADG_CTRL_CLKSEL else v.toNat % 2) := by
  have hlock := State.get_fieldWrite s (v &&& 0x7FFFFFFF) (f := ADG_CTRL_LOCK) (acc := .rwl) rfl (by decide)
  have hsel := State.get_fieldWrite s (v &&& 0x7FFFFFFF) (f := ADG_CTRL_CLKSEL) (acc := .rwl) rfl (by decide)
  have hl : s.locked ADG_CTRL.addr = s.is ADG_CTRL_LOCK := rfl
  rw [State.is, hlock, hsel, hl]
  cases h : s.is ADG_CTRL_LOCK with
  | true => exact ⟨h, rfl⟩
  | false =>
    have hand : (v &&& 0x7FFFFFFF).toNat = v.toNat % 2 ^ 31 := Nat.and_two_pow_sub_one_eq_mod v.toNat 31
    have htop : bitsOf 31 31 (v &&& 0x7FFFFFFF).toNat = 0 := by
      rw [hand, bitsOf]
      omega
    have hlow : bitsOf 0 0 (v &&& 0x7FFFFFFF).toNat = v.toNat % 2 := by
      rw [hand, bitsOf]
      omega
    exact ⟨bne_eq_false_iff_eq.mpr htop, hlow⟩

theorem locked_puCtrl (s : State) (u : Fin 12) : s.locked (PU_CTRL u.val).addr = s.is (PU_CTRL_LOCK u.val) := by
  fin_cases u <;> rfl

/-- Every other safety thread's write to a protection unit is ignored (R337, R339). -/
theorem State.puWrite_sc (s : State) (c : Fin 4) (th : Fin 3) (u : Fin 12) (v : Word) :
    s.puWrite (.sc c th) (PU_CTRL u.val).addr v =
      if u.val = c.val * 3 + (if s.scRedundant c.val then 0 else th.val) then s.fieldWrite (PU_CTRL u.val).addr v else s := by
  have hu : (0x40700000 + u.val * 0x100 - 0x40700000) / 0x100 = u.val := by omega
  simp only [State.puWrite, hu, beq_iff_eq]

theorem regAt_puCtrl (u : Fin 12) : regAt (PU_CTRL u.val).addr = PU_CTRL u.val := by
  revert u
  decide

theorem puCtrl_lock_listed (u : Fin 12) : (31, 31, .rwl) ∈ fieldsAt (PU_CTRL u.val).addr := by
  revert u
  decide

theorem exec_puLock_of_reaches {s : State} {ini : Initiator} (u : Fin 12) (v : Word) (h : s.Reaches ini (PU_CTRL u.val).addr) :
    exec (.puLock ini u v) s = .next (s.puWrite ini (PU_CTRL u.val).addr (v ||| 0x80000000)) :=
  congrArg Host.Outcome.next (State.busWrite_of_reaches h _)

theorem exec_adgLock_of_reaches {s : State} {ini : Initiator} (v : Word) (h : s.Reaches ini ADG_CTRL.addr) :
    exec (.adgLock ini v) s = .next
      (let t := s.fieldWrite ADG_CTRL.addr (v &&& 0x7FFFFFFF)
       if v.getLsbD 31 then t.put ADG_CTRL_LOCK 1 else t) := by
  rw [← bitOf_toNat]
  exact congrArg Host.Outcome.next (State.busWrite_of_reaches h _)

/-- Settles O10: each lock command is one of the writes above, and a lock bit's write leaves the bit set. -/
theorem locksLockAndChangeNothingElse : Obligations.LocksLockAndChangeNothingElse := by
  unfold Obligations.LocksLockAndChangeNothingElse
  refine ⟨fun s ini v h hv => locks_by_put rfl h hv rfl (by decide),
    fun s ini v h hv => no_lock_by_put (f := CEC_LOCK_OWN_LOCK) rfl h hv,
    fun s ini v h hv => no_lock_by_put (f := TRN_LOCK_LOCK) rfl h hv,
    fun s ini v h hv => no_lock_by_put (f := WMG_LOCK_LOCK) rfl h hv, ?adgOpen, ?puOther,
    fun s ini v h => locks_by_fieldWrite rfl rfl h rfl (by decide) rfl (getLsbD_or_one v),
    fun s ini v h => locks_by_fieldWrite rfl rfl h rfl (by decide) rfl (getLsbD_or_one v), ?adgLock,
    fun s ini v h hv => locks_by_put rfl h hv rfl (by decide), fun s ini v h hv => locks_by_put rfl h hv rfl (by decide),
    fun s ini v h => locks_by_fieldWrite rfl rfl h rfl (by decide) rfl (getLsbD_or_one v),
    fun s ini v h => locks_by_fieldWrite rfl rfl h rfl (by decide) rfl (getLsbD_or_top v),
    fun s ini v h => locks_by_fieldWrite rfl rfl h rfl (by decide) rfl (getLsbD_or_top v), ?puOwn,
    fun s ini v h => locks_by_fieldWrite rfl rfl h rfl (by decide) rfl (getLsbD_or_top v),
    fun s ini v h => locks_by_fieldWrite rfl rfl h rfl (by decide) rfl (getLsbD_or_one v),
    fun s ini v h => locks_by_fieldWrite rfl rfl h rfl (by decide) rfl (getLsbD_or_top v)⟩
  case adgOpen =>
    intro s ini v h hv
    obtain ⟨hlock, hsel⟩ := adgCtrl_fieldWrite s v
    refine ⟨_, exec_adgLock_of_reaches v h, ?_⟩
    rw [if_neg (ne_true_of_eq_false hv)]
    exact ⟨hlock, hsel, State.onlyRegs_fieldWrite _ _ _⟩
  case adgLock =>
    intro s ini v h hv
    refine ⟨_, exec_adgLock_of_reaches v h, ?_⟩
    rw [if_pos hv]
    exact ⟨State.is_put_self _ (by decide) (by decide), (State.onlyRegs_fieldWrite _ _ _).trans (State.onlyRegs_put _ ADG_CTRL_LOCK _)⟩
  case puOther =>
    intro s ini u v h c th hini hu
    subst hini
    exact ⟨_, exec_puLock_of_reaches u v h, by rw [State.puWrite_sc, if_neg hu]⟩
  case puOwn =>
    intro s c th u v h hu
    exact locks_by_fieldWrite (ini := .sc c th) rfl ((State.puWrite_sc ..).trans (if_pos hu)) h (regAt_puCtrl u) (puCtrl_lock_listed u)
      (locked_puCtrl s u) (getLsbD_or_top v)

end Sys2Proof.Machine
end

section
/-! SUPPORT. Register writes by the access codes of their fields, writes that the bus refuses, and the statement about them
(R16–R18, R25, R336). -/

namespace Sys2Proof.Machine

/-! ### Register writes by access code (R16–R18) -/

/-- A write that reaches a register of a window without effects of its own writes the register's fields. -/
theorem exec_registerWrite_fields {s : State} {ini : Initiator} {a : Nat} {v : Word} (h : s.Reaches ini a) (ha : isRegister a = true)
    (hw : s.regWrite ini a v = s.fieldWrite a v) : exec (.registerWrite ini (BitVec.ofNat 32 a) v) s = .next (s.fieldWrite a v) := by
  rw [exec_registerWrite_of_reaches v h ha, hw]

/-- RW bits take the value, and reserved bits stay. -/
theorem State.rd_fieldWrite_gptpCfg (s : State) (v : Word) :
    (s.fieldWrite GPTP_CFG.addr v).rd GPTP_CFG = (s.rd GPTP_CFG &&& 0xFFFFFFFC) ||| (v &&& 3) := by
  have hfs : fieldsAt GPTP_CFG.addr = [(1, 1, .rw), (0, 0, .rw)] := by decide
  have hmask : ∀ i : Fin 32, (0xFFFFFFFC : Word).getLsbD i = !decide (i.val < 2) ∧ (3 : Word).getLsbD i = decide (i.val < 2) := by
    decide
  refine BitVec.eq_of_getLsbD_eq fun i hi => ?_
  obtain ⟨hm, hm'⟩ := hmask ⟨i, hi⟩
  rw [BitVec.getLsbD_or, BitVec.getLsbD_and, BitVec.getLsbD_and, hm, hm']
  by_cases h2 : i < 2
  · have hmem : (i, i, .rw) ∈ fieldsAt GPTP_CFG.addr := by
      rw [hfs]
      interval_cases i <;> simp
    rw [State.getLsbD_fieldWrite s v rfl hmem (by decide) (Nat.le_refl i) (Nat.le_refl i)]
    simp [bitAfter, h2]
  · rw [State.getLsbD_fieldWrite_reserved s v rfl hi (by rw [hfs]; simp; omega)]
    simp [h2]

/-- W1C bits clear where 1 is written and the bit was set when the instant began, and reserved bits stay. -/
theorem State.rd_fieldWrite_supFlt (s : State) (v : Word) :
    (s.fieldWrite SUP_FLT.addr v).rd SUP_FLT = s.rd SUP_FLT &&& ~~~(v &&& 0xF &&& s.rdWas SUP_FLT) := by
  have hfs : fieldsAt SUP_FLT.addr = [(3, 3, .w1c), (2, 2, .w1c), (1, 1, .w1c), (0, 0, .w1c)] := by decide
  have hmask : ∀ i : Fin 32, (0xF : Word).getLsbD i = decide (i.val < 4) := by decide
  refine BitVec.eq_of_getLsbD_eq fun i hi => ?_
  rw [BitVec.getLsbD_and, BitVec.getLsbD_not, BitVec.getLsbD_and, BitVec.getLsbD_and, hmask ⟨i, hi⟩]
  by_cases h4 : i < 4
  · have hmem : (i, i, .w1c) ∈ fieldsAt SUP_FLT.addr := by
      rw [hfs]
      interval_cases i <;> simp
    rw [State.getLsbD_fieldWrite s v rfl hmem (by decide) (Nat.le_refl i) (Nat.le_refl i)]
    simp [bitAfter, h4, hi]
  · rw [State.getLsbD_fieldWrite_reserved s v rfl hi (by rw [hfs]; simp; omega)]
    simp [h4, hi]

/-- A register that is one RWL field takes the value while it is unlocked. -/
theorem State.rd_fieldWrite_ethMac0 (s : State) (v : Word) :
    (s.fieldWrite ETH_MAC0.addr v).rd ETH_MAC0 = if s.is ETH_LOCK_LOCK then s.rd ETH_MAC0 else v := by
  refine BitVec.eq_of_getLsbD_eq fun i hi => ?_
  rw [State.getLsbD_fieldWrite s v (hi := 31) (lo := 0) (acc := .rwl) rfl (by decide) (by decide) (Nat.zero_le i) (by omega)]
  show (if s.is ETH_LOCK_LOCK then _ else _) = _
  split <;> rfl

theorem word_and_low16_eq_zero (v : Word) : v &&& 0xFFFF = 0 ↔ bitsOf 15 0 v.toNat = 0 := by
  have hand : (v &&& 0xFFFF).toNat = v.toNat % 2 ^ 16 := Nat.and_two_pow_sub_one_eq_mod v.toNat 16
  rw [← BitVec.toNat_inj, hand, bitsOf]
  simp

/-- A write that is not 0 takes from a count what it held when the instant began. -/
theorem State.get_fieldWrite_tcmcollCnt (s : State) (v : Word) :
    (s.fieldWrite CEC_TCMCOLL_CNT.addr v).get CEC_TCMCOLL_CNT_COUNT = if v &&& 0xFFFF = 0 then s.get CEC_TCMCOLL_CNT_COUNT
      else s.get CEC_TCMCOLL_CNT_COUNT - bitsOf 15 0 (s.rdWas CEC_TCMCOLL_CNT).toNat := by
  rw [State.get_fieldWrite s v (f := CEC_TCMCOLL_CNT_COUNT) (acc := .cnt) rfl (by decide)]
  simp only [accessValue, beq_iff_eq, word_and_low16_eq_zero]

/-- The registers of the Ethernet window have no effects of their own. -/
theorem State.regWrite_ethernet (s : State) (ini : Initiator) {a : Nat} (v : Word) (hlo : 0x60100000 ≤ a) (hhi : a < 0x60200000) :
    s.regWrite ini a v = s.fieldWrite a v := by
  have hwin : ∀ lo hi, hi ≤ 0x60100000 ∨ 0x60200000 ≤ lo → inWin lo hi a = false := fun lo hi h => by simp [inWin]; omega
  have hge : ∀ b ≤ 0x60100000, ¬ a < b := fun b hb => by omega
  simp [State.regWrite, hwin, hge]

/-- The bus refuses a 32-bit write to no listed window, to one whose domain is off, at no multiple of 4, or not granted. -/
theorem State.busOk_refused {s : State} {ini : Initiator} {a : Nat}
    (h : windowDomain a = none ∨ (∃ d, windowDomain a = some d ∧ s.isOn d = false) ∨ (0x40000000 ≤ a ∧ a % 4 ≠ 0) ∨
      (∃ n : Fin 8, ini = .ce n ∧ s.ceGrant n.val a true = false)) : s.busOk ini a true = false := by
  unfold State.busOk
  rcases h with hw | ⟨d, hw, hd⟩ | ⟨hlo, h4⟩ | ⟨n, rfl, hg⟩
  · simp [hw]
  · simp [hw, hd]
  · simp [h4, Nat.not_lt.mpr hlo]
  · simp [hg]

/-- Settles O12: the field laws of `State.fieldWrite` at one register of each access code, and the bus rules elsewhere. -/
theorem accessCodesDecideWhatAWriteDoes : Obligations.AccessCodesDecideWhatAWriteDoes := by
  unfold Obligations.AccessCodesDecideWhatAWriteDoes
  refine ⟨?rw, ?ro, ?rwl, ?w1c, ?cnt, ?unlisted, ?standing, ?refused⟩
  case rw =>
    intro s ini v h
    exact ⟨_, exec_registerWrite_fields h rfl rfl, State.rd_fieldWrite_gptpCfg s v, State.onlyRegs_fieldWrite _ _ _⟩
  case ro =>
    intro s ini v h
    have hro : ∀ f ∈ fieldsAt TB_OFFSET_LO.addr, f.2.2 = .ro := by decide
    exact ⟨_, exec_registerWrite_fields h rfl rfl, State.rd_fieldWrite_kept s v rfl fun f hf => .inl (hro f hf),
      State.onlyRegs_fieldWrite _ _ _⟩
  case rwl =>
    intro s ini v h
    exact ⟨_, exec_registerWrite_fields h rfl rfl, State.rd_fieldWrite_ethMac0 s v, State.onlyRegs_fieldWrite _ _ _⟩
  case w1c =>
    intro s ini v h
    exact ⟨_, exec_registerWrite_fields h rfl rfl, State.rd_fieldWrite_supFlt s v, State.onlyRegs_fieldWrite _ _ _⟩
  case cnt =>
    intro s ini v h
    exact ⟨_, exec_registerWrite_fields h rfl rfl, State.get_fieldWrite_tcmcollCnt s v, State.onlyRegs_fieldWrite _ _ _⟩
  case unlisted =>
    intro s ini addr v h hlo hhi hrow
    have hm : isMemory addr.toNat = false := by simp [isMemory, inWin]; omega
    refine ⟨s, ?_, rfl⟩
    rw [exec_registerWrite, State.busWrite_of_reaches h, State.blockStore_of_not_isMemory _ _ _ hm,
      State.regWrite_ethernet _ _ _ hlo hhi, State.fieldWrite_unlisted _ _ hrow, ite_self]
  case standing =>
    intro s ini addr v h
    exact ⟨s, by rw [exec_registerWrite, State.busWrite_of_not_answers h], rfl⟩
  case refused =>
    intro s ini addr v ha h
    exact ⟨_, by rw [exec_registerWrite, State.busWrite_of_not_busOk ha (State.busOk_refused h)], rfl⟩

end Sys2Proof.Machine
end

section
/-! SUPPORT. The registers that the trips of a PWM module and the driver of a gate channel write: every other register keeps its
value while they act. -/

namespace Sys2Proof.Machine

variable {s : State} {r : Reg} {k g : Nat}

/-- Two ways to go on that leave a register at the same value. -/
theorem ite_rd {c : Prop} [Decidable c] {t u : State} {v : Word} (ht : t.rd r = v) (hu : u.rd r = v) : (if c then t else u).rd r = v := by
  split
  · exact ht
  · exact hu

/-! ### Trips and references of a PWM module -/

/-- The registers that a module's outputs, trips and events write. -/
def pwmActs (k : Nat) : List Nat := [(PWM_STATUS k).addr, (PWM_CNT0 k).addr, EVL_STATUS.addr]

theorem ne_pwmStatus (h : r.addr ∉ pwmActs k) : r.addr ≠ (PWM_STATUS k).addr := by
  intro e
  exact h (e ▸ List.mem_cons_self)

theorem State.pwmEvent_rd (h : r.addr ≠ EVL_STATUS.addr) {b data : Nat} {typ : Option Nat} :
    (s.pwmEvent k b typ data).rd r = s.rd r := by
  unfold State.pwmEvent
  cases typ with
  | none => exact State.irqIf_rd
  | some t => exact State.irqIf_rd.trans (State.log_rd h)

@[simp] theorem State.setPwm_rd {p : PwmMod} : (s.setPwm k p).rd r = s.rd r := rfl
@[simp] theorem State.setPwmO_rd {x : Side} {o : PwmOut} : (s.setPwmO k x o).rd r = s.rd r := rfl

theorem outFld_reg (k : Nat) (x : Side) : (outFld k x).reg = PWM_STATUS k := by cases x <;> rfl
theorem dtsupFld_reg (k : Nat) (x : Side) : (dtsupFld k x).reg = PWM_STATUS k := by cases x <;> rfl

theorem State.put_rd_of_reg {f : Fld} {q : Reg} {v : Nat} (hf : f.reg = q) (h : r.addr ≠ q.addr) : (s.put f v).rd r = s.rd r :=
  State.rd_put_ne s v (hf ▸ h)

theorem State.pwmTurnOff_rd (h : r.addr ∉ pwmActs k) {x : Side} {t : Int} : (s.pwmTurnOff k x t).rd r = s.rd r := by
  have hput : (s.put (outFld k x) 0).rd r = s.rd r := State.put_rd_of_reg (outFld_reg k x) (ne_pwmStatus h)
  unfold State.pwmTurnOff
  dsimp only
  split
  · split <;> simp [hput]
  · simp [hput]

theorem State.pwmFall_rd (h : r.addr ∉ pwmActs k) {x : Side} {t : Int} : (s.pwmFall k x t).rd r = s.rd r := by
  have h' := h
  simp only [pwmActs, List.mem_cons, List.not_mem_nil, or_false, not_or] at h'
  obtain ⟨hst, hcnt, hevl⟩ := h'
  unfold State.pwmFall
  dsimp only
  split
  · split
    · split <;> simp [State.pwmTurnOff_rd h]
    · simp [State.pwmTurnOff_rd h]
  · split
    · rw [State.pwmEvent_rd hevl, State.put_rd_of_reg (dtsupFld_reg k x) hst, State.inc_rd hcnt, State.setPwmO_rd]
    · simp

theorem State.pwmRise_rd {x : Side} {t : Int} : (s.pwmRise k x t).rd r = s.rd r := by
  unfold State.pwmRise
  dsimp only
  split <;> simp

theorem State.pwmKill_rd (h : r.addr ∉ pwmActs k) {x : Side} {t : Int} : (s.pwmKill k x t).rd r = s.rd r := by
  unfold State.pwmKill
  dsimp only
  split <;> simp [State.pwmTurnOff_rd h]

theorem State.pwmEval_rd (h : r.addr ∉ pwmActs k) {x : Side} {fallsOnly : Bool} {t : Int} :
    (s.pwmEval k x fallsOnly t).rd r = s.rd r := by
  unfold State.pwmEval
  dsimp only
  split
  · simp [State.pwmKill_rd h]
  · split
    · exact State.pwmFall_rd h
    · split
      · rfl
      · split
        · exact State.pwmRise_rd
        · rfl

theorem State.pwmApply_rd (h : r.addr ∉ pwmActs k) {t : Int} : (s.pwmApply k t).rd r = s.rd r := by
  simp [State.pwmApply, State.pwmEval_rd h]

theorem State.tripArm_rd {i : Nat} : (s.tripArm k i).rd r = s.rd r := by
  unfold State.tripArm
  split <;> simp

theorem State.tripConf_rd (h : r.addr ∉ pwmActs k) : (s.tripConf k).rd r = s.rd r := by
  unfold State.tripConf
  split
  · exact State.rd_put_ne s _ (ne_pwmStatus h)
  · rfl

theorem State.tripStart_rd (h : r.addr ∉ pwmActs k) {i : Nat} : (s.tripStart k i).rd r = s.rd r := by
  have hevl : r.addr ≠ EVL_STATUS.addr := fun e => h (e ▸ by simp [pwmActs])
  unfold State.tripStart
  dsimp only
  split
  · split
    · rw [State.pwmEvent_rd hevl, State.pwmApply_rd h, State.tripConf_rd h, State.tripArm_rd, State.putFldBit_rd (ne_pwmStatus h)]
    · rw [State.pwmApply_rd h, State.tripConf_rd h, State.tripArm_rd, State.putFldBit_rd (ne_pwmStatus h)]
  · rfl

theorem foldl_rd {α : Type} (f : State → α → State) (l : List α) (hf : ∀ s, ∀ x ∈ l, (f s x).rd r = s.rd r) (s : State) :
    (l.foldl f s).rd r = s.rd r :=
  List.foldlRecOn l f (motive := fun t => t.rd r = s.rd r) rfl fun t ht x hx => (hf t x hx).trans ht

/-- The effects of a routing write reach no register but the modules' own and EVL_STATUS (R191). -/
theorem State.tripScan_rd (h : ∀ k < 32, r.addr ∉ pwmActs k) : s.tripScan.rd r = s.rd r :=
  foldl_rd _ _ (fun _ i hi => State.tripStart_rd (h (i / 4) (by have := List.mem_range.mp hi; omega))) s

/-! ### Driver of a gate channel -/

/-- The registers that the command path and the driver of a channel write. -/
def gateActs (g : Nat) : List Nat :=
  [(GD_STATUS g).addr, (GD_CNT0 g).addr, (GD_CNT1 g).addr, (GD_EDGE_ON g).addr, (GD_EDGE_OFF g).addr, (GD_LEVELS g).addr,
    (GD_LOOPSTAT g).addr, (GD_PROFILE_ON_EFF g).addr, (GD_PROFILE_OFF_EFF g).addr, (GD_PFLT g).addr, EVL_STATUS.addr]

theorem ne_of_gateActs (h : r.addr ∉ gateActs g) {a : Nat} (ha : a ∈ gateActs g) : r.addr ≠ a := fun e => h (e ▸ ha)

theorem ne_gdStatus (h : r.addr ∉ gateActs g) : r.addr ≠ (GD_STATUS g).addr := ne_of_gateActs h List.mem_cons_self

@[simp] theorem State.setGate_rd {c : GateCh} : (s.setGate g c).rd r = s.rd r := rfl
@[simp] theorem State.setPhase_rd {p : Nat} : (s.setPhase g p).rd r = s.rd r := rfl
@[simp] theorem State.edgeSpoil_rd : (s.edgeSpoil g).rd r = s.rd r := rfl

theorem profFld_mem (g : Nat) (on : Bool) : (profFld g on).addr ∈ gateActs g := by cases on <;> simp [profFld, gateActs]
theorem edgeReg_mem (g : Nat) (on : Bool) : (edgeReg g on).addr ∈ gateActs g := by cases on <;> simp [edgeReg, gateActs]
theorem nFld_mem (g : Nat) (on : Bool) : (nFld g on).reg.addr ∈ gateActs g := by cases on <;> simp [nFld, gateActs]
theorem runFld_mem (g : Nat) (on : Bool) : (runFld g on).reg.addr ∈ gateActs g := by cases on <;> simp [runFld, gateActs]

theorem State.takeProfile_rd (h : r.addr ∉ gateActs g) {on : Bool} : (s.takeProfile g on).rd r = s.rd r := by
  have hwr : ∀ (t : State) v, (t.wr (profFld g on) v).rd r = t.rd r :=
    fun t v => State.rd_wr_ne t v (ne_of_gateActs h (profFld_mem g on))
  have hn : ∀ (t : State) v, (t.put (nFld g on) v).rd r = t.rd r :=
    fun t v => State.rd_put_ne t v (ne_of_gateActs h (nFld_mem g on))
  have hrun : ∀ (t : State) v, (t.put (runFld g on) v).rd r = t.rd r :=
    fun t v => State.rd_put_ne t v (ne_of_gateActs h (runFld_mem g on))
  unfold State.takeProfile
  extract_lets c sh due rest t u
  have hu : u.rd r = s.rd r := by
    dsimp only [u]
    split
    · exact hwr t _
    · rfl
  split
  · rw [hrun, hn, State.setGate_rd, hu]
  · exact hu

theorem State.edgeInvalid_rd (h : r.addr ∉ gateActs g) {on : Bool} {n cause : Nat} : (s.edgeInvalid g on n cause).rd r = s.rd r := by
  unfold State.edgeInvalid
  dsimp only
  rw [State.inc_rd (ne_of_gateActs h (by simp [gateActs])), State.rd_wr_ne _ _ (ne_of_gateActs h (edgeReg_mem g on)), State.useFree_rd]

theorem State.edgeAbandon_rd (h : r.addr ∉ gateActs g) {on : Bool} : (s.edgeAbandon g on).rd r = s.rd r := by
  unfold State.edgeAbandon
  dsimp only
  split
  · rw [State.edgeInvalid_rd h, State.setGate_rd]
  · rfl

theorem State.storeLevel_rd (h : r.addr ∉ gateActs g) {on : Bool} {level : Nat} : (s.storeLevel g on level).rd r = s.rd r := by
  have hput : ∀ f : Fld, f.reg = GD_LEVELS g → ∀ t : State, (t.put f level).rd r = t.rd r :=
    fun f hf t => State.put_rd_of_reg hf (ne_of_gateActs h (by simp [gateActs]))
  unfold State.storeLevel
  dsimp only
  split
  · split
    · rw [hput _ rfl, State.setGate_rd]
    · rw [hput _ rfl, State.setGate_rd]
  · rfl

theorem State.edgeStart_rd (h : r.addr ∉ gateActs g) {on : Bool} {level : Nat} : (s.edgeStart g on level).rd r = s.rd r := by
  have hpflt : r.addr ≠ (GD_PFLT g).addr := ne_of_gateActs h (by simp [gateActs])
  unfold State.edgeStart
  dsimp only
  split
  · rw [State.rd_put_ne _ _ hpflt, State.putB_rd (ne_gdStatus h), State.setPhase_rd, State.setGate_rd, State.takeProfile_rd h,
      State.storeLevel_rd h, State.edgeAbandon_rd h]
  · rw [State.putB_rd (ne_gdStatus h), State.setPhase_rd, State.setGate_rd, State.takeProfile_rd h, State.storeLevel_rd h,
      State.edgeAbandon_rd h]

theorem State.driveIso_rd (h : r.addr ∉ gateActs g) {rx : Bool} {level : Nat} : (s.driveIso g rx level).rd r = s.rd r := by
  unfold State.driveIso
  split
  · split
    · rfl
    · exact State.edgeStart_rd h
  · split
    · exact State.edgeStart_rd h
    · rfl

theorem State.driveHigh_rd (h : r.addr ∉ gateActs g) {rx : Bool} : (s.driveHigh g rx).rd r = s.rd r := by
  have hput : ∀ (t : State) v, (t.put (GD_STATUS_GATE g) v).rd r = t.rd r := fun t v => State.rd_put_ne t v (ne_gdStatus h)
  unfold State.driveHigh
  dsimp only
  split
  · split
    · rfl
    · rw [hput, State.setGate_rd]
  · rw [hput]
    split <;> simp

theorem State.gateFollow_rd (h : r.addr ∉ gateActs g) {level : Nat} : (s.gateFollow g level).rd r = s.rd r := by
  unfold State.gateFollow
  extract_lets f forced spoilt eff c followed c₁ ended rx was c₂ driven
  have hforced : forced.rd r = s.rd r := State.putB_rd (ne_gdStatus h)
  have hspoilt : spoilt.rd r = s.rd r := ite_rd hforced hforced
  have hfollowed : followed.rd r = s.rd r := ite_rd hspoilt hspoilt
  have hended : ended.rd r = s.rd r :=
    ite_rd (by rw [State.rd_put_ne _ _ (ne_gdStatus h), State.rd_put_ne _ _ (ne_gdStatus h), State.setGate_rd, hfollowed]) hfollowed
  have hdriven : driven.rd r = s.rd r := ite_rd hended hended
  refine ite_rd (ite_rd hdriven ?_) (ite_rd (ite_rd hdriven ?_) ?_)
  · exact (State.driveIso_rd h).trans hdriven
  · exact (State.driveHigh_rd h).trans hdriven
  · exact (State.putB_rd (ne_gdStatus h)).trans hdriven

theorem State.ilkRefuse_rd (h : r.addr ∉ gateActs g) : (s.ilkRefuse g).rd r = s.rd r := by
  unfold State.ilkRefuse
  dsimp only
  rw [State.log_rd (ne_of_gateActs h (by simp [gateActs])), State.inc_rd (ne_of_gateActs h (by simp [gateActs])),
    State.rd_put_ne _ _ (ne_gdStatus h), State.setGate_rd]

theorem State.gateOn_rd (h : r.addr ∉ gateActs g) {near : Bool} {level : Nat} : (s.gateOn g near level).rd r = s.rd r := by
  unfold State.gateOn
  dsimp only
  split
  · rw [State.ilkRefuse_rd h, State.setGate_rd]
  · rw [State.gateFollow_rd h, State.rd_put_ne _ _ (ne_gdStatus h), State.setGate_rd]

theorem State.gateCommand_rd (h : r.addr ∉ gateActs g) {short near : Bool} {level : Nat} :
    (s.gateCommand g short near level).rd r = s.rd r := by
  unfold State.gateCommand
  dsimp only
  split
  · split
    · rfl
    · split
      · split
        · rfl
        · exact State.gateOn_rd h
      · exact State.gateOn_rd h
  · split
    · rw [State.gateFollow_rd h, State.rd_put_ne _ _ (ne_gdStatus h), State.setGate_rd]
    · split <;> rfl

end Sys2Proof.Machine
end

section
/-! SUPPORT. What a write to a locked register leaves (R16, R24, R60, R191), and the statement about it. -/

namespace Sys2Proof.Machine

/-- A register whose fields are all RWL keeps its value while its block's lock is set (R16). -/
theorem State.rd_fieldWrite_locked {s : State} {r : Reg} (v : Word) (hr : regAt r.addr = r) (hf : ∀ f ∈ fieldsAt r.addr, f.2.2 = .rwl)
    (hl : s.locked r.addr = true) : (s.fieldWrite r.addr v).rd r = s.rd r :=
  State.rd_fieldWrite_kept s v hr fun f h => .inr ⟨hf f h, hl⟩

/-! ### The owner map, gate configurations and trip selections -/

theorem gdCfg_addr (g : Nat) : (GD_CFG g).addr = 0x40100000 + g * 0x100 := rfl

theorem trnSel_addr (k : Nat) : (TRN_SEL k).addr = 0x40302000 + k * 0x4 := rfl

theorem regAt_pwmown (m : Fin 4) : regAt (CEC_PWMOWN m.val).addr = CEC_PWMOWN m.val := by
  revert m
  decide

theorem pwmown_rwl (m : Fin 4) : ∀ f ∈ fieldsAt (CEC_PWMOWN m.val).addr, f.2.2 = .rwl := by
  revert m
  decide

theorem isRegister_gdCfg (g : Fin 64) : isRegister (GD_CFG g.val).addr = true := by
  revert g
  decide

theorem regAt_gdCfg (g : Fin 64) : regAt (GD_CFG g.val).addr = GD_CFG g.val := by
  revert g
  decide

theorem gdCfg_rwl (g : Fin 64) : ∀ f ∈ fieldsAt (GD_CFG g.val).addr, f.2.2 = .rwl := by
  revert g
  decide

theorem regAt_trnSel (k : Fin 32) : regAt (TRN_SEL k.val).addr = TRN_SEL k.val := by
  revert k
  decide

theorem trnSel_rwl (k : Fin 32) : ∀ f ∈ fieldsAt (TRN_SEL k.val).addr, f.2.2 = .rwl := by
  revert k
  decide

/-! ### The windows -/

theorem State.regWrite_pwmown (s : State) (ini : Initiator) (m : Fin 4) (v : Word) :
    s.regWrite ini (CEC_PWMOWN m.val).addr v = s.fieldWrite (CEC_PWMOWN m.val).addr v := by
  fin_cases m <;> rfl

theorem State.locked_pwmown (s : State) (m : Fin 4) : s.locked (CEC_PWMOWN m.val).addr = s.is CEC_LOCK_OWN_LOCK := by
  fin_cases m <;> rfl

/-- A policy write keeps the register it names while the policy is locked, also where it is refused (R60). -/
theorem State.policyWrite_rd_locked {s : State} {sel : Nat} (v : Word) (hsel : sel ≠ 2) (hr : regAt (policyReg sel).addr = policyReg sel)
    (hf : ∀ f ∈ fieldsAt (policyReg sel).addr, f.2.2 = .rwl) (hl : s.locked (policyReg sel).addr = true)
    (hne : (policyReg sel).addr ≠ MDM_LOCK.addr) : (s.policyWrite sel v).rd (policyReg sel) = s.rd (policyReg sel) := by
  unfold State.policyWrite
  dsimp only
  refine ite_rd (State.rd_put_ne (f := MDM_LOCK_WR_IGN) _ _ hne) ?_
  rw [if_neg (by simpa using hsel)]
  exact State.rd_fieldWrite_locked v hr hf hl

theorem gdCfg_not_acts (g : Nat) : (GD_CFG g).addr ∉ gateActs g := by
  simp only [gateActs, List.mem_cons, List.not_mem_nil, or_false, not_or]
  omega

/-- A channel's configuration register at its window's write: an absent channel ignores it (R6). -/
theorem State.regWrite_gdCfg (s : State) (ini : Initiator) (g : Fin 64) (v : Word) :
    s.regWrite ini (GD_CFG g.val).addr v = if s.gatePopulated g.val then s.gdCfgWrite g.val v else s := by
  have ha := gdCfg_addr g.val
  have hw : s.regWrite ini (GD_CFG g.val).addr v = s.gdWindow (GD_CFG g.val).addr v := by
    unfold State.regWrite
    rw [if_neg (by omega), if_pos (by omega)]
  have ho : (0x40100000 + g.val * 0x100) % 0x100 = 0 := by omega
  have hlt : 0x40100000 + g.val * 0x100 < 0x40104000 := by omega
  rw [hw]
  cases h : s.gatePopulated g.val <;> simp [State.gdWindow, ho, hlt, h]

/-- A locked configuration write leaves the configuration, whatever the channel's command then does. -/
theorem State.gdCfgWrite_rd_locked {s : State} (g : Fin 64) (v : Word) (hl : s.is GDG_LOCK_CFG_LOCK = true) :
    (s.gdCfgWrite g.val v).rd (GD_CFG g.val) = s.rd (GD_CFG g.val) := by
  have hlock : s.locked (GD_CFG g.val).addr = true := by
    have ha := gdCfg_addr g.val
    unfold State.locked
    rw [if_pos (by omega), hl]
  unfold State.gdCfgWrite
  rw [State.useFree_rd, State.gateCommand_rd (gdCfg_not_acts g.val), State.rd_fieldWrite_locked v (regAt_gdCfg g) (gdCfg_rwl g) hlock]

theorem trnSel_not_acts (j : Fin 32) {k : Nat} (hk : k < 32) : (TRN_SEL j.val).addr ∉ pwmActs k := by
  simp only [pwmActs, List.mem_cons, List.not_mem_nil, or_false, not_or]
  omega

/-- A locked routing write leaves the routing, whatever trips it starts (R191). -/
theorem State.routeWrite_rd_locked {s : State} (k : Fin 32) (v : Word) (hl : s.is TRN_LOCK_LOCK = true) :
    (s.routeWrite (TRN_SEL k.val).addr v).rd (TRN_SEL k.val) = s.rd (TRN_SEL k.val) := by
  have ha := trnSel_addr k.val
  have hlock : s.locked (TRN_SEL k.val).addr = true := by
    unfold State.locked
    rw [if_neg (by omega), if_neg (by omega), if_neg (by omega), if_pos (by omega), hl]
  have hpad : ((TRN_SEL k.val).addr == TRN_PADCFG.addr) = false := beq_false_of_ne (by simp only [ne_eq]; omega)
  unfold State.routeWrite
  rw [hpad, State.tripScan_rd fun j hj => trnSel_not_acts k hj]
  exact State.rd_fieldWrite_locked v (regAt_trnSel k) (trnSel_rwl k) hlock

/-- Settles O11: RWL fields do not take a value while locked, and no effect of such a write reaches its register. -/
theorem lockedFieldsKeepTheirValues : Obligations.LockedFieldsKeepTheirValues := by
  unfold Obligations.LockedFieldsKeepTheirValues
  refine ⟨?lock, ?owner, ?plug, ?pair, ?gate, ?route, ?mac⟩
  case lock =>
    intro s ini v h hl
    exact ⟨_, exec_registerWrite_fields h rfl rfl, State.rd_fieldWrite_locked v rfl (by decide) hl⟩
  case owner =>
    intro s ini m v h hl
    have ha : isRegister (CEC_PWMOWN m.val).addr = true := by fin_cases m <;> rfl
    exact ⟨_, exec_registerWrite_fields h ha (State.regWrite_pwmown s ini m v),
      State.rd_fieldWrite_locked v (regAt_pwmown m) (pwmown_rwl m) ((State.locked_pwmown s m).trans hl)⟩
  case plug =>
    intro s ini v h hl
    exact ⟨_, exec_registerWrite_of_reaches v h rfl,
      State.policyWrite_rd_locked (sel := 0) v (by decide) rfl (by decide) hl (by decide)⟩
  case pair =>
    intro s ini v h hl
    exact ⟨_, exec_registerWrite_of_reaches v h rfl,
      State.policyWrite_rd_locked (sel := 1) v (by decide) rfl (by decide) hl (by decide)⟩
  case gate =>
    intro s ini g v h hl
    refine ⟨_, exec_registerWrite_of_reaches v h (isRegister_gdCfg g), ?_⟩
    rw [State.regWrite_gdCfg]
    exact ite_rd (State.gdCfgWrite_rd_locked g v hl) rfl
  case route =>
    intro s ini k v h hl
    have ha := trnSel_addr k.val
    have haddr : (BitVec.ofNat 32 (TRN_SEL k.val).addr).toNat = (TRN_SEL k.val).addr := Nat.mod_eq_of_lt (by omega)
    have hreg : isRouteReg (TRN_SEL k.val).addr = true := by
      simp [isRouteReg]
      omega
    refine ⟨s.routeWrite (TRN_SEL k.val).addr v, ?_, State.routeWrite_rd_locked k v hl⟩
    show Host.Outcome.next (if isRouteReg (BitVec.ofNat 32 (TRN_SEL k.val).addr).toNat then _ else s) = _
    rw [haddr, if_pos hreg, State.busWrite_of_reaches h]
  case mac =>
    intro s ini v h hl
    exact ⟨_, exec_registerWrite_fields h rfl rfl, State.rd_fieldWrite_locked v rfl (by decide) hl⟩

end Sys2Proof.Machine
end

section
/-! SUPPORT. Counts that saturate and one-bit fields after a write to their register, and the units of a block after an operation
on each of them. -/

namespace Sys2Proof.Machine

variable {s : State} {f g : Fld}

theorem State.get_lt_size (s : State) (f : Fld) : s.get f < f.size := bitsOf_lt _ _ _

/-- A count holds one more, up to its largest value. -/
theorem State.get_inc_self (hl : f.lo ≤ f.hi) (hh : f.hi < 32) : (s.inc f).get f = min (s.get f + 1) (f.size - 1) := by
  have hlt := s.get_lt_size f
  unfold State.inc
  split
  · next h =>
    rw [State.get_put_self s f _ hl hh, Nat.mod_eq_of_lt h]
    omega
  · omega

/-- Two fields of one register that have no bit in common. -/
structure Fld.Apart (g f : Fld) : Prop where
  reg : g.reg = f.reg
  bits : f.lo ≤ f.hi ∧ g.lo ≤ g.hi ∧ g.hi < 32 ∧ (g.hi < f.lo ∨ f.hi < g.lo)

theorem Fld.Apart.get_put (h : g.Apart f) (s : State) (v : Nat) : (s.put f v).get g = s.get g := by
  obtain ⟨hr, hl, hg, hgh, hd⟩ := h
  exact State.get_put_disjoint s v (hr ▸ rfl) (hr ▸ rfl) hl hg hgh hd

theorem Fld.Apart.is_put (h : g.Apart f) (s : State) (v : Nat) : (s.put f v).is g = s.is g := by
  rw [State.is, h.get_put, State.is]

theorem Fld.Apart.is_inc (h : g.Apart f) (s : State) : (s.inc f).is g = s.is g := by
  unfold State.inc
  split
  · exact h.is_put s _
  · rfl

theorem State.is_putB_self (b : Bool) (hf : f.lo = f.hi) (hh : f.hi < 32) : (s.putB f b).is f = b := by
  rw [State.putB, State.is_put_self _ (Nat.le_of_eq hf) hh, Fld.size, hf, Nat.add_sub_cancel_left]
  cases b <;> rfl

/-- An operation on each of the m units of a block, where P holds of every state it comes through: a unit's part changes in the
unit's own turn alone. -/
theorem foldl_range_at {α : Type} {P : State → Prop} {part : State → Nat → α} {next : Nat → α → α} {op : State → Nat → State}
    {m : Nat} (hP : ∀ t, ∀ i < m, P t → P (op t i)) (hself : ∀ t, ∀ i < m, P t → part (op t i) i = next i (part t i))
    (hother : ∀ t, ∀ i < m, ∀ j < m, j ≠ i → P t → part (op t i) j = part t j) (hs : P s) {j : Nat} (hj : j < m) :
    part ((List.range m).foldl op s) j = next j (part s j) := by
  have h : ∀ n ≤ m, P ((List.range n).foldl op s) ∧
      part ((List.range n).foldl op s) j = if j < n then next j (part s j) else part s j := by
    intro n
    induction n with
    | zero => exact fun _ => ⟨hs, rfl⟩
    | succ n ih =>
      intro hn
      obtain ⟨hPn, hpart⟩ := ih (by omega)
      rw [List.range_succ, List.foldl_append, List.foldl_cons, List.foldl_nil]
      refine ⟨hP _ n (by omega) hPn, ?_⟩
      by_cases hjn : j = n
      · subst hjn
        rw [hself _ j (by omega) hPn, hpart, if_neg (Nat.lt_irrefl j), if_pos (Nat.lt_succ_self j)]
      · rw [hother _ n (by omega) j hj hjn hPn, hpart]
        exact if_congr (by omega) rfl rfl
  exact (h m (Nat.le_refl m)).2.trans (if_pos hj)

end Sys2Proof.Machine
end

section
/-! SUPPORT. Converter lanes, sequence registers and the converter clock (R22, R156–R163), and the statement about them. -/

namespace Sys2Proof.Machine

variable {s : State} {r : Reg} {nn : Nat}

/-! ### Lanes -/

@[simp] theorem State.setLane_rd {l : AdLane} : (s.setLane nn l).rd r = s.rd r := rfl

theorem State.lane_setLane_self (hlen : s.conv.lanes.length = 24) (n : Fin 24) (l : AdLane) : (s.setLane n.val l).lane n.val = l := by
  simp [State.lane, State.setLane, nth, hlen]

theorem State.lane_of_lanes {t : State} (h : t.conv.lanes = s.conv.lanes) : t.lane nn = s.lane nn := by
  rw [State.lane, h, State.lane]

theorem State.inc_lanes {f : Fld} : (s.inc f).conv.lanes = s.conv.lanes := by
  unfold State.inc
  split <;> rfl

theorem State.adEvent_lanes {n typ : Nat} : (s.adEvent n typ).conv.lanes = s.conv.lanes :=
  congrArg Conv.lanes (State.adEvent_keeps ((keep_conv s.conv).mono (by decide)) rfl)

/-- An event of a converter writes no register but EVL_STATUS. -/
theorem State.adEvent_rd (h : r.addr ≠ EVL_STATUS.addr) {n typ : Nat} : (s.adEvent n typ).rd r = s.rd r :=
  State.irqIf_rd.trans (State.log_rd h)

/-! ### Delivery: window units, captures, resolver channels and the DC link leave the converters' registers and lanes -/

/-- The register stands below those of the window units and captures: it is the converters' own. -/
def Reg.ofConverter (r : Reg) : Prop := 0x40200000 ≤ r.addr ∧ r.addr < 0x40203000

theorem Reg.ofConverter.ne_evlStatus (h : r.ofConverter) : r.addr ≠ EVL_STATUS.addr := by
  obtain ⟨hlo, hhi⟩ := h
  simp only [ne_eq]
  omega

theorem State.wuWord_rd (h : r.ofConverter) {u n slot tag code : Nat} {w : WuWin} {ovr : Bool} :
    (s.wuWord u w n slot tag code ovr).1.rd r = s.rd r := by
  obtain ⟨hlo, hhi⟩ := id h
  have hcnt : r.addr ≠ (WU_LIMCNT u).addr := by simp only [ne_eq]; omega
  unfold State.wuWord
  dsimp only
  split
  · split
    · exact State.irqIf_rd.trans ((State.log_rd h.ne_evlStatus).trans (State.inc_rd hcnt))
    · rfl
  · rfl

theorem State.wuWords_rd (h : r.ofConverter) {u n slot tag code : Nat} {ws : List WuWin} {ovr : Bool} :
    (s.wuWords u n slot tag code ovr ws).1.rd r = s.rd r := by
  induction ws generalizing s with
  | nil => rfl
  | cons w ws ih => exact ih.trans (State.wuWord_rd h)

theorem State.wuFeed_rd (h : r.ofConverter) {u n slot tag code : Nat} {ovr : Bool} :
    (s.wuFeed n slot tag code ovr u).rd r = s.rd r := by
  unfold State.wuFeed
  dsimp only
  split
  · exact (State.wuWord_rd h).trans (State.wuWords_rd h)
  · exact State.wuWords_rd h

theorem State.wuFeed_lanes {u n slot tag code : Nat} {ovr : Bool} : (s.wuFeed n slot tag code ovr u).conv.lanes = s.conv.lanes := by
  have hwords : ∀ ws, (s.wuWords u n slot tag code ovr ws).1.conv = s.conv := fun ws =>
    State.wuWords_keeps ((keep_conv s.conv).mono (by decide)) rfl
  have hword : ∀ (t : State) w, (t.wuWord u w n slot tag code ovr).1.conv = t.conv := fun t w =>
    State.wuWord_keeps ((keep_conv t.conv).mono (by decide)) rfl
  unfold State.wuFeed
  dsimp only
  split <;> simp [State.setWu, hword, hwords]

theorem State.capWord_rd (h : r.ofConverter) {slot tag n : Nat} {w : Word} : (s.capWord nn slot tag w n).rd r = s.rd r := by
  obtain ⟨hlo, hhi⟩ := h
  have hput : ∀ (t : State) (f : Fld) (v : Nat), 0x40203000 ≤ f.reg.addr → (t.put f v).rd r = t.rd r :=
    fun t f v hf => State.rd_put_ne t v (by omega)
  have hst : 0x40203000 ≤ (CAP_STATUS n).addr := by simp only; omega
  have hlo' : 0x40203000 ≤ (CAP_T0LO n).addr := by simp only; omega
  have hhi' : 0x40203000 ≤ (CAP_T0HI n).addr := by simp only; omega
  unfold State.capWord
  dsimp only
  refine ite_rd (ite_rd ?_ (hput _ _ _ hst)) rfl
  refine (hput _ _ _ hst).trans (ite_rd ?_ rfl)
  exact (hput _ _ _ hhi').trans ((hput _ _ _ hlo').trans (hput _ _ _ hst))

theorem State.capWord_lanes {slot tag n : Nat} {w : Word} : (s.capWord nn slot tag w n).conv.lanes = s.conv.lanes := by
  unfold State.capWord
  dsimp only
  split
  · split
    · split <;> rfl
    · rfl
  · rfl

theorem State.resWord_rd {slot code n : Nat} {ovr : Bool} : (s.resWord nn slot code ovr n).rd r = s.rd r :=
  State.resWord_keeps ((keep_rd r (s.rd r)).mono (by decide)) rfl

theorem State.resWord_lanes {slot code n : Nat} {ovr : Bool} : (s.resWord nn slot code ovr n).conv.lanes = s.conv.lanes :=
  congrArg Conv.lanes (State.resWord_keeps ((keep_conv s.conv).mono (by decide)) rfl)

/-- The state in which a word has been stored as its slot's last, with OVR set by its OVR bit. -/
def State.wordStored (s : State) (nn slot word : Nat) : State :=
  let t := s.put (AD_LAST_WORD nn slot) word
  if bitOf 14 word && !t.is (AD_STATUS_OVR nn) then (t.put (AD_STATUS_OVR nn) 1).adEvent nn 0x10 else t

theorem State.wordStored_lanes {slot word : Nat} : (s.wordStored nn slot word).conv.lanes = s.conv.lanes := by
  unfold State.wordStored
  dsimp only
  split
  · exact State.adEvent_lanes
  · rfl

theorem State.deliver_rd (h : r.ofConverter) {slot t tag word : Nat} :
    (s.deliver nn slot t tag word).rd r = (s.wordStored nn slot word).rd r := by
  unfold State.deliver
  extract_lets code ovr stored flagged fed captured resolved conv linked
  have hfed : fed.rd r = flagged.rd r := foldl_rd _ _ (fun _ _ _ => State.wuFeed_rd h) _
  have hcaptured : captured.rd r = fed.rd r := foldl_rd _ _ (fun _ _ _ => State.capWord_rd h) _
  have hresolved : resolved.rd r = captured.rd r := State.resWord_rd.trans State.resWord_rd
  have hflagged : flagged = s.wordStored nn slot word := rfl
  rw [← hflagged]
  have hadded : linked.rd r = resolved.rd r := ite_rd rfl rfl
  have hlinked : linked.rd r = flagged.rd r := hadded.trans (hresolved.trans (hcaptured.trans hfed))
  exact ite_rd hlinked (ite_rd hlinked hlinked)

theorem foldl_lanes {α : Type} (f : State → α → State) (l : List α) (hf : ∀ t x, (f t x).conv.lanes = t.conv.lanes) (s : State) :
    (l.foldl f s).conv.lanes = s.conv.lanes :=
  List.foldlRecOn l f (motive := fun t => t.conv.lanes = s.conv.lanes) rfl fun t ht x _ => (hf t x).trans ht

theorem State.deliver_lanes {slot t tag word : Nat} : (s.deliver nn slot t tag word).conv.lanes = s.conv.lanes := by
  unfold State.deliver
  extract_lets code ovr stored flagged fed captured resolved conv linked
  have hflagged : flagged = s.wordStored nn slot word := rfl
  have hfed : fed.conv.lanes = flagged.conv.lanes := by
    dsimp only [fed]
    exact foldl_lanes _ _ (fun _ _ => State.wuFeed_lanes) _
  have hcaptured : captured.conv.lanes = fed.conv.lanes := by
    dsimp only [captured]
    exact foldl_lanes _ _ (fun _ _ => State.capWord_lanes) _
  have hresolved : resolved.conv.lanes = captured.conv.lanes := State.resWord_lanes.trans State.resWord_lanes
  have hlinked : linked.conv.lanes = s.conv.lanes := by
    dsimp only [linked]
    split <;> exact hresolved.trans (hcaptured.trans (hfed.trans (hflagged ▸ State.wordStored_lanes)))
  split
  · exact hlinked
  · split <;> exact hlinked

/-! ### What a stored word leaves in its slot and in ADnn_STATUS -/

theorem adLast_ofConverter (n : Fin 24) {j : Nat} (hj : j < 8) : (AD_LAST n.val j).ofConverter := by
  simp only [Reg.ofConverter]
  omega

theorem adStatus_ofConverter (n : Fin 24) : (AD_STATUS n.val).ofConverter := by
  simp only [Reg.ofConverter]
  omega

theorem adLast_ne_adStatus {j : Nat} : (AD_LAST nn j).addr ≠ (AD_STATUS nn).addr := by
  simp only [ne_eq]
  omega

theorem State.adEvent_rd_adStatus (n : Fin 24) {m typ : Nat} : (s.adEvent m typ).rd (AD_STATUS n.val) = s.rd (AD_STATUS n.val) :=
  State.adEvent_rd (adStatus_ofConverter n).ne_evlStatus

theorem State.wordStored_get_last (n : Fin 24) {slot word : Nat} (hslot : slot < 8) :
    (s.wordStored n.val slot word).get (AD_LAST_WORD n.val slot) = word % 65536 := by
  have hput : (s.put (AD_LAST_WORD n.val slot) word).get (AD_LAST_WORD n.val slot) = word % 65536 :=
    State.get_put_self _ _ _ (Nat.zero_le _) (by simp)
  unfold State.wordStored
  dsimp only
  split
  · rw [← hput]
    refine State.get_of_rd ((State.adEvent_rd (adLast_ofConverter n hslot).ne_evlStatus).trans ?_)
    exact State.rd_put_ne _ _ adLast_ne_adStatus
  · exact hput

theorem State.wordStored_is_ovr (n : Fin 24) {slot word : Nat} :
    (s.wordStored n.val slot word).is (AD_STATUS_OVR n.val) = (s.is (AD_STATUS_OVR n.val) || word.testBit 14) := by
  have hput : (s.put (AD_LAST_WORD n.val slot) word).is (AD_STATUS_OVR n.val) = s.is (AD_STATUS_OVR n.val) :=
    State.is_of_rd (State.rd_put_ne _ _ adLast_ne_adStatus.symm)
  unfold State.wordStored
  rw [bitOf_eq_testBit]
  dsimp only
  split
  · next h =>
    have hbit : word.testBit 14 = true := (Bool.and_eq_true_iff.mp h).1
    rw [State.is_of_rd (State.adEvent_rd_adStatus n), hbit, Bool.or_true]
    exact State.is_put_self _ (Nat.le_refl _) (by simp)
  · next h =>
    rw [hput] at h ⊢
    simpa using h

theorem State.wordStored_is_active (n : Fin 24) {slot word : Nat} :
    (s.wordStored n.val slot word).is (AD_STATUS_ACTIVE n.val) = s.is (AD_STATUS_ACTIVE n.val) := by
  have hput : (s.put (AD_LAST_WORD n.val slot) word).is (AD_STATUS_ACTIVE n.val) = s.is (AD_STATUS_ACTIVE n.val) :=
    State.is_of_rd (State.rd_put_ne _ _ adLast_ne_adStatus.symm)
  have hapart : (AD_STATUS_ACTIVE n.val).Apart (AD_STATUS_OVR n.val) := ⟨rfl, by simp⟩
  unfold State.wordStored
  dsimp only
  split
  · rw [State.is_of_rd (State.adEvent_rd_adStatus n), hapart.is_put, hput]
  · exact hput

/-! ### A word leaves its lane (R161) -/

/-- D7, the tick and the converter clock run, so that words arrive. -/
def State.wordsArrive (s : State) : Bool := s.isOn 7 && s.ticking && s.is ADG_STATUS_LOCKED

/-- A WRAP word has brought a change of ADnn_CFG.EN into effect (R159). -/
def State.enTaken (s : State) (nn : Nat) (wrap : Bool) : State :=
  if wrap then s.putB (AD_STATUS_ACTIVE nn) (s.is (AD_CFG_EN nn)) else s

theorem State.enTaken_is_active {wrap : Bool} :
    (s.enTaken nn wrap).is (AD_STATUS_ACTIVE nn) = if wrap then s.is (AD_CFG_EN nn) else s.is (AD_STATUS_ACTIVE nn) := by
  cases wrap with
  | false => rfl
  | true => exact State.is_putB_self _ rfl (by simp)

theorem State.enTaken_conv {wrap : Bool} : (s.enTaken nn wrap).conv = s.conv := by cases wrap <;> rfl

theorem State.enTaken_lane {wrap : Bool} : (s.enTaken nn wrap).lane nn = s.lane nn := by cases wrap <;> rfl

theorem State.enTaken_rd {wrap : Bool} (h : r.addr ≠ (AD_STATUS nn).addr) : (s.enTaken nn wrap).rd r = s.rd r := by
  cases wrap with
  | false => rfl
  | true => exact State.putB_rd h

/-- A change of ACTIVE keeps the other fields of ADnn_STATUS. -/
theorem State.enTaken_get {wrap : Bool} {g : Fld} (h : g.Apart (AD_STATUS_ACTIVE nn)) : (s.enTaken nn wrap).get g = s.get g := by
  cases wrap with
  | false => rfl
  | true => exact h.get_put s _

variable {t tag word : Nat}

theorem State.wordTaken_of_not_wordsArrive (h : s.wordsArrive = false) : s.wordTaken nn t tag word = s := by
  unfold State.wordsArrive at h
  simp [State.wordTaken, h]

/-- An inactive converter's word goes nowhere. -/
theorem State.wordTaken_of_inactive (hrun : s.wordsArrive = true)
    (h : (if word.testBit 15 then s.is (AD_CFG_EN nn) else s.is (AD_STATUS_ACTIVE nn)) = false) :
    s.wordTaken nn t tag word = s.enTaken nn (word.testBit 15) := by
  unfold State.wordsArrive at hrun
  rw [← State.enTaken_is_active] at h
  unfold State.wordTaken
  rw [hrun, bitOf_eq_testBit]
  exact if_pos (congrArg (! ·) h)

/-- The state in which a word that disagrees with the slot count has been refused: WRAPERR, a lost word, and the wait for WRAP. -/
def State.wordRefused (s : State) (nn : Nat) : State :=
  let t := (if s.is (AD_STATUS_WRAPERR nn) then s else (s.put (AD_STATUS_WRAPERR nn) 1).adEvent nn 0x11).inc (AD_STATUS_LOSTW nn)
  t.setLane nn { t.lane nn with lost := true }

section
variable (hrun : s.wordsArrive = true)
  (hact : (if word.testBit 15 then s.is (AD_CFG_EN nn) else s.is (AD_STATUS_ACTIVE nn)) = true)

include hrun hact

/-- A lane that waits for a WRAP word counts another word as lost. -/
theorem State.wordTaken_of_waiting (hlost : (s.lane nn).lost = true) (hwrap : word.testBit 15 = false) :
    s.wordTaken nn t tag word = s.inc (AD_STATUS_LOSTW nn) := by
  unfold State.wordsArrive at hrun
  rw [hwrap, if_neg Bool.false_ne_true] at hact
  simp [State.wordTaken, hrun, bitOf_eq_testBit, hwrap, hact, hlost]

/-- A word whose WRAP bit disagrees with the slot count is lost, and the lane waits for a WRAP word. -/
theorem State.wordTaken_of_disagrees (hlost : (s.lane nn).lost = false) (hwrap : word.testBit 15 ≠ ((s.lane nn).slot == 0)) :
    s.wordTaken nn t tag word = (s.enTaken nn (word.testBit 15)).wordRefused nn := by
  unfold State.wordsArrive at hrun
  rw [← State.enTaken_is_active] at hact
  have htaken : (if word.testBit 15 = true then s.putB (AD_STATUS_ACTIVE nn) (s.is (AD_CFG_EN nn)) else s)
      = s.enTaken nn (word.testBit 15) := rfl
  simp [State.wordTaken, hrun, bitOf_eq_testBit, htaken, hact, State.enTaken_lane, hlost, hwrap, State.wordRefused,
    State.lane_of_lanes State.inc_lanes]

/-- Any other word is delivered, and the slot count moves on. -/
theorem State.wordTaken_of_agrees (h : word.testBit 15 = true ∧ (s.lane nn).lost = true ∨
      (s.lane nn).lost = false ∧ word.testBit 15 = ((s.lane nn).slot == 0)) :
    s.wordTaken nn t tag word = (((s.enTaken nn (word.testBit 15)).setLane nn
      { s.lane nn with slot := ((if word.testBit 15 then 0 else (s.lane nn).slot) + 1) % 8, lost := false }).deliver nn
        (if word.testBit 15 then 0 else (s.lane nn).slot) t tag word) := by
  unfold State.wordsArrive at hrun
  rw [← State.enTaken_is_active] at hact
  have htaken : (if word.testBit 15 = true then s.putB (AD_STATUS_ACTIVE nn) (s.is (AD_CFG_EN nn)) else s)
      = s.enTaken nn (word.testBit 15) := rfl
  have hgo : ((s.lane nn).lost && !word.testBit 15) = false ∧
      (!(s.lane nn).lost && word.testBit 15 != ((s.lane nn).slot == 0)) = false := by
    rcases h with ⟨hw, hl⟩ | ⟨hl, hw⟩ <;> simp [hw, hl]
  simp [State.wordTaken, hrun, bitOf_eq_testBit, htaken, hact, State.enTaken_lane, hgo]

end


/-! ### A refused word -/

theorem State.wordRefused_lane (hlen : s.conv.lanes.length = 24) (n : Fin 24) :
    (s.wordRefused n.val).lane n.val = { s.lane n.val with lost := true } := by
  have hlanes : ((if s.is (AD_STATUS_WRAPERR n.val) then s else (s.put (AD_STATUS_WRAPERR n.val) 1).adEvent n.val 0x11).inc
      (AD_STATUS_LOSTW n.val)).conv.lanes = s.conv.lanes := by
    rw [State.inc_lanes]
    split
    · rfl
    · exact State.adEvent_lanes
  unfold State.wordRefused
  dsimp only
  rw [State.lane_setLane_self ((congrArg List.length hlanes).trans hlen), State.lane_of_lanes hlanes]

theorem State.wordRefused_rd (h : r.addr ≠ (AD_STATUS nn).addr) (hevl : r.addr ≠ EVL_STATUS.addr) :
    (s.wordRefused nn).rd r = s.rd r := by
  unfold State.wordRefused
  dsimp only
  rw [State.setLane_rd, State.inc_rd h]
  exact ite_rd rfl ((State.adEvent_rd hevl).trans (State.rd_put_ne _ _ h))

theorem State.wordRefused_is_wraperr (n : Fin 24) : (s.wordRefused n.val).is (AD_STATUS_WRAPERR n.val) = true := by
  have hapart : (AD_STATUS_WRAPERR n.val).Apart (AD_STATUS_LOSTW n.val) := ⟨rfl, by simp⟩
  unfold State.wordRefused
  dsimp only
  rw [State.is_of_rd State.setLane_rd, hapart.is_inc]
  split
  · assumption
  · rw [State.is_of_rd (State.adEvent_rd_adStatus n)]
    exact State.is_put_self _ (Nat.le_refl _) (by simp)

theorem State.wordRefused_get_lostw (n : Fin 24) :
    (s.wordRefused n.val).get (AD_STATUS_LOSTW n.val) = min (s.get (AD_STATUS_LOSTW n.val) + 1) 65535 := by
  have hapart : (AD_STATUS_LOSTW n.val).Apart (AD_STATUS_WRAPERR n.val) := ⟨rfl, by simp⟩
  unfold State.wordRefused
  dsimp only
  rw [State.get_of_rd State.setLane_rd, State.get_inc_self (by simp) (by simp)]
  split
  · rfl
  · rw [State.get_of_rd (State.adEvent_rd_adStatus n), hapart.get_put]
    rfl

/-! ### Arrivals (R22) -/

/-- The state in which the sample of edge e on a lane has been taken off it. -/
def State.edgeTaken (s : State) (nn : Nat) (e : AdEdge) : State := s.setLane nn { s.lane nn with next := e.num + 1 }

theorem exec_wordArrival_due {nn : Fin 24} {w : LaneWord} {e : AdEdge} (h : s.laneDue nn.val = some e) :
    exec (.wordArrival nn w) s = .next ((s.edgeTaken nn.val e).wordTaken nn.val e.at' e.tag (s.laneWord nn.val e w)) := by
  show Host.Outcome.next (s.wordArrival nn.val w) = _
  rw [State.wordArrival, h]
  rfl

theorem State.edgeTaken_lane (hlen : s.conv.lanes.length = 24) (n : Fin 24) (e : AdEdge) :
    (s.edgeTaken n.val e).lane n.val = { s.lane n.val with next := e.num + 1 } := State.lane_setLane_self hlen n _

theorem State.edgeTaken_wordsArrive {e : AdEdge} (h7 : s.isOn 7 = true) (ht : s.ticking = true) (hl : s.is ADG_STATUS_LOCKED = true) :
    (s.edgeTaken nn e).wordsArrive = true := by
  show (s.isOn 7 && s.ticking && s.is ADG_STATUS_LOCKED) = true
  rw [h7, ht, hl]
  rfl

theorem State.edgeTaken_lanes_length {e : AdEdge} : (s.edgeTaken nn e).conv.lanes.length = s.conv.lanes.length := List.length_set

/-- A word is delivered: it is its slot's last word, OVR follows its OVR bit, and the slot count moves on. -/
theorem State.wordTaken_delivers (n : Fin 24) (hlen : s.conv.lanes.length = 24) (hrun : s.wordsArrive = true)
    (hact : (if word.testBit 15 then s.is (AD_CFG_EN n.val) else s.is (AD_STATUS_ACTIVE n.val)) = true)
    (h : word.testBit 15 = true ∧ (s.lane n.val).lost = true ∨
      (s.lane n.val).lost = false ∧ word.testBit 15 = ((s.lane n.val).slot == 0))
    {slot : Nat} (hslot : slot = if word.testBit 15 then 0 else (s.lane n.val).slot) (hlt : slot < 8) :
    (s.wordTaken n.val t tag word).get (AD_LAST_WORD n.val slot) = word % 65536 ∧
      (s.wordTaken n.val t tag word).lane n.val = { s.lane n.val with slot := (slot + 1) % 8, lost := false } ∧
      (s.wordTaken n.val t tag word).is (AD_STATUS_ACTIVE n.val) = true ∧
      (s.wordTaken n.val t tag word).is (AD_STATUS_OVR n.val) = (s.is (AD_STATUS_OVR n.val) || word.testBit 14) := by
  rw [State.wordTaken_of_agrees hrun hact h, ← hslot]
  have hst := State.deliver_rd (nn := n.val) (slot := slot) (t := t) (tag := tag) (word := word)
    (s := (s.enTaken n.val (word.testBit 15)).setLane n.val { s.lane n.val with slot := (slot + 1) % 8, lost := false })
    (adStatus_ofConverter n)
  refine ⟨?_, ?_, ?_, ?_⟩
  · rw [State.get_of_rd (State.deliver_rd (adLast_ofConverter n hlt)), State.wordStored_get_last n hlt]
  · rw [State.lane_of_lanes State.deliver_lanes, State.lane_setLane_self (by rwa [State.enTaken_conv])]
  · rw [State.is_of_rd hst, State.wordStored_is_active, State.is_of_rd State.setLane_rd, State.enTaken_is_active, hact]
  · rw [State.is_of_rd hst, State.wordStored_is_ovr, State.is_of_rd State.setLane_rd]
    simp only [State.is, State.enTaken_get (g := AD_STATUS_OVR n.val) ⟨rfl, by simp⟩]

/-! ### Sequence registers (R156) -/

theorem adSeq_ne_adSeqEff : (AD_SEQ_EFF nn).addr ≠ (AD_SEQ nn).addr := by
  simp only [ne_eq]
  omega

/-- The codes take effect at a slot-0 instant, 62.5 ns or more after the write. -/
theorem State.adSeqApply_of_due {c : Nat} {e : AdEdge} {es : List AdEdge} (hat : (s.lane nn).seqAt = some c)
    (hedges : s.conv.edges = e :: es) (h7 : s.isOn 7 = true) (hl : s.is ADG_STATUS_LOCKED = true) (he : e.num % 8 = 0 ∧ e.at' = s.now) (hc : c + 25 ≤ s.now) :
    s.adSeqApply nn = (s.wr (AD_SEQ_EFF nn) (s.rd (AD_SEQ nn))).setLane nn
      { s.lane nn with seqAt := none, olds := ((e.num, s.rd (AD_SEQ_EFF nn)) :: (s.lane nn).olds).take 3 } := by
  simp [State.adSeqApply, hat, hedges, h7, hl, he, hc]

/-- Without a write that waits, or at any other instant, the codes in effect stay. -/
theorem State.adSeqApply_of_not_due (h : (s.lane nn).seqAt = none ∨ s.isOn 7 = false ∨ s.is ADG_STATUS_LOCKED = false ∨
      (∀ e ∈ s.conv.edges.head?, e.num % 8 ≠ 0 ∨ e.at' ≠ s.now ∨ ∀ c ∈ (s.lane nn).seqAt, s.now < c + 25)) : s.adSeqApply nn = s := by
  unfold State.adSeqApply
  split
  · next c e es hat hedges =>
    refine if_neg fun hdue => ?_
    simp only [Bool.and_eq_true, beq_iff_eq, decide_eq_true_eq] at hdue
    obtain ⟨⟨⟨⟨h7, hl⟩, hslot⟩, hnow⟩, hc⟩ := hdue
    rcases h with h | h | h | h
    · simp [hat] at h
    · simp [h7] at h
    · simp [hl] at h
    · rcases h e (by simp [hedges]) with h | h | h
      · exact h hslot
      · exact h hnow
      · have := h c (by simp [hat])
        omega
  · rfl

/-! ### The converter clock (R160) -/

theorem adgStatus_ne_adStatus : ADG_STATUS.addr ≠ (AD_STATUS nn).addr := by
  simp only [ne_eq]
  omega

theorem adStatus_ne {m : Nat} (h : m ≠ nn) : (AD_STATUS m).addr ≠ (AD_STATUS nn).addr := by
  simp only [ne_eq]
  omega

theorem adCfg_ne_adStatus {m : Nat} : (AD_CFG m).addr ≠ (AD_STATUS nn).addr := by
  simp only [ne_eq]
  omega

/-- The state after a loss of the converter clock, before its event. -/
def State.adcStopped (s : State) : State :=
  (List.range 24).foldl (fun t n => t.put (AD_STATUS_ACTIVE n) 0) ((s.put ADG_STATUS_LOCKED 0).put ADG_STATUS_NOCLK 1)

theorem exec_adcClockLoss_running (h7 : s.isOn 7 = true) (hl : s.is ADG_STATUS_LOCKED = true) :
    exec .adcClockLoss s = .next (s.adcStopped.adEvent 0 0x12) := by
  show Host.Outcome.next _ = _
  rw [h7, hl]
  rfl

theorem State.adcStopped_rd (h : ∀ n, r.addr ≠ (AD_STATUS n).addr) :
    s.adcStopped.rd r = ((s.put ADG_STATUS_LOCKED 0).put ADG_STATUS_NOCLK 1).rd r :=
  foldl_rd _ _ (fun t n _ => State.rd_put_ne t _ (h n)) _

theorem State.adcStopped_is_active (n : Fin 24) : s.adcStopped.is (AD_STATUS_ACTIVE n.val) = false :=
  foldl_range_at (P := fun _ => True) (part := fun t j => t.is (AD_STATUS_ACTIVE j)) (next := fun _ _ => false) (fun _ _ _ _ => trivial)
    (fun _ _ _ _ => State.is_put_self _ (Nat.le_refl _) (by simp))
    (fun _ _ _ _ _ hne _ => State.is_of_rd (State.rd_put_ne _ _ (adStatus_ne hne))) trivial n.isLt

/-- The state after the return of the converter clock. -/
def State.adcStarted (s : State) : State :=
  (List.range 24).foldl (fun t n => t.putB (AD_STATUS_ACTIVE n) (t.is (AD_CFG_EN n))) (s.put ADG_STATUS_LOCKED 1)

theorem exec_adcClockReturn_stopped (h7 : s.isOn 7 = true) (hl : s.is ADG_STATUS_LOCKED = false) :
    exec .adcClockReturn s = .next s.adcStarted := by
  show Host.Outcome.next _ = _
  rw [h7, hl]
  rfl

theorem State.adcStarted_rd (h : ∀ n, r.addr ≠ (AD_STATUS n).addr) : s.adcStarted.rd r = (s.put ADG_STATUS_LOCKED 1).rd r :=
  foldl_rd _ _ (fun _ n _ => State.putB_rd (h n)) _

theorem State.adcStarted_is_active (n : Fin 24) : s.adcStarted.is (AD_STATUS_ACTIVE n.val) = s.is (AD_CFG_EN n.val) := by
  refine foldl_range_at (P := fun t => ∀ j, t.is (AD_CFG_EN j) = s.is (AD_CFG_EN j)) (part := fun t j => t.is (AD_STATUS_ACTIVE j))
    (next := fun j _ => s.is (AD_CFG_EN j)) ?_ ?_ ?_ ?_ n.isLt
  · exact fun t i _ hP j => (State.is_of_rd (State.putB_rd adCfg_ne_adStatus)).trans (hP j)
  · exact fun t i _ hP => (State.is_putB_self _ rfl (by simp)).trans (hP i)
  · exact fun t i _ j _ hne _ => State.is_of_rd (State.putB_rd (adStatus_ne hne))
  · refine fun j => State.is_of_rd (State.rd_put_ne _ _ ?_)
    simp only [ne_eq]
    omega

theorem State.adcStarted_eq : s.adcStarted = { s with regs := s.adcStarted.regs } :=
  keeps_foldl (P := fun t => t = { s with regs := t.regs }) (fun _ _ ht => by rw [ht]; rfl) rfl

/-! ### The DC-link value (R163) -/

theorem State.vdcUpdate_of_due {n : Nat} (h7 : s.isOn 7 = true) (ht : s.ticking = true) (hn : s.tick = 1000 * (n + 1) + 17) :
    s.vdcUpdate = (s.setConv { s.conv with vdc := s.conv.vdc.filter (fun e => decide (n < e.1)) }).put ADG_VDC_VDC
      (if s.is ADG_VDCSRC_EN = false ∨ n = 0 then 0xFFFF
        else vdcValue ((lookupKey n s.conv.vdc).getD (0, 0, false)) (s.get ADG_VDCSRC_GAIN)) := by
  have hi : (s.tick - 17) / 1000 - 1 = n := by omega
  have hdue : (s.isOn 7 && s.ticking && decide (1017 ≤ s.tick) && (s.tick - 17) % 1000 == 0) = true := by
    simp only [Bool.and_eq_true, decide_eq_true_eq, beq_iff_eq]
    exact ⟨⟨⟨h7, ht⟩, by omega⟩, by omega⟩
  unfold State.vdcUpdate
  rw [if_pos hdue, hi]
  dsimp only
  congr 1
  cases s.is ADG_VDCSRC_EN <;> by_cases h0 : n = 0 <;> simp [h0]

theorem vdcValue_eq (sm cnt gain : Nat) (ovr : Bool) : vdcValue (sm, cnt, ovr) gain =
    if ovr = true ∨ cnt < 100 then 0xFFFF else min 0xFFFE ((sm - 8192 * cnt) * gain / (100 * cnt)) := by
  simp only [vdcValue, Bool.or_eq_true, decide_eq_true_eq]

theorem vdcValue_lt (e : Nat × Nat × Bool) (gain : Nat) : vdcValue e gain < 65536 := by
  obtain ⟨sm, cnt, ovr⟩ := e
  rw [vdcValue_eq]
  split <;> omega

theorem State.vdcUpdate_of_not_due (h : s.isOn 7 = false ∨ s.ticking = false ∨ s.tick < 1017 ∨ (s.tick - 17) % 1000 ≠ 0) :
    s.vdcUpdate = s := by
  refine if_neg fun hdue => ?_
  simp only [Bool.and_eq_true, decide_eq_true_eq, beq_iff_eq] at hdue
  obtain ⟨⟨⟨h7, ht⟩, hge⟩, hmod⟩ := hdue
  rcases h with h | h | h | h
  · simp [h7] at h
  · simp [ht] at h
  · omega
  · exact h hmod

/-- Settles O20: the receiver's four ways to take a word, the sequence registers, the converter clock and the DC-link value. -/
theorem converterWordsReachTheirSlot : Obligations.ConverterWordsReachTheirSlot := by
  unfold Obligations.ConverterWordsReachTheirSlot
  refine ⟨?inSequence, ?wrap, ?disagrees, ?waits, ?disabled, ?stopped, ?noWord, ?seqWrite, ?seqApply, ?seqWaits, ?clockLoss, ?noLoss,
    ?clockReturn, ?noReturn, ?vdc, vdcValue_eq, ?noVdc⟩
  case inSequence =>
    intro s nn w e hlen hdue h7 ht hl hact hslot hslot0 hwrap hlost
    have hlane := State.edgeTaken_lane hlen nn e
    obtain ⟨hlast, hlane', -, hovr⟩ := State.wordTaken_delivers (t := e.at') (tag := e.tag) nn
      (State.edgeTaken_lanes_length.trans hlen) (State.edgeTaken_wordsArrive h7 ht hl) ((if_neg (hwrap ▸ Bool.false_ne_true)).trans hact)
      (.inr ⟨by rw [hlane]; exact hlost, by rw [hlane, hwrap]; simp [hslot0]⟩)
      (if_neg (hwrap ▸ Bool.false_ne_true)).symm (by rw [hlane]; exact hslot)
    rw [hlane] at hlast hlane'
    exact ⟨_, exec_wordArrival_due hdue, hlast, by rw [hlane'], by rw [hlane'], hovr⟩
  case wrap =>
    intro s nn w e hlen hdue h7 ht hl hen hwrap hstart
    have hlane := State.edgeTaken_lane hlen nn e
    have hagrees : (s.lane nn.val).lost = true ∨ (s.lane nn.val).lost = false ∧ (s.lane nn.val).slot = 0 :=
      hstart.elim .inl fun h0 => (Bool.eq_false_or_eq_true _).imp id (⟨·, h0⟩)
    obtain ⟨hlast, hlane', hact, -⟩ := State.wordTaken_delivers (t := e.at') (tag := e.tag) (slot := 0) nn
      (State.edgeTaken_lanes_length.trans hlen) (State.edgeTaken_wordsArrive h7 ht hl) ((if_pos hwrap).trans hen)
      (by rw [hlane, hwrap]; exact hagrees.imp (⟨rfl, ·⟩) fun ⟨hl, h0⟩ => ⟨hl, by simp [h0]⟩)
      (if_pos hwrap).symm (by decide)
    rw [hlane] at hlane'
    exact ⟨_, exec_wordArrival_due hdue, hlast, hact, by rw [hlane'], by rw [hlane'], by rw [hlane']⟩
  case disagrees =>
    intro s nn w e hlen hdue h7 ht hl hact hwrap hlost
    have hlane := State.edgeTaken_lane hlen nn e
    refine ⟨_, exec_wordArrival_due hdue, ?_⟩
    rw [State.wordTaken_of_disagrees (State.edgeTaken_wordsArrive h7 ht hl) hact (by rw [hlane]; exact hlost) (by rw [hlane]; exact hwrap),
      State.wordRefused_lane (by rwa [State.enTaken_conv, State.edgeTaken_lanes_length]), State.enTaken_lane, hlane]
    refine ⟨State.wordRefused_is_wraperr nn, ?_, rfl, rfl, fun j => State.get_of_rd ?_⟩
    · rw [State.wordRefused_get_lostw, State.enTaken_get (g := AD_STATUS_LOSTW nn.val) ⟨rfl, by simp⟩]
      rfl
    · rw [State.wordRefused_rd adLast_ne_adStatus (adLast_ofConverter nn j.isLt).ne_evlStatus, State.enTaken_rd adLast_ne_adStatus]
      rfl
  case waits =>
    intro s nn w e hlen hdue h7 ht hl hact hwrap hlost
    have hlane := State.edgeTaken_lane hlen nn e
    refine ⟨_, exec_wordArrival_due hdue, ?_⟩
    rw [State.wordTaken_of_waiting (State.edgeTaken_wordsArrive h7 ht hl) ((if_neg (hwrap ▸ Bool.false_ne_true)).trans hact)
        (by rw [hlane]; exact hlost) hwrap,
      State.lane_of_lanes State.inc_lanes, hlane]
    exact ⟨State.get_inc_self (by simp) (by simp), rfl, hlost, fun j => State.get_of_rd (State.inc_rd adLast_ne_adStatus)⟩
  case disabled =>
    intro s nn w e hlen hdue h7 ht hl hwrap hen
    refine ⟨_, exec_wordArrival_due hdue, ?_⟩
    rw [State.wordTaken_of_inactive (State.edgeTaken_wordsArrive h7 ht hl) ((if_pos hwrap).trans hen), State.enTaken_lane,
      State.edgeTaken_lane hlen]
    exact ⟨State.enTaken_is_active.trans ((if_pos hwrap).trans hen), rfl,
      fun j => State.get_of_rd (State.enTaken_rd adLast_ne_adStatus)⟩
  case stopped =>
    intro s nn w e hdue h
    refine ⟨_, exec_wordArrival_due hdue, ?_⟩
    by_cases harrive : s.wordsArrive = true
    · obtain ⟨⟨h7, ht⟩, hl⟩ : (s.isOn 7 = true ∧ s.ticking = true) ∧ s.is ADG_STATUS_LOCKED = true := by
        simpa [State.wordsArrive] using harrive
      obtain ⟨hact, hwrap⟩ : s.is (AD_STATUS_ACTIVE nn.val) = false ∧ (s.laneWord nn.val e w).testBit 15 = false := by
        simpa [h7, ht, hl] using h
      rw [State.wordTaken_of_inactive (State.edgeTaken_wordsArrive h7 ht hl) ((if_neg (hwrap ▸ Bool.false_ne_true)).trans hact), hwrap]
      rfl
    · exact State.wordTaken_of_not_wordsArrive (Bool.eq_false_iff.mpr harrive)
  case noWord =>
    intro s nn w hdue
    refine ⟨s, ?_, rfl⟩
    show Host.Outcome.next (s.wordArrival nn.val w) = _
    rw [State.wordArrival, hdue]
  case seqWrite =>
    intro s ini nn val hlen h
    exact ⟨_, congrArg Host.Outcome.next (State.busWrite_of_reaches h _), State.rd_wr_self _ _ _,
      State.rd_wr_ne _ _ adSeq_ne_adSeqEff, congrArg AdLane.seqAt (State.lane_setLane_self hlen nn _), State.onlyRegs_wr _ _ _⟩
  case seqApply =>
    intro s nn c e es hlen hat hedges h7 hl he hc
    exact ⟨_, congrArg Host.Outcome.next (State.adSeqApply_of_due hat hedges h7 hl he hc), State.rd_wr_self _ _ _,
      congrArg AdLane.seqAt (State.lane_setLane_self hlen nn _), State.onlyRegs_wr _ _ _⟩
  case seqWaits => exact fun s nn h => ⟨s, congrArg Host.Outcome.next (State.adSeqApply_of_not_due h), rfl⟩
  case clockLoss =>
    intro s h7 hl
    have hst : (s.adcStopped.adEvent 0 0x12).rd ADG_STATUS = ((s.put ADG_STATUS_LOCKED 0).put ADG_STATUS_NOCLK 1).rd ADG_STATUS :=
      (State.adEvent_rd (by decide)).trans (State.adcStopped_rd fun _ => adgStatus_ne_adStatus)
    have hapart : ADG_STATUS_LOCKED.Apart ADG_STATUS_NOCLK := ⟨rfl, by decide⟩
    refine ⟨_, exec_adcClockLoss_running h7 hl, ?_, ?_, fun n => ?_⟩
    · rw [State.is_of_rd hst, hapart.is_put]
      exact State.is_put_self _ (Nat.le_refl _) (by decide)
    · rw [State.is_of_rd hst]
      exact State.is_put_self _ (Nat.le_refl _) (by decide)
    · rw [State.is_of_rd (State.adEvent_rd_adStatus n), State.adcStopped_is_active]
  case noLoss =>
    intro s h
    refine ⟨s, congrArg Host.Outcome.next (if_neg ?_), rfl⟩
    rcases h with h | h <;> simp [h]
  case clockReturn =>
    intro s h7 hl
    refine ⟨_, exec_adcClockReturn_stopped h7 hl, ?_, State.adcStarted_is_active, State.adcStarted_eq⟩
    rw [State.is_of_rd (State.adcStarted_rd fun _ => adgStatus_ne_adStatus)]
    exact State.is_put_self _ (Nat.le_refl _) (by decide)
  case noReturn =>
    intro s h
    refine ⟨s, congrArg Host.Outcome.next (if_neg ?_), rfl⟩
    rcases h with h | h <;> simp [h]
  case vdc =>
    intro s n h7 ht hn
    refine ⟨_, congrArg Host.Outcome.next (State.vdcUpdate_of_due h7 ht hn), ?_, State.onlyRegs_put _ _ _⟩
    rw [State.get_put_self _ _ _ (by decide) (by decide)]
    refine Nat.mod_eq_of_lt ?_
    split
    · decide
    · exact vdcValue_lt _ _
  case noVdc => exact fun s h => ⟨s, congrArg Host.Outcome.next (State.vdcUpdate_of_not_due h), rfl⟩

end Sys2Proof.Machine
end

section
/-! SUPPORT. The registers that the boundaries of a PWM module write (R87–R90, R97, R199): every other register keeps its value. -/

namespace Sys2Proof.Machine

variable {s : State} {r : Reg} {k : Nat}

/-- A register that no boundary of module k writes. -/
structure Reg.OffBoundary (r : Reg) (k : Nat) : Prop where
  block : r.addr < 0x40000000 + k * 0x400 ∨ 0x40000400 + k * 0x400 ≤ r.addr
  cmtstat : r.addr ≠ PWMG_CMTSTAT.addr
  evl : r.addr ≠ EVL_STATUS.addr
  engine : ∀ n, r.addr ≠ (CE_STATUS n).addr ∧ r.addr ≠ (CE_CNT n).addr

/-- It stands outside the module's own block. -/
theorem Reg.OffBoundary.ne (h : r.OffBoundary k) {a : Nat} (ha : 0x40000000 + k * 0x400 ≤ a ∧ a < 0x40000400 + k * 0x400) :
    r.addr ≠ a := by
  have := h.block
  omega

theorem Reg.OffBoundary.status (h : r.OffBoundary k) : r.addr ≠ (PWM_STATUS k).addr := h.ne (by simp only; omega)

theorem Reg.OffBoundary.cnt0 (h : r.OffBoundary k) : r.addr ≠ (PWM_CNT0 k).addr := h.ne (by simp only; omega)

theorem Reg.OffBoundary.acts (h : r.OffBoundary k) : r.addr ∉ pwmActs k := by
  simp only [pwmActs, List.mem_cons, List.not_mem_nil, or_false, not_or]
  exact ⟨h.status, h.cnt0, h.evl⟩

theorem pwmInEffect_block (k i : Nat) :
    0x40000000 + k * 0x400 ≤ (pwmInEffect k i).addr ∧ (pwmInEffect k i).addr < 0x40000400 + k * 0x400 := by
  unfold pwmInEffect
  split <;> simp only <;> omega

/-! ### What a boundary does -/

theorem State.pwmLevels_rd (h : r.OffBoundary k) {t : Int} : (s.pwmLevels k t).rd r = s.rd r :=
  (State.pwmApply_rd h.acts).trans State.setPwm_rd

theorem State.pwmTakeEdges_rd (h : r.OffBoundary k) {x : Side} {hi : Int} {n : Nat} : (s.pwmTakeEdges k x hi n).rd r = s.rd r := by
  induction n generalizing s with
  | zero => rfl
  | succ n ih =>
    unfold State.pwmTakeEdges
    dsimp only
    split
    · rw [ih, State.pwmApply_rd h.acts, State.setPwmO_rd]
    · rfl

theorem State.pwmTransfer_rd (h : r.OffBoundary k) {mask : Nat} : (s.pwmTransfer k mask).rd r = s.rd r :=
  foldl_rd _ _ (fun t i _ => ite_rd (State.rd_wr_ne t _ (h.ne (pwmInEffect_block k i))) rfl) s

theorem State.setCommit_rd (h : r.OffBoundary k) {b : Bool} : (s.setCommit k b).rd r = s.rd r :=
  (State.putFldBit_rd h.cmtstat).trans (State.putB_rd h.status)

theorem State.tripCycleEnd_rd (h : r.OffBoundary k) : (s.tripCycleEnd k).rd r = s.rd r :=
  foldl_rd _ _ (fun _ _ _ => ite_rd (State.putFldBit_rd h.status) rfl) s

theorem State.synco_rd {n : Nat} : (s.synco k n).rd r = s.rd r := by
  induction n generalizing s k with
  | zero => rfl
  | succ n ih => exact ite_rd ih rfl

theorem State.syncEmit_rd {sel : Nat} : (s.syncEmit k sel).rd r = s.rd r := ite_rd State.synco_rd rfl

theorem State.ceComplete_rd {n j stamp : Nat} (hst : r.addr ≠ (CE_STATUS n).addr) (hcnt : r.addr ≠ (CE_CNT n).addr) :
    (s.ceComplete n j stamp).rd r = s.rd r := by
  unfold State.ceComplete
  extract_lets c st waits keep
  refine ite_rd rfl (ite_rd (State.inc_rd hcnt) ?_)
  split
  · exact ite_rd (State.putFldBit_rd hst) (State.putFldBit_rd hst)
  · exact State.putFldBit_rd hst

theorem State.ceEventSets_rd (h : r.OffBoundary k) {ev : Nat} : (s.ceEventSets ev).rd r = s.rd r :=
  foldl_rd _ _ (fun _ i _ => ite_rd (State.ceComplete_rd (h.engine (i / 4)).1 (h.engine (i / 4)).2) rfl) s

theorem State.pwmZero_rd (h : r.OffBoundary k) {jump : Bool} : (s.pwmZero k jump).rd r = s.rd r := by
  unfold State.pwmZero
  extract_lets t taken down cnt mask moved consumed committed p zero opened ended levelled logged
  have htaken : taken.rd r = s.rd r := ite_rd rfl ((State.pwmTakeEdges_rd h).trans (State.pwmTakeEdges_rd h))
  have hmoved : moved.rd r = s.rd r := (State.pwmTransfer_rd h).trans htaken
  have hcommitted : committed.rd r = s.rd r := ite_rd ((State.setCommit_rd h).trans hmoved) hmoved
  have hlevelled : levelled.rd r = s.rd r :=
    (State.pwmLevels_rd h).trans ((State.tripCycleEnd_rd h).trans (State.setPwm_rd.trans hcommitted))
  exact (State.ceEventSets_rd h).trans (State.syncEmit_rd.trans ((State.pwmEvent_rd h.evl).trans hlevelled))

theorem State.pwmPeakBoundary_rd (h : r.OffBoundary k) : (s.pwmPeakBoundary k).rd r = s.rd r := by
  unfold State.pwmPeakBoundary
  refine ite_rd ?_ rfl
  extract_lets t taken mask consumed moved p committed was passed levelled logged
  have hmoved : moved.rd r = s.rd r :=
    (State.pwmTransfer_rd h).trans ((State.pwmTakeEdges_rd h).trans (State.pwmTakeEdges_rd h))
  have hcommitted : committed.rd r = s.rd r := ite_rd ((State.setCommit_rd h).trans (State.setPwm_rd.trans hmoved)) hmoved
  have hlevelled : levelled.rd r = s.rd r := (State.pwmLevels_rd h).trans (State.setPwm_rd.trans hcommitted)
  exact (State.ceEventSets_rd h).trans (State.syncEmit_rd.trans ((State.pwmEvent_rd h.evl).trans hlevelled))

theorem State.pwmBoundary_rd (h : r.OffBoundary k) : (s.pwmBoundary k).rd r = s.rd r :=
  (State.pwmPeakBoundary_rd h).trans (ite_rd ((State.pwmZero_rd h).trans State.setPwm_rd) rfl)

/-! ### A commit (R89) -/

theorem State.pwmSetLate_rd (h : r.OffBoundary k) {data : Nat} : (s.pwmSetLate k data).rd r = s.rd r :=
  (State.pwmEvent_rd h.evl).trans ((State.inc_rd h.cnt0).trans (State.rd_put_ne s _ h.status))

theorem State.pwmCommit_rd (h : r.OffBoundary k) : (s.pwmCommit k).rd r = s.rd r := by
  have hset : ∀ m, (((s.pwmBoundary k).setCommit k true).setPwm k m).rd r = s.rd r := fun m =>
    State.setPwm_rd.trans ((State.setCommit_rd h).trans (State.pwmBoundary_rd h))
  exact ite_rd ((State.pwmSetLate_rd h).trans (hset _)) (hset _)

theorem State.setCommit_is_cmtpend {b : Bool} : (s.setCommit k b).is (PWM_STATUS_CMTPEND k) = b := by
  have hne : (PWM_STATUS k).addr ≠ PWMG_CMTSTAT.addr := by simp only [ne_eq]; omega
  rw [State.setCommit, State.is_of_rd (State.putFldBit_rd hne)]
  exact State.is_putB_self b rfl (by simp)

theorem State.pwmSetLate_is_cmtpend {data : Nat} (hk : k < 32) :
    (s.pwmSetLate k data).is (PWM_STATUS_CMTPEND k) = s.is (PWM_STATUS_CMTPEND k) := by
  have hapart : (PWM_STATUS_CMTPEND k).Apart (PWM_STATUS_LATE_WR k) := ⟨rfl, by simp⟩
  have hevl : (PWM_STATUS k).addr ≠ EVL_STATUS.addr := by simp only [ne_eq]; omega
  have hcnt : (PWM_STATUS k).addr ≠ (PWM_CNT0 k).addr := by simp only [ne_eq]; omega
  rw [State.pwmSetLate, State.is_of_rd ((State.pwmEvent_rd hevl).trans (State.inc_rd hcnt))]
  exact hapart.is_put s 1

theorem State.pwmCommit_is_cmtpend (hk : k < 32) : (s.pwmCommit k).is (PWM_STATUS_CMTPEND k) = true := by
  unfold State.pwmCommit
  extract_lets bounded late committed was noted
  have hnoted : noted.is (PWM_STATUS_CMTPEND k) = true :=
    (State.is_of_rd State.setPwm_rd).trans State.setCommit_is_cmtpend
  split
  · exact (State.pwmSetLate_is_cmtpend hk).trans hnoted
  · exact hnoted

end Sys2Proof.Machine
end

section
/-! SUPPORT. Who may write a PWM module, starts, stops and CTRL writes (R24, R86, R89, R90), and the statement about them. -/

namespace Sys2Proof.Machine

variable {s : State} {r : Reg} {k : Nat} {ini : Initiator}

/-! ### Ownership (R24) -/

/-- The registers that decide who owns a module: the owner map and the engines' escalations. -/
inductive Reg.Owns : Reg → Prop
  | map (m : Fin 4) : Reg.Owns (CEC_PWMOWN m.val)
  | escalation (n : Nat) : Reg.Owns (CE_DLSTAT n)

theorem Reg.Owns.ne_violations (h : r.Owns) : r.addr ≠ CEC_OWNVIOL_CNT.addr := by
  cases h <;> simp only [ne_eq] <;> omega

theorem Reg.Owns.offBoundary (h : r.Owns) (hk : k < 32) : r.OffBoundary k := by
  cases h <;> constructor <;> simp only [ne_eq] <;> omega

theorem Reg.Owns.ne_ctrl (h : r.Owns) : r.addr ≠ (PWM_CTRL k).addr := by
  cases h <;> simp only [ne_eq] <;> omega

theorem State.pwmMayWrite_of_rd {t : State} (h : ∀ r : Reg, r.Owns → t.rd r = s.rd r) (hk : k < 32) :
    t.pwmMayWrite ini k = s.pwmMayWrite ini k := by
  have howner : t.pwmOwner k = s.pwmOwner k := by
    rw [State.pwmOwner, h _ (.map ⟨k / 8, by omega⟩), State.pwmOwner]
  have hesc : ∀ n, t.is (CE_DLSTAT_ESC n) = s.is (CE_DLSTAT_ESC n) := fun n => State.is_of_rd (h _ (.escalation n))
  cases ini <;> simp only [State.pwmMayWrite, howner, hesc]

theorem State.ownViolation_rd (h : r.addr ≠ CEC_OWNVIOL_CNT.addr) : (s.ownViolation ini k).rd r = s.rd r := by
  rw [State.ownViolation, State.irq_rd, State.rd_put_ne _ _ h, State.rd_put_ne _ _ h, State.inc_rd h]

theorem State.inc_eq (f : Fld) : s.inc f = { s with regs := (s.inc f).regs } := by
  unfold State.inc
  split <;> rfl

theorem State.ownViolation_irqs : (s.ownViolation ini k).irqs = s.irqs ++ [s.irqNow .sc 0x405001F4 0] := by
  rw [State.ownViolation, State.inc_eq]
  rfl

theorem State.ownViolation_eq :
    s.ownViolation ini k = { s with regs := (s.ownViolation ini k).regs, irqs := (s.ownViolation ini k).irqs } := by
  rw [State.ownViolation, State.inc_eq]
  rfl

theorem initCode_lt (ini : Initiator) : initCode ini < 2 ^ 8 := by
  cases ini <;> simp only [initCode] <;> omega

theorem State.pwmWrite_of_owns {a : Nat} (h : s.Owns ini k a) (f : State → State) : s.pwmWrite ini k a f = f s := by
  obtain ⟨hreach, hkeep, hown⟩ := h
  rw [State.pwmWrite, State.busWrite_of_reaches hreach]
  simp [State.pwmOwned, hkeep, hown]

/-- A write to a module that the owner code withholds from the initiator is counted with both, raises a protection event, and
does nothing else. -/
theorem counted_of_foreign {c : Instr} {k : Fin 32} {a : Nat} {f : State → State} (hc : exec c s = .next (s.pwmWrite ini k.val a f))
    (hreach : s.Reaches ini a) (hkeep : s.ceStoreDiscard ini = false) (hown : s.pwmMayWrite ini k.val = false) :
    ∃ t, exec c s = .next t ∧
      t.get CEC_OWNVIOL_CNT_LAST_PWM = k.val ∧
      t.get CEC_OWNVIOL_CNT_LAST_INIT = initCode ini ∧
      t.get CEC_OWNVIOL_CNT_COUNT = min (s.get CEC_OWNVIOL_CNT_COUNT + 1) 0xFFFF ∧
      t.irqs = s.irqs ++ [s.irqNow .sc 0x405001F4 0] ∧
      t = { s with regs := t.regs, irqs := t.irqs } ∧
      ∀ r : Reg, r.addr ≠ CEC_OWNVIOL_CNT.addr → t.rd r = s.rd r := by
  have hinit : CEC_OWNVIOL_CNT_LAST_INIT.Apart CEC_OWNVIOL_CNT_LAST_PWM := ⟨rfl, by decide⟩
  have hpwm : CEC_OWNVIOL_CNT_COUNT.Apart CEC_OWNVIOL_CNT_LAST_PWM := ⟨rfl, by decide⟩
  have hcount : CEC_OWNVIOL_CNT_COUNT.Apart CEC_OWNVIOL_CNT_LAST_INIT := ⟨rfl, by decide⟩
  refine ⟨s.ownViolation ini k.val, ?_, ?_, ?_, ?_, State.ownViolation_irqs, State.ownViolation_eq, fun r => State.ownViolation_rd⟩
  · rw [hc, State.pwmWrite, State.busWrite_of_reaches hreach]
    simp [State.pwmOwned, hkeep, hown]
  · rw [State.ownViolation, State.get_of_rd State.irq_rd, State.get_put_self _ _ _ (by decide) (by decide)]
    exact Nat.mod_eq_of_lt (show k.val < 2 ^ 8 by omega)
  · rw [State.ownViolation, State.get_of_rd State.irq_rd, hinit.get_put, State.get_put_self _ _ _ (by decide) (by decide)]
    exact Nat.mod_eq_of_lt (initCode_lt ini)
  · rw [State.ownViolation, State.get_of_rd State.irq_rd, hpwm.get_put, hcount.get_put, State.get_inc_self (by decide) (by decide)]
    rfl

/-! ### Writes that name several modules (R89, R90) -/

/-- What PWMG_COMMIT and PWMG_START do to a part of module k: f acts on it where the write names the module and its initiator owns
it, and nothing else does. -/
theorem State.pwmEach_at {α : Type} {P : State → Prop} {part : State → Nat → α} {act : α → α} {f : State → Nat → State} {v : Word}
    (hkeep : s.ceStoreDiscard ini = false) (hP : ∀ t, ∀ i < 32, P t → P (f t i)) (hPviol : ∀ t i, P t → P (t.ownViolation ini i))
    (howns : ∀ t, ∀ i < 32, ∀ r : Reg, r.Owns → (f t i).rd r = t.rd r)
    (hself : ∀ t, ∀ i < 32, P t → part (f t i) i = act (part t i))
    (hother : ∀ t, ∀ i < 32, ∀ j < 32, j ≠ i → part (f t i) j = part t j)
    (hviol : ∀ t i, ∀ j < 32, part (t.ownViolation ini i) j = part t j) (hs : P s) (k : Fin 32) :
    part (s.pwmEach ini v f) k.val = if v.getLsbD k.val && s.pwmMayWrite ini k.val then act (part s k.val) else part s k.val := by
  have hmay : ∀ (t : State) (i j : Nat), i < 32 → j < 32 → (f t i).pwmMayWrite ini j = t.pwmMayWrite ini j :=
    fun t i j hi hj => State.pwmMayWrite_of_rd (howns t i hi) hj
  have hmayViol : ∀ (t : State) (i j : Nat), j < 32 → (t.ownViolation ini i).pwmMayWrite ini j = t.pwmMayWrite ini j :=
    fun t i j hj => State.pwmMayWrite_of_rd (fun r hr => State.ownViolation_rd hr.ne_violations) hj
  unfold State.pwmEach
  rw [hkeep, if_neg Bool.false_ne_true]
  refine foldl_range_at (P := fun t => P t ∧ ∀ j < 32, t.pwmMayWrite ini j = s.pwmMayWrite ini j) (part := part)
    (next := fun j x => if v.getLsbD j && s.pwmMayWrite ini j then act x else x) ?_ ?_ ?_ ⟨hs, fun _ _ => rfl⟩ k.isLt
  · rintro t i hi ⟨hPt, hown⟩
    split
    · split
      · exact ⟨hP t i hi hPt, fun j hj => (hmay t i j hi hj).trans (hown j hj)⟩
      · exact ⟨hPviol t i hPt, fun j hj => (hmayViol t i j hj).trans (hown j hj)⟩
    · exact ⟨hPt, hown⟩
  · rintro t i hi ⟨hPt, hown⟩
    rw [bitOf_toNat, hown i hi]
    cases v.getLsbD i with
    | false => rfl
    | true =>
      cases s.pwmMayWrite ini i with
      | false => exact hviol t i i hi
      | true => exact hself t i hi hPt
  · rintro t i hi j hj hne -
    split
    · split
      · exact hother t i hi j hj hne
      · exact hviol t i j hj
    · rfl

theorem State.ownViolation_pwm : (s.ownViolation ini k).pwm = s.pwm := by
  rw [State.ownViolation_eq]

theorem State.ownViolation_cyc : (s.ownViolation ini k).cyc = s.cyc := by
  rw [State.ownViolation_eq]

/-! ### Starts (R90) -/

theorem State.pwmOf_setPwm_self {p : PwmMod} (h : k < s.pwm.length) : (s.setPwm k p).pwmOf k = p := by
  simp [State.pwmOf, State.setPwm, nth, h]

theorem State.pwmOf_setPwm_ne {p : PwmMod} {j : Nat} (h : j ≠ k) : (s.setPwm k p).pwmOf j = s.pwmOf j := by
  simp [State.pwmOf, State.setPwm, nth, List.getElem?_set_ne h.symm]

theorem pwmCtrl_ne {j : Nat} (h : j ≠ k) : (PWM_CTRL j).addr ≠ (PWM_CTRL k).addr := by
  simp only [ne_eq]
  omega

theorem State.pwmStart_of_runs (h : s.is (PWM_CTRL_RUN k) = true) : s.pwmStart k = s := if_pos h

theorem State.pwmStart_rd_of_stopped (h : s.is (PWM_CTRL_RUN k) = false) : (s.pwmStart k).rd r = (s.put (PWM_CTRL_RUN k) 1).rd r := by
  unfold State.pwmStart State.pwmRuns
  rw [h]
  rfl

/-- A started module's first zero boundary is the first cycle of the next tick. -/
theorem State.pwmStart_of_stopped (h : s.is (PWM_CTRL_RUN k) = false) (hk : k < s.pwm.length) :
    (s.pwmStart k).is (PWM_CTRL_RUN k) = true ∧ ((s.pwmStart k).pwmOf k).start = true ∧
      ((s.pwmStart k).pwmOf k).zero = 4 * ((s.tick : Nat) + 1) := by
  refine ⟨(State.is_of_rd (State.pwmStart_rd_of_stopped h)).trans (State.is_put_self _ (Nat.le_refl _) (by simp)), ?_⟩
  unfold State.pwmStart State.pwmRuns
  rw [h, if_neg Bool.false_ne_true]
  dsimp only
  rw [State.pwmOf_setPwm_self (s := s.put (PWM_CTRL_RUN k) 1) hk]
  exact ⟨rfl, by push_cast; rfl⟩

theorem State.pwmStart_rd (h : r.addr ≠ (PWM_CTRL k).addr) : (s.pwmStart k).rd r = s.rd r :=
  ite_rd rfl (State.rd_put_ne s _ h)

theorem State.pwmStart_pwmOf_ne {j : Nat} (h : j ≠ k) : (s.pwmStart k).pwmOf j = s.pwmOf j := by
  unfold State.pwmStart
  split
  · rfl
  · exact State.pwmOf_setPwm_ne h

theorem State.pwmStart_pwm_length : (s.pwmStart k).pwm.length = s.pwm.length := by
  unfold State.pwmStart
  split
  · rfl
  · exact List.length_set

theorem State.pwmStart_cyc : (s.pwmStart k).cyc = s.cyc := by
  unfold State.pwmStart
  split <;> rfl

/-- What a start looks at and changes in a module: RUN, and whether and when its first zero boundary is to come. -/
def State.startPart (s : State) (k : Nat) : Bool × Bool × Int := (s.is (PWM_CTRL_RUN k), (s.pwmOf k).start, (s.pwmOf k).zero)

/-- A start in a tick leaves a running module as it is. -/
def startedPart (tick : Nat) : Bool × Bool × Int → Bool × Bool × Int
  | (true, p) => (true, p)
  | (false, _) => (true, true, 4 * ((tick : Nat) + 1))

theorem startedPart_run (tick : Nat) (p : Bool × Bool × Int) : (startedPart tick p).1 = true := by
  obtain ⟨_ | _, _⟩ := p <;> rfl

theorem State.startPart_pwmStart (hk : k < s.pwm.length) : (s.pwmStart k).startPart k = startedPart s.tick (s.startPart k) := by
  unfold State.startPart
  cases h : s.is (PWM_CTRL_RUN k) with
  | true =>
    rw [State.pwmStart_of_runs h, h]
    rfl
  | false =>
    obtain ⟨hrun, hstart, hzero⟩ := State.pwmStart_of_stopped h hk
    rw [hrun, hstart, hzero]
    rfl

theorem State.startPart_pwmStart_ne {j : Nat} (h : j ≠ k) : (s.pwmStart k).startPart j = s.startPart j := by
  rw [State.startPart, State.is_of_rd (State.pwmStart_rd (pwmCtrl_ne h)), State.pwmStart_pwmOf_ne h, State.startPart]

theorem State.startPart_pwmEach (hkeep : s.ceStoreDiscard ini = false) (hlen : s.pwm.length = 32) (v : Word) (k : Fin 32) :
    (s.pwmEach ini v State.pwmStart).startPart k.val =
      if v.getLsbD k.val && s.pwmMayWrite ini k.val then startedPart s.tick (s.startPart k.val) else s.startPart k.val := by
  refine State.pwmEach_at (P := fun t => t.pwm.length = 32 ∧ t.tick = s.tick) hkeep ?_ ?_ ?_ ?_ ?_ ?_ ⟨hlen, rfl⟩ k
  · rintro t i hi ⟨ht, htick⟩
    exact ⟨State.pwmStart_pwm_length.trans ht, by rw [State.tick, State.pwmStart_cyc]; exact htick⟩
  · rintro t i ⟨ht, htick⟩
    exact ⟨(congrArg List.length State.ownViolation_pwm).trans ht, by rw [State.tick, State.ownViolation_cyc]; exact htick⟩
  · exact fun t i _ r hr => State.pwmStart_rd hr.ne_ctrl
  · rintro t i hi ⟨ht, htick⟩
    rw [State.startPart_pwmStart (ht ▸ hi), htick]
  · exact fun t i hi j hj hne => State.startPart_pwmStart_ne hne
  · intro t i j hj
    have hne : (PWM_CTRL j).addr ≠ CEC_OWNVIOL_CNT.addr := by simp only [ne_eq]; omega
    rw [State.startPart, State.is_of_rd (State.ownViolation_rd hne), State.pwmOf, State.ownViolation_pwm]
    rfl

/-! ### Commits (R89) -/

theorem pwmStatus_offBoundary {j : Nat} (hj : j < 32) (hne : j ≠ k) : (PWM_STATUS j).OffBoundary k := by
  constructor <;> simp only [ne_eq] <;> omega

theorem State.cmtpend_pwmEach (hkeep : s.ceStoreDiscard ini = false) (v : Word) (k : Fin 32) :
    (s.pwmEach ini v fun t i => t.pwmCommit i).is (PWM_STATUS_CMTPEND k.val) =
      if v.getLsbD k.val && s.pwmMayWrite ini k.val then true else s.is (PWM_STATUS_CMTPEND k.val) := by
  refine State.pwmEach_at (P := fun _ => True) (part := fun t j => t.is (PWM_STATUS_CMTPEND j)) (act := fun _ => true) hkeep
    (fun _ _ _ _ => trivial) (fun _ _ _ => trivial) ?_ ?_ ?_ ?_ trivial k
  · exact fun t i hi r hr => State.pwmCommit_rd (hr.offBoundary hi)
  · exact fun t i hi _ => State.pwmCommit_is_cmtpend hi
  · exact fun t i hi j hj hne => State.is_of_rd (State.pwmCommit_rd (pwmStatus_offBoundary hj hne))
  · exact fun t i j hj => State.is_of_rd (State.ownViolation_rd (by simp only [ne_eq]; omega))

/-! ### CTRL writes (R86, R90) -/

theorem testBit_putBits (hi lo n v i : Nat) (hl : lo ≤ hi) :
    (putBits hi lo n v).testBit i = if lo ≤ i ∧ i ≤ hi then v.testBit (i - lo) else n.testBit i := by
  have hbit : ∀ m, (bitsOf i i m).testBit 0 = m.testBit i := fun m => by rw [testBit_bitsOf]; simp
  by_cases hlo : lo ≤ i
  · by_cases hhi : i ≤ hi
    · have h := congrArg (Nat.testBit · (i - lo)) (bitsOf_putBits_self hi lo n v hl)
      have hlt : i - lo < hi + 1 - lo := by omega
      simp only [testBit_bitsOf, Nat.testBit_mod_two_pow, hlt, decide_true, Bool.true_and, Nat.add_sub_cancel' hlo] at h
      rw [h, if_pos ⟨hlo, hhi⟩]
    · rw [if_neg fun h => hhi h.2, ← hbit, bitsOf_putBits_above hi lo n v i i (by omega) hl, hbit]
  · rw [if_neg fun h => hlo h.1, ← hbit, bitsOf_putBits_below hi lo n v i i (Nat.le_refl i) (by omega) hl, hbit]

/-- A bit of a register after a put into one of its fields. -/
theorem State.getLsbD_put {f : Fld} (v : Nat) (hl : f.lo ≤ f.hi) {i : Nat} (hi : i < 32) :
    ((s.put f v).rd f.reg).getLsbD i = if f.lo ≤ i ∧ i ≤ f.hi then v.testBit (i - f.lo) else (s.rd f.reg).getLsbD i := by
  rw [State.put, State.rd_wr_self, BitVec.getLsbD_ofNat, testBit_putBits _ _ _ _ _ hl]
  simp [hi, BitVec.getLsbD]

/-- The state in which SYNCARM and SYNCOSEL have taken a written value: all that a CTRL write changes while RUN stays 1. -/
def State.syncPut (s : State) (k : Nat) (v : Word) : State :=
  (s.put (PWM_CTRL_SYNCARM k) (bitsOf 11 11 v.toNat)).put (PWM_CTRL_SYNCOSEL k) (bitsOf 13 12 v.toNat)

theorem State.pwmCtrlWrite_of_runs {v : Word} (h : s.is (PWM_CTRL_RUN k) = true) :
    s.pwmCtrlWrite k v = if v.getLsbD 0 then s.syncPut k v else (s.syncPut k v).pwmStop k := by
  rw [← bitOf_toNat]
  exact if_pos h

theorem State.pwmCtrlWrite_of_stopped {v : Word} (h : s.is (PWM_CTRL_RUN k) = false) :
    s.pwmCtrlWrite k v = if v.getLsbD 0 then (s.wr (PWM_CTRL k) (v &&& 0x3FFE)).pwmStart k else s.wr (PWM_CTRL k) (v &&& 0x3FFE) := by
  rw [← bitOf_toNat]
  exact if_neg (by rw [State.pwmRuns, h]; exact Bool.false_ne_true)

theorem State.getLsbD_syncPut (v : Word) {i : Nat} (hi : i < 32) :
    ((s.syncPut k v).rd (PWM_CTRL k)).getLsbD i = if 11 ≤ i ∧ i ≤ 13 then v.getLsbD i else (s.rd (PWM_CTRL k)).getLsbD i := by
  have hsel := State.getLsbD_put (s := s.put (PWM_CTRL_SYNCARM k) (bitsOf 11 11 v.toNat)) (f := PWM_CTRL_SYNCOSEL k)
    (bitsOf 13 12 v.toNat) (by simp) hi
  have harm := State.getLsbD_put (s := s) (f := PWM_CTRL_SYNCARM k) (bitsOf 11 11 v.toNat) (by simp) hi
  simp only [testBit_bitsOf] at hsel harm
  rw [State.syncPut, hsel, harm]
  by_cases h12 : 12 ≤ i ∧ i ≤ 13
  · rw [if_pos h12, if_pos (by omega), Nat.add_sub_cancel' h12.1, decide_eq_true (by omega)]
    rfl
  · rw [if_neg h12]
    by_cases h11 : i = 11
    · subst h11
      rfl
    · rw [if_neg (by omega), if_neg (by omega)]

/-- Which bits the masks of a CTRL write keep. -/
theorem ctrlMasks (i : Fin 32) :
    (0xFFFFC7FF : Word).getLsbD i = !decide (11 ≤ i.val ∧ i.val ≤ 13) ∧ (0x3800 : Word).getLsbD i = decide (11 ≤ i.val ∧ i.val ≤ 13) ∧
      (0xFFFFC7FE : Word).getLsbD i = (!decide (11 ≤ i.val ∧ i.val ≤ 13) && !decide (i.val = 0)) ∧
      (0xFFFFFFFE : Word).getLsbD i = !decide (i.val = 0) ∧ (0x3FFE : Word).getLsbD i = (decide (i.val < 14) && !decide (i.val = 0)) ∧
      (1 : Word).getLsbD i = decide (i.val = 0) := by
  revert i
  decide

theorem State.onlyRegs_syncPut {v : Word} : s.OnlyRegs (s.syncPut k v) [(PWM_CTRL k).addr] :=
  (State.onlyRegs_put _ (PWM_CTRL_SYNCARM k) _).trans (State.onlyRegs_put _ (PWM_CTRL_SYNCOSEL k) _)

theorem State.rd_syncPut_run (v : Word) :
    (s.syncPut k (v ||| 1)).rd (PWM_CTRL k) = (s.rd (PWM_CTRL k) &&& 0xFFFFC7FF) ||| (v &&& 0x3800) := by
  refine BitVec.eq_of_getLsbD_eq fun i hi => ?_
  obtain ⟨hkeep, hsync, -, -, -, hone⟩ := ctrlMasks ⟨i, hi⟩
  rw [State.getLsbD_syncPut _ hi, BitVec.getLsbD_or, BitVec.getLsbD_or, BitVec.getLsbD_and, BitVec.getLsbD_and, hkeep, hsync, hone]
  by_cases h : 11 ≤ i ∧ i ≤ 13
  · have h0 : ¬ i = 0 := by omega
    simp [h, h0]
  · simp [h]

/-! ### Stops (R86) -/

/-- Turning an output off writes its bit of PWMk_STATUS and no other register. -/
theorem State.pwmTurnOff_rd_eq {x : Side} {t : Int} : (s.pwmTurnOff k x t).rd r = (s.put (outFld k x) 0).rd r := by
  unfold State.pwmTurnOff
  dsimp only
  split
  · exact ite_rd rfl rfl
  · rfl

theorem outFld_bit (k : Nat) (x : Side) : (outFld k x).lo = (outFld k x).hi ∧ (outFld k x).hi < 32 := by
  cases x <;> simp [outFld]

theorem outFld_apart (k : Nat) (x : Side) : (outFld k x).Apart (outFld k (other x)) := by
  cases x <;> exact ⟨rfl, by simp [outFld, other]⟩

theorem State.put_outFld_is (k : Nat) (x : Side) : (s.put (outFld k x) 0).is (outFld k x) = false := by
  obtain ⟨hlo, hhi⟩ := outFld_bit k x
  rw [State.is_put_self _ (Nat.le_of_eq hlo) hhi, Nat.zero_mod]
  rfl

theorem State.pwmKill_is_self {x : Side} {t : Int} : (s.pwmKill k x t).is (outFld k x) = false := by
  unfold State.pwmKill
  dsimp only
  rw [State.is_of_rd State.setPwmO_rd]
  split
  · rw [State.is_of_rd State.pwmTurnOff_rd_eq, State.put_outFld_is]
  · next h => exact Bool.eq_false_iff.mpr h

theorem State.pwmKill_is_other {x : Side} {t : Int} : (s.pwmKill k (other x) t).is (outFld k x) = s.is (outFld k x) := by
  unfold State.pwmKill
  dsimp only
  rw [State.is_of_rd State.setPwmO_rd]
  split
  · rw [State.is_of_rd State.pwmTurnOff_rd_eq, (outFld_apart k x).is_put]
  · rfl

theorem State.pwmStop_is_out (x : Side) : (s.pwmStop k).is (outFld k x) = false := by
  unfold State.pwmStop
  dsimp only
  rw [State.is_of_rd State.setPwm_rd]
  cases x with
  | a => exact (State.pwmKill_is_other (x := .a)).trans State.pwmKill_is_self
  | b => exact State.pwmKill_is_self

theorem pwmCtrl_not_acts (hk : k < 32) : (PWM_CTRL k).addr ∉ pwmActs k := by
  simp only [pwmActs, List.mem_cons, List.not_mem_nil, or_false, not_or]
  omega

theorem State.pwmStop_rd_ctrl (hk : k < 32) : (s.pwmStop k).rd (PWM_CTRL k) = (s.put (PWM_CTRL_RUN k) 0).rd (PWM_CTRL k) := by
  unfold State.pwmStop
  dsimp only
  rw [State.setPwm_rd, State.pwmKill_rd (pwmCtrl_not_acts hk), State.pwmKill_rd (pwmCtrl_not_acts hk)]

theorem State.pwmStop_count (hk : k < 32) : (s.pwmStop k).pwmCount k = 0 := by
  have hrun : (s.pwmStop k).is (PWM_CTRL_RUN k) = false :=
    (State.is_of_rd (State.pwmStop_rd_ctrl hk)).trans (State.is_put_self _ (Nat.le_refl _) (by simp))
  exact if_neg (by rw [State.pwmRuns, hrun]; exact Bool.false_ne_true)

theorem State.rd_pwmStop_syncPut (v : Word) (hk : k < 32) : ((s.syncPut k (v &&& 0xFFFFFFFE)).pwmStop k).rd (PWM_CTRL k) =
    (s.rd (PWM_CTRL k) &&& 0xFFFFC7FE) ||| (v &&& 0x3800) := by
  refine BitVec.eq_of_getLsbD_eq fun i hi => ?_
  obtain ⟨-, hsync, hkeep, hclear, -, -⟩ := ctrlMasks ⟨i, hi⟩
  rw [State.pwmStop_rd_ctrl hk, State.getLsbD_put (f := PWM_CTRL_RUN k) 0 (Nat.le_refl _) hi, State.getLsbD_syncPut _ hi,
    BitVec.getLsbD_or, BitVec.getLsbD_and, BitVec.getLsbD_and, BitVec.getLsbD_and, hkeep, hsync, hclear]
  by_cases h0 : i = 0
  · simp [h0]
  · by_cases h : 11 ≤ i ∧ i ≤ 13 <;> simp [h, h0]

/-! ### CTRL writes of a stopped module -/

theorem State.wr_ctrl_stopped (v : Word) : (s.wr (PWM_CTRL k) (v &&& 0x3FFE)).is (PWM_CTRL_RUN k) = false := by
  rw [State.is, State.get, State.rd_wr_self]
  simp [bitsOf]

theorem State.rd_pwmStart_wr (v : Word) :
    ((s.wr (PWM_CTRL k) ((v ||| 1) &&& 0x3FFE)).pwmStart k).rd (PWM_CTRL k) = (v &&& 0x3FFE) ||| 1 := by
  refine BitVec.eq_of_getLsbD_eq fun i hi => ?_
  obtain ⟨-, -, -, -, hfields, hone⟩ := ctrlMasks ⟨i, hi⟩
  rw [State.pwmStart_rd_of_stopped (State.wr_ctrl_stopped _), State.getLsbD_put (f := PWM_CTRL_RUN k) 1 (Nat.le_refl _) hi,
    State.rd_wr_self, BitVec.getLsbD_or, BitVec.getLsbD_and, BitVec.getLsbD_and, BitVec.getLsbD_or, hfields, hone]
  by_cases h0 : i = 0 <;> simp [h0]

theorem and_clear_low (v : Word) : (v &&& 0xFFFFFFFE).getLsbD 0 = false ∧ (v &&& 0xFFFFFFFE) &&& 0x3FFE = v &&& 0x3FFE := by
  refine ⟨by simp, ?_⟩
  rw [BitVec.and_assoc]
  rfl

/-- Settles O7: the starts and commits of the modules that a write names and its initiator owns, the four CTRL writes, and the
count of the writes of others. -/
theorem modulesStartStopAndCommitForTheirOwners : Obligations.ModulesStartStopAndCommitForTheirOwners := by
  unfold Obligations.ModulesStartStopAndCommitForTheirOwners
  refine ⟨?start, ?commit, ?startCtrl, ?runCtrl, ?stopCtrl, ?fields, fun s ini k val => counted_of_foreign rfl,
    fun s ini k val => counted_of_foreign rfl, fun s ini k val => counted_of_foreign rfl, fun s ini k val => counted_of_foreign rfl,
    fun s ini k val => counted_of_foreign rfl⟩
  case start =>
    intro s ini val h hkeep hlen
    have hpart := State.startPart_pwmEach hkeep hlen val
    refine ⟨s.pwmEach ini val State.pwmStart, congrArg Host.Outcome.next (State.busWrite_of_reaches h _), fun k => ?_, fun k hown hrun => ?_⟩
    · refine (congrArg Prod.fst (hpart k)).trans ?_
      cases val.getLsbD k.val && s.pwmMayWrite ini k.val with
      | false => exact (Bool.or_false _).symm
      | true => exact (startedPart_run _ _).trans (Bool.or_true _).symm
    · have hk := hpart k
      rw [hown, if_pos rfl, State.startPart, State.startPart, hrun] at hk
      exact ⟨congrArg (·.2.1) hk, congrArg (·.2.2) hk⟩
  case commit =>
    intro s ini val h hkeep
    refine ⟨_, congrArg Host.Outcome.next (State.busWrite_of_reaches h _), fun k => (State.cmtpend_pwmEach hkeep val k).trans ?_⟩
    cases val.getLsbD k.val && s.pwmMayWrite ini k.val <;> simp
  case startCtrl =>
    intro s ini k val h hlen hrun
    obtain ⟨-, hstart, hzero⟩ := State.pwmStart_of_stopped (s := s.wr (PWM_CTRL k.val) ((val ||| 1) &&& 0x3FFE)) (State.wr_ctrl_stopped _)
      (show k.val < s.pwm.length by rw [hlen]; exact k.isLt)
    refine ⟨_, congrArg Host.Outcome.next ((State.pwmWrite_of_owns h _).trans (State.pwmCtrlWrite_of_stopped hrun)), ?_⟩
    rw [if_pos (getLsbD_or_one val)]
    exact ⟨State.rd_pwmStart_wr val, hstart, hzero⟩
  case runCtrl =>
    intro s ini k val h hrun
    refine ⟨_, congrArg Host.Outcome.next ((State.pwmWrite_of_owns h _).trans (State.pwmCtrlWrite_of_runs hrun)), ?_⟩
    rw [if_pos (getLsbD_or_one val)]
    exact ⟨State.rd_syncPut_run val, State.onlyRegs_syncPut⟩
  case stopCtrl =>
    intro s ini k val h _ hrun
    refine ⟨_, congrArg Host.Outcome.next ((State.pwmWrite_of_owns h _).trans (State.pwmCtrlWrite_of_runs hrun)), ?_⟩
    rw [if_neg (by rw [(and_clear_low val).1]; exact Bool.false_ne_true)]
    exact ⟨State.rd_pwmStop_syncPut val k.isLt, State.pwmStop_is_out .a, State.pwmStop_is_out .b, State.pwmStop_count k.isLt⟩
  case fields =>
    intro s ini k val h hrun
    obtain ⟨hzero, hmask⟩ := and_clear_low val
    refine ⟨_, congrArg Host.Outcome.next ((State.pwmWrite_of_owns h _).trans (State.pwmCtrlWrite_of_stopped hrun)), ?_⟩
    rw [if_neg (by rw [hzero]; exact Bool.false_ne_true), hmask]
    exact ⟨State.rd_wr_self _ _ _, State.onlyRegs_wr _ _ _⟩

end Sys2Proof.Machine
end

section
/-! SUPPORT. The statement about the memory ports fails where memory lists a byte twice. -/

namespace Sys2Proof.Machine

/-- D6 and both PLLs are on, and memory lists the byte at 0x3002_0000, in the data memory of control engine 0, twice. -/
def listedTwice : State := { State.reset with mem := [(0x30020000, 1), (0x30020000, 1)], on := 0x40, pllA := true, pllB := true }

/-- Refutes O14: KP's fabric write of 0 to 0x3002_0000 takes one of the two entries of `listedTwice` away, and the word then reads 1.
The statement leaves out that memory is in its canonical form (`Memory.wf`). -/
theorem not_memoryWritesLandWhereTheyAreAddressed : ¬ Obligations.MemoryWritesLandWhereTheyAreAddressed := by
  unfold Obligations.MemoryWritesLandWhereTheyAreAddressed
  rintro ⟨hstore, -⟩
  obtain ⟨t, ht, hread, -⟩ := hstore listedTwice .kp 0x8000 0 (by decide) rfl (by decide)
  cases ht
  exact absurd hread (by decide)

end Sys2Proof.Machine
end

section
/-! SUPPORT. The invariant: it holds at reset, and every step keeps it (R75, R173). -/

namespace Sys2Proof.Machine

/-! ### Reset -/

theorem State.reset_shaped : State.reset.Shaped where
  pwm := List.length_replicate
  ce := List.length_replicate
  gates := List.length_replicate
  scg := List.length_replicate
  act := List.length_replicate
  sc := List.length_replicate
  scc := List.length_replicate
  can := List.length_replicate
  conv := ⟨List.length_replicate, List.length_replicate, List.length_replicate, Nat.zero_le 64⟩
  badger := ⟨List.length_replicate, List.length_replicate, List.length_replicate, rfl, rfl, rfl, rfl, List.length_replicate⟩
  pos := ⟨List.length_replicate, List.length_replicate, List.length_replicate, List.length_replicate⟩
  dma := List.length_replicate
  modes := ⟨List.length_replicate, List.length_replicate⟩
  kcp := rfl
  ledger := List.length_replicate
  start := rfl

/-- Settles O3: memory, the register list and the event queue are empty at reset, and every block starts with its instances. -/
theorem resetHasTheInvariant : Obligations.ResetHasTheInvariant :=
  show State.reset.Inv from
  { mem := rfl
    regs := rfl
    queue := Nat.zero_le 64
    shape := State.reset_shaped }

/-! ### A step -/

/-- A property that survives the changes to every part but the order code holds after every step: the queue gives up its front
command, which makes the other changes, or an instant makes them. -/
theorem step_keeps {P : State → Prop} (h : Keep P 1099511627772) (hq : ∀ s q, P s → P { s with pending := q }) {s : State}
    (hs : P s) : Answers P (step s) := by
  unfold step
  split
  case h_1 c rest _ => exact exec_keeps (h.mono (by decide)) c (hq s rest hs)
  case h_2 => exact ⟨s.idle, rfl, State.idle_keeps h hs⟩

/-- The invariant does not speak of the queue of waiting commands. -/
theorem State.Inv.withPending {s : State} (h : s.Inv) (q : List Instr) : State.Inv { s with pending := q } :=
  ⟨h.mem, h.regs, h.queue, { h.shape with }⟩

/-- Settles O4: the invariant survives each change that an operation makes (`keep_inv`), hence every command and every instant. -/
theorem everyStepKeepsTheInvariant : Obligations.EveryStepKeepsTheInvariant := by
  unfold Obligations.EveryStepKeepsTheInvariant
  intro s t hs ht
  obtain ⟨u, hu, hinv⟩ := step_keeps (keep_inv _) (fun _ q h => h.withPending q) hs
  cases hu.symm.trans ht
  exact hinv

end Sys2Proof.Machine
end

section
/-! SUPPORT. TIMEBASE: a read of TB_LO latches TB_HI for its reader (R72). -/

namespace Sys2Proof.Machine

variable (s : State) (ini : Initiator)

/-! ### The latches -/

/-- A read of TB_LO latches the high half of TIMEBASE for its reader. -/
theorem State.tbLatched_tbLatchSet_self : (s.tbLatchSet ini).tbLatched ini = BitVec.ofNat 32 (s.timebase / 2 ^ 32) := by
  simp [State.tbLatchSet, State.tbLatched, State.setTbLatch]

/-- A read of TB_LO leaves the latches of the other initiators as they were. -/
theorem State.tbLatched_tbLatchSet_ne {j : Initiator} (h : j ≠ ini) : (s.tbLatchSet ini).tbLatched j = s.tbLatched j := by
  have hfind : (s.tbLatchSet ini).tbLatch.find? (fun e => e.1 == j) = s.tbLatch.find? (fun e => e.1 == j) := by
    refine (List.find?_cons_of_neg (by simpa using h.symm)).trans ?_
    rw [List.find?_filter]
    congr 1
    funext e
    by_cases he : e.1 = j <;> simp [he, h]
  rw [State.tbLatched, hfind, State.tbLatched]

/-! ### The two registers -/

theorem State.timebase_lt : s.timebase < 2 ^ 64 := Nat.mod_lt _ (Nat.two_pow_pos _)

theorem State.regRead_TB_LO : s.regRead ini TB_LO.addr = (s.peek TB_LO.addr, s.tbLatchSet ini) := rfl

theorem State.regRead_TB_HI : s.regRead ini TB_HI.addr = (s.tbLatched ini, s) := rfl

/-- TB_LO shows the low half of TIMEBASE. -/
theorem State.toNat_peek_TB_LO : (s.peek TB_LO.addr).toNat = s.timebase % 2 ^ 32 := by
  have hrow : rowOf TB_LO.addr = some ⟨TB_LO.addr, 1, 1, 1, 1, 0, [(31, 0, .ro)]⟩ := by decide
  have habs : s.absent TB_LO.addr = false := rfl
  have hval : s.computed TB_LO.addr = some (s.timebase % 2 ^ 32) := rfl
  simp [State.peek, hrow, habs, hval, readFields, bitsOf]

/-- A read that reaches its block has its effect there. -/
theorem State.busRead_of_ok {a : Nat} {f : State → State} (ha : s.answers ini a = true) (hb : s.busOk ini a false = true) :
    s.busRead ini a f = f s := by
  simp [State.busRead, ha, hb]

theorem exec_tbLoRead_of_ok (ha : s.answers ini TB_LO.addr = true) (hb : s.busOk ini TB_LO.addr false = true) :
    exec (.tbLoRead ini) s = .next (s.tbLatchSet ini) :=
  congrArg Host.Outcome.next (State.busRead_of_ok s ini ha hb)

/-- Settles O13: the reader's latch holds the high half of the TIMEBASE whose low half TB_LO showed, and no other latch changes. -/
theorem tbLoLatchesTbHiForItsReader : Obligations.TbLoLatchesTbHiForItsReader := by
  unfold Obligations.TbLoLatchesTbHiForItsReader
  intro s ini ha hb
  refine ⟨s.tbLatchSet ini, exec_tbLoRead_of_ok s ini ha hb, ?_, ?_, fun j hj => s.tbLatched_tbLatchSet_ne ini hj, rfl⟩
  · have hlt := s.timebase_lt
    rw [State.regRead_TB_LO, State.regRead_TB_HI, State.tbLatched_tbLatchSet_self, State.toNat_peek_TB_LO, BitVec.toNat_ofNat,
      Nat.mod_eq_of_lt (by omega : s.timebase / 2 ^ 32 < 2 ^ 32), Nat.mod_add_div]
  · rw [State.regRead_TB_HI]

end Sys2Proof.Machine
end

section
/-! SUPPORT. The statement about shadow writes and boundaries fails where a module of an actuator stopped in the cycle of its zero
boundary. -/

namespace Sys2Proof.Machine

/-- PWM module 23, the first of actuator 0, had a zero boundary in the present cycle, and its RUN is 0 since. -/
def stoppedAtItsBoundary : State := State.reset.setPwm 23 { PwmMod.idle with lastZero := some State.reset.cyc }

theorem stoppedAtItsBoundary_not_atZero : stoppedAtItsBoundary.pwmAtZero 23 = false := by decide

/-- The zero-boundary event ends the actuator's period there, which no event of this cycle has ended yet (R275). -/
theorem stoppedAtItsBoundary_perAt : (stoppedAtItsBoundary.actOf 0).perAt = none ∧
    ((stoppedAtItsBoundary.pwmPeriodEnd 23).actOf 0).perAt = some stoppedAtItsBoundary.cyc := by decide

/-- Refutes O6: in a cycle in which module 23 is at no zero boundary because it stopped after one, the zero-boundary event still notes
that a period of actuator 0 has ended. The statement leaves out that the module's last zero boundary is of an earlier cycle. -/
theorem not_shadowWritesWaitForTheirBoundary : ¬ Obligations.ShadowWritesWaitForTheirBoundary := by
  unfold Obligations.ShadowWritesWaitForTheirBoundary
  rintro ⟨-, -, -, -, hidle, -⟩
  obtain ⟨t, ht, hsame⟩ := hidle stoppedAtItsBoundary 23 (.inl stoppedAtItsBoundary_not_atZero)
  obtain ⟨hbefore, hafter⟩ := stoppedAtItsBoundary_perAt
  have hstay : stoppedAtItsBoundary.pwmPeriodEnd 23 = stoppedAtItsBoundary := (Host.Outcome.next.inj ht).trans hsame
  rw [hstay, hbefore] at hafter
  cases hafter

end Sys2Proof.Machine
end

section
/-! SUPPORT. What a PWM module keeps while its outputs follow their references and its boundaries emit (R80–R97, R100, R101): its
status but for its outputs' bits, and its own timing; and what a zero boundary, or a jump of the counter, leaves of both. -/

namespace Sys2Proof.Machine

variable {s t u : State} {f : Fld} {k : Nat} {x : Side}

/-! ### What is kept -/

/-- What a module holds beside its outputs and the trip record of its last period. -/
def PwmMod.timing (p : PwmMod) : PwmMod := { p with a := PwmOut.idle, b := PwmOut.idle, tripPer := false }

/-- A field of the status of module k that its outputs do not write. -/
structure Fld.Settled (f : Fld) (k : Nat) : Prop where
  reg : f.reg = PWM_STATUS k
  low : (PWM_STATUS k).addr < 0x40008000
  out : ∀ x, f.Apart (outFld k x)
  dtsup : ∀ x, f.Apart (dtsupFld k x)

/-- From s to t the outputs of module k may have moved, and events, interrupts and pulses may have been sent: the rest of the module's
status, its timing, the number of modules and the cycle are those of s. -/
structure State.Follows (s : State) (k : Nat) (t : State) : Prop where
  get : ∀ f : Fld, f.Settled k → t.get f = s.get f
  timing : (t.pwmOf k).timing = (s.pwmOf k).timing
  length : t.pwm.length = s.pwm.length
  cyc : t.cyc = s.cyc

theorem State.Follows.refl (s : State) (k : Nat) : s.Follows k s := ⟨fun _ _ => rfl, rfl, rfl, rfl⟩

theorem State.Follows.trans (h : s.Follows k t) (h' : t.Follows k u) : s.Follows k u where
  get f hf := (h'.get f hf).trans (h.get f hf)
  timing := h'.timing.trans h.timing
  length := h'.length.trans h.length
  cyc := h'.cyc.trans h.cyc

theorem State.Follows.ite {c : Prop} [Decidable c] (ht : s.Follows k t) (hu : s.Follows k u) : s.Follows k (if c then t else u) := by
  split
  · exact ht
  · exact hu

theorem State.Follows.is (h : s.Follows k t) (hf : f.Settled k) : t.is f = s.is f := by rw [State.is, h.get f hf, State.is]

theorem State.Follows.bit (h : s.Follows k t) (hf : f.Settled k) (i : Nat) : t.bit f i = s.bit f i := by
  rw [State.bit, h.get f hf, State.bit]

/-! ### Fields of the status -/

/-- The bits of the status above those of its outputs. -/
theorem Fld.settled_of_high (hk : k < 32) (hreg : f.reg = PWM_STATUS k) (hlo : 6 < f.lo) (hle : f.lo ≤ f.hi) (hhi : f.hi < 32) :
    f.Settled k where
  reg := hreg
  low := by simp only; omega
  out x := ⟨hreg.trans (outFld_reg k x).symm, by cases x <;> simp only [outFld] <;> omega⟩
  dtsup x := ⟨hreg.trans (dtsupFld_reg k x).symm, by cases x <;> simp only [dtsupFld] <;> omega⟩

theorem tripped_settled (hk : k < 32) : (PWM_STATUS_TRIPPED k).Settled k := Fld.settled_of_high hk rfl (by simp) (by simp) (by simp)

theorem syncjmp_settled (hk : k < 32) : (PWM_STATUS_SYNCJMP k).Settled k := Fld.settled_of_high hk rfl (by simp) (by simp) (by simp)

/-! ### The steps -/

/-- What changes no register of the blocks and no module. -/
theorem State.Follows.of_block (hrd : ∀ r : Reg, r.addr < 0x40008000 → t.rd r = s.rd r) (hpwm : t.pwm = s.pwm) (hcyc : t.cyc = s.cyc) :
    s.Follows k t where
  get f hf := State.get_of_rd (hrd _ (hf.reg ▸ hf.low))
  timing := by rw [State.pwmOf, hpwm, State.pwmOf]
  length := congrArg List.length hpwm
  cyc := hcyc

theorem State.pwmOf_setPwm_of_length_le {p : PwmMod} (h : s.pwm.length ≤ k) : (s.setPwm k p).pwmOf k = s.pwmOf k := by
  rw [State.setPwm, List.set_eq_of_length_le h]
  rfl

theorem State.setPwm_follows {p : PwmMod} (h : p.timing = (s.pwmOf k).timing) : s.Follows k (s.setPwm k p) where
  get _ _ := rfl
  timing := by
    rcases Nat.lt_or_ge k s.pwm.length with hk | hk
    · rw [State.pwmOf_setPwm_self hk, h]
    · rw [State.pwmOf_setPwm_of_length_le hk]
  length := List.length_set
  cyc := rfl

theorem State.setPwmO_follows {o : PwmOut} : s.Follows k (s.setPwmO k x o) := State.setPwm_follows (by cases x <;> rfl)

theorem State.put_follows {v : Nat} (h : ∀ g : Fld, g.Settled k → g.Apart f) : s.Follows k (s.put f v) where
  get g hg := (h g hg).get_put s v
  timing := rfl
  length := rfl
  cyc := rfl

theorem State.inc_cnt0_follows (hf : f.reg = PWM_CNT0 k) : s.Follows k (s.inc f) where
  get g hg := State.get_of_rd (State.inc_rd (by rw [hg.reg, hf]; simp only [ne_eq]; omega))
  timing := by rw [State.inc_eq]; rfl
  length := by rw [State.inc_eq]
  cyc := by rw [State.inc_eq]

theorem State.pwmEvent_follows {j b data : Nat} {typ : Option Nat} : s.Follows k (s.pwmEvent j b typ data) :=
  .of_block (fun _ hr => State.pwmEvent_rd (by simp only [ne_eq]; omega))
    (State.pwmEvent_keeps ((keep_pwm s.pwm).mono (by decide)) rfl) (State.pwmEvent_keeps ((keep_cyc s.cyc).mono (by decide)) rfl)

theorem State.putOut_follows {v : Nat} : s.Follows k (s.put (outFld k x) v) := State.put_follows fun _ hg => hg.out x

/-! ### One output (R83–R85) -/

theorem State.pwmTurnOff_follows {i : Int} : s.Follows k (s.pwmTurnOff k x i) := by
  unfold State.pwmTurnOff
  extract_lets cleared was off y o
  have hoff : s.Follows k off := State.putOut_follows.trans State.setPwmO_follows
  split
  · exact (hoff.trans State.setPwmO_follows).ite hoff
  · exact hoff

theorem State.pwmFall_follows {i : Int} : s.Follows k (s.pwmFall k x i) := by
  unfold State.pwmFall
  extract_lets o fallen counted
  have hfallen : s.Follows k fallen := State.setPwmO_follows
  refine .ite ?_ ?_
  · split
    · exact hfallen.ite (hfallen.trans State.pwmTurnOff_follows)
    · exact hfallen.trans State.pwmTurnOff_follows
  · split
    · exact hfallen.trans ((State.inc_cnt0_follows rfl).trans
        ((State.put_follows fun _ hg => hg.dtsup x).trans State.pwmEvent_follows))
    · exact hfallen

theorem State.pwmRise_follows {i : Int} : s.Follows k (s.pwmRise k x i) := State.setPwmO_follows.ite State.setPwmO_follows

theorem State.pwmKill_follows {i : Int} : s.Follows k (s.pwmKill k x i) :=
  (State.pwmTurnOff_follows.ite (.refl s k)).trans State.setPwmO_follows

theorem State.pwmEval_follows {fallsOnly : Bool} {i : Int} : s.Follows k (s.pwmEval k x fallsOnly i) := by
  unfold State.pwmEval
  dsimp only
  exact .ite (State.pwmKill_follows.trans State.setPwmO_follows)
    (.ite State.pwmFall_follows (.ite (.refl s k) (.ite State.pwmRise_follows (.refl s k))))

theorem State.pwmApply_follows {i : Int} : s.Follows k (s.pwmApply k i) :=
  State.pwmEval_follows.trans (State.pwmEval_follows.trans (State.pwmEval_follows.trans State.pwmEval_follows))

/-! ### Edges and emissions (R80, R97, R199) -/

theorem State.pwmLevels_follows {i : Int} : s.Follows k (s.pwmLevels k i) := by
  unfold State.pwmLevels
  extract_lets c level p
  have hlevels : s.Follows k (s.setPwm k { p with a := level .a p.a, b := level .b p.b }) := State.setPwm_follows rfl
  exact hlevels.trans State.pwmApply_follows

theorem State.pwmTakeEdges_follows {hi : Int} {n : Nat} : s.Follows k (s.pwmTakeEdges k x hi n) := by
  induction n generalizing s with
  | zero => exact .refl s k
  | succ n ih =>
    unfold State.pwmTakeEdges
    dsimp only
    split
    · exact State.setPwmO_follows.trans (State.pwmApply_follows.trans ih)
    · exact .refl s k

/-- A pulse on SYNCO reaches later modules only. -/
theorem State.synco_pwmOf {j n : Nat} (h : k ≤ j) : (s.synco j n).pwmOf k = s.pwmOf k := by
  induction n generalizing s j with
  | zero => rfl
  | succ n ih =>
    unfold State.synco
    dsimp only
    split
    · rw [ih (by omega), State.pwmOf_setPwm_ne (by omega)]
    · exact State.pwmOf_setPwm_ne (by omega)

theorem State.synco_length {n : Nat} : (s.synco k n).pwm.length = s.pwm.length := by
  induction n generalizing s k with
  | zero => rfl
  | succ n ih =>
    unfold State.synco
    dsimp only
    split
    · exact ih.trans List.length_set
    · exact List.length_set

theorem State.syncEmit_follows {sel : Nat} : s.Follows k (s.syncEmit k sel) :=
  State.Follows.ite
    ⟨fun _ _ => State.get_of_rd State.synco_rd, congrArg PwmMod.timing (State.synco_pwmOf (Nat.le_refl k)),
      State.synco_length, State.synco_keeps ((keep_cyc s.cyc).mono (by decide)) rfl⟩ (.refl s k)

theorem State.ceEventSets_follows {ev : Nat} : s.Follows k (s.ceEventSets ev) :=
  .of_block
    (fun _ hr => foldl_rd _ _ (fun _ _ _ => ite_rd (State.ceComplete_rd (by simp only [ne_eq]; omega) (by simp only [ne_eq]; omega)) rfl) s)
    (State.ceEventSets_keeps ((keep_pwm s.pwm).mono (by decide)) rfl) (State.ceEventSets_keeps ((keep_cyc s.cyc).mono (by decide)) rfl)

/-! ### A zero boundary (R87–R90, R96) -/

variable {jump : Bool}

/-- The registers in effect stand apart from the status. -/
theorem pwmStatus_ne_inEffect (k i : Nat) : (PWM_STATUS k).addr ≠ (pwmInEffect k i).addr := by
  unfold pwmInEffect
  split <;> simp only [ne_eq] <;> omega

theorem State.pwmTransfer_get {mask : Nat} (h : f.reg = PWM_STATUS k) : (s.pwmTransfer k mask).get f = s.get f :=
  State.get_of_rd (foldl_rd _ _ (fun t i _ => ite_rd (State.rd_wr_ne t _ (h ▸ pwmStatus_ne_inEffect k i)) rfl) s)

theorem State.pwmTransfer_pwm {mask : Nat} : (s.pwmTransfer k mask).pwm = s.pwm :=
  State.pwmTransfer_keeps ((keep_pwm s.pwm).mono (by decide)) rfl

theorem State.pwmTransfer_cyc {mask : Nat} : (s.pwmTransfer k mask).cyc = s.cyc :=
  State.pwmTransfer_keeps ((keep_cyc s.cyc).mono (by decide)) rfl

/-- The commit bits hold nothing of another field of the status. -/
theorem State.setCommit_get {b : Bool} (h : f.Apart (PWM_STATUS_CMTPEND k)) : (s.setCommit k b).get f = s.get f := by
  have hne : f.reg.addr ≠ PWMG_CMTSTAT.addr := by
    rw [h.reg]
    simp only [ne_eq]
    omega
  exact (State.get_of_rd (State.putFldBit_rd hne)).trans (h.get_put s _)

theorem State.tripCycleEnd_get (h : f.Apart (PWM_STATUS_TRIPPED k)) : (s.tripCycleEnd k).get f = s.get f := by
  refine List.foldlRecOn _ _ (motive := fun t : State => t.get f = s.get f) rfl fun t ht i _ => ?_
  split
  · exact (h.get_put t _).trans ht
  · exact ht

theorem State.tripCycleEnd_pwmOf {j : Nat} : (s.tripCycleEnd k).pwmOf j = s.pwmOf j := by
  rw [State.pwmOf, show (s.tripCycleEnd k).pwm = s.pwm from State.tripCycleEnd_keeps ((keep_pwm s.pwm).mono (by decide)) rfl, State.pwmOf]

/-- What a module notes of a zero boundary in a cycle. -/
def PwmMod.opened (p : PwmMod) (cyc : Nat) : PwmMod := { p with start := false, owed := 0, lastZero := some cyc }

/-- A zero boundary leaves a field of the status that neither the outputs nor commits and trips write. -/
theorem State.pwmZero_get (hf : f.Settled k) (hcmt : f.Apart (PWM_STATUS_CMTPEND k)) (htrip : f.Apart (PWM_STATUS_TRIPPED k)) :
    (s.pwmZero k jump).get f = s.get f := by
  unfold State.pwmZero
  extract_lets t taken down cnt mask moved consumed committed p zero opened ended levelled logged
  have htaken : s.Follows k taken := (State.Follows.refl s k).ite (State.pwmTakeEdges_follows.trans State.pwmTakeEdges_follows)
  have hmoved : moved.get f = s.get f := (State.pwmTransfer_get hf.reg).trans (htaken.get f hf)
  have hcommitted : committed.get f = s.get f := by
    dsimp only [committed]
    split
    · exact (State.setCommit_get hcmt).trans hmoved
    · exact hmoved
  have hended : ended.get f = s.get f := (State.tripCycleEnd_get htrip).trans hcommitted
  have hend : ended.Follows k ((logged.syncEmit k 1).ceEventSets (pwmEvCode k 0)) :=
    (State.pwmLevels_follows.trans State.pwmEvent_follows).trans (State.syncEmit_follows.trans State.ceEventSets_follows)
  exact (hend.get f hf).trans hended

/-- A zero boundary notes itself in its module. The counter stands where it stood, unless a jump leaves it counting down (R99). -/
theorem State.pwmZero_timing (hlen : k < s.pwm.length) (hup : (jump && s.pwmDown k) = false) :
    ((s.pwmZero k jump).pwmOf k).timing = (s.pwmOf k).timing.opened s.cyc := by
  unfold State.pwmZero
  extract_lets t taken down cnt mask moved consumed committed p zero opened ended levelled logged
  have htaken : s.Follows k taken := (State.Follows.refl s k).ite (State.pwmTakeEdges_follows.trans State.pwmTakeEdges_follows)
  have hpwm : committed.pwm = taken.pwm := by
    dsimp only [committed]
    split <;> exact State.pwmTransfer_pwm
  have hcyc : committed.cyc = s.cyc := by
    dsimp only [committed]
    split <;> exact State.pwmTransfer_cyc.trans htaken.cyc
  have hp : p = taken.pwmOf k := congrArg (nth · k PwmMod.idle) hpwm
  have hdown : down = false := by
    cases jump with
    | false => rfl
    | true => exact hup
  have hzero : zero = p.zero := by
    dsimp only [zero]
    rw [hdown]
    rfl
  have hlen' : k < committed.pwm.length := by
    rw [hpwm, htaken.length]
    exact hlen
  have hend : ended.Follows k ((logged.syncEmit k 1).ceEventSets (pwmEvCode k 0)) :=
    (State.pwmLevels_follows.trans State.pwmEvent_follows).trans (State.syncEmit_follows.trans State.ceEventSets_follows)
  rw [hend.timing, State.tripCycleEnd_pwmOf, State.pwmOf_setPwm_self hlen', hzero, hcyc, hp, ← htaken.timing]
  rfl

end Sys2Proof.Machine
end

section
/-! SUPPORT. Trips and SYNCI pulses of a PWM module, and the statement about forces, trips, synchronisation and the taps (R81, R91,
R92, R96–R99). -/

namespace Sys2Proof.Machine

variable {s t : State} {f : Fld} {k i : Nat}

/-! ### Trip inputs (R187, R188) -/

/-- A trip input looks at no register of the PWM modules' blocks. -/
theorem State.tripIn_of_rd (hon : t.on = s.on) (hfox : t.fox = s.fox) (hrd : ∀ r : Reg, 0x40008000 ≤ r.addr → t.rd r = s.rd r) :
    t.tripIn k i = s.tripIn k i := by
  have hisOn : t.isOn 8 = s.isOn 8 := congrArg (·.getLsbD 8) hon
  have his : ∀ f : Fld, 0x40008000 ≤ f.reg.addr → t.is f = s.is f := fun f hf => State.is_of_rd (hrd _ hf)
  have hheld : ∀ g, t.gateHeld g = s.gateHeld g := fun g => by
    simp only [State.gateHeld, his (GD_PFLT_DIDT g) (by simp only; omega), his (GD_PFLT_DSAT g) (by simp only; omega),
      his (GD_PFLT_UVP g) (by simp only; omega), his (GD_PFLT_UVN g) (by simp only; omega), his (GD_PROT_NUV_ACT g) (by simp only; omega)]
  have hwm : ∀ m low, t.is (wmEn m low) = s.is (wmEn m low) := fun m low => his _ (by cases low <;> simp [wmEn] <;> omega)
  have hsource : ∀ c, t.foxSource c = s.foxSource c := fun c => by
    simp only [State.foxSource, hisOn, hfox, hheld, hwm, State.get_of_rd (g := HSM_STATUS_FOFF) (hrd _ (by decide)),
      his HSM_STATUS_ASC_A (by decide), his HSM_STATUS_ASC_B (by decide)]
  have hgroup : ∀ j, t.orGroup j = s.orGroup j := fun j => by
    have hmask : ∀ c, t.rd (TRN_OR_MSK j c) = s.rd (TRN_OR_MSK j c) := fun c => hrd _ (by simp only; omega)
    simp only [State.orGroup, hmask, hsource]
  have hsel : t.trnSel k i = s.trnSel k i := by rw [State.trnSel, hrd _ (by simp only; omega), State.trnSel]
  simp only [State.tripIn, State.foxActive, hsel, hsource, hgroup]

theorem State.tripIn_put_status (hk : k < 32) (hf : f.reg = PWM_STATUS k) (v : Nat) : (s.put f v).tripIn k i = s.tripIn k i :=
  State.tripIn_of_rd rfl rfl fun r hr => State.put_rd_of_reg hf (by simp only [ne_eq]; omega)

/-! ### Trip states (R92, R96) -/

/-- A bit of a field after a write to one of its bits. -/
theorem State.bit_putFldBit {j : Nat} (b : Bool) (hl : f.lo ≤ f.hi) (hh : f.hi < 32) (hj : j < f.hi + 1 - f.lo) :
    (s.putFldBit f i b).bit f j = if j = i then b else s.bit f j := by
  rw [State.bit, State.putFldBit, State.get_put_self _ _ _ hl hh, Fld.size, bitOf_eq_testBit, Nat.testBit_mod_two_pow, putBit,
    testBit_putBits _ _ _ _ _ (Nat.le_refl i), decide_eq_true hj, Bool.true_and]
  by_cases h : j = i
  · subst h
    cases b <;> simp
  · rw [if_neg (by omega), if_neg h, State.bit, bitOf_eq_testBit]

theorem State.tripped_putFldBit {j : Nat} (b : Bool) (hj : j < 4) : (s.putFldBit (PWM_STATUS_TRIPPED k) i b).bit (PWM_STATUS_TRIPPED k) j =
    if j = i then b else s.bit (PWM_STATUS_TRIPPED k) j :=
  State.bit_putFldBit b (by simp) (by simp) (by simpa using hj)

theorem State.tripArm_get : (s.tripArm k i).get f = s.get f := State.get_of_rd State.tripArm_rd

theorem State.tripConf_get (h : f.Apart (PWM_STATUS_TRIPCONF k)) : (s.tripConf k).get f = s.get f := by
  unfold State.tripConf
  split
  · exact h.get_put s 1
  · rfl

/-- A trip that starts sets its own bit of TRIPPED. -/
theorem State.tripStart_tripped (hk : k < 32) (hin : s.tripIn k i = true) (hnew : s.bit (PWM_STATUS_TRIPPED k) i = false) {j : Nat}
    (hj : j < 4) : (s.tripStart k i).bit (PWM_STATUS_TRIPPED k) j = if j = i then true else s.bit (PWM_STATUS_TRIPPED k) j := by
  have hapart : (PWM_STATUS_TRIPPED k).Apart (PWM_STATUS_TRIPCONF k) := ⟨rfl, by simp⟩
  unfold State.tripStart
  rw [if_pos (by rw [hin, hnew]; rfl)]
  extract_lets tripped applied
  have hfollows : tripped.Follows k (if applied.pwmRuns k then applied.pwmEvent k 7 none 0 else applied) :=
    .ite (State.pwmApply_follows.trans State.pwmEvent_follows) State.pwmApply_follows
  rw [hfollows.bit (tripped_settled hk), State.bit, State.tripConf_get hapart, State.tripArm_get, ← State.bit,
    State.tripped_putFldBit true hj]

theorem State.tripStart_of_not (h : s.tripIn k i = false ∨ s.bit (PWM_STATUS_TRIPPED k) i = true) : s.tripStart k i = s :=
  if_neg (by rcases h with h | h <;> simp [h])

theorem bit_of_cleared {named tripped latched active : Bool} (h : (named && tripped && latched && !active) = true) :
    false = (tripped && !(named && latched && !active)) := by
  revert named tripped latched active
  decide

theorem bit_of_not_cleared {named tripped latched active : Bool} (h : ¬ (named && tripped && latched && !active) = true) :
    tripped = (tripped && !(named && latched && !active)) := by
  revert named tripped latched active
  decide

/-- A TRIPCLR write ends a trip state that it names, that is latched, and whose input is inactive. -/
theorem State.pwmTripClear_tripped (hk : k < 32) (v : Word) {j : Nat} (hj : j < 4) :
    (s.pwmTripClear k v).bit (PWM_STATUS_TRIPPED k) j = (s.bit (PWM_STATUS_TRIPPED k) j &&
      !(v.getLsbD j && (s.rd (PWM_TRIPCFG k)).getLsbD (8 * j + 4) && !s.tripIn k j)) := by
  have hcfg : (PWM_TRIPCFG k).addr ≠ (PWM_STATUS k).addr := by simp only [ne_eq]; omega
  unfold State.pwmTripClear
  rw [State.pwmApply_follows.bit (tripped_settled hk)]
  refine foldl_range_at (P := fun t => t.rd (PWM_TRIPCFG k) = s.rd (PWM_TRIPCFG k) ∧ ∀ i, t.tripIn k i = s.tripIn k i)
    (part := fun t j => t.bit (PWM_STATUS_TRIPPED k) j)
    (next := fun j b => b && !(v.getLsbD j && (s.rd (PWM_TRIPCFG k)).getLsbD (8 * j + 4) && !s.tripIn k j))
    ?_ ?_ ?_ ⟨rfl, fun _ => rfl⟩ hj
  · rintro t i - ⟨ht, hin⟩
    split
    · exact ⟨(State.putFldBit_rd hcfg).trans ht, fun j => (State.tripIn_put_status hk rfl _).trans (hin j)⟩
    · exact ⟨ht, hin⟩
  · rintro t i hi ⟨ht, hin⟩
    rw [bitOf_toNat, bitOf_toNat, ht, hin]
    split
    · next h =>
      rw [State.tripped_putFldBit false hi, if_pos rfl]
      exact bit_of_cleared h
    · next h => exact bit_of_not_cleared h
  · rintro t i - j hj hne -
    split
    · rw [State.tripped_putFldBit false hj, if_neg hne]
    · rfl

/-! ### A SYNCI pulse (R97–R99) -/

/-- A SYNCI pulse arrives in this cycle at a running module that takes it, and PHASE stands for a count on the way up. -/
structure State.SyncsUp (s : State) (k : Nat) : Prop where
  ticking : s.ticking = true
  length : k < s.pwm.length
  pulse : (s.pwmOf k).syncAt = some s.cyc
  runs : s.pwmRuns k = true
  start : (s.pwmOf k).start = false
  enabled : s.is (PWM_CTRL_SYNCEN k) = true
  armed : s.is (PWM_CTRL_SYNCMODE k) = false ∨ s.is (PWM_CTRL_SYNCARM k) = true
  phase : s.get (PWM_PHASE_EFF_PHASE k) < 16 * s.pwmPrd k
  up : s.is (PWM_CTRL_CNTMODE k) = false ∨
    (s.is (PWM_PHASE_EFF_PHDIR k) = false ∧ s.get (PWM_PHASE_EFF_PHASE k) / 16 + 1 < s.pwmPrd k)

/-- The cycle from which the counter reaches PHASE/16 at the boundary that emitted the pulse. -/
def State.syncZero (s : State) (k : Nat) : Int := (s.cyc : Int) - 1 - (s.get (PWM_PHASE_EFF_PHASE k) / 16 : Nat)

/-- The counter is in phase with the pulse. -/
def State.inPhase (s : State) (k : Nat) : Prop := ((s.pwmOf k).zero - s.syncZero k) % (s.pwmPeriod k : Int) = 0

/-- The state in which the module has taken the pulse, which disarms it in one-shot mode. -/
def State.syncTaken (s : State) (k : Nat) : State :=
  let t := s.setPwm k { s.pwmOf k with syncAt := none }
  if t.is (PWM_CTRL_SYNCMODE k) then t.put (PWM_CTRL_SYNCARM k) 0 else t

/-- The state in which the edges are shifted by the fine part of PHASE. -/
def State.syncShifted (s : State) (k : Nat) : State :=
  (s.syncTaken k).setPwm k { (s.syncTaken k).pwmOf k with fine := -((s.get (PWM_PHASE_EFF_PHASE k) % 16 : Nat) : Int) }

/-- The state in which the counter has jumped into phase. -/
def State.syncJumped (s : State) (k : Nat) : State :=
  ((s.syncShifted k).setPwm k { (s.syncShifted k).pwmOf k with zero := s.syncZero k, jump := some (s.syncShifted k).cyc }).put
    (PWM_STATUS_SYNCJMP k) 1

theorem State.syncTaken_rd {r : Reg} (h : r.addr ≠ (PWM_CTRL k).addr) : (s.syncTaken k).rd r = s.rd r := ite_rd (State.rd_put_ne _ _ h) rfl

theorem State.syncTaken_get_ctrl (h : f.Apart (PWM_CTRL_SYNCARM k)) : (s.syncTaken k).get f = s.get f := by
  unfold State.syncTaken
  dsimp only
  split
  · exact h.get_put _ 0
  · rfl

theorem State.syncTaken_pwm : (s.syncTaken k).pwm = s.pwm.set k { s.pwmOf k with syncAt := none } := by
  unfold State.syncTaken
  dsimp only
  split <;> rfl

theorem State.syncTaken_cyc : (s.syncTaken k).cyc = s.cyc := by
  unfold State.syncTaken
  dsimp only
  split <;> rfl

theorem State.syncTaken_pwmOf (h : k < s.pwm.length) : (s.syncTaken k).pwmOf k = { s.pwmOf k with syncAt := none } := by
  rw [State.pwmOf, State.syncTaken_pwm]
  exact State.pwmOf_setPwm_self h

theorem State.syncTaken_length : (s.syncTaken k).pwm.length = s.pwm.length := by rw [State.syncTaken_pwm, List.length_set]

theorem State.syncTaken_pwmPrd : (s.syncTaken k).pwmPrd k = s.pwmPrd k := by
  rw [State.pwmPrd, State.get_of_rd (State.syncTaken_rd (by simp only [ne_eq]; omega)), State.pwmPrd]

theorem State.syncTaken_pwmUpdn : (s.syncTaken k).pwmUpdn k = s.pwmUpdn k := by
  have hapart : (PWM_CTRL_CNTMODE k).Apart (PWM_CTRL_SYNCARM k) := ⟨rfl, by simp⟩
  rw [State.pwmUpdn, State.is, State.syncTaken_get_ctrl hapart, ← State.is, State.pwmUpdn]

theorem State.syncTaken_pwmPeriod : (s.syncTaken k).pwmPeriod k = s.pwmPeriod k := by
  rw [State.pwmPeriod, State.syncTaken_pwmUpdn, State.syncTaken_pwmPrd, State.pwmPeriod]

theorem State.syncTaken_phase : (s.syncTaken k).rd (PWM_PHASE_EFF k) = s.rd (PWM_PHASE_EFF k) :=
  State.syncTaken_rd (by simp only [ne_eq]; omega)

/-- Counting up, PHASE is within the period and the pulse asks for no count on the way down. -/
theorem State.SyncsUp.phase_min (h : s.SyncsUp k) :
    min (s.get (PWM_PHASE_EFF_PHASE k)) (if s.pwmUpdn k then 16 * s.pwmPrd k else 16 * s.pwmPrd k - 1) = s.get (PWM_PHASE_EFF_PHASE k) := by
  have hphase := h.phase
  split <;> omega

theorem State.SyncsUp.not_down (h : s.SyncsUp k) : (s.pwmUpdn k && s.is (PWM_PHASE_EFF_PHDIR k)) = false := by
  rcases h.up with hup | ⟨hdir, -⟩
  · rw [State.pwmUpdn, hup, Bool.false_and]
  · rw [hdir, Bool.and_false]

/-- Counting up, a pulse shifts the edges of a counter that is in phase, and makes another jump at a zero boundary. -/
theorem State.SyncsUp.pwmSync_eq (h : s.SyncsUp k) : ∃ data, s.pwmSync k =
    if ((s.pwmOf k).zero - s.syncZero k) % (s.pwmPeriod k : Int) == 0 then s.syncShifted k
    else ((s.syncJumped k).pwmZero k true).pwmEvent k 8 (some 0x07) data := by
  have harmed : (!s.is (PWM_CTRL_SYNCMODE k) || s.is (PWM_CTRL_SYNCARM k)) = true := by rcases h.armed with ha | ha <;> simp [ha]
  unfold State.pwmSync
  rw [harmed, if_pos (by simp [h.ticking, h.pulse, h.runs, h.start, h.enabled])]
  extract_lets was t taken prd updn ph dir down te z fine same after shifted placed jumped cnt zeroed
  have hprd : prd = s.pwmPrd k := State.syncTaken_pwmPrd
  have hupdn : updn = s.pwmUpdn k := State.syncTaken_pwmUpdn
  have hdir : dir = s.is (PWM_PHASE_EFF_PHDIR k) := State.is_of_rd State.syncTaken_phase
  have hph : ph = s.get (PWM_PHASE_EFF_PHASE k) := by
    dsimp only [ph]
    rw [hprd, hupdn, show taken.get (PWM_PHASE_EFF_PHASE k) = s.get (PWM_PHASE_EFF_PHASE k) from State.get_of_rd State.syncTaken_phase]
    exact h.phase_min
  have hdown : down = false := by
    dsimp only [down]
    rw [hupdn, hdir]
    exact h.not_down
  have hz : z = s.syncZero k := by
    dsimp only [z, te]
    rw [hdown, hph, if_neg Bool.false_ne_true, show taken.cyc = s.cyc from State.syncTaken_cyc]
    rfl
  have hshifted : shifted = s.syncShifted k := by
    dsimp only [shifted, fine]
    rw [hdown, hph]
    rfl
  have hsame : same = (((s.pwmOf k).zero - s.syncZero k) % (s.pwmPeriod k : Int) == 0) := by
    dsimp only [same]
    rw [hz, show taken.pwmPeriod k = s.pwmPeriod k from State.syncTaken_pwmPeriod,
      show taken.pwmOf k = { s.pwmOf k with syncAt := none } from State.syncTaken_pwmOf h.length]
  have hzeroed : zeroed = (s.syncJumped k).pwmZero k true := by
    dsimp only [zeroed, jumped, placed]
    rw [hz, hshifted]
    rfl
  rw [hsame, hshifted, hzeroed]
  exact ⟨_, rfl⟩

theorem State.syncShifted_pwmOf (h : k < s.pwm.length) : (s.syncShifted k).pwmOf k =
    { s.pwmOf k with syncAt := none, fine := -((s.get (PWM_PHASE_EFF_PHASE k) % 16 : Nat) : Int) } := by
  rw [State.syncShifted, State.pwmOf_setPwm_self (by rw [State.syncTaken_length]; exact h), State.syncTaken_pwmOf h]

theorem State.syncShifted_length : (s.syncShifted k).pwm.length = s.pwm.length := by
  rw [State.syncShifted, State.setPwm, State.setPwms_pwm, List.length_set, State.syncTaken_length]

theorem State.syncJumped_pwmOf (h : k < s.pwm.length) : (s.syncJumped k).pwmOf k =
    { (s.syncShifted k).pwmOf k with zero := s.syncZero k, jump := some (s.syncShifted k).cyc } :=
  State.pwmOf_setPwm_self (by rw [State.syncShifted_length]; exact h)

theorem State.syncJumped_length : (s.syncJumped k).pwm.length = s.pwm.length := by
  rw [State.syncJumped, State.put_pwm, State.setPwm, State.setPwms_pwm, List.length_set, State.syncShifted_length]

theorem State.syncJumped_cyc : (s.syncJumped k).cyc = s.cyc := State.syncTaken_cyc

/-- A counter that has jumped to a phase on the way up counts up. -/
theorem State.SyncsUp.jumped_up (h : s.SyncsUp k) : (s.syncJumped k).pwmDown k = false := by
  have hprd : (s.syncJumped k).pwmPrd k = s.pwmPrd k := by
    rw [State.pwmPrd, State.syncJumped, State.get_put_ne _ _ (by simp only [ne_eq]; omega)]
    exact State.syncTaken_pwmPrd
  have hupdn : (s.syncJumped k).pwmUpdn k = s.pwmUpdn k := by
    rw [State.pwmUpdn, State.syncJumped, State.is, State.get_put_ne _ _ (by simp only [ne_eq]; omega)]
    exact State.syncTaken_pwmUpdn
  rw [State.pwmDown, hprd, hupdn]
  rcases h.up with hmode | ⟨-, hphase⟩
  · rw [State.pwmUpdn, hmode, Bool.and_false, Bool.false_and]
  · have hcount : ((s.cyc : Int) - s.syncZero k).toNat = s.get (PWM_PHASE_EFF_PHASE k) / 16 + 1 := by
      rw [State.syncZero]
      omega
    have hpos : (s.syncJumped k).pwmPos k ≤ s.get (PWM_PHASE_EFF_PHASE k) / 16 + 1 := by
      rw [State.pwmPos, State.syncJumped_pwmOf h.length, State.syncJumped_cyc, hcount]
      exact Nat.mod_le _ _
    rw [decide_eq_false (by omega), Bool.and_false]

/-- What a pulse leaves of a counter that is out of phase. -/
theorem State.SyncsUp.pwmSync_of_out (h : s.SyncsUp k) (hk : k < 32) (hout : ¬ s.inPhase k) :
    (s.pwmSync k).is (PWM_STATUS_SYNCJMP k) = true ∧ ((s.pwmSync k).pwmOf k).timing =
      { s.pwmOf k with syncAt := none, fine := -((s.get (PWM_PHASE_EFF_PHASE k) % 16 : Nat) : Int),
                       zero := s.syncZero k, jump := some s.cyc : PwmMod }.timing.opened s.cyc := by
  obtain ⟨data, hsync⟩ := h.pwmSync_eq
  have hcmt : (PWM_STATUS_SYNCJMP k).Apart (PWM_STATUS_CMTPEND k) := ⟨rfl, by simp⟩
  have htrip : (PWM_STATUS_SYNCJMP k).Apart (PWM_STATUS_TRIPPED k) := ⟨rfl, by simp⟩
  have hcyc : (s.syncShifted k).cyc = s.cyc := State.syncTaken_cyc
  rw [hsync, if_neg (by simpa [State.inPhase] using hout)]
  refine ⟨?_, ?_⟩
  · rw [State.pwmEvent_follows.is (syncjmp_settled hk), State.is, State.pwmZero_get (syncjmp_settled hk) hcmt htrip, ← State.is]
    exact State.is_put_self _ (Nat.le_refl _) (by simp)
  · have hlen : k < (s.syncJumped k).pwm.length := by
      rw [State.syncJumped_length]
      exact h.length
    rw [State.pwmEvent_follows.timing, State.pwmZero_timing hlen ((Bool.true_and _).trans h.jumped_up), State.syncJumped_pwmOf h.length,
      State.syncShifted_pwmOf h.length, State.syncJumped_cyc, hcyc]

/-- What a pulse leaves of a counter that is in phase. -/
theorem State.SyncsUp.pwmSync_of_in (h : s.SyncsUp k) (hin : s.inPhase k) : s.pwmSync k = s.syncShifted k := by
  obtain ⟨data, hsync⟩ := h.pwmSync_eq
  rw [hsync, if_pos (by simpa [State.inPhase] using hin)]

/-! ### The statement -/

theorem State.lt_pwm_length (h : s.pwm.length = 32) (k : Fin 32) : k.val < s.pwm.length := by
  rw [h]
  exact k.isLt

/-- Settles O9: a force waits for the next tick, trips begin and end in their own bits (`State.tripStart_tripped`,
`State.pwmTripClear_tripped`), a pulse shifts the edges or makes the counter jump (`State.SyncsUp.pwmSync_eq`), and the taps move once
a period. -/
theorem forcesTripsAndSynchronisationActOnTheirModule : Obligations.ForcesTripsAndSynchronisationActOnTheirModule := by
  unfold Obligations.ForcesTripsAndSynchronisationActOnTheirModule
  refine ⟨?force, ?trip, ?noTrip, ?clear, ?jump, ?shift, ?noPulse, ?tap, ?noTap⟩
  case force =>
    intro s ini k val h hlen
    have hpwm : (s.pwmForceWrite k.val val).pwmOf k.val = { s.pwmOf k.val with forceAt := some (4 * (s.tick + 1)) } :=
      State.pwmOf_setPwm_self (s := s.wr (PWM_FORCE k.val) (val &&& 0xF)) (State.lt_pwm_length hlen k)
    refine ⟨_, congrArg Host.Outcome.next (State.pwmWrite_of_owns h _), State.rd_wr_self s _ _, ?_⟩
    rw [hpwm]
    exact ⟨rfl, rfl⟩
  case trip =>
    intro s k i hin hnew
    refine ⟨_, rfl, fun j => (State.tripStart_tripped k.isLt hin hnew j.isLt).trans ?_⟩
    by_cases hj : j = i
    · simp [hj]
    · rw [if_neg (Fin.val_ne_of_ne hj), beq_false_of_ne hj, Bool.or_false]
  case noTrip => exact fun s k i h => ⟨_, rfl, State.tripStart_of_not h⟩
  case clear =>
    intro s ini k val h
    exact ⟨_, congrArg Host.Outcome.next (State.pwmWrite_of_owns h _), fun j => State.pwmTripClear_tripped k.isLt val j.isLt⟩
  case jump =>
    intro s k htick hlen hpulse hrun hstart hen harmed hphase hup hout
    have hsync : s.SyncsUp k.val := ⟨htick, State.lt_pwm_length hlen k, hpulse, hrun, hstart, hen, harmed, hphase, hup⟩
    obtain ⟨hjmp, htiming⟩ := hsync.pwmSync_of_out k.isLt hout
    exact ⟨_, rfl, hjmp, (congrArg PwmMod.zero htiming :), (congrArg PwmMod.fine htiming :), (congrArg PwmMod.syncAt htiming :)⟩
  case shift =>
    intro s k htick hlen hpulse hrun hstart hen harmed hphase hup hin
    have hdue : s.SyncsUp k.val := ⟨htick, State.lt_pwm_length hlen k, hpulse, hrun, hstart, hen, harmed, hphase, hup⟩
    have hjmp : (s.syncShifted k.val).is (PWM_STATUS_SYNCJMP k.val) = s.is (PWM_STATUS_SYNCJMP k.val) :=
      State.is_of_rd (State.syncTaken_rd (by simp only [ne_eq]; omega))
    refine ⟨_, congrArg Host.Outcome.next (hdue.pwmSync_of_in hin), hjmp, ?_⟩
    rw [State.syncShifted_pwmOf hdue.length]
    exact ⟨rfl, rfl, rfl⟩
  case noPulse => exact fun s k h => ⟨_, rfl, if_neg (by simp [h])⟩
  case tap =>
    intro s k up htick hlen hnew
    refine ⟨_, congrArg Host.Outcome.next (if_pos (by simp [htick, hnew])), ?_⟩
    rw [State.pwmOf_setPwm_self (State.lt_pwm_length hlen k)]
    exact ⟨rfl, rfl⟩
  case noTap => exact fun s k up h => ⟨_, rfl, if_neg (by simp [h])⟩

end Sys2Proof.Machine
end

section
/-! SUPPORT. One-bit fields after a write to their register, and the gate channels after a write to one of them or to a register
(R105–R128). -/

namespace Sys2Proof.Machine

variable {s t : State} {f : Fld} {g j : Nat} {c : GateCh}

/-! ### One-bit fields -/

/-- A one-bit field is 1 where the register has its bit. -/
theorem State.is_bit (s : State) (r : Reg) (i : Nat) : s.is ⟨r, i, i⟩ = (s.rd r).getLsbD i := by
  rw [← bitOf_toNat, State.is, State.get, bitsOf, bitOf, Nat.add_sub_cancel_left, Nat.pow_one]
  rcases Nat.mod_two_eq_zero_or_one ((s.rd r).toNat / 2 ^ i) with h | h <;> rw [h] <;> rfl

/-- A bit of a register after one of its bits has been set or cleared. -/
theorem State.is_put_bit (r : Reg) {i k : Nat} (hi : i < 32) (v : Nat) :
    (s.put ⟨r, k, k⟩ v).is ⟨r, i, i⟩ = if i = k then decide (v % 2 = 1) else s.is ⟨r, i, i⟩ := by
  rw [State.is_bit, State.is_bit, State.getLsbD_put (f := ⟨r, k, k⟩) v (Nat.le_refl k) hi]
  by_cases h : i = k
  · subst h
    rw [if_pos ⟨Nat.le_refl i, Nat.le_refl i⟩, if_pos rfl, Nat.sub_self, Nat.testBit_zero]
  · rw [if_neg (show ¬ (k ≤ i ∧ i ≤ k) by omega), if_neg h]

/-- A count of one more, in a state whose register holds what it held in s. -/
theorem State.get_inc_of_rd (h : t.rd f.reg = s.rd f.reg) (hl : f.lo ≤ f.hi) (hh : f.hi < 32) :
    (t.inc f).get f = min (s.get f + 1) (f.size - 1) := by
  rw [State.get_inc_self hl hh, State.get_of_rd h]

theorem State.OnlyRegs.mono {as bs : List Nat} (h : s.OnlyRegs t as) (hsub : as ⊆ bs) : s.OnlyRegs t bs :=
  ⟨h.1, fun r hr => h.2 r fun ha => hr (hsub ha)⟩

/-! ### Gate channels -/

theorem State.gate_of_gates (h : t.gates = s.gates) : t.gate j = s.gate j := by
  rw [State.gate, h, State.gate]

@[simp] theorem State.gate_put {v : Nat} : (s.put f v).gate j = s.gate j := rfl
@[simp] theorem State.gate_putB {b : Bool} : (s.putB f b).gate j = s.gate j := rfl
@[simp] theorem State.gate_wr {r : Reg} {v : Word} : (s.wr r v).gate j = s.gate j := rfl

@[simp] theorem State.gate_inc : (s.inc f).gate j = s.gate j := by
  rw [State.inc_eq]
  rfl

theorem State.log_gates {l i y : Nat} : (s.log l i y).gates = s.gates := State.log_keeps ((keep_gates _).mono (by decide)) rfl

theorem State.log_now {l i y : Nat} : (s.log l i y).now = s.now :=
  congrArg Clocks.now (State.log_keeps ((keep_clk s.clk).mono (by decide)) rfl)

@[simp] theorem State.gate_log {l i y : Nat} : (s.log l i y).gate j = s.gate j := State.gate_of_gates State.log_gates

theorem State.gate_setGate_self (h : g < s.gates.length) : (s.setGate g c).gate g = c := by
  simp [State.gate, State.setGate, nth, h]

theorem State.gate_setGate_ne (h : j ≠ g) : (s.setGate g c).gate j = s.gate j := by
  simp [State.gate, State.setGate, nth, List.getElem?_set_ne h.symm]

@[simp] theorem State.setGate_get : (s.setGate g c).get f = s.get f := rfl
@[simp] theorem State.setGate_is : (s.setGate g c).is f = s.is f := rfl

theorem lt_gates_length (h : s.gates.length = 64) (g : Fin 64) : g.val < s.gates.length := by
  rw [h]
  exact g.isLt

/-! ### The status of a channel -/

theorem gdStatus_ne {k : Nat} (h : j ≠ k) : (GD_STATUS j).addr ≠ (GD_STATUS k).addr := by
  simp only [ne_eq]
  omega

@[simp] theorem State.log_is_gdStatus {l i y b : Nat} : (s.log l i y).is ⟨GD_STATUS g, b, b⟩ = s.is ⟨GD_STATUS g, b, b⟩ :=
  State.is_of_rd (State.log_rd (by simp only [ne_eq]; omega))

@[simp] theorem State.inc_cnt0_is_gdStatus {hi lo b : Nat} :
    (s.inc ⟨GD_CNT0 g, hi, lo⟩).is ⟨GD_STATUS g, b, b⟩ = s.is ⟨GD_STATUS g, b, b⟩ :=
  State.is_of_rd (State.inc_rd (by simp only [ne_eq]; omega))

@[simp] theorem State.inc_cnt1_is_gdStatus {hi lo b : Nat} :
    (s.inc ⟨GD_CNT1 g, hi, lo⟩).is ⟨GD_STATUS g, b, b⟩ = s.is ⟨GD_STATUS g, b, b⟩ :=
  State.is_of_rd (State.inc_rd (by simp only [ne_eq]; omega))

/-! ### Writes of the gate block (R6) -/

theorem State.gdWrite_of_populated {ini : Initiator} {a : Nat} (h : s.Reaches ini a) (hg : s.gatePopulated g = true) (f : State → State) :
    s.gdWrite ini g a f = f s := by
  rw [State.gdWrite, State.busWrite_of_reaches h, if_pos hg]

theorem State.gdWrite_of_absent {ini : Initiator} {a : Nat} (h : s.Reaches ini a) (hg : s.gatePopulated g = false) (f : State → State) :
    s.gdWrite ini g a f = s := by
  rw [State.gdWrite, State.busWrite_of_reaches h, if_neg (by simp [hg])]

/-- A write that only isolated channels take is ignored by a channel that is absent or not isolated. -/
theorem State.gdWrite_ignored {ini : Initiator} {a : Nat} (h : s.Reaches ini a) {f : State → State}
    (hg : s.gatePopulated g = false ∨ isolated g = false) (hf : isolated g = false → f s = s) : s.gdWrite ini g a f = s := by
  cases hpop : s.gatePopulated g with
  | false => exact State.gdWrite_of_absent h hpop f
  | true => exact (State.gdWrite_of_populated h hpop f).trans (hf (hg.resolve_left (by simp [hpop])))

end Sys2Proof.Machine
end

section
/-! SUPPORT. The statement about gate commands fails where the last change of a pad lies after the present instant. -/

namespace Sys2Proof.Machine

/-- D6 is on, and GIN0 went up one instant after the present one; GINFLT is 0, and its level has not passed. -/
def padAhead : State := { State.reset with on := 0x40 }.setGate 0 { GateCh.idle with pad := true, padAt := 1 }

theorem padAhead_gin : padAhead.ginHold 0 = 0 ∧ ((padAhead.ginEdge 0 true false false 0).gate 0).gin = false := by decide

/-- Refutes O15: with GINFLT = 0 a level passes at once, but `padAhead` notes the pad's last change at a later instant than the
present one, and the repeated level does not pass. The statement leaves out that the pad's last change lies in the past. -/
theorem not_gateCommandsPassEnableFilterAndInterlock : ¬ Obligations.GateCommandsPassEnableFilterAndInterlock := by
  unfold Obligations.GateCommandsPassEnableFilterAndInterlock
  rintro ⟨-, -, -, -, -, -, -, hpad, -⟩
  obtain ⟨t, ht, -, -, hgin⟩ := hpad padAhead 0 true false false 0 (by decide) (by decide)
  obtain ⟨hhold, hlow⟩ := padAhead_gin
  cases ht
  exact Bool.false_ne_true (hlow.symm.trans (hgin.trans (if_pos hhold)))

end Sys2Proof.Machine
end

section
/-! SUPPORT. Refreshes and undervoltages of a bootstrap channel (R126–R128), and the statement about them. -/

namespace Sys2Proof.Machine

variable {s : State} {r : Reg} {g j : Nat}

/-! ### The low side (R126, R128) -/

theorem State.lowAgain_rd (h : r.addr ≠ (GD_STATUS (g + 1)).addr) : (s.lowAgain g).rd r = s.rd r := State.putB_rd h

@[simp] theorem State.lowAgain_gate : (s.lowAgain g).gate j = s.gate j := rfl

@[simp] theorem State.lowAgain_is {b : Nat} : (s.lowAgain g).is ⟨GD_STATUS g, b, b⟩ = s.is ⟨GD_STATUS g, b, b⟩ :=
  State.is_of_rd (State.lowAgain_rd (gdStatus_ne (Nat.ne_of_lt (Nat.lt_succ_self g))))

/-- The low side is on for its command; else, where no forced state holds it off, for the pulse of a refresh and under BUV with
BUV_LSON once RF_GUARD has passed. -/
theorem State.lowAgain_is_gate : (s.lowAgain g).is (GD_STATUS_GATE (g + 1)) =
    ((s.gate (g + 1)).drv || (s.forcedCmd (g + 1) != some false && s.gatePowered (g + 1) &&
      ((s.gate g).refresh == 2 || (s.is (GD_STATUS_BUV g) && s.is (GD_BOOT_BUV_LSON g) && decide ((s.gate g).buvAt + s.rfGuard g ≤ s.now))))) := by
  rw [Bool.or_comm ((s.gate g).refresh == 2)]
  exact State.is_putB_self _ rfl (by simp)

theorem State.onlyRegs_lowAgain : s.OnlyRegs (s.lowAgain g) [(GD_STATUS (g + 1)).addr] := State.onlyRegs_put _ _ _

/-! ### The high side (R127, R128) -/

/-- The high side's command stays on at the end of a refresh: its output turns on unless BUV holds. -/
theorem State.driveHigh_is_gate (h : (s.gate g).refresh = 0) :
    (s.driveHigh g true).is (GD_STATUS_GATE g) = (s.is (GD_STATUS_GATE g) || !s.is (GD_STATUS_BUV g)) := by
  cases hbuv : s.is (GD_STATUS_BUV g) <;> simp [State.driveHigh, h, hbuv, State.is_put_bit]

theorem State.driveHigh_is {b : Nat} (hb : b < 32) (h : b ≠ 2) :
    (s.driveHigh g true).is ⟨GD_STATUS g, b, b⟩ = s.is ⟨GD_STATUS g, b, b⟩ := by
  unfold State.driveHigh
  rw [if_pos rfl]
  split
  · rfl
  · rw [State.is_put_bit _ hb, if_neg h, State.setGate_is]

theorem State.driveHigh_refresh : ((s.driveHigh g true).gate g).refresh = (s.gate g).refresh := by
  unfold State.driveHigh
  rw [if_pos rfl]
  split
  · rfl
  · rcases Nat.lt_or_ge g s.gates.length with hg | hg
    · rw [State.gate_put, State.gate_setGate_self hg]
    · rw [State.gate_put, State.setGate, List.set_eq_of_length_le hg]
      rfl

/-! ### Refreshes (R126, R127) -/

/-- The step of a refresh on the channel has lasted its least time. -/
structure State.RefreshDue (s : State) (g : Nat) : Prop where
  length : g < s.gates.length
  high : bootHigh g = true
  runs : (s.gate g).refresh ≠ 0
  time : (s.gate g).refAt + s.refreshMin g ≤ s.now

/-- The refresh of the channel has ended. -/
def State.refreshEnded (s : State) (g : Nat) : State :=
  ((s.setGate g { s.gate g with refresh := 0, refEnd := false }).put (GD_STATUS_RFACT g) 0).lowAgain g

theorem State.refreshEnded_gate (h : g < s.gates.length) : (s.refreshEnded g).gate g = { s.gate g with refresh := 0, refEnd := false } := by
  rw [State.refreshEnded, State.lowAgain_gate, State.gate_put, State.gate_setGate_self h]

theorem State.refreshEnded_is {b : Nat} (hb : b < 32) :
    (s.refreshEnded g).is ⟨GD_STATUS g, b, b⟩ = if b = 10 then false else s.is ⟨GD_STATUS g, b, b⟩ := by
  rw [State.refreshEnded, State.lowAgain_is, State.is_put_bit _ hb, State.setGate_is]
  rfl

theorem State.RefreshDue.refreshStep_eq (h : s.RefreshDue g) : s.refreshStep g =
    if (s.gate g).refEnd || !(s.gate g).drv || (s.gate g).refresh == 3 then
      if (s.gate g).drv && !(s.gate g).refEnd then (s.refreshEnded g).driveHigh g true else s.refreshEnded g
    else (s.setGate g { s.gate g with refresh := (s.gate g).refresh + 1, refAt := s.now }).lowAgain g :=
  if_pos (by simp [h.high, h.runs, h.time])

/-- The guard leads to the low-side pulse, and the pulse to the last guard. -/
theorem State.RefreshDue.refreshStep_of_goesOn (h : s.RefreshDue g) (hdrv : (s.gate g).drv = true) (hend : (s.gate g).refEnd = false)
    (hstep : (s.gate g).refresh ≠ 3) :
    s.refreshStep g = (s.setGate g { s.gate g with refresh := (s.gate g).refresh + 1, refAt := s.now }).lowAgain g := by
  rw [h.refreshStep_eq, if_neg (by simp [hdrv, hend, hstep])]

/-- The last guard leads to the high side on again. -/
theorem State.RefreshDue.refreshStep_of_last (h : s.RefreshDue g) (hdrv : (s.gate g).drv = true) (hend : (s.gate g).refEnd = false)
    (hstep : (s.gate g).refresh = 3) : s.refreshStep g = (s.refreshEnded g).driveHigh g true := by
  rw [h.refreshStep_eq, if_pos (by simp [hstep]), if_pos (by simp [hdrv, hend])]

/-- A refresh during which the command has fallen ends with its step. -/
theorem State.RefreshDue.refreshStep_of_fallen (h : s.RefreshDue g) (hfall : (s.gate g).drv = false ∨ (s.gate g).refEnd = true) :
    s.refreshStep g = s.refreshEnded g := by
  rw [h.refreshStep_eq, if_pos (by rcases hfall with h | h <;> simp [h]), if_neg (by rcases hfall with h | h <;> simp [h])]

/-! ### A clear of BUV (R128) -/

theorem regAt_gdStatus (g : Fin 64) : regAt (GD_STATUS g.val).addr = GD_STATUS g.val := by
  revert g
  decide

theorem gdStatus_buv_listed (g : Fin 64) : (11, 11, .w1c) ∈ fieldsAt (GD_STATUS g.val).addr := by
  revert g
  decide

/-- A write of 1 clears BUV where it was set when the instant began. -/
theorem State.fieldWrite_is_buv (g : Fin 64) (v : Word) : (s.fieldWrite (GD_STATUS g.val).addr (v ||| 0x800)).is (GD_STATUS_BUV g.val) =
    (s.is (GD_STATUS_BUV g.val) && !(s.rdWas (GD_STATUS g.val)).getLsbD 11) := by
  rw [State.is_bit, State.is_bit, State.getLsbD_fieldWrite s _ (regAt_gdStatus g) (gdStatus_buv_listed g) (by decide) (Nat.le_refl 11)
    (Nat.le_refl 11)]
  simp [bitAfter]

theorem State.gdStatusWrite_is_buv (g : Fin 64) (v : Word) (ok : Bool) : (s.gdStatusWrite g.val (v ||| 0x800) ok).is (GD_STATUS_BUV g.val) =
    (s.is (GD_STATUS_BUV g.val) && !(ok && (s.rdWas (GD_STATUS g.val)).getLsbD 11)) := by
  unfold State.gdStatusWrite
  extract_lets keep t u
  have hu : u.is (GD_STATUS_BUV g.val) = (s.is (GD_STATUS_BUV g.val) && !(ok && (s.rdWas (GD_STATUS g.val)).getLsbD 11)) := by
    cases ok with
    | true => exact State.fieldWrite_is_buv g v
    | false =>
      have hkeep : keep % (GD_STATUS_BUV g.val).size = keep := Nat.mod_eq_of_lt (State.get_lt_size s _)
      calc (t.put (GD_STATUS_BUV g.val) keep).is (GD_STATUS_BUV g.val) = (keep != 0) := by
            rw [State.is_put_self _ (by simp) (by simp), hkeep]
        _ = _ := by rw [Bool.false_and, Bool.not_false, Bool.and_true]; rfl
  split
  · rw [State.lowAgain_is, hu]
  · exact hu

theorem State.onlyRegs_gdStatusWrite (v : Word) (ok : Bool) :
    s.OnlyRegs (s.gdStatusWrite g v ok) [(GD_STATUS g).addr, (GD_STATUS (g + 1)).addr] := by
  unfold State.gdStatusWrite
  extract_lets keep t u
  have hu : s.OnlyRegs u [(GD_STATUS g).addr] := by
    dsimp only [u]
    split
    · exact State.onlyRegs_fieldWrite _ _ _
    · exact (State.onlyRegs_fieldWrite _ _ _).trans (State.onlyRegs_put _ _ _)
  have hlow : s.OnlyRegs u [(GD_STATUS g).addr, (GD_STATUS (g + 1)).addr] := hu.mono (by simp)
  split
  · exact hlow.trans (State.onlyRegs_lowAgain.mono (by simp))
  · exact hlow

/-! ### The statement -/

/-- Settles O17: `State.refreshStart` and `State.bootUnder` by the bits that they write, the steps of a refresh by
`State.RefreshDue.refreshStep_eq`, and a clear by `State.gdStatusWrite_is_buv`. -/
theorem bootstrapRefreshAndUndervoltage : Obligations.BootstrapRefreshAndUndervoltage := by
  unfold Obligations.BootstrapRefreshAndUndervoltage
  refine ⟨?start, ?noStart, ?step, ?last, ?fallen, ?noStep, ?under, ?noUnder, ?clear, ?absent⟩
  case start =>
    intro s g hlen hhigh hpow hen hdrv hgate hrun htime
    refine ⟨_, congrArg Host.Outcome.next (if_pos (by simp [*])), ?_, ?_, ?_, ?_, ?_, ?_⟩
    · rw [State.gate_inc, State.gate_put, State.gate_put, State.gate_setGate_self (lt_gates_length hlen g)]
    · rw [State.gate_inc, State.gate_put, State.gate_put, State.gate_setGate_self (lt_gates_length hlen g)]
    · simp [State.is_put_bit]
    · simp [State.is_put_bit]
    · refine State.get_inc_of_rd ?_ (by simp) (by simp)
      rw [State.rd_put_ne _ _ (by simp only [ne_eq]; omega), State.rd_put_ne _ _ (by simp only [ne_eq]; omega), State.setGate_rd]
    · rw [State.inc_eq]
      rfl
  case noStart => exact fun s g h => ⟨_, rfl, if_neg (by rcases h with h | h | h | h | h | h | h <;> simp [h])⟩
  case step =>
    intro s g hlen hhigh hrun htime hdrv hend
    have hdue : s.RefreshDue g.val := ⟨lt_gates_length hlen g, hhigh, by omega, htime⟩
    refine ⟨_, congrArg Host.Outcome.next (hdue.refreshStep_of_goesOn hdrv hend (by omega)), ?_, ?_, ?_, ?_, ?_⟩
    · rw [State.lowAgain_gate, State.gate_setGate_self hdue.length]
    · rw [State.lowAgain_gate, State.gate_setGate_self hdue.length]
    · have hpulse : ((s.gate g.val).refresh + 1 == 2) = ((s.gate g.val).refresh == 1) := by simp
      rw [State.lowAgain_is_gate, State.gate_setGate_self hdue.length, State.gate_setGate_ne (by omega)]
      show (_ || (_ && _ && ((s.gate g.val).refresh + 1 == 2 || _))) = _
      rw [hpulse]
      rfl
    · exact State.lowAgain_is
    · exact State.lowAgain_is
  case last =>
    intro s g hlen hhigh hrun htime hdrv hend
    have hdue : s.RefreshDue g.val := ⟨lt_gates_length hlen g, hhigh, by omega, htime⟩
    have hgate := State.refreshEnded_gate hdue.length
    refine ⟨_, congrArg Host.Outcome.next (hdue.refreshStep_of_last hdrv hend hrun), ?_, ?_, ?_⟩
    · rw [State.driveHigh_refresh, hgate]
    · rw [State.driveHigh_is (by decide) (by decide), State.refreshEnded_is (by decide)]
      rfl
    · rw [State.driveHigh_is_gate (by rw [hgate]), State.refreshEnded_is (by decide), State.refreshEnded_is (by decide)]
      rfl
  case fallen =>
    intro s g hlen hhigh hrun htime hfall
    have hdue : s.RefreshDue g.val := ⟨lt_gates_length hlen g, hhigh, hrun, htime⟩
    have hgate := State.refreshEnded_gate hdue.length
    refine ⟨_, congrArg Host.Outcome.next (hdue.refreshStep_of_fallen hfall), ?_, ?_, ?_, ?_⟩
    · rw [hgate]
    · rw [hgate]
    · exact State.refreshEnded_is (by decide)
    · exact State.refreshEnded_is (by decide)
  case noStep => exact fun s g h => ⟨_, rfl, if_neg (by rcases h with h | h | h <;> simp [h])⟩
  case under =>
    intro s g v hlen hhigh hpow hbuv hv
    refine ⟨_, congrArg Host.Outcome.next (if_pos (by simp [*])), ?_, ?_, ?_, ?_, ?_⟩
    · simp [State.is_put_bit]
    · simp [State.is_put_bit]
    · simp [State.is_put_bit]
    · rw [State.lowAgain_gate, State.gate_put, State.gate_setGate_self (by rw [State.log_gates]; exact lt_gates_length hlen g)]
    · rw [State.lowAgain_gate, State.gate_put, State.gate_setGate_self (by rw [State.log_gates]; exact lt_gates_length hlen g)]
      exact State.log_now
  case noUnder => exact fun s g v h => ⟨_, rfl, if_neg (by rcases h with h | h | h | h <;> simp [h])⟩
  case clear =>
    intro s ini g val v hreach hpop
    exact ⟨_, congrArg Host.Outcome.next (State.gdWrite_of_populated hreach hpop _), State.gdStatusWrite_is_buv g val _,
      State.onlyRegs_gdStatusWrite _ _⟩
  case absent => exact fun s ini g val v hreach hpop => ⟨_, rfl, State.gdWrite_of_absent hreach hpop _⟩

end Sys2Proof.Machine
end

section
/-! SUPPORT. Phases, and profile and loop writes of a gate channel (R111, R112, R114, R120). -/

namespace Sys2Proof.Machine

variable {s t : State} {r : Reg} {g : Nat} {on : Bool}

/-! ### Phases (R111, R112) -/

/-- The phase after phase p: the next whose duration is not 0, else the hold state. -/
theorem nextPhase_of_running (prof : Nat) {p : Nat} (h : p ≠ 0) : nextPhase prof p =
    if p = 1 ∧ bitsOf 13 8 prof ≠ 0 then 2 else if (p = 1 ∨ p = 2) ∧ bitsOf 21 16 prof ≠ 0 then 3 else 0 := by
  have hp1 : ¬ p < 1 := by omega
  have hp2 : p < 2 ↔ p = 1 := by omega
  have hp3 : p < 3 ↔ p = 1 ∨ p = 2 := by omega
  simp [nextPhase, hp1, hp2, hp3, h]

theorem State.setPhase_gate (h : g < s.gates.length) {p : Nat} : (s.setPhase g p).gate g =
    { s.gate g with phase := p, phaseAt := s.now, segs := phaseSegs (s.gate g).prof.toNat p } := State.gate_setGate_self h

/-! ### Profiles (R114) -/

/-- The writes of a profile that wait. -/
def GateCh.sh (c : GateCh) (on : Bool) : List (Nat × Word × Bool) := if on then c.shOn else c.shOff

/-- A profile write waits for a direction; the other direction's keep waiting as they did. -/
theorem State.profilePush_sh (h : g < s.gates.length) (v : Word) (reload dir : Bool) : ((s.profilePush g on v reload).gate g).sh dir =
    (s.gate g).sh dir ++ if dir = on then [(s.now, v, reload)] else [] := by
  rw [State.profilePush, State.gate_setGate_self h]
  cases on <;> cases dir <;> simp [GateCh.sh]

theorem profReg_listed (g : Fin 64) (on : Bool) (h : isolated g.val = true) : regAt (profReg g.val on).addr = profReg g.val on ∧
    fieldsAt (profReg g.val on).addr = [(23, 22, .shd), (21, 16, .shd), (15, 14, .shd), (13, 8, .shd), (7, 6, .shd), (5, 0, .shd)] := by
  revert g on
  decide

/-- A profile's fields take the value, and reserved bits stay. -/
theorem State.rd_fieldWrite_profReg (g : Fin 64) (on : Bool) (h : isolated g.val = true) (v : Word) :
    (s.fieldWrite (profReg g.val on).addr v).rd (profReg g.val on) = (s.rd (profReg g.val on) &&& 0xFF000000) ||| (v &&& 0xFFFFFF) := by
  obtain ⟨hreg, hfs⟩ := profReg_listed g on h
  have hmask : ∀ i : Fin 32, (0xFF000000 : Word).getLsbD i = !decide (i.val < 24) ∧ (0xFFFFFF : Word).getLsbD i = decide (i.val < 24) := by
    decide
  have hcover : ∀ i < 24, ∃ f ∈ fieldsAt (profReg g.val on).addr, f.2.2 = .shd ∧ f.2.1 ≤ i ∧ i ≤ f.1 := by
    rw [hfs]
    decide
  have hreserved : ∀ i < 32, 24 ≤ i → ∀ f ∈ fieldsAt (profReg g.val on).addr, i < f.2.1 ∨ f.1 < i := by
    rw [hfs]
    decide
  refine BitVec.eq_of_getLsbD_eq fun i hi => ?_
  obtain ⟨hkeep, htake⟩ := hmask ⟨i, hi⟩
  rw [BitVec.getLsbD_or, BitVec.getLsbD_and, BitVec.getLsbD_and, hkeep, htake]
  by_cases h24 : i < 24
  · obtain ⟨⟨hi', lo, acc⟩, hmem, rfl, hlo, hhi⟩ := hcover i h24
    rw [State.getLsbD_fieldWrite s v hreg hmem (by decide) hlo hhi]
    simp [bitAfter, h24]
  · rw [State.getLsbD_fieldWrite_reserved s v hreg hi (hreserved i hi (by omega))]
    simp [h24]

theorem State.OnlyRegs.gates {as : List Nat} (h : s.OnlyRegs t as) : t.gates = s.gates := by rw [h.1]

theorem State.OnlyRegs.now {as : List Nat} (h : s.OnlyRegs t as) : t.now = s.now := by
  rw [h.1]
  rfl

theorem profReg_ne_loop (g : Nat) (on : Bool) : (profReg g on).addr ≠ (GD_LOOP g).addr := by
  cases on <;> simp [profReg]

theorem loopEn_reg (g : Nat) (on : Bool) : (loopEn g on).reg = GD_LOOP g := by cases on <;> rfl

theorem profFld_ne_profReg (g : Nat) (on : Bool) : (profFld g on).addr ≠ (profReg g on).addr := by
  cases on <;> simp [profFld, profReg]

theorem State.profileWrite_of_isolated (h : isolated g = true) (v : Word) : s.profileWrite g on v =
    (s.fieldWrite (profReg g on).addr v).profilePush g on ((s.fieldWrite (profReg g on).addr v).rd (profReg g on))
      ((s.fieldWrite (profReg g on).addr v).is (loopEn g on)) := if_pos h

/-! ### The loop (R120) -/

/-- A direction that the write of LOOP enables reloads its count with the profile that waits from then on. -/
def State.reloadIf (s : State) (g : Nat) (on enabled : Bool) : State :=
  if enabled then s.profilePush g on (s.rd (profReg g on)) true else s

theorem State.reloadIf_eq (enabled : Bool) : s.reloadIf g on enabled = { s with gates := (s.reloadIf g on enabled).gates } := by
  unfold State.reloadIf
  split <;> rfl

@[simp] theorem State.reloadIf_rd {enabled : Bool} : (s.reloadIf g on enabled).rd r = s.rd r := by
  unfold State.reloadIf
  split <;> rfl

@[simp] theorem State.reloadIf_now {enabled : Bool} : (s.reloadIf g on enabled).now = s.now := by
  unfold State.reloadIf
  split <;> rfl

theorem State.reloadIf_gates_length (enabled : Bool) : (s.reloadIf g on enabled).gates.length = s.gates.length := by
  unfold State.reloadIf
  split
  · exact List.length_set
  · rfl

theorem State.reloadIf_sh (h : g < s.gates.length) (enabled dir : Bool) : ((s.reloadIf g on enabled).gate g).sh dir =
    (s.gate g).sh dir ++ if dir = on ∧ enabled = true then [(s.now, s.rd (profReg g on), true)] else [] := by
  cases enabled with
  | true => simp [State.reloadIf, State.profilePush_sh h]
  | false => simp [State.reloadIf]

/-- LOOP has taken a written value, and a direction that it disables uses its count no more. -/
def State.loopTaken (s : State) (g : Nat) (v : Word) : State :=
  let t := s.fieldWrite (GD_LOOP g).addr v
  t.setGate g { t.gate g with
    loopOn := (t.gate g).loopOn && t.is (GD_LOOP_EN_ON g), loopOff := (t.gate g).loopOff && t.is (GD_LOOP_EN_OFF g) }

theorem State.loopTaken_rd {v : Word} : (s.loopTaken g v).rd r = (s.fieldWrite (GD_LOOP g).addr v).rd r := rfl

theorem State.loopTaken_gates_length {v : Word} : (s.loopTaken g v).gates.length = s.gates.length := by
  rw [← (State.onlyRegs_fieldWrite s (GD_LOOP g).addr v).gates]
  exact List.length_set

theorem State.loopTaken_sh (h : g < s.gates.length) (v : Word) (dir : Bool) : ((s.loopTaken g v).gate g).sh dir = (s.gate g).sh dir := by
  have hgates := (State.onlyRegs_fieldWrite s (GD_LOOP g).addr v).gates
  rw [State.loopTaken, State.gate_setGate_self (hgates ▸ h), State.gate_of_gates hgates]
  cases dir <;> rfl

/-- A direction that the write enables. -/
def State.enables (s : State) (g : Nat) (v : Word) (on : Bool) : Bool := (s.loopTaken g v).is (loopEn g on) && !s.is (loopEn g on)

theorem State.loopWrite_of_isolated (h : isolated g = true) (v : Word) : s.loopWrite g v =
    ((s.loopTaken g v).reloadIf g true (s.enables g v true)).reloadIf g false (s.enables g v false) := by
  have hsame : ∀ e : Bool, ((s.loopTaken g v).reloadIf g true e).is (loopEn g false) = (s.loopTaken g v).is (loopEn g false) :=
    fun _ => State.is_of_rd State.reloadIf_rd
  rw [State.loopWrite, if_pos h]
  show State.reloadIf _ g false (State.is _ (loopEn g false) && !s.is (loopEn g false)) = _
  exact congrArg (fun b => State.reloadIf _ g false (b && !s.is (loopEn g false))) (hsame _)

theorem State.loopWrite_eq (h : isolated g = true) (v : Word) :
    s.loopWrite g v = { s.loopTaken g v with gates := (s.loopWrite g v).gates } := by
  rw [State.loopWrite_of_isolated h, State.reloadIf_eq, State.reloadIf_eq (s := s.loopTaken g v)]

theorem State.loopWrite_rd (h : isolated g = true) {v : Word} : (s.loopWrite g v).rd r = (s.fieldWrite (GD_LOOP g).addr v).rd r := by
  rw [State.loopWrite_of_isolated h, State.reloadIf_rd, State.reloadIf_rd, State.loopTaken_rd]

theorem State.onlyRegs_loopWrite (h : isolated g = true) (v : Word) :
    s.OnlyRegs { s.loopWrite g v with gates := s.gates } [(GD_LOOP g).addr] := by
  have honly := State.onlyRegs_fieldWrite s (GD_LOOP g).addr v
  have heq : { s.loopWrite g v with gates := s.gates } = s.fieldWrite (GD_LOOP g).addr v := by
    rw [State.loopWrite_eq h, State.loopTaken, State.setGate, State.setGates, ← honly.gates]
  rw [heq]
  exact honly

theorem gdLoop_listed (g : Fin 64) (h : isolated g.val = true) : regAt (GD_LOOP g.val).addr = GD_LOOP g.val ∧
    fieldsAt (GD_LOOP g.val).addr =
      [(29, 20, .rwl), (19, 16, .rw), (15, 12, .rw), (9, 8, .rwl), (7, 6, .rwl), (2, 2, .rw), (1, 1, .rw), (0, 0, .rw)] := by
  revert g
  decide

/-- The one-bit fields of LOOP take the value. -/
theorem State.loopTaken_is (g : Fin 64) (h : isolated g.val = true) (v : Word) {b : Nat} (hb : b < 3) :
    (s.loopTaken g.val v).is ⟨GD_LOOP g.val, b, b⟩ = v.getLsbD b := by
  obtain ⟨hreg, hfs⟩ := gdLoop_listed g h
  have hmem : (b, b, .rw) ∈ fieldsAt (GD_LOOP g.val).addr := by
    rw [hfs]
    interval_cases b <;> simp
  rw [State.is_bit, State.loopTaken_rd, State.getLsbD_fieldWrite s v hreg hmem (by decide) (Nat.le_refl b) (Nat.le_refl b)]
  rfl

/-- A direction that the write enables, and that was not enabled, waits with its profile for the reload of its count. -/
theorem State.loopWrite_sh (g : Fin 64) (h : isolated g.val = true) (hg : g.val < s.gates.length) (v : Word) (dir : Bool) :
    ((s.loopWrite g.val v).gate g.val).sh dir = (s.gate g.val).sh dir ++
      if s.enables g.val v dir then [(s.now, s.rd (profReg g.val dir), true)] else [] := by
  have hnow : (s.loopTaken g.val v).now = s.now := (State.onlyRegs_fieldWrite s (GD_LOOP g.val).addr v).now
  have hrd : ∀ dir, (s.loopTaken g.val v).rd (profReg g.val dir) = s.rd (profReg g.val dir) :=
    fun dir => State.rd_fieldWrite_ne s v (profReg_ne_loop g.val dir)
  have hlen : g.val < (s.loopTaken g.val v).gates.length := by rwa [State.loopTaken_gates_length]
  rw [State.loopWrite_of_isolated h, State.reloadIf_sh (by rwa [State.reloadIf_gates_length]), State.reloadIf_sh hlen, State.loopTaken_sh hg,
    State.reloadIf_now, State.reloadIf_rd, hnow, hrd, hrd]
  cases dir <;> simp

theorem State.enables_on (g : Fin 64) (h : isolated g.val = true) (v : Word) :
    s.enables g.val v true = (v.getLsbD 0 && !s.is (GD_LOOP_EN_ON g.val)) :=
  congrArg (· && !s.is (GD_LOOP_EN_ON g.val)) (State.loopTaken_is g h v (by decide))

theorem State.enables_off (g : Fin 64) (h : isolated g.val = true) (v : Word) :
    s.enables g.val v false = (v.getLsbD 1 && !s.is (GD_LOOP_EN_OFF g.val)) :=
  congrArg (· && !s.is (GD_LOOP_EN_OFF g.val)) (State.loopTaken_is g h v (by decide))

/-- The ceiling takes the value while the configuration is unlocked. -/
theorem State.loopTaken_get_ceil (g : Fin 64) (h : isolated g.val = true) (v : Word) : (s.loopTaken g.val v).get (GD_LOOP_CEIL g.val) =
    if s.is GDG_LOCK_CFG_LOCK then s.get (GD_LOOP_CEIL g.val) else bitsOf 29 20 v.toNat := by
  obtain ⟨hreg, hfs⟩ := gdLoop_listed g h
  have hlock : s.locked (GD_LOOP g.val).addr = s.is GDG_LOCK_CFG_LOCK := by
    unfold State.locked
    rw [if_pos (by simp only; omega)]
  have hwrite := State.get_fieldWrite s v (f := GD_LOOP_CEIL g.val) (acc := .rwl) hreg (by rw [hfs]; simp)
  rw [hlock] at hwrite
  exact hwrite

end Sys2Proof.Machine
end

section
/-! SUPPORT. Measured edges of a gate channel (R115–R117), and the statement about phases, profiles, the loop and edges. -/

namespace Sys2Proof.Machine

variable {s t : State} {r : Reg} {g n cause : Nat} {on bad : Bool}

/-! ### Reports -/

/-- The edge under measurement in a direction. -/
def GateCh.mon (c : GateCh) (on : Bool) : Option (Nat × Bool) := if on then c.monOn else c.monOff

/-- The measurement of an edge has ended. -/
def State.measured (s : State) (g : Nat) (on : Bool) : State :=
  s.setGate g (if on then { s.gate g with monOn := none } else { s.gate g with monOff := none })

theorem State.measured_mon (h : g < s.gates.length) : ((s.measured g on).gate g).mon on = none := by
  rw [State.measured, State.gate_setGate_self h]
  cases on <;> rfl

/-- A report of an edge: VALID and CAUSE as one number, N, DVDT and T2080. -/
def edgeWord (c n d x : Nat) : Word := BitVec.ofNat 32 (c * 2 ^ 28 + n * 2 ^ 26 + d * 2 ^ 16 + x)

theorem edgeWord_fields {c n d x : Nat} (hc : c < 16) (hn : n < 4) (hd : d < 1024) (hx : x < 4096) :
    bitsOf 31 31 (edgeWord c n d x).toNat = c / 8 ∧ bitsOf 30 28 (edgeWord c n d x).toNat = c % 8 ∧
      bitsOf 27 26 (edgeWord c n d x).toNat = n ∧ bitsOf 25 16 (edgeWord c n d x).toNat = d ∧ bitsOf 11 0 (edgeWord c n d x).toNat = x := by
  rw [edgeWord, BitVec.toNat_ofNat, Nat.mod_eq_of_lt (by omega)]
  simp only [bitsOf, Nat.reduceAdd, Nat.reduceSub, Nat.reducePow]
  omega

theorem State.get_edge_of_rd {w : Word} (h : t.rd (edgeReg g on) = w) (hi lo : Nat) : t.get ⟨edgeReg g on, hi, lo⟩ = bitsOf hi lo w.toNat := by
  rw [State.get, h]

/-- Between s and t the edge monitor has reported an edge invalid. -/
def State.ReportsInvalid (s t : State) (g : Nat) (on : Bool) (n cause : Nat) : Prop :=
  t.is ⟨edgeReg g on, 31, 31⟩ = false ∧ t.get ⟨edgeReg g on, 30, 28⟩ = cause ∧ t.get ⟨edgeReg g on, 27, 26⟩ = n ∧
    t.get (GD_CNT1_INVAL_CNT g) = min (s.get (GD_CNT1_INVAL_CNT g) + 1) 65535 ∧ (t.gate g).mon on = none

/-- Between s and t the edge monitor has reported an edge valid, with the time x between its crossings. -/
def State.ReportsValid (s t : State) (g : Nat) (on : Bool) (n x : Nat) : Prop :=
  t.is ⟨edgeReg g on, 31, 31⟩ = true ∧ t.get ⟨edgeReg g on, 27, 26⟩ = n ∧ t.get ⟨edgeReg g on, 11, 0⟩ = x ∧
    t.get ⟨edgeReg g on, 25, 16⟩ = dvdtOf (s.get (GD_LEVELS_VOFF g) - s.get (GD_LEVELS_VON g)) (s.get (GD_SENSE_SNSK g)) x ∧
    (t.gate g).mon on = none

theorem edgeReg_ne_cnt1 (g : Nat) (on : Bool) : (edgeReg g on).addr ≠ (GD_CNT1 g).addr := by
  cases on <;> simp [edgeReg]

theorem State.edgeInvalid_rd_edge : ∃ d x, d < 1024 ∧ x < 4096 ∧ (s.edgeInvalid g on n cause).rd (edgeReg g on) = edgeWord cause n d x := by
  refine ⟨_, _, bitsOf_lt 25 16 (s.freeNat % 2 ^ 26), bitsOf_lt 11 0 (s.freeNat % 2 ^ 26), ?_⟩
  unfold State.edgeInvalid
  rw [State.inc_rd (edgeReg_ne_cnt1 g on), State.rd_wr_self]
  rfl

theorem State.edgeInvalid_reports (h : g < s.gates.length) (hn : n < 4) (hcause : cause < 8) :
    s.ReportsInvalid ((s.measured g on).edgeInvalid g on n cause) g on n cause := by
  obtain ⟨d, x, hd, hx, hrd⟩ := State.edgeInvalid_rd_edge (s := s.measured g on) (g := g) (on := on) (n := n) (cause := cause)
  obtain ⟨hvalid, hc, hcount, -, -⟩ := edgeWord_fields (show cause < 16 by omega) hn hd hx
  have hgates : ((s.measured g on).edgeInvalid g on n cause).gates = (s.measured g on).gates :=
    State.edgeInvalid_keeps ((keep_gates _).mono (by decide)) rfl
  refine ⟨?_, ?_, ?_, ?_, ?_⟩
  · rw [State.is, State.get_edge_of_rd hrd, hvalid, Nat.div_eq_of_lt hcause]
    rfl
  · rw [State.get_edge_of_rd hrd, hc, Nat.mod_eq_of_lt hcause]
  · rw [State.get_edge_of_rd hrd, hcount]
  · refine State.get_inc_of_rd ?_ (by simp) (by simp)
    exact State.rd_wr_ne _ _ (edgeReg_ne_cnt1 g on).symm
  · rw [State.gate_of_gates hgates, State.measured_mon h]

/-- The loop writes its counts, the status and the count of exceeded ceilings. -/
theorem State.loopStep_rd (hst : r.addr ≠ (GD_STATUS g).addr) (hcnt : r.addr ≠ (GD_CNT0 g).addr) (hloop : r.addr ≠ (GD_LOOPSTAT g).addr)
    {d : Nat} : (s.loopStep g on n d).rd r = s.rd r := by
  have hn : (nFld g on).reg = GD_LOOPSTAT g := by cases on <;> rfl
  have hrun : (runFld g on).reg = GD_LOOPSTAT g := by cases on <;> rfl
  have hputN : ∀ (u : State) v, (u.put (nFld g on) v).rd r = u.rd r := fun u v => State.put_rd_of_reg hn hloop
  have hputRun : ∀ (u : State) v, (u.put (runFld g on) v).rd r = u.rd r := fun u v => State.put_rd_of_reg hrun hloop
  have hnlim : ∀ (u : State) v, (u.put (GD_STATUS_NLIM g) v).rd r = u.rd r := fun u v => State.rd_put_ne u v hst
  have hceilx : ∀ (u : State) v, (u.put (GD_STATUS_CEILX g) v).rd r = u.rd r := fun u v => State.rd_put_ne u v hst
  have hinc : ∀ u : State, (u.inc (GD_CNT0_CEILX_CNT g)).rd r = u.rd r := fun u => State.inc_rd hcnt
  unfold State.loopStep
  dsimp only
  split_ifs <;> simp only [hputN, hputRun, hnlim, hceilx, hinc]

theorem dvdtOf_le (d snsk x : Nat) : dvdtOf d snsk x ≤ 800 := by
  unfold dvdtOf
  split
  · exact Nat.le_refl 800
  · exact Nat.min_le_left 800 _

/-- The state after a valid edge. -/
def State.edgeValid (s : State) (g : Nat) (on : Bool) (n x : Nat) : State :=
  let v := dvdtOf (s.get (GD_LEVELS_VOFF g) - s.get (GD_LEVELS_VON g)) (s.get (GD_SENSE_SNSK g)) x
  ((s.measured g on).wr (edgeReg g on) (edgeWord 8 n v x)).loopStep g on n v

theorem State.edgeValid_reports (h : g < s.gates.length) (hn : n < 4) {x : Nat} (hx : x ≤ 4095) :
    s.ReportsValid (s.edgeValid g on n x) g on n x := by
  have hrd : (s.edgeValid g on n x).rd (edgeReg g on) =
      edgeWord 8 n (dvdtOf (s.get (GD_LEVELS_VOFF g) - s.get (GD_LEVELS_VON g)) (s.get (GD_SENSE_SNSK g)) x) x := by
    have hne : ∀ a ∈ [(GD_STATUS g).addr, (GD_CNT0 g).addr, (GD_LOOPSTAT g).addr], (edgeReg g on).addr ≠ a := by
      cases on <;> simp [edgeReg]
    exact (State.loopStep_rd (hne _ (by simp)) (hne _ (by simp)) (hne _ (by simp))).trans (State.rd_wr_self _ _ _)
  have hgates : (s.edgeValid g on n x).gates = (s.measured g on).gates :=
    State.loopStep_keeps ((keep_gates _).mono (by decide)) rfl
  have hd := dvdtOf_le (s.get (GD_LEVELS_VOFF g) - s.get (GD_LEVELS_VON g)) (s.get (GD_SENSE_SNSK g)) x
  obtain ⟨hvalid, -, hcount, hdvdt, htime⟩ := edgeWord_fields (show 8 < 16 by decide) hn (Nat.lt_of_le_of_lt hd (by decide))
    (Nat.lt_succ_of_le hx)
  refine ⟨?_, ?_, ?_, ?_, ?_⟩
  · rw [State.is, State.get_edge_of_rd hrd, hvalid]
    rfl
  · rw [State.get_edge_of_rd hrd, hcount]
  · rw [State.get_edge_of_rd hrd, htime]
  · rw [State.get_edge_of_rd hrd, hdvdt]
  · rw [State.gate_of_gates hgates, State.measured_mon h]

/-! ### Measurements -/

/-- Cause 1 (R117): a level is not stored, no divider ratio is set, or the switched voltage stays under VSWMIN. -/
def State.badLevels (s : State) (g : Nat) : Prop :=
  (s.gate g).levOn = false ∨ (s.gate g).levOff = false ∨ s.get (GD_SENSE_SNSK g) = 0 ∨
    s.switched g < 1000 * (s.get (GD_SENSE_VSWMIN g) : Int)

theorem State.not_badLevels (hon : (s.gate g).levOn = true) (hoff : (s.gate g).levOff = true) (hsnsk : s.get (GD_SENSE_SNSK g) ≠ 0)
    (hvsw : 1000 * (s.get (GD_SENSE_VSWMIN g) : Int) ≤ s.switched g) : ¬ s.badLevels g := by
  rintro (h | h | h | h)
  · exact Bool.false_ne_true (h.symm.trans hon)
  · exact Bool.false_ne_true (h.symm.trans hoff)
  · exact hsnsk h
  · omega

/-- The edge monitor's test of the levels. -/
theorem State.badLevels_iff : s.badLevels g ↔ (!((s.gate g).levOn && (s.gate g).levOff) || s.get (GD_SENSE_SNSK g) == 0 ||
    decide (s.switched g < 1000 * (s.get (GD_SENSE_VSWMIN g) : Int))) = true := by
  simp [State.badLevels, or_assoc]

@[simp] theorem State.setGate_edgeTime {c : GateCh} {x : Option (Nat × Nat)} : (s.setGate g c).edgeTime g x = s.edgeTime g x := rfl

theorem State.edgeMeasured_of_no_edge (h : (s.gate g).mon on = none) (x : Option (Nat × Nat)) : s.edgeMeasured g on x = s := by
  have hmon : (if on = true then (s.gate g).monOn else (s.gate g).monOff) = none := h
  unfold State.edgeMeasured
  dsimp only
  rw [hmon]

theorem State.edgeMeasured_of_badLevels (h : (s.gate g).mon on = some (n, bad)) (hlev : s.badLevels g) (x : Option (Nat × Nat)) :
    s.edgeMeasured g on x = (s.measured g on).edgeInvalid g on n 1 := by
  have hmon : (if on = true then (s.gate g).monOn else (s.gate g).monOff) = some (n, bad) := h
  unfold State.edgeMeasured
  dsimp only
  rw [hmon]
  exact if_pos (State.badLevels_iff.mp hlev)

/-- The crossings decide the report of an edge whose levels are good: both must lie in the measurement window (cause 2) less than 4096
units apart (cause 4), and no fault or forced state may have come (cause 5). -/
theorem State.edgeMeasured_of_goodLevels (h : (s.gate g).mon on = some (n, bad)) (hlev : ¬ s.badLevels g) (x : Option (Nat × Nat)) :
    s.edgeMeasured g on x = (s.edgeTime g x).elim ((s.measured g on).edgeInvalid g on n 2) fun d =>
      if 4095 < d then (s.measured g on).edgeInvalid g on n 4
      else if bad then (s.measured g on).edgeInvalid g on n 5 else s.edgeValid g on n d := by
  have hmon : (if on = true then (s.gate g).monOn else (s.gate g).monOff) = some (n, bad) := h
  unfold State.edgeMeasured
  dsimp only
  rw [hmon]
  refine (if_neg fun hbad => hlev (State.badLevels_iff.mpr hbad)).trans ?_
  rw [State.setGate_edgeTime]
  cases s.edgeTime g x <;> rfl

theorem State.edgeTime_of_lt {a b : Nat} (h : max a b < s.measWin g) : s.edgeTime g (some (a, b)) = some (max a b - min a b) := if_pos h

theorem State.edgeTime_of_le {a b : Nat} (h : s.measWin g ≤ max a b) : s.edgeTime g (some (a, b)) = none := if_neg (Nat.not_lt.mpr h)

/-- An edge is under measurement in a direction, and its levels are good. bad: a fault or a forced state came. -/
structure State.Measures (s : State) (g : Fin 64) (on : Bool) (n : Fin 4) (bad : Bool) : Prop where
  length : s.gates.length = 64
  mon : (s.gate g.val).mon on = some (n.val, bad)
  levels : ¬ s.badLevels g.val

/-- Cause 1. -/
theorem reports_badLevels {g : Fin 64} {n : Fin 4} (hlen : s.gates.length = 64) (hmon : (s.gate g.val).mon on = some (n.val, bad))
    (hlev : s.badLevels g.val) {x : Option (Nat × Nat)} :
    ∃ t, exec (.edgeMeasured g on x) s = .next t ∧ s.ReportsInvalid t g.val on n.val 1 :=
  ⟨_, congrArg Host.Outcome.next (State.edgeMeasured_of_badLevels hmon hlev x),
    State.edgeInvalid_reports (lt_gates_length hlen g) n.isLt (by decide)⟩

/-- Cause 2. -/
theorem State.Measures.reports_outside {g : Fin 64} {n : Fin 4} (h : s.Measures g on n bad) {x : Option (Nat × Nat)}
    (hx : s.edgeTime g.val x = none) :
    ∃ t, exec (.edgeMeasured g on x) s = .next t ∧ s.ReportsInvalid t g.val on n.val 2 := by
  have hnext : s.edgeMeasured g.val on x = (s.measured g.val on).edgeInvalid g.val on n.val 2 := by
    rw [State.edgeMeasured_of_goodLevels h.mon h.levels, hx]
    rfl
  exact ⟨_, congrArg Host.Outcome.next hnext, State.edgeInvalid_reports (lt_gates_length h.length g) n.isLt (by decide)⟩

/-- Cause 4. -/
theorem State.Measures.reports_long {g : Fin 64} {n : Fin 4} (h : s.Measures g on n bad) {x : Option (Nat × Nat)} {d : Nat}
    (hx : s.edgeTime g.val x = some d) (hd : 4095 < d) :
    ∃ t, exec (.edgeMeasured g on x) s = .next t ∧ s.ReportsInvalid t g.val on n.val 4 := by
  have hnext : s.edgeMeasured g.val on x = (s.measured g.val on).edgeInvalid g.val on n.val 4 := by
    rw [State.edgeMeasured_of_goodLevels h.mon h.levels, hx]
    exact if_pos hd
  exact ⟨_, congrArg Host.Outcome.next hnext, State.edgeInvalid_reports (lt_gates_length h.length g) n.isLt (by decide)⟩

/-- Cause 5. -/
theorem State.Measures.reports_spoilt {g : Fin 64} {n : Fin 4} (h : s.Measures g on n true) {x : Option (Nat × Nat)} {d : Nat}
    (hx : s.edgeTime g.val x = some d) (hd : d ≤ 4095) :
    ∃ t, exec (.edgeMeasured g on x) s = .next t ∧ s.ReportsInvalid t g.val on n.val 5 := by
  have hnext : s.edgeMeasured g.val on x = (s.measured g.val on).edgeInvalid g.val on n.val 5 := by
    rw [State.edgeMeasured_of_goodLevels h.mon h.levels, hx]
    exact if_neg (Nat.not_lt.mpr hd)
  exact ⟨_, congrArg Host.Outcome.next hnext, State.edgeInvalid_reports (lt_gates_length h.length g) n.isLt (by decide)⟩

theorem State.Measures.reports_valid {g : Fin 64} {n : Fin 4} (h : s.Measures g on n false) {x : Option (Nat × Nat)} {d : Nat}
    (hx : s.edgeTime g.val x = some d) (hd : d ≤ 4095) :
    ∃ t, exec (.edgeMeasured g on x) s = .next t ∧ s.ReportsValid t g.val on n.val d := by
  have hnext : s.edgeMeasured g.val on x = s.edgeValid g.val on n.val d := by
    rw [State.edgeMeasured_of_goodLevels h.mon h.levels, hx]
    exact if_neg (Nat.not_lt.mpr hd)
  exact ⟨_, congrArg Host.Outcome.next hnext, State.edgeValid_reports (lt_gates_length h.length g) n.isLt hd⟩

theorem reports_nothing {g : Fin 64} (h : (s.gate g.val).mon on = none) {x : Option (Nat × Nat)} :
    ∃ t, exec (.edgeMeasured g on x) s = .next t ∧ t = s :=
  ⟨_, rfl, State.edgeMeasured_of_no_edge h x⟩

/-! ### The statement -/

/-- Settles O16: phases by `nextPhase_of_running`, writes by what their registers and the waiting lists then hold, and measured edges, in
each direction, by the report's word (`State.edgeInvalid_reports`, `State.edgeValid_reports`). -/
theorem profilesEdgesAndTheLoop : Obligations.ProfilesEdgesAndTheLoop := by
  unfold Obligations.ProfilesEdgesAndTheLoop
  refine ⟨?phase, ?noPhase, ?profile, ?noProfile, ?loop, ?noLoop, ?validOn, ?levelsOn, ?noCrossOn, ?outsideOn, ?longOn, ?spoiltOn, ?noEdgeOn,
    ?validOff, ?levelsOff, ?noCrossOff, ?outsideOff, ?longOff, ?spoiltOff, ?noEdgeOff⟩
  case phase =>
    intro s g hlen hiso hrun htime
    have hnext : s.phaseEnd g.val = s.phaseNext g.val := if_pos (by simp [phaseMay, hiso, hrun, htime])
    refine ⟨_, congrArg Host.Outcome.next hnext, ?_, ?_, rfl⟩
    · rw [State.phaseNext, State.setPhase_gate (lt_gates_length hlen g), ← nextPhase_of_running _ hrun]
      simp only [beq_iff_eq]
    · rw [State.phaseNext, State.setPhase_gate (lt_gates_length hlen g)]
  case noPhase =>
    intro s g h
    refine ⟨_, rfl, if_neg ?_⟩
    rcases h with h | h | h
    · simp [h]
    · simp [h]
    · simp [phaseMay, Nat.not_le.mpr h]
  case profile =>
    intro s ini g on val hlen hreach hpop hiso
    have honly := State.onlyRegs_fieldWrite s (profReg g.val on).addr val
    have hlt : g.val < (s.fieldWrite (profReg g.val on).addr val).gates.length := by
      rw [honly.gates]
      exact lt_gates_length hlen g
    have hloop : (s.fieldWrite (profReg g.val on).addr val).is (loopEn g.val on) = s.is (loopEn g.val on) :=
      State.is_of_rd (State.rd_fieldWrite_ne s val (loopEn_reg g.val on ▸ (profReg_ne_loop g.val on).symm))
    have hnext := (State.gdWrite_of_populated hreach hpop fun s => s.profileWrite g.val on val).trans (State.profileWrite_of_isolated hiso val)
    refine ⟨_, congrArg Host.Outcome.next hnext, State.rd_fieldWrite_profReg g on hiso val,
      State.rd_fieldWrite_ne s val (profFld_ne_profReg g.val on), ?_, ?_⟩
    · have hsh := State.profilePush_sh (on := on) hlt ((s.fieldWrite (profReg g.val on).addr val).rd (profReg g.val on))
        ((s.fieldWrite (profReg g.val on).addr val).is (loopEn g.val on)) on
      rw [if_pos rfl, State.gate_of_gates honly.gates, honly.now, hloop] at hsh
      rw [hloop]
      exact hsh
    · rw [State.profilePush, State.setGate, State.setGates, honly.1]
  case noProfile =>
    exact fun s ini g on val hreach h => ⟨_, rfl, State.gdWrite_ignored hreach h fun hiso => if_neg (by simp [hiso])⟩
  case loop =>
    intro s ini g val hlen hreach hpop hiso
    have hlt := lt_gates_length hlen g
    have hrd : ∀ r : Reg, (s.loopWrite g.val val).rd r = (s.loopTaken g.val val).rd r := fun r => State.loopWrite_rd hiso
    refine ⟨_, congrArg Host.Outcome.next (State.gdWrite_of_populated hreach hpop fun s => s.loopWrite g.val val), ?_, ?_, ?_, ?_, ?_, ?_, ?_⟩
    · rw [State.is_of_rd (hrd _), State.loopTaken_is g hiso val (by decide)]
    · rw [State.is_of_rd (hrd _), State.loopTaken_is g hiso val (by decide)]
    · rw [State.is_of_rd (hrd _), State.loopTaken_is g hiso val (by decide)]
    · rw [State.get_of_rd (hrd _), State.loopTaken_get_ceil g hiso]
    · have hsh := State.loopWrite_sh g hiso hlt val true
      rw [State.enables_on g hiso] at hsh
      exact hsh
    · have hsh := State.loopWrite_sh g hiso hlt val false
      rw [State.enables_off g hiso] at hsh
      exact hsh
    · exact State.onlyRegs_loopWrite hiso val
  case noLoop =>
    exact fun s ini g val hreach h => ⟨_, rfl, State.gdWrite_ignored hreach h fun hiso => if_neg (by simp [hiso])⟩
  case validOn | validOff =>
    intro s g n a b hlen hmon hon hoff hsnsk hvsw hwin hd
    refine State.Measures.reports_valid ⟨hlen, ?_, State.not_badLevels hon hoff hsnsk hvsw⟩ (State.edgeTime_of_lt hwin) hd
    exact hmon
  case levelsOn | levelsOff =>
    intro s g n bad x hlen hmon hlev
    refine reports_badLevels (bad := bad) hlen ?_ hlev
    exact hmon
  case noCrossOn | noCrossOff =>
    intro s g n bad hlen hmon hon hoff hsnsk hvsw
    refine State.Measures.reports_outside (bad := bad) ⟨hlen, ?_, State.not_badLevels hon hoff hsnsk hvsw⟩ rfl
    exact hmon
  case outsideOn | outsideOff =>
    intro s g n bad a b hlen hmon hon hoff hsnsk hvsw hwin
    refine State.Measures.reports_outside (bad := bad) ⟨hlen, ?_, State.not_badLevels hon hoff hsnsk hvsw⟩ (State.edgeTime_of_le hwin)
    exact hmon
  case longOn | longOff =>
    intro s g n bad a b hlen hmon hon hoff hsnsk hvsw hwin hd
    refine State.Measures.reports_long (bad := bad) ⟨hlen, ?_, State.not_badLevels hon hoff hsnsk hvsw⟩ (State.edgeTime_of_lt hwin) hd
    exact hmon
  case spoiltOn | spoiltOff =>
    intro s g n a b hlen hmon hon hoff hsnsk hvsw hwin hd
    refine State.Measures.reports_spoilt ⟨hlen, ?_, State.not_badLevels hon hoff hsnsk hvsw⟩ (State.edgeTime_of_lt hwin) hd
    exact hmon
  case noEdgeOn | noEdgeOff =>
    intro s g x h
    refine reports_nothing ?_
    exact h

end Sys2Proof.Machine
end

section
/-! SUPPORT. The statement about short circuits fails where the detection makes Badger stop: STO takes the enable of the channel's
group, its domain goes off, and the bit that reports soft turn-off reads 0 (R147, R291, R294, R28, R512). -/

namespace Sys2Proof.Machine

/-- Every domain is on, and Badger is in NORMAL with every enable granted. Channel 6 of motor A has been on for 4,000 instants, and its
di/dt detector is armed. -/
def armedInNormal : State :=
  let powered : State :=
    { State.reset with on := 0x3FFF, pllA := true, pllB := true, cyc := 4000, clk := { State.reset.clk with now := 4000 } }
  let normal := ((powered.put HSM_CFG_CFGACK 1).put HSM_STATUS_STATE 3).put HSM_STATUS_EN 0xF
  let driven := ((normal.put (GD_STATUS_BIASOK 6) 1).put (GD_STATUS_CMD 6) 1).put (GD_STATUS_GATE 6) 1
  driven.setGate 6 { GateCh.idle with inp := true, eff := true, drv := true, didt := true }

/-- A di/dt detection on channel 6 with 2.0 V across its sense inductance, which is above the threshold of PROT's reset value. -/
def shortedInNormal : State := armedInNormal.shortDetect 6 true 2000000

/-- The detection switches the bias group of channel 6 off while soft turn-off runs: Badger is in STO, D9 is off, and SOFTACT is 0. -/
theorem shortedInNormal_unpowered : shortedInNormal.bState = 5 ∧ shortedInNormal.isOn 9 = false ∧
    shortedInNormal.is (GD_PFLT_SOFTACT 6) = false := by decide +kernel

/-- Refutes O18: a di/dt detection on a channel of motor A latches its bit, but with Badger in NORMAL it is also a source of STO, which
switches the channel's bias group off at once, and SOFTACT reads 0. The statement lacks the premise that the group keeps its supply. -/
theorem not_shortCircuitProtectionLatches : ¬ Obligations.ShortCircuitProtectionLatches := by
  unfold Obligations.ShortCircuitProtectionLatches
  rintro ⟨-, -, -, -, hdetect, -⟩
  obtain ⟨t, ht, -, hsoft, -⟩ := hdetect armedInNormal 6 2000000 (by decide) (by decide) (by decide) (by decide) (by decide) (by decide)
    (.inl (by decide)) (by decide) (by decide) (.inl (by decide))
  have hstep : shortedInNormal = t := Host.Outcome.next.inj ht
  obtain ⟨-, -, hclear⟩ := shortedInNormal_unpowered
  exact Bool.false_ne_true (hclear.symm.trans (hstep ▸ hsoft))

end Sys2Proof.Machine
end

section
/-! SUPPORT. Fields that an operation writes: every field that shares no bit with them keeps its value. -/

namespace Sys2Proof.Machine

variable {s t u : State} {f g : Fld} {fs gs : List Fld}

/-- The field shares no bit with f: it stands in another register, or at other bits of the same one. -/
def Fld.Off (g f : Fld) : Prop := g.reg.addr ≠ f.reg.addr ∨ g.Apart f

theorem Fld.off_iff : g.Off f ↔ g.reg.addr ≠ f.reg.addr ∨
    g.reg = f.reg ∧ f.lo ≤ f.hi ∧ g.lo ≤ g.hi ∧ g.hi < 32 ∧ (g.hi < f.lo ∨ f.hi < g.lo) :=
  or_congr_right ⟨fun h => ⟨h.reg, h.bits⟩, fun h => ⟨h.1, h.2⟩⟩

theorem Fld.Off.get_put (h : g.Off f) (s : State) (v : Nat) : (s.put f v).get g = s.get g := by
  rcases h with hr | hb
  · exact s.get_put_ne v hr
  · exact hb.get_put s v

theorem Fld.Off.is_put (h : g.Off f) (s : State) (v : Nat) : (s.put f v).is g = s.is g := by
  rw [State.is, h.get_put, State.is]

/-- From s to t no field changes its value but those that share a bit with one of fs. -/
def State.WritesOnly (s t : State) (fs : List Fld) : Prop := ∀ g : Fld, (∀ f ∈ fs, g.Off f) → t.get g = s.get g

theorem State.WritesOnly.get (h : s.WritesOnly t fs) (hg : ∀ f ∈ fs, g.Off f) : t.get g = s.get g := h g hg

theorem State.WritesOnly.is (h : s.WritesOnly t fs) (hg : ∀ f ∈ fs, g.Off f) : t.is g = s.is g := by
  rw [State.is, h.get hg, State.is]

theorem State.WritesOnly.of_regs (h : t.regs = s.regs) : s.WritesOnly t fs := fun g _ => by
  rw [State.get, State.rd, h, State.get, State.rd]

theorem State.WritesOnly.trans (h : s.WritesOnly t fs) (h' : t.WritesOnly u gs) : s.WritesOnly u (fs ++ gs) := fun g hg =>
  (h' g fun f hf => hg f (List.mem_append_right fs hf)).trans (h g fun f hf => hg f (List.mem_append_left gs hf))

theorem State.WritesOnly.mono (h : s.WritesOnly t fs) (hsub : fs ⊆ gs) : s.WritesOnly t gs := fun g hg =>
  h g fun f hf => hg f (hsub hf)

theorem State.WritesOnly.ite {c : Prop} [Decidable c] (ht : s.WritesOnly t fs) (hu : s.WritesOnly u fs) :
    s.WritesOnly (if c then t else u) fs := by
  split
  · exact ht
  · exact hu

theorem State.put_writesOnly (s : State) (f : Fld) (v : Nat) : s.WritesOnly (s.put f v) [f] := fun _ hg =>
  (hg f List.mem_cons_self).get_put s v

theorem State.inc_writesOnly (s : State) (f : Fld) : s.WritesOnly (s.inc f) [f] :=
  State.WritesOnly.ite (s.put_writesOnly f _) (.of_regs rfl)

theorem State.log_writesOnly (s : State) (l i y : Nat) : s.WritesOnly (s.log l i y) [⟨EVL_STATUS, 31, 0⟩] := by
  intro g hg
  rcases hg _ List.mem_cons_self with hr | hb
  · exact State.get_of_rd (State.log_rd hr)
  · obtain ⟨hreg, -, hle, hhi, hout⟩ := hb
    simp only at hout
    omega

end Sys2Proof.Machine
end

section
/-! SUPPORT. What the operations of a position channel write: its count, direction and speed, a decoded edge, an illegal transition and
the index (R218–R227). -/

namespace Sys2Proof.Machine

variable {s t : State} {n : Nat} {c : PosCh} {d : Int}

/-! ### The channels -/

theorem State.posCh_of_pos (h : t.pos = s.pos) : t.posCh n = s.posCh n := by
  rw [State.posCh, h, State.posCh]

theorem State.posCh_setPos (h : n < s.pos.ch.length) : (s.setPos n c).posCh n = c := by
  simp [State.posCh, State.setPos, nth, h]

theorem State.setPos_setPos {c' : PosCh} : (s.setPos n c).setPos n c' = s.setPos n c' := by
  simp [State.setPos, State.setPosBlk]

theorem State.setPos_writesOnly : s.WritesOnly (s.setPos n c) [] := .of_regs rfl

theorem lt_pos_length (h : s.pos.ch.length = 8) (n : Fin 8) : n.val < s.pos.ch.length := by
  rw [h]
  exact n.isLt

/-! ### Count -/

/-- What the count holds when it takes the value v (R222, R223). -/
def State.posHeld (s : State) (n : Nat) (v : Int) : Nat :=
  if s.is (POS_CFG_CNTMODE n) = true then (v % (max 4 (s.get (POS_MOD_MOD n)) : Nat)).toNat
  else if s.is (POS_CFG_LIMEN n) = true ∧ signed 32 (s.get (POS_LIMHI_LIMHI n)) < v then s.get (POS_LIMHI_LIMHI n)
  else if s.is (POS_CFG_LIMEN n) = true ∧ v < signed 32 (s.get (POS_LIMLO_LIMLO n)) then s.get (POS_LIMLO_LIMLO n)
  else unsigned 32 v

/-- A word is what its two's-complement reading is written as. -/
theorem unsigned_signed {v : Nat} (h : v < 2 ^ 32) : unsigned 32 (signed 32 v) = v := by
  unfold unsigned signed
  dsimp only
  split <;> omega

theorem unsigned_lt (w : Nat) (v : Int) : unsigned w v < 2 ^ w := by
  have hpos : (0 : Int) < (2 ^ w : Nat) := Int.natCast_pos.mpr (Nat.two_pow_pos w)
  have hlt := Int.emod_lt_of_pos v hpos
  have hnn := Int.emod_nonneg v hpos.ne'
  unfold unsigned
  omega

theorem State.posHeld_lt (s : State) (n : Nat) (v : Int) : s.posHeld n v < 2 ^ 32 := by
  have hmod := s.get_lt_size (POS_MOD_MOD n)
  have hhi := s.get_lt_size (POS_LIMHI_LIMHI n)
  have hlo := s.get_lt_size (POS_LIMLO_LIMLO n)
  simp only [Fld.size] at hmod hhi hlo
  have hpos : (0 : Int) < (max 4 (s.get (POS_MOD_MOD n)) : Nat) := by omega
  have hlt := Int.emod_lt_of_pos v hpos
  unfold State.posHeld
  split
  · omega
  · split
    · exact hhi
    · split
      · exact hlo
      · exact unsigned_lt 32 v

theorem State.posLoad_writesOnly (s : State) (n : Nat) (v : Int) :
    s.WritesOnly (s.posLoad n v) [POS_CNT_CNT n, POS_STATUS_LIMIT_HI n, POS_STATUS_LIMIT_LO n] := by
  have hcnt (w : Nat) := s.put_writesOnly (POS_CNT_CNT n) w
  unfold State.posLoad
  refine .ite ((hcnt _).mono (by simp)) (.ite ?_ (.ite ?_ ((hcnt _).mono (by simp))))
  · exact ((hcnt _).trans (State.put_writesOnly _ (POS_STATUS_LIMIT_HI n) 1)).mono (by simp)
  · exact ((hcnt _).trans (State.put_writesOnly _ (POS_STATUS_LIMIT_LO n) 1)).mono (by simp)

theorem State.posLoad_get_cnt (s : State) (n : Nat) (v : Int) : (s.posLoad n v).get (POS_CNT_CNT n) = s.posHeld n v := by
  have hput (w : Nat) : (s.put (POS_CNT_CNT n) w).get (POS_CNT_CNT n) = w % 2 ^ 32 := s.get_put_self _ w (Nat.zero_le _) (by simp)
  have hstatus (r : State) (b : Nat) : (r.put ⟨POS_STATUS n, b, b⟩ 1).get (POS_CNT_CNT n) = r.get (POS_CNT_CNT n) :=
    r.get_put_ne 1 (by simp)
  have hhi := unsigned_signed (s.get_lt_size (POS_LIMHI_LIMHI n))
  have hlo := unsigned_signed (s.get_lt_size (POS_LIMLO_LIMLO n))
  have hheld := s.posHeld_lt n v
  unfold State.posHeld at hheld ⊢
  unfold State.posLoad
  simp only [Bool.and_eq_true, decide_eq_true_eq]
  split_ifs at hheld ⊢
  · rw [hput, State.posMod, Nat.mod_eq_of_lt hheld]
  · rw [hstatus, hput, hhi, Nat.mod_eq_of_lt hheld]
  · rw [hstatus, hput, hlo, Nat.mod_eq_of_lt hheld]
  · rw [hput, Nat.mod_eq_of_lt hheld]

/-! ### Speed, interrupts and direction (R224, R226) -/

theorem State.posSpeed_writesOnly (s : State) (n : Nat) (mag : Option Nat) :
    s.WritesOnly (s.posSpeed n mag) [POS_SPD_VALID n, POS_SPD_MAG n] := by
  cases mag with
  | none => exact (s.put_writesOnly (POS_SPD_VALID n) 0).trans (State.put_writesOnly _ (POS_SPD_MAG n) 0)
  | some m => exact (s.put_writesOnly (POS_SPD_VALID n) 1).trans (State.put_writesOnly _ (POS_SPD_MAG n) m)

theorem State.posSpeed_is_valid (s : State) (n : Nat) (mag : Option Nat) :
    (s.posSpeed n mag).is (POS_SPD_VALID n) = mag.isSome := by
  have hapart : (POS_SPD_VALID n).Apart (POS_SPD_MAG n) := ⟨rfl, by simp⟩
  cases mag <;> exact (hapart.is_put _ _).trans (State.is_put_self _ (Nat.le_refl _) (by simp))

theorem State.posSpeed_none_mag (s : State) (n : Nat) : (s.posSpeed n none).get (POS_SPD_MAG n) = 0 :=
  State.get_put_self _ _ _ (Nat.zero_le _) (by simp)

theorem State.posIrq_writesOnly (s : State) (n : Nat) (f : Fld) (ev : Nat) : s.WritesOnly (s.posIrq n f ev) [] :=
  .of_regs (State.posIrq_keeps ((keep_regs s.regs).mono (by decide)) rfl)

/-- The fields that a change of direction writes. -/
abbrev posDirFlds (n : Nat) : List Fld := [POS_STATUS_DIR n, POS_STATUS_DIRCHG n, POS_SPD_SIGN n, ⟨EVL_STATUS, 31, 0⟩]

/-- DIR, DIRCHG and SIGN after a change of direction. -/
def State.posTurned (s : State) (n : Nat) (back : Bool) : State :=
  ((s.putB (POS_STATUS_DIR n) back).put (POS_STATUS_DIRCHG n) 1).putB (POS_SPD_SIGN n) back

theorem State.posDir_same {back : Bool} (h : s.is (POS_STATUS_DIR n) = back) : s.posDir n back = s := if_pos (by simp [h])

theorem State.posDir_changed {back : Bool} (h : s.is (POS_STATUS_DIR n) ≠ back) :
    s.posDir n back = ((s.posTurned n back).log 8 n 0x01).posIrq n (POS_IEN_DIRCHG n) 0x01 := if_neg (by simp [h])

theorem State.posDir_turned_writesOnly {back : Bool} (h : s.is (POS_STATUS_DIR n) ≠ back) :
    (s.posTurned n back).WritesOnly (s.posDir n back) [⟨EVL_STATUS, 31, 0⟩] := by
  rw [State.posDir_changed h]
  exact (State.log_writesOnly _ 8 n 1).trans (State.posIrq_writesOnly _ n _ 1)

theorem State.posDir_writesOnly (s : State) (n : Nat) (back : Bool) : s.WritesOnly (s.posDir n back) (posDirFlds n) := by
  by_cases h : s.is (POS_STATUS_DIR n) = back
  · rw [State.posDir_same h]
    exact .of_regs rfl
  · have hdir := s.put_writesOnly (POS_STATUS_DIR n) (b2n back)
    have hturn : s.WritesOnly (s.posTurned n back) _ :=
      (hdir.trans (State.put_writesOnly _ (POS_STATUS_DIRCHG n) 1)).trans (State.put_writesOnly _ (POS_SPD_SIGN n) (b2n back))
    exact hturn.trans (State.posDir_turned_writesOnly h)

/-- Bit 2 is DIRCHG, and bit 13 is DIR. -/
theorem State.posTurned_is_status {back : Bool} {b : Nat} (hb : b < 32) : (s.posTurned n back).is ⟨POS_STATUS n, b, b⟩ =
    if b = 2 then true else if b = 13 then back else s.is ⟨POS_STATUS n, b, b⟩ := by
  rw [State.posTurned, State.putB, Fld.Off.is_put (by simp [Fld.off_iff]), State.is_put_bit _ hb, State.putB, State.is_put_bit _ hb]
  cases back <;> simp [b2n]

theorem State.posDir_is_status {back : Bool} {b : Nat} (hb : b < 32) (h : s.is (POS_STATUS_DIR n) ≠ back) :
    (s.posDir n back).is ⟨POS_STATUS n, b, b⟩ = if b = 2 then true else if b = 13 then back else s.is ⟨POS_STATUS n, b, b⟩ := by
  rw [(State.posDir_turned_writesOnly h).is (by simp only [List.mem_singleton, forall_eq, Fld.off_iff]; omega),
    State.posTurned_is_status hb]

theorem State.posDir_is_dir (s : State) (n : Nat) (back : Bool) : (s.posDir n back).is (POS_STATUS_DIR n) = back := by
  by_cases h : s.is (POS_STATUS_DIR n) = back
  · rw [State.posDir_same h, h]
  · exact State.posDir_is_status (by simp) h

theorem State.posDir_is_dirchg (s : State) (n : Nat) (back : Bool) :
    (s.posDir n back).is (POS_STATUS_DIRCHG n) = (s.is (POS_STATUS_DIRCHG n) || (s.is (POS_STATUS_DIR n) != back)) := by
  by_cases h : s.is (POS_STATUS_DIR n) = back
  · rw [State.posDir_same h, h, bne_self_eq_false, Bool.or_false]
  · rw [bne_iff_ne.mpr h, Bool.or_true]
    exact State.posDir_is_status (by simp) h

/-! ### A decoded edge (R218, R226–R228) -/

/-- The count, the direction and the time stamp after an edge of step d. -/
def State.posMoved (s : State) (n : Nat) (d : Int) : State :=
  ((s.posLoad n (s.posCnt n + d)).posDir n (decide (d < 0))).put (POS_TSTAMP_TS n) s.timebase

theorem State.posMoved_pos : (s.posMoved n d).pos = s.pos :=
  State.put_keeps ((keep_pos _).mono (by decide)) (State.posDir_keeps ((keep_pos _).mono (by decide))
    (State.posLoad_keeps ((keep_pos _).mono (by decide)) rfl))

theorem State.posMoved_cyc : (s.posMoved n d).cyc = s.cyc :=
  State.put_keeps ((keep_cyc _).mono (by decide)) (State.posDir_keeps ((keep_cyc _).mono (by decide))
    (State.posLoad_keeps ((keep_cyc _).mono (by decide)) rfl))

theorem State.posLoad_timebase {v : Int} : (s.posLoad n v).timebase = s.timebase := by
  have hcyc : (s.posLoad n v).cyc = s.cyc := State.posLoad_keeps ((keep_cyc _).mono (by decide)) rfl
  rw [State.timebase, State.tick, hcyc, State.timebase, State.tick]

theorem State.posLoad_is_dir {v : Int} : (s.posLoad n v).is (POS_STATUS_DIR n) = s.is (POS_STATUS_DIR n) :=
  (s.posLoad_writesOnly n v).is (by simp [Fld.off_iff])

/-- The interval that an edge of the same direction closes, in control cycles. -/
def State.posInterval (s : State) (n : Nat) : Nat := max 1 (min 0xFFFFFFFF (s.cyc - (s.posCh n).le))

/-- The speed after an edge: none after a reversal or a first edge. -/
theorem State.posEdge_eq (s : State) (n : Nat) (d : Int) : ∃ c : PosCh, c.acc = (s.posCh n).acc ∧ c.la = (s.posCh n).la ∧
    s.posEdge n d = if s.is (POS_STATUS_DIR n) = decide (d < 0) ∧ (s.posCh n).run = true
      then (((s.posMoved n d).setPos n c).put (POS_PERIOD_PERIOD n) (s.posInterval n)).posSpeed n (some (3200000000 / s.posInterval n))
      else (((s.posMoved n d).setPos n c).put (POS_STATUS_STANDSTILL n) 0).posSpeed n none := by
  have hch : (s.posMoved n d).posCh n = s.posCh n := State.posCh_of_pos State.posMoved_pos
  unfold State.posEdge
  extract_lets c0 lim loaded due back rev moved c edged p
  have hmoved : moved = s.posMoved n d := by
    simp only [moved, loaded, State.posLoad_timebase]
    rfl
  have hc : c = s.posCh n := (congrArg (State.posCh · n) hmoved).trans hch
  have hp : p = s.posInterval n := by
    have hcyc : edged.cyc = s.cyc := (congrArg State.cyc hmoved).trans State.posMoved_cyc
    simp only [p, hcyc, hc, State.posInterval]
  have hrev : rev = (s.is (POS_STATUS_DIR n) != decide (d < 0)) := congrArg (· != back) State.posLoad_is_dir
  refine ⟨{ c with run := true, le := moved.cyc, step := some (moved.cyc, d), lim := lim, cmpDue := due, stAt := some moved.cyc },
    (congrArg PosCh.acc hc :), (congrArg PosCh.la hc :), ?_⟩
  rw [← hmoved, ← hp, ← hc, hrev]
  have hfirst : ((s.is (POS_STATUS_DIR n) != decide (d < 0)) || !c.run) = true ↔
      ¬ (s.is (POS_STATUS_DIR n) = decide (d < 0) ∧ c.run = true) := by
    rw [Bool.or_eq_true, bne_iff_ne, Bool.not_eq_true', not_and_or, Bool.not_eq_true]
  exact (if_congr hfirst rfl rfl).trans (ite_not _ _ _)

/-- The fields that an edge writes after the count, the direction and the time stamp. -/
abbrev posTimeFlds (n : Nat) : List Fld := [POS_PERIOD_PERIOD n, POS_STATUS_STANDSTILL n, POS_SPD_VALID n, POS_SPD_MAG n]

theorem State.posEdge_moved_writesOnly (s : State) (n : Nat) (d : Int) : (s.posMoved n d).WritesOnly (s.posEdge n d) (posTimeFlds n) := by
  obtain ⟨c, -, -, h⟩ := s.posEdge_eq n d
  have hset : (s.posMoved n d).WritesOnly ((s.posMoved n d).setPos n c) [] := State.setPos_writesOnly
  rw [h]
  refine .ite ?_ ?_
  · exact ((hset.trans (State.put_writesOnly _ _ _)).trans (State.posSpeed_writesOnly _ n _)).mono (by simp)
  · exact ((hset.trans (State.put_writesOnly _ _ _)).trans (State.posSpeed_writesOnly _ n _)).mono (by simp)

/-- The fields that an edge writes. -/
abbrev posEdgeFlds (n : Nat) : List Fld :=
  [POS_CNT_CNT n, POS_STATUS_LIMIT_HI n, POS_STATUS_LIMIT_LO n] ++ posDirFlds n ++ [POS_TSTAMP_TS n] ++ posTimeFlds n

theorem State.posEdge_writesOnly (s : State) (n : Nat) (d : Int) : s.WritesOnly (s.posEdge n d) (posEdgeFlds n) := by
  have hload := s.posLoad_writesOnly n (s.posCnt n + d)
  have hdir := State.posDir_writesOnly (s.posLoad n (s.posCnt n + d)) n (decide (d < 0))
  exact ((hload.trans hdir).trans (State.put_writesOnly _ _ _)).trans (s.posEdge_moved_writesOnly n d)

theorem State.posMoved_get {f : Fld} (h : f.reg.addr ≠ (POS_TSTAMP n).addr) :
    (s.posMoved n d).get f = ((s.posLoad n (s.posCnt n + d)).posDir n (decide (d < 0))).get f := State.get_put_ne _ _ h

theorem State.posEdge_get_cnt (s : State) (n : Nat) (d : Int) :
    (s.posEdge n d).get (POS_CNT_CNT n) = s.posHeld n (s.posCnt n + d) := by
  rw [(s.posEdge_moved_writesOnly n d).get (by simp [Fld.off_iff]), State.posMoved_get (by simp),
    (State.posDir_writesOnly _ n _).get (by simp [Fld.off_iff]; omega), State.posLoad_get_cnt]

theorem State.posEdge_is_dir (s : State) (n : Nat) (d : Int) : (s.posEdge n d).is (POS_STATUS_DIR n) = decide (d < 0) := by
  rw [(s.posEdge_moved_writesOnly n d).is (by simp [Fld.off_iff]), State.is, State.posMoved_get (by simp)]
  exact State.posDir_is_dir _ n _

theorem State.posEdge_is_dirchg (s : State) (n : Nat) (d : Int) : (s.posEdge n d).is (POS_STATUS_DIRCHG n) =
    (s.is (POS_STATUS_DIRCHG n) || (s.is (POS_STATUS_DIR n) != decide (d < 0))) := by
  rw [(s.posEdge_moved_writesOnly n d).is (by simp [Fld.off_iff]), State.is, State.posMoved_get (by simp), ← State.is,
    State.posDir_is_dirchg, State.posLoad_is_dir, (s.posLoad_writesOnly n _).is (by simp [Fld.off_iff])]

theorem State.posEdge_get_ts (s : State) (n : Nat) (d : Int) : (s.posEdge n d).get (POS_TSTAMP_TS n) = s.timebase % 2 ^ 32 := by
  rw [(s.posEdge_moved_writesOnly n d).get (by simp [Fld.off_iff])]
  exact State.get_put_self _ _ _ (Nat.zero_le _) (by simp)

/-- The second edge in one direction gives the period, and a speed. -/
theorem State.posEdge_period (hdir : s.is (POS_STATUS_DIR n) = decide (d < 0)) (hrun : (s.posCh n).run = true) :
    (s.posEdge n d).get (POS_PERIOD_PERIOD n) = s.posInterval n ∧ (s.posEdge n d).is (POS_SPD_VALID n) = true := by
  obtain ⟨c, -, -, h⟩ := s.posEdge_eq n d
  have hlt : s.posInterval n < 2 ^ 32 := by
    unfold State.posInterval
    omega
  rw [h, if_pos ⟨hdir, hrun⟩]
  refine ⟨?_, State.posSpeed_is_valid _ n _⟩
  rw [(State.posSpeed_writesOnly _ n _).get (by simp [Fld.off_iff]), State.get_put_self _ _ _ (Nat.zero_le _) (by simp)]
  exact Nat.mod_eq_of_lt hlt

/-- The accepted levels, and when they were accepted. -/
def PosCh.accepted (c : PosCh) : Nat × Option Nat := (c.acc, c.la)

theorem State.posSpeed_posCh {mag : Option Nat} : (s.posSpeed n mag).posCh n = s.posCh n :=
  State.posCh_of_pos (State.posSpeed_keeps ((keep_pos _).mono (by decide)) rfl)

theorem State.posEdge_accepted (h : n < s.pos.ch.length) : ((s.posEdge n d).posCh n).accepted = (s.posCh n).accepted := by
  obtain ⟨c, hacc, hla, heq⟩ := s.posEdge_eq n d
  have hlen : n < (s.posMoved n d).pos.ch.length := by rwa [State.posMoved_pos]
  have hch : (s.posEdge n d).posCh n = c := by
    rw [heq]
    split <;> exact State.posSpeed_posCh.trans (State.posCh_setPos hlen)
  rw [hch, PosCh.accepted, hacc, hla, PosCh.accepted]

/-! ### An illegal transition (R219) -/

theorem State.posIllegal_writesOnly (s : State) (n : Nat) :
    s.WritesOnly (s.posIllegal n) [POS_STATUS_QERR n, POS_CNTS0_QERR_CNT n, POS_SPD_VALID n, POS_SPD_MAG n] := by
  have hcount := (s.put_writesOnly (POS_STATUS_QERR n) 1).trans (State.inc_writesOnly _ (POS_CNTS0_QERR_CNT n))
  have hirq := hcount.trans (State.posIrq_writesOnly _ n (POS_IEN_QERR n) 0x04)
  exact (hirq.trans State.setPos_writesOnly).trans (State.posSpeed_writesOnly _ n none)

theorem State.posIllegal_is_qerr (s : State) (n : Nat) : (s.posIllegal n).is (POS_STATUS_QERR n) = true := by
  rw [State.posIllegal, (State.posSpeed_writesOnly _ n none).is (by simp [Fld.off_iff]), State.setPos_writesOnly.is (by simp),
    (State.posIrq_writesOnly _ n _ _).is (by simp), (State.inc_writesOnly _ _).is (by simp [Fld.off_iff])]
  exact State.is_put_self _ (Nat.le_refl _) (by simp)

theorem State.posIllegal_is_valid (s : State) (n : Nat) : (s.posIllegal n).is (POS_SPD_VALID n) = false := State.posSpeed_is_valid _ n none

theorem State.posIllegal_accepted (h : n < s.pos.ch.length) : ((s.posIllegal n).posCh n).accepted = (s.posCh n).accepted := by
  have hpos : (((s.put (POS_STATUS_QERR n) 1).inc (POS_CNTS0_QERR_CNT n)).posIrq n (POS_IEN_QERR n) 0x04).pos = s.pos :=
    State.posIrq_keeps ((keep_pos _).mono (by decide)) (State.inc_keeps ((keep_pos _).mono (by decide)) rfl)
  rw [State.posIllegal, State.posSpeed_posCh, State.posCh_setPos (hpos ▸ h), PosCh.accepted, State.posCh_of_pos hpos, PosCh.accepted]

/-! ### A step and the index (R218–R221) -/

/-- A step as DIRINV has it. -/
def State.posDelta (s : State) (n : Nat) (x : Int) : Int := if s.is (POS_CFG_DIRINV n) = true then -x else x

/-- The step of a transition is taken; 0 is an illegal one. -/
def State.posStepped (s : State) (n : Nat) : Option Int → State
  | none => s
  | some x => if x == 0 then s.posIllegal n else s.posEdge n (s.posDelta n x)

theorem State.posStepped_zero : s.posStepped n (some 0) = s.posIllegal n := rfl

theorem State.posStepped_of_ne_zero {x : Int} (hx : x ≠ 0) : s.posStepped n (some x) = s.posEdge n (s.posDelta n x) :=
  if_neg (by simpa using hx)

/-- The fields that a step writes. -/
abbrev posStepFlds (n : Nat) : List Fld := posEdgeFlds n ++ [POS_STATUS_QERR n, POS_CNTS0_QERR_CNT n]

theorem State.posStepped_writesOnly (s : State) (n : Nat) (o : Option Int) : s.WritesOnly (s.posStepped n o) (posStepFlds n) := by
  cases o with
  | none => exact .of_regs rfl
  | some x => exact .ite ((s.posIllegal_writesOnly n).mono (by simp)) ((s.posEdge_writesOnly n _).mono (by simp))

theorem State.posStepped_accepted (h : n < s.pos.ch.length) (o : Option Int) :
    ((s.posStepped n o).posCh n).accepted = (s.posCh n).accepted := by
  cases o with
  | none => rfl
  | some x =>
    by_cases hx : x = 0
    · rw [hx, State.posStepped_zero]
      exact State.posIllegal_accepted h
    · rw [State.posStepped_of_ne_zero hx]
      exact State.posEdge_accepted h

/-- The index is in use, and its line rises (R221). -/
abbrev State.IndexRises (s : State) (n old new : Nat) : Prop :=
  s.get (POS_CFG_SRC n) = 0 ∧ s.is (POS_CFG_ZEN n) = true ∧ new.testBit 2 = true ∧ old.testBit 2 = false

/-- The index has latched the count. -/
def State.posLatched (s : State) (n : Nat) : State :=
  (s.put (POS_ZLATCH_ZLATCH n) (s.get (POS_CNT_CNT n))).put (POS_STATUS_ZSEEN n) 1

/-- The index has latched the count and, with ZRST, loaded it. -/
def State.posIndexed (s : State) (n : Nat) : State :=
  if (s.posLatched n).is (POS_CFG_ZRST n) then (s.posLatched n).put (POS_CNT_CNT n) ((s.posLatched n).get (POS_ZVAL_ZVAL n))
  else s.posLatched n

theorem State.posDecode_eq {old new : Nat} (hsrc : s.get (POS_CFG_SRC n) < 2) : s.posDecode n old new =
    if s.IndexRises n old new then (s.posStepped n (posStep (s.get (POS_CFG_SRC n) == 1) old new)).posIndexed n
    else s.posStepped n (posStep (s.get (POS_CFG_SRC n) == 1) old new) := by
  have hdecode : s.posDecode n old new =
      let t := s.posStepped n (posStep (s.get (POS_CFG_SRC n) == 1) old new)
      if !(s.get (POS_CFG_SRC n) == 1) && t.is (POS_CFG_ZEN n) && bitOf 2 new && !bitOf 2 old then t.posIndexed n else t := by
    unfold State.posDecode
    dsimp only
    cases posStep (s.get (POS_CFG_SRC n) == 1) old new <;> rfl
  have hzen := (s.posStepped_writesOnly n (posStep (s.get (POS_CFG_SRC n) == 1) old new)).is
    (show ∀ f ∈ posStepFlds n, (POS_CFG_ZEN n).Off f by simp [Fld.off_iff]; omega)
  rw [hdecode]
  refine if_congr ?_ rfl rfl
  have hquad : s.get (POS_CFG_SRC n) ≠ 1 ↔ s.get (POS_CFG_SRC n) = 0 := by omega
  simp [hzen, bitOf_eq_testBit, hquad, and_assoc]

theorem State.posLatched_writesOnly (s : State) (n : Nat) : s.WritesOnly (s.posLatched n) [POS_ZLATCH_ZLATCH n, POS_STATUS_ZSEEN n] :=
  (s.put_writesOnly _ _).trans (State.put_writesOnly _ _ _)

theorem State.posLatched_get_zlatch (s : State) (n : Nat) : (s.posLatched n).get (POS_ZLATCH_ZLATCH n) = s.get (POS_CNT_CNT n) := by
  rw [State.posLatched, State.get_put_ne _ _ (by simp), State.get_put_self _ _ _ (Nat.zero_le _) (by simp)]
  exact Nat.mod_eq_of_lt (s.get_lt_size (POS_CNT_CNT n))

theorem State.posIndexed_latched_writesOnly (s : State) (n : Nat) : (s.posLatched n).WritesOnly (s.posIndexed n) [POS_CNT_CNT n] :=
  .ite (State.put_writesOnly _ _ _) (.of_regs rfl)

theorem State.posIndexed_writesOnly (s : State) (n : Nat) :
    s.WritesOnly (s.posIndexed n) [POS_ZLATCH_ZLATCH n, POS_STATUS_ZSEEN n, POS_CNT_CNT n] :=
  (s.posLatched_writesOnly n).trans (s.posIndexed_latched_writesOnly n)

theorem State.posIndexed_get_zlatch (s : State) (n : Nat) : (s.posIndexed n).get (POS_ZLATCH_ZLATCH n) = s.get (POS_CNT_CNT n) := by
  rw [(s.posIndexed_latched_writesOnly n).get (by simp [Fld.off_iff]), State.posLatched_get_zlatch]

theorem State.posIndexed_is_zseen (s : State) (n : Nat) : (s.posIndexed n).is (POS_STATUS_ZSEEN n) = true := by
  rw [(s.posIndexed_latched_writesOnly n).is (by simp [Fld.off_iff])]
  exact State.is_put_self _ (Nat.le_refl _) (by simp)

theorem State.posIndexed_get_cnt (s : State) (n : Nat) : (s.posIndexed n).get (POS_CNT_CNT n) =
    if s.is (POS_CFG_ZRST n) = true then s.get (POS_ZVAL_ZVAL n) else s.get (POS_CNT_CNT n) := by
  have hlatch := s.posLatched_writesOnly n
  unfold State.posIndexed
  rw [hlatch.is (by simp [Fld.off_iff]), hlatch.get (g := POS_ZVAL_ZVAL n) (by simp [Fld.off_iff])]
  split
  · rw [State.get_put_self _ _ _ (Nat.zero_le _) (by simp)]
    exact Nat.mod_eq_of_lt (s.get_lt_size (POS_ZVAL_ZVAL n))
  · exact hlatch.get (by simp [Fld.off_iff])

theorem State.posIndexed_posCh (s : State) (n : Nat) : (s.posIndexed n).posCh n = s.posCh n := by
  unfold State.posIndexed
  split <;> rfl

end Sys2Proof.Machine
end

section
/-! SUPPORT. Transitions of a position channel and the times that end, and the statement about them (R215–R222, R227, R233). -/

namespace Sys2Proof.Machine

variable {s : State} {n : Nat}

/-! ### Accepted levels (R216) -/

/-- The levels l have been accepted, and wait for their decoding. -/
def State.posTaken (s : State) (n l : Nat) : State := s.setPos n { s.posCh n with sync := l, acc := l, la := some s.cyc }

/-- The step that the levels l have been taken for. -/
def State.posNext (s : State) (n l : Nat) : State :=
  (s.posTaken n l).posStepped n (posStep (s.get (POS_CFG_SRC n) == 1) (s.posCh n).acc l)

/-- The levels l have been accepted and decoded. -/
def State.posDecoded (s : State) (n l : Nat) : State := ((s.posTaken n l).posDecode n (s.posCh n).acc l).posRefresh n

theorem State.posRefresh_writesOnly (s : State) (n : Nat) : s.WritesOnly (s.posRefresh n) [POS_STATUS_PVALID n] :=
  State.put_writesOnly _ _ _

theorem State.posRefresh_is_pvalid (h : s.is (POS_STATUS_QERR n) = true) : (s.posRefresh n).is (POS_STATUS_PVALID n) = false := by
  rw [State.posRefresh, State.is_putB_self _ rfl (by simp), h]
  simp

theorem State.posRx_isSome : (s.posRx n).isSome = decide (2 ≤ s.get (POS_CFG_SRC n)) := by
  unfold State.posRx
  dsimp only
  split
  · next h => exact (decide_eq_true h).symm
  · next h => exact (decide_eq_false h).symm

theorem State.posAccept_serial (h : 2 ≤ s.get (POS_CFG_SRC n)) : s.posAccept n = s.posTaken n (s.posCh n).sync :=
  if_pos (State.posRx_isSome.trans (decide_eq_true h))

theorem State.posAccept_edge (h : s.get (POS_CFG_SRC n) < 2) : s.posAccept n = s.posDecoded n (s.posCh n).sync :=
  if_neg (ne_true_of_eq_false (State.posRx_isSome.trans (decide_eq_false (Nat.not_le_of_lt h))))

section
variable {l : Nat} (hsrc : s.get (POS_CFG_SRC n) < 2)
include hsrc

theorem State.posDecode_posNext : (s.posTaken n l).posDecode n (s.posCh n).acc l =
    if s.IndexRises n (s.posCh n).acc l then (s.posNext n l).posIndexed n else s.posNext n l := State.posDecode_eq hsrc

theorem State.posDecode_next_writesOnly : (s.posNext n l).WritesOnly ((s.posTaken n l).posDecode n (s.posCh n).acc l)
    [POS_ZLATCH_ZLATCH n, POS_STATUS_ZSEEN n, POS_CNT_CNT n] := by
  rw [State.posDecode_posNext hsrc]
  exact .ite (State.posIndexed_writesOnly _ n) (.of_regs rfl)

theorem State.posDecoded_next_writesOnly : (s.posNext n l).WritesOnly (s.posDecoded n l)
    [POS_ZLATCH_ZLATCH n, POS_STATUS_ZSEEN n, POS_CNT_CNT n, POS_STATUS_PVALID n] :=
  (State.posDecode_next_writesOnly hsrc).trans (State.posRefresh_writesOnly _ n)

omit hsrc in
theorem State.posNext_writesOnly : s.WritesOnly (s.posNext n l) (posStepFlds n) := State.posStepped_writesOnly (s.posTaken n l) n _

theorem State.posDecoded_get_cnt : (s.posDecoded n l).get (POS_CNT_CNT n) =
    if s.IndexRises n (s.posCh n).acc l ∧ s.is (POS_CFG_ZRST n) = true then s.get (POS_ZVAL_ZVAL n)
    else (s.posNext n l).get (POS_CNT_CNT n) := by
  have hzrst : (s.posNext n l).is (POS_CFG_ZRST n) = s.is (POS_CFG_ZRST n) :=
    State.posNext_writesOnly.is (by simp [Fld.off_iff]; omega)
  have hzval : (s.posNext n l).get (POS_ZVAL_ZVAL n) = s.get (POS_ZVAL_ZVAL n) :=
    State.posNext_writesOnly.get (by simp [Fld.off_iff]; omega)
  rw [State.posDecoded, (State.posRefresh_writesOnly _ n).get (by simp [Fld.off_iff]), State.posDecode_posNext hsrc]
  by_cases h : s.IndexRises n (s.posCh n).acc l
  · rw [if_pos h, State.posIndexed_get_cnt, hzrst, hzval]
    exact if_congr (and_iff_right h).symm rfl rfl
  · rw [if_neg h, if_neg (fun hc => h hc.1)]

theorem State.posDecoded_get_zlatch : (s.posDecoded n l).get (POS_ZLATCH_ZLATCH n) =
    if s.IndexRises n (s.posCh n).acc l then (s.posNext n l).get (POS_CNT_CNT n) else s.get (POS_ZLATCH_ZLATCH n) := by
  rw [State.posDecoded, (State.posRefresh_writesOnly _ n).get (by simp [Fld.off_iff]), State.posDecode_posNext hsrc]
  split
  · exact State.posIndexed_get_zlatch _ n
  · exact State.posNext_writesOnly.get (by simp [Fld.off_iff]; omega)

theorem State.posDecoded_is_zseen : (s.posDecoded n l).is (POS_STATUS_ZSEEN n) =
    (s.is (POS_STATUS_ZSEEN n) || decide (s.IndexRises n (s.posCh n).acc l)) := by
  rw [State.posDecoded, (State.posRefresh_writesOnly _ n).is (by simp [Fld.off_iff]), State.posDecode_posNext hsrc]
  split
  · next h => rw [State.posIndexed_is_zseen, decide_eq_true h, Bool.or_true]
  · next h =>
    rw [decide_eq_false h, Bool.or_false]
    exact State.posNext_writesOnly.is (by simp [Fld.off_iff]; omega)

theorem State.posDecoded_accepted (h : n < s.pos.ch.length) : ((s.posDecoded n l).posCh n).accepted = (l, some s.cyc) := by
  have hlen : n < (s.posTaken n l).pos.ch.length := by simpa [State.posTaken, State.setPos] using h
  have hnext : ((s.posNext n l).posCh n).accepted = (l, some s.cyc) := by
    rw [State.posNext, State.posStepped_accepted hlen, State.posTaken, State.posCh_setPos h, PosCh.accepted]
  have hdec : (s.posDecoded n l).posCh n = (s.posNext n l).posCh n := by
    show ((s.posTaken n l).posDecode n (s.posCh n).acc l).posCh n = _
    rw [State.posDecode_posNext hsrc]
    split
    · exact State.posIndexed_posCh _ n
    · rfl
  rw [hdec, hnext]

theorem State.posDecoded_levels (h : n < s.pos.ch.length) :
    ((s.posDecoded n l).posCh n).acc = l ∧ ((s.posDecoded n l).posCh n).la = some s.cyc :=
  Prod.mk.inj (State.posDecoded_accepted hsrc h)

end

/-! ### The filter (R215, R216) -/

/-- The synchronised levels have become l. -/
def State.posSeen (s : State) (n l : Nat) : State := s.setPos n { s.posCh n with sync := l }

theorem State.posSeen_posCh {l : Nat} (hlen : n < s.pos.ch.length) : (s.posSeen n l).posCh n = { s.posCh n with sync := l } :=
  State.posCh_setPos hlen

theorem State.posTaken_posSeen {l m : Nat} (hlen : n < s.pos.ch.length) : (s.posSeen n l).posTaken n m = s.posTaken n m := by
  rw [State.posTaken, State.posSeen_posCh hlen, State.posSeen, State.setPos_setPos]
  rfl

/-- k early transitions have been counted. -/
def State.posFiltered (s : State) (n k : Nat) : State := (s.incBy (POS_CNTS0_EFLT_CNT n) k).put (POS_STATUS_EFLT n) 1

theorem State.posFiltered_is_eflt {k : Nat} : (s.posFiltered n k).is (POS_STATUS_EFLT n) = true :=
  State.is_put_self _ (Nat.le_refl _) (by simp)

theorem State.posFiltered_onlyRegs (s : State) (n k : Nat) : s.OnlyRegs (s.posFiltered n k) [(POS_STATUS n).addr, (POS_CNTS0 n).addr] :=
  ((s.onlyRegs_put (POS_CNTS0_EFLT_CNT n) _).mono (by simp)).trans ((State.onlyRegs_put _ (POS_STATUS_EFLT n) 1).mono (by simp))

theorem State.posFiltered_get_cnt {k : Nat} : (s.posFiltered n k).get (POS_CNT_CNT n) = s.get (POS_CNT_CNT n) :=
  have ⟨_, hrd⟩ := s.posFiltered_onlyRegs n k
  State.get_of_rd (hrd _ (by simp))

/-- A transition now would come within TMIN of the last accepted one. -/
def State.posTooEarly (s : State) (n : Nat) : Bool :=
  match (s.posCh n).la with
  | some u => decide (s.cyc < u + s.posTmin n)
  | none => false

/-- TMIN has passed since the last accepted transition, if there was one. -/
def State.PosOpen (s : State) (n : Nat) : Prop := ∀ u ∈ (s.posCh n).la, u + s.posTmin n ≤ s.cyc

theorem State.posOpen_of_mem {u : Nat} (hu : u ∈ (s.posCh n).la) (h : u + s.posTmin n ≤ s.cyc) : s.PosOpen n := fun _ hv =>
  Option.mem_unique hu hv ▸ h

theorem State.PosOpen.not_tooEarly (h : s.PosOpen n) : ¬ s.posTooEarly n = true := by
  unfold State.posTooEarly
  split
  · next u hla => simpa using h u hla
  · exact Bool.false_ne_true

/-! ### A raw transition -/

theorem State.posRaw_same {l : Nat} (h : l = (s.posCh n).sync) : s.posRaw n l = s := if_pos (by simp [h])

section
variable {l : Nat} (hnew : l ≠ (s.posCh n).sync)
include hnew

theorem sync_xor_ne_zero : ¬ ((s.posCh n).sync ^^^ l == 0) = true := by
  simpa using hnew.symm

theorem State.posRaw_stopped (h : s.ticking = false ∨ s.is (POS_CFG_EN n) = false) : s.posRaw n l = s.posSeen n l :=
  (if_neg (sync_xor_ne_zero hnew)).trans (if_pos (show (!(s.ticking && s.is (POS_CFG_EN n))) = true by simpa using h))

section
variable (htick : s.ticking = true) (hen : s.is (POS_CFG_EN n) = true)
include htick hen

theorem State.posRaw_enabled : s.posRaw n l =
    if s.posTooEarly n then (s.posSeen n l).posFiltered n (setBits 3 ((s.posCh n).sync ^^^ l)).length
    else if l == (s.posCh n).acc then s.posSeen n l else (s.posSeen n l).posAccept n := by
  have hrun : ¬ (!(s.ticking && s.is (POS_CFG_EN n))) = true := by simp [htick, hen]
  exact (if_neg (sync_xor_ne_zero hnew)).trans (if_neg hrun)

/-- An early transition is counted and set aside. -/
theorem State.posRaw_early {u : Nat} (hla : (s.posCh n).la = some u) (hearly : s.cyc < u + s.posTmin n) : s.posRaw n l =
    (s.posSeen n l).posFiltered n (setBits 3 ((s.posCh n).sync ^^^ l)).length := by
  have htooEarly : s.posTooEarly n = true := by
    rw [State.posTooEarly, hla]
    exact decide_eq_true hearly
  rw [State.posRaw_enabled hnew htick hen, if_pos htooEarly]

theorem State.posRaw_open (hopen : s.PosOpen n) :
    s.posRaw n l = if l == (s.posCh n).acc then s.posSeen n l else (s.posSeen n l).posAccept n := by
  rw [State.posRaw_enabled hnew htick hen, if_neg hopen.not_tooEarly]

theorem State.posRaw_unchanged (hopen : s.PosOpen n) (hacc : l = (s.posCh n).acc) : s.posRaw n l = s.posSeen n l := by
  rw [State.posRaw_open hnew htick hen hopen, if_pos (by simp [hacc])]

theorem State.posRaw_accepts (hopen : s.PosOpen n) (hacc : l ≠ (s.posCh n).acc) : s.posRaw n l = (s.posSeen n l).posAccept n := by
  rw [State.posRaw_open hnew htick hen hopen, if_neg (by simpa using hacc)]

theorem State.posRaw_serial (hlen : n < s.pos.ch.length) (hopen : s.PosOpen n) (hacc : l ≠ (s.posCh n).acc)
    (hsrc : 2 ≤ s.get (POS_CFG_SRC n)) : s.posRaw n l = s.posTaken n l := by
  rw [State.posRaw_accepts hnew htick hen hopen hacc, State.posAccept_serial (by exact hsrc), State.posTaken_posSeen hlen,
    State.posSeen_posCh hlen]

theorem State.posRaw_decodes (hlen : n < s.pos.ch.length) (hopen : s.PosOpen n) (hacc : l ≠ (s.posCh n).acc)
    (hsrc : s.get (POS_CFG_SRC n) < 2) : s.posRaw n l = s.posDecoded n l := by
  rw [State.posRaw_accepts hnew htick hen hopen hacc, State.posAccept_edge (by exact hsrc), State.posDecoded,
    State.posTaken_posSeen hlen, State.posSeen_posCh hlen, State.posDecoded]

end

/-- Where the channel does not run, or the levels are the accepted ones and TMIN has passed, nothing but the levels is taken. -/
theorem State.posRaw_sees (h : s.ticking = false ∨ s.is (POS_CFG_EN n) = false ∨ l = (s.posCh n).acc ∧ s.PosOpen n) :
    s.posRaw n l = s.posSeen n l := by
  by_cases hrun : s.ticking = true ∧ s.is (POS_CFG_EN n) = true
  · obtain ⟨htick, hen⟩ := hrun
    obtain ⟨hacc, hopen⟩ := (h.resolve_left (by simp [htick])).resolve_left (by simp [hen])
    exact State.posRaw_unchanged hnew htick hen hopen hacc
  · exact State.posRaw_stopped hnew (by simpa using Classical.not_and_iff_not_or_not.mp hrun)

end

/-! ### The end of TMIN -/

theorem State.posTminExpiry_accepts {u : Nat} (hla : (s.posCh n).la = some u) (htick : s.ticking = true)
    (hen : s.is (POS_CFG_EN n) = true) (hcyc : s.cyc = u + s.posTmin n) (hdiff : (s.posCh n).sync ≠ (s.posCh n).acc) :
    s.posTminExpiry n = s.posAccept n := by
  unfold State.posTminExpiry
  simp [hla, htick, hen, hcyc, hdiff]

theorem State.posTminExpiry_idle (h : s.ticking = false ∨ s.is (POS_CFG_EN n) = false ∨ (s.posCh n).sync = (s.posCh n).acc ∨
    ∀ u ∈ (s.posCh n).la, s.cyc ≠ u + s.posTmin n) : s.posTminExpiry n = s := by
  unfold State.posTminExpiry
  dsimp only
  split
  · next u hla =>
    refine if_neg ?_
    rcases h with htick | hen | hacc | hcyc
    · simp [htick]
    · simp [hen]
    · simp [hacc]
    · simp [hcyc u hla]
  · rfl

/-! ### What a transition decodes to (R218–R221) -/

section
variable {l : Nat} {x : Int} (hstep : posStep (s.get (POS_CFG_SRC n) == 1) (s.posCh n).acc l = some x) (hx : x ≠ 0)
include hstep hx

theorem State.posNext_of_step : s.posNext n l = (s.posTaken n l).posEdge n (s.posDelta n x) := by
  rw [State.posNext, hstep, State.posStepped_of_ne_zero hx]
  rfl

theorem State.posNext_get_cnt : (s.posNext n l).get (POS_CNT_CNT n) = s.posHeld n (s.posCnt n + s.posDelta n x) := by
  rw [State.posNext_of_step hstep hx]
  exact State.posEdge_get_cnt (s.posTaken n l) n _

variable (hsrc : s.get (POS_CFG_SRC n) < 2)
include hsrc

theorem State.posDecoded_is_dir : (s.posDecoded n l).is (POS_STATUS_DIR n) = decide (s.posDelta n x < 0) := by
  rw [(State.posDecoded_next_writesOnly hsrc).is (by simp [Fld.off_iff]), State.posNext_of_step hstep hx, State.posEdge_is_dir]

theorem State.posDecoded_is_dirchg : (s.posDecoded n l).is (POS_STATUS_DIRCHG n) =
    (s.is (POS_STATUS_DIRCHG n) || (s.is (POS_STATUS_DIR n) != decide (s.posDelta n x < 0))) := by
  rw [(State.posDecoded_next_writesOnly hsrc).is (by simp [Fld.off_iff]), State.posNext_of_step hstep hx, State.posEdge_is_dirchg]
  rfl

theorem State.posDecoded_get_ts : (s.posDecoded n l).get (POS_TSTAMP_TS n) = s.timebase % 2 ^ 32 := by
  rw [(State.posDecoded_next_writesOnly hsrc).get (by simp [Fld.off_iff]), State.posNext_of_step hstep hx, State.posEdge_get_ts]
  rfl

theorem State.posDecoded_period (hlen : n < s.pos.ch.length) (hdir : s.is (POS_STATUS_DIR n) = decide (s.posDelta n x < 0))
    (hrun : (s.posCh n).run = true) :
    (s.posDecoded n l).get (POS_PERIOD_PERIOD n) = s.posInterval n ∧ (s.posDecoded n l).is (POS_SPD_VALID n) = true := by
  have hnext := State.posDecoded_next_writesOnly (l := l) hsrc
  have hch : (s.posTaken n l).posCh n = { s.posCh n with sync := l, acc := l, la := some s.cyc } := State.posCh_setPos hlen
  have hperiod : (s.posTaken n l).posInterval n = s.posInterval n := by
    rw [State.posInterval, hch]
    rfl
  rw [hnext.get (by simp [Fld.off_iff]), hnext.is (by simp [Fld.off_iff]), State.posNext_of_step hstep hx, ← hperiod]
  exact State.posEdge_period hdir (hch ▸ hrun)

end

section
variable {l : Nat} (hstep : posStep (s.get (POS_CFG_SRC n) == 1) (s.posCh n).acc l = some 0)
include hstep

theorem State.posNext_of_illegal : s.posNext n l = (s.posTaken n l).posIllegal n := by
  rw [State.posNext, hstep, State.posStepped_zero]

theorem State.posNext_illegal_get_cnt : (s.posNext n l).get (POS_CNT_CNT n) = s.get (POS_CNT_CNT n) := by
  rw [State.posNext_of_illegal hstep]
  exact (State.posIllegal_writesOnly (s.posTaken n l) n).get (by simp [Fld.off_iff])

variable (hsrc : s.get (POS_CFG_SRC n) < 2)
include hsrc

theorem State.posDecoded_illegal_is_qerr : (s.posDecoded n l).is (POS_STATUS_QERR n) = true := by
  rw [(State.posDecoded_next_writesOnly hsrc).is (by simp [Fld.off_iff]), State.posNext_of_illegal hstep, State.posIllegal_is_qerr]

theorem State.posDecoded_illegal_is_valid : (s.posDecoded n l).is (POS_SPD_VALID n) = false := by
  rw [(State.posDecoded_next_writesOnly hsrc).is (by simp [Fld.off_iff]), State.posNext_of_illegal hstep, State.posIllegal_is_valid]

theorem State.posDecoded_illegal_is_pvalid : (s.posDecoded n l).is (POS_STATUS_PVALID n) = false := by
  refine State.posRefresh_is_pvalid ?_
  rw [(State.posDecode_next_writesOnly hsrc).is (by simp [Fld.off_iff]), State.posNext_of_illegal hstep, State.posIllegal_is_qerr]

end

theorem State.posNext_of_none {l : Nat} (hstep : posStep (s.get (POS_CFG_SRC n) == 1) (s.posCh n).acc l = none) :
    s.posNext n l = s.posTaken n l := by
  rw [State.posNext, hstep, State.posStepped]

/-! ### Quadrature steps of a linear count (R218, R222) -/

theorem quadIdx_lt (l : Nat) : quadIdx l < 4 := by
  have h : ∀ i < 4, nth [0, 1, 3, 2] i 0 < 4 := by decide
  exact h _ (Nat.mod_lt _ (by decide))

theorem posStep_forward {old new : Nat} (h : quadIdx new = (quadIdx old + 1) % 4) : posStep false old new = some 1 := by
  have hold := quadIdx_lt old
  have hd : (quadIdx new + 4 - quadIdx old) % 4 = 1 := by omega
  simp [posStep, hd]

theorem posStep_backward {old new : Nat} (h : quadIdx old = (quadIdx new + 1) % 4) : posStep false old new = some (-1) := by
  have hnew := quadIdx_lt new
  have hd : (quadIdx new + 4 - quadIdx old) % 4 = 3 := by omega
  simp [posStep, hd]

theorem State.posHeld_linear (hmode : s.is (POS_CFG_CNTMODE n) = false) (hlim : s.is (POS_CFG_LIMEN n) = false) (x : Int) :
    s.posHeld n (s.posCnt n + x) = (((s.get (POS_CNT_CNT n) : Int) + x) % 2 ^ 32).toNat := by
  have hcnt : s.get (POS_CNT_CNT n) < 2 ^ 32 := s.get_lt_size (POS_CNT_CNT n)
  simp only [State.posHeld, State.posCnt, hmode, hlim, Bool.false_eq_true, false_and, if_false, unsigned, signed]
  split <;> omega

theorem State.not_indexRises {old new : Nat}
    (h : s.is (POS_CFG_ZEN n) = false ∨ new.testBit 2 = false ∨ old.testBit 2 = true) : ¬ s.IndexRises n old new := by
  rintro ⟨-, hzen, hnew, hold⟩
  simp [hzen, hnew, hold] at h

/-- A quadrature step of a linear count that no limit holds and no index loads. -/
theorem State.posDecoded_linear {l : Nat} {x : Int} (hsrc : s.get (POS_CFG_SRC n) = 0) (hmode : s.is (POS_CFG_CNTMODE n) = false)
    (hlim : s.is (POS_CFG_LIMEN n) = false) (hinv : s.is (POS_CFG_DIRINV n) = false)
    (hz : ¬ s.IndexRises n (s.posCh n).acc l) (hstep : posStep false (s.posCh n).acc l = some x) (hx : x ≠ 0) :
    (s.posDecoded n l).get (POS_CNT_CNT n) = (((s.get (POS_CNT_CNT n) : Int) + x) % 2 ^ 32).toNat ∧
      (s.posDecoded n l).is (POS_STATUS_DIR n) = decide (x < 0) := by
  have hlt : s.get (POS_CFG_SRC n) < 2 := by omega
  have hstep' : posStep (s.get (POS_CFG_SRC n) == 1) (s.posCh n).acc l = some x := by rwa [hsrc]
  have hdelta : s.posDelta n x = x := if_neg (by simp [hinv])
  refine ⟨?_, ?_⟩
  · rw [State.posDecoded_get_cnt hlt, if_neg fun h => hz h.1, State.posNext_get_cnt hstep' hx, hdelta, State.posHeld_linear hmode hlim]
  · rw [State.posDecoded_is_dir hstep' hx hlt, hdelta]

/-! ### Times that end (R227, R233) -/

theorem State.pcmpEnd_due {u : Nat} (hpulse : (s.posCh n).pulse = some u) (htick : s.ticking = true) (hcyc : u ≤ s.cyc) :
    s.pcmpEnd n = s.setPos n { s.posCh n with pulse := none } := by
  unfold State.pcmpEnd
  simp [hpulse, htick, hcyc]

theorem State.pcmpEnd_idle (h : s.ticking = false ∨ ∀ u ∈ (s.posCh n).pulse, s.cyc < u) : s.pcmpEnd n = s := by
  unfold State.pcmpEnd
  split
  · next u hpulse =>
    refine if_neg ?_
    rcases h with htick | hcyc
    · simp [htick]
    · simp [hcyc u hpulse]
  · rfl

/-- The standstill time has passed: the speed reads invalid, and the next edge is a first one. -/
def State.posStilled (s : State) (n : Nat) : State :=
  ((s.setPos n { s.posCh n with stAt := none, run := false }).put (POS_STATUS_STANDSTILL n) 1).posSpeed n none

theorem State.posStandstill_due {u : Nat} (hst : (s.posCh n).stAt = some u) (htick : s.ticking = true)
    (hcyc : u + 4000 * max 1 (s.get (POS_TMO_STTMO n)) ≤ s.cyc) : s.posStandstill n = (s.posStilled n).log 8 n 0x06 := by
  unfold State.posStandstill
  simp only [hst, htick, decide_eq_true hcyc, Bool.and_self, if_true]
  rfl

theorem State.posStandstill_idle
    (h : s.ticking = false ∨ ∀ u ∈ (s.posCh n).stAt, s.cyc < u + 4000 * max 1 (s.get (POS_TMO_STTMO n))) : s.posStandstill n = s := by
  unfold State.posStandstill
  split
  · next u hst =>
    refine if_neg ?_
    rcases h with htick | hcyc
    · simp [htick]
    · simp [hcyc u hst]
  · rfl

theorem State.posStilled_writesOnly (s : State) (n : Nat) :
    s.WritesOnly (s.posStilled n) [POS_STATUS_STANDSTILL n, POS_SPD_VALID n, POS_SPD_MAG n] :=
  (State.setPos_writesOnly.trans (State.put_writesOnly _ _ _)).trans (State.posSpeed_writesOnly _ n none)

theorem State.posStilled_is_standstill (s : State) (n : Nat) : (s.posStilled n).is (POS_STATUS_STANDSTILL n) = true := by
  rw [State.posStilled, (State.posSpeed_writesOnly _ n none).is (by simp [Fld.off_iff])]
  exact State.is_put_self _ (Nat.le_refl _) (by simp)

theorem State.posStilled_posCh (h : n < s.pos.ch.length) :
    (s.posStilled n).posCh n = { s.posCh n with stAt := none, run := false } :=
  State.posSpeed_posCh.trans (State.posCh_setPos h)

theorem State.log_posCh {l i y : Nat} : (s.log l i y).posCh n = s.posCh n :=
  State.posCh_of_pos (State.log_keeps ((keep_pos _).mono (by decide)) rfl)

/-! ### The statement -/

section
variable {n : Fin 8} {l : BitVec 3} {u : Nat} (hlen : s.pos.ch.length = 8) (htick : s.ticking = true)
  (hen : s.is (POS_CFG_EN n.val) = true) (hnew : l.toNat ≠ (s.posCh n.val).sync) (hacc : l.toNat ≠ (s.posCh n.val).acc)
  (hu : u ∈ (s.posCh n.val).la) (hmin : u + s.posTmin n.val ≤ s.cyc)
include hlen htick hen hnew hacc hu hmin

theorem exec_posRawTransition_decodes (hsrc : s.get (POS_CFG_SRC n.val) < 2) :
    exec (.posRawTransition n l) s = .next (s.posDecoded n.val l.toNat) :=
  congrArg Host.Outcome.next
    (State.posRaw_decodes hnew htick hen (lt_pos_length hlen n) (State.posOpen_of_mem hu hmin) hacc hsrc)

theorem exec_posRawTransition_serial (hsrc : 2 ≤ s.get (POS_CFG_SRC n.val)) :
    exec (.posRawTransition n l) s = .next (s.posTaken n.val l.toNat) :=
  congrArg Host.Outcome.next
    (State.posRaw_serial hnew htick hen (lt_pos_length hlen n) (State.posOpen_of_mem hu hmin) hacc hsrc)

end

/-- Settles O28: an accepted transition leaves `State.posDecoded`, whose fields are those of a decoded edge, of an illegal transition and
of the index; an early one leaves `State.posFiltered`. In the clauses of a pulse and of a standstill that wait, the ∀ binds up to the
clause's end, so that their second disjunct is proved; `State.pcmpEnd_idle` and `State.posStandstill_idle` hold of a stopped tick too. -/
theorem positionEdgesAreFilteredDecodedAndCounted : Obligations.PositionEdgesAreFilteredDecodedAndCounted := by
  unfold Obligations.PositionEdgesAreFilteredDecodedAndCounted
  refine ⟨?forward, ?backward, ?step, ?illegal, ?noStep, ?early, ?seen, ?serial, ?same, ?late, ?lateLevels, ?noLate, ?pulse, ?noPulse,
    ?still, ?noStill⟩
  case forward =>
    intro s n l hlen htick hen hnew hacc u hu hmin hquad hmode hlim hinv hz hnext
    have hsrc : s.get (POS_CFG_SRC n.val) < 2 := by omega
    obtain ⟨hcnt, hdir⟩ := State.posDecoded_linear hquad hmode hlim hinv (State.not_indexRises hz) (posStep_forward hnext) (by decide)
    obtain ⟨hacc', hla'⟩ := State.posDecoded_levels (l := l.toNat) hsrc (lt_pos_length hlen n)
    exact ⟨_, exec_posRawTransition_decodes hlen htick hen hnew hacc hu hmin hsrc, hcnt.trans (by omega), hacc', hla', hdir⟩
  case backward =>
    intro s n l hlen htick hen hnew hacc u hu hmin hquad hmode hlim hinv hz hprev
    have hsrc : s.get (POS_CFG_SRC n.val) < 2 := by omega
    obtain ⟨hcnt, hdir⟩ := State.posDecoded_linear hquad hmode hlim hinv (State.not_indexRises hz) (posStep_backward hprev) (by decide)
    obtain ⟨hacc', hla'⟩ := State.posDecoded_levels (l := l.toNat) hsrc (lt_pos_length hlen n)
    exact ⟨_, exec_posRawTransition_decodes hlen htick hen hnew hacc hu hmin hsrc, hcnt.trans (by omega), hacc', hla', hdir⟩
  case step =>
    intro s n l x hlen htick hen hnew hacc u hu hmin hsrc hstep hx
    obtain ⟨hacc', hla'⟩ := State.posDecoded_levels (l := l.toNat) hsrc (lt_pos_length hlen n)
    refine ⟨_, exec_posRawTransition_decodes hlen htick hen hnew hacc hu hmin hsrc, ?cnt, State.posDecoded_is_dir hstep hx hsrc,
      State.posDecoded_is_dirchg hstep hx hsrc, State.posDecoded_get_ts hstep hx hsrc, State.posDecoded_is_zseen hsrc, ?zlatch,
      State.posDecoded_period hstep hx hsrc (lt_pos_length hlen n), hacc', hla'⟩
    case cnt =>
      rw [State.posDecoded_get_cnt hsrc, State.posNext_get_cnt hstep hx]
      exact if_congr (by simp only [and_assoc]) rfl rfl
    case zlatch =>
      intro hrise
      rw [State.posDecoded_get_zlatch hsrc, if_pos hrise]
      exact State.posNext_get_cnt hstep hx
  case illegal =>
    intro s n l hlen htick hen hnew hacc u hu hmin hsrc hstep hload
    obtain ⟨hacc', hla'⟩ := State.posDecoded_levels (l := l.toNat) hsrc (lt_pos_length hlen n)
    refine ⟨_, exec_posRawTransition_decodes hlen htick hen hnew hacc hu hmin hsrc, State.posDecoded_illegal_is_qerr hstep hsrc, ?cnt,
      State.posDecoded_illegal_is_valid hstep hsrc, State.posDecoded_illegal_is_pvalid hstep hsrc, hacc', hla'⟩
    case cnt =>
      rw [State.posDecoded_get_cnt hsrc, if_neg fun h => hload (by simpa only [and_assoc] using h), State.posNext_illegal_get_cnt hstep]
  case noStep =>
    intro s n l hlen htick hen hnew hacc u hu hmin hsrc hstep
    obtain ⟨hacc', hla'⟩ := State.posDecoded_levels (l := l.toNat) hsrc (lt_pos_length hlen n)
    refine ⟨_, exec_posRawTransition_decodes hlen htick hen hnew hacc hu hmin hsrc, ?cnt, ?zlatch, ?qerr, hacc', hla'⟩
    case cnt =>
      rw [State.posDecoded_get_cnt hsrc, State.posNext_of_none hstep]
      exact if_congr (by simp only [and_assoc]) rfl rfl
    case zlatch =>
      rw [State.posDecoded_get_zlatch hsrc, State.posNext_of_none hstep]
      rfl
    case qerr =>
      rw [(State.posDecoded_next_writesOnly hsrc).is (by simp [Fld.off_iff]), State.posNext_of_none hstep]
      rfl
  case early =>
    intro s n l u hlen htick hen hnew hla hearly
    have hch := State.posSeen_posCh (l := l.toNat) (lt_pos_length hlen n)
    exact ⟨_, congrArg Host.Outcome.next (State.posRaw_early hnew htick hen hla hearly), State.posFiltered_is_eflt,
      (congrArg PosCh.acc hch :), (congrArg PosCh.sync hch :), State.posFiltered_get_cnt, State.posFiltered_onlyRegs _ _ _⟩
  case seen => exact fun s n l hlen hnew h => ⟨_, congrArg Host.Outcome.next (State.posRaw_sees hnew h), rfl⟩
  case serial =>
    intro s n l hlen htick hen hnew hacc u hu hmin hsrc
    exact ⟨_, exec_posRawTransition_serial hlen htick hen hnew hacc hu hmin hsrc, rfl⟩
  case same => exact fun s n l h => ⟨_, congrArg Host.Outcome.next (State.posRaw_same h), rfl⟩
  case late =>
    intro s n u x hlen hla htick hen hcyc hdiff hsrc hstep hx hzen
    have haccept := (State.posTminExpiry_accepts hla htick hen hcyc hdiff).trans (State.posAccept_edge hsrc)
    obtain ⟨hacc', hla'⟩ := State.posDecoded_levels (l := (s.posCh n.val).sync) hsrc (lt_pos_length hlen n)
    refine ⟨_, congrArg Host.Outcome.next haccept, hacc', hla', ?_⟩
    rw [State.posDecoded_get_cnt hsrc, if_neg fun h => State.not_indexRises (.inl hzen) h.1]
    exact State.posNext_get_cnt hstep hx
  case lateLevels =>
    intro s n u hlen hla htick hen hcyc hdiff
    refine ⟨_, congrArg Host.Outcome.next (State.posTminExpiry_accepts hla htick hen hcyc hdiff), ?_⟩
    rcases Nat.lt_or_ge (s.get (POS_CFG_SRC n.val)) 2 with hsrc | hserial
    · obtain ⟨hacc', hla'⟩ := State.posDecoded_levels (l := (s.posCh n.val).sync) hsrc (lt_pos_length hlen n)
      rw [State.posAccept_edge hsrc]
      exact ⟨hacc', hla', fun h => absurd hsrc (Nat.not_lt_of_le h)⟩
    · rw [State.posAccept_serial hserial, State.posTaken, State.posCh_setPos (lt_pos_length hlen n)]
      exact ⟨rfl, rfl, fun _ => rfl⟩
  case noLate => exact fun s n h => ⟨_, congrArg Host.Outcome.next (State.posTminExpiry_idle h), rfl⟩
  case pulse =>
    intro s n u hlen hpulse htick hcyc
    refine ⟨_, congrArg Host.Outcome.next (State.pcmpEnd_due hpulse htick hcyc), ?_, rfl⟩
    rw [State.pcmpPad, State.posCh_setPos (lt_pos_length hlen n)]
    exact Bool.false_bne _
  case noPulse =>
    intro s n
    refine .inr fun u hu hcyc => ⟨_, congrArg Host.Outcome.next (State.pcmpEnd_idle (.inr fun v hv => ?_)), rfl⟩
    exact Option.mem_unique hu hv ▸ hcyc
  case still =>
    intro s n u hlen hst htick hcyc
    have hlog := State.log_writesOnly (s.posStilled n.val) 8 n.val 0x06
    refine ⟨_, congrArg Host.Outcome.next (State.posStandstill_due hst htick hcyc), ?standstill, ?valid, ?mag, ?ended, ?cnt⟩
    case standstill => rw [hlog.is (by simp [Fld.off_iff]; omega), State.posStilled_is_standstill]
    case valid =>
      rw [hlog.is (by simp [Fld.off_iff]; omega)]
      exact State.posSpeed_is_valid _ n.val none
    case mag =>
      rw [hlog.get (by simp [Fld.off_iff]; omega)]
      exact State.posSpeed_none_mag _ n.val
    case ended => rw [State.log_posCh, State.posStilled_posCh (lt_pos_length hlen n)]
    case cnt => rw [hlog.get (by simp [Fld.off_iff]; omega), (s.posStilled_writesOnly n.val).get (by simp [Fld.off_iff])]
  case noStill =>
    intro s n
    refine .inr fun u hu hcyc => ⟨_, congrArg Host.Outcome.next (State.posStandstill_idle (.inr fun v hv => ?_)), rfl⟩
    exact Option.mem_unique hu hv ▸ hcyc

end Sys2Proof.Machine
end

section
/-! SUPPORT. A ledger cycle: what it reads, the predictions it takes and the results it makes of them (R252–R254). -/

namespace Sys2Proof.Machine

variable {s t : State} {r : Reg} {f : Fld} {e : Nat}

/-! ### What a cycle leaves alone -/

/-- t has come of s by a ledger cycle: only the ledger, free values and the cycle's own status may differ. -/
def State.InCycle (s t : State) : Prop := s.OnlyRegs { t with ledger := s.ledger, fresh := s.fresh } [LGC_STAT.addr]

theorem keep_inCycle (s : State) : Keep s.InCycle 268435472 := by
  constructor <;> intros <;> first | assumption | contradiction

theorem State.InCycle.refl (s : State) : s.InCycle s := State.OnlyRegs.refl s _

theorem State.InCycle.setLedger (h : s.InCycle t) (x : Ledger) : s.InCycle (t.setLedger x) := h

theorem State.InCycle.rd (h : s.InCycle t) (hr : r.addr ≠ LGC_STAT.addr) : t.rd r = s.rd r :=
  h.2 r (by simpa using hr)

theorem State.InCycle.get (h : s.InCycle t) (hf : f.reg.addr ≠ LGC_STAT.addr) : t.get f = s.get f := State.get_of_rd (h.rd hf)

theorem State.InCycle.is (h : s.InCycle t) (hf : f.reg.addr ≠ LGC_STAT.addr) : t.is f = s.is f := State.is_of_rd (h.rd hf)

theorem State.InCycle.cyc (h : s.InCycle t) : t.cyc = s.cyc := (congrArg State.cyc h.1 :)

theorem State.InCycle.order (h : s.InCycle t) : t.order = s.order := (congrArg State.order h.1 :)

theorem State.InCycle.ce (h : s.InCycle t) : t.ce = s.ce := (congrArg State.ce h.1 :)

theorem State.InCycle.lastPred (h : s.InCycle t) (n : Nat) : t.lastPred n = s.lastPred n := by
  rw [State.lastPred, State.lastPred, State.ceOf, State.ceOf, h.ce, h.cyc]

/-- The engines that name an entry, and what they wrote, stay the same within a cycle. -/
theorem State.InCycle.entryPred (h : s.InCycle t) (e : Nat) : t.entryPred e = s.entryPred e := by
  have hnames : (List.range 8).filter (fun n => t.get (CE_CTRL_LGENT n) == e) =
      (List.range 8).filter (fun n => s.get (CE_CTRL_LGENT n) == e) :=
    List.filter_congr fun n hn => by
      rw [List.mem_range] at hn
      rw [h.get (by simp only; omega)]
  rw [State.entryPred, State.entryPred, hnames]
  simp only [h.lastPred]

/-! ### Predictions -/

theorem State.predict_of_none (h : s.entryPred e = none) : s.predict e = 0 := by
  rw [State.predict, h]

/-- A prediction that 32 bits hold is taken in whole watts. -/
theorem State.watts_of_trunc {w : Word} {i : Int} (hw : f32Trunc w = some i) (hlo : -2147483648 ≤ i) (hhi : i ≤ 2147483647) :
    s.watts w = i := by
  simp [State.watts, hw, hlo, hhi]

theorem State.predict_of_some {w : Word × Nat} {i : Int} (h : s.entryPred e = some w) (hw : f32Trunc w.1 = some i)
    (hlo : -2147483648 ≤ i) (hhi : i ≤ 2147483647) (hsa : ¬(e = 1 ∧ s.order = .sa))
    (htrip : ¬(e = 4 ∧ s.is DCS_STAT_TRIPLAT = true)) : s.predict e = i := by
  have hhold : ((e == 1 && s.order == .sa) || (e == 4 && s.is DCS_STAT_TRIPLAT)) = false := by
    simp only [← Bool.not_eq_true, Bool.or_eq_true, Bool.and_eq_true, beq_iff_eq]
    exact not_or.mpr ⟨hsa, htrip⟩
  rw [State.predict, h]
  simp only [hhold, Bool.false_eq_true, if_false]
  exact State.watts_of_trunc hw hlo hhi

/-- Each prediction is made within the cycle, with a free value of its own. -/
theorem State.InCycle.nth_predictions (h : s.InCycle t) {n i : Nat} (e : Nat) (hi : i < n) (d : Int × Int) :
    ∃ u, s.InCycle u ∧ (nth (t.predictions n e).1 i d).1 = u.predict (e + i) := by
  induction n generalizing t e i with
  | zero => exact absurd hi (Nat.not_lt_zero i)
  | succ n ih =>
    cases i with
    | zero => exact ⟨t, h, rfl⟩
    | succ i =>
      obtain ⟨u, hu, hp⟩ := ih (t := t.useFree.useFree) h (e + 1) (Nat.lt_of_succ_lt_succ hi)
      exact ⟨u, hu, hp.trans (congrArg u.predict (by omega))⟩

/-! ### Results -/

theorem nth_map_range {α : Type} (g : Nat → α) {n i : Nat} (hi : i < n) (d : α) : nth ((List.range n).map g) i d = g i := by
  simp [nth, hi]

theorem sumInt_of_zero {l : List Int} (h : ∀ x ∈ l, x = 0) : sumInt l = 0 :=
  List.foldlRecOn l _ (motive := (· = 0)) rfl fun _ hb x hx => by rw [hb, h x hx]; rfl

/-- An entry's prediction within its cap. -/
def State.cappedPred (s : State) (ps : List (Int × Int)) (e : Nat) : Int := s.clamped e (nth ps e (0, 0)).1

/-- An entry's heat share: no more than its prediction draws. -/
def State.heatShare (s : State) (ps : List (Int × Int)) (e : Nat) : Int :=
  clampInt 0 (max (s.cappedPred ps e) 0) ((nth ps e (0, 0)).2 * 25600)

/-- The items of a cycle. -/
def State.cycleItems (s : State) (ps : List (Int × Int)) : List Item :=
  (List.range 8).flatMap fun e => s.items e (s.cappedPred ps e) (s.heatShare ps e) (s.cappedPred ps 5)

theorem State.ledgerCompute_length (ps : List (Int × Int)) : (s.ledgerCompute ps).length = 8 := by
  simp [State.ledgerCompute]

theorem State.ledgerCompute_pred (ps : List (Int × Int)) (he : e < 8) (d : LgRes) :
    (nth (s.ledgerCompute ps) e d).pred = BitVec.ofInt 32 (nth ps e (0, 0)).1 := by
  rw [State.ledgerCompute, nth_map_range _ he]

/-- The grant of an entry other than the on-board converter's is the sum of its own items' grants. -/
theorem State.ledgerCompute_grant (ps : List (Int × Int)) (he : e < 8) (h4 : e ≠ 4) (d : LgRes) :
    ∃ draws cuts, (nth (s.ledgerCompute ps) e d).grant =
      BitVec.ofInt 32 (sumInt ((((s.cycleItems ps).filter (fun i => i.entry == e)).map (itemGrant draws cuts)).map (fun x => x.1))) := by
  rw [State.ledgerCompute, nth_map_range _ he]
  simp only [beq_iff_eq, h4, if_false]
  exact ⟨_, _, rfl⟩

/-! ### No prediction, no grant -/

theorem State.clamped_zero (s : State) (e : Nat) : s.clamped e 0 = 0 := by
  have hcap : (0 : Int) ≤ ((s.pmax e * s.thermFactor * s.actFactor e : Nat) : Int) := Int.natCast_nonneg _
  simp only [State.clamped, clampInt]
  push_cast at hcap
  rw [if_neg (by omega), if_neg (by omega), Int.zero_mul]

theorem clampInt_zero_zero (i : Int) : clampInt 0 0 i = 0 := by
  unfold clampInt
  split
  · rfl
  · split <;> omega

theorem State.items_entry (s : State) (e : Nat) (d h d5 : Int) : ∀ i ∈ s.items e d h d5, i.entry = e := by
  unfold State.items
  dsimp only
  split_ifs <;> simp

theorem State.items_amt_zero (s : State) (h4 : e ≠ 4) (d5 : Int) : ∀ i ∈ s.items e 0 0 d5, i.amt = 0 := by
  have he4 : (e == 4) = false := beq_false_of_ne h4
  unfold State.items
  simp only [he4, Bool.false_eq_true, if_false]
  split_ifs <;> simp

theorem itemGrant_of_zero {draws cuts : List (Int × Int)} {i : Item} (h : i.amt = 0) : itemGrant draws cuts i = (0, false, false) := by
  simp [itemGrant, h]

/-- An entry other than the on-board converter's that predicts 0 W is granted 0 W. -/
theorem State.ledgerCompute_grant_zero {ps : List (Int × Int)} (he : e < 8) (h4 : e ≠ 4) (hp : (nth ps e (0, 0)).1 = 0) (d : LgRes) :
    (nth (s.ledgerCompute ps) e d).grant = 0 := by
  obtain ⟨draws, cuts, hgrant⟩ := s.ledgerCompute_grant ps he h4 d
  have hcapped : s.cappedPred ps e = 0 := by rw [State.cappedPred, hp, State.clamped_zero]
  have hshare : s.heatShare ps e = 0 := by rw [State.heatShare, hcapped, Int.max_self, clampInt_zero_zero]
  have hitems : ∀ i ∈ (s.cycleItems ps).filter (fun i => i.entry == e), i.amt = 0 := by
    intro i hi
    obtain ⟨hmem, hentry⟩ := List.mem_filter.mp hi
    obtain ⟨k, -, hk⟩ := List.mem_flatMap.mp hmem
    obtain rfl : k = e := (s.items_entry _ _ _ _ _ hk).symm.trans (by simpa using hentry)
    rw [hcapped, hshare] at hk
    exact s.items_amt_zero h4 _ _ hk
  rw [hgrant, sumInt_of_zero]
  · rfl
  · simp only [List.mem_map, forall_exists_index, and_imp]
    rintro _ _ i hi rfl rfl
    rw [itemGrant_of_zero (hitems i hi)]

/-! ### The cycle -/

/-- A cycle that comes due before the last one's results are published is counted. -/
def State.cycleCounted (s : State) : State := if s.ledger.due.isSome then s.inc LGC_STAT_OVR else s

/-- The state in which a cycle takes its predictions. -/
def State.cycleBegun (s : State) : State :=
  (s.cycleCounted.setLedger
    { s.cycleCounted.ledger with ranAt := some s.cycleCounted.tick, slow := s.cycleCounted.freeBool }).useFree.inputScan

/-- The results of a cycle that starts now. -/
def State.cycleResults (s : State) : List LgRes :=
  (s.cycleBegun.predictions 8 0).2.ledgerCompute (s.cycleBegun.predictions 8 0).1

/-- The predictions have been taken, and the results wait to be published. -/
def State.cycleDone (s : State) : State :=
  (s.cycleBegun.predictions 8 0).2.setLedger
    { (s.cycleBegun.predictions 8 0).2.ledger with due := some ((s.cycleBegun.predictions 8 0).2.cyc, s.cycleResults) }

theorem State.ledgerCycle_due (htick : s.ticking = true) (hten : s.tick % 1000 = 0) (hran : s.ledger.ranAt ≠ some s.tick) :
    s.ledgerCycle = s.cycleDone := (if_pos (by simp [htick, hten, hran])).trans rfl

theorem State.ledgerCycle_idle (h : s.ticking = false ∨ s.tick % 1000 ≠ 0 ∨ s.ledger.ranAt = some s.tick) : s.ledgerCycle = s := by
  refine if_neg ?_
  rcases h with h | h | h <;> simp [h]

theorem State.inCycle_cycleCounted (s : State) : s.InCycle s.cycleCounted :=
  keeps_ite (keeps_ite (s.onlyRegs_put LGC_STAT_OVR _) (State.InCycle.refl s)) (State.InCycle.refl s)

theorem State.cycleCounted_get_ovr (s : State) : s.cycleCounted.get LGC_STAT_OVR =
    if s.ledger.due.isSome then min (s.get LGC_STAT_OVR + 1) 255 else s.get LGC_STAT_OVR := by
  unfold State.cycleCounted
  split
  · exact State.get_inc_self (by decide) (by decide)
  · rfl

theorem State.inCycle_cycleBegun (s : State) : s.InCycle s.cycleBegun :=
  State.inputScan_keeps (keep_inCycle s) s.inCycle_cycleCounted

theorem State.inCycle_predicted (s : State) : s.InCycle (s.cycleBegun.predictions 8 0).2 :=
  State.predictions_keeps ((keep_inCycle s).mono (by decide)) s.inCycle_cycleBegun

theorem State.inCycle_cycleDone (s : State) : s.InCycle s.cycleDone := s.inCycle_predicted.setLedger _

theorem State.cycleDone_due (s : State) : s.cycleDone.ledger.due = some (s.cyc, s.cycleResults) := by
  rw [State.cycleDone, State.setLedger_ledger, s.inCycle_predicted.cyc]

theorem State.predictions_regs (s : State) (n e : Nat) : (s.predictions n e).2.regs = s.regs :=
  State.predictions_keeps ((keep_regs _).mono (by decide)) rfl

theorem State.predictions_ledger (s : State) (n e : Nat) : (s.predictions n e).2.ledger = s.ledger :=
  State.predictions_keeps ((keep_ledger _).mono (by decide)) rfl

theorem State.cycleBegun_regs (s : State) : s.cycleBegun.regs = s.cycleCounted.regs :=
  State.inputScan_keeps ((keep_regs _).mono (by decide)) rfl

theorem State.cycleDone_regs (s : State) : s.cycleDone.regs = s.cycleCounted.regs := by
  rw [State.cycleDone, State.setLedger_regs, State.predictions_regs, State.cycleBegun_regs]

theorem State.cycleDone_get_ovr (s : State) : s.cycleDone.get LGC_STAT_OVR =
    if s.ledger.due.isSome then min (s.get LGC_STAT_OVR + 1) 255 else s.get LGC_STAT_OVR := by
  rw [← s.cycleCounted_get_ovr]
  exact State.get_of_rd (by rw [State.rd, State.rd, s.cycleDone_regs])

theorem State.inputScan_ranAt : s.inputScan.ledger.ranAt = s.ledger.ranAt := by
  unfold State.inputScan
  split <;> rfl

theorem State.cycleDone_ranAt (s : State) : s.cycleDone.ledger.ranAt = some s.tick := by
  have htick : s.cycleCounted.tick = s.tick := congrArg (· / 4) s.inCycle_cycleCounted.cyc
  rw [State.cycleDone, State.setLedger_ledger, State.predictions_ledger, ← htick]
  exact State.inputScan_ranAt

/-- The prediction of an entry in the results is taken within the cycle. -/
theorem State.nth_cyclePredictions (s : State) (he : e < 8) :
    ∃ u, s.InCycle u ∧ (nth (s.cycleBegun.predictions 8 0).1 e (0, 0)).1 = u.predict e := by
  simpa only [Nat.zero_add] using s.inCycle_cycleBegun.nth_predictions 0 he (0, 0)

/-- The entry of no engine predicts 0 W and, but for the on-board converter's, is granted 0 W. -/
theorem State.cycleResults_of_no_engine (he : e < 8) (h : s.entryPred e = none) (d : LgRes) :
    (nth s.cycleResults e d).pred = 0 ∧ (e ≠ 4 → (nth s.cycleResults e d).grant = 0) := by
  obtain ⟨u, hu, hp⟩ := s.nth_cyclePredictions he
  rw [State.predict_of_none ((hu.entryPred e).trans h)] at hp
  refine ⟨?_, fun h4 => State.ledgerCompute_grant_zero he h4 hp d⟩
  rw [State.cycleResults, State.ledgerCompute_pred _ he, hp]
  rfl

/-- An entry's prediction is the last value written for it, in whole watts. -/
theorem State.cycleResults_of_written {w : Word × Nat} {i : Int} (he : e < 8) (h : s.entryPred e = some w) (hw : f32Trunc w.1 = some i)
    (hlo : -2147483648 ≤ i) (hhi : i ≤ 2147483647) (hsa : ¬(e = 1 ∧ s.order = .sa))
    (htrip : ¬(e = 4 ∧ s.is DCS_STAT_TRIPLAT = true)) (d : LgRes) : (nth s.cycleResults e d).pred = BitVec.ofInt 32 i := by
  obtain ⟨u, hu, hp⟩ := s.nth_cyclePredictions he
  have hlat : u.is DCS_STAT_TRIPLAT = s.is DCS_STAT_TRIPLAT := hu.is (by decide)
  rw [State.cycleResults, State.ledgerCompute_pred _ he, hp,
    State.predict_of_some ((hu.entryPred e).trans h) hw hlo hhi (by rwa [hu.order]) (by rwa [hlat])]

end Sys2Proof.Machine
end

section
/-! SUPPORT. Publication of a ledger cycle's results, and the battery limits (R252, R255, R256). -/

namespace Sys2Proof.Machine

variable {s : State} {r : Reg} {k : Nat}

/-! ### Publication -/

theorem State.publish_rd (x : LgRes) (h : r.addr < 0x40500804 + k * 0x20 ∨ 0x40500814 + k * 0x20 ≤ r.addr) :
    (s.publish k x).rd r = s.rd r := by
  unfold State.publish
  rw [State.rd_wr_ne _ _ (by simp only; omega), State.rd_wr_ne _ _ (by simp only; omega), State.rd_wr_ne _ _ (by simp only; omega),
    State.rd_wr_ne _ _ (by simp only; omega)]

/-- Between s and t the results x of entry k have been published. -/
structure State.Publishes (s t : State) (k : Nat) (x : LgRes) : Prop where
  pred : t.rd (LGE_PRED k) = x.pred
  heat : t.rd (LGE_HEAT k) = x.heat
  grant : t.rd (LGE_GRANT k) = x.grant
  hold : t.get (LGE_STAT_HOLD k) = s.get (LGE_STAT_HOLD k)

theorem State.publish_publishes (s : State) (k : Nat) (x : LgRes) : s.Publishes (s.publish k x) k x where
  pred := by
    unfold State.publish
    rw [State.rd_wr_ne _ _ (by simp), State.rd_wr_ne _ _ (by simp), State.rd_wr_ne _ _ (by simp), State.rd_wr_self]
  heat := by
    unfold State.publish
    rw [State.rd_wr_ne _ _ (by simp), State.rd_wr_ne _ _ (by simp), State.rd_wr_self]
  grant := by
    unfold State.publish
    rw [State.rd_wr_ne _ _ (by simp), State.rd_wr_self]
  hold := by
    have hkept : (((s.wr (LGE_PRED k) x.pred).wr (LGE_HEAT k) x.heat).wr (LGE_GRANT k) x.grant).get (LGE_STAT_HOLD k) =
        s.get (LGE_STAT_HOLD k) :=
      State.get_of_rd (by rw [State.rd_wr_ne _ _ (by simp), State.rd_wr_ne _ _ (by simp), State.rd_wr_ne _ _ (by simp)])
    unfold State.publish
    dsimp only
    rw [hkept, State.get, State.rd_wr_self, BitVec.toNat_ofNat, bitsOf_mod _ _ _ _ (by simp) (by simp),
      bitsOf_putBits_self _ _ _ _ (by simp)]
    exact Nat.mod_eq_of_lt (s.get_lt_size (LGE_STAT_HOLD k))

theorem publishAll_rd (rs : List LgRes) (h : r.addr < 0x40500804 + k * 0x20 ∨ 0x40500800 + (k + rs.length) * 0x20 ≤ r.addr) :
    (publishAll rs k s).rd r = s.rd r := by
  induction rs generalizing k s with
  | nil => rfl
  | cons x rs ih =>
    rw [List.length_cons] at h
    rw [publishAll, ih (by omega), State.publish_rd x (by omega)]

/-- Writes to other registers, before or after, do not matter to what is published of an entry. -/
theorem State.Publishes.of_rd {t u v : State} {x : LgRes} (h : t.Publishes u k x) (hs : t.get (LGE_STAT_HOLD k) = s.get (LGE_STAT_HOLD k))
    (hrd : ∀ r : Reg, 0x40500804 + k * 0x20 ≤ r.addr → r.addr < 0x40500814 + k * 0x20 → v.rd r = u.rd r) : s.Publishes v k x where
  pred := (hrd _ (by simp) (by simp only; omega)).trans h.pred
  heat := (hrd _ (by simp only; omega) (by simp only; omega)).trans h.heat
  grant := (hrd _ (by simp only; omega) (by simp only; omega)).trans h.grant
  hold := (State.get_of_rd (hrd _ (by simp only; omega) (by simp only; omega))).trans (h.hold.trans hs)

theorem publishAll_publishes {rs : List LgRes} {i : Nat} (hi : i < rs.length) (d : LgRes) :
    s.Publishes (publishAll rs k s) (k + i) (nth rs i d) := by
  induction rs generalizing k s i with
  | nil => exact absurd hi (Nat.not_lt_zero i)
  | cons x rs ih =>
    cases i with
    | zero => exact (s.publish_publishes k x).of_rd rfl fun r _ hr => publishAll_rd rs (.inl (by omega))
    | succ i =>
      have hhold : (s.publish k x).get (LGE_STAT_HOLD (k + 1 + i)) = s.get (LGE_STAT_HOLD (k + 1 + i)) :=
        State.get_of_rd (State.publish_rd x (.inr (by simp only; omega)))
      rw [show k + (i + 1) = k + 1 + i by omega]
      exact (ih (Nat.lt_of_succ_lt_succ hi)).of_rd hhold fun _ _ _ => rfl

/-- The results have been published. -/
def State.resultsOut (s : State) (rs : List LgRes) : State := publishAll rs 0 (s.setLedger { s.ledger with due := none })

/-- The cycle is counted, with the thermal step that it used. -/
def State.stepOut (s : State) : State := (s.wrapInc LGC_STAT_CYCLE).put LGC_STAT_STEP (s.get THM_STAT_STEP)

/-- The results and the cycle's own status have been published. -/
def State.cycleOut (s : State) (rs : List LgRes) : State :=
  (s.resultsOut rs).stepOut.putB LGC_STAT_FALLBACK (!(s.resultsOut rs).stepOut.batFresh)

theorem State.ledgerPublish_due {u : Nat} {rs : List LgRes} (hdue : s.ledger.due = some (u, rs)) (htick : s.ticking = true)
    (hslow : s.ledger.slow = false) (hcyc : u + 800 ≤ s.cyc) : s.ledgerPublish = s.cycleOut rs := by
  unfold State.ledgerPublish
  rw [hdue]
  exact if_pos (by simp [htick, hslow, hcyc])

theorem State.ledgerPublish_idle (h : s.ticking = false ∨ s.ledger.slow = true ∨ ∀ x ∈ s.ledger.due, s.cyc < x.1 + 800) :
    s.ledgerPublish = s := by
  unfold State.ledgerPublish
  split
  · next u rs hdue =>
    refine if_neg ?_
    rcases h with htick | hslow | hcyc
    · simp [htick]
    · simp [hslow]
    · simp [hcyc (u, rs) hdue]
  · rfl

theorem State.stepOut_rd (h : r.addr ≠ LGC_STAT.addr) : s.stepOut.rd r = s.rd r := by
  rw [State.stepOut, State.rd_put_ne _ _ h, State.wrapInc_rd h]

theorem State.cycleOut_rd {rs : List LgRes} (h : r.addr ≠ LGC_STAT.addr) : (s.cycleOut rs).rd r = (s.resultsOut rs).rd r := by
  rw [State.cycleOut, State.putB_rd h, State.stepOut_rd h]

/-- Registers beyond the entries' are left alone by their results. -/
theorem State.resultsOut_rd {rs : List LgRes} (hlen : rs.length = 8) (h : 0x40500900 ≤ r.addr) : (s.resultsOut rs).rd r = s.rd r :=
  publishAll_rd rs (.inr (by omega))

theorem State.cycleOut_publishes {rs : List LgRes} {e : Nat} (he : e < rs.length) (he8 : e < 8) (d : LgRes) :
    s.Publishes (s.cycleOut rs) e (nth rs e d) := by
  have h : (s.setLedger { s.ledger with due := none }).Publishes (s.resultsOut rs) (0 + e) (nth rs e d) := publishAll_publishes he d
  rw [Nat.zero_add] at h
  exact h.of_rd rfl fun r _ hr => State.cycleOut_rd (by simp only; omega)

theorem State.resultsOut_ledger (s : State) (rs : List LgRes) : (s.resultsOut rs).ledger = { s.ledger with due := none } :=
  publishAll_keeps ((keep_ledger _).mono (by decide)) rfl

theorem State.cycleOut_ledger (s : State) (rs : List LgRes) : (s.cycleOut rs).ledger = { s.ledger with due := none } :=
  s.resultsOut_ledger rs

theorem State.resultsOut_cyc (s : State) (rs : List LgRes) : (s.resultsOut rs).cyc = s.cyc :=
  publishAll_keeps ((keep_cyc _).mono (by decide)) rfl

section
variable {rs : List LgRes} (hlen : rs.length = 8)
include hlen

theorem State.cycleOut_get_cycle : (s.cycleOut rs).get LGC_STAT_CYCLE = (s.get LGC_STAT_CYCLE + 1) % 65536 := by
  have hs : (s.resultsOut rs).get LGC_STAT_CYCLE = s.get LGC_STAT_CYCLE := State.get_of_rd (State.resultsOut_rd hlen (by decide))
  rw [State.cycleOut, State.putB, (State.put_writesOnly _ _ _).get (by simp [Fld.off_iff]), State.stepOut,
    (State.put_writesOnly _ _ _).get (by simp [Fld.off_iff]), State.wrapInc, State.get_put_self _ _ _ (by decide) (by decide), hs]
  rfl

theorem State.cycleOut_get_step : (s.cycleOut rs).get LGC_STAT_STEP = s.get THM_STAT_STEP := by
  have hs : (s.resultsOut rs).get THM_STAT_STEP = s.get THM_STAT_STEP := State.get_of_rd (State.resultsOut_rd hlen (by decide))
  rw [State.cycleOut, State.putB, (State.put_writesOnly _ _ _).get (by simp [Fld.off_iff]), State.stepOut,
    State.get_put_self _ _ _ (by decide) (by decide), hs]
  exact Nat.mod_eq_of_lt (s.get_lt_size THM_STAT_STEP)

/-- FALLBACK says whether the battery's limits are older than their timeout. -/
theorem State.cycleOut_is_fallback : (s.cycleOut rs).is LGC_STAT_FALLBACK = !s.batFresh := by
  have hledger : (s.resultsOut rs).stepOut.ledger.batAt = s.ledger.batAt :=
    (congrArg Ledger.batAt (s.resultsOut_ledger rs) :)
  have htmo : (s.resultsOut rs).stepOut.get LGC_BATTMO_TMO = s.get LGC_BATTMO_TMO :=
    State.get_of_rd ((State.stepOut_rd (by decide)).trans (State.resultsOut_rd hlen (by decide)))
  have hcyc : (s.resultsOut rs).stepOut.cyc = s.cyc := s.resultsOut_cyc rs
  rw [State.cycleOut, State.is_putB_self _ rfl (by decide), State.batFresh, State.batFresh, hledger, htmo, hcyc]

end

/-! ### Battery limits -/

theorem State.batFresh_eq (s : State) :
    s.batFresh = decide (∃ u ∈ s.ledger.batAt.toList, s.cyc < u + 400000 * max 1 (s.get LGC_BATTMO_TMO)) := by
  unfold State.batFresh
  split
  · next u hat => simp [hat]
  · next hat => simp [hat]

theorem State.batlimWrite_rd (s : State) (v : Word) : (s.batlimWrite v).rd LGC_BATLIM = v :=
  (State.rd_put_ne (f := LGC_STAT_FALLBACK) (s.wr LGC_BATLIM v) 0 (by decide)).trans (State.rd_wr_self s LGC_BATLIM v)

theorem State.batlimWrite_is_fallback (s : State) (v : Word) : (s.batlimWrite v).is LGC_STAT_FALLBACK = false :=
  State.is_put_self (s := s.wr LGC_BATLIM v) (f := LGC_STAT_FALLBACK) 0 (by decide) (by decide)

theorem State.batlimWrite_onlyRegs (s : State) (v : Word) :
    s.OnlyRegs { s.batlimWrite v with ledger := s.ledger } [LGC_BATLIM.addr, LGC_STAT.addr] :=
  ((s.onlyRegs_wr LGC_BATLIM v).mono (by simp)).trans (((s.wr LGC_BATLIM v).onlyRegs_put LGC_STAT_FALLBACK 0).mono (by simp))

/-- The battery-limit timer has ended: the limits fall back. -/
def State.fellBack (s : State) : State := (s.put LGC_STAT_FALLBACK 1).setLedger { s.ledger with batAt := none }

theorem State.batTimeout_due {u : Nat} (htick : s.ticking = true) (hat : s.ledger.batAt = some u)
    (hcyc : u + 400000 * max 1 (s.get LGC_BATTMO_TMO) ≤ s.cyc) : s.batTimeout = s.fellBack :=
  if_pos (by simpa [State.batFresh, htick, hat] using hcyc)

theorem State.batTimeout_idle (h : s.ticking = false ∨ ∀ u ∈ s.ledger.batAt, s.cyc < u + 400000 * max 1 (s.get LGC_BATTMO_TMO)) :
    s.batTimeout = s := by
  refine if_neg ?_
  rcases h with htick | hcyc
  · simp [htick]
  · cases hat : s.ledger.batAt with
    | none => simp
    | some u => simpa [State.batFresh, hat] using fun _ => hcyc u hat

theorem State.fellBack_is_fallback (s : State) : s.fellBack.is LGC_STAT_FALLBACK = true :=
  State.is_put_self (s := s) (f := LGC_STAT_FALLBACK) 1 (by decide) (by decide)

theorem State.fellBack_rd_batlim (s : State) : s.fellBack.rd LGC_BATLIM = s.rd LGC_BATLIM :=
  State.rd_put_ne (f := LGC_STAT_FALLBACK) s 1 (by decide)

end Sys2Proof.Machine
end

section
/-! SUPPORT. A steering computation, and the statement about the ledger (R252–R256, R260). -/

namespace Sys2Proof.Machine

variable {s : State} {r : Reg} {b e n : Nat}

/-! ### Placed members -/

theorem mem_placeAll {x : Member × Nat} : ∀ (l : List Member) (acc : List (Member × Nat)),
    x ∈ placeAll l acc → x ∈ acc ∨ x.1 ∈ l
  | [], _, h => .inl h
  | m :: l, acc, h => by
    rcases mem_placeAll l _ h with hacc | hl
    · rcases List.mem_append.mp hacc with hacc | hm
      · exact .inl hacc
      · rw [List.mem_singleton.mp hm]
        exact .inr List.mem_cons_self
    · exact .inr (List.mem_cons_of_mem m hl)

/-- Only members are placed. -/
theorem mem_of_mem_placeHarmonic {l : List Member} {x : Member × Nat} (h : x ∈ placeHarmonic b l) : x.1 ∈ l := by
  unfold placeHarmonic at h
  dsimp only at h
  split at h
  · exact absurd h List.not_mem_nil
  · next f hf =>
    have hfl : f ∈ l := by
      split at hf
      · next hfind => exact Option.some.inj hf ▸ List.mem_of_find?_eq_some hfind
      · exact List.mem_of_mem_head? hf
    split at h
    · next m k hrest =>
      have hmk : ∀ y ∈ [m, k], y ∈ l := fun y hy => (List.mem_filter.mp (hrest ▸ hy)).1
      simp only [List.mem_cons, List.not_mem_nil, or_false] at h hmk
      rcases h with rfl | rfl | rfl
      · exact hfl
      · exact hmk m (.inl rfl)
      · exact hmk k (.inr rfl)
    · rcases mem_placeAll _ _ h with hacc | hl
      · rw [List.mem_singleton.mp hacc]
        exact hfl
      · exact (List.mem_filter.mp hl).1

/-! ### Members -/

/-- A member is one of the entries asked, and its STEER is set. -/
theorem State.mem_members {m : Member} (h : m ∈ (s.members b n e).1) : m.entry < e + n ∧ s.is (LGE_CFG_STEER m.entry) = true := by
  induction n generalizing s e with
  | zero => exact absurd h List.not_mem_nil
  | succ n ih =>
    unfold State.members at h
    split at h
    · next hin _ =>
      rcases List.mem_cons.mp h with rfl | h
      · exact ⟨by simp only; omega, (Bool.and_eq_true_iff.mp hin).1⟩
      · obtain ⟨hlt, hsteer⟩ := ih h
        exact ⟨by omega, hsteer⟩
    · obtain ⟨hlt, hsteer⟩ := ih h
      exact ⟨by omega, hsteer⟩

theorem State.members_rd (s : State) (b n e : Nat) : (s.members b n e).2.rd r = s.rd r :=
  State.members_keeps ((keep_rd _ _).mono (by decide)) rfl

theorem State.members_ledger (s : State) (b n e : Nat) : (s.members b n e).2.ledger = s.ledger :=
  State.members_keeps ((keep_ledger _).mono (by decide)) rfl

/-! ### Published offsets -/

theorem State.publishOffset_rd {x : Member × Nat} (h : r.addr ≠ (LGE_OFS x.1.entry).addr) : (s.publishOffset b x).rd r = s.rd r := by
  unfold State.publishOffset
  dsimp only
  split
  · rfl
  · exact State.rd_wr_ne _ _ h

theorem State.publishOffset_steerAt {x : Member × Nat} : (s.publishOffset b x).ledger.steerAt = s.ledger.steerAt := by
  unfold State.publishOffset
  dsimp only
  split <;> rfl

/-! ### The computation -/

theorem ofBits_lt (w : Nat) (p : Nat → Bool) : ofBits w p < 2 ^ w := by
  induction w with
  | zero => exact Nat.one_pos
  | succ w ih =>
    rw [ofBits, Nat.pow_succ]
    cases p w <;> simp only [b2n, Bool.false_eq_true, if_false, if_true] <;> omega

theorem testBit_ofBits {w i : Nat} (hi : i < w) (p : Nat → Bool) : (ofBits w p).testBit i = p i := by
  induction w with
  | zero => exact absurd hi (Nat.not_lt_zero i)
  | succ w ih =>
    rw [ofBits, Nat.mul_comm, Nat.testBit_two_pow_mul_add _ (ofBits_lt w p)]
    split
    · next h => exact ih h
    · next h =>
      obtain rfl : i = w := by omega
      rw [Nat.sub_self]
      cases p i <;> rfl

/-- The period of the next computation has begun. -/
def State.steerBegun (s : State) : State := s.setLedger { s.ledger with steerAt := s.cyc }

/-- The members of the steering group. -/
def State.steerMembers (s : State) : List Member := (s.steerBegun.members (s.get LGC_STEER_BASE) 8 0).1

/-- The offsets in l have been published. -/
def State.offsetsOut (s : State) (l : List (Member × Nat)) : State :=
  l.foldl (fun t x => t.publishOffset (s.get LGC_STEER_BASE) x) (s.steerBegun.members (s.get LGC_STEER_BASE) 8 0).2

/-- The offsets in l have been published, and the residual, the excluded entries and the members stand in STEERSTAT. -/
def State.steered (s : State) (l : List (Member × Nat)) (res excl : Nat) : State :=
  (s.offsetsOut l).useFree.wr LGC_STEERSTAT
    (BitVec.ofNat 32 (res * 2 ^ 16 + excl * 2 ^ 8 + ofBits 8 (fun e => s.steerMembers.any (fun m => m.entry == e))))

/-- A computation publishes offsets of members, or none (R260). -/
theorem State.steerCompute_due (htick : s.ticking = true) (hen : s.is LGC_STEER_EN = true)
    (hcyc : s.ledger.steerAt + 400000 * max 1 (s.get LGC_STEER_PERIOD) ≤ s.cyc) :
    ∃ l res excl, (∀ x ∈ l, x.1 ∈ s.steerMembers) ∧ s.steerCompute = s.steered l res excl := by
  unfold State.steerCompute
  rw [if_pos (by simp [htick, hen, hcyc])]
  dsimp only
  generalize decide (sumInt _ * 256 ≤ _) = adopt
  cases adopt with
  | false => exact ⟨[], _, _, by simp, rfl⟩
  | true =>
    refine ⟨_, _, _, fun x hx => ?_, rfl⟩
    obtain ⟨l, hl, hxl⟩ := List.mem_flatten.mp hx
    obtain ⟨h, -, rfl⟩ := List.mem_map.mp hl
    exact (List.mem_filter.mp (mem_of_mem_placeHarmonic hxl)).1

theorem State.steerCompute_idle
    (h : s.ticking = false ∨ s.is LGC_STEER_EN = false ∨ s.cyc < s.ledger.steerAt + 400000 * max 1 (s.get LGC_STEER_PERIOD)) :
    s.steerCompute = s := by
  refine if_neg ?_
  rcases h with h | h | h <;> simp [h]

theorem State.mem_steerMembers {m : Member} (h : m ∈ s.steerMembers) : m.entry < 8 ∧ s.is (LGE_CFG_STEER m.entry) = true := by
  obtain ⟨hlt, hsteer⟩ := State.mem_members h
  exact ⟨by omega, hsteer⟩

theorem State.steered_rd {l : List (Member × Nat)} {res excl : Nat} (hstat : r.addr ≠ LGC_STEERSTAT.addr)
    (hofs : ∀ x ∈ l, r.addr ≠ (LGE_OFS x.1.entry).addr) : (s.steered l res excl).rd r = s.rd r := by
  rw [State.steered, State.rd_wr_ne _ _ hstat, State.useFree_rd, State.offsetsOut,
    foldl_rd _ _ fun _ x hx => State.publishOffset_rd (hofs x hx), State.members_rd]
  rfl

theorem State.steered_steerAt (s : State) (l : List (Member × Nat)) (res excl : Nat) : (s.steered l res excl).ledger.steerAt = s.cyc := by
  have hbegun : (s.steerBegun.members (s.get LGC_STEER_BASE) 8 0).2.ledger.steerAt = s.cyc :=
    congrArg Ledger.steerAt (s.steerBegun.members_ledger _ 8 0)
  exact List.foldlRecOn l _ (motive := fun t : State => t.ledger.steerAt = s.cyc) hbegun
    fun _ ht _ _ => State.publishOffset_steerAt.trans ht

theorem State.steered_bit_memb {l : List (Member × Nat)} {res excl : Nat} (he : e < 8) :
    (s.steered l res excl).bit LGC_STEERSTAT_MEMB e = s.steerMembers.any (fun m => m.entry == e) := by
  have hlt := ofBits_lt 8 (fun e => s.steerMembers.any (fun m => m.entry == e))
  have hget : (s.steered l res excl).get LGC_STEERSTAT_MEMB = ofBits 8 (fun e => s.steerMembers.any (fun m => m.entry == e)) := by
    rw [State.steered, State.get, State.rd_wr_self, BitVec.toNat_ofNat, bitsOf]
    simp only [Nat.reducePow, Nat.reduceAdd, Nat.reduceSub] at hlt ⊢
    omega
  rw [State.bit, hget, bitOf_eq_testBit, testBit_ofBits he]

/-! ### The statement -/

/-- Settles O30: a cycle leaves `State.cycleDone`, whose results are `State.cycleResults`, publication leaves `State.cycleOut`, and a
steering computation `State.steered`. In the clauses of a cycle and of a timer that is not over, the ∀ binds up to the clause's end, so
that their last disjunct is proved; `State.ledgerPublish_idle` and `State.batTimeout_idle` hold of a stopped tick too. -/
theorem theLedgerComputesPublishesAndFallsBack : Obligations.TheLedgerComputesPublishesAndFallsBack := by
  unfold Obligations.TheLedgerComputesPublishesAndFallsBack
  refine ⟨?cycle, ?noCycle, ?publish, ?noPublish, ?limits, ?timeout, ?noTimeout, ?steer, ?noSteer⟩
  case cycle =>
    intro s htick hten hran
    refine ⟨_, congrArg Host.Outcome.next (State.ledgerCycle_due htick hten hran), ?due, s.cycleDone_ranAt, ?noEngine, ?written,
      s.cycleDone_get_ovr, s.inCycle_cycleDone⟩
    case due => rw [s.cycleDone_due, Option.map_some, State.cycleResults, State.ledgerCompute_length]
    case noEngine =>
      intro x hx e he
      obtain rfl := Option.mem_unique s.cycleDone_due hx
      exact State.cycleResults_of_no_engine e.isLt he _
    case written =>
      intro x hx e w hw i hi ⟨hlo, hhi, hsa, htrip⟩
      obtain rfl := Option.mem_unique s.cycleDone_due hx
      exact State.cycleResults_of_written e.isLt (Option.mem_toList.mp hw) (Option.mem_toList.mp hi) hlo hhi hsa htrip _
  case noCycle => exact fun s h => ⟨_, congrArg Host.Outcome.next (State.ledgerCycle_idle h), rfl⟩
  case publish =>
    intro s u rs hdue hlen htick hslow hcyc
    have hout (e : Fin 8) := State.cycleOut_publishes (s := s) (rs := rs) (e := e.val) (by omega) e.isLt ⟨0, 0, 0, 0⟩
    refine ⟨_, congrArg Host.Outcome.next (State.ledgerPublish_due hdue htick hslow hcyc),
      fun e => ⟨(hout e).pred, (hout e).heat, (hout e).grant⟩, fun e => (hout e).hold, congrArg Ledger.due (s.cycleOut_ledger rs),
      State.cycleOut_get_cycle hlen, State.cycleOut_get_step hlen, ?_⟩
    rw [State.cycleOut_is_fallback hlen, State.batFresh_eq]
  case noPublish =>
    intro s
    refine .inr (.inr fun x hx hcyc => ⟨_, congrArg Host.Outcome.next (State.ledgerPublish_idle (.inr (.inr fun y hy => ?_))), rfl⟩)
    exact Option.mem_unique hx hy ▸ hcyc
  case limits =>
    intro s ini val h
    exact ⟨_, congrArg Host.Outcome.next (State.busWrite_of_reaches h _), s.batlimWrite_rd val, s.batlimWrite_is_fallback val, rfl,
      s.batlimWrite_onlyRegs val⟩
  case timeout =>
    intro s u htick hat hcyc
    exact ⟨_, congrArg Host.Outcome.next (State.batTimeout_due htick hat hcyc), s.fellBack_is_fallback, rfl, s.fellBack_rd_batlim,
      s.onlyRegs_put LGC_STAT_FALLBACK 1⟩
  case noTimeout =>
    intro s
    refine .inr fun u hu hcyc => ⟨_, congrArg Host.Outcome.next (State.batTimeout_idle (.inr fun v hv => ?_)), rfl⟩
    exact Option.mem_unique hu hv ▸ hcyc
  case steer =>
    intro s htick hen hcyc
    obtain ⟨l, res, excl, hl, hsteer⟩ := State.steerCompute_due htick hen hcyc
    refine ⟨_, congrArg Host.Outcome.next hsteer, s.steered_steerAt l res excl, fun e hoff => ⟨?offset, ?member⟩, fun e => ?grant⟩
    case offset =>
      refine State.steered_rd (by simp only; omega) fun x hx heq => ?_
      obtain ⟨-, hon⟩ := State.mem_steerMembers (hl x hx)
      have hx : x.1.entry = e.val := by simp only at heq; omega
      rw [hx, hoff] at hon
      exact Bool.false_ne_true hon
    case member =>
      rw [State.steered_bit_memb e.isLt, List.any_eq_false]
      intro m hm heq
      obtain ⟨-, hon⟩ := State.mem_steerMembers hm
      rw [beq_iff_eq.mp heq, hoff] at hon
      exact Bool.false_ne_true hon
    case grant => exact State.steered_rd (by simp only; omega) fun x _ => by simp only; omega
  case noSteer => exact fun s h => ⟨_, congrArg Host.Outcome.next (State.steerCompute_idle h), rfl⟩

end Sys2Proof.Machine
end

section
/-! SUPPORT. The statement about actuator sequences fails where a request for PRK still waits for ramps that have ended: the end of a
sequence ends ACT, which takes that request up, and PRK starts ENGAGE on the actuator whose sequence has just ended (R38, R40, R274). -/

namespace Sys2Proof.Machine

/-- A RELEASE sequence of the park lock is in MOVE, with D12 on, ACT active, both motors valid at standstill and the actuator's position
valid. A request for PRK waits for the ramps of DRV, although no DRV instance is active. -/
def prkWaitsForNoRamp : State :=
  let valid := ((State.reset.put (RES_STATUS_PVALID 0) 1).put (RES_STATUS_PVALID 1) 1).put (POS_STATUS_PVALID 4) 1
  let releasing := (valid.put (ACS_STAT_SEQ 0) 2).put (ACS_STAT_PHASE 0) 2
  let asked := (releasing.put MDM_ACTIVE_ACTIVE 0x40).put MDM_ACTIVE_PENDING 0x200
  { asked with on := 0x1000, modes := { Modes.idle with pend := [⟨9, [], 0, 0⟩] } }

/-- With the actuator bus at 0 V for ACT_BUSUV_T the sequence ends BUSUV. -/
theorem prkWaitsForNoRamp_actBusuv :
    exec (.actBusuv 0 0 (400000 * prkWaitsForNoRamp.par 0x003C)) prkWaitsForNoRamp = .next (prkWaitsForNoRamp.actEnd 0 8) :=
  congrArg Host.Outcome.next (if_pos (by decide))

/-- After that end actuator 0 runs ENGAGE, in PRECHECK. -/
theorem prkWaitsForNoRamp_actEnd : (prkWaitsForNoRamp.actEnd 0 8).get (ACS_STAT_SEQ 0) = 1 ∧
    (prkWaitsForNoRamp.actEnd 0 8).get (ACS_STAT_PHASE 0) = 1 := by decide

/-- Refutes O31: an undervoltage ends the sequence of `prkWaitsForNoRamp` and with it ACT, the waiting request for PRK then starts
ENGAGE on the same actuator, and PHASE is 1. The statement leaves out that a request which waits for ramps has an active instance to
wait for. -/
theorem not_actuatorSequencesMoveThroughTheirPhases : ¬ Obligations.ActuatorSequencesMoveThroughTheirPhases := by
  unfold Obligations.ActuatorSequencesMoveThroughTheirPhases
  rintro ⟨-, -, -, -, -, -, -, -, -, -, -, hbusuv, -⟩
  obtain ⟨t, ht, hidle, -⟩ := hbusuv prkWaitsForNoRamp 0 0 (400000 * prkWaitsForNoRamp.par 0x003C) rfl (by decide) (by decide) le_rfl
  obtain ⟨-, hphase⟩ := prkWaitsForNoRamp_actEnd
  obtain rfl : prkWaitsForNoRamp.actEnd 0 8 = t := Host.Outcome.next.inj (prkWaitsForNoRamp_actBusuv.symm.trans ht)
  exact one_ne_zero (hphase.symm.trans hidle)

end Sys2Proof.Machine
end

section
/-! SUPPORT. The statement about Badger's inputs fails where a diagnostic run would switch D2 off at its end: a forced state on a tested
leg ends the run in the instant in which a SIN level is accepted, and Badger's registers take their reset values (R27, R150, R286). -/

namespace Sys2Proof.Machine

/-- D2 is on, and the pad of SIN0A has been at release for 200 Badger ticks. A diagnostic run tests leg 0, which Badger forces off, and
the domains that it switches off at its end are D2 alone. -/
def runHoldsD2 : State :=
  let run := (State.reset.put GDG_OSDSTAT_BUSY 1).put GDG_OSDLEGS_LEGS 1
  { run with on := 0x4, osd := { Osd.idle with doms := [2] }, badger := { Badger.idle with tick := 200, pads := 1 } }

/-- The mirror's update after the accepted release aborts the run: D2 is off, and SIN0A demands again, as at reset. -/
theorem runHoldsD2_sinAccept : (runHoldsD2.sinAccept 0).isOn 2 = false ∧ (runHoldsD2.sinAccept 0).bit HSM_SIN_DEM 0 = true := by
  decide +kernel

/-- Refutes O34: SIN0A's release of `runHoldsD2` has been held for its 200 samples, but the channel does not read release once it is
accepted, since the run that ends with it takes Badger's own domain. `State.osdStart` lists no domain but D9 to D12, which hold no
register of Badger; the statement leaves out that the run's list has no other. -/
theorem not_badgerWatchesInputsSpeedsAndTasks : ¬ Obligations.BadgerWatchesInputsSpeedsAndTasks := by
  unfold Obligations.BadgerWatchesInputsSpeedsAndTasks
  rintro ⟨-, -, haccept, -⟩
  obtain ⟨t, ht, hreleased⟩ := haccept runHoldsD2 0 (by decide) (by decide) (by decide)
  obtain ⟨-, hdemands⟩ := runHoldsD2_sinAccept
  obtain rfl : runHoldsD2.sinAccept 0 = t := Host.Outcome.next.inj ht
  exact Bool.false_ne_true (hreleased.symm.trans hdemands)

end Sys2Proof.Machine
end

section
/-! SUPPORT. The statement about interrupt entry fails where memory lists a byte of the frame twice. -/

namespace Sys2Proof.Machine

/-- The low byte of a 32-bit word of memory is the byte at its address (R11). -/
theorem State.ofNat_rdMem32 (s : State) (a : Nat) : BitVec.ofNat 8 (s.rdMem32 a).toNat = s.rdByte a := by
  apply BitVec.eq_of_toNat_eq
  simp only [State.rdMem32, State.rdBytes, leNat, BitVec.toNat_ofNat]
  omega

/-- Of the bytes of a write only the first reaches the write's own address. -/
theorem State.rdByte_wrBytes_cons (s : State) (a : Nat) (b : Byte) (l : List Byte) :
    (s.wrBytes a (b :: l)).rdByte a = (s.wrByte a b).rdByte a := by
  rw [State.wrBytes, State.rdByte_wrBytes_ne _ l (.inl (Nat.lt_succ_self a))]

/-- A store to SRAM that the bus lets through, outside the redundant data region, writes its bytes (R314, R331). -/
theorem State.scStore_of_sram {s : State} {c : Fin 4} {th : Fin 3} {a : Nat} (v : List Byte) (hregion : s.inRegion c.val a = false)
    (hans : s.answers (s.scIni c th) a = true) (hok : s.busOk (s.scIni c th) a true v.length = true)
    (hlo : 0x20000000 ≤ a) (hhi : a < 0x22000000) : s.scStore c th a v = s.wrBytes a v := by
  have hsc : ∀ b, ceOwnKept (s.scIni c th) b = false := by
    intro b
    unfold State.scIni
    split
    · split <;> rfl
    · rfl
  have hmem : isMemory a = true := by simp [isMemory]; omega
  have htcm : inWin 0x30000000 0x30200000 a = false := by simp [inWin]; omega
  have hcan : inWin 0x60010000 0x60020000 a = false := by simp [inWin]; omega
  have hmram : ¬ a < 0x04000000 := by omega
  simp [State.scStore, hregion, State.busStore, State.busWrite, hans, hok, State.blockStore, hsc, hmem, htcm, hcan, State.memStore, hmram]

/-- An entry with HWSAVE that passes every check is accepted and stores its frame; the rest leaves memory alone (R340). -/
theorem State.irqEntry_mem_of_checks {s : State} {c : Fin 4} {th : Fin 3} {k : Nat} {h sp : Word} {i : Irq} (pc : Word) (saved : List Word)
    (n m : Nat) (fe : FabRes) (icnt : Nat) (hirq : s.irqFor (c.val * 3 + th.val) k = some i) (hruns : s.thrRuns c th = true)
    (hsave : s.is (PU_CTRL_HWSAVE (c.val * 3 + th.val)) = true) (hsp : sp.toNat % 64 = 0)
    (hframe : s.puAllows (c.val * 3 + th.val) (sp - 64).toNat 64 1 false = true)
    (hvec : s.puAllows (c.val * 3 + th.val) h.toNat 4 2 false = true)
    (hans : s.answers (s.scIni c th) (sp - 64).toNat = true) (hok : s.busOk (s.scIni c th) (sp - 64).toNat true = true) :
    (s.irqEntry c th k pc h sp saved (.ok n m) fe icnt).mem =
      (((s.useFree.fabCount (sp - 64).toNat n m).irqAccept c (c.val * 3 + th.val) k icnt i pc (BitVec.ofNat 32 s.freeNat)).scStore c th
        (sp - 64).toNat (frameBytes pc (BitVec.ofNat 32 s.freeNat) saved)).mem := by
  have hwr : (FabRes.ok n m == .uncorrectable) = false := rfl
  simp only [State.irqEntry, hirq, hruns, show s.useFree.is _ = true from hsave, show s.useFree.puAllows _ _ 64 1 _ = true from hframe,
    show s.useFree.puAllows _ _ 4 2 _ = true from hvec, show s.useFree.answers (s.useFree.scIni c th) _ = true from hans,
    show s.useFree.busOk (s.useFree.scIni c th) _ _ = true from hok, hsp, hwr, State.fabEnd, Bool.not_true, Bool.and_true, Bool.and_false,
    bne_self_eq_false, Bool.or_self, Bool.false_eq_true, if_false]
  exact State.handlerFetch_keeps ((keep_mem _).mono (by decide)) rfl

/-- Thread 0 of core 0 runs with HWSAVE on and its protection unit off, an interrupt is pending, and memory lists the byte at
0x2000_0000 twice. That byte is the first of the frame for sp = 0x2000_0040. -/
def frameListedTwice : State :=
  let saving := (State.reset.put (SCC_STAT_STATE 0) 1).put (PU_CTRL_HWSAVE 0) 1
  { saving with mem := [(0x20000000, 1), (0x20000000, 1)], irqs := [⟨.sc, 0x50000000, 0, 0⟩], on := 0x18, pllA := true }

/-- The frame of an entry with the interrupted PC 0 and every saved register 0. -/
def frameListedTwice.frame : List Byte := frameBytes 0 (BitVec.ofNat 32 frameListedTwice.freeNat) (List.replicate 14 0)

/-- The state in which that entry, which has the handler at 0x2000_1000, is accepted and stores its frame. -/
def frameListedTwice.accepted : State :=
  (frameListedTwice.useFree.fabCount 0x20000000 0 0).irqAccept 0 0 0 0 ⟨.sc, 0x50000000, 0, 0⟩ 0
    (BitVec.ofNat 32 frameListedTwice.freeNat)

/-- The state after the entry. -/
def frameListedTwice.entered : State :=
  frameListedTwice.irqEntry 0 0 0 0 0x20001000 0x20000040 (List.replicate 14 0) (.ok 0 0) (.ok 0 0) 0

theorem frameListedTwice.entered_mem : entered.mem = (accepted.wrBytes 0x20000000 frame).mem := by
  have hstore : accepted.scStore 0 0 0x20000000 frame = accepted.wrBytes 0x20000000 frame :=
    State.scStore_of_sram frame (by decide) (by decide) (by decide) le_rfl (by decide)
  rw [← hstore]
  exact State.irqEntry_mem_of_checks 0 (List.replicate 14 0) 0 0 (.ok 0 0) 0 (by decide) (by decide) (by decide) (by decide) (by decide)
    (by decide) (by decide) (by decide)

/-- The frame's first byte reads 1, although it was written as 0: the write took one of the two entries away. -/
theorem frameListedTwice.entered_rdByte : entered.rdByte 0x20000000 = 1 := by
  have hcons : frame = 0 :: frame.tail := rfl
  have hfirst : (accepted.wrByte 0x20000000 0).rdByte 0x20000000 = 1 := by decide
  calc entered.rdByte 0x20000000
    _ = (accepted.wrBytes 0x20000000 frame).rdByte 0x20000000 := by rw [State.rdByte, entered_mem, ← State.rdByte]
    _ = (accepted.wrByte 0x20000000 0).rdByte 0x20000000 := by rw [hcons, State.rdByte_wrBytes_cons]
    _ = 1 := hfirst

/-- Refutes O37: the entry of `frameListedTwice` is accepted and stores its frame, but the frame's first word is not the interrupted
PC. The statement leaves out that memory is in its canonical form (`Memory.wf`), which reset has and every step keeps. -/
theorem not_interruptEntrySavesItsFrame : ¬ Obligations.InterruptEntrySavesItsFrame := by
  unfold Obligations.InterruptEntrySavesItsFrame
  rintro ⟨-, -, -, hframe, -⟩
  obtain ⟨t, ht, -, -, -, hpc, -⟩ := hframe frameListedTwice 0 0 0 0 0x20001000 0x20000040 (List.replicate 14 0) (.ok 0 0) (.ok 0 0) 0
    ⟨.sc, 0x50000000, 0, 0⟩ (by decide) (by decide) rfl (by decide) (by decide) (by decide) (by decide) (by decide) (by decide)
    (by decide) rfl (by decide) (by decide) (by decide) (by decide) (by decide)
  obtain rfl : frameListedTwice.entered = t := Host.Outcome.next.inj ht
  have hlow : frameListedTwice.entered.rdByte 0x20000000 = BitVec.ofNat 8 (0 : Word).toNat := by
    rw [← hpc]
    exact (State.ofNat_rdMem32 _ _).symm
  exact absurd (hlow.symm.trans frameListedTwice.entered_rdByte) (by decide)

end Sys2Proof.Machine
end

section
/-! SUPPORT. The thermal shutdown latch is set and stays set, and no start begins (R460, R485): a property of states that every
operation but a power cycle keeps. An operation that changes neither part of State keeps it by its lemma of Laws/Keep*.lean. -/

namespace Sys2Proof.Machine

/-- The thermal shutdown latch is set, and a start runs only where r holds: where one ran when the latch was found set. -/
def Latched (r : Prop) (s : State) : Prop := s.sup.latch = true ∧ (s.start.running = true → r)

theorem keep_latched (r : Prop) : Keep (Latched r) 687194767359 := by
  constructor <;> intros <;> first | assumption | contradiction

namespace Latched

variable {r : Prop} {s t : State}

/-- An operation whose mask m leaves out the supply manager and the start keeps the latch set. -/
theorem keep {m : Nat} (hm : m &&& 687194767359 = m) : Keep (Latched r) m := (keep_latched r).mono hm

/-! ### The shared operations -/

theorem put (h : Latched r s) {f : Fld} {v : Nat} : Latched r (s.put f v) := h
theorem putB (h : Latched r s) {f : Fld} {b : Bool} : Latched r (s.putB f b) := h
theorem putFldBit (h : Latched r s) {f : Fld} {i : Nat} {b : Bool} : Latched r (s.putFldBit f i b) := h
theorem inc (h : Latched r s) {f : Fld} : Latched r (s.inc f) := State.inc_keeps (keep (by decide)) h
theorem wr (h : Latched r s) {x : Reg} {v : Word} : Latched r (s.wr x v) := h
theorem fieldWrite (h : Latched r s) {a : Nat} {v : Word} : Latched r (s.fieldWrite a v) := State.fieldWrite_keeps (keep (by decide)) h
theorem useFree (h : Latched r s) : Latched r s.useFree := h
theorem dropRegs (h : Latched r s) {p : Nat → Bool} : Latched r (s.dropRegs p) := h
theorem dropMem (h : Latched r s) {p : Nat → Bool} : Latched r (s.dropMem p) := h
theorem log (h : Latched r s) {l i x : Nat} {d : List Byte} {b : Bool} {p : Nat} : Latched r (s.log l i x d b p) :=
  State.log_keeps (keep (by decide)) h
theorem irq (h : Latched r s) {x : IrqTo} {i e : Nat} : Latched r (s.irq x i e) := h
theorem irqIf (h : Latched r s) {c : Bool} {x : IrqTo} {i e : Nat} : Latched r (s.irqIf c x i e) := State.irqIf_keeps (keep (by decide)) h
theorem setBadger (h : Latched r s) {x : Badger} : Latched r (s.setBadger x) := h
theorem setOsd (h : Latched r s) {x : Osd} : Latched r (s.setOsd x) := h
theorem setKcp (h : Latched r s) {x : Kcp} : Latched r (s.setKcp x) := h
theorem setHk (h : Latched r s) {x : Hk} : Latched r (s.setHk x) := h
theorem setCe (h : Latched r s) {n : Nat} {x : CeCore} : Latched r (s.setCe n x) := h
theorem setFresh (h : Latched r s) {n : Nat} : Latched r (s.setFresh n) := h
theorem setEvl (h : Latched r s) {x : EvLog} : Latched r (s.setEvl x) := h
theorem setBusErr (h : Latched r s) {x : List (Initiator × Nat × Nat)} : Latched r (s.setBusErr x) := h
theorem setThr (h : Latched r s) {u : Nat} {x : ScThr} : Latched r (s.setThr u x) := h
theorem setWd (h : Latched r s) {n : Nat} {x : WdTask} : Latched r (s.setWd n x) := h
theorem finalReply (h : Latched r s) {tk : Tok} {st : Nat} {l : List Byte} : Latched r (s.finalReply tk st l) :=
  State.finalReply_keeps (keep (by decide)) h
theorem reply (h : Latched r s) {tk : Tok} {st : Nat} {l : List Byte} : Latched r (s.reply tk st l) :=
  State.reply_keeps (keep (by decide)) h
theorem bLog (h : Latched r s) {i x c a : Nat} : Latched r (s.bLog i x c a) := State.bLog_keeps (keep (by decide)) h
theorem bRefuse (h : Latched r s) : Latched r s.bRefuse := State.bRefuse_keeps (keep (by decide)) h
theorem domOn (h : Latched r s) (d : Nat) : Latched r (s.domOn d) := State.domOn_keeps (keep (by decide)) h
theorem supEvent (h : Latched r s) {i x p : Nat} : Latched r (s.supEvent i x p) := State.supEvent_keeps (keep (by decide)) h
theorem tripScan (h : Latched r s) : Latched r s.tripScan := State.tripScan_keeps (keep (by decide)) h
theorem plugShow (h : Latched r s) : Latched r s.plugShow := State.plugShow_keeps (keep (by decide)) h
theorem hldEnter (h : Latched r s) {c : Nat} : Latched r (s.hldEnter c) := State.hldEnter_keeps (keep (by decide)) h
theorem fabEnd (h : Latched r s) {a : Nat} {x : FabRes} : Latched r (s.fabEnd a x).2 := State.fabEnd_keeps (keep (by decide)) h

/-- A change that leaves the latch and the run of a start alone. -/
theorem of_eq (h : Latched r s) (hl : t.sup.latch = s.sup.latch) (hr : t.start.running = s.start.running) : Latched r t :=
  ⟨hl.trans h.1, fun ht => h.2 (hr.symm.trans ht)⟩

/-- A change of the supply manager that leaves the latch alone. -/
theorem setSup (h : Latched r s) {x : Supply} (hx : x.latch = s.sup.latch) : Latched r (s.setSup x) := ⟨hx.trans h.1, h.2⟩

/-- A change of the start that leaves it running or stopped. -/
theorem setStart (h : Latched r s) {x : Start} (hx : x.running = s.start.running) : Latched r (s.setStart x) :=
  ⟨h.1, fun hr => h.2 (hx.symm.trans hr)⟩

/-- A change of the start that stops it. -/
theorem setStart_stopped (h : Latched r s) {x : Start} (hx : x.running = false) : Latched r (s.setStart x) :=
  ⟨h.1, fun hr => absurd (hx.symm.trans hr) (by decide)⟩

theorem ite {c : Prop} [Decidable c] {a b : State} (ha : Latched r a) (hb : Latched r b) : Latched r (if c then a else b) :=
  keeps_ite ha hb

theorem foldl {α : Type} {f : State → α → State} {l : List α} (h : Latched r s) (hf : ∀ s a, Latched r s → Latched r (f s a)) :
    Latched r (l.foldl f s) :=
  keeps_foldl hf h

/-! ### Domains and the off-state diagnostics (R27, R149–R150, R448, R451) -/

theorem d4Off (h : Latched r s) : Latched r s.d4Off := h.of_eq rfl rfl

theorem domLose (h : Latched r s) (d : Nat) : Latched r (s.domLose d) := by
  unfold State.domLose
  refine ite ?_ h
  extract_lets s₁ s₂ g
  have h₂ : Latched r s₂ := h
  have hg : Latched r g := h₂.foldl (fun _ _ hs => State.gateDead_keeps (keep (by decide)) hs)
  split_ifs
  · exact hg
  · exact hg.put.put
  · exact State.d6Off_keeps (keep (by decide)) h₂
  · exact State.d7Off_keeps (keep (by decide)) h₂
  · exact State.foxOff_keeps (keep (by decide)) h₂
  · exact h₂.d4Off
  · exact State.mramDrain_keeps (keep (by decide)) h₂
  · exact h₂
  · exact h₂
  · exact h₂
  · exact h₂

theorem domOff (h : Latched r s) (d : Nat) : Latched r (s.domOff d) := h.foldl fun _ x hs => hs.domLose x

theorem standbyEnter (h : Latched r s) : Latched r s.standbyEnter := by
  unfold State.standbyEnter
  extract_lets s₁ _ s₂ _
  have h₁ : Latched r s₁ := (h.domOff 1).put
  have h₂ : Latched r s₂ := h₁.setSup (by rfl)
  exact h₂.setStart_stopped (by rfl)

theorem standbyRequest (h : Latched r s) : Latched r s.standbyRequest := ite h.put h.standbyEnter

theorem osdEnd (h : Latched r s) (cause : Nat) : Latched r (s.osdEnd cause) := by
  unfold State.osdEnd
  extract_lets o s₁ s₂ s₃ s₄
  have h₃ : Latched r s₃ := h.put.put.setOsd.foldl fun _ d hs => hs.domOff d
  split
  · exact h₃.irq.finalReply
  · exact h₃.irq

theorem osdAbort (h : Latched r s) (cause : Nat) : Latched r (s.osdAbort cause) := ite (h.osdEnd cause) h

theorem osdGuard (h : Latched r s) : Latched r s.osdGuard := ite (h.osdEnd 6) h

theorem osdCheck (h : Latched r s) : Latched r s.osdCheck := by
  unfold State.osdCheck
  extract_lets s₁
  split
  · exact h.setOsd.osdEnd _
  · exact ite (h.setOsd.put.put.osdEnd 0) h.setOsd.put.put.setOsd.osdGuard

theorem osdStart (h : Latched r s) (req : Option Tok) : Latched r (s.osdStart req) := by
  unfold State.osdStart
  extract_lets s₁ s₂ _ s₃ ds s₄
  have h₃ : Latched r s₃ := (h.wr.foldl fun _ _ hs => hs.wr).setOsd
  exact ite (ite h₃.osdCheck (h₃.put.setOsd.foldl fun _ d hs => hs.domOn d)) h₃.osdCheck

/-! ### Badger (R278–R306) -/

theorem bMirror (h : Latched r s) : Latched r s.bMirror :=
  osdGuard (State.gatesFollow_keeps (keep (by decide)) (State.bDerived_keeps (keep (by decide)) h))

theorem bRemove (h : Latched r s) (g : Nat) : Latched r (s.bRemove g) :=
  ite (domOff h.putFldBit.putFldBit.setBadger _) h.putFldBit.putFldBit

theorem bRemoveAll (h : Latched r s) (groups : List Nat) (code : Nat) : Latched r (s.bRemoveAll groups code) :=
  State.sstDcd_keeps (keep (by decide)) (h.bLog.foldl fun _ g hs => hs.bRemove g)

theorem enterStop (h : Latched r s) (st code : Nat) : Latched r (s.enterStop st code) := by
  unfold State.enterStop
  extract_lets s₁ s₂ s₃ s₄ s₅ s₆ groups
  have h₁ : Latched r s₁ := ite h.put h
  have h₆ : Latched r s₆ := State.ascDecide_keeps (keep (by decide)) (State.sstEnter_keeps (keep (by decide)) h₁.put.bLog.put.put)
  exact State.stopCheck_keeps (keep (by decide)) (h₆.bRemoveAll groups code)

theorem bSource (h : Latched r s) (code re : Nat) : Latched r (s.bSource code re) := by
  unfold State.bSource
  extract_lets s₁ re' st s₂ s₃
  have h₁ : Latched r s₁ := State.bCause_keeps (keep (by decide)) h
  have h₂ : Latched r s₂ := ite h₁.bLog h₁
  have h₃ : Latched r s₃ :=
    ite (ite h₂ (h₂.enterStop 6 code)) (ite (ite h₂ (h₂.enterStop 5 code)) (ite (State.enterSs1_keeps (keep (by decide)) h₂) h₂))
  exact h₃.bMirror

theorem sealRead (h : Latched r s) (d0 d1 d2 u0 u1 u2 : BitVec 24) : Latched r (s.sealRead d0 d1 d2 u0 u1 u2) := by
  unfold State.sealRead
  refine ite ?_ h
  extract_lets same cfg chk ok s₁ s₂
  exact ite h.put.put.putB.put.bMirror (ite h.put.put.putB.put.bLog.hldEnter h.put.put.putB.put.bLog)

theorem clockCheck (h : Latched r s) : Latched r s.clockCheck := ite (ite (h.setBadger.bSource _ _) h.setBadger) h

theorem latchCheck (h : Latched r s) : Latched r s.latchCheck := ite (ite h.setBadger (h.setBadger.bSource _ _)) h

theorem hsmAck (h : Latched r s) (v : Word) : Latched r (s.hsmAck v) := by
  unfold State.hsmAck
  refine ite ?_ h.inc
  extract_lets s₁ s₂ ins
  have h₂ : Latched r s₂ := h.put.put.foldl fun _ _ hs => ite hs.put.put.put.setBadger hs
  split
  · exact ((h₂.foldl fun _ _ hs => State.bCause_keeps (keep (by decide)) hs).bLog.enterStop _ _).bMirror
  · exact h₂.bMirror

theorem sinDiscrepancy (h : Latched r s) (i : Nat) : Latched r (s.sinDiscrepancy i) := by
  unfold State.sinDiscrepancy
  split
  · exact ite h.setBadger.putFldBit.bLog.bMirror h
  · exact h

theorem sinAccept (h : Latched r s) (ch : Nat) : Latched r (s.sinAccept ch) := by
  unfold State.sinAccept
  extract_lets dem i s₁ a b _ s₂ s₃
  have h₁ : Latched r s₁ := (h.sinDiscrepancy i).putFldBit
  have h₂ : Latched r s₂ := ite (ite (by split; exacts [h₁.setBadger, h₁]) h₁.setBadger) h₁
  have h₃ : Latched r s₃ := ite h₂.putFldBit h₂
  exact ite (ite (h₃.bSource _ _) h₃.bMirror) h

theorem bspdPlaus (h : Latched r s) (m : Nat) : Latched r (s.bspdPlaus m) := by
  unfold State.bspdPlaus
  split
  · exact ite (h.bSource _ _) h
  · exact h

theorem ascEval (h : Latched r s) (m : Nat) : Latched r (s.ascEval m) := by
  unfold State.ascEval
  extract_lets s₁ s₂ s₃
  have h₁ : Latched r s₁ := ite h h.put
  exact ite (ite (h₁.put.bLog.bLog.bRemove m) h) (ite (ite (State.ascBegin_keeps (keep (by decide)) h) h.put) h)

theorem bEvaluate (h : Latched r s) : Latched r s.bEvaluate := by
  unfold State.bEvaluate
  refine ite ?_ h
  extract_lets _ s₁
  have h₁ : Latched r s₁ := h.setBadger
  refine ite ?_ (ite (State.stopCheck_keeps (keep (by decide)) ((h₁.ascEval 0).ascEval 1)).bMirror h₁)
  split
  rename_i s₂ x hx
  have h₂ : Latched r s₂ := keeps_fst hx (State.envCheck_keeps (keep (by decide)) h₁)
  split
  rename_i s₃ y hy
  have h₃ : Latched r s₃ := keeps_fst hy (State.envCheck_keeps (keep (by decide)) h₂)
  exact ite (ite ((h₃.bSource _ _).bSource _ _) (h₃.bSource _ _)) (ite (h₃.bSource _ _) (ite (h₃.enterStop _ _).bMirror h₃))

theorem ss1Timeout (h : Latched r s) : Latched r s.ss1Timeout := ite (h.bSource _ _) h

theorem wdError (h : Latched r s) (n : Nat) : Latched r (s.wdError n) := ite (h.inc.bLog.bSource _ _) h.inc.bLog.bMirror

theorem wdQuestion (h : Latched r s) (n : Nat) : Latched r (s.wdQuestion n) := ite (ite h.put.setWd (h.put.setWd.wdError n)) h

theorem wdAnswer (h : Latched r s) (core n : Nat) (v : Word) : Latched r (s.wdAnswer core n v) := by
  unfold State.wdAnswer
  refine ite h (ite h (ite (h.wdError n) ?_))
  exact ite ((h.wdQuestion n).setWd.wdError n) (h.wdQuestion n).setWd.setWd.put.bMirror

theorem badgerDue (h : Latched r s) : Latched r s.badgerDue := by
  unfold State.badgerDue
  refine ite ?_ h
  extract_lets s₁ s₂ s₃ s₄
  have h₁ : Latched r s₁ := ((h.bEvaluate.ss1Timeout.bspdPlaus 0).bspdPlaus 1).clockCheck.latchCheck
  have h₂ : Latched r s₂ := h₁.foldl fun _ ch hs => hs.sinAccept ch
  have h₃ : Latched r s₃ := h₂.foldl fun _ i hs => hs.sinDiscrepancy i
  have h₄ : Latched r s₄ := h₃.foldl fun _ _ hs => State.spdMirror_keeps (keep (by decide)) (State.bspdEdge_keeps (keep (by decide)) hs)
  exact State.bDerived_keeps (keep (by decide)) (h₄.foldl fun _ n hs => hs.wdQuestion n)

theorem hsmEnable (h : Latched r s) (mask : Nat) : Latched r (s.hsmEnable mask) := by
  unfold State.hsmEnable
  extract_lets s₁ gs s₂
  have h₁ : Latched r s₁ := h.badgerDue
  have h₂ : Latched r s₂ := ite h₁ h₁.bLog
  exact ite (h₂.foldl fun _ _ hs => hs.putFldBit.putFldBit.domOn _).bMirror h₁.bRefuse

theorem hsmRelease (h : Latched r s) (mask : Nat) : Latched r (s.hsmRelease mask) := by
  unfold State.hsmRelease
  extract_lets gs s₁
  have h₁ : Latched r s₁ := ite h h.bLog
  exact (h₁.foldl fun _ g hs => hs.bRemove g).bMirror

theorem hsmRestart (h : Latched r s) : Latched r s.hsmRestart :=
  ite (State.restartPermitted_keeps (keep (by decide)) h.badgerDue.put.wr.put.put.bLog).bMirror h.badgerDue.bRefuse

theorem hsmReq (h : Latched r s) (v : Word) : Latched r (s.hsmReq v) :=
  ite (h.hsmEnable _) (ite (h.hsmRelease _) (ite (h.bSource _ _) (ite (h.bSource _ _) (ite h.hsmRestart h.bRefuse))))

theorem hsmFrom (h : Latched r s) {ini : Initiator} {f : State → State} (hf : ∀ s, Latched r s → Latched r (f s)) :
    Latched r (s.hsmFrom ini f) :=
  State.hsmFrom_keeps (keep (by decide)) h hf

theorem badgerWarm (h : Latched r s) : Latched r s.badgerWarm :=
  ite (h.put.foldl fun _ g hs => hs.bRemove g).put.bMirror h.put.bMirror

/-! ### Gate drivers and reaction groups (R131–R147) -/

theorem scgWatch (h : Latched r s) {f : State → State} (hf : ∀ s, Latched r s → Latched r (f s)) : Latched r (s.scgWatch f) :=
  ite (hf s h) ((hf s h).osdAbort 6)

theorem gateFault (h : Latched r s) (g level typ : Nat) (act : Bool) : Latched r (s.gateFault g level typ act) := by
  unfold State.gateFault
  extract_lets s₁ s₂ o s₃ s₄ s₅
  have h₃ : Latched r s₃ := h.log.irq.irqIf
  have h₄ : Latched r s₄ := (h₃.scgWatch fun _ hs => State.scgReact_keeps (keep (by decide)) hs).tripScan
  have h₅ : Latched r s₅ := State.stageFault_keeps (keep (by decide)) h₄
  exact ite (ite (h₅.bSource _ _) h₅.bMirror) h₃

theorem shortDetect (h : Latched r s) (g : Nat) (di : Bool) (v : Int) : Latched r (s.shortDetect g di v) := by
  unfold State.shortDetect
  extract_lets c fld armed live soft s₁
  have h₁ : Latched r s₁ := ite h (State.softOff_keeps (keep (by decide)) h)
  exact ite (h₁.put.gateFault _ _ _ _) h

theorem railUnder (h : Latched r s) (g : Nat) (neg : Bool) (v : Int) : Latched r (s.railUnder g neg v) := by
  unfold State.railUnder
  extract_lets fld act s₁ s₂
  have h₂ : Latched r s₂ := ite (State.railAct_keeps (keep (by decide)) h.put) h.put
  exact ite (h₂.gateFault _ _ _ _) h

theorem nuvAct (h : Latched r s) (g : Nat) : Latched r (s.nuvAct g) := by
  unfold State.nuvAct
  extract_lets s₁
  have h₁ : Latched r s₁ := State.stageFault_keeps (keep (by decide)) (State.railAct_keeps (keep (by decide)) h)
  exact ite (h₁.bSource _ _) h₁

theorem protWrite (h : Latched r s) (g : Nat) (v : Word) : Latched r (s.protWrite g v) := by
  unfold State.protWrite
  extract_lets was s₁ s₂ now s₃
  have h₂ : Latched r s₂ := ite h.fieldWrite.put h.fieldWrite
  have h₃ : Latched r s₃ := ite (h₂.nuvAct g) h₂
  exact ite (ite h₃ (h₃.scgWatch fun _ hs => State.scgAll_keeps (keep (by decide)) hs).tripScan.bMirror) h

theorem scgWrite (h : Latched r s) (a : Nat) (v : Word) : Latched r (s.scgWrite a v) :=
  (h.fieldWrite.scgWatch fun _ hs => State.scgAll_keeps (keep (by decide)) hs).bMirror

theorem pfltBit (h : Latched r s) {g : Nat} {f : Fld} {v : Word} {ok : Bool} : Latched r (s.pfltBit g f v ok) :=
  State.pfltBit_keeps (keep (by decide)) h

theorem pfltWrite (h : Latched r s) (g : Nat) (v : Word) (posOk negOk : Bool) : Latched r (s.pfltWrite g v posOk negOk) := by
  unfold State.pfltWrite
  extract_lets s₁ s₂ s₃ s₄ s₅ s₆
  have h₁ : Latched r s₁ := ite h.put h
  have h₅ : Latched r s₅ := h₁.pfltBit.pfltBit.pfltBit.pfltBit
  have h₆ : Latched r s₆ := by
    dsimp only [s₆]
    split
    · exact h₅.scgWatch fun _ hs => State.scgEval_keeps (keep (by decide)) hs
    · exact h₅
  exact ite h₆.tripScan.bMirror h

theorem scgDelayEnd (h : Latched r s) (n : Nat) : Latched r (s.scgDelayEnd n) :=
  ite (osdAbort (State.scgLines_keeps (keep (by decide)) (State.scgLog_keeps (keep (by decide)) h.put.put)) 6).bMirror h

theorem scgClear (h : Latched r s) (n : Nat) (v : Word) : Latched r (s.scgClear n v) := by
  unfold State.scgClear
  extract_lets s₁ f s₂
  have h₁ : Latched r s₁ := State.scgSides_keeps (keep (by decide)) h
  have h₂ : Latched r s₂ := State.scgLog_keeps (keep (by decide)) h₁
  exact ite (bMirror (State.scgLines_keeps (keep (by decide)) (State.setScg_keeps (keep (by decide)) h₂.wr))) h₁

theorem osdCtrlWrite (h : Latched r s) (v : Word) : Latched r (s.osdCtrlWrite v) := by
  unfold State.osdCtrlWrite
  extract_lets s₁ s₂
  have h₂ : Latched r s₂ := ite (h.fieldWrite.osdAbort 5) h.fieldWrite
  exact ite (h₂.osdStart none) h₂

theorem osdBiasReady (h : Latched r s) : Latched r s.osdBiasReady := ite h.osdCheck h

theorem osdStepEnd (h : Latched r s) (a b : Nat) : Latched r (s.osdStepEnd a b) := by
  unfold State.osdStepEnd
  refine ite ?_ h
  split
  · exact h
  · exact ite h.setOsd (ite (setOsd (State.osdStep_keeps (keep (by decide)) h)) (ite (osdEnd (State.wrapInc_keeps (keep (by decide)) h) 0)
      (setOsd (State.wrapInc_keeps (keep (by decide)) h))))

/-- One gate channel in an instant. -/
theorem gateInstant (h : Latched r s) (g : Nat) :
    Latched r (
      let s := if (s.gate g).pad != (s.gate g).gin then (s.ginPass g false (s.freeNat % 1024)).useFree else s
      let s := s.gateDue g
      if isolated g then (if s.is (GD_STATUS_BIASOK g) then s.isoDue g else s)
      else if g % 2 == 0 && s.gatePowered g then s.bootDue g
      else s) := by
  extract_lets s₁ s₂
  have h₁ : Latched r s₁ := ite (useFree (State.ginPass_keeps (keep (by decide)) h)) h
  have h₂ : Latched r s₂ := State.gateDue_keeps (keep (by decide)) h₁
  exact ite (ite (State.isoDue_keeps (keep (by decide)) h₂) h₂) (ite (State.bootDue_keeps (keep (by decide)) h₂) h₂)

theorem gatesDue (h : Latched r s) : Latched r s.gatesDue := by
  unfold State.gatesDue
  extract_lets s₁ s₂
  have h₁ : Latched r s₁ := h.foldl fun _ g hs => hs.gateInstant g
  have h₂ : Latched r s₂ := h₁.foldl fun _ n hs => ite (hs.scgDelayEnd n) hs
  exact ite (ite h₂.osdBiasReady h₂) h

/-! ### The mode manager (R46, R48, R66) -/

theorem prkDwell (h : Latched r s) : Latched r s.prkDwell := ite h.standbyRequest h

theorem plugDebounced (h : Latched r s) : Latched r s.plugDebounced := by
  unfold State.plugDebounced
  extract_lets _ s₁
  have h₁ : Latched r s₁ := h.setSup (by rfl)
  exact ite (ite (State.plugApply_keeps (keep (by decide)) (State.changed_keeps (keep (by decide)) h₁.plugShow)) h₁) h

theorem policyWrite (h : Latched r s) (sel : Nat) (v : Word) : Latched r (s.policyWrite sel v) := by
  unfold State.policyWrite
  extract_lets old s₁
  have h₁ : Latched r s₁ := h.fieldWrite
  exact ite h.put (ite (ite h₁ (h₁.setSup (by rfl))).plugShow h₁)

theorem endInst (h : Latched r s) {i x : Nat} : Latched r (s.endInst i x) := State.endInst_keeps (keep (by decide)) h

theorem modesScan (h : Latched r s) : Latched r s.modesScan := by
  unfold State.modesScan
  extract_lets s₁ s₂ s₃ s₄ low s₅
  have h₁ : Latched r s₁ := State.gridScan_keeps (keep (by decide)) (State.pendingScan_keeps (keep (by decide)) h)
  have h₂ : Latched r s₂ := h₁.foldl fun _ _ hs => ite hs.endInst hs
  have h₃ : Latched r s₃ := ite h₂.endInst h₂
  have h₄ : Latched r s₄ := h₃.foldl fun _ _ hs => ite hs.endInst hs
  have h₅ : Latched r s₅ := h₄.putB
  exact ite (prkDwell h₅) h

/-! ### Deadlines of the control engines (R203) -/

theorem ceEscalate (h : Latched r s) (n : Nat) : Latched r (s.ceEscalate n) := by
  unfold State.ceEscalate
  extract_lets low s₁ s₂
  have h₁ : Latched r s₁ :=
    h.foldl fun _ _ hs => ite (State.pwmForceWrite_keeps (keep (by decide)) hs) (ite (State.pwmStop_keeps (keep (by decide)) hs) hs)
  have h₂ : Latched r s₂ := h₁.put.log
  split
  · rename_i e _
    have h₃ : Latched r (if s₂.start.kp then s₂.entryFault e else s₂) := ite (State.entryFault_keeps (keep (by decide)) h₂) h₂
    exact ite (h₃.bSource _ _) h₃
  · exact h₂

theorem ceMiss (h : Latched r s) (n : Nat) : Latched r (s.ceMiss n) := by
  unfold State.ceMiss
  extract_lets c s₁ s₂ before s₃ esc s₄
  have h₃ : Latched r s₃ := h.setCe.put.inc.log.inc
  have h₄ : Latched r s₄ := ite (h₃.ceEscalate n) h₃
  exact ite h₄.irqIf h

theorem ceDeadline (h : Latched r s) (n : Nat) : Latched r (s.ceDeadline n) := ite (ceMiss (State.pwmSync_keeps (keep (by decide)) h) n) h

/-! ### Housekeeping and the thermal shutdown (R477–R485) -/

theorem thermalDeclare (h : Latched r s) (j : Nat) : Latched r (s.thermalDeclare j) := by
  unfold State.thermalDeclare
  extract_lets round _ s₁ _ s₂ s₃
  have h₁ : Latched r s₁ := ite h h.log.setHk
  have h₂ : Latched r s₂ := ⟨rfl, h₁.2⟩
  have h₃ : Latched r s₃ := h₂.put
  exact ite h₁ (ite (h₃.bSource _ _) h₃)

theorem sensorEnd (h : Latched r s) (j a b : Nat) : Latched r (s.sensorEnd j a b) := by
  unfold State.sensorEnd
  extract_lets x fits w s₁ s₂
  have h₂ : Latched r s₂ := put (ite h h.useFree)
  exact ite (ite (h₂.thermalDeclare j) h₂) h.put

theorem hkChannelEnd (h : Latched r s) : Latched r s.hkChannelEnd := by
  unfold State.hkChannelEnd
  extract_lets c j own a b ovr bad s₁ s₂ s₃ _ s₄ s₅ s₆ _ s₇
  have h₂ : Latched r s₂ := ite h.put.put.putFldBit h.put.put
  have h₃ : Latched r s₃ := ite h₂.putFldBit.log h₂
  have h₅ : Latched r s₅ := ite (State.dacReadback_keeps (keep (by decide)) h₃.setHk) h₃.setHk
  have h₆ : Latched r s₆ := ite (h₅.sensorEnd _ _ _) h₅
  exact ite h₆.setHk.put.put h

theorem hkRoundEnd (h : Latched r s) : Latched r s.hkRoundEnd := by
  unfold State.hkRoundEnd
  extract_lets s₁ s₂ s₃
  have h₂ : Latched r s₂ :=
    State.biasPowers_keeps (keep (by decide)) (State.biasLimits_keeps (keep (by decide)) (State.throttle_keeps (keep (by decide)) h))
  have h₃ : Latched r s₃ := ite (h₂.osdAbort 2) h₂
  exact ite h₃.setHk h

theorem shutOff (h : Latched r s) : Latched r s.shutOff := by
  unfold State.shutOff
  extract_lets s₁
  have h₁ : Latched r s₁ := h.domOff 2
  exact h₁.setSup (by rfl)

theorem thermalOff (h : Latched r s) (us : Nat) : Latched r (s.thermalOff us) := by
  unfold State.thermalOff
  split
  · exact ite h.shutOff h
  · exact h

/-! ### The supply manager (R439–R452) -/

theorem collapseDeclare (h : Latched r s) : Latched r s.collapseDeclare := by
  unfold State.collapseDeclare
  extract_lets s₁ _ s₂ s₃
  have h₁ : Latched r s₁ := h.supEvent
  have h₃ : Latched r s₃ := put (put (h₁.setSup (by rfl)))
  exact ite h (ite (h₃.bSource _ _) h₃)

theorem vmainLoss (h : Latched r s) (ovlo : Bool) : Latched r (s.vmainLoss ovlo) := by
  unfold State.vmainLoss
  extract_lets s₁ s₂ st
  have h₂ : Latched r s₂ := ite h.put.supEvent.put h.put.supEvent
  exact ite h (ite (h₂.put.setSup (by rfl)) (ite h₂ h₂.collapseDeclare))

theorem switchOver (h : Latched r s) : Latched r s.switchOver := by
  unfold State.switchOver
  extract_lets _ s₁ s₂
  have h₁ : Latched r s₁ := h.put.inc.setSup (h.1.trans h.put.inc.1.symm)
  have h₂ : Latched r s₂ := ite (State.biasLimits_keeps (keep (by decide)) h₁.put) h₁
  exact ite h₂.supEvent h

theorem toVmain (h : Latched r s) (bkst : Nat) : Latched r (s.toVmain bkst) := by
  unfold State.toVmain
  extract_lets s₁ _ s₂ s₃
  have h₁ : Latched r s₁ := h.put.put.inc
  have h₂ : Latched r s₂ := h₁.setSup (by rfl)
  have h₃ : Latched r s₃ := ite h₂.put h₂
  exact h₃.supEvent

theorem flybackOff (h : Latched r s) : Latched r s.flybackOff := by
  unfold State.flybackOff
  extract_lets st s₁ s₂
  have h₂ : Latched r s₂ := ite h.put.supEvent h.put
  exact ite (ite (h₂.toVmain 0) h₂.collapseDeclare) h₂

theorem flybackDrop (h : Latched r s) (cause : Nat) : Latched r (s.flybackDrop cause) :=
  ite h (flybackOff (ite h.put (ite h.put h)))

theorem collapseOff (h : Latched r s) : Latched r s.collapseOff := ite (h.domOff 1) h

theorem supCfgWrite (h : Latched r s) (v : Word) : Latched r (s.supCfgWrite v) := ite h.fieldWrite (h.fieldWrite.flybackDrop 1)

theorem pdcWrite (h : Latched r s) (ini : Initiator) (v : Word) : Latched r (s.pdcWrite ini v) :=
  foldl (h.foldl fun _ d hs => ite (hs.domOff d) hs) fun _ _ hs => ite (State.pdcSet_keeps (keep (by decide)) hs) hs

theorem stbyWrite (h : Latched r s) (ini : Initiator) (v : Word) : Latched r (s.stbyWrite ini v) := ite h.standbyRequest h

theorem wake (h : Latched r s) (k : Nat) : Latched r (s.wake k) := by
  unfold State.wake
  extract_lets s₁ supply _
  have h₁ : Latched r s₁ := h.put
  have h₂ : Latched r (s₁.setSup { supply with standby := false }) := h₁.setSup (by rfl)
  exact ite (h₂.setStart (by rfl)) h

theorem wakeTimer (h : Latched r s) : Latched r s.wakeTimer := ite (h.wake 1) h
theorem wakePlug (h : Latched r s) : Latched r s.wakePlug := ite (h.wake 2) h

theorem supplyDue (h : Latched r s) : Latched r s.supplyDue := by
  unfold State.supplyDue
  extract_lets s₁ s₂
  have h₁ : Latched r s₁ := ite h.switchOver h
  have h₂ : Latched r s₂ := ite (State.flybackReady_keeps (keep (by decide)) h₁) h₁
  exact ite (thermalOff (ite h₂.collapseOff h₂) 2100) h

/-! ### The start (R457–R472) -/

/-- With the latch set no start begins (R460). -/
theorem startBegin (h : Latched r s) (k : Nat) : Latched r (s.startBegin k) := by
  unfold State.startBegin
  rw [if_pos h.1]
  exact h

theorem startFail (h : Latched r s) (code : Nat) : Latched r (s.startFail code) := by
  unfold State.startFail
  extract_lets warm w s₁ _ s₂ _ s₃
  have h₁ : Latched r s₁ := (h.domOff 1).put
  have h₂ : Latched r s₂ := h₁.setStart_stopped (by rfl)
  exact ite h₂.put (ite (h₂.put.setStart (by rfl)) (ite h₂.inc.put h₂.inc))

theorem startTimeout (h : Latched r s) : Latched r s.startTimeout := ite (h.startFail 15) h

theorem startRetry (h : Latched r s) (us : Nat) : Latched r (s.startRetry us) := by
  unfold State.startRetry
  split
  · exact ite (h.startBegin 0) h
  · exact h

/-- With the latch set no step of a start completes. -/
theorem startStep (h : Latched r s) (ok alt : Bool) : Latched r (s.startStep ok alt) := by
  unfold State.startStep
  simp only [h.1, Bool.or_true, Bool.true_or, if_true]
  exact h

theorem rstWrite (h : Latched r s) (ini : Initiator) (v : Word) : Latched r (s.rstWrite ini v) := by
  unfold State.rstWrite
  extract_lets s₁ key
  have h₁ : Latched r s₁ := h.fieldWrite
  exact ite (ite h₁.put (ite h₁ (h₁.setStart (by rfl)))) h₁

theorem heartbeatLoss (h : Latched r s) : Latched r s.heartbeatLoss := ite (h.setStart (by rfl)) h
theorem heartbeatDue (h : Latched r s) : Latched r s.heartbeatDue := ite h.heartbeatLoss h

theorem martenDue (h : Latched r s) : Latched r s.martenDue := by
  unfold State.martenDue
  extract_lets s₁
  have h₁ : Latched r s₁ := h.startTimeout.startRetry 1200
  exact ite h₁.wakeTimer.wakePlug h₁

end Latched

end Sys2Proof.Machine
end

section
/-! SUPPORT. Requests, bus accesses, the cores and time keep the thermal shutdown latch set and begin no start (R460). -/

namespace Sys2Proof.Machine

namespace Latched

variable {r : Prop} {s : State}

/-! ### Requests (R361–R400) -/

theorem dueFirst (h : Latched r s) : Latched r s.dueFirst := h.badgerDue.plugDebounced

theorem runPolicyWrite (h : Latched r s) (tk : Tok) (pay : List Byte) : Latched r (s.runPolicyWrite tk pay) :=
  ite h.reply (h.policyWrite _ _).setKcp.reply

theorem runOsdStart (h : Latched r s) (tk : Tok) (pay : List Byte) : Latched r (s.runOsdStart tk pay) := by
  unfold State.runOsdStart
  extract_lets s₁ s₂ s₃ s₄ s₅
  have h₄ : Latched r s₄ := h.wr.put.put.put.foldl fun _ _ hs => hs.wr
  have h₅ : Latched r s₅ := osdStart (State.served_keeps (keep (by decide)) h₄) (some tk)
  exact ite h.reply (ite (State.kpSend_keeps (keep (by decide)) (State.record_keeps (keep (by decide)) h₅)) h₅)

theorem runForceCold (h : Latched r s) (tk : Tok) : Latched r (s.runForceCold tk) := by
  unfold State.runForceCold
  extract_lets s₁ s₂
  have h₂ : Latched r s₂ := h.reply.put.put
  exact ite (h₂.setStart (by rfl)) h.reply

theorem setBank (h : Latched r s) {b : Nat} {x : Bank} : Latched r (s.setBank b x) := h

theorem runFwBegin (h : Latched r s) (tk : Tok) (pay : List Byte) : Latched r (s.runFwBegin tk pay) := by
  unfold State.runFwBegin
  split
  · exact State.fwRefused_keeps (keep (by decide)) h ‹_›
  · exact ite h.reply h.setBank.setKcp.reply

theorem fwVerified (h : Latched r s) (ok prod : Bool) (version epoch : Nat) : Latched r (s.fwVerified ok prod version epoch) := by
  unfold State.fwVerified
  split
  · split
    · exact ite h.setKcp.setBank.finalReply h.setKcp.finalReply
    · exact h
  · exact h

theorem runFwSelect (h : Latched r s) (tk : Tok) (pay : List Byte) : Latched r (s.runFwSelect tk pay) := by
  unfold State.runFwSelect
  extract_lets b
  exact ite (reply (h.setStart (by rfl))) h.reply

theorem runOp (h : Latched r s) (tk : Tok) (pay : List Byte) : Latched r (s.runOp tk pay) := by
  unfold State.runOp
  extract_lets op
  refine ite (State.modeEnter_keeps (keep (by decide)) h.dueFirst) ?_
  refine ite (State.modeExit_keeps (keep (by decide)) h.dueFirst) ?_
  refine ite (State.runStatus_keeps (keep (by decide)) h) ?_
  refine ite (State.runCfgWrite_keeps (keep (by decide)) h) ?_
  refine ite (State.runCfgRead_keeps (keep (by decide)) h) ?_
  refine ite (h.runPolicyWrite tk pay) ?_
  refine ite (State.runPolicyRead_keeps (keep (by decide)) h) ?_
  refine ite (h.runOsdStart tk pay) ?_
  refine ite (State.runOsdResult_keeps (keep (by decide)) h) ?_
  refine ite (State.runStatus_keeps (keep (by decide)) h) ?_
  refine ite (State.runRegRead_keeps (keep (by decide)) h) ?_
  refine ite (State.runThermal_keeps (keep (by decide)) h) ?_
  refine ite (State.runSafety_keeps (keep (by decide)) h) ?_
  refine ite (State.runCaptureStart_keeps (keep (by decide)) h) ?_
  refine ite (State.runCaptureRead_keeps (keep (by decide)) h) ?_
  refine ite (h.runForceCold tk) ?_
  refine ite (State.runActSeq_keeps (keep (by decide)) h.dueFirst) ?_
  refine ite (State.runActAbort_keeps (keep (by decide)) h) ?_
  refine ite (State.runBattLimits_keeps (keep (by decide)) h) ?_
  refine ite (State.runChgStatus_keeps (keep (by decide)) h) ?_
  refine ite (State.runLogRead_keeps (keep (by decide)) h) ?_
  refine ite (h.runFwBegin tk pay) ?_
  refine ite (State.runFwData_keeps (keep (by decide)) h) ?_
  refine ite (State.runFwEnd_keeps (keep (by decide)) h) ?_
  refine ite (h.runFwSelect tk pay) ?_
  refine ite (State.runFwInfo_keeps (keep (by decide)) h) ?_
  refine ite (State.runTimeGet_keeps (keep (by decide)) h) ?_
  refine ite (State.runTimeDisc_keeps (keep (by decide)) h) ?_
  exact ite (State.runTimeMaster_keeps (keep (by decide)) h) h

theorem depart (h : Latched r s) (cls : Nat) : Latched r (s.depart cls) := by
  unfold State.depart
  split
  · exact h
  · have hq : ∀ q, Latched r (s.setQueue cls q) := fun _ => State.setQueue_keeps (keep (by decide)) h
    exact ite (hq _).finalReply (ite (State.custPlace_keeps (keep (by decide)) (hq _)) ((hq _).runOp _ _))

theorem departUpTo (h : Latched r s) (cls handle seq : Nat) : ∀ n, Latched r (s.departUpTo cls handle seq n) := by
  intro n
  induction n generalizing s with
  | zero => exact h
  | succ n ih =>
    unfold State.departUpTo
    split
    · exact h
    · exact ite (h.depart cls) (ite (ih (h.depart cls)) h)

theorem request (h : Latched r s) (op cls : Nat) (q : Req) : Latched r (s.request op cls q) := by
  unfold State.request
  refine ite h (ite (State.leaseExpire_keeps (keep (by decide)) h) ?_)
  split
  case h_2 => exact h
  case h_1 x _ =>
    refine ite h ?_
    extract_lets tk
    split
    · exact State.classRefusal_keeps (keep (by decide)) h ‹_›
    · split
      rename_i u ok hu
      have hw : Latched r u := keeps_fst hu (State.window_keeps (keep (by decide)) h)
      refine ite hw ?_
      split
      · exact hw.finalReply
      · have hd : Latched r (u.dispatch tk q.pay 0) := State.dispatch_keeps (keep (by decide)) hw
        exact ite (departUpTo hd _ _ _ _) hd

/-! ### Register writes and bus accesses (R16–R26) -/

theorem gdWindow (h : Latched r s) (a : Nat) (v : Word) : Latched r (s.gdWindow a v) := by
  unfold State.gdWindow
  refine ite ?_ (ite (h.osdCtrlWrite v) (ite (h.scgWrite a v) (ite (h.scgClear _ v) h.fieldWrite)))
  extract_lets g o
  refine ite h (ite (State.gdCfgWrite_keeps (keep (by decide)) h) (ite (State.profileWrite_keeps (keep (by decide)) h)
    (ite (State.loopWrite_keeps (keep (by decide)) h) ?_)))
  exact ite (State.gdStatusWrite_keeps (keep (by decide)) h.useFree) (ite (State.bootWrite_keeps (keep (by decide)) h)
    (ite (h.protWrite g v) (ite (h.useFree.useFree.pfltWrite g v _ _) h.fieldWrite)))

theorem hsmWindow (h : Latched r s) (ini : Initiator) (a : Nat) (v : Word) : Latched r (s.hsmWindow ini a v) := by
  unfold State.hsmWindow
  refine ite (h.hsmFrom fun _ hs => hs.hsmAck v) (ite (h.hsmFrom fun _ hs => hs.hsmReq v) (ite ?_ ?_))
  · split
    · exact h.hsmFrom fun _ hs => hs.wdAnswer _ _ v
    · exact h.hsmFrom fun _ hs => hs
  · exact ite (h.hsmFrom fun _ hs => State.wdCfgWrite_keeps (keep (by decide)) hs) (ite (h.hsmFrom fun _ hs => hs) h.fieldWrite)

theorem sysWindow (h : Latched r s) (ini : Initiator) (a : Nat) (v : Word) : Latched r (s.sysWindow ini a v) :=
  ite (h.supCfgWrite v) (ite (h.pdcWrite ini v) (ite (h.stbyWrite ini v) (ite (h.rstWrite ini v) (ite (h.policyWrite 0 v)
    (ite (h.policyWrite 1 v) (ite (h.policyWrite 2 v) (ite (State.mbxDoneWrite_keeps (keep (by decide)) h) h.fieldWrite)))))))

theorem regWrite (h : Latched r s) (ini : Initiator) (a : Nat) (v : Word) : Latched r (s.regWrite ini a v) := by
  unfold State.regWrite
  refine ite (State.pwmWindow_keeps (keep (by decide)) h) (ite (h.gdWindow a v) (ite (State.convWindow_keeps (keep (by decide)) h) ?_))
  refine ite (State.wmWindow_keeps (keep (by decide)) h) (ite (State.posWindow_keeps (keep (by decide)) h)
    (ite (State.ceWindow_keeps (keep (by decide)) h) ?_))
  refine ite (State.dmaWrite_keeps (keep (by decide)) h) (ite (State.puWrite_keeps (keep (by decide)) h) (ite (h.hsmWindow ini a v) ?_))
  exact ite (State.canWrite_keeps (keep (by decide)) h) (ite (h.sysWindow ini a v) h.fieldWrite)

theorem blockStore (h : Latched r s) (ini : Initiator) (a : Nat) (v : List Byte) : Latched r (s.blockStore ini a v) :=
  ite h (ite (State.tcmStore_keeps (keep (by decide)) h) (ite (State.canRamWrite_keeps (keep (by decide)) h)
    (ite (State.memStore_keeps (keep (by decide)) h) (ite h (h.regWrite ini a _)))))

theorem busWrite (h : Latched r s) {ini : Initiator} {a n : Nat} {f : State → State} (hf : ∀ s, Latched r s → Latched r (f s)) :
    Latched r (s.busWrite ini a f n) :=
  State.busWrite_keeps (keep (by decide)) h hf

theorem busStore (h : Latched r s) (ini : Initiator) (a : Nat) (v : List Byte) : Latched r (s.busStore ini a v) :=
  h.busWrite fun _ hs => hs.blockStore ini a v

theorem tcmAccess (h : Latched r s) (ini : Initiator) (a : Nat) (data : Option Word) : Latched r (s.tcmAccess ini a data) := by
  unfold State.tcmAccess
  split
  · exact State.busRead_keeps (keep (by decide)) h fun _ hs => State.scLoaded_keeps (keep (by decide)) hs
  · exact h.busStore ini a _

/-! ### The event log's writer (R74–R76) -/

theorem faultCopy (h : Latched r s) (x : List Byte) : Latched r (s.faultCopy x) := by
  unfold State.faultCopy
  extract_lets _ a at' s₁ _
  have h₁ : Latched r s₁ := State.memStore_keeps (keep (by decide)) h
  exact ite (h.setStart (by rfl)) (h₁.setStart (by rfl))

theorem evWrite (h : Latched r s) : Latched r s.evWrite := by
  unfold State.evWrite
  split
  case h_2 => exact h
  case h_1 e _ =>
    refine ite ?_ h
    extract_lets rest again order x w s₁ s₂ _ s₃ _ s₄
    have h₁ : Latched r s₁ := State.wrapInc_keeps (keep (by decide)) (State.wrBytes_keeps (keep (by decide)) h)
    have h₃ : Latched r s₃ := h₁.setFresh.setEvl
    have h₄ : Latched r s₄ := h₃.setStart (by rfl)
    exact ite (h₄.faultCopy x) h₄

/-! ### DMA (R342–R346) -/

theorem wordWrites (h : Latched r s) (ini : Initiator) (a : Nat) (inc : Bool) (l : List Byte) (k : Nat) :
    Latched r (s.wordWrites ini a inc l k) := by
  induction k generalizing s a l with
  | zero => exact h
  | succ k ih => exact ih (h.blockStore ini a (l.take 4)) _ _

theorem dmaPut (h : Latched r s) (c p : Nat) (l : List Byte) : Latched r (s.dmaPut c p l) := by
  unfold State.dmaPut
  refine ite (h.foldl fun _ _ hs => State.ethTxWrite_keeps (keep (by decide)) hs) ?_
  split
  · exact h.wordWrites _ _ _ _ _
  · exact h

theorem dmaSteps (h : Latched r s) (c n : Nat) (rd wr : FabRes) : Latched r (s.dmaSteps c n rd wr).2 := by
  unfold State.dmaSteps
  extract_lets src dst sid
  split
  · exact h
  split
  · exact h
  rename_i ps _ _ pd _
  refine keeps_iteSnd h ?_
  extract_lets data
  have hdata : Latched r data.2 := State.dmaRead_keeps (keep (by decide)) h
  split
  rename_i re u hre
  have hu : Latched r u := keeps_snd hre hdata.fabEnd
  clear hre
  split
  · exact hu
  refine keeps_iteSnd hu ?_
  extract_lets bad
  split
  rename_i we v hwe
  have hv : Latched r v := keeps_snd hwe (keeps_iteSnd hu.fabEnd (keeps_iteSnd hu hu.fabEnd))
  clear hwe
  split
  · exact hv
  · exact hv.dmaPut c pd _

theorem dmaBlock (h : Latched r s) (rd wr : FabRes) : Latched r (s.dmaBlock rd wr) := by
  unfold State.dmaBlock
  split
  case h_2 => exact h
  case h_1 c _ =>
    refine ite ?_ h
    extract_lets n
    split
    all_goals have hn := h.dmaSteps c n rd wr
    · rename_i e u hu
      have hu : Latched r u := keeps_snd hu hn
      exact State.dmaArbitrate_keeps (keep (by decide)) (State.dmaRelease_keeps (keep (by decide))
        (State.dmaFault_keeps (keep (by decide)) (ite hu.put hu)))
    · rename_i u hu
      exact State.dmaBoundary_keeps (keep (by decide)) (keeps_snd hu hn)

/-! ### The control engines (R194–R213) -/

theorem ceTrap (h : Latched r s) {n c v : Nat} : Latched r (s.ceTrap n c v) := State.ceTrap_keeps (keep (by decide)) h

theorem cePost (h : Latched r s) (n : Fin 8) (a : Nat) (v : List Byte) (fab : FabRes) : Latched r (s.cePost n a v fab) := by
  unfold State.cePost
  refine ite (h.blockStore _ _ _) (ite (h.busStore _ _ _) (ite (ite (State.countDiscard_keeps (keep (by decide)) h) h.setCe) ?_))
  extract_lets bad
  split
  all_goals
    rename_i u hu
    have hu : Latched r u := keeps_snd hu (keeps_iteSnd h h.fabEnd)
  · exact hu.setBusErr
  · exact hu.blockStore _ _ _

theorem ceLandOne (h : Latched r s) (n : Fin 8) (a : Nat) (v : List Byte) : Latched r (s.ceLandOne n a v) :=
  setCe (h.setCe.busStore _ _ _)

theorem ceLand (h : Latched r s) (n : Fin 8) : Latched r (s.ceLand n) := ite h (h.setCe.foldl fun _ _ hs => hs.ceLandOne _ _ _)

theorem ceStore (h : Latched r s) (n : Fin 8) (a : Nat) (v : List Byte) (fab : FabRes) : Latched r (s.ceStore n a v fab) :=
  ite h.ceTrap (h.setCe.cePost n a v fab)

theorem ceBaseStep (h : Latched r s) (n : Fin 8) (w : Nat) (fab : FabRes) : Latched r (s.ceBaseStep n w fab) := by
  have hjump : ∀ c t, Latched r (s.ceJump n.val c t) := fun _ _ => State.ceJump_keeps (keep (by decide)) h
  have hload : ∀ t k sg, Latched r (s.ceLoadX n w t k sg fab) := fun _ _ _ => State.ceLoadX_keeps (keep (by decide)) h
  have hdo : ∀ c, Latched r (s.ceDo n.val w c) := fun _ => State.ceDo_keeps (keep (by decide)) h
  have hset : ∀ c, Latched r (s.setCe n.val c) := fun _ => h.setCe
  have htrap : ∀ c v, Latched r (s.ceTrap n.val c v) := fun _ _ => h.ceTrap
  unfold State.ceBaseStep
  extract_lets c rd a b f3 f7 setX illegal
  clear_value f3
  split
  · exact hset _
  · exact hset _
  · exact hjump _ _
  · exact ite (hjump _ _) (htrap _ _)
  · split
    · exact hjump _ _
    · exact hset _
    · exact htrap _ _
  · split
    · exact hload _ _ _
    · exact hload _ _ _
    · exact hload _ _ _
    · exact hload _ _ _
    · exact hload _ _ _
    · exact htrap _ _
  · exact ite (h.ceStore n _ _ fab) (htrap _ _)
  · exact ite (ite (hset _) (htrap _ _)) (ite (ite (hset _) (htrap _ _)) (hset _))
  · exact ite (hset _) (ite (hset _) (ite (hset _) (htrap _ _)))
  · exact ite (hset _) (htrap _ _)
  · exact ite (ite (htrap _ _) (ite (htrap _ _) (ite (hset _) (ite (hset _) (htrap _ _))))) (hdo _)
  · exact ite (State.ceLoad_keeps (keep (by decide)) h fun _ _ hs => hs.setCe) (htrap _ _)
  · exact ite (h.ceStore n _ _ fab) (htrap _ _)
  · exact hdo _
  · exact hdo _
  · exact hdo _
  · exact hdo _
  · exact hdo _
  · exact htrap _ _

theorem ceStep (h : Latched r s) (n : Fin 8) (fab : FabRes) : Latched r (s.ceStep n fab) := by
  unfold State.ceStep
  refine ite ?_ h
  split
  · exact ite h (h.ceBaseStep n _ fab)
  · exact h.ceTrap

theorem cxVst (h : Latched r s) (n : Fin 8) : Answers (Latched r) (execCxVst n s) :=
  ⟨_, rfl, State.cx_keeps (keep (by decide)) h fun _ _ => State.cxData_keeps (keep (by decide)) h fun _ =>
    h.setCe.foldl fun _ _ hs => hs.blockStore _ _ _⟩

/-! ### The safety cores (R309–R328) -/

theorem scStore (h : Latched r s) (core : Fin 4) (thread : Fin 3) (a : Nat) (v : List Byte) :
    Latched r (s.scStore core thread a v) :=
  ite (h.foldl fun _ _ hs => State.imgStore_keeps (keep (by decide)) hs) (h.busStore _ a v)

theorem scPost (h : Latched r s) (core : Fin 4) (thread : Fin 3) (a : Nat) (v : List Byte) (fab : FabRes) :
    Latched r (s.scPost core thread a v fab) := by
  unfold State.scPost
  extract_lets i bad
  refine ite h (ite (h.busStore _ _ _) ?_)
  split
  all_goals
    rename_i u hu
    have hu : Latched r u := keeps_snd hu (keeps_iteSnd h h.fabEnd)
  · exact hu.setBusErr
  · exact hu.blockStore _ _ _

theorem scPrecise (h : Latched r s) {u k a x : Nat} {pc : Word} : Latched r (s.scPrecise u k a x pc) :=
  State.scPrecise_keeps (keep (by decide)) h

theorem scAccess (h : Latched r s) (core : Fin 4) (thread : Fin 3) (acc : ScAcc) (user : Bool) (fab : FabRes) (pc : Word) :
    Latched r (s.scAccess core thread acc user fab pc) := by
  unfold State.scAccess
  refine ite h ?_
  split
  · exact ite (State.scLoad_keeps (keep (by decide)) h) h.scPrecise
  · exact ite (h.scPost core thread _ _ fab) h.scPrecise
  · exact ite (State.scFetch_keeps (keep (by decide)) h) h.scPrecise

theorem irqEntry (h : Latched r s) (core : Fin 4) (thread : Fin 3) (k : Nat) (pc handler sp : Word) (saved : List Word)
    (wr fetch : FabRes) (icnt : Nat) : Latched r (s.irqEntry core thread k pc handler sp saved wr fetch icnt) := by
  have hbad : ∀ u k a f, Latched r (s.useFree.entryRefused u k a f pc) :=
    fun _ _ _ _ => State.entryRefused_keeps (keep (by decide)) h.useFree
  unfold State.irqEntry
  extract_lets u
  split
  · exact h
  refine ite h ?_
  refine ite (State.handlerFetch_keeps (keep (by decide)) (State.irqAccept_keeps (keep (by decide)) h.useFree)) ?_
  refine ite (hbad _ _ _ _) (ite (hbad _ _ _ _) (ite (hbad _ _ _ _) ?_))
  split
  all_goals
    rename_i v hv
    have hv : Latched r v := keeps_snd hv (fabEnd (s := s.useFree) h)
  · exact State.entryRefused_keeps (keep (by decide)) hv
  · exact State.handlerFetch_keeps (keep (by decide)) (setThr (scStore (State.irqAccept_keeps (keep (by decide)) hv) _ _ _ _))

theorem scStop (h : Latched r s) (n : Nat) : Latched r (s.scStop n) := by
  unfold State.scStop
  extract_lets s₁ _ s₂ s₃
  have h₂ : Latched r s₂ := State.setScc_keeps (keep (by decide)) h.put.put
  have h₃ : Latched r s₃ := h₂.foldl fun _ _ hs => hs.irqIf
  exact ite (h₃.bSource _ _) h₃

theorem scCompare (h : Latched r s) {n : Nat} {p : CmpPoint} {own : Nat} {f : Nat → State → State}
    (hf : ∀ c s, Latched r s → Latched r (f c s)) : Latched r (s.scCompare n p own f) := by
  unfold State.scCompare
  extract_lets run s₁ lead s₂ two
  have h₁ : Latched r s₁ := State.lagSeen_keeps (keep (by decide)) h
  have h₂ : Latched r s₂ := State.scCapture_keeps (keep (by decide)) h₁
  refine ite h (ite (hf _ _ (State.scFinal_keeps (keep (by decide)) h₁)) ?_)
  clear_value two
  split
  · exact hf _ _ (State.scOdd_keeps (keep (by decide)) h₂)
  · exact h₂.scStop n

theorem scWrite (h : Latched r s) (core : Fin 4) (p : CmpPoint) (c : Nat) : Latched r (s.scWrite core p c) := by
  unfold State.scWrite
  split
  · exact h.scStore core 0 _ _
  · exact h

theorem amo (h : Latched r s) (core : Fin 4) (op : AmoOp) (held : Bool) (w : Present) (pc : Word) :
    Latched r (s.amo core op held w pc) := by
  unfold State.amo
  extract_lets u a n i c kind give
  refine ite h.scPrecise (ite h (ite h.scPrecise ?_))
  split
  · exact State.setScc_keeps (keep (by decide)) (setThr (State.blockLoad_keeps (keep (by decide)) h))
  · exact ite (setThr (blockStore (State.setScc_keeps (keep (by decide)) h) _ _ _)) (setThr (State.setScc_keeps (keep (by decide)) h))
  · exact setThr (blockStore (State.blockLoad_keeps (keep (by decide)) h) _ _ _)

/-! ### The ASL library (R417–R437) -/

theorem aslStop (h : Latched r s) (core : Fin 4) (code : Nat) : Latched r (s.aslStop core code) :=
  ite h (h.hsmFrom fun _ hs => hs.hsmReq _)

theorem setConn (h : Latched r s) {i : Nat} {c : AslConn} : Latched r (s.setConn i c) := State.setConn_keeps (keep (by decide)) h

theorem aslFrame (h : Latched r s) (core : Fin 4) (x : Nat) (f : AslFrame) : Latched r (s.aslFrame core x f) := by
  refine h.foldl fun u i hu => ?_
  dsimp only
  split
  · exact ite (hu.setConn.aslStop _ _) hu
  · exact hu

theorem aslCheck (h : Latched r s) (core : Fin 4) (x : Nat) : Latched r (s.aslCheck core x) := by
  refine h.foldl fun u i hu => ?_
  dsimp only
  split
  · exact ite hu (hu.setConn.aslStop _ _)
  · exact hu

theorem aslPass (h : Latched r s) (core : Fin 4) (placed : List AslPlace) (sof : BitVec 4) :
    Latched r (s.aslPass core placed sof) := by
  unfold State.aslPass
  extract_lets x _ s₁ s₂ y s₃
  have h₁ : Latched r s₁ := h
  have h₂ : Latched r s₂ := h₁.foldl fun _ _ hs => State.aslPlaced_keeps (keep (by decide)) hs
  have hy : Latched r y.2 := State.aslTake_keeps (keep (by decide)) h₂
  have h₃ : Latched r s₃ := hy.foldl fun _ f hs => hs.aslFrame core x f
  exact ite (State.aslSendAll_keeps (keep (by decide)) (h₃.aslCheck core x)) h

theorem aslDue (h : Latched r s) : Latched r s.aslDue := h.foldl fun _ c hs => ite (hs.aslPass c [] 0) hs

/-! ### An instant (R61, R63) -/

theorem cycleDue (h : Latched r s) : Latched r s.cycleDue := by
  unfold State.cycleDue
  extract_lets s₁ s₂ s₃
  have h₁ : Latched r s₁ :=
    h.foldl fun _ _ hs => ite (State.pwmCycle_keeps (keep (by decide)) (State.pwmPeriodEnd_keeps (keep (by decide)) hs)) hs
  have h₂ : Latched r s₂ := h₁.foldl fun _ _ hs => State.ceWakeDue_keeps (keep (by decide)) (State.posDue_keeps (keep (by decide)) hs)
  have h₃ : Latched r s₃ := State.dcdMeasure_keeps (keep (by decide)) (ite (State.ledgerDue_keeps (keep (by decide)) h₂) h₂)
  have hconv : Latched r (if s₃.isOn 7 then s₃.convDue else s₃) := ite (State.convDue_keeps (keep (by decide)) h₃) h₃
  exact ite (gatesDue (ite (State.tmInstant_keeps (keep (by decide)) hconv.hkChannelEnd.hkRoundEnd) h₃)) h.gatesDue

theorem badgerClock (h : Latched r s) : Latched r s.badgerClock :=
  useFree (ite (State.noteClk_keeps (keep (by decide)) (State.badgerTick_keeps (keep (by decide)) h.badgerDue)) h)

theorem martenClock (h : Latched r s) : Latched r s.martenClock := by
  unfold State.martenClock
  extract_lets s₁
  have h₁ : Latched r s₁ := h.plugDebounced
  exact useFree (ite (martenDue (State.noteClk_keeps (keep (by decide)) (State.setMarten_keeps (keep (by decide)) h₁))) h)

theorem controlCycle (h : Latched r s) : Latched r s.controlCycle := by
  unfold State.controlCycle
  extract_lets s₁ s₂ s₃
  have h₁ : Latched r s₁ := h
  have h₂ : Latched r s₂ := h₁.foldl fun _ _ hs => State.tripOnDue_keeps (keep (by decide)) (State.pwmForceDue_keeps (keep (by decide)) hs)
  have h₃ : Latched r s₃ := h₂.foldl fun _ n hs => hs.ceDeadline n
  exact ite (State.trimStep_keeps (keep (by decide)) (h₃.foldl fun _ n hs => hs.ceLand n)) h

theorem firmware (h : Latched r s) : Latched r s.firmware := by
  unfold State.firmware
  have h₁ : Latched r s.c1Settle.modesScan := modesScan (State.c1Settle_keeps (keep (by decide)) h)
  have h₂ : Latched r s.c1Settle.modesScan.driveScan.capDrainAll :=
    State.capDrainAll_keeps (keep (by decide)) (State.driveScan_keeps (keep (by decide)) h₁)
  exact ite (heartbeatDue (State.kpDue_keeps (keep (by decide)) (State.hspiTake_keeps (keep (by decide)) h₂))) h

theorem idle (h : Latched r s) : Latched r s.idle := by
  unfold State.idle
  have h₁ : Latched r s.cycleDue.networkDue := aslDue (State.ethAgeAll_keeps (keep (by decide)) h.cycleDue)
  have h₂ := State.nextInstant_keeps (keep (by decide)) (State.memoryDue_keeps (keep (by decide)) h₁.supplyDue)
  exact firmware (State.converterClock_keeps (keep (by decide)) (controlCycle (martenClock (badgerClock h₂))))

end Latched

end Sys2Proof.Machine
end

section
/-! SUPPORT. While the thermal shutdown latch is set, no command but a power cycle clears it, and none begins a start (R460). -/

namespace Sys2Proof.Machine

variable {r : Prop} {s : State}

/-- A command that changes neither the supply manager nor the start keeps the latch set by its mask (Laws/KeepExec.lean). -/
theorem Latched.exec_of_mask (h : Latched r s) (c : Instr) (hm : maskOf c &&& 687194767359 = maskOf c) :
    Answers (Latched r) (exec c s) :=
  exec_keeps_mask c (Latched.keep hm) h

theorem Latched.exec_startBegin (h : Latched r s) (v : Nat) : Answers (Latched r) (execStartBegin v s) := by
  refine ⟨_, rfl, ite h ?_⟩
  split
  · exact h.startBegin _
  · exact ite (h.startBegin 0) h

theorem Latched.exec_wdAnswer (h : Latched r s) (ini : Initiator) (n : Fin 8) (val : Word) :
    Answers (Latched r) (execWdAnswer ini n val s) := by
  refine ⟨_, rfl, ?_⟩
  split
  · exact h.hsmFrom fun _ hs => hs.wdAnswer _ _ val
  · exact h.hsmFrom fun _ hs => hs

theorem Latched.exec_scAmoCompare (h : Latched r s) (core : Fin 4) (op : AmoOp) (p : CmpPoint) (held : Bool) :
    Answers (Latched r) (execScAmoCompare core op p held s) := by
  refine ⟨_, rfl, h.scCompare fun c u hu => ?_⟩
  split
  · exact hu.amo core op held _ _
  · exact hu

theorem Latched.exec_lifecycleUnlock (h : Latched r s) (valid : Bool) : Answers (Latched r) (execLifecycleUnlock valid s) := by
  unfold execLifecycleUnlock
  refine ⟨_, rfl, ite ?_ h⟩
  have hd : Latched r s.mramDrain := State.mramDrain_keeps (Latched.keep (by decide)) h
  exact Latched.put (Latched.setStart hd.dropMem.setKcp (by rfl))

theorem Latched.exec_flybackStart (h : Latched r s) (v : Nat) : Answers (Latched r) (execFlybackStart v s) := by
  refine ⟨_, rfl, ite (ite ?_ h.put) h⟩
  exact Latched.setSup h.put.put (by rfl)

/-- Every command but a power cycle keeps the latch set and begins no start. -/
theorem Latched.exec (h : Latched r s) {c : Instr} (hc : c ≠ .powerCycle) : Answers (Latched r) (exec c s) := by
  cases c with
  | powerCycle => exact absurd rfl hc
  | modeEnter q | modeExit q | modeStatus q | setptDrvA q | setptDrvB q | setptWhtA q | setptWhtB q | setptBch q | setptChg q
  | setptDcd q | cfgWrite q | cfgRead q | policyWrite q | policyRead q | osdStart q | osdResult q | stageStatus q | regRead q
  | thermalStatus q | safetyStatus q | captureStart q | captureRead q | forceCold q | actSeq q | actAbort q | actStatus q
  | battLimits q | chgStatus q | logRead q | fwBegin q | fwData q | fwEnd q | fwSelect q | fwInfo q | timeGet q | timeDisc q
  | timeMaster q | close q | renew q => exact ⟨_, rfl, h.request _ _ q⟩
  | customerOpcode op cls q => exact ⟨_, rfl, h.request _ _ q⟩
  | kcpQueueDepart k => exact ⟨_, rfl, ite (h.depart _) h⟩
  | fwVerifyDone ok prod version epoch => exact ⟨_, rfl, ite (h.fwVerified ok prod _ _) h⟩
  | registerWrite ini addr val => exact ⟨_, rfl, h.busStore ini _ _⟩
  | fabricTcmAccess ini w data => exact ⟨_, rfl, h.tcmAccess ini _ data⟩
  | evlRecordWrite => exact ⟨_, rfl, h.evWrite⟩
  | hldHoldsEnd => exact ⟨_, rfl, ite (h.foldl fun _ d hs => hs.domOff d) h⟩
  | prkDwellExpiry => exact ⟨_, rfl, h.prkDwell⟩
  | plugDetLevel level => exact ⟨_, rfl, ite h (Latched.plugShow (h.setSup (by rfl)))⟩
  | plugDebounced => exact ⟨_, rfl, h.plugDebounced⟩
  | mdmPolicyWrite ini sel val => exact ⟨_, rfl, h.busWrite fun _ hs => hs.policyWrite _ val⟩
  | didtDetect g v => exact ⟨_, rfl, h.shortDetect _ true v⟩
  | dsatDetect g v => exact ⟨_, rfl, h.shortDetect _ false v⟩
  | railUndervoltage g neg v => exact ⟨_, rfl, h.railUnder _ neg v⟩
  | pfltClear ini g val pos neg => exact ⟨_, rfl, h.busWrite fun _ hs => ite (hs.pfltWrite _ val _ _) hs⟩
  | scgAscDelayEnd n => exact ⟨_, rfl, h.scgDelayEnd _⟩
  | scgClr ini n val => exact ⟨_, rfl, h.busWrite fun _ hs => hs.scgClear _ val⟩
  | osdctrlStart ini val | osdctrlAbort ini val => exact ⟨_, rfl, h.busWrite fun _ hs => hs.osdCtrlWrite _⟩
  | osdBiasReady => exact ⟨_, rfl, h.osdBiasReady⟩
  | osdStepEnd a b => exact ⟨_, rfl, h.osdStepEnd _ _⟩
  | hkChannelEnd => exact ⟨_, rfl, h.hkChannelEnd⟩
  | hkRoundEnd => exact ⟨_, rfl, h.hkRoundEnd⟩
  | thermalShutdownSwitchoff => exact ⟨_, rfl, h.thermalOff _⟩
  | ceInstruction n fab => exact ⟨_, rfl, h.ceStep n fab⟩
  | ceDeadlineMiss n => exact ⟨_, rfl, h.ceMiss _⟩
  | cxVst n => exact h.cxVst n
  | sealRead d0 d1 d2 u0 u1 u2 => exact ⟨_, rfl, h.sealRead d0 d1 d2 u0 u1 u2⟩
  | badgerClockCheck => exact ⟨_, rfl, h.clockCheck⟩
  | latchSelfCheck => exact ⟨_, rfl, h.latchCheck⟩
  | hsmAck ini val => exact ⟨_, rfl, h.hsmFrom fun _ hs => hs.hsmAck val⟩
  | sinAccept ch => exact ⟨_, rfl, h.sinAccept _⟩
  | sinDiscrepancy ix => exact ⟨_, rfl, h.sinDiscrepancy _⟩
  | bspdPlausibility m => exact ⟨_, rfl, h.bspdPlaus _⟩
  | badgerEvaluation => exact ⟨_, rfl, h.bEvaluate⟩
  | ss1Timeout => exact ⟨_, rfl, h.ss1Timeout⟩
  | hsmEnable ini mask => exact ⟨_, rfl, h.hsmFrom fun _ hs => hs.hsmEnable _⟩
  | hsmRelease ini mask => exact ⟨_, rfl, h.hsmFrom fun _ hs => hs.hsmRelease _⟩
  | hsmSs1 ini | hsmSto ini => exact ⟨_, rfl, h.hsmFrom fun _ hs => hs.bSource _ _⟩
  | hsmRestart ini => exact ⟨_, rfl, h.hsmFrom fun _ hs => hs.hsmRestart⟩
  | wdQuestion n => exact ⟨_, rfl, h.wdQuestion _⟩
  | wdAnswer ini n val => exact h.exec_wdAnswer ini n val
  | stoReadback forced good => exact ⟨_, rfl, ite (ite (h.bSource _ _) h) h⟩
  | scComparison core p => exact ⟨_, rfl, h.scCompare fun c _ hs => hs.scWrite core p c⟩
  | scAmoCompare core op p held => exact h.exec_scAmoCompare core op p held
  | scMemoryAccess core thread acc user fab pc => exact ⟨_, rfl, h.scAccess core thread acc user fab pc⟩
  | scInterruptEntry core thread k pc handler sp saved wr fetch icnt =>
    exact ⟨_, rfl, h.irqEntry core thread k pc handler sp saved wr fetch icnt⟩
  | dmaBlock rd wr => exact ⟨_, rfl, h.dmaBlock rd wr⟩
  | aslServicePass core placed sof => exact ⟨_, rfl, h.aslPass core placed sof⟩
  | vmainLoss ovlo v => exact ⟨_, rfl, ite (h.vmainLoss ovlo) h⟩
  | switchOverComplete => exact ⟨_, rfl, h.switchOver⟩
  | vmainReturn lo hi => exact ⟨_, rfl, ite (h.toVmain 2) h⟩
  | vmainUsable v => exact ⟨_, rfl, ite (Latched.setSup h.put (by rfl)) h⟩
  | flybackStart v => exact h.exec_flybackStart v
  | flybackDrop cause v => exact ⟨_, rfl, ite h (h.flybackDrop _)⟩
  | vhvOvervoltage v => exact ⟨_, rfl, ite h.flybackOff h⟩
  | collapseSwitchOff => exact ⟨_, rfl, h.collapseOff⟩
  | supLock ini val => exact ⟨_, rfl, h.busWrite fun _ hs => hs.supCfgWrite _⟩
  | pdcReqWrite ini val => exact ⟨_, rfl, h.busWrite fun _ hs => hs.pdcWrite ini val⟩
  | supStby ini val => exact ⟨_, rfl, h.busWrite fun _ hs => hs.stbyWrite ini val⟩
  | wakePad level => exact ⟨_, rfl, ite (h.wake 0) h⟩
  | wakeTimer => exact ⟨_, rfl, h.wakeTimer⟩
  | wakePlug => exact ⟨_, rfl, h.wakePlug⟩
  | wakeCan bus => exact ⟨_, rfl, h.wake _⟩
  | syscRstCold ini val | syscRstWarm ini val => exact ⟨_, rfl, h.busWrite fun _ hs => hs.rstWrite ini _⟩
  | hkHeartbeatLoss => exact ⟨_, rfl, h.heartbeatLoss⟩
  | startBegin v => exact h.exec_startBegin v
  | startStep ok alt => exact ⟨_, rfl, h.startStep ok alt⟩
  | startTimeout => exact ⟨_, rfl, h.startTimeout⟩
  | startRetry => exact ⟨_, rfl, h.startRetry _⟩
  | lifecycleUnlock valid => exact h.exec_lifecycleUnlock valid
  | _ => exact h.exec_of_mask _ (by rw [maskOf]; decide)

/-- So does a step, unless a power cycle stands at the front of the queue. -/
theorem Latched.step (h : Latched r s) (hc : s.pending.head? ≠ some .powerCycle) : Answers (Latched r) (step s) := by
  unfold Machine.step
  split
  case h_1 c rest hp =>
    have hq : Latched r { s with pending := rest } := h
    exact hq.exec fun he => hc (by rw [hp, he]; rfl)
  case h_2 => exact ⟨_, rfl, h.idle⟩

/-- Settles O60: a start that runs after the step ran before it, since the latch, found set, stays set and lets none begin. -/
theorem noStartBeginsWhileTheShutdownLatchIsSet : Obligations.NoStartBeginsWhileTheShutdownLatchIsSet := by
  unfold Obligations.NoStartBeginsWhileTheShutdownLatchIsSet
  constructor
  · intro s t hl hc ht
    have h : Latched (s.start.running = true) s := ⟨hl, id⟩
    obtain ⟨u, hu, hheld⟩ := h.step hc
    cases hu.symm.trans ht
    exact hheld
  · exact fun s => ⟨_, rfl, rfl⟩

end Sys2Proof.Machine
end

section
/-! SUPPORT. A step takes the front command, and a command leaves alone the parts that partsOf does not list. -/

namespace Sys2Proof.Machine

/-- The mask of one part (Laws/Keep.lean): the parts' masks begin above those of the queue and of the order code. -/
def Part.bit (p : Part) : Nat := 2 ^ (p.ctorIdx + 2)

/-- The mask of every part but one. -/
def Part.others (p : Part) : Nat := 549755813887 - p.bit

/-- The mask of a list of parts. -/
def partsMask : List Part → Nat
  | [] => 0
  | p :: ps => p.bit ||| partsMask ps

/-- Changes to the other parts leave a part as it is. -/
theorem Part.keep (p : Part) (s : State) : Keep (p.same s) p.others := by
  cases p with
  | regs => exact (keep_regs _).mono (by decide)
  | mem => exact (keep_mem _).mono (by decide)
  | fresh => exact (keep_fresh _).mono (by decide)
  | clk => exact (keep_clk _).mono (by decide)
  | cyc => exact (keep_cyc _).mono (by decide)
  | evl => exact (keep_evl s).mono (by decide)
  | irqs => exact (keep_irqs _).mono (by decide)
  | pwm => exact (keep_pwm _).mono (by decide)
  | domains => exact (keep_on _).mono (by decide)
  | pllA => exact (keep_pllA _).mono (by decide)
  | pllB => exact (keep_pllB _).mono (by decide)
  | busErr => exact (keep_busErr _).mono (by decide)
  | mramW => exact (keep_mramW _).mono (by decide)
  | tbLatch => exact (keep_tbLatch _).mono (by decide)
  | ce => exact (keep_ce _).mono (by decide)
  | fox => exact (keep_fox _).mono (by decide)
  | conv => exact (keep_conv _).mono (by decide)
  | badger => exact (keep_badger _).mono (by decide)
  | marten => exact (keep_marten _).mono (by decide)
  | gates => exact (keep_gates _).mono (by decide)
  | scg => exact (keep_scg _).mono (by decide)
  | osd => exact (keep_osd _).mono (by decide)
  | kcp => exact (keep_kcp _).mono (by decide)
  | modes => exact (keep_modes _).mono (by decide)
  | act => exact (keep_act _).mono (by decide)
  | pos => exact (keep_pos _).mono (by decide)
  | ledger => exact (keep_ledger _).mono (by decide)
  | hk => exact (keep_hk _).mono (by decide)
  | sc => exact (keep_sc _).mono (by decide)
  | scc => exact (keep_scc _).mono (by decide)
  | dma => exact (keep_dma _).mono (by decide)
  | can => exact (keep_can _).mono (by decide)
  | canTm => exact (keep_canTm _).mono (by decide)
  | eth => exact (keep_eth _).mono (by decide)
  | asl => exact (keep_asl _).mono (by decide)
  | sup => exact (keep_sup _).mono (by decide)
  | start => exact (keep_start _).mono (by decide)

theorem Part.bit_land_others {p q : Part} (h : p ≠ q) : p.bit &&& q.others = p.bit := by
  revert h
  cases p <;> cases q <;> decide

theorem partsMask_land_others {p : Part} {ps : List Part} (h : p ∉ ps) : partsMask ps &&& p.others = partsMask ps := by
  induction ps with
  | nil => exact Nat.zero_and _
  | cons q qs ih =>
    obtain ⟨hq, hqs⟩ := not_or.mp fun hm => h (List.mem_cons.mpr hm)
    rw [partsMask, Nat.and_or_distrib_right, Part.bit_land_others (Ne.symm hq), ih hqs]

/-- The mask that the commands' laws are stated with is the mask of the parts that the architect lists. -/
theorem maskOf_eq_partsMask (c : Instr) : maskOf c = partsMask (partsOf c) := by
  cases c <;> rfl

theorem exec_keeps_part {c : Instr} {p : Part} (h : p ∉ partsOf c) (s : State) : Answers (p.same s) (exec c s) := by
  have hm : maskOf c &&& p.others = maskOf c := by
    rw [maskOf_eq_partsMask]
    exact partsMask_land_others h
  exact exec_keeps_mask c ((p.keep s).mono hm) (by cases p <;> rfl)

theorem exec_keeps_queue (c : Instr) (s : State) : Answers (fun t => t.pending = s.pending ∧ t.order = s.order) (exec c s) := by
  obtain ⟨t, ht, hp⟩ := exec_keeps ((keep_pending s.pending).mono (by decide)) c (s := s) rfl
  obtain ⟨u, hu, ho⟩ := exec_keeps ((keep_order s.order).mono (by decide)) c (s := s) rfl
  cases ht.symm.trans hu
  exact ⟨t, ht, hp, ho⟩

/-- Settles O5: each command's law keeps what its mask leaves out, and its mask is that of the parts listed for it. -/
theorem commandsLeaveOtherPartsAlone : Obligations.CommandsLeaveOtherPartsAlone := by
  unfold Obligations.CommandsLeaveOtherPartsAlone
  exact ⟨fun s _ _ h => exec_keeps_part h s, fun s c => exec_keeps_queue c s⟩

/-- Settles O1: the step's match on the queue. -/
theorem stepTakesTheFrontCommand : Obligations.StepTakesTheFrontCommand := by
  unfold Obligations.StepTakesTheFrontCommand
  intro s c rest h
  rw [step, h]

end Sys2Proof.Machine
end

section
/-! SUPPORT. The class checks answer AUTH_FAIL to a keyed opcode of a session without a key (R363, R378). -/

namespace Sys2Proof.Machine

variable {s : State} {q : Req} {x : Ctx}

/-- Sending a message changes nothing but KP's own state. -/
theorem State.kpSend_eq (s : State) (tk : Tok) (notify : Bool) (seq : Nat) (pay : List Byte) :
    s.kpSend tk notify seq pay = { s with kcp := (s.kpSend tk notify seq pay).kcp } := by
  unfold State.kpSend State.emit
  generalize (s.ctxOf (tk.handle / 256)).filter _ = y
  cases y <;> dsimp only <;> split <;> rfl

theorem State.kpSend_fw (s : State) (tk : Tok) (notify : Bool) (seq : Nat) (pay : List Byte) :
    (s.kpSend tk notify seq pay).kcp.fw = s.kcp.fw := by
  unfold State.kpSend State.emit
  generalize (s.ctxOf (tk.handle / 256)).filter _ = y
  cases y <;> dsimp only <;> split <;> rfl

theorem State.emit_sends (s : State) (tport peer : Nat) (l : List (List Byte)) : s.SendsTo (s.emit tport peer l) tport peer l := by
  by_cases h : tport = 11 <;> simp [State.SendsTo, State.emit, State.setKcp, h]

/-- An answer in a live session leaves on the session's transport as its reply. -/
theorem State.answer_sends (hx : s.ctxOf q.ctx.val = some x) (hg : x.gen < 256) (op cls st : Nat) (fields : List Byte) :
    s.Sends (s.answer (Sys2Proof.Machine.tokOf q.ctx.val x op q.seq.toNat cls) st fields) x (replyOf op cls q x st fields) := by
  have hc : (q.ctx.val * 256 + x.gen) / 256 = q.ctx.val := by omega
  have hm : (q.ctx.val * 256 + x.gen) % 256 = x.gen := by omega
  have hy : (some x).filter (fun c => c.gen == x.gen) = some x := Option.filter_eq_some_iff.mpr ⟨rfl, beq_self_eq_true _⟩
  have he : s.answer (Sys2Proof.Machine.tokOf q.ctx.val x op q.seq.toNat cls) st fields
      = (s.setCtx q.ctx.val { x with restored := false }).emit x.tport x.peer (replyOf op cls q x st fields) := by
    simp only [State.answer, State.kpSend, Sys2Proof.Machine.tokOf, hc, hm, hx, hy]
    rfl
  rw [he]
  exact State.emit_sends _ _ _ _

theorem State.inc_ctxOf (s : State) (f : Fld) (c : Nat) : (s.inc f).ctxOf c = s.ctxOf c := by
  rw [s.inc_eq f]
  rfl

theorem State.onlyRegs_inc (s : State) (f : Fld) : s.OnlyRegs (s.inc f) [f.reg.addr] := by
  unfold State.inc
  split
  · exact s.onlyRegs_put f _
  · exact State.OnlyRegs.refl _ _

/-- The two checks that refuse a keyed opcode on SLOT 0xF answer the same. -/
theorem State.classRefusal_keyed {tk : Tok} (hcls : tk.cls < 6) (hkey : opKeyed tk.op = true) (hslot : x.slot = 0xF) :
    s.classRefusal x tk = some (s.authFail tk) := by
  unfold State.classRefusal
  rw [if_neg (by omega), hkey, hslot]
  exact ite_self _

/-- A request that its class checks refuse does nothing else. -/
theorem State.request_classRefused (h : s.Live q x) {op cls : Nat} {t : State}
    (ht : s.classRefusal x (Sys2Proof.Machine.tokOf q.ctx.val x op q.seq.toNat cls) = some t) : s.request op cls q = t := by
  obtain ⟨hrun, hx, hlive, _, hexp⟩ := h
  have hdue : s.leaseDue q.ctx.val = false := by
    simp [State.leaseDue, hx]
    omega
  simp [State.request, hrun, hdue, hx, hlive, ht]

/-- AUTH_FAIL in a live session: the reply and the count, and nothing else but KP's note of the message. -/
theorem State.authFail_does (h : s.Live q x) (op cls : Nat) {t : State}
    (ht : s.authFail (Sys2Proof.Machine.tokOf q.ctx.val x op q.seq.toNat cls) = t) :
    s.Sends t x (replyOf op cls q x stAuthFail []) ∧
    t.get KCP_ERR0_AUTHFAIL = min (s.get KCP_ERR0_AUTHFAIL + 1) 65535 ∧
    t.start = s.start ∧
    t.kcp.fw = s.kcp.fw ∧
    s.OnlyRegs { t with kcp := s.kcp } [KCP_ERR0.addr] := by
  obtain ⟨_, hx, _, hg, _⟩ := h
  subst ht
  have hkcp : (s.inc KCP_ERR0_AUTHFAIL).kcp = s.kcp := by rw [State.inc_eq]
  have hstart : (s.inc KCP_ERR0_AUTHFAIL).start = s.start := by rw [State.inc_eq]
  unfold State.authFail
  refine ⟨?_, ?_, ?_, ?_, ?_⟩
  · have hsend := State.answer_sends ((s.inc_ctxOf KCP_ERR0_AUTHFAIL _).trans hx) hg op cls stAuthFail []
    simpa only [State.Sends, State.SendsTo, hkcp] using hsend
  · rw [State.answer, State.kpSend_eq]
    exact State.get_inc_self (by decide) (by decide)
  · rw [State.answer, State.kpSend_eq]
    exact hstart
  · rw [State.answer, State.kpSend_fw, hkcp]
  · have hback : { (s.inc KCP_ERR0_AUTHFAIL).answer (Sys2Proof.Machine.tokOf q.ctx.val x op q.seq.toNat cls) stAuthFail with
        kcp := s.kcp } = s.inc KCP_ERR0_AUTHFAIL := by
      rw [State.answer, State.kpSend_eq, ← hkcp]
    rw [hback]
    exact s.onlyRegs_inc _

/-- A keyed opcode in a live session opened with SLOT = 0xF is answered AUTH_FAIL. -/
theorem State.request_keyed_slotless (h : s.Live q x) (hslot : x.slot = 0xF) {op cls : Nat} (hkey : opKeyed op = true)
    (hcls : cls < 6) :
    s.Sends (s.request op cls q) x (replyOf op cls q x stAuthFail []) ∧
    (s.request op cls q).get KCP_ERR0_AUTHFAIL = min (s.get KCP_ERR0_AUTHFAIL + 1) 65535 ∧
    (s.request op cls q).start = s.start ∧
    (s.request op cls q).kcp.fw = s.kcp.fw ∧
    s.OnlyRegs { s.request op cls q with kcp := s.kcp } [KCP_ERR0.addr] :=
  s.authFail_does h op cls (State.request_classRefused h (State.classRefusal_keyed hcls hkey hslot)).symm

theorem opKeyed_iff (op : Nat) : opKeyed op = true ↔ op ∈ [0x0509, 0x0901, 0x0902, 0x0903, 0x0904] := by
  simp [opKeyed]
  omega

/-- Settles O51: the class check refuses each of the five keyed opcodes before anything of it runs. -/
theorem keyedOpcodesNeedAKeyedSession : Obligations.KeyedOpcodesNeedAKeyedSession := by
  unfold Obligations.KeyedOpcodesNeedAKeyedSession
  exact ⟨fun _ _ _ h hs => ⟨_, rfl, State.request_keyed_slotless h hs rfl (by decide)⟩,
    fun _ _ _ h hs => ⟨_, rfl, State.request_keyed_slotless h hs rfl (by decide)⟩,
    fun _ _ _ h hs => ⟨_, rfl, State.request_keyed_slotless h hs rfl (by decide)⟩,
    fun _ _ _ h hs => ⟨_, rfl, State.request_keyed_slotless h hs rfl (by decide)⟩,
    fun _ _ _ h hs => ⟨_, rfl, State.request_keyed_slotless h hs rfl (by decide)⟩, opKeyed_iff⟩

end Sys2Proof.Machine
end

section
/-! SUPPORT. The statements about firmware transfers, captures and customer mailboxes fail where memory lists a byte twice: a write of 0
takes one of its two entries away, and the byte then reads what the other one holds. -/

namespace Sys2Proof.Machine

/-- A context in its use 7, opened with SLOT = 3 on transport 0: every class is granted, and sequence 10 is the highest. -/
def grantedAll : Ctx := ⟨7, true, false, 0, 9, 3, none, 0x3F, 1000, 10 ^ 8, 10, [(10, 0)], 1, false, []⟩

/-- KP runs on D4, with that session open as context 5, and memory lists the byte at a twice. -/
def kpListedTwice (a : Nat) (k : Kcp) : State :=
  { State.reset with
    mem := [(a, 1), (a, 1)], on := 0x10, pllA := true, start := { State.reset.start with kp := true },
    kcp := { k with ctxs := [(5, grantedAll)] } }

/-! ### Firmware -/

/-- The session's update of 64 bytes, which go to the first bytes of the bank that does not run. -/
def updateListedTwice : State := kpListedTwice 0x02000000 { Kcp.idle with fw := some ⟨0x507, 64, [], none⟩ }

/-- FW_DATA with 64 bytes of 0 at offset 0. -/
def zeroData : Req := ⟨5, 11, List.replicate 68 0⟩

theorem updateListedTwice_ready : updateListedTwice.Ready 0x0902 5 zeroData grantedAll := by decide +kernel

theorem updateListedTwice_rdByte : (updateListedTwice.request 0x0902 5 zeroData).rdByte 0x02000000 = 1 := by decide +kernel

/-- Refutes O50: FW_DATA is let through, but the first byte that it writes reads 1. The statement leaves out that memory is in its canonical
form (`Memory.wf`), which reset has and every step keeps. -/
theorem not_firmwareRequestsUpdateTheOtherBank : ¬ Obligations.FirmwareRequestsUpdateTheOtherBank := by
  unfold Obligations.FirmwareRequestsUpdateTheOtherBank
  rintro ⟨-, -, -, -, -, -, -, -, hdata, -⟩
  obtain ⟨t, ht, hread, -⟩ := hdata updateListedTwice zeroData grantedAll ⟨0x507, 64, [], none⟩ rfl updateListedTwice_ready rfl rfl
    (by decide) (by decide) (.inr rfl)
  obtain rfl : updateListedTwice.request 0x0902 5 zeroData = t := Host.Outcome.next.inj ht
  exact absurd ((List.cons.inj hread).1.symm.trans updateListedTwice_rdByte) (by decide)

/-! ### Captures -/

/-- The capture of a session that has ended: unit 0 is idle with a word of 0 in its FIFO, and no word has reached the buffer. -/
def lostCapture : CapReq := ⟨0, ⟨0x607, 0, 9, none, 11, 0x0507, 4, 0⟩, true, 0, false⟩

/-- That capture, with its buffer at 0x2010_0000. -/
def captureListedTwice : State :=
  { kpListedTwice 0x20100000 { Kcp.idle with cfg := [(0x200, 0x2010)], caps := [lostCapture] } with
    conv := { Conv.idle with caps := [[0], [], [], []] } }

theorem captureListedTwice_capBase : captureListedTwice.capBase = 0x20100000 := by decide +kernel

theorem captureListedTwice_rdByte : (captureListedTwice.captureComplete 0).rdByte 0x20100000 = 1 := by decide +kernel

/-- Refutes O48: the word of 0 reaches the buffer when the capture completes, but its first byte reads 1. The statement leaves out that
memory is in its canonical form (`Memory.wf`), which reset has and every step keeps. -/
theorem not_capturesLogsAndForceCold : ¬ Obligations.CapturesLogsAndForceCold := by
  unfold Obligations.CapturesLogsAndForceCold
  rintro ⟨-, -, -, -, -, -, hlost, -⟩
  obtain ⟨t, ht, -, hread, -⟩ := hlost captureListedTwice 0 lostCapture rfl rfl (.inl rfl) rfl rfl rfl rfl rfl rfl
  obtain rfl : captureListedTwice.captureComplete 0 = t := Host.Outcome.next.inj ht
  rw [captureListedTwice_capBase] at hread
  exact absurd ((List.cons.inj hread).1.symm.trans captureListedTwice_rdByte) (by decide)

/-! ### Customer mailboxes -/

/-- Mailbox 0 is enabled for the opcodes 0xF000 to 0xF0FF, and the byte of its slot 0 that the first payload byte goes to is listed
twice. -/
def mailboxListedTwice : State :=
  ((kpListedTwice 0x70110020 Kcp.idle).put (MBX_CFG_EN 0) 1).wr (KCP_CUSTMAP 0) 8

/-- A customer request whose payload is one byte of 0. -/
def zeroPayload : Req := ⟨5, 11, [0]⟩

theorem mailboxListedTwice_open : mailboxListedTwice.Open 0xF000 4 zeroPayload grantedAll := by decide +kernel

theorem mailboxListedTwice_custMbx : mailboxListedTwice.custMbx 0xF000 = some 0 := by decide +kernel

theorem mailboxListedTwice_rdByte : (mailboxListedTwice.request 0xF000 4 zeroPayload).rdByte 0x70110020 = 1 := by decide +kernel

/-- Refutes O45: the request of class C4 is placed in slot 0, but its payload byte reads 1 there. The statement leaves out that memory
is in its canonical form (`Memory.wf`), which reset has and every step keeps. -/
theorem not_queuesDeadlinesAndMailboxes : ¬ Obligations.QueuesDeadlinesAndMailboxes := by
  unfold Obligations.QueuesDeadlinesAndMailboxes
  rintro ⟨-, -, -, -, -, -, -, -, -, -, -, -, -, -, hplaced, -⟩
  have henabled : (mailboxListedTwice.custMbx 0xF000).isSome = true := congrArg Option.isSome mailboxListedTwice_custMbx
  obtain ⟨t, ht, -, -, -, -, hpay, -⟩ := hplaced mailboxListedTwice 0 4 zeroPayload grantedAll 0 0 rfl (by decide)
    mailboxListedTwice_open (by decide) (by decide +kernel) (by decide) henabled rfl (by decide) mailboxListedTwice_custMbx rfl
  obtain rfl : mailboxListedTwice.request 0xF000 4 zeroPayload = t := Host.Outcome.next.inj ht
  exact absurd ((List.cons.inj hpay).1.symm.trans mailboxListedTwice_rdByte) (by decide)

end Sys2Proof.Machine
end
